-- ==== Sys2Proof/Word.lean ====
section
/-!
DEFINITION. The word types of the ML-9840 (spec/00_scope.md R4, R5) and their plainest arithmetic.
-/
namespace Sys2Proof

/-- A byte is 8 bits (R4). -/
abbrev Byte := BitVec 8
/-- A word is 32 bits (R4). -/
abbrev Word := BitVec 32
/-- A double word is 64 bits (R4). -/
abbrev DWord := BitVec 64
/-- Vector register number, `v0` to `v63` (R13). -/
abbrev VReg := BitVec 6
/-- Scalar register number, `s0` to `s31` (R17). -/
abbrev SReg := BitVec 5
/-- Predicate number, `q0` to `q7` (R13). -/
abbrev QReg := BitVec 3
/-- Index register number, `x0` to `x7` (R13). -/
abbrev XReg := BitVec 3
/-- The lookahead field (R52). -/
abbrev La := BitVec 4
/-- A partition number, 0 to 7 (R345). -/
abbrev PartNo := BitVec 3

/-- Sparse storage of `w`-bit cells by number: numbers strictly rising, no cell equal to what an unlisted one holds. -/
abbrev Cells (w : Nat) := List (Nat × BitVec w)
/-- A finite table by number: numbers strictly rising. -/
abbrev Table (α : Type) := List (Nat × α)

/-- Bits [hi:lo] of a natural number (R5). -/
def bitsOf (x hi lo : Nat) : Nat := (x / 2 ^ lo) % 2 ^ (hi - lo + 1)

/-- Bit n of a natural number (R5). -/
def bitOf (x n : Nat) : Bool := x / 2 ^ n % 2 == 1

/-- The signed value of the low `w` bits of a natural number. -/
def sextNat (w x : Nat) : Int :=
  let y := x % 2 ^ w
  if y < 2 ^ (w - 1) then y else (y : Int) - (2 ^ w : Nat)

/-- The integer x modulo 2^w, as a natural number. -/
def wrapNat (w : Nat) (x : Int) : Nat := (x % ((2 ^ w : Nat) : Int)).toNat

end Sys2Proof
end

