-- ==== Sys2Proof/Machine/Cells.lean ====
section
/-!
DEFINITION. Operations on sparse cells and tables (the canonical form of memory and register storage), and the bit-field
helpers that every meaning uses.
-/
namespace Sys2Proof.Machine

/-! ## Association lists with rising keys -/

/-- The entry of a key, if it is listed. -/
def Table.get? {α : Type} (t : Table α) (k : Nat) : Option α :=
  match t with
  | [] => none
  | (k', x) :: rest => if k' = k then some x else Table.get? rest k

/-- Remove every entry of a key. -/
def Table.erase {α : Type} (t : Table α) (k : Nat) : Table α :=
  match t with
  | [] => []
  | (k', x) :: rest => if k' = k then Table.erase rest k else (k', x) :: Table.erase rest k

/-- Put an entry before the first greater key. -/
def Table.place {α : Type} (t : Table α) (k : Nat) (x : α) : Table α :=
  match t with
  | [] => [(k, x)]
  | (k', y) :: rest => if k < k' then (k, x) :: (k', y) :: rest else (k', y) :: Table.place rest k x

/-- Set the entry of a key. -/
def Table.set {α : Type} (t : Table α) (k : Nat) (x : α) : Table α := Table.place (Table.erase t k) k x

/-- The entry of a key, or a default. -/
def Table.getD {α : Type} (t : Table α) (k : Nat) (d : α) : α := (Table.get? t k).getD d

/-- Whether a key is listed. -/
def Table.has {α : Type} (t : Table α) (k : Nat) : Bool := (Table.get? t k).isSome

/-- Change the entry of a key, if it is listed. -/
def Table.modify {α : Type} (t : Table α) (k : Nat) (f : α → α) : Table α :=
  t.map fun e => if e.1 = k then (e.1, f e.2) else e

/-- The keys. -/
def Table.keys {α : Type} (t : Table α) : List Nat := t.map Prod.fst

/-- The entries that satisfy a test. -/
def Table.keep {α : Type} (t : Table α) (f : Nat → α → Bool) : Table α := t.filter fun e => f e.1 e.2

/-- The keys are strictly rising. -/
def Table.sorted {α : Type} (t : Table α) : Bool :=
  match t with
  | [] => true
  | [_] => true
  | a :: b :: rest => decide (a.1 < b.1) && Table.sorted (b :: rest)

/-- What cell `k` holds, where an unlisted cell holds `d`. -/
def Cells.get {w : Nat} (d : BitVec w) (c : Cells w) (k : Nat) : BitVec w := Table.getD c k d

/-- Set cell `k`; a cell that comes to hold `d` is not listed. -/
def Cells.set {w : Nat} (d : BitVec w) (c : Cells w) (k : Nat) (x : BitVec w) : Cells w :=
  if x = d then Table.erase c k else Table.set c k x

/-- The canonical form: keys strictly rising, and no cell that holds `d`. -/
def Cells.wf {w : Nat} (d : BitVec w) (c : Cells w) : Bool := Table.sorted c && c.all fun e => e.2 != d

/-- Set cells `k`, `k + 1`, … to a list of values. -/
def Cells.setMany {w : Nat} (d : BitVec w) (c : Cells w) (k : Nat) : List (BitVec w) → Cells w
  | [] => c
  | x :: xs => Cells.setMany d (Cells.set d c k x) (k + 1) xs

/-- What cells `k` to `k + n − 1` hold. -/
def Cells.getMany {w : Nat} (d : BitVec w) (c : Cells w) (k n : Nat) : List (BitVec w) :=
  (List.range n).map fun j => Cells.get d c (k + j)

/-- Every cell from `lo` to `hi − 1` holds `d`. -/
def Cells.clear {w : Nat} (c : Cells w) (lo hi : Nat) : Cells w :=
  c.filter fun e => decide (e.1 < lo) || decide (hi ≤ e.1)

/-! ## Sets of numbers with rising elements -/

/-- Put a number into a rising list. -/
def insertNum (l : List Nat) (k : Nat) : List Nat :=
  match l with
  | [] => [k]
  | x :: rest => if k < x then k :: x :: rest else if k = x then x :: rest else x :: insertNum rest k

/-- Take a number out. -/
def removeNum (l : List Nat) (k : Nat) : List Nat := l.filter fun x => x != k

/-- Take out the numbers from `lo` to `hi − 1`. -/
def removeRange (l : List Nat) (lo hi : Nat) : List Nat := l.filter fun x => decide (x < lo) || decide (hi ≤ x)

/-! ## Bytes and fields -/

/-- The little-endian number of a list of bytes (R4). -/
def leNat : List Byte → Nat
  | [] => 0
  | b :: rest => b.toNat + 256 * leNat rest

/-- The `n` low bytes of a number, little-endian (R4). -/
def leBytes (n x : Nat) : List Byte :=
  match n with
  | 0 => []
  | n + 1 => BitVec.ofNat 8 x :: leBytes n (x / 256)

/-- Bits [lo + len − 1 : lo] of a double word. -/
def field (x : DWord) (lo len : Nat) : Nat := x.toNat / 2 ^ lo % 2 ^ len

/-- The number of a Boolean. -/
def bit (b : Bool) : Nat := if b then 1 else 0

/-- A 64-bit address is canonical: bits [63:56] equal bit 55 (R17). -/
def canonical (va : DWord) : Bool :=
  va.toNat / 2 ^ 55 == 0 || va.toNat / 2 ^ 55 == 511

/-- A double word from two words, the low one first (R15). -/
def dword (lo hi : Word) : DWord := BitVec.ofNat 64 (lo.toNat + hi.toNat * 2 ^ 32)

/-- The low and high words of a double word. -/
def loWord (x : DWord) : Word := BitVec.ofNat 32 x.toNat
def hiWord (x : DWord) : Word := BitVec.ofNat 32 (x.toNat / 2 ^ 32)

/-- The sector-, line- or page-wise numbers that a byte range touches. -/
def touched (size addr len : Nat) : List Nat :=
  (List.range ((addr + len + size - 1) / size - addr / size)).map fun j => addr / size + j

/-- Sort by a key, keeping the order of equal keys. -/
def insertBy {α : Type} (key : α → Nat) (x : α) : List α → List α
  | [] => [x]
  | y :: ys => if key x < key y then x :: y :: ys else y :: insertBy key x ys

/-- A list in rising order of a key; elements of one key keep their order. -/
def sortBy {α : Type} (key : α → Nat) (l : List α) : List α := l.foldl (fun acc x => insertBy key x acc) []

/-- A list without its later repeats. -/
def dedup {α : Type} [BEq α] (l : List α) : List α :=
  (l.foldl (fun acc x => if acc.contains x then acc else x :: acc) []).reverse

end Sys2Proof.Machine
end

