-- ==== Sys2Proof/Machine/Float.lean ====
section
/-!
DEFINITION. Number formats, NaNs, rounding and exact arithmetic (spec/03_number_formats.md, spec/05_group_float.md). A finite
value is a sign, a significand and a binary exponent, so every sum and product is formed exactly and narrowed once.
-/
namespace Sys2Proof.Machine

/-- A floating format of R70. -/
structure Fmt where
  /-- Exponent bits and fraction bits. -/
  eb : Nat
  fb : Nat
  /-- It has no infinity, and one NaN fraction (E4M3). -/
  e4m3 : Bool
  deriving DecidableEq, Repr

def f64 : Fmt := ⟨11, 52, false⟩
def f32 : Fmt := ⟨8, 23, false⟩
def f16 : Fmt := ⟨5, 10, false⟩
def bf16 : Fmt := ⟨8, 7, false⟩
def e4m3 : Fmt := ⟨4, 3, true⟩
def e5m2 : Fmt := ⟨5, 2, false⟩
def a56 : Fmt := ⟨11, 44, false⟩

/-- Bits of a value of the format. -/
def Fmt.width (f : Fmt) : Nat := 1 + f.eb + f.fb
/-- The exponent bias (R70). -/
def Fmt.bias (f : Fmt) : Nat := 2 ^ (f.eb - 1) - 1
/-- The exponent of the least normal value. -/
def Fmt.emin (f : Fmt) : Int := 1 - f.bias
/-- The weight of the sign bit. -/
def Fmt.signBit (f : Fmt) : Nat := 2 ^ (f.eb + f.fb)
/-- The greatest finite value, as an encoding without its sign (R70). -/
def Fmt.maxBits (f : Fmt) : Nat := if f.e4m3 then 0x7E else (2 ^ f.eb - 1) * 2 ^ f.fb - 1
/-- +∞, or the NaN of E4M3, without its sign. -/
def Fmt.topBits (f : Fmt) : Nat := if f.e4m3 then 0x7F else (2 ^ f.eb - 1) * 2 ^ f.fb
/-- The quiet bit (R71). -/
def Fmt.quiet (f : Fmt) : Nat := 2 ^ (f.fb - 1)
/-- 8-bit formats carry no cause code (R73). -/
def Fmt.narrow (f : Fmt) : Bool := decide (f.fb < 4)

/-- A sign as a weight. -/
def Fmt.sign (f : Fmt) (neg : Bool) : Nat := if neg then f.signBit else 0

/-- A value of a format: a NaN with its fraction, an infinity, or (−1)^neg × m × 2^e. -/
inductive FVal where
  | nan (neg : Bool) (frac : Nat)
  | inf (neg : Bool)
  | fin (neg : Bool) (m : Nat) (e : Int)
  deriving DecidableEq, Repr

/-- Decode an encoding (R70). -/
def unpack (f : Fmt) (bits : Nat) : FVal :=
  let neg := bits / f.signBit % 2 == 1
  let ex := bits / 2 ^ f.fb % 2 ^ f.eb
  let fr := bits % 2 ^ f.fb
  if f.e4m3 && ex == 15 && fr == 7 then .nan neg fr
  else if !f.e4m3 && ex == 2 ^ f.eb - 1 then (if fr == 0 then .inf neg else .nan neg fr)
  else if ex == 0 then .fin neg fr (f.emin - f.fb)
  else .fin neg (2 ^ f.fb + fr) ((ex : Int) - f.bias - f.fb)

def FVal.isNan : FVal → Bool
  | .nan _ _ => true
  | _ => false
def FVal.isInf : FVal → Bool
  | .inf _ => true
  | _ => false
def FVal.isZero : FVal → Bool
  | .fin _ m _ => m == 0
  | _ => false
def FVal.neg : FVal → Bool
  | .nan n _ => n
  | .inf n => n
  | .fin n _ _ => n
/-- The value with the other sign. -/
def FVal.negate : FVal → FVal
  | .nan n p => .nan n p
  | .inf n => .inf (!n)
  | .fin n m e => .fin (!n) m e
/-- A subnormal encoding. -/
def subnormal (f : Fmt) (bits : Nat) : Bool := bits / 2 ^ f.fb % 2 ^ f.eb == 0 && bits % 2 ^ f.fb != 0
/-- An operand as it is read: under FTZ a subnormal reads as zero of its sign (R89). -/
def readF (f : Fmt) (ftz : Bool) (bits : Nat) : FVal :=
  match unpack f bits with
  | .fin n m e => if ftz && subnormal f bits then .fin n 0 e else .fin n m e
  | v => v

/-! ## Rounding (R87 to R89) -/

/-- The rounding modes of R20. -/
inductive Rnd where
  | rne | rtz | rup | rdn | rna | stoch
  deriving DecidableEq, Repr

/-- A rounding mode by its code; the codes 6 and 7 cannot be held (R21). -/
def Rnd.ofCode (c : Nat) : Rnd :=
  match c with
  | 0 => .rne | 1 => .rtz | 2 => .rup | 3 => .rdn | 4 => .rna | 5 => .stoch | _ => .rne

/-- STOCH read as RNE (R90). -/
def Rnd.plain (r : Rnd) : Rnd := if r = .stoch then .rne else r

/-- Round m × 2^e toward multiples of 2^q: the multiple, and whether it is exact (R87). `draw` is the comparison word of
STOCH. -/
def roundAt (r : Rnd) (draw : Nat) (neg : Bool) (m : Nat) (e q : Int) : Nat × Bool :=
  if q ≤ e then (m * 2 ^ (e - q).toNat, true)
  else
    let u := 2 ^ (q - e).toNat
    let t := m / u
    let d := m % u
    if d = 0 then (t, true)
    else
      let up := match r with
        | .rne => decide (u < 2 * d) || (2 * d == u && t % 2 == 1)
        | .rtz => false
        | .rup => !neg
        | .rdn => neg
        | .rna => decide (u ≤ 2 * d)
        | .stoch => decide (draw < d * 65536 / u)
      (if up then t + 1 else t, false)

/-- Flags as STAT bits (R26). -/
def fSAT : Nat := 1
def fINX : Nat := 2
def fOVF : Nat := 4
def fUDF : Nat := 8
def fDZ : Nat := 16
def fINV : Nat := 32

/-- How a result is narrowed: MODE's RND, FTZ, NANM and SAT, and the comparison word of STOCH. -/
structure Env where
  rnd : Rnd
  ftz : Bool
  nanm : Bool
  sat : Bool
  draw : Nat
  deriving DecidableEq, Repr

/-- Encode t × 2^q, where t has at most fb + 1 bits, or fb + 2 bits after a carry. -/
def packF (f : Fmt) (neg : Bool) (t : Nat) (q : Int) : Nat :=
  let (t, q) := if 2 ^ (f.fb + 1) ≤ t then (t / 2, q + 1) else (t, q)
  let mag := if t < 2 ^ f.fb then t else (q + f.fb + f.bias).toNat * 2 ^ f.fb + (t - 2 ^ f.fb)
  f.sign neg + mag

/-- The result of an overflow (R88): where E4M3 takes its NaN, MODE.NANM = 1 gives it sign 0 (R75). -/
def overflow (f : Fmt) (v : Env) (neg : Bool) : Nat × Nat :=
  if f.narrow && v.sat then (f.sign neg + f.maxBits, fSAT + fINX)
  else
    let big := match v.rnd with
      | .rne | .rna => true
      | .rtz | .stoch => false
      | .rup => !neg
      | .rdn => neg
    (if big && f.e4m3 && v.nanm then f.topBits else f.sign neg + (if big then f.topBits else f.maxBits), fOVF + fINX)

/-- The value of an encoding without sign, as significand and exponent. -/
def magnitude (f : Fmt) (bits : Nat) : Nat × Int :=
  match unpack f bits with
  | .fin _ m e => (m, e)
  | _ => (0, 0)

/-- m × 2^e < m' × 2^e'. -/
def lessMag (m : Nat) (e : Int) (m' : Nat) (e' : Int) : Bool :=
  if e ≤ e' then decide (m < m' * 2 ^ (e' - e).toNat) else decide (m * 2 ^ (e - e').toNat < m')

/-- Round the exact (−1)^neg × m × 2^e, m nonzero, to a format: the encoding and the flags (R87, R88, R89). -/
def roundF (f : Fmt) (v : Env) (neg : Bool) (m : Nat) (e : Int) : Nat × Nat :=
  let qU : Int := e + m.log2 - f.fb
  let (tU, exU) := roundAt v.rnd v.draw neg m e qU
  let (mm, me) := magnitude f f.maxBits
  let isOver := if v.rnd = .stoch then lessMag mm me m e else lessMag mm me tU qU
  if isOver then overflow f v neg
  else
    let tiny := lessMag tU qU 1 f.emin
    if tiny && v.ftz then (f.sign neg, fUDF + fINX)
    else if qU < f.emin - f.fb then
      let (t, ex) := roundAt v.rnd v.draw neg m e (f.emin - f.fb)
      (packF f neg t (f.emin - f.fb), if ex then 0 else fINX + if tiny then fUDF else 0)
    else (packF f neg tU qU, if exU then 0 else fINX)

/-! ## NaNs (R73 to R76) -/

/-- A generated NaN with a cause code (R73, R75). -/
def genNan (f : Fmt) (nanm : Bool) (code : Nat) : Nat × Nat :=
  (if f.e4m3 then 0x7F else f.topBits + f.quiet + (if nanm || f.narrow then 0 else code), fINV)

/-- A NaN carried into a format (R76): its sign and code; the fraction bits [3:0] of 8-bit formats do not exist. -/
def carryNan (f : Fmt) (nanm : Bool) (neg : Bool) (code : Nat) : Nat :=
  if nanm then (genNan f true 0).1
  else if f.e4m3 then f.sign neg + 0x7F
  else f.sign neg + f.topBits + f.quiet + (if f.narrow then 0 else code % 16)

/-- A NaN propagated within its format (R74, R75). -/
def keepNan (f : Fmt) (nanm : Bool) (neg : Bool) (frac : Nat) : Nat :=
  if nanm then (genNan f true 0).1
  else if f.e4m3 then f.sign neg + 0x7F
  else f.sign neg + f.topBits + (if frac / f.quiet % 2 == 1 then frac else frac + f.quiet)

/-! ## Exact sums and products -/

/-- A signed dyadic number i × 2^e. -/
abbrev Dy := Int × Int

def FVal.dy : FVal → Dy
  | .fin n m e => (if n then -(m : Int) else m, e)
  | _ => (0, 0)

def Dy.add (a b : Dy) : Dy :=
  let e := min a.2 b.2
  (a.1 * 2 ^ (a.2 - e).toNat + b.1 * 2 ^ (b.2 - e).toNat, e)
def Dy.mul (a b : Dy) : Dy := (a.1 * b.1, a.2 + b.2)
def Dy.neg (a : Dy) : Dy := (-a.1, a.2)
def Dy.sub (a b : Dy) : Dy := Dy.add a (Dy.neg b)
def Dy.sum (l : List Dy) : Dy := l.foldl Dy.add (0, 0)

/-- The sign of an exact zero sum of the given terms, each a sign and whether it is zero (R71). -/
def zeroSign (r : Rnd) (terms : List (Bool × Bool)) : Bool :=
  if terms.all (fun t => t.2) && terms.all (fun t => t.1) then true
  else if terms.all (fun t => t.2) && terms.all (fun t => !t.1) then false
  else r = .rdn

/-- Round an exact dyadic number; a zero takes the given sign. -/
def roundDy (f : Fmt) (v : Env) (zneg : Bool) (x : Dy) : Nat × Nat :=
  if x.1 = 0 then (f.sign zneg, 0) else roundF f v (decide (x.1 < 0)) x.1.natAbs x.2

/-- Product of two values that are no NaN: none for 0 × ∞ (cause 3). -/
def mulF (a b : FVal) : Option FVal :=
  if (a.isInf && b.isZero) || (a.isZero && b.isInf) then none
  else if a.isInf || b.isInf then some (.inf (a.neg != b.neg))
  else match a, b with
    | .fin n m e, .fin n' m' e' => some (.fin (n != n') (m * m') (e + e'))
    | _, _ => none

/-- The sum of values that are no NaN, rounded once: infinities of both signs give cause 2 (R71, R126, R127, R134). -/
def sumF (f : Fmt) (v : Env) (terms : List FVal) : Nat × Nat :=
  let infs := terms.filter FVal.isInf
  match infs with
  | [] => roundDy f v (zeroSign v.rnd (terms.map fun t => (t.neg, t.isZero))) (Dy.sum (terms.map FVal.dy))
  | t :: rest => if rest.all (fun u => u.neg == t.neg) then (f.sign t.neg + f.topBits, 0) else genNan f v.nanm 2

/-- The first NaN of a list of values. -/
def firstNan : List FVal → Option (Bool × Nat)
  | [] => none
  | .nan n p :: _ => some (n, p)
  | _ :: rest => firstNan rest

/-! ## The helpers RN56 and RN32 (R84) and mix32 (R91) -/

/-- Round to nearest, ties to even, subnormals kept, canonical handling of specials left to the caller. -/
def nearestEnv : Env := ⟨.rne, false, false, false, 0⟩

/-- RN of an exact sum of A56, binary32 or product terms into a format, NaNs carried (R84). -/
def rnSum (f : Fmt) (terms : List FVal) : Nat :=
  match firstNan terms with
  | some (n, p) => carryNan f false n (p % 16)
  | none => (sumF f nearestEnv terms).1

/-- The mixing function of R91. -/
def mix32 (z : Word) : Word :=
  let z := z ^^^ (z >>> 16)
  let z := z * 0x9B1D4E37#32
  let z := z ^^^ (z >>> 15)
  let z := z * 0x5A2C71E5#32
  z ^^^ (z >>> 16)

/-- Rotate a word left (R92). -/
def rotl32 (w : Word) (n : Nat) : Word := w.rotateLeft (n % 32)

/-- The comparison word of element k of lane i (R92). -/
def laneDraw (seed ctr : Word) (lane k : Nat) : Nat :=
  (rotl32 (mix32 (seed ^^^ BitVec.ofNat 32 (lane * 2 ^ 24) ^^^ ctr)) (8 * k)).toNat % 65536

/-- The comparison word of column j of a tile row whose global row is g, with COL0 cb (R93). -/
def tileDraw (seed g cb : Word) (j : Nat) : Nat :=
  let w := mix32 (seed ^^^ (g * 0x00010003#32) ^^^ cb)
  (rotl32 w (j % 32) ^^^ BitVec.ofNat 32 (j / 32 * 0x2F6B)).toNat % 65536

/-- The step of the store hash (R372). -/
def hashStep (h x : DWord) : DWord :=
  let lo := mix32 (loWord h ^^^ loWord x)
  let hi := mix32 (hiWord h ^^^ hiWord x ^^^ lo)
  dword lo hi

/-! ## Roots, quotients and transcendental functions (R129, R130), as truncated significands with a sticky bit -/

/-- A truncated value, with a bit appended that says whether something was cut off. -/
def sticky (m : Nat) (e : Int) (exact : Bool) : Nat × Int := if exact then (m, e) else (2 * m + 1, e - 1)

/-- The integer square root, bit by bit from 2^n downward. -/
def isqrtFrom (x : Nat) : Nat → Nat → Nat
  | 0, r => if (r + 1) * (r + 1) ≤ x then r + 1 else r
  | n + 1, r =>
    let c := r + 2 ^ (n + 1)
    isqrtFrom x n (if c * c ≤ x then c else r)
def isqrt (x : Nat) : Nat := isqrtFrom x (x.log2 / 2 + 1) 0

/-- √(m × 2^e), m nonzero, to at least `bits` significant bits. -/
def sqrtF (bits : Nat) (m : Nat) (e : Int) : Nat × Int :=
  let k := 2 * bits + (if (e - 2 * bits) % 2 = 0 then 0 else 1)
  let x := m * 2 ^ k
  let r := isqrt x
  sticky r ((e - k) / 2) (r * r == x)

/-- (m × 2^e) / (m' × 2^e'), to at least `bits` significant bits. -/
def divF (bits : Nat) (m : Nat) (e : Int) (m' : Nat) (e' : Int) : Nat × Int :=
  let k := bits + m'.log2 + 1
  let x := m * 2 ^ k
  sticky (x / m') (e - k - e') (x % m' == 0)

/-- 1 / √(m × 2^e). -/
def rsqrtF (bits : Nat) (m : Nat) (e : Int) : Nat × Int :=
  let k := 2 * bits + m.log2 + 1
  let k := k + (if ((k : Int) + e) % 2 = 0 then 0 else 1)
  let x := 2 ^ k
  let r := isqrt (x / m)
  sticky r (-((k + e) / 2)) (r * r * m == x)

/-- Fixed-point bits of the transcendental functions (notes/assumptions/10.md). -/
def fxBits : Nat := 640
def fxOne : Nat := 2 ^ fxBits

/-- Σ x^(2k+1) / ((2k+1) × s^(2k+1)), alternating or not: the arctangents for π and ln 2, term count as fuel. -/
def invSeries (alternate : Bool) (s : Nat) : Nat → Nat → Nat → Int
  | 0, _, _ => 0
  | n + 1, k, t =>
    let term : Int := (t / (2 * k + 1) : Nat)
    (if alternate && k % 2 == 1 then -term else term) + invSeries alternate s n (k + 1) (t / (s * s))

/-- π in fixed point: 16 atan(1/5) − 4 atan(1/239). -/
def fxPi : Nat := (16 * invSeries true 5 150 0 (fxOne / 5) - 4 * invSeries true 239 50 0 (fxOne / 239)).toNat
/-- ln 2 in fixed point: 2 atanh(1/3). -/
def fxLn2 : Nat := (2 * invSeries false 3 210 0 (fxOne / 3)).toNat

/-- Σ of a Taylor series whose term k + 1 is term k × x / d(k), terms counted by fuel; `sign` alternates. -/
def taylor (alternate : Bool) (d : Nat → Nat) (x : Nat) : Nat → Nat → Nat → Int
  | 0, _, _ => 0
  | n + 1, k, t =>
    (if alternate && k % 2 == 1 then -(t : Int) else t) + taylor alternate d x n (k + 1) (t * x / fxOne / d k)

/-- e^x for a fixed-point x in [0, 1). -/
def fxExp (x : Nat) : Nat := (taylor false (fun k => k + 1) x 160 0 fxOne).toNat
/-- sin x and cos x for a fixed-point x in [0, 1). -/
def fxSin (x : Nat) : Nat := (taylor true (fun k => (2 * k + 2) * (2 * k + 3)) (x * x / fxOne) 90 0 x).toNat
def fxCos (x : Nat) : Nat := (taylor true (fun k => (2 * k + 1) * (2 * k + 2)) (x * x / fxOne) 90 0 fxOne).toNat

/-- atanh z = z + z³/3 + … for a fixed-point z in [0, 1/5]. -/
def fxAtanh (z2 : Nat) : Nat → Nat → Nat → Nat
  | 0, _, _ => 0
  | n + 1, k, t => t / (2 * k + 1) + fxAtanh z2 n (k + 1) (t * z2 / fxOne)

/-- 2^x for x = i × 2^e that is no integer, |x| small enough not to be clamped. -/
def exp2F (x : Dy) : Nat × Int :=
  -- x has finitely many binary places, at most fxBits of them
  let y : Int := if 0 ≤ x.2 then x.1 * 2 ^ x.2.toNat * fxOne else x.1 * fxOne / (2 ^ (-x.2).toNat : Nat)
  let n := y / fxOne
  let fr := (y - n * fxOne).toNat
  sticky (fxExp (fr * fxLn2 / fxOne)) (n - fxBits) false

/-- log2 of m × 2^e that is no power of two, as a signed fixed-point number. -/
def log2Fx (m : Nat) (e : Int) : Int :=
  let l := m.log2
  -- m / 2^l in [1, 2), halved when it is 1.375 or more
  let half := decide (11 * 2 ^ l ≤ 8 * m)
  let n : Int := e + l + (if half then 1 else 0)
  let den := 2 ^ (l + (if half then 1 else 0))
  let neg := decide (m < den)
  let num := if neg then den - m else m - den
  let z := num * fxOne / (m + den)
  let a : Nat := 2 * fxAtanh (z * z / fxOne) 160 0 z
  let frac : Nat := a * fxOne / fxLn2
  n * fxOne + (if neg then -(frac : Int) else frac)

/-- |sin(π x)| and |cos(π x)| for x = i / 2^k with 0 < x < 1/2: each by the quarter in which it keeps its digits. -/
def sinpiFx (x : Nat) (k : Nat) : Nat :=
  if 4 * x ≤ 2 ^ k then fxSin (fxPi * x / 2 ^ k) else fxCos (fxPi * (2 ^ k - 2 * x) / 2 ^ (k + 1))
def cospiFx (x : Nat) (k : Nat) : Nat :=
  if 4 * x ≤ 2 ^ k then fxCos (fxPi * x / 2 ^ k) else fxSin (fxPi * (2 ^ k - 2 * x) / 2 ^ (k + 1))

end Sys2Proof.Machine
end

