-- ==== Sys2Proof/Machine/Convert.lean ====
section
/-!
DEFINITION. Element types (spec/01 R23, spec/03 R72), integer narrowing (spec/04 R99) and the conversions of
spec/03_number_formats.md R95 and R96.
-/
namespace Sys2Proof.Machine

/-- What the elements of a TYPE are. -/
inductive Kind where
  | signed
  | natural
  | float (f : Fmt)
  deriving DecidableEq, Repr

/-- An element type: width and number of the elements of a lane (R23, R72). -/
structure Ty where
  w : Nat
  n : Nat
  kind : Kind
  deriving DecidableEq, Repr

/-- The element type of a TYPE code; the reserved codes have none (R23). -/
def Ty.ofCode (c : Nat) : Option Ty :=
  match c with
  | 0x00 => some ⟨32, 1, .signed⟩
  | 0x01 => some ⟨32, 1, .natural⟩
  | 0x02 => some ⟨64, 1, .signed⟩
  | 0x03 => some ⟨64, 1, .natural⟩
  | 0x04 => some ⟨16, 2, .signed⟩
  | 0x05 => some ⟨16, 2, .natural⟩
  | 0x06 => some ⟨8, 4, .signed⟩
  | 0x07 => some ⟨8, 4, .natural⟩
  | 0x08 => some ⟨32, 1, .float f32⟩
  | 0x09 => some ⟨64, 1, .float f64⟩
  | 0x0A => some ⟨16, 2, .float f16⟩
  | 0x0B => some ⟨16, 2, .float bf16⟩
  | 0x0C => some ⟨8, 4, .float e4m3⟩
  | 0x0D => some ⟨8, 4, .float e5m2⟩
  | _ => none

/-- A 64-bit type occupies register pairs (R15). -/
def Ty.wide (t : Ty) : Bool := t.w == 64

/-- Element k of a lane value (R72). -/
def elem (w k x : Nat) : Nat := x / 2 ^ (w * k) % 2 ^ w

/-- A lane value from its elements, element 0 first. -/
def ofElems (w : Nat) : List Nat → Nat
  | [] => 0
  | x :: rest => x % 2 ^ w + 2 ^ w * ofElems w rest

/-- The least and greatest integer of an element (R99). -/
def intLo (signed : Bool) (w : Nat) : Int := if signed then -(2 ^ (w - 1) : Nat) else 0
def intHi (signed : Bool) (w : Nat) : Int := if signed then (2 ^ (w - 1) : Nat) - 1 else (2 ^ w : Nat) - 1

/-- The integer that an element holds. -/
def intOf (signed : Bool) (w x : Nat) : Int := if signed then sextNat w x else (x % 2 ^ w : Nat)

/-- `fit` of R99: the element and the flags. -/
def fit (sat signed : Bool) (w : Nat) (x : Int) : Nat × Nat :=
  if intLo signed w ≤ x ∧ x ≤ intHi signed w then (wrapNat w x, 0)
  else if sat then (wrapNat w (if x < intLo signed w then intLo signed w else intHi signed w), fSAT)
  else (wrapNat w x, 0)

/-- Round i × 2^e to an integer: the integer, and whether it is exact (R87). -/
def roundInt (r : Rnd) (draw : Nat) (neg : Bool) (m : Nat) (e : Int) : Int × Bool :=
  let (t, ex) := roundAt r draw neg m e 0
  (if neg then -(t : Int) else t, ex)

/-- A value to a floating format (R95); `code7`: a NaN of an 8-bit format goes to a wider one. -/
def valToFloat (v : Env) (dst : Fmt) (code7 : Bool) (x : FVal) : Nat × Nat :=
  match x with
  | .nan n p => if code7 then genNan dst v.nanm 7 else (carryNan dst v.nanm n (p % 16), 0)
  | .inf n =>
    if dst.narrow && v.sat then (dst.sign n + dst.maxBits, fSAT)
    else if dst.e4m3 then ((if v.nanm then 0x7F else dst.sign n + 0x7F), fINV)
    else (dst.sign n + dst.topBits, 0)
  | .fin n m e => if m = 0 then (dst.sign n, 0) else roundF dst v n m e

/-- A value to an integer (R95, R96). -/
def valToInt (v : Env) (signed : Bool) (w : Nat) (x : FVal) : Nat × Nat :=
  let lo := intLo signed w
  let hi := intHi signed w
  match x with
  | .nan _ _ => (if v.sat then 0 else wrapNat w lo, fINV)
  | .inf n => if v.sat then (wrapNat w (if n then lo else hi), fSAT) else (wrapNat w lo, fINV)
  | .fin n m e =>
    let (y, ex) := roundInt v.rnd v.draw n m e
    if lo ≤ y ∧ y ≤ hi then (wrapNat w y, if ex then 0 else fINX)
    else if v.sat then (wrapNat w (if y < lo then lo else hi), fSAT + if ex then 0 else fINX)
    else (wrapNat w lo, fINV)

/-- Floating to floating, source and destination of different formats. -/
def floatToFloat (v : Env) (src dst : Fmt) (x : Nat) : Nat × Nat :=
  valToFloat v dst (src.narrow && !dst.narrow) (readF src v.ftz x)

/-- Floating to integer. DEDUCED: under FTZ a subnormal source is read as zero, as R89 says of operands (notes/assumptions/106.md). -/
def floatToInt (v : Env) (src : Fmt) (signed : Bool) (w x : Nat) : Nat × Nat := valToInt v signed w (readF src v.ftz x)

/-- Integer to floating (R95). -/
def intToFloat (v : Env) (dst : Fmt) (i : Int) : Nat × Nat :=
  if i = 0 then (0, 0) else roundF dst v (decide (i < 0)) i.natAbs 0

/-- Integer to integer (R95): the widening conversions that lose nothing, and the others under SAT. -/
def intToInt (sat : Bool) (ssrc sdst : Bool) (wsrc wdst x : Nat) : Nat × Nat :=
  let i := intOf ssrc wsrc x
  if wsrc < wdst ∧ (ssrc = sdst ∨ (!ssrc && sdst) = true) then (wrapNat wdst i, 0)
  else if sat then fit true sdst wdst i
  else (wrapNat wdst i, 0)

/-- One element converted (R95, R96); the types differ. -/
def convert (v : Env) (src dst : Ty) (x : Nat) : Nat × Nat :=
  match src.kind, dst.kind with
  | .float f, .float g => floatToFloat v f g x
  | .float f, .signed => floatToInt v f true dst.w x
  | .float f, .natural => floatToInt v f false dst.w x
  | .signed, .float g => intToFloat v g (intOf true src.w x)
  | .natural, .float g => intToFloat v g (intOf false src.w x)
  | .signed, .signed => intToInt v.sat true true src.w dst.w x
  | .signed, .natural => intToInt v.sat true false src.w dst.w x
  | .natural, .signed => intToInt v.sat false true src.w dst.w x
  | .natural, .natural => intToInt v.sat false false src.w dst.w x

/-- Results with flags, element by element: the lane value and the flags' OR (R27). -/
def packElems (w : Nat) (rs : List (Nat × Nat)) : Nat × Nat :=
  (ofElems w (rs.map Prod.fst), rs.foldl (fun acc r => acc ||| r.2) 0)

end Sys2Proof.Machine
end

