-- ==== Sys2Proof/Syntax.lean ====
section
/-!
DEFINITION. The syntax of the ML-9840: one constructor of `Instr` for each row of spec/opcode_table.json.
The first 193 rows are instruction words (spec/02_words_and_syntax.md); the others are the operations and events that
engines, slices, homes, the dispatcher, the firmware, the supervisors, the links and the power stages carry out
(spec/95_what_each_step_holds.md). An event carries the operands that come from outside the machine.
-/
namespace Sys2Proof

/-- The crossbar pattern of a 9-bit operand (R45). -/
inductive Pattern where
  | own | rot | bc | bf | mir | sup | sdn | idx
  deriving DecidableEq, Repr

/-- A 9-bit operand: a pattern and a 6-bit register field (R45). -/
structure Operand where
  pat : Pattern
  reg : BitVec 6
  deriving DecidableEq, Repr

/-- A domain kind of R354, with the kind of hash records (code 6). -/
inductive Domain where
  | line | obj | bar | crock | choose | hash
  deriving DecidableEq, Repr

/-- A link of the package (R409, R416). -/
inductive Link where
  /-- The link between a core and its leaf. -/
  | core (core : BitVec 7)
  /-- The link between a slice and its leaf. -/
  | slice (slice : BitVec 8)
  /-- The link between a leaf and a spine of one die. -/
  | leafSpine (die leaf : BitVec 3) (spine : BitVec 2)
  /-- The link between a spine and a top switch. -/
  | spineTop (die : BitVec 3) (spine : BitVec 2) (top : BitVec 4)
  /-- A Sprinwald link to another device. -/
  | sprinwald (port : BitVec 4)
  /-- The link between a CXL port and its hub die's top switches. -/
  | cxl (port : BitVec 3)
  deriving DecidableEq, Repr

/-- The outcome of a check that is made twice (checked issue, R158; the residue check of a matrix step, R244). -/
inductive CheckResult where
  | agrees | corrected | uncorrected
  deriving DecidableEq, Repr

/-- A protected word of a core (R273). -/
inductive CoreWord where
  /-- A double word of the scratchpad. -/
  | scratch (word : BitVec 17)
  /-- A double word of the operand buffer. -/
  | operand (word : BitVec 16)
  /-- A cell of a physical accumulator tile. -/
  | cell (tile : BitVec 3) (row col : BitVec 7)
  /-- The registers of lanes 2k and 2k + 1 of a vector register of a group. -/
  | register (gid : Nat) (reg : BitVec 6) (pair : BitVec 4)
  /-- A double word of a colander line of a team, named by its virtual line address, or with 16 + h the word of its byte mask for half h. -/
  | colander (team : Nat) (line : BitVec 57) (word : BitVec 5)
  /-- A double word of the place of the n-th posted request that a team's colander holds. -/
  | request (team : Nat) (n : BitVec 14)
  /-- A double word of the load-combining buffer, which keeps the bytes that have come for a lane of a load. -/
  | combining (op : Nat) (lane : BitVec 5)
  /-- A uniform register of a team. -/
  | uniform (team : Nat) (reg : BitVec 4)
  /-- A word of a group's control storage by its number (R11): scalar r as r; PC as 32; EM, the depth of the mask stack and the in-trap
  bit as 33; MODE 34, PERM 35, STAT 36, TVEC 37, TPC 38, TCAUSE 39, TINFO 40, TMODE 41, TEM 42, SEED with CTR 43, NANCT 44, the in-flight
  counters 45; qk as 48 + k; entries 2j and 2j + 1 of the mask stack as 56 + j; the indices of xk in lanes 8j to 8j + 7 as 64 + 4k + j, its
  bounds in lanes 4j to 4j + 3 as 96 + 8k + j (notes/assumptions/43.md). -/
  | control (gid : Nat) (word : BitVec 8)
  /-- A word of the core's own control storage by its number (R164): the tag of slot n as n, reservation record n as 256 + n, the team
  table entry of team slot n as 272 + n, the release filter as 288, barrier b at level v of the team in slot n as 512 + 64 n + 16 v + b. -/
  | table (word : BitVec 11)
  /-- A word of the instruction cache (parity only). -/
  | icache
  deriving DecidableEq, Repr

/-- What a scrub does with a word, or with a line: it corrects it, finds it uncorrectable, or reads it good, whereupon it becomes
uncorrectable before it is read again (R273, R351). -/
inductive ScrubResult where
  | corrected | uncorrectable | late
  deriving DecidableEq, Repr

/-- What a packet that was lost in rerouting carried (R413). -/
inductive LostPacket where
  /-- A line request of a team. -/
  | line (req : Nat)
  /-- Data that a slice sends for an operation, from an address. -/
  | data (op : Nat) (pa : BitVec 52)
  /-- A combiner request or its reply. -/
  | whisk (req : Nat)
  /-- A send, or its acknowledgement. -/
  | send (op : Nat)
  /-- A probe of an `ldacq` to a core, or its answer. -/
  | probe (op : Nat) (core : BitVec 7)
  /-- A home's write-back of an object (serves no context). -/
  | writeBack (core : BitVec 7)
  /-- A page-table update (serves no context). -/
  | pageUpdate
  deriving DecidableEq, Repr

/-- Why the clock of a die is lowered (R437). -/
inductive ThrottleCause where
  | railCore | railHbm | railIo | railAux | temperature
  deriving DecidableEq, Repr

/-- What the management cores find when they boot the package (R433): of each image its measurement and whether its
signature verifies, and the measurement of the fabric configuration. -/
structure BootImages where
  mgmtOk : Bool
  mgmtMeasure : BitVec 512
  firmwareOk : Bool
  firmwareMeasure : BitVec 512
  firmwareVersion : Nat
  fabricMeasure : BitVec 512
  deriving DecidableEq, Repr

/-- Whose BAR 0 a register write reaches: that of a partition's virtual function, or that of the physical function (R345, R348). -/
inductive PcieFunction where
  | virtual (p : PartNo)
  | physical
  deriving DecidableEq, Repr

/-- What the management port hears of the time domain (R422). -/
inductive PtpMessage where
  /-- A timing message: the grandmaster's time, and the magnitude of the offset in nanoseconds. -/
  | sync (time : DWord) (offset : Nat)
  /-- No message came in time. -/
  | absent
  deriving DecidableEq, Repr

/-- The instructions, operations and events of spec/opcode_table.json, in the table's order. -/
inductive Instr where
  /-- `nop` (R142). -/
  | nop
  /-- `exit` (R142). -/
  | exit
  /-- `bra` (R140). -/
  | bra (o : BitVec 24)
  /-- `call` (R140). -/
  | call (l : SReg) (o : BitVec 19)
  /-- `callr` (R140). -/
  | callr (d : SReg) (a : SReg)
  /-- `jr` (R140). -/
  | jr (a : SReg)
  /-- `brany` (R140). -/
  | brany (q : QReg) (n : Bool) (o : BitVec 20)
  /-- `brall` (R140). -/
  | brall (q : QReg) (n : Bool) (o : BitVec 20)
  /-- `brnone` (R140). -/
  | brnone (q : QReg) (n : Bool) (o : BitVec 20)
  /-- `bz` (R140). -/
  | bz (s : SReg) (o : BitVec 19)
  /-- `bnz` (R140). -/
  | bnz (s : SReg) (o : BitVec 19)
  /-- `emand` (R143). -/
  | emand (q : QReg) (n : Bool)
  /-- `emelse` (R143). -/
  | emelse
  /-- `empop` (R143). -/
  | empop
  /-- `emrd` (R144). -/
  | emrd (d : SReg)
  /-- `emwr` (R144). -/
  | emwr (a : SReg)
  /-- `mode` (R145). -/
  | mode (m : BitVec 16)
  /-- `pmode` (R145). -/
  | pmode (p : BitVec 15)
  /-- `moder` (R145). -/
  | moder (a : SReg)
  /-- `trap` (R151). -/
  | trap (i : BitVec 16)
  /-- `brk` (R151). -/
  | brk
  /-- `tret` (R153). -/
  | tret
  /-- `xset` (R146). -/
  | xset (k : XReg) (v : VReg) (i : BitVec 14)
  /-- `xbnd` (R146). -/
  | xbnd (k : XReg) (l : BitVec 6) (h : BitVec 6)
  /-- `xadd` (R146). -/
  | xadd (k : XReg) (i : BitVec 14)
  /-- `xrd` (R146). -/
  | xrd (k : XReg) (d : VReg)
  /-- `choose` (R147). -/
  | choose (d : SReg) (a : SReg)
  /-- `ccall` (R149). -/
  | ccall (i : BitVec 16)
  /-- `anch` (R148). -/
  | anch
  /-- `add` (R100). -/
  | add (d : VReg) (a : Operand) (b : Operand)
  /-- `sub` (R100). -/
  | sub (d : VReg) (a : Operand) (b : Operand)
  /-- `mul` (R100). -/
  | mul (d : VReg) (a : Operand) (b : Operand)
  /-- `mulh` (R100). -/
  | mulh (d : VReg) (a : Operand) (b : Operand)
  /-- `mad` (R100). -/
  | mad (d : VReg) (a : Operand) (b : Operand)
  /-- `msb` (R100). -/
  | msb (d : VReg) (a : Operand) (b : Operand)
  /-- `mad2` (R101). -/
  | mad2 (d : VReg) (a : Operand) (b : Operand)
  /-- `dot4` (R101). -/
  | dot4 (d : VReg) (a : Operand) (b : Operand)
  /-- `abs` (R100). -/
  | abs (d : VReg) (a : Operand)
  /-- `neg` (R100). -/
  | neg (d : VReg) (a : Operand)
  /-- `min` (R100). -/
  | min (d : VReg) (a : Operand) (b : Operand)
  /-- `max` (R100). -/
  | max (d : VReg) (a : Operand) (b : Operand)
  /-- `avg` (R100). -/
  | avg (d : VReg) (a : Operand) (b : Operand)
  /-- `rsh` (R103). -/
  | rsh (d : VReg) (a : Operand) (b : Operand)
  /-- `addi` (R102). -/
  | addi (d : VReg) (a : VReg) (i : BitVec 12)
  /-- `muli` (R102). -/
  | muli (d : VReg) (a : VReg) (i : BitVec 12)
  /-- `and` (R104). -/
  | and (d : VReg) (a : Operand) (b : Operand)
  /-- `or` (R104). -/
  | or (d : VReg) (a : Operand) (b : Operand)
  /-- `xor` (R104). -/
  | xor (d : VReg) (a : Operand) (b : Operand)
  /-- `andn` (R104). -/
  | andn (d : VReg) (a : Operand) (b : Operand)
  /-- `not` (R104). -/
  | not (d : VReg) (a : Operand)
  /-- `shl` (R105). -/
  | shl (d : VReg) (a : Operand) (b : Operand)
  /-- `shr` (R105). -/
  | shr (d : VReg) (a : Operand) (b : Operand)
  /-- `sar` (R105). -/
  | sar (d : VReg) (a : Operand) (b : Operand)
  /-- `rol` (R105). -/
  | rol (d : VReg) (a : Operand) (b : Operand)
  /-- `shli` (R105). -/
  | shli (d : VReg) (a : VReg) (c : BitVec 6)
  /-- `shri` (R105). -/
  | shri (d : VReg) (a : VReg) (c : BitVec 6)
  /-- `sari` (R105). -/
  | sari (d : VReg) (a : VReg) (c : BitVec 6)
  /-- `clz` (R106). -/
  | clz (d : VReg) (a : Operand)
  /-- `popc` (R106). -/
  | popc (d : VReg) (a : Operand)
  /-- `brev` (R106). -/
  | brev (d : VReg) (a : Operand)
  /-- `bfx` (R107). -/
  | bfx (d : VReg) (a : VReg) (p : BitVec 6) (l : BitVec 6)
  /-- `ceq` (R108). -/
  | ceq (c : BitVec 3) (q : QReg) (a : Operand) (b : Operand)
  /-- `cne` (R108). -/
  | cne (c : BitVec 3) (q : QReg) (a : Operand) (b : Operand)
  /-- `clt` (R108). -/
  | clt (c : BitVec 3) (q : QReg) (a : Operand) (b : Operand)
  /-- `cle` (R108). -/
  | cle (c : BitVec 3) (q : QReg) (a : Operand) (b : Operand)
  /-- `cun` (R108). -/
  | cun (c : BitVec 3) (q : QReg) (a : Operand) (b : Operand)
  /-- `ctst` (R108). -/
  | ctst (c : BitVec 3) (q : QReg) (a : Operand) (b : Operand)
  /-- `qop` (R109). -/
  | qop (o : BitVec 3) (d : QReg) (a : QReg) (b : QReg)
  /-- `qfv` (R110). -/
  | qfv (d : QReg) (a : VReg) (b : BitVec 5)
  /-- `qfv.all` (R110). -/
  | qfvAll (a : VReg)
  /-- `qtv` (R110). -/
  | qtv (d : VReg)
  /-- `mov` (R111). -/
  | mov (d : VReg) (a : Operand)
  /-- `movi` (R111). -/
  | movi (d : VReg) (i : BitVec 18)
  /-- `movhi` (R111). -/
  | movhi (d : VReg) (i : BitVec 18)
  /-- `sel` (R112). -/
  | sel (d : VReg) (a : Operand) (b : Operand)
  /-- `shfl` (R113). -/
  | shfl (d : VReg) (a : Operand) (b : Operand)
  /-- `hslide` (R114). -/
  | hslide (d : VReg) (a : Operand) (r : Bool)
  /-- `vfill` (R115). -/
  | vfill (d : VReg) (a : SReg)
  /-- `fadd` (R126). -/
  | fadd (d : VReg) (a : Operand) (b : Operand)
  /-- `fsub` (R126). -/
  | fsub (d : VReg) (a : Operand) (b : Operand)
  /-- `fmul` (R126). -/
  | fmul (d : VReg) (a : Operand) (b : Operand)
  /-- `fma` (R127). -/
  | fma (d : VReg) (a : Operand) (b : Operand)
  /-- `fms` (R127). -/
  | fms (d : VReg) (a : Operand) (b : Operand)
  /-- `fmin` (R128). -/
  | fmin (d : VReg) (a : Operand) (b : Operand)
  /-- `fmax` (R128). -/
  | fmax (d : VReg) (a : Operand) (b : Operand)
  /-- `fdiv` (R126). -/
  | fdiv (d : VReg) (a : Operand) (b : Operand)
  /-- `fsqrt` (R129). -/
  | fsqrt (d : VReg) (a : Operand)
  /-- `frcp` (R129). -/
  | frcp (d : VReg) (a : Operand)
  /-- `frsq` (R129). -/
  | frsq (d : VReg) (a : Operand)
  /-- `fexp2` (R129). -/
  | fexp2 (d : VReg) (a : Operand)
  /-- `flog2` (R129). -/
  | flog2 (d : VReg) (a : Operand)
  /-- `fsinpi` (R129). -/
  | fsinpi (d : VReg) (a : Operand)
  /-- `fcospi` (R129). -/
  | fcospi (d : VReg) (a : Operand)
  /-- `frint` (R131). -/
  | frint (d : VReg) (a : Operand)
  /-- `fclass` (R135). -/
  | fclass (c : BitVec 3) (q : QReg) (a : Operand) (m : BitVec 9)
  /-- `cvt` (R137). -/
  | cvt (d : VReg) (a : Operand) (t : BitVec 5)
  /-- `fscale` (R132). -/
  | fscale (d : VReg) (a : Operand) (b : Operand)
  /-- `fgetexp` (R133). -/
  | fgetexp (d : VReg) (a : Operand)
  /-- `fnanc` (R136). -/
  | fnanc (d : VReg) (a : Operand)
  /-- `fdot2` (R134). -/
  | fdot2 (d : VReg) (a : Operand) (b : Operand)
  /-- `sadd` (R116). -/
  | sadd (d : SReg) (a : SReg) (b : SReg)
  /-- `ssub` (R116). -/
  | ssub (d : SReg) (a : SReg) (b : SReg)
  /-- `smul` (R116). -/
  | smul (d : SReg) (a : SReg) (b : SReg)
  /-- `saddi` (R116). -/
  | saddi (d : SReg) (a : SReg) (i : BitVec 14)
  /-- `sand` (R116). -/
  | sand (d : SReg) (a : SReg) (b : SReg)
  /-- `sor` (R116). -/
  | sor (d : SReg) (a : SReg) (b : SReg)
  /-- `sxor` (R116). -/
  | sxor (d : SReg) (a : SReg) (b : SReg)
  /-- `sshl` (R116). -/
  | sshlReg (d : SReg) (a : SReg) (b : SReg)
  /-- `sshl` (R116). -/
  | sshlImm (d : SReg) (a : SReg) (c : BitVec 6)
  /-- `sshr` (R116). -/
  | sshrReg (d : SReg) (a : SReg) (b : SReg)
  /-- `sshr` (R116). -/
  | sshrImm (d : SReg) (a : SReg) (c : BitVec 6)
  /-- `ssar` (R116). -/
  | ssarReg (d : SReg) (a : SReg) (b : SReg)
  /-- `ssar` (R116). -/
  | ssarImm (d : SReg) (a : SReg) (c : BitVec 6)
  /-- `smovi` (R116). -/
  | smovi (d : SReg) (i : BitVec 19)
  /-- `smovs` (R116). -/
  | smovs (d : SReg) (i : BitVec 19)
  /-- `sceq` (R116). -/
  | sceq (d : SReg) (a : SReg) (b : SReg)
  /-- `sclt` (R116). -/
  | sclt (d : SReg) (a : SReg) (b : SReg)
  /-- `scltn` (R116). -/
  | scltn (d : SReg) (a : SReg) (b : SReg)
  /-- `vred` (R117). -/
  | vred (d : SReg) (o : BitVec 3) (m : VReg)
  /-- `vlane` (R118). -/
  | vlane (d : SReg) (a : SReg) (p : Bool) (m : VReg)
  /-- `vins` (R119). -/
  | vins (a : SReg) (b : SReg) (p : Bool) (m : VReg)
  /-- `vote` (R120). -/
  | vote (d : SReg) (k : BitVec 2) (p : QReg)
  /-- `krd` (R121). -/
  | krd (d : SReg) (n : BitVec 4)
  /-- `kwr` (R121). -/
  | kwr (a : SReg) (n : BitVec 4)
  /-- `sysrd` (R150). -/
  | sysrd (n : BitVec 8) (s : SReg)
  /-- `syswr` (R150). -/
  | syswr (n : BitVec 8) (s : SReg)
  /-- `ldw` (R202). -/
  | ldw (d : VReg) (a : VReg) (l : La) (o : BitVec 8)
  /-- `ldd` (R202). -/
  | ldd (d : VReg) (a : VReg) (l : La) (o : BitVec 8)
  /-- `ldq` (R202). -/
  | ldq (d : VReg) (a : VReg) (l : La) (o : BitVec 8)
  /-- `ldh` (R202). -/
  | ldh (d : VReg) (a : VReg) (l : La) (o : BitVec 8)
  /-- `ldb` (R202). -/
  | ldb (d : VReg) (a : VReg) (l : La) (o : BitVec 8)
  /-- `stw` (R203). -/
  | stw (d : VReg) (a : VReg) (l : La) (o : BitVec 8)
  /-- `std` (R203). -/
  | std (d : VReg) (a : VReg) (l : La) (o : BitVec 8)
  /-- `stq` (R203). -/
  | stq (d : VReg) (a : VReg) (l : La) (o : BitVec 8)
  /-- `sth` (R203). -/
  | sth (d : VReg) (a : VReg) (l : La) (o : BitVec 8)
  /-- `stb` (R203). -/
  | stb (d : VReg) (a : VReg) (l : La) (o : BitVec 8)
  /-- `ldacq` (R204). -/
  | ldacq (d : VReg) (a : VReg) (l : La) (s : BitVec 3)
  /-- `strel` (R205). -/
  | strel (d : VReg) (a : VReg) (l : La) (s : BitVec 3)
  /-- `sld` (R206). -/
  | sld (d : SReg) (a : SReg) (l : La) (o : BitVec 8)
  /-- `sst` (R206). -/
  | sst (d : SReg) (a : SReg) (l : La) (o : BitVec 8)
  /-- `lds` (R207). -/
  | lds (d : VReg) (a : VReg) (l : La) (o : BitVec 8)
  /-- `sts` (R207). -/
  | sts (d : VReg) (a : VReg) (l : La) (o : BitVec 8)
  /-- `ldsq` (R207). -/
  | ldsq (d : VReg) (a : VReg) (l : La) (o : BitVec 8)
  /-- `stsq` (R207). -/
  | stsq (d : VReg) (a : VReg) (l : La) (o : BitVec 8)
  /-- `slk` (R208). -/
  | slk (x : SReg) (y : SReg) (l : La)
  /-- `sfill` (R209). -/
  | sfill (x : SReg) (y : SReg) (l : La)
  /-- `sevict` (R210). -/
  | sevict (x : SReg) (f : BitVec 2) (l : La)
  /-- `cpy` (R211). -/
  | cpy (d : VReg) (a : VReg) (l : La) (s : SReg) (z : BitVec 3)
  /-- `cpyo` (R211). -/
  | cpyo (d : VReg) (a : VReg) (l : La) (z : BitVec 3)
  /-- `cpyt` (R214). -/
  | cpyt (x : SReg) (y : SReg) (f : BitVec 2) (l : La)
  /-- `cpyv` (R216). -/
  | cpyv (x : SReg) (y : SReg) (l : La)
  /-- `tbinit` (R217). -/
  | tbinit (x : SReg) (y : SReg) (l : La)
  /-- `tbarr` (R218). -/
  | tbarr (x : SReg) (y : SReg) (l : La)
  /-- `tbwait` (R219). -/
  | tbwait (x : SReg) (y : SReg)
  /-- `wcnt` (R220). -/
  | wcnt (p : BitVec 5) (t : BitVec 8)
  /-- `ckopen` (R221). -/
  | ckopen (x : SReg) (y : SReg) (f : BitVec 2) (l : La) (g : Bool) (c : BitVec 7)
  /-- `ckseal` (R222). -/
  | ckseal (x : SReg) (y : SReg) (l : La)
  /-- `ckdrop` (R223). -/
  | ckdrop (y : SReg) (l : La)
  /-- `obres` (R231). -/
  | obres (x : SReg) (y : SReg) (l : La)
  /-- `obrel` (R232). -/
  | obrel (y : SReg) (l : La)
  /-- `obld` (R234). -/
  | obld (x : SReg) (y : SReg) (l : La)
  /-- `gath` (R235). -/
  | gath (x : SReg) (y : SReg) (l : La) (p : VReg)
  /-- `mrdy` (R236). -/
  | mrdy
  /-- `mstep` (R239). -/
  | mstep (x : SReg) (y : SReg) (l : La) (t : BitVec 3)
  /-- `mloop` (R239). -/
  | mloop (x : SReg) (y : SReg) (l : La) (t : BitVec 3)
  /-- `mfence` (R245). -/
  | mfence (x : SReg) (l : La)
  /-- `mwait` (R246). -/
  | mwait (x : SReg)
  /-- `acfg` (R248). -/
  | acfg (y : SReg) (f : BitVec 2) (l : La) (t : BitVec 3)
  /-- `arel` (R249). -/
  | arel (l : La) (t : BitVec 3)
  /-- `azero` (R249). -/
  | azero (l : La) (t : BitVec 3)
  /-- `ard` (R250). -/
  | ard (v : VReg) (t : BitVec 3) (r : BitVec 7) (l : La) (p : BitVec 4)
  /-- `awr` (R251). -/
  | awr (v : VReg) (t : BitVec 3) (r : BitVec 7) (l : La) (p : BitVec 4)
  /-- `asave` (R253). -/
  | asave (x : SReg) (y : SReg) (l : La) (t : BitVec 3)
  /-- `aload` (R253). -/
  | aload (x : SReg) (y : SReg) (l : La) (t : BitVec 3)
  /-- `nanc` (R254). -/
  | nanc (d : SReg) (a : SReg)
  /-- `srseed` (R255). -/
  | srseed (a : SReg)
  /-- `ascal` (R252). -/
  | ascal (v : VReg) (t : BitVec 3) (r : BitVec 7) (l : La)
  /-- `arv` (R263). -/
  | arv (v : BitVec 2) (b : BitVec 4) (s : SReg)
  /-- `arva` (R263). -/
  | arva (v : BitVec 2) (b : BitVec 4) (s : SReg)
  /-- `arvd` (R263). -/
  | arvd (v : BitVec 2) (b : BitVec 4) (s : SReg)
  /-- `bwait` (R263). -/
  | bwait (v : BitVec 2) (b : BitVec 4) (s : SReg)
  /-- `fence` (R267). -/
  | fence (s : BitVec 3) (k : BitVec 3)
  /-- `sendr` (R290). -/
  | sendr (d : VReg) (a : VReg) (l : La) (s : SReg) (z : BitVec 3)
  /-- `sendb` (R289). -/
  | sendb (x : SReg) (y : SReg) (f : BitVec 2) (l : La)
  /-- `cwait` (R294). -/
  | cwait (x : SReg) (y : SReg)
  /-- `cset` (R295). -/
  | cset (x : SReg) (y : SReg)
  /-- `ckevict` (R224). -/
  | ckevict (x : SReg) (y : SReg) (f : BitVec 2) (l : La)
  /-- `ckstat` (R225). -/
  | ckstat (x : SReg) (y : SReg) (l : La)
  /-- `wcall` (R306). -/
  | wcall (d : VReg) (a : VReg) (l : La) (w : BitVec 2) (g : VReg)
  /-- `wpost` (R306). -/
  | wpost (a : VReg) (l : La) (w : BitVec 2) (g : VReg)
  /-- `wtake` (R312). -/
  | wtake (x : SReg)
  /-- `wreply` (R314). -/
  | wreply (a : Operand)
  /-- `wfail` (R314). -/
  | wfail (c : BitVec 7)
  /-- `wscan` (R313). -/
  | wscan (d : VReg) (a : Operand) (o : BitVec 3)
  /-- `ILLEGAL_INSTRUCTION` (R42). -/
  | illegalInstruction (w : Word)
  /-- `LOAD_RETURN` (R202). -/
  | loadReturn (p : PartNo) (op : Nat)
  /-- `COPY_SECTOR_LANDING` (R185). -/
  | copySectorLanding (p : PartNo) (op : Nat)
  /-- `SEND_LANDING` (R291). -/
  | sendLanding (p : PartNo) (op : Nat)
  /-- `SEND_ACKNOWLEDGEMENT` (R418). -/
  | sendAcknowledgement (p : PartNo) (op : Nat)
  /-- `RELEASE_FILTER_PROBE` (R204). -/
  | releaseFilterProbe (p : PartNo) (core : BitVec 7) (op : Nat)
  /-- `LINE_ACCESS` (R321). -/
  | lineAccess (p : PartNo) (req : Nat)
  /-- `ORDER_GATE_ADMIT` (R363). -/
  | orderGateAdmit (p : PartNo) (dom : Domain) (id : DWord)
  /-- `REQUEST_ARRIVAL` (R316). -/
  | requestArrival (p : PartNo) (req : Nat)
  /-- `BATCH_ASSEMBLY` (R309). -/
  | batchAssembly (p : PartNo) (core : BitVec 7)
  /-- `WHISK_REPLY` (R306). -/
  | whiskReply (p : PartNo) (req : Nat)
  /-- `FILL_LANDING` (R234). -/
  | fillLanding (p : PartNo) (op : Nat)
  /-- `MATRIX_STEP` (R243). -/
  | matrixStep (p : PartNo) (core : BitVec 7) (check : CheckResult)
  /-- `CLUSTER_PLACEMENT` (R326). -/
  | clusterPlacement (p : PartNo)
  /-- `FINAL_COMMIT` (R329). -/
  | finalCommit (p : PartNo) (team : Nat)
  /-- `LAUNCH_COMPLETION` (R328). -/
  | launchCompletion (p : PartNo)
  /-- `CROCK_MOVE_DONE` (R180). -/
  | crockMoveDone (p : PartNo) (name : DWord)
  /-- `EGG_TIMER_WINDOW` (R334). -/
  | eggTimerWindow (p : PartNo)
  /-- `SIEVE_DECISION` (R376). -/
  | sieveDecision (p : PartNo)
  /-- `SIEVE_BACKTRACK` (R381). -/
  | sieveBacktrack (p : PartNo)
  /-- `CHUNK_FLUSH_TIMER` (R367). -/
  | chunkFlushTimer (p : PartNo) (dom : Domain) (id : DWord)
  /-- `FREEZE_IMAGE` (R397). -/
  | freezeImage (p : PartNo)
  /-- `DRAIN_DEADLINE` (R272). -/
  | drainDeadline (p : PartNo)
  /-- `GANG_SLICE_START` (R423). -/
  | gangSliceStart (p : PartNo)
  /-- `GANG_SLICE_END` (R423). -/
  | gangSliceEnd (p : PartNo)
  /-- `INVALIDATION_DONE` (R344). -/
  | invalidationDone (p : PartNo)
  /-- `BACKGROUND_SCRUB` (R273). -/
  | backgroundScrub (core : BitVec 7) (word : CoreWord) (result : ScrubResult)
  /-- `PATROL_SCRUB` (R351). -/
  | patrolScrub (line : BitVec 45) (result : ScrubResult)
  /-- `IN_FIELD_TEST` (R352). -/
  | inFieldTest (die : BitVec 3)
  /-- `IN_FIELD_TEST_RUN` (R352). -/
  | inFieldTestRun (core : BitVec 7) (passed : Bool)
  /-- `IN_FIELD_TEST_OVERDUE` (R352). -/
  | inFieldTestOverdue (core : BitVec 7)
  /-- `ENERGY_PERIOD` (R353). -/
  | energyPeriod (p : PartNo)
  /-- `FLIT_CRC_ERROR` (R412). -/
  | flitCrcError (link : Link)
  /-- `LINK_DEAD` (R412). -/
  | linkDead (link : Link)
  /-- `INJECTION_RESUME` (R413). -/
  | injectionResume
  /-- `LOST_PACKET` (R413). -/
  | lostPacket (p : PartNo) (pkt : LostPacket)
  /-- `LINK_NARROW` (R415). -/
  | linkNarrow (link : Link) (handshake : Bool)
  /-- `LINK_WIDEN` (R415). -/
  | linkWiden (link : Link) (handshake : Bool)
  /-- `CXL_PORT_DOWN` (R421). -/
  | cxlPortDown (port : BitVec 3)
  /-- `HOST_WRITE` (R420). -/
  | hostWrite (pa : BitVec 52) (bytes : List Byte)
  /-- `HOST_READ` (R420). -/
  | hostRead (pa : BitVec 52) (count : BitVec 8)
  /-- `TIME_OFFSET_NOTICE` (R422). -/
  | timeOffsetNotice (p : PartNo)
  /-- `CLOCK_THROTTLE` (R437). -/
  | clockThrottle (die : BitVec 3) (cause : ThrottleCause)
  /-- `CLOCK_RAISE` (R437). -/
  | clockRaise (die : BitVec 3)
  /-- `THERMAL_STOP` (R437). -/
  | thermalStop (die : BitVec 3)
  /-- `POWER_ON_BOOT` (R433). -/
  | powerOnBoot (images : BootImages)
  /-- `FUNCTION_LEVEL_RESET` (R347). -/
  | functionLevelReset (p : PartNo)
  /-- `FIRMWARE_PASS` (R425). -/
  | firmwarePass
  /-- `RESET` (R427). -/
  | reset (q : BitVec 7) (pkt : BitVec 512)
  /-- `SETMODE` (R428). -/
  | setmode (q : BitVec 7) (pkt : BitVec 512)
  /-- `ATTACH` (R428). -/
  | attach (q : BitVec 7) (pkt : BitVec 512)
  /-- `EXTEND` (R428). -/
  | extend (q : BitVec 7) (pkt : BitVec 512)
  /-- `DETACH` (R428). -/
  | detach (q : BitVec 7) (pkt : BitVec 512)
  /-- `BUFFERS` (R428). -/
  | buffers (q : BitVec 7) (pkt : BitVec 512)
  /-- `CONSUME` (R428). -/
  | consume (q : BitVec 7) (pkt : BitVec 512)
  /-- `RESUME` (R407). -/
  | resume (q : BitVec 7) (pkt : BitVec 512)
  /-- `LAUNCH` (R429). -/
  | launch (q : BitVec 7) (pkt : BitVec 512)
  /-- `SIGNAL_SET` (R427). -/
  | signalSet (q : BitVec 7) (pkt : BitVec 512)
  /-- `SIGNAL_ADD` (R427). -/
  | signalAdd (q : BitVec 7) (pkt : BitVec 512)
  /-- `WAIT` (R427). -/
  | wait (q : BitVec 7) (pkt : BitVec 512)
  /-- `NOP_PACKET` (R427). -/
  | nopPacket (q : BitVec 7) (pkt : BitVec 512)
  /-- `UNKNOWN_PACKET` (R425). -/
  | unknownPacket (q : BitVec 7) (pkt : BitVec 512)
  /-- `NULL` (R430). -/
  | null (p : PartNo) (gid : Nat)
  /-- `DEBUG` (R430). -/
  | debug (p : PartNo) (gid : Nat)
  /-- `SIGADD` (R430). -/
  | sigadd (p : PartNo) (gid : Nat)
  /-- `SLEEP` (R430). -/
  | sleep (p : PartNo) (gid : Nat)
  /-- `SLEEP_EXPIRY` (R430). -/
  | sleepExpiry (p : PartNo) (gid : Nat)
  /-- `UNKNOWN_SERVICE` (R149). -/
  | unknownService (p : PartNo) (gid : Nat)
  /-- `FREEZE` (R396). -/
  | freeze (p : PartNo)
  /-- `REGISTER_IMAGE_AREA` (R399). -/
  | registerImageArea (p : PartNo)
  /-- `COPY_TABLE_ENTRY` (R431). -/
  | copyTableEntry (p : PartNo)
  /-- `CLEAR_SPOIL` (R431). -/
  | clearSpoil (p : PartNo)
  /-- `COPY_DEBUG_RING` (R431). -/
  | copyDebugRing (p : PartNo)
  /-- `LOAD_LVC` (R434). -/
  | loadLvc (p : PartNo)
  /-- `UNLOAD_KERNEL` (R431). -/
  | unloadKernel (p : PartNo)
  /-- `SET_TRUSTED_KEY` (R431). -/
  | setTrustedKey (p : PartNo)
  /-- `EXTEND_MEASUREMENT` (R435). -/
  | extendMeasurement (p : PartNo)
  /-- `ATTEST` (R435). -/
  | attest (p : PartNo)
  /-- `CREATE_PARTITION` (R348). -/
  | createPartition (arg0 arg1 : DWord)
  /-- `DESTROY_PARTITION` (R348). -/
  | destroyPartition (arg0 arg1 : DWord)
  /-- `SET_GRANULE_KEY` (R348). -/
  | setGranuleKey (arg0 arg1 : DWord)
  /-- `GRANT_QUEUE` (R348). -/
  | grantQueue (arg0 arg1 : DWord)
  /-- `GRANT_PORT` (R348). -/
  | grantPort (arg0 arg1 : DWord)
  /-- `UPDATE_FIRMWARE` (R432). -/
  | updateFirmware (arg0 arg1 : DWord)
  /-- `FIRMWARE_HANDOVER` (R432). -/
  | firmwareHandover
  /-- `SET_SHARED_SEVERITY` (R348). -/
  | setSharedSeverity (arg0 arg1 : DWord)
  /-- `QPROD_WRITE` (R424). -/
  | qprodWrite (p : PartNo) (q : BitVec 7) (v : DWord)
  /-- `QBASE_WRITE` (R424). -/
  | qbaseWrite (p : PartNo) (q : BitVec 7) (v : DWord)
  /-- `INV_WRITE` (R344). -/
  | invWrite (p : PartNo) (v : DWord)
  /-- `FAULT_MAPPED` (R343). -/
  | faultMapped (p : PartNo) (v : DWord)
  /-- `FAULT_DECLINED` (R343). -/
  | faultDeclined (p : PartNo) (v : DWord)
  /-- `SHELFC_WRITE` (R337). -/
  | shelfcWrite (p : PartNo) (v : DWord)
  /-- `WHISK_WRITE` (R345). -/
  | whiskWrite (p : PartNo) (v : DWord)
  /-- `EGG_WRITE` (R332). -/
  | eggWrite (p : PartNo) (v : DWord)
  /-- `SEV_WRITE` (R350). -/
  | sevWrite (p : PartNo) (cls : BitVec 4) (v : DWord)
  /-- `REGISTER_WRITE` (R345). -/
  | registerWrite (f : PcieFunction) (off : BitVec 16) (v : DWord)
  /-- `COPY_OUT_PROGRESS` (R211). -/
  | copyOutProgress (p : PartNo) (op : Nat)
  /-- `ROOT_COMPLEX_ACKNOWLEDGEMENT` (R420). -/
  | rootComplexAcknowledgement (p : PartNo) (line : BitVec 45)
  /-- `IEEE_1588_MESSAGE` (R422). -/
  | ieee1588Message (msg : PtpMessage)
  deriving DecidableEq, Repr

end Sys2Proof
end

