-- ==== Sys2Proof/WellFormed.lean ====
section
/-!
DEFINITION. Which instructions are well formed: the reserved field values of spec/02_words_and_syntax.md R59, the reserved
MODE and PERM values (R21, R25), the conditional zero fields of R109 and R306, and the unassigned words (R43, R68).
-/
namespace Sys2Proof

/-- A scope code of R57: 0 and 7 are reserved. -/
def scopeOk (s : BitVec 3) : Bool := s != 0 && s != 7

/-- A barrier that the level has (R59, R260). -/
def barrierOk (level : BitVec 2) (bar : BitVec 4) : Bool :=
  level == 0 || (level == 1 && decide (bar.toNat < 8)) || (level == 2 && decide (bar.toNat < 4))

/-- An argument width, and the argument register that width 2 requires to be 0 (R59, R306). -/
def widthOk (w : BitVec 2) (g : BitVec 6) : Bool := w != 3 && (w != 2 || g == 0)

/-- A MODE value that R21 accepts (bits [15:0]; the reserved bits [23:16] are no operand). -/
def modeOk (m : BitVec 16) : Bool := decide ((m.extractLsb' 5 3).toNat < 6)

/-- A PERM value that R25 accepts (bits [14:0]). -/
def permOk (p : BitVec 15) : Bool := decide ((p.extractLsb' 10 3).toNat < 5) && p.extractLsb' 13 2 != 3

/-- Whether a major opcode is assigned (R68). -/
def assigned (op : Nat) : Bool :=
  decide (op ≤ 0x1C) || (decide (0x20 ≤ op) && decide (op ≤ 0x65)) || (decide (0x68 ≤ op) && decide (op ≤ 0x7E)) ||
  (decide (0x80 ≤ op) && decide (op ≤ 0xB2)) || (decide (0xC0 ≤ op) && decide (op ≤ 0xCA)) ||
  (decide (0xD0 ≤ op) && decide (op ≤ 0xD5))

/-- A word whose major opcode is reserved; 0xFFFFFFFF is one of them (R43, R68). -/
def unassigned (w : Word) : Bool := !assigned (w.extractLsb' 24 8).toNat

/-- The well-formed instructions: those whose word no check of R42's orders 1 and 2 rejects, the illegal words taken as
themselves; an operation or event is always well formed. -/
def Instr.wf : Instr → Bool
  | .mode m => modeOk m
  | .pmode p => permOk p
  | .ceq c _ _ _ => decide (c.toNat < 5)
  | .cne c _ _ _ => decide (c.toNat < 5)
  | .clt c _ _ _ => decide (c.toNat < 5)
  | .cle c _ _ _ => decide (c.toNat < 5)
  | .cun c _ _ _ => decide (c.toNat < 5)
  | .ctst c _ _ _ => decide (c.toNat < 5)
  | .qop o _ _ b => decide (o.toNat < 6) || b == 0
  | .fclass c _ _ _ => decide (c.toNat < 5)
  | .cvt _ _ t => decide (t.toNat < 0x0E)
  | .ldacq _ _ _ s => scopeOk s
  | .strel _ _ _ s => scopeOk s
  | .cpy _ _ _ _ z => decide (z.toNat < 3)
  | .cpyo _ _ _ z => decide (z.toNat < 3)
  | .wcnt p _ => decide (p.toNat < 8)
  | .arv v b _ => barrierOk v b
  | .arva v b _ => barrierOk v b
  | .arvd v b _ => barrierOk v b
  | .bwait v b _ => barrierOk v b
  | .fence s k => scopeOk s && decide (k.toNat < 3)
  | .sendr _ _ _ _ z => decide (z.toNat < 3)
  | .wcall _ _ _ w g => widthOk w g
  | .wpost _ _ w g => widthOk w g
  | .illegalInstruction w => unassigned w
  | .nop | .exit | .bra _ | .call _ _ | .callr _ _ | .jr _ | .brany _ _ _ | .brall _ _ _ | .brnone _ _ _ | .bz _ _
    | .bnz _ _ | .emand _ _ | .emelse | .empop | .emrd _ | .emwr _ | .moder _ | .trap _ | .brk | .tret | .xset _ _ _
    | .xbnd _ _ _ | .xadd _ _ | .xrd _ _ | .choose _ _ | .ccall _ | .anch | .add _ _ _ | .sub _ _ _ | .mul _ _ _
    | .mulh _ _ _ | .mad _ _ _ | .msb _ _ _ | .mad2 _ _ _ | .dot4 _ _ _ | .abs _ _ | .neg _ _ | .min _ _ _
    | .max _ _ _ | .avg _ _ _ | .rsh _ _ _ | .addi _ _ _ | .muli _ _ _ | .and _ _ _ | .or _ _ _ | .xor _ _ _
    | .andn _ _ _ | .not _ _ | .shl _ _ _ | .shr _ _ _ | .sar _ _ _ | .rol _ _ _ | .shli _ _ _ | .shri _ _ _
    | .sari _ _ _ | .clz _ _ | .popc _ _ | .brev _ _ | .bfx _ _ _ _ | .qfv _ _ _ | .qfvAll _ | .qtv _ | .mov _ _
    | .movi _ _ | .movhi _ _ | .sel _ _ _ | .shfl _ _ _ | .hslide _ _ _ | .vfill _ _ | .fadd _ _ _ | .fsub _ _ _
    | .fmul _ _ _ | .fma _ _ _ | .fms _ _ _ | .fmin _ _ _ | .fmax _ _ _ | .fdiv _ _ _ | .fsqrt _ _ | .frcp _ _
    | .frsq _ _ | .fexp2 _ _ | .flog2 _ _ | .fsinpi _ _ | .fcospi _ _ | .frint _ _ | .fscale _ _ _ | .fgetexp _ _
    | .fnanc _ _ | .fdot2 _ _ _ | .sadd _ _ _ | .ssub _ _ _ | .smul _ _ _ | .saddi _ _ _ | .sand _ _ _ | .sor _ _ _
    | .sxor _ _ _ | .sshlReg _ _ _ | .sshlImm _ _ _ | .sshrReg _ _ _ | .sshrImm _ _ _ | .ssarReg _ _ _
    | .ssarImm _ _ _ | .smovi _ _ | .smovs _ _ | .sceq _ _ _ | .sclt _ _ _ | .scltn _ _ _ | .vred _ _ _
    | .vlane _ _ _ _ | .vins _ _ _ _ | .vote _ _ _ | .krd _ _ | .kwr _ _ | .sysrd _ _ | .syswr _ _ | .ldw _ _ _ _
    | .ldd _ _ _ _ | .ldq _ _ _ _ | .ldh _ _ _ _ | .ldb _ _ _ _ | .stw _ _ _ _ | .std _ _ _ _ | .stq _ _ _ _
    | .sth _ _ _ _ | .stb _ _ _ _ | .sld _ _ _ _ | .sst _ _ _ _ | .lds _ _ _ _ | .sts _ _ _ _ | .ldsq _ _ _ _
    | .stsq _ _ _ _ | .slk _ _ _ | .sfill _ _ _ | .sevict _ _ _ | .cpyt _ _ _ _ | .cpyv _ _ _ | .tbinit _ _ _
    | .tbarr _ _ _ | .tbwait _ _ | .ckopen _ _ _ _ _ _ | .ckseal _ _ _ | .ckdrop _ _ | .obres _ _ _ | .obrel _ _
    | .obld _ _ _ | .gath _ _ _ _ | .mrdy | .mstep _ _ _ _ | .mloop _ _ _ _ | .mfence _ _ | .mwait _ | .acfg _ _ _ _
    | .arel _ _ | .azero _ _ | .ard _ _ _ _ _ | .awr _ _ _ _ _ | .asave _ _ _ _ | .aload _ _ _ _ | .nanc _ _
    | .srseed _ | .ascal _ _ _ _ | .sendb _ _ _ _ | .cwait _ _ | .cset _ _ | .ckevict _ _ _ _ | .ckstat _ _ _
    | .wtake _ | .wreply _ | .wfail _ | .wscan _ _ _ | .loadReturn _ _ | .copySectorLanding _ _ | .sendLanding _ _
    | .sendAcknowledgement _ _ | .releaseFilterProbe _ _ _ | .lineAccess _ _ | .orderGateAdmit _ _ _
    | .requestArrival _ _ | .batchAssembly _ _ | .whiskReply _ _ | .fillLanding _ _ | .matrixStep _ _ _
    | .clusterPlacement _ | .finalCommit _ _ | .launchCompletion _ | .crockMoveDone _ _ | .eggTimerWindow _
    | .sieveDecision _ | .sieveBacktrack _ | .chunkFlushTimer _ _ _ | .freezeImage _ | .drainDeadline _
    | .gangSliceStart _ | .gangSliceEnd _ | .invalidationDone _ | .backgroundScrub _ _ _ | .patrolScrub _ _
    | .inFieldTest _ | .inFieldTestRun _ _ | .inFieldTestOverdue _ | .energyPeriod _ | .flitCrcError _ | .linkDead _
    | .injectionResume | .lostPacket _ _ | .linkNarrow _ _ | .linkWiden _ _ | .cxlPortDown _ | .hostWrite _ _
    | .hostRead _ _ | .timeOffsetNotice _ | .clockThrottle _ _ | .clockRaise _ | .thermalStop _ | .powerOnBoot _
    | .functionLevelReset _ | .firmwarePass | .reset _ _ | .setmode _ _ | .attach _ _ | .extend _ _ | .detach _ _
    | .buffers _ _ | .consume _ _ | .resume _ _ | .launch _ _ | .signalSet _ _ | .signalAdd _ _ | .wait _ _
    | .nopPacket _ _ | .unknownPacket _ _ | .null _ _ | .debug _ _ | .sigadd _ _ | .sleep _ _ | .sleepExpiry _ _
    | .unknownService _ _ | .freeze _ | .registerImageArea _ | .copyTableEntry _ | .clearSpoil _ | .copyDebugRing _
    | .loadLvc _ | .unloadKernel _ | .setTrustedKey _ | .extendMeasurement _ | .attest _ | .createPartition _ _
    | .destroyPartition _ _ | .setGranuleKey _ _ | .grantQueue _ _ | .grantPort _ _ | .updateFirmware _ _
    | .firmwareHandover | .setSharedSeverity _ _ | .qprodWrite _ _ _ | .qbaseWrite _ _ _ | .invWrite _ _
    | .faultMapped _ _ | .faultDeclined _ _ | .shelfcWrite _ _ | .whiskWrite _ _ | .eggWrite _ _ | .sevWrite _ _ _
    | .registerWrite _ _ _ | .copyOutProgress _ _ | .rootComplexAcknowledgement _ _ | .ieee1588Message _ => true

end Sys2Proof
end

