-- ==== Sys2Proof/Decode.lean ====
section
/-!
DEFINITION. Decoding and encoding of instruction words (spec/02_words_and_syntax.md R40, R42, R45, R49, R50, R59, R68).
Decoding is total on words and on bytes: it answers an instruction or a rejection by name.
-/
namespace Sys2Proof

/-- Why a word is rejected by the checks of R42's order 2. -/
inductive Reject where
  /-- A field that shall be zero is not, or a field holds a reserved value of R59: the word, and the lowest word bit that
  lies in an offending field (TINFO of R42). -/
  | reservedField (w : Word) (bit : Nat)
  /-- `mode` with a reserved value: the 24 bits it would write (R21). -/
  | modeValue (v : BitVec 24)
  /-- `pmode` with a reserved value (R25). -/
  | permValue (v : BitVec 24)
  /-- A nonzero LA where an entry requires 0 under R198 order 7a, or says no more than 0x02 (R219, R220, R294, R295): the
  instruction with LA 0, and the rejected value. -/
  | lookahead (i : Instr) (la : La)
  /-- Fewer bytes than a word. -/
  | truncated
  deriving DecidableEq, Repr

/-- The `len` bits of a word from bit `lo` upward (R5). -/
def fld (w : Word) (lo len : Nat) : BitVec len := w.extractLsb' lo len

/-- Some of the `len` bits from bit `lo` upward is 1. -/
def nz (w : Word) (lo len : Nat) : Bool := fld w lo len != 0

/-- The pattern of R45 with this code. -/
def Pattern.ofCode (c : BitVec 3) : Pattern :=
  match c.toNat with
  | 0 => .own | 1 => .rot | 2 => .bc | 3 => .bf | 4 => .mir | 5 => .sup | 6 => .sdn | _ => .idx

/-- The code of a pattern (R45). -/
def Pattern.code : Pattern → Nat
  | .own => 0 | .rot => 1 | .bc => 2 | .bf => 3 | .mir => 4 | .sup => 5 | .sdn => 6 | .idx => 7

/-- A 9-bit operand field (R45): the pattern in [8:6], the register field in [5:0]. -/
def opnd (x : BitVec 9) : Operand := ⟨.ofCode (x.extractLsb' 6 3), x.extractLsb' 0 6⟩

/-- The 9-bit field of an operand. -/
def Operand.code (o : Operand) : Nat := o.pat.code * 64 + o.reg.toNat

/-- The scope codes that R59 reserves. -/
def badScope (s : BitVec 3) : Bool := !scopeOk s

/-- A barrier number that R59 reserves at its level. -/
def badBarrier (level : BitVec 2) (bar : BitVec 4) : Bool := level != 3 && !barrierOk level bar

/-- The number of the first offending field, the fields listed by rising bit number. -/
def firstBad : List (Nat × Bool) → Option Nat
  | [] => none
  | (bit, bad) :: rest => if bad then some bit else firstBad rest

/-- An instruction, unless a listed field offends (R42 order 2). -/
def reserve (w : Word) (fields : List (Nat × Bool)) (i : Instr) : Except Reject Instr :=
  match firstBad fields with
  | some bit => .error (.reservedField w bit)
  | none => .ok i

/-- The same for an instruction whose LA field, bits [11:8], shall be 0 by its own entry (R219, R220, R294, R295). -/
def waitLa (w : Word) (fields : List (Nat × Bool)) (i : Instr) : Except Reject Instr :=
  match firstBad fields with
  | some bit => .error (.reservedField w bit)
  | none => if nz w 8 4 then .error (.lookahead i (fld w 8 4)) else .ok i

/-- `mode` (R21, R50, R145). -/
def decodeMode (w : Word) : Except Reject Instr :=
  if nz w 16 8 || !modeOk (fld w 0 16) then .error (.modeValue (fld w 0 24)) else .ok (.mode (fld w 0 16))

/-- `pmode` (R25, R50, R145). -/
def decodePmode (w : Word) : Except Reject Instr :=
  if nz w 15 9 || !permOk (fld w 0 15) then .error (.permValue (fld w 0 24)) else .ok (.pmode (fld w 0 15))

/-- Decoding of the opcodes 0x00 to 0x0F by their low half (R49, R50, R68). -/
def decode0 (lo : Nat) (w : Word) : Except Reject Instr :=
  match lo with
  | 0x0 => reserve w [(0, nz w 0 24)] (.nop)
  | 0x1 => reserve w [(0, nz w 0 24)] (.exit)
  | 0x2 => .ok (.bra (fld w 0 24))
  | 0x3 => .ok (.call (fld w 19 5) (fld w 0 19))
  | 0x4 => reserve w [(0, nz w 0 9), (9, nz w 9 5)] (.callr (fld w 19 5) (fld w 14 5))
  | 0x5 => reserve w [(0, nz w 0 9), (9, nz w 9 5), (19, nz w 19 5)] (.jr (fld w 14 5))
  | 0x6 => .ok (.brany (fld w 21 3) (nz w 20 1) (fld w 0 20))
  | 0x7 => .ok (.brall (fld w 21 3) (nz w 20 1) (fld w 0 20))
  | 0x8 => .ok (.brnone (fld w 21 3) (nz w 20 1) (fld w 0 20))
  | 0x9 => .ok (.bz (fld w 19 5) (fld w 0 19))
  | 0xA => .ok (.bnz (fld w 19 5) (fld w 0 19))
  | 0xB => reserve w [(0, nz w 0 17), (21, nz w 21 3)] (.emand (fld w 18 3) (nz w 17 1))
  | 0xC => reserve w [(0, nz w 0 24)] (.emelse)
  | 0xD => reserve w [(0, nz w 0 24)] (.empop)
  | 0xE => reserve w [(0, nz w 0 9), (9, nz w 9 5), (14, nz w 14 5)] (.emrd (fld w 19 5))
  | _ => reserve w [(0, nz w 0 9), (9, nz w 9 5), (19, nz w 19 5)] (.emwr (fld w 14 5))

/-- Decoding of the opcodes 0x10 to 0x1F by their low half (R49, R50, R68). -/
def decode1 (lo : Nat) (w : Word) : Except Reject Instr :=
  match lo with
  | 0x0 => decodeMode w
  | 0x1 => decodePmode w
  | 0x2 => reserve w [(0, nz w 0 9), (9, nz w 9 5), (19, nz w 19 5)] (.moder (fld w 14 5))
  | 0x3 => reserve w [(16, nz w 16 8)] (.trap (fld w 0 16))
  | 0x4 => reserve w [(0, nz w 0 24)] (.brk)
  | 0x5 => reserve w [(0, nz w 0 24)] (.tret)
  | 0x6 => reserve w [(20, nz w 20 1)] (.xset (fld w 21 3) (fld w 14 6) (fld w 0 14))
  | 0x7 => reserve w [(12, nz w 12 8), (20, nz w 20 1)] (.xbnd (fld w 21 3) (fld w 6 6) (fld w 0 6))
  | 0x8 => reserve w [(14, nz w 14 6), (20, nz w 20 1)] (.xadd (fld w 21 3) (fld w 0 14))
  | 0x9 => reserve w [(0, nz w 0 14), (20, nz w 20 1)] (.xrd (fld w 21 3) (fld w 14 6))
  | 0xA => reserve w [(0, nz w 0 9), (9, nz w 9 5)] (.choose (fld w 19 5) (fld w 14 5))
  | 0xB => reserve w [(16, nz w 16 8)] (.ccall (fld w 0 16))
  | 0xC => reserve w [(0, nz w 0 24)] (.anch)
  | _ => .ok (.illegalInstruction w)

/-- Decoding of the opcodes 0x20 to 0x2F by their low half (R49, R50, R68). -/
def decode2 (lo : Nat) (w : Word) : Except Reject Instr :=
  match lo with
  | 0x0 => .ok (.add (fld w 18 6) (opnd (fld w 9 9)) (opnd (fld w 0 9)))
  | 0x1 => .ok (.sub (fld w 18 6) (opnd (fld w 9 9)) (opnd (fld w 0 9)))
  | 0x2 => .ok (.mul (fld w 18 6) (opnd (fld w 9 9)) (opnd (fld w 0 9)))
  | 0x3 => .ok (.mulh (fld w 18 6) (opnd (fld w 9 9)) (opnd (fld w 0 9)))
  | 0x4 => .ok (.mad (fld w 18 6) (opnd (fld w 9 9)) (opnd (fld w 0 9)))
  | 0x5 => .ok (.msb (fld w 18 6) (opnd (fld w 9 9)) (opnd (fld w 0 9)))
  | 0x6 => .ok (.mad2 (fld w 18 6) (opnd (fld w 9 9)) (opnd (fld w 0 9)))
  | 0x7 => .ok (.dot4 (fld w 18 6) (opnd (fld w 9 9)) (opnd (fld w 0 9)))
  | 0x8 => reserve w [(0, nz w 0 9)] (.abs (fld w 18 6) (opnd (fld w 9 9)))
  | 0x9 => reserve w [(0, nz w 0 9)] (.neg (fld w 18 6) (opnd (fld w 9 9)))
  | 0xA => .ok (.min (fld w 18 6) (opnd (fld w 9 9)) (opnd (fld w 0 9)))
  | 0xB => .ok (.max (fld w 18 6) (opnd (fld w 9 9)) (opnd (fld w 0 9)))
  | 0xC => .ok (.avg (fld w 18 6) (opnd (fld w 9 9)) (opnd (fld w 0 9)))
  | 0xD => .ok (.rsh (fld w 18 6) (opnd (fld w 9 9)) (opnd (fld w 0 9)))
  | 0xE => .ok (.addi (fld w 18 6) (fld w 12 6) (fld w 0 12))
  | _ => .ok (.muli (fld w 18 6) (fld w 12 6) (fld w 0 12))

/-- Decoding of the opcodes 0x30 to 0x3F by their low half (R49, R50, R68). -/
def decode3 (lo : Nat) (w : Word) : Except Reject Instr :=
  match lo with
  | 0x0 => .ok (.and (fld w 18 6) (opnd (fld w 9 9)) (opnd (fld w 0 9)))
  | 0x1 => .ok (.or (fld w 18 6) (opnd (fld w 9 9)) (opnd (fld w 0 9)))
  | 0x2 => .ok (.xor (fld w 18 6) (opnd (fld w 9 9)) (opnd (fld w 0 9)))
  | 0x3 => .ok (.andn (fld w 18 6) (opnd (fld w 9 9)) (opnd (fld w 0 9)))
  | 0x4 => reserve w [(0, nz w 0 9)] (.not (fld w 18 6) (opnd (fld w 9 9)))
  | 0x5 => .ok (.shl (fld w 18 6) (opnd (fld w 9 9)) (opnd (fld w 0 9)))
  | 0x6 => .ok (.shr (fld w 18 6) (opnd (fld w 9 9)) (opnd (fld w 0 9)))
  | 0x7 => .ok (.sar (fld w 18 6) (opnd (fld w 9 9)) (opnd (fld w 0 9)))
  | 0x8 => .ok (.rol (fld w 18 6) (opnd (fld w 9 9)) (opnd (fld w 0 9)))
  | 0x9 => reserve w [(6, nz w 6 6)] (.shli (fld w 18 6) (fld w 12 6) (fld w 0 6))
  | 0xA => reserve w [(6, nz w 6 6)] (.shri (fld w 18 6) (fld w 12 6) (fld w 0 6))
  | 0xB => reserve w [(6, nz w 6 6)] (.sari (fld w 18 6) (fld w 12 6) (fld w 0 6))
  | 0xC => reserve w [(0, nz w 0 9)] (.clz (fld w 18 6) (opnd (fld w 9 9)))
  | 0xD => reserve w [(0, nz w 0 9)] (.popc (fld w 18 6) (opnd (fld w 9 9)))
  | 0xE => reserve w [(0, nz w 0 9)] (.brev (fld w 18 6) (opnd (fld w 9 9)))
  | _ => .ok (.bfx (fld w 18 6) (fld w 12 6) (fld w 6 6) (fld w 0 6))

/-- Decoding of the opcodes 0x40 to 0x4F by their low half (R49, R50, R68). -/
def decode4 (lo : Nat) (w : Word) : Except Reject Instr :=
  match lo with
  | 0x0 => reserve w [(21, decide (5 ≤ (fld w 21 3).toNat))] (.ceq (fld w 21 3) (fld w 18 3) (opnd (fld w 9 9)) (opnd (fld w 0 9)))
  | 0x1 => reserve w [(21, decide (5 ≤ (fld w 21 3).toNat))] (.cne (fld w 21 3) (fld w 18 3) (opnd (fld w 9 9)) (opnd (fld w 0 9)))
  | 0x2 => reserve w [(21, decide (5 ≤ (fld w 21 3).toNat))] (.clt (fld w 21 3) (fld w 18 3) (opnd (fld w 9 9)) (opnd (fld w 0 9)))
  | 0x3 => reserve w [(21, decide (5 ≤ (fld w 21 3).toNat))] (.cle (fld w 21 3) (fld w 18 3) (opnd (fld w 9 9)) (opnd (fld w 0 9)))
  | 0x4 => reserve w [(21, decide (5 ≤ (fld w 21 3).toNat))] (.cun (fld w 21 3) (fld w 18 3) (opnd (fld w 9 9)) (opnd (fld w 0 9)))
  | 0x5 => reserve w [(21, decide (5 ≤ (fld w 21 3).toNat))] (.ctst (fld w 21 3) (fld w 18 3) (opnd (fld w 9 9)) (opnd (fld w 0 9)))
  | 0x6 => reserve w [(0, nz w 0 12), (12, decide (6 ≤ (fld w 21 3).toNat) && nz w 12 3)] (.qop (fld w 21 3) (fld w 18 3) (fld w 15 3) (fld w 12 3))
  | 0x7 => if nz w 11 1 then reserve w [(0, nz w 0 5), (5, nz w 5 6), (18, nz w 18 3), (21, nz w 21 3)] (.qfvAll (fld w 12 6))
    else reserve w [(5, nz w 5 6), (21, nz w 21 3)] (.qfv (fld w 18 3) (fld w 12 6) (fld w 0 5))
  | 0x8 => reserve w [(0, nz w 0 9), (9, nz w 9 9)] (.qtv (fld w 18 6))
  | 0x9 => reserve w [(0, nz w 0 9)] (.mov (fld w 18 6) (opnd (fld w 9 9)))
  | 0xA => .ok (.movi (fld w 18 6) (fld w 0 18))
  | 0xB => .ok (.movhi (fld w 18 6) (fld w 0 18))
  | 0xC => .ok (.sel (fld w 18 6) (opnd (fld w 9 9)) (opnd (fld w 0 9)))
  | 0xD => .ok (.shfl (fld w 18 6) (opnd (fld w 9 9)) (opnd (fld w 0 9)))
  | 0xE => reserve w [(0, nz w 0 8)] (.hslide (fld w 18 6) (opnd (fld w 9 9)) (nz w 8 1))
  | _ => reserve w [(0, nz w 0 13)] (.vfill (fld w 18 6) (fld w 13 5))

/-- Decoding of the opcodes 0x50 to 0x5F by their low half (R49, R50, R68). -/
def decode5 (lo : Nat) (w : Word) : Except Reject Instr :=
  match lo with
  | 0x0 => .ok (.fadd (fld w 18 6) (opnd (fld w 9 9)) (opnd (fld w 0 9)))
  | 0x1 => .ok (.fsub (fld w 18 6) (opnd (fld w 9 9)) (opnd (fld w 0 9)))
  | 0x2 => .ok (.fmul (fld w 18 6) (opnd (fld w 9 9)) (opnd (fld w 0 9)))
  | 0x3 => .ok (.fma (fld w 18 6) (opnd (fld w 9 9)) (opnd (fld w 0 9)))
  | 0x4 => .ok (.fms (fld w 18 6) (opnd (fld w 9 9)) (opnd (fld w 0 9)))
  | 0x5 => .ok (.fmin (fld w 18 6) (opnd (fld w 9 9)) (opnd (fld w 0 9)))
  | 0x6 => .ok (.fmax (fld w 18 6) (opnd (fld w 9 9)) (opnd (fld w 0 9)))
  | 0x7 => .ok (.fdiv (fld w 18 6) (opnd (fld w 9 9)) (opnd (fld w 0 9)))
  | 0x8 => reserve w [(0, nz w 0 9)] (.fsqrt (fld w 18 6) (opnd (fld w 9 9)))
  | 0x9 => reserve w [(0, nz w 0 9)] (.frcp (fld w 18 6) (opnd (fld w 9 9)))
  | 0xA => reserve w [(0, nz w 0 9)] (.frsq (fld w 18 6) (opnd (fld w 9 9)))
  | 0xB => reserve w [(0, nz w 0 9)] (.fexp2 (fld w 18 6) (opnd (fld w 9 9)))
  | 0xC => reserve w [(0, nz w 0 9)] (.flog2 (fld w 18 6) (opnd (fld w 9 9)))
  | 0xD => reserve w [(0, nz w 0 9)] (.fsinpi (fld w 18 6) (opnd (fld w 9 9)))
  | 0xE => reserve w [(0, nz w 0 9)] (.fcospi (fld w 18 6) (opnd (fld w 9 9)))
  | _ => reserve w [(0, nz w 0 9)] (.frint (fld w 18 6) (opnd (fld w 9 9)))

/-- Decoding of the opcodes 0x60 to 0x6F by their low half (R49, R50, R68). -/
def decode6 (lo : Nat) (w : Word) : Except Reject Instr :=
  match lo with
  | 0x0 => reserve w [(21, decide (5 ≤ (fld w 21 3).toNat))] (.fclass (fld w 21 3) (fld w 18 3) (opnd (fld w 9 9)) (fld w 0 9))
  | 0x1 => reserve w [(0, nz w 0 4), (4, decide (0x0E ≤ (fld w 4 5).toNat))] (.cvt (fld w 18 6) (opnd (fld w 9 9)) (fld w 4 5))
  | 0x2 => .ok (.fscale (fld w 18 6) (opnd (fld w 9 9)) (opnd (fld w 0 9)))
  | 0x3 => reserve w [(0, nz w 0 9)] (.fgetexp (fld w 18 6) (opnd (fld w 9 9)))
  | 0x4 => reserve w [(0, nz w 0 9)] (.fnanc (fld w 18 6) (opnd (fld w 9 9)))
  | 0x5 => .ok (.fdot2 (fld w 18 6) (opnd (fld w 9 9)) (opnd (fld w 0 9)))
  | 0x8 => reserve w [(0, nz w 0 9)] (.sadd (fld w 19 5) (fld w 14 5) (fld w 9 5))
  | 0x9 => reserve w [(0, nz w 0 9)] (.ssub (fld w 19 5) (fld w 14 5) (fld w 9 5))
  | 0xA => reserve w [(0, nz w 0 9)] (.smul (fld w 19 5) (fld w 14 5) (fld w 9 5))
  | 0xB => .ok (.saddi (fld w 19 5) (fld w 14 5) (fld w 0 14))
  | 0xC => reserve w [(0, nz w 0 9)] (.sand (fld w 19 5) (fld w 14 5) (fld w 9 5))
  | 0xD => reserve w [(0, nz w 0 9)] (.sor (fld w 19 5) (fld w 14 5) (fld w 9 5))
  | 0xE => reserve w [(0, nz w 0 9)] (.sxor (fld w 19 5) (fld w 14 5) (fld w 9 5))
  | 0xF => if nz w 8 1 then reserve w [(6, nz w 6 2), (9, nz w 9 5)] (.sshlImm (fld w 19 5) (fld w 14 5) (fld w 0 6))
    else reserve w [(0, nz w 0 8)] (.sshlReg (fld w 19 5) (fld w 14 5) (fld w 9 5))
  | _ => .ok (.illegalInstruction w)

/-- Decoding of the opcodes 0x70 to 0x7F by their low half (R49, R50, R68). -/
def decode7 (lo : Nat) (w : Word) : Except Reject Instr :=
  match lo with
  | 0x0 => if nz w 8 1 then reserve w [(6, nz w 6 2), (9, nz w 9 5)] (.sshrImm (fld w 19 5) (fld w 14 5) (fld w 0 6))
    else reserve w [(0, nz w 0 8)] (.sshrReg (fld w 19 5) (fld w 14 5) (fld w 9 5))
  | 0x1 => if nz w 8 1 then reserve w [(6, nz w 6 2), (9, nz w 9 5)] (.ssarImm (fld w 19 5) (fld w 14 5) (fld w 0 6))
    else reserve w [(0, nz w 0 8)] (.ssarReg (fld w 19 5) (fld w 14 5) (fld w 9 5))
  | 0x2 => .ok (.smovi (fld w 19 5) (fld w 0 19))
  | 0x3 => .ok (.smovs (fld w 19 5) (fld w 0 19))
  | 0x4 => reserve w [(0, nz w 0 9)] (.sceq (fld w 19 5) (fld w 14 5) (fld w 9 5))
  | 0x5 => reserve w [(0, nz w 0 9)] (.sclt (fld w 19 5) (fld w 14 5) (fld w 9 5))
  | 0x6 => reserve w [(0, nz w 0 9)] (.scltn (fld w 19 5) (fld w 14 5) (fld w 9 5))
  | 0x7 => reserve w [(9, nz w 9 5), (14, nz w 14 5)] (.vred (fld w 19 5) (fld w 6 3) (fld w 0 6))
  | 0x8 => reserve w [(7, nz w 7 2), (9, nz w 9 5)] (.vlane (fld w 19 5) (fld w 14 5) (nz w 6 1) (fld w 0 6))
  | 0x9 => reserve w [(7, nz w 7 2), (19, nz w 19 5)] (.vins (fld w 14 5) (fld w 9 5) (nz w 6 1) (fld w 0 6))
  | 0xA => reserve w [(5, nz w 5 4), (9, nz w 9 5), (14, nz w 14 5)] (.vote (fld w 19 5) (fld w 3 2) (fld w 0 3))
  | 0xB => reserve w [(4, nz w 4 5), (9, nz w 9 5), (14, nz w 14 5)] (.krd (fld w 19 5) (fld w 0 4))
  | 0xC => reserve w [(4, nz w 4 5), (9, nz w 9 5), (19, nz w 19 5)] (.kwr (fld w 14 5) (fld w 0 4))
  | 0xD => reserve w [(0, nz w 0 11)] (.sysrd (fld w 16 8) (fld w 11 5))
  | 0xE => reserve w [(0, nz w 0 11)] (.syswr (fld w 16 8) (fld w 11 5))
  | _ => .ok (.illegalInstruction w)

/-- Decoding of the opcodes 0x80 to 0x8F by their low half (R49, R50, R68). -/
def decode8 (lo : Nat) (w : Word) : Except Reject Instr :=
  match lo with
  | 0x0 => .ok (.ldw (fld w 18 6) (fld w 12 6) (fld w 8 4) (fld w 0 8))
  | 0x1 => .ok (.ldd (fld w 18 6) (fld w 12 6) (fld w 8 4) (fld w 0 8))
  | 0x2 => .ok (.ldq (fld w 18 6) (fld w 12 6) (fld w 8 4) (fld w 0 8))
  | 0x3 => .ok (.ldh (fld w 18 6) (fld w 12 6) (fld w 8 4) (fld w 0 8))
  | 0x4 => .ok (.ldb (fld w 18 6) (fld w 12 6) (fld w 8 4) (fld w 0 8))
  | 0x5 => .ok (.stw (fld w 18 6) (fld w 12 6) (fld w 8 4) (fld w 0 8))
  | 0x6 => .ok (.std (fld w 18 6) (fld w 12 6) (fld w 8 4) (fld w 0 8))
  | 0x7 => .ok (.stq (fld w 18 6) (fld w 12 6) (fld w 8 4) (fld w 0 8))
  | 0x8 => .ok (.sth (fld w 18 6) (fld w 12 6) (fld w 8 4) (fld w 0 8))
  | 0x9 => .ok (.stb (fld w 18 6) (fld w 12 6) (fld w 8 4) (fld w 0 8))
  | 0xA => reserve w [(0, badScope (fld w 0 3)), (3, nz w 3 5)] (.ldacq (fld w 18 6) (fld w 12 6) (fld w 8 4) (fld w 0 3))
  | 0xB => reserve w [(0, badScope (fld w 0 3)), (3, nz w 3 5)] (.strel (fld w 18 6) (fld w 12 6) (fld w 8 4) (fld w 0 3))
  | 0xC => reserve w [(12, nz w 12 2)] (.sld (fld w 19 5) (fld w 14 5) (fld w 8 4) (fld w 0 8))
  | 0xD => reserve w [(12, nz w 12 2)] (.sst (fld w 19 5) (fld w 14 5) (fld w 8 4) (fld w 0 8))
  | 0xE => .ok (.lds (fld w 18 6) (fld w 12 6) (fld w 8 4) (fld w 0 8))
  | _ => .ok (.sts (fld w 18 6) (fld w 12 6) (fld w 8 4) (fld w 0 8))

/-- Decoding of the opcodes 0x90 to 0x9F by their low half (R49, R50, R68). -/
def decode9 (lo : Nat) (w : Word) : Except Reject Instr :=
  match lo with
  | 0x0 => .ok (.ldsq (fld w 18 6) (fld w 12 6) (fld w 8 4) (fld w 0 8))
  | 0x1 => .ok (.stsq (fld w 18 6) (fld w 12 6) (fld w 8 4) (fld w 0 8))
  | 0x2 => reserve w [(0, nz w 0 8), (12, nz w 12 2)] (.slk (fld w 19 5) (fld w 14 5) (fld w 8 4))
  | 0x3 => reserve w [(0, nz w 0 8), (12, nz w 12 2)] (.sfill (fld w 19 5) (fld w 14 5) (fld w 8 4))
  | 0x4 => reserve w [(0, nz w 0 8), (14, nz w 14 5)] (.sevict (fld w 19 5) (fld w 12 2) (fld w 8 4))
  | 0x5 => reserve w [(0, decide (2 < (fld w 0 3).toNat))] (.cpy (fld w 18 6) (fld w 12 6) (fld w 8 4) (fld w 3 5) (fld w 0 3))
  | 0x6 => reserve w [(0, decide (2 < (fld w 0 3).toNat)), (3, nz w 3 5)] (.cpyo (fld w 18 6) (fld w 12 6) (fld w 8 4) (fld w 0 3))
  | 0x7 => reserve w [(0, nz w 0 8)] (.cpyt (fld w 19 5) (fld w 14 5) (fld w 12 2) (fld w 8 4))
  | 0x8 => reserve w [(0, nz w 0 8), (12, nz w 12 2)] (.cpyv (fld w 19 5) (fld w 14 5) (fld w 8 4))
  | 0x9 => reserve w [(0, nz w 0 8), (12, nz w 12 2)] (.tbinit (fld w 19 5) (fld w 14 5) (fld w 8 4))
  | 0xA => reserve w [(0, nz w 0 8), (12, nz w 12 2)] (.tbarr (fld w 19 5) (fld w 14 5) (fld w 8 4))
  | 0xB => waitLa w [(0, nz w 0 8), (12, nz w 12 2)] (.tbwait (fld w 19 5) (fld w 14 5))
  | 0xC => waitLa w [(12, nz w 12 2), (14, nz w 14 5), (19, decide (8 ≤ (fld w 19 5).toNat))] (.wcnt (fld w 19 5) (fld w 0 8))
  | 0xD => .ok (.ckopen (fld w 19 5) (fld w 14 5) (fld w 12 2) (fld w 8 4) (nz w 7 1) (fld w 0 7))
  | 0xE => reserve w [(0, nz w 0 8), (12, nz w 12 2)] (.ckseal (fld w 19 5) (fld w 14 5) (fld w 8 4))
  | _ => reserve w [(0, nz w 0 8), (12, nz w 12 2), (19, nz w 19 5)] (.ckdrop (fld w 14 5) (fld w 8 4))

/-- Decoding of the opcodes 0xA0 to 0xAF by their low half (R49, R50, R68). -/
def decodeA (lo : Nat) (w : Word) : Except Reject Instr :=
  match lo with
  | 0x0 => reserve w [(0, nz w 0 8), (12, nz w 12 2)] (.obres (fld w 19 5) (fld w 14 5) (fld w 8 4))
  | 0x1 => reserve w [(0, nz w 0 8), (12, nz w 12 2), (19, nz w 19 5)] (.obrel (fld w 14 5) (fld w 8 4))
  | 0x2 => reserve w [(0, nz w 0 8), (12, nz w 12 2)] (.obld (fld w 19 5) (fld w 14 5) (fld w 8 4))
  | 0x3 => reserve w [(6, nz w 6 2), (12, nz w 12 2)] (.gath (fld w 19 5) (fld w 14 5) (fld w 8 4) (fld w 0 6))
  | 0x4 => reserve w [(0, nz w 0 8), (8, nz w 8 4), (12, nz w 12 2), (14, nz w 14 5), (19, nz w 19 5)] (.mrdy)
  | 0x5 => reserve w [(3, nz w 3 5), (12, nz w 12 2)] (.mstep (fld w 19 5) (fld w 14 5) (fld w 8 4) (fld w 0 3))
  | 0x6 => reserve w [(3, nz w 3 5), (12, nz w 12 2)] (.mloop (fld w 19 5) (fld w 14 5) (fld w 8 4) (fld w 0 3))
  | 0x7 => reserve w [(0, nz w 0 8), (12, nz w 12 2), (14, nz w 14 5)] (.mfence (fld w 19 5) (fld w 8 4))
  | 0x8 => reserve w [(0, nz w 0 8), (8, nz w 8 4), (12, nz w 12 2), (14, nz w 14 5)] (.mwait (fld w 19 5))
  | 0x9 => reserve w [(3, nz w 3 5), (19, nz w 19 5)] (.acfg (fld w 14 5) (fld w 12 2) (fld w 8 4) (fld w 0 3))
  | 0xA => reserve w [(3, nz w 3 5), (12, nz w 12 2), (14, nz w 14 5), (19, nz w 19 5)] (.arel (fld w 8 4) (fld w 0 3))
  | 0xB => reserve w [(3, nz w 3 5), (12, nz w 12 2), (14, nz w 14 5), (19, nz w 19 5)] (.azero (fld w 8 4) (fld w 0 3))
  | 0xC => .ok (.ard (fld w 18 6) (fld w 15 3) (fld w 8 7) (fld w 4 4) (fld w 0 4))
  | 0xD => .ok (.awr (fld w 18 6) (fld w 15 3) (fld w 8 7) (fld w 4 4) (fld w 0 4))
  | 0xE => reserve w [(3, nz w 3 5), (12, nz w 12 2)] (.asave (fld w 19 5) (fld w 14 5) (fld w 8 4) (fld w 0 3))
  | _ => reserve w [(3, nz w 3 5), (12, nz w 12 2)] (.aload (fld w 19 5) (fld w 14 5) (fld w 8 4) (fld w 0 3))

/-- Decoding of the opcodes 0xB0 to 0xBF by their low half (R49, R50, R68). -/
def decodeB (lo : Nat) (w : Word) : Except Reject Instr :=
  match lo with
  | 0x0 => reserve w [(0, nz w 0 9), (9, nz w 9 5)] (.nanc (fld w 19 5) (fld w 14 5))
  | 0x1 => reserve w [(0, nz w 0 9), (9, nz w 9 5), (19, nz w 19 5)] (.srseed (fld w 14 5))
  | 0x2 => reserve w [(0, nz w 0 4)] (.ascal (fld w 18 6) (fld w 15 3) (fld w 8 7) (fld w 4 4))
  | _ => .ok (.illegalInstruction w)

/-- Decoding of the opcodes 0xC0 to 0xCF by their low half (R49, R50, R68). -/
def decodeC (lo : Nat) (w : Word) : Except Reject Instr :=
  match lo with
  | 0x0 => reserve w [(0, nz w 0 13), (18, badBarrier (fld w 22 2) (fld w 18 4)), (22, fld w 22 2 == 3)] (.arv (fld w 22 2) (fld w 18 4) (fld w 13 5))
  | 0x1 => reserve w [(0, nz w 0 13), (18, badBarrier (fld w 22 2) (fld w 18 4)), (22, fld w 22 2 == 3)] (.arva (fld w 22 2) (fld w 18 4) (fld w 13 5))
  | 0x2 => reserve w [(0, nz w 0 13), (18, badBarrier (fld w 22 2) (fld w 18 4)), (22, fld w 22 2 == 3)] (.arvd (fld w 22 2) (fld w 18 4) (fld w 13 5))
  | 0x3 => reserve w [(0, nz w 0 13), (18, badBarrier (fld w 22 2) (fld w 18 4)), (22, fld w 22 2 == 3)] (.bwait (fld w 22 2) (fld w 18 4) (fld w 13 5))
  | 0x4 => reserve w [(0, nz w 0 18), (18, decide (2 < (fld w 18 3).toNat)), (21, badScope (fld w 21 3))] (.fence (fld w 21 3) (fld w 18 3))
  | 0x5 => reserve w [(0, decide (2 < (fld w 0 3).toNat))] (.sendr (fld w 18 6) (fld w 12 6) (fld w 8 4) (fld w 3 5) (fld w 0 3))
  | 0x6 => reserve w [(0, nz w 0 8)] (.sendb (fld w 19 5) (fld w 14 5) (fld w 12 2) (fld w 8 4))
  | 0x7 => waitLa w [(0, nz w 0 8), (12, nz w 12 2)] (.cwait (fld w 19 5) (fld w 14 5))
  | 0x8 => waitLa w [(0, nz w 0 8), (12, nz w 12 2)] (.cset (fld w 19 5) (fld w 14 5))
  | 0x9 => reserve w [(0, nz w 0 8)] (.ckevict (fld w 19 5) (fld w 14 5) (fld w 12 2) (fld w 8 4))
  | 0xA => reserve w [(0, nz w 0 8), (12, nz w 12 2)] (.ckstat (fld w 19 5) (fld w 14 5) (fld w 8 4))
  | _ => .ok (.illegalInstruction w)

/-- Decoding of the opcodes 0xD0 to 0xDF by their low half (R49, R50, R68). -/
def decodeD (lo : Nat) (w : Word) : Except Reject Instr :=
  match lo with
  | 0x0 => reserve w [(0, fld w 6 2 == 2 && nz w 0 6), (6, fld w 6 2 == 3)] (.wcall (fld w 18 6) (fld w 12 6) (fld w 8 4) (fld w 6 2) (fld w 0 6))
  | 0x1 => reserve w [(0, fld w 6 2 == 2 && nz w 0 6), (6, fld w 6 2 == 3), (18, nz w 18 6)] (.wpost (fld w 12 6) (fld w 8 4) (fld w 6 2) (fld w 0 6))
  | 0x2 => reserve w [(0, nz w 0 8), (8, nz w 8 4), (12, nz w 12 2), (14, nz w 14 5)] (.wtake (fld w 19 5))
  | 0x3 => reserve w [(0, nz w 0 9), (18, nz w 18 6)] (.wreply (opnd (fld w 9 9)))
  | 0x4 => reserve w [(7, nz w 7 1), (8, nz w 8 4), (12, nz w 12 2), (14, nz w 14 5), (19, nz w 19 5)] (.wfail (fld w 0 7))
  | 0x5 => reserve w [(3, nz w 3 6)] (.wscan (fld w 18 6) (opnd (fld w 9 9)) (fld w 0 3))
  | _ => .ok (.illegalInstruction w)

/-- Decoding of a word (R42 orders 1 and 2, R68, R69): it depends on nothing but the word. -/
def decode (w : Word) : Except Reject Instr :=
  match (fld w 28 4).toNat with
  | 0x0 => decode0 (fld w 24 4).toNat w
  | 0x1 => decode1 (fld w 24 4).toNat w
  | 0x2 => decode2 (fld w 24 4).toNat w
  | 0x3 => decode3 (fld w 24 4).toNat w
  | 0x4 => decode4 (fld w 24 4).toNat w
  | 0x5 => decode5 (fld w 24 4).toNat w
  | 0x6 => decode6 (fld w 24 4).toNat w
  | 0x7 => decode7 (fld w 24 4).toNat w
  | 0x8 => decode8 (fld w 24 4).toNat w
  | 0x9 => decode9 (fld w 24 4).toNat w
  | 0xA => decodeA (fld w 24 4).toNat w
  | 0xB => decodeB (fld w 24 4).toNat w
  | 0xC => decodeC (fld w 24 4).toNat w
  | 0xD => decodeD (fld w 24 4).toNat w
  | _ => .ok (.illegalInstruction w)

/-- The word in the first four of a list of bytes, little-endian (R4, R40). -/
def wordOf (b0 b1 b2 b3 : Byte) : Word :=
  BitVec.ofNat 32 (b0.toNat + b1.toNat * 2^8 + b2.toNat * 2^16 + b3.toNat * 2^24)

/-- Decoding of bytes: the instruction in the first word, and the bytes after it. -/
def decodeBytes : List Byte → Except Reject (Instr × List Byte)
  | b0 :: b1 :: b2 :: b3 :: rest =>
    match decode (wordOf b0 b1 b2 b3) with
    | .ok i => .ok (i, rest)
    | .error e => .error e
  | _ => .error .truncated

/-- The bytes of a word as memory holds them (R4, R40). -/
def bytesOf (w : Word) : List Byte := [fld w 0 8, fld w 8 8, fld w 16 8, fld w 24 8]

/-- The instruction that the decoder reads from the bits of a row of spec/opcode_table.json, laid out as memory holds
them, with every bit from `nbits` upward 0. -/
def decodeTableWord (nbits w : Nat) : Option Instr :=
  match decodeBytes (bytesOf (BitVec.ofNat 32 (w % 2 ^ nbits))) with
  | .ok (i, _) => some i
  | .error _ => none

/-- The sum of field values, each shifted to its lowest bit. -/
def place : List (Nat × Nat) → Nat
  | [] => 0
  | (lo, x) :: rest => x * 2 ^ lo + place rest

/-- A word from its opcode bits and its fields, each with its lowest bit. -/
def word (op : Nat) (fields : List (Nat × Nat)) : Option Word := some (BitVec.ofNat 32 (op + place fields))

/-- The word of an instruction (R49, R50, R68); an operation or event has none. -/
def encode : Instr → Option Word
  | .nop => word 0x00000000 []
  | .exit => word 0x01000000 []
  | .bra o => word 0x02000000 [(0, o.toNat)]
  | .call l o => word 0x03000000 [(19, l.toNat), (0, o.toNat)]
  | .callr d a => word 0x04000000 [(19, d.toNat), (14, a.toNat)]
  | .jr a => word 0x05000000 [(14, a.toNat)]
  | .brany q n o => word 0x06000000 [(21, q.toNat), (20, n.toNat), (0, o.toNat)]
  | .brall q n o => word 0x07000000 [(21, q.toNat), (20, n.toNat), (0, o.toNat)]
  | .brnone q n o => word 0x08000000 [(21, q.toNat), (20, n.toNat), (0, o.toNat)]
  | .bz s o => word 0x09000000 [(19, s.toNat), (0, o.toNat)]
  | .bnz s o => word 0x0A000000 [(19, s.toNat), (0, o.toNat)]
  | .emand q n => word 0x0B000000 [(18, q.toNat), (17, n.toNat)]
  | .emelse => word 0x0C000000 []
  | .empop => word 0x0D000000 []
  | .emrd d => word 0x0E000000 [(19, d.toNat)]
  | .emwr a => word 0x0F000000 [(14, a.toNat)]
  | .mode m => word 0x10000000 [(0, m.toNat)]
  | .pmode p => word 0x11000000 [(0, p.toNat)]
  | .moder a => word 0x12000000 [(14, a.toNat)]
  | .trap i => word 0x13000000 [(0, i.toNat)]
  | .brk => word 0x14000000 []
  | .tret => word 0x15000000 []
  | .xset k v i => word 0x16000000 [(21, k.toNat), (14, v.toNat), (0, i.toNat)]
  | .xbnd k l h => word 0x17000000 [(21, k.toNat), (6, l.toNat), (0, h.toNat)]
  | .xadd k i => word 0x18000000 [(21, k.toNat), (0, i.toNat)]
  | .xrd k d => word 0x19000000 [(21, k.toNat), (14, d.toNat)]
  | .choose d a => word 0x1A000000 [(19, d.toNat), (14, a.toNat)]
  | .ccall i => word 0x1B000000 [(0, i.toNat)]
  | .anch => word 0x1C000000 []
  | .add d a b => word 0x20000000 [(18, d.toNat), (9, a.code), (0, b.code)]
  | .sub d a b => word 0x21000000 [(18, d.toNat), (9, a.code), (0, b.code)]
  | .mul d a b => word 0x22000000 [(18, d.toNat), (9, a.code), (0, b.code)]
  | .mulh d a b => word 0x23000000 [(18, d.toNat), (9, a.code), (0, b.code)]
  | .mad d a b => word 0x24000000 [(18, d.toNat), (9, a.code), (0, b.code)]
  | .msb d a b => word 0x25000000 [(18, d.toNat), (9, a.code), (0, b.code)]
  | .mad2 d a b => word 0x26000000 [(18, d.toNat), (9, a.code), (0, b.code)]
  | .dot4 d a b => word 0x27000000 [(18, d.toNat), (9, a.code), (0, b.code)]
  | .abs d a => word 0x28000000 [(18, d.toNat), (9, a.code)]
  | .neg d a => word 0x29000000 [(18, d.toNat), (9, a.code)]
  | .min d a b => word 0x2A000000 [(18, d.toNat), (9, a.code), (0, b.code)]
  | .max d a b => word 0x2B000000 [(18, d.toNat), (9, a.code), (0, b.code)]
  | .avg d a b => word 0x2C000000 [(18, d.toNat), (9, a.code), (0, b.code)]
  | .rsh d a b => word 0x2D000000 [(18, d.toNat), (9, a.code), (0, b.code)]
  | .addi d a i => word 0x2E000000 [(18, d.toNat), (12, a.toNat), (0, i.toNat)]
  | .muli d a i => word 0x2F000000 [(18, d.toNat), (12, a.toNat), (0, i.toNat)]
  | .and d a b => word 0x30000000 [(18, d.toNat), (9, a.code), (0, b.code)]
  | .or d a b => word 0x31000000 [(18, d.toNat), (9, a.code), (0, b.code)]
  | .xor d a b => word 0x32000000 [(18, d.toNat), (9, a.code), (0, b.code)]
  | .andn d a b => word 0x33000000 [(18, d.toNat), (9, a.code), (0, b.code)]
  | .not d a => word 0x34000000 [(18, d.toNat), (9, a.code)]
  | .shl d a b => word 0x35000000 [(18, d.toNat), (9, a.code), (0, b.code)]
  | .shr d a b => word 0x36000000 [(18, d.toNat), (9, a.code), (0, b.code)]
  | .sar d a b => word 0x37000000 [(18, d.toNat), (9, a.code), (0, b.code)]
  | .rol d a b => word 0x38000000 [(18, d.toNat), (9, a.code), (0, b.code)]
  | .shli d a c => word 0x39000000 [(18, d.toNat), (12, a.toNat), (0, c.toNat)]
  | .shri d a c => word 0x3A000000 [(18, d.toNat), (12, a.toNat), (0, c.toNat)]
  | .sari d a c => word 0x3B000000 [(18, d.toNat), (12, a.toNat), (0, c.toNat)]
  | .clz d a => word 0x3C000000 [(18, d.toNat), (9, a.code)]
  | .popc d a => word 0x3D000000 [(18, d.toNat), (9, a.code)]
  | .brev d a => word 0x3E000000 [(18, d.toNat), (9, a.code)]
  | .bfx d a p l => word 0x3F000000 [(18, d.toNat), (12, a.toNat), (6, p.toNat), (0, l.toNat)]
  | .ceq c q a b => word 0x40000000 [(21, c.toNat), (18, q.toNat), (9, a.code), (0, b.code)]
  | .cne c q a b => word 0x41000000 [(21, c.toNat), (18, q.toNat), (9, a.code), (0, b.code)]
  | .clt c q a b => word 0x42000000 [(21, c.toNat), (18, q.toNat), (9, a.code), (0, b.code)]
  | .cle c q a b => word 0x43000000 [(21, c.toNat), (18, q.toNat), (9, a.code), (0, b.code)]
  | .cun c q a b => word 0x44000000 [(21, c.toNat), (18, q.toNat), (9, a.code), (0, b.code)]
  | .ctst c q a b => word 0x45000000 [(21, c.toNat), (18, q.toNat), (9, a.code), (0, b.code)]
  | .qop o d a b => word 0x46000000 [(21, o.toNat), (18, d.toNat), (15, a.toNat), (12, b.toNat)]
  | .qfv d a b => word 0x47000000 [(18, d.toNat), (12, a.toNat), (0, b.toNat)]
  | .qfvAll a => word 0x47000800 [(12, a.toNat)]
  | .qtv d => word 0x48000000 [(18, d.toNat)]
  | .mov d a => word 0x49000000 [(18, d.toNat), (9, a.code)]
  | .movi d i => word 0x4A000000 [(18, d.toNat), (0, i.toNat)]
  | .movhi d i => word 0x4B000000 [(18, d.toNat), (0, i.toNat)]
  | .sel d a b => word 0x4C000000 [(18, d.toNat), (9, a.code), (0, b.code)]
  | .shfl d a b => word 0x4D000000 [(18, d.toNat), (9, a.code), (0, b.code)]
  | .hslide d a r => word 0x4E000000 [(18, d.toNat), (9, a.code), (8, r.toNat)]
  | .vfill d a => word 0x4F000000 [(18, d.toNat), (13, a.toNat)]
  | .fadd d a b => word 0x50000000 [(18, d.toNat), (9, a.code), (0, b.code)]
  | .fsub d a b => word 0x51000000 [(18, d.toNat), (9, a.code), (0, b.code)]
  | .fmul d a b => word 0x52000000 [(18, d.toNat), (9, a.code), (0, b.code)]
  | .fma d a b => word 0x53000000 [(18, d.toNat), (9, a.code), (0, b.code)]
  | .fms d a b => word 0x54000000 [(18, d.toNat), (9, a.code), (0, b.code)]
  | .fmin d a b => word 0x55000000 [(18, d.toNat), (9, a.code), (0, b.code)]
  | .fmax d a b => word 0x56000000 [(18, d.toNat), (9, a.code), (0, b.code)]
  | .fdiv d a b => word 0x57000000 [(18, d.toNat), (9, a.code), (0, b.code)]
  | .fsqrt d a => word 0x58000000 [(18, d.toNat), (9, a.code)]
  | .frcp d a => word 0x59000000 [(18, d.toNat), (9, a.code)]
  | .frsq d a => word 0x5A000000 [(18, d.toNat), (9, a.code)]
  | .fexp2 d a => word 0x5B000000 [(18, d.toNat), (9, a.code)]
  | .flog2 d a => word 0x5C000000 [(18, d.toNat), (9, a.code)]
  | .fsinpi d a => word 0x5D000000 [(18, d.toNat), (9, a.code)]
  | .fcospi d a => word 0x5E000000 [(18, d.toNat), (9, a.code)]
  | .frint d a => word 0x5F000000 [(18, d.toNat), (9, a.code)]
  | .fclass c q a m => word 0x60000000 [(21, c.toNat), (18, q.toNat), (9, a.code), (0, m.toNat)]
  | .cvt d a t => word 0x61000000 [(18, d.toNat), (9, a.code), (4, t.toNat)]
  | .fscale d a b => word 0x62000000 [(18, d.toNat), (9, a.code), (0, b.code)]
  | .fgetexp d a => word 0x63000000 [(18, d.toNat), (9, a.code)]
  | .fnanc d a => word 0x64000000 [(18, d.toNat), (9, a.code)]
  | .fdot2 d a b => word 0x65000000 [(18, d.toNat), (9, a.code), (0, b.code)]
  | .sadd d a b => word 0x68000000 [(19, d.toNat), (14, a.toNat), (9, b.toNat)]
  | .ssub d a b => word 0x69000000 [(19, d.toNat), (14, a.toNat), (9, b.toNat)]
  | .smul d a b => word 0x6A000000 [(19, d.toNat), (14, a.toNat), (9, b.toNat)]
  | .saddi d a i => word 0x6B000000 [(19, d.toNat), (14, a.toNat), (0, i.toNat)]
  | .sand d a b => word 0x6C000000 [(19, d.toNat), (14, a.toNat), (9, b.toNat)]
  | .sor d a b => word 0x6D000000 [(19, d.toNat), (14, a.toNat), (9, b.toNat)]
  | .sxor d a b => word 0x6E000000 [(19, d.toNat), (14, a.toNat), (9, b.toNat)]
  | .sshlReg d a b => word 0x6F000000 [(19, d.toNat), (14, a.toNat), (9, b.toNat)]
  | .sshlImm d a c => word 0x6F000100 [(19, d.toNat), (14, a.toNat), (0, c.toNat)]
  | .sshrReg d a b => word 0x70000000 [(19, d.toNat), (14, a.toNat), (9, b.toNat)]
  | .sshrImm d a c => word 0x70000100 [(19, d.toNat), (14, a.toNat), (0, c.toNat)]
  | .ssarReg d a b => word 0x71000000 [(19, d.toNat), (14, a.toNat), (9, b.toNat)]
  | .ssarImm d a c => word 0x71000100 [(19, d.toNat), (14, a.toNat), (0, c.toNat)]
  | .smovi d i => word 0x72000000 [(19, d.toNat), (0, i.toNat)]
  | .smovs d i => word 0x73000000 [(19, d.toNat), (0, i.toNat)]
  | .sceq d a b => word 0x74000000 [(19, d.toNat), (14, a.toNat), (9, b.toNat)]
  | .sclt d a b => word 0x75000000 [(19, d.toNat), (14, a.toNat), (9, b.toNat)]
  | .scltn d a b => word 0x76000000 [(19, d.toNat), (14, a.toNat), (9, b.toNat)]
  | .vred d o m => word 0x77000000 [(19, d.toNat), (6, o.toNat), (0, m.toNat)]
  | .vlane d a p m => word 0x78000000 [(19, d.toNat), (14, a.toNat), (6, p.toNat), (0, m.toNat)]
  | .vins a b p m => word 0x79000000 [(14, a.toNat), (9, b.toNat), (6, p.toNat), (0, m.toNat)]
  | .vote d k p => word 0x7A000000 [(19, d.toNat), (3, k.toNat), (0, p.toNat)]
  | .krd d n => word 0x7B000000 [(19, d.toNat), (0, n.toNat)]
  | .kwr a n => word 0x7C000000 [(14, a.toNat), (0, n.toNat)]
  | .sysrd n s => word 0x7D000000 [(16, n.toNat), (11, s.toNat)]
  | .syswr n s => word 0x7E000000 [(16, n.toNat), (11, s.toNat)]
  | .ldw d a l o => word 0x80000000 [(18, d.toNat), (12, a.toNat), (8, l.toNat), (0, o.toNat)]
  | .ldd d a l o => word 0x81000000 [(18, d.toNat), (12, a.toNat), (8, l.toNat), (0, o.toNat)]
  | .ldq d a l o => word 0x82000000 [(18, d.toNat), (12, a.toNat), (8, l.toNat), (0, o.toNat)]
  | .ldh d a l o => word 0x83000000 [(18, d.toNat), (12, a.toNat), (8, l.toNat), (0, o.toNat)]
  | .ldb d a l o => word 0x84000000 [(18, d.toNat), (12, a.toNat), (8, l.toNat), (0, o.toNat)]
  | .stw d a l o => word 0x85000000 [(18, d.toNat), (12, a.toNat), (8, l.toNat), (0, o.toNat)]
  | .std d a l o => word 0x86000000 [(18, d.toNat), (12, a.toNat), (8, l.toNat), (0, o.toNat)]
  | .stq d a l o => word 0x87000000 [(18, d.toNat), (12, a.toNat), (8, l.toNat), (0, o.toNat)]
  | .sth d a l o => word 0x88000000 [(18, d.toNat), (12, a.toNat), (8, l.toNat), (0, o.toNat)]
  | .stb d a l o => word 0x89000000 [(18, d.toNat), (12, a.toNat), (8, l.toNat), (0, o.toNat)]
  | .ldacq d a l s => word 0x8A000000 [(18, d.toNat), (12, a.toNat), (8, l.toNat), (0, s.toNat)]
  | .strel d a l s => word 0x8B000000 [(18, d.toNat), (12, a.toNat), (8, l.toNat), (0, s.toNat)]
  | .sld d a l o => word 0x8C000000 [(19, d.toNat), (14, a.toNat), (8, l.toNat), (0, o.toNat)]
  | .sst d a l o => word 0x8D000000 [(19, d.toNat), (14, a.toNat), (8, l.toNat), (0, o.toNat)]
  | .lds d a l o => word 0x8E000000 [(18, d.toNat), (12, a.toNat), (8, l.toNat), (0, o.toNat)]
  | .sts d a l o => word 0x8F000000 [(18, d.toNat), (12, a.toNat), (8, l.toNat), (0, o.toNat)]
  | .ldsq d a l o => word 0x90000000 [(18, d.toNat), (12, a.toNat), (8, l.toNat), (0, o.toNat)]
  | .stsq d a l o => word 0x91000000 [(18, d.toNat), (12, a.toNat), (8, l.toNat), (0, o.toNat)]
  | .slk x y l => word 0x92000000 [(19, x.toNat), (14, y.toNat), (8, l.toNat)]
  | .sfill x y l => word 0x93000000 [(19, x.toNat), (14, y.toNat), (8, l.toNat)]
  | .sevict x f l => word 0x94000000 [(19, x.toNat), (12, f.toNat), (8, l.toNat)]
  | .cpy d a l s z => word 0x95000000 [(18, d.toNat), (12, a.toNat), (8, l.toNat), (3, s.toNat), (0, z.toNat)]
  | .cpyo d a l z => word 0x96000000 [(18, d.toNat), (12, a.toNat), (8, l.toNat), (0, z.toNat)]
  | .cpyt x y f l => word 0x97000000 [(19, x.toNat), (14, y.toNat), (12, f.toNat), (8, l.toNat)]
  | .cpyv x y l => word 0x98000000 [(19, x.toNat), (14, y.toNat), (8, l.toNat)]
  | .tbinit x y l => word 0x99000000 [(19, x.toNat), (14, y.toNat), (8, l.toNat)]
  | .tbarr x y l => word 0x9A000000 [(19, x.toNat), (14, y.toNat), (8, l.toNat)]
  | .tbwait x y => word 0x9B000000 [(19, x.toNat), (14, y.toNat)]
  | .wcnt p t => word 0x9C000000 [(19, p.toNat), (0, t.toNat)]
  | .ckopen x y f l g c => word 0x9D000000 [(19, x.toNat), (14, y.toNat), (12, f.toNat), (8, l.toNat), (7, g.toNat), (0, c.toNat)]
  | .ckseal x y l => word 0x9E000000 [(19, x.toNat), (14, y.toNat), (8, l.toNat)]
  | .ckdrop y l => word 0x9F000000 [(14, y.toNat), (8, l.toNat)]
  | .obres x y l => word 0xA0000000 [(19, x.toNat), (14, y.toNat), (8, l.toNat)]
  | .obrel y l => word 0xA1000000 [(14, y.toNat), (8, l.toNat)]
  | .obld x y l => word 0xA2000000 [(19, x.toNat), (14, y.toNat), (8, l.toNat)]
  | .gath x y l p => word 0xA3000000 [(19, x.toNat), (14, y.toNat), (8, l.toNat), (0, p.toNat)]
  | .mrdy => word 0xA4000000 []
  | .mstep x y l t => word 0xA5000000 [(19, x.toNat), (14, y.toNat), (8, l.toNat), (0, t.toNat)]
  | .mloop x y l t => word 0xA6000000 [(19, x.toNat), (14, y.toNat), (8, l.toNat), (0, t.toNat)]
  | .mfence x l => word 0xA7000000 [(19, x.toNat), (8, l.toNat)]
  | .mwait x => word 0xA8000000 [(19, x.toNat)]
  | .acfg y f l t => word 0xA9000000 [(14, y.toNat), (12, f.toNat), (8, l.toNat), (0, t.toNat)]
  | .arel l t => word 0xAA000000 [(8, l.toNat), (0, t.toNat)]
  | .azero l t => word 0xAB000000 [(8, l.toNat), (0, t.toNat)]
  | .ard v t r l p => word 0xAC000000 [(18, v.toNat), (15, t.toNat), (8, r.toNat), (4, l.toNat), (0, p.toNat)]
  | .awr v t r l p => word 0xAD000000 [(18, v.toNat), (15, t.toNat), (8, r.toNat), (4, l.toNat), (0, p.toNat)]
  | .asave x y l t => word 0xAE000000 [(19, x.toNat), (14, y.toNat), (8, l.toNat), (0, t.toNat)]
  | .aload x y l t => word 0xAF000000 [(19, x.toNat), (14, y.toNat), (8, l.toNat), (0, t.toNat)]
  | .nanc d a => word 0xB0000000 [(19, d.toNat), (14, a.toNat)]
  | .srseed a => word 0xB1000000 [(14, a.toNat)]
  | .ascal v t r l => word 0xB2000000 [(18, v.toNat), (15, t.toNat), (8, r.toNat), (4, l.toNat)]
  | .arv v b s => word 0xC0000000 [(22, v.toNat), (18, b.toNat), (13, s.toNat)]
  | .arva v b s => word 0xC1000000 [(22, v.toNat), (18, b.toNat), (13, s.toNat)]
  | .arvd v b s => word 0xC2000000 [(22, v.toNat), (18, b.toNat), (13, s.toNat)]
  | .bwait v b s => word 0xC3000000 [(22, v.toNat), (18, b.toNat), (13, s.toNat)]
  | .fence s k => word 0xC4000000 [(21, s.toNat), (18, k.toNat)]
  | .sendr d a l s z => word 0xC5000000 [(18, d.toNat), (12, a.toNat), (8, l.toNat), (3, s.toNat), (0, z.toNat)]
  | .sendb x y f l => word 0xC6000000 [(19, x.toNat), (14, y.toNat), (12, f.toNat), (8, l.toNat)]
  | .cwait x y => word 0xC7000000 [(19, x.toNat), (14, y.toNat)]
  | .cset x y => word 0xC8000000 [(19, x.toNat), (14, y.toNat)]
  | .ckevict x y f l => word 0xC9000000 [(19, x.toNat), (14, y.toNat), (12, f.toNat), (8, l.toNat)]
  | .ckstat x y l => word 0xCA000000 [(19, x.toNat), (14, y.toNat), (8, l.toNat)]
  | .wcall d a l w g => word 0xD0000000 [(18, d.toNat), (12, a.toNat), (8, l.toNat), (6, w.toNat), (0, g.toNat)]
  | .wpost a l w g => word 0xD1000000 [(12, a.toNat), (8, l.toNat), (6, w.toNat), (0, g.toNat)]
  | .wtake x => word 0xD2000000 [(19, x.toNat)]
  | .wreply a => word 0xD3000000 [(9, a.code)]
  | .wfail c => word 0xD4000000 [(0, c.toNat)]
  | .wscan d a o => word 0xD5000000 [(18, d.toNat), (9, a.code), (0, o.toNat)]
  | .illegalInstruction w => some w
  | .loadReturn _ _ | .copySectorLanding _ _ | .sendLanding _ _ | .sendAcknowledgement _ _
    | .releaseFilterProbe _ _ _ | .lineAccess _ _ | .orderGateAdmit _ _ _ | .requestArrival _ _ | .batchAssembly _ _
    | .whiskReply _ _ | .fillLanding _ _ | .matrixStep _ _ _ | .clusterPlacement _ | .finalCommit _ _
    | .launchCompletion _ | .crockMoveDone _ _ | .eggTimerWindow _ | .sieveDecision _ | .sieveBacktrack _
    | .chunkFlushTimer _ _ _ | .freezeImage _ | .drainDeadline _ | .gangSliceStart _ | .gangSliceEnd _
    | .invalidationDone _ | .backgroundScrub _ _ _ | .patrolScrub _ _ | .inFieldTest _ | .inFieldTestRun _ _
    | .inFieldTestOverdue _ | .energyPeriod _ | .flitCrcError _ | .linkDead _ | .injectionResume | .lostPacket _ _
    | .linkNarrow _ _ | .linkWiden _ _ | .cxlPortDown _ | .hostWrite _ _ | .hostRead _ _ | .timeOffsetNotice _
    | .clockThrottle _ _ | .clockRaise _ | .thermalStop _ | .powerOnBoot _ | .functionLevelReset _ | .firmwarePass
    | .reset _ _ | .setmode _ _ | .attach _ _ | .extend _ _ | .detach _ _ | .buffers _ _ | .consume _ _
    | .resume _ _ | .launch _ _ | .signalSet _ _ | .signalAdd _ _ | .wait _ _ | .nopPacket _ _ | .unknownPacket _ _
    | .null _ _ | .debug _ _ | .sigadd _ _ | .sleep _ _ | .sleepExpiry _ _ | .unknownService _ _ | .freeze _
    | .registerImageArea _ | .copyTableEntry _ | .clearSpoil _ | .copyDebugRing _ | .loadLvc _ | .unloadKernel _
    | .setTrustedKey _ | .extendMeasurement _ | .attest _ | .createPartition _ _ | .destroyPartition _ _
    | .setGranuleKey _ _ | .grantQueue _ _ | .grantPort _ _ | .updateFirmware _ _ | .firmwareHandover
    | .setSharedSeverity _ _ | .qprodWrite _ _ _ | .qbaseWrite _ _ _ | .invWrite _ _ | .faultMapped _ _
    | .faultDeclined _ _ | .shelfcWrite _ _ | .whiskWrite _ _ | .eggWrite _ _ | .sevWrite _ _ _
    | .registerWrite _ _ _ | .copyOutProgress _ _ | .rootComplexAcknowledgement _ _ | .ieee1588Message _ => none

end Sys2Proof
end

