-- ==== Sys2Proof/Machine/State.lean ====
section
/-!
DEFINITION. The state of the ML-9840 package as plain data, and the state at power-on.
INVENTORY.md lists every piece with the rule that names it. Rules are cited as in spec/.
-/
namespace Sys2Proof.Machine

/-- Why the machine stops with a fault. -/
inductive Fault where
  /-- Raised by every instruction word when the state names no live group as its issuer. Safe: the part issues a word
  only from a group, so no run of the part meets it (notes/assumptions/16.md). -/
  | noIssuer
  deriving DecidableEq, Repr

/-- Why the machine has no meaning for an instruction. -/
inductive Refusal where
  /-- Raised by an arm of `exec` whose instruction has no meaning yet. Safe: nothing can be proved of a step. -/
  | notModelled (mnemonic : String)
  deriving DecidableEq, Repr

/-! ## The group (spec/01) -/

/-- The paths of the in-flight counters in use (R29, R58). -/
inductive Path where
  | ld | cin | cout | wcl | snd
  deriving DecidableEq, Repr

/-- A trap with what it delivers (R36, R151). -/
structure Trap where
  cause : BitVec 8
  tinfo : DWord
  deriving DecidableEq, Repr

/-- A fault held for a path until an instruction delivers it (R215, R292, R307). -/
structure HeldFault where
  path : Path
  trap : Trap
  /-- The operation that met it. -/
  op : Nat
  /-- An `exit` has delivered another one before it, and it waits for the next (R142). -/
  left : Bool
  deriving DecidableEq, Repr

/-- A lookahead window (R52 to R56). -/
structure Window where
  /-- The LA field of the opener. -/
  la : Nat
  /-- Instructions that the group has completed since, the opener counted: the next one stands at this position. -/
  pos : Nat
  /-- The opener is complete (R54). -/
  done : Bool
  /-- Protected vector registers (R53). -/
  vregs : List Nat
  /-- Protected scalar registers (R53). -/
  sregs : List Nat
  /-- The operation whose last return completes the opener; 0 for none. -/
  op : Nat
  /-- The opener is an acquire: no memory, scratchpad or copy access issues until it is complete (R204). -/
  acq : Bool
  /-- It is an acquire at device scope or wider, which completes after the commits of which it has read a byte (R330). -/
  wide : Bool
  deriving DecidableEq, Repr

/-- One instruction counted on a path, in issue order (R29). -/
structure InFlight where
  op : Nat
  path : Path
  done : Bool
  deriving DecidableEq, Repr

/-- What a group waits for (R333 and the waits that are not blocked waits). -/
inductive Wait where
  /-- Kind 1: a barrier phase. -/
  | barrier (level bar phase : Nat)
  /-- Kind 2: a transaction-barrier phase. -/
  | transaction (addr phase : Nat)
  /-- Kind 3: a send counter. -/
  | counter (addr threshold : Nat)
  /-- Kind 4: a request held at an order gate. -/
  | gate (dom : Domain) (id : DWord) (n : Nat)
  /-- Kind 5: a `ckopen` that waits for slots or for an attached crock. -/
  | slots (name : DWord)
  /-- An operation in flight: an opener, a counter, a commit, an engine. -/
  | inFlight
  /-- A `ccall` not yet answered, or an append to a full record buffer (R149, R368). -/
  | host
  /-- The page-fault service (R199): the pages whose verdicts are awaited. -/
  | page (vpages : List Nat)
  /-- The page-fault service has declined this page, and the instruction is to take 0x10 (R199). -/
  | declined (vpage : Nat)
  /-- A crock move under way (R180). -/
  | move (name : DWord)
  /-- A `wtake` on an empty queue (R312). -/
  | take
  deriving DecidableEq, Repr

/-- How far a group is within an instruction that takes several steps. -/
inductive Stage where
  | fresh
  /-- `arv`: its arrival is counted in the phase with this ordinal; `exit`: it has dropped in that phase. -/
  | arrived (ord : Nat)
  /-- The instruction has issued, and its commit is to begin once the team's present one is over (R192). -/
  | anchored
  /-- The commit that the instruction causes has begun. -/
  | committing
  /-- `strel`, `fence`: the release is made and its host acknowledgements are awaited (R420). -/
  | acking
  /-- `ldacq` at scope 6: the probes of this operation are out (R204). -/
  | probing (op : Nat)
  /-- `cpyv`: the version read of this operation is out, or its writes are (R216). -/
  | version (op : Nat)
  /-- `ckopen`: the entry is claimed and its slots are awaited (R221). -/
  | creating (dir : Nat)
  /-- `ckopen`: its request is at the order gate (R363, R376). -/
  | gated
  /-- `choose`: it waits for the sieve, with this bound, and the sieve has decided this value (R376). -/
  | choosing (b : Nat)
  | chosen (v : Nat)
  /-- `ccall`: the service has been asked for (R149). -/
  | asked (num : BitVec 16)
  /-- `ccall` SLEEP: the time is running (R430). -/
  | sleeping
  /-- `tbwait`: the phase that it waits for has completed, which has released it (R185). -/
  | released
  /-- A store whose quota was full: the overflow's commit is under way (R191), and this many of its pieces are placed. -/
  | overflow (placed : Nat)
  deriving DecidableEq, Repr

/-- Whether a group still executes. -/
inductive RunState where
  | live
  /-- It has executed `exit` (R142). -/
  | ended
  /-- A double fault has stopped it (R155). -/
  | stopped
  deriving DecidableEq, Repr

/-- The state of one group (R13, R17, R29, R36). -/
structure Group where
  /-- Vector registers: register r of lane i at 32 r + i. -/
  v : Cells 32
  /-- Index registers: index of xk in lane i at 32 k + i. -/
  xi : Cells 6
  xlo : Cells 6
  /-- An unlisted upper bound is n − 1 (R13). -/
  xhi : Cells 6
  /-- Predicates: bit i of cell k is lane i's qk. -/
  q : Cells 32
  s : Cells 64
  pc : DWord
  em : Word
  /-- The mask stack, its top first; its depth is its length (R17). -/
  stack : List Word
  mode : BitVec 24
  perm : BitVec 24
  stat : Word
  seed : Word
  ctr : Word
  nanct : DWord
  tvec : DWord
  tpc : DWord
  tcause : BitVec 8
  tinfo : DWord
  tmode : BitVec 24
  tem : Word
  inTrap : Bool
  /-- Retired instructions (R35), modulo 2^64. -/
  retired : DWord
  /-- Executions of `choose` with a bound of 2 or more (R147). -/
  chooseN : Nat
  run : RunState
  windows : List Window
  inflight : List InFlight
  held : List HeldFault
  /-- A trap whose entry waits until the open windows have closed (R152 step 1). -/
  latched : Option Trap
  wait : Option Wait
  stage : Stage
  /-- Number of the last closed batch, counted without wrap; BATCH (R33) is its low 16 bits (R245). -/
  closed : Nat
  /-- The batches of number up to this one are complete. -/
  complete : Nat
  /-- NaN elements taken as zero, per batch number counted without wrap (R240, R254). -/
  nans : Table Nat
  /-- Double words of the vector registers that are poisoned: 16 r + lane pair (R273). -/
  vpoison : List Nat
  /-- Poisoned words of the group's control storage (R11, R273), by the numbers of `CoreWord.control`. -/
  cpoison : List Nat
  deriving DecidableEq, Repr

/-! ## The team (spec/01, 08, 11, 14) -/

/-- One hardware barrier (R259). -/
structure Barrier where
  /-- ORD; PHASE is ORD modulo 16. -/
  ord : Nat
  expect : BitVec 8
  count : BitVec 8
  pd : BitVec 8
  /-- Bit m: member m is subscribed. -/
  sub : BitVec 2048
  /-- Bit m: member m has arrived in the current phase. -/
  arr : BitVec 2048
  /-- ROLE: the member that holds the role flag, and the phase it holds it for. -/
  role : Option (Nat × Nat)
  /-- Members that arrived by `arv` or `arva` in the current phase, in order of arrival (R262). -/
  cands : List Nat
  /-- Phases that had two or more candidates: the BAR ordinal (R262). -/
  n : Nat
  deriving DecidableEq, Repr

/-- A write of a uniform register in the current phase of team barrier 0 (R31). -/
structure UniformWrite where
  grp : Nat
  reg : Nat
  val : DWord
  deriving DecidableEq, Repr

/-- A uniform-writer trap that is due (R31): group, the phase's ordinal, the register, the group whose write was kept. -/
structure UniformDue where
  grp : Nat
  ord : Nat
  reg : Nat
  kept : Nat
  deriving DecidableEq, Repr

/-- A store line of a colander (R187): virtual line VA[63:7], physical line PA[51:7], the marked bytes by offset. -/
structure ColLine where
  vline : Nat
  pline : Nat
  /-- The line is observed (R341). -/
  obs : Bool
  bytes : Table Byte
  /-- Poisoned double words by number in the line, and words of its byte mask: that of half h is 16 + h (R273). -/
  poison : List Nat
  deriving DecidableEq, Repr

/-- A posted request in a colander (R187, R306). -/
structure Posted where
  obj : DWord
  pa : Nat
  width : BitVec 2
  arg : DWord
  requester : Word
  /-- Names the instruction that made it (R355, R376). -/
  unit : Nat
  /-- A double word of its place in the colander is poisoned (R273). -/
  poison : Bool
  deriving DecidableEq, Repr

/-- A commit under way (R190): the lines still to be written, the posted requests, the line request that is out. -/
structure Commit where
  lines : List ColLine
  posts : List Posted
  final : Bool
  /-- The group whose instruction caused it (R374). -/
  grp : Nat
  /-- The line write now out; 0 for none. -/
  req : Nat
  /-- Lines of the release filter that the commit has freed (R205). -/
  filter : List Nat
  /-- Lines that it has written (R330). -/
  written : List ColLine
  deriving DecidableEq, Repr

/-- A team's attach of a crock (R175 to R178). -/
structure Attach where
  /-- Index in the crock directory. -/
  dir : Nat
  name : DWord
  /-- 0 read, 1 write, 2 create, 3 cattach. -/
  mode : BitVec 2
  /-- The attach created the crock. -/
  created : Bool
  /-- A seal has been made since the creation, so stores take shadows (R178). -/
  sealed : Bool
  /-- The physical slot that shadows each crock slot. -/
  shadows : Table Nat
  /-- Reserved slots that are not yet shadows. -/
  spare : List Nat
  /-- A drop is pending (R223). -/
  drop : Bool
  /-- What `ckopen` returns for the attach, once its slots and shadows are there (R221). -/
  result : Option DWord
  deriving DecidableEq, Repr

/-- A record of a private domain that a team stages (R369): its domain, the ordinal it names, the record. -/
structure Staged where
  dom : Domain
  id : DWord
  n : Nat
  record : DWord
  deriving DecidableEq, Repr

/-- A team (R165 to R197, R259, R285). Teams are keyed by launch number × 2^22 + TIDX. -/
structure Team where
  launch : Nat
  tidx : Nat
  /-- Key of its cluster: launch number × 2^22 + placement position. -/
  cluster : Nat
  rank : Nat
  x : Nat
  y : Nat
  z : Nat
  /-- Physical core: die × 16 + core. -/
  core : Nat
  /-- Team slot on the core (R166). -/
  slot : Nat
  /-- Register count n (R14). -/
  nregs : Nat
  /-- Groups of the team. -/
  g : Nat
  groups : Table Group
  /-- Uniform registers (R30). -/
  k : Cells 64
  kwrites : List UniformWrite
  kdue : List UniformDue
  /-- Poisoned uniform registers (R273). -/
  kpoison : List Nat
  /-- ENERGY: the team's share of its core's energy (R353). -/
  energy : DWord
  /-- Team barriers; an unlisted one is as at launch (R259). -/
  bars : Table Barrier
  colander : List ColLine
  posted : List Posted
  /-- Colander quota in lines (R187). -/
  quota : Nat
  commit : Option Commit
  anch : Bool
  hash : DWord
  commitN : Nat
  attaches : List Attach
  /-- Slot run (R171). -/
  runBase : Nat
  runLen : Nat
  /-- Unit run and record quota (R169, R230). -/
  unitBase : Nat
  unitQuota : Nat
  recQuota : Nat
  /-- Handles: the record of the core that each held handle names (R231). -/
  handles : Table Nat
  accQuota : Nat
  /-- Accumulator names bound to physical tiles (R196). -/
  tiles : Table Nat
  /-- Decline marks: virtual pages VA[63:16] (R199). -/
  marks : List Nat
  /-- Staged records (R369). -/
  staged : List Staged
  /-- Staging has overflowed, so the team counts as anchored for discard (R369). -/
  overStaged : Bool
  /-- A LINE, OBJ or CROCK request of the team has been served, or a grid-barrier role decided (R370). -/
  served : Bool
  /-- Set when the last group has ended: that group and the address of its `exit` (R335). -/
  ended : Option (Nat × DWord)
  deriving DecidableEq, Repr

/-! ## The core (spec/08, 10) -/

/-- A tag table entry (R170). -/
structure Tag where
  key : DWord
  pin : Bool
  state : BitVec 3
  owner : BitVec 12
  link : BitVec 8
  deriving DecidableEq, Repr

/-- A reservation record (R194). -/
structure Reservation where
  nz : Bool
  owner : BitVec 4
  fmt : BitVec 3
  blen : BitVec 6
  scoff : BitVec 12
  base : BitVec 11
  len : BitVec 12
  deriving DecidableEq, Repr

/-- A physical accumulator tile that is allocated (R85, R196, R248): cell (y, x) at 128 y + x. -/
structure Tile where
  row0 : Word
  col0 : Word
  cells : Cells 88
  /-- Poisoned cells (R273). -/
  poison : List Nat
  deriving DecidableEq, Repr

/-- A step pointer of the matrix engine, unpacked (R237). -/
structure StepPtr where
  hnd : Nat
  blk : Nat
  str : Nat
  deriving DecidableEq, Repr

/-- What a matrix operation does. -/
inductive MatrixWork where
  /-- Steps still to run: pointers of the next repetition, their increments, repetitions left (R239). -/
  | steps (a b : StepPtr) (da db : Int) (left : Nat)
  /-- `asave`: rows r0 to r0 + n − 1 to a scratchpad address, and the bytes moved so far (R253). -/
  | save (r0 n addr moved : Nat)
  /-- `aload` (R253). -/
  | load (r0 n addr moved : Nat)
  /-- A fill of `obld` or `gath` (R234, R235): moves from a scratchpad address to an operand-buffer address, with lengths. -/
  | fill (moves : List (Nat × Nat × Nat))
  deriving DecidableEq, Repr

/-- A matrix operation or fill of a group (R227, R228, R245, R247), in issue order on its core. -/
structure MatrixOp where
  id : Nat
  gid : Nat
  work : MatrixWork
  /-- Physical tile and the name it was issued under; none for fills. -/
  tile : Option (Nat × Nat)
  /-- Operand-buffer byte ranges that it reads (steps) or writes (fills): first byte, length. -/
  ranges : List (Nat × Nat)
  /-- Batch number counted without wrap; 0 for fills. -/
  bno : Nat
  /-- It has finished, and holds its tile and ranges until the `mwait` (R247). -/
  done : Bool
  deriving DecidableEq, Repr

/-- A core (R164), keyed by die × 16 + core. -/
structure Core where
  scratch : Cells 8
  /-- Poisoned double words of the scratchpad (R273). -/
  spoison : List Nat
  /-- Tag table; an unlisted slot is free (R170). -/
  tags : Table Tag
  /-- Guarded 16-byte granules (R184). -/
  guards : List Nat
  /-- Release filter: physical lines, each with a team's slot (R205). -/
  filter : List (Nat × Nat)
  records : Table Reservation
  operand : Cells 8
  opoison : List Nat
  tiles : Table Tile
  matrix : List MatrixOp
  /-- Poisoned words of the core's own control storage (R164, R273), by the numbers of `CoreWord.table`. -/
  cpoison : List Nat
  /-- Slots, operand-buffer units and tiles written since their last reset points, by the numbers of `unitNumber` and `tileNumber`
  (R403). -/
  written : List Nat
  /-- Withdrawn from placement by a test or by a lost route, or excluded by a failed test (R352, R414). -/
  withdrawn : Bool
  /-- Under an in-field test that has not run (R352). -/
  testing : Bool
  deriving DecidableEq, Repr

/-! ## Operations in flight -/

/-- One lane of a load: its address and the bytes that have come, by number (R202). -/
structure LaneLoad where
  lane : Nat
  va : DWord
  bytes : Table Byte
  /-- A word of the load-combining buffer that keeps them is poisoned (R164, R273). -/
  poison : Bool
  deriving DecidableEq, Repr

/-- A piece of a copy: one line of 64-bit addresses, its physical line and whether it is observed once it is translated, and
pairs of an offset in the line and a scratchpad byte address (R211, R214). -/
structure CopyLine where
  vline : Nat
  pline : Option (Nat × Bool)
  pairs : List (Nat × Nat)
  deriving DecidableEq, Repr

/-- An operation that goes on after its instruction has issued. -/
inductive Op where
  /-- A load (R202, R204, R206): its registers and lanes. -/
  | load (gid dst size : Nat) (scalar : Bool) (lanes : List LaneLoad)
  /-- A copy in (R211, R214): its barrier, the lines still to be translated, the bytes ready by scratchpad address,
  every scratchpad byte it writes by sector still to land, and the page it is stopped at (R199). -/
  | copyIn (gid : Nat) (barrier : Option Nat) (lines : List CopyLine) (ready : Table Byte)
      (sectors : List (Nat × List Nat)) (page : Option Nat)
  /-- A copy out (R211, R214): the lines still to be placed, and the page it is stopped at; the bytes of a `cpyo` were read
  at issue. -/
  | copyOut (gid : Nat) (tile : Bool) (lines : List CopyLine) (data : Table Byte) (page : Option Nat)
  /-- A send (R289 to R292, R418): the receiver's counter word, and the pieces still to land: address, bytes (those of a
  `sendb` are read as they move, from the source address; of one to another device, the addresses that have left). Of one that comes in from another device, `src` numbers its sender, and
  `fail` says that it fails behind its pieces. -/
  | send (gid : Nat) (block remote : Bool) (cword : DWord) (pieces : List (Nat × List Byte)) (src dst left : Nat)
      (landed : Bool) (fail : Option (Nat × Nat))
  /-- A `wcall`: reply register, width, lanes that wait, the lowest faulted lane with its trap (R306, R307). -/
  | call (gid dst : Nat) (width : BitVec 2) (lanes : List Nat) (fault : Option (Nat × Trap))
  /-- The probes of an `ldacq` at scope 6: lines, cores whose probe is still out (R204). -/
  | probe (gid : Nat) (lines : List Nat) (cores : List Nat)
  /-- A `cpyv` (R216): the version's address, its physical line and whether that is observed, the version expected, the
  writes of its tile, whether the version was the one expected. -/
  | version (gid : Nat) (va : DWord) (pline : Nat) (obs : Bool) (expected : DWord) (writes : List ColLine) (result : Option Bool)
  deriving DecidableEq, Repr

/-- What a request does at its slice (R201, R321). -/
inductive LineKind where
  /-- Read bytes: pairs of an offset in the line and an index in the operation. -/
  | read (bytes : List (Nat × Nat))
  /-- Write bytes of a commit, a `strel` or a `cpyv`, with the poisoned double words. -/
  | write (bytes : Table Byte) (poison : List Nat)
  /-- The version check of a `cpyv`: read, and hold the line (R216). -/
  | check (off : Nat)
  deriving DecidableEq, Repr

/-- A request to a line (R201, R321, R355), keyed by its issue number. -/
structure LineReq where
  team : Nat
  gid : Nat
  /-- The core that has sent it. -/
  core : Nat
  lanes : List Nat
  requester : Word
  /-- The TEAM flag (R355). -/
  teamFlag : Bool
  vline : Nat
  pline : Nat
  obs : Bool
  kind : LineKind
  op : Nat
  /-- An order gate or the sieve has let it go to its slice (R363, R376). -/
  admitted : Bool
  deriving DecidableEq, Repr

/-- Where a combiner request is (R301, R308). -/
inductive WhiskWhere where
  | travelling
  /-- It has come to this home and found the queue full, or others of its core that did: the core holds it (R301). -/
  | waiting (home : Nat)
  /-- Held at an order gate of the home (R309); the number orders the arrivals there (R388). -/
  | gate (home arrival : Nat)
  | queued (home : Nat)
  | batch (home : Nat)
  /-- Answered by a value, or by a fault (R307); the answer travels. -/
  | answered (val : DWord) (fault : Option Trap)
  deriving DecidableEq, Repr

/-- A combiner request of one lane (R306), keyed by its issue number. -/
structure WhiskReq where
  obj : DWord
  pa : Nat
  width : BitVec 2
  arg : DWord
  cop : DWord
  requester : Word
  team : Nat
  /-- The core that has sent it. -/
  core : Nat
  /-- The `wcall`'s operation; 0 for a posted request. -/
  op : Nat
  /-- Names the instruction that made it (R355, R376). -/
  unit : Nat
  place : WhiskWhere
  deriving DecidableEq, Repr

/-- The open batch of a home (R308). -/
structure Batch where
  obj : DWord
  pa : Nat
  width : BitVec 2
  /-- The requests in lane order. -/
  reqs : List Nat
  cls : BitVec 16
  bno : BitVec 16
  deriving DecidableEq, Repr

/-- What the whisk group of a home does (R311). -/
inductive WhiskPhase where
  /-- In the dispatch loop: it executes `wtake`, and then runs a built-in method or enters a user one. -/
  | loop
  /-- A user method runs. -/
  | user
  deriving DecidableEq, Repr

/-- A home: a whisk core with its group, its queue and its open batch (R300, R301, R308). -/
structure Home where
  grp : Group
  queue : List Nat
  batch : Option Batch
  phase : WhiskPhase
  deriving DecidableEq, Repr

/-- A load has read a byte that a commit under way has written (R330): its group, its operation, the commit's team. -/
structure Sight where
  gid : Nat
  op : Nat
  team : Nat
  deriving DecidableEq, Repr

/-- A contribution held for an ordered class (R305): object line, contributor, value. -/
structure Contribution where
  obj : Nat
  k : Nat
  val : DWord
  deriving DecidableEq, Repr

/-! ## Crocks, launches and the dispatcher (spec/08, 16) -/

/-- A crock directory entry (R174). -/
structure DirEntry where
  name : DWord
  version : Word
  /-- Physical address of the backing. -/
  backing : Nat
  count : BitVec 6
  base : BitVec 8
  core : BitVec 7
  state : BitVec 3
  pin : Bool
  readers : BitVec 5
  writer : Bool
  detached : DWord
  /-- The creating team, until the first seal (R178). -/
  creator : Option Nat
  /-- Slots sealed since the crock last came to its core (R179). -/
  dirty : List Nat
  /-- It holds its slots BASE to BASE + COUNT on its core. -/
  placed : Bool
  deriving DecidableEq, Repr

/-- A request at the directory's order gate of a name (R175, R355, R363): of a `ckopen`'s group, or, with the TEAM flag, a
declared attach of the team whose group 0 is named. -/
structure CrockReq where
  gid : Nat
  name : DWord
  team : Bool
  /-- It attaches in `read` mode (R377). -/
  read : Bool
  /-- The gate or the sieve has let it go to the directory. -/
  admitted : Bool
  deriving DecidableEq, Repr

/-- A declared crock of a kernel (R65). -/
structure CrockDecl where
  name : DWord
  slots : Nat
  mode : BitVec 2
  deriving DecidableEq, Repr

/-- A kernel's launch record (R65, R434). -/
structure Kernel where
  entry : DWord
  regs : Nat
  team : Nat
  width : Nat
  height : Nat
  colander : Nat
  accum : Nat
  crocks : List CrockDecl
  tvec : Option DWord
  deriving DecidableEq, Repr

/-- A user class (R303): its methods' addresses by entry, its commutative mark. -/
structure UserClass where
  entries : Table DWord
  commutes : Bool
  deriving DecidableEq, Repr

/-- An accepted launch (R322, R429), keyed by launch number (from 1, in the order of the LAUNCH packets). -/
structure Launch where
  kern : Nat
  kernel : Kernel
  gx : Nat
  gy : Nat
  gz : Nat
  seed : Word
  slotQuota : Nat
  recQuota : Nat
  unitQuota : Nat
  curve : Bool
  coresident : Bool
  sig : BitVec 12
  sigen : Bool
  queue : BitVec 7
  tag : Word
  notify : Bool
  /-- The consumer index after the packet (R426). -/
  cons : BitVec 16
  /-- Operating mode when the first cluster was placed (R324). -/
  mode : Option (BitVec 3)
  /-- Next placement position. -/
  next : Nat
  /-- Positions complete but not yet reported, and the number reported (R328). -/
  done : List Nat
  reported : Nat
  /-- Grid barriers of a co-resident launch (R260). -/
  bars : Table Barrier
  /-- Hashes of ended teams by TIDX (R373). -/
  hashes : Table DWord
  /-- Commits that ended teams have made, by TIDX (R374). -/
  commits : Table Nat
  /-- Uncorrectable errors consumed by TIDX (R271). -/
  errors : Table Nat
  /-- Cores on which the team of a TIDX is not placed again (R271). -/
  avoid : Table (List Nat)
  deriving DecidableEq, Repr

/-- A resident cluster (R286), keyed by launch number × 2^22 + placement position. -/
structure Cluster where
  /-- Team keys by rank. -/
  teams : List Nat
  bars : Table Barrier
  /-- Ranks that have made their final commit or been killed. -/
  finished : List Nat
  deriving DecidableEq, Repr

/-- A discarded cluster that waits to be placed again (R270, R271). -/
structure Relaunch where
  launch : Nat
  pos : Nat
  /-- Pages whose verdict is awaited, each with the rank of the team that met it (R199). -/
  pages : List (Nat × Nat)
  /-- Decline marks by rank (R199). -/
  marks : Table (List Nat)
  deriving DecidableEq, Repr

/-- Everything of a partition that a freeze image holds and the sieve restores, apart from the choice state. -/
structure Run where
  teams : Table Team
  cores : Table Core
  homes : Table Home
  ops : Table Op
  lines : Table LineReq
  whisks : Table WhiskReq
  /-- Lines held by a `cpyv` (R216). -/
  held : List Nat
  /-- Reads of a byte that a commit still under way had written: the group, its load's operation, the team of the commit
  (R330). -/
  sights : List Sight
  /-- Data on its way from slices: the operation that it serves, and the line (R413). -/
  answers : List (Nat × Nat)
  contribs : List Contribution
  dir : Table DirEntry
  /-- Sequence number of the next detach (R174). -/
  detachSeq : DWord
  launches : Table Launch
  clusters : Table Cluster
  relaunches : List Relaunch
  crockReqs : List CrockReq
  deriving DecidableEq, Repr, Inhabited

/-! ## Choice state (spec/18) -/

/-- A stream-table entry with its records (R362). -/
structure Stream where
  id : DWord
  kind : BitVec 4
  exh : Bool
  roff : BitVec 24
  cur : Word
  base : DWord
  recs : List DWord
  deriving DecidableEq, Repr

/-- What decides whether a served request commutes with another of its domain (R309, R377). -/
inductive Served where
  /-- A line access: the offsets in the line, and whether it is a read. -/
  | line (offsets : List Nat) (read : Bool)
  /-- A unit at an object: 0 if it commutes with none, 1 with its own entry, 2 with every entry; and the entry. -/
  | obj (mark entry : Nat)
  /-- An attach: whether it reads. -/
  | crock (read : Bool)
  deriving DecidableEq, Repr

/-- A domain's ordinal, and the key and the access of the request that the sieve served last there (R354, R377). -/
structure DomainState where
  dom : Domain
  id : DWord
  n : Nat
  last : Option (Nat × Served)
  deriving DecidableEq, Repr

/-- An open record chunk (R367). -/
structure Chunk where
  dom : Domain
  id : DWord
  first : Nat
  recs : List DWord
  /-- It was to be appended and did not fit; until it fits, the decisions of its domain wait (R368). -/
  waits : Bool
  deriving DecidableEq, Repr

/-- The choice block's fields, the stream table, ordinals and open chunks (R354, R362, R367, R371). -/
structure Choice where
  rbbase : DWord
  rbsize : Word
  rbprod : Word
  rbcons : Word
  olbase : DWord
  olcap : BitVec 24
  olprod : BitVec 24
  imgbase : DWord
  win : BitVec 6
  paths : Word
  leaves : Word
  xkind : BitVec 4
  unst : Bool
  pol : Bool
  mode : BitVec 3
  xst : BitVec 3
  xn : BitVec 20
  xid : DWord
  streams : Table Stream
  domains : List DomainState
  /-- Open chunks, in the order in which they were opened. -/
  chunks : List Chunk
  /-- Domains that run unsteered without an entry (R365). -/
  unsteered : List (BitVec 4 × DWord)
  /-- Divergence detection is off after a RESUME of a diverged image (R391, R407). -/
  noDiverge : Bool
  deriving DecidableEq, Repr, Inhabited

/-- A branch point of the sieve (R378, R381): the alternatives not yet tried, the choice taken and its index. -/
structure Branch where
  dom : Domain
  id : DWord
  n : Nat
  keys : List Nat
  index : Nat
  deriving DecidableEq, Repr

/-- A line saved in the undo log (R375). -/
structure Undo where
  pline : Nat
  bytes : List Byte
  poison : List Nat
  deriving DecidableEq, Repr

/-- The sieve (R375 to R382, R439). -/
structure Sieve where
  snapshot : Option (Run × List DomainState)
  undo : List Undo
  /-- Branch points of the path, the first one first. -/
  branches : List Branch
  /-- Branch points of the path that the replay has passed. -/
  depth : Nat
  /-- Decisions made on the path. -/
  dec : Word
  isOver : Bool
  /-- The launch explored. -/
  launch : Nat
  /-- The path has ended in a leaf or been abandoned, and the sieve is to backtrack. -/
  ended : Bool
  /-- The path ended in a stall (R382). -/
  stalled : Bool
  deriving DecidableEq, Repr, Inhabited

/-! ## The partition (spec/17, 21, 22, 23) -/

/-- A host queue of a partition (R424). -/
structure Queue where
  base : DWord
  size : DWord
  prod : BitVec 16
  cbase : DWord
  cons : BitVec 16
  /-- QBASE[51:6] or QSIZE was written while the queue was disabled. -/
  moved : Bool
  /-- A write of QBASE that disables the queue waits for the end of the pass. -/
  stopping : Bool
  deriving DecidableEq, Repr

/-- A block send of another device as it comes in at a Sprinwald port (R418, R419): the port, the sender's device and partition and
a number for its group, the receiving partition and team, the counter's and the receiver's address, the sectors, and whether it fails
behind them at its sender's side (reason 5 of R292, reason 7 of R418). -/
structure Inbound where
  port : BitVec 4
  device : BitVec 16
  sender : PartNo
  group : Word
  part : PartNo
  team : Nat
  counter : Nat
  addr : Nat
  sectors : List (List Byte)
  fails : Bool
  deriving DecidableEq, Repr

/-- A record of the fault queue (R343). -/
structure FaultRec where
  vpage : Nat
  kind : Nat
  malformed : Bool
  requester : Word
  deriving DecidableEq, Repr

/-- A cached translation (R342): the cache that holds it, that of core n as n and the shared one of die d as 128 + d; virtual page
VA[63:16] of its first 64 KiB, size code, leaf. -/
structure Cached where
  cache : Nat
  vpage : Nat
  size : Nat
  leaf : DWord
  deriving DecidableEq, Repr

/-- An entry of a stall record (R335). -/
structure StallEntry where
  requester : Word
  pc : DWord
  kind : BitVec 4
  dom : BitVec 4
  detail : BitVec 20
  object : DWord
  deriving DecidableEq, Repr

/-- What the partition reports to its supervisor beside the error log and the vectors. -/
inductive Report where
  /-- The default handler's report (R156). -/
  | killed (tidx grp : Nat) (tpc : DWord) (trap : Trap)
  /-- A double-fault record (R155). -/
  | doubleFault (tidx grp : Nat) (tpc : DWord) (first : Trap) (pc : DWord) (second : Trap)
  /-- A stall record (R335). -/
  | stall (entries : List StallEntry)
  /-- A failed posted request (R307). -/
  | failedPost (obj : DWord) (requester : Word) (reason : BitVec 8)
  /-- A trap taken by a method, or by the whisk group outside a batch (R316). -/
  | method (core : Nat) (tpc : DWord) (trap : Trap)
  /-- A failed write of a register (R345). -/
  | failedWrite (off : Nat)
  /-- A team admitted without a declared attach (R181). -/
  | unattached (tidx : Nat) (name : DWord)
  /-- A rejected launch (R322). -/
  | rejected (launch : Nat)
  /-- A freeze that is complete, an image that did not fit, a RESUME that was rejected (R397, R399, R406). -/
  | frozen (reason : BitVec 6)
  | imageTooLarge
  | resumeRejected
  /-- An image that a slice start does not resume (R423). -/
  | sliceKept (reason : BitVec 6)
  /-- A refused firmware successor (R432). -/
  | updateRefused
  /-- An in-field test that is overdue (R352). -/
  | testOverdue (core : Nat)
  deriving DecidableEq, Repr

/-- A freeze image (R399, R400): its double words, the bits of REASON, and what its sections hold. -/
structure Image where
  /-- Where it has been written. -/
  place : Nat
  words : List DWord
  reason : BitVec 6
  run : Run
  choice : Choice
  sieve : Sieve
  deriving DecidableEq, Repr, Inhabited

/-- The supervisor registers of R345, R417, R422 and R423 that hold plain values. -/
structure Regs where
  /-- PCFG fields. -/
  firstDie : Nat
  logDies : Nat
  ptroot : DWord
  pkey : BitVec 8
  shelfc : BitVec 6
  shelfb : DWord
  inv : DWord
  invDone : Bool
  qos : BitVec 16
  whisk : BitVec 16
  egg : DWord
  drain : BitVec 17
  eper : BitVec 10
  ebudget : Word
  inft : BitVec 16
  /-- SEV1 to SEV15 (R350). -/
  sev : Cells 64
  /-- OBS base and limit pages VA[55:16]: base k at 2k, limit k at 2k + 1 (R345); an unlisted base is all ones, an unlisted limit 0. -/
  obs : Table Nat
  spw : Cells 64
  gbase : DWord
  gslice : DWord
  svcArg : Cells 64
  svcBusy : Option (BitVec 8)
  svcStatus : BitVec 8
  deriving DecidableEq, Repr

/-- A partition (R345). -/
structure Part where
  regs : Regs
  /-- Queues granted to it, by their number in the package (R424). -/
  queues : Table Queue
  run : Run
  choice : Choice
  sieve : Sieve
  /-- Number of the next operation or request. -/
  nextId : Nat
  /-- Number of the last launch accepted. -/
  lastLaunch : Nat
  signals : Cells 64
  kernels : Table Kernel
  /-- 64 KiB frames of the code segments with which each kernel was loaded, by its index in `kernels` (R41, R434). -/
  code : Table (List Nat)
  classes : Table UserClass
  keys : Table (BitVec 256)
  /-- M4 to M7 (R435). -/
  meas : Cells 512
  /-- Error log ring and its head index (R351). -/
  elog : Cells 256
  elogHead : BitVec 16
  /-- Outstanding page-fault records (R343). -/
  faults : List FaultRec
  tlb : List Cached
  debug : List DWord
  /-- MSI-X messages sent per vector, modulo 2^64 (R346). -/
  vectors : Cells 64
  /-- Reports, the newest first. -/
  reports : List Report
  frozen : Bool
  /-- A written image holds what the units of the frozen partition hold (R397, R406). -/
  saved : Bool
  /-- A freeze is under way (R397). -/
  freezing : Bool
  reason : BitVec 6
  /-- Pre-emption lets anchored teams drain (R272). -/
  draining : Bool
  imageArea : Option (Nat × Nat)
  images : List Image
  /-- Firings, retirements and flits of the window so far, and of the last completed one (R332). -/
  fire : DWord
  ret : DWord
  lastFire : DWord
  lastRet : DWord
  lastFlit : DWord
  /-- Flits injected in the present window (R411). -/
  flit : Nat
  /-- `nextId` when the pause of injection began that stands, or the last one: what is younger waits at its source meanwhile (R413). -/
  mark : Nat
  /-- Packets that were on their way when a link died, and can have been lost (R413). -/
  atRisk : List LostPacket
  /-- Teams that a lost packet has ended, whose other lost packets are not sent again (R413). -/
  lostTeams : List Nat
  /-- The window that is running (R332). -/
  window : BitVec 24
  /-- A cluster has been deferred in the energy period (R353). -/
  deferred : Bool
  /-- Energy in µJ that its accesses have drawn from each of the 12 stacks, and what it has spent in the energy period (R353). -/
  stackEnergy : List DWord
  spent : Nat
  /-- Host-tier line writes that the root complex has not acknowledged (R420). -/
  unacked : List Nat
  /-- Next core under test per die (R352). -/
  testNext : Table Nat
  /-- Sends of other devices held at their ports while the partition is frozen or freezes, the oldest first (R397). -/
  inbox : List Inbound
  deriving DecidableEq, Repr

/-! ## The package -/

/-- What acts in one step. -/
inductive Actor where
  /-- A group issues; the check is the outcome of checked issue (R158), should the instruction be a checked one. -/
  | group (p : PartNo) (gid : Nat) (check : CheckResult)
  /-- An engine, slice, home, dispatcher, firmware, supervisor, link or power event happens. -/
  | event (i : Instr)
  deriving DecidableEq, Repr

/-- The group that issues, with the outcome of checked issue. -/
structure Issuer where
  part : PartNo
  gid : Nat
  check : CheckResult
  deriving DecidableEq, Repr

/-- An internal or Sprinwald link that is not as at power-on (R412, R415). -/
structure LinkState where
  link : Link
  dead : Bool
  /-- 0 full, 1 half, 2 quarter width. -/
  width : Nat
  /-- Handshakes that have failed at full width since the last that succeeded (R412, R415). -/
  failed : Nat
  deriving DecidableEq, Repr

/-- The firmware and the boot of the package (R432, R433). -/
structure Firmware where
  booted : Bool
  /-- A signature failed at boot. -/
  failed : Bool
  version : Nat
  /-- A checked successor waits for the end of the pass. -/
  successor : Option Nat
  /-- Packets taken in the present pass that are still to be carried out: queue and packet (R425). -/
  pass : List (BitVec 7 × BitVec 512)
  deriving DecidableEq, Repr

/-- A write to a line that some cores do not see yet (R299): the step that has served it, the line and its bytes before, the team of the
commit that has made it, the cores, and of the earlier ones the steps of those that the writer's core did not see. -/
structure Late where
  step : Nat
  pline : Nat
  before : List Byte
  commit : Option Nat
  unseen : List Nat
  unknown : List Nat
  deriving DecidableEq, Repr

/-- The machine state. -/
structure State where
  /-- Physical memory: (address, byte), addresses rising, no listed byte 0 (an unlisted byte reads 0). -/
  mem : List Host.Cell
  /-- Poisoned double words of memory, by PA[51:3]. -/
  memPoison : List Nat
  /-- Writes that not every core sees yet, the oldest first, and those that have followed them (R299). -/
  late : List Late
  parts : Table Part
  /-- Owner keys of granules PA[51:26] (R338). -/
  granules : Cells 8
  /-- PFARG0 to PFARG3 (R348). -/
  pfArg : Cells 64
  /-- PFST busy: a firmware update is under way (R348, R432). -/
  pfBusy : Bool
  pfStatus : BitVec 8
  /-- Partition that a Sprinwald port is granted to (R416). -/
  portGrant : Table Nat
  /-- Shared-source severity fields of each class, bits [20:6] of SEVc (R350). -/
  sharedSev : Cells 64
  /-- M0 to M3 (R435). -/
  meas : Cells 512
  /-- Fused minimum security version (R432). -/
  minSecVer : Nat
  fw : Firmware
  /-- 64 KiB frames marked executable (R434). -/
  execFrames : List Nat
  links : List LinkState
  /-- Injection is paused while routes are recomputed (R413). -/
  paused : Bool
  cxlDown : List Nat
  /-- Energy counters in µJ of the 128 cores, and behind them of the 256 slices (R353). -/
  energy : List DWord
  /-- Clock of each die in MHz; an unlisted die runs at 1100 (R2, R437). -/
  clock : Table Nat
  throttle : Table ThrottleCause
  /-- Partitions to which the notice of a time offset beyond 10 µs is still to be raised (R422). -/
  notices : List Nat
  stopped : List Nat
  /-- Partition time in nanoseconds, and whether the package keeps it on its own oscillator (R422). -/
  time : DWord
  ownClock : Bool
  /-- What the host's last read of device memory has returned: its bytes, and whether the answer was poisoned (R351, R420). -/
  hostData : List Byte × Bool
  /-- Who acts next, first in the list. The model's own (notes/assumptions/1.md). -/
  agenda : List Actor
  /-- Counts steps, to draw free values from. The model's own (notes/assumptions/8.md). -/
  tick : Nat
  /-- The group that issues in this step. The model's own. -/
  cur : Option Issuer
  deriving DecidableEq, Repr

/-- The package right after power-on, before `POWER_ON_BOOT`: no partition exists (R345, R348) and nothing is booted. The
severities of shared sources are the defaults of R349. Registers with no reset value in spec/ are zero
(notes/assumptions/4.md). -/
def State.reset : State where
  mem := []
  memPoison := []
  late := []
  parts := []
  granules := []
  pfArg := []
  pfBusy := false
  pfStatus := 0
  portGrant := []
  sharedSev :=
    [(1, 0x49240#64), (2, 0x49240#64), (3, 0xDB6C0#64), (4, 0x49240#64), (5, 0xDB6C0#64), (6, 0x49240#64),
     (7, 0xDB6C0#64), (8, 0x49240#64), (9, 0x92480#64), (10, 0x92480#64), (11, 0xDB6C0#64), (12, 0x124900#64),
     (13, 0x92480#64), (14, 0xDB6C0#64), (15, 0x92480#64)]
  meas := []
  minSecVer := 0
  fw := { booted := false, failed := false, version := 0, successor := none, pass := [] }
  execFrames := []
  links := []
  paused := false
  cxlDown := []
  energy := List.replicate 384 0
  clock := []
  throttle := []
  notices := []
  stopped := []
  time := 0
  ownClock := false
  hostData := ([], false)
  agenda := []
  tick := 0
  cur := none

end Sys2Proof.Machine
end

