-- ==== Sys2Proof/Config.lean ====
section
/-!
DEFINITION. What one implementation fixes and what the specification leaves open. An `opaque` constant has no body: no proof
can learn its value, so a statement about the machine holds whatever the hardware does there.
-/
namespace Sys2Proof.Config

/-- What acts at a step for which `State.agenda` names nothing: timing, arrival, and everything outside the machine
(notes/assumptions/1.md). -/
opaque schedule (tick : Nat) : Option Machine.Actor

/-- Arithmetic-clock cycles since the partition started: CLK in FREE mode (R33, R35). -/
opaque clock (tick : Nat) : DWord

/-- Bytes of memory behind a CXL port, of which R336 gives only the most there can be. -/
opaque cxlBytes (port : Nat) : Nat

/-- Whether the host's memory backs a 64 KiB frame of tier 3 (R336). -/
opaque hostFrame (frame : Nat) : Bool

/-- Which of `n` outcomes comes about where spec/ leaves it to timing. -/
opaque pick (tick n : Nat) : Nat

/-- Whether a core sees the write that a slice serves in a step only later than others do (R299). -/
opaque seesLate (tick core : Nat) : Bool

/-- Which of `n` bytes that a tile's overlapping rows place at one offset of a line stays (R187, R214): it depends on nothing but
the place, so it is fixed with the decisions (R358). -/
opaque overlap (vline off n : Nat) : Nat

/-- Flits of a window's packets whose number spec/ does not give (R411): those of page walks, instruction fetches, crock moves, and the
firmware. -/
opaque flits (tick : Nat) : DWord

/-- Energy in µJ that a core, a slice, a stack or a team, numbered by the model, draws in a step (R353). -/
opaque energy (tick source : Nat) : DWord

/-- The dispatcher's estimate in µJ of the draw of the clusters that it would place (R353). -/
opaque estimate (tick : Nat) : Nat

/-- Nanoseconds that have gone by since the partition time was last set (R422). -/
opaque elapsed (tick : Nat) : DWord

/-- Whether the access to an address takes its translation from a cache that holds one (R342, R344): the entry has not been evicted. -/
opaque useCached (tick cache va : Nat) : Bool

/-- What comes in from another device (R418). -/
opaque inbound (tick : Nat) : Option Machine.Inbound

/-- How another device answers a send (R418): none when it has counted it, else which of the listed reasons it gives, and which of
the addresses that can have failed. -/
opaque remoteFailure (tick op : Nat) : Option (Nat × Nat)

/-- Whether the link of a Sprinwald port is trained (R418); spec/ does not describe its training. -/
opaque portTrained (tick port : Nat) : Bool

/-- HBM stack of an address, modulo the twelve there are (R1); R336 says only that the stacks are interleaved. -/
opaque stackOf (pa : Nat) : Nat

/-- Number of a link, and of a switch, within the package (R351); spec/ numbers neither. -/
opaque linkNumber (link : Link) : Nat
opaque switchNumber (stage die index : Nat) : Nat

/-- The body of an image section of a type and unit, before coding, from what the section captures (R403); spec/ does not give its inner
layout (R402). -/
opaque sectionBody (type unit : Nat) (captured : List Nat) (run : Machine.Run) (choice : Machine.Choice) (sieve : Machine.Sieve) : List DWord

/-- What an image holds that this partition has not written itself, from its double words (R402). -/
opaque foreignImage (words : List DWord) : Machine.Image

/-- Where in the reserved region the firmware would put a stream's records (R362): a number of double words. -/
opaque streamBase (tick : Nat) : BitVec 26

/-- Where in a partition's reserved region the firmware would have its successor area (R337, R432), and there the preserved-state table:
numbers of double words. -/
opaque successorArea (tick : Nat) : BitVec 26

/-- The preserved-state table of R432, of which spec/ gives the contents and not the layout. -/
opaque preservedTable (parts : Table Machine.Part) (ports : Table Nat) (down : List Nat) : List DWord

/-- The byte of the debug ring (0) or of the error log (1) from which the firmware copies (R431). -/
opaque ringOffset (tick kind : Nat) : Nat

/-- What M4 is extended with at a partition's creation: its configuration, of which R435 does not give the form. -/
opaque partitionMeasure (part : PartNo) (firstDie logDies : Nat) (pkey : BitVec 8) : BitVec 512

/-- A segment of an LVC container (R434): kind, virtual address, bytes, measurement, key slot, signature; the launch records and
the user classes that its bytes hold, each class a list of entries with addresses. -/
structure LvcSegment where
  kind : Nat
  va : DWord
  bytes : List Byte
  measurement : BitVec 512
  key : Nat
  signature : BitVec 512
  kernels : List Machine.Kernel
  classes : List (List (Nat × DWord))
  deriving DecidableEq, Repr

/-- A container as the loader reads it (R434): the hash of its header, its security version, its segments, and its objects with
their class: a built-in number, or 16 + k for its k-th user class. -/
structure Lvc where
  headerHash : BitVec 512
  version : Nat
  segments : List LvcSegment
  objects : List (DWord × Nat)
  deriving DecidableEq, Repr

/-- The launch records and the user classes of a container, in its order. -/
def Lvc.kernels (l : Lvc) : List Machine.Kernel := (l.segments.map LvcSegment.kernels).flatten
def Lvc.classes (l : Lvc) : List (List (Nat × DWord)) := (l.segments.map LvcSegment.classes).flatten

/-- The parse of a container's bytes; none where they are no container. The encoding of the header, of the segment table, of
launch records and of method tables is no part of spec/ (notes/assumptions/9.md). -/
opaque parseLvc (bytes : List Byte) : Option Lvc

/-- Whether an Ed25519 signature verifies over a message under a public key (R434). -/
opaque verifies (key : BitVec 256) (message : List Byte) (signature : BitVec 512) : Bool

/-- The Ed25519 signature of the device's attestation key over a message (R435). -/
opaque attestation (message : List Byte) : BitVec 512

/-- The key under which a firmware successor is checked (R432). -/
opaque firmwareKey (slot : Nat) : BitVec 256

end Sys2Proof.Config
end

