-- ==== Sys2Proof/Machine/Access.lean ====
section
/-!
DEFINITION. Access to the parts of the state: partitions, teams, groups, cores; physical memory; interrupts and reports.
-/
namespace Sys2Proof.Machine

/-! ## Partitions, teams, groups -/

def State.part? (s : State) (p : PartNo) : Option Part := Table.get? s.parts p.toNat
def State.setPart (s : State) (p : PartNo) (P : Part) : State := { s with parts := Table.set s.parts p.toNat P }
/-- Change a partition, if it exists. -/
def State.modPart (s : State) (p : PartNo) (f : Part → Part) : State :=
  { s with parts := Table.modify s.parts p.toNat f }

def Part.modRun (P : Part) (f : Run → Run) : Part := { P with run := f P.run }

/-- Group numbers: team key × 32 + group for a group of a team, the core's number for a whisk group. -/
def gidTeam (gid : Nat) : Nat := gid / 32
def gidGroup (gid : Nat) : Nat := gid % 32
def isWhisk (gid : Nat) : Bool := decide (gid < 128)

def Part.team? (P : Part) (tk : Nat) : Option Team := Table.get? P.run.teams tk
def Part.modTeam (P : Part) (tk : Nat) (f : Team → Team) : Part :=
  P.modRun fun r => { r with teams := Table.modify r.teams tk f }
def Part.modCore (P : Part) (c : Nat) (f : Core → Core) : Part :=
  P.modRun fun r => { r with cores := Table.modify r.cores c f }
def Part.modHome (P : Part) (c : Nat) (f : Home → Home) : Part :=
  P.modRun fun r => { r with homes := Table.modify r.homes c f }
def Part.modLaunch (P : Part) (l : Nat) (f : Launch → Launch) : Part :=
  P.modRun fun r => { r with launches := Table.modify r.launches l f }
def Part.modCluster (P : Part) (c : Nat) (f : Cluster → Cluster) : Part :=
  P.modRun fun r => { r with clusters := Table.modify r.clusters c f }
def Part.setOp (P : Part) (o : Nat) (x : Op) : Part := P.modRun fun r => { r with ops := Table.set r.ops o x }
def Part.dropOp (P : Part) (o : Nat) : Part :=
  P.modRun fun r => { r with ops := Table.erase r.ops o, answers := r.answers.filter fun e => e.1 != o }
def Part.setDir (P : Part) (d : Nat) (e : DirEntry) : Part := P.modRun fun r => { r with dir := Table.set r.dir d e }
def Part.dropDir (P : Part) (d : Nat) : Part := P.modRun fun r => { r with dir := Table.erase r.dir d }
def Part.modDir (P : Part) (d : Nat) (f : DirEntry → DirEntry) : Part :=
  P.modRun fun r => { r with dir := Table.modify r.dir d f }

/-- The number of the next operation or request, and the partition that has given it out. -/
def Part.fresh (P : Part) : Nat × Part := (P.nextId, { P with nextId := P.nextId + 1 })

def Part.group? (P : Part) (gid : Nat) : Option Group :=
  if isWhisk gid then (Table.get? P.run.homes gid).map Home.grp
  else (P.team? (gidTeam gid)).bind fun t => Table.get? t.groups (gidGroup gid)

def Part.setGroup (P : Part) (gid : Nat) (g : Group) : Part :=
  if isWhisk gid then P.modHome gid fun h => { h with grp := g }
  else P.modTeam (gidTeam gid) fun t => { t with groups := Table.set t.groups (gidGroup gid) g }

def Part.modGroup (P : Part) (gid : Nat) (f : Group → Group) : Part :=
  match P.group? gid with
  | some g => P.setGroup gid (f g)
  | none => P

def State.group? (s : State) (p : PartNo) (gid : Nat) : Option Group := (s.part? p).bind fun P => P.group? gid
def State.modGroup (s : State) (p : PartNo) (gid : Nat) (f : Group → Group) : State :=
  s.modPart p fun P => P.modGroup gid f
def State.modTeam (s : State) (p : PartNo) (tk : Nat) (f : Team → Team) : State := s.modPart p fun P => P.modTeam tk f

/-- The core of a group. -/
def Part.coreOf (P : Part) (gid : Nat) : Nat :=
  if isWhisk gid then gid else ((P.team? (gidTeam gid)).map Team.core).getD 0
def Part.core? (P : Part) (c : Nat) : Option Core := Table.get? P.run.cores c

/-- The requester identifier of a lane of a group (R355); all ones where no team is concerned (R351). -/
def Part.requester (P : Part) (gid lane : Nat) : Word :=
  match P.team? (gidTeam gid) with
  | some t => BitVec.ofNat 32 (t.tidx * 1024 + gidGroup gid * 32 + lane)
  | none => 0xFFFFFFFF

/-- Dies of the partition (R345). -/
def Part.dies (P : Part) : Nat := 2 ^ P.regs.logDies
/-- The mode of the launch of which teams are live, if any are. -/
def Part.liveMode (P : Part) : Option (BitVec 3) :=
  P.run.teams.head?.bind fun e => (Table.get? P.run.launches e.2.launch).bind Launch.mode
/-- The operating mode (R33): 0 FREE, 1 DETERMINISTIC, 2 RECORD, 3 STEERED, 4 EXPLORE. A launch runs under the one that the partition held
when its first cluster was placed (R324), and all live teams under one (notes/assumptions/104.md). -/
def Part.mode (P : Part) : Nat := (P.liveMode.getD P.choice.mode).toNat
def mFREE : Nat := 0
def mDETERMINISTIC : Nat := 1
def mRECORD : Nat := 2
def mSTEERED : Nat := 3
def mEXPLORE : Nat := 4

/-- A live team has been admitted and has not made its final commit (R333). -/
def Part.anyLive (P : Part) : Bool := !P.run.teams.isEmpty
/-- No home holds a request or an open batch (R345, R406). -/
def Part.homesEmpty (P : Part) : Bool :=
  P.run.homes.all (fun h => h.2.queue.isEmpty && h.2.batch.isNone) && !(P.run.whisks.any fun e => match e.2.place with
    | .travelling | .answered _ _ => false
    | _ => true)

/-! ## Interrupts and reports -/

/-- Send the MSI-X message of a vector (R346). -/
def Part.vector (P : Part) (n : Nat) : Part :=
  { P with vectors := Cells.set 0 P.vectors n (Cells.get 0 P.vectors n + 1) }
def Part.report (P : Part) (r : Report) : Part := { P with reports := r :: P.reports }
/-- A failed register write (R345). -/
def Part.failedWrite (P : Part) (off : Nat) : Part := (P.report (.failedWrite off)).vector 0

/-- Start a freeze, or add a REASON bit to it (R396). -/
def Part.freeze (P : Part) (bit : Nat) : Part :=
  { P with freezing := true, reason := P.reason ||| BitVec.ofNat 6 (2 ^ bit) }

/-- Partition time in nanoseconds (R422). -/
def State.now (s : State) : DWord := s.time + Config.elapsed s.tick

/-! ## Physical memory (R336, R351) -/

/-- CXL port of a second-tier address (R336). -/
def cxlPort (pa : Nat) : Nat := (pa - 2 ^ 49) / 2 ^ 42
/-- The address lies in the window of a port that is down (R421). -/
def State.portDown (s : State) (pa : Nat) : Bool :=
  decide (2 ^ 49 ≤ pa) && decide (pa < 2 ^ 50) && s.cxlDown.contains (cxlPort pa)

/-- A range holds an uncorrectable error, or lies behind a port that is down (R351, R421). -/
def State.unclean (s : State) (pa n : Nat) : Bool := (touched 8 pa n).any fun d => s.memPoison.contains d || s.portDown (8 * d)

/-! ## Links (R409, R412) -/

def State.linkState (s : State) (l : Link) : LinkState := (s.links.find? fun x => x.link == l).getD ⟨l, false, 0, 0⟩
def State.linkDead (s : State) (l : Link) : Bool := (s.linkState l).dead

/-- A link between a leaf and a spine, and one between a spine and a top switch, lives. -/
def State.leafLink (s : State) (die leaf j : Nat) : Bool :=
  !s.linkDead (.leafSpine (BitVec.ofNat 3 die) (BitVec.ofNat 3 leaf) (BitVec.ofNat 2 j))
def State.topLink (s : State) (die j t : Nat) : Bool :=
  !s.linkDead (.spineTop (BitVec.ofNat 3 die) (BitVec.ofNat 2 j) (BitVec.ofNat 4 t))
/-- A leaf reaches another switch through some spine: another leaf of its die, for which packets turn at the spine, or a top switch
(R409; notes/assumptions/68.md). -/
def State.leafUp (s : State) (die leaf : Nat) : Bool :=
  (List.range 4).any fun j => s.leafLink die leaf j &&
    (((List.range 8).any fun k => k != leaf && s.leafLink die k j) || (List.range 16).any fun t => s.topLink die j t)
/-- Some link leads to the top switches of a hub die, and so to the ports on it (R409). -/
def State.hubReached (s : State) (hub : Nat) : Bool :=
  (List.range 8).any fun d => (List.range 4).any fun j => (List.range 4).any fun t => s.topLink d j (4 * hub + t)
/-- A range reaches into the host's memory, behind the PCIe port of hub die 0, to which no route is left (R336, R409, R414). -/
def State.hostCut (s : State) (pa n : Nat) : Bool := decide (2 ^ 51 < pa + n) && !s.hubReached 0
/-- A range cannot be accessed now: a `cpyv` of some partition holds a line of it (R216), or it is cut off. -/
def State.rangeHeld (s : State) (pa n : Nat) : Bool :=
  s.hostCut pa n || s.parts.any fun e => e.2.run.held.any fun l => decide (pa < l * 128 + 128) && decide (l * 128 < pa + n)
/-- A Sprinwald port is dead: its own link, or its hub die (R414, R418). -/
def State.portDead (s : State) (port : Nat) : Bool :=
  s.linkDead (.sprinwald (BitVec.ofNat 4 port)) || !s.hubReached (port % 16 / 4)

/-- The canonical form of memory: addresses rising, no listed byte 0. -/
def Memory.wf (m : List Host.Cell) : Bool := Cells.wf 0 m

def State.byte (s : State) (pa : Nat) : Byte := Cells.get 0 s.mem pa
def State.bytes (s : State) (pa n : Nat) : List Byte := Cells.getMany 0 s.mem pa n
/-- A number of n bytes, little-endian (R4). -/
def State.num (s : State) (pa n : Nat) : Nat := leNat (s.bytes pa n)

/-- A double word of memory is poisoned (R351), or answered as poisoned (R421). -/
def State.poisoned (s : State) (pa : Nat) : Bool := s.memPoison.contains (pa / 8) || s.portDown pa

/-- Store bytes at rising addresses; a double word that is written whole loses its poison (R275). The window of a port that is down
takes none (R421). -/
def State.store (s : State) (pa : Nat) (bs : List Byte) : State :=
  if s.portDown pa then s else
  let first := (pa + 7) / 8
  let last := (pa + bs.length) / 8
  { s with mem := Cells.setMany 0 s.mem pa bs, memPoison := removeRange s.memPoison first last }

def State.storeNum (s : State) (pa n x : Nat) : State := s.store pa (leBytes n x)

/-- The bytes of a line write that are marked, with the double words marked poisoned (R190, R274). -/
def State.storeLine (s : State) (pline : Nat) (bytes : Table Byte) (poison : List Nat) : State :=
  let whole := (List.range 16).filter fun d => (List.range 8).all fun k => Table.has bytes (8 * d + k)
  let cleared := s.memPoison.filter fun x => !(decide (x / 16 = pline) && whole.contains (x % 16))
  { s with
    mem := bytes.foldl (fun m e => Cells.set 0 m (pline * 128 + e.1) e.2) s.mem
    memPoison := poison.foldl (fun l d => insertNum l (pline * 16 + d)) cleared }

/-- Lines of the undo log (R375). -/
def undoCapacity : Nat := 1864135

/-- The first byte behind the firmware's reserved region and the undo log of a partition (R337). -/
def Part.regionEnd (P : Part) : Nat := P.regs.shelfb.toNat + 768 * 2 ^ 20
def Part.shelfEnd (P : Part) : Nat := P.regs.shelfb.toNat + 32 * P.dies * (62 - P.regs.shelfc.toNat) * 2 ^ 20
def Part.inRegion (P : Part) (pa : Nat) : Bool := decide (P.regs.shelfb.toNat ≤ pa) && decide (pa < P.regionEnd)

/-- A write of a line is logged before it is made (R375): the first one since the snapshot, but for lines of the reserved region,
and of tier 3, whose writes are not undone. -/
def Part.logs (P : Part) (pline : Nat) : Bool :=
  P.sieve.snapshot.isSome && P.mode == mEXPLORE && !P.inRegion (pline * 128) && decide (pline < 2 ^ 44) &&
    !(P.sieve.undo.any fun u => u.pline == pline)

/-- An entry of the undo log, of 144 bytes: the line's address, its poison mark, its bytes (notes/assumptions/100.md). -/
def Undo.bytes144 (u : Undo) : List Byte :=
  leBytes 8 (u.pline * 128) ++ leBytes 8 (u.poison.foldl (fun n d => n + 2 ^ d) 0) ++ u.bytes

/-- Append an entry for a line to the undo log, which lies behind the reserved region (R337). -/
def State.logLine (s : State) (p : PartNo) (P : Part) (pline : Nat) : State :=
  let u : Undo := ⟨pline, s.bytes (pline * 128) 128, (List.range 16).filter fun d => s.memPoison.contains (pline * 16 + d)⟩
  (s.store (P.regs.shelfb.toNat + 2 ^ 29 + 144 * P.sieve.undo.length) u.bytes144).setPart p
    { P with sieve := { P.sieve with undo := u :: P.sieve.undo } }

/-- A write to a line, seen by the undo log of the partition that explores (R375): the state after the write, and whether
the write was made. A full log holds the write and ends the path (R380). -/
def State.writeLine (s : State) (p : PartNo) (pline : Nat) (bytes : Table Byte) (poison : List Nat) : State × Bool :=
  match s.part? p with
  | none => (s, false)
  | some P =>
    if s.portDown (pline * 128) then (s, true)
    else if P.logs pline then
      if undoCapacity ≤ P.sieve.undo.length then (s, false) else ((s.logLine p P pline).storeLine pline bytes poison, true)
    else (s.storeLine pline bytes poison, true)

/-- Every core sees every write from now on. -/
def State.allSeen (s : State) : State := { s with late := [] }

/-- Bytes by offset in a line. -/
def lineBytes (off : Nat) (bs : List Byte) : Table Byte := (List.range bs.length).zip bs |>.map fun e => (off + e.1, e.2)

end Sys2Proof.Machine
end

