-- ==== Sys2Proof/Machine/Record.lean ====
section
/-!
DEFINITION. Choice domains: ordinals, records and the record buffer (R354, R361, R367 to R369), streams and exhaustion
(R362 to R366), hash records and divergence (R372 to R374).
-/
namespace Sys2Proof.Machine

/-- The domain kind code (R354, R361). -/
def domCode : Domain → Nat
  | .line => 1 | .obj => 2 | .bar => 3 | .crock => 4 | .choose => 5 | .hash => 6

/-- A record (R361). -/
def mkRecord (dom : Domain) (last team : Bool) (run val : Nat) : DWord :=
  BitVec.ofNat 64 (domCode dom * 2 ^ 60 + bit last * 2 ^ 59 + bit team * 2 ^ 58 + run % 2 ^ 24 * 2 ^ 32 + val % 2 ^ 32)

def recKind (r : DWord) : Nat := field r 60 4
def recEnd (r : DWord) : Bool := field r 59 1 == 1
def recTeam (r : DWord) : Bool := field r 58 1 == 1
def recRun (r : DWord) : Nat := field r 32 24
def recVal (r : DWord) : Nat := field r 0 32
/-- The key of the request a record names (R355). -/
def recKey (r : DWord) : Nat := recVal r * 2 + bit (recTeam r)

/-! ## Ordinals (R354, R360) -/

def Choice.domain (c : Choice) (dom : Domain) (id : DWord) : DomainState :=
  match c.domains.find? fun d => d.dom = dom ∧ d.id = id with
  | some d => d
  | none => ⟨dom, id, 0, none⟩

def Choice.setDomain (c : Choice) (d : DomainState) : Choice :=
  { c with domains := d :: c.domains.filter fun e => !(e.dom = d.dom ∧ e.id = d.id) }

/-- Ordinals are kept in RECORD, STEERED and EXPLORE modes (R354). -/
def Choice.keepsOrdinals (c : Choice) : Bool := decide (2 ≤ c.mode.toNat)

/-- A decision of a LINE, OBJ or CROCK domain has been made. -/
def Choice.bump (c : Choice) (dom : Domain) (id : DWord) : Choice :=
  if c.keepsOrdinals then
    let d := c.domain dom id
    c.setDomain { d with n := d.n + 1 }
  else c

/-! ## The record buffer (R367, R368) -/

/-- Join a record to a list, merging it into the last one when it goes on with the same choice (R367). -/
def pushRecord (dom : Domain) (recs : List DWord) (r : DWord) : List DWord :=
  match recs.getLast? with
  | some l =>
    if dom ≠ .obj ∧ dom ≠ .hash ∧ recVal l = recVal r ∧ recTeam l = recTeam r ∧ recRun l + recRun r < 2 ^ 24 then
      recs.dropLast ++ [mkRecord dom false (recTeam l) (recRun l + recRun r) (recVal l)]
    else recs ++ [r]
  | none => [r]

/-- Decisions that a list of records covers. -/
def covered (dom : Domain) (recs : List DWord) : Nat :=
  match dom with
  | .obj => (recs.filter recEnd).length
  | .hash => recs.length / 2
  | _ => recs.foldl (fun n r => n + recRun r) 0

/-- The double words of a chunk (R367). -/
def chunkWords (dom : Domain) (id : DWord) (first : Nat) (recs : List DWord) : List DWord :=
  BitVec.ofNat 64 (domCode dom * 2 ^ 60 + 2 ^ 57 + recs.length * 2 ^ 32 + first % 2 ^ 32) :: id :: recs

/-- Double words in use of the record buffer. -/
def Choice.fill (c : Choice) : Nat := (c.rbprod - c.rbcons).toNat

/-- Write double words at the producer index of the ring (notes/assumptions/17.md). -/
def State.ringWrite (s : State) (base size prod : Nat) : List DWord → State
  | [] => s
  | w :: ws => (s.storeNum (base + prod % size * 8) 8 w.toNat).ringWrite base size (prod + 1) ws

/-- Append a chunk if it fits whole (R368): the state, and whether it was appended. DESIGN CHOICE: an append "first waits" where no other chunk
of the partition waits, and vector 3 is raised then alone (notes/assumptions/127.md). -/
def State.appendChunk (s : State) (p : PartNo) (dom : Domain) (id : DWord) (first : Nat) (recs : List DWord) : State × Bool :=
  match s.part? p with
  | none => (s, false)
  | some P =>
    let ws := chunkWords dom id first recs
    let c := P.choice
    let size := c.rbsize.toNat
    if c.fill + ws.length ≤ size then
      let s := s.ringWrite (P.regs.shelfb + c.rbbase).toNat size c.rbprod.toNat ws
      let P := { P with choice := { c with rbprod := c.rbprod + BitVec.ofNat 32 ws.length } }
      let crossed := decide (c.fill * 8 ≤ size * 7) && decide (size * 7 < (c.fill + ws.length) * 8)
      (s.setPart p (if crossed then P.vector 3 else P), true)
    else
      (s.setPart p (if c.chunks.any Chunk.waits then P else P.vector 3), false)

/-- Flush a list of records in chunks of at most 128 double words; what does not fit remains. -/
def State.flushRecords (s : State) (p : PartNo) (dom : Domain) (id : DWord) : Nat → Nat → List DWord → State × Nat × List DWord
  | 0, first, recs => (s, first, recs)
  | fuel + 1, first, recs =>
    if recs.isEmpty then (s, first, [])
    else
      let piece := recs.take 128
      let (s', ok) := s.appendChunk p dom id first piece
      if ok then s'.flushRecords p dom id fuel (first + covered dom piece) (recs.drop 128) else (s', first, recs)

/-- What becomes of the first chunk of a domain. -/
def Choice.settleChunk (c : Choice) (dom : Domain) (id : DWord) (left : Option Chunk) : Choice :=
  let k := c.chunks.findIdx fun x => x.dom == dom && x.id == id
  { c with chunks := c.chunks.take k ++ left.toList ++ c.chunks.drop (k + 1) }

/-- Flush the first chunk of a domain (R367). -/
def State.flushChunk (s : State) (p : PartNo) (dom : Domain) (id : DWord) : State :=
  match s.part? p with
  | none => s
  | some P =>
    match P.choice.chunks.find? fun c => c.dom = dom ∧ c.id = id with
    | none => s
    | some c =>
      let (s, first, rest) := s.flushRecords p dom id (c.recs.length + 1) c.first c.recs
      let left := if rest.isEmpty then none else some ⟨dom, id, first, rest, true⟩
      s.modPart p fun P => { P with choice := P.choice.settleChunk dom id left }

/-- Every chunk that is still open waits to be appended, and takes no more records. -/
def Choice.closeChunks (c : Choice) : Choice := { c with chunks := c.chunks.map fun x => { x with waits := true } }

/-- Flush every open chunk, in the order in which they were opened (R367: at a freeze, and when the partition leaves RECORD). -/
def State.flushAll (s : State) (p : PartNo) : State :=
  match s.part? p with
  | none => s
  | some P => (P.choice.chunks.foldl (fun s c => s.flushChunk p c.dom c.id) s).modPart p fun P => { P with choice := P.choice.closeChunks }

/-- Append the chunks that wait, as far as there is room (R368). -/
def State.retryChunks (s : State) (p : PartNo) : State :=
  match s.part? p with
  | none => s
  | some P => (P.choice.chunks.filter Chunk.waits).foldl (fun s c => s.flushChunk p c.dom c.id) s

/-- Whether `k` more records of a domain can be kept now; if not, the domain's decisions wait (R368): for a chunk that was to be
appended, or for room for the chunk of 128 double words that they fill. -/
def Choice.canRecord (c : Choice) (dom : Domain) (id : DWord) (k : Nat) : Bool :=
  match c.chunks.find? fun x => x.dom = dom ∧ x.id = id with
  | none => true
  | some x => !x.waits && (decide (x.recs.length + k ≤ 128) || decide (c.fill + 130 ≤ c.rbsize.toNat))

/-- Whether records of several domains of a kind, one for each identifier in a list, can be kept now: no chunk of theirs waits, and there is
room for all the chunks that they fill. -/
def Choice.canRecordAll (c : Choice) (dom : Domain) (ids : List DWord) : Bool :=
  let chunk (id : DWord) : Option Chunk := c.chunks.find? fun x => x.dom = dom ∧ x.id = id
  let filled := ((dedup ids).map fun id =>
    (((chunk id).map fun x => x.recs.length).getD 0 + ids.count id - 1) / 128).sum
  ids.all (fun id => !(chunk id).any Chunk.waits) && (filled == 0 || decide (c.fill + 130 * filled ≤ c.rbsize.toNat))

/-- The open chunk of a domain waits, or holds 128 double words. -/
def Choice.chunkFull (c : Choice) (dom : Domain) (id : DWord) : Bool :=
  match c.chunks.find? fun x => x.dom = dom ∧ x.id = id with
  | none => false
  | some x => x.waits || decide (128 ≤ x.recs.length)

/-- Flush the chunk of a domain if it is to be flushed (R367). -/
def State.flushIfFull (s : State) (p : PartNo) (dom : Domain) (id : DWord) : State :=
  match s.part? p with
  | some P => if P.choice.chunkFull dom id = true then s.flushChunk p dom id else s
  | none => s

/-- The chunk of a domain that takes records: one that waits to be appended takes no more. -/
def Chunk.takes (c : Chunk) (dom : Domain) (id : DWord) : Bool := c.dom == dom && c.id == id && !c.waits

/-- Records of a domain join its open chunk, one that goes on with the same choice the last record of it (R367); behind a chunk that waits
a new one opens, with the ordinal `n` of its first decision. DESIGN CHOICE: so it is for hash records alone, since a commit is no decision and
does not wait for the buffer (R368, R390; notes/assumptions/127.md). -/
def Choice.addRecords (c : Choice) (dom : Domain) (id : DWord) (n : Nat) (recs : List DWord) : Choice :=
  let add (x : Chunk) : Chunk := { x with recs := recs.foldl (pushRecord dom) x.recs }
  { c with
    chunks := if c.chunks.any fun x => x.takes dom id then c.chunks.map fun x => if x.takes dom id then add x else x
      else c.chunks ++ [add ⟨dom, id, n, [], false⟩] }

/-- Keep records of a domain, `n` the ordinal of their decision, and flush its chunk if they have filled it. -/
def State.record1 (s : State) (p : PartNo) (dom : Domain) (id : DWord) (n : Nat) (recs : List DWord) : State :=
  (s.modPart p fun P => { P with choice := P.choice.addRecords dom id n recs }).flushIfFull p dom id

/-- Keep the records of one decision of a domain, each by itself; the two double words of a hash record together (R390). -/
def State.record (s : State) (p : PartNo) (dom : Domain) (id : DWord) (n : Nat) (recs : List DWord) : State :=
  if dom = .hash then s.record1 p dom id n recs else recs.foldl (fun s r => s.record1 p dom id n [r]) s

/-! ## Staging (R369) -/

/-- Append every staged record of a team. -/
def State.unstage (s : State) (p : PartNo) (tk : Nat) : State :=
  match (s.part? p).bind fun P => P.team? tk with
  | none => s
  | some t =>
    (t.staged.foldl (fun s r => s.record p r.dom r.id r.n [r.record]) s).modTeam p tk fun t => { t with staged := [] }

/-- Staged records, the newest first, with one more that has joined the last one of its domain, if it goes on with the same
choice (R367). -/
def mergeStaged (r : Staged) : List Staged → Option (List Staged)
  | [] => none
  | l :: rest =>
    if l.dom = r.dom ∧ l.id = r.id then
      if recVal l.record = recVal r.record ∧ recRun l.record + recRun r.record < 2 ^ 24 then
        some ({ l with record := mkRecord r.dom false false (recRun l.record + recRun r.record) (recVal l.record) } :: rest)
      else none
    else (mergeStaged r rest).map (l :: ·)

/-- Stage a record of a private domain of a team; a 65th is appended with all others, and the team counts as anchored for
discard from then on. The records of a team that is no more are appended. -/
def State.stage (s : State) (p : PartNo) (tk : Nat) (r : Staged) : State :=
  match (s.part? p).bind fun P => P.team? tk with
  | none => s.record p r.dom r.id r.n [r.record]
  | some t =>
    if t.overStaged then s.record p r.dom r.id r.n [r.record]
    else match mergeStaged r t.staged.reverse with
      | some l => s.modTeam p tk fun t => { t with staged := l.reverse }
      | none =>
        if t.staged.length < 64 then s.modTeam p tk fun t => { t with staged := t.staged ++ [r] }
        else (s.modTeam p tk fun t => { t with staged := t.staged ++ [r], overStaged := true }).unstage p tk

/-- The records of a team's private domains can be kept now: they are staged, or the buffer has room for one more (R368, R369). -/
def Part.canStage (P : Part) (tk : Option Nat) (dom : Domain) (id : DWord) : Bool :=
  ((tk.bind P.team?).any fun t => !t.overStaged) || P.choice.canRecord dom id 1

/-! ## Streams (R362 to R366) -/

/-- What the stream of a domain says about its next decision. -/
inductive Steer where
  /-- The domain runs as in FREE mode. -/
  | unsteered
  | named (r : DWord)
  | exhausted
  deriving DecidableEq, Repr

def Choice.stream? (c : Choice) (dom : Domain) (id : DWord) : Option (Nat × Stream) :=
  c.streams.find? fun e => e.2.kind.toNat = domCode dom ∧ e.2.id = id

/-- Whether a record is one that R364 takes as exhaustion, whatever it names. -/
def badRecord (dom : Domain) (r : DWord) : Bool :=
  recKind r != domCode dom || field r 57 1 == 1 || field r 56 1 == 1 || recRun r == 0 ||
  ((dom = .obj ∨ dom = .bar ∨ dom = .choose) && recTeam r) || (dom = .obj && recRun r != 1)

/-- The record of the next decision of a domain in STEERED mode, `k` records ahead of the cursor (R363, R364). -/
def Choice.steerAt (c : Choice) (dom : Domain) (id : DWord) (k : Nat) : Steer :=
  if c.unsteered.contains (BitVec.ofNat 4 (domCode dom), id) then .unsteered
  else match c.stream? dom id with
    | none => .exhausted
    | some (_, st) =>
      if st.exh then .unsteered
      else match st.recs[st.cur.toNat + k]? with
        | none => .exhausted
        | some r => if badRecord dom r then .exhausted else .named r
def Choice.steer (c : Choice) (dom : Domain) (id : DWord) : Steer := c.steerAt dom id 0

/-- Pass over one decision of the current record (R363). -/
def Stream.advance (st : Stream) : Stream :=
  match st.recs[st.cur.toNat]? with
  | none => st
  | some r =>
    if recRun r ≤ st.roff.toNat + 1 then { st with cur := st.cur + 1, roff := 0 } else { st with roff := st.roff + 1 }

def Choice.advance (c : Choice) (dom : Domain) (id : DWord) : Choice :=
  match c.stream? dom id with
  | none => c
  | some (k, st) => if st.exh then c else { c with streams := Table.set c.streams k st.advance }

/-- Exhaustion of a domain at its decision `n` (R365): under STALL the partition freezes; under FREE the domain goes on
unsteered. -/
def Part.exhaust (P : Part) (dom : Domain) (id : DWord) (n : Nat) : Part :=
  let c := P.choice
  if c.pol then
    { P with choice := match c.stream? dom id with
        | some (k, st) => { c with unst := true, streams := Table.set c.streams k { st with exh := true } }
        | none => { c with unst := true, unsteered := (BitVec.ofNat 4 (domCode dom), id) :: c.unsteered } }
  else
    ({ P with choice := { c with xkind := BitVec.ofNat 4 (domCode dom), xid := id, xn := BitVec.ofNat 20 n } }.freeze 3).vector 4

/-- Streams whose identifier satisfies a test return to their first record (R366). -/
def Choice.rewind (c : Choice) (f : BitVec 4 → DWord → Bool) : Choice :=
  { c with
    streams := c.streams.map fun e => if f e.2.kind e.2.id then (e.1, { e.2 with cur := 0, roff := 0, exh := false }) else e
    unsteered := c.unsteered.filter fun e => !f e.1 e.2 }

/-- Identifiers of private domains (R147, R262). -/
def chooseId (tidx g : Nat) : DWord := BitVec.ofNat 64 (tidx * 1024 + g * 32)
def barId (tidx level bar : Nat) : DWord := BitVec.ofNat 64 (tidx * 1024 + level * 256 + bar * 16)

/-- At the launch or relaunch of a team: the streams of its groups' CHOOSE domains, of its team barriers and, at cluster
position (0, 0), of its cluster barriers (R366). -/
def Choice.rewindTeam (c : Choice) (tidx rank : Nat) : Choice :=
  c.rewind fun kind id =>
    id.toNat / 1024 == tidx &&
      ((kind == 5) || (kind == 3 && (field id 8 2 == 0 || (field id 8 2 == 1 && rank == 0))))

/-- Entry to an operating mode (R360). -/
def Choice.enterMode (c : Choice) (mode : BitVec 3) (pol : Bool) (win : BitVec 6) (paths : Word) : Choice :=
  { c with
    mode := mode, pol := pol, win := win, paths := paths, domains := [], unst := false, unsteered := []
    streams := c.streams.map fun e => (e.1, { e.2 with cur := 0, roff := 0, exh := false })
    noDiverge := false }

/-! ## The store hash (R372) and hash records (R374) -/

/-- The double words that line bytes touch, in increasing order, each hashed as R372 gives it. -/
def hashLine (h : DWord) (vline : Nat) (bytes : Table Byte) : DWord :=
  (List.range 16).foldl (fun h d =>
    let m := (List.range 8).foldl (fun m k => m + bit (Table.has bytes (8 * d + k)) * 2 ^ k) 0
    if m = 0 then h
    else
      let w := leNat ((List.range 8).map fun k => Table.getD bytes (8 * d + k) 0)
      hashStep (hashStep h (BitVec.ofNat 64 ((vline * 16 + d) % 2 ^ 53 * 256 + m))) (BitVec.ofNat 64 w)) h

/-- The hash records of a KIND 6 stream: name and hash. A pair that does not hold KIND 6 is absent (R374, R390). -/
def Stream.hashRecords (st : Stream) : List (DWord × DWord) :=
  ((List.range (st.recs.length / 2)).map fun k => (st.recs.getD (2 * k) 0, st.recs.getD (2 * k + 1) 0)).filter fun e =>
    recKind e.1 == 6

/-- Commits are compared with recorded hashes: until the first divergence (R374, R391). -/
def Part.detects (P : Part) : Bool := P.mode == mSTEERED && !P.choice.noDiverge && !P.reason.getLsbD 4

/-- A divergence (R374). -/
def Part.diverge (P : Part) (tidx grp n : Nat) : Part :=
  ({ P with choice := { P.choice with
      xkind := 6, xid := BitVec.ofNat 64 (tidx * 32 + grp), xn := BitVec.ofNat 20 n } }.freeze 4).vector 4

/-- A team whose commit has been made takes its next commit ordinal (R374): a hash record in RECORD mode, the comparison with
a KIND 6 stream in STEERED mode. -/
def State.commitMade (s : State) (p : PartNo) (tk grp : Nat) : State :=
  match s.part? p with
  | none => s
  | some P =>
    match P.team? tk with
    | none => s
    | some t =>
      let n := t.commitN
      let s := s.modTeam p tk fun t => { t with commitN := n + 1 }
      let name : DWord := BitVec.ofNat 64 (6 * 2 ^ 60 + t.tidx * 2 ^ 32 + grp * 2 ^ 27 + n % 2 ^ 27)
      if P.mode = mRECORD then
        (s.record p .hash 0 (P.choice.domain .hash 0).n [name, t.hash]).modPart p fun P =>
          { P with choice := P.choice.bump .hash 0 }
      else if P.detects then
        match P.choice.stream? .hash 0 with
        | none => s
        | some (_, st) =>
          let hit := st.hashRecords.find? fun e => field e.1 32 22 == t.tidx && field e.1 0 27 == n % 2 ^ 27
          if hit.any fun e => e.2 == t.hash then s else s.modPart p fun P => P.diverge t.tidx grp n
      else s

/-- The grid hash of a launch (R373), from the hash of each team by index. -/
def gridHash (n : Nat) (h : Nat → DWord) : DWord :=
  (List.range n).foldl (fun g t => hashStep (hashStep g (BitVec.ofNat 64 t)) (h t)) 0

end Sys2Proof.Machine
end

