-- ==== Sys2Proof/Machine/Explore.lean ====
section
/-!
DEFINITION. Leaves of the sieve and the end of an exploration (spec/18_choice_points.md R373, R380, R382), and the choice block
(R371).
-/
namespace Sys2Proof.Machine

/-! ## The grid hash (R373) -/

/-- Number of teams of a launch (R323). -/
def Launch.teams (l : Launch) : Nat := l.gx * l.gy * l.gz

/-- Key of the team of a launch with a linear index, and of the cluster at a position. -/
def keyIn (launch k : Nat) : Nat := launch * 2 ^ 22 + k

/-- The grid hash of a launch as it stands: a live team by its hash, an ended one by its last, 0 for one not launched. -/
def Part.launchHash (P : Part) (k : Nat) (l : Launch) : DWord :=
  gridHash l.teams fun t => match P.team? (keyIn k t) with
    | some u => u.hash
    | none => Table.getD l.hashes t 0

/-! ## The choice block (R371) -/

/-- The block as a number of 512 bits. -/
def Choice.block (c : Choice) : Nat :=
  c.rbbase.toNat * 2 ^ 448 + c.rbsize.toNat * 2 ^ 416 + c.rbprod.toNat * 2 ^ 384 + c.rbcons.toNat * 2 ^ 352 +
  c.olbase.toNat * 2 ^ 288 + c.olcap.toNat * 2 ^ 264 + c.olprod.toNat * 2 ^ 240 + c.imgbase.toNat * 2 ^ 176 +
  c.win.toNat * 2 ^ 170 + c.paths.toNat * 2 ^ 128 + c.leaves.toNat * 2 ^ 96 + c.xkind.toNat * 2 ^ 92 + bit c.unst * 2 ^ 91 +
  bit c.pol * 2 ^ 90 + c.mode.toNat * 2 ^ 87 + c.xst.toNat * 2 ^ 84 + c.xn.toNat * 2 ^ 64 + c.xid.toNat

/-! ## Leaves (R380) and the end of an exploration (R382) -/

/-- An exploration runs (XST 1). -/
def Part.exploring (P : Part) : Bool := P.mode == mEXPLORE && P.choice.xst == 1

/-- The branch points that lie on the path. -/
def Sieve.path (v : Sieve) : List Branch := v.branches.take v.depth

/-- The outcome record of a leaf. -/
def outcomeRecord (path : List Branch) (dec leaf : Nat) (stall div isOver undo : Bool) (hash : DWord) : Nat :=
  ((List.range path.length).zip path).foldl (fun n e => n + e.2.index % 256 * 2 ^ (512 + 8 * e.1)) 0 +
    dec % 2 ^ 32 * 2 ^ 160 + leaf % 2 ^ 32 * 2 ^ 128 + bit stall * 2 ^ 127 + bit div * 2 ^ 126 + bit isOver * 2 ^ 125 +
    bit undo * 2 ^ 124 + path.length % 128 * 2 ^ 64 + hash.toNat

/-- The exploration ends with a code in XST: the partition keeps the state of the last path, frozen if it stalled. -/
def Part.endExploration (P : Part) (xst : BitVec 3) : Part :=
  let P := { P with
    choice := { P.choice with xst := xst }
    sieve := { P.sieve with snapshot := none, undo := [], ended := false } }
  (if P.sieve.stalled then P.freeze 2 else P).vector 4

/-- XST after a leaf; 1 while the exploration goes on. DESIGN CHOICE: where several ends of R382 come together, 5 goes before 3, 3 before 4
and 4 before 2 (notes/assumptions/122.md). -/
def Choice.leafState (c : Choice) (undo : Bool) : BitVec 3 :=
  if undo then 5
  else if c.paths ≠ 0 ∧ c.paths.toNat ≤ c.leaves.toNat then 3
  else if c.olcap.toNat ≤ c.olprod.toNat then 4
  else 1

/-- The path ends in a leaf: the outcome record is appended if the log has room, and LEAVES rises. Branch points that the path has
not come to keep their untried alternatives (R381). -/
def State.leaf (s : State) (p : PartNo) (stall div undo : Bool) : State :=
  match s.part? p with
  | none => s
  | some P =>
    let c := P.choice
    if !P.exploring || P.sieve.ended then s
    else
      let room := decide (c.olprod.toNat < c.olcap.toNat)
      let hash := ((Table.get? P.run.launches P.sieve.launch).map (P.launchHash P.sieve.launch)).getD 0
      let r := outcomeRecord P.sieve.path P.sieve.dec.toNat c.leaves.toNat stall div P.sieve.isOver undo hash
      let s := if room then s.storeNum (P.regs.shelfb.toNat + c.olbase.toNat + c.olprod.toNat * 128) 128 r else s
      let c := if room then { c with olprod := c.olprod + 1, leaves := c.leaves + 1 } else c
      let P := { P with choice := c, sieve := { P.sieve with ended := true, stalled := stall } }
      s.setPart p (if c.leafState undo = 1 then P else P.endExploration (c.leafState undo))

end Sys2Proof.Machine
end

