-- ==== Sys2Proof/Machine/Ending.lean ====
section
/-!
DEFINITION. How work ends: release of a team's resources and crocks (R173, R177, R193, R223), kill (R156), discard (R193, R270),
failures at homes (R307, R316), errors and the severity matrix (R271, R274, R349 to R351), partition reset (R347).
-/
namespace Sys2Proof.Machine

/-! ## Launch values (R12, R13, R17, R36, R259) -/

/-- The default handler's address (R36). -/
def defaultVector : DWord := 0xFFFFFFFFFFFFFFFC

def Group.initial (entry : DWord) (seed : Word) (tvec : DWord) : Group where
  v := []
  xi := []
  xlo := []
  xhi := []
  q := []
  s := []
  pc := entry
  em := 0xFFFFFFFF
  stack := []
  mode := 0
  perm := 0
  stat := 0
  seed := seed
  ctr := 0
  nanct := 0
  tvec := tvec
  tpc := 0
  tcause := 0
  tinfo := 0
  tmode := 0
  tem := 0
  inTrap := false
  retired := 0
  chooseN := 0
  run := .live
  windows := []
  inflight := []
  held := []
  latched := none
  wait := none
  stage := .fresh
  closed := 0
  complete := 0
  nans := []
  vpoison := []
  cpoison := []

def Core.initial : Core where
  scratch := []
  spoison := []
  tags := []
  guards := []
  filter := []
  records := []
  operand := []
  opoison := []
  tiles := []
  matrix := []
  cpoison := []
  written := []
  withdrawn := false
  testing := false

/-- A barrier at launch, with n members (R259). -/
def Barrier.initial (n : Nat) : Barrier where
  ord := 0
  expect := BitVec.ofNat 8 n
  count := 0
  pd := 0
  sub := BitVec.ofNat 2048 (2 ^ n - 1)
  arr := 0
  role := none
  cands := []
  n := 0

/-- The first slot that a whisk group holds, and the address of its window (R300, R302; notes/assumptions/13.md). -/
def whiskSlot : Nat := 224
def windowAddr : Nat := whiskSlot * 4096

/-- The address in the firmware's dispatch loop to which a method returns (R311; notes/assumptions/13.md). -/
def dispatchReturn : DWord := 0xFFFFFF0000001000

/-- A home with its whisk group in the dispatch loop. -/
def Home.initial : Home := ⟨Group.initial 0 0 0, [], none, .loop⟩

/-! ## Crocks (R174 to R180) -/

/-- Numbers in `Core.written`: a slot has its own (R403). -/
def unitNumber (u : Nat) : Nat := 256 + u
def tileNumber (t : Nat) : Nat := 2304 + t

/-- Give up slots: their tags, and the guards in them (R184). -/
def Core.freeSlots (c : Core) (slots : List Nat) : Core :=
  { c with
    tags := c.tags.filter fun e => !slots.contains e.1
    guards := c.guards.filter fun g => !slots.contains (g / 256)
    cpoison := c.cpoison.filter fun w => !slots.contains w }

/-- Slots zero at the moment they are given (R171). -/
def Core.zeroSlot (c : Core) (slot : Nat) : Core :=
  { c with
    scratch := Cells.clear c.scratch (slot * 4096) (slot * 4096 + 4096)
    spoison := removeRange c.spoison (slot * 512) (slot * 512 + 512)
    guards := c.guards.filter fun g => g / 256 != slot
    written := removeNum c.written slot }

/-- Copy a slot onto another, with its poison (R176, R177, R275). -/
def Core.copySlot (c : Core) (src dst : Nat) : Core :=
  { c with
    scratch := Cells.setMany 0 c.scratch (dst * 4096) (Cells.getMany 0 c.scratch (src * 4096) 4096)
    spoison := (List.range 512).foldl (fun l k =>
      if c.spoison.contains (src * 512 + k) then insertNum l (dst * 512 + k) else removeNum l (dst * 512 + k)) c.spoison
    written := insertNum c.written dst }

/-- Slots of a crock. -/
def DirEntry.slots (d : DirEntry) : List Nat :=
  if d.placed then (List.range (d.count.toNat + 1)).map fun j => d.base.toNat + j else []

/-- Slots an attach has in use or in reserve as shadows. -/
def Attach.slots (a : Attach) : List Nat := a.shadows.map Prod.snd ++ a.spare

/-- Take one holder off a directory entry; an attach that ends other than by a discard takes the next DETACHED number when it
was the last one (R174, R177). -/
def Part.unhold (P : Part) (a : Attach) (discard : Bool) : Part :=
  match Table.get? P.run.dir a.dir with
  | none => P
  | some d =>
    let d := if a.mode = 0 then { d with readers := d.readers - 1 } else { d with writer := false }
    if d.readers = 0 ∧ !d.writer then
      let d := { d with state := 1 }
      if discard then P.setDir a.dir d
      else (P.setDir a.dir { d with detached := P.run.detachSeq }).modRun fun r => { r with detachSeq := r.detachSeq + 1 }
    else P.setDir a.dir d

/-- The entry, its slots and its backing are released (R178, R223). -/
def Part.dropCrock (P : Part) (dir : Nat) : Part :=
  match Table.get? P.run.dir dir with
  | none => P
  | some d => (P.modCore d.core.toNat fun c => c.freeSlots d.slots).dropDir dir

/-- Release an attach without a seal: at a discard or a kill (R177, R178). -/
def Part.releaseAttach (P : Part) (core : Nat) (discard : Bool) (a : Attach) : Part :=
  let P := P.modCore core fun c => c.freeSlots a.slots
  if a.created && !a.sealed then P.dropCrock a.dir else P.unhold a discard

/-- Seal a writing attach (R177, R178): shadows go into the crock's slots and are free for the attach's next stores, as the
shadows of none, but still reserved for it (R222); VERSION rises. -/
def Part.sealAttach (P : Part) (core : Nat) (a : Attach) : Part × Attach :=
  match Table.get? P.run.dir a.dir with
  | none => (P, a)
  | some d =>
    let first := a.created && !a.sealed
    let P := P.modCore core fun c =>
      let c := a.shadows.foldl (fun c e => c.copySlot e.2 (d.base.toNat + e.1)) c
      { c with tags := a.shadows.foldl (fun t e => Table.modify t e.2 fun g => { g with link := 0 }) c.tags }
    let dirty := if first then List.range (d.count.toNat + 1)
      else a.shadows.foldl (fun l e => insertNum l e.1) d.dirty
    let d := { d with
      version := d.version + 1, dirty := dirty
      state := if first then 2 else d.state, creator := if first then none else d.creator }
    (P.setDir a.dir d, { a with shadows := [], spare := a.spare ++ a.shadows.map Prod.snd, sealed := true })

/-- The end of an attach at its team's final commit (R175, R177, R190 step 3, R223). -/
def Part.commitAttach (P : Part) (core : Nat) (a : Attach) : Part :=
  if a.mode = 0 then P.unhold a false
  else if a.drop then (P.modCore core fun c => c.freeSlots a.slots).dropCrock a.dir
  else
    let (P, a) := P.sealAttach core a
    (P.modCore core fun c => c.freeSlots a.slots).unhold a false

/-! ## Release of a team's resources -/

def Op.gid : Op → Nat
  | .load gid _ _ _ _ => gid
  | .copyIn gid _ _ _ _ _ => gid
  | .copyOut gid _ _ _ _ => gid
  | .send gid _ _ _ _ _ _ _ _ _ => gid
  | .call gid _ _ _ _ => gid
  | .probe gid _ _ => gid
  | .version gid _ _ _ _ _ _ => gid

/-- The write of a `strel`'s own words (R205). -/
def LineReq.direct (r : LineReq) : Bool := r.op == 0 && !r.teamFlag && (match r.kind with
  | .write _ _ => true
  | _ => false)

/-- Cancel what a team has in flight (R193). Words of a `strel` that have left are on their way (R299). -/
def Part.cancel (P : Part) (tk : Nat) : Part :=
  P.modRun fun r =>
    let mine := r.ops.filter fun e => gidTeam e.2.gid == tk && !isWhisk e.2.gid
    let held := mine.filterMap fun e => match e.2 with
      | .version _ _ pl _ _ _ _ => some pl
      | _ => none
    { r with
      ops := r.ops.filter fun e => !(gidTeam e.2.gid == tk && !isWhisk e.2.gid)
      lines := r.lines.filter fun e => e.2.team != tk || e.2.direct
      sights := r.sights.filter fun e => e.team != tk && gidTeam e.gid != tk
      answers := r.answers.filter fun e => !(mine.any fun o => o.1 == e.1)
      held := r.held.filter fun l => !held.contains l
      crockReqs := r.crockReqs.filter fun e => gidTeam e.gid != tk
      cores := r.cores.map fun e => (e.1, { e.2 with matrix := e.2.matrix.filter fun m => gidTeam m.gid != tk }) }

/-- What a team gives up when its last group has ended (R329): slots of its run, records, tiles. It has none of them from then
on, so a later end of the team frees nothing that has gone to another. -/
def Part.freeEngines (P : Part) (tk : Nat) : Part :=
  match P.team? tk with
  | none => P
  | some t =>
    (P.modCore t.core fun c =>
      { (c.freeSlots ((List.range t.runLen).map fun j => t.runBase + j)) with
        records := c.records.filter fun e => e.2.owner.toNat != t.slot
        tiles := c.tiles.filter fun e => !(t.tiles.any fun b => b.2 == e.1)
        matrix := c.matrix.filter fun m => gidTeam m.gid != tk }).modTeam tk fun t =>
          { t with runLen := 0, recQuota := 0, unitQuota := 0, accQuota := 0, handles := [], tiles := [] }

/-- The team's entry and its places in the release filter are freed. -/
def Part.freeTeam (P : Part) (tk : Nat) : Part :=
  match P.team? tk with
  | none => P
  | some t =>
    (P.modCore t.core fun c => { c with filter := c.filter.filter fun e => e.2 != t.slot }).modRun fun r =>
      { r with teams := Table.erase r.teams tk }

/-- A team counts as finished in its cluster and launch, with its hash (R328, R373); its cluster is complete when its last
team has finished. -/
def Part.teamOver (P : Part) (t : Team) : Part :=
  let P := P.modLaunch t.launch fun l =>
    { l with hashes := Table.set l.hashes t.tidx t.hash, commits := Table.set l.commits t.tidx t.commitN }
  match Table.get? P.run.clusters t.cluster with
  | none => P
  | some c =>
    let c := { c with finished := insertNum c.finished t.rank }
    if c.teams.length ≤ c.finished.length then
      (P.modLaunch t.launch fun l => { l with done := insertNum l.done (t.cluster % 2 ^ 22) }).modRun fun r =>
        { r with clusters := Table.erase r.clusters t.cluster }
    else P.modRun fun r => { r with clusters := Table.set r.clusters t.cluster c }

/-- End a team without a commit (R156): nothing of its colander, shadows or posted requests is written. Its staged records are
appended (R369). -/
def State.killTeam (s : State) (p : PartNo) (tk : Nat) : State :=
  (s.unstage p tk).modPart p fun P =>
    match P.team? tk with
    | none => P
    | some t =>
      let P := t.attaches.foldl (fun P a => P.releaseAttach t.core false a) (P.cancel tk)
      ((P.freeEngines tk).freeTeam tk).teamOver t

/-! ## Discard (R193, R270, R271) -/

/-- A team that is handled as anchored by an event that would discard it (R192, R369, R370). -/
def Part.fixed (P : Part) (t : Team) : Bool :=
  t.anch || t.overStaged || P.mode == mEXPLORE || ((P.mode == mRECORD || P.mode == mSTEERED) && t.served)

/-- Every team of the team's cluster may be discarded (R270). -/
def Part.discardable (P : Part) (tk : Nat) : Bool :=
  match P.team? tk with
  | none => false
  | some t =>
    match Table.get? P.run.clusters t.cluster with
    | none => false
    | some c => c.finished.isEmpty && c.teams.all fun k => (P.team? k).any fun u => !P.fixed u

/-- The launch of a team. -/
def Part.launchOf (P : Part) (t : Team) : Option Launch := Table.get? P.run.launches t.launch

/-- Clusters across and down (R323), and in all. -/
def Launch.cx (l : Launch) : Nat := l.gx / l.kernel.width
def Launch.cy (l : Launch) : Nat := l.gy / l.kernel.height
def Launch.clusters (l : Launch) : Nat := l.cx * l.cy * l.gz

/-- The cluster index of a team (R323). -/
def Launch.clusterIndex (l : Launch) (t : Team) : Nat :=
  t.x / l.kernel.width + l.cx * (t.y / l.kernel.height + l.cy * t.z)

/-- A member's part in the current phase of a barrier is taken back, with any drop of its: it is subscribed again and has not
arrived. A drop that an earlier phase has applied is restored to EXPECT (R193; notes/assumptions/103.md). -/
def Barrier.withdraw (b : Barrier) (m : Nat) : Barrier :=
  let here := b.arr.getLsbD m
  let gone := !b.sub.getLsbD m
  { b with
    expect := if gone && !here then b.expect + 1 else b.expect
    count := if here then b.count - 1 else b.count
    pd := if gone && here then b.pd - 1 else b.pd
    sub := b.sub ||| BitVec.ofNat 2048 (2 ^ m)
    arr := b.arr &&& ~~~(BitVec.ofNat 2048 (2 ^ m))
    cands := b.cands.filter fun k => k != m }

/-- Nothing that a discarded cluster did at the grid's barriers remains (R193, R270). -/
def Launch.withdraw (l : Launch) (t : Team) : Launch :=
  { l with bars := l.bars.map fun e => (e.1, e.2.withdraw (l.clusterIndex t)) }

/-- Discard the cluster of a team and list it for relaunch, with the pages that the team has met and whose verdict it awaits. -/
def Part.discard (P : Part) (tk : Nat) (pages : List Nat) : Part :=
  match P.team? tk with
  | none => P
  | some t =>
    match Table.get? P.run.clusters t.cluster with
    | none => P
    | some c =>
      let marks : Table (List Nat) := c.teams.filterMap fun k =>
        (P.team? k).bind fun u => if u.marks.isEmpty then none else some (u.rank, u.marks)
      let P := c.teams.foldl (fun P k =>
        match P.team? k with
        | none => P
        | some u =>
          let P := u.attaches.foldl (fun P a => P.releaseAttach u.core true a) (P.cancel k)
          ((P.freeEngines k).freeTeam k).modLaunch u.launch fun l => { l with hashes := Table.erase l.hashes u.tidx }) P
      (P.modLaunch t.launch fun l => l.withdraw t).modRun fun r =>
        { r with
          clusters := Table.erase r.clusters t.cluster
          relaunches := insertBy (fun x => x.launch * 2 ^ 22 + x.pos)
            ⟨t.launch, t.cluster % 2 ^ 22, pages.map fun v => (v, t.rank), sortBy Prod.fst marks⟩ r.relaunches }

/-! ## Failures at homes (R307, R316) -/

/-- The trap that a faulted lane holds (R307). -/
def whiskTrap (obj : DWord) (reason : Nat) : Trap :=
  ⟨if reason = 0 then 0x24 else 0x23, BitVec.ofNat 64 (obj.toNat % 2 ^ 56 + reason * 2 ^ 56)⟩

/-- Answer a request: a posted one is done with, and its failure is reported (R307). -/
def Part.answer (P : Part) (req : Nat) (val : DWord) (reason : Option Nat) : Part :=
  match Table.get? P.run.whisks req with
  | none => P
  | some w =>
    if w.op = 0 then
      let P := P.modRun fun r => { r with whisks := Table.erase r.whisks req }
      match reason with
      | some c => (P.report (.failedPost w.obj w.requester (BitVec.ofNat 8 c))).vector 0
      | none => P
    else P.modRun fun r =>
      { r with whisks := Table.set r.whisks req { w with place := .answered val (reason.map (whiskTrap w.obj)) } }

/-- The header of an object (R302), bytes 56 to 63: FAILS raised, SPOIL set or not. -/
def failHeader (h : Nat) (n : Nat) (spoil : Bool) : Nat :=
  let fails := min (h / 2 ^ 16 % 2 ^ 16 + n) 0xFFFF
  let sp := if spoil then 1 else h / 2 ^ 47 % 2
  h % 2 ^ 16 + fails * 2 ^ 16 + h / 2 ^ 32 % 2 ^ 15 * 2 ^ 32 + sp * 2 ^ 47 + h / 2 ^ 48 * 2 ^ 48

/-- A write to a line that is no request and is served on arrival (R355). One that finds the undo log full ends the path and
the exploration (R380, R382), and is then made. -/
def State.putLine (s : State) (p : PartNo) (pline : Nat) (bytes : Table Byte) (poison : List Nat) : State :=
  match s.writeLine p pline bytes poison with
  | (s, true) => s
  | (s, false) => ((s.leaf p false false true).writeLine p pline bytes poison).1

/-- Such a write of bytes within one line. -/
def State.writeAt (s : State) (p : PartNo) (pa : Nat) (bs : List Byte) : State :=
  s.putLine p (pa / 128) (lineBytes (pa % 128) bs) []

/-- Write the header alone (R314). -/
def State.writeHeader (s : State) (p : PartNo) (pa h : Nat) : State := s.writeAt p (pa + 56) (leBytes 8 h)

/-- CLASS and SPOIL of a header (R302). -/
def headerClass (h : Nat) : Nat := h / 2 ^ 48 % 2 ^ 16
def headerSpoil (h : Nat) : Bool := bitOf h 47
def headerBno (h : Nat) : Nat := h % 2 ^ 16

/-- CLASS names a class (R303). -/
def Part.namesClass (P : Part) (cls : Nat) : Bool := (decide (1 ≤ cls) && decide (cls ≤ 7)) || Table.has P.classes cls

/-- The failure of a posted request is counted in the header, where that can be read and CLASS names a class (R307, R316). -/
def State.countFail (s : State) (p : PartNo) (w : WhiskReq) : State :=
  let h := s.num (w.pa + 56) 8
  if w.op = 0 && !s.poisoned (w.pa + 56) && (s.part? p).any fun P => P.namesClass (headerClass h) then s.writeHeader p w.pa (failHeader h 1 false) else s

/-- Answer a request at its home with a fault. -/
def State.refuse (s : State) (p : PartNo) (id : Nat) (w : WhiskReq) (reason : Nat) : State :=
  (s.countFail p w).modPart p fun P => P.answer id 0 (some reason)

/-- The request stands at its home, in the queue or at the order gate. -/
def WhiskReq.atHome (w : WhiskReq) : Bool := match w.place with
  | .queued _ | .gate _ _ => true
  | _ => false

/-- SPOIL has been set: the requests to the object that stand at its home are answered at once (R316). -/
def State.spoilRest (s : State) (p : PartNo) (core pa : Nat) : State :=
  match s.part? p with
  | none => s
  | some P =>
    let xs := P.run.whisks.filter fun e => e.2.pa == pa && e.2.atHome
    let s := s.setPart p (P.modHome core fun h => { h with queue := h.queue.filter fun q => !(xs.any fun e => e.1 == q) })
    xs.foldl (fun s e => s.refuse p e.1 e.2 0) s

/-- A `cpyv` holds the line of an address (R216). -/
def Part.lineHeld (P : Part) (pa : Nat) : Bool := P.run.held.contains (pa / 128)
/-- A `cpyv` holds the line of the object whose batch a home has open. -/
def Part.batchHeld (P : Part) (core : Nat) : Bool :=
  (Table.get? P.run.homes core).any fun h => h.batch.any fun b => P.lineHeld b.pa

/-- The open batch of a home fails: every lane is answered with the reason, the window is discarded, the header is written;
the whisk group returns to its dispatch loop (R314, R316). An object that is spoiled has no request left at its home. -/
def State.failBatch (s : State) (p : PartNo) (core reason : Nat) (spoil : Bool) : State :=
  match (s.part? p).bind fun P => Table.get? P.run.homes core with
  | none => s
  | some h =>
    match h.batch with
    | none => s.modPart p fun P => P.modHome core fun h => { h with grp := (Home.initial).grp, phase := .loop }
    | some b =>
      let s := s.writeHeader p b.pa (failHeader (s.num (b.pa + 56) 8) 1 spoil)
      let s := s.modPart p fun P =>
        (b.reqs.foldl (fun P r => P.answer r 0 (some reason)) P).modHome core fun h => { h with batch := none }
      if spoil then s.spoilRest p core b.pa else s

/-- The whisk group returns to its dispatch loop, and nothing that its method has begun is awaited any more. -/
def Part.resetWhisk (P : Part) (core : Nat) : Part :=
  let mine := (P.run.ops.filter fun e => match e.2 with
    | .send _ _ _ _ _ _ _ _ _ _ => false
    | x => x.gid == core).map Prod.fst
  (P.modRun fun r => { r with
    ops := r.ops.filter fun e => !mine.contains e.1
    answers := r.answers.filter fun e => !mine.contains e.1
    lines := r.lines.filter fun e => !mine.contains e.2.op }).modHome core fun h =>
      { h with grp := (Home.initial).grp, phase := .loop, batch := none }

/-- A trap taken by the whisk group (R316): inside a batch the batch fails with reason 0x01 and the object is spoiled; it is
reported, and the group returns to its dispatch loop. -/
def State.methodTrap (s : State) (p : PartNo) (core : Nat) (tpc : DWord) (t : Trap) : State :=
  ((s.failBatch p core 1 true).modPart p fun P => (P.report (.method core tpc t)).vector 0).modPart p fun P => P.resetWhisk core

/-! ## Errors and the severity matrix (R349 to R351) -/

/-- Source kinds of R351. -/
def srcCore : Nat := 0
def srcSlice : Nat := 1
def srcHbm : Nat := 2
def srcLink : Nat := 3
def srcSwitch : Nat := 4
def srcFirmware : Nat := 5
def srcCxl : Nat := 6

/-- SEVc as the supervisor reads it: CORE and SLICE of its own, the shared sources' fields from the package (R350). -/
def State.sevc (s : State) (P : Part) (cls : Nat) : Nat :=
  (Cells.get 0 P.regs.sev cls).toNat % 64 + (Cells.get 0 s.sharedSev cls).toNat / 64 % 2 ^ 15 * 64

/-- The configured action of a class at a source. -/
def State.action (s : State) (P : Part) (cls src : Nat) : Nat :=
  let place := match src with
    | 0 => 0 | 1 => 3 | 2 => 6 | 3 => 9 | 4 => 12 | 5 => 15 | _ => 18
  s.sevc P cls / 2 ^ place % 8

/-- An error log record (R351). -/
def logRecord (time : DWord) (addr : Nat) (req : Word) (cls src index act : Nat) : BitVec 256 :=
  BitVec.ofNat 256 (time.toNat * 2 ^ 192 + addr % 2 ^ 56 * 2 ^ 136 + req.toNat * 2 ^ 104 + cls * 2 ^ 28 + src * 2 ^ 25 +
    index % 512 * 2 ^ 16 + act * 2 ^ 13)

/-- Append to the ring of 4,096 records, over the oldest (R351). -/
def Part.log (P : Part) (r : BitVec 256) : Part :=
  { P with elog := Cells.set 0 P.elog (P.elogHead.toNat % 4096) r, elogHead := BitVec.ofNat 16 ((P.elogHead.toNat + 1) % 4096) }

/-- The defaults of R349 in the CORE and SLICE fields. -/
def defaultSeverity : Cells 64 :=
  [(1, 9), (2, 9), (3, 27), (4, 9), (5, 27), (6, 9), (7, 27), (8, 9), (9, 18), (10, 18), (11, 27), (12, 36), (13, 18),
   (14, 27), (15, 18)]

/-- The registers at a partition's creation and after its reset (R345, R347): PCFG, PKEY, PTROOT and SHELFB are given. -/
def Regs.initial (firstDie logDies : Nat) (ptroot : DWord) (pkey : BitVec 8) (shelfb : DWord) : Regs where
  firstDie := firstDie
  logDies := logDies
  ptroot := ptroot
  pkey := pkey
  shelfc := 32
  shelfb := shelfb
  inv := 0
  invDone := true
  qos := 0x1010
  whisk := 0x0420
  egg := 0x80000000000186A0
  drain := 2000
  eper := 10
  ebudget := 0
  inft := 0
  sev := defaultSeverity
  obs := []
  spw := []
  gbase := 0
  gslice := 0
  svcArg := []
  svcBusy := none
  svcStatus := 0

/-- The cores of a partition, by number. -/
def Regs.cores (r : Regs) : List Nat := (List.range (16 * 2 ^ r.logDies)).map fun c => r.firstDie * 16 + c
/-- The whisk cores (R300). -/
def Regs.whiskCores (r : Regs) : List Nat := r.cores.filter fun c => bitOf r.whisk.toNat (c % 16)

/-- A partition with no work (R345, R347). DESIGN CHOICE: its first detach after a reset takes the number 1, of which R174 gives none
(notes/assumptions/124.md). -/
def Run.initial (r : Regs) (detachSeq : DWord) : Run where
  teams := []
  cores := r.cores.map fun c => (c, Core.initial)
  homes := r.whiskCores.map fun c => (c, Home.initial)
  ops := []
  lines := []
  whisks := []
  held := []
  sights := []
  answers := []
  contribs := []
  dir := []
  detachSeq := detachSeq
  launches := []
  clusters := []
  relaunches := []
  crockReqs := []

/-- The choice block after a reset (R371). -/
def Choice.initial : Choice where
  rbbase := 0
  rbsize := 0
  rbprod := 0
  rbcons := 0
  olbase := 0
  olcap := 0
  olprod := 0
  imgbase := 0
  win := 63
  paths := 0
  leaves := 0
  xkind := 0
  unst := false
  pol := false
  mode := 0
  xst := 0
  xn := 0
  xid := 0
  streams := []
  domains := []
  chunks := []
  unsteered := []
  noDiverge := false

def Sieve.initial : Sieve := ⟨none, [], [], 0, 0, false, 0, false, false⟩

/-- Reset a partition (R347): what it holds ends without a commit, the mode becomes FREE, the registers of R345 (the head index
ELOG among them) return to their reset values, M4 to M7 and the signal slots are cleared (R427, R435). DESIGN CHOICE: the contributions that ordered objects hold (R305) end with it, while
the objects' lines keep HELD (R317). Queues, kernels, classes, keys and bindings stay (notes/assumptions/18.md). -/
def Part.reset (P : Part) : Part :=
  let old := P.regs
  let regs := { Regs.initial old.firstDie old.logDies old.ptroot old.pkey old.shelfb with
    spw := old.spw, gbase := old.gbase, gslice := old.gslice, svcArg := old.svcArg, svcStatus := old.svcStatus }
  { P with
    regs := regs
    run := Run.initial regs 1
    choice := Choice.initial
    sieve := Sieve.initial
    signals := []
    meas := []
    elogHead := 0
    faults := []
    tlb := []
    frozen := false
    saved := false
    freezing := false
    reason := 0
    draining := false
    fire := 0
    ret := 0
    flit := 0
    atRisk := []
    lostTeams := []
    deferred := false
    unacked := []
    inbox := [] }

/-- Carry out the severity matrix for an error of a class at a source (R351). `ctx` is the team that met it; `floor` takes a
configured 0, 1 or 2 as 3 (R155, R244, R274); `mayDiscard` relaunches an unanchored context (R271, R351). -/
def State.severity (s : State) (p : PartNo) (cls src index addr : Nat) (req : Word) (ctx : Option Nat)
    (floor mayDiscard : Bool) : State :=
  match s.part? p with
  | none => s
  | some P =>
    let conf := s.action P cls src
    let act := if floor && decide (conf < 3) then 3 else conf
    let act := if act = 3 ∧ ctx = none then 2 else act
    if act = 0 then s
    else
      let P := P.log (logRecord s.now addr req cls src index act)
      let P := if conf = 2 ∨ act = 2 then P.vector 0 else P
      let s := s.setPart p P
      match act, ctx with
      | 3, some tk =>
        if mayDiscard && P.discardable tk then s.setPart p (P.discard tk []) else s.killTeam p tk
      | 4, _ => s.modPart p Part.reset
      | _, _ => s

/-- An error that no team met. -/
def State.orphan (s : State) (p : PartNo) (cls src index addr : Nat) : State :=
  s.severity p cls src index addr 0xFFFFFFFF none false false

/-- The home slice of an address, by its number within the package (R320). -/
def Part.homeSlice (P : Part) (pa : Nat) : Nat :=
  P.regs.firstDie * 32 +
    (mix32 (BitVec.ofNat 32 (pa / 2 ^ 7) ^^^ BitVec.ofNat 32 (pa / 2 ^ 39 % 2 ^ 13 * 8))).toNat % (32 * P.dies)

/-- INDEX of an error record: the number of its source within the package (R351). -/
def Part.sourceIndex (P : Part) (src core pa : Nat) : Nat :=
  match src with
  | 1 => P.homeSlice pa
  | 2 => Config.stackOf pa % 12
  | 6 => cxlPort pa
  | _ => core

/-- The core's number within the package for the error log. -/
def Part.coreIndex (P : Part) (tk : Nat) : Nat := ((P.team? tk).map Team.core).getD 0

/-- An uncorrectable error of class 3, 5 or 7 consumed by a team (R158, R244, R271, R274): an unanchored team is discarded and
not placed on the failing core again, its own where the source is no core; an anchored one, or one that consumes its fourth, is killed by the severity matrix. The record of a
discard is the one of the kill in whose stead it stands, and vector 0 is raised where the configured action is 2 (R351). -/
def State.consume (s : State) (p : PartNo) (tk cls src index addr : Nat) (req : Word) : State :=
  match s.part? p with
  | none => s
  | some P =>
    match P.team? tk with
    | none => s
    | some t =>
      let n := (((Table.get? P.run.launches t.launch).map fun l => Table.getD l.errors t.tidx 0).getD 0) + 1
      let P := P.modLaunch t.launch fun l => { l with errors := Table.set l.errors t.tidx n }
      if n < 4 ∧ P.discardable tk then
        let P := if s.action P cls src = 2 then P.vector 0 else P
        let P := (P.log (logRecord s.now addr req cls src index 3)).modLaunch t.launch fun l =>
          { l with avoid := Table.set l.avoid t.tidx (insertNum (Table.getD l.avoid t.tidx []) (if src = srcCore then index else t.core)) }
        s.setPart p (P.discard tk [])
      else (s.setPart p P).severity p cls src index addr req (some tk) true false

/-- The uncorrectable error that a group consumes at an address (R274); one that a whisk group consumes at its home fails the open
batch, and is reported with source core (R316). -/
def State.consumeBy (s : State) (p : PartNo) (gid cls src addr : Nat) : State :=
  if isWhisk gid then
    ((s.failBatch p gid 5 true).severity p cls srcCore gid addr 0xFFFFFFFF none false false).modPart p fun P =>
      P.resetWhisk gid
  else
    let idx := match s.part? p with
      | some P => P.sourceIndex src (P.coreOf gid) addr
      | none => 0
    s.consume p (gidTeam gid) cls src idx addr (((s.part? p).map fun P => P.requester gid 0).getD 0xFFFFFFFF)

/-- The source of an uncorrectable word at a physical address (R351, R421). -/
def srcOfPa (pa : Nat) : Nat :=
  if pa < 2 ^ 40 then srcHbm else if pa < 2 ^ 49 then srcSlice else if pa < 2 ^ 50 then srcCxl else srcSlice

/-- The firmware has met an uncorrectable word for a partition: an error that no team met (R351). -/
def State.readError (s : State) (p : PartNo) (P : Part) (pa : Nat) : State :=
  s.orphan p 3 (srcOfPa pa) (P.sourceIndex (srcOfPa pa) 0 pa) pa

end Sys2Proof.Machine
end

