-- ==== Sys2Proof/Machine/Barrier.lean ====
section
/-!
DEFINITION. Hardware barriers (R259 to R262), their BAR choice points, and the uniform registers that team barrier 0 settles
(R30, R31).
-/
namespace Sys2Proof.Machine

/-- The linear index of the team at position (0, 0) of a cluster index (R323). -/
def Launch.originTidx (l : Launch) (ci : Nat) : Nat :=
  ci % l.cx * l.kernel.width + l.gx * (ci / l.cx % l.cy * l.kernel.height + l.gy * (ci / (l.cx * l.cy)))

/-- The barrier a team means by a level and number (R260). -/
def Part.bar (P : Part) (t : Team) (level bar : Nat) : Barrier :=
  match level with
  | 0 => Table.getD t.bars bar (Barrier.initial t.g)
  | 1 => match Table.get? P.run.clusters t.cluster with
    | some c => Table.getD c.bars bar (Barrier.initial c.teams.length)
    | none => Barrier.initial 0
  | _ => match P.launchOf t with
    | some l => Table.getD l.bars bar (Barrier.initial l.clusters)
    | none => Barrier.initial 0

def Part.setBar (P : Part) (tk : Nat) (t : Team) (level bar : Nat) (b : Barrier) : Part :=
  match level with
  | 0 => P.modTeam tk fun t => { t with bars := Table.set t.bars bar b }
  | 1 => P.modCluster t.cluster fun c => { c with bars := Table.set c.bars bar b }
  | _ => P.modLaunch t.launch fun l => { l with bars := Table.set l.bars bar b }

/-- The member number of a group at a level (R260): its group, its team's rank, its cluster. -/
def Part.member (P : Part) (t : Team) (grp level : Nat) : Nat :=
  match level with
  | 0 => grp
  | 1 => t.rank
  | _ => ((P.launchOf t).map fun l => l.clusterIndex t).getD 0

/-- The identifier of a barrier's BAR domain (R262). -/
def Part.barDomain (P : Part) (t : Team) (level bar : Nat) : DWord :=
  match level with
  | 0 => barId t.tidx 0 bar
  | 1 => barId ((P.launchOf t).map (fun l => l.originTidx (l.clusterIndex t))|>.getD 0) 1 bar
  | _ => barId 0 2 bar

/-- The requester identifier that names a candidate (R262). -/
def Part.candidateName (P : Part) (t : Team) (level m : Nat) : Nat :=
  match level with
  | 0 => t.tidx * 1024 + m * 32
  | 1 => ((P.launchOf t).map fun l =>
      l.originTidx (l.clusterIndex t) + m % l.kernel.width + l.gx * (m / l.kernel.width)).getD 0 * 1024
  | _ => ((P.launchOf t).map fun l => l.originTidx m).getD 0 * 1024

/-- The team that stages records of a barrier: its own, or the one at position (0, 0) of its cluster; none at grid level
(R369). -/
def Part.barStager (P : Part) (tk : Nat) (t : Team) (level : Nat) : Option Nat :=
  match level with
  | 0 => some tk
  | 1 => (Table.get? P.run.clusters t.cluster).bind fun c => c.teams.head?
  | _ => none

/-! ## Uniform registers (R30, R31) -/

/-- The groups that wrote a register in the phase, lowest first. -/
def writersOf (ws : List UniformWrite) (r : Nat) : List Nat :=
  ws.foldl (fun l w => if w.reg = r then insertNum l w.grp else l) []

/-- What a group wrote last to a register in the phase. -/
def lastWrite (ws : List UniformWrite) (r g : Nat) : Option DWord :=
  ((ws.filter fun w => w.reg = r ∧ w.grp = g).getLast?).map UniformWrite.val

/-- Completion of a phase of team barrier 0: the lowest-numbered writer of each register prevails, and every other writer owes
the uniform-writer trap, for the lowest register it lost (R31; notes/assumptions/19.md). A register that is written loses its poison
(R275). -/
def Team.settleUniform (t : Team) (ord : Nat) : Team :=
  let regs := (List.range 16).filter fun r => !(writersOf t.kwrites r).isEmpty
  let k := regs.foldl (fun k r =>
    match (writersOf t.kwrites r).head? with
    | some g => Cells.set 0 k r ((lastWrite t.kwrites r g).getD 0)
    | none => k) t.k
  let due := regs.foldl (fun d r =>
    match writersOf t.kwrites r with
    | [] => d
    | kept :: losers => losers.foldl (fun d g =>
        if d.any fun (u : UniformDue) => u.grp = g ∧ u.ord = ord then d else d ++ [⟨g, ord, r, kept⟩]) d) t.kdue
  { t with k := k, kwrites := [], kdue := due, kpoison := t.kpoison.filter fun r => !regs.contains r }

/-- The uniform-writer trap of a due entry (R31). -/
def UniformDue.trap (u : UniformDue) : Trap := ⟨0x22, BitVec.ofNat 64 (u.reg + u.kept * 32)⟩

/-! ## Completion (R261, R262) -/

/-- The phase completes with a role holder. -/
def Barrier.completed (b : Barrier) (role : Option Nat) : Barrier :=
  { b with
    ord := b.ord + 1
    expect := b.expect - b.pd
    pd := 0
    count := 0
    arr := 0
    role := role.map fun m => (m, b.ord % 16)
    cands := []
    n := if 2 ≤ b.cands.length then b.n + 1 else b.n }

/-- Complete the phase with this role holder (R261); team barrier 0 settles the uniform registers, and a phase of a cluster or a grid
orders the writes before it for every core (R298). -/
def State.completeBarrier (s : State) (p : PartNo) (tk level bar : Nat) (role : Option Nat) : State :=
  (if level = 0 then s else s.allSeen).modPart p fun P =>
    match P.team? tk with
    | none => P
    | some t =>
      let b := P.bar t level bar
      let P := P.setBar tk t level bar (b.completed role)
      let P := if level = 0 ∧ bar = 0 then P.modTeam tk fun t => t.settleUniform b.ord else P
      if level = 2 ∧ 2 ≤ b.cands.length then
        P.modRun fun r => { r with teams := r.teams.map fun e =>
          (e.1, if e.2.launch = t.launch then { e.2 with served := true } else e.2) }
      else P

/-- Record the role of a phase (R262, R369). -/
def State.recordRole (s : State) (p : PartNo) (tk level bar m : Nat) : State :=
  match s.part? p with
  | none => s
  | some P =>
    match P.team? tk with
    | none => s
    | some t =>
      let b := P.bar t level bar
      let id := P.barDomain t level bar
      let r := mkRecord .bar false false 1 (P.candidateName t level m)
      match P.barStager tk t level with
      | some k => s.stage p k ⟨.bar, id, b.n, r⟩
      | none => s.record p .bar id b.n [r]

/-- Complete the current phase if every arrival has been counted and the role can be decided (R261, R262): in EXPLORE mode
the sieve decides, in STEERED mode the stream. EXPECT of 256 members is 0, so an arrival is asked for
(notes/assumptions/33.md). -/
def State.tryBarrier (s : State) (p : PartNo) (tk level bar : Nat) : State :=
  match s.part? p with
  | none => s
  | some P =>
    match P.team? tk with
    | none => s
    | some t =>
      let b := P.bar t level bar
      if b.count ≠ b.expect ∨ b.arr = 0 then s
      else if b.cands.length < 2 then s.completeBarrier p tk level bar b.cands.head?
      else
        let id := P.barDomain t level bar
        let last := b.cands.getLast?
        if P.mode = mDETERMINISTIC then
          s.completeBarrier p tk level bar b.cands.min?
        else if P.mode = mRECORD then
          if !P.canStage (P.barStager tk t level) .bar id then s
          else (s.recordRole p tk level bar (last.getD 0)).completeBarrier p tk level bar last
        else if P.mode = mSTEERED then
          match P.choice.steer .bar id with
          | .unsteered => s.completeBarrier p tk level bar last
          | .named r =>
            match b.cands.find? fun m => P.candidateName t level m == recVal r with
            | some m => (s.modPart p fun P => { P with choice := P.choice.advance .bar id }).completeBarrier p tk level bar (some m)
            | none =>
              let s := s.modPart p fun P => P.exhaust .bar id b.n
              if P.choice.pol then s.completeBarrier p tk level bar last else s
          | .exhausted =>
            let s := s.modPart p fun P => P.exhaust .bar id b.n
            if P.choice.pol then s.completeBarrier p tk level bar last else s
        else if P.mode = mEXPLORE then s
        else s.completeBarrier p tk level bar last

/-- An arrival of a member (R261): with a drop or not, as a role candidate or not. -/
def Barrier.arrive (b : Barrier) (m : Nat) (drop cand : Bool) : Barrier :=
  { b with
    arr := b.arr ||| BitVec.ofNat 2048 (2 ^ m)
    count := b.count + 1
    sub := if drop then b.sub &&& ~~~(BitVec.ofNat 2048 (2 ^ m)) else b.sub
    pd := if drop then b.pd + 1 else b.pd
    cands := if cand then b.cands ++ [m] else b.cands }

/-- A drop of a member that has already arrived (R261). -/
def Barrier.dropMember (b : Barrier) (m : Nat) : Barrier :=
  { b with sub := b.sub &&& ~~~(BitVec.ofNat 2048 (2 ^ m)), pd := b.pd + 1 }

/-- Somebody is left to complete the current phase. -/
def Barrier.running (b : Barrier) : Bool := b.sub != 0 || b.arr != 0
def Barrier.subscribed (b : Barrier) (m : Nat) : Bool := b.sub.getLsbD m
def Barrier.arrived (b : Barrier) (m : Nat) : Bool := b.arr.getLsbD m

/-- Count an arrival and complete the phase if it is the last. -/
def State.arrive (s : State) (p : PartNo) (tk level bar m : Nat) (drop cand : Bool) : State :=
  (s.modPart p fun P =>
    match P.team? tk with
    | none => P
    | some t => P.setBar tk t level bar ((P.bar t level bar).arrive m drop cand)).tryBarrier p tk level bar

/-- The implied arrive-and-drop of `exit` and of an ended team: nothing where the member has dropped, a drop alone where it has
arrived (R142, R261, R276). -/
def State.implyDrop (s : State) (p : PartNo) (tk level bar m : Nat) : State :=
  match (s.part? p).bind fun P => (P.team? tk).map fun t => P.bar t level bar with
  | none => s
  | some b =>
    if !b.subscribed m then s
    else if b.arrived m then
      s.modPart p fun P =>
        match P.team? tk with
        | none => P
        | some t => P.setBar tk t level bar (b.dropMember m)
    else s.arrive p tk level bar m true false

end Sys2Proof.Machine
end

