-- ==== Sys2Proof/Machine/Ops.lean ====
section
/-!
DEFINITION. The named operations over a group: its registers (R13 to R19), MODE fields (R20), in-flight counters (R29), lookahead
windows (R52 to R56), taking a trap and returning from one (R152, R153, R155, R156), and the settlement of an instruction.
-/
namespace Sys2Proof.Machine

/-! ## Words of the control storage (R11, R164, R273)

Their numbers are those of `CoreWord.control` and `CoreWord.table` (notes/assumptions/43.md). -/

def pcWord : Nat := 32
/-- EM, the depth of the mask stack and the in-trap bit. -/
def emWord : Nat := 33
def modeWord : Nat := 34
def permWord : Nat := 35
def statWord : Nat := 36
def tvecWord : Nat := 37
def tpcWord : Nat := 38
def tcauseWord : Nat := 39
def tinfoWord : Nat := 40
def tmodeWord : Nat := 41
def temWord : Nat := 42
/-- SEED and CTR. -/
def seedWord : Nat := 43
def nanctWord : Nat := 44
/-- The in-flight counters. -/
def counterWord : Nat := 45
def predWord (k : Nat) : Nat := 48 + k
/-- Entries 2j and 2j + 1 of the mask stack, the lowest first. -/
def stackWord (j : Nat) : Nat := 56 + j
/-- The first of the words of xk's indices, of 8 lanes each, and of its bounds, of 4 lanes each. -/
def indexWord (k : Nat) : Nat := 64 + 4 * k
def boundWord (k : Nat) : Nat := 96 + 8 * k
/-- Numbers of words that there are. -/
def isControlWord (w : Nat) : Bool := decide (w < 160) && w != 46 && w != 47

/-- The words that the issue of every instruction reads, those that the entry into a trap writes, and those that a return from one
reads (R152, R153). -/
def issueWords : List Nat := [pcWord, emWord, modeWord]
def entryWords : List Nat := [tpcWord, tcauseWord, tinfoWord, tmodeWord, temWord]
def returnWords : List Nat := [tpcWord, tmodeWord, temWord]

/-- Words of a core's own control storage. -/
def recordWord (n : Nat) : Nat := 256 + n
def teamWord (slot : Nat) : Nat := 272 + slot
def filterWord : Nat := 288
def barrierWord (slot level bar : Nat) : Nat := 512 + 64 * slot + 16 * level + bar

/-! ## Registers (R13, R15, R17) -/

/-- Lanes of a group. -/
def lanes : List Nat := List.range 32

/-- A control word of the group has been written whole (R275). -/
def Group.mend (g : Group) (w : Nat) : Group := { g with cpoison := removeNum g.cpoison w }
/-- The same of the words from number `w` on that hold `size` lanes each and are written lane by lane: of each whose lanes are all
among those written. -/
def Group.mendLanes (g : Group) (w size : Nat) (ls : List Nat) : Group :=
  { g with cpoison := g.cpoison.filter fun x =>
      !(decide (w ≤ x) && decide (x < w + 32 / size) && lanes.all fun l => l / size != x - w || ls.contains l) }
/-- Some word among those listed is poisoned. -/
def Group.poisons (g : Group) (ws : List Nat) : Bool := ws.any g.cpoison.contains

def Group.vreg (g : Group) (r lane : Nat) : Word := Cells.get 0 g.v (32 * r + lane)
def Group.setV (g : Group) (r lane : Nat) (x : Word) : Group := { g with v := Cells.set 0 g.v (32 * r + lane) x }
/-- A 64-bit value: the even register holds bits [31:0] (R15). -/
def Group.vpair (g : Group) (r lane : Nat) : DWord := dword (g.vreg r lane) (g.vreg (r + 1) lane)
def Group.setPair (g : Group) (r lane : Nat) (x : DWord) : Group := (g.setV r lane (loWord x)).setV (r + 1) lane (hiWord x)

def Group.sreg (g : Group) (r : SReg) : DWord := Cells.get 0 g.s r.toNat
/-- Write a scalar register: its word is written whole, and loses its poison (R275). -/
def Group.setS (g : Group) (r : SReg) (x : DWord) : Group :=
  { g with s := Cells.set 0 g.s r.toNat x, cpoison := removeNum g.cpoison r.toNat }

def Group.pred (g : Group) (q lane : Nat) : Bool := (Cells.get 0 g.q q).getLsbD lane
def Group.preds (g : Group) (q : Nat) : Word := Cells.get 0 g.q q
def Group.setPreds (g : Group) (q : Nat) (x : Word) : Group := { g with q := Cells.set 0 g.q q x }

def Group.index (g : Group) (k lane : Nat) : Nat := (Cells.get 0 g.xi (32 * k + lane)).toNat
def Group.lower (g : Group) (k lane : Nat) : Nat := (Cells.get 0 g.xlo (32 * k + lane)).toNat
/-- The upper bound, which is n − 1 at launch (R13). -/
def Group.upper (g : Group) (n k lane : Nat) : Nat := (Cells.get (BitVec.ofNat 6 (n - 1)) g.xhi (32 * k + lane)).toNat

/-! ## MODE and PERM (R20, R24) -/

def Group.ty (g : Group) : Nat := (g.mode.extractLsb' 0 5).toNat
def Group.rnd (g : Group) : Rnd := Rnd.ofCode (g.mode.extractLsb' 5 3).toNat
def Group.sat (g : Group) : Bool := g.mode.getLsbD 8
def Group.ftz (g : Group) : Bool := g.mode.getLsbD 9
def Group.nanm (g : Group) : Bool := g.mode.getLsbD 10
def Group.guarded (g : Group) : Bool := g.mode.getLsbD 11
def Group.guard (g : Group) : Nat := (g.mode.extractLsb' 12 3).toNat
def Group.guardNeg (g : Group) : Bool := g.mode.getLsbD 15

def Group.rot (g : Group) : Nat := (g.perm.extractLsb' 0 5).toNat
def Group.bln (g : Group) : Nat := (g.perm.extractLsb' 5 5).toNat
def Group.bfd (g : Group) : Nat := (g.perm.extractLsb' 10 3).toNat
def Group.fill (g : Group) : Nat := (g.perm.extractLsb' 13 2).toNat

/-- active(i) (R19). -/
def Group.active (g : Group) (i : Nat) : Bool :=
  g.em.getLsbD i && (!g.guarded || g.pred g.guard i != g.guardNeg)
/-- The lanes that an instruction acts on, in increasing order. -/
def Group.actives (g : Group) : List Nat := lanes.filter g.active

/-- Write a value into a register of each listed lane. A double word of which both lanes are written loses its poison
(R275). -/
def Group.writeV (g : Group) (r : Nat) (vals : List (Nat × Word)) : Group :=
  let g := vals.foldl (fun g e => g.setV r e.1 e.2) g
  { g with vpoison := g.vpoison.filter fun x =>
      !(x / 16 == r && (vals.any fun e => e.1 == x % 16 * 2) && (vals.any fun e => e.1 == x % 16 * 2 + 1)) }

/-- Write a pair of registers of each listed lane (R15). -/
def Group.writePair (g : Group) (r : Nat) (vals : List (Nat × DWord)) : Group :=
  (g.writeV r (vals.map fun e => (e.1, loWord e.2))).writeV (r + 1) (vals.map fun e => (e.1, hiWord e.2))

/-- Set STAT flags (R27). -/
def Group.setFlags (g : Group) (flags : Nat) : Group := { g with stat := g.stat ||| BitVec.ofNat 32 flags }

/-! ## In-flight counters (R29) -/

/-- A path's counter. -/
def Group.count (g : Group) (p : Path) : Nat := (g.inflight.filter fun e => e.path = p).length

/-- Count returns in issue order: an instruction leaves the counter when it and every earlier one of its path are done. -/
def retire (p : Path) : List InFlight → List InFlight
  | [] => []
  | e :: rest => if e.path ≠ p then e :: retire p rest else if e.done then retire p rest else e :: rest

def Group.raise (g : Group) (p : Path) (op : Nat) : Group := { g with inflight := g.inflight ++ [⟨op, p, false⟩] }

/-- An instruction of a path that has nothing to do is counted and returns at once, behind what its path still has under way. -/
def Group.passed (g : Group) (p : Path) : Group := { g with inflight := retire p (g.inflight ++ [⟨0, p, true⟩]) }

/-- Something in flight has come back, so a group that waits for it looks again. -/
def Group.wake (g : Group) : Group := if g.wait = some .inFlight then { g with wait := none } else g

/-- Every group of a team looks again. -/
def Team.wake (t : Team) : Team := { t with groups := t.groups.map fun e => (e.1, e.2.wake) }

/-- The last return of an operation arrives. -/
def Group.lower' (g : Group) (p : Path) (op : Nat) : Group :=
  { g.wake with inflight := retire p (g.inflight.map fun e => if e.op = op ∧ e.path = p then { e with done := true } else e) }

def pathCode : Path → Nat
  | .ld => 0 | .cin => 1 | .cout => 2 | .wcl => 3 | .snd => 4

/-! ## Lookahead windows (R52 to R56) -/

/-- The next instruction stands inside the window. -/
def Window.inside (w : Window) : Bool := decide (w.pos ≤ w.la)
/-- The next instruction stands behind the window, whose opener is not complete (R52). -/
def Window.blocks (w : Window) : Bool := !w.inside && !w.done

/-- Open a window whose opener is already complete, or completes with an operation. -/
def Group.open (g : Group) (la : La) (done : Bool) (vregs sregs : List Nat) (op : Nat) : Group :=
  { g with windows := g.windows ++ [⟨la.toNat, 0, done, vregs, sregs, op, false, false⟩] }

/-- The opener of an operation is complete (R54). -/
def Group.opened (g : Group) (op : Nat) : Group :=
  { g.wake with windows := g.windows.map fun w => if w.op = op then { w with done := true } else w }

/-- An instruction has completed: every window counts it, and the windows that are passed and complete are gone. -/
def Group.tickWindows (g : Group) : Group :=
  { g with windows := (g.windows.map fun w => { w with pos := w.pos + 1 }).filter fun w => w.inside || !w.done }

/-- Every opener is complete, so the windows close (R56). -/
def Group.settled (g : Group) : Bool := g.windows.all Window.done
def Group.close (g : Group) : Group := { g with windows := [] }

/-! ## The outcome of an instruction -/

/-- What an instruction's meaning comes to. -/
inductive Res where
  /-- It completes, and the next instruction is at PC + 4 (R40). -/
  | done (s : State)
  /-- It completes and transfers control. -/
  | jump (s : State) (pc : DWord)
  /-- It traps without effect (R42); the state may hold a mark that the trap clears (R199). -/
  | trap (s : State) (t : Trap)
  /-- It completes and then traps (`trap`, `brk`: R151). -/
  | after (s : State) (t : Trap)
  /-- It waits. -/
  | wait (s : State) (w : Wait)
  /-- The group is no more, or goes on from the state as it stands. -/
  | gone (s : State)
  deriving DecidableEq, Repr

/-- Where an instruction runs: the state, its partition, its group, the outcome of checked issue. -/
structure Ctx where
  s : State
  p : PartNo
  P : Part
  gid : Nat
  g : Group
  check : CheckResult
  deriving DecidableEq, Repr

/-- The register count (R14); a whisk group holds all 64. -/
def Part.nregs (P : Part) (gid : Nat) : Nat :=
  if isWhisk gid then 64 else ((P.team? (gidTeam gid)).map Team.nregs).getD 64
def Ctx.n (c : Ctx) : Nat := c.P.nregs c.gid
/-- The team's key. -/
def Ctx.tk (c : Ctx) : Nat := gidTeam c.gid
def Ctx.team? (c : Ctx) : Option Team := if isWhisk c.gid then none else c.P.team? c.tk
/-- A uniform register as the phase holds it (R31); a whisk group reads 0. -/
def Ctx.k (c : Ctx) (r : Nat) : DWord := (c.team?.map fun t => Cells.get 0 t.k r).getD 0

/-- The state with the group changed. -/
def Ctx.put (c : Ctx) (g : Group) : State := c.s.modGroup c.p c.gid fun _ => g
/-- The context after a change of its group, or of its partition. -/
def Ctx.setG (c : Ctx) (g : Group) : Ctx := { c with s := c.put g, P := c.P.setGroup c.gid g, g := g }
def Ctx.setP (c : Ctx) (P : Part) : Ctx :=
  { c with s := c.s.setPart c.p P, P := P, g := (P.group? c.gid).getD c.g }
/-- The context of the same group in another state. -/
def Ctx.reload (c : Ctx) (s : State) : Ctx :=
  match s.part? c.p with
  | none => { c with s := s }
  | some P => { c with s := s, P := P, g := (P.group? c.gid).getD c.g }

/-- An instruction completes with this group. -/
def Ctx.finish (c : Ctx) (g : Group) : Res := .done (c.put g)
def Ctx.fail (c : Ctx) (t : Trap) : Res := .trap c.s t

/-- A trap with a number as its TINFO. -/
def trapOf (cause info : Nat) : Trap := ⟨BitVec.ofNat 8 cause, BitVec.ofNat 64 info⟩

/-- Wait until every open window has closed, then go on with none (R56, R150, R263, R267). -/
def Ctx.closed (c : Ctx) (k : Ctx → Res) : Res :=
  if c.g.settled then k (c.setG c.g.close) else .wait c.s .inFlight

/-! ## Taking a trap (R152, R155, R156, R316) and returning from one (R153) -/

/-- The group as the handler's first instruction finds it (R152 steps 3 and 4). -/
def Group.trapped (g : Group) (t : Trap) : Group :=
  { g with
    tpc := g.pc, tcause := t.cause, tinfo := t.tinfo, tmode := g.mode, tem := g.em, inTrap := true
    mode := 0, em := 0xFFFFFFFF, pc := g.tvec, windows := [], latched := none, stage := .fresh, wait := none
    cpoison := g.cpoison.filter fun w => !entryWords.contains w }

/-- A double fault (R155): the group stops, its record goes to the severity matrix, whose action 3 kills the team. DESIGN CHOICE: the
first trap's TPC, TCAUSE and TINFO in the record are the registers as they then stand, which a handler's `syswr` may have changed
(notes/assumptions/110.md). -/
def State.doubleFault (s : State) (p : PartNo) (gid : Nat) (g : Group) (t : Trap) : State :=
  match s.part? p with
  | none => s
  | some P =>
    let tidx := ((P.team? (gidTeam gid)).map Team.tidx).getD 0
    let P := P.modGroup gid fun g => { g with run := .stopped, latched := none, stage := .fresh, wait := none }
    let P := P.report (.doubleFault tidx (gidGroup gid) g.tpc ⟨g.tcause, g.tinfo⟩ g.pc t)
    (s.setPart p P).severity p 11 srcCore (P.coreOf gid) 0 (P.requester gid 0) (some (gidTeam gid)) true false

/-- The firmware's default handler (R156): the trap is reported on the error vector and the team is killed. -/
def State.defaultHandler (s : State) (p : PartNo) (gid : Nat) (tpc : DWord) (t : Trap) : State :=
  (s.modPart p fun P =>
    (P.report (.killed (((P.team? (gidTeam gid)).map Team.tidx).getD 0) (gidGroup gid) tpc t)).vector 0).killTeam p (gidTeam gid)

/-- Trap entry (R152), once every window of the group has closed; a trap of the whisk group goes to the firmware's handler of
methods (R316). An uncorrectable word that the entry reads is consumed in its stead (R274). -/
def State.enterTrap (s : State) (p : PartNo) (gid : Nat) (t : Trap) : State :=
  match s.group? p gid with
  | none => s
  | some g =>
    if g.poisons issueWords then s.consumeBy p gid 3 srcCore 0
    else if isWhisk gid then s.methodTrap p gid g.pc t
    else if g.inTrap then s.doubleFault p gid g t
    else if g.poisons [tvecWord] then s.consumeBy p gid 3 srcCore 0
    else if g.tvec = defaultVector then s.defaultHandler p gid g.pc t
    else s.modGroup p gid fun _ => g.trapped t

/-- A trap is raised: entered at once, or when the windows have closed (R152 step 1). -/
def State.raiseTrap (s : State) (p : PartNo) (gid : Nat) (t : Trap) : State :=
  match s.group? p gid with
  | none => s
  | some g =>
    if g.settled then s.enterTrap p gid t
    else s.modGroup p gid fun g => { g with latched := some t, stage := .fresh, wait := some .inFlight }

/-- The return from a trap (R153): PC, MODE and EM from the saved ones. -/
def Group.returned (g : Group) : Group := { g with mode := g.tmode, em := g.tem, inTrap := false }

/-! ## Settlement -/

/-- A wait before the instruction issues, which is no firing (R333). -/
def Wait.before : Wait → Bool
  | .inFlight | .take => true
  | _ => false
/-- The instruction has issued at an earlier turn: it waits for what comes after its issue, or its stage says so. -/
def Group.issued (g : Group) : Bool := g.stage != .fresh || g.wait.any fun w => !w.before
/-- Whether an outcome issues the instruction now (R333). One that anchors its team has issued when it does, and awaits a commit (R192). -/
def Ctx.firing (c : Ctx) (r : Res) : Bool :=
  !c.g.issued && (match r with
    | .wait s w => !w.before || (s.group? c.p c.gid).any fun g => g.stage != .fresh
    | _ => true)

/-- A group whose instruction has completed (R35, R40, R52). -/
def Group.completed (g : Group) (pc : DWord) : Group :=
  { g.tickWindows with pc := pc, retired := g.retired + 1, stage := .fresh, wait := none }

/-- The state after an instruction's outcome. A `trap` or `brk` in a handler is a double fault, which has no effect (R155). -/
def Ctx.settle (c : Ctx) (r : Res) : State :=
  let s := match r with
    | .done s => s.modGroup c.p c.gid fun g => g.completed (g.pc + 4)
    | .jump s pc => s.modGroup c.p c.gid fun g => g.completed pc
    | .trap s t => s.raiseTrap c.p c.gid t
    | .after s t =>
      (if c.g.inTrap then s else s.modGroup c.p c.gid fun g => g.completed (g.pc + 4)).raiseTrap c.p c.gid t
    | .wait s w => s.modGroup c.p c.gid fun g => { g with wait := some w }
    | .gone s => s
  if c.firing r then s.modPart c.p fun P => { P with fire := P.fire + 1 } else s

end Sys2Proof.Machine
end

