-- ==== Sys2Proof/Machine/Operands.lean ====
section
/-!
DEFINITION. Operands (R45 to R48), the registers that each instruction names, the checks of R42's orders 3 to 5 over them (R14 to
R16, R53), and the issue of an instruction.
-/
namespace Sys2Proof.Machine

/-! ## Operand values (R46, R47) -/

/-- Register e of a lane that an operand reaches, of a kernel with n registers: one that it cannot have reads zero (R46). -/
def Group.reach (g : Group) (n e lane : Nat) : Word := if e < n then g.vreg e lane else 0

/-- The register that an indexed operand reaches in a lane (R16). -/
def Group.reached (g : Group) (m lane : Nat) : Nat := g.index (m / 8) lane + m % 8

/-- operand(p, m, i) for 32-bit values; `k15` is the fill of FILL 2 (R46). -/
def Group.operand (g : Group) (n : Nat) (k15 : DWord) (o : Operand) (i : Nat) : Word :=
  let m := o.reg.toNat
  let fill (e : Nat) : Word := match g.fill with
    | 0 => 0
    | 1 => g.vreg m e
    | _ => loWord k15
  match o.pat with
  | .own => g.vreg m i
  | .rot => g.vreg m ((i + g.rot) % 32)
  | .bc => g.vreg m g.bln
  | .bf => g.vreg m (i ^^^ 2 ^ g.bfd)
  | .mir => g.vreg m (31 - i)
  | .sup => if i = 0 then fill 0 else g.vreg m (i - 1)
  | .sdn => if i = 31 then fill 31 else g.vreg m (i + 1)
  | .idx => g.reach n (g.reached m i) i

/-- operand(p, m, i) for 64-bit values (R47). -/
def Group.operand64 (g : Group) (n : Nat) (k15 : DWord) (o : Operand) (i : Nat) : DWord :=
  let m := o.reg.toNat
  let fill (e : Nat) : DWord := match g.fill with
    | 0 => 0
    | 1 => g.vpair m e
    | _ => k15
  match o.pat with
  | .own => g.vpair m i
  | .rot => g.vpair m ((i + g.rot) % 32)
  | .bc => g.vpair m g.bln
  | .bf => g.vpair m (i ^^^ 2 ^ g.bfd)
  | .mir => g.vpair m (31 - i)
  | .sup => if i = 0 then fill 0 else g.vpair m (i - 1)
  | .sdn => if i = 31 then fill 31 else g.vpair m (i + 1)
  | .idx => dword (g.reach n (g.reached m i) i) (g.reach n (g.reached m i + 1) i)

/-- The value that an operand yields in a lane, as a number of 32 or 64 bits. -/
def Ctx.operand (c : Ctx) (wide : Bool) (o : Operand) (i : Nat) : Nat :=
  if wide then (c.g.operand64 c.n (c.k 15) o i).toNat else (c.g.operand c.n (c.k 15) o i).toNat

/-- A direct register of a lane, or its pair, as a number. -/
def Group.direct (g : Group) (wide : Bool) (r i : Nat) : Nat := if wide then (g.vpair r i).toNat else (g.vreg r i).toNat

/-- TYPE is a 64-bit type (R15). -/
def Group.wide (g : Group) : Bool := g.ty == 2 || g.ty == 3 || g.ty == 9

/-! ## The registers that an instruction names -/

/-- A register use, in the order in which R56 reports them. -/
inductive RegUse where
  /-- A vector register: number, registers it spans (1, 2 or 4), TINFO field of R14. -/
  | v (reg span field : Nat)
  /-- An indexed operand: its register field, span, TINFO field, and the lanes read as source lanes beside those that the
  instruction acts on (`shfl`, `hslide`). -/
  | x (m span field : Nat) (more : List Nat)
  /-- A scalar register. -/
  | s (reg : SReg)
  deriving DecidableEq, Repr

/-- A 9-bit operand's use. -/
def use (o : Operand) (span field : Nat) : RegUse :=
  if o.pat = .idx then .x o.reg.toNat span field [] else .v o.reg.toNat span field

/-- Registers of a size code (R59, R289). -/
def sizeRegs (z : BitVec 3) : Nat := match z.toNat with
  | 0 => 1 | 1 => 2 | _ => 4

/-- The argument register of a combiner request (R306). R14 names no TINFO field for it; the model reports 2, as it stands where
other formats have B (notes/assumptions/96.md). -/
def argument (k : BitVec 2) (g : VReg) : List RegUse :=
  match k.toNat with
  | 0 => [.v g.toNat 1 2]
  | 1 => [.v g.toNat 2 2]
  | _ => []

/-- The registers that an instruction names, under a TYPE whose lane values span `w` registers. -/
def usesOf (w : Nat) : Instr → List RegUse
  | .call l _ => [.s l]
  | .callr d a => [.s d, .s a]
  | .jr a => [.s a]
  | .bz s _ => [.s s]
  | .bnz s _ => [.s s]
  | .emrd d => [.s d]
  | .emwr a => [.s a]
  | .moder a => [.s a]
  | .xset _ v _ => [.v v.toNat 1 1]
  | .xrd _ d => [.v d.toNat 1 1]
  | .choose d a => [.s d, .s a]
  | .add d a b => [.v d.toNat w 0, use a w 1, use b w 2]
  | .sub d a b => [.v d.toNat w 0, use a w 1, use b w 2]
  | .mul d a b => [.v d.toNat w 0, use a w 1, use b w 2]
  | .mulh d a b => [.v d.toNat w 0, use a w 1, use b w 2]
  | .mad d a b => [.v d.toNat w 0, use a w 1, use b w 2]
  | .msb d a b => [.v d.toNat w 0, use a w 1, use b w 2]
  | .mad2 d a b => [.v d.toNat 1 0, use a 1 1, use b 1 2]
  | .dot4 d a b => [.v d.toNat 1 0, use a 1 1, use b 1 2]
  | .abs d a => [.v d.toNat w 0, use a w 1]
  | .neg d a => [.v d.toNat w 0, use a w 1]
  | .min d a b => [.v d.toNat w 0, use a w 1, use b w 2]
  | .max d a b => [.v d.toNat w 0, use a w 1, use b w 2]
  | .avg d a b => [.v d.toNat w 0, use a w 1, use b w 2]
  | .rsh d a b => [.v d.toNat w 0, use a w 1, use b w 2]
  | .addi d a _ => [.v d.toNat w 0, .v a.toNat w 1]
  | .muli d a _ => [.v d.toNat w 0, .v a.toNat w 1]
  | .and d a b => [.v d.toNat 1 0, use a 1 1, use b 1 2]
  | .or d a b => [.v d.toNat 1 0, use a 1 1, use b 1 2]
  | .xor d a b => [.v d.toNat 1 0, use a 1 1, use b 1 2]
  | .andn d a b => [.v d.toNat 1 0, use a 1 1, use b 1 2]
  | .not d a => [.v d.toNat 1 0, use a 1 1]
  | .shl d a b => [.v d.toNat w 0, use a w 1, use b w 2]
  | .shr d a b => [.v d.toNat w 0, use a w 1, use b w 2]
  | .sar d a b => [.v d.toNat w 0, use a w 1, use b w 2]
  | .rol d a b => [.v d.toNat w 0, use a w 1, use b w 2]
  | .shli d a _ => [.v d.toNat w 0, .v a.toNat w 1]
  | .shri d a _ => [.v d.toNat w 0, .v a.toNat w 1]
  | .sari d a _ => [.v d.toNat w 0, .v a.toNat w 1]
  | .clz d a => [.v d.toNat w 0, use a w 1]
  | .popc d a => [.v d.toNat w 0, use a w 1]
  | .brev d a => [.v d.toNat w 0, use a w 1]
  | .bfx d a _ _ => [.v d.toNat w 0, .v a.toNat w 1]
  | .ceq _ _ a b => [use a w 1, use b w 2]
  | .cne _ _ a b => [use a w 1, use b w 2]
  | .clt _ _ a b => [use a w 1, use b w 2]
  | .cle _ _ a b => [use a w 1, use b w 2]
  | .cun _ _ a b => [use a w 1, use b w 2]
  | .ctst _ _ a b => [use a 1 1, use b 1 2]
  | .qfv _ a _ => [.v a.toNat 1 1]
  | .qfvAll a => [.v a.toNat 1 1]
  | .qtv d => [.v d.toNat 1 0]
  | .mov d a => [.v d.toNat 1 0, use a 1 1]
  | .movi d _ => [.v d.toNat 1 0]
  | .movhi d _ => [.v d.toNat 1 0]
  | .sel d a b => [.v d.toNat 1 0, use a 1 1, use b 1 2]
  | .shfl d a b => [.v d.toNat 1 0, use a 1 1, use b 1 2]
  | .hslide d a _ => [.v d.toNat 1 0, use a 1 1]
  | .vfill d a => [.v d.toNat w 0, .s a]
  | .fadd d a b => [.v d.toNat w 0, use a w 1, use b w 2]
  | .fsub d a b => [.v d.toNat w 0, use a w 1, use b w 2]
  | .fmul d a b => [.v d.toNat w 0, use a w 1, use b w 2]
  | .fma d a b => [.v d.toNat w 0, use a w 1, use b w 2]
  | .fms d a b => [.v d.toNat w 0, use a w 1, use b w 2]
  | .fmin d a b => [.v d.toNat w 0, use a w 1, use b w 2]
  | .fmax d a b => [.v d.toNat w 0, use a w 1, use b w 2]
  | .fdiv d a b => [.v d.toNat w 0, use a w 1, use b w 2]
  | .fsqrt d a => [.v d.toNat w 0, use a w 1]
  | .frcp d a => [.v d.toNat w 0, use a w 1]
  | .frsq d a => [.v d.toNat w 0, use a w 1]
  | .fexp2 d a => [.v d.toNat w 0, use a w 1]
  | .flog2 d a => [.v d.toNat w 0, use a w 1]
  | .fsinpi d a => [.v d.toNat w 0, use a w 1]
  | .fcospi d a => [.v d.toNat w 0, use a w 1]
  | .frint d a => [.v d.toNat w 0, use a w 1]
  | .fclass _ _ a _ => [use a w 1]
  | .cvt d a t => [.v d.toNat (if t = 2 ∨ t = 3 ∨ t = 9 then 2 else 1) 0, use a w 1]
  | .fscale d a b => [.v d.toNat w 0, use a w 1, use b w 2]
  | .fgetexp d a => [.v d.toNat w 0, use a w 1]
  | .fnanc d a => [.v d.toNat w 0, use a w 1]
  | .fdot2 d a b => [.v d.toNat w 0, use a w 1, use b w 2]
  | .sadd d a b => [.s d, .s a, .s b]
  | .ssub d a b => [.s d, .s a, .s b]
  | .smul d a b => [.s d, .s a, .s b]
  | .saddi d a _ => [.s d, .s a]
  | .sand d a b => [.s d, .s a, .s b]
  | .sor d a b => [.s d, .s a, .s b]
  | .sxor d a b => [.s d, .s a, .s b]
  | .sshlReg d a b => [.s d, .s a, .s b]
  | .sshlImm d a _ => [.s d, .s a]
  | .sshrReg d a b => [.s d, .s a, .s b]
  | .sshrImm d a _ => [.s d, .s a]
  | .ssarReg d a b => [.s d, .s a, .s b]
  | .ssarImm d a _ => [.s d, .s a]
  | .smovi d _ => [.s d]
  | .smovs d _ => [.s d]
  | .sceq d a b => [.s d, .s a, .s b]
  | .sclt d a b => [.s d, .s a, .s b]
  | .scltn d a b => [.s d, .s a, .s b]
  | .vred d _ m => [.s d, .v m.toNat w 1]
  | .vlane d a p m => [.s d, .s a, .v m.toNat (if p then 2 else 1) 1]
  | .vins a b p m => [.v m.toNat (if p then 2 else 1) 1, .s a, .s b]
  | .vote d _ _ => [.s d]
  | .krd d _ => [.s d]
  | .kwr a _ => [.s a]
  | .sysrd _ s => [.s s]
  | .syswr _ s => [.s s]
  | .ldw d a _ _ => [.v d.toNat 1 3, .v a.toNat 2 1]
  | .ldd d a _ _ => [.v d.toNat 2 3, .v a.toNat 2 1]
  | .ldq d a _ _ => [.v d.toNat 4 3, .v a.toNat 2 1]
  | .ldh d a _ _ => [.v d.toNat 1 3, .v a.toNat 2 1]
  | .ldb d a _ _ => [.v d.toNat 1 3, .v a.toNat 2 1]
  | .stw d a _ _ => [.v d.toNat 1 3, .v a.toNat 2 1]
  | .std d a _ _ => [.v d.toNat 2 3, .v a.toNat 2 1]
  | .stq d a _ _ => [.v d.toNat 4 3, .v a.toNat 2 1]
  | .sth d a _ _ => [.v d.toNat 1 3, .v a.toNat 2 1]
  | .stb d a _ _ => [.v d.toNat 1 3, .v a.toNat 2 1]
  | .ldacq d a _ _ => [.v d.toNat 1 3, .v a.toNat 2 1]
  | .strel d a _ _ => [.v d.toNat 1 3, .v a.toNat 2 1]
  | .sld d a _ _ => [.s d, .s a]
  | .sst d a _ _ => [.s d, .s a]
  | .lds d a _ _ => [.v d.toNat 1 3, .v a.toNat 1 1]
  | .sts d a _ _ => [.v d.toNat 1 3, .v a.toNat 1 1]
  | .ldsq d a _ _ => [.v d.toNat 4 3, .v a.toNat 1 1]
  | .stsq d a _ _ => [.v d.toNat 4 3, .v a.toNat 1 1]
  | .slk x y _ => [.s x, .s y]
  | .sfill x y _ => [.s x, .s y]
  | .sevict x _ _ => [.s x]
  | .cpy d a _ s _ => [.v d.toNat 1 3, .v a.toNat 2 1, .s s]
  | .cpyo d a _ _ => [.v d.toNat 1 3, .v a.toNat 2 1]
  | .cpyt x y _ _ => [.s x, .s y]
  | .cpyv x y _ => [.s x, .s y]
  | .tbinit x y _ => [.s x, .s y]
  | .tbarr x y _ => [.s x, .s y]
  | .tbwait x y => [.s x, .s y]
  | .ckopen x y _ _ _ _ => [.s x, .s y]
  | .ckseal x y _ => [.s x, .s y]
  | .ckdrop y _ => [.s y]
  | .obres x y _ => [.s x, .s y]
  | .obrel y _ => [.s y]
  | .obld x y _ => [.s x, .s y]
  | .gath x y _ p => [.s x, .s y, .v p.toNat 2 3]
  | .mstep x y _ _ => [.s x, .s y]
  | .mloop x y _ _ => if x = 31 ∨ y = 31 then [.s x, .s y] else [.s x, .s y, .s (x + 1), .s (y + 1)]
  | .mfence x _ => [.s x]
  | .mwait x => [.s x]
  | .acfg y _ _ _ => [.s y]
  | .ard v _ _ _ _ => [.v v.toNat w 3]
  | .awr v _ _ _ _ => [.v v.toNat w 3]
  | .asave x y _ _ => [.s x, .s y]
  | .aload x y _ _ => [.s x, .s y]
  | .nanc d a => [.s d, .s a]
  | .srseed a => [.s a]
  | .ascal v _ _ _ => [.v v.toNat w 3]
  | .arv _ _ s => [.s s]
  | .arva _ _ s => [.s s]
  | .arvd _ _ s => [.s s]
  | .bwait _ _ s => [.s s]
  | .sendr d a _ s z => [.v d.toNat (sizeRegs z) 3, .v a.toNat 1 1, .s s]
  | .sendb x y _ _ => [.s x, .s y]
  | .cwait x y => [.s x, .s y]
  | .cset x y => [.s x, .s y]
  | .ckevict x y _ _ => [.s x, .s y]
  | .ckstat x y _ => [.s x, .s y]
  | .wcall d a _ k g => .v d.toNat (if k = 1 then 2 else 1) 3 :: .v a.toNat 2 1 :: argument k g
  | .wpost a _ k g => .v a.toNat 2 1 :: argument k g
  | .wtake x => [.s x]
  | .wscan d a _ => [.v d.toNat w 0, use a w 1]
  | .nop | .exit | .wreply _ | .bra _ | .brany _ _ _ | .brall _ _ _ | .brnone _ _ _ | .emand _ _ | .emelse | .empop
    | .mode _ | .pmode _ | .trap _ | .brk | .tret | .xbnd _ _ _ | .xadd _ _ | .ccall _ | .anch | .qop _ _ _ _
    | .wcnt _ _ | .mrdy | .arel _ _ | .azero _ _ | .fence _ _ | .wfail _ | .illegalInstruction _ | .loadReturn _ _
    | .copySectorLanding _ _ | .sendLanding _ _ | .sendAcknowledgement _ _ | .releaseFilterProbe _ _ _
    | .lineAccess _ _ | .orderGateAdmit _ _ _ | .requestArrival _ _ | .batchAssembly _ _ | .whiskReply _ _
    | .fillLanding _ _ | .matrixStep _ _ _ | .clusterPlacement _ | .finalCommit _ _ | .launchCompletion _
    | .crockMoveDone _ _ | .eggTimerWindow _ | .sieveDecision _ | .sieveBacktrack _ | .chunkFlushTimer _ _ _
    | .freezeImage _ | .drainDeadline _ | .gangSliceStart _ | .gangSliceEnd _ | .invalidationDone _
    | .backgroundScrub _ _ _ | .patrolScrub _ _ | .inFieldTest _ | .inFieldTestRun _ _ | .inFieldTestOverdue _
    | .energyPeriod _ | .flitCrcError _ | .linkDead _ | .injectionResume | .lostPacket _ _ | .linkNarrow _ _
    | .linkWiden _ _ | .cxlPortDown _ | .hostWrite _ _ | .hostRead _ _ | .timeOffsetNotice _ | .clockThrottle _ _
    | .clockRaise _ | .thermalStop _ | .powerOnBoot _ | .functionLevelReset _ | .firmwarePass | .reset _ _
    | .setmode _ _ | .attach _ _ | .extend _ _ | .detach _ _ | .buffers _ _ | .consume _ _ | .resume _ _
    | .launch _ _ | .signalSet _ _ | .signalAdd _ _ | .wait _ _ | .nopPacket _ _ | .unknownPacket _ _ | .null _ _
    | .debug _ _ | .sigadd _ _ | .sleep _ _ | .sleepExpiry _ _ | .unknownService _ _ | .freeze _
    | .registerImageArea _ | .copyTableEntry _ | .clearSpoil _ | .copyDebugRing _ | .loadLvc _ | .unloadKernel _
    | .setTrustedKey _ | .extendMeasurement _ | .attest _ | .createPartition _ _ | .destroyPartition _ _
    | .setGranuleKey _ _ | .grantQueue _ _ | .grantPort _ _ | .updateFirmware _ _ | .firmwareHandover
    | .setSharedSeverity _ _ | .qprodWrite _ _ _ | .qbaseWrite _ _ _ | .invWrite _ _ | .faultMapped _ _
    | .faultDeclined _ _ | .shelfcWrite _ _ | .whiskWrite _ _ | .eggWrite _ _ | .sevWrite _ _ _
    | .registerWrite _ _ _ | .copyOutProgress _ _ | .rootComplexAcknowledgement _ _ | .ieee1588Message _ => []

/-- The first register that an instruction names is only written, so a poisoned word there is not consumed (R273, R275). -/
def pureDest : Instr → Bool
  | .call _ _ | .callr _ _ | .emrd _ | .xrd _ _ | .choose _ _ | .add _ _ _ | .sub _ _ _ | .mul _ _ _ | .mulh _ _ _ | .abs _ _
    | .neg _ _ | .min _ _ _ | .max _ _ _ | .avg _ _ _ | .rsh _ _ _ | .addi _ _ _ | .muli _ _ _ | .and _ _ _ | .or _ _ _
    | .xor _ _ _ | .andn _ _ _ | .not _ _ | .shl _ _ _ | .shr _ _ _ | .sar _ _ _ | .rol _ _ _ | .shli _ _ _ | .shri _ _ _
    | .sari _ _ _ | .clz _ _ | .popc _ _ | .brev _ _ | .bfx _ _ _ _ | .qtv _ | .mov _ _ | .movi _ _ | .sel _ _ _ | .shfl _ _ _
    | .hslide _ _ _ | .vfill _ _ | .fadd _ _ _ | .fsub _ _ _ | .fmul _ _ _ | .fmin _ _ _ | .fmax _ _ _ | .fdiv _ _ _
    | .fsqrt _ _ | .frcp _ _ | .frsq _ _ | .fexp2 _ _ | .flog2 _ _ | .fsinpi _ _ | .fcospi _ _ | .frint _ _ | .cvt _ _ _
    | .fscale _ _ _ | .fgetexp _ _ | .fnanc _ _ | .sadd _ _ _ | .ssub _ _ _ | .smul _ _ _ | .saddi _ _ _ | .sand _ _ _
    | .sor _ _ _ | .sxor _ _ _ | .sshlReg _ _ _ | .sshlImm _ _ _ | .sshrReg _ _ _ | .sshrImm _ _ _ | .ssarReg _ _ _
    | .ssarImm _ _ _ | .smovi _ _ | .sceq _ _ _ | .sclt _ _ _ | .scltn _ _ _ | .vred _ _ _ | .vlane _ _ _ _ | .vins _ _ _ _
    | .vote _ _ _ | .krd _ _ | .sysrd _ _ | .ldw _ _ _ _ | .ldd _ _ _ _ | .ldq _ _ _ _ | .ldh _ _ _ _ | .ldb _ _ _ _
    | .ldacq _ _ _ _ | .sld _ _ _ _ | .lds _ _ _ _ | .ldsq _ _ _ _ | .slk _ _ _ | .ckopen _ _ _ _ _ _ | .ckseal _ _ _
    | .ckstat _ _ _ | .obres _ _ _ | .mfence _ _ | .ard _ _ _ _ _ | .nanc _ _ | .arv _ _ _ | .arva _ _ _ | .arvd _ _ _
    | .wtake _ | .tbarr _ _ _ | .ckevict _ _ _ _ | .wcall _ _ _ _ _ => true
  | _ => false

/-- Lanes that an instruction reads as source lanes beside those that it acts on: those that `shfl`'s active lanes name, and
every lane for `hslide` (R113, R114). -/
def Ctx.sources (c : Ctx) : Instr → List Nat
  | .shfl _ _ b => c.g.actives.map fun i => c.operand false b i % 32
  | .hslide _ _ _ => lanes
  | _ => []

/-- A use with the source lanes of operand A. -/
def RegUse.from (more : List Nat) : RegUse → RegUse
  | .x m span 1 _ => .x m span 1 more
  | u => u

/-- The registers that an instruction names, where it runs. -/
def Ctx.uses (c : Ctx) (i : Instr) : List RegUse := (usesOf (if c.g.wide then 2 else 1) i).map (RegUse.from (c.sources i))
/-- Those that it reads. -/
def Ctx.reads (c : Ctx) (i : Instr) : List RegUse := if pureDest i then (c.uses i).tail else c.uses i

/-! ## Checks of orders 3 to 5 (R42) -/

/-- The first answer of a list of checks. -/
def firstSome {α β : Type} (f : α → Option β) : List α → Option β
  | [] => none
  | x :: rest => match f x with
    | some y => some y
    | none => firstSome f rest

/-- Checks that stand in a row: the first trap. -/
def firstTrap : List (Option Trap) → Option Trap
  | [] => none
  | some t :: _ => some t
  | none :: rest => firstTrap rest

/-- Order 3 for a direct register (R14, R15, R50): TINFO[10] is set by an odd number in a 64-bit position, whether or not the
kernel has the register. -/
def rangeCheck (n : Nat) : RegUse → Option Trap
  | .v reg span field =>
    if n ≤ reg ∨ reg % span ≠ 0 then some (trapOf 4 (reg + field * 256 + bit (reg % span ≠ 0) * 1024)) else none
  | _ => none

/-- Lanes whose indexed register a use reads, in increasing order: those acted on, and its source lanes. -/
def Group.laneSet (g : Group) (more : List Nat) : List Nat := lanes.filter fun i => g.active i || more.contains i

/-- The odd register of a 64-bit indexed operand (R47), of the lowest lane that has one; TINFO[5:0] holds its number modulo 64,
where the spec does not say what a number beyond the field gives (notes/assumptions/96.md). -/
def Group.oddIndex (g : Group) : RegUse → Option Trap
  | .x m span field _ => firstSome (fun i =>
      let e := g.reached m i
      if e % span ≠ 0 then some (trapOf 4 (e % 64 + field * 256 + 1024)) else none) g.actives
  | _ => none

/-- Order 4: an indexed operand out of bounds in an acted-on lane (R16). -/
def Group.boundsCheck (g : Group) (n : Nat) : RegUse → Option Trap
  | .x m _ _ _ => firstSome (fun i =>
      let e := g.reached m i
      let k := m / 8
      if e < g.lower k i ∨ g.upper n k i < e ∨ n ≤ e then some (trapOf 5 (i + e * 32 + k * 4096)) else none) g.actives
  | _ => none

/-- The registers that a use touches, in the order of lanes: vector registers, or a scalar one. -/
def Group.touches (g : Group) : RegUse → List (Bool × Nat)
  | .v reg span _ => (List.range span).map fun j => (false, reg + j)
  | .x m span _ more => ((g.laneSet more).map fun i => (List.range span).map fun j => (false, g.reached m i + j)).flatten
  | .s r => [(true, r.toNat)]

/-- Order 5 (R53, R56): the first protected register that is touched. -/
def Group.lookahead (g : Group) (us : List RegUse) : Option Trap :=
  firstSome (fun (t : Bool × Nat) =>
    firstSome (fun (w : Window) =>
      if w.inside && (if t.1 then w.sregs.contains t.2 else w.vregs.contains t.2) then
        some (trapOf 6 (t.2 % 64 + bit t.1 * 64 + w.pos * 256 + w.la * 4096))
      else none) g.windows) (us.map g.touches).flatten

/-- Orders 3, 4 and 5 of R42 for register uses. Within order 3 every direct register comes before the indexed operands' odd
registers, and each in the order in which the uses stand (notes/assumptions/15.md). -/
def Group.checkRegs (g : Group) (n : Nat) (us : List RegUse) : Option Trap :=
  firstTrap [firstSome (rangeCheck n) us, firstSome g.oddIndex us, firstSome (g.boundsCheck n) us, g.lookahead us]
/-- Orders 3, 4 and 5 of R42. -/
def Ctx.checkUses (c : Ctx) (i : Instr) : Option Trap := c.g.checkRegs c.n (c.uses i)

/-! ## Reads of the control storage (R273, R274) -/

/-- The instruction acts on lanes. -/
def Ctx.onLanes (c : Ctx) (i : Instr) : Bool :=
  (c.uses i).any (fun
    | .s _ => false
    | _ => true) || (match i with
    | .qop _ _ _ _ | .xadd _ _ | .xbnd _ _ _ | .vote _ _ _ => true
    | _ => false)

/-- What a compare reads of its predicate: the combine fields `and`, `or` and `xor` use it (R108). -/
def combineReads (k : BitVec 3) (q : QReg) : List Nat := if 1 ≤ k.toNat ∧ k.toNat ≤ 3 then [predWord q.toNat] else []

/-- The operands with a pattern that an instruction names. -/
def operandsOf : Instr → List Operand
  | .add _ a b | .sub _ a b | .mul _ a b | .mulh _ a b | .mad _ a b | .msb _ a b | .mad2 _ a b | .dot4 _ a b | .min _ a b
    | .max _ a b | .avg _ a b | .rsh _ a b | .and _ a b | .or _ a b | .xor _ a b | .andn _ a b | .shl _ a b | .shr _ a b
    | .sar _ a b | .rol _ a b | .sel _ a b | .shfl _ a b | .fadd _ a b | .fsub _ a b | .fmul _ a b | .fma _ a b | .fms _ a b
    | .fmin _ a b | .fmax _ a b | .fdiv _ a b | .fscale _ a b | .fdot2 _ a b => [a, b]
  | .ceq _ _ a b | .cne _ _ a b | .clt _ _ a b | .cle _ _ a b | .cun _ _ a b | .ctst _ _ a b => [a, b]
  | .abs _ a | .neg _ a | .not _ a | .clz _ a | .popc _ a | .brev _ a | .mov _ a | .fsqrt _ a | .frcp _ a | .frsq _ a
    | .fexp2 _ a | .flog2 _ a | .fsinpi _ a | .fcospi _ a | .frint _ a | .fgetexp _ a | .fnanc _ a => [a]
  | .cvt _ a _ => [a]
  | .hslide _ a _ => [a]
  | .fclass _ _ a _ => [a]
  | .wscan _ a _ => [a]
  | _ => []

/-- The instruction slides lanes, so that PERM.FILL says what comes in at an edge (R24, R114). -/
def slides (i : Instr) : Bool :=
  ((operandsOf i).any fun o => o.pat == .sup || o.pat == .sdn) || (match i with
    | .hslide _ _ _ => true
    | _ => false)

/-- The instruction reads PERM (R24). -/
def readsPerm (i : Instr) : Bool := slides i || (operandsOf i).any fun o => o.pat == .rot || o.pat == .bc || o.pat == .bf

/-- The instruction can set a flag, and so reads STAT to add it (R26, R27): a clamp only where SAT says so. -/
def readsStat (sat : Bool) : Instr → Bool
  | .add _ _ _ | .sub _ _ _ | .mul _ _ _ | .mulh _ _ _ | .mad _ _ _ | .msb _ _ _ | .mad2 _ _ _ | .dot4 _ _ _ | .abs _ _ | .neg _ _
    | .min _ _ _ | .max _ _ _ | .avg _ _ _ | .addi _ _ _ | .muli _ _ _ | .shl _ _ _ | .shli _ _ _ => sat
  | .rsh _ _ _ | .fadd _ _ _ | .fsub _ _ _ | .fmul _ _ _ | .fma _ _ _ | .fms _ _ _ | .fmin _ _ _ | .fmax _ _ _ | .fdiv _ _ _
    | .fsqrt _ _ | .frcp _ _ | .frsq _ _ | .fexp2 _ _ | .flog2 _ _ | .fsinpi _ _ | .fcospi _ _ | .frint _ _ | .fscale _ _ _
    | .fgetexp _ _ | .fdot2 _ _ _ | .cvt _ _ _ | .ard _ _ _ _ _ | .wscan _ _ _ => true
  | _ => false

/-- The instruction counts on a path, or waits for a counter (R29). -/
def readsCounter : Instr → Bool
  | .ldw _ _ _ _ | .ldd _ _ _ _ | .ldq _ _ _ _ | .ldh _ _ _ _ | .ldb _ _ _ _ | .ldacq _ _ _ _ | .sld _ _ _ _ | .strel _ _ _ _
    | .cpy _ _ _ _ _ | .cpyo _ _ _ _ | .cpyt _ _ _ _ | .cpyv _ _ _ | .wcall _ _ _ _ _ | .sendr _ _ _ _ _ | .sendb _ _ _ _ | .wcnt _ _
    | .fence _ _ | .exit => true
  | _ => false

/-- The words of a system register of the group (R33). -/
def sysWord (n : Nat) : List Nat :=
  match n with
  | 0x07 => [statWord] | 0x08 => [seedWord] | 0x09 => [tvecWord] | 0x0A => [tpcWord] | 0x0B => [tcauseWord]
  | 0x0C => [tinfoWord] | 0x0D => [tmodeWord] | 0x0E => [temWord] | 0x0F => [nanctWord]
  | _ => []

/-- The words of an index register and of its bounds for listed lanes. -/
def indexWords (k : Nat) (ls : List Nat) : List Nat := ls.map fun l => indexWord k + l / 8
def boundWords (k : Nat) (ls : List Nat) : List Nat := ls.map fun l => boundWord k + l / 4

/-- The words of its group's control storage, scalars that it names left out, that an instruction reads beside `issueWords`. -/
def Ctx.controlReads (c : Ctx) (i : Instr) : List Nat :=
  (if c.onLanes i && c.g.guarded then [predWord c.g.guard] else []) ++
  (if c.onLanes i && decide (c.g.rnd = .stoch) then [seedWord] else []) ++
  (if readsPerm i then [permWord] else []) ++
  (if readsStat c.g.sat i then [statWord] else []) ++
  (if readsCounter i then [counterWord] else []) ++
  ((c.uses i).map fun
    | .x m _ _ more => indexWords (m / 8) (c.g.laneSet more) ++ boundWords (m / 8) c.g.actives
    | _ => []).flatten ++
  match i with
  | .brany q _ _ | .brall q _ _ | .brnone q _ _ | .vote _ _ q => [predWord q.toNat]
  | .emand q _ => [predWord q.toNat]
  | .emelse | .empop => [stackWord ((c.g.stack.length - 1) / 2)]
  | .ceq k q _ _ | .cne k q _ _ | .clt k q _ _ | .cle k q _ _ | .cun k q _ _ | .ctst k q _ _ => combineReads k q
  | .fclass k q _ _ => combineReads k q
  | .qop _ _ a b => [predWord a.toNat, predWord b.toNat]
  | .qtv _ => (List.range 8).map predWord
  | .sel _ _ _ => [predWord c.g.guard]
  | .xadd k _ => indexWords k.toNat c.g.actives
  | .xrd k _ => indexWords k.toNat c.g.actives ++ boundWords k.toNat c.g.actives
  | .tret => returnWords
  | .sysrd n _ => sysWord n.toNat
  | .ccall _ => List.range 8
  | _ => []

/-- The uniform registers that an instruction reads: `k15` as the fill of a slide (R25). -/
def Ctx.uniformReads (c : Ctx) (i : Instr) : List Nat :=
  (if slides i && decide (2 ≤ c.g.fill) then [15] else []) ++ match i with
  | .krd _ n => [n.toNat]
  | _ => []

/-- Slots of the scratchpad whose tags an instruction reads at issue. -/
def Ctx.tagReads (c : Ctx) (i : Instr) : List Nat :=
  let slots (size : Nat) (l : List Int) : List Nat :=
    (l.map fun a => if a < 0 then [] else touched 4096 a.toNat size).flatten
  let low (v : VReg) (j : Nat) : Int := ((c.g.vreg v.toNat j).toNat % 2 ^ 20 : Nat)
  let scalar (r : SReg) : Nat := (c.g.sreg r).toNat % 2 ^ 20 / 4096
  match i with
  | .lds _ a _ o | .sts _ a _ o => slots 4 (c.g.actives.map fun j => low a j + o.toInt * 4)
  | .ldsq _ a _ o | .stsq _ a _ o => slots 16 (c.g.actives.map fun j => low a j + o.toInt * 16)
  | .cpy d _ _ _ z => slots (2 ^ (2 + z.toNat)) (c.g.actives.map (low d))
  | .cpyo d _ _ z => slots (2 ^ (2 + z.toNat)) (c.g.actives.map (low d))
  | .slk _ _ _ => List.range 256
  | .sfill x _ _ => (c.g.sreg x).toNat % 256 :: List.range 256
  | .sevict x _ _ => [(c.g.sreg x).toNat % 256]
  | .cpyt x _ _ _ | .cpyv x _ _ => [scalar x]
  | .tbinit _ y _ | .tbarr _ y _ | .tbwait _ y | .obld _ y _ | .asave _ y _ _ | .aload _ y _ _ | .cwait _ y | .cset _ y => [scalar y]
  | .sendb x _ _ _ => [scalar x]
  | _ => []

/-- Handles that an instruction names. -/
def Ctx.handleReads (c : Ctx) (i : Instr) : List Nat :=
  let h (r : SReg) : Nat := field (c.g.sreg r) 0 4
  match i with
  | .obrel y _ | .obld y _ _ | .gath y _ _ _ => [h y]
  | .mstep x y _ _ | .mloop x y _ _ => [h x, h y]
  | _ => []

/-- The words of its core's own control storage that an instruction of a team reads: the team's table entry, the tags, the records
and the barriers that it names, and the release filter, which commits go through too (R205). -/
def Ctx.tableReads (c : Ctx) (i : Instr) : List Nat :=
  c.tagReads i ++ match c.team? with
  | none => []
  | some t =>
    teamWord t.slot :: ((c.handleReads i).filterMap fun h => (Table.get? t.handles h).map recordWord) ++ match i with
    | .arv v b _ | .arva v b _ | .arvd v b _ | .bwait v b _ => [barrierWord t.slot v.toNat b.toNat]
    | .exit => (List.range 16).map (barrierWord t.slot 0)
    | .strel _ _ _ sc => if 2 ≤ sc.toNat then [filterWord] else []
    | .fence sc k => if k ≠ 0 ∧ 3 ≤ sc.toNat then [filterWord] else []
    | .wcall _ _ _ _ _ | .cpyv _ _ _ | .ckseal _ _ _ => [filterWord]
    | _ => []

/-- A control word, or a uniform register, that the instruction reads is poisoned. -/
def Ctx.controlPoison (c : Ctx) (i : Instr) : Bool :=
  (!c.g.cpoison.isEmpty && c.g.poisons (c.controlReads i)) ||
    (c.team?.any fun t => !t.kpoison.isEmpty && (c.uniformReads i).any t.kpoison.contains) ||
    (c.P.core? (c.P.coreOf c.gid)).any fun k => !k.cpoison.isEmpty && (c.tableReads i).any k.cpoison.contains

/-- A register among those read holds a poisoned word (R273). -/
def Group.poisonedUse (g : Group) (us : List RegUse) : Bool :=
  !(g.vpoison.isEmpty && g.cpoison.isEmpty) && (us.map g.touches).flatten.any fun t =>
    if t.1 then g.cpoison.contains t.2 else g.vpoison.any fun x => x / 16 == t.2

/-- The instruction reads a poisoned word of its group, or of its core's control storage (R273, R274). -/
def Ctx.consumes (c : Ctx) (i : Instr) : Bool := c.g.poisonedUse (c.reads i) || c.controlPoison i

/-! ## Rejected words (R42 orders 1 and 2) -/

/-- The trap of a word that a check of order 2, or a check of a LA field, rejects. -/
def rejectTrap : Reject → Trap
  | .reservedField w b => trapOf 2 (w.toNat + b * 2 ^ 32)
  | .modeValue v => trapOf 2 v.toNat
  | .permValue v => trapOf 2 v.toNat
  | .lookahead _ la => trapOf 2 la.toNat
  | .truncated => trapOf 1 0

/-- The trap of an instruction that stands for no word that decodes (notes/assumptions/21.md). -/
def rejectionOf (i : Instr) : Trap :=
  match encode i with
  | none => trapOf 2 0
  | some w => match decode w with
    | .error r => rejectTrap r
    | .ok _ => trapOf 2 0

/-! ## Issue -/

/-- Memory, scratchpad and copy accesses, which an incomplete `ldacq` holds back (R204): those of the matrix engine's fills and
moves, of sends, send counters and combiner requests, the look at the tags, and the answer to a batch, which writes its object's line
(R314), among them. -/
def accessesOf : Instr → Bool
  | .ldw _ _ _ _ | .ldd _ _ _ _ | .ldq _ _ _ _ | .ldh _ _ _ _ | .ldb _ _ _ _ | .stw _ _ _ _ | .std _ _ _ _
    | .stq _ _ _ _ | .sth _ _ _ _ | .stb _ _ _ _ | .ldacq _ _ _ _ | .strel _ _ _ _ | .sld _ _ _ _ | .sst _ _ _ _
    | .lds _ _ _ _ | .sts _ _ _ _ | .ldsq _ _ _ _ | .stsq _ _ _ _ | .sfill _ _ _ | .sevict _ _ _ | .cpy _ _ _ _ _
    | .cpyo _ _ _ _ | .cpyt _ _ _ _ | .cpyv _ _ _ | .tbinit _ _ _ | .tbarr _ _ _ | .tbwait _ _ | .obld _ _ _
    | .gath _ _ _ _ | .asave _ _ _ _ | .aload _ _ _ _ | .sendr _ _ _ _ _ | .sendb _ _ _ _ | .cwait _ _ | .cset _ _
    | .wcall _ _ _ _ _ | .wpost _ _ _ _ | .wreply _ | .wfail _ | .slk _ _ _ => true
  | _ => false

/-- A combiner fault that the group holds and whose `wcall`'s window has closed (R307). -/
def Group.dueWhisk (g : Group) : Option HeldFault :=
  g.held.find? fun h => h.path = .wcl && !h.left && !(g.windows.any fun w => w.op == h.op && w.inside) &&
    !(g.inflight.any fun e => e.op == h.op)

/-- The combiner fault that an instruction takes before its own checks: an `exit` takes it in its own order (R142 step 5). -/
def Group.dueAt (g : Group) : Instr → Option HeldFault
  | .exit => none
  | _ => g.dueWhisk

/-- Take a held fault: it is held no longer. -/
def Group.unhold (g : Group) (h : HeldFault) : Group := { g with held := g.held.erase h }

/-- The checks that come before an instruction's own (R42 orders 2 to 5), and the waits at issue (R52, R204). A combiner fault that
is due is taken before them, but by an `exit` (notes/assumptions/97.md). -/
def Ctx.precheck (c : Ctx) (i : Instr) (body : Ctx → Res) : Res :=
  if c.g.stage ≠ .fresh then body c
  else if c.g.windows.any Window.blocks then .wait c.s .inFlight
  else match c.g.dueAt i with
    | some h => .trap (c.put (c.g.unhold h)) h.trap
    | none =>
      if c.g.poisons issueWords then .gone (c.s.consumeBy c.p c.gid 3 srcCore 0)
      else if !i.wf then .trap c.s (rejectionOf i)
      else match c.checkUses i with
        | some t => .trap c.s t
        | none =>
          if c.consumes i then .gone (c.s.consumeBy c.p c.gid 3 srcCore 0)
          else if accessesOf i && (c.g.windows.any fun w => w.acq && !w.done) then .wait c.s .inFlight
          else body c

/-- The context of the group that issues in this step. -/
def State.issuer (s : State) : Option Ctx :=
  match s.cur with
  | none => none
  | some c => match s.part? c.part with
    | none => none
    | some P => match P.group? c.gid with
      | none => none
      | some g => if g.run = .live then some ⟨s, c.part, P, c.gid, g, c.check⟩ else none

/-- An instruction issues for the current group: the checks, its own meaning, the settlement. -/
def issue (i : Instr) (s : State) (body : Ctx → Res) : Host.Outcome State Fault Refusal :=
  match s.issuer with
  | none => .fault .noIssuer
  | some c => .next (c.settle (c.precheck i body))

/-- A word that decodes to no instruction: the trap of its rejection, taken where the instruction would issue (R42). -/
def rejectWord (r : Reject) (s : State) : State :=
  match s.issuer with
  | none => s
  | some c => c.settle
    (if c.g.windows.any Window.blocks then .wait c.s .inFlight
     else match c.g.dueWhisk with
      | some h => .trap (c.put (c.g.unhold h)) h.trap
      | none => match r with
        | .lookahead i _ => c.precheck i fun c => .trap c.s (rejectTrap r)
        | _ => .trap c.s (rejectTrap r))

/-! ## Checked issue (R157, R158) -/

/-- The result of an instruction that is executed twice: written when the executions agree, or agree in the retry; where they do
not, nothing is written and the group's team has consumed an uncorrectable error of class 5. -/
def Ctx.checked (c : Ctx) (g : Group) : Res :=
  match c.check with
  | .agrees => c.finish g
  | .corrected =>
    .done ((c.put g).severity c.p 4 srcCore (c.P.coreOf c.gid) 0 (c.P.requester c.gid 0)
      (if isWhisk c.gid then none else some c.tk) false true)
  | .uncorrected => .gone (c.s.consumeBy c.p c.gid 5 srcCore 0)

/-- The word of an instruction, for TINFO. -/
def wordOf (i : Instr) : Nat := ((encode i).map BitVec.toNat).getD 0

/-- Instructions that a method may not execute (R315). -/
def Ctx.outside (c : Ctx) (i : Instr) (body : Ctx → Res) : Res :=
  if isWhisk c.gid then .trap c.s (trapOf 1 (wordOf i)) else body c

/-- An in-flight counter that stands at 255 holds the instruction at issue (R29). -/
def Ctx.room (c : Ctx) (p : Path) (body : Ctx → Res) : Res :=
  if 255 ≤ c.g.count p then .wait c.s .inFlight else body c

/-- The type-unsupported trap (R97). -/
def Ctx.badType (c : Ctx) (op : Nat) : Res := .trap c.s (trapOf 3 (c.g.ty + op * 256))

end Sys2Proof.Machine
end

