-- ==== Sys2Proof/Machine/Flags.lean ====
section
/-!
DEFINITION. Flags and predicates: the STAT flags of element-wise results (R26, R27, R97, R99), the environment of roundings
(R20, R90, R92), the combine field of compares (R108), and the mould that every vector instruction follows.
-/
namespace Sys2Proof.Machine

/-! ## Roundings -/

/-- MODE's fields for an instruction that draws no random bits: STOCH reads as RNE (R90). -/
def Group.env (g : Group) : Env := ⟨g.rnd.plain, g.ftz, g.nanm, g.sat, 0⟩

/-- MODE's fields for element k of a lane of `cvt` and `rsh`, with its comparison word (R92). -/
def Group.drawEnv (g : Group) (lane k : Nat) : Env := ⟨g.rnd, g.ftz, g.nanm, g.sat, laneDraw g.seed g.ctr lane k⟩

/-- CTR rises by 1 for an instruction that may draw under STOCH (R28). -/
def Group.drawn (g : Group) : Group := if g.rnd = .stoch then { g with ctr := g.ctr + 1 } else g

/-! ## Lane results -/

/-- Results of lanes: a value and its flags each. -/
abbrev LaneResults := List (Nat × (Nat × Nat))

/-- Write lane results into a register or a pair, and set the flags that any of them has (R27). -/
def Group.putLanes (g : Group) (wide : Bool) (d : VReg) (rs : LaneResults) : Group :=
  let g := if wide then g.writePair d.toNat (rs.map fun r => (r.1, BitVec.ofNat 64 r.2.1))
    else g.writeV d.toNat (rs.map fun r => (r.1, BitVec.ofNat 32 r.2.1))
  g.setFlags (rs.foldl (fun acc r => acc ||| r.2.2) 0)

/-- A TYPE check of order 6 (R42): the element type of MODE.TYPE if the instruction takes it, else the trap 0x03. -/
def Ctx.typed (c : Ctx) (op : Nat) (ok : Nat → Bool) (body : Ty → Res) : Res :=
  match Ty.ofCode c.g.ty with
  | some t => if ok c.g.ty then body t else c.badType op
  | none => c.badType op

/-- TYPE codes of integer elements, of 32- and 64-bit integers, of signed integers, of floats (R23). -/
def tInt (t : Nat) : Bool := decide (t ≤ 7)
def tScalarInt (t : Nat) : Bool := decide (t ≤ 3)
def tSigned (t : Nat) : Bool := t == 0 || t == 2 || t == 4 || t == 6

def Ty.signed (t : Ty) : Bool := match t.kind with
  | .signed => true
  | _ => false

/-- The element-wise mould (R97, R99): element k of the destination in each active lane from element k of the operands and of
the old destination. -/
def Ctx.mould (c : Ctx) (t : Ty) (d : VReg) (a b : Nat → Nat) (f : Nat → Nat → Nat → Nat → Nat → Nat × Nat) : Group :=
  c.g.putLanes t.wide d (c.g.actives.map fun i =>
    let old := c.g.direct t.wide d.toNat i
    (i, packElems t.w ((List.range t.n).map fun k => f i k (elem t.w k (a i)) (elem t.w k (b i)) (elem t.w k old))))

/-- A 32-bit value in each active lane, whatever TYPE holds. -/
def Ctx.words (c : Ctx) (d : VReg) (f : Nat → Nat) : Group :=
  c.g.putLanes false d (c.g.actives.map fun i => (i, (f i % 2 ^ 32, 0)))

/-! ## Predicates (R108) -/

/-- The combine field: the new predicate from the old one and the compare's result. -/
def combine (comb : Nat) (old r : Bool) : Bool :=
  match comb with
  | 0 => r
  | 1 => old && r
  | 2 => old || r
  | 3 => old != r
  | _ => !r

/-- Set predicates of a register in listed lanes; one that is written in every lane is written whole (R275). -/
def Group.writeQ (g : Group) (q : QReg) (rs : List (Nat × Bool)) : Group :=
  let old := g.preds q.toNat
  let set := rs.foldl (fun m r => m + bit r.2 * 2 ^ r.1) 0
  let keep := rs.foldl (fun m r => m + 2 ^ r.1) 0
  (g.setPreds q.toNat ((old &&& ~~~(BitVec.ofNat 32 keep)) ||| BitVec.ofNat 32 set)).mendLanes (predWord q.toNat) 32 (rs.map Prod.fst)

/-- A compare's results in the active lanes through the combine field. -/
def Ctx.compare (c : Ctx) (comb : BitVec 3) (q : QReg) (r : Nat → Bool) : Group :=
  c.g.writeQ q (c.g.actives.map fun i => (i, combine comb.toNat (c.g.pred q.toNat i) (r i)))

/-- The order relations of two floating values (R108): less, equal; none with a NaN. -/
def floatLess (a b : FVal) : Bool :=
  match a, b with
  | .nan _ _, _ => false
  | _, .nan _ _ => false
  | .inf n, .inf m => n && !m
  | .inf n, _ => n
  | _, .inf m => !m
  | a, b => decide ((Dy.sub a.dy b.dy).1 < 0)
def floatEqual (a b : FVal) : Bool :=
  match a, b with
  | .nan _ _, _ => false
  | _, .nan _ _ => false
  | .inf n, .inf m => n == m
  | .inf _, _ => false
  | _, .inf _ => false
  | a, b => decide ((Dy.sub a.dy b.dy).1 = 0)

/-- Whether two elements of a type are less, or equal. -/
def Ty.less (t : Ty) (ftz : Bool) (a b : Nat) : Bool :=
  match t.kind with
  | .signed => decide (sextNat t.w a < sextNat t.w b)
  | .natural => decide (a < b)
  | .float f => floatLess (readF f ftz a) (readF f ftz b)
def Ty.equal (t : Ty) (ftz : Bool) (a b : Nat) : Bool :=
  match t.kind with
  | .float f => floatEqual (readF f ftz a) (readF f ftz b)
  | _ => a == b

end Sys2Proof.Machine
end

