-- ==== Sys2Proof/Machine/Mem.lean ====
section
/-!
DEFINITION. Translation (spec/17 R336 to R343), page faults (spec/09 R198, R199), the colander and its commits (spec/08 R187 to
R191, spec/18 R374), and the requests of loads (R202).
-/
namespace Sys2Proof.Machine

/-- The context of a group for which an engine works. -/
def State.ctx? (s : State) (p : PartNo) (gid : Nat) : Option Ctx :=
  match s.part? p with
  | none => none
  | some P => (P.group? gid).map fun g => ⟨s, p, P, gid, g, .agrees⟩

/-! ## Translation (R336 to R342) -/

/-- What an access needs of a page (R341). -/
inductive Acc where
  | fetch | read | write | whisk
  deriving DecidableEq, Repr

/-- The access kind of TINFO[62:61] and of a fault record; a fetch counts as a read (R41, R198). -/
def Acc.code : Acc → Nat
  | .fetch | .read => 0
  | .write => 1
  | .whisk => 3

def Acc.writes : Acc → Bool
  | .write | .whisk => true
  | _ => false

/-- Bytes that an entry at a level maps (R339). -/
def levelSize (level : Nat) : Nat := 2 ^ (16 + 10 * level)

/-- Every byte of a frame of a tier is backed (R336, R337). -/
def State.backed (s : State) (tier lo size : Nat) : Bool :=
  let hi := lo + size
  match tier with
  | 0 => decide (hi ≤ 0xB2D05E0000)
  | 1 => s.parts.any fun e => decide (e.2.regs.shelfb.toNat ≤ lo) && decide (hi ≤ e.2.shelfEnd)
  | 2 => decide (2 ^ 49 ≤ lo) && decide (cxlPort lo < 8) &&
      decide (hi ≤ 2 ^ 49 + cxlPort lo * 2 ^ 42 + min (Config.cxlBytes (cxlPort lo)) 4096000000000)
  | _ => decide (2 ^ 51 ≤ lo) && (List.range (size / 65536)).all fun k => Config.hostFrame (lo / 65536 + k)

/-- An entry with V = 1 that R340 calls malformed. -/
def State.malformed (s : State) (pte : DWord) (level : Nat) : Bool :=
  let frame := field pte 13 39 * 8192
  if field pte 60 4 != 0 || field pte 10 3 != 0 then true
  else if field pte 9 1 == 0 then field pte 1 8 != 0 || field pte 52 8 != 0 || level == 0
  else level == 3 || frame % levelSize level != 0 || !s.backed (field pte 4 2) frame (levelSize level)

/-- Owner key of the granule of an address (R338). -/
def State.owner (s : State) (pa : Nat) : BitVec 8 := Cells.get 0 s.granules (pa / 2 ^ 26)

/-- What a walk comes to. -/
inductive Walk where
  | leaf (at' : Nat) (pte : DWord) (level : Nat)
  | invalid (malformed : Bool)
  | denied
  /-- The entry at an address holds an uncorrectable error. -/
  | poisoned (at' : Nat)
  deriving DecidableEq, Repr

/-- The walk of R341 (an entry in a poisoned double word is consumed by whoever needs it, R274, R421) from a table at a level; page-table pages obey the granule rule too (R338). -/
def State.walk (s : State) (P : Part) (va : Nat) : Nat → Nat → Walk
  | level, table =>
    if s.owner table ≠ P.regs.pkey then .denied
    else
      let a := table + va / levelSize level % 1024 * 8
      let pte := BitVec.ofNat 64 (s.num a 8)
      if s.poisoned a then .poisoned a
      else if pte.getLsbD 0 = false then .invalid false
      else if s.malformed pte level then .invalid true
      else if pte.getLsbD 9 then .leaf a pte level
      else match level with
        | 0 => .invalid true
        | l + 1 => s.walk P va l (field pte 13 39 * 8192)

/-- The entries that a walk reads, from a table at a level (R341). -/
def State.walkReads (s : State) (va : Nat) : Nat → Nat → List Nat
  | level, table =>
    let a := table + va / levelSize level % 1024 * 8
    let pte := BitVec.ofNat 64 (s.num a 8)
    a :: if pte.getLsbD 0 = false ∨ pte.getLsbD 9 then [] else match level with
      | 0 => []
      | l + 1 => s.walkReads va l (field pte 13 39 * 8192)

/-- What a translation comes to: the physical address, whether the page or the range is observed, the address of the leaf where a walk
has read it, the leaf, and its level. -/
inductive Xlate where
  | ok (pa : Nat) (obs : Bool) (at' : Option Nat) (pte : DWord) (level : Nat)
  | invalid (malformed : Bool)
  | denied
  | poisoned (at' : Nat)
  deriving DecidableEq, Repr

/-- A virtual address in an OBS range of the partition (R341, R345). -/
def Part.inObs (P : Part) (va : Nat) : Bool :=
  (List.range 8).any fun k =>
    decide (Table.getD P.regs.obs (2 * k) (2 ^ 40 - 1) ≤ va / 65536) && decide (va / 65536 ≤ Table.getD P.regs.obs (2 * k + 1) 0)

/-- The address lies in a code page of a kernel that runs: one of a launch that has been placed (R41). -/
def Part.codePage (P : Part) (pa : Nat) : Bool :=
  P.run.launches.any fun e => e.2.mode.isSome && (Table.getD P.code e.2.kern []).contains (pa / 65536)

/-- The checks of a leaf (R337, R338, R341), and of a write to a running kernel's code (R41). -/
def State.useLeaf (s : State) (P : Part) (acc : Acc) (va : Nat) (at' : Option Nat) (pte : DWord) (level : Nat) : Xlate :=
  let frame := field pte 13 39 * 8192
  let pa := frame + va % levelSize level
  let allowed := match acc with
    | .fetch => pte.getLsbD 3
    | .read => pte.getLsbD 1
    | .write => pte.getLsbD 2
    | .whisk => pte.getLsbD 1 && pte.getLsbD 2
  let reserved := s.parts.any fun e =>
    decide (e.2.regs.shelfb.toNat < frame + levelSize level) && decide (frame < e.2.regionEnd)
  if BitVec.ofNat 8 (field pte 52 8) ≠ P.regs.pkey ∨ s.owner pa ≠ P.regs.pkey ∨ !allowed ∨ reserved ∨ (acc.writes ∧ P.codePage pa) then .denied
  else .ok pa (pte.getLsbD 6 || P.inObs va) at' pte level

/-- What a walk gives (R341), without the walker's writes. -/
def State.walked (s : State) (P : Part) (acc : Acc) (va : Nat) : Xlate :=
  match s.walk P va 3 P.regs.ptroot.toNat with
  | .leaf a pte level => s.useLeaf P acc va (some a) pte level
  | .invalid m => .invalid m
  | .denied => .denied
  | .poisoned a => .poisoned a

/-- The translation of an address that a cache holds, if there is one that can serve the access (R342). -/
def Part.cached? (P : Part) (cache : Nat) (acc : Acc) (va : Nat) : Option Cached :=
  P.tlb.find? fun c => c.cache == cache && va / levelSize c.size * levelSize c.size / 65536 == c.vpage &&
    (c.leaf.getLsbD 8 || !acc.writes)

/-- Number of the shared cache of a core's die. -/
def dieCache (core : Nat) : Nat := 128 + core / 16

/-- The cached translation that a core's access uses: of its own cache, or of its die's (R342). A cached leaf whose frame is no longer
backed does not serve (R337). -/
def State.hit (s : State) (P : Part) (core : Nat) (acc : Acc) (va : Nat) : Option Cached :=
  [core, dieCache core].findSome? fun n => (P.cached? n acc va).filter fun c =>
    Config.useCached s.tick n va && !s.malformed c.leaf c.size

/-- Translate a core's access to a 56-bit virtual address, without the walker's writes. -/
def State.look (s : State) (P : Part) (core : Nat) (acc : Acc) (va : Nat) : Xlate :=
  match s.hit P core acc va with
  | some c => s.useLeaf P acc va none c.leaf c.size
  | none => s.walked P acc va
/-- The same for a group. -/
def Ctx.look (c : Ctx) (acc : Acc) (va : Nat) : Xlate := c.s.look c.P (c.P.coreOf c.gid) acc va

/-- The leaf with the A and D bits that an access leaves in it (R341). -/
def Acc.mark (acc : Acc) (pte : DWord) : DWord := pte ||| (if acc.writes then 0x180 else 0x80)

/-- The walk of a group's access would read, or change, an entry in a line that a `cpyv` holds (R216, R341). -/
def Ctx.touchHeld (c : Ctx) (acc : Acc) (va : Nat) : Bool :=
  !c.P.run.held.isEmpty && (c.s.hit c.P (c.P.coreOf c.gid) acc va).isNone &&
    (c.s.walkReads va 3 c.P.regs.ptroot.toNat).any fun a => c.P.run.held.contains (a / 128)

/-- A translation comes into a cache, in the place of an earlier one of its page. -/
def Part.cache (P : Part) (n vp size : Nat) (leaf : DWord) : Part :=
  { P with tlb := ⟨n, vp, size, leaf⟩ :: P.tlb.filter fun c => !(c.cache == n && c.vpage == vp && c.size == size) }

/-- The walker's own writes for a translation that is used: the A and D bits, and the caches of the core and of its die (R340 to R342).
A cached leaf has the bits already, so its entry is not written, and it comes into the core's cache alone. -/
def State.touch (s : State) (p : PartNo) (core : Nat) (acc : Acc) (va : Nat) (x : Xlate) : State :=
  match x with
  | .ok _ _ at' pte level =>
    let pte' := acc.mark pte
    let vp := va / levelSize level * levelSize level / 65536
    match at' with
    | some a => (if pte' = pte then s else s.writeAt p a (leBytes 8 pte'.toNat)).modPart p fun P =>
        (P.cache (dieCache core) vp level pte').cache core vp level pte'
    | none => s.modPart p fun P => P.cache core vp level pte'
  | _ => s

/-! ## Page faults (R198 orders 7f and 7g, R199, R343) -/

/-- TINFO of the causes 0x10 to 0x16 (R198). -/
def accessInfo (addr lane kind : Nat) : DWord := BitVec.ofNat 64 (addr % 2 ^ 56 + lane * 2 ^ 56 + kind * 2 ^ 61)

/-- Report a page to the fault service: one record per page, and vector 1 (R343). -/
def State.reportFault (s : State) (p : PartNo) (vp kind : Nat) (malformed : Bool) (req : Word) : State :=
  s.modPart p fun P =>
    if P.faults.any fun f => f.vpage == vp then P
    else Part.vector { P with faults := P.faults ++ [⟨vp, kind, malformed, req⟩] } 1

/-- A group that has met invalid pages, each with the lane that met it first and whether its entry is malformed (R199, R343): an
unanchored team is discarded until the verdicts, an anchored one stalls. -/
def Ctx.pageFault (c : Ctx) (kind : Nat) (pages : List (Nat × Nat × Bool)) : Res :=
  let s := pages.foldl (fun s x => s.reportFault c.p x.1 kind x.2.2 (c.P.requester c.gid x.2.1)) c.s
  let vps := pages.map Prod.fst
  if !isWhisk c.gid && c.P.discardable c.tk then .gone (s.modPart c.p fun P => P.discard c.tk vps)
  else .wait s (.page vps)

/-- The first of a list of pages with their lanes, page by page. -/
def firstOfPages : List (Nat × Nat × Bool) → List Nat → List (Nat × Nat × Bool)
  | [], _ => []
  | x :: rest, seen => if seen.contains x.1 then firstOfPages rest seen else x :: firstOfPages rest (x.1 :: seen)

/-- The page's verdict is still awaited (R199, R343). -/
def Part.pending (P : Part) (vp : Nat) : Bool := P.faults.any fun f => f.vpage == vp

/-- An anchored team's group stalls at the faulting instruction until the verdict on every page (R199). -/
def Part.stallsOnPage (P : Part) (g : Group) : Bool :=
  match g.wait with
  | some (.page vps) => vps.any P.pending
  | _ => false

/-- The address of a translation. -/
def Xlate.pa : Xlate → Nat × Bool
  | .ok pa obs _ _ _ => (pa, obs)
  | _ => (0, false)

def Xlate.isInvalid : Xlate → Bool
  | .invalid _ => true
  | _ => false
/-- The entry has been found valid. -/
def Xlate.found : Xlate → Bool
  | .ok _ _ _ _ _ | .denied => true
  | _ => false
/-- The entry whose uncorrectable error the walker has met. -/
def Xlate.poison? : Xlate → Option Nat
  | .poisoned a => some a
  | _ => none

/-- The decline mark of a page, or the verdict that the group has been waiting for (R199). -/
def Ctx.declined (c : Ctx) (vp : Nat) : Bool :=
  (c.team?.any fun t => t.marks.contains vp) || c.g.wait == some (.declined vp)

/-- Clear decline marks. -/
def State.clearMarks (s : State) (p : PartNo) (tk : Nat) (vps : List Nat) : State :=
  s.modTeam p tk fun t => { t with marks := t.marks.filter fun m => !vps.contains m }

/-- Orders 7f and 7g of R198 over the lanes of an access, each a lane and an address; `deny` holds the traps of order 7g that
come from the scratchpad side. Every lane passes before any has an effect; then the body gets each lane's physical address and
whether it is observed. Every invalid page that some lane meets is reported (R343). The mark of a page whose entry is found valid is cleared whatever comes of the access (R199). -/
def Ctx.translate (c : Ctx) (acc : Acc) (items : List (Nat × DWord)) (deny : List (Nat × Trap))
    (body : Ctx → List (Nat × Bool) → Res) : Res :=
  let vp (va : DWord) : Nat := va.toNat % 2 ^ 56 / 65536
  let looks := items.map fun e => (e, c.look acc (e.2.toNat % 2 ^ 56))
  let found := (looks.filter fun x => canonical x.1.2 && x.2.found).map fun x => vp x.1.2
  let c := if c.team?.any fun t => t.marks.any found.contains then c.reload (c.s.clearMarks c.p c.tk found) else c
  match looks.find? fun x => !canonical x.1.2 || (x.2.isInvalid && c.declined (vp x.1.2)) ||
      c.g.wait == some (.declined (vp x.1.2)) with
  | some x =>
    let s := if canonical x.1.2 then c.s.clearMarks c.p c.tk [vp x.1.2] else c.s
    .trap s ⟨0x10, accessInfo x.1.2.toNat x.1.1 acc.code⟩
  | none =>
    match looks.findSome? fun x => x.2.poison? with
    | some a => .gone (c.s.consumeBy c.p c.gid 3 (srcOfPa a) a)
    | none =>
    match firstOfPages ((looks.filter fun x => x.2.isInvalid).map fun x => (vp x.1.2, x.1.1, x.2 == .invalid true)) [] with
    | x :: rest => c.pageFault acc.code (x :: rest)
    | [] =>
      match looks.find? fun x => x.2 == .denied || deny.any fun d => d.1 == x.1.1 with
      | some x => .trap c.s (match deny.find? fun d => d.1 == x.1.1 with
          | some d => d.2
          | none => ⟨0x11, accessInfo x.1.2.toNat x.1.1 acc.code⟩)
      | none =>
        if items.any fun e => c.touchHeld acc (e.2.toNat % 2 ^ 56) then .wait c.s .inFlight
        else body (c.reload (looks.foldl (fun s x => s.touch c.p (c.P.coreOf c.gid) acc (x.1.2.toNat % 2 ^ 56) x.2) c.s)) (looks.map fun x => x.2.pa)

/-! ## The colander (R187 to R189) -/

/-- Lines of the quota in use: 8 posted requests share one. -/
def Team.used (t : Team) : Nat := t.colander.length + (t.posted.length + 7) / 8

/-- Bytes stored over a line; a double word written whole loses its poison (R275). -/
def ColLine.merge (l m : ColLine) : ColLine :=
  let whole := (List.range 16).filter fun d => (List.range 8).all fun k => Table.has m.bytes (8 * d + k)
  { l with
    pline := m.pline, obs := m.obs
    bytes := m.bytes.foldl (fun b e => Table.set b e.1 e.2) l.bytes
    poison := m.poison.foldl insertNum (l.poison.filter fun d => !whole.contains d) }

/-- Put one piece of a line into the colander; none where the quota is full. -/
def Team.put (t : Team) (m : ColLine) : Option Team :=
  if t.colander.any fun l => l.vline == m.vline then
    some { t with colander := t.colander.map fun l => if l.vline == m.vline then l.merge m else l }
  else if t.used < t.quota then some { t with colander := insertBy ColLine.vline m t.colander }
  else none

/-- Put pieces until the quota is full: the team, and the number of pieces placed. -/
def Team.putAll (t : Team) : List ColLine → Nat → Team × Nat
  | [], n => (t, n)
  | m :: rest, n => match t.put m with
    | some t => t.putAll rest (n + 1)
    | none => (t, n)

/-- The byte that the team's colander, or a commit of it under way, holds for an offset of a line (R188). -/
def Team.forward (t : Team) (vline off : Nat) : Option Byte :=
  match (t.colander.find? fun l => l.vline == vline).bind fun l => Table.get? l.bytes off with
  | some b => some b
  | none => t.commit.bind fun c => (c.lines.find? fun l => l.vline == vline).bind fun l => Table.get? l.bytes off

/-- The word of a line's byte mask for an offset is poisoned (R273). -/
def ColLine.maskPoison (l : ColLine) (off : Nat) : Bool := l.poison.contains (16 + off / 64)

/-- A store would add to a byte mask that is poisoned. -/
def Team.maskPoison (t : Team) (pieces : List ColLine) : Bool :=
  t.colander.any fun l => !l.poison.isEmpty && pieces.any fun m => m.vline == l.vline && m.bytes.any fun e => l.maskPoison e.1

/-- A forwarded byte lies in a poisoned double word, or the mask that would say whether it is forwarded is poisoned (R273). -/
def Team.forwardPoison (t : Team) (vline off : Nat) : Bool :=
  (t.colander.any fun l => l.vline == vline && l.maskPoison off) || match (t.colander.find? fun l => l.vline == vline && Table.has l.bytes off) with
  | some l => l.poison.contains (off / 8)
  | none => t.commit.any fun c => c.lines.any fun l => l.vline == vline && Table.has l.bytes off && l.poison.contains (off / 8)

/-- The piece of bytes at a translated address that lies within one line. -/
def piece (va pa : Nat) (obs : Bool) (bs : List Byte) : ColLine :=
  ⟨va % 2 ^ 56 / 128, pa / 128, obs, lineBytes (pa % 128) bs, []⟩

/-! ## Commits (R190, R191, R374) -/

/-- Send the posted requests of a commit, in their order (R190 step 2). -/
def Part.sendPosts (P : Part) (tk core : Nat) : List Posted → Part
  | [] => P
  | x :: rest =>
    let (id, P) := P.fresh
    let w : WhiskReq := ⟨x.obj, x.pa, x.width, x.arg, 0, x.requester, tk, core, 0, x.unit, .travelling⟩
    (P.modRun fun r => { r with whisks := Table.set r.whisks id w }).sendPosts tk core rest

/-- Steps 3 and 4 of a final commit (R190): writing attaches are sealed in increasing directory index, every attach ends, staged
records are appended (R369), and the team is over. -/
def State.retire (s : State) (p : PartNo) (tk : Nat) : State :=
  (s.allSeen.unstage p tk).modPart p fun P =>
    match P.team? tk with
    | none => P
    | some t =>
      let P := (sortBy Attach.dir t.attaches).foldl (fun P a => P.commitAttach t.core a) P
      { (P.freeTeam tk).teamOver t with ret := P.ret + 1 }

/-- Go on with a team's commit: the next line write leaves, or, once all have been served, the posted requests, the commit
ordinal and, at a final commit, the retirement. A posted request whose place holds an uncorrectable word is consumed (R274). -/
def State.advanceCommit (s : State) (p : PartNo) (tk : Nat) : State :=
  match s.part? p with
  | none => s
  | some P =>
    match P.team? tk with
    | none => s
    | some t =>
      match t.commit with
      | none => s
      | some c =>
        if c.req ≠ 0 then s
        else match c.lines with
          | l :: _ =>
            let (id, P) := P.fresh
            let r : LineReq := ⟨tk, tk * 32 + c.grp, t.core, [], BitVec.ofNat 32 (t.tidx * 1024), true, l.vline, l.pline, l.obs,
              .write l.bytes l.poison, 0, false⟩
            let P := P.modRun fun run => { run with lines := Table.set run.lines id r }
            s.setPart p (P.modTeam tk fun t => { t with commit := some { c with req := id } })
          | [] =>
            let P := P.sendPosts tk t.core (c.posts.takeWhile fun x => !x.poison)
            match c.posts.find? Posted.poison with
            | some x => (s.setPart p P).consume p tk 3 srcCore (P.coreIndex tk) 0 x.requester
            | none =>
            let P := P.modTeam tk fun t => { t.wake with commit := none }
            let s := s.setPart p (P.modRun fun r => { r with sights := r.sights.filter fun e => e.team != tk })
            let s := s.commitMade p tk c.grp
            if c.final then s.retire p tk else s

/-- A team anchors (R192). -/
def State.anchor (s : State) (p : PartNo) (tk : Nat) : State := s.modTeam p tk fun t => { t with anch := true }

/-- Begin a commit: the team anchors, the colander is taken whole, and the team's places in the release filter are freed (R190,
R192, R205). -/
def State.beginCommit (s : State) (p : PartNo) (tk grp : Nat) (final : Bool) : State :=
  (s.modPart p fun P =>
    match P.team? tk with
    | none => P
    | some t =>
      let mine := ((P.core? t.core).map fun c => (c.filter.filter fun e => e.2 == t.slot).map Prod.fst).getD []
      let P := P.modCore t.core fun c => { c with filter := c.filter.filter fun e => e.2 != t.slot }
      P.modTeam tk fun t =>
        { t with anch := true, colander := [], posted := [], commit := some ⟨t.colander, t.posted, final, grp, 0, mine, []⟩ })
  |>.advanceCommit p tk

/-- The team's commit that this instruction causes: begun once no other is under way, and awaited (R191). The body runs after
it. -/
def Ctx.commits (c : Ctx) (body : Ctx → Res) : Res :=
  match c.team? with
  | none => body c
  | some t =>
    if t.commit.isSome then
      .wait (c.put { c.g with stage := if c.g.stage = .committing then .committing else .anchored }) .inFlight
    else if c.g.stage = .committing then body (c.setG { c.g with stage := .fresh })
    else
      let c := c.setG { c.g with stage := .committing }
      let c := c.reload (c.s.beginCommit c.p c.tk (gidGroup c.gid) false)
      if c.team?.any fun t => t.commit.isSome then .wait c.s .inFlight
      else body (c.setG { c.g with stage := .fresh })

/-- Bytes that a copy out of the group has still to place and that a later store of the group writes: they are placed no more, so
that the group's last store to a byte stays (R187, R189). -/
def Part.supersede (P : Part) (gid : Nat) (pieces : List ColLine) : Part :=
  let later (vline off : Nat) : Bool := pieces.any fun m => m.vline == vline % 2 ^ 49 && Table.has m.bytes off
  P.modRun fun r => { r with ops := r.ops.map fun e => (e.1, match e.2 with
    | .copyOut g tile lines data page =>
      if g = gid then .copyOut g tile (lines.map fun l => { l with pairs := l.pairs.filter fun x => !later l.vline x.1 }) data page
      else e.2
    | x => x) }

/-- A `cpyo` of the group has still to place a byte (R55; notes/assumptions/98.md). -/
def Part.outPending (P : Part) (gid vline off : Nat) : Bool :=
  P.run.ops.any fun e => match e.2 with
    | .copyOut g false lines _ _ => g == gid && lines.any fun l => l.vline % 2 ^ 49 == vline && l.pairs.any fun x => x.1 == off
    | _ => false

/-- Store pieces into the team's colander; a full quota commits it first (R187, R191). DESIGN CHOICE: while a commit is under way, stores
of other groups enter the emptied colander at once, and the lines that are being committed count no more against the quota
(notes/assumptions/116.md). -/
def Ctx.store (c : Ctx) (pieces : List ColLine) (body : Ctx → Res) : Res :=
  match c.team? with
  | none => .gone c.s
  | some t =>
    let (isOver, placed) := match c.g.stage with
      | .overflow n => (true, n)
      | _ => (false, 0)
    if isOver && t.commit.isSome then .wait c.s .inFlight
    else if t.maskPoison (pieces.drop placed) then .gone (c.s.consumeBy c.p c.gid 3 srcCore 0)
    else
      let (t', n) := t.putAll (pieces.drop placed) placed
      let c := c.setP ((c.P.modTeam c.tk fun _ => t').supersede c.gid pieces)
      if pieces.length ≤ n then body (c.setG { c.g with stage := .fresh })
      else
        let c := c.setG { c.g with stage := .overflow n }
        if t.commit.isSome then .wait c.s .inFlight
        else .wait (c.s.beginCommit c.p c.tk (gidGroup c.gid) false) .inFlight

/-! ## Loads (R202, R355) -/

/-- One lane of a load with its translation. -/
structure LoadLane where
  lane : Nat
  va : DWord
  pa : Nat
  obs : Bool
  deriving DecidableEq, Repr

/-- The bytes that a load's lane takes from the colander, by number, and those that it reads at the slice: an offset in the line
and an index in the operation. -/
def LoadLane.split (t : Option Team) (size : Nat) (x : LoadLane) : Table Byte × List (Nat × Nat) :=
  let vline := x.va.toNat % 2 ^ 56 / 128
  let off := x.pa % 128
  (List.range size).foldl (fun (acc : Table Byte × List (Nat × Nat)) k =>
    match t.bind fun t => t.forward vline (off + k) with
    | some b => (acc.1 ++ [(k, b)], acc.2)
    | none => (acc.1, acc.2 ++ [(off + k, 16 * x.lane + k)])) ([], [])

/-- Requests of a load: one per lane, or one per observed line, named by the lowest lane whose access falls on it, be all its bytes
forwarded from the colander (R188, R355); a line of which nothing is read at its slice has none. A scalar access counts as one by
every lane (R206). -/
def loadReqs (P : Part) (gid op : Nat) (scalar : Bool) (xs : List (LoadLane × List (Nat × Nat))) : List LineReq :=
  let mk (ys : List (LoadLane × List (Nat × Nat))) : Option LineReq :=
    match ys with
    | [] => none
    | y :: _ => some ⟨gidTeam gid, gid, P.coreOf gid, if scalar then List.range 32 else ys.map fun z => z.1.lane, P.requester gid y.1.lane, false,
        y.1.va.toNat % 2 ^ 56 / 128, y.1.pa / 128, y.1.obs, .read (ys.map Prod.snd).flatten, op, false⟩
  let plain := (xs.filter fun x => !x.1.obs && !x.2.isEmpty).filterMap fun x => mk [x]
  let seen := xs.filter fun x => x.1.obs
  let lines := dedup ((seen.filter fun x => !x.2.isEmpty).map fun x => x.1.pa / 128)
  plain ++ lines.filterMap fun l => mk (seen.filter fun x => x.1.pa / 128 == l)

/-- Place requests in a partition, each under a number of its own. -/
def Part.addReqs (P : Part) : List LineReq → Part
  | [] => P
  | r :: rest =>
    let (id, P) := P.fresh
    (P.modRun fun run => { run with lines := Table.set run.lines id r }).addReqs rest

/-- The loaded data registers. -/
def loadRegs (dst size : Nat) (scalar : Bool) : List Nat × List Nat :=
  if scalar then ([], [dst]) else (((List.range ((size + 3) / 4)).map fun j => dst + j), [])

/-- A load issues (R202), as an acquire where `scope` is not 0 (R204): forwarded bytes are taken, the rest is requested, LD rises and the window opens. -/
def Ctx.load (c : Ctx) (dst size : Nat) (scalar : Bool) (la : La) (scope : Nat) (xs : List LoadLane) : Res :=
  let regs := loadRegs dst size scalar
  if 255 ≤ c.g.count .ld then .wait c.s .inFlight
  else if xs.isEmpty then c.finish ((c.g.passed .ld).open la true regs.1 regs.2 0)
  else if xs.any fun x => (List.range size).any fun k =>
      c.P.outPending c.gid (x.va.toNat % 2 ^ 56 / 128) (x.pa % 128 + k) then .wait c.s .inFlight
  else if c.team?.any fun t => xs.any fun x => (List.range size).any fun k =>
      t.forwardPoison (x.va.toNat % 2 ^ 56 / 128) (x.pa % 128 + k) then
    .gone (c.s.consumeBy c.p c.gid 3 srcCore ((xs.head?.map fun x => x.va.toNat % 2 ^ 56).getD 0))
  else
    let parts := xs.map fun x => (x, x.split c.team? size)
    let (op, P) := c.P.fresh
    let P := P.setOp op (.load c.gid dst size scalar (parts.map fun e => ⟨e.1.lane, e.1.va, e.2.1, false⟩))
    let P := P.addReqs (loadReqs P c.gid op scalar (parts.map fun e => (e.1, e.2.2)))
    let g := (c.g.raise .ld op).open la false regs.1 regs.2 op
    let g := { g with windows := g.windows.map fun w => if w.op = op then { w with acq := scope != 0, wide := decide (4 ≤ scope) } else w }
    (c.setP P).finish g

end Sys2Proof.Machine
end

