-- ==== Sys2Proof/Machine/Control.lean ====
section
/-!
DEFINITION. Control flow, traps, system registers, index registers, `choose`, `ccall`, `anch` and `exit`
(spec/06_group_control_faults.md, spec/01 R31 to R35).
-/
namespace Sys2Proof.Machine

/-! ## Branches and calls (R51, R140, R141) -/

/-- The target of a branch: PC + 4 × the signed offset. -/
def Ctx.target {n : Nat} (c : Ctx) (o : BitVec n) : DWord := c.g.pc + 4 * o.signExtend 64

/-- A branch that is taken or not. -/
def Ctx.branch {n : Nat} (c : Ctx) (taken : Bool) (o : BitVec n) : Res :=
  if taken then .jump c.s (c.target o) else .done c.s

/-- Lane i's predicate, inverted by the negate bit. -/
def Group.test (g : Group) (q : QReg) (neg : Bool) (i : Nat) : Bool := g.pred q.toNat i != neg
/-- Some lane with EM set has the predicate; every such lane has it. -/
def Group.anyEm (g : Group) (f : Nat → Bool) : Bool := lanes.any fun i => g.em.getLsbD i && f i
def Group.allEm (g : Group) (f : Nat → Bool) : Bool := lanes.all fun i => !g.em.getLsbD i || f i

/-- A register target: a misaligned one traps (R141). -/
def Ctx.jumpTo (c : Ctx) (target : DWord) (g : Group) : Res :=
  if target.toNat % 4 ≠ 0 then .trap c.s ⟨0x12, target⟩ else .jump (c.put g) target

/-- The whisk group has a batch open: a method that returns so has trapped (R311). -/
def Ctx.batchOpen (c : Ctx) : Bool := isWhisk c.gid && ((Table.get? c.P.run.homes c.gid).bind Home.batch).isSome

def execNop (s : State) : Host.Outcome State Fault Refusal := issue .nop s fun c => .done c.s
def execBra (o : BitVec 24) (s : State) : Host.Outcome State Fault Refusal := issue (.bra o) s fun c => c.branch true o
def execCall (l : SReg) (o : BitVec 19) (s : State) : Host.Outcome State Fault Refusal :=
  issue (.call l o) s fun c => .jump (c.put (c.g.setS l (c.g.pc + 4))) (c.target o)
def execCallr (d a : SReg) (s : State) : Host.Outcome State Fault Refusal :=
  issue (.callr d a) s fun c => c.jumpTo (c.g.sreg a) (c.g.setS d (c.g.pc + 4))
def execJr (a : SReg) (s : State) : Host.Outcome State Fault Refusal :=
  issue (.jr a) s fun c =>
    if c.g.sreg a = dispatchReturn ∧ c.batchOpen then .trap c.s (trapOf 1 (wordOf (.jr a))) else c.jumpTo (c.g.sreg a) c.g
def execBrany (q : QReg) (n : Bool) (o : BitVec 20) (s : State) : Host.Outcome State Fault Refusal :=
  issue (.brany q n o) s fun c => c.branch (c.g.anyEm (c.g.test q n)) o
def execBrall (q : QReg) (n : Bool) (o : BitVec 20) (s : State) : Host.Outcome State Fault Refusal :=
  issue (.brall q n o) s fun c => c.branch (c.g.allEm (c.g.test q n)) o
def execBrnone (q : QReg) (n : Bool) (o : BitVec 20) (s : State) : Host.Outcome State Fault Refusal :=
  issue (.brnone q n o) s fun c => c.branch (!c.g.anyEm (c.g.test q n)) o
def execBz (a : SReg) (o : BitVec 19) (s : State) : Host.Outcome State Fault Refusal :=
  issue (.bz a o) s fun c => c.branch (c.g.sreg a == 0) o
def execBnz (a : SReg) (o : BitVec 19) (s : State) : Host.Outcome State Fault Refusal :=
  issue (.bnz a o) s fun c => c.branch (c.g.sreg a != 0) o

/-! ## The mask stack (R18, R143, R144) -/

def execEmand (q : QReg) (n : Bool) (s : State) : Host.Outcome State Fault Refusal :=
  issue (.emand q n) s fun c =>
    if 16 ≤ c.g.stack.length then .trap c.s (trapOf 7 0)
    else c.finish { c.g with
      stack := c.g.em :: c.g.stack
      em := c.g.em &&& BitVec.ofNat 32 (laneMask' (c.g.test q n)) }
where
  /-- The mask of the lanes that satisfy a test. -/
  laneMask' (f : Nat → Bool) : Nat := lanes.foldl (fun m i => m + bit (f i) * 2 ^ i) 0

def execEmelse (s : State) : Host.Outcome State Fault Refusal :=
  issue .emelse s fun c => match c.g.stack with
    | [] => .trap c.s (trapOf 7 1)
    | top :: _ => c.finish { c.g with em := top &&& ~~~c.g.em }
def execEmpop (s : State) : Host.Outcome State Fault Refusal :=
  issue .empop s fun c => match c.g.stack with
    | [] => .trap c.s (trapOf 7 1)
    | top :: rest => c.finish { c.g with em := top, stack := rest }
def execEmrd (d : SReg) (s : State) : Host.Outcome State Fault Refusal :=
  issue (.emrd d) s fun c => c.finish (c.g.setS d (BitVec.ofNat 64 (c.g.em.toNat + c.g.stack.length * 2 ^ 32)))
def execEmwr (a : SReg) (s : State) : Host.Outcome State Fault Refusal :=
  issue (.emwr a) s fun c => c.finish { c.g with em := loWord (c.g.sreg a) }

/-! ## MODE and PERM (R21, R25, R145) -/

/-- A value that MODE cannot take. -/
def badMode (x : DWord) : Bool := decide (2 ^ 16 ≤ x.toNat) || decide (6 ≤ field x 5 3)

def execMode (m : BitVec 16) (s : State) : Host.Outcome State Fault Refusal :=
  issue (.mode m) s fun c => c.finish { c.g with mode := m.setWidth 24 }
def execPmode (p : BitVec 15) (s : State) : Host.Outcome State Fault Refusal :=
  issue (.pmode p) s fun c => c.finish ({ c.g with perm := p.setWidth 24 }.mend permWord)
def execModer (a : SReg) (s : State) : Host.Outcome State Fault Refusal :=
  issue (.moder a) s fun c =>
    let x := c.g.sreg a
    if badMode x then .trap c.s ⟨2, x⟩ else c.finish { c.g with mode := BitVec.ofNat 24 x.toNat }

/-! ## Traps (R151 to R153) -/

def execTrap (i : BitVec 16) (s : State) : Host.Outcome State Fault Refusal :=
  issue (.trap i) s fun c => .after c.s ⟨8, i.setWidth 64⟩
def execBrk (s : State) : Host.Outcome State Fault Refusal := issue .brk s fun c => .after c.s ⟨9, 0⟩
def execTret (s : State) : Host.Outcome State Fault Refusal :=
  issue .tret s fun c => c.closed fun c =>
    if !c.g.inTrap then .trap c.s (trapOf 1 (wordOf .tret + 2 ^ 32))
    else if badMode (c.g.tmode.setWidth 64) then .trap c.s ⟨2, c.g.tmode.setWidth 64⟩
    else if c.g.tpc.toNat % 4 ≠ 0 then .trap c.s ⟨0x12, c.g.tpc⟩
    else .jump (c.put c.g.returned) c.g.tpc

/-! ## Index registers (R13, R146) -/

/-- A write of an index register in the active lanes, refused when a value is outside 0 to 63. -/
def Ctx.setIndex (c : Ctx) (k : XReg) (f : Nat → Int) : Res :=
  match c.g.actives.find? fun i => decide (f i < 0) || decide (63 < f i) with
  | some i => .trap c.s (trapOf 5 (i + k.toNat * 2 ^ 12 + 2 ^ 15 + wrapNat 32 (f i) * 2 ^ 32))
  | none => c.checked ((c.g.actives.foldl (fun g i =>
      { g with xi := Cells.set 0 g.xi (32 * k.toNat + i) (BitVec.ofInt 6 (f i)) }) c.g).mendLanes (indexWord k.toNat) 8 c.g.actives)

def execXset (k : XReg) (v : VReg) (i : BitVec 14) (s : State) : Host.Outcome State Fault Refusal :=
  issue (.xset k v i) s fun c => c.setIndex k fun l => (c.g.vreg v.toNat l).toInt + i.toInt
def execXadd (k : XReg) (i : BitVec 14) (s : State) : Host.Outcome State Fault Refusal :=
  issue (.xadd k i) s fun c => c.setIndex k fun l => (c.g.index k.toNat l : Int) + i.toInt
def execXbnd (k : XReg) (l h : BitVec 6) (s : State) : Host.Outcome State Fault Refusal :=
  issue (.xbnd k l h) s fun c =>
    c.checked ((c.g.actives.foldl (fun g i =>
      { g with
        xlo := Cells.set 0 g.xlo (32 * k.toNat + i) l
        xhi := Cells.set (BitVec.ofNat 6 (c.n - 1)) g.xhi (32 * k.toNat + i) h }) c.g).mendLanes (boundWord k.toNat) 4 c.g.actives)
def execXrd (k : XReg) (d : VReg) (s : State) : Host.Outcome State Fault Refusal :=
  issue (.xrd k d) s fun c =>
    c.checked (c.g.putLanes false d (c.g.actives.map fun i =>
      (i, (c.g.index k.toNat i + c.g.lower k.toNat i * 2 ^ 8 + c.g.upper c.n k.toNat i * 2 ^ 16, 0))))

/-! ## Choice sites, services, anchoring (R147 to R149, R369, R379) -/

/-- A `choose` takes a value: its ordinal rises. -/
def Ctx.chosen (c : Ctx) (d : SReg) (v : Nat) : Res :=
  c.finish { (c.g.setS d (BitVec.ofNat 64 v)) with chooseN := c.g.chooseN + 1 }

/-- The decision of a `choose` with a bound of 2 or more, by the partition's mode. -/
def Ctx.decideChoice (c : Ctx) (d : SReg) (b : Nat) : Res :=
  let n := c.g.chooseN
  let id := chooseId ((c.team?.map Team.tidx).getD 0) (gidGroup c.gid)
  if c.P.mode = mRECORD then
    if c.P.canStage (some c.tk) .choose id then
      (c.reload (c.s.stage c.p c.tk ⟨.choose, id, n, mkRecord .choose false false 1 0⟩)).chosen d 0
    else .wait c.s .host
  else if c.P.mode = mSTEERED then
    let exhausted : Res :=
      let c := c.setP (c.P.exhaust .choose id n)
      if c.P.choice.pol then c.chosen d 0 else .wait c.s (.gate .choose id n)
    match c.P.choice.steer .choose id with
    | .unsteered => c.chosen d 0
    | .exhausted => exhausted
    | .named r =>
      if recVal r < b then (c.setP { c.P with choice := c.P.choice.advance .choose id }).chosen d (recVal r) else exhausted
  else if c.P.mode = mEXPLORE then
    match c.g.stage with
    | .chosen v => c.chosen d v
    | _ => .wait (c.put { c.g with stage := .choosing b }) (.gate .choose id n)
  else c.chosen d 0

def execChoose (d a : SReg) (s : State) : Host.Outcome State Fault Refusal :=
  issue (.choose d a) s fun c => c.outside (.choose d a) fun c =>
    let b := (c.g.sreg a).toNat
    if b = 0 ∨ 2 ^ 32 < b then .trap c.s ⟨2, c.g.sreg a⟩
    else if c.P.mode = mEXPLORE ∧ 256 < b then .trap c.s ⟨0x26, c.g.sreg a⟩
    else if b = 1 then c.finish (c.g.setS d 0)
    else c.decideChoice d b

def execAnch (s : State) : Host.Outcome State Fault Refusal :=
  issue .anch s fun c => c.outside .anch fun c => .done (c.s.anchor c.p c.tk)

/-- `ccall`: the request is made; the answer of the service completes the instruction (R149). -/
def execCcall (i : BitVec 16) (s : State) : Host.Outcome State Fault Refusal :=
  issue (.ccall i) s fun c => c.outside (.ccall i) fun c =>
    match c.g.stage with
    | .fresh => c.closed fun c =>
      let c := c.reload (c.s.anchor c.p c.tk)
      .wait (c.put { c.g with stage := .asked i }) .host
    | _ => .wait c.s .host

/-! ## System registers (R33 to R35, R150) -/

/-- Die and core as CORE shows them: physical in FREE mode, the logical position otherwise (R33, R327). -/
def Ctx.coreWord (c : Ctx) : Nat :=
  if c.P.mode = mFREE then c.P.coreOf c.gid % 128
  else match c.team? with
    | none => 0
    | some t => match c.P.launchOf t with
      | none => 0
      | some l => 4 * (t.y % l.kernel.height) + t.x % l.kernel.width

/-- Three coordinates packed as in TXYZ (R33). -/
def packXyz (x y z : Nat) : Nat := x + y * 2 ^ 21 + z * 2 ^ 42

/-- CLPOS (R33, R285). -/
def Ctx.clpos (c : Ctx) : Nat :=
  match c.team? with
  | none => 0
  | some t => match c.P.launchOf t with
    | none => 0
    | some l =>
      t.x % l.kernel.width + t.y % l.kernel.height * 4 + (l.kernel.width - 1) * 16 + (l.kernel.height - 1) * 64

/-- What `sysrd` reads from a register of the table of R33. -/
def Ctx.sysreg (c : Ctx) (n : Nat) : DWord :=
  match n with
  | 0x00 => BitVec.ofNat 64 (if isWhisk c.gid then 0 else gidGroup c.gid)
  | 0x01 => BitVec.ofNat 64 ((c.team?.map Team.tidx).getD 0)
  | 0x02 => BitVec.ofNat 64 ((c.team?.map fun t => packXyz t.x t.y t.z).getD 0)
  | 0x03 => BitVec.ofNat 64 c.clpos
  | 0x04 => BitVec.ofNat 64 (((c.team?.bind c.P.launchOf).map fun l => packXyz l.gx l.gy l.gz).getD 0)
  | 0x05 => BitVec.ofNat 64 c.coreWord
  | 0x06 => if c.P.mode = mFREE then Config.clock c.s.tick else c.g.retired
  | 0x07 => c.g.stat.setWidth 64
  | 0x08 => c.g.seed.setWidth 64
  | 0x09 => c.g.tvec
  | 0x0A => c.g.tpc
  | 0x0B => c.g.tcause.setWidth 64
  | 0x0C => c.g.tinfo
  | 0x0D => c.g.tmode.setWidth 64
  | 0x0E => c.g.tem.setWidth 64
  | 0x0F => c.g.nanct
  | 0x10 => (c.team?.map Team.hash).getD 0
  | 0x11 => BitVec.ofNat 64 (bit (c.team?.any Team.anch))
  | 0x12 => BitVec.ofNat 64 (c.g.closed % 65536)
  | 0x13 => c.p.setWidth 64
  | 0x14 => BitVec.ofNat 64 c.P.mode
  | _ => (c.team?.map Team.energy).getD 0

def execSysrd (n : BitVec 8) (d : SReg) (s : State) : Host.Outcome State Fault Refusal :=
  issue (.sysrd n d) s fun c =>
    if 0x80 ≤ n.toNat then .trap c.s (trapOf 0x11 n.toNat)
    else if 0x16 ≤ n.toNat then .trap c.s (trapOf 2 n.toNat)
    else c.closed fun c => c.finish (c.g.setS d (c.sysreg n.toNat))

/-- A write of a system register; none where a bit that shall be zero is set (R34, R150). Its word is written whole (R275). -/
def Group.sysWrite (g : Group) (n : Nat) (x : DWord) : Option Group :=
  match n with
  | 0x07 => if 2 ^ 6 ≤ x.toNat then none else some ({ g with stat := loWord x }.mend statWord)
  | 0x08 => some ({ g with seed := loWord x, ctr := 0 }.mend seedWord)
  | 0x09 => if x.toNat % 4 ≠ 0 ∨ !canonical x then none else some ({ g with tvec := x }.mend tvecWord)
  | 0x0A => some ({ g with tpc := x }.mend tpcWord)
  | 0x0B => if 2 ^ 8 ≤ x.toNat then none else some ({ g with tcause := BitVec.ofNat 8 x.toNat }.mend tcauseWord)
  | 0x0C => some ({ g with tinfo := x }.mend tinfoWord)
  | 0x0D => if 2 ^ 24 ≤ x.toNat then none else some ({ g with tmode := BitVec.ofNat 24 x.toNat }.mend tmodeWord)
  | 0x0E => if 2 ^ 32 ≤ x.toNat then none else some ({ g with tem := loWord x }.mend temWord)
  | _ => some ({ g with nanct := x }.mend nanctWord)

/-- The registers that `syswr` may write (R33). -/
def sysWritable (n : Nat) : Bool := decide (0x07 ≤ n) && decide (n ≤ 0x0F)

def execSyswr (n : BitVec 8) (a : SReg) (s : State) : Host.Outcome State Fault Refusal :=
  issue (.syswr n a) s fun c =>
    if 0x80 ≤ n.toNat then .trap c.s (trapOf 0x11 n.toNat)
    else if 0x16 ≤ n.toNat then .trap c.s (trapOf 2 n.toNat)
    else if !sysWritable n.toNat then .trap c.s (trapOf 0x11 n.toNat)
    else c.closed fun c => match c.g.sysWrite n.toNat (c.g.sreg a) with
      | none => .trap c.s (trapOf 2 n.toNat)
      | some g => c.finish g

/-! ## Matrix batches (R245) -/

/-- The group has operations that no `mfence` has closed. -/
def Part.openBatch (P : Part) (gid : Nat) (g : Group) : Bool :=
  (P.core? (P.coreOf gid)).any fun c => c.matrix.any fun m => m.gid == gid && m.bno == g.closed + 1

/-- Recompute which batches of a group are complete: those below its first operation that has not finished. NANCT takes the
counts of those that have become so. -/
def Part.refreshBatches (P : Part) (gid : Nat) : Part :=
  let undone := ((P.core? (P.coreOf gid)).map fun c =>
    (c.matrix.filter fun m => m.gid == gid && m.bno != 0 && !m.done).map MatrixOp.bno).getD []
  P.modGroup gid fun g =>
    let n := (undone.map fun b => b - 1).foldl min g.closed
    let nans := (List.range (n - g.complete)).foldl (fun a j => a + Table.getD g.nans (g.complete + 1 + j) 0) 0
    { g with complete := n, nanct := g.nanct + BitVec.ofNat 64 nans }

/-- Close the open operations into a batch; counts of batches that `nanc` no longer tells are dropped (R254). -/
def Part.closeBatch (P : Part) (gid : Nat) : Part :=
  (P.modGroup gid fun g =>
    { g with closed := g.closed + 1, nans := g.nans.filter fun e => decide (g.complete < e.1 ∨ g.closed < e.1 + 16) }).refreshBatches gid

/-! ## The end of a group (R142, R260, R329, R335) -/

/-- A uniform-writer trap of a group that is due for a phase that satisfies a test (R31). -/
def Team.dueFor (t : Team) (grp : Nat) (f : Nat → Bool) : Option UniformDue :=
  t.kdue.find? fun u => u.grp == grp && f u.ord
/-- The trap is taken, so it is due no longer. -/
def Part.undue (P : Part) (tk : Nat) (u : UniformDue) : Part := P.modTeam tk fun t => { t with kdue := t.kdue.erase u }

/-- Faults held for a group's paths, in the order in which `exit` takes them. -/
def Group.heldFirst (g : Group) : Option HeldFault := (sortBy (fun h => pathCode h.path) g.held).head?

/-- What an `exit` that delivers one held fault leaves held is taken by a later `exit` (R142 step 5). -/
def Group.leaveHeld (g : Group) : Group := { g with held := g.held.map fun h => { h with left := true } }

/-- The team of a cluster whose last group has ended drops from the cluster barriers, and the last of these teams drops the
cluster from the grid barriers (R260). -/
def State.dropTeam (s : State) (p : PartNo) (tk : Nat) : State :=
  match (s.part? p).bind fun P => (P.team? tk).map fun t => (P, t) with
  | none => s
  | some (P, t) =>
    let s := (List.range 8).foldl (fun s b => s.implyDrop p tk 1 b t.rank) s
    let last := (Table.get? P.run.clusters t.cluster).any fun c =>
      c.teams.all fun k => k == tk || (match P.team? k with
        | some u => u.ended.isSome
        | none => true)
    match P.launchOf t with
    | some l =>
      if last && l.coresident then (List.range 4).foldl (fun s b => s.implyDrop p tk 2 b (l.clusterIndex t)) s else s
    | none => s

/-- Step 8 of `exit`, and the end of the team with its last group. -/
def State.endGroup (s : State) (p : PartNo) (gid : Nat) (pc : DWord) : State :=
  let tk := gidTeam gid
  let s := s.modGroup p gid fun g => { Group.initial pc 0 0 with run := .ended, retired := g.retired + 1 }
  let s := s.modPart p fun P => P.modCore (P.coreOf gid) fun c =>
    { c with matrix := c.matrix.filter fun m => m.gid != gid || m.bno == 0 }
  match (s.part? p).bind fun P => P.team? tk with
  | none => s
  | some t =>
    if t.groups.all fun e => e.2.run == .ended then
      let s := s.modTeam p tk fun t => { t with ended := some (gidGroup gid, pc) }
      (s.dropTeam p tk).modPart p fun P => P.freeEngines tk
    else s

/-- Steps 7 and 8 of `exit`. -/
def Ctx.leave (c : Ctx) : Res :=
  let s := (List.range 15).foldl (fun s b => s.implyDrop c.p c.tk 0 (b + 1) (gidGroup c.gid)) c.s
  .gone (s.endGroup c.p c.gid c.g.pc)

/-- Step 6 of `exit`, after the drop from team barrier 0 in the phase with this ordinal. -/
def Ctx.exitDropped (c : Ctx) (ord : Nat) : Res :=
  match c.team? with
  | none => .gone c.s
  | some t =>
    if (c.P.bar t 0 0).ord ≤ ord then .wait c.s (.barrier 0 0 (ord % 16))
    else match t.dueFor (gidGroup c.gid) (fun o => o == ord) with
      | some u => .trap (c.setP (c.P.undue c.tk u)).s u.trap
      | none => c.leave

/-- Step 6 of `exit`. A group that has already dropped leaves the barrier untouched, and waits for the phase in which it has
written all the same, so that every write is settled before its group ends (R31); a phase that no member is left to complete
settles nothing (notes/assumptions/19.md). -/
def Ctx.exitDrop (c : Ctx) : Res :=
  match c.team? with
  | none => .gone c.s
  | some t =>
    let b := c.P.bar t 0 0
    let grp := gidGroup c.gid
    let wrote := t.kwrites.any fun w => w.grp == grp
    if b.subscribed grp then
      let c := c.reload ((c.setG { c.g with stage := .arrived b.ord }).s.implyDrop c.p c.tk 0 0 grp)
      if wrote then c.exitDropped b.ord else c.leave
    else if wrote && b.running then (c.setG { c.g with stage := .arrived b.ord }).exitDropped b.ord
    else c.leave

/-- `exit` (R142). While it waits in steps 2 to 4, step 1 is tested again: a trap of R31 that becomes due meanwhile is taken there,
and no drop has been made (notes/assumptions/97.md). -/
def Ctx.exit (c : Ctx) : Res :=
  match c.g.stage with
  | .arrived ord => c.exitDropped ord
  | _ =>
    match c.team?.bind fun t => t.dueFor (gidGroup c.gid) (fun _ => true) with
    | some u => .trap (c.setP (c.P.undue c.tk u)).s u.trap
    | none => c.closed fun c =>
      let c := if c.P.openBatch c.gid c.g then c.setP (c.P.closeBatch c.gid) else c
      if !c.g.inflight.isEmpty || c.g.complete ≠ c.g.closed then .wait c.s .inFlight
      else match c.g.heldFirst with
        | some h => .trap (c.put (c.g.unhold h).leaveHeld) h.trap
        | none => c.exitDrop

def execExit (s : State) : Host.Outcome State Fault Refusal :=
  issue .exit s fun c => c.outside .exit fun c => c.exit

end Sys2Proof.Machine
end

