-- ==== Sys2Proof/Machine/Scratch.lean ====
section
/-!
DEFINITION. The scratchpad (spec/08 R170 to R173, spec/09 R207 to R210) and transaction barriers (R183 to R186, R217 to R220).
-/
namespace Sys2Proof.Machine

/-! ## Slots that a team reaches (R207) -/

/-- How a group reaches a slot. -/
inductive Reach where
  /-- Private or tagged, with its STATE. -/
  | own (state : Nat)
  /-- A crock slot: directory index and number in the crock, attached for reading, being created, or attached for writing. -/
  | reading (dir j : Nat)
  | fresh (dir j : Nat)
  | writing (dir j : Nat)
  | none
  deriving DecidableEq, Repr

def Part.tag? (P : Part) (core slot : Nat) : Option Tag := (P.core? core).bind fun c => Table.get? c.tags slot

/-- How the group reaches a slot. DEDUCED: a crock is attached for the team once its `ckopen` has completed, so that its slots are
reached only then (notes/assumptions/115.md). -/
def Ctx.reach (c : Ctx) (slot : Nat) : Reach :=
  if isWhisk c.gid then (if whiskSlot ≤ slot then .own 1 else .none)
  else match c.team?, c.P.tag? (c.P.coreOf c.gid) slot with
    | some t, some g =>
      if 1 ≤ g.state.toNat ∧ g.state.toNat ≤ 3 then (if g.owner.toNat = t.slot then .own g.state.toNat else .none)
      else if g.state.toNat = 4 then
        match t.attaches.find? fun a => a.dir == g.owner.toNat && a.result.isSome with
        | none => .none
        | some a =>
          if a.mode = 0 then .reading a.dir g.link.toNat
          else if a.created && !a.sealed then .fresh a.dir g.link.toNat
          else .writing a.dir g.link.toNat
      else .none
    | _, _ => .none

/-- The physical slot in which a load finds a slot's bytes: the shadow once one exists (R176). -/
def Ctx.loadSlot (c : Ctx) (slot : Nat) : Nat :=
  match c.reach slot with
  | .writing dir j => match (c.team?.bind fun t => t.attaches.find? fun a => a.dir == dir).bind fun a => Table.get? a.shadows j with
    | some s => s
    | none => slot
  | _ => slot

/-- Prepare a slot for a store: a tagged-clean slot becomes dirty (R172), a crock slot takes its shadow (R176). -/
def Ctx.storeReady (c : Ctx) (slot : Nat) : Ctx :=
  let core := c.P.coreOf c.gid
  match c.reach slot with
  | .own 2 => c.setP (c.P.modCore core fun k => { k with tags := Table.modify k.tags slot fun g => { g with state := 3 } })
  | .writing dir j =>
    match c.team?.bind fun t => t.attaches.find? fun a => a.dir == dir with
    | none => c
    | some a => match Table.get? a.shadows j, a.spare with
      | none, sh :: rest =>
        let P := c.P.modCore core fun k =>
          let k := k.copySlot slot sh
          { k with tags := Table.modify k.tags sh fun g => { g with link := BitVec.ofNat 8 slot } }
        c.setP (P.modTeam c.tk fun t => { t with
          attaches := t.attaches.map fun b => if b.dir = dir then { b with shadows := Table.set b.shadows j sh, spare := rest } else b })
      | _, _ => c
  | _ => c

/-- A store of bytes into the physical scratchpad; double words written whole lose their poison (R275). -/
def Core.poke (c : Core) (addr : Nat) (bs : List Byte) : Core :=
  { c with
    scratch := Cells.setMany 0 c.scratch addr bs
    spoison := removeRange c.spoison ((addr + 7) / 8) ((addr + bs.length) / 8)
    written := (touched 4096 addr bs.length).foldl insertNum c.written }

/-- The pieces of a range by slot: slot, offset, length. -/
def slotPieces (addr len : Nat) : List (Nat × Nat × Nat) :=
  (touched 4096 addr len).map fun s =>
    let lo := max addr (s * 4096)
    (s, lo % 4096, min (addr + len) (s * 4096 + 4096) - lo)

/-- Read bytes through the reach of the group. -/
def Ctx.peek (c : Ctx) (addr len : Nat) : List Byte :=
  match c.P.core? (c.P.coreOf c.gid) with
  | none => []
  | some k => ((slotPieces addr len).map fun p => Cells.getMany 0 k.scratch (c.loadSlot p.1 * 4096 + p.2.1) p.2.2).flatten
/-- The tag of a slot of a range is poisoned, so that an engine that reads or writes there consumes it (R273). -/
def Ctx.tagPoison (c : Ctx) (addr len : Nat) : Bool :=
  (c.P.core? (c.P.coreOf c.gid)).any fun k => !k.cpoison.isEmpty && (touched 4096 addr len).any k.cpoison.contains

/-- Some byte of a range, or the tag of its slot, is poisoned. -/
def Ctx.peekPoison (c : Ctx) (addr len : Nat) : Bool :=
  c.tagPoison addr len || (c.P.core? (c.P.coreOf c.gid)).any fun k => !k.spoison.isEmpty && (slotPieces addr len).any fun p =>
    (touched 8 (c.loadSlot p.1 * 4096 + p.2.1) p.2.2).any fun d => k.spoison.contains d

/-- Store bytes through the reach of the group; what it does not reach is not stored. -/
def Ctx.poke (c : Ctx) (addr : Nat) (bs : List Byte) : Ctx :=
  (slotPieces addr bs.length).foldl (fun c p =>
    match c.reach p.1 with
    | .none => c
    | _ =>
      let c := c.storeReady p.1
      let part := (bs.drop (p.1 * 4096 + p.2.1 - addr)).take p.2.2
      c.setP (c.P.modCore (c.P.coreOf c.gid) fun k => k.poke (c.loadSlot p.1 * 4096 + p.2.1) part)) c

/-! ## Checks of R198 on the scratchpad side -/

/-- TINFO of a scratchpad address (R198). -/
def padInfo (addr : Int) (lane kind : Nat) : DWord := BitVec.ofNat 64 (wrapNat 20 addr + lane * 2 ^ 56 + kind * 2 ^ 61)

/-- Orders 7c, 7d and 7g for a range: outside the slots, a guard, a store into a crock attached for reading. DESIGN CHOICE: the faulting address
of a range (R198, R229, R289) is its first byte where it passes the end of the scratchpad, else its first byte in the first slot, or the first
granule, that fails (notes/assumptions/125.md). -/
def Ctx.padError (c : Ctx) (store : Bool) (order : Nat) (addr : Int) (len lane : Nat) : Option Trap :=
  let kind := bit store
  if addr < 0 ∨ 2 ^ 20 < addr + len then (if order = 0 then some ⟨0x13, padInfo addr lane kind⟩ else none)
  else
    let a := addr.toNat
    match order with
    | 0 => ((slotPieces a len).find? fun p => c.reach p.1 == .none).map fun p => ⟨0x13, padInfo (p.1 * 4096 + p.2.1 : Nat) lane kind⟩
    | 1 =>
      if store then
        let guards := ((c.P.core? (c.P.coreOf c.gid)).map Core.guards).getD []
        ((touched 16 a len).find? fun g => guards.contains g).map fun g => ⟨0x14, padInfo (max a (16 * g) : Nat) lane kind⟩
      else none
    | _ =>
      if store then ((slotPieces a len).find? fun p => match c.reach p.1 with
          | .reading _ _ => true
          | _ => false).map fun p => ⟨0x11, padInfo (p.1 * 4096 + p.2.1 : Nat) lane kind⟩
      else none

/-- The first lane, in one order, that fails. -/
def Ctx.padCheck (c : Ctx) (store : Bool) (order len : Nat) (items : List (Nat × Int)) : Option Trap :=
  firstSome (fun (e : Nat × Int) => c.padError store order e.2 len e.1) items

/-! ## Scratchpad loads and stores (R207) -/

/-- Each active lane with its scratchpad address, formed without wrap-around. -/
def Ctx.padAddrs (c : Ctx) (a : VReg) (off : BitVec 8) (size : Nat) : List (Nat × Int) :=
  c.g.actives.map fun i => (i, ((c.g.vreg a.toNat i).toNat % 2 ^ 20 : Nat) + off.toInt * size)

/-- All checks of a scratchpad access per lane. -/
def Ctx.padChecks (c : Ctx) (store : Bool) (size : Nat) (items : List (Nat × Int)) : Option Trap :=
  match items.find? fun e => e.2 % (size : Int) != 0 with
  | some e => some ⟨0x12, padInfo e.2 e.1 (bit store)⟩
  | none => firstSome (fun o => c.padCheck store o size items) [0, 1, 2]

def Ctx.padLoad (c : Ctx) (d a : VReg) (l : La) (off : BitVec 8) (size : Nat) : Res :=
  let items := c.padAddrs a off size
  match c.padChecks false size items with
  | some t => .trap c.s t
  | none =>
    if items.any fun e => c.peekPoison e.2.toNat size then .gone (c.s.consumeBy c.p c.gid 3 srcCore 0)
    else
      let words := items.map fun e => (e.1, c.peek e.2.toNat size)
      let g := (List.range (size / 4)).foldl (fun g j =>
        g.writeV (d.toNat + j) (words.map fun w => (w.1, BitVec.ofNat 32 (leNat ((w.2.drop (4 * j)).take 4))))) c.g
      c.finish (g.open l true ((List.range (size / 4)).map fun j => d.toNat + j) [] 0)

def Ctx.padStore (c : Ctx) (d a : VReg) (off : BitVec 8) (size : Nat) : Res :=
  let items := c.padAddrs a off size
  match c.padChecks true size items with
  | some t => .trap c.s t
  | none => .done (items.foldl (fun c' e =>
      c'.poke e.2.toNat (((List.range (size / 4)).map fun j => leBytes 4 (c.g.vreg (d.toNat + j) e.1).toNat).flatten)) c).s

def execLds (d a : VReg) (l : La) (o : BitVec 8) (s : State) : Host.Outcome State Fault Refusal :=
  issue (.lds d a l o) s fun c => c.padLoad d a l o 4
def execLdsq (d a : VReg) (l : La) (o : BitVec 8) (s : State) : Host.Outcome State Fault Refusal :=
  issue (.ldsq d a l o) s fun c => c.padLoad d a l o 16
def execSts (d a : VReg) (l : La) (o : BitVec 8) (s : State) : Host.Outcome State Fault Refusal :=
  issue (.sts d a l o) s fun c => c.padStore d a o 4
def execStsq (d a : VReg) (l : La) (o : BitVec 8) (s : State) : Host.Outcome State Fault Refusal :=
  issue (.stsq d a l o) s fun c => c.padStore d a o 16

/-! ## Transaction barriers (R183 to R186) -/

/-- The fields of an object. -/
structure Tb where
  exp : Nat
  sect : Nat
  pois : Bool
  pend : Nat
  phase : Nat
  deriving DecidableEq, Repr

def Tb.bytes (addr : Nat) (b : Tb) : List Byte :=
  leBytes 16 (b.phase + b.pend * 2 ^ 4 + bit b.pois * 2 ^ 24 + b.sect % 2 ^ 32 * 2 ^ 32 + b.exp * 2 ^ 64 +
    addr / 16 % 2 ^ 16 * 2 ^ 96 + 0x7B5A * 2 ^ 112)

def Tb.ofNum (x : Nat) : Tb :=
  ⟨bitsOf x 83 64, bitsOf x 63 32, bitOf x 24, bitsOf x 23 4, bitsOf x 3 0⟩

/-- The object at a granule of a core, if a `tbinit` guards the granule (R184). -/
def Core.tb? (c : Core) (addr : Nat) : Option Tb :=
  if c.guards.contains (addr / 16) then some (Tb.ofNum (leNat (Cells.getMany 0 c.scratch (addr / 16 * 16) 16))) else none

def Core.setTb (c : Core) (addr : Nat) (b : Tb) : Core := c.poke (addr / 16 * 16) (Tb.bytes addr b)

/-- The phase completes when PEND and SECT are 0 together, unless the object is poisoned (R185, R186). -/
def Tb.settle (b : Tb) : Tb :=
  if !b.pois && b.pend == 0 && b.sect == 0 then { b with phase := (b.phase + 1) % 16, pend := b.exp } else b

/-- The group waits on an object, for a phase that satisfies a test, and has not been released. -/
def Group.waitsOn (g : Group) (addr : Nat) (f : Nat → Bool) : Bool :=
  g.stage != .released && (match g.wait with
    | some (.transaction a p) => a / 16 == addr / 16 && f p
    | _ => false)

/-- A waiter on a phase of an object that has completed is released. -/
def Group.releaseTb (g : Group) (addr phase : Nat) : Group :=
  if g.waitsOn addr (· == phase) then { g with stage := .released } else g
/-- Release every group of a core that waits on the phase (R185). -/
def Part.releaseTb (P : Part) (core addr phase : Nat) : Part :=
  (P.modRun fun r => { r with teams := r.teams.map fun e => (e.1, if e.2.core = core then
    { e.2 with groups := e.2.groups.map fun g => (g.1, g.2.releaseTb addr phase) } else e.2) }).modHome core fun h =>
      { h with grp := h.grp.releaseTb addr phase }

/-- Change an object of a core and settle it: the completion of its phase releases the waiters. The words are read and written
back, which clears no poison (R275). -/
def Part.modTb (P : Part) (core addr : Nat) (f : Tb → Tb) : Part :=
  match (P.core? core).bind fun c => c.tb? addr with
  | none => P
  | some b =>
    let b' := (f b).settle
    let P := P.modCore core fun c => { c.setTb addr b' with spoison := c.spoison }
    if b'.phase = b.phase then P else P.releaseTb core addr b.phase

/-- A group waits on the object. -/
def Part.tbWaiter (P : Part) (core addr : Nat) : Bool :=
  (P.run.teams.any fun e => e.2.core == core && e.2.groups.any fun g => g.2.waitsOn addr fun _ => true) ||
    (Table.get? P.run.homes core).any fun h => h.grp.waitsOn addr fun _ => true

/-- An object's words hold an uncorrectable error, which whatever reads the object consumes (R273). -/
def Core.tbPoison (c : Core) (addr : Nat) : Bool :=
  (c.tb? addr).isSome && (touched 8 (addr / 16 * 16) 16).any c.spoison.contains
def Ctx.tbPoison (c : Ctx) (addr : Nat) : Bool := (c.P.core? (c.P.coreOf c.gid)).any fun k => k.tbPoison addr
/-- The group consumes an uncorrectable error of its core. -/
def Ctx.consumed (c : Ctx) : Res := .gone (c.s.consumeBy c.p c.gid 3 srcCore 0)

/-- Pending work on an object (R184). -/
def Part.tbBusy (P : Part) (core addr : Nat) (b : Tb) : Bool := decide (b.pend < b.exp) || b.sect != 0 || P.tbWaiter core addr

/-- A slot is a private one of the team (R183). -/
def Ctx.privateSlot (c : Ctx) (slot : Nat) : Bool := c.reach slot == .own 1

/-- Some object of a slot has pending work. -/
def Ctx.slotBusy (c : Ctx) (slot : Nat) : Bool :=
  let core := c.P.coreOf c.gid
  (c.P.core? core).any fun k => k.guards.any fun g => g / 256 == slot && (match k.tb? (16 * g) with
    | some b => c.P.tbBusy core (16 * g) b
    | none => false)

/-- An object of a slot holds an uncorrectable error. -/
def Ctx.slotTbPoison (c : Ctx) (slot : Nat) : Bool :=
  (c.P.core? (c.P.coreOf c.gid)).any fun k => k.guards.any fun g => g / 256 == slot && k.tbPoison (16 * g)

/-- The object that `tbarr` and `tbwait` name (R218, R219). -/
def Ctx.tbNamed (c : Ctx) (addr : Nat) : Except Trap Tb :=
  if addr % 16 ≠ 0 then .error ⟨0x12, padInfo addr 0 2⟩
  else
    match (if c.privateSlot (addr / 4096) then (c.P.core? (c.P.coreOf c.gid)).bind fun k => k.tb? addr else none) with
    | none => .error ⟨0x13, padInfo addr 0 2 ||| BitVec.ofNat 64 (2 ^ 63)⟩
    | some b => if b.pois then .error ⟨0x16, padInfo addr 0 2⟩ else .ok b

/-- A scratchpad address in a scalar register (R170). -/
def Group.padReg (g : Group) (r : SReg) : Nat := (g.sreg r).toNat % 2 ^ 20

/-- An instruction that is complete and has written scalar registers: its window protects them (R53). -/
def Ctx.doneS (c : Ctx) (l : La) (rs : List SReg) : Res := c.finish (c.g.open l true [] (rs.map BitVec.toNat) 0)

def execTbinit (x y : SReg) (l : La) (s : State) : Host.Outcome State Fault Refusal :=
  issue (.tbinit x y l) s fun c =>
    let n := c.g.sreg x
    let a := c.g.padReg y
    let core := c.P.coreOf c.gid
    if n = 0 ∨ 2 ^ 20 ≤ n.toNat then .trap c.s ⟨2, n⟩
    else if a % 16 ≠ 0 then .trap c.s ⟨0x12, padInfo a 0 2⟩
    else if !c.privateSlot (a / 4096) then .trap c.s ⟨0x13, padInfo a 0 2⟩
    else if c.tbPoison a then c.consumed
    else if ((c.P.core? core).bind fun k => k.tb? a).any fun b => c.P.tbBusy core a b then .trap c.s ⟨0x15, padInfo a 0 2⟩
    else
      let c := c.setP (c.P.modCore core fun k =>
        { k.setTb a ⟨n.toNat, 0, false, n.toNat, 0⟩ with guards := insertNum k.guards (a / 16) })
      c.doneS l []

/-- A trap of an instruction that names an object; the bit that says the object is poisoned is not read from a word that holds an
uncorrectable error. -/
def Ctx.tbTrap (c : Ctx) (a : Nat) (t : Trap) : Res := if t.cause = 0x16 ∧ c.tbPoison a then c.consumed else .trap c.s t

def execTbarr (x y : SReg) (l : La) (s : State) : Host.Outcome State Fault Refusal :=
  issue (.tbarr x y l) s fun c =>
    let a := c.g.padReg y
    match c.tbNamed a with
    | .error t => c.tbTrap a t
    | .ok b =>
      if c.tbPoison a then c.consumed
      else if b.pend = 0 then .trap c.s ⟨0x20, padInfo a 0 2⟩
      else
        let c := c.setP (c.P.modTb (c.P.coreOf c.gid) a fun b => { b with pend := b.pend - 1 })
        (c.setG (c.g.setS x (BitVec.ofNat 64 b.phase))).doneS l [x]

def execTbwait (x y : SReg) (s : State) : Host.Outcome State Fault Refusal :=
  issue (.tbwait x y) s fun c =>
    let a := c.g.padReg y
    if c.g.stage = .released then .done c.s
    else match c.tbNamed a with
    | .error t => c.tbTrap a t
    | .ok b =>
      let p := (c.g.sreg x).toNat % 16
      if c.tbPoison a then c.consumed
      else if b.phase = p then .wait c.s (.transaction a p) else .done c.s

/-! ## In-flight counters (R220) -/

def pathOf (p : Nat) : Option Path :=
  match p with
  | 0 => some .ld
  | 1 => some .cin
  | 2 => some .cout
  | 3 => some .wcl
  | 4 => some .snd
  | _ => none

def execWcnt (p : BitVec 5) (t : BitVec 8) (s : State) : Host.Outcome State Fault Refusal :=
  issue (.wcnt p t) s fun c => match pathOf p.toNat with
    | none => .done c.s
    | some path =>
      if t.toNat < c.g.count path then .wait c.s .inFlight
      else match c.g.held.find? fun h => h.path = path && (path != .wcl || !(c.g.inflight.any fun e => e.op == h.op)) with
        | some h => .trap (c.put (c.g.unhold h)) h.trap
        | none => .done c.s

/-! ## Tags (R172, R208 to R210) -/

/-- The key of a private slot, and of a crock slot (R171, R208). -/
def privateKey (j : Nat) : DWord := BitVec.ofNat 64 (2 ^ 63 + j)
def crockKey (dir j : Nat) : DWord := BitVec.ofNat 64 (2 ^ 63 + 2 ^ 62 + dir * 64 + j)

/-- The slot that a key names among the entries the team matches. -/
def Ctx.lookup (c : Ctx) (key : DWord) : Option Nat :=
  match c.P.core? (c.P.coreOf c.gid) with
  | none => none
  | some k => (k.tags.find? fun e => match c.reach e.1 with
      | .own _ => e.2.key == key
      | .reading d j => crockKey d j == key
      | .fresh d j => crockKey d j == key
      | .writing d j => crockKey d j == key
      | .none => false).map Prod.fst

def execSlk (x y : SReg) (l : La) (s : State) : Host.Outcome State Fault Refusal :=
  issue (.slk x y l) s fun c =>
    (c.setG (c.g.setS x (BitVec.ofNat 64 ((c.lookup (c.g.sreg y)).getD 0xFFFF)))).doneS l [x]

/-- A copy of the team is still to read or write a slot's bytes (R210, R212). -/
def Ctx.slotCopies (c : Ctx) (slot : Nat) : Bool :=
  c.P.run.ops.any fun e => decide (gidTeam e.2.gid = c.tk) && (match e.2 with
    | .copyIn _ _ _ _ sectors _ => sectors.any fun x => x.1 / 128 == slot
    | .copyOut _ true lines _ _ => lines.any fun l => l.pairs.any fun q => q.2 / 4096 == slot
    | _ => false)

/-- A slot's tag is set, and its guards are cleared. -/
def Ctx.retag (c : Ctx) (slot : Nat) (key : DWord) (state : BitVec 3) : Ctx :=
  c.setP (c.P.modCore (c.P.coreOf c.gid) fun k =>
    { k with
      tags := Table.modify k.tags slot fun g => { g with key := key, state := state }
      guards := k.guards.filter fun g => g / 256 != slot })

def execSfill (x y : SReg) (l : La) (s : State) : Host.Outcome State Fault Refusal :=
  issue (.sfill x y l) s fun c =>
    let key := c.g.sreg y
    let slot := (c.g.sreg x).toNat % 256
    if !canonical key then .trap c.s ⟨2, key⟩
    else if !c.privateSlot slot || isWhisk c.gid then .trap c.s ⟨0x13, padInfo (slot * 4096 : Nat) 0 1⟩
    else if c.slotTbPoison slot then c.consumed
    else if c.slotBusy slot then .trap c.s ⟨0x15, padInfo (slot * 4096 : Nat) 0 1⟩
    else if c.slotCopies slot then .wait c.s .inFlight
    else match c.lookup key with
      | some n => (c.setG (c.g.setS x (BitVec.ofNat 64 (0x10000 + n)))).doneS l [x]
      | none =>
        let c := c.retag slot key 2
        (c.setG (c.g.setS x (BitVec.ofNat 64 slot))).doneS l [x]

/-- The write-back of a tagged-dirty slot: its 32 lines as pieces. -/
def Ctx.writeBack (c : Ctx) (slot : Nat) (key : DWord) (pa : Nat) (obs : Bool) : List ColLine :=
  (List.range 32).map fun j =>
    piece (key.toNat + 128 * j) (pa + 128 * j) obs (c.peek (slot * 4096 + 128 * j) 128)

def execSevict (x : SReg) (f : BitVec 2) (l : La) (s : State) : Host.Outcome State Fault Refusal :=
  issue (.sevict x f l) s fun c =>
    let slot := (c.g.sreg x).toNat % 256
    let tag := c.P.tag? (c.P.coreOf c.gid) slot
    let key := (tag.map Tag.key).getD 0
    let mine := c.reach slot == .own 2 || c.reach slot == .own 3
    let dirty := f = 1 ∧ c.reach slot = .own 3
    let original := privateKey (slot - (c.team?.map Team.runBase).getD 0)
    if 2 ≤ f.toNat then .trap c.s (trapOf 2 f.toNat)
    else if dirty ∧ key.toNat % 4096 ≠ 0 then .trap c.s ⟨0x12, key⟩
    else if !mine then .trap c.s ⟨0x13, padInfo (slot * 4096 : Nat) 0 1⟩
    else if c.slotTbPoison slot then c.consumed
    else if c.slotBusy slot then .trap c.s ⟨0x15, padInfo (slot * 4096 : Nat) 0 1⟩
    else if dirty then
      c.translate .write [(0, key)] [] fun c pas =>
        if c.slotCopies slot then .wait c.s .inFlight
        else if c.peekPoison (slot * 4096) 4096 then .gone (c.s.consumeBy c.p c.gid 3 srcCore 0)
        else match pas with
          | (pa, obs) :: _ => c.store (c.writeBack slot key pa obs) fun c => (c.retag slot original 1).doneS l []
          | [] => .done c.s
    else if c.slotCopies slot then .wait c.s .inFlight
    else (c.retag slot original 1).doneS l []

end Sys2Proof.Machine
end

