-- ==== Sys2Proof/Machine/Copy.lean ====
section
/-!
DEFINITION. Copies between global memory and scratchpad (spec/09_core_memory_instr.md R211 to R216), and the engine steps that
carry them out.
-/
namespace Sys2Proof.Machine

/-! ## Checks and issue (R211) -/

/-- The transaction barrier that a register names. -/
def barrierOf (t : DWord) : Option Nat := if t.getLsbD 63 then none else some (t.toNat % 2 ^ 20)

/-- The named object is initialised, in a private slot. -/
def Ctx.barrierMissing (c : Ctx) : Option Nat → Option Trap
  | none => none
  | some a =>
    if a % 16 == 0 && c.privateSlot (a / 4096) && (((c.P.core? (c.P.coreOf c.gid)).bind fun k => k.tb? a).isSome) then none
    else some ⟨0x13, padInfo a 0 2 ||| BitVec.ofNat 64 (2 ^ 63)⟩

/-- The outcome of a copy's checks; an object whose word holds an uncorrectable error is consumed where its fields are read. -/
def Ctx.barrierChecked (c : Ctx) (bar : Option Nat) (t : Option Trap) (k : Unit → Res) : Res :=
  if bar.any c.tbPoison && t.all fun t => t.cause == 0x16 then c.consumed
  else match t with
    | some t => .trap c.s t
    | none => k ()

/-- The named object is poisoned. -/
def Ctx.barrierPoisoned (c : Ctx) : Option Nat → Option Trap
  | none => none
  | some a =>
    if ((c.P.core? (c.P.coreOf c.gid)).bind fun k => k.tb? a).any Tb.pois then some ⟨0x16, padInfo a 0 2⟩ else none

/-- A lane of a copy: its number, its scratchpad and its global address. -/
structure CopyLane where
  lane : Nat
  pad : Nat
  va : DWord
  deriving DecidableEq, Repr

/-- Orders 7b to 7e of R198 for `cpy` and `cpyo`. -/
def Ctx.copyChecks (c : Ctx) (store : Bool) (size : Nat) (xs : List CopyLane) (bar : Option Nat) : Option Trap :=
  let pads : List (Nat × Int) := xs.map fun x => (x.lane, (x.pad : Int))
  firstTrap
    [firstSome (fun (x : CopyLane) =>
        if x.pad % size ≠ 0 then some ⟨0x12, padInfo x.pad x.lane (bit store)⟩
        else if x.va.toNat % size ≠ 0 then some ⟨0x12, accessInfo x.va.toNat x.lane (bit (!store))⟩
        else none) xs,
      c.padCheck store 0 size pads, c.barrierMissing bar, c.padCheck store 1 size pads, c.barrierPoisoned bar]

/-- The lanes of a `cpy` or `cpyo`. -/
def Ctx.copyLanes (c : Ctx) (d a : VReg) : List CopyLane :=
  c.g.actives.map fun i => ⟨i, (c.g.vreg d.toNat i).toNat % 2 ^ 20, c.g.vpair a.toNat i⟩

/-- The traps of order 7g on the scratchpad side. -/
def Ctx.copyDenied (c : Ctx) (store : Bool) (size : Nat) (xs : List CopyLane) : List (Nat × Trap) :=
  xs.filterMap fun x => (c.padError store 2 x.pad size x.lane).map fun t => (x.lane, t)

/-- Prepare the slots of a range for a store. -/
def Ctx.readySlots (c : Ctx) (addr len : Nat) : Ctx := (touched 4096 addr len).foldl Ctx.storeReady c

/-- The 32-byte sectors of a list of scratchpad bytes, each with its bytes. -/
def sectorsOf (addrs : List Nat) : List (Nat × List Nat) :=
  addrs.foldl (fun (t : Table (List Nat)) a => Table.set t (a / 32) (Table.getD t (a / 32) [] ++ [a])) []

/-- A copy in issues: SECT and CIN rise. -/
def Ctx.startCopyIn (c : Ctx) (l : La) (op : Nat) (bar : Option Nat) (sectors : Nat) : Res :=
  let c := match bar with
    | none => c
    | some a => c.setP (c.P.modTb (c.P.coreOf c.gid) a fun b => { b with sect := b.sect + sectors })
  c.finish ((c.g.raise .cin op).open l true [] [] 0)

/-- Where each scratchpad byte of a `cpy` comes from: the address, the physical address, whether it is observed. The
highest-numbered lane is kept. -/
def copySources (size : Nat) (xs : List (CopyLane × Nat × Bool)) : Table (Nat × Nat × Bool) :=
  xs.foldl (fun t x => (List.range size).foldl (fun t k =>
    Table.set t (x.1.pad + k) (x.1.va.toNat % 2 ^ 56 + k, x.2.1 + k, x.2.2)) t) []

/-- The line reads of a `cpy`: one request for each line, named by its lowest lane (R355). -/
def Ctx.copyReqs (c : Ctx) (op : Nat) (xs : List (CopyLane × Nat × Bool)) (srcs : Table (Nat × Nat × Bool)) : List LineReq :=
  let lines := dedup (srcs.map fun e => e.2.2.1 / 128)
  lines.filterMap fun l =>
    match srcs.filter fun e => e.2.2.1 / 128 == l, xs.filter fun x => x.2.1 / 128 == l with
    | e :: rest, x :: ys =>
      some ⟨c.tk, c.gid, c.P.coreOf c.gid, (x :: ys).map fun y => y.1.lane, c.P.requester c.gid x.1.lane, false, e.2.1 / 128, l, e.2.2.2,
        .read ((e :: rest).map fun f => (f.2.2.1 % 128, f.1)), op, false⟩
    | _, _ => none

def execCpy (d a : VReg) (l : La) (t : SReg) (z : BitVec 3) (s : State) : Host.Outcome State Fault Refusal :=
  issue (.cpy d a l t z) s fun c =>
    let size := 2 ^ (2 + z.toNat)
    let xs := c.copyLanes d a
    let bar := barrierOf (c.g.sreg t)
    c.barrierChecked bar (c.copyChecks true size xs bar) fun _ => c.translate .read (xs.map fun x => (x.lane, x.va)) (c.copyDenied true size xs) fun c pas =>
      c.room .cin fun c =>
      if xs.isEmpty then c.finish ((c.g.passed .cin).open l true [] [] 0)
      else
        let ys := xs.zip pas
        let srcs := copySources size ys
        if srcs.any fun e => c.P.outPending c.gid (e.2.1 / 128) (e.2.2.1 % 128) then .wait c.s .inFlight
        else
        let forwarded := srcs.filterMap fun e => (c.team?.bind fun t => t.forward (e.2.1 / 128) (e.2.2.1 % 128)).map fun b => (e.1, b)
        if srcs.any fun e => c.team?.any fun t => t.forwardPoison (e.2.1 / 128) (e.2.2.1 % 128) then
          .gone (c.s.consumeBy c.p c.gid 3 srcCore 0)
        else
          let c := xs.foldl (fun c x => c.readySlots x.pad size) c
          let (op, P) := c.P.fresh
          let sectors := sectorsOf (srcs.map Prod.fst)
          let P := P.setOp op (.copyIn c.gid bar [] forwarded sectors none)
          let c := c.setP (P.addReqs (c.copyReqs op ys (srcs.filter fun e => !Table.has forwarded e.1)))
          c.startCopyIn l op bar sectors.length

/-- The bytes of a copy out by global address: the highest-numbered lane is kept. -/
def copyTargets (size : Nat) (xs : List (CopyLane × Nat × Bool)) : Table (CopyLane × Nat × Bool × Nat) :=
  xs.foldl (fun t x => (List.range size).foldl (fun t k =>
    Table.set t (x.1.va.toNat + k) (x.1, x.2.1 + k, x.2.2, x.1.pad + k)) t) []

def execCpyo (d a : VReg) (l : La) (z : BitVec 3) (s : State) : Host.Outcome State Fault Refusal :=
  issue (.cpyo d a l z) s fun c => c.outside (.cpyo d a l z) fun c =>
    let size := 2 ^ (2 + z.toNat)
    let xs := c.copyLanes d a
    match c.copyChecks false size xs none with
    | some e => .trap c.s e
    | none => c.translate .write (xs.map fun x => (x.lane, x.va)) [] fun c pas =>
      c.room .cout fun c =>
      if xs.isEmpty then c.finish ((c.g.passed .cout).open l true [] [] 0)
      else
        if xs.any fun x => c.peekPoison x.pad size then .gone (c.s.consumeBy c.p c.gid 3 srcCore 0)
        else
          let targets := copyTargets size (xs.zip pas)
          let lines : Table CopyLine := targets.foldl (fun t e =>
            let k := e.1 / 128
            let old := Table.getD t k ⟨k, some (e.2.2.1 / 128, e.2.2.2.1), []⟩
            Table.set t k { old with pairs := old.pairs ++ [(e.1 % 128, e.2.2.2.2)] }) []
          let data : Table Byte := targets.foldl (fun t e => Table.set t e.2.2.2.2 ((c.peek e.2.2.2.2 1).getD 0 0)) []
          let (op, P) := c.P.fresh
          let c := c.setP (P.setOp op (.copyOut c.gid false (lines.map Prod.snd) data none))
          c.finish ((c.g.raise .cout op).open l true [] [] 0)

/-! ## Tile descriptors (R213, R214) -/

/-- A tile descriptor. -/
structure TileDesc where
  gaddr : DWord
  gstride : DWord
  saddr : Nat
  rows : Nat
  cols : Nat
  esz : Nat
  xf : Nat
  spitch : Nat
  vaddr : DWord
  deriving DecidableEq, Repr

def TileDesc.ofNum (x : Nat) : TileDesc :=
  ⟨BitVec.ofNat 64 x, BitVec.ofNat 64 (x / 2 ^ 64), bitsOf x 147 128, bitsOf x 207 192, bitsOf x 223 208, bitsOf x 226 224,
    bitsOf x 229 227, bitsOf x 271 256, BitVec.ofNat 64 (x / 2 ^ 384)⟩

/-- Bytes of an element, 1 where two elements share a byte. -/
def TileDesc.z (d : TileDesc) : Nat := if d.esz = 3 then 1 else 2 ^ d.esz
/-- RB, the bytes of a global row. -/
def TileDesc.rowBytes (d : TileDesc) : Nat := if d.esz = 3 then d.cols / 2 else d.cols * 2 ^ d.esz

/-- The lowest bit of the lowest field that a descriptor may not hold so; `maxXf` is the greatest XF. DESIGN CHOICE: for XF 2 with ESZ 2 or
3 the field named is XF, bit 227 (notes/assumptions/110.md). -/
def TileDesc.bad (x maxXf : Nat) (version : Bool) : Option Nat :=
  let d := TileDesc.ofNum x
  (([(bitsOf x 191 148 != 0, 148), (d.rows == 0, 192), (d.cols == 0 || (d.esz == 3 && d.cols % 2 == 1), 208),
    (decide (3 < d.esz), 224), (decide (maxXf < d.xf) || (d.xf == 2 && decide (2 ≤ d.esz)), 227), (bitsOf x 255 230 != 0, 230),
    (d.spitch != 0 && decide (d.spitch < d.rowBytes), 256), (bitsOf x 383 272 != 0, 272),
    (!version && bitsOf x 447 384 != 0, 384), (bitsOf x 511 448 != 0, 448)] : List (Bool × Nat)).find? Prod.fst).map Prod.snd

/-- n rounded up to a multiple of m. -/
def roundUp (n m : Nat) : Nat := (n + m - 1) / m * m

/-- The canonical blocked layout (R197): the offset of byte c of row y, for K bytes per row. -/
def blockedOffset (k y c : Nat) : Nat := (y / 8 * (k / 96) + c / 96) * 768 + y % 8 * 96 + c % 96

/-- The operand's rows and bytes per row in scratchpad, padded. -/
def TileDesc.padRows (d : TileDesc) : Nat := roundUp (if d.xf = 2 then d.cols else d.rows) 8
def TileDesc.padBytes (d : TileDesc) : Nat := roundUp (if d.xf = 2 then d.rows * d.z else d.rowBytes) 96
/-- P, the linear row pitch. -/
def TileDesc.pitch (d : TileDesc) : Nat := if d.spitch = 0 then d.rowBytes else d.spitch

/-- The scratchpad offset of byte b of global row y. -/
def TileDesc.place (d : TileDesc) (y b : Nat) : Nat :=
  match d.xf with
  | 0 => y * d.pitch + b
  | 1 => blockedOffset d.padBytes y b
  | _ => blockedOffset d.padBytes (b / d.z) (y * d.z + b % d.z)

/-- The scratchpad ranges of the footprint: an address and a length each. -/
def TileDesc.ranges (d : TileDesc) : List (Nat × Nat) :=
  if d.xf = 0 then (List.range d.rows).map fun y => (d.saddr + y * d.pitch, d.rowBytes)
  else [(d.saddr, d.padRows * d.padBytes)]

/-- A byte of the footprint at this offset is padding. -/
def TileDesc.isPad (d : TileDesc) (o : Nat) : Bool :=
  let blk := o / 768
  let row := blk / (d.padBytes / 96) * 8 + o % 768 / 96
  let byte := blk % (d.padBytes / 96) * 96 + o % 96
  match d.xf with
  | 0 => false
  | 1 => decide (d.rows ≤ row) || decide (d.rowBytes ≤ byte)
  | _ => decide (d.cols ≤ row) || decide (d.rows * d.z ≤ byte)

/-- The 64-bit address of byte b of global row y. -/
def TileDesc.address (d : TileDesc) (y b : Nat) : Nat :=
  (d.gaddr + d.gstride * BitVec.ofNat 64 y + BitVec.ofNat 64 b).toNat

/-- The lines of a tile in increasing address order, each with its bytes' offsets and scratchpad addresses. -/
def TileDesc.lines (d : TileDesc) : List CopyLine :=
  let bytes := (List.range d.rows).map fun y => (List.range d.rowBytes).map fun b => (d.address y b, d.saddr + d.place y b)
  let t : Table (List (Nat × Nat)) := bytes.flatten.foldl (fun t e =>
    Table.set t (e.1 / 128) (Table.getD t (e.1 / 128) [] ++ [(e.1 % 128, e.2)])) []
  t.map fun e => ⟨e.1, none, e.2⟩

/-- The first range that is not within the slots reached. -/
def Ctx.tileReach (c : Ctx) (store : Bool) (d : TileDesc) : Option Trap :=
  firstSome (fun (r : Nat × Nat) =>
    firstTrap [c.padError store 0 r.1 (min r.2 (2 ^ 20 - r.1) : Nat) 0,
      if 2 ^ 20 < r.1 + r.2 then some ⟨0x13, padInfo (max r.1 (2 ^ 20) : Nat) 0 (bit store)⟩ else none]) d.ranges
def Ctx.tileCheck (c : Ctx) (store : Bool) (order : Nat) (d : TileDesc) : Option Trap :=
  firstSome (fun (r : Nat × Nat) => c.padError store order r.1 r.2 0) d.ranges
/-- A byte of the tile in scratchpad lies in a poisoned word, or in a slot whose tag is poisoned; the padding of XF 1 is not copied
(R213). -/
def Ctx.tilePoison (c : Ctx) (d : TileDesc) : Bool := d.lines.any fun l => l.pairs.any fun x => c.peekPoison x.2 1

/-- TINFO of a descriptor's reserved value (R213). -/
def descTrap (addr low : Nat) : Trap := trapOf 2 (addr % 2 ^ 20 + low * 2 ^ 32)

/-- The descriptor at an address, read at issue; `body` gets its 512 bits. -/
def Ctx.descriptor (c : Ctx) (addr : Nat) (body : Nat → Res) : Res :=
  if addr % 64 ≠ 0 then .trap c.s ⟨0x12, padInfo addr 0 0⟩
  else match c.padError false 0 addr 64 0 with
    | some t => .trap c.s t
    | none =>
      if c.peekPoison addr 64 then .gone (c.s.consumeBy c.p c.gid 3 srcCore 0) else body (leNat (c.peek addr 64))

/-- `cpyt` with F = 0. DEDUCED: a byte of its footprint in a slot of a crock attached for reading takes 0x11, as a store there does
by R207, and not 0x13 (notes/assumptions/107.md). -/
def Ctx.tileIn (c : Ctx) (l : La) (d : TileDesc) (bar : Option Nat) : Res :=
  c.barrierChecked bar (firstTrap
    [if d.gaddr.toNat % d.z ≠ 0 then some ⟨0x12, accessInfo d.gaddr.toNat 0 0⟩ else none, c.tileReach true d,
      c.barrierMissing bar, c.tileCheck true 1 d, c.barrierPoisoned bar, c.tileCheck true 2 d]) fun _ => c.room .cin fun c =>
    let c := d.ranges.foldl (fun c r => c.readySlots r.1 r.2) c
    let all := (d.ranges.map fun r => (List.range r.2).map fun k => r.1 + k).flatten
    let zeros : Table Byte := (all.filter fun a => d.isPad (a - d.saddr)).map fun a => (a, 0)
    let sectors := sectorsOf all
    let (op, P) := c.P.fresh
    let c := c.setP (P.setOp op (.copyIn c.gid bar d.lines zeros sectors none))
    c.startCopyIn l op bar sectors.length

/-- `cpyt` with F = 1. -/
def Ctx.tileOut (c : Ctx) (l : La) (d : TileDesc) : Res :=
  match firstTrap
    [if d.gaddr.toNat % d.z ≠ 0 then some ⟨0x12, accessInfo d.gaddr.toNat 0 1⟩ else none, c.tileReach false d] with
  | some t => .trap c.s t
  | none => c.room .cout fun c =>
    let (op, P) := c.P.fresh
    let c := c.setP (P.setOp op (.copyOut c.gid true d.lines [] none))
    c.finish ((c.g.raise .cout op).open l true [] [] 0)

def execCpyt (x y : SReg) (f : BitVec 2) (l : La) (s : State) : Host.Outcome State Fault Refusal :=
  issue (.cpyt x y f l) s fun c =>
    let addr := c.g.padReg x
    let bar := c.g.sreg y
    if 2 ≤ f.toNat then .trap c.s (trapOf 2 f.toNat)
    else if f = 1 then c.outside (.cpyt x y f l) fun c =>
      if bar.getLsbD 63 then c.descriptor addr fun n => match TileDesc.bad n 1 false with
        | some b => .trap c.s (descTrap addr b)
        | none => c.tileOut l (TileDesc.ofNum n)
      else .trap c.s ⟨2, bar⟩
    else c.descriptor addr fun n => match TileDesc.bad n 2 false with
      | some b => .trap c.s (descTrap addr b)
      | none => c.tileIn l (TileDesc.ofNum n) (barrierOf bar)

/-! ## Landing of a copy in (R185, R186, R212, R215) -/

/-- Runs of consecutive bytes. -/
def byteRuns : List (Nat × Byte) → List (Nat × List Byte)
  | [] => []
  | (a, b) :: rest => match byteRuns rest with
    | (a', bs) :: more => if a' = a + 1 then (a, b :: bs) :: more else (a, [b]) :: (a', bs) :: more
    | [] => [(a, [b])]

/-- A copy in is over: CIN falls. -/
def Part.endCopyIn (P : Part) (gid op : Nat) : Part :=
  ((P.dropOp op).modRun fun r => { r with lines := r.lines.filter fun e => e.2.op != op }).modGroup gid fun g => g.lower' .cin op
/-- A copy out is over: COUT falls. -/
def Part.endCopyOut (P : Part) (gid op : Nat) : Part := (P.dropOp op).modGroup gid fun g => g.lower' .cout op

/-- Hold a fault for a path, if there is one. -/
def Part.holdFault (P : Part) (gid op : Nat) (path : Path) (t : Option Trap) : Part :=
  match t with
  | some t => P.modGroup gid fun g => { g with held := g.held ++ [(⟨path, t, op, false⟩ : HeldFault)] }
  | none => P

/-- What stops a copy in (R215): its barrier is poisoned and no longer counts what will not land, or the fault is held. -/
def Part.stopCopyIn (P : Part) (gid op : Nat) (bar : Option Nat) (left : Nat) (t : Option Trap) : Part :=
  let P : Part := match bar with
    | some a => P.modTb (P.coreOf gid) a fun b => { b with pois := true, sect := b.sect - left }
    | none => P.holdFault gid op .cin t
  P.endCopyIn gid op
/-- What stops a copy out (R215). -/
def Part.stopCopyOut (P : Part) (gid op : Nat) (t : Option Trap) : Part := (P.holdFault gid op .cout t).endCopyOut gid op

/-- Stop whichever copy an operation is, with a fault or with an uncorrectable error, of which no trap is delivered (R274). -/
def Part.stopCopy (P : Part) (op : Nat) (t : Option Trap) : Part :=
  match Table.get? P.run.ops op with
  | some (.copyIn gid bar _ _ sectors _) => P.stopCopyIn gid op bar sectors.length t
  | some (.copyOut gid _ _ _ _) => P.stopCopyOut gid op t
  | _ => P

/-- An uncorrectable error in a copy's data, or in its object, stops the copy, and is consumed (R215, R274). -/
def State.breakCopy (s : State) (p : PartNo) (gid op src addr : Nat) : State :=
  (s.modPart p fun P => P.stopCopy op none).consumeBy p gid 3 src addr

/-- The page at which a copy is stopped (R199, R215). -/
def Op.page : Op → Option Nat
  | .copyIn _ _ _ _ _ page => page
  | .copyOut _ _ _ _ page => page
  | _ => none

/-- The lowest address that a piece of a copy touches. -/
def CopyLine.first (l : CopyLine) : Nat := l.vline * 128 + (l.pairs.map Prod.fst).foldl min 127

/-- What becomes of the next line of a copy that is to be translated (R215): the address to use, or a state in which the copy
waits, has stopped, or is gone. -/
def State.copyTranslate (s : State) (p : PartNo) (op : Nat) (c : Ctx) (acc : Acc) (l : CopyLine) :
    Except State (State × Nat × Bool) :=
  let va := l.first
  let vp := va % 2 ^ 56 / 65536
  let stop (cause : BitVec 8) (s : State) : State :=
    s.modPart p fun P => P.stopCopy op (some ⟨cause, accessInfo va 0 acc.code⟩)
  if ((Table.get? c.P.run.ops op).bind Op.page).any c.P.pending then .error s
  else if !canonical (BitVec.ofNat 64 va) then .error (stop 0x10 s)
  else match c.look acc (va % 2 ^ 56) with
    | .invalid m =>
      if c.team?.any fun t => t.marks.contains vp then .error (stop 0x10 (s.clearMarks p c.tk [vp]))
      else
        let s := s.reportFault p vp acc.code m (c.P.requester c.gid 0)
        if !isWhisk c.gid && c.P.discardable c.tk then .error (s.modPart p fun P => P.discard c.tk [vp])
        else .error (s.modPart p fun P => match Table.get? P.run.ops op with
          | some (.copyIn gid bar ls ready sectors _) => P.setOp op (.copyIn gid bar ls ready sectors (some vp))
          | some (.copyOut gid tile ls data _) => P.setOp op (.copyOut gid tile ls data (some vp))
          | _ => P)
    | .denied => .error (stop 0x11 (s.clearMarks p c.tk [vp]))
    | .poisoned a => .error (s.breakCopy p c.gid op (srcOfPa a) a)
    | x =>
      if c.touchHeld acc (va % 2 ^ 56) then .error s
      else .ok ((s.touch p (c.P.coreOf c.gid) acc (va % 2 ^ 56) x).clearMarks p c.tk [vp], x.pa.1 / 128, x.pa.2)

/-- The next line of a tile copy in is translated: forwarded bytes are taken, the others are requested. -/
def State.copyInLine (s : State) (p : PartNo) (op : Nat) (c : Ctx) (bar : Option Nat) (l : CopyLine) (rest : List CopyLine)
    (ready : Table Byte) (sectors : List (Nat × List Nat)) : State :=
  match s.copyTranslate p op c .read l with
  | .error s => s
  | .ok (s, pl, obs) =>
    let c := c.reload s
    let vline := l.vline % 2 ^ 49
    let take (k : Nat) : Option Byte := c.team?.bind fun t => t.forward vline k
    if l.pairs.any fun e => c.P.outPending c.gid vline e.1 then s
    else if l.pairs.any fun e => c.team?.any fun t => t.forwardPoison vline e.1 then s.breakCopy p c.gid op srcCore 0
    else
      let ready := l.pairs.foldl (fun r e => match take e.1 with
        | some b => Table.set r e.2 b
        | none => r) ready
      let left := l.pairs.filter fun e => (take e.1).isNone
      let P := c.P.setOp op (.copyIn c.gid bar rest ready sectors none)
      let r : LineReq := ⟨c.tk, c.gid, P.coreOf c.gid, [0], P.requester c.gid 0, false, vline, pl, obs, .read left, op, false⟩
      s.setPart p (if left.isEmpty then P else P.addReqs [r])

/-- A sector lands: its bytes are stored and SECT falls; after the last one CIN falls. -/
def Ctx.landSector (c : Ctx) (op : Nat) (bar : Option Nat) (lines : List CopyLine) (ready : Table Byte)
    (sectors : List (Nat × List Nat)) (x : Nat × List Nat) : State :=
  if bar.any c.tbPoison || c.tagPoison (x.1 * 32) 32 then c.s.breakCopy c.p c.gid op srcCore 0
  else
  let c := (byteRuns (x.2.map fun a => (a, Table.getD ready a 0))).foldl (fun c r => c.poke r.1 r.2) c
  let left := sectors.filter fun y => y.1 != x.1
  let P := match bar with
    | some a => c.P.modTb (c.P.coreOf c.gid) a fun b => { b with sect := b.sect - 1 }
    | none => c.P
  c.s.setPart c.p (if left.isEmpty then P.endCopyIn c.gid op
    else P.setOp op (.copyIn c.gid bar lines (ready.filter fun e => !x.2.contains e.1) left none))

/-- `COPY_SECTOR_LANDING`: a sector all of whose bytes have come lands; while there is none, the copy translates its next
line. -/
def execCopySectorLanding (p : PartNo) (op : Nat) (s : State) : Host.Outcome State Fault Refusal :=
  .next (match (s.part? p).bind fun P => Table.get? P.run.ops op with
    | some (.copyIn gid bar lines ready sectors _) =>
      match s.ctx? p gid with
      | none => s
      | some c => match sectors.find? fun x => x.2.all fun a => Table.has ready a with
        | some x => c.landSector op bar lines ready sectors x
        | none => match lines with
          | [] => s
          | l :: rest => s.copyInLine p op c bar l rest ready sectors
    | _ => s)

/-! ## Progress of a copy out (R187, R211, R214, R215) -/

/-- Of several bytes for one place of a line of a tile, the one that stays; the rules do not say which. -/
def CopyLine.sources (l : CopyLine) : Table Nat :=
  sortBy Prod.fst ((dedup (l.pairs.map Prod.fst)).map fun o =>
    let ys := l.pairs.filter fun x => x.1 == o
    (o, ((ys[Config.overlap (l.vline % 2 ^ 49) o ys.length % ys.length]?).map Prod.snd).getD 0))

/-- Place one line of a copy out into the colander; a full quota commits it first (R191). -/
def Ctx.placeLine (c : Ctx) (op : Nat) (tile : Bool) (l : CopyLine) (pl : Nat) (obs : Bool) (rest : List CopyLine)
    (data : Table Byte) : State :=
  let srcs := l.sources
  if tile && srcs.any fun e => c.peekPoison e.2 1 then c.s.breakCopy c.p c.gid op srcCore 0
  else
    let bytes : Table Byte := srcs.map fun e => (e.1, if tile then (c.peek e.2 1).getD 0 0 else Table.getD data e.2 0)
    match c.team? with
    | none => c.s
    | some t => if t.maskPoison [⟨l.vline % 2 ^ 49, pl, obs, bytes, []⟩] then c.s.breakCopy c.p c.gid op srcCore 0
      else match t.put ⟨l.vline % 2 ^ 49, pl, obs, bytes, []⟩ with
      | none => if t.commit.isSome then c.s else c.s.beginCommit c.p c.tk (gidGroup c.gid) false
      | some t =>
        let P := c.P.modTeam c.tk fun _ => t
        c.s.setPart c.p (if rest.isEmpty then P.endCopyOut c.gid op
          else P.setOp op (.copyOut c.gid tile rest data none))

/-- An earlier copy out of the same group has still to place a byte of this one's (R187). -/
def Part.outEarlier (P : Part) (gid op : Nat) (l : CopyLine) : Bool :=
  P.run.ops.any fun e => decide (e.1 < op) && (match e.2 with
    | .copyOut g _ lines _ _ => g == gid && lines.any fun m => m.vline % 2 ^ 49 == l.vline % 2 ^ 49 &&
        m.pairs.any fun x => l.pairs.any fun y => x.1 == y.1
    | _ => false)

/-- `COPY_OUT_PROGRESS`: the next line of a copy out is translated and enters the colander. -/
def execCopyOutProgress (p : PartNo) (op : Nat) (s : State) : Host.Outcome State Fault Refusal :=
  .next (match (s.part? p).bind fun P => (Table.get? P.run.ops op).map fun o => (P, o) with
    | some (P, .copyOut gid tile (l :: rest) data _) =>
      match s.ctx? p gid with
      | none => s
      | some c =>
        if P.outEarlier gid op l then s
        else match l.pline with
        | some (pl, obs) => c.placeLine op tile l pl obs rest data
        | none => match s.copyTranslate p op c .write l with
          | .error s => s
          | .ok (s, pl, obs) => (c.reload s).placeLine op tile l pl obs rest data
    | _ => s)

/-! ## Version copies (R216) -/

/-- The tile of a `cpyv` as writes by line, in increasing address order. -/
def Ctx.versionWrites (c : Ctx) (d : TileDesc) (pas : List (Nat × Bool)) : List ColLine :=
  (d.lines.zip pas).map fun e =>
    ⟨e.1.vline % 2 ^ 49, e.2.1 / 128, e.2.2, e.1.sources.map fun x => (x.1, (c.peek x.2 1).getD 0 0), []⟩

/-- Step 4: the version read leaves for its slice. -/
def Ctx.versionRead (c : Ctx) (d : TileDesc) (expected : DWord) (pas : List (Nat × Bool)) : Res :=
  match pas.getLast? with
  | none => .done c.s
  | some (vpa, vobs) =>
    let (op, P) := c.P.fresh
    let P := P.setOp op (.version c.gid d.vaddr (vpa / 128) vobs expected (c.versionWrites d pas.dropLast) none)
    let c := c.setP (P.addReqs [⟨c.tk, c.gid, P.coreOf c.gid, [0], P.requester c.gid 0, false, d.vaddr.toNat % 2 ^ 56 / 128, vpa / 128, vobs,
      .check (vpa % 128), op, false⟩])
    .wait (c.put { c.g with stage := .version op }) .inFlight

/-- Steps 1 to 3: the windows close, the team anchors, every page is checked, the colander is committed. -/
def Ctx.versionStart (c : Ctx) (d : TileDesc) (expected : DWord) : Res :=
  c.closed fun c =>
    if d.lines.any fun l => l.pairs.any fun e => c.P.outPending c.gid (l.vline % 2 ^ 49) e.1 then .wait c.s .inFlight
    else
    let wasAnchored := c.team?.any Team.anch
    let c := c.reload (c.s.anchor c.p c.tk)
    let items := (d.lines.map fun l => (0, BitVec.ofNat 64 l.first)) ++ [(0, d.vaddr)]
    match c.translate .write items [] fun c pas =>
        if c.tilePoison d then .gone (c.s.consumeBy c.p c.gid 3 srcCore 0)
        else c.commits fun c => c.versionRead d expected pas with
    | .trap s t => .trap (if wasAnchored then s else s.modTeam c.p c.tk fun t => { t with anch := false }) t
    | r => r

/-- The instruction completes with its result. -/
def Ctx.versionEnd (c : Ctx) (op : Nat) (x : SReg) (l : La) (result : DWord) : Res :=
  ((c.setP (c.P.dropOp op)).setG ({ c.g with stage := .fresh }.setS x result)).doneS l [x]

/-- Steps 5 and 6, once the version has been read: the tile's writes, the version's write, the release of the line. -/
def Ctx.versionGoOn (c : Ctx) (op : Nat) (x : SReg) (l : La) : Res :=
  match Table.get? c.P.run.ops op with
  | some (.version gid va pline obs expected writes (some true)) =>
    if c.P.run.lines.any fun e => e.2.op == op then .wait c.s .inFlight
    else
      let word := lineBytes (va.toNat % 128) (leBytes 8 (expected + 1).toNat)
      match writes with
      | [] =>
        let P := c.P.modTeam c.tk fun t => { t with hash := hashLine t.hash (va.toNat % 2 ^ 56 / 128) word }
        (c.setP (P.modRun fun r => { r with held := r.held.erase pline })).versionEnd op x l 0
      | _ =>
        let P := c.P.modTeam c.tk fun t => { t with hash := writes.foldl (fun h w => hashLine h w.vline w.bytes) t.hash }
        let P := P.setOp op (.version gid va pline obs expected [] (some true))
        let P := P.addReqs [⟨c.tk, c.gid, P.coreOf c.gid, [0], P.requester c.gid 0, false, va.toNat % 2 ^ 56 / 128, pline, obs,
          .write word [], op, false⟩]
        .wait (c.setP P).s .inFlight
  | some (.version _ _ _ _ _ _ (some false)) => c.versionEnd op x l 1
  | _ => .wait c.s .inFlight

def execCpyv (x y : SReg) (l : La) (s : State) : Host.Outcome State Fault Refusal :=
  issue (.cpyv x y l) s fun c => c.outside (.cpyv x y l) fun c =>
    match c.g.stage with
    | .version op => c.versionGoOn op x l
    | _ =>
      let addr := c.g.padReg x
      c.descriptor addr fun n => match TileDesc.bad n 1 true with
        | some b => .trap c.s (descTrap addr b)
        | none =>
          let d := TileDesc.ofNum n
          match firstTrap
            [if d.gaddr.toNat % d.z ≠ 0 then some ⟨0x12, accessInfo d.gaddr.toNat 0 1⟩ else none,
              if d.vaddr.toNat % 8 ≠ 0 then some ⟨0x12, accessInfo d.vaddr.toNat 0 1⟩ else none, c.tileReach false d] with
          | some t => .trap c.s t
          | none => c.versionStart d (c.g.sreg y)

end Sys2Proof.Machine
end

