-- ==== Sys2Proof/Machine/Memory.lean ====
section
/-!
DEFINITION. Global loads and stores, `ldacq` and `strel`, scalar loads and stores (spec/09_core_memory_instr.md R202 to R206).
-/
namespace Sys2Proof.Machine

/-! ## Addresses (R202) -/

/-- Each active lane with its virtual address: the pair in A plus a scaled offset. -/
def Ctx.laneVas (c : Ctx) (a : VReg) (off : BitVec 8) (size : Nat) : List (Nat × DWord) :=
  c.g.actives.map fun i => (i, c.g.vpair a.toNat i + off.signExtend 64 * BitVec.ofNat 64 size)

/-- Order 7b of R198 over a list of addresses. -/
def misaligned (size kind : Nat) (items : List (Nat × DWord)) : Option Trap :=
  (items.find? fun e => e.2.toNat % size != 0).map fun e => ⟨0x12, accessInfo e.2.toNat e.1 kind⟩

/-- Lanes with their translations. -/
def loadLanes (items : List (Nat × DWord)) (pas : List (Nat × Bool)) : List LoadLane :=
  (items.zip pas).map fun e => ⟨e.1.1, e.1.2, e.2.1, e.2.2⟩

/-! ## Loads and stores (R202, R203, R206) -/

/-- A load per active lane. -/
def Ctx.vload (c : Ctx) (d a : VReg) (l : La) (off : BitVec 8) (size : Nat) : Res :=
  let items := c.laneVas a off size
  match misaligned size 0 items with
  | some t => .trap c.s t
  | none => c.translate .read items [] fun c pas => c.load d.toNat size false l 0 (loadLanes items pas)

/-- The bytes that a lane stores from its data register, pair or quad. -/
def Group.storeBytes (g : Group) (d size lane : Nat) : List Byte :=
  ((List.range ((size + 3) / 4)).map fun j => leBytes 4 (g.vreg (d + j) lane).toNat).flatten.take size

/-- A store per active lane. -/
def Ctx.vstore (c : Ctx) (d a : VReg) (off : BitVec 8) (size : Nat) : Res :=
  let items := c.laneVas a off size
  match misaligned size 1 items with
  | some t => .trap c.s t
  | none => c.translate .write items [] fun c pas =>
    c.store ((items.zip pas).map fun e => piece e.1.2.toNat e.2.1 e.2.2 (c.g.storeBytes d.toNat size e.1.1)) fun c => .done c.s

def execLdw (d a : VReg) (l : La) (o : BitVec 8) (s : State) : Host.Outcome State Fault Refusal :=
  issue (.ldw d a l o) s fun c => c.vload d a l o 4
def execLdd (d a : VReg) (l : La) (o : BitVec 8) (s : State) : Host.Outcome State Fault Refusal :=
  issue (.ldd d a l o) s fun c => c.vload d a l o 8
def execLdq (d a : VReg) (l : La) (o : BitVec 8) (s : State) : Host.Outcome State Fault Refusal :=
  issue (.ldq d a l o) s fun c => c.vload d a l o 16
def execLdh (d a : VReg) (l : La) (o : BitVec 8) (s : State) : Host.Outcome State Fault Refusal :=
  issue (.ldh d a l o) s fun c => c.vload d a l o 2
def execLdb (d a : VReg) (l : La) (o : BitVec 8) (s : State) : Host.Outcome State Fault Refusal :=
  issue (.ldb d a l o) s fun c => c.vload d a l o 1
def execStw (d a : VReg) (l : La) (o : BitVec 8) (s : State) : Host.Outcome State Fault Refusal :=
  issue (.stw d a l o) s fun c => c.outside (.stw d a l o) fun c => c.vstore d a o 4
def execStd (d a : VReg) (l : La) (o : BitVec 8) (s : State) : Host.Outcome State Fault Refusal :=
  issue (.std d a l o) s fun c => c.outside (.std d a l o) fun c => c.vstore d a o 8
def execStq (d a : VReg) (l : La) (o : BitVec 8) (s : State) : Host.Outcome State Fault Refusal :=
  issue (.stq d a l o) s fun c => c.outside (.stq d a l o) fun c => c.vstore d a o 16
def execSth (d a : VReg) (l : La) (o : BitVec 8) (s : State) : Host.Outcome State Fault Refusal :=
  issue (.sth d a l o) s fun c => c.outside (.sth d a l o) fun c => c.vstore d a o 2
def execStb (d a : VReg) (l : La) (o : BitVec 8) (s : State) : Host.Outcome State Fault Refusal :=
  issue (.stb d a l o) s fun c => c.outside (.stb d a l o) fun c => c.vstore d a o 1

/-- The address of a scalar access (R206). -/
def Ctx.scalarVa (c : Ctx) (a : SReg) (off : BitVec 8) : DWord := c.g.sreg a + off.signExtend 64 * 8

def execSld (d a : SReg) (l : La) (o : BitVec 8) (s : State) : Host.Outcome State Fault Refusal :=
  issue (.sld d a l o) s fun c =>
    let items := [(0, c.scalarVa a o)]
    match misaligned 8 0 items with
    | some t => .trap c.s t
    | none => c.translate .read items [] fun c pas => c.load d.toNat 8 true l 0 (loadLanes items pas)

def execSst (d a : SReg) (l : La) (o : BitVec 8) (s : State) : Host.Outcome State Fault Refusal :=
  issue (.sst d a l o) s fun c => c.outside (.sst d a l o) fun c =>
    let items := [(0, c.scalarVa a o)]
    match misaligned 8 1 items with
    | some t => .trap c.s t
    | none => c.translate .write items [] fun c pas =>
      c.store ((items.zip pas).map fun e => piece e.1.2.toNat e.2.1 e.2.2 (leBytes 8 (c.g.sreg d).toNat)) fun c => .done c.s

/-! ## Acquire (R204) -/

/-- The read of an `ldacq`, which holds back later accesses. -/
def Ctx.acquireRead (c : Ctx) (d a : VReg) (l : La) (scope : Nat) : Res :=
  let items := c.laneVas a 0 4
  match misaligned 4 0 items with
  | some t => .trap c.s t
  | none => c.translate .read items [] fun c pas => c.load d.toNat 4 false l scope (loadLanes items pas)

/-- The probes of scope 6 go out to every core of the partition. -/
def Ctx.probe (c : Ctx) (a : VReg) : Res :=
  let items := c.laneVas a 0 4
  match misaligned 4 0 items with
  | some t => .trap c.s t
  | none => c.translate .read items [] fun c pas =>
    let (op, P) := c.P.fresh
    let c := c.setP (P.setOp op (.probe c.gid (dedup (pas.map fun e => e.1 / 128)) P.regs.cores))
    .wait (c.put { c.g with stage := .probing op }) .inFlight

def execLdacq (d a : VReg) (l : La) (sc : BitVec 3) (s : State) : Host.Outcome State Fault Refusal :=
  issue (.ldacq d a l sc) s fun c =>
    match c.g.stage with
    | .probing op =>
      match Table.get? c.P.run.ops op with
      | some (.probe _ _ (_ :: _)) => .wait c.s .inFlight
      | _ => ((c.setP (c.P.dropOp op)).setG { c.g with stage := .fresh }).acquireRead d a l sc.toNat
    | _ => if sc = 6 ∧ !c.g.actives.isEmpty then c.probe a else c.acquireRead d a l sc.toNat

/-! ## Release (R205, R420) -/

/-- LD, CIN and COUT stand at 0: what a release waits for. Stores, scratchpad stores and `sevict` complete at issue here. -/
def Group.drained (g : Group) : Bool := g.count .ld == 0 && g.count .cin == 0 && g.count .cout == 0

/-- Words of the team's `strel`s are on their way to tier 3 (R299). -/
def Part.hostBound (P : Part) (tk : Nat) : Bool :=
  P.run.lines.any fun e => e.2.team == tk && e.2.direct && decide (2 ^ 44 ≤ e.2.pline)

/-- A release at scope 5 or 6 completes when every tier-3 write has been acknowledged (R420). -/
def Ctx.acked (c : Ctx) (scope : Nat) (body : Ctx → Res) : Res :=
  if 5 ≤ scope ∧ (!c.P.unacked.isEmpty ∨ c.P.hostBound c.tk) then .wait (c.put { c.g with stage := .acking }) .inFlight
  else body (c.setG { c.g with stage := .fresh })

/-- The words of a `strel`, lanes whose word a higher lane writes too left out. -/
def strelWords (g : Group) (d : VReg) (items : List (Nat × DWord)) : List (DWord × Nat) :=
  (items.filter fun e => !(items.any fun f => decide (e.1 < f.1) && f.2 == e.2)).map fun e => (e.2, (g.vreg d.toNat e.1).toNat)

/-- The hash of words written directly (R372). -/
def hashWords (h : DWord) (ws : List (DWord × Nat)) : DWord :=
  ws.foldl (fun h w => hashLine h (w.1.toNat % 2 ^ 56 / 128) (lineBytes (w.1.toNat % 128) (leBytes 4 w.2))) h

/-- The line writes of a `strel`: one request for each physical line, whatever pages lead to it, named by its lowest lane (R355). -/
def Ctx.strelReqs (c : Ctx) (d : VReg) (items : List (Nat × DWord)) (pas : List (Nat × Bool)) : List LineReq :=
  let ps := (items.zip pas).map fun e => (e.1.1, piece e.1.2.toNat e.2.1 e.2.2 (c.g.storeBytes d.toNat 4 e.1.1))
  let lines := dedup (ps.map fun p => p.2.pline)
  lines.filterMap fun l => match ps.filter fun p => p.2.pline == l with
    | [] => none
    | p :: rest =>
      let m := rest.foldl (fun m q => m.merge q.2) p.2
      some ⟨c.tk, c.gid, c.P.coreOf c.gid, (p :: rest).map Prod.fst, c.P.requester c.gid p.1, false, p.2.vline, l, m.obs, .write m.bytes [], 0, false⟩

/-- Scope 3 or wider: the commit, then the words leave for their slices, and the instruction is complete (R299) but for the
acknowledgements of scope 5 and 6. -/
def Ctx.strelWide (c : Ctx) (d : VReg) (scope : Nat) (items : List (Nat × DWord)) (pas : List (Nat × Bool)) : Res :=
  let c := c.reload (c.s.anchor c.p c.tk)
  c.commits fun c =>
    let P := c.P.addReqs (c.strelReqs d items pas)
    let c := c.setP (P.modTeam c.tk fun t => { t with hash := hashWords t.hash (strelWords c.g d items) })
    c.acked scope fun c => .done c.s

/-- Lines that the release filter does not hold for the team. -/
def Ctx.newLines (c : Ctx) (t : Team) (pas : List (Nat × Bool)) : List Nat :=
  let have' := ((c.P.core? t.core).map Core.filter).getD []
  (dedup (pas.map fun e => e.1 / 128)).filter fun l => !have'.contains (l, t.slot)

/-- The filter of the team's core has room for them (512 entries). -/
def Ctx.filterRoom (c : Ctx) (t : Team) (pas : List (Nat × Bool)) : Bool :=
  decide ((((c.P.core? t.core).map Core.filter).getD []).length + (c.newLines t pas).length ≤ 512)

/-- Store pieces into the team's colander all at once, after its commit where the quota has no room for them. -/
def Ctx.storeWhole (c : Ctx) (pieces : List ColLine) (body : Ctx → Res) : Res :=
  match c.team? with
  | none => .gone c.s
  | some t =>
    let (t', n) := t.putAll pieces 0
    if pieces.length ≤ n then
      body ((c.setP ((c.P.modTeam c.tk fun _ => t').supersede c.gid pieces)).setG { c.g with stage := .fresh })
    else
      let c := c.setG { c.g with stage := .overflow 0 }
      if t.commit.isSome then .wait c.s .inFlight
      else .wait (c.s.beginCommit c.p c.tk (gidGroup c.gid) false) .inFlight

/-- The pieces of a `strel`. -/
def Ctx.strelPieces (c : Ctx) (d : VReg) (items : List (Nat × DWord)) (pas : List (Nat × Bool)) : List ColLine :=
  (items.zip pas).map fun e => piece e.1.2.toNat e.2.1 e.2.2 (c.g.storeBytes d.toNat 4 e.1.1)

/-- Scope 2, the filter having room: the words enter the colander, and their lines the filter. -/
def Ctx.strelTeam (c : Ctx) (d : VReg) (items : List (Nat × DWord)) (pas : List (Nat × Bool)) : Res :=
  c.storeWhole (c.strelPieces d items pas) fun c =>
    match c.team? with
    | none => .done c.s
    | some t =>
      let new := (c.newLines t pas).map fun l => (l, t.slot)
      .done (c.s.setPart c.p (c.P.modCore t.core fun k => { k with filter := k.filter ++ new }))

def execStrel (d a : VReg) (l : La) (sc : BitVec 3) (s : State) : Host.Outcome State Fault Refusal :=
  issue (.strel d a l sc) s fun c => c.outside (.strel d a l sc) fun c =>
    if c.g.stage = .acking then c.acked sc.toNat fun c => .done c.s
    else
      let items := c.laneVas a 0 4
      match misaligned 4 1 items with
      | some t => .trap c.s t
      | none => c.translate .write items [] fun c pas =>
        if !c.g.drained then .wait c.s .inFlight
        else if sc.toNat ≤ 1 then c.store (c.strelPieces d items pas) fun c => .done c.s
        else if sc.toNat = 2 ∧ c.g.stage ≠ .anchored ∧ c.g.stage ≠ .committing ∧ c.team?.any fun t => c.filterRoom t pas then c.strelTeam d items pas
        else c.strelWide d (max 4 sc.toNat) items pas

end Sys2Proof.Machine
end

