-- ==== Sys2Proof/Machine/Crock.lean ====
section
/-!
DEFINITION. Crocks: the directory, eviction and moves (spec/08 R174 to R182), and `ckopen`, `ckseal`, `ckdrop`, `ckevict`,
`ckstat` (spec/09 R221 to R225).
-/
namespace Sys2Proof.Machine

/-! ## Slots of a core (R171, R175, R176) -/

/-- Slots that teams may have: a whisk core's last 32 belong to its whisk group (R300). -/
def Part.slotLimit (P : Part) (core : Nat) : Nat := if Table.has P.run.homes core then whiskSlot else 256

/-- A slot is free. -/
def Core.slotFree (k : Core) (slot : Nat) : Bool := match Table.get? k.tags slot with
  | none => true
  | some t => t.state == 0
def Part.freeSlotList (P : Part) (core : Nat) : List Nat :=
  match P.core? core with
  | none => []
  | some k => (List.range (P.slotLimit core)).filter k.slotFree

/-- First slots of the free runs of n slots. -/
def Part.freeRuns (P : Part) (core n : Nat) : List Nat :=
  let free := P.freeSlotList core
  free.filter fun b => (List.range n).all fun j => free.contains (b + j)

/-- One of several things; the rules leave open which. For a co-resident launch (`low`) it is the first, so that the trial of R322 says
what the placement then finds (notes/assumptions/113.md). -/
def choice {α : Type} (low : Bool) (tick : Nat) (l : List α) : Option α :=
  match l with
  | [] => none
  | x :: _ => some (if low then x else l.getD (Config.pick tick l.length % l.length) x)

/-- Give slots, zeroed, with their tags (R170, R171). -/
def Core.give (k : Core) (slots : List (Nat × Tag)) : Core :=
  slots.foldl (fun k e => { k.zeroSlot e.1 with tags := Table.set k.tags e.1 e.2, cpoison := removeNum k.cpoison e.1 }) k

/-- Tags of a crock's slots, and of a shadow that shadows none yet (R170). -/
def crockTags (dir base n : Nat) (pin : Bool) : List (Nat × Tag) :=
  (List.range n).map fun j => (base + j, ⟨crockKey dir j, pin, 4, BitVec.ofNat 12 dir, BitVec.ofNat 8 j⟩)
def shadowTag (slot : Nat) : Tag := ⟨0, false, 5, BitVec.ofNat 12 slot, 0⟩

/-! ## Eviction and moves (R179, R180) -/

/-- Physical address of a crock's backing. -/
def DirEntry.backingPa (d : DirEntry) (j : Nat) : Nat := (d.backing + j) * 4096

/-- Write one slot to the backing, with its poison (R179, R275). -/
def State.saveSlot (s : State) (p : PartNo) (k : Core) (slot pa : Nat) : State :=
  (List.range 32).foldl (fun s j =>
    let bytes := lineBytes 0 (Cells.getMany 0 k.scratch (slot * 4096 + 128 * j) 128)
    let poison := (List.range 16).filter fun d => k.spoison.contains (slot * 512 + 16 * j + d)
    s.putLine p (pa / 128 + j) bytes poison) s

/-- Read one slot from the backing, with its poison. -/
def State.fetchSlot (s : State) (pa : Nat) (k : Core) (slot : Nat) : Core :=
  { k with
    scratch := Cells.setMany 0 k.scratch (slot * 4096) (s.bytes pa 4096)
    spoison := (List.range 512).foldl (fun l d =>
      if s.poisoned (pa + 8 * d) then insertNum l (slot * 512 + d) else removeNum l (slot * 512 + d)) k.spoison
    written := removeNum k.written slot }

/-- Carry the poison marks of a slot into the backing, whose bytes it still has (R275). -/
def State.savePoison (s : State) (p : PartNo) (k : Core) (slot pa : Nat) : State :=
  (List.range 32).foldl (fun s j =>
    let poison := (List.range 16).filter fun d => k.spoison.contains (slot * 512 + 16 * j + d)
    if poison.isEmpty then s else s.putLine p (pa / 128 + j) [] poison) s

/-- A line of a crock's backing is held by a `cpyv`, and no other access to it proceeds (R216). -/
def Part.backingHeld (P : Part) (d : DirEntry) : Bool :=
  P.run.held.any fun l => decide (d.backing * 32 ≤ l) && decide (l < (d.backing + d.count.toNat + 1) * 32)

/-- Evict a crock: the slots sealed since it came are saved, its slots are free, STATE is 3 (R179). -/
def State.evict (s : State) (p : PartNo) (dir : Nat) : State :=
  match (s.part? p).bind fun P => (Table.get? P.run.dir dir).bind fun d => (P.core? d.core.toNat).map fun k => (d, k) with
  | none => s
  | some (d, k) =>
    let s := (List.range (d.count.toNat + 1)).foldl (fun s j =>
      if d.dirty.contains j then s.saveSlot p k (d.base.toNat + j) (d.backingPa j)
      else s.savePoison p k (d.base.toNat + j) (d.backingPa j)) s
    s.modPart p fun P =>
      (P.modCore d.core.toNat fun c => c.freeSlots d.slots).setDir dir { d with state := 3, dirty := [], placed := false }

/-- The unpinned detached crock of a core with the least DETACHED, other than one of them. -/
def Part.evictable (P : Part) (core keep : Nat) : Option Nat :=
  ((sortBy (fun e => e.2.detached.toNat) (P.run.dir.filter fun e =>
    e.2.core.toNat == core && e.2.state == 1 && !e.2.pin && e.1 != keep && !P.backingHeld e.2)).head?).map Prod.fst

/-- Evict in order until a need is met (R176, R179): the state, and whether it is met. -/
def State.makeRoom (s : State) (p : PartNo) (core keep : Nat) (need : Part → Bool) : Nat → State × Bool
  | 0 => (s, false)
  | fuel + 1 =>
    match s.part? p with
    | none => (s, false)
    | some P =>
      if need P then (s, true)
      else match P.evictable core keep with
        | none => (s, false)
        | some d => (s.evict p d).makeRoom p core keep need fuel
/-- The state in which a need is met; none where evictions do not meet it. -/
def State.room (s : State) (p : PartNo) (core keep : Nat) (need : Part → Bool) : Option State :=
  match s.makeRoom p core keep need 4097 with
  | (s, true) => some s
  | (_, false) => none
/-- The evictions of a `ckopen` that then still lacks slots, and waits (R176). -/
def State.evictAll (s : State) (p : PartNo) (core keep : Nat) : State := (s.makeRoom p core keep (fun _ => false) 4097).1

/-- Place a crock's slots on a core: one of the free runs. -/
def State.placeCrock (s : State) (p : PartNo) (dir core : Nat) (low : Bool) : Option State :=
  match (s.part? p).bind fun P => Table.get? P.run.dir dir with
  | none => none
  | some d =>
    let n := d.count.toNat + 1
    match s.room p core dir fun P => !(P.freeRuns core n).isEmpty with
    | none => none
    | some s => (s.part? p).bind fun P => (choice low s.tick (P.freeRuns core n)).map fun b =>
        s.setPart p ((P.modCore core fun k => k.give (crockTags dir b n d.pin)).modDir dir fun d =>
          { d with base := BitVec.ofNat 8 b, core := BitVec.ofNat 7 core, placed := true })

/-- A detached crock stays where it is: it is pinned on another core, from which `ckevict` alone takes it (R179), or a `cpyv` holds a
line of its backing. -/
def Part.immovable (P : Part) (d : DirEntry) : Bool := (d.state == 1 && d.pin) || P.backingHeld d

/-- Begin the move of a detached crock to a core; none where it stays, or where the core lacks room (R179, R180). -/
def State.startMove (s : State) (p : PartNo) (dir core : Nat) (low : Bool) : Option State :=
  match (s.part? p).bind fun P => Table.get? P.run.dir dir with
  | none => none
  | some d =>
    if (s.part? p).any fun P => P.immovable d then none
    else
    let s := if d.state = 1 then s.evict p dir else s
    (s.placeCrock p dir core low).map fun s => s.modPart p fun P => P.modDir dir fun d => { d with state := 4 }

/-- `CROCK_MOVE_DONE`: a moving crock has come to its core: resident and detached. -/
def execCrockMoveDone (p : PartNo) (name : DWord) (s : State) : Host.Outcome State Fault Refusal :=
  .next (match (s.part? p).bind fun P => (P.run.dir.find? fun e => e.2.name == name && e.2.state == 4).map fun e => (P, e) with
    | none => s
    | some (P, i, d) =>
      if P.backingHeld d then s
      else
      let P := P.modCore d.core.toNat fun k =>
        (List.range (d.count.toNat + 1)).foldl (fun k j => s.fetchSlot (d.backingPa j) k (d.base.toNat + j)) k
      s.setPart p (P.setDir i { d with state := 1 }))

/-! ## Attaches (R175, R176, R178, R221) -/

def Part.crock? (P : Part) (name : DWord) : Option (Nat × DirEntry) := P.run.dir.find? fun e => e.2.name == name
def Team.attach? (t : Team) (name : DWord) : Option Attach := t.attaches.find? fun a => a.name == name
/-- A writing mode. -/
def writing (mode : BitVec 2) : Bool := mode != 0

/-- The table of R175; an entry that is being created conflicts with every other opener (R178). -/
def DirEntry.grants (d : DirEntry) (mode : BitVec 2) : Bool :=
  d.state != 5 && !d.writer && (!writing mode || d.readers == 0)

/-- The team holds the crock from now on. -/
def Part.attachTo (P : Part) (tk dir : Nat) (name : DWord) (mode : BitVec 2) (created : Bool) : Part :=
  (P.modDir dir fun d =>
    let d := if writing mode then { d with writer := true } else { d with readers := d.readers + 1 }
    if d.state = 5 then d else { d with state := 2 }).modTeam tk fun t =>
      { t with attaches := t.attaches ++ [⟨dir, name, mode, created, false, [], [], false, none⟩] }

/-- The lowest run of backing frames that no other crock has, behind the reserved region and the undo log (R337). -/
def Part.backingFrame (P : Part) (n : Nat) : Option Nat :=
  let lo := P.regionEnd / 4096
  let starts := lo :: P.run.dir.map fun e => e.2.backing + e.2.count.toNat + 1
  let free (b : Nat) : Bool := decide (lo ≤ b) && decide ((b + n) * 4096 ≤ P.shelfEnd) && P.run.dir.all fun e =>
    decide (e.2.backing + e.2.count.toNat + 1 ≤ b) || decide (b + n ≤ e.2.backing)
  (starts.filter free).min?

/-- The index of the directory at which a name looks for a free entry first: one that the name alone fixes, and no schedule (R358). -/
def firstIndex (name : DWord) : Nat := (mix32 (loWord name ^^^ hiWord name)).toNat % 4096

/-- Claim a directory entry in state 5 for a crock of n slots (R178): from the index that its name gives on, the first that is free, so
that the index is fixed with the decisions but for names that give one index (R358; notes/assumptions/99.md); none where no entry, or no
backing, is free. -/
def State.claim (s : State) (p : PartNo) (tk core : Nat) (name : DWord) (n : Nat) : Option (Nat × State) :=
  match s.part? p with
  | none => none
  | some P =>
    match P.backingFrame n, ((List.range 4096).map fun k => (firstIndex name + k) % 4096).find? fun i => !Table.has P.run.dir i with
    | some b, some i =>
      some (i, s.setPart p (P.setDir i
        { name := name, version := 0, backing := b, count := BitVec.ofNat 6 (n - 1), base := 0, core := BitVec.ofNat 7 core,
          state := 5, pin := false, readers := 0, writer := false, detached := 0, creator := some tk, dirty := [],
          placed := false }))
    | _, _ => none

/-- The result word of an attach (R221). -/
def resultWord (dir : Nat) (d : DirEntry) (created : Bool) : DWord :=
  BitVec.ofNat 64 (d.version.toNat * 2 ^ 32 + dir * 2 ^ 16 + bit created * 2 ^ 14 + d.count.toNat * 2 ^ 8 + d.base.toNat)

/-- Reserve shadows for an attach: free slots of the core (R176). -/
def State.reserveShadows (s : State) (p : PartNo) (tk core dir n : Nat) (low : Bool) : Option State :=
  match s.room p core dir fun P => decide (n ≤ (P.freeSlotList core).length) with
  | none => none
  | some s => (s.part? p).bind fun P => (P.team? tk).map fun t =>
    let free := P.freeSlotList core
    let slots := (if low then free else free.rotateLeft (Config.pick s.tick free.length)).take n
    s.setPart p ((P.modCore core fun k => k.give (slots.map fun x => (x, shadowTag t.slot))).modTeam tk fun t =>
      { t with attaches := t.attaches.map fun a => if a.dir = dir then { a with spare := slots } else a })

/-- What a granted attach still needs: the slots of a crock that it creates, and its shadows. The state after it has them and
its result is known; none while the core lacks slots. -/
def State.equip (s : State) (p : PartNo) (tk dir : Nat) (low : Bool) : Option State :=
  match (s.part? p).bind fun P => (P.team? tk).bind fun t => (Table.get? P.run.dir dir).bind fun d =>
      (t.attaches.find? fun a => a.dir == dir).map fun a => (P, t, d, a) with
  | none => none
  | some (_, t, d, a) =>
    let n := d.count.toNat + 1
    let placed := if d.placed then some s else s.placeCrock p dir t.core low
    let ready := placed.bind fun s =>
      if writing a.mode && a.spare.isEmpty then s.reserveShadows p tk t.core dir n low else some s
    ready.map fun s => s.modPart p fun P =>
      match Table.get? P.run.dir dir with
      | none => P
      | some d => P.modTeam tk fun t =>
        { t with attaches := t.attaches.map fun a =>
            if a.dir = dir then { a with result := some (resultWord dir d a.created) } else a }

/-! ## `ckopen` (R221) -/

/-- The instruction completes with its result. -/
def Ctx.opened (c : Ctx) (x : SReg) (l : La) (r : DWord) : Res :=
  (c.setG ({ c.g with stage := .fresh }.setS x r)).doneS l [x]

/-- An attach that the team holds: the same mode returns the same result, another traps. -/
def Ctx.reopened (c : Ctx) (x : SReg) (l : La) (mode : BitVec 2) (a : Attach) : Res :=
  if a.mode ≠ mode then .trap c.s ⟨0x18, a.name⟩
  else match a.result with
    | some r => c.opened x l r
    | none => .wait c.s (.slots a.name)

/-- A granted attach takes its slots and shadows, or waits for them. -/
def Ctx.equipped (c : Ctx) (x : SReg) (l : La) (dir : Nat) (name : DWord) : Res :=
  match c.s.equip c.p c.tk dir false with
  | none =>
    let s := c.s.evictAll c.p (c.P.coreOf c.gid) dir
    .wait (s.modGroup c.p c.gid fun g => { g with stage := .creating dir }) (.slots name)
  | some s =>
    let c := c.reload s
    c.opened x l (((c.team?.bind fun t => t.attach? name).bind Attach.result).getD 0)

/-- A crock that is not on the team's core: the fetch flag waits for its move. -/
def Ctx.fetchCrock (c : Ctx) (dir : Nat) (d : DirEntry) : Res :=
  let c := c.setG { c.g with stage := .fresh }
  if d.state = 4 then .wait c.s (.move d.name)
  else if d.state = 2 ∨ c.P.immovable d then .wait c.s (.slots d.name)
  else match c.s.startMove c.p dir (c.P.coreOf c.gid) false with
    | none => .wait (c.s.evictAll c.p (c.P.coreOf c.gid) dir) (.slots d.name)
    | some s => .wait s (.move d.name)

/-- The crock is resident on the group's core. -/
def Ctx.here (c : Ctx) (d : DirEntry) : Bool := (d.state == 1 || d.state == 2) && d.core.toNat == c.P.coreOf c.gid

/-- The directory serves the request. -/
def Ctx.openCrock (c : Ctx) (x : SReg) (l : La) (mode : BitVec 2) (name : DWord) (n : Nat) (fetch : Bool) : Res :=
  match c.P.crock? name with
  | none =>
    if mode.toNat ≤ 1 then c.opened x l 0xFFFFFFFFFFFFFFFF
    else match c.s.claim c.p c.tk (c.P.coreOf c.gid) name n with
      | none => c.opened x l 0xFFFFFFFFFFFFFFFE
      | some (dir, s) =>
        (c.reload (s.modPart c.p fun P => P.attachTo c.tk dir name mode true)).equipped x l dir name
  | some (dir, d) =>
    let conflict : Res := .trap c.s ⟨0x18, name⟩
    if d.state = 5 then conflict
    else if mode = 2 ∨ (mode = 3 ∧ n ≠ d.count.toNat + 1) then conflict
    else if !c.here d then (if fetch then c.fetchCrock dir d else .trap c.s ⟨0x17, name⟩)
    else if !d.grants mode then conflict
    else (c.setP (c.P.attachTo c.tk dir name mode false)).equipped x l dir name

/-- The request is served: its decision is counted and recorded (R354, R367). -/
def Ctx.served (c : Ctx) (name : DWord) : Ctx :=
  let s := if c.P.mode = mRECORD then
      c.s.record c.p .crock name (c.P.choice.domain .crock name).n [mkRecord .crock false false 1 (c.P.requester c.gid 0).toNat]
    else c.s
  c.reload (s.modPart c.p fun P =>
    let P := { P with choice := P.choice.bump .crock name }
    (P.modTeam c.tk fun t => { t with served := true }).modRun fun r =>
      { r with crockReqs := r.crockReqs.filter fun q => !(q.gid == c.gid && !q.team) })

/-- The order gate of the name (R359, R363, R368, R376). -/
def Ctx.gate (c : Ctx) (name : DWord) (mode : BitVec 2) (body : Ctx → Res) : Res :=
  let held : Res :=
    let P := c.P.modRun fun r => { r with crockReqs := r.crockReqs ++ [⟨c.gid, name, false, !writing mode, false⟩] }
    .wait (({ c with s := c.s.setPart c.p P, P := P } : Ctx).setG { c.g with stage := .gated }).s
      (.gate .crock name (c.P.choice.domain .crock name).n)
  if c.P.mode = mRECORD then
    if c.P.choice.canRecord .crock name 1 then body (c.served name) else .wait c.s .host
  else if c.P.mode = mSTEERED then
    if c.P.choice.steer .crock name == .unsteered then body (c.served name) else held
  else if c.P.mode = mEXPLORE then held
  else body (c.served name)

def execCkopen (x y : SReg) (f : BitVec 2) (l : La) (g : Bool) (n : BitVec 7) (s : State) : Host.Outcome State Fault Refusal :=
  issue (.ckopen x y f l g n) s fun c => c.outside (.ckopen x y f l g n) fun c =>
    let name := c.g.sreg y
    let body (c : Ctx) : Res := c.openCrock x l f name n.toNat g
    match c.g.stage with
    | .creating dir => c.equipped x l dir name
    | .gated =>
      if c.P.run.crockReqs.any fun q => q.gid == c.gid && !q.team && q.admitted then body (c.served name)
      else .wait c.s (.gate .crock name (c.P.choice.domain .crock name).n)
    | _ =>
      if name = 0 then .trap c.s ⟨2, 0⟩
      else if (if f.toNat ≤ 1 then n != 0 else n == 0 || decide (64 < n.toNat)) then .trap c.s (trapOf 2 n.toNat)
      else match c.team?.bind fun t => t.attach? name with
        | some a => c.reopened x l f a
        | none => match c.P.crock? name with
          | some (dir, d) =>
            if g && !c.here d && d.state != 5 && f.toNat != 2 && !(f == 3 && n.toNat != d.count.toNat + 1) then c.fetchCrock dir d
            else c.gate name f body
          | none => c.gate name f body

/-! ## `ckseal`, `ckdrop`, `ckstat`, `ckevict` (R222 to R225) -/

/-- The team's attach of a name; a missing one traps. -/
def Ctx.holding (c : Ctx) (name : DWord) (body : Team → Attach → Res) : Res :=
  match c.team?.bind fun t => (t.attach? name).map fun a => (t, a) with
  | none => .trap c.s ⟨0x17, name⟩
  | some (t, a) => if a.result.isNone then .wait c.s (.slots name) else body t a
/-- A writing attach without a pending drop. -/
def Ctx.holdingWrite (c : Ctx) (name : DWord) (body : Team → Attach → Res) : Res :=
  c.holding name fun t a => if !writing a.mode || a.drop then .trap c.s ⟨0x18, name⟩ else body t a

def execCkseal (x y : SReg) (l : La) (s : State) : Host.Outcome State Fault Refusal :=
  issue (.ckseal x y l) s fun c =>
    let name := c.g.sreg y
    c.holdingWrite name fun _ _ => c.closed fun c =>
      if !c.g.drained then .wait c.s .inFlight
      else
        let c := c.reload (c.s.anchor c.p c.tk)
        c.commits fun c => c.holdingWrite name fun t a =>
          let (P, a) := c.P.sealAttach t.core a
          let c := c.setP (P.modTeam c.tk fun t => { t with attaches := t.attaches.map fun b => if b.dir = a.dir then a else b })
          let version := ((Table.get? c.P.run.dir a.dir).map DirEntry.version).getD 0
          (c.setG (c.g.setS x (version.setWidth 64))).doneS l [x]

def execCkdrop (y : SReg) (l : La) (s : State) : Host.Outcome State Fault Refusal :=
  issue (.ckdrop y l) s fun c =>
    let name := c.g.sreg y
    c.holdingWrite name fun _ a =>
      (c.setP (c.P.modTeam c.tk fun t =>
        { t with attaches := t.attaches.map fun b => if b.dir = a.dir then { b with drop := true } else b })).doneS l []

def execCkstat (x y : SReg) (l : La) (s : State) : Host.Outcome State Fault Refusal :=
  issue (.ckstat x y l) s fun c =>
    c.holding (c.g.sreg y) fun _ a =>
      match Table.get? c.P.run.dir a.dir with
      | none => .trap c.s ⟨0x17, a.name⟩
      | some d =>
        (c.setG (c.g.setS x (BitVec.ofNat 64 (d.version.toNat + d.count.toNat * 2 ^ 32 + d.base.toNat * 2 ^ 38 +
          d.core.toNat * 2 ^ 46 + d.state.toNat * 2 ^ 53 + bit d.pin * 2 ^ 56)))).doneS l [x]

/-- Set or clear PIN, in the entry and in the crock's tags (R170, R224). -/
def Part.pinCrock (P : Part) (dir : Nat) (d : DirEntry) (pin : Bool) : Part :=
  (P.setDir dir { d with pin := pin }).modCore d.core.toNat fun k =>
    { k with tags := k.tags.map fun e => if d.slots.contains e.1 then (e.1, { e.2 with pin := pin }) else e }

def execCkevict (x y : SReg) (f : BitVec 2) (l : La) (s : State) : Host.Outcome State Fault Refusal :=
  issue (.ckevict x y f l) s fun c =>
    let answer (c : Ctx) (r : DWord) : Res := (c.setG (c.g.setS x r)).doneS l [x]
    if f = 3 then .trap c.s (trapOf 2 3)
    else match c.P.crock? (c.g.sreg y) with
      | none => answer c 0xFFFFFFFFFFFFFFFF
      | some (dir, d) =>
        if f = 0 then
          if c.P.backingHeld d then .wait c.s .inFlight
          else if d.state = 1 then answer (c.reload (c.s.evict c.p dir)) 0 else answer c 1
        else answer (c.setP (c.P.pinCrock dir d (f == 1))) 0

end Sys2Proof.Machine
end

