-- ==== Sys2Proof/Machine/Image.lean ====
section
/-!
DEFINITION. Freeze images: the word coder, the header, the sections and the checks of a resumption
(spec/21_checkpoint_images.md R399 to R406).
-/
namespace Sys2Proof.Machine

/-! ## The word coder (R404, R405) -/

/-- A token of a kind with a count. -/
def token (kind n : Nat) : DWord := BitVec.ofNat 64 (kind * 2 ^ 62 + n)

/-- The words from here that are equal to w. -/
def runOf (w : DWord) (ws : List DWord) : Nat := (ws.takeWhile fun x => x == w).length

/-- A literal run: up to the first word that is zero or equal to its predecessor. -/
def literalRun : Option DWord → List DWord → List DWord
  | _, [] => []
  | prev, w :: ws => if w = 0 ∨ prev = some w then [] else w :: literalRun (some w) ws

/-- The canonical coding of words behind a previous one, with its end token; the first argument bounds the tokens. -/
def codeFrom : Nat → Option DWord → List DWord → List DWord
  | 0, _, _ => [token 3 0]
  | _, _, [] => [token 3 0]
  | fuel + 1, prev, w :: ws =>
    if w = 0 then
      let n := runOf 0 (w :: ws)
      token 0 n :: codeFrom fuel (some 0) ((w :: ws).drop n)
    else if prev = some w then
      let n := runOf w (w :: ws)
      token 1 n :: codeFrom fuel (some w) ((w :: ws).drop n)
    else
      let lit := literalRun prev (w :: ws)
      token 2 lit.length :: (lit ++ codeFrom fuel lit.getLast? ((w :: ws).drop lit.length))
def codeBody (ws : List DWord) : List DWord := codeFrom ws.length none ws

/-- The words of a coded body; none where it is malformed. `out` holds what has been decoded. -/
def decodeFrom : Nat → List DWord → List DWord → Option (List DWord)
  | 0, _, _ => none
  | _, _, [] => none
  | fuel + 1, out, t :: ts =>
    let n := field t 0 32
    if field t 32 30 ≠ 0 then none
    else match field t 62 2 with
      | 3 => if n = 0 then some out else none
      | 0 => if n = 0 then none else decodeFrom fuel (out ++ List.replicate n 0) ts
      | 1 => match out.getLast? with
        | none => none
        | some w => if n = 0 then none else decodeFrom fuel (out ++ List.replicate n w) ts
      | _ => if n = 0 ∨ ts.length < n then none else decodeFrom fuel (out ++ ts.take n) (ts.drop n)
def decodeBody (ts : List DWord) : Option (List DWord) := decodeFrom ts.length [] ts

/-! ## The header and the sections (R400 to R402) -/

/-- PCFG (R345). -/
def Regs.pcfg (r : Regs) (p : PartNo) : DWord := BitVec.ofNat 64 (r.firstDie + r.logDies * 8 + p.toNat * 64)

/-- The configuration hash (R401). -/
def Part.cfgHash (P : Part) (p : PartNo) : DWord :=
  [P.regs.pcfg p, P.regs.shelfc.setWidth 64, P.regs.shelfb, P.regs.whisk.setWidth 64, P.regs.pkey.setWidth 64].foldl hashStep 0

/-- Type and unit of every section, in order. -/
def Part.sections (P : Part) : List (Nat × Nat) :=
  let teams := sortBy Team.tidx (P.run.teams.map Prod.snd)
  let levels := (P.run.clusters.filterMap fun e => e.2.teams.head?.map fun tk => tk % 2 ^ 22 * 4 + 1) ++
    ((P.run.launches.filter fun e => e.2.coresident).map fun _ => 2)
  [(1, 0), (2, 0), (3, 0)] ++ (List.range P.run.homes.length).map (fun h => (4, h)) ++
    (P.run.cores.map fun e => (5, e.1)) ++ (teams.map fun t => (6, t.tidx)) ++
    (teams.map fun t => t.groups.map fun e => (7, t.tidx * 32 + e.1)).flatten ++ (sortBy id levels).map fun u => (8, u)

/-- The image is a snapshot of the sieve, which includes every resident crock slot (R375). -/
def isSnapshot (reason : BitVec 6) : Bool := reason.getLsbD 5
/-- Slots of the crocks that are resident on a core. -/
def Run.crockSlots (r : Run) (core : Nat) : List Nat :=
  (r.dir.map fun e => if (e.2.state == 1 || e.2.state == 2) && e.2.core.toNat == core then e.2.slots else []).flatten
/-- The slots, operand-buffer units and tiles that the section of a core captures: those written since their last reset points (R403), and,
of a snapshot, every resident crock slot. -/
def Run.captured (r : Run) (snapshot : Bool) (core : Nat) (k : Core) : List Nat :=
  if snapshot then (r.crockSlots core).foldl insertNum k.written else k.written
def Part.captured (P : Part) (snapshot : Bool) (type unit : Nat) : List Nat :=
  if type = 5 then ((P.core? unit).map (P.run.captured snapshot unit)).getD [] else []
/-- What an image of a core holds beside these reads as zero. -/
def Core.kept (k : Core) (captured : List Nat) : Core :=
  { k with
    scratch := k.scratch.filter fun c => captured.contains (c.1 / 4096)
    operand := k.operand.filter fun c => captured.contains (unitNumber (c.1 / 256))
    tiles := k.tiles.map fun e => (e.1, if captured.contains (tileNumber e.1) then e.2 else { e.2 with cells := [] }) }
/-- The work that an image holds (R403). -/
def Run.kept (r : Run) (snapshot : Bool) : Run :=
  { r with cores := r.cores.map fun e => (e.1, e.2.kept (r.captured snapshot e.1 e.2)) }

/-- One section: its descriptor and its coded body. -/
def Part.sectionWords (P : Part) (snapshot : Bool) (type unit : Nat) : List DWord :=
  let raw := Config.sectionBody type unit (P.captured snapshot type unit) (P.run.kept snapshot) P.choice P.sieve
  let coded := codeBody raw
  [BitVec.ofNat 64 (raw.length % 2 ^ 32 * 2 ^ 32 + coded.length % 2 ^ 32), BitVec.ofNat 64 (type * 2 ^ 48 + unit)] ++ coded

/-- The double words of a number. -/
def wordsOf (n x : Nat) : List DWord := (List.range n).map fun k => BitVec.ofNat 64 (x / 2 ^ (64 * k))

/-- The double words of an image of the partition as it stands. -/
def Part.imageWords (P : Part) (p : PartNo) (reason : BitVec 6) (time : DWord) : List DWord :=
  let sections := P.sections
  let body := (sections.map fun e => P.sectionWords (isSnapshot reason) e.1 e.2).flatten
  let header := P.choice.block * 2 ^ 512 + 0x464D5249 * 2 ^ 480 + 2 ^ 464 + reason.toNat * 2 ^ 458 + P.choice.mode.toNat * 2 ^ 455 +
    (P.cfgHash p).toNat * 2 ^ 384 + (128 + 8 * body.length) * 2 ^ 320 + time.toNat * 2 ^ 256 + sections.length * 2 ^ 224
  wordsOf 16 header ++ body

/-- Store double words. -/
def State.storeWords (s : State) (pa : Nat) : List DWord → State
  | [] => s
  | w :: ws => (s.storeNum pa 8 w.toNat).storeWords (pa + 8) ws

/-- Write an image of the partition; the state remembers what its words stand for. -/
def State.writeImage (s : State) (p : PartNo) (pa : Nat) (reason : BitVec 6) : State :=
  match s.part? p with
  | none => s
  | some P =>
    let ws := P.imageWords p reason s.now
    (s.storeWords pa ws).modPart p fun P => { P with images := ⟨pa, ws, reason, P.run.kept (isSnapshot reason), P.choice, P.sieve⟩ :: P.images }

/-! ## The checks of a resumption (R406) -/

def State.words (s : State) (pa n : Nat) : List DWord := (List.range n).map fun k => BitVec.ofNat 64 (s.num (pa + 8 * k) 8)

/-- The bodies of k sections, one after the other: type and unit, and the decoded words; none where one is malformed. -/
def readSections : Nat → List DWord → Option (List (DWord × List DWord))
  | 0, _ => some []
  | k + 1, lo :: hi :: ws =>
    let n := field lo 0 32
    if ws.length < n then none
    else match decodeBody (ws.take n) with
      | none => none
      | some raw =>
        if raw.length ≠ field lo 32 32 then none else (readSections k (ws.drop n)).map fun rest => (hi, raw) :: rest
  | _ + 1, _ => none

/-- Words of an image's header. -/
def headWord (ws : List DWord) (k : Nat) : DWord := ws.getD k 0
/-- What an image says, whatever coding of its bodies it uses (R405): its header but for LENGTH, and its sections. -/
def imageContent (ws : List DWord) : Option (List DWord × List (DWord × List DWord)) :=
  (readSections (field (headWord ws 3) 32 32) (ws.drop 16)).map fun x => ((ws.take 16).set 5 0, x)

/-- The choice block of an image's header (R371, R400). -/
def Choice.withBlock (c : Choice) (b : Nat) : Choice :=
  let at' (lo len : Nat) : Nat := b / 2 ^ lo % 2 ^ len
  { c with
    rbbase := BitVec.ofNat 64 (at' 448 64), rbsize := BitVec.ofNat 32 (at' 416 32), rbprod := BitVec.ofNat 32 (at' 384 32)
    rbcons := BitVec.ofNat 32 (at' 352 32), olbase := BitVec.ofNat 64 (at' 288 64), olcap := BitVec.ofNat 24 (at' 264 24)
    olprod := BitVec.ofNat 24 (at' 240 24), imgbase := BitVec.ofNat 64 (at' 176 64), win := BitVec.ofNat 6 (at' 170 6)
    paths := BitVec.ofNat 32 (at' 128 32), leaves := BitVec.ofNat 32 (at' 96 32), xkind := BitVec.ofNat 4 (at' 92 4)
    unst := at' 91 1 == 1, pol := at' 90 1 == 1, mode := BitVec.ofNat 3 (at' 87 3), xst := BitVec.ofNat 3 (at' 84 3)
    xn := BitVec.ofNat 20 (at' 64 20), xid := BitVec.ofNat 64 (at' 0 64) }

/-- An image that this partition has not written: its header says REASON and the choice block, its bodies the rest, of which spec/
does not give the layout (notes/assumptions/12.md). -/
def foreign (ws : List DWord) : Image :=
  let i := Config.foreignImage ws
  let block := (List.range 8).foldl (fun n k => n + (headWord ws (8 + k)).toNat * 2 ^ (64 * k)) 0
  { i with words := ws, reason := BitVec.ofNat 6 (field (headWord ws 7) 10 6), choice := i.choice.withBlock block }

/-- Bytes of the image at an address: its header, then as many as that says. -/
def State.imageBytes (s : State) (pa : Nat) : Nat :=
  if s.unclean pa 128 then 128 else max 128 (headWord (s.words pa 16) 5).toNat

/-- What a RESUME of the image at an address would restore; none where a check fails that looks at the image alone, or where it holds an
uncorrectable error or lies behind a port that is down (R421). An image that says what one of the partition's own says, in whatever coding, is that one. -/
def State.readImage (s : State) (P : Part) (p : PartNo) (pa : Nat) : Option Image :=
  let ws := s.words pa ((headWord (s.words pa 16) 5).toNat / 8)
  let h := headWord (s.words pa 16)
  if s.unclean pa (s.imageBytes pa) then none
  else if field (h 7) 32 32 ≠ 0x464D5249 ∨ field (h 7) 16 16 ≠ 1 then none
  else if h 6 ≠ P.cfgHash p then none
  else match imageContent (s.words pa 16 ++ ws.drop 16) with
    | none => none
    | some x => some ((P.images.find? fun i => imageContent i.words == some x).getD (foreign ws))

end Sys2Proof.Machine
end

