-- ==== Sys2Proof/Machine/Slice.lean ====
section
/-!
DEFINITION. The slices: the service of a line (spec/16 R320, R321; spec/18 R354, R355, R363, R367, R376), the return of loads
(R202, R204) and the probes of release filters (R204).
-/
namespace Sys2Proof.Machine

/-! ## Which request may be served (R55, R216, R321, R359) -/

/-- The request is one of a LINE choice domain (R201, R355); the loads of a whisk group are no team's request. -/
def LineReq.gated (r : LineReq) : Bool := r.obs && !isWhisk r.gid
/-- The identifier of a line's domain (R354). -/
def lineId (pline : Nat) : DWord := BitVec.ofNat 64 pline

/-- Offsets in the line that a request reads or writes. -/
def LineReq.offsets (r : LineReq) : List Nat :=
  match r.kind with
  | .read bs => bs.map Prod.fst
  | .write bs _ => bs.map Prod.fst
  | .check off => (List.range 8).map fun k => off + k
def LineReq.isRead (r : LineReq) : Bool := match r.kind with
  | .write _ _ => false
  | _ => true
def LineReq.overlaps (r o : LineReq) : Bool := r.pline == o.pline && r.offsets.any fun k => o.offsets.contains k

/-- The key of a request (R355). -/
def LineReq.key (r : LineReq) : Nat := r.requester.toNat * 2 + bit r.teamFlag

/-- Program order: an access of one lane to a byte follows the lane's earlier ones, and a commit those of its team. -/
def LineReq.follows (r o : LineReq) : Bool :=
  r.team == o.team && r.overlaps o &&
    (r.teamFlag || o.teamFlag || (r.gid == o.gid && r.lanes.any fun i => o.lanes.contains i))

/-- A release follows the words of its team's earlier `strel`s that are still on their way, so that whoever acquires it finds them
(R298, R330): a commit, and a later `strel`'s word, whichever group of the team has sent it, since a team barrier may stand between the
two (R268). -/
def LineReq.released (r o : LineReq) : Bool := r.team == o.team && o.direct && (r.teamFlag || r.direct)

/-- The request is the write of a `cpyv` to the line that it holds (R216). -/
def Part.holder (P : Part) (r : LineReq) : Bool :=
  P.run.held.contains r.pline && (match Table.get? P.run.ops r.op with
    | some (.version _ _ pl _ _ _ (some true)) => pl == r.pline
    | _ => false)

/-- The domain's mode lets the request be served now (R359, R368). -/
def Part.lineOpen (P : Part) (r : LineReq) : Bool :=
  !r.gated ||
    (if P.mode = mRECORD then P.choice.canRecord .line (lineId r.pline) 1
    else if P.mode = mSTEERED then r.admitted || P.choice.steer .line (lineId r.pline) == .unsteered
    else if P.mode = mEXPLORE then r.admitted
    else true)

/-- Requests of one core to one line form a flow, which arrives in the order of its injection (R356, R410). An earlier one that
an order gate or the sieve holds has arrived, and holds back no other. -/
def Part.sameFlow (P : Part) (r o : LineReq) : Bool :=
  r.pline == o.pline && r.core == o.core && P.lineOpen o

/-- The request stands first among those whose order the program or the fabric fixes, and no `cpyv` but its own holds its line, nor
that of the batch for which a whisk group reads (R216). -/
def Part.lineFree (P : Part) (id : Nat) (r : LineReq) : Bool :=
  P.holder r || (!P.run.held.contains r.pline && !(isWhisk r.gid && P.batchHeld r.gid) &&
    !(P.run.lines.any fun e => decide (e.1 < id) && (r.follows e.2 || r.released e.2 || P.sameFlow r e.2)))

/-! ## Who sees a write (R298, R299)

There is no order of writes to different lines on which every team agrees (R299): a core may see a write later than another, and a read of
its line by that core then stands before the write in the line's order (R321). What a core has seen it goes on seeing, with all that is
ordered before it (R298, R330). -/

/-- The oldest write to a line that a core does not see. -/
def State.unseen? (s : State) (core pline : Nat) : Option Late :=
  s.late.find? fun w => w.pline == pline && w.unseen.contains core

/-- Who sees a write sees another one: an earlier one of its line, an earlier one that the writer's core saw, one of the same commit. -/
def Late.shows (w x : Late) : Bool :=
  (decide (x.step < w.step) && (x.pline == w.pline || !w.unknown.contains x.step)) || (w.commit.isSome && w.commit == x.commit)

/-- Writes that are seen with some, in so many steps of `Late.shows`. -/
def withShown (all : List Late) : Nat → List Late → List Late
  | 0, ws => ws
  | n + 1, ws => withShown all n (all.filter fun x => ws.contains x || ws.any fun w => w.shows x)

/-- A core sees a line as it stands, with all that is seen with it. -/
def State.sees (s : State) (core pline : Nat) : State :=
  let ws := withShown s.late s.late.length (s.late.filter fun w => w.pline == pline)
  let late := s.late.map fun x => if ws.contains x then { x with unseen := x.unseen.filter fun k => k != core } else x
  { s with late := if late.all fun x => x.unseen.isEmpty then [] else late }

/-- The cores that see a write only later: those that see the earlier lines of its commit later (R330), for the first line, and for a word
of a `strel`, any others than the writer's own. -/
def State.latecomers (s : State) (P : Part) (r : LineReq) : List Nat :=
  if r.teamFlag && (P.team? r.team).any fun t => t.commit.any fun c => !c.written.isEmpty then
    match s.late.reverse.find? fun w => w.commit == some r.team with
    | some w => w.unseen
    | none => []
  else P.regs.cores.filter fun k => k != r.core && Config.seesLate s.tick k

/-- What cores see of a write that is served, the line having held `before`. An observed line is seen by all, so that its decisions fix what
is read (R359), and so are a line with a poisoned word and one that a `cpyv` writes. -/
def State.shown (s : State) (P : Part) (r : LineReq) (poison : List Nat) (before : List Byte) : State :=
  if r.obs || r.op != 0 || !poison.isEmpty then s.allSeen
  else
    let s := s.sees r.core r.pline
    let who := s.latecomers P r
    if who.isEmpty && s.late.isEmpty then s
    else { s with late := s.late ++ [⟨s.tick, r.pline, before, if r.teamFlag then some r.team else none, who,
        (s.late.filter fun w => w.unseen.contains r.core).map Late.step⟩] }

/-! ## Service -/

/-- The request leaves the pending ones, and its decision is counted and recorded. -/
def State.lineTaken (s : State) (p : PartNo) (id : Nat) (r : LineReq) : State :=
  let s := s.modPart p fun P =>
    (P.modRun fun run => { run with lines := Table.erase run.lines id }).modGroup r.gid Group.wake
  if !r.gated then s
  else match s.part? p with
    | none => s
    | some P =>
      let d := lineId r.pline
      let s := if P.mode = mRECORD then
          s.record p .line d (P.choice.domain .line d).n [mkRecord .line false r.teamFlag 1 r.requester.toNat]
        else s
      s.modPart p fun P => { (P.modTeam r.team fun t => { t with served := true }) with choice := P.choice.bump .line d }

/-- Bytes read at a slice reach their operation. -/
def Part.deliver (P : Part) (op : Nat) (bs : List (Nat × Byte)) : Part :=
  match Table.get? P.run.ops op with
  | some (.load gid dst size scalar lanes) =>
    P.setOp op (.load gid dst size scalar (lanes.map fun l =>
      { l with bytes := bs.foldl (fun t b => if b.1 / 16 = l.lane then Table.set t (b.1 % 16) b.2 else t) l.bytes }))
  | some (.copyIn gid bar lines ready sectors page) =>
    P.setOp op (.copyIn gid bar lines (bs.foldl (fun t b => Table.set t b.1 b.2) ready) sectors page)
  | _ => P

/-- Teams, other than the request's own, whose commit is under way and has written a byte that the request reads (R330); not one whose line
its core does not see. -/
def State.sighted (s : State) (P : Part) (r : LineReq) : List Nat :=
  let hidden (tk : Nat) : Bool := s.late.any fun w => w.pline == r.pline && w.commit == some tk && w.unseen.contains r.core
  (P.run.teams.filter fun e => e.1 != r.team && !hidden e.1 && e.2.commit.any fun c => c.written.any fun l =>
    l.pline == r.pline && r.offsets.any fun o => Table.has l.bytes o).map Prod.fst
/-- What a load has read of commits under way is kept until they are over. -/
def State.sight (s : State) (P : Part) (r : LineReq) : Part :=
  let new := (s.sighted P r).map fun tk => (⟨r.gid, r.op, tk⟩ : Sight)
  P.modRun fun x => { x with sights := x.sights ++ new }

/-- A byte of a line as a core sees it. -/
def State.seenByte (s : State) (core pline off : Nat) : Byte :=
  match s.unseen? core pline with
  | some w => w.before.getD off 0
  | none => s.byte (pline * 128 + off)

/-- A read: a poisoned word among its bytes is consumed, and stops the copy whose read it is (R215, R274, R351). -/
def State.serveRead (s : State) (p : PartNo) (r : LineReq) (bs : List (Nat × Nat)) : State :=
  let pa := r.pline * 128
  match bs.find? fun b => s.poisoned (pa + b.1) with
  | some b => s.breakCopy p r.gid r.op (srcOfPa pa) (pa + b.1)
  | none =>
    let s := if r.obs then s.allSeen else s
    (if (s.unseen? r.core r.pline).isSome then s else s.sees r.core r.pline).modPart p fun P =>
      (s.sight (P.deliver r.op (bs.map fun b => (b.2, s.seenByte r.core r.pline b.1))) r).modRun fun run =>
        { run with answers := if Table.has run.ops r.op then run.answers ++ [(r.op, r.pline)] else run.answers }

/-- What follows the write of a line of a commit: the hash takes it, a poisoned line is consumed (R274), the next one leaves. -/
def State.commitLine (s : State) (p : PartNo) (r : LineReq) (bytes : Table Byte) (poison : List Nat) : State :=
  let s := s.modTeam p r.team fun t =>
    { t with
      hash := hashLine t.hash r.vline bytes
      commit := t.commit.map fun c => { c with lines := c.lines.tail, req := 0, written := c.lines.take 1 ++ c.written } }
  if poison.isEmpty then s.advanceCommit p r.team
  else s.consume p r.team 3 srcCore (((s.part? p).map fun P => P.coreIndex r.team).getD 0) (r.pline * 128) r.requester

/-- A write. A full undo log holds it and ends the path (R380). A line of a commit that holds an uncorrectable word is marked
whole, as a slice marks lines, so that a reader of any byte of it consumes the error (R274, R351). -/
def State.serveWrite (s : State) (p : PartNo) (id : Nat) (r : LineReq) (bytes : Table Byte) (poison : List Nat) : State :=
  let poison := if r.teamFlag && !poison.isEmpty then List.range 16 else poison
  let before := s.bytes (r.pline * 128) 128
  match s.writeLine p r.pline bytes poison with
  | (s, false) => s.leaf p false false true
  | (s, true) =>
    let s := match s.part? p with
      | some P => s.shown P r poison before
      | none => s
    let s := s.lineTaken p id r
    let s := if 2 ^ 44 ≤ r.pline then s.modPart p fun P => { P with unacked := P.unacked ++ [r.pline] } else s
    if r.teamFlag then s.commitLine p r bytes poison else s

/-- The version check of a `cpyv` (R216 steps 4 and 5): the line is held, and the tile's writes leave. -/
def State.serveCheck (s : State) (p : PartNo) (r : LineReq) (off : Nat) : State :=
  let pa := r.pline * 128 + off
  match (s.part? p).bind fun P => (Table.get? P.run.ops r.op).map fun o => (P, o) with
  | some (P, .version gid va pline obs expected writes _) =>
    if s.poisoned pa then s.consumeBy p r.gid 3 (srcOfPa pa) pa
    else if s.num pa 8 = expected.toNat then
      let P := P.setOp r.op (.version gid va pline obs expected writes (some true))
      let P := P.modRun fun run => { run with held := pline :: run.held }
      s.setPart p (P.addReqs (writes.map fun w =>
        { r with vline := w.vline, pline := w.pline, obs := w.obs, kind := .write w.bytes [], admitted := false }))
    else s.setPart p (P.setOp r.op (.version gid va pline obs expected writes (some false)))
  | _ => s

/-- `LINE_ACCESS`: a slice serves a request, whole. What cores see of writes at different times is set out in notes/assumptions/117.md. -/
def execLineAccess (p : PartNo) (id : Nat) (s : State) : Host.Outcome State Fault Refusal :=
  .next (match (s.part? p).bind fun P => (Table.get? P.run.lines id).map fun r => (P, r) with
    | none => s
    | some (P, r) =>
      if !(P.lineFree id r && P.lineOpen r) then s
      else match r.kind with
        | .read bs => (s.lineTaken p id r).serveRead p r bs
        | .write bytes poison => s.serveWrite p id r bytes poison
        | .check off => (s.allSeen.lineTaken p id r).serveCheck p r off)

/-! ## Loads return (R202, R204, R206) -/

/-- The words of a lane's data. -/
def LaneLoad.word (l : LaneLoad) (size j : Nat) : Word :=
  BitVec.ofNat 32 (leNat ((List.range (min 4 (size - 4 * j))).map fun k => Table.getD l.bytes (4 * j + k) 0))

/-- `LOAD_RETURN`: the data of a load that has all its bytes reach the registers, and LD falls. An acquire at device scope or wider
that has read a byte of a commit returns once the commit has written all its lines, so that every later access of the group follows
the whole commit (R330). An uncorrectable word among the bytes that the load-combining buffer keeps is consumed (R274). -/
def execLoadReturn (p : PartNo) (op : Nat) (s : State) : Host.Outcome State Fault Refusal :=
  .next (match (s.part? p).bind fun P => (Table.get? P.run.ops op).map fun o => (P, o) with
    | some (P, .load gid dst size scalar lanes) =>
      let acquires := (P.group? gid).any fun g => g.windows.any fun w => w.op == op && w.wide
      if P.run.lines.any fun e => e.2.op == op then s
      else if acquires && P.run.sights.any fun e => e.op == op then s
      else if lanes.any LaneLoad.poison then s.consumeBy p gid 3 srcCore 0
      else s.setPart p ((P.dropOp op).modGroup gid fun g =>
        let g := if scalar then
            match lanes with
            | [] => g
            | l :: _ => g.setS (BitVec.ofNat 5 dst) (BitVec.ofNat 64 (leNat ((List.range 8).map fun k => Table.getD l.bytes k 0)))
          else (List.range ((size + 3) / 4)).foldl (fun g j => g.writeV (dst + j) (lanes.map fun l => (l.lane, l.word size j))) g
        (g.lower' .ld op).opened op)
    | _ => s)

/-! ## Probes (R204) -/

/-- Teams of a core whose release filter holds a probed line. -/
def Part.probed (P : Part) (core : Nat) (lines : List Nat) : List Nat :=
  match P.core? core with
  | none => []
  | some k => (P.run.teams.filter fun e => e.2.core == core && k.filter.any fun f => f.2 == e.2.slot && lines.contains f.1).map Prod.fst

/-- `RELEASE_FILTER_PROBE`: a core that holds a probed line commits the team's colander first, and then answers. -/
def execReleaseFilterProbe (p : PartNo) (core : BitVec 7) (op : Nat) (s : State) : Host.Outcome State Fault Refusal :=
  .next (match (s.part? p).bind fun P => (Table.get? P.run.ops op).map fun o => (P, o) with
    | some (P, .probe gid lines cores) =>
      if !cores.contains core.toNat then s
      else
        let hit := P.probed core.toNat lines
        if hit.isEmpty then
          if P.run.teams.any fun e => e.2.core == core.toNat && e.2.commit.any fun c => c.filter.any lines.contains then s
          else s.setPart p ((P.setOp op (.probe gid lines (removeNum cores core.toNat))).modGroup gid Group.wake)
        else hit.foldl (fun s tk =>
          if (s.part? p).any fun P => (P.team? tk).any fun t => t.commit.isNone then s.beginCommit p tk 0 false else s) s
    | _ => s)

end Sys2Proof.Machine
end

