-- ==== Sys2Proof/Machine/VecFloat.lean ====
section
/-!
DEFINITION. The floating-point and conversion instructions (spec/05_group_float.md).
-/
namespace Sys2Proof.Machine

/-! ## TYPE codes (R125) -/

def tFloat (t : Nat) : Bool := decide (8 ≤ t) && decide (t ≤ 11)
def tTrans (t : Nat) : Bool := t == 8 || t == 10 || t == 11
def tHalf (t : Nat) : Bool := t == 10 || t == 11
def tClass (t : Nat) : Bool := decide (8 ≤ t) && decide (t ≤ 13)

/-- The format of a floating type. -/
def Ty.fmt (t : Ty) : Fmt := match t.kind with
  | .float f => f
  | _ => f32

/-! ## The mould of R124 -/

/-- A propagated NaN first, then the instruction's own case; `us` are the operands that it uses, in the order of R74. -/
def floatElem (f : Fmt) (v : Env) (us : List Nat) (own : List FVal → Nat × Nat) : Nat × Nat :=
  let xs := us.map (readF f v.ftz)
  match firstNan xs with
  | some (n, p) => (keepNan f v.nanm n p, 0)
  | none => own xs

/-- An element-wise instruction of A, and of B and the old destination where it uses them. -/
def Ctx.floatOp (c : Ctx) (op : Nat) (ok : Nat → Bool) (d : VReg) (a b : Operand) (useB useD : Bool)
    (own : Fmt → Env → List FVal → Nat × Nat) : Res :=
  c.typed op ok fun t =>
    c.checked (c.mould t d (c.operand t.wide a) (c.operand t.wide b) fun _ _ x y z =>
      floatElem t.fmt c.g.env ([x] ++ (if useB then [y] else []) ++ (if useD then [z] else [])) (own t.fmt c.g.env))

/-- The first and the second operand. -/
def opA (xs : List FVal) : FVal := xs.getD 0 (.fin false 0 0)
def opB (xs : List FVal) : FVal := xs.getD 1 (.fin false 0 0)
def opD (xs : List FVal) : FVal := xs.getD 2 (.fin false 0 0)

/-! ## Arithmetic (R126 to R128) -/

/-- A product rounded once. -/
def prodElem (f : Fmt) (v : Env) (xs : List FVal) : Nat × Nat :=
  match mulF (opA xs) (opB xs) with
  | none => genNan f v.nanm 3
  | some (.inf n) => (f.sign n + f.topBits, 0)
  | some (.fin n m e) => if m = 0 then (f.sign n, 0) else roundF f v n m e
  | some (.nan _ _) => (0, 0)

/-- A quotient (R126). -/
def divElem (f : Fmt) (v : Env) (xs : List FVal) : Nat × Nat :=
  let a := opA xs
  let b := opB xs
  let neg := a.neg != b.neg
  if (a.isZero && b.isZero) || (a.isInf && b.isInf) then genNan f v.nanm 4
  else if a.isInf then (f.sign neg + f.topBits, 0)
  else if b.isInf || a.isZero then (f.sign neg, 0)
  else if b.isZero then (f.sign neg + f.topBits, fDZ)
  else match a, b with
    | .fin _ m e, .fin _ m' e' =>
      let (q, qe) := divF 64 m e m' e'
      roundF f v neg q qe
    | _, _ => (0, 0)

/-- d ± a × b with one rounding (R127). -/
def fmaElem (minus : Bool) (f : Fmt) (v : Env) (xs : List FVal) : Nat × Nat :=
  match mulF (opA xs) (opB xs) with
  | none => genNan f v.nanm 3
  | some p => sumF f v [if minus then p.negate else p, opD xs]

def execFadd (d : VReg) (a b : Operand) (s : State) : Host.Outcome State Fault Refusal :=
  issue (.fadd d a b) s fun c => c.floatOp 0x50 tFloat d a b true false fun f v xs => sumF f v xs
def execFsub (d : VReg) (a b : Operand) (s : State) : Host.Outcome State Fault Refusal :=
  issue (.fsub d a b) s fun c => c.floatOp 0x51 tFloat d a b true false fun f v xs => sumF f v [opA xs, (opB xs).negate]
def execFmul (d : VReg) (a b : Operand) (s : State) : Host.Outcome State Fault Refusal :=
  issue (.fmul d a b) s fun c => c.floatOp 0x52 tFloat d a b true false prodElem
def execFma (d : VReg) (a b : Operand) (s : State) : Host.Outcome State Fault Refusal :=
  issue (.fma d a b) s fun c => c.floatOp 0x53 tFloat d a b true true (fmaElem false)
def execFms (d : VReg) (a b : Operand) (s : State) : Host.Outcome State Fault Refusal :=
  issue (.fms d a b) s fun c => c.floatOp 0x54 tFloat d a b true true (fmaElem true)

/-- An operand's encoding as it is read under FTZ. -/
def readBits (f : Fmt) (ftz : Bool) (x : Nat) : Nat :=
  if ftz && subnormal f x then f.sign (x / f.signBit % 2 == 1) else x

/-- `fmin` and `fmax` (R128): −0 is less than +0; one NaN gives the other operand. -/
def minmaxElem (greater : Bool) (f : Fmt) (v : Env) (x y : Nat) : Nat × Nat :=
  let a := readF f v.ftz x
  let b := readF f v.ftz y
  match a, b with
  | .nan n p, .nan _ _ => (keepNan f v.nanm n p, 0)
  | .nan _ _, _ => (readBits f v.ftz y, 0)
  | _, .nan _ _ => (readBits f v.ftz x, 0)
  | _, _ =>
    let less := floatLess a b || (floatEqual a b && a.neg && !b.neg)
    let more := floatLess b a || (floatEqual a b && b.neg && !a.neg)
    (if (if greater then more || !less else less || !more) then readBits f v.ftz x else readBits f v.ftz y, 0)

def Ctx.minmax (c : Ctx) (op : Nat) (d : VReg) (a b : Operand) (greater : Bool) : Res :=
  c.typed op tFloat fun t =>
    c.checked (c.mould t d (c.operand t.wide a) (c.operand t.wide b) fun _ _ x y _ => minmaxElem greater t.fmt c.g.env x y)

def execFmin (d : VReg) (a b : Operand) (s : State) : Host.Outcome State Fault Refusal :=
  issue (.fmin d a b) s fun c => c.minmax 0x55 d a b false
def execFmax (d : VReg) (a b : Operand) (s : State) : Host.Outcome State Fault Refusal :=
  issue (.fmax d a b) s fun c => c.minmax 0x56 d a b true
def execFdiv (d : VReg) (a b : Operand) (s : State) : Host.Outcome State Fault Refusal :=
  issue (.fdiv d a b) s fun c => c.floatOp 0x57 tFloat d a b true false divElem

/-! ## Roots, reciprocals, transcendental functions (R129, R130) -/

/-- 1.0 of a format, as an encoding. -/
def Fmt.one (f : Fmt) : Nat := f.bias * 2 ^ f.fb

def sqrtElem (f : Fmt) (v : Env) (xs : List FVal) : Nat × Nat :=
  match opA xs with
  | .inf n => if n then genNan f v.nanm 5 else (f.topBits, 0)
  | .fin n m e =>
    if m = 0 then (f.sign n, 0)
    else if n then genNan f v.nanm 5
    else let (r, re) := sqrtF 64 m e; roundF f v false r re
  | .nan _ _ => (0, 0)

def rcpElem (f : Fmt) (v : Env) (xs : List FVal) : Nat × Nat :=
  match opA xs with
  | .inf n => (f.sign n, 0)
  | .fin n m e =>
    if m = 0 then (f.sign n + f.topBits, fDZ) else let (r, re) := divF 64 1 0 m e; roundF f v n r re
  | .nan _ _ => (0, 0)

def rsqElem (f : Fmt) (v : Env) (xs : List FVal) : Nat × Nat :=
  match opA xs with
  | .inf n => if n then genNan f v.nanm 5 else (0, 0)
  | .fin n m e =>
    if m = 0 then (f.sign n + f.topBits, fDZ)
    else if n then genNan f v.nanm 5
    else let (r, re) := rsqrtF 64 m e; roundF f v false r re
  | .nan _ _ => (0, 0)

/-- A finite value as an integer, if it is one. -/
def asInt (m : Nat) (e : Int) : Option Int :=
  if 0 ≤ e then some (m * 2 ^ e.toNat : Nat) else if m % 2 ^ (-e).toNat = 0 then some (m / 2 ^ (-e).toNat : Nat) else none

/-- 2^a; a power beyond ±2048 has the same result as 2^±2048 in every format of R125. -/
def exp2Elem (f : Fmt) (v : Env) (xs : List FVal) : Nat × Nat :=
  match opA xs with
  | .inf n => (if n then 0 else f.topBits, 0)
  | .fin n m e =>
    if m = 0 then (f.one, 0)
    else if lessMag 2048 0 m e then roundF f v false 1 (if n then -2048 else 2048)
    else match asInt m e with
      | some i => roundF f v false 1 (if n then -i else i)
      | none => let (r, re) := exp2F (if n then -(m : Int) else m, e); roundF f v false r re
  | .nan _ _ => (0, 0)

def log2Elem (f : Fmt) (v : Env) (xs : List FVal) : Nat × Nat :=
  match opA xs with
  | .inf n => if n then genNan f v.nanm 5 else (f.topBits, 0)
  | .fin n m e =>
    if m = 0 then (f.sign true + f.topBits, fDZ)
    else if n then genNan f v.nanm 5
    else if m = 2 ^ m.log2 then roundDy f v false (e + m.log2, 0)
    else
      let x := log2Fx m e
      let (r, re) := sticky x.natAbs (-(fxBits : Int)) false
      roundF f v (decide (x < 0)) r re
  | .nan _ _ => (0, 0)

/-- sin(π m 2^e) without its sign bit: the sign it adds, and its magnitude; none for zero. -/
def sinpiOf (m : Nat) (e : Int) : Option (Bool × Nat × Int) :=
  if 0 ≤ e then none
  else
    let k := (-e).toNat
    let r := m % 2 ^ (k + 1)
    let (neg, r) := if 2 ^ k ≤ r then (true, r - 2 ^ k) else (false, r)
    let r := if 2 ^ k < 2 * r then 2 ^ k - r else r
    if r = 0 then none
    else if 2 * r = 2 ^ k then some (neg, 1, 0)
    else
      let (y, ye) := sticky (sinpiFx r k) (-(fxBits : Int)) false
      some (neg, y, ye)

/-- cos(π m 2^e), the same. -/
def cospiOf (m : Nat) (e : Int) : Option (Bool × Nat × Int) :=
  if 0 < e then some (false, 1, 0)
  else
    let k := (-e).toNat
    let r := m % 2 ^ (k + 1)
    let r := if 2 ^ k < r then 2 ^ (k + 1) - r else r
    let (neg, r) := if 2 ^ k < 2 * r then (true, 2 ^ k - r) else (false, r)
    if 2 * r = 2 ^ k then none
    else if r = 0 then some (neg, 1, 0)
    else
      let (y, ye) := sticky (cospiFx r k) (-(fxBits : Int)) false
      some (neg, y, ye)

def sinpiElem (f : Fmt) (v : Env) (xs : List FVal) : Nat × Nat :=
  match opA xs with
  | .inf _ => genNan f v.nanm 2
  | .fin n m e => match sinpiOf m e with
    | none => (f.sign n, 0)
    | some (neg, y, ye) => roundF f v (n != neg) y ye
  | .nan _ _ => (0, 0)

def cospiElem (f : Fmt) (v : Env) (xs : List FVal) : Nat × Nat :=
  match opA xs with
  | .inf _ => genNan f v.nanm 2
  | .fin _ m e => match cospiOf m e with
    | none => (0, 0)
    | some (neg, y, ye) => roundF f v neg y ye
  | .nan _ _ => (0, 0)

def execFsqrt (d : VReg) (a : Operand) (s : State) : Host.Outcome State Fault Refusal :=
  issue (.fsqrt d a) s fun c => c.floatOp 0x58 tFloat d a a false false sqrtElem
def execFrcp (d : VReg) (a : Operand) (s : State) : Host.Outcome State Fault Refusal :=
  issue (.frcp d a) s fun c => c.floatOp 0x59 tFloat d a a false false rcpElem
def execFrsq (d : VReg) (a : Operand) (s : State) : Host.Outcome State Fault Refusal :=
  issue (.frsq d a) s fun c => c.floatOp 0x5A tFloat d a a false false rsqElem
def execFexp2 (d : VReg) (a : Operand) (s : State) : Host.Outcome State Fault Refusal :=
  issue (.fexp2 d a) s fun c => c.floatOp 0x5B tTrans d a a false false exp2Elem
def execFlog2 (d : VReg) (a : Operand) (s : State) : Host.Outcome State Fault Refusal :=
  issue (.flog2 d a) s fun c => c.floatOp 0x5C tTrans d a a false false log2Elem
def execFsinpi (d : VReg) (a : Operand) (s : State) : Host.Outcome State Fault Refusal :=
  issue (.fsinpi d a) s fun c => c.floatOp 0x5D tTrans d a a false false sinpiElem
def execFcospi (d : VReg) (a : Operand) (s : State) : Host.Outcome State Fault Refusal :=
  issue (.fcospi d a) s fun c => c.floatOp 0x5E tTrans d a a false false cospiElem

/-! ## Rounding to integer, scaling, exponents (R131 to R133) -/

def rintElem (f : Fmt) (v : Env) (xs : List FVal) : Nat × Nat :=
  match opA xs with
  | .inf n => (f.sign n + f.topBits, 0)
  | .fin n m e =>
    let (i, ex) := roundInt v.rnd 0 n m e
    (if i = 0 then f.sign n else (roundF f v n i.natAbs 0).1, if ex then 0 else fINX)
  | .nan _ _ => (0, 0)

/-- a × 2^n (R132); a scale beyond ±16384 has the same result as one of that size. -/
def scaleElem (f : Fmt) (v : Env) (n : Int) (xs : List FVal) : Nat × Nat :=
  match opA xs with
  | .inf s => (f.sign s + f.topBits, 0)
  | .fin s m e => if m = 0 then (f.sign s, 0) else roundF f v s m (e + max (-16384) (min n 16384))
  | .nan _ _ => (0, 0)

def getexpElem (f : Fmt) (v : Env) (xs : List FVal) : Nat × Nat :=
  match opA xs with
  | .inf _ => (f.topBits, 0)
  | .fin _ m e => if m = 0 then (f.sign true + f.topBits, fDZ) else roundDy f v false (e + m.log2, 0)
  | .nan _ _ => (0, 0)

def execFrint (d : VReg) (a : Operand) (s : State) : Host.Outcome State Fault Refusal :=
  issue (.frint d a) s fun c => c.floatOp 0x5F tFloat d a a false false rintElem
def execFscale (d : VReg) (a b : Operand) (s : State) : Host.Outcome State Fault Refusal :=
  issue (.fscale d a b) s fun c => c.typed 0x62 tFloat fun t =>
    c.checked (c.mould t d (c.operand t.wide a) (c.operand t.wide b) fun _ _ x y _ =>
      floatElem t.fmt c.g.env [x] (scaleElem t.fmt c.g.env (sextNat t.w y)))
def execFgetexp (d : VReg) (a : Operand) (s : State) : Host.Outcome State Fault Refusal :=
  issue (.fgetexp d a) s fun c => c.floatOp 0x63 tFloat d a a false false getexpElem

/-! ## Dot product of pairs (R134) -/

/-- One lane of `fdot2`. DEDUCED: a NaN accumulator, which is binary32 already, keeps its payload (R74); one of the narrower operands is
converted by R76 (notes/assumptions/106.md). -/
def dot2Lane (f : Fmt) (v : Env) (x y z : Nat) : Nat × Nat :=
  let a := (List.range 2).map fun k => readF f v.ftz (elem 16 k x)
  let b := (List.range 2).map fun k => readF f v.ftz (elem 16 k y)
  let d := readF f32 v.ftz z
  match firstNan (a ++ b) with
  | some (n, p) => (carryNan f32 v.nanm n (p % 16), 0)
  | none =>
    match d with
    | .nan n p => (keepNan f32 v.nanm n p, 0)
    | _ =>
      match mulF (a.getD 0 d) (b.getD 0 d), mulF (a.getD 1 d) (b.getD 1 d) with
      | some p, some q => sumF f32 v [p, q, d]
      | _, _ => genNan f32 v.nanm 3

def execFdot2 (d : VReg) (a b : Operand) (s : State) : Host.Outcome State Fault Refusal :=
  issue (.fdot2 d a b) s fun c => c.typed 0x65 tHalf fun t =>
    c.checked (c.g.putLanes false d (c.g.actives.map fun i =>
      (i, dot2Lane t.fmt c.g.env (c.operand false a i) (c.operand false b i) (c.g.direct false d.toNat i))))

/-! ## Classification and NaN causes (R135, R136) -/

/-- The class of an encoding, as a bit number of the mask. -/
def classOf (f : Fmt) (x : Nat) : Nat :=
  match unpack f x with
  | .nan _ _ => 0
  | .inf n => if n then 1 else 8
  | .fin n m _ =>
    if m = 0 then (if n then 4 else 5)
    else if subnormal f x then (if n then 3 else 6)
    else if n then 2 else 7

def execFclass (k : BitVec 3) (q : QReg) (a : Operand) (m : BitVec 9) (s : State) : Host.Outcome State Fault Refusal :=
  issue (.fclass k q a m) s fun c => c.typed 0x60 tClass fun t =>
    c.checked (c.compare k q fun i => (List.range t.n).any fun j => m.getLsbD (classOf t.fmt (elem t.w j (c.operand t.wide a i))))

def execFnanc (d : VReg) (a : Operand) (s : State) : Host.Outcome State Fault Refusal :=
  issue (.fnanc d a) s fun c => c.typed 0x64 tFloat fun t =>
    c.checked (c.mould t d (c.operand t.wide a) (fun _ => 0) fun _ _ x _ _ =>
      (if (unpack t.fmt x).isNan then x % 16 else 2 ^ t.w - 1, 0))

/-! ## Conversion (R137, R138) -/

/-- A lane of `cvt` between different types. -/
def cvtLane (g : Group) (lane : Nat) (src dst : Ty) (x : Nat) : Nat × Nat :=
  packElems dst.w ((List.range (min src.n dst.n)).map fun k => convert (g.drawEnv lane k) src dst (elem src.w k x))

def execCvt (d : VReg) (a : Operand) (t : BitVec 5) (s : State) : Host.Outcome State Fault Refusal :=
  issue (.cvt d a t) s fun c => c.typed 0x61 (fun _ => true) fun src =>
    match Ty.ofCode t.toNat with
    | none => .trap c.s (rejectionOf (.cvt d a t))
    | some dst =>
      c.checked (c.g.putLanes dst.wide d (c.g.actives.map fun i =>
        let x := c.operand src.wide a i
        (i, if t.toNat = c.g.ty then (x, 0) else cvtLane c.g i src dst x))).drawn

end Sys2Proof.Machine
end

