-- ==== Sys2Proof/Machine/VecInt.lean ====
section
/-!
DEFINITION. The integer, logic, predicate, permute, scalar and uniform instructions (spec/04_group_integer.md).
-/
namespace Sys2Proof.Machine

/-! ## Integer arithmetic (R99 to R103) -/

/-- An integer instruction of three operands: f on exact integers, then fit (R99, R100). -/
def Ctx.intOp (c : Ctx) (op : Nat) (ok : Nat → Bool) (d : VReg) (a b : Operand) (f : Nat → Int → Int → Int → Int) : Res :=
  c.typed op ok fun t =>
    let v := intOf t.signed t.w
    c.checked (c.mould t d (c.operand t.wide a) (c.operand t.wide b) fun _ _ x y z => fit c.g.sat t.signed t.w (f t.w (v x) (v y) (v z)))

/-- The same with a direct A and an immediate (R102). -/
def Ctx.intImm (c : Ctx) (op : Nat) (d a : VReg) (i : BitVec 12) (f : Int → Int → Int) : Res :=
  c.typed op tInt fun t =>
    c.checked (c.mould t d (c.g.direct t.wide a.toNat) (fun _ => 0) fun _ _ x _ _ =>
      fit c.g.sat t.signed t.w (f (intOf t.signed t.w x) i.toInt))

/-- `mad2` and `dot4` (R101): 32-bit accumulation of the packed products of elements 0 to n − 1. -/
def Ctx.dotOp (c : Ctx) (op : Nat) (d : VReg) (a b : Operand) (count : Nat → Nat) : Res :=
  c.typed op (fun t => decide (4 ≤ t) && decide (t ≤ 7)) fun t =>
    let v := intOf t.signed t.w
    c.checked (c.g.putLanes false d (c.g.actives.map fun i =>
      let x := c.operand false a i
      let y := c.operand false b i
      let sum := (List.range (count t.n)).foldl (fun acc k => acc + v (elem t.w k x) * v (elem t.w k y))
        (intOf t.signed 32 (c.g.direct false d.toNat i))
      (i, fit c.g.sat t.signed 32 sum)))

def execAdd (d : VReg) (a b : Operand) (s : State) : Host.Outcome State Fault Refusal :=
  issue (.add d a b) s fun c => c.intOp 0x20 tInt d a b fun _ x y _ => x + y
def execSub (d : VReg) (a b : Operand) (s : State) : Host.Outcome State Fault Refusal :=
  issue (.sub d a b) s fun c => c.intOp 0x21 tInt d a b fun _ x y _ => x - y
def execMul (d : VReg) (a b : Operand) (s : State) : Host.Outcome State Fault Refusal :=
  issue (.mul d a b) s fun c => c.intOp 0x22 tInt d a b fun _ x y _ => x * y
def execMulh (d : VReg) (a b : Operand) (s : State) : Host.Outcome State Fault Refusal :=
  issue (.mulh d a b) s fun c => c.intOp 0x23 tInt d a b fun w x y _ => (x * y) / ((2 ^ w : Nat) : Int)
def execMad (d : VReg) (a b : Operand) (s : State) : Host.Outcome State Fault Refusal :=
  issue (.mad d a b) s fun c => c.intOp 0x24 tInt d a b fun _ x y z => z + x * y
def execMsb (d : VReg) (a b : Operand) (s : State) : Host.Outcome State Fault Refusal :=
  issue (.msb d a b) s fun c => c.intOp 0x25 tInt d a b fun _ x y z => z - x * y
def execMad2 (d : VReg) (a b : Operand) (s : State) : Host.Outcome State Fault Refusal :=
  issue (.mad2 d a b) s fun c => c.dotOp 0x26 d a b fun _ => 2
def execDot4 (d : VReg) (a b : Operand) (s : State) : Host.Outcome State Fault Refusal :=
  issue (.dot4 d a b) s fun c => c.dotOp 0x27 d a b fun n => n

/-- The B field of a unary form names no operand. -/
def noOperand : Operand := ⟨.own, 0⟩

def execAbs (d : VReg) (a : Operand) (s : State) : Host.Outcome State Fault Refusal :=
  issue (.abs d a) s fun c => c.intOp 0x28 tSigned d a noOperand fun _ x _ _ => x.natAbs
def execNeg (d : VReg) (a : Operand) (s : State) : Host.Outcome State Fault Refusal :=
  issue (.neg d a) s fun c => c.intOp 0x29 tSigned d a noOperand fun _ x _ _ => -x
def execMin (d : VReg) (a b : Operand) (s : State) : Host.Outcome State Fault Refusal :=
  issue (.min d a b) s fun c => c.intOp 0x2A tInt d a b fun _ x y _ => min x y
def execMax (d : VReg) (a b : Operand) (s : State) : Host.Outcome State Fault Refusal :=
  issue (.max d a b) s fun c => c.intOp 0x2B tInt d a b fun _ x y _ => max x y
def execAvg (d : VReg) (a b : Operand) (s : State) : Host.Outcome State Fault Refusal :=
  issue (.avg d a b) s fun c => c.intOp 0x2C tInt d a b fun _ x y _ => (x + y + 1) / 2
def execAddi (d a : VReg) (i : BitVec 12) (s : State) : Host.Outcome State Fault Refusal :=
  issue (.addi d a i) s fun c => c.intImm 0x2E d a i fun x k => x + k
def execMuli (d a : VReg) (i : BitVec 12) (s : State) : Host.Outcome State Fault Refusal :=
  issue (.muli d a i) s fun c => c.intImm 0x2F d a i fun x k => x * k

/-- One element of `rsh` (R103). -/
def rshElem (v : Env) (signed : Bool) (w x y : Nat) : Nat × Nat :=
  let cnt := y % w
  let i := intOf signed w x
  let (q, ex) := roundInt v.rnd v.draw (decide (i < 0)) i.natAbs (-(cnt : Int))
  let inx := if ex then 0 else fINX
  if bitOf y 7 then
    let (h, fl) := fit v.sat signed (w / 2) q
    (wrapNat w (intOf signed (w / 2) h), fl + inx)
  else (wrapNat w q, inx)

def execRsh (d : VReg) (a b : Operand) (s : State) : Host.Outcome State Fault Refusal :=
  issue (.rsh d a b) s fun c =>
    c.typed 0x2D (fun t => decide (t ≤ 5)) fun t =>
      c.checked (c.mould t d (c.operand t.wide a) (c.operand t.wide b) fun i k x y _ =>
        rshElem (c.g.drawEnv i k) t.signed t.w x y).drawn

/-! ## Logic, shifts, bit fields (R104 to R107) -/

/-- A logic instruction on the whole 32-bit lane value. -/
def Ctx.logic (c : Ctx) (d : VReg) (a b : Operand) (f : Word → Word → Word) : Res :=
  c.checked (c.words d fun i =>
    (f (BitVec.ofNat 32 (c.operand false a i)) (BitVec.ofNat 32 (c.operand false b i))).toNat)

def execAnd (d : VReg) (a b : Operand) (s : State) : Host.Outcome State Fault Refusal :=
  issue (.and d a b) s fun c => c.logic d a b fun x y => x &&& y
def execOr (d : VReg) (a b : Operand) (s : State) : Host.Outcome State Fault Refusal :=
  issue (.or d a b) s fun c => c.logic d a b fun x y => x ||| y
def execXor (d : VReg) (a b : Operand) (s : State) : Host.Outcome State Fault Refusal :=
  issue (.xor d a b) s fun c => c.logic d a b fun x y => x ^^^ y
def execAndn (d : VReg) (a b : Operand) (s : State) : Host.Outcome State Fault Refusal :=
  issue (.andn d a b) s fun c => c.logic d a b fun x y => x &&& ~~~y
def execNot (d : VReg) (a : Operand) (s : State) : Host.Outcome State Fault Refusal :=
  issue (.not d a) s fun c => c.logic d a noOperand fun x _ => ~~~x

/-- The shifts of R105 on an element: left through fit under SAT, right logical, right arithmetic, rotate. -/
def shlElem (sat signed : Bool) (w x cnt : Nat) : Nat × Nat :=
  if sat then fit true signed w (intOf signed w x * ((2 ^ cnt : Nat) : Int)) else (x * 2 ^ cnt % 2 ^ w, 0)
def shrElem (x cnt : Nat) : Nat × Nat := (x / 2 ^ cnt, 0)
def sarElem (w x cnt : Nat) : Nat × Nat := (wrapNat w (sextNat w x / ((2 ^ cnt : Nat) : Int)), 0)
def rolElem (w x cnt : Nat) : Nat × Nat := ((x * 2 ^ cnt + x / 2 ^ (w - cnt)) % 2 ^ w, 0)

/-- A shift by the low bits of B. -/
def Ctx.shift (c : Ctx) (op : Nat) (d : VReg) (a b : Operand) (f : Ty → Nat → Nat → Nat × Nat) : Res :=
  c.typed op tInt fun t =>
    c.checked (c.mould t d (c.operand t.wide a) (c.operand t.wide b) fun _ _ x y _ => f t x (y % t.w))
/-- A shift of a direct register by an immediate count modulo w. -/
def Ctx.shiftImm (c : Ctx) (op : Nat) (d a : VReg) (n : BitVec 6) (f : Ty → Nat → Nat → Nat × Nat) : Res :=
  c.typed op tInt fun t =>
    c.checked (c.mould t d (c.g.direct t.wide a.toNat) (fun _ => 0) fun _ _ x _ _ => f t x (n.toNat % t.w))

def execShl (d : VReg) (a b : Operand) (s : State) : Host.Outcome State Fault Refusal :=
  issue (.shl d a b) s fun c => c.shift 0x35 d a b fun t => shlElem c.g.sat t.signed t.w
def execShr (d : VReg) (a b : Operand) (s : State) : Host.Outcome State Fault Refusal :=
  issue (.shr d a b) s fun c => c.shift 0x36 d a b fun _ => shrElem
def execSar (d : VReg) (a b : Operand) (s : State) : Host.Outcome State Fault Refusal :=
  issue (.sar d a b) s fun c => c.shift 0x37 d a b fun t => sarElem t.w
def execRol (d : VReg) (a b : Operand) (s : State) : Host.Outcome State Fault Refusal :=
  issue (.rol d a b) s fun c => c.shift 0x38 d a b fun t => rolElem t.w
def execShli (d a : VReg) (n : BitVec 6) (s : State) : Host.Outcome State Fault Refusal :=
  issue (.shli d a n) s fun c => c.shiftImm 0x39 d a n fun t => shlElem c.g.sat t.signed t.w
def execShri (d a : VReg) (n : BitVec 6) (s : State) : Host.Outcome State Fault Refusal :=
  issue (.shri d a n) s fun c => c.shiftImm 0x3A d a n fun _ => shrElem
def execSari (d a : VReg) (n : BitVec 6) (s : State) : Host.Outcome State Fault Refusal :=
  issue (.sari d a n) s fun c => c.shiftImm 0x3B d a n fun t => sarElem t.w

/-- A unary instruction on element bit patterns (R106). -/
def Ctx.bits (c : Ctx) (op : Nat) (d : VReg) (a : Operand) (f : Nat → Nat → Nat) : Res :=
  c.typed op tInt fun t =>
    c.checked (c.mould t d (c.operand t.wide a) (fun _ => 0) fun _ _ x _ _ => (f t.w x, 0))

/-- Leading zeros, one bits and the reversed bits of a w-bit pattern. -/
def clzElem (w x : Nat) : Nat := if x = 0 then w else w - 1 - x.log2
def popcElem (w x : Nat) : Nat := (List.range w).foldl (fun n j => n + bit (bitOf x j)) 0
def brevElem (w x : Nat) : Nat := (List.range w).foldl (fun n j => n + bit (bitOf x j) * 2 ^ (w - 1 - j)) 0

def execClz (d : VReg) (a : Operand) (s : State) : Host.Outcome State Fault Refusal :=
  issue (.clz d a) s fun c => c.bits 0x3C d a clzElem
def execPopc (d : VReg) (a : Operand) (s : State) : Host.Outcome State Fault Refusal :=
  issue (.popc d a) s fun c => c.bits 0x3D d a popcElem
def execBrev (d : VReg) (a : Operand) (s : State) : Host.Outcome State Fault Refusal :=
  issue (.brev d a) s fun c => c.bits 0x3E d a brevElem

/-- A bit field of an element (R107). -/
def bfxElem (signed : Bool) (w pos len x : Nat) : Nat :=
  let t : Int := intOf signed w x / ((2 ^ pos : Nat) : Int)
  let l := min len w
  if l = 0 then 0 else wrapNat w (intOf signed l (wrapNat l t))

def execBfx (d a : VReg) (p l : BitVec 6) (s : State) : Host.Outcome State Fault Refusal :=
  issue (.bfx d a p l) s fun c => c.typed 0x3F tScalarInt fun t =>
    c.checked (c.mould t d (c.g.direct t.wide a.toNat) (fun _ => 0) fun _ _ x _ _ => (bfxElem t.signed t.w p.toNat l.toNat x, 0))

/-! ## Compares and predicates (R108 to R110) -/

/-- TYPE codes of the compares. -/
def tCompare (t : Nat) : Bool := decide (t ≤ 3) || t == 8 || t == 9

def Ctx.cmp (c : Ctx) (op : Nat) (ok : Nat → Bool) (comb : BitVec 3) (q : QReg) (a b : Operand) (r : Ty → Nat → Nat → Bool) : Res :=
  c.typed op ok fun t => c.checked (c.compare comb q fun i => r t (c.operand t.wide a i) (c.operand t.wide b i))

def execCeq (k : BitVec 3) (q : QReg) (a b : Operand) (s : State) : Host.Outcome State Fault Refusal :=
  issue (.ceq k q a b) s fun c => c.cmp 0x40 tCompare k q a b fun t x y => t.equal c.g.ftz x y
def execCne (k : BitVec 3) (q : QReg) (a b : Operand) (s : State) : Host.Outcome State Fault Refusal :=
  issue (.cne k q a b) s fun c => c.cmp 0x41 tCompare k q a b fun t x y => !t.equal c.g.ftz x y
def execClt (k : BitVec 3) (q : QReg) (a b : Operand) (s : State) : Host.Outcome State Fault Refusal :=
  issue (.clt k q a b) s fun c => c.cmp 0x42 tCompare k q a b fun t x y => t.less c.g.ftz x y
def execCle (k : BitVec 3) (q : QReg) (a b : Operand) (s : State) : Host.Outcome State Fault Refusal :=
  issue (.cle k q a b) s fun c => c.cmp 0x43 tCompare k q a b fun t x y => t.less c.g.ftz x y || t.equal c.g.ftz x y

/-- An element of a floating type is a NaN. -/
def Ty.isNan (t : Ty) (x : Nat) : Bool := match t.kind with
  | .float f => (unpack f x).isNan
  | _ => false

def execCun (k : BitVec 3) (q : QReg) (a b : Operand) (s : State) : Host.Outcome State Fault Refusal :=
  issue (.cun k q a b) s fun c => c.cmp 0x44 (fun t => t == 8 || t == 9) k q a b fun t x y => t.isNan x || t.isNan y
def execCtst (k : BitVec 3) (q : QReg) (a b : Operand) (s : State) : Host.Outcome State Fault Refusal :=
  issue (.ctst k q a b) s fun c =>
    c.checked (c.compare k q fun i => c.operand false a i &&& c.operand false b i != 0)

/-- `qop`'s operation (R109). -/
def qopOf (o : Nat) (a b : Bool) : Bool :=
  match o with
  | 0 => a && b
  | 1 => a || b
  | 2 => a != b
  | 3 => a && !b
  | 4 => !(a && b)
  | 5 => !(a || b)
  | 6 => a
  | _ => !a

def execQop (o : BitVec 3) (d a b : QReg) (s : State) : Host.Outcome State Fault Refusal :=
  issue (.qop o d a b) s fun c =>
    c.checked (c.g.writeQ d (c.g.actives.map fun i => (i, qopOf o.toNat (c.g.pred a.toNat i) (c.g.pred b.toNat i))))

def execQfv (d : QReg) (a : VReg) (b : BitVec 5) (s : State) : Host.Outcome State Fault Refusal :=
  issue (.qfv d a b) s fun c =>
    c.checked (c.g.writeQ d (c.g.actives.map fun i => (i, (c.g.vreg a.toNat i).getLsbD b.toNat)))
def execQfvAll (a : VReg) (s : State) : Host.Outcome State Fault Refusal :=
  issue (.qfvAll a) s fun c =>
    c.checked ((List.range 8).foldl (fun g k =>
      g.writeQ (BitVec.ofNat 3 k) (c.g.actives.map fun i => (i, (c.g.vreg a.toNat i).getLsbD k))) c.g)
def execQtv (d : VReg) (s : State) : Host.Outcome State Fault Refusal :=
  issue (.qtv d) s fun c =>
    c.checked (c.words d fun i => (List.range 8).foldl (fun n k => n + bit (c.g.pred k i) * 2 ^ k) 0)

/-! ## Moves, selection, permutation (R111 to R115) -/

def execMov (d : VReg) (a : Operand) (s : State) : Host.Outcome State Fault Refusal :=
  issue (.mov d a) s fun c => c.checked (c.words d (c.operand false a))
def execMovi (d : VReg) (i : BitVec 18) (s : State) : Host.Outcome State Fault Refusal :=
  issue (.movi d i) s fun c => c.checked (c.words d fun _ => (i.signExtend 32).toNat)
def execMovhi (d : VReg) (i : BitVec 18) (s : State) : Host.Outcome State Fault Refusal :=
  issue (.movhi d i) s fun c => c.checked (c.words d fun l => c.g.direct false d.toNat l % 2 ^ 14 + i.toNat * 2 ^ 14)
def execSel (d : VReg) (a b : Operand) (s : State) : Host.Outcome State Fault Refusal :=
  issue (.sel d a b) s fun c =>
    c.checked (c.words d fun i => if c.g.pred c.g.guard i then c.operand false a i else c.operand false b i)
def execShfl (d : VReg) (a b : Operand) (s : State) : Host.Outcome State Fault Refusal :=
  issue (.shfl d a b) s fun c => c.checked (c.words d fun i => c.operand false a (c.operand false b i % 32))

/-- Element e of the sequence of 64 that `hslide` moves, as it is read (R114). -/
def Ctx.half (c : Ctx) (a : Operand) (e : Nat) : Nat := elem 16 (e % 2) (c.operand false a (e / 2))
/-- What comes in at an edge. -/
def Ctx.slideFill (c : Ctx) (edge : Nat) : Nat := match c.g.fill with
  | 0 => 0
  | 1 => edge
  | _ => (c.k 15).toNat % 65536

def execHslide (d : VReg) (a : Operand) (r : Bool) (s : State) : Host.Outcome State Fault Refusal :=
  issue (.hslide d a r) s fun c =>
    let new (e : Nat) : Nat :=
      if r then (if e = 63 then c.slideFill (c.half a 63) else c.half a (e + 1))
      else if e = 0 then c.slideFill (c.half a 0) else c.half a (e - 1)
    c.checked (c.words d fun i => new (2 * i) + new (2 * i + 1) * 65536)

def execVfill (d : VReg) (a : SReg) (s : State) : Host.Outcome State Fault Refusal :=
  issue (.vfill d a) s fun c => c.typed 0x4F (fun _ => true) fun t =>
    c.checked (c.g.putLanes t.wide d (c.g.actives.map fun i => (i, ((c.g.sreg a).toNat, 0))))

/-! ## Scalar instructions (R116) -/

/-- An instruction that writes one scalar register. -/
def Ctx.scalar (c : Ctx) (d : SReg) (x : DWord) : Res := c.finish (c.g.setS d x)

def execSadd (d a b : SReg) (s : State) : Host.Outcome State Fault Refusal :=
  issue (.sadd d a b) s fun c => c.scalar d (c.g.sreg a + c.g.sreg b)
def execSsub (d a b : SReg) (s : State) : Host.Outcome State Fault Refusal :=
  issue (.ssub d a b) s fun c => c.scalar d (c.g.sreg a - c.g.sreg b)
def execSmul (d a b : SReg) (s : State) : Host.Outcome State Fault Refusal :=
  issue (.smul d a b) s fun c => c.scalar d (c.g.sreg a * c.g.sreg b)
def execSaddi (d a : SReg) (i : BitVec 14) (s : State) : Host.Outcome State Fault Refusal :=
  issue (.saddi d a i) s fun c => c.scalar d (c.g.sreg a + i.signExtend 64)
def execSand (d a b : SReg) (s : State) : Host.Outcome State Fault Refusal :=
  issue (.sand d a b) s fun c => c.scalar d (c.g.sreg a &&& c.g.sreg b)
def execSor (d a b : SReg) (s : State) : Host.Outcome State Fault Refusal :=
  issue (.sor d a b) s fun c => c.scalar d (c.g.sreg a ||| c.g.sreg b)
def execSxor (d a b : SReg) (s : State) : Host.Outcome State Fault Refusal :=
  issue (.sxor d a b) s fun c => c.scalar d (c.g.sreg a ^^^ c.g.sreg b)
def execSshlReg (d a b : SReg) (s : State) : Host.Outcome State Fault Refusal :=
  issue (.sshlReg d a b) s fun c => c.scalar d (c.g.sreg a <<< ((c.g.sreg b).toNat % 64))
def execSshlImm (d a : SReg) (n : BitVec 6) (s : State) : Host.Outcome State Fault Refusal :=
  issue (.sshlImm d a n) s fun c => c.scalar d (c.g.sreg a <<< n.toNat)
def execSshrReg (d a b : SReg) (s : State) : Host.Outcome State Fault Refusal :=
  issue (.sshrReg d a b) s fun c => c.scalar d (c.g.sreg a >>> ((c.g.sreg b).toNat % 64))
def execSshrImm (d a : SReg) (n : BitVec 6) (s : State) : Host.Outcome State Fault Refusal :=
  issue (.sshrImm d a n) s fun c => c.scalar d (c.g.sreg a >>> n.toNat)
def execSsarReg (d a b : SReg) (s : State) : Host.Outcome State Fault Refusal :=
  issue (.ssarReg d a b) s fun c => c.scalar d ((c.g.sreg a).sshiftRight ((c.g.sreg b).toNat % 64))
def execSsarImm (d a : SReg) (n : BitVec 6) (s : State) : Host.Outcome State Fault Refusal :=
  issue (.ssarImm d a n) s fun c => c.scalar d ((c.g.sreg a).sshiftRight n.toNat)
def execSmovi (d : SReg) (i : BitVec 19) (s : State) : Host.Outcome State Fault Refusal :=
  issue (.smovi d i) s fun c => c.scalar d (i.signExtend 64)
def execSmovs (d : SReg) (i : BitVec 19) (s : State) : Host.Outcome State Fault Refusal :=
  issue (.smovs d i) s fun c => c.scalar d ((c.g.sreg d <<< 19) ||| i.setWidth 64)
def execSceq (d a b : SReg) (s : State) : Host.Outcome State Fault Refusal :=
  issue (.sceq d a b) s fun c => c.scalar d (if c.g.sreg a = c.g.sreg b then 1 else 0)
def execSclt (d a b : SReg) (s : State) : Host.Outcome State Fault Refusal :=
  issue (.sclt d a b) s fun c => c.scalar d (if (c.g.sreg a).slt (c.g.sreg b) then 1 else 0)
def execScltn (d a b : SReg) (s : State) : Host.Outcome State Fault Refusal :=
  issue (.scltn d a b) s fun c => c.scalar d (if (c.g.sreg a).ult (c.g.sreg b) then 1 else 0)

/-! ## Between lanes and scalars (R117 to R120) -/

/-- `vred`'s step and its identity for lane values of w bits (R117). -/
def redStep (o : Nat) (x y : DWord) : DWord :=
  match o with
  | 0 => x + y
  | 1 => if y.slt x then y else x
  | 2 => if x.slt y then y else x
  | 3 => x &&& y
  | 4 => x ||| y
  | 5 => x ^^^ y
  | 6 => if y.ult x then y else x
  | _ => if x.ult y then y else x
def redIdentity (o w : Nat) : DWord :=
  match o with
  | 0 => 0
  | 1 => BitVec.ofNat 64 (2 ^ (w - 1) - 1)
  | 2 => -BitVec.ofNat 64 (2 ^ (w - 1))
  | 3 => BitVec.allOnes 64
  | 4 => 0
  | 5 => 0
  | 6 => BitVec.ofNat 64 (2 ^ w - 1)
  | _ => 0

def execVred (d : SReg) (o : BitVec 3) (m : VReg) (s : State) : Host.Outcome State Fault Refusal :=
  issue (.vred d o m) s fun c => c.typed 0x77 tScalarInt fun t =>
    c.checked (c.g.setS d (c.g.actives.foldl (fun acc i =>
      redStep o.toNat acc (BitVec.ofInt 64 (intOf t.signed t.w (c.g.direct t.wide m.toNat i)))) (redIdentity o.toNat t.w)))

def execVlane (d a : SReg) (p : Bool) (m : VReg) (s : State) : Host.Outcome State Fault Refusal :=
  issue (.vlane d a p m) s fun c =>
    c.scalar d (BitVec.ofNat 64 (c.g.direct p m.toNat ((c.g.sreg a).toNat % 32)))

def execVins (a b : SReg) (p : Bool) (m : VReg) (s : State) : Host.Outcome State Fault Refusal :=
  issue (.vins a b p m) s fun c =>
    let l := (c.g.sreg b).toNat % 32
    c.finish (if c.g.active l then
        if p then c.g.writePair m.toNat [(l, c.g.sreg a)] else c.g.writeV m.toNat [(l, loWord (c.g.sreg a))]
      else c.g)

/-- Masks of lanes. -/
def laneMask (f : Nat → Bool) : Nat := lanes.foldl (fun m i => m + bit (f i) * 2 ^ i) 0

def execVote (d : SReg) (k : BitVec 2) (p : QReg) (s : State) : Host.Outcome State Fault Refusal :=
  issue (.vote d k p) s fun c =>
    let act := laneMask c.g.active
    let m := laneMask fun i => c.g.active i && c.g.pred p.toNat i
    let x := match k.toNat with
      | 0 => m
      | 1 => bit (m != 0)
      | 2 => bit (m == act)
      | _ => popcElem 32 m
    c.checked (c.g.setS d (BitVec.ofNat 64 x))

/-! ## Uniform registers (R31, R121) -/

def execKrd (d : SReg) (n : BitVec 4) (s : State) : Host.Outcome State Fault Refusal :=
  issue (.krd d n) s fun c => c.scalar d (c.k n.toNat)

/-- A write joins the phase of team barrier 0 that runs as it issues, and a `krd` reads in that one. DESIGN CHOICE, for a group that has arrived
in a phase by `arva` and does not wait for its end: R31 does not say which phase its next `kwr` and `krd` belong to, and the outcome there
follows timing (notes/assumptions/123.md). -/
def execKwr (a : SReg) (n : BitVec 4) (s : State) : Host.Outcome State Fault Refusal :=
  issue (.kwr a n) s fun c =>
    let P := c.P.modTeam c.tk fun t => { t with kwrites := t.kwrites ++ [⟨gidGroup c.gid, n.toNat, c.g.sreg a⟩] }
    .done (if isWhisk c.gid then c.s else c.s.setPart c.p P)

end Sys2Proof.Machine
end

