-- ==== Sys2Proof/Machine/Whisk.lean ====
section
/-!
DEFINITION. The whisk: combiner requests, homes, batches, the built-in classes, the whisk group (spec/15_combiner.md R300 to R319).
-/
namespace Sys2Proof.Machine

/-! ## Objects, entries and homes (R301 to R304) -/

def WhiskReq.entry (w : WhiskReq) : Nat := w.obj.toNat % 64
/-- VA[55:6] of the object, the identifier of its OBJ domain (R354). -/
def WhiskReq.id (w : WhiskReq) : DWord := BitVec.ofNat 64 (w.obj.toNat % 2 ^ 56 / 64)
def WhiskReq.sameObject (a b : WhiskReq) : Bool := a.id == b.id && a.pa == b.pa
/-- Requests that one batch may hold (R308). -/
def WhiskReq.sameKey (a b : WhiskReq) : Bool := a.sameObject b && a.entry == b.entry && a.width == b.width

/-- The core that hosts the home of a whisk core. One that is withdrawn has its home moved: to the lowest whisk core of its die that is
not (R352), else to the lowest such one of the partition; where none is left the home stays. DESIGN CHOICE, for a core without a route
(R414), and for a die without another whisk core (notes/assumptions/120.md). -/
def Part.homeCore (P : Part) (core : Nat) : Nat :=
  let up (d : Nat) : Bool := !(P.core? d).any Core.withdrawn
  if up core then core
  else match P.regs.whiskCores.find? fun d => d / 16 == core / 16 && up d with
    | some d => d
    | none => (P.regs.whiskCores.find? up).getD core

/-- The queue and the gate of one core's home move to another's, and with them what waits at its door. -/
def Run.moveHome (r : Run) (c d : Nat) : Run :=
  if c = d then r
  else
    let at' (x : Nat) : Nat := if x = c then d else x
    let queue := ((Table.get? r.homes c).map Home.queue).getD []
    { r with
      homes := Table.modify (Table.modify r.homes c fun h => { h with queue := [] }) d fun h => { h with queue := h.queue ++ queue }
      whisks := r.whisks.map fun e => (e.1, { e.2 with place := match e.2.place with
        | .gate x n => .gate (at' x) n
        | .queued x => .queued (at' x)
        | .waiting x => .waiting (at' x)
        | x => x }) }

/-- A core is withdrawn for good, and its home, whose batch is closed, moves (R352, R414). -/
def Part.withdraw (P : Part) (c : Nat) : Part :=
  let P := P.modCore c fun k => { k with testing := false, withdrawn := true }
  P.modRun fun r => r.moveHome c (P.homeCore c)

/-- The home of an object (R301). -/
def Part.homeOf (P : Part) (pa : Nat) : Option Nat :=
  let cores := P.regs.whiskCores
  (cores[(mix32 (BitVec.ofNat 32 (pa / 2 ^ 6) ^^^ BitVec.ofNat 32 (pa / 2 ^ 38 % 2 ^ 14))).toNat % cores.length]?).map P.homeCore

def orderedClass (cls : Nat) : Bool := cls == 6 || cls == 7
/-- Width of a built-in class's VALUE. -/
def classWidth (cls : Nat) : Nat := if cls = 3 ∨ cls = 5 ∨ cls = 7 then 64 else 32

/-- Reasons 0x02 and 0x03 of R307 for a request to a class (R304, R305). -/
def Part.entryReason (P : Part) (cls entry : Nat) (width : BitVec 2) : Option Nat :=
  let fits := if classWidth cls = 64 then width == 1 else width == 0 || (width == 2 && (entry == 7 || entry == 8))
  if 1 ≤ cls ∧ cls ≤ 5 then (if 9 ≤ entry then some 2 else if fits then none else some 3)
  else if orderedClass cls then
    (if entry = 9 then (if width = 1 then none else some 3)
    else if entry = 0 ∨ entry = 8 then (if fits then none else some 3)
    else some 2)
  else match Table.get? P.classes cls with
    | some k => if Table.has k.entries entry then none else some 2
    | none => some 2

/-! ## Requests (R306) -/

/-- The number that names the instruction that a group executes. -/
def Ctx.unit (c : Ctx) : Nat := c.gid * 2 ^ 64 + c.g.retired.toNat

/-- Object addresses of the active lanes. -/
def Ctx.objects (c : Ctx) (a : VReg) : List (Nat × DWord) := c.g.actives.map fun i => (i, c.g.vpair a.toNat i)

/-- The argument of a lane. -/
def Group.whiskArg (g : Group) (w : BitVec 2) (r : VReg) (i : Nat) : DWord :=
  if w = 0 then (g.vreg r.toNat i).setWidth 64 else if w = 1 then g.vpair r.toNat i else 0

/-- The requests of a `wcall`, sent in increasing lane order. -/
def Ctx.callReqs (c : Ctx) (op : Nat) (d r : VReg) (w : BitVec 2) (items : List ((Nat × DWord) × (Nat × Bool))) : List WhiskReq :=
  items.map fun e =>
    let i := e.1.1
    let old : DWord := if w = 1 then c.g.vpair d.toNat i else (c.g.vreg d.toNat i).setWidth 64
    ⟨e.1.2, e.2.1 / 64 * 64, w, c.g.whiskArg w r i, old, c.P.requester c.gid i, c.tk, c.P.coreOf c.gid, op, c.unit,
      .travelling⟩

/-- Send combiner requests, each under a number of its own. -/
def Part.addWhisks (P : Part) : List WhiskReq → Part
  | [] => P
  | w :: rest =>
    let (id, P) := P.fresh
    (P.modRun fun r => { r with whisks := Table.set r.whisks id w }).addWhisks rest

/-- The registers of a reply. -/
def replyRegs (d : VReg) (w : BitVec 2) : List Nat := if w = 1 then [d.toNat, d.toNat + 1] else [d.toNat]

/-- A `wcall` leaves: WCL rises and the window opens. -/
def Ctx.sendCall (c : Ctx) (d : VReg) (l : La) (w : BitVec 2) (r : VReg) (items : List ((Nat × DWord) × (Nat × Bool))) : Res :=
  if items.isEmpty then c.finish ((c.g.passed .wcl).open l true (replyRegs d w) [] 0)
  else
    let (op, P) := c.P.fresh
    let reqs := c.callReqs op d r w items
    let P := (P.setOp op (.call c.gid d.toNat w (items.map fun e => e.1.1) none)).addWhisks reqs
    (c.setP P).finish ((c.g.raise .wcl op).open l false (replyRegs d w) [] op)

def execWcall (d a : VReg) (l : La) (w : BitVec 2) (r : VReg) (s : State) : Host.Outcome State Fault Refusal :=
  issue (.wcall d a l w r) s fun c => c.outside (.wcall d a l w r) fun c =>
    let items := c.objects a
    c.translate .whisk items [] fun c pas =>
      if !c.g.drained then .wait c.s .inFlight
      else c.room .wcl fun c =>
        (c.reload (c.s.anchor c.p c.tk)).commits fun c => c.sendCall d l w r (items.zip pas)

/-- Put a posted request into the colander; none where the quota is full (R187). -/
def Team.post (t : Team) (x : Posted) : Option Team :=
  let t' := { t with posted := t.posted ++ [x] }
  if t'.used ≤ t.quota then some t' else none
def Team.postAll (t : Team) : List Posted → Nat → Team × Nat
  | [], n => (t, n)
  | x :: rest, n => match t.post x with
    | some t => t.postAll rest (n + 1)
    | none => (t, n)

/-- Place posted requests; a full quota commits the colander first (R191). -/
def Ctx.post (c : Ctx) (xs : List Posted) (body : Ctx → Res) : Res :=
  match c.team? with
  | none => .gone c.s
  | some t =>
    let (isOver, placed) := match c.g.stage with
      | .overflow n => (true, n)
      | _ => (false, 0)
    if isOver && t.commit.isSome then .wait c.s .inFlight
    else
      let (t', n) := t.postAll (xs.drop placed) placed
      let c := c.setP (c.P.modTeam c.tk fun _ => t')
      if xs.length ≤ n then body (c.setG { c.g with stage := .fresh })
      else
        let c := c.setG { c.g with stage := .overflow n }
        if t.commit.isSome then .wait c.s .inFlight
        else .wait (c.s.beginCommit c.p c.tk (gidGroup c.gid) false) .inFlight

def execWpost (a : VReg) (l : La) (w : BitVec 2) (r : VReg) (s : State) : Host.Outcome State Fault Refusal :=
  issue (.wpost a l w r) s fun c => c.outside (.wpost a l w r) fun c =>
    let items := c.objects a
    c.translate .whisk items [] fun c pas =>
      c.post ((items.zip pas).map fun e =>
        ⟨e.1.2, e.2.1 / 64 * 64, w, c.g.whiskArg w r e.1.1, c.P.requester c.gid e.1.1, c.unit, false⟩) fun c => c.doneS l []

/-! ## Arrival at a home (R301, R306, R316) -/

/-- What answers a request without a batch, if anything does. -/
def State.atOnce (s : State) (P : Part) (w : WhiskReq) : Option Nat :=
  let h := s.num (w.pa + 56) 8
  if headerSpoil h then some 0 else P.entryReason (headerClass h) w.entry w.width

/-- An OBJ domain whose requests are held at the home's gate (R309, R363, R376). -/
def Part.objGated (P : Part) (w : WhiskReq) : Bool :=
  if P.mode = mEXPLORE then true
  else P.mode == mSTEERED && P.choice.steer .obj w.id != .unsteered

/-- A request enters its home: its queue, or its gate. -/
def Part.enqueue (P : Part) (core id : Nat) (w : WhiskReq) (gate : Bool) : Part :=
  let put (P : Part) (x : WhiskWhere) : Part := P.modRun fun r => { r with whisks := Table.set r.whisks id { w with place := x } }
  if gate then
    let (n, P) := P.fresh
    put P (.gate core n)
  else (put P (.queued core)).modHome core fun h => { h with queue := h.queue ++ [id] }

/-- One request arrives. -/
def State.arriveOne (s : State) (p : PartNo) (core id : Nat) (w : WhiskReq) : State :=
  match s.part? p with
  | none => s
  | some P =>
    if s.poisoned (w.pa + 56) then (s.refuse p id w 5).severity p 3 srcCore core (w.pa + 56) w.requester none false false
    else match s.atOnce P w with
      | some reason => s.refuse p id w reason
      | none => s.setPart p (P.enqueue core id w (P.objGated w && !orderedClass (headerClass (s.num (w.pa + 56) 8))))

/-- The request is on its way, or held by its core. -/
def WhiskReq.coming (w : WhiskReq) : Bool := match w.place with
  | .travelling | .waiting _ => true
  | _ => false

/-- Requests that enter with a request: the lanes of its `wcall` that name its object. -/
def Part.together (P : Part) (id : Nat) (w : WhiskReq) : List (Nat × WhiskReq) :=
  if w.op = 0 then [(id, w)]
  else P.run.whisks.filter fun e => e.2.op == w.op && e.2.sameObject w && e.2.coming

/-- A request stands behind earlier ones of its core to the line of its object, with which it forms a flow (R410). -/
def Part.behindFlow (P : Part) (id : Nat) (w : WhiskReq) (xs : List (Nat × WhiskReq)) : Bool :=
  P.run.whisks.any fun e => decide (e.1 < id) && e.2.core == w.core && e.2.pa / 128 == w.pa / 128 && e.2.coming &&
    !(xs.any fun x => x.1 == e.1)

/-- Its core holds other requests that have found the home's queue full, in whose order they enter it (R301). -/
def Part.behindHeld (P : Part) (id home : Nat) (w : WhiskReq) (xs : List (Nat × WhiskReq)) : Bool :=
  P.run.whisks.any fun e => (w.place == .travelling || decide (e.1 < id)) && e.2.core == w.core && e.2.place == .waiting home &&
    !(xs.any fun x => x.1 == e.1)

/-- The core of requests holds them at the door of a home. -/
def Part.holdBack (P : Part) (home : Nat) (xs : List (Nat × WhiskReq)) : Part :=
  P.modRun fun r => { r with whisks := xs.foldl (fun t x => Table.set t x.1 { x.2 with place := .waiting home }) r.whisks }

/-- The queue of a home has no room for requests (R301). -/
def Part.queueFull (P : Part) (core : Nat) (xs : List (Nat × WhiskReq)) : Bool :=
  decide (1024 < ((Table.get? P.run.homes core).map fun h => h.queue.length).getD 0 + xs.length)
/-- A request on its way cannot enter its home as things stand. -/
def Part.shutOut (P : Part) (id : Nat) (w : WhiskReq) : Bool :=
  let xs := P.together id w
  match P.homeOf w.pa with
  | none => true
  | some core => P.behindFlow id w xs || P.lineHeld w.pa || P.queueFull core xs || P.behindHeld id core w xs

/-- `REQUEST_ARRIVAL`: a request reaches its home, behind the earlier ones of its flow; one that finds the queue full is held by
its core. -/
def execRequestArrival (p : PartNo) (id : Nat) (s : State) : Host.Outcome State Fault Refusal :=
  .next (match (s.part? p).bind fun P => (Table.get? P.run.whisks id).map fun w => (P, w) with
    | none => s
    | some (P, w) =>
      let xs := P.together id w
      match P.homeOf w.pa with
      | none => s
      | some core =>
        if !w.coming ∨ P.behindFlow id w xs ∨ P.lineHeld w.pa then s
        else if P.queueFull core xs ∨ P.behindHeld id core w xs then s.setPart p (P.holdBack core xs)
        else xs.foldl (fun s x => s.arriveOne p core x.1 x.2) s)

/-! ## Assembly of a batch (R308, R309, R384) -/

/-- Eligible requests of a queue: none earlier of the same requester to the same object waits (R308). -/
def eligible : List (Nat × WhiskReq) → List (Nat × WhiskReq) → List (Nat × WhiskReq)
  | _, [] => []
  | before, x :: rest =>
    let hit := before.any fun y => y.2.requester == x.2.requester && y.2.sameObject x.2
    if hit then eligible (x :: before) rest else x :: eligible (x :: before) rest

/-- In STEERED mode, a batch is whole once its last record has END or it has 32 lanes (R309); `k` lanes are in the queue. -/
def Choice.batchWhole (c : Choice) (id : DWord) (k : Nat) : Bool :=
  match c.steer .obj id with
  | .unsteered => true
  | _ => decide (32 ≤ k) || (match k with
    | 0 => false
    | k + 1 => match c.steerAt .obj id k with
      | .named r => recEnd r
      | _ => false)

/-- The requests of the batch that a home assembles now; none of an object whose line a `cpyv` holds (R216). -/
def Part.nextBatch (P : Part) (s : State) (h : Home) : List (Nat × WhiskReq) :=
  let q := h.queue.filterMap fun id => (Table.get? P.run.whisks id).map fun w => (id, w)
  let es := eligible [] q
  let ready (w : WhiskReq) : Bool :=
    let batch := es.filter fun e => e.2.sameKey w
    if P.lineHeld w.pa then false
    else if s.poisoned (w.pa + 56) || orderedClass (headerClass (s.num (w.pa + 56) 8)) then true
    else if P.mode = mSTEERED then P.choice.batchWhole w.id (q.filter fun e => e.2.sameObject w).length
    else P.mode != mRECORD || P.choice.canRecord .obj w.id (min 32 batch.length)
  match es.find? fun e => ready e.2 with
  | none => []
  | some e => (es.filter fun x => x.2.sameKey e.2).take 32

/-- The decision of an OBJ domain is made: ordinal, records, cursor, and the teams' requests have been served (R361 to R370). -/
def State.objDecided (s : State) (p : PartNo) (batch : List (Nat × WhiskReq)) (id : DWord) : State :=
  match s.part? p with
  | none => s
  | some P =>
    let n := batch.length
    let recs := (List.range n).zip batch |>.map fun e => mkRecord .obj (e.1 + 1 == n) false 1 e.2.2.requester.toNat
    let s := if P.mode = mRECORD then s.record p .obj id (P.choice.domain .obj id).n recs else s
    s.modPart p fun P =>
      let P := batch.foldl (fun P e => P.modTeam e.2.team fun t => { t with served := true }) P
      let c := if P.mode = mSTEERED then batch.foldl (fun c _ => c.advance .obj id) P.choice else P.choice
      { P with choice := c.bump .obj id }

/-- The window of a batch is read from the object's line (R384). -/
def State.openWindow (s : State) (p : PartNo) (core : Nat) (b : Batch) : State :=
  let bytes := s.bytes b.pa 64
  let s := s.modPart p fun P =>
    let P := b.reqs.foldl (fun P id => P.modRun fun r =>
      { r with whisks := Table.modify r.whisks id fun w => { w with place := .batch core } }) P
    (P.modCore core fun k => k.poke windowAddr bytes).modHome core fun h =>
      { h with batch := some b, queue := h.queue.filter fun id => !b.reqs.contains id }
  if (List.range 8).any fun k => s.poisoned (b.pa + 8 * k) then s.consumeBy p core 3 (srcOfPa b.pa) b.pa else s

/-- `BATCH_ASSEMBLY`: the home of a whisk group that waits in `wtake` assembles its next batch. A header that is poisoned, or behind a port
that is down, decides nothing: the batch consumes it as its window is read (R316, R421). -/
def execBatchAssembly (p : PartNo) (core : BitVec 7) (s : State) : Host.Outcome State Fault Refusal :=
  .next (match (s.part? p).bind fun P => (Table.get? P.run.homes core.toNat).map fun h => (P, h) with
    | none => s
    | some (P, h) =>
      if h.batch.isSome ∨ h.grp.wait ≠ some .take ∨ P.freezing ∨ P.frozen ∨ s.paused then s
      else match P.nextBatch s h with
        | [] => s
        | (id, w) :: rest =>
          let batch := (id, w) :: rest
          let bad := s.poisoned (w.pa + 56)
          let hd := s.num (w.pa + 56) 8
          match if bad then none else s.atOnce P w with
          | some reason =>
            let s := s.modPart p fun P => P.modHome core.toNat fun h =>
              { h with queue := h.queue.filter fun q => !(batch.any fun e => e.1 == q) }
            batch.foldl (fun s e => s.refuse p e.1 e.2 reason) s
          | none =>
            let s := if bad || orderedClass (headerClass hd) then s else s.objDecided p batch w.id
            s.openWindow p core.toNat ⟨w.obj, w.pa, w.width, batch.map Prod.fst, BitVec.ofNat 16 (headerClass hd),
              BitVec.ofNat 16 (headerBno hd)⟩)

/-! ## The whisk group's instructions (R311 to R315) -/

/-- The requests of the open batch, in lane order. -/
def Part.batchReqs (P : Part) (b : Batch) : List (Nat × Nat × WhiskReq) :=
  (List.range b.reqs.length).zip b.reqs |>.filterMap fun e => (Table.get? P.run.whisks e.2).map fun w => (e.1, e.2, w)

/-- The lanes as a batch fills them (R311). DESIGN CHOICE: v1 under width 0, and v5 under the widths 0 and 2, of which the table says nothing,
are 0 (notes/assumptions/126.md). -/
def Group.fillLanes (g : Group) (b : Batch) (xs : List (Nat × Nat × WhiskReq)) : Group :=
  let put (r : Nat) (f : WhiskReq → Word) (g : Group) : Group := g.writeV r (xs.map fun e => (e.1, f e.2.2))
  let g := put 0 (fun w => loWord w.arg) g
  let g := put 1 (fun w => if b.width = 1 then hiWord w.arg else 0) g
  let g := put 2 (fun w => w.requester) g
  let g := put 3 (fun w => BitVec.ofNat 32 w.entry) g
  let g := put 4 (fun w => loWord w.cop) g
  let g := put 5 (fun w => hiWord w.cop) g
  { g with em := BitVec.ofNat 32 (2 ^ xs.length - 1) }

/-- The batch word (R312). -/
def Batch.word (b : Batch) : DWord :=
  BitVec.ofNat 64 (windowAddr + b.reqs.length * 2 ^ 20 + b.cls.toNat * 2 ^ 32 + b.bno.toNat * 2 ^ 48)

/-- A whisk group's home (R315). -/
def Ctx.home (c : Ctx) (i : Instr) (body : Home → Res) : Res :=
  match (if isWhisk c.gid then Table.get? c.P.run.homes c.gid else none) with
  | none => .trap c.s (trapOf 0x11 (wordOf i))
  | some h => body h
/-- A whisk group's open batch (R315). -/
def Ctx.batch (c : Ctx) (i : Instr) (body : Batch → Res) : Res :=
  c.home i fun h => match h.batch with
    | none => .trap c.s (trapOf 1 (wordOf i))
    | some b => body b

def execWtake (x : SReg) (s : State) : Host.Outcome State Fault Refusal :=
  issue (.wtake x) s fun c => c.home (.wtake x) fun h =>
    match h.batch with
    | none => .wait c.s .take
    | some b =>
      if c.g.wait ≠ some .take then .trap c.s (trapOf 1 (wordOf (.wtake x)))
      else c.finish ((c.g.fillLanes b (c.P.batchReqs b)).setS x b.word)

/-- Write an object's line back with BNO raised (R314 step 1); `fails` further failures are counted. -/
def State.writeBack (s : State) (p : PartNo) (b : Batch) (bytes : List Byte) (fails : Nat) : State :=
  let h := failHeader (s.num (b.pa + 56) 8) fails false
  let h := h / 2 ^ 16 * 2 ^ 16 + (h + 1) % 2 ^ 16
  s.writeAt p b.pa (bytes.take 56 ++ leBytes 8 h)

/-- The batch of a home is closed. -/
def Part.closeHome (P : Part) (core : Nat) : Part := P.modHome core fun h => { h with batch := none }

def execWreply (a : Operand) (s : State) : Host.Outcome State Fault Refusal :=
  issue (.wreply a) s fun c => c.batch (.wreply a) fun b =>
    let g := { c.g with em := BitVec.ofNat 32 (2 ^ b.reqs.length - 1), mode := 0 }
    let us := [use a (if b.width = 1 then 2 else 1) 1]
    match g.checkRegs c.n us with
    | some t => .trap c.s t
    | none =>
      if g.poisonedUse us || c.peekPoison windowAddr 56 then .gone (c.s.consumeBy c.p c.gid 3 srcCore 0)
      else
        let s := c.s.writeBack c.p b (c.peek windowAddr 56) 0
        let xs := c.P.batchReqs b
        let s := s.modPart c.p fun P =>
          (xs.foldl (fun P e => P.answer e.2.1 (BitVec.ofNat 64 (c.operand (b.width == 1) a e.1)) none) P).closeHome c.gid
        .done s

def execWfail (k : BitVec 7) (s : State) : Host.Outcome State Fault Refusal :=
  issue (.wfail k) s fun c => c.batch (.wfail k) fun _ => .done (c.s.failBatch c.p c.gid (0x80 + k.toNat) false)

/-! ## Replies (R306, R307) -/

/-- An answered lane leaves its `wcall`; after the last one WCL falls, and the fault met is held. -/
def Part.laneAnswered (P : Part) (op gid dst : Nat) (width : BitVec 2) (lanes : List Nat) (fault : Option (Nat × Trap)) : Part :=
  if !lanes.isEmpty then P.setOp op (.call gid dst width lanes fault)
  else (P.dropOp op).modGroup gid fun g =>
    let g := (g.lower' .wcl op).opened op
    match fault with
    | some (_, t) => if g.held.any fun h => h.path == .wcl then g else { g with held := g.held ++ [(⟨.wcl, t, op, false⟩ : HeldFault)] }
    | none => g

/-- `WHISK_REPLY`: the answer to a lane arrives. -/
def execWhiskReply (p : PartNo) (id : Nat) (s : State) : Host.Outcome State Fault Refusal :=
  .next (match (s.part? p).bind fun P => (Table.get? P.run.whisks id).map fun w => (P, w) with
    | some (P, w) => match w.place with
      | .answered val fault =>
        let P := P.modRun fun r => { r with whisks := Table.erase r.whisks id }
        match Table.get? P.run.ops w.op with
        | some (.call gid dst width lanes old) =>
          let lane := w.requester.toNat % 32
          let left := lanes.filter fun i => i != lane
          match fault with
          | none =>
            let P := P.modGroup gid fun g =>
              if width = 1 then g.writePair dst [(lane, val)] else g.writeV dst [(lane, loWord val)]
            s.setPart p (P.laneAnswered w.op gid dst width left old)
          | some t =>
            let f := match old with
              | some (k, u) => if k < lane then (k, u) else (lane, t)
              | none => (lane, t)
            s.setPart p (P.laneAnswered w.op gid dst width left (some f))
        | _ => s.setPart p P
      | _ => s
    | none => s)

/-! ## The built-in classes (R304, R305, R310) -/

/-- New VALUE of a class of R304. -/
def builtinValue (cls entry v a cop : Nat) : Nat :=
  let w := classWidth cls
  let f := if cls = 5 then f64 else f32
  let signed := cls == 1 || cls == 3
  let less (x y : Nat) : Bool := if signed then decide (sextNat w x < sextNat w y) else decide (x < y)
  let float := cls == 4 || cls == 5
  match entry with
  | 0 => if float then (floatElem f nearestEnv [v, a] fun xs => sumF f nearestEnv xs).1 else (v + a) % 2 ^ w
  | 1 => a
  | 2 => if v = cop then a else v
  | 3 => if float then (minmaxElem false f nearestEnv v a).1 else if less a v then a else v
  | 4 => if float then (minmaxElem true f nearestEnv v a).1 else if less v a then a else v
  | 5 => v &&& a
  | 6 => v ||| a
  | 7 => if float then (floatElem f nearestEnv [v, (if cls = 5 then 0x3FF0000000000000 else 0x3F800000)] fun xs =>
      sumF f nearestEnv xs).1 else (v + 1) % 2 ^ w
  | _ => v

/-- An ordered object's state: VALUE, N, bytes 12 to 15, ROUND, HELD (R305). -/
structure Ordered where
  value : Nat
  n : Nat
  who : Nat
  round : Nat
  held : Nat
  deriving DecidableEq, Repr

def Ordered.ofBytes (cls : Nat) (bs : List Byte) : Ordered :=
  let num (k n : Nat) : Nat := leNat ((bs.drop k).take n)
  ⟨num 0 (classWidth cls / 8), num 8 4, num 12 4, num 16 4, num 20 4⟩
def Ordered.bytes (cls : Nat) (o : Ordered) (bs : List Byte) : List Byte :=
  let n := classWidth cls / 8
  leBytes n o.value ++ (bs.drop n).take (8 - n) ++ leBytes 4 o.n ++ leBytes 4 o.who ++ leBytes 4 o.round ++ leBytes 4 o.held ++
    bs.drop 24

/-- The contributor index of a requester; none for a contributor error. -/
def Ordered.contributor (o : Ordered) (requester : Nat) : Option Nat :=
  let team := requester / 2 ^ 10
  let grp := requester / 2 ^ 5 % 2 ^ 5
  let tbase := o.who % 2 ^ 22
  let gpt := o.who / 2 ^ 22 % 2 ^ 5
  let k := ((team - tbase) * (gpt + 1) + grp) * 32 + requester % 2 ^ 5
  if team < tbase ∨ gpt < grp ∨ o.n ≤ k then none else some k

/-- The g of an ordered fold (R305): RN32 of the sum (R84), or binary64 to nearest. -/
def orderedAdd (cls v x : Nat) : Nat :=
  if cls = 7 then (floatElem f64 nearestEnv [v, x] fun xs => sumF f64 nearestEnv xs).1
  else rnSum f32 [unpack f32 v, unpack f32 x]

/-- One request to an ordered object: the state, the contributions held, the reply or the reason. -/
def orderedStep (cls pa : Nat) (o : Ordered) (cs : List Contribution) (w : WhiskReq) :
    Ordered × List Contribution × Except Nat Nat :=
  match w.entry with
  | 9 =>
    if o.held ≠ 0 then (o, cs, .error 4)
    else ({ o with n := w.arg.toNat % 2 ^ 32, who := w.arg.toNat / 2 ^ 32, round := 0, held := 0 }, cs, .ok 0)
  | 0 => match o.contributor w.requester.toNat with
    | none => (o, cs, .error 4)
    | some k =>
      if cs.any fun c => c.obj == pa && c.k == k then (o, cs, .error 4)
      else
        let cs := cs ++ [⟨pa, k, w.arg⟩]
        let mine := sortBy Contribution.k (cs.filter fun c => c.obj == pa)
        if o.held + 1 < o.n then ({ o with held := o.held + 1 }, cs, .ok o.round)
        else
          let value := mine.foldl (fun v c => orderedAdd cls v (c.val.toNat % 2 ^ classWidth cls)) o.value
          ({ o with value := value, round := (o.round + 1) % 2 ^ 32, held := 0 }, cs.filter fun c => c.obj != pa, .ok o.round)
  | _ => (o, cs, .ok o.value)

/-- The answers of a built-in method: the new state bytes, contributions, and each lane's reply or reason. -/
def builtinRun (cls pa : Nat) (bs : List Byte) (cs : List Contribution) (xs : List (Nat × Nat × WhiskReq)) :
    List Byte × List Contribution × List (Nat × WhiskReq × Except Nat Nat) :=
  if orderedClass cls then
    let r := xs.foldl (fun (acc : Ordered × List Contribution × List (Nat × WhiskReq × Except Nat Nat)) x =>
      let (o, cs, a) := orderedStep cls pa acc.1 acc.2.1 x.2.2
      (o, cs, acc.2.2 ++ [(x.2.1, x.2.2, a)])) (Ordered.ofBytes cls bs, cs, [])
    (r.1.bytes cls bs, r.2)
  else
    let n := classWidth cls / 8
    let m := 2 ^ classWidth cls
    let r := xs.foldl (fun (acc : Nat × List (Nat × WhiskReq × Except Nat Nat)) x =>
      (builtinValue cls x.2.2.entry acc.1 (x.2.2.arg.toNat % m) (x.2.2.cop.toNat % m), acc.2 ++ [(x.2.1, x.2.2, .ok acc.1)]))
      (leNat (bs.take n), [])
    (leBytes n r.1 ++ bs.drop n, cs, r.2)

/-- The dispatch loop runs a built-in method for the open batch and closes it. -/
def Ctx.builtin (c : Ctx) (b : Batch) : State :=
  if c.peekPoison windowAddr 56 then c.s.consumeBy c.p c.gid 3 srcCore 0
  else
    let (bytes, cs, answers) := builtinRun b.cls.toNat b.pa (c.peek windowAddr 56) c.P.run.contribs (c.P.batchReqs b)
    let posts := answers.filter fun x => x.2.1.op == 0 && (match x.2.2 with
      | .error _ => true
      | .ok _ => false)
    (c.s.writeBack c.p b bytes posts.length).modPart c.p fun P =>
      let P := P.modRun fun r => { r with contribs := cs }
      let P := answers.foldl (fun P x => match x.2.2 with
        | .ok v => P.answer x.1 (BitVec.ofNat 64 v) none
        | .error e => P.answer x.1 0 (some e)) P
      P.modHome c.gid fun h => { h with batch := none, phase := .loop }

/-- The dispatch loop enters the method of a user class (R311). -/
def Ctx.enterMethod (c : Ctx) (b : Batch) (addr : DWord) : State :=
  (c.put ({ c.g with mode := 0, perm := 0, stack := [], pc := addr, wait := none, stage := .fresh }.setS 0 b.word |>.setS 31
    dispatchReturn)).modPart c.p fun P => P.modHome c.gid fun h => { h with phase := .user }

/-- What the dispatch loop does with a batch that it has taken. -/
def Ctx.dispatch (c : Ctx) (b : Batch) : State :=
  match Table.get? c.P.classes b.cls.toNat, (c.P.batchReqs b).head? with
  | some k, some (_, _, w) => match Table.get? k.entries w.entry with
    | some addr => c.enterMethod b addr
    | none => c.s.failBatch c.p c.gid 2 false
  | _, _ => c.builtin b

/-! ## `wscan` (R313) -/

/-- One step of the fold on an accumulator x and an element y of A. Of two NaNs A's prevails over the old destination's (`old`: the
accumulator's NaN is that), which R74 puts last. DEDUCED: an accumulator's NaN that came from an earlier element, or from the fold
itself, comes before a later element's (notes/assumptions/106.md). -/
def scanStep (v : Env) (t : Ty) (o : Nat) (old : Bool) (x y : Nat) : Nat × Nat :=
  match t.kind with
  | .float f =>
    let (a, b) := if old then (y, x) else (x, y)
    if o = 0 then floatElem f v [a, b] fun xs => sumF f v xs else minmaxElem (o == 2) f v a b
  | _ =>
    let sx := intOf t.signed t.w x
    let sy := intOf t.signed t.w y
    if o = 0 then fit v.sat t.signed t.w (sx + sy)
    else ((redStep o (BitVec.ofInt 64 sx) (BitVec.ofInt 64 sy)).toNat % 2 ^ t.w, 0)

/-- The fold of one lane: the accumulator, the flags so far, and whether its NaN is still that of the old destination. -/
def scanFold (v : Env) (t : Ty) (o d : Nat) (ys : List Nat) : Nat × Nat × Bool :=
  ys.foldl (fun acc y =>
    let r := scanStep v t o acc.2.2 acc.1 y
    (r.1, acc.2.1 ||| r.2, acc.2.2 && !t.isNan y && t.isNan r.1)) (d, 0, t.isNan d)

/-- The exclusive fold over lanes below each active lane. -/
def scanLanes (v : Env) (t : Ty) (o : Nat) (old : Nat → Nat) (vals : List (Nat × Nat)) : LaneResults :=
  vals.map fun e =>
    let r := scanFold v t o (old e.1) ((vals.filter fun x => decide (x.1 < e.1)).map Prod.snd)
    (e.1, r.1, r.2.1)

def execWscan (d : VReg) (a : Operand) (o : BitVec 3) (s : State) : Host.Outcome State Fault Refusal :=
  issue (.wscan d a o) s fun c =>
    c.typed 0xD5 (fun t => tScalarInt t || ((t == 8 || t == 9) && decide (o.toNat ≤ 2))) fun t =>
      c.finish (c.g.putLanes t.wide d (scanLanes c.g.env t o.toNat (c.g.direct t.wide d.toNat)
        (c.g.actives.map fun i => (i, c.operand t.wide a i))))

end Sys2Proof.Machine
end

