-- ==== Sys2Proof/Machine/Die.lean ====
section
/-!
DEFINITION. The dispatcher and the egg timer (spec/16_die.md R322 to R335): admission (spec/08 R165 to R171, R180, R181), placement,
final commits, completion of launches, stalls.
-/
namespace Sys2Proof.Machine

/-! ## Placement order (R325) -/

/-- The least power of two, from 2^k on, that is at least m. -/
def powerFrom : Nat → Nat → Nat → Nat
  | 0, k, _ => 2 ^ k
  | fuel + 1, k, m => if m ≤ 2 ^ k then 2 ^ k else powerFrom fuel (k + 1) m
def hilbertSide (m : Nat) : Nat := powerFrom 22 0 m

/-- The Hilbert index of a point, from the side s of the quarter on. -/
def hilbertFrom (n : Nat) : Nat → Nat → Nat → Nat
  | 0, _, _ => 0
  | k + 1, x, y =>
    let s := 2 ^ k
    let rx := x / s % 2
    let ry := y / s % 2
    let d := s * s * (3 * rx ^^^ ry)
    if ry = 0 then
      let (x, y) := if rx = 1 then (n - 1 - x, n - 1 - y) else (x, y)
      d + hilbertFrom n k y x
    else d + hilbertFrom n k x y
/-- h(2^k, x, y) (R325). -/
def hilbert (k x y : Nat) : Nat := hilbertFrom (2 ^ k) k x y

/-- Clusters stand on the curve: in DETERMINISTIC mode, or where the packet asks for it. -/
def Launch.onCurve (l : Launch) : Bool := l.curve || l.mode == some 1

/-- What orders a cluster index on the curve. -/
def Launch.curveKey (l : Launch) (ci : Nat) : Nat :=
  let side := hilbertSide (max l.cx l.cy)
  ci / (l.cx * l.cy) * (side * side) + hilbert side.log2 (ci % l.cx) (ci / l.cx % l.cy)

/-- The cluster index at a placement position. -/
def Launch.clusterAt (l : Launch) (pos : Nat) : Nat :=
  if l.onCurve then (sortBy l.curveKey (List.range l.clusters)).getD pos 0 else pos

/-! ## Limits of a launch (R14, R65, R168, R169, R285, R322) -/

/-- Group slots that a team of g groups takes in a quad. -/
def quadDemand (g q : Nat) : Nat := (g + 3 - q) / 4

/-- The limits of R65 on a kernel's launch record. -/
def Kernel.valid (k : Kernel) : Bool :=
  k.regs % 8 == 0 && decide (8 ≤ k.regs) && decide (k.regs ≤ 64) && decide (1 ≤ k.team) && decide (k.team ≤ 32) &&
  decide (1 ≤ k.width) && decide (k.width ≤ 4) && decide (1 ≤ k.height) && decide (k.height ≤ 4) &&
  decide (k.width * k.height ≤ 12) && k.colander % 4 == 0 && decide (4 ≤ k.colander) && decide (k.colander ≤ 256) &&
  decide (k.accum ≤ 8) && decide (k.crocks.length ≤ 8) &&
  k.crocks.all (fun c => c.name != 0 && decide (1 ≤ c.slots) && decide (c.slots ≤ 64)) &&
  (dedup (k.crocks.map CrockDecl.name)).length == k.crocks.length

/-- Scratchpad slots that a team demands at most: its quota, its declared crocks and their shadows (R168). -/
def Launch.slotDemand (l : Launch) : Nat :=
  l.kernel.crocks.foldl (fun n c => n + c.slots + if writing c.mode then c.slots else 0) l.slotQuota

/-- A declared crock against the directory (R181). -/
def Part.crockMatches (P : Part) (c : CrockDecl) : Bool :=
  match P.crock? c.name with
  | some (_, d) => c.mode != 2 && d.count.toNat + 1 == c.slots
  | none => writing c.mode && c.mode != 1
/-- The declared crocks of a launch at the placement of its first cluster (R181). -/
def Part.crocksMatch (P : Part) (l : Launch) : Bool := l.kernel.crocks.all P.crockMatches

/-! ## Admission of one team (R166, R168, R169, R230) -/

/-- Teams of a core, and those that have not ended. -/
def Part.coreTeams (P : Part) (core : Nat) : List Team := (P.run.teams.map Prod.snd).filter fun t => t.core == core
def Part.coreLive (P : Part) (core : Nat) : List Team := (P.coreTeams core).filter fun t => t.ended.isNone

/-- Group slots in use in a quad: a team holds those of all its groups until it has ended (R168, R329); a whisk group has one of quad 3
(R300). -/
def Part.quadUsed (P : Part) (core q : Nat) : Nat :=
  ((P.coreLive core).map fun t => quadDemand t.g q).foldl (· + ·) 0 + bit (q == 3 && Table.has P.run.homes core)

/-- The lowest free run of operand-buffer units of a core. -/
def Part.unitRun (P : Part) (core n : Nat) : Option Nat :=
  if n = 0 then some 0
  else
    let held := (P.coreLive core).map fun t => (t.unitBase, t.unitQuota)
    let free (b : Nat) : Bool := decide (b + n ≤ 2048) && held.all fun h => decide (h.1 + h.2 ≤ b) || decide (b + n ≤ h.1)
    ((0 :: held.map fun h => h.1 + h.2).filter free).min?

/-- The core meets every demand of a team but those for scratchpad slots: the team's slot and unit run. -/
def Part.coreMeets (P : Part) (l : Launch) (core tidx : Nat) : Option (Nat × Nat) :=
  let k := l.kernel
  let sum (f : Team → Nat) (ts : List Team) : Nat := (ts.map f).foldl (· + ·) 0
  let open' := (P.core? core).any fun c => !c.withdrawn && !c.testing
  let quads := (List.range 4).all fun q => decide (P.quadUsed core q + quadDemand k.team q ≤ 12)
  let slot := ((List.range 16).filter fun n => !((P.coreTeams core).any fun t => t.slot == n)).head?
  if open' && quads && !(Table.getD l.avoid tidx []).contains core &&
      decide (sum Team.quota (P.coreTeams core) + k.colander * 8 ≤ 2048) &&
      decide (sum Team.accQuota (P.coreLive core) + k.accum ≤ 8) &&
      decide (sum Team.recQuota (P.coreLive core) + l.recQuota ≤ 16) then
    match slot, P.unitRun core l.unitQuota with
    | some n, some u => some (n, u)
    | _, _ => none
  else none

/-- A team at its launch (R12, R30, R36, R39, R259, R323). -/
def Team.launched (l : Launch) (launch pos rank ci core slot unitBase : Nat) (marks : List Nat) : Team :=
  let k := l.kernel
  let x := ci % l.cx * k.width + rank % k.width
  let y := ci / l.cx % l.cy * k.height + rank / k.width
  let z := ci / (l.cx * l.cy)
  { launch := launch
    tidx := x + l.gx * (y + l.gy * z)
    cluster := keyIn launch pos
    rank := rank
    x := x
    y := y
    z := z
    core := core
    slot := slot
    nregs := k.regs
    g := k.team
    groups := (List.range k.team).map fun g => (g, Group.initial k.entry l.seed (k.tvec.getD defaultVector))
    k := []
    kwrites := []
    kdue := []
    kpoison := []
    energy := 0
    bars := []
    colander := []
    posted := []
    quota := k.colander * 8
    commit := none
    anch := false
    hash := 0
    commitN := 0
    attaches := []
    runBase := 0
    runLen := l.slotQuota
    unitBase := unitBase
    unitQuota := l.unitQuota
    recQuota := l.recQuota
    handles := []
    accQuota := k.accum
    tiles := []
    marks := marks
    staged := []
    overStaged := false
    served := false
    ended := none }

/-- What admission finds of a declared crock (R180, R181). -/
inductive Declared where
  /-- Absent, present with another count, or already there: the team is admitted without the attach. -/
  | void
  /-- The attach creates the crock. -/
  | create
  /-- It is resident on the core and the attach is granted. -/
  | attach (dir : Nat)
  /-- It can be moved to the core. -/
  | move (dir : Nat)
  /-- The team waits. -/
  | wait
  deriving DecidableEq, Repr

def Part.declared (P : Part) (c : CrockDecl) (core : Nat) : Declared :=
  match P.crock? c.name with
  | none => if c.mode.toNat ≤ 1 then .void else .create
  | some (i, d) =>
    if c.mode = 2 ∨ d.count.toNat + 1 ≠ c.slots then .void
    else if d.state = 4 ∨ d.state = 5 then .wait
    else if (d.state = 1 ∨ d.state = 2) ∧ d.core.toNat = core then (if d.grants c.mode then .attach i else .wait)
    else if d.state = 2 then .wait
    else .move i

/-- A trial of admission: the state, and the moves it supposes made: crock and core. -/
structure Trial where
  s : State
  moves : List (Nat × Nat)
  deriving DecidableEq, Repr

/-- Suppose a move made. -/
def Trial.moved (t : Trial) (p : PartNo) (dir core : Nat) (low : Bool) : Option Trial :=
  (t.s.startMove p dir core low).map fun s =>
    ⟨s.modPart p fun P => P.modDir dir fun d => { d with state := 1 }, t.moves ++ [(dir, core)]⟩

/-- The attach, with its slots and shadows, of a declared crock. -/
def State.declare (s : State) (p : PartNo) (tk dir : Nat) (c : CrockDecl) (created low : Bool) : Option State :=
  (s.modPart p fun P => P.attachTo tk dir c.name c.mode created).equip p tk dir low

/-- Make one declared attach of a team on a core. -/
def Trial.declare (t : Trial) (p : PartNo) (tk tidx core : Nat) (low : Bool) (c : CrockDecl) : Option Trial :=
  match t.s.part? p with
  | none => none
  | some P =>
    let held (t : Trial) (dir : Nat) (created : Bool) : Option Trial :=
      (t.s.declare p tk dir c created low).map fun s => { t with s := s }
    match P.declared c core with
    | .void => some { t with s := t.s.setPart p ((P.report (.unattached tidx c.name)).vector 0) }
    | .create => (t.s.claim p tk core c.name c.slots).bind fun e => held { t with s := e.2 } e.1 true
    | .attach i => held t i false
    | .move i => (t.moved p i core low).bind fun t => held t i false
    | .wait => none

/-- The team's run of private slots, zero (R171). -/
def State.giveRun (s : State) (p : PartNo) (tk core n slot : Nat) (low : Bool) : Option State :=
  (s.room p core 4096 fun P => !(P.freeRuns core n).isEmpty).bind fun s =>
    (s.part? p).bind fun P => (choice low s.tick (P.freeRuns core n)).map fun b =>
      let tags := (List.range n).map fun j => (b + j, (⟨privateKey j, false, 1, BitVec.ofNat 12 slot, 0⟩ : Tag))
      s.setPart p ((P.modCore core fun c => c.give tags).modTeam tk fun t => { t with runBase := b })

/-- The table entry and the barriers of a team slot are written whole (R275). -/
def Core.clearEntry (k : Core) (slot : Nat) : Core :=
  { k with cpoison := k.cpoison.filter fun w => w != teamWord slot && !(decide (barrierWord slot 0 0 ≤ w) && decide (w < barrierWord (slot + 1) 0 0)) }

/-- Admit one team to a core. -/
def Trial.team (t : Trial) (p : PartNo) (l : Launch) (launch pos rank ci core : Nat) (marks : List Nat) : Option Trial :=
  (t.s.part? p).bind fun P =>
    let shape := Team.launched l launch pos rank ci core 0 0 marks
    (P.coreMeets l core shape.tidx).bind fun e =>
      let team := Team.launched l launch pos rank ci core e.1 e.2 marks
      let tk := keyIn launch team.tidx
      let P := (P.modRun fun r => { r with teams := Table.set r.teams tk team }).modCore core fun k => k.clearEntry e.1
      let P := { P with choice := P.choice.rewindTeam team.tidx rank }
      let t : Trial := { t with s := t.s.setPart p P }
      (l.kernel.crocks.foldl (fun (t : Option Trial) c => t.bind fun t => t.declare p tk team.tidx core l.coresident c) (some t)).bind fun t =>
        (t.s.giveRun p tk core l.slotQuota e.1 l.coresident).map fun s => { t with s := s }

/-! ## Admission of a cluster (R168, R286, R326) -/

/-- Cores of the ranks of a cluster whose rectangle starts at a core of a die (R286). -/
def rectCores (k : Kernel) (die origin : Nat) : List Nat :=
  (List.range (k.width * k.height)).map fun r => die * 16 + origin + r % k.width + 4 * (r / k.width)
/-- Origins of the rectangles of a shape, the lowest first. -/
def rectOrigins (k : Kernel) : List Nat :=
  (List.range 16).filter fun o => decide (o % 4 + k.width ≤ 4) && decide (o / 4 + k.height ≤ 4)

/-- Try a cluster on the cores of its ranks. -/
def Trial.cluster (t : Trial) (p : PartNo) (l : Launch) (launch pos : Nat) (marks : Table (List Nat)) (cores : List Nat) :
    Option Trial :=
  let ci := l.clusterAt pos
  let ranked := (List.range cores.length).zip cores
  (ranked.foldl (fun (t : Option Trial) e =>
    t.bind fun t => t.team p l launch pos e.1 ci e.2 (Table.getD marks e.1 [])) (some t)).map fun t =>
    let keys := (List.range cores.length).map fun r => keyIn launch (Team.launched l launch pos r ci 0 0 0 []).tidx
    { t with s := t.s.modPart p fun P => P.modRun fun r =>
        { r with clusters := Table.set r.clusters (keyIn launch pos) ⟨keys, [], []⟩ } }

/-- Dies for a cluster, the preferred one first (R326). -/
def Part.dieOrder (P : Part) (l : Launch) (pos : Nat) : List Nat :=
  let dies := (List.range P.dies).map fun d => P.regs.firstDie + d
  if l.onCurve then (dies[pos * P.dies / l.clusters]?).toList
  else
    let home := l.kernel.crocks.filterMap fun c => (P.crock? c.name).bind fun e =>
      if e.2.state = 1 ∨ e.2.state = 2 then some (e.2.core.toNat / 16) else none
    dies.filter home.contains ++ dies.filter fun d => !home.contains d

/-- Place a cluster: on the first rectangle that admits it at once, else on the first that admits it after moves of crocks. -/
def Trial.place (t : Trial) (p : PartNo) (l : Launch) (launch pos : Nat) (marks : Table (List Nat)) : Option Trial :=
  match t.s.part? p with
  | none => none
  | some P =>
    let rects := ((P.dieOrder l pos).map fun d => (rectOrigins l.kernel).map (rectCores l.kernel d)).flatten
    let tries := rects.filterMap fun cores => t.cluster p l launch pos marks cores
    match tries.find? fun r => r.moves == t.moves with
    | some r => some r
    | none => tries.head?

/-! ## Whether a co-resident launch can ever be placed (R322, R324) -/

/-- The partition as it is without any team: its crocks detached, its cores with nothing else. -/
def Part.emptied (P : Part) : Part :=
  P.modRun fun r =>
    let dir := (r.dir.filter fun e => e.2.state != 5).map fun e =>
      (e.1, { e.2 with state := if e.2.placed then 1 else 3, readers := 0, writer := false })
    { r with
      teams := []
      ops := []
      lines := []
      held := []
      dir := dir
      launches := []
      clusters := []
      relaunches := []
      crockReqs := []
      cores := r.cores.map fun e => (e.1, { Core.initial with
        withdrawn := e.2.withdrawn, tags := e.2.tags.filter fun g => g.2.state == 4 && Table.has dir g.2.owner.toNat }) }

/-- The directory as the placement of a launch's first cluster is to find it (R181): of a declared crock that is not as R181 wants it, the
entry is gone, and one of mode `read` or `write` is in its backing, with the slots declared. -/
def Part.supposeCrocks (P : Part) (k : Kernel) : Part :=
  let ns := (List.range k.crocks.length).zip (k.crocks.filter fun c => !P.crockMatches c)
  let gone (d : DirEntry) : Bool := ns.any fun e => e.2.name == d.name
  let new := (ns.filter fun e => decide (e.2.mode.toNat ≤ 1)).map fun e => (4096 + e.1,
    ({ name := e.2.name, version := 0, backing := 0, count := BitVec.ofNat 6 (e.2.slots - 1), base := 0, core := 0, state := 3,
       pin := false, readers := 0, writer := false, detached := 0, creator := none, dirty := [], placed := false } : DirEntry))
  P.modRun fun r => { r with dir := (r.dir.filter fun e => !gone e.2) ++ new }

/-- All clusters of a launch can be admitted together to the partition without any team, in linear or in curve placement, as the
dispatcher places those of a co-resident launch (notes/assumptions/113.md): as many as the reorder window holds (R328). -/
def State.fitsWhole (s : State) (p : PartNo) (P : Part) (l : Launch) : Bool :=
  let empty : Trial := ⟨s.setPart p (P.supposeCrocks l.kernel).emptied, []⟩
  decide (l.clusters ≤ 256) && [l, { l with curve := true }].any fun l =>
    ((List.range l.clusters).foldl (fun (t : Option Trial) pos => t.bind fun t => t.place p l (P.lastLaunch + 1) pos [])
      (some empty)).isSome

/-- The entry of a kernel is executable (R322): its address is canonical, and its page, where it has one, lets it be fetched from a
frame that is marked executable (R41, R434). DEDUCED: a page with no valid entry yet is no ground to reject, as R199 may bring it
(notes/assumptions/112.md). -/
def State.executable (s : State) (P : Part) (entry : DWord) : Bool :=
  canonical entry && (match s.walked P .fetch (entry.toNat % 2 ^ 56) with
    | .ok pa _ _ _ _ => s.execFrames.contains (pa / 65536)
    | .denied => false
    | .invalid _ | .poisoned _ => true)

/-- The limits that the dispatcher checks before it places anything (R322). -/
def State.launchValid (s : State) (p : PartNo) (P : Part) (l : Launch) : Bool :=
  let k := l.kernel
  let e (x : Nat) : Bool := decide (1 ≤ x) && decide (x < 2 ^ 21)
  k.valid && s.executable P k.entry && e l.gx && e l.gy && e l.gz && decide (l.teams ≤ 2 ^ 22) && l.gx % k.width == 0 && l.gy % k.height == 0 &&
  decide (1 ≤ l.slotQuota) && decide (l.slotQuota ≤ 256) && decide (l.recQuota ≤ 16) && decide (l.unitQuota ≤ 2048) &&
  (decide (l.recQuota = 0) == decide (l.unitQuota = 0)) && decide (l.slotDemand ≤ 256) &&
  (!l.coresident || s.fitsWhole p P l)

/-! ## What is placed next (R324, R328, R407, R439) -/

/-- The position of the oldest cluster of a launch that is not complete. -/
def Launch.oldest (l : Launch) : Nat :=
  ((List.range (l.done.length + 1)).find? fun k => !l.done.contains (l.reported + k)).getD 0 + l.reported

/-- Launches with clusters to place, the earliest first, and its relaunches that wait for nothing. -/
def Part.nextLaunch (P : Part) : Option (Nat × Launch) := P.run.launches.find? fun e => decide (e.2.next < e.2.clusters)
def Part.nextRelaunch (P : Part) : Option Relaunch := P.run.relaunches.find? fun r => r.pages.isEmpty

/-- The positions to be placed now, together: one, or all of a co-resident launch. -/
def Launch.batch (l : Launch) : List Nat := if l.coresident then List.range l.clusters else [l.next]

/-- The reorder window is open (R328), and no exploration holds a later launch back (R439). -/
def Part.mayPlace (P : Part) (k : Nat) (l : Launch) : Bool :=
  decide (l.next < l.oldest + 256) && !(P.exploring && P.sieve.launch != k)

/-! ## Order gates of declared attaches (R180, R355, R363, R376) -/

/-- The attaches that a team would make are decided by a stream or by the sieve. -/
def Part.attachGated (P : Part) (name : DWord) : Bool :=
  if P.mode = mEXPLORE then true else P.mode == mSTEERED && P.choice.steer .crock name != .unsteered

/-- The attaches that the trial has made beyond those that stood: team and attach. -/
def newAttaches (old new : Part) : List (Nat × Attach) :=
  ((new.run.teams.filter fun e => !Table.has old.run.teams e.1).map fun e => e.2.attaches.map fun a => (e.1, a)).flatten

/-- The request of a declared attach. -/
def attachReq (e : Nat × Attach) : CrockReq := ⟨e.1 * 32, e.2.name, true, !writing e.2.mode, false⟩

/-- Requests that the attaches still need at the gates of their names. -/
def Part.attachRequests (P : Part) (xs : List (Nat × Attach)) : List CrockReq :=
  (xs.filter fun e => P.attachGated e.2.name && !(P.run.crockReqs.any fun q => { q with admitted := false } == attachReq e)).map
    attachReq
/-- Every gate has let the attaches go, and RECORD mode can keep their records. -/
def Part.attachesDecided (P : Part) (xs : List (Nat × Attach)) : Bool :=
  xs.all (fun e => !P.attachGated e.2.name || P.run.crockReqs.contains { attachReq e with admitted := true }) &&
    (P.mode != mRECORD || P.choice.canRecordAll .crock (xs.map fun e => e.2.name))

/-- The attaches are decisions of their names (R354, R367). -/
def State.attachesServed (s : State) (p : PartNo) (xs : List (Nat × Attach)) : State :=
  xs.foldl (fun s e =>
    let name := e.2.name
    match s.part? p with
    | none => s
    | some P =>
      let s := if P.mode = mRECORD then
          s.record p .crock name (P.choice.domain .crock name).n [mkRecord .crock false true 1 (e.1 % 2 ^ 22 * 1024)]
        else s
      s.modPart p fun P =>
        (({ P with choice := P.choice.bump .crock name }).modTeam e.1 fun t => { t with served := true }).modRun fun r =>
          { r with crockReqs := r.crockReqs.filter fun q => { q with admitted := false } != attachReq e }) s

/-! ## `CLUSTER_PLACEMENT` -/

/-- Make the moves that a trial has supposed. -/
def State.makeMoves (s : State) (p : PartNo) (moves : List (Nat × Nat)) (low : Bool) : State :=
  moves.foldl (fun s m => (s.startMove p m.1 m.2 low).getD s) s

/-- Settle a trial: begin its moves, ask the gates, or let the cluster in. `admitted` finishes an admission. -/
def State.letIn (s : State) (p : PartNo) (P : Part) (t : Trial) (low : Bool) (admitted : State → State) : State :=
  match t.s.part? p with
  | none => s
  | some new =>
    let xs := newAttaches P new
    if !t.moves.isEmpty then s.makeMoves p t.moves low
    else if P.attachesDecided xs then admitted (t.s.attachesServed p xs)
    else s.setPart p (P.modRun fun r => { r with crockReqs := r.crockReqs ++ P.attachRequests xs })

/-- The energy budget lets a cluster be placed (R353, R375). -/
def State.energyAllows (s : State) (P : Part) : Bool :=
  P.regs.ebudget == 0 || P.mode == mEXPLORE ||
    (!P.deferred && decide (P.spent + Config.estimate s.tick ≤ P.regs.ebudget.toNat * 1000000))
/-- A placement is deferred; the first of a period is reported on vector 5. -/
def Part.defer (P : Part) : Part := if P.deferred then P else Part.vector { P with deferred := true } 5

/-- Place of a completion entry in the completion ring of a queue: the packet's (R426). -/
def Queue.entryPlace (x : Queue) (cons : BitVec 16) : Nat :=
  field x.cbase 4 48 * 16 + (cons - 1).toNat % max 1 x.size.toNat * 16

/-- Write a completion entry (R426) in the packet's place. -/
def State.completionEntry (s : State) (p : PartNo) (q : Nat) (tag : Word) (cons : BitVec 16) (status : Nat) (hash : DWord) :
    State :=
  match (s.part? p).bind fun P => Table.get? P.queues q with
  | none => s
  | some x => s.storeNum (x.entryPlace cons) 16
      (hash.toNat + tag.toNat * 2 ^ 64 + status * 2 ^ 96 + cons.toNat * 2 ^ 104)

/-- A `cpyv` holds the line of a completion entry, so that it cannot be written yet (R216). -/
def State.entryHeld (s : State) (P : Part) (q : Nat) (cons : BitVec 16) : Bool :=
  (Table.get? P.queues q).any fun x => s.rangeHeld (x.entryPlace cons) 16

/-- Raise a signal slot (R427). -/
def Part.signalAdd (P : Part) (slot : Nat) (v : DWord) : Part :=
  { P with signals := Cells.set 0 P.signals slot (Cells.get 0 P.signals slot + v) }

/-- A launch completes, rejected or not: the entry, then SIG, then vector 3 (R429). -/
def State.completeLaunch (s : State) (p : PartNo) (k : Nat) (l : Launch) (status : Nat) (hash : DWord) : State :=
  (s.completionEntry p l.queue.toNat l.tag l.cons status hash).modPart p fun P =>
    let P := P.modRun fun r => { r with launches := Table.erase r.launches k }
    let P := if l.sigen then P.signalAdd l.sig.toNat 1 else P
    if l.notify then P.vector 3 else P

/-- The sieve's exploration of a launch begins (R375, R439). -/
def State.explore (s : State) (p : PartNo) (k : Nat) : State :=
  let s := s.modPart p fun P => { P with
    choice := { P.choice with xst := 1, leaves := 0 }
    sieve := { Sieve.initial with snapshot := some (P.run.kept true, P.choice.domains), launch := k } }
  match s.part? p with
  | none => s
  | some P =>
    (s.writeImage p (P.regs.shelfb.toNat + P.choice.imgbase.toNat) 32).modPart p fun P => (P.report (.frozen 32)).vector 3

/-- A launch that breaks R181 at the placement of its first cluster is rejected. -/
def State.reject (s : State) (p : PartNo) (k : Nat) (l : Launch) : State :=
  (s.modPart p fun P => P.report (.rejected k)).completeLaunch p k l 2 0

/-- A launch as it is placed: it runs under the mode that the partition holds when its first cluster is placed (R324). -/
def Launch.inMode (l : Launch) (P : Part) : Launch := if l.mode.isNone then { l with mode := some P.choice.mode } else l

/-- The first cluster of a launch that begins an exploration of its own (R375, R439). -/
def Part.explores (P : Part) (k : Nat) (l : Launch) : Bool :=
  l.mode.isNone && P.mode == mEXPLORE && !(P.exploring && P.sieve.launch == k)

/-- A co-resident launch can never be placed (R324): the partition is empty, and it does not fit. -/
def State.neverFits (s : State) (p : PartNo) (P : Part) (l : Launch) : Bool :=
  l.coresident && P.run.teams.isEmpty && P.run.relaunches.isEmpty && !s.fitsWhole p P l

/-- Teams of another mode than that of a launch are live. DESIGN CHOICE: its clusters wait for them, so that each launch runs under its own mode
(R324; notes/assumptions/104.md). -/
def Part.otherMode (P : Part) (l : Launch) : Bool := P.anyLive && (l.inMode P).mode.any fun m => m.toNat != P.mode

/-- Place the next clusters of a launch. -/
def State.placeNew (s : State) (p : PartNo) (P : Part) (k : Nat) (l : Launch) : State :=
  if !P.mayPlace k l || P.otherMode l then s
  else if l.mode.isNone && (!P.crocksMatch l || s.neverFits p P l) then (if s.entryHeld P l.queue.toNat l.cons then s else s.reject p k l)
  else if !s.energyAllows P then s.setPart p P.defer
  else
    let l' := l.inMode P
    match l'.batch.foldl (fun (t : Option Trial) pos => t.bind fun t => t.place p l' k pos []) (some ⟨s, []⟩) with
    | none => s
    | some t =>
      if P.explores k l ∧ t.moves.isEmpty then s.explore p k
      else s.letIn p P t l.coresident fun s => s.modPart p fun P => P.modLaunch k fun x =>
        { x with next := l.next + l'.batch.length, mode := l'.mode }

/-- Place a discarded cluster again, at its position (R270, R271). -/
def State.placeAgain (s : State) (p : PartNo) (P : Part) (r : Relaunch) : State :=
  match Table.get? P.run.launches r.launch with
  | none => s
  | some l =>
    if P.otherMode l then s
    else if !s.energyAllows P then s.setPart p P.defer
    else match (⟨s, []⟩ : Trial).place p l r.launch r.pos r.marks with
      | none => s
      | some t => s.letIn p P t l.coresident fun s => s.modPart p fun P => P.modRun fun run =>
          { run with relaunches := run.relaunches.filter fun x => !(x.launch == r.launch && x.pos == r.pos) }

/-- A die of the partition (R345). -/
def Part.hasDie (P : Part) (die : Nat) : Bool := decide (P.regs.firstDie ≤ die) && decide (die < P.regs.firstDie + P.dies)

/-- `CLUSTER_PLACEMENT`: the dispatcher places the next cluster in placement order, relaunches ahead. A partition of which a die
has stopped places nothing (R437). -/
def execClusterPlacement (p : PartNo) (s : State) : Host.Outcome State Fault Refusal :=
  .next (match s.part? p with
    | none => s
    | some P =>
      if P.draining ∨ P.freezing ∨ P.frozen ∨ s.stopped.any P.hasDie then s
      else match P.nextRelaunch with
        | some r => s.placeAgain p P r
        | none => match P.nextLaunch with
          | some (k, l) => s.placeNew p P k l
          | none => s)

/-! ## Final commits (R190, R329) -/

/-- Commit order: the launch, the position, the rank. -/
def Team.commitKey (t : Team) : Nat := t.cluster * 16 + t.rank

/-- Every team before this one in commit order has made its final commit or been killed. -/
def Part.turn (P : Part) (t : Team) : Bool :=
  let pos := t.cluster % 2 ^ 22
  !(P.run.teams.any fun e => decide (e.2.commitKey < t.commitKey)) &&
  !(P.run.relaunches.any fun r => decide (keyIn r.launch r.pos < t.cluster)) &&
  P.run.launches.all fun e =>
    if e.1 < t.launch then (List.range e.2.clusters).all fun k => decide (k < e.2.reported) || e.2.done.contains k
    else if e.1 = t.launch then (List.range pos).all fun k => decide (k < e.2.reported) || e.2.done.contains k
    else true

/-- The team may make its final commit: its groups have ended, no commit of it is under way and, in DETERMINISTIC mode, its turn
has come. -/
def Part.mayRetire (P : Part) (t : Team) : Bool :=
  t.ended.isSome && t.commit.isNone && (P.mode != mDETERMINISTIC || P.turn t)

/-- `FINAL_COMMIT`: a team whose last group has ended makes its final commit. -/
def execFinalCommit (p : PartNo) (tk : Nat) (s : State) : Host.Outcome State Fault Refusal :=
  .next (match (s.part? p).bind fun P => (P.team? tk).map fun t => (P, t) with
    | none => s
    | some (P, t) => match t.ended with
      | some (grp, _) => if P.mayRetire t then s.beginCommit p tk grp true else s
      | none => s)

/-! ## Completion (R328, R374, R429) -/

/-- Completions go to the firmware in placement order. -/
def Launch.report (l : Launch) : Launch :=
  let n := l.oldest
  { l with reported := n, done := l.done.filter fun k => decide (n ≤ k) }

/-- A recorded commit that the launch never made (R374): its team and ordinal. -/
def Part.missingCommit (P : Part) (l : Launch) : Option (Nat × Nat × Nat) :=
  if !P.detects then none
  else match P.choice.stream? .hash 0 with
    | none => none
    | some (_, st) =>
      ((st.hashRecords.map Prod.fst).find? fun r => decide (Table.getD l.commits (field r 32 22) 0 ≤ field r 0 27)).map fun r =>
        (field r 32 22, field r 27 5, field r 0 27)

/-- Words of `strel`s of a launch's teams are still on their way, so that not every access of it has been made (R299, R330). -/
def Part.wordsOut (P : Part) (k : Nat) : Bool := P.run.lines.any fun e => e.2.direct && e.2.team / 2 ^ 22 == k

/-- A launch is over: its last cluster is reported, and nothing of it is on its way to memory. -/
def Part.launchOver (P : Part) (e : Nat × Launch) : Bool := decide (e.2.clusters ≤ e.2.reported) && !P.wordsOut e.1

/-- `LAUNCH_COMPLETION`: completions are reported in placement order, and a launch whose last cluster is reported completes, once
every access of its teams has been made, so that what WAIT lets follow it is ordered behind them (R330). In EXPLORE mode it ends a path first, and completes once its exploration has ended (R380, R382). -/
def execLaunchCompletion (p : PartNo) (s : State) : Host.Outcome State Fault Refusal :=
  .next (match s.part? p with
    | none => s
    | some P =>
      let P := P.modRun fun r => { r with launches := r.launches.map fun e => (e.1, e.2.report) }
      let s := s.setPart p P
      match P.run.launches.find? P.launchOver with
      | none => s
      | some (k, l) =>
        if P.exploring ∧ P.sieve.launch = k then s.leaf p false false false
        else if s.entryHeld P l.queue.toNat l.cons then s
        else
          let s := s.completeLaunch p k l 0 (P.launchHash k l)
          match P.missingCommit l with
          | some (t, g, n) => s.modPart p fun P => P.diverge t g n
          | none => s)

/-! ## The egg timer (R332 to R335) -/

/-- The kind of R333 of a wait, if it is a blocked one, with DOM, DETAIL and OBJECT of R335. -/
def Wait.stall : Wait → Option (Nat × Nat × Nat × DWord)
  | .barrier level bar phase => some (1, 0, phase, BitVec.ofNat 64 (level * 256 + bar * 16))
  | .transaction addr phase => some (2, 0, phase, BitVec.ofNat 64 addr)
  | .counter addr threshold => some (3, 0, threshold, BitVec.ofNat 64 addr)
  | .gate dom id n => some (4, domCode dom, n, id)
  | .slots name => some (5, 0, 0, name)
  | _ => none

/-- A combiner request is held at its home's order gate, or in the queue behind it for a batch that is not whole (R309). -/
def Part.heldWhisk (P : Part) (w : WhiskReq) : Bool :=
  match w.place with
  | .gate _ _ => true
  | .queued core => P.mode == mSTEERED && P.objGated w && (Table.get? P.run.homes core).any fun h =>
      !P.choice.batchWhole w.id (h.queue.filter fun q =>
        (Table.get? P.run.whisks q).any fun x => x.sameObject w).length
  | _ => false

/-- A copy out waits for a commit of its team, which is held, and can place nothing before. -/
def State.copyOutHeld (s : State) (P : Part) (p : PartNo) (id gid : Nat) : Bool :=
  ((P.team? (gidTeam gid)).any fun t => t.commit.isSome) && (match execCopyOutProgress p id s with
    | .next s' => decide (s' = s)
    | _ => true)

/-- A commit is complete, or a line of it is held at its gate (R363). -/
def Part.commitFrozen (P : Part) (t : Team) : Bool :=
  match t.commit with
  | none => true
  | some c => Table.has P.run.lines c.req
/-- A team's commit is under way and held. -/
def Part.commitStuck (P : Part) (tk : Nat) : Bool := (P.team? tk).any fun t => t.commit.isSome && P.commitFrozen t

/-- A load has its bytes, and waits for commits that it has seen, which are held (R330). -/
def Part.sightsStuck (P : Part) (id : Nat) : Bool := P.run.sights.any fun e => e.op == id && P.commitStuck e.team
/-- Teams of a core that commit a line which is probed. -/
def Part.probedCommits (P : Part) (lines : List Nat) (core : Nat) : List Nat :=
  (P.run.teams.filter fun e => e.2.core == core && e.2.commit.any fun c => c.filter.any lines.contains).map Prod.fst
/-- The probes of a load still wait for commits that are held (R204). -/
def Part.probesStuck (P : Part) (lines cores : List Nat) : Bool :=
  !cores.isEmpty && cores.all fun k => (P.probedCommits lines k).any P.commitStuck

/-- An operation has nothing under way but what waits for commits that are held. -/
def State.opStuck (s : State) (P : Part) (p : PartNo) (id : Nat) (o : Op) : Bool :=
  match o with
  | .load gid _ _ _ _ => !(P.run.lines.any fun e => e.2.op == id) && P.sightsStuck id &&
    (P.group? gid).any fun g => g.windows.any fun w => w.op == id && w.wide
  | .copyOut gid _ _ _ page => page.isNone && s.copyOutHeld P p id gid
  | .probe _ lines cores => P.probesStuck lines cores
  | _ => false

/-- A group has nothing of its own under way but what waits for commits that are held; matrix operations that are done only keep their
holds (R247). -/
def State.unengaged (s : State) (P : Part) (p : PartNo) (gid : Nat) : Bool :=
  (P.run.ops.all fun e => e.2.gid != gid || s.opStuck P p e.1 e.2) &&
  !(P.run.cores.any fun e => e.2.matrix.any fun m => m.gid == gid && !m.done)

/-- Teams for whose commits a group waits: its own, those of which it has read a byte (R330), those that it has probed (R204). -/
def Part.awaitedCommits (P : Part) (gid : Nat) : List Nat :=
  gidTeam gid :: (P.run.sights.filter fun e => e.gid == gid).map Sight.team ++
    (P.run.ops.map fun e => match e.2 with
      | .probe g lines cores => if g = gid then (cores.map (P.probedCommits lines)).flatten else []
      | _ => []).flatten

/-- A copy of the team is stopped at a page whose verdict is awaited: the team counts as waiting on a page fault (R199, R215). -/
def Part.copyOnPage (P : Part) (tk : Nat) : Bool :=
  P.run.ops.any fun e => !isWhisk e.2.gid && gidTeam e.2.gid == tk && e.2.page.any P.pending

/-- What a group is held for at a gate: a request of its own, of its `wcall`, or of a commit for which it waits, which another group may have
begun (R333 kind 4). -/
def State.heldRequest (s : State) (P : Part) (p : PartNo) (gid : Nat) : Option (Domain × DWord × Nat) :=
  if P.mode ≠ mSTEERED ∧ P.mode ≠ mEXPLORE then none
  else match P.run.lines.find? fun e =>
      (e.2.gid == gid || (e.2.teamFlag && (P.awaitedCommits gid).contains e.2.team && s.unengaged P p gid)) && e.2.gated && !P.lineOpen e.2 with
    | some e => some (.line, lineId e.2.pline, (P.choice.domain .line (lineId e.2.pline)).n)
    | none =>
      (P.run.whisks.find? fun e => P.heldWhisk e.2 && (match Table.get? P.run.ops e.2.op with
        | some (.call g _ _ _ _) => g == gid
        | _ => false)).map fun e => (.obj, e.2.id, (P.choice.domain .obj e.2.id).n)

/-- What a group has last waited for has not come about. -/
def State.stillWaits (s : State) (P : Part) (p : PartNo) (gid : Nat) (g : Group) (w : Wait) : Bool :=
  match P.team? (gidTeam gid) with
  | none => false
  | some t => match w with
    | .barrier level bar phase => (P.bar t level bar).ord % 16 == phase
    | .transaction addr phase => ((P.core? t.core).bind fun k => k.tb? addr).any fun b => b.phase == phase && !b.pois && g.stage != .released
    | .counter addr threshold =>
      (P.core? t.core).any fun k => decide (leNat (Cells.getMany 0 k.scratch addr 8) < threshold)
    | .gate .bar id n => (P.bar t (field id 8 2) (field id 4 4)).n == n
    | .gate .crock name _ => !(P.run.crockReqs.any fun q => q.gid == gid && !q.team && q.name == name && q.admitted)
    | .gate _ _ _ => match g.stage with
      | .chosen _ => false
      | _ => true
    | .slots name => match g.stage, P.crock? name with
      | .creating dir, _ => (s.equip p (gidTeam gid) dir false).isNone
      | _, none => false
      | _, some (dir, d) =>
        if (t.attach? name).any fun a => a.result.isNone then true
        else d.state == 2 && d.core.toNat != t.core ||
          ((d.state == 3 || (d.state == 1 && d.core.toNat != t.core)) && (s.startMove p dir t.core false).isNone)
    | _ => false

/-- A barrier of which every arrival has been counted waits for its role: a wait at an order gate (R333 kind 4), but in RECORD mode one
for room in the record buffer, which blocks nobody (R368). -/
def Part.roleWait (P : Part) (gid level bar : Nat) : Option (Option (Nat × Nat × Nat × DWord)) :=
  (P.team? (gidTeam gid)).bind fun t =>
    let b := P.bar t level bar
    if b.count = b.expect ∧ 2 ≤ b.cands.length then
      some (if P.mode = mRECORD then none else some (4, domCode .bar, b.n, P.barDomain t level bar))
    else none

/-- A wait as R335 lists it now: a barrier whose role is awaited, and the present ordinal of a crock's gate. -/
def Part.stallOf (P : Part) (gid : Nat) : Wait → Option (Nat × Nat × Nat × DWord)
  | .barrier level bar phase => (P.roleWait gid level bar).getD (Wait.stall (.barrier level bar phase))
  | .gate .crock name _ => Wait.stall (.gate .crock name (P.choice.domain .crock name).n)
  | w => w.stall

/-- A group is in a blocked wait (R333): KIND, DOM, DETAIL, OBJECT. -/
def State.blocked (s : State) (P : Part) (p : PartNo) (gid : Nat) (g : Group) : Option (Nat × Nat × Nat × DWord) :=
  match g.wait with
  | some .inFlight => (s.heldRequest P p gid).map fun e => (4, domCode e.1, e.2.2, e.2.1)
  | some w => if s.stillWaits P p gid g w then P.stallOf gid w else none
  | none => none

/-- The entry of a team of which only a commit, or its turn to make its final one, is awaited (R335). -/
def State.endedStall (s : State) (P : Part) (p : PartNo) (tk : Nat) (t : Team) (grp : Nat) (pc : DWord) : Option StallEntry :=
  let entry (kind dom n : Nat) (object : DWord) : StallEntry :=
    ⟨BitVec.ofNat 32 (t.tidx * 1024 + grp * 32), pc, BitVec.ofNat 4 kind, BitVec.ofNat 4 dom, BitVec.ofNat 20 n, object⟩
  if t.commit.isSome then (s.heldRequest P p (tk * 32 + grp)).map fun e => entry 4 (domCode e.1) e.2.2 e.2.1
  else if P.mayRetire t then none
  else some (entry 6 0 0 (BitVec.ofNat 64 (t.cluster % 2 ^ 22)))

/-- The entries of a stall record of a team; none where a group of it is not in a blocked wait (R334, R335). -/
def State.teamStall (s : State) (P : Part) (p : PartNo) (tk : Nat) (t : Team) : Option (List StallEntry) :=
  if P.copyOnPage tk then none
  else match t.ended with
  | some (grp, pc) => (s.endedStall P p tk t grp pc).map fun e => [e]
  | none =>
    (t.groups.filter fun e => e.2.run == .live).foldl (fun (acc : Option (List StallEntry)) e =>
      acc.bind fun l => (s.blocked P p (tk * 32 + e.1) e.2).map fun b =>
        l ++ [⟨BitVec.ofNat 32 (t.tidx * 1024 + e.1 * 32), e.2.pc, BitVec.ofNat 4 b.1, BitVec.ofNat 4 b.2.1,
          BitVec.ofNat 20 b.2.2.1, b.2.2.2⟩]) (some [])

/-- The stall record of a partition of which nothing moves; none where something may. -/
def State.stallRecord (s : State) (P : Part) (p : PartNo) : Option (List StallEntry) :=
  (sortBy (fun e => e.2.tidx) P.run.teams).foldl (fun (acc : Option (List StallEntry)) e =>
    acc.bind fun l => (s.teamStall P p e.1 e.2).map fun x => l ++ x) (some [])

end Sys2Proof.Machine
end

