-- ==== Sys2Proof/Machine/Gate.lean ====
section
/-!
DEFINITION. The order gates of STEERED mode (spec/18_choice_points.md R363 to R365, spec/15_combiner.md R309, spec/11 R262).
-/
namespace Sys2Proof.Machine

/-- Let a line request go to its slice. -/
def Part.admitLine (P : Part) (id : Nat) : Part :=
  P.modRun fun r => { r with lines := Table.modify r.lines id fun x => { x with admitted := true } }

/-- Requests of an observed line that are held. -/
def Part.heldLines (P : Part) (id : DWord) : Table LineReq :=
  P.run.lines.filter fun e => e.2.gated && lineId e.2.pline == id && !e.2.admitted

/-- One decision of a LINE domain: the named requester's oldest request goes, once the last one has been served. A freeze lets the
requests go that the stream names (R397); exhaustion that is met in it only adds its bit (R396). -/
def Part.steerLine (P : Part) (id : DWord) : Part :=
  let held := P.heldLines id
  if held.isEmpty ∨ P.run.lines.any (fun e => e.2.gated && lineId e.2.pline == id && e.2.admitted) then P
  else match P.choice.steer .line id with
    | .unsteered => P
    | .exhausted =>
      if P.freezing && !P.choice.pol then { P with reason := P.reason ||| 8 } else P.exhaust .line id (P.choice.domain .line id).n
    | .named r => match held.find? fun e => e.2.key == recKey r with
      | some e => { P.admitLine e.1 with choice := P.choice.advance .line id }
      | none => P

/-- A request that its gate, or the sieve, holds and does not let go as things stand: what the stream of its line names next is not
there, or the stream has ended (R363, R365, R376). -/
def Part.lineStuck (P : Part) (r : LineReq) : Bool :=
  !P.lineOpen r && P.mode != mRECORD && (P.mode != mSTEERED ||
    (P.run.lines.all fun e => !(e.2.gated && e.2.pline == r.pline && e.2.admitted)) &&
      match P.choice.steer .line (lineId r.pline) with
      | .unsteered => false
      | .exhausted => !P.choice.pol
      | .named x => (P.heldLines (lineId r.pline)).all fun e => e.2.key != recKey x)

/-- The key of an attach request (R355). -/
def Part.crockKeyOf (P : Part) (q : CrockReq) : Nat :=
  if q.team then gidTeam q.gid % 2 ^ 22 * 2048 + 1 else (P.requester q.gid 0).toNat * 2

/-- Let an attach request go to the directory. -/
def Part.admitCrock (P : Part) (q : CrockReq) : Part :=
  P.modRun fun r => { r with crockReqs := r.crockReqs.map fun x => if x = q then { x with admitted := true } else x }

/-- One decision of a CROCK domain. Under the policy FREE an exhausted one lets every request go. -/
def Part.steerCrock (P : Part) (name : DWord) : Part :=
  let mine := P.run.crockReqs.filter fun q => q.name == name
  let held := mine.filter fun q => !q.admitted
  if held.isEmpty ∨ mine.any CrockReq.admitted then P
  else match P.choice.steer .crock name with
    | .unsteered => held.foldl Part.admitCrock P
    | .exhausted => P.exhaust .crock name (P.choice.domain .crock name).n
    | .named r => match held.find? fun q => P.crockKeyOf q == recKey r with
      | some q => { P.admitCrock q with choice := P.choice.advance .crock name }
      | none => P

/-- Where a request stands in the order of the arrivals at gates. -/
def WhiskReq.arrival (w : WhiskReq) : Nat := match w.place with
  | .gate _ n => n
  | _ => 0

/-- Requests to an object that are at a gate, in the order in which they reached it, each with its home. -/
def Part.gatedWhisks (P : Part) (id : DWord) : List (Nat × Nat × WhiskReq) :=
  sortBy (fun e => e.2.2.arrival) (P.run.whisks.filterMap fun e => match e.2.place with
    | .gate core _ => if e.2.id = id then some (core, e.1, e.2) else none
    | _ => none)

/-- Requests to an object in a queue, in queue order, and in the open batch. -/
def Part.queuedWhisks (P : Part) (id : DWord) : List WhiskReq :=
  (P.run.homes.map fun h => h.2.queue.filterMap fun q => Table.get? P.run.whisks q).flatten.filter fun w => w.id == id
def Part.batchedWhisks (P : Part) (id : DWord) : List WhiskReq :=
  (P.run.homes.map fun h => match h.2.batch with
    | some b => b.reqs.filterMap fun q => Table.get? P.run.whisks q
    | none => []).flatten.filter fun w => w.id == id

/-- Every request that the gate of an object holds enters the queue, in the order in which it reached the gate (R388). -/
def Part.openGate (P : Part) (id : DWord) : Part :=
  (P.gatedWhisks id).foldl (fun P e => P.enqueue e.1 e.2.1 e.2.2 false) P

/-- The stream of an object is exhausted: under the policy FREE its gate opens at once (R365, R388). -/
def Part.exhaustObject (P : Part) (id : DWord) : Part :=
  let P := P.exhaust .obj id (P.choice.domain .obj id).n
  if P.choice.pol then P.openGate id else P

/-- One lane of a decision of an OBJ domain: the named requester's oldest request enters the queue. A record that names a
request of another key, or one that is not eligible, is exhaustion (R309, R364), and so is the end of the stream before a lane with
END; a record whose requester is in the open batch waits for its end. No decision is due where no request is there, and none where
the queue holds a whole batch. -/
def Part.steerObject (P : Part) (id : DWord) : Part :=
  let gated := P.gatedWhisks id
  let queued := P.queuedWhisks id
  match P.choice.steerAt .obj id queued.length with
  | .unsteered => P.openGate id
  | x =>
    if gated.isEmpty && queued.isEmpty || (!queued.isEmpty && P.choice.batchWhole id queued.length) then P
    else match x with
      | .named r => match gated.find? fun e => e.2.2.requester.toNat == recVal r with
        | none => P
        | some (core, req, w) =>
          let other := (queued.head?).any fun q => !q.sameKey w
          let again := queued.any fun q => q.requester == w.requester
          if (P.batchedWhisks id).any fun q => q.requester == w.requester then P
          else if other || again then P.exhaustObject id
          else P.enqueue core req w false
      | _ => P.exhaustObject id

/-- A phase whose arrivals have all been counted and whose role is not decided, by its domain. -/
def Part.undecided (P : Part) (id : DWord) : Option (Nat × Team) :=
  P.run.teams.find? fun e =>
    let level := field id 8 2
    let b := P.bar e.2 level (field id 4 4)
    P.barDomain e.2 level (field id 4 4) == id && b.count == b.expect && decide (2 ≤ b.cands.length)

/-- `ORDER_GATE_ADMIT`: the gate of a domain serves what its stream names next. A role that a full record buffer has held
back is decided here too (R368). -/
def execOrderGateAdmit (p : PartNo) (dom : Domain) (id : DWord) (s : State) : Host.Outcome State Fault Refusal :=
  .next (match s.part? p with
    | none => s
    | some P =>
      if P.frozen ∨ (P.freezing ∧ dom ≠ .line) then s
      else match dom with
        | .line => if P.mode = mSTEERED then s.setPart p (P.steerLine id) else s
        | .crock => if P.mode = mSTEERED then s.setPart p (P.steerCrock id) else s
        | .obj => if P.mode = mSTEERED then s.setPart p (P.steerObject id) else s
        | .bar => if P.mode = mEXPLORE then s else match P.undecided id with
          | some (tk, _) => s.tryBarrier p tk (field id 8 2) (field id 4 4)
          | none => s
        | .choose | .hash => s)

end Sys2Proof.Machine
end

