-- ==== Sys2Proof/Machine/Sieve.lean ====
section
/-!
DEFINITION. The sieve's decisions and its return to the snapshot (spec/18_choice_points.md R375 to R382), and the timed flush of
record chunks (R367).
-/
namespace Sys2Proof.Machine

/-! ## Quiescence (R376) -/

/-- The requests of the lines that remain are all held. -/
def Part.linesHeld (P : Part) : Bool := P.run.lines.all fun e => !P.lineFree e.1 e.2 || (e.2.gated && !e.2.admitted)

/-- An operation is in flight only for requests that are held. -/
def State.opHeld (s : State) (P : Part) (p : PartNo) (id : Nat) (o : Op) : Bool :=
  let lineHeld := P.run.lines.any fun e => e.2.op == id
  match o with
  | .version _ _ _ _ _ _ _ => lineHeld
  | .load _ _ _ _ _ => lineHeld || s.opStuck P p id o
  | .copyIn _ _ lines ready sectors _ =>
    lineHeld && lines.isEmpty && sectors.all fun x => x.2.any fun a => !Table.has ready a
  | .copyOut _ _ _ _ _ | .probe _ _ _ => s.opStuck P p id o
  | .call _ _ _ _ _ => P.run.whisks.any fun e => e.2.op == id
  | .send _ _ _ _ _ _ _ _ _ _ => false

/-- Every combiner request is at a gate, and every whisk group waits in `wtake` with nothing to take. -/
def Part.homesQuiet (P : Part) : Bool :=
  (P.run.whisks.all fun e => match e.2.place with
    | .gate _ _ => true
    | _ => false) &&
  P.run.homes.all fun h => h.2.queue.isEmpty && h.2.batch.isNone && h.2.grp.wait == some .take

/-- The dispatcher has nothing that it can do: place a cluster, move a crock, report a completion. -/
def State.dispatcherQuiet (s : State) (P : Part) (p : PartNo) : Bool :=
  (match execClusterPlacement p s with
    | .next s' => decide (s' = s)
    | _ => true) &&
  P.run.dir.all (fun e => e.2.state != 4) && P.run.launches.all fun e => decide (e.2.oldest < e.2.clusters) || P.wordsOut e.1

/-- The partition is quiescent. -/
def State.quiescent (s : State) (P : Part) (p : PartNo) : Bool :=
  (s.stallRecord P p).isSome && P.linesHeld && P.run.ops.all (fun e => s.opHeld P p e.1 e.2) &&
  P.run.cores.all (fun k => k.2.matrix.all MatrixOp.done) && P.homesQuiet && s.dispatcherQuiet P p

/-! ## Pending requests (R376, R377) -/

/-- What the sieve can serve. -/
inductive Serve where
  | line (req : Nat)
  /-- A unit of an object: home and requests, in lane order. -/
  | unit (core : Nat) (reqs : List Nat)
  | crock (q : CrockReq)
  /-- A role: team, level, barrier, member. -/
  | role (team level bar m : Nat)
  | value (gid v : Nat)
  deriving DecidableEq, Repr

/-- A pending choice: its key, its access where requests may commute, what serves it. -/
structure Choosable where
  key : Nat
  access : Option Served
  serve : Serve
  deriving DecidableEq, Repr

/-- A pending decision: its domain, its ordinal, what may be chosen, and the key by which decisions are compared. -/
structure Pending where
  dom : Domain
  id : DWord
  n : Nat
  choices : List Choosable
  rank : Nat
  deriving DecidableEq, Repr

/-- Two requests of one domain commute (R309, R377). -/
def Served.commutes : Served → Served → Bool
  | .line o r, .line o' r' => (r && r') || !(o.any o'.contains)
  | .obj m e, .obj m' e' => m != 0 && m' != 0 && (m == 2 || e == e')
  | .crock r, .crock r' => r && r'
  | _, _ => false

/-- R377: a request that commutes with the one served last has a key that is not below its. -/
def Choice.allows (c : Choice) (dom : Domain) (id : DWord) (x : Choosable) : Bool :=
  match (c.domain dom id).last, x.access with
  | some (key, a), some b => !(a.commutes b && decide (x.key < key))
  | _, _ => true

/-- The first of each key, keys rising. -/
def firstOfKey (xs : List Choosable) : List Choosable :=
  (sortBy Choosable.key xs).foldl (fun acc x => if acc.any fun y => y.key == x.key then acc else acc ++ [x]) []

/-- Held accesses to a line. -/
def Part.lineChoices (P : Part) (id : DWord) : List Choosable :=
  ((P.heldLines id).filter fun e => P.lineFree e.1 e.2).map fun e =>
    ⟨e.2.key, some (.line e.2.offsets e.2.isRead), .line e.1⟩

/-- Whether a request of a class and an entry commutes (R304, R309): 0 not, 1 with its own entry, 2 with every one. -/
def Part.commuteMark (P : Part) (cls entry : Nat) (posted : Bool) : Nat :=
  if !posted then 0
  else if cls = 1 ∨ cls = 2 ∨ cls = 3 then bit ([0, 3, 4, 5, 6, 7, 8].contains entry)
  else if cls = 4 ∨ cls = 5 then bit (entry == 8)
  else if (Table.get? P.classes cls).any UserClass.commutes then 2 else 0

/-- Held units of an object: the lanes of one instruction with one key, of which no requester has an earlier one there. -/
def State.unitChoices (s : State) (P : Part) (id : DWord) : List Choosable :=
  let held := P.gatedWhisks id
  let same (a b : WhiskReq) : Bool := a.unit == b.unit && a.sameKey b
  held.filterMap fun e =>
    let w := e.2.2
    let unit := held.filter fun x => same x.2.2 w
    let first := (unit.head?).any fun x => x.2.1 == e.2.1
    let early := unit.any fun x => held.any fun y =>
      decide (y.2.1 < x.2.1) && y.2.2.requester == x.2.2.requester && !same y.2.2 w
    if first && !early then
      let lanes := sortBy (fun x => x.2.2.requester.toNat) unit
      let cls := headerClass (s.num (w.pa + 56) 8)
      let key := ((lanes.head?).map fun x => x.2.2.requester.toNat * 2).getD 0
      some ⟨key, some (.obj (P.commuteMark cls w.entry (w.op == 0)) w.entry), .unit e.1 (lanes.map fun x => x.2.1)⟩
    else none

/-- Held attaches of a crock. -/
def Part.crockChoices (P : Part) (name : DWord) : List Choosable :=
  let mine := P.run.crockReqs.filter fun q => q.name == name
  if mine.any CrockReq.admitted then [] else mine.map fun q => ⟨P.crockKeyOf q, some (.crock q.read), .crock q⟩

/-- The pending decisions of a kind of domain, from its identifiers. -/
def Part.decisions (P : Part) (dom : Domain) (ids : List DWord) (f : DWord → List Choosable) : List Pending :=
  (dedup ids).map fun id =>
    let xs := firstOfKey ((f id).filter (P.choice.allows dom id))
    ⟨dom, id, (P.choice.domain dom id).n, xs, ((xs.head?).map Choosable.key).getD 0⟩

/-- Roles that are to be decided (R262). -/
def Part.roleDecisions (P : Part) : List Pending :=
  let all := (P.run.teams.map fun e =>
    [0, 1, 2].map fun level => (List.range (if level = 0 then 16 else if level = 1 then 8 else 4)).filterMap fun bar =>
      let b := P.bar e.2 level bar
      if b.count = b.expect ∧ 2 ≤ b.cands.length ∧ (level ≠ 2 ∨ (P.launchOf e.2).any Launch.coresident) then
        let xs := firstOfKey (b.cands.map fun m =>
          ⟨P.candidateName e.2 level m * 2, none, .role e.1 level bar m⟩)
        some (⟨.bar, P.barDomain e.2 level bar, b.n, xs, ((xs.head?).map Choosable.key).getD 0⟩ : Pending)
      else none)
  all.flatten.flatten.foldl (fun acc x => if acc.any fun y => y.id == x.id then acc else acc ++ [x]) []

/-- Values that are to be decided (R147, R379). -/
def Part.valueDecisions (P : Part) : List Pending :=
  (P.run.teams.map fun e => e.2.groups.filterMap fun g =>
    match g.2.wait, g.2.stage with
    | some (.gate .choose id n), .choosing b =>
      some (⟨.choose, id, n, (List.range b).map fun v => ⟨v, none, .value (e.1 * 32 + g.1) v⟩,
        (e.2.tidx * 1024 + g.1 * 32) * 2⟩ : Pending)
    | _, _ => none).flatten

/-- Every pending decision. -/
def State.pending (s : State) (P : Part) : List Pending :=
  P.decisions .line ((P.run.lines.filter fun e => e.2.gated && !e.2.admitted).map fun e => lineId e.2.pline) P.lineChoices ++
  P.decisions .obj (P.run.whisks.filterMap fun e => match e.2.place with
    | .gate _ _ => some e.2.id
    | _ => none) (s.unitChoices P) ++
  P.decisions .crock (P.run.crockReqs.map CrockReq.name) P.crockChoices ++ P.roleDecisions ++ P.valueDecisions

/-- The decision to be made: the lowest, ties going to the lower domain code and then the lower identifier. -/
def nextDecision (ds : List Pending) : Option Pending :=
  (sortBy (fun d => d.rank * 2 ^ 68 + domCode d.dom * 2 ^ 64 + d.id.toNat) (ds.filter fun d => !d.choices.isEmpty)).head?

/-! ## `SIEVE_DECISION` -/

/-- Serve a choice. -/
def State.serve (s : State) (p : PartNo) (d : Pending) (x : Choosable) : State :=
  let s := s.modPart p fun P => { P with
    choice := match x.access with
      | some a => P.choice.setDomain { P.choice.domain d.dom d.id with last := some (x.key, a) }
      | none => P.choice
    sieve := { P.sieve with dec := P.sieve.dec + 1 } }
  match x.serve with
  | .line req => s.modPart p fun P => P.admitLine req
  | .unit core reqs => s.modPart p fun P => reqs.foldl (fun P q => match Table.get? P.run.whisks q with
      | some w => P.enqueue core q w false
      | none => P) P
  | .crock q => s.modPart p fun P => P.admitCrock q
  | .role team level bar m => s.completeBarrier p team level bar (some m)
  | .value gid v => s.modGroup p gid fun g => { g with stage := .chosen v }

/-- The branch point of a decision, as the path meets it (R378, R381): the index of the choice to take, or that the replayed
prefix has diverged, with the sieve as it then stands. -/
def Sieve.branch (v : Sieve) (win : Nat) (d : Pending) (keys : List Nat) : Option (Nat × Sieve) :=
  if keys.length < 2 then some (0, v)
  else if win + 1 ≤ v.depth then some (0, { v with isOver := true })
  else match v.branches[v.depth]? with
    | some b =>
      if b.dom = d.dom ∧ b.id = d.id ∧ b.n = d.n ∧ b.keys = keys then some (b.index, { v with depth := v.depth + 1 }) else none
    | none => some (0, { v with branches := v.branches ++ [⟨d.dom, d.id, d.n, keys, 0⟩], depth := v.depth + 1 })

/-- Make one decision. Alternatives are kept only while an exploration runs. -/
def State.decideOne (s : State) (p : PartNo) (P : Part) (d : Pending) : State :=
  let xs := d.choices.take 256
  let take (s : State) (k : Nat) : State := match xs[k]? with
    | some x => s.serve p d x
    | none => s
  if !P.exploring then take s 0
  else match P.sieve.branch P.choice.win.toNat d (xs.map Choosable.key) with
    | none => s.leaf p false true false
    | some (k, v) => take (s.setPart p { P with sieve := v }) k

/-- `SIEVE_DECISION`: at quiescence the sieve serves the lowest allowed choice, or ends the path: with a stall where nothing is
pending, abandoned where nothing pending is allowed. DESIGN CHOICE: where the last path is an abandoned one, the partition keeps it as it stands
(R382): its requests stay held, none is allowed, its launch does not complete, and nothing is frozen (notes/assumptions/122.md). -/
def execSieveDecision (p : PartNo) (s : State) : Host.Outcome State Fault Refusal :=
  .next (match s.part? p with
    | none => s
    | some P =>
      if P.mode ≠ mEXPLORE ∨ P.frozen ∨ P.freezing ∨ P.sieve.ended ∨ !s.quiescent P p then s
      else
        let ds := s.pending P
        match nextDecision ds with
        | some d => s.decideOne p P d
        | none =>
          if ds.isEmpty then (if P.anyLive then s.leaf p true false false else s)
          else if P.exploring then
            s.setPart p { P with sieve := { P.sieve with ended := true, stalled := false } }
          else s)

/-! ## `EGG_TIMER_WINDOW` (R332 to R335) -/

/-- The window ends: the counters hold what it counted, FLIT with the packets of which spec/ gives no flits (R411), and the next one
starts with the WIN that stands (R332). -/
def Part.nextWindow (P : Part) (tick : Nat) : Part :=
  { P with
    lastFire := P.fire, lastRet := P.ret, lastFlit := BitVec.ofNat 64 P.flit + Config.flits tick
    fire := 0, ret := 0, flit := 0
    window := BitVec.ofNat 24 (field P.regs.egg 0 24) }

/-- A stall is raised (R334, R349): the freeze, the stall record, the error record and the vector of the configured action. What
actions 3 and 4 do follows the image. -/
def State.stall (s : State) (p : PartNo) (P : Part) (entries : List StallEntry) : State :=
  let act := s.action P 10 srcCore
  let P := (P.report (.stall entries)).freeze 2
  let P := if act = 0 then P else P.log (logRecord s.now 0 0xFFFFFFFF 10 srcCore (P.regs.firstDie * 16) act)
  s.setPart p (if act = 0 ∨ act = 2 then P.vector 2 else P)

/-- The partition is quiescent with no pending request: the schedule is infeasible (R334, R380). -/
def State.infeasible (s : State) (P : Part) (p : PartNo) : Bool := s.quiescent P p && (s.pending P).isEmpty

/-- `EGG_TIMER_WINDOW`: the end of a window, which runs while the partition runs (R334). In EXPLORE mode the timer hands a stall to the
sieve, which has one where the schedule is infeasible (R380). -/
def execEggTimerWindow (p : PartNo) (s : State) : Host.Outcome State Fault Refusal :=
  .next (match s.part? p with
    | none => s
    | some P =>
      if P.freezing ∨ P.frozen then s
      else
        let still := P.fire == 0 && P.ret == 0 && P.anyLive && P.regs.egg.getLsbD 63
        let s := s.setPart p (P.nextWindow s.tick)
        if !still then s
        else match s.stallRecord P p with
          | none => s
          | some entries =>
            if P.mode = mEXPLORE then (if s.infeasible (P.nextWindow s.tick) p then s.leaf p true false false else s)
            else s.stall p (P.nextWindow s.tick) entries)

/-! ## `SIEVE_BACKTRACK` (R381, R382) -/

/-- The branch points up to the deepest one with an untried alternative, which it takes; none where there is none left. -/
def nextPath : List Branch → Option (List Branch)
  | [] => none
  | b :: rest => match nextPath rest with
    | some l => some (b :: l)
    | none => if b.index + 1 < b.keys.length then some [{ b with index := b.index + 1 }] else none

/-- A line as the undo log has kept it; the window of a port that is down takes none (R421). -/
def State.undoLine (s : State) (u : Undo) : State :=
  if s.portDown (u.pline * 128) then s else s.storeLine u.pline (lineBytes 0 u.bytes) u.poison

/-- Launches that an image does not hold: accepted since it was written. -/
def Part.launchesBeside (P : Part) (r : Run) : Table Launch := P.run.launches.filter fun e => !Table.has r.launches e.1

/-- Work as an image holds it, on cores that are withdrawn or tested as they now are, and homes where they now are, beside the launches
that have been accepted since; a page that has its verdict is no longer awaited. -/
def Part.restoreRun (P : Part) (r : Run) : Run :=
  let beside := P.launchesBeside r
  P.regs.whiskCores.foldl (fun r c => r.moveHome c (P.homeCore c)) { r with
    launches := beside.foldl (fun t e => Table.set t e.1 e.2) r.launches
    cores := r.cores.map fun e => match P.core? e.1 with
      | some k => (e.1, { e.2 with withdrawn := k.withdrawn, testing := k.testing })
      | none => e
    relaunches := (r.relaunches.map fun x => { x with pages := x.pages.filter fun v => P.pending v.1 }) ++
      P.run.relaunches.filter fun x => Table.has beside x.launch }

/-- Read the slots of a resident crock from its backing that its image has not captured: those that nothing has been sealed into
since the crock came to its core (R403). No poison mark is lost (R275). -/
def State.refetchCrock (s : State) (d : DirEntry) (k : Core) : Core :=
  (List.range (d.count.toNat + 1)).foldl (fun k j =>
    if d.dirty.contains j then k
    else
      let slot := d.base.toNat + j
      let marks := k.spoison.filter fun x => x / 512 == slot
      let k := s.fetchSlot (d.backingPa j) k slot
      { k with spoison := marks.foldl insertNum k.spoison }) k

/-- Read again what an image does not hold of the resident crocks. -/
def State.refetch (s : State) (p : PartNo) : State :=
  s.modPart p fun P => P.run.dir.foldl (fun P e =>
    if e.2.placed && (e.2.state == 1 || e.2.state == 2) then P.modCore e.2.core.toNat (s.refetchCrock e.2) else P) P

/-- The return to the snapshot, which is restored as RESUME does, and holds every resident crock slot (R375). -/
def State.restoreSnapshot (s : State) (p : PartNo) (P : Part) (run : Run) (domains : List DomainState) (path : List Branch) :
    State :=
  (P.sieve.undo.foldl State.undoLine s).setPart p { P with
    run := P.restoreRun run
    choice := { P.choice with domains := domains }
    sieve := { P.sieve with
      undo := [], branches := path, depth := 0, dec := 0, isOver := false, ended := false, stalled := false }
    tlb := []
    fire := 0
    ret := 0
    window := BitVec.ofNat 24 (field P.regs.egg 0 24) }

/-- `SIEVE_BACKTRACK`: after a path has ended the sieve takes the next one, or the exploration is over. -/
def execSieveBacktrack (p : PartNo) (s : State) : Host.Outcome State Fault Refusal :=
  .next (match s.part? p with
    | none => s
    | some P =>
      if !P.exploring ∨ !P.sieve.ended ∨ P.frozen ∨ P.freezing then s
      else match P.sieve.snapshot, nextPath P.sieve.branches with
        | some (run, domains), some path => s.restoreSnapshot p P run domains path
        | _, _ => s.setPart p (P.endExploration 2))

/-! ## `CHUNK_FLUSH_TIMER` (R367) -/

/-- 1 ms after its first record, a chunk is flushed. -/
def execChunkFlushTimer (p : PartNo) (dom : Domain) (id : DWord) (s : State) : Host.Outcome State Fault Refusal :=
  .next (s.flushChunk p dom id)

end Sys2Proof.Machine
end

