-- ==== Sys2Proof/Machine/Freeze.lean ====
section
/-!
DEFINITION. Freezing, pre-emption and resumption (spec/21_checkpoint_images.md R396 to R407; spec/11 R272; spec/22 R423).
-/
namespace Sys2Proof.Machine

/-! ## What a freeze waits for (R397) -/

/-- Every request to a line has been served but those which a gate holds and, as things stand, does not let go, and those behind
them: they are recorded where they stand (R363, R397; notes/assumptions/64.md). -/
def Part.linesFrozen (P : Part) : Bool := P.run.lines.all fun e => !P.lineFree e.1 e.2 || P.lineStuck e.2

/-- An operation stands at a point that an image can hold: it waits only for requests or commits that are held, at a gate or in a queue,
or it is a `cpyt` stopped at a page. -/
def State.opFrozen (s : State) (P : Part) (p : PartNo) (id : Nat) (o : Op) : Bool :=
  match o with
  | .load _ _ _ _ _ => (P.run.lines.any fun e => e.2.op == id) || P.sightsStuck id
  | .version _ _ _ _ _ _ _ => P.run.lines.any fun e => e.2.op == id
  | .copyIn _ _ _ _ _ page => page.isSome || s.opHeld P p id o
  | .copyOut gid _ _ _ page => page.isSome || s.copyOutHeld P p id gid
  | .call _ _ _ _ _ => P.run.whisks.all fun e => e.2.op != id || (match e.2.place with
    | .answered _ _ | .batch _ => false
    | _ => true)
  | .probe _ lines cores => P.probesStuck lines cores
  | .send _ _ _ _ _ _ _ _ _ _ => false

/-- A group's `ccall` is answered, and each of its windows is closed, or its opener is an operation that the image holds. -/
def Part.mayFreeze (P : Part) (g : Group) : Bool :=
  (g.windows.all fun w => w.done || Table.has P.run.ops w.op) && (match g.stage with
    | .asked _ | .sleeping => false
    | _ => true)

/-- A matrix operation stands at a point that an image can hold (R256): fills have landed, rows are moved wholly or not at all, and
steps are between two steps. -/
def matrixFrozen (m : MatrixOp) : Bool :=
  m.done || (match m.work with
    | .steps _ _ _ _ _ => true
    | .save _ _ _ moved | .load _ _ _ moved => moved == 0
    | .fill _ => false)

/-- Every combiner request is at its home, or cannot enter it: a queue is full, a flow or a line is held (R317). -/
def Part.requestsFrozen (P : Part) : Bool := P.run.whisks.all fun e => !e.2.coming || P.shutOut e.1 e.2

/-- Every piece of work under way has reached the point of R397; a team that may make its final commit makes it first (R391, R395). -/
def State.mayImage (s : State) (P : Part) (p : PartNo) : Bool :=
  (P.run.teams.all fun e => !P.mayRetire e.2 && P.commitFrozen e.2 && e.2.groups.all fun g => g.2.run != .live || P.mayFreeze g.2) &&
  P.run.ops.all (fun e => s.opFrozen P p e.1 e.2) && P.linesFrozen && P.requestsFrozen &&
  P.run.cores.all (fun k => k.2.matrix.all matrixFrozen) &&
  P.run.homes.all fun h => h.2.batch.isNone

/-! ## The image (R397 to R399) -/

/-- Discard every cluster that may be discarded, and list it for relaunch (R272, R398). -/
def Part.discardAll (P : Part) : Part :=
  P.run.clusters.foldl (fun P e => match e.2.teams.head? with
    | some tk => if P.discardable tk then P.discard tk [] else P
    | none => P) P

/-- The windows of every group whose openers are complete are closed (R56). -/
def Part.closeWindows (P : Part) : Part :=
  P.modRun fun r => { r with teams := r.teams.map fun e =>
    (e.1, { e.2 with groups := e.2.groups.map fun g => (g.1, { g.2 with windows := g.2.windows.filter fun w => !w.done }) }) }

/-- Write the image into the registered area, if it fits (R399). -/
def State.saveImage (s : State) (p : PartNo) (P : Part) : State :=
  let size := 8 * (P.imageWords p P.reason s.now).length
  match P.imageArea with
  | some (pa, n) =>
    if size ≤ n then
      (s.writeImage p pa P.reason).modPart p fun P => ({ P with saved := true }.report (.frozen P.reason)).vector 3
    else s.setPart p ((P.report .imageTooLarge).vector 3)
  | none => s.setPart p ((P.report .imageTooLarge).vector 3)

/-- What the stall actions 3 and 4 do once the image is written (R334). -/
def State.stallAction (s : State) (p : PartNo) : State :=
  match s.part? p with
  | none => s
  | some P =>
    if P.reason.getLsbD 2 ∧ P.mode ≠ mEXPLORE then
      match s.action P 10 srcCore with
      | 3 => (P.run.teams.foldl (fun s e => s.killTeam p e.1) s).modPart p fun P =>
        { P with frozen := false, saved := false, reason := 0 }
      | 4 => s.modPart p Part.reset
      | _ => s
    else s

/-- The image of a frozen partition is written; where it has been, the stall action follows. One that does not fit leaves the state in the
units (R399). -/
def State.finishFreeze (s : State) (p : PartNo) (P : Part) : State :=
  let t := s.saveImage p P
  if (t.part? p).any Part.saved then t.stallAction p else t

/-- A `cpyv` holds a line of the image area, so that no image can be written yet (R216). -/
def State.areaHeld (s : State) (P : Part) : Bool := P.imageArea.any fun a => s.rangeHeld a.1 a.2

/-- `FREEZE_IMAGE`: once the work under way has reached its point, a freeze is complete. -/
def execFreezeImage (p : PartNo) (s : State) : Host.Outcome State Fault Refusal :=
  .next (match s.part? p with
    | none => s
    | some P =>
      if !P.freezing ∨ !s.mayImage P p ∨ s.areaHeld P then s
      else
        let s := s.flushAll p
        let s := s.modPart p fun P => { P.closeWindows.discardAll with freezing := false, frozen := true }
        match s.part? p with
        | none => s
        | some P => s.finishFreeze p P)

/-! ## Resumption (R407) -/

/-- The stream table, restored in part. -/
def Choice.restoreStreams (c : Choice) (old : Table Stream) : Table Stream :=
  c.streams.map fun e => match old.find? fun o => o.2.kind == e.2.kind && o.2.id == e.2.id with
    | some o => (e.1, { e.2 with cur := o.2.cur, roff := o.2.roff, exh := o.2.exh })
    | none => e

/-- The choice state that an image restores. -/
def Choice.restore (c : Choice) (i : Image) : Choice :=
  { i.choice with
    rbprod := c.rbprod, rbcons := c.rbcons, olprod := c.olprod, streams := c.restoreStreams i.choice.streams
    noDiverge := i.choice.noDiverge || i.reason.getLsbD 4 }

/-- Restore an image: every unit goes on. -/
def Part.restore (P : Part) (i : Image) : Part :=
  { P with
    run := P.restoreRun i.run
    choice := P.choice.restore i
    sieve := i.sieve
    frozen := false
    saved := false
    freezing := false
    draining := false
    reason := 0
    fire := 0
    ret := 0
    flit := 0
    window := BitVec.ofNat 24 (field P.regs.egg 0 24) }

/-- No team is live and every home is empty, what a written image holds set aside (R406). -/
def Part.mayResume (P : Part) : Bool := (P.frozen && P.saved) || (!P.anyLive && P.homesEmpty)

/-! ## Gang time slices (R272, R423) -/

/-- GSLICE enables slicing. -/
def Part.slicing (P : Part) : Bool := P.regs.gslice.getLsbD 63

/-- Resume an image in a partition (R403, R407); a snapshot holds every resident crock slot itself (R375). -/
def State.resume (s : State) (p : PartNo) (P : Part) (i : Image) : State :=
  let s := s.setPart p (P.restore i)
  if isSnapshot i.reason then s else s.refetch p

/-- A RESUME is rejected, and reported on vector 3; an uncorrectable error that the firmware has met in the image is reported too (R351,
R406). -/
def State.resumeRejected (s : State) (p : PartNo) (pa : Nat) : State :=
  let s := s.modPart p fun P => (P.report .resumeRejected).vector 3
  match s.part? p with
  | some P => if s.unclean pa (s.imageBytes pa) then s.readError p P pa else s
  | none => s

/-- `GANG_SLICE_START`: a partition that a slice end has frozen goes on, if its image still stands where it was written (R406, R421). -/
def execGangSliceStart (p : PartNo) (s : State) : Host.Outcome State Fault Refusal :=
  .next (match s.part? p with
    | none => s
    | some P =>
      if !P.slicing ∨ !P.frozen ∨ !P.saved then s
      else match P.images.head? with
        | none => s
        | some i =>
          if i.reason = 2 then
            match s.readImage P p i.place with
            | some i => s.resume p P i
            | none => s.resumeRejected p i.place
          else s.setPart p ((P.report (.sliceKept i.reason)).vector 3))

/-- `GANG_SLICE_END`: pre-emption begins: no cluster is placed any more, and unanchored ones are discarded. -/
def execGangSliceEnd (p : PartNo) (s : State) : Host.Outcome State Fault Refusal :=
  .next (match s.part? p with
    | none => s
    | some P =>
      if !P.slicing ∨ P.frozen then s
      else if P.freezing then s.setPart p (P.freeze 1)
      else s.setPart p { P.discardAll with draining := true })

/-- `DRAIN_DEADLINE`: what remains is frozen. -/
def execDrainDeadline (p : PartNo) (s : State) : Host.Outcome State Fault Refusal :=
  .next (match s.part? p with
    | none => s
    | some P => if P.draining then s.setPart p ({ P with draining := false }.freeze 1) else s)

/-! ## What a frozen partition does not do (R396, R397) -/

/-- The partition whose units an engine's event belongs to. -/
def engineOf : Instr → Option PartNo
  | .sendLanding p op => if op = 0 then none else some p
  | .loadReturn p _ | .copySectorLanding p _ | .copyOutProgress p _ | .sendAcknowledgement p _
  | .releaseFilterProbe p _ _ | .lineAccess p _ | .orderGateAdmit p _ _ | .requestArrival p _ | .batchAssembly p _
  | .whiskReply p _ | .fillLanding p _ | .matrixStep p _ _ | .clusterPlacement p | .finalCommit p _ | .launchCompletion p
  | .crockMoveDone p _ | .eggTimerWindow p | .sieveDecision p | .sieveBacktrack p | .chunkFlushTimer p _ _ => some p
  | _ => none

/-- The event is work of the firmware: a pass, a packet, a service, an image, a flush, what the dispatcher does (R322, R424). -/
def firmwareWork : Instr → Bool
  | .clusterPlacement _ | .launchCompletion _ | .chunkFlushTimer _ _ _ | .freezeImage _ | .sieveBacktrack _ | .gangSliceStart _ | .firmwarePass
  | .reset _ _ | .setmode _ _ | .attach _ _ | .extend _ _ | .detach _ _ | .buffers _ _ | .consume _ _ | .resume _ _ | .launch _ _
  | .signalSet _ _ | .signalAdd _ _ | .wait _ _ | .nopPacket _ _ | .unknownPacket _ _ | .null _ _ | .debug _ _ | .sigadd _ _ | .sleep _ _
  | .sleepExpiry _ _ | .unknownService _ _ | .freeze _ | .registerImageArea _ | .copyTableEntry _ | .clearSpoil _ | .copyDebugRing _
  | .loadLvc _ | .unloadKernel _ | .setTrustedKey _ | .extendMeasurement _ | .attest _ | .updateFirmware _ _ | .firmwareHandover => true
  | _ => false

/-- The event is an access of the host, over the PCIe port (R409, R420). -/
def hostAccess : Instr → Bool
  | .hostWrite _ _ | .hostRead _ _ | .rootComplexAcknowledgement _ _ => true
  | _ => false

/-- The event takes a packet over the fabric: none is injected while routes are recomputed (R413). -/
def crossesFabric (i : Instr) : Bool :=
  firmwareWork i || hostAccess i || match i with
  | .lineAccess _ _ | .requestArrival _ _ | .whiskReply _ _ | .batchAssembly _ _ | .loadReturn _ _ | .copySectorLanding _ _
  | .copyOutProgress _ _ | .sendLanding _ _ | .sendAcknowledgement _ _ | .releaseFilterProbe _ _ _ | .crockMoveDone _ _ => true
  | _ => false

/-- The event comes in over the PCIe port or the management port, which are on hub die 0 (R409): an access of the host, a write of a register
or a doorbell, a command of the physical function, a function-level reset, a time message. -/
def throughHub : Instr → Bool
  | .qprodWrite _ _ _ | .qbaseWrite _ _ _ | .invWrite _ _ | .faultMapped _ _ | .faultDeclined _ _ | .shelfcWrite _ _ | .whiskWrite _ _
  | .eggWrite _ _ | .sevWrite _ _ _ | .registerWrite _ _ _ | .createPartition _ _ | .destroyPartition _ _ | .setGranuleKey _ _
  | .grantQueue _ _ | .grantPort _ _ | .updateFirmware _ _ | .setSharedSeverity _ _ | .functionLevelReset _
  | .ieee1588Message (.sync _ _) => true
  | i => hostAccess i

/-- The event accesses a line of the host's memory (R336). -/
def State.reachesHost (s : State) : Instr → Bool
  | .lineAccess p id => ((s.part? p).bind fun P => Table.get? P.run.lines id).any fun r => decide (2 ^ 44 ≤ r.pline)
  | _ => false

/-- An event whose port is cut off: there is one firmware core on each hub die (R409; notes/assumptions/68.md). -/
def State.cutOff (s : State) (i : Instr) : Bool :=
  ((throughHub i || s.reachesHost i) && !s.hubReached 0) || (firmwareWork i && !((List.range 4).any s.hubReached))

/-- An event that injection's pause holds up, whose port is cut off, or one of a unit of a frozen partition, which does not happen; while a
freeze is under way no launch completes (R395), and a team whose groups have ended may still make its final commit. -/
def State.halted (s : State) (i : Instr) : Bool :=
  (s.paused && crossesFabric i) || s.cutOff i || match (engineOf i).bind s.part? with
  | none => false
  | some P => P.frozen || (P.freezing && (match i with
    | .launchCompletion _ => true
    | _ => false))

end Sys2Proof.Machine
end

