-- ==== Sys2Proof/Machine/Errors.lean ====
section
/-!
DEFINITION. Scrubs (spec/11 R273, spec/17 R351), in-field tests (R352), energy periods (R353) and the end of an invalidation (R344).
-/
namespace Sys2Proof.Machine

/-! ## Partitions by core, die and owner -/

/-- The partition that holds a die. -/
def State.partOfDie (s : State) (die : Nat) : Option (PartNo × Part) :=
  (s.parts.find? fun e => e.2.hasDie die).map fun e => (BitVec.ofNat 3 e.1, e.2)
def State.partOfCore (s : State) (core : Nat) : Option (PartNo × Part) := s.partOfDie (core / 16)
/-- The partition that owns a physical address (R338). -/
def State.partOfPa (s : State) (pa : Nat) : Option (PartNo × Part) :=
  (s.parts.find? fun e => s.owner pa != 0 && e.2.regs.pkey == s.owner pa).map fun e => (BitVec.ofNat 3 e.1, e.2)

/-! ## Scrubs -/

/-- Mark a word of a core poisoned (R273). -/
def Part.poisonWord (P : Part) (core : Nat) (w : CoreWord) : Part :=
  match w with
  | .scratch d => P.modCore core fun k => { k with spoison := insertNum k.spoison d.toNat }
  | .operand d => P.modCore core fun k => { k with opoison := insertNum k.opoison d.toNat }
  | .cell t y x => P.modCore core fun k =>
    { k with tiles := Table.modify k.tiles t.toNat fun a => { a with poison := insertNum a.poison (128 * y.toNat + x.toNat) } }
  | .register gid r pair => P.modGroup gid fun g => { g with vpoison := insertNum g.vpoison (16 * r.toNat + pair.toNat) }
  | .colander tk line d => P.modTeam tk fun t =>
    { t with colander := t.colander.map fun l => if l.vline = line.toNat then { l with poison := insertNum l.poison d.toNat } else l }
  | .request tk n => P.modTeam tk fun t => { t with posted := t.posted.modify n.toNat fun x => { x with poison := true } }
  | .combining op lane => match Table.get? P.run.ops op with
    | some (.load gid dst size scalar lanes) =>
      P.setOp op (.load gid dst size scalar (lanes.map fun l => if l.lane = lane.toNat then { l with poison := true } else l))
    | _ => P
  | .uniform tk r => P.modTeam tk fun t => { t with kpoison := insertNum t.kpoison r.toNat }
  | .control gid w => P.modGroup gid fun g => { g with cpoison := insertNum g.cpoison w.toNat }
  | .table w => P.modCore core fun k => { k with cpoison := insertNum k.cpoison w.toNat }
  | .icache => P

/-- The word lies on the core. -/
def Part.onCore (P : Part) (core : Nat) (w : CoreWord) : Bool :=
  match w with
  | .register gid _ _ => (P.group? gid).isSome && P.coreOf gid == core
  | .control gid w => (P.group? gid).isSome && P.coreOf gid == core && isControlWord w.toNat
  | .colander tk _ w => decide (w.toNat < 18) && (P.team? tk).any fun t => t.core == core
  | .uniform tk _ => (P.team? tk).any fun t => t.core == core
  | .request tk n => (P.team? tk).any fun t => t.core == core && decide (n.toNat < t.posted.length)
  | .combining op lane => match Table.get? P.run.ops op with
    | some (.load gid _ _ _ lanes) => P.coreOf gid == core && lanes.any fun l => l.lane == lane.toNat && !l.bytes.isEmpty
    | _ => false
  | _ => true

/-- The address that the record names. -/
def scrubAddress : CoreWord → Nat
  | .colander _ line _ => line.toNat * 128
  | _ => 0

/-- `BACKGROUND_SCRUB`: a word is corrected (class 1), or found uncorrectable and marked poisoned (class 2); a parity error of the
instruction cache is corrected by refetch. A word that goes bad behind the scrub is reported by nobody until it is read: an
uncorrectable word is consumed as a poisoned one is (R273). -/
def execBackgroundScrub (core : BitVec 7) (w : CoreWord) (r : ScrubResult) (s : State) : Host.Outcome State Fault Refusal :=
  .next (match s.partOfCore core.toNat with
    | none => s
    | some (p, P) =>
      if !P.onCore core.toNat w then s
      else match r, w with
        | .late, _ => s.setPart p (P.poisonWord core.toNat w)
        | .corrected, _ | .uncorrectable, .icache => s.orphan p 1 srcCore core.toNat (scrubAddress w)
        | .uncorrectable, _ => (s.setPart p (P.poisonWord core.toNat w)).orphan p 2 srcCore core.toNat (scrubAddress w))

/-- The source of an error of a memory line. -/
def patrolSource (pa : Nat) : Nat := if pa < 2 ^ 40 then srcHbm else srcSlice

/-- `PATROL_SCRUB`: a line of HBM or of the shelf is corrected, or marked poisoned at its slice; of one that goes bad behind the scrub
a reader is the first to hear. -/
def execPatrolScrub (line : BitVec 45) (r : ScrubResult) (s : State) : Host.Outcome State Fault Refusal :=
  .next (
    let pa := line.toNat * 128
    if !(s.backed 0 pa 128 || s.backed 1 pa 128) then s
    else
      let s := if r = .corrected then s
        else { s with memPoison := (List.range 16).foldl (fun l d => insertNum l (line.toNat * 16 + d)) s.memPoison }
      if r = .late then s else match s.partOfPa pa with
      | none => s
      | some (p, P) => s.orphan p (if r = .corrected then 1 else 2) (patrolSource pa)
        (P.sourceIndex (patrolSource pa) 0 pa) pa)

/-! ## In-field tests (R352) -/

/-- The core of a die that is next to be tested: cores that are excluded are passed over. -/
def Part.nextTest (P : Part) (die : Nat) : Option Nat :=
  ((List.range 16).map fun k => die * 16 + (Table.getD P.testNext die 0 + k) % 16).find? fun c =>
    (P.core? c).any fun k => !k.withdrawn

/-- `IN_FIELD_TEST`: at each interval the die withdraws its next core from placement. -/
def execInFieldTest (die : BitVec 3) (s : State) : Host.Outcome State Fault Refusal :=
  .next (match s.partOfDie die.toNat with
    | none => s
    | some (p, P) =>
      let busy := P.run.cores.any fun e => e.1 / 16 == die.toNat && e.2.testing
      match P.nextTest die.toNat with
      | none => s
      | some c =>
        if P.regs.inft = 0 ∨ busy then s
        else s.setPart p { P.modCore c fun k => { k with testing := true } with
          testNext := Table.set P.testNext die.toNat ((c + 1) % 16) })

/-- Another whisk core of the die that can host a core's home. -/
def Part.otherHome (P : Part) (core : Nat) : Option Nat :=
  P.regs.whiskCores.find? fun d => d / 16 == core / 16 && d != core && !(P.core? d).any fun k => k.withdrawn || k.testing

/-- The core is idle: it holds no team, and the home of a whisk core can be moved, its open batch closed. -/
def Part.idle (P : Part) (core : Nat) : Bool :=
  (P.coreTeams core).isEmpty && (match Table.get? P.run.homes core with
    | none => true
    | some h => h.batch.isNone && (P.otherHome core).isSome)

/-- `IN_FIELD_TEST_RUN`: the test of an idle core: one that fails is excluded from placement until the next partition reset, and
reported as class 15. The result is reported on vector 5 (R346). -/
def execInFieldTestRun (core : BitVec 7) (passed : Bool) (s : State) : Host.Outcome State Fault Refusal :=
  .next (match s.partOfCore core.toNat with
    | none => s
    | some (p, P) =>
      let c := core.toNat
      if !((P.core? c).any Core.testing && P.idle c) then s
      else
        let P := (P.modCore c fun k => { k with testing := false }).vector 5
        if passed then s.setPart p P else (s.setPart p (P.withdraw c)).orphan p 15 srcCore c 0)

/-- `IN_FIELD_TEST_OVERDUE`: a core that is not idle returns to placement, and is tested at the next interval. DESIGN CHOICE: the overdue
test is logged as a report to the supervisor, with no error-log record and no vector, of which R352 names no class or number
(notes/assumptions/117.md). -/
def execInFieldTestOverdue (core : BitVec 7) (s : State) : Host.Outcome State Fault Refusal :=
  .next (match s.partOfCore core.toNat with
    | none => s
    | some (p, P) =>
      let c := core.toNat
      if !(P.core? c).any Core.testing ∨ P.idle c then s
      else
        let P := P.modCore c fun k => { k with testing := false }
        s.setPart p ({ P with testNext := Table.set P.testNext (c / 16) (c % 16) }.report (.testOverdue c)))

/-! ## Energy (R353) -/

/-- `ENERGY_PERIOD`: a period begins, in which nothing is spent yet; deferred clusters may be placed again. -/
def execEnergyPeriod (p : PartNo) (s : State) : Host.Outcome State Fault Refusal :=
  .next (s.modPart p fun P => { P with deferred := false, spent := 0 })

/-! ## Invalidation (R344) -/

/-- First address and length of the range that INV names; its size code 3 means everything. -/
def Regs.invRange (r : Regs) : Nat × Nat :=
  let size := field r.inv 56 2
  if size = 3 then (0, 2 ^ 56)
  else
    let n := levelSize size
    (field r.inv 16 40 * 65536 / n * n, n)

/-- A translated access to the range is still to be served, and may have used the old translation; the bytes of a commit have been
placed in a colander. -/
def Part.oldAccess (P : Part) : Bool :=
  let (base, n) := P.regs.invRange
  let within (vline : Nat) : Bool := decide (base ≤ vline * 128) && decide (vline * 128 < base + n)
  (P.run.lines.any fun e => !e.2.teamFlag && within e.2.vline) ||
  (P.run.ops.any fun e => match e.2 with
    | .copyIn _ _ lines _ _ _ | .copyOut _ _ lines _ _ => lines.any fun l => l.pline.isSome && within (l.vline % 2 ^ 49)
    | .version _ va _ _ _ writes _ => within (va.toNat % 2 ^ 56 / 128) || writes.any fun w => within w.vline
    | _ => false) ||
  P.run.whisks.any fun e => e.2.op != 0 && within (e.2.obj.toNat % 2 ^ 56 / 128) && (match e.2.place with
    | .answered _ _ => false
    | _ => true)

/-- `INVALIDATION_DONE`: no cache of the partition holds the old translation any more, and no access that used it is still to be
served: INVST shows done. -/
def execInvalidationDone (p : PartNo) (s : State) : Host.Outcome State Fault Refusal :=
  .next (match s.part? p with
    | none => s
    | some P =>
      let (base, n) := P.regs.invRange
      let keep (c : Cached) : Bool := decide (c.vpage * 65536 + levelSize c.size ≤ base) || decide (base + n ≤ c.vpage * 65536)
      if P.regs.invDone ∨ P.oldAccess then s
      else s.setPart p { P with tlb := P.tlb.filter keep, regs := { P.regs with invDone := true } })

end Sys2Proof.Machine
end

