-- ==== Sys2Proof/Machine/Send.lean ====
section
/-!
DEFINITION. Sends and their counters, within a cluster (spec/14_cluster.md R288 to R297) and to another device (spec/22_fabric.md
R416 to R419).
-/
namespace Sys2Proof.Machine

/-! ## Issue (R289, R290, R418) -/

/-- The fields of a counter word. -/
def cwordCounter (w : DWord) : Nat := field w 0 20
def cwordRank (w : DWord) : Nat := field w 20 4

/-- Ranks of the team's cluster. -/
def Ctx.ranks (c : Ctx) : Nat := ((c.team?.bind c.P.launchOf).map fun l => l.kernel.width * l.kernel.height).getD 0

/-- The binding that a number names (R417). -/
def Part.binding (P : Part) (n : Nat) : DWord := Cells.get 0 P.regs.spw n
def bindingPort (b : DWord) : Nat := field b 59 4

/-- Orders 7a and 7b for the counter word. DESIGN CHOICE: of the checks of 7b the counter's address comes before the receiver's, and that
before the source of a `sendb`; TINFO[62:61] says 1 for counter and receiver, 0 for the source and for `cwait`, 1 for `cset`
(notes/assumptions/110.md). -/
def Ctx.cwordTrap (c : Ctx) (w : DWord) (remote : Bool) : Option Trap :=
  if field w 24 40 ≠ 0 then some ⟨2, w⟩
  else if remote && !(c.P.binding (cwordRank w)).getLsbD 63 then some ⟨2, w⟩
  else if !remote && decide (c.ranks ≤ cwordRank w) then some ⟨2, w⟩
  else if cwordCounter w % 8 ≠ 0 then some ⟨0x12, padInfo (cwordCounter w : Nat) 0 1⟩
  else none

/-- A send issues: SND rises. -/
def Ctx.startSend (c : Ctx) (l : La) (x : Op) : Res :=
  let (op, P) := c.P.fresh
  let c := c.setP (P.setOp op x)
  c.finish ((c.g.raise .snd op).open l true [] [] 0)

def execSendr (d a : VReg) (l : La) (t : SReg) (z : BitVec 3) (s : State) : Host.Outcome State Fault Refusal :=
  issue (.sendr d a l t z) s fun c => c.outside (.sendr d a l t z) fun c =>
    let w := c.g.sreg t
    let size := 2 ^ (2 + z.toNat)
    let addr (i : Nat) : Nat := (c.g.vreg a.toNat i).toNat % 2 ^ 20
    match firstTrap [c.cwordTrap w false,
        (c.g.actives.find? fun i => addr i % size != 0).map fun i => ⟨0x12, padInfo (addr i : Nat) i 1⟩] with
    | some e => .trap c.s e
    | none => c.room .snd fun c =>
      let piece (i : Nat) : Nat × List Byte :=
        (addr i, ((List.range (size / 4)).map fun j => leBytes 4 (c.g.vreg (d.toNat + j) i).toNat).flatten)
      c.startSend l (.send c.gid false false w (c.g.actives.map piece) 0 0 0 false none)

def execSendb (x y : SReg) (f : BitVec 2) (l : La) (s : State) : Host.Outcome State Fault Refusal :=
  issue (.sendb x y f l) s fun c => c.outside (.sendb x y f l) fun c =>
    let d := c.g.sreg x
    let w := c.g.sreg y
    let src := field d 0 20
    let dst := field d 20 20
    let n := field d 40 12 + 1
    let remote := f = 1
    if 2 ≤ f.toNat then .trap c.s (trapOf 2 f.toNat)
    else if field d 52 12 ≠ 0 then .trap c.s ⟨2, d⟩
    else match c.cwordTrap w remote with
      | some e => .trap c.s e
      | none =>
        if dst % 32 ≠ 0 then .trap c.s ⟨0x12, padInfo (dst : Nat) 0 1⟩
        else if src % 32 ≠ 0 then .trap c.s ⟨0x12, padInfo (src : Nat) 0 0⟩
        else match c.padError false 0 src (32 * n) 0 with
          | some e => .trap c.s e
          | none => c.room .snd fun c =>
            let c := if remote then c.reload (c.s.anchor c.p c.tk) else c
            let port := bindingPort (c.P.binding (cwordRank w))
            let dead := remote && (c.s.portDead port || !Config.portTrained c.s.tick port)
            c.startSend l (.send c.gid true remote w [] src dst n false (if dead then some (7, dst) else none))

/-! ## Counters (R288, R294, R295) -/

/-- The checks of `cwait` and `cset`. -/
def Ctx.counter (c : Ctx) (x y : SReg) (kind : Nat) (body : Nat → Nat → Res) : Res :=
  let n := c.g.sreg x
  let w := c.g.sreg y
  if n.getLsbD 63 then .trap c.s ⟨2, n⟩
  else if 2 ^ 20 ≤ w.toNat then .trap c.s ⟨2, w⟩
  else if w.toNat % 8 ≠ 0 then .trap c.s ⟨0x12, padInfo (w.toNat : Nat) 0 kind⟩
  else if !c.privateSlot (w.toNat / 4096) then .trap c.s ⟨0x13, padInfo (w.toNat : Nat) 0 kind⟩
  else body w.toNat n.toNat

def execCwait (x y : SReg) (s : State) : Host.Outcome State Fault Refusal :=
  issue (.cwait x y) s fun c => c.counter x y 0 fun a n =>
    if c.peekPoison a 8 then .gone (c.s.consumeBy c.p c.gid 3 srcCore 0)
    else
      let v := leNat (c.peek a 8)
      if 2 ^ 63 ≤ v then .trap c.s (trapOf 0x25 (a + 6 * 2 ^ 24))
      else if v < n then .wait c.s (.counter a n)
      else .done c.s

/-- `cset` (R295). DEDUCED: a granule that a transaction barrier guards is written like any other; R184 and R295 list no check
(notes/assumptions/107.md). -/
def execCset (x y : SReg) (s : State) : Host.Outcome State Fault Refusal :=
  issue (.cset x y) s fun c => c.counter x y 1 fun a n => .done (c.poke a (leBytes 8 n)).s

/-! ## Landing (R290 to R292, R418) -/

/-- The group that receives: any group of the team that holds the rank, or that another device names; none where that team has
retired. -/
def Part.receiver (P : Part) (gid : Nat) (remote : Bool) (w : DWord) : Option Nat :=
  let live (tk : Nat) : Bool := (P.team? tk).any fun t => t.ended.isNone
  if remote then (P.run.teams.find? fun e => e.2.tidx == field w 24 22 && e.2.ended.isNone).map Prod.fst
  else (P.team? (gidTeam gid)).bind fun t => (Table.get? P.run.clusters t.cluster).bind fun c =>
    (c.teams[cwordRank w]?).bind fun tk => if live tk then some tk else none

/-- Reasons 2 and 3 for a piece at the receiver (R291, R292). -/
def Ctx.landingFails (c : Ctx) (a n : Nat) : Option Nat :=
  if 2 ^ 20 < a + n then some 2
  else if (slotPieces a n).any fun q => match c.reach q.1 with
      | .own _ => false
      | _ => true then some 2
  else if (touched 16 a n).any ((((c.P.core? (c.P.coreOf c.gid)).map Core.guards).getD []).contains ·) then some 3
  else none

/-- The send is over: SND falls; a failure is held for the sender, with the address and the reason (R292). -/
def Part.endSend (P : Part) (gid op : Nat) (block : Bool) (w : DWord) (fail : Option (Nat × Nat)) : Part :=
  let P := match fail with
    | none => P
    | some (reason, a) =>
      let t := trapOf 0x25 (a % 2 ^ 20 + cwordRank w * 2 ^ 20 + reason % 16 * 2 ^ 24 + bit block * 2 ^ 28)
      P.modGroup gid fun g => { g with held := g.held ++ [(⟨.snd, t, op, false⟩ : HeldFault)] }
  (P.dropOp op).modGroup gid fun g => g.lower' .snd op

/-- An uncorrectable error that a send meets on a core is reported to the severity matrix (R292 reason 5), and is consumed by the
sending team (R271, R274), unless that is another device's. -/
def State.sendError (s : State) (p : PartNo) (core : Nat) (req : Word) (ctx : Option Nat) : State :=
  match ctx with
  | some tk => s.consume p tk 3 srcCore core 0 req
  | none => s.severity p 3 srcCore core 0 req none false false

/-- The count at the receiver, or FLT for a send that fails (R288, R290, R292): the state, the failure as it stands then, and
whether the counter's word holds an uncorrectable error. -/
def Ctx.countSend (r : Ctx) (a : Nat) (fail : Option (Nat × Nat)) : State × Option (Nat × Nat) × Bool :=
  if !r.privateSlot (a / 4096) then (r.s, some (fail.getD (4, a)), false)
  else if r.peekPoison a 8 then (r.s, some (fail.getD (5, a)), true)
  else
    let v := leNat (r.peek a 8)
    let v' := if fail.isSome then v % 2 ^ 63 + 2 ^ 63 else v / 2 ^ 63 * 2 ^ 63 + (v + 1) % 2 ^ 63
    ((r.poke a (leBytes 8 v')).s, fail, false)

/-- End a send of this partition whose receiver is in the partition. -/
def State.finishSend (s : State) (p : PartNo) (gid op : Nat) (block : Bool) (w : DWord) (fail : Option (Nat × Nat)) : State :=
  s.modPart p fun P => P.endSend gid op block w fail

/-- Every earlier send of the group to the receiver has been counted or has failed (R291, R419). -/
def Part.sendFirst (P : Part) (gid op : Nat) (remote : Bool) (w : DWord) : Bool :=
  !(P.run.ops.any fun e => decide (e.1 < op) && (match e.2 with
    | .send g _ r v _ _ _ _ _ _ => g == gid && r == remote && cwordRank v == cwordRank w
    | _ => false))

/-- The next piece of a send: its address, its bytes, whether they hold an uncorrectable error, and what is left after it. -/
def Ctx.nextPiece (c : Ctx) (x : Op) : Option (Nat × List Byte × Bool × Op) :=
  match x with
  | .send gid block remote w ((a, bs) :: rest) src dst left landed fail =>
    some (a, bs, false, .send gid block remote w rest src dst left landed fail)
  | .send gid block remote w [] src dst (left + 1) landed fail =>
    some (dst, c.peek src 32, c.peekPoison src 32, .send gid block remote w [] (src + 32) (dst + 32) left landed fail)
  | _ => none

/-- The sender meets an uncorrectable error on a core. -/
def Ctx.sendError (c : Ctx) (core : Nat) (s : State) : State := s.sendError c.p core (c.P.requester c.gid 0) (some c.tk)

/-- A send to another device moves its next sector out of the scratchpad; the addresses of those that have left are kept. -/
def Ctx.moveOut (c : Ctx) (op : Nat) (x : Op) : State :=
  match x with
  | .send gid block remote w out src dst (left + 1) _ fail =>
    if c.peekPoison src 32 then
      c.sendError (c.P.coreOf c.gid) (c.s.setPart c.p (c.P.setOp op (.send gid block remote w out src dst left true (some (5, dst)))))
    else c.s.setPart c.p (c.P.setOp op (.send gid block remote w (out ++ [(dst, [])]) (src + 32) (dst + 32) left false fail))
  | .send gid block remote w out src dst 0 _ fail => c.s.setPart c.p (c.P.setOp op (.send gid block remote w out src dst 0 true fail))
  | _ => c.s

/-- A send is over at its receiver `r`: it is counted, or has failed, by an error on the core `bad` if there is one; `c` is the
sender. -/
def Ctx.landed (c : Ctx) (r : Ctx) (op : Nat) (block : Bool) (w : DWord) (fail : Option (Nat × Nat)) (bad : Option Nat) : State :=
  let (s, fail, poisoned) := r.countSend (cwordCounter w) fail
  let s := s.finishSend c.p c.gid op block w fail
  match bad with
  | some core => c.sendError core s
  | none => if poisoned then c.sendError (r.P.coreOf r.gid) s else s

/-- A piece of a send lands at its receiver, or, after the last one, the count is made (R291). DESIGN CHOICE: what is checked and lands at
once is a 32-byte sector of a `sendb`, and one lane's bytes of a `sendr`; for the reasons 2, 3 and 5 TINFO[19:0] names the first byte of
the piece or sector that fails (notes/assumptions/110.md). -/
def Ctx.land (c : Ctx) (r : Ctx) (op : Nat) (x : Op) (block : Bool) (w : DWord) : State :=
  match c.nextPiece x with
  | none => c.landed r op block w none none
  | some (a, bs, bad, x') =>
    if bad then c.landed r op block w (some (5, a)) (some (c.P.coreOf c.gid))
    else if r.tagPoison a bs.length then c.landed r op block w (some (5, a)) (some (r.P.coreOf r.gid))
    else match r.landingFails a bs.length with
      | some reason => c.landed r op block w (some (reason, a)) none
      | none => (r.poke a bs).s.modPart c.p fun P => P.setOp op x'

/-! ## Sends of other devices (R397, R418, R419) -/

/-- A number for the sending group and the port, in whose order its sends land (R419). -/
def Inbound.flow (x : Inbound) : Nat :=
  ((x.group.toNat * 2 ^ 16 + x.device.toNat) * 8 + x.sender.toNat) * 16 + x.port.toNat

/-- The sectors of a block, of 32 bytes each, 1 to 4,096 of them (R289). -/
def Inbound.blocks (x : Inbound) : List (List Byte) :=
  (if x.sectors.isEmpty then [[]] else x.sectors.take 4096).map fun b => (List.range 32).map fun j => b.getD j 0

/-- A partition takes a send in: it lands from now on. Its counter's address is a multiple of 8 and its block's of 32 (R289). -/
def Part.admitInbound (P : Part) (x : Inbound) : Part :=
  let w := BitVec.ofNat 64 (x.counter % 2 ^ 20 / 8 * 8 + x.team % 2 ^ 22 * 2 ^ 24)
  let pieces := (List.range x.blocks.length).zip x.blocks |>.map fun e => (x.addr % 2 ^ 20 / 32 * 32 + 32 * e.1, e.2)
  let (op, P) := P.fresh
  P.setOp op (.send 0 true true w pieces x.flow 0 0 false (if x.fails then some (5, 0) else none))

/-- The partition runs: it is not frozen, and no freeze is under way. -/
def Part.running (P : Part) : Bool := !P.frozen && !P.freezing

/-- A send of another device comes in (R418): a partition whose binding accepts it takes it, or holds it at its port while it does
not run, or while others are held there (R397). -/
def State.takeInbound (s : State) (x : Inbound) : State :=
  match s.part? x.part with
  | none => s
  | some P =>
    let accepts := (List.range 16).any fun k =>
      let b := P.binding k
      b.getLsbD 63 && bindingPort b == x.port.toNat && field b 43 16 == x.device.toNat && field b 40 3 == x.sender.toNat
    if !accepts || s.portDead x.port.toNat then s
    else if P.running && P.inbox.isEmpty then s.setPart x.part (P.admitInbound x)
    else s.setPart x.part { P with inbox := P.inbox ++ [x] }

/-- The oldest send that is held at a port of a partition comes in, once it runs; else one comes from outside. -/
def State.nextInbound (s : State) (p : PartNo) : State :=
  let outside := match Config.inbound s.tick with
    | some x => s.takeInbound x
    | none => s
  match s.part? p with
  | none => outside
  | some P => match P.inbox with
    | [] => outside
    | x :: rest => if P.running then s.setPart p ({ P with inbox := rest }.admitInbound x) else outside

/-- Every earlier send of the same sender to the team has been counted or has failed (R419). -/
def Part.inboundFirst (P : Part) (op : Nat) (w : DWord) (flow : Nat) : Bool :=
  !(P.run.ops.any fun e => decide (e.1 < op) && (match e.2 with
    | .send g _ r v _ f _ _ _ _ => isWhisk g && r && f == flow && field v 24 22 == field w 24 22
    | _ => false))

/-- A piece of an incoming send lands, or it is counted; its receiver is the live team that it names. -/
def State.landInbound (s : State) (p : PartNo) (P : Part) (op : Nat) (w : DWord) (pieces : List (Nat × List Byte)) (flow : Nat)
    (fail : Option (Nat × Nat)) : State :=
  let finish (s : State) : State := s.modPart p fun P => P.dropOp op
  let count (r : Ctx) (fail : Option (Nat × Nat)) : State :=
    let (s, _, poisoned) := r.countSend (cwordCounter w) fail
    let s := finish s
    if poisoned then s.sendError p (r.P.coreOf r.gid) 0xFFFFFFFF none else s
  match (P.receiver 0 true w).bind fun tk => s.ctx? p (tk * 32) with
  | none => finish s
  | some r => match pieces with
    | [] => count r fail
    | (a, bs) :: rest => match r.landingFails a bs.length with
      | some reason => count r (some (reason, a))
      | none => (r.poke a bs).s.modPart p fun P => P.setOp op (.send 0 true true w rest flow 0 0 false fail)

/-- `SEND_LANDING`: the next piece of a send lands, or its count is made, or it fails; with number 0, a send of another device
comes in. -/
def execSendLanding (p : PartNo) (op : Nat) (s : State) : Host.Outcome State Fault Refusal :=
  .next (match (s.part? p).bind fun P => (Table.get? P.run.ops op).map fun x => (P, x) with
    | some (P, .send gid block remote w pieces src dst left landed fail) =>
      let x : Op := .send gid block remote w pieces src dst left landed fail
      if remote && isWhisk gid then (if P.inboundFirst op w src then s.landInbound p P op w pieces src fail else s)
      else match s.ctx? p gid with
        | none => s
        | some c =>
          if !P.sendFirst gid op remote w then s
          else if remote then (if landed || fail.isSome then s else c.moveOut op x)
          else match (P.receiver gid false w).bind fun tk => s.ctx? p (tk * 32) with
            | none => s.finishSend p gid op block w (some (1, ((c.nextPiece x).map Prod.fst).getD (cwordCounter w)))
            | some r => c.land r op x block w
    | _ => if op = 0 then s.nextInbound p else s)

/-- Reasons that another device may give (R292, R418). -/
def remoteReasons : List Nat := [1, 2, 3, 4, 5, 7, 8]

/-- The failure that another device, or the way to it, reports: a reason, and the receiver address that failed, which is the counter's
for reason 4, and for the others that of one of the sectors, or, where no sector need be at fault, the counter's (R292, R418). -/
def remoteFault (w : DWord) (sectors : List Nat) (x : Nat × Nat) : Nat × Nat :=
  let reason := remoteReasons.getD (x.1 % 7) 1
  let places := if reason = 4 then [cwordCounter w]
    else if reason = 1 ∨ reason = 7 then sectors ++ [cwordCounter w] else sectors
  (reason, places.getD (x.2 % max 1 places.length) (cwordCounter w))

/-- `SEND_ACKNOWLEDGEMENT`: the other device has counted the send, or the send has failed, and SND falls. -/
def execSendAcknowledgement (p : PartNo) (op : Nat) (s : State) : Host.Outcome State Fault Refusal :=
  .next (match (s.part? p).bind fun P => (Table.get? P.run.ops op).map fun x => (P, x) with
    | some (P, .send gid block true w sectors _ _ _ landed fail) =>
      if isWhisk gid || !P.sendFirst gid op true w || !(landed || fail.isSome) then s
      else s.finishSend p gid op block w (match fail with
        | some e => some e
        | none => (Config.remoteFailure s.tick op).map (remoteFault w (sectors.map Prod.fst)))
    | _ => s)

end Sys2Proof.Machine
end

