-- ==== Sys2Proof/Machine/Fabric.lean ====
section
/-!
DEFINITION. The fabric: links, rerouting, ports, the host port and partition time (spec/22_fabric.md R409 to R422), and the clock of
the dies (spec/23 R437).
-/
namespace Sys2Proof.Machine

/-! ## Links (R409, R412, R415) -/

/-- Set a link's state; a link at its power-on state is not listed. -/
def State.setLink (s : State) (x : LinkState) : State :=
  let rest := s.links.filter fun y => y.link != x.link
  { s with links := if x.dead || x.width != 0 || x.failed != 0 then rest ++ [x] else rest }
/-- Partitions whose traffic a link carries: those of its die, of its port's grant, or, for a CXL port, all (R350). -/
def State.linkParts (s : State) (l : Link) : List PartNo :=
  let all := s.parts.map fun e => (BitVec.ofNat 3 e.1 : PartNo)
  let die (d : Nat) : List PartNo := ((s.partOfDie d).map Prod.fst).toList
  match l with
  | .core c => die (c.toNat / 16)
  | .slice c => die (c.toNat / 32)
  | .leafSpine d _ _ | .spineTop d _ _ => die d.toNat
  | .sprinwald port => ((Table.get? s.portGrant port.toNat).map fun p => (BitVec.ofNat 3 p : PartNo)).toList
  | .cxl _ => all

/-- Report an error of a link to every partition that it serves. -/
def State.linkError (s : State) (l : Link) (cls src index : Nat) : State :=
  (s.linkParts l).foldl (fun s p => s.orphan p cls src index 0) s

/-- `FLIT_CRC_ERROR`: a flit that fails its CRC is sent again from the replay buffer, in order, and reported. -/
def execFlitCrcError (link : Link) (s : State) : Host.Outcome State Fault Refusal :=
  .next (if s.linkDead link then s else s.linkError link 8 srcLink (Config.linkNumber link))

/-- A switch: its stage, die and number, with its links (R409). -/
def switchesOf (l : Link) : List (Nat × Nat × Nat) :=
  match l with
  | .core c => [(1, c.toNat / 16, c.toNat % 16 / 2)]
  | .slice c => [(1, c.toNat / 32, c.toNat % 32 / 4)]
  | .leafSpine d k j => [(1, d.toNat, k.toNat), (2, d.toNat, j.toNat)]
  | .spineTop d j t => [(2, d.toNat, j.toNat), (3, 0, t.toNat)]
  | .sprinwald _ | .cxl _ => []
def switchLinks (stage die k : Nat) : List Link :=
  match stage with
  | 1 => [.core (BitVec.ofNat 7 (die * 16 + 2 * k)), .core (BitVec.ofNat 7 (die * 16 + 2 * k + 1))] ++
      ((List.range 4).map fun j => .slice (BitVec.ofNat 8 (die * 32 + 4 * k + j))) ++
      (List.range 4).map fun j => .leafSpine (BitVec.ofNat 3 die) (BitVec.ofNat 3 k) (BitVec.ofNat 2 j)
  | 2 => ((List.range 8).map fun j => .leafSpine (BitVec.ofNat 3 die) (BitVec.ofNat 3 j) (BitVec.ofNat 2 k)) ++
      (List.range 16).map fun t => .spineTop (BitVec.ofNat 3 die) (BitVec.ofNat 2 k) (BitVec.ofNat 4 t)
  | _ => ((List.range 8).map fun d => (List.range 4).map fun j =>
      .spineTop (BitVec.ofNat 3 d) (BitVec.ofNat 2 j) (BitVec.ofNat 4 k)).flatten

/-- The CXL port goes down (R414, R421). -/
def State.cxlGoesDown (s : State) (port : Nat) : State := { s with cxlDown := insertNum s.cxlDown port }

/-- Packets of a partition that are on their way: what is younger than a pause that stands waits at its source, and a request that is held
at a gate or at its core's is not among them (R413). -/
def Part.inFlight (P : Part) (paused : Bool) : List LostPacket :=
  let sent (id : Nat) : Bool := !paused || decide (id < P.mark)
  (P.run.lines.filter fun e => sent e.1 && P.lineOpen e.2).map (fun e => LostPacket.line e.1) ++
  P.run.answers.map (fun (e : Nat × Nat) => LostPacket.data e.1 (BitVec.ofNat 52 (e.2 * 128))) ++
  (P.run.whisks.filter fun e => sent e.1 && (match e.2.place with
    | .travelling | .answered _ _ => true
    | _ => false)).map (fun e => LostPacket.whisk e.1) ++
  (P.run.ops.filter fun e => sent e.1 && (match e.2 with
    | .send _ _ _ _ _ _ _ _ _ _ => true
    | _ => false)).map (fun e => LostPacket.send e.1) ++
  (P.run.ops.map fun e => match e.2 with
    | .probe _ _ cores => if sent e.1 then cores.map fun k => LostPacket.probe e.1 (BitVec.ofNat 7 k) else []
    | _ => []).flatten

/-- A partition whose packets a dead link may have carried, and, where none stands yet, the pause of injection that begins. -/
def Part.meetsPause (P : Part) (paused carried : Bool) : Part :=
  { P with
    atRisk := if carried then dedup (P.atRisk ++ P.inFlight paused) else P.atRisk
    mark := if paused then P.mark else P.nextId }

def State.pauseParts (s : State) (link : Link) : State :=
  { s with parts := s.parts.map fun (e : Nat × Part) =>
      (e.1, e.2.meetsPause s.paused ((s.linkParts link).contains (BitVec.ofNat 3 e.1))) }

/-- A link is dead, and so is a switch that has lost all its links; injection pauses, and packets that were on their way can be lost (R412,
R413). -/
def State.killLink (s : State) (link : Link) : State :=
  if s.linkDead link then s
  else
    let s := (s.pauseParts link).setLink { s.linkState link with dead := true }
    let s := s.linkError link 9 srcLink (Config.linkNumber link)
    let s := (switchesOf link).foldl (fun s x =>
      if (switchLinks x.1 x.2.1 x.2.2).all s.linkDead then
        s.linkError link 9 srcSwitch (Config.switchNumber x.1 x.2.1 x.2.2)
      else s) s
    let s := match link with
      | .cxl port => s.cxlGoesDown port.toNat
      | _ => s
    { s with paused := true }

/-- `LINK_DEAD`. -/
def execLinkDead (link : Link) (s : State) : Host.Outcome State Fault Refusal := .next (s.killLink link)

/-! ## Rerouting (R413, R414) -/

/-- A route remains to a core, and to a slice. -/
def State.coreReached (s : State) (c : Nat) : Bool := !s.linkDead (.core (BitVec.ofNat 7 c)) && s.leafUp (c / 16) (c % 16 / 2)
def State.sliceReached (s : State) (k : Nat) : Bool :=
  !s.linkDead (.slice (BitVec.ofNat 8 k)) && s.leafUp (k / 32) (k % 32 / 4)

/-- The home of a core without a route moves. DESIGN CHOICE: its whisk group is handled as its teams are, so an open batch fails first, as
in a home that has consumed an uncorrectable error (R316; notes/assumptions/120.md). -/
def State.loseHome (s : State) (p : PartNo) (P : Part) (c : Nat) : State :=
  if (Table.get? P.run.homes c).any fun h => h.batch.isSome || h.phase == .user then s.consumeBy p c 3 srcCore 0 else s

/-- A core without a route: it is withdrawn, and its teams are handled as though they had consumed an uncorrectable error. -/
def State.loseCore (s : State) (p : PartNo) (c : Nat) : State :=
  match s.part? p with
  | none => s
  | some P =>
    if (P.core? c).any Core.withdrawn then s
    else
      let s := (s.loseHome p P c).modPart p fun P => P.withdraw c
      (P.run.teams.filter fun e => e.2.core == c).foldl (fun s e => s.consume p e.1 3 srcCore c 0 (P.requester (e.1 * 32) 0)) s

/-- What becomes of a partition whose endpoints have lost their routes: without a slice it is reset, whatever SEV9 holds. -/
def State.loseRoutes (s : State) (p : PartNo) (P : Part) : State :=
  let slices := (List.range (32 * P.dies)).map fun k => P.regs.firstDie * 32 + k
  match slices.find? fun k => !s.sliceReached k with
  | some k => s.setPart p ((P.log (logRecord s.now 0 0xFFFFFFFF 9 srcSlice k 4)).reset)
  | none => (P.regs.cores.filter fun c => !s.coreReached c).foldl (fun s c => s.loseCore p c) s

/-- The CXL ports of the hub dies to which no route remains go down (R414, R421). -/
def State.loseHubs (s : State) : State :=
  (List.range 4).foldl (fun s h => if s.hubReached h then s else (s.cxlGoesDown (2 * h)).cxlGoesDown (2 * h + 1)) s

/-- `INJECTION_RESUME`: the new routes are in the switches. -/
def execInjectionResume (s : State) : Host.Outcome State Fault Refusal :=
  .next (
    if !s.paused then s
    else s.parts.foldl (fun s e => match s.part? (BitVec.ofNat 3 e.1) with
      | some P => s.loseRoutes (BitVec.ofNat 3 e.1) P
      | none => s) { s with paused := false }.loseHubs)

/-- A packet by the line that it carries, whatever byte of it is named. -/
def wholePacket : LostPacket → LostPacket
  | .data op pa => .data op (BitVec.ofNat 52 (pa.toNat / 128 * 128))
  | x => x
/-- A packet can have been lost: it was on its way when a link died, and its loss has not been found yet. -/
def Part.mayLose (P : Part) (pkt : LostPacket) : Bool := P.atRisk.contains (wholePacket pkt)

/-- The team of the context that a packet served. -/
def Part.context (P : Part) (tk : Nat) : Option Nat := if (P.team? tk).isSome then some tk else none

/-- A packet that is not sent again is served no more. -/
def Part.erasePacket (P : Part) (pkt : LostPacket) : Part :=
  P.modRun fun r => match pkt with
    | .line id => { r with lines := Table.erase r.lines id }
    | .whisk id => { r with whisks := Table.erase r.whisks id }
    | _ => r

/-- Report a lost packet. The matrix's action 3 ends its context, and neither it nor another lost one of that context is sent again; else
the source sends it again. What else a packet carries has gone with the context (`Part.cancel`). -/
def State.losePacket (s : State) (p : PartNo) (P : Part) (pkt : LostPacket) (src index tk : Nat) (req : Word) : State :=
  let ends := s.action P 14 src == 3 && ((P.context tk).isSome || P.lostTeams.contains tk)
  let s := s.severity p 14 src index 0 req (P.context tk) false true
  if ends then s.modPart p fun P => { P.erasePacket pkt with lostTeams := insertNum P.lostTeams tk } else s

/-- The core that has sent a packet of a send that stays in the package: the receiver's, where it is the acknowledgement, else the
sender's. -/
def Part.sendSource (P : Part) (gid : Nat) (remote : Bool) (w : DWord) (landed : Bool) : Nat :=
  if landed && !remote then ((P.receiver gid false w).map fun tk => P.coreOf (tk * 32)).getD (P.coreOf gid) else P.coreOf gid

/-- The core that has sent a combiner packet: the requester's, or, for an answer, the home's. -/
def WhiskReq.source (w : WhiskReq) (P : Part) : Nat := match w.place with
  | .answered _ _ => (P.homeOf w.pa).getD w.core
  | _ => w.core

/-- `LOST_PACKET`: once injection has resumed, a source finds that a packet that was on its way when a link died has not been acknowledged,
once for each packet. One that serves no context is sent again. A request that is sent again keeps its number, so that the later ones of
its flow wait behind it. -/
def execLostPacket (p : PartNo) (pkt : LostPacket) (s : State) : Host.Outcome State Fault Refusal :=
  .next (match s.part? p with
    | none => s
    | some P =>
      if s.paused ∨ !P.mayLose pkt then s
      else
        let P := { P with atRisk := P.atRisk.filter fun x => x != wholePacket pkt }
        let s := s.setPart p P
        match pkt with
        | .line id => match Table.get? P.run.lines id with
          | some r => s.losePacket p P pkt srcCore r.core r.team r.requester
          | none => s
        | .data op pa => match Table.get? P.run.ops op with
          | some o => s.losePacket p P pkt srcSlice (P.homeSlice pa.toNat) (gidTeam o.gid) (P.requester o.gid 0)
          | none => s
        | .whisk id => match Table.get? P.run.whisks id with
          | some w => s.losePacket p P pkt srcCore (w.source P) w.team w.requester
          | none => s
        | .send op => match Table.get? P.run.ops op with
          | some (.send gid _ remote w _ _ _ _ landed _) =>
            s.losePacket p P pkt srcCore (P.sendSource gid remote w landed) (gidTeam gid) (P.requester gid 0)
          | _ => s
        | .probe op core => match Table.get? P.run.ops op with
          | some (.probe gid _ cores) =>
            if cores.contains core.toNat then s.losePacket p P pkt srcCore (P.coreOf gid) (gidTeam gid) (P.requester gid 0) else s
          | _ => s
        | .writeBack _ | .pageUpdate => s)

/-! ## Width (R415) -/

/-- A handshake: it succeeds with a new width, or leaves the link at full width; the 16th in a row to fail at full width is a dead
link's (R412). -/
def State.handshake (s : State) (link : Link) (ok : Bool) (width : Nat) : State :=
  let x := s.linkState link
  if x.dead then s
  else if ok then s.setLink { x with width := width, failed := 0 }
  else if x.width ≠ 0 then s.setLink { x with width := 0 }
  else if 15 ≤ x.failed then s.killLink link
  else s.setLink { x with failed := x.failed + 1 }

/-- `LINK_NARROW`: one step down. -/
def execLinkNarrow (link : Link) (handshake : Bool) (s : State) : Host.Outcome State Fault Refusal :=
  .next (s.handshake link handshake (min 2 ((s.linkState link).width + 1)))

/-- `LINK_WIDEN`: one step up. -/
def execLinkWiden (link : Link) (handshake : Bool) (s : State) : Host.Outcome State Fault Refusal :=
  .next (s.handshake link handshake ((s.linkState link).width - 1))

/-- `CXL_PORT_DOWN` (R421): from now on every access to the port's window is answered as poisoned. -/
def execCxlPortDown (port : BitVec 3) (s : State) : Host.Outcome State Fault Refusal := .next (s.cxlGoesDown port.toNat)

/-! ## The host port (R336, R420) -/

/-- Memory of the device, or of the host itself, that a host access can reach. -/
def State.hostReach (s : State) (pa n : Nat) : Bool :=
  s.backed 0 pa n || s.backed 1 pa n || s.backed 2 pa n ||
    (decide (2 ^ 51 ≤ pa) && decide (pa + n ≤ 2 ^ 52) && (touched 65536 pa n).all Config.hostFrame)

/-- The bytes of a write by the line they fall on. -/
def bytesByLine (pa : Nat) (bs : List Byte) : List (Nat × List Byte) :=
  (touched 128 pa bs.length).map fun l =>
    let lo := max pa (l * 128)
    (lo, (bs.drop (lo - pa)).take (l * 128 + 128 - lo))

/-- `HOST_WRITE`: each line is written whole at its home slice (R321, R336). -/
def execHostWrite (pa : BitVec 52) (bs : List Byte) (s : State) : Host.Outcome State Fault Refusal :=
  .next (
    if !s.hostReach pa.toNat bs.length ∨ s.rangeHeld pa.toNat bs.length then s
    else (bytesByLine pa.toNat bs).foldl (fun s e => match s.partOfPa e.1 with
      | some (p, _) => s.writeAt p e.1 e.2
      | none => if s.portDown e.1 then s else s.storeLine (e.1 / 128) (lineBytes (e.1 % 128) e.2) []) s)

/-- `HOST_READ`: memory as it stands, without the bytes of any colander (R188, R420); a poisoned line is answered as poisoned. -/
def execHostRead (pa : BitVec 52) (count : BitVec 8) (s : State) : Host.Outcome State Fault Refusal :=
  let n := count.toNat
  .next (
    if !s.hostReach pa.toNat n ∨ s.rangeHeld pa.toNat n then s
    else { s with hostData := (s.bytes pa.toNat n, (touched 8 pa.toNat n).any fun d => s.poisoned (d * 8)) })

/-- `ROOT_COMPLEX_ACKNOWLEDGEMENT`: a write of a line of tier 3 has reached the host; a release that waits for it looks again. -/
def execRootComplexAcknowledgement (p : PartNo) (line : BitVec 45) (s : State) : Host.Outcome State Fault Refusal :=
  .next (s.modPart p fun P =>
    if !P.unacked.contains line.toNat then P
    else
      let left : Part := { P with unacked := P.unacked.erase line.toNat }
      left.modRun fun r => { r with teams := r.teams.map fun e => (e.1, Team.wake e.2) })

/-! ## Partition time (R422) -/

/-- `IEEE_1588_MESSAGE`: within 10 µs of the grandmaster, partition time follows it; beyond, or without a message, the package
counts on its own oscillator. An offset beyond is owed a notice to every partition. -/
def execIeee1588Message (msg : PtpMessage) (s : State) : Host.Outcome State Fault Refusal :=
  .next (match msg with
    | .sync time offset =>
      if offset ≤ 10000 then { s with time := time, ownClock := false }
      else { s with ownClock := true, notices := s.parts.map Prod.fst }
    | .absent => { s with ownClock := true })

/-- `TIME_OFFSET_NOTICE`: the firmware raises the notice of an offset beyond 10 µs on vector 3. -/
def execTimeOffsetNotice (p : PartNo) (s : State) : Host.Outcome State Fault Refusal :=
  .next (if !s.notices.contains p.toNat then s
    else ({ s with notices := s.notices.filter fun k => k != p.toNat } : State).modPart p fun P => P.vector 3)

/-! ## The clock of the dies (R437) -/

/-- Clock of a die in MHz. -/
def State.clockOf (s : State) (die : Nat) : Nat := Table.getD s.clock die 1100
def State.setClock (s : State) (die mhz : Nat) : State :=
  { s with clock := if mhz = 1100 then Table.erase s.clock die else Table.set s.clock die mhz }

/-- `CLOCK_THROTTLE`: one step of 50 MHz down, not below 550; reaching 550 is reported as class 13. -/
def execClockThrottle (die : BitVec 3) (cause : ThrottleCause) (s : State) : Host.Outcome State Fault Refusal :=
  .next (
    let old := s.clockOf die.toNat
    let new := max 550 (old - 50)
    let s := { s.setClock die.toNat new with throttle := Table.set s.throttle die.toNat cause }
    if new = 550 ∧ old ≠ 550 then match s.partOfDie die.toNat with
      | some (p, _) => s.orphan p 13 srcCore (die.toNat * 16) 0
      | none => s
    else s)

/-- `CLOCK_RAISE`: one step up; a die at full clock has no throttle reason left. -/
def execClockRaise (die : BitVec 3) (s : State) : Host.Outcome State Fault Refusal :=
  .next (
    let s := s.setClock die.toNat (min 1100 (s.clockOf die.toNat + 50))
    if s.clockOf die.toNat = 1100 then { s with throttle := Table.erase s.throttle die.toNat } else s)

/-- `THERMAL_STOP`: the die stops, and the partition that holds it is reset with action 4, whatever SEV13 holds. -/
def execThermalStop (die : BitVec 3) (s : State) : Host.Outcome State Fault Refusal :=
  .next (
    let s := { s with stopped := insertNum s.stopped die.toNat }
    match s.partOfDie die.toNat with
    | some (p, P) => s.setPart p ((P.log (logRecord s.now 0 0xFFFFFFFF 13 srcCore (die.toNat * 16) 4)).reset)
    | none => s)

end Sys2Proof.Machine
end

