-- ==== Sys2Proof/Machine/Fetch.lean ====
section
/-!
DEFINITION. The fetch of an instruction (spec/02_words_and_syntax.md R40, R41; spec/23_firmware_boot_power.md R434), and
`ILLEGAL_INSTRUCTION` (R42).
-/
namespace Sys2Proof.Machine

/-- The fetch of the word at PC: the word with the context it issues in, or what keeps it from issuing. -/
def Ctx.fetch (c : Ctx) : Except Res (Ctx × Word) :=
  let va := c.g.pc
  let pa := (c.look .fetch (va.toNat % 2 ^ 56)).pa.1
  match c.translate .fetch [(0, va)] [] fun c _ => .done c.s with
  | .done s =>
    if !s.execFrames.contains (pa / 65536) then .error (.trap s ⟨0x11, accessInfo va.toNat 0 0⟩)
    else if s.poisoned pa then .error (.gone (s.consumeBy c.p c.gid 3 (srcOfPa pa) pa))
    else .ok (c.reload s, BitVec.ofNat 32 (s.num pa 4))
  | r => .error r

/-- A reserved major opcode, or the word of all ones (R42 order 1, R43). -/
def execIllegalInstruction (w : Word) (s : State) : Host.Outcome State Fault Refusal :=
  issue (.illegalInstruction w) s fun c => .trap c.s (trapOf 1 w.toNat)

end Sys2Proof.Machine
end

