-- ==== Sys2Proof/Machine/Registers.lean ====
section
/-!
DEFINITION. The supervisor registers of a partition (spec/17_package_memory.md R337, R343 to R345, R350; spec/16 R332; spec/22 R417,
R422, R423; spec/23 R424, R431).
-/
namespace Sys2Proof.Machine

/-! ## Values -/

/-- No bit outside the fields, each a lowest bit and a length, is set. -/
def within (v : DWord) (fields : List (Nat × Nat)) : Bool :=
  fields.foldl (fun n f => n + field v f.1 f.2 * 2 ^ f.1) 0 == v.toNat

/-- A field lies in a range. -/
def inRange (v : DWord) (lo len least most : Nat) : Bool :=
  decide (least ≤ field v lo len) && decide (field v lo len ≤ most)

/-- Write a register: a value that is not taken is ignored and reported (R345). -/
def State.regWrite (s : State) (p : PartNo) (off : Nat) (ok : Part → Bool) (f : Part → Part) : State :=
  s.modPart p fun P => if ok P then f P else P.failedWrite off

def Part.setRegs (P : Part) (f : Regs → Regs) : Part := { P with regs := f P.regs }

/-- The partition owns every byte of a range (R338). -/
def State.owned (s : State) (P : Part) (pa n : Nat) : Bool :=
  decide (pa + n ≤ 2 ^ 52) && (touched (2 ^ 26) pa n).all fun g => Cells.get 0 s.granules g == P.regs.pkey
/-- A range of memory of the host, or of the partition. -/
def State.hostOrOwned (s : State) (P : Part) (pa n : Nat) : Bool :=
  (decide (2 ^ 51 ≤ pa) && decide (pa + n ≤ 2 ^ 52)) || s.owned P pa n

/-! ## SHELFC and WHISK (R337, R345) -/

/-- First byte behind every crock backing that is allocated. -/
def Part.backingEnd (P : Part) : Nat :=
  P.run.dir.foldl (fun m e => max m ((e.2.backing + e.2.count.toNat + 1) * 4096)) 0

/-- A cache share leaves the direct range long enough. -/
def Part.shareFits (P : Part) (c : Nat) : Bool :=
  decide (c ≤ 62) && c % 2 == 0 && decide (768 ≤ 32 * P.dies * (62 - c)) &&
    decide (P.backingEnd ≤ P.regs.shelfb.toNat + 32 * P.dies * (62 - c) * 2 ^ 20)

def State.writeShelfc (s : State) (p : PartNo) (v : DWord) : State :=
  s.regWrite p 0x018 (fun P => within v [(0, 6)] && !P.anyLive && P.shareFits (field v 0 6))
    fun P => P.setRegs fun r => { r with shelfc := BitVec.ofNat 6 (field v 0 6) }

def execShelfcWrite (p : PartNo) (v : DWord) (s : State) : Host.Outcome State Fault Refusal := .next (s.writeShelfc p v)

/-- Crocks that lie in slots which a whisk group takes. -/
def Part.displaced (P : Part) (cores : List Nat) : List Nat :=
  (P.run.dir.filter fun e => cores.contains e.2.core.toNat && e.2.slots.any fun n => decide (whiskSlot ≤ n)).map Prod.fst

/-- The homes of the whisk cores: those that were there, and new ones. -/
def Part.rehome (P : Part) : Part :=
  P.modRun fun r => { r with homes := P.regs.whiskCores.map fun c => (c, (Table.get? r.homes c).getD Home.initial) }

/-- WHISK: a crock that lies in the slots of a new whisk group is evicted first (R300). -/
def State.writeWhisk (s : State) (p : PartNo) (v : DWord) : State :=
  match s.part? p with
  | none => s
  | some P =>
    if within v [(0, 16)] && v != 0 && !P.anyLive && P.homesEmpty then
      let P' := P.setRegs fun r => { r with whisk := BitVec.ofNat 16 (field v 0 16) }
      let new := P'.regs.whiskCores.filter fun c => !Table.has P.run.homes c
      let s := s.setPart p P'
      ((P.displaced new).foldl (fun s d => s.evict p d) s).modPart p Part.rehome
    else s.setPart p (P.failedWrite 0x048)

def execWhiskWrite (p : PartNo) (v : DWord) (s : State) : Host.Outcome State Fault Refusal := .next (s.writeWhisk p v)

/-! ## EGG and SEV (R332, R350) -/

def State.writeEgg (s : State) (p : PartNo) (v : DWord) : State :=
  s.regWrite p 0x050 (fun _ => within v [(0, 24), (63, 1)] && inRange v 0 24 1000 10000000)
    fun P => P.setRegs fun r => { r with egg := v }

/-- `EGG_WRITE`: a new WIN takes effect at the start of the next window. -/
def execEggWrite (p : PartNo) (v : DWord) (s : State) : Host.Outcome State Fault Refusal := .next (s.writeEgg p v)

/-- SEVc takes its CORE and SLICE fields; what it holds in the shared sources' fields is ignored. -/
def State.writeSev (s : State) (p : PartNo) (c : Nat) (v : DWord) : State :=
  s.regWrite p (0x080 + 8 * (c - 1)) (fun _ => within v [(0, 21)] && inRange v 0 3 0 4 && inRange v 3 3 0 4)
    fun P => P.setRegs fun r => { r with sev := Cells.set 0 r.sev c (BitVec.ofNat 64 (field v 0 6)) }

def execSevWrite (p : PartNo) (cls : BitVec 4) (v : DWord) (s : State) : Host.Outcome State Fault Refusal :=
  .next (if cls = 0 then s else s.writeSev p cls.toNat v)

/-! ## INV (R344) -/

/-- An invalidation begins; one that is still under way grows to the whole address space. -/
def State.writeInv (s : State) (p : PartNo) (v : DWord) : State :=
  s.regWrite p 0x028 (fun _ => within v [(16, 40), (56, 2)])
    fun P => P.setRegs fun r => { r with inv := if r.invDone then v else BitVec.ofNat 64 (3 * 2 ^ 56), invDone := false }

def execInvWrite (p : PartNo) (v : DWord) (s : State) : Host.Outcome State Fault Refusal := .next (s.writeInv p v)

/-! ## FAULTR (R199, R343) -/

/-- The verdict on a page as a group that waits for it takes it: it looks again once the last of its pages is mapped, and takes 0x10 at
one that is declined. -/
def Group.pageVerdict (vp : Nat) (mapped : Bool) (g : Group) : Group :=
  match g.wait with
  | some (.page vps) =>
    if !vps.contains vp then g
    else { g with wait := if !mapped then some (.declined vp) else if vps = [vp] then none else some (.page (vps.erase vp)) }
  | _ => g

/-- The verdict as a discarded cluster takes it: the team that met the page carries a decline mark. -/
def Relaunch.pageVerdict (vp : Nat) (mapped : Bool) (r : Relaunch) : Relaunch :=
  let mine := (r.pages.filter fun e => e.1 == vp).map Prod.snd
  { r with
    pages := r.pages.filter fun e => e.1 != vp
    marks := if mapped then r.marks else mine.foldl (fun m k => Table.set m k (insertNum (Table.getD m k []) vp)) r.marks }

/-- The verdict as a copy takes it that is stopped at the page. -/
def Part.copyVerdict (P : Part) (vp : Nat) (mapped : Bool) (op : Nat) : Part :=
  match Table.get? P.run.ops op with
  | some (.copyIn gid bar (l :: ls) ready sectors (some v)) =>
    if v ≠ vp then P
    else if mapped then P.setOp op (.copyIn gid bar (l :: ls) ready sectors none)
    else P.stopCopy op (some ⟨0x10, accessInfo l.first 0 Acc.read.code⟩)
  | some (.copyOut gid tile (l :: ls) data (some v)) =>
    if v ≠ vp then P
    else if mapped then P.setOp op (.copyOut gid tile (l :: ls) data none)
    else P.stopCopy op (some ⟨0x10, accessInfo l.first 0 Acc.write.code⟩)
  | _ => P

/-- The supervisor's verdict on a page that has a record outstanding. -/
def Part.verdict (P : Part) (vp : Nat) (mapped : Bool) : Part :=
  if !P.pending vp then P
  else
    let P := P.run.ops.foldl (fun P e => P.copyVerdict vp mapped e.1) P
    let P := { P with faults := P.faults.filter fun f => f.vpage != vp }
    P.modRun fun r => { r with
      teams := r.teams.map fun e => (e.1, { e.2 with groups := e.2.groups.map fun g => (g.1, g.2.pageVerdict vp mapped) })
      homes := r.homes.map fun e => (e.1, { e.2 with grp := e.2.grp.pageVerdict vp mapped })
      relaunches := r.relaunches.map (Relaunch.pageVerdict vp mapped) }

def State.writeFaultr (s : State) (p : PartNo) (v : DWord) : State :=
  s.regWrite p 0x038 (fun _ => within v [(0, 1), (16, 40)]) fun P => P.verdict (field v 16 40) (v.getLsbD 0)

/-- `FAULT_MAPPED`: verdict 1: what waits on the page retries its walk, and what was discarded on it may be placed again. -/
def execFaultMapped (p : PartNo) (v : DWord) (s : State) : Host.Outcome State Fault Refusal :=
  .next (if v.getLsbD 0 then s.writeFaultr p v else s)

/-- `FAULT_DECLINED`: verdict 0: what waits on the page takes 0x10, and what was discarded on it is placed again with a decline
mark. -/
def execFaultDeclined (p : PartNo) (v : DWord) (s : State) : Host.Outcome State Fault Refusal :=
  .next (if v.getLsbD 0 then s else s.writeFaultr p v)

/-! ## Queues (R424) -/

/-- A queue as it is granted. -/
def Queue.initial : Queue := ⟨0, 0, 0, 0, 0, false, false⟩
def Queue.enabled (x : Queue) : Bool := x.base.getLsbD 63
/-- QBASE[51:6] as an address. -/
def Queue.ring (x : Queue) : Nat := field x.base 6 46 * 64

/-- Offset of the registers of a granted queue: the partition's queues in increasing number. -/
def Part.queueOffset (P : Part) (q : Nat) : Nat := 0x600 + 32 * (P.queues.filter fun e => decide (e.1 < q)).length

/-- Write a register of a queue: `f` gives the queue, or that the value is not taken. -/
def State.queueWrite (s : State) (p : PartNo) (q reg : Nat) (f : Part → Queue → Option Queue) : State :=
  s.modPart p fun P => match Table.get? P.queues q with
    | none => P
    | some x => match f P x with
      | some y => { P with queues := Table.set P.queues q y }
      | none => P.failedWrite (P.queueOffset q + reg)

def State.writeQprod (s : State) (p : PartNo) (q : Nat) (v : DWord) : State :=
  s.queueWrite p q 16 fun _ x => if within v [(0, 16)] then some { x with prod := BitVec.ofNat 16 v.toNat } else none

/-- `QPROD_WRITE`: the packets before the producer index are published. -/
def execQprodWrite (p : PartNo) (q : BitVec 7) (v : DWord) (s : State) : Host.Outcome State Fault Refusal :=
  .next (s.writeQprod p q.toNat v)

/-- What a write of QBASE makes of a queue: the write that disables it, or a free write of a disabled one. -/
def State.qbase (s : State) (v : DWord) (P : Part) (x : Queue) : Option Queue :=
  let y := { x with base := v, moved := x.moved || field v 6 46 != field x.base 6 46 }
  if !within v [(6, 46), (63, 1)] then none
  else if x.enabled then (if v = x.base - BitVec.ofNat 64 (2 ^ 63) then some { x with base := v } else none)
  else if !v.getLsbD 63 then some y
  else if x.size = 0 ∨ !s.hostOrOwned P y.ring (64 * x.size.toNat) then none
  else some { y with cons := if y.moved then 0 else y.cons, moved := false }

/-- A write of QBASE. One that disables a queue of which the pass still holds a packet takes effect behind the pass. -/
def State.writeQbase (s : State) (p : PartNo) (q : Nat) (v : DWord) : State :=
  let passing := s.fw.pass.any fun e => e.1.toNat == q
  s.queueWrite p q 0 fun P x => (s.qbase v P x).map fun y =>
    if passing && x.enabled then { x with stopping := true } else { y with stopping := false }

/-- `QBASE_WRITE`: a queue is enabled, or disabled between passes. -/
def execQbaseWrite (p : PartNo) (q : BitVec 7) (v : DWord) (s : State) : Host.Outcome State Fault Refusal :=
  .next (s.writeQbase p q.toNat v)

/-- A power of two from 16 to 32,768. -/
def ringSize (n : Nat) : Bool := (List.range 12).any fun k => n == 2 ^ (k + 4)

def State.writeQsize (s : State) (p : PartNo) (q : Nat) (v : DWord) : State :=
  s.queueWrite p q 8 fun _ x =>
    if within v [(0, 16)] && ringSize v.toNat && !x.enabled then some { x with size := v, moved := true } else none
def State.writeQcbase (s : State) (p : PartNo) (q : Nat) (v : DWord) : State :=
  s.queueWrite p q 24 fun _ x => if within v [(4, 48)] && !x.enabled then some { x with cbase := v } else none

/-- The registers of the partition's k-th granted queue. -/
def State.writeQueueReg (s : State) (p : PartNo) (off : Nat) (v : DWord) : State :=
  match s.part? p with
  | none => s
  | some P => match P.queues[(off - 0x600) / 32]? with
    | none => s.setPart p (P.failedWrite off)
    | some (q, _) => match off % 32 with
      | 0 => s.writeQbase p q v
      | 8 => s.writeQsize p q v
      | 16 => s.writeQprod p q v
      | 24 => s.writeQcbase p q v
      | _ => s.setPart p (P.failedWrite off)

/-! ## The other registers -/

/-- SPWk (R417): a binding, in use or not, names a port granted to the partition. -/
def State.writeSpw (s : State) (p : PartNo) (k : Nat) (v : DWord) : State :=
  s.regWrite p (0x400 + 8 * k) (fun _ =>
      within v [(18, 46)] && Table.get? s.portGrant (field v 59 4) == some p.toNat)
    fun P => P.setRegs fun r => { r with spw := Cells.set 0 r.spw k v }

/-- OBS bounds (R345), by their place 2k or 2k + 1. -/
def State.writeObs (s : State) (p : PartNo) (k : Nat) (v : DWord) : State :=
  s.regWrite p (0x100 + 8 * k) (fun _ => within v [(16, 40)])
    fun P => P.setRegs fun r => { r with obs := Table.set r.obs k (field v 16 40) }

/-- SVCCMD (R431): a command is taken unless one is under way. -/
def State.writeSvccmd (s : State) (p : PartNo) (v : DWord) : State :=
  s.regWrite p 0x500 (fun P => decide (1 ≤ v.toNat) && decide (v.toNat ≤ 10) && P.regs.svcBusy.isNone)
    fun P => P.setRegs fun r => { r with svcBusy := some (BitVec.ofNat 8 v.toNat) }

/-- A write at an offset of BAR 0. A register that is read only, and an offset that names none, take no value. -/
def State.writeRegister (s : State) (p : PartNo) (off : Nat) (v : DWord) : State :=
  let plain (ok : Bool) (f : Regs → Regs) : State := s.regWrite p off (fun _ => ok) fun P => P.setRegs f
  match off with
  | 0x008 => plain (within v [(13, 39)]) fun r => { r with ptroot := v }
  | 0x018 => s.writeShelfc p v
  | 0x028 => s.writeInv p v
  | 0x038 => s.writeFaultr p v
  | 0x040 => plain (within v [(0, 16)] && inRange v 0 8 1 255 && inRange v 8 8 1 255) fun r => { r with qos := BitVec.ofNat 16 v.toNat }
  | 0x048 => s.writeWhisk p v
  | 0x050 => s.writeEgg p v
  | 0x058 => plain (within v [(0, 17)] && inRange v 0 17 0 100000) fun r => { r with drain := BitVec.ofNat 17 v.toNat }
  | 0x060 => plain (within v [(0, 10)] && inRange v 0 10 1 1000) fun r => { r with eper := BitVec.ofNat 10 v.toNat }
  | 0x068 => plain (within v [(0, 32)]) fun r => { r with ebudget := BitVec.ofNat 32 v.toNat }
  | 0x070 => plain (within v [(0, 16)]) fun r => { r with inft := BitVec.ofNat 16 v.toNat }
  | 0x480 => plain true fun r => { r with gbase := v }
  | 0x488 => plain (within v [(0, 52), (63, 1)] && inRange v 26 26 100 (2 ^ 26 - 1) && inRange v 0 26 1 (field v 26 26))
      fun r => { r with gslice := v }
  | 0x500 => s.writeSvccmd p v
  | 0x508 | 0x510 | 0x518 => plain true fun r => { r with svcArg := Cells.set 0 r.svcArg ((off - 0x508) / 8) v }
  | _ =>
    if 0x080 ≤ off ∧ off ≤ 0x0F0 ∧ off % 8 = 0 then s.writeSev p ((off - 0x080) / 8 + 1) v
    else if 0x100 ≤ off ∧ off ≤ 0x178 ∧ off % 8 = 0 then s.writeObs p ((off - 0x100) / 8) v
    else if 0x400 ≤ off ∧ off ≤ 0x478 ∧ off % 8 = 0 then s.writeSpw p ((off - 0x400) / 8) v
    else if 0x600 ≤ off ∧ off < 0x1600 then s.writeQueueReg p off v
    else plain false id

/-! ## Reads -/

/-- PSTAT (R436): the clock of the partition's first die in [15:0], and its throttle reason in [18:16]; spec/ does not give the
places (notes/assumptions/40.md). -/
def State.pstat (s : State) (P : Part) : Nat :=
  s.clockOf P.regs.firstDie + (match Table.get? s.throttle P.regs.firstDie with
    | none => 0
    | some .railCore => 1
    | some .railHbm => 2
    | some .railIo => 3
    | some .railAux => 4
    | some .temperature => 5) * 2 ^ 16

/-- The energy counter at an offset of the window (R353): cores and slices by their numbers within the partition, stacks; 0 beyond. -/
def State.energyAt (s : State) (P : Part) (off : Nat) : DWord :=
  let k := (off - 0x2000) / 8
  if k < 128 then (if k < 16 * P.dies then s.energy.getD (P.regs.firstDie * 16 + k) 0 else 0)
  else if k < 384 then (if k < 128 + 32 * P.dies then s.energy.getD (P.regs.firstDie * 32 + k) 0 else 0)
  else P.stackEnergy.getD (k - 384) 0

/-- What a read of a queue's register gives: QPROD is write only. -/
def Part.readQueueReg (P : Part) (off : Nat) : Option DWord :=
  (P.queues[(off - 0x600) / 32]?).bind fun e => match off % 32 with
    | 0 => some e.2.base
    | 8 => some e.2.size
    | 24 => some e.2.cbase
    | _ => none

/-- What a read at an offset of BAR 0 gives; none where there is nothing to read. -/
def State.readRegister (s : State) (p : PartNo) (off : Nat) : Option DWord :=
  (s.part? p).bind fun P =>
    let r := P.regs
    match off with
    | 0x000 => some (r.pcfg p)
    | 0x008 => some r.ptroot
    | 0x010 => some (r.pkey.setWidth 64)
    | 0x018 => some (r.shelfc.setWidth 64)
    | 0x020 => some r.shelfb
    | 0x030 => some (BitVec.ofNat 64 (bit r.invDone))
    | 0x040 => some (r.qos.setWidth 64)
    | 0x048 => some (r.whisk.setWidth 64)
    | 0x050 => some r.egg
    | 0x058 => some (r.drain.setWidth 64)
    | 0x060 => some (r.eper.setWidth 64)
    | 0x068 => some (r.ebudget.setWidth 64)
    | 0x070 => some (r.inft.setWidth 64)
    | 0x180 => some (P.elogHead.setWidth 64)
    | 0x480 => some r.gbase
    | 0x488 => some r.gslice
    | 0x490 => some s.now
    | 0x4A0 => some (BitVec.ofNat 64 (s.pstat P))
    | 0x520 => some (BitVec.ofNat 64 (bit r.svcBusy.isSome + r.svcStatus.toNat * 256))
    | _ =>
      if 0x080 ≤ off ∧ off ≤ 0x0F0 ∧ off % 8 = 0 then some (BitVec.ofNat 64 (s.sevc P ((off - 0x080) / 8 + 1)))
      else if 0x100 ≤ off ∧ off ≤ 0x178 ∧ off % 8 = 0 then
        let k := (off - 0x100) / 8
        some (BitVec.ofNat 64 (Table.getD r.obs k (if k % 2 = 0 then 2 ^ 40 - 1 else 0) * 65536))
      else if 0x400 ≤ off ∧ off ≤ 0x478 ∧ off % 8 = 0 then some (Cells.get 0 r.spw ((off - 0x400) / 8))
      else if 0x508 ≤ off ∧ off ≤ 0x518 ∧ off % 8 = 0 then some (Cells.get 0 r.svcArg ((off - 0x508) / 8))
      else if 0x600 ≤ off ∧ off < 0x1600 then P.readQueueReg off
      else if 0x2000 ≤ off ∧ off ≤ 0x2C5F ∧ off % 8 = 0 then some (s.energyAt P off)
      else none

end Sys2Proof.Machine
end

