-- ==== Sys2Proof/Machine/Firmware.lean ====
section
/-!
DEFINITION. The firmware's passes and the packets of the queues (spec/23_firmware_boot_power.md R424 to R429).
-/
namespace Sys2Proof.Machine

/-! ## Packets (R425 to R429) -/

/-- Bits [lo + len − 1 : lo] of a packet. -/
def pfield (pkt : BitVec 512) (lo len : Nat) : Nat := pkt.toNat / 2 ^ lo % 2 ^ len

def packetTag (pkt : BitVec 512) : Word := BitVec.ofNat 32 (pfield pkt 32 32)
def packetNotify (pkt : BitVec 512) : Bool := pfield pkt 8 1 == 1

/-- What a packet asks for; an OP that R428 does not list is out of range. -/
inductive PacketKind where
  | reset | setmode | attach | extend | detach | buffers | consume | resume | launch | signalSet | signalAdd | wait | nop | unknown
  deriving DecidableEq, Repr

def packetKind (pkt : BitVec 512) : PacketKind :=
  match pfield pkt 0 8 with
  | 0 => .nop
  | 1 => .reset
  | 2 => match pfield pkt 9 3 with
    | 0 => .setmode
    | 1 => .attach
    | 2 => .extend
    | 3 => .detach
    | 4 => .buffers
    | 5 => .consume
    | _ => .unknown
  | 3 => .resume
  | 4 => .launch
  | 5 => if pfield pkt 9 1 = 0 then .signalSet else .signalAdd
  | 6 => .wait
  | _ => .unknown

/-- The place of a type in a pass (R425): RESET, STREAM, RESUME, LAUNCH, SIGNAL, WAIT, NOP, the others. -/
def typeRank (pkt : BitVec 512) : Nat :=
  match pfield pkt 0 8 with
  | 0 => 7
  | 1 => 1
  | 2 => 2
  | 3 => 3
  | 4 => 4
  | 5 => 5
  | 6 => 6
  | _ => 8

/-! ## A pass (R425) -/

/-- The firmware carries out packets and services: it is started, and no successor waits for the end of the pass (R432, R433). -/
def Firmware.serving (f : Firmware) : Bool := f.booted && f.successor.isNone

/-- The queue holds a packet at its consumer index. -/
def Queue.ready (x : Queue) : Bool := x.enabled && x.prod != x.cons

/-- Place of the packet at a queue's consumer index (notes/assumptions/17.md). -/
def Queue.packetPlace (x : Queue) : Nat := x.ring + 64 * (x.cons.toNat % max 1 x.size.toNat)
/-- The packet there; one that holds an uncorrectable error is read as a malformed one of no type (R421; notes/assumptions/105.md). -/
def State.packetAt (s : State) (x : Queue) : BitVec 512 :=
  if s.unclean x.packetPlace 64 then BitVec.allOnes 512 else BitVec.ofNat 512 (s.num x.packetPlace 64)
/-- The uncorrectable errors that the firmware meets in the packets that it takes are reported (R351). -/
def State.packetErrors (s : State) : State :=
  s.parts.foldl (fun s e => (e.2.queues.filter fun k => k.2.ready && !s.hostCut k.2.packetPlace 64 && s.unclean k.2.packetPlace 64).foldl (fun s k =>
    s.readError (BitVec.ofNat 3 e.1) e.2 k.2.packetPlace) s) s

/-- The packets that the queues of every partition offer; those in host memory that is cut off offer none. -/
def State.offered (s : State) : List (BitVec 7 × BitVec 512) :=
  (s.parts.map fun e => (e.2.queues.filter fun k => k.2.ready && !s.hostCut k.2.packetPlace 64).map fun k => (BitVec.ofNat 7 k.1, s.packetAt k.2)).flatten

/-- The queue is disabled between passes, if a write has asked for it (R424). -/
def Queue.settle (x : Queue) : Queue :=
  if x.stopping then { x with base := x.base - BitVec.ofNat 64 (2 ^ 63), stopping := false } else x
def State.settleQueues (s : State) : State :=
  { s with parts := s.parts.map fun e => (e.1, { e.2 with queues := e.2.queues.map fun x => (x.1, x.2.settle) }) }

/-- A `cpyv` holds the line of a packet, so that it cannot be read yet (R216). -/
def State.packetsHeld (s : State) : Bool :=
  s.parts.any fun e => e.2.queues.any fun k => k.2.ready && !s.hostCut k.2.packetPlace 64 && s.rangeHeld k.2.packetPlace 64

/-- `FIRMWARE_PASS`: one packet of each queue is taken, to be carried out in the order of type and queue. -/
def execFirmwarePass (s : State) : Host.Outcome State Fault Refusal :=
  .next (
    if !s.fw.serving ∨ !s.fw.pass.isEmpty then s
    else
      let s := s.settleQueues
      if s.packetsHeld then s else { s.packetErrors with fw := { s.fw with pass := sortBy (fun e => typeRank e.2 * 128 + e.1.toNat) s.offered } })

/-- What carrying a packet out comes to. -/
inductive Carried where
  /-- It completes with a status. -/
  | done (status : Nat)
  /-- It is accepted, and completes later. -/
  | accepted
  /-- It stays at its queue's head. -/
  | stays
  deriving DecidableEq, Repr

/-- The partition that a queue is granted to. -/
def State.holder (s : State) (q : Nat) : Option (PartNo × Part) :=
  (s.parts.find? fun e => Table.has e.2.queues q).map fun e => (BitVec.ofNat 3 e.1, e.2)

/-- The consumer index behind a queue's packet. -/
def Part.consAfter (P : Part) (q : Nat) : BitVec 16 := ((Table.get? P.queues q).map fun x => x.cons + 1).getD 0

/-- The queue advances past its packet. -/
def Part.advanceQueue (P : Part) (q : Nat) : Part :=
  { P with queues := Table.modify P.queues q fun x => { x with cons := x.cons + 1 } }

/-- SIG and SIGEN of a LAUNCH packet (R429). -/
def packetSig (pkt : BitVec 512) : BitVec 12 := BitVec.ofNat 12 (pfield pkt 212 12)
def packetSigen (pkt : BitVec 512) : Bool := pfield pkt 211 1 == 1

/-- A packet completes: the queue advances, the completion entry is written, then SIG is raised if a LAUNCH asks for it, then
vector 3 if NOTIFY is set (R426, R429). -/
def State.complete (s : State) (p : PartNo) (q : Nat) (pkt : BitVec 512) (status : Nat) : State :=
  let cons := ((s.part? p).map fun P => P.consAfter q).getD 0
  ((s.modPart p fun P => P.advanceQueue q).completionEntry p q (packetTag pkt) cons status 0).modPart p fun P =>
    let P := if packetKind pkt == .launch && packetSigen pkt then P.signalAdd (packetSig pkt).toNat 1 else P
    if packetNotify pkt then P.vector 3 else P

/-- A packet as its body has carried it out. -/
def State.carried (p : PartNo) (q : Nat) (pkt : BitVec 512) (r : State × Carried) : State :=
  match r.2 with
  | .done status => r.1.complete p q pkt status
  | .accepted => r.1.modPart p fun P => P.advanceQueue q
  | .stays => r.1

/-- Memory that a packet names and the firmware reads: an address and a length. -/
def State.packetReads (s : State) (pkt : BitVec 512) : Nat × Nat :=
  match packetKind pkt with
  | .attach | .extend => (pfield pkt 192 52, 8 * pfield pkt 256 32)
  | .resume => (pfield pkt 64 52, s.imageBytes (pfield pkt 64 52))
  | _ => (0, 0)
/-- A `cpyv` holds a line of what a packet names, or of its completion entry: it is carried out later (R216). -/
def State.packetHeld (s : State) (q : Nat) (pkt : BitVec 512) : Bool :=
  let r := s.packetReads pkt
  s.rangeHeld r.1 r.2 || (s.holder q).any fun e => s.entryHeld e.2 q (e.2.consAfter q)

/-- Carry out the next packet of the pass, if it is this one and of this kind. A reserved header bit makes it malformed. -/
def State.carry (s : State) (q : BitVec 7) (pkt : BitVec 512) (kind : PacketKind)
    (body : State → PartNo → Part → State × Carried) : State :=
  if s.fw.pass.head? ≠ some (q, pkt) ∨ packetKind pkt ≠ kind ∨ s.packetHeld q.toNat pkt then s
  else
    let s := { s with fw := { s.fw with pass := s.fw.pass.tail } }
    match s.holder q.toNat with
    | none => s
    | some (p, P) =>
      if pfield pkt 16 16 ≠ 0 then s.complete p q.toNat pkt 1 else State.carried p q.toNat pkt (body s p P)

/-- A body that changes the partition alone. -/
def onPart (f : Part → Part × Nat) (s : State) (p : PartNo) (P : Part) : State × Carried :=
  (s.setPart p (f P).1, .done (f P).2)

/-! ## RESET, NOP and the unknown types -/

/-- `RESET`: the partition is reset; its queues survive. -/
def execReset (q : BitVec 7) (pkt : BitVec 512) (s : State) : Host.Outcome State Fault Refusal :=
  .next (s.carry q pkt .reset (onPart fun P => (P.reset, 0)))

/-- `NOP_PACKET`. -/
def execNopPacket (q : BitVec 7) (pkt : BitVec 512) (s : State) : Host.Outcome State Fault Refusal :=
  .next (s.carry q pkt .nop (onPart fun P => (P, 0)))

/-- `UNKNOWN_PACKET`: status 1. -/
def execUnknownPacket (q : BitVec 7) (pkt : BitVec 512) (s : State) : Host.Outcome State Fault Refusal :=
  .next (s.carry q pkt .unknown (onPart fun P => (P, 1)))

/-! ## STREAM (R360, R428) -/

/-- `SETMODE`: waits at the head until no team is live (R324, R360); a launch of which clusters are still to be placed goes on under the mode
in which its first one was. Leaving RECORD flushes every chunk. DESIGN CHOICE: between two paths of an exploration, when no team is
live, the mode is entered too, and XST stays 1 (notes/assumptions/122.md). -/
def execSetmode (q : BitVec 7) (pkt : BitVec 512) (s : State) : Host.Outcome State Fault Refusal :=
  .next (s.carry q pkt .setmode fun s p P =>
    let mode := pfield pkt 64 3
    if 4 < mode then (s, .done 1)
    else if P.anyLive then (s, .stays)
    else
      let s := if P.choice.mode.toNat = mRECORD then s.flushAll p else s
      let enter (c : Choice) : Choice := c.enterMode (BitVec.ofNat 3 mode) (pfield pkt 67 1 == 1)
        (BitVec.ofNat 6 (pfield pkt 68 6)) (BitVec.ofNat 32 (pfield pkt 96 32))
      (s.modPart p fun P => { P with choice := enter P.choice }, .done 0))

/-- KIND and ID of a stream packet, its buffer and its count of records. -/
def streamKind (pkt : BitVec 512) : Nat := pfield pkt 64 4
def streamId (pkt : BitVec 512) : DWord := BitVec.ofNat 64 (pfield pkt 128 64)
def streamBuffer (pkt : BitVec 512) : Nat := pfield pkt 192 52
def streamCount (pkt : BitVec 512) : Nat := pfield pkt 256 32

/-- KIND names a domain or the hash records. -/
def knownKind (k : Nat) : Bool := decide (1 ≤ k) && decide (k ≤ 6)

/-- Entries of the stream table (R362). -/
def streamEntries : Nat := 65536
/-- Double words of the reserved region (R337). -/
def regionWords : Nat := 2 ^ 26

/-- The entry of a kind and identifier. -/
def Choice.entry? (c : Choice) (kind : Nat) (id : DWord) : Option (Nat × Stream) :=
  c.streams.find? fun e => e.2.kind.toNat == kind && e.2.id == id
/-- The lowest entry that is free. -/
def Choice.freeEntry (c : Choice) : Option Nat :=
  ((List.range (c.streams.length + 1)).find? fun k => !Table.has c.streams k).filter fun k => decide (k < streamEntries)
/-- Double words of the reserved region in use, each a first one and a number: the record ring, the outcome log, and the records of
every stream but one. -/
def Choice.regionTaken (c : Choice) (but : Option Nat) : List (Nat × Nat) :=
  (c.rbbase.toNat / 8, c.rbsize.toNat + 1) :: (c.olbase.toNat / 8, c.olcap.toNat * 16 + 1) ::
    (c.streams.filter fun e => some e.1 != but).map fun e => (e.2.base.toNat / 8, e.2.recs.length)
/-- Where n double words go in the region: where the firmware would have them, if nothing lies there, else at the lowest free place;
none where they do not fit (notes/assumptions/101.md). -/
def Choice.regionPlace (c : Choice) (but : Option Nat) (want n : Nat) : Option Nat :=
  let taken := (c.regionTaken but).filter fun u => u.2 != 0
  let free (b : Nat) : Bool := decide (b + n ≤ regionWords) && taken.all fun u => decide (u.1 + u.2 ≤ b) || decide (b + n ≤ u.1)
  if free want then some want else ((0 :: taken.map fun u => u.1 + u.2).filter free).min?

/-- Keep a stream of the table, its records in the reserved region (R362). -/
def State.keepStream (s : State) (p : PartNo) (P : Part) (k : Nat) (st : Stream) : State :=
  (s.storeWords (P.regs.shelfb.toNat + st.base.toNat) st.recs).setPart p
    { P with choice := { P.choice with streams := Table.set P.choice.streams k st } }
/-- Attaching and detaching are allowed (R360). -/
def Part.mayAttach (P : Part) : Bool := P.choice.mode.toNat != mSTEERED && P.choice.mode.toNat != mEXPLORE

/-- `ATTACH`: a stream takes a new entry. -/
def execAttach (q : BitVec 7) (pkt : BitVec 512) (s : State) : Host.Outcome State Fault Refusal :=
  .next (s.carry q pkt .attach fun s p P =>
    let n := streamCount pkt
    let kind := streamKind pkt
    if !knownKind kind ∨ !s.hostOrOwned P (streamBuffer pkt) (8 * n) then (s, .done 1)
    else if s.unclean (streamBuffer pkt) (8 * n) then (s.readError p P (streamBuffer pkt), .done 1)
    else if !P.mayAttach ∨ (P.choice.entry? kind (streamId pkt)).isSome ∨ (kind = 6 ∧ n % 2 = 1) then (s, .done 3)
    else match P.choice.freeEntry, P.choice.regionPlace none (Config.streamBase s.tick).toNat n with
      | some k, some b =>
        let st : Stream := ⟨streamId pkt, BitVec.ofNat 4 kind, false, 0, 0, BitVec.ofNat 64 (8 * b), s.words (streamBuffer pkt) n⟩
        (s.keepStream p P k st, .done 0)
      | _, _ => (s, .done 3))

/-- `EXTEND`: records are appended to a stream, which keeps its cursor, and moves where the place behind it is taken. -/
def execExtend (q : BitVec 7) (pkt : BitVec 512) (s : State) : Host.Outcome State Fault Refusal :=
  .next (s.carry q pkt .extend fun s p P =>
    let n := streamCount pkt
    if !knownKind (streamKind pkt) ∨ !s.hostOrOwned P (streamBuffer pkt) (8 * n) then (s, .done 1)
    else if s.unclean (streamBuffer pkt) (8 * n) then (s.readError p P (streamBuffer pkt), .done 1)
    else match P.choice.entry? (streamKind pkt) (streamId pkt) with
      | none => (s, .done 3)
      | some (k, st) =>
        let recs := st.recs ++ s.words (streamBuffer pkt) n
        match P.choice.regionPlace (some k) (st.base.toNat / 8) recs.length with
        | none => (s, .done 3)
        | some b => (s.keepStream p P k { st with base := BitVec.ofNat 64 (8 * b), recs := recs }, .done 0))

/-- `DETACH`: an entry is free again. -/
def execDetach (q : BitVec 7) (pkt : BitVec 512) (s : State) : Host.Outcome State Fault Refusal :=
  .next (s.carry q pkt .detach (onPart fun P =>
    if !knownKind (streamKind pkt) then (P, 1)
    else match P.choice.entry? (streamKind pkt) (streamId pkt) with
      | none => (P, 3)
      | some (k, _) =>
        if !P.mayAttach then (P, 3)
        else ({ P with choice := { P.choice with streams := Table.erase P.choice.streams k } }, 0)))

/-- `BUFFERS`: the record buffer and the outcome log start afresh; an open chunk is kept. -/
def execBuffers (q : BitVec 7) (pkt : BitVec 512) (s : State) : Host.Outcome State Fault Refusal :=
  .next (s.carry q pkt .buffers fun s p P =>
    let size := pfield pkt 64 32
    let base := pfield pkt 96 32
    let cap := pfield pkt 128 24
    let log := pfield pkt 160 32
    let img := pfield pkt 192 32
    if 2 ^ 29 < base + 8 * size ∨ 2 ^ 29 < log + 128 * cap ∨ 2 ^ 29 ≤ img then (s, .done 1)
    else if P.anyLive then (s, .done 3)
    else
      let c : Choice :=
        { P.choice with
          rbbase := BitVec.ofNat 64 base, rbsize := BitVec.ofNat 32 size, rbprod := 0, rbcons := 0
          olbase := BitVec.ofNat 64 log, olcap := BitVec.ofNat 24 cap, olprod := 0, imgbase := BitVec.ofNat 64 img }
      ((s.setPart p { P with choice := c }).retryChunks p, .done 0))

/-- `CONSUME`: room in the record buffer, which the chunks that wait take; the new index lies between the old one and RBPROD. -/
def execConsume (q : BitVec 7) (pkt : BitVec 512) (s : State) : Host.Outcome State Fault Refusal :=
  .next (s.carry q pkt .consume fun s p P =>
    let new : Word := BitVec.ofNat 32 (pfield pkt 64 32)
    if P.choice.fill < (new - P.choice.rbcons).toNat then (s, .done 3)
    else ((s.setPart p { P with choice := { P.choice with rbcons := new } }).retryChunks p, .done 0))

/-! ## RESUME (R406, R407) -/

/-- `RESUME`: an image that passes its checks is restored; else nothing is, and the rejection is reported on vector 3. -/
def execResume (q : BitVec 7) (pkt : BitVec 512) (s : State) : Host.Outcome State Fault Refusal :=
  .next (s.carry q pkt .resume fun s p P =>
    let pa := pfield pkt 64 52
    match if P.mayResume then s.readImage P p pa else none with
    | some i => (s.resume p P i, .done 0)
    | none => (s.resumeRejected p pa, .done 3))

/-! ## LAUNCH (R322, R429) -/

/-- A reserved bit of a LAUNCH packet is set. -/
def launchReserved (pkt : BitVec 512) : Bool :=
  pfield pkt 288 224 != 0 || pfield pkt 208 3 != 0 || pfield pkt 192 4 != 0 || pfield pkt 127 51 != 0

/-- A quota of a packet, and its value where the packet leaves it zero (R169). -/
def quotaOr (x default : Nat) : Nat := if x = 0 then default else x

/-- The launch that a packet asks for. -/
def launchOf (k : Kernel) (q : BitVec 7) (pkt : BitVec 512) (cons : BitVec 16) : Launch where
  kern := pfield pkt 256 32
  kernel := k
  gx := pfield pkt 64 21
  gy := pfield pkt 85 21
  gz := pfield pkt 106 21
  seed := BitVec.ofNat 32 (pfield pkt 224 32)
  slotQuota := quotaOr (pfield pkt 183 9) 16
  recQuota := quotaOr (pfield pkt 178 5) (if k.accum = 0 then 0 else 4)
  unitQuota := quotaOr (pfield pkt 196 12) (if k.accum = 0 then 0 else 512)
  curve := pfield pkt 9 1 == 1
  coresident := pfield pkt 10 1 == 1
  sig := packetSig pkt
  sigen := packetSigen pkt
  queue := q
  tag := packetTag pkt
  notify := packetNotify pkt
  cons := cons
  mode := none
  next := 0
  done := []
  reported := 0
  bars := []
  hashes := []
  commits := []
  errors := []
  avoid := []

/-- `LAUNCH`: checked and accepted, in the order in which later launches follow it (R324). -/
def execLaunch (q : BitVec 7) (pkt : BitVec 512) (s : State) : Host.Outcome State Fault Refusal :=
  .next (s.carry q pkt .launch fun s p P =>
    match Table.get? P.kernels (pfield pkt 256 32) with
    | none => (s, .done 1)
    | some k =>
      let l := launchOf k q pkt (P.consAfter q.toNat)
      if launchReserved pkt then (s, .done 1)
      else if !s.launchValid p P l then (s, .done 2)
      else
        let n := P.lastLaunch + 1
        (s.setPart p ({ P with lastLaunch := n }.modRun fun r => { r with launches := Table.set r.launches n l }), .accepted))

/-! ## SIGNAL and WAIT (R330, R427) -/

def signalSlot (pkt : BitVec 512) : Nat := pfield pkt 64 12
def signalValue (pkt : BitVec 512) : DWord := BitVec.ofNat 64 (pfield pkt 128 64)

/-- `SIGNAL_SET`. -/
def execSignalSet (q : BitVec 7) (pkt : BitVec 512) (s : State) : Host.Outcome State Fault Refusal :=
  .next (s.carry q pkt .signalSet (onPart fun P =>
    ({ P with signals := Cells.set 0 P.signals (signalSlot pkt) (signalValue pkt) }, 0)))

/-- `SIGNAL_ADD`. -/
def execSignalAdd (q : BitVec 7) (pkt : BitVec 512) (s : State) : Host.Outcome State Fault Refusal :=
  .next (s.carry q pkt .signalAdd (onPart fun P => (P.signalAdd (signalSlot pkt) (signalValue pkt), 0)))

/-- `WAIT`: passes once the slot holds at least the value. -/
def execWait (q : BitVec 7) (pkt : BitVec 512) (s : State) : Host.Outcome State Fault Refusal :=
  .next (s.carry q pkt .wait fun s _ P =>
    if signalValue pkt ≤ Cells.get 0 P.signals (signalSlot pkt) then (s, .done 0) else (s, .stays))

end Sys2Proof.Machine
end

