-- ==== Sys2Proof/Machine/Cell.lean ====
section
/-!
DEFINITION. The arithmetic of the matrix engine: elements, terms, the compensated addition, the readout and the scaling of an
accumulator cell (spec/03 R77 to R86, spec/10 R240 to R243, R250 to R252).
-/
namespace Sys2Proof.Machine

/-! ## Cells (R83 to R85) -/

/-- A cell's image: e in [87:56], s in [55:0]. -/
abbrev Cell88 := BitVec 88

def Cell88.s (c : Cell88) : Nat := c.toNat % 2 ^ 56
def Cell88.e (c : Cell88) : Nat := c.toNat / 2 ^ 56
def Cell88.make (s e : Nat) : Cell88 := BitVec.ofNat 88 (s % 2 ^ 56 + e * 2 ^ 56)
def Cell88.sVal (c : Cell88) : FVal := unpack a56 c.s
def Cell88.eVal (c : Cell88) : FVal := unpack f32 c.e

/-- The A56 NaN with a cause code (R86). -/
def cellNan (code : Nat) : Cell88 := Cell88.make (0x7FF80000000000 + code) 0

/-- An exact value as a term; zero is +0. -/
def ofDy (d : Dy) : FVal := .fin (decide (d.1 < 0)) d.1.natAbs d.2

/-- The compensated addition (R242). -/
def cadd (c : Cell88) (t : FVal) : Cell88 :=
  let s := c.sVal
  let s1 := rnSum a56 [s, t]
  if s.isInf || s.isNan || t.isInf || t.isNan || (unpack a56 s1).isInf then .make s1 0
  else
    let d := Dy.sub (Dy.add s.dy t.dy) (unpack a56 s1).dy
    .make s1 (rnSum f32 [c.eVal, ofDy d])

/-! ## Elements (R70, R77 to R80, R240) -/

/-- An operand element: the code of a NaN input or 0, its value otherwise, its selector. -/
structure MEl where
  nan : Nat
  val : FVal
  sel : Nat
  deriving DecidableEq, Repr

def zeroVal : FVal := .fin false 0 0

/-- A value times 2^(x − 127); a NaN scale under a nonzero element is a NaN input (R80). -/
def scaled (f : Fmt) (bits x : Nat) : MEl :=
  match unpack f bits with
  | .nan _ _ => ⟨if x = 255 then 8 else 7, zeroVal, 0⟩
  | .inf n => if x = 255 then ⟨8, zeroVal, 0⟩ else ⟨0, .inf n, 0⟩
  | .fin n m e => if m = 0 then ⟨0, .fin n 0 0, 0⟩ else if x = 255 then ⟨8, zeroVal, 0⟩ else ⟨0, .fin n m (e + x - 127), 0⟩

/-- An element without a scale. -/
def plainEl (f : Fmt) (bits : Nat) : MEl :=
  match unpack f bits with
  | .nan _ _ => ⟨7, zeroVal, 0⟩
  | v => ⟨0, v, 0⟩

/-- A BX element of `mb` magnitude bits (R77 to R79). -/
def bxEl (mb bits x0 x1 : Nat) : MEl :=
  let sel := bits / 2 ^ (mb + 1) % 2
  let neg := bits / 2 ^ mb % 2 == 1
  let m := bits % 2 ^ mb
  let x := if sel = 1 then x1 else x0
  if m = 0 then ⟨if sel = 1 ∧ neg then 7 else 0, zeroVal, sel⟩
  else if x = 255 then ⟨8, zeroVal, sel⟩
  else ⟨0, .fin neg m ((x : Int) - 127 - (mb - 1 : Nat)), sel⟩

/-- Element k of a row's 96 bytes, with its scale bytes (R233, R240). -/
def rowEl (fmt : Nat) (scale : Bool) (bytes scales : List Byte) (k : Nat) : MEl :=
  let b (j : Nat) : Nat := (bytes.getD j 0).toNat
  let x (j : Nat) : Nat := (scales.getD j 0).toNat
  let q := k / 32
  match fmt with
  | 0 => if scale then scaled e4m3 (b k) (x q) else plainEl e4m3 (b k)
  | 1 => if scale then scaled e5m2 (b k) (x q) else plainEl e5m2 (b k)
  | 2 => bxEl 6 (b k) (x (2 * q)) (x (2 * q + 1))
  | 3 => bxEl 2 (b (k / 2) / 16 ^ (k % 2) % 16) (x (2 * q)) (x (2 * q + 1))
  | 4 => plainEl bf16 (b (2 * k) + 256 * b (2 * k + 1))
  | _ => plainEl f16 (b (2 * k) + 256 * b (2 * k + 1))

/-- Elements of a row's share (R238). -/
def rowLen (fmt : Nat) : Nat := if fmt = 3 then 192 else if fmt < 3 then 96 else 48

/-- A row or column as the step reads it: its elements, and how many NaN inputs NZ has taken as zero (R240). -/
def readRow (fmt : Nat) (scale nz : Bool) (bytes scales : List Byte) : List MEl × Nat :=
  let els := (List.range (rowLen fmt)).map (rowEl fmt scale bytes scales)
  if nz then (els.map fun e => if e.nan = 0 then e else { e with nan := 0, val := zeroVal }, (els.filter fun e => e.nan != 0).length)
  else (els, 0)

/-! ## Terms (R241) -/

/-- The exact sum of products; infinite products give ±∞, or the NaN of code 2. -/
def sumProducts (ps : List FVal) : FVal :=
  match ps.filter FVal.isInf with
  | [] => ofDy (Dy.sum (ps.map FVal.dy))
  | t :: rest => if rest.all fun u => u.neg == t.neg then .inf t.neg else .nan false 2

/-- The product of two elements, none for 0 × ∞. -/
def mulEl (p : MEl × MEl) : Option FVal := mulF p.1.val p.2.val

/-- Block q of 32 products. -/
def block32 (ps : List (MEl × MEl)) (q : Nat) : List (MEl × MEl) := (ps.drop (32 * q)).take 32

/-- The pairwise tree of BF16 and FP16: each level adds neighbours by RN56. -/
def treeLevel : List Nat → List Nat
  | a :: b :: rest => rnSum a56 [unpack a56 a, unpack a56 b] :: treeLevel rest
  | l => l
def treeRoot (ps : List FVal) : FVal :=
  let leaves := ps.map (fun p => rnSum a56 [p]) ++ List.replicate (64 - ps.length) 0
  match ((List.range 6).foldl (fun l _ => treeLevel l) leaves).head? with
  | some r => unpack a56 r
  | none => zeroVal

/-- The terms of a cell in the order added. `fa` and `fb` are the formats, `scale` says whether either side is
microscaled. -/
def termsOf (fa fb : Nat) (scale : Bool) (ps : List (MEl × MEl)) : List FVal :=
  if 4 ≤ fa then [treeRoot (ps.filterMap mulEl)]
  else if fa = 2 ∨ fb = 2 ∨ fa = 3 then
    ((List.range (ps.length / 32)).map fun q =>
      [(0, 0), (0, 1), (1, 0), (1, 1)].filterMap fun (s : Nat × Nat) =>
        match (block32 ps q).filter fun p => p.1.sel == s.1 && p.2.sel == s.2 with
        | [] => none
        | g => some (sumProducts (g.filterMap mulEl))).flatten
  else if scale then (List.range 3).map fun q => sumProducts ((block32 ps q).filterMap mulEl)
  else [sumProducts (ps.filterMap mulEl)]

/-- What a step does to one cell (R243, R86). -/
def stepCell (fa fb : Nat) (scale : Bool) (a b : List MEl) (c : Cell88) : Cell88 :=
  if c.sVal.isNan then c
  else if a.any (fun e => e.nan == 8) || b.any (fun e => e.nan == 8) then cellNan 8
  else if a.any (fun e => e.nan == 7) || b.any (fun e => e.nan == 7) then cellNan 7
  else
    let ps := a.zip b
    if ps.any fun p => (mulEl p).isNone then cellNan 3
    else (termsOf fa fb scale ps).foldl cadd c

/-! ## Readout, writing and scaling (R250 to R252) -/

/-- The exact value of a cell; none for ∞ − ∞. -/
def Cell88.value (c : Cell88) : Option FVal :=
  match c.sVal, c.eVal with
  | .nan n p, _ => some (.nan n p)
  | _, .nan n p => some (.nan n p)
  | .inf n, .inf m => if n = m then some (.inf n) else none
  | .inf n, _ => some (.inf n)
  | _, .inf n => some (.inf n)
  | s, e =>
    let d := Dy.add s.dy e.dy
    some (if d.1 = 0 then .fin (s.neg && e.neg) 0 0 else ofDy d)

/-- A cell converted to an element of a type (R95, R250). -/
def readCell (v : Env) (t : Ty) (c : Cell88) : Nat × Nat :=
  let x := c.value.getD (.nan false 2)
  let flags := if c.value.isNone then fINV else 0
  let r := match t.kind with
    | .float f => valToFloat v f false x
    | .signed => valToInt v true t.w x
    | .natural => valToInt v false t.w x
  (r.1, r.2 ||| flags)

/-- A cell set from an element (R251). DEDUCED: NANM has no effect on the NaN, whose sign and fraction
bits R251 keeps in so many words (notes/assumptions/106.md). -/
def writeCell (t : Ty) (x : Nat) : Cell88 :=
  let v : FVal := match t.kind with
    | .float f => unpack f x
    | .signed => ofDy (sextNat t.w x, 0)
    | .natural => ofDy ((x % 2 ^ t.w : Nat), 0)
  let narrow := match t.kind with
    | .float f => f.narrow
    | _ => false
  match v with
  | .nan n p => if narrow then cellNan 7 else .make (carryNan a56 false n (p % 16)) 0
  | v =>
    let s := rnSum a56 [v]
    if v.isInf || (unpack a56 s).isInf then .make s 0
    else .make s (rnSum f32 [ofDy (Dy.sub v.dy (unpack a56 s).dy)])

/-- A cell times a factor (R252): a NaN of the cell stays whole, as its width stays (R74), and one of the factor is converted (R76).
DEDUCED: NANM has no effect on the NaN that it keeps (notes/assumptions/106.md). DESIGN CHOICE: where c.s and c.e are infinities of
opposite sign, x takes the sign of c.s, and where c.e is a NaN beside an infinity, that NaN's (notes/assumptions/111.md). -/
def scaleCell (f : FVal) (c : Cell88) : Cell88 :=
  let s := c.sVal
  let e := c.eVal
  match s, f with
  | .nan n p, _ => .make (keepNan a56 false n p) 0
  | _, .nan n p => .make (carryNan a56 false n (p % 16)) 0
  | _, _ =>
    let x := c.value.getD s
    if s.isInf || e.isInf || f.isInf then
      if x.isZero || f.isZero then cellNan 3 else .make (a56.sign (x.neg != f.neg) + a56.topBits) 0
    else
      let p := (mulF s f).getD zeroVal
      let s1 := rnSum a56 [p]
      if (unpack a56 s1).isInf then .make s1 0
      else
        let d := ofDy (Dy.sub p.dy (unpack a56 s1).dy)
        .make s1 (rnSum f32 [if e.isNan then e else (mulF e f).getD zeroVal, d])

end Sys2Proof.Machine
end

