-- ==== Sys2Proof/Machine/Matrix.lean ====
section
/-!
DEFINITION. The matrix engine (spec/10_core_matrix_instr.md R226 to R258): reservations, fills, steps, batches, tiles, and the
engine's own steps. The arithmetic of a cell is in Cell.lean.
-/
namespace Sys2Proof.Machine

/-! ## Checks at issue (R229) -/

/-- The handle trap (R229): the reason, the handle, the major opcode. -/
def handleTrap (reason h op : Nat) : Trap := trapOf 0x1A (reason + h * 16 + op * 2 ^ 32)

/-- The record that a handle of the team names. -/
def Ctx.reservation (c : Ctx) (h : Nat) : Option Reservation :=
  (c.team?.bind fun t => Table.get? t.handles h).bind fun r => (c.P.core? (c.P.coreOf c.gid)).bind fun k => Table.get? k.records r

/-- Order 7d: the handle is held. -/
def Ctx.held (c : Ctx) (h op : Nat) (body : Reservation → Res) : Res :=
  match c.reservation h with
  | none => .trap c.s (handleTrap 4 h op)
  | some r => body r

/-- Order 7b: the name is within the quota; the physical tile it is bound to. -/
def Ctx.tileName (c : Ctx) (t : BitVec 3) (body : Option Nat → Res) : Res :=
  if ((c.team?.map Team.accQuota).getD 0) ≤ t.toNat then .trap c.s (trapOf 0x1B t.toNat)
  else body (c.team?.bind fun u => Table.get? u.tiles t.toNat)
/-- Order 7b for an instruction that requires an allocated tile. -/
def Ctx.tileBound (c : Ctx) (t : BitVec 3) (body : Nat → Res) : Res :=
  c.tileName t fun x => match x with
    | none => .trap c.s (trapOf 0x1B (t.toNat + 2 ^ 8))
    | some k => body k

/-! ## Holds (R236, R247) -/

/-- A pending fill; a batch operation. -/
def MatrixOp.isFill (m : MatrixOp) : Bool := m.bno == 0
/-- The busy trap that an operation gives (R229): the tile name or handle, and 1 for a range. -/
def busyTrap (m : MatrixOp) (name kind : Nat) : Trap :=
  trapOf 0x19 (name + kind * 2 ^ 4 + gidGroup m.gid * 2 ^ 5 + (if m.isFill then 0xFFFF else m.bno % 2 ^ 16) * 2 ^ 16)

/-- Operations of the team in the core's queue. -/
def Ctx.matrixOps (c : Ctx) : List MatrixOp :=
  ((c.P.core? (c.P.coreOf c.gid)).map fun k => k.matrix.filter fun m => gidTeam m.gid == c.tk).getD []

/-- Two byte ranges, each a first byte and a length, overlap. -/
def rangesMeet (x y : Nat × Nat) : Bool := decide (x.1 < y.1 + y.2) && decide (y.1 < x.1 + x.2)
def MatrixOp.meets (m : MatrixOp) (rs : List (Nat × Nat)) : Bool := m.ranges.any fun x => rs.any fun y => rangesMeet x y

/-- A tile that a batch operation of the team, or of another of its groups, holds. DESIGN CHOICE: of several that hold it, or that hold a
range, the trap names the oldest (notes/assumptions/110.md). -/
def Ctx.tileBusy (c : Ctx) (phys : Nat) (t : BitVec 3) (others : Bool) : Option Trap :=
  (c.matrixOps.find? fun m => (m.tile.any fun x => x.1 == phys) && !(others && m.gid == c.gid)).map fun m =>
    busyTrap m t.toNat 0
/-- A range that pending fills of other groups, or a footprint as well, hold; of several, the oldest is named
(notes/assumptions/110.md). -/
def Ctx.rangeBusy (c : Ctx) (rs : List (Nat × Nat)) (h : Nat) (footprints : Bool) : Option Trap :=
  (c.matrixOps.find? fun m => m.meets rs && (if m.isFill then m.gid != c.gid else footprints)).map fun m => busyTrap m h 1

/-- At most 64 operations and fills of a group are not complete (R227). -/
def Ctx.matrixRoom (c : Ctx) (body : Res) : Res :=
  if 64 ≤ (c.matrixOps.filter fun m => m.gid == c.gid && !m.done).length then .wait c.s .inFlight else body

/-- An operation enters the core's queue, and its instruction is complete. -/
def Ctx.enqueue (c : Ctx) (work : MatrixWork) (tile : Option (Nat × Nat)) (ranges : List (Nat × Nat)) (bno : Nat) (l : La) : Res :=
  let (id, P) := c.P.fresh
  let c := c.setP (P.modCore (P.coreOf c.gid) fun k =>
    { k with matrix := k.matrix ++ [⟨id, c.gid, work, tile, ranges, bno, false⟩] })
  c.doneS l []

/-! ## Reservations (R194, R195, R230 to R232) -/

/-- A reservation descriptor that R230 rejects. -/
def badReservation (d : DWord) : Bool :=
  let fmt := field d 0 3
  let blen := field d 4 6
  let len := field d 21 12
  let sc := field d 33 12
  decide (5 < fmt) || (blen != 0 && blen != 32) || (blen == 0 && (fmt == 2 || fmt == 3)) || (blen == 32 && decide (4 ≤ fmt)) ||
    len == 0 || decide (2048 < len) || (blen == 0 && sc != 0) || (blen == 32 && (sc == 0 || decide (len ≤ sc))) ||
    field d 45 19 != 0

/-- The first number below n that is not listed. -/
def firstFree (n : Nat) (used : Nat → Bool) : Option Nat := (List.range n).find? fun k => !used k

/-- Units of a new reservation read as zero (R195). -/
def Core.clearUnits (k : Core) (base len : Nat) : Core :=
  { k with
    operand := Cells.clear k.operand (base * 256) ((base + len) * 256)
    opoison := removeRange k.opoison (base * 32) ((base + len) * 32)
    written := removeRange k.written (unitNumber base) (unitNumber (base + len)) }

/-- Order 7c: what a reservation of these units of the team's run runs into. DESIGN CHOICE: of several live reservations that it overlaps,
the trap names the first in the team's handle table, that of the lowest handle (notes/assumptions/110.md). -/
def Ctx.quotaTrap (c : Ctx) (t : Team) (off len : Nat) : Option Trap :=
  if t.unitQuota < off + len then some (trapOf 0x1C 1)
  else if t.recQuota ≤ t.handles.length then some (trapOf 0x1C 0)
  else (t.handles.find? fun h => (c.reservation h.1).any fun r =>
      rangesMeet (t.unitBase + off, len) (r.base.toNat, r.len.toNat)).map fun h => trapOf 0x1C (2 + h.1 * 2 ^ 8)

def execObres (x y : SReg) (l : La) (s : State) : Host.Outcome State Fault Refusal :=
  issue (.obres x y l) s fun c =>
    let d := c.g.sreg y
    let off := field d 10 11
    let len := field d 21 12
    if badReservation d then .trap c.s ⟨2, d⟩
    else match c.team? with
      | none => .trap c.s (trapOf 0x1C 1)
      | some t => match c.quotaTrap t off len with
        | some e => .trap c.s e
        | none =>
          match firstFree t.recQuota (Table.has t.handles), (c.P.core? t.core).bind fun k => firstFree 16 (Table.has k.records) with
          | some h, some n =>
            let r : Reservation := ⟨d.getLsbD 3, BitVec.ofNat 4 t.slot, BitVec.ofNat 3 (field d 0 3), BitVec.ofNat 6 (field d 4 6),
              BitVec.ofNat 12 (field d 33 12), BitVec.ofNat 11 (t.unitBase + off), BitVec.ofNat 12 len⟩
            let P := c.P.modCore t.core fun k =>
              { k.clearUnits (t.unitBase + off) len with records := Table.set k.records n r, cpoison := removeNum k.cpoison (recordWord n) }
            let c := c.setP (P.modTeam c.tk fun t => { t with handles := Table.set t.handles h n })
            (c.setG (c.g.setS x (BitVec.ofNat 64 h))).doneS l [x]
          | _, _ => .trap c.s (trapOf 0x1C 0)

/-- A reservation's bytes of the operand buffer. -/
def Reservation.range (r : Reservation) : Nat × Nat := (r.base.toNat * 256, r.len.toNat * 256)

def execObrel (y : SReg) (l : La) (s : State) : Host.Outcome State Fault Refusal :=
  issue (.obrel y l) s fun c =>
    let h := c.g.sreg y
    if 16 ≤ h.toNat then .trap c.s ⟨2, h⟩
    else c.held h.toNat 0xA1 fun r =>
      match (c.matrixOps.find? fun m => m.meets [r.range]).map fun m => busyTrap m h.toNat 1 with
      | some t => .trap c.s t
      | none =>
        let n := ((c.team?.bind fun t => Table.get? t.handles h.toNat)).getD 0
        let P := c.P.modCore (c.P.coreOf c.gid) fun k => { k with records := Table.erase k.records n }
        (c.setP (P.modTeam c.tk fun t => { t with handles := Table.erase t.handles h.toNat })).doneS l []

/-! ## Fills (R234 to R236) -/

/-- A source beyond the scratchpad is an address that fails R207 (R229 7e, R282; notes/assumptions/102.md). DESIGN CHOICE: of two
words that are rejected, sX's is named (notes/assumptions/110.md). -/
def execObld (x y : SReg) (l : La) (s : State) : Host.Outcome State Fault Refusal :=
  issue (.obld x y l) s fun c =>
    let d := c.g.sreg x
    let src := c.g.sreg y
    let bytes := field d 32 20
    let doff := field d 8 19
    let h := field d 0 4
    if field d 52 12 ≠ 0 ∨ field d 27 5 ≠ 0 ∨ field d 4 4 ≠ 0 ∨ bytes = 0 ∨ bytes % 32 ≠ 0 ∨ doff % 32 ≠ 0 then .trap c.s ⟨2, d⟩
    else if src.toNat % 32 ≠ 0 then .trap c.s ⟨2, src⟩
    else c.held h 0xA2 fun r =>
      if r.len.toNat * 256 < doff + bytes then .trap c.s (handleTrap 2 h 0xA2)
      else
        let dst := r.base.toNat * 256 + doff
        match firstTrap [c.padError false 0 src.toNat bytes 0, c.rangeBusy [(dst, bytes)] h true] with
        | some t => .trap c.s t
        | none => c.matrixRoom
          (c.enqueue (.fill ((List.range (bytes / 32)).map fun k => (src.toNat + 32 * k, dst + 32 * k, 32))) none [(dst, bytes)] 0 l)

/-- A step pointer that R237 rejects; `loop` for the pointer that holds CNT. -/
def badPointer (d : DWord) (loop : Bool) : Bool :=
  field d 32 16 != 0 || field d 4 4 != 0 || field d 20 12 == 0 || (loop != (field d 48 16 != 0))
def pointerOf (d : DWord) : StepPtr := ⟨field d 0 4, field d 8 12, field d 20 12⟩

/-- Bytes of a scale block (R233). -/
def scaleBytes (fmt : Nat) : Nat := match fmt with
  | 2 => 48
  | 3 => 96
  | _ => 24
/-- Bytes of the element region (R237). -/
def Reservation.elements (r : Reservation) : Nat := (if r.blen = 0 then r.len.toNat else r.scoff.toNat) * 256

/-- The operand-buffer ranges of one step's operand from block `blk` on: element blocks, then scale blocks. -/
def Reservation.footprint (r : Reservation) (blk str : Nat) : List (Nat × Nat) :=
  let blocks := (List.range 16).map fun k => blk + k * str
  let z := scaleBytes r.fmt.toNat
  let base := r.base.toNat * 256
  (blocks.map fun b => (base + 768 * b, 768)) ++
    (if r.blen = 0 then [] else blocks.map fun b => (base + r.scoff.toNat * 256 + z * b, z))

/-- The reason for which a footprint is refused (R237). -/
def Reservation.outside (r : Reservation) (blk str : Nat) : Option Nat :=
  let last := blk + 15 * str
  if r.elements < 768 * (last + 1) then some 2
  else if r.blen ≠ 0 ∧ r.len.toNat * 256 < r.scoff.toNat * 256 + scaleBytes r.fmt.toNat * (last + 1) then some 3
  else none

def execGath (x y : SReg) (l : La) (p : VReg) (s : State) : Host.Outcome State Fault Refusal :=
  issue (.gath x y l p) s fun c =>
    let d := c.g.sreg x
    let b := c.g.sreg y
    let ptr := pointerOf d
    let base := field b 0 20
    let pitch := field b 20 16
    if badPointer d false then .trap c.s ⟨2, d⟩
    else if field b 36 28 ≠ 0 ∨ base % 32 ≠ 0 ∨ pitch % 32 ≠ 0 ∨ pitch = 0 then .trap c.s ⟨2, b⟩
    else c.held ptr.hnd 0xA3 fun r =>
      if r.blen ≠ 0 then .trap c.s (handleTrap 5 ptr.hnd 0xA3)
      else match r.outside ptr.blk ptr.str with
        | some n => .trap c.s (handleTrap n ptr.hnd 0xA3)
        | none =>
          let row (j : Nat) : Nat := base + elem 16 (j % 2) (c.g.vreg (p.toNat + j / 64) (j / 2 % 32)).toNat * pitch
          let beyond := firstSome (fun j => (c.padError false 0 (row j) 96 0).map fun t =>
            trapOf 0x13 (t.tinfo.toNat % 2 ^ 20 + j * 2 ^ 32)) (List.range 128)
          match firstTrap [beyond, c.rangeBusy (r.footprint ptr.blk ptr.str) ptr.hnd true] with
          | some t => .trap c.s t
          | none =>
            let dst (j : Nat) : Nat := r.base.toNat * 256 + 768 * (ptr.blk + j / 8 * ptr.str) + j % 8 * 96
            c.matrixRoom (c.enqueue (.fill ((List.range 128).map fun j => (row j, dst j, 96))) none
              (r.footprint ptr.blk ptr.str) 0 l)

def execMrdy (s : State) : Host.Outcome State Fault Refusal :=
  issue .mrdy s fun c =>
    if c.matrixOps.any fun m => m.gid == c.gid && m.isFill then .wait c.s .inFlight else .done c.s

/-! ## Steps (R237 to R239) -/

/-- The format pairs allowed (R238). -/
def pairAllowed (a b : Nat) : Bool := a == b || (a == 0 && b == 2) || (a == 2 && b == 0)

/-- Blocks of the repetitions of one operand. -/
def repetitions (p : StepPtr) (inc : Int) (n : Nat) : List Int := (List.range n).map fun (k : Nat) => (p.blk : Int) + k * inc
/-- A block number outside 0 to 4,095. -/
def badBlock (b : Int) : Option Trap := if b < 0 ∨ 4095 < b then some ⟨2, BitVec.ofInt 64 b⟩ else none

/-- The checks and the issue of `mstep` and of `mloop`, with the increments and the count (R229, R239). DEDUCED: of the two handles whose
formats make no pair, TINFO names A's (notes/assumptions/107.md). DESIGN CHOICE: of two operands that fail one check, A's comes before
B's, repetition by repetition, and of the busy ones the tile comes before A's range and that before B's (notes/assumptions/110.md). -/
def Ctx.steps (c : Ctx) (a b : StepPtr) (da db : Int) (n : Nat) (t : BitVec 3) (op : Nat) (l : La) : Res :=
  let as := repetitions a da n
  let bs := repetitions b db n
  match firstSome (fun (x : Int × Int) => firstTrap [badBlock x.1, badBlock x.2]) (as.zip bs) with
  | some e => .trap c.s e
  | none => c.tileBound t fun phys => c.held a.hnd op fun ra => c.held b.hnd op fun rb =>
    if !pairAllowed ra.fmt.toNat rb.fmt.toNat then .trap c.s (handleTrap 1 a.hnd op)
    else
      let out (r : Reservation) (p : StepPtr) (x : Int) : Option Trap := (r.outside x.toNat p.str).map fun k => handleTrap k p.hnd op
      match firstSome (fun (x : Int × Int) => firstTrap [out ra a x.1, out rb b x.2]) (as.zip bs) with
      | some e => .trap c.s e
      | none =>
        let fa := (as.map fun x => ra.footprint x.toNat a.str).flatten
        let fb := (bs.map fun x => rb.footprint x.toNat b.str).flatten
        match firstTrap [c.tileBusy phys t true, c.rangeBusy fa a.hnd false, c.rangeBusy fb b.hnd false] with
        | some e => .trap c.s e
        | none => c.matrixRoom (c.enqueue (.steps a b da db n) (some (phys, t.toNat)) (fa ++ fb) (c.g.closed + 1) l)

/-- `mstep` (R237). DESIGN CHOICE: of two pointers that are rejected, sX's is named (notes/assumptions/110.md). -/
def execMstep (x y : SReg) (l : La) (t : BitVec 3) (s : State) : Host.Outcome State Fault Refusal :=
  issue (.mstep x y l t) s fun c =>
    let a := c.g.sreg x
    let b := c.g.sreg y
    if badPointer a false then .trap c.s ⟨2, a⟩
    else if badPointer b false then .trap c.s ⟨2, b⟩
    else c.steps (pointerOf a) (pointerOf b) 0 0 1 t 0xA5 l

/-- `mloop` (R239). DESIGN CHOICE: of two pointers that are rejected, sX's is named (notes/assumptions/110.md). -/
def execMloop (x y : SReg) (l : La) (t : BitVec 3) (s : State) : Host.Outcome State Fault Refusal :=
  issue (.mloop x y l t) s fun c =>
    let a := c.g.sreg x
    let b := c.g.sreg y
    if x = 31 ∨ y = 31 then .trap c.s (trapOf 2 31)
    else if badPointer a true then .trap c.s ⟨2, a⟩
    else if badPointer b false then .trap c.s ⟨2, b⟩
    else c.steps (pointerOf a) (pointerOf b) (c.g.sreg (x + 1)).toInt (c.g.sreg (y + 1)).toInt (field a 48 16) t 0xA6 l

/-! ## Batches (R245, R246, R254) -/

def execMfence (x : SReg) (l : La) (s : State) : Host.Outcome State Fault Refusal :=
  issue (.mfence x l) s fun c =>
    let c := c.setP (c.P.closeBatch c.gid)
    (c.setG (c.g.setS x (BitVec.ofNat 64 (c.g.closed % 2 ^ 16)))).doneS l [x]

/-- (BATCH − n) mod 2^16 for the number in a register. -/
def Group.batchAge (g : Group) (r : SReg) : Nat := (g.closed + 2 ^ 16 - (g.sreg r).toNat % 2 ^ 16) % 2 ^ 16

/-- The holds of a group's operations up to a batch end (R246, R247). -/
def Ctx.unholdBatch (c : Ctx) (n : Nat) : Ctx :=
  c.setP (c.P.modCore (c.P.coreOf c.gid) fun k =>
    { k with matrix := k.matrix.filter fun m => m.gid != c.gid || m.isFill || decide (n < m.bno) })

/-- Wait for the batch of this age and every earlier one. -/
def Ctx.awaitBatch (c : Ctx) (age : Nat) (body : Ctx → Res) : Res :=
  if c.g.complete < c.g.closed - age then .wait c.s .inFlight else body (c.unholdBatch (c.g.closed - age))

def execMwait (x : SReg) (s : State) : Host.Outcome State Fault Refusal :=
  issue (.mwait x) s fun c =>
    let age := c.g.batchAge x
    if 2 ^ 15 ≤ age then .trap c.s (trapOf 2 ((c.g.sreg x).toNat % 2 ^ 16)) else c.awaitBatch age fun c => .done c.s

def execNanc (d a : SReg) (s : State) : Host.Outcome State Fault Refusal :=
  issue (.nanc d a) s fun c =>
    let age := c.g.batchAge a
    if 2 ^ 15 ≤ age then .trap c.s (trapOf 2 ((c.g.sreg a).toNat % 2 ^ 16))
    else if 16 ≤ age then c.finish (c.g.setS d 0xFFFFFFFFFFFFFFFF)
    else c.awaitBatch age fun c => c.finish (c.g.setS d (BitVec.ofNat 64 (Table.getD c.g.nans (c.g.closed - age) 0)))

def execSrseed (a : SReg) (s : State) : Host.Outcome State Fault Refusal :=
  issue (.srseed a) s fun c => c.finish ({ c.g with seed := loWord (c.g.sreg a), ctr := 0 }.mend seedWord)

/-! ## Tiles (R248 to R253) -/

def Ctx.tile? (c : Ctx) (phys : Nat) : Option Tile := (c.P.core? (c.P.coreOf c.gid)).bind fun k => Table.get? k.tiles phys
def Ctx.setTile (c : Ctx) (phys : Nat) (t : Tile) : Ctx :=
  c.setP (c.P.modCore (c.P.coreOf c.gid) fun k => { k with tiles := Table.set k.tiles phys t })
/-- Cells of a tile are written, or the tile is at its reset point (R403). -/
def Ctx.writeTile (c : Ctx) (phys : Nat) (t : Tile) : Ctx :=
  c.setP (c.P.modCore (c.P.coreOf c.gid) fun k =>
    { k with tiles := Table.set k.tiles phys t, written := insertNum k.written (tileNumber phys) })
def Ctx.freshTile (c : Ctx) (phys : Nat) (t : Tile) : Ctx :=
  c.setP (c.P.modCore (c.P.coreOf c.gid) fun k =>
    { k with tiles := Table.set k.tiles phys t, written := removeNum k.written (tileNumber phys) })

/-- Orders 7b and 7f for an instruction that acts on a tile at once: its physical tile, and what it holds. -/
def Ctx.onTile (c : Ctx) (t : BitVec 3) (body : Nat → Tile → Res) : Res :=
  c.tileBound t fun phys => match c.tileBusy phys t false with
    | some e => .trap c.s e
    | none => body phys ((c.tile? phys).getD ⟨0, 0, [], []⟩)

def execAcfg (y : SReg) (f : BitVec 2) (l : La) (t : BitVec 3) (s : State) : Host.Outcome State Fault Refusal :=
  issue (.acfg y f l t) s fun c =>
    let v := c.g.sreg y
    if 2 ≤ f.toNat then .trap c.s (trapOf 2 f.toNat)
    else if f = 1 then c.onTile t fun phys x => (c.setTile phys { x with row0 := loWord v, col0 := hiWord v }).doneS l []
    else c.tileName t fun bound => match bound with
      | some phys => match c.tileBusy phys t false with
        | some e => .trap c.s e
        | none => (c.freshTile phys ⟨loWord v, hiWord v, [], []⟩).doneS l []
      | none => match (c.P.core? (c.P.coreOf c.gid)).bind fun k => firstFree 8 (Table.has k.tiles) with
        | some phys =>
          let c := c.setP (c.P.modTeam c.tk fun u => { u with tiles := Table.set u.tiles t.toNat phys })
          (c.freshTile phys ⟨loWord v, hiWord v, [], []⟩).doneS l []
        | none => .wait c.s .inFlight

def execArel (l : La) (t : BitVec 3) (s : State) : Host.Outcome State Fault Refusal :=
  issue (.arel l t) s fun c => c.tileName t fun bound => match bound with
    | none => c.doneS l []
    | some phys => match c.tileBusy phys t false with
      | some e => .trap c.s e
      | none =>
        let P := c.P.modCore (c.P.coreOf c.gid) fun k => { k with tiles := Table.erase k.tiles phys }
        (c.setP (P.modTeam c.tk fun u => { u with tiles := Table.erase u.tiles t.toNat })).doneS l []

def execAzero (l : La) (t : BitVec 3) (s : State) : Host.Outcome State Fault Refusal :=
  issue (.azero l t) s fun c => c.onTile t fun phys x => (c.freshTile phys { x with cells := [], poison := [] }).doneS l []

/-- TYPE codes that `ard` and `awr` take. -/
def tCell (t : Nat) : Bool := decide (t ≤ 13)
/-- The cell numbers of an active lane's elements, element 0 first (R250). -/
def laneCells (row part n i : Nat) : List (Nat × Nat) :=
  (List.range n).map fun k => (k, 128 * row + (8 * part + n * i + k))

/-- The checks that `ard` and `awr` share. -/
def Ctx.cells (c : Ctx) (op : Nat) (t : BitVec 3) (part : Nat) (body : Ty → Nat → Tile → Res) : Res :=
  c.typed op tCell fun ty =>
    if 128 < 8 * part + 32 * ty.n then .trap c.s (trapOf 2 part) else c.onTile t fun phys x => body ty phys x

/-- MODE's fields for a cell of column j, with the tile's comparison word (R93, R94). -/
def Group.tileEnv (g : Group) (x : Tile) (row j : Nat) : Env :=
  ⟨g.rnd, g.ftz, g.nanm, g.sat, tileDraw g.seed (x.row0 + BitVec.ofNat 32 row) x.col0 j⟩

def execArd (v : VReg) (t : BitVec 3) (r : BitVec 7) (l : La) (p : BitVec 4) (s : State) : Host.Outcome State Fault Refusal :=
  issue (.ard v t r l p) s fun c => c.cells 0xAC t p.toNat fun ty _ x =>
    let nums := (c.g.actives.map fun i => (laneCells r.toNat p.toNat ty.n i).map Prod.snd).flatten
    if nums.any x.poison.contains then .gone (c.s.consumeBy c.p c.gid 3 srcCore 0)
    else
      let g := c.g.putLanes ty.wide v (c.g.actives.map fun i =>
        (i, packElems ty.w ((laneCells r.toNat p.toNat ty.n i).map fun e =>
          readCell (c.g.tileEnv x r.toNat (e.2 % 128)) ty (Cells.get 0 x.cells e.2))))
      c.finish (g.open l true (if ty.wide then [v.toNat, v.toNat + 1] else [v.toNat]) [] 0)

def execAwr (v : VReg) (t : BitVec 3) (r : BitVec 7) (l : La) (p : BitVec 4) (s : State) : Host.Outcome State Fault Refusal :=
  issue (.awr v t r l p) s fun c => c.cells 0xAD t p.toNat fun ty phys x =>
    let new := (c.g.actives.map fun i => (laneCells r.toNat p.toNat ty.n i).map fun e =>
      (e.2, writeCell ty (elem ty.w e.1 (c.g.direct ty.wide v.toNat i)))).flatten
    (c.writeTile phys { x with
      cells := new.foldl (fun m e => Cells.set 0 m e.1 e.2) x.cells
      poison := x.poison.filter fun k => !(new.any fun e => e.1 == k) }).doneS l []

def execAscal (v : VReg) (t : BitVec 3) (r : BitVec 7) (l : La) (s : State) : Host.Outcome State Fault Refusal :=
  issue (.ascal v t r l) s fun c => c.typed 0xB2 (fun t => t == 8 || t == 9) fun ty =>
    if 96 < r.toNat then .trap c.s (trapOf 2 r.toNat)
    else c.onTile t fun phys x =>
      let rows := c.g.actives.map fun i => (i, (List.range 128).map fun j => 128 * (r.toNat + i) + j)
      if rows.any fun e => e.2.any x.poison.contains then .gone (c.s.consumeBy c.p c.gid 3 srcCore 0)
      else
        let factor (i : Nat) : FVal := unpack (if ty.wide then f64 else f32) (c.g.direct ty.wide v.toNat i)
        let cells := rows.foldl (fun m e => e.2.foldl (fun m k =>
          Cells.set 0 m k (scaleCell (factor e.1) (Cells.get 0 m k))) m) x.cells
        (c.writeTile phys { x with cells := cells }).doneS l []

/-- Bytes of a cell's image (R85). -/
def cellBytes : Nat := 11

/-- The checks and the issue of `asave` and `aload` (R253). -/
def Ctx.moveRows (c : Ctx) (x y : SReg) (t : BitVec 3) (l : La) (save : Bool) : Res :=
  let d := c.g.sreg x
  let a := c.g.sreg y
  let r0 := field d 0 7
  let n := field d 8 7 + 1
  if field d 7 1 ≠ 0 ∨ 2 ^ 15 ≤ d.toNat ∨ 128 < r0 + n then .trap c.s ⟨2, d⟩
  else if 2 ^ 20 ≤ a.toNat ∨ a.toNat % 16 ≠ 0 then .trap c.s ⟨2, a⟩
  else c.tileBound t fun phys =>
    let len := n * 128 * cellBytes
    match firstTrap [c.padError save 0 a.toNat len 0, c.padError save 2 a.toNat len 0, c.padError save 1 a.toNat len 0,
      c.tileBusy phys t true] with
    | some e => .trap c.s e
    | none => c.matrixRoom (c.enqueue (if save then .save r0 n a.toNat 0 else .load r0 n a.toNat 0) (some (phys, t.toNat)) []
        (c.g.closed + 1) l)

def execAsave (x y : SReg) (l : La) (t : BitVec 3) (s : State) : Host.Outcome State Fault Refusal :=
  issue (.asave x y l t) s fun c => c.moveRows x y t l true
def execAload (x y : SReg) (l : La) (t : BitVec 3) (s : State) : Host.Outcome State Fault Refusal :=
  issue (.aload x y l t) s fun c => c.moveRows x y t l false

/-! ## The engine (R227, R228, R240 to R245, R253) -/

/-- Rows of it have moved, and others have still to. -/
def MatrixOp.midMove (m : MatrixOp) : Bool := match m.work with
  | .save _ _ _ moved | .load _ _ _ moved => moved != 0 && !m.done
  | _ => false

/-- The operation follows nothing of its group that is still to be done; a fill goes past batch operations, none of which writes the
operand buffer (R228, R247, R253), so that a freeze finds it landed beside an `mloop` that has stopped (R256;
notes/assumptions/114.md). -/
def matrixReady (ops : List MatrixOp) (m : MatrixOp) : Bool :=
  (ops.takeWhile fun o => o.id != m.id).all fun o => o.gid != m.gid || o.done || (m.isFill && !o.isFill)
/-- The batch operation that the engine serves: the one whose rows are moving, else the oldest one that may run (R228, R256). -/
def nextMatrix (ops : List MatrixOp) : Option MatrixOp :=
  match ops.find? MatrixOp.midMove with
  | some m => some m
  | none => ops.find? fun m => !m.isFill && !m.done && matrixReady ops m

def Core.setMatrix (k : Core) (m : MatrixOp) : Core := { k with matrix := k.matrix.map fun o => if o.id = m.id then m else o }

/-- Write bytes into the operand buffer; double words written whole lose their poison (R275). -/
def Core.putOperand (k : Core) (dst : Nat) (bs : List Byte) : Core :=
  { k with
    operand := Cells.setMany 0 k.operand dst bs
    opoison := removeRange k.opoison ((dst + 7) / 8) ((dst + bs.length) / 8)
    written := ((touched 256 dst bs.length).map unitNumber).foldl insertNum k.written }

/-- One move of a fill; after the last one the fill has landed and its hold ends. -/
def Ctx.fillMove (c : Ctx) (m : MatrixOp) (mv : Nat × Nat × Nat) (rest : List (Nat × Nat × Nat)) : State :=
  if c.peekPoison mv.1 mv.2.2 then c.s.consumeBy c.p c.gid 3 srcCore 0
  else
    let bs := c.peek mv.1 mv.2.2
    c.s.setPart c.p ((c.P.modCore (c.P.coreOf c.gid) fun k =>
      let k := k.putOperand mv.2.1 bs
      if rest.isEmpty then { k with matrix := k.matrix.filter fun o => o.id != m.id }
      else k.setMatrix { m with work := .fill rest }).modGroup c.gid Group.wake)

/-- `FILL_LANDING`: a fill that its group's earlier operations let go moves its next piece. -/
def execFillLanding (p : PartNo) (op : Nat) (s : State) : Host.Outcome State Fault Refusal :=
  .next (match (s.part? p).bind fun P => (P.run.cores.map fun k => k.2.matrix).find? fun l => l.any fun m => m.id == op with
    | none => s
    | some ops => match ops.find? fun m => m.id == op with
      | some m => match m.work, s.ctx? p m.gid with
        | .fill (mv :: rest), some c => if matrixReady ops m then c.fillMove m mv rest else s
        | _, _ => s
      | none => s)

/-- The rows of an operand from the buffer: 96 bytes and the row's scales each (R197, R233). -/
def Core.operandRows (k : Core) (r : Reservation) (blk str : Nat) : List (List Byte × List Byte) :=
  let base := r.base.toNat * 256
  let z := scaleBytes r.fmt.toNat
  (List.range 128).map fun y =>
    let b := blk + y / 8 * str
    (Cells.getMany 0 k.operand (base + 768 * b + y % 8 * 96) 96,
      if r.blen = 0 then [] else Cells.getMany 0 k.operand (base + r.scoff.toNat * 256 + b * z + y % 8 * (z / 8)) (z / 8))

/-- The elements of an operand's rows, and the number of NaN inputs taken as zero (R240). -/
def Core.operandElements (k : Core) (r : Reservation) (blk str : Nat) : List (List MEl) × Nat :=
  let rows := (k.operandRows r blk str).map fun x => readRow r.fmt.toNat (r.blen != 0) r.nz x.1 x.2
  (rows.map Prod.fst, (rows.map Prod.snd).foldl (· + ·) 0)

/-- Every cell of a tile after one step (R243). -/
def stepTile (fa fb : Nat) (scale : Bool) (as bs : List (List MEl)) (x : Tile) : Cells 88 :=
  ((List.range 128).map fun y => (List.range 128).filterMap fun j =>
    let c := stepCell fa fb scale (as.getD y []) (bs.getD j []) (Cells.get 0 x.cells (128 * y + j))
    if c = 0 then none else some (128 * y + j, c)).flatten

/-- A batch operation has done all of its work (R245). -/
def Ctx.matrixDone (c : Ctx) (m : MatrixOp) : State :=
  let P := c.P.modCore (c.P.coreOf c.gid) fun k => k.setMatrix { m with done := true }
  c.s.setPart c.p ((P.refreshBatches c.gid).modGroup c.gid Group.wake)

/-- The record of a handle of the team is poisoned (R273). -/
def Ctx.recordPoison (c : Ctx) (k : Core) (hs : List Nat) : Bool :=
  !k.cpoison.isEmpty && hs.any fun h => ((c.team?.bind fun t => Table.get? t.handles h).map recordWord).any k.cpoison.contains

/-- One step of an operation, checked (R244). -/
def Ctx.runStep (c : Ctx) (m : MatrixOp) (k : Core) (phys : Nat) (a b : StepPtr) (da db : Int) (left : Nat)
    (check : CheckResult) : State :=
  match c.reservation a.hnd, c.reservation b.hnd, Table.get? k.tiles phys with
  | some ra, some rb, some x =>
    let read := ra.footprint a.blk a.str ++ rb.footprint b.blk b.str
    if (read.any fun r => (touched 8 r.1 r.2).any k.opoison.contains) || !x.poison.isEmpty || c.recordPoison k [a.hnd, b.hnd] then c.s.consumeBy c.p c.gid 3 srcCore 0
    else if check = .uncorrected then c.s.consumeBy c.p c.gid 7 srcCore 0
    else
      let ea := k.operandElements ra a.blk a.str
      let eb := k.operandElements rb b.blk b.str
      let cells := stepTile ra.fmt.toNat rb.fmt.toNat (ra.blen != 0 || rb.blen != 0) ea.1 eb.1 x
      let c := c.writeTile phys { x with cells := cells }
      let n := Table.getD c.g.nans m.bno 0 + ea.2 + eb.2
      let c := if n = 0 then c else c.setG { c.g with nans := Table.set c.g.nans m.bno n }
      let c := if check = .corrected then
          c.reload (c.s.severity c.p 6 srcCore (c.P.coreOf c.gid) 0 (c.P.requester c.gid 0) (some c.tk) false true)
        else c
      let next (p : StepPtr) (d : Int) : StepPtr := { p with blk := (p.blk + d).toNat }
      if left ≤ 1 then c.matrixDone m
      else c.s.setPart c.p (c.P.modCore (c.P.coreOf c.gid) fun k =>
        k.setMatrix { m with work := .steps (next a da) (next b db) da db (left - 1) })
  | _, _, _ => c.s

/-- Bytes of rows that move in one clock (R253), and the clocks' pieces: the byte of the cells' images at a place of the moved
rows is a byte of this cell. -/
def rowPiece : Nat := 128
def movedCell (r0 k : Nat) : Nat := 128 * r0 + k / cellBytes

/-- A piece of rows has moved; after the last one the operation is done. -/
def Ctx.movedPiece (c : Ctx) (m : MatrixOp) (n moved : Nat) (work : Nat → MatrixWork) : State :=
  if n * 128 * cellBytes ≤ moved + rowPiece then c.matrixDone m
  else c.s.setPart c.p (c.P.modCore (c.P.coreOf c.gid) fun k => k.setMatrix { m with work := work (moved + rowPiece) })

/-- The next 128 bytes of an `asave`. -/
def Ctx.runSave (c : Ctx) (m : MatrixOp) (x : Tile) (r0 n addr moved : Nat) : State :=
  let places := (List.range rowPiece).map fun k => moved + k
  if (places.any fun k => x.poison.contains (movedCell r0 k)) || c.tagPoison (addr + moved) rowPiece then c.s.consumeBy c.p c.gid 3 srcCore 0
  else
    let bytes := places.map fun k => (BitVec.ofNat 8 ((Cells.get 0 x.cells (movedCell r0 k)).toNat / 2 ^ (8 * (k % cellBytes))) : Byte)
    (c.poke (addr + moved) bytes).movedPiece m n moved (.save r0 n addr)

/-- A cell with one byte of its image replaced. -/
def cellWith (x : BitVec 88) (k : Nat) (b : Byte) : BitVec 88 :=
  BitVec.ofNat 88 (x.toNat % 2 ^ (8 * k) + b.toNat * 2 ^ (8 * k) + x.toNat / 2 ^ (8 * k + 8) * 2 ^ (8 * k + 8))

/-- The next 128 bytes of an `aload`. -/
def Ctx.runLoad (c : Ctx) (m : MatrixOp) (phys : Nat) (x : Tile) (r0 n addr moved : Nat) : State :=
  if c.peekPoison (addr + moved) rowPiece then c.s.consumeBy c.p c.gid 3 srcCore 0
  else
    let bytes := (List.range rowPiece).zip (c.peek (addr + moved) rowPiece)
    let cells := bytes.foldl (fun t e =>
      let i := movedCell r0 (moved + e.1)
      Cells.set 0 t i (cellWith (Cells.get 0 t i) ((moved + e.1) % cellBytes) e.2)) x.cells
    let whole := decide (n * 128 * cellBytes ≤ moved + rowPiece)
    let poison := if whole then removeRange x.poison (128 * r0) (128 * (r0 + n)) else x.poison
    (c.writeTile phys { x with cells := cells, poison := poison }).movedPiece m n moved (.load r0 n addr)

/-- The engine carries out an operation, or one repetition of an `mloop`. -/
def Ctx.runMatrix (c : Ctx) (m : MatrixOp) (k : Core) (check : CheckResult) : State :=
  match m.tile with
  | none => c.s
  | some (phys, _) => match m.work, Table.get? k.tiles phys with
    | .steps a b da db left, _ => c.runStep m k phys a b da db left check
    | .save r0 n addr moved, some x => c.runSave m x r0 n addr moved
    | .load r0 n addr moved, some x => c.runLoad m phys x r0 n addr moved
    | _, _ => c.s

/-- `MATRIX_STEP`: the engine of a core runs the oldest operation that may run. -/
def execMatrixStep (p : PartNo) (core : BitVec 7) (check : CheckResult) (s : State) : Host.Outcome State Fault Refusal :=
  .next (match (s.part? p).bind fun P => P.core? core.toNat with
    | none => s
    | some k => match nextMatrix k.matrix with
      | none => s
      | some m => match s.ctx? p m.gid with
        | none => s
        | some c => c.runMatrix m k check)

end Sys2Proof.Machine
end

