-- ==== Sys2Proof/Machine/Sha.lean ====
section
/-!
DEFINITION. SHA-512, of which spec/23_firmware_boot_power.md R434 and R435 give the name: the standard hash, over bytes
(PRESUMED, notes/assumptions/9.md).
-/
namespace Sys2Proof.Machine

/-- The round constants. -/
def shaRounds : List DWord :=
  [0x428A2F98D728AE22, 0x7137449123EF65CD, 0xB5C0FBCFEC4D3B2F, 0xE9B5DBA58189DBBC,
   0x3956C25BF348B538, 0x59F111F1B605D019, 0x923F82A4AF194F9B, 0xAB1C5ED5DA6D8118,
   0xD807AA98A3030242, 0x12835B0145706FBE, 0x243185BE4EE4B28C, 0x550C7DC3D5FFB4E2,
   0x72BE5D74F27B896F, 0x80DEB1FE3B1696B1, 0x9BDC06A725C71235, 0xC19BF174CF692694,
   0xE49B69C19EF14AD2, 0xEFBE4786384F25E3, 0x0FC19DC68B8CD5B5, 0x240CA1CC77AC9C65] ++
  [0x2DE92C6F592B0275, 0x4A7484AA6EA6E483, 0x5CB0A9DCBD41FBD4, 0x76F988DA831153B5,
   0x983E5152EE66DFAB, 0xA831C66D2DB43210, 0xB00327C898FB213F, 0xBF597FC7BEEF0EE4,
   0xC6E00BF33DA88FC2, 0xD5A79147930AA725, 0x06CA6351E003826F, 0x142929670A0E6E70,
   0x27B70A8546D22FFC, 0x2E1B21385C26C926, 0x4D2C6DFC5AC42AED, 0x53380D139D95B3DF,
   0x650A73548BAF63DE, 0x766A0ABB3C77B2A8, 0x81C2C92E47EDAEE6, 0x92722C851482353B] ++
  [0xA2BFE8A14CF10364, 0xA81A664BBC423001, 0xC24B8B70D0F89791, 0xC76C51A30654BE30,
   0xD192E819D6EF5218, 0xD69906245565A910, 0xF40E35855771202A, 0x106AA07032BBD1B8,
   0x19A4C116B8D2D0C8, 0x1E376C085141AB53, 0x2748774CDF8EEB99, 0x34B0BCB5E19B48A8,
   0x391C0CB3C5C95A63, 0x4ED8AA4AE3418ACB, 0x5B9CCA4F7763E373, 0x682E6FF3D6B2B8A3,
   0x748F82EE5DEFB2FC, 0x78A5636F43172F60, 0x84C87814A1F0AB72, 0x8CC702081A6439EC] ++
  [0x90BEFFFA23631E28, 0xA4506CEBDE82BDE9, 0xBEF9A3F7B2C67915, 0xC67178F2E372532B,
   0xCA273ECEEA26619C, 0xD186B8C721C0C207, 0xEADA7DD6CDE0EB1E, 0xF57D4F7FEE6ED178,
   0x06F067AA72176FBA, 0x0A637DC5A2C898A6, 0x113F9804BEF90DAE, 0x1B710B35131C471B,
   0x28DB77F523047D84, 0x32CAAB7B40C72493, 0x3C9EBE0A15C9BEBC, 0x431D67C49C100D4C,
   0x4CC5D4BECB3E42B6, 0x597F299CFC657E2A, 0x5FCB6FAB3AD6FAEC, 0x6C44198C4A475817]

/-- The hash state's eight double words. -/
structure ShaState where
  a : DWord
  b : DWord
  c : DWord
  d : DWord
  e : DWord
  f : DWord
  g : DWord
  h : DWord
  deriving DecidableEq, Repr

/-- The state before the first block. -/
def ShaState.initial : ShaState :=
  ⟨0x6A09E667F3BCC908, 0xBB67AE8584CAA73B, 0x3C6EF372FE94F82B, 0xA54FF53A5F1D36F1,
    0x510E527FADE682D1, 0x9B05688C2B3E6C1F, 0x1F83D9ABFB41BD6B, 0x5BE0CD19137E2179⟩

/-- One round with its constant and its message word. -/
def ShaState.round (x : ShaState) (k w : DWord) : ShaState :=
  let s1 := x.e.rotateRight 14 ^^^ x.e.rotateRight 18 ^^^ x.e.rotateRight 41
  let ch := (x.e &&& x.f) ^^^ (~~~x.e &&& x.g)
  let t1 := x.h + s1 + ch + k + w
  let s0 := x.a.rotateRight 28 ^^^ x.a.rotateRight 34 ^^^ x.a.rotateRight 39
  let maj := (x.a &&& x.b) ^^^ (x.a &&& x.c) ^^^ (x.b &&& x.c)
  ⟨t1 + (s0 + maj), x.a, x.b, x.c, x.d + t1, x.e, x.f, x.g⟩

/-- The next word of a message schedule, whose latest word stands first. -/
def shaNext (ws : List DWord) : DWord :=
  let w (k : Nat) : DWord := ws.getD (k - 1) 0
  let s0 (x : DWord) : DWord := x.rotateRight 1 ^^^ x.rotateRight 8 ^^^ x >>> 7
  let s1 (x : DWord) : DWord := x.rotateRight 19 ^^^ x.rotateRight 61 ^^^ x >>> 6
  s1 (w 2) + w 7 + s0 (w 15) + w 16

/-- The schedule of a block of 16 words, in order. -/
def shaSchedule (block : List DWord) : List DWord :=
  ((List.range 64).foldl (fun ws _ => shaNext ws :: ws) block.reverse).reverse

/-- One block. -/
def ShaState.block (x : ShaState) (block : List DWord) : ShaState :=
  let y := (shaRounds.zip (shaSchedule block)).foldl (fun y e => y.round e.1 e.2) x
  ⟨x.a + y.a, x.b + y.b, x.c + y.c, x.d + y.d, x.e + y.e, x.f + y.f, x.g + y.g, x.h + y.h⟩

/-- The bytes of a number of n bytes, the most significant first. -/
def beBytes (n x : Nat) : List Byte := (leBytes n x).reverse

/-- A message with its padding. -/
def shaPad (m : List Byte) : List Byte :=
  m ++ (0x80 : Byte) :: (List.replicate ((239 - m.length % 128) % 128) 0 ++ beBytes 16 (8 * m.length))

/-- The double words of a message, the first byte the most significant. -/
def shaWords (n : Nat) (m : List Byte) : List DWord :=
  (List.range n).map fun k => BitVec.ofNat 64 (leNat ((m.drop (8 * k)).take 8).reverse)

/-- The state after a number of blocks. -/
def shaBlocks : Nat → ShaState → List DWord → ShaState
  | 0, x, _ => x
  | n + 1, x, ws => shaBlocks n (x.block (ws.take 16)) (ws.drop 16)

/-- SHA-512 of bytes: its 64 bytes. -/
def sha512 (m : List Byte) : List Byte :=
  let p := shaPad m
  let x := shaBlocks (p.length / 128) ShaState.initial (shaWords (p.length / 8) p)
  ([x.a, x.b, x.c, x.d, x.e, x.f, x.g, x.h].map fun w => beBytes 8 w.toNat).flatten

/-- A value of 64 bytes as it stands in memory, and the number that a register holds for it (R4). -/
def bytesOf512 (x : BitVec 512) : List Byte := leBytes 64 x.toNat
def sha512Num (m : List Byte) : BitVec 512 := BitVec.ofNat 512 (leNat (sha512 m))

/-- An extension of a measurement register: M becomes SHA-512(M ∥ d) (R435). -/
def extendMeasure (m d : BitVec 512) : BitVec 512 := sha512Num (bytesOf512 m ++ bytesOf512 d)

end Sys2Proof.Machine
end

