-- ==== Sys2Proof/Machine/Package.lean ====
section
/-!
DEFINITION. The package: boot (spec/23_firmware_boot_power.md R433), measurements (R435), live update (R432), and the commands of the
physical-function supervisor (spec/17_package_memory.md R345, R347, R348).
-/
namespace Sys2Proof.Machine

/-! ## Measurements (R435) and boot (R433) -/

/-- Extend M0 to M3. -/
def State.measure (s : State) (k : Nat) (d : BitVec 512) : State :=
  { s with meas := Cells.set 0 s.meas k (extendMeasure (Cells.get 0 s.meas k) d) }
/-- Extend M4 to M7. -/
def Part.measure (P : Part) (k : Nat) (d : BitVec 512) : Part :=
  { P with meas := Cells.set 0 P.meas k (extendMeasure (Cells.get 0 P.meas k) d) }

/-- `POWER_ON_BOOT`: the management image is measured and started, the fabric is trained, the firmware is measured and started. A
signature that fails stops the boot. -/
def execPowerOnBoot (images : BootImages) (s : State) : Host.Outcome State Fault Refusal :=
  .next (
    if s.fw.booted ∨ s.fw.failed then s
    else
      let stop (s : State) : State := { s with fw := { s.fw with failed := true } }
      let s := s.measure 0 images.mgmtMeasure
      if !images.mgmtOk then stop s
      else
        let s := (s.measure 3 images.fabricMeasure).measure 1 images.firmwareMeasure
        if !images.firmwareOk then stop s
        else { s with fw := { s.fw with booted := true, version := images.firmwareVersion } })

/-- `FUNCTION_LEVEL_RESET` of a virtual function (R347). -/
def execFunctionLevelReset (p : PartNo) (s : State) : Host.Outcome State Fault Refusal := .next (s.modPart p Part.reset)

/-! ## Commands of the physical function (R348) -/

/-- A command is carried out: its arguments stand in PFARG0 and PFARG1, and its status in PFST. A write of PFCMD while the busy bit
is set is ignored. -/
def State.pfCommand (s : State) (arg0 arg1 : DWord) (body : DWord → DWord → State → State × Nat) : State :=
  if !s.fw.booted ∨ s.pfBusy then s
  else
    let s := { s with pfArg := Cells.set 0 (Cells.set 0 s.pfArg 0 arg0) 1 arg1 }
    { (body arg0 arg1 s).1 with pfStatus := BitVec.ofNat 8 (body arg0 arg1 s).2 }

/-- A partition as it is created (R345, R348). -/
def Part.created (p : PartNo) (firstDie logDies : Nat) (pkey : BitVec 8) : Part :=
  let regs := Regs.initial firstDie logDies 0 pkey (BitVec.ofNat 64 (2 ^ 40 + firstDie * 1984 * 2 ^ 20))
  Part.measure
    { regs := regs
      queues := []
      run := Run.initial regs 1
      choice := Choice.initial
      sieve := Sieve.initial
      nextId := 1
      lastLaunch := 0
      signals := []
      kernels := []
      code := []
      classes := []
      keys := []
      meas := []
      elog := []
      elogHead := 0
      faults := []
      tlb := []
      debug := []
      vectors := []
      reports := []
      frozen := false
      saved := false
      freezing := false
      reason := 0
      draining := false
      imageArea := none
      images := []
      fire := 0
      ret := 0
      lastFire := 0
      lastRet := 0
      lastFlit := 0
      flit := 0
      window := 100000
      deferred := false
      stackEnergy := List.replicate 12 0
      spent := 0
      unacked := []
      testNext := []
      mark := 0
      atRisk := []
      lostTeams := []
      inbox := [] } 4 (Config.partitionMeasure p firstDie logDies pkey)

/-- The checks of command 1: its status. -/
def State.createStatus (s : State) (arg0 arg1 : DWord) : Nat :=
  let first := field arg0 0 3
  let size := 2 ^ field arg0 3 2
  if !within arg0 [(0, 5), (8, 3)] ∨ !within arg1 [(0, 8)] ∨ arg1 = 0 then 1
  else if first % size ≠ 0 ∨ (List.range size).any (fun k => (s.partOfDie (first + k)).isSome) ∨
      Table.has s.parts (field arg0 8 3) ∨ s.parts.any (fun e => e.2.regs.pkey.toNat == arg1.toNat) then 3
  else 0

/-- What `CREATE_PARTITION` does, and its status. -/
def State.createPartitionBody (arg0 arg1 : DWord) (s : State) : State × Nat :=
  let status := s.createStatus arg0 arg1
  let p : PartNo := BitVec.ofNat 3 (field arg0 8 3)
  if status = 0 then (s.setPart p (Part.created p (field arg0 0 3) (field arg0 3 2) (BitVec.ofNat 8 arg1.toNat)), 0)
  else (s, status)
/-- `CREATE_PARTITION`. -/
def execCreatePartition (arg0 arg1 : DWord) (s : State) : Host.Outcome State Fault Refusal :=
  .next (s.pfCommand arg0 arg1 State.createPartitionBody)

/-- `DESTROY_PARTITION`: the partition ends; its queues and ports are revoked, its bindings cleared, its dies freed. -/
def State.destroyPartitionBody (arg0 _ : DWord) (s : State) : State × Nat :=
  let p := field arg0 0 3
  if !within arg0 [(0, 3)] then (s, 1)
  else if !Table.has s.parts p then (s, 3)
  else ({ s with parts := Table.erase s.parts p, portGrant := s.portGrant.filter fun e => e.2 != p }, 0)
/-- `DESTROY_PARTITION`. -/
def execDestroyPartition (arg0 arg1 : DWord) (s : State) : Host.Outcome State Fault Refusal :=
  .next (s.pfCommand arg0 arg1 State.destroyPartitionBody)

/-- Some frame of a granule is backed (R336). -/
def State.granuleBacked (s : State) (g : Nat) : Bool :=
  (List.range 4).any fun tier => (List.range 1024).any fun k => s.backed tier (g * 2 ^ 26 + k * 65536) 65536

/-- What `SET_GRANULE_KEY` does, and its status. -/
def State.setGranuleKeyBody (arg0 arg1 : DWord) (s : State) : State × Nat :=
  if !within arg0 [(0, 26)] ∨ !within arg1 [(0, 8)] then (s, 1)
  else if !s.granuleBacked arg0.toNat then (s, 3)
  else ({ s with granules := Cells.set 0 s.granules arg0.toNat (BitVec.ofNat 8 arg1.toNat) }, 0)
/-- `SET_GRANULE_KEY`. -/
def execSetGranuleKey (arg0 arg1 : DWord) (s : State) : Host.Outcome State Fault Refusal :=
  .next (s.pfCommand arg0 arg1 State.setGranuleKeyBody)

/-- What a grant names: a partition, or none to revoke; none at all where the value is out of range. -/
def State.grantee (s : State) (arg1 : DWord) : Option (Option Nat) :=
  if arg1 = 0xFF then some none
  else if Table.has s.parts arg1.toNat ∧ within arg1 [(0, 3)] then some (some arg1.toNat)
  else none

/-- Give a queue to a partition; one that holds it already keeps its registers. -/
def State.grant (s : State) (q : Nat) (dest : Option Nat) : State :=
  let queues (k : Nat) (t : Table Queue) : Table Queue :=
    if dest = some k then Table.set t q (Table.getD t q Queue.initial) else Table.erase t q
  { s with parts := s.parts.map fun e => (e.1, { e.2 with queues := queues e.1 e.2.queues }) }

/-- What `GRANT_QUEUE` does, and its status. -/
def State.grantQueueBody (arg0 arg1 : DWord) (s : State) : State × Nat :=
  match s.grantee arg1 with
  | none => (s, 1)
  | some dest =>
    let q := field arg0 0 7
    if !within arg0 [(0, 7)] then (s, 1)
    else if (s.holder q).any fun e => (Table.get? e.2.queues q).any Queue.enabled then (s, 3)
    else (s.grant q dest, 0)
/-- `GRANT_QUEUE`. -/
def execGrantQueue (arg0 arg1 : DWord) (s : State) : Host.Outcome State Fault Refusal :=
  .next (s.pfCommand arg0 arg1 State.grantQueueBody)

/-- A valid binding of the partition that holds a port names it (R417). -/
def State.portBound (s : State) (port : Nat) : Bool :=
  ((Table.get? s.portGrant port).bind fun p => Table.get? s.parts p).any fun P =>
    P.regs.spw.any fun e => e.2.getLsbD 63 && field e.2 59 4 == port

/-- What `GRANT_PORT` does, and its status. -/
def State.grantPortBody (arg0 arg1 : DWord) (s : State) : State × Nat :=
  match s.grantee arg1 with
  | none => (s, 1)
  | some dest =>
    let port := field arg0 0 4
    if !within arg0 [(0, 4)] then (s, 1)
    else if s.portBound port then (s, 3)
    else match dest with
      | some p => ({ s with portGrant := Table.set s.portGrant port p }, 0)
      | none => ({ s with portGrant := Table.erase s.portGrant port }, 0)
/-- `GRANT_PORT`. -/
def execGrantPort (arg0 arg1 : DWord) (s : State) : Host.Outcome State Fault Refusal :=
  .next (s.pfCommand arg0 arg1 State.grantPortBody)

/-- What `SET_SHARED_SEVERITY` does, and its status. -/
def State.setSharedSeverityBody (arg0 arg1 : DWord) (s : State) : State × Nat :=
  if !within arg0 [(0, 4)] ∨ arg0 = 0 ∨ !within arg1 [(6, 15)] then (s, 1)
  else if !((List.range 5).all fun k => inRange arg1 (6 + 3 * k) 3 0 4) then (s, 3)
  else ({ s with sharedSev := Cells.set 0 s.sharedSev arg0.toNat arg1 }, 0)
/-- `SET_SHARED_SEVERITY`. -/
def execSetSharedSeverity (arg0 arg1 : DWord) (s : State) : Host.Outcome State Fault Refusal :=
  .next (s.pfCommand arg0 arg1 State.setSharedSeverityBody)

/-! ## Live update (R432) -/

/-- The checks of R434 on one segment: its measurement, and its signature under a key. -/
def segmentOk (header : BitVec 512) (key : Option (BitVec 256)) (x : Config.LvcSegment) : Bool :=
  sha512Num x.bytes == x.measurement &&
    key.any fun k => Config.verifies k (sha512 (bytesOf512 header ++ bytesOf512 x.measurement)) x.signature

/-- The firmware segments of a container. -/
def firmwareSegments (l : Config.Lvc) : List Config.LvcSegment := l.segments.filter fun x => x.kind == 4

/-- A successor that passes its checks. -/
def State.successorOk (s : State) (l : Config.Lvc) : Bool :=
  l.segments.all (fun x => segmentOk l.headerHash (some (Config.firmwareKey x.key)) x) && !(firmwareSegments l).isEmpty &&
    decide (s.minSecVer ≤ l.version)

/-- A refused successor changes nothing, and is reported on vector 3. -/
def State.refuseUpdate (s : State) : State :=
  { s with parts := s.parts.map fun e => (e.1, (e.2.report .updateRefused).vector 3) }

/-- The firmware puts double words into the successor area of every partition's reserved region (R337, R432;
notes/assumptions/81.md). -/
def State.toSuccessorArea (s : State) (ws : List DWord) : State :=
  s.parts.foldl (fun s e => match e.2.choice.regionPlace none (Config.successorArea s.tick).toNat ws.length with
    | some b => s.storeWords (e.2.regs.shelfb.toNat + 8 * b) ws
    | none => s) s

/-- `UPDATE_FIRMWARE`: the container is copied into the successor area, and the successor is checked and measured; the command is busy
until the handover. A container that holds an uncorrectable error, or lies behind a port that is down (R421), passes no check. -/
def State.updateFirmwareBody (arg0 arg1 : DWord) (s : State) : State × Nat :=
  if arg1 = 0 ∨ 2 ^ 52 < arg0.toNat + arg1.toNat ∨ (touched (2 ^ 26) arg0.toNat arg1.toNat).any fun g => Cells.get 0 s.granules g != 0
  then (s, 1)
  else if s.unclean arg0.toNat arg1.toNat then (s.refuseUpdate, 3)
  else
    let copied := s.toSuccessorArea (s.words arg0.toNat ((arg1.toNat + 7) / 8))
    match Config.parseLvc (s.bytes arg0.toNat arg1.toNat) with
    | none => (s.refuseUpdate, 3)
    | some l =>
      if !s.successorOk l then (s.refuseUpdate, 3)
      else
        let s := copied
        let s := (firmwareSegments l).foldl (fun s x => s.measure 2 x.measurement) s
        ({ s with fw := { s.fw with successor := some l.version }, pfBusy := true }, 0)
/-- `UPDATE_FIRMWARE`. -/
def execUpdateFirmware (arg0 arg1 : DWord) (s : State) : Host.Outcome State Fault Refusal :=
  .next (s.pfCommand arg0 arg1 State.updateFirmwareBody)

/-- `FIRMWARE_HANDOVER`: at the end of the pass the firmware writes what it preserves and jumps to the successor, which goes on with
all of it. -/
def execFirmwareHandover (s : State) : Host.Outcome State Fault Refusal :=
  .next (match s.fw.successor with
    | none => s
    | some v =>
      if !s.fw.pass.isEmpty then s
      else
        let s := s.toSuccessorArea (Config.preservedTable s.parts s.portGrant s.cxlDown)
        { s with fw := { s.fw with version := v, successor := none }, pfBusy := false })

/-! ## BAR 0 of the physical function (R348) -/

/-- What a command does with its arguments; a number that names none is out of range. -/
def State.pfBody (cmd : Nat) : DWord → DWord → State → State × Nat :=
  match cmd with
  | 1 => State.createPartitionBody
  | 2 => State.destroyPartitionBody
  | 3 => State.setGranuleKeyBody
  | 4 => State.grantQueueBody
  | 5 => State.grantPortBody
  | 6 => State.updateFirmwareBody
  | 7 => State.setSharedSeverityBody
  | _ => fun _ _ s => (s, 1)

/-- A write at an offset of BAR 0 of the physical function: PFCMD, or an argument. -/
def State.writePf (s : State) (off : Nat) (v : DWord) : State :=
  match off with
  | 0x000 => s.pfCommand (Cells.get 0 s.pfArg 0) (Cells.get 0 s.pfArg 1) (State.pfBody v.toNat)
  | 0x008 | 0x010 | 0x018 | 0x020 => { s with pfArg := Cells.set 0 s.pfArg ((off - 0x008) / 8) v }
  | _ => s

/-- What a read there gives: the arguments, and PFST with its busy bit and its status. -/
def State.readPf (s : State) (off : Nat) : Option DWord :=
  match off with
  | 0x008 | 0x010 | 0x018 | 0x020 => some (Cells.get 0 s.pfArg ((off - 0x008) / 8))
  | 0x028 => some (BitVec.ofNat 64 (bit s.pfBusy + s.pfStatus.toNat * 256))
  | _ => none

/-- `REGISTER_WRITE`: a supervisor writes at an offset of its function's BAR 0. -/
def execRegisterWrite (f : PcieFunction) (off : BitVec 16) (v : DWord) (s : State) : Host.Outcome State Fault Refusal :=
  .next (match f with
    | .virtual p => s.writeRegister p off.toNat v
    | .physical => s.writePf off.toNat v)

end Sys2Proof.Machine
end

