-- ==== Sys2Proof/Machine/Services.lean ====
section
/-!
DEFINITION. The services of `ccall` (spec/06 R149, spec/23_firmware_boot_power.md R430) and those of a partition's supervisor (R431,
R434, R435).
-/
namespace Sys2Proof.Machine

/-! ## Services of `ccall` (R149, R430) -/

/-- The firmware writes a status and a result, and the `ccall` is complete. -/
def Group.answered (g : Group) (status result : DWord) : Group := ((g.setS 0 status).setS 1 result).completed (g.pc + 4)

/-- Answer a `ccall` of one of the service numbers that waits. -/
def State.service (s : State) (p : PartNo) (gid : Nat) (num : BitVec 16 → Bool) (body : Ctx → State) : State :=
  match s.ctx? p gid with
  | none => s
  | some c => match c.g.stage with
    | .asked n => if num n && s.fw.serving then body c else s
    | _ => s

/-- Answer, the partition changed. -/
def Ctx.answer (c : Ctx) (P : Part) (status : DWord) : State :=
  c.s.setPart c.p (P.modGroup c.gid fun g => g.answered status 0)

/-- `NULL`: 0, 0. -/
def execNull (p : PartNo) (gid : Nat) (s : State) : Host.Outcome State Fault Refusal :=
  .next (s.service p gid (· == 0) fun c => c.answer c.P 0)

/-- `DEBUG`: s1 to s7 and the requester identifier go to the debug ring. -/
def execDebug (p : PartNo) (gid : Nat) (s : State) : Host.Outcome State Fault Refusal :=
  .next (s.service p gid (· == 1) fun c =>
    let words := (List.range 7).map fun k => c.g.sreg (BitVec.ofNat 5 (k + 1))
    c.answer { c.P with debug := c.P.debug ++ words ++ [(c.P.requester c.gid 0).setWidth 64] } 0)

/-- `SIGADD`: s2 is added to the slot s1[11:0]. -/
def execSigadd (p : PartNo) (gid : Nat) (s : State) : Host.Outcome State Fault Refusal :=
  .next (s.service p gid (· == 2) fun c =>
    if 4096 ≤ (c.g.sreg 1).toNat then c.answer c.P 1 else c.answer (c.P.signalAdd (c.g.sreg 1).toNat (c.g.sreg 2)) 0)

/-- `SLEEP`: the time begins to run; a time out of range is answered at once. -/
def execSleep (p : PartNo) (gid : Nat) (s : State) : Host.Outcome State Fault Refusal :=
  .next (s.service p gid (· == 3) fun c =>
    if 1000000 < (c.g.sreg 1).toNat then c.answer c.P 1 else c.put { c.g with stage := .sleeping })

/-- `SLEEP_EXPIRY`: the time has run: 0, 0. -/
def execSleepExpiry (p : PartNo) (gid : Nat) (s : State) : Host.Outcome State Fault Refusal :=
  .next (match s.ctx? p gid with
    | none => s
    | some c => if c.g.stage = .sleeping ∧ s.fw.serving then c.answer c.P 0 else s)

/-- `UNKNOWN_SERVICE`: all ones, 0. -/
def execUnknownService (p : PartNo) (gid : Nat) (s : State) : Host.Outcome State Fault Refusal :=
  .next (s.service p gid (fun n => decide (4 ≤ n.toNat)) fun c => c.answer c.P (BitVec.allOnes 64))

/-! ## Services of the supervisor (R431) -/

/-- SVCARGk. -/
def Part.arg (P : Part) (k : Nat) : DWord := Cells.get 0 P.regs.svcArg k

/-- A `cpyv` holds a line that a command reads or writes: it is carried out later (R216). Those of 4 and 6 lie in memory of the
partition's own, at places that its tables give. -/
def State.commandHeld (s : State) (P : Part) (cmd : Nat) : Bool :=
  let at' (k n : Nat) : Bool := s.rangeHeld (P.arg k).toNat n
  match cmd with
  | 1 => P.frozen && s.areaHeld P
  | 3 => at' 2 64
  | 4 | 6 => !P.run.held.isEmpty
  | 5 => at' 1 (P.arg 2).toNat
  | 8 => at' 1 32
  | 9 => at' 1 64
  | 10 => at' 0 32 || at' 1 608
  | _ => false

/-- Carry out the command that waits in SVCCMD, between passes; its body gives the state and the status. -/
def State.command (s : State) (p : PartNo) (cmd : Nat) (body : State → Part → State × Nat) : State :=
  match s.part? p with
  | none => s
  | some P =>
    if P.regs.svcBusy ≠ some (BitVec.ofNat 8 cmd) ∨ !s.fw.serving ∨ !s.fw.pass.isEmpty ∨ s.commandHeld P cmd then s
    else
      let r := body s P
      r.1.modPart p fun P => P.setRegs fun x => { x with svcBusy := none, svcStatus := BitVec.ofNat 8 r.2 }

/-- `FREEZE`: a freeze begins; of a partition that is frozen a further image is written (R396). -/
def execFreeze (p : PartNo) (s : State) : Host.Outcome State Fault Refusal :=
  .next (s.command p 1 fun s P =>
    if P.frozen then
      let P := { P with reason := P.reason ||| 1 }
      ((s.setPart p P).finishFreeze p P, 0)
    else (s.setPart p (P.freeze 0), 0))

/-- `REGISTER_IMAGE_AREA` (R399). -/
def execRegisterImageArea (p : PartNo) (s : State) : Host.Outcome State Fault Refusal :=
  .next (s.command p 2 fun s P =>
    let pa := (P.arg 0).toNat
    let size := (P.arg 1).toNat
    if s.owned P pa size then (s.setPart p { P with imageArea := some (pa, size) }, 0) else (s, 1))

/-- A stream-table entry as R362 lays it out. -/
def Stream.entry (st : Stream) : Nat :=
  st.id.toNat * 2 ^ 192 + st.kind.toNat * 2 ^ 188 + bit st.exh * 2 ^ 187 + st.roff.toNat * 2 ^ 160 +
    st.recs.length % 2 ^ 32 * 2 ^ 128 + st.cur.toNat * 2 ^ 96 + st.base.toNat

/-- A directory entry as R174 lays it out. -/
def DirEntry.entry (d : DirEntry) : Nat :=
  d.name.toNat * 2 ^ 192 + d.version.toNat * 2 ^ 160 + d.backing % 2 ^ 40 * 2 ^ 120 + d.count.toNat * 2 ^ 114 +
    d.base.toNat * 2 ^ 106 + d.core.toNat * 2 ^ 99 + d.state.toNat * 2 ^ 96 + bit d.pin * 2 ^ 95 + d.readers.toNat * 2 ^ 90 +
    bit d.writer * 2 ^ 89 + d.detached.toNat

/-- What command 3 copies: a length and a number; none where the kind, the index or the name is out of range. -/
def Part.tableEntry (P : Part) : Option (Nat × Nat) :=
  match (P.arg 0).toNat with
  | 0 => some (64, P.choice.block)
  | 1 => if streamEntries ≤ (P.arg 1).toNat then none
    else some (32, ((Table.get? P.choice.streams (P.arg 1).toNat).map Stream.entry).getD 0)
  | 2 => (P.run.dir.find? fun e => e.2.name == P.arg 1).map fun e => (32, e.2.entry)
  | _ => none

/-- `COPY_TABLE_ENTRY`. -/
def execCopyTableEntry (p : PartNo) (s : State) : Host.Outcome State Fault Refusal :=
  .next (s.command p 3 fun s P =>
    match P.tableEntry with
    | none => (s, 1)
    | some (n, x) =>
      let pa := (P.arg 2).toNat
      if s.hostOrOwned P pa n then (s.storeNum pa n x, 0) else (s, 1))

/-- Physical address that the partition's tables give for an address of it, whatever its page allows. -/
def State.loadPa (s : State) (P : Part) (va : Nat) : Option Nat :=
  match s.walk P va 3 P.regs.ptroot.toNat with
  | .leaf _ pte level =>
    let pa := field pte 13 39 * 8192 + va % levelSize level
    if BitVec.ofNat 8 (field pte 52 8) == P.regs.pkey && s.owner pa == P.regs.pkey && !P.inRegion pa then some pa else none
  | _ => none

/-- A request to an object has not been answered. -/
def Part.objectBusy (P : Part) (id : Nat) : Bool :=
  P.run.whisks.any fun e => e.2.id.toNat == id && (match e.2.place with
    | .answered _ _ => false
    | _ => true)

/-- `CLEAR_SPOIL` (R302). -/
def execClearSpoil (p : PartNo) (s : State) : Host.Outcome State Fault Refusal :=
  .next (s.command p 4 fun s P =>
    let va := (P.arg 0).toNat % 2 ^ 56 / 64 * 64
    match if canonical (P.arg 0) then s.loadPa P va else none with
    | none => (s, 1)
    | some pa =>
      if P.objectBusy (va / 64) then (s, 3)
      else if s.unclean (pa + 56) 8 then (s.readError p P (pa + 56), 1)
      else
        let h := s.num (pa + 56) 8
        (s.writeHeader p pa (if bitOf h 47 then h - 2 ^ 47 else h), 0))

/-- The bytes of the debug ring, and those of the error log in ring order (R351). -/
def Part.ringBytes (P : Part) (kind k : Nat) : Byte :=
  if kind = 0 then BitVec.ofNat 8 ((List.getD P.debug (k / 8) 0).toNat / 2 ^ (8 * (k % 8)))
  else BitVec.ofNat 8 ((Cells.get 0 P.elog (k / 32 % 4096)).toNat / 2 ^ (8 * (k % 32)))

/-- `COPY_DEBUG_RING`: up to 4,096 bytes of the debug ring or of the error log. -/
def execCopyDebugRing (p : PartNo) (s : State) : Host.Outcome State Fault Refusal :=
  .next (s.command p 5 fun s P =>
    let kind := (P.arg 0).toNat
    let pa := (P.arg 1).toNat
    let n := (P.arg 2).toNat
    if 1 < kind ∨ 4096 < n ∨ !s.hostOrOwned P pa n then (s, 1)
    else (s.store pa ((List.range n).map fun k => P.ringBytes kind (Config.ringOffset s.tick kind + k)), 0))

/-! ## Loading an LVC (R434) -/

/-- The first n numbers from `lo` to `hi − 1` that a table does not list. -/
def freeKeys {α : Type} (t : Table α) (lo hi n : Nat) : List Nat :=
  ((List.range (hi - lo)).map (lo + ·)).filter (fun k => !Table.has t k) |>.take n

/-- Bytes with the physical address each goes to, page by page; none where a page does not translate. -/
def State.spread (s : State) (P : Part) (va : Nat) (bs : List Byte) : Option (List (Nat × List Byte)) :=
  (touched 65536 va bs.length).foldr (fun page (acc : Option (List (Nat × List Byte))) =>
    acc.bind fun l =>
      let lo := max va (page * 65536)
      (s.loadPa P (lo % 2 ^ 56)).map fun pa => (pa, (bs.drop (lo - va)).take (page * 65536 + 65536 - lo)) :: l) (some [])

/-- A segment's places in memory: code and data alone have some. -/
def State.segmentPlaces (s : State) (P : Part) (x : Config.LvcSegment) : Option (List (Nat × List Byte)) :=
  if x.kind ≤ 1 then s.spread P (x.va.toNat % 2 ^ 56) x.bytes else some []

/-- Class number of an object: a built-in one, or that of the container's k-th user class. -/
def classNumber (numbers : List Nat) (c : Nat) : Nat := if c < 16 then c else numbers.getD (c - 16) 0

/-- A segment passes its checks (R434 steps 1 and 2), and its addresses translate. -/
def State.segmentLoads (s : State) (P : Part) (header : BitVec 512) (x : Config.LvcSegment) : Bool :=
  decide (x.kind ≤ 4) && segmentOk header (Table.get? P.keys x.key) x && (s.segmentPlaces P x).isSome

/-- Put a segment in place: its bytes and, for code, the marks of its frames (R434 step 4). -/
def State.placeSegment (s : State) (P : Part) (x : Config.LvcSegment) : State :=
  ((s.segmentPlaces P x).getD []).foldl (fun s e =>
    let s := s.store e.1 e.2
    if x.kind = 0 then { s with execFrames := insertNum s.execFrames (e.1 / 65536) } else s) s

/-- The tables of a partition that has loaded a segment, M5 extended with it (R434 steps 3 and 5); the free numbers are taken in
order. -/
def Part.loadedSegment (P : Part) (x : Config.LvcSegment) (kerns : List Nat) (numbers : List (Nat × Bool)) : Part :=
  let P := P.measure 5 x.measurement
  { P with
    kernels := (kerns.zip x.kernels).foldl (fun t e => Table.set t e.1 e.2) P.kernels
    classes := (numbers.zip x.classes).foldl (fun t e => Table.set t e.1.1 (⟨sortBy Prod.fst e.2, e.1.2⟩ : UserClass)) P.classes }

/-- The segments of a container in table order, up to the first that fails: the state, and whether all have loaded. -/
def State.loadSegments (s : State) (p : PartNo) (header : BitVec 512) :
    List Config.LvcSegment → List Nat → List (Nat × Bool) → State × Bool
  | [], _, _ => (s, true)
  | x :: rest, kerns, numbers =>
    match s.part? p with
    | none => (s, false)
    | some P =>
      if !s.segmentLoads P header x then (s, false)
      else ((s.placeSegment P x).modPart p fun P => P.loadedSegment x kerns numbers).loadSegments p header rest
        (kerns.drop x.kernels.length) (numbers.drop x.classes.length)

/-- Frames of a container's code segments that a load has marked executable. -/
def State.codeFrames (s : State) (P : Part) (l : Config.Lvc) : List Nat :=
  (((l.segments.filter fun x => x.kind == 0).map fun x => (s.segmentPlaces P x).getD []).flatten.map fun e => e.1 / 65536).filter
    s.execFrames.contains
/-- The kernels that a load has entered have the container's code pages for theirs (R41). -/
def Part.ownCode (P : Part) (kerns frames : List Nat) : Part :=
  { P with code := (kerns.filter (Table.has P.kernels)).foldl (fun t k => Table.set t k frames) P.code }

/-- CLASS of every object that the container declares. -/
def State.placeObjects (s : State) (P : Part) (objects : List (DWord × Nat)) (numbers : List Nat) : State :=
  objects.foldl (fun s o => match s.loadPa P (o.1.toNat % 2 ^ 56) with
    | some pa => s.storeNum (pa + 62) 2 (classNumber numbers o.2)
    | none => s) s

/-- `LOAD_LVC`: the segments of a container are checked, measured and loaded in table order; the first that fails ends the load with
status 1, what came before it stays. Where the kernel table or the class range is full, nothing is loaded. -/
def execLoadLvc (p : PartNo) (s : State) : Host.Outcome State Fault Refusal :=
  .next (s.command p 6 fun s P =>
    let pa := (P.arg 0).toNat
    let n := field (P.arg 1) 0 32
    let dest := (P.arg 2).toNat
    if s.owned P pa n ∧ s.unclean pa n then (s.readError p P pa, 1)
    else match if s.owned P pa n then Config.parseLvc (s.bytes pa n) else none with
    | none => (s, 1)
    | some l =>
      let kerns := freeKeys P.kernels 0 1024 l.kernels.length
      let numbers := freeKeys P.classes 16 4096 l.classes.length
      let marks := (List.range numbers.length).map fun k => bitOf (field (P.arg 1) 32 32) k
      if !s.owned P dest (8 * (l.kernels.length + l.classes.length)) then (s, 1)
      else if kerns.length < l.kernels.length ∨ numbers.length < l.classes.length then (s, 2)
      else
        let r := s.loadSegments p l.headerHash l.segments kerns (numbers.zip marks)
        match (r.1.modPart p fun Q => Q.ownCode kerns (r.1.codeFrames P l), r.2) with
        | (s, false) => (s, 1)
        | (s, true) =>
          if !(l.objects.all fun o => (s.loadPa P (o.1.toNat % 2 ^ 56)).isSome) then (s, 1)
          else ((s.placeObjects P l.objects numbers).storeWords dest
            (kerns.map (BitVec.ofNat 64) ++ numbers.map fun k => BitVec.ofNat 64 (2 ^ 63 + k)), 0))

/-- `UNLOAD_KERNEL`. -/
def execUnloadKernel (p : PartNo) (s : State) : Host.Outcome State Fault Refusal :=
  .next (s.command p 7 fun s P =>
    let k := (P.arg 0).toNat
    if !Table.has P.kernels k then (s, 1)
    else if P.run.launches.any fun e => e.2.kern == k then (s, 3)
    else (s.setPart p { P with kernels := Table.erase P.kernels k, code := Table.erase P.code k }, 0))

/-- `SET_TRUSTED_KEY`. -/
def execSetTrustedKey (p : PartNo) (s : State) : Host.Outcome State Fault Refusal :=
  .next (s.command p 8 fun s P =>
    let k := (P.arg 0).toNat
    let pa := (P.arg 1).toNat
    if 16 ≤ k then (s, 1)
    else if pa = 0 then (s.setPart p { P with keys := Table.erase P.keys k }, 0)
    else if !s.owned P pa 32 then (s, 1)
    else if s.unclean pa 32 then (s.readError p P pa, 1)
    else (s.setPart p { P with keys := Table.set P.keys k (BitVec.ofNat 256 (s.num pa 32)) }, 0))

/-- `EXTEND_MEASUREMENT` of M6 or M7. -/
def execExtendMeasurement (p : PartNo) (s : State) : Host.Outcome State Fault Refusal :=
  .next (s.command p 9 fun s P =>
    let k := (P.arg 0).toNat
    let pa := (P.arg 1).toNat
    if (k ≠ 6 ∧ k ≠ 7) ∨ !s.owned P pa 64 then (s, 1)
    else if s.unclean pa 64 then (s.readError p P pa, 1)
    else (s.setPart p (P.measure k (BitVec.ofNat 512 (s.num pa 64))), 0))

/-- M0 to M7 as the attestation record holds them. -/
def State.measurements (s : State) (P : Part) : List Byte :=
  ((List.range 8).map fun k => bytesOf512 (Cells.get 0 (if k < 4 then s.meas else P.meas) k)).flatten

/-- `ATTEST`: M0 to M7, the nonce, and the signature over their SHA-512. -/
def execAttest (p : PartNo) (s : State) : Host.Outcome State Fault Refusal :=
  .next (s.command p 10 fun s P =>
    let from' := (P.arg 0).toNat
    let dest := (P.arg 1).toNat
    if !s.owned P from' 32 ∨ !s.owned P dest 608 then (s, 1)
    else if s.unclean from' 32 then (s.readError p P from', 1)
    else
      let m := s.measurements P ++ s.bytes from' 32
      (s.store dest (m ++ bytesOf512 (Config.attestation (sha512 m))), 0))

end Sys2Proof.Machine
end

