-- ==== Sys2Proof/Machine/Sync.lean ====
section
/-!
DEFINITION. Barrier instructions and `fence` (spec/11_core_sync_faults.md R259 to R267).
-/
namespace Sys2Proof.Machine

/-! ## Barriers (R260 to R264) -/

/-- The trap 0x21 for a level and a barrier (R264). -/
def barrierTrap (level bar reason : Nat) : Trap := trapOf 0x21 (level + bar * 2 ^ 2 + reason * 2 ^ 8)

/-- The over-arrival trap (R264). -/
def overArrival (level bar : Nat) (b : Barrier) (dropped : Bool) (grp : Nat) : Trap :=
  trapOf 0x20 (level + bar * 2 ^ 2 + b.ord % 16 * 2 ^ 6 + bit dropped * 2 ^ 10 + grp * 2 ^ 11)

/-- The group arrives for its member at a level (R260). -/
def Team.arriving (t : Team) (grp level : Nat) : Bool :=
  match level with
  | 0 => true
  | 1 => grp == 0
  | _ => grp == 0 && t.rank == 0

/-- The checks of R264 that do not depend on the phase. -/
def Ctx.barrierTeam (c : Ctx) (level bar : Nat) (arrives : Bool) (body : Team → Res) : Res :=
  match c.team? with
  | none => .gone c.s
  | some t =>
    if level = 2 ∧ !((c.P.launchOf t).any Launch.coresident) then .trap c.s (barrierTrap level bar 0)
    else if arrives && !t.arriving (gidGroup c.gid) level then .trap c.s (barrierTrap level bar 1)
    else body t

/-- What a group waits for at a barrier: the phase, or, once every arrival has been counted, the decision of the role, which in
RECORD mode is held up by a full record buffer alone (R368). -/
def Ctx.barrierWait (c : Ctx) (t : Team) (level bar : Nat) (b : Barrier) : Res :=
  if b.count = b.expect ∧ 2 ≤ b.cands.length then
    if c.P.mode = mRECORD then .wait c.s .host else .wait c.s (.gate .bar (c.P.barDomain t level bar) b.n)
  else .wait c.s (.barrier level bar (b.ord % 16))

/-- The return of an `arv` or `bwait` for a phase: the role flag, or the uniform-writer trap (R31, R263). -/
def Ctx.barrierReturn (c : Ctx) (t : Team) (level bar p : Nat) (r : SReg) : Res :=
  let due := if level = 0 ∧ bar = 0 then t.dueFor (gidGroup c.gid) (fun o => o % 16 == p) else none
  match due with
  | some u => .trap (c.setP (c.P.undue c.tk u)).s u.trap
  | none =>
    let role := (c.P.bar t level bar).role == some (c.P.member t (gidGroup c.gid) level, p)
    c.finish ({ c.g with stage := .fresh }.setS r (BitVec.ofNat 64 (p + bit role * 16)))

/-- An arrival: the traps 0x20 and 0x22, then the count (R261, R263). -/
def Ctx.arrival (c : Ctx) (level bar : Nat) (drop cand : Bool) (body : Ctx → Barrier → Res) : Res :=
  c.closed fun c => c.barrierTeam level bar true fun t =>
    let b := c.P.bar t level bar
    let m := c.P.member t (gidGroup c.gid) level
    if !b.subscribed m || b.arrived m then .trap c.s (overArrival level bar b (!b.subscribed m) (gidGroup c.gid))
    else match (if level = 0 ∧ bar = 0 then t.dueFor (gidGroup c.gid) (fun _ => true) else none) with
      | some u => .trap (c.setP (c.P.undue c.tk u)).s u.trap
      | none => body (c.reload (c.s.arrive c.p c.tk level bar m drop cand)) b

/-- An `arv` that has arrived in the phase with an ordinal waits for its completion. -/
def Ctx.awaitPhase (c : Ctx) (level bar ord : Nat) (r : SReg) : Res :=
  match c.team? with
  | none => .gone c.s
  | some t =>
    let b := c.P.bar t level bar
    if b.ord ≤ ord then c.barrierWait t level bar b else c.barrierReturn t level bar (ord % 16) r

def execArv (v : BitVec 2) (b : BitVec 4) (r : SReg) (s : State) : Host.Outcome State Fault Refusal :=
  issue (.arv v b r) s fun c => c.outside (.arv v b r) fun c =>
    match c.g.stage with
    | .arrived ord => c.awaitPhase v.toNat b.toNat ord r
    | _ => c.arrival v.toNat b.toNat false true fun c x =>
      (c.setG { c.g with stage := .arrived x.ord }).awaitPhase v.toNat b.toNat x.ord r

/-- An arrival that does not wait writes its phase. -/
def Ctx.arriveOnly (c : Ctx) (level bar : Nat) (drop cand : Bool) (r : SReg) : Res :=
  c.arrival level bar drop cand fun c x => c.finish (c.g.setS r (BitVec.ofNat 64 (x.ord % 16)))

def execArva (v : BitVec 2) (b : BitVec 4) (r : SReg) (s : State) : Host.Outcome State Fault Refusal :=
  issue (.arva v b r) s fun c => c.outside (.arva v b r) fun c => c.arriveOnly v.toNat b.toNat false true r
def execArvd (v : BitVec 2) (b : BitVec 4) (r : SReg) (s : State) : Host.Outcome State Fault Refusal :=
  issue (.arvd v b r) s fun c => c.outside (.arvd v b r) fun c => c.arriveOnly v.toNat b.toNat true false r

def execBwait (v : BitVec 2) (b : BitVec 4) (r : SReg) (s : State) : Host.Outcome State Fault Refusal :=
  issue (.bwait v b r) s fun c => c.outside (.bwait v b r) fun c =>
    c.closed fun c => c.barrierTeam v.toNat b.toNat false fun t =>
      let x := c.P.bar t v.toNat b.toNat
      let p := (c.g.sreg r).toNat % 16
      if x.ord % 16 = p then c.barrierWait t v.toNat b.toNat x else c.barrierReturn t v.toNat b.toNat p r

/-! ## `fence` (R267, R420) -/

/-- The commit of a `fence` at cluster scope or wider, and its acknowledgements. -/
def Ctx.fenceCommit (c : Ctx) (scope : Nat) : Res := c.commits fun c => c.acked scope fun c => .done c.s

def execFence (sc k : BitVec 3) (s : State) : Host.Outcome State Fault Refusal :=
  issue (.fence sc k) s fun c =>
    match c.g.stage with
    | .acking => c.acked sc.toNat fun c => .done c.s
    | .anchored | .committing => c.fenceCommit sc.toNat
    | _ => c.closed fun c =>
      if k ≠ 1 ∧ 4 ≤ sc.toNat ∧ c.P.run.sights.any fun e => e.gid == c.gid then .wait c.s .inFlight
      else if k = 0 then .done c.s
      else if !c.g.drained then .wait c.s .inFlight
      else if 3 ≤ sc.toNat then (c.reload (c.s.anchor c.p c.tk)).fenceCommit sc.toNat
      else .done c.s

end Sys2Proof.Machine
end

