-- ==== Sys2Proof/Machine/Dispatch.lean ====
section
/-!
DEFINITION. Which meaning each instruction has: one arm for each constructor of `Instr`, in the order of
spec/opcode_table.json.
-/
namespace Sys2Proof.Machine

/-- What an instruction, an operation or an event does. -/
def exec (i : Instr) (s : State) : Host.Outcome State Fault Refusal :=
  match i with
  | .nop => Sys2Proof.Machine.execNop s
  | .exit => Sys2Proof.Machine.execExit s
  | .bra o => Sys2Proof.Machine.execBra o s
  | .call l o => Sys2Proof.Machine.execCall l o s
  | .callr d a => Sys2Proof.Machine.execCallr d a s
  | .jr a => Sys2Proof.Machine.execJr a s
  | .brany q n o => Sys2Proof.Machine.execBrany q n o s
  | .brall q n o => Sys2Proof.Machine.execBrall q n o s
  | .brnone q n o => Sys2Proof.Machine.execBrnone q n o s
  | .bz st o => Sys2Proof.Machine.execBz st o s
  | .bnz st o => Sys2Proof.Machine.execBnz st o s
  | .emand q n => Sys2Proof.Machine.execEmand q n s
  | .emelse => Sys2Proof.Machine.execEmelse s
  | .empop => Sys2Proof.Machine.execEmpop s
  | .emrd d => Sys2Proof.Machine.execEmrd d s
  | .emwr a => Sys2Proof.Machine.execEmwr a s
  | .mode m => Sys2Proof.Machine.execMode m s
  | .pmode p => Sys2Proof.Machine.execPmode p s
  | .moder a => Sys2Proof.Machine.execModer a s
  | .trap imm => Sys2Proof.Machine.execTrap imm s
  | .brk => Sys2Proof.Machine.execBrk s
  | .tret => Sys2Proof.Machine.execTret s
  | .xset k v imm => Sys2Proof.Machine.execXset k v imm s
  | .xbnd k l h => Sys2Proof.Machine.execXbnd k l h s
  | .xadd k imm => Sys2Proof.Machine.execXadd k imm s
  | .xrd k d => Sys2Proof.Machine.execXrd k d s
  | .choose d a => Sys2Proof.Machine.execChoose d a s
  | .ccall imm => Sys2Proof.Machine.execCcall imm s
  | .anch => Sys2Proof.Machine.execAnch s
  | .add d a b => Sys2Proof.Machine.execAdd d a b s
  | .sub d a b => Sys2Proof.Machine.execSub d a b s
  | .mul d a b => Sys2Proof.Machine.execMul d a b s
  | .mulh d a b => Sys2Proof.Machine.execMulh d a b s
  | .mad d a b => Sys2Proof.Machine.execMad d a b s
  | .msb d a b => Sys2Proof.Machine.execMsb d a b s
  | .mad2 d a b => Sys2Proof.Machine.execMad2 d a b s
  | .dot4 d a b => Sys2Proof.Machine.execDot4 d a b s
  | .abs d a => Sys2Proof.Machine.execAbs d a s
  | .neg d a => Sys2Proof.Machine.execNeg d a s
  | .min d a b => Sys2Proof.Machine.execMin d a b s
  | .max d a b => Sys2Proof.Machine.execMax d a b s
  | .avg d a b => Sys2Proof.Machine.execAvg d a b s
  | .rsh d a b => Sys2Proof.Machine.execRsh d a b s
  | .addi d a imm => Sys2Proof.Machine.execAddi d a imm s
  | .muli d a imm => Sys2Proof.Machine.execMuli d a imm s
  | .and d a b => Sys2Proof.Machine.execAnd d a b s
  | .or d a b => Sys2Proof.Machine.execOr d a b s
  | .xor d a b => Sys2Proof.Machine.execXor d a b s
  | .andn d a b => Sys2Proof.Machine.execAndn d a b s
  | .not d a => Sys2Proof.Machine.execNot d a s
  | .shl d a b => Sys2Proof.Machine.execShl d a b s
  | .shr d a b => Sys2Proof.Machine.execShr d a b s
  | .sar d a b => Sys2Proof.Machine.execSar d a b s
  | .rol d a b => Sys2Proof.Machine.execRol d a b s
  | .shli d a c => Sys2Proof.Machine.execShli d a c s
  | .shri d a c => Sys2Proof.Machine.execShri d a c s
  | .sari d a c => Sys2Proof.Machine.execSari d a c s
  | .clz d a => Sys2Proof.Machine.execClz d a s
  | .popc d a => Sys2Proof.Machine.execPopc d a s
  | .brev d a => Sys2Proof.Machine.execBrev d a s
  | .bfx d a p l => Sys2Proof.Machine.execBfx d a p l s
  | .ceq c q a b => Sys2Proof.Machine.execCeq c q a b s
  | .cne c q a b => Sys2Proof.Machine.execCne c q a b s
  | .clt c q a b => Sys2Proof.Machine.execClt c q a b s
  | .cle c q a b => Sys2Proof.Machine.execCle c q a b s
  | .cun c q a b => Sys2Proof.Machine.execCun c q a b s
  | .ctst c q a b => Sys2Proof.Machine.execCtst c q a b s
  | .qop o d a b => Sys2Proof.Machine.execQop o d a b s
  | .qfv d a b => Sys2Proof.Machine.execQfv d a b s
  | .qfvAll a => Sys2Proof.Machine.execQfvAll a s
  | .qtv d => Sys2Proof.Machine.execQtv d s
  | .mov d a => Sys2Proof.Machine.execMov d a s
  | .movi d imm => Sys2Proof.Machine.execMovi d imm s
  | .movhi d imm => Sys2Proof.Machine.execMovhi d imm s
  | .sel d a b => Sys2Proof.Machine.execSel d a b s
  | .shfl d a b => Sys2Proof.Machine.execShfl d a b s
  | .hslide d a r => Sys2Proof.Machine.execHslide d a r s
  | .vfill d a => Sys2Proof.Machine.execVfill d a s
  | .fadd d a b => Sys2Proof.Machine.execFadd d a b s
  | .fsub d a b => Sys2Proof.Machine.execFsub d a b s
  | .fmul d a b => Sys2Proof.Machine.execFmul d a b s
  | .fma d a b => Sys2Proof.Machine.execFma d a b s
  | .fms d a b => Sys2Proof.Machine.execFms d a b s
  | .fmin d a b => Sys2Proof.Machine.execFmin d a b s
  | .fmax d a b => Sys2Proof.Machine.execFmax d a b s
  | .fdiv d a b => Sys2Proof.Machine.execFdiv d a b s
  | .fsqrt d a => Sys2Proof.Machine.execFsqrt d a s
  | .frcp d a => Sys2Proof.Machine.execFrcp d a s
  | .frsq d a => Sys2Proof.Machine.execFrsq d a s
  | .fexp2 d a => Sys2Proof.Machine.execFexp2 d a s
  | .flog2 d a => Sys2Proof.Machine.execFlog2 d a s
  | .fsinpi d a => Sys2Proof.Machine.execFsinpi d a s
  | .fcospi d a => Sys2Proof.Machine.execFcospi d a s
  | .frint d a => Sys2Proof.Machine.execFrint d a s
  | .fclass c q a m => Sys2Proof.Machine.execFclass c q a m s
  | .cvt d a t => Sys2Proof.Machine.execCvt d a t s
  | .fscale d a b => Sys2Proof.Machine.execFscale d a b s
  | .fgetexp d a => Sys2Proof.Machine.execFgetexp d a s
  | .fnanc d a => Sys2Proof.Machine.execFnanc d a s
  | .fdot2 d a b => Sys2Proof.Machine.execFdot2 d a b s
  | .sadd d a b => Sys2Proof.Machine.execSadd d a b s
  | .ssub d a b => Sys2Proof.Machine.execSsub d a b s
  | .smul d a b => Sys2Proof.Machine.execSmul d a b s
  | .saddi d a imm => Sys2Proof.Machine.execSaddi d a imm s
  | .sand d a b => Sys2Proof.Machine.execSand d a b s
  | .sor d a b => Sys2Proof.Machine.execSor d a b s
  | .sxor d a b => Sys2Proof.Machine.execSxor d a b s
  | .sshlReg d a b => Sys2Proof.Machine.execSshlReg d a b s
  | .sshlImm d a c => Sys2Proof.Machine.execSshlImm d a c s
  | .sshrReg d a b => Sys2Proof.Machine.execSshrReg d a b s
  | .sshrImm d a c => Sys2Proof.Machine.execSshrImm d a c s
  | .ssarReg d a b => Sys2Proof.Machine.execSsarReg d a b s
  | .ssarImm d a c => Sys2Proof.Machine.execSsarImm d a c s
  | .smovi d imm => Sys2Proof.Machine.execSmovi d imm s
  | .smovs d imm => Sys2Proof.Machine.execSmovs d imm s
  | .sceq d a b => Sys2Proof.Machine.execSceq d a b s
  | .sclt d a b => Sys2Proof.Machine.execSclt d a b s
  | .scltn d a b => Sys2Proof.Machine.execScltn d a b s
  | .vred d o m => Sys2Proof.Machine.execVred d o m s
  | .vlane d a p m => Sys2Proof.Machine.execVlane d a p m s
  | .vins a b p m => Sys2Proof.Machine.execVins a b p m s
  | .vote d k p => Sys2Proof.Machine.execVote d k p s
  | .krd d n => Sys2Proof.Machine.execKrd d n s
  | .kwr a n => Sys2Proof.Machine.execKwr a n s
  | .sysrd n st => Sys2Proof.Machine.execSysrd n st s
  | .syswr n st => Sys2Proof.Machine.execSyswr n st s
  | .ldw d a l o => Sys2Proof.Machine.execLdw d a l o s
  | .ldd d a l o => Sys2Proof.Machine.execLdd d a l o s
  | .ldq d a l o => Sys2Proof.Machine.execLdq d a l o s
  | .ldh d a l o => Sys2Proof.Machine.execLdh d a l o s
  | .ldb d a l o => Sys2Proof.Machine.execLdb d a l o s
  | .stw d a l o => Sys2Proof.Machine.execStw d a l o s
  | .std d a l o => Sys2Proof.Machine.execStd d a l o s
  | .stq d a l o => Sys2Proof.Machine.execStq d a l o s
  | .sth d a l o => Sys2Proof.Machine.execSth d a l o s
  | .stb d a l o => Sys2Proof.Machine.execStb d a l o s
  | .ldacq d a l st => Sys2Proof.Machine.execLdacq d a l st s
  | .strel d a l st => Sys2Proof.Machine.execStrel d a l st s
  | .sld d a l o => Sys2Proof.Machine.execSld d a l o s
  | .sst d a l o => Sys2Proof.Machine.execSst d a l o s
  | .lds d a l o => Sys2Proof.Machine.execLds d a l o s
  | .sts d a l o => Sys2Proof.Machine.execSts d a l o s
  | .ldsq d a l o => Sys2Proof.Machine.execLdsq d a l o s
  | .stsq d a l o => Sys2Proof.Machine.execStsq d a l o s
  | .slk x y l => Sys2Proof.Machine.execSlk x y l s
  | .sfill x y l => Sys2Proof.Machine.execSfill x y l s
  | .sevict x f l => Sys2Proof.Machine.execSevict x f l s
  | .cpy d a l st z => Sys2Proof.Machine.execCpy d a l st z s
  | .cpyo d a l z => Sys2Proof.Machine.execCpyo d a l z s
  | .cpyt x y f l => Sys2Proof.Machine.execCpyt x y f l s
  | .cpyv x y l => Sys2Proof.Machine.execCpyv x y l s
  | .tbinit x y l => Sys2Proof.Machine.execTbinit x y l s
  | .tbarr x y l => Sys2Proof.Machine.execTbarr x y l s
  | .tbwait x y => Sys2Proof.Machine.execTbwait x y s
  | .wcnt p t => Sys2Proof.Machine.execWcnt p t s
  | .ckopen x y f l g c => Sys2Proof.Machine.execCkopen x y f l g c s
  | .ckseal x y l => Sys2Proof.Machine.execCkseal x y l s
  | .ckdrop y l => Sys2Proof.Machine.execCkdrop y l s
  | .obres x y l => Sys2Proof.Machine.execObres x y l s
  | .obrel y l => Sys2Proof.Machine.execObrel y l s
  | .obld x y l => Sys2Proof.Machine.execObld x y l s
  | .gath x y l p => Sys2Proof.Machine.execGath x y l p s
  | .mrdy => Sys2Proof.Machine.execMrdy s
  | .mstep x y l t => Sys2Proof.Machine.execMstep x y l t s
  | .mloop x y l t => Sys2Proof.Machine.execMloop x y l t s
  | .mfence x l => Sys2Proof.Machine.execMfence x l s
  | .mwait x => Sys2Proof.Machine.execMwait x s
  | .acfg y f l t => Sys2Proof.Machine.execAcfg y f l t s
  | .arel l t => Sys2Proof.Machine.execArel l t s
  | .azero l t => Sys2Proof.Machine.execAzero l t s
  | .ard v t r l p => Sys2Proof.Machine.execArd v t r l p s
  | .awr v t r l p => Sys2Proof.Machine.execAwr v t r l p s
  | .asave x y l t => Sys2Proof.Machine.execAsave x y l t s
  | .aload x y l t => Sys2Proof.Machine.execAload x y l t s
  | .nanc d a => Sys2Proof.Machine.execNanc d a s
  | .srseed a => Sys2Proof.Machine.execSrseed a s
  | .ascal v t r l => Sys2Proof.Machine.execAscal v t r l s
  | .arv v b st => Sys2Proof.Machine.execArv v b st s
  | .arva v b st => Sys2Proof.Machine.execArva v b st s
  | .arvd v b st => Sys2Proof.Machine.execArvd v b st s
  | .bwait v b st => Sys2Proof.Machine.execBwait v b st s
  | .fence st k => Sys2Proof.Machine.execFence st k s
  | .sendr d a l st z => Sys2Proof.Machine.execSendr d a l st z s
  | .sendb x y f l => Sys2Proof.Machine.execSendb x y f l s
  | .cwait x y => Sys2Proof.Machine.execCwait x y s
  | .cset x y => Sys2Proof.Machine.execCset x y s
  | .ckevict x y f l => Sys2Proof.Machine.execCkevict x y f l s
  | .ckstat x y l => Sys2Proof.Machine.execCkstat x y l s
  | .wcall d a l w g => Sys2Proof.Machine.execWcall d a l w g s
  | .wpost a l w g => Sys2Proof.Machine.execWpost a l w g s
  | .wtake x => Sys2Proof.Machine.execWtake x s
  | .wreply a => Sys2Proof.Machine.execWreply a s
  | .wfail c => Sys2Proof.Machine.execWfail c s
  | .wscan d a o => Sys2Proof.Machine.execWscan d a o s
  | .illegalInstruction w => Sys2Proof.Machine.execIllegalInstruction w s
  | .loadReturn p op => Sys2Proof.Machine.execLoadReturn p op s
  | .copySectorLanding p op => Sys2Proof.Machine.execCopySectorLanding p op s
  | .sendLanding p op => Sys2Proof.Machine.execSendLanding p op s
  | .sendAcknowledgement p op => Sys2Proof.Machine.execSendAcknowledgement p op s
  | .releaseFilterProbe p core op => Sys2Proof.Machine.execReleaseFilterProbe p core op s
  | .lineAccess p req => Sys2Proof.Machine.execLineAccess p req s
  | .orderGateAdmit p dom id => Sys2Proof.Machine.execOrderGateAdmit p dom id s
  | .requestArrival p req => Sys2Proof.Machine.execRequestArrival p req s
  | .batchAssembly p core => Sys2Proof.Machine.execBatchAssembly p core s
  | .whiskReply p req => Sys2Proof.Machine.execWhiskReply p req s
  | .fillLanding p op => Sys2Proof.Machine.execFillLanding p op s
  | .matrixStep p core check => Sys2Proof.Machine.execMatrixStep p core check s
  | .clusterPlacement p => Sys2Proof.Machine.execClusterPlacement p s
  | .finalCommit p team => Sys2Proof.Machine.execFinalCommit p team s
  | .launchCompletion p => Sys2Proof.Machine.execLaunchCompletion p s
  | .crockMoveDone p name => Sys2Proof.Machine.execCrockMoveDone p name s
  | .eggTimerWindow p => Sys2Proof.Machine.execEggTimerWindow p s
  | .sieveDecision p => Sys2Proof.Machine.execSieveDecision p s
  | .sieveBacktrack p => Sys2Proof.Machine.execSieveBacktrack p s
  | .chunkFlushTimer p dom id => Sys2Proof.Machine.execChunkFlushTimer p dom id s
  | .freezeImage p => Sys2Proof.Machine.execFreezeImage p s
  | .drainDeadline p => Sys2Proof.Machine.execDrainDeadline p s
  | .gangSliceStart p => Sys2Proof.Machine.execGangSliceStart p s
  | .gangSliceEnd p => Sys2Proof.Machine.execGangSliceEnd p s
  | .invalidationDone p => Sys2Proof.Machine.execInvalidationDone p s
  | .backgroundScrub core word result => Sys2Proof.Machine.execBackgroundScrub core word result s
  | .patrolScrub line result => Sys2Proof.Machine.execPatrolScrub line result s
  | .inFieldTest die => Sys2Proof.Machine.execInFieldTest die s
  | .inFieldTestRun core passed => Sys2Proof.Machine.execInFieldTestRun core passed s
  | .inFieldTestOverdue core => Sys2Proof.Machine.execInFieldTestOverdue core s
  | .energyPeriod p => Sys2Proof.Machine.execEnergyPeriod p s
  | .flitCrcError link => Sys2Proof.Machine.execFlitCrcError link s
  | .linkDead link => Sys2Proof.Machine.execLinkDead link s
  | .injectionResume => Sys2Proof.Machine.execInjectionResume s
  | .lostPacket p pkt => Sys2Proof.Machine.execLostPacket p pkt s
  | .linkNarrow link handshake => Sys2Proof.Machine.execLinkNarrow link handshake s
  | .linkWiden link handshake => Sys2Proof.Machine.execLinkWiden link handshake s
  | .cxlPortDown port => Sys2Proof.Machine.execCxlPortDown port s
  | .hostWrite pa bytes => Sys2Proof.Machine.execHostWrite pa bytes s
  | .hostRead pa count => Sys2Proof.Machine.execHostRead pa count s
  | .timeOffsetNotice p => Sys2Proof.Machine.execTimeOffsetNotice p s
  | .clockThrottle die cause => Sys2Proof.Machine.execClockThrottle die cause s
  | .clockRaise die => Sys2Proof.Machine.execClockRaise die s
  | .thermalStop die => Sys2Proof.Machine.execThermalStop die s
  | .powerOnBoot images => Sys2Proof.Machine.execPowerOnBoot images s
  | .functionLevelReset p => Sys2Proof.Machine.execFunctionLevelReset p s
  | .firmwarePass => Sys2Proof.Machine.execFirmwarePass s
  | .reset q pkt => Sys2Proof.Machine.execReset q pkt s
  | .setmode q pkt => Sys2Proof.Machine.execSetmode q pkt s
  | .attach q pkt => Sys2Proof.Machine.execAttach q pkt s
  | .extend q pkt => Sys2Proof.Machine.execExtend q pkt s
  | .detach q pkt => Sys2Proof.Machine.execDetach q pkt s
  | .buffers q pkt => Sys2Proof.Machine.execBuffers q pkt s
  | .consume q pkt => Sys2Proof.Machine.execConsume q pkt s
  | .resume q pkt => Sys2Proof.Machine.execResume q pkt s
  | .launch q pkt => Sys2Proof.Machine.execLaunch q pkt s
  | .signalSet q pkt => Sys2Proof.Machine.execSignalSet q pkt s
  | .signalAdd q pkt => Sys2Proof.Machine.execSignalAdd q pkt s
  | .wait q pkt => Sys2Proof.Machine.execWait q pkt s
  | .nopPacket q pkt => Sys2Proof.Machine.execNopPacket q pkt s
  | .unknownPacket q pkt => Sys2Proof.Machine.execUnknownPacket q pkt s
  | .null p gid => Sys2Proof.Machine.execNull p gid s
  | .debug p gid => Sys2Proof.Machine.execDebug p gid s
  | .sigadd p gid => Sys2Proof.Machine.execSigadd p gid s
  | .sleep p gid => Sys2Proof.Machine.execSleep p gid s
  | .sleepExpiry p gid => Sys2Proof.Machine.execSleepExpiry p gid s
  | .unknownService p gid => Sys2Proof.Machine.execUnknownService p gid s
  | .freeze p => Sys2Proof.Machine.execFreeze p s
  | .registerImageArea p => Sys2Proof.Machine.execRegisterImageArea p s
  | .copyTableEntry p => Sys2Proof.Machine.execCopyTableEntry p s
  | .clearSpoil p => Sys2Proof.Machine.execClearSpoil p s
  | .copyDebugRing p => Sys2Proof.Machine.execCopyDebugRing p s
  | .loadLvc p => Sys2Proof.Machine.execLoadLvc p s
  | .unloadKernel p => Sys2Proof.Machine.execUnloadKernel p s
  | .setTrustedKey p => Sys2Proof.Machine.execSetTrustedKey p s
  | .extendMeasurement p => Sys2Proof.Machine.execExtendMeasurement p s
  | .attest p => Sys2Proof.Machine.execAttest p s
  | .createPartition arg0 arg1 => Sys2Proof.Machine.execCreatePartition arg0 arg1 s
  | .destroyPartition arg0 arg1 => Sys2Proof.Machine.execDestroyPartition arg0 arg1 s
  | .setGranuleKey arg0 arg1 => Sys2Proof.Machine.execSetGranuleKey arg0 arg1 s
  | .grantQueue arg0 arg1 => Sys2Proof.Machine.execGrantQueue arg0 arg1 s
  | .grantPort arg0 arg1 => Sys2Proof.Machine.execGrantPort arg0 arg1 s
  | .updateFirmware arg0 arg1 => Sys2Proof.Machine.execUpdateFirmware arg0 arg1 s
  | .firmwareHandover => Sys2Proof.Machine.execFirmwareHandover s
  | .setSharedSeverity arg0 arg1 => Sys2Proof.Machine.execSetSharedSeverity arg0 arg1 s
  | .qprodWrite p q v => Sys2Proof.Machine.execQprodWrite p q v s
  | .qbaseWrite p q v => Sys2Proof.Machine.execQbaseWrite p q v s
  | .invWrite p v => Sys2Proof.Machine.execInvWrite p v s
  | .faultMapped p v => Sys2Proof.Machine.execFaultMapped p v s
  | .faultDeclined p v => Sys2Proof.Machine.execFaultDeclined p v s
  | .shelfcWrite p v => Sys2Proof.Machine.execShelfcWrite p v s
  | .whiskWrite p v => Sys2Proof.Machine.execWhiskWrite p v s
  | .eggWrite p v => Sys2Proof.Machine.execEggWrite p v s
  | .sevWrite p cls v => Sys2Proof.Machine.execSevWrite p cls v s
  | .registerWrite f off v => Sys2Proof.Machine.execRegisterWrite f off v s
  | .copyOutProgress p op => Sys2Proof.Machine.execCopyOutProgress p op s
  | .rootComplexAcknowledgement p line => Sys2Proof.Machine.execRootComplexAcknowledgement p line s
  | .ieee1588Message msg => Sys2Proof.Machine.execIeee1588Message msg s

end Sys2Proof.Machine
end

