-- ==== Sys2Proof/Machine/Turn.lean ====
section
/-!
DEFINITION. What an actor does in its turn: a group fetches and runs its next instruction (spec/02 R40, R41), the whisk group runs
the firmware's dispatch loop or a method (spec/15_combiner.md R311, R312), an event happens. Also the place of a word that the next
step is to fetch.
-/
namespace Sys2Proof.Machine

/-! ## Groups -/

/-- Instructions that reach memory, another core, a home or the firmware: while injection is paused they wait (R413;
notes/assumptions/68.md). -/
def leavesCore : Instr → Bool
  | .ldw _ _ _ _ | .ldd _ _ _ _ | .ldq _ _ _ _ | .ldh _ _ _ _ | .ldb _ _ _ _ | .stw _ _ _ _ | .std _ _ _ _ | .stq _ _ _ _
  | .sth _ _ _ _ | .stb _ _ _ _ | .ldacq _ _ _ _ | .strel _ _ _ _ | .sld _ _ _ _ | .sst _ _ _ _ | .cpy _ _ _ _ _ | .cpyo _ _ _ _
  | .cpyt _ _ _ _ | .cpyv _ _ _ | .sendr _ _ _ _ _ | .sendb _ _ _ _ | .wcall _ _ _ _ _ | .wpost _ _ _ _ | .wreply _ | .wfail _
  | .ccall _ | .ckopen _ _ _ _ _ _ | .ckseal _ _ _ | .ckdrop _ _ | .ckevict _ _ _ _ | .ckstat _ _ _ => true
  | _ => false

/-- A group fetches and runs its next instruction, or takes a trap that has waited for its windows (R40, R152). -/
def Ctx.run (c : Ctx) : Host.Outcome State Fault Refusal :=
  match c.g.latched with
  | some t => .next (if c.g.settled then c.s.enterTrap c.p c.gid t else c.s)
  | none => match c.fetch with
    | .error r => .next (c.settle r)
    | .ok (c, w) => match decode w with
      | .ok i => if c.s.paused && leavesCore i then .next c.s else exec i c.s
      | .error r => .next (rejectWord r c.s)

/-- The word that a group is about to run, for TINFO. -/
def Ctx.nextWord (c : Ctx) : Nat :=
  match c.fetch with
  | .ok (_, w) => w.toNat
  | .error _ => 0

/-- A method that comes to the address in the dispatcher returns: with its batch closed, or as a trap of the `jr` (R311). -/
def State.methodReturns (s : State) (p : PartNo) (core : Nat) (tpc : DWord) (word : Nat) : State :=
  match (s.part? p).bind fun P => Table.get? P.run.homes core with
  | none => s
  | some h =>
    if h.phase ≠ .user ∨ h.grp.pc ≠ dispatchReturn then s
    else if h.batch.isSome then s.methodTrap p core tpc (trapOf 1 word)
    else s.modPart p fun P => P.modHome core fun h => { h with phase := .loop, grp := { h.grp with wait := none } }

/-- The whisk group's turn: in the dispatch loop it executes `wtake` and then runs the method of the batch; in a user method, the
method's next instruction. While a `cpyv` holds the line of the open batch's object, which the group is to write (R216), or injection is
paused (R413), it stands still. -/
def Ctx.whiskTurn (c : Ctx) (h : Home) : Host.Outcome State Fault Refusal :=
  if c.P.batchHeld c.gid || c.s.paused then .next c.s
  else match h.phase, h.batch with
  | .loop, some b => if c.g.wait = some .take then exec (.wtake 0) c.s else .next (c.dispatch b)
  | .loop, none => exec (.wtake 0) c.s
  | .user, _ => match c.run with
    | .next s => .next (s.methodReturns c.p c.gid c.g.pc c.nextWord)
    | r => r

/-- An instruction whose operation only its group brings to an end: an `ldacq` that probes, a `cpyv`. A freeze lets it end (R397). -/
def Group.midway (g : Group) : Bool := match g.stage with
  | .probing _ | .version _ => true
  | _ => false

/-- A group may act: not in a partition that is frozen or freezes (R396, R397), but for a whisk group whose batch is open and a group
within an instruction that is to end; not while it stalls on a page (R199); not on a die that has stopped (R437). -/
def Ctx.mayAct (c : Ctx) : Bool :=
  let open' := isWhisk c.gid && (Table.get? c.P.run.homes c.gid).any fun h => h.batch.isSome
  !c.P.frozen && (!c.P.freezing || open' || c.g.midway) && !c.P.stallsOnPage c.g && !c.s.stopped.contains (c.P.coreOf c.gid / 16)

/-- A group acts. -/
def State.groupActs (s : State) (p : PartNo) (gid : Nat) (check : CheckResult) : Host.Outcome State Fault Refusal :=
  match ({ s with cur := some ⟨p, gid, check⟩ } : State).issuer with
  | none => .next s
  | some c =>
    if !c.mayAct then .next s
    else match if isWhisk gid then Table.get? c.P.run.homes gid else none with
      | some h => c.whiskTurn h
      | none => c.run

/-! ## Flits (R411; notes/assumptions/118.md) -/

/-- Flits of so many bytes of data, in packets of a header flit and at most 8 data flits. -/
def dataFlits (n : Nat) : Nat := max 1 ((n + 1023) / 1024) + (n + 127) / 128

/-- Flits of a line request: a header, and a data flit where it writes. -/
def LineReq.flits (r : LineReq) : Nat := if r.isRead then 1 else 2

/-- Flits of a combiner request, or of its reply: a header and a data flit, but for a home on the requester's own core. -/
def Part.whiskFlits (P : Part) (w : WhiskReq) : Nat := if P.homeOf w.pa = some w.core then 0 else 2

/-- Flits that an operation sends as it begins: the data of a send that leaves its core, and the probes of an `ldacq`. -/
def Part.opFlits (P : Part) : Op → Nat
  | .send gid block remote w pieces _ _ left _ _ =>
    let own := (P.receiver gid false w).any fun tk => P.coreOf (tk * 32) == P.coreOf gid
    if (remote && isWhisk gid) || (!remote && own) then 0
    else dataFlits (if block then 32 * left else (pieces.map fun e => e.2.length).sum)
  | .probe gid lines cores => lines.length * (cores.filter fun k => k != P.coreOf gid).length
  | _ => 0

/-- Flits of the requests and operations that are not older than a number. -/
def Part.since (P : Part) (n : Nat) : Nat :=
  ((P.run.lines.filter fun e => decide (n ≤ e.1)).map fun e => e.2.flits).sum +
  ((P.run.whisks.filter fun e => decide (n ≤ e.1)).map fun e => P.whiskFlits e.2).sum +
  ((P.run.ops.filter fun e => decide (n ≤ e.1)).map fun e => P.opFlits e.2).sum

/-- A combiner request has been answered by its home. -/
def WhiskReq.isAnswered (w : WhiskReq) : Bool := match w.place with
  | .answered _ _ => true
  | _ => false

/-- Flits of the homes' own accesses in an act (R314, R384): a line that is read, one flit and the line's two, as a request comes to its home
and as a batch is opened, and the line that is written back as a batch closes. -/
def Part.homeFlits (old new : Part) (a : Actor) : Nat :=
  (new.run.homes.map fun h => match Table.get? old.run.homes h.1 with
    | some o => if o.batch.isNone && h.2.batch.isSome then 3 else if o.batch.isSome && h.2.batch.isNone then 2 else 0
    | none => 0).sum +
  match a with
  | .event (.requestArrival _ id) =>
    if (Table.get? old.run.whisks id).any WhiskReq.coming && !(Table.get? new.run.whisks id).any WhiskReq.coming then 3 else 0
  | _ => 0

/-- Flits of what answers requests in an act: the line of a read that a slice has served, the replies of homes, the answer to a probe. -/
def Part.answerFlits (old new : Part) (a : Actor) : Nat :=
  ((new.run.whisks.filter fun e => e.2.isAnswered && (Table.get? old.run.whisks e.1).any fun w => !w.isAnswered).map fun e =>
    new.whiskFlits e.2).sum +
  match a with
  | .event (.lineAccess _ id) => match Table.get? old.run.lines id with
    | some r => if r.isRead && !Table.has new.run.lines id then 2 else 0
    | none => 0
  | .event (.releaseFilterProbe _ core op) => match Table.get? old.run.ops op, Table.get? new.run.ops op with
    | some (.probe gid lines cores), some (.probe _ _ left) =>
      if cores.length = left.length ∨ core.toNat = old.coreOf gid then 0 else lines.length
    | _, _ => 0
  | _ => 0

/-- Flits that a partition has injected in an act. While injection is paused nothing is; when it resumes, what has waited is (R413). -/
def State.newFlits (s t : State) (old new : Part) (a : Actor) : Nat :=
  if t.paused then 0
  else if s.paused then new.since new.mark
  else new.since old.nextId + old.answerFlits new a + old.homeFlits new a

/-- The state after an act, its flits counted once, as they are injected. -/
def State.countFlits (t s : State) (a : Actor) : State :=
  { t with parts := t.parts.map fun e => (e.1, match Table.get? s.parts e.1 with
      | some P => { e.2 with flit := e.2.flit + s.newFlits t P e.2 a }
      | none => e.2) }

/-! ## Energy (R353; notes/assumptions/121.md) -/

/-- Numbers of what draws energy: a core by itself, a slice, a team by its core and slot, a stack for a partition. -/
def sliceSource (k : Nat) : Nat := 128 + k
def teamSource (core slot : Nat) : Nat := 512 + 16 * core + slot
def stackSource (p k : Nat) : Nat := 4096 + 16 * p + k

/-- What a core draws in a step: what its resident teams share, or what it draws without one. -/
def Part.coreDraw (P : Part) (tick core : Nat) : DWord :=
  match P.coreTeams core with
  | [] => Config.energy tick core
  | ts => (ts.map fun t => Config.energy tick (teamSource core t.slot)).foldl (· + ·) 0
def State.coreDraw (s : State) (core : Nat) : DWord :=
  match s.partOfCore core with
  | some (_, P) => P.coreDraw s.tick core
  | none => Config.energy s.tick core

/-- What a partition spends in a step. -/
def Part.spends (P : Part) (p tick : Nat) : Nat :=
  (P.regs.cores.map fun k => (P.coreDraw tick k).toNat).sum +
  ((List.range (32 * P.dies)).map fun k => (Config.energy tick (sliceSource (32 * P.regs.firstDie + k))).toNat).sum +
  ((List.range 12).map fun k => (Config.energy tick (stackSource p k)).toNat).sum

/-- The counters of a partition after a step. -/
def Part.drawEnergy (P : Part) (p tick : Nat) : Part :=
  { P with
    spent := P.spent + P.spends p tick
    stackEnergy := ((List.range 12).zip P.stackEnergy).map fun e => e.2 + Config.energy tick (stackSource p e.1)
    run := { P.run with teams := P.run.teams.map fun e =>
      (e.1, { e.2 with energy := e.2.energy + Config.energy tick (teamSource e.2.core e.2.slot) }) } }

/-- Every counter after a step. -/
def State.drawEnergy (s : State) : State :=
  { s with
    energy := ((List.range 384).zip s.energy).map fun e =>
      e.2 + if e.1 < 128 then s.coreDraw e.1 else Config.energy s.tick e.1
    parts := s.parts.map fun e => (e.1, e.2.drawEnergy e.1 s.tick) }

/-- An act through which no team learns of another's: the instruction of a team's group, but for the barriers that it completes and the
retirement of its team, the service of a line, the return of a load. -/
def Actor.tacit : Actor → Bool
  | .group _ gid _ => !isWhisk gid
  | .event (.lineAccess _ _) | .event (.loadReturn _ _) => true
  | _ => false

/-- What an act comes to, with its flits and the energy that is drawn meanwhile. After every act but a tacit one each core sees every write
(R298, R299). -/
def State.counted (s : State) (a : Actor) : Host.Outcome State Fault Refusal → Host.Outcome State Fault Refusal
  | .next t => .next ((if a.tacit then t else t.allSeen).countFlits s a).drawEnergy
  | r => r

/-- An actor acts. An instruction word is no event. -/
def State.act (s : State) (a : Actor) : Host.Outcome State Fault Refusal :=
  s.counted a (match a with
    | .group p gid check => s.groupActs p gid check
    | .event i => if (encode i).isSome || s.halted i then .next s else exec i s)

/-! ## The place of the next word -/

/-- Where a group of a team fetches next, if it is free to run what stands there. -/
def State.fetchPlace (s : State) (p : PartNo) (gid : Nat) : Option Nat :=
  match ({ s with cur := some ⟨p, gid, .agrees⟩ } : State).issuer with
  | none => none
  | some c =>
    if isWhisk gid || s.paused || !c.mayAct || c.g.latched.isSome || c.g.wait.isSome || c.g.stage ≠ .fresh || !c.g.windows.isEmpty ||
        !c.g.held.isEmpty then none
    else match c.look .fetch (c.g.pc.toNat % 2 ^ 56) with
      | .ok pa _ _ _ _ => if canonical c.g.pc && !s.portDown pa then some pa else none
      | _ => none

/-- The groups that the agenda names first, then every group of every team. -/
def State.candidates (s : State) : List (PartNo × Nat) :=
  (match s.agenda with
    | .group p gid _ :: _ => [(p, gid)]
    | _ => []) ++
  (s.parts.map fun e => (e.2.run.teams.map fun t => t.2.groups.map fun g => ((BitVec.ofNat 3 e.1 : PartNo), t.1 * 32 + g.1)).flatten
    ).flatten

/-- A group that the next word can be given to, with the address. -/
def State.fetcher (s : State) : Option (PartNo × Nat × Nat) :=
  (s.candidates.filterMap fun e => (s.fetchPlace e.1 e.2).map fun pa => (e.1, e.2, pa)).head?

/-- A kernel whose code begins at 0x100000, with all registers. -/
def loadedKernel : Kernel := ⟨0x100000, 64, 1, 1, 1, 256, 8, [], none⟩

/-- A launch of one team of it. -/
def loadedLaunch : Launch where
  kern := 0
  kernel := loadedKernel
  gx := 1
  gy := 1
  gz := 1
  seed := 0
  slotQuota := 8
  recQuota := 4
  unitQuota := 64
  curve := false
  coresident := false
  sig := 0
  sigen := false
  queue := 0
  tag := 0
  notify := false
  cons := 1
  mode := some 0
  next := 1
  done := []
  reported := 0
  bars := []
  hashes := []
  commits := []
  errors := []
  avoid := []

/-- Key of its team, and the number of its group. -/
def loadedTeam : Nat := keyIn 1 0
def loadedGroup : Nat := loadedTeam * 32

/-- The work of a partition in which that launch runs: its one team on core 0, with its private slots. -/
def loadedRun (r : Run) : Run :=
  let tags : Table Tag := (List.range 8).map fun j => (j, ⟨privateKey j, false, 1, 0, 0⟩)
  { r with
    teams := [(loadedTeam, Team.launched loadedLaunch 1 0 0 0 0 0 0 [])]
    cores := Table.modify r.cores 0 fun c => { c with tags := tags }
    launches := [(1, loadedLaunch)]
    clusters := [(loadedTeam, ⟨[loadedTeam], [], []⟩)] }

/-- Partition 0 of one die, with the launch running and its tables at 0x10000. -/
def loadedPart : Part :=
  let P := Part.created 0 0 0 1
  { P with
    regs := { P.regs with ptroot := 0x10000 }
    run := loadedRun P.run
    kernels := [(0, loadedKernel)]
    code := [(0, [0x410])]
    lastLaunch := 1
    meas := [] }

/-- A program has been loaded and launched (notes/assumptions/2.md): one page of 64 MiB at 0x4000000 is mapped from address 0 on,
with every permission, and its frame with the code is marked executable. -/
def State.loadProgram (s : State) : State :=
  let s := ((s.storeNum 0x10000 8 0x12001).storeNum 0x12000 8 0x14001).storeNum 0x14000 8 0x001000000400038F
  { s with
    parts := Table.set s.parts 0 loadedPart
    granules := Cells.set 0 (Cells.set 0 s.granules 0 1) 1 1
    stopped := removeNum s.stopped 0
    paused := false
    execFrames := insertNum s.execFrames 0x410 }

/-- Store a word at an address from which it is then fetched. -/
def State.placeWord (s : State) (pa n x : Nat) : State :=
  let s := s.storeNum pa n x
  { s with execFrames := insertNum s.execFrames (pa / 65536), memPoison := removeNum s.memPoison (pa / 8) }

end Sys2Proof.Machine
end

