-- ==== Sys2Proof/Machine/Step.lean ====
section
/-!
DEFINITION. One step of the machine, and the state in which the next step runs a given word.
-/
namespace Sys2Proof.Machine

/-- One step: the first actor of the agenda acts, or, when the agenda names none, the one that the schedule gives
(notes/assumptions/1.md). -/
def step (s : State) : Host.Outcome State Fault Refusal :=
  let t := { s with tick := s.tick + 1, cur := none, agenda := s.agenda.tail }
  match s.agenda with
  | a :: _ => t.act a
  | [] => match Config.schedule s.tick with
    | some a => t.act a
    | none => .next t

/-- The state with an instruction stored where the next step fetches it. Where no group can fetch one, a program has first been
loaded and launched (notes/assumptions/2.md). -/
def State.withFetchWord (s : State) (nbits w : Nat) : State :=
  match s.fetcher with
  | some (p, gid, pa) => { s.placeWord pa 4 (w % 2 ^ nbits) with agenda := .group p gid .agrees :: s.agenda }
  | none => { s.loadProgram.placeWord 0x4100000 4 (w % 2 ^ nbits) with agenda := .group 0 loadedGroup .agrees :: s.agenda }

end Sys2Proof.Machine
end

