-- ==== Sys2Proof/Safety.lean ====
section
/-!
DEFINITION. What counts as a safe run (one that no fault and no refusal ends), and the terms in which the statements speak of one
step: when a group is ready for an instruction, and what an instruction that only its group takes part in leaves.
-/
namespace Sys2Proof

/-- A run of `k` steps that stays in the model. -/
def Safe (k : Nat) (s : Machine.State) : Prop := ∃ t, Host.Core.run core k s = .next t

namespace Machine

/-- The group of `c` issues `i` in `s`, and nothing that comes before the instruction's own meaning holds it (R42 orders 2 to 5,
R52, R204, R273, R307): no window ends before `i`, no held fault of a `wcall` is due, nothing it names is protected, poisoned, out
of range, odd or out of bounds, and the two executions of a checked instruction agree (R157). -/
structure Ready (c : Ctx) (s : State) (i : Instr) : Prop where
  issuer : s.issuer = some c
  fresh : c.g.stage = .fresh
  noWait : c.g.wait = none
  windows : c.g.windows.any Window.blocks = false
  noFault : c.g.dueAt i = none
  code : c.g.poisons issueWords = false
  wf : i.wf = true
  uses : c.checkUses i = none
  clean : c.consumes i = false
  acquired : (accessesOf i && c.g.windows.any fun w => w.acq && !w.done) = false
  agrees : c.check = .agrees

/-- From `s` to `t` the group of `c` has become `g`, the partition counts one firing more (R332), and nothing else has changed. -/
structure Ran (c : Ctx) (s t : State) (g : Group) : Prop where
  state : t = s.modPart c.p fun P => { P.modGroup c.gid (fun _ => g) with fire := P.fire + 1 }
  group : t.group? c.p c.gid = some g
  memory : ∀ a, t.byte a = s.byte a

/-- From the state `s` that an instruction's own effect leaves to `t` its group has completed it, with the PC at `pc`, and the
partition counts one firing more. -/
def Completed (c : Ctx) (s t : State) (pc : DWord) : Prop :=
  t = (s.modGroup c.p c.gid fun g => g.completed pc).modPart c.p fun P => { P with fire := P.fire + 1 }

/-- The same with the PC at the next word (R40). -/
def Stepped (c : Ctx) (s t : State) : Prop :=
  t = (s.modGroup c.p c.gid fun g => g.completed (g.pc + 4)).modPart c.p fun P => { P with fire := P.fire + 1 }

/-- `new` is the group `old` after an instruction that writes `res l` (a value and STAT flags) in each lane l that it acts on, into
register `d`, or into the pair `d`, `d + 1`; no other register and no other field changes, and no double word becomes poisoned. -/
structure LanesWritten (old new : Group) (wide : Bool) (d : VReg) (res : Nat → Nat × Nat) : Prop where
  value : ∀ l < 32, new.direct wide d.toNat l =
    if old.active l then (res l).1 % 2 ^ (if wide then 64 else 32) else old.direct wide d.toNat l
  others : ∀ r, ∀ l < 32, r ≠ d.toNat → (wide = true → r ≠ d.toNat + 1) → new.vreg r l = old.vreg r l
  flags : ∀ n < 32, new.stat.getLsbD n = true ↔
    old.stat.getLsbD n = true ∨ ∃ l < 32, old.active l = true ∧ bitOf (res l).2 n = true
  poison : ∀ x ∈ new.vpoison, x ∈ old.vpoison
  frame : new = { old with v := new.v, vpoison := new.vpoison, stat := new.stat }

/-- The same element by element (R72): `res l k` is element k of lane l, with its flags. -/
structure ElementsWritten (old new : Group) (t : Ty) (d : VReg) (res : Nat → Nat → Nat × Nat) : Prop where
  value : ∀ l < 32, ∀ k < t.n, elem t.w k (new.direct t.wide d.toNat l) =
    if old.active l then (res l k).1 % 2 ^ t.w else elem t.w k (old.direct t.wide d.toNat l)
  others : ∀ r, ∀ l < 32, r ≠ d.toNat → (t.wide = true → r ≠ d.toNat + 1) → new.vreg r l = old.vreg r l
  flags : ∀ n < 32, new.stat.getLsbD n = true ↔
    old.stat.getLsbD n = true ∨ ∃ l < 32, old.active l = true ∧ ∃ k < t.n, bitOf (res l k).2 n = true
  poison : ∀ x ∈ new.vpoison, x ∈ old.vpoison
  frame : new = { old with v := new.v, vpoison := new.vpoison, stat := new.stat }

/-- `new` is `old` after an instruction that writes predicate `q` to `res l` in each lane l that it acts on; if those are all lanes, the
predicate's word is whole (R275). -/
structure PredicateWritten (old new : Group) (q : QReg) (res : Nat → Bool) : Prop where
  value : ∀ l < 32, new.pred q.toNat l = if old.active l then res l else old.pred q.toNat l
  others : ∀ k, k ≠ q.toNat → ∀ l, new.pred k l = old.pred k l
  whole : ∀ w, w ∈ new.cpoison ↔ w ∈ old.cpoison ∧ (w ≠ predWord q.toNat ∨ ∃ l < 32, old.active l = false)
  frame : new = { old with q := new.q, cpoison := new.cpoison }

end Machine

end Sys2Proof
end

