-- ==== Sys2Proof/Certificates/Slice0/Obligations.lean ====
section
/-!
DEFINITION. The statements for the provers, with the tables of the specification that they quantify over.
-/
namespace Sys2Proof.Spec

open Sys2Proof Sys2Proof.Machine

/-! ## How a step ends -/

/-- The instruction of `c` completes from `s` in `t` with its group changed to `g` and the PC at the next word: `t` is `s` with the
group replaced by `g` after completion (R35, R40) and one firing more, so every other group, every byte of memory and every other
field is as before. -/
def CompletesWith (c : Ctx) (i : Instr) (s : State) (rel : Group → Prop) : Prop :=
  ∃ t g, exec i s = .next t ∧ Ran c s t (g.completed (c.g.pc + 4)) ∧ rel g

/-- The instruction has no effect of its own, and the trap is raised (R42, R152). -/
def TrapsWith (c : Ctx) (i : Instr) (s : State) (t : Trap) : Prop :=
  exec i s = .next ((s.raiseTrap c.p c.gid t).modPart c.p fun P => { P with fire := P.fire + 1 })

/-- The type-unsupported trap (R97): TINFO[7:0] is MODE.TYPE, TINFO[15:8] the major opcode. -/
def badType (c : Ctx) (op : Nat) : Trap := ⟨3, BitVec.ofNat 64 (c.g.ty + 256 * op)⟩

/-! ## Integer elements (R72, R99) -/

/-- The number that an element of a type holds. -/
def value (t : Ty) (x : Nat) : Int := if t.kind = .signed then (BitVec.ofNat t.w x).toInt else ((BitVec.ofNat t.w x).toNat : Int)
def least (t : Ty) : Int := if t.kind = .signed then -(2 : Int) ^ (t.w - 1) else 0
def greatest (t : Ty) : Int := if t.kind = .signed then (2 : Int) ^ (t.w - 1) - 1 else (2 : Int) ^ t.w - 1

/-- fit (R99), with the flags: STAT bit 0 is SAT. -/
def fitted (sat : Bool) (t : Ty) (x : Int) : Nat × Nat :=
  if sat = true ∧ x < least t then ((BitVec.ofInt t.w (least t)).toNat, 1)
  else if sat = true ∧ greatest t < x then ((BitVec.ofInt t.w (greatest t)).toNat, 1)
  else ((BitVec.ofInt t.w x).toNat, 0)

/-- A row of the tables of R100 and R102: opcode, destination, lane operands (of 32 or 64 bits), accepted TYPE codes, and
f(a, b, d) for elements of w bits. -/
structure IntRow where
  op : Nat
  d : VReg
  a : Bool → Nat → Nat
  b : Bool → Nat → Nat
  ok : List Nat
  f : Nat → Int → Int → Int → Int

def allInts : List Nat := [0, 1, 2, 3, 4, 5, 6, 7]
def signedInts : List Nat := [0, 2, 4, 6]

def intRow (c : Ctx) : Instr → Option IntRow
  | .add d a b => some ⟨0x20, d, (c.operand · a), (c.operand · b), allInts, fun _ a b _ => a + b⟩
  | .sub d a b => some ⟨0x21, d, (c.operand · a), (c.operand · b), allInts, fun _ a b _ => a - b⟩
  | .mul d a b => some ⟨0x22, d, (c.operand · a), (c.operand · b), allInts, fun _ a b _ => a * b⟩
  | .mulh d a b => some ⟨0x23, d, (c.operand · a), (c.operand · b), allInts, fun w a b _ => (a * b).fdiv (2 ^ w)⟩
  | .mad d a b => some ⟨0x24, d, (c.operand · a), (c.operand · b), allInts, fun _ a b d => d + a * b⟩
  | .msb d a b => some ⟨0x25, d, (c.operand · a), (c.operand · b), allInts, fun _ a b d => d - a * b⟩
  | .abs d a => some ⟨0x28, d, (c.operand · a), fun _ _ => 0, signedInts, fun _ a _ _ => if a < 0 then -a else a⟩
  | .neg d a => some ⟨0x29, d, (c.operand · a), fun _ _ => 0, signedInts, fun _ a _ _ => -a⟩
  | .min d a b => some ⟨0x2A, d, (c.operand · a), (c.operand · b), allInts, fun _ a b _ => if a ≤ b then a else b⟩
  | .max d a b => some ⟨0x2B, d, (c.operand · a), (c.operand · b), allInts, fun _ a b _ => if a ≤ b then b else a⟩
  | .avg d a b => some ⟨0x2C, d, (c.operand · a), (c.operand · b), allInts, fun _ a b _ => (a + b + 1).fdiv 2⟩
  | .addi d a n => some ⟨0x2E, d, (c.g.direct · a.toNat), fun _ _ => 0, allInts, fun _ a _ _ => a + n.toInt⟩
  | .muli d a n => some ⟨0x2F, d, (c.g.direct · a.toNat), fun _ _ => 0, allInts, fun _ a _ _ => a * n.toInt⟩
  | _ => none

/-! ## Logic, moves and permutes (R104, R110 to R114) -/

/-- Elements and edge of `hslide` (R114): element e of the 64, and what comes in under PERM.FILL. -/
def slideSource (c : Ctx) (a : Operand) (e : Nat) : BitVec 16 :=
  (c.g.operand c.n (c.k 15) a (e / 2)).extractLsb' (16 * (e % 2)) 16
def slideEdge (c : Ctx) (edge : BitVec 16) : BitVec 16 :=
  if c.g.fill = 0 then 0 else if c.g.fill = 1 then edge else (c.k 15).extractLsb' 0 16
def slideNew (c : Ctx) (a : Operand) (down : Bool) (e : Nat) : BitVec 16 :=
  if down then if e = 63 then slideEdge c (slideSource c a 63) else slideSource c a (e + 1)
  else if e = 0 then slideEdge c (slideSource c a 0) else slideSource c a (e - 1)

/-- The 32-bit lane result of an instruction that ignores TYPE, with its destination. -/
def wordRow (c : Ctx) : Instr → Option (VReg × (Nat → Word))
  | .and d a b => some (d, fun l => c.g.operand c.n (c.k 15) a l &&& c.g.operand c.n (c.k 15) b l)
  | .or d a b => some (d, fun l => c.g.operand c.n (c.k 15) a l ||| c.g.operand c.n (c.k 15) b l)
  | .xor d a b => some (d, fun l => c.g.operand c.n (c.k 15) a l ^^^ c.g.operand c.n (c.k 15) b l)
  | .andn d a b => some (d, fun l => c.g.operand c.n (c.k 15) a l &&& ~~~ c.g.operand c.n (c.k 15) b l)
  | .not d a => some (d, fun l => ~~~ c.g.operand c.n (c.k 15) a l)
  | .qtv d => some (d, fun l => BitVec.ofBoolListLE ((List.range 8).map fun k => c.g.pred k l) |>.setWidth 32)
  | .mov d a => some (d, fun l => c.g.operand c.n (c.k 15) a l)
  | .movi d i => some (d, fun _ => i.signExtend 32)
  | .movhi d i => some (d, fun l => i ++ (c.g.vreg d.toNat l).extractLsb' 0 14)
  | .sel d a b => some (d, fun l =>
      if c.g.pred c.g.guard l then c.g.operand c.n (c.k 15) a l else c.g.operand c.n (c.k 15) b l)
  | .shfl d a b => some (d, fun l => c.g.operand c.n (c.k 15) a ((c.g.operand c.n (c.k 15) b l).extractLsb' 0 5).toNat)
  | .hslide d a r => some (d, fun l => slideNew c a r (2 * l + 1) ++ slideNew c a r (2 * l))
  | _ => none

/-! ## Shifts, bit counts, bit fields (R103, R105 to R107) -/

/-- Leading zero bits of a w-bit pattern. -/
def leadingZeros (w x : Nat) : Nat := ((List.range w).takeWhile fun j => !x.testBit (w - 1 - j)).length
/-- One bits. -/
def ones (w x : Nat) : Nat := ((List.range w).filter x.testBit).length
/-- The bits in reversed order. -/
def reversed (w x : Nat) : Nat := ((List.range w).map fun j => if x.testBit (w - 1 - j) then 2 ^ j else 0).sum

/-- A row of the tables of R105 to R107: opcode, destination, lane operands, accepted TYPE codes, and the element with its flags from
the type, SAT, and the elements of A and B. -/
structure BitRow where
  op : Nat
  d : VReg
  a : Bool → Nat → Nat
  b : Bool → Nat → Nat
  ok : List Nat
  f : Ty → Bool → Nat → Nat → Nat × Nat

/-- a × 2^n, through fit when SAT is set. -/
def shiftLeft (t : Ty) (sat : Bool) (x n : Nat) : Nat × Nat := fitted sat t (value t x * 2 ^ n)
def shiftRight (t : Ty) (x n : Nat) : Nat × Nat := ((BitVec.ofNat t.w x >>> n).toNat, 0)
def shiftArith (t : Ty) (x n : Nat) : Nat × Nat := (((BitVec.ofNat t.w x).sshiftRight n).toNat, 0)
/-- Bits `pos` on, `len` of them at most w, extended by the signedness of the type (R107). -/
def bitField (t : Ty) (pos len x : Nat) : Nat × Nat :=
  let l := min len t.w
  let y : Int := value t x / 2 ^ pos
  ((BitVec.ofInt t.w (if l = 0 then 0 else if t.kind = .signed then (BitVec.ofInt l y).toInt else (BitVec.ofInt l y).toNat)).toNat, 0)

def bitRow (c : Ctx) : Instr → Option BitRow
  | .shl d a b => some ⟨0x35, d, (c.operand · a), (c.operand · b), allInts, fun t sat x y => shiftLeft t sat x (y % t.w)⟩
  | .shr d a b => some ⟨0x36, d, (c.operand · a), (c.operand · b), allInts, fun t _ x y => shiftRight t x (y % t.w)⟩
  | .sar d a b => some ⟨0x37, d, (c.operand · a), (c.operand · b), allInts, fun t _ x y => shiftArith t x (y % t.w)⟩
  | .rol d a b => some ⟨0x38, d, (c.operand · a), (c.operand · b), allInts, fun t _ x y =>
      (((BitVec.ofNat t.w x).rotateLeft (y % t.w)).toNat, 0)⟩
  | .shli d a n => some ⟨0x39, d, (c.g.direct · a.toNat), fun _ _ => 0, allInts, fun t sat x _ => shiftLeft t sat x (n.toNat % t.w)⟩
  | .shri d a n => some ⟨0x3A, d, (c.g.direct · a.toNat), fun _ _ => 0, allInts, fun t _ x _ => shiftRight t x (n.toNat % t.w)⟩
  | .sari d a n => some ⟨0x3B, d, (c.g.direct · a.toNat), fun _ _ => 0, allInts, fun t _ x _ => shiftArith t x (n.toNat % t.w)⟩
  | .clz d a => some ⟨0x3C, d, (c.operand · a), fun _ _ => 0, allInts, fun t _ x _ => (leadingZeros t.w x, 0)⟩
  | .popc d a => some ⟨0x3D, d, (c.operand · a), fun _ _ => 0, allInts, fun t _ x _ => (ones t.w x, 0)⟩
  | .brev d a => some ⟨0x3E, d, (c.operand · a), fun _ _ => 0, allInts, fun t _ x _ => (reversed t.w x, 0)⟩
  | .bfx d a p l => some ⟨0x3F, d, (c.g.direct · a.toNat), fun _ _ => 0, [0, 1, 2, 3], fun t _ x _ => bitField t p.toNat l.toNat x⟩
  | _ => none

/-! ## Compares (R108 to R110, R130) -/

/-- The combine field (R108). -/
def combined (k : Nat) (q r : Bool) : Bool :=
  if k = 0 then r else if k = 1 then q && r else if k = 2 then q || r else if k = 3 then q ^^ r else !r

/-- Relations of two elements: the integers of an integer type, the IEEE 754 ordered relations of a floating one. -/
def equalTo (t : Ty) (ftz : Bool) (x y : Nat) : Bool := match t.kind with
  | .float f => floatEqual (readF f ftz x) (readF f ftz y)
  | _ => decide (value t x = value t y)
def lessThan (t : Ty) (ftz : Bool) (x y : Nat) : Bool := match t.kind with
  | .float f => floatLess (readF f ftz x) (readF f ftz y)
  | _ => decide (value t x < value t y)
def isNan (t : Ty) (x : Nat) : Bool := match t.kind with
  | .float f => (unpack f x).isNan
  | _ => false

/-- A row of R108's table: opcode, combine field, predicate, accepted TYPE codes, operands, and r. -/
structure CompareRow where
  op : Nat
  k : BitVec 3
  q : QReg
  ok : List Nat
  a : Operand
  b : Operand
  r : Ty → Bool → Nat → Nat → Bool

def compareRow : Instr → Option CompareRow
  | .ceq k q a b => some ⟨0x40, k, q, [0, 1, 2, 3, 8, 9], a, b, equalTo⟩
  | .cne k q a b => some ⟨0x41, k, q, [0, 1, 2, 3, 8, 9], a, b, fun t z x y => !equalTo t z x y⟩
  | .clt k q a b => some ⟨0x42, k, q, [0, 1, 2, 3, 8, 9], a, b, lessThan⟩
  | .cle k q a b => some ⟨0x43, k, q, [0, 1, 2, 3, 8, 9], a, b, fun t z x y => lessThan t z x y || equalTo t z x y⟩
  | .cun k q a b => some ⟨0x44, k, q, [8, 9], a, b, fun t _ x y => isNan t x || isNan t y⟩
  | _ => none

/-- `ctst`, `qop` and the one-bit `qfv` (R108 to R110), which ignore TYPE: the predicate and its new value in a lane. -/
def predicateRow (c : Ctx) : Instr → Option (QReg × (Nat → Bool))
  | .ctst k q a b => some (q, fun l => combined k.toNat (c.g.pred q.toNat l)
      (decide (c.g.operand c.n (c.k 15) a l &&& c.g.operand c.n (c.k 15) b l ≠ 0)))
  | .qop o d a b => some (d, fun l =>
      let x := c.g.pred a.toNat l
      let y := c.g.pred b.toNat l
      match o.toNat with
      | 0 => x && y
      | 1 => x || y
      | 2 => x ^^ y
      | 3 => x && !y
      | 4 => !(x && y)
      | 5 => !(x || y)
      | 6 => x
      | _ => !x)
  | .qfv d a b => some (d, fun l => (c.g.vreg a.toNat l).getLsbD b.toNat)
  | _ => none

/-! ## Scalars (R116 to R121) -/

/-- The scalar that an instruction of R116 writes, with its value; also `vlane`, `krd` (R118, R121). -/
def scalarRow (c : Ctx) : Instr → Option (SReg × DWord)
  | .sadd d a b => some (d, c.g.sreg a + c.g.sreg b)
  | .ssub d a b => some (d, c.g.sreg a - c.g.sreg b)
  | .smul d a b => some (d, c.g.sreg a * c.g.sreg b)
  | .saddi d a i => some (d, c.g.sreg a + i.signExtend 64)
  | .sand d a b => some (d, c.g.sreg a &&& c.g.sreg b)
  | .sor d a b => some (d, c.g.sreg a ||| c.g.sreg b)
  | .sxor d a b => some (d, c.g.sreg a ^^^ c.g.sreg b)
  | .sshlReg d a b => some (d, c.g.sreg a <<< ((c.g.sreg b).extractLsb' 0 6))
  | .sshlImm d a n => some (d, c.g.sreg a <<< n)
  | .sshrReg d a b => some (d, c.g.sreg a >>> ((c.g.sreg b).extractLsb' 0 6))
  | .sshrImm d a n => some (d, c.g.sreg a >>> n)
  | .ssarReg d a b => some (d, (c.g.sreg a).sshiftRight' ((c.g.sreg b).extractLsb' 0 6))
  | .ssarImm d a n => some (d, (c.g.sreg a).sshiftRight' n)
  | .smovi d i => some (d, i.signExtend 64)
  | .smovs d i => some (d, (c.g.sreg d).extractLsb' 0 45 ++ i)
  | .sceq d a b => some (d, if c.g.sreg a = c.g.sreg b then 1 else 0)
  | .sclt d a b => some (d, if (c.g.sreg a).toInt < (c.g.sreg b).toInt then 1 else 0)
  | .scltn d a b => some (d, if (c.g.sreg a).toNat < (c.g.sreg b).toNat then 1 else 0)
  | .vlane d a p m => some (d,
      let l := ((c.g.sreg a).extractLsb' 0 5).toNat
      if p then c.g.vreg (m.toNat + 1) l ++ c.g.vreg m.toNat l else (c.g.vreg m.toNat l).setWidth 64)
  | .vote d k p => some (d,
      let m := lanes.filter fun l => c.g.active l && c.g.pred p.toNat l
      match k.toNat with
      | 0 => BitVec.ofNat 64 (m.map fun l => 2 ^ l).sum
      | 1 => if m.isEmpty then 0 else 1
      | 2 => if ∀ l ∈ c.g.actives, c.g.pred p.toNat l = true then 1 else 0
      | _ => BitVec.ofNat 64 m.length)
  | .krd d n => some (d, c.k n.toNat)
  | _ => none

/-- `vred`'s g and identity (R117), on 64-bit values, for lane values of w bits. -/
def reduce (o : Nat) (x y : DWord) : DWord :=
  match o with
  | 0 => x + y
  | 1 => if x.toInt ≤ y.toInt then x else y
  | 2 => if x.toInt ≤ y.toInt then y else x
  | 3 => x &&& y
  | 4 => x ||| y
  | 5 => x ^^^ y
  | 6 => if x.toNat ≤ y.toNat then x else y
  | _ => if x.toNat ≤ y.toNat then y else x
def identity (o w : Nat) : DWord :=
  match o with
  | 1 => BitVec.ofInt 64 (2 ^ (w - 1) - 1)
  | 2 => BitVec.ofInt 64 (-2 ^ (w - 1))
  | 3 => BitVec.allOnes 64
  | 6 => BitVec.ofInt 64 (2 ^ w - 1)
  | _ => 0

/-! ## Floating point (R124 to R138) -/

/-- A row of the element-wise floating instructions: opcode, destination, operands, accepted TYPE codes, and the element with its
flags from the format, MODE, and the elements of A, B and the old destination. -/
structure FloatRow where
  op : Nat
  d : VReg
  a : Operand
  b : Operand
  ok : List Nat
  f : Ty → Env → Nat → Nat → Nat → Nat × Nat

def floats : List Nat := [8, 9, 10, 11]
def transcendental : List Nat := [8, 10, 11]

def floatRow : Instr → Option FloatRow
  | .fadd d a b => some ⟨0x50, d, a, b, floats, fun t v x y _ => floatElem t.fmt v [x, y] (sumF t.fmt v)⟩
  | .fsub d a b => some ⟨0x51, d, a, b, floats, fun t v x y _ =>
      floatElem t.fmt v [x, y] fun xs => sumF t.fmt v [opA xs, (opB xs).negate]⟩
  | .fmul d a b => some ⟨0x52, d, a, b, floats, fun t v x y _ => floatElem t.fmt v [x, y] (prodElem t.fmt v)⟩
  | .fma d a b => some ⟨0x53, d, a, b, floats, fun t v x y z => floatElem t.fmt v [x, y, z] (fmaElem false t.fmt v)⟩
  | .fms d a b => some ⟨0x54, d, a, b, floats, fun t v x y z => floatElem t.fmt v [x, y, z] (fmaElem true t.fmt v)⟩
  | .fmin d a b => some ⟨0x55, d, a, b, floats, fun t v x y _ => minmaxElem false t.fmt v x y⟩
  | .fmax d a b => some ⟨0x56, d, a, b, floats, fun t v x y _ => minmaxElem true t.fmt v x y⟩
  | .fdiv d a b => some ⟨0x57, d, a, b, floats, fun t v x y _ => floatElem t.fmt v [x, y] (divElem t.fmt v)⟩
  | .fsqrt d a => some ⟨0x58, d, a, a, floats, fun t v x _ _ => floatElem t.fmt v [x] (sqrtElem t.fmt v)⟩
  | .frcp d a => some ⟨0x59, d, a, a, floats, fun t v x _ _ => floatElem t.fmt v [x] (rcpElem t.fmt v)⟩
  | .frsq d a => some ⟨0x5A, d, a, a, floats, fun t v x _ _ => floatElem t.fmt v [x] (rsqElem t.fmt v)⟩
  | .fexp2 d a => some ⟨0x5B, d, a, a, transcendental, fun t v x _ _ => floatElem t.fmt v [x] (exp2Elem t.fmt v)⟩
  | .flog2 d a => some ⟨0x5C, d, a, a, transcendental, fun t v x _ _ => floatElem t.fmt v [x] (log2Elem t.fmt v)⟩
  | .fsinpi d a => some ⟨0x5D, d, a, a, transcendental, fun t v x _ _ => floatElem t.fmt v [x] (sinpiElem t.fmt v)⟩
  | .fcospi d a => some ⟨0x5E, d, a, a, transcendental, fun t v x _ _ => floatElem t.fmt v [x] (cospiElem t.fmt v)⟩
  | .frint d a => some ⟨0x5F, d, a, a, floats, fun t v x _ _ => floatElem t.fmt v [x] (rintElem t.fmt v)⟩
  | .fscale d a b => some ⟨0x62, d, a, b, floats, fun t v x y _ => floatElem t.fmt v [x] (scaleElem t.fmt v (value ⟨t.w, t.n, .signed⟩ y))⟩
  | .fgetexp d a => some ⟨0x63, d, a, a, floats, fun t v x _ _ => floatElem t.fmt v [x] (getexpElem t.fmt v)⟩
  | .fnanc d a => some ⟨0x64, d, a, a, floats, fun t _ x _ _ => (if (unpack t.fmt x).isNan then x % 16 else 2 ^ t.w - 1, 0)⟩
  | _ => none

/-- No NaN and no infinity. -/
def finite : FVal → Prop
  | .fin _ _ _ => True
  | _ => False

/-! ## Control flow (R140 to R146) -/

/-- The target of a branch: PC + 4 × the signed offset (R51). -/
def branchTarget {n : Nat} (c : Ctx) (o : BitVec n) : DWord := c.g.pc + BitVec.ofInt 64 (4 * o.toInt)

/-- Whether a branch is taken, and its target (R140). Lanes with EM clear take no part; the guard is ignored. -/
def branchRow (c : Ctx) : Instr → Option (Prop × DWord)
  | .nop => some (False, 0)
  | .bra o => some (True, branchTarget c o)
  | .brany q n o => some (∃ l < 32, c.g.em.getLsbD l = true ∧ c.g.pred q.toNat l ≠ n, branchTarget c o)
  | .brall q n o => some (∀ l < 32, c.g.em.getLsbD l = true → c.g.pred q.toNat l ≠ n, branchTarget c o)
  | .brnone q n o => some (∀ l < 32, c.g.em.getLsbD l = true → c.g.pred q.toNat l = n, branchTarget c o)
  | .bz a o => some (c.g.sreg a = 0, branchTarget c o)
  | .bnz a o => some (c.g.sreg a ≠ 0, branchTarget c o)
  | _ => none

/-- What an instruction of R143 to R145 does to its group, and the trap that it takes instead. -/
inductive GroupEffect where
  | becomes (g : Group)
  | traps (t : Trap)

def groupRow (c : Ctx) : Instr → Option GroupEffect
  | .emand q n => some (
      if c.g.stack.length < 16 then .becomes { c.g with
        stack := c.g.em :: c.g.stack
        em := c.g.em &&& (if n then ~~~ c.g.preds q.toNat else c.g.preds q.toNat) }
      else .traps ⟨7, 0⟩)
  | .emelse => some (match c.g.stack with
      | top :: _ => .becomes { c.g with em := top &&& ~~~ c.g.em }
      | [] => .traps ⟨7, 1⟩)
  | .empop => some (match c.g.stack with
      | top :: rest => .becomes { c.g with em := top, stack := rest }
      | [] => .traps ⟨7, 1⟩)
  | .emrd d => some (.becomes (c.g.setS d (BitVec.ofNat 64 (c.g.em.toNat + 2 ^ 32 * c.g.stack.length))))
  | .emwr a => some (.becomes { c.g with em := (c.g.sreg a).setWidth 32 })
  | .mode m => some (.becomes { c.g with mode := m.setWidth 24 })
  | .pmode p => some (.becomes { c.g with perm := p.setWidth 24, cpoison := c.g.cpoison.filter fun w => w != permWord })
  | .moder a => some (
      let x := c.g.sreg a
      if x.toNat < 2 ^ 16 ∧ (x.extractLsb' 5 3).toNat < 6 then .becomes { c.g with mode := x.setWidth 24 } else .traps ⟨2, x⟩)
  | _ => none

/-- The index that `xset` or `xadd` writes in a lane, before the check of R146. -/
def indexRow (c : Ctx) : Instr → Option (XReg × (Nat → Int))
  | .xset k v i => some (k, fun l => (c.g.vreg v.toNat l).toInt + i.toInt)
  | .xadd k i => some (k, fun l => (c.g.index k.toNat l : Int) + i.toInt)
  | _ => none

/-- Of the group's control words from number `w` on, of `size` lanes each, those are whole whose lanes are all acted on (R275); every other
word stays as it is. -/
def LanesMend (c : Ctx) (g : Group) (w size : Nat) : Prop :=
  ∀ x, x ∈ g.cpoison ↔ x ∈ c.g.cpoison ∧ (x < w ∨ w + 32 / size ≤ x ∨ ∃ l < 32, l / size = x - w ∧ c.g.active l = false)

/-- The state once the group of `c` has taken the trap `t` (R152 steps 3 and 4). The registers that it writes are whole (R275). -/
def handlerEntered (g : Group) (t : Trap) : Group :=
  { g with
    tpc := g.pc, tcause := t.cause, tinfo := t.tinfo, tmode := g.mode, tem := g.em, inTrap := true
    mode := 0, em := 0xFFFFFFFF, pc := g.tvec, windows := [], latched := none, stage := .fresh, wait := none
    cpoison := g.cpoison.filter fun w => !entryWords.contains w }

/-! ## Barriers (R259 to R264) -/

/-- The group may arrive at the barrier, and nothing is due for it (R31, R260, R264): FREE or DETERMINISTIC mode, every window of the
group closed, a level that its launch has and that it arrives for, its member subscribed and not arrived. -/
structure MayArrive (c : Ctx) (tm : Team) (level bar : Nat) : Prop where
  team : c.team? = some tm
  core : isWhisk c.gid = false
  mode : c.P.mode = 0 ∨ c.P.mode = 1
  settled : c.g.windows.all Window.done = true
  grid : level = 2 → ∃ l, c.P.launchOf tm = some l ∧ l.coresident = true
  arrives : tm.arriving (gidGroup c.gid) level = true
  subscribed : (c.P.bar tm level bar).sub.getLsbD (c.P.member tm (gidGroup c.gid) level) = true
  absent : (c.P.bar tm level bar).arr.getLsbD (c.P.member tm (gidGroup c.gid) level) = false
  due : tm.kdue.all (fun u => u.grp != gidGroup c.gid) = true

/-- A barrier after an arrival of member m (R261). -/
def arrivedAt (b : Barrier) (m : Nat) (drop cand : Bool) : Barrier :=
  { b with
    arr := b.arr ||| BitVec.ofNat 2048 (2 ^ m)
    count := b.count + 1
    sub := if drop then b.sub &&& ~~~(BitVec.ofNat 2048 (2 ^ m)) else b.sub
    pd := if drop then b.pd + 1 else b.pd
    cands := if cand then b.cands ++ [m] else b.cands }

/-- A barrier whose phase has completed with a role holder (R261, R262). -/
def phaseCompleted (b : Barrier) (role : Option Nat) : Barrier :=
  { b with
    ord := b.ord + 1, expect := b.expect - b.pd, pd := 0, count := 0, arr := 0, cands := []
    role := role.map fun m => (m, b.ord % 16)
    n := b.n + (if 2 ≤ b.cands.length then 1 else 0) }

/-! ## Memory, scratchpad, copies (R198 to R220) -/

/-- The group of `c` after an instruction that leaves its registers as they are: it stands at the next word with one retired
instruction more, and only its windows, in-flight operations and waits may differ besides. -/
def Kept (c : Ctx) (g : Group) : Prop :=
  g = { c.g with
    pc := c.g.pc + 4, retired := c.g.retired + 1, stage := .fresh, wait := none
    windows := g.windows, inflight := g.inflight }

/-- Scalar `d` of the group `old` has become `x`, and its word is whole (R275); no other scalar has changed. -/
structure ScalarWritten (old g : Group) (d : SReg) (x : DWord) : Prop where
  value : g.sreg d = x
  others : ∀ e, e ≠ d → g.sreg e = old.sreg e
  whole : ∀ w, w ∈ g.cpoison ↔ w ∈ old.cpoison ∧ w ≠ d.toNat

/-- The same as `Kept`, but for scalar `d`, which holds `x`. -/
def KeptBut (c : Ctx) (g : Group) (d : SReg) (x : DWord) : Prop :=
  ScalarWritten c.g g d x ∧
  g = { c.g with
    s := g.s, cpoison := g.cpoison, pc := c.g.pc + 4, retired := c.g.retired + 1, stage := .fresh, wait := none
    windows := g.windows, inflight := g.inflight }

/-- An instruction of a path that has nothing to do has been counted, and has returned behind what the path has under way (R29). -/
def Passed (c : Ctx) (g : Group) (path : Path) : Prop := g.inflight = retire path (c.g.inflight ++ [⟨0, path, true⟩])

/-- Every lane's address is canonical and its page gives the access (R198 orders 7f and 7g, R341), and no entry that the walker
reads is in a line that a `cpyv` holds (R216). -/
def Maps (c : Ctx) (acc : Acc) (items : List (Nat × DWord)) : Prop :=
  ∀ e ∈ items, canonical e.2 = true ∧ (∃ pa obs at' pte level, c.look acc (e.2.toNat % 2 ^ 56) = .ok pa obs at' pte level) ∧
    c.touchHeld acc (e.2.toNat % 2 ^ 56) = false

/-- The state in which the decline marks of the pages that an access finds valid are cleared (R199). -/
def unmarked (c : Ctx) (acc : Acc) (items : List (Nat × DWord)) : State :=
  let pages := (items.filter fun e => canonical e.2 && (c.look acc (e.2.toNat % 2 ^ 56)).found).map fun e =>
    e.2.toNat % 2 ^ 56 / 65536
  if c.team?.any fun t => t.marks.any pages.contains then c.s.clearMarks c.p c.tk pages else c.s

/-- The state after the walker's own writes for the accesses: accessed and dirty bits, and the translation caches (R340, R342). -/
def walked (c : Ctx) (acc : Acc) (items : List (Nat × DWord)) : State :=
  items.foldl (fun s e => s.touch c.p (c.P.coreOf c.gid) acc (e.2.toNat % 2 ^ 56) (c.look acc (e.2.toNat % 2 ^ 56))) c.s

/-- The addresses of an access per lane: the pair in A plus the offset scaled by the size (R202). -/
def laneAddresses (c : Ctx) (a : VReg) (o : BitVec 8) (size : Nat) : List (Nat × DWord) :=
  c.g.actives.map fun l => (l, (c.g.vreg (a.toNat + 1) l ++ c.g.vreg a.toNat l) + BitVec.ofInt 64 (o.toInt * size))
/-- The address of a scalar access (R206). -/
def scalarAddress (c : Ctx) (a : SReg) (o : BitVec 8) : List (Nat × DWord) := [(0, c.g.sreg a + BitVec.ofInt 64 (o.toInt * 8))]

/-- A load: size, first register, whether it is a scalar, window, addresses. -/
structure LoadRow where
  size : Nat
  dst : Nat
  scalar : Bool
  la : La
  items : List (Nat × DWord)

def loadRow (c : Ctx) : Instr → Option LoadRow
  | .ldw d a l o => some ⟨4, d.toNat, false, l, laneAddresses c a o 4⟩
  | .ldd d a l o => some ⟨8, d.toNat, false, l, laneAddresses c a o 8⟩
  | .ldq d a l o => some ⟨16, d.toNat, false, l, laneAddresses c a o 16⟩
  | .ldh d a l o => some ⟨2, d.toNat, false, l, laneAddresses c a o 2⟩
  | .ldb d a l o => some ⟨1, d.toNat, false, l, laneAddresses c a o 1⟩
  | .sld d a l o => some ⟨8, d.toNat, true, l, scalarAddress c a o⟩
  | .ldacq d a l sc => if sc = 6 then none else some ⟨4, d.toNat, false, l, laneAddresses c a 0 4⟩
  | _ => none

/-- A store: size, addresses with the bytes of each lane, lowest lane first. -/
structure StoreRow where
  size : Nat
  items : List (Nat × DWord)
  bytes : Nat → List Byte

/-- The low bytes of the registers d, d + 1, … of a lane, little-endian. -/
def laneBytes (c : Ctx) (d : VReg) (size l : Nat) : List Byte :=
  (List.range size).map fun k => (c.g.vreg (d.toNat + k / 4) l).extractLsb' (8 * (k % 4)) 8

def storeRow (c : Ctx) : Instr → Option StoreRow
  | .stw d a _ o => some ⟨4, laneAddresses c a o 4, laneBytes c d 4⟩
  | .std d a _ o => some ⟨8, laneAddresses c a o 8, laneBytes c d 8⟩
  | .stq d a _ o => some ⟨16, laneAddresses c a o 16, laneBytes c d 16⟩
  | .sth d a _ o => some ⟨2, laneAddresses c a o 2, laneBytes c d 2⟩
  | .stb d a _ o => some ⟨1, laneAddresses c a o 1, laneBytes c d 1⟩
  | .sst d a _ o => some ⟨8, scalarAddress c a o, fun _ => (List.range 8).map fun k => (c.g.sreg d).extractLsb' (8 * k) 8⟩
  | .strel d a _ sc => if sc = 1 then some ⟨4, laneAddresses c a 0 4, laneBytes c d 4⟩ else none
  | _ => none

/-- The pieces of a store, one for each lane, within their lines. -/
def storePieces (c : Ctx) (r : StoreRow) : List ColLine := r.items.map fun e =>
  match c.look .write (e.2.toNat % 2 ^ 56) with
  | .ok pa obs _ _ _ => piece e.2.toNat pa obs (r.bytes e.1)
  | _ => piece e.2.toNat 0 false []

/-- No byte mask of a line that the team's colander holds is poisoned (R273). -/
def MasksClean (tm : Team) : Prop := ∀ l ∈ tm.colander, ∀ d ∈ l.poison, d < 16

/-- No line that the team holds back has a poisoned double word, and the group has no `cpyo` under way. -/
structure ColanderClean (c : Ctx) : Prop where
  lines : ∀ tm, c.team? = some tm →
    (∀ l ∈ tm.colander, l.poison = []) ∧ ∀ k, tm.commit = some k → ∀ l ∈ k.lines, l.poison = []
  copies : ∀ e ∈ c.P.run.ops, ∀ lines data page, e.2 ≠ .copyOut c.gid false lines data page

/-- The scratchpad addresses of an access per lane (R207). -/
def padItems (c : Ctx) (a : VReg) (o : BitVec 8) (size : Nat) : List (Nat × Int) :=
  c.g.actives.map fun l => (l, (((c.g.vreg a.toNat l).toNat % 2 ^ 20 : Nat) : Int) + o.toInt * size)

/-- The group named slots, or a slot's tag, on its core. -/
def tagOf (t : State) (c : Ctx) (slot : Nat) : Option Tag := (t.part? c.p).bind fun P => P.tag? (c.P.coreOf c.gid) slot

/-! ## Crocks and the matrix engine (R221 to R254) -/

/-- The instruction completes: its group is as `rel` says, and no byte of memory has changed. -/
def Leaves (c : Ctx) (i : Instr) (s : State) (rel : State → Group → Prop) : Prop :=
  ∃ t g, exec i s = .next t ∧ t.group? c.p c.gid = some g ∧ rel t g ∧ ∀ a, t.byte a = s.byte a

/-- The group's team, its core, an entry of the crock directory, an accumulator tile of its core, in a state. -/
def teamIn (t : State) (c : Ctx) : Option Team := (t.part? c.p).bind fun P => P.team? c.tk
def coreIn (t : State) (c : Ctx) : Option Core := (t.part? c.p).bind fun P => P.core? (c.P.coreOf c.gid)
def dirIn (t : State) (c : Ctx) (dir : Nat) : Option DirEntry := (t.part? c.p).bind fun P => Table.get? P.run.dir dir
def tileIn (t : State) (c : Ctx) (phys : Nat) : Option Tile := (coreIn t c).bind fun k => Table.get? k.tiles phys

/-- The team holds the crock of a name, with its result known. -/
def Holds (c : Ctx) (tm : Team) (name : DWord) (a : Attach) : Prop :=
  c.team? = some tm ∧ tm.attach? name = some a ∧ a.result.isSome = true

/-- The result word of `ckopen` (R221). -/
def openResult (dir : Nat) (d : DirEntry) (created : Bool) : DWord :=
  BitVec.ofNat 64 (d.version.toNat * 2 ^ 32 + dir * 2 ^ 16 + (if created then 2 ^ 14 else 0) + d.count.toNat * 2 ^ 8 + d.base.toNat)

/-- A tile name below the quota that is bound to a physical tile, which no batch operation holds (R229 orders 7b and 7f). -/
structure TileFree (c : Ctx) (t : BitVec 3) (phys : Nat) (x : Tile) (others : Bool) : Prop where
  quota : ∃ u, c.team? = some u ∧ t.toNat < u.accQuota ∧ Table.get? u.tiles t.toNat = some phys
  free : c.tileBusy phys t others = none
  tile : c.tile? phys = some x

/-- The operation stands at the end of the queue of the core's engine, and nothing else of the core has changed. -/
def Queued (t : State) (c : Ctx) (work : MatrixWork) (tile : Option (Nat × Nat)) (ranges : List (Nat × Nat)) (bno : Nat) : Prop :=
  ∃ k op, c.P.core? (c.P.coreOf c.gid) = some k ∧
    coreIn t c = some { k with matrix := k.matrix ++ [⟨op, c.gid, work, tile, ranges, bno, false⟩] }

/-- Fewer than 64 operations and fills of the group are incomplete (R227). -/
def EngineRoom (c : Ctx) : Prop := (c.matrixOps.filter fun m => m.gid == c.gid && !m.done).length < 64

/-- Number of the cell of row y, column x. -/
def cellNo (y x : Nat) : Nat := 128 * y + x

/-! ## Sends and the whisk (R289 to R314) -/

/-- SND counts one send more, whose operation is `x`. -/
def SendStarted (t : State) (c : Ctx) (g : Group) (x : Op) : Prop :=
  ∃ op, g.inflight = c.g.inflight ++ [⟨op, .snd, false⟩] ∧
    ((t.part? c.p).bind fun P => Table.get? P.run.ops op) = some x

/-- The team has nothing to commit. -/
def Committed (tm : Team) : Prop := tm.commit = none ∧ tm.colander = [] ∧ tm.posted = []

/-- Object addresses of the lanes acted on. -/
def objects (c : Ctx) (a : VReg) : List (Nat × DWord) :=
  c.g.actives.map fun l => (l, c.g.vreg (a.toNat + 1) l ++ c.g.vreg a.toNat l)
/-- The argument of a lane: a word, a pair, or none (R306). -/
def argument (c : Ctx) (w : BitVec 2) (b : VReg) (l : Nat) : DWord :=
  if w = 0 then (c.g.vreg b.toNat l).setWidth 64 else if w = 1 then c.g.vreg (b.toNat + 1) l ++ c.g.vreg b.toNat l else 0

/-- The home of a whisk group's core. -/
def homeIn (t : State) (c : Ctx) : Option Home := (t.part? c.p).bind fun P => Table.get? P.run.homes c.gid
/-- The answer that a request has been given: a value, or none for a fault. -/
def answerIn (t : State) (p : PartNo) (id : Nat) : Option WhiskWhere :=
  ((t.part? p).bind fun P => Table.get? P.run.whisks id).map WhiskReq.place

/-! ## Events -/

/-- The event happens in its partition, which is then as `rel` says; every other partition and every byte of memory is as before. -/
def Becomes (i : Instr) (s : State) (p : PartNo) (rel : Part → Prop) : Prop :=
  ∃ t P', exec i s = .next t ∧ t.part? p = some P' ∧ rel P' ∧ (∀ q, q ≠ p → t.part? q = s.part? q) ∧ ∀ a, t.byte a = s.byte a

/-- The same for an event that may write memory. -/
def Reaches (i : Instr) (s : State) (p : PartNo) (rel : State → Part → Prop) : Prop :=
  ∃ t P', exec i s = .next t ∧ t.part? p = some P' ∧ rel t P'

/-- The last return of an operation has come to a group (R29): its instruction, and those that waited for it, leave the counter. -/
def Returned (g g' : Group) (path : Path) (op : Nat) : Prop :=
  g'.inflight = retire path (g.inflight.map fun e => if e.op = op ∧ e.path = path then { e with done := true } else e)

/-- The core of a group. -/
def coreOfGroup (P : Part) (gid : Nat) : Option Core := P.core? (P.coreOf gid)

/-- The action that the severity matrix holds for a class at the cores (R349, R350). -/
def coreAction (s : State) (P : Part) (cls : Nat) : Nat := s.action P cls srcCore

/-- The severity matrix reports and goes on: action 0, 1 or 2. -/
def Mild (n : Nat) : Prop := n ≤ 2

/-! ## Firmware, packets, services, registers (R345 to R350, R424 to R435) -/

/-- The reset values of the registers of R345, with the severities of R349; PCFG, PTROOT, PKEY and SHELFB, and what R417, R422, R423
and R431 add, stand. -/
def registersReset (r : Regs) : Regs :=
  { r with
    shelfc := 32, inv := 0, invDone := true, qos := 0x1010, whisk := 0x0420, egg := 0x8000000000000000 + 100000, drain := 2000
    eper := 10, ebudget := 0, inft := 0, obs := [], svcBusy := none
    sev := [(1, 9), (2, 9), (3, 27), (4, 9), (5, 27), (6, 9), (7, 27), (8, 9), (9, 18), (10, 18), (11, 27), (12, 36), (13, 18), (14, 27),
      (15, 18)] }

/-- A partition without work: no team, operation, request, crock, launch or record; every home empty; FREE mode. -/
structure Empty (P : Part) : Prop where
  teams : P.run.teams = []
  ops : P.run.ops = []
  lines : P.run.lines = []
  whisks : P.run.whisks = []
  dir : P.run.dir = []
  launches : P.run.launches = []
  clusters : P.run.clusters = []
  homes : ∀ e ∈ P.run.homes, e.2.queue = [] ∧ e.2.batch = none
  mode : P.mode = 0
  streams : P.choice.streams = []
  tlb : P.tlb = []
  running : P.frozen = false ∧ P.freezing = false ∧ P.draining = false
  signals : ∀ k, Cells.get 0 P.signals k = 0
  measures : P.meas = []
  inbox : P.inbox = []

/-- What a reset makes of a partition (R347, R427, R435); it keeps kernels, classes and keys. -/
structure IsReset (P P' : Part) : Prop where
  empty : Empty P'
  regs : P'.regs = registersReset P.regs
  kept : P'.kernels = P.kernels ∧ P'.classes = P.classes ∧ P'.keys = P.keys

/-- The physical function's command is carried out: its arguments stand in PFARG0 and PFARG1, its status in PFST (R348). -/
def PfCommand (i : Instr) (s : State) (arg0 arg1 : DWord) (status : Nat) (rel : State → Prop) : Prop :=
  ∃ t, exec i s = .next t ∧ t.pfStatus = BitVec.ofNat 8 status ∧ Cells.get 0 t.pfArg 0 = arg0 ∧ Cells.get 0 t.pfArg 1 = arg1 ∧ rel t
/-- Nothing else changes. -/
def PfOnly (s t : State) : Prop := t = { s with pfArg := t.pfArg, pfStatus := t.pfStatus }
def PfReady (s : State) : Prop := s.fw.booted = true ∧ s.pfBusy = false

/-- No byte has changed but in the firmware's reserved regions, 512 MiB at the base of each partition's shelf (R337). -/
def OutsideRegions (s t : State) : Prop :=
  ∀ a, (∀ e ∈ s.parts, a < e.2.regs.shelfb.toNat ∨ e.2.regs.shelfb.toNat + 2 ^ 29 ≤ a) → t.byte a = s.byte a

/-- M ← SHA-512(M ∥ d) (R435), byte 0 of a register its lowest. -/
def extended (m d : BitVec 512) : BitVec 512 := BitVec.ofNat 512 (leNat (sha512 (leBytes 64 m.toNat ++ leBytes 64 d.toNat)))

/-- Place of the packet's completion entry (R424, R426): at the packet's own index (notes/assumptions/17.md, 59.md). -/
def entryAt (x : Queue) : Nat := (x.cbase.extractLsb' 4 48).toNat * 16 + x.cons.toNat % max 1 x.size.toNat * 16

/-- The next packet of the pass is one of queue `q`, which partition `p` holds (R424 to R426); the place of its completion entry is not
behind a CXL port that is down (R421), and no `cpyv` holds a line of it or of what the packet names (R216). -/
structure AtHead (s : State) (q : BitVec 7) (pkt : BitVec 512) (rest : List (BitVec 7 × BitVec 512)) (p : PartNo) (P : Part)
    (x : Queue) : Prop where
  pass : s.fw.pass = (q, pkt) :: rest
  holder : s.holder q.toNat = some (p, P)
  part : s.part? p = some P
  queue : Table.get? P.queues q.toNat = some x
  ring : s.portDown (entryAt x) = false
  held : s.packetHeld q.toNat pkt = false

/-- The packet completes with a status: the queue advances past it, and its entry stands in the completion ring (R425, R426). -/
def Completes (i : Instr) (s : State) (p : PartNo) (q : BitVec 7) (pkt : BitVec 512) (rest : List (BitVec 7 × BitVec 512)) (x : Queue)
    (status : Nat) (rel : State → Part → Prop) : Prop :=
  ∃ t P', exec i s = .next t ∧ t.part? p = some P' ∧ t.fw.pass = rest ∧
    Table.get? P'.queues q.toNat = some { x with cons := x.cons + 1 } ∧
    (∀ j < 16, t.byte (entryAt x + j) =
      (leBytes 16 ((pkt.extractLsb' 32 32).toNat * 2 ^ 64 + status * 2 ^ 96 + (x.cons + 1).toNat * 2 ^ 104)).getD j 0) ∧ rel t P'

/-- No byte but those of the completion entry has changed. -/
def EntryOnly (s t : State) (x : Queue) : Prop := ∀ a, (a < entryAt x ∨ entryAt x + 16 ≤ a) → t.byte a = s.byte a
/-- Vector 3 is sent if the packet asks for it, and `k` times besides. -/
def Notified (P P' : Part) (pkt : BitVec 512) (k : Nat) : Prop :=
  Cells.get 0 P'.vectors 3 = Cells.get 0 P.vectors 3 + (if pkt.getLsbD 8 then 1 else 0) + BitVec.ofNat 64 k

/-- A group waits for the answer of service `n`, or sleeps, and the firmware answers (R430, R432). -/
structure AsksService (s : State) (p : PartNo) (gid : Nat) (P : Part) (g : Group) : Prop where
  part : s.part? p = some P
  group : P.group? gid = some g
  serving : s.fw.serving = true

/-- The `ccall` is complete: s0 and s1 hold the answer, and the group goes on behind it. -/
def Answered (g g' : Group) (status : DWord) : Prop :=
  g'.sreg 0 = status ∧ g'.sreg 1 = 0 ∧ (∀ r, r ≠ 0 → r ≠ 1 → g'.sreg r = g.sreg r) ∧ g'.pc = g.pc + 4 ∧ g'.stage = .fresh ∧
    g'.wait = none ∧ g'.v = g.v ∧ g'.q = g.q ∧ g'.em = g.em ∧ g'.mode = g.mode

/-- Command `cmd` waits in SVCCMD between passes (R425, R431), and no `cpyv` holds a line that it reads or writes (R216). -/
structure Commanded (s : State) (p : PartNo) (P : Part) (cmd : BitVec 8) : Prop where
  part : s.part? p = some P
  busy : P.regs.svcBusy = some cmd
  held : s.commandHeld P cmd.toNat = false
  serving : s.fw.serving = true
  between : s.fw.pass = []

/-- The command is done with a status, and SVCST is no longer busy. -/
def Serves (i : Instr) (s : State) (p : PartNo) (status : BitVec 8) (rel : State → Part → Prop) : Prop :=
  ∃ t P', exec i s = .next t ∧ t.part? p = some P' ∧ P'.regs.svcBusy = none ∧ P'.regs.svcStatus = status ∧ rel t P'
/-- The command has done nothing else. -/
def ServedOnly (s t : State) (P P' : Part) : Prop :=
  (∀ a, t.byte a = s.byte a) ∧ P' = { P with regs := P'.regs } ∧
    P'.regs = { P.regs with svcBusy := none, svcStatus := P'.regs.svcStatus }

/-- SVCARGk. -/
def svcArg (P : Part) (k : Nat) : Nat := (Cells.get 0 P.regs.svcArg k).toNat

/-- A register write is ignored, and reported on vector 0 (R345). -/
def WriteFails (P P' : Part) (off : Nat) : Prop :=
  P' = { P with reports := .failedWrite off :: P.reports, vectors := P'.vectors } ∧
    Cells.get 0 P'.vectors 0 = Cells.get 0 P.vectors 0 + 1

/-- The registers of R345, R423 and R431 that take a plain value: offset, the values they take, what they hold then. -/
def plainRow (v : DWord) : Nat → Option (Prop × (Regs → Regs))
  | 0x008 => some (v.extractLsb' 0 13 = 0 ∧ v.extractLsb' 52 12 = 0, fun r => { r with ptroot := v })
  | 0x040 => some (v.toNat < 2 ^ 16 ∧ v.extractLsb' 0 8 ≠ 0 ∧ v.extractLsb' 8 8 ≠ 0, fun r => { r with qos := v.setWidth 16 })
  | 0x058 => some (v.toNat ≤ 100000, fun r => { r with drain := v.setWidth 17 })
  | 0x060 => some (1 ≤ v.toNat ∧ v.toNat ≤ 1000, fun r => { r with eper := v.setWidth 10 })
  | 0x068 => some (v.toNat < 2 ^ 32, fun r => { r with ebudget := v.setWidth 32 })
  | 0x070 => some (v.toNat < 2 ^ 16, fun r => { r with inft := v.setWidth 16 })
  | 0x480 => some (True, fun r => { r with gbase := v })
  | 0x488 => some (v.extractLsb' 52 11 = 0 ∧ 100 ≤ (v.extractLsb' 26 26).toNat ∧ 1 ≤ (v.extractLsb' 0 26).toNat ∧
      (v.extractLsb' 0 26).toNat ≤ (v.extractLsb' 26 26).toNat, fun r => { r with gslice := v })
  | _ => none

/-- Offsets of BAR 0 at which a register stands that takes writes (R345, R350, R417, R423, R424, R431). -/
def takesWrites (off : Nat) : Prop :=
  off ∈ [0x008, 0x018, 0x028, 0x038, 0x040, 0x048, 0x050, 0x058, 0x060, 0x068, 0x070, 0x480, 0x488, 0x500, 0x508, 0x510, 0x518] ∨
  (0x080 ≤ off ∧ off ≤ 0x0F0 ∧ off % 8 = 0) ∨ (0x100 ≤ off ∧ off ≤ 0x178 ∧ off % 8 = 0) ∨
  (0x400 ≤ off ∧ off ≤ 0x478 ∧ off % 8 = 0) ∨ (0x600 ≤ off ∧ off < 0x1600 ∧ off % 8 = 0)

/-- The instructions that a method may not execute (R315): the stores, copies and waits of a team. -/
def notInMethods : Instr → Bool
  | .stw _ _ _ _ | .std _ _ _ _ | .stq _ _ _ _ | .sth _ _ _ _ | .stb _ _ _ _ | .sst _ _ _ _ | .strel _ _ _ _ | .cpyo _ _ _ _
  | .cpyv _ _ _ | .cpyt _ _ 1 _ | .wcall _ _ _ _ _ | .wpost _ _ _ _ | .exit | .arv _ _ _ | .arva _ _ _ | .arvd _ _ _ | .bwait _ _ _
  | .sendr _ _ _ _ _ | .sendb _ _ _ _ | .ccall _ | .anch | .choose _ _ => true
  | _ => false

/-- What a batch's home holds after it has failed, and what its requests are answered (R307, R316). -/
def failedWith (t : State) (p : PartNo) (reqs : List Nat) (reason : Nat) (s : State) : Prop :=
  ∀ r ∈ reqs, ∀ w, ((s.part? p).bind fun P => Table.get? P.run.whisks r) = some w → w.op ≠ 0 →
    answerIn t p r = some (.answered 0 (some ⟨if reason = 0 then 0x24 else 0x23, BitVec.ofNat 64 (w.obj.toNat % 2 ^ 56 + reason * 2 ^ 56)⟩))

end Sys2Proof.Spec

open Sys2Proof Sys2Proof.Machine Sys2Proof.Spec

/-! ## Integer, logic and predicate instructions -/

/-- R99, R100, R102: in each lane acted on, each element becomes the exact result, fitted; STAT.SAT says whether one was clamped;
any other TYPE takes the trap 0x03. -/
def Obligations.IntegerElementsAreFittedExactResults : Prop :=
  ∀ (c : Ctx) (s : State) (i : Instr) (r : IntRow), Ready c s i → intRow c i = some r →
    (∀ t, Ty.ofCode c.g.ty = some t → c.g.ty ∈ r.ok →
      CompletesWith c i s fun g => ElementsWritten c.g g t r.d fun l k =>
        fitted c.g.sat t (r.f t.w (value t (elem t.w k (r.a t.wide l))) (value t (elem t.w k (r.b t.wide l)))
          (value t (elem t.w k (c.g.direct t.wide r.d.toNat l))))) ∧
    (c.g.ty ∉ r.ok → TrapsWith c i s (badType c r.op))

/-- R104, R110 (`qtv`), R111 to R113: the 32-bit result in each lane acted on, whatever TYPE holds, and no flag. -/
def Sys2Proof.Spec.WordResultsIgnoreType : Prop :=
  ∀ (c : Ctx) (s : State) (i : Instr) (d : VReg) (f : Nat → Word), Ready c s i → wordRow c i = some (d, f) →
    CompletesWith c i s fun g => LanesWritten c.g g false d fun l => ((f l).toNat, 0)

/-- R115: `vfill` writes the scalar, or its low word, into the lanes acted on; a reserved TYPE takes 0x03. -/
def Sys2Proof.Spec.VfillWritesTheScalar : Prop :=
  ∀ (c : Ctx) (s : State) (d : VReg) (a : SReg), Ready c s (.vfill d a) →
    (∀ t, Ty.ofCode c.g.ty = some t →
      CompletesWith c (.vfill d a) s fun g => LanesWritten c.g g t.wide d fun _ => ((c.g.sreg a).toNat, 0)) ∧
    (Ty.ofCode c.g.ty = none → TrapsWith c (.vfill d a) s (badType c 0x4F))

/-- R104, R110 (`qtv`), R111 to R113, R115: the instructions that write whole lanes. -/
def Obligations.LaneWordsAndFills : Prop :=
  WordResultsIgnoreType ∧ VfillWritesTheScalar

/-- R101: `mad2` and `dot4` add the exact products of their elements to the 32-bit destination and fit the sum once; any other TYPE
takes the trap 0x03. -/
def Sys2Proof.Spec.DotProductsAccumulateExactly : Prop :=
  (∀ (c : Ctx) (s : State) (d : VReg) (a b : Operand), c.g.ty ∉ [4, 5, 6, 7] →
    (Ready c s (.mad2 d a b) → TrapsWith c (.mad2 d a b) s (badType c 0x26)) ∧
    (Ready c s (.dot4 d a b) → TrapsWith c (.dot4 d a b) s (badType c 0x27))) ∧
  (∀ (c : Ctx) (s : State) (d : VReg) (a b : Operand) (t t32 : Ty), Ty.ofCode c.g.ty = some t → c.g.ty ∈ [4, 5, 6, 7] →
    t32 = ⟨32, 1, t.kind⟩ →
    let sum (n l : Nat) : Int := value t32 (c.g.direct false d.toNat l) + ((List.range n).map fun k =>
      value t (elem t.w k (c.operand false a l)) * value t (elem t.w k (c.operand false b l))).sum
    (Ready c s (.mad2 d a b) → CompletesWith c (.mad2 d a b) s fun g =>
      LanesWritten c.g g false d fun l => fitted c.g.sat t32 (sum 2 l)) ∧
    (Ready c s (.dot4 d a b) → CompletesWith c (.dot4 d a b) s fun g =>
      LanesWritten c.g g false d fun l => fitted c.g.sat t32 (sum t.n l)))

/-- R134, R135: `fdot2` writes the rounded 32-bit sum of the two products and the old destination; `fclass` sets its predicate where
the class of an element is in the mask. -/
def Sys2Proof.Spec.FdotAndFclassComplete : Prop :=
  (∀ (c : Ctx) (s : State) (d : VReg) (a b : Operand), Ready c s (.fdot2 d a b) →
    (∀ t, Ty.ofCode c.g.ty = some t → c.g.ty ∈ [10, 11] →
      CompletesWith c (.fdot2 d a b) s fun g => LanesWritten c.g g false d fun l =>
        dot2Lane t.fmt ⟨if c.g.rnd = Rnd.stoch then Rnd.rne else c.g.rnd, c.g.ftz, c.g.nanm, c.g.sat, 0⟩
          (c.operand false a l) (c.operand false b l) (c.g.direct false d.toNat l)) ∧
    (c.g.ty ∉ [10, 11] → TrapsWith c (.fdot2 d a b) s (badType c 0x65))) ∧
  (∀ (c : Ctx) (s : State) (k : BitVec 3) (q : QReg) (a : Operand) (m : BitVec 9), Ready c s (.fclass k q a m) →
    (∀ t, Ty.ofCode c.g.ty = some t → c.g.ty ∈ [8, 9, 10, 11, 12, 13] →
      CompletesWith c (.fclass k q a m) s fun g => PredicateWritten c.g g q fun l =>
        combined k.toNat (c.g.pred q.toNat l)
          (decide (∃ j ∈ List.range t.n, m.getLsbD (classOf t.fmt (elem t.w j (c.operand t.wide a l))) = true))) ∧
    (c.g.ty ∉ [8, 9, 10, 11, 12, 13] → TrapsWith c (.fclass k q a m) s (badType c 0x60)))

/-- R101, R134, R135: `mad2`, `dot4`, `fdot2`, `fclass`.
Where these rules leave something open, this rests on the model's choice: notes/assumptions/106.md. -/
def Obligations.DotProductsAndClasses : Prop :=
  DotProductsAccumulateExactly ∧ FdotAndFclassComplete

/-- R105 to R107: shifts, counts and bit fields of each element; any other TYPE takes the trap 0x03. -/
def Obligations.ShiftAndBitResultsPerElement : Prop :=
  ∀ (c : Ctx) (s : State) (i : Instr) (r : BitRow), Ready c s i → bitRow c i = some r →
    (∀ t, Ty.ofCode c.g.ty = some t → c.g.ty ∈ r.ok →
      CompletesWith c i s fun g => ElementsWritten c.g g t r.d fun l k =>
        r.f t c.g.sat (elem t.w k (r.a t.wide l)) (elem t.w k (r.b t.wide l))) ∧
    (c.g.ty ∉ r.ok → TrapsWith c i s (badType c r.op))

/-- R108: a compare changes its predicate alone, through the combine field, in the lanes acted on; any other TYPE takes 0x03. -/
def Sys2Proof.Spec.ComparesWriteOnePredicate : Prop :=
  ∀ (c : Ctx) (s : State) (i : Instr) (r : CompareRow), Ready c s i → compareRow i = some r →
    (∀ t, Ty.ofCode c.g.ty = some t → c.g.ty ∈ r.ok →
      CompletesWith c i s fun g => PredicateWritten c.g g r.q fun l => combined r.k.toNat (c.g.pred r.q.toNat l)
        (r.r t c.g.ftz (c.operand t.wide r.a l) (c.operand t.wide r.b l))) ∧
    (c.g.ty ∉ r.ok → TrapsWith c i s (badType c r.op))

/-- R108 (`ctst`), R109, R110: the other instructions that write one predicate, and `qfv.all`, which writes all eight. -/
def Sys2Proof.Spec.PredicateInstructionsIgnoreType : Prop :=
  (∀ (c : Ctx) (s : State) (i : Instr) (q : QReg) (f : Nat → Bool), Ready c s i → predicateRow c i = some (q, f) →
    CompletesWith c i s fun g => PredicateWritten c.g g q f) ∧
  (∀ (c : Ctx) (s : State) (a : VReg), Ready c s (.qfvAll a) →
    CompletesWith c (.qfvAll a) s fun g =>
      (∀ k < 8, ∀ l < 32, g.pred k l = if c.g.active l then (c.g.vreg a.toNat l).getLsbD k else c.g.pred k l) ∧
      (∀ w, w ∈ g.cpoison ↔ w ∈ c.g.cpoison ∧ ((∀ k < 8, w ≠ predWord k) ∨ ∃ l < 32, c.g.active l = false)) ∧
      g = { c.g with q := g.q, cpoison := g.cpoison })

/-- R108 to R110: the instructions that write predicates. -/
def Obligations.ComparesAndPredicateInstructions : Prop :=
  ComparesWriteOnePredicate ∧ PredicateInstructionsIgnoreType

/-- R116, R118, R120, R121: a scalar instruction writes its scalar, and nothing else of the group changes. -/
def Sys2Proof.Spec.ScalarInstructionsWriteOneScalar : Prop :=
  ∀ (c : Ctx) (s : State) (i : Instr) (d : SReg) (x : DWord), Ready c s i → scalarRow c i = some (d, x) →
    CompletesWith c i s fun g => ScalarWritten c.g g d x ∧ g = { c.g with s := g.s, cpoison := g.cpoison }

/-- R117: `vred` folds the values of the lanes acted on in increasing lane order. -/
def Sys2Proof.Spec.VredFoldsActiveLanes : Prop :=
  ∀ (c : Ctx) (s : State) (d : SReg) (o : BitVec 3) (m : VReg), Ready c s (.vred d o m) →
    (∀ t, Ty.ofCode c.g.ty = some t → c.g.ty ∈ [0, 1, 2, 3] →
      CompletesWith c (.vred d o m) s fun g =>
        ScalarWritten c.g g d (c.g.actives.foldl
          (fun x l => reduce o.toNat x (BitVec.ofInt 64 (value t (c.g.direct t.wide m.toNat l)))) (identity o.toNat t.w)) ∧
        g = { c.g with s := g.s, cpoison := g.cpoison }) ∧
    (c.g.ty ∉ [0, 1, 2, 3] → TrapsWith c (.vred d o m) s (badType c 0x77))

/-- R119: `vins` writes the named lane if it is active, and has no effect otherwise. -/
def Sys2Proof.Spec.VinsWritesTheNamedLane : Prop :=
  ∀ (c : Ctx) (s : State) (a b : SReg) (p : Bool) (m : VReg), Ready c s (.vins a b p m) →
    CompletesWith c (.vins a b p m) s fun g =>
      let named := ((c.g.sreg b).extractLsb' 0 5).toNat
      (∀ l < 32, g.direct p m.toNat l =
        if l = named ∧ c.g.active l = true then if p then (c.g.sreg a).toNat else (c.g.sreg a).toNat % 2 ^ 32
        else c.g.direct p m.toNat l) ∧
      (∀ r, ∀ l < 32, r ≠ m.toNat → (p = true → r ≠ m.toNat + 1) → g.vreg r l = c.g.vreg r l) ∧
      (∀ x ∈ g.vpoison, x ∈ c.g.vpoison) ∧ g = { c.g with v := g.v, vpoison := g.vpoison }

/-- R116 to R121: the instructions that write one scalar, and `vins`.
Where these rules leave something open, this rests on the model's choice: notes/assumptions/23.md. -/
def Obligations.ScalarResultsAndReductions : Prop :=
  ScalarInstructionsWriteOneScalar ∧ VredFoldsActiveLanes ∧ VinsWritesTheNamedLane

/-- R121, R31: `kwr` enters the scalar as a write of its group to the uniform register in the running phase; the register itself
keeps its value until the phase ends. -/
def Sys2Proof.Spec.KwrEntersAWriteOfThePhase : Prop :=
  ∀ (c : Ctx) (s : State) (a : SReg) (n : BitVec 4) (tm : Team), Ready c s (.kwr a n) → c.team? = some tm →
    ∃ t, exec (.kwr a n) s = .next t ∧
      Stepped c (s.setPart c.p (c.P.modTeam c.tk fun tm =>
        { tm with kwrites := tm.kwrites ++ [⟨gidGroup c.gid, n.toNat, c.g.sreg a⟩] })) t

/-- R31: when a phase of team barrier 0 completes, each uniform register that groups wrote takes the last write of the lowest-numbered
of them, and every other writer of it owes the trap 0x22 for that phase. -/
def Sys2Proof.Spec.LowestWriterOfAUniformRegisterPrevails : Prop :=
  ∀ (tm : Team) (ord r : Nat), r < 16 →
    let writes (g : Nat) : List UniformWrite := tm.kwrites.filter fun w => w.reg = r ∧ w.grp = g
    let k' := Cells.get 0 (tm.settleUniform ord).k r
    (tm.settleUniform ord).kwrites = [] ∧
    ((∀ g, writes g = []) → k' = Cells.get 0 tm.k r) ∧
    (∀ g w, (writes g).getLast? = some w → (∀ h < g, writes h = []) → k' = w.val ∧
      ∀ h, g < h → writes h ≠ [] → ∃ u ∈ (tm.settleUniform ord).kdue, u.grp = h ∧ u.ord = ord)

/-- R31, R121: `kwr`, and the end of the phase in which it wrote.
Where these rules leave something open, this rests on the model's choice: notes/assumptions/19.md. -/
def Obligations.UniformRegistersTakeTheLowestWriter : Prop :=
  KwrEntersAWriteOfThePhase ∧ LowestWriterOfAUniformRegisterPrevails

/-! ## Floating point and conversion -/

/-- R124 to R136: an element-wise floating instruction writes its elements in the lanes acted on and ORs their flags into STAT; any
TYPE that it does not accept takes 0x03.
Where these rules leave something open, this rests on the model's choice: notes/assumptions/10.md. -/
def Obligations.FloatElementsPerLane : Prop :=
  ∀ (c : Ctx) (s : State) (i : Instr) (r : FloatRow), Ready c s i → floatRow i = some r →
    (∀ t, Ty.ofCode c.g.ty = some t → c.g.ty ∈ r.ok →
      CompletesWith c i s fun g => ElementsWritten c.g g t r.d fun l k =>
        r.f t ⟨if c.g.rnd = Rnd.stoch then Rnd.rne else c.g.rnd, c.g.ftz, c.g.nanm, c.g.sat, 0⟩
          (elem t.w k (c.operand t.wide r.a l)) (elem t.w k (c.operand t.wide r.b l))
          (elem t.w k (c.g.direct t.wide r.d.toNat l))) ∧
    (c.g.ty ∉ r.ok → TrapsWith c i s (badType c r.op))

/-- R126, R127: on finite operands `fadd`, `fsub`, `fmul`, `fma`, `fms` round the exact result once; an exact zero of a sum takes the
sign of R71, a zero product the xor of the signs. -/
def Sys2Proof.Spec.FloatArithmeticRoundsTheExactResultOnce : Prop :=
  ∀ (t : Ty) (v : Env) (x y z : Nat) (r : FloatRow) (i : Instr), floatRow i = some r →
    let a := readF t.fmt v.ftz x
    let b := readF t.fmt v.ftz y
    let d := readF t.fmt v.ftz z
    finite a → finite b → finite d →
    let ab := Dy.mul a.dy b.dy
    let zero (n m : Bool) (za zb : Bool) : Bool := if za && zb && n == m then n else v.rnd == .rdn
    match i with
    | .fadd _ _ _ => r.f t v x y z = roundDy t.fmt v (zero a.neg b.neg a.isZero b.isZero) (Dy.add a.dy b.dy)
    | .fsub _ _ _ => r.f t v x y z = roundDy t.fmt v (zero a.neg (!b.neg) a.isZero b.isZero) (Dy.sub a.dy b.dy)
    | .fmul _ _ _ => r.f t v x y z = roundDy t.fmt v (a.neg ^^ b.neg) ab
    | .fma _ _ _ =>
      r.f t v x y z = roundDy t.fmt v (zero (a.neg ^^ b.neg) d.neg (a.isZero || b.isZero) d.isZero) (Dy.add ab d.dy)
    | .fms _ _ _ =>
      r.f t v x y z = roundDy t.fmt v (zero (!(a.neg ^^ b.neg)) d.neg (a.isZero || b.isZero) d.isZero) (Dy.add (Dy.neg ab) d.dy)
    | _ => True

/-- R74, R75: the first NaN operand in the order A, B, old destination gives the result of the instructions that compute with their
operands' values, quiet, or the canonical NaN under NANM, and sets no flag. -/
def Sys2Proof.Spec.FirstNanOperandPropagates : Prop :=
  ∀ (t : Ty) (v : Env) (x y z : Nat) (r : FloatRow) (i : Instr), floatRow i = some r →
    let kept (w : Nat) : Nat × Nat := match unpack t.fmt w with
      | .nan n p => (keepNan t.fmt v.nanm n p, 0)
      | _ => (0, 0)
    let na := (unpack t.fmt x).isNan = true
    let nb := (unpack t.fmt y).isNan = true
    let nd := (unpack t.fmt z).isNan = true
    match i with
    | .fadd _ _ _ | .fsub _ _ _ | .fmul _ _ _ | .fdiv _ _ _ =>
      (na → r.f t v x y z = kept x) ∧ (¬na → nb → r.f t v x y z = kept y)
    | .fma _ _ _ | .fms _ _ _ =>
      (na → r.f t v x y z = kept x) ∧ (¬na → nb → r.f t v x y z = kept y) ∧ (¬na → ¬nb → nd → r.f t v x y z = kept z)
    | .fsqrt _ _ | .frcp _ _ | .frsq _ _ | .fexp2 _ _ | .flog2 _ _ | .fsinpi _ _ | .fcospi _ _ | .frint _ _ | .fscale _ _ _
      | .fgetexp _ _ => na → r.f t v x y z = kept x
    | _ => True

/-- R74, R75, R126, R127: the values of the floating instructions on finite operands and on NaNs. -/
def Obligations.FloatArithmeticIsRoundedOnce : Prop :=
  FloatArithmeticRoundsTheExactResultOnce ∧ FirstNanOperandPropagates

/-- R87: rounding m × 2^e to a multiple of 2^q, q above e, gives the neighbour nearer to zero or the one farther from it, by the mode;
it is exact when m × 2^e is such a multiple, and then nothing is rounded. -/
def Obligations.RoundingTakesTheNeighbourOfItsMode : Prop :=
  ∀ (r : Rnd) (draw : Nat) (neg : Bool) (m : Nat) (e q : Int), e < q →
    let u := 2 ^ (q - e).toNat
    let near := m / u
    let far := near + 1
    let res := roundAt r draw neg m e q
    (res.2 = true ↔ u ∣ m) ∧ (u ∣ m → res.1 * u = m) ∧
    (¬u ∣ m →
      match r with
      | .rne => (2 * (m - near * u) < u → res.1 = near) ∧ (u < 2 * (m - near * u) → res.1 = far) ∧
          (2 * (m - near * u) = u → (res.1 = near ∨ res.1 = far) ∧ res.1 % 2 = 0)
      | .rtz => res.1 = near
      | .rup => res.1 = if neg then near else far
      | .rdn => res.1 = if neg then far else near
      | .rna => (2 * (m - near * u) < u → res.1 = near) ∧ (u ≤ 2 * (m - near * u) → res.1 = far)
      | .stoch => res.1 = if draw < (m - near * u) * 2 ^ 16 / u then far else near)

/-- R103, R28, R92: `rsh` divides each element by 2^c and rounds once, narrows when bit 7 of the count element says so, and raises CTR
by one under STOCH. -/
def Sys2Proof.Spec.RshRoundsTheQuotient : Prop :=
  ∀ (c : Ctx) (s : State) (d : VReg) (a b : Operand), Ready c s (.rsh d a b) →
    (∀ t, Ty.ofCode c.g.ty = some t → c.g.ty ∈ [0, 1, 2, 3, 4, 5] →
      ∃ u g, exec (.rsh d a b) s = .next u ∧
        Ran c s u ({ g with ctr := if c.g.rnd = Rnd.stoch then c.g.ctr + 1 else c.g.ctr }.completed (c.g.pc + 4)) ∧
        ElementsWritten c.g g t d fun l k =>
          let x := value t (elem t.w k (c.operand t.wide a l))
          let y := elem t.w k (c.operand t.wide b l)
          let q := roundAt c.g.rnd (laneDraw c.g.seed c.g.ctr l k) (decide (x < 0)) x.natAbs (-((y % t.w : Nat) : Int)) 0
          let whole : Int := if x < 0 then -(q.1 : Int) else q.1
          let half : Ty := ⟨t.w / 2, t.n, t.kind⟩
          let narrow := fitted c.g.sat half whole
          let inx := if q.2 then 0 else 2
          if y.testBit 7 then ((BitVec.ofInt t.w (value half narrow.1)).toNat, narrow.2 + inx)
          else ((BitVec.ofInt t.w whole).toNat, inx)) ∧
    (c.g.ty ∉ [0, 1, 2, 3, 4, 5] → TrapsWith c (.rsh d a b) s (badType c 0x2D))

/-- R137, R138, R28: `cvt` writes the destination type's elements, those that the narrower lane has, and copies under the same TYPE; it
raises CTR by one under STOCH; a reserved TYPE takes 0x03. -/
def Sys2Proof.Spec.CvtConvertsEachElement : Prop :=
  ∀ (c : Ctx) (s : State) (d : VReg) (a : Operand) (k : BitVec 5) (dst : Ty), Ready c s (.cvt d a k) → Ty.ofCode k.toNat = some dst →
    (∀ src, Ty.ofCode c.g.ty = some src →
      ∃ u g, exec (.cvt d a k) s = .next u ∧
        Ran c s u ({ g with ctr := if c.g.rnd = Rnd.stoch then c.g.ctr + 1 else c.g.ctr }.completed (c.g.pc + 4)) ∧
        LanesWritten c.g g dst.wide d fun l =>
          let x := c.operand src.wide a l
          if k.toNat = c.g.ty then (x, 0)
          else packElems dst.w ((List.range (min src.n dst.n)).map fun j => convert
            ⟨c.g.rnd, c.g.ftz, c.g.nanm, c.g.sat, laneDraw c.g.seed c.g.ctr l j⟩ src dst (elem src.w j x))) ∧
    (Ty.ofCode c.g.ty = none → TrapsWith c (.cvt d a k) s (badType c 0x61))

/-- R28, R92, R103, R137, R138: the instructions that round and narrow.
Where these rules leave something open, this rests on the model's choice: notes/assumptions/106.md. -/
def Obligations.RoundingShiftAndConversion : Prop :=
  RshRoundsTheQuotient ∧ CvtConvertsEachElement

/-! ## Control flow, traps, system registers -/

/-- R140, R141: a branch that is taken goes to its target, one that is not to the next word; nothing else of the group changes. -/
def Sys2Proof.Spec.BranchesGoWhereTheirConditionSays : Prop :=
  ∀ (c : Ctx) (s : State) (i : Instr) (taken : Prop) (target : DWord), Ready c s i → branchRow c i = some (taken, target) →
    ∃ t, exec i s = .next t ∧ (taken → Completed c s t target) ∧ (¬taken → Stepped c s t)

/-- R141: `call` and `callr` save PC + 4 and go to their target, `jr` goes to the address in its scalar; an address that is no
multiple of 4 takes 0x12 with the address, and saves nothing. -/
def Sys2Proof.Spec.CallsSaveTheReturnAddress : Prop :=
  (∀ (c : Ctx) (s : State) (l : SReg) (o : BitVec 19), Ready c s (.call l o) →
    ∃ t, exec (.call l o) s = .next t ∧ Ran c s t ((c.g.setS l (c.g.pc + 4)).completed (branchTarget c o))) ∧
  (∀ (c : Ctx) (s : State) (d a : SReg), Ready c s (.callr d a) →
    ((c.g.sreg a).toNat % 4 = 0 →
      ∃ t, exec (.callr d a) s = .next t ∧ Ran c s t ((c.g.setS d (c.g.pc + 4)).completed (c.g.sreg a))) ∧
    ((c.g.sreg a).toNat % 4 ≠ 0 → TrapsWith c (.callr d a) s ⟨0x12, c.g.sreg a⟩)) ∧
  (∀ (c : Ctx) (s : State) (a : SReg), Ready c s (.jr a) → isWhisk c.gid = false →
    ((c.g.sreg a).toNat % 4 = 0 → ∃ t, exec (.jr a) s = .next t ∧ Ran c s t (c.g.completed (c.g.sreg a))) ∧
    ((c.g.sreg a).toNat % 4 ≠ 0 → TrapsWith c (.jr a) s ⟨0x12, c.g.sreg a⟩))

/-- R140, R141: branches, calls, jumps. -/
def Obligations.ControlTransfers : Prop :=
  BranchesGoWhereTheirConditionSays ∧ CallsSaveTheReturnAddress

/-- R18, R143 to R145: the mask stack, EM, MODE and PERM instructions change their group as R143 to R145 say, or take their trap. -/
def Obligations.MaskAndModeInstructions : Prop :=
  ∀ (c : Ctx) (s : State) (i : Instr), Ready c s i →
    (∀ g, groupRow c i = some (.becomes g) → ∃ t, exec i s = .next t ∧ Ran c s t (g.completed (c.g.pc + 4))) ∧
    (∀ tr, groupRow c i = some (.traps tr) → TrapsWith c i s tr)

/-- R146: `xset` and `xadd` write the index in the lanes acted on, or, where the value of some such lane is outside 0 to 63, take 0x05
for the lowest one and write nothing; `xbnd` writes the bounds; `xrd` reads all three. -/
def Obligations.IndexRegisterInstructions : Prop :=
  (∀ (c : Ctx) (s : State) (i : Instr) (k : XReg) (f : Nat → Int), Ready c s i → indexRow c i = some (k, f) →
    ((∀ l < 32, c.g.active l = true → 0 ≤ f l ∧ f l ≤ 63) →
      CompletesWith c i s fun g =>
        (∀ j, ∀ l < 32, (g.index j l : Int) = if j = k.toNat ∧ c.g.active l = true then f l else c.g.index j l) ∧
        LanesMend c g (indexWord k.toNat) 8 ∧ g = { c.g with xi := g.xi, cpoison := g.cpoison }) ∧
    (∀ l < 32, c.g.active l = true → ¬(0 ≤ f l ∧ f l ≤ 63) →
      (∀ m < l, c.g.active m = true → 0 ≤ f m ∧ f m ≤ 63) →
      TrapsWith c i s ⟨5, BitVec.ofNat 64 (l + k.toNat * 2 ^ 12 + 2 ^ 15 + (BitVec.ofInt 32 (f l)).toNat * 2 ^ 32)⟩)) ∧
  (∀ (c : Ctx) (s : State) (k : XReg) (lo hi : BitVec 6), Ready c s (.xbnd k lo hi) →
    CompletesWith c (.xbnd k lo hi) s fun g =>
      (∀ j, ∀ l < 32, g.lower j l = if j = k.toNat ∧ c.g.active l = true then lo.toNat else c.g.lower j l) ∧
      (∀ j, ∀ l < 32, g.upper c.n j l = if j = k.toNat ∧ c.g.active l = true then hi.toNat else c.g.upper c.n j l) ∧
      LanesMend c g (boundWord k.toNat) 4 ∧ g = { c.g with xlo := g.xlo, xhi := g.xhi, cpoison := g.cpoison }) ∧
  (∀ (c : Ctx) (s : State) (k : XReg) (d : VReg), Ready c s (.xrd k d) →
    CompletesWith c (.xrd k d) s fun g => LanesWritten c.g g false d fun l =>
      (c.g.index k.toNat l + 2 ^ 8 * c.g.lower k.toNat l + 2 ^ 16 * c.g.upper c.n k.toNat l, 0))

/-- R151: `trap` and `brk` complete, so that TPC will be the next instruction, and then raise 0x08 with the immediate, or 0x09. -/
def Sys2Proof.Spec.SoftwareTrapsRaiseTheirCause : Prop :=
  ∀ (c : Ctx) (s : State) (i : Instr) (tr : Trap), Ready c s i → c.g.inTrap = false →
    ((∃ n, i = .trap n ∧ tr = ⟨8, n.setWidth 64⟩) ∨ (i = .brk ∧ tr = ⟨9, 0⟩)) →
    exec i s = .next (((s.modGroup c.p c.gid fun g => g.completed (g.pc + 4)).raiseTrap c.p c.gid tr).modPart c.p fun P =>
      { P with fire := P.fire + 1 })

/-- R43, R42 order 1: a word of a reserved major opcode takes 0x01 with the word in TINFO. -/
def Sys2Proof.Spec.ReservedOpcodesTrapIllegal : Prop :=
  ∀ (c : Ctx) (s : State) (w : Word), Ready c s (.illegalInstruction w) →
    TrapsWith c (.illegalInstruction w) s ⟨1, w.setWidth 64⟩

/-- Fields of the words of an opcode that shall be zero or that have reserved values (R49, R50, R59), by rising bits: lowest bit, width,
the values allowed. Opcodes whose fields depend on other bits of the word are left out. -/
def Sys2Proof.Spec.fieldRules (op : Nat) : List (Nat × Nat × (Nat → Bool)) :=
  let zero (x : Nat) : Bool := x == 0
  let upTo2 (x : Nat) : Bool := decide (x ≤ 2)
  let scope (x : Nat) : Bool := decide (1 ≤ x) && decide (x ≤ 6)
  if op ∈ [0x00, 0x01, 0x0C, 0x0D, 0x14, 0x15, 0x1C] then [(0, 24, zero)]
  else if op ∈ [0x04, 0x1A, 0xB0] then [(0, 9, zero), (9, 5, zero)]
  else if op ∈ [0x05, 0x0F, 0x12, 0xB1] then [(0, 9, zero), (9, 5, zero), (19, 5, zero)]
  else if op = 0x0E then [(0, 9, zero), (9, 5, zero), (14, 5, zero)]
  else if op ∈ [0x13, 0x1B] then [(16, 8, zero)]
  else if op ∈ [0x28, 0x29, 0x34, 0x3C, 0x3D, 0x3E, 0x49, 0x58, 0x59, 0x5A, 0x5B, 0x5C, 0x5D, 0x5E, 0x5F, 0x63, 0x64, 0x68, 0x69, 0x6A,
      0x6C, 0x6D, 0x6E, 0x74, 0x75, 0x76] then [(0, 9, zero)]
  else if op ∈ [0x39, 0x3A, 0x3B] then [(6, 6, zero)]
  else if op ∈ [0x7D, 0x7E] then [(0, 11, zero)]
  else if op ∈ [0x8A, 0x8B] then [(0, 3, scope), (3, 5, zero)]
  else if op ∈ [0x8C, 0x8D] then [(12, 2, zero)]
  else if op ∈ [0x92, 0x93, 0x98, 0x99, 0x9A, 0x9E, 0xA0, 0xA2, 0xCA] then [(0, 8, zero), (12, 2, zero)]
  else if op = 0x94 then [(0, 8, zero), (14, 5, zero)]
  else if op ∈ [0x95, 0xC5] then [(0, 3, upTo2)]
  else if op = 0x96 then [(0, 3, upTo2), (3, 5, zero)]
  else if op ∈ [0x97, 0xC6, 0xC9] then [(0, 8, zero)]
  else if op ∈ [0x9F, 0xA1] then [(0, 8, zero), (12, 2, zero), (19, 5, zero)]
  else if op ∈ [0xA5, 0xA6, 0xAE, 0xAF] then [(3, 5, zero), (12, 2, zero)]
  else if op ∈ [0xAA, 0xAB] then [(3, 5, zero), (12, 2, zero), (14, 5, zero), (19, 5, zero)]
  else if op = 0xC4 then [(0, 18, zero), (18, 3, upTo2), (21, 3, scope)]
  else []

/-- The group of `c` is to issue an instruction, and nothing holds it up before the checks of R42. -/
structure Sys2Proof.Spec.Issues (c : Ctx) (s : State) : Prop where
  issuer : s.issuer = some c
  fresh : c.g.stage = .fresh
  noWait : c.g.wait = none
  windows : c.g.windows.any Window.blocks = false
  noFault : c.g.dueWhisk = none
  code : c.g.poisons issueWords = false

/-- R42 order 2, R59: a word whose opcode has a field that shall be zero and is not, or that holds a reserved value, is no instruction, and
takes 0x02 with the word and the lowest bit of the first such field. -/
def Sys2Proof.Spec.ReservedFieldsTrap : Prop :=
  ∀ (w : Word) (before after : List (Nat × Nat × (Nat → Bool))) (lo n : Nat) (ok : Nat → Bool),
    fieldRules (w.extractLsb' 24 8).toNat = before ++ (lo, n, ok) :: after →
    (∀ f ∈ before, f.2.2 (w.extractLsb' f.1 f.2.1).toNat = true) → ok (w.extractLsb' lo n).toNat = false →
    decode w = .error (.reservedField w lo) ∧
    ∀ (c : Ctx) (s : State), Issues c s → rejectWord (.reservedField w lo) s =
      (s.raiseTrap c.p c.gid ⟨2, w.setWidth 64 + BitVec.ofNat 64 (lo * 2 ^ 32)⟩).modPart c.p fun P => { P with fire := P.fire + 1 }

/-- R14 to R16, R42 orders 3 to 5, R53, R56: a destination or direct operand outside the kernel's registers, or odd under a 64-bit TYPE,
takes 0x04; an indexed one out of its bounds takes 0x05 for the lowest such lane; a register that an open window protects takes 0x06.
Of several, the destination comes first, then A, then B (notes/assumptions/15.md). -/
def Sys2Proof.Spec.RegisterChecksTrap : Prop :=
  (∀ (c : Ctx) (s : State) (i : Instr) (d : VReg) (a b : Operand), Issues c s →
    i ∈ [.add d a b, .sub d a b, .mul d a b, .mulh d a b, .mad d a b, .msb d a b, .min d a b, .max d a b, .avg d a b, .shl d a b,
      .shr d a b, .sar d a b, .rol d a b, .fadd d a b, .fsub d a b, .fmul d a b, .fma d a b, .fms d a b, .fmin d a b, .fmax d a b,
      .fdiv d a b] →
    let span := if c.g.ty ∈ [2, 3, 9] then 2 else 1
    let out (r : BitVec 6) : Prop := c.n ≤ r.toNat ∨ r.toNat % span ≠ 0
    let trap (r : BitVec 6) (field : Nat) : Prop :=
      TrapsWith c i s ⟨4, BitVec.ofNat 64 (r.toNat + field * 2 ^ 8 + if r.toNat % span ≠ 0 then 2 ^ 10 else 0)⟩
    let direct (o : Operand) : Prop := o.pat ≠ .idx ∧ ¬ out o.reg
    (out d → trap d 0) ∧
    (¬ out d → a.pat ≠ .idx → out a.reg → trap a.reg 1) ∧
    (¬ out d → direct a ∨ a.pat = .idx → b.pat ≠ .idx → out b.reg → trap b.reg 2) ∧
    (∀ l < 32, span = 1 → ¬ out d → a.pat = .idx → direct b →
      let k := a.reg.toNat / 8
      let e (l : Nat) := c.g.index k l + a.reg.toNat % 8
      let bad (l : Nat) : Prop := e l < c.g.lower k l ∨ c.g.upper c.n k l < e l ∨ c.n ≤ e l
      c.g.active l = true → bad l → (∀ m < l, c.g.active m = true → ¬ bad m) →
      TrapsWith c i s ⟨5, BitVec.ofNat 64 (l + e l * 2 ^ 5 + k * 2 ^ 12)⟩) ∧
    (∀ x : Window, ¬ out d → direct a → direct b → c.g.windows = [x] → x.pos ≤ x.la →
      let trap (r : BitVec 6) : Prop := TrapsWith c i s ⟨6, BitVec.ofNat 64 (r.toNat + x.pos * 2 ^ 8 + x.la * 2 ^ 12)⟩
      (d.toNat ∈ x.vregs → trap d) ∧
      (d.toNat ∉ x.vregs → d.toNat + 1 ∉ x.vregs → a.reg.toNat ∈ x.vregs → trap a.reg))) ∧
  (∀ (c : Ctx) (s : State) (i : Instr) (d a : VReg) (l : La) (o : BitVec 8) (span : Nat), Issues c s →
    (span = 1 ∧ i ∈ [.ldw d a l o, .ldh d a l o, .ldb d a l o, .stw d a l o, .sth d a l o, .stb d a l o]) ∨
      (span = 2 ∧ i ∈ [.ldd d a l o, .std d a l o]) →
    let out (r : VReg) (n : Nat) : Prop := c.n ≤ r.toNat ∨ r.toNat % n ≠ 0
    let trap (r : VReg) (n field : Nat) : Prop :=
      TrapsWith c i s ⟨4, BitVec.ofNat 64 (r.toNat + field * 2 ^ 8 + if r.toNat % n ≠ 0 then 2 ^ 10 else 0)⟩
    (out d span → trap d span 3) ∧ (¬ out d span → out a 2 → trap a 2 1)) ∧
  (∀ (c : Ctx) (s : State) (i : Instr) (d a b : SReg) (x : Window), Issues c s →
    i ∈ [.sadd d a b, .ssub d a b, .smul d a b, .sand d a b, .sor d a b, .sxor d a b, .sceq d a b, .sclt d a b, .scltn d a b] →
    c.g.windows = [x] → x.pos ≤ x.la →
    let trap (r : SReg) : Prop := TrapsWith c i s ⟨6, BitVec.ofNat 64 (r.toNat + 2 ^ 6 + x.pos * 2 ^ 8 + x.la * 2 ^ 12)⟩
    (d.toNat ∈ x.sregs → trap d) ∧ (d.toNat ∉ x.sregs → a.toNat ∈ x.sregs → trap a) ∧
    (d.toNat ∉ x.sregs → a.toNat ∉ x.sregs → b.toNat ∈ x.sregs → trap b))

/-- R14 to R16, R42, R43, R53, R56, R59, R151: `trap`, `brk`, the words of no instruction, and the checks before an instruction's own.
Where these rules leave something open, this rests on the model's choice: notes/assumptions/15.md. -/
def Obligations.TrapInstructionsRaiseTheirCause : Prop :=
  SoftwareTrapsRaiseTheirCause ∧ ReservedOpcodesTrapIllegal ∧ ReservedFieldsTrap ∧ RegisterChecksTrap

/-- R152: a team's group with every window closed, outside a handler, with a trap vector of its own, enters a trap: PC, MODE and EM are
saved, the cause and TINFO delivered, MODE is 0, EM all ones and PC the vector; every other field, every other group and all of memory
are as before. None of the words that the entry reads is poisoned (R273). -/
def Sys2Proof.Spec.TrapEntryAtOnce : Prop :=
  ∀ (s : State) (p : PartNo) (gid : Nat) (g : Group) (tr : Trap), s.group? p gid = some g → isWhisk gid = false →
    g.windows.all Window.done = true → g.inTrap = false → g.tvec ≠ 0xFFFFFFFFFFFFFFFC → g.poisons (tvecWord :: issueWords) = false →
    s.raiseTrap p gid tr = s.modGroup p gid (fun _ => handlerEntered g tr) ∧
    (s.raiseTrap p gid tr).group? p gid = some (handlerEntered g tr) ∧
    ∀ a, (s.raiseTrap p gid tr).byte a = s.byte a

/-- R152 step 1: while a window of the group is open, the trap waits, latched, and no register changes. -/
def Sys2Proof.Spec.TrapEntryWaitsForOpenWindows : Prop :=
  ∀ (s : State) (p : PartNo) (gid : Nat) (g : Group) (tr : Trap), s.group? p gid = some g →
    g.windows.all Window.done = false →
    s.raiseTrap p gid tr = s.modGroup p gid fun g =>
      { g with latched := some tr, stage := .fresh, wait := some .inFlight }

/-- R152, R273, R274: a trap entry that reads an uncorrectable word consumes it: PC, EM and MODE, and TVEC outside a handler. -/
def Sys2Proof.Spec.TrapEntryConsumesPoison : Prop :=
  ∀ (s : State) (p : PartNo) (gid : Nat) (g : Group) (tr : Trap), s.group? p gid = some g → g.windows.all Window.done = true →
    g.poisons issueWords = true ∨ (isWhisk gid = false ∧ g.inTrap = false ∧ g.poisons [tvecWord] = true) →
    s.raiseTrap p gid tr = s.consumeBy p gid 3 srcCore 0

/-- R36, R156: a trap whose vector is the launch value of TVEC goes to the firmware's default handler: team, group, PC, cause and TINFO
are reported, the error vector is raised, and the team ends without a commit; no byte of memory changes where it has staged no
record. -/
def Sys2Proof.Spec.TrapEntryToTheDefaultHandler : Prop :=
  ∀ (s : State) (p : PartNo) (P : Part) (gid : Nat) (tm : Team) (g : Group) (tr : Trap), s.part? p = some P →
    P.team? (gidTeam gid) = some tm → P.group? gid = some g → isWhisk gid = false → g.windows.all Window.done = true →
    g.inTrap = false → g.tvec = 0xFFFFFFFFFFFFFFFC → g.poisons (tvecWord :: issueWords) = false →
    s.raiseTrap p gid tr = (s.modPart p fun Q => { Q with
        reports := .killed (((Q.team? (gidTeam gid)).map Team.tidx).getD 0) (gidGroup gid) g.pc tr :: Q.reports
        vectors := Cells.set 0 Q.vectors 0 (Cells.get 0 Q.vectors 0 + 1) }).killTeam p (gidTeam gid) ∧
    (tm.staged = [] → ∃ P', (s.raiseTrap p gid tr).part? p = some P' ∧ P'.team? (gidTeam gid) = none ∧
      P'.reports = .killed tm.tidx (gidGroup gid) g.pc tr :: P.reports ∧
      ∀ a, (s.raiseTrap p gid tr).byte a = s.byte a)

/-- R152, R156, R273, R274: trap entry. Where these rules leave something open, this rests on the model's choice: notes/assumptions/43.md. -/
def Obligations.TrapEntrySavesAndGoesToTheVector : Prop :=
  TrapEntryAtOnce ∧ TrapEntryWaitsForOpenWindows ∧ TrapEntryConsumesPoison ∧ TrapEntryToTheDefaultHandler

/-- R155, R349: a second trap in a handler stops the group: it is live no more, its registers stay, and the record with both traps is
reported.
Where these rules leave something open, this rests on the model's choice: notes/assumptions/110.md. -/
def Obligations.DoubleFaultReportsAndStops : Prop :=
  ∀ (s : State) (p : PartNo) (P : Part) (gid : Nat) (g : Group) (tr : Trap), s.part? p = some P → P.group? gid = some g →
    isWhisk gid = false → g.windows.all Window.done = true → g.inTrap = true → g.poisons issueWords = false →
    ∃ P', s.raiseTrap p gid tr = (s.setPart p P').severity p 11 srcCore (P'.coreOf gid) 0 (P'.requester gid 0)
        (some (gidTeam gid)) true false ∧
      P'.group? gid = some { g with run := .stopped, latched := none, stage := .fresh, wait := none } ∧
      P'.reports = .doubleFault (((P.team? (gidTeam gid)).map Team.tidx).getD 0) (gidGroup gid) g.tpc ⟨g.tcause, g.tinfo⟩ g.pc tr ::
        P.reports

/-- R153: `tret` waits while a window is open; in a handler, with every window closed, it goes to TPC with MODE and EM restored and the in-trap bit clear; outside a
handler it takes 0x01; a reserved TMODE value takes 0x02 and a misaligned TPC 0x12. -/
def Obligations.TretRestoresTheSavedState : Prop :=
  (∀ (c : Ctx) (s : State), Ready c s .tret → c.g.windows.all Window.done = false →
    exec .tret s = .next (s.modGroup c.p c.gid fun g => { g with wait := some .inFlight })) ∧
  (∀ (c : Ctx) (s : State), Ready c s .tret → c.g.windows.all Window.done = true →
    let bad := (c.g.tmode.extractLsb' 16 8) ≠ 0 ∨ 6 ≤ (c.g.tmode.extractLsb' 5 3).toNat
    (c.g.inTrap = true → ¬bad → c.g.tpc.toNat % 4 = 0 → ∃ t, exec .tret s = .next t ∧
      Ran c s t (({ c.g with windows := [], mode := c.g.tmode, em := c.g.tem, inTrap := false } : Group).completed c.g.tpc)) ∧
    (c.g.inTrap = false → ∃ t, exec .tret s = .next t ∧
      t = ((s.modGroup c.p c.gid fun _ => { c.g with windows := [] }).raiseTrap c.p c.gid ⟨1, 0x100000000 + 0x15000000⟩).modPart c.p
        fun P => { P with fire := P.fire + 1 }) ∧
    (c.g.inTrap = true → bad → ∃ t, exec .tret s = .next t ∧
      t = ((s.modGroup c.p c.gid fun _ => { c.g with windows := [] }).raiseTrap c.p c.gid ⟨2, c.g.tmode.setWidth 64⟩).modPart c.p
        fun P => { P with fire := P.fire + 1 }) ∧
    (c.g.inTrap = true → ¬bad → c.g.tpc.toNat % 4 ≠ 0 → ∃ t, exec .tret s = .next t ∧
      t = ((s.modGroup c.p c.gid fun _ => { c.g with windows := [] }).raiseTrap c.p c.gid ⟨0x12, c.g.tpc⟩).modPart c.p
        fun P => { P with fire := P.fire + 1 }))

/-- What R33's table gives for a register, where a rule fixes it: all but CLK in FREE mode. ENERGY is the team's counter (R353). A whisk group,
which belongs to no team, reads 0 for what is a team's (notes/assumptions/23.md). OPMODE is the mode of the launch of which teams are live
(notes/assumptions/104.md). -/
def Sys2Proof.Spec.sysRow (c : Ctx) : Nat → Option DWord
  | 0x00 => some (BitVec.ofNat 64 (if isWhisk c.gid then 0 else c.gid % 32))
  | 0x01 => some (ofTeam fun t => t.tidx)
  | 0x02 => some (ofTeam fun t => t.x + 2 ^ 21 * t.y + 2 ^ 42 * t.z)
  | 0x03 => some (ofLaunch fun t l => t.x % l.kernel.width + 2 ^ 2 * (t.y % l.kernel.height) + 2 ^ 4 * (l.kernel.width - 1) +
      2 ^ 6 * (l.kernel.height - 1))
  | 0x04 => some (ofLaunch fun _ l => l.gx + 2 ^ 21 * l.gy + 2 ^ 42 * l.gz)
  | 0x05 => some (if c.P.mode = 0 then BitVec.ofNat 64 (c.P.coreOf c.gid % 128)
      else ofLaunch fun t l => t.x % l.kernel.width + 4 * (t.y % l.kernel.height))
  | 0x06 => if c.P.mode = 0 then none else some c.g.retired
  | 0x07 => some (c.g.stat.setWidth 64)
  | 0x08 => some (c.g.seed.setWidth 64)
  | 0x09 => some c.g.tvec
  | 0x0A => some c.g.tpc
  | 0x0B => some (c.g.tcause.setWidth 64)
  | 0x0C => some c.g.tinfo
  | 0x0D => some (c.g.tmode.setWidth 64)
  | 0x0E => some (c.g.tem.setWidth 64)
  | 0x0F => some c.g.nanct
  | 0x10 => some ((c.team?.map Team.hash).getD 0)
  | 0x11 => some (ofTeam fun t => if t.anch then 1 else 0)
  | 0x12 => some (BitVec.ofNat 64 (c.g.closed % 65536))
  | 0x13 => some (c.p.setWidth 64)
  | 0x14 => some (BitVec.ofNat 64 c.P.mode)
  | 0x15 => some ((c.team?.map Team.energy).getD 0)
  | _ => none
where
  ofTeam (f : Team → Nat) : DWord := match c.team? with
    | some t => BitVec.ofNat 64 (f t)
    | none => 0
  ofLaunch (f : Team → Launch → Nat) : DWord := match c.team?.bind fun t => (c.P.launchOf t).map fun l => (t, l) with
    | some (t, l) => BitVec.ofNat 64 (f t l)
    | none => 0

/-- R33, R34, R150: with every window closed, `sysrd` copies the register of R33's table into its scalar, and nothing else of the
group changes; a number of the supervisor range takes 0x11, a reserved one 0x02. The logical position that CORE shows outside FREE
mode is the one of R327. Where these rules leave something open, this rests on the model's choice: notes/assumptions/6.md, 23.md, 104.md,
121.md. -/
def Obligations.SysrdReadsTheTable : Prop :=
  ∀ (c : Ctx) (s : State) (n : BitVec 8) (d : SReg), Ready c s (.sysrd n d) →
    (0x80 ≤ n.toNat → TrapsWith c (.sysrd n d) s ⟨0x11, n.setWidth 64⟩) ∧
    (0x16 ≤ n.toNat → n.toNat < 0x80 → TrapsWith c (.sysrd n d) s ⟨2, n.setWidth 64⟩) ∧
    (n.toNat < 0x16 → c.g.windows.all Window.done = true →
      CompletesWith c (.sysrd n d) s fun g =>
        g = { c.g with s := g.s, cpoison := g.cpoison, windows := [] } ∧
        ∃ x, ScalarWritten c.g g d x ∧ ∀ v, sysRow c n.toNat = some v → x = v)

/-- R27, R28, R34, R150: with every window closed, `syswr` writes the register, whose word is then whole (R275), SEED clearing CTR; a bit that shall be zero takes 0x02
with the register's number and leaves the register as it is; a read-only register takes 0x11. -/
def Obligations.SyswrWritesWritableRegisters : Prop :=
  ∀ (c : Ctx) (s : State) (n : BitVec 8) (a : SReg), Ready c s (.syswr n a) →
    let x := c.g.sreg a
    let g := { c.g with windows := [] }
    let whole (w : Nat) (g : Group) : Group := { g with cpoison := g.cpoison.filter fun v => v != w }
    let writes (ok : Prop) (g' : Group) : Prop :=
      (ok → ∃ t, exec (.syswr n a) s = .next t ∧ Ran c s t (g'.completed (c.g.pc + 4))) ∧
      (¬ok → ∃ t, exec (.syswr n a) s = .next t ∧
        t = ((s.modGroup c.p c.gid fun _ => g).raiseTrap c.p c.gid ⟨2, n.setWidth 64⟩).modPart c.p fun P =>
          { P with fire := P.fire + 1 })
    (0x80 ≤ n.toNat ∨ n.toNat < 0x07 ∨ (0x0F < n.toNat ∧ n.toNat < 0x16) → TrapsWith c (.syswr n a) s ⟨0x11, n.setWidth 64⟩) ∧
    (0x16 ≤ n.toNat → n.toNat < 0x80 → TrapsWith c (.syswr n a) s ⟨2, n.setWidth 64⟩) ∧
    (c.g.windows.all Window.done = true →
      (n = 0x07 → writes (x.toNat < 2 ^ 6) (whole statWord { g with stat := x.setWidth 32 })) ∧
      (n = 0x08 → writes True (whole seedWord { g with seed := x.setWidth 32, ctr := 0 })) ∧
      (n = 0x09 → writes (x.toNat % 4 = 0 ∧ canonical x = true) (whole tvecWord { g with tvec := x })) ∧
      (n = 0x0A → writes True (whole tpcWord { g with tpc := x })) ∧
      (n = 0x0B → writes (x.toNat < 2 ^ 8) (whole tcauseWord { g with tcause := x.setWidth 8 })) ∧
      (n = 0x0C → writes True (whole tinfoWord { g with tinfo := x })) ∧
      (n = 0x0D → writes (x.toNat < 2 ^ 24) (whole tmodeWord { g with tmode := x.setWidth 24 })) ∧
      (n = 0x0E → writes (x.toNat < 2 ^ 32) (whole temWord { g with tem := x.setWidth 32 })) ∧
      (n = 0x0F → writes True (whole nanctWord { g with nanct := x })))

/-- R147: `choose` in FREE or DETERMINISTIC mode gives 0, and counts an execution with a bound of 2 or more; a bound of 0 or above 2^32
takes 0x02. -/
def Sys2Proof.Spec.ChooseGivesZeroOutsideTheChoiceModes : Prop :=
  ∀ (c : Ctx) (s : State) (d a : SReg), Ready c s (.choose d a) → isWhisk c.gid = false →
    let b := (c.g.sreg a).toNat
    (b = 0 ∨ 2 ^ 32 < b → TrapsWith c (.choose d a) s ⟨2, c.g.sreg a⟩) ∧
    (0 < b → b ≤ 2 ^ 32 → c.P.mode = 0 ∨ c.P.mode = 1 →
      ∃ t, exec (.choose d a) s = .next t ∧
        Ran c s t ({ (c.g.setS d 0) with chooseN := c.g.chooseN + (if b = 1 then 0 else 1) }.completed (c.g.pc + 4)))

/-- R148: `anch` anchors its team; nothing else of the team changes. -/
def Sys2Proof.Spec.AnchAnchorsTheTeam : Prop :=
  ∀ (c : Ctx) (s : State), Ready c s .anch → isWhisk c.gid = false →
    ∃ t, exec .anch s = .next t ∧ Stepped c (s.modTeam c.p c.tk fun tm => { tm with anch := true }) t

/-- R149: `ccall`, with every window closed, anchors the team and waits for the service whose number is its immediate; the PC stays. -/
def Sys2Proof.Spec.CcallAnchorsAndAsks : Prop :=
  ∀ (c : Ctx) (s : State) (n : BitVec 16), Ready c s (.ccall n) → isWhisk c.gid = false → c.g.windows.all Window.done = true →
    ∃ t g P tm, exec (.ccall n) s = .next t ∧ t.part? c.p = some P ∧ P.team? c.tk = some tm ∧ P.group? c.gid = some g ∧
      tm.anch = true ∧ g = { c.g with windows := [], stage := .asked n, wait := some .host } ∧ ∀ a, t.byte a = s.byte a

/-- R147 to R149: `choose`, `anch`, `ccall`. -/
def Obligations.ChoiceAnchorAndHostCall : Prop :=
  ChooseGivesZeroOutsideTheChoiceModes ∧ AnchAnchorsTheTeam ∧ CcallAnchorsAndAsks

/-! ## Barriers, fences, the end of a group -/

/-- R261, R263: `arva` and `arvd` write the number of the phase they arrive in and go on; of the group only that scalar changes. -/
def Sys2Proof.Spec.ArrivalsWithoutWaitReturnThePhase : Prop :=
  ∀ (c : Ctx) (s : State) (v : BitVec 2) (b : BitVec 4) (r : SReg) (i : Instr) (tm : Team), (i = .arva v b r ∨ i = .arvd v b r) →
    Ready c s i → MayArrive c tm v.toNat b.toNat →
    ∃ t, exec i s = .next t ∧
      t.group? c.p c.gid = some ((({ c.g with windows := [] } : Group).setS r
        (BitVec.ofNat 64 ((c.P.bar tm v.toNat b.toNat).ord % 16))).completed (c.g.pc + 4)) ∧
      ∀ a, t.byte a = s.byte a

/-- R261 to R263: `arv`, the last arrival of a phase for which no other member is a role candidate, returns the phase with the role
flag; one that is not the last stays at its PC and waits for the phase. -/
def Sys2Proof.Spec.ArvWaitsForThePhase : Prop :=
  ∀ (c : Ctx) (s : State) (v : BitVec 2) (b : BitVec 4) (r : SReg) (tm : Team), Ready c s (.arv v b r) →
    MayArrive c tm v.toNat b.toNat → (v = 0 → b = 0 → tm.kwrites = []) →
    (v = 1 → (Table.get? c.P.run.clusters tm.cluster).isSome = true) →
    let x := c.P.bar tm v.toNat b.toNat
    ∃ t, exec (.arv v b r) s = .next t ∧ (∀ a, t.byte a = s.byte a) ∧
      (x.count + 1 = x.expect → x.cands = [] →
        t.group? c.p c.gid = some ((({ c.g with windows := [] } : Group).setS r
          (BitVec.ofNat 64 (x.ord % 16 + 16))).completed (c.g.pc + 4))) ∧
      (x.count + 1 ≠ x.expect → t.group? c.p c.gid = some { c.g with
        windows := [], stage := .arrived x.ord, wait := some (.barrier v.toNat b.toNat (x.ord % 16)) })

/-- R263: `bwait` for a phase that is not the running one returns at once, with the role flag of that phase. -/
def Sys2Proof.Spec.BwaitReturnsForACompletePhase : Prop :=
  ∀ (c : Ctx) (s : State) (v : BitVec 2) (b : BitVec 4) (r : SReg) (tm : Team), Ready c s (.bwait v b r) →
    c.team? = some tm → isWhisk c.gid = false → c.g.windows.all Window.done = true → tm.kdue = [] →
    (v.toNat = 2 → ∃ l, c.P.launchOf tm = some l ∧ l.coresident = true) →
    let x := c.P.bar tm v.toNat b.toNat
    let p := (c.g.sreg r).toNat % 16
    (x.ord % 16 ≠ p →
      ∃ t, exec (.bwait v b r) s = .next t ∧
        Ran c s t ((({ c.g with windows := [] } : Group).setS r (BitVec.ofNat 64
          (p + if x.role = some (c.P.member tm (gidGroup c.gid) v.toNat, p) then 16 else 0))).completed (c.g.pc + 4))) ∧
    (x.ord % 16 = p → ¬(x.count = x.expect ∧ 2 ≤ x.cands.length) →
      ∃ t, exec (.bwait v b r) s = .next t ∧
        t.group? c.p c.gid = some { c.g with windows := [], wait := some (.barrier v.toNat b.toNat p) })

/-- R31, R260, R264: with every window closed, a barrier instruction at level 2 of a grid that is not co-resident takes 0x21; an arrival
by a group that does not arrive at its level takes 0x21; a second one in a phase, or one after a drop, takes 0x20; one on team barrier
0 whose group owes the uniform-writer trap takes 0x22, which is owed no longer. No arrival is counted. -/
def Sys2Proof.Spec.BarrierInstructionsTrap : Prop :=
  ∀ (c : Ctx) (s : State) (v : BitVec 2) (b : BitVec 4) (r : SReg) (i : Instr) (tm : Team),
    i ∈ [.arv v b r, .arva v b r, .arvd v b r, .bwait v b r] → Ready c s i → c.team? = some tm → isWhisk c.gid = false →
    c.g.windows.all Window.done = true →
    let closed := s.modGroup c.p c.gid fun _ => { c.g with windows := [] }
    let traps (from' : State) (cause info : Nat) : Prop :=
      exec i s = .next ((from'.raiseTrap c.p c.gid ⟨BitVec.ofNat 8 cause, BitVec.ofNat 64 info⟩).modPart c.p fun P =>
        { P with fire := P.fire + 1 })
    let whole := (c.P.launchOf tm).any Launch.coresident
    let at' := v.toNat + b.toNat * 2 ^ 2
    let grp := gidGroup c.gid
    let x := c.P.bar tm v.toNat b.toNat
    let m := c.P.member tm grp v.toNat
    (v = 2 → whole = false → traps closed 0x21 at') ∧
    (i ≠ .bwait v b r → (v = 2 → whole = true) →
      (tm.arriving grp v.toNat = false → traps closed 0x21 (at' + 2 ^ 8)) ∧
      (tm.arriving grp v.toNat = true →
        (x.sub.getLsbD m = false ∨ x.arr.getLsbD m = true →
          traps closed 0x20 (at' + x.ord % 16 * 2 ^ 6 + (if x.sub.getLsbD m then 0 else 2 ^ 10) + grp * 2 ^ 11)) ∧
        ∀ u P', x.sub.getLsbD m = true → x.arr.getLsbD m = false → v = 0 → b = 0 → (tm.kdue.find? fun y => y.grp == grp) = some u →
          closed.part? c.p = some P' →
          traps (closed.setPart c.p (P'.modTeam c.tk fun t => { t with kdue := t.kdue.erase u })) 0x22 (u.reg + u.kept * 2 ^ 5)))

/-- R31, R261 to R264: `arv`, `arva`, `arvd`, `bwait`. -/
def Obligations.BarrierInstructions : Prop :=
  ArrivalsWithoutWaitReturnThePhase ∧ ArvWaitsForThePhase ∧ BwaitReturnsForACompletePhase ∧ BarrierInstructionsTrap

/-- R261, R262: an arrival at a team barrier is counted; the one that brings COUNT to EXPECT completes the phase: ORD rises, the
pending drops leave EXPECT, and the role goes to the last candidate in FREE mode, to the lowest in DETERMINISTIC mode. -/
def Obligations.TeamBarrierCountsAndCompletes : Prop :=
  ∀ (s : State) (p : PartNo) (P : Part) (tk bar m : Nat) (tm : Team) (drop cand : Bool),
    s.part? p = some P → P.team? tk = some tm → P.mode = 0 ∨ P.mode = 1 →
    let b := Table.getD tm.bars bar (Barrier.initial tm.g)
    let b' := arrivedAt b m drop cand
    ∃ P' tm', (s.arrive p tk 0 bar m drop cand).part? p = some P' ∧ P'.team? tk = some tm' ∧
      Table.getD tm'.bars bar (Barrier.initial tm'.g) =
        if b'.count = b'.expect ∧ b'.arr ≠ 0 then
          phaseCompleted b' (if b'.cands.length < 2 then b'.cands.head? else if P.mode = 1 then b'.cands.min? else b'.cands.getLast?)
        else b'

/-- R267: with every window closed, a `fence` of kind 0, and one of a scope below the cluster's whose group has no load or copy in
flight, completes; an acquire at device scope or wider does so once its group has seen no commit that is still under way (R330). -/
def Sys2Proof.Spec.NarrowFenceCompletes : Prop :=
  ∀ (c : Ctx) (s : State) (sc k : BitVec 3), Ready c s (.fence sc k) → c.g.windows.all Window.done = true →
    (k = 0 ∨ (sc.toNat < 3 ∧ c.g.count .ld = 0 ∧ c.g.count .cin = 0 ∧ c.g.count .cout = 0)) →
    (k ≠ 1 → 4 ≤ sc.toNat → c.P.run.sights.all (fun e => e.gid != c.gid) = true) →
    ∃ t, exec (.fence sc k) s = .next t ∧ Ran c s t (({ c.g with windows := [] } : Group).completed (c.g.pc + 4))

/-- R190, R267, R420: a releasing `fence` at cluster scope or wider, its windows closed and its group's loads and copies done, anchors the
team and commits its colander. With nothing to commit it completes, where scope 5 or 6 finds every tier-3 write acknowledged, and
the commit counts; with store lines, their commit is under way, its lowest line has left for its slice, and the group waits.
Where these rules leave something open, this rests on the model's choice: notes/assumptions/32.md, 34.md. -/
def Sys2Proof.Spec.WideFenceCommits : Prop :=
  ∀ (c : Ctx) (s : State) (sc k : BitVec 3) (tm : Team), Ready c s (.fence sc k) → c.team? = some tm → isWhisk c.gid = false →
    c.P.mode = 0 ∨ c.P.mode = 1 → c.g.windows.all Window.done = true → k ≠ 0 → 3 ≤ sc.toNat →
    c.g.count .ld = 0 → c.g.count .cin = 0 → c.g.count .cout = 0 →
    (k ≠ 1 → 4 ≤ sc.toNat → c.P.run.sights.all (fun e => e.gid != c.gid) = true) →
    (Committed tm → (5 ≤ sc.toNat → c.P.unacked = [] ∧ c.P.hostBound c.tk = false) →
      ∃ t g tm', exec (.fence sc k) s = .next t ∧ t.group? c.p c.gid = some g ∧ teamIn t c = some tm' ∧
        g = (({ c.g with windows := [] } : Group).completed (c.g.pc + 4)) ∧
        tm'.anch = true ∧ tm'.commit = none ∧ tm'.commitN = tm.commitN + 1 ∧ tm'.hash = tm.hash ∧ ∀ a, t.byte a = s.byte a) ∧
    (∀ (l : ColLine) (rest : List ColLine), tm.commit = none → tm.colander = l :: rest →
      ∃ t g tm' P' w id r, exec (.fence sc k) s = .next t ∧ t.group? c.p c.gid = some g ∧ teamIn t c = some tm' ∧
        t.part? c.p = some P' ∧ g = { c.g with windows := [], stage := .committing, wait := some .inFlight } ∧
        tm'.anch = true ∧ tm'.colander = [] ∧ tm'.posted = [] ∧ tm'.commit = some w ∧ w.lines = l :: rest ∧ w.posts = tm.posted ∧
        w.req = id ∧ Table.get? P'.run.lines id = some r ∧ r.team = c.tk ∧ r.vline = l.vline ∧ r.pline = l.pline ∧
        r.kind = .write l.bytes l.poison ∧ ∀ a, t.byte a = s.byte a)

/-- R142: an `exit` that has nothing to wait for (no window open, no batch open or incomplete, nothing in flight, no fault held, no
uniform write or trap of its own) ends its group and frees its registers. -/
def Sys2Proof.Spec.ExitEndsTheGroup : Prop :=
  ∀ (c : Ctx) (s : State) (tm : Team), Ready c s .exit → c.team? = some tm → isWhisk c.gid = false → c.P.mode = 0 ∨ c.P.mode = 1 →
    c.g.windows.all Window.done = true → c.P.openBatch c.gid c.g = false → c.g.inflight = [] → c.g.complete = c.g.closed →
    c.g.held = [] → tm.kwrites.all (fun w => w.grp != gidGroup c.gid) = true →
    tm.kdue.all (fun u => u.grp != gidGroup c.gid) = true →
    ∃ t g, exec .exit s = .next t ∧ t.group? c.p c.gid = some g ∧ g.run = .ended ∧ g.v = [] ∧ g.s = [] ∧
      ∀ a, t.byte a = s.byte a

/-- R220: `wcnt` goes on once the counter of its path stands at its threshold or below with no fault held, and waits while it stands
above. -/
def Sys2Proof.Spec.WcntWaitsForItsCounter : Prop :=
  ∀ (c : Ctx) (s : State) (p : BitVec 5) (n : BitVec 8) (path : Path), Ready c s (.wcnt p n) →
    (p.toNat, path) ∈ [(0, Path.ld), (1, .cin), (2, .cout), (3, .wcl), (4, .snd)] →
    (c.g.count path ≤ n.toNat → c.g.held.all (fun h => h.path != path) = true →
      ∃ t, exec (.wcnt p n) s = .next t ∧ Stepped c s t) ∧
    (n.toNat < c.g.count path → ∃ t, exec (.wcnt p n) s = .next t ∧
      t.group? c.p c.gid = some { c.g with wait := some .inFlight })

/-- R142, R220, R267: `fence`, `exit`, `wcnt`.
Where these rules leave something open, this rests on the model's choice: notes/assumptions/20.md, 34.md, 108.md. -/
def Obligations.FenceExitAndCounterWait : Prop :=
  NarrowFenceCompletes ∧ WideFenceCommits ∧ ExitEndsTheGroup ∧ WcntWaitsForItsCounter

/-! ## Memory, scratchpad, copies -/

/-- R202 to R206, R52, R53: a load whose lanes all pass takes no value yet: it completes, LD counts it, its window protects the data
registers, and of memory only what the page walks mark has changed; with no lane to act on it completes with no operation, and
returns behind the loads under way (R29).
Where these rules leave something open, this rests on the model's choice: notes/assumptions/7.md. -/
def Sys2Proof.Spec.LoadsIssue : Prop :=
  ∀ (c : Ctx) (s : State) (i : Instr) (r : LoadRow), Ready c s i → loadRow c i = some r →
    (∀ e ∈ r.items, e.2.toNat % r.size = 0) → Maps c .read r.items → c.g.count .ld < 255 → ColanderClean c →
    ∃ t g, exec i s = .next t ∧ t.group? c.p c.gid = some g ∧ Kept c g ∧
      (∀ a, t.byte a = (walked c .read r.items).byte a) ∧
      (r.items = [] → Passed c g .ld) ∧
      (r.items ≠ [] → ∃ op, g.inflight = c.g.inflight ++ [⟨op, .ld, false⟩] ∧
        ∃ w ∈ g.windows, w.la = r.la.toNat ∧ w.pos = 1 ∧ w.done = false ∧ w.op = op ∧
          (if r.scalar then w.vregs = [] ∧ w.sregs = [r.dst]
           else w.vregs = ((List.range ((r.size + 3) / 4)).map fun j => r.dst + j) ∧ w.sregs = []))

/-- R204: an `ldacq` at scope 6 with a lane to act on sends its probes before it reads: each lane's line, to every core of the partition;
it does not complete. Once every core has answered, it reads as a load does.
Where these rules leave something open, this rests on the model's choice: notes/assumptions/7.md, 29.md. -/
def Sys2Proof.Spec.AcquiresAtScopeSixProbeFirst : Prop :=
  (∀ (c : Ctx) (s : State) (d a : VReg) (l : La), Ready c s (.ldacq d a l 6) →
    let items := laneAddresses c a 0 4
    items ≠ [] → (∀ e ∈ items, e.2.toNat % 4 = 0) → Maps c .read items →
    ∃ t P' g op lines, exec (.ldacq d a l 6) s = .next t ∧ t.part? c.p = some P' ∧ P'.group? c.gid = some g ∧
      g = { c.g with stage := .probing op, wait := some .inFlight } ∧
      Table.get? P'.run.ops op = some (.probe c.gid lines c.P.regs.cores) ∧
      (∀ e ∈ items, ∀ pa obs at' pte level, c.look .read (e.2.toNat % 2 ^ 56) = .ok pa obs at' pte level → pa / 128 ∈ lines) ∧
      ∀ x, t.byte x = (walked c .read items).byte x) ∧
  (∀ (c : Ctx) (s : State) (d a : VReg) (l : La) (op gid : Nat) (lines : List Nat), s.issuer = some c → c.g.stage = .probing op →
    Table.get? c.P.run.ops op = some (.probe gid lines []) →
    let items := laneAddresses c a 0 4
    items ≠ [] → (∀ e ∈ items, e.2.toNat % 4 = 0) → Maps c .read items → c.g.wait = none → c.g.count .ld < 255 → ColanderClean c →
    ∃ t g, exec (.ldacq d a l 6) s = .next t ∧ t.group? c.p c.gid = some g ∧ Kept c g ∧
      (∃ n, g.inflight = c.g.inflight ++ [⟨n, .ld, false⟩] ∧
        ∃ w ∈ g.windows, w.la = l.toNat ∧ w.op = n ∧ w.acq = true ∧ w.vregs = [d.toNat]) ∧
      ∀ x, t.byte x = (walked c .read items).byte x)

/-- R202 to R206, R52, R53: loads and acquires. -/
def Obligations.LoadsIssueAndProtectTheirRegisters : Prop := LoadsIssue ∧ AcquiresAtScopeSixProbeFirst

/-- R187, R202, R203, R206: a store whose lanes all pass and fit the quota completes; its team's colander then gives each byte as the
highest lane that wrote it gave it, and of memory only what the page walks mark has changed.
Where these rules leave something open, this rests on the model's choice: notes/assumptions/14.md. -/
def Sys2Proof.Spec.StoresEnterTheColanderAtOnce : Prop :=
  ∀ (c : Ctx) (s : State) (i : Instr) (r : StoreRow) (tm : Team), Ready c s i → storeRow c i = some r → c.team? = some tm →
    isWhisk c.gid = false → (∀ e ∈ r.items, e.2.toNat % r.size = 0) → Maps c .write r.items →
    ((∃ d a l, i = .strel d a l 1) → c.g.count .ld = 0 ∧ c.g.count .cin = 0 ∧ c.g.count .cout = 0) →
    MasksClean tm → (tm.putAll (storePieces c r) 0).2 = (storePieces c r).length →
    ∃ t g tm', exec i s = .next t ∧ t.group? c.p c.gid = some g ∧ Kept c g ∧
      (t.part? c.p).bind (fun P => P.team? c.tk) = some tm' ∧
      (∀ (before : List ColLine) (x : ColLine) (after : List ColLine) (off : Nat) (b : Byte),
        storePieces c r = before ++ x :: after → (off, b) ∈ x.bytes →
        (∀ y ∈ after, y.vline = x.vline → Table.get? y.bytes off = none) → tm'.forward x.vline off = some b) ∧
      ∀ a, t.byte a = (walked c .write r.items).byte a

/-- R205, R299, R372: a `strel` at cluster scope or wider, of a team with nothing to commit, anchors the team, counts a commit, and completes
once its words have left for their slices: each lane's word, unless a higher lane stores to the same place, stands in a line write, and
the store hash has taken the words.
Where these rules leave something open, this rests on the model's choice: notes/assumptions/34.md. -/
def Sys2Proof.Spec.WideReleasesWriteDirectly : Prop :=
  ∀ (c : Ctx) (s : State) (d a : VReg) (l : La) (sc : BitVec 3) (tm : Team), Ready c s (.strel d a l sc) → c.team? = some tm →
    isWhisk c.gid = false → c.P.mode = 0 ∨ c.P.mode = 1 → 3 ≤ sc.toNat →
    let items := laneAddresses c a 0 4
    (∀ e ∈ items, e.2.toNat % 4 = 0) → Maps c .write items → c.g.count .ld = 0 → c.g.count .cin = 0 → c.g.count .cout = 0 →
    Committed tm →
    (5 ≤ sc.toNat → c.P.unacked = [] ∧ c.P.hostBound c.tk = false ∧
      ∀ e ∈ items, ∀ pa obs at' pte level, c.look .write (e.2.toNat % 2 ^ 56) = .ok pa obs at' pte level → pa < 2 ^ 51) →
    ∃ t g tm' P', exec (.strel d a l sc) s = .next t ∧ t.group? c.p c.gid = some g ∧ Kept c g ∧ teamIn t c = some tm' ∧
      t.part? c.p = some P' ∧ tm'.anch = true ∧ tm'.commit = none ∧ tm'.commitN = tm.commitN + 1 ∧
      tm'.hash = hashWords tm.hash (strelWords c.g d items) ∧
      (∀ e ∈ items, ∀ pa obs at' pte level, c.look .write (e.2.toNat % 2 ^ 56) = .ok pa obs at' pte level →
        (∀ f ∈ items, e.1 < f.1 → ∀ obs' at'' pte' level', c.look .write (f.2.toNat % 2 ^ 56) ≠ .ok pa obs' at'' pte' level') →
        ∃ x ∈ P'.run.lines, ∃ bytes, x.2.team = c.tk ∧ x.2.pline = pa / 128 ∧ x.2.kind = .write bytes [] ∧
          ∀ k < 4, Table.get? bytes (pa % 128 + k) = some ((laneBytes c d 4 e.1).getD k 0)) ∧
      ∀ x, t.byte x = (walked c .write items).byte x

/-- R205: a `strel` at team scope puts its words into the colander, as `stw` does, and each of their lines into the release filter of its
core, once for the team, where the filter has room for the new ones.
Where these rules leave something open, this rests on the model's choice: notes/assumptions/28.md. -/
def Sys2Proof.Spec.TeamReleasesFillTheFilter : Prop :=
  ∀ (c : Ctx) (s : State) (d a : VReg) (l : La) (tm : Team) (k : Core), Ready c s (.strel d a l 2) → c.team? = some tm →
    isWhisk c.gid = false → c.P.core? tm.core = some k →
    let items := laneAddresses c a 0 4
    let row : StoreRow := ⟨4, items, laneBytes c d 4⟩
    (∀ e ∈ items, e.2.toNat % 4 = 0) → Maps c .write items → c.g.count .ld = 0 → c.g.count .cin = 0 → c.g.count .cout = 0 →
    MasksClean tm → (tm.putAll (storePieces c row) 0).2 = (storePieces c row).length → k.filter.length + items.length ≤ 512 →
    ∃ t g tm' k', exec (.strel d a l 2) s = .next t ∧ t.group? c.p c.gid = some g ∧ Kept c g ∧ teamIn t c = some tm' ∧
      (t.part? c.p).bind (fun P => P.core? tm.core) = some k' ∧ tm'.anch = tm.anch ∧
      (∀ e ∈ items, (∀ f ∈ items, e.1 < f.1 → f.2 ≠ e.2) → ∀ j < 4,
        tm'.forward (e.2.toNat % 2 ^ 56 / 128) (e.2.toNat % 128 + j) = some ((laneBytes c d 4 e.1).getD j 0)) ∧
      (∃ new, k'.filter = k.filter ++ new ∧ new.Nodup ∧ ∀ x, x ∈ new ↔ x ∉ k.filter ∧ x.2 = tm.slot ∧
        ∃ e ∈ items, ∃ pa obs at' pte level, c.look .write (e.2.toNat % 2 ^ 56) = .ok pa obs at' pte level ∧ x.1 = pa / 128) ∧
      ∀ x, t.byte x = (walked c .write items).byte x

/-- R187, R202, R203, R205, R206: stores and releases. -/
def Obligations.StoresEnterTheColander : Prop :=
  StoresEnterTheColanderAtOnce ∧ WideReleasesWriteDirectly ∧ TeamReleasesFillTheFilter

/-- R198 orders 7b and 7f: the lowest lane whose address is misaligned takes 0x12; where all are aligned, the lowest one whose address is
not canonical takes 0x10; TINFO is the address, the lane and the access kind, and nothing is loaded or stored; only the decline
marks of pages found valid are cleared (R199).
Where these rules leave something open, this rests on the model's choice: notes/assumptions/31.md. -/
def Obligations.AccessesTrapForTheirLowestLane : Prop :=
  ∀ (c : Ctx) (s : State) (i : Instr) (size kind : Nat) (items : List (Nat × DWord)), Ready c s i →
    ((∃ r, loadRow c i = some r ∧ size = r.size ∧ kind = 0 ∧ items = r.items) ∨
      (∃ r, storeRow c i = some r ∧ isWhisk c.gid = false ∧ size = r.size ∧ kind = 1 ∧ items = r.items)) →
    ∀ (before : List (Nat × DWord)) (l : Nat) (va : DWord) (after : List (Nat × DWord)), items = before ++ (l, va) :: after →
      (va.toNat % size ≠ 0 → (∀ e ∈ before, e.2.toNat % size = 0) → TrapsWith c i s ⟨0x12, accessInfo va.toNat l kind⟩) ∧
      ((∀ e ∈ items, e.2.toNat % size = 0) → canonical va = false → Maps c (if kind = 0 then .read else .write) before →
        exec i s = .next (((unmarked c (if kind = 0 then .read else .write) items).raiseTrap c.p c.gid
          ⟨0x10, accessInfo va.toNat l kind⟩).modPart c.p fun P => { P with fire := P.fire + 1 }))

/-- R207: a scratchpad load that passes its checks writes the words at its addresses into its registers in the lanes acted on. -/
def Sys2Proof.Spec.ScratchpadLoadsReadTheirWords : Prop :=
  ∀ (c : Ctx) (s : State) (d a : VReg) (l : La) (o : BitVec 8) (i : Instr) (size : Nat), Ready c s i →
    ((i = .lds d a l o ∧ size = 4) ∨ (i = .ldsq d a l o ∧ size = 16)) →
    c.padChecks false size (padItems c a o size) = none →
    (∀ e ∈ padItems c a o size, c.peekPoison e.2.toNat size = false) →
    ∃ t g, exec i s = .next t ∧ t.group? c.p c.gid = some g ∧ g.pc = c.g.pc + 4 ∧ g.s = c.g.s ∧ g.q = c.g.q ∧
      (∀ j < size / 4, ∀ e ∈ padItems c a o size,
        (g.vreg (d.toNat + j) e.1).toNat = leNat (((c.peek e.2.toNat size).drop (4 * j)).take 4)) ∧
      (∀ r, ∀ k < 32, (r < d.toNat ∨ d.toNat + size / 4 ≤ r ∨ c.g.active k = false) → g.vreg r k = c.g.vreg r k) ∧
      ∀ x, t.byte x = s.byte x

/-- R207: a scratchpad store that passes its checks, into slots of the team's own, changes exactly the bytes it names, each to what the
highest lane that wrote it stored; no register and no byte of memory changes. -/
def Sys2Proof.Spec.ScratchpadStoresWriteTheirBytes : Prop :=
  ∀ (c : Ctx) (s : State) (d a : VReg) (l : La) (o : BitVec 8) (i : Instr) (size : Nat) (k : Core), Ready c s i →
    ((i = .sts d a l o ∧ size = 4) ∨ (i = .stsq d a l o ∧ size = 16)) →
    c.padChecks true size (padItems c a o size) = none → c.P.core? (c.P.coreOf c.gid) = some k →
    (∀ e ∈ padItems c a o size, c.reach (e.2.toNat / 4096) = .own 1) →
    ∃ t g k', exec i s = .next t ∧ t.group? c.p c.gid = some g ∧ Kept c g ∧
      (t.part? c.p).bind (fun P => P.core? (c.P.coreOf c.gid)) = some k' ∧
      (∀ (before : List (Nat × Int)) (e : Nat × Int) (after : List (Nat × Int)) (j : Nat), padItems c a o size = before ++ e :: after →
        j < size → (∀ f ∈ after, f.2 ≠ e.2) → Cells.get 0 k'.scratch (e.2.toNat + j) = (laneBytes c d size e.1).getD j 0) ∧
      (∀ x, (∀ e ∈ padItems c a o size, x < e.2.toNat ∨ e.2.toNat + size ≤ x) → Cells.get 0 k'.scratch x = Cells.get 0 k.scratch x) ∧
      ∀ x, t.byte x = s.byte x

/-- R172, R176, R178, R207: the lowest lane's store into a slot that is no private one, its only lane: a tagged slot becomes or stays dirty; a
slot of a crock that the team is creating takes the bytes; one of a crock attached for writing keeps its own, and its shadow, which
holds a copy of it, takes them, made from the reserved ones where there is none yet; one of a crock attached for reading takes 0x11. -/
def Sys2Proof.Spec.StoresIntoTaggedAndCrockSlots : Prop :=
  ∀ (c : Ctx) (s : State) (d a : VReg) (l : La) (o : BitVec 8) (k : Core) (tm : Team) (lane : Nat) (at' : Int),
    Ready c s (.sts d a l o) → c.team? = some tm → c.P.core? (c.P.coreOf c.gid) = some k →
    padItems c a o 4 = [(lane, at')] →
    let addr := at'.toNat
    let slot := addr / 4096
    let offset := addr % 4096
    let bytes := laneBytes c d 4 lane
    (∀ dir j, c.reach slot = .reading dir j → 0 ≤ at' → at' + 4 ≤ 2 ^ 20 → addr % 4 = 0 → k.guards.contains (addr / 16) = false →
      TrapsWith c (.sts d a l o) s ⟨0x11, BitVec.ofNat 64 (addr + lane * 2 ^ 56 + 2 ^ 61)⟩) ∧
    (c.padChecks true 4 [(lane, at')] = none →
      let stores (rel : Team → Core → Prop) : Prop := ∃ t g tm' k', exec (.sts d a l o) s = .next t ∧ t.group? c.p c.gid = some g ∧
        Kept c g ∧ teamIn t c = some tm' ∧ coreIn t c = some k' ∧ rel tm' k' ∧ ∀ x, t.byte x = s.byte x
      (∀ n tag, c.reach slot = .own n → n = 2 ∨ n = 3 → Table.get? k.tags slot = some tag →
        stores fun tm' k' => tm'.attaches = tm.attaches ∧ Table.get? k'.tags slot = some { tag with state := 3 } ∧
          (∀ j < 4, Cells.get 0 k'.scratch (addr + j) = bytes.getD j 0)) ∧
      (∀ dir j, c.reach slot = .fresh dir j →
        stores fun tm' k' => tm'.attaches = tm.attaches ∧ k'.tags = k.tags ∧ (∀ j < 4, Cells.get 0 k'.scratch (addr + j) = bytes.getD j 0)) ∧
      ∀ dir j att, c.reach slot = .writing dir j → (tm.attaches.find? fun x => x.dir == dir) = some att → slot < 256 →
        let shadowed (sh : Nat) (tm' : Team) (k' : Core) (from' : Nat) : Prop :=
          (tm'.attaches.find? fun x => x.dir == dir).bind (fun x => Table.get? x.shadows j) = some sh ∧
          ∀ y < 4096, Cells.get 0 k'.scratch (sh * 4096 + y) =
              (if offset ≤ y ∧ y < offset + 4 then bytes.getD (y - offset) 0 else Cells.get 0 k.scratch (from' * 4096 + y)) ∧
            Cells.get 0 k'.scratch (slot * 4096 + y) = Cells.get 0 k.scratch (slot * 4096 + y)
        (∀ sh, Table.get? att.shadows j = some sh → sh ≠ slot → stores fun tm' k' => tm'.attaches = tm.attaches ∧ shadowed sh tm' k' sh) ∧
        (∀ sh rest, Table.get? att.shadows j = none → att.spare = sh :: rest → sh ≠ slot →
          stores fun tm' k' => shadowed sh tm' k' slot ∧ ∃ att', (tm'.attaches.find? fun x => x.dir == dir) = some att' ∧
            att'.spare = rest))

/-- R172, R176, R178, R207: `lds`, `ldsq`, `sts`, `stsq`.
Where these rules leave something open, this rests on the model's choice: notes/assumptions/115.md. -/
def Obligations.ScratchpadAccesses : Prop :=
  ScratchpadLoadsReadTheirWords ∧ ScratchpadStoresWriteTheirBytes ∧ StoresIntoTaggedAndCrockSlots

/-- R210: `sevict` with write-back, on a dirty slot: the slot's 4,096 bytes enter the team's colander, where they fit the quota, for the
addresses key to key + 4,095, and the slot is private again under its original key.
Where these rules leave something open, this rests on the model's choice: notes/assumptions/30.md. -/
def Sys2Proof.Spec.SevictWritesADirtySlotBack : Prop :=
  ∀ (c : Ctx) (s : State) (x : SReg) (l : La) (tm : Team) (tag : Tag) (k : Core) (pa : Nat) (obs : Bool) (at' : Nat) (pte : DWord)
    (level : Nat), Ready c s (.sevict x 1 l) → isWhisk c.gid = false → c.team? = some tm →
    let slot := (c.g.sreg x).toNat % 256
    let key := tag.key.toNat % 2 ^ 56
    c.reach slot = .own 3 → c.slotTbPoison slot = false → c.slotBusy slot = false → c.slotCopies slot = false →
    tagOf s c slot = some tag → c.P.core? (c.P.coreOf c.gid) = some k → tag.key.toNat % 4096 = 0 → Maps c .write [(0, tag.key)] →
    c.look .write key = .ok pa obs at' pte level → c.peekPoison (slot * 4096) 4096 = false →
    MasksClean tm → (tm.putAll (c.writeBack slot tag.key pa obs) 0).2 = 32 →
    ∃ t g tm', exec (.sevict x 1 l) s = .next t ∧ t.group? c.p c.gid = some g ∧ Kept c g ∧ teamIn t c = some tm' ∧
      (∀ j < 4096, tm'.forward ((key + j) / 128) (j % 128) = some (Cells.get 0 k.scratch (slot * 4096 + j))) ∧
      tagOf t c slot = some { tag with key := BitVec.ofNat 64 (2 ^ 63 + (slot - tm.runBase)), state := 1 } ∧
      ∀ y, t.byte y = (walked c .write [(0, tag.key)]).byte y

/-- R208 to R210: `slk` returns the slot that matches a key, or 0xFFFF; `sfill` gives the key to a private slot, which becomes clean, or
returns the slot that has it; `sevict` without write-back makes a tagged slot private again.
Where these rules leave something open, this rests on the model's choice: notes/assumptions/30.md. -/
def Sys2Proof.Spec.TagsAreLookedUpFilledAndDropped : Prop :=
  (∀ (c : Ctx) (s : State) (x y : SReg) (l : La), Ready c s (.slk x y l) →
    ∃ t g, exec (.slk x y l) s = .next t ∧ t.group? c.p c.gid = some g ∧
      KeptBut c g x (BitVec.ofNat 64 ((c.lookup (c.g.sreg y)).getD 0xFFFF))) ∧
  (∀ (c : Ctx) (s : State) (x y : SReg) (l : La) (tag : Tag), Ready c s (.sfill x y l) → isWhisk c.gid = false →
    let key := c.g.sreg y
    let slot := (c.g.sreg x).toNat % 256
    canonical key = true → c.reach slot = .own 1 → c.slotTbPoison slot = false → c.slotBusy slot = false → c.slotCopies slot = false →
    tagOf s c slot = some tag →
    ∃ t g, exec (.sfill x y l) s = .next t ∧ t.group? c.p c.gid = some g ∧
      (∀ n, c.lookup key = some n → KeptBut c g x (BitVec.ofNat 64 (0x10000 + n)) ∧ tagOf t c slot = some tag) ∧
      (c.lookup key = none → KeptBut c g x (BitVec.ofNat 64 slot) ∧ tagOf t c slot = some { tag with key := key, state := 2 })) ∧
  (∀ (c : Ctx) (s : State) (x : SReg) (l : La) (tm : Team) (tag : Tag), Ready c s (.sevict x 0 l) → c.team? = some tm →
    let slot := (c.g.sreg x).toNat % 256
    (c.reach slot = .own 2 ∨ c.reach slot = .own 3) → c.slotTbPoison slot = false → c.slotBusy slot = false →
    c.slotCopies slot = false →
    tagOf s c slot = some tag → isWhisk c.gid = false →
    ∃ t g, exec (.sevict x 0 l) s = .next t ∧ t.group? c.p c.gid = some g ∧ Kept c g ∧
      tagOf t c slot = some { tag with key := BitVec.ofNat 64 (2 ^ 63 + (slot - tm.runBase)), state := 1 })

/-- R208 to R210: `slk`, `sfill`, `sevict`. -/
def Obligations.TagInstructionsKeepTheTable : Prop := TagsAreLookedUpFilledAndDropped ∧ SevictWritesADirtySlotBack

/-- R217 to R219: `tbinit` makes an object of phase 0 with all arrivals pending in a private granule and guards it; `tbarr` returns the
phase and counts one arrival, the last of which completes the phase; `tbwait` goes on when the phase is over and waits otherwise.
Where these rules leave something open, this rests on the model's choice: notes/assumptions/37.md. -/
def Obligations.TransactionBarrierInstructions : Prop :=
  (∀ (c : Ctx) (s : State) (x y : SReg) (l : La) (k : Core), Ready c s (.tbinit x y l) →
    let n := (c.g.sreg x).toNat
    let a := (c.g.sreg y).toNat % 2 ^ 20
    0 < n → n < 2 ^ 20 → a % 16 = 0 → c.reach (a / 4096) = .own 1 → c.P.core? (c.P.coreOf c.gid) = some k →
    k.tbPoison a = false → (∀ b, k.tb? a = some b → c.P.tbBusy (c.P.coreOf c.gid) a b = false) →
    ∃ t g k', exec (.tbinit x y l) s = .next t ∧ t.group? c.p c.gid = some g ∧ Kept c g ∧
      (t.part? c.p).bind (fun P => P.core? (c.P.coreOf c.gid)) = some k' ∧
      k'.tb? a = some ⟨n, 0, false, n, 0⟩ ∧ k'.guards.contains (a / 16) = true) ∧
  (∀ (c : Ctx) (s : State) (x y : SReg) (l : La) (k : Core) (b : Tb), Ready c s (.tbarr x y l) →
    let a := (c.g.sreg y).toNat % 2 ^ 20
    a % 16 = 0 → c.reach (a / 4096) = .own 1 → c.P.core? (c.P.coreOf c.gid) = some k → k.tb? a = some b → k.tbPoison a = false →
    b.pois = false → b.pend ≠ 0 →
    ∃ t g k', exec (.tbarr x y l) s = .next t ∧ t.group? c.p c.gid = some g ∧ KeptBut c g x (BitVec.ofNat 64 b.phase) ∧
      (t.part? c.p).bind (fun P => P.core? (c.P.coreOf c.gid)) = some k' ∧
      k'.tb? a = some (if b.pend = 1 ∧ b.sect = 0 then { b with phase := (b.phase + 1) % 16, pend := b.exp }
        else { b with pend := b.pend - 1 })) ∧
  (∀ (c : Ctx) (s : State) (x y : SReg) (k : Core) (b : Tb), Ready c s (.tbwait x y) →
    let a := (c.g.sreg y).toNat % 2 ^ 20
    let p := (c.g.sreg x).toNat % 16
    a % 16 = 0 → c.reach (a / 4096) = .own 1 → c.P.core? (c.P.coreOf c.gid) = some k → k.tb? a = some b → k.tbPoison a = false →
    b.pois = false →
    (b.phase ≠ p → ∃ t, exec (.tbwait x y) s = .next t ∧ Stepped c s t) ∧
    (b.phase = p → ∃ t, exec (.tbwait x y) s = .next t ∧
      t.group? c.p c.gid = some { c.g with wait := some (.transaction a p) }))

/-- R211, R213, R214: a copy whose checks pass starts and is counted: `cpy` and `cpyt` in on CIN, `cpyo` and `cpyt` out on COUT; the
group's registers stay, and of memory only what the page walks of `cpy` and `cpyo` mark has changed. -/
def Sys2Proof.Spec.CopiesStartAndAreCounted : Prop :=
  (∀ (c : Ctx) (s : State) (d a : VReg) (l : La) (r : SReg) (z : BitVec 3), Ready c s (.cpy d a l r z) →
    let xs := c.copyLanes d a
    let items := xs.map fun x => (x.lane, x.va)
    c.copyChecks true (2 ^ (2 + z.toNat)) xs (barrierOf (c.g.sreg r)) = none → c.copyDenied true (2 ^ (2 + z.toNat)) xs = [] →
    (∀ b, barrierOf (c.g.sreg r) = some b → c.tbPoison b = false) → Maps c .read items → c.g.count .cin < 255 → ColanderClean c →
    ∃ t g, exec (.cpy d a l r z) s = .next t ∧ t.group? c.p c.gid = some g ∧ Kept c g ∧
      (xs = [] → Passed c g .cin) ∧ (xs ≠ [] → g.count .cin = c.g.count .cin + 1) ∧
      ∀ x, t.byte x = (walked c .read items).byte x) ∧
  (∀ (c : Ctx) (s : State) (d a : VReg) (l : La) (z : BitVec 3), Ready c s (.cpyo d a l z) → isWhisk c.gid = false →
    let xs := c.copyLanes d a
    let items := xs.map fun x => (x.lane, x.va)
    c.copyChecks false (2 ^ (2 + z.toNat)) xs none = none → Maps c .write items → c.g.count .cout < 255 →
    (∀ x ∈ xs, c.peekPoison x.pad (2 ^ (2 + z.toNat)) = false) →
    ∃ t g, exec (.cpyo d a l z) s = .next t ∧ t.group? c.p c.gid = some g ∧ Kept c g ∧
      (xs = [] → Passed c g .cout) ∧ (xs ≠ [] → g.count .cout = c.g.count .cout + 1) ∧
      ∀ x, t.byte x = (walked c .write items).byte x) ∧
  (∀ (c : Ctx) (s : State) (x y : SReg) (f : BitVec 2) (l : La), Ready c s (.cpyt x y f l) → isWhisk c.gid = false →
    let addr := (c.g.sreg x).toNat % 2 ^ 20
    let n := leNat (c.peek addr 64)
    let desc := TileDesc.ofNum n
    let bar := barrierOf (c.g.sreg y)
    addr % 64 = 0 → c.padError false 0 addr 64 0 = none → c.peekPoison addr 64 = false → desc.gaddr.toNat % desc.z = 0 →
    (f = 0 → TileDesc.bad n 2 false = none → c.tileReach true desc = none → c.barrierMissing bar = none →
      c.tileCheck true 1 desc = none → c.barrierPoisoned bar = none → (∀ b, bar = some b → c.tbPoison b = false) →
      c.tileCheck true 2 desc = none → c.g.count .cin < 255 →
      ∃ t g, exec (.cpyt x y f l) s = .next t ∧ t.group? c.p c.gid = some g ∧ Kept c g ∧
        g.count .cin = c.g.count .cin + 1 ∧ ∀ a, t.byte a = s.byte a) ∧
    (f = 1 → bar = none → TileDesc.bad n 1 false = none → c.tileReach false desc = none → c.g.count .cout < 255 →
      ∃ t g, exec (.cpyt x y f l) s = .next t ∧ t.group? c.p c.gid = some g ∧ Kept c g ∧
        g.count .cout = c.g.count .cout + 1 ∧ ∀ a, t.byte a = s.byte a))

/-- R216 steps 4 to 6: a `cpyv` whose version has been read returns 1 where it is not the one expected, and 0 once its tile and the
version have been written, when the line is released. -/
def Sys2Proof.Spec.CpyvReturnsItsOutcome : Prop :=
  ∀ (c : Ctx) (s : State) (x y : SReg) (l : La) (op gid : Nat) (va : DWord) (pline : Nat) (obs : Bool) (expected : DWord)
    (writes : List ColLine) (same : Bool) (tm : Team), s.issuer = some c → isWhisk c.gid = false → c.g.stage = .version op →
    c.team? = some tm →
    Table.get? c.P.run.ops op = some (.version gid va pline obs expected writes (some same)) →
    (same = true → writes = [] ∧ c.P.run.lines.all (fun e => e.2.op != op) = true) →
    ∃ t g P, exec (.cpyv x y l) s = .next t ∧ t.part? c.p = some P ∧ P.group? c.gid = some g ∧
      KeptBut c g x (if same then 0 else 1) ∧ Table.get? P.run.ops op = none ∧
      P.run.held = (if same then c.P.run.held.erase pline else c.P.run.held) ∧ ∀ a, t.byte a = s.byte a
/-- R211, R213, R214, R216: `cpy`, `cpyo`, `cpyt`, `cpyv`.
Where these rules leave something open, this rests on the model's choice: notes/assumptions/38.md. -/
def Obligations.CopyInstructions : Prop :=
  CopiesStartAndAreCounted ∧ CpyvReturnsItsOutcome

/-! ## Crocks -/

/-- R221: `ckopen` of an absent crock to read or write returns all ones; of a held crock in the mode it is held in, its result again,
in another mode 0x18; of a crock resident on the core that no team writes, to read, its result, with one reader more. -/
def Sys2Proof.Spec.CkopenAnswers : Prop :=
  ∀ (c : Ctx) (s : State) (x y : SReg) (f : BitVec 2) (l : La) (fetch : Bool) (n : BitVec 7) (tm : Team),
    Ready c s (.ckopen x y f l fetch n) → isWhisk c.gid = false → c.team? = some tm → c.P.mode = 0 ∨ c.P.mode = 1 →
    let name := c.g.sreg y
    let i : Instr := .ckopen x y f l fetch n
    (name = 0 → TrapsWith c i s ⟨2, 0⟩) ∧
    (name ≠ 0 → (if f.toNat < 2 then n.toNat ≠ 0 else n.toNat = 0 ∨ 64 < n.toNat) → TrapsWith c i s ⟨2, n.setWidth 64⟩) ∧
    (name ≠ 0 → (if f.toNat < 2 then n.toNat = 0 else 0 < n.toNat ∧ n.toNat ≤ 64) →
      (∀ a r, tm.attach? name = some a → a.result = some r →
        (a.mode = f → Leaves c i s fun _ g => KeptBut c g x r) ∧ (a.mode ≠ f → TrapsWith c i s ⟨0x18, a.name⟩)) ∧
      (tm.attach? name = none → c.P.crock? name = none → f.toNat < 2 →
        Leaves c i s fun _ g => KeptBut c g x 0xFFFFFFFFFFFFFFFF) ∧
      (∀ dir d, tm.attach? name = none → tm.attaches.all (fun a => a.dir != dir) = true → c.P.crock? name = some (dir, d) →
        Table.get? c.P.run.dir dir = some d → f = 0 → d.state = 1 ∨ d.state = 2 → d.core.toNat = c.P.coreOf c.gid →
        d.writer = false → d.placed = true →
        Leaves c i s fun t g => KeptBut c g x (openResult dir d false) ∧
          dirIn t c dir = some { d with readers := d.readers + 1, state := 2 }))

/-- R175, R176, R178, R221: `ckopen` of an absent crock in mode create or cattach claims an entry of the directory in state 5, takes slots of
zeros on the core and reserves as many shadows; of a crock that is resident on the core and that no team holds, in mode write, it
reserves a shadow for each slot. Which slots of the core they are is the model's choice (notes/assumptions/44.md), and so is which entry
of the directory (notes/assumptions/99.md). -/
def Sys2Proof.Spec.CkopenCreatesAndReservesShadows : Prop :=
  ∀ (c : Ctx) (s : State) (x y : SReg) (f : BitVec 2) (l : La) (fetch : Bool) (n : BitVec 7) (tm : Team) (core : Core),
    Ready c s (.ckopen x y f l fetch n) → isWhisk c.gid = false → c.team? = some tm → tm.core = c.P.coreOf c.gid →
    c.P.core? (c.P.coreOf c.gid) = some core → c.P.mode = 0 ∨ c.P.mode = 1 →
    let name := c.g.sreg y
    let i : Instr := .ckopen x y f l fetch n
    let free := c.P.freeSlotList (c.P.coreOf c.gid)
    let shadows (t : State) (dir k : Nat) (mode : BitVec 2) (created : Bool) : Prop :=
      ∃ tm' a core', teamIn t c = some tm' ∧ tm'.attach? name = some a ∧ coreIn t c = some core' ∧ a.dir = dir ∧ a.mode = mode ∧
        a.created = created ∧ a.spare.length = k ∧ a.spare.Nodup ∧
        ∀ sh ∈ a.spare, sh ∈ free ∧ ∃ tag, Table.get? core'.tags sh = some tag ∧ tag.state = 5
    name ≠ 0 → tm.attach? name = none →
    (2 ≤ f.toNat → 0 < n.toNat → n.toNat ≤ 64 → c.P.crock? name = none → tm.attaches = [] → (c.P.backingFrame n.toNat).isSome = true →
      (∃ j < 4096, Table.has c.P.run.dir j = false) → c.P.freeRuns (c.P.coreOf c.gid) n.toNat ≠ [] → 2 * n.toNat ≤ free.length →
      Leaves c i s fun t g => ∃ dir d core', dir < 4096 ∧ Table.has c.P.run.dir dir = false ∧ dirIn t c dir = some d ∧
        KeptBut c g x (openResult dir d true) ∧ d.name = name ∧ d.state = 5 ∧ d.version = 0 ∧ d.count.toNat + 1 = n.toNat ∧
        d.core.toNat = c.P.coreOf c.gid % 128 ∧ d.writer = true ∧ d.creator = some c.tk ∧
        shadows t dir n.toNat f true ∧ coreIn t c = some core' ∧
        ∀ j < n.toNat, d.base.toNat + j ∈ free ∧
          (∃ tag, Table.get? core'.tags (d.base.toNat + j) = some tag ∧ tag.state = 4 ∧ tag.owner.toNat = dir ∧ tag.link.toNat = j) ∧
          ∀ o < 4096, Cells.get 0 core'.scratch ((d.base.toNat + j) * 4096 + o) = 0) ∧
    (f = 1 → n = 0 → ∀ dir d, c.P.crock? name = some (dir, d) → Table.get? c.P.run.dir dir = some d →
      tm.attaches.all (fun a => a.dir != dir) = true → d.state = 1 → d.core.toNat = c.P.coreOf c.gid → d.writer = false → d.readers = 0 →
      d.placed = true → d.count.toNat + 1 ≤ free.length →
      Leaves c i s fun t g => KeptBut c g x (openResult dir d false) ∧
        dirIn t c dir = some { d with writer := true, state := 2 } ∧ shadows t dir (d.count.toNat + 1) 1 false)

/-- R222, R223, R225: `ckseal` commits, anchors and returns the raised VERSION; `ckdrop` marks the attach; `ckstat` reads the entry; a
crock that the team does not hold takes 0x17, a read attach or a dropped one 0x18 of `ckseal` and `ckdrop`. -/
def Sys2Proof.Spec.HeldCrocksAreSealedDroppedAndRead : Prop :=
  (∀ (c : Ctx) (s : State) (x y : SReg) (l : La) (tm : Team) (a : Attach) (d : DirEntry), Ready c s (.ckseal x y l) →
    Holds c tm (c.g.sreg y) a → a.mode ≠ 0 → a.drop = false → Table.get? c.P.run.dir a.dir = some d →
    c.g.windows.all Window.done = true → c.g.count .ld = 0 → c.g.count .cin = 0 → c.g.count .cout = 0 → Committed tm →
    c.P.mode = 0 ∨ c.P.mode = 1 →
    Leaves c (.ckseal x y l) s fun t g => KeptBut c g x ((d.version + 1).setWidth 64) ∧
      (∃ d', dirIn t c a.dir = some d' ∧ d'.version = d.version + 1) ∧ ∃ tm', teamIn t c = some tm' ∧ tm'.anch = true) ∧
  (∀ (c : Ctx) (s : State) (y : SReg) (l : La) (tm : Team) (a : Attach), Ready c s (.ckdrop y l) → Holds c tm (c.g.sreg y) a →
    a.mode ≠ 0 → a.drop = false →
    Leaves c (.ckdrop y l) s fun t g => Kept c g ∧
      ∃ tm', teamIn t c = some tm' ∧ tm'.attach? (c.g.sreg y) = some { a with drop := true }) ∧
  (∀ (c : Ctx) (s : State) (x y : SReg) (l : La) (tm : Team) (a : Attach) (d : DirEntry), Ready c s (.ckstat x y l) →
    Holds c tm (c.g.sreg y) a → Table.get? c.P.run.dir a.dir = some d →
    Leaves c (.ckstat x y l) s fun _ g => KeptBut c g x (BitVec.ofNat 64 (d.version.toNat + d.count.toNat * 2 ^ 32 +
      d.base.toNat * 2 ^ 38 + d.core.toNat * 2 ^ 46 + d.state.toNat * 2 ^ 53 + (if d.pin then 2 ^ 56 else 0)))) ∧
  (∀ (c : Ctx) (s : State) (x y : SReg) (l : La) (i : Instr) (tm : Team), i = .ckseal x y l ∨ i = .ckdrop y l ∨ i = .ckstat x y l →
    Ready c s i → c.team? = some tm →
    (tm.attach? (c.g.sreg y) = none → TrapsWith c i s ⟨0x17, c.g.sreg y⟩) ∧
    (∀ a, Holds c tm (c.g.sreg y) a → a.mode = 0 ∨ a.drop = true → i ≠ .ckstat x y l → TrapsWith c i s ⟨0x18, c.g.sreg y⟩))

/-- R224, R179: `ckevict` returns all ones for a name that is absent; F = 0 evicts a detached resident crock, whose STATE becomes 3,
and returns 0, or returns 1, while no `cpyv` holds a line of its backing (R216); F = 1 and 2 set and clear PIN; F = 3 takes
0x02. -/
def Sys2Proof.Spec.CkevictEvictsOrPins : Prop :=
  ∀ (c : Ctx) (s : State) (x y : SReg) (f : BitVec 2) (l : La), Ready c s (.ckevict x y f l) →
    let i : Instr := .ckevict x y f l
    (f = 3 → TrapsWith c i s ⟨2, 3⟩) ∧
    (f ≠ 3 → c.P.crock? (c.g.sreg y) = none → Leaves c i s fun _ g => KeptBut c g x 0xFFFFFFFFFFFFFFFF) ∧
    (∀ dir d, c.P.crock? (c.g.sreg y) = some (dir, d) → Table.get? c.P.run.dir dir = some d →
      (f = 0 → c.P.backingHeld d = false → d.state ≠ 1 → Leaves c i s fun t g => KeptBut c g x 1 ∧ dirIn t c dir = some d) ∧
      (f = 0 → c.P.backingHeld d = false → d.state = 1 → (c.P.core? d.core.toNat).isSome = true → ∃ t g, exec i s = .next t ∧
        t.group? c.p c.gid = some g ∧ KeptBut c g x 0 ∧ dirIn t c dir = some { d with state := 3, dirty := [], placed := false }) ∧
      (f = 1 → Leaves c i s fun t g => KeptBut c g x 0 ∧ dirIn t c dir = some { d with pin := true }) ∧
      (f = 2 → Leaves c i s fun t g => KeptBut c g x 0 ∧ dirIn t c dir = some { d with pin := false }))

/-- R175, R176, R178, R221 to R225: the crock instructions.
Where these rules leave something open, this rests on the model's choice: notes/assumptions/36.md, 44.md, 99.md. -/
def Obligations.CrockInstructions : Prop :=
  CkopenAnswers ∧ CkopenCreatesAndReservesShadows ∧ HeldCrocksAreSealedDroppedAndRead ∧ CkevictEvictsOrPins

/-! ## The matrix engine -/

/-- R195, R230 to R232: `obres` makes a record of the descriptor's reservation under the lowest free handle, which it returns, and clears
its units to zero; `obrel` frees the handle and the record; a handle that the team does not hold takes 0x1A. -/
def Sys2Proof.Spec.ReservationsAreMadeAndReleased : Prop :=
  (∀ (c : Ctx) (s : State) (x y : SReg) (l : La) (tm : Team) (k : Core) (h n : Nat), Ready c s (.obres x y l) →
    c.team? = some tm → c.P.core? tm.core = some k →
    let d := c.g.sreg y
    badReservation d = false → c.quotaTrap tm (d.extractLsb' 10 11).toNat (d.extractLsb' 21 12).toNat = none →
    h < tm.recQuota → Table.get? tm.handles h = none → (∀ j < h, Table.get? tm.handles j ≠ none) →
    n < 16 → Table.get? k.records n = none → (∀ j < n, Table.get? k.records j ≠ none) →
    Leaves c (.obres x y l) s fun t g => KeptBut c g x (BitVec.ofNat 64 h) ∧
      (∃ tm', teamIn t c = some tm' ∧ Table.get? tm'.handles h = some n) ∧
      (∃ k', (t.part? c.p).bind (fun P => P.core? tm.core) = some k' ∧
        Table.get? k'.records n = some ⟨d.getLsbD 3, BitVec.ofNat 4 tm.slot, d.extractLsb' 0 3, d.extractLsb' 4 6,
          d.extractLsb' 33 12, BitVec.ofNat 11 (tm.unitBase + (d.extractLsb' 10 11).toNat), d.extractLsb' 21 12⟩ ∧
        let first := (tm.unitBase + (d.extractLsb' 10 11).toNat) * 256
        let behind := first + (d.extractLsb' 21 12).toNat * 256
        ∀ b, Cells.get 0 k'.operand b = if first ≤ b ∧ b < behind then 0 else Cells.get 0 k.operand b)) ∧
  (∀ (c : Ctx) (s : State) (y : SReg) (l : La), Ready c s (.obrel y l) →
    let h := c.g.sreg y
    (h.toNat < 16 → c.reservation h.toNat = none → TrapsWith c (.obrel y l) s ⟨0x1A, BitVec.ofNat 64 (4 + h.toNat * 2 ^ 4 + 0xA1 * 2 ^ 32)⟩) ∧
    (∀ tm r, h.toNat < 16 → c.team? = some tm → c.reservation h.toNat = some r →
      (∀ m ∈ c.matrixOps, m.meets [(r.base.toNat * 256, r.len.toNat * 256)] = false) →
      Leaves c (.obrel y l) s fun t g => Kept c g ∧ (∃ tm', teamIn t c = some tm' ∧ Table.get? tm'.handles h.toNat = none) ∧
        ∀ n, Table.get? tm.handles h.toNat = some n → ∃ k', coreIn t c = some k' ∧ Table.get? k'.records n = none))

/-- R248, R249: `acfg` F = 0 clears its tile and sets ROW0 and COL0, after binding a name that is unbound to a tile of the core that is
free; F = 1 sets them alone; `azero` clears the cells; `arel` frees the
name, and has no effect on a name that is not allocated; a name at or above the quota takes 0x1B. -/
def Sys2Proof.Spec.TilesAreConfiguredClearedAndFreed : Prop :=
  (∀ (c : Ctx) (s : State) (y : SReg) (l : La) (t : BitVec 3) (phys : Nat) (x : Tile), TileFree c t phys x false →
    let row := (c.g.sreg y).extractLsb' 0 32
    let col := (c.g.sreg y).extractLsb' 32 32
    (Ready c s (.acfg y 0 l t) → Leaves c (.acfg y 0 l t) s fun u g => Kept c g ∧ tileIn u c phys = some ⟨row, col, [], []⟩) ∧
    (Ready c s (.acfg y 1 l t) →
      Leaves c (.acfg y 1 l t) s fun u g => Kept c g ∧ tileIn u c phys = some { x with row0 := row, col0 := col }) ∧
    (Ready c s (.azero l t) →
      Leaves c (.azero l t) s fun u g => Kept c g ∧ tileIn u c phys = some { x with cells := [], poison := [] }) ∧
    (Ready c s (.arel l t) →
      Leaves c (.arel l t) s fun u g => Kept c g ∧ tileIn u c phys = none ∧ ∃ tm, teamIn u c = some tm ∧ Table.get? tm.tiles t.toNat = none)) ∧
  (∀ (c : Ctx) (s : State) (y : SReg) (l : La) (t : BitVec 3) (tm : Team) (k : Core), Ready c s (.acfg y 0 l t) → c.team? = some tm →
    t.toNat < tm.accQuota → Table.get? tm.tiles t.toNat = none → c.P.core? (c.P.coreOf c.gid) = some k →
    (∃ n < 8, Table.get? k.tiles n = none) →
    Leaves c (.acfg y 0 l t) s fun u g => Kept c g ∧ ∃ tm' n, n < 8 ∧ Table.get? k.tiles n = none ∧ teamIn u c = some tm' ∧
      Table.get? tm'.tiles t.toNat = some n ∧
      tileIn u c n = some ⟨(c.g.sreg y).extractLsb' 0 32, (c.g.sreg y).extractLsb' 32 32, [], []⟩) ∧
  (∀ (c : Ctx) (s : State) (l : La) (t : BitVec 3) (tm : Team), Ready c s (.arel l t) → c.team? = some tm → t.toNat < tm.accQuota →
    Table.get? tm.tiles t.toNat = none → Leaves c (.arel l t) s fun _ g => Kept c g) ∧
  (∀ (c : Ctx) (s : State) (i : Instr) (y : SReg) (l : La) (t : BitVec 3) (tm : Team), Ready c s i → c.team? = some tm →
    tm.accQuota ≤ t.toNat → i = .acfg y 0 l t ∨ i = .acfg y 1 l t ∨ i = .azero l t ∨ i = .arel l t →
    TrapsWith c i s ⟨0x1B, t.setWidth 64⟩)

/-- R245, R246, R254, R255: `mfence` closes a batch and returns its number; `mwait` and `nanc` go on once the batch of the number is
complete, when the holds of the group's batches up to it end, and wait before; the number of no issued batch takes 0x02; `srseed`
writes SEED and clears CTR; `mrdy` goes on once the group has no fill pending. -/
def Sys2Proof.Spec.BatchesAreClosedAndAwaited : Prop :=
  (∀ (c : Ctx) (s : State) (x : SReg) (l : La), Ready c s (.mfence x l) →
    Leaves c (.mfence x l) s fun _ g => g.closed = c.g.closed + 1 ∧ g.sreg x = BitVec.ofNat 64 ((c.g.closed + 1) % 2 ^ 16) ∧
      (∀ e, e ≠ x → g.sreg e = c.g.sreg e) ∧ g.v = c.g.v ∧ g.q = c.g.q ∧ g.pc = c.g.pc + 4) ∧
  (∀ (c : Ctx) (s : State) (x : SReg), Ready c s (.mwait x) →
    let age := (BitVec.ofNat 16 c.g.closed - (c.g.sreg x).extractLsb' 0 16).toNat
    (2 ^ 15 ≤ age → TrapsWith c (.mwait x) s ⟨2, ((c.g.sreg x).extractLsb' 0 16).setWidth 64⟩) ∧
    (age < 2 ^ 15 → c.g.closed - age ≤ c.g.complete →
      Leaves c (.mwait x) s fun t g => g = c.g.completed (c.g.pc + 4) ∧
        ∀ k, c.P.core? (c.P.coreOf c.gid) = some k → coreIn t c = some { k with
          matrix := k.matrix.filter fun m => m.gid != c.gid || m.bno == 0 || decide (c.g.closed - age < m.bno) }) ∧
    (age < 2 ^ 15 → c.g.complete < c.g.closed - age →
      ∃ t, exec (.mwait x) s = .next t ∧ t.group? c.p c.gid = some { c.g with wait := some .inFlight })) ∧
  (∀ (c : Ctx) (s : State) (d a : SReg), Ready c s (.nanc d a) →
    let age := (BitVec.ofNat 16 c.g.closed - (c.g.sreg a).extractLsb' 0 16).toNat
    (2 ^ 15 ≤ age → TrapsWith c (.nanc d a) s ⟨2, ((c.g.sreg a).extractLsb' 0 16).setWidth 64⟩) ∧
    (16 ≤ age → age < 2 ^ 15 → Leaves c (.nanc d a) s fun _ g => g = (c.g.setS d 0xFFFFFFFFFFFFFFFF).completed (c.g.pc + 4)) ∧
    (age < 16 → c.g.closed - age ≤ c.g.complete → Leaves c (.nanc d a) s fun t g =>
      g = (c.g.setS d (BitVec.ofNat 64 (Table.getD c.g.nans (c.g.closed - age) 0))).completed (c.g.pc + 4) ∧
      ∀ k, c.P.core? (c.P.coreOf c.gid) = some k → coreIn t c = some { k with
        matrix := k.matrix.filter fun m => m.gid != c.gid || m.bno == 0 || decide (c.g.closed - age < m.bno) }) ∧
    (age < 16 → c.g.complete < c.g.closed - age →
      ∃ t, exec (.nanc d a) s = .next t ∧ t.group? c.p c.gid = some { c.g with wait := some .inFlight })) ∧
  (∀ (c : Ctx) (s : State) (a : SReg), Ready c s (.srseed a) →
    CompletesWith c (.srseed a) s fun g => g = { c.g with
      seed := (c.g.sreg a).setWidth 32, ctr := 0, cpoison := c.g.cpoison.filter fun w => w != seedWord }) ∧
  (∀ (c : Ctx) (s : State), Ready c s .mrdy →
    ((∀ m ∈ c.matrixOps, m.gid = c.gid → m.bno ≠ 0) → ∃ t, exec .mrdy s = .next t ∧ Stepped c s t) ∧
    ((∃ m ∈ c.matrixOps, m.gid = c.gid ∧ m.bno = 0) →
      ∃ t, exec .mrdy s = .next t ∧ t.group? c.p c.gid = some { c.g with wait := some .inFlight }))

/-- R195, R230 to R232, R245 to R249, R254, R255: the matrix instructions that act at once or wait.
Where these rules leave something open, this rests on the model's choice: notes/assumptions/46.md, 47.md. -/
def Obligations.ReservationTileAndBatchInstructions : Prop :=
  ReservationsAreMadeAndReleased ∧ TilesAreConfiguredClearedAndFreed ∧ BatchesAreClosedAndAwaited

/-- R227, R234, R235, R237 to R239, R253: a fill or a batch operation that passes its checks completes at once: it stands last in the
queue of its core's engine, holding its tile and its ranges, in the open batch; no register changes. -/
def Obligations.MatrixOperationsEnterTheQueue : Prop :=
  (∀ (c : Ctx) (s : State) (x y : SReg) (l : La) (r : Reservation), Ready c s (.obld x y l) → EngineRoom c →
    let d := c.g.sreg x
    let src := (c.g.sreg y).toNat
    let h := (d.extractLsb' 0 4).toNat
    let off := (d.extractLsb' 8 19).toNat
    let bytes := (d.extractLsb' 32 20).toNat
    let dst := r.base.toNat * 256 + off
    d.extractLsb' 4 4 = 0 → d.extractLsb' 27 5 = 0 → d.extractLsb' 52 12 = 0 → bytes ≠ 0 → bytes % 32 = 0 → off % 32 = 0 →
    src < 2 ^ 20 → src % 32 = 0 → c.reservation h = some r → off + bytes ≤ r.len.toNat * 256 →
    c.padError false 0 src bytes 0 = none → c.rangeBusy [(dst, bytes)] h true = none → (c.P.core? (c.P.coreOf c.gid)).isSome = true →
    Leaves c (.obld x y l) s fun t g => Kept c g ∧
      Queued t c (.fill ((List.range (bytes / 32)).map fun k => (src + 32 * k, dst + 32 * k, 32))) none [(dst, bytes)] 0) ∧
  (∀ (c : Ctx) (s : State) (x y : SReg) (l : La) (p : VReg) (r : Reservation), Ready c s (.gath x y l p) → EngineRoom c →
    let ptr := pointerOf (c.g.sreg x)
    let b := c.g.sreg y
    let base := (b.extractLsb' 0 20).toNat
    let pitch := (b.extractLsb' 20 16).toNat
    let row (j : Nat) : Nat := base + ((c.g.vreg (p.toNat + j / 64) (j / 2 % 32)).toNat / 2 ^ (16 * (j % 2)) % 2 ^ 16) * pitch
    badPointer (c.g.sreg x) false = false → b.extractLsb' 36 28 = 0 → base % 32 = 0 → pitch % 32 = 0 → pitch ≠ 0 →
    c.reservation ptr.hnd = some r → r.blen = 0 → r.outside ptr.blk ptr.str = none →
    (∀ j < 128, c.padError false 0 (row j) 96 0 = none) → c.rangeBusy (r.footprint ptr.blk ptr.str) ptr.hnd true = none →
    (c.P.core? (c.P.coreOf c.gid)).isSome = true →
    Leaves c (.gath x y l p) s fun t g => Kept c g ∧
      Queued t c (.fill ((List.range 128).map fun j =>
        (row j, r.base.toNat * 256 + 768 * (ptr.blk + j / 8 * ptr.str) + j % 8 * 96, 96))) none (r.footprint ptr.blk ptr.str) 0) ∧
  (∀ (c : Ctx) (s : State) (x y : SReg) (l : La) (t : BitVec 3) (phys n : Nat) (tile : Tile) (ra rb : Reservation) (da db : Int)
      (i : Instr), Ready c s i → EngineRoom c → TileFree c t phys tile true →
    let a := pointerOf (c.g.sreg x)
    let b := pointerOf (c.g.sreg y)
    let blocks (p : StepPtr) (d : Int) : List Int := (List.range n).map fun (k : Nat) => (p.blk : Int) + k * d
    ((i = .mstep x y l t ∧ badPointer (c.g.sreg x) false = false ∧ n = 1 ∧ da = 0 ∧ db = 0) ∨
      (i = .mloop x y l t ∧ x ≠ 31 ∧ y ≠ 31 ∧ badPointer (c.g.sreg x) true = false ∧
        n = ((c.g.sreg x).extractLsb' 48 16).toNat ∧ da = (c.g.sreg (x + 1)).toInt ∧ db = (c.g.sreg (y + 1)).toInt)) →
    badPointer (c.g.sreg y) false = false → (∀ k ∈ blocks a da ++ blocks b db, 0 ≤ k ∧ k ≤ 4095) →
    c.reservation a.hnd = some ra → c.reservation b.hnd = some rb → pairAllowed ra.fmt.toNat rb.fmt.toNat = true →
    (∀ k ∈ blocks a da, ra.outside k.toNat a.str = none) → (∀ k ∈ blocks b db, rb.outside k.toNat b.str = none) →
    let fa := ((blocks a da).map fun k => ra.footprint k.toNat a.str).flatten
    let fb := ((blocks b db).map fun k => rb.footprint k.toNat b.str).flatten
    c.rangeBusy fa a.hnd false = none → c.rangeBusy fb b.hnd false = none →
    Leaves c i s fun u g => Kept c g ∧ Queued u c (.steps a b da db n) (some (phys, t.toNat)) (fa ++ fb) (c.g.closed + 1)) ∧
  (∀ (c : Ctx) (s : State) (x y : SReg) (l : La) (t : BitVec 3) (phys : Nat) (tile : Tile) (i : Instr) (save : Bool),
    i = (if save then .asave x y l t else .aload x y l t) → Ready c s i → EngineRoom c → TileFree c t phys tile true →
    let d := c.g.sreg x
    let a := (c.g.sreg y).toNat
    let r0 := (d.extractLsb' 0 7).toNat
    let n := (d.extractLsb' 8 7).toNat + 1
    d.toNat < 2 ^ 15 → d.getLsbD 7 = false → r0 + n ≤ 128 → a < 2 ^ 20 → a % 16 = 0 →
    (∀ order < 3, c.padError save order a (n * 1408) 0 = none) →
    Leaves c i s fun u g => Kept c g ∧
      Queued u c (if save then .save r0 n a 0 else .load r0 n a 0) (some (phys, t.toNat)) [] (c.g.closed + 1))

/-- R250 to R252: `ard` reads cells into the lanes acted on, converted under MODE and the tile's draws; `awr` sets the cells of those
lanes from their elements, `ascal` scales their rows, and every other cell stays; no other register changes.
Where these rules leave something open, this rests on the model's choice: notes/assumptions/45.md, 106.md, 111.md. -/
def Obligations.AccumulatorReadWriteAndScale : Prop :=
  (∀ (c : Ctx) (s : State) (v : VReg) (t : BitVec 3) (r : BitVec 7) (l : La) (p : BitVec 4) (ty : Ty) (phys : Nat) (x : Tile),
    Ready c s (.ard v t r l p) → Ty.ofCode c.g.ty = some ty → 8 * p.toNat + 32 * ty.n ≤ 128 → TileFree c t phys x false →
    x.poison = [] →
    let col (i k : Nat) : Nat := 8 * p.toNat + ty.n * i + k
    CompletesWith c (.ard v t r l p) s fun g =>
      LanesWritten c.g { g with windows := c.g.windows } ty.wide v fun i => packElems ty.w ((List.range ty.n).map fun k =>
        readCell ⟨c.g.rnd, c.g.ftz, c.g.nanm, c.g.sat, tileDraw c.g.seed (x.row0 + r.setWidth 32) x.col0 (col i k)⟩ ty
          (Cells.get 0 x.cells (cellNo r.toNat (col i k))))) ∧
  (∀ (c : Ctx) (s : State) (v : VReg) (t : BitVec 3) (r : BitVec 7) (l : La) (p : BitVec 4) (ty : Ty) (phys : Nat) (x : Tile),
    Ready c s (.awr v t r l p) → Ty.ofCode c.g.ty = some ty → 8 * p.toNat + 32 * ty.n ≤ 128 → TileFree c t phys x false →
    let col (i k : Nat) : Nat := 8 * p.toNat + ty.n * i + k
    Leaves c (.awr v t r l p) s fun u g => Kept c g ∧ ∃ x', tileIn u c phys = some x' ∧ x'.row0 = x.row0 ∧ x'.col0 = x.col0 ∧
      (∀ i < 32, ∀ k < ty.n, c.g.active i = true → Cells.get 0 x'.cells (cellNo r.toNat (col i k)) =
        writeCell ty (elem ty.w k (c.g.direct ty.wide v.toNat i))) ∧
      ∀ n, (∀ i < 32, ∀ k < ty.n, c.g.active i = true → n ≠ cellNo r.toNat (col i k)) →
        Cells.get 0 x'.cells n = Cells.get 0 x.cells n) ∧
  (∀ (c : Ctx) (s : State) (v : VReg) (t : BitVec 3) (r : BitVec 7) (l : La) (ty : Ty) (phys : Nat) (x : Tile),
    Ready c s (.ascal v t r l) → Ty.ofCode c.g.ty = some ty → c.g.ty ∈ [8, 9] → r.toNat ≤ 96 → TileFree c t phys x false →
    x.poison = [] →
    Leaves c (.ascal v t r l) s fun u g => Kept c g ∧ ∃ x', tileIn u c phys = some x' ∧ x'.row0 = x.row0 ∧ x'.col0 = x.col0 ∧
      ∀ y, ∀ j < 128, Cells.get 0 x'.cells (cellNo y j) =
        if r.toNat ≤ y ∧ y < r.toNat + 32 ∧ c.g.active (y - r.toNat) = true then
          scaleCell (unpack ty.fmt (c.g.direct ty.wide v.toNat (y - r.toNat))) (Cells.get 0 x.cells (cellNo y j))
        else Cells.get 0 x.cells (cellNo y j))

/-! ## Sends and the whisk -/

/-- R289, R290, R294, R295, R418: a send whose counter word and addresses pass leaves with its bytes and SND counts it; a `sendb` with
F = 1 anchors its team, takes 0x02 where its binding is not valid, and fails with reason 7 where the binding's port is dead; `cset`
stores its count, `cwait` goes on once the counter has reached it, waits below it, and takes 0x25 where FLT is set.
Where these rules leave something open, this rests on the model's choice: notes/assumptions/107.md. -/
def Obligations.SendsAndTheirCounters : Prop :=
  (∀ (c : Ctx) (s : State) (d a : VReg) (l : La) (b : SReg) (z : BitVec 3), Ready c s (.sendr d a l b z) → isWhisk c.gid = false →
    let w := c.g.sreg b
    let size := 2 ^ (2 + z.toNat)
    c.cwordTrap w false = none → (∀ i ∈ c.g.actives, (c.g.vreg a.toNat i).toNat % 2 ^ 20 % size = 0) → c.g.count .snd < 255 →
    Leaves c (.sendr d a l b z) s fun t g => Kept c g ∧ SendStarted t c g (.send c.gid false false w
      (c.g.actives.map fun i => ((c.g.vreg a.toNat i).toNat % 2 ^ 20,
        ((List.range (size / 4)).map fun j => leBytes 4 (c.g.vreg (d.toNat + j) i).toNat).flatten)) 0 0 0 false none)) ∧
  (∀ (c : Ctx) (s : State) (x y : SReg) (l : La), Ready c s (.sendb x y 0 l) → isWhisk c.gid = false →
    let d := c.g.sreg x
    let src := (d.extractLsb' 0 20).toNat
    let dst := (d.extractLsb' 20 20).toNat
    let n := (d.extractLsb' 40 12).toNat + 1
    d.extractLsb' 52 12 = 0 → c.cwordTrap (c.g.sreg y) false = none → dst % 32 = 0 → src % 32 = 0 →
    c.padError false 0 src (32 * n) 0 = none → c.g.count .snd < 255 →
    Leaves c (.sendb x y 0 l) s fun t g => Kept c g ∧
      SendStarted t c g (.send c.gid true false (c.g.sreg y) [] src dst n false none)) ∧
  (∀ (c : Ctx) (s : State) (x y : SReg) (l : La), Ready c s (.sendb x y 1 l) → isWhisk c.gid = false →
    let d := c.g.sreg x
    let w := c.g.sreg y
    let src := (d.extractLsb' 0 20).toNat
    let dst := (d.extractLsb' 20 20).toNat
    let n := (d.extractLsb' 40 12).toNat + 1
    let binding := Cells.get 0 c.P.regs.spw (w.extractLsb' 20 4).toNat
    d.extractLsb' 52 12 = 0 →
    (w.toNat < 2 ^ 24 → binding.getLsbD 63 = false → TrapsWith c (.sendb x y 1 l) s ⟨2, w⟩) ∧
    (c.cwordTrap w true = none → dst % 32 = 0 → src % 32 = 0 → c.padError false 0 src (32 * n) 0 = none → c.g.count .snd < 255 →
      c.team?.isSome = true →
      Leaves c (.sendb x y 1 l) s fun t g => Kept c g ∧ (∃ tm', teamIn t c = some tm' ∧ tm'.anch = true) ∧
        ∃ fail, SendStarted t c g (.send c.gid true true w [] src dst n false fail) ∧
          (s.portDead (binding.extractLsb' 59 4).toNat = true → fail = some (7, dst)))) ∧
  (∀ (c : Ctx) (s : State) (x y : SReg) (f : BitVec 2) (l : La), Ready c s (.sendb x y f l) → isWhisk c.gid = false →
    2 ≤ f.toNat → TrapsWith c (.sendb x y f l) s ⟨2, f.setWidth 64⟩) ∧
  (∀ (c : Ctx) (s : State) (x y : SReg) (k : Core), let n := c.g.sreg x
    let a := (c.g.sreg y).toNat
    n.toNat < 2 ^ 63 → a < 2 ^ 20 → a % 8 = 0 → c.reach (a / 4096) = .own 1 → c.P.core? (c.P.coreOf c.gid) = some k →
    (Ready c s (.cset x y) → Leaves c (.cset x y) s fun t g => g = c.g.completed (c.g.pc + 4) ∧ ∃ k', coreIn t c = some k' ∧
      Cells.getMany 0 k'.scratch a 8 = leBytes 8 n.toNat ∧
      ∀ b, (b < a ∨ a + 8 ≤ b) → Cells.get 0 k'.scratch b = Cells.get 0 k.scratch b) ∧
    (Ready c s (.cwait x y) → k.spoison = [] →
      let v := leNat (Cells.getMany 0 k.scratch a 8)
      (2 ^ 63 ≤ v → TrapsWith c (.cwait x y) s ⟨0x25, BitVec.ofNat 64 (a + 6 * 2 ^ 24)⟩) ∧
      (v < 2 ^ 63 → n.toNat ≤ v → ∃ t, exec (.cwait x y) s = .next t ∧ Stepped c s t) ∧
      (v < n.toNat → ∃ t, exec (.cwait x y) s = .next t ∧
        t.group? c.p c.gid = some { c.g with wait := some (.counter a n.toNat) })))

/-- R306: a `wcall` of a team that has nothing to commit sends a request for each lane, counted on WCL, and anchors the team; a
`wpost` that fits the quota puts its requests into the colander; neither changes a register. -/
def Obligations.CombinerRequestsLeave : Prop :=
  (∀ (c : Ctx) (s : State) (d a : VReg) (l : La) (w : BitVec 2) (b : VReg) (tm : Team), Ready c s (.wcall d a l w b) →
    isWhisk c.gid = false → c.team? = some tm → Committed tm → c.P.mode = 0 ∨ c.P.mode = 1 →
    Maps c .whisk (objects c a) → c.g.count .ld = 0 → c.g.count .cin = 0 → c.g.count .cout = 0 → c.g.count .wcl < 255 →
    ∃ t g P tm', exec (.wcall d a l w b) s = .next t ∧ t.group? c.p c.gid = some g ∧ Kept c g ∧
      t.part? c.p = some P ∧ P.team? c.tk = some tm' ∧ tm'.anch = true ∧
      (∀ x, t.byte x = (walked c .whisk (objects c a)).byte x) ∧
      (objects c a = [] → Passed c g .wcl) ∧
      (objects c a ≠ [] → ∃ op, g.inflight = c.g.inflight ++ [⟨op, .wcl, false⟩] ∧
        ∀ e ∈ objects c a, ∃ id r, Table.get? P.run.whisks id = some r ∧ r.op = op ∧ r.obj = e.2 ∧ r.width = w ∧
          r.arg = argument c w b e.1 ∧ r.requester = c.P.requester c.gid e.1 ∧ r.place = .travelling)) ∧
  (∀ (c : Ctx) (s : State) (a : VReg) (l : La) (w : BitVec 2) (b : VReg) (tm : Team), Ready c s (.wpost a l w b) →
    isWhisk c.gid = false → c.team? = some tm → Maps c .whisk (objects c a) →
    tm.colander.length + (tm.posted.length + (objects c a).length + 7) / 8 ≤ tm.quota →
    ∃ t g tm' new, exec (.wpost a l w b) s = .next t ∧ t.group? c.p c.gid = some g ∧ Kept c g ∧ teamIn t c = some tm' ∧
      tm'.posted = tm.posted ++ new ∧
      new.map (fun x => (x.obj, x.width, x.arg, x.requester)) =
        (objects c a).map (fun e => (e.2, w, argument c w b e.1, c.P.requester c.gid e.1)) ∧
      ∀ x, t.byte x = (walked c .whisk (objects c a)).byte x)

/-- R307, R311 to R316: the whisk group's instructions. `wtake`, which has waited, fills the lanes from the batch and returns the
batch word, and takes 0x01 where a batch is open already; `wreply` answers every lane with its operand, writes the window back with
BNO raised and closes the batch; `wfail` answers every lane with the fault 0x23 of its reason, counts it in FAILS and closes the
batch; `wscan` folds exclusively over the lanes acted on.
Where these rules leave something open, this rests on the model's choice: notes/assumptions/13.md, 54.md, 106.md. -/
def Obligations.WhiskGroupInstructions : Prop :=
  (∀ (c : Ctx) (s : State) (x : SReg) (h : Home) (b : Batch), s.issuer = some c → isWhisk c.gid = true → c.g.stage = .fresh →
    c.g.windows = [] → c.g.held = [] → c.g.poisons issueWords = false → c.checkUses (.wtake x) = none →
    c.consumes (.wtake x) = false → c.g.wait = some .take →
    Table.get? c.P.run.homes c.gid = some h → h.batch = some b → b.reqs.length ≤ 32 →
    ∃ t g, exec (.wtake x) s = .next t ∧ t.group? c.p c.gid = some g ∧
      g.sreg x = BitVec.ofNat 64 (224 * 4096 + b.reqs.length * 2 ^ 20 + b.cls.toNat * 2 ^ 32 + b.bno.toNat * 2 ^ 48) ∧
      (∀ l id r, (l, id, r) ∈ c.P.batchReqs b → l < 32 → g.vreg 0 l = r.arg.setWidth 32 ∧
        g.vreg 1 l = (if b.width = 1 then r.arg.extractLsb' 32 32 else 0) ∧ g.vreg 2 l = r.requester ∧
        g.vreg 3 l = BitVec.ofNat 32 (r.obj.toNat % 64) ∧ g.vreg 4 l = r.cop.setWidth 32 ∧ g.vreg 5 l = r.cop.extractLsb' 32 32) ∧
      (∀ r l, 6 ≤ r → l < 32 → g.vreg r l = c.g.vreg r l) ∧ ∀ a, t.byte a = s.byte a) ∧
  (∀ (c : Ctx) (s : State) (x : SReg) (h : Home), Ready c s (.wtake x) → isWhisk c.gid = true →
    Table.get? c.P.run.homes c.gid = some h → h.batch = none →
    ∃ t, exec (.wtake x) s = .next t ∧ t.group? c.p c.gid = some { c.g with wait := some .take }) ∧
  (∀ (c : Ctx) (s : State) (x : SReg) (h : Home) (b : Batch), Ready c s (.wtake x) → isWhisk c.gid = true →
    Table.get? c.P.run.homes c.gid = some h → h.batch = some b → TrapsWith c (.wtake x) s ⟨1, BitVec.ofNat 64 (wordOf (.wtake x))⟩) ∧
  (∀ (c : Ctx) (s : State) (a : Operand) (h : Home) (b : Batch), Ready c s (.wreply a) → isWhisk c.gid = true →
    Table.get? c.P.run.homes c.gid = some h → h.batch = some b → b.pa % 64 = 0 → b.reqs.Nodup →
    c.peekPoison windowAddr 56 = false → s.portDown b.pa = false → c.P.sieve.snapshot = none →
    (c.P.core? (c.P.coreOf c.gid)).isSome = true →
    (let us := [use a (if b.width = 1 then 2 else 1) 1]
     let g := { c.g with em := BitVec.ofNat 32 (2 ^ b.reqs.length - 1), mode := 0 }
     g.checkRegs c.n us = none ∧ g.poisonedUse us = false) →
    ∃ t g h', exec (.wreply a) s = .next t ∧ t.group? c.p c.gid = some g ∧ g = c.g.completed (c.g.pc + 4) ∧
      homeIn t c = some h' ∧ h'.batch = none ∧
      (∀ l id r, (l, id, r) ∈ c.P.batchReqs b → r.op ≠ 0 →
        answerIn t c.p id = some (.answered (BitVec.ofNat 64 (c.operand (b.width == 1) a l)) none)) ∧
      (∀ j < 56, t.byte (b.pa + j) = (c.peek windowAddr 56).getD j 0) ∧ t.num (b.pa + 56) 2 = (s.num (b.pa + 56) 2 + 1) % 2 ^ 16 ∧
      ∀ x, (x < b.pa ∨ b.pa + 58 ≤ x) → t.byte x = s.byte x) ∧
  (∀ (c : Ctx) (s : State) (k : BitVec 7) (h : Home) (b : Batch), Ready c s (.wfail k) → isWhisk c.gid = true →
    Table.get? c.P.run.homes c.gid = some h → h.batch = some b → b.pa % 64 = 0 → s.portDown b.pa = false →
    c.P.sieve.snapshot = none →
    ∃ t g h', exec (.wfail k) s = .next t ∧ t.group? c.p c.gid = some g ∧ g = c.g.completed (c.g.pc + 4) ∧
      homeIn t c = some h' ∧ h'.batch = none ∧
      (∀ l id r, (l, id, r) ∈ c.P.batchReqs b → r.op ≠ 0 → answerIn t c.p id = some (.answered 0 (some
        ⟨0x23, BitVec.ofNat 64 (r.obj.toNat % 2 ^ 56 + (0x80 + k.toNat) * 2 ^ 56)⟩))) ∧
      t.num (b.pa + 58) 2 = min (s.num (b.pa + 58) 2 + 1) 0xFFFF ∧
      ∀ x, (x < b.pa + 58 ∨ b.pa + 60 ≤ x) → t.byte x = s.byte x) ∧
  (∀ (c : Ctx) (s : State) (i : Instr) (x : SReg) (a : Operand) (k : BitVec 7), i = .wtake x ∨ i = .wreply a ∨ i = .wfail k →
    Ready c s i → isWhisk c.gid = false → TrapsWith c i s ⟨0x11, BitVec.ofNat 64 (wordOf i)⟩) ∧
  (∀ (c : Ctx) (s : State) (d : VReg) (a : Operand) (o : BitVec 3) (t : Ty), Ready c s (.wscan d a o) →
    Ty.ofCode c.g.ty = some t → c.g.ty ∈ [0, 1, 2, 3] ∨ (c.g.ty ∈ [8, 9] ∧ o.toNat ≤ 2) →
    CompletesWith c (.wscan d a o) s fun g => LanesWritten c.g g t.wide d fun l =>
      let r := scanFold c.g.env t o.toNat (c.g.direct t.wide d.toNat l)
        ((c.g.actives.filter fun m => decide (m < l)).map (c.operand t.wide a))
      (r.1, r.2.1))

/-! ## The events of cores, slices and homes -/

/-- R202, R204, R206, R54: when a load has all its bytes, they come into its registers, its window closes and LD falls. An acquire
at device scope or wider has then read no byte of a commit that is still under way (R330). -/
def Sys2Proof.Spec.LoadsReturn : Prop :=
  ∀ (s : State) (p : PartNo) (P : Part) (op gid dst size : Nat) (scalar : Bool) (lanes : List LaneLoad) (g : Group),
    s.part? p = some P → Table.get? P.run.ops op = some (.load gid dst size scalar lanes) → P.group? gid = some g →
    P.run.lines.all (fun e => e.2.op != op) = true →
    (∀ e ∈ P.run.sights, e.op = op → ∀ w ∈ g.windows, w.op = op → w.wide = false) → (∀ l ∈ lanes, l.lane < 32 ∧ l.poison = false) → lanes.Pairwise (fun a b => a.lane ≠ b.lane) →
    Becomes (.loadReturn p op) s p fun P' => Table.get? P'.run.ops op = none ∧ ∃ g', P'.group? gid = some g' ∧
      Returned g g' .ld op ∧ (∀ w ∈ g'.windows, w.op = op → w.done = true) ∧ g'.pc = g.pc ∧ g'.q = g.q ∧
      (scalar = false → g'.s = g.s ∧
        (∀ j < (size + 3) / 4, ∀ l ∈ lanes, (g'.vreg (dst + j) l.lane).toNat =
          leNat ((List.range (min 4 (size - 4 * j))).map fun k => Table.getD l.bytes (4 * j + k) 0)) ∧
        ∀ r, ∀ k < 32, (r < dst ∨ dst + (size + 3) / 4 ≤ r ∨ ∀ l ∈ lanes, l.lane ≠ k) → g'.vreg r k = g.vreg r k) ∧
      (scalar = true → g'.v = g.v ∧ ∀ l, lanes = [l] → dst < 32 →
        (g'.sreg (BitVec.ofNat 5 dst)).toNat = leNat ((List.range 8).map fun k => Table.getD l.bytes k 0))

/-- R299, R320, R321: a slice serves a request that stands first and that no gate holds: a read takes the bytes of its line to the load
that asked, as they were before the oldest write to the line that the reader's core does not see yet, if there is one; a write of a
`strel` puts its bytes there, and of memory nothing else changes. A read of an observed line finds every write. Which cores see a write
later is the model's choice (notes/assumptions/117.md). -/
def Sys2Proof.Spec.LinesAreServed : Prop :=
  (∀ (s : State) (p : PartNo) (P : Part) (id : Nat) (r : LineReq) (bs : List (Nat × Nat)) (gid dst size : Nat) (scalar : Bool)
      (lanes : List LaneLoad), s.part? p = some P → Table.get? P.run.lines id = some r → r.kind = .read bs →
    P.lineFree id r = true → r.obs = false ∨ P.mode = 0 ∨ P.mode = 1 → (∀ b ∈ bs, s.poisoned (r.pline * 128 + b.1) = false) →
    Table.get? P.run.ops r.op = some (.load gid dst size scalar lanes) →
    let seen (off : Nat) : Byte := match s.late.find? fun w => !r.obs && w.pline == r.pline && w.unseen.contains r.core with
      | some w => w.before.getD off 0
      | none => s.byte (r.pline * 128 + off)
    Becomes (.lineAccess p id) s p fun P' => Table.get? P'.run.lines id = none ∧
      Table.get? P'.run.ops r.op = some (.load gid dst size scalar (lanes.map fun l =>
        { l with
          bytes := List.foldl (fun t b => Table.set t (b.2 % 16) (seen b.1)) l.bytes
            (bs.filter fun b => b.2 / 16 == l.lane) }))) ∧
  (∀ (s : State) (p : PartNo) (P : Part) (id : Nat) (r : LineReq) (bytes : Table Byte), s.part? p = some P →
    Table.get? P.run.lines id = some r → r.kind = .write bytes [] → r.teamFlag = false → P.lineFree id r = true →
    r.obs = false ∨ P.mode = 0 ∨ P.mode = 1 → P.sieve.snapshot = none → s.portDown (r.pline * 128) = false →
    (bytes.map Prod.fst).Nodup →
    Reaches (.lineAccess p id) s p fun t P' => Table.get? P'.run.lines id = none ∧
      (∀ e ∈ bytes, t.byte (r.pline * 128 + e.1) = e.2) ∧
      ∀ a, (∀ e ∈ bytes, a ≠ r.pline * 128 + e.1) → t.byte a = s.byte a)

/-- R204: a core whose release filter holds no probed line, and none that a commit has taken from it, answers a probe at once. -/
def Sys2Proof.Spec.ProbesAreAnswered : Prop :=
  ∀ (s : State) (p : PartNo) (P : Part) (core : BitVec 7) (op gid : Nat) (lines cores : List Nat), s.part? p = some P →
    Table.get? P.run.ops op = some (.probe gid lines cores) → core.toNat ∈ cores → P.probed core.toNat lines = [] →
    (∀ e ∈ P.run.teams, e.2.core = core.toNat → ∀ c, e.2.commit = some c → ∀ l ∈ c.filter, l ∉ lines) →
    Becomes (.releaseFilterProbe p core op) s p fun P' =>
      Table.get? P'.run.ops op = some (.probe gid lines (cores.filter fun c => c != core.toNat))

/-- R212, R214: the first sector of a copy in all of whose bytes have come lands in the scratchpad; the next line of a `cpyo` enters the
colander; after the last one the copy is over. -/
def Sys2Proof.Spec.CopiesLand : Prop :=
  (∀ (s : State) (p : PartNo) (c : Ctx) (k : Core) (op : Nat) (lines : List CopyLine) (ready : Table Byte)
      (before after : List (Nat × List Nat)) (x : Nat × List Nat) (page : Option Nat) (gid : Nat), s.ctx? p gid = some c →
    Table.get? c.P.run.ops op = some (.copyIn gid none lines ready (before ++ x :: after) page) →
    (∀ y ∈ before, ∃ a ∈ y.2, Table.has ready a = false) → (∀ a ∈ x.2, Table.has ready a = true) →
    (∀ a ∈ x.2, c.reach (a / 4096) = .own 1) → coreOfGroup c.P gid = some k → k.cpoison = [] →
    Becomes (.copySectorLanding p op) s p fun P' =>
      (∃ k', coreOfGroup P' gid = some k' ∧ (∀ a ∈ x.2, Cells.get 0 k'.scratch a = Table.getD ready a 0) ∧
        ∀ a, a ∉ x.2 → Cells.get 0 k'.scratch a = Cells.get 0 k.scratch a) ∧
      (let left := (before ++ x :: after).filter fun y => y.1 != x.1
       if left = [] then Table.get? P'.run.ops op = none ∧ ∃ g', P'.group? gid = some g' ∧ Returned c.g g' .cin op
       else ∃ ready', Table.get? P'.run.ops op = some (.copyIn gid none lines ready' left none))) ∧
  (∀ (s : State) (p : PartNo) (c : Ctx) (op gid pl : Nat) (obs : Bool) (l : CopyLine) (rest : List CopyLine) (data : Table Byte)
      (page : Option Nat) (tm : Team), s.ctx? p gid = some c →
    Table.get? c.P.run.ops op = some (.copyOut gid false (l :: rest) data page) → l.pline = some (pl, obs) →
    c.P.outEarlier gid op l = false → c.team? = some tm → MasksClean tm → tm.used < tm.quota → (l.pairs.map Prod.fst).Nodup →
    Becomes (.copyOutProgress p op) s p fun P' =>
      (∃ tm', P'.team? c.tk = some tm' ∧ ∀ e ∈ l.pairs, tm'.forward (l.vline % 2 ^ 49) e.1 = some (Table.getD data e.2 0)) ∧
      (if rest = [] then Table.get? P'.run.ops op = none ∧ ∃ g', P'.group? gid = some g' ∧ Returned c.g g' .cout op
       else Table.get? P'.run.ops op = some (.copyOut gid false rest data none)))

/-- R202, R204, R212, R214, R299, R320, R321: loads, copies and slices. Which cores see a write later than others is the model's choice
(notes/assumptions/117.md). -/
def Obligations.MemoryEventsHappen : Prop := LoadsReturn ∧ LinesAreServed ∧ ProbesAreAnswered ∧ CopiesLand

/-- R290 to R292, R288: the next piece of a `sendr` lands at a receiver whose slots and guards let it; after the last one the counter
word rises by one, its FLT bit as it was, and SND falls; the acknowledgement of a send to another device ends it. -/
def Sys2Proof.Spec.SendsLandAndAreCounted : Prop :=
  (∀ (s : State) (p : PartNo) (c r : Ctx) (op gid tk : Nat) (w : DWord) (pieces : List (Nat × List Byte)) (src dst : Nat)
      (landed : Bool) (k : Core), s.ctx? p gid = some c → isWhisk gid = false →
    Table.get? c.P.run.ops op = some (.send gid false false w pieces src dst 0 landed none) → c.P.sendFirst gid op false w = true →
    c.P.receiver gid false w = some tk → s.ctx? p (tk * 32) = some r → coreOfGroup r.P (tk * 32) = some k →
    k.cpoison = [] →
    (∀ a bs rest, pieces = (a, bs) :: rest → r.landingFails a bs.length = none →
      (∀ j < bs.length, r.reach ((a + j) / 4096) = .own 1) →
      Becomes (.sendLanding p op) s p fun P' =>
        (∃ k', coreOfGroup P' (tk * 32) = some k' ∧ (∀ j < bs.length, Cells.get 0 k'.scratch (a + j) = bs.getD j 0) ∧
          ∀ b, (b < a ∨ a + bs.length ≤ b) → Cells.get 0 k'.scratch b = Cells.get 0 k.scratch b) ∧
        Table.get? P'.run.ops op = some (.send gid false false w rest src dst 0 landed none)) ∧
    (pieces = [] →
      let a := (w.extractLsb' 0 20).toNat
      let v := leNat (Cells.getMany 0 k.scratch a 8)
      a % 8 = 0 → r.reach (a / 4096) = .own 1 → k.spoison = [] →
      Becomes (.sendLanding p op) s p fun P' =>
        (∃ k', coreOfGroup P' (tk * 32) = some k' ∧
          leNat (Cells.getMany 0 k'.scratch a 8) = v / 2 ^ 63 * 2 ^ 63 + (v + 1) % 2 ^ 63) ∧
        Table.get? P'.run.ops op = none ∧ ∃ g', P'.group? gid = some g' ∧ Returned c.g g' .snd op)) ∧
  (∀ (s : State) (p : PartNo) (P : Part) (op gid : Nat) (block : Bool) (w : DWord) (pieces : List (Nat × List Byte))
      (src dst left : Nat) (g : Group), s.part? p = some P → isWhisk gid = false → P.group? gid = some g →
    Table.get? P.run.ops op = some (.send gid block true w pieces src dst left true none) → P.sendFirst gid op true w = true →
    Becomes (.sendAcknowledgement p op) s p fun P' => Table.get? P'.run.ops op = none ∧
      ∃ g', P'.group? gid = some g' ∧ Returned g g' .snd op)

/-- R301, R306, R410: a request that stands first in its flow, whose core holds none back, and that finds room and a known class enters
the queue of its object's home. -/
def Sys2Proof.Spec.RequestsArrive : Prop :=
  ∀ (s : State) (p : PartNo) (P : Part) (id core : Nat) (w : WhiskReq) (h : Home), s.part? p = some P →
    Table.get? P.run.whisks id = some w → w.place = .travelling → P.together id w = [(id, w)] →
    (∀ e ∈ P.run.whisks, e.1 < id → e.2.core = w.core → e.2.pa / 128 = w.pa / 128 → e.2.coming = false) →
    (∀ e ∈ P.run.whisks, e.1 ≠ id → e.2.core = w.core → e.2.place ≠ .waiting core) → P.lineHeld w.pa = false →
    P.homeOf w.pa = some core → Table.get? P.run.homes core = some h → h.queue.length < 1024 →
    s.poisoned (w.pa + 56) = false → s.atOnce P w = none → P.mode = 0 ∨ P.mode = 1 →
    Becomes (.requestArrival p id) s p fun P' => Table.get? P'.run.whisks id = some { w with place := .queued core } ∧
      Table.get? P'.run.homes core = some { h with queue := h.queue ++ [id] }

/-- R308, R311: a home whose whisk group waits in `wtake` opens the batch that its queue gives, while injection is not paused (R413), and
its window holds the object's line. -/
def Sys2Proof.Spec.BatchesAreAssembled : Prop :=
  ∀ (s : State) (p : PartNo) (P : Part) (core : BitVec 7) (h : Home) (k : Core) (id : Nat) (w : WhiskReq)
      (rest : List (Nat × WhiskReq)), s.part? p = some P → Table.get? P.run.homes core.toNat = some h →
    P.core? core.toNat = some k → h.batch = none → h.grp.wait = some .take → P.freezing = false → P.frozen = false →
    s.paused = false → P.mode = 0 ∨ P.mode = 1 → P.nextBatch s h = (id, w) :: rest → s.atOnce P w = none →
    (∀ j < 64, s.poisoned (w.pa + j) = false) →
    Becomes (.batchAssembly p core) s p fun P' =>
      (∃ h' b, Table.get? P'.run.homes core.toNat = some h' ∧ h'.batch = some b ∧ b.obj = w.obj ∧ b.pa = w.pa ∧
        b.width = w.width ∧ b.reqs = id :: rest.map Prod.fst ∧ b.cls.toNat = s.num (w.pa + 62) 2 ∧ b.bno.toNat = s.num (w.pa + 56) 2 ∧
        h'.queue = h.queue.filter (fun q => !(b.reqs.contains q))) ∧
      ∃ k', P'.core? core.toNat = some k' ∧ ∀ j < 64, Cells.get 0 k'.scratch (224 * 4096 + j) = s.byte (w.pa + j)

/-- R306, R307: the answer of a lane comes into its reply register; after the last lane the `wcall` is complete and WCL falls. -/
def Sys2Proof.Spec.RepliesReturn : Prop :=
  ∀ (s : State) (p : PartNo) (P : Part) (id gid dst : Nat) (w : WhiskReq) (val : DWord) (lanes : List Nat) (width : BitVec 2)
      (g : Group), s.part? p = some P → Table.get? P.run.whisks id = some w → w.place = .answered val none →
    Table.get? P.run.ops w.op = some (.call gid dst width lanes none) → P.group? gid = some g →
    let lane := w.requester.toNat % 32
    let left := lanes.filter fun l => l != lane
    Becomes (.whiskReply p id) s p fun P' => Table.get? P'.run.whisks id = none ∧ ∃ g', P'.group? gid = some g' ∧
      g'.vreg dst lane = val.setWidth 32 ∧ (width = 1 → g'.vreg (dst + 1) lane = val.extractLsb' 32 32) ∧
      (∀ r, ∀ l < 32, (l ≠ lane ∨ (r ≠ dst ∧ (width = 1 → r ≠ dst + 1))) → g'.vreg r l = g.vreg r l) ∧
      (if left = [] then Table.get? P'.run.ops w.op = none ∧ Returned g g' .wcl w.op
       else Table.get? P'.run.ops w.op = some (.call gid dst width left none))

/-- R288 to R292, R301, R306 to R311: sends, and the combiner's requests on their way.
Where these rules leave something open, this rests on the model's choice: notes/assumptions/13.md, 49.md, 50.md, 51.md,
107.md. -/
def Obligations.SendAndCombinerEventsHappen : Prop := SendsLandAndAreCounted ∧ RequestsArrive ∧ BatchesAreAssembled ∧ RepliesReturn

/-- R239, R243, R244: a step of the engine whose check agrees adds its terms to each of the 16,384 cells of its tile, and is followed by
the next repetition, or ends its operation. -/
def Sys2Proof.Spec.StepsUpdateEveryCell : Prop :=
  ∀ (s : State) (p : PartNo) (c : Ctx) (core : BitVec 7) (k : Core) (m : MatrixOp) (phys name left : Nat) (a b : StepPtr)
      (da db : Int) (ra rb : Reservation) (x : Tile), s.ctx? p m.gid = some c → c.P.coreOf m.gid = core.toNat →
    c.P.core? core.toNat = some k → nextMatrix k.matrix = some m → m.tile = some (phys, name) → m.work = .steps a b da db left →
    c.reservation a.hnd = some ra → c.reservation b.hnd = some rb → Table.get? k.tiles phys = some x → x.poison = [] →
    k.opoison = [] → k.cpoison = [] → (k.matrix.map MatrixOp.id).Nodup →
    Becomes (.matrixStep p core .agrees) s p fun P' => ∃ k' x', P'.core? core.toNat = some k' ∧ Table.get? k'.tiles phys = some x' ∧
      x'.row0 = x.row0 ∧ x'.col0 = x.col0 ∧
      (∀ y < 128, ∀ j < 128, Cells.get 0 x'.cells (128 * y + j) = stepCell ra.fmt.toNat rb.fmt.toNat (ra.blen != 0 || rb.blen != 0)
        ((k.operandElements ra a.blk a.str).1.getD y []) ((k.operandElements rb b.blk b.str).1.getD j [])
        (Cells.get 0 x.cells (128 * y + j))) ∧
      (k'.matrix.find? fun o => o.id == m.id) = some (if left ≤ 1 then { m with done := true }
        else { m with work := .steps { a with blk := (a.blk + da).toNat } { b with blk := (b.blk + db).toNat } da db (left - 1) })

/-- R234 to R236: the next piece of a fill moves from the scratchpad to the operand buffer; after the last one the fill is over. -/
def Sys2Proof.Spec.FillsLand : Prop :=
  ∀ (s : State) (p : PartNo) (c : Ctx) (op : Nat) (k : Core) (m : MatrixOp) (src dst n : Nat) (rest : List (Nat × Nat × Nat)),
    s.ctx? p m.gid = some c → coreOfGroup c.P m.gid = some k → (k.matrix.find? fun o => o.id == op) = some m →
    ((c.P.run.cores.map fun e => e.2.matrix).find? fun l => l.any fun o => o.id == op) = some k.matrix →
    (k.matrix.map MatrixOp.id).Nodup → m.work = .fill ((src, dst, n) :: rest) → matrixReady k.matrix m = true →
    c.peekPoison src n = false → (c.peek src n).length = n →
    Becomes (.fillLanding p op) s p fun P' => ∃ k', coreOfGroup P' m.gid = some k' ∧
      Cells.getMany 0 k'.operand dst n = c.peek src n ∧
      (∀ b, (b < dst ∨ dst + n ≤ b) → Cells.get 0 k'.operand b = Cells.get 0 k.operand b) ∧
      (k'.matrix.find? fun o => o.id == op) = if rest = [] then none else some { m with work := .fill rest }

/-- R234 to R236, R239, R243, R244: the matrix engine at work.
Where these rules leave something open, this rests on the model's choice: notes/assumptions/48.md. -/
def Obligations.MatrixEngineEventsHappen : Prop := StepsUpdateEveryCell ∧ FillsLand

/-- R242: on a finite cell and a finite term the compensated addition gives s the sum rounded to A56 and, while that is finite, e the
exact rest added to it and rounded to binary32; it takes an infinite or NaN part to s alone, with e = +0. -/
def Obligations.CompensatedAdditionKeepsTheRest : Prop :=
  ∀ (c : Cell88) (t : FVal), let s := c.sVal
    let s1 := rnSum a56 [s, t]
    (s.isNan = true ∨ s.isInf = true ∨ t.isNan = true ∨ t.isInf = true ∨ (unpack a56 s1).isInf = true →
      (cadd c t).s = s1 % 2 ^ 56 ∧ (cadd c t).e = 0) ∧
    (s.isNan = false → s.isInf = false → t.isNan = false → t.isInf = false → (unpack a56 s1).isInf = false →
      (cadd c t).s = s1 % 2 ^ 56 ∧
      (cadd c t).e = rnSum f32 [c.eVal, ofDy (Dy.sub (Dy.add s.dy t.dy) (unpack a56 s1).dy)] % 2 ^ 32)

/-! ## The events of the dispatcher, the gates and the sieve -/

/-- R324 to R327: the dispatcher places the next cluster of the earliest launch that has one to place: where the trial admits it at once,
no gate is asked, and no team of a launch of another mode is live, the cluster is resident and NEXT has risen. -/
def Sys2Proof.Spec.ClustersArePlaced : Prop :=
  ∀ (s : State) (p : PartNo) (P Q : Part) (k : Nat) (l : Launch) (t : Trial), s.part? p = some P → P.draining = false →
    P.freezing = false → P.frozen = false → s.stopped = [] → P.nextRelaunch = none → P.nextLaunch = some (k, l) →
    Table.get? P.run.launches k = some l → l.coresident = false → l.mode.isSome = true → P.mayPlace k l = true →
    s.energyAllows P = true → P.otherMode l = false → (⟨s, []⟩ : Trial).place p l k l.next [] = some t → t.moves = [] → t.s.part? p = some Q →
    newAttaches P Q = [] → Table.get? Q.run.launches k = some l →
    Reaches (.clusterPlacement p) s p fun _ P' =>
      (∃ l', Table.get? P'.run.launches k = some l' ∧ l'.next = l.next + 1) ∧
      P'.run.clusters = Q.run.clusters ∧ P'.run.teams = Q.run.teams ∧ P'.run.cores = Q.run.cores

/-- R168, R323, R12, R30, R36: a team is admitted to a core as R323 places it, its groups at the kernel's entry, all of its registers
0 but SEED, PC and the trap vector. -/
def Sys2Proof.Spec.LaunchedTeamsStartAtTheEntry : Prop :=
  ∀ (l : Launch) (launch pos rank ci core slot unitBase : Nat) (marks : List Nat), ci < l.clusters → rank < l.kernel.width * l.kernel.height →
    0 < l.cx → 0 < l.cy →
    let t := Team.launched l launch pos rank ci core slot unitBase marks
    t.x = ci % l.cx * l.kernel.width + rank % l.kernel.width ∧
    t.y = ci / l.cx % l.cy * l.kernel.height + rank / l.kernel.width ∧ t.z = ci / (l.cx * l.cy) ∧
    t.tidx = t.x + l.gx * (t.y + l.gy * t.z) ∧
    ∀ j < l.kernel.team, ∃ g, Table.get? t.groups j = some g ∧ g.pc = l.kernel.entry ∧ g.seed = l.seed ∧ g.em = 0xFFFFFFFF ∧
      g.tvec = l.kernel.tvec.getD 0xFFFFFFFFFFFFFFFC ∧ g.mode = 0 ∧ g.stat = 0 ∧ g.run = .live ∧ (∀ r i, g.vreg r i = 0) ∧ (∀ r, g.sreg r = 0) ∧ (∀ q i, g.pred q i = false)

/-- R190, R329: a team whose groups have all ended makes its final commit: one with nothing to write retires at once, RET counts it and
its core is free of it; one with lines to write anchors and sends the first. -/
def Sys2Proof.Spec.FinalCommitsRetireTeams : Prop :=
  ∀ (s : State) (p : PartNo) (P : Part) (tk : Nat) (t : Team), s.part? p = some P → P.team? tk = some t → t.ended.isSome = true →
    t.commit = none → P.mode = 0 →
    (t.colander = [] → t.posted = [] → t.attaches = [] → t.staged = [] →
      Becomes (.finalCommit p tk) s p fun P' => P'.team? tk = none ∧ P'.ret = P.ret + 1) ∧
    (∀ x rest, t.colander = x :: rest →
      Becomes (.finalCommit p tk) s p fun P' => ∃ t' id r, P'.team? tk = some t' ∧ t'.anch = true ∧ t'.colander = [] ∧
        t'.commit.isSome = true ∧ Table.get? P'.run.lines id = some r ∧ r.vline = x.vline ∧ r.pline = x.pline ∧
        r.kind = .write x.bytes x.poison ∧ r.team = tk ∧ r.teamFlag = true)

/-- R328, R330, R426, R429: a launch whose last cluster is reported, with no word of its teams on its way to a slice, completes: its entry,
with status 0 and the grid hash, stands in the completion ring, which no `cpyv` holds there (R216), its signal slot has risen if it
asked for that, and vector 3 is sent if it asked. -/
def Sys2Proof.Spec.LaunchesComplete : Prop :=
  ∀ (s : State) (p : PartNo) (P : Part) (k : Nat) (l : Launch) (x : Queue), s.part? p = some P →
    (P.run.launches.map fun e => (e.1, e.2.report)).find? P.launchOver = some (k, l) →
    P.mode = 0 ∨ P.mode = 1 → Table.get? P.queues l.queue.toNat = some x → s.entryHeld P l.queue.toNat l.cons = false →
    s.portDown ((x.cbase.extractLsb' 4 48).toNat * 16 + (l.cons - 1).toNat % max 1 x.size.toNat * 16) = false →
    Reaches (.launchCompletion p) s p fun t P' => Table.get? P'.run.launches k = none ∧
      Cells.get 0 P'.signals l.sig.toNat = Cells.get 0 P.signals l.sig.toNat + (if l.sigen then 1 else 0) ∧
      Cells.get 0 P'.vectors 3 = Cells.get 0 P.vectors 3 + (if l.notify then 1 else 0) ∧
      (let at' := (x.cbase.extractLsb' 4 48).toNat * 16 + (l.cons - 1).toNat % max 1 x.size.toNat * 16
       ∀ j < 16, t.byte (at' + j) = (leBytes 16 ((P.launchHash k l).toNat + l.tag.toNat * 2 ^ 64 + l.cons.toNat * 2 ^ 104)).getD j 0)

/-- R180: the crock whose move is over, while no `cpyv` holds a line of its backing (R216), is resident and detached, and its slots hold
its backing. -/
def Sys2Proof.Spec.CrocksArrive : Prop :=
  ∀ (s : State) (p : PartNo) (P : Part) (name : DWord) (i : Nat) (d : DirEntry) (k : Core), s.part? p = some P →
    (P.run.dir.find? fun e => e.2.name == name && e.2.state == 4) = some (i, d) → P.core? d.core.toNat = some k →
    P.backingHeld d = false →
    Becomes (.crockMoveDone p name) s p fun P' => Table.get? P'.run.dir i = some { d with state := 1 } ∧
      ∃ k', P'.core? d.core.toNat = some k' ∧ ∀ j ≤ d.count.toNat, ∀ o < 4096,
        Cells.get 0 k'.scratch ((d.base.toNat + j) * 4096 + o) = s.byte ((d.backing + j) * 4096 + o)

/-- R332, R334: the window ends: the counters hold what it counted and start at 0 with the WIN that stands; a window in which something
has fired or retired, or no team is live, or the timer is off, raises no stall. -/
def Sys2Proof.Spec.WindowsEnd : Prop :=
  ∀ (s : State) (p : PartNo) (P : Part), s.part? p = some P → P.freezing = false → P.frozen = false →
    P.fire ≠ 0 ∨ P.ret ≠ 0 ∨ P.run.teams = [] ∨ P.regs.egg.getLsbD 63 = false →
    Becomes (.eggTimerWindow p) s p fun P' => P' = { P with
      lastFire := P.fire, lastRet := P.ret, lastFlit := P'.lastFlit, fire := 0, ret := 0, flit := 0, window := P.regs.egg.extractLsb' 0 24 }

/-- R12, R30, R36, R168, R180, R190, R323 to R329, R332, R334, R429: the dispatcher and the egg timer.
Where these rules leave something open, this rests on the model's choice: notes/assumptions/57.md, 58.md, 59.md, 61.md, 104.md. -/
def Obligations.DispatcherEventsHappen : Prop :=
  ClustersArePlaced ∧ LaunchedTeamsStartAtTheEntry ∧ FinalCommitsRetireTeams ∧ LaunchesComplete ∧ CrocksArrive ∧ WindowsEnd

/-- R363: in STEERED mode a line's gate lets the oldest request of the requester go that the stream names next, and the cursor
moves. -/
def Sys2Proof.Spec.GatesAdmitTheNamedRequest : Prop :=
  ∀ (s : State) (p : PartNo) (P : Part) (id r : DWord) (e : Nat × LineReq), s.part? p = some P → P.frozen = false →
    P.freezing = false → P.mode = 3 → P.choice.steer .line id = .named r →
    (P.run.lines.all fun x => !(x.2.gated && lineId x.2.pline == id && x.2.admitted)) = true →
    ((P.heldLines id).find? fun x => x.2.key == recKey r) = some e → Table.get? P.run.lines e.1 = some e.2 →
    Becomes (.orderGateAdmit p .line id) s p fun P' =>
      Table.get? P'.run.lines e.1 = some { e.2 with admitted := true } ∧ P'.choice = P.choice.advance .line id

/-- R376, R378: at quiescence the sieve serves the only choice of its decision, a held line access, without a branch point; DEC
counts it. -/
def Sys2Proof.Spec.TheSieveDecides : Prop :=
  ∀ (s : State) (p : PartNo) (P : Part) (d : Pending) (x : Choosable) (id : Nat) (r : LineReq), s.part? p = some P → P.mode = 4 →
    P.frozen = false → P.freezing = false → P.sieve.ended = false → s.quiescent P p = true → nextDecision (s.pending P) = some d →
    d.choices = [x] → x.serve = .line id → Table.get? P.run.lines id = some r →
    Becomes (.sieveDecision p) s p fun P' => Table.get? P'.run.lines id = some { r with admitted := true } ∧
      P'.sieve.dec = P.sieve.dec + 1 ∧ P'.sieve.branches = P.sieve.branches ∧ P'.sieve.depth = P.sieve.depth

/-- R375, R381, R382: after a path the sieve returns to the snapshot, which holds every resident crock slot, as RESUME restores an image
(R407), and takes the next alternative of the deepest branch point that has one, or, where none has, the exploration is over with
XST 2. -/
def Sys2Proof.Spec.TheSieveBacktracks : Prop :=
  ∀ (s : State) (p : PartNo) (P : Part) (run : Run) (domains : List DomainState), s.part? p = some P → P.exploring = true →
    P.sieve.ended = true → P.frozen = false → P.freezing = false → P.sieve.snapshot = some (run, domains) →
    (∀ path, nextPath P.sieve.branches = some path →
      Reaches (.sieveBacktrack p) s p fun t P' => P'.run = P.restoreRun run ∧ P'.run.teams = run.teams ∧ P'.run.dir = run.dir ∧ P'.tlb = [] ∧ P'.choice = { P.choice with domains := domains } ∧
        P'.sieve.branches = path ∧ P'.sieve.depth = 0 ∧ P'.sieve.dec = 0 ∧ P'.sieve.ended = false ∧ P'.sieve.undo = [] ∧
        ∀ u, P.sieve.undo = [u] → u.bytes.length = 128 → s.portDown (u.pline * 128) = false →
          ∀ j < 128, t.byte (u.pline * 128 + j) = u.bytes.getD j 0) ∧
    (nextPath P.sieve.branches = none →
      Becomes (.sieveBacktrack p) s p fun P' => P'.choice.xst = 2 ∧ P'.sieve.snapshot = none ∧ P'.run = P.run)

/-- R381: the deepest branch point with an untried alternative takes it, and those behind it are dropped. -/
def Sys2Proof.Spec.PathsAreTakenDepthFirst : Prop :=
  ∀ (bs path : List Branch), nextPath bs = some path →
    ∃ before b after, bs = before ++ b :: after ∧ b.index + 1 < b.keys.length ∧
      path = before ++ [{ b with index := b.index + 1 }] ∧ ∀ x ∈ after, x.keys.length ≤ x.index + 1

/-- R367: the timer flushes the chunk of a domain that the record buffer has room for. -/
def Sys2Proof.Spec.ChunksAreFlushed : Prop :=
  ∀ (s : State) (p : PartNo) (P : Part) (dom : Domain) (id : DWord) (x : Chunk), s.part? p = some P → P.choice.chunks = [x] →
    x.dom = dom → x.id = id → 0 < x.recs.length → x.recs.length ≤ 128 → P.choice.fill + x.recs.length + 2 ≤ P.choice.rbsize.toNat →
    Reaches (.chunkFlushTimer p dom id) s p fun _ P' => P'.choice.chunks = [] ∧
      P'.choice.rbprod = P.choice.rbprod + BitVec.ofNat 32 (x.recs.length + 2) ∧ P'.run = P.run

/-- R363, R367, R376 to R382: order gates, the sieve, record chunks.
Where these rules leave something open, this rests on the model's choice: notes/assumptions/35.md, 60.md, 89.md. -/
def Obligations.ChoiceEventsHappen : Prop :=
  GatesAdmitTheNamedRequest ∧ TheSieveDecides ∧ TheSieveBacktracks ∧ PathsAreTakenDepthFirst ∧ ChunksAreFlushed

/-- R216, R397 to R399: a freeze whose work under way has come to its point is complete, and the partition frozen; before that, and while
a `cpyv` holds a line of the image area, nothing changes. R272, R406, R423: a slice's end drains, its deadline freezes what remains with REASON bit 1, its start restores the image of such a freeze, if that passes the checks of R406.
Where these rules leave something open, this rests on the model's choice: notes/assumptions/5.md, 12.md, 64.md. -/
def Obligations.FreezesAndSlices : Prop :=
  (∀ (s : State) (p : PartNo) (P : Part), s.part? p = some P → P.freezing = true → s.mayImage P p = true → s.areaHeld P = false →
    P.reason.getLsbD 2 = false →
    Reaches (.freezeImage p) s p fun _ P' => P'.frozen = true ∧ P'.freezing = false ∧ P'.reason = P.reason) ∧
  (∀ (s : State) (p : PartNo) (P : Part), s.part? p = some P → P.freezing = true → s.mayImage P p = false ∨ s.areaHeld P = true →
    exec (.freezeImage p) s = .next s) ∧
  (∀ (s : State) (p : PartNo) (P : Part), s.part? p = some P → P.draining = true →
    Becomes (.drainDeadline p) s p fun P' => P' = { P with draining := false, freezing := true, reason := P.reason ||| 2 }) ∧
  (∀ (s : State) (p : PartNo) (P : Part), s.part? p = some P → P.regs.gslice.getLsbD 63 = true → P.frozen = false →
    (P.freezing = false → Becomes (.gangSliceEnd p) s p fun P' => P'.draining = true ∧
      (P.run.clusters = [] → P' = { P with draining := true })) ∧
    (P.freezing = true → Becomes (.gangSliceEnd p) s p fun P' => P' = { P with reason := P.reason ||| 2 })) ∧
  (∀ (s : State) (p : PartNo) (P : Part) (i : Image) (rest : List Image), s.part? p = some P → P.regs.gslice.getLsbD 63 = true →
    P.frozen = true → P.saved = true → P.images = i :: rest →
    (∀ j, i.reason = 2 → s.readImage P p i.place = some j → Becomes (.gangSliceStart p) s p fun P' => P'.frozen = false ∧ P'.reason = 0 ∧
      P'.run.teams = j.run.teams ∧ P'.run.clusters = j.run.clusters ∧ P'.sieve = j.sieve) ∧
    (i.reason = 2 → s.readImage P p i.place = none → s.unclean i.place (s.imageBytes i.place) = false →
      Becomes (.gangSliceStart p) s p fun P' => P'.frozen = true ∧ P'.run = P.run ∧
        Cells.get 0 P'.vectors 3 = Cells.get 0 P.vectors 3 + 1) ∧
    (i.reason ≠ 2 → Becomes (.gangSliceStart p) s p fun P' => P'.frozen = true ∧ P'.run = P.run ∧
      Cells.get 0 P'.vectors 3 = Cells.get 0 P.vectors 3 + 1))

/-! ## Errors, tests, the fabric -/

/-- R273, R344, R351 to R353: a scrub marks the uncorrectable word it finds as poisoned; an in-field test withdraws its core, passes it
or excludes it, or is put off; an energy period lets placement go on, with nothing spent; an invalidation ends when no access uses an old translation.
Where these rules leave something open, this rests on the model's choice: notes/assumptions/11.md, 22.md, 66.md, 71.md, 117.md, 121.md. -/
def Obligations.ScrubsTestsAndInvalidations : Prop :=
  (∀ (s : State) (p : PartNo) (P : Part) (core : BitVec 7) (d : BitVec 17) (k : Core), s.partOfCore core.toNat = some (p, P) →
    s.part? p = some P → P.core? core.toNat = some k → Mild (coreAction s P 2) →
    Becomes (.backgroundScrub core (.scratch d) .uncorrectable) s p fun P' => ∃ k', P'.core? core.toNat = some k' ∧
      k'.scratch = k.scratch ∧ k'.spoison.contains d.toNat = true ∧
      P'.elogHead = if coreAction s P 2 = 0 then P.elogHead else BitVec.ofNat 16 ((P.elogHead.toNat + 1) % 4096)) ∧
  (∀ (s : State) (line : BitVec 45), let pa := line.toNat * 128
    s.backed 0 pa 128 = true ∨ s.backed 1 pa 128 = true →
    ∃ t, exec (.patrolScrub line .uncorrectable) s = .next t ∧ (∀ d < 16, t.memPoison.contains (line.toNat * 16 + d) = true) ∧
      ∀ a, t.byte a = s.byte a) ∧
  (∀ (s : State) (p : PartNo) (P : Part) (die : BitVec 3) (c : Nat) (k : Core), s.partOfDie die.toNat = some (p, P) →
    P.nextTest die.toNat = some c → P.core? c = some k → P.regs.inft ≠ 0 →
    P.run.cores.all (fun e => !(e.1 / 16 == die.toNat && e.2.testing)) = true →
    Becomes (.inFieldTest die) s p fun P' => P'.core? c = some { k with testing := true } ∧
      Table.get? P'.testNext die.toNat = some ((c + 1) % 16)) ∧
  (∀ (s : State) (p : PartNo) (P : Part) (core : BitVec 7) (k : Core), s.partOfCore core.toNat = some (p, P) →
    s.part? p = some P → P.core? core.toNat = some k → k.testing = true →
    (P.idle core.toNat = true →
      Becomes (.inFieldTestRun core true) s p (fun P' => P'.core? core.toNat = some { k with testing := false } ∧
        Cells.get 0 P'.vectors 5 = Cells.get 0 P.vectors 5 + 1) ∧
      (Mild (coreAction s P 15) → Becomes (.inFieldTestRun core false) s p fun P' =>
        P'.core? core.toNat = some { k with testing := false, withdrawn := true })) ∧
    (P.idle core.toNat = false → Becomes (.inFieldTestOverdue core) s p fun P' =>
      P'.core? core.toNat = some { k with testing := false } ∧
      Table.get? P'.testNext (core.toNat / 16) = some (core.toNat % 16))) ∧
  (∀ (s : State) (p : PartNo) (P : Part), s.part? p = some P →
    Becomes (.energyPeriod p) s p fun P' => P' = { P with deferred := false, spent := 0 }) ∧
  (∀ (s : State) (p : PartNo) (P : Part), s.part? p = some P → P.regs.invDone = false → P.oldAccess = false →
    Becomes (.invalidationDone p) s p fun P' => P'.regs = { P.regs with invDone := true } ∧ P'.run = P.run ∧
      ∀ e ∈ P.tlb, (e ∈ P'.tlb ↔ e.vpage * 65536 + levelSize e.size ≤ P.regs.invRange.1 ∨
        P.regs.invRange.1 + P.regs.invRange.2 ≤ e.vpage * 65536))

/-- R411 to R415: a flit error is reported to the partition of its link and changes nothing else; a link that dies pauses injection,
which resumes once the routes are in the switches, nothing else changed while every core, slice and hub die has one; a packet that was
on its way when a link died is found lost at most once: one that serves no context is sent again, one of a line access goes to the
severity matrix as class 14 with its core as the source and its team as the context, and is sent again unless the action is 3; a link
narrows and widens by one step; a handshake that fails leaves it at full width, and counts towards its death there.
Where these rules leave something open, this rests on the model's choice: notes/assumptions/22.md, 67.md, 68.md. -/
def Obligations.LinkEventsHappen : Prop :=
  (∀ (s : State) (p : PartNo) (P : Part) (core : BitVec 7), s.linkDead (.core core) = false →
    s.partOfDie (core.toNat / 16) = some (p, P) → s.part? p = some P → s.action P 8 srcLink = 1 →
    Becomes (.flitCrcError (.core core)) s p fun P' => P'.run = P.run ∧ P'.regs = P.regs ∧ P'.choice = P.choice ∧
      P'.elogHead = BitVec.ofNat 16 ((P.elogHead.toNat + 1) % 4096)) ∧
  (∀ (s : State) (link : Link), s.linkDead link = false → (∀ port, link ≠ .cxl port) →
    ∃ t, exec (.linkDead link) s = .next t ∧ t.linkDead link = true ∧ t.paused = true ∧
      (∀ l, l ≠ link → t.linkState l = s.linkState l) ∧ ∀ a, t.byte a = s.byte a) ∧
  (∀ (s : State), s.paused = true → (∀ h < 4, s.hubReached h = true) →
    (∀ e ∈ s.parts, (∀ k < 32 * e.2.dies, s.sliceReached (e.2.regs.firstDie * 32 + k) = true) ∧
      ∀ c ∈ e.2.regs.cores, s.coreReached c = true) →
    exec .injectionResume s = .next { s with paused := false }) ∧
  (∀ (s : State) (p : PartNo) (P : Part) (x : LostPacket), s.part? p = some P →
    let found : State := s.setPart p { P with atRisk := P.atRisk.filter fun y => y != wholePacket x }
    (s.paused = true ∨ P.mayLose x = false → exec (.lostPacket p x) s = .next s) ∧
    (s.paused = false → P.mayLose x = true → x = .pageUpdate ∨ (∃ a, x = .writeBack a) → exec (.lostPacket p x) s = .next found) ∧
    ∀ id r, s.paused = false → P.mayLose x = true → x = .line id → Table.get? P.run.lines id = some r → (P.team? r.team).isSome = true →
      let ended := found.severity p 14 srcCore r.core 0 r.requester (some r.team) false true
      (s.action P 14 srcCore ≠ 3 → exec (.lostPacket p x) s = .next ended) ∧
      (s.action P 14 srcCore = 3 → ∃ t, exec (.lostPacket p x) s = .next t ∧ (∀ a, t.byte a = ended.byte a) ∧
        ∀ P', ended.part? p = some P' → ∃ Q, t.part? p = some Q ∧ Table.get? Q.run.lines id = none ∧
          Q = { P' with run := { P'.run with lines := Q.run.lines }, lostTeams := Q.lostTeams } ∧
          ∀ k, k ≠ id → Table.get? Q.run.lines k = Table.get? P'.run.lines k)) ∧
  (∀ (s : State) (link : Link), s.linkDead link = false →
    (∃ t, exec (.linkNarrow link true) s = .next t ∧ (t.linkState link).width = min 2 ((s.linkState link).width + 1) ∧
      ∀ l, l ≠ link → t.linkState l = s.linkState l) ∧
    (∃ t, exec (.linkWiden link true) s = .next t ∧ (t.linkState link).width = (s.linkState link).width - 1 ∧
      ∀ l, l ≠ link → t.linkState l = s.linkState l) ∧
    ∀ i ∈ [Instr.linkNarrow link false, .linkWiden link false], ∃ t, exec i s = .next t ∧ (t.linkState link).width = 0 ∧
      (∀ l, l ≠ link → t.linkState l = s.linkState l) ∧
      ((s.linkState link).width = 0 → 15 ≤ (s.linkState link).failed → t.linkDead link = true) ∧
      ((s.linkState link).width = 0 → (s.linkState link).failed < 15 →
        (t.linkState link).failed = (s.linkState link).failed + 1 ∧ t.linkDead link = false))

/-- R321, R336, R420 to R422, R437: the window of a CXL port that goes down answers as poisoned; a host write stores its bytes and a
host read returns memory as it stands; an acknowledged line is awaited no longer; partition time follows a message within 10 µs, and an
offset beyond is noticed on vector 3; a die's clock moves by one step of 50 MHz between 550 and 1100; a die that overheats stops, and its partition is reset.
Where these rules leave something open, this rests on the model's choice: notes/assumptions/4.md, 6.md, 69.md, 70.md. -/
def Obligations.HostPortTimeAndClock : Prop :=
  (∀ (s : State) (port : BitVec 3), ∃ t, exec (.cxlPortDown port) s = .next t ∧
    (∀ pa, 2 ^ 49 ≤ pa → pa < 2 ^ 50 → cxlPort pa = port.toNat → t.poisoned pa = true) ∧ t.parts = s.parts ∧
    ∀ a, t.byte a = s.byte a) ∧
  (∀ (s : State) (pa : BitVec 52) (bs : List Byte), s.hostReach pa.toNat bs.length = true → s.cxlDown = [] →
    s.rangeHeld pa.toNat bs.length = false →
    (∀ e ∈ s.parts, e.1 < 8 ∧ e.2.sieve.snapshot = none) →
    ∃ t, exec (.hostWrite pa bs) s = .next t ∧ (∀ j < bs.length, t.byte (pa.toNat + j) = bs.getD j 0) ∧
      ∀ a, (a < pa.toNat ∨ pa.toNat + bs.length ≤ a) → t.byte a = s.byte a) ∧
  (∀ (s : State) (pa : BitVec 52) (n : BitVec 8), s.hostReach pa.toNat n.toNat = true →
    s.rangeHeld pa.toNat n.toNat = false →
    ∃ t, exec (.hostRead pa n) s = .next t ∧ t = { s with hostData := t.hostData } ∧
      t.hostData.1 = (List.range n.toNat).map fun j => s.byte (pa.toNat + j)) ∧
  (∀ (s : State) (p : PartNo) (P : Part) (line : BitVec 45) (before after : List Nat), s.part? p = some P →
    P.unacked = before ++ line.toNat :: after → line.toNat ∉ before →
    Becomes (.rootComplexAcknowledgement p line) s p fun P' => P'.unacked = before ++ after ∧ P'.regs = P.regs) ∧
  (∀ (s : State) (time : DWord) (offset : Nat),
    exec (.ieee1588Message (.sync time offset)) s =
      .next (if offset ≤ 10000 then { s with time := time, ownClock := false }
        else { s with ownClock := true, notices := s.parts.map Prod.fst }) ∧
    exec (.ieee1588Message .absent) s = .next { s with ownClock := true }) ∧
  (∀ (s : State) (p : PartNo) (P : Part), s.part? p = some P →
    (p.toNat ∈ s.notices → Becomes (.timeOffsetNotice p) s p fun P' =>
      Cells.get 0 P'.vectors 3 = Cells.get 0 P.vectors 3 + 1 ∧ P'.run = P.run) ∧
    (p.toNat ∉ s.notices → exec (.timeOffsetNotice p) s = .next s)) ∧
  (∀ (s : State) (die : BitVec 3) (cause : ThrottleCause), ∃ t, exec (.clockThrottle die cause) s = .next t ∧
    t.clockOf die.toNat = max 550 (s.clockOf die.toNat - 50) ∧ Table.get? t.throttle die.toNat = some cause ∧
    ∀ d, d ≠ die.toNat → t.clockOf d = s.clockOf d) ∧
  (∀ (s : State) (die : BitVec 3), ∃ t, exec (.clockRaise die) s = .next t ∧
    t.clockOf die.toNat = min 1100 (s.clockOf die.toNat + 50) ∧ (∀ d, d ≠ die.toNat → t.clockOf d = s.clockOf d) ∧
    (t.clockOf die.toNat = 1100 → Table.get? t.throttle die.toNat = none) ∧
    ∀ a, t.byte a = s.byte a) ∧
  (∀ (s : State) (p : PartNo) (P : Part) (die : BitVec 3), s.partOfDie die.toNat = some (p, P) →
    Reaches (.thermalStop die) s p fun t P' => t.stopped.contains die.toNat = true ∧ P'.run.teams = [] ∧ P'.mode = 0 ∧
      P'.elogHead = 0 ∧ ∀ a, t.byte a = s.byte a)

/-! ## The package, its boot and its physical function -/

/-- R432, R433, R435: boot measures and starts the images, and a failing signature stops it; a successor that passes its checks is
copied into the reserved region, measured into M2 and takes over between passes; one that is refused, or whose bytes are poisoned or
behind a CXL port that is down (R421), changes nothing and is reported on vector 3.
Where these rules leave something open, this rests on the model's choice: notes/assumptions/9.md, 81.md, 83.md. -/
def Obligations.BootMeasuresAndUpdatesHandOver : Prop :=
  (∀ (s : State) (m : BootImages), s.fw.booted = false → s.fw.failed = false →
    ∃ t, exec (.powerOnBoot m) s = .next t ∧ t.parts = s.parts ∧ (∀ a, t.byte a = s.byte a) ∧
      Cells.get 0 t.meas 0 = extended (Cells.get 0 s.meas 0) m.mgmtMeasure ∧ Cells.get 0 t.meas 2 = Cells.get 0 s.meas 2 ∧
      (m.mgmtOk = false → t.fw = { s.fw with failed := true } ∧ ∀ k, k ≠ 0 → Cells.get 0 t.meas k = Cells.get 0 s.meas k) ∧
      (m.mgmtOk = true → Cells.get 0 t.meas 3 = extended (Cells.get 0 s.meas 3) m.fabricMeasure ∧
        Cells.get 0 t.meas 1 = extended (Cells.get 0 s.meas 1) m.firmwareMeasure ∧
        t.fw = if m.firmwareOk then { s.fw with booted := true, version := m.firmwareVersion } else { s.fw with failed := true })) ∧
  (∀ (s : State) (arg0 arg1 : DWord), PfReady s → arg1 ≠ 0 → arg0.toNat + arg1.toNat ≤ 2 ^ 52 →
    (∀ a, arg0.toNat ≤ a → a < arg0.toNat + arg1.toNat → Cells.get 0 s.granules (a / 2 ^ 26) = 0) →
    (∀ l, s.unclean arg0.toNat arg1.toNat = false → Config.parseLvc (s.bytes arg0.toNat arg1.toNat) = some l → s.successorOk l = true →
      PfCommand (.updateFirmware arg0 arg1) s arg0 arg1 0 fun t =>
        t.fw = { s.fw with successor := some l.version } ∧ t.pfBusy = true ∧ t.parts = s.parts ∧
        Cells.get 0 t.meas 2 =
          ((l.segments.filter fun x => x.kind == 4).map (·.measurement)).foldl extended (Cells.get 0 s.meas 2) ∧
        (∀ k, k ≠ 2 → Cells.get 0 t.meas k = Cells.get 0 s.meas k) ∧ OutsideRegions s t ∧
        ∀ n P b, s.parts = [(n, P)] → s.cxlDown = [] →
          P.choice.regionPlace none (Config.successorArea s.tick).toNat ((arg1.toNat + 7) / 8) = some b →
          ∀ j < arg1.toNat, t.byte (P.regs.shelfb.toNat + 8 * b + j) = s.byte (arg0.toNat + j)) ∧
    ((s.unclean arg0.toNat arg1.toNat = true ∨
        ∀ l, Config.parseLvc (s.bytes arg0.toNat arg1.toNat) = some l → s.successorOk l = false) →
      PfCommand (.updateFirmware arg0 arg1) s arg0 arg1 3 fun t =>
        t = { s with parts := t.parts, pfArg := t.pfArg, pfStatus := t.pfStatus } ∧
        ∀ p P, s.part? p = some P → ∃ P', t.part? p = some P' ∧ Cells.get 0 P'.vectors 3 = Cells.get 0 P.vectors 3 + 1 ∧
          P' = { P with reports := .updateRefused :: P.reports, vectors := P'.vectors })) ∧
  (∀ (s : State) (v : Nat), s.fw.successor = some v → s.fw.pass = [] →
    ∃ t, exec .firmwareHandover s = .next t ∧
      t = { s with fw := { s.fw with version := v, successor := none }, pfBusy := false, mem := t.mem, memPoison := t.memPoison } ∧
      OutsideRegions s t) ∧
  (∀ (l : Config.Lvc) (s : State), s.successorOk l = true → s.minSecVer ≤ l.version)

/-- R345, R347, R348, R350, R417: the commands of the physical function, and a Function Level Reset.
Where these rules leave something open, this rests on the model's choice: notes/assumptions/4.md, 18.md, 82.md. -/
def Obligations.PhysicalFunctionCommands : Prop :=
  (∀ (s : State) (p : PartNo) (P : Part), s.part? p = some P →
    Becomes (.functionLevelReset p) s p fun P' => IsReset P P' ∧ P'.queues = P.queues) ∧
  (∀ (s : State) (n first size key : Nat), PfReady s → n < 8 → first < 8 → size ≤ 3 → 1 ≤ key → key ≤ 255 →
    let arg0 : DWord := BitVec.ofNat 64 (first + 8 * size + 256 * n)
    let arg1 : DWord := BitVec.ofNat 64 key
    let taken := first % 2 ^ size ≠ 0 ∨ Table.has s.parts n = true ∨
      (∃ e ∈ s.parts, e.2.regs.pkey.toNat = key ∨ ∃ k < 2 ^ size, e.2.hasDie (first + k) = true)
    (¬ taken → PfCommand (.createPartition arg0 arg1) s arg0 arg1 0 fun t => ∃ P', t.part? (BitVec.ofNat 3 n) = some P' ∧
      Empty { P' with meas := [] } ∧ P'.regs = registersReset P'.regs ∧ P'.regs.firstDie = first ∧ P'.regs.logDies = size ∧
      P'.regs.pkey.toNat = key ∧ P'.regs.shelfb.toNat = 0x10000000000 + first * 1984 * 2 ^ 20 ∧ P'.queues = [] ∧
      (∀ q, q ≠ BitVec.ofNat 3 n → t.part? q = s.part? q) ∧ t.granules = s.granules ∧ ∀ a, t.byte a = s.byte a) ∧
    (taken → PfCommand (.createPartition arg0 arg1) s arg0 arg1 3 (PfOnly s))) ∧
  (∀ (s : State) (p : PartNo) (arg1 : DWord), PfReady s →
    let arg0 : DWord := p.setWidth 64
    ((s.part? p).isSome = true → PfCommand (.destroyPartition arg0 arg1) s arg0 arg1 0 fun t =>
      t = { s with parts := t.parts, portGrant := t.portGrant, pfArg := t.pfArg, pfStatus := t.pfStatus } ∧
      t.part? p = none ∧ (∀ q, q ≠ p → t.part? q = s.part? q) ∧
      ∀ e, e ∈ t.portGrant ↔ e ∈ s.portGrant ∧ e.2 ≠ p.toNat) ∧
    (s.part? p = none → PfCommand (.destroyPartition arg0 arg1) s arg0 arg1 3 (PfOnly s))) ∧
  (∀ (s : State) (g : BitVec 26) (key : BitVec 8), PfReady s →
    let arg0 : DWord := g.setWidth 64
    let arg1 : DWord := key.setWidth 64
    (s.granuleBacked g.toNat = true → PfCommand (.setGranuleKey arg0 arg1) s arg0 arg1 0 fun t =>
      t = { s with granules := t.granules, pfArg := t.pfArg, pfStatus := t.pfStatus } ∧ Cells.get 0 t.granules g.toNat = key ∧
      ∀ k, k ≠ g.toNat → Cells.get 0 t.granules k = Cells.get 0 s.granules k) ∧
    (s.granuleBacked g.toNat = false → PfCommand (.setGranuleKey arg0 arg1) s arg0 arg1 3 (PfOnly s))) ∧
  (∀ (s : State) (q : BitVec 7) (p : PartNo) (P : Part), PfReady s → s.part? p = some P →
    let arg0 : DWord := q.setWidth 64
    ((∀ e ∈ s.parts, ∀ x, Table.get? e.2.queues q.toNat = some x → x.base.getLsbD 63 = false) →
      PfCommand (.grantQueue arg0 (p.setWidth 64)) s arg0 (p.setWidth 64) 0 (fun t =>
        (∃ P', t.part? p = some P' ∧
          Table.get? P'.queues q.toNat = some ((Table.get? P.queues q.toNat).getD ⟨0, 0, 0, 0, 0, false, false⟩)) ∧
        ∀ m Q, m ≠ p → t.part? m = some Q → Table.get? Q.queues q.toNat = none) ∧
      PfCommand (.grantQueue arg0 0xFF) s arg0 0xFF 0 fun t =>
        ∀ m Q, t.part? m = some Q → Table.get? Q.queues q.toNat = none) ∧
    (∀ x h, s.holder q.toNat = some h → Table.get? h.2.queues q.toNat = some x → x.base.getLsbD 63 = true →
      PfCommand (.grantQueue arg0 (p.setWidth 64)) s arg0 (p.setWidth 64) 3 (PfOnly s))) ∧
  (∀ (s : State) (port : BitVec 4) (p : PartNo), PfReady s → (s.part? p).isSome = true →
    let arg0 : DWord := port.setWidth 64
    (s.portBound port.toNat = false →
      PfCommand (.grantPort arg0 (p.setWidth 64)) s arg0 (p.setWidth 64) 0 (fun t =>
        Table.get? t.portGrant port.toNat = some p.toNat ∧
        ∀ k, k ≠ port.toNat → Table.get? t.portGrant k = Table.get? s.portGrant k) ∧
      PfCommand (.grantPort arg0 0xFF) s arg0 0xFF 0 fun t => Table.get? t.portGrant port.toNat = none) ∧
    (s.portBound port.toNat = true →
      PfCommand (.grantPort arg0 (p.setWidth 64)) s arg0 (p.setWidth 64) 3 (PfOnly s))) ∧
  (∀ (s : State) (v : DWord) (k : Nat), k < 4 → ∃ t, exec (.registerWrite .physical (BitVec.ofNat 16 (8 + 8 * k)) v) s = .next t ∧
    t = { s with pfArg := t.pfArg } ∧ Cells.get 0 t.pfArg k = v ∧ ∀ j, j ≠ k → Cells.get 0 t.pfArg j = Cells.get 0 s.pfArg j) ∧
  (∀ (s : State) (v : DWord), PfReady s → let arg0 := Cells.get 0 s.pfArg 0
    let arg1 := Cells.get 0 s.pfArg 1
    let command (i : Instr) : Prop := exec (.registerWrite .physical 0 v) s = exec i s
    (v = 1 → command (.createPartition arg0 arg1)) ∧ (v = 2 → command (.destroyPartition arg0 arg1)) ∧
    (v = 3 → command (.setGranuleKey arg0 arg1)) ∧ (v = 4 → command (.grantQueue arg0 arg1)) ∧
    (v = 5 → command (.grantPort arg0 arg1)) ∧ (v = 6 → command (.updateFirmware arg0 arg1)) ∧
    (v = 7 → command (.setSharedSeverity arg0 arg1)) ∧
    (v = 0 ∨ 7 < v.toNat → PfCommand (.registerWrite .physical 0 v) s arg0 arg1 1 (PfOnly s))) ∧
  ∀ (s : State) (cls : BitVec 4) (a b c d e : Nat), PfReady s → cls ≠ 0 → a < 8 → b < 8 → c < 8 → d < 8 → e < 8 →
    let arg0 : DWord := cls.setWidth 64
    let arg1 : DWord := BitVec.ofNat 64 (a * 2 ^ 6 + b * 2 ^ 9 + c * 2 ^ 12 + d * 2 ^ 15 + e * 2 ^ 18)
    (a ≤ 4 ∧ b ≤ 4 ∧ c ≤ 4 ∧ d ≤ 4 ∧ e ≤ 4 → PfCommand (.setSharedSeverity arg0 arg1) s arg0 arg1 0 fun t =>
      t = { s with sharedSev := t.sharedSev, pfArg := t.pfArg, pfStatus := t.pfStatus } ∧
      (∀ P, t.action P cls.toNat srcHbm = a ∧ t.action P cls.toNat srcLink = b ∧ t.action P cls.toNat srcSwitch = c ∧
        t.action P cls.toNat srcFirmware = d ∧ t.action P cls.toNat srcCxl = e) ∧
      ∀ P k src, k ≠ cls.toNat → t.action P k src = s.action P k src) ∧
    (4 < a ∨ 4 < b ∨ 4 < c ∨ 4 < d ∨ 4 < e → PfCommand (.setSharedSeverity arg0 arg1) s arg0 arg1 3 (PfOnly s))

/-! ## Packets and passes -/

/-- R425: while no `cpyv` holds a packet's line (R216), and hub die 0 has a route where a queue lies in the host's memory (R409), a pass
takes the packet at the head of every enabled queue that holds one, in the order of type and then queue; a queue whose disabling write
has waited for the pass to end is disabled (R424). -/
def Sys2Proof.Spec.PassesTakeOnePacketOfEachQueue : Prop :=
  (∀ (s : State), s.fw.serving = true → s.fw.pass = [] → s.packetsHeld = false →
    (∀ e ∈ s.parts, ∀ k ∈ e.2.queues, k.2.stopping = false ∧ s.unclean k.2.packetPlace 64 = false ∧ s.hostCut k.2.packetPlace 64 = false) →
    ∃ l,
    exec .firmwarePass s = .next { s with fw := { s.fw with pass := l } } ∧
    (∀ e, e ∈ l ↔ ∃ x ∈ s.parts, ∃ k ∈ x.2.queues, k.2.base.getLsbD 63 = true ∧ k.2.prod ≠ k.2.cons ∧
      e = (BitVec.ofNat 7 k.1, s.packetAt k.2)) ∧
    (let rank (e : BitVec 7 × BitVec 512) : Nat :=
      (let ty := (e.2.extractLsb' 0 8).toNat
       if ty = 0 then 7 else if ty ≤ 6 then ty else 8) * 128 + e.1.toNat
     l.Pairwise fun a b => rank a ≤ rank b)) ∧
  ∀ (s : State) (p : PartNo) (P : Part) (q : Nat) (x : Queue), s.fw.serving = true → s.fw.pass = [] → s.packetsHeld = false →
    s.part? p = some P →
    Table.get? P.queues q = some x → x.stopping = true →
    (∀ e ∈ s.parts, ∀ k ∈ e.2.queues, s.unclean k.2.packetPlace 64 = false) →
    Reaches .firmwarePass s p fun _ P' => P' = { P with queues := P'.queues } ∧
      Table.get? P'.queues q = some { x with base := x.base - 0x8000000000000000, stopping := false }

/-- R427: RESET resets the partition, whose queues survive; NOP completes; SIGNAL sets a slot or adds to it modulo 2^64; WAIT passes
once its slot holds at least the value, and stays at the head till then. R425, R426: an unlisted TYPE, or a reserved header bit,
completes with status 1. -/
def Sys2Proof.Spec.PlainPacketsAct : Prop :=
  ∀ (s : State) (q : BitVec 7) (pkt : BitVec 512) (rest : List (BitVec 7 × BitVec 512)) (p : PartNo) (P : Part) (x : Queue),
    AtHead s q pkt rest p P x → pkt.extractLsb' 16 16 = 0 →
    let slot := (pkt.extractLsb' 64 12).toNat
    let v : DWord := pkt.extractLsb' 128 64
    (packetKind pkt = .reset → Completes (.reset q pkt) s p q pkt rest x 0 fun t P' =>
      IsReset P P' ∧ EntryOnly s t x ∧ Notified P P' pkt 0) ∧
    (packetKind pkt = .nop → Completes (.nopPacket q pkt) s p q pkt rest x 0 fun t P' =>
      P' = { P with queues := P'.queues, vectors := P'.vectors } ∧ EntryOnly s t x ∧ Notified P P' pkt 0) ∧
    (packetKind pkt = .unknown → Completes (.unknownPacket q pkt) s p q pkt rest x 1 fun t P' =>
      P' = { P with queues := P'.queues, vectors := P'.vectors } ∧ EntryOnly s t x ∧ Notified P P' pkt 0) ∧
    (packetKind pkt = .signalSet → Completes (.signalSet q pkt) s p q pkt rest x 0 fun t P' =>
      Cells.get 0 P'.signals slot = v ∧ (∀ k, k ≠ slot → Cells.get 0 P'.signals k = Cells.get 0 P.signals k) ∧
      P' = { P with queues := P'.queues, signals := P'.signals, vectors := P'.vectors } ∧ EntryOnly s t x ∧
      Notified P P' pkt 0) ∧
    (packetKind pkt = .signalAdd → Completes (.signalAdd q pkt) s p q pkt rest x 0 fun t P' =>
      Cells.get 0 P'.signals slot = Cells.get 0 P.signals slot + v ∧
      (∀ k, k ≠ slot → Cells.get 0 P'.signals k = Cells.get 0 P.signals k) ∧
      P' = { P with queues := P'.queues, signals := P'.signals, vectors := P'.vectors } ∧ EntryOnly s t x ∧ Notified P P' pkt 0) ∧
    (packetKind pkt = .wait →
      (v.toNat ≤ (Cells.get 0 P.signals slot).toNat → Completes (.wait q pkt) s p q pkt rest x 0 fun t P' =>
        P' = { P with queues := P'.queues, vectors := P'.vectors } ∧ EntryOnly s t x ∧ Notified P P' pkt 0) ∧
      ((Cells.get 0 P.signals slot).toNat < v.toNat →
        exec (.wait q pkt) s = .next { s with fw := { s.fw with pass := rest } }))

/-- The instruction carries out packets of the kind of this one. -/
def Sys2Proof.Spec.Carries (q : BitVec 7) (pkt : BitVec 512) (i : Instr) : Prop := match packetKind pkt with
  | .reset => i = .reset q pkt
  | .setmode => i = .setmode q pkt
  | .attach => i = .attach q pkt
  | .extend => i = .extend q pkt
  | .detach => i = .detach q pkt
  | .buffers => i = .buffers q pkt
  | .consume => i = .consume q pkt
  | .resume => i = .resume q pkt
  | .launch => i = .launch q pkt
  | .signalSet => i = .signalSet q pkt
  | .signalAdd => i = .signalAdd q pkt
  | .wait => i = .wait q pkt
  | .nop => i = .nopPacket q pkt
  | .unknown => i = .unknownPacket q pkt

/-- R426, R429: a packet with a reserved header bit is malformed, whatever its type: it completes with status 1, and a LAUNCH raises SIG if
it asks for that. -/
def Sys2Proof.Spec.ReservedHeaderBitsAreMalformed : Prop :=
  ∀ (s : State) (q : BitVec 7) (pkt : BitVec 512) (rest : List (BitVec 7 × BitVec 512)) (p : PartNo) (P : Part) (x : Queue)
      (i : Instr), AtHead s q pkt rest p P x → pkt.extractLsb' 16 16 ≠ 0 → Carries q pkt i →
    Completes i s p q pkt rest x 1 fun t P' =>
      let slot := (pkt.extractLsb' 212 12).toNat
      P' = { P with queues := P'.queues, vectors := P'.vectors, signals := P'.signals } ∧
      (∀ k, Cells.get 0 P'.signals k = Cells.get 0 P.signals k +
        (if packetKind pkt = .launch ∧ pkt.getLsbD 211 = true ∧ k = slot then 1 else 0)) ∧
      EntryOnly s t x ∧ Notified P P' pkt 0

/-- R362: the records of a stream stand in the reserved region from double word `b` on, and of memory nothing else has changed but the
completion entry. -/
def Sys2Proof.Spec.RecordsKept (s t : State) (P : Part) (x : Queue) (b : Nat) (recs : List DWord) : Prop :=
  let lo := P.regs.shelfb.toNat + 8 * b
  let entry (a : Nat) : Prop := entryAt x ≤ a ∧ a < entryAt x + 16
  (∀ a, ¬ entry a → (a < lo ∨ lo + 8 * recs.length ≤ a) → t.byte a = s.byte a) ∧
  (P.regs.shelfb.toNat + 2 ^ 29 ≤ 2 ^ 49 → ∀ j < recs.length, ∀ i < 8, ¬ entry (lo + 8 * j + i) →
    t.byte (lo + 8 * j + i) = (leBytes 8 (recs.getD j 0).toNat).getD i 0)

/-- R360, R362, R367, R428: the STREAM operations; SETMODE takes effect once no team is live. Where the records go in the region is the
firmware's choice (notes/assumptions/101.md). -/
def Sys2Proof.Spec.StreamPacketsAct : Prop :=
  ∀ (s : State) (q : BitVec 7) (pkt : BitVec 512) (rest : List (BitVec 7 × BitVec 512)) (p : PartNo) (P : Part) (x : Queue),
    AtHead s q pkt rest p P x → pkt.extractLsb' 16 16 = 0 →
    let kind := (pkt.extractLsb' 64 4).toNat
    let id : DWord := pkt.extractLsb' 128 64
    let buf := (pkt.extractLsb' 192 52).toNat
    let n := (pkt.extractLsb' 256 32).toNat
    let words := s.words buf n
    let unchanged (t : State) (P' : Part) : Prop :=
      P' = { P with queues := P'.queues, vectors := P'.vectors } ∧ EntryOnly s t x ∧ Notified P P' pkt 0
    (packetKind pkt = .setmode → (pkt.extractLsb' 64 3).toNat ≤ 4 →
      (P.run.teams ≠ [] → exec (.setmode q pkt) s = .next { s with fw := { s.fw with pass := rest } }) ∧
      (P.run.teams = [] → Completes (.setmode q pkt) s p q pkt rest x 0 fun _ P' =>
        P'.choice.mode = pkt.extractLsb' 64 3 ∧ P'.choice.pol = pkt.getLsbD 67 ∧ P'.choice.win = pkt.extractLsb' 68 6 ∧
        P'.choice.paths = pkt.extractLsb' 96 32 ∧ P'.choice.domains = [] ∧ P'.choice.unst = false ∧
        (∀ e ∈ P'.choice.streams, e.2.cur = 0 ∧ e.2.roff = 0 ∧ e.2.exh = false) ∧ P'.run = P.run ∧
        (P.choice.mode = 2 → P.choice.chunks = [] → P'.choice.rbprod = P.choice.rbprod))) ∧
    (packetKind pkt = .attach → 1 ≤ kind → kind ≤ 6 → s.hostOrOwned P buf (8 * n) = true → s.unclean buf (8 * n) = false →
      let place := P.choice.regionPlace none (Config.streamBase s.tick).toNat n
      (∀ k b, P.choice.mode ≠ 3 → P.choice.mode ≠ 4 → P.choice.entry? kind id = none → (kind = 6 → n % 2 = 0) → place = some b →
        Table.get? P.choice.streams k = none → (∀ j < k, Table.has P.choice.streams j = true) → k < 65536 →
        k ≤ P.choice.streams.length →
        Completes (.attach q pkt) s p q pkt rest x 0 fun t P' =>
          (∃ st, Table.get? P'.choice.streams k = some st ∧ st.kind.toNat = kind ∧ st.id = id ∧ st.recs = words ∧ st.cur = 0 ∧
            st.roff = 0 ∧ st.exh = false ∧ st.base.toNat = 8 * b) ∧
          (∀ j, j ≠ k → Table.get? P'.choice.streams j = Table.get? P.choice.streams j) ∧ P'.run = P.run ∧
          RecordsKept s t P x b words) ∧
      (P.choice.mode = 3 ∨ P.choice.mode = 4 ∨ (P.choice.entry? kind id).isSome = true ∨ (kind = 6 ∧ n % 2 = 1) ∨ place = none →
        Completes (.attach q pkt) s p q pkt rest x 3 unchanged)) ∧
    (packetKind pkt = .extend → 1 ≤ kind → kind ≤ 6 → s.hostOrOwned P buf (8 * n) = true → s.unclean buf (8 * n) = false →
      let place (k : Nat) (st : Stream) := P.choice.regionPlace (some k) (st.base.toNat / 8) (st.recs.length + n)
      (∀ k st b, P.choice.entry? kind id = some (k, st) → place k st = some b →
        Completes (.extend q pkt) s p q pkt rest x 0 fun t P' =>
          Table.get? P'.choice.streams k = some { st with base := BitVec.ofNat 64 (8 * b), recs := st.recs ++ words } ∧
          (∀ j, j ≠ k → Table.get? P'.choice.streams j = Table.get? P.choice.streams j) ∧ P'.run = P.run ∧
          RecordsKept s t P x b (st.recs ++ words)) ∧
      (P.choice.entry? kind id = none ∨ (∃ k st, P.choice.entry? kind id = some (k, st) ∧ place k st = none) → Completes (.extend q pkt) s p q pkt rest x 3 unchanged)) ∧
    (packetKind pkt = .detach → 1 ≤ kind → kind ≤ 6 →
      (∀ k st, P.choice.entry? kind id = some (k, st) → P.choice.mode ≠ 3 → P.choice.mode ≠ 4 →
        Completes (.detach q pkt) s p q pkt rest x 0 fun t P' => Table.get? P'.choice.streams k = none ∧
          (∀ j, j ≠ k → Table.get? P'.choice.streams j = Table.get? P.choice.streams j) ∧ P'.run = P.run ∧ EntryOnly s t x) ∧
      (P.choice.entry? kind id = none ∨ P.choice.mode = 3 ∨ P.choice.mode = 4 → Completes (.detach q pkt) s p q pkt rest x 3 unchanged)) ∧
    (packetKind pkt = .buffers →
      (pkt.extractLsb' 96 32).toNat + 8 * (pkt.extractLsb' 64 32).toNat ≤ 2 ^ 29 →
      (pkt.extractLsb' 160 32).toNat + 128 * (pkt.extractLsb' 128 24).toNat ≤ 2 ^ 29 → (pkt.extractLsb' 192 32).toNat < 2 ^ 29 →
      (P.run.teams = [] → Completes (.buffers q pkt) s p q pkt rest x 0 fun _ P' =>
        P'.choice.rbsize = pkt.extractLsb' 64 32 ∧ P'.choice.rbbase = (pkt.extractLsb' 96 32).setWidth 64 ∧
        P'.choice.olcap = pkt.extractLsb' 128 24 ∧ P'.choice.olbase = (pkt.extractLsb' 160 32).setWidth 64 ∧
        P'.choice.imgbase = (pkt.extractLsb' 192 32).setWidth 64 ∧ P'.choice.olprod = 0 ∧ P'.choice.rbcons = 0 ∧
        ((∀ c ∈ P.choice.chunks, c.waits = false) → P'.choice.rbprod = 0 ∧ P'.choice.chunks = P.choice.chunks)) ∧
      (P.run.teams ≠ [] → Completes (.buffers q pkt) s p q pkt rest x 3 unchanged)) ∧
    (packetKind pkt = .consume →
      let new : Word := pkt.extractLsb' 64 32
      ((new - P.choice.rbcons).toNat ≤ (P.choice.rbprod - P.choice.rbcons).toNat →
        Completes (.consume q pkt) s p q pkt rest x 0 fun _ P' => P'.choice.rbcons = new ∧
          ((∀ c ∈ P.choice.chunks, c.waits = false) → P'.choice = { P.choice with rbcons := new })) ∧
      ((P.choice.rbprod - P.choice.rbcons).toNat < (new - P.choice.rbcons).toNat →
        Completes (.consume q pkt) s p q pkt rest x 3 unchanged))

/-- R322, R406, R407, R429: LAUNCH is accepted once its checks pass, with its fields, and the queue advances without an entry; a KERN
that names no kernel completes with status 1, a broken limit with status 2, SIG raised if asked; RESUME restores an image that
passes its checks, and completes with status 3 otherwise. -/
def Sys2Proof.Spec.LaunchAndResumePacketsAct : Prop :=
  ∀ (s : State) (q : BitVec 7) (pkt : BitVec 512) (rest : List (BitVec 7 × BitVec 512)) (p : PartNo) (P : Part) (x : Queue),
    AtHead s q pkt rest p P x → pkt.extractLsb' 16 16 = 0 →
    (packetKind pkt = .launch →
      let s0 : State := { s with fw := { s.fw with pass := rest } }
      let kern := (pkt.extractLsb' 256 32).toNat
      let rejected (status : Nat) : Prop := Completes (.launch q pkt) s p q pkt rest x status fun t P' =>
        P'.run = P.run ∧ EntryOnly s t x ∧ Notified P P' pkt 0 ∧
        Cells.get 0 P'.signals (pkt.extractLsb' 212 12).toNat =
          Cells.get 0 P.signals (pkt.extractLsb' 212 12).toNat + (if pkt.getLsbD 211 then 1 else 0)
      (Table.get? P.kernels kern = none → rejected 1) ∧
      (∀ k, Table.get? P.kernels kern = some k → launchReserved pkt = true → rejected 1) ∧
      (∀ k, Table.get? P.kernels kern = some k → launchReserved pkt = false → s0.launchValid p P (launchOf k q pkt (x.cons + 1)) = false →
        rejected 2) ∧
      ∀ k, Table.get? P.kernels kern = some k → launchReserved pkt = false → s0.launchValid p P (launchOf k q pkt (x.cons + 1)) = true →
        Becomes (.launch q pkt) s p fun P' => ∃ l, Table.get? P'.run.launches (P.lastLaunch + 1) = some l ∧ l.kernel = k ∧
          l.gx = (pkt.extractLsb' 64 21).toNat ∧ l.gy = (pkt.extractLsb' 85 21).toNat ∧ l.gz = (pkt.extractLsb' 106 21).toNat ∧
          l.seed = pkt.extractLsb' 224 32 ∧ l.curve = pkt.getLsbD 9 ∧ l.coresident = pkt.getLsbD 10 ∧
          l.sig = pkt.extractLsb' 212 12 ∧ l.sigen = pkt.getLsbD 211 ∧ l.queue = q ∧ l.tag = pkt.extractLsb' 32 32 ∧
          l.notify = pkt.getLsbD 8 ∧ l.next = 0 ∧ l.mode = none ∧
          l.slotQuota = (if pkt.extractLsb' 183 9 = 0 then 16 else (pkt.extractLsb' 183 9).toNat) ∧
          (pkt.extractLsb' 178 5 ≠ 0 → l.recQuota = (pkt.extractLsb' 178 5).toNat) ∧
          (pkt.extractLsb' 196 12 ≠ 0 → l.unitQuota = (pkt.extractLsb' 196 12).toNat) ∧
          P'.lastLaunch = P.lastLaunch + 1 ∧ Table.get? P'.queues q.toNat = some { x with cons := x.cons + 1 } ∧
          P'.run.teams = P.run.teams ∧ P'.vectors = P.vectors) ∧
    (packetKind pkt = .resume →
      let image := s.readImage P p (pkt.extractLsb' 64 52).toNat
      (∀ i, P.mayResume = true → image = some i → Completes (.resume q pkt) s p q pkt rest x 0 fun t P' =>
        P'.run.teams = i.run.teams ∧ P'.run.ops = i.run.ops ∧ P'.run.dir = i.run.dir ∧
        ((∀ k ∈ P.regs.whiskCores, (P.core? k).any Core.withdrawn = false) → P'.run.homes = i.run.homes) ∧
        P'.choice.mode = i.choice.mode ∧ P'.choice.domains = i.choice.domains ∧ P'.sieve = i.sieve ∧ P'.frozen = false ∧
        P'.reason = 0 ∧ EntryOnly s t x ∧ Notified P P' pkt 0) ∧
      (P.mayResume = false ∨ image = none →
        s.unclean (pkt.extractLsb' 64 52).toNat (s.imageBytes (pkt.extractLsb' 64 52).toNat) = false →
        Completes (.resume q pkt) s p q pkt rest x 3 fun t P' =>
        P'.run = P.run ∧ P'.choice = P.choice ∧ P'.frozen = P.frozen ∧ EntryOnly s t x ∧ Notified P P' pkt 1))

/-- R322, R360, R406, R407, R424 to R429: passes and packets. That the entry of a packet stands at the packet's own index is the model's
reading (notes/assumptions/59.md), and so is that a queue holds a packet while its producer and consumer indices differ, each taken modulo
the size of the ring (notes/assumptions/17.md).
Where these rules leave something open besides, this rests on the model's choice: notes/assumptions/4.md, 12.md, 18.md, 63.md, 72.md, 73.md, 74.md,
75.md, 76.md, 77.md, 85.md, 87.md, 88.md, 101.md, 104.md, 112.md, 113.md, 122.md. -/
def Obligations.PacketsActAndComplete : Prop :=
  PassesTakeOnePacketOfEachQueue ∧ PlainPacketsAct ∧ ReservedHeaderBitsAreMalformed ∧ StreamPacketsAct ∧ LaunchAndResumePacketsAct

/-! ## Services -/

/-- R149, R430: the services of `ccall` give their answer in s0 and s1, and have their effect; any other number answers all ones. -/
def Obligations.CcallServicesAnswer : Prop :=
  ∀ (s : State) (p : PartNo) (gid : Nat) (P : Part) (g : Group), AsksService s p gid P g →
    let answers (i : Instr) (status : DWord) (rel : Part → Prop) : Prop :=
      Becomes i s p fun P' => (∃ g', P'.group? gid = some g' ∧ Answered g g' status) ∧ rel P'
    (g.stage = .asked 0 → answers (.null p gid) 0 fun P' => P'.signals = P.signals ∧ P'.debug = P.debug) ∧
    (g.stage = .asked 1 → answers (.debug p gid) 0 fun P' => P'.signals = P.signals ∧
      P'.debug = P.debug ++ [g.sreg 1, g.sreg 2, g.sreg 3, g.sreg 4, g.sreg 5, g.sreg 6, g.sreg 7, (P.requester gid 0).setWidth 64]) ∧
    (g.stage = .asked 2 → (g.sreg 1).toNat < 4096 → answers (.sigadd p gid) 0 fun P' =>
      Cells.get 0 P'.signals (g.sreg 1).toNat = Cells.get 0 P.signals (g.sreg 1).toNat + g.sreg 2 ∧
      ∀ k, k ≠ (g.sreg 1).toNat → Cells.get 0 P'.signals k = Cells.get 0 P.signals k) ∧
    (g.stage = .asked 2 → 4096 ≤ (g.sreg 1).toNat → answers (.sigadd p gid) 1 fun P' => P'.signals = P.signals) ∧
    (g.stage = .asked 3 → (g.sreg 1).toNat ≤ 1000000 →
      Becomes (.sleep p gid) s p fun P' => P'.group? gid = some { g with stage := .sleeping }) ∧
    (g.stage = .asked 3 → 1000000 < (g.sreg 1).toNat → answers (.sleep p gid) 1 fun P' => P'.signals = P.signals) ∧
    (g.stage = .sleeping → answers (.sleepExpiry p gid) 0 fun P' => P'.signals = P.signals) ∧
    (∀ n : BitVec 16, 4 ≤ n.toNat → g.stage = .asked n → answers (.unknownService p gid) (BitVec.allOnes 64) fun P' =>
      P'.signals = P.signals ∧ P'.debug = P.debug)

/-- R302, R396, R399, R431, R434, R435: the services of the partition's supervisor.
Where these rules leave something open, this rests on the model's choice: notes/assumptions/9.md, 79.md, 80.md, 85.md. -/
def Obligations.SupervisorServicesServe : Prop :=
  (∀ (s : State) (p : PartNo) (P : Part), Commanded s p P 1 → P.frozen = false →
    Serves (.freeze p) s p 0 fun t P' => P'.freezing = true ∧ P'.reason = P.reason ||| 1 ∧ P'.run = P.run ∧ ∀ a, t.byte a = s.byte a) ∧
  (∀ (s : State) (p : PartNo) (P : Part), Commanded s p P 1 → P.frozen = true →
    Serves (.freeze p) s p 0 fun _ P' => P'.frozen = true ∧ P'.reason = P.reason ||| 1 ∧ P'.run = P.run) ∧
  (∀ (s : State) (p : PartNo) (P : Part), Commanded s p P 2 →
    (s.owned P (svcArg P 0) (svcArg P 1) = true → Serves (.registerImageArea p) s p 0 fun t P' =>
      P'.imageArea = some (svcArg P 0, svcArg P 1) ∧ ∀ a, t.byte a = s.byte a) ∧
    (s.owned P (svcArg P 0) (svcArg P 1) = false → Serves (.registerImageArea p) s p 1 fun t P' => ServedOnly s t P P')) ∧
  (∀ (s : State) (p : PartNo) (P : Part), Commanded s p P 3 → let pa := svcArg P 2
    s.portDown pa = false →
    (svcArg P 0 = 0 → s.hostOrOwned P pa 64 = true → Serves (.copyTableEntry p) s p 0 fun t _ =>
      ∀ j < 64, t.byte (pa + j) = (leBytes 64 P.choice.block).getD j 0) ∧
    (∀ st, svcArg P 0 = 1 → svcArg P 1 < 65536 → Table.get? P.choice.streams (svcArg P 1) = some st → s.hostOrOwned P pa 32 = true →
      Serves (.copyTableEntry p) s p 0 fun t _ => ∀ j < 32, t.byte (pa + j) = (leBytes 32 st.entry).getD j 0) ∧
    (∀ i d, svcArg P 0 = 2 → (P.run.dir.find? fun e => e.2.name == Cells.get 0 P.regs.svcArg 1) = some (i, d) →
      s.hostOrOwned P pa 32 = true →
      Serves (.copyTableEntry p) s p 0 fun t _ => ∀ j < 32, t.byte (pa + j) = (leBytes 32 d.entry).getD j 0) ∧
    (2 < svcArg P 0 → Serves (.copyTableEntry p) s p 1 fun t P' => ServedOnly s t P P')) ∧
  (∀ (s : State) (p : PartNo) (P : Part) (pa : Nat), Commanded s p P 4 → canonical (Cells.get 0 P.regs.svcArg 0) = true →
    s.cxlDown = [] → P.sieve.snapshot = none → let va := svcArg P 0 % 2 ^ 56 / 64 * 64
    s.loadPa P va = some pa → pa % 64 = 0 →
    (P.objectBusy (va / 64) = false → s.unclean (pa + 56) 8 = false → Serves (.clearSpoil p) s p 0 fun t _ =>
      (∀ a, a ≠ pa + 61 → t.byte a = s.byte a) ∧ t.byte (pa + 61) = s.byte (pa + 61) &&& 0x7F) ∧
    (P.objectBusy (va / 64) = true → Serves (.clearSpoil p) s p 3 fun t P' => ServedOnly s t P P')) ∧
  (∀ (s : State) (p : PartNo) (P : Part), Commanded s p P 5 →
    (svcArg P 0 ≤ 1 → svcArg P 2 ≤ 4096 → s.hostOrOwned P (svcArg P 1) (svcArg P 2) = true →
      Serves (.copyDebugRing p) s p 0 fun t P' => P'.debug = P.debug ∧ P'.elog = P.elog ∧
        ∀ a, (a < svcArg P 1 ∨ svcArg P 1 + svcArg P 2 ≤ a) → t.byte a = s.byte a) ∧
    (1 < svcArg P 0 ∨ 4096 < svcArg P 2 → Serves (.copyDebugRing p) s p 1 fun t P' => ServedOnly s t P P')) ∧
  (∀ (s : State) (p : PartNo) (P : Part), Commanded s p P 6 → let pa := svcArg P 0
    let n := ((Cells.get 0 P.regs.svcArg 1).extractLsb' 0 32).toNat
    let fails (status : BitVec 8) : Prop := Serves (.loadLvc p) s p status fun t P' => ServedOnly s t P P' ∧ t.execFrames = s.execFrames
    (s.owned P pa n = false → fails 1) ∧
    (s.owned P pa n = true → s.unclean pa n = false → (Config.parseLvc (s.bytes pa n) = none → fails 1) ∧
      ∀ l, Config.parseLvc (s.bytes pa n) = some l →
        let dest := svcArg P 2
        let kerns := freeKeys P.kernels 0 1024 l.kernels.length
        let numbers := freeKeys P.classes 16 4096 l.classes.length
        let marks := numbers.zip ((List.range numbers.length).map fun j => (Cells.get 0 P.regs.svcArg 1).getLsbD (32 + j))
        let room := kerns.length = l.kernels.length ∧ numbers.length = l.classes.length
        let loaded := s.loadSegments p l.headerHash l.segments kerns marks
        let measured (k : Nat) : BitVec 512 :=
          ((l.segments.take k).map (·.measurement)).foldl extended (Cells.get 0 P.meas 5)
        (s.owned P dest (8 * (l.kernels.length + l.classes.length)) = false → fails 1) ∧
        (s.owned P dest (8 * (l.kernels.length + l.classes.length)) = true →
          (¬ room → fails 2) ∧
          (room → loaded.2 = false → Serves (.loadLvc p) s p 1 fun _ P' => ∃ k < l.segments.length,
            Cells.get 0 P'.meas 5 = measured k ∧ P'.run = P.run ∧
            ∀ m x, l.segments[m]? = some x → (segmentOk l.headerHash (Table.get? P.keys x.key) x = false ∨ 4 < x.kind) → k ≤ m) ∧
          (room → loaded.2 = true → (∀ o ∈ l.objects, (loaded.1.loadPa P (o.1.toNat % 2 ^ 56)).isSome = true) →
            Serves (.loadLvc p) s p 0 fun t P' =>
              Cells.get 0 P'.meas 5 = measured l.segments.length ∧
              (∀ x ∈ l.segments, segmentOk l.headerHash (Table.get? P.keys x.key) x = true) ∧
              (∀ j < l.kernels.length, Table.get? P'.kernels (kerns.getD j 0) = l.kernels[j]?) ∧
              (∀ k x, Table.get? P.kernels k = some x → Table.get? P'.kernels k = some x) ∧
              (∀ j < l.classes.length, ∃ c, Table.get? P'.classes (numbers.getD j 0) = some c ∧
                c.commutes = (Cells.get 0 P.regs.svcArg 1).getLsbD (32 + j)) ∧
              (∀ k x, Table.get? P.classes k = some x → Table.get? P'.classes k = some x) ∧
              (s.cxlDown = [] → ∀ j < l.kernels.length, t.num (dest + 8 * j) 8 = kerns.getD j 0) ∧
              (∀ f ∈ s.execFrames, f ∈ t.execFrames) ∧ P'.run = P.run)))) ∧
  (∀ (s : State) (p : PartNo) (P : Part), Commanded s p P 7 → let k := svcArg P 0
    (Table.has P.kernels k = true → (∀ e ∈ P.run.launches, e.2.kern ≠ k) → Serves (.unloadKernel p) s p 0 fun _ P' =>
      Table.get? P'.kernels k = none ∧ ∀ j, j ≠ k → Table.get? P'.kernels j = Table.get? P.kernels j) ∧
    (Table.has P.kernels k = true → (∃ e ∈ P.run.launches, e.2.kern = k) →
      Serves (.unloadKernel p) s p 3 fun t P' => ServedOnly s t P P')) ∧
  (∀ (s : State) (p : PartNo) (P : Part), Commanded s p P 8 → let k := svcArg P 0
    let pa := svcArg P 1
    (k < 16 → pa ≠ 0 → s.owned P pa 32 = true → s.unclean pa 32 = false → Serves (.setTrustedKey p) s p 0 fun _ P' =>
      Table.get? P'.keys k = some (BitVec.ofNat 256 (s.num pa 32)) ∧ ∀ j, j ≠ k → Table.get? P'.keys j = Table.get? P.keys j) ∧
    (k < 16 → pa = 0 → Serves (.setTrustedKey p) s p 0 fun _ P' => Table.get? P'.keys k = none) ∧
    (16 ≤ k ∨ (pa ≠ 0 ∧ s.owned P pa 32 = false) → Serves (.setTrustedKey p) s p 1 fun t P' => ServedOnly s t P P')) ∧
  (∀ (s : State) (p : PartNo) (P : Part), Commanded s p P 9 → let k := svcArg P 0
    let pa := svcArg P 1
    (k = 6 ∨ k = 7 → s.owned P pa 64 = true → s.unclean pa 64 = false → Serves (.extendMeasurement p) s p 0 fun _ P' =>
      Cells.get 0 P'.meas k = extended (Cells.get 0 P.meas k) (BitVec.ofNat 512 (s.num pa 64)) ∧
      ∀ j, j ≠ k → Cells.get 0 P'.meas j = Cells.get 0 P.meas j) ∧
    (k ≠ 6 ∧ k ≠ 7 ∨ s.owned P pa 64 = false → Serves (.extendMeasurement p) s p 1 fun t P' => ServedOnly s t P P')) ∧
  ∀ (s : State) (p : PartNo) (P : Part), Commanded s p P 10 → let src := svcArg P 0
    let dst := svcArg P 1
    (s.owned P src 32 = true → s.owned P dst 608 = true → s.unclean src 32 = false → s.portDown dst = false → Serves (.attest p) s p 0 fun t _ =>
      (∀ k < 8, ∀ j < 64, t.byte (dst + 64 * k + j) =
        (leBytes 64 (Cells.get 0 (if k < 4 then s.meas else P.meas) k).toNat).getD j 0) ∧
      (∀ j < 32, t.byte (dst + 512 + j) = s.byte (src + j)) ∧
      ∀ a, (a < dst ∨ dst + 608 ≤ a) → t.byte a = s.byte a) ∧
    (s.owned P src 32 = false ∨ s.owned P dst 608 = false → Serves (.attest p) s p 1 fun t P' => ServedOnly s t P P')

/-! ## Registers of the partition's supervisor -/

/-- R199, R300, R337, R343 to R345, R350, R417, R424, R423, R431: a write that a register takes changes it; any other (a reserved bit, a
value out of its range, a command while one is under way, a queue's QSIZE or QCBASE while it is enabled, an enabling QBASE whose ring
is not the partition's, a register that is read only, an offset that names none) is ignored and reported on vector 0. A verdict on a
page that has no record outstanding is ignored, and not reported (notes/assumptions/84.md).
Where these rules leave something open, this rests on the model's choice: notes/assumptions/71.md, 73.md, 84.md. -/
def Obligations.RegisterWritesTakeOrFail : Prop :=
  (∀ (s : State) (p : PartNo) (P : Part) (off : BitVec 16) (v : DWord) (ok : Prop) (f : Regs → Regs), s.part? p = some P →
    plainRow v off.toNat = some (ok, f) →
    (ok → Becomes (.registerWrite (.virtual p) off v) s p fun P' => P' = { P with regs := f P.regs }) ∧
    (¬ ok → Becomes (.registerWrite (.virtual p) off v) s p fun P' => WriteFails P P' off.toNat)) ∧
  (∀ (s : State) (p : PartNo) (P : Part) (off : BitVec 16) (v : DWord), s.part? p = some P →
    ¬ takesWrites off.toNat ∨ (0x600 ≤ off.toNat ∧ off.toNat < 0x1600 ∧ P.queues[(off.toNat - 0x600) / 32]? = none) →
    Becomes (.registerWrite (.virtual p) off v) s p fun P' => WriteFails P P' off.toNat) ∧
  (∀ (s : State) (p : PartNo) (P : Part) (v : DWord), s.part? p = some P → let c := v.toNat
    let takes := c ≤ 62 ∧ c % 2 = 0 ∧ P.run.teams = [] ∧ 768 ≤ 32 * 2 ^ P.regs.logDies * (62 - c) ∧
      P.backingEnd ≤ P.regs.shelfb.toNat + 32 * 2 ^ P.regs.logDies * (62 - c) * 2 ^ 20
    (takes → Becomes (.shelfcWrite p v) s p fun P' => P' = { P with regs := { P.regs with shelfc := BitVec.ofNat 6 c } }) ∧
    (¬ takes → Becomes (.shelfcWrite p v) s p fun P' => WriteFails P P' 0x018)) ∧
  (∀ (s : State) (p : PartNo) (P : Part) (v : DWord), s.part? p = some P →
    let takes := v.toNat < 2 ^ 16 ∧ v ≠ 0 ∧ P.run.teams = [] ∧ P.homesEmpty = true
    (takes → Reaches (.whiskWrite p v) s p fun _ P' => P'.regs = { P.regs with whisk := v.setWidth 16 } ∧
      ∀ k, Table.has P'.run.homes k = true ↔
        P.regs.firstDie * 16 ≤ k ∧ k < P.regs.firstDie * 16 + 16 * 2 ^ P.regs.logDies ∧ v.getLsbD (k % 16) = true) ∧
    (¬ takes → Becomes (.whiskWrite p v) s p fun P' => WriteFails P P' 0x048)) ∧
  (∀ (s : State) (p : PartNo) (P : Part) (v : DWord), s.part? p = some P →
    let win := (v.extractLsb' 0 24).toNat
    let takes := v.extractLsb' 24 39 = 0 ∧ 1000 ≤ win ∧ win ≤ 10000000
    (takes → Becomes (.eggWrite p v) s p fun P' => P' = { P with regs := { P.regs with egg := v } }) ∧
    (¬ takes → Becomes (.eggWrite p v) s p fun P' => WriteFails P P' 0x050)) ∧
  (∀ (s : State) (p : PartNo) (P : Part) (cls : BitVec 4) (v : DWord), s.part? p = some P → cls ≠ 0 → v.toNat < 2 ^ 21 →
    let core := v.toNat % 8
    let slice := v.toNat / 8 % 8
    (core ≤ 4 → slice ≤ 4 → ∃ t P', exec (.sevWrite p cls v) s = .next t ∧ t.part? p = some P' ∧ t.action P' cls.toNat srcCore = core ∧
      t.action P' cls.toNat srcSlice = slice ∧ (∀ src, 2 ≤ src → t.action P' cls.toNat src = s.action P cls.toNat src) ∧
      ∀ k src, k ≠ cls.toNat → t.action P' k src = s.action P k src) ∧
    (4 < core ∨ 4 < slice → Becomes (.sevWrite p cls v) s p fun P' => WriteFails P P' (0x080 + 8 * (cls.toNat - 1)))) ∧
  (∀ (s : State) (p : PartNo) (P : Part) (cls : BitVec 4) (v : DWord), s.part? p = some P → cls ≠ 0 →
    (2 ^ 21 ≤ v.toNat → Becomes (.sevWrite p cls v) s p fun P' => WriteFails P P' (0x080 + 8 * (cls.toNat - 1))) ∧
    exec (.registerWrite (.virtual p) (BitVec.ofNat 16 (0x080 + 8 * (cls.toNat - 1))) v) s = exec (.sevWrite p cls v) s) ∧
  (∀ (s : State) (p : PartNo) (P : Part) (v : DWord), s.part? p = some P →
    let takes := v.extractLsb' 0 16 = 0 ∧ v.extractLsb' 58 6 = 0
    (takes → P.regs.invDone = true → Becomes (.invWrite p v) s p fun P' =>
      P' = { P with regs := { P.regs with inv := v, invDone := false } }) ∧
    (takes → P.regs.invDone = false → Becomes (.invWrite p v) s p fun P' =>
      P'.regs.invDone = false ∧ P'.regs.invRange = (0, 2 ^ 56) ∧ P'.run = P.run) ∧
    (¬ takes → Becomes (.invWrite p v) s p fun P' => WriteFails P P' 0x028)) ∧
  (∀ (s : State) (p : PartNo) (P : Part) (vp : BitVec 40), s.part? p = some P → P.pending vp.toNat = true →
    let v : DWord := vp.setWidth 64 <<< 16
    exec (.registerWrite (.virtual p) 0x038 (v ||| 1)) s = exec (.faultMapped p (v ||| 1)) s ∧
    exec (.registerWrite (.virtual p) 0x038 v) s = exec (.faultDeclined p v) s ∧
    Becomes (.faultMapped p (v ||| 1)) s p (fun P' => (∀ f ∈ P'.faults, f.vpage ≠ vp.toNat) ∧
      (∀ gid g vps, P.group? gid = some g → g.wait = some (.page vps) → vp.toNat ∈ vps →
        ∃ g', P'.group? gid = some g' ∧ g'.wait = (if vps = [vp.toNat] then none else some (.page (vps.erase vp.toNat))) ∧ g'.pc = g.pc) ∧
      ∀ r ∈ P'.run.relaunches, ∀ e ∈ r.pages, e.1 ≠ vp.toNat) ∧
    Becomes (.faultDeclined p v) s p fun P' => (∀ f ∈ P'.faults, f.vpage ≠ vp.toNat) ∧
      (∀ gid g vps, P.group? gid = some g → g.wait = some (.page vps) → vp.toNat ∈ vps →
        ∃ g', P'.group? gid = some g' ∧ g'.wait = some (.declined vp.toNat) ∧ g'.pc = g.pc) ∧
      ∀ r ∈ P'.run.relaunches, ∀ e ∈ r.pages, e.1 ≠ vp.toNat) ∧
  (∀ (s : State) (p : PartNo) (P : Part) (v : DWord), s.part? p = some P →
    let fails := v.extractLsb' 1 15 ≠ 0 ∨ v.extractLsb' 56 8 ≠ 0
    (fails → Becomes (.registerWrite (.virtual p) 0x038 v) s p fun P' => WriteFails P P' 0x038) ∧
    (¬ fails → P.pending (v.extractLsb' 16 40).toNat = false → Becomes (.registerWrite (.virtual p) 0x038 v) s p fun P' => P' = P)) ∧
  (∀ (s : State) (p : PartNo) (P : Part) (q : BitVec 7) (v : DWord) (x : Queue), s.part? p = some P →
    Table.get? P.queues q.toNat = some x →
    let off := 0x600 + 32 * (P.queues.filter fun e => decide (e.1 < q.toNat)).length
    (v.toNat < 2 ^ 16 → Becomes (.qprodWrite p q v) s p fun P' =>
      P' = { P with queues := P'.queues } ∧ Table.get? P'.queues q.toNat = some { x with prod := v.setWidth 16 }) ∧
    (2 ^ 16 ≤ v.toNat → Becomes (.qprodWrite p q v) s p fun P' => WriteFails P P' (off + 16)) ∧
    ((∀ e ∈ s.fw.pass, e.1 ≠ q) →
      (x.base.getLsbD 63 = true → v = x.base &&& 0x7FFFFFFFFFFFFFFF → v.extractLsb' 0 6 = 0 → v.extractLsb' 52 12 = 0 →
        Becomes (.qbaseWrite p q v) s p fun P' => P' = { P with queues := P'.queues } ∧
          Table.get? P'.queues q.toNat = some { x with base := v, stopping := false }) ∧
      (x.base.getLsbD 63 = true → v ≠ x.base &&& 0x7FFFFFFFFFFFFFFF → Becomes (.qbaseWrite p q v) s p fun P' =>
        WriteFails P P' off) ∧
      (x.base.getLsbD 63 = false → v.extractLsb' 0 6 = 0 → v.extractLsb' 52 11 = 0 → v.getLsbD 63 = true → x.size ≠ 0 →
        s.hostOrOwned P ((v.extractLsb' 6 46).toNat * 64) (64 * x.size.toNat) = true →
        Becomes (.qbaseWrite p q v) s p fun P' => P' = { P with queues := P'.queues } ∧
          Table.get? P'.queues q.toNat = some { x with
            base := v, moved := false, stopping := false
            cons := if x.moved = true ∨ v.extractLsb' 6 46 ≠ x.base.extractLsb' 6 46 then 0 else x.cons }) ∧
      (x.base.getLsbD 63 = false → v.extractLsb' 0 6 = 0 → v.extractLsb' 52 12 = 0 →
        Becomes (.qbaseWrite p q v) s p fun P' => P' = { P with queues := P'.queues } ∧
          Table.get? P'.queues q.toNat = some { x with
            base := v, stopping := false, moved := x.moved || decide (v.extractLsb' 6 46 ≠ x.base.extractLsb' 6 46) })) ∧
    (v.extractLsb' 0 6 ≠ 0 ∨ v.extractLsb' 52 11 ≠ 0 ∨ (x.base.getLsbD 63 = false ∧ v.getLsbD 63 = true ∧
        (x.size = 0 ∨ s.hostOrOwned P ((v.extractLsb' 6 46).toNat * 64) (64 * x.size.toNat) = false)) →
      Becomes (.qbaseWrite p q v) s p fun P' => WriteFails P P' off) ∧
    (∀ k, P.queues[k]? = some (q.toNat, x) → (P.queues.filter fun e => decide (e.1 < q.toNat)).length = k → k < 128 →
      let write (reg : Nat) : Instr := .registerWrite (.virtual p) (BitVec.ofNat 16 (off + reg)) v
      let size := (∃ j < 12, v.toNat = 2 ^ (j + 4)) ∧ x.base.getLsbD 63 = false
      let ring := v.extractLsb' 0 4 = 0 ∧ v.extractLsb' 52 12 = 0 ∧ x.base.getLsbD 63 = false
      exec (write 0) s = exec (.qbaseWrite p q v) s ∧ exec (write 16) s = exec (.qprodWrite p q v) s ∧
      (size → Becomes (write 8) s p fun P' => P' = { P with queues := P'.queues } ∧
        Table.get? P'.queues q.toNat = some { x with size := v, moved := true }) ∧
      (¬ size → Becomes (write 8) s p fun P' => WriteFails P P' (off + 8)) ∧
      (ring → Becomes (write 24) s p fun P' => P' = { P with queues := P'.queues } ∧
        Table.get? P'.queues q.toNat = some { x with cbase := v }) ∧
      (¬ ring → Becomes (write 24) s p fun P' => WriteFails P P' (off + 24))) ∧
    ((∃ e ∈ s.fw.pass, e.1 = q) → x.base.getLsbD 63 = true →
      (v = x.base &&& 0x7FFFFFFFFFFFFFFF → v.extractLsb' 0 6 = 0 → v.extractLsb' 52 12 = 0 →
        Becomes (.qbaseWrite p q v) s p fun P' => P' = { P with queues := P'.queues } ∧
          Table.get? P'.queues q.toNat = some { x with stopping := true }) ∧
      (v ≠ x.base &&& 0x7FFFFFFFFFFFFFFF → Becomes (.qbaseWrite p q v) s p fun P' => WriteFails P P' off))) ∧
  ∀ (s : State) (p : PartNo) (P : Part) (off : BitVec 16) (v : DWord), s.part? p = some P →
    (off = 0x018 → exec (.registerWrite (.virtual p) off v) s = exec (.shelfcWrite p v) s) ∧
    (off = 0x028 → exec (.registerWrite (.virtual p) off v) s = exec (.invWrite p v) s) ∧
    (off = 0x048 → exec (.registerWrite (.virtual p) off v) s = exec (.whiskWrite p v) s) ∧
    (off = 0x050 → exec (.registerWrite (.virtual p) off v) s = exec (.eggWrite p v) s) ∧
    (off = 0x500 → 1 ≤ v.toNat → v.toNat ≤ 10 → P.regs.svcBusy = none → Becomes (.registerWrite (.virtual p) off v) s p fun P' =>
      P' = { P with regs := { P.regs with svcBusy := some (v.setWidth 8) } }) ∧
    (off = 0x500 → v = 0 ∨ 10 < v.toNat ∨ P.regs.svcBusy ≠ none → Becomes (.registerWrite (.virtual p) off v) s p fun P' => WriteFails P P' 0x500) ∧
    (∀ k < 16, off.toNat = 0x100 + 8 * k → v.extractLsb' 0 16 = 0 → v.extractLsb' 56 8 = 0 →
      Becomes (.registerWrite (.virtual p) off v) s p fun P' => P' = { P with regs := { P.regs with obs := P'.regs.obs } } ∧
        Table.get? P'.regs.obs k = some (v.extractLsb' 16 40).toNat ∧
        ∀ j, j ≠ k → Table.get? P'.regs.obs j = Table.get? P.regs.obs j) ∧
    (∀ k < 16, off.toNat = 0x100 + 8 * k → v.extractLsb' 0 16 ≠ 0 ∨ v.extractLsb' 56 8 ≠ 0 →
      Becomes (.registerWrite (.virtual p) off v) s p fun P' => WriteFails P P' off.toNat) ∧
    (∀ k < 16, off.toNat = 0x400 + 8 * k → v.extractLsb' 0 18 ≠ 0 →
      Becomes (.registerWrite (.virtual p) off v) s p fun P' => WriteFails P P' off.toNat) ∧
    (∀ k < 16, off.toNat = 0x400 + 8 * k → v.extractLsb' 0 18 = 0 →
      let port := (v.extractLsb' 59 4).toNat
      (Table.get? s.portGrant port = some p.toNat → Becomes (.registerWrite (.virtual p) off v) s p fun P' =>
        P' = { P with regs := { P.regs with spw := P'.regs.spw } } ∧ Cells.get 0 P'.regs.spw k = v ∧
          ∀ j, j ≠ k → Cells.get 0 P'.regs.spw j = Cells.get 0 P.regs.spw j) ∧
      (Table.get? s.portGrant port ≠ some p.toNat →
        Becomes (.registerWrite (.virtual p) off v) s p fun P' => WriteFails P P' off.toNat)) ∧
    (∀ k < 3, off.toNat = 0x508 + 8 * k → Becomes (.registerWrite (.virtual p) off v) s p fun P' =>
      Cells.get 0 P'.regs.svcArg k = v ∧ ∀ j, j ≠ k → Cells.get 0 P'.regs.svcArg j = Cells.get 0 P.regs.svcArg j)

/-! ## The machine as a whole -/

/-- R315, R316: inside a method the instructions of a team's stores, copies, sends, barriers and calls take 0x01 with the word, whatever
their operands; a trap of the whisk group fails its batch with reason 0x01, spoils the object (SPOIL is set in its header, and FAILS
raised by one, where none of its requests is a posted one), whose queued requests are answered with 0x24 at once, and brings the group
back to its dispatch loop; without a batch no byte of memory changes.
Where these rules leave something open, this rests on the model's choice: notes/assumptions/13.md. -/
def Obligations.MethodsTrapAndFail : Prop :=
  (∀ (c : Ctx) (s : State) (i : Instr) (w : Word), Ready c s i → isWhisk c.gid = true → notInMethods i = true → encode i = some w →
    TrapsWith c i s ⟨1, w.setWidth 64⟩) ∧
  (∀ (s : State) (p : PartNo) (gid : Nat) (P : Part) (h : Home) (t : Trap), isWhisk gid = true → s.part? p = some P →
    Table.get? P.run.homes gid = some h → h.grp.settled = true → h.grp.poisons issueWords = false → s.cxlDown = [] → P.sieve.snapshot = none →
    ∃ P' h', (s.raiseTrap p gid t).part? p = some P' ∧ Table.get? P'.run.homes gid = some h' ∧ h'.batch = none ∧ h'.phase = .loop ∧
      Report.method gid h.grp.pc t ∈ P'.reports ∧ (h.batch = none → h'.queue = h.queue) ∧
      (h.batch = none → ∀ a, (s.raiseTrap p gid t).byte a = s.byte a) ∧
      (∀ b, h.batch = some b → b.pa % 64 = 0 →
        (s.raiseTrap p gid t).byte (b.pa + 61) = s.byte (b.pa + 61) ||| 0x80 ∧
        (∀ a, a ≠ b.pa + 61 → (a < b.pa + 58 ∨ b.pa + 60 ≤ a) → (s.raiseTrap p gid t).byte a = s.byte a) ∧
        ((∀ e ∈ P.run.whisks, e.2.pa = b.pa → e.2.op ≠ 0) →
          (s.raiseTrap p gid t).num (b.pa + 58) 2 = min (s.num (b.pa + 58) 2 + 1) 0xFFFF)) ∧
      ∀ b, h.batch = some b → b.reqs.Nodup → failedWith (s.raiseTrap p gid t) p b.reqs 1 s ∧
        (∀ r ∈ h.queue, (∀ w, Table.get? P.run.whisks r = some w → w.pa ≠ b.pa) → r ∈ h'.queue) ∧
        ∀ r ∈ h.queue, r ∉ b.reqs → ∀ w, Table.get? P.run.whisks r = some w → w.pa = b.pa → w.place = .queued gid →
          r ∉ h'.queue ∧ failedWith (s.raiseTrap p gid t) p [r] 0 s)

/-- The state at power-on: nothing is booted and no partition exists (R345, R348, R433); the severities of shared sources are the
defaults of R349; every die runs at its full clock (R2, R437). The measurements, the keys of the granules and the state of the links
at power-on are the model's choice (notes/assumptions/4.md), and so is the form of memory (notes/assumptions/3.md). -/
def Obligations.ResetIsPowerOn : Prop :=
  Memory.wf State.reset.mem = true ∧ State.reset.fw.booted = false ∧ State.reset.parts = [] ∧
  (∀ p, State.reset.part? p = none) ∧ (∀ k, Cells.get 0 State.reset.meas k = 0) ∧ (∀ g, Cells.get 0 State.reset.granules g = 0) ∧
  (∀ d, State.reset.clockOf d = 1100) ∧ (∀ l, State.reset.linkDead l = false) ∧ State.reset.paused = false ∧
  (∀ P src, 2 ≤ src → State.reset.action P 1 src = 1 ∧ State.reset.action P 3 src = 3 ∧ State.reset.action P 9 src = 2 ∧
    State.reset.action P 12 src = 4 ∧ State.reset.action P 14 src = 3)

/-- R40, R45, R49, R50, R68: words of the specification's worked encodings decode to the instructions they stand for; a reserved major
opcode and the word of all ones are illegal. -/
def Obligations.WorkedWordsDecode : Prop :=
  decode 0x201487D5 = .ok (.add 5 ⟨.rot, 3⟩ ⟨.idx, 0b010101⟩) ∧ decode 0x404C0282 = .ok (.ceq 2 3 ⟨.own, 1⟩ ⟨.bc, 2⟩) ∧
  decode 0x10002808 = .ok (.mode 0x2808) ∧ decode 0x06300005 = .ok (.brany 1 true 5) ∧ decode 0x53200483 =
    .ok (.fma 8 ⟨.own, 2⟩ ⟨.bc, 3⟩) ∧ decode 0x6B108064 = .ok (.saddi 2 2 100) ∧ decode 0x7D072000 = .ok (.sysrd 7 4) ∧
  decode 0x8010A302 = .ok (.ldw 4 10 3 2) ∧ decode 0x851580FF = .ok (.stw 5 24 0 0xFF) ∧ decode 0x94401000 = .ok (.sevict 8 1 0) ∧
  decode 0x9D215000 = .ok (.ckopen 4 5 1 0 false 0) ∧ decode 0xAC410513 = .ok (.ard 16 2 5 1 3) ∧
  decode 0xA5530002 = .ok (.mstep 10 12 0 2) ∧ decode 0xC04CC000 = .ok (.arv 1 3 6) ∧ decode 0xC5204132 = .ok (.sendr 8 4 1 6 2) ∧
  decode 0xD029414C = .ok (.wcall 10 20 1 1 12) ∧ decode 0xD5180002 = .ok (.wscan 6 ⟨.own, 0⟩ 2) ∧
  decode 0xFFFFFFFF = .ok (.illegalInstruction 0xFFFFFFFF) ∧ decode 0x1D000000 = .ok (.illegalInstruction 0x1D000000) ∧
  decodeBytes [0x64, 0x80, 0x10, 0x6B, 7] = .ok (.saddi 2 2 100, [7])

/-- R40, R43, R59: an instruction's word decodes to it, for every well-formed instruction with every operand; and every word that decodes
is the word of the well-formed instruction that it decodes to. -/
def Obligations.DecodeAndEncodeAgree : Prop :=
  (∀ (i : Instr) (w : Word), i.wf = true → encode i = some w → decode w = .ok i) ∧
  (∀ (w : Word) (i : Instr), decode w = .ok i → i.wf = true ∧ encode i = some w)

/-- R40, R42, R142: a step in which a group acts that may run fetches the word at its PC and is `exec` of the instruction that the word
decodes to, or takes the trap of a word that decodes to none; in a user method the return to the dispatcher is seen after it (R311); an event that is no word is `exec` of it, and an event of a unit
that is halted, as every unit of a frozen partition is (R397), leaves the state as it is. While injection is paused, a team's
instruction that reaches beyond its core waits (R413). Besides, a step counts flits (R411) and energy (R353), and after an act by which
teams may learn of each other's every core sees every write (R298, R299); it does nothing else.
Where these rules leave something open, this rests on the model's choice: notes/assumptions/1.md, 13.md, 68.md, 93.md, 117.md, 121.md. -/
def Obligations.StepRunsTheDecodedInstruction : Prop :=
  (∀ (s : State) (p : PartNo) (gid : Nat) (check : CheckResult) (rest : List Actor) (c c' : Ctx) (w : Word) (i : Instr),
    s.agenda = .group p gid check :: rest →
    ({ s with tick := s.tick + 1, agenda := rest, cur := some ⟨p, gid, check⟩ } : State).issuer = some c → c.mayAct = true →
    c.g.latched = none → c.fetch = .ok (c', w) → decode w = .ok i →
    let s0 : State := { s with tick := s.tick + 1, agenda := rest, cur := none }
    (isWhisk gid = false → step s = s0.counted (.group p gid check) (if s.paused && leavesCore i then .next c'.s else exec i c'.s)) ∧
    (∀ h, isWhisk gid = true → s.paused = false → Table.get? c.P.run.homes gid = some h → h.phase = .user → c.P.batchHeld gid = false →
      step s = s0.counted (.group p gid check) (match exec i c'.s with
        | .next t => .next (t.methodReturns p gid c.g.pc w.toNat)
        | r => r)) ∧
    c'.g = c.g ∧ c'.s.paused = s.paused ∧ w = BitVec.ofNat 32 (c'.s.num ((c.look .fetch (c.g.pc.toNat % 2 ^ 56)).pa.1) 4)) ∧
  (∀ (s : State) (p : PartNo) (gid : Nat) (check : CheckResult) (rest : List Actor) (c c' : Ctx) (w : Word) (r : Reject),
    s.agenda = .group p gid check :: rest → isWhisk gid = false →
    ({ s with tick := s.tick + 1, agenda := rest, cur := some ⟨p, gid, check⟩ } : State).issuer = some c → c.mayAct = true →
    c.g.latched = none → c.fetch = .ok (c', w) → decode w = .error r →
    step s = ({ s with tick := s.tick + 1, agenda := rest, cur := none } : State).counted (.group p gid check) (.next (rejectWord r c'.s))) ∧
  (∀ (s : State) (i : Instr) (rest : List Actor), s.agenda = .event i :: rest → encode i = none →
    let t : State := { s with tick := s.tick + 1, agenda := rest, cur := none }
    (t.halted i = false → step s = t.counted (.event i) (exec i t)) ∧ (t.halted i = true → step s = t.counted (.event i) (.next t))) ∧
  (∀ (s t : State) (a : Actor), ∃ u, s.counted a (.next t) = .next u ∧
    u = { t with parts := u.parts, energy := u.energy, late := if a.tacit then t.late else [] } ∧
    ∀ p P, t.part? p = some P → ∃ (Q : Part) (f : Nat × Team → DWord), u.part? p = some Q ∧ Q = { P with
      flit := Q.flit, spent := Q.spent, stackEnergy := Q.stackEnergy
      run := { P.run with teams := P.run.teams.map fun e => (e.1, { e.2 with energy := f e }) } }) ∧
  ∀ (s : State) (p : PartNo) (P : Part) (i : Instr), engineOf i = some p → s.part? p = some P → P.frozen = true → s.halted i = true

/-- Every step keeps the canonical form of memory, so that equal memories are equal data. The form is the model's own representation
(notes/assumptions/3.md), which no rule of the specification states. -/
def Obligations.EveryStepKeepsMemoryCanonical : Prop :=
  ∀ (s t : State), Memory.wf s.mem = true → step s = .next t → Memory.wf t.mem = true
end

