-- ==== Sys2Proof/Laws/Cells.lean ====
section
/-!
SUPPORT. The laws of tables and of sparse cells: a read after a write, and the canonical form that every operation keeps.
-/
namespace Sys2Proof.Machine

/-! ## Reads after writes -/

section
variable {α : Type}

@[simp] theorem Table.get?_nil (k : Nat) : Table.get? ([] : Table α) k = none := rfl
@[simp] theorem Table.get?_cons (k k' : Nat) (x : α) (t : Table α) :
    Table.get? ((k', x) :: t) k = if k' = k then some x else Table.get? t k := rfl

theorem Table.get?_erase (t : Table α) (k j : Nat) :
    Table.get? (Table.erase t k) j = if k = j then none else Table.get? t j := by
  induction t with
  | nil => simp [Table.erase]
  | cons e t ih =>
    obtain ⟨k', x⟩ := e
    by_cases h : k' = k <;> by_cases h' : k = j <;> by_cases h'' : k' = j <;> simp_all [Table.erase]

theorem Table.get?_place (t : Table α) (k j : Nat) (x : α) (h : Table.get? t k = none) :
    Table.get? (Table.place t k x) j = if k = j then some x else Table.get? t j := by
  induction t with
  | nil => simp [Table.place]
  | cons e t ih =>
    obtain ⟨k', y⟩ := e
    have hk : k' ≠ k := by rintro rfl; simp at h
    rw [Table.get?_cons, if_neg hk] at h
    rw [Table.place]
    split
    · rw [Table.get?_cons]
    · rw [Table.get?_cons, ih h, Table.get?_cons]
      by_cases h1 : k' = j
      · have h2 : k ≠ j := fun h3 => hk (h1.trans h3.symm)
        simp [h1, h2]
      · simp [h1]

theorem Table.get?_set (t : Table α) (k j : Nat) (x : α) :
    Table.get? (Table.set t k x) j = if k = j then some x else Table.get? t j := by
  unfold Table.set
  rw [Table.get?_place _ _ _ _ (by simp [Table.get?_erase]), Table.get?_erase]
  split <;> simp_all

@[simp] theorem Table.get?_set_same (t : Table α) (k : Nat) (x : α) : Table.get? (Table.set t k x) k = some x := by
  simp [Table.get?_set]

theorem Table.get?_modify (t : Table α) (k j : Nat) (f : α → α) :
    Table.get? (Table.modify t k f) j = if k = j then (Table.get? t j).map f else Table.get? t j := by
  induction t with
  | nil => simp [Table.modify]
  | cons e t ih =>
    obtain ⟨k', x⟩ := e
    simp only [Table.modify] at ih
    by_cases h : k' = k <;> by_cases h' : k = j <;> by_cases h'' : k' = j <;> simp_all [Table.modify]

@[simp] theorem Table.get?_modify_same (t : Table α) (k : Nat) (f : α → α) :
    Table.get? (Table.modify t k f) k = (Table.get? t k).map f := by simp [Table.get?_modify]

end

section
variable {w : Nat} (d : BitVec w)

@[simp] theorem Cells.get_nil (k : Nat) : Cells.get d [] k = d := rfl

/-- A cell that is set holds what it was set to, and no other cell changes. -/
theorem Cells.get_set (c : Cells w) (k j : Nat) (x : BitVec w) :
    Cells.get d (Cells.set d c k x) j = if k = j then x else Cells.get d c j := by
  unfold Cells.get Cells.set Table.getD
  by_cases h : x = d
  · rw [if_pos h, Table.get?_erase]
    split <;> simp_all
  · rw [if_neg h, Table.get?_set]
    split <;> simp_all

@[simp] theorem Cells.get_set_same (c : Cells w) (k : Nat) (x : BitVec w) : Cells.get d (Cells.set d c k x) k = x := by
  simp [Cells.get_set]

theorem Cells.get_set_ne (c : Cells w) (k j : Nat) (x : BitVec w) (h : k ≠ j) :
    Cells.get d (Cells.set d c k x) j = Cells.get d c j := by simp [Cells.get_set, h]

/-- Cells `k` to `k + n − 1` hold the values they were set to, and no other cell changes. -/
theorem Cells.get_setMany (xs : List (BitVec w)) (c : Cells w) (k j : Nat) :
    Cells.get d (Cells.setMany d c k xs) j = if k ≤ j then xs.getD (j - k) (Cells.get d c j) else Cells.get d c j := by
  induction xs generalizing c k with
  | nil => simp [Cells.setMany]
  | cons x xs ih =>
    rw [Cells.setMany, ih, Cells.get_set]
    rcases Nat.lt_trichotomy k j with h | h | h
    · have h1 : k + 1 ≤ j := h
      have h2 : k ≤ j := by omega
      have h3 : k ≠ j := by omega
      obtain ⟨m, rfl⟩ : ∃ m, j = k + 1 + m := ⟨j - (k + 1), by omega⟩
      have h4 : k + 1 + m - k = m + 1 := by omega
      simp [h1, h2, h3, h4]
    · subst h
      have h1 : ¬ k + 1 ≤ k := by omega
      simp [h1]
    · have h1 : ¬ k + 1 ≤ j := by omega
      have h2 : ¬ k ≤ j := by omega
      have h3 : k ≠ j := by omega
      simp [h1, h2, h3]

end

/-! ## The canonical form -/

section
variable {α : Type}

/-- Every key of the table is at least `n`. -/
theorem Table.sorted_cons (e : Nat × α) (t : Table α) :
    Table.sorted (e :: t) = true ↔ Table.sorted t = true ∧ ∀ x ∈ t, e.1 < x.1 := by
  induction t generalizing e with
  | nil => simp [Table.sorted]
  | cons b t ih =>
    simp only [Table.sorted, Bool.and_eq_true, decide_eq_true_eq]
    rw [ih]
    constructor
    · rintro ⟨h1, h2, h3⟩
      refine ⟨⟨h2, h3⟩, fun x hx => ?_⟩
      rcases List.mem_cons.1 hx with rfl | hx
      · exact h1
      · exact Nat.lt_trans h1 (h3 x hx)
    · rintro ⟨⟨h2, h3⟩, h4⟩
      exact ⟨h4 b (by simp), h2, h3⟩

theorem Table.sorted_filter (t : Table α) (f : Nat × α → Bool) (h : Table.sorted t = true) :
    Table.sorted (t.filter f) = true := by
  induction t with
  | nil => rfl
  | cons e t ih =>
    rw [Table.sorted_cons] at h
    rw [List.filter_cons]
    split
    · rw [Table.sorted_cons]
      exact ⟨ih h.1, fun x hx => h.2 x (List.mem_filter.1 hx).1⟩
    · exact ih h.1

theorem Table.erase_eq_filter (t : Table α) (k : Nat) : Table.erase t k = t.filter fun e => decide (e.1 ≠ k) := by
  induction t with
  | nil => rfl
  | cons e t ih =>
    obtain ⟨k', x⟩ := e
    by_cases h : k' = k <;> simp [Table.erase, h, ih]

theorem Table.mem_place (t : Table α) (k : Nat) (x : α) (e : Nat × α) :
    e ∈ Table.place t k x ↔ e = (k, x) ∨ e ∈ t := by
  induction t with
  | nil => simp [Table.place]
  | cons b t ih =>
    obtain ⟨k', y⟩ := b
    simp only [Table.place]
    split
    · simp
    · simp only [List.mem_cons, ih]
      exact or_left_comm

theorem Table.sorted_place (t : Table α) (k : Nat) (x : α) (h : Table.sorted t = true) (hk : ∀ e ∈ t, e.1 ≠ k) :
    Table.sorted (Table.place t k x) = true := by
  induction t with
  | nil => rfl
  | cons b t ih =>
    obtain ⟨k', y⟩ := b
    rw [Table.sorted_cons] at h
    simp only [Table.place]
    split
    · next hlt =>
      rw [Table.sorted_cons, Table.sorted_cons]
      refine ⟨h, fun e he => ?_⟩
      rcases List.mem_cons.1 he with rfl | he
      · exact hlt
      · exact Nat.lt_trans hlt (h.2 e he)
    · next hlt =>
      rw [Table.sorted_cons]
      refine ⟨ih h.1 fun e he => hk e (by simp [he]), fun e he => ?_⟩
      rcases (Table.mem_place t k x e).1 he with rfl | he
      · have := hk (k', y) (by simp)
        simp only [ne_eq] at this hlt ⊢
        omega
      · exact h.2 e he

theorem Table.sorted_erase (t : Table α) (k : Nat) (h : Table.sorted t = true) : Table.sorted (Table.erase t k) = true := by
  rw [Table.erase_eq_filter]; exact Table.sorted_filter t _ h

theorem Table.sorted_set (t : Table α) (k : Nat) (x : α) (h : Table.sorted t = true) : Table.sorted (Table.set t k x) = true := by
  refine Table.sorted_place _ _ _ (Table.sorted_erase t k h) fun e he => ?_
  rw [Table.erase_eq_filter] at he
  simpa using (List.mem_filter.1 he).2

theorem Table.sorted_modify (t : Table α) (k : Nat) (f : α → α) (h : Table.sorted t = true) :
    Table.sorted (Table.modify t k f) = true := by
  induction t with
  | nil => rfl
  | cons e t ih =>
    rw [Table.sorted_cons] at h
    have : Table.modify (e :: t) k f = (if e.1 = k then (e.1, f e.2) else e) :: Table.modify t k f := rfl
    rw [this, Table.sorted_cons]
    refine ⟨ih h.1, fun x hx => ?_⟩
    obtain ⟨y, hy, rfl⟩ := List.mem_map.1 hx
    have := h.2 y hy
    split <;> split <;> simpa using this

end

section
variable {w : Nat} (d : BitVec w)

theorem Cells.wf_nil : Cells.wf d [] = true := rfl

/-- Setting a cell keeps the canonical form. -/
theorem Cells.wf_set (c : Cells w) (k : Nat) (x : BitVec w) (h : Cells.wf d c = true) : Cells.wf d (Cells.set d c k x) = true := by
  unfold Cells.wf at h ⊢
  rw [Bool.and_eq_true, List.all_eq_true] at h ⊢
  unfold Cells.set
  split
  · refine ⟨Table.sorted_erase c k h.1, fun e he => ?_⟩
    rw [Table.erase_eq_filter] at he
    exact h.2 e (List.mem_filter.1 he).1
  · next hx =>
    refine ⟨Table.sorted_set c k x h.1, fun e he => ?_⟩
    rcases (Table.mem_place _ k x e).1 he with rfl | he
    · simpa using hx
    · rw [Table.erase_eq_filter] at he
      exact h.2 e (List.mem_filter.1 he).1

/-- Setting a run of cells keeps the canonical form. -/
theorem Cells.wf_setMany (xs : List (BitVec w)) (c : Cells w) (k : Nat) (h : Cells.wf d c = true) :
    Cells.wf d (Cells.setMany d c k xs) = true := by
  induction xs generalizing c k with
  | nil => exact h
  | cons x xs ih => exact ih _ _ (Cells.wf_set d c k x h)

/-- Setting a list of cells keeps the canonical form. -/
theorem Cells.wf_foldl {β : Type} (l : List β) (key : β → Nat) (val : β → BitVec w) (c : Cells w) (h : Cells.wf d c = true) :
    Cells.wf d (l.foldl (fun m e => Cells.set d m (key e) (val e)) c) = true := by
  induction l generalizing c with
  | nil => exact h
  | cons e l ih => exact ih _ (Cells.wf_set d c _ _ h)

theorem Cells.wf_clear (c : Cells w) (lo hi : Nat) (h : Cells.wf d c = true) : Cells.wf d (Cells.clear c lo hi) = true := by
  unfold Cells.wf at h ⊢
  rw [Bool.and_eq_true, List.all_eq_true] at h ⊢
  exact ⟨Table.sorted_filter c _ h.1, fun e he => h.2 e (List.mem_filter.1 he).1⟩

end

end Sys2Proof.Machine
end

