-- ==== Sys2Proof/Laws/State.lean ====
section
/-!
SUPPORT. The fields of a state, a partition, and a group after each shared update, one lemma per field.
-/
namespace Sys2Proof.Machine

@[simp] theorem Group.setV_v (g : Group) (r lane : Nat) (x : Word) : (Group.setV g r lane x).v = Cells.set 0 g.v (32 * r + lane) x := rfl
@[simp] theorem Group.setV_xi (g : Group) (r lane : Nat) (x : Word) : (Group.setV g r lane x).xi = g.xi := rfl
@[simp] theorem Group.setV_xlo (g : Group) (r lane : Nat) (x : Word) : (Group.setV g r lane x).xlo = g.xlo := rfl
@[simp] theorem Group.setV_xhi (g : Group) (r lane : Nat) (x : Word) : (Group.setV g r lane x).xhi = g.xhi := rfl
@[simp] theorem Group.setV_q (g : Group) (r lane : Nat) (x : Word) : (Group.setV g r lane x).q = g.q := rfl
@[simp] theorem Group.setV_s (g : Group) (r lane : Nat) (x : Word) : (Group.setV g r lane x).s = g.s := rfl
@[simp] theorem Group.setV_pc (g : Group) (r lane : Nat) (x : Word) : (Group.setV g r lane x).pc = g.pc := rfl
@[simp] theorem Group.setV_em (g : Group) (r lane : Nat) (x : Word) : (Group.setV g r lane x).em = g.em := rfl
@[simp] theorem Group.setV_stack (g : Group) (r lane : Nat) (x : Word) : (Group.setV g r lane x).stack = g.stack := rfl
@[simp] theorem Group.setV_mode (g : Group) (r lane : Nat) (x : Word) : (Group.setV g r lane x).mode = g.mode := rfl
@[simp] theorem Group.setV_perm (g : Group) (r lane : Nat) (x : Word) : (Group.setV g r lane x).perm = g.perm := rfl
@[simp] theorem Group.setV_stat (g : Group) (r lane : Nat) (x : Word) : (Group.setV g r lane x).stat = g.stat := rfl
@[simp] theorem Group.setV_seed (g : Group) (r lane : Nat) (x : Word) : (Group.setV g r lane x).seed = g.seed := rfl
@[simp] theorem Group.setV_ctr (g : Group) (r lane : Nat) (x : Word) : (Group.setV g r lane x).ctr = g.ctr := rfl
@[simp] theorem Group.setV_nanct (g : Group) (r lane : Nat) (x : Word) : (Group.setV g r lane x).nanct = g.nanct := rfl
@[simp] theorem Group.setV_tvec (g : Group) (r lane : Nat) (x : Word) : (Group.setV g r lane x).tvec = g.tvec := rfl
@[simp] theorem Group.setV_tpc (g : Group) (r lane : Nat) (x : Word) : (Group.setV g r lane x).tpc = g.tpc := rfl
@[simp] theorem Group.setV_tcause (g : Group) (r lane : Nat) (x : Word) : (Group.setV g r lane x).tcause = g.tcause := rfl
@[simp] theorem Group.setV_tinfo (g : Group) (r lane : Nat) (x : Word) : (Group.setV g r lane x).tinfo = g.tinfo := rfl
@[simp] theorem Group.setV_tmode (g : Group) (r lane : Nat) (x : Word) : (Group.setV g r lane x).tmode = g.tmode := rfl
@[simp] theorem Group.setV_tem (g : Group) (r lane : Nat) (x : Word) : (Group.setV g r lane x).tem = g.tem := rfl
@[simp] theorem Group.setV_inTrap (g : Group) (r lane : Nat) (x : Word) : (Group.setV g r lane x).inTrap = g.inTrap := rfl
@[simp] theorem Group.setV_retired (g : Group) (r lane : Nat) (x : Word) : (Group.setV g r lane x).retired = g.retired := rfl
@[simp] theorem Group.setV_chooseN (g : Group) (r lane : Nat) (x : Word) : (Group.setV g r lane x).chooseN = g.chooseN := rfl
@[simp] theorem Group.setV_run (g : Group) (r lane : Nat) (x : Word) : (Group.setV g r lane x).run = g.run := rfl
@[simp] theorem Group.setV_windows (g : Group) (r lane : Nat) (x : Word) : (Group.setV g r lane x).windows = g.windows := rfl
@[simp] theorem Group.setV_inflight (g : Group) (r lane : Nat) (x : Word) : (Group.setV g r lane x).inflight = g.inflight := rfl
@[simp] theorem Group.setV_held (g : Group) (r lane : Nat) (x : Word) : (Group.setV g r lane x).held = g.held := rfl
@[simp] theorem Group.setV_latched (g : Group) (r lane : Nat) (x : Word) : (Group.setV g r lane x).latched = g.latched := rfl
@[simp] theorem Group.setV_wait (g : Group) (r lane : Nat) (x : Word) : (Group.setV g r lane x).wait = g.wait := rfl
@[simp] theorem Group.setV_stage (g : Group) (r lane : Nat) (x : Word) : (Group.setV g r lane x).stage = g.stage := rfl
@[simp] theorem Group.setV_closed (g : Group) (r lane : Nat) (x : Word) : (Group.setV g r lane x).closed = g.closed := rfl
@[simp] theorem Group.setV_complete (g : Group) (r lane : Nat) (x : Word) : (Group.setV g r lane x).complete = g.complete := rfl
@[simp] theorem Group.setV_nans (g : Group) (r lane : Nat) (x : Word) : (Group.setV g r lane x).nans = g.nans := rfl
@[simp] theorem Group.setV_vpoison (g : Group) (r lane : Nat) (x : Word) : (Group.setV g r lane x).vpoison = g.vpoison := rfl
@[simp] theorem Group.setV_cpoison (g : Group) (r lane : Nat) (x : Word) : (Group.setV g r lane x).cpoison = g.cpoison := rfl

@[simp] theorem Group.setPair_xi (g : Group) (r lane : Nat) (x : DWord) : (Group.setPair g r lane x).xi = g.xi := rfl
@[simp] theorem Group.setPair_xlo (g : Group) (r lane : Nat) (x : DWord) : (Group.setPair g r lane x).xlo = g.xlo := rfl
@[simp] theorem Group.setPair_xhi (g : Group) (r lane : Nat) (x : DWord) : (Group.setPair g r lane x).xhi = g.xhi := rfl
@[simp] theorem Group.setPair_q (g : Group) (r lane : Nat) (x : DWord) : (Group.setPair g r lane x).q = g.q := rfl
@[simp] theorem Group.setPair_s (g : Group) (r lane : Nat) (x : DWord) : (Group.setPair g r lane x).s = g.s := rfl
@[simp] theorem Group.setPair_pc (g : Group) (r lane : Nat) (x : DWord) : (Group.setPair g r lane x).pc = g.pc := rfl
@[simp] theorem Group.setPair_em (g : Group) (r lane : Nat) (x : DWord) : (Group.setPair g r lane x).em = g.em := rfl
@[simp] theorem Group.setPair_stack (g : Group) (r lane : Nat) (x : DWord) : (Group.setPair g r lane x).stack = g.stack := rfl
@[simp] theorem Group.setPair_mode (g : Group) (r lane : Nat) (x : DWord) : (Group.setPair g r lane x).mode = g.mode := rfl
@[simp] theorem Group.setPair_perm (g : Group) (r lane : Nat) (x : DWord) : (Group.setPair g r lane x).perm = g.perm := rfl
@[simp] theorem Group.setPair_stat (g : Group) (r lane : Nat) (x : DWord) : (Group.setPair g r lane x).stat = g.stat := rfl
@[simp] theorem Group.setPair_seed (g : Group) (r lane : Nat) (x : DWord) : (Group.setPair g r lane x).seed = g.seed := rfl
@[simp] theorem Group.setPair_ctr (g : Group) (r lane : Nat) (x : DWord) : (Group.setPair g r lane x).ctr = g.ctr := rfl
@[simp] theorem Group.setPair_nanct (g : Group) (r lane : Nat) (x : DWord) : (Group.setPair g r lane x).nanct = g.nanct := rfl
@[simp] theorem Group.setPair_tvec (g : Group) (r lane : Nat) (x : DWord) : (Group.setPair g r lane x).tvec = g.tvec := rfl
@[simp] theorem Group.setPair_tpc (g : Group) (r lane : Nat) (x : DWord) : (Group.setPair g r lane x).tpc = g.tpc := rfl
@[simp] theorem Group.setPair_tcause (g : Group) (r lane : Nat) (x : DWord) : (Group.setPair g r lane x).tcause = g.tcause := rfl
@[simp] theorem Group.setPair_tinfo (g : Group) (r lane : Nat) (x : DWord) : (Group.setPair g r lane x).tinfo = g.tinfo := rfl
@[simp] theorem Group.setPair_tmode (g : Group) (r lane : Nat) (x : DWord) : (Group.setPair g r lane x).tmode = g.tmode := rfl
@[simp] theorem Group.setPair_tem (g : Group) (r lane : Nat) (x : DWord) : (Group.setPair g r lane x).tem = g.tem := rfl
@[simp] theorem Group.setPair_inTrap (g : Group) (r lane : Nat) (x : DWord) : (Group.setPair g r lane x).inTrap = g.inTrap := rfl
@[simp] theorem Group.setPair_retired (g : Group) (r lane : Nat) (x : DWord) : (Group.setPair g r lane x).retired = g.retired := rfl
@[simp] theorem Group.setPair_chooseN (g : Group) (r lane : Nat) (x : DWord) : (Group.setPair g r lane x).chooseN = g.chooseN := rfl
@[simp] theorem Group.setPair_run (g : Group) (r lane : Nat) (x : DWord) : (Group.setPair g r lane x).run = g.run := rfl
@[simp] theorem Group.setPair_windows (g : Group) (r lane : Nat) (x : DWord) : (Group.setPair g r lane x).windows = g.windows := rfl
@[simp] theorem Group.setPair_inflight (g : Group) (r lane : Nat) (x : DWord) : (Group.setPair g r lane x).inflight = g.inflight := rfl
@[simp] theorem Group.setPair_held (g : Group) (r lane : Nat) (x : DWord) : (Group.setPair g r lane x).held = g.held := rfl
@[simp] theorem Group.setPair_latched (g : Group) (r lane : Nat) (x : DWord) : (Group.setPair g r lane x).latched = g.latched := rfl
@[simp] theorem Group.setPair_wait (g : Group) (r lane : Nat) (x : DWord) : (Group.setPair g r lane x).wait = g.wait := rfl
@[simp] theorem Group.setPair_stage (g : Group) (r lane : Nat) (x : DWord) : (Group.setPair g r lane x).stage = g.stage := rfl
@[simp] theorem Group.setPair_closed (g : Group) (r lane : Nat) (x : DWord) : (Group.setPair g r lane x).closed = g.closed := rfl
@[simp] theorem Group.setPair_complete (g : Group) (r lane : Nat) (x : DWord) : (Group.setPair g r lane x).complete = g.complete := rfl
@[simp] theorem Group.setPair_nans (g : Group) (r lane : Nat) (x : DWord) : (Group.setPair g r lane x).nans = g.nans := rfl
@[simp] theorem Group.setPair_vpoison (g : Group) (r lane : Nat) (x : DWord) : (Group.setPair g r lane x).vpoison = g.vpoison := rfl
@[simp] theorem Group.setPair_cpoison (g : Group) (r lane : Nat) (x : DWord) : (Group.setPair g r lane x).cpoison = g.cpoison := rfl

@[simp] theorem Group.setS_v (g : Group) (r : SReg) (x : DWord) : (Group.setS g r x).v = g.v := rfl
@[simp] theorem Group.setS_xi (g : Group) (r : SReg) (x : DWord) : (Group.setS g r x).xi = g.xi := rfl
@[simp] theorem Group.setS_xlo (g : Group) (r : SReg) (x : DWord) : (Group.setS g r x).xlo = g.xlo := rfl
@[simp] theorem Group.setS_xhi (g : Group) (r : SReg) (x : DWord) : (Group.setS g r x).xhi = g.xhi := rfl
@[simp] theorem Group.setS_q (g : Group) (r : SReg) (x : DWord) : (Group.setS g r x).q = g.q := rfl
@[simp] theorem Group.setS_s (g : Group) (r : SReg) (x : DWord) : (Group.setS g r x).s = Cells.set 0 g.s r.toNat x := rfl
@[simp] theorem Group.setS_pc (g : Group) (r : SReg) (x : DWord) : (Group.setS g r x).pc = g.pc := rfl
@[simp] theorem Group.setS_em (g : Group) (r : SReg) (x : DWord) : (Group.setS g r x).em = g.em := rfl
@[simp] theorem Group.setS_stack (g : Group) (r : SReg) (x : DWord) : (Group.setS g r x).stack = g.stack := rfl
@[simp] theorem Group.setS_mode (g : Group) (r : SReg) (x : DWord) : (Group.setS g r x).mode = g.mode := rfl
@[simp] theorem Group.setS_perm (g : Group) (r : SReg) (x : DWord) : (Group.setS g r x).perm = g.perm := rfl
@[simp] theorem Group.setS_stat (g : Group) (r : SReg) (x : DWord) : (Group.setS g r x).stat = g.stat := rfl
@[simp] theorem Group.setS_seed (g : Group) (r : SReg) (x : DWord) : (Group.setS g r x).seed = g.seed := rfl
@[simp] theorem Group.setS_ctr (g : Group) (r : SReg) (x : DWord) : (Group.setS g r x).ctr = g.ctr := rfl
@[simp] theorem Group.setS_nanct (g : Group) (r : SReg) (x : DWord) : (Group.setS g r x).nanct = g.nanct := rfl
@[simp] theorem Group.setS_tvec (g : Group) (r : SReg) (x : DWord) : (Group.setS g r x).tvec = g.tvec := rfl
@[simp] theorem Group.setS_tpc (g : Group) (r : SReg) (x : DWord) : (Group.setS g r x).tpc = g.tpc := rfl
@[simp] theorem Group.setS_tcause (g : Group) (r : SReg) (x : DWord) : (Group.setS g r x).tcause = g.tcause := rfl
@[simp] theorem Group.setS_tinfo (g : Group) (r : SReg) (x : DWord) : (Group.setS g r x).tinfo = g.tinfo := rfl
@[simp] theorem Group.setS_tmode (g : Group) (r : SReg) (x : DWord) : (Group.setS g r x).tmode = g.tmode := rfl
@[simp] theorem Group.setS_tem (g : Group) (r : SReg) (x : DWord) : (Group.setS g r x).tem = g.tem := rfl
@[simp] theorem Group.setS_inTrap (g : Group) (r : SReg) (x : DWord) : (Group.setS g r x).inTrap = g.inTrap := rfl
@[simp] theorem Group.setS_retired (g : Group) (r : SReg) (x : DWord) : (Group.setS g r x).retired = g.retired := rfl
@[simp] theorem Group.setS_chooseN (g : Group) (r : SReg) (x : DWord) : (Group.setS g r x).chooseN = g.chooseN := rfl
@[simp] theorem Group.setS_run (g : Group) (r : SReg) (x : DWord) : (Group.setS g r x).run = g.run := rfl
@[simp] theorem Group.setS_windows (g : Group) (r : SReg) (x : DWord) : (Group.setS g r x).windows = g.windows := rfl
@[simp] theorem Group.setS_inflight (g : Group) (r : SReg) (x : DWord) : (Group.setS g r x).inflight = g.inflight := rfl
@[simp] theorem Group.setS_held (g : Group) (r : SReg) (x : DWord) : (Group.setS g r x).held = g.held := rfl
@[simp] theorem Group.setS_latched (g : Group) (r : SReg) (x : DWord) : (Group.setS g r x).latched = g.latched := rfl
@[simp] theorem Group.setS_wait (g : Group) (r : SReg) (x : DWord) : (Group.setS g r x).wait = g.wait := rfl
@[simp] theorem Group.setS_stage (g : Group) (r : SReg) (x : DWord) : (Group.setS g r x).stage = g.stage := rfl
@[simp] theorem Group.setS_closed (g : Group) (r : SReg) (x : DWord) : (Group.setS g r x).closed = g.closed := rfl
@[simp] theorem Group.setS_complete (g : Group) (r : SReg) (x : DWord) : (Group.setS g r x).complete = g.complete := rfl
@[simp] theorem Group.setS_nans (g : Group) (r : SReg) (x : DWord) : (Group.setS g r x).nans = g.nans := rfl
@[simp] theorem Group.setS_vpoison (g : Group) (r : SReg) (x : DWord) : (Group.setS g r x).vpoison = g.vpoison := rfl
@[simp] theorem Group.setS_cpoison (g : Group) (r : SReg) (x : DWord) : (Group.setS g r x).cpoison = removeNum g.cpoison r.toNat := rfl

@[simp] theorem Group.setPreds_v (g : Group) (k : Nat) (x : Word) : (Group.setPreds g k x).v = g.v := rfl
@[simp] theorem Group.setPreds_xi (g : Group) (k : Nat) (x : Word) : (Group.setPreds g k x).xi = g.xi := rfl
@[simp] theorem Group.setPreds_xlo (g : Group) (k : Nat) (x : Word) : (Group.setPreds g k x).xlo = g.xlo := rfl
@[simp] theorem Group.setPreds_xhi (g : Group) (k : Nat) (x : Word) : (Group.setPreds g k x).xhi = g.xhi := rfl
@[simp] theorem Group.setPreds_q (g : Group) (k : Nat) (x : Word) : (Group.setPreds g k x).q = Cells.set 0 g.q k x := rfl
@[simp] theorem Group.setPreds_s (g : Group) (k : Nat) (x : Word) : (Group.setPreds g k x).s = g.s := rfl
@[simp] theorem Group.setPreds_pc (g : Group) (k : Nat) (x : Word) : (Group.setPreds g k x).pc = g.pc := rfl
@[simp] theorem Group.setPreds_em (g : Group) (k : Nat) (x : Word) : (Group.setPreds g k x).em = g.em := rfl
@[simp] theorem Group.setPreds_stack (g : Group) (k : Nat) (x : Word) : (Group.setPreds g k x).stack = g.stack := rfl
@[simp] theorem Group.setPreds_mode (g : Group) (k : Nat) (x : Word) : (Group.setPreds g k x).mode = g.mode := rfl
@[simp] theorem Group.setPreds_perm (g : Group) (k : Nat) (x : Word) : (Group.setPreds g k x).perm = g.perm := rfl
@[simp] theorem Group.setPreds_stat (g : Group) (k : Nat) (x : Word) : (Group.setPreds g k x).stat = g.stat := rfl
@[simp] theorem Group.setPreds_seed (g : Group) (k : Nat) (x : Word) : (Group.setPreds g k x).seed = g.seed := rfl
@[simp] theorem Group.setPreds_ctr (g : Group) (k : Nat) (x : Word) : (Group.setPreds g k x).ctr = g.ctr := rfl
@[simp] theorem Group.setPreds_nanct (g : Group) (k : Nat) (x : Word) : (Group.setPreds g k x).nanct = g.nanct := rfl
@[simp] theorem Group.setPreds_tvec (g : Group) (k : Nat) (x : Word) : (Group.setPreds g k x).tvec = g.tvec := rfl
@[simp] theorem Group.setPreds_tpc (g : Group) (k : Nat) (x : Word) : (Group.setPreds g k x).tpc = g.tpc := rfl
@[simp] theorem Group.setPreds_tcause (g : Group) (k : Nat) (x : Word) : (Group.setPreds g k x).tcause = g.tcause := rfl
@[simp] theorem Group.setPreds_tinfo (g : Group) (k : Nat) (x : Word) : (Group.setPreds g k x).tinfo = g.tinfo := rfl
@[simp] theorem Group.setPreds_tmode (g : Group) (k : Nat) (x : Word) : (Group.setPreds g k x).tmode = g.tmode := rfl
@[simp] theorem Group.setPreds_tem (g : Group) (k : Nat) (x : Word) : (Group.setPreds g k x).tem = g.tem := rfl
@[simp] theorem Group.setPreds_inTrap (g : Group) (k : Nat) (x : Word) : (Group.setPreds g k x).inTrap = g.inTrap := rfl
@[simp] theorem Group.setPreds_retired (g : Group) (k : Nat) (x : Word) : (Group.setPreds g k x).retired = g.retired := rfl
@[simp] theorem Group.setPreds_chooseN (g : Group) (k : Nat) (x : Word) : (Group.setPreds g k x).chooseN = g.chooseN := rfl
@[simp] theorem Group.setPreds_run (g : Group) (k : Nat) (x : Word) : (Group.setPreds g k x).run = g.run := rfl
@[simp] theorem Group.setPreds_windows (g : Group) (k : Nat) (x : Word) : (Group.setPreds g k x).windows = g.windows := rfl
@[simp] theorem Group.setPreds_inflight (g : Group) (k : Nat) (x : Word) : (Group.setPreds g k x).inflight = g.inflight := rfl
@[simp] theorem Group.setPreds_held (g : Group) (k : Nat) (x : Word) : (Group.setPreds g k x).held = g.held := rfl
@[simp] theorem Group.setPreds_latched (g : Group) (k : Nat) (x : Word) : (Group.setPreds g k x).latched = g.latched := rfl
@[simp] theorem Group.setPreds_wait (g : Group) (k : Nat) (x : Word) : (Group.setPreds g k x).wait = g.wait := rfl
@[simp] theorem Group.setPreds_stage (g : Group) (k : Nat) (x : Word) : (Group.setPreds g k x).stage = g.stage := rfl
@[simp] theorem Group.setPreds_closed (g : Group) (k : Nat) (x : Word) : (Group.setPreds g k x).closed = g.closed := rfl
@[simp] theorem Group.setPreds_complete (g : Group) (k : Nat) (x : Word) : (Group.setPreds g k x).complete = g.complete := rfl
@[simp] theorem Group.setPreds_nans (g : Group) (k : Nat) (x : Word) : (Group.setPreds g k x).nans = g.nans := rfl
@[simp] theorem Group.setPreds_vpoison (g : Group) (k : Nat) (x : Word) : (Group.setPreds g k x).vpoison = g.vpoison := rfl
@[simp] theorem Group.setPreds_cpoison (g : Group) (k : Nat) (x : Word) : (Group.setPreds g k x).cpoison = g.cpoison := rfl

@[simp] theorem Group.setFlags_v (g : Group) (f : Nat) : (Group.setFlags g f).v = g.v := rfl
@[simp] theorem Group.setFlags_xi (g : Group) (f : Nat) : (Group.setFlags g f).xi = g.xi := rfl
@[simp] theorem Group.setFlags_xlo (g : Group) (f : Nat) : (Group.setFlags g f).xlo = g.xlo := rfl
@[simp] theorem Group.setFlags_xhi (g : Group) (f : Nat) : (Group.setFlags g f).xhi = g.xhi := rfl
@[simp] theorem Group.setFlags_q (g : Group) (f : Nat) : (Group.setFlags g f).q = g.q := rfl
@[simp] theorem Group.setFlags_s (g : Group) (f : Nat) : (Group.setFlags g f).s = g.s := rfl
@[simp] theorem Group.setFlags_pc (g : Group) (f : Nat) : (Group.setFlags g f).pc = g.pc := rfl
@[simp] theorem Group.setFlags_em (g : Group) (f : Nat) : (Group.setFlags g f).em = g.em := rfl
@[simp] theorem Group.setFlags_stack (g : Group) (f : Nat) : (Group.setFlags g f).stack = g.stack := rfl
@[simp] theorem Group.setFlags_mode (g : Group) (f : Nat) : (Group.setFlags g f).mode = g.mode := rfl
@[simp] theorem Group.setFlags_perm (g : Group) (f : Nat) : (Group.setFlags g f).perm = g.perm := rfl
@[simp] theorem Group.setFlags_stat (g : Group) (f : Nat) : (Group.setFlags g f).stat = g.stat ||| BitVec.ofNat 32 f := rfl
@[simp] theorem Group.setFlags_seed (g : Group) (f : Nat) : (Group.setFlags g f).seed = g.seed := rfl
@[simp] theorem Group.setFlags_ctr (g : Group) (f : Nat) : (Group.setFlags g f).ctr = g.ctr := rfl
@[simp] theorem Group.setFlags_nanct (g : Group) (f : Nat) : (Group.setFlags g f).nanct = g.nanct := rfl
@[simp] theorem Group.setFlags_tvec (g : Group) (f : Nat) : (Group.setFlags g f).tvec = g.tvec := rfl
@[simp] theorem Group.setFlags_tpc (g : Group) (f : Nat) : (Group.setFlags g f).tpc = g.tpc := rfl
@[simp] theorem Group.setFlags_tcause (g : Group) (f : Nat) : (Group.setFlags g f).tcause = g.tcause := rfl
@[simp] theorem Group.setFlags_tinfo (g : Group) (f : Nat) : (Group.setFlags g f).tinfo = g.tinfo := rfl
@[simp] theorem Group.setFlags_tmode (g : Group) (f : Nat) : (Group.setFlags g f).tmode = g.tmode := rfl
@[simp] theorem Group.setFlags_tem (g : Group) (f : Nat) : (Group.setFlags g f).tem = g.tem := rfl
@[simp] theorem Group.setFlags_inTrap (g : Group) (f : Nat) : (Group.setFlags g f).inTrap = g.inTrap := rfl
@[simp] theorem Group.setFlags_retired (g : Group) (f : Nat) : (Group.setFlags g f).retired = g.retired := rfl
@[simp] theorem Group.setFlags_chooseN (g : Group) (f : Nat) : (Group.setFlags g f).chooseN = g.chooseN := rfl
@[simp] theorem Group.setFlags_run (g : Group) (f : Nat) : (Group.setFlags g f).run = g.run := rfl
@[simp] theorem Group.setFlags_windows (g : Group) (f : Nat) : (Group.setFlags g f).windows = g.windows := rfl
@[simp] theorem Group.setFlags_inflight (g : Group) (f : Nat) : (Group.setFlags g f).inflight = g.inflight := rfl
@[simp] theorem Group.setFlags_held (g : Group) (f : Nat) : (Group.setFlags g f).held = g.held := rfl
@[simp] theorem Group.setFlags_latched (g : Group) (f : Nat) : (Group.setFlags g f).latched = g.latched := rfl
@[simp] theorem Group.setFlags_wait (g : Group) (f : Nat) : (Group.setFlags g f).wait = g.wait := rfl
@[simp] theorem Group.setFlags_stage (g : Group) (f : Nat) : (Group.setFlags g f).stage = g.stage := rfl
@[simp] theorem Group.setFlags_closed (g : Group) (f : Nat) : (Group.setFlags g f).closed = g.closed := rfl
@[simp] theorem Group.setFlags_complete (g : Group) (f : Nat) : (Group.setFlags g f).complete = g.complete := rfl
@[simp] theorem Group.setFlags_nans (g : Group) (f : Nat) : (Group.setFlags g f).nans = g.nans := rfl
@[simp] theorem Group.setFlags_vpoison (g : Group) (f : Nat) : (Group.setFlags g f).vpoison = g.vpoison := rfl
@[simp] theorem Group.setFlags_cpoison (g : Group) (f : Nat) : (Group.setFlags g f).cpoison = g.cpoison := rfl

@[simp] theorem Group.raise_v (g : Group) (p : Path) (op : Nat) : (Group.raise g p op).v = g.v := rfl
@[simp] theorem Group.raise_xi (g : Group) (p : Path) (op : Nat) : (Group.raise g p op).xi = g.xi := rfl
@[simp] theorem Group.raise_xlo (g : Group) (p : Path) (op : Nat) : (Group.raise g p op).xlo = g.xlo := rfl
@[simp] theorem Group.raise_xhi (g : Group) (p : Path) (op : Nat) : (Group.raise g p op).xhi = g.xhi := rfl
@[simp] theorem Group.raise_q (g : Group) (p : Path) (op : Nat) : (Group.raise g p op).q = g.q := rfl
@[simp] theorem Group.raise_s (g : Group) (p : Path) (op : Nat) : (Group.raise g p op).s = g.s := rfl
@[simp] theorem Group.raise_pc (g : Group) (p : Path) (op : Nat) : (Group.raise g p op).pc = g.pc := rfl
@[simp] theorem Group.raise_em (g : Group) (p : Path) (op : Nat) : (Group.raise g p op).em = g.em := rfl
@[simp] theorem Group.raise_stack (g : Group) (p : Path) (op : Nat) : (Group.raise g p op).stack = g.stack := rfl
@[simp] theorem Group.raise_mode (g : Group) (p : Path) (op : Nat) : (Group.raise g p op).mode = g.mode := rfl
@[simp] theorem Group.raise_perm (g : Group) (p : Path) (op : Nat) : (Group.raise g p op).perm = g.perm := rfl
@[simp] theorem Group.raise_stat (g : Group) (p : Path) (op : Nat) : (Group.raise g p op).stat = g.stat := rfl
@[simp] theorem Group.raise_seed (g : Group) (p : Path) (op : Nat) : (Group.raise g p op).seed = g.seed := rfl
@[simp] theorem Group.raise_ctr (g : Group) (p : Path) (op : Nat) : (Group.raise g p op).ctr = g.ctr := rfl
@[simp] theorem Group.raise_nanct (g : Group) (p : Path) (op : Nat) : (Group.raise g p op).nanct = g.nanct := rfl
@[simp] theorem Group.raise_tvec (g : Group) (p : Path) (op : Nat) : (Group.raise g p op).tvec = g.tvec := rfl
@[simp] theorem Group.raise_tpc (g : Group) (p : Path) (op : Nat) : (Group.raise g p op).tpc = g.tpc := rfl
@[simp] theorem Group.raise_tcause (g : Group) (p : Path) (op : Nat) : (Group.raise g p op).tcause = g.tcause := rfl
@[simp] theorem Group.raise_tinfo (g : Group) (p : Path) (op : Nat) : (Group.raise g p op).tinfo = g.tinfo := rfl
@[simp] theorem Group.raise_tmode (g : Group) (p : Path) (op : Nat) : (Group.raise g p op).tmode = g.tmode := rfl
@[simp] theorem Group.raise_tem (g : Group) (p : Path) (op : Nat) : (Group.raise g p op).tem = g.tem := rfl
@[simp] theorem Group.raise_inTrap (g : Group) (p : Path) (op : Nat) : (Group.raise g p op).inTrap = g.inTrap := rfl
@[simp] theorem Group.raise_retired (g : Group) (p : Path) (op : Nat) : (Group.raise g p op).retired = g.retired := rfl
@[simp] theorem Group.raise_chooseN (g : Group) (p : Path) (op : Nat) : (Group.raise g p op).chooseN = g.chooseN := rfl
@[simp] theorem Group.raise_run (g : Group) (p : Path) (op : Nat) : (Group.raise g p op).run = g.run := rfl
@[simp] theorem Group.raise_windows (g : Group) (p : Path) (op : Nat) : (Group.raise g p op).windows = g.windows := rfl
@[simp] theorem Group.raise_inflight (g : Group) (p : Path) (op : Nat) : (Group.raise g p op).inflight = g.inflight ++ [⟨op, p, false⟩] := rfl
@[simp] theorem Group.raise_held (g : Group) (p : Path) (op : Nat) : (Group.raise g p op).held = g.held := rfl
@[simp] theorem Group.raise_latched (g : Group) (p : Path) (op : Nat) : (Group.raise g p op).latched = g.latched := rfl
@[simp] theorem Group.raise_wait (g : Group) (p : Path) (op : Nat) : (Group.raise g p op).wait = g.wait := rfl
@[simp] theorem Group.raise_stage (g : Group) (p : Path) (op : Nat) : (Group.raise g p op).stage = g.stage := rfl
@[simp] theorem Group.raise_closed (g : Group) (p : Path) (op : Nat) : (Group.raise g p op).closed = g.closed := rfl
@[simp] theorem Group.raise_complete (g : Group) (p : Path) (op : Nat) : (Group.raise g p op).complete = g.complete := rfl
@[simp] theorem Group.raise_nans (g : Group) (p : Path) (op : Nat) : (Group.raise g p op).nans = g.nans := rfl
@[simp] theorem Group.raise_vpoison (g : Group) (p : Path) (op : Nat) : (Group.raise g p op).vpoison = g.vpoison := rfl
@[simp] theorem Group.raise_cpoison (g : Group) (p : Path) (op : Nat) : (Group.raise g p op).cpoison = g.cpoison := rfl

@[simp] theorem Group.open_v (g : Group) (la : La) (done : Bool) (vs ss : List Nat) (op : Nat) : (Group.open g la done vs ss op).v = g.v := rfl
@[simp] theorem Group.open_xi (g : Group) (la : La) (done : Bool) (vs ss : List Nat) (op : Nat) : (Group.open g la done vs ss op).xi = g.xi := rfl
@[simp] theorem Group.open_xlo (g : Group) (la : La) (done : Bool) (vs ss : List Nat) (op : Nat) : (Group.open g la done vs ss op).xlo = g.xlo := rfl
@[simp] theorem Group.open_xhi (g : Group) (la : La) (done : Bool) (vs ss : List Nat) (op : Nat) : (Group.open g la done vs ss op).xhi = g.xhi := rfl
@[simp] theorem Group.open_q (g : Group) (la : La) (done : Bool) (vs ss : List Nat) (op : Nat) : (Group.open g la done vs ss op).q = g.q := rfl
@[simp] theorem Group.open_s (g : Group) (la : La) (done : Bool) (vs ss : List Nat) (op : Nat) : (Group.open g la done vs ss op).s = g.s := rfl
@[simp] theorem Group.open_pc (g : Group) (la : La) (done : Bool) (vs ss : List Nat) (op : Nat) : (Group.open g la done vs ss op).pc = g.pc := rfl
@[simp] theorem Group.open_em (g : Group) (la : La) (done : Bool) (vs ss : List Nat) (op : Nat) : (Group.open g la done vs ss op).em = g.em := rfl
@[simp] theorem Group.open_stack (g : Group) (la : La) (done : Bool) (vs ss : List Nat) (op : Nat) : (Group.open g la done vs ss op).stack = g.stack := rfl
@[simp] theorem Group.open_mode (g : Group) (la : La) (done : Bool) (vs ss : List Nat) (op : Nat) : (Group.open g la done vs ss op).mode = g.mode := rfl
@[simp] theorem Group.open_perm (g : Group) (la : La) (done : Bool) (vs ss : List Nat) (op : Nat) : (Group.open g la done vs ss op).perm = g.perm := rfl
@[simp] theorem Group.open_stat (g : Group) (la : La) (done : Bool) (vs ss : List Nat) (op : Nat) : (Group.open g la done vs ss op).stat = g.stat := rfl
@[simp] theorem Group.open_seed (g : Group) (la : La) (done : Bool) (vs ss : List Nat) (op : Nat) : (Group.open g la done vs ss op).seed = g.seed := rfl
@[simp] theorem Group.open_ctr (g : Group) (la : La) (done : Bool) (vs ss : List Nat) (op : Nat) : (Group.open g la done vs ss op).ctr = g.ctr := rfl
@[simp] theorem Group.open_nanct (g : Group) (la : La) (done : Bool) (vs ss : List Nat) (op : Nat) : (Group.open g la done vs ss op).nanct = g.nanct := rfl
@[simp] theorem Group.open_tvec (g : Group) (la : La) (done : Bool) (vs ss : List Nat) (op : Nat) : (Group.open g la done vs ss op).tvec = g.tvec := rfl
@[simp] theorem Group.open_tpc (g : Group) (la : La) (done : Bool) (vs ss : List Nat) (op : Nat) : (Group.open g la done vs ss op).tpc = g.tpc := rfl
@[simp] theorem Group.open_tcause (g : Group) (la : La) (done : Bool) (vs ss : List Nat) (op : Nat) : (Group.open g la done vs ss op).tcause = g.tcause := rfl
@[simp] theorem Group.open_tinfo (g : Group) (la : La) (done : Bool) (vs ss : List Nat) (op : Nat) : (Group.open g la done vs ss op).tinfo = g.tinfo := rfl
@[simp] theorem Group.open_tmode (g : Group) (la : La) (done : Bool) (vs ss : List Nat) (op : Nat) : (Group.open g la done vs ss op).tmode = g.tmode := rfl
@[simp] theorem Group.open_tem (g : Group) (la : La) (done : Bool) (vs ss : List Nat) (op : Nat) : (Group.open g la done vs ss op).tem = g.tem := rfl
@[simp] theorem Group.open_inTrap (g : Group) (la : La) (done : Bool) (vs ss : List Nat) (op : Nat) : (Group.open g la done vs ss op).inTrap = g.inTrap := rfl
@[simp] theorem Group.open_retired (g : Group) (la : La) (done : Bool) (vs ss : List Nat) (op : Nat) : (Group.open g la done vs ss op).retired = g.retired := rfl
@[simp] theorem Group.open_chooseN (g : Group) (la : La) (done : Bool) (vs ss : List Nat) (op : Nat) : (Group.open g la done vs ss op).chooseN = g.chooseN := rfl
@[simp] theorem Group.open_run (g : Group) (la : La) (done : Bool) (vs ss : List Nat) (op : Nat) : (Group.open g la done vs ss op).run = g.run := rfl
@[simp] theorem Group.open_windows (g : Group) (la : La) (done : Bool) (vs ss : List Nat) (op : Nat) : (Group.open g la done vs ss op).windows = g.windows ++ [⟨la.toNat, 0, done, vs, ss, op, false, false⟩] := rfl
@[simp] theorem Group.open_inflight (g : Group) (la : La) (done : Bool) (vs ss : List Nat) (op : Nat) : (Group.open g la done vs ss op).inflight = g.inflight := rfl
@[simp] theorem Group.open_held (g : Group) (la : La) (done : Bool) (vs ss : List Nat) (op : Nat) : (Group.open g la done vs ss op).held = g.held := rfl
@[simp] theorem Group.open_latched (g : Group) (la : La) (done : Bool) (vs ss : List Nat) (op : Nat) : (Group.open g la done vs ss op).latched = g.latched := rfl
@[simp] theorem Group.open_wait (g : Group) (la : La) (done : Bool) (vs ss : List Nat) (op : Nat) : (Group.open g la done vs ss op).wait = g.wait := rfl
@[simp] theorem Group.open_stage (g : Group) (la : La) (done : Bool) (vs ss : List Nat) (op : Nat) : (Group.open g la done vs ss op).stage = g.stage := rfl
@[simp] theorem Group.open_closed (g : Group) (la : La) (done : Bool) (vs ss : List Nat) (op : Nat) : (Group.open g la done vs ss op).closed = g.closed := rfl
@[simp] theorem Group.open_complete (g : Group) (la : La) (done : Bool) (vs ss : List Nat) (op : Nat) : (Group.open g la done vs ss op).complete = g.complete := rfl
@[simp] theorem Group.open_nans (g : Group) (la : La) (done : Bool) (vs ss : List Nat) (op : Nat) : (Group.open g la done vs ss op).nans = g.nans := rfl
@[simp] theorem Group.open_vpoison (g : Group) (la : La) (done : Bool) (vs ss : List Nat) (op : Nat) : (Group.open g la done vs ss op).vpoison = g.vpoison := rfl
@[simp] theorem Group.open_cpoison (g : Group) (la : La) (done : Bool) (vs ss : List Nat) (op : Nat) : (Group.open g la done vs ss op).cpoison = g.cpoison := rfl

@[simp] theorem Group.tickWindows_v (g : Group) : (Group.tickWindows g).v = g.v := rfl
@[simp] theorem Group.tickWindows_xi (g : Group) : (Group.tickWindows g).xi = g.xi := rfl
@[simp] theorem Group.tickWindows_xlo (g : Group) : (Group.tickWindows g).xlo = g.xlo := rfl
@[simp] theorem Group.tickWindows_xhi (g : Group) : (Group.tickWindows g).xhi = g.xhi := rfl
@[simp] theorem Group.tickWindows_q (g : Group) : (Group.tickWindows g).q = g.q := rfl
@[simp] theorem Group.tickWindows_s (g : Group) : (Group.tickWindows g).s = g.s := rfl
@[simp] theorem Group.tickWindows_pc (g : Group) : (Group.tickWindows g).pc = g.pc := rfl
@[simp] theorem Group.tickWindows_em (g : Group) : (Group.tickWindows g).em = g.em := rfl
@[simp] theorem Group.tickWindows_stack (g : Group) : (Group.tickWindows g).stack = g.stack := rfl
@[simp] theorem Group.tickWindows_mode (g : Group) : (Group.tickWindows g).mode = g.mode := rfl
@[simp] theorem Group.tickWindows_perm (g : Group) : (Group.tickWindows g).perm = g.perm := rfl
@[simp] theorem Group.tickWindows_stat (g : Group) : (Group.tickWindows g).stat = g.stat := rfl
@[simp] theorem Group.tickWindows_seed (g : Group) : (Group.tickWindows g).seed = g.seed := rfl
@[simp] theorem Group.tickWindows_ctr (g : Group) : (Group.tickWindows g).ctr = g.ctr := rfl
@[simp] theorem Group.tickWindows_nanct (g : Group) : (Group.tickWindows g).nanct = g.nanct := rfl
@[simp] theorem Group.tickWindows_tvec (g : Group) : (Group.tickWindows g).tvec = g.tvec := rfl
@[simp] theorem Group.tickWindows_tpc (g : Group) : (Group.tickWindows g).tpc = g.tpc := rfl
@[simp] theorem Group.tickWindows_tcause (g : Group) : (Group.tickWindows g).tcause = g.tcause := rfl
@[simp] theorem Group.tickWindows_tinfo (g : Group) : (Group.tickWindows g).tinfo = g.tinfo := rfl
@[simp] theorem Group.tickWindows_tmode (g : Group) : (Group.tickWindows g).tmode = g.tmode := rfl
@[simp] theorem Group.tickWindows_tem (g : Group) : (Group.tickWindows g).tem = g.tem := rfl
@[simp] theorem Group.tickWindows_inTrap (g : Group) : (Group.tickWindows g).inTrap = g.inTrap := rfl
@[simp] theorem Group.tickWindows_retired (g : Group) : (Group.tickWindows g).retired = g.retired := rfl
@[simp] theorem Group.tickWindows_chooseN (g : Group) : (Group.tickWindows g).chooseN = g.chooseN := rfl
@[simp] theorem Group.tickWindows_run (g : Group) : (Group.tickWindows g).run = g.run := rfl
@[simp] theorem Group.tickWindows_inflight (g : Group) : (Group.tickWindows g).inflight = g.inflight := rfl
@[simp] theorem Group.tickWindows_held (g : Group) : (Group.tickWindows g).held = g.held := rfl
@[simp] theorem Group.tickWindows_latched (g : Group) : (Group.tickWindows g).latched = g.latched := rfl
@[simp] theorem Group.tickWindows_wait (g : Group) : (Group.tickWindows g).wait = g.wait := rfl
@[simp] theorem Group.tickWindows_stage (g : Group) : (Group.tickWindows g).stage = g.stage := rfl
@[simp] theorem Group.tickWindows_closed (g : Group) : (Group.tickWindows g).closed = g.closed := rfl
@[simp] theorem Group.tickWindows_complete (g : Group) : (Group.tickWindows g).complete = g.complete := rfl
@[simp] theorem Group.tickWindows_nans (g : Group) : (Group.tickWindows g).nans = g.nans := rfl
@[simp] theorem Group.tickWindows_vpoison (g : Group) : (Group.tickWindows g).vpoison = g.vpoison := rfl
@[simp] theorem Group.tickWindows_cpoison (g : Group) : (Group.tickWindows g).cpoison = g.cpoison := rfl

@[simp] theorem Group.close_v (g : Group) : (Group.close g).v = g.v := rfl
@[simp] theorem Group.close_xi (g : Group) : (Group.close g).xi = g.xi := rfl
@[simp] theorem Group.close_xlo (g : Group) : (Group.close g).xlo = g.xlo := rfl
@[simp] theorem Group.close_xhi (g : Group) : (Group.close g).xhi = g.xhi := rfl
@[simp] theorem Group.close_q (g : Group) : (Group.close g).q = g.q := rfl
@[simp] theorem Group.close_s (g : Group) : (Group.close g).s = g.s := rfl
@[simp] theorem Group.close_pc (g : Group) : (Group.close g).pc = g.pc := rfl
@[simp] theorem Group.close_em (g : Group) : (Group.close g).em = g.em := rfl
@[simp] theorem Group.close_stack (g : Group) : (Group.close g).stack = g.stack := rfl
@[simp] theorem Group.close_mode (g : Group) : (Group.close g).mode = g.mode := rfl
@[simp] theorem Group.close_perm (g : Group) : (Group.close g).perm = g.perm := rfl
@[simp] theorem Group.close_stat (g : Group) : (Group.close g).stat = g.stat := rfl
@[simp] theorem Group.close_seed (g : Group) : (Group.close g).seed = g.seed := rfl
@[simp] theorem Group.close_ctr (g : Group) : (Group.close g).ctr = g.ctr := rfl
@[simp] theorem Group.close_nanct (g : Group) : (Group.close g).nanct = g.nanct := rfl
@[simp] theorem Group.close_tvec (g : Group) : (Group.close g).tvec = g.tvec := rfl
@[simp] theorem Group.close_tpc (g : Group) : (Group.close g).tpc = g.tpc := rfl
@[simp] theorem Group.close_tcause (g : Group) : (Group.close g).tcause = g.tcause := rfl
@[simp] theorem Group.close_tinfo (g : Group) : (Group.close g).tinfo = g.tinfo := rfl
@[simp] theorem Group.close_tmode (g : Group) : (Group.close g).tmode = g.tmode := rfl
@[simp] theorem Group.close_tem (g : Group) : (Group.close g).tem = g.tem := rfl
@[simp] theorem Group.close_inTrap (g : Group) : (Group.close g).inTrap = g.inTrap := rfl
@[simp] theorem Group.close_retired (g : Group) : (Group.close g).retired = g.retired := rfl
@[simp] theorem Group.close_chooseN (g : Group) : (Group.close g).chooseN = g.chooseN := rfl
@[simp] theorem Group.close_run (g : Group) : (Group.close g).run = g.run := rfl
@[simp] theorem Group.close_windows (g : Group) : (Group.close g).windows = [] := rfl
@[simp] theorem Group.close_inflight (g : Group) : (Group.close g).inflight = g.inflight := rfl
@[simp] theorem Group.close_held (g : Group) : (Group.close g).held = g.held := rfl
@[simp] theorem Group.close_latched (g : Group) : (Group.close g).latched = g.latched := rfl
@[simp] theorem Group.close_wait (g : Group) : (Group.close g).wait = g.wait := rfl
@[simp] theorem Group.close_stage (g : Group) : (Group.close g).stage = g.stage := rfl
@[simp] theorem Group.close_closed (g : Group) : (Group.close g).closed = g.closed := rfl
@[simp] theorem Group.close_complete (g : Group) : (Group.close g).complete = g.complete := rfl
@[simp] theorem Group.close_nans (g : Group) : (Group.close g).nans = g.nans := rfl
@[simp] theorem Group.close_vpoison (g : Group) : (Group.close g).vpoison = g.vpoison := rfl
@[simp] theorem Group.close_cpoison (g : Group) : (Group.close g).cpoison = g.cpoison := rfl

@[simp] theorem Group.unhold_v (g : Group) (h : HeldFault) : (Group.unhold g h).v = g.v := rfl
@[simp] theorem Group.unhold_xi (g : Group) (h : HeldFault) : (Group.unhold g h).xi = g.xi := rfl
@[simp] theorem Group.unhold_xlo (g : Group) (h : HeldFault) : (Group.unhold g h).xlo = g.xlo := rfl
@[simp] theorem Group.unhold_xhi (g : Group) (h : HeldFault) : (Group.unhold g h).xhi = g.xhi := rfl
@[simp] theorem Group.unhold_q (g : Group) (h : HeldFault) : (Group.unhold g h).q = g.q := rfl
@[simp] theorem Group.unhold_s (g : Group) (h : HeldFault) : (Group.unhold g h).s = g.s := rfl
@[simp] theorem Group.unhold_pc (g : Group) (h : HeldFault) : (Group.unhold g h).pc = g.pc := rfl
@[simp] theorem Group.unhold_em (g : Group) (h : HeldFault) : (Group.unhold g h).em = g.em := rfl
@[simp] theorem Group.unhold_stack (g : Group) (h : HeldFault) : (Group.unhold g h).stack = g.stack := rfl
@[simp] theorem Group.unhold_mode (g : Group) (h : HeldFault) : (Group.unhold g h).mode = g.mode := rfl
@[simp] theorem Group.unhold_perm (g : Group) (h : HeldFault) : (Group.unhold g h).perm = g.perm := rfl
@[simp] theorem Group.unhold_stat (g : Group) (h : HeldFault) : (Group.unhold g h).stat = g.stat := rfl
@[simp] theorem Group.unhold_seed (g : Group) (h : HeldFault) : (Group.unhold g h).seed = g.seed := rfl
@[simp] theorem Group.unhold_ctr (g : Group) (h : HeldFault) : (Group.unhold g h).ctr = g.ctr := rfl
@[simp] theorem Group.unhold_nanct (g : Group) (h : HeldFault) : (Group.unhold g h).nanct = g.nanct := rfl
@[simp] theorem Group.unhold_tvec (g : Group) (h : HeldFault) : (Group.unhold g h).tvec = g.tvec := rfl
@[simp] theorem Group.unhold_tpc (g : Group) (h : HeldFault) : (Group.unhold g h).tpc = g.tpc := rfl
@[simp] theorem Group.unhold_tcause (g : Group) (h : HeldFault) : (Group.unhold g h).tcause = g.tcause := rfl
@[simp] theorem Group.unhold_tinfo (g : Group) (h : HeldFault) : (Group.unhold g h).tinfo = g.tinfo := rfl
@[simp] theorem Group.unhold_tmode (g : Group) (h : HeldFault) : (Group.unhold g h).tmode = g.tmode := rfl
@[simp] theorem Group.unhold_tem (g : Group) (h : HeldFault) : (Group.unhold g h).tem = g.tem := rfl
@[simp] theorem Group.unhold_inTrap (g : Group) (h : HeldFault) : (Group.unhold g h).inTrap = g.inTrap := rfl
@[simp] theorem Group.unhold_retired (g : Group) (h : HeldFault) : (Group.unhold g h).retired = g.retired := rfl
@[simp] theorem Group.unhold_chooseN (g : Group) (h : HeldFault) : (Group.unhold g h).chooseN = g.chooseN := rfl
@[simp] theorem Group.unhold_run (g : Group) (h : HeldFault) : (Group.unhold g h).run = g.run := rfl
@[simp] theorem Group.unhold_windows (g : Group) (h : HeldFault) : (Group.unhold g h).windows = g.windows := rfl
@[simp] theorem Group.unhold_inflight (g : Group) (h : HeldFault) : (Group.unhold g h).inflight = g.inflight := rfl
@[simp] theorem Group.unhold_held (g : Group) (h : HeldFault) : (Group.unhold g h).held = g.held.erase h := rfl
@[simp] theorem Group.unhold_latched (g : Group) (h : HeldFault) : (Group.unhold g h).latched = g.latched := rfl
@[simp] theorem Group.unhold_wait (g : Group) (h : HeldFault) : (Group.unhold g h).wait = g.wait := rfl
@[simp] theorem Group.unhold_stage (g : Group) (h : HeldFault) : (Group.unhold g h).stage = g.stage := rfl
@[simp] theorem Group.unhold_closed (g : Group) (h : HeldFault) : (Group.unhold g h).closed = g.closed := rfl
@[simp] theorem Group.unhold_complete (g : Group) (h : HeldFault) : (Group.unhold g h).complete = g.complete := rfl
@[simp] theorem Group.unhold_nans (g : Group) (h : HeldFault) : (Group.unhold g h).nans = g.nans := rfl
@[simp] theorem Group.unhold_vpoison (g : Group) (h : HeldFault) : (Group.unhold g h).vpoison = g.vpoison := rfl
@[simp] theorem Group.unhold_cpoison (g : Group) (h : HeldFault) : (Group.unhold g h).cpoison = g.cpoison := rfl

@[simp] theorem Group.completed_v (g : Group) (a : DWord) : (Group.completed g a).v = g.v := rfl
@[simp] theorem Group.completed_xi (g : Group) (a : DWord) : (Group.completed g a).xi = g.xi := rfl
@[simp] theorem Group.completed_xlo (g : Group) (a : DWord) : (Group.completed g a).xlo = g.xlo := rfl
@[simp] theorem Group.completed_xhi (g : Group) (a : DWord) : (Group.completed g a).xhi = g.xhi := rfl
@[simp] theorem Group.completed_q (g : Group) (a : DWord) : (Group.completed g a).q = g.q := rfl
@[simp] theorem Group.completed_s (g : Group) (a : DWord) : (Group.completed g a).s = g.s := rfl
@[simp] theorem Group.completed_pc (g : Group) (a : DWord) : (Group.completed g a).pc = a := rfl
@[simp] theorem Group.completed_em (g : Group) (a : DWord) : (Group.completed g a).em = g.em := rfl
@[simp] theorem Group.completed_stack (g : Group) (a : DWord) : (Group.completed g a).stack = g.stack := rfl
@[simp] theorem Group.completed_mode (g : Group) (a : DWord) : (Group.completed g a).mode = g.mode := rfl
@[simp] theorem Group.completed_perm (g : Group) (a : DWord) : (Group.completed g a).perm = g.perm := rfl
@[simp] theorem Group.completed_stat (g : Group) (a : DWord) : (Group.completed g a).stat = g.stat := rfl
@[simp] theorem Group.completed_seed (g : Group) (a : DWord) : (Group.completed g a).seed = g.seed := rfl
@[simp] theorem Group.completed_ctr (g : Group) (a : DWord) : (Group.completed g a).ctr = g.ctr := rfl
@[simp] theorem Group.completed_nanct (g : Group) (a : DWord) : (Group.completed g a).nanct = g.nanct := rfl
@[simp] theorem Group.completed_tvec (g : Group) (a : DWord) : (Group.completed g a).tvec = g.tvec := rfl
@[simp] theorem Group.completed_tpc (g : Group) (a : DWord) : (Group.completed g a).tpc = g.tpc := rfl
@[simp] theorem Group.completed_tcause (g : Group) (a : DWord) : (Group.completed g a).tcause = g.tcause := rfl
@[simp] theorem Group.completed_tinfo (g : Group) (a : DWord) : (Group.completed g a).tinfo = g.tinfo := rfl
@[simp] theorem Group.completed_tmode (g : Group) (a : DWord) : (Group.completed g a).tmode = g.tmode := rfl
@[simp] theorem Group.completed_tem (g : Group) (a : DWord) : (Group.completed g a).tem = g.tem := rfl
@[simp] theorem Group.completed_inTrap (g : Group) (a : DWord) : (Group.completed g a).inTrap = g.inTrap := rfl
@[simp] theorem Group.completed_retired (g : Group) (a : DWord) : (Group.completed g a).retired = g.retired + 1 := rfl
@[simp] theorem Group.completed_chooseN (g : Group) (a : DWord) : (Group.completed g a).chooseN = g.chooseN := rfl
@[simp] theorem Group.completed_run (g : Group) (a : DWord) : (Group.completed g a).run = g.run := rfl
@[simp] theorem Group.completed_inflight (g : Group) (a : DWord) : (Group.completed g a).inflight = g.inflight := rfl
@[simp] theorem Group.completed_held (g : Group) (a : DWord) : (Group.completed g a).held = g.held := rfl
@[simp] theorem Group.completed_latched (g : Group) (a : DWord) : (Group.completed g a).latched = g.latched := rfl
@[simp] theorem Group.completed_wait (g : Group) (a : DWord) : (Group.completed g a).wait = none := rfl
@[simp] theorem Group.completed_stage (g : Group) (a : DWord) : (Group.completed g a).stage = .fresh := rfl
@[simp] theorem Group.completed_closed (g : Group) (a : DWord) : (Group.completed g a).closed = g.closed := rfl
@[simp] theorem Group.completed_complete (g : Group) (a : DWord) : (Group.completed g a).complete = g.complete := rfl
@[simp] theorem Group.completed_nans (g : Group) (a : DWord) : (Group.completed g a).nans = g.nans := rfl
@[simp] theorem Group.completed_vpoison (g : Group) (a : DWord) : (Group.completed g a).vpoison = g.vpoison := rfl
@[simp] theorem Group.completed_cpoison (g : Group) (a : DWord) : (Group.completed g a).cpoison = g.cpoison := rfl

@[simp] theorem Group.trapped_v (g : Group) (t : Trap) : (Group.trapped g t).v = g.v := rfl
@[simp] theorem Group.trapped_xi (g : Group) (t : Trap) : (Group.trapped g t).xi = g.xi := rfl
@[simp] theorem Group.trapped_xlo (g : Group) (t : Trap) : (Group.trapped g t).xlo = g.xlo := rfl
@[simp] theorem Group.trapped_xhi (g : Group) (t : Trap) : (Group.trapped g t).xhi = g.xhi := rfl
@[simp] theorem Group.trapped_q (g : Group) (t : Trap) : (Group.trapped g t).q = g.q := rfl
@[simp] theorem Group.trapped_s (g : Group) (t : Trap) : (Group.trapped g t).s = g.s := rfl
@[simp] theorem Group.trapped_pc (g : Group) (t : Trap) : (Group.trapped g t).pc = g.tvec := rfl
@[simp] theorem Group.trapped_em (g : Group) (t : Trap) : (Group.trapped g t).em = 0xFFFFFFFF := rfl
@[simp] theorem Group.trapped_stack (g : Group) (t : Trap) : (Group.trapped g t).stack = g.stack := rfl
@[simp] theorem Group.trapped_mode (g : Group) (t : Trap) : (Group.trapped g t).mode = 0 := rfl
@[simp] theorem Group.trapped_perm (g : Group) (t : Trap) : (Group.trapped g t).perm = g.perm := rfl
@[simp] theorem Group.trapped_stat (g : Group) (t : Trap) : (Group.trapped g t).stat = g.stat := rfl
@[simp] theorem Group.trapped_seed (g : Group) (t : Trap) : (Group.trapped g t).seed = g.seed := rfl
@[simp] theorem Group.trapped_ctr (g : Group) (t : Trap) : (Group.trapped g t).ctr = g.ctr := rfl
@[simp] theorem Group.trapped_nanct (g : Group) (t : Trap) : (Group.trapped g t).nanct = g.nanct := rfl
@[simp] theorem Group.trapped_tvec (g : Group) (t : Trap) : (Group.trapped g t).tvec = g.tvec := rfl
@[simp] theorem Group.trapped_tpc (g : Group) (t : Trap) : (Group.trapped g t).tpc = g.pc := rfl
@[simp] theorem Group.trapped_tcause (g : Group) (t : Trap) : (Group.trapped g t).tcause = t.cause := rfl
@[simp] theorem Group.trapped_tinfo (g : Group) (t : Trap) : (Group.trapped g t).tinfo = t.tinfo := rfl
@[simp] theorem Group.trapped_tmode (g : Group) (t : Trap) : (Group.trapped g t).tmode = g.mode := rfl
@[simp] theorem Group.trapped_tem (g : Group) (t : Trap) : (Group.trapped g t).tem = g.em := rfl
@[simp] theorem Group.trapped_inTrap (g : Group) (t : Trap) : (Group.trapped g t).inTrap = true := rfl
@[simp] theorem Group.trapped_retired (g : Group) (t : Trap) : (Group.trapped g t).retired = g.retired := rfl
@[simp] theorem Group.trapped_chooseN (g : Group) (t : Trap) : (Group.trapped g t).chooseN = g.chooseN := rfl
@[simp] theorem Group.trapped_run (g : Group) (t : Trap) : (Group.trapped g t).run = g.run := rfl
@[simp] theorem Group.trapped_windows (g : Group) (t : Trap) : (Group.trapped g t).windows = [] := rfl
@[simp] theorem Group.trapped_inflight (g : Group) (t : Trap) : (Group.trapped g t).inflight = g.inflight := rfl
@[simp] theorem Group.trapped_held (g : Group) (t : Trap) : (Group.trapped g t).held = g.held := rfl
@[simp] theorem Group.trapped_latched (g : Group) (t : Trap) : (Group.trapped g t).latched = none := rfl
@[simp] theorem Group.trapped_wait (g : Group) (t : Trap) : (Group.trapped g t).wait = none := rfl
@[simp] theorem Group.trapped_stage (g : Group) (t : Trap) : (Group.trapped g t).stage = .fresh := rfl
@[simp] theorem Group.trapped_closed (g : Group) (t : Trap) : (Group.trapped g t).closed = g.closed := rfl
@[simp] theorem Group.trapped_complete (g : Group) (t : Trap) : (Group.trapped g t).complete = g.complete := rfl
@[simp] theorem Group.trapped_nans (g : Group) (t : Trap) : (Group.trapped g t).nans = g.nans := rfl
@[simp] theorem Group.trapped_vpoison (g : Group) (t : Trap) : (Group.trapped g t).vpoison = g.vpoison := rfl
@[simp] theorem Group.trapped_cpoison (g : Group) (t : Trap) : (Group.trapped g t).cpoison = g.cpoison.filter fun w => !entryWords.contains w := rfl

@[simp] theorem Group.returned_v (g : Group) : (Group.returned g).v = g.v := rfl
@[simp] theorem Group.returned_xi (g : Group) : (Group.returned g).xi = g.xi := rfl
@[simp] theorem Group.returned_xlo (g : Group) : (Group.returned g).xlo = g.xlo := rfl
@[simp] theorem Group.returned_xhi (g : Group) : (Group.returned g).xhi = g.xhi := rfl
@[simp] theorem Group.returned_q (g : Group) : (Group.returned g).q = g.q := rfl
@[simp] theorem Group.returned_s (g : Group) : (Group.returned g).s = g.s := rfl
@[simp] theorem Group.returned_pc (g : Group) : (Group.returned g).pc = g.pc := rfl
@[simp] theorem Group.returned_em (g : Group) : (Group.returned g).em = g.tem := rfl
@[simp] theorem Group.returned_stack (g : Group) : (Group.returned g).stack = g.stack := rfl
@[simp] theorem Group.returned_mode (g : Group) : (Group.returned g).mode = g.tmode := rfl
@[simp] theorem Group.returned_perm (g : Group) : (Group.returned g).perm = g.perm := rfl
@[simp] theorem Group.returned_stat (g : Group) : (Group.returned g).stat = g.stat := rfl
@[simp] theorem Group.returned_seed (g : Group) : (Group.returned g).seed = g.seed := rfl
@[simp] theorem Group.returned_ctr (g : Group) : (Group.returned g).ctr = g.ctr := rfl
@[simp] theorem Group.returned_nanct (g : Group) : (Group.returned g).nanct = g.nanct := rfl
@[simp] theorem Group.returned_tvec (g : Group) : (Group.returned g).tvec = g.tvec := rfl
@[simp] theorem Group.returned_tpc (g : Group) : (Group.returned g).tpc = g.tpc := rfl
@[simp] theorem Group.returned_tcause (g : Group) : (Group.returned g).tcause = g.tcause := rfl
@[simp] theorem Group.returned_tinfo (g : Group) : (Group.returned g).tinfo = g.tinfo := rfl
@[simp] theorem Group.returned_tmode (g : Group) : (Group.returned g).tmode = g.tmode := rfl
@[simp] theorem Group.returned_tem (g : Group) : (Group.returned g).tem = g.tem := rfl
@[simp] theorem Group.returned_inTrap (g : Group) : (Group.returned g).inTrap = false := rfl
@[simp] theorem Group.returned_retired (g : Group) : (Group.returned g).retired = g.retired := rfl
@[simp] theorem Group.returned_chooseN (g : Group) : (Group.returned g).chooseN = g.chooseN := rfl
@[simp] theorem Group.returned_run (g : Group) : (Group.returned g).run = g.run := rfl
@[simp] theorem Group.returned_windows (g : Group) : (Group.returned g).windows = g.windows := rfl
@[simp] theorem Group.returned_inflight (g : Group) : (Group.returned g).inflight = g.inflight := rfl
@[simp] theorem Group.returned_held (g : Group) : (Group.returned g).held = g.held := rfl
@[simp] theorem Group.returned_latched (g : Group) : (Group.returned g).latched = g.latched := rfl
@[simp] theorem Group.returned_wait (g : Group) : (Group.returned g).wait = g.wait := rfl
@[simp] theorem Group.returned_stage (g : Group) : (Group.returned g).stage = g.stage := rfl
@[simp] theorem Group.returned_closed (g : Group) : (Group.returned g).closed = g.closed := rfl
@[simp] theorem Group.returned_complete (g : Group) : (Group.returned g).complete = g.complete := rfl
@[simp] theorem Group.returned_nans (g : Group) : (Group.returned g).nans = g.nans := rfl
@[simp] theorem Group.returned_vpoison (g : Group) : (Group.returned g).vpoison = g.vpoison := rfl
@[simp] theorem Group.returned_cpoison (g : Group) : (Group.returned g).cpoison = g.cpoison := rfl

@[simp] theorem Part.modRun_regs (P : Part) (f : Run → Run) : (Part.modRun P f).regs = P.regs := rfl
@[simp] theorem Part.modRun_queues (P : Part) (f : Run → Run) : (Part.modRun P f).queues = P.queues := rfl
@[simp] theorem Part.modRun_run (P : Part) (f : Run → Run) : (Part.modRun P f).run = f P.run := rfl
@[simp] theorem Part.modRun_choice (P : Part) (f : Run → Run) : (Part.modRun P f).choice = P.choice := rfl
@[simp] theorem Part.modRun_sieve (P : Part) (f : Run → Run) : (Part.modRun P f).sieve = P.sieve := rfl
@[simp] theorem Part.modRun_nextId (P : Part) (f : Run → Run) : (Part.modRun P f).nextId = P.nextId := rfl
@[simp] theorem Part.modRun_lastLaunch (P : Part) (f : Run → Run) : (Part.modRun P f).lastLaunch = P.lastLaunch := rfl
@[simp] theorem Part.modRun_signals (P : Part) (f : Run → Run) : (Part.modRun P f).signals = P.signals := rfl
@[simp] theorem Part.modRun_kernels (P : Part) (f : Run → Run) : (Part.modRun P f).kernels = P.kernels := rfl
@[simp] theorem Part.modRun_code (P : Part) (f : Run → Run) : (Part.modRun P f).code = P.code := rfl
@[simp] theorem Part.modRun_classes (P : Part) (f : Run → Run) : (Part.modRun P f).classes = P.classes := rfl
@[simp] theorem Part.modRun_keys (P : Part) (f : Run → Run) : (Part.modRun P f).keys = P.keys := rfl
@[simp] theorem Part.modRun_meas (P : Part) (f : Run → Run) : (Part.modRun P f).meas = P.meas := rfl
@[simp] theorem Part.modRun_elog (P : Part) (f : Run → Run) : (Part.modRun P f).elog = P.elog := rfl
@[simp] theorem Part.modRun_elogHead (P : Part) (f : Run → Run) : (Part.modRun P f).elogHead = P.elogHead := rfl
@[simp] theorem Part.modRun_faults (P : Part) (f : Run → Run) : (Part.modRun P f).faults = P.faults := rfl
@[simp] theorem Part.modRun_tlb (P : Part) (f : Run → Run) : (Part.modRun P f).tlb = P.tlb := rfl
@[simp] theorem Part.modRun_debug (P : Part) (f : Run → Run) : (Part.modRun P f).debug = P.debug := rfl
@[simp] theorem Part.modRun_vectors (P : Part) (f : Run → Run) : (Part.modRun P f).vectors = P.vectors := rfl
@[simp] theorem Part.modRun_reports (P : Part) (f : Run → Run) : (Part.modRun P f).reports = P.reports := rfl
@[simp] theorem Part.modRun_frozen (P : Part) (f : Run → Run) : (Part.modRun P f).frozen = P.frozen := rfl
@[simp] theorem Part.modRun_saved (P : Part) (f : Run → Run) : (Part.modRun P f).saved = P.saved := rfl
@[simp] theorem Part.modRun_freezing (P : Part) (f : Run → Run) : (Part.modRun P f).freezing = P.freezing := rfl
@[simp] theorem Part.modRun_reason (P : Part) (f : Run → Run) : (Part.modRun P f).reason = P.reason := rfl
@[simp] theorem Part.modRun_draining (P : Part) (f : Run → Run) : (Part.modRun P f).draining = P.draining := rfl
@[simp] theorem Part.modRun_imageArea (P : Part) (f : Run → Run) : (Part.modRun P f).imageArea = P.imageArea := rfl
@[simp] theorem Part.modRun_images (P : Part) (f : Run → Run) : (Part.modRun P f).images = P.images := rfl
@[simp] theorem Part.modRun_fire (P : Part) (f : Run → Run) : (Part.modRun P f).fire = P.fire := rfl
@[simp] theorem Part.modRun_ret (P : Part) (f : Run → Run) : (Part.modRun P f).ret = P.ret := rfl
@[simp] theorem Part.modRun_lastFire (P : Part) (f : Run → Run) : (Part.modRun P f).lastFire = P.lastFire := rfl
@[simp] theorem Part.modRun_lastRet (P : Part) (f : Run → Run) : (Part.modRun P f).lastRet = P.lastRet := rfl
@[simp] theorem Part.modRun_lastFlit (P : Part) (f : Run → Run) : (Part.modRun P f).lastFlit = P.lastFlit := rfl
@[simp] theorem Part.modRun_flit (P : Part) (f : Run → Run) : (Part.modRun P f).flit = P.flit := rfl
@[simp] theorem Part.modRun_mark (P : Part) (f : Run → Run) : (Part.modRun P f).mark = P.mark := rfl
@[simp] theorem Part.modRun_atRisk (P : Part) (f : Run → Run) : (Part.modRun P f).atRisk = P.atRisk := rfl
@[simp] theorem Part.modRun_lostTeams (P : Part) (f : Run → Run) : (Part.modRun P f).lostTeams = P.lostTeams := rfl
@[simp] theorem Part.modRun_window (P : Part) (f : Run → Run) : (Part.modRun P f).window = P.window := rfl
@[simp] theorem Part.modRun_deferred (P : Part) (f : Run → Run) : (Part.modRun P f).deferred = P.deferred := rfl
@[simp] theorem Part.modRun_stackEnergy (P : Part) (f : Run → Run) : (Part.modRun P f).stackEnergy = P.stackEnergy := rfl
@[simp] theorem Part.modRun_spent (P : Part) (f : Run → Run) : (Part.modRun P f).spent = P.spent := rfl
@[simp] theorem Part.modRun_unacked (P : Part) (f : Run → Run) : (Part.modRun P f).unacked = P.unacked := rfl
@[simp] theorem Part.modRun_testNext (P : Part) (f : Run → Run) : (Part.modRun P f).testNext = P.testNext := rfl
@[simp] theorem Part.modRun_inbox (P : Part) (f : Run → Run) : (Part.modRun P f).inbox = P.inbox := rfl

@[simp] theorem Part.vector_regs (P : Part) (n : Nat) : (Part.vector P n).regs = P.regs := rfl
@[simp] theorem Part.vector_queues (P : Part) (n : Nat) : (Part.vector P n).queues = P.queues := rfl
@[simp] theorem Part.vector_run (P : Part) (n : Nat) : (Part.vector P n).run = P.run := rfl
@[simp] theorem Part.vector_choice (P : Part) (n : Nat) : (Part.vector P n).choice = P.choice := rfl
@[simp] theorem Part.vector_sieve (P : Part) (n : Nat) : (Part.vector P n).sieve = P.sieve := rfl
@[simp] theorem Part.vector_nextId (P : Part) (n : Nat) : (Part.vector P n).nextId = P.nextId := rfl
@[simp] theorem Part.vector_lastLaunch (P : Part) (n : Nat) : (Part.vector P n).lastLaunch = P.lastLaunch := rfl
@[simp] theorem Part.vector_signals (P : Part) (n : Nat) : (Part.vector P n).signals = P.signals := rfl
@[simp] theorem Part.vector_kernels (P : Part) (n : Nat) : (Part.vector P n).kernels = P.kernels := rfl
@[simp] theorem Part.vector_code (P : Part) (n : Nat) : (Part.vector P n).code = P.code := rfl
@[simp] theorem Part.vector_classes (P : Part) (n : Nat) : (Part.vector P n).classes = P.classes := rfl
@[simp] theorem Part.vector_keys (P : Part) (n : Nat) : (Part.vector P n).keys = P.keys := rfl
@[simp] theorem Part.vector_meas (P : Part) (n : Nat) : (Part.vector P n).meas = P.meas := rfl
@[simp] theorem Part.vector_elog (P : Part) (n : Nat) : (Part.vector P n).elog = P.elog := rfl
@[simp] theorem Part.vector_elogHead (P : Part) (n : Nat) : (Part.vector P n).elogHead = P.elogHead := rfl
@[simp] theorem Part.vector_faults (P : Part) (n : Nat) : (Part.vector P n).faults = P.faults := rfl
@[simp] theorem Part.vector_tlb (P : Part) (n : Nat) : (Part.vector P n).tlb = P.tlb := rfl
@[simp] theorem Part.vector_debug (P : Part) (n : Nat) : (Part.vector P n).debug = P.debug := rfl
@[simp] theorem Part.vector_vectors (P : Part) (n : Nat) : (Part.vector P n).vectors = Cells.set 0 P.vectors n (Cells.get 0 P.vectors n + 1) := rfl
@[simp] theorem Part.vector_reports (P : Part) (n : Nat) : (Part.vector P n).reports = P.reports := rfl
@[simp] theorem Part.vector_frozen (P : Part) (n : Nat) : (Part.vector P n).frozen = P.frozen := rfl
@[simp] theorem Part.vector_saved (P : Part) (n : Nat) : (Part.vector P n).saved = P.saved := rfl
@[simp] theorem Part.vector_freezing (P : Part) (n : Nat) : (Part.vector P n).freezing = P.freezing := rfl
@[simp] theorem Part.vector_reason (P : Part) (n : Nat) : (Part.vector P n).reason = P.reason := rfl
@[simp] theorem Part.vector_draining (P : Part) (n : Nat) : (Part.vector P n).draining = P.draining := rfl
@[simp] theorem Part.vector_imageArea (P : Part) (n : Nat) : (Part.vector P n).imageArea = P.imageArea := rfl
@[simp] theorem Part.vector_images (P : Part) (n : Nat) : (Part.vector P n).images = P.images := rfl
@[simp] theorem Part.vector_fire (P : Part) (n : Nat) : (Part.vector P n).fire = P.fire := rfl
@[simp] theorem Part.vector_ret (P : Part) (n : Nat) : (Part.vector P n).ret = P.ret := rfl
@[simp] theorem Part.vector_lastFire (P : Part) (n : Nat) : (Part.vector P n).lastFire = P.lastFire := rfl
@[simp] theorem Part.vector_lastRet (P : Part) (n : Nat) : (Part.vector P n).lastRet = P.lastRet := rfl
@[simp] theorem Part.vector_lastFlit (P : Part) (n : Nat) : (Part.vector P n).lastFlit = P.lastFlit := rfl
@[simp] theorem Part.vector_flit (P : Part) (n : Nat) : (Part.vector P n).flit = P.flit := rfl
@[simp] theorem Part.vector_mark (P : Part) (n : Nat) : (Part.vector P n).mark = P.mark := rfl
@[simp] theorem Part.vector_atRisk (P : Part) (n : Nat) : (Part.vector P n).atRisk = P.atRisk := rfl
@[simp] theorem Part.vector_lostTeams (P : Part) (n : Nat) : (Part.vector P n).lostTeams = P.lostTeams := rfl
@[simp] theorem Part.vector_window (P : Part) (n : Nat) : (Part.vector P n).window = P.window := rfl
@[simp] theorem Part.vector_deferred (P : Part) (n : Nat) : (Part.vector P n).deferred = P.deferred := rfl
@[simp] theorem Part.vector_stackEnergy (P : Part) (n : Nat) : (Part.vector P n).stackEnergy = P.stackEnergy := rfl
@[simp] theorem Part.vector_spent (P : Part) (n : Nat) : (Part.vector P n).spent = P.spent := rfl
@[simp] theorem Part.vector_unacked (P : Part) (n : Nat) : (Part.vector P n).unacked = P.unacked := rfl
@[simp] theorem Part.vector_testNext (P : Part) (n : Nat) : (Part.vector P n).testNext = P.testNext := rfl
@[simp] theorem Part.vector_inbox (P : Part) (n : Nat) : (Part.vector P n).inbox = P.inbox := rfl

@[simp] theorem Part.report_regs (P : Part) (r : Report) : (Part.report P r).regs = P.regs := rfl
@[simp] theorem Part.report_queues (P : Part) (r : Report) : (Part.report P r).queues = P.queues := rfl
@[simp] theorem Part.report_run (P : Part) (r : Report) : (Part.report P r).run = P.run := rfl
@[simp] theorem Part.report_choice (P : Part) (r : Report) : (Part.report P r).choice = P.choice := rfl
@[simp] theorem Part.report_sieve (P : Part) (r : Report) : (Part.report P r).sieve = P.sieve := rfl
@[simp] theorem Part.report_nextId (P : Part) (r : Report) : (Part.report P r).nextId = P.nextId := rfl
@[simp] theorem Part.report_lastLaunch (P : Part) (r : Report) : (Part.report P r).lastLaunch = P.lastLaunch := rfl
@[simp] theorem Part.report_signals (P : Part) (r : Report) : (Part.report P r).signals = P.signals := rfl
@[simp] theorem Part.report_kernels (P : Part) (r : Report) : (Part.report P r).kernels = P.kernels := rfl
@[simp] theorem Part.report_code (P : Part) (r : Report) : (Part.report P r).code = P.code := rfl
@[simp] theorem Part.report_classes (P : Part) (r : Report) : (Part.report P r).classes = P.classes := rfl
@[simp] theorem Part.report_keys (P : Part) (r : Report) : (Part.report P r).keys = P.keys := rfl
@[simp] theorem Part.report_meas (P : Part) (r : Report) : (Part.report P r).meas = P.meas := rfl
@[simp] theorem Part.report_elog (P : Part) (r : Report) : (Part.report P r).elog = P.elog := rfl
@[simp] theorem Part.report_elogHead (P : Part) (r : Report) : (Part.report P r).elogHead = P.elogHead := rfl
@[simp] theorem Part.report_faults (P : Part) (r : Report) : (Part.report P r).faults = P.faults := rfl
@[simp] theorem Part.report_tlb (P : Part) (r : Report) : (Part.report P r).tlb = P.tlb := rfl
@[simp] theorem Part.report_debug (P : Part) (r : Report) : (Part.report P r).debug = P.debug := rfl
@[simp] theorem Part.report_vectors (P : Part) (r : Report) : (Part.report P r).vectors = P.vectors := rfl
@[simp] theorem Part.report_reports (P : Part) (r : Report) : (Part.report P r).reports = r :: P.reports := rfl
@[simp] theorem Part.report_frozen (P : Part) (r : Report) : (Part.report P r).frozen = P.frozen := rfl
@[simp] theorem Part.report_saved (P : Part) (r : Report) : (Part.report P r).saved = P.saved := rfl
@[simp] theorem Part.report_freezing (P : Part) (r : Report) : (Part.report P r).freezing = P.freezing := rfl
@[simp] theorem Part.report_reason (P : Part) (r : Report) : (Part.report P r).reason = P.reason := rfl
@[simp] theorem Part.report_draining (P : Part) (r : Report) : (Part.report P r).draining = P.draining := rfl
@[simp] theorem Part.report_imageArea (P : Part) (r : Report) : (Part.report P r).imageArea = P.imageArea := rfl
@[simp] theorem Part.report_images (P : Part) (r : Report) : (Part.report P r).images = P.images := rfl
@[simp] theorem Part.report_fire (P : Part) (r : Report) : (Part.report P r).fire = P.fire := rfl
@[simp] theorem Part.report_ret (P : Part) (r : Report) : (Part.report P r).ret = P.ret := rfl
@[simp] theorem Part.report_lastFire (P : Part) (r : Report) : (Part.report P r).lastFire = P.lastFire := rfl
@[simp] theorem Part.report_lastRet (P : Part) (r : Report) : (Part.report P r).lastRet = P.lastRet := rfl
@[simp] theorem Part.report_lastFlit (P : Part) (r : Report) : (Part.report P r).lastFlit = P.lastFlit := rfl
@[simp] theorem Part.report_flit (P : Part) (r : Report) : (Part.report P r).flit = P.flit := rfl
@[simp] theorem Part.report_mark (P : Part) (r : Report) : (Part.report P r).mark = P.mark := rfl
@[simp] theorem Part.report_atRisk (P : Part) (r : Report) : (Part.report P r).atRisk = P.atRisk := rfl
@[simp] theorem Part.report_lostTeams (P : Part) (r : Report) : (Part.report P r).lostTeams = P.lostTeams := rfl
@[simp] theorem Part.report_window (P : Part) (r : Report) : (Part.report P r).window = P.window := rfl
@[simp] theorem Part.report_deferred (P : Part) (r : Report) : (Part.report P r).deferred = P.deferred := rfl
@[simp] theorem Part.report_stackEnergy (P : Part) (r : Report) : (Part.report P r).stackEnergy = P.stackEnergy := rfl
@[simp] theorem Part.report_spent (P : Part) (r : Report) : (Part.report P r).spent = P.spent := rfl
@[simp] theorem Part.report_unacked (P : Part) (r : Report) : (Part.report P r).unacked = P.unacked := rfl
@[simp] theorem Part.report_testNext (P : Part) (r : Report) : (Part.report P r).testNext = P.testNext := rfl
@[simp] theorem Part.report_inbox (P : Part) (r : Report) : (Part.report P r).inbox = P.inbox := rfl

@[simp] theorem Part.failedWrite_regs (P : Part) (off : Nat) : (Part.failedWrite P off).regs = P.regs := rfl
@[simp] theorem Part.failedWrite_queues (P : Part) (off : Nat) : (Part.failedWrite P off).queues = P.queues := rfl
@[simp] theorem Part.failedWrite_run (P : Part) (off : Nat) : (Part.failedWrite P off).run = P.run := rfl
@[simp] theorem Part.failedWrite_choice (P : Part) (off : Nat) : (Part.failedWrite P off).choice = P.choice := rfl
@[simp] theorem Part.failedWrite_sieve (P : Part) (off : Nat) : (Part.failedWrite P off).sieve = P.sieve := rfl
@[simp] theorem Part.failedWrite_nextId (P : Part) (off : Nat) : (Part.failedWrite P off).nextId = P.nextId := rfl
@[simp] theorem Part.failedWrite_lastLaunch (P : Part) (off : Nat) : (Part.failedWrite P off).lastLaunch = P.lastLaunch := rfl
@[simp] theorem Part.failedWrite_signals (P : Part) (off : Nat) : (Part.failedWrite P off).signals = P.signals := rfl
@[simp] theorem Part.failedWrite_kernels (P : Part) (off : Nat) : (Part.failedWrite P off).kernels = P.kernels := rfl
@[simp] theorem Part.failedWrite_code (P : Part) (off : Nat) : (Part.failedWrite P off).code = P.code := rfl
@[simp] theorem Part.failedWrite_classes (P : Part) (off : Nat) : (Part.failedWrite P off).classes = P.classes := rfl
@[simp] theorem Part.failedWrite_keys (P : Part) (off : Nat) : (Part.failedWrite P off).keys = P.keys := rfl
@[simp] theorem Part.failedWrite_meas (P : Part) (off : Nat) : (Part.failedWrite P off).meas = P.meas := rfl
@[simp] theorem Part.failedWrite_elog (P : Part) (off : Nat) : (Part.failedWrite P off).elog = P.elog := rfl
@[simp] theorem Part.failedWrite_elogHead (P : Part) (off : Nat) : (Part.failedWrite P off).elogHead = P.elogHead := rfl
@[simp] theorem Part.failedWrite_faults (P : Part) (off : Nat) : (Part.failedWrite P off).faults = P.faults := rfl
@[simp] theorem Part.failedWrite_tlb (P : Part) (off : Nat) : (Part.failedWrite P off).tlb = P.tlb := rfl
@[simp] theorem Part.failedWrite_debug (P : Part) (off : Nat) : (Part.failedWrite P off).debug = P.debug := rfl
@[simp] theorem Part.failedWrite_vectors (P : Part) (off : Nat) : (Part.failedWrite P off).vectors = Cells.set 0 P.vectors 0 (Cells.get 0 P.vectors 0 + 1) := rfl
@[simp] theorem Part.failedWrite_reports (P : Part) (off : Nat) : (Part.failedWrite P off).reports = .failedWrite off :: P.reports := rfl
@[simp] theorem Part.failedWrite_frozen (P : Part) (off : Nat) : (Part.failedWrite P off).frozen = P.frozen := rfl
@[simp] theorem Part.failedWrite_saved (P : Part) (off : Nat) : (Part.failedWrite P off).saved = P.saved := rfl
@[simp] theorem Part.failedWrite_freezing (P : Part) (off : Nat) : (Part.failedWrite P off).freezing = P.freezing := rfl
@[simp] theorem Part.failedWrite_reason (P : Part) (off : Nat) : (Part.failedWrite P off).reason = P.reason := rfl
@[simp] theorem Part.failedWrite_draining (P : Part) (off : Nat) : (Part.failedWrite P off).draining = P.draining := rfl
@[simp] theorem Part.failedWrite_imageArea (P : Part) (off : Nat) : (Part.failedWrite P off).imageArea = P.imageArea := rfl
@[simp] theorem Part.failedWrite_images (P : Part) (off : Nat) : (Part.failedWrite P off).images = P.images := rfl
@[simp] theorem Part.failedWrite_fire (P : Part) (off : Nat) : (Part.failedWrite P off).fire = P.fire := rfl
@[simp] theorem Part.failedWrite_ret (P : Part) (off : Nat) : (Part.failedWrite P off).ret = P.ret := rfl
@[simp] theorem Part.failedWrite_lastFire (P : Part) (off : Nat) : (Part.failedWrite P off).lastFire = P.lastFire := rfl
@[simp] theorem Part.failedWrite_lastRet (P : Part) (off : Nat) : (Part.failedWrite P off).lastRet = P.lastRet := rfl
@[simp] theorem Part.failedWrite_lastFlit (P : Part) (off : Nat) : (Part.failedWrite P off).lastFlit = P.lastFlit := rfl
@[simp] theorem Part.failedWrite_flit (P : Part) (off : Nat) : (Part.failedWrite P off).flit = P.flit := rfl
@[simp] theorem Part.failedWrite_mark (P : Part) (off : Nat) : (Part.failedWrite P off).mark = P.mark := rfl
@[simp] theorem Part.failedWrite_atRisk (P : Part) (off : Nat) : (Part.failedWrite P off).atRisk = P.atRisk := rfl
@[simp] theorem Part.failedWrite_lostTeams (P : Part) (off : Nat) : (Part.failedWrite P off).lostTeams = P.lostTeams := rfl
@[simp] theorem Part.failedWrite_window (P : Part) (off : Nat) : (Part.failedWrite P off).window = P.window := rfl
@[simp] theorem Part.failedWrite_deferred (P : Part) (off : Nat) : (Part.failedWrite P off).deferred = P.deferred := rfl
@[simp] theorem Part.failedWrite_stackEnergy (P : Part) (off : Nat) : (Part.failedWrite P off).stackEnergy = P.stackEnergy := rfl
@[simp] theorem Part.failedWrite_spent (P : Part) (off : Nat) : (Part.failedWrite P off).spent = P.spent := rfl
@[simp] theorem Part.failedWrite_unacked (P : Part) (off : Nat) : (Part.failedWrite P off).unacked = P.unacked := rfl
@[simp] theorem Part.failedWrite_testNext (P : Part) (off : Nat) : (Part.failedWrite P off).testNext = P.testNext := rfl
@[simp] theorem Part.failedWrite_inbox (P : Part) (off : Nat) : (Part.failedWrite P off).inbox = P.inbox := rfl

@[simp] theorem Part.freeze_regs (P : Part) (n : Nat) : (Part.freeze P n).regs = P.regs := rfl
@[simp] theorem Part.freeze_queues (P : Part) (n : Nat) : (Part.freeze P n).queues = P.queues := rfl
@[simp] theorem Part.freeze_run (P : Part) (n : Nat) : (Part.freeze P n).run = P.run := rfl
@[simp] theorem Part.freeze_choice (P : Part) (n : Nat) : (Part.freeze P n).choice = P.choice := rfl
@[simp] theorem Part.freeze_sieve (P : Part) (n : Nat) : (Part.freeze P n).sieve = P.sieve := rfl
@[simp] theorem Part.freeze_nextId (P : Part) (n : Nat) : (Part.freeze P n).nextId = P.nextId := rfl
@[simp] theorem Part.freeze_lastLaunch (P : Part) (n : Nat) : (Part.freeze P n).lastLaunch = P.lastLaunch := rfl
@[simp] theorem Part.freeze_signals (P : Part) (n : Nat) : (Part.freeze P n).signals = P.signals := rfl
@[simp] theorem Part.freeze_kernels (P : Part) (n : Nat) : (Part.freeze P n).kernels = P.kernels := rfl
@[simp] theorem Part.freeze_code (P : Part) (n : Nat) : (Part.freeze P n).code = P.code := rfl
@[simp] theorem Part.freeze_classes (P : Part) (n : Nat) : (Part.freeze P n).classes = P.classes := rfl
@[simp] theorem Part.freeze_keys (P : Part) (n : Nat) : (Part.freeze P n).keys = P.keys := rfl
@[simp] theorem Part.freeze_meas (P : Part) (n : Nat) : (Part.freeze P n).meas = P.meas := rfl
@[simp] theorem Part.freeze_elog (P : Part) (n : Nat) : (Part.freeze P n).elog = P.elog := rfl
@[simp] theorem Part.freeze_elogHead (P : Part) (n : Nat) : (Part.freeze P n).elogHead = P.elogHead := rfl
@[simp] theorem Part.freeze_faults (P : Part) (n : Nat) : (Part.freeze P n).faults = P.faults := rfl
@[simp] theorem Part.freeze_tlb (P : Part) (n : Nat) : (Part.freeze P n).tlb = P.tlb := rfl
@[simp] theorem Part.freeze_debug (P : Part) (n : Nat) : (Part.freeze P n).debug = P.debug := rfl
@[simp] theorem Part.freeze_vectors (P : Part) (n : Nat) : (Part.freeze P n).vectors = P.vectors := rfl
@[simp] theorem Part.freeze_reports (P : Part) (n : Nat) : (Part.freeze P n).reports = P.reports := rfl
@[simp] theorem Part.freeze_frozen (P : Part) (n : Nat) : (Part.freeze P n).frozen = P.frozen := rfl
@[simp] theorem Part.freeze_saved (P : Part) (n : Nat) : (Part.freeze P n).saved = P.saved := rfl
@[simp] theorem Part.freeze_freezing (P : Part) (n : Nat) : (Part.freeze P n).freezing = true := rfl
@[simp] theorem Part.freeze_reason (P : Part) (n : Nat) : (Part.freeze P n).reason = P.reason ||| BitVec.ofNat 6 (2 ^ n) := rfl
@[simp] theorem Part.freeze_draining (P : Part) (n : Nat) : (Part.freeze P n).draining = P.draining := rfl
@[simp] theorem Part.freeze_imageArea (P : Part) (n : Nat) : (Part.freeze P n).imageArea = P.imageArea := rfl
@[simp] theorem Part.freeze_images (P : Part) (n : Nat) : (Part.freeze P n).images = P.images := rfl
@[simp] theorem Part.freeze_fire (P : Part) (n : Nat) : (Part.freeze P n).fire = P.fire := rfl
@[simp] theorem Part.freeze_ret (P : Part) (n : Nat) : (Part.freeze P n).ret = P.ret := rfl
@[simp] theorem Part.freeze_lastFire (P : Part) (n : Nat) : (Part.freeze P n).lastFire = P.lastFire := rfl
@[simp] theorem Part.freeze_lastRet (P : Part) (n : Nat) : (Part.freeze P n).lastRet = P.lastRet := rfl
@[simp] theorem Part.freeze_lastFlit (P : Part) (n : Nat) : (Part.freeze P n).lastFlit = P.lastFlit := rfl
@[simp] theorem Part.freeze_flit (P : Part) (n : Nat) : (Part.freeze P n).flit = P.flit := rfl
@[simp] theorem Part.freeze_mark (P : Part) (n : Nat) : (Part.freeze P n).mark = P.mark := rfl
@[simp] theorem Part.freeze_atRisk (P : Part) (n : Nat) : (Part.freeze P n).atRisk = P.atRisk := rfl
@[simp] theorem Part.freeze_lostTeams (P : Part) (n : Nat) : (Part.freeze P n).lostTeams = P.lostTeams := rfl
@[simp] theorem Part.freeze_window (P : Part) (n : Nat) : (Part.freeze P n).window = P.window := rfl
@[simp] theorem Part.freeze_deferred (P : Part) (n : Nat) : (Part.freeze P n).deferred = P.deferred := rfl
@[simp] theorem Part.freeze_stackEnergy (P : Part) (n : Nat) : (Part.freeze P n).stackEnergy = P.stackEnergy := rfl
@[simp] theorem Part.freeze_spent (P : Part) (n : Nat) : (Part.freeze P n).spent = P.spent := rfl
@[simp] theorem Part.freeze_unacked (P : Part) (n : Nat) : (Part.freeze P n).unacked = P.unacked := rfl
@[simp] theorem Part.freeze_testNext (P : Part) (n : Nat) : (Part.freeze P n).testNext = P.testNext := rfl
@[simp] theorem Part.freeze_inbox (P : Part) (n : Nat) : (Part.freeze P n).inbox = P.inbox := rfl

@[simp] theorem Part.modTeam_regs (P : Part) (tk : Nat) (f : Team → Team) : (Part.modTeam P tk f).regs = P.regs := rfl
@[simp] theorem Part.modTeam_queues (P : Part) (tk : Nat) (f : Team → Team) : (Part.modTeam P tk f).queues = P.queues := rfl
@[simp] theorem Part.modTeam_choice (P : Part) (tk : Nat) (f : Team → Team) : (Part.modTeam P tk f).choice = P.choice := rfl
@[simp] theorem Part.modTeam_sieve (P : Part) (tk : Nat) (f : Team → Team) : (Part.modTeam P tk f).sieve = P.sieve := rfl
@[simp] theorem Part.modTeam_nextId (P : Part) (tk : Nat) (f : Team → Team) : (Part.modTeam P tk f).nextId = P.nextId := rfl
@[simp] theorem Part.modTeam_lastLaunch (P : Part) (tk : Nat) (f : Team → Team) : (Part.modTeam P tk f).lastLaunch = P.lastLaunch := rfl
@[simp] theorem Part.modTeam_signals (P : Part) (tk : Nat) (f : Team → Team) : (Part.modTeam P tk f).signals = P.signals := rfl
@[simp] theorem Part.modTeam_kernels (P : Part) (tk : Nat) (f : Team → Team) : (Part.modTeam P tk f).kernels = P.kernels := rfl
@[simp] theorem Part.modTeam_code (P : Part) (tk : Nat) (f : Team → Team) : (Part.modTeam P tk f).code = P.code := rfl
@[simp] theorem Part.modTeam_classes (P : Part) (tk : Nat) (f : Team → Team) : (Part.modTeam P tk f).classes = P.classes := rfl
@[simp] theorem Part.modTeam_keys (P : Part) (tk : Nat) (f : Team → Team) : (Part.modTeam P tk f).keys = P.keys := rfl
@[simp] theorem Part.modTeam_meas (P : Part) (tk : Nat) (f : Team → Team) : (Part.modTeam P tk f).meas = P.meas := rfl
@[simp] theorem Part.modTeam_elog (P : Part) (tk : Nat) (f : Team → Team) : (Part.modTeam P tk f).elog = P.elog := rfl
@[simp] theorem Part.modTeam_elogHead (P : Part) (tk : Nat) (f : Team → Team) : (Part.modTeam P tk f).elogHead = P.elogHead := rfl
@[simp] theorem Part.modTeam_faults (P : Part) (tk : Nat) (f : Team → Team) : (Part.modTeam P tk f).faults = P.faults := rfl
@[simp] theorem Part.modTeam_tlb (P : Part) (tk : Nat) (f : Team → Team) : (Part.modTeam P tk f).tlb = P.tlb := rfl
@[simp] theorem Part.modTeam_debug (P : Part) (tk : Nat) (f : Team → Team) : (Part.modTeam P tk f).debug = P.debug := rfl
@[simp] theorem Part.modTeam_vectors (P : Part) (tk : Nat) (f : Team → Team) : (Part.modTeam P tk f).vectors = P.vectors := rfl
@[simp] theorem Part.modTeam_reports (P : Part) (tk : Nat) (f : Team → Team) : (Part.modTeam P tk f).reports = P.reports := rfl
@[simp] theorem Part.modTeam_frozen (P : Part) (tk : Nat) (f : Team → Team) : (Part.modTeam P tk f).frozen = P.frozen := rfl
@[simp] theorem Part.modTeam_saved (P : Part) (tk : Nat) (f : Team → Team) : (Part.modTeam P tk f).saved = P.saved := rfl
@[simp] theorem Part.modTeam_freezing (P : Part) (tk : Nat) (f : Team → Team) : (Part.modTeam P tk f).freezing = P.freezing := rfl
@[simp] theorem Part.modTeam_reason (P : Part) (tk : Nat) (f : Team → Team) : (Part.modTeam P tk f).reason = P.reason := rfl
@[simp] theorem Part.modTeam_draining (P : Part) (tk : Nat) (f : Team → Team) : (Part.modTeam P tk f).draining = P.draining := rfl
@[simp] theorem Part.modTeam_imageArea (P : Part) (tk : Nat) (f : Team → Team) : (Part.modTeam P tk f).imageArea = P.imageArea := rfl
@[simp] theorem Part.modTeam_images (P : Part) (tk : Nat) (f : Team → Team) : (Part.modTeam P tk f).images = P.images := rfl
@[simp] theorem Part.modTeam_fire (P : Part) (tk : Nat) (f : Team → Team) : (Part.modTeam P tk f).fire = P.fire := rfl
@[simp] theorem Part.modTeam_ret (P : Part) (tk : Nat) (f : Team → Team) : (Part.modTeam P tk f).ret = P.ret := rfl
@[simp] theorem Part.modTeam_lastFire (P : Part) (tk : Nat) (f : Team → Team) : (Part.modTeam P tk f).lastFire = P.lastFire := rfl
@[simp] theorem Part.modTeam_lastRet (P : Part) (tk : Nat) (f : Team → Team) : (Part.modTeam P tk f).lastRet = P.lastRet := rfl
@[simp] theorem Part.modTeam_lastFlit (P : Part) (tk : Nat) (f : Team → Team) : (Part.modTeam P tk f).lastFlit = P.lastFlit := rfl
@[simp] theorem Part.modTeam_flit (P : Part) (tk : Nat) (f : Team → Team) : (Part.modTeam P tk f).flit = P.flit := rfl
@[simp] theorem Part.modTeam_mark (P : Part) (tk : Nat) (f : Team → Team) : (Part.modTeam P tk f).mark = P.mark := rfl
@[simp] theorem Part.modTeam_atRisk (P : Part) (tk : Nat) (f : Team → Team) : (Part.modTeam P tk f).atRisk = P.atRisk := rfl
@[simp] theorem Part.modTeam_lostTeams (P : Part) (tk : Nat) (f : Team → Team) : (Part.modTeam P tk f).lostTeams = P.lostTeams := rfl
@[simp] theorem Part.modTeam_window (P : Part) (tk : Nat) (f : Team → Team) : (Part.modTeam P tk f).window = P.window := rfl
@[simp] theorem Part.modTeam_deferred (P : Part) (tk : Nat) (f : Team → Team) : (Part.modTeam P tk f).deferred = P.deferred := rfl
@[simp] theorem Part.modTeam_stackEnergy (P : Part) (tk : Nat) (f : Team → Team) : (Part.modTeam P tk f).stackEnergy = P.stackEnergy := rfl
@[simp] theorem Part.modTeam_spent (P : Part) (tk : Nat) (f : Team → Team) : (Part.modTeam P tk f).spent = P.spent := rfl
@[simp] theorem Part.modTeam_unacked (P : Part) (tk : Nat) (f : Team → Team) : (Part.modTeam P tk f).unacked = P.unacked := rfl
@[simp] theorem Part.modTeam_testNext (P : Part) (tk : Nat) (f : Team → Team) : (Part.modTeam P tk f).testNext = P.testNext := rfl
@[simp] theorem Part.modTeam_inbox (P : Part) (tk : Nat) (f : Team → Team) : (Part.modTeam P tk f).inbox = P.inbox := rfl

@[simp] theorem Part.modCore_regs (P : Part) (k : Nat) (f : Core → Core) : (Part.modCore P k f).regs = P.regs := rfl
@[simp] theorem Part.modCore_queues (P : Part) (k : Nat) (f : Core → Core) : (Part.modCore P k f).queues = P.queues := rfl
@[simp] theorem Part.modCore_choice (P : Part) (k : Nat) (f : Core → Core) : (Part.modCore P k f).choice = P.choice := rfl
@[simp] theorem Part.modCore_sieve (P : Part) (k : Nat) (f : Core → Core) : (Part.modCore P k f).sieve = P.sieve := rfl
@[simp] theorem Part.modCore_nextId (P : Part) (k : Nat) (f : Core → Core) : (Part.modCore P k f).nextId = P.nextId := rfl
@[simp] theorem Part.modCore_lastLaunch (P : Part) (k : Nat) (f : Core → Core) : (Part.modCore P k f).lastLaunch = P.lastLaunch := rfl
@[simp] theorem Part.modCore_signals (P : Part) (k : Nat) (f : Core → Core) : (Part.modCore P k f).signals = P.signals := rfl
@[simp] theorem Part.modCore_kernels (P : Part) (k : Nat) (f : Core → Core) : (Part.modCore P k f).kernels = P.kernels := rfl
@[simp] theorem Part.modCore_code (P : Part) (k : Nat) (f : Core → Core) : (Part.modCore P k f).code = P.code := rfl
@[simp] theorem Part.modCore_classes (P : Part) (k : Nat) (f : Core → Core) : (Part.modCore P k f).classes = P.classes := rfl
@[simp] theorem Part.modCore_keys (P : Part) (k : Nat) (f : Core → Core) : (Part.modCore P k f).keys = P.keys := rfl
@[simp] theorem Part.modCore_meas (P : Part) (k : Nat) (f : Core → Core) : (Part.modCore P k f).meas = P.meas := rfl
@[simp] theorem Part.modCore_elog (P : Part) (k : Nat) (f : Core → Core) : (Part.modCore P k f).elog = P.elog := rfl
@[simp] theorem Part.modCore_elogHead (P : Part) (k : Nat) (f : Core → Core) : (Part.modCore P k f).elogHead = P.elogHead := rfl
@[simp] theorem Part.modCore_faults (P : Part) (k : Nat) (f : Core → Core) : (Part.modCore P k f).faults = P.faults := rfl
@[simp] theorem Part.modCore_tlb (P : Part) (k : Nat) (f : Core → Core) : (Part.modCore P k f).tlb = P.tlb := rfl
@[simp] theorem Part.modCore_debug (P : Part) (k : Nat) (f : Core → Core) : (Part.modCore P k f).debug = P.debug := rfl
@[simp] theorem Part.modCore_vectors (P : Part) (k : Nat) (f : Core → Core) : (Part.modCore P k f).vectors = P.vectors := rfl
@[simp] theorem Part.modCore_reports (P : Part) (k : Nat) (f : Core → Core) : (Part.modCore P k f).reports = P.reports := rfl
@[simp] theorem Part.modCore_frozen (P : Part) (k : Nat) (f : Core → Core) : (Part.modCore P k f).frozen = P.frozen := rfl
@[simp] theorem Part.modCore_saved (P : Part) (k : Nat) (f : Core → Core) : (Part.modCore P k f).saved = P.saved := rfl
@[simp] theorem Part.modCore_freezing (P : Part) (k : Nat) (f : Core → Core) : (Part.modCore P k f).freezing = P.freezing := rfl
@[simp] theorem Part.modCore_reason (P : Part) (k : Nat) (f : Core → Core) : (Part.modCore P k f).reason = P.reason := rfl
@[simp] theorem Part.modCore_draining (P : Part) (k : Nat) (f : Core → Core) : (Part.modCore P k f).draining = P.draining := rfl
@[simp] theorem Part.modCore_imageArea (P : Part) (k : Nat) (f : Core → Core) : (Part.modCore P k f).imageArea = P.imageArea := rfl
@[simp] theorem Part.modCore_images (P : Part) (k : Nat) (f : Core → Core) : (Part.modCore P k f).images = P.images := rfl
@[simp] theorem Part.modCore_fire (P : Part) (k : Nat) (f : Core → Core) : (Part.modCore P k f).fire = P.fire := rfl
@[simp] theorem Part.modCore_ret (P : Part) (k : Nat) (f : Core → Core) : (Part.modCore P k f).ret = P.ret := rfl
@[simp] theorem Part.modCore_lastFire (P : Part) (k : Nat) (f : Core → Core) : (Part.modCore P k f).lastFire = P.lastFire := rfl
@[simp] theorem Part.modCore_lastRet (P : Part) (k : Nat) (f : Core → Core) : (Part.modCore P k f).lastRet = P.lastRet := rfl
@[simp] theorem Part.modCore_lastFlit (P : Part) (k : Nat) (f : Core → Core) : (Part.modCore P k f).lastFlit = P.lastFlit := rfl
@[simp] theorem Part.modCore_flit (P : Part) (k : Nat) (f : Core → Core) : (Part.modCore P k f).flit = P.flit := rfl
@[simp] theorem Part.modCore_mark (P : Part) (k : Nat) (f : Core → Core) : (Part.modCore P k f).mark = P.mark := rfl
@[simp] theorem Part.modCore_atRisk (P : Part) (k : Nat) (f : Core → Core) : (Part.modCore P k f).atRisk = P.atRisk := rfl
@[simp] theorem Part.modCore_lostTeams (P : Part) (k : Nat) (f : Core → Core) : (Part.modCore P k f).lostTeams = P.lostTeams := rfl
@[simp] theorem Part.modCore_window (P : Part) (k : Nat) (f : Core → Core) : (Part.modCore P k f).window = P.window := rfl
@[simp] theorem Part.modCore_deferred (P : Part) (k : Nat) (f : Core → Core) : (Part.modCore P k f).deferred = P.deferred := rfl
@[simp] theorem Part.modCore_stackEnergy (P : Part) (k : Nat) (f : Core → Core) : (Part.modCore P k f).stackEnergy = P.stackEnergy := rfl
@[simp] theorem Part.modCore_spent (P : Part) (k : Nat) (f : Core → Core) : (Part.modCore P k f).spent = P.spent := rfl
@[simp] theorem Part.modCore_unacked (P : Part) (k : Nat) (f : Core → Core) : (Part.modCore P k f).unacked = P.unacked := rfl
@[simp] theorem Part.modCore_testNext (P : Part) (k : Nat) (f : Core → Core) : (Part.modCore P k f).testNext = P.testNext := rfl
@[simp] theorem Part.modCore_inbox (P : Part) (k : Nat) (f : Core → Core) : (Part.modCore P k f).inbox = P.inbox := rfl

@[simp] theorem Part.modHome_regs (P : Part) (k : Nat) (f : Home → Home) : (Part.modHome P k f).regs = P.regs := rfl
@[simp] theorem Part.modHome_queues (P : Part) (k : Nat) (f : Home → Home) : (Part.modHome P k f).queues = P.queues := rfl
@[simp] theorem Part.modHome_choice (P : Part) (k : Nat) (f : Home → Home) : (Part.modHome P k f).choice = P.choice := rfl
@[simp] theorem Part.modHome_sieve (P : Part) (k : Nat) (f : Home → Home) : (Part.modHome P k f).sieve = P.sieve := rfl
@[simp] theorem Part.modHome_nextId (P : Part) (k : Nat) (f : Home → Home) : (Part.modHome P k f).nextId = P.nextId := rfl
@[simp] theorem Part.modHome_lastLaunch (P : Part) (k : Nat) (f : Home → Home) : (Part.modHome P k f).lastLaunch = P.lastLaunch := rfl
@[simp] theorem Part.modHome_signals (P : Part) (k : Nat) (f : Home → Home) : (Part.modHome P k f).signals = P.signals := rfl
@[simp] theorem Part.modHome_kernels (P : Part) (k : Nat) (f : Home → Home) : (Part.modHome P k f).kernels = P.kernels := rfl
@[simp] theorem Part.modHome_code (P : Part) (k : Nat) (f : Home → Home) : (Part.modHome P k f).code = P.code := rfl
@[simp] theorem Part.modHome_classes (P : Part) (k : Nat) (f : Home → Home) : (Part.modHome P k f).classes = P.classes := rfl
@[simp] theorem Part.modHome_keys (P : Part) (k : Nat) (f : Home → Home) : (Part.modHome P k f).keys = P.keys := rfl
@[simp] theorem Part.modHome_meas (P : Part) (k : Nat) (f : Home → Home) : (Part.modHome P k f).meas = P.meas := rfl
@[simp] theorem Part.modHome_elog (P : Part) (k : Nat) (f : Home → Home) : (Part.modHome P k f).elog = P.elog := rfl
@[simp] theorem Part.modHome_elogHead (P : Part) (k : Nat) (f : Home → Home) : (Part.modHome P k f).elogHead = P.elogHead := rfl
@[simp] theorem Part.modHome_faults (P : Part) (k : Nat) (f : Home → Home) : (Part.modHome P k f).faults = P.faults := rfl
@[simp] theorem Part.modHome_tlb (P : Part) (k : Nat) (f : Home → Home) : (Part.modHome P k f).tlb = P.tlb := rfl
@[simp] theorem Part.modHome_debug (P : Part) (k : Nat) (f : Home → Home) : (Part.modHome P k f).debug = P.debug := rfl
@[simp] theorem Part.modHome_vectors (P : Part) (k : Nat) (f : Home → Home) : (Part.modHome P k f).vectors = P.vectors := rfl
@[simp] theorem Part.modHome_reports (P : Part) (k : Nat) (f : Home → Home) : (Part.modHome P k f).reports = P.reports := rfl
@[simp] theorem Part.modHome_frozen (P : Part) (k : Nat) (f : Home → Home) : (Part.modHome P k f).frozen = P.frozen := rfl
@[simp] theorem Part.modHome_saved (P : Part) (k : Nat) (f : Home → Home) : (Part.modHome P k f).saved = P.saved := rfl
@[simp] theorem Part.modHome_freezing (P : Part) (k : Nat) (f : Home → Home) : (Part.modHome P k f).freezing = P.freezing := rfl
@[simp] theorem Part.modHome_reason (P : Part) (k : Nat) (f : Home → Home) : (Part.modHome P k f).reason = P.reason := rfl
@[simp] theorem Part.modHome_draining (P : Part) (k : Nat) (f : Home → Home) : (Part.modHome P k f).draining = P.draining := rfl
@[simp] theorem Part.modHome_imageArea (P : Part) (k : Nat) (f : Home → Home) : (Part.modHome P k f).imageArea = P.imageArea := rfl
@[simp] theorem Part.modHome_images (P : Part) (k : Nat) (f : Home → Home) : (Part.modHome P k f).images = P.images := rfl
@[simp] theorem Part.modHome_fire (P : Part) (k : Nat) (f : Home → Home) : (Part.modHome P k f).fire = P.fire := rfl
@[simp] theorem Part.modHome_ret (P : Part) (k : Nat) (f : Home → Home) : (Part.modHome P k f).ret = P.ret := rfl
@[simp] theorem Part.modHome_lastFire (P : Part) (k : Nat) (f : Home → Home) : (Part.modHome P k f).lastFire = P.lastFire := rfl
@[simp] theorem Part.modHome_lastRet (P : Part) (k : Nat) (f : Home → Home) : (Part.modHome P k f).lastRet = P.lastRet := rfl
@[simp] theorem Part.modHome_lastFlit (P : Part) (k : Nat) (f : Home → Home) : (Part.modHome P k f).lastFlit = P.lastFlit := rfl
@[simp] theorem Part.modHome_flit (P : Part) (k : Nat) (f : Home → Home) : (Part.modHome P k f).flit = P.flit := rfl
@[simp] theorem Part.modHome_mark (P : Part) (k : Nat) (f : Home → Home) : (Part.modHome P k f).mark = P.mark := rfl
@[simp] theorem Part.modHome_atRisk (P : Part) (k : Nat) (f : Home → Home) : (Part.modHome P k f).atRisk = P.atRisk := rfl
@[simp] theorem Part.modHome_lostTeams (P : Part) (k : Nat) (f : Home → Home) : (Part.modHome P k f).lostTeams = P.lostTeams := rfl
@[simp] theorem Part.modHome_window (P : Part) (k : Nat) (f : Home → Home) : (Part.modHome P k f).window = P.window := rfl
@[simp] theorem Part.modHome_deferred (P : Part) (k : Nat) (f : Home → Home) : (Part.modHome P k f).deferred = P.deferred := rfl
@[simp] theorem Part.modHome_stackEnergy (P : Part) (k : Nat) (f : Home → Home) : (Part.modHome P k f).stackEnergy = P.stackEnergy := rfl
@[simp] theorem Part.modHome_spent (P : Part) (k : Nat) (f : Home → Home) : (Part.modHome P k f).spent = P.spent := rfl
@[simp] theorem Part.modHome_unacked (P : Part) (k : Nat) (f : Home → Home) : (Part.modHome P k f).unacked = P.unacked := rfl
@[simp] theorem Part.modHome_testNext (P : Part) (k : Nat) (f : Home → Home) : (Part.modHome P k f).testNext = P.testNext := rfl
@[simp] theorem Part.modHome_inbox (P : Part) (k : Nat) (f : Home → Home) : (Part.modHome P k f).inbox = P.inbox := rfl

@[simp] theorem State.setPart_mem (s : State) (p : PartNo) (P : Part) : (State.setPart s p P).mem = s.mem := rfl
@[simp] theorem State.setPart_memPoison (s : State) (p : PartNo) (P : Part) : (State.setPart s p P).memPoison = s.memPoison := rfl
@[simp] theorem State.setPart_late (s : State) (p : PartNo) (P : Part) : (State.setPart s p P).late = s.late := rfl
@[simp] theorem State.setPart_parts (s : State) (p : PartNo) (P : Part) : (State.setPart s p P).parts = Table.set s.parts p.toNat P := rfl
@[simp] theorem State.setPart_granules (s : State) (p : PartNo) (P : Part) : (State.setPart s p P).granules = s.granules := rfl
@[simp] theorem State.setPart_pfArg (s : State) (p : PartNo) (P : Part) : (State.setPart s p P).pfArg = s.pfArg := rfl
@[simp] theorem State.setPart_pfBusy (s : State) (p : PartNo) (P : Part) : (State.setPart s p P).pfBusy = s.pfBusy := rfl
@[simp] theorem State.setPart_pfStatus (s : State) (p : PartNo) (P : Part) : (State.setPart s p P).pfStatus = s.pfStatus := rfl
@[simp] theorem State.setPart_portGrant (s : State) (p : PartNo) (P : Part) : (State.setPart s p P).portGrant = s.portGrant := rfl
@[simp] theorem State.setPart_sharedSev (s : State) (p : PartNo) (P : Part) : (State.setPart s p P).sharedSev = s.sharedSev := rfl
@[simp] theorem State.setPart_meas (s : State) (p : PartNo) (P : Part) : (State.setPart s p P).meas = s.meas := rfl
@[simp] theorem State.setPart_minSecVer (s : State) (p : PartNo) (P : Part) : (State.setPart s p P).minSecVer = s.minSecVer := rfl
@[simp] theorem State.setPart_fw (s : State) (p : PartNo) (P : Part) : (State.setPart s p P).fw = s.fw := rfl
@[simp] theorem State.setPart_execFrames (s : State) (p : PartNo) (P : Part) : (State.setPart s p P).execFrames = s.execFrames := rfl
@[simp] theorem State.setPart_links (s : State) (p : PartNo) (P : Part) : (State.setPart s p P).links = s.links := rfl
@[simp] theorem State.setPart_paused (s : State) (p : PartNo) (P : Part) : (State.setPart s p P).paused = s.paused := rfl
@[simp] theorem State.setPart_cxlDown (s : State) (p : PartNo) (P : Part) : (State.setPart s p P).cxlDown = s.cxlDown := rfl
@[simp] theorem State.setPart_energy (s : State) (p : PartNo) (P : Part) : (State.setPart s p P).energy = s.energy := rfl
@[simp] theorem State.setPart_clock (s : State) (p : PartNo) (P : Part) : (State.setPart s p P).clock = s.clock := rfl
@[simp] theorem State.setPart_throttle (s : State) (p : PartNo) (P : Part) : (State.setPart s p P).throttle = s.throttle := rfl
@[simp] theorem State.setPart_notices (s : State) (p : PartNo) (P : Part) : (State.setPart s p P).notices = s.notices := rfl
@[simp] theorem State.setPart_stopped (s : State) (p : PartNo) (P : Part) : (State.setPart s p P).stopped = s.stopped := rfl
@[simp] theorem State.setPart_time (s : State) (p : PartNo) (P : Part) : (State.setPart s p P).time = s.time := rfl
@[simp] theorem State.setPart_ownClock (s : State) (p : PartNo) (P : Part) : (State.setPart s p P).ownClock = s.ownClock := rfl
@[simp] theorem State.setPart_hostData (s : State) (p : PartNo) (P : Part) : (State.setPart s p P).hostData = s.hostData := rfl
@[simp] theorem State.setPart_agenda (s : State) (p : PartNo) (P : Part) : (State.setPart s p P).agenda = s.agenda := rfl
@[simp] theorem State.setPart_tick (s : State) (p : PartNo) (P : Part) : (State.setPart s p P).tick = s.tick := rfl
@[simp] theorem State.setPart_cur (s : State) (p : PartNo) (P : Part) : (State.setPart s p P).cur = s.cur := rfl

@[simp] theorem State.modPart_mem (s : State) (p : PartNo) (f : Part → Part) : (State.modPart s p f).mem = s.mem := rfl
@[simp] theorem State.modPart_memPoison (s : State) (p : PartNo) (f : Part → Part) : (State.modPart s p f).memPoison = s.memPoison := rfl
@[simp] theorem State.modPart_late (s : State) (p : PartNo) (f : Part → Part) : (State.modPart s p f).late = s.late := rfl
@[simp] theorem State.modPart_parts (s : State) (p : PartNo) (f : Part → Part) : (State.modPart s p f).parts = Table.modify s.parts p.toNat f := rfl
@[simp] theorem State.modPart_granules (s : State) (p : PartNo) (f : Part → Part) : (State.modPart s p f).granules = s.granules := rfl
@[simp] theorem State.modPart_pfArg (s : State) (p : PartNo) (f : Part → Part) : (State.modPart s p f).pfArg = s.pfArg := rfl
@[simp] theorem State.modPart_pfBusy (s : State) (p : PartNo) (f : Part → Part) : (State.modPart s p f).pfBusy = s.pfBusy := rfl
@[simp] theorem State.modPart_pfStatus (s : State) (p : PartNo) (f : Part → Part) : (State.modPart s p f).pfStatus = s.pfStatus := rfl
@[simp] theorem State.modPart_portGrant (s : State) (p : PartNo) (f : Part → Part) : (State.modPart s p f).portGrant = s.portGrant := rfl
@[simp] theorem State.modPart_sharedSev (s : State) (p : PartNo) (f : Part → Part) : (State.modPart s p f).sharedSev = s.sharedSev := rfl
@[simp] theorem State.modPart_meas (s : State) (p : PartNo) (f : Part → Part) : (State.modPart s p f).meas = s.meas := rfl
@[simp] theorem State.modPart_minSecVer (s : State) (p : PartNo) (f : Part → Part) : (State.modPart s p f).minSecVer = s.minSecVer := rfl
@[simp] theorem State.modPart_fw (s : State) (p : PartNo) (f : Part → Part) : (State.modPart s p f).fw = s.fw := rfl
@[simp] theorem State.modPart_execFrames (s : State) (p : PartNo) (f : Part → Part) : (State.modPart s p f).execFrames = s.execFrames := rfl
@[simp] theorem State.modPart_links (s : State) (p : PartNo) (f : Part → Part) : (State.modPart s p f).links = s.links := rfl
@[simp] theorem State.modPart_paused (s : State) (p : PartNo) (f : Part → Part) : (State.modPart s p f).paused = s.paused := rfl
@[simp] theorem State.modPart_cxlDown (s : State) (p : PartNo) (f : Part → Part) : (State.modPart s p f).cxlDown = s.cxlDown := rfl
@[simp] theorem State.modPart_energy (s : State) (p : PartNo) (f : Part → Part) : (State.modPart s p f).energy = s.energy := rfl
@[simp] theorem State.modPart_clock (s : State) (p : PartNo) (f : Part → Part) : (State.modPart s p f).clock = s.clock := rfl
@[simp] theorem State.modPart_throttle (s : State) (p : PartNo) (f : Part → Part) : (State.modPart s p f).throttle = s.throttle := rfl
@[simp] theorem State.modPart_notices (s : State) (p : PartNo) (f : Part → Part) : (State.modPart s p f).notices = s.notices := rfl
@[simp] theorem State.modPart_stopped (s : State) (p : PartNo) (f : Part → Part) : (State.modPart s p f).stopped = s.stopped := rfl
@[simp] theorem State.modPart_time (s : State) (p : PartNo) (f : Part → Part) : (State.modPart s p f).time = s.time := rfl
@[simp] theorem State.modPart_ownClock (s : State) (p : PartNo) (f : Part → Part) : (State.modPart s p f).ownClock = s.ownClock := rfl
@[simp] theorem State.modPart_hostData (s : State) (p : PartNo) (f : Part → Part) : (State.modPart s p f).hostData = s.hostData := rfl
@[simp] theorem State.modPart_agenda (s : State) (p : PartNo) (f : Part → Part) : (State.modPart s p f).agenda = s.agenda := rfl
@[simp] theorem State.modPart_tick (s : State) (p : PartNo) (f : Part → Part) : (State.modPart s p f).tick = s.tick := rfl
@[simp] theorem State.modPart_cur (s : State) (p : PartNo) (f : Part → Part) : (State.modPart s p f).cur = s.cur := rfl

@[simp] theorem State.modGroup_mem (s : State) (p : PartNo) (gid : Nat) (f : Group → Group) : (State.modGroup s p gid f).mem = s.mem := rfl
@[simp] theorem State.modGroup_memPoison (s : State) (p : PartNo) (gid : Nat) (f : Group → Group) : (State.modGroup s p gid f).memPoison = s.memPoison := rfl
@[simp] theorem State.modGroup_late (s : State) (p : PartNo) (gid : Nat) (f : Group → Group) : (State.modGroup s p gid f).late = s.late := rfl
@[simp] theorem State.modGroup_granules (s : State) (p : PartNo) (gid : Nat) (f : Group → Group) : (State.modGroup s p gid f).granules = s.granules := rfl
@[simp] theorem State.modGroup_pfArg (s : State) (p : PartNo) (gid : Nat) (f : Group → Group) : (State.modGroup s p gid f).pfArg = s.pfArg := rfl
@[simp] theorem State.modGroup_pfBusy (s : State) (p : PartNo) (gid : Nat) (f : Group → Group) : (State.modGroup s p gid f).pfBusy = s.pfBusy := rfl
@[simp] theorem State.modGroup_pfStatus (s : State) (p : PartNo) (gid : Nat) (f : Group → Group) : (State.modGroup s p gid f).pfStatus = s.pfStatus := rfl
@[simp] theorem State.modGroup_portGrant (s : State) (p : PartNo) (gid : Nat) (f : Group → Group) : (State.modGroup s p gid f).portGrant = s.portGrant := rfl
@[simp] theorem State.modGroup_sharedSev (s : State) (p : PartNo) (gid : Nat) (f : Group → Group) : (State.modGroup s p gid f).sharedSev = s.sharedSev := rfl
@[simp] theorem State.modGroup_meas (s : State) (p : PartNo) (gid : Nat) (f : Group → Group) : (State.modGroup s p gid f).meas = s.meas := rfl
@[simp] theorem State.modGroup_minSecVer (s : State) (p : PartNo) (gid : Nat) (f : Group → Group) : (State.modGroup s p gid f).minSecVer = s.minSecVer := rfl
@[simp] theorem State.modGroup_fw (s : State) (p : PartNo) (gid : Nat) (f : Group → Group) : (State.modGroup s p gid f).fw = s.fw := rfl
@[simp] theorem State.modGroup_execFrames (s : State) (p : PartNo) (gid : Nat) (f : Group → Group) : (State.modGroup s p gid f).execFrames = s.execFrames := rfl
@[simp] theorem State.modGroup_links (s : State) (p : PartNo) (gid : Nat) (f : Group → Group) : (State.modGroup s p gid f).links = s.links := rfl
@[simp] theorem State.modGroup_paused (s : State) (p : PartNo) (gid : Nat) (f : Group → Group) : (State.modGroup s p gid f).paused = s.paused := rfl
@[simp] theorem State.modGroup_cxlDown (s : State) (p : PartNo) (gid : Nat) (f : Group → Group) : (State.modGroup s p gid f).cxlDown = s.cxlDown := rfl
@[simp] theorem State.modGroup_energy (s : State) (p : PartNo) (gid : Nat) (f : Group → Group) : (State.modGroup s p gid f).energy = s.energy := rfl
@[simp] theorem State.modGroup_clock (s : State) (p : PartNo) (gid : Nat) (f : Group → Group) : (State.modGroup s p gid f).clock = s.clock := rfl
@[simp] theorem State.modGroup_throttle (s : State) (p : PartNo) (gid : Nat) (f : Group → Group) : (State.modGroup s p gid f).throttle = s.throttle := rfl
@[simp] theorem State.modGroup_notices (s : State) (p : PartNo) (gid : Nat) (f : Group → Group) : (State.modGroup s p gid f).notices = s.notices := rfl
@[simp] theorem State.modGroup_stopped (s : State) (p : PartNo) (gid : Nat) (f : Group → Group) : (State.modGroup s p gid f).stopped = s.stopped := rfl
@[simp] theorem State.modGroup_time (s : State) (p : PartNo) (gid : Nat) (f : Group → Group) : (State.modGroup s p gid f).time = s.time := rfl
@[simp] theorem State.modGroup_ownClock (s : State) (p : PartNo) (gid : Nat) (f : Group → Group) : (State.modGroup s p gid f).ownClock = s.ownClock := rfl
@[simp] theorem State.modGroup_hostData (s : State) (p : PartNo) (gid : Nat) (f : Group → Group) : (State.modGroup s p gid f).hostData = s.hostData := rfl
@[simp] theorem State.modGroup_agenda (s : State) (p : PartNo) (gid : Nat) (f : Group → Group) : (State.modGroup s p gid f).agenda = s.agenda := rfl
@[simp] theorem State.modGroup_tick (s : State) (p : PartNo) (gid : Nat) (f : Group → Group) : (State.modGroup s p gid f).tick = s.tick := rfl
@[simp] theorem State.modGroup_cur (s : State) (p : PartNo) (gid : Nat) (f : Group → Group) : (State.modGroup s p gid f).cur = s.cur := rfl

@[simp] theorem State.modTeam_mem (s : State) (p : PartNo) (tk : Nat) (f : Team → Team) : (State.modTeam s p tk f).mem = s.mem := rfl
@[simp] theorem State.modTeam_memPoison (s : State) (p : PartNo) (tk : Nat) (f : Team → Team) : (State.modTeam s p tk f).memPoison = s.memPoison := rfl
@[simp] theorem State.modTeam_late (s : State) (p : PartNo) (tk : Nat) (f : Team → Team) : (State.modTeam s p tk f).late = s.late := rfl
@[simp] theorem State.modTeam_granules (s : State) (p : PartNo) (tk : Nat) (f : Team → Team) : (State.modTeam s p tk f).granules = s.granules := rfl
@[simp] theorem State.modTeam_pfArg (s : State) (p : PartNo) (tk : Nat) (f : Team → Team) : (State.modTeam s p tk f).pfArg = s.pfArg := rfl
@[simp] theorem State.modTeam_pfBusy (s : State) (p : PartNo) (tk : Nat) (f : Team → Team) : (State.modTeam s p tk f).pfBusy = s.pfBusy := rfl
@[simp] theorem State.modTeam_pfStatus (s : State) (p : PartNo) (tk : Nat) (f : Team → Team) : (State.modTeam s p tk f).pfStatus = s.pfStatus := rfl
@[simp] theorem State.modTeam_portGrant (s : State) (p : PartNo) (tk : Nat) (f : Team → Team) : (State.modTeam s p tk f).portGrant = s.portGrant := rfl
@[simp] theorem State.modTeam_sharedSev (s : State) (p : PartNo) (tk : Nat) (f : Team → Team) : (State.modTeam s p tk f).sharedSev = s.sharedSev := rfl
@[simp] theorem State.modTeam_meas (s : State) (p : PartNo) (tk : Nat) (f : Team → Team) : (State.modTeam s p tk f).meas = s.meas := rfl
@[simp] theorem State.modTeam_minSecVer (s : State) (p : PartNo) (tk : Nat) (f : Team → Team) : (State.modTeam s p tk f).minSecVer = s.minSecVer := rfl
@[simp] theorem State.modTeam_fw (s : State) (p : PartNo) (tk : Nat) (f : Team → Team) : (State.modTeam s p tk f).fw = s.fw := rfl
@[simp] theorem State.modTeam_execFrames (s : State) (p : PartNo) (tk : Nat) (f : Team → Team) : (State.modTeam s p tk f).execFrames = s.execFrames := rfl
@[simp] theorem State.modTeam_links (s : State) (p : PartNo) (tk : Nat) (f : Team → Team) : (State.modTeam s p tk f).links = s.links := rfl
@[simp] theorem State.modTeam_paused (s : State) (p : PartNo) (tk : Nat) (f : Team → Team) : (State.modTeam s p tk f).paused = s.paused := rfl
@[simp] theorem State.modTeam_cxlDown (s : State) (p : PartNo) (tk : Nat) (f : Team → Team) : (State.modTeam s p tk f).cxlDown = s.cxlDown := rfl
@[simp] theorem State.modTeam_energy (s : State) (p : PartNo) (tk : Nat) (f : Team → Team) : (State.modTeam s p tk f).energy = s.energy := rfl
@[simp] theorem State.modTeam_clock (s : State) (p : PartNo) (tk : Nat) (f : Team → Team) : (State.modTeam s p tk f).clock = s.clock := rfl
@[simp] theorem State.modTeam_throttle (s : State) (p : PartNo) (tk : Nat) (f : Team → Team) : (State.modTeam s p tk f).throttle = s.throttle := rfl
@[simp] theorem State.modTeam_notices (s : State) (p : PartNo) (tk : Nat) (f : Team → Team) : (State.modTeam s p tk f).notices = s.notices := rfl
@[simp] theorem State.modTeam_stopped (s : State) (p : PartNo) (tk : Nat) (f : Team → Team) : (State.modTeam s p tk f).stopped = s.stopped := rfl
@[simp] theorem State.modTeam_time (s : State) (p : PartNo) (tk : Nat) (f : Team → Team) : (State.modTeam s p tk f).time = s.time := rfl
@[simp] theorem State.modTeam_ownClock (s : State) (p : PartNo) (tk : Nat) (f : Team → Team) : (State.modTeam s p tk f).ownClock = s.ownClock := rfl
@[simp] theorem State.modTeam_hostData (s : State) (p : PartNo) (tk : Nat) (f : Team → Team) : (State.modTeam s p tk f).hostData = s.hostData := rfl
@[simp] theorem State.modTeam_agenda (s : State) (p : PartNo) (tk : Nat) (f : Team → Team) : (State.modTeam s p tk f).agenda = s.agenda := rfl
@[simp] theorem State.modTeam_tick (s : State) (p : PartNo) (tk : Nat) (f : Team → Team) : (State.modTeam s p tk f).tick = s.tick := rfl
@[simp] theorem State.modTeam_cur (s : State) (p : PartNo) (tk : Nat) (f : Team → Team) : (State.modTeam s p tk f).cur = s.cur := rfl

@[simp] theorem State.store_mem (s : State) (pa : Nat) (bs : List Byte) : (State.store s pa bs).mem = if s.portDown pa then s.mem else Cells.setMany 0 s.mem pa bs := by unfold State.store; split <;> rfl
@[simp] theorem State.store_late (s : State) (pa : Nat) (bs : List Byte) : (State.store s pa bs).late = s.late := by unfold State.store; split <;> rfl
@[simp] theorem State.store_parts (s : State) (pa : Nat) (bs : List Byte) : (State.store s pa bs).parts = s.parts := by unfold State.store; split <;> rfl
@[simp] theorem State.store_granules (s : State) (pa : Nat) (bs : List Byte) : (State.store s pa bs).granules = s.granules := by unfold State.store; split <;> rfl
@[simp] theorem State.store_pfArg (s : State) (pa : Nat) (bs : List Byte) : (State.store s pa bs).pfArg = s.pfArg := by unfold State.store; split <;> rfl
@[simp] theorem State.store_pfBusy (s : State) (pa : Nat) (bs : List Byte) : (State.store s pa bs).pfBusy = s.pfBusy := by unfold State.store; split <;> rfl
@[simp] theorem State.store_pfStatus (s : State) (pa : Nat) (bs : List Byte) : (State.store s pa bs).pfStatus = s.pfStatus := by unfold State.store; split <;> rfl
@[simp] theorem State.store_portGrant (s : State) (pa : Nat) (bs : List Byte) : (State.store s pa bs).portGrant = s.portGrant := by unfold State.store; split <;> rfl
@[simp] theorem State.store_sharedSev (s : State) (pa : Nat) (bs : List Byte) : (State.store s pa bs).sharedSev = s.sharedSev := by unfold State.store; split <;> rfl
@[simp] theorem State.store_meas (s : State) (pa : Nat) (bs : List Byte) : (State.store s pa bs).meas = s.meas := by unfold State.store; split <;> rfl
@[simp] theorem State.store_minSecVer (s : State) (pa : Nat) (bs : List Byte) : (State.store s pa bs).minSecVer = s.minSecVer := by unfold State.store; split <;> rfl
@[simp] theorem State.store_fw (s : State) (pa : Nat) (bs : List Byte) : (State.store s pa bs).fw = s.fw := by unfold State.store; split <;> rfl
@[simp] theorem State.store_execFrames (s : State) (pa : Nat) (bs : List Byte) : (State.store s pa bs).execFrames = s.execFrames := by unfold State.store; split <;> rfl
@[simp] theorem State.store_links (s : State) (pa : Nat) (bs : List Byte) : (State.store s pa bs).links = s.links := by unfold State.store; split <;> rfl
@[simp] theorem State.store_paused (s : State) (pa : Nat) (bs : List Byte) : (State.store s pa bs).paused = s.paused := by unfold State.store; split <;> rfl
@[simp] theorem State.store_cxlDown (s : State) (pa : Nat) (bs : List Byte) : (State.store s pa bs).cxlDown = s.cxlDown := by unfold State.store; split <;> rfl
@[simp] theorem State.store_energy (s : State) (pa : Nat) (bs : List Byte) : (State.store s pa bs).energy = s.energy := by unfold State.store; split <;> rfl
@[simp] theorem State.store_clock (s : State) (pa : Nat) (bs : List Byte) : (State.store s pa bs).clock = s.clock := by unfold State.store; split <;> rfl
@[simp] theorem State.store_throttle (s : State) (pa : Nat) (bs : List Byte) : (State.store s pa bs).throttle = s.throttle := by unfold State.store; split <;> rfl
@[simp] theorem State.store_notices (s : State) (pa : Nat) (bs : List Byte) : (State.store s pa bs).notices = s.notices := by unfold State.store; split <;> rfl
@[simp] theorem State.store_stopped (s : State) (pa : Nat) (bs : List Byte) : (State.store s pa bs).stopped = s.stopped := by unfold State.store; split <;> rfl
@[simp] theorem State.store_time (s : State) (pa : Nat) (bs : List Byte) : (State.store s pa bs).time = s.time := by unfold State.store; split <;> rfl
@[simp] theorem State.store_ownClock (s : State) (pa : Nat) (bs : List Byte) : (State.store s pa bs).ownClock = s.ownClock := by unfold State.store; split <;> rfl
@[simp] theorem State.store_hostData (s : State) (pa : Nat) (bs : List Byte) : (State.store s pa bs).hostData = s.hostData := by unfold State.store; split <;> rfl
@[simp] theorem State.store_agenda (s : State) (pa : Nat) (bs : List Byte) : (State.store s pa bs).agenda = s.agenda := by unfold State.store; split <;> rfl
@[simp] theorem State.store_tick (s : State) (pa : Nat) (bs : List Byte) : (State.store s pa bs).tick = s.tick := by unfold State.store; split <;> rfl
@[simp] theorem State.store_cur (s : State) (pa : Nat) (bs : List Byte) : (State.store s pa bs).cur = s.cur := by unfold State.store; split <;> rfl

@[simp] theorem State.storeNum_mem (s : State) (pa n x : Nat) : (State.storeNum s pa n x).mem = if s.portDown pa then s.mem else Cells.setMany 0 s.mem pa (leBytes n x) := by unfold State.storeNum State.store; split <;> rfl
@[simp] theorem State.storeNum_late (s : State) (pa n x : Nat) : (State.storeNum s pa n x).late = s.late := by unfold State.storeNum State.store; split <;> rfl
@[simp] theorem State.storeNum_parts (s : State) (pa n x : Nat) : (State.storeNum s pa n x).parts = s.parts := by unfold State.storeNum State.store; split <;> rfl
@[simp] theorem State.storeNum_granules (s : State) (pa n x : Nat) : (State.storeNum s pa n x).granules = s.granules := by unfold State.storeNum State.store; split <;> rfl
@[simp] theorem State.storeNum_pfArg (s : State) (pa n x : Nat) : (State.storeNum s pa n x).pfArg = s.pfArg := by unfold State.storeNum State.store; split <;> rfl
@[simp] theorem State.storeNum_pfBusy (s : State) (pa n x : Nat) : (State.storeNum s pa n x).pfBusy = s.pfBusy := by unfold State.storeNum State.store; split <;> rfl
@[simp] theorem State.storeNum_pfStatus (s : State) (pa n x : Nat) : (State.storeNum s pa n x).pfStatus = s.pfStatus := by unfold State.storeNum State.store; split <;> rfl
@[simp] theorem State.storeNum_portGrant (s : State) (pa n x : Nat) : (State.storeNum s pa n x).portGrant = s.portGrant := by unfold State.storeNum State.store; split <;> rfl
@[simp] theorem State.storeNum_sharedSev (s : State) (pa n x : Nat) : (State.storeNum s pa n x).sharedSev = s.sharedSev := by unfold State.storeNum State.store; split <;> rfl
@[simp] theorem State.storeNum_meas (s : State) (pa n x : Nat) : (State.storeNum s pa n x).meas = s.meas := by unfold State.storeNum State.store; split <;> rfl
@[simp] theorem State.storeNum_minSecVer (s : State) (pa n x : Nat) : (State.storeNum s pa n x).minSecVer = s.minSecVer := by unfold State.storeNum State.store; split <;> rfl
@[simp] theorem State.storeNum_fw (s : State) (pa n x : Nat) : (State.storeNum s pa n x).fw = s.fw := by unfold State.storeNum State.store; split <;> rfl
@[simp] theorem State.storeNum_execFrames (s : State) (pa n x : Nat) : (State.storeNum s pa n x).execFrames = s.execFrames := by unfold State.storeNum State.store; split <;> rfl
@[simp] theorem State.storeNum_links (s : State) (pa n x : Nat) : (State.storeNum s pa n x).links = s.links := by unfold State.storeNum State.store; split <;> rfl
@[simp] theorem State.storeNum_paused (s : State) (pa n x : Nat) : (State.storeNum s pa n x).paused = s.paused := by unfold State.storeNum State.store; split <;> rfl
@[simp] theorem State.storeNum_cxlDown (s : State) (pa n x : Nat) : (State.storeNum s pa n x).cxlDown = s.cxlDown := by unfold State.storeNum State.store; split <;> rfl
@[simp] theorem State.storeNum_energy (s : State) (pa n x : Nat) : (State.storeNum s pa n x).energy = s.energy := by unfold State.storeNum State.store; split <;> rfl
@[simp] theorem State.storeNum_clock (s : State) (pa n x : Nat) : (State.storeNum s pa n x).clock = s.clock := by unfold State.storeNum State.store; split <;> rfl
@[simp] theorem State.storeNum_throttle (s : State) (pa n x : Nat) : (State.storeNum s pa n x).throttle = s.throttle := by unfold State.storeNum State.store; split <;> rfl
@[simp] theorem State.storeNum_notices (s : State) (pa n x : Nat) : (State.storeNum s pa n x).notices = s.notices := by unfold State.storeNum State.store; split <;> rfl
@[simp] theorem State.storeNum_stopped (s : State) (pa n x : Nat) : (State.storeNum s pa n x).stopped = s.stopped := by unfold State.storeNum State.store; split <;> rfl
@[simp] theorem State.storeNum_time (s : State) (pa n x : Nat) : (State.storeNum s pa n x).time = s.time := by unfold State.storeNum State.store; split <;> rfl
@[simp] theorem State.storeNum_ownClock (s : State) (pa n x : Nat) : (State.storeNum s pa n x).ownClock = s.ownClock := by unfold State.storeNum State.store; split <;> rfl
@[simp] theorem State.storeNum_hostData (s : State) (pa n x : Nat) : (State.storeNum s pa n x).hostData = s.hostData := by unfold State.storeNum State.store; split <;> rfl
@[simp] theorem State.storeNum_agenda (s : State) (pa n x : Nat) : (State.storeNum s pa n x).agenda = s.agenda := by unfold State.storeNum State.store; split <;> rfl
@[simp] theorem State.storeNum_tick (s : State) (pa n x : Nat) : (State.storeNum s pa n x).tick = s.tick := by unfold State.storeNum State.store; split <;> rfl
@[simp] theorem State.storeNum_cur (s : State) (pa n x : Nat) : (State.storeNum s pa n x).cur = s.cur := by unfold State.storeNum State.store; split <;> rfl

@[simp] theorem State.storeLine_late (s : State) (l : Nat) (bs : Table Byte) (ps : List Nat) : (State.storeLine s l bs ps).late = s.late := rfl
@[simp] theorem State.storeLine_parts (s : State) (l : Nat) (bs : Table Byte) (ps : List Nat) : (State.storeLine s l bs ps).parts = s.parts := rfl
@[simp] theorem State.storeLine_granules (s : State) (l : Nat) (bs : Table Byte) (ps : List Nat) : (State.storeLine s l bs ps).granules = s.granules := rfl
@[simp] theorem State.storeLine_pfArg (s : State) (l : Nat) (bs : Table Byte) (ps : List Nat) : (State.storeLine s l bs ps).pfArg = s.pfArg := rfl
@[simp] theorem State.storeLine_pfBusy (s : State) (l : Nat) (bs : Table Byte) (ps : List Nat) : (State.storeLine s l bs ps).pfBusy = s.pfBusy := rfl
@[simp] theorem State.storeLine_pfStatus (s : State) (l : Nat) (bs : Table Byte) (ps : List Nat) : (State.storeLine s l bs ps).pfStatus = s.pfStatus := rfl
@[simp] theorem State.storeLine_portGrant (s : State) (l : Nat) (bs : Table Byte) (ps : List Nat) : (State.storeLine s l bs ps).portGrant = s.portGrant := rfl
@[simp] theorem State.storeLine_sharedSev (s : State) (l : Nat) (bs : Table Byte) (ps : List Nat) : (State.storeLine s l bs ps).sharedSev = s.sharedSev := rfl
@[simp] theorem State.storeLine_meas (s : State) (l : Nat) (bs : Table Byte) (ps : List Nat) : (State.storeLine s l bs ps).meas = s.meas := rfl
@[simp] theorem State.storeLine_minSecVer (s : State) (l : Nat) (bs : Table Byte) (ps : List Nat) : (State.storeLine s l bs ps).minSecVer = s.minSecVer := rfl
@[simp] theorem State.storeLine_fw (s : State) (l : Nat) (bs : Table Byte) (ps : List Nat) : (State.storeLine s l bs ps).fw = s.fw := rfl
@[simp] theorem State.storeLine_execFrames (s : State) (l : Nat) (bs : Table Byte) (ps : List Nat) : (State.storeLine s l bs ps).execFrames = s.execFrames := rfl
@[simp] theorem State.storeLine_links (s : State) (l : Nat) (bs : Table Byte) (ps : List Nat) : (State.storeLine s l bs ps).links = s.links := rfl
@[simp] theorem State.storeLine_paused (s : State) (l : Nat) (bs : Table Byte) (ps : List Nat) : (State.storeLine s l bs ps).paused = s.paused := rfl
@[simp] theorem State.storeLine_cxlDown (s : State) (l : Nat) (bs : Table Byte) (ps : List Nat) : (State.storeLine s l bs ps).cxlDown = s.cxlDown := rfl
@[simp] theorem State.storeLine_energy (s : State) (l : Nat) (bs : Table Byte) (ps : List Nat) : (State.storeLine s l bs ps).energy = s.energy := rfl
@[simp] theorem State.storeLine_clock (s : State) (l : Nat) (bs : Table Byte) (ps : List Nat) : (State.storeLine s l bs ps).clock = s.clock := rfl
@[simp] theorem State.storeLine_throttle (s : State) (l : Nat) (bs : Table Byte) (ps : List Nat) : (State.storeLine s l bs ps).throttle = s.throttle := rfl
@[simp] theorem State.storeLine_notices (s : State) (l : Nat) (bs : Table Byte) (ps : List Nat) : (State.storeLine s l bs ps).notices = s.notices := rfl
@[simp] theorem State.storeLine_stopped (s : State) (l : Nat) (bs : Table Byte) (ps : List Nat) : (State.storeLine s l bs ps).stopped = s.stopped := rfl
@[simp] theorem State.storeLine_time (s : State) (l : Nat) (bs : Table Byte) (ps : List Nat) : (State.storeLine s l bs ps).time = s.time := rfl
@[simp] theorem State.storeLine_ownClock (s : State) (l : Nat) (bs : Table Byte) (ps : List Nat) : (State.storeLine s l bs ps).ownClock = s.ownClock := rfl
@[simp] theorem State.storeLine_hostData (s : State) (l : Nat) (bs : Table Byte) (ps : List Nat) : (State.storeLine s l bs ps).hostData = s.hostData := rfl
@[simp] theorem State.storeLine_agenda (s : State) (l : Nat) (bs : Table Byte) (ps : List Nat) : (State.storeLine s l bs ps).agenda = s.agenda := rfl
@[simp] theorem State.storeLine_tick (s : State) (l : Nat) (bs : Table Byte) (ps : List Nat) : (State.storeLine s l bs ps).tick = s.tick := rfl
@[simp] theorem State.storeLine_cur (s : State) (l : Nat) (bs : Table Byte) (ps : List Nat) : (State.storeLine s l bs ps).cur = s.cur := rfl

@[simp] theorem State.placeWord_mem (s : State) (pa n x : Nat) : (State.placeWord s pa n x).mem = if s.portDown pa then s.mem else Cells.setMany 0 s.mem pa (leBytes n x) := by unfold State.placeWord State.storeNum State.store; split <;> rfl
@[simp] theorem State.placeWord_late (s : State) (pa n x : Nat) : (State.placeWord s pa n x).late = s.late := by unfold State.placeWord State.storeNum State.store; split <;> rfl
@[simp] theorem State.placeWord_parts (s : State) (pa n x : Nat) : (State.placeWord s pa n x).parts = s.parts := by unfold State.placeWord State.storeNum State.store; split <;> rfl
@[simp] theorem State.placeWord_granules (s : State) (pa n x : Nat) : (State.placeWord s pa n x).granules = s.granules := by unfold State.placeWord State.storeNum State.store; split <;> rfl
@[simp] theorem State.placeWord_pfArg (s : State) (pa n x : Nat) : (State.placeWord s pa n x).pfArg = s.pfArg := by unfold State.placeWord State.storeNum State.store; split <;> rfl
@[simp] theorem State.placeWord_pfBusy (s : State) (pa n x : Nat) : (State.placeWord s pa n x).pfBusy = s.pfBusy := by unfold State.placeWord State.storeNum State.store; split <;> rfl
@[simp] theorem State.placeWord_pfStatus (s : State) (pa n x : Nat) : (State.placeWord s pa n x).pfStatus = s.pfStatus := by unfold State.placeWord State.storeNum State.store; split <;> rfl
@[simp] theorem State.placeWord_portGrant (s : State) (pa n x : Nat) : (State.placeWord s pa n x).portGrant = s.portGrant := by unfold State.placeWord State.storeNum State.store; split <;> rfl
@[simp] theorem State.placeWord_sharedSev (s : State) (pa n x : Nat) : (State.placeWord s pa n x).sharedSev = s.sharedSev := by unfold State.placeWord State.storeNum State.store; split <;> rfl
@[simp] theorem State.placeWord_meas (s : State) (pa n x : Nat) : (State.placeWord s pa n x).meas = s.meas := by unfold State.placeWord State.storeNum State.store; split <;> rfl
@[simp] theorem State.placeWord_minSecVer (s : State) (pa n x : Nat) : (State.placeWord s pa n x).minSecVer = s.minSecVer := by unfold State.placeWord State.storeNum State.store; split <;> rfl
@[simp] theorem State.placeWord_fw (s : State) (pa n x : Nat) : (State.placeWord s pa n x).fw = s.fw := by unfold State.placeWord State.storeNum State.store; split <;> rfl
@[simp] theorem State.placeWord_links (s : State) (pa n x : Nat) : (State.placeWord s pa n x).links = s.links := by unfold State.placeWord State.storeNum State.store; split <;> rfl
@[simp] theorem State.placeWord_paused (s : State) (pa n x : Nat) : (State.placeWord s pa n x).paused = s.paused := by unfold State.placeWord State.storeNum State.store; split <;> rfl
@[simp] theorem State.placeWord_cxlDown (s : State) (pa n x : Nat) : (State.placeWord s pa n x).cxlDown = s.cxlDown := by unfold State.placeWord State.storeNum State.store; split <;> rfl
@[simp] theorem State.placeWord_energy (s : State) (pa n x : Nat) : (State.placeWord s pa n x).energy = s.energy := by unfold State.placeWord State.storeNum State.store; split <;> rfl
@[simp] theorem State.placeWord_clock (s : State) (pa n x : Nat) : (State.placeWord s pa n x).clock = s.clock := by unfold State.placeWord State.storeNum State.store; split <;> rfl
@[simp] theorem State.placeWord_throttle (s : State) (pa n x : Nat) : (State.placeWord s pa n x).throttle = s.throttle := by unfold State.placeWord State.storeNum State.store; split <;> rfl
@[simp] theorem State.placeWord_notices (s : State) (pa n x : Nat) : (State.placeWord s pa n x).notices = s.notices := by unfold State.placeWord State.storeNum State.store; split <;> rfl
@[simp] theorem State.placeWord_stopped (s : State) (pa n x : Nat) : (State.placeWord s pa n x).stopped = s.stopped := by unfold State.placeWord State.storeNum State.store; split <;> rfl
@[simp] theorem State.placeWord_time (s : State) (pa n x : Nat) : (State.placeWord s pa n x).time = s.time := by unfold State.placeWord State.storeNum State.store; split <;> rfl
@[simp] theorem State.placeWord_ownClock (s : State) (pa n x : Nat) : (State.placeWord s pa n x).ownClock = s.ownClock := by unfold State.placeWord State.storeNum State.store; split <;> rfl
@[simp] theorem State.placeWord_hostData (s : State) (pa n x : Nat) : (State.placeWord s pa n x).hostData = s.hostData := by unfold State.placeWord State.storeNum State.store; split <;> rfl
@[simp] theorem State.placeWord_agenda (s : State) (pa n x : Nat) : (State.placeWord s pa n x).agenda = s.agenda := by unfold State.placeWord State.storeNum State.store; split <;> rfl
@[simp] theorem State.placeWord_tick (s : State) (pa n x : Nat) : (State.placeWord s pa n x).tick = s.tick := by unfold State.placeWord State.storeNum State.store; split <;> rfl
@[simp] theorem State.placeWord_cur (s : State) (pa n x : Nat) : (State.placeWord s pa n x).cur = s.cur := by unfold State.placeWord State.storeNum State.store; split <;> rfl

end Sys2Proof.Machine
end

