-- ==== Sys2Proof/Laws/Memory.lean ====
section
/-!
SUPPORT. Physical memory: every operation on it keeps the canonical form, a read after a store gives the stored bytes, and a
store leaves every other byte alone.
-/
namespace Sys2Proof.Machine

/-! ## The canonical form -/

theorem Memory.wf_reset : Memory.wf State.reset.mem = true := rfl

theorem Memory.wf_store (s : State) (pa : Nat) (bs : List Byte) (h : Memory.wf s.mem = true) :
    Memory.wf (s.store pa bs).mem = true := by
  rw [State.store_mem]
  split
  · exact h
  · exact Cells.wf_setMany 0 bs s.mem pa h

theorem Memory.wf_storeNum (s : State) (pa n x : Nat) (h : Memory.wf s.mem = true) :
    Memory.wf (s.storeNum pa n x).mem = true := Memory.wf_store s pa _ h

theorem Memory.wf_storeLine (s : State) (l : Nat) (bs : Table Byte) (ps : List Nat) (h : Memory.wf s.mem = true) :
    Memory.wf (s.storeLine l bs ps).mem = true :=
  Cells.wf_foldl 0 bs (fun e => l * 128 + e.1) (fun e => e.2) s.mem h

theorem Memory.wf_logLine (s : State) (p : PartNo) (P : Part) (l : Nat) (h : Memory.wf s.mem = true) :
    Memory.wf (s.logLine p P l).mem = true := by
  rw [State.logLine, State.setPart_mem]
  exact Memory.wf_store s _ _ h

theorem Memory.wf_writeLine (s : State) (p : PartNo) (l : Nat) (bs : Table Byte) (ps : List Nat)
    (h : Memory.wf s.mem = true) : Memory.wf (s.writeLine p l bs ps).1.mem = true := by
  unfold State.writeLine
  split
  · exact h
  · split
    · exact h
    · split
      · split
        · exact h
        · exact Memory.wf_storeLine _ _ _ _ (Memory.wf_logLine _ _ _ _ h)
      · exact Memory.wf_storeLine _ _ _ _ h

/-! ## Reads after stores -/

/-- A byte after a store: the stored one in the stored range, the old one elsewhere; in the window of a port that is down, the old
one. -/
theorem State.byte_store (s : State) (pa : Nat) (bs : List Byte) (a : Nat) :
    (s.store pa bs).byte a = if s.portDown pa = false ∧ pa ≤ a then bs.getD (a - pa) (s.byte a) else s.byte a := by
  unfold State.byte
  rw [State.store_mem]
  by_cases hp : s.portDown pa = true
  · simp [hp]
  · simp [hp, Cells.get_setMany]

theorem State.byte_store_outside (s : State) (pa : Nat) (bs : List Byte) (a : Nat) (h : a < pa ∨ pa + bs.length ≤ a) :
    (s.store pa bs).byte a = s.byte a := by
  rw [State.byte_store]
  split
  · rw [List.getD_eq_getElem?_getD, List.getElem?_eq_none (by omega), Option.getD_none]
  · rfl

theorem leBytes_length (n x : Nat) : (leBytes n x).length = n := by
  induction n generalizing x with
  | zero => rfl
  | succ n ih => simp [leBytes, ih]

theorem leNat_leBytes (n x : Nat) : leNat (leBytes n x) = x % 256 ^ n := by
  induction n generalizing x with
  | zero => simp [leBytes, leNat, Nat.mod_one]
  | succ n ih =>
    have h : x % 256 ^ (n + 1) = x % 256 + 256 * (x / 256 % 256 ^ n) := by
      rw [Nat.pow_succ, Nat.mul_comm (256 ^ n), Nat.mod_mul]
    rw [leBytes, leNat, ih, BitVec.toNat_ofNat, h]

/-- A number that is stored is read back, modulo its size, where no port that is down is in the way. -/
theorem State.num_storeNum (s : State) (pa n x : Nat) (up : s.portDown pa = false) :
    (s.storeNum pa n x).num pa n = x % 256 ^ n := by
  have h : (s.storeNum pa n x).bytes pa n = leBytes n x := by
    refine List.ext_getElem (by simp [State.bytes, Cells.getMany, leBytes_length]) fun i h1 h2 => ?_
    have hi : i < n := by simpa [leBytes_length] using h2
    have : ((s.storeNum pa n x).bytes pa n)[i] = (s.store pa (leBytes n x)).byte (pa + i) := by
      simp [State.bytes, Cells.getMany, State.byte, State.storeNum]
    rw [this, State.byte_store, if_pos ⟨up, by omega⟩, Nat.add_sub_cancel_left]
    simp [List.getD, List.getElem?_eq_getElem h2]
  rw [State.num, h, leNat_leBytes]

theorem State.foldl_set_get (l : Nat) (bs : Table Byte) (m : List Host.Cell) (a : Nat)
    (h : ∀ e ∈ bs, l * 128 + e.1 ≠ a) :
    Cells.get 0 (bs.foldl (fun m e => Cells.set 0 m (l * 128 + e.1) e.2) m) a = Cells.get 0 m a := by
  induction bs generalizing m with
  | nil => rfl
  | cons e bs ih =>
    rw [List.foldl_cons, ih _ fun x hx => h x (by simp [hx]), Cells.get_set_ne _ _ _ _ _ (h e (by simp))]

/-- A line write leaves every byte alone that it does not name. -/
theorem State.byte_storeLine_outside (s : State) (l : Nat) (bs : Table Byte) (ps : List Nat) (a : Nat)
    (h : ∀ e ∈ bs, l * 128 + e.1 ≠ a) : (s.storeLine l bs ps).byte a = s.byte a :=
  State.foldl_set_get l bs s.mem a h

end Sys2Proof.Machine
end

