-- ==== Sys2Proof/Laws/Issue.lean ====
section
/-!
SUPPORT. What an issued instruction comes to: one lemma for the checks before its meaning, one for each way in which it ends.
-/
namespace Sys2Proof.Machine

/-! ## Groups of a partition -/

theorem Table.erase_place {α : Type} (t : Table α) (k : Nat) (x : α) : Table.erase (Table.place t k x) k = Table.erase t k := by
  induction t with
  | nil => simp [Table.place, Table.erase]
  | cons e t ih =>
    obtain ⟨k', y⟩ := e
    rw [Table.place]
    split
    · rw [Table.erase, if_pos rfl]
    · rw [Table.erase, Table.erase, ih]

theorem Table.erase_erase {α : Type} (t : Table α) (k : Nat) : Table.erase (Table.erase t k) k = Table.erase t k := by
  induction t with
  | nil => rfl
  | cons e t ih =>
    obtain ⟨k', y⟩ := e
    by_cases h : k' = k <;> simp [Table.erase, h, ih]

/-- Of two sets of one entry the second holds. -/
theorem Table.set_set {α : Type} (t : Table α) (k : Nat) (x y : α) : Table.set (Table.set t k x) k y = Table.set t k y := by
  rw [Table.set, Table.set, Table.set, Table.erase_place, Table.erase_erase]

theorem Table.modify_modify {α : Type} (t : Table α) (k : Nat) (f h : α → α) :
    Table.modify (Table.modify t k f) k h = Table.modify t k fun x => h (f x) := by
  unfold Table.modify
  rw [List.map_map]
  refine List.map_congr_left fun e _ => ?_
  by_cases h' : e.1 = k <;> simp [h']

theorem Part.group?_setGroup (P : Part) (gid : Nat) (g h : Group) (hg : P.group? gid = some h) :
    (P.setGroup gid g).group? gid = some g := by
  unfold Part.group? Part.setGroup at *
  split at hg
  · simp_all only [if_true]
    simp only [Part.modHome, Part.modRun, Table.get?_modify_same]
    cases hh : Table.get? P.run.homes gid <;> simp_all
  · simp_all only [if_false, Bool.false_eq_true]
    simp only [Part.modTeam, Part.modRun, Part.team?, Table.get?_modify_same] at *
    cases hh : Table.get? P.run.teams (gidTeam gid) <;> simp_all

theorem Part.setGroup_setGroup (P : Part) (gid : Nat) (g h : Group) :
    (P.setGroup gid g).setGroup gid h = P.setGroup gid h := by
  unfold Part.setGroup
  split
  · simp only [Part.modHome, Part.modRun, Table.modify_modify]
  · simp only [Part.modTeam, Part.modRun, Table.modify_modify, Table.set_set]

/-- A change of a group that has been replaced is a replacement. -/
theorem Part.modGroup_modGroup (P : Part) (gid : Nat) (g : Group) (f : Group → Group) :
    (P.modGroup gid fun _ => g).modGroup gid f = P.modGroup gid fun _ => f g := by
  unfold Part.modGroup
  cases h : P.group? gid with
  | none => simp [h]
  | some g' => simp [Part.group?_setGroup P gid g g' h, Part.setGroup_setGroup]

theorem Part.group?_modGroup (P : Part) (gid : Nat) (f : Group → Group) :
    (P.modGroup gid f).group? gid = (P.group? gid).map f := by
  unfold Part.modGroup
  cases h : P.group? gid with
  | none => simp [h]
  | some g => simp [Part.group?_setGroup P gid (f g) g h]

theorem State.modPart_modPart (s : State) (p : PartNo) (f h : Part → Part) :
    (s.modPart p f).modPart p h = s.modPart p fun P => h (f P) := by
  simp only [State.modPart, Table.modify_modify]

theorem State.part?_modPart (s : State) (p : PartNo) (f : Part → Part) : (s.modPart p f).part? p = (s.part? p).map f := by
  simp only [State.modPart, State.part?, Table.get?_modify_same]

theorem State.group?_modGroup (s : State) (p : PartNo) (gid : Nat) (f : Group → Group) :
    (s.modGroup p gid f).group? p gid = (s.group? p gid).map f := by
  unfold State.modGroup State.group?
  rw [State.part?_modPart]
  cases h : s.part? p with
  | none => rfl
  | some P => exact Part.group?_modGroup P gid f

/-! ## The issuer -/

/-- What the context of the issuer is. -/
theorem State.issuer_spec {s : State} {c : Ctx} (h : s.issuer = some c) :
    c.s = s ∧ s.part? c.p = some c.P ∧ c.P.group? c.gid = some c.g ∧ c.g.run = .live ∧ s.cur = some ⟨c.p, c.gid, c.check⟩ := by
  unfold State.issuer at h
  split at h
  · cases h
  · next k hk =>
    split at h
    · cases h
    · next P hP =>
      split at h
      · cases h
      · next g hg =>
        split at h
        · next hl => cases h; exact ⟨rfl, hP, hg, hl, hk⟩
        · cases h

/-! ## Issue -/

/-- Nothing before the meaning holds a ready instruction. -/
theorem Ready.precheck {c : Ctx} {s : State} {i : Instr} (h : Ready c s i) (body : Ctx → Res) : c.precheck i body = body c := by
  unfold Ctx.precheck
  simp [h.fresh, h.windows, h.noFault, h.code, h.wf, h.uses, h.clean, h.acquired]

theorem Ready.issue {c : Ctx} {s : State} {i : Instr} (h : Ready c s i) (body : Ctx → Res) :
    issue i s body = .next (c.settle (body c)) := by
  unfold Machine.issue
  rw [h.issuer]
  exact congrArg (fun r => Host.Outcome.next (c.settle r)) (h.precheck body)

/-- A ready instruction that completes is a firing (R333). -/
theorem Ready.firing_done {c : Ctx} {s : State} {i : Instr} (h : Ready c s i) (t : State) : c.firing (.done t) = true := by
  simp [Ctx.firing, Group.issued, h.fresh, h.noWait]
theorem Ready.firing_jump {c : Ctx} {s : State} {i : Instr} (h : Ready c s i) (t : State) (pc : DWord) :
    c.firing (.jump t pc) = true := by
  simp [Ctx.firing, Group.issued, h.fresh, h.noWait]

theorem Ready.ran {c : Ctx} {s : State} {i : Instr} (h : Ready c s i) (g : Group) (f : Group → Group) :
    Ran c s ((((c.put g).modGroup c.p c.gid f)).modPart c.p fun P => { P with fire := P.fire + 1 }) (f g) := by
  obtain ⟨hs, hP, hg, -, -⟩ := State.issuer_spec h.issuer
  subst hs
  have e : (((c.put g).modGroup c.p c.gid f).modPart c.p fun P => { P with fire := P.fire + 1 }) =
      c.s.modPart c.p fun P => { P.modGroup c.gid (fun _ => f g) with fire := P.fire + 1 } := by
    simp only [Ctx.put, State.modGroup, State.modPart_modPart, Part.modGroup_modGroup]
    congr 1
    funext P
    unfold Part.modGroup
    cases P.group? c.gid with
    | none => rfl
    | some x => simp only [Part.setGroup]; split <;> rfl
  refine ⟨e, ?_, fun a => rfl⟩
  rw [e, State.group?, State.part?_modPart, hP]
  have : (c.P.modGroup c.gid fun _ => f g).group? c.gid = some (f g) := by rw [Part.group?_modGroup, hg]; rfl
  exact this

/-- An instruction that completes with a group has replaced the group and stands at the next word. -/
theorem Ready.done {c : Ctx} {s : State} {i : Instr} (h : Ready c s i) {body : Ctx → Res} {g : Group}
    (hb : body c = .done (c.put g)) : ∃ t, Machine.issue i s body = .next t ∧ Ran c s t (g.completed (g.pc + 4)) := by
  refine ⟨_, h.issue body, ?_⟩
  have := h.ran g fun g => g.completed (g.pc + 4)
  rw [hb, Ctx.settle, h.firing_done]
  exact this

/-- The same with a transfer of control. -/
theorem Ready.jump {c : Ctx} {s : State} {i : Instr} (h : Ready c s i) {body : Ctx → Res} {g : Group} {pc : DWord}
    (hb : body c = .jump (c.put g) pc) : ∃ t, Machine.issue i s body = .next t ∧ Ran c s t (g.completed pc) := by
  refine ⟨_, h.issue body, ?_⟩
  have := h.ran g fun g => g.completed pc
  rw [hb, Ctx.settle, h.firing_jump]
  exact this

/-- An instruction that completes in a state of its own. -/
theorem Ready.completed {c : Ctx} {s s₁ : State} {i : Instr} (h : Ready c s i) {body : Ctx → Res} {pc : DWord}
    (hb : body c = .jump s₁ pc) : ∃ t, Machine.issue i s body = .next t ∧ Completed c s₁ t pc := by
  refine ⟨_, h.issue body, ?_⟩
  rw [hb, Ctx.settle, h.firing_jump]
  rfl

/-- A checked instruction whose executions agree completes (R157). -/
theorem Ready.checked {c : Ctx} {s : State} {i : Instr} (h : Ready c s i) (g : Group) : c.checked g = .done (c.put g) := by
  rw [Ctx.checked, h.agrees]; rfl

/-- An instruction that a method may not execute goes on in a team's group (R315). -/
theorem Ctx.outside_team (c : Ctx) (i : Instr) (body : Ctx → Res) (h : isWhisk c.gid = false) : c.outside i body = body c := by
  simp [Ctx.outside, h]

end Sys2Proof.Machine
end

