-- ==== Sys2Proof/Laws/Lanes.lean ====
section
/-!
SUPPORT. What the shared operations that write vector registers, predicates and STAT do, once for every instruction that uses them.
-/
namespace Sys2Proof.Machine

/-! ## Lanes -/

theorem Group.mem_actives (g : Group) (l : Nat) : l ∈ g.actives ↔ l < 32 ∧ g.active l = true := by
  simp [Group.actives, lanes]

theorem Group.vreg_setV (g : Group) (r l r' l' : Nat) (x : Word) (h : l < 32) (h' : l' < 32) :
    (g.setV r l x).vreg r' l' = if r' = r ∧ l' = l then x else g.vreg r' l' := by
  unfold Group.vreg Group.setV
  rw [Cells.get_set]
  by_cases e : r' = r ∧ l' = l
  · rw [if_pos e, if_pos (by rw [e.1, e.2])]
  · rw [if_neg e, if_neg (by omega)]

theorem Group.foldl_setV_frame (r : Nat) (vals : List (Nat × Word)) (g : Group) :
    vals.foldl (fun g e => g.setV r e.1 e.2) g = { g with v := (vals.foldl (fun g e => g.setV r e.1 e.2) g).v } := by
  induction vals generalizing g with
  | nil => rfl
  | cons e vals ih => rw [List.foldl_cons, ih]; rfl

/-- Only registers and poison change. -/
theorem Group.writeV_frame (g : Group) (r : Nat) (vals : List (Nat × Word)) :
    g.writeV r vals = { g with v := (g.writeV r vals).v, vpoison := (g.writeV r vals).vpoison } := by
  unfold Group.writeV
  rw [Group.foldl_setV_frame]

theorem Group.writeV_poison (g : Group) (r : Nat) (vals : List (Nat × Word)) (x : Nat) (h : x ∈ (g.writeV r vals).vpoison) :
    x ∈ g.vpoison := by
  unfold Group.writeV at h
  rw [Group.foldl_setV_frame] at h
  exact (List.mem_filter.1 h).1

theorem Group.vreg_writeV (g : Group) (r : Nat) (ls : List Nat) (x : Nat → Word) (r' l : Nat) (hl : l < 32)
    (hls : ∀ i ∈ ls, i < 32) :
    (g.writeV r (ls.map fun i => (i, x i))).vreg r' l = if r' = r ∧ l ∈ ls then x l else g.vreg r' l := by
  have key : ∀ g : Group, ((ls.map fun i => (i, x i)).foldl (fun g e => g.setV r e.1 e.2) g).vreg r' l =
      if r' = r ∧ l ∈ ls then x l else g.vreg r' l := by
    induction ls with
    | nil => intro g; simp
    | cons i ls ih =>
      intro g
      have hi : i < 32 := hls i (by simp)
      rw [List.map_cons, List.foldl_cons, ih (fun j hj => hls j (by simp [hj])), Group.vreg_setV _ _ _ _ _ _ hi hl]
      by_cases h1 : r' = r <;> by_cases h2 : l ∈ ls <;> by_cases h3 : l = i <;> simp [h1, h2, h3]
  exact key g

theorem loWord_dword (a b : Word) : loWord (dword a b) = a := by
  apply BitVec.eq_of_toNat_eq
  have := a.isLt; have := b.isLt
  simp only [loWord, dword, BitVec.toNat_ofNat]
  omega

theorem hiWord_dword (a b : Word) : hiWord (dword a b) = b := by
  apply BitVec.eq_of_toNat_eq
  have := a.isLt; have := b.isLt
  simp only [hiWord, dword, BitVec.toNat_ofNat]
  omega

theorem dword_halves (x : DWord) : dword (loWord x) (hiWord x) = x := by
  apply BitVec.eq_of_toNat_eq
  have := x.isLt
  simp only [loWord, hiWord, dword, BitVec.toNat_ofNat]
  omega

theorem Group.writePair_frame (g : Group) (r : Nat) (vals : List (Nat × DWord)) :
    g.writePair r vals = { g with v := (g.writePair r vals).v, vpoison := (g.writePair r vals).vpoison } := by
  unfold Group.writePair
  rw [Group.writeV_frame (g.writeV _ _), Group.writeV_frame g]

theorem Group.writePair_poison (g : Group) (r : Nat) (vals : List (Nat × DWord)) (x : Nat)
    (h : x ∈ (g.writePair r vals).vpoison) : x ∈ g.vpoison :=
  Group.writeV_poison _ _ _ _ (Group.writeV_poison _ _ _ _ h)

theorem Group.vreg_writePair (g : Group) (r : Nat) (ls : List Nat) (x : Nat → DWord) (r' l : Nat) (hl : l < 32)
    (hls : ∀ i ∈ ls, i < 32) :
    (g.writePair r (ls.map fun i => (i, x i))).vreg r' l =
      if r' = r + 1 ∧ l ∈ ls then hiWord (x l) else if r' = r ∧ l ∈ ls then loWord (x l) else g.vreg r' l := by
  unfold Group.writePair
  rw [List.map_map, List.map_map]
  have e1 := Group.vreg_writeV (g.writeV r (ls.map fun i => (i, loWord (x i)))) (r + 1) ls (fun i => hiWord (x i)) r' l hl hls
  have e2 := Group.vreg_writeV g r ls (fun i => loWord (x i)) r' l hl hls
  rw [e2] at e1
  exact e1

theorem Group.direct_wide (g : Group) (r l : Nat) : g.direct true r l = (dword (g.vreg r l) (g.vreg (r + 1) l)).toNat := by
  rw [Group.direct, if_pos rfl, Group.vpair]

/-! ## Flags -/

theorem foldl_or_testBit {α : Type} (ls : List α) (f : α → Nat) (acc n : Nat) :
    (ls.foldl (fun acc r => acc ||| f r) acc).testBit n = true ↔ acc.testBit n = true ∨ ∃ r ∈ ls, (f r).testBit n = true := by
  induction ls generalizing acc with
  | nil => simp
  | cons a ls ih =>
    rw [List.foldl_cons, ih, Nat.testBit_or, Bool.or_eq_true]
    simp only [List.mem_cons, exists_eq_or_imp, or_assoc]

theorem bitOf_eq_testBit (x n : Nat) : bitOf x n = x.testBit n := by
  unfold bitOf Nat.testBit
  rw [Nat.shiftRight_eq_div_pow, Nat.one_and_eq_mod_two]
  rcases Nat.mod_two_eq_zero_or_one (x / 2 ^ n) with h | h <;> rw [h] <;> rfl

theorem Group.setFlags_bit (g : Group) (f n : Nat) (h : n < 32) :
    (g.setFlags f).stat.getLsbD n = true ↔ g.stat.getLsbD n = true ∨ f.testBit n = true := by
  simp only [Group.setFlags, BitVec.getLsbD_or, BitVec.getLsbD_ofNat, h, decide_true, Bool.true_and, Bool.or_eq_true]

/-! ## The element-wise mould -/

/-- A group in which registers have been written, once its flags are set. -/
theorem LanesWritten.of_group (g : Group) (wide : Bool) (d : VReg) (res : Nat → Nat × Nat) (v : Cells 32) (z : List Nat)
    (hval : ∀ l < 32, ({ g with v := v, vpoison := z } : Group).direct wide d.toNat l =
      if g.active l then (res l).1 % 2 ^ (if wide then 64 else 32) else g.direct wide d.toNat l)
    (hoth : ∀ r, ∀ l < 32, r ≠ d.toNat → (wide = true → r ≠ d.toNat + 1) →
      ({ g with v := v, vpoison := z } : Group).vreg r l = g.vreg r l)
    (hz : ∀ x ∈ z, x ∈ g.vpoison) :
    LanesWritten g (({ g with v := v, vpoison := z } : Group).setFlags
      ((g.actives.map fun i => (i, res i)).foldl (fun acc r => acc ||| r.2.2) 0)) wide d res := by
  refine ⟨hval, hoth, fun n hn => ?_, hz, rfl⟩
  rw [Group.setFlags_bit _ _ _ hn, foldl_or_testBit]
  simp only [Nat.zero_testBit, Bool.false_eq_true, false_or, List.mem_map, bitOf_eq_testBit, Group.mem_actives]
  constructor
  · rintro (h | ⟨r, ⟨i, ⟨h1, h2⟩, rfl⟩, h3⟩)
    · exact .inl h
    · exact .inr ⟨i, h1, h2, h3⟩
  · rintro (h | ⟨i, h1, h2, h3⟩)
    · exact .inl h
    · exact .inr ⟨_, ⟨i, ⟨h1, h2⟩, rfl⟩, h3⟩

/-- `putLanes` writes the results in the lanes that are listed. -/
theorem Group.putLanes_written (g : Group) (wide : Bool) (d : VReg) (res : Nat → Nat × Nat) :
    LanesWritten g (g.putLanes wide d (g.actives.map fun i => (i, res i))) wide d res := by
  have hls : ∀ i ∈ g.actives, i < 32 := fun i hi => ((g.mem_actives i).1 hi).1
  unfold Group.putLanes
  rw [List.map_map, List.map_map]
  cases wide
  · have hv := fun r' l hl => Group.vreg_writeV g d.toNat g.actives (fun i => BitVec.ofNat 32 (res i).1) r' l hl hls
    have hf := Group.writeV_frame g d.toNat (g.actives.map fun i => (i, BitVec.ofNat 32 (res i).1))
    have hz := Group.writeV_poison g d.toNat (g.actives.map fun i => (i, BitVec.ofNat 32 (res i).1))
    generalize hg : g.writeV d.toNat (g.actives.map fun i => (i, BitVec.ofNat 32 (res i).1)) = g' at hv hf hz
    rw [hf] at hv
    have := LanesWritten.of_group g false d res g'.v g'.vpoison
      (fun l hl => (congrArg BitVec.toNat (hv d.toNat l hl)).trans
        (by by_cases ha : g.active l = true <;> simp [Group.mem_actives, hl, ha, Group.direct]))
      (fun r l hl hr _ => (hv r l hl).trans (by simp [hr])) hz
    rw [← hf, ← hg] at this
    exact this
  · have hv := fun r' l hl => Group.vreg_writePair g d.toNat g.actives (fun i => BitVec.ofNat 64 (res i).1) r' l hl hls
    have hf := Group.writePair_frame g d.toNat (g.actives.map fun i => (i, BitVec.ofNat 64 (res i).1))
    have hz := Group.writePair_poison g d.toNat (g.actives.map fun i => (i, BitVec.ofNat 64 (res i).1))
    generalize hg : g.writePair d.toNat (g.actives.map fun i => (i, BitVec.ofNat 64 (res i).1)) = g' at hv hf hz
    rw [hf] at hv
    have := LanesWritten.of_group g true d res g'.v g'.vpoison
      (fun l hl => by
        rw [Group.direct_wide, hv d.toNat l hl, hv (d.toNat + 1) l hl, Group.direct_wide]
        by_cases ha : g.active l = true <;> simp [Group.mem_actives, hl, ha, dword_halves])
      (fun r l hl hr hr' => (hv r l hl).trans (by simp [hr, hr' rfl])) hz
    rw [← hf, ← hg] at this
    exact this

theorem elem_ofElems (w : Nat) (xs : List Nat) (k : Nat) (h : k < xs.length) :
    elem w k (ofElems w xs) = xs[k] % 2 ^ w := by
  induction xs generalizing k with
  | nil => simp at h
  | cons x xs ih =>
    have hp : 0 < 2 ^ w := Nat.two_pow_pos w
    unfold ofElems
    cases k with
    | zero => simp [elem]
    | succ k =>
      have hk : k < xs.length := by simpa using h
      have e : (x % 2 ^ w + 2 ^ w * ofElems w xs) / 2 ^ (w * (k + 1)) = ofElems w xs / 2 ^ (w * k) := by
        rw [Nat.mul_succ, Nat.pow_add, Nat.mul_comm (2 ^ (w * k)), ← Nat.div_div_eq_div_mul,
          Nat.add_mul_div_left _ _ hp, Nat.div_eq_of_lt (Nat.mod_lt _ hp), Nat.zero_add]
      have := ih k hk
      unfold elem at this ⊢
      rw [e, this]
      rfl

theorem ofElems_lt (w : Nat) (xs : List Nat) : ofElems w xs < 2 ^ (w * xs.length) := by
  induction xs with
  | nil => simp [ofElems]
  | cons x xs ih =>
    have hp : 0 < 2 ^ w := Nat.two_pow_pos w
    have h1 : x % 2 ^ w < 2 ^ w := Nat.mod_lt _ hp
    have h2 : 2 ^ w * ofElems w xs + 2 ^ w ≤ 2 ^ w * 2 ^ (w * xs.length) := by
      rw [← Nat.mul_succ]; exact Nat.mul_le_mul_left _ ih
    rw [ofElems, List.length_cons, Nat.mul_succ, Nat.pow_add, Nat.mul_comm (2 ^ (w * xs.length))]
    omega

/-- The element types of R23 fill a register, or a pair. -/
theorem Ty.ofCode_fills {n : Nat} {t : Ty} (h : Ty.ofCode n = some t) : t.w * t.n = if t.wide then 64 else 32 := by
  unfold Ty.ofCode at h
  split at h <;> first | (cases h; rfl) | simp at h

/-- `mould` writes the element results. -/
theorem Ctx.mould_written (c : Ctx) (t : Ty) (d : VReg) (a b : Nat → Nat) (f : Nat → Nat → Nat → Nat → Nat → Nat × Nat)
    (ht : t.w * t.n = if t.wide then 64 else 32) :
    ElementsWritten c.g (c.mould t d a b f) t d fun l k =>
      f l k (elem t.w k (a l)) (elem t.w k (b l)) (elem t.w k (c.g.direct t.wide d.toNat l)) := by
  have h := c.g.putLanes_written t.wide d fun i =>
    packElems t.w ((List.range t.n).map fun k =>
      f i k (elem t.w k (a i)) (elem t.w k (b i)) (elem t.w k (c.g.direct t.wide d.toNat i)))
  refine ⟨fun l hl k hk => ?_, h.others, fun n hn => ?_, h.poison, h.frame⟩
  · have hv := h.value l hl
    have e : (c.mould t d a b f).direct t.wide d.toNat l = _ := hv
    rw [e]
    split
    · next ha =>
      have hlt := ofElems_lt t.w (((List.range t.n).map fun k =>
        f l k (elem t.w k (a l)) (elem t.w k (b l)) (elem t.w k (c.g.direct t.wide d.toNat l))).map Prod.fst)
      rw [List.length_map, List.length_map, List.length_range, ht] at hlt
      rw [packElems, Nat.mod_eq_of_lt hlt, elem_ofElems _ _ _ (by simpa using hk)]
      simp
    · rfl
  · refine (h.flags n hn).trans ?_
    simp only [packElems, bitOf_eq_testBit, foldl_or_testBit, Nat.zero_testBit, Bool.false_eq_true, false_or, List.mem_map,
      List.mem_range]
    constructor
    · rintro (h | ⟨l, h1, h2, r, ⟨k, h3, rfl⟩, h4⟩)
      · exact .inl h
      · exact .inr ⟨l, h1, h2, k, h3, h4⟩
    · rintro (h | ⟨l, h1, h2, k, h3, h4⟩)
      · exact .inl h
      · exact .inr ⟨l, h1, h2, _, ⟨k, h3, rfl⟩, h4⟩

/-! ## Predicates -/

theorem foldl_bits_testBit (ls : List Nat) (f : Nat → Bool) (n : Nat) (hn : ls.Pairwise (· < ·)) (acc : Nat)
    (ha : ∀ i ∈ ls, acc < 2 ^ i) :
    (ls.foldl (fun m i => m + bit (f i) * 2 ^ i) acc).testBit n = (acc.testBit n || (decide (n ∈ ls) && f n)) := by
  induction ls generalizing acc with
  | nil => simp
  | cons i ls ih =>
    have h1 : acc < 2 ^ i := ha i (by simp)
    have h2 : ∀ j ∈ ls, acc + bit (f i) * 2 ^ i < 2 ^ j := by
      intro j hj
      have hij : i < j := (List.pairwise_cons.1 hn).1 j hj
      have : 2 ^ (i + 1) ≤ 2 ^ j := Nat.pow_le_pow_right (by omega) hij
      rw [Nat.pow_succ] at this
      have : bit (f i) ≤ 1 := by cases f i <;> simp [bit]
      have : bit (f i) * 2 ^ i ≤ 1 * 2 ^ i := Nat.mul_le_mul_right _ this
      omega
    rw [List.foldl_cons, ih (List.pairwise_cons.1 hn).2 _ h2, Nat.mul_comm, Nat.add_comm]
    have hb : bit (f i) = (f i).toNat := by cases f i <;> rfl
    rw [hb]
    by_cases hni : n < i
    · have : n ∉ ls := fun h => by have := (List.pairwise_cons.1 hn).1 n h; omega
      have hne : n ≠ i := by omega
      rw [Nat.testBit_two_pow_mul_add _ h1, if_pos hni]
      simp [this, hne]
    · rw [Nat.testBit_two_pow_mul_add _ h1, if_neg hni]
      have hacc : acc.testBit n = false := Nat.testBit_lt_two_pow (Nat.lt_of_lt_of_le h1 (Nat.pow_le_pow_right (by omega) (by omega)))
      by_cases hni' : n = i
      · subst hni'
        have hin : n ∉ ls := fun h => by have := (List.pairwise_cons.1 hn).1 n h; omega
        cases hf : f n <;> simp [hacc, hin]
      · have : ((f i).toNat).testBit (n - i) = false := by
          apply Nat.testBit_lt_two_pow
          have : (f i).toNat ≤ 1 := Bool.toNat_le _
          have : 2 ^ 1 ≤ 2 ^ (n - i) := Nat.pow_le_pow_right (by omega) (by omega)
          omega
        simp [this, hacc, hni']

theorem Group.actives_rising (g : Group) : g.actives.Pairwise (· < ·) :=
  List.Pairwise.filter _ List.pairwise_lt_range

@[simp] theorem Group.mendLanes_q (g : Group) (w size : Nat) (ls : List Nat) : (g.mendLanes w size ls).q = g.q := rfl

/-- `mendLanes` takes the marks of the words whose lanes are all listed. -/
theorem Group.mem_mendLanes (g : Group) (w size : Nat) (ls : List Nat) (x : Nat) :
    x ∈ (g.mendLanes w size ls).cpoison ↔
      x ∈ g.cpoison ∧ (x < w ∨ w + 32 / size ≤ x ∨ ∃ l < 32, l / size = x - w ∧ l ∉ ls) := by
  simp only [Group.mendLanes, List.mem_filter, Bool.not_eq_true', Bool.and_eq_false_iff, decide_eq_false_iff_not, Nat.not_le,
    Nat.not_lt, List.all_eq_false, lanes, List.mem_range, Bool.or_eq_true, bne_iff_ne, ne_eq, List.contains_iff_mem, not_or,
    Decidable.not_not]
  refine and_congr_right fun _ => ⟨?_, ?_⟩
  · rintro ((h | h) | ⟨l, h1, h2, h3⟩)
    · exact .inl h
    · exact .inr (.inl h)
    · exact .inr (.inr ⟨l, h1, h2, h3⟩)
  · rintro (h | h | ⟨l, h1, h2, h3⟩)
    · exact .inl (.inl h)
    · exact .inl (.inr h)
    · exact .inr ⟨l, h1, h2, h3⟩

/-- The same for the lanes acted on. -/
theorem Group.mem_mendLanes_actives (g h : Group) (w size x : Nat) :
    x ∈ (g.mendLanes w size h.actives).cpoison ↔
      x ∈ g.cpoison ∧ (x < w ∨ w + 32 / size ≤ x ∨ ∃ l < 32, l / size = x - w ∧ h.active l = false) := by
  rw [Group.mem_mendLanes]
  refine and_congr_right fun _ => or_congr_right (or_congr_right ?_)
  constructor
  · rintro ⟨l, h1, h2, h3⟩
    exact ⟨l, h1, h2, by simpa [Group.mem_actives, h1] using h3⟩
  · rintro ⟨l, h1, h2, h3⟩
    exact ⟨l, h1, h2, by simp [Group.mem_actives, h3]⟩

/-- `writeQ` writes the results in the lanes that are listed. -/
theorem Group.writeQ_written (g : Group) (q : QReg) (res : Nat → Bool) :
    PredicateWritten g (g.writeQ q (g.actives.map fun i => (i, res i))) q res := by
  have hfst : (g.actives.map fun i => (i, res i)).map Prod.fst = g.actives := by
    rw [List.map_map]; exact List.map_id' _
  refine ⟨fun l hl => ?_, fun k hk l => ?_, fun w => ?_, ?_⟩
  · have hset := foldl_bits_testBit g.actives res l g.actives_rising 0 (fun i _ => Nat.two_pow_pos i)
    have hkeep := foldl_bits_testBit g.actives (fun _ => true) l g.actives_rising 0 (fun i _ => Nat.two_pow_pos i)
    simp only [bit, if_true, Nat.one_mul] at hkeep
    simp only [Group.writeQ, Group.mendLanes_q, Group.setPreds, Group.pred, Group.preds, Cells.get_set_same, List.foldl_map,
      BitVec.getLsbD_or, BitVec.getLsbD_and, BitVec.getLsbD_not, BitVec.getLsbD_ofNat, hset, hkeep, Nat.zero_testBit,
      Group.mem_actives, hl]
    by_cases ha : g.active l = true <;> simp [ha]
  · simp only [Group.writeQ, Group.mendLanes_q, Group.setPreds, Group.pred]
    rw [Cells.get_set_ne _ _ _ _ _ (Ne.symm hk)]
  · rw [Group.writeQ, hfst, Group.mem_mendLanes_actives]
    refine and_congr_right fun _ => ⟨?_, ?_⟩
    · rintro (h | h | ⟨l, h1, -, h3⟩)
      · exact .inl (by omega)
      · exact .inl (by omega)
      · exact .inr ⟨l, h1, h3⟩
    · rintro (h | ⟨l, h1, h3⟩)
      · omega
      · by_cases hw : w = predWord q.toNat
        · exact .inr (.inr ⟨l, h1, by omega, h3⟩)
        · omega
  · rfl

end Sys2Proof.Machine
end

