-- ==== Sys2Proof/Laws/PerInstr.lean ====
section
/-!
SUPPORT. What an instruction's word decodes to, one constructor at a time: the family `RoundTrip` of LAWS.json
(spec/02_words_and_syntax.md R40, R45, R49, R50).
-/
namespace Sys2Proof

/-- An operand's code takes nine bits. -/
theorem Operand.code_lt (o : Operand) : o.code < 512 := by
  have := o.reg.isLt
  unfold Operand.code Pattern.code; split <;> omega

/-- A field of a word is the corresponding digits of the number that the word holds. -/
theorem fld_ofNat {n lo len : Nat} {x : BitVec len} (hlen : lo + len ≤ 32) (h : n / 2 ^ lo % 2 ^ len = x.toNat) :
    fld (BitVec.ofNat 32 n) lo len = x := by
  apply BitVec.eq_of_toNat_eq
  rw [← h, fld, BitVec.extractLsb'_toNat, BitVec.toNat_ofNat, Nat.shiftRight_eq_div_pow]
  obtain ⟨k, hk⟩ := Nat.exists_eq_add_of_le hlen
  have : (2 : Nat) ^ 32 = 2 ^ lo * 2 ^ (len + k) := by rw [← Nat.pow_add, hk]; ring_nf
  rw [this, Nat.mod_mul_right_div_self, Nat.pow_add, Nat.mod_mul_right_mod]

/-- A field that holds zero. -/
theorem nz_ofNat {n lo len : Nat} (hlen : lo + len ≤ 32) (h : n / 2 ^ lo % 2 ^ len = 0) :
    nz (BitVec.ofNat 32 n) lo len = false := by
  rw [nz, fld_ofNat (x := 0#len) hlen (by simpa using h)]; simp

/-- A one-bit field. -/
theorem flag_ofNat {n lo : Nat} {b : Bool} (hlen : lo + 1 ≤ 32) (h : n / 2 ^ lo % 2 ^ 1 = b.toNat) :
    nz (BitVec.ofNat 32 n) lo 1 = b := by
  rw [nz, fld_ofNat (x := BitVec.ofBool b) hlen (by simpa using h)]; cases b <;> rfl

/-- An operand field. -/
theorem opnd_ofNat {n lo : Nat} {a : Operand} (hlen : lo + 9 ≤ 32) (h : n / 2 ^ lo % 2 ^ 9 = a.code) :
    opnd (fld (BitVec.ofNat 32 n) lo 9) = a := by
  rw [fld_ofNat (x := BitVec.ofNat 9 a.code) hlen (by rw [h, BitVec.toNat_ofNat, Nat.mod_eq_of_lt a.code_lt])]
  obtain ⟨p, r⟩ := a
  have hr := r.isLt
  have hreg : (BitVec.ofNat 9 (Operand.code ⟨p, r⟩)).extractLsb' 0 6 = r := by
    apply BitVec.eq_of_toNat_eq
    rw [BitVec.extractLsb'_toNat, BitVec.toNat_ofNat, Nat.mod_eq_of_lt (Operand.code_lt _)]
    simp only [Operand.code, Nat.shiftRight_zero]; omega
  have hpat : ((BitVec.ofNat 9 (Operand.code ⟨p, r⟩)).extractLsb' 6 3).toNat = p.code := by
    rw [BitVec.extractLsb'_toNat, BitVec.toNat_ofNat, Nat.mod_eq_of_lt (Operand.code_lt _), Nat.shiftRight_eq_div_pow]
    simp only [Operand.code]
    have : p.code < 8 := by cases p <;> decide
    omega
  unfold opnd
  rw [hreg, Pattern.ofCode, hpat]
  cases p <;> rfl

/-- A field above the ones placed holds bits of the opcode. -/
theorem top_ofNat {n lo : Nat} {x : Nat} (hlen : lo + 4 ≤ 32) (h : n / 2 ^ lo % 2 ^ 4 = x % 2 ^ 4) :
    fld (BitVec.ofNat 32 n) lo 4 = BitVec.ofNat 4 x :=
  fld_ofNat hlen (by rw [h, BitVec.toNat_ofNat])

namespace Laws.RoundTrip

theorem lay_none (op : Nat) {w : Word}
    (h : w = BitVec.ofNat 32 (op * 2 ^ 24 + place [])) :
    fld w 28 4 = BitVec.ofNat 4 (op / 16) ∧ fld w 24 4 = BitVec.ofNat 4 op ∧ nz w 0 8 = false ∧ nz w 0 24 = false ∧ nz w 8 4 = false ∧ nz w 12 2 = false ∧ nz w 14 5 = false ∧ nz w 19 5 = false := by
  subst h
  refine ⟨?_, ?_, ?_, ?_, ?_, ?_, ?_, ?_⟩
  · exact top_ofNat (by decide) (by simp only [place]; omega)
  · exact top_ofNat (by decide) (by simp only [place]; omega)
  · exact nz_ofNat (by decide) (by simp only [place]; omega)
  · exact nz_ofNat (by decide) (by simp only [place]; omega)
  · exact nz_ofNat (by decide) (by simp only [place]; omega)
  · exact nz_ofNat (by decide) (by simp only [place]; omega)
  · exact nz_ofNat (by decide) (by simp only [place]; omega)
  · exact nz_ofNat (by decide) (by simp only [place]; omega)

theorem lay_0_24 (op : Nat) (x0 : BitVec 24) {w : Word}
    (h : w = BitVec.ofNat 32 (op * 2 ^ 24 + place [(0, x0.toNat)])) :
    fld w 28 4 = BitVec.ofNat 4 (op / 16) ∧ fld w 24 4 = BitVec.ofNat 4 op ∧ fld w 0 24 = x0 := by
  subst h
  refine ⟨?_, ?_, ?_⟩
  · exact top_ofNat (by decide) (by simp only [place]; omega)
  · exact top_ofNat (by decide) (by simp only [place]; omega)
  · exact fld_ofNat (by decide) (by simp only [place]; omega)

theorem lay_19_5_0_19 (op : Nat) (x0 : BitVec 5) (x1 : BitVec 19) {w : Word}
    (h : w = BitVec.ofNat 32 (op * 2 ^ 24 + place [(19, x0.toNat), (0, x1.toNat)])) :
    fld w 28 4 = BitVec.ofNat 4 (op / 16) ∧ fld w 24 4 = BitVec.ofNat 4 op ∧ fld w 19 5 = x0 ∧ fld w 0 19 = x1 := by
  subst h
  refine ⟨?_, ?_, ?_, ?_⟩
  · exact top_ofNat (by decide) (by simp only [place]; omega)
  · exact top_ofNat (by decide) (by simp only [place]; omega)
  · exact fld_ofNat (by decide) (by simp only [place]; omega)
  · exact fld_ofNat (by decide) (by simp only [place]; omega)

theorem lay_19_5_14_5 (op : Nat) (x0 : BitVec 5) (x1 : BitVec 5) {w : Word}
    (h : w = BitVec.ofNat 32 (op * 2 ^ 24 + place [(19, x0.toNat), (14, x1.toNat)])) :
    fld w 28 4 = BitVec.ofNat 4 (op / 16) ∧ fld w 24 4 = BitVec.ofNat 4 op ∧ fld w 19 5 = x0 ∧ fld w 14 5 = x1 ∧ nz w 0 8 = false ∧ nz w 0 9 = false ∧ nz w 8 4 = false ∧ nz w 9 5 = false ∧ nz w 12 2 = false := by
  subst h
  refine ⟨?_, ?_, ?_, ?_, ?_, ?_, ?_, ?_, ?_⟩
  · exact top_ofNat (by decide) (by simp only [place]; omega)
  · exact top_ofNat (by decide) (by simp only [place]; omega)
  · exact fld_ofNat (by decide) (by simp only [place]; omega)
  · exact fld_ofNat (by decide) (by simp only [place]; omega)
  · exact nz_ofNat (by decide) (by simp only [place]; omega)
  · exact nz_ofNat (by decide) (by simp only [place]; omega)
  · exact nz_ofNat (by decide) (by simp only [place]; omega)
  · exact nz_ofNat (by decide) (by simp only [place]; omega)
  · exact nz_ofNat (by decide) (by simp only [place]; omega)

theorem lay_14_5 (op : Nat) (x0 : BitVec 5) {w : Word}
    (h : w = BitVec.ofNat 32 (op * 2 ^ 24 + place [(14, x0.toNat)])) :
    fld w 28 4 = BitVec.ofNat 4 (op / 16) ∧ fld w 24 4 = BitVec.ofNat 4 op ∧ fld w 14 5 = x0 ∧ nz w 0 9 = false ∧ nz w 9 5 = false ∧ nz w 19 5 = false := by
  subst h
  refine ⟨?_, ?_, ?_, ?_, ?_, ?_⟩
  · exact top_ofNat (by decide) (by simp only [place]; omega)
  · exact top_ofNat (by decide) (by simp only [place]; omega)
  · exact fld_ofNat (by decide) (by simp only [place]; omega)
  · exact nz_ofNat (by decide) (by simp only [place]; omega)
  · exact nz_ofNat (by decide) (by simp only [place]; omega)
  · exact nz_ofNat (by decide) (by simp only [place]; omega)

theorem lay_21_3_20_b_0_20 (op : Nat) (x0 : BitVec 3) (x1 : Bool) (x2 : BitVec 20) {w : Word}
    (h : w = BitVec.ofNat 32 (op * 2 ^ 24 + place [(21, x0.toNat), (20, x1.toNat), (0, x2.toNat)])) :
    fld w 28 4 = BitVec.ofNat 4 (op / 16) ∧ fld w 24 4 = BitVec.ofNat 4 op ∧ fld w 21 3 = x0 ∧ nz w 20 1 = x1 ∧ fld w 0 20 = x2 := by
  subst h
  have := x1.toNat_lt
  refine ⟨?_, ?_, ?_, ?_, ?_⟩
  · exact top_ofNat (by decide) (by simp only [place]; omega)
  · exact top_ofNat (by decide) (by simp only [place]; omega)
  · exact fld_ofNat (by decide) (by simp only [place]; omega)
  · exact flag_ofNat (by decide) (by simp only [place]; omega)
  · exact fld_ofNat (by decide) (by simp only [place]; omega)

theorem lay_18_3_17_b (op : Nat) (x0 : BitVec 3) (x1 : Bool) {w : Word}
    (h : w = BitVec.ofNat 32 (op * 2 ^ 24 + place [(18, x0.toNat), (17, x1.toNat)])) :
    fld w 28 4 = BitVec.ofNat 4 (op / 16) ∧ fld w 24 4 = BitVec.ofNat 4 op ∧ fld w 18 3 = x0 ∧ nz w 17 1 = x1 ∧ nz w 0 17 = false ∧ nz w 21 3 = false := by
  subst h
  have := x1.toNat_lt
  refine ⟨?_, ?_, ?_, ?_, ?_, ?_⟩
  · exact top_ofNat (by decide) (by simp only [place]; omega)
  · exact top_ofNat (by decide) (by simp only [place]; omega)
  · exact fld_ofNat (by decide) (by simp only [place]; omega)
  · exact flag_ofNat (by decide) (by simp only [place]; omega)
  · exact nz_ofNat (by decide) (by simp only [place]; omega)
  · exact nz_ofNat (by decide) (by simp only [place]; omega)

theorem lay_19_5 (op : Nat) (x0 : BitVec 5) {w : Word}
    (h : w = BitVec.ofNat 32 (op * 2 ^ 24 + place [(19, x0.toNat)])) :
    fld w 28 4 = BitVec.ofNat 4 (op / 16) ∧ fld w 24 4 = BitVec.ofNat 4 op ∧ fld w 19 5 = x0 ∧ nz w 0 8 = false ∧ nz w 0 9 = false ∧ nz w 8 4 = false ∧ nz w 9 5 = false ∧ nz w 12 2 = false ∧ nz w 14 5 = false := by
  subst h
  refine ⟨?_, ?_, ?_, ?_, ?_, ?_, ?_, ?_, ?_⟩
  · exact top_ofNat (by decide) (by simp only [place]; omega)
  · exact top_ofNat (by decide) (by simp only [place]; omega)
  · exact fld_ofNat (by decide) (by simp only [place]; omega)
  · exact nz_ofNat (by decide) (by simp only [place]; omega)
  · exact nz_ofNat (by decide) (by simp only [place]; omega)
  · exact nz_ofNat (by decide) (by simp only [place]; omega)
  · exact nz_ofNat (by decide) (by simp only [place]; omega)
  · exact nz_ofNat (by decide) (by simp only [place]; omega)
  · exact nz_ofNat (by decide) (by simp only [place]; omega)

theorem lay_0_16 (op : Nat) (x0 : BitVec 16) {w : Word}
    (h : w = BitVec.ofNat 32 (op * 2 ^ 24 + place [(0, x0.toNat)])) :
    fld w 28 4 = BitVec.ofNat 4 (op / 16) ∧ fld w 24 4 = BitVec.ofNat 4 op ∧ fld w 0 16 = x0 ∧ nz w 16 8 = false := by
  subst h
  refine ⟨?_, ?_, ?_, ?_⟩
  · exact top_ofNat (by decide) (by simp only [place]; omega)
  · exact top_ofNat (by decide) (by simp only [place]; omega)
  · exact fld_ofNat (by decide) (by simp only [place]; omega)
  · exact nz_ofNat (by decide) (by simp only [place]; omega)

theorem lay_0_15 (op : Nat) (x0 : BitVec 15) {w : Word}
    (h : w = BitVec.ofNat 32 (op * 2 ^ 24 + place [(0, x0.toNat)])) :
    fld w 28 4 = BitVec.ofNat 4 (op / 16) ∧ fld w 24 4 = BitVec.ofNat 4 op ∧ fld w 0 15 = x0 ∧ nz w 15 9 = false := by
  subst h
  refine ⟨?_, ?_, ?_, ?_⟩
  · exact top_ofNat (by decide) (by simp only [place]; omega)
  · exact top_ofNat (by decide) (by simp only [place]; omega)
  · exact fld_ofNat (by decide) (by simp only [place]; omega)
  · exact nz_ofNat (by decide) (by simp only [place]; omega)

theorem lay_21_3_14_6_0_14 (op : Nat) (x0 : BitVec 3) (x1 : BitVec 6) (x2 : BitVec 14) {w : Word}
    (h : w = BitVec.ofNat 32 (op * 2 ^ 24 + place [(21, x0.toNat), (14, x1.toNat), (0, x2.toNat)])) :
    fld w 28 4 = BitVec.ofNat 4 (op / 16) ∧ fld w 24 4 = BitVec.ofNat 4 op ∧ fld w 21 3 = x0 ∧ fld w 14 6 = x1 ∧ fld w 0 14 = x2 ∧ nz w 20 1 = false := by
  subst h
  refine ⟨?_, ?_, ?_, ?_, ?_, ?_⟩
  · exact top_ofNat (by decide) (by simp only [place]; omega)
  · exact top_ofNat (by decide) (by simp only [place]; omega)
  · exact fld_ofNat (by decide) (by simp only [place]; omega)
  · exact fld_ofNat (by decide) (by simp only [place]; omega)
  · exact fld_ofNat (by decide) (by simp only [place]; omega)
  · exact nz_ofNat (by decide) (by simp only [place]; omega)

theorem lay_21_3_6_6_0_6 (op : Nat) (x0 : BitVec 3) (x1 : BitVec 6) (x2 : BitVec 6) {w : Word}
    (h : w = BitVec.ofNat 32 (op * 2 ^ 24 + place [(21, x0.toNat), (6, x1.toNat), (0, x2.toNat)])) :
    fld w 28 4 = BitVec.ofNat 4 (op / 16) ∧ fld w 24 4 = BitVec.ofNat 4 op ∧ fld w 21 3 = x0 ∧ fld w 6 6 = x1 ∧ fld w 0 6 = x2 ∧ nz w 12 8 = false ∧ nz w 20 1 = false := by
  subst h
  refine ⟨?_, ?_, ?_, ?_, ?_, ?_, ?_⟩
  · exact top_ofNat (by decide) (by simp only [place]; omega)
  · exact top_ofNat (by decide) (by simp only [place]; omega)
  · exact fld_ofNat (by decide) (by simp only [place]; omega)
  · exact fld_ofNat (by decide) (by simp only [place]; omega)
  · exact fld_ofNat (by decide) (by simp only [place]; omega)
  · exact nz_ofNat (by decide) (by simp only [place]; omega)
  · exact nz_ofNat (by decide) (by simp only [place]; omega)

theorem lay_21_3_0_14 (op : Nat) (x0 : BitVec 3) (x1 : BitVec 14) {w : Word}
    (h : w = BitVec.ofNat 32 (op * 2 ^ 24 + place [(21, x0.toNat), (0, x1.toNat)])) :
    fld w 28 4 = BitVec.ofNat 4 (op / 16) ∧ fld w 24 4 = BitVec.ofNat 4 op ∧ fld w 21 3 = x0 ∧ fld w 0 14 = x1 ∧ nz w 14 6 = false ∧ nz w 20 1 = false := by
  subst h
  refine ⟨?_, ?_, ?_, ?_, ?_, ?_⟩
  · exact top_ofNat (by decide) (by simp only [place]; omega)
  · exact top_ofNat (by decide) (by simp only [place]; omega)
  · exact fld_ofNat (by decide) (by simp only [place]; omega)
  · exact fld_ofNat (by decide) (by simp only [place]; omega)
  · exact nz_ofNat (by decide) (by simp only [place]; omega)
  · exact nz_ofNat (by decide) (by simp only [place]; omega)

theorem lay_21_3_14_6 (op : Nat) (x0 : BitVec 3) (x1 : BitVec 6) {w : Word}
    (h : w = BitVec.ofNat 32 (op * 2 ^ 24 + place [(21, x0.toNat), (14, x1.toNat)])) :
    fld w 28 4 = BitVec.ofNat 4 (op / 16) ∧ fld w 24 4 = BitVec.ofNat 4 op ∧ fld w 21 3 = x0 ∧ fld w 14 6 = x1 ∧ nz w 0 14 = false ∧ nz w 20 1 = false := by
  subst h
  refine ⟨?_, ?_, ?_, ?_, ?_, ?_⟩
  · exact top_ofNat (by decide) (by simp only [place]; omega)
  · exact top_ofNat (by decide) (by simp only [place]; omega)
  · exact fld_ofNat (by decide) (by simp only [place]; omega)
  · exact fld_ofNat (by decide) (by simp only [place]; omega)
  · exact nz_ofNat (by decide) (by simp only [place]; omega)
  · exact nz_ofNat (by decide) (by simp only [place]; omega)

theorem lay_18_6_9_o_0_o (op : Nat) (x0 : BitVec 6) (x1 : Operand) (x2 : Operand) {w : Word}
    (h : w = BitVec.ofNat 32 (op * 2 ^ 24 + place [(18, x0.toNat), (9, x1.code), (0, x2.code)])) :
    fld w 28 4 = BitVec.ofNat 4 (op / 16) ∧ fld w 24 4 = BitVec.ofNat 4 op ∧ fld w 18 6 = x0 ∧ opnd (fld w 9 9) = x1 ∧ opnd (fld w 0 9) = x2 := by
  subst h
  have := x1.code_lt
  have := x2.code_lt
  refine ⟨?_, ?_, ?_, ?_, ?_⟩
  · exact top_ofNat (by decide) (by simp only [place]; omega)
  · exact top_ofNat (by decide) (by simp only [place]; omega)
  · exact fld_ofNat (by decide) (by simp only [place]; omega)
  · exact opnd_ofNat (by decide) (by simp only [place]; omega)
  · exact opnd_ofNat (by decide) (by simp only [place]; omega)

theorem lay_18_6_9_o (op : Nat) (x0 : BitVec 6) (x1 : Operand) {w : Word}
    (h : w = BitVec.ofNat 32 (op * 2 ^ 24 + place [(18, x0.toNat), (9, x1.code)])) :
    fld w 28 4 = BitVec.ofNat 4 (op / 16) ∧ fld w 24 4 = BitVec.ofNat 4 op ∧ fld w 18 6 = x0 ∧ opnd (fld w 9 9) = x1 ∧ nz w 0 9 = false := by
  subst h
  have := x1.code_lt
  refine ⟨?_, ?_, ?_, ?_, ?_⟩
  · exact top_ofNat (by decide) (by simp only [place]; omega)
  · exact top_ofNat (by decide) (by simp only [place]; omega)
  · exact fld_ofNat (by decide) (by simp only [place]; omega)
  · exact opnd_ofNat (by decide) (by simp only [place]; omega)
  · exact nz_ofNat (by decide) (by simp only [place]; omega)

theorem lay_18_6_12_6_0_12 (op : Nat) (x0 : BitVec 6) (x1 : BitVec 6) (x2 : BitVec 12) {w : Word}
    (h : w = BitVec.ofNat 32 (op * 2 ^ 24 + place [(18, x0.toNat), (12, x1.toNat), (0, x2.toNat)])) :
    fld w 28 4 = BitVec.ofNat 4 (op / 16) ∧ fld w 24 4 = BitVec.ofNat 4 op ∧ fld w 18 6 = x0 ∧ fld w 12 6 = x1 ∧ fld w 0 12 = x2 := by
  subst h
  refine ⟨?_, ?_, ?_, ?_, ?_⟩
  · exact top_ofNat (by decide) (by simp only [place]; omega)
  · exact top_ofNat (by decide) (by simp only [place]; omega)
  · exact fld_ofNat (by decide) (by simp only [place]; omega)
  · exact fld_ofNat (by decide) (by simp only [place]; omega)
  · exact fld_ofNat (by decide) (by simp only [place]; omega)

theorem lay_18_6_12_6_0_6 (op : Nat) (x0 : BitVec 6) (x1 : BitVec 6) (x2 : BitVec 6) {w : Word}
    (h : w = BitVec.ofNat 32 (op * 2 ^ 24 + place [(18, x0.toNat), (12, x1.toNat), (0, x2.toNat)])) :
    fld w 28 4 = BitVec.ofNat 4 (op / 16) ∧ fld w 24 4 = BitVec.ofNat 4 op ∧ fld w 18 6 = x0 ∧ fld w 12 6 = x1 ∧ fld w 0 6 = x2 ∧ nz w 6 6 = false := by
  subst h
  refine ⟨?_, ?_, ?_, ?_, ?_, ?_⟩
  · exact top_ofNat (by decide) (by simp only [place]; omega)
  · exact top_ofNat (by decide) (by simp only [place]; omega)
  · exact fld_ofNat (by decide) (by simp only [place]; omega)
  · exact fld_ofNat (by decide) (by simp only [place]; omega)
  · exact fld_ofNat (by decide) (by simp only [place]; omega)
  · exact nz_ofNat (by decide) (by simp only [place]; omega)

theorem lay_18_6_12_6_6_6_0_6 (op : Nat) (x0 : BitVec 6) (x1 : BitVec 6) (x2 : BitVec 6) (x3 : BitVec 6) {w : Word}
    (h : w = BitVec.ofNat 32 (op * 2 ^ 24 + place [(18, x0.toNat), (12, x1.toNat), (6, x2.toNat), (0, x3.toNat)])) :
    fld w 28 4 = BitVec.ofNat 4 (op / 16) ∧ fld w 24 4 = BitVec.ofNat 4 op ∧ fld w 18 6 = x0 ∧ fld w 12 6 = x1 ∧ fld w 6 6 = x2 ∧ fld w 0 6 = x3 := by
  subst h
  refine ⟨?_, ?_, ?_, ?_, ?_, ?_⟩
  · exact top_ofNat (by decide) (by simp only [place]; omega)
  · exact top_ofNat (by decide) (by simp only [place]; omega)
  · exact fld_ofNat (by decide) (by simp only [place]; omega)
  · exact fld_ofNat (by decide) (by simp only [place]; omega)
  · exact fld_ofNat (by decide) (by simp only [place]; omega)
  · exact fld_ofNat (by decide) (by simp only [place]; omega)

theorem lay_21_3_18_3_9_o_0_o (op : Nat) (x0 : BitVec 3) (x1 : BitVec 3) (x2 : Operand) (x3 : Operand) {w : Word}
    (h : w = BitVec.ofNat 32 (op * 2 ^ 24 + place [(21, x0.toNat), (18, x1.toNat), (9, x2.code), (0, x3.code)])) :
    fld w 28 4 = BitVec.ofNat 4 (op / 16) ∧ fld w 24 4 = BitVec.ofNat 4 op ∧ fld w 21 3 = x0 ∧ fld w 18 3 = x1 ∧ opnd (fld w 9 9) = x2 ∧ opnd (fld w 0 9) = x3 := by
  subst h
  have := x2.code_lt
  have := x3.code_lt
  refine ⟨?_, ?_, ?_, ?_, ?_, ?_⟩
  · exact top_ofNat (by decide) (by simp only [place]; omega)
  · exact top_ofNat (by decide) (by simp only [place]; omega)
  · exact fld_ofNat (by decide) (by simp only [place]; omega)
  · exact fld_ofNat (by decide) (by simp only [place]; omega)
  · exact opnd_ofNat (by decide) (by simp only [place]; omega)
  · exact opnd_ofNat (by decide) (by simp only [place]; omega)

theorem lay_21_3_18_3_15_3_12_3 (op : Nat) (x0 : BitVec 3) (x1 : BitVec 3) (x2 : BitVec 3) (x3 : BitVec 3) {w : Word}
    (h : w = BitVec.ofNat 32 (op * 2 ^ 24 + place [(21, x0.toNat), (18, x1.toNat), (15, x2.toNat), (12, x3.toNat)])) :
    fld w 28 4 = BitVec.ofNat 4 (op / 16) ∧ fld w 24 4 = BitVec.ofNat 4 op ∧ fld w 21 3 = x0 ∧ fld w 18 3 = x1 ∧ fld w 15 3 = x2 ∧ fld w 12 3 = x3 ∧ nz w 0 12 = false := by
  subst h
  refine ⟨?_, ?_, ?_, ?_, ?_, ?_, ?_⟩
  · exact top_ofNat (by decide) (by simp only [place]; omega)
  · exact top_ofNat (by decide) (by simp only [place]; omega)
  · exact fld_ofNat (by decide) (by simp only [place]; omega)
  · exact fld_ofNat (by decide) (by simp only [place]; omega)
  · exact fld_ofNat (by decide) (by simp only [place]; omega)
  · exact fld_ofNat (by decide) (by simp only [place]; omega)
  · exact nz_ofNat (by decide) (by simp only [place]; omega)

theorem lay_18_3_12_6_0_5 (op : Nat) (x0 : BitVec 3) (x1 : BitVec 6) (x2 : BitVec 5) {w : Word}
    (h : w = BitVec.ofNat 32 (op * 2 ^ 24 + place [(18, x0.toNat), (12, x1.toNat), (0, x2.toNat)])) :
    fld w 28 4 = BitVec.ofNat 4 (op / 16) ∧ fld w 24 4 = BitVec.ofNat 4 op ∧ fld w 18 3 = x0 ∧ fld w 12 6 = x1 ∧ fld w 0 5 = x2 ∧ nz w 5 6 = false ∧ nz w 11 1 = false ∧ nz w 21 3 = false := by
  subst h
  refine ⟨?_, ?_, ?_, ?_, ?_, ?_, ?_, ?_⟩
  · exact top_ofNat (by decide) (by simp only [place]; omega)
  · exact top_ofNat (by decide) (by simp only [place]; omega)
  · exact fld_ofNat (by decide) (by simp only [place]; omega)
  · exact fld_ofNat (by decide) (by simp only [place]; omega)
  · exact fld_ofNat (by decide) (by simp only [place]; omega)
  · exact nz_ofNat (by decide) (by simp only [place]; omega)
  · exact nz_ofNat (by decide) (by simp only [place]; omega)
  · exact nz_ofNat (by decide) (by simp only [place]; omega)

theorem lay_12_6_x800 (op : Nat) (x0 : BitVec 6) {w : Word}
    (h : w = BitVec.ofNat 32 (op * 2 ^ 24 + 0x800 + place [(12, x0.toNat)])) :
    fld w 28 4 = BitVec.ofNat 4 (op / 16) ∧ fld w 24 4 = BitVec.ofNat 4 op ∧ fld w 12 6 = x0 ∧ nz w 0 5 = false ∧ nz w 5 6 = false ∧ nz w 11 1 = true ∧ nz w 18 3 = false ∧ nz w 21 3 = false := by
  subst h
  refine ⟨?_, ?_, ?_, ?_, ?_, ?_, ?_, ?_⟩
  · exact top_ofNat (by decide) (by simp only [place]; omega)
  · exact top_ofNat (by decide) (by simp only [place]; omega)
  · exact fld_ofNat (by decide) (by simp only [place]; omega)
  · exact nz_ofNat (by decide) (by simp only [place]; omega)
  · exact nz_ofNat (by decide) (by simp only [place]; omega)
  · exact flag_ofNat (b := true) (by decide) (by simp only [place, Bool.toNat_true]; omega)
  · exact nz_ofNat (by decide) (by simp only [place]; omega)
  · exact nz_ofNat (by decide) (by simp only [place]; omega)

theorem lay_18_6 (op : Nat) (x0 : BitVec 6) {w : Word}
    (h : w = BitVec.ofNat 32 (op * 2 ^ 24 + place [(18, x0.toNat)])) :
    fld w 28 4 = BitVec.ofNat 4 (op / 16) ∧ fld w 24 4 = BitVec.ofNat 4 op ∧ fld w 18 6 = x0 ∧ nz w 0 9 = false ∧ nz w 9 9 = false := by
  subst h
  refine ⟨?_, ?_, ?_, ?_, ?_⟩
  · exact top_ofNat (by decide) (by simp only [place]; omega)
  · exact top_ofNat (by decide) (by simp only [place]; omega)
  · exact fld_ofNat (by decide) (by simp only [place]; omega)
  · exact nz_ofNat (by decide) (by simp only [place]; omega)
  · exact nz_ofNat (by decide) (by simp only [place]; omega)

theorem lay_18_6_0_18 (op : Nat) (x0 : BitVec 6) (x1 : BitVec 18) {w : Word}
    (h : w = BitVec.ofNat 32 (op * 2 ^ 24 + place [(18, x0.toNat), (0, x1.toNat)])) :
    fld w 28 4 = BitVec.ofNat 4 (op / 16) ∧ fld w 24 4 = BitVec.ofNat 4 op ∧ fld w 18 6 = x0 ∧ fld w 0 18 = x1 := by
  subst h
  refine ⟨?_, ?_, ?_, ?_⟩
  · exact top_ofNat (by decide) (by simp only [place]; omega)
  · exact top_ofNat (by decide) (by simp only [place]; omega)
  · exact fld_ofNat (by decide) (by simp only [place]; omega)
  · exact fld_ofNat (by decide) (by simp only [place]; omega)

theorem lay_18_6_9_o_8_b (op : Nat) (x0 : BitVec 6) (x1 : Operand) (x2 : Bool) {w : Word}
    (h : w = BitVec.ofNat 32 (op * 2 ^ 24 + place [(18, x0.toNat), (9, x1.code), (8, x2.toNat)])) :
    fld w 28 4 = BitVec.ofNat 4 (op / 16) ∧ fld w 24 4 = BitVec.ofNat 4 op ∧ fld w 18 6 = x0 ∧ opnd (fld w 9 9) = x1 ∧ nz w 8 1 = x2 ∧ nz w 0 8 = false := by
  subst h
  have := x1.code_lt
  have := x2.toNat_lt
  refine ⟨?_, ?_, ?_, ?_, ?_, ?_⟩
  · exact top_ofNat (by decide) (by simp only [place]; omega)
  · exact top_ofNat (by decide) (by simp only [place]; omega)
  · exact fld_ofNat (by decide) (by simp only [place]; omega)
  · exact opnd_ofNat (by decide) (by simp only [place]; omega)
  · exact flag_ofNat (by decide) (by simp only [place]; omega)
  · exact nz_ofNat (by decide) (by simp only [place]; omega)

theorem lay_18_6_13_5 (op : Nat) (x0 : BitVec 6) (x1 : BitVec 5) {w : Word}
    (h : w = BitVec.ofNat 32 (op * 2 ^ 24 + place [(18, x0.toNat), (13, x1.toNat)])) :
    fld w 28 4 = BitVec.ofNat 4 (op / 16) ∧ fld w 24 4 = BitVec.ofNat 4 op ∧ fld w 18 6 = x0 ∧ fld w 13 5 = x1 ∧ nz w 0 13 = false := by
  subst h
  refine ⟨?_, ?_, ?_, ?_, ?_⟩
  · exact top_ofNat (by decide) (by simp only [place]; omega)
  · exact top_ofNat (by decide) (by simp only [place]; omega)
  · exact fld_ofNat (by decide) (by simp only [place]; omega)
  · exact fld_ofNat (by decide) (by simp only [place]; omega)
  · exact nz_ofNat (by decide) (by simp only [place]; omega)

theorem lay_21_3_18_3_9_o_0_9 (op : Nat) (x0 : BitVec 3) (x1 : BitVec 3) (x2 : Operand) (x3 : BitVec 9) {w : Word}
    (h : w = BitVec.ofNat 32 (op * 2 ^ 24 + place [(21, x0.toNat), (18, x1.toNat), (9, x2.code), (0, x3.toNat)])) :
    fld w 28 4 = BitVec.ofNat 4 (op / 16) ∧ fld w 24 4 = BitVec.ofNat 4 op ∧ fld w 21 3 = x0 ∧ fld w 18 3 = x1 ∧ opnd (fld w 9 9) = x2 ∧ fld w 0 9 = x3 := by
  subst h
  have := x2.code_lt
  refine ⟨?_, ?_, ?_, ?_, ?_, ?_⟩
  · exact top_ofNat (by decide) (by simp only [place]; omega)
  · exact top_ofNat (by decide) (by simp only [place]; omega)
  · exact fld_ofNat (by decide) (by simp only [place]; omega)
  · exact fld_ofNat (by decide) (by simp only [place]; omega)
  · exact opnd_ofNat (by decide) (by simp only [place]; omega)
  · exact fld_ofNat (by decide) (by simp only [place]; omega)

theorem lay_18_6_9_o_4_5 (op : Nat) (x0 : BitVec 6) (x1 : Operand) (x2 : BitVec 5) {w : Word}
    (h : w = BitVec.ofNat 32 (op * 2 ^ 24 + place [(18, x0.toNat), (9, x1.code), (4, x2.toNat)])) :
    fld w 28 4 = BitVec.ofNat 4 (op / 16) ∧ fld w 24 4 = BitVec.ofNat 4 op ∧ fld w 18 6 = x0 ∧ opnd (fld w 9 9) = x1 ∧ fld w 4 5 = x2 ∧ nz w 0 4 = false := by
  subst h
  have := x1.code_lt
  refine ⟨?_, ?_, ?_, ?_, ?_, ?_⟩
  · exact top_ofNat (by decide) (by simp only [place]; omega)
  · exact top_ofNat (by decide) (by simp only [place]; omega)
  · exact fld_ofNat (by decide) (by simp only [place]; omega)
  · exact opnd_ofNat (by decide) (by simp only [place]; omega)
  · exact fld_ofNat (by decide) (by simp only [place]; omega)
  · exact nz_ofNat (by decide) (by simp only [place]; omega)

theorem lay_19_5_14_5_9_5 (op : Nat) (x0 : BitVec 5) (x1 : BitVec 5) (x2 : BitVec 5) {w : Word}
    (h : w = BitVec.ofNat 32 (op * 2 ^ 24 + place [(19, x0.toNat), (14, x1.toNat), (9, x2.toNat)])) :
    fld w 28 4 = BitVec.ofNat 4 (op / 16) ∧ fld w 24 4 = BitVec.ofNat 4 op ∧ fld w 19 5 = x0 ∧ fld w 14 5 = x1 ∧ fld w 9 5 = x2 ∧ nz w 0 8 = false ∧ nz w 0 9 = false ∧ nz w 8 1 = false := by
  subst h
  refine ⟨?_, ?_, ?_, ?_, ?_, ?_, ?_, ?_⟩
  · exact top_ofNat (by decide) (by simp only [place]; omega)
  · exact top_ofNat (by decide) (by simp only [place]; omega)
  · exact fld_ofNat (by decide) (by simp only [place]; omega)
  · exact fld_ofNat (by decide) (by simp only [place]; omega)
  · exact fld_ofNat (by decide) (by simp only [place]; omega)
  · exact nz_ofNat (by decide) (by simp only [place]; omega)
  · exact nz_ofNat (by decide) (by simp only [place]; omega)
  · exact nz_ofNat (by decide) (by simp only [place]; omega)

theorem lay_19_5_14_5_0_14 (op : Nat) (x0 : BitVec 5) (x1 : BitVec 5) (x2 : BitVec 14) {w : Word}
    (h : w = BitVec.ofNat 32 (op * 2 ^ 24 + place [(19, x0.toNat), (14, x1.toNat), (0, x2.toNat)])) :
    fld w 28 4 = BitVec.ofNat 4 (op / 16) ∧ fld w 24 4 = BitVec.ofNat 4 op ∧ fld w 19 5 = x0 ∧ fld w 14 5 = x1 ∧ fld w 0 14 = x2 := by
  subst h
  refine ⟨?_, ?_, ?_, ?_, ?_⟩
  · exact top_ofNat (by decide) (by simp only [place]; omega)
  · exact top_ofNat (by decide) (by simp only [place]; omega)
  · exact fld_ofNat (by decide) (by simp only [place]; omega)
  · exact fld_ofNat (by decide) (by simp only [place]; omega)
  · exact fld_ofNat (by decide) (by simp only [place]; omega)

theorem lay_19_5_14_5_0_6_x100 (op : Nat) (x0 : BitVec 5) (x1 : BitVec 5) (x2 : BitVec 6) {w : Word}
    (h : w = BitVec.ofNat 32 (op * 2 ^ 24 + 0x100 + place [(19, x0.toNat), (14, x1.toNat), (0, x2.toNat)])) :
    fld w 28 4 = BitVec.ofNat 4 (op / 16) ∧ fld w 24 4 = BitVec.ofNat 4 op ∧ fld w 19 5 = x0 ∧ fld w 14 5 = x1 ∧ fld w 0 6 = x2 ∧ nz w 6 2 = false ∧ nz w 8 1 = true ∧ nz w 9 5 = false := by
  subst h
  refine ⟨?_, ?_, ?_, ?_, ?_, ?_, ?_, ?_⟩
  · exact top_ofNat (by decide) (by simp only [place]; omega)
  · exact top_ofNat (by decide) (by simp only [place]; omega)
  · exact fld_ofNat (by decide) (by simp only [place]; omega)
  · exact fld_ofNat (by decide) (by simp only [place]; omega)
  · exact fld_ofNat (by decide) (by simp only [place]; omega)
  · exact nz_ofNat (by decide) (by simp only [place]; omega)
  · exact flag_ofNat (b := true) (by decide) (by simp only [place, Bool.toNat_true]; omega)
  · exact nz_ofNat (by decide) (by simp only [place]; omega)

theorem lay_19_5_6_3_0_6 (op : Nat) (x0 : BitVec 5) (x1 : BitVec 3) (x2 : BitVec 6) {w : Word}
    (h : w = BitVec.ofNat 32 (op * 2 ^ 24 + place [(19, x0.toNat), (6, x1.toNat), (0, x2.toNat)])) :
    fld w 28 4 = BitVec.ofNat 4 (op / 16) ∧ fld w 24 4 = BitVec.ofNat 4 op ∧ fld w 19 5 = x0 ∧ fld w 6 3 = x1 ∧ fld w 0 6 = x2 ∧ nz w 9 5 = false ∧ nz w 14 5 = false := by
  subst h
  refine ⟨?_, ?_, ?_, ?_, ?_, ?_, ?_⟩
  · exact top_ofNat (by decide) (by simp only [place]; omega)
  · exact top_ofNat (by decide) (by simp only [place]; omega)
  · exact fld_ofNat (by decide) (by simp only [place]; omega)
  · exact fld_ofNat (by decide) (by simp only [place]; omega)
  · exact fld_ofNat (by decide) (by simp only [place]; omega)
  · exact nz_ofNat (by decide) (by simp only [place]; omega)
  · exact nz_ofNat (by decide) (by simp only [place]; omega)

theorem lay_19_5_14_5_6_b_0_6 (op : Nat) (x0 : BitVec 5) (x1 : BitVec 5) (x2 : Bool) (x3 : BitVec 6) {w : Word}
    (h : w = BitVec.ofNat 32 (op * 2 ^ 24 + place [(19, x0.toNat), (14, x1.toNat), (6, x2.toNat), (0, x3.toNat)])) :
    fld w 28 4 = BitVec.ofNat 4 (op / 16) ∧ fld w 24 4 = BitVec.ofNat 4 op ∧ fld w 19 5 = x0 ∧ fld w 14 5 = x1 ∧ nz w 6 1 = x2 ∧ fld w 0 6 = x3 ∧ nz w 7 2 = false ∧ nz w 9 5 = false := by
  subst h
  have := x2.toNat_lt
  refine ⟨?_, ?_, ?_, ?_, ?_, ?_, ?_, ?_⟩
  · exact top_ofNat (by decide) (by simp only [place]; omega)
  · exact top_ofNat (by decide) (by simp only [place]; omega)
  · exact fld_ofNat (by decide) (by simp only [place]; omega)
  · exact fld_ofNat (by decide) (by simp only [place]; omega)
  · exact flag_ofNat (by decide) (by simp only [place]; omega)
  · exact fld_ofNat (by decide) (by simp only [place]; omega)
  · exact nz_ofNat (by decide) (by simp only [place]; omega)
  · exact nz_ofNat (by decide) (by simp only [place]; omega)

theorem lay_14_5_9_5_6_b_0_6 (op : Nat) (x0 : BitVec 5) (x1 : BitVec 5) (x2 : Bool) (x3 : BitVec 6) {w : Word}
    (h : w = BitVec.ofNat 32 (op * 2 ^ 24 + place [(14, x0.toNat), (9, x1.toNat), (6, x2.toNat), (0, x3.toNat)])) :
    fld w 28 4 = BitVec.ofNat 4 (op / 16) ∧ fld w 24 4 = BitVec.ofNat 4 op ∧ fld w 14 5 = x0 ∧ fld w 9 5 = x1 ∧ nz w 6 1 = x2 ∧ fld w 0 6 = x3 ∧ nz w 7 2 = false ∧ nz w 19 5 = false := by
  subst h
  have := x2.toNat_lt
  refine ⟨?_, ?_, ?_, ?_, ?_, ?_, ?_, ?_⟩
  · exact top_ofNat (by decide) (by simp only [place]; omega)
  · exact top_ofNat (by decide) (by simp only [place]; omega)
  · exact fld_ofNat (by decide) (by simp only [place]; omega)
  · exact fld_ofNat (by decide) (by simp only [place]; omega)
  · exact flag_ofNat (by decide) (by simp only [place]; omega)
  · exact fld_ofNat (by decide) (by simp only [place]; omega)
  · exact nz_ofNat (by decide) (by simp only [place]; omega)
  · exact nz_ofNat (by decide) (by simp only [place]; omega)

theorem lay_19_5_3_2_0_3 (op : Nat) (x0 : BitVec 5) (x1 : BitVec 2) (x2 : BitVec 3) {w : Word}
    (h : w = BitVec.ofNat 32 (op * 2 ^ 24 + place [(19, x0.toNat), (3, x1.toNat), (0, x2.toNat)])) :
    fld w 28 4 = BitVec.ofNat 4 (op / 16) ∧ fld w 24 4 = BitVec.ofNat 4 op ∧ fld w 19 5 = x0 ∧ fld w 3 2 = x1 ∧ fld w 0 3 = x2 ∧ nz w 5 4 = false ∧ nz w 9 5 = false ∧ nz w 14 5 = false := by
  subst h
  refine ⟨?_, ?_, ?_, ?_, ?_, ?_, ?_, ?_⟩
  · exact top_ofNat (by decide) (by simp only [place]; omega)
  · exact top_ofNat (by decide) (by simp only [place]; omega)
  · exact fld_ofNat (by decide) (by simp only [place]; omega)
  · exact fld_ofNat (by decide) (by simp only [place]; omega)
  · exact fld_ofNat (by decide) (by simp only [place]; omega)
  · exact nz_ofNat (by decide) (by simp only [place]; omega)
  · exact nz_ofNat (by decide) (by simp only [place]; omega)
  · exact nz_ofNat (by decide) (by simp only [place]; omega)

theorem lay_19_5_0_4 (op : Nat) (x0 : BitVec 5) (x1 : BitVec 4) {w : Word}
    (h : w = BitVec.ofNat 32 (op * 2 ^ 24 + place [(19, x0.toNat), (0, x1.toNat)])) :
    fld w 28 4 = BitVec.ofNat 4 (op / 16) ∧ fld w 24 4 = BitVec.ofNat 4 op ∧ fld w 19 5 = x0 ∧ fld w 0 4 = x1 ∧ nz w 4 5 = false ∧ nz w 9 5 = false ∧ nz w 14 5 = false := by
  subst h
  refine ⟨?_, ?_, ?_, ?_, ?_, ?_, ?_⟩
  · exact top_ofNat (by decide) (by simp only [place]; omega)
  · exact top_ofNat (by decide) (by simp only [place]; omega)
  · exact fld_ofNat (by decide) (by simp only [place]; omega)
  · exact fld_ofNat (by decide) (by simp only [place]; omega)
  · exact nz_ofNat (by decide) (by simp only [place]; omega)
  · exact nz_ofNat (by decide) (by simp only [place]; omega)
  · exact nz_ofNat (by decide) (by simp only [place]; omega)

theorem lay_14_5_0_4 (op : Nat) (x0 : BitVec 5) (x1 : BitVec 4) {w : Word}
    (h : w = BitVec.ofNat 32 (op * 2 ^ 24 + place [(14, x0.toNat), (0, x1.toNat)])) :
    fld w 28 4 = BitVec.ofNat 4 (op / 16) ∧ fld w 24 4 = BitVec.ofNat 4 op ∧ fld w 14 5 = x0 ∧ fld w 0 4 = x1 ∧ nz w 4 5 = false ∧ nz w 9 5 = false ∧ nz w 19 5 = false := by
  subst h
  refine ⟨?_, ?_, ?_, ?_, ?_, ?_, ?_⟩
  · exact top_ofNat (by decide) (by simp only [place]; omega)
  · exact top_ofNat (by decide) (by simp only [place]; omega)
  · exact fld_ofNat (by decide) (by simp only [place]; omega)
  · exact fld_ofNat (by decide) (by simp only [place]; omega)
  · exact nz_ofNat (by decide) (by simp only [place]; omega)
  · exact nz_ofNat (by decide) (by simp only [place]; omega)
  · exact nz_ofNat (by decide) (by simp only [place]; omega)

theorem lay_16_8_11_5 (op : Nat) (x0 : BitVec 8) (x1 : BitVec 5) {w : Word}
    (h : w = BitVec.ofNat 32 (op * 2 ^ 24 + place [(16, x0.toNat), (11, x1.toNat)])) :
    fld w 28 4 = BitVec.ofNat 4 (op / 16) ∧ fld w 24 4 = BitVec.ofNat 4 op ∧ fld w 16 8 = x0 ∧ fld w 11 5 = x1 ∧ nz w 0 11 = false := by
  subst h
  refine ⟨?_, ?_, ?_, ?_, ?_⟩
  · exact top_ofNat (by decide) (by simp only [place]; omega)
  · exact top_ofNat (by decide) (by simp only [place]; omega)
  · exact fld_ofNat (by decide) (by simp only [place]; omega)
  · exact fld_ofNat (by decide) (by simp only [place]; omega)
  · exact nz_ofNat (by decide) (by simp only [place]; omega)

theorem lay_18_6_12_6_8_4_0_8 (op : Nat) (x0 : BitVec 6) (x1 : BitVec 6) (x2 : BitVec 4) (x3 : BitVec 8) {w : Word}
    (h : w = BitVec.ofNat 32 (op * 2 ^ 24 + place [(18, x0.toNat), (12, x1.toNat), (8, x2.toNat), (0, x3.toNat)])) :
    fld w 28 4 = BitVec.ofNat 4 (op / 16) ∧ fld w 24 4 = BitVec.ofNat 4 op ∧ fld w 18 6 = x0 ∧ fld w 12 6 = x1 ∧ fld w 8 4 = x2 ∧ fld w 0 8 = x3 := by
  subst h
  refine ⟨?_, ?_, ?_, ?_, ?_, ?_⟩
  · exact top_ofNat (by decide) (by simp only [place]; omega)
  · exact top_ofNat (by decide) (by simp only [place]; omega)
  · exact fld_ofNat (by decide) (by simp only [place]; omega)
  · exact fld_ofNat (by decide) (by simp only [place]; omega)
  · exact fld_ofNat (by decide) (by simp only [place]; omega)
  · exact fld_ofNat (by decide) (by simp only [place]; omega)

theorem lay_18_6_12_6_8_4_0_3 (op : Nat) (x0 : BitVec 6) (x1 : BitVec 6) (x2 : BitVec 4) (x3 : BitVec 3) {w : Word}
    (h : w = BitVec.ofNat 32 (op * 2 ^ 24 + place [(18, x0.toNat), (12, x1.toNat), (8, x2.toNat), (0, x3.toNat)])) :
    fld w 28 4 = BitVec.ofNat 4 (op / 16) ∧ fld w 24 4 = BitVec.ofNat 4 op ∧ fld w 18 6 = x0 ∧ fld w 12 6 = x1 ∧ fld w 8 4 = x2 ∧ fld w 0 3 = x3 ∧ nz w 3 5 = false := by
  subst h
  refine ⟨?_, ?_, ?_, ?_, ?_, ?_, ?_⟩
  · exact top_ofNat (by decide) (by simp only [place]; omega)
  · exact top_ofNat (by decide) (by simp only [place]; omega)
  · exact fld_ofNat (by decide) (by simp only [place]; omega)
  · exact fld_ofNat (by decide) (by simp only [place]; omega)
  · exact fld_ofNat (by decide) (by simp only [place]; omega)
  · exact fld_ofNat (by decide) (by simp only [place]; omega)
  · exact nz_ofNat (by decide) (by simp only [place]; omega)

theorem lay_19_5_14_5_8_4_0_8 (op : Nat) (x0 : BitVec 5) (x1 : BitVec 5) (x2 : BitVec 4) (x3 : BitVec 8) {w : Word}
    (h : w = BitVec.ofNat 32 (op * 2 ^ 24 + place [(19, x0.toNat), (14, x1.toNat), (8, x2.toNat), (0, x3.toNat)])) :
    fld w 28 4 = BitVec.ofNat 4 (op / 16) ∧ fld w 24 4 = BitVec.ofNat 4 op ∧ fld w 19 5 = x0 ∧ fld w 14 5 = x1 ∧ fld w 8 4 = x2 ∧ fld w 0 8 = x3 ∧ nz w 12 2 = false := by
  subst h
  refine ⟨?_, ?_, ?_, ?_, ?_, ?_, ?_⟩
  · exact top_ofNat (by decide) (by simp only [place]; omega)
  · exact top_ofNat (by decide) (by simp only [place]; omega)
  · exact fld_ofNat (by decide) (by simp only [place]; omega)
  · exact fld_ofNat (by decide) (by simp only [place]; omega)
  · exact fld_ofNat (by decide) (by simp only [place]; omega)
  · exact fld_ofNat (by decide) (by simp only [place]; omega)
  · exact nz_ofNat (by decide) (by simp only [place]; omega)

theorem lay_19_5_14_5_8_4 (op : Nat) (x0 : BitVec 5) (x1 : BitVec 5) (x2 : BitVec 4) {w : Word}
    (h : w = BitVec.ofNat 32 (op * 2 ^ 24 + place [(19, x0.toNat), (14, x1.toNat), (8, x2.toNat)])) :
    fld w 28 4 = BitVec.ofNat 4 (op / 16) ∧ fld w 24 4 = BitVec.ofNat 4 op ∧ fld w 19 5 = x0 ∧ fld w 14 5 = x1 ∧ fld w 8 4 = x2 ∧ nz w 0 8 = false ∧ nz w 12 2 = false := by
  subst h
  refine ⟨?_, ?_, ?_, ?_, ?_, ?_, ?_⟩
  · exact top_ofNat (by decide) (by simp only [place]; omega)
  · exact top_ofNat (by decide) (by simp only [place]; omega)
  · exact fld_ofNat (by decide) (by simp only [place]; omega)
  · exact fld_ofNat (by decide) (by simp only [place]; omega)
  · exact fld_ofNat (by decide) (by simp only [place]; omega)
  · exact nz_ofNat (by decide) (by simp only [place]; omega)
  · exact nz_ofNat (by decide) (by simp only [place]; omega)

theorem lay_19_5_12_2_8_4 (op : Nat) (x0 : BitVec 5) (x1 : BitVec 2) (x2 : BitVec 4) {w : Word}
    (h : w = BitVec.ofNat 32 (op * 2 ^ 24 + place [(19, x0.toNat), (12, x1.toNat), (8, x2.toNat)])) :
    fld w 28 4 = BitVec.ofNat 4 (op / 16) ∧ fld w 24 4 = BitVec.ofNat 4 op ∧ fld w 19 5 = x0 ∧ fld w 12 2 = x1 ∧ fld w 8 4 = x2 ∧ nz w 0 8 = false ∧ nz w 14 5 = false := by
  subst h
  refine ⟨?_, ?_, ?_, ?_, ?_, ?_, ?_⟩
  · exact top_ofNat (by decide) (by simp only [place]; omega)
  · exact top_ofNat (by decide) (by simp only [place]; omega)
  · exact fld_ofNat (by decide) (by simp only [place]; omega)
  · exact fld_ofNat (by decide) (by simp only [place]; omega)
  · exact fld_ofNat (by decide) (by simp only [place]; omega)
  · exact nz_ofNat (by decide) (by simp only [place]; omega)
  · exact nz_ofNat (by decide) (by simp only [place]; omega)

theorem lay_18_6_12_6_8_4_3_5_0_3 (op : Nat) (x0 : BitVec 6) (x1 : BitVec 6) (x2 : BitVec 4) (x3 : BitVec 5) (x4 : BitVec 3) {w : Word}
    (h : w = BitVec.ofNat 32 (op * 2 ^ 24 + place [(18, x0.toNat), (12, x1.toNat), (8, x2.toNat), (3, x3.toNat), (0, x4.toNat)])) :
    fld w 28 4 = BitVec.ofNat 4 (op / 16) ∧ fld w 24 4 = BitVec.ofNat 4 op ∧ fld w 18 6 = x0 ∧ fld w 12 6 = x1 ∧ fld w 8 4 = x2 ∧ fld w 3 5 = x3 ∧ fld w 0 3 = x4 := by
  subst h
  refine ⟨?_, ?_, ?_, ?_, ?_, ?_, ?_⟩
  · exact top_ofNat (by decide) (by simp only [place]; omega)
  · exact top_ofNat (by decide) (by simp only [place]; omega)
  · exact fld_ofNat (by decide) (by simp only [place]; omega)
  · exact fld_ofNat (by decide) (by simp only [place]; omega)
  · exact fld_ofNat (by decide) (by simp only [place]; omega)
  · exact fld_ofNat (by decide) (by simp only [place]; omega)
  · exact fld_ofNat (by decide) (by simp only [place]; omega)

theorem lay_19_5_14_5_12_2_8_4 (op : Nat) (x0 : BitVec 5) (x1 : BitVec 5) (x2 : BitVec 2) (x3 : BitVec 4) {w : Word}
    (h : w = BitVec.ofNat 32 (op * 2 ^ 24 + place [(19, x0.toNat), (14, x1.toNat), (12, x2.toNat), (8, x3.toNat)])) :
    fld w 28 4 = BitVec.ofNat 4 (op / 16) ∧ fld w 24 4 = BitVec.ofNat 4 op ∧ fld w 19 5 = x0 ∧ fld w 14 5 = x1 ∧ fld w 12 2 = x2 ∧ fld w 8 4 = x3 ∧ nz w 0 8 = false := by
  subst h
  refine ⟨?_, ?_, ?_, ?_, ?_, ?_, ?_⟩
  · exact top_ofNat (by decide) (by simp only [place]; omega)
  · exact top_ofNat (by decide) (by simp only [place]; omega)
  · exact fld_ofNat (by decide) (by simp only [place]; omega)
  · exact fld_ofNat (by decide) (by simp only [place]; omega)
  · exact fld_ofNat (by decide) (by simp only [place]; omega)
  · exact fld_ofNat (by decide) (by simp only [place]; omega)
  · exact nz_ofNat (by decide) (by simp only [place]; omega)

theorem lay_19_5_0_8 (op : Nat) (x0 : BitVec 5) (x1 : BitVec 8) {w : Word}
    (h : w = BitVec.ofNat 32 (op * 2 ^ 24 + place [(19, x0.toNat), (0, x1.toNat)])) :
    fld w 28 4 = BitVec.ofNat 4 (op / 16) ∧ fld w 24 4 = BitVec.ofNat 4 op ∧ fld w 19 5 = x0 ∧ fld w 0 8 = x1 ∧ nz w 8 4 = false ∧ nz w 12 2 = false ∧ nz w 14 5 = false := by
  subst h
  refine ⟨?_, ?_, ?_, ?_, ?_, ?_, ?_⟩
  · exact top_ofNat (by decide) (by simp only [place]; omega)
  · exact top_ofNat (by decide) (by simp only [place]; omega)
  · exact fld_ofNat (by decide) (by simp only [place]; omega)
  · exact fld_ofNat (by decide) (by simp only [place]; omega)
  · exact nz_ofNat (by decide) (by simp only [place]; omega)
  · exact nz_ofNat (by decide) (by simp only [place]; omega)
  · exact nz_ofNat (by decide) (by simp only [place]; omega)

theorem lay_19_5_14_5_12_2_8_4_7_b_0_7 (op : Nat) (x0 : BitVec 5) (x1 : BitVec 5) (x2 : BitVec 2) (x3 : BitVec 4) (x4 : Bool) (x5 : BitVec 7) {w : Word}
    (h : w = BitVec.ofNat 32 (op * 2 ^ 24 + place [(19, x0.toNat), (14, x1.toNat), (12, x2.toNat), (8, x3.toNat), (7, x4.toNat), (0, x5.toNat)])) :
    fld w 28 4 = BitVec.ofNat 4 (op / 16) ∧ fld w 24 4 = BitVec.ofNat 4 op ∧ fld w 19 5 = x0 ∧ fld w 14 5 = x1 ∧ fld w 12 2 = x2 ∧ fld w 8 4 = x3 ∧ nz w 7 1 = x4 ∧ fld w 0 7 = x5 := by
  subst h
  have := x4.toNat_lt
  refine ⟨?_, ?_, ?_, ?_, ?_, ?_, ?_, ?_⟩
  · exact top_ofNat (by decide) (by simp only [place]; omega)
  · exact top_ofNat (by decide) (by simp only [place]; omega)
  · exact fld_ofNat (by decide) (by simp only [place]; omega)
  · exact fld_ofNat (by decide) (by simp only [place]; omega)
  · exact fld_ofNat (by decide) (by simp only [place]; omega)
  · exact fld_ofNat (by decide) (by simp only [place]; omega)
  · exact flag_ofNat (by decide) (by simp only [place]; omega)
  · exact fld_ofNat (by decide) (by simp only [place]; omega)

theorem lay_14_5_8_4 (op : Nat) (x0 : BitVec 5) (x1 : BitVec 4) {w : Word}
    (h : w = BitVec.ofNat 32 (op * 2 ^ 24 + place [(14, x0.toNat), (8, x1.toNat)])) :
    fld w 28 4 = BitVec.ofNat 4 (op / 16) ∧ fld w 24 4 = BitVec.ofNat 4 op ∧ fld w 14 5 = x0 ∧ fld w 8 4 = x1 ∧ nz w 0 8 = false ∧ nz w 12 2 = false ∧ nz w 19 5 = false := by
  subst h
  refine ⟨?_, ?_, ?_, ?_, ?_, ?_, ?_⟩
  · exact top_ofNat (by decide) (by simp only [place]; omega)
  · exact top_ofNat (by decide) (by simp only [place]; omega)
  · exact fld_ofNat (by decide) (by simp only [place]; omega)
  · exact fld_ofNat (by decide) (by simp only [place]; omega)
  · exact nz_ofNat (by decide) (by simp only [place]; omega)
  · exact nz_ofNat (by decide) (by simp only [place]; omega)
  · exact nz_ofNat (by decide) (by simp only [place]; omega)

theorem lay_19_5_14_5_8_4_0_6 (op : Nat) (x0 : BitVec 5) (x1 : BitVec 5) (x2 : BitVec 4) (x3 : BitVec 6) {w : Word}
    (h : w = BitVec.ofNat 32 (op * 2 ^ 24 + place [(19, x0.toNat), (14, x1.toNat), (8, x2.toNat), (0, x3.toNat)])) :
    fld w 28 4 = BitVec.ofNat 4 (op / 16) ∧ fld w 24 4 = BitVec.ofNat 4 op ∧ fld w 19 5 = x0 ∧ fld w 14 5 = x1 ∧ fld w 8 4 = x2 ∧ fld w 0 6 = x3 ∧ nz w 6 2 = false ∧ nz w 12 2 = false := by
  subst h
  refine ⟨?_, ?_, ?_, ?_, ?_, ?_, ?_, ?_⟩
  · exact top_ofNat (by decide) (by simp only [place]; omega)
  · exact top_ofNat (by decide) (by simp only [place]; omega)
  · exact fld_ofNat (by decide) (by simp only [place]; omega)
  · exact fld_ofNat (by decide) (by simp only [place]; omega)
  · exact fld_ofNat (by decide) (by simp only [place]; omega)
  · exact fld_ofNat (by decide) (by simp only [place]; omega)
  · exact nz_ofNat (by decide) (by simp only [place]; omega)
  · exact nz_ofNat (by decide) (by simp only [place]; omega)

theorem lay_19_5_14_5_8_4_0_3 (op : Nat) (x0 : BitVec 5) (x1 : BitVec 5) (x2 : BitVec 4) (x3 : BitVec 3) {w : Word}
    (h : w = BitVec.ofNat 32 (op * 2 ^ 24 + place [(19, x0.toNat), (14, x1.toNat), (8, x2.toNat), (0, x3.toNat)])) :
    fld w 28 4 = BitVec.ofNat 4 (op / 16) ∧ fld w 24 4 = BitVec.ofNat 4 op ∧ fld w 19 5 = x0 ∧ fld w 14 5 = x1 ∧ fld w 8 4 = x2 ∧ fld w 0 3 = x3 ∧ nz w 3 5 = false ∧ nz w 12 2 = false := by
  subst h
  refine ⟨?_, ?_, ?_, ?_, ?_, ?_, ?_, ?_⟩
  · exact top_ofNat (by decide) (by simp only [place]; omega)
  · exact top_ofNat (by decide) (by simp only [place]; omega)
  · exact fld_ofNat (by decide) (by simp only [place]; omega)
  · exact fld_ofNat (by decide) (by simp only [place]; omega)
  · exact fld_ofNat (by decide) (by simp only [place]; omega)
  · exact fld_ofNat (by decide) (by simp only [place]; omega)
  · exact nz_ofNat (by decide) (by simp only [place]; omega)
  · exact nz_ofNat (by decide) (by simp only [place]; omega)

theorem lay_19_5_8_4 (op : Nat) (x0 : BitVec 5) (x1 : BitVec 4) {w : Word}
    (h : w = BitVec.ofNat 32 (op * 2 ^ 24 + place [(19, x0.toNat), (8, x1.toNat)])) :
    fld w 28 4 = BitVec.ofNat 4 (op / 16) ∧ fld w 24 4 = BitVec.ofNat 4 op ∧ fld w 19 5 = x0 ∧ fld w 8 4 = x1 ∧ nz w 0 8 = false ∧ nz w 12 2 = false ∧ nz w 14 5 = false := by
  subst h
  refine ⟨?_, ?_, ?_, ?_, ?_, ?_, ?_⟩
  · exact top_ofNat (by decide) (by simp only [place]; omega)
  · exact top_ofNat (by decide) (by simp only [place]; omega)
  · exact fld_ofNat (by decide) (by simp only [place]; omega)
  · exact fld_ofNat (by decide) (by simp only [place]; omega)
  · exact nz_ofNat (by decide) (by simp only [place]; omega)
  · exact nz_ofNat (by decide) (by simp only [place]; omega)
  · exact nz_ofNat (by decide) (by simp only [place]; omega)

theorem lay_14_5_12_2_8_4_0_3 (op : Nat) (x0 : BitVec 5) (x1 : BitVec 2) (x2 : BitVec 4) (x3 : BitVec 3) {w : Word}
    (h : w = BitVec.ofNat 32 (op * 2 ^ 24 + place [(14, x0.toNat), (12, x1.toNat), (8, x2.toNat), (0, x3.toNat)])) :
    fld w 28 4 = BitVec.ofNat 4 (op / 16) ∧ fld w 24 4 = BitVec.ofNat 4 op ∧ fld w 14 5 = x0 ∧ fld w 12 2 = x1 ∧ fld w 8 4 = x2 ∧ fld w 0 3 = x3 ∧ nz w 3 5 = false ∧ nz w 19 5 = false := by
  subst h
  refine ⟨?_, ?_, ?_, ?_, ?_, ?_, ?_, ?_⟩
  · exact top_ofNat (by decide) (by simp only [place]; omega)
  · exact top_ofNat (by decide) (by simp only [place]; omega)
  · exact fld_ofNat (by decide) (by simp only [place]; omega)
  · exact fld_ofNat (by decide) (by simp only [place]; omega)
  · exact fld_ofNat (by decide) (by simp only [place]; omega)
  · exact fld_ofNat (by decide) (by simp only [place]; omega)
  · exact nz_ofNat (by decide) (by simp only [place]; omega)
  · exact nz_ofNat (by decide) (by simp only [place]; omega)

theorem lay_8_4_0_3 (op : Nat) (x0 : BitVec 4) (x1 : BitVec 3) {w : Word}
    (h : w = BitVec.ofNat 32 (op * 2 ^ 24 + place [(8, x0.toNat), (0, x1.toNat)])) :
    fld w 28 4 = BitVec.ofNat 4 (op / 16) ∧ fld w 24 4 = BitVec.ofNat 4 op ∧ fld w 8 4 = x0 ∧ fld w 0 3 = x1 ∧ nz w 3 5 = false ∧ nz w 12 2 = false ∧ nz w 14 5 = false ∧ nz w 19 5 = false := by
  subst h
  refine ⟨?_, ?_, ?_, ?_, ?_, ?_, ?_, ?_⟩
  · exact top_ofNat (by decide) (by simp only [place]; omega)
  · exact top_ofNat (by decide) (by simp only [place]; omega)
  · exact fld_ofNat (by decide) (by simp only [place]; omega)
  · exact fld_ofNat (by decide) (by simp only [place]; omega)
  · exact nz_ofNat (by decide) (by simp only [place]; omega)
  · exact nz_ofNat (by decide) (by simp only [place]; omega)
  · exact nz_ofNat (by decide) (by simp only [place]; omega)
  · exact nz_ofNat (by decide) (by simp only [place]; omega)

theorem lay_18_6_15_3_8_7_4_4_0_4 (op : Nat) (x0 : BitVec 6) (x1 : BitVec 3) (x2 : BitVec 7) (x3 : BitVec 4) (x4 : BitVec 4) {w : Word}
    (h : w = BitVec.ofNat 32 (op * 2 ^ 24 + place [(18, x0.toNat), (15, x1.toNat), (8, x2.toNat), (4, x3.toNat), (0, x4.toNat)])) :
    fld w 28 4 = BitVec.ofNat 4 (op / 16) ∧ fld w 24 4 = BitVec.ofNat 4 op ∧ fld w 18 6 = x0 ∧ fld w 15 3 = x1 ∧ fld w 8 7 = x2 ∧ fld w 4 4 = x3 ∧ fld w 0 4 = x4 := by
  subst h
  refine ⟨?_, ?_, ?_, ?_, ?_, ?_, ?_⟩
  · exact top_ofNat (by decide) (by simp only [place]; omega)
  · exact top_ofNat (by decide) (by simp only [place]; omega)
  · exact fld_ofNat (by decide) (by simp only [place]; omega)
  · exact fld_ofNat (by decide) (by simp only [place]; omega)
  · exact fld_ofNat (by decide) (by simp only [place]; omega)
  · exact fld_ofNat (by decide) (by simp only [place]; omega)
  · exact fld_ofNat (by decide) (by simp only [place]; omega)

theorem lay_18_6_15_3_8_7_4_4 (op : Nat) (x0 : BitVec 6) (x1 : BitVec 3) (x2 : BitVec 7) (x3 : BitVec 4) {w : Word}
    (h : w = BitVec.ofNat 32 (op * 2 ^ 24 + place [(18, x0.toNat), (15, x1.toNat), (8, x2.toNat), (4, x3.toNat)])) :
    fld w 28 4 = BitVec.ofNat 4 (op / 16) ∧ fld w 24 4 = BitVec.ofNat 4 op ∧ fld w 18 6 = x0 ∧ fld w 15 3 = x1 ∧ fld w 8 7 = x2 ∧ fld w 4 4 = x3 ∧ nz w 0 4 = false := by
  subst h
  refine ⟨?_, ?_, ?_, ?_, ?_, ?_, ?_⟩
  · exact top_ofNat (by decide) (by simp only [place]; omega)
  · exact top_ofNat (by decide) (by simp only [place]; omega)
  · exact fld_ofNat (by decide) (by simp only [place]; omega)
  · exact fld_ofNat (by decide) (by simp only [place]; omega)
  · exact fld_ofNat (by decide) (by simp only [place]; omega)
  · exact fld_ofNat (by decide) (by simp only [place]; omega)
  · exact nz_ofNat (by decide) (by simp only [place]; omega)

theorem lay_22_2_18_4_13_5 (op : Nat) (x0 : BitVec 2) (x1 : BitVec 4) (x2 : BitVec 5) {w : Word}
    (h : w = BitVec.ofNat 32 (op * 2 ^ 24 + place [(22, x0.toNat), (18, x1.toNat), (13, x2.toNat)])) :
    fld w 28 4 = BitVec.ofNat 4 (op / 16) ∧ fld w 24 4 = BitVec.ofNat 4 op ∧ fld w 22 2 = x0 ∧ fld w 18 4 = x1 ∧ fld w 13 5 = x2 ∧ nz w 0 13 = false := by
  subst h
  refine ⟨?_, ?_, ?_, ?_, ?_, ?_⟩
  · exact top_ofNat (by decide) (by simp only [place]; omega)
  · exact top_ofNat (by decide) (by simp only [place]; omega)
  · exact fld_ofNat (by decide) (by simp only [place]; omega)
  · exact fld_ofNat (by decide) (by simp only [place]; omega)
  · exact fld_ofNat (by decide) (by simp only [place]; omega)
  · exact nz_ofNat (by decide) (by simp only [place]; omega)

theorem lay_21_3_18_3 (op : Nat) (x0 : BitVec 3) (x1 : BitVec 3) {w : Word}
    (h : w = BitVec.ofNat 32 (op * 2 ^ 24 + place [(21, x0.toNat), (18, x1.toNat)])) :
    fld w 28 4 = BitVec.ofNat 4 (op / 16) ∧ fld w 24 4 = BitVec.ofNat 4 op ∧ fld w 21 3 = x0 ∧ fld w 18 3 = x1 ∧ nz w 0 18 = false := by
  subst h
  refine ⟨?_, ?_, ?_, ?_, ?_⟩
  · exact top_ofNat (by decide) (by simp only [place]; omega)
  · exact top_ofNat (by decide) (by simp only [place]; omega)
  · exact fld_ofNat (by decide) (by simp only [place]; omega)
  · exact fld_ofNat (by decide) (by simp only [place]; omega)
  · exact nz_ofNat (by decide) (by simp only [place]; omega)

theorem lay_18_6_12_6_8_4_6_2_0_6 (op : Nat) (x0 : BitVec 6) (x1 : BitVec 6) (x2 : BitVec 4) (x3 : BitVec 2) (x4 : BitVec 6) {w : Word}
    (h : w = BitVec.ofNat 32 (op * 2 ^ 24 + place [(18, x0.toNat), (12, x1.toNat), (8, x2.toNat), (6, x3.toNat), (0, x4.toNat)])) :
    fld w 28 4 = BitVec.ofNat 4 (op / 16) ∧ fld w 24 4 = BitVec.ofNat 4 op ∧ fld w 18 6 = x0 ∧ fld w 12 6 = x1 ∧ fld w 8 4 = x2 ∧ fld w 6 2 = x3 ∧ fld w 0 6 = x4 := by
  subst h
  refine ⟨?_, ?_, ?_, ?_, ?_, ?_, ?_⟩
  · exact top_ofNat (by decide) (by simp only [place]; omega)
  · exact top_ofNat (by decide) (by simp only [place]; omega)
  · exact fld_ofNat (by decide) (by simp only [place]; omega)
  · exact fld_ofNat (by decide) (by simp only [place]; omega)
  · exact fld_ofNat (by decide) (by simp only [place]; omega)
  · exact fld_ofNat (by decide) (by simp only [place]; omega)
  · exact fld_ofNat (by decide) (by simp only [place]; omega)

theorem lay_12_6_8_4_6_2_0_6 (op : Nat) (x0 : BitVec 6) (x1 : BitVec 4) (x2 : BitVec 2) (x3 : BitVec 6) {w : Word}
    (h : w = BitVec.ofNat 32 (op * 2 ^ 24 + place [(12, x0.toNat), (8, x1.toNat), (6, x2.toNat), (0, x3.toNat)])) :
    fld w 28 4 = BitVec.ofNat 4 (op / 16) ∧ fld w 24 4 = BitVec.ofNat 4 op ∧ fld w 12 6 = x0 ∧ fld w 8 4 = x1 ∧ fld w 6 2 = x2 ∧ fld w 0 6 = x3 ∧ nz w 18 6 = false := by
  subst h
  refine ⟨?_, ?_, ?_, ?_, ?_, ?_, ?_⟩
  · exact top_ofNat (by decide) (by simp only [place]; omega)
  · exact top_ofNat (by decide) (by simp only [place]; omega)
  · exact fld_ofNat (by decide) (by simp only [place]; omega)
  · exact fld_ofNat (by decide) (by simp only [place]; omega)
  · exact fld_ofNat (by decide) (by simp only [place]; omega)
  · exact fld_ofNat (by decide) (by simp only [place]; omega)
  · exact nz_ofNat (by decide) (by simp only [place]; omega)

theorem lay_9_o (op : Nat) (x0 : Operand) {w : Word}
    (h : w = BitVec.ofNat 32 (op * 2 ^ 24 + place [(9, x0.code)])) :
    fld w 28 4 = BitVec.ofNat 4 (op / 16) ∧ fld w 24 4 = BitVec.ofNat 4 op ∧ opnd (fld w 9 9) = x0 ∧ nz w 0 9 = false ∧ nz w 18 6 = false := by
  subst h
  have := x0.code_lt
  refine ⟨?_, ?_, ?_, ?_, ?_⟩
  · exact top_ofNat (by decide) (by simp only [place]; omega)
  · exact top_ofNat (by decide) (by simp only [place]; omega)
  · exact opnd_ofNat (by decide) (by simp only [place]; omega)
  · exact nz_ofNat (by decide) (by simp only [place]; omega)
  · exact nz_ofNat (by decide) (by simp only [place]; omega)

theorem lay_0_7 (op : Nat) (x0 : BitVec 7) {w : Word}
    (h : w = BitVec.ofNat 32 (op * 2 ^ 24 + place [(0, x0.toNat)])) :
    fld w 28 4 = BitVec.ofNat 4 (op / 16) ∧ fld w 24 4 = BitVec.ofNat 4 op ∧ fld w 0 7 = x0 ∧ nz w 7 1 = false ∧ nz w 8 4 = false ∧ nz w 12 2 = false ∧ nz w 14 5 = false ∧ nz w 19 5 = false := by
  subst h
  refine ⟨?_, ?_, ?_, ?_, ?_, ?_, ?_, ?_⟩
  · exact top_ofNat (by decide) (by simp only [place]; omega)
  · exact top_ofNat (by decide) (by simp only [place]; omega)
  · exact fld_ofNat (by decide) (by simp only [place]; omega)
  · exact nz_ofNat (by decide) (by simp only [place]; omega)
  · exact nz_ofNat (by decide) (by simp only [place]; omega)
  · exact nz_ofNat (by decide) (by simp only [place]; omega)
  · exact nz_ofNat (by decide) (by simp only [place]; omega)
  · exact nz_ofNat (by decide) (by simp only [place]; omega)

theorem lay_18_6_9_o_0_3 (op : Nat) (x0 : BitVec 6) (x1 : Operand) (x2 : BitVec 3) {w : Word}
    (h : w = BitVec.ofNat 32 (op * 2 ^ 24 + place [(18, x0.toNat), (9, x1.code), (0, x2.toNat)])) :
    fld w 28 4 = BitVec.ofNat 4 (op / 16) ∧ fld w 24 4 = BitVec.ofNat 4 op ∧ fld w 18 6 = x0 ∧ opnd (fld w 9 9) = x1 ∧ fld w 0 3 = x2 ∧ nz w 3 6 = false := by
  subst h
  have := x1.code_lt
  refine ⟨?_, ?_, ?_, ?_, ?_, ?_⟩
  · exact top_ofNat (by decide) (by simp only [place]; omega)
  · exact top_ofNat (by decide) (by simp only [place]; omega)
  · exact fld_ofNat (by decide) (by simp only [place]; omega)
  · exact opnd_ofNat (by decide) (by simp only [place]; omega)
  · exact fld_ofNat (by decide) (by simp only [place]; omega)
  · exact nz_ofNat (by decide) (by simp only [place]; omega)

/-- The word of a well-formed instruction, if it has one, decodes to it (R40, R45, R49, R50). -/
def Statement (i : Instr) : Prop := i.wf = true → ∀ w, encode i = some w → decode w = .ok i

/-- An operation or event has no word. -/
theorem no_word {i : Instr} (h : encode i = none) : Statement i := by
  intro _ w hw
  rw [h] at hw; cases hw

/-- What a well-formed scope and kind of `fence` say of the decoder's checks. -/
theorem fence_checks {s k : BitVec 3} (h : (scopeOk s && decide (k.toNat < 3)) = true) : scopeOk s = true ∧ ¬ 2 < k.toNat := by
  simp only [Bool.and_eq_true, decide_eq_true_eq] at h
  exact ⟨h.1, by omega⟩

/-- A well-formed barrier is at a level that is not reserved. -/
theorem barrier_checks {v : BitVec 2} {b : BitVec 4} (h : barrierOk v b = true) : barrierOk v b = true ∧ ¬ v = 3#2 :=
  ⟨h, by rintro rfl; revert h; revert b; decide⟩

/-- A well-formed `qop` has no second source where its operation takes none. -/
theorem qop_check {o b : BitVec 3} {w : Word} (h : (decide (o.toNat < 6) || b == 0) = true) (hb : fld w 12 3 = b) :
    (decide (6 ≤ o.toNat) && nz w 12 3) = false := by
  subst hb
  rcases Nat.lt_or_ge o.toNat 6 with ho | ho
  · simp [Nat.not_le.mpr ho]
  · simp only [Nat.not_lt.mpr ho, decide_false, Bool.false_or, beq_iff_eq] at h
    simp [nz, h]

/-- A well-formed argument width is none that is reserved, and takes its register where it has one. -/
theorem width_checks {a : BitVec 2} {g : BitVec 6} {w : Word} (h : widthOk a g = true) (hg : fld w 0 6 = g) :
    ¬ (a = 2#2 ∧ nz w 0 6 = true) ∧ ¬ a = 3#2 := by
  subst hg
  simp only [widthOk, Bool.and_eq_true, Bool.or_eq_true, bne_iff_ne, ne_eq, beq_iff_eq] at h
  refine ⟨?_, h.1⟩
  rintro ⟨rfl, hz⟩
  simp [nz] at hz
  simp [hz] at h

/-- A word of a reserved opcode decodes to itself as an illegal instruction (R43, R68). -/
theorem decode_unassigned {w : Word} (h : unassigned w = true) : decode w = .ok (.illegalInstruction w) := by
  have hop : (w.extractLsb' 24 8).toNat = (fld w 28 4).toNat * 16 + (fld w 24 4).toNat := by
    simp only [fld, BitVec.extractLsb'_toNat, Nat.shiftRight_eq_div_pow]; omega
  have h1 : (fld w 28 4).toNat < 16 := (fld w 28 4).isLt
  have h2 : (fld w 24 4).toNat < 16 := (fld w 24 4).isLt
  unfold unassigned at h
  rw [hop] at h
  unfold decode
  generalize (fld w 28 4).toNat = a at *
  generalize (fld w 24 4).toNat = b at *
  interval_cases a <;> interval_cases b <;> first | rfl | (exfalso; revert h; decide)

theorem nop : Statement .nop := by
  intro _ w h
  have f := lay_none 0x00 (Option.some.inj h).symm
  simp [decode, decode0, reserve, firstBad, f]

theorem exit : Statement .exit := by
  intro _ w h
  have f := lay_none 0x01 (Option.some.inj h).symm
  simp [decode, decode0, reserve, firstBad, f]

theorem bra (o : BitVec 24) : Statement (.bra o) := by
  intro _ w h
  have f := lay_0_24 0x02 o (Option.some.inj h).symm
  simp [decode, decode0, f]

theorem call (l : SReg) (o : BitVec 19) : Statement (.call l o) := by
  intro _ w h
  have f := lay_19_5_0_19 0x03 l o (Option.some.inj h).symm
  simp [decode, decode0, f]

theorem callr (d : SReg) (a : SReg) : Statement (.callr d a) := by
  intro _ w h
  have f := lay_19_5_14_5 0x04 d a (Option.some.inj h).symm
  simp [decode, decode0, reserve, firstBad, f]

theorem jr (a : SReg) : Statement (.jr a) := by
  intro _ w h
  have f := lay_14_5 0x05 a (Option.some.inj h).symm
  simp [decode, decode0, reserve, firstBad, f]

theorem brany (q : QReg) (n : Bool) (o : BitVec 20) : Statement (.brany q n o) := by
  intro _ w h
  have f := lay_21_3_20_b_0_20 0x06 q n o (Option.some.inj h).symm
  simp [decode, decode0, f]

theorem brall (q : QReg) (n : Bool) (o : BitVec 20) : Statement (.brall q n o) := by
  intro _ w h
  have f := lay_21_3_20_b_0_20 0x07 q n o (Option.some.inj h).symm
  simp [decode, decode0, f]

theorem brnone (q : QReg) (n : Bool) (o : BitVec 20) : Statement (.brnone q n o) := by
  intro _ w h
  have f := lay_21_3_20_b_0_20 0x08 q n o (Option.some.inj h).symm
  simp [decode, decode0, f]

theorem bz (s : SReg) (o : BitVec 19) : Statement (.bz s o) := by
  intro _ w h
  have f := lay_19_5_0_19 0x09 s o (Option.some.inj h).symm
  simp [decode, decode0, f]

theorem bnz (s : SReg) (o : BitVec 19) : Statement (.bnz s o) := by
  intro _ w h
  have f := lay_19_5_0_19 0x0A s o (Option.some.inj h).symm
  simp [decode, decode0, f]

theorem emand (q : QReg) (n : Bool) : Statement (.emand q n) := by
  intro _ w h
  have f := lay_18_3_17_b 0x0B q n (Option.some.inj h).symm
  simp [decode, decode0, reserve, firstBad, f]

theorem emelse : Statement .emelse := by
  intro _ w h
  have f := lay_none 0x0C (Option.some.inj h).symm
  simp [decode, decode0, reserve, firstBad, f]

theorem empop : Statement .empop := by
  intro _ w h
  have f := lay_none 0x0D (Option.some.inj h).symm
  simp [decode, decode0, reserve, firstBad, f]

theorem emrd (d : SReg) : Statement (.emrd d) := by
  intro _ w h
  have f := lay_19_5 0x0E d (Option.some.inj h).symm
  simp [decode, decode0, reserve, firstBad, f]

theorem emwr (a : SReg) : Statement (.emwr a) := by
  intro _ w h
  have f := lay_14_5 0x0F a (Option.some.inj h).symm
  simp [decode, decode0, reserve, firstBad, f]

theorem mode (m : BitVec 16) : Statement (.mode m) := by
  intro hwf w h
  have f := lay_0_16 0x10 m (Option.some.inj h).symm
  have ok : modeOk m = true := hwf
  simp [decode, decode1, decodeMode, ok, f]

theorem pmode (p : BitVec 15) : Statement (.pmode p) := by
  intro hwf w h
  have f := lay_0_15 0x11 p (Option.some.inj h).symm
  have ok : permOk p = true := hwf
  simp [decode, decode1, decodePmode, ok, f]

theorem moder (a : SReg) : Statement (.moder a) := by
  intro _ w h
  have f := lay_14_5 0x12 a (Option.some.inj h).symm
  simp [decode, decode1, reserve, firstBad, f]

theorem trap (i : BitVec 16) : Statement (.trap i) := by
  intro _ w h
  have f := lay_0_16 0x13 i (Option.some.inj h).symm
  simp [decode, decode1, reserve, firstBad, f]

theorem brk : Statement .brk := by
  intro _ w h
  have f := lay_none 0x14 (Option.some.inj h).symm
  simp [decode, decode1, reserve, firstBad, f]

theorem tret : Statement .tret := by
  intro _ w h
  have f := lay_none 0x15 (Option.some.inj h).symm
  simp [decode, decode1, reserve, firstBad, f]

theorem xset (k : XReg) (v : VReg) (i : BitVec 14) : Statement (.xset k v i) := by
  intro _ w h
  have f := lay_21_3_14_6_0_14 0x16 k v i (Option.some.inj h).symm
  simp [decode, decode1, reserve, firstBad, f]

theorem xbnd (k : XReg) (l : BitVec 6) (h : BitVec 6) : Statement (.xbnd k l h) := by
  intro _ w hw
  have f := lay_21_3_6_6_0_6 0x17 k l h (Option.some.inj hw).symm
  simp [decode, decode1, reserve, firstBad, f]

theorem xadd (k : XReg) (i : BitVec 14) : Statement (.xadd k i) := by
  intro _ w h
  have f := lay_21_3_0_14 0x18 k i (Option.some.inj h).symm
  simp [decode, decode1, reserve, firstBad, f]

theorem xrd (k : XReg) (d : VReg) : Statement (.xrd k d) := by
  intro _ w h
  have f := lay_21_3_14_6 0x19 k d (Option.some.inj h).symm
  simp [decode, decode1, reserve, firstBad, f]

theorem choose (d : SReg) (a : SReg) : Statement (.choose d a) := by
  intro _ w h
  have f := lay_19_5_14_5 0x1A d a (Option.some.inj h).symm
  simp [decode, decode1, reserve, firstBad, f]

theorem ccall (i : BitVec 16) : Statement (.ccall i) := by
  intro _ w h
  have f := lay_0_16 0x1B i (Option.some.inj h).symm
  simp [decode, decode1, reserve, firstBad, f]

theorem anch : Statement .anch := by
  intro _ w h
  have f := lay_none 0x1C (Option.some.inj h).symm
  simp [decode, decode1, reserve, firstBad, f]

theorem add (d : VReg) (a : Operand) (b : Operand) : Statement (.add d a b) := by
  intro _ w h
  have f := lay_18_6_9_o_0_o 0x20 d a b (Option.some.inj h).symm
  simp [decode, decode2, f]

theorem sub (d : VReg) (a : Operand) (b : Operand) : Statement (.sub d a b) := by
  intro _ w h
  have f := lay_18_6_9_o_0_o 0x21 d a b (Option.some.inj h).symm
  simp [decode, decode2, f]

theorem mul (d : VReg) (a : Operand) (b : Operand) : Statement (.mul d a b) := by
  intro _ w h
  have f := lay_18_6_9_o_0_o 0x22 d a b (Option.some.inj h).symm
  simp [decode, decode2, f]

theorem mulh (d : VReg) (a : Operand) (b : Operand) : Statement (.mulh d a b) := by
  intro _ w h
  have f := lay_18_6_9_o_0_o 0x23 d a b (Option.some.inj h).symm
  simp [decode, decode2, f]

theorem mad (d : VReg) (a : Operand) (b : Operand) : Statement (.mad d a b) := by
  intro _ w h
  have f := lay_18_6_9_o_0_o 0x24 d a b (Option.some.inj h).symm
  simp [decode, decode2, f]

theorem msb (d : VReg) (a : Operand) (b : Operand) : Statement (.msb d a b) := by
  intro _ w h
  have f := lay_18_6_9_o_0_o 0x25 d a b (Option.some.inj h).symm
  simp [decode, decode2, f]

theorem mad2 (d : VReg) (a : Operand) (b : Operand) : Statement (.mad2 d a b) := by
  intro _ w h
  have f := lay_18_6_9_o_0_o 0x26 d a b (Option.some.inj h).symm
  simp [decode, decode2, f]

theorem dot4 (d : VReg) (a : Operand) (b : Operand) : Statement (.dot4 d a b) := by
  intro _ w h
  have f := lay_18_6_9_o_0_o 0x27 d a b (Option.some.inj h).symm
  simp [decode, decode2, f]

theorem abs (d : VReg) (a : Operand) : Statement (.abs d a) := by
  intro _ w h
  have f := lay_18_6_9_o 0x28 d a (Option.some.inj h).symm
  simp [decode, decode2, reserve, firstBad, f]

theorem neg (d : VReg) (a : Operand) : Statement (.neg d a) := by
  intro _ w h
  have f := lay_18_6_9_o 0x29 d a (Option.some.inj h).symm
  simp [decode, decode2, reserve, firstBad, f]

theorem min (d : VReg) (a : Operand) (b : Operand) : Statement (.min d a b) := by
  intro _ w h
  have f := lay_18_6_9_o_0_o 0x2A d a b (Option.some.inj h).symm
  simp [decode, decode2, f]

theorem max (d : VReg) (a : Operand) (b : Operand) : Statement (.max d a b) := by
  intro _ w h
  have f := lay_18_6_9_o_0_o 0x2B d a b (Option.some.inj h).symm
  simp [decode, decode2, f]

theorem avg (d : VReg) (a : Operand) (b : Operand) : Statement (.avg d a b) := by
  intro _ w h
  have f := lay_18_6_9_o_0_o 0x2C d a b (Option.some.inj h).symm
  simp [decode, decode2, f]

theorem rsh (d : VReg) (a : Operand) (b : Operand) : Statement (.rsh d a b) := by
  intro _ w h
  have f := lay_18_6_9_o_0_o 0x2D d a b (Option.some.inj h).symm
  simp [decode, decode2, f]

theorem addi (d : VReg) (a : VReg) (i : BitVec 12) : Statement (.addi d a i) := by
  intro _ w h
  have f := lay_18_6_12_6_0_12 0x2E d a i (Option.some.inj h).symm
  simp [decode, decode2, f]

theorem muli (d : VReg) (a : VReg) (i : BitVec 12) : Statement (.muli d a i) := by
  intro _ w h
  have f := lay_18_6_12_6_0_12 0x2F d a i (Option.some.inj h).symm
  simp [decode, decode2, f]

theorem and (d : VReg) (a : Operand) (b : Operand) : Statement (.and d a b) := by
  intro _ w h
  have f := lay_18_6_9_o_0_o 0x30 d a b (Option.some.inj h).symm
  simp [decode, decode3, f]

theorem or (d : VReg) (a : Operand) (b : Operand) : Statement (.or d a b) := by
  intro _ w h
  have f := lay_18_6_9_o_0_o 0x31 d a b (Option.some.inj h).symm
  simp [decode, decode3, f]

theorem xor (d : VReg) (a : Operand) (b : Operand) : Statement (.xor d a b) := by
  intro _ w h
  have f := lay_18_6_9_o_0_o 0x32 d a b (Option.some.inj h).symm
  simp [decode, decode3, f]

theorem andn (d : VReg) (a : Operand) (b : Operand) : Statement (.andn d a b) := by
  intro _ w h
  have f := lay_18_6_9_o_0_o 0x33 d a b (Option.some.inj h).symm
  simp [decode, decode3, f]

theorem not (d : VReg) (a : Operand) : Statement (.not d a) := by
  intro _ w h
  have f := lay_18_6_9_o 0x34 d a (Option.some.inj h).symm
  simp [decode, decode3, reserve, firstBad, f]

theorem shl (d : VReg) (a : Operand) (b : Operand) : Statement (.shl d a b) := by
  intro _ w h
  have f := lay_18_6_9_o_0_o 0x35 d a b (Option.some.inj h).symm
  simp [decode, decode3, f]

theorem shr (d : VReg) (a : Operand) (b : Operand) : Statement (.shr d a b) := by
  intro _ w h
  have f := lay_18_6_9_o_0_o 0x36 d a b (Option.some.inj h).symm
  simp [decode, decode3, f]

theorem sar (d : VReg) (a : Operand) (b : Operand) : Statement (.sar d a b) := by
  intro _ w h
  have f := lay_18_6_9_o_0_o 0x37 d a b (Option.some.inj h).symm
  simp [decode, decode3, f]

theorem rol (d : VReg) (a : Operand) (b : Operand) : Statement (.rol d a b) := by
  intro _ w h
  have f := lay_18_6_9_o_0_o 0x38 d a b (Option.some.inj h).symm
  simp [decode, decode3, f]

theorem shli (d : VReg) (a : VReg) (c : BitVec 6) : Statement (.shli d a c) := by
  intro _ w h
  have f := lay_18_6_12_6_0_6 0x39 d a c (Option.some.inj h).symm
  simp [decode, decode3, reserve, firstBad, f]

theorem shri (d : VReg) (a : VReg) (c : BitVec 6) : Statement (.shri d a c) := by
  intro _ w h
  have f := lay_18_6_12_6_0_6 0x3A d a c (Option.some.inj h).symm
  simp [decode, decode3, reserve, firstBad, f]

theorem sari (d : VReg) (a : VReg) (c : BitVec 6) : Statement (.sari d a c) := by
  intro _ w h
  have f := lay_18_6_12_6_0_6 0x3B d a c (Option.some.inj h).symm
  simp [decode, decode3, reserve, firstBad, f]

theorem clz (d : VReg) (a : Operand) : Statement (.clz d a) := by
  intro _ w h
  have f := lay_18_6_9_o 0x3C d a (Option.some.inj h).symm
  simp [decode, decode3, reserve, firstBad, f]

theorem popc (d : VReg) (a : Operand) : Statement (.popc d a) := by
  intro _ w h
  have f := lay_18_6_9_o 0x3D d a (Option.some.inj h).symm
  simp [decode, decode3, reserve, firstBad, f]

theorem brev (d : VReg) (a : Operand) : Statement (.brev d a) := by
  intro _ w h
  have f := lay_18_6_9_o 0x3E d a (Option.some.inj h).symm
  simp [decode, decode3, reserve, firstBad, f]

theorem bfx (d : VReg) (a : VReg) (p : BitVec 6) (l : BitVec 6) : Statement (.bfx d a p l) := by
  intro _ w h
  have f := lay_18_6_12_6_6_6_0_6 0x3F d a p l (Option.some.inj h).symm
  simp [decode, decode3, f]

theorem ceq (c : BitVec 3) (q : QReg) (a : Operand) (b : Operand) : Statement (.ceq c q a b) := by
  intro hwf w h
  have f := lay_21_3_18_3_9_o_0_o 0x40 c q a b (Option.some.inj h).symm
  have ok := Nat.not_le.mpr (of_decide_eq_true hwf : c.toNat < 5)
  simp [decode, decode4, reserve, ok, firstBad, f]

theorem cne (c : BitVec 3) (q : QReg) (a : Operand) (b : Operand) : Statement (.cne c q a b) := by
  intro hwf w h
  have f := lay_21_3_18_3_9_o_0_o 0x41 c q a b (Option.some.inj h).symm
  have ok := Nat.not_le.mpr (of_decide_eq_true hwf : c.toNat < 5)
  simp [decode, decode4, reserve, ok, firstBad, f]

theorem clt (c : BitVec 3) (q : QReg) (a : Operand) (b : Operand) : Statement (.clt c q a b) := by
  intro hwf w h
  have f := lay_21_3_18_3_9_o_0_o 0x42 c q a b (Option.some.inj h).symm
  have ok := Nat.not_le.mpr (of_decide_eq_true hwf : c.toNat < 5)
  simp [decode, decode4, reserve, ok, firstBad, f]

theorem cle (c : BitVec 3) (q : QReg) (a : Operand) (b : Operand) : Statement (.cle c q a b) := by
  intro hwf w h
  have f := lay_21_3_18_3_9_o_0_o 0x43 c q a b (Option.some.inj h).symm
  have ok := Nat.not_le.mpr (of_decide_eq_true hwf : c.toNat < 5)
  simp [decode, decode4, reserve, ok, firstBad, f]

theorem cun (c : BitVec 3) (q : QReg) (a : Operand) (b : Operand) : Statement (.cun c q a b) := by
  intro hwf w h
  have f := lay_21_3_18_3_9_o_0_o 0x44 c q a b (Option.some.inj h).symm
  have ok := Nat.not_le.mpr (of_decide_eq_true hwf : c.toNat < 5)
  simp [decode, decode4, reserve, ok, firstBad, f]

theorem ctst (c : BitVec 3) (q : QReg) (a : Operand) (b : Operand) : Statement (.ctst c q a b) := by
  intro hwf w h
  have f := lay_21_3_18_3_9_o_0_o 0x45 c q a b (Option.some.inj h).symm
  have ok := Nat.not_le.mpr (of_decide_eq_true hwf : c.toNat < 5)
  simp [decode, decode4, reserve, ok, firstBad, f]

theorem qop (o : BitVec 3) (d : QReg) (a : QReg) (b : QReg) : Statement (.qop o d a b) := by
  intro hwf w h
  have f := lay_21_3_18_3_15_3_12_3 0x46 o d a b (Option.some.inj h).symm
  have ok := qop_check hwf f.2.2.2.2.2.1
  simp [decode, decode4, reserve, ok, firstBad, f]

theorem qfv (d : QReg) (a : VReg) (b : BitVec 5) : Statement (.qfv d a b) := by
  intro _ w h
  have f := lay_18_3_12_6_0_5 0x47 d a b (Option.some.inj h).symm
  simp [decode, decode4, reserve, firstBad, f]

theorem qfvAll (a : VReg) : Statement (.qfvAll a) := by
  intro _ w h
  have f := lay_12_6_x800 0x47 a (Option.some.inj h).symm
  simp [decode, decode4, reserve, firstBad, f]

theorem qtv (d : VReg) : Statement (.qtv d) := by
  intro _ w h
  have f := lay_18_6 0x48 d (Option.some.inj h).symm
  simp [decode, decode4, reserve, firstBad, f]

theorem mov (d : VReg) (a : Operand) : Statement (.mov d a) := by
  intro _ w h
  have f := lay_18_6_9_o 0x49 d a (Option.some.inj h).symm
  simp [decode, decode4, reserve, firstBad, f]

theorem movi (d : VReg) (i : BitVec 18) : Statement (.movi d i) := by
  intro _ w h
  have f := lay_18_6_0_18 0x4A d i (Option.some.inj h).symm
  simp [decode, decode4, f]

theorem movhi (d : VReg) (i : BitVec 18) : Statement (.movhi d i) := by
  intro _ w h
  have f := lay_18_6_0_18 0x4B d i (Option.some.inj h).symm
  simp [decode, decode4, f]

theorem sel (d : VReg) (a : Operand) (b : Operand) : Statement (.sel d a b) := by
  intro _ w h
  have f := lay_18_6_9_o_0_o 0x4C d a b (Option.some.inj h).symm
  simp [decode, decode4, f]

theorem shfl (d : VReg) (a : Operand) (b : Operand) : Statement (.shfl d a b) := by
  intro _ w h
  have f := lay_18_6_9_o_0_o 0x4D d a b (Option.some.inj h).symm
  simp [decode, decode4, f]

theorem hslide (d : VReg) (a : Operand) (r : Bool) : Statement (.hslide d a r) := by
  intro _ w h
  have f := lay_18_6_9_o_8_b 0x4E d a r (Option.some.inj h).symm
  simp [decode, decode4, reserve, firstBad, f]

theorem vfill (d : VReg) (a : SReg) : Statement (.vfill d a) := by
  intro _ w h
  have f := lay_18_6_13_5 0x4F d a (Option.some.inj h).symm
  simp [decode, decode4, reserve, firstBad, f]

theorem fadd (d : VReg) (a : Operand) (b : Operand) : Statement (.fadd d a b) := by
  intro _ w h
  have f := lay_18_6_9_o_0_o 0x50 d a b (Option.some.inj h).symm
  simp [decode, decode5, f]

theorem fsub (d : VReg) (a : Operand) (b : Operand) : Statement (.fsub d a b) := by
  intro _ w h
  have f := lay_18_6_9_o_0_o 0x51 d a b (Option.some.inj h).symm
  simp [decode, decode5, f]

theorem fmul (d : VReg) (a : Operand) (b : Operand) : Statement (.fmul d a b) := by
  intro _ w h
  have f := lay_18_6_9_o_0_o 0x52 d a b (Option.some.inj h).symm
  simp [decode, decode5, f]

theorem fma (d : VReg) (a : Operand) (b : Operand) : Statement (.fma d a b) := by
  intro _ w h
  have f := lay_18_6_9_o_0_o 0x53 d a b (Option.some.inj h).symm
  simp [decode, decode5, f]

theorem fms (d : VReg) (a : Operand) (b : Operand) : Statement (.fms d a b) := by
  intro _ w h
  have f := lay_18_6_9_o_0_o 0x54 d a b (Option.some.inj h).symm
  simp [decode, decode5, f]

theorem fmin (d : VReg) (a : Operand) (b : Operand) : Statement (.fmin d a b) := by
  intro _ w h
  have f := lay_18_6_9_o_0_o 0x55 d a b (Option.some.inj h).symm
  simp [decode, decode5, f]

theorem fmax (d : VReg) (a : Operand) (b : Operand) : Statement (.fmax d a b) := by
  intro _ w h
  have f := lay_18_6_9_o_0_o 0x56 d a b (Option.some.inj h).symm
  simp [decode, decode5, f]

theorem fdiv (d : VReg) (a : Operand) (b : Operand) : Statement (.fdiv d a b) := by
  intro _ w h
  have f := lay_18_6_9_o_0_o 0x57 d a b (Option.some.inj h).symm
  simp [decode, decode5, f]

theorem fsqrt (d : VReg) (a : Operand) : Statement (.fsqrt d a) := by
  intro _ w h
  have f := lay_18_6_9_o 0x58 d a (Option.some.inj h).symm
  simp [decode, decode5, reserve, firstBad, f]

theorem frcp (d : VReg) (a : Operand) : Statement (.frcp d a) := by
  intro _ w h
  have f := lay_18_6_9_o 0x59 d a (Option.some.inj h).symm
  simp [decode, decode5, reserve, firstBad, f]

theorem frsq (d : VReg) (a : Operand) : Statement (.frsq d a) := by
  intro _ w h
  have f := lay_18_6_9_o 0x5A d a (Option.some.inj h).symm
  simp [decode, decode5, reserve, firstBad, f]

theorem fexp2 (d : VReg) (a : Operand) : Statement (.fexp2 d a) := by
  intro _ w h
  have f := lay_18_6_9_o 0x5B d a (Option.some.inj h).symm
  simp [decode, decode5, reserve, firstBad, f]

theorem flog2 (d : VReg) (a : Operand) : Statement (.flog2 d a) := by
  intro _ w h
  have f := lay_18_6_9_o 0x5C d a (Option.some.inj h).symm
  simp [decode, decode5, reserve, firstBad, f]

theorem fsinpi (d : VReg) (a : Operand) : Statement (.fsinpi d a) := by
  intro _ w h
  have f := lay_18_6_9_o 0x5D d a (Option.some.inj h).symm
  simp [decode, decode5, reserve, firstBad, f]

theorem fcospi (d : VReg) (a : Operand) : Statement (.fcospi d a) := by
  intro _ w h
  have f := lay_18_6_9_o 0x5E d a (Option.some.inj h).symm
  simp [decode, decode5, reserve, firstBad, f]

theorem frint (d : VReg) (a : Operand) : Statement (.frint d a) := by
  intro _ w h
  have f := lay_18_6_9_o 0x5F d a (Option.some.inj h).symm
  simp [decode, decode5, reserve, firstBad, f]

theorem fclass (c : BitVec 3) (q : QReg) (a : Operand) (m : BitVec 9) : Statement (.fclass c q a m) := by
  intro hwf w h
  have f := lay_21_3_18_3_9_o_0_9 0x60 c q a m (Option.some.inj h).symm
  have ok := Nat.not_le.mpr (of_decide_eq_true hwf : c.toNat < 5)
  simp [decode, decode6, reserve, ok, firstBad, f]

theorem cvt (d : VReg) (a : Operand) (t : BitVec 5) : Statement (.cvt d a t) := by
  intro hwf w h
  have f := lay_18_6_9_o_4_5 0x61 d a t (Option.some.inj h).symm
  have ok := Nat.not_le.mpr (of_decide_eq_true hwf : t.toNat < 14)
  simp [decode, decode6, reserve, ok, firstBad, f]

theorem fscale (d : VReg) (a : Operand) (b : Operand) : Statement (.fscale d a b) := by
  intro _ w h
  have f := lay_18_6_9_o_0_o 0x62 d a b (Option.some.inj h).symm
  simp [decode, decode6, f]

theorem fgetexp (d : VReg) (a : Operand) : Statement (.fgetexp d a) := by
  intro _ w h
  have f := lay_18_6_9_o 0x63 d a (Option.some.inj h).symm
  simp [decode, decode6, reserve, firstBad, f]

theorem fnanc (d : VReg) (a : Operand) : Statement (.fnanc d a) := by
  intro _ w h
  have f := lay_18_6_9_o 0x64 d a (Option.some.inj h).symm
  simp [decode, decode6, reserve, firstBad, f]

theorem fdot2 (d : VReg) (a : Operand) (b : Operand) : Statement (.fdot2 d a b) := by
  intro _ w h
  have f := lay_18_6_9_o_0_o 0x65 d a b (Option.some.inj h).symm
  simp [decode, decode6, f]

theorem sadd (d : SReg) (a : SReg) (b : SReg) : Statement (.sadd d a b) := by
  intro _ w h
  have f := lay_19_5_14_5_9_5 0x68 d a b (Option.some.inj h).symm
  simp [decode, decode6, reserve, firstBad, f]

theorem ssub (d : SReg) (a : SReg) (b : SReg) : Statement (.ssub d a b) := by
  intro _ w h
  have f := lay_19_5_14_5_9_5 0x69 d a b (Option.some.inj h).symm
  simp [decode, decode6, reserve, firstBad, f]

theorem smul (d : SReg) (a : SReg) (b : SReg) : Statement (.smul d a b) := by
  intro _ w h
  have f := lay_19_5_14_5_9_5 0x6A d a b (Option.some.inj h).symm
  simp [decode, decode6, reserve, firstBad, f]

theorem saddi (d : SReg) (a : SReg) (i : BitVec 14) : Statement (.saddi d a i) := by
  intro _ w h
  have f := lay_19_5_14_5_0_14 0x6B d a i (Option.some.inj h).symm
  simp [decode, decode6, f]

theorem sand (d : SReg) (a : SReg) (b : SReg) : Statement (.sand d a b) := by
  intro _ w h
  have f := lay_19_5_14_5_9_5 0x6C d a b (Option.some.inj h).symm
  simp [decode, decode6, reserve, firstBad, f]

theorem sor (d : SReg) (a : SReg) (b : SReg) : Statement (.sor d a b) := by
  intro _ w h
  have f := lay_19_5_14_5_9_5 0x6D d a b (Option.some.inj h).symm
  simp [decode, decode6, reserve, firstBad, f]

theorem sxor (d : SReg) (a : SReg) (b : SReg) : Statement (.sxor d a b) := by
  intro _ w h
  have f := lay_19_5_14_5_9_5 0x6E d a b (Option.some.inj h).symm
  simp [decode, decode6, reserve, firstBad, f]

theorem sshlReg (d : SReg) (a : SReg) (b : SReg) : Statement (.sshlReg d a b) := by
  intro _ w h
  have f := lay_19_5_14_5_9_5 0x6F d a b (Option.some.inj h).symm
  simp [decode, decode6, reserve, firstBad, f]

theorem sshlImm (d : SReg) (a : SReg) (c : BitVec 6) : Statement (.sshlImm d a c) := by
  intro _ w h
  have f := lay_19_5_14_5_0_6_x100 0x6F d a c (Option.some.inj h).symm
  simp [decode, decode6, reserve, firstBad, f]

theorem sshrReg (d : SReg) (a : SReg) (b : SReg) : Statement (.sshrReg d a b) := by
  intro _ w h
  have f := lay_19_5_14_5_9_5 0x70 d a b (Option.some.inj h).symm
  simp [decode, decode7, reserve, firstBad, f]

theorem sshrImm (d : SReg) (a : SReg) (c : BitVec 6) : Statement (.sshrImm d a c) := by
  intro _ w h
  have f := lay_19_5_14_5_0_6_x100 0x70 d a c (Option.some.inj h).symm
  simp [decode, decode7, reserve, firstBad, f]

theorem ssarReg (d : SReg) (a : SReg) (b : SReg) : Statement (.ssarReg d a b) := by
  intro _ w h
  have f := lay_19_5_14_5_9_5 0x71 d a b (Option.some.inj h).symm
  simp [decode, decode7, reserve, firstBad, f]

theorem ssarImm (d : SReg) (a : SReg) (c : BitVec 6) : Statement (.ssarImm d a c) := by
  intro _ w h
  have f := lay_19_5_14_5_0_6_x100 0x71 d a c (Option.some.inj h).symm
  simp [decode, decode7, reserve, firstBad, f]

theorem smovi (d : SReg) (i : BitVec 19) : Statement (.smovi d i) := by
  intro _ w h
  have f := lay_19_5_0_19 0x72 d i (Option.some.inj h).symm
  simp [decode, decode7, f]

theorem smovs (d : SReg) (i : BitVec 19) : Statement (.smovs d i) := by
  intro _ w h
  have f := lay_19_5_0_19 0x73 d i (Option.some.inj h).symm
  simp [decode, decode7, f]

theorem sceq (d : SReg) (a : SReg) (b : SReg) : Statement (.sceq d a b) := by
  intro _ w h
  have f := lay_19_5_14_5_9_5 0x74 d a b (Option.some.inj h).symm
  simp [decode, decode7, reserve, firstBad, f]

theorem sclt (d : SReg) (a : SReg) (b : SReg) : Statement (.sclt d a b) := by
  intro _ w h
  have f := lay_19_5_14_5_9_5 0x75 d a b (Option.some.inj h).symm
  simp [decode, decode7, reserve, firstBad, f]

theorem scltn (d : SReg) (a : SReg) (b : SReg) : Statement (.scltn d a b) := by
  intro _ w h
  have f := lay_19_5_14_5_9_5 0x76 d a b (Option.some.inj h).symm
  simp [decode, decode7, reserve, firstBad, f]

theorem vred (d : SReg) (o : BitVec 3) (m : VReg) : Statement (.vred d o m) := by
  intro _ w h
  have f := lay_19_5_6_3_0_6 0x77 d o m (Option.some.inj h).symm
  simp [decode, decode7, reserve, firstBad, f]

theorem vlane (d : SReg) (a : SReg) (p : Bool) (m : VReg) : Statement (.vlane d a p m) := by
  intro _ w h
  have f := lay_19_5_14_5_6_b_0_6 0x78 d a p m (Option.some.inj h).symm
  simp [decode, decode7, reserve, firstBad, f]

theorem vins (a : SReg) (b : SReg) (p : Bool) (m : VReg) : Statement (.vins a b p m) := by
  intro _ w h
  have f := lay_14_5_9_5_6_b_0_6 0x79 a b p m (Option.some.inj h).symm
  simp [decode, decode7, reserve, firstBad, f]

theorem vote (d : SReg) (k : BitVec 2) (p : QReg) : Statement (.vote d k p) := by
  intro _ w h
  have f := lay_19_5_3_2_0_3 0x7A d k p (Option.some.inj h).symm
  simp [decode, decode7, reserve, firstBad, f]

theorem krd (d : SReg) (n : BitVec 4) : Statement (.krd d n) := by
  intro _ w h
  have f := lay_19_5_0_4 0x7B d n (Option.some.inj h).symm
  simp [decode, decode7, reserve, firstBad, f]

theorem kwr (a : SReg) (n : BitVec 4) : Statement (.kwr a n) := by
  intro _ w h
  have f := lay_14_5_0_4 0x7C a n (Option.some.inj h).symm
  simp [decode, decode7, reserve, firstBad, f]

theorem sysrd (n : BitVec 8) (s : SReg) : Statement (.sysrd n s) := by
  intro _ w h
  have f := lay_16_8_11_5 0x7D n s (Option.some.inj h).symm
  simp [decode, decode7, reserve, firstBad, f]

theorem syswr (n : BitVec 8) (s : SReg) : Statement (.syswr n s) := by
  intro _ w h
  have f := lay_16_8_11_5 0x7E n s (Option.some.inj h).symm
  simp [decode, decode7, reserve, firstBad, f]

theorem ldw (d : VReg) (a : VReg) (l : La) (o : BitVec 8) : Statement (.ldw d a l o) := by
  intro _ w h
  have f := lay_18_6_12_6_8_4_0_8 0x80 d a l o (Option.some.inj h).symm
  simp [decode, decode8, f]

theorem ldd (d : VReg) (a : VReg) (l : La) (o : BitVec 8) : Statement (.ldd d a l o) := by
  intro _ w h
  have f := lay_18_6_12_6_8_4_0_8 0x81 d a l o (Option.some.inj h).symm
  simp [decode, decode8, f]

theorem ldq (d : VReg) (a : VReg) (l : La) (o : BitVec 8) : Statement (.ldq d a l o) := by
  intro _ w h
  have f := lay_18_6_12_6_8_4_0_8 0x82 d a l o (Option.some.inj h).symm
  simp [decode, decode8, f]

theorem ldh (d : VReg) (a : VReg) (l : La) (o : BitVec 8) : Statement (.ldh d a l o) := by
  intro _ w h
  have f := lay_18_6_12_6_8_4_0_8 0x83 d a l o (Option.some.inj h).symm
  simp [decode, decode8, f]

theorem ldb (d : VReg) (a : VReg) (l : La) (o : BitVec 8) : Statement (.ldb d a l o) := by
  intro _ w h
  have f := lay_18_6_12_6_8_4_0_8 0x84 d a l o (Option.some.inj h).symm
  simp [decode, decode8, f]

theorem stw (d : VReg) (a : VReg) (l : La) (o : BitVec 8) : Statement (.stw d a l o) := by
  intro _ w h
  have f := lay_18_6_12_6_8_4_0_8 0x85 d a l o (Option.some.inj h).symm
  simp [decode, decode8, f]

theorem std (d : VReg) (a : VReg) (l : La) (o : BitVec 8) : Statement (.std d a l o) := by
  intro _ w h
  have f := lay_18_6_12_6_8_4_0_8 0x86 d a l o (Option.some.inj h).symm
  simp [decode, decode8, f]

theorem stq (d : VReg) (a : VReg) (l : La) (o : BitVec 8) : Statement (.stq d a l o) := by
  intro _ w h
  have f := lay_18_6_12_6_8_4_0_8 0x87 d a l o (Option.some.inj h).symm
  simp [decode, decode8, f]

theorem sth (d : VReg) (a : VReg) (l : La) (o : BitVec 8) : Statement (.sth d a l o) := by
  intro _ w h
  have f := lay_18_6_12_6_8_4_0_8 0x88 d a l o (Option.some.inj h).symm
  simp [decode, decode8, f]

theorem stb (d : VReg) (a : VReg) (l : La) (o : BitVec 8) : Statement (.stb d a l o) := by
  intro _ w h
  have f := lay_18_6_12_6_8_4_0_8 0x89 d a l o (Option.some.inj h).symm
  simp [decode, decode8, f]

theorem ldacq (d : VReg) (a : VReg) (l : La) (s : BitVec 3) : Statement (.ldacq d a l s) := by
  intro hwf w h
  have f := lay_18_6_12_6_8_4_0_3 0x8A d a l s (Option.some.inj h).symm
  have ok : scopeOk s = true := hwf
  simp [decode, decode8, reserve, badScope, ok, firstBad, f]

theorem strel (d : VReg) (a : VReg) (l : La) (s : BitVec 3) : Statement (.strel d a l s) := by
  intro hwf w h
  have f := lay_18_6_12_6_8_4_0_3 0x8B d a l s (Option.some.inj h).symm
  have ok : scopeOk s = true := hwf
  simp [decode, decode8, reserve, badScope, ok, firstBad, f]

theorem sld (d : SReg) (a : SReg) (l : La) (o : BitVec 8) : Statement (.sld d a l o) := by
  intro _ w h
  have f := lay_19_5_14_5_8_4_0_8 0x8C d a l o (Option.some.inj h).symm
  simp [decode, decode8, reserve, firstBad, f]

theorem sst (d : SReg) (a : SReg) (l : La) (o : BitVec 8) : Statement (.sst d a l o) := by
  intro _ w h
  have f := lay_19_5_14_5_8_4_0_8 0x8D d a l o (Option.some.inj h).symm
  simp [decode, decode8, reserve, firstBad, f]

theorem lds (d : VReg) (a : VReg) (l : La) (o : BitVec 8) : Statement (.lds d a l o) := by
  intro _ w h
  have f := lay_18_6_12_6_8_4_0_8 0x8E d a l o (Option.some.inj h).symm
  simp [decode, decode8, f]

theorem sts (d : VReg) (a : VReg) (l : La) (o : BitVec 8) : Statement (.sts d a l o) := by
  intro _ w h
  have f := lay_18_6_12_6_8_4_0_8 0x8F d a l o (Option.some.inj h).symm
  simp [decode, decode8, f]

theorem ldsq (d : VReg) (a : VReg) (l : La) (o : BitVec 8) : Statement (.ldsq d a l o) := by
  intro _ w h
  have f := lay_18_6_12_6_8_4_0_8 0x90 d a l o (Option.some.inj h).symm
  simp [decode, decode9, f]

theorem stsq (d : VReg) (a : VReg) (l : La) (o : BitVec 8) : Statement (.stsq d a l o) := by
  intro _ w h
  have f := lay_18_6_12_6_8_4_0_8 0x91 d a l o (Option.some.inj h).symm
  simp [decode, decode9, f]

theorem slk (x : SReg) (y : SReg) (l : La) : Statement (.slk x y l) := by
  intro _ w h
  have f := lay_19_5_14_5_8_4 0x92 x y l (Option.some.inj h).symm
  simp [decode, decode9, reserve, firstBad, f]

theorem sfill (x : SReg) (y : SReg) (l : La) : Statement (.sfill x y l) := by
  intro _ w h
  have f := lay_19_5_14_5_8_4 0x93 x y l (Option.some.inj h).symm
  simp [decode, decode9, reserve, firstBad, f]

theorem sevict (x : SReg) (f : BitVec 2) (l : La) : Statement (.sevict x f l) := by
  intro _ w h
  have f := lay_19_5_12_2_8_4 0x94 x f l (Option.some.inj h).symm
  simp [decode, decode9, reserve, firstBad, f]

theorem cpy (d : VReg) (a : VReg) (l : La) (s : SReg) (z : BitVec 3) : Statement (.cpy d a l s z) := by
  intro hwf w h
  have f := lay_18_6_12_6_8_4_3_5_0_3 0x95 d a l s z (Option.some.inj h).symm
  have ok := Nat.not_lt.mpr (Nat.le_of_lt_succ (of_decide_eq_true hwf : z.toNat < 3))
  simp [decode, decode9, reserve, ok, firstBad, f]

theorem cpyo (d : VReg) (a : VReg) (l : La) (z : BitVec 3) : Statement (.cpyo d a l z) := by
  intro hwf w h
  have f := lay_18_6_12_6_8_4_0_3 0x96 d a l z (Option.some.inj h).symm
  have ok := Nat.not_lt.mpr (Nat.le_of_lt_succ (of_decide_eq_true hwf : z.toNat < 3))
  simp [decode, decode9, reserve, ok, firstBad, f]

theorem cpyt (x : SReg) (y : SReg) (f : BitVec 2) (l : La) : Statement (.cpyt x y f l) := by
  intro _ w h
  have f := lay_19_5_14_5_12_2_8_4 0x97 x y f l (Option.some.inj h).symm
  simp [decode, decode9, reserve, firstBad, f]

theorem cpyv (x : SReg) (y : SReg) (l : La) : Statement (.cpyv x y l) := by
  intro _ w h
  have f := lay_19_5_14_5_8_4 0x98 x y l (Option.some.inj h).symm
  simp [decode, decode9, reserve, firstBad, f]

theorem tbinit (x : SReg) (y : SReg) (l : La) : Statement (.tbinit x y l) := by
  intro _ w h
  have f := lay_19_5_14_5_8_4 0x99 x y l (Option.some.inj h).symm
  simp [decode, decode9, reserve, firstBad, f]

theorem tbarr (x : SReg) (y : SReg) (l : La) : Statement (.tbarr x y l) := by
  intro _ w h
  have f := lay_19_5_14_5_8_4 0x9A x y l (Option.some.inj h).symm
  simp [decode, decode9, reserve, firstBad, f]

theorem tbwait (x : SReg) (y : SReg) : Statement (.tbwait x y) := by
  intro _ w h
  have f := lay_19_5_14_5 0x9B x y (Option.some.inj h).symm
  simp [decode, decode9, waitLa, firstBad, f]

theorem wcnt (p : BitVec 5) (t : BitVec 8) : Statement (.wcnt p t) := by
  intro hwf w h
  have f := lay_19_5_0_8 0x9C p t (Option.some.inj h).symm
  have ok := Nat.not_le.mpr (of_decide_eq_true hwf : p.toNat < 8)
  simp [decode, decode9, waitLa, ok, firstBad, f]

theorem ckopen (x : SReg) (y : SReg) (f : BitVec 2) (l : La) (g : Bool) (c : BitVec 7) : Statement (.ckopen x y f l g c) := by
  intro _ w h
  have f := lay_19_5_14_5_12_2_8_4_7_b_0_7 0x9D x y f l g c (Option.some.inj h).symm
  simp [decode, decode9, f]

theorem ckseal (x : SReg) (y : SReg) (l : La) : Statement (.ckseal x y l) := by
  intro _ w h
  have f := lay_19_5_14_5_8_4 0x9E x y l (Option.some.inj h).symm
  simp [decode, decode9, reserve, firstBad, f]

theorem ckdrop (y : SReg) (l : La) : Statement (.ckdrop y l) := by
  intro _ w h
  have f := lay_14_5_8_4 0x9F y l (Option.some.inj h).symm
  simp [decode, decode9, reserve, firstBad, f]

theorem obres (x : SReg) (y : SReg) (l : La) : Statement (.obres x y l) := by
  intro _ w h
  have f := lay_19_5_14_5_8_4 0xA0 x y l (Option.some.inj h).symm
  simp [decode, decodeA, reserve, firstBad, f]

theorem obrel (y : SReg) (l : La) : Statement (.obrel y l) := by
  intro _ w h
  have f := lay_14_5_8_4 0xA1 y l (Option.some.inj h).symm
  simp [decode, decodeA, reserve, firstBad, f]

theorem obld (x : SReg) (y : SReg) (l : La) : Statement (.obld x y l) := by
  intro _ w h
  have f := lay_19_5_14_5_8_4 0xA2 x y l (Option.some.inj h).symm
  simp [decode, decodeA, reserve, firstBad, f]

theorem gath (x : SReg) (y : SReg) (l : La) (p : VReg) : Statement (.gath x y l p) := by
  intro _ w h
  have f := lay_19_5_14_5_8_4_0_6 0xA3 x y l p (Option.some.inj h).symm
  simp [decode, decodeA, reserve, firstBad, f]

theorem mrdy : Statement .mrdy := by
  intro _ w h
  have f := lay_none 0xA4 (Option.some.inj h).symm
  simp [decode, decodeA, reserve, firstBad, f]

theorem mstep (x : SReg) (y : SReg) (l : La) (t : BitVec 3) : Statement (.mstep x y l t) := by
  intro _ w h
  have f := lay_19_5_14_5_8_4_0_3 0xA5 x y l t (Option.some.inj h).symm
  simp [decode, decodeA, reserve, firstBad, f]

theorem mloop (x : SReg) (y : SReg) (l : La) (t : BitVec 3) : Statement (.mloop x y l t) := by
  intro _ w h
  have f := lay_19_5_14_5_8_4_0_3 0xA6 x y l t (Option.some.inj h).symm
  simp [decode, decodeA, reserve, firstBad, f]

theorem mfence (x : SReg) (l : La) : Statement (.mfence x l) := by
  intro _ w h
  have f := lay_19_5_8_4 0xA7 x l (Option.some.inj h).symm
  simp [decode, decodeA, reserve, firstBad, f]

theorem mwait (x : SReg) : Statement (.mwait x) := by
  intro _ w h
  have f := lay_19_5 0xA8 x (Option.some.inj h).symm
  simp [decode, decodeA, reserve, firstBad, f]

theorem acfg (y : SReg) (f : BitVec 2) (l : La) (t : BitVec 3) : Statement (.acfg y f l t) := by
  intro _ w h
  have f := lay_14_5_12_2_8_4_0_3 0xA9 y f l t (Option.some.inj h).symm
  simp [decode, decodeA, reserve, firstBad, f]

theorem arel (l : La) (t : BitVec 3) : Statement (.arel l t) := by
  intro _ w h
  have f := lay_8_4_0_3 0xAA l t (Option.some.inj h).symm
  simp [decode, decodeA, reserve, firstBad, f]

theorem azero (l : La) (t : BitVec 3) : Statement (.azero l t) := by
  intro _ w h
  have f := lay_8_4_0_3 0xAB l t (Option.some.inj h).symm
  simp [decode, decodeA, reserve, firstBad, f]

theorem ard (v : VReg) (t : BitVec 3) (r : BitVec 7) (l : La) (p : BitVec 4) : Statement (.ard v t r l p) := by
  intro _ w h
  have f := lay_18_6_15_3_8_7_4_4_0_4 0xAC v t r l p (Option.some.inj h).symm
  simp [decode, decodeA, f]

theorem awr (v : VReg) (t : BitVec 3) (r : BitVec 7) (l : La) (p : BitVec 4) : Statement (.awr v t r l p) := by
  intro _ w h
  have f := lay_18_6_15_3_8_7_4_4_0_4 0xAD v t r l p (Option.some.inj h).symm
  simp [decode, decodeA, f]

theorem asave (x : SReg) (y : SReg) (l : La) (t : BitVec 3) : Statement (.asave x y l t) := by
  intro _ w h
  have f := lay_19_5_14_5_8_4_0_3 0xAE x y l t (Option.some.inj h).symm
  simp [decode, decodeA, reserve, firstBad, f]

theorem aload (x : SReg) (y : SReg) (l : La) (t : BitVec 3) : Statement (.aload x y l t) := by
  intro _ w h
  have f := lay_19_5_14_5_8_4_0_3 0xAF x y l t (Option.some.inj h).symm
  simp [decode, decodeA, reserve, firstBad, f]

theorem nanc (d : SReg) (a : SReg) : Statement (.nanc d a) := by
  intro _ w h
  have f := lay_19_5_14_5 0xB0 d a (Option.some.inj h).symm
  simp [decode, decodeB, reserve, firstBad, f]

theorem srseed (a : SReg) : Statement (.srseed a) := by
  intro _ w h
  have f := lay_14_5 0xB1 a (Option.some.inj h).symm
  simp [decode, decodeB, reserve, firstBad, f]

theorem ascal (v : VReg) (t : BitVec 3) (r : BitVec 7) (l : La) : Statement (.ascal v t r l) := by
  intro _ w h
  have f := lay_18_6_15_3_8_7_4_4 0xB2 v t r l (Option.some.inj h).symm
  simp [decode, decodeB, reserve, firstBad, f]

theorem arv (v : BitVec 2) (b : BitVec 4) (s : SReg) : Statement (.arv v b s) := by
  intro hwf w h
  have f := lay_22_2_18_4_13_5 0xC0 v b s (Option.some.inj h).symm
  obtain ⟨ok, ok'⟩ := barrier_checks hwf
  simp [decode, decodeC, reserve, badBarrier, ok, ok', firstBad, f]

theorem arva (v : BitVec 2) (b : BitVec 4) (s : SReg) : Statement (.arva v b s) := by
  intro hwf w h
  have f := lay_22_2_18_4_13_5 0xC1 v b s (Option.some.inj h).symm
  obtain ⟨ok, ok'⟩ := barrier_checks hwf
  simp [decode, decodeC, reserve, badBarrier, ok, ok', firstBad, f]

theorem arvd (v : BitVec 2) (b : BitVec 4) (s : SReg) : Statement (.arvd v b s) := by
  intro hwf w h
  have f := lay_22_2_18_4_13_5 0xC2 v b s (Option.some.inj h).symm
  obtain ⟨ok, ok'⟩ := barrier_checks hwf
  simp [decode, decodeC, reserve, badBarrier, ok, ok', firstBad, f]

theorem bwait (v : BitVec 2) (b : BitVec 4) (s : SReg) : Statement (.bwait v b s) := by
  intro hwf w h
  have f := lay_22_2_18_4_13_5 0xC3 v b s (Option.some.inj h).symm
  obtain ⟨ok, ok'⟩ := barrier_checks hwf
  simp [decode, decodeC, reserve, badBarrier, ok, ok', firstBad, f]

theorem fence (s : BitVec 3) (k : BitVec 3) : Statement (.fence s k) := by
  intro hwf w h
  have f := lay_21_3_18_3 0xC4 s k (Option.some.inj h).symm
  obtain ⟨ok, ok'⟩ := fence_checks hwf
  simp [decode, decodeC, reserve, badScope, ok, ok', firstBad, f]

theorem sendr (d : VReg) (a : VReg) (l : La) (s : SReg) (z : BitVec 3) : Statement (.sendr d a l s z) := by
  intro hwf w h
  have f := lay_18_6_12_6_8_4_3_5_0_3 0xC5 d a l s z (Option.some.inj h).symm
  have ok := Nat.not_lt.mpr (Nat.le_of_lt_succ (of_decide_eq_true hwf : z.toNat < 3))
  simp [decode, decodeC, reserve, ok, firstBad, f]

theorem sendb (x : SReg) (y : SReg) (f : BitVec 2) (l : La) : Statement (.sendb x y f l) := by
  intro _ w h
  have f := lay_19_5_14_5_12_2_8_4 0xC6 x y f l (Option.some.inj h).symm
  simp [decode, decodeC, reserve, firstBad, f]

theorem cwait (x : SReg) (y : SReg) : Statement (.cwait x y) := by
  intro _ w h
  have f := lay_19_5_14_5 0xC7 x y (Option.some.inj h).symm
  simp [decode, decodeC, waitLa, firstBad, f]

theorem cset (x : SReg) (y : SReg) : Statement (.cset x y) := by
  intro _ w h
  have f := lay_19_5_14_5 0xC8 x y (Option.some.inj h).symm
  simp [decode, decodeC, waitLa, firstBad, f]

theorem ckevict (x : SReg) (y : SReg) (f : BitVec 2) (l : La) : Statement (.ckevict x y f l) := by
  intro _ w h
  have f := lay_19_5_14_5_12_2_8_4 0xC9 x y f l (Option.some.inj h).symm
  simp [decode, decodeC, reserve, firstBad, f]

theorem ckstat (x : SReg) (y : SReg) (l : La) : Statement (.ckstat x y l) := by
  intro _ w h
  have f := lay_19_5_14_5_8_4 0xCA x y l (Option.some.inj h).symm
  simp [decode, decodeC, reserve, firstBad, f]

theorem wcall (d : VReg) (a : VReg) (l : La) (w : BitVec 2) (g : VReg) : Statement (.wcall d a l w g) := by
  intro hwf v h
  have f := lay_18_6_12_6_8_4_6_2_0_6 0xD0 d a l w g (Option.some.inj h).symm
  obtain ⟨ok, ok'⟩ := width_checks hwf f.2.2.2.2.2.2
  simp [decode, decodeD, reserve, ok, ok', firstBad, f]

theorem wpost (a : VReg) (l : La) (w : BitVec 2) (g : VReg) : Statement (.wpost a l w g) := by
  intro hwf v h
  have f := lay_12_6_8_4_6_2_0_6 0xD1 a l w g (Option.some.inj h).symm
  obtain ⟨ok, ok'⟩ := width_checks hwf f.2.2.2.2.2.1
  simp [decode, decodeD, reserve, ok, ok', firstBad, f]

theorem wtake (x : SReg) : Statement (.wtake x) := by
  intro _ w h
  have f := lay_19_5 0xD2 x (Option.some.inj h).symm
  simp [decode, decodeD, reserve, firstBad, f]

theorem wreply (a : Operand) : Statement (.wreply a) := by
  intro _ w h
  have f := lay_9_o 0xD3 a (Option.some.inj h).symm
  simp [decode, decodeD, reserve, firstBad, f]

theorem wfail (c : BitVec 7) : Statement (.wfail c) := by
  intro _ w h
  have f := lay_0_7 0xD4 c (Option.some.inj h).symm
  simp [decode, decodeD, reserve, firstBad, f]

theorem wscan (d : VReg) (a : Operand) (o : BitVec 3) : Statement (.wscan d a o) := by
  intro _ w h
  have f := lay_18_6_9_o_0_3 0xD5 d a o (Option.some.inj h).symm
  simp [decode, decodeD, reserve, firstBad, f]

theorem illegalInstruction (w : Word) : Statement (.illegalInstruction w) := by
  rintro hwf v h
  obtain rfl : _ = v := Option.some.inj h
  exact decode_unassigned hwf

theorem loadReturn (p : PartNo) (op : Nat) : Statement (.loadReturn p op) := no_word rfl

theorem copySectorLanding (p : PartNo) (op : Nat) : Statement (.copySectorLanding p op) := no_word rfl

theorem sendLanding (p : PartNo) (op : Nat) : Statement (.sendLanding p op) := no_word rfl

theorem sendAcknowledgement (p : PartNo) (op : Nat) : Statement (.sendAcknowledgement p op) := no_word rfl

theorem releaseFilterProbe (p : PartNo) (core : BitVec 7) (op : Nat) : Statement (.releaseFilterProbe p core op) := no_word rfl

theorem lineAccess (p : PartNo) (req : Nat) : Statement (.lineAccess p req) := no_word rfl

theorem orderGateAdmit (p : PartNo) (dom : Domain) (id : DWord) : Statement (.orderGateAdmit p dom id) := no_word rfl

theorem requestArrival (p : PartNo) (req : Nat) : Statement (.requestArrival p req) := no_word rfl

theorem batchAssembly (p : PartNo) (core : BitVec 7) : Statement (.batchAssembly p core) := no_word rfl

theorem whiskReply (p : PartNo) (req : Nat) : Statement (.whiskReply p req) := no_word rfl

theorem fillLanding (p : PartNo) (op : Nat) : Statement (.fillLanding p op) := no_word rfl

theorem matrixStep (p : PartNo) (core : BitVec 7) (check : CheckResult) : Statement (.matrixStep p core check) := no_word rfl

theorem clusterPlacement (p : PartNo) : Statement (.clusterPlacement p) := no_word rfl

theorem finalCommit (p : PartNo) (team : Nat) : Statement (.finalCommit p team) := no_word rfl

theorem launchCompletion (p : PartNo) : Statement (.launchCompletion p) := no_word rfl

theorem crockMoveDone (p : PartNo) (name : DWord) : Statement (.crockMoveDone p name) := no_word rfl

theorem eggTimerWindow (p : PartNo) : Statement (.eggTimerWindow p) := no_word rfl

theorem sieveDecision (p : PartNo) : Statement (.sieveDecision p) := no_word rfl

theorem sieveBacktrack (p : PartNo) : Statement (.sieveBacktrack p) := no_word rfl

theorem chunkFlushTimer (p : PartNo) (dom : Domain) (id : DWord) : Statement (.chunkFlushTimer p dom id) := no_word rfl

theorem freezeImage (p : PartNo) : Statement (.freezeImage p) := no_word rfl

theorem drainDeadline (p : PartNo) : Statement (.drainDeadline p) := no_word rfl

theorem gangSliceStart (p : PartNo) : Statement (.gangSliceStart p) := no_word rfl

theorem gangSliceEnd (p : PartNo) : Statement (.gangSliceEnd p) := no_word rfl

theorem invalidationDone (p : PartNo) : Statement (.invalidationDone p) := no_word rfl

theorem backgroundScrub (core : BitVec 7) (word : CoreWord) (result : ScrubResult) : Statement (.backgroundScrub core word result) := no_word rfl

theorem patrolScrub (line : BitVec 45) (result : ScrubResult) : Statement (.patrolScrub line result) := no_word rfl

theorem inFieldTest (die : BitVec 3) : Statement (.inFieldTest die) := no_word rfl

theorem inFieldTestRun (core : BitVec 7) (passed : Bool) : Statement (.inFieldTestRun core passed) := no_word rfl

theorem inFieldTestOverdue (core : BitVec 7) : Statement (.inFieldTestOverdue core) := no_word rfl

theorem energyPeriod (p : PartNo) : Statement (.energyPeriod p) := no_word rfl

theorem flitCrcError (link : Link) : Statement (.flitCrcError link) := no_word rfl

theorem linkDead (link : Link) : Statement (.linkDead link) := no_word rfl

theorem injectionResume : Statement .injectionResume := no_word rfl

theorem lostPacket (p : PartNo) (pkt : LostPacket) : Statement (.lostPacket p pkt) := no_word rfl

theorem linkNarrow (link : Link) (handshake : Bool) : Statement (.linkNarrow link handshake) := no_word rfl

theorem linkWiden (link : Link) (handshake : Bool) : Statement (.linkWiden link handshake) := no_word rfl

theorem cxlPortDown (port : BitVec 3) : Statement (.cxlPortDown port) := no_word rfl

theorem hostWrite (pa : BitVec 52) (bytes : List Byte) : Statement (.hostWrite pa bytes) := no_word rfl

theorem hostRead (pa : BitVec 52) (count : BitVec 8) : Statement (.hostRead pa count) := no_word rfl

theorem timeOffsetNotice (p : PartNo) : Statement (.timeOffsetNotice p) := no_word rfl

theorem clockThrottle (die : BitVec 3) (cause : ThrottleCause) : Statement (.clockThrottle die cause) := no_word rfl

theorem clockRaise (die : BitVec 3) : Statement (.clockRaise die) := no_word rfl

theorem thermalStop (die : BitVec 3) : Statement (.thermalStop die) := no_word rfl

theorem powerOnBoot (images : BootImages) : Statement (.powerOnBoot images) := no_word rfl

theorem functionLevelReset (p : PartNo) : Statement (.functionLevelReset p) := no_word rfl

theorem firmwarePass : Statement .firmwarePass := no_word rfl

theorem reset (q : BitVec 7) (pkt : BitVec 512) : Statement (.reset q pkt) := no_word rfl

theorem setmode (q : BitVec 7) (pkt : BitVec 512) : Statement (.setmode q pkt) := no_word rfl

theorem attach (q : BitVec 7) (pkt : BitVec 512) : Statement (.attach q pkt) := no_word rfl

theorem extend (q : BitVec 7) (pkt : BitVec 512) : Statement (.extend q pkt) := no_word rfl

theorem detach (q : BitVec 7) (pkt : BitVec 512) : Statement (.detach q pkt) := no_word rfl

theorem buffers (q : BitVec 7) (pkt : BitVec 512) : Statement (.buffers q pkt) := no_word rfl

theorem consume (q : BitVec 7) (pkt : BitVec 512) : Statement (.consume q pkt) := no_word rfl

theorem resume (q : BitVec 7) (pkt : BitVec 512) : Statement (.resume q pkt) := no_word rfl

theorem launch (q : BitVec 7) (pkt : BitVec 512) : Statement (.launch q pkt) := no_word rfl

theorem signalSet (q : BitVec 7) (pkt : BitVec 512) : Statement (.signalSet q pkt) := no_word rfl

theorem signalAdd (q : BitVec 7) (pkt : BitVec 512) : Statement (.signalAdd q pkt) := no_word rfl

theorem wait (q : BitVec 7) (pkt : BitVec 512) : Statement (.wait q pkt) := no_word rfl

theorem nopPacket (q : BitVec 7) (pkt : BitVec 512) : Statement (.nopPacket q pkt) := no_word rfl

theorem unknownPacket (q : BitVec 7) (pkt : BitVec 512) : Statement (.unknownPacket q pkt) := no_word rfl

theorem null (p : PartNo) (gid : Nat) : Statement (.null p gid) := no_word rfl

theorem debug (p : PartNo) (gid : Nat) : Statement (.debug p gid) := no_word rfl

theorem sigadd (p : PartNo) (gid : Nat) : Statement (.sigadd p gid) := no_word rfl

theorem sleep (p : PartNo) (gid : Nat) : Statement (.sleep p gid) := no_word rfl

theorem sleepExpiry (p : PartNo) (gid : Nat) : Statement (.sleepExpiry p gid) := no_word rfl

theorem unknownService (p : PartNo) (gid : Nat) : Statement (.unknownService p gid) := no_word rfl

theorem freeze (p : PartNo) : Statement (.freeze p) := no_word rfl

theorem registerImageArea (p : PartNo) : Statement (.registerImageArea p) := no_word rfl

theorem copyTableEntry (p : PartNo) : Statement (.copyTableEntry p) := no_word rfl

theorem clearSpoil (p : PartNo) : Statement (.clearSpoil p) := no_word rfl

theorem copyDebugRing (p : PartNo) : Statement (.copyDebugRing p) := no_word rfl

theorem loadLvc (p : PartNo) : Statement (.loadLvc p) := no_word rfl

theorem unloadKernel (p : PartNo) : Statement (.unloadKernel p) := no_word rfl

theorem setTrustedKey (p : PartNo) : Statement (.setTrustedKey p) := no_word rfl

theorem extendMeasurement (p : PartNo) : Statement (.extendMeasurement p) := no_word rfl

theorem attest (p : PartNo) : Statement (.attest p) := no_word rfl

theorem createPartition (arg0 arg1 : DWord) : Statement (.createPartition arg0 arg1) := no_word rfl

theorem destroyPartition (arg0 arg1 : DWord) : Statement (.destroyPartition arg0 arg1) := no_word rfl

theorem setGranuleKey (arg0 arg1 : DWord) : Statement (.setGranuleKey arg0 arg1) := no_word rfl

theorem grantQueue (arg0 arg1 : DWord) : Statement (.grantQueue arg0 arg1) := no_word rfl

theorem grantPort (arg0 arg1 : DWord) : Statement (.grantPort arg0 arg1) := no_word rfl

theorem updateFirmware (arg0 arg1 : DWord) : Statement (.updateFirmware arg0 arg1) := no_word rfl

theorem firmwareHandover : Statement .firmwareHandover := no_word rfl

theorem setSharedSeverity (arg0 arg1 : DWord) : Statement (.setSharedSeverity arg0 arg1) := no_word rfl

theorem qprodWrite (p : PartNo) (q : BitVec 7) (v : DWord) : Statement (.qprodWrite p q v) := no_word rfl

theorem qbaseWrite (p : PartNo) (q : BitVec 7) (v : DWord) : Statement (.qbaseWrite p q v) := no_word rfl

theorem invWrite (p : PartNo) (v : DWord) : Statement (.invWrite p v) := no_word rfl

theorem faultMapped (p : PartNo) (v : DWord) : Statement (.faultMapped p v) := no_word rfl

theorem faultDeclined (p : PartNo) (v : DWord) : Statement (.faultDeclined p v) := no_word rfl

theorem shelfcWrite (p : PartNo) (v : DWord) : Statement (.shelfcWrite p v) := no_word rfl

theorem whiskWrite (p : PartNo) (v : DWord) : Statement (.whiskWrite p v) := no_word rfl

theorem eggWrite (p : PartNo) (v : DWord) : Statement (.eggWrite p v) := no_word rfl

theorem sevWrite (p : PartNo) (cls : BitVec 4) (v : DWord) : Statement (.sevWrite p cls v) := no_word rfl

theorem registerWrite (f : PcieFunction) (off : BitVec 16) (v : DWord) : Statement (.registerWrite f off v) := no_word rfl

theorem copyOutProgress (p : PartNo) (op : Nat) : Statement (.copyOutProgress p op) := no_word rfl

theorem rootComplexAcknowledgement (p : PartNo) (line : BitVec 45) : Statement (.rootComplexAcknowledgement p line) := no_word rfl

theorem ieee1588Message (msg : PtpMessage) : Statement (.ieee1588Message msg) := no_word rfl

end Laws.RoundTrip
end Sys2Proof
end

