-- ==== Sys2Proof/Tests/Slice0.lean ====
section
/-!
SUPPORT. Tests: ill-formed terms that the check refuses, words that decode as spec/ encodes them, a witness for the hypotheses of
each statement, and single steps against the worked examples of spec/.
-/
namespace Sys2Proof.Tests
open Sys2Proof.Machine Sys2Proof.Spec

set_option Elab.async false

/-! ### Well-formedness and rejection -/

/-- Each check of well-formedness refuses an ill-formed term (R21, R25, R59, R109, R260, R306, R68). -/
theorem test_ill_formed_refused :
    Instr.wf (.mode 0x00C0) = false ∧ Instr.wf (.pmode 0x1400) = false ∧ Instr.wf (.pmode 0x6000) = false ∧
    Instr.wf (.ceq 5 0 ⟨.own, 0⟩ ⟨.own, 0⟩) = false ∧ Instr.wf (.cne 6 0 ⟨.own, 0⟩ ⟨.own, 0⟩) = false ∧
    Instr.wf (.clt 7 0 ⟨.own, 0⟩ ⟨.own, 0⟩) = false ∧ Instr.wf (.cle 5 0 ⟨.own, 0⟩ ⟨.own, 0⟩) = false ∧
    Instr.wf (.cun 5 0 ⟨.own, 0⟩ ⟨.own, 0⟩) = false ∧ Instr.wf (.ctst 5 0 ⟨.own, 0⟩ ⟨.own, 0⟩) = false ∧
    Instr.wf (.qop 6 1 2 3) = false ∧ Instr.wf (.fclass 5 0 ⟨.own, 0⟩ 0) = false ∧
    Instr.wf (.cvt 1 ⟨.own, 0⟩ 0x0E) = false ∧ Instr.wf (.ldacq 1 2 0 0) = false ∧ Instr.wf (.strel 1 2 0 7) = false ∧
    Instr.wf (.cpy 1 2 0 3 3) = false ∧ Instr.wf (.cpyo 1 2 0 3) = false ∧ Instr.wf (.wcnt 8 0) = false ∧
    Instr.wf (.arv 1 8 0) = false ∧ Instr.wf (.arva 2 4 0) = false ∧ Instr.wf (.arvd 3 0 0) = false ∧
    Instr.wf (.bwait 3 0 0) = false ∧ Instr.wf (.fence 0 1) = false ∧ Instr.wf (.fence 4 3) = false ∧
    Instr.wf (.sendr 1 2 0 3 3) = false ∧ Instr.wf (.wcall 1 2 0 3 0) = false ∧ Instr.wf (.wcall 1 2 0 2 5) = false ∧
    Instr.wf (.wpost 2 0 2 5) = false ∧ Instr.wf (.illegalInstruction 0x20000000) = false := by
  decide

/-- Their neighbours at the edge of each range are well formed. -/
theorem test_well_formed_accepted :
    Instr.wf (.mode 0x00A0) = true ∧ Instr.wf (.pmode 0x1000) = true ∧ Instr.wf (.pmode 0x4000) = true ∧
    Instr.wf (.ceq 4 0 ⟨.own, 0⟩ ⟨.own, 0⟩) = true ∧ Instr.wf (.qop 6 1 2 0) = true ∧ Instr.wf (.qop 5 1 2 3) = true ∧
    Instr.wf (.cvt 1 ⟨.own, 0⟩ 0x0D) = true ∧ Instr.wf (.ldacq 1 2 0 1) = true ∧ Instr.wf (.strel 1 2 0 6) = true ∧
    Instr.wf (.cpy 1 2 0 3 2) = true ∧ Instr.wf (.wcnt 7 0) = true ∧ Instr.wf (.arv 0 15 0) = true ∧
    Instr.wf (.arva 1 7 0) = true ∧ Instr.wf (.arvd 2 3 0) = true ∧ Instr.wf (.fence 6 2) = true ∧
    Instr.wf (.wcall 1 2 0 2 0) = true ∧ Instr.wf (.wcall 1 2 0 1 5) = true ∧
    Instr.wf (.illegalInstruction 0xFFFFFFFF) = true := by
  decide

/-- Reserved fields are rejected by name, with the lowest bit of the offending field (R42, R50, R59). -/
theorem test_decode_rejections :
    decode 0x00000001 = .error (.reservedField 0x00000001 0) ∧
    decode 0x01800000 = .error (.reservedField 0x01800000 0) ∧
    decode 0x100000C0 = .error (.modeValue 0x0000C0) ∧
    decode 0x10010000 = .error (.modeValue 0x010000) ∧
    decode 0x11001400 = .error (.permValue 0x001400) ∧
    decode 0xC4E40000 = .error (.reservedField 0xC4E40000 21) ∧
    decode 0x40A80000 = .error (.reservedField 0x40A80000 21) ∧
    decodeBytes [0, 0, 0] = .error .truncated ∧
    decodeBytes [0x05, 0x00, 0x30, 0x06, 0xAA] = .ok (.brany 1 true 5, [0xAA]) :=
  ⟨rfl, rfl, rfl, rfl, rfl, rfl, rfl, rfl, rfl⟩

/-- The encoder gives back worked words of spec/02_words_and_syntax.md. -/
theorem test_encode_worked :
    encode (.add 5 ⟨.rot, 3⟩ ⟨.idx, 0x15⟩) = some 0x201487D5 ∧ encode (.brany 1 true 5) = some 0x06300005 ∧
    encode (.wcall 8 20 2 0 12) = some 0xD021420C ∧ encode (.loadReturn 0 0) = none := by
  decide

/-! ### Decoding -/

/-- Worked encodings of spec/ whose major opcode begins with 0 (02, 06). -/
theorem test_decode_flow_worked :
    decode 0x01000000 = .ok (.exit) ∧
    decode 0x02FFFFFD = .ok (.bra 16777213) ∧
    decode 0x03F80010 = .ok (.call 31 16) ∧
    decode 0x04F90000 = .ok (.callr 31 4) ∧
    decode 0x0507C000 = .ok (.jr 31) ∧
    decode 0x06300005 = .ok (.brany 1 true 5) ∧
    decode 0x07400002 = .ok (.brall 2 false 2) ∧
    decode 0x091FFFFC = .ok (.bz 3 524284) ∧
    decode 0x0B060000 = .ok (.emand 1 true) ∧
    decode 0x0C000000 = .ok (.emelse) ∧
    decode 0x0E280000 = .ok (.emrd 5) ∧
    decode 0x0F018000 = .ok (.emwr 6) :=
  ⟨rfl, rfl, rfl, rfl, rfl, rfl, rfl, rfl, rfl, rfl, rfl, rfl⟩

/-- Words put together from the fields of spec/opcode_table.json, major opcodes 0x. -/
theorem test_decode_flow_fields :
    decode 0x00000000 = .ok (.nop) ∧
    decode 0x08765133 = .ok (.brnone 3 true 414003) ∧
    decode 0x0AA862E4 = .ok (.bnz 21 25316) ∧
    decode 0x0D000000 = .ok (.empop) :=
  ⟨rfl, rfl, rfl, rfl⟩

/-- Worked encodings of spec/ whose major opcode begins with 1 (01, 02, 06). -/
theorem test_decode_state_worked :
    decode 0x10000184 = .ok (.mode 388) ∧
    decode 0x10002808 = .ok (.mode 10248) ∧
    decode 0x11002001 = .ok (.pmode 8193) ∧
    decode 0x1201C000 = .ok (.moder 7) ∧
    decode 0x1300002A = .ok (.trap 42) ∧
    decode 0x14000000 = .ok (.brk) ∧
    decode 0x15000000 = .ok (.tret) ∧
    decode 0x16424003 = .ok (.xset 2 9 3) ∧
    decode 0x1740022F = .ok (.xbnd 2 8 47) ∧
    decode 0x18403FFF = .ok (.xadd 2 16383) ∧
    decode 0x19430000 = .ok (.xrd 2 12) ∧
    decode 0x1A124000 = .ok (.choose 2 9) ∧
    decode 0x1B000003 = .ok (.ccall 3) ∧
    decode 0x1C000000 = .ok (.anch) :=
  ⟨rfl, rfl, rfl, rfl, rfl, rfl, rfl, rfl, rfl, rfl, rfl, rfl, rfl, rfl⟩

/-- Words put together from the fields of spec/opcode_table.json, major opcodes 1x. -/
theorem test_decode_state_fields :
    decode 0x1D000000 = .ok (.illegalInstruction 0x1D000000) :=
  rfl

/-- Worked encodings of spec/ whose major opcode begins with 2 (02, 04). -/
theorem test_decode_integer_worked :
    decode 0x201487D5 = .ok (.add 5 ⟨.rot, 3⟩ ⟨.idx, 21⟩) ∧
    decode 0x26200543 = .ok (.mad2 8 ⟨.own, 2⟩ ⟨.sup, 3⟩) ∧
    decode 0x2D281014 = .ok (.rsh 10 ⟨.own, 8⟩ ⟨.own, 20⟩) ∧
    decode 0x2E1C7FFF = .ok (.addi 7 7 4095) :=
  ⟨rfl, rfl, rfl, rfl⟩

/-- Words put together from the fields of spec/opcode_table.json, major opcodes 2x. -/
theorem test_decode_integer_fields :
    decode 0x21174B13 = .ok (.sub 5 ⟨.sdn, 37⟩ ⟨.mir, 19⟩) ∧
    decode 0x221D792B = .ok (.mul 7 ⟨.bc, 60⟩ ⟨.mir, 43⟩) ∧
    decode 0x2313A504 = .ok (.mulh 4 ⟨.idx, 18⟩ ⟨.mir, 4⟩) ∧
    decode 0x2438282D = .ok (.mad 14 ⟨.own, 20⟩ ⟨.own, 45⟩) ∧
    decode 0x2571AE24 = .ok (.msb 28 ⟨.bf, 23⟩ ⟨.own, 36⟩) ∧
    decode 0x27405F1B = .ok (.dot4 16 ⟨.own, 47⟩ ⟨.mir, 27⟩) ∧
    decode 0x28703E00 = .ok (.abs 28 ⟨.own, 31⟩) ∧
    decode 0x29D64400 = .ok (.neg 53 ⟨.mir, 34⟩) ∧
    decode 0x2A23CC73 = .ok (.min 8 ⟨.idx, 38⟩ ⟨.rot, 51⟩) ∧
    decode 0x2BA6852B = .ok (.max 41 ⟨.sup, 2⟩ ⟨.mir, 43⟩) ∧
    decode 0x2CF44128 = .ok (.avg 61 ⟨.own, 32⟩ ⟨.mir, 40⟩) ∧
    decode 0x2F99A0CC = .ok (.muli 38 26 204) :=
  ⟨rfl, rfl, rfl, rfl, rfl, rfl, rfl, rfl, rfl, rfl, rfl, rfl⟩

/-- Worked encodings of spec/ whose major opcode begins with 3 (04). -/
theorem test_decode_logic_worked :
    decode 0x39144003 = .ok (.shli 5 4 3) ∧
    decode 0x3F081204 = .ok (.bfx 2 1 8 4) :=
  ⟨rfl, rfl⟩

/-- Words put together from the fields of spec/opcode_table.json, major opcodes 3x. -/
theorem test_decode_logic_fields :
    decode 0x30FCE418 = .ok (.and 63 ⟨.rot, 50⟩ ⟨.own, 24⟩) ∧
    decode 0x31937045 = .ok (.or 36 ⟨.sdn, 56⟩ ⟨.rot, 5⟩) ∧
    decode 0x324DAE4A = .ok (.xor 19 ⟨.bf, 23⟩ ⟨.rot, 10⟩) ∧
    decode 0x338C7B25 = .ok (.andn 35 ⟨.own, 61⟩ ⟨.mir, 37⟩) ∧
    decode 0x34523E00 = .ok (.not 20 ⟨.mir, 31⟩) ∧
    decode 0x35D6BC5D = .ok (.shl 53 ⟨.sup, 30⟩ ⟨.rot, 29⟩) ∧
    decode 0x361E5525 = .ok (.shr 7 ⟨.mir, 42⟩ ⟨.mir, 37⟩) ∧
    decode 0x37A4C2BF = .ok (.sar 41 ⟨.rot, 33⟩ ⟨.bc, 63⟩) ∧
    decode 0x381E336D = .ok (.rol 7 ⟨.mir, 25⟩ ⟨.sup, 45⟩) ∧
    decode 0x3A165004 = .ok (.shri 5 37 4) ∧
    decode 0x3BA0E020 = .ok (.sari 40 14 32) ∧
    decode 0x3CB22200 = .ok (.clz 44 ⟨.mir, 17⟩) ∧
    decode 0x3D731C00 = .ok (.popc 28 ⟨.sdn, 14⟩) ∧
    decode 0x3E55DE00 = .ok (.brev 21 ⟨.bf, 47⟩) :=
  ⟨rfl, rfl, rfl, rfl, rfl, rfl, rfl, rfl, rfl, rfl, rfl, rfl, rfl, rfl⟩

/-- Worked encodings of spec/ whose major opcode begins with 4 (02, 04). -/
theorem test_decode_compare_worked :
    decode 0x404C0282 = .ok (.ceq 2 3 ⟨.own, 1⟩ ⟨.bc, 2⟩) ∧
    decode 0x42240805 = .ok (.clt 1 1 ⟨.own, 4⟩ ⟨.own, 5⟩) ∧
    decode 0x46281000 = .ok (.qop 1 2 0 1) ∧
    decode 0x470C6011 = .ok (.qfv 3 6 17) ∧
    decode 0x4A27FFFF = .ok (.movi 9 262143) ∧
    decode 0x4B252345 = .ok (.movhi 9 74565) ∧
    decode 0x4C040403 = .ok (.sel 1 ⟨.own, 2⟩ ⟨.own, 3⟩) ∧
    decode 0x4E180D00 = .ok (.hslide 6 ⟨.own, 6⟩ true) ∧
    decode 0x4F0CA000 = .ok (.vfill 3 5) :=
  ⟨rfl, rfl, rfl, rfl, rfl, rfl, rfl, rfl, rfl⟩

/-- Words put together from the fields of spec/opcode_table.json, major opcodes 4x. -/
theorem test_decode_compare_fields :
    decode 0x416D3480 = .ok (.cne 3 3 ⟨.bc, 26⟩ ⟨.bc, 0⟩) ∧
    decode 0x433B207D = .ok (.cle 1 6 ⟨.sdn, 16⟩ ⟨.rot, 61⟩) ∧
    decode 0x448E1AFE = .ok (.cun 4 3 ⟨.mir, 13⟩ ⟨.bf, 62⟩) ∧
    decode 0x456E71F6 = .ok (.ctst 3 3 ⟨.mir, 56⟩ ⟨.idx, 54⟩) ∧
    decode 0x47005800 = .ok (.qfvAll 5) ∧
    decode 0x48200000 = .ok (.qtv 8) ∧
    decode 0x4985AE00 = .ok (.mov 33 ⟨.bf, 23⟩) ∧
    decode 0x4D2F08B0 = .ok (.shfl 11 ⟨.sdn, 4⟩ ⟨.bc, 48⟩) :=
  ⟨rfl, rfl, rfl, rfl, rfl, rfl, rfl, rfl⟩

/-- Worked encodings of spec/ whose major opcode begins with 5 (05). -/
theorem test_decode_float_worked :
    decode 0x53200483 = .ok (.fma 8 ⟨.own, 2⟩ ⟨.bc, 3⟩) ∧
    decode 0x57100C07 = .ok (.fdiv 4 ⟨.own, 6⟩ ⟨.own, 7⟩) ∧
    decode 0x58140A00 = .ok (.fsqrt 5 ⟨.own, 5⟩) :=
  ⟨rfl, rfl, rfl⟩

/-- Words put together from the fields of spec/opcode_table.json, major opcodes 5x. -/
theorem test_decode_float_fields :
    decode 0x502BBCFB = .ok (.fadd 10 ⟨.idx, 30⟩ ⟨.bf, 59⟩) ∧
    decode 0x516C2BED = .ok (.fsub 27 ⟨.own, 21⟩ ⟨.idx, 45⟩) ∧
    decode 0x52AC5188 = .ok (.fmul 43 ⟨.own, 40⟩ ⟨.sdn, 8⟩) ∧
    decode 0x54924D95 = .ok (.fms 36 ⟨.mir, 38⟩ ⟨.sdn, 21⟩) ∧
    decode 0x55E746A1 = .ok (.fmin 57 ⟨.sdn, 35⟩ ⟨.bc, 33⟩) ∧
    decode 0x565AC8B4 = .ok (.fmax 22 ⟨.sup, 36⟩ ⟨.bc, 52⟩) ∧
    decode 0x599DFE00 = .ok (.frcp 39 ⟨.bf, 63⟩) ∧
    decode 0x5A9B3200 = .ok (.frsq 38 ⟨.sdn, 25⟩) ∧
    decode 0x5B784800 = .ok (.fexp2 30 ⟨.own, 36⟩) ∧
    decode 0x5CD86000 = .ok (.flog2 54 ⟨.own, 48⟩) ∧
    decode 0x5DF51600 = .ok (.fsinpi 61 ⟨.bc, 11⟩) ∧
    decode 0x5E7ECA00 = .ok (.fcospi 31 ⟨.sup, 37⟩) ∧
    decode 0x5FAC4400 = .ok (.frint 43 ⟨.own, 34⟩) :=
  ⟨rfl, rfl, rfl, rfl, rfl, rfl, rfl, rfl, rfl, rfl, rfl, rfl, rfl⟩

/-- Worked encodings of spec/ whose major opcode begins with 6 (02, 04, 05). -/
theorem test_decode_scalar_worked :
    decode 0x60440901 = .ok (.fclass 2 1 ⟨.own, 4⟩ 257) ∧
    decode 0x611004B0 = .ok (.cvt 4 ⟨.own, 2⟩ 11) ∧
    decode 0x61180040 = .ok (.cvt 6 ⟨.own, 0⟩ 4) ∧
    decode 0x611800C0 = .ok (.cvt 6 ⟨.own, 0⟩ 12) ∧
    decode 0x61200490 = .ok (.cvt 8 ⟨.own, 2⟩ 9) ∧
    decode 0x6228144B = .ok (.fscale 10 ⟨.own, 10⟩ ⟨.rot, 11⟩) ∧
    decode 0x64041200 = .ok (.fnanc 1 ⟨.own, 9⟩) ∧
    decode 0x65300403 = .ok (.fdot2 12 ⟨.own, 2⟩ ⟨.own, 3⟩) ∧
    decode 0x6B108064 = .ok (.saddi 2 2 100) ∧
    decode 0x6F088105 = .ok (.sshlImm 1 2 5) :=
  ⟨rfl, rfl, rfl, rfl, rfl, rfl, rfl, rfl, rfl, rfl⟩

/-- Words put together from the fields of spec/opcode_table.json, major opcodes 6x. -/
theorem test_decode_scalar_fields :
    decode 0x6312EE00 = .ok (.fgetexp 4 ⟨.sup, 55⟩) ∧
    decode 0x68BAAA00 = .ok (.sadd 23 10 21) ∧
    decode 0x699DB600 = .ok (.ssub 19 22 27) ∧
    decode 0x6A7AAE00 = .ok (.smul 15 10 23) ∧
    decode 0x6C6F6C00 = .ok (.sand 13 29 22) ∧
    decode 0x6D607E00 = .ok (.sor 12 1 31) ∧
    decode 0x6E7B0C00 = .ok (.sxor 15 12 6) ∧
    decode 0x6FA12000 = .ok (.sshlReg 20 4 16) :=
  ⟨rfl, rfl, rfl, rfl, rfl, rfl, rfl, rfl⟩

/-- Worked encodings of spec/ whose major opcode begins with 7 (02, 04, 06). -/
theorem test_decode_lane_worked :
    decode 0x720FFFFE = .ok (.smovi 1 524286) ∧
    decode 0x730C8D15 = .ok (.smovs 1 298261) ∧
    decode 0x771801C7 = .ok (.vred 3 7 7) ∧
    decode 0x7A10000D = .ok (.vote 2 1 5) ∧
    decode 0x7B200003 = .ok (.krd 4 3) ∧
    decode 0x7C010003 = .ok (.kwr 4 3) ∧
    decode 0x7D072000 = .ok (.sysrd 7 4) ∧
    decode 0x7E0A1000 = .ok (.syswr 10 2) :=
  ⟨rfl, rfl, rfl, rfl, rfl, rfl, rfl, rfl⟩

/-- Words put together from the fields of spec/opcode_table.json, major opcodes 7x. -/
theorem test_decode_lane_fields :
    decode 0x7011F200 = .ok (.sshrReg 2 7 25) ∧
    decode 0x70514130 = .ok (.sshrImm 10 5 48) ∧
    decode 0x71435A00 = .ok (.ssarReg 8 13 13) ∧
    decode 0x71F70120 = .ok (.ssarImm 30 28 32) ∧
    decode 0x74199E00 = .ok (.sceq 3 6 15) ∧
    decode 0x756C9200 = .ok (.sclt 13 18 9) ∧
    decode 0x76E97600 = .ok (.scltn 29 5 27) ∧
    decode 0x7877006E = .ok (.vlane 14 28 true 46) ∧
    decode 0x7903987E = .ok (.vins 14 12 true 62) :=
  ⟨rfl, rfl, rfl, rfl, rfl, rfl, rfl, rfl, rfl⟩

/-- Worked encodings of spec/ whose major opcode begins with 8 (02, 09). -/
theorem test_decode_memory_worked :
    decode 0x8010A302 = .ok (.ldw 4 10 3 2) ∧
    decode 0x8110A202 = .ok (.ldd 4 10 2 2) ∧
    decode 0x851580FF = .ok (.stw 5 24 0 255) ∧
    decode 0x8A18C004 = .ok (.ldacq 6 12 0 4) ∧
    decode 0x8B1CC003 = .ok (.strel 7 12 0 3) ∧
    decode 0x8C188101 = .ok (.sld 3 2 1 1) ∧
    decode 0x8E203101 = .ok (.lds 8 3 1 1) :=
  ⟨rfl, rfl, rfl, rfl, rfl, rfl, rfl⟩

/-- Words put together from the fields of spec/opcode_table.json, major opcodes 8x. -/
theorem test_decode_memory_fields :
    decode 0x823CA22E = .ok (.ldq 15 10 2 46) ∧
    decode 0x8328FB3C = .ok (.ldh 10 15 11 60) ∧
    decode 0x84060E97 = .ok (.ldb 1 32 14 151) ∧
    decode 0x86311502 = .ok (.std 12 17 5 2) ∧
    decode 0x8729B95F = .ok (.stq 10 27 9 95) ∧
    decode 0x88A256F4 = .ok (.sth 40 37 6 244) ∧
    decode 0x8926DE84 = .ok (.stb 9 45 14 132) ∧
    decode 0x8DFD0BAE = .ok (.sst 31 20 11 174) ∧
    decode 0x8FC048E7 = .ok (.sts 48 4 8 231) :=
  ⟨rfl, rfl, rfl, rfl, rfl, rfl, rfl, rfl, rfl⟩

/-- Worked encodings of spec/ whose major opcode begins with 9 (02, 09). -/
theorem test_decode_copy_worked :
    decode 0x91303002 = .ok (.stsq 12 3 0 2) ∧
    decode 0x92214100 = .ok (.slk 4 5 1) ∧
    decode 0x93214000 = .ok (.sfill 4 5 0) ∧
    decode 0x94401000 = .ok (.sevict 8 1 0) ∧
    decode 0x9520A332 = .ok (.cpy 8 10 3 6 2) ∧
    decode 0x9620A001 = .ok (.cpyo 8 10 0 1) ∧
    decode 0x97498100 = .ok (.cpyt 9 6 0 1) ∧
    decode 0x984A8000 = .ok (.cpyv 9 10 0) ∧
    decode 0x99118000 = .ok (.tbinit 2 6 0) ∧
    decode 0x9A398000 = .ok (.tbarr 7 6 0) ∧
    decode 0x9B398000 = .ok (.tbwait 7 6) ∧
    decode 0x9C000003 = .ok (.wcnt 0 3) ∧
    decode 0x9C080000 = .ok (.wcnt 1 0) ∧
    decode 0x9D214080 = .ok (.ckopen 4 5 0 0 true 0) ∧
    decode 0x9D215000 = .ok (.ckopen 4 5 1 0 false 0) ∧
    decode 0x9E314000 = .ok (.ckseal 6 5 0) ∧
    decode 0x9F014000 = .ok (.ckdrop 5 0) :=
  ⟨rfl, rfl, rfl, rfl, rfl, rfl, rfl, rfl, rfl, rfl, rfl, rfl, rfl, rfl, rfl, rfl, rfl⟩

/-- Words put together from the fields of spec/opcode_table.json, major opcodes 9x. -/
theorem test_decode_copy_fields :
    decode 0x90E32EAF = .ok (.ldsq 56 50 14 175) :=
  rfl

/-- Worked encodings of spec/ whose major opcode begins with A (02, 10). -/
theorem test_decode_matrix_worked :
    decode 0xA0250000 = .ok (.obres 4 20 0) ∧
    decode 0xA1010000 = .ok (.obrel 4 0) ∧
    decode 0xA2424000 = .ok (.obld 8 9 0) ∧
    decode 0xA3424014 = .ok (.gath 8 9 0 20) ∧
    decode 0xA4000000 = .ok (.mrdy) ∧
    decode 0xA5530002 = .ok (.mstep 10 12 0 2) ∧
    decode 0xA6530000 = .ok (.mloop 10 12 0 0) ∧
    decode 0xA7780000 = .ok (.mfence 15 0) ∧
    decode 0xA8780000 = .ok (.mwait 15) ∧
    decode 0xA9039002 = .ok (.acfg 14 1 0 2) ∧
    decode 0xAB000002 = .ok (.azero 0 2) ∧
    decode 0xAC410513 = .ok (.ard 16 2 5 1 3) ∧
    decode 0xAC580000 = .ok (.ard 22 0 0 0 0) ∧
    decode 0xAD500000 = .ok (.awr 20 0 0 0 0) ∧
    decode 0xAE7C0003 = .ok (.asave 15 16 0 3) :=
  ⟨rfl, rfl, rfl, rfl, rfl, rfl, rfl, rfl, rfl, rfl, rfl, rfl, rfl, rfl, rfl⟩

/-- Words put together from the fields of spec/opcode_table.json, major opcodes Ax. -/
theorem test_decode_matrix_fields :
    decode 0xAA000D05 = .ok (.arel 13 5) ∧
    decode 0xAF6B4704 = .ok (.aload 13 13 7 4) :=
  ⟨rfl, rfl⟩

/-- Worked encodings of spec/ whose major opcode begins with B (10). -/
theorem test_decode_nance_worked :
    decode 0xB0134000 = .ok (.nanc 2 13) ∧
    decode 0xB100C000 = .ok (.srseed 3) ∧
    decode 0xB2182000 = .ok (.ascal 6 0 32 0) :=
  ⟨rfl, rfl, rfl⟩

/-- Worked encodings of spec/ whose major opcode begins with C (02, 09, 11, 14). -/
theorem test_decode_sync_worked :
    decode 0xC04CC000 = .ok (.arv 1 3 6) ∧
    decode 0xC0888000 = .ok (.arv 2 2 4) ∧
    decode 0xC1044000 = .ok (.arva 0 1 2) ∧
    decode 0xC2000000 = .ok (.arvd 0 0 0) ∧
    decode 0xC2400000 = .ok (.arvd 1 0 0) ∧
    decode 0xC3044000 = .ok (.bwait 0 1 2) ∧
    decode 0xC4200000 = .ok (.fence 1 0) ∧
    decode 0xC4480000 = .ok (.fence 2 2) ∧
    decode 0xC4640000 = .ok (.fence 3 1) ∧
    decode 0xC4840000 = .ok (.fence 4 1) ∧
    decode 0xC5084030 = .ok (.sendr 2 4 0 6 0) ∧
    decode 0xC5204132 = .ok (.sendr 8 4 1 6 2) ∧
    decode 0xC6424000 = .ok (.sendb 8 9 0 0) ∧
    decode 0xC6425000 = .ok (.sendb 8 9 1 0) ∧
    decode 0xC7524000 = .ok (.cwait 10 9) ∧
    decode 0xC8024000 = .ok (.cset 0 9) ∧
    decode 0xC9395000 = .ok (.ckevict 7 5 1 0) ∧
    decode 0xCA394000 = .ok (.ckstat 7 5 0) :=
  ⟨rfl, rfl, rfl, rfl, rfl, rfl, rfl, rfl, rfl, rfl, rfl, rfl, rfl, rfl, rfl, rfl, rfl, rfl⟩

/-- Worked encodings of spec/ whose major opcode begins with D (02, 15). -/
theorem test_decode_whisk_worked :
    decode 0xD021420C = .ok (.wcall 8 20 2 0 12) ∧
    decode 0xD029414C = .ok (.wcall 10 20 1 1 12) ∧
    decode 0xD101404C = .ok (.wpost 20 0 1 12) ∧
    decode 0xD1014080 = .ok (.wpost 20 0 2 0) ∧
    decode 0xD2280000 = .ok (.wtake 5) ∧
    decode 0xD3000C00 = .ok (.wreply ⟨.own, 6⟩) ∧
    decode 0xD3008C00 = .ok (.wreply ⟨.rot, 6⟩) ∧
    decode 0xD4000005 = .ok (.wfail 5) ∧
    decode 0xD5180000 = .ok (.wscan 6 ⟨.own, 0⟩ 0) ∧
    decode 0xD5180002 = .ok (.wscan 6 ⟨.own, 0⟩ 2) :=
  ⟨rfl, rfl, rfl, rfl, rfl, rfl, rfl, rfl, rfl, rfl⟩

/-- Words put together from the fields of spec/opcode_table.json, major opcodes Fx. -/
theorem test_decode_illegal_fields :
    decode 0xFFFFFFFF = .ok (.illegalInstruction 0xFFFFFFFF) :=
  rfl

/-- Words with a nonzero reserved field take the lowest bit of the lowest offending field (R42): imm12[10:5] of `qfv.all` (R110). -/
theorem test_reserved_fields :
    decode 0x47000820 = .error (.reservedField 0x47000820 5) ∧ decode 0x47000801 = .error (.reservedField 0x47000801 0) :=
  ⟨rfl, rfl⟩
/-! ### Small states

Each witness below gives a concrete state and operands that meet the hypotheses of a statement together; for an instruction,
`Ready` holds and the rest is said of the context `c` that the state gives. A hypothesis `o = some x` and what is asked of
`x` are written with `Option.any`. -/

/-- A team of one group has just been launched (notes/assumptions/2.md), and its group issues. -/
def launched : State := { State.reset.loadProgram with cur := some ⟨0, loadedGroup, .agrees⟩ }

/-- The whisk group of core 5 issues. -/
def method : State := { launched with cur := some ⟨0, 5, .agrees⟩ }

def onGroup (f : Group → Group) (s : State) : State := s.modGroup 0 loadedGroup f
def onTeam (f : Team → Team) (s : State) : State := s.modTeam 0 loadedTeam f
def onPart (f : Part → Part) (s : State) : State := s.modPart 0 f
def onCore (f : Core → Core) (s : State) : State := s.modPart 0 fun P => P.modCore 0 f
def onHome (f : Home → Home) (s : State) : State := s.modPart 0 fun P => P.modHome 5 f
def onRun (f : Run → Run) (s : State) : State := s.modPart 0 fun P => P.modRun f

/-- Its launch runs under a mode (R33, R324), which the partition holds as well. -/
def underMode (m : BitVec 3) : State → State := fun s => s |> onPart (fun P => { P with choice := { P.choice with mode := m } }) |>
  onRun fun r => { r with launches := [(1, { loadedLaunch with mode := some m })] }

/-- With TYPE `t`. -/
def typed (t : Nat) : State := launched |> onGroup fun g => { g with mode := BitVec.ofNat 24 t }

/-- The conditions of `Ready` but the first. -/
def readyB (c : Ctx) (i : Instr) : Bool :=
  decide (c.g.stage = .fresh) && decide (c.g.wait = none) && !c.g.windows.any Window.blocks && decide (c.g.dueAt i = none) &&
    !c.g.poisons issueWords && i.wf && decide (c.checkUses i = none) && !c.consumes i &&
    !(accessesOf i && c.g.windows.any fun w => w.acq && !w.done) && decide (c.check = .agrees)

/-- The group that issues in `s` is ready for `i`, and `b` holds of its context. -/
def seen (s : State) (i : Instr) (b : Ctx → Bool) : Bool :=
  match s.issuer with
  | some c => readyB c i && b c
  | none => false

theorem ready_of {s : State} {i : Instr} {b : Ctx → Bool} (h : seen s i b = true) : ∃ c, Ready c s i ∧ b c = true := by
  unfold seen at h
  split at h
  · rename_i c hc
    simp only [readyB, Bool.and_eq_true, decide_eq_true_eq, Bool.not_eq_true'] at h
    obtain ⟨⟨⟨⟨⟨⟨⟨⟨⟨⟨h1, h2⟩, h3⟩, h4⟩, h5⟩, h6⟩, h7⟩, h8⟩, h9⟩, h10⟩, h11⟩ := h
    exact ⟨c, ⟨hc, h1, h2, h3, h4, h5, h6, h7, h8, h9, h10⟩, h11⟩
  · cases h

theorem shown {s : State} {i : Instr} {P : Ctx → Prop} [DecidablePred P] (h : seen s i (fun c => decide (P c)) = true) :
    ∃ c, Ready c s i ∧ P c := by
  obtain ⟨c, hc, hp⟩ := ready_of h
  exact ⟨c, hc, of_decide_eq_true hp⟩

/-- The same for each of several instructions. -/
theorem shown_all {s : State} {l : List Instr} {P : Instr → Ctx → Prop} [∀ i, DecidablePred (P i)]
    (h : (l.all fun i => seen s i fun c => decide (P i c)) = true) : ∀ i ∈ l, ∃ c, Ready c s i ∧ P i c := by
  intro i hi
  exact shown (List.all_eq_true.mp h i hi)

theorem any_of {α : Type} {o : Option α} {P : α → Prop} [DecidablePred P] (h : (o.any fun x => decide (P x)) = true) :
    ∃ x, o = some x ∧ P x := by
  cases o with
  | none => cases h
  | some x => exact ⟨x, rfl, of_decide_eq_true h⟩

/-! ### Witnesses: integer, logic and predicate instructions -/

/-- An operand in the lane's own register. -/
def own (r : BitVec 6) : Operand := ⟨.own, r⟩

def integerWords : List Instr :=
  [.add 1 (own 2) (own 3), .sub 1 (own 2) (own 3), .mul 1 (own 2) (own 3), .mulh 1 (own 2) (own 3), .mad 1 (own 2) (own 3),
    .msb 1 (own 2) (own 3), .abs 1 (own 2), .neg 1 (own 2), .min 1 (own 2) (own 3), .max 1 (own 2) (own 3),
    .avg 1 (own 2) (own 3), .addi 1 2 3, .muli 1 2 3]

/-- The ends of the accepted TYPE codes, and the first code that is not accepted. -/
theorem witness_IntegerElementsAreFittedExactResults :
    (∀ i ∈ integerWords, ∃ c, Ready c (typed 0) i ∧
      (intRow c i).any (fun r => decide (c.g.ty ∈ r.ok)) = true ∧ (Ty.ofCode c.g.ty).isSome = true) ∧
    (∃ c, Ready c (typed 7) (.add 1 (own 2) (own 3)) ∧
      (intRow c (.add 1 (own 2) (own 3))).any (fun r => decide (c.g.ty ∈ r.ok)) = true ∧ (Ty.ofCode c.g.ty).isSome = true) ∧
    ∀ i ∈ integerWords, ∃ c, Ready c (typed 8) i ∧ (intRow c i).any (fun r => decide (c.g.ty ∉ r.ok)) = true :=
  ⟨shown_all (by decide +kernel), shown (by decide +kernel), shown_all (by decide +kernel)⟩

def laneWords : List Instr :=
  [.and 1 (own 2) (own 3), .or 1 (own 2) (own 3), .xor 1 (own 2) (own 3), .andn 1 (own 2) (own 3), .not 1 (own 2), .qtv 1,
    .mov 1 (own 2), .movi 1 2, .movhi 1 2, .sel 1 (own 2) (own 3), .shfl 1 (own 2) (own 3), .hslide 1 (own 2) true]

theorem witness_LaneWordsAndFills :
    (∀ i ∈ laneWords, ∃ c, Ready c launched i ∧ (wordRow c i).isSome = true) ∧
    (∃ c, Ready c (typed 13) (.vfill 2 3) ∧ (Ty.ofCode c.g.ty).isSome = true) ∧
    ∃ c, Ready c (typed 14) (.vfill 2 3) ∧ Ty.ofCode c.g.ty = none :=
  ⟨shown_all (by decide +kernel), shown (by decide +kernel), shown (by decide +kernel)⟩

def dotWords : List Instr := [.mad2 1 (own 2) (own 3), .dot4 1 (own 2) (own 3)]

theorem witness_DotProductsAndClasses :
    (∀ i ∈ dotWords, ∃ c, Ready c (typed 4) i ∧ c.g.ty ∈ [4, 5, 6, 7] ∧ (Ty.ofCode c.g.ty).isSome = true) ∧
    (∀ i ∈ dotWords, ∃ c, Ready c (typed 7) i ∧ c.g.ty ∈ [4, 5, 6, 7] ∧ (Ty.ofCode c.g.ty).isSome = true) ∧
    (∀ i ∈ dotWords, ∃ c, Ready c (typed 8) i ∧ c.g.ty ∉ [4, 5, 6, 7]) ∧
    (∃ c, Ready c (typed 10) (.fdot2 1 (own 2) (own 3)) ∧ c.g.ty ∈ [10, 11] ∧ (Ty.ofCode c.g.ty).isSome = true) ∧
    (∃ c, Ready c (typed 12) (.fdot2 1 (own 2) (own 3)) ∧ c.g.ty ∉ [10, 11]) ∧
    (∃ c, Ready c (typed 13) (.fclass 0 1 (own 2) 3) ∧ c.g.ty ∈ [8, 9, 10, 11, 12, 13] ∧ (Ty.ofCode c.g.ty).isSome = true) ∧
    ∃ c, Ready c (typed 7) (.fclass 0 1 (own 2) 3) ∧ c.g.ty ∉ [8, 9, 10, 11, 12, 13] :=
  ⟨shown_all (by decide +kernel), shown_all (by decide +kernel), shown_all (by decide +kernel), shown (by decide +kernel),
    shown (by decide +kernel), shown (by decide +kernel), shown (by decide +kernel)⟩

def bitWords : List Instr :=
  [.shl 1 (own 2) (own 3), .shr 1 (own 2) (own 3), .sar 1 (own 2) (own 3), .rol 1 (own 2) (own 3), .shli 1 2 3, .shri 1 2 3,
    .sari 1 2 3, .clz 1 (own 2), .popc 1 (own 2), .brev 1 (own 2), .bfx 1 2 3 4]

theorem witness_ShiftAndBitResultsPerElement :
    (∀ i ∈ bitWords, ∃ c, Ready c (typed 0) i ∧
      (bitRow c i).any (fun r => decide (c.g.ty ∈ r.ok)) = true ∧ (Ty.ofCode c.g.ty).isSome = true) ∧
    (∀ i ∈ bitWords, ∃ c, Ready c (typed 8) i ∧ (bitRow c i).any (fun r => decide (c.g.ty ∉ r.ok)) = true) ∧
    ∃ c, Ready c (typed 4) (.bfx 1 2 3 4) ∧ (bitRow c (.bfx 1 2 3 4)).any (fun r => decide (c.g.ty ∉ r.ok)) = true :=
  ⟨shown_all (by decide +kernel), shown_all (by decide +kernel), shown (by decide +kernel)⟩

def compareWords : List Instr :=
  [.ceq 0 1 (own 2) (own 3), .cne 1 1 (own 2) (own 3), .clt 2 1 (own 2) (own 3), .cle 3 1 (own 2) (own 3),
    .cun 4 1 (own 2) (own 3)]

theorem witness_ComparesAndPredicateInstructions :
    (∀ i ∈ compareWords, ∃ c, Ready c (typed 8) i ∧
      (compareRow i).any (fun r => decide (c.g.ty ∈ r.ok)) = true ∧ (Ty.ofCode c.g.ty).isSome = true) ∧
    (∃ c, Ready c (typed 0) (.ceq 0 1 (own 2) (own 3)) ∧
      (compareRow (.ceq 0 1 (own 2) (own 3))).any (fun r => decide (c.g.ty ∈ r.ok)) = true ∧ (Ty.ofCode c.g.ty).isSome = true) ∧
    (∀ i ∈ compareWords, ∃ c, Ready c (typed 4) i ∧ (compareRow i).any (fun r => decide (c.g.ty ∉ r.ok)) = true) ∧
    (∀ i ∈ [Instr.ctst 4 1 (own 2) (own 3), .qop 7 1 2 0, .qop 0 1 2 3, .qfv 1 2 31],
      ∃ c, Ready c launched i ∧ (predicateRow c i).isSome = true) ∧
    ∃ c, Ready c launched (.qfvAll 2) ∧ True :=
  ⟨shown_all (by decide +kernel), shown (by decide +kernel), shown_all (by decide +kernel), shown_all (by decide +kernel),
    shown (by decide +kernel)⟩

def scalarWords : List Instr :=
  [.sadd 1 2 3, .ssub 1 2 3, .smul 1 2 3, .saddi 1 2 3, .sand 1 2 3, .sor 1 2 3, .sxor 1 2 3, .sshlReg 1 2 3, .sshlImm 1 2 3,
    .sshrReg 1 2 3, .sshrImm 1 2 3, .ssarReg 1 2 3, .ssarImm 1 2 3, .smovi 1 2, .smovs 1 2, .sceq 1 2 3, .sclt 1 2 3,
    .scltn 1 2 3, .vlane 1 2 true 4, .vlane 1 2 false 5, .vote 1 0 2, .vote 1 3 2, .krd 1 2]

theorem witness_ScalarResultsAndReductions :
    (∀ i ∈ scalarWords, ∃ c, Ready c launched i ∧ (scalarRow c i).isSome = true) ∧
    (∃ c, Ready c (typed 0) (.vred 1 7 2) ∧ c.g.ty ∈ [0, 1, 2, 3] ∧ (Ty.ofCode c.g.ty).isSome = true) ∧
    (∃ c, Ready c (typed 3) (.vred 1 0 2) ∧ c.g.ty ∈ [0, 1, 2, 3] ∧ (Ty.ofCode c.g.ty).isSome = true) ∧
    (∃ c, Ready c (typed 4) (.vred 1 0 2) ∧ c.g.ty ∉ [0, 1, 2, 3]) ∧
    (∀ i ∈ [Instr.vins 1 2 true 4, .vins 1 2 false 5], ∃ c, Ready c launched i ∧ True) :=
  ⟨shown_all (by decide +kernel), shown (by decide +kernel), shown (by decide +kernel), shown (by decide +kernel),
    shown_all (by decide +kernel)⟩

/-- Writes of groups 1 and 2 to k3, so that group 1 prevails and group 2 owes the trap; and no write of k4. -/
theorem witness_UniformRegistersTakeTheLowestWriter :
    (∃ c, Ready c launched (.kwr 1 2) ∧ c.team?.isSome = true) ∧
    ∃ ws : List UniformWrite,
      let writes (r g : Nat) : List UniformWrite := ws.filter fun w => w.reg = r ∧ w.grp = g
      (∀ g, writes 4 g = []) ∧ (writes 3 1).getLast? = some ⟨1, 3, 8⟩ ∧ (∀ h < 1, writes 3 h = []) ∧ writes 3 2 ≠ [] := by
  refine ⟨shown (by decide +kernel), [⟨2, 3, 9⟩, ⟨1, 3, 7⟩, ⟨1, 3, 8⟩], ?_⟩
  exact ⟨fun g => by simp, by decide, by decide, by decide⟩

/-! ### Witnesses: floating point and conversion -/

def floatWords : List Instr :=
  [.fadd 1 (own 2) (own 3), .fsub 1 (own 2) (own 3), .fmul 1 (own 2) (own 3), .fma 1 (own 2) (own 3), .fms 1 (own 2) (own 3),
    .fmin 1 (own 2) (own 3), .fmax 1 (own 2) (own 3), .fdiv 1 (own 2) (own 3), .fsqrt 1 (own 2), .frcp 1 (own 2),
    .frsq 1 (own 2), .fexp2 1 (own 2), .flog2 1 (own 2), .fsinpi 1 (own 2), .fcospi 1 (own 2), .frint 1 (own 2),
    .fscale 1 (own 2) (own 3), .fgetexp 1 (own 2), .fnanc 1 (own 2)]

theorem witness_FloatElementsPerLane :
    (∀ i ∈ floatWords, ∃ c, Ready c (typed 8) i ∧
      (floatRow i).any (fun r => decide (c.g.ty ∈ r.ok)) = true ∧ (Ty.ofCode c.g.ty).isSome = true) ∧
    (∀ i ∈ floatWords, ∃ c, Ready c (typed 11) i ∧
      (floatRow i).any (fun r => decide (c.g.ty ∈ r.ok)) = true ∧ (Ty.ofCode c.g.ty).isSome = true) ∧
    (∀ i ∈ floatWords, ∃ c, Ready c (typed 12) i ∧ (floatRow i).any (fun r => decide (c.g.ty ∉ r.ok)) = true) ∧
    ∃ c, Ready c (typed 9) (.fexp2 2 (own 4)) ∧ (floatRow (.fexp2 2 (own 4))).any (fun r => decide (c.g.ty ∉ r.ok)) = true :=
  ⟨shown_all (by decide +kernel), shown_all (by decide +kernel), shown_all (by decide +kernel), shown (by decide +kernel)⟩

/-- 1.5, 2 and −0 are finite in binary32; a quiet NaN is none. -/
theorem witness_FloatArithmeticIsRoundedOnce :
    (∀ i ∈ [Instr.fadd 1 (own 2) (own 3), .fsub 1 (own 2) (own 3), .fmul 1 (own 2) (own 3), .fma 1 (own 2) (own 3),
      .fms 1 (own 2) (own 3)], (floatRow i).isSome = true) ∧
    finite (readF f32 false 0x3FC00000) ∧ finite (readF f32 false 0x40000000) ∧ finite (readF f32 false 0x80000000) ∧
    (unpack f32 0x7FC00001).isNan = true ∧ (unpack f32 0x40000000).isNan = false := by
  refine ⟨by decide, ?_, ?_, ?_, by decide +kernel, by decide +kernel⟩ <;> exact trivial

/-- 5/4 lies below the middle between 1 and 2, 6/4 at it, 7/4 above it; 8/4 is whole. -/
theorem witness_RoundingTakesTheNeighbourOfItsMode :
    let u := 2 ^ ((0 : Int) - (-2)).toNat
    (-2 : Int) < 0 ∧ u ∣ 8 ∧ ¬u ∣ 5 ∧ ¬u ∣ 6 ∧ ¬u ∣ 7 ∧ 2 * (5 - 5 / u * u) < u ∧ 2 * (6 - 6 / u * u) = u ∧ u < 2 * (7 - 7 / u * u) := by
  decide

theorem witness_RoundingShiftAndConversion :
    (∃ c, Ready c (typed 0) (.rsh 1 (own 2) (own 3)) ∧ c.g.ty ∈ [0, 1, 2, 3, 4, 5] ∧ (Ty.ofCode c.g.ty).isSome = true) ∧
    (∃ c, Ready c (typed 5) (.rsh 1 (own 2) (own 3)) ∧ c.g.ty ∈ [0, 1, 2, 3, 4, 5] ∧ (Ty.ofCode c.g.ty).isSome = true) ∧
    (∃ c, Ready c (typed 6) (.rsh 1 (own 2) (own 3)) ∧ c.g.ty ∉ [0, 1, 2, 3, 4, 5]) ∧
    (∃ c, Ready c (typed 0) (.cvt 1 (own 2) 13) ∧ (Ty.ofCode 13).isSome = true ∧ (Ty.ofCode c.g.ty).isSome = true) ∧
    ∃ c, Ready c (typed 14) (.cvt 1 (own 2) 0) ∧ (Ty.ofCode 0).isSome = true ∧ Ty.ofCode c.g.ty = none :=
  ⟨shown (by decide +kernel), shown (by decide +kernel), shown (by decide +kernel), shown (by decide +kernel),
    shown (by decide +kernel)⟩
/-! ### Witnesses: control flow, traps, system registers -/

/-- s3 holds `x`. -/
def scalar3 (x : Nat) : State := launched |> onGroup fun g => g.setS 3 (BitVec.ofNat 64 x)

/-- A window of an operation is open. -/
def windowOpen : State := launched |> onGroup fun g => { g with windows := [⟨15, 1, false, [], [], 7, false, false⟩] }

theorem witness_ControlTransfers :
    (∀ i ∈ [Instr.nop, .bra 3, .brany 1 true 5, .brall 1 false 5, .brnone 1 false 5, .bz 3 2, .bnz 3 2],
      ∃ c, Ready c launched i ∧ (branchRow c i).isSome = true) ∧
    (∃ c, Ready c launched (.bz 3 2) ∧ c.g.sreg 3 = 0) ∧ (∃ c, Ready c (scalar3 1) (.bz 3 2) ∧ c.g.sreg 3 ≠ 0) ∧
    (∃ c, Ready c launched (.call 1 2) ∧ True) ∧
    (∀ i ∈ [Instr.callr 1 3, .jr 3], ∃ c, Ready c (scalar3 0x100) i ∧ isWhisk c.gid = false ∧ (c.g.sreg 3).toNat % 4 = 0) ∧
    ∀ i ∈ [Instr.callr 1 3, .jr 3], ∃ c, Ready c (scalar3 0x102) i ∧ isWhisk c.gid = false ∧ (c.g.sreg 3).toNat % 4 ≠ 0 :=
  ⟨shown_all (by decide +kernel), shown (by decide +kernel), shown (by decide +kernel), shown (by decide +kernel),
    shown_all (by decide +kernel), shown_all (by decide +kernel)⟩

/-- What `groupRow` says: a new group, or a trap. -/
def becomesB : Option GroupEffect → Bool
  | some (.becomes _) => true
  | _ => false
def trapsB : Option GroupEffect → Bool
  | some (.traps _) => true
  | _ => false

/-- The mask stack has depth `n`. -/
def deep (n : Nat) : State := launched |> onGroup fun g => { g with stack := List.replicate n 0xF }

theorem witness_MaskAndModeInstructions :
    (∀ i ∈ [Instr.emand 1 true, .emelse, .empop, .emrd 2, .emwr 3, .mode 0x2808, .pmode 0x2001, .moder 3],
      ∃ c, Ready c (deep 15) i ∧ becomesB (groupRow c i) = true) ∧
    (∃ c, Ready c (deep 16) (.emand 1 true) ∧ trapsB (groupRow c (.emand 1 true)) = true) ∧
    (∀ i ∈ [Instr.emelse, .empop], ∃ c, Ready c (deep 0) i ∧ trapsB (groupRow c i) = true) ∧
    ∃ c, Ready c (scalar3 0xC0) (.moder 3) ∧ trapsB (groupRow c (.moder 3)) = true :=
  ⟨shown_all (by decide +kernel), shown (by decide +kernel), shown_all (by decide +kernel), shown (by decide +kernel)⟩

/-- Every lane of x2 holds 0 but lane 3, which holds 63: 63 is in range, 64 is not, and lanes 0 to 2 stay in range. -/
def indexed : State := launched |> onGroup fun g => { g with xi := Cells.set 0 g.xi (32 * 2 + 3) 63 }

theorem witness_IndexRegisterInstructions :
    (∀ i ∈ [Instr.xset 2 0 63, .xadd 2 0], ∃ c, Ready c indexed i ∧ (indexRow c i).any (fun r => decide
      (∀ l < 32, c.g.active l = true → 0 ≤ r.2 l ∧ r.2 l ≤ 63)) = true) ∧
    (∃ c, Ready c indexed (.xadd 2 1) ∧ (indexRow c (.xadd 2 1)).any (fun r => decide
      (c.g.active 3 = true ∧ ¬(0 ≤ r.2 3 ∧ r.2 3 ≤ 63) ∧ ∀ m < 3, c.g.active m = true → 0 ≤ r.2 m ∧ r.2 m ≤ 63)) = true) ∧
    ∀ i ∈ [Instr.xbnd 2 8 47, .xrd 2 5], ∃ c, Ready c launched i ∧ True :=
  ⟨shown_all (by decide +kernel), shown (by decide +kernel), shown_all (by decide +kernel)⟩

theorem witness_TrapInstructionsRaiseTheirCause :
    (∀ i ∈ [Instr.trap 42, .brk], ∃ c, Ready c launched i ∧ c.g.inTrap = false) ∧
    ∀ i ∈ [Instr.illegalInstruction 0x1D000000, .illegalInstruction 0xFFFFFFFF], ∃ c, Ready c launched i ∧ True :=
  ⟨shown_all (by decide +kernel), shown_all (by decide +kernel)⟩

/-- A group with a trap vector of its own. -/
def vectored : State := launched |> onGroup fun g => { g with tvec := 0x2000 }
/-- A group in its handler. -/
def handling : State := vectored |> onGroup fun g => { g with inTrap := true, tpc := 0x3000 }

/-- Word `w` of its control storage is poisoned. -/
def spoilt (w : Nat) : State → State := onGroup fun g => { g with cpoison := [w] }

theorem witness_TrapEntrySavesAndGoesToTheVector :
    isWhisk loadedGroup = false ∧
    (∃ g, vectored.group? 0 loadedGroup = some g ∧ g.windows.all Window.done = true ∧ g.inTrap = false ∧
      g.tvec ≠ 0xFFFFFFFFFFFFFFFC ∧ g.poisons (tvecWord :: issueWords) = false) ∧
    (∃ g, windowOpen.group? 0 loadedGroup = some g ∧ g.windows.all Window.done = false) ∧
    (∀ w ∈ issueWords, ∃ g, (handling |> spoilt w).group? 0 loadedGroup = some g ∧ g.windows.all Window.done = true ∧
      g.poisons issueWords = true) ∧
    ∃ g, (vectored |> spoilt tvecWord).group? 0 loadedGroup = some g ∧ g.windows.all Window.done = true ∧
      g.poisons issueWords = false ∧ g.inTrap = false ∧ g.poisons [tvecWord] = true :=
  ⟨by decide, any_of (by decide +kernel), any_of (by decide +kernel), by
    intro w h
    obtain rfl | rfl | rfl : w = pcWord ∨ w = emWord ∨ w = modeWord := by simpa [issueWords] using h
    · exact any_of (by decide +kernel)
    · exact any_of (by decide +kernel)
    · exact any_of (by decide +kernel), any_of (by decide +kernel)⟩

theorem witness_DoubleFaultReportsAndStops :
    isWhisk loadedGroup = false ∧ ∃ P, handling.part? 0 = some P ∧ ((P.group? loadedGroup).any fun g => decide
      (g.windows.all Window.done = true ∧ g.inTrap = true ∧ g.poisons issueWords = false)) = true :=
  ⟨by decide, any_of (by decide +kernel)⟩

theorem witness_TretRestoresTheSavedState :
    (∃ c, Ready c windowOpen .tret ∧ c.g.windows.all Window.done = false) ∧
    (∃ c, Ready c handling .tret ∧ c.g.windows.all Window.done = true ∧ c.g.inTrap = true ∧
      ¬((c.g.tmode.extractLsb' 16 8) ≠ 0 ∨ 6 ≤ (c.g.tmode.extractLsb' 5 3).toNat) ∧ c.g.tpc.toNat % 4 = 0) ∧
    (∃ c, Ready c vectored .tret ∧ c.g.windows.all Window.done = true ∧ c.g.inTrap = false) ∧
    (∃ c, Ready c (handling |> onGroup fun g => { g with tmode := 0xC0 }) .tret ∧ c.g.windows.all Window.done = true ∧
      c.g.inTrap = true ∧ 6 ≤ (c.g.tmode.extractLsb' 5 3).toNat) ∧
    ∃ c, Ready c (handling |> onGroup fun g => { g with tpc := 0x3002 }) .tret ∧ c.g.windows.all Window.done = true ∧
      c.g.inTrap = true ∧ ¬((c.g.tmode.extractLsb' 16 8) ≠ 0 ∨ 6 ≤ (c.g.tmode.extractLsb' 5 3).toNat) ∧ c.g.tpc.toNat % 4 ≠ 0 :=
  ⟨shown (by decide +kernel), shown (by decide +kernel), shown (by decide +kernel), shown (by decide +kernel),
    shown (by decide +kernel)⟩

theorem witness_SysrdReadsTheTable :
    (∀ i ∈ ([0x80, 0xFF, 0x16, 0x7F] : List (BitVec 8)).map fun n => Instr.sysrd n 4, ∃ c, Ready c launched i ∧ True) ∧
    (∀ i ∈ (List.range 0x16).map fun n => Instr.sysrd (BitVec.ofNat 8 n) 4,
      ∃ c, Ready c launched i ∧ c.g.windows.all Window.done = true) ∧
    ∃ c, Ready c (launched |> underMode 1) (.sysrd 6 4) ∧
      c.g.windows.all Window.done = true ∧ c.P.mode ≠ 0 :=
  ⟨shown_all (by decide +kernel), shown_all (by decide +kernel), shown (by decide +kernel)⟩

theorem witness_SyswrWritesWritableRegisters :
    (∀ i ∈ ([0x80, 0xFF, 0, 6, 0x10, 0x15, 0x16, 0x7F] : List (BitVec 8)).map fun n => Instr.syswr n 3,
      ∃ c, Ready c launched i ∧ True) ∧
    (∀ i ∈ ([7, 8, 9, 10, 11, 12, 13, 14, 15] : List (BitVec 8)).map fun n => Instr.syswr n 3,
      ∃ c, Ready c launched i ∧ c.g.windows.all Window.done = true ∧ (c.g.sreg 3).toNat < 2 ^ 6 ∧
        (c.g.sreg 3).toNat % 4 = 0 ∧ canonical (c.g.sreg 3) = true) ∧
    (∃ c, Ready c (scalar3 64) (.syswr 7 3) ∧ c.g.windows.all Window.done = true ∧ ¬(c.g.sreg 3).toNat < 2 ^ 6) ∧
    (∃ c, Ready c (scalar3 2) (.syswr 9 3) ∧ c.g.windows.all Window.done = true ∧ ¬(c.g.sreg 3).toNat % 4 = 0) ∧
    (∃ c, Ready c (scalar3 0x100000000000000) (.syswr 9 3) ∧ c.g.windows.all Window.done = true ∧ canonical (c.g.sreg 3) = false) ∧
    (∃ c, Ready c (scalar3 256) (.syswr 11 3) ∧ c.g.windows.all Window.done = true ∧ ¬(c.g.sreg 3).toNat < 2 ^ 8) ∧
    (∃ c, Ready c (scalar3 0x1000000) (.syswr 13 3) ∧ c.g.windows.all Window.done = true ∧ ¬(c.g.sreg 3).toNat < 2 ^ 24) ∧
    ∃ c, Ready c (scalar3 0x100000000) (.syswr 14 3) ∧ c.g.windows.all Window.done = true ∧ ¬(c.g.sreg 3).toNat < 2 ^ 32 :=
  ⟨shown_all (by decide +kernel), shown_all (by decide +kernel), shown (by decide +kernel), shown (by decide +kernel),
    shown (by decide +kernel), shown (by decide +kernel), shown (by decide +kernel), shown (by decide +kernel)⟩

theorem witness_ChoiceAnchorAndHostCall :
    (∃ c, Ready c (scalar3 0) (.choose 1 3) ∧ isWhisk c.gid = false ∧ (c.g.sreg 3).toNat = 0) ∧
    (∃ c, Ready c (scalar3 (2 ^ 32 + 1)) (.choose 1 3) ∧ isWhisk c.gid = false ∧ 2 ^ 32 < (c.g.sreg 3).toNat) ∧
    (∃ c, Ready c (scalar3 1) (.choose 1 3) ∧ isWhisk c.gid = false ∧ (c.g.sreg 3).toNat = 1 ∧ (c.P.mode = 0 ∨ c.P.mode = 1)) ∧
    (∃ c, Ready c (scalar3 (2 ^ 32)) (.choose 1 3) ∧ isWhisk c.gid = false ∧ (c.g.sreg 3).toNat = 2 ^ 32 ∧
      (c.P.mode = 0 ∨ c.P.mode = 1)) ∧
    ∀ i ∈ [Instr.anch, .ccall 3], ∃ c, Ready c launched i ∧ isWhisk c.gid = false ∧ c.g.windows.all Window.done = true :=
  ⟨shown (by decide +kernel), shown (by decide +kernel), shown (by decide +kernel), shown (by decide +kernel),
    shown_all (by decide +kernel)⟩
/-! ### Witnesses: barriers, fences, the end of a group -/

/-- `MayArrive` for the team of a context. -/
def mayB (c : Ctx) (tm : Team) (level bar : Nat) : Bool :=
  !isWhisk c.gid && decide (c.P.mode = 0 ∨ c.P.mode = 1) && c.g.windows.all Window.done &&
    (level != 2 || (c.P.launchOf tm).any Launch.coresident) && tm.arriving (gidGroup c.gid) level &&
    (c.P.bar tm level bar).sub.getLsbD (c.P.member tm (gidGroup c.gid) level) &&
    !(c.P.bar tm level bar).arr.getLsbD (c.P.member tm (gidGroup c.gid) level) && tm.kdue.all fun u => u.grp != gidGroup c.gid

theorem shown_may {s : State} {i : Instr} {level bar : Nat} {P : Ctx → Team → Prop} [∀ c t, Decidable (P c t)]
    (h : seen s i (fun c => c.team?.any fun tm => mayB c tm level bar && decide (P c tm)) = true) :
    ∃ c tm, Ready c s i ∧ MayArrive c tm level bar ∧ P c tm := by
  obtain ⟨c, hc, h⟩ := ready_of h
  cases ht : c.team? with
  | none => rw [ht] at h; cases h
  | some tm =>
    rw [ht] at h
    simp only [Option.any_some, mayB, Bool.and_eq_true, Bool.not_eq_true', decide_eq_true_eq] at h
    obtain ⟨⟨⟨⟨⟨⟨⟨⟨h1, h2⟩, h3⟩, h4⟩, h5⟩, h6⟩, h7⟩, h8⟩, hp⟩ := h
    refine ⟨c, tm, hc, ⟨ht, h1, h2, h3, ?_, h5, h6, h7, h8⟩, hp⟩
    intro hl
    cases hL : c.P.launchOf tm with
    | none => simp [hl, hL] at h4
    | some l => exact ⟨l, rfl, by simpa [hl, hL] using h4⟩

/-- The launch is co-resident. -/
def coresident : State := launched |> onRun fun r => { r with launches := [(1, { loadedLaunch with coresident := true })] }
/-- Team barrier 3 expects a second arrival. -/
def twoExpected : State := launched |> onTeam fun t => { t with bars := [(3, { Barrier.initial 1 with expect := 2 })] }
/-- Team barrier 3 stands in phase 5, and member 0 holds the role of phase 4. -/
def phaseFive : State := launched |> onTeam fun t => { t with bars := [(3, { Barrier.initial 1 with ord := 5, role := some (0, 4) })] }

theorem witness_BarrierInstructions :
    (∃ c tm, Ready c launched (.arva 0 3 2) ∧ MayArrive c tm 0 3 ∧ True) ∧
    (∃ c tm, Ready c launched (.arvd 1 7 2) ∧ MayArrive c tm 1 7 ∧ True) ∧
    (∃ c tm, Ready c coresident (.arva 2 3 2) ∧ MayArrive c tm 2 3 ∧ True) ∧
    (∃ c tm, Ready c launched (.arv 0 0 2) ∧ MayArrive c tm 0 0 ∧ tm.kwrites = [] ∧
      (c.P.bar tm 0 0).count + 1 = (c.P.bar tm 0 0).expect ∧ (c.P.bar tm 0 0).count + 1 ≠ 0 ∧ (c.P.bar tm 0 0).cands = []) ∧
    (∃ c tm, Ready c launched (.arv 1 3 2) ∧ MayArrive c tm 1 3 ∧ (Table.get? c.P.run.clusters tm.cluster).isSome = true ∧
      (c.P.bar tm 1 3).count + 1 = (c.P.bar tm 1 3).expect ∧ (c.P.bar tm 1 3).count + 1 ≠ 0 ∧ (c.P.bar tm 1 3).cands = []) ∧
    (∃ c tm, Ready c coresident (.arv 2 3 2) ∧ MayArrive c tm 2 3 ∧
      (c.P.bar tm 2 3).count + 1 = (c.P.bar tm 2 3).expect ∧ (c.P.bar tm 2 3).count + 1 ≠ 0 ∧ (c.P.bar tm 2 3).cands = []) ∧
    (∃ c tm, Ready c twoExpected (.arv 0 3 2) ∧ MayArrive c tm 0 3 ∧ (c.P.bar tm 0 3).count + 1 ≠ (c.P.bar tm 0 3).expect) ∧
    (∃ c, Ready c phaseFive (.bwait 0 3 2) ∧ c.g.windows.all Window.done = true ∧ isWhisk c.gid = false ∧
      (c.team?.any fun tm => decide (tm.kdue = [] ∧ (c.P.bar tm 0 3).ord % 16 ≠ (c.g.sreg 2).toNat % 16)) = true) ∧
    ∃ c, Ready c launched (.bwait 0 3 2) ∧ c.g.windows.all Window.done = true ∧ isWhisk c.gid = false ∧
      (c.team?.any fun tm => decide (tm.kdue = [] ∧ (c.P.bar tm 0 3).ord % 16 = (c.g.sreg 2).toNat % 16 ∧
        ¬((c.P.bar tm 0 3).count = (c.P.bar tm 0 3).expect ∧ 2 ≤ (c.P.bar tm 0 3).cands.length))) = true :=
  ⟨shown_may (by decide +kernel), shown_may (by decide +kernel), shown_may (by decide +kernel), shown_may (by decide +kernel),
    shown_may (by decide +kernel), shown_may (by decide +kernel), shown_may (by decide +kernel), shown (by decide +kernel),
    shown (by decide +kernel)⟩

theorem witness_TeamBarrierCountsAndCompletes :
    ∃ P, launched.part? 0 = some P ∧ (P.team? loadedTeam).isSome = true ∧ (P.mode = 0 ∨ P.mode = 1) :=
  any_of (by decide +kernel)

/-- A load of operation 7 is in flight. -/
def loading : State := launched |> onGroup fun g => { g with inflight := [⟨7, .ld, false⟩] }

theorem witness_FenceExitAndCounterWait :
    (∃ c, Ready c loading (.fence 6 0) ∧ c.g.windows.all Window.done = true ∧ c.P.run.sights = []) ∧
    (∃ c, Ready c launched (.fence 2 2) ∧ c.g.windows.all Window.done = true ∧ c.g.count .ld = 0 ∧ c.g.count .cin = 0 ∧
      c.g.count .cout = 0) ∧
    (∃ c, Ready c launched .exit ∧ isWhisk c.gid = false ∧ (c.P.mode = 0 ∨ c.P.mode = 1) ∧ c.g.windows.all Window.done = true ∧
      c.P.openBatch c.gid c.g = false ∧ c.g.inflight = [] ∧ c.g.complete = c.g.closed ∧ c.g.held = [] ∧
      (c.team?.any fun tm => decide (tm.kwrites.all (fun w => w.grp != gidGroup c.gid) = true ∧
        tm.kdue.all (fun u => u.grp != gidGroup c.gid) = true)) = true) ∧
    (∃ c, Ready c loading (.wcnt 0 1) ∧ c.g.count .ld ≤ 1 ∧ c.g.held.all (fun h => h.path != .ld) = true) ∧
    (∃ c, Ready c launched (.wcnt 4 0) ∧ c.g.count .snd ≤ 0 ∧ c.g.held.all (fun h => h.path != .snd) = true) ∧
    ∃ c, Ready c loading (.wcnt 0 0) ∧ 0 < c.g.count .ld :=
  ⟨shown (by decide +kernel), shown (by decide +kernel), shown (by decide +kernel), shown (by decide +kernel),
    shown (by decide +kernel), shown (by decide +kernel)⟩

/-! ### Witnesses: memory, scratchpad, copies -/

def mapsB (c : Ctx) (acc : Acc) (items : List (Nat × DWord)) : Bool := items.all fun e =>
  canonical e.2 && (match c.look acc (e.2.toNat % 2 ^ 56) with
    | .ok _ _ _ _ _ => true
    | _ => false) && !c.touchHeld acc (e.2.toNat % 2 ^ 56)

theorem maps_of {c : Ctx} {acc : Acc} {items : List (Nat × DWord)} (h : mapsB c acc items = true) : Maps c acc items := by
  intro e he
  have := List.all_eq_true.mp h e he
  simp only [Bool.and_eq_true, Bool.not_eq_true'] at this
  obtain ⟨⟨h1, h2⟩, h3⟩ := this
  refine ⟨h1, ?_, h3⟩
  split at h2
  · exact ⟨_, _, _, _, _, by assumption⟩
  · cases h2

def cleanB (c : Ctx) : Bool := (c.P.run.ops.all fun e => match e.2 with
    | .copyOut _ _ _ _ _ => false
    | _ => true) && match c.team? with
  | none => true
  | some tm => tm.colander.all (fun l => decide (l.poison = [])) && decide (tm.commit = none)

theorem clean_of {c : Ctx} (h : cleanB c = true) : ColanderClean c := by
  unfold cleanB at h
  rw [Bool.and_eq_true, List.all_eq_true] at h
  refine ⟨fun tm ht => ?_, fun e he _ _ _ heq => by simpa [heq] using h.1 e he⟩
  have h := h.2
  simp only [ht, Bool.and_eq_true, decide_eq_true_eq, List.all_eq_true] at h
  refine ⟨h.1, fun k hk => ?_⟩
  rw [h.2] at hk
  cases hk

/-- The hypotheses on a load, whose items are `n`. -/
theorem shown_load {s : State} {l : List Instr} {n : Nat}
    (h : (l.all fun i => seen s i fun c => cleanB c && decide (c.g.count .ld < 255) && (loadRow c i).any fun r =>
      mapsB c .read r.items && decide (r.items.length = n ∧ ∀ e ∈ r.items, e.2.toNat % r.size = 0)) = true) :
    ∀ i ∈ l, ∃ c r, Ready c s i ∧ loadRow c i = some r ∧ (∀ e ∈ r.items, e.2.toNat % r.size = 0) ∧ Maps c .read r.items ∧
      c.g.count .ld < 255 ∧ ColanderClean c ∧ r.items.length = n := by
  intro i hi
  obtain ⟨c, hc, h⟩ := ready_of (List.all_eq_true.mp h i hi)
  simp only [Bool.and_eq_true, decide_eq_true_eq] at h
  cases hr : loadRow c i with
  | none => rw [hr] at h; cases h.2
  | some r =>
    rw [hr] at h
    simp only [Option.any_some, Bool.and_eq_true, decide_eq_true_eq] at h
    exact ⟨c, r, hc, hr, h.2.2.2, maps_of h.2.1, h.1.2, clean_of h.1.1, h.2.2.1⟩

def loadWords : List Instr :=
  [.ldw 4 2 3 0, .ldd 4 2 15 1, .ldq 8 2 0 1, .ldh 4 2 0 0x7F, .ldb 4 2 0 1, .sld 4 3 2 1, .ldacq 4 2 0 5]

/-- No lane acts. -/
def noLane : State := launched |> onGroup fun g => { g with em := 0 }

theorem witness_LoadsIssueAndProtectTheirRegisters :
    (∀ i ∈ loadWords.take 5 ++ loadWords.drop 6, ∃ c r, Ready c launched i ∧ loadRow c i = some r ∧
      (∀ e ∈ r.items, e.2.toNat % r.size = 0) ∧ Maps c .read r.items ∧ c.g.count .ld < 255 ∧ ColanderClean c ∧
      r.items.length = 32) ∧
    (∀ i ∈ [Instr.sld 4 3 2 1], ∃ c r, Ready c launched i ∧ loadRow c i = some r ∧ (∀ e ∈ r.items, e.2.toNat % r.size = 0) ∧
      Maps c .read r.items ∧ c.g.count .ld < 255 ∧ ColanderClean c ∧ r.items.length = 1) ∧
    ∀ i ∈ [Instr.ldw 4 2 3 0], ∃ c r, Ready c noLane i ∧ loadRow c i = some r ∧ (∀ e ∈ r.items, e.2.toNat % r.size = 0) ∧
      Maps c .read r.items ∧ c.g.count .ld < 255 ∧ ColanderClean c ∧ r.items.length = 0 :=
  ⟨shown_load (by decide +kernel), shown_load (by decide +kernel), shown_load (by decide +kernel)⟩

theorem shown_store {s : State} {l : List Instr}
    (h : (l.all fun i => seen s i fun c => !isWhisk c.gid && decide (c.g.count .ld = 0 ∧ c.g.count .cin = 0 ∧ c.g.count .cout = 0) &&
      c.team?.any fun tm => (storeRow c i).any fun r => mapsB c .write r.items && decide ((∀ e ∈ r.items, e.2.toNat % r.size = 0) ∧
        (∀ x ∈ tm.colander, ∀ d ∈ x.poison, d < 16) ∧ (tm.putAll (storePieces c r) 0).2 = (storePieces c r).length ∧
        ((storePieces c r).getLast?.any fun x => decide (x.bytes ≠ [])) = true)) = true) :
    ∀ i ∈ l, ∃ c r tm, Ready c s i ∧ storeRow c i = some r ∧ c.team? = some tm ∧ isWhisk c.gid = false ∧
      (∀ e ∈ r.items, e.2.toNat % r.size = 0) ∧ Maps c .write r.items ∧
      (c.g.count .ld = 0 ∧ c.g.count .cin = 0 ∧ c.g.count .cout = 0) ∧ MasksClean tm ∧
      (tm.putAll (storePieces c r) 0).2 = (storePieces c r).length ∧
      ∃ before x, storePieces c r = before ++ [x] ∧ x.bytes ≠ [] := by
  intro i hi
  obtain ⟨c, hc, h⟩ := ready_of (List.all_eq_true.mp h i hi)
  simp only [Bool.and_eq_true, Bool.not_eq_true', decide_eq_true_eq] at h
  obtain ⟨⟨h1, h2⟩, h3⟩ := h
  cases ht : c.team? with
  | none => rw [ht] at h3; cases h3
  | some tm =>
    cases hr : storeRow c i with
    | none => rw [ht, hr] at h3; cases h3
    | some r =>
      rw [ht, hr] at h3
      simp only [Option.any_some, Bool.and_eq_true, decide_eq_true_eq] at h3
      obtain ⟨h4, h5, hm, h6, h7⟩ := h3
      refine ⟨c, r, tm, hc, hr, ht, h1, h5, maps_of h4, h2, hm, h6, ?_⟩
      cases hl : (storePieces c r).getLast? with
      | none => rw [hl] at h7; cases h7
      | some x =>
        rw [hl] at h7
        obtain ⟨b, hb⟩ := List.getLast?_eq_some_iff.mp hl
        exact ⟨b, x, hb, by simpa using h7⟩

/-- Stores that overlap, so that only the highest lane's bytes stay. -/
theorem witness_StoresEnterTheColander :
    ∀ i ∈ [Instr.stw 4 2 0 1, .std 4 2 0 1, .stq 8 2 0 1, .sth 4 2 0 1, .stb 4 2 0 1, .sst 4 3 0 1, .strel 4 2 0 1],
      ∃ c r tm, Ready c launched i ∧ storeRow c i = some r ∧ c.team? = some tm ∧ isWhisk c.gid = false ∧
        (∀ e ∈ r.items, e.2.toNat % r.size = 0) ∧ Maps c .write r.items ∧
        (c.g.count .ld = 0 ∧ c.g.count .cin = 0 ∧ c.g.count .cout = 0) ∧ MasksClean tm ∧
        (tm.putAll (storePieces c r) 0).2 = (storePieces c r).length ∧
        ∃ before x, storePieces c r = before ++ [x] ∧ x.bytes ≠ [] :=
  shown_store (by decide +kernel)

/-- Lane 3 has the pair (v2, v3) = `x`; every other lane has 0. -/
def laneThree (x : Nat) : State := launched |> onGroup fun g => g.setPair 2 3 (BitVec.ofNat 64 x)

theorem witness_AccessesTrapForTheirLowestLane :
    (∃ c, Ready c (laneThree 2) (.ldw 4 2 0 0) ∧ ((loadRow c (.ldw 4 2 0 0)).any fun r => decide
      (r.items = r.items.take 3 ++ (3, 2) :: r.items.drop 4 ∧ 2 % r.size ≠ 0 ∧ ∀ e ∈ r.items.take 3, e.2.toNat % r.size = 0)) = true) ∧
    (∃ c, Ready c (laneThree 2) (.stw 4 2 0 0) ∧ isWhisk c.gid = false ∧ ((storeRow c (.stw 4 2 0 0)).any fun r => decide
      (r.items = r.items.take 3 ++ (3, 2) :: r.items.drop 4 ∧ 2 % r.size ≠ 0 ∧ ∀ e ∈ r.items.take 3, e.2.toNat % r.size = 0)) = true) ∧
    (∃ c, Ready c (laneThree 0x100000000000000) (.ldw 4 2 0 0) ∧ ((loadRow c (.ldw 4 2 0 0)).any fun r => decide
      (r.items = r.items.take 3 ++ (3, 0x100000000000000) :: r.items.drop 4 ∧ (∀ e ∈ r.items, e.2.toNat % r.size = 0) ∧
        canonical 0x100000000000000 = false ∧ mapsB c .read (r.items.take 3) = true)) = true) ∧
    ∃ c, Ready c (laneThree 0x100000000000000) (.stw 4 2 0 0) ∧ isWhisk c.gid = false ∧
      ((storeRow c (.stw 4 2 0 0)).any fun r => decide
        (r.items = r.items.take 3 ++ (3, 0x100000000000000) :: r.items.drop 4 ∧ (∀ e ∈ r.items, e.2.toNat % r.size = 0) ∧
          canonical 0x100000000000000 = false ∧ mapsB c .write (r.items.take 3) = true)) = true :=
  ⟨shown (by decide +kernel), shown (by decide +kernel), shown (by decide +kernel), shown (by decide +kernel)⟩

theorem witness_ScratchpadAccesses :
    (∀ i ∈ [Instr.lds 1 2 0 1], ∃ c, Ready c launched i ∧ c.padChecks false 4 (padItems c 2 1 4) = none ∧
      ∀ e ∈ padItems c 2 1 4, c.peekPoison e.2.toNat 4 = false) ∧
    (∃ c, Ready c launched (.ldsq 8 2 0 0x7F) ∧ c.padChecks false 16 (padItems c 2 0x7F 16) = none ∧
      ∀ e ∈ padItems c 2 0x7F 16, c.peekPoison e.2.toNat 16 = false) ∧
    (∃ c, Ready c launched (.sts 1 2 0 1) ∧ c.padChecks true 4 (padItems c 2 1 4) = none ∧
      (c.P.core? (c.P.coreOf c.gid)).isSome = true ∧ ∀ e ∈ padItems c 2 1 4, c.reach (e.2.toNat / 4096) = .own 1) ∧
    ∃ c, Ready c launched (.stsq 8 2 0 1) ∧ c.padChecks true 16 (padItems c 2 1 16) = none ∧
      (c.P.core? (c.P.coreOf c.gid)).isSome = true ∧ ∀ e ∈ padItems c 2 1 16, c.reach (e.2.toNat / 4096) = .own 1 :=
  ⟨shown_all (by decide +kernel), shown (by decide +kernel), shown (by decide +kernel), shown (by decide +kernel)⟩

/-- Slot 1 holds the key 0x5000, in STATE `st`; s1 names it, s2 has the key. -/
def tagged (st : BitVec 3) : State := launched |>
  onCore (fun k => { k with tags := Table.set k.tags 1 ⟨0x5000, false, st, 0, 0⟩ }) |> onGroup fun g => (g.setS 1 1).setS 2 0x5000

theorem witness_TagInstructionsKeepTheTable :
    (∀ i ∈ [Instr.slk 3 2 0], ∃ c, Ready c (tagged 2) i ∧ (c.lookup (c.g.sreg 2)).isSome = true) ∧
    (∃ c, Ready c (tagged 2) (.sfill 3 2 0) ∧ isWhisk c.gid = false ∧ canonical (c.g.sreg 2) = true ∧ c.reach 0 = .own 1 ∧
      (c.g.sreg 3).toNat % 256 = 0 ∧ c.slotTbPoison 0 = false ∧ c.slotBusy 0 = false ∧ c.slotCopies 0 = false ∧ (tagOf (tagged 2) c 0).isSome = true ∧
      c.lookup (c.g.sreg 2) = some 1) ∧
    (∃ c, Ready c launched (.sfill 3 2 0) ∧ isWhisk c.gid = false ∧ canonical (c.g.sreg 2) = true ∧ c.reach 0 = .own 1 ∧
      (c.g.sreg 3).toNat % 256 = 0 ∧ c.slotTbPoison 0 = false ∧ c.slotBusy 0 = false ∧ c.slotCopies 0 = false ∧ (tagOf launched c 0).isSome = true ∧
      c.lookup (c.g.sreg 2) = none) ∧
    (∃ c, Ready c (tagged 2) (.sevict 1 0 0) ∧ isWhisk c.gid = false ∧ c.team?.isSome = true ∧ (c.g.sreg 1).toNat % 256 = 1 ∧
      c.reach 1 = .own 2 ∧ c.slotTbPoison 1 = false ∧ c.slotBusy 1 = false ∧ c.slotCopies 1 = false ∧ (tagOf (tagged 2) c 1).isSome = true) ∧
    ∃ c, Ready c (tagged 3) (.sevict 1 0 0) ∧ isWhisk c.gid = false ∧ c.team?.isSome = true ∧ (c.g.sreg 1).toNat % 256 = 1 ∧
      c.reach 1 = .own 3 ∧ c.slotTbPoison 1 = false ∧ c.slotBusy 1 = false ∧ c.slotCopies 1 = false ∧ (tagOf (tagged 3) c 1).isSome = true :=
  ⟨shown_all (by decide +kernel), shown (by decide +kernel), shown (by decide +kernel), shown (by decide +kernel),
    shown (by decide +kernel)⟩

/-- The granule at 0x20 holds a transaction barrier; s1 holds `x` and s2 its address. -/
def withTb (b : Tb) (x : Nat) : State := launched |>
  onCore (fun k => { k with guards := [2] }.setTb 0x20 b) |> onGroup fun g => (g.setS 1 (BitVec.ofNat 64 x)).setS 2 0x20

/-- The address in s2 is a granule of a private slot. -/
abbrev atTb (c : Ctx) : Prop :=
  (c.g.sreg 2).toNat % 2 ^ 20 % 16 = 0 ∧ c.reach ((c.g.sreg 2).toNat % 2 ^ 20 / 4096) = .own 1 ∧
    (c.P.core? (c.P.coreOf c.gid)).any (fun k => !k.tbPoison ((c.g.sreg 2).toNat % 2 ^ 20)) = true
def tbAt (c : Ctx) : Option Tb := (c.P.core? (c.P.coreOf c.gid)).bind fun k => k.tb? ((c.g.sreg 2).toNat % 2 ^ 20)

theorem witness_TransactionBarrierInstructions :
    (∃ c, Ready c (withTb ⟨2, 0, false, 2, 9⟩ 1) (.tbinit 1 2 0) ∧ atTb c ∧ 0 < (c.g.sreg 1).toNat ∧ (c.g.sreg 1).toNat < 2 ^ 20 ∧
      (tbAt c).isSome = true ∧ c.P.tbBusy (c.P.coreOf c.gid) 0x20 ⟨2, 0, false, 2, 9⟩ = false) ∧
    (∃ c, Ready c (withTb ⟨2, 0, false, 2, 9⟩ (2 ^ 20 - 1)) (.tbinit 1 2 0) ∧ atTb c ∧ 0 < (c.g.sreg 1).toNat ∧
      (c.g.sreg 1).toNat < 2 ^ 20) ∧
    (∃ c, Ready c (withTb ⟨2, 0, false, 2, 9⟩ 1) (.tbarr 1 2 0) ∧ atTb c ∧ tbAt c = some ⟨2, 0, false, 2, 9⟩) ∧
    (∃ c, Ready c (withTb ⟨2, 0, false, 1, 15⟩ 1) (.tbarr 1 2 0) ∧ atTb c ∧ tbAt c = some ⟨2, 0, false, 1, 15⟩) ∧
    (∃ c, Ready c (withTb ⟨2, 0, false, 1, 9⟩ 9) (.tbwait 1 2) ∧ atTb c ∧ tbAt c = some ⟨2, 0, false, 1, 9⟩ ∧
      (c.g.sreg 1).toNat % 16 = 9) ∧
    ∃ c, Ready c (withTb ⟨2, 0, false, 1, 9⟩ 8) (.tbwait 1 2) ∧ atTb c ∧ tbAt c = some ⟨2, 0, false, 1, 9⟩ ∧
      (c.g.sreg 1).toNat % 16 = 8 :=
  ⟨shown (by decide +kernel), shown (by decide +kernel), shown (by decide +kernel), shown (by decide +kernel),
    shown (by decide +kernel), shown (by decide +kernel)⟩

/-- v1 names pad addresses and (v2, v3) global ones, 0 in each lane; s5 names no barrier. -/
def copying : State := launched |> onGroup fun g => g.setS 5 0x8000000000000000

def itemsOf (xs : List CopyLane) : List (Nat × DWord) := xs.map fun x => (x.lane, x.va)

theorem shown_cpy {s : State} {d a : VReg} {l : La} {r : SReg} {z : BitVec 3}
    (h : seen s (.cpy d a l r z) (fun c => mapsB c .read (itemsOf (c.copyLanes d a)) && cleanB c && decide (
      c.copyChecks true (2 ^ (2 + z.toNat)) (c.copyLanes d a) (barrierOf (c.g.sreg r)) = none ∧
      c.copyDenied true (2 ^ (2 + z.toNat)) (c.copyLanes d a) = [] ∧ c.g.count .cin < 255)) = true) :
    ∃ c, Ready c s (.cpy d a l r z) ∧ c.copyChecks true (2 ^ (2 + z.toNat)) (c.copyLanes d a) (barrierOf (c.g.sreg r)) = none ∧
      c.copyDenied true (2 ^ (2 + z.toNat)) (c.copyLanes d a) = [] ∧ Maps c .read (itemsOf (c.copyLanes d a)) ∧
      c.g.count .cin < 255 ∧ ColanderClean c := by
  obtain ⟨c, hc, h⟩ := ready_of h
  simp only [Bool.and_eq_true, decide_eq_true_eq] at h
  exact ⟨c, hc, h.2.1, h.2.2.1, maps_of h.1.1, h.2.2.2, clean_of h.1.2⟩

theorem shown_cpyo {s : State} {d a : VReg} {l : La} {z : BitVec 3}
    (h : seen s (.cpyo d a l z) (fun c => mapsB c .write (itemsOf (c.copyLanes d a)) && decide (isWhisk c.gid = false ∧
      c.copyChecks false (2 ^ (2 + z.toNat)) (c.copyLanes d a) none = none ∧ c.g.count .cout < 255 ∧
      ∀ x ∈ c.copyLanes d a, c.peekPoison x.pad (2 ^ (2 + z.toNat)) = false)) = true) :
    ∃ c, Ready c s (.cpyo d a l z) ∧ isWhisk c.gid = false ∧
      c.copyChecks false (2 ^ (2 + z.toNat)) (c.copyLanes d a) none = none ∧ Maps c .write (itemsOf (c.copyLanes d a)) ∧
      c.g.count .cout < 255 ∧ ∀ x ∈ c.copyLanes d a, c.peekPoison x.pad (2 ^ (2 + z.toNat)) = false := by
  obtain ⟨c, hc, h⟩ := ready_of h
  simp only [Bool.and_eq_true, decide_eq_true_eq] at h
  exact ⟨c, hc, h.2.1, h.2.2.1, maps_of h.1, h.2.2.2.1, h.2.2.2.2⟩

/-- The descriptor of one row of four bytes to 0x1000 stands at address 0 of the scratchpad. -/
def described : State := copying |> onCore fun k => k.poke 0 (leBytes 64 (0x1000 * 2 ^ 128 + 2 ^ 192 + 4 * 2 ^ 208))

/-- The version read of a `cpyv` has found `same`. -/
def versioned (same : Bool) : State := launched |> onGroup (fun g => { g with stage := .version 7 }) |> onRun fun r =>
  { r with ops := [(7, .version loadedGroup 0x100 0x802 false 5 [] (some same))], held := [0x802] }

theorem witness_CopyInstructions :
    (∃ c, Ready c copying (.cpy 1 2 0 5 2) ∧ c.copyChecks true (2 ^ (2 + (2#3).toNat)) (c.copyLanes 1 2) (barrierOf (c.g.sreg 5)) = none ∧
      c.copyDenied true (2 ^ (2 + (2#3).toNat)) (c.copyLanes 1 2) = [] ∧ Maps c .read (itemsOf (c.copyLanes 1 2)) ∧
      c.g.count .cin < 255 ∧ ColanderClean c) ∧
    (∃ c, Ready c copying (.cpyo 1 2 0 2) ∧ isWhisk c.gid = false ∧
      c.copyChecks false (2 ^ (2 + (2#3).toNat)) (c.copyLanes 1 2) none = none ∧ Maps c .write (itemsOf (c.copyLanes 1 2)) ∧
      c.g.count .cout < 255 ∧ ∀ x ∈ c.copyLanes 1 2, c.peekPoison x.pad (2 ^ (2 + (2#3).toNat)) = false) ∧
    (∃ c, Ready c described (.cpyt 3 5 0 0) ∧ isWhisk c.gid = false ∧ (c.g.sreg 3).toNat = 0 ∧ barrierOf (c.g.sreg 5) = none ∧
      c.padError false 0 0 64 0 = none ∧ c.peekPoison 0 64 = false ∧
      (TileDesc.ofNum (leNat (c.peek 0 64))).gaddr.toNat % (TileDesc.ofNum (leNat (c.peek 0 64))).z = 0 ∧
      TileDesc.bad (leNat (c.peek 0 64)) 2 false = none ∧ c.tileReach true (TileDesc.ofNum (leNat (c.peek 0 64))) = none ∧
      c.tileCheck true 1 (TileDesc.ofNum (leNat (c.peek 0 64))) = none ∧
      c.tileCheck true 2 (TileDesc.ofNum (leNat (c.peek 0 64))) = none ∧ c.g.count .cin < 255) ∧
    (∃ c, Ready c described (.cpyt 3 5 1 0) ∧ isWhisk c.gid = false ∧ (c.g.sreg 3).toNat = 0 ∧ barrierOf (c.g.sreg 5) = none ∧
      c.padError false 0 0 64 0 = none ∧ c.peekPoison 0 64 = false ∧
      (TileDesc.ofNum (leNat (c.peek 0 64))).gaddr.toNat % (TileDesc.ofNum (leNat (c.peek 0 64))).z = 0 ∧
      TileDesc.bad (leNat (c.peek 0 64)) 1 false = none ∧ c.tileReach false (TileDesc.ofNum (leNat (c.peek 0 64))) = none ∧
      c.g.count .cout < 255) ∧
    ∀ same : Bool, ∃ c, (versioned same).issuer = some c ∧ isWhisk c.gid = false ∧ c.g.stage = .version 7 ∧
      c.team?.isSome = true ∧ Table.get? c.P.run.ops 7 = some (.version loadedGroup 0x100 0x802 false 5 [] (some same)) ∧
      c.P.run.lines.all (fun e => e.2.op != 7) = true := by
  refine ⟨shown_cpy (by decide +kernel), shown_cpyo (by decide +kernel), shown (by decide +kernel), shown (by decide +kernel), ?_⟩
  intro same
  cases same <;> exact any_of (by decide +kernel)
/-! ### Witnesses: crocks and the matrix engine -/

/-- The crock 9 stands in entry 4 of the directory, in STATE `st`; the team has attached it as `atts` say; s2 holds `name` and
s3 0. -/
def crocked (st : BitVec 3) (atts : List Attach) (name : Nat) : State := launched |>
  onRun (fun r => { r with dir := [(4, ⟨9, 1, 0x5000000, 1, 16, 0, st, false, 0, false, 0, none, [], true⟩)] }) |>
  onTeam (fun t => { t with attaches := atts }) |> onGroup fun g => g.setS 2 (BitVec.ofNat 64 name)

/-- An attach of it, in a mode, with a drop pending or not. -/
def attached (mode : BitVec 2) (drop : Bool) : Attach := ⟨4, 9, mode, false, false, [], [], drop, some 7⟩

/-- The attach of the name in s2, and the directory entry that it names. -/
def heldOf (c : Ctx) : Option (Attach × DirEntry) := (c.team?.bind fun tm => tm.attach? (c.g.sreg 2)).bind fun a =>
  if a.result.isSome then (Table.get? c.P.run.dir a.dir).map fun d => (a, d) else none

abbrev freeOrDet (c : Ctx) : Prop := isWhisk c.gid = false ∧ (c.P.mode = 0 ∨ c.P.mode = 1)

theorem witness_CrockInstructions :
    (∃ c, Ready c (crocked 1 [] 0) (.ckopen 1 2 0 0 false 0) ∧ freeOrDet c ∧ c.team?.isSome = true ∧ c.g.sreg 2 = 0) ∧
    (∀ i ∈ [Instr.ckopen 1 2 1 0 false 1, .ckopen 1 2 2 0 false 0, .ckopen 1 2 3 0 false 65],
      ∃ c, Ready c (crocked 1 [] 9) i ∧ freeOrDet c ∧ c.team?.isSome = true ∧ c.g.sreg 2 ≠ 0) ∧
    (∃ c, Ready c (crocked 2 [attached 0 false] 9) (.ckopen 1 2 0 0 false 0) ∧ freeOrDet c ∧
      (heldOf c).any (fun x => decide (x.1.mode = 0)) = true) ∧
    (∃ c, Ready c (crocked 2 [attached 0 false] 9) (.ckopen 1 2 3 0 false 64) ∧ freeOrDet c ∧
      (heldOf c).any (fun x => decide (x.1.mode ≠ 3)) = true) ∧
    (∃ c, Ready c (crocked 1 [] 8) (.ckopen 1 2 1 0 true 0) ∧ freeOrDet c ∧
      (c.team?.any fun tm => decide (tm.attach? 8 = none)) = true ∧ c.g.sreg 2 = 8 ∧ c.P.crock? 8 = none) ∧
    (∃ c, Ready c (crocked 1 [] 9) (.ckopen 1 2 0 0 false 0) ∧ freeOrDet c ∧
      (c.team?.any fun tm => decide (tm.attach? 9 = none ∧ tm.attaches.all (fun a => a.dir != 4) = true)) = true ∧ c.g.sreg 2 = 9 ∧
      (c.P.crock? 9).any (fun x => decide (x.1 = 4 ∧ Table.get? c.P.run.dir 4 = some x.2 ∧ x.2.state = 1 ∧
        x.2.core.toNat = c.P.coreOf c.gid ∧ x.2.writer = false ∧ x.2.placed = true)) = true) ∧
    (∃ c, Ready c (crocked 2 [attached 1 false] 9) (.ckseal 1 2 0) ∧ freeOrDet c ∧
      (heldOf c).any (fun x => decide (x.1.mode ≠ 0 ∧ x.1.drop = false)) = true ∧ c.g.windows.all Window.done = true ∧
      c.g.count .ld = 0 ∧ c.g.count .cin = 0 ∧ c.g.count .cout = 0 ∧
      (c.team?.any fun tm => decide (tm.commit = none ∧ tm.colander = [] ∧ tm.posted = [])) = true) ∧
    (∀ i ∈ [Instr.ckdrop 2 0, .ckstat 1 2 0], ∃ c, Ready c (crocked 2 [attached 1 false] 9) i ∧
      (heldOf c).any (fun x => decide (x.1.mode ≠ 0 ∧ x.1.drop = false)) = true) ∧
    (∀ i ∈ [Instr.ckseal 1 2 0, .ckdrop 2 0, .ckstat 1 2 0], ∃ c, Ready c (crocked 1 [] 9) i ∧
      (c.team?.any fun tm => decide (tm.attach? (c.g.sreg 2) = none)) = true) ∧
    (∀ i ∈ [Instr.ckseal 1 2 0, .ckdrop 2 0], ∃ c, Ready c (crocked 2 [attached 0 false] 9) i ∧
      (heldOf c).any (fun x => decide (x.1.mode = 0)) = true) ∧
    (∀ i ∈ [Instr.ckseal 1 2 0, .ckdrop 2 0], ∃ c, Ready c (crocked 2 [attached 1 true] 9) i ∧
      (heldOf c).any (fun x => decide (x.1.drop = true)) = true) ∧
    (∃ c, Ready c launched (.ckevict 1 2 3 0) ∧ True) ∧
    (∀ i ∈ [Instr.ckevict 1 2 0 0, .ckevict 1 2 2 0], ∃ c, Ready c (crocked 1 [] 8) i ∧ c.P.crock? (c.g.sreg 2) = none) ∧
    (∀ i ∈ [Instr.ckevict 1 2 0 0, .ckevict 1 2 1 0, .ckevict 1 2 2 0], ∃ c, Ready c (crocked 1 [] 9) i ∧
      (c.P.crock? (c.g.sreg 2)).any (fun x => decide (Table.get? c.P.run.dir x.1 = some x.2 ∧ c.P.backingHeld x.2 = false ∧ x.2.state = 1 ∧
        (c.P.core? x.2.core.toNat).isSome = true)) = true) ∧
    ∃ c, Ready c (crocked 2 [] 9) (.ckevict 1 2 0 0) ∧
      (c.P.crock? (c.g.sreg 2)).any (fun x => decide (Table.get? c.P.run.dir x.1 = some x.2 ∧ c.P.backingHeld x.2 = false ∧ x.2.state ≠ 1)) = true :=
  ⟨shown (by decide +kernel), shown_all (by decide +kernel), shown (by decide +kernel), shown (by decide +kernel),
    shown (by decide +kernel), shown (by decide +kernel), shown (by decide +kernel), shown_all (by decide +kernel),
    shown_all (by decide +kernel), shown_all (by decide +kernel), shown_all (by decide +kernel), shown (by decide +kernel),
    shown_all (by decide +kernel), shown_all (by decide +kernel), shown (by decide +kernel)⟩

/-- Handle 0 names record 0, of 48 units in FMT 0; name 2 is bound to tile 3; `ops` stand in the queue; s1 and s3 hold `x` and
`y`. -/
def engine (ops : List MatrixOp) (x y : Nat) : State := launched |>
  onTeam (fun t => { t with handles := [(0, 0)], tiles := [(2, 3)], accQuota := 4 }) |>
  onCore (fun k => { k with records := [(0, ⟨false, 0, 0, 0, 0, 0, 48⟩)], tiles := [(3, ⟨0, 0, [], []⟩)], matrix := ops }) |>
  onGroup fun g => (g.setS 1 (BitVec.ofNat 64 x)).setS 3 (BitVec.ofNat 64 y)

def tileB (c : Ctx) (t : BitVec 3) (phys : Nat) (x : Tile) (others : Bool) : Bool :=
  (c.team?.any fun u => decide (t.toNat < u.accQuota ∧ Table.get? u.tiles t.toNat = some phys)) &&
    decide (c.tileBusy phys t others = none) && decide (c.tile? phys = some x)

theorem shown_tile {s : State} {l : List Instr} {t : BitVec 3} {phys : Nat} {x : Tile} {others : Bool} {P : Instr → Ctx → Prop}
    [∀ i, DecidablePred (P i)] (h : (l.all fun i => seen s i fun c => tileB c t phys x others && decide (P i c)) = true) :
    ∀ i ∈ l, ∃ c, Ready c s i ∧ TileFree c t phys x others ∧ P i c := by
  intro i hi
  obtain ⟨c, hc, h⟩ := ready_of (List.all_eq_true.mp h i hi)
  simp only [tileB, Bool.and_eq_true, decide_eq_true_eq] at h
  obtain ⟨⟨⟨h1, h2⟩, h3⟩, h4⟩ := h
  refine ⟨c, hc, ⟨?_, h2, h3⟩, h4⟩
  cases ht : c.team? with
  | none => rw [ht] at h1; cases h1
  | some u =>
    rw [ht] at h1
    exact ⟨u, rfl, by simpa using h1⟩

/-- A fill and a step that are under way. -/
def fillOp : MatrixOp := ⟨7, loadedGroup, .fill [(0, 0, 32)], none, [(0, 32)], 0, false⟩
def stepOp : MatrixOp := ⟨8, loadedGroup, .steps ⟨0, 0, 1⟩ ⟨0, 0, 1⟩ 0 0 1, some (3, 2), [], 1, false⟩

/-- Batches up to `closed` are closed and up to `complete` complete; s1 holds `x`. -/
def batched (closed complete x : Nat) : State := launched |>
  onGroup fun g => { g.setS 1 (BitVec.ofNat 64 x) with closed := closed, complete := complete }

/-- The distance of the batch that s1 names from the last closed one. -/
def ageOf (c : Ctx) : Nat := (BitVec.ofNat 16 c.g.closed - (c.g.sreg 1).extractLsb' 0 16).toNat

theorem witness_ReservationTileAndBatchInstructions :
    (∃ c, Ready c (launched |> onGroup fun g => g.setS 2 (64 <<< 21)) (.obres 1 2 0) ∧ badReservation (c.g.sreg 2) = false ∧
      (c.team?.any fun tm => decide (c.quotaTrap tm ((c.g.sreg 2).extractLsb' 10 11).toNat ((c.g.sreg 2).extractLsb' 21 12).toNat = none ∧
        0 < tm.recQuota ∧ Table.get? tm.handles 0 = none ∧
        ((c.P.core? tm.core).any fun k => decide (Table.get? k.records 0 = none)) = true)) = true) ∧
    (∃ c, Ready c (engine [] 0 0 |> onGroup fun g => g.setS 2 ((16 <<< 21) + (48 <<< 10))) (.obres 1 2 0) ∧
      badReservation (c.g.sreg 2) = false ∧
      (c.team?.any fun tm => decide (c.quotaTrap tm ((c.g.sreg 2).extractLsb' 10 11).toNat ((c.g.sreg 2).extractLsb' 21 12).toNat = none ∧
        1 < tm.recQuota ∧ Table.get? tm.handles 1 = none ∧ (Table.get? tm.handles 0).isSome = true ∧
        ((c.P.core? tm.core).any fun k => decide (Table.get? k.records 1 = none ∧ (Table.get? k.records 0).isSome = true)) = true)) = true) ∧
    (∃ c, Ready c (engine [] 0 15) (.obrel 3 0) ∧ (c.g.sreg 3).toNat = 15 ∧ c.reservation 15 = none) ∧
    (∃ c, Ready c (engine [] 0 0) (.obrel 3 0) ∧ (c.g.sreg 3).toNat = 0 ∧
      c.team?.any (fun tm => decide (Table.get? tm.handles 0 = some 0)) = true ∧
      (c.reservation 0).any (fun r => decide (∀ m ∈ c.matrixOps, m.meets [(r.base.toNat * 256, r.len.toNat * 256)] = false)) = true) ∧
    (∀ i ∈ [Instr.acfg 1 0 0 2, .acfg 1 1 0 2, .azero 0 2, .arel 0 2],
      ∃ c, Ready c (engine [] 5 0) i ∧ TileFree c 2 3 ⟨0, 0, [], []⟩ false ∧ True) ∧
    (∃ c, Ready c (engine [] 0 0) (.arel 0 3) ∧ (c.team?.any fun tm => decide (3 < tm.accQuota ∧ Table.get? tm.tiles 3 = none)) = true) ∧
    (∀ i ∈ [Instr.acfg 1 0 0 4, .acfg 1 1 0 4, .azero 0 4, .arel 0 4],
      ∃ c, Ready c (engine [] 0 0) i ∧ (c.team?.any fun tm => decide (tm.accQuota ≤ 4)) = true) ∧
    (∀ i ∈ [Instr.mfence 1 0, .srseed 1], ∃ c, Ready c launched i ∧ True) ∧
    (∀ i ∈ [Instr.mwait 1, .nanc 2 1], ∃ c, Ready c (batched 0 0 1) i ∧ 2 ^ 15 ≤ ageOf c) ∧
    (∀ i ∈ [Instr.mwait 1, .nanc 2 1], ∃ c, Ready c (batched 20 20 5) i ∧ ageOf c = 15 ∧ c.g.closed - ageOf c ≤ c.g.complete) ∧
    (∀ i ∈ [Instr.nanc 2 1], ∃ c, Ready c (batched 20 20 4) i ∧ 16 ≤ ageOf c ∧ ageOf c < 2 ^ 15) ∧
    (∀ i ∈ [Instr.mwait 1], ∃ c, Ready c (batched 1 0 1) i ∧ ageOf c < 2 ^ 15 ∧ c.g.complete < c.g.closed - ageOf c) ∧
    (∃ c, Ready c (engine [stepOp] 0 0) .mrdy ∧ ∀ m ∈ c.matrixOps, m.gid = c.gid → m.bno ≠ 0) ∧
    ∃ c, Ready c (engine [fillOp] 0 0) .mrdy ∧ ∃ m ∈ c.matrixOps, m.gid = c.gid ∧ m.bno = 0 :=
  ⟨shown (by decide +kernel), shown (by decide +kernel), shown (by decide +kernel), shown (by decide +kernel),
    shown_tile (by decide +kernel), shown (by decide +kernel), shown_all (by decide +kernel), shown_all (by decide +kernel),
    shown_all (by decide +kernel), shown_all (by decide +kernel), shown_all (by decide +kernel), shown_all (by decide +kernel),
    shown (by decide +kernel), shown (by decide +kernel)⟩

abbrev room (c : Ctx) : Prop := (c.matrixOps.filter fun m => m.gid == c.gid && !m.done).length < 64

/-- `obld` of 32 bytes from 0x40 to offset 0x20 of handle 0; `gath` and `mstep` from block 0 with stride 1; `mloop` twice; `asave` and
`aload` of row 127. -/
theorem witness_MatrixOperationsEnterTheQueue :
    (∃ c, Ready c (engine [] (32 * 2 ^ 32 + 32 * 2 ^ 8) 0x40) (.obld 1 3 0) ∧ room c ∧ (c.g.sreg 3).toNat = 0x40 ∧
      (c.g.sreg 1).extractLsb' 4 4 = 0 ∧ (c.g.sreg 1).extractLsb' 27 5 = 0 ∧ (c.g.sreg 1).extractLsb' 52 12 = 0 ∧
      ((c.g.sreg 1).extractLsb' 32 20).toNat = 32 ∧ ((c.g.sreg 1).extractLsb' 8 19).toNat = 32 ∧
      ((c.g.sreg 1).extractLsb' 0 4).toNat = 0 ∧ (c.reservation 0).any (fun r => decide (32 + 32 ≤ r.len.toNat * 256 ∧ r.base = 0)) = true ∧
      c.padError false 0 0x40 32 0 = none ∧ c.rangeBusy [(32, 32)] 0 true = none ∧ (c.P.core? (c.P.coreOf c.gid)).isSome = true) ∧
    (∃ c, Ready c (engine [] (2 ^ 20) (32 * 2 ^ 20 + 64)) (.gath 1 3 0 8) ∧ room c ∧ badPointer (c.g.sreg 1) false = false ∧
      (c.g.sreg 3).extractLsb' 36 28 = 0 ∧ ((c.g.sreg 3).extractLsb' 0 20).toNat = 64 ∧ ((c.g.sreg 3).extractLsb' 20 16).toNat = 32 ∧
      (c.reservation 0).any (fun r => decide (r.blen = 0 ∧ r.outside 0 1 = none ∧ c.rangeBusy (r.footprint 0 1) 0 true = none)) = true ∧
      (∀ j < 128, c.padError false 0
        (64 + ((c.g.vreg (8 + j / 64) (j / 2 % 32)).toNat / 2 ^ (16 * (j % 2)) % 2 ^ 16) * 32) 96 0 = none) ∧
      (c.P.core? (c.P.coreOf c.gid)).isSome = true) ∧
    (∀ i ∈ [Instr.mstep 1 3 0 2], ∃ c, Ready c (engine [] (2 ^ 20) (2 ^ 20)) i ∧ TileFree c 2 3 ⟨0, 0, [], []⟩ true ∧ room c ∧
      badPointer (c.g.sreg 1) false = false ∧ badPointer (c.g.sreg 3) false = false ∧ pointerOf (c.g.sreg 1) = ⟨0, 0, 1⟩ ∧
      (c.reservation 0).any (fun r => decide (pairAllowed r.fmt.toNat r.fmt.toNat = true ∧ r.outside 0 1 = none ∧
        c.rangeBusy (r.footprint 0 1) 0 false = none)) = true) ∧
    (∀ i ∈ [Instr.mloop 1 3 0 2], ∃ c, Ready c (engine [] (2 ^ 49 + 2 ^ 20) (2 ^ 20)) i ∧ TileFree c 2 3 ⟨0, 0, [], []⟩ true ∧ room c ∧
      badPointer (c.g.sreg 1) true = false ∧ badPointer (c.g.sreg 3) false = false ∧ pointerOf (c.g.sreg 1) = ⟨0, 0, 1⟩ ∧
      pointerOf (c.g.sreg 3) = ⟨0, 0, 1⟩ ∧ ((c.g.sreg 1).extractLsb' 48 16).toNat = 2 ∧ (c.g.sreg 2).toInt = 0 ∧ (c.g.sreg 4).toInt = 0 ∧
      (c.reservation 0).any (fun r => decide (pairAllowed r.fmt.toNat r.fmt.toNat = true ∧ r.outside 0 1 = none ∧
        c.rangeBusy (r.footprint 0 1 ++ r.footprint 0 1) 0 false = none)) = true) ∧
    ∀ i ∈ [Instr.asave 1 3 0 2, .aload 1 3 0 2], ∃ c, Ready c (engine [] 127 0x10) i ∧ TileFree c 2 3 ⟨0, 0, [], []⟩ true ∧ room c ∧
      (c.g.sreg 1).toNat = 127 ∧ (c.g.sreg 3).toNat = 0x10 ∧ ∀ order < 3, c.padError true order 0x10 1408 0 = none ∧
      c.padError false order 0x10 1408 0 = none :=
  ⟨shown (by decide +kernel), shown (by decide +kernel), shown_tile (by decide +kernel), shown_tile (by decide +kernel),
    shown_tile (by decide +kernel)⟩

/-- The engine's state under another TYPE. -/
def engineTyped (t : Nat) : State := engine [] 0 0 |> onGroup fun g => { g with mode := BitVec.ofNat 24 t }

theorem witness_AccumulatorReadWriteAndScale :
    (∀ i ∈ [Instr.ard 4 2 127 0 12, .awr 4 2 0 0 0], ∃ c, Ready c (engineTyped 8) i ∧ TileFree c 2 3 ⟨0, 0, [], []⟩ false ∧
      (Ty.ofCode c.g.ty).any (fun ty => decide (8 * 12 + 32 * ty.n ≤ 128)) = true) ∧
    (∀ i ∈ [Instr.ard 4 2 5 0 0, .awr 4 2 5 0 0], ∃ c, Ready c (engineTyped 5) i ∧ TileFree c 2 3 ⟨0, 0, [], []⟩ false ∧
      (Ty.ofCode c.g.ty).any (fun ty => decide (8 * 0 + 32 * ty.n ≤ 128)) = true) ∧
    ∀ i ∈ [Instr.ascal 4 2 96 0, .ascal 4 2 0 0], ∃ c, Ready c (engineTyped 8) i ∧ TileFree c 2 3 ⟨0, 0, [], []⟩ false ∧
      (Ty.ofCode c.g.ty).isSome = true ∧ c.g.ty ∈ [8, 9] :=
  ⟨shown_tile (by decide +kernel), shown_tile (by decide +kernel), shown_tile (by decide +kernel)⟩

/-! ### Witnesses: sends and the whisk -/

/-- s1 and s3 hold `x` and `y`. -/
def scalars13 (x y : Nat) : State := launched |> onGroup fun g => (g.setS 1 (BitVec.ofNat 64 x)).setS 3 (BitVec.ofNat 64 y)

/-- The counter at 0x40 of the scratchpad holds `v`. -/
def counting (x v : Nat) : State := scalars13 x 0x40 |> onCore fun k => k.poke 0x40 (leBytes 8 v)

abbrev counterOk (c : Ctx) : Prop :=
  (c.g.sreg 1).toNat < 2 ^ 63 ∧ (c.g.sreg 3).toNat = 0x40 ∧ c.reach 0 = .own 1

theorem witness_SendsAndTheirCounters :
    (∀ i ∈ [Instr.sendr 4 2 0 1 0, .sendr 4 2 0 1 2], ∃ c, Ready c launched i ∧ isWhisk c.gid = false ∧
      c.cwordTrap (c.g.sreg 1) false = none ∧ (∀ l ∈ c.g.actives, (c.g.vreg 2 l).toNat % 2 ^ 20 % 16 = 0) ∧ c.g.count .snd < 255) ∧
    (∃ c, Ready c (scalars13 (127 * 2 ^ 40 + 32 * 2 ^ 20) 8) (.sendb 1 3 0 0) ∧ isWhisk c.gid = false ∧
      (c.g.sreg 1).extractLsb' 52 12 = 0 ∧ c.cwordTrap (c.g.sreg 3) false = none ∧ ((c.g.sreg 1).extractLsb' 20 20).toNat = 32 ∧
      ((c.g.sreg 1).extractLsb' 0 20).toNat = 0 ∧ ((c.g.sreg 1).extractLsb' 40 12).toNat + 1 = 128 ∧
      c.padError false 0 0 (32 * 128) 0 = none ∧ c.g.count .snd < 255) ∧
    (∀ i ∈ [Instr.sendb 1 3 2 0, .sendb 1 3 3 0], ∃ c, Ready c launched i ∧ isWhisk c.gid = false) ∧
    (∃ c, Ready c (counting 9 0) (.cset 1 3) ∧ counterOk c) ∧
    (∃ c, Ready c (counting 9 (2 ^ 63)) (.cwait 1 3) ∧ counterOk c ∧ ((c.P.core? (c.P.coreOf c.gid)).any fun k => decide
      (k.spoison = [] ∧ leNat (Cells.getMany 0 k.scratch 0x40 8) = 2 ^ 63)) = true) ∧
    (∃ c, Ready c (counting 9 9) (.cwait 1 3) ∧ counterOk c ∧ ((c.P.core? (c.P.coreOf c.gid)).any fun k => decide
      (k.spoison = [] ∧ leNat (Cells.getMany 0 k.scratch 0x40 8) = 9)) = true) ∧
    ∃ c, Ready c (counting 9 8) (.cwait 1 3) ∧ counterOk c ∧ ((c.P.core? (c.P.coreOf c.gid)).any fun k => decide
      (k.spoison = [] ∧ leNat (Cells.getMany 0 k.scratch 0x40 8) = 8)) = true :=
  ⟨shown_all (by decide +kernel), shown (by decide +kernel), shown_all (by decide +kernel), shown (by decide +kernel),
    shown (by decide +kernel), shown (by decide +kernel), shown (by decide +kernel)⟩

theorem shown_objects {s : State} {l : List Instr} {a : VReg} {P : Instr → Ctx → Prop} [∀ i, DecidablePred (P i)]
    (h : (l.all fun i => seen s i fun c => mapsB c .whisk (objects c a) && decide (P i c)) = true) :
    ∀ i ∈ l, ∃ c, Ready c s i ∧ Maps c .whisk (objects c a) ∧ P i c := by
  intro i hi
  obtain ⟨c, hc, h⟩ := ready_of (List.all_eq_true.mp h i hi)
  simp only [Bool.and_eq_true, decide_eq_true_eq] at h
  exact ⟨c, hc, maps_of h.1, h.2⟩

theorem witness_CombinerRequestsLeave :
    (∀ i ∈ [Instr.wcall 8 2 0 0 12, .wcall 8 2 0 1 12, .wcall 8 2 0 2 0], ∃ c, Ready c launched i ∧ Maps c .whisk (objects c 2) ∧
      isWhisk c.gid = false ∧ (c.team?.any fun tm => decide (tm.commit = none ∧ tm.colander = [] ∧ tm.posted = [])) = true ∧
      (c.P.mode = 0 ∨ c.P.mode = 1) ∧ c.g.count .ld = 0 ∧ c.g.count .cin = 0 ∧ c.g.count .cout = 0 ∧ c.g.count .wcl < 255 ∧
      objects c 2 ≠ []) ∧
    (∀ i ∈ [Instr.wcall 8 2 0 0 12], ∃ c, Ready c noLane i ∧ Maps c .whisk (objects c 2) ∧ isWhisk c.gid = false ∧
      (c.team?.any fun tm => decide (tm.commit = none ∧ tm.colander = [] ∧ tm.posted = [])) = true ∧ objects c 2 = []) ∧
    ∀ i ∈ [Instr.wpost 2 0 0 12, .wpost 2 0 1 12, .wpost 2 0 2 0], ∃ c, Ready c launched i ∧ Maps c .whisk (objects c 2) ∧
      isWhisk c.gid = false ∧
      (c.team?.any fun tm => decide (tm.colander.length + (tm.posted.length + (objects c 2).length + 7) / 8 ≤ tm.quota)) = true :=
  ⟨shown_objects (by decide +kernel), shown_objects (by decide +kernel), shown_objects (by decide +kernel)⟩

/-- A request of the loaded team's lane 0 to the object at 0x100, of operation 7, in a place; and a batch of it. -/
def request (place : WhiskWhere) : WhiskReq := ⟨0x100, 0x4000100, 0, 5, 0, 0, loadedTeam, 5, 7, 3, place⟩
def batch : Batch := ⟨0x100, 0x4000100, 0, [3], 17, 1⟩

/-- The whisk group of core 5 has the batch open, in a phase of the dispatcher. -/
def serving (wait : Option Wait) (phase : WhiskPhase) : State := method |>
  onRun (fun r => { r with whisks := [(3, request (.batch 5))] }) |>
  onHome fun h => { h with batch := some batch, phase := phase, grp := { h.grp with wait := wait, em := 1 } }

/-- Its home in a context. -/
def homeOf (c : Ctx) : Option Home := Table.get? c.P.run.homes c.gid

theorem witness_WhiskGroupInstructions :
    (∃ c, (serving (some .take) .loop).issuer = some c ∧ isWhisk c.gid = true ∧ c.g.stage = .fresh ∧ c.g.windows = [] ∧
      c.g.held = [] ∧ c.g.poisons issueWords = false ∧ c.checkUses (.wtake 1) = none ∧
      c.consumes (.wtake 1) = false ∧ c.g.wait = some .take ∧
      ((homeOf c).any fun h => h.batch.any fun b => decide (b.reqs.length ≤ 32 ∧ c.P.batchReqs b ≠ [])) = true) ∧
    (∃ c, Ready c method (.wtake 1) ∧ isWhisk c.gid = true ∧ (homeOf c).any (fun h => decide (h.batch = none)) = true) ∧
    (∃ c, Ready c (serving none .user) (.wreply (own 2)) ∧ isWhisk c.gid = true ∧
      ((homeOf c).any fun h => h.batch.any fun b => decide (b.pa % 64 = 0 ∧ b.reqs.Nodup ∧ c.s.portDown b.pa = false ∧
        c.P.batchReqs b ≠ [] ∧
        ({ c.g with em := BitVec.ofNat 32 (2 ^ b.reqs.length - 1), mode := 0 } : Group).checkRegs c.n
          [use (own 2) (if b.width = 1 then 2 else 1) 1] = none ∧
        ({ c.g with em := BitVec.ofNat 32 (2 ^ b.reqs.length - 1), mode := 0 } : Group).poisonedUse
          [use (own 2) (if b.width = 1 then 2 else 1) 1] = false)) = true ∧
      c.peekPoison windowAddr 56 = false ∧ c.P.sieve.snapshot = none ∧ (c.P.core? (c.P.coreOf c.gid)).isSome = true) ∧
    (∃ c, Ready c (serving none .user) (.wfail 9) ∧ isWhisk c.gid = true ∧ c.P.sieve.snapshot = none ∧
      ((homeOf c).any fun h => h.batch.any fun b => decide (b.pa % 64 = 0 ∧ c.s.portDown b.pa = false ∧ c.P.batchReqs b ≠ [])) = true) ∧
    (∀ i ∈ [Instr.wtake 1, .wreply (own 2), .wfail 9], ∃ c, Ready c launched i ∧ isWhisk c.gid = false) ∧
    (∀ i ∈ [Instr.wscan 2 (own 4) 7], ∃ c, Ready c (typed 3) i ∧ c.g.ty ∈ [0, 1, 2, 3] ∧ (Ty.ofCode c.g.ty).isSome = true) ∧
    (∀ i ∈ [Instr.wscan 2 (own 4) 2], ∃ c, Ready c (typed 9) i ∧ c.g.ty ∈ [8, 9] ∧ (Ty.ofCode c.g.ty).isSome = true) := by
  refine ⟨any_of (by decide +kernel), shown (by decide +kernel), shown (by decide +kernel), shown (by decide +kernel),
    shown_all (by decide +kernel), shown_all (by decide +kernel), ?_⟩
  intro i hi
  obtain rfl : i = .wscan 2 (own 4) 2 := by simpa using hi
  exact shown (by decide +kernel)
/-! ### Witnesses: the events of cores, slices, homes and engines -/

/-- Operation 7 of the loaded group is `op`, and `lines` are its requests. -/
def flying (op : Op) (lines : Table LineReq) : State := launched |> onRun fun r => { r with ops := [(7, op)], lines := lines }

/-- Lane 3 has loaded four bytes; the scalar load has its eight. -/
def lane3 : LaneLoad := ⟨3, 0x10, [(0, 1), (1, 2), (2, 3), (3, 4)], false⟩
def vectorLoad : Op := .load loadedGroup 4 4 false [lane3]
def scalarLoad : Op := .load loadedGroup 31 8 true [⟨0, 0x10, [], false⟩]

/-- A request of lane 3 to line 0x800 of operation 7. -/
def lineReq (kind : LineKind) (obs : Bool) : LineReq := ⟨loadedTeam, loadedGroup, 5, [3], 3, false, 0, 0x80000, obs, kind, 7, false⟩

abbrev isLoad (P : Part) (x : Op) : Prop := Table.get? P.run.ops 7 = some x ∧ (P.group? loadedGroup).isSome = true

/-- A copy of one sector, all of whose bytes have come, and of two sectors; a copy out of one line. -/
def copyInOp (n : Nat) : Op :=
  .copyIn loadedGroup none [] [(0x40, 5), (0x41, 6)] ((2, [0x40, 0x41]) :: List.replicate n (3, [0x60])) none
def copyOutLine : CopyLine := ⟨0x80, some (0x80000, false), [(0, 0x40), (1, 0x41)]⟩
def copyOutOp (n : Nat) : Op := .copyOut loadedGroup false (copyOutLine :: List.replicate n copyOutLine) [(0x40, 5), (0x41, 6)] none

theorem witness_MemoryEventsHappen :
    ([lane3, ⟨0, 0x10, [], false⟩].all fun l => l.lane < 32 && !l.poison) = true ∧
    (∃ P, (flying vectorLoad []).part? 0 = some P ∧ isLoad P vectorLoad ∧ P.run.sights = [] ∧
      P.run.lines.all (fun e => e.2.op != 7) = true) ∧
    (∃ P, (flying scalarLoad []).part? 0 = some P ∧ isLoad P scalarLoad ∧ P.run.sights = [] ∧
      P.run.lines.all (fun e => e.2.op != 7) = true) ∧
    (∃ P, (flying vectorLoad [(9, lineReq (.read [(0, 48)]) false)]).part? 0 = some P ∧ isLoad P vectorLoad ∧
      Table.get? P.run.lines 9 = some (lineReq (.read [(0, 48)]) false) ∧ P.lineFree 9 (lineReq (.read [(0, 48)]) false) = true ∧
      (flying vectorLoad [(9, lineReq (.read [(0, 48)]) false)]).poisoned (0x80000 * 128) = false ∧ launched.late = []) ∧
    ((([⟨1, 0x80000, List.replicate 128 7, none, [5], [5, 6]⟩] : List Late).find? fun w =>
      w.pline == 0x80000 && w.unseen.contains (lineReq (.read [(0, 48)]) false).core).isSome = true) ∧
    (∃ P, (flying vectorLoad [(9, lineReq (.read [(0, 48)]) true)]).part? 0 = some P ∧ isLoad P vectorLoad ∧
      P.lineFree 9 (lineReq (.read [(0, 48)]) true) = true ∧ (P.mode = 0 ∨ P.mode = 1)) ∧
    (∃ P, (flying vectorLoad [(9, lineReq (.write [(0, 5), (9, 6)] []) false)]).part? 0 = some P ∧
      Table.get? P.run.lines 9 = some (lineReq (.write [(0, 5), (9, 6)] []) false) ∧
      P.lineFree 9 (lineReq (.write [(0, 5), (9, 6)] []) false) = true ∧ P.sieve.snapshot = none ∧
      launched.portDown (0x80000 * 128) = false) ∧
    (∃ P, (flying (.probe loadedGroup [0x80000] [0, 5]) []).part? 0 = some P ∧
      Table.get? P.run.ops 7 = some (.probe loadedGroup [0x80000] [0, 5]) ∧ P.probed 5 [0x80000] = [] ∧
      P.run.teams.all (fun e => e.2.commit.isNone) = true) ∧
    (∀ n ∈ [0, 1], ∃ c, (flying (copyInOp n) []).ctx? 0 loadedGroup = some c ∧ Table.get? c.P.run.ops 7 = some (copyInOp n) ∧
      c.reach 0 = .own 1 ∧ (coreOfGroup c.P loadedGroup).any (fun k => decide (k.cpoison = [])) = true) ∧
    ∀ n ∈ [0, 1], ∃ c, (flying (copyOutOp n) []).ctx? 0 loadedGroup = some c ∧ Table.get? c.P.run.ops 7 = some (copyOutOp n) ∧
      c.P.outEarlier loadedGroup 7 copyOutLine = false ∧ (c.team?.any fun tm => decide (tm.used < tm.quota ∧ ∀ l ∈ tm.colander, ∀ d ∈ l.poison, d < 16)) = true ∧
        (copyOutLine.pairs.map Prod.fst).Nodup := by
  refine ⟨by decide, any_of (by decide +kernel), any_of (by decide +kernel), any_of (by decide +kernel), by decide, any_of (by decide +kernel),
    any_of (by decide +kernel), any_of (by decide +kernel), ?_, ?_⟩ <;>
  · intro n hn
    obtain rfl | rfl : n = 0 ∨ n = 1 := by simpa using hn
    · exact any_of (by decide +kernel)
    · exact any_of (by decide +kernel)

/-- A send to the team itself, whose counter word names 0x80; with a piece to land, or with none. -/
def sendOp (pieces : List (Nat × List Byte)) : Op := .send loadedGroup false false 0x80 pieces 0 0 0 false none
/-- One that another device has acknowledged. -/
def remoteOp : Op := .send loadedGroup false true 0x80 [] 0 0 0 true none

abbrev sends (pieces : List (Nat × List Byte)) (c : Ctx) : Prop :=
  Table.get? c.P.run.ops 7 = some (sendOp pieces) ∧ c.P.sendFirst loadedGroup 7 false 0x80 = true ∧
    c.P.receiver loadedGroup false 0x80 = some loadedTeam ∧ c.reach 0 = .own 1

/-- A combiner request on its way, in the queue of core 5 whose whisk group waits, or answered; the object is of class 1. -/
def whisked (w : WhiskReq) (queue : List Nat) : State := launched |>
  onRun (fun r => { r with whisks := [(3, w)], ops := [(7, .call loadedGroup 8 1 [5] none)] }) |>
  onHome (fun h => { h with queue := queue, grp := { h.grp with wait := some .take } }) |> fun s => s.storeNum 0x400013E 2 1

theorem witness_SendAndCombinerEventsHappen :
    isWhisk loadedGroup = false ∧ loadedTeam * 32 = loadedGroup ∧
    (∃ c, (flying (sendOp [(0x40, [1, 2])]) []).ctx? 0 loadedGroup = some c ∧ sends [(0x40, [1, 2])] c ∧
      c.landingFails 0x40 2 = none ∧ (coreOfGroup c.P loadedGroup).any (fun k => decide (k.cpoison = [])) = true) ∧
    (∃ c, (flying (sendOp []) []).ctx? 0 loadedGroup = some c ∧ sends [] c ∧
      ((coreOfGroup c.P loadedGroup).any fun k => decide (k.spoison = [] ∧ k.cpoison = [])) = true) ∧
    (∃ P, (flying remoteOp []).part? 0 = some P ∧ Table.get? P.run.ops 7 = some remoteOp ∧ (P.group? loadedGroup).isSome = true ∧
      P.sendFirst loadedGroup 7 true 0x80 = true) ∧
    (∃ P, (whisked (request .travelling) []).part? 0 = some P ∧ Table.get? P.run.whisks 3 = some (request .travelling) ∧
      P.together 3 (request .travelling) = [(3, request .travelling)] ∧ P.run.whisks = [(3, request .travelling)] ∧
      P.lineHeld 0x4000100 = false ∧
      (P.homeOf 0x4000100).any (fun core => (Table.get? P.run.homes core).any fun h => decide (h.queue.length < 1024)) = true ∧
      (whisked (request .travelling) []).poisoned (0x4000100 + 56) = false ∧
      (whisked (request .travelling) []).atOnce P (request .travelling) = none ∧ (P.mode = 0 ∨ P.mode = 1)) ∧
    (∃ P, (whisked (request (.queued 5)) [3]).part? 0 = some P ∧ (P.core? 5).isSome = true ∧ P.freezing = false ∧ P.frozen = false ∧
      launched.paused = false ∧ (P.mode = 0 ∨ P.mode = 1) ∧ (whisked (request (.queued 5)) [3]).atOnce P (request (.queued 5)) = none ∧
      ((Table.get? P.run.homes 5).any fun h => decide (h.batch = none ∧ h.grp.wait = some .take ∧
        P.nextBatch (whisked (request (.queued 5)) [3]) h = [(3, request (.queued 5))])) = true ∧
      ∀ j < 64, (whisked (request (.queued 5)) [3]).poisoned (0x4000100 + j) = false) ∧
    ∃ P, (whisked (request (.answered 77 none)) []).part? 0 = some P ∧
      Table.get? P.run.whisks 3 = some (request (.answered 77 none)) ∧
      Table.get? P.run.ops 7 = some (.call loadedGroup 8 1 [5] none) ∧ (P.group? loadedGroup).isSome = true :=
  ⟨by decide, by decide, any_of (by decide +kernel), any_of (by decide +kernel), any_of (by decide +kernel),
    any_of (by decide +kernel), any_of (by decide +kernel), any_of (by decide +kernel)⟩

theorem witness_MatrixEngineEventsHappen :
    (∃ c, (engine [stepOp] 0 0).ctx? 0 loadedGroup = some c ∧ c.P.coreOf loadedGroup = 0 ∧
      (c.P.core? 0).any (fun k => decide (nextMatrix k.matrix = some stepOp ∧ (Table.get? k.tiles 3).any (fun x => decide (x.poison = [])) = true ∧
        k.opoison = [] ∧ k.cpoison = [] ∧ (k.matrix.map MatrixOp.id).Nodup)) = true ∧ (c.reservation 0).isSome = true) ∧
    ∃ c, (engine [fillOp] 0 0).ctx? 0 loadedGroup = some c ∧
      (coreOfGroup c.P loadedGroup).any (fun k => decide ((k.matrix.find? fun o => o.id == 7) = some fillOp ∧
        ((c.P.run.cores.map fun e => e.2.matrix).find? fun l => l.any fun o => o.id == 7) = some k.matrix ∧
        (k.matrix.map MatrixOp.id).Nodup ∧ matrixReady k.matrix fillOp = true)) = true ∧
      c.peekPoison 0 32 = false ∧ (c.peek 0 32).length = 32 :=
  ⟨any_of (by decide +kernel), any_of (by decide +kernel)⟩

/-- A zero cell takes a finite term, and an infinite one. -/
theorem witness_CompensatedAdditionKeepsTheRest :
    (let s := (0 : Cell88).sVal
     s.isNan = false ∧ s.isInf = false ∧ (FVal.fin false 3 0).isNan = false ∧ (FVal.fin false 3 0).isInf = false ∧
      (unpack a56 (rnSum a56 [s, .fin false 3 0])).isInf = false) ∧ (FVal.inf true).isInf = true := by
  decide +kernel

/-! ### Witnesses: the dispatcher, the gates and the sieve -/

/-- A second launch of one team has its cluster to place. -/
def waitingLaunch : Launch := { loadedLaunch with slotQuota := 4 , unitQuota := 16, next := 0 }
def toPlace : State := launched |> onRun fun r => { r with launches := r.launches ++ [(2, waitingLaunch)] }

/-- The loaded team has ended. -/
def ended (lines : List ColLine) : State := launched |> onTeam fun t => { t with ended := some (0, 0x100000), colander := lines }

/-- Queue 2, its completion ring at 0x4200000, of 16 packets. -/
def queue2 : Queue := ⟨0x8000000004300000, 16, 1, 0x4200000, 0, false, false⟩
def withQueue (x : Queue) : State → State := onPart fun P => { P with queues := [(2, x)] }

/-- Launch 1 has been reported whole. -/
def reported : State := launched |> withQueue queue2 |>
  onRun fun r => { r with teams := [], clusters := [], launches := [(1, { loadedLaunch with queue := 2, reported := 1, notify := true })] }

/-- A crock is being moved to core 0. -/
def moving : State := launched |>
  onRun fun r => { r with dir := [(4, ⟨9, 1, 0x4000, 1, 16, 0, 4, false, 0, false, 0, none, [], true⟩)] }

theorem witness_DispatcherEventsHappen :
    (∃ P, toPlace.part? 0 = some P ∧ P.draining = false ∧ P.freezing = false ∧ P.frozen = false ∧ toPlace.stopped = [] ∧
      P.nextRelaunch = none ∧ P.nextLaunch = some (2, waitingLaunch) ∧ Table.get? P.run.launches 2 = some waitingLaunch ∧
      waitingLaunch.coresident = false ∧ waitingLaunch.mode.isSome = true ∧ P.mayPlace 2 waitingLaunch = true ∧
      toPlace.energyAllows P = true ∧ P.otherMode waitingLaunch = false ∧ ((⟨toPlace, []⟩ : Trial).place 0 waitingLaunch 2 0 []).any (fun t => decide (t.moves = [] ∧
        (t.s.part? 0).any (fun Q => decide (newAttaches P Q = [] ∧ Table.get? Q.run.launches 2 = some waitingLaunch)) = true)) = true) ∧
    (0 < loadedLaunch.clusters ∧ 0 < loadedLaunch.kernel.width * loadedLaunch.kernel.height ∧ 0 < loadedLaunch.cx ∧ 0 < loadedLaunch.cy ∧
      0 < loadedLaunch.kernel.team) ∧
    (∃ P, (ended []).part? 0 = some P ∧ P.mode = 0 ∧ (P.team? loadedTeam).any (fun t => decide (t.ended.isSome = true ∧ t.commit = none ∧
      t.colander = [] ∧ t.posted = [] ∧ t.attaches = [] ∧ t.staged = [])) = true) ∧
    (∃ P, (ended [⟨0x80, 0x80000, false, [(0, 5)], []⟩]).part? 0 = some P ∧ P.mode = 0 ∧
      (P.team? loadedTeam).any (fun t => decide (t.ended.isSome = true ∧ t.commit = none ∧ t.colander ≠ [])) = true) ∧
    (∃ P, reported.part? 0 = some P ∧ (P.mode = 0 ∨ P.mode = 1) ∧ Table.get? P.queues 2 = some queue2 ∧
      ((P.run.launches.map fun e => (e.1, e.2.report)).find? P.launchOver).any (fun e => decide (e.2.queue = 2) &&
        !reported.entryHeld P 2 e.2.cons && !reported.portDown (0x4200000 + (e.2.cons - 1).toNat % 16 * 16)) = true) ∧
    (∃ P, moving.part? 0 = some P ∧ ((P.run.dir.find? fun e => e.2.name == 9 && e.2.state == 4).any fun e =>
      (P.core? e.2.core.toNat).isSome && !P.backingHeld e.2) = true) ∧
    (∃ P, (launched |> onPart fun P => { P with fire := 1 }).part? 0 = some P ∧ P.freezing = false ∧ P.frozen = false ∧ P.fire ≠ 0) ∧
    (∃ P, (launched |> onPart fun P => { P with ret := 1 }).part? 0 = some P ∧ P.freezing = false ∧ P.frozen = false ∧ P.ret ≠ 0) ∧
    (∃ P, (launched |> onRun fun r => { r with teams := [] }).part? 0 = some P ∧ P.freezing = false ∧ P.frozen = false ∧ P.run.teams = []) ∧
    ∃ P, (launched |> onPart fun P => { P with regs := { P.regs with egg := 100 } }).part? 0 = some P ∧ P.freezing = false ∧
      P.frozen = false ∧ P.regs.egg.getLsbD 63 = false :=
  ⟨any_of (by decide +kernel), by decide, any_of (by decide +kernel), any_of (by decide +kernel), any_of (by decide +kernel),
    any_of (by decide +kernel), any_of (by decide +kernel), any_of (by decide +kernel), any_of (by decide +kernel),
    any_of (by decide +kernel)⟩

/-- A request to the observed line 0x80000 is held, under a mode, and its load is in flight. -/
def gated (mode : BitVec 3) : State := flying vectorLoad [(9, lineReq (.read [(0, 48)]) true)] |>
  onGroup (fun g => { g with wait := some .inFlight }) |> underMode mode

/-- The stream of the line names requester 3 next. -/
def steered : State := gated 3 |> onPart fun P => { P with choice := { P.choice with
  streams := [(0, ⟨0x80000, 1, false, 0, 0, 0, [mkRecord .line true false 1 3]⟩)] } }

/-- The whisk groups of the homes wait as well. -/
def quiet : State := gated 4 |> onRun fun r =>
  { r with homes := r.homes.map fun e => (e.1, { e.2 with grp := { e.2.grp with wait := some .take } }) }

def onlyChoice : Choosable := ⟨6, some (.line [0] true), .line 9⟩

/-- A path has ended; `b` is its only branch point; line 0x80000 is in the undo log. -/
def explored (b : Branch) : State := launched |> underMode 4 |> onPart fun P => { P with
  choice := { P.choice with xst := 1 }
  sieve := { P.sieve with
    snapshot := some (P.run, []), ended := true, branches := [b], undo := [⟨0x80000, List.replicate 128 7, []⟩] } }

/-- A branch point of two keys, of which the first, or the last, has been taken. -/
def branch (index : Nat) : Branch := ⟨.line, 0x80000, 0, [6, 8], index⟩

abbrev pathEnded (P : Part) : Prop :=
  P.exploring = true ∧ P.sieve.ended = true ∧ P.frozen = false ∧ P.freezing = false ∧ P.sieve.snapshot.isSome = true

def chunk : Chunk := ⟨.line, 0x80000, 0, [1, 2], false⟩

theorem witness_ChoiceEventsHappen :
    (∃ P, steered.part? 0 = some P ∧ P.frozen = false ∧ P.freezing = false ∧ P.mode = 3 ∧
      P.choice.steer .line 0x80000 = .named (mkRecord .line true false 1 3) ∧
      (P.run.lines.all fun x => !(x.2.gated && lineId x.2.pline == 0x80000 && x.2.admitted)) = true ∧
      ((P.heldLines 0x80000).find? fun x => x.2.key == recKey (mkRecord .line true false 1 3)) =
        some (9, lineReq (.read [(0, 48)]) true)) ∧
    (∃ P, quiet.part? 0 = some P ∧ P.mode = 4 ∧ P.frozen = false ∧ P.freezing = false ∧ P.sieve.ended = false ∧
      quiet.quiescent P 0 = true ∧ (nextDecision (quiet.pending P)).any (fun d => decide (d.choices = [onlyChoice])) = true ∧
      (Table.get? P.run.lines 9).isSome = true) ∧
    (∃ P, (explored (branch 0)).part? 0 = some P ∧ pathEnded P ∧ nextPath P.sieve.branches = some [branch 1] ∧
      P.sieve.undo = [⟨0x80000, List.replicate 128 7, []⟩] ∧ (explored (branch 0)).portDown (0x80000 * 128) = false ∧ P.run.dir = []) ∧
    (∃ P, (explored (branch 1)).part? 0 = some P ∧ pathEnded P ∧ nextPath P.sieve.branches = none) ∧
    ∃ P, (launched |> onPart fun P => { P with choice := { P.choice with mode := 2, rbsize := 4, chunks := [chunk] } }).part? 0 = some P ∧
      P.choice.chunks = [chunk] ∧ P.choice.fill + 2 + 2 ≤ P.choice.rbsize.toNat :=
  ⟨any_of (by decide +kernel), any_of (by decide +kernel), any_of (by decide +kernel), any_of (by decide +kernel),
    any_of (by decide +kernel)⟩
/-! ### Witnesses: freezes, errors, links, ports and boot -/

def noTeams : State := launched |> onRun fun r => { r with teams := [], clusters := [], lines := [], ops := [] }
def flags (frozen freezing draining : Bool) : State := launched |> onPart fun P =>
  { P with frozen := frozen, freezing := freezing, draining := draining }

/-- A slice is on, of a partition frozen with a saved image. -/
def sliced (frozen freezing : Bool) (pa : Nat) (reason : BitVec 6) : State := launched |> onPart fun P =>
  { P.setRegs (fun r => { r with gslice := 0x8000000000000000 }) with
    frozen := frozen, freezing := freezing, saved := frozen, images := [⟨pa, [], reason, P.run, P.choice, P.sieve⟩] }

/-- The header of an image of no section, of a partition of the loaded one's configuration. -/
def imageWords : List DWord :=
  [0, 0, 0, 0, 0, 128, loadedPart.cfgHash 0, 0x464D524900010000] ++ List.replicate 8 0
/-- The frozen partition has written it, at 0x4000000. -/
def imaged : State → State := fun s => (s.storeWords 0x4000000 imageWords) |> onPart fun P =>
  { P with frozen := true, saved := true, images := [⟨0x4000000, imageWords, 2, P.run, P.choice, P.sieve⟩] }

/-- A freeze is under way, and a load's line access too. -/
def loadFreezing : State :=
  flying vectorLoad [(9, lineReq (.read [(0, 48)]) false)] |> onPart fun P => { P with freezing := true }

/-- A freeze is under way, and a `cpyv` holds a line of the image area. -/
def areaFreezing : State := flags false true false |> onPart (fun P => { P with imageArea := some (0x4400000, 0x100000) }) |>
  onRun fun r => { r with held := [0x89FFF] }

theorem witness_FreezesAndSlices :
    (∃ P, (flags false true false).part? 0 = some P ∧ P.freezing = true ∧ (flags false true false).mayImage P 0 = true ∧
      (flags false true false).areaHeld P = false ∧ P.reason.getLsbD 2 = false) ∧
    (∃ P, loadFreezing.part? 0 = some P ∧ P.freezing = true ∧ loadFreezing.mayImage P 0 = false) ∧
    (∃ P, areaFreezing.part? 0 = some P ∧ P.freezing = true ∧ areaFreezing.areaHeld P = true) ∧
    (∃ P, (flags false false true).part? 0 = some P ∧ P.draining = true) ∧
    (∀ b ∈ [false, true], ∃ P, (sliced false b 0 0).part? 0 = some P ∧ P.regs.gslice.getLsbD 63 = true ∧ P.frozen = false ∧
      P.freezing = b) ∧
    (∃ P, (sliced false false 0 0 |> onRun fun r => { r with clusters := [] }).part? 0 = some P ∧ P.run.clusters = []) ∧
    (∀ r ∈ [2, 3], ∃ P, (sliced true false 0x4000000 r).part? 0 = some P ∧ P.regs.gslice.getLsbD 63 = true ∧ P.frozen = true ∧ P.saved = true ∧
      P.images.head?.any (fun i => decide (i.reason = r)) = true ∧ (sliced true false 0x4000000 r).readImage P 0 0x4000000 = none ∧
      (sliced true false 0x4000000 r).unclean 0x4000000 ((sliced true false 0x4000000 r).imageBytes 0x4000000) = false) ∧
    ∃ P, (imaged launched |> onPart fun P => P.setRegs fun r => { r with gslice := 0x8000000000000000 }).part? 0 = some P ∧
      P.regs.gslice.getLsbD 63 = true ∧ P.frozen = true ∧ P.saved = true ∧
      P.images.head?.any (fun i => decide (i.reason = 2 ∧ i.place = 0x4000000)) = true ∧
      ((imaged launched |> onPart fun P => P.setRegs fun r => { r with gslice := 0x8000000000000000 }).readImage P 0 0x4000000).isSome = true := by
  refine ⟨any_of (by decide +kernel), any_of (by decide +kernel), any_of (by decide +kernel), any_of (by decide +kernel), ?_,
    any_of (by decide +kernel), ?_, any_of (by decide +kernel)⟩
  · intro b hb
    obtain rfl | rfl : b = false ∨ b = true := by simp
    · exact any_of (by decide +kernel)
    · exact any_of (by decide +kernel)
  · intro b hb
    obtain rfl | rfl : b = 2 ∨ b = 3 := by simpa using hb
    · exact any_of (by decide +kernel)
    · exact any_of (by decide +kernel)

/-- Core 3 is being tested. -/
def tested (busy : Bool) : State := (if busy then launched |> onTeam fun t => { t with core := 3 } else launched) |>
  onPart fun P => (P.modCore 3 fun k => { k with testing := true }).setRegs fun r => { r with inft := 1 }

/-- An invalidation of everything is open. -/
def invalidating : State := launched |> onPart fun P => P.setRegs fun r => { r with invDone := false, inv := 0x0300000000000000 }

theorem witness_ScrubsTestsAndInvalidations :
    (∃ e, launched.partOfCore 0 = some e ∧ e.1 = 0 ∧ launched.part? e.1 = some e.2 ∧ (e.2.core? 0).isSome = true ∧
      coreAction launched e.2 2 ≤ 2 ∧ coreAction launched e.2 15 ≤ 2) ∧
    (launched.backed 0 0x4000000 128 = true ∧ launched.backed 0 0xB2D05DFF80 128 = true ∧
      launched.backed 1 0x10000000000 128 = true) ∧
    (∃ e, (launched |> onPart fun P => P.setRegs fun r => { r with inft := 1 }).partOfDie 0 = some e ∧ e.2.nextTest 0 = some 0 ∧
      (e.2.core? 0).isSome = true ∧ e.2.regs.inft ≠ 0 ∧ e.2.run.cores.all (fun x => !(x.1 / 16 == 0 && x.2.testing)) = true) ∧
    (∀ busy ∈ [false, true], ∃ e, (tested busy).partOfCore 3 = some e ∧ (tested busy).part? e.1 = some e.2 ∧
      (e.2.core? 3).any (fun k => k.testing) = true ∧ e.2.idle 3 = !busy) ∧
    ∃ P, invalidating.part? 0 = some P ∧ P.regs.invDone = false ∧ P.oldAccess = false :=
  ⟨any_of (by decide +kernel), by decide +kernel, any_of (by decide +kernel), by
    intro busy hb
    obtain rfl | rfl : busy = false ∨ busy = true := by simp
    · exact any_of (by decide +kernel)
    · exact any_of (by decide +kernel), any_of (by decide +kernel)⟩

/-- Class 14 of cores has action 0. -/
def mild14 (s : State) : State := match execSevWrite 0 14 0 s with
  | .next t => t
  | _ => s

/-- The link of core 40 is dead, and injection has resumed. -/
def lossy : State := { flying vectorLoad [(9, lineReq (.read [(0, 48)]) false)] |>
  onPart (fun P => { P with atRisk := [.line 9, .pageUpdate, .writeBack 3] }) with links := [⟨.core 40, true, 0, 0⟩] }

theorem witness_LinkEventsHappen :
    (launched.linkDead (.core 0) = false ∧ ∃ e, launched.partOfDie 0 = some e ∧ launched.part? e.1 = some e.2 ∧
      launched.action e.2 8 srcLink = 1) ∧
    ((∀ port, Link.core 0 ≠ .cxl port) ∧ ({ launched with paused := true } : State).paused = true ∧
      (∀ h < 4, launched.hubReached h = true) ∧
      ∀ e ∈ launched.parts, (∀ k < 32 * e.2.dies, launched.sliceReached (e.2.regs.firstDie * 32 + k) = true) ∧
        ∀ c ∈ e.2.regs.cores, launched.coreReached c = true) ∧
    (∃ P, lossy.part? 0 = some P ∧ P.mayLose (.line 8) = false ∧ (∀ x ∈ [LostPacket.pageUpdate, .writeBack 3], P.mayLose x = true) ∧
      lossy.paused = false ∧ P.mayLose (.line 9) = true ∧
      Table.get? P.run.lines 9 = some (lineReq (.read [(0, 48)]) false) ∧ (P.team? loadedTeam).isSome = true ∧
      lossy.action P 14 srcCore = 3) ∧
    (∃ P, (mild14 lossy).part? 0 = some P ∧ (mild14 lossy).paused = false ∧ P.mayLose (.line 9) = true ∧
      Table.get? P.run.lines 9 = some (lineReq (.read [(0, 48)]) false) ∧ (P.team? loadedTeam).isSome = true ∧
      (mild14 lossy).action P 14 srcCore ≠ 3) ∧
    ∀ n ∈ [14, 15], ({ launched with links := [⟨.core 0, false, 0, n⟩] } : State).linkDead (.core 0) = false ∧
      ({ launched with links := [⟨.core 0, false, 0, n⟩] } : State).linkState (.core 0) = ⟨.core 0, false, 0, n⟩ :=
  ⟨⟨by decide +kernel, any_of (by decide +kernel)⟩, ⟨by simp, rfl, by decide +kernel, by decide +kernel⟩,
    any_of (by decide +kernel), any_of (by decide +kernel), by decide +kernel⟩

theorem witness_HostPortTimeAndClock :
    (launched.hostReach 0x4000100 3 = true ∧ launched.hostReach 0 0 = true ∧ launched.hostReach 0xB2D05DFFFF 1 = true ∧
      launched.rangeHeld 0x4000100 3 = false ∧ launched.rangeHeld 0 0 = false ∧ launched.rangeHeld 0xB2D05DFFFF 1 = false ∧
      launched.cxlDown = [] ∧ ∀ e ∈ launched.parts, e.1 < 8 ∧ e.2.sieve.snapshot = none) ∧
    (∃ P, (launched |> onPart fun P => { P with unacked := [7, 8, 9] }).part? 0 = some P ∧
      P.unacked = [7] ++ (8 : BitVec 45).toNat :: [9] ∧ (8 : BitVec 45).toNat ∉ [7]) ∧
    ((0 : PartNo).toNat ∈ ({ launched with notices := [0] } : State).notices ∧ (0 : PartNo).toNat ∉ launched.notices) ∧
    ∃ e, launched.partOfDie (0 : BitVec 3).toNat = some e ∧ e.1 = 0 :=
  ⟨by decide +kernel, any_of (by decide +kernel), by decide +kernel, any_of (by decide +kernel)⟩

/-- The firmware has started. -/
def booted : State := { launched with fw := { launched.fw with booted := true } }
/-- A successor, of version 7, waits. -/
def updated : State := { booted with fw := { booted.fw with successor := some 7 }, pfBusy := true }

/-- Before boot; before an update, from memory that no partition owns (whether a container is found there is left open, `parseLvc`);
before the handover. -/
theorem witness_BootMeasuresAndUpdatesHandOver :
    (State.reset.fw.booted = false ∧ State.reset.fw.failed = false) ∧
    (PfReady booted ∧ (64 : DWord) ≠ 0 ∧ (0x8000000 : DWord).toNat + (64 : DWord).toNat ≤ 2 ^ 52 ∧
      (∀ a, (0x8000000 : DWord).toNat ≤ a → a < (0x8000000 : DWord).toNat + (64 : DWord).toNat →
        Cells.get 0 booted.granules (a / 2 ^ 26) = 0) ∧
      booted.unclean 0x8000000 64 = false ∧ ({ booted with memPoison := [0x1000007] } : State).unclean 0x8000000 64 = true) ∧
    updated.fw.successor = some 7 ∧ updated.fw.pass = [] := by
  refine ⟨by decide, ⟨⟨by decide, by decide⟩, by decide, by decide, ?_, by decide +kernel, by decide +kernel⟩, by decide +kernel⟩
  intro a h1 h2
  have : a / 2 ^ 26 = 2 := by
    have e : (0x8000000 : DWord).toNat = 134217728 := by decide
    have e' : (64 : DWord).toNat = 64 := by decide
    omega
  rw [this]
  decide +kernel
/-! ### Witnesses: the physical function and the packets -/

/-- Whether the four fields of command 1 are taken in `s`. -/
def takenB (s : State) (n first size key : Nat) : Bool :=
  decide (first % 2 ^ size ≠ 0) || Table.has s.parts n || s.parts.any fun e => decide (e.2.regs.pkey.toNat = key) ||
    (List.range (2 ^ size)).any fun k => e.2.hasDie (first + k)

/-- Queue 5 of the partition is enabled; port 3 is granted to it, and bound; partition 2 has been created on die 1. -/
def granted : State :=
  { (booted |> onPart fun P => { P.setRegs (fun r => { r with spw := [(0, 0x9800000000000000)] }) with
      queues := [(2, { queue2 with base := 0 }), (5, queue2)] }) with portGrant := [(3, 0)] }

theorem witness_PhysicalFunctionCommands :
    PfReady booted ∧ (booted.part? 0).isSome = true ∧ booted.part? 1 = none ∧
    takenB booted 1 1 0 2 = false ∧ takenB booted 7 4 2 255 = false ∧
    (∀ e ∈ [(1, 1, 1, 2), (0, 1, 0, 2), (1, 1, 0, 1), (1, 0, 0, 2), (1, 0, 3, 2)], takenB booted e.1 e.2.1 e.2.2.1 e.2.2.2 = true) ∧
    (booted.granuleBacked 0x2CB4 = true ∧ booted.granuleBacked 0x2CB5 = false) ∧
    PfReady granted ∧ (∀ q ∈ [2, 127], ∀ e ∈ granted.parts, ((Table.get? e.2.queues q).all fun x => !x.base.getLsbD 63) = true) ∧
    (∃ e, granted.holder 5 = some e ∧ ((Table.get? e.2.queues 5).any fun x => x.base.getLsbD 63) = true) ∧
    granted.portBound 15 = false ∧ granted.portBound 3 = true := by
  refine ⟨⟨by decide, by decide⟩, by decide, by decide, by decide, by decide, by decide, by decide +kernel, ⟨by decide, by decide⟩,
    by decide, any_of (by decide), by decide, by decide⟩

/-- A packet whose named fields, each a lowest bit and a value, hold those values. -/
def packet (fields : List (Nat × Nat)) : BitVec 512 := BitVec.ofNat 512 (fields.foldl (fun n f => n + f.2 * 2 ^ f.1) 0)

/-- The packet is next in the pass, from queue 2. -/
def passing (pkt : BitVec 512) (s : State) : State :=
  let s := s |> withQueue queue2
  { s with fw := { s.fw with booted := true, pass := [(2, pkt), (9, 0)] } }

/-- That packet is next, in a state that meets `c` with the queue's partition. -/
def Heads (pkt : BitVec 512) (c : State → Part → Prop) : Prop :=
  ∃ s P, AtHead s 2 pkt [(9, 0)] 0 P queue2 ∧ c s P

/-- Where no `cpyv` holds a line and hub die 0 is reached, no range is held. -/
theorem rangeHeld_none {s : State} (h : ∀ e ∈ s.parts, e.2.run.held = []) (hr : s.hubReached 0 = true) (pa n : Nat) :
    s.rangeHeld pa n = false := by
  simp only [State.rangeHeld, State.hostCut, hr, Bool.not_true, Bool.and_false, Bool.false_or, List.any_eq_false]
  intro e he
  simp [h e he]

theorem heads_of {pkt : BitVec 512} {c : State → Part → Prop} (f : State → State) {P : Part}
    (e : (f launched).parts = [(0, P)]) (h : c (passing pkt (f launched)) { P with queues := [(2, queue2)] })
    (hh : P.run.held = [] := by rfl) (hr : (f launched).hubReached 0 = true := by decide +kernel) : Heads pkt c := by
  have free := rangeHeld_none (s := passing pkt (f launched))
    (by simp [passing, withQueue, onPart, State.modPart, e, Table.modify, hh]) hr
  refine ⟨_, _, ⟨rfl, ?_, ?_, rfl, ?_, by simp [State.packetHeld, State.entryHeld, free]⟩, h⟩
  case refine_3 =>
    have : ¬2 ^ 49 ≤ entryAt queue2 := by decide
    unfold State.portDown
    rw [decide_eq_false this]
    rfl
  all_goals simp [passing, withQueue, onPart, State.modPart, State.holder, State.part?, e, Table.get?, Table.has, Table.modify]

/-- The same, checked by evaluation. -/
theorem heads {pkt : BitVec 512} {c : State → Part → Prop} [∀ s P, Decidable (c s P)] (f : State → State)
    (h : (match (f launched).parts with
      | [(0, P)] => decide ((P.run.held = [] ∧ (f launched).hubReached 0 = true) ∧
          c (passing pkt (f launched)) { P with queues := [(2, queue2)] })
      | _ => false) = true) : Heads pkt c := by
  split at h
  · rename_i P e
    exact heads_of f e (of_decide_eq_true h).2 (of_decide_eq_true h).1.1 (of_decide_eq_true h).1.2
  · cases h

/-- No team is live. -/
def unloaded : State → State := onRun fun r => { r with teams := [], clusters := [] }
def chosen (f : Choice → Choice) : State → State := onPart fun P => { P with choice := f P.choice }
/-- A stream of kind 2 and identifier 9. -/
def streamed : State → State := chosen fun c => { c with streams := [(0, ⟨9, 2, false, 0, 0, 0, [1, 2]⟩)] }
/-- A STREAM packet of KIND 2, ID 9, two records at 0x4000000. -/
def streamPacket (op kind n : Nat) : BitVec 512 := packet [(0, 2), (9, op), (64, kind), (128, 9), (192, 0x4000000), (256, n)]

/-- The partition may read `n` records, which are whole. -/
def holdsRecords (s : State) (P : Part) (buf n : Nat) : Bool := s.hostOrOwned P buf (8 * n) && !s.unclean buf (8 * n)

abbrev plain (pkt : BitVec 512) (k : PacketKind) : Prop := pkt.extractLsb' 16 16 = 0 ∧ packetKind pkt = k

theorem witness_PassesTakeOnePacketOfEachQueue :
    let s := booted |> withQueue queue2
    s.fw.serving = true ∧ s.fw.pass = [] ∧ s.packetsHeld = false ∧
      ∀ e ∈ s.parts, ∀ k ∈ e.2.queues, k.2.stopping = false ∧ s.unclean k.2.packetPlace 64 = false ∧
        s.hostCut k.2.packetPlace 64 = false := by
  decide +kernel

theorem witness_PlainPacketsAct :
    (∀ e ∈ [(packet [(0, 1)], PacketKind.reset), (packet [], .nop), (packet [(0, 9)], .unknown), (packet [(0, 2), (9, 7)], .unknown),
        (packet [(0, 5), (64, 4095)], .signalSet), (packet [(0, 5), (9, 1)], .signalAdd)], Heads e.1 fun _ _ => plain e.1 e.2) ∧
    (∀ v ∈ [0, 7], Heads (packet [(0, 6), (64, 3), (128, v)]) fun _ P => plain (packet [(0, 6), (64, 3), (128, v)]) .wait ∧
      v ≤ (Cells.get 0 P.signals 3).toNat) ∧
    Heads (packet [(0, 6), (64, 3), (128, 8)]) fun _ P => plain (packet [(0, 6), (64, 3), (128, 8)]) .wait ∧
      (Cells.get 0 P.signals 3).toNat < 8 := by
  refine ⟨fun e h => heads_of id (P := loadedPart) rfl ?_, fun v h => ?_, heads (onPart fun P => { P with signals := [(3, 7)] }) ?_⟩
  · revert e
    decide +kernel
  · obtain rfl | rfl : v = 0 ∨ v = 7 := by simpa using h
    · exact heads (onPart fun P => { P with signals := [(3, 7)] }) (by decide +kernel)
    · exact heads (onPart fun P => { P with signals := [(3, 7)] }) (by decide +kernel)
  · decide +kernel

/-- A packet of each kind with a reserved bit; of LAUNCH one with SIGEN and one without. -/
def malformed : List (BitVec 512 × PacketKind) :=
  [(packet [(0, 1), (16, 1)], .reset), (packet [(0, 2), (31, 1)], .setmode), (packet [(0, 2), (9, 1), (16, 1)], .attach),
    (packet [(0, 2), (9, 2), (16, 1)], .extend), (packet [(0, 2), (9, 3), (16, 1)], .detach), (packet [(0, 2), (9, 4), (16, 1)], .buffers),
    (packet [(0, 2), (9, 5), (16, 1)], .consume), (packet [(0, 3), (16, 1)], .resume), (packet [(0, 4), (16, 1), (211, 1), (212, 4095)], .launch),
    (packet [(0, 4), (31, 1)], .launch), (packet [(0, 5), (16, 1)], .signalSet), (packet [(0, 5), (9, 1), (16, 1)], .signalAdd),
    (packet [(0, 6), (16, 1)], .wait), (packet [(16, 1)], .nop), (packet [(0, 9), (16, 1)], .unknown)]

theorem witness_ReservedHeaderBitsAreMalformed :
    (∀ e ∈ malformed, Heads e.1 fun _ _ => e.1.extractLsb' 16 16 ≠ 0 ∧ packetKind e.1 = e.2) ∧ ∀ pkt, ∃ i, Carries 2 pkt i := by
  refine ⟨fun e h => heads_of id (P := loadedPart) rfl ?_, fun pkt => ?_⟩
  · revert e
    decide +kernel
  · unfold Carries
    split <;> exact ⟨_, rfl⟩

theorem witness_StreamPacketsAct :
    (let pkt := packet [(0, 2), (64, 4)]
     Heads pkt (fun _ P => plain pkt .setmode ∧ P.run.teams ≠ []) ∧
       Heads pkt (fun _ P => plain pkt .setmode ∧ P.run.teams = [] ∧ P.choice.mode = 2 ∧ P.choice.chunks = [])) ∧
    (∀ kind ∈ [1, 6], let pkt := streamPacket 1 kind 2
     Heads pkt fun s P => plain pkt .attach ∧ holdsRecords s P 0x4000000 2 = true ∧ P.choice.mode = 0 ∧ P.choice.entry? kind 9 = none ∧
       (P.choice.regionPlace none regionWords 2).isSome = true) ∧
    (∀ mode ∈ [3, 4], Heads (streamPacket 1 1 2) fun s P => plain (streamPacket 1 1 2) .attach ∧
      holdsRecords s P 0x4000000 2 = true ∧ P.choice.mode = mode) ∧
    (let pkt := streamPacket 1 6 1
     Heads pkt fun s P => plain pkt .attach ∧ holdsRecords s P 0x4000000 1 = true) ∧
    (let pkt := packet [(0, 2), (9, 1), (64, 1), (192, 2 ^ 51), (256, 2 ^ 26 + 1)]
     Heads pkt fun s P => plain pkt .attach ∧ s.hostOrOwned P (2 ^ 51) (8 * (2 ^ 26 + 1)) = true) ∧
    (∀ op ∈ [1, 2], let pkt := streamPacket op 2 2
     Heads pkt fun s P => packetKind pkt = (if op = 1 then .attach else .extend) ∧ pkt.extractLsb' 16 16 = 0 ∧
       holdsRecords s P 0x4000000 2 = true ∧ ((P.choice.entry? 2 9).any fun e => e.1 == 0) = true ∧
       ((P.choice.entry? 2 9).any fun e => (P.choice.regionPlace (some e.1) 0 (e.2.recs.length + 2)).isSome) = true) ∧
    (let pkt := packet [(0, 2), (9, 2), (64, 2), (128, 9), (192, 2 ^ 51), (256, 2 ^ 26)]
     Heads pkt fun s P => plain pkt .extend ∧ s.hostOrOwned P (2 ^ 51) (8 * 2 ^ 26) = true ∧
       ((P.choice.entry? 2 9).any fun e => decide (regionWords < e.2.recs.length + 2 ^ 26)) = true) ∧
    (let pkt := streamPacket 2 2 2
     Heads pkt fun s P => plain pkt .extend ∧ holdsRecords s P 0x4000000 2 = true ∧ P.choice.entry? 2 9 = none) ∧
    (let pkt := streamPacket 3 2 0
     Heads pkt (fun _ P => plain pkt .detach ∧ ((P.choice.entry? 2 9).any fun e => e.1 == 0) = true ∧ P.choice.mode = 0) ∧
       Heads pkt (fun _ P => plain pkt .detach ∧ P.choice.entry? 2 9 = none) ∧
       Heads pkt (fun _ P => plain pkt .detach ∧ P.choice.mode = 3)) ∧
    (let pkt := packet [(0, 2), (9, 4), (64, 2 ^ 26), (128, 2 ^ 22), (192, 2 ^ 29 - 1)]
     plain pkt .buffers ∧ (pkt.extractLsb' 96 32).toNat + 8 * (pkt.extractLsb' 64 32).toNat = 2 ^ 29 ∧
       (pkt.extractLsb' 160 32).toNat + 128 * (pkt.extractLsb' 128 24).toNat = 2 ^ 29 ∧ (pkt.extractLsb' 192 32).toNat < 2 ^ 29 ∧
       Heads pkt (fun _ P => P.run.teams = [] ∧ ∀ c ∈ P.choice.chunks, c.waits = false) ∧ Heads pkt fun _ P => P.run.teams ≠ []) ∧
    (∀ new ∈ [5, 9], let pkt := packet [(0, 2), (9, 5), (64, new)]
     Heads pkt fun _ P => plain pkt .consume ∧ P.choice.rbcons = 5 ∧ P.choice.rbprod = 9 ∧ ∀ c ∈ P.choice.chunks, c.waits = false) ∧
    ∀ new ∈ [4, 10], let pkt := packet [(0, 2), (9, 5), (64, new)]
     Heads pkt fun _ P => plain pkt .consume ∧
       (P.choice.rbprod - P.choice.rbcons).toNat < (pkt.extractLsb' 64 32 - P.choice.rbcons).toNat := by
  refine ⟨⟨heads id (by decide +kernel), heads (unloaded ∘ chosen fun c => { c with mode := 2 }) (by decide +kernel)⟩, fun k h => ?_,
    fun m h => ?_, heads id (by decide +kernel), heads id (by decide +kernel), fun op h => ?_, heads streamed (by decide +kernel),
    heads id (by decide +kernel), ⟨heads streamed (by decide +kernel), heads id (by decide +kernel),
      heads (chosen fun c => { c with mode := 3 }) (by decide +kernel)⟩,
    ⟨by decide +kernel, by decide +kernel, by decide +kernel, by decide +kernel, heads unloaded (by decide +kernel),
      heads id (by decide +kernel)⟩, fun n h => ?_, fun n h => ?_⟩
  · obtain rfl | rfl : k = 1 ∨ k = 6 := by simpa using h
    · exact heads id (by decide +kernel)
    · exact heads id (by decide +kernel)
  · obtain rfl | rfl : m = 3 ∨ m = 4 := by simpa using h
    · exact heads (chosen fun c => { c with mode := 3 }) (by decide +kernel)
    · exact heads (chosen fun c => { c with mode := 4 }) (by decide +kernel)
  · obtain rfl | rfl : op = 1 ∨ op = 2 := by simpa using h
    · exact heads streamed (by decide +kernel)
    · exact heads streamed (by decide +kernel)
  · obtain rfl | rfl : n = 5 ∨ n = 9 := by simpa using h
    · exact heads (chosen fun c => { c with rbcons := 5, rbprod := 9 }) (by decide +kernel)
    · exact heads (chosen fun c => { c with rbcons := 5, rbprod := 9 }) (by decide +kernel)
  · obtain rfl | rfl : n = 4 ∨ n = 10 := by simpa using h
    · exact heads (chosen fun c => { c with rbcons := 5, rbprod := 9 }) (by decide +kernel)
    · exact heads (chosen fun c => { c with rbcons := 5, rbprod := 9 }) (by decide +kernel)

/-- Which clause of the statement a LAUNCH packet of queue 2 falls under. -/
def launchCase (s : State) (P : Part) (pkt : BitVec 512) : Nat :=
  match Table.get? P.kernels (pkt.extractLsb' 256 32).toNat with
  | none => 1
  | some k => if launchReserved pkt then 2 else if ({ s with fw := { s.fw with pass := [(9, 0)] } } : State).launchValid 0 P (launchOf k 2 pkt (queue2.cons + 1)) then 4
    else 3

theorem witness_LaunchAndResumePacketsAct :
    (∀ e ∈ [([(256, 1)], 1), ([(64, 1), (127, 1)], 2), ([(85, 1), (106, 1)], 3), ([(64, 1), (85, 1), (106, 1), (178, 1), (196, 1)], 4)],
      let pkt := packet ((0, 4) :: e.1)
      Heads pkt fun s P => plain pkt .launch ∧ launchCase s P pkt = e.2) ∧
    (let pkt := packet [(0, 3), (64, 0x4000000)]
     Heads pkt (fun s P => plain pkt .resume ∧ P.mayResume = true ∧ (s.readImage P 0 0x4000000).isSome = true ∧
        ∀ k ∈ P.regs.whiskCores, (P.core? k).any Core.withdrawn = false) ∧
       Heads pkt (fun s P => plain pkt .resume ∧ P.mayResume = false ∧ s.unclean 0x4000000 (s.imageBytes 0x4000000) = false) ∧
       Heads pkt fun s P => plain pkt .resume ∧ s.readImage P 0 0x4000000 = none ∧
         s.unclean 0x4000000 (s.imageBytes 0x4000000) = false) := by
  refine ⟨fun e h => heads_of id (P := loadedPart) rfl ?_, heads imaged (by decide +kernel), heads id (by decide +kernel),
    heads id (by decide +kernel)⟩
  revert e
  decide +kernel
/-! ### Witnesses: services, registers, methods and the step -/

/-- The loaded group is at a stage of `ccall`, with a value in s1. -/
def asking (stage : Stage) (s1 : DWord) : State := booted |> onGroup fun g => { (g.setS 1 s1) with stage := stage }

def Asks (stage : Stage) (c : Group → Prop) : Prop :=
  ∃ s P g, AsksService s 0 loadedGroup P g ∧ g.stage = stage ∧ c g

theorem asks {stage : Stage} {c : Group → Prop} [∀ g, Decidable (c g)] (s1 : DWord)
    (h : (((asking stage s1).part? 0).any fun P => (P.group? loadedGroup).any fun g => decide (g.stage = stage ∧ c g)) = true) :
    Asks stage c := by
  cases hp : (asking stage s1).part? 0 with
  | none => rw [hp] at h; cases h
  | some P =>
    cases hg : P.group? loadedGroup with
    | none => rw [hp] at h; simp [hg] at h
    | some g =>
      rw [hp] at h
      simp only [Option.any_some, hg] at h
      exact ⟨_, P, g, ⟨hp, hg, rfl⟩, of_decide_eq_true h⟩

theorem witness_CcallServicesAnswer :
    (∀ n ∈ [0, 1, 4, 0xFFFF], Asks (.asked n) fun _ => True) ∧
    Asks (.asked 2) (fun g => (g.sreg 1).toNat < 4096) ∧ Asks (.asked 2) (fun g => 4096 ≤ (g.sreg 1).toNat) ∧
    Asks (.asked 3) (fun g => (g.sreg 1).toNat ≤ 1000000) ∧ Asks (.asked 3) (fun g => 1000000 < (g.sreg 1).toNat) ∧
    Asks .sleeping fun _ => True := by
  refine ⟨fun n h => ?_, asks 4095 (by decide +kernel), asks 4096 (by decide +kernel), asks 1000000 (by decide +kernel),
    asks 1000001 (by decide +kernel), asks 0 (by decide +kernel)⟩
  obtain rfl | rfl | rfl | rfl : n = 0 ∨ n = 1 ∨ n = 4 ∨ n = 0xFFFF := by simpa using h
  · exact asks 0 (by decide +kernel)
  · exact asks 0 (by decide +kernel)
  · exact asks 0 (by decide +kernel)
  · exact asks 0 (by decide +kernel)

/-- Command `cmd` waits, in a state that meets `c`. -/
def Commands (cmd : BitVec 8) (c : State → Part → Prop) : Prop := ∃ s P, Commanded s 0 P cmd ∧ c s P

theorem commands {cmd : BitVec 8} {c : State → Part → Prop} [∀ s P, Decidable (c s P)] (args : List DWord) (f : State → State)
    (h : ((f (booted |> onPart fun P => P.setRegs fun r => { r with svcBusy := some cmd, svcArg := (List.range 3).zip args })).part? 0).any
      (fun P => decide ((P.regs.svcBusy = some cmd ∧
        (f (booted |> onPart fun P => P.setRegs fun r => { r with svcBusy := some cmd, svcArg := (List.range 3).zip args })).commandHeld P
          cmd.toNat = false ∧
        (f (booted |> onPart fun P => P.setRegs fun r => { r with svcBusy := some cmd, svcArg := (List.range 3).zip args })).fw =
          booted.fw) ∧
        c (f (booted |> onPart fun P => P.setRegs fun r => { r with svcBusy := some cmd, svcArg := (List.range 3).zip args })) P)) =
      true) :
    Commands cmd c := by
  obtain ⟨P, hp, ⟨h1, hh, h2⟩, h3⟩ := any_of h
  exact ⟨_, P, ⟨hp, h1, hh, by rw [h2]; decide, by rw [h2]; decide⟩, h3⟩

/-- A segment, of `n` launch records and a class, that no key of the list signs; containers without a segment, and with that one. -/
def unsigned (n : Nat) : Config.LvcSegment := ⟨0, 0x100000, [], 0, 3, 0, List.replicate n loadedKernel, [[(0, 0x100000)]]⟩
def empty : Config.Lvc := ⟨0, 1, [], []⟩
def container (n : Nat) : Config.Lvc := ⟨0, 1, [unsigned n], []⟩

/-- The kernel table and the class range have room for the container. -/
def roomFor (P : Part) (l : Config.Lvc) : Bool :=
  (freeKeys P.kernels 0 1024 l.kernels.length).length == l.kernels.length &&
    (freeKeys P.classes 16 4096 l.classes.length).length == l.classes.length
/-- Whether every segment of the container loads. -/
def loads (s : State) (P : Part) (l : Config.Lvc) : Bool :=
  (s.loadSegments 0 l.headerHash l.segments (freeKeys P.kernels 0 1024 l.kernels.length) []).2
/-- The partition owns the container's bytes, and the place of `n` numbers. -/
def holdsContainer (s : State) (P : Part) (n : Nat) : Bool :=
  let pa := svcArg P 0
  let len := ((Cells.get 0 P.regs.svcArg 1).extractLsb' 0 32).toNat
  s.owned P pa len && !s.unclean pa len && s.owned P (svcArg P 2) (8 * n)

/-- The page of 64 MiB at 0x4000000 belongs to the partition. Which bytes are a container is left open (`Config.parseLvc`), so that the
hypotheses about one are met by a container as a value, beside a range that the partition owns. -/
theorem witness_SupervisorServicesServe :
    (Commands 1 (fun _ P => P.frozen = false) ∧ Commands 1 fun _ P => P.frozen = true) ∧
    (Commands 2 (fun s P => s.owned P (svcArg P 0) (svcArg P 1) = true ∧ svcArg P 0 + svcArg P 1 = 0x8000000) ∧
      Commands 2 fun s P => s.owned P (svcArg P 0) (svcArg P 1) = false ∧ svcArg P 0 + svcArg P 1 = 0x8000001) ∧
    (Commands 3 (fun s P => svcArg P 0 = 0 ∧ s.portDown (svcArg P 2) = false ∧ s.hostOrOwned P (svcArg P 2) 64 = true) ∧
      Commands 3 (fun s P => svcArg P 0 = 1 ∧ svcArg P 1 = 65535 ∧ (Table.get? P.choice.streams (svcArg P 1)).isSome = true ∧
        s.hostOrOwned P (svcArg P 2) 32 = true) ∧
      Commands 3 (fun s P => svcArg P 0 = 2 ∧ (P.run.dir.find? fun e => e.2.name == Cells.get 0 P.regs.svcArg 1).isSome = true ∧
        s.hostOrOwned P (svcArg P 2) 32 = true) ∧
      Commands 3 fun _ P => svcArg P 0 = 3) ∧
    (∀ b ∈ [false, true], Commands 4 fun s P => canonical (Cells.get 0 P.regs.svcArg 0) = true ∧ s.cxlDown = [] ∧
      P.sieve.snapshot = none ∧ svcArg P 0 = 0x100 ∧ s.loadPa P 0x100 = some 0x4000100 ∧ P.objectBusy (0x100 / 64) = b ∧
      s.unclean (0x4000100 + 56) 8 = false) ∧
    (Commands 5 (fun s P => svcArg P 0 = 1 ∧ svcArg P 2 = 4096 ∧ s.hostOrOwned P (svcArg P 1) (svcArg P 2) = true) ∧
      Commands 5 (fun _ P => svcArg P 0 = 2) ∧ Commands 5 fun _ P => svcArg P 2 = 4097) ∧
    (Commands 6 (fun s P => s.owned P (svcArg P 0) ((Cells.get 0 P.regs.svcArg 1).extractLsb' 0 32).toNat = false) ∧
      Commands 6 (fun s P => holdsContainer s P 0 = true ∧ roomFor P empty = true ∧ loads s P empty = true) ∧
      Commands 6 (fun s P => holdsContainer s P 2 = true ∧ roomFor P (container 1) = true ∧ loads s P (container 1) = false ∧
        segmentOk (container 1).headerHash (Table.get? P.keys (unsigned 1).key) (unsigned 1) = false) ∧
      Commands 6 (fun s P => holdsContainer s P 1025 = true ∧ roomFor P (container 1024) = false) ∧
      Commands 6 fun s P => holdsContainer s P 0 = true ∧ s.owned P (svcArg P 2) 16 = false) ∧
    (Commands 7 (fun _ P => Table.has P.kernels (svcArg P 0) = true ∧ ∀ e ∈ P.run.launches, e.2.kern ≠ svcArg P 0) ∧
      Commands 7 fun _ P => Table.has P.kernels (svcArg P 0) = true ∧ ∃ e ∈ P.run.launches, e.2.kern = svcArg P 0) ∧
    (Commands 8 (fun s P => svcArg P 0 = 15 ∧ svcArg P 1 ≠ 0 ∧ s.owned P (svcArg P 1) 32 = true ∧ s.unclean (svcArg P 1) 32 = false) ∧
      Commands 8 (fun _ P => svcArg P 0 = 15 ∧ svcArg P 1 = 0) ∧ Commands 8 (fun _ P => svcArg P 0 = 16) ∧
      Commands 8 fun s P => svcArg P 1 ≠ 0 ∧ s.owned P (svcArg P 1) 32 = false) ∧
    (∀ k ∈ [6, 7], Commands 9 fun s P => svcArg P 0 = k ∧ s.owned P (svcArg P 1) 64 = true ∧
      s.unclean (svcArg P 1) 64 = false) ∧
    (Commands 9 (fun _ P => svcArg P 0 = 5) ∧ Commands 9 fun s P => svcArg P 0 = 7 ∧ s.owned P (svcArg P 1) 64 = false) ∧
    Commands 10 (fun s P => s.owned P (svcArg P 0) 32 = true ∧ s.owned P (svcArg P 1) 608 = true ∧
      s.unclean (svcArg P 0) 32 = false ∧ s.portDown (svcArg P 1) = false) ∧
    (Commands 10 fun s P => s.owned P (svcArg P 0) 32 = false ∨ s.owned P (svcArg P 1) 608 = false) := by
  refine ⟨⟨commands [] id ?_, commands [] (onPart fun P => { P with frozen := true }) ?_⟩,
    ⟨commands [0x4000000, 0x4000000] id ?_, commands [0x4000000, 0x4000001] id ?_⟩,
    ⟨commands [0, 0, 0x4000000] id ?_, commands [1, 65535, 0x4000000] (chosen fun c => { c with
        streams := [(65535, ⟨9, 2, false, 0, 0, 0, []⟩)] }) ?_,
      commands [2, 9, 0x4000000] (onRun fun r =>
        { r with dir := [(4, ⟨9, 1, 0x4000, 1, 16, 0, 1, false, 0, false, 0, none, [], true⟩)] }) ?_, commands [3] id ?_⟩,
    List.forall_mem_cons.2 ⟨commands [0x100] id ?_, List.forall_mem_singleton.2 (commands [0x100] (onRun fun r =>
      { r with whisks := [(3, request .travelling)] }) ?_)⟩,
    ⟨commands [1, 0x4000000, 4096] id ?_, commands [2] id ?_, commands [0, 0x4000000, 4097] id ?_⟩,
    ⟨commands [0x8000000, 64] id ?_, commands [0x4000000, 64, 0x4001000] id ?_, commands [0x4000000, 64, 0x4001000] id ?_,
      commands [0x4000000, 64, 0x4001000] id ?_, commands [0x4000000, 64, 0x7FFFFF8] id ?_⟩,
    ⟨commands [0] (onRun fun r => { r with launches := [] }) ?_, commands [0] id ?_⟩,
    ⟨commands [15, 0x4000000] id ?_, commands [15, 0] id ?_, commands [16] id ?_, commands [0, 0x8000000] id ?_⟩,
    List.forall_mem_cons.2 ⟨commands [6, 0x4000000] id ?_, List.forall_mem_singleton.2 (commands [7, 0x4000000] id ?_)⟩, ⟨commands [5] id ?_, commands [7, 0x8000000] id ?_⟩, commands [0x4000000, 0x4001000] id ?_,
    commands [0x8000000, 0x4001000] id ?_⟩
  all_goals decide +kernel

/-- A row takes a value. -/
def Takes (off : Nat) (v : DWord) : Prop := ∃ ok f, plainRow v off = some (ok, f) ∧ ok
def Refuses (off : Nat) (v : DWord) : Prop := ∃ ok f, plainRow v off = some (ok, f) ∧ ¬ok

/-- Page 9 has faulted; the loaded group waits for its verdict, and so does a discarded cluster. -/
def faulted : State := launched |> onPart (fun P => { P with faults := [⟨9, 0, false, 0⟩] }) |>
  onGroup (fun g => { g with wait := some (.page [9]) }) |> onRun fun r => { r with relaunches := [⟨1, 0, [(9, 0), (10, 0)], []⟩] }

theorem witness_RegisterWritesTakeOrFail :
    (Takes 0x008 0xFFFFFFFFFE000 ∧ Takes 0x040 0x0101 ∧ Takes 0x058 100000 ∧ Takes 0x060 1 ∧ Takes 0x060 1000 ∧
      Takes 0x068 0xFFFFFFFF ∧ Takes 0x070 0xFFFF ∧ Takes 0x480 5 ∧ Takes 0x488 0x8000000190000064) ∧
    (Refuses 0x008 0x1000 ∧ Refuses 0x008 0x10000000000000 ∧ Refuses 0x040 0x0100 ∧ Refuses 0x058 100001 ∧ Refuses 0x060 0 ∧
      Refuses 0x060 1001 ∧ Refuses 0x068 0x100000000 ∧ Refuses 0x070 0x10000 ∧ Refuses 0x488 0x8000000190000065) ∧
    (∃ P, launched.part? 0 = some P ∧ P.regs.svcBusy = none ∧ P.regs.invDone = true ∧ P.run.teams ≠ [] ∧
      Table.get? launched.portGrant 0 ≠ some 0) ∧
    (∃ P, noTeams.part? 0 = some P ∧ P.run.teams = [] ∧ P.homesEmpty = true ∧
      768 ≤ 32 * 2 ^ P.regs.logDies * (62 - 38) ∧
      P.backingEnd ≤ P.regs.shelfb.toNat + 32 * 2 ^ P.regs.logDies * (62 - 38) * 2 ^ 20 ∧
      ¬768 ≤ 32 * 2 ^ P.regs.logDies * (62 - 40)) ∧
    (∃ P, invalidating.part? 0 = some P ∧ P.regs.invDone = false) ∧
    (∃ P, faulted.part? 0 = some P ∧ P.pending (9 : BitVec 40).toNat = true) ∧
    (∃ P, (launched |> withQueue queue2).part? 0 = some P ∧ Table.get? P.queues (2 : BitVec 7).toNat = some queue2) ∧
    launched.fw.pass = [] ∧
    (queue2.base.getLsbD 63 = true ∧ (let v := queue2.base &&& 0x7FFFFFFFFFFFFFFF
      v.extractLsb' 0 6 = 0 ∧ v.extractLsb' 52 12 = 0)) ∧
    (∃ P, (launched |> withQueue { queue2 with base := 0 }).part? 0 = some P ∧
      (let v : DWord := 0x8000000004300000
       v.extractLsb' 0 6 = 0 ∧ v.extractLsb' 52 11 = 0 ∧ v.getLsbD 63 = true ∧ queue2.size ≠ 0 ∧
        launched.hostOrOwned P ((v.extractLsb' 6 46).toNat * 64) (64 * queue2.size.toNat) = true)) ∧
    (∃ P, (booted |> onPart fun P => P.setRegs fun r => { r with svcBusy := some 1 }).part? 0 = some P ∧ P.regs.svcBusy ≠ none) ∧
    Table.get? granted.portGrant ((0x9800000000000000 : DWord).extractLsb' 59 4).toNat = some (0 : PartNo).toNat := by
  refine ⟨⟨⟨_, _, rfl, by decide⟩, ⟨_, _, rfl, by decide⟩, ⟨_, _, rfl, by decide⟩, ⟨_, _, rfl, by decide⟩, ⟨_, _, rfl, by decide⟩,
    ⟨_, _, rfl, by decide⟩, ⟨_, _, rfl, by decide⟩, ⟨_, _, rfl, trivial⟩, ⟨_, _, rfl, by decide⟩⟩, ⟨⟨_, _, rfl, by decide⟩,
    ⟨_, _, rfl, by decide⟩, ⟨_, _, rfl, by decide⟩, ⟨_, _, rfl, by decide⟩, ⟨_, _, rfl, by decide⟩, ⟨_, _, rfl, by decide⟩,
    ⟨_, _, rfl, by decide⟩, ⟨_, _, rfl, by decide⟩, ⟨_, _, rfl, by decide⟩⟩, any_of (by decide +kernel), any_of (by decide +kernel),
    any_of (by decide +kernel), any_of (by decide +kernel), any_of (by decide +kernel), by decide +kernel, by decide +kernel,
    any_of (by decide +kernel), any_of (by decide +kernel), by decide +kernel⟩

/-- Offsets that name no register, or one that is read only; the second queue register set, where there is one queue. -/
theorem witness_WritesFailWhereNoRegisterStands :
    ([0, 0x010, 0x030, 0x078, 0x07C, 0x0F8, 0x180, 0x3F8, 0x490, 0x520, 0x1600, 0xFFFF].all fun off => decide ¬(
      off ∈ [0x008, 0x018, 0x028, 0x038, 0x040, 0x048, 0x050, 0x058, 0x060, 0x068, 0x070, 0x480, 0x488, 0x500, 0x508, 0x510, 0x518] ∨
      (0x080 ≤ off ∧ off ≤ 0x0F0 ∧ off % 8 = 0) ∨ (0x100 ≤ off ∧ off ≤ 0x178 ∧ off % 8 = 0) ∨
      (0x400 ≤ off ∧ off ≤ 0x478 ∧ off % 8 = 0) ∨ (0x600 ≤ off ∧ off < 0x1600 ∧ off % 8 = 0))) = true ∧
    ∃ P, (launched |> withQueue queue2).part? 0 = some P ∧ P.queues[1]? = none ∧ P.queues[0]? = some (2, queue2) ∧
      (P.queues.filter fun e => decide (e.1 < 2)).length = 0 :=
  ⟨by decide +kernel, any_of (by decide +kernel)⟩

/-- Values that registers refuse: reserved bits, values out of range, a ring that the partition does not own. -/
theorem witness_RegistersRefuseTheirReservedBits :
    (2 ^ 21 ≤ (0x200000 : DWord).toNat ∧ (0x1FFFFF : DWord).toNat < 2 ^ 21) ∧
    ((2 : DWord).extractLsb' 1 15 ≠ 0 ∧ (0x100000000000000 : DWord).extractLsb' 56 8 ≠ 0) ∧
    (∃ P, faulted.part? 0 = some P ∧ P.pending 8 = false ∧ ((0x80001 : DWord).extractLsb' 16 40).toNat = 8) ∧
    ((0x20 : DWord).extractLsb' 0 6 ≠ 0 ∧ (0x10000000000000 : DWord).extractLsb' 52 11 ≠ 0) ∧
    (∃ P, (launched |> withQueue { queue2 with base := 0 }).part? 0 = some P ∧ launched.hostOrOwned P 0x8000000 1024 = false) ∧
    ((0x8000 : DWord).toNat = 2 ^ 15 ∧ ∀ j < 12, (0x10000 : DWord).toNat ≠ 2 ^ (j + 4)) ∧
    (0x4200000 : DWord).extractLsb' 0 4 = 0 ∧ (8 : DWord).extractLsb' 0 4 ≠ 0 ∧ (0x8000 : DWord).extractLsb' 0 16 ≠ 0 ∧
    (0x20000 : DWord).extractLsb' 0 18 ≠ 0 ∧ 10 < (11 : DWord).toNat :=
  ⟨by decide +kernel, by decide +kernel, any_of (by decide +kernel), by decide +kernel, any_of (by decide +kernel), by decide +kernel,
    by decide +kernel, by decide +kernel, by decide +kernel, by decide +kernel, by decide +kernel⟩

/-- One of each of R315's. -/
def barred : List Instr := [.stw 1 2 0 0, .std 2 2 0 0, .stq 4 2 0 0, .sth 1 2 0 0, .stb 1 2 0 0, .sst 1 0 0 0, .strel 1 2 0 1,
  .cpyo 1 2 0 0, .cpyv 1 2 0, .cpyt 1 2 1 0, .wcall 1 2 0 0 0, .wpost 2 0 0 0, .exit, .arv 1 0 0, .arva 1 0 0, .arvd 1 0 0,
  .bwait 1 0 0, .sendr 1 2 0 0 0, .sendb 1 2 0 0, .ccall 0, .anch, .choose 1 2]

theorem witness_MethodsTrapAndFail :
    (∀ i ∈ barred, ∃ c, Ready c method i ∧ (isWhisk c.gid = true ∧ notInMethods i = true ∧ (encode i).isSome = true)) ∧
    (∃ P, launched.part? 0 = some P ∧ ((Table.get? P.run.homes 5).any fun h => h.grp.settled && !h.grp.poisons issueWords && h.batch.isNone) = true) ∧
    ∃ P, (onHome (fun h => { h with batch := some batch }) (launched |> onRun fun r => { r with whisks := [(3, request (.batch 5))] })).part? 0 = some P ∧ isWhisk 5 = true ∧
      ((Table.get? P.run.homes 5).any fun h => h.grp.settled && !h.grp.poisons issueWords && (h.batch.any fun b => decide (b.reqs.Nodup ∧
        b.pa % 64 = 0 ∧ ∀ e ∈ P.run.whisks, e.2.pa = b.pa → e.2.op ≠ 0))) = true ∧
      launched.cxlDown = [] ∧ P.sieve.snapshot = none :=
  ⟨shown_all (P := fun i c => isWhisk c.gid = true ∧ notInMethods i = true ∧ (encode i).isSome = true) (by decide +kernel),
    any_of (by decide +kernel), any_of (by decide +kernel)⟩

theorem witness_DecodeAndEncodeAgree :
    (Instr.saddi 2 2 100).wf = true ∧ encode (.saddi 2 2 100) = some 0x6B108064 ∧ decode 0x6B108064 = .ok (.saddi 2 2 100) := by
  decide

/-- The group whose turn it is, where it may run and no trap waits. -/
def acting (s : State) : Option Ctx :=
  match s.agenda with
  | .group p gid check :: rest =>
    (({ s with tick := s.tick + 1, agenda := rest, cur := some ⟨p, gid, check⟩ } : State).issuer).filter fun c =>
      c.mayAct && c.g.latched.isNone
  | _ => none
/-- The word that it fetches. -/
def fetchedWord (s : State) : Option Word := (acting s).bind fun c => match c.fetch with
  | .ok (_, w) => some w
  | .error _ => none
/-- What the step of a group fetches: its decoded word. -/
def fetches (s : State) (i : Instr) (b : Ctx → Bool) : Bool :=
  (acting s).any b && (fetchedWord s).any fun w => match decode w with
    | .ok j => decide (i = j)
    | .error _ => false

/-- The whisk group of core 5 runs a method at 0x100000. -/
def inMethod : State :=
  let s := State.reset.withFetchWord 32 0x6B108064
  { (s |> onHome fun h => { h with phase := .user, grp := { h.grp with pc := 0x100000 } }) with agenda := [.group 0 5 .agrees] }

theorem witness_StepRunsTheDecodedInstruction :
    fetches (State.reset.withFetchWord 32 0x6B108064) (.saddi 2 2 100) (fun c => !isWhisk c.gid) = true ∧
    fetches inMethod (.saddi 2 2 100) (fun c => isWhisk c.gid && (Table.get? c.P.run.homes c.gid).any fun h =>
      decide (h.phase = .user) && !c.P.batchHeld c.gid) = true ∧
    fetches { State.reset.withFetchWord 32 0x8010A302 with paused := true } (.ldw 4 10 3 2) (fun c =>
      !isWhisk c.gid && c.s.paused && leavesCore (.ldw 4 10 3 2)) = true ∧
    (fetchedWord (State.reset.withFetchWord 32 0x47000820)).any (fun w => decide (decode w = .error (.reservedField w 5))) = true ∧
    (encode (.energyPeriod 0) = none ∧ launched.halted (.energyPeriod 0) = false) ∧
    (encode (.finalCommit 0 3) = none ∧ (flags true false false).halted (.finalCommit 0 3) = true) ∧
    engineOf (.finalCommit 0 3) = some 0 ∧ ∃ P, (flags true false false).part? 0 = some P ∧ P.frozen = true :=
  ⟨by decide +kernel, by decide +kernel, by decide +kernel, by decide +kernel, by decide +kernel, by decide +kernel, by decide, any_of (by decide +kernel)⟩

theorem witness_EveryStepKeepsMemoryCanonical : Memory.wf launched.mem = true ∧ 0 < launched.mem.length ∧
    ∃ t, step { launched with agenda := [.event (.clockRaise 0)] } = .next t :=
  ⟨by decide +kernel, by decide +kernel, _, rfl⟩

/-! ### Witnesses: further clauses -/

theorem shown_maps {s : State} {l : List Instr} {acc : Acc} {items : Ctx → List (Nat × DWord)} {P : Instr → Ctx → Prop}
    [∀ i, DecidablePred (P i)] (h : (l.all fun i => seen s i fun c => mapsB c acc (items c) && decide (P i c)) = true) :
    ∀ i ∈ l, ∃ c, Ready c s i ∧ Maps c acc (items c) ∧ P i c := by
  intro i hi
  obtain ⟨c, hc, h⟩ := ready_of (List.all_eq_true.mp h i hi)
  simp only [Bool.and_eq_true, decide_eq_true_eq] at h
  exact ⟨c, hc, maps_of h.1, h.2⟩

theorem witness_TrapEntryToTheDefaultHandler :
    isWhisk loadedGroup = false ∧ ∃ P, launched.part? 0 = some P ∧
      (P.team? (gidTeam loadedGroup)).any (fun tm => decide (tm.staged = [])) = true ∧
      (P.group? loadedGroup).any (fun g => decide (g.windows.all Window.done = true ∧ g.inTrap = false ∧
        g.tvec = 0xFFFFFFFFFFFFFFFC ∧ g.poisons (tvecWord :: issueWords) = false)) = true :=
  ⟨by decide, any_of (by decide +kernel)⟩

/-- What a releasing instruction asks of its context. -/
abbrev releases (c : Ctx) : Prop :=
  isWhisk c.gid = false ∧ (c.P.mode = 0 ∨ c.P.mode = 1) ∧ c.g.windows.all Window.done = true ∧ c.g.count .ld = 0 ∧
    c.g.count .cin = 0 ∧ c.g.count .cout = 0 ∧ c.P.run.sights = [] ∧ c.P.unacked = [] ∧ c.P.hostBound c.tk = false
abbrev committed (c : Ctx) : Prop :=
  c.team?.any (fun tm => decide (tm.commit = none ∧ tm.colander = [] ∧ tm.posted = [])) = true

/-- The loaded team holds a line back. -/
def storing : State := launched |> onTeam fun t => { t with colander := [⟨0x80, 0x80000, false, [(0, 5)], []⟩] }

theorem witness_WideFenceCommits :
    (∀ i ∈ [Instr.fence 3 1, .fence 3 2, .fence 4 2, .fence 6 1], ∃ c, Ready c launched i ∧ releases c ∧ committed c) ∧
    ∃ c, Ready c storing (.fence 3 1) ∧ releases c ∧
      c.team?.any (fun tm => decide (tm.commit = none ∧ tm.colander ≠ [])) = true :=
  ⟨shown_all (by decide +kernel), shown (by decide +kernel)⟩

theorem witness_WideReleasesWriteDirectly :
    ∀ i ∈ [Instr.strel 4 2 0 3, .strel 4 2 0 4, .strel 4 2 0 6], ∃ c, Ready c launched i ∧ Maps c .write (laneAddresses c 2 0 4) ∧
      releases c ∧ committed c ∧ (∀ e ∈ laneAddresses c 2 0 4, e.2.toNat % 4 = 0) ∧
      (laneAddresses c 2 0 4).all (fun e => match c.look .write (e.2.toNat % 2 ^ 56) with
        | .ok pa _ _ _ _ => decide (pa < 2 ^ 51)
        | _ => true) = true :=
  shown_maps (by decide +kernel)

/-- Every core has answered the probes of an `ldacq`. -/
def probed : State := launched |> onGroup (fun g => { g with stage := .probing 7 }) |>
  onRun fun r => { r with ops := [(7, .probe loadedGroup [0x80000] [])] }

theorem witness_AcquiresAtScopeSixProbeFirst :
    (∀ i ∈ [Instr.ldacq 4 2 3 6], ∃ c, Ready c launched i ∧ Maps c .read (laneAddresses c 2 0 4) ∧ laneAddresses c 2 0 4 ≠ [] ∧
      ∀ e ∈ laneAddresses c 2 0 4, e.2.toNat % 4 = 0) ∧
    ∃ c, probed.issuer = some c ∧ c.g.stage = .probing 7 ∧ Table.get? c.P.run.ops 7 = some (.probe loadedGroup [0x80000] []) ∧
      laneAddresses c 2 0 4 ≠ [] ∧ (∀ e ∈ laneAddresses c 2 0 4, e.2.toNat % 4 = 0) ∧ c.g.wait = none ∧ c.g.count .ld < 255 ∧
      Maps c .read (laneAddresses c 2 0 4) ∧ ColanderClean c := by
  refine ⟨shown_maps (by decide +kernel), ?_⟩
  have h : (probed.issuer.any fun c => decide (((c.g.stage = .probing 7 ∧
      Table.get? c.P.run.ops 7 = some (.probe loadedGroup [0x80000] [])) ∧ laneAddresses c 2 0 4 ≠ [] ∧
      (∀ e ∈ laneAddresses c 2 0 4, e.2.toNat % 4 = 0) ∧ c.g.wait = none ∧ c.g.count .ld < 255) ∧
      mapsB c .read (laneAddresses c 2 0 4) = true ∧ cleanB c = true)) = true := by decide +kernel
  obtain ⟨c, hc, ⟨⟨h1, h2⟩, h3, h4, h5, h6⟩, h7, h8⟩ := any_of h
  exact ⟨c, hc, h1, h2, h3, h4, h5, h6, maps_of h7, clean_of h8⟩

/-- Slot 1 is dirty under 0x5000, and the team may hold 64 lines. -/
def dirty : State := tagged 3 |> onTeam fun t => { t with quota := 64 }

theorem witness_SevictWritesADirtySlotBack :
    ∀ i ∈ [Instr.sevict 1 1 0], ∃ c, Ready c dirty i ∧ Maps c .write [(0, 0x5000)] ∧ isWhisk c.gid = false ∧
      (c.g.sreg 1).toNat % 256 = 1 ∧ c.reach 1 = .own 3 ∧ c.slotTbPoison 1 = false ∧ c.slotBusy 1 = false ∧ c.slotCopies 1 = false ∧
      (tagOf dirty c 1).any (fun t => decide (t.key = 0x5000)) = true ∧ (c.P.core? (c.P.coreOf c.gid)).isSome = true ∧
      c.peekPoison (1 * 4096) 4096 = false ∧
      (match c.look .write 0x5000 with
        | .ok pa obs _ _ _ => c.team?.any fun tm => (tm.putAll (c.writeBack 1 0x5000 pa obs) 0).2 == 32 &&
          decide (∀ l ∈ tm.colander, ∀ d ∈ l.poison, d < 16)
        | _ => false) = true :=
  shown_maps (by decide +kernel)

theorem witness_FirstBindingOfATile :
    ∃ c, Ready c (engine [] 0 0) (.acfg 1 0 0 3) ∧ c.team?.any (fun tm => decide (3 < tm.accQuota ∧ Table.get? tm.tiles 3 = none)) = true ∧
      (c.P.core? (c.P.coreOf c.gid)).any (fun k => decide (∃ n < 8, Table.get? k.tiles n = none)) = true :=
  shown (by decide +kernel)

/-- `nanc` waits for its batch. -/
theorem witness_NancWaits :
    ∃ c, Ready c (batched 1 0 1) (.nanc 2 1) ∧ ageOf c < 16 ∧ c.g.complete < c.g.closed - ageOf c :=
  shown (by decide +kernel)

/-- Binding 0 is valid and names port 3; the link of that port is dead, or not. -/
def bound (dead : Bool) : State := { (scalars13 (127 * 2 ^ 40 + 32 * 2 ^ 20) 8 |> onPart fun P => P.setRegs fun r =>
  { r with spw := [(0, 0x9800000000000000)] }) with links := if dead then [⟨.sprinwald 3, true, 0, 0⟩] else [] }

theorem witness_SendbThroughABinding :
    (∃ c, Ready c (scalars13 0 8) (.sendb 1 3 1 0) ∧ isWhisk c.gid = false ∧ (c.g.sreg 1).extractLsb' 52 12 = 0 ∧
      (c.g.sreg 3).toNat < 2 ^ 24 ∧ (Cells.get 0 c.P.regs.spw 0).getLsbD 63 = false) ∧
    ∀ d : Bool, ∃ c, Ready c (bound d) (.sendb 1 3 1 0) ∧ isWhisk c.gid = false ∧ (c.g.sreg 1).extractLsb' 52 12 = 0 ∧
      c.cwordTrap (c.g.sreg 3) true = none ∧ ((c.g.sreg 1).extractLsb' 20 20).toNat = 32 ∧
      ((c.g.sreg 1).extractLsb' 0 20).toNat = 0 ∧ ((c.g.sreg 1).extractLsb' 40 12).toNat + 1 = 128 ∧
      c.padError false 0 0 (32 * 128) 0 = none ∧ c.g.count .snd < 255 ∧ c.team?.isSome = true ∧ (bound d).portDead 3 = d := by
  refine ⟨shown (by decide +kernel), fun d => ?_⟩
  cases d <;> exact shown (by decide +kernel)

theorem witness_WtakeWithABatchOpen :
    ∃ c, Ready c (serving none .loop) (.wtake 1) ∧ isWhisk c.gid = true ∧ (homeOf c).any (fun h => h.batch.isSome) = true :=
  shown (by decide +kernel)

/-- A second request for the object of the open batch is queued, and one for another object. -/
theorem witness_SpoiledObjectsAreEmptied :
    ((onRun (fun r => { r with whisks := [(3, request (.batch 5)), (4, request (.queued 5)),
        (6, { request (.queued 5) with pa := 0x4000200 })] })
      (onHome (fun h => { h with batch := some batch, queue := [4, 6] }) launched)).part? 0).any (fun P => decide
        ((Table.get? P.run.homes 5).any (fun h => decide (4 ∈ h.queue ∧ 4 ∉ batch.reqs ∧ 6 ∈ h.queue)) = true ∧
          (Table.get? P.run.whisks 4).any (fun w => decide (w.pa = batch.pa ∧ w.place = .queued 5)) = true ∧
          (Table.get? P.run.whisks 6).any (fun w => decide (w.pa ≠ batch.pa)) = true)) = true := by
  decide +kernel

/-- The place of double words in the reserved region: there is one wherever the firmware would have them, if there is one when it
has no wish; and there is none for more than the region holds. -/
theorem place_isSome {c : Choice} {but : Option Nat} {n : Nat} (w : Nat) (h : (c.regionPlace but regionWords n).isSome = true)
    (hn : 0 < n) : (c.regionPlace but w n).isSome = true := by
  unfold Choice.regionPlace at h ⊢
  have : ¬regionWords + n ≤ regionWords := by omega
  simp only [this, decide_false, Bool.false_and, Bool.false_eq_true, if_false] at h
  dsimp only
  split
  · rfl
  · exact h

theorem place_none {c : Choice} {but : Option Nat} {n : Nat} (w : Nat) (hn : regionWords < n) : c.regionPlace but w n = none := by
  unfold Choice.regionPlace
  have h : ∀ b, ¬b + n ≤ regionWords := fun b => by omega
  simp [h]

/-- Two records of a stream, and the eight double words of a successor, have a place in the loaded partition's region. -/
theorem witness_RegionPlaces : (∀ w, (loadedPart.choice.regionPlace none w 2).isSome = true) ∧
    (∀ w, (loadedPart.choice.regionPlace none w 8).isSome = true) ∧
    ∀ w, loadedPart.choice.regionPlace none w (2 ^ 26 + 1) = none :=
  ⟨fun w => place_isSome w (by decide +kernel) (by decide), fun w => place_isSome w (by decide +kernel) (by decide),
    fun w => place_none w (by decide)⟩

/-- The disabling write of queue 2 waits for the end of the pass. -/
theorem witness_StoppingQueuesAreDisabled :
    let s := booted |> withQueue { queue2 with stopping := true }
    s.fw.serving = true ∧ s.fw.pass = [] ∧ s.packetsHeld = false ∧ (s.part? 0).any (fun P => decide (Table.get? P.queues 2 = some { queue2 with stopping := true })) =
      true ∧ ∀ e ∈ s.parts, ∀ k ∈ e.2.queues, s.unclean k.2.packetPlace 64 = false := by
  decide +kernel

/-- A packet of queue 2 is in the pass while QBASE is written. -/
theorem witness_QbaseWriteInAPass :
    let s := passing 0 launched
    (∃ e ∈ s.fw.pass, e.1 = 2) ∧ (s.part? 0).any (fun P => decide (Table.get? P.queues 2 = some queue2)) = true ∧
      queue2.base.getLsbD 63 = true ∧ (queue2.base &&& 0x7FFFFFFFFFFFFFFF).extractLsb' 0 6 = 0 ∧
      (queue2.base &&& 0x7FFFFFFFFFFFFFFF).extractLsb' 52 12 = 0 := by
  decide +kernel

/-! ### Witnesses: the checks before an instruction's own, and forms with traps of their own -/

/-- The conditions of `Issues` but the first. -/
def issuesB (c : Ctx) : Bool :=
  decide (c.g.stage = .fresh) && decide (c.g.wait = none) && !c.g.windows.any Window.blocks && decide (c.g.dueWhisk = none) &&
    !c.g.poisons issueWords

theorem issued {s : State} {P : Ctx → Prop} [DecidablePred P] (h : (s.issuer.any fun c => issuesB c && decide (P c)) = true) :
    ∃ c, Issues c s ∧ P c := by
  cases hc : s.issuer with
  | none => rw [hc] at h; cases h
  | some c =>
    rw [hc] at h
    simp only [Option.any_some, issuesB, Bool.and_eq_true, decide_eq_true_eq, Bool.not_eq_true'] at h
    obtain ⟨⟨⟨⟨⟨h1, h2⟩, h3⟩, h4⟩, h5⟩, hp⟩ := h
    exact ⟨c, ⟨hc, h1, h2, h3, h4, h5⟩, hp⟩

/-- Field `k` of the rules of a word's opcode is the first that the word breaks. -/
def breaks (w : Word) (k : Nat) : Bool :=
  let rules := fieldRules (w.extractLsb' 24 8).toNat
  match rules[k]? with
  | some (lo, n, ok) => (rules.take k).all (fun f => f.2.2 (w.extractLsb' f.1 f.2.1).toNat) && !ok (w.extractLsb' lo n).toNat
  | none => false

theorem breaks_of {w : Word} {k : Nat} (h : breaks w k = true) : ∃ before lo n ok after,
    fieldRules (w.extractLsb' 24 8).toNat = before ++ (lo, n, ok) :: after ∧
      (∀ f ∈ before, f.2.2 (w.extractLsb' f.1 f.2.1).toNat = true) ∧ ok (w.extractLsb' lo n).toNat = false := by
  unfold breaks at h
  simp only at h
  split at h
  · rename_i lo n ok hk
    obtain ⟨hlt, he⟩ := List.getElem?_eq_some_iff.mp hk
    simp only [Bool.and_eq_true, List.all_eq_true, Bool.not_eq_true'] at h
    refine ⟨List.take k (fieldRules (w.extractLsb' 24 8).toNat), lo, n, ok, List.drop (k + 1) (fieldRules (w.extractLsb' 24 8).toNat), ?_,
      h.1, h.2⟩
    rw [← he, ← List.drop_eq_getElem_cons hlt, List.take_append_drop]
  · cases h

/-- The ends of a field, of the values it allows, and fields behind a whole one. -/
theorem witness_ReservedFieldsTrap :
    (∀ e ∈ ([(0x00000001, 0), (0x00800000, 0), (0x04000100, 0), (0x04000200, 1), (0x0E044000, 2), (0x13010000, 0), (0x39000040, 0),
        (0x8A000000, 0), (0x8B000007, 0), (0x8A000009, 1), (0x8C003000, 0), (0x92001000, 1), (0x95000003, 0), (0x96000007, 0),
        (0xA1F80000, 2), (0xAA080000, 3), (0xC4200001, 0), (0xC42C0000, 1), (0xC4000000, 2), (0xC4E00000, 2)] : List (Word × Nat)),
      breaks e.1 e.2 = true) ∧ ∃ c, Issues c launched ∧ True :=
  ⟨by decide +kernel, issued (by decide +kernel)⟩

/-- The team's kernel has 8 vector registers. -/
def smallKernel : State := launched |> onTeam fun t => { t with nregs := 8 }

/-- An operand whose index register is X2, with an offset of 1. -/
def byIndex : Operand := ⟨.idx, 17⟩

/-- A window is open that protects v4 and v6, and s4 and s6; its next position is the last that it holds. -/
def protecting : State := launched |> onGroup fun g => { g with windows := [⟨1, 1, false, [4, 6], [4, 6], 7, false, false⟩] }

theorem witness_RegisterChecksTrap :
    (∃ c, Issues c smallKernel ∧ c.n = 8 ∧ c.g.ty = 0) ∧ (∃ c, Issues c (typed 2) ∧ c.g.ty ∈ [2, 3, 9] ∧ c.n = 64) ∧
    (∃ c, Issues c (indexed |> onGroup fun g => { g with mode := 0 }) ∧ c.g.ty ∉ [2, 3, 9] ∧ c.g.active 3 = true ∧
      c.n ≤ c.g.index 2 3 + 1 ∧ ∀ m < 3, c.g.active m = true →
        ¬(c.g.index 2 m + 1 < c.g.lower 2 m ∨ c.g.upper c.n 2 m < c.g.index 2 m + 1 ∨ c.n ≤ c.g.index 2 m + 1)) ∧
    byIndex.reg.toNat / 8 = 2 ∧ byIndex.reg.toNat % 8 = 1 ∧
    ∃ c, Issues c protecting ∧ ∃ x, c.g.windows = [x] ∧ x.pos = x.la ∧ x.vregs = [4, 6] ∧ x.sregs = [4, 6] :=
  ⟨issued (by decide +kernel), issued (by decide +kernel), issued (by decide +kernel), by decide, by decide, by
    obtain ⟨c, hc, h⟩ := issued (s := protecting)
      (P := fun c => c.g.windows = [⟨1, 1, false, [4, 6], [4, 6], 7, false, false⟩]) (by decide +kernel)
    exact ⟨c, hc, _, h, rfl, rfl, rfl⟩⟩

/-- A team barrier 0 with one member, as `b` has it. -/
def barred0 (b : Barrier → Barrier) : State := launched |> onTeam fun t => { t with bars := [(0, b (Barrier.initial 1))] }

def onBarrier (v : BitVec 2) (b : BitVec 4) : List Instr := [.arv v b 2, .arva v b 2, .arvd v b 2, .bwait v b 2]
abbrev mayUse (c : Ctx) : Prop := isWhisk c.gid = false ∧ c.g.windows.all Window.done = true

theorem witness_BarrierInstructionsTrap :
    (∀ i ∈ onBarrier 2 3, ∃ c, Ready c launched i ∧ mayUse c ∧
      (c.team?.any fun tm => decide ((c.P.launchOf tm).any Launch.coresident = false)) = true) ∧
    (∀ i ∈ onBarrier 2 0, ∃ c, Ready c (coresident |> onTeam fun t => { t with rank := 1 }) i ∧ mayUse c ∧
      (c.team?.any fun tm => decide ((c.P.launchOf tm).any Launch.coresident = true ∧ tm.arriving (gidGroup c.gid) 2 = false)) = true) ∧
    (∀ i ∈ onBarrier 0 0, ∃ c, Ready c (barred0 fun b => { b with sub := 0 }) i ∧ mayUse c ∧ (c.team?.any fun tm => decide
      (tm.arriving (gidGroup c.gid) 0 = true ∧ (c.P.bar tm 0 0).sub.getLsbD (c.P.member tm (gidGroup c.gid) 0) = false)) = true) ∧
    (∀ i ∈ onBarrier 0 0, ∃ c, Ready c (barred0 fun b => { b with ord := 17, arr := 1 }) i ∧ mayUse c ∧ (c.team?.any fun tm => decide
      (tm.arriving (gidGroup c.gid) 0 = true ∧ (c.P.bar tm 0 0).sub.getLsbD (c.P.member tm (gidGroup c.gid) 0) = true ∧
        (c.P.bar tm 0 0).arr.getLsbD (c.P.member tm (gidGroup c.gid) 0) = true)) = true) ∧
    ∀ i ∈ onBarrier 0 0, ∃ c, Ready c (launched |> onTeam fun t => { t with kdue := [⟨1, 0, 3, 1⟩, ⟨0, 2, 5, 0⟩] }) i ∧ mayUse c ∧
      (c.team?.any fun tm => decide (tm.arriving (gidGroup c.gid) 0 = true ∧
        (c.P.bar tm 0 0).sub.getLsbD (c.P.member tm (gidGroup c.gid) 0) = true ∧
        (c.P.bar tm 0 0).arr.getLsbD (c.P.member tm (gidGroup c.gid) 0) = false ∧
        (tm.kdue.find? fun y => y.grp == gidGroup c.gid) = some ⟨0, 2, 5, 0⟩)) = true :=
  ⟨shown_all (by decide +kernel), shown_all (by decide +kernel), shown_all (by decide +kernel), shown_all (by decide +kernel),
    shown_all (by decide +kernel)⟩

/-- Lanes 0 and 31 have different lines, and the filter holds the line of the others. -/
def filtered : State := launched |> onCore (fun k => { k with filter := [(0x80000, 0), (0x80001, 1)] }) |>
  onGroup fun g => g.setV 2 31 0x100

theorem witness_TeamReleasesFillTheFilter :
    ∀ i ∈ [Instr.strel 4 2 0 2], ∃ c, Ready c filtered i ∧ Maps c .write (laneAddresses c 2 0 4) ∧ isWhisk c.gid = false ∧
      (∀ e ∈ laneAddresses c 2 0 4, e.2.toNat % 4 = 0) ∧ c.g.count .ld = 0 ∧ c.g.count .cin = 0 ∧ c.g.count .cout = 0 ∧
      (c.team?.any fun tm => decide ((c.P.core? tm.core).any (fun k => decide
          (k.filter = [(0x80000, 0), (0x80001, 1)] ∧ k.filter.length + (laneAddresses c 2 0 4).length ≤ 512)) = true ∧ tm.slot = 0 ∧ (∀ l ∈ tm.colander, ∀ d ∈ l.poison, d < 16) ∧
        (tm.putAll (storePieces c ⟨4, laneAddresses c 2 0 4, laneBytes c 4 4⟩) 0).2 =
          (storePieces c ⟨4, laneAddresses c 2 0 4, laneBytes c 4 4⟩).length)) = true :=
  shown_maps (by decide +kernel)

/-- Slots 16 and 17 are the crock's, attached as `a` says; slots 20 and 21 are shadows; lane 0 alone acts, at an address of slot 17. -/
def crockSlots (a : Attach) : State := crocked 2 [a] 9 |>
  onCore (fun k => { k with
    tags := [(16, ⟨0, false, 4, 4, 0⟩), (17, ⟨0, false, 4, 4, 1⟩), (20, ⟨0, false, 5, 4, 0⟩), (21, ⟨0, false, 5, 4, 0⟩)] }) |>
  onGroup fun g => { (g.setV 2 0 0x11FFC) with em := 1 }

/-- The one store of a lane, and the core. -/
abbrev storesOne (c : Ctx) (at' : Int) : Prop :=
  padItems c 2 0 4 = [(0, at')] ∧ (c.P.core? (c.P.coreOf c.gid)).isSome = true
/-- An attach to write, with shadows and reserved slots. -/
def writingWith (shadows : Table Nat) (spare : List Nat) : Attach := { attached 1 false with shadows := shadows, spare := spare }
def attOf (c : Ctx) : Option Attach := c.team?.bind fun tm => tm.attaches.find? fun x => x.dir == 4

theorem witness_StoresIntoTaggedAndCrockSlots :
    (∃ c, Ready c (crockSlots (attached 0 false)) (.sts 1 2 0 0) ∧ storesOne c 0x11FFC ∧ c.reach 17 = .reading 4 1 ∧
      (c.P.core? (c.P.coreOf c.gid)).any (fun k => !k.guards.contains (0x11FFC / 16)) = true) ∧
    (∀ n ∈ [2, 3], ∃ c, Ready c (tagged (BitVec.ofNat 3 n) |> onGroup fun g => { (g.setV 2 0 0x1FFC) with em := 1 }) (.sts 1 2 0 0) ∧
      storesOne c 0x1FFC ∧ c.padChecks true 4 [(0, 0x1FFC)] = none ∧ c.reach 1 = .own n ∧
      (c.P.core? (c.P.coreOf c.gid)).any (fun k => (Table.get? k.tags 1).isSome) = true) ∧
    (∃ c, Ready c (crockSlots { attached 2 false with created := true }) (.sts 1 2 0 0) ∧ storesOne c 0x11FFC ∧
      c.padChecks true 4 [(0, 0x11FFC)] = none ∧ c.reach 17 = .fresh 4 1) ∧
    (∃ c, Ready c (crockSlots (writingWith [(1, 20)] [21])) (.sts 1 2 0 0) ∧ storesOne c 0x11FFC ∧
      c.padChecks true 4 [(0, 0x11FFC)] = none ∧ c.reach 17 = .writing 4 1 ∧
      (attOf c).any (fun a => decide (Table.get? a.shadows 1 = some 20)) = true) ∧
    ∃ c, Ready c (crockSlots (writingWith [(0, 20)] [21])) (.sts 1 2 0 0) ∧ storesOne c 0x11FFC ∧
      c.padChecks true 4 [(0, 0x11FFC)] = none ∧ c.reach 17 = .writing 4 1 ∧
      (attOf c).any (fun a => decide (Table.get? a.shadows 1 = none ∧ a.spare = [21])) = true := by
  refine ⟨shown (by decide +kernel), fun n h => ?_, shown (by decide +kernel), shown (by decide +kernel), shown (by decide +kernel)⟩
  obtain rfl | rfl : n = 2 ∨ n = 3 := by simpa using h
  · exact shown (by decide +kernel)
  · exact shown (by decide +kernel)

/-- The first slots of a run of two. -/
theorem witness_CkopenCreatesAndReservesShadows :
    (∀ i ∈ [Instr.ckopen 1 2 2 0 false 1, .ckopen 1 2 3 0 false 64], ∃ c, Ready c (crocked 1 [] 8) i ∧ freeOrDet c ∧
      (c.team?.any fun tm => decide (tm.core = c.P.coreOf c.gid ∧ tm.attaches = [])) = true ∧ c.g.sreg 2 = 8 ∧
      (c.P.core? (c.P.coreOf c.gid)).isSome = true ∧ c.P.crock? 8 = none ∧ Table.has c.P.run.dir 0 = false ∧
      ∀ n ∈ [1, 64], (c.P.backingFrame n).isSome = true ∧ c.P.freeRuns (c.P.coreOf c.gid) n ≠ [] ∧
        2 * n ≤ (c.P.freeSlotList (c.P.coreOf c.gid)).length) ∧
    ∃ c, Ready c (crocked 1 [] 9) (.ckopen 1 2 1 0 false 0) ∧ freeOrDet c ∧
      (c.team?.any fun tm => decide (tm.core = c.P.coreOf c.gid ∧ tm.attach? 9 = none ∧ tm.attaches.all (fun a => a.dir != 4) = true)) =
        true ∧ c.g.sreg 2 = 9 ∧ (c.P.core? (c.P.coreOf c.gid)).isSome = true ∧
      (c.P.crock? 9).any (fun x => decide (x.1 = 4 ∧ Table.get? c.P.run.dir 4 = some x.2 ∧ x.2.state = 1 ∧
        x.2.core.toNat = c.P.coreOf c.gid ∧ x.2.writer = false ∧ x.2.readers = 0 ∧ x.2.placed = true ∧
        x.2.count.toNat + 1 ≤ (c.P.freeSlotList (c.P.coreOf c.gid)).length)) = true :=
  ⟨shown_all (by decide +kernel), shown (by decide +kernel)⟩
/-! ### One step, against the worked examples of spec/ -/

/-- What the loaded group holds after an instruction. -/
def after (i : Instr) (s : State) (b : Group → Bool) : Bool :=
  match exec i s with
  | .next t => (t.part? 0).any fun P => (P.group? loadedGroup).any b
  | _ => false

/-- Values of lane registers of the loaded group: register, lane, value. -/
def vals (l : List (Nat × Nat × Word)) : State → State := onGroup fun g => l.foldl (fun g e => g.setV e.1 e.2.1 e.2.2) g
def moded (m : BitVec 24) : State → State := onGroup fun g => { g with mode := m }
/-- Lane 0 alone is active. -/
def lane0 : State → State := onGroup fun g => { g with em := 1 }

/-- spec/04 R101, worked example. -/
theorem test_mad2_saturates :
    let s (sat : Bool) := launched |> vals [(1, 0, 0x7FFF0000), (2, 0, 0x7FFF7FFF), (3, 0, 0x00020002)] |> lane0 |>
      moded (if sat then 0x104 else 0x004)
    after (.mad2 1 (own 2) (own 3)) (s true) (fun g => g.vreg 1 0 == 0x7FFFFFFF && g.stat == 1) = true ∧
    after (.mad2 1 (own 2) (own 3)) (s false) (fun g => g.vreg 1 0 == 0x8000FFFC && g.stat == 0) = true := by decide +kernel

/-- spec/04 R102: an element 0 of n8x4 stays 0 under SAT. -/
theorem test_addi_natural_saturates :
    after (.addi 1 1 0xFFF) (launched |> vals [(1, 0, 0x00050100)] |> lane0 |> moded 0x107)
      (fun g => g.vreg 1 0 == 0x00040000 && g.stat == 1) = true := by decide +kernel

/-- spec/04, `bfx` worked example under i32 and n32. -/
theorem test_bfx_signs :
    let s (t : BitVec 24) := launched |> vals [(1, 0, 0xC00)] |> lane0 |> moded t
    after (.bfx 2 1 8 4) (s 0) (fun g => g.vreg 2 0 == 0xFFFFFFFC) = true ∧
    after (.bfx 2 1 8 4) (s 1) (fun g => g.vreg 2 0 == 0x0000000C) = true := by decide +kernel

/-- spec/04 R114, worked example, PERM.FILL 0. -/
theorem test_hslide_down :
    after (.hslide 6 (own 6) true)
      (launched |> vals ((List.range 32).map fun i => (6, i, BitVec.ofNat 32 ((2 * i + 2) * 65536 + 2 * i + 1))))
      (fun g => g.vreg 6 0 == 0x00030002 && g.vreg 6 1 == 0x00050004 && g.vreg 6 31 == 0x00000040) = true := by decide +kernel

/-- spec/04 R116, worked `smovs` sequence. -/
theorem test_smovs_sequence :
    after (.smovs 1 0x48D15) launched (fun g => g.sreg 1 == 0x48D15) = true ∧
    after (.smovs 1 0x4F135) (launched |> onGroup fun g => g.setS 1 0x48D15) (fun g => g.sreg 1 == 0x2468ACF135) = true ∧
    after (.smovs 1 0x3CDEF) (launched |> onGroup fun g => g.setS 1 0x2468ACF135) (fun g => g.sreg 1 == 0x0123456789ABCDEF) = true := by
  decide +kernel

/-- spec/05 R127, worked example: the fused product is exact where the rounded one is not. -/
theorem test_fma_exact :
    let s := launched |> vals [(2, 0, 0x3F800800), (3, 0, 0x3F800800), (4, 0, 0xBF801000)] |> lane0 |> moded 8
    after (.fmul 9 (own 2) (own 3)) s (fun g => g.vreg 9 0 == 0x3F801000 && g.stat == 2) = true ∧
    after (.fma 4 (own 2) (own 3)) s (fun g => g.vreg 4 0 == 0x33800000 && g.stat == 0) = true := by decide +kernel

/-- spec/03, worked example: 0 × ∞ under NANM = 0. -/
theorem test_fmul_invalid :
    after (.fmul 1 (own 2) (own 3)) (launched |> vals [(2, 0, 0), (3, 0, 0x7F800000)] |> lane0 |> moded 8)
      (fun g => g.vreg 1 0 == 0x7FC00003 && g.stat == 32) = true := by decide +kernel

/-- spec/05, worked conversions to i16x2. -/
theorem test_cvt_integer :
    let s (x : Word) (sat : Bool) := launched |> vals [(0, 0, x)] |> lane0 |> moded (if sat then 0x108 else 0x008)
    ([(0x40200000, false, 2, 2), (0xC0600000, true, 0x0000FFFC, 2), (0x4788B800, false, 0x8000, 32), (0x4788B800, true, 0x7FFF, 1),
      (0x7FC00005, false, 0x8000, 32), (0x7FC00005, true, 0, 32)] : List (Word × Bool × Word × Word)).all (fun e =>
        after (.cvt 6 (own 0) 4) (s e.1 e.2.1) fun g => g.vreg 6 0 == e.2.2.1 && g.stat == e.2.2.2) = true := by decide +kernel

/-- spec/03, worked conversions to E4M3. -/
theorem test_cvt_e4m3 :
    let s (x : Word) (sat : Bool) := launched |> vals [(0, 0, x)] |> lane0 |> moded (if sat then 0x108 else 0x008)
    ([(0x3F800000, false, 0x38), (0x43E60000, false, 0x7E), (0x43FA0000, false, 0x7F), (0x43FA0000, true, 0x7E), (0xFF800000, false, 0xFF),
      (0xFF800000, true, 0xFE), (0x7FC00005, false, 0x7F), (0x3A800000, false, 0)] : List (Word × Bool × Word)).all (fun e =>
        after (.cvt 6 (own 0) 12) (s e.1 e.2.1) fun g => g.vreg 6 0 == e.2.2) = true := by decide +kernel

/-- spec/06 R144, the worked sequence: its masks after each step. -/
theorem test_mask_sequence :
    let s := launched |> vals ((List.range 32).map fun i => (2, i, BitVec.ofNat 32 i)) |> vals ((List.range 32).map fun i => (3, i, 10)) |>
      moded 0
    after (.clt 0 1 (own 2) (own 3)) s (fun g => g.preds 1 == 0x3FF) = true ∧
    after (.emand 1 false) (s |> onGroup fun g => { g with q := [(1, 0x3FF)] }) (fun g =>
      g.stack == [0xFFFFFFFF] && g.em == 0x3FF) = true ∧
    after .emelse (s |> onGroup fun g => { g with stack := [0xFFFFFFFF], em := 0x3FF }) (fun g => g.em == 0xFFFFFC00) = true ∧
    after (.addi 4 2 0xF9C) (s |> onGroup fun g => { g with stack := [0xFFFFFFFF], em := 0xFFFFFC00 }) (fun g =>
      g.vreg 4 10 == 0xFFFFFFA6 && g.vreg 4 31 == 0xFFFFFFBB && g.vreg 4 9 == 0) = true ∧
    after .empop (s |> onGroup fun g => { g with stack := [0xFFFFFFFF], em := 0xFFFFFC00 }) (fun g =>
      g.em == 0xFFFFFFFF && g.stack.isEmpty) = true := by decide +kernel

/-- spec/03, RN56 of 1/3. -/
theorem test_rn56_third : rnSum a56 [unpack f64 0x3FD5555555555555] = 0x3FD55555555555 := by decide +kernel

/-- spec/17, the worked walk: the frame of the loaded program's page, with A set and, for a store, D. -/
theorem test_walk : launched.loadPa loadedPart 0x123456 = some 0x4123456 := by decide +kernel

end Sys2Proof.Tests
end

section
/-!
SUPPORT and PROOF. How a ready instruction completes with written lanes or takes the type trap, and the instructions that write whole
lanes (spec/04_group_integer.md R104, R110 to R115).
-/
namespace Sys2Proof.Machine
open Sys2Proof.Spec

/-! ## How a ready instruction ends -/

/-- A checked instruction whose group keeps its PC completes with that group. -/
theorem Ready.completesWith {c : Ctx} {s : State} {i : Instr} (h : Ready c s i) {body : Ctx → Res} {g : Group} {rel : Group → Prop}
    (he : exec i s = Machine.issue i s body) (hb : body c = c.checked g) (hpc : g.pc = c.g.pc) (hrel : rel g) :
    CompletesWith c i s rel := by
  obtain ⟨t, ht, hran⟩ := h.done (hb.trans (h.checked g))
  exact ⟨t, g, he.trans ht, hpc ▸ hran, hrel⟩

/-- Writing lanes leaves the PC as it was. -/
theorem LanesWritten.pc {old new : Group} {wide : Bool} {d : VReg} {res : Nat → Nat × Nat}
    (h : LanesWritten old new wide d res) : new.pc = old.pc := by
  rw [h.frame]

/-- The form of `Ready.completesWith` for a group whose lanes have been written. -/
theorem Ready.completesWith_lanes {c : Ctx} {s : State} {i : Instr} (h : Ready c s i) {body : Ctx → Res} {g : Group} {wide : Bool}
    {d : VReg} {res : Nat → Nat × Nat} (he : exec i s = Machine.issue i s body) (hb : body c = c.checked g)
    (hw : LanesWritten c.g g wide d res) : CompletesWith c i s fun g => LanesWritten c.g g wide d res :=
  h.completesWith he hb hw.pc hw

/-- An instruction that ends in a trap, before any effect, has it raised (R42, R152). -/
theorem Ready.trapsWith {c : Ctx} {s : State} {i : Instr} (h : Ready c s i) {body : Ctx → Res} {t : Trap}
    (he : exec i s = Machine.issue i s body) (hb : body c = .trap c.s t) : TrapsWith c i s t := by
  obtain ⟨hs, -⟩ := State.issuer_spec h.issuer
  have hf : c.firing (.trap c.s t) = true := by simp [Ctx.firing, Group.issued, h.fresh, h.noWait]
  rw [TrapsWith, he, h.issue, hb, Ctx.settle, if_pos hf, hs]

/-! ## The TYPE check (R97) -/

/-- The trap of an unsupported TYPE is the one that R97 describes. -/
theorem Ctx.badType_eq (c : Ctx) (op : Nat) : c.badType op = .trap c.s (Spec.badType c op) := by
  rw [Ctx.badType, trapOf, Spec.badType, Nat.mul_comm]
  rfl

theorem Ctx.typed_of_accepts (c : Ctx) (op : Nat) {ok : Nat → Bool} (body : Ty → Res) {t : Ty} (ht : Ty.ofCode c.g.ty = some t)
    (hok : ok c.g.ty = true) : c.typed op ok body = body t := by
  simp [Ctx.typed, ht, hok]

theorem Ctx.typed_of_reserved (c : Ctx) (op : Nat) (ok : Nat → Bool) (body : Ty → Res) (ht : Ty.ofCode c.g.ty = none) :
    c.typed op ok body = .trap c.s (Spec.badType c op) := by
  simp [Ctx.typed, ht, Ctx.badType_eq]

/-! ## Words in lanes -/

/-- `words` writes a 32-bit value in each lane acted on, and no flag. -/
theorem Ctx.words_written (c : Ctx) (d : VReg) (n : Nat → Nat) (f : Nat → Word) (hn : ∀ l, n l = (f l).toNat) :
    LanesWritten c.g (c.words d n) false d fun l => ((f l).toNat, 0) := by
  have e : n = fun l => (f l).toNat % 2 ^ 32 := funext fun l => by rw [hn, Nat.mod_eq_of_lt (f l).isLt]
  have hw := c.g.putLanes_written false d fun l => ((f l).toNat, 0)
  rw [Ctx.words, e]
  simpa only [Nat.mod_mod, Nat.mod_eq_of_lt (BitVec.isLt _)] using hw

theorem Ready.completesWith_words {c : Ctx} {s : State} {i : Instr} (h : Ready c s i) {body : Ctx → Res} {d : VReg} {n : Nat → Nat}
    {f : Nat → Word} (he : exec i s = Machine.issue i s body) (hb : body c = c.checked (c.words d n))
    (hn : ∀ l, n l = (f l).toNat) : CompletesWith c i s fun g => LanesWritten c.g g false d fun l => ((f l).toNat, 0) :=
  h.completesWith_lanes he hb (c.words_written d n f hn)

/-- A logic instruction writes f of its operands' words. -/
theorem Ready.completesWith_logic {c : Ctx} {s : State} {i : Instr} (h : Ready c s i) {body : Ctx → Res} {d : VReg} {a b : Operand}
    {f : Word → Word → Word} (he : exec i s = Machine.issue i s body) (hb : body c = c.logic d a b f) :
    CompletesWith c i s fun g => LanesWritten c.g g false d fun l =>
      ((f (c.g.operand c.n (c.k 15) a l) (c.g.operand c.n (c.k 15) b l)).toNat, 0) :=
  h.completesWith_words he hb fun l => by simp [Ctx.operand]

/-- The number that the first eight predicates of a lane make up (R110). -/
theorem foldl_bits_eq_ofBoolListLE (p : Nat → Bool) :
    (List.range 8).foldl (fun n k => n + bit (p k) * 2 ^ k) 0 =
      ((BitVec.ofBoolListLE ((List.range 8).map p)).setWidth 32).toNat := by
  refine Nat.eq_of_testBit_eq fun j => ?_
  rw [foldl_bits_testBit _ p j List.pairwise_lt_range 0 fun i _ => Nat.two_pow_pos i, BitVec.testBit_toNat,
    BitVec.getLsbD_setWidth, BitVec.getLsbD_ofBoolListLE]
  by_cases hj : j < 8
  · have : j < 32 := by omega
    simp [hj, this]
  · simp [hj]

/-- The number of two bit strings put together. -/
theorem toNat_append_eq_add {m n : Nat} (x : BitVec m) (y : BitVec n) : (x ++ y).toNat = y.toNat + x.toNat * 2 ^ n := by
  rw [BitVec.toNat_append, ← Nat.shiftLeft_add_eq_or_of_lt y.isLt, Nat.shiftLeft_eq, Nat.add_comm]

/-! ## `hslide` (R114) -/

/-- Element e of the 64, before the slide. -/
theorem Ctx.half_eq_slideSource (c : Ctx) (a : Operand) (e : Nat) : c.half a e = (slideSource c a e).toNat := by
  simp [Ctx.half, elem, slideSource, Ctx.operand, BitVec.extractLsb'_toNat, Nat.shiftRight_eq_div_pow]

/-- What comes in at an edge. -/
theorem Ctx.slideFill_eq_slideEdge (c : Ctx) (x : BitVec 16) : c.slideFill x.toNat = (slideEdge c x).toNat := by
  unfold Ctx.slideFill slideEdge
  split
  case h_1 h0 => simp [h0]
  case h_2 h1 => simp [h1]
  case h_3 h0 h1 => simp [show c.g.fill ≠ 0 from h0, show c.g.fill ≠ 1 from h1, BitVec.extractLsb'_toNat]

/-- Element e of the 64, after the slide. -/
theorem toNat_slideNew (c : Ctx) (a : Operand) (down : Bool) (e : Nat) :
    (slideNew c a down e).toNat =
      if down then if e = 63 then c.slideFill (c.half a 63) else c.half a (e + 1)
      else if e = 0 then c.slideFill (c.half a 0) else c.half a (e - 1) := by
  simp only [slideNew, Ctx.half_eq_slideSource, Ctx.slideFill_eq_slideEdge, apply_ite BitVec.toNat]

/-! ## The statement -/

/-- Each row of the table of 32-bit lane results. -/
theorem wordResultsIgnoreType : WordResultsIgnoreType := by
  intro c s i d f h hrow
  unfold wordRow at hrow
  split at hrow <;> cases hrow
  -- `and`, `or`, `xor`, `andn` and `not` (R104)
  case h_1 | h_2 | h_3 | h_4 => exact h.completesWith_logic rfl rfl
  case h_5 => exact h.completesWith_logic (b := noOperand) rfl rfl
  -- `qtv` (R110)
  case h_6 => exact h.completesWith_words rfl rfl fun l => foldl_bits_eq_ofBoolListLE fun k => c.g.pred k l
  -- `mov`, `movi` and `movhi` (R111)
  case h_7 | h_8 => exact h.completesWith_words rfl rfl fun l => rfl
  case h_9 =>
    refine h.completesWith_words rfl rfl fun l => ?_
    rw [toNat_append_eq_add, BitVec.extractLsb'_toNat, Nat.shiftRight_zero]
    rfl
  -- `sel` (R112)
  case h_10 => exact h.completesWith_words rfl rfl fun l => (apply_ite BitVec.toNat _ _ _).symm
  -- `shfl` (R113)
  case h_11 =>
    refine h.completesWith_words rfl rfl fun l => ?_
    rw [BitVec.extractLsb'_toNat, Nat.shiftRight_zero]
    rfl
  -- `hslide` (R114)
  case h_12 =>
    refine h.completesWith_words rfl rfl fun l => ?_
    rw [toNat_append_eq_add, toNat_slideNew, toNat_slideNew]
    rfl

/-- The scalar in each lane acted on, or the type trap. -/
theorem vfillWritesTheScalar : VfillWritesTheScalar := by
  intro c s d a h
  constructor
  · intro t ht
    exact h.completesWith_lanes rfl (c.typed_of_accepts 0x4F _ ht rfl) (c.g.putLanes_written t.wide d fun _ => ((c.g.sreg a).toNat, 0))
  · intro ht
    exact h.trapsWith rfl (c.typed_of_reserved 0x4F _ _ ht)

/-- Settles O2: each row of the table by the rule for words in lanes, `vfill` by its TYPE check. -/
theorem laneWordsAndFills : Obligations.LaneWordsAndFills :=
  ⟨wordResultsIgnoreType, vfillWritesTheScalar⟩

end Sys2Proof.Machine
end

section
/-!
SUPPORT and PROOF. The two fields of a cell's image, and the compensated addition case by case (spec/03_number_formats.md R85, spec/10_core_matrix_instr.md R242).
-/
namespace Sys2Proof.Machine

/-! ## The fields of a made cell (R85) -/

theorem Cell88.toNat_make (s e : Nat) : (Cell88.make s e).toNat = e % 2 ^ 32 * 2 ^ 56 + s % 2 ^ 56 := by
  rw [Cell88.make, BitVec.toNat_ofNat]
  omega

@[simp] theorem Cell88.make_s (s e : Nat) : (Cell88.make s e).s = s % 2 ^ 56 := by
  rw [Cell88.s, Cell88.toNat_make, Nat.mul_add_mod_self_right, Nat.mod_mod]

@[simp] theorem Cell88.make_e (s e : Nat) : (Cell88.make s e).e = e % 2 ^ 32 := by
  rw [Cell88.e, Cell88.toNat_make]
  omega

/-! ## The compensated addition (R242) -/

/-- What is left of the exact sum of s and a term once it has been rounded to A56. -/
def caddRest (c : Cell88) (t : FVal) : FVal :=
  ofDy (Dy.sub (Dy.add c.sVal.dy t.dy) (unpack a56 (rnSum a56 [c.sVal, t])).dy)

/-- The sum takes no rest: a part is a NaN or infinite, or the rounded sum is infinite. -/
def CaddSpecial (c : Cell88) (t : FVal) : Prop :=
  c.sVal.isNan = true ∨ c.sVal.isInf = true ∨ t.isNan = true ∨ t.isInf = true ∨ (unpack a56 (rnSum a56 [c.sVal, t])).isInf = true

theorem caddSpecial_iff (c : Cell88) (t : FVal) :
    (c.sVal.isInf || c.sVal.isNan || t.isInf || t.isNan || (unpack a56 (rnSum a56 [c.sVal, t])).isInf) = true ↔ CaddSpecial c t := by
  simp only [CaddSpecial, Bool.or_eq_true]
  tauto

theorem cadd_of_special {c : Cell88} {t : FVal} (h : CaddSpecial c t) : cadd c t = .make (rnSum a56 [c.sVal, t]) 0 :=
  if_pos ((caddSpecial_iff c t).2 h)

theorem cadd_of_not_special {c : Cell88} {t : FVal} (h : ¬ CaddSpecial c t) :
    cadd c t = .make (rnSum a56 [c.sVal, t]) (rnSum f32 [c.eVal, caddRest c t]) :=
  if_neg (mt (caddSpecial_iff c t).1 h)

/-! ## The statement -/

/-- Settles O42: each case of R242 builds one image, whose fields are read back. -/
theorem compensatedAdditionKeepsTheRest : Obligations.CompensatedAdditionKeepsTheRest := by
  intro c t
  refine ⟨fun hspecial => ?_, fun hsn hsi htn hti hover => ?_⟩
  · rw [cadd_of_special hspecial]
    exact ⟨Cell88.make_s _ _, Cell88.make_e _ _⟩
  · have hfinite : ¬ CaddSpecial c t := by simp [CaddSpecial, hsn, hsi, htn, hti, hover]
    rw [cadd_of_not_special hfinite]
    exact ⟨Cell88.make_s _ _, Cell88.make_e _ _⟩

end Sys2Proof.Machine
end

section
/-!
PROOF. Decode and encode agree (spec/02_words_and_syntax.md R40, R43, R45, R49, R50, R59, R68). That an instruction's word decodes to it
is the family `RoundTrip`, constructor by constructor. The converse goes table by table of the decoder: an answer's fields and the
fields that a check found 0 are the digits of the word.
-/
namespace Sys2Proof.Laws.RoundTrip

/-! ## Fields of a word as digits of its number -/

theorem fld_toNat (w : Word) (lo len : Nat) : (fld w lo len).toNat = w.toNat / 2 ^ lo % 2 ^ len := by
  rw [fld, BitVec.extractLsb'_toNat, Nat.shiftRight_eq_div_pow]

theorem nz_eq_false_iff (w : Word) (lo len : Nat) : nz w lo len = false ↔ w.toNat / 2 ^ lo % 2 ^ len = 0 := by
  rw [nz, bne_eq_false_iff_eq, ← fld_toNat, BitVec.toNat_eq]
  simp

theorem nz_toNat (w : Word) (lo : Nat) : (nz w lo 1).toNat = w.toNat / 2 ^ lo % 2 := by
  rcases Bool.eq_false_or_eq_true (nz w lo 1) with h | h
  · have h0 : w.toNat / 2 ^ lo % 2 ^ 1 ≠ 0 := fun h0 => by simp [(nz_eq_false_iff w lo 1).2 h0] at h
    have : w.toNat / 2 ^ lo % 2 < 2 := Nat.mod_lt _ (by decide)
    rw [h]
    simp only [Nat.pow_one] at h0
    simp only [Bool.toNat_true]
    omega
  · have h0 := (nz_eq_false_iff w lo 1).1 h
    rw [h]
    exact h0.symm

/-- A one-bit field that is set. -/
theorem nz_one_eq_true_iff (w : Word) (lo : Nat) : nz w lo 1 = true ↔ w.toNat / 2 ^ lo % 2 = 1 := by
  rw [← nz_toNat]
  cases nz w lo 1 <;> simp

theorem Pattern.code_ofCode (c : BitVec 3) : (Pattern.ofCode c).code = c.toNat := by
  revert c; decide

/-- The code of an operand field's operand is the field. -/
theorem opnd_code (x : BitVec 9) : (opnd x).code = x.toNat := by
  rw [opnd, Operand.code, Pattern.code_ofCode, BitVec.extractLsb'_toNat, BitVec.extractLsb'_toNat]
  have := x.isLt
  simp only [Nat.shiftRight_eq_div_pow]
  omega

/-! ## What a table of the decoder answers -/

/-- The word is the encoding of a well-formed instruction. -/
def IsWordOf (w : Word) (i : Instr) : Prop := i.wf = true ∧ encode i = some w

/-- Whatever the decoder's answer is an instruction for, the word is the word of it. -/
def Faithful (w : Word) (r : Except Reject Instr) : Prop := ∀ i, r = .ok i → IsWordOf w i

theorem encodes {w : Word} {op : Nat} {fields : List (Nat × Nat)} (h : op + place fields = w.toNat) : word op fields = some w := by
  rw [word, h, BitVec.ofNat_toNat, BitVec.setWidth_eq]

/-! ## A word from its digits, the highest first -/

section
variable {w : Word} {rest : List (Nat × Nat)} {lo len : Nat}

theorem digits_end : place [] = w.toNat % 2 ^ 0 := by
  rw [place, Nat.pow_zero, Nat.mod_one]

theorem digits_step (w : Word) (lo len : Nat) : w.toNat / 2 ^ lo % 2 ^ len * 2 ^ lo + w.toNat % 2 ^ lo = w.toNat % 2 ^ (lo + len) := by
  rw [Nat.pow_add, Nat.mod_mul, Nat.mul_comm, Nat.add_comm]

theorem digits_field (h : place rest = w.toNat % 2 ^ lo) : place ((lo, (fld w lo len).toNat) :: rest) = w.toNat % 2 ^ (lo + len) := by
  rw [place, h, fld_toNat, digits_step]

theorem digits_flag (h : place rest = w.toNat % 2 ^ lo) : place ((lo, (nz w lo 1).toNat) :: rest) = w.toNat % 2 ^ (lo + 1) := by
  rw [place, h, nz_toNat, ← digits_step, Nat.pow_one]

theorem digits_operand {lo : Nat} (h : place rest = w.toNat % 2 ^ lo) :
    place ((lo, (opnd (fld w lo 9)).code) :: rest) = w.toNat % 2 ^ (lo + 9) := by
  rw [opnd_code, digits_field h]

/-- A field that shall be zero. -/
theorem digits_zero {hi : Nat} (h0 : nz w lo len = false) (hhi : lo + len = hi) (h : place rest = w.toNat % 2 ^ lo) :
    place rest = w.toNat % 2 ^ hi := by
  rw [h, ← hhi, ← digits_step w lo len, (nz_eq_false_iff ..).1 h0, Nat.zero_mul, Nat.zero_add]

theorem digits_unset (h0 : ¬nz w lo len = true) {hi : Nat} (hhi : lo + len = hi) (h : place rest = w.toNat % 2 ^ lo) :
    place rest = w.toNat % 2 ^ hi := digits_zero (Bool.eq_false_iff.2 h0) hhi h

theorem digits_word {op hi lo : Nat} (hhi : (fld w 28 4).toNat = hi) (hlo : (fld w 24 4).toNat = lo) (hop : hi * 2 ^ 28 + lo * 2 ^ 24 = op)
    (h : place rest = w.toNat % 2 ^ 24) : word op rest = some w := by
  have hlt := w.isLt
  rw [fld_toNat] at hhi hlo
  refine encodes ?_
  omega
end

/-! ## Fields that the decoder has found in their range -/

theorem wf_of_range {n k : Nat} (h : decide (k ≤ n) = false) : decide (n < k) = true :=
  decide_eq_true (Nat.lt_of_not_le (of_decide_eq_false h))

theorem wf_of_size {n : Nat} (h : decide (2 < n) = false) : decide (n < 3) = true :=
  decide_eq_true (Nat.lt_succ_of_le (Nat.le_of_not_lt (of_decide_eq_false h)))

theorem wf_of_scope {sc : BitVec 3} (h : badScope sc = false) : scopeOk sc = true := by
  rwa [badScope, Bool.not_eq_false'] at h

theorem wf_of_fence {sc k : BitVec 3} (hk : decide (2 < k.toNat) = false) (h : badScope sc = false) :
    (scopeOk sc && decide (k.toNat < 3)) = true := by
  rw [wf_of_scope h, wf_of_size hk]
  rfl

theorem wf_of_qop {w : Word} {o : BitVec 3} (h : (decide (6 ≤ o.toNat) && nz w 12 3) = false) :
    (decide (o.toNat < 6) || fld w 12 3 == 0) = true := by
  rcases Bool.and_eq_false_iff.1 h with h | h
  · rw [wf_of_range h]
    rfl
  · rw [Bool.or_eq_true]
    exact .inr (beq_iff_eq.2 (bne_eq_false_iff_eq.1 h))

theorem wf_of_barrier {v : BitVec 2} {b : BitVec 4} (h : badBarrier v b = false) (h3 : (v == 3) = false) : barrierOk v b = true := by
  have hne : (v != 3) = true := by rw [bne, h3]; rfl
  rw [badBarrier, hne, Bool.true_and, Bool.not_eq_false'] at h
  exact h

theorem wf_of_width {w : Word} {v : BitVec 2} (h : (v == 2 && nz w 0 6) = false) (h3 : (v == 3) = false) : widthOk v (fld w 0 6) = true := by
  rw [widthOk, bne, h3]
  rcases Bool.and_eq_false_iff.1 h with h | h
  · rw [bne, h]
    rfl
  · rw [beq_iff_eq.2 (bne_eq_false_iff_eq.1 h), Bool.or_true]
    rfl

/-- The low half of an opcode that is none of the others. -/
theorem nibble_last {n : Nat} (hn : n < 16) : (n = 0 → False) → (n = 1 → False) → (n = 2 → False) → (n = 3 → False) → (n = 4 → False) →
    (n = 5 → False) → (n = 6 → False) → (n = 7 → False) → (n = 8 → False) → (n = 9 → False) → (n = 10 → False) → (n = 11 → False) →
    (n = 12 → False) → (n = 13 → False) → (n = 14 → False) → n = 15 := by
  simp only [imp_false]
  omega

theorem faithful_ok (w : Word) (i : Instr) : Faithful w (.ok i) ↔ IsWordOf w i := by
  simp [Faithful]

theorem firstBad_cons_eq_none (bit : Nat) (bad : Bool) (rest : List (Nat × Bool)) :
    firstBad ((bit, bad) :: rest) = none ↔ bad = false ∧ firstBad rest = none := by
  cases bad <;> simp [firstBad]

theorem faithful_reserve (w : Word) (fields : List (Nat × Bool)) (i : Instr) :
    Faithful w (reserve w fields i) ↔ (firstBad fields = none → IsWordOf w i) := by
  cases h : firstBad fields <;> simp [Faithful, reserve, h]

theorem faithful_waitLa (w : Word) (fields : List (Nat × Bool)) (i : Instr) :
    Faithful w (waitLa w fields i) ↔ (firstBad fields = none → nz w 8 4 = false → IsWordOf w i) := by
  cases h : firstBad fields <;> cases h' : nz w 8 4 <;> simp [Faithful, waitLa, h, h']

/-- The word of a reserved opcode stands for itself (R43, R68). -/
theorem isWordOf_illegal {w : Word} (h : assigned ((fld w 28 4).toNat * 16 + (fld w 24 4).toNat) = false) :
    IsWordOf w (.illegalInstruction w) := by
  have hop : (w.extractLsb' 24 8).toNat = (fld w 28 4).toNat * 16 + (fld w 24 4).toNat := by
    simp only [fld, BitVec.extractLsb'_toNat, Nat.shiftRight_eq_div_pow]
    omega
  refine ⟨?_, rfl⟩
  change unassigned w = true
  rw [unassigned, hop, h]
  rfl

/-! ## The tables, one for each high half of the opcode (R68) -/

theorem faithful_decode0 (w : Word) (hop : (fld w 28 4).toNat = 0) : Faithful w (decode0 (fld w 24 4).toNat w) := by
  unfold decode0
  split
  case' h_16 => have hlast := nibble_last (fld w 24 4).isLt ‹_› ‹_› ‹_› ‹_› ‹_› ‹_› ‹_› ‹_› ‹_› ‹_› ‹_› ‹_› ‹_› ‹_› ‹_›
  all_goals
    simp only [faithful_ok, faithful_reserve, firstBad_cons_eq_none, and_imp]
    intros
    refine ⟨rfl, digits_word hop ‹(fld w 24 4).toNat = _› rfl ?_⟩
    solve_by_elim (maxDepth := 30) [digits_end, digits_field, digits_flag, digits_zero, rfl]

theorem faithful_decodeMode (w : Word) (hop : (fld w 28 4).toNat = 1) (hlo : (fld w 24 4).toNat = 0) : Faithful w (decodeMode w) := by
  have hw := w.isLt
  intro i hi
  rw [decodeMode] at hi
  split at hi
  · cases hi
  next hok =>
    simp only [Bool.or_eq_true, Bool.not_eq_true', not_or, Bool.not_eq_true, Bool.not_eq_false, nz_eq_false_iff] at hok
    cases hi
    refine ⟨hok.2, encodes ?_⟩
    simp only [place, fld_toNat, Nat.reducePow, Nat.div_one] at *
    omega

theorem faithful_decodePmode (w : Word) (hop : (fld w 28 4).toNat = 1) (hlo : (fld w 24 4).toNat = 1) : Faithful w (decodePmode w) := by
  have hw := w.isLt
  intro i hi
  rw [decodePmode] at hi
  split at hi
  · cases hi
  next hok =>
    simp only [Bool.or_eq_true, Bool.not_eq_true', not_or, Bool.not_eq_true, Bool.not_eq_false, nz_eq_false_iff] at hok
    cases hi
    refine ⟨hok.2, encodes ?_⟩
    simp only [place, fld_toNat, Nat.reducePow, Nat.div_one] at *
    omega

theorem faithful_decode1 (w : Word) (hop : (fld w 28 4).toNat = 1) : Faithful w (decode1 (fld w 24 4).toNat w) := by
  have hlt := (fld w 24 4).isLt
  unfold decode1
  split
  case h_1 hmode => exact faithful_decodeMode w hop hmode
  case h_2 hpmode => exact faithful_decodePmode w hop hpmode
  case h_14 =>
    exact (faithful_ok _ _).2 (isWordOf_illegal (by simp only [imp_false] at *; simp [hop, assigned]; omega))
  all_goals
    simp only [faithful_ok, faithful_reserve, firstBad_cons_eq_none, and_imp]
    intros
    refine ⟨rfl, digits_word hop ‹(fld w 24 4).toNat = _› rfl ?_⟩
    solve_by_elim (maxDepth := 30) [digits_end, digits_field, digits_flag, digits_zero, rfl]

theorem faithful_decode2 (w : Word) (hop : (fld w 28 4).toNat = 2) : Faithful w (decode2 (fld w 24 4).toNat w) := by
  unfold decode2
  split
  case' h_16 => have hlast := nibble_last (fld w 24 4).isLt ‹_› ‹_› ‹_› ‹_› ‹_› ‹_› ‹_› ‹_› ‹_› ‹_› ‹_› ‹_› ‹_› ‹_› ‹_›
  all_goals
    simp only [faithful_ok, faithful_reserve, firstBad_cons_eq_none, and_imp]
    intros
    refine ⟨rfl, digits_word hop ‹(fld w 24 4).toNat = _› rfl ?_⟩
    solve_by_elim (maxDepth := 30) [digits_end, digits_operand, digits_field, digits_zero, rfl]

theorem faithful_decode3 (w : Word) (hop : (fld w 28 4).toNat = 3) : Faithful w (decode3 (fld w 24 4).toNat w) := by
  unfold decode3
  split
  case' h_16 => have hlast := nibble_last (fld w 24 4).isLt ‹_› ‹_› ‹_› ‹_› ‹_› ‹_› ‹_› ‹_› ‹_› ‹_› ‹_› ‹_› ‹_› ‹_› ‹_›
  all_goals
    simp only [faithful_ok, faithful_reserve, firstBad_cons_eq_none, and_imp]
    intros
    refine ⟨rfl, digits_word hop ‹(fld w 24 4).toNat = _› rfl ?_⟩
    solve_by_elim (maxDepth := 30) [digits_end, digits_operand, digits_field, digits_zero, rfl]

/-! ## Words whose bit chooses the second form of an instruction -/

theorem faithful_set4 (w : Word) (hop : (fld w 28 4).toNat = 4) (hlo : (fld w 24 4).toNat = 7) (hset : nz w 11 1 = true) :
    Faithful w (reserve w [(0, nz w 0 5), (5, nz w 5 6), (18, nz w 18 3), (21, nz w 21 3)] (.qfvAll (fld w 12 6))) := by
  have hw := w.isLt
  simp only [faithful_reserve, firstBad_cons_eq_none, and_imp]
  intros
  refine ⟨rfl, encodes ?_⟩
  simp only [nz_one_eq_true_iff, nz_eq_false_iff, place, fld_toNat, Nat.reducePow, Nat.div_one] at *
  omega

theorem faithful_set6 (w : Word) (hop : (fld w 28 4).toNat = 6) (hlo : (fld w 24 4).toNat = 15) (hset : nz w 8 1 = true) :
    Faithful w (reserve w [(6, nz w 6 2), (9, nz w 9 5)] (.sshlImm (fld w 19 5) (fld w 14 5) (fld w 0 6))) := by
  have hw := w.isLt
  simp only [faithful_reserve, firstBad_cons_eq_none, and_imp]
  intros
  refine ⟨rfl, encodes ?_⟩
  simp only [nz_one_eq_true_iff, nz_eq_false_iff, place, fld_toNat, Nat.reducePow, Nat.div_one] at *
  omega

theorem faithful_set70 (w : Word) (hop : (fld w 28 4).toNat = 7) (hlo : (fld w 24 4).toNat = 0) (hset : nz w 8 1 = true) :
    Faithful w (reserve w [(6, nz w 6 2), (9, nz w 9 5)] (.sshrImm (fld w 19 5) (fld w 14 5) (fld w 0 6))) := by
  have hw := w.isLt
  simp only [faithful_reserve, firstBad_cons_eq_none, and_imp]
  intros
  refine ⟨rfl, encodes ?_⟩
  simp only [nz_one_eq_true_iff, nz_eq_false_iff, place, fld_toNat, Nat.reducePow, Nat.div_one] at *
  omega

theorem faithful_set71 (w : Word) (hop : (fld w 28 4).toNat = 7) (hlo : (fld w 24 4).toNat = 1) (hset : nz w 8 1 = true) :
    Faithful w (reserve w [(6, nz w 6 2), (9, nz w 9 5)] (.ssarImm (fld w 19 5) (fld w 14 5) (fld w 0 6))) := by
  have hw := w.isLt
  simp only [faithful_reserve, firstBad_cons_eq_none, and_imp]
  intros
  refine ⟨rfl, encodes ?_⟩
  simp only [nz_one_eq_true_iff, nz_eq_false_iff, place, fld_toNat, Nat.reducePow, Nat.div_one] at *
  omega

/-! ## The tables from 4 on -/

theorem faithful_decode4 (w : Word) (hop : (fld w 28 4).toNat = 4) : Faithful w (decode4 (fld w 24 4).toNat w) := by
  unfold decode4
  split
  case' h_16 => have hlast := nibble_last (fld w 24 4).isLt ‹_› ‹_› ‹_› ‹_› ‹_› ‹_› ‹_› ‹_› ‹_› ‹_› ‹_› ‹_› ‹_› ‹_› ‹_›
  case h_8 =>
    split
    · exact faithful_set4 w hop ‹_› ‹_›
    · simp only [faithful_reserve, firstBad_cons_eq_none, and_imp]
      intros
      refine ⟨rfl, digits_word hop ‹(fld w 24 4).toNat = _› rfl ?_⟩
      solve_by_elim (maxDepth := 30) [digits_end, digits_field, digits_zero, digits_unset, rfl]
  all_goals
    simp only [faithful_ok, faithful_reserve, firstBad_cons_eq_none, and_imp]
    intros
    refine ⟨?wf, digits_word hop ‹(fld w 24 4).toNat = _› rfl ?_⟩
    case wf => solve_by_elim [rfl, wf_of_range, wf_of_qop]
    solve_by_elim (maxDepth := 30) [digits_end, digits_operand, digits_field, digits_flag, digits_zero, rfl]

theorem faithful_decode5 (w : Word) (hop : (fld w 28 4).toNat = 5) : Faithful w (decode5 (fld w 24 4).toNat w) := by
  unfold decode5
  split
  case' h_16 => have hlast := nibble_last (fld w 24 4).isLt ‹_› ‹_› ‹_› ‹_› ‹_› ‹_› ‹_› ‹_› ‹_› ‹_› ‹_› ‹_› ‹_› ‹_› ‹_›
  all_goals
    simp only [faithful_ok, faithful_reserve, firstBad_cons_eq_none, and_imp]
    intros
    refine ⟨rfl, digits_word hop ‹(fld w 24 4).toNat = _› rfl ?_⟩
    solve_by_elim (maxDepth := 30) [digits_end, digits_operand, digits_field, digits_zero, rfl]

theorem faithful_decode6 (w : Word) (hop : (fld w 28 4).toNat = 6) : Faithful w (decode6 (fld w 24 4).toNat w) := by
  have hlt := (fld w 24 4).isLt
  unfold decode6
  split
  case h_15 =>
    exact (faithful_ok _ _).2 (isWordOf_illegal (by simp only [imp_false] at *; simp [hop, assigned]; omega))
  case h_14 =>
    split
    · exact faithful_set6 w hop ‹_› ‹_›
    · simp only [faithful_reserve, firstBad_cons_eq_none, and_imp]
      intros
      refine ⟨rfl, digits_word hop ‹(fld w 24 4).toNat = _› rfl ?_⟩
      solve_by_elim (maxDepth := 30) [digits_end, digits_field, digits_zero, digits_unset, rfl]
  all_goals
    simp only [faithful_ok, faithful_reserve, firstBad_cons_eq_none, and_imp]
    intros
    refine ⟨?wf, digits_word hop ‹(fld w 24 4).toNat = _› rfl ?_⟩
    case wf => solve_by_elim [rfl, wf_of_range]
    solve_by_elim (maxDepth := 30) [digits_end, digits_operand, digits_field, digits_zero, rfl]

theorem faithful_decode7 (w : Word) (hop : (fld w 28 4).toNat = 7) : Faithful w (decode7 (fld w 24 4).toNat w) := by
  have hlt := (fld w 24 4).isLt
  unfold decode7
  split
  case h_16 =>
    exact (faithful_ok _ _).2 (isWordOf_illegal (by simp only [imp_false] at *; simp [hop, assigned]; omega))
  case h_1 =>
    split
    · exact faithful_set70 w hop ‹_› ‹_›
    · simp only [faithful_reserve, firstBad_cons_eq_none, and_imp]
      intros
      refine ⟨rfl, digits_word hop ‹(fld w 24 4).toNat = _› rfl ?_⟩
      solve_by_elim (maxDepth := 30) [digits_end, digits_field, digits_zero, digits_unset, rfl]
  case h_2 =>
    split
    · exact faithful_set71 w hop ‹_› ‹_›
    · simp only [faithful_reserve, firstBad_cons_eq_none, and_imp]
      intros
      refine ⟨rfl, digits_word hop ‹(fld w 24 4).toNat = _› rfl ?_⟩
      solve_by_elim (maxDepth := 30) [digits_end, digits_field, digits_zero, digits_unset, rfl]
  all_goals
    simp only [faithful_ok, faithful_reserve, firstBad_cons_eq_none, and_imp]
    intros
    refine ⟨rfl, digits_word hop ‹(fld w 24 4).toNat = _› rfl ?_⟩
    solve_by_elim (maxDepth := 30) [digits_end, digits_field, digits_flag, digits_zero, rfl]

theorem faithful_decode8 (w : Word) (hop : (fld w 28 4).toNat = 8) : Faithful w (decode8 (fld w 24 4).toNat w) := by
  unfold decode8
  split
  case' h_16 => have hlast := nibble_last (fld w 24 4).isLt ‹_› ‹_› ‹_› ‹_› ‹_› ‹_› ‹_› ‹_› ‹_› ‹_› ‹_› ‹_› ‹_› ‹_› ‹_›
  all_goals
    simp only [faithful_ok, faithful_reserve, firstBad_cons_eq_none, and_imp]
    intros
    refine ⟨?wf, digits_word hop ‹(fld w 24 4).toNat = _› rfl ?_⟩
    case wf => solve_by_elim [rfl, wf_of_scope]
    solve_by_elim (maxDepth := 30) [digits_end, digits_field, digits_zero, rfl]

theorem faithful_decode9 (w : Word) (hop : (fld w 28 4).toNat = 9) : Faithful w (decode9 (fld w 24 4).toNat w) := by
  unfold decode9
  split
  case' h_16 => have hlast := nibble_last (fld w 24 4).isLt ‹_› ‹_› ‹_› ‹_› ‹_› ‹_› ‹_› ‹_› ‹_› ‹_› ‹_› ‹_› ‹_› ‹_› ‹_›
  all_goals
    simp only [faithful_ok, faithful_reserve, faithful_waitLa, firstBad_cons_eq_none, and_imp]
    intros
    refine ⟨?wf, digits_word hop ‹(fld w 24 4).toNat = _› rfl ?_⟩
    case wf => solve_by_elim [rfl, wf_of_size, wf_of_range]
    solve_by_elim (maxDepth := 30) [digits_end, digits_field, digits_flag, digits_zero, rfl]

theorem faithful_decodeA (w : Word) (hop : (fld w 28 4).toNat = 10) : Faithful w (decodeA (fld w 24 4).toNat w) := by
  unfold decodeA
  split
  case' h_16 => have hlast := nibble_last (fld w 24 4).isLt ‹_› ‹_› ‹_› ‹_› ‹_› ‹_› ‹_› ‹_› ‹_› ‹_› ‹_› ‹_› ‹_› ‹_› ‹_›
  all_goals
    simp only [faithful_ok, faithful_reserve, firstBad_cons_eq_none, and_imp]
    intros
    refine ⟨rfl, digits_word hop ‹(fld w 24 4).toNat = _› rfl ?_⟩
    solve_by_elim (maxDepth := 30) [digits_end, digits_field, digits_flag, digits_zero, rfl]

theorem faithful_decodeB (w : Word) (hop : (fld w 28 4).toNat = 11) : Faithful w (decodeB (fld w 24 4).toNat w) := by
  have hlt := (fld w 24 4).isLt
  unfold decodeB
  split
  case h_4 =>
    exact (faithful_ok _ _).2 (isWordOf_illegal (by simp only [imp_false] at *; simp [hop, assigned]; omega))
  all_goals
    simp only [faithful_ok, faithful_reserve, firstBad_cons_eq_none, and_imp]
    intros
    refine ⟨rfl, digits_word hop ‹(fld w 24 4).toNat = _› rfl ?_⟩
    solve_by_elim (maxDepth := 30) [digits_end, digits_field, digits_flag, digits_zero, rfl]

theorem faithful_decodeC (w : Word) (hop : (fld w 28 4).toNat = 12) : Faithful w (decodeC (fld w 24 4).toNat w) := by
  have hlt := (fld w 24 4).isLt
  unfold decodeC
  split
  case h_12 =>
    exact (faithful_ok _ _).2 (isWordOf_illegal (by simp only [imp_false] at *; simp [hop, assigned]; omega))
  all_goals
    simp only [faithful_reserve, faithful_waitLa, firstBad_cons_eq_none, and_imp]
    intros
    refine ⟨?wf, digits_word hop ‹(fld w 24 4).toNat = _› rfl ?_⟩
    case wf => solve_by_elim [rfl, wf_of_barrier, wf_of_size, wf_of_fence]
    solve_by_elim (maxDepth := 30) [digits_end, digits_field, digits_flag, digits_zero, rfl]

theorem faithful_decodeD (w : Word) (hop : (fld w 28 4).toNat = 13) : Faithful w (decodeD (fld w 24 4).toNat w) := by
  have hlt := (fld w 24 4).isLt
  unfold decodeD
  split
  case h_7 =>
    exact (faithful_ok _ _).2 (isWordOf_illegal (by simp only [imp_false] at *; simp [hop, assigned]; omega))
  all_goals
    simp only [faithful_ok, faithful_reserve, firstBad_cons_eq_none, and_imp]
    intros
    refine ⟨?wf, digits_word hop ‹(fld w 24 4).toNat = _› rfl ?_⟩
    case wf => solve_by_elim [rfl, wf_of_width]
    solve_by_elim (maxDepth := 30) [digits_end, digits_operand, digits_field, digits_zero, rfl]

/-- Every word that decodes is the word of the well-formed instruction that it decodes to. -/
theorem faithful_decode (w : Word) : Faithful w (decode w) := by
  have hhi := (fld w 28 4).isLt
  have hlo := (fld w 24 4).isLt
  unfold decode
  split
  case h_1 hop => exact faithful_decode0 w hop
  case h_2 hop => exact faithful_decode1 w hop
  case h_3 hop => exact faithful_decode2 w hop
  case h_4 hop => exact faithful_decode3 w hop
  case h_5 hop => exact faithful_decode4 w hop
  case h_6 hop => exact faithful_decode5 w hop
  case h_7 hop => exact faithful_decode6 w hop
  case h_8 hop => exact faithful_decode7 w hop
  case h_9 hop => exact faithful_decode8 w hop
  case h_10 hop => exact faithful_decode9 w hop
  case h_11 hop => exact faithful_decodeA w hop
  case h_12 hop => exact faithful_decodeB w hop
  case h_13 hop => exact faithful_decodeC w hop
  case h_14 hop => exact faithful_decodeD w hop
  case h_15 => exact (faithful_ok _ _).2 (isWordOf_illegal (by simp only [imp_false] at *; simp [assigned]; omega))

/-- The word of every well-formed instruction decodes to it. -/
theorem statement (i : Instr) : Statement i := by
  cases i with
  | nop => exact RoundTrip.nop
  | exit => exact RoundTrip.exit
  | bra o => exact RoundTrip.bra o
  | call l o => exact RoundTrip.call l o
  | callr d a => exact RoundTrip.callr d a
  | jr a => exact RoundTrip.jr a
  | brany q n o => exact RoundTrip.brany q n o
  | brall q n o => exact RoundTrip.brall q n o
  | brnone q n o => exact RoundTrip.brnone q n o
  | bz s o => exact RoundTrip.bz s o
  | bnz s o => exact RoundTrip.bnz s o
  | emand q n => exact RoundTrip.emand q n
  | emelse => exact RoundTrip.emelse
  | empop => exact RoundTrip.empop
  | emrd d => exact RoundTrip.emrd d
  | emwr a => exact RoundTrip.emwr a
  | mode m => exact RoundTrip.mode m
  | pmode p => exact RoundTrip.pmode p
  | moder a => exact RoundTrip.moder a
  | trap i => exact RoundTrip.trap i
  | brk => exact RoundTrip.brk
  | tret => exact RoundTrip.tret
  | xset k v i => exact RoundTrip.xset k v i
  | xbnd k l h => exact RoundTrip.xbnd k l h
  | xadd k i => exact RoundTrip.xadd k i
  | xrd k d => exact RoundTrip.xrd k d
  | choose d a => exact RoundTrip.choose d a
  | ccall i => exact RoundTrip.ccall i
  | anch => exact RoundTrip.anch
  | add d a b => exact RoundTrip.add d a b
  | sub d a b => exact RoundTrip.sub d a b
  | mul d a b => exact RoundTrip.mul d a b
  | mulh d a b => exact RoundTrip.mulh d a b
  | mad d a b => exact RoundTrip.mad d a b
  | msb d a b => exact RoundTrip.msb d a b
  | mad2 d a b => exact RoundTrip.mad2 d a b
  | dot4 d a b => exact RoundTrip.dot4 d a b
  | abs d a => exact RoundTrip.abs d a
  | neg d a => exact RoundTrip.neg d a
  | min d a b => exact RoundTrip.min d a b
  | max d a b => exact RoundTrip.max d a b
  | avg d a b => exact RoundTrip.avg d a b
  | rsh d a b => exact RoundTrip.rsh d a b
  | addi d a i => exact RoundTrip.addi d a i
  | muli d a i => exact RoundTrip.muli d a i
  | and d a b => exact RoundTrip.and d a b
  | or d a b => exact RoundTrip.or d a b
  | xor d a b => exact RoundTrip.xor d a b
  | andn d a b => exact RoundTrip.andn d a b
  | not d a => exact RoundTrip.not d a
  | shl d a b => exact RoundTrip.shl d a b
  | shr d a b => exact RoundTrip.shr d a b
  | sar d a b => exact RoundTrip.sar d a b
  | rol d a b => exact RoundTrip.rol d a b
  | shli d a c => exact RoundTrip.shli d a c
  | shri d a c => exact RoundTrip.shri d a c
  | sari d a c => exact RoundTrip.sari d a c
  | clz d a => exact RoundTrip.clz d a
  | popc d a => exact RoundTrip.popc d a
  | brev d a => exact RoundTrip.brev d a
  | bfx d a p l => exact RoundTrip.bfx d a p l
  | ceq c q a b => exact RoundTrip.ceq c q a b
  | cne c q a b => exact RoundTrip.cne c q a b
  | clt c q a b => exact RoundTrip.clt c q a b
  | cle c q a b => exact RoundTrip.cle c q a b
  | cun c q a b => exact RoundTrip.cun c q a b
  | ctst c q a b => exact RoundTrip.ctst c q a b
  | qop o d a b => exact RoundTrip.qop o d a b
  | qfv d a b => exact RoundTrip.qfv d a b
  | qfvAll a => exact RoundTrip.qfvAll a
  | qtv d => exact RoundTrip.qtv d
  | mov d a => exact RoundTrip.mov d a
  | movi d i => exact RoundTrip.movi d i
  | movhi d i => exact RoundTrip.movhi d i
  | sel d a b => exact RoundTrip.sel d a b
  | shfl d a b => exact RoundTrip.shfl d a b
  | hslide d a r => exact RoundTrip.hslide d a r
  | vfill d a => exact RoundTrip.vfill d a
  | fadd d a b => exact RoundTrip.fadd d a b
  | fsub d a b => exact RoundTrip.fsub d a b
  | fmul d a b => exact RoundTrip.fmul d a b
  | fma d a b => exact RoundTrip.fma d a b
  | fms d a b => exact RoundTrip.fms d a b
  | fmin d a b => exact RoundTrip.fmin d a b
  | fmax d a b => exact RoundTrip.fmax d a b
  | fdiv d a b => exact RoundTrip.fdiv d a b
  | fsqrt d a => exact RoundTrip.fsqrt d a
  | frcp d a => exact RoundTrip.frcp d a
  | frsq d a => exact RoundTrip.frsq d a
  | fexp2 d a => exact RoundTrip.fexp2 d a
  | flog2 d a => exact RoundTrip.flog2 d a
  | fsinpi d a => exact RoundTrip.fsinpi d a
  | fcospi d a => exact RoundTrip.fcospi d a
  | frint d a => exact RoundTrip.frint d a
  | fclass c q a m => exact RoundTrip.fclass c q a m
  | cvt d a t => exact RoundTrip.cvt d a t
  | fscale d a b => exact RoundTrip.fscale d a b
  | fgetexp d a => exact RoundTrip.fgetexp d a
  | fnanc d a => exact RoundTrip.fnanc d a
  | fdot2 d a b => exact RoundTrip.fdot2 d a b
  | sadd d a b => exact RoundTrip.sadd d a b
  | ssub d a b => exact RoundTrip.ssub d a b
  | smul d a b => exact RoundTrip.smul d a b
  | saddi d a i => exact RoundTrip.saddi d a i
  | sand d a b => exact RoundTrip.sand d a b
  | sor d a b => exact RoundTrip.sor d a b
  | sxor d a b => exact RoundTrip.sxor d a b
  | sshlReg d a b => exact RoundTrip.sshlReg d a b
  | sshlImm d a c => exact RoundTrip.sshlImm d a c
  | sshrReg d a b => exact RoundTrip.sshrReg d a b
  | sshrImm d a c => exact RoundTrip.sshrImm d a c
  | ssarReg d a b => exact RoundTrip.ssarReg d a b
  | ssarImm d a c => exact RoundTrip.ssarImm d a c
  | smovi d i => exact RoundTrip.smovi d i
  | smovs d i => exact RoundTrip.smovs d i
  | sceq d a b => exact RoundTrip.sceq d a b
  | sclt d a b => exact RoundTrip.sclt d a b
  | scltn d a b => exact RoundTrip.scltn d a b
  | vred d o m => exact RoundTrip.vred d o m
  | vlane d a p m => exact RoundTrip.vlane d a p m
  | vins a b p m => exact RoundTrip.vins a b p m
  | vote d k p => exact RoundTrip.vote d k p
  | krd d n => exact RoundTrip.krd d n
  | kwr a n => exact RoundTrip.kwr a n
  | sysrd n s => exact RoundTrip.sysrd n s
  | syswr n s => exact RoundTrip.syswr n s
  | ldw d a l o => exact RoundTrip.ldw d a l o
  | ldd d a l o => exact RoundTrip.ldd d a l o
  | ldq d a l o => exact RoundTrip.ldq d a l o
  | ldh d a l o => exact RoundTrip.ldh d a l o
  | ldb d a l o => exact RoundTrip.ldb d a l o
  | stw d a l o => exact RoundTrip.stw d a l o
  | std d a l o => exact RoundTrip.std d a l o
  | stq d a l o => exact RoundTrip.stq d a l o
  | sth d a l o => exact RoundTrip.sth d a l o
  | stb d a l o => exact RoundTrip.stb d a l o
  | ldacq d a l s => exact RoundTrip.ldacq d a l s
  | strel d a l s => exact RoundTrip.strel d a l s
  | sld d a l o => exact RoundTrip.sld d a l o
  | sst d a l o => exact RoundTrip.sst d a l o
  | lds d a l o => exact RoundTrip.lds d a l o
  | sts d a l o => exact RoundTrip.sts d a l o
  | ldsq d a l o => exact RoundTrip.ldsq d a l o
  | stsq d a l o => exact RoundTrip.stsq d a l o
  | slk x y l => exact RoundTrip.slk x y l
  | sfill x y l => exact RoundTrip.sfill x y l
  | sevict x f l => exact RoundTrip.sevict x f l
  | cpy d a l s z => exact RoundTrip.cpy d a l s z
  | cpyo d a l z => exact RoundTrip.cpyo d a l z
  | cpyt x y f l => exact RoundTrip.cpyt x y f l
  | cpyv x y l => exact RoundTrip.cpyv x y l
  | tbinit x y l => exact RoundTrip.tbinit x y l
  | tbarr x y l => exact RoundTrip.tbarr x y l
  | tbwait x y => exact RoundTrip.tbwait x y
  | wcnt p t => exact RoundTrip.wcnt p t
  | ckopen x y f l g c => exact RoundTrip.ckopen x y f l g c
  | ckseal x y l => exact RoundTrip.ckseal x y l
  | ckdrop y l => exact RoundTrip.ckdrop y l
  | obres x y l => exact RoundTrip.obres x y l
  | obrel y l => exact RoundTrip.obrel y l
  | obld x y l => exact RoundTrip.obld x y l
  | gath x y l p => exact RoundTrip.gath x y l p
  | mrdy => exact RoundTrip.mrdy
  | mstep x y l t => exact RoundTrip.mstep x y l t
  | mloop x y l t => exact RoundTrip.mloop x y l t
  | mfence x l => exact RoundTrip.mfence x l
  | mwait x => exact RoundTrip.mwait x
  | acfg y f l t => exact RoundTrip.acfg y f l t
  | arel l t => exact RoundTrip.arel l t
  | azero l t => exact RoundTrip.azero l t
  | ard v t r l p => exact RoundTrip.ard v t r l p
  | awr v t r l p => exact RoundTrip.awr v t r l p
  | asave x y l t => exact RoundTrip.asave x y l t
  | aload x y l t => exact RoundTrip.aload x y l t
  | nanc d a => exact RoundTrip.nanc d a
  | srseed a => exact RoundTrip.srseed a
  | ascal v t r l => exact RoundTrip.ascal v t r l
  | arv v b s => exact RoundTrip.arv v b s
  | arva v b s => exact RoundTrip.arva v b s
  | arvd v b s => exact RoundTrip.arvd v b s
  | bwait v b s => exact RoundTrip.bwait v b s
  | fence s k => exact RoundTrip.fence s k
  | sendr d a l s z => exact RoundTrip.sendr d a l s z
  | sendb x y f l => exact RoundTrip.sendb x y f l
  | cwait x y => exact RoundTrip.cwait x y
  | cset x y => exact RoundTrip.cset x y
  | ckevict x y f l => exact RoundTrip.ckevict x y f l
  | ckstat x y l => exact RoundTrip.ckstat x y l
  | wcall d a l w g => exact RoundTrip.wcall d a l w g
  | wpost a l w g => exact RoundTrip.wpost a l w g
  | wtake x => exact RoundTrip.wtake x
  | wreply a => exact RoundTrip.wreply a
  | wfail c => exact RoundTrip.wfail c
  | wscan d a o => exact RoundTrip.wscan d a o
  | illegalInstruction w => exact RoundTrip.illegalInstruction w
  | loadReturn p op => exact RoundTrip.loadReturn p op
  | copySectorLanding p op => exact RoundTrip.copySectorLanding p op
  | sendLanding p op => exact RoundTrip.sendLanding p op
  | sendAcknowledgement p op => exact RoundTrip.sendAcknowledgement p op
  | releaseFilterProbe p core op => exact RoundTrip.releaseFilterProbe p core op
  | lineAccess p req => exact RoundTrip.lineAccess p req
  | orderGateAdmit p dom id => exact RoundTrip.orderGateAdmit p dom id
  | requestArrival p req => exact RoundTrip.requestArrival p req
  | batchAssembly p core => exact RoundTrip.batchAssembly p core
  | whiskReply p req => exact RoundTrip.whiskReply p req
  | fillLanding p op => exact RoundTrip.fillLanding p op
  | matrixStep p core check => exact RoundTrip.matrixStep p core check
  | clusterPlacement p => exact RoundTrip.clusterPlacement p
  | finalCommit p team => exact RoundTrip.finalCommit p team
  | launchCompletion p => exact RoundTrip.launchCompletion p
  | crockMoveDone p name => exact RoundTrip.crockMoveDone p name
  | eggTimerWindow p => exact RoundTrip.eggTimerWindow p
  | sieveDecision p => exact RoundTrip.sieveDecision p
  | sieveBacktrack p => exact RoundTrip.sieveBacktrack p
  | chunkFlushTimer p dom id => exact RoundTrip.chunkFlushTimer p dom id
  | freezeImage p => exact RoundTrip.freezeImage p
  | drainDeadline p => exact RoundTrip.drainDeadline p
  | gangSliceStart p => exact RoundTrip.gangSliceStart p
  | gangSliceEnd p => exact RoundTrip.gangSliceEnd p
  | invalidationDone p => exact RoundTrip.invalidationDone p
  | backgroundScrub core word result => exact RoundTrip.backgroundScrub core word result
  | patrolScrub line result => exact RoundTrip.patrolScrub line result
  | inFieldTest die => exact RoundTrip.inFieldTest die
  | inFieldTestRun core passed => exact RoundTrip.inFieldTestRun core passed
  | inFieldTestOverdue core => exact RoundTrip.inFieldTestOverdue core
  | energyPeriod p => exact RoundTrip.energyPeriod p
  | flitCrcError link => exact RoundTrip.flitCrcError link
  | linkDead link => exact RoundTrip.linkDead link
  | injectionResume => exact RoundTrip.injectionResume
  | lostPacket p pkt => exact RoundTrip.lostPacket p pkt
  | linkNarrow link handshake => exact RoundTrip.linkNarrow link handshake
  | linkWiden link handshake => exact RoundTrip.linkWiden link handshake
  | cxlPortDown port => exact RoundTrip.cxlPortDown port
  | hostWrite pa bytes => exact RoundTrip.hostWrite pa bytes
  | hostRead pa count => exact RoundTrip.hostRead pa count
  | timeOffsetNotice p => exact RoundTrip.timeOffsetNotice p
  | clockThrottle die cause => exact RoundTrip.clockThrottle die cause
  | clockRaise die => exact RoundTrip.clockRaise die
  | thermalStop die => exact RoundTrip.thermalStop die
  | powerOnBoot images => exact RoundTrip.powerOnBoot images
  | functionLevelReset p => exact RoundTrip.functionLevelReset p
  | firmwarePass => exact RoundTrip.firmwarePass
  | reset q pkt => exact RoundTrip.reset q pkt
  | setmode q pkt => exact RoundTrip.setmode q pkt
  | attach q pkt => exact RoundTrip.attach q pkt
  | extend q pkt => exact RoundTrip.extend q pkt
  | detach q pkt => exact RoundTrip.detach q pkt
  | buffers q pkt => exact RoundTrip.buffers q pkt
  | consume q pkt => exact RoundTrip.consume q pkt
  | resume q pkt => exact RoundTrip.resume q pkt
  | launch q pkt => exact RoundTrip.launch q pkt
  | signalSet q pkt => exact RoundTrip.signalSet q pkt
  | signalAdd q pkt => exact RoundTrip.signalAdd q pkt
  | wait q pkt => exact RoundTrip.wait q pkt
  | nopPacket q pkt => exact RoundTrip.nopPacket q pkt
  | unknownPacket q pkt => exact RoundTrip.unknownPacket q pkt
  | null p gid => exact RoundTrip.null p gid
  | debug p gid => exact RoundTrip.debug p gid
  | sigadd p gid => exact RoundTrip.sigadd p gid
  | sleep p gid => exact RoundTrip.sleep p gid
  | sleepExpiry p gid => exact RoundTrip.sleepExpiry p gid
  | unknownService p gid => exact RoundTrip.unknownService p gid
  | freeze p => exact RoundTrip.freeze p
  | registerImageArea p => exact RoundTrip.registerImageArea p
  | copyTableEntry p => exact RoundTrip.copyTableEntry p
  | clearSpoil p => exact RoundTrip.clearSpoil p
  | copyDebugRing p => exact RoundTrip.copyDebugRing p
  | loadLvc p => exact RoundTrip.loadLvc p
  | unloadKernel p => exact RoundTrip.unloadKernel p
  | setTrustedKey p => exact RoundTrip.setTrustedKey p
  | extendMeasurement p => exact RoundTrip.extendMeasurement p
  | attest p => exact RoundTrip.attest p
  | createPartition arg0 arg1 => exact RoundTrip.createPartition arg0 arg1
  | destroyPartition arg0 arg1 => exact RoundTrip.destroyPartition arg0 arg1
  | setGranuleKey arg0 arg1 => exact RoundTrip.setGranuleKey arg0 arg1
  | grantQueue arg0 arg1 => exact RoundTrip.grantQueue arg0 arg1
  | grantPort arg0 arg1 => exact RoundTrip.grantPort arg0 arg1
  | updateFirmware arg0 arg1 => exact RoundTrip.updateFirmware arg0 arg1
  | firmwareHandover => exact RoundTrip.firmwareHandover
  | setSharedSeverity arg0 arg1 => exact RoundTrip.setSharedSeverity arg0 arg1
  | qprodWrite p q v => exact RoundTrip.qprodWrite p q v
  | qbaseWrite p q v => exact RoundTrip.qbaseWrite p q v
  | invWrite p v => exact RoundTrip.invWrite p v
  | faultMapped p v => exact RoundTrip.faultMapped p v
  | faultDeclined p v => exact RoundTrip.faultDeclined p v
  | shelfcWrite p v => exact RoundTrip.shelfcWrite p v
  | whiskWrite p v => exact RoundTrip.whiskWrite p v
  | eggWrite p v => exact RoundTrip.eggWrite p v
  | sevWrite p cls v => exact RoundTrip.sevWrite p cls v
  | registerWrite f off v => exact RoundTrip.registerWrite f off v
  | copyOutProgress p op => exact RoundTrip.copyOutProgress p op
  | rootComplexAcknowledgement p line => exact RoundTrip.rootComplexAcknowledgement p line
  | ieee1588Message msg => exact RoundTrip.ieee1588Message msg

end Sys2Proof.Laws.RoundTrip

namespace Sys2Proof.Machine
open Sys2Proof.Laws

/-- Settles O58: one direction constructor by constructor, the other table by table. -/
theorem decodeAndEncodeAgree : Obligations.DecodeAndEncodeAgree :=
  ⟨fun i w hwf hw => RoundTrip.statement i hwf w hw, RoundTrip.faithful_decode⟩

end Sys2Proof.Machine
end

section

/-! PROOF O60: every step keeps memory canonical. One lemma for each function of the model says what it does to memory: `_mem`, that it
leaves memory as it is, or `_wf`, that it keeps the canonical form. A function that hands its context on asks the same of what follows
it. The lemmas stand in the order of the model, so that each uses those of the functions that it calls, and `exec_wf`, `State.act_wf` and
`step_wf` assemble them. -/

namespace Sys2Proof.Machine
open Sys2Proof.Config

/-- The state that an instruction's outcome leaves. -/
def Res.state : Res → State
  | .done s | .jump s _ | .trap s _ | .after s _ | .wait s _ | .gone s => s

@[simp] theorem Res.state_done (s : State) : (Res.done s).state = s := rfl

@[simp] theorem Res.state_jump (s : State) (pc : DWord) : (Res.jump s pc).state = s := rfl

@[simp] theorem Res.state_trap (s : State) (t : Trap) : (Res.trap s t).state = s := rfl

@[simp] theorem Res.state_after (s : State) (t : Trap) : (Res.after s t).state = s := rfl

@[simp] theorem Res.state_wait (s : State) (w : Wait) : (Res.wait s w).state = s := rfl

@[simp] theorem Res.state_gone (s : State) : (Res.gone s).state = s := rfl

theorem foldl_wf {α : Type} (l : List α) (f : State → α → State) (s : State) (hs : Memory.wf s.mem = true)
    (hf : ∀ s, Memory.wf s.mem = true → ∀ x, Memory.wf (f s x).mem = true) : Memory.wf (l.foldl f s).mem = true := by
  induction l generalizing s with
  | nil => exact hs
  | cons x l ih => exact ih _ (hf s hs x)

theorem foldl_mem' {α : Type} (l : List α) (f : State → α → State) (s : State) 
    (hf : ∀ s, ∀ x, (f s x).mem = s.mem) : (l.foldl f s).mem = s.mem := by
  induction l generalizing s with
  | nil => rfl
  | cons x l ih => exact (ih _).trans (hf s x)

theorem ite_wf (c : Prop) [Decidable c] (a b : State) : Memory.wf (if c then a else b).mem = true ↔ (c → Memory.wf a.mem = true) ∧ (¬ c → Memory.wf b.mem = true) := by
  split <;> simp_all

theorem wf_of_fst {α : Type} {p : State × α} {s : State} {a : α} (h : p = (s, a)) (hp : Memory.wf p.1.mem = true) : Memory.wf s.mem = true := by
  subst h; exact hp

theorem next_wf {a s : State} (h : (.next a : Host.Outcome State Fault Refusal) = .next s) (ha : Memory.wf a.mem = true) : Memory.wf s.mem = true := by
  cases h; exact ha

@[simp] theorem State.store_wf (s : State) (pa : Nat) (bs : List Byte) (hs : Memory.wf s.mem = true) : Memory.wf (State.store s pa bs).mem = true := Memory.wf_store s pa bs hs

@[simp] theorem State.storeNum_wf (s : State) (pa n x : Nat) (hs : Memory.wf s.mem = true) : Memory.wf (State.storeNum s pa n x).mem = true := Memory.wf_storeNum s pa n x hs

@[simp] theorem State.storeLine_wf (s : State) (pline : Nat) (bytes : Table Byte) (poison : List Nat) (hs : Memory.wf s.mem = true) : Memory.wf (State.storeLine s pline bytes poison).mem = true := Memory.wf_storeLine s pline bytes poison hs

@[simp] theorem State.logLine_wf (s : State) (p : PartNo) (P : Part) (pline : Nat) (hs : Memory.wf s.mem = true) : Memory.wf (State.logLine s p P pline).mem = true := Memory.wf_logLine s p P pline hs

@[simp] theorem State.writeLine_wf (s : State) (p : PartNo) (pline : Nat) (bytes : Table Byte) (poison : List Nat) (hs : Memory.wf s.mem = true) : Memory.wf (State.writeLine s p pline bytes poison).1.mem = true := Memory.wf_writeLine s p pline bytes poison hs

/-! ### Machine/Access -/

@[simp] theorem State.allSeen_mem (s : State) : (State.allSeen s).mem = s.mem := rfl

/-! ### Machine/Record -/

@[simp] theorem State.ringWrite_wf (s : State) (base size prod : Nat) (ws : List DWord) (hs : Memory.wf s.mem = true) : Memory.wf
    (s.ringWrite base size prod ws).mem = true := by
  induction ws generalizing s prod with
  | nil => exact hs
  | cons w ws ih => exact ih _ _ (State.storeNum_wf _ _ _ _ hs)

@[simp] theorem State.appendChunk_wf (s : State) (p : PartNo) (dom : Domain) (id : DWord) (first : Nat) (recs : List DWord)
    (hs : Memory.wf s.mem = true) : Memory.wf (State.appendChunk s p dom id first recs).1.mem = true := by
  unfold State.appendChunk
  split
  · exact hs
  · dsimp only
    split <;> simp [hs]

@[simp] theorem State.flushRecords_wf (s : State) (p : PartNo) (dom : Domain) (id : DWord) (fuel first : Nat) (recs : List DWord)
    (hs : Memory.wf s.mem = true) : Memory.wf (s.flushRecords p dom id fuel first recs).1.mem = true := by
  induction fuel generalizing s first recs with
  | zero => exact hs
  | succ fuel ih =>
    have ha := State.appendChunk_wf s p dom id first (recs.take 128) hs
    unfold State.flushRecords
    dsimp only
    split
    · exact hs
    · split
      · exact ih _ _ _ ha
      · exact ha

@[simp] theorem State.flushChunk_wf (s : State) (p : PartNo) (dom : Domain) (id : DWord) (hs : Memory.wf s.mem = true) : Memory.wf
    (State.flushChunk s p dom id).mem = true := by
  unfold State.flushChunk
  split
  · exact hs
  · split
    · exact hs
    next c _ =>
      have h := State.flushRecords_wf s p dom id (c.recs.length + 1) c.first c.recs hs
      split
      simp_all

@[simp] theorem State.flushAll_wf (s : State) (p : PartNo) (hs : Memory.wf s.mem = true) : Memory.wf (State.flushAll s p).mem = true := by
  unfold State.flushAll
  (repeat' split) <;> simp_all +contextual [foldl_wf]

@[simp] theorem State.retryChunks_wf (s : State) (p : PartNo) (hs : Memory.wf s.mem = true) : Memory.wf (State.retryChunks s p).mem = true
    := by
  unfold State.retryChunks
  (repeat' split) <;> simp_all +contextual [foldl_wf]

@[simp] theorem State.flushIfFull_wf (s : State) (p : PartNo) (dom : Domain) (id : DWord) (hs : Memory.wf s.mem = true) : Memory.wf
    (State.flushIfFull s p dom id).mem = true := by
  unfold State.flushIfFull
  (repeat' split) <;> simp [hs]

@[simp] theorem State.record1_wf (s : State) (p : PartNo) (dom : Domain) (id : DWord) (n : Nat) (recs : List DWord)
    (hs : Memory.wf s.mem = true) : Memory.wf (State.record1 s p dom id n recs).mem = true := by
  unfold State.record1
  simp [hs]

@[simp] theorem State.record_wf (s : State) (p : PartNo) (dom : Domain) (id : DWord) (n : Nat) (recs : List DWord)
    (hs : Memory.wf s.mem = true) : Memory.wf (State.record s p dom id n recs).mem = true := by
  unfold State.record
  (repeat' split) <;> simp_all +contextual [foldl_wf]

@[simp] theorem State.unstage_wf (s : State) (p : PartNo) (tk : Nat) (hs : Memory.wf s.mem = true) : Memory.wf (State.unstage s p tk).mem
    = true := by
  unfold State.unstage
  (repeat' split) <;> simp_all +contextual [foldl_wf]

@[simp] theorem State.stage_wf (s : State) (p : PartNo) (tk : Nat) (r : Staged) (hs : Memory.wf s.mem = true) : Memory.wf
    (State.stage s p tk r).mem = true := by
  unfold State.stage
  (repeat' split) <;> simp [hs]

@[simp] theorem State.commitMade_wf (s : State) (p : PartNo) (tk grp : Nat) (hs : Memory.wf s.mem = true) : Memory.wf
    (State.commitMade s p tk grp).mem = true := by
  unfold State.commitMade
  dsimp only
  (repeat' split) <;> simp [hs]

/-! ### Machine/Explore -/

@[simp] theorem State.leaf_wf (s : State) (p : PartNo) (stall div undo : Bool) (hs : Memory.wf s.mem = true) : Memory.wf
    (State.leaf s p stall div undo).mem = true := by
  unfold State.leaf; (repeat' split) <;> simp_all +contextual [-State.store_mem, -State.storeNum_mem, ite_wf]

/-! ### Machine/Ending -/

@[simp] theorem State.killTeam_wf (s : State) (p : PartNo) (tk : Nat) (hs : Memory.wf s.mem = true) : Memory.wf
    (State.killTeam s p tk).mem = true := by
  unfold State.killTeam
  simp [hs]

@[simp] theorem State.putLine_wf (s : State) (p : PartNo) (pline : Nat) (bytes : Table Byte) (poison : List Nat)
    (hs : Memory.wf s.mem = true) : Memory.wf (State.putLine s p pline bytes poison).mem = true := by
  have h := State.writeLine_wf s p pline bytes poison hs
  unfold State.putLine
  split <;> simp_all

@[simp] theorem State.writeAt_wf (s : State) (p : PartNo) (pa : Nat) (bs : List Byte) (hs : Memory.wf s.mem = true) : Memory.wf
    (State.writeAt s p pa bs).mem = true := by
  unfold State.writeAt
  simp [hs]

@[simp] theorem State.writeHeader_wf (s : State) (p : PartNo) (pa h : Nat) (hs : Memory.wf s.mem = true) : Memory.wf
    (State.writeHeader s p pa h).mem = true := by
  unfold State.writeHeader
  simp [hs]

@[simp] theorem State.countFail_wf (s : State) (p : PartNo) (w : WhiskReq) (hs : Memory.wf s.mem = true) : Memory.wf
    (State.countFail s p w).mem = true := by
  unfold State.countFail
  dsimp only
  split <;> simp [hs]

@[simp] theorem State.refuse_wf (s : State) (p : PartNo) (id : Nat) (w : WhiskReq) (reason : Nat) (hs : Memory.wf s.mem = true) :
    Memory.wf (State.refuse s p id w reason).mem = true := by
  unfold State.refuse
  simp [hs]

@[simp] theorem State.spoilRest_wf (s : State) (p : PartNo) (core pa : Nat) (hs : Memory.wf s.mem = true) : Memory.wf
    (State.spoilRest s p core pa).mem = true := by
  unfold State.spoilRest
  (repeat' split) <;> simp_all +contextual [foldl_wf]

@[simp] theorem State.failBatch_wf (s : State) (p : PartNo) (core reason : Nat) (spoil : Bool) (hs : Memory.wf s.mem = true) : Memory.wf
    (State.failBatch s p core reason spoil).mem = true := by
  unfold State.failBatch
  (repeat' split) <;> simp [hs]

@[simp] theorem State.methodTrap_wf (s : State) (p : PartNo) (core : Nat) (tpc : DWord) (t : Trap) (hs : Memory.wf s.mem = true) :
    Memory.wf (State.methodTrap s p core tpc t).mem = true := by
  unfold State.methodTrap
  simp [hs]

@[simp] theorem State.severity_wf (s : State) (p : PartNo) (cls src index addr : Nat) (req : Word) (ctx : Option Nat)
    (floor mayDiscard : Bool) (hs : Memory.wf s.mem = true) : Memory.wf
    (State.severity s p cls src index addr req ctx floor mayDiscard).mem = true := by
  unfold State.severity
  split
  · exact hs
  · dsimp only
    (repeat' split) <;> simp [hs]

@[simp] theorem State.orphan_wf (s : State) (p : PartNo) (cls src index addr : Nat) (hs : Memory.wf s.mem = true) : Memory.wf
    (State.orphan s p cls src index addr).mem = true := by
  unfold State.orphan
  simp [hs]

@[simp] theorem State.consume_wf (s : State) (p : PartNo) (tk cls src index addr : Nat) (req : Word) (hs : Memory.wf s.mem = true) :
    Memory.wf (State.consume s p tk cls src index addr req).mem = true := by
  unfold State.consume
  dsimp only
  (repeat' split) <;> simp [hs]

@[simp] theorem State.consumeBy_wf (s : State) (p : PartNo) (gid cls src addr : Nat) (hs : Memory.wf s.mem = true) : Memory.wf
    (State.consumeBy s p gid cls src addr).mem = true := by
  unfold State.consumeBy
  split <;> simp [hs]

@[simp] theorem State.readError_wf (s : State) (p : PartNo) (P : Part) (pa : Nat) (hs : Memory.wf s.mem = true) : Memory.wf
    (State.readError s p P pa).mem = true := by
  unfold State.readError
  simp [hs]

/-! ### Machine/Barrier -/

@[simp] theorem State.completeBarrier_mem (s : State) (p : PartNo) (tk level bar : Nat) (role : Option Nat) :
    (State.completeBarrier s p tk level bar role).mem = s.mem := by
  unfold State.completeBarrier
  split <;> simp

@[simp] theorem State.recordRole_wf (s : State) (p : PartNo) (tk level bar m : Nat) (hs : Memory.wf s.mem = true) : Memory.wf
    (State.recordRole s p tk level bar m).mem = true := by
  unfold State.recordRole
  (repeat' split) <;> simp [hs]

@[simp] theorem State.tryBarrier_wf (s : State) (p : PartNo) (tk level bar : Nat) (hs : Memory.wf s.mem = true) : Memory.wf
    (State.tryBarrier s p tk level bar).mem = true := by
  unfold State.tryBarrier
  dsimp only
  (repeat' split) <;> simp [hs]

@[simp] theorem State.arrive_wf (s : State) (p : PartNo) (tk level bar m : Nat) (drop cand : Bool) (hs : Memory.wf s.mem = true) :
    Memory.wf (State.arrive s p tk level bar m drop cand).mem = true := by
  unfold State.arrive
  simp [hs]

@[simp] theorem State.implyDrop_wf (s : State) (p : PartNo) (tk level bar m : Nat) (hs : Memory.wf s.mem = true) : Memory.wf
    (State.implyDrop s p tk level bar m).mem = true := by
  unfold State.implyDrop
  (repeat' split) <;> simp [hs]

/-! ### Machine/Ops -/

@[simp] theorem Ctx.put_mem (c : Ctx) (g : Group) : (Ctx.put c g).mem = c.s.mem := rfl

@[simp] theorem Ctx.setG_mem (c : Ctx) (g : Group) : (Ctx.setG c g).s.mem = c.s.mem := rfl

@[simp] theorem Ctx.setP_mem (c : Ctx) (P : Part) : (Ctx.setP c P).s.mem = c.s.mem := rfl

@[simp] theorem Ctx.reload_mem (c : Ctx) (s : State) : (c.reload s).s.mem = s.mem := by
  unfold Ctx.reload
  split <;> rfl

@[simp] theorem Ctx.finish_mem (c : Ctx) (g : Group) : (Ctx.finish c g).state.mem = c.s.mem := rfl

@[simp] theorem Ctx.fail_mem (c : Ctx) (t : Trap) : (Ctx.fail c t).state.mem = c.s.mem := rfl

@[simp] theorem Ctx.closed_wf (c : Ctx) (k : Ctx → Res) (hc : Memory.wf c.s.mem = true)
    (hk : ∀ x0, Memory.wf x0.s.mem = true → Memory.wf (k x0).state.mem = true) : Memory.wf (Ctx.closed c k).state.mem = true := by
  unfold Ctx.closed
  (repeat' split) <;> simp_all

@[simp] theorem State.doubleFault_wf (s : State) (p : PartNo) (gid : Nat) (g : Group) (t : Trap) (hs : Memory.wf s.mem = true) : Memory.wf
    (State.doubleFault s p gid g t).mem = true := by
  unfold State.doubleFault
  split <;> simp [hs]

@[simp] theorem State.defaultHandler_wf (s : State) (p : PartNo) (gid : Nat) (tpc : DWord) (t : Trap) (hs : Memory.wf s.mem = true) :
    Memory.wf (State.defaultHandler s p gid tpc t).mem = true := by
  unfold State.defaultHandler
  simp [hs]

@[simp] theorem State.enterTrap_wf (s : State) (p : PartNo) (gid : Nat) (t : Trap) (hs : Memory.wf s.mem = true) : Memory.wf
    (State.enterTrap s p gid t).mem = true := by
  unfold State.enterTrap
  (repeat' split) <;> simp [hs]

@[simp] theorem State.raiseTrap_wf (s : State) (p : PartNo) (gid : Nat) (t : Trap) (hs : Memory.wf s.mem = true) : Memory.wf
    (State.raiseTrap s p gid t).mem = true := by
  unfold State.raiseTrap
  (repeat' split) <;> simp [hs]

theorem Ctx.settle_wf (c : Ctx) (r : Res) (hr : Memory.wf r.state.mem = true) : Memory.wf (c.settle r).mem = true := by
  have h : ∀ s : State, Memory.wf s.mem = true →
      Memory.wf (if c.firing r then s.modPart c.p fun P => { P with fire := P.fire + 1 } else s).mem = true := fun s hs => by
    split <;> simp [hs]
  unfold Ctx.settle
  refine h _ ?_
  cases r <;> simp_all
  split <;> simp [hr]

/-! ### Machine/Operands -/

@[simp] theorem Ctx.precheck_wf (c : Ctx) (i : Instr) (body : Ctx → Res) (hc : Memory.wf c.s.mem = true)
    (hbody : ∀ x0, Memory.wf x0.s.mem = true → Memory.wf (body x0).state.mem = true) : Memory.wf (Ctx.precheck c i body).state.mem = true
    := by
  unfold Ctx.precheck
  (repeat' split) <;> simp_all

theorem State.issuer_wf (s : State) (hs : Memory.wf s.mem = true) {c' : Ctx} (ht : State.issuer s = some c') : Memory.wf c'.s.mem = true
    := by
  obtain ⟨rfl, -⟩ := State.issuer_spec ht
  exact hs

theorem issue_wf (i : Instr) (s : State) (body : Ctx → Res) (hs : Memory.wf s.mem = true)
    (hbody : ∀ x0, Memory.wf x0.s.mem = true → Memory.wf (body x0).state.mem = true) {s' : State} (ht : issue i s body = .next s') :
    Memory.wf s'.mem = true := by
  unfold issue at ht
  split at ht
  · cases ht
  next c hc =>
    cases ht
    exact Ctx.settle_wf _ _ (Ctx.precheck_wf _ _ _ (State.issuer_wf s hs hc) hbody)

@[simp] theorem rejectWord_wf (r : Reject) (s : State) (hs : Memory.wf s.mem = true) : Memory.wf (rejectWord r s).mem = true := by
  unfold rejectWord
  split
  · exact hs
  next c hc =>
    have h := State.issuer_wf s hs hc
    refine Ctx.settle_wf _ _ ?_
    split
    · exact h
    · split
      · simp [h]
      · split
        · exact Ctx.precheck_wf _ _ _ h fun c hc => hc
        · exact h

@[simp] theorem Ctx.checked_wf (c : Ctx) (g : Group) (hc : Memory.wf c.s.mem = true) : Memory.wf (Ctx.checked c g).state.mem = true := by
  unfold Ctx.checked
  split <;> simp [hc]

@[simp] theorem Ctx.outside_wf (c : Ctx) (i : Instr) (body : Ctx → Res) (hc : Memory.wf c.s.mem = true)
    (hbody : ∀ x0, Memory.wf x0.s.mem = true → Memory.wf (body x0).state.mem = true) : Memory.wf (Ctx.outside c i body).state.mem = true
    := by
  unfold Ctx.outside
  (repeat' split) <;> simp_all

@[simp] theorem Ctx.room_wf (c : Ctx) (p : Path) (body : Ctx → Res) (hc : Memory.wf c.s.mem = true)
    (hbody : ∀ x0, Memory.wf x0.s.mem = true → Memory.wf (body x0).state.mem = true) : Memory.wf (Ctx.room c p body).state.mem = true :=
    by
  unfold Ctx.room
  (repeat' split) <;> simp_all

@[simp] theorem Ctx.badType_mem (c : Ctx) (op : Nat) : (Ctx.badType c op).state.mem = c.s.mem := rfl

/-! ### Machine/Flags -/

@[simp] theorem Ctx.typed_wf (c : Ctx) (op : Nat) (ok : Nat → Bool) (body : Ty → Res) (hc : Memory.wf c.s.mem = true)
    (hbody : ∀ x0, Memory.wf (body x0).state.mem = true) : Memory.wf (Ctx.typed c op ok body).state.mem = true := by
  unfold Ctx.typed
  (repeat' split) <;> simp_all

/-! ### Machine/Mem -/

theorem State.ctx?_wf (s : State) (p : PartNo) (gid : Nat) (hs : Memory.wf s.mem = true) {c' : Ctx} (ht : State.ctx? s p gid = some c') :
    Memory.wf c'.s.mem = true := by
  unfold State.ctx? at ht
  split at ht
  · cases ht
  · obtain ⟨g, -, rfl⟩ := Option.map_eq_some_iff.1 ht
    exact hs

@[simp] theorem State.touch_wf (s : State) (p : PartNo) (core : Nat) (acc : Acc) (va : Nat) (x : Xlate) (hs : Memory.wf s.mem = true) :
    Memory.wf (State.touch s p core acc va x).mem = true := by
  unfold State.touch
  dsimp only
  (repeat' split) <;> simp [hs]

@[simp] theorem State.reportFault_mem (s : State) (p : PartNo) (vp kind : Nat) (malformed : Bool) (req : Word) :
    (State.reportFault s p vp kind malformed req).mem = s.mem := rfl

@[simp] theorem Ctx.pageFault_mem (c : Ctx) (kind : Nat) (pages : List (Nat × Nat × Bool)) : (Ctx.pageFault c kind pages).state.mem =
    c.s.mem := by
  unfold Ctx.pageFault
  dsimp only
  have h := foldl_mem' pages (fun s x => s.reportFault c.p x.1 kind x.2.2 (c.P.requester c.gid x.2.1)) c.s
    fun s x => State.reportFault_mem ..
  (repeat' split) <;> simp [h]

@[simp] theorem State.clearMarks_mem (s : State) (p : PartNo) (tk : Nat) (vps : List Nat) : (State.clearMarks s p tk vps).mem = s.mem :=
    rfl

@[simp] theorem Ctx.translate_wf (c : Ctx) (acc : Acc) (items : List (Nat × DWord)) (deny : List (Nat × Trap))
    (body : Ctx → List (Nat × Bool) → Res) (hc : Memory.wf c.s.mem = true)
    (hbody : ∀ x0, ∀ x1, Memory.wf x0.s.mem = true → Memory.wf (body x0 x1).state.mem = true) : Memory.wf
    (Ctx.translate c acc items deny body).state.mem = true := by
  unfold Ctx.translate
  dsimp only
  generalize items.map (fun e => (e, c.look acc (e.2.toNat % 2 ^ 56))) = looks
  have h : ∀ l, Memory.wf
      (if (c.team?.any fun t => t.marks.any (List.contains l)) = true then c.reload (c.s.clearMarks c.p c.tk l) else c).s.mem = true := by
    intro l; split <;> simp [hc]
  generalize hk : (if (c.team?.any _) = true then _ else c) = k
  have hk : Memory.wf k.s.mem = true := hk ▸ h _
  split
  · split <;> simp [hk]
  · split
    · simp [hk]
    · split
      · simp [hk]
      · split
        · simp [hk]
        · split
          · simp [hk]
          · refine hbody _ _ ?_
            simp only [Ctx.reload_mem]
            exact foldl_wf _ _ _ hk fun s hs x => by simp [hs]

@[simp] theorem State.retire_wf (s : State) (p : PartNo) (tk : Nat) (hs : Memory.wf s.mem = true) : Memory.wf (State.retire s p tk).mem =
    true := by
  unfold State.retire
  simp [hs]

@[simp] theorem State.advanceCommit_wf (s : State) (p : PartNo) (tk : Nat) (hs : Memory.wf s.mem = true) : Memory.wf
    (State.advanceCommit s p tk).mem = true := by
  unfold State.advanceCommit
  (repeat' split) <;> simp [hs]

@[simp] theorem State.anchor_mem (s : State) (p : PartNo) (tk : Nat) : (State.anchor s p tk).mem = s.mem := rfl

@[simp] theorem State.beginCommit_wf (s : State) (p : PartNo) (tk grp : Nat) (final : Bool) (hs : Memory.wf s.mem = true) : Memory.wf
    (State.beginCommit s p tk grp final).mem = true := by
  unfold State.beginCommit
  simp [hs]

@[simp] theorem Ctx.commits_wf (c : Ctx) (body : Ctx → Res) (hc : Memory.wf c.s.mem = true)
    (hbody : ∀ x0, Memory.wf x0.s.mem = true → Memory.wf (body x0).state.mem = true) : Memory.wf (Ctx.commits c body).state.mem = true :=
    by
  unfold Ctx.commits
  dsimp only
  (repeat' split) <;> simp_all

@[simp] theorem Ctx.store_wf (c : Ctx) (pieces : List ColLine) (body : Ctx → Res) (hc : Memory.wf c.s.mem = true)
    (hbody : ∀ x0, Memory.wf x0.s.mem = true → Memory.wf (body x0).state.mem = true) : Memory.wf (Ctx.store c pieces body).state.mem =
    true := by
  unfold Ctx.store
  dsimp only
  (repeat' split) <;> simp +contextual [*]

@[simp] theorem Ctx.load_wf (c : Ctx) (dst size : Nat) (scalar : Bool) (la : La) (scope : Nat) (xs : List LoadLane)
    (hc : Memory.wf c.s.mem = true) : Memory.wf (Ctx.load c dst size scalar la scope xs).state.mem = true := by
  unfold Ctx.load
  (repeat' split) <;> simp [hc]

/-! ### Machine/Control -/

@[simp] theorem Ctx.branch_mem {n : Nat} (c : Ctx) (taken : Bool) (o : BitVec n) : (Ctx.branch c taken o).state.mem = c.s.mem := by
  unfold Ctx.branch
  split <;> simp

@[simp] theorem Ctx.jumpTo_mem (c : Ctx) (target : DWord) (g : Group) : (Ctx.jumpTo c target g).state.mem = c.s.mem := by
  unfold Ctx.jumpTo
  split <;> simp

theorem execNop_wf (s : State) (hs : Memory.wf s.mem = true) {s' : State} (ht : execNop s = .next s') : Memory.wf s'.mem = true :=
    issue_wf _ _ _ hs (fun c hc => by simp [hc]) ht

theorem execBra_wf (o : BitVec 24) (s : State) (hs : Memory.wf s.mem = true) {s' : State} (ht : execBra o s = .next s') : Memory.wf s'.mem
    = true := issue_wf _ _ _ hs (fun c hc => by simp [hc]) ht

theorem execCall_wf (l : SReg) (o : BitVec 19) (s : State) (hs : Memory.wf s.mem = true) {s' : State} (ht : execCall l o s = .next s') :
    Memory.wf s'.mem = true := issue_wf _ _ _ hs (fun c hc => by simp [hc]) ht

theorem execCallr_wf (d a : SReg) (s : State) (hs : Memory.wf s.mem = true) {s' : State} (ht : execCallr d a s = .next s') : Memory.wf
    s'.mem = true := issue_wf _ _ _ hs (fun c hc => by simp [hc]) ht

theorem execJr_wf (a : SReg) (s : State) (hs : Memory.wf s.mem = true) {s' : State} (ht : execJr a s = .next s') : Memory.wf s'.mem = true
    := issue_wf _ _ _ hs (fun c hc => by split <;> simp [hc]) ht

theorem execBrany_wf (q : QReg) (n : Bool) (o : BitVec 20) (s : State) (hs : Memory.wf s.mem = true) {s' : State}
    (ht : execBrany q n o s = .next s') : Memory.wf s'.mem = true := issue_wf _ _ _ hs (fun c hc => by simp [hc]) ht

theorem execBrall_wf (q : QReg) (n : Bool) (o : BitVec 20) (s : State) (hs : Memory.wf s.mem = true) {s' : State}
    (ht : execBrall q n o s = .next s') : Memory.wf s'.mem = true := issue_wf _ _ _ hs (fun c hc => by simp [hc]) ht

theorem execBrnone_wf (q : QReg) (n : Bool) (o : BitVec 20) (s : State) (hs : Memory.wf s.mem = true) {s' : State}
    (ht : execBrnone q n o s = .next s') : Memory.wf s'.mem = true := issue_wf _ _ _ hs (fun c hc => by simp [hc]) ht

theorem execBz_wf (a : SReg) (o : BitVec 19) (s : State) (hs : Memory.wf s.mem = true) {s' : State} (ht : execBz a o s = .next s') :
    Memory.wf s'.mem = true := issue_wf _ _ _ hs (fun c hc => by simp [hc]) ht

theorem execBnz_wf (a : SReg) (o : BitVec 19) (s : State) (hs : Memory.wf s.mem = true) {s' : State} (ht : execBnz a o s = .next s') :
    Memory.wf s'.mem = true := issue_wf _ _ _ hs (fun c hc => by simp [hc]) ht

theorem execEmand_wf (q : QReg) (n : Bool) (s : State) (hs : Memory.wf s.mem = true) {s' : State} (ht : execEmand q n s = .next s') :
    Memory.wf s'.mem = true := issue_wf _ _ _ hs (fun c hc => by split <;> simp [hc]) ht

theorem execEmelse_wf (s : State) (hs : Memory.wf s.mem = true) {s' : State} (ht : execEmelse s = .next s') : Memory.wf s'.mem = true :=
    issue_wf _ _ _ hs (fun c hc => by split <;> simp [hc]) ht

theorem execEmpop_wf (s : State) (hs : Memory.wf s.mem = true) {s' : State} (ht : execEmpop s = .next s') : Memory.wf s'.mem = true :=
    issue_wf _ _ _ hs (fun c hc => by split <;> simp [hc]) ht

theorem execEmrd_wf (d : SReg) (s : State) (hs : Memory.wf s.mem = true) {s' : State} (ht : execEmrd d s = .next s') : Memory.wf s'.mem =
    true := issue_wf _ _ _ hs (fun c hc => by simp [hc]) ht

theorem execEmwr_wf (a : SReg) (s : State) (hs : Memory.wf s.mem = true) {s' : State} (ht : execEmwr a s = .next s') : Memory.wf s'.mem =
    true := issue_wf _ _ _ hs (fun c hc => by simp [hc]) ht

theorem execMode_wf (m : BitVec 16) (s : State) (hs : Memory.wf s.mem = true) {s' : State} (ht : execMode m s = .next s') : Memory.wf
    s'.mem = true := issue_wf _ _ _ hs (fun c hc => by simp [hc]) ht

theorem execPmode_wf (p : BitVec 15) (s : State) (hs : Memory.wf s.mem = true) {s' : State} (ht : execPmode p s = .next s') : Memory.wf
    s'.mem = true := issue_wf _ _ _ hs (fun c hc => by simp [hc]) ht

theorem execModer_wf (a : SReg) (s : State) (hs : Memory.wf s.mem = true) {s' : State} (ht : execModer a s = .next s') : Memory.wf s'.mem
    = true := issue_wf _ _ _ hs (fun c hc => by dsimp only; split <;> simp [hc]) ht

theorem execTrap_wf (i : BitVec 16) (s : State) (hs : Memory.wf s.mem = true) {s' : State} (ht : execTrap i s = .next s') : Memory.wf
    s'.mem = true := issue_wf _ _ _ hs (fun c hc => by simp [hc]) ht

theorem execBrk_wf (s : State) (hs : Memory.wf s.mem = true) {s' : State} (ht : execBrk s = .next s') : Memory.wf s'.mem = true :=
    issue_wf _ _ _ hs (fun c hc => by simp [hc]) ht

theorem execTret_wf (s : State) (hs : Memory.wf s.mem = true) {s' : State} (ht : execTret s = .next s') : Memory.wf s'.mem = true :=
    issue_wf _ _ _ hs (fun c hc => Ctx.closed_wf _ _ hc fun c hc => by (repeat' split) <;> simp [hc]) ht

@[simp] theorem Ctx.setIndex_wf (c : Ctx) (k : XReg) (f : Nat → Int) (hc : Memory.wf c.s.mem = true) : Memory.wf
    (Ctx.setIndex c k f).state.mem = true := by
  unfold Ctx.setIndex
  split <;> simp [hc]

theorem execXset_wf (k : XReg) (v : VReg) (i : BitVec 14) (s : State) (hs : Memory.wf s.mem = true) {s' : State}
    (ht : execXset k v i s = .next s') : Memory.wf s'.mem = true := issue_wf _ _ _ hs (fun c hc => by simp [hc]) ht

theorem execXadd_wf (k : XReg) (i : BitVec 14) (s : State) (hs : Memory.wf s.mem = true) {s' : State} (ht : execXadd k i s = .next s') :
    Memory.wf s'.mem = true := issue_wf _ _ _ hs (fun c hc => by simp [hc]) ht

theorem execXbnd_wf (k : XReg) (l h : BitVec 6) (s : State) (hs : Memory.wf s.mem = true) {s' : State} (ht : execXbnd k l h s = .next s')
    : Memory.wf s'.mem = true := issue_wf _ _ _ hs (fun c hc => by simp [hc]) ht

theorem execXrd_wf (k : XReg) (d : VReg) (s : State) (hs : Memory.wf s.mem = true) {s' : State} (ht : execXrd k d s = .next s') :
    Memory.wf s'.mem = true := issue_wf _ _ _ hs (fun c hc => by simp [hc]) ht

@[simp] theorem Ctx.chosen_mem (c : Ctx) (d : SReg) (v : Nat) : (Ctx.chosen c d v).state.mem = c.s.mem := rfl

@[simp] theorem Ctx.decideChoice_wf (c : Ctx) (d : SReg) (b : Nat) (hc : Memory.wf c.s.mem = true) : Memory.wf
    (Ctx.decideChoice c d b).state.mem = true := by
  unfold Ctx.decideChoice
  dsimp only
  (repeat' split) <;> simp [hc]

theorem execChoose_wf (d a : SReg) (s : State) (hs : Memory.wf s.mem = true) {s' : State} (ht : execChoose d a s = .next s') : Memory.wf
    s'.mem = true := issue_wf _ _ _ hs (fun c hc => Ctx.outside_wf _ _ _ hc fun c hc => by dsimp only; (repeat' split) <;> simp [hc]) ht

theorem execAnch_wf (s : State) (hs : Memory.wf s.mem = true) {s' : State} (ht : execAnch s = .next s') : Memory.wf s'.mem = true :=
    issue_wf _ _ _ hs (fun c hc => by simp_all +contextual) ht

theorem execCcall_wf (i : BitVec 16) (s : State) (hs : Memory.wf s.mem = true) {s' : State} (ht : execCcall i s = .next s') : Memory.wf
    s'.mem = true := issue_wf _ _ _ hs (fun c hc => Ctx.outside_wf _ _ _ hc fun c hc => by (repeat' split) <;> simp [hc]) ht

theorem execSysrd_wf (n : BitVec 8) (d : SReg) (s : State) (hs : Memory.wf s.mem = true) {s' : State} (ht : execSysrd n d s = .next s') :
    Memory.wf s'.mem = true := issue_wf _ _ _ hs (fun c hc => by (repeat' split) <;> simp_all +contextual) ht

theorem execSyswr_wf (n : BitVec 8) (a : SReg) (s : State) (hs : Memory.wf s.mem = true) {s' : State} (ht : execSyswr n a s = .next s') :
    Memory.wf s'.mem = true := by
  refine issue_wf _ _ _ hs (fun c hc => ?_) ht
  split
  · exact hc
  split
  · exact hc
  split
  · exact hc
  exact Ctx.closed_wf _ _ hc fun c hc => by split <;> simp [hc]

@[simp] theorem State.dropTeam_wf (s : State) (p : PartNo) (tk : Nat) (hs : Memory.wf s.mem = true) : Memory.wf
    (State.dropTeam s p tk).mem = true := by
  unfold State.dropTeam
  dsimp only
  have h1 := fun tk k => foldl_wf (List.range 8) (fun s b => State.implyDrop s p tk 1 b k) s hs fun s hs b => by simp [hs]
  (repeat' split) <;> simp +contextual [hs, h1, foldl_wf]

@[simp] theorem State.endGroup_wf (s : State) (p : PartNo) (gid : Nat) (pc : DWord) (hs : Memory.wf s.mem = true) : Memory.wf
    (State.endGroup s p gid pc).mem = true := by
  unfold State.endGroup
  dsimp only
  (repeat' split) <;> simp [hs]

@[simp] theorem Ctx.leave_wf (c : Ctx) (hc : Memory.wf c.s.mem = true) : Memory.wf (Ctx.leave c).state.mem = true := by
  unfold Ctx.leave
  simp only [Res.state_gone]
  exact State.endGroup_wf _ _ _ _ (foldl_wf _ _ _ hc fun s hs b => State.implyDrop_wf _ _ _ _ _ _ hs)

@[simp] theorem Ctx.exitDropped_wf (c : Ctx) (ord : Nat) (hc : Memory.wf c.s.mem = true) : Memory.wf (Ctx.exitDropped c ord).state.mem =
    true := by
  unfold Ctx.exitDropped
  (repeat' split) <;> simp [hc]

@[simp] theorem Ctx.exitDrop_wf (c : Ctx) (hc : Memory.wf c.s.mem = true) : Memory.wf (Ctx.exitDrop c).state.mem = true := by
  unfold Ctx.exitDrop
  dsimp only
  (repeat' split) <;> simp [hc]

@[simp] theorem Ctx.exit_wf (c : Ctx) (hc : Memory.wf c.s.mem = true) : Memory.wf (Ctx.exit c).state.mem = true := by
  unfold Ctx.exit
  split
  · simp [hc]
  · split
    · simp [hc]
    · refine Ctx.closed_wf _ _ hc fun c hc => ?_
      dsimp only
      (repeat' split) <;> simp [hc]

theorem execExit_wf (s : State) (hs : Memory.wf s.mem = true) {s' : State} (ht : execExit s = .next s') : Memory.wf s'.mem = true :=
    issue_wf _ _ _ hs (fun c hc => by simp_all) ht

/-! ### Machine/Scratch -/

@[simp] theorem Ctx.storeReady_mem (c : Ctx) (slot : Nat) : (Ctx.storeReady c slot).s.mem = c.s.mem := by
  unfold Ctx.storeReady
  (repeat' split) <;> simp

theorem foldl_ctx_mem {α : Type} (l : List α) (f : Ctx → α → Ctx) (c : Ctx) (hf : ∀ c x, (f c x).s.mem = c.s.mem) :
    (l.foldl f c).s.mem = c.s.mem := by
  induction l generalizing c with
  | nil => rfl
  | cons x l ih => exact (ih _).trans (hf c x)

@[simp] theorem Ctx.poke_mem (c : Ctx) (addr : Nat) (bs : List Byte) : (Ctx.poke c addr bs).s.mem = c.s.mem := by
  unfold Ctx.poke
  refine foldl_ctx_mem _ _ _ fun c x => ?_
  split <;> simp

@[simp] theorem Ctx.padLoad_wf (c : Ctx) (d a : VReg) (l : La) (off : BitVec 8) (size : Nat) (hc : Memory.wf c.s.mem = true) : Memory.wf
    (Ctx.padLoad c d a l off size).state.mem = true := by
  unfold Ctx.padLoad
  dsimp only
  (repeat' split) <;> simp [hc]

@[simp] theorem Ctx.padStore_mem (c : Ctx) (d a : VReg) (off : BitVec 8) (size : Nat) : (Ctx.padStore c d a off size).state.mem = c.s.mem
    := by
  unfold Ctx.padStore
  dsimp only
  split
  · rfl
  · exact foldl_ctx_mem _ _ _ fun c x => by simp

theorem execLds_wf (d a : VReg) (l : La) (o : BitVec 8) (s : State) (hs : Memory.wf s.mem = true) {s' : State}
    (ht : execLds d a l o s = .next s') : Memory.wf s'.mem = true := issue_wf _ _ _ hs (fun c hc => by simp [hc]) ht

theorem execLdsq_wf (d a : VReg) (l : La) (o : BitVec 8) (s : State) (hs : Memory.wf s.mem = true) {s' : State}
    (ht : execLdsq d a l o s = .next s') : Memory.wf s'.mem = true := issue_wf _ _ _ hs (fun c hc => by simp [hc]) ht

theorem execSts_wf (d a : VReg) (l : La) (o : BitVec 8) (s : State) (hs : Memory.wf s.mem = true) {s' : State}
    (ht : execSts d a l o s = .next s') : Memory.wf s'.mem = true := issue_wf _ _ _ hs (fun c hc => by simp [hc]) ht

theorem execStsq_wf (d a : VReg) (l : La) (o : BitVec 8) (s : State) (hs : Memory.wf s.mem = true) {s' : State}
    (ht : execStsq d a l o s = .next s') : Memory.wf s'.mem = true := issue_wf _ _ _ hs (fun c hc => by simp [hc]) ht

@[simp] theorem Ctx.consumed_wf (c : Ctx) (hc : Memory.wf c.s.mem = true) : Memory.wf (Ctx.consumed c).state.mem = true := by
  unfold Ctx.consumed
  simp [hc]

@[simp] theorem Ctx.doneS_mem (c : Ctx) (l : La) (rs : List SReg) : (Ctx.doneS c l rs).state.mem = c.s.mem := rfl

theorem execTbinit_wf (x y : SReg) (l : La) (s : State) (hs : Memory.wf s.mem = true) {s' : State} (ht : execTbinit x y l s = .next s') :
    Memory.wf s'.mem = true := issue_wf _ _ _ hs (fun c hc => by dsimp only; (repeat' split) <;> simp [hc]) ht

@[simp] theorem Ctx.tbTrap_wf (c : Ctx) (a : Nat) (t : Trap) (hc : Memory.wf c.s.mem = true) : Memory.wf (Ctx.tbTrap c a t).state.mem =
    true := by
  unfold Ctx.tbTrap
  split <;> simp [hc]

theorem execTbarr_wf (x y : SReg) (l : La) (s : State) (hs : Memory.wf s.mem = true) {s' : State} (ht : execTbarr x y l s = .next s') :
    Memory.wf s'.mem = true := issue_wf _ _ _ hs (fun c hc => by dsimp only; (repeat' split) <;> simp [hc]) ht

theorem execTbwait_wf (x y : SReg) (s : State) (hs : Memory.wf s.mem = true) {s' : State} (ht : execTbwait x y s = .next s') : Memory.wf
    s'.mem = true := issue_wf _ _ _ hs (fun c hc => by dsimp only; (repeat' split) <;> simp [hc]) ht

theorem execWcnt_wf (p : BitVec 5) (t : BitVec 8) (s : State) (hs : Memory.wf s.mem = true) {s' : State} (ht : execWcnt p t s = .next s')
    : Memory.wf s'.mem = true := issue_wf _ _ _ hs (fun c hc => by (repeat' split) <;> simp [hc]) ht

theorem execSlk_wf (x y : SReg) (l : La) (s : State) (hs : Memory.wf s.mem = true) {s' : State} (ht : execSlk x y l s = .next s') :
    Memory.wf s'.mem = true := issue_wf _ _ _ hs (fun c hc => by simp [hc]) ht

@[simp] theorem Ctx.retag_mem (c : Ctx) (slot : Nat) (key : DWord) (state : BitVec 3) : (Ctx.retag c slot key state).s.mem = c.s.mem :=
    rfl

theorem execSfill_wf (x y : SReg) (l : La) (s : State) (hs : Memory.wf s.mem = true) {s' : State} (ht : execSfill x y l s = .next s') :
    Memory.wf s'.mem = true := issue_wf _ _ _ hs (fun c hc => by dsimp only; (repeat' split) <;> simp [hc]) ht

theorem execSevict_wf (x : SReg) (f : BitVec 2) (l : La) (s : State) (hs : Memory.wf s.mem = true) {s' : State}
    (ht : execSevict x f l s = .next s') : Memory.wf s'.mem = true := by
  unfold execSevict at ht
  refine issue_wf _ _ _ hs (fun c hc => ?_) ht
  dsimp only
  have hd : Memory.wf
      ((c.retag ((c.g.sreg x).toNat % 256) (privateKey ((c.g.sreg x).toNat % 256 - (c.team?.map Team.runBase).getD 0)) 1).doneS l []).state.mem
      = true := by simp [hc]
  split
  · exact hc
  · split
    · exact hc
    · split
      · exact hc
      · split
        · exact Ctx.consumed_wf _ hc
        · split
          · exact hc
          · split
            · refine Ctx.translate_wf _ _ _ _ _ hc fun c pas hc => ?_
              split
              · exact hc
              · split
                · simp [hc]
                · split
                  · exact Ctx.store_wf _ _ _ hc fun c hc => by simp [hc]
                  · exact hc
            · split
              · exact hc
              · exact hd

/-! ### Machine/Copy -/

@[simp] theorem Ctx.barrierChecked_wf (c : Ctx) (bar : Option Nat) (t : Option Trap) (k : Unit → Res) (hc : Memory.wf c.s.mem = true)
    (hk : ∀ x0, Memory.wf (k x0).state.mem = true) : Memory.wf (Ctx.barrierChecked c bar t k).state.mem = true := by
  unfold Ctx.barrierChecked
  (repeat' split) <;> simp_all

@[simp] theorem Ctx.readySlots_mem (c : Ctx) (addr len : Nat) : (Ctx.readySlots c addr len).s.mem = c.s.mem := by
  unfold Ctx.readySlots
  exact foldl_ctx_mem _ _ _ fun c x => by simp

@[simp] theorem Ctx.startCopyIn_mem (c : Ctx) (l : La) (op : Nat) (bar : Option Nat) (sectors : Nat) :
    (Ctx.startCopyIn c l op bar sectors).state.mem = c.s.mem := by
  unfold Ctx.startCopyIn
  split <;> simp

theorem execCpy_wf (d a : VReg) (l : La) (t : SReg) (z : BitVec 3) (s : State) (hs : Memory.wf s.mem = true) {s' : State}
    (ht : execCpy d a l t z s = .next s') : Memory.wf s'.mem = true := by
  unfold execCpy at ht
  refine issue_wf _ _ _ hs (fun c hc => ?_) ht
  refine Ctx.barrierChecked_wf _ _ _ _ hc fun _ => Ctx.translate_wf _ _ _ _ _ hc fun c pas hc => Ctx.room_wf _ _ _ hc fun c hc => ?_
  split
  · simp [hc]
  · dsimp only
    generalize copySources _ _ = srcs
    split
    · exact hc
    · split
      · simp [hc]
      · simp only [Ctx.startCopyIn_mem, Ctx.setP_mem]
        rw [foldl_ctx_mem _ _ _ fun c x => Ctx.readySlots_mem ..]
        exact hc

theorem execCpyo_wf (d a : VReg) (l : La) (z : BitVec 3) (s : State) (hs : Memory.wf s.mem = true) {s' : State}
    (ht : execCpyo d a l z s = .next s') : Memory.wf s'.mem = true := by
  refine issue_wf _ _ _ hs (fun c hc => Ctx.outside_wf _ _ _ hc fun c hc => ?_) ht
  dsimp only
  split
  · exact hc
  refine Ctx.translate_wf _ _ _ _ _ hc fun c _ hc => Ctx.room_wf _ _ _ hc fun c hc => ?_
  split
  · simp [hc]
  split
  · exact State.consumeBy_wf _ _ _ _ _ _ hc
  · simp [hc]

@[simp] theorem Ctx.descriptor_wf (c : Ctx) (addr : Nat) (body : Nat → Res) (hc : Memory.wf c.s.mem = true)
    (hbody : ∀ x0, Memory.wf (body x0).state.mem = true) : Memory.wf (Ctx.descriptor c addr body).state.mem = true := by
  unfold Ctx.descriptor
  (repeat' split) <;> simp_all

@[simp] theorem Ctx.tileIn_wf (c : Ctx) (l : La) (d : TileDesc) (bar : Option Nat) (hc : Memory.wf c.s.mem = true) : Memory.wf
    (Ctx.tileIn c l d bar).state.mem = true := by
  unfold Ctx.tileIn
  refine Ctx.barrierChecked_wf _ _ _ _ hc fun _ => Ctx.room_wf _ _ _ hc fun c hc => ?_
  simp [foldl_ctx_mem, hc]

@[simp] theorem Ctx.tileOut_wf (c : Ctx) (l : La) (d : TileDesc) (hc : Memory.wf c.s.mem = true) : Memory.wf (Ctx.tileOut c l d).state.mem
    = true := by
  unfold Ctx.tileOut
  split
  · exact hc
  · exact Ctx.room_wf _ _ _ hc fun c hc => by simp [hc]

theorem execCpyt_wf (x y : SReg) (f : BitVec 2) (l : La) (s : State) (hs : Memory.wf s.mem = true) {s' : State}
    (ht : execCpyt x y f l s = .next s') : Memory.wf s'.mem = true := by
  refine issue_wf _ _ _ hs (fun c hc => ?_) ht
  dsimp only
  split
  · exact hc
  split
  · refine Ctx.outside_wf _ _ _ hc fun c hc => ?_
    split
    · exact Ctx.descriptor_wf _ _ _ hc fun n => by split <;> simp [hc]
    · exact hc
  · exact Ctx.descriptor_wf _ _ _ hc fun n => by split <;> simp [hc]

@[simp] theorem State.breakCopy_wf (s : State) (p : PartNo) (gid op src addr : Nat) (hs : Memory.wf s.mem = true) : Memory.wf
    (State.breakCopy s p gid op src addr).mem = true := by
  unfold State.breakCopy
  simp [hs]

theorem State.copyTranslate_wf_error (s : State) (p : PartNo) (op : Nat) (c : Ctx) (acc : Acc) (l : CopyLine)
    (hs : Memory.wf s.mem = true)
    {t : State} (ht : s.copyTranslate p op c acc l = .error t) : Memory.wf t.mem = true := by
  unfold State.copyTranslate at ht
  dsimp only at ht
  (repeat' split at ht) <;> cases ht <;> simp [hs]
theorem State.copyTranslate_wf_ok (s : State) (p : PartNo) (op : Nat) (c : Ctx) (acc : Acc) (l : CopyLine) (hs : Memory.wf s.mem = true)
    {t : State} {a : Nat × Bool} (ht : s.copyTranslate p op c acc l = .ok (t, a)) : Memory.wf t.mem = true := by
  unfold State.copyTranslate at ht
  dsimp only at ht
  (repeat' split at ht) <;> cases ht; simp [hs]

@[simp] theorem State.copyInLine_wf (s : State) (p : PartNo) (op : Nat) (c : Ctx) (bar : Option Nat) (l : CopyLine) (rest : List CopyLine)
    (ready : Table Byte) (sectors : List (Nat × List Nat)) (hs : Memory.wf s.mem = true) : Memory.wf
    (State.copyInLine s p op c bar l rest ready sectors).mem = true := by
  unfold State.copyInLine
  split
  next ht => exact State.copyTranslate_wf_error _ _ _ _ _ _ hs ht
  next ht =>
    have hs := State.copyTranslate_wf_ok _ _ _ _ _ _ hs ht
    dsimp only
    split
    · exact hs
    split
    · exact State.breakCopy_wf _ _ _ _ _ _ hs
    · exact hs

@[simp] theorem Ctx.landSector_wf (c : Ctx) (op : Nat) (bar : Option Nat) (lines : List CopyLine) (ready : Table Byte)
    (sectors : List (Nat × List Nat)) (x : Nat × List Nat) (hc : Memory.wf c.s.mem = true) : Memory.wf
    (Ctx.landSector c op bar lines ready sectors x).mem = true := by
  unfold Ctx.landSector
  split
  · simp [hc]
  · simp [foldl_ctx_mem, hc]

theorem execCopySectorLanding_wf (p : PartNo) (op : Nat) (s : State) (hs : Memory.wf s.mem = true) {s' : State}
    (ht : execCopySectorLanding p op s = .next s') : Memory.wf s'.mem = true := by
  refine next_wf ht ?_
  split
  · split
    · exact hs
    next hc =>
      have hc := State.ctx?_wf _ _ _ hs hc
      split
      · exact Ctx.landSector_wf _ _ _ _ _ _ _ hc
      split
      · exact hs
      · exact State.copyInLine_wf _ _ _ _ _ _ _ _ _ hs
  · exact hs

@[simp] theorem Ctx.placeLine_wf (c : Ctx) (op : Nat) (tile : Bool) (l : CopyLine) (pl : Nat) (obs : Bool) (rest : List CopyLine)
    (data : Table Byte) (hc : Memory.wf c.s.mem = true) : Memory.wf (Ctx.placeLine c op tile l pl obs rest data).mem = true := by
  unfold Ctx.placeLine
  dsimp only
  (repeat' split) <;> simp [hc]

theorem execCopyOutProgress_wf (p : PartNo) (op : Nat) (s : State) (hs : Memory.wf s.mem = true) {s' : State}
    (ht : execCopyOutProgress p op s = .next s') : Memory.wf s'.mem = true := by
  refine next_wf ht ?_
  split
  · split
    · exact hs
    next hc =>
      have hc := State.ctx?_wf _ _ _ hs hc
      split
      · exact hs
      split
      · exact Ctx.placeLine_wf _ _ _ _ _ _ _ _ hc
      split
      next ht => exact State.copyTranslate_wf_error _ _ _ _ _ _ hs ht
      next ht =>
        have hs := State.copyTranslate_wf_ok _ _ _ _ _ _ hs ht
        exact Ctx.placeLine_wf _ _ _ _ _ _ _ _ (by simp [hs])
  · exact hs

@[simp] theorem Ctx.versionRead_mem (c : Ctx) (d : TileDesc) (expected : DWord) (pas : List (Nat × Bool)) :
    (Ctx.versionRead c d expected pas).state.mem = c.s.mem := by
  unfold Ctx.versionRead
  split <;> simp

@[simp] theorem Ctx.versionStart_wf (c : Ctx) (d : TileDesc) (expected : DWord) (hc : Memory.wf c.s.mem = true) : Memory.wf
    (Ctx.versionStart c d expected).state.mem = true := by
  unfold Ctx.versionStart
  refine Ctx.closed_wf _ _ hc fun c hc => ?_
  split
  · exact hc
  · dsimp only
    have h := Ctx.translate_wf (c.reload (c.s.anchor c.p c.tk)) .write
      ((d.lines.map fun l => (0, BitVec.ofNat 64 l.first)) ++ [(0, d.vaddr)]) []
      (fun c pas => if c.tilePoison d then .gone (c.s.consumeBy c.p c.gid 3 srcCore 0)
        else c.commits fun c => c.versionRead d expected pas) (by simp [hc]) fun c pas hc => by
          split
          · simp [hc]
          · exact Ctx.commits_wf _ _ hc fun c hc => by simp [hc]
    split
    · split <;> simp_all
    · simp_all

@[simp] theorem Ctx.versionEnd_mem (c : Ctx) (op : Nat) (x : SReg) (l : La) (result : DWord) : (Ctx.versionEnd c op x l result).state.mem
    = c.s.mem := rfl

@[simp] theorem Ctx.versionGoOn_mem (c : Ctx) (op : Nat) (x : SReg) (l : La) : (Ctx.versionGoOn c op x l).state.mem = c.s.mem := by
  unfold Ctx.versionGoOn
  (repeat' split) <;> simp

theorem execCpyv_wf (x y : SReg) (l : La) (s : State) (hs : Memory.wf s.mem = true) {s' : State} (ht : execCpyv x y l s = .next s') :
    Memory.wf s'.mem = true := by
  refine issue_wf _ _ _ hs (fun c hc => Ctx.outside_wf _ _ _ hc fun c hc => ?_) ht
  split
  · simp [hc]
  refine Ctx.descriptor_wf _ _ _ hc fun n => ?_
  split
  · exact hc
  dsimp only
  split
  · exact hc
  · exact Ctx.versionStart_wf _ _ _ hc

/-! ### Machine/Memory -/

@[simp] theorem Ctx.vload_wf (c : Ctx) (d a : VReg) (l : La) (off : BitVec 8) (size : Nat) (hc : Memory.wf c.s.mem = true) : Memory.wf
    (Ctx.vload c d a l off size).state.mem = true := by
  unfold Ctx.vload
  dsimp only
  split
  · exact hc
  · exact Ctx.translate_wf _ _ _ _ _ hc fun c pas hc => by simp [hc]

@[simp] theorem Ctx.vstore_wf (c : Ctx) (d a : VReg) (off : BitVec 8) (size : Nat) (hc : Memory.wf c.s.mem = true) : Memory.wf
    (Ctx.vstore c d a off size).state.mem = true := by
  unfold Ctx.vstore
  dsimp only
  split
  · exact hc
  · exact Ctx.translate_wf _ _ _ _ _ hc fun c pas hc => Ctx.store_wf _ _ _ hc fun c hc => hc

theorem execLdw_wf (d a : VReg) (l : La) (o : BitVec 8) (s : State) (hs : Memory.wf s.mem = true) {s' : State}
    (ht : execLdw d a l o s = .next s') : Memory.wf s'.mem = true := issue_wf _ _ _ hs (fun c hc => by simp [hc]) ht

theorem execLdd_wf (d a : VReg) (l : La) (o : BitVec 8) (s : State) (hs : Memory.wf s.mem = true) {s' : State}
    (ht : execLdd d a l o s = .next s') : Memory.wf s'.mem = true := issue_wf _ _ _ hs (fun c hc => by simp [hc]) ht

theorem execLdq_wf (d a : VReg) (l : La) (o : BitVec 8) (s : State) (hs : Memory.wf s.mem = true) {s' : State}
    (ht : execLdq d a l o s = .next s') : Memory.wf s'.mem = true := issue_wf _ _ _ hs (fun c hc => by simp [hc]) ht

theorem execLdh_wf (d a : VReg) (l : La) (o : BitVec 8) (s : State) (hs : Memory.wf s.mem = true) {s' : State}
    (ht : execLdh d a l o s = .next s') : Memory.wf s'.mem = true := issue_wf _ _ _ hs (fun c hc => by simp [hc]) ht

theorem execLdb_wf (d a : VReg) (l : La) (o : BitVec 8) (s : State) (hs : Memory.wf s.mem = true) {s' : State}
    (ht : execLdb d a l o s = .next s') : Memory.wf s'.mem = true := issue_wf _ _ _ hs (fun c hc => by simp [hc]) ht

theorem execStw_wf (d a : VReg) (l : La) (o : BitVec 8) (s : State) (hs : Memory.wf s.mem = true) {s' : State}
    (ht : execStw d a l o s = .next s') : Memory.wf s'.mem = true := issue_wf _ _ _ hs (fun c hc => by simp_all) ht

theorem execStd_wf (d a : VReg) (l : La) (o : BitVec 8) (s : State) (hs : Memory.wf s.mem = true) {s' : State}
    (ht : execStd d a l o s = .next s') : Memory.wf s'.mem = true := issue_wf _ _ _ hs (fun c hc => by simp_all) ht

theorem execStq_wf (d a : VReg) (l : La) (o : BitVec 8) (s : State) (hs : Memory.wf s.mem = true) {s' : State}
    (ht : execStq d a l o s = .next s') : Memory.wf s'.mem = true := issue_wf _ _ _ hs (fun c hc => by simp_all) ht

theorem execSth_wf (d a : VReg) (l : La) (o : BitVec 8) (s : State) (hs : Memory.wf s.mem = true) {s' : State}
    (ht : execSth d a l o s = .next s') : Memory.wf s'.mem = true := issue_wf _ _ _ hs (fun c hc => by simp_all) ht

theorem execStb_wf (d a : VReg) (l : La) (o : BitVec 8) (s : State) (hs : Memory.wf s.mem = true) {s' : State}
    (ht : execStb d a l o s = .next s') : Memory.wf s'.mem = true := issue_wf _ _ _ hs (fun c hc => by simp_all) ht

theorem execSld_wf (d a : SReg) (l : La) (o : BitVec 8) (s : State) (hs : Memory.wf s.mem = true) {s' : State}
    (ht : execSld d a l o s = .next s') : Memory.wf s'.mem = true := by
  refine issue_wf _ _ _ hs (fun c hc => ?_) ht
  dsimp only
  split
  · exact hc
  · exact Ctx.translate_wf _ _ _ _ _ hc fun c _ hc => Ctx.load_wf _ _ _ _ _ _ _ hc

theorem execSst_wf (d a : SReg) (l : La) (o : BitVec 8) (s : State) (hs : Memory.wf s.mem = true) {s' : State}
    (ht : execSst d a l o s = .next s') : Memory.wf s'.mem = true := by
  refine issue_wf _ _ _ hs (fun c hc => Ctx.outside_wf _ _ _ hc fun c hc => ?_) ht
  dsimp only
  split
  · exact hc
  · exact Ctx.translate_wf _ _ _ _ _ hc fun c _ hc => Ctx.store_wf _ _ _ hc fun _ hc => hc

@[simp] theorem Ctx.acquireRead_wf (c : Ctx) (d a : VReg) (l : La) (scope : Nat) (hc : Memory.wf c.s.mem = true) : Memory.wf
    (Ctx.acquireRead c d a l scope).state.mem = true := by
  unfold Ctx.acquireRead
  dsimp only
  split
  · exact hc
  · exact Ctx.translate_wf _ _ _ _ _ hc fun c pas hc => by simp [hc]

@[simp] theorem Ctx.probe_wf (c : Ctx) (a : VReg) (hc : Memory.wf c.s.mem = true) : Memory.wf (Ctx.probe c a).state.mem = true := by
  unfold Ctx.probe
  dsimp only
  split
  · exact hc
  · exact Ctx.translate_wf _ _ _ _ _ hc fun c pas hc => by simp [hc]

theorem execLdacq_wf (d a : VReg) (l : La) (sc : BitVec 3) (s : State) (hs : Memory.wf s.mem = true) {s' : State}
    (ht : execLdacq d a l sc s = .next s') : Memory.wf s'.mem = true := issue_wf _ _ _ hs (fun c hc => by (repeat' split) <;> simp [hc])
    ht

@[simp] theorem Ctx.acked_wf (c : Ctx) (scope : Nat) (body : Ctx → Res) (hc : Memory.wf c.s.mem = true)
    (hbody : ∀ x0, Memory.wf x0.s.mem = true → Memory.wf (body x0).state.mem = true) : Memory.wf (Ctx.acked c scope body).state.mem = true
    := by
  unfold Ctx.acked
  dsimp only
  (repeat' split) <;> simp +contextual [*]

@[simp] theorem Ctx.strelWide_wf (c : Ctx) (d : VReg) (scope : Nat) (items : List (Nat × DWord)) (pas : List (Nat × Bool))
    (hc : Memory.wf c.s.mem = true) : Memory.wf (Ctx.strelWide c d scope items pas).state.mem = true := by
  unfold Ctx.strelWide
  simp +contextual [hc]

@[simp] theorem Ctx.storeWhole_wf (c : Ctx) (pieces : List ColLine) (body : Ctx → Res) (hc : Memory.wf c.s.mem = true)
    (hbody : ∀ x0, Memory.wf x0.s.mem = true → Memory.wf (body x0).state.mem = true) : Memory.wf (Ctx.storeWhole c pieces body).state.mem
    = true := by
  unfold Ctx.storeWhole
  dsimp only
  (repeat' split) <;> simp +contextual [*]

@[simp] theorem Ctx.strelTeam_wf (c : Ctx) (d : VReg) (items : List (Nat × DWord)) (pas : List (Nat × Bool))
    (hc : Memory.wf c.s.mem = true) : Memory.wf (Ctx.strelTeam c d items pas).state.mem = true := by
  unfold Ctx.strelTeam
  refine Ctx.storeWhole_wf _ _ _ hc fun c hc => ?_
  split <;> simp [hc]

theorem execStrel_wf (d a : VReg) (l : La) (sc : BitVec 3) (s : State) (hs : Memory.wf s.mem = true) {s' : State}
    (ht : execStrel d a l sc s = .next s') : Memory.wf s'.mem = true := by
  refine issue_wf _ _ _ hs (fun c hc => Ctx.outside_wf _ _ _ hc fun c hc => ?_) ht
  split
  · exact Ctx.acked_wf _ _ _ hc fun _ hc => hc
  dsimp only
  split
  · exact hc
  refine Ctx.translate_wf _ _ _ _ _ hc fun c _ hc => ?_
  split
  · exact hc
  split
  · exact Ctx.store_wf _ _ _ hc fun _ hc => hc
  split
  · exact Ctx.strelTeam_wf _ _ _ _ hc
  · exact Ctx.strelWide_wf _ _ _ _ _ hc

/-! ### Machine/Crock -/

@[simp] theorem State.saveSlot_wf (s : State) (p : PartNo) (k : Core) (slot pa : Nat) (hs : Memory.wf s.mem = true) : Memory.wf
    (State.saveSlot s p k slot pa).mem = true := by
  unfold State.saveSlot
  simp +contextual [hs, foldl_wf]

@[simp] theorem State.savePoison_wf (s : State) (p : PartNo) (k : Core) (slot pa : Nat) (hs : Memory.wf s.mem = true) : Memory.wf
    (State.savePoison s p k slot pa).mem = true := by
  unfold State.savePoison; simp_all +contextual [-State.store_mem, -State.storeNum_mem, foldl_wf, ite_wf]

@[simp] theorem State.evict_wf (s : State) (p : PartNo) (dir : Nat) (hs : Memory.wf s.mem = true) : Memory.wf (State.evict s p dir).mem =
    true := by
  unfold State.evict; (repeat' split) <;> simp_all +contextual [-State.store_mem, -State.storeNum_mem, foldl_wf, ite_wf]

@[simp] theorem State.makeRoom_wf (s : State) (p : PartNo) (core keep : Nat) (need : Part → Bool) (fuel : Nat)
    (hs : Memory.wf s.mem = true) : Memory.wf (s.makeRoom p core keep need fuel).1.mem = true := by
  induction fuel generalizing s with
  | zero => exact hs
  | succ fuel ih =>
    unfold State.makeRoom
    (repeat' split) <;> simp_all

theorem State.room_wf (s : State) (p : PartNo) (core keep : Nat) (need : Part → Bool) (hs : Memory.wf s.mem = true) {s' : State}
    (ht : State.room s p core keep need = some s') : Memory.wf s'.mem = true := by
  have h := State.makeRoom_wf s p core keep need 4097 hs
  unfold State.room at ht
  split at ht <;> simp_all

@[simp] theorem State.evictAll_wf (s : State) (p : PartNo) (core keep : Nat) (hs : Memory.wf s.mem = true) : Memory.wf
    (State.evictAll s p core keep).mem = true := State.makeRoom_wf s p core keep _ 4097 hs

theorem State.placeCrock_wf (s : State) (p : PartNo) (dir core : Nat) (low : Bool) (hs : Memory.wf s.mem = true) {s' : State}
    (ht : State.placeCrock s p dir core low = some s') : Memory.wf s'.mem = true := by
  unfold State.placeCrock at ht
  split at ht
  · cases ht
  · dsimp only at ht
    split at ht
    · cases ht
    next t hroom =>
      have h := State.room_wf _ _ _ _ _ hs hroom
      obtain ⟨P, -, hP⟩ := Option.bind_eq_some_iff.1 ht
      obtain ⟨b, -, rfl⟩ := Option.map_eq_some_iff.1 hP
      simpa using h

theorem State.startMove_wf (s : State) (p : PartNo) (dir core : Nat) (low : Bool) (hs : Memory.wf s.mem = true) {s' : State}
    (ht : State.startMove s p dir core low = some s') : Memory.wf s'.mem = true := by
  unfold State.startMove at ht
  split at ht
  · cases ht
  next d _ =>
    split at ht
    · cases ht
    · obtain ⟨u, hu, rfl⟩ := Option.map_eq_some_iff.1 ht
      have he : Memory.wf (if d.state = 1 then s.evict p dir else s).mem = true := by split <;> simp [hs]
      have h := State.placeCrock_wf _ _ _ _ _ he hu
      simpa using h

theorem execCrockMoveDone_wf (p : PartNo) (name : DWord) (s : State) (hs : Memory.wf s.mem = true) {s' : State}
    (ht : execCrockMoveDone p name s = .next s') : Memory.wf s'.mem = true := next_wf ht (by (repeat' split) <;> simp [hs])

theorem State.claim_mem (s : State) (p : PartNo) (tk core : Nat) (name : DWord) (n : Nat) {i : Nat} {t : State}
    (ht : s.claim p tk core name n = some (i, t)) : t.mem = s.mem := by
  obtain ⟨backing, hb⟩ : ∃ f : Part → Option Nat, ∀ P, P.backingFrame n = f P := ⟨fun P => P.backingFrame n, fun _ => rfl⟩
  rw [State.claim] at ht
  simp only [hb] at ht
  clear hb
  split at ht
  · cases ht
  · split at ht
    · obtain ⟨-, rfl⟩ := Prod.mk.inj (Option.some.inj ht)
      exact State.setPart_mem ..
    · cases ht

theorem State.reserveShadows_wf (s : State) (p : PartNo) (tk core dir n : Nat) (low : Bool) (hs : Memory.wf s.mem = true) {s' : State}
    (ht : State.reserveShadows s p tk core dir n low = some s') : Memory.wf s'.mem = true := by
  unfold State.reserveShadows at ht
  split at ht
  · cases ht
  next t hroom =>
    have h := State.room_wf _ _ _ _ _ hs hroom
    obtain ⟨P, -, hP⟩ := Option.bind_eq_some_iff.1 ht
    obtain ⟨b, -, rfl⟩ := Option.map_eq_some_iff.1 hP
    simpa using h

theorem State.equip_wf (s : State) (p : PartNo) (tk dir : Nat) (low : Bool) (hs : Memory.wf s.mem = true) {s' : State}
    (ht : State.equip s p tk dir low = some s') : Memory.wf s'.mem = true := by
  unfold State.equip at ht
  split at ht
  · cases ht
  · obtain ⟨u, hu, rfl⟩ := Option.map_eq_some_iff.1 ht
    obtain ⟨v, hv, hu⟩ := Option.bind_eq_some_iff.1 hu
    have h : Memory.wf v.mem = true := by
      split at hv
      · cases hv; exact hs
      · exact State.placeCrock_wf _ _ _ _ _ hs hv
    have hu : Memory.wf u.mem = true := by
      split at hu
      · exact State.reserveShadows_wf _ _ _ _ _ _ _ h hu
      · cases hu; exact h
    simpa using hu

@[simp] theorem Ctx.opened_mem (c : Ctx) (x : SReg) (l : La) (r : DWord) : (Ctx.opened c x l r).state.mem = c.s.mem := rfl

@[simp] theorem Ctx.reopened_mem (c : Ctx) (x : SReg) (l : La) (mode : BitVec 2) (a : Attach) : (Ctx.reopened c x l mode a).state.mem =
    c.s.mem := by
  unfold Ctx.reopened
  (repeat' split) <;> simp

@[simp] theorem Ctx.equipped_wf (c : Ctx) (x : SReg) (l : La) (dir : Nat) (name : DWord) (hc : Memory.wf c.s.mem = true) : Memory.wf
    (Ctx.equipped c x l dir name).state.mem = true := by
  unfold Ctx.equipped
  split
  · exact State.evictAll_wf _ _ _ _ hc
  next hequip => simp [State.equip_wf _ _ _ _ _ hc hequip]

@[simp] theorem Ctx.fetchCrock_wf (c : Ctx) (dir : Nat) (d : DirEntry) (hc : Memory.wf c.s.mem = true) : Memory.wf
    (Ctx.fetchCrock c dir d).state.mem = true := by
  unfold Ctx.fetchCrock
  dsimp only
  split
  · simp [hc]
  · split
    · simp [hc]
    · split
      · simp [hc]
      next hm => exact State.startMove_wf _ _ _ _ _ (by simp [hc]) hm

@[simp] theorem Ctx.openCrock_wf (c : Ctx) (x : SReg) (l : La) (mode : BitVec 2) (name : DWord) (n : Nat) (fetch : Bool)
    (hc : Memory.wf c.s.mem = true) : Memory.wf (Ctx.openCrock c x l mode name n fetch).state.mem = true := by
  unfold Ctx.openCrock
  dsimp only
  split
  · split
    · simp [hc]
    · split
      · simp [hc]
      next ht =>
        refine Ctx.equipped_wf _ _ _ _ _ ?_
        rw [Ctx.reload_mem, State.modPart_mem, State.claim_mem _ _ _ _ _ _ ht]
        exact hc
  · (repeat' split) <;> simp [hc]

@[simp] theorem Ctx.served_wf (c : Ctx) (name : DWord) (hc : Memory.wf c.s.mem = true) : Memory.wf (Ctx.served c name).s.mem = true := by
  unfold Ctx.served
  split <;> simp [hc]

@[simp] theorem Ctx.gate_wf (c : Ctx) (name : DWord) (mode : BitVec 2) (body : Ctx → Res) (hc : Memory.wf c.s.mem = true)
    (hbody : ∀ x0, Memory.wf x0.s.mem = true → Memory.wf (body x0).state.mem = true) : Memory.wf (Ctx.gate c name mode body).state.mem =
    true := by
  unfold Ctx.gate
  dsimp only
  (repeat' split) <;> simp +contextual [*]

theorem execCkopen_wf (x y : SReg) (f : BitVec 2) (l : La) (g : Bool) (n : BitVec 7) (s : State) (hs : Memory.wf s.mem = true)
    {s' : State} (ht : execCkopen x y f l g n s = .next s') : Memory.wf s'.mem = true := by
  refine issue_wf _ _ _ hs (fun c hc => Ctx.outside_wf _ _ _ hc fun c hc => ?_) ht
  dsimp only
  split
  · exact Ctx.equipped_wf _ _ _ _ _ hc
  · split
    · exact Ctx.openCrock_wf _ _ _ _ _ _ _ (Ctx.served_wf _ _ hc)
    · exact hc
  · have hgate : Memory.wf (c.gate (c.g.sreg y) f fun c' => c'.openCrock x l f (c.g.sreg y) n.toNat g).state.mem = true :=
      Ctx.gate_wf _ _ _ _ hc fun c hc => Ctx.openCrock_wf _ _ _ _ _ _ _ hc
    (repeat' split) <;> simp [hc, hgate]

@[simp] theorem Ctx.holding_wf (c : Ctx) (name : DWord) (body : Team → Attach → Res) (hc : Memory.wf c.s.mem = true)
    (hbody : ∀ x0, ∀ x1, Memory.wf (body x0 x1).state.mem = true) : Memory.wf (Ctx.holding c name body).state.mem = true := by
  unfold Ctx.holding
  (repeat' split) <;> simp_all

@[simp] theorem Ctx.holdingWrite_wf (c : Ctx) (name : DWord) (body : Team → Attach → Res) (hc : Memory.wf c.s.mem = true)
    (hbody : ∀ x0, ∀ x1, Memory.wf (body x0 x1).state.mem = true) : Memory.wf (Ctx.holdingWrite c name body).state.mem = true := by
  unfold Ctx.holdingWrite
  refine Ctx.holding_wf _ _ _ hc fun t a => ?_
  split
  · exact hc
  · exact hbody t a

theorem execCkseal_wf (x y : SReg) (l : La) (s : State) (hs : Memory.wf s.mem = true) {s' : State} (ht : execCkseal x y l s = .next s') :
    Memory.wf s'.mem = true := by
  refine issue_wf _ _ _ hs (fun c hc => Ctx.holdingWrite_wf _ _ _ hc fun _ _ => Ctx.closed_wf _ _ hc fun c hc => ?_) ht
  split
  · exact hc
  · exact Ctx.commits_wf _ _ (by simp [hc]) fun c hc => Ctx.holdingWrite_wf _ _ _ hc fun t a => by simp [hc]

theorem execCkdrop_wf (y : SReg) (l : La) (s : State) (hs : Memory.wf s.mem = true) {s' : State} (ht : execCkdrop y l s = .next s') :
    Memory.wf s'.mem = true := issue_wf _ _ _ hs (fun c hc => by simp [hc]) ht

theorem execCkstat_wf (x y : SReg) (l : La) (s : State) (hs : Memory.wf s.mem = true) {s' : State} (ht : execCkstat x y l s = .next s') :
    Memory.wf s'.mem = true := issue_wf _ _ _ hs (fun c hc => Ctx.holding_wf _ _ _ hc fun _ _ => by (repeat' split) <;> simp [hc]) ht

theorem execCkevict_wf (x y : SReg) (f : BitVec 2) (l : La) (s : State) (hs : Memory.wf s.mem = true) {s' : State}
    (ht : execCkevict x y f l s = .next s') : Memory.wf s'.mem = true := issue_wf _ _ _ hs (fun c hc => by (repeat' split) <;> simp [hc])
    ht

/-! ### Machine/Image -/

@[simp] theorem State.storeWords_wf (s : State) (pa : Nat) (ws : List DWord) (hs : Memory.wf s.mem = true) : Memory.wf
    (s.storeWords pa ws).mem = true := by
  induction ws generalizing s pa with
  | nil => exact hs
  | cons w ws ih => exact ih _ _ (State.storeNum_wf _ _ _ _ hs)

@[simp] theorem State.writeImage_wf (s : State) (p : PartNo) (pa : Nat) (reason : BitVec 6) (hs : Memory.wf s.mem = true) : Memory.wf
    (State.writeImage s p pa reason).mem = true := by
  unfold State.writeImage
  split <;> simp [hs]

/-! ### Machine/Slice -/

@[simp] theorem State.sees_mem (s : State) (core pline : Nat) : (State.sees s core pline).mem = s.mem := rfl

@[simp] theorem State.shown_mem (s : State) (P : Part) (r : LineReq) (poison : List Nat) (before : List Byte) :
    (State.shown s P r poison before).mem = s.mem := by
  unfold State.shown
  dsimp only
  (repeat' split) <;> simp

@[simp] theorem State.lineTaken_wf (s : State) (p : PartNo) (id : Nat) (r : LineReq) (hs : Memory.wf s.mem = true) : Memory.wf
    (State.lineTaken s p id r).mem = true := by
  unfold State.lineTaken
  dsimp only
  (repeat' split) <;> simp [hs]

@[simp] theorem State.serveRead_wf (s : State) (p : PartNo) (r : LineReq) (bs : List (Nat × Nat)) (hs : Memory.wf s.mem = true) :
    Memory.wf (State.serveRead s p r bs).mem = true := by
  unfold State.serveRead
  dsimp only
  (repeat' split) <;> simp [hs]

@[simp] theorem State.commitLine_wf (s : State) (p : PartNo) (r : LineReq) (bytes : Table Byte) (poison : List Nat)
    (hs : Memory.wf s.mem = true) : Memory.wf (State.commitLine s p r bytes poison).mem = true := by
  unfold State.commitLine
  split <;> simp [hs]

@[simp] theorem State.serveWrite_wf (s : State) (p : PartNo) (id : Nat) (r : LineReq) (bytes : Table Byte) (poison : List Nat)
    (hs : Memory.wf s.mem = true) : Memory.wf (State.serveWrite s p id r bytes poison).mem = true := by
  unfold State.serveWrite
  dsimp only
  split
  next hwrite => exact State.leaf_wf _ _ _ _ _ (wf_of_fst hwrite (State.writeLine_wf _ _ _ _ _ hs))
  next hwrite =>
    have hs := wf_of_fst hwrite (State.writeLine_wf _ _ _ _ _ hs)
    (repeat' split) <;> simp [hs]

@[simp] theorem State.serveCheck_wf (s : State) (p : PartNo) (r : LineReq) (off : Nat) (hs : Memory.wf s.mem = true) : Memory.wf
    (State.serveCheck s p r off).mem = true := by
  unfold State.serveCheck
  dsimp only
  (repeat' split) <;> simp [hs]

theorem execLineAccess_wf (p : PartNo) (id : Nat) (s : State) (hs : Memory.wf s.mem = true) {s' : State}
    (ht : execLineAccess p id s = .next s') : Memory.wf s'.mem = true := next_wf ht (by (repeat' split) <;> simp [hs])

theorem execLoadReturn_wf (p : PartNo) (op : Nat) (s : State) (hs : Memory.wf s.mem = true) {s' : State}
    (ht : execLoadReturn p op s = .next s') : Memory.wf s'.mem = true := next_wf ht (by dsimp only; (repeat' split) <;> simp [hs])

theorem execReleaseFilterProbe_wf (p : PartNo) (core : BitVec 7) (op : Nat) (s : State) (hs : Memory.wf s.mem = true) {s' : State}
    (ht : execReleaseFilterProbe p core op s = .next s') : Memory.wf s'.mem = true := by
  refine next_wf ht ?_
  split
  · split
    · exact hs
    dsimp only
    split
    · split <;> exact hs
    · refine foldl_wf _ _ _ hs fun s hs tk => ?_
      split
      · exact State.beginCommit_wf _ _ _ _ _ hs
      · exact hs
  · exact hs

/-! ### Machine/VecFloat -/

@[simp] theorem Ctx.floatOp_wf (c : Ctx) (op : Nat) (ok : Nat → Bool) (d : VReg) (a b : Operand) (useB useD : Bool)
    (own : Fmt → Env → List FVal → Nat × Nat) (hc : Memory.wf c.s.mem = true) : Memory.wf
    (Ctx.floatOp c op ok d a b useB useD own).state.mem = true := by
  unfold Ctx.floatOp
  simp [hc]

theorem execFadd_wf (d : VReg) (a b : Operand) (s : State) (hs : Memory.wf s.mem = true) {s' : State} (ht : execFadd d a b s = .next s') :
    Memory.wf s'.mem = true := issue_wf _ _ _ hs (fun c hc => by simp [hc]) ht

theorem execFsub_wf (d : VReg) (a b : Operand) (s : State) (hs : Memory.wf s.mem = true) {s' : State} (ht : execFsub d a b s = .next s') :
    Memory.wf s'.mem = true := issue_wf _ _ _ hs (fun c hc => by simp [hc]) ht

theorem execFmul_wf (d : VReg) (a b : Operand) (s : State) (hs : Memory.wf s.mem = true) {s' : State} (ht : execFmul d a b s = .next s') :
    Memory.wf s'.mem = true := issue_wf _ _ _ hs (fun c hc => by simp [hc]) ht

theorem execFma_wf (d : VReg) (a b : Operand) (s : State) (hs : Memory.wf s.mem = true) {s' : State} (ht : execFma d a b s = .next s') :
    Memory.wf s'.mem = true := issue_wf _ _ _ hs (fun c hc => by simp [hc]) ht

theorem execFms_wf (d : VReg) (a b : Operand) (s : State) (hs : Memory.wf s.mem = true) {s' : State} (ht : execFms d a b s = .next s') :
    Memory.wf s'.mem = true := issue_wf _ _ _ hs (fun c hc => by simp [hc]) ht

@[simp] theorem Ctx.minmax_wf (c : Ctx) (op : Nat) (d : VReg) (a b : Operand) (greater : Bool) (hc : Memory.wf c.s.mem = true) : Memory.wf
    (Ctx.minmax c op d a b greater).state.mem = true := by
  unfold Ctx.minmax
  simp [hc]

theorem execFmin_wf (d : VReg) (a b : Operand) (s : State) (hs : Memory.wf s.mem = true) {s' : State} (ht : execFmin d a b s = .next s') :
    Memory.wf s'.mem = true := issue_wf _ _ _ hs (fun c hc => by simp [hc]) ht

theorem execFmax_wf (d : VReg) (a b : Operand) (s : State) (hs : Memory.wf s.mem = true) {s' : State} (ht : execFmax d a b s = .next s') :
    Memory.wf s'.mem = true := issue_wf _ _ _ hs (fun c hc => by simp [hc]) ht

theorem execFdiv_wf (d : VReg) (a b : Operand) (s : State) (hs : Memory.wf s.mem = true) {s' : State} (ht : execFdiv d a b s = .next s') :
    Memory.wf s'.mem = true := issue_wf _ _ _ hs (fun c hc => by simp [hc]) ht

theorem execFsqrt_wf (d : VReg) (a : Operand) (s : State) (hs : Memory.wf s.mem = true) {s' : State} (ht : execFsqrt d a s = .next s') :
    Memory.wf s'.mem = true := issue_wf _ _ _ hs (fun c hc => by simp [hc]) ht

theorem execFrcp_wf (d : VReg) (a : Operand) (s : State) (hs : Memory.wf s.mem = true) {s' : State} (ht : execFrcp d a s = .next s') :
    Memory.wf s'.mem = true := issue_wf _ _ _ hs (fun c hc => by simp [hc]) ht

theorem execFrsq_wf (d : VReg) (a : Operand) (s : State) (hs : Memory.wf s.mem = true) {s' : State} (ht : execFrsq d a s = .next s') :
    Memory.wf s'.mem = true := issue_wf _ _ _ hs (fun c hc => by simp [hc]) ht

theorem execFexp2_wf (d : VReg) (a : Operand) (s : State) (hs : Memory.wf s.mem = true) {s' : State} (ht : execFexp2 d a s = .next s') :
    Memory.wf s'.mem = true := issue_wf _ _ _ hs (fun c hc => by simp [hc]) ht

theorem execFlog2_wf (d : VReg) (a : Operand) (s : State) (hs : Memory.wf s.mem = true) {s' : State} (ht : execFlog2 d a s = .next s') :
    Memory.wf s'.mem = true := issue_wf _ _ _ hs (fun c hc => by simp [hc]) ht

theorem execFsinpi_wf (d : VReg) (a : Operand) (s : State) (hs : Memory.wf s.mem = true) {s' : State} (ht : execFsinpi d a s = .next s') :
    Memory.wf s'.mem = true := issue_wf _ _ _ hs (fun c hc => by simp [hc]) ht

theorem execFcospi_wf (d : VReg) (a : Operand) (s : State) (hs : Memory.wf s.mem = true) {s' : State} (ht : execFcospi d a s = .next s') :
    Memory.wf s'.mem = true := issue_wf _ _ _ hs (fun c hc => by simp [hc]) ht

theorem execFrint_wf (d : VReg) (a : Operand) (s : State) (hs : Memory.wf s.mem = true) {s' : State} (ht : execFrint d a s = .next s') :
    Memory.wf s'.mem = true := issue_wf _ _ _ hs (fun c hc => by simp [hc]) ht

theorem execFscale_wf (d : VReg) (a b : Operand) (s : State) (hs : Memory.wf s.mem = true) {s' : State}
    (ht : execFscale d a b s = .next s') : Memory.wf s'.mem = true := issue_wf _ _ _ hs (fun c hc => by simp [hc]) ht

theorem execFgetexp_wf (d : VReg) (a : Operand) (s : State) (hs : Memory.wf s.mem = true) {s' : State} (ht : execFgetexp d a s = .next s')
    : Memory.wf s'.mem = true := issue_wf _ _ _ hs (fun c hc => by simp [hc]) ht

theorem execFdot2_wf (d : VReg) (a b : Operand) (s : State) (hs : Memory.wf s.mem = true) {s' : State} (ht : execFdot2 d a b s = .next s')
    : Memory.wf s'.mem = true := issue_wf _ _ _ hs (fun c hc => by simp [hc]) ht

theorem execFclass_wf (k : BitVec 3) (q : QReg) (a : Operand) (m : BitVec 9) (s : State) (hs : Memory.wf s.mem = true) {s' : State}
    (ht : execFclass k q a m s = .next s') : Memory.wf s'.mem = true := issue_wf _ _ _ hs (fun c hc => by simp [hc]) ht

theorem execFnanc_wf (d : VReg) (a : Operand) (s : State) (hs : Memory.wf s.mem = true) {s' : State} (ht : execFnanc d a s = .next s') :
    Memory.wf s'.mem = true := issue_wf _ _ _ hs (fun c hc => by simp [hc]) ht

theorem execCvt_wf (d : VReg) (a : Operand) (t : BitVec 5) (s : State) (hs : Memory.wf s.mem = true) {s' : State}
    (ht : execCvt d a t s = .next s') : Memory.wf s'.mem = true := issue_wf _ _ _ hs (fun c hc => by split <;> simp [hc]) ht

/-! ### Machine/VecInt -/

@[simp] theorem Ctx.intOp_wf (c : Ctx) (op : Nat) (ok : Nat → Bool) (d : VReg) (a b : Operand) (f : Nat → Int → Int → Int → Int)
    (hc : Memory.wf c.s.mem = true) : Memory.wf (Ctx.intOp c op ok d a b f).state.mem = true := by
  unfold Ctx.intOp
  simp [hc]

@[simp] theorem Ctx.intImm_wf (c : Ctx) (op : Nat) (d a : VReg) (i : BitVec 12) (f : Int → Int → Int) (hc : Memory.wf c.s.mem = true) :
    Memory.wf (Ctx.intImm c op d a i f).state.mem = true := by
  unfold Ctx.intImm
  simp [hc]

@[simp] theorem Ctx.dotOp_wf (c : Ctx) (op : Nat) (d : VReg) (a b : Operand) (count : Nat → Nat) (hc : Memory.wf c.s.mem = true) :
    Memory.wf (Ctx.dotOp c op d a b count).state.mem = true := by
  unfold Ctx.dotOp
  simp [hc]

theorem execAdd_wf (d : VReg) (a b : Operand) (s : State) (hs : Memory.wf s.mem = true) {s' : State} (ht : execAdd d a b s = .next s') :
    Memory.wf s'.mem = true := issue_wf _ _ _ hs (fun c hc => by simp [hc]) ht

theorem execSub_wf (d : VReg) (a b : Operand) (s : State) (hs : Memory.wf s.mem = true) {s' : State} (ht : execSub d a b s = .next s') :
    Memory.wf s'.mem = true := issue_wf _ _ _ hs (fun c hc => by simp [hc]) ht

theorem execMul_wf (d : VReg) (a b : Operand) (s : State) (hs : Memory.wf s.mem = true) {s' : State} (ht : execMul d a b s = .next s') :
    Memory.wf s'.mem = true := issue_wf _ _ _ hs (fun c hc => by simp [hc]) ht

theorem execMulh_wf (d : VReg) (a b : Operand) (s : State) (hs : Memory.wf s.mem = true) {s' : State} (ht : execMulh d a b s = .next s') :
    Memory.wf s'.mem = true := issue_wf _ _ _ hs (fun c hc => by simp [hc]) ht

theorem execMad_wf (d : VReg) (a b : Operand) (s : State) (hs : Memory.wf s.mem = true) {s' : State} (ht : execMad d a b s = .next s') :
    Memory.wf s'.mem = true := issue_wf _ _ _ hs (fun c hc => by simp [hc]) ht

theorem execMsb_wf (d : VReg) (a b : Operand) (s : State) (hs : Memory.wf s.mem = true) {s' : State} (ht : execMsb d a b s = .next s') :
    Memory.wf s'.mem = true := issue_wf _ _ _ hs (fun c hc => by simp [hc]) ht

theorem execMad2_wf (d : VReg) (a b : Operand) (s : State) (hs : Memory.wf s.mem = true) {s' : State} (ht : execMad2 d a b s = .next s') :
    Memory.wf s'.mem = true := issue_wf _ _ _ hs (fun c hc => by simp [hc]) ht

theorem execDot4_wf (d : VReg) (a b : Operand) (s : State) (hs : Memory.wf s.mem = true) {s' : State} (ht : execDot4 d a b s = .next s') :
    Memory.wf s'.mem = true := issue_wf _ _ _ hs (fun c hc => by simp [hc]) ht

theorem execAbs_wf (d : VReg) (a : Operand) (s : State) (hs : Memory.wf s.mem = true) {s' : State} (ht : execAbs d a s = .next s') :
    Memory.wf s'.mem = true := issue_wf _ _ _ hs (fun c hc => by simp [hc]) ht

theorem execNeg_wf (d : VReg) (a : Operand) (s : State) (hs : Memory.wf s.mem = true) {s' : State} (ht : execNeg d a s = .next s') :
    Memory.wf s'.mem = true := issue_wf _ _ _ hs (fun c hc => by simp [hc]) ht

theorem execMin_wf (d : VReg) (a b : Operand) (s : State) (hs : Memory.wf s.mem = true) {s' : State} (ht : execMin d a b s = .next s') :
    Memory.wf s'.mem = true := issue_wf _ _ _ hs (fun c hc => by simp [hc]) ht

theorem execMax_wf (d : VReg) (a b : Operand) (s : State) (hs : Memory.wf s.mem = true) {s' : State} (ht : execMax d a b s = .next s') :
    Memory.wf s'.mem = true := issue_wf _ _ _ hs (fun c hc => by simp [hc]) ht

theorem execAvg_wf (d : VReg) (a b : Operand) (s : State) (hs : Memory.wf s.mem = true) {s' : State} (ht : execAvg d a b s = .next s') :
    Memory.wf s'.mem = true := issue_wf _ _ _ hs (fun c hc => by simp [hc]) ht

theorem execAddi_wf (d a : VReg) (i : BitVec 12) (s : State) (hs : Memory.wf s.mem = true) {s' : State} (ht : execAddi d a i s = .next s')
    : Memory.wf s'.mem = true := issue_wf _ _ _ hs (fun c hc => by simp [hc]) ht

theorem execMuli_wf (d a : VReg) (i : BitVec 12) (s : State) (hs : Memory.wf s.mem = true) {s' : State} (ht : execMuli d a i s = .next s')
    : Memory.wf s'.mem = true := issue_wf _ _ _ hs (fun c hc => by simp [hc]) ht

theorem execRsh_wf (d : VReg) (a b : Operand) (s : State) (hs : Memory.wf s.mem = true) {s' : State} (ht : execRsh d a b s = .next s') :
    Memory.wf s'.mem = true := issue_wf _ _ _ hs (fun c hc => by simp [hc]) ht

@[simp] theorem Ctx.logic_wf (c : Ctx) (d : VReg) (a b : Operand) (f : Word → Word → Word) (hc : Memory.wf c.s.mem = true) : Memory.wf
    (Ctx.logic c d a b f).state.mem = true := by
  unfold Ctx.logic
  simp [hc]

theorem execAnd_wf (d : VReg) (a b : Operand) (s : State) (hs : Memory.wf s.mem = true) {s' : State} (ht : execAnd d a b s = .next s') :
    Memory.wf s'.mem = true := issue_wf _ _ _ hs (fun c hc => by simp [hc]) ht

theorem execOr_wf (d : VReg) (a b : Operand) (s : State) (hs : Memory.wf s.mem = true) {s' : State} (ht : execOr d a b s = .next s') :
    Memory.wf s'.mem = true := issue_wf _ _ _ hs (fun c hc => by simp [hc]) ht

theorem execXor_wf (d : VReg) (a b : Operand) (s : State) (hs : Memory.wf s.mem = true) {s' : State} (ht : execXor d a b s = .next s') :
    Memory.wf s'.mem = true := issue_wf _ _ _ hs (fun c hc => by simp [hc]) ht

theorem execAndn_wf (d : VReg) (a b : Operand) (s : State) (hs : Memory.wf s.mem = true) {s' : State} (ht : execAndn d a b s = .next s') :
    Memory.wf s'.mem = true := issue_wf _ _ _ hs (fun c hc => by simp [hc]) ht

theorem execNot_wf (d : VReg) (a : Operand) (s : State) (hs : Memory.wf s.mem = true) {s' : State} (ht : execNot d a s = .next s') :
    Memory.wf s'.mem = true := issue_wf _ _ _ hs (fun c hc => by simp [hc]) ht

@[simp] theorem Ctx.shift_wf (c : Ctx) (op : Nat) (d : VReg) (a b : Operand) (f : Ty → Nat → Nat → Nat × Nat)
    (hc : Memory.wf c.s.mem = true) : Memory.wf (Ctx.shift c op d a b f).state.mem = true := by
  unfold Ctx.shift
  simp [hc]

@[simp] theorem Ctx.shiftImm_wf (c : Ctx) (op : Nat) (d a : VReg) (n : BitVec 6) (f : Ty → Nat → Nat → Nat × Nat)
    (hc : Memory.wf c.s.mem = true) : Memory.wf (Ctx.shiftImm c op d a n f).state.mem = true := by
  unfold Ctx.shiftImm
  simp [hc]

theorem execShl_wf (d : VReg) (a b : Operand) (s : State) (hs : Memory.wf s.mem = true) {s' : State} (ht : execShl d a b s = .next s') :
    Memory.wf s'.mem = true := issue_wf _ _ _ hs (fun c hc => by simp [hc]) ht

theorem execShr_wf (d : VReg) (a b : Operand) (s : State) (hs : Memory.wf s.mem = true) {s' : State} (ht : execShr d a b s = .next s') :
    Memory.wf s'.mem = true := issue_wf _ _ _ hs (fun c hc => by simp [hc]) ht

theorem execSar_wf (d : VReg) (a b : Operand) (s : State) (hs : Memory.wf s.mem = true) {s' : State} (ht : execSar d a b s = .next s') :
    Memory.wf s'.mem = true := issue_wf _ _ _ hs (fun c hc => by simp [hc]) ht

theorem execRol_wf (d : VReg) (a b : Operand) (s : State) (hs : Memory.wf s.mem = true) {s' : State} (ht : execRol d a b s = .next s') :
    Memory.wf s'.mem = true := issue_wf _ _ _ hs (fun c hc => by simp [hc]) ht

theorem execShli_wf (d a : VReg) (n : BitVec 6) (s : State) (hs : Memory.wf s.mem = true) {s' : State} (ht : execShli d a n s = .next s')
    : Memory.wf s'.mem = true := issue_wf _ _ _ hs (fun c hc => by simp [hc]) ht

theorem execShri_wf (d a : VReg) (n : BitVec 6) (s : State) (hs : Memory.wf s.mem = true) {s' : State} (ht : execShri d a n s = .next s')
    : Memory.wf s'.mem = true := issue_wf _ _ _ hs (fun c hc => by simp [hc]) ht

theorem execSari_wf (d a : VReg) (n : BitVec 6) (s : State) (hs : Memory.wf s.mem = true) {s' : State} (ht : execSari d a n s = .next s')
    : Memory.wf s'.mem = true := issue_wf _ _ _ hs (fun c hc => by simp [hc]) ht

@[simp] theorem Ctx.bits_wf (c : Ctx) (op : Nat) (d : VReg) (a : Operand) (f : Nat → Nat → Nat) (hc : Memory.wf c.s.mem = true) :
    Memory.wf (Ctx.bits c op d a f).state.mem = true := by
  unfold Ctx.bits
  simp [hc]

theorem execClz_wf (d : VReg) (a : Operand) (s : State) (hs : Memory.wf s.mem = true) {s' : State} (ht : execClz d a s = .next s') :
    Memory.wf s'.mem = true := issue_wf _ _ _ hs (fun c hc => by simp [hc]) ht

theorem execPopc_wf (d : VReg) (a : Operand) (s : State) (hs : Memory.wf s.mem = true) {s' : State} (ht : execPopc d a s = .next s') :
    Memory.wf s'.mem = true := issue_wf _ _ _ hs (fun c hc => by simp [hc]) ht

theorem execBrev_wf (d : VReg) (a : Operand) (s : State) (hs : Memory.wf s.mem = true) {s' : State} (ht : execBrev d a s = .next s') :
    Memory.wf s'.mem = true := issue_wf _ _ _ hs (fun c hc => by simp [hc]) ht

theorem execBfx_wf (d a : VReg) (p l : BitVec 6) (s : State) (hs : Memory.wf s.mem = true) {s' : State}
    (ht : execBfx d a p l s = .next s') : Memory.wf s'.mem = true := issue_wf _ _ _ hs (fun c hc => by simp [hc]) ht

@[simp] theorem Ctx.cmp_wf (c : Ctx) (op : Nat) (ok : Nat → Bool) (comb : BitVec 3) (q : QReg) (a b : Operand) (r : Ty → Nat → Nat → Bool)
    (hc : Memory.wf c.s.mem = true) : Memory.wf (Ctx.cmp c op ok comb q a b r).state.mem = true := by
  unfold Ctx.cmp
  simp [hc]

theorem execCeq_wf (k : BitVec 3) (q : QReg) (a b : Operand) (s : State) (hs : Memory.wf s.mem = true) {s' : State}
    (ht : execCeq k q a b s = .next s') : Memory.wf s'.mem = true := issue_wf _ _ _ hs (fun c hc => by simp [hc]) ht

theorem execCne_wf (k : BitVec 3) (q : QReg) (a b : Operand) (s : State) (hs : Memory.wf s.mem = true) {s' : State}
    (ht : execCne k q a b s = .next s') : Memory.wf s'.mem = true := issue_wf _ _ _ hs (fun c hc => by simp [hc]) ht

theorem execClt_wf (k : BitVec 3) (q : QReg) (a b : Operand) (s : State) (hs : Memory.wf s.mem = true) {s' : State}
    (ht : execClt k q a b s = .next s') : Memory.wf s'.mem = true := issue_wf _ _ _ hs (fun c hc => by simp [hc]) ht

theorem execCle_wf (k : BitVec 3) (q : QReg) (a b : Operand) (s : State) (hs : Memory.wf s.mem = true) {s' : State}
    (ht : execCle k q a b s = .next s') : Memory.wf s'.mem = true := issue_wf _ _ _ hs (fun c hc => by simp [hc]) ht

theorem execCun_wf (k : BitVec 3) (q : QReg) (a b : Operand) (s : State) (hs : Memory.wf s.mem = true) {s' : State}
    (ht : execCun k q a b s = .next s') : Memory.wf s'.mem = true := issue_wf _ _ _ hs (fun c hc => by simp [hc]) ht

theorem execCtst_wf (k : BitVec 3) (q : QReg) (a b : Operand) (s : State) (hs : Memory.wf s.mem = true) {s' : State}
    (ht : execCtst k q a b s = .next s') : Memory.wf s'.mem = true := issue_wf _ _ _ hs (fun c hc => by simp [hc]) ht

theorem execQop_wf (o : BitVec 3) (d a b : QReg) (s : State) (hs : Memory.wf s.mem = true) {s' : State}
    (ht : execQop o d a b s = .next s') : Memory.wf s'.mem = true := issue_wf _ _ _ hs (fun c hc => by simp [hc]) ht

theorem execQfv_wf (d : QReg) (a : VReg) (b : BitVec 5) (s : State) (hs : Memory.wf s.mem = true) {s' : State}
    (ht : execQfv d a b s = .next s') : Memory.wf s'.mem = true := issue_wf _ _ _ hs (fun c hc => by simp [hc]) ht

theorem execQfvAll_wf (a : VReg) (s : State) (hs : Memory.wf s.mem = true) {s' : State} (ht : execQfvAll a s = .next s') : Memory.wf
    s'.mem = true := issue_wf _ _ _ hs (fun c hc => by simp [hc]) ht

theorem execQtv_wf (d : VReg) (s : State) (hs : Memory.wf s.mem = true) {s' : State} (ht : execQtv d s = .next s') : Memory.wf s'.mem =
    true := issue_wf _ _ _ hs (fun c hc => by simp [hc]) ht

theorem execMov_wf (d : VReg) (a : Operand) (s : State) (hs : Memory.wf s.mem = true) {s' : State} (ht : execMov d a s = .next s') :
    Memory.wf s'.mem = true := issue_wf _ _ _ hs (fun c hc => by simp [hc]) ht

theorem execMovi_wf (d : VReg) (i : BitVec 18) (s : State) (hs : Memory.wf s.mem = true) {s' : State} (ht : execMovi d i s = .next s') :
    Memory.wf s'.mem = true := issue_wf _ _ _ hs (fun c hc => by simp [hc]) ht

theorem execMovhi_wf (d : VReg) (i : BitVec 18) (s : State) (hs : Memory.wf s.mem = true) {s' : State} (ht : execMovhi d i s = .next s') :
    Memory.wf s'.mem = true := issue_wf _ _ _ hs (fun c hc => by simp [hc]) ht

theorem execSel_wf (d : VReg) (a b : Operand) (s : State) (hs : Memory.wf s.mem = true) {s' : State} (ht : execSel d a b s = .next s') :
    Memory.wf s'.mem = true := issue_wf _ _ _ hs (fun c hc => by simp [hc]) ht

theorem execShfl_wf (d : VReg) (a b : Operand) (s : State) (hs : Memory.wf s.mem = true) {s' : State} (ht : execShfl d a b s = .next s') :
    Memory.wf s'.mem = true := issue_wf _ _ _ hs (fun c hc => by simp [hc]) ht

theorem execHslide_wf (d : VReg) (a : Operand) (r : Bool) (s : State) (hs : Memory.wf s.mem = true) {s' : State}
    (ht : execHslide d a r s = .next s') : Memory.wf s'.mem = true := issue_wf _ _ _ hs (fun c hc => by simp [hc]) ht

theorem execVfill_wf (d : VReg) (a : SReg) (s : State) (hs : Memory.wf s.mem = true) {s' : State} (ht : execVfill d a s = .next s') :
    Memory.wf s'.mem = true := issue_wf _ _ _ hs (fun c hc => by simp [hc]) ht

@[simp] theorem Ctx.scalar_mem (c : Ctx) (d : SReg) (x : DWord) : (Ctx.scalar c d x).state.mem = c.s.mem := rfl

theorem execSadd_wf (d a b : SReg) (s : State) (hs : Memory.wf s.mem = true) {s' : State} (ht : execSadd d a b s = .next s') : Memory.wf
    s'.mem = true := issue_wf _ _ _ hs (fun c hc => by simp [hc]) ht

theorem execSsub_wf (d a b : SReg) (s : State) (hs : Memory.wf s.mem = true) {s' : State} (ht : execSsub d a b s = .next s') : Memory.wf
    s'.mem = true := issue_wf _ _ _ hs (fun c hc => by simp [hc]) ht

theorem execSmul_wf (d a b : SReg) (s : State) (hs : Memory.wf s.mem = true) {s' : State} (ht : execSmul d a b s = .next s') : Memory.wf
    s'.mem = true := issue_wf _ _ _ hs (fun c hc => by simp [hc]) ht

theorem execSaddi_wf (d a : SReg) (i : BitVec 14) (s : State) (hs : Memory.wf s.mem = true) {s' : State}
    (ht : execSaddi d a i s = .next s') : Memory.wf s'.mem = true := issue_wf _ _ _ hs (fun c hc => by simp [hc]) ht

theorem execSand_wf (d a b : SReg) (s : State) (hs : Memory.wf s.mem = true) {s' : State} (ht : execSand d a b s = .next s') : Memory.wf
    s'.mem = true := issue_wf _ _ _ hs (fun c hc => by simp [hc]) ht

theorem execSor_wf (d a b : SReg) (s : State) (hs : Memory.wf s.mem = true) {s' : State} (ht : execSor d a b s = .next s') : Memory.wf
    s'.mem = true := issue_wf _ _ _ hs (fun c hc => by simp [hc]) ht

theorem execSxor_wf (d a b : SReg) (s : State) (hs : Memory.wf s.mem = true) {s' : State} (ht : execSxor d a b s = .next s') : Memory.wf
    s'.mem = true := issue_wf _ _ _ hs (fun c hc => by simp [hc]) ht

theorem execSshlReg_wf (d a b : SReg) (s : State) (hs : Memory.wf s.mem = true) {s' : State} (ht : execSshlReg d a b s = .next s') :
    Memory.wf s'.mem = true := issue_wf _ _ _ hs (fun c hc => by simp [hc]) ht

theorem execSshlImm_wf (d a : SReg) (n : BitVec 6) (s : State) (hs : Memory.wf s.mem = true) {s' : State}
    (ht : execSshlImm d a n s = .next s') : Memory.wf s'.mem = true := issue_wf _ _ _ hs (fun c hc => by simp [hc]) ht

theorem execSshrReg_wf (d a b : SReg) (s : State) (hs : Memory.wf s.mem = true) {s' : State} (ht : execSshrReg d a b s = .next s') :
    Memory.wf s'.mem = true := issue_wf _ _ _ hs (fun c hc => by simp [hc]) ht

theorem execSshrImm_wf (d a : SReg) (n : BitVec 6) (s : State) (hs : Memory.wf s.mem = true) {s' : State}
    (ht : execSshrImm d a n s = .next s') : Memory.wf s'.mem = true := issue_wf _ _ _ hs (fun c hc => by simp [hc]) ht

theorem execSsarReg_wf (d a b : SReg) (s : State) (hs : Memory.wf s.mem = true) {s' : State} (ht : execSsarReg d a b s = .next s') :
    Memory.wf s'.mem = true := issue_wf _ _ _ hs (fun c hc => by simp [hc]) ht

theorem execSsarImm_wf (d a : SReg) (n : BitVec 6) (s : State) (hs : Memory.wf s.mem = true) {s' : State}
    (ht : execSsarImm d a n s = .next s') : Memory.wf s'.mem = true := issue_wf _ _ _ hs (fun c hc => by simp [hc]) ht

theorem execSmovi_wf (d : SReg) (i : BitVec 19) (s : State) (hs : Memory.wf s.mem = true) {s' : State} (ht : execSmovi d i s = .next s') :
    Memory.wf s'.mem = true := issue_wf _ _ _ hs (fun c hc => by simp [hc]) ht

theorem execSmovs_wf (d : SReg) (i : BitVec 19) (s : State) (hs : Memory.wf s.mem = true) {s' : State} (ht : execSmovs d i s = .next s') :
    Memory.wf s'.mem = true := issue_wf _ _ _ hs (fun c hc => by simp [hc]) ht

theorem execSceq_wf (d a b : SReg) (s : State) (hs : Memory.wf s.mem = true) {s' : State} (ht : execSceq d a b s = .next s') : Memory.wf
    s'.mem = true := issue_wf _ _ _ hs (fun c hc => by simp [hc]) ht

theorem execSclt_wf (d a b : SReg) (s : State) (hs : Memory.wf s.mem = true) {s' : State} (ht : execSclt d a b s = .next s') : Memory.wf
    s'.mem = true := issue_wf _ _ _ hs (fun c hc => by simp [hc]) ht

theorem execScltn_wf (d a b : SReg) (s : State) (hs : Memory.wf s.mem = true) {s' : State} (ht : execScltn d a b s = .next s') : Memory.wf
    s'.mem = true := issue_wf _ _ _ hs (fun c hc => by simp [hc]) ht

theorem execVred_wf (d : SReg) (o : BitVec 3) (m : VReg) (s : State) (hs : Memory.wf s.mem = true) {s' : State}
    (ht : execVred d o m s = .next s') : Memory.wf s'.mem = true := issue_wf _ _ _ hs (fun c hc => by simp [hc]) ht

theorem execVlane_wf (d a : SReg) (p : Bool) (m : VReg) (s : State) (hs : Memory.wf s.mem = true) {s' : State}
    (ht : execVlane d a p m s = .next s') : Memory.wf s'.mem = true := issue_wf _ _ _ hs (fun c hc => by simp [hc]) ht

theorem execVins_wf (a b : SReg) (p : Bool) (m : VReg) (s : State) (hs : Memory.wf s.mem = true) {s' : State}
    (ht : execVins a b p m s = .next s') : Memory.wf s'.mem = true := issue_wf _ _ _ hs (fun c hc => by simp [hc]) ht

theorem execVote_wf (d : SReg) (k : BitVec 2) (p : QReg) (s : State) (hs : Memory.wf s.mem = true) {s' : State}
    (ht : execVote d k p s = .next s') : Memory.wf s'.mem = true := issue_wf _ _ _ hs (fun c hc => by simp [hc]) ht

theorem execKrd_wf (d : SReg) (n : BitVec 4) (s : State) (hs : Memory.wf s.mem = true) {s' : State} (ht : execKrd d n s = .next s') :
    Memory.wf s'.mem = true := issue_wf _ _ _ hs (fun c hc => by simp [hc]) ht

theorem execKwr_wf (a : SReg) (n : BitVec 4) (s : State) (hs : Memory.wf s.mem = true) {s' : State} (ht : execKwr a n s = .next s') :
    Memory.wf s'.mem = true := issue_wf _ _ _ hs (fun c hc => by split <;> simp [hc]) ht

/-! ### Machine/Whisk -/

@[simp] theorem Ctx.sendCall_mem (c : Ctx) (d : VReg) (l : La) (w : BitVec 2) (r : VReg) (items : List ((Nat × DWord) × (Nat × Bool))) :
    (Ctx.sendCall c d l w r items).state.mem = c.s.mem := by
  unfold Ctx.sendCall
  split <;> simp

theorem execWcall_wf (d a : VReg) (l : La) (w : BitVec 2) (r : VReg) (s : State) (hs : Memory.wf s.mem = true) {s' : State}
    (ht : execWcall d a l w r s = .next s') : Memory.wf s'.mem = true := by
  refine issue_wf _ _ _ hs (fun c hc => Ctx.outside_wf _ _ _ hc fun c hc => Ctx.translate_wf _ _ _ _ _ hc fun c _ hc => ?_) ht
  split
  · exact hc
  · exact Ctx.room_wf _ _ _ hc fun c hc => Ctx.commits_wf _ _ (by simp [hc]) fun c hc => by simp [hc]

@[simp] theorem Ctx.post_wf (c : Ctx) (xs : List Posted) (body : Ctx → Res) (hc : Memory.wf c.s.mem = true)
    (hbody : ∀ x0, Memory.wf x0.s.mem = true → Memory.wf (body x0).state.mem = true) : Memory.wf (Ctx.post c xs body).state.mem = true :=
    by
  unfold Ctx.post
  dsimp only
  (repeat' split) <;> simp +contextual [*]

theorem execWpost_wf (a : VReg) (l : La) (w : BitVec 2) (r : VReg) (s : State) (hs : Memory.wf s.mem = true) {s' : State}
    (ht : execWpost a l w r s = .next s') : Memory.wf s'.mem = true := by
  exact issue_wf _ _ _ hs (fun c hc => Ctx.outside_wf _ _ _ hc fun c hc => Ctx.translate_wf _ _ _ _ _ hc fun c _ hc =>
    Ctx.post_wf _ _ _ hc fun c hc => by simp [hc]) ht

@[simp] theorem State.arriveOne_wf (s : State) (p : PartNo) (core id : Nat) (w : WhiskReq) (hs : Memory.wf s.mem = true) : Memory.wf
    (State.arriveOne s p core id w).mem = true := by
  unfold State.arriveOne
  (repeat' split) <;> simp [hs]

theorem execRequestArrival_wf (p : PartNo) (id : Nat) (s : State) (hs : Memory.wf s.mem = true) {s' : State}
    (ht : execRequestArrival p id s = .next s') : Memory.wf s'.mem = true := by
  refine next_wf ht ?_
  split
  · exact hs
  dsimp only
  split
  · exact hs
  split
  · exact hs
  split
  · exact hs
  · exact foldl_wf _ _ _ hs fun s hs x => State.arriveOne_wf _ _ _ _ _ hs

@[simp] theorem State.objDecided_wf (s : State) (p : PartNo) (batch : List (Nat × WhiskReq)) (id : DWord) (hs : Memory.wf s.mem = true) :
    Memory.wf (State.objDecided s p batch id).mem = true := by
  unfold State.objDecided
  (repeat' split) <;> simp [hs]

@[simp] theorem State.openWindow_wf (s : State) (p : PartNo) (core : Nat) (b : Batch) (hs : Memory.wf s.mem = true) : Memory.wf
    (State.openWindow s p core b).mem = true := by
  unfold State.openWindow
  dsimp only
  split <;> simp [hs]

theorem execBatchAssembly_wf (p : PartNo) (core : BitVec 7) (s : State) (hs : Memory.wf s.mem = true) {s' : State}
    (ht : execBatchAssembly p core s = .next s') : Memory.wf s'.mem = true := by
  refine next_wf ht ?_
  split
  · exact hs
  split
  · exact hs
  split
  · exact hs
  dsimp only
  split
  · exact foldl_wf _ _ _ hs fun s hs x => State.refuse_wf _ _ _ _ _ hs
  · refine State.openWindow_wf _ _ _ _ ?_
    split
    · exact hs
    · exact State.objDecided_wf _ _ _ _ hs

@[simp] theorem Ctx.home_wf (c : Ctx) (i : Instr) (body : Home → Res) (hc : Memory.wf c.s.mem = true)
    (hbody : ∀ x0, Memory.wf (body x0).state.mem = true) : Memory.wf (Ctx.home c i body).state.mem = true := by
  unfold Ctx.home
  (repeat' split) <;> simp_all

@[simp] theorem Ctx.batch_wf (c : Ctx) (i : Instr) (body : Batch → Res) (hc : Memory.wf c.s.mem = true)
    (hbody : ∀ x0, Memory.wf (body x0).state.mem = true) : Memory.wf (Ctx.batch c i body).state.mem = true := by
  unfold Ctx.batch
  refine Ctx.home_wf _ _ _ hc fun h => ?_
  split
  · exact hc
  · exact hbody _

theorem execWtake_wf (x : SReg) (s : State) (hs : Memory.wf s.mem = true) {s' : State} (ht : execWtake x s = .next s') : Memory.wf s'.mem
    = true := issue_wf _ _ _ hs (fun c hc => Ctx.home_wf _ _ _ hc fun _ => by (repeat' split) <;> simp [hc]) ht

@[simp] theorem State.writeBack_wf (s : State) (p : PartNo) (b : Batch) (bytes : List Byte) (fails : Nat) (hs : Memory.wf s.mem = true) :
    Memory.wf (State.writeBack s p b bytes fails).mem = true := by
  unfold State.writeBack
  simp [hs]

theorem execWreply_wf (a : Operand) (s : State) (hs : Memory.wf s.mem = true) {s' : State} (ht : execWreply a s = .next s') : Memory.wf
    s'.mem = true := issue_wf _ _ _ hs (fun c hc => Ctx.batch_wf _ _ _ hc fun _ => by dsimp only; (repeat' split) <;> simp [hc]) ht

theorem execWfail_wf (k : BitVec 7) (s : State) (hs : Memory.wf s.mem = true) {s' : State} (ht : execWfail k s = .next s') : Memory.wf
    s'.mem = true := issue_wf _ _ _ hs (fun c hc => by simp [hc]) ht

theorem execWhiskReply_wf (p : PartNo) (id : Nat) (s : State) (hs : Memory.wf s.mem = true) {s' : State}
    (ht : execWhiskReply p id s = .next s') : Memory.wf s'.mem = true := next_wf ht (by dsimp only; (repeat' split) <;> simp [hs])

@[simp] theorem Ctx.builtin_wf (c : Ctx) (b : Batch) (hc : Memory.wf c.s.mem = true) : Memory.wf (Ctx.builtin c b).mem = true := by
  unfold Ctx.builtin
  split <;> simp [hc]

@[simp] theorem Ctx.enterMethod_mem (c : Ctx) (b : Batch) (addr : DWord) : (Ctx.enterMethod c b addr).mem = c.s.mem := rfl

@[simp] theorem Ctx.dispatch_wf (c : Ctx) (b : Batch) (hc : Memory.wf c.s.mem = true) : Memory.wf (Ctx.dispatch c b).mem = true := by
  unfold Ctx.dispatch
  (repeat' split) <;> simp [hc]

theorem execWscan_wf (d : VReg) (a : Operand) (o : BitVec 3) (s : State) (hs : Memory.wf s.mem = true) {s' : State}
    (ht : execWscan d a o s = .next s') : Memory.wf s'.mem = true := issue_wf _ _ _ hs (fun c hc => by simp [hc]) ht

/-! ### Machine/Die -/

theorem State.declare_wf (s : State) (p : PartNo) (tk dir : Nat) (c : CrockDecl) (created low : Bool) (hs : Memory.wf s.mem = true)
    {s' : State} (ht : State.declare s p tk dir c created low = some s') : Memory.wf s'.mem = true := by
  rw [State.declare] at ht
  exact State.equip_wf _ _ _ _ _ (by simpa using hs) ht

theorem State.giveRun_wf (s : State) (p : PartNo) (tk core n slot : Nat) (low : Bool) (hs : Memory.wf s.mem = true) {s' : State}
    (ht : State.giveRun s p tk core n slot low = some s') : Memory.wf s'.mem = true := by
  rw [State.giveRun] at ht
  obtain ⟨t, hroom, ht⟩ := Option.bind_eq_some_iff.1 ht
  have h := State.room_wf _ _ _ _ _ hs hroom
  obtain ⟨P, -, hP⟩ := Option.bind_eq_some_iff.1 ht
  obtain ⟨b, -, rfl⟩ := Option.map_eq_some_iff.1 hP
  simpa using h

@[simp] theorem State.attachesServed_wf (s : State) (p : PartNo) (xs : List (Nat × Attach)) (hs : Memory.wf s.mem = true) : Memory.wf
    (State.attachesServed s p xs).mem = true := by
  unfold State.attachesServed
  refine foldl_wf _ _ _ hs fun s hs e => ?_
  dsimp only
  split
  · exact hs
  · rw [State.modPart_mem]
    split
    · exact State.record_wf _ _ _ _ _ _ hs
    · exact hs

@[simp] theorem State.makeMoves_wf (s : State) (p : PartNo) (moves : List (Nat × Nat)) (low : Bool) (hs : Memory.wf s.mem = true) :
    Memory.wf (State.makeMoves s p moves low).mem = true := by
  unfold State.makeMoves
  refine foldl_wf _ _ _ hs fun s hs m => ?_
  cases h : s.startMove p m.1 m.2 low with
  | none => exact hs
  | some t => exact State.startMove_wf _ _ _ _ _ hs h

theorem foldl_bind_inv {α β : Type} {inv : β → Prop} (l : List α) (f : α → β → Option β) (o : Option β) {b : β}
    (ho : ∀ a, o = some a → inv a) (hf : ∀ x a b, inv a → f x a = some b → inv b)
    (hb : l.foldl (fun o x => o.bind (f x)) o = some b) : inv b := by
  induction l generalizing o with
  | nil => exact ho b hb
  | cons x l ih =>
    refine ih (o.bind (f x)) (fun c hc => ?_) hb
    obtain ⟨a, ha, hfa⟩ := Option.bind_eq_some_iff.1 hc
    exact hf x a c (ho a ha) hfa

theorem Trial.moved_wf (t : Trial) (p : PartNo) (dir core : Nat) (low : Bool) (hs : Memory.wf t.s.mem = true) {u : Trial}
    (hu : t.moved p dir core low = some u) : Memory.wf u.s.mem = true := by
  obtain ⟨s, hm, rfl⟩ := Option.map_eq_some_iff.1 hu
  have h := State.startMove_wf _ _ _ _ _ hs hm
  simpa using h

theorem Trial.declare_wf (t : Trial) (p : PartNo) (tk tidx core : Nat) (low : Bool) (c : CrockDecl) (hs : Memory.wf t.s.mem = true)
    {u : Trial}
    (hu : t.declare p tk tidx core low c = some u) : Memory.wf u.s.mem = true := by
  have held : ∀ (v : Trial) dir created, Memory.wf v.s.mem = true →
      (v.s.declare p tk dir c created low).map (fun s => { v with s := s }) = some u → Memory.wf u.s.mem = true := by
    intro v dir created hv hu
    obtain ⟨s, hd, rfl⟩ := Option.map_eq_some_iff.1 hu
    exact State.declare_wf _ _ _ _ _ _ _ hv hd
  unfold Trial.declare at hu
  split at hu
  · cases hu
  · dsimp only at hu
    split at hu
    · cases hu
      simpa using hs
    · obtain ⟨⟨i, v⟩, hc, hu⟩ := Option.bind_eq_some_iff.1 hu
      refine held { t with s := v } i true ?_ hu
      rw [State.claim_mem _ _ _ _ _ _ hc]
      exact hs
    · exact held _ _ _ hs hu
    · obtain ⟨v, hm, hu⟩ := Option.bind_eq_some_iff.1 hu
      exact held _ _ _ (Trial.moved_wf _ _ _ _ _ hs hm) hu
    · cases hu

theorem Trial.team_wf (t : Trial) (p : PartNo) (l : Launch) (launch pos rank ci core : Nat) (marks : List Nat)
    (hs : Memory.wf t.s.mem = true)
    {u : Trial} (hu : t.team p l launch pos rank ci core marks = some u) : Memory.wf u.s.mem = true := by
  obtain ⟨P, -, hu⟩ := Option.bind_eq_some_iff.1 hu
  obtain ⟨e, -, hu⟩ := Option.bind_eq_some_iff.1 hu
  obtain ⟨v, hv, hu⟩ := Option.bind_eq_some_iff.1 hu
  obtain ⟨s, hr, rfl⟩ := Option.map_eq_some_iff.1 hu
  have h := foldl_bind_inv (inv := fun t : Trial => Memory.wf t.s.mem = true) _
    (fun c (t : Trial) => t.declare p _ _ core l.coresident c) _ (by rintro a ⟨⟩; simpa using hs)
    (fun c a b ha hb => Trial.declare_wf _ _ _ _ _ _ _ ha hb) hv
  exact State.giveRun_wf _ _ _ _ _ _ _ h hr

theorem Trial.cluster_wf (t : Trial) (p : PartNo) (l : Launch) (launch pos : Nat) (marks : Table (List Nat)) (cores : List Nat)
    (hs : Memory.wf t.s.mem = true) {u : Trial} (hu : t.cluster p l launch pos marks cores = some u) : Memory.wf u.s.mem = true := by
  obtain ⟨v, hv, rfl⟩ := Option.map_eq_some_iff.1 hu
  have h := foldl_bind_inv (inv := fun t : Trial => Memory.wf t.s.mem = true) _ (fun e (t : Trial) => t.team p l launch pos _ _ _ _) _
    (by rintro a ⟨⟩; exact hs) (fun c a b ha hb => Trial.team_wf _ _ _ _ _ _ _ _ _ ha hb) hv
  simpa using h

theorem Trial.place_wf (t : Trial) (p : PartNo) (l : Launch) (launch pos : Nat) (marks : Table (List Nat))
    (hs : Memory.wf t.s.mem = true) {u : Trial} (hu : t.place p l launch pos marks = some u) : Memory.wf u.s.mem = true := by
  unfold Trial.place at hu
  split at hu
  · cases hu
  · dsimp only at hu
    have h : ∀ cores : List (List Nat), ∀ u ∈ cores.filterMap (fun cores => t.cluster p l launch pos marks cores), Memory.wf u.s.mem =
        true := by
      intro cores u hu
      obtain ⟨c, -, hc⟩ := List.mem_filterMap.1 hu
      exact Trial.cluster_wf _ _ _ _ _ _ _ hs hc
    split at hu
    · cases hu
      exact h _ _ (List.mem_of_find?_eq_some ‹_›)
    · exact h _ _ (List.mem_of_mem_head? hu)

theorem State.letIn_wf (s : State) (p : PartNo) (P : Part) (t : Trial) (low : Bool) (admitted : State → State)
    (hs : Memory.wf s.mem = true)
    (ht : Memory.wf t.s.mem = true) (hadmitted : ∀ x, Memory.wf x.mem = true → Memory.wf (admitted x).mem = true) :
    Memory.wf (s.letIn p P t low admitted).mem = true := by
  unfold State.letIn
  split
  · exact hs
  · dsimp only
    split
    · simp [hs]
    · split
      · exact hadmitted _ (State.attachesServed_wf _ _ _ ht)
      · simpa using hs

@[simp] theorem State.completionEntry_wf (s : State) (p : PartNo) (q : Nat) (tag : Word) (cons : BitVec 16) (status : Nat) (hash : DWord)
    (hs : Memory.wf s.mem = true) : Memory.wf (State.completionEntry s p q tag cons status hash).mem = true := by
  unfold State.completionEntry; (repeat' split) <;> simp_all +contextual
      [-State.store_mem, -State.storeNum_mem]

@[simp] theorem State.completeLaunch_wf (s : State) (p : PartNo) (k : Nat) (l : Launch) (status : Nat) (hash : DWord)
    (hs : Memory.wf s.mem = true) : Memory.wf (State.completeLaunch s p k l status hash).mem = true := by
  unfold State.completeLaunch
  simp [hs]

@[simp] theorem State.explore_wf (s : State) (p : PartNo) (k : Nat) (hs : Memory.wf s.mem = true) : Memory.wf (State.explore s p k).mem =
    true := by
  unfold State.explore
  dsimp only
  split <;> simp [hs]

@[simp] theorem State.reject_wf (s : State) (p : PartNo) (k : Nat) (l : Launch) (hs : Memory.wf s.mem = true) : Memory.wf
    (State.reject s p k l).mem = true := by
  unfold State.reject
  simp [hs]

@[simp] theorem State.placeNew_wf (s : State) (p : PartNo) (P : Part) (k : Nat) (l : Launch) (hs : Memory.wf s.mem = true) : Memory.wf
    (State.placeNew s p P k l).mem = true := by
  unfold State.placeNew
  dsimp only
  split
  · exact hs
  · split
    · split <;> simp [hs]
    · split
      · simpa using hs
      · split
        · exact hs
        next t hf =>
          have ht := foldl_bind_inv (inv := fun t : Trial => Memory.wf t.s.mem = true) _
              (fun pos (t : Trial) => t.place p (l.inMode P) k pos []) _
            (by rintro a ⟨⟩; exact hs) (fun c a b ha hb => Trial.place_wf _ _ _ _ _ _ ha hb) hf
          split
          · simp [hs]
          · exact State.letIn_wf _ _ _ _ _ _ hs ht fun s hs => by simpa using hs

@[simp] theorem State.placeAgain_wf (s : State) (p : PartNo) (P : Part) (r : Relaunch) (hs : Memory.wf s.mem = true) : Memory.wf
    (State.placeAgain s p P r).mem = true := by
  unfold State.placeAgain
  split
  · exact hs
  · split
    · exact hs
    · split
      · simpa using hs
      · split
        · exact hs
        next t hf =>
          exact State.letIn_wf _ _ _ _ _ _ hs (Trial.place_wf _ _ _ _ _ _ hs hf) fun s hs => by simpa using hs

theorem execClusterPlacement_wf (p : PartNo) (s : State) (hs : Memory.wf s.mem = true) {s' : State}
    (ht : execClusterPlacement p s = .next s') : Memory.wf s'.mem = true := next_wf ht (by (repeat' split) <;> simp [hs])

theorem execFinalCommit_wf (p : PartNo) (tk : Nat) (s : State) (hs : Memory.wf s.mem = true) {s' : State}
    (ht : execFinalCommit p tk s = .next s') : Memory.wf s'.mem = true := next_wf ht (by (repeat' split) <;> simp [hs])

theorem execLaunchCompletion_wf (p : PartNo) (s : State) (hs : Memory.wf s.mem = true) {s' : State}
    (ht : execLaunchCompletion p s = .next s') : Memory.wf s'.mem = true := next_wf ht (by dsimp only; (repeat' split) <;> simp [hs])

/-! ### Machine/Gate -/

theorem execOrderGateAdmit_wf (p : PartNo) (dom : Domain) (id : DWord) (s : State) (hs : Memory.wf s.mem = true) {s' : State}
    (ht : execOrderGateAdmit p dom id s = .next s') : Memory.wf s'.mem = true := next_wf ht (by (repeat' split) <;> simp [hs])

/-! ### Machine/Sieve -/

@[simp] theorem State.serve_mem (s : State) (p : PartNo) (d : Pending) (x : Choosable) : (State.serve s p d x).mem = s.mem := by
  unfold State.serve
  dsimp only
  split <;> simp

@[simp] theorem State.decideOne_wf (s : State) (p : PartNo) (P : Part) (d : Pending) (hs : Memory.wf s.mem = true) : Memory.wf
    (State.decideOne s p P d).mem = true := by
  unfold State.decideOne
  dsimp only
  (repeat' split) <;> simp [hs]

theorem execSieveDecision_wf (p : PartNo) (s : State) (hs : Memory.wf s.mem = true) {s' : State} (ht : execSieveDecision p s = .next s') :
    Memory.wf s'.mem = true := by
  unfold execSieveDecision at ht
  refine next_wf ht ?_
  split
  · exact hs
  · split
    · exact hs
    · dsimp only
      split
      · exact State.decideOne_wf _ _ _ _ hs
      · split
        · split
          · exact State.leaf_wf _ _ _ _ _ hs
          · exact hs
        · split
          · simp [hs]
          · exact hs

@[simp] theorem State.stall_mem (s : State) (p : PartNo) (P : Part) (entries : List StallEntry) : (State.stall s p P entries).mem = s.mem
    := rfl

theorem execEggTimerWindow_wf (p : PartNo) (s : State) (hs : Memory.wf s.mem = true) {s' : State} (ht : execEggTimerWindow p s = .next s')
    : Memory.wf s'.mem = true := next_wf ht (by dsimp only; (repeat' split) <;> simp [hs])

@[simp] theorem State.undoLine_wf (s : State) (u : Undo) (hs : Memory.wf s.mem = true) : Memory.wf (State.undoLine s u).mem = true := by
  unfold State.undoLine
  split <;> simp [hs]

@[simp] theorem State.refetch_mem (s : State) (p : PartNo) : (State.refetch s p).mem = s.mem := rfl

@[simp] theorem State.restoreSnapshot_wf (s : State) (p : PartNo) (P : Part) (run : Run) (domains : List DomainState) (path : List Branch)
    (hs : Memory.wf s.mem = true) : Memory.wf (State.restoreSnapshot s p P run domains path).mem = true := by
  unfold State.restoreSnapshot
  simp +contextual [hs, foldl_wf]

theorem execSieveBacktrack_wf (p : PartNo) (s : State) (hs : Memory.wf s.mem = true) {s' : State} (ht : execSieveBacktrack p s = .next s')
    : Memory.wf s'.mem = true := next_wf ht (by (repeat' split) <;> simp [hs])

theorem execChunkFlushTimer_wf (p : PartNo) (dom : Domain) (id : DWord) (s : State) (hs : Memory.wf s.mem = true) {s' : State}
    (ht : execChunkFlushTimer p dom id s = .next s') : Memory.wf s'.mem = true := next_wf ht (by simp [hs])

/-! ### Machine/Freeze -/

@[simp] theorem State.saveImage_wf (s : State) (p : PartNo) (P : Part) (hs : Memory.wf s.mem = true) : Memory.wf
    (State.saveImage s p P).mem = true := by
  unfold State.saveImage
  dsimp only
  (repeat' split) <;> simp [hs]

@[simp] theorem State.stallAction_wf (s : State) (p : PartNo) (hs : Memory.wf s.mem = true) : Memory.wf (State.stallAction s p).mem = true
    := by
  unfold State.stallAction
  (repeat' split) <;> simp_all +contextual [foldl_wf]

@[simp] theorem State.finishFreeze_wf (s : State) (p : PartNo) (P : Part) (hs : Memory.wf s.mem = true) : Memory.wf
    (State.finishFreeze s p P).mem = true := by
  unfold State.finishFreeze
  dsimp only
  split <;> simp [hs]

theorem execFreezeImage_wf (p : PartNo) (s : State) (hs : Memory.wf s.mem = true) {s' : State} (ht : execFreezeImage p s = .next s') :
    Memory.wf s'.mem = true := next_wf ht (by dsimp only; (repeat' split) <;> simp [hs])

@[simp] theorem State.resume_mem (s : State) (p : PartNo) (P : Part) (i : Image) : (State.resume s p P i).mem = s.mem := by
  unfold State.resume
  split <;> simp

@[simp] theorem State.resumeRejected_wf (s : State) (p : PartNo) (pa : Nat) (hs : Memory.wf s.mem = true) : Memory.wf
    (State.resumeRejected s p pa).mem = true := by
  unfold State.resumeRejected
  dsimp only
  (repeat' split) <;> simp [hs]

theorem execGangSliceStart_wf (p : PartNo) (s : State) (hs : Memory.wf s.mem = true) {s' : State} (ht : execGangSliceStart p s = .next s')
    : Memory.wf s'.mem = true := next_wf ht (by (repeat' split) <;> simp [hs])

theorem execGangSliceEnd_wf (p : PartNo) (s : State) (hs : Memory.wf s.mem = true) {s' : State} (ht : execGangSliceEnd p s = .next s') :
    Memory.wf s'.mem = true := next_wf ht (by (repeat' split) <;> simp [hs])

theorem execDrainDeadline_wf (p : PartNo) (s : State) (hs : Memory.wf s.mem = true) {s' : State} (ht : execDrainDeadline p s = .next s') :
    Memory.wf s'.mem = true := next_wf ht (by (repeat' split) <;> simp [hs])

/-! ### Machine/Errors -/

theorem execBackgroundScrub_wf (core : BitVec 7) (w : CoreWord) (r : ScrubResult) (s : State) (hs : Memory.wf s.mem = true) {s' : State}
    (ht : execBackgroundScrub core w r s = .next s') : Memory.wf s'.mem = true := next_wf ht (by (repeat' split) <;> simp [hs])

theorem execPatrolScrub_wf (line : BitVec 45) (r : ScrubResult) (s : State) (hs : Memory.wf s.mem = true) {s' : State}
    (ht : execPatrolScrub line r s = .next s') : Memory.wf s'.mem = true := by
  unfold execPatrolScrub at ht
  refine next_wf ht ?_
  dsimp only
  have h : Memory.wf (if r = .corrected then s
        else
            { s with memPoison := (List.range 16).foldl (fun l d => insertNum l (line.toNat * 16 + d)) s.memPoison }).mem = true := by split <;> exact hs
  split
  · exact hs
  · split
    · exact h
    · split
      · exact h
      · exact State.orphan_wf _ _ _ _ _ _ h

theorem execInFieldTest_wf (die : BitVec 3) (s : State) (hs : Memory.wf s.mem = true) {s' : State} (ht : execInFieldTest die s = .next s')
    : Memory.wf s'.mem = true := next_wf ht (by dsimp only; (repeat' split) <;> simp [hs])

theorem execInFieldTestRun_wf (core : BitVec 7) (passed : Bool) (s : State) (hs : Memory.wf s.mem = true) {s' : State}
    (ht : execInFieldTestRun core passed s = .next s') : Memory.wf s'.mem = true := next_wf ht
    (by dsimp only; (repeat' split) <;> simp [hs])

theorem execInFieldTestOverdue_wf (core : BitVec 7) (s : State) (hs : Memory.wf s.mem = true) {s' : State}
    (ht : execInFieldTestOverdue core s = .next s') : Memory.wf s'.mem = true := next_wf ht (by dsimp only; (repeat' split) <;> simp [hs])

theorem execEnergyPeriod_wf (p : PartNo) (s : State) (hs : Memory.wf s.mem = true) {s' : State} (ht : execEnergyPeriod p s = .next s') :
    Memory.wf s'.mem = true := next_wf ht (by simp [hs])

theorem execInvalidationDone_wf (p : PartNo) (s : State) (hs : Memory.wf s.mem = true) {s' : State}
    (ht : execInvalidationDone p s = .next s') : Memory.wf s'.mem = true := next_wf ht (by (repeat' split) <;> simp [hs])

/-! ### Machine/Send -/

@[simp] theorem Ctx.startSend_mem (c : Ctx) (l : La) (x : Op) : (Ctx.startSend c l x).state.mem = c.s.mem := rfl

theorem execSendr_wf (d a : VReg) (l : La) (t : SReg) (z : BitVec 3) (s : State) (hs : Memory.wf s.mem = true) {s' : State}
    (ht : execSendr d a l t z s = .next s') : Memory.wf s'.mem = true := by
  refine issue_wf _ _ _ hs (fun c hc => Ctx.outside_wf _ _ _ hc fun c hc => ?_) ht
  dsimp only
  split
  · exact hc
  · exact Ctx.room_wf _ _ _ hc fun c hc => by simp [hc]

theorem execSendb_wf (x y : SReg) (f : BitVec 2) (l : La) (s : State) (hs : Memory.wf s.mem = true) {s' : State}
    (ht : execSendb x y f l s = .next s') : Memory.wf s'.mem = true := by
  refine issue_wf _ _ _ hs (fun c hc => Ctx.outside_wf _ _ _ hc fun c hc => ?_) ht
  dsimp only
  split
  · exact hc
  split
  · exact hc
  split
  · exact hc
  split
  · exact hc
  split
  · exact hc
  split
  · exact hc
  · refine Ctx.room_wf _ _ _ hc fun c hc => ?_
    rw [Ctx.startSend_mem]
    split
    · simp [hc]
    · exact hc

@[simp] theorem Ctx.counter_wf (c : Ctx) (x y : SReg) (kind : Nat) (body : Nat → Nat → Res) (hc : Memory.wf c.s.mem = true)
    (hbody : ∀ x0, ∀ x1, Memory.wf (body x0 x1).state.mem = true) : Memory.wf (Ctx.counter c x y kind body).state.mem = true := by
  unfold Ctx.counter
  dsimp only
  (repeat' split) <;> simp +contextual [*]

theorem execCwait_wf (x y : SReg) (s : State) (hs : Memory.wf s.mem = true) {s' : State} (ht : execCwait x y s = .next s') : Memory.wf
    s'.mem = true := issue_wf _ _ _ hs (fun c hc => Ctx.counter_wf _ _ _ _ _ hc fun _ _ => by dsimp only; (repeat' split) <;> simp [hc])
    ht

theorem execCset_wf (x y : SReg) (s : State) (hs : Memory.wf s.mem = true) {s' : State} (ht : execCset x y s = .next s') : Memory.wf
    s'.mem = true := by
  unfold execCset at ht
  refine issue_wf _ _ _ hs (fun c hc => Ctx.counter_wf _ _ _ _ _ hc fun a n => ?_) ht
  obtain ⟨poke, hp, hm⟩ : ∃ f, Ctx.poke = f ∧ ∀ c a bs, (f c a bs).s.mem = c.s.mem := ⟨_, rfl, Ctx.poke_mem⟩
  rw [hp, Res.state_done, hm]
  exact hc


@[simp] theorem State.sendError_wf (s : State) (p : PartNo) (core : Nat) (req : Word) (ctx : Option Nat) (hs : Memory.wf s.mem = true) :
    Memory.wf (State.sendError s p core req ctx).mem = true := by
  unfold State.sendError
  split <;> simp [hs]

@[simp] theorem Ctx.countSend_mem (r : Ctx) (a : Nat) (fail : Option (Nat × Nat)) : (Ctx.countSend r a fail).1.mem = r.s.mem := by
  obtain ⟨poke, hp, hm⟩ : ∃ f, Ctx.poke = f ∧ ∀ c a bs, (f c a bs).s.mem = c.s.mem := ⟨_, rfl, Ctx.poke_mem⟩
  rw [Ctx.countSend, hp]
  clear hp
  split
  · rfl
  · split
    · rfl
    · exact hm _ _ _

@[simp] theorem State.finishSend_mem (s : State) (p : PartNo) (gid op : Nat) (block : Bool) (w : DWord) (fail : Option (Nat × Nat)) :
    (State.finishSend s p gid op block w fail).mem = s.mem := rfl

@[simp] theorem Ctx.sendError_wf (c : Ctx) (core : Nat) (s : State) (hs : Memory.wf s.mem = true) :
    Memory.wf (Ctx.sendError c core s).mem = true := by
  unfold Ctx.sendError
  simp [hs]

@[simp] theorem Ctx.moveOut_wf (c : Ctx) (op : Nat) (x : Op) (hc : Memory.wf c.s.mem = true) : Memory.wf (Ctx.moveOut c op x).mem = true
    := by
  unfold Ctx.moveOut
  (repeat' split) <;> simp [hc]

@[simp] theorem Ctx.landed_wf (c : Ctx) (r : Ctx) (op : Nat) (block : Bool) (w : DWord) (fail : Option (Nat × Nat)) (bad : Option Nat)
    (hr : Memory.wf r.s.mem = true) : Memory.wf (Ctx.landed c r op block w fail bad).mem = true := by
  unfold Ctx.landed
  dsimp only
  (repeat' split) <;> simp +contextual [*]

@[simp] theorem Ctx.land_wf (c : Ctx) (r : Ctx) (op : Nat) (x : Op) (block : Bool) (w : DWord) (hc : Memory.wf c.s.mem = true)
    (hr : Memory.wf r.s.mem = true) : Memory.wf (Ctx.land c r op x block w).mem = true := by
  unfold Ctx.land
  (repeat' split) <;> simp_all

@[simp] theorem State.takeInbound_mem (s : State) (x : Inbound) : (State.takeInbound s x).mem = s.mem := by
  unfold State.takeInbound
  dsimp only
  (repeat' split) <;> simp

@[simp] theorem State.nextInbound_mem (s : State) (p : PartNo) : (State.nextInbound s p).mem = s.mem := by
  unfold State.nextInbound
  (repeat' split) <;> simp

@[simp] theorem State.landInbound_wf (s : State) (p : PartNo) (P : Part) (op : Nat) (w : DWord) (pieces : List (Nat × List Byte))
    (flow : Nat) (fail : Option (Nat × Nat)) (hs : Memory.wf s.mem = true) : Memory.wf (State.landInbound s p P op w pieces flow fail).mem
    = true := by
  unfold State.landInbound
  dsimp only
  split
  · simpa using hs
  next r hr =>
    obtain ⟨tk, -, hr⟩ := Option.bind_eq_some_iff.1 hr
    have hr := State.ctx?_wf _ _ _ hs hr
    (repeat' split) <;> simp_all

theorem execSendLanding_wf (p : PartNo) (op : Nat) (s : State) (hs : Memory.wf s.mem = true) {s' : State}
    (ht : execSendLanding p op s = .next s') : Memory.wf s'.mem = true := by
  unfold execSendLanding at ht
  refine next_wf ht ?_
  dsimp only
  split
  · split
    · split
      · exact State.landInbound_wf _ _ _ _ _ _ _ _ hs
      · exact hs
    · split
      · exact hs
      next c hc =>
        have hc := State.ctx?_wf _ _ _ hs hc
        split
        · exact hs
        · split
          · split
            · exact hs
            · simp [hc]
          · split
            · simp [hs]
            next r hr =>
              obtain ⟨tk, -, hr⟩ := Option.bind_eq_some_iff.1 hr
              exact Ctx.land_wf _ _ _ _ _ _ hc (State.ctx?_wf _ _ _ hs hr)
  · split <;> simp [hs]

theorem execSendAcknowledgement_wf (p : PartNo) (op : Nat) (s : State) (hs : Memory.wf s.mem = true) {s' : State}
    (ht : execSendAcknowledgement p op s = .next s') : Memory.wf s'.mem = true := next_wf ht (by (repeat' split) <;> simp [hs])

/-! ### Machine/Fabric -/

@[simp] theorem State.setLink_mem (s : State) (x : LinkState) : (State.setLink s x).mem = s.mem := rfl

@[simp] theorem State.linkError_wf (s : State) (l : Link) (cls src index : Nat) (hs : Memory.wf s.mem = true) : Memory.wf
    (State.linkError s l cls src index).mem = true := by
  unfold State.linkError
  simp +contextual [hs, foldl_wf]

theorem execFlitCrcError_wf (link : Link) (s : State) (hs : Memory.wf s.mem = true) {s' : State} (ht : execFlitCrcError link s = .next s')
    : Memory.wf s'.mem = true := next_wf ht (by split <;> simp [hs])

@[simp] theorem State.cxlGoesDown_mem (s : State) (port : Nat) : (State.cxlGoesDown s port).mem = s.mem := rfl

@[simp] theorem State.pauseParts_mem (s : State) (link : Link) : (State.pauseParts s link).mem = s.mem := rfl

@[simp] theorem State.killLink_wf (s : State) (link : Link) (hs : Memory.wf s.mem = true) : Memory.wf (State.killLink s link).mem = true
    := by
  unfold State.killLink; (repeat' split) <;> simp_all +contextual [-State.store_mem, -State.storeNum_mem, foldl_wf, ite_wf]

theorem execLinkDead_wf (link : Link) (s : State) (hs : Memory.wf s.mem = true) {s' : State} (ht : execLinkDead link s = .next s') :
    Memory.wf s'.mem = true := next_wf ht (by simp [hs])

@[simp] theorem State.loseHome_wf (s : State) (p : PartNo) (P : Part) (c : Nat) (hs : Memory.wf s.mem = true) : Memory.wf
    (State.loseHome s p P c).mem = true := by
  unfold State.loseHome
  split <;> simp [hs]

@[simp] theorem State.loseCore_wf (s : State) (p : PartNo) (c : Nat) (hs : Memory.wf s.mem = true) : Memory.wf (State.loseCore s p c).mem
    = true := by
  unfold State.loseCore
  (repeat' split) <;> simp_all +contextual [foldl_wf]

@[simp] theorem State.loseRoutes_wf (s : State) (p : PartNo) (P : Part) (hs : Memory.wf s.mem = true) : Memory.wf
    (State.loseRoutes s p P).mem = true := by
  unfold State.loseRoutes
  dsimp only
  split
  · exact hs
  · exact foldl_wf _ _ _ hs fun s hs c => State.loseCore_wf _ _ _ hs

@[simp] theorem State.loseHubs_mem (s : State) : s.loseHubs.mem = s.mem := by
  unfold State.loseHubs
  refine foldl_mem' _ _ _ fun s h => ?_
  split <;> simp

theorem execInjectionResume_wf (s : State) (hs : Memory.wf s.mem = true) {s' : State} (ht : execInjectionResume s = .next s') : Memory.wf
    s'.mem = true := by
  refine next_wf ht ?_
  split
  · exact hs
  · refine foldl_wf _ _ _ (by simp [hs]) fun s hs e => ?_
    split
    · exact State.loseRoutes_wf _ _ _ hs
    · exact hs

@[simp] theorem State.losePacket_wf (s : State) (p : PartNo) (P : Part) (pkt : LostPacket) (src index tk : Nat) (req : Word)
    (hs : Memory.wf s.mem = true) : Memory.wf (State.losePacket s p P pkt src index tk req).mem = true := by
  unfold State.losePacket
  dsimp only
  split <;> simp [hs]

theorem execLostPacket_wf (p : PartNo) (pkt : LostPacket) (s : State) (hs : Memory.wf s.mem = true) {s' : State}
    (ht : execLostPacket p pkt s = .next s') : Memory.wf s'.mem = true := next_wf ht (by dsimp only; (repeat' split) <;> simp [hs])

@[simp] theorem State.handshake_wf (s : State) (link : Link) (ok : Bool) (width : Nat) (hs : Memory.wf s.mem = true) : Memory.wf
    (State.handshake s link ok width).mem = true := by
  unfold State.handshake
  dsimp only
  (repeat' split) <;> simp [hs]

theorem execLinkNarrow_wf (link : Link) (handshake : Bool) (s : State) (hs : Memory.wf s.mem = true) {s' : State}
    (ht : execLinkNarrow link handshake s = .next s') : Memory.wf s'.mem = true := next_wf ht (by simp [hs])

theorem execLinkWiden_wf (link : Link) (handshake : Bool) (s : State) (hs : Memory.wf s.mem = true) {s' : State}
    (ht : execLinkWiden link handshake s = .next s') : Memory.wf s'.mem = true := next_wf ht (by simp [hs])

theorem execCxlPortDown_wf (port : BitVec 3) (s : State) (hs : Memory.wf s.mem = true) {s' : State}
    (ht : execCxlPortDown port s = .next s') : Memory.wf s'.mem = true := next_wf ht (by simp [hs])

theorem execHostWrite_wf (pa : BitVec 52) (bs : List Byte) (s : State) (hs : Memory.wf s.mem = true) {s' : State}
    (ht : execHostWrite pa bs s = .next s') : Memory.wf s'.mem = true := by
  refine next_wf ht ?_
  split
  · exact hs
  · refine foldl_wf _ _ _ hs fun s hs e => ?_
    split
    · exact State.writeAt_wf _ _ _ _ hs
    split
    · exact hs
    · exact State.storeLine_wf _ _ _ _ hs

theorem execHostRead_wf (pa : BitVec 52) (count : BitVec 8) (s : State) (hs : Memory.wf s.mem = true) {s' : State}
    (ht : execHostRead pa count s = .next s') : Memory.wf s'.mem = true := next_wf ht (by split <;> simp [hs])

theorem execRootComplexAcknowledgement_wf (p : PartNo) (line : BitVec 45) (s : State) (hs : Memory.wf s.mem = true) {s' : State}
    (ht : execRootComplexAcknowledgement p line s = .next s') : Memory.wf s'.mem = true := next_wf ht (by simp [hs])

theorem execIeee1588Message_wf (msg : PtpMessage) (s : State) (hs : Memory.wf s.mem = true) {s' : State}
    (ht : execIeee1588Message msg s = .next s') : Memory.wf s'.mem = true := next_wf ht (by (repeat' split) <;> simp [hs])

theorem execTimeOffsetNotice_wf (p : PartNo) (s : State) (hs : Memory.wf s.mem = true) {s' : State}
    (ht : execTimeOffsetNotice p s = .next s') : Memory.wf s'.mem = true := next_wf ht (by split <;> simp [hs])

@[simp] theorem State.setClock_mem (s : State) (die mhz : Nat) : (State.setClock s die mhz).mem = s.mem := rfl

theorem execClockThrottle_wf (die : BitVec 3) (cause : ThrottleCause) (s : State) (hs : Memory.wf s.mem = true) {s' : State}
    (ht : execClockThrottle die cause s = .next s') : Memory.wf s'.mem = true := next_wf ht (by dsimp only; (repeat' split) <;> simp [hs])

theorem execClockRaise_wf (die : BitVec 3) (s : State) (hs : Memory.wf s.mem = true) {s' : State} (ht : execClockRaise die s = .next s') :
    Memory.wf s'.mem = true := next_wf ht (by dsimp only; (repeat' split) <;> simp [hs])

theorem execThermalStop_wf (die : BitVec 3) (s : State) (hs : Memory.wf s.mem = true) {s' : State} (ht : execThermalStop die s = .next s')
    : Memory.wf s'.mem = true := next_wf ht (by dsimp only; (repeat' split) <;> simp [hs])

/-! ### Machine/Fetch -/

theorem Ctx.fetch_wf_error (c : Ctx) (hc : Memory.wf c.s.mem = true) {r : Res} (hr : c.fetch = .error r) : Memory.wf r.state.mem = true := by
  have h := Ctx.translate_wf c .fetch [(0, c.g.pc)] [] (fun c _ => .done c.s) hc fun c _ hc => hc
  unfold Ctx.fetch at hr
  dsimp only at hr
  split at hr
  next ht =>
    rw [ht] at h
    split at hr
    · cases hr
      exact h
    split at hr
    · cases hr
      exact State.consumeBy_wf _ _ _ _ _ _ h
    · cases hr
  · cases hr
    exact h

theorem Ctx.fetch_wf_ok (c : Ctx) (hc : Memory.wf c.s.mem = true) {d : Ctx} {w : Word} (hr : c.fetch = .ok (d, w)) : Memory.wf d.s.mem =
    true := by
  have h := Ctx.translate_wf c .fetch [(0, c.g.pc)] [] (fun c _ => .done c.s) hc fun c _ hc => hc
  unfold Ctx.fetch at hr
  dsimp only at hr
  split at hr
  next ht =>
    rw [ht] at h
    split at hr
    · cases hr
    · split at hr
      · cases hr
      · obtain ⟨rfl, -⟩ := Prod.mk.inj (Except.ok.inj hr)
        simpa using h
  · cases hr

theorem execIllegalInstruction_wf (w : Word) (s : State) (hs : Memory.wf s.mem = true) {s' : State}
    (ht : execIllegalInstruction w s = .next s') : Memory.wf s'.mem = true := issue_wf _ _ _ hs (fun c hc => by simp [hc]) ht

/-! ### Machine/Registers -/

@[simp] theorem State.regWrite_mem (s : State) (p : PartNo) (off : Nat) (ok : Part → Bool) (f : Part → Part) :
    (State.regWrite s p off ok f).mem = s.mem := rfl

@[simp] theorem State.writeShelfc_mem (s : State) (p : PartNo) (v : DWord) : (State.writeShelfc s p v).mem = s.mem := rfl

theorem execShelfcWrite_wf (p : PartNo) (v : DWord) (s : State) (hs : Memory.wf s.mem = true) {s' : State}
    (ht : execShelfcWrite p v s = .next s') : Memory.wf s'.mem = true := next_wf ht (by simp [hs])

@[simp] theorem State.writeWhisk_wf (s : State) (p : PartNo) (v : DWord) (hs : Memory.wf s.mem = true) : Memory.wf
    (State.writeWhisk s p v).mem = true := by
  unfold State.writeWhisk
  (repeat' split) <;> simp_all +contextual [foldl_wf]

theorem execWhiskWrite_wf (p : PartNo) (v : DWord) (s : State) (hs : Memory.wf s.mem = true) {s' : State}
    (ht : execWhiskWrite p v s = .next s') : Memory.wf s'.mem = true := next_wf ht (by simp [hs])

@[simp] theorem State.writeEgg_mem (s : State) (p : PartNo) (v : DWord) : (State.writeEgg s p v).mem = s.mem := rfl

theorem execEggWrite_wf (p : PartNo) (v : DWord) (s : State) (hs : Memory.wf s.mem = true) {s' : State}
    (ht : execEggWrite p v s = .next s') : Memory.wf s'.mem = true := next_wf ht (by simp [hs])

@[simp] theorem State.writeSev_mem (s : State) (p : PartNo) (c : Nat) (v : DWord) : (State.writeSev s p c v).mem = s.mem := rfl

theorem execSevWrite_wf (p : PartNo) (cls : BitVec 4) (v : DWord) (s : State) (hs : Memory.wf s.mem = true) {s' : State}
    (ht : execSevWrite p cls v s = .next s') : Memory.wf s'.mem = true := next_wf ht (by split <;> simp [hs])

@[simp] theorem State.writeInv_mem (s : State) (p : PartNo) (v : DWord) : (State.writeInv s p v).mem = s.mem := rfl

theorem execInvWrite_wf (p : PartNo) (v : DWord) (s : State) (hs : Memory.wf s.mem = true) {s' : State}
    (ht : execInvWrite p v s = .next s') : Memory.wf s'.mem = true := next_wf ht (by simp [hs])

@[simp] theorem State.writeFaultr_mem (s : State) (p : PartNo) (v : DWord) : (State.writeFaultr s p v).mem = s.mem := rfl

theorem execFaultMapped_wf (p : PartNo) (v : DWord) (s : State) (hs : Memory.wf s.mem = true) {s' : State}
    (ht : execFaultMapped p v s = .next s') : Memory.wf s'.mem = true := next_wf ht (by split <;> simp [hs])

theorem execFaultDeclined_wf (p : PartNo) (v : DWord) (s : State) (hs : Memory.wf s.mem = true) {s' : State}
    (ht : execFaultDeclined p v s = .next s') : Memory.wf s'.mem = true := next_wf ht (by split <;> simp [hs])

@[simp] theorem State.queueWrite_mem (s : State) (p : PartNo) (q reg : Nat) (f : Part → Queue → Option Queue) :
    (State.queueWrite s p q reg f).mem = s.mem := rfl

@[simp] theorem State.writeQprod_mem (s : State) (p : PartNo) (q : Nat) (v : DWord) : (State.writeQprod s p q v).mem = s.mem := rfl

theorem execQprodWrite_wf (p : PartNo) (q : BitVec 7) (v : DWord) (s : State) (hs : Memory.wf s.mem = true) {s' : State}
    (ht : execQprodWrite p q v s = .next s') : Memory.wf s'.mem = true := next_wf ht (by simp [hs])

@[simp] theorem State.writeQbase_mem (s : State) (p : PartNo) (q : Nat) (v : DWord) : (State.writeQbase s p q v).mem = s.mem := rfl

theorem execQbaseWrite_wf (p : PartNo) (q : BitVec 7) (v : DWord) (s : State) (hs : Memory.wf s.mem = true) {s' : State}
    (ht : execQbaseWrite p q v s = .next s') : Memory.wf s'.mem = true := next_wf ht (by simp [hs])

@[simp] theorem State.writeQsize_mem (s : State) (p : PartNo) (q : Nat) (v : DWord) : (State.writeQsize s p q v).mem = s.mem := rfl

@[simp] theorem State.writeQcbase_mem (s : State) (p : PartNo) (q : Nat) (v : DWord) : (State.writeQcbase s p q v).mem = s.mem := rfl

@[simp] theorem State.writeQueueReg_mem (s : State) (p : PartNo) (off : Nat) (v : DWord) : (State.writeQueueReg s p off v).mem = s.mem :=
    by
  unfold State.writeQueueReg
  (repeat' split) <;> simp

@[simp] theorem State.writeSpw_mem (s : State) (p : PartNo) (k : Nat) (v : DWord) : (State.writeSpw s p k v).mem = s.mem := rfl

@[simp] theorem State.writeObs_mem (s : State) (p : PartNo) (k : Nat) (v : DWord) : (State.writeObs s p k v).mem = s.mem := rfl

@[simp] theorem State.writeSvccmd_mem (s : State) (p : PartNo) (v : DWord) : (State.writeSvccmd s p v).mem = s.mem := rfl

@[simp] theorem State.writeRegister_wf (s : State) (p : PartNo) (off : Nat) (v : DWord) (hs : Memory.wf s.mem = true) : Memory.wf
    (State.writeRegister s p off v).mem = true := by
  unfold State.writeRegister
  (repeat' split) <;> simp [hs]

/-! ### Machine/Firmware -/

@[simp] theorem State.packetErrors_wf (s : State) (hs : Memory.wf s.mem = true) : Memory.wf (State.packetErrors s).mem = true := by
  unfold State.packetErrors
  exact foldl_wf _ _ _ hs fun s hs e => foldl_wf _ _ _ hs fun s hs k => State.readError_wf _ _ _ _ hs

@[simp] theorem State.settleQueues_mem (s : State) : (State.settleQueues s).mem = s.mem := rfl

theorem execFirmwarePass_wf (s : State) (hs : Memory.wf s.mem = true) {s' : State} (ht : execFirmwarePass s = .next s') : Memory.wf s'.mem
    = true := next_wf ht (by dsimp only; (repeat' split) <;> simp [hs])

@[simp] theorem State.complete_wf (s : State) (p : PartNo) (q : Nat) (pkt : BitVec 512) (status : Nat) (hs : Memory.wf s.mem = true) :
    Memory.wf (State.complete s p q pkt status).mem = true := by
  unfold State.complete
  simp [hs]

@[simp] theorem State.carried_wf (p : PartNo) (q : Nat) (pkt : BitVec 512) (r : State × Carried) (hr : Memory.wf r.1.mem = true) :
    Memory.wf (State.carried p q pkt r).mem = true := by
  unfold State.carried
  split <;> simp [hr]

@[simp] theorem State.carry_wf (s : State) (q : BitVec 7) (pkt : BitVec 512) (kind : PacketKind)
    (body : State → PartNo → Part → State × Carried) (hs : Memory.wf s.mem = true)
    (hbody : ∀ x0, ∀ x1, ∀ x2, Memory.wf x0.mem = true → Memory.wf (body x0 x1 x2).1.mem = true) : Memory.wf
    (State.carry s q pkt kind body).mem = true := by
  unfold State.carry
  split
  · exact hs
  · dsimp only
    split
    · exact hs
    · split
      · exact State.complete_wf _ _ _ _ _ hs
      · exact State.carried_wf _ _ _ _ (hbody _ _ _ hs)

@[simp] theorem onPart_mem (f : Part → Part × Nat) (s : State) (p : PartNo) (P : Part) : (onPart f s p P).1.mem = s.mem := rfl

theorem execReset_wf (q : BitVec 7) (pkt : BitVec 512) (s : State) (hs : Memory.wf s.mem = true) {s' : State}
    (ht : execReset q pkt s = .next s') : Memory.wf s'.mem = true := next_wf ht (by simp +contextual [hs])

theorem execNopPacket_wf (q : BitVec 7) (pkt : BitVec 512) (s : State) (hs : Memory.wf s.mem = true) {s' : State}
    (ht : execNopPacket q pkt s = .next s') : Memory.wf s'.mem = true := next_wf ht (by simp +contextual [hs])

theorem execUnknownPacket_wf (q : BitVec 7) (pkt : BitVec 512) (s : State) (hs : Memory.wf s.mem = true) {s' : State}
    (ht : execUnknownPacket q pkt s = .next s') : Memory.wf s'.mem = true := next_wf ht (by simp +contextual [hs])

theorem execSetmode_wf (q : BitVec 7) (pkt : BitVec 512) (s : State) (hs : Memory.wf s.mem = true) {s' : State}
    (ht : execSetmode q pkt s = .next s') : Memory.wf s'.mem = true := next_wf ht
    (State.carry_wf _ _ _ _ _ hs fun s p P hs => by dsimp only; (repeat' split) <;> simp [hs])

@[simp] theorem State.keepStream_wf (s : State) (p : PartNo) (P : Part) (k : Nat) (st : Stream) (hs : Memory.wf s.mem = true) : Memory.wf
    (State.keepStream s p P k st).mem = true := by
  unfold State.keepStream
  simp [hs]

theorem execAttach_wf (q : BitVec 7) (pkt : BitVec 512) (s : State) (hs : Memory.wf s.mem = true) {s' : State}
    (ht : execAttach q pkt s = .next s') : Memory.wf s'.mem = true := next_wf ht
    (State.carry_wf _ _ _ _ _ hs fun s p P hs => by dsimp only; (repeat' split) <;> simp [hs])

theorem execExtend_wf (q : BitVec 7) (pkt : BitVec 512) (s : State) (hs : Memory.wf s.mem = true) {s' : State}
    (ht : execExtend q pkt s = .next s') : Memory.wf s'.mem = true := next_wf ht
    (State.carry_wf _ _ _ _ _ hs fun s p P hs => by dsimp only; (repeat' split) <;> simp [hs])

theorem execDetach_wf (q : BitVec 7) (pkt : BitVec 512) (s : State) (hs : Memory.wf s.mem = true) {s' : State}
    (ht : execDetach q pkt s = .next s') : Memory.wf s'.mem = true := next_wf ht (by simp +contextual [hs])

theorem execBuffers_wf (q : BitVec 7) (pkt : BitVec 512) (s : State) (hs : Memory.wf s.mem = true) {s' : State}
    (ht : execBuffers q pkt s = .next s') : Memory.wf s'.mem = true := next_wf ht
    (State.carry_wf _ _ _ _ _ hs fun s p P hs => by dsimp only; (repeat' split) <;> simp [hs])

theorem execConsume_wf (q : BitVec 7) (pkt : BitVec 512) (s : State) (hs : Memory.wf s.mem = true) {s' : State}
    (ht : execConsume q pkt s = .next s') : Memory.wf s'.mem = true := next_wf ht
    (State.carry_wf _ _ _ _ _ hs fun s p P hs => by dsimp only; (repeat' split) <;> simp [hs])

theorem execResume_wf (q : BitVec 7) (pkt : BitVec 512) (s : State) (hs : Memory.wf s.mem = true) {s' : State}
    (ht : execResume q pkt s = .next s') : Memory.wf s'.mem = true := next_wf ht
    (State.carry_wf _ _ _ _ _ hs fun s p P hs => by dsimp only; (repeat' split) <;> simp [hs])

theorem execLaunch_wf (q : BitVec 7) (pkt : BitVec 512) (s : State) (hs : Memory.wf s.mem = true) {s' : State}
    (ht : execLaunch q pkt s = .next s') : Memory.wf s'.mem = true := next_wf ht
    (State.carry_wf _ _ _ _ _ hs fun s p P hs => by dsimp only; (repeat' split) <;> simp [hs])

theorem execSignalSet_wf (q : BitVec 7) (pkt : BitVec 512) (s : State) (hs : Memory.wf s.mem = true) {s' : State}
    (ht : execSignalSet q pkt s = .next s') : Memory.wf s'.mem = true := next_wf ht (by simp +contextual [hs])

theorem execSignalAdd_wf (q : BitVec 7) (pkt : BitVec 512) (s : State) (hs : Memory.wf s.mem = true) {s' : State}
    (ht : execSignalAdd q pkt s = .next s') : Memory.wf s'.mem = true := next_wf ht (by simp +contextual [hs])

theorem execWait_wf (q : BitVec 7) (pkt : BitVec 512) (s : State) (hs : Memory.wf s.mem = true) {s' : State}
    (ht : execWait q pkt s = .next s') : Memory.wf s'.mem = true := next_wf ht
    (State.carry_wf _ _ _ _ _ hs fun s p P hs => by (repeat' split) <;> simp [hs])

/-! ### Machine/Matrix -/

@[simp] theorem Ctx.held_wf (c : Ctx) (h op : Nat) (body : Reservation → Res) (hc : Memory.wf c.s.mem = true)
    (hbody : ∀ x0, Memory.wf (body x0).state.mem = true) : Memory.wf (Ctx.held c h op body).state.mem = true := by
  unfold Ctx.held
  (repeat' split) <;> simp_all

@[simp] theorem Ctx.tileName_wf (c : Ctx) (t : BitVec 3) (body : Option Nat → Res) (hc : Memory.wf c.s.mem = true)
    (hbody : ∀ x0, Memory.wf (body x0).state.mem = true) : Memory.wf (Ctx.tileName c t body).state.mem = true := by
  unfold Ctx.tileName
  (repeat' split) <;> simp_all

@[simp] theorem Ctx.tileBound_wf (c : Ctx) (t : BitVec 3) (body : Nat → Res) (hc : Memory.wf c.s.mem = true)
    (hbody : ∀ x0, Memory.wf (body x0).state.mem = true) : Memory.wf (Ctx.tileBound c t body).state.mem = true := by
  unfold Ctx.tileBound
  refine Ctx.tileName_wf _ _ _ hc fun x => ?_
  split
  · exact hc
  · exact hbody _

@[simp] theorem Ctx.matrixRoom_wf (c : Ctx) (body : Res) (hc : Memory.wf c.s.mem = true) (hbody : Memory.wf (body).state.mem = true) :
    Memory.wf (Ctx.matrixRoom c body).state.mem = true := by
  unfold Ctx.matrixRoom
  (repeat' split) <;> simp_all

@[simp] theorem Ctx.enqueue_mem (c : Ctx) (work : MatrixWork) (tile : Option (Nat × Nat)) (ranges : List (Nat × Nat)) (bno : Nat) (l : La)
    : (Ctx.enqueue c work tile ranges bno l).state.mem = c.s.mem := rfl

theorem execObres_wf (x y : SReg) (l : La) (s : State) (hs : Memory.wf s.mem = true) {s' : State} (ht : execObres x y l s = .next s') :
    Memory.wf s'.mem = true := issue_wf _ _ _ hs (fun c hc => by dsimp only; (repeat' split) <;> simp [hc]) ht

theorem execObrel_wf (y : SReg) (l : La) (s : State) (hs : Memory.wf s.mem = true) {s' : State} (ht : execObrel y l s = .next s') :
    Memory.wf s'.mem = true := by
  refine issue_wf _ _ _ hs (fun c hc => ?_) ht
  dsimp only
  split
  · exact hc
  refine Ctx.held_wf _ _ _ _ hc fun r => ?_
  split
  · exact hc
  · simp [hc]

theorem execObld_wf (x y : SReg) (l : La) (s : State) (hs : Memory.wf s.mem = true) {s' : State} (ht : execObld x y l s = .next s') :
    Memory.wf s'.mem = true := by
  refine issue_wf _ _ _ hs (fun c hc => ?_) ht
  dsimp only
  split
  · exact hc
  split
  · exact hc
  refine Ctx.held_wf _ _ _ _ hc fun r => ?_
  split
  · exact hc
  split
  · exact hc
  · exact Ctx.matrixRoom_wf _ _ hc (by simp [hc])

theorem execGath_wf (x y : SReg) (l : La) (p : VReg) (s : State) (hs : Memory.wf s.mem = true) {s' : State}
    (ht : execGath x y l p s = .next s') : Memory.wf s'.mem = true := by
  refine issue_wf _ _ _ hs (fun c hc => ?_) ht
  dsimp only
  split
  · exact hc
  split
  · exact hc
  refine Ctx.held_wf _ _ _ _ hc fun r => ?_
  split
  · exact hc
  split
  · exact hc
  split
  · exact hc
  · exact Ctx.matrixRoom_wf _ _ hc (by simp [hc])

theorem execMrdy_wf (s : State) (hs : Memory.wf s.mem = true) {s' : State} (ht : execMrdy s = .next s') : Memory.wf s'.mem = true :=
    issue_wf _ _ _ hs (fun c hc => by split <;> simp [hc]) ht

@[simp] theorem Ctx.steps_wf (c : Ctx) (a b : StepPtr) (da db : Int) (n : Nat) (t : BitVec 3) (op : Nat) (l : La)
    (hc : Memory.wf c.s.mem = true) : Memory.wf (Ctx.steps c a b da db n t op l).state.mem = true := by
  unfold Ctx.steps
  dsimp only
  split
  · exact hc
  refine Ctx.tileBound_wf _ _ _ hc fun phys => Ctx.held_wf _ _ _ _ hc fun ra => Ctx.held_wf _ _ _ _ hc fun rb => ?_
  split
  · exact hc
  split
  · exact hc
  split
  · exact hc
  · exact Ctx.matrixRoom_wf _ _ hc (by simp [hc])

theorem execMstep_wf (x y : SReg) (l : La) (t : BitVec 3) (s : State) (hs : Memory.wf s.mem = true) {s' : State}
    (ht : execMstep x y l t s = .next s') : Memory.wf s'.mem = true := issue_wf _ _ _ hs
    (fun c hc => by dsimp only; (repeat' split) <;> simp [hc]) ht

theorem execMloop_wf (x y : SReg) (l : La) (t : BitVec 3) (s : State) (hs : Memory.wf s.mem = true) {s' : State}
    (ht : execMloop x y l t s = .next s') : Memory.wf s'.mem = true := issue_wf _ _ _ hs
    (fun c hc => by dsimp only; (repeat' split) <;> simp [hc]) ht

theorem execMfence_wf (x : SReg) (l : La) (s : State) (hs : Memory.wf s.mem = true) {s' : State} (ht : execMfence x l s = .next s') :
    Memory.wf s'.mem = true := issue_wf _ _ _ hs (fun c hc => by simp [hc]) ht

@[simp] theorem Ctx.unholdBatch_mem (c : Ctx) (n : Nat) : (Ctx.unholdBatch c n).s.mem = c.s.mem := rfl

@[simp] theorem Ctx.awaitBatch_wf (c : Ctx) (age : Nat) (body : Ctx → Res) (hc : Memory.wf c.s.mem = true)
    (hbody : ∀ x0, Memory.wf x0.s.mem = true → Memory.wf (body x0).state.mem = true) : Memory.wf (Ctx.awaitBatch c age body).state.mem =
    true := by
  unfold Ctx.awaitBatch
  (repeat' split) <;> simp_all

theorem execMwait_wf (x : SReg) (s : State) (hs : Memory.wf s.mem = true) {s' : State} (ht : execMwait x s = .next s') : Memory.wf s'.mem
    = true := by
  refine issue_wf _ _ _ hs (fun c hc => ?_) ht
  dsimp only
  split
  · exact hc
  · exact Ctx.awaitBatch_wf _ _ _ hc fun _ hc => hc

theorem execNanc_wf (d a : SReg) (s : State) (hs : Memory.wf s.mem = true) {s' : State} (ht : execNanc d a s = .next s') : Memory.wf
    s'.mem = true := by
  refine issue_wf _ _ _ hs (fun c hc => ?_) ht
  dsimp only
  split
  · exact hc
  split
  · simp [hc]
  · exact Ctx.awaitBatch_wf _ _ _ hc fun c hc => by simp [hc]

theorem execSrseed_wf (a : SReg) (s : State) (hs : Memory.wf s.mem = true) {s' : State} (ht : execSrseed a s = .next s') : Memory.wf
    s'.mem = true := issue_wf _ _ _ hs (fun c hc => by simp [hc]) ht

@[simp] theorem Ctx.setTile_mem (c : Ctx) (phys : Nat) (t : Tile) : (Ctx.setTile c phys t).s.mem = c.s.mem := rfl

@[simp] theorem Ctx.writeTile_mem (c : Ctx) (phys : Nat) (t : Tile) : (Ctx.writeTile c phys t).s.mem = c.s.mem := rfl

@[simp] theorem Ctx.freshTile_mem (c : Ctx) (phys : Nat) (t : Tile) : (Ctx.freshTile c phys t).s.mem = c.s.mem := rfl

@[simp] theorem Ctx.onTile_wf (c : Ctx) (t : BitVec 3) (body : Nat → Tile → Res) (hc : Memory.wf c.s.mem = true)
    (hbody : ∀ x0, ∀ x1, Memory.wf (body x0 x1).state.mem = true) : Memory.wf (Ctx.onTile c t body).state.mem = true := by
  unfold Ctx.onTile
  refine Ctx.tileBound_wf _ _ _ hc fun phys => ?_
  split
  · exact hc
  · exact hbody _ _

theorem execAcfg_wf (y : SReg) (f : BitVec 2) (l : La) (t : BitVec 3) (s : State) (hs : Memory.wf s.mem = true) {s' : State}
    (ht : execAcfg y f l t s = .next s') : Memory.wf s'.mem = true := by
  refine issue_wf _ _ _ hs (fun c hc => ?_) ht
  dsimp only
  split
  · exact hc
  split
  · exact Ctx.onTile_wf _ _ _ hc fun phys x => by simp [hc]
  refine Ctx.tileName_wf _ _ _ hc fun bound => ?_
  split
  · split <;> simp [hc]
  · split <;> simp [hc]

theorem execArel_wf (l : La) (t : BitVec 3) (s : State) (hs : Memory.wf s.mem = true) {s' : State} (ht : execArel l t s = .next s') :
    Memory.wf s'.mem = true := issue_wf _ _ _ hs (fun c hc => Ctx.tileName_wf _ _ _ hc fun _ => by (repeat' split) <;> simp [hc]) ht

theorem execAzero_wf (l : La) (t : BitVec 3) (s : State) (hs : Memory.wf s.mem = true) {s' : State} (ht : execAzero l t s = .next s') :
    Memory.wf s'.mem = true := issue_wf _ _ _ hs (fun c hc => by simp [hc]) ht

@[simp] theorem Ctx.cells_wf (c : Ctx) (op : Nat) (t : BitVec 3) (part : Nat) (body : Ty → Nat → Tile → Res)
    (hc : Memory.wf c.s.mem = true) (hbody : ∀ x0, ∀ x1, ∀ x2, Memory.wf (body x0 x1 x2).state.mem = true) : Memory.wf
    (Ctx.cells c op t part body).state.mem = true := by
  unfold Ctx.cells
  refine Ctx.typed_wf _ _ _ _ hc fun ty => ?_
  split
  · exact hc
  · exact Ctx.onTile_wf _ _ _ hc fun phys x => hbody _ _ _

theorem execArd_wf (v : VReg) (t : BitVec 3) (r : BitVec 7) (l : La) (p : BitVec 4) (s : State) (hs : Memory.wf s.mem = true) {s' : State}
    (ht : execArd v t r l p s = .next s') : Memory.wf s'.mem = true := issue_wf _ _ _ hs
    (fun c hc => Ctx.cells_wf _ _ _ _ _ hc fun _ _ _ => by dsimp only; (repeat' split) <;> simp [hc]) ht

theorem execAwr_wf (v : VReg) (t : BitVec 3) (r : BitVec 7) (l : La) (p : BitVec 4) (s : State) (hs : Memory.wf s.mem = true) {s' : State}
    (ht : execAwr v t r l p s = .next s') : Memory.wf s'.mem = true := issue_wf _ _ _ hs (fun c hc => by simp [hc]) ht

theorem execAscal_wf (v : VReg) (t : BitVec 3) (r : BitVec 7) (l : La) (s : State) (hs : Memory.wf s.mem = true) {s' : State}
    (ht : execAscal v t r l s = .next s') : Memory.wf s'.mem = true := by
  refine issue_wf _ _ _ hs (fun c hc => Ctx.typed_wf _ _ _ _ hc fun ty => ?_) ht
  split
  · exact hc
  refine Ctx.onTile_wf _ _ _ hc fun phys x => ?_
  dsimp only
  split
  · exact State.consumeBy_wf _ _ _ _ _ _ hc
  · simp [hc]

@[simp] theorem Ctx.moveRows_wf (c : Ctx) (x y : SReg) (t : BitVec 3) (l : La) (save : Bool) (hc : Memory.wf c.s.mem = true) : Memory.wf
    (Ctx.moveRows c x y t l save).state.mem = true := by
  unfold Ctx.moveRows
  dsimp only
  split
  · exact hc
  split
  · exact hc
  refine Ctx.tileBound_wf _ _ _ hc fun phys => ?_
  split
  · exact hc
  · exact Ctx.matrixRoom_wf _ _ hc (by simp [hc])

theorem execAsave_wf (x y : SReg) (l : La) (t : BitVec 3) (s : State) (hs : Memory.wf s.mem = true) {s' : State}
    (ht : execAsave x y l t s = .next s') : Memory.wf s'.mem = true := issue_wf _ _ _ hs (fun c hc => by simp [hc]) ht

theorem execAload_wf (x y : SReg) (l : La) (t : BitVec 3) (s : State) (hs : Memory.wf s.mem = true) {s' : State}
    (ht : execAload x y l t s = .next s') : Memory.wf s'.mem = true := issue_wf _ _ _ hs (fun c hc => by simp [hc]) ht

@[simp] theorem Ctx.fillMove_wf (c : Ctx) (m : MatrixOp) (mv : Nat × Nat × Nat) (rest : List (Nat × Nat × Nat))
    (hc : Memory.wf c.s.mem = true) : Memory.wf (Ctx.fillMove c m mv rest).mem = true := by
  unfold Ctx.fillMove
  split <;> simp [hc]

theorem execFillLanding_wf (p : PartNo) (op : Nat) (s : State) (hs : Memory.wf s.mem = true) {s' : State}
    (ht : execFillLanding p op s = .next s') : Memory.wf s'.mem = true := by
  refine next_wf ht ?_
  split
  · exact hs
  split
  · split
    next hc =>
      split
      · exact Ctx.fillMove_wf _ _ _ _ (State.ctx?_wf _ _ _ hs hc)
      · exact hs
    · exact hs
  · exact hs

@[simp] theorem Ctx.matrixDone_mem (c : Ctx) (m : MatrixOp) : (Ctx.matrixDone c m).mem = c.s.mem := rfl

@[simp] theorem Ctx.runStep_wf (c : Ctx) (m : MatrixOp) (k : Core) (phys : Nat) (a b : StepPtr) (da db : Int) (left : Nat)
    (check : CheckResult) (hc : Memory.wf c.s.mem = true) : Memory.wf (Ctx.runStep c m k phys a b da db left check).mem = true := by
  unfold Ctx.runStep
  split
  · extract_lets read ea eb cells c1 n g c2 c3 next
    have h1 : Memory.wf c1.s.mem = true := by rw [Ctx.writeTile_mem]; exact hc
    have h2 : Memory.wf c2.s.mem = true := by
      unfold c2; split
      · exact h1
      · rw [Ctx.setG_mem]; exact h1
    have h3 : Memory.wf c3.s.mem = true := by
      unfold c3; split
      · rw [Ctx.reload_mem]; exact State.severity_wf _ _ _ _ _ _ _ _ _ _ h2
      · exact h2
    split
    · exact State.consumeBy_wf _ _ _ _ _ _ hc
    · split
      · exact State.consumeBy_wf _ _ _ _ _ _ hc
      · split
        · rw [Ctx.matrixDone_mem]; exact h3
        · rw [State.setPart_mem]; exact h3
  · exact hc

@[simp] theorem Ctx.movedPiece_mem (c : Ctx) (m : MatrixOp) (n moved : Nat) (work : Nat → MatrixWork) :
    (Ctx.movedPiece c m n moved work).mem = c.s.mem := by
  unfold Ctx.movedPiece
  split <;> simp

@[simp] theorem Ctx.runSave_wf (c : Ctx) (m : MatrixOp) (x : Tile) (r0 n addr moved : Nat) (hc : Memory.wf c.s.mem = true) : Memory.wf
    (Ctx.runSave c m x r0 n addr moved).mem = true := by
  unfold Ctx.runSave
  dsimp only
  split <;> simp [hc]

@[simp] theorem Ctx.runLoad_wf (c : Ctx) (m : MatrixOp) (phys : Nat) (x : Tile) (r0 n addr moved : Nat) (hc : Memory.wf c.s.mem = true) :
    Memory.wf (Ctx.runLoad c m phys x r0 n addr moved).mem = true := by
  unfold Ctx.runLoad
  split <;> simp [hc]

@[simp] theorem Ctx.runMatrix_wf (c : Ctx) (m : MatrixOp) (k : Core) (check : CheckResult) (hc : Memory.wf c.s.mem = true) : Memory.wf
    (Ctx.runMatrix c m k check).mem = true := by
  unfold Ctx.runMatrix
  (repeat' split) <;> simp [hc]

theorem execMatrixStep_wf (p : PartNo) (core : BitVec 7) (check : CheckResult) (s : State) (hs : Memory.wf s.mem = true) {s' : State}
    (ht : execMatrixStep p core check s = .next s') : Memory.wf s'.mem = true := by
  refine next_wf ht ?_
  split
  · exact hs
  split
  · exact hs
  split
  · exact hs
  next hc => exact Ctx.runMatrix_wf _ _ _ _ (State.ctx?_wf _ _ _ hs hc)

/-! ### Machine/Package -/

@[simp] theorem State.measure_mem (s : State) (k : Nat) (d : BitVec 512) : (State.measure s k d).mem = s.mem := by
  unfold State.measure
  generalize extendMeasure _ _ = x
  rfl

theorem execPowerOnBoot_wf (images : BootImages) (s : State) (hs : Memory.wf s.mem = true) {s' : State}
    (ht : execPowerOnBoot images s = .next s') : Memory.wf s'.mem = true := next_wf ht (by (repeat' split) <;> simp [hs])

theorem execFunctionLevelReset_wf (p : PartNo) (s : State) (hs : Memory.wf s.mem = true) {s' : State}
    (ht : execFunctionLevelReset p s = .next s') : Memory.wf s'.mem = true := next_wf ht (by simp [hs])

@[simp] theorem State.pfCommand_wf (s : State) (arg0 arg1 : DWord) (body : DWord → DWord → State → State × Nat)
    (hs : Memory.wf s.mem = true) (hbody : ∀ x0, ∀ x1, ∀ x2, Memory.wf x2.mem = true → Memory.wf (body x0 x1 x2).1.mem = true) : Memory.wf
    (State.pfCommand s arg0 arg1 body).mem = true := by
  unfold State.pfCommand
  dsimp only
  (repeat' split) <;> simp +contextual [*]

@[simp] theorem State.createPartitionBody_mem (arg0 arg1 : DWord) (s : State) : (State.createPartitionBody arg0 arg1 s).1.mem = s.mem :=
    by
  unfold State.createPartitionBody
  dsimp only
  split <;> simp

theorem execCreatePartition_wf (arg0 arg1 : DWord) (s : State) (hs : Memory.wf s.mem = true) {s' : State}
    (ht : execCreatePartition arg0 arg1 s = .next s') : Memory.wf s'.mem = true := next_wf ht (by simp [hs])

@[simp] theorem State.destroyPartitionBody_mem (arg0 _arg : DWord) (s : State) : (State.destroyPartitionBody arg0 _arg s).1.mem = s.mem :=
    by
  unfold State.destroyPartitionBody
  dsimp only
  (repeat' split) <;> simp

theorem execDestroyPartition_wf (arg0 arg1 : DWord) (s : State) (hs : Memory.wf s.mem = true) {s' : State}
    (ht : execDestroyPartition arg0 arg1 s = .next s') : Memory.wf s'.mem = true := next_wf ht (by simp [hs])

@[simp] theorem State.setGranuleKeyBody_mem (arg0 arg1 : DWord) (s : State) : (State.setGranuleKeyBody arg0 arg1 s).1.mem = s.mem := by
  unfold State.setGranuleKeyBody
  (repeat' split) <;> simp

theorem execSetGranuleKey_wf (arg0 arg1 : DWord) (s : State) (hs : Memory.wf s.mem = true) {s' : State}
    (ht : execSetGranuleKey arg0 arg1 s = .next s') : Memory.wf s'.mem = true := next_wf ht (by simp [hs])

@[simp] theorem State.grant_mem (s : State) (q : Nat) (dest : Option Nat) : (State.grant s q dest).mem = s.mem := rfl

@[simp] theorem State.grantQueueBody_mem (arg0 arg1 : DWord) (s : State) : (State.grantQueueBody arg0 arg1 s).1.mem = s.mem := by
  unfold State.grantQueueBody
  dsimp only
  (repeat' split) <;> simp

theorem execGrantQueue_wf (arg0 arg1 : DWord) (s : State) (hs : Memory.wf s.mem = true) {s' : State}
    (ht : execGrantQueue arg0 arg1 s = .next s') : Memory.wf s'.mem = true := next_wf ht (by simp [hs])

@[simp] theorem State.grantPortBody_mem (arg0 arg1 : DWord) (s : State) : (State.grantPortBody arg0 arg1 s).1.mem = s.mem := by
  unfold State.grantPortBody
  dsimp only
  (repeat' split) <;> simp

theorem execGrantPort_wf (arg0 arg1 : DWord) (s : State) (hs : Memory.wf s.mem = true) {s' : State}
    (ht : execGrantPort arg0 arg1 s = .next s') : Memory.wf s'.mem = true := next_wf ht (by simp [hs])

@[simp] theorem State.setSharedSeverityBody_mem (arg0 arg1 : DWord) (s : State) : (State.setSharedSeverityBody arg0 arg1 s).1.mem = s.mem
    := by
  unfold State.setSharedSeverityBody
  (repeat' split) <;> simp

theorem execSetSharedSeverity_wf (arg0 arg1 : DWord) (s : State) (hs : Memory.wf s.mem = true) {s' : State}
    (ht : execSetSharedSeverity arg0 arg1 s = .next s') : Memory.wf s'.mem = true := next_wf ht (by simp [hs])

@[simp] theorem State.refuseUpdate_mem (s : State) : (State.refuseUpdate s).mem = s.mem := rfl

@[simp] theorem State.toSuccessorArea_wf (s : State) (ws : List DWord) (hs : Memory.wf s.mem = true) : Memory.wf
    (State.toSuccessorArea s ws).mem = true := by
  unfold State.toSuccessorArea
  refine foldl_wf _ _ _ hs fun s hs e => ?_
  split
  · exact State.storeWords_wf _ _ _ hs
  · exact hs

@[simp] theorem State.updateFirmwareBody_wf (arg0 arg1 : DWord) (s : State) (hs : Memory.wf s.mem = true) : Memory.wf
    (State.updateFirmwareBody arg0 arg1 s).1.mem = true := by
  unfold State.updateFirmwareBody
  (repeat' split) <;> simp_all +contextual [foldl_wf]

theorem execUpdateFirmware_wf (arg0 arg1 : DWord) (s : State) (hs : Memory.wf s.mem = true) {s' : State}
    (ht : execUpdateFirmware arg0 arg1 s = .next s') : Memory.wf s'.mem = true := next_wf ht (by simp_all)

theorem execFirmwareHandover_wf (s : State) (hs : Memory.wf s.mem = true) {s' : State} (ht : execFirmwareHandover s = .next s') :
    Memory.wf s'.mem = true := next_wf ht (by (repeat' split) <;> simp [hs])

theorem State.pfBody_wf (cmd : Nat) (a b : DWord) (s : State) (hs : Memory.wf s.mem = true) : Memory.wf (State.pfBody cmd a b s).1.mem =
    true := by
  unfold State.pfBody
  split <;> simp [hs]

@[simp] theorem State.writePf_wf (s : State) (off : Nat) (v : DWord) (hs : Memory.wf s.mem = true) : Memory.wf (State.writePf s off v).mem
    = true := by
  unfold State.writePf
  split
  · exact State.pfCommand_wf _ _ _ _ hs fun a b s hs => State.pfBody_wf _ _ _ _ hs
  · exact hs
  · exact hs
  · exact hs
  · exact hs
  · exact hs

theorem execRegisterWrite_wf (f : PcieFunction) (off : BitVec 16) (v : DWord) (s : State) (hs : Memory.wf s.mem = true) {s' : State}
    (ht : execRegisterWrite f off v s = .next s') : Memory.wf s'.mem = true := next_wf ht (by split <;> simp [hs])

/-! ### Machine/Services -/

@[simp] theorem State.service_wf (s : State) (p : PartNo) (gid : Nat) (num : BitVec 16 → Bool) (body : Ctx → State)
    (hs : Memory.wf s.mem = true) (hbody : ∀ x0, Memory.wf x0.s.mem = true → Memory.wf (body x0).mem = true) : Memory.wf
    (State.service s p gid num body).mem = true := by
  unfold State.service
  split
  · exact hs
  next c hc =>
    split
    · split
      · exact hbody _ (State.ctx?_wf _ _ _ hs hc)
      · exact hs
    · exact hs

@[simp] theorem Ctx.answer_mem (c : Ctx) (P : Part) (status : DWord) : (Ctx.answer c P status).mem = c.s.mem := rfl

theorem execNull_wf (p : PartNo) (gid : Nat) (s : State) (hs : Memory.wf s.mem = true) {s' : State} (ht : execNull p gid s = .next s') :
    Memory.wf s'.mem = true := next_wf ht (by simp +contextual [hs])

theorem execDebug_wf (p : PartNo) (gid : Nat) (s : State) (hs : Memory.wf s.mem = true) {s' : State} (ht : execDebug p gid s = .next s') :
    Memory.wf s'.mem = true := next_wf ht (by simp +contextual [hs])

theorem execSigadd_wf (p : PartNo) (gid : Nat) (s : State) (hs : Memory.wf s.mem = true) {s' : State} (ht : execSigadd p gid s = .next s')
    : Memory.wf s'.mem = true := next_wf ht (State.service_wf _ _ _ _ _ hs fun c hc => by (repeat' split) <;> simp [hc])

theorem execSleep_wf (p : PartNo) (gid : Nat) (s : State) (hs : Memory.wf s.mem = true) {s' : State} (ht : execSleep p gid s = .next s') :
    Memory.wf s'.mem = true := next_wf ht (State.service_wf _ _ _ _ _ hs fun c hc => by (repeat' split) <;> simp [hc])

theorem execSleepExpiry_wf (p : PartNo) (gid : Nat) (s : State) (hs : Memory.wf s.mem = true) {s' : State}
    (ht : execSleepExpiry p gid s = .next s') : Memory.wf s'.mem = true := by
  refine next_wf ht ?_
  split
  · exact hs
  next hc =>
    split
    · simp [State.ctx?_wf _ _ _ hs hc]
    · exact hs

theorem execUnknownService_wf (p : PartNo) (gid : Nat) (s : State) (hs : Memory.wf s.mem = true) {s' : State}
    (ht : execUnknownService p gid s = .next s') : Memory.wf s'.mem = true := next_wf ht (by simp +contextual [hs])

@[simp] theorem State.command_wf (s : State) (p : PartNo) (cmd : Nat) (body : State → Part → State × Nat) (hs : Memory.wf s.mem = true)
    (hbody : ∀ x0, ∀ x1, Memory.wf x0.mem = true → Memory.wf (body x0 x1).1.mem = true) : Memory.wf (State.command s p cmd body).mem =
    true := by
  unfold State.command
  dsimp only
  (repeat' split) <;> simp +contextual [*]

theorem execFreeze_wf (p : PartNo) (s : State) (hs : Memory.wf s.mem = true) {s' : State} (ht : execFreeze p s = .next s') : Memory.wf
    s'.mem = true := next_wf ht (State.command_wf _ _ _ _ hs fun s P hs => by (repeat' split) <;> simp [hs])

theorem execRegisterImageArea_wf (p : PartNo) (s : State) (hs : Memory.wf s.mem = true) {s' : State}
    (ht : execRegisterImageArea p s = .next s') : Memory.wf s'.mem = true := next_wf ht
    (State.command_wf _ _ _ _ hs fun s P hs => by dsimp only; (repeat' split) <;> simp [hs])

theorem execCopyTableEntry_wf (p : PartNo) (s : State) (hs : Memory.wf s.mem = true) {s' : State} (ht : execCopyTableEntry p s = .next s')
    : Memory.wf s'.mem = true := by
  refine next_wf ht (State.command_wf _ _ _ _ hs fun s P hs => ?_)
  split
  · exact hs
  dsimp only
  split
  · exact State.storeNum_wf _ _ _ _ hs
  · exact hs

theorem execClearSpoil_wf (p : PartNo) (s : State) (hs : Memory.wf s.mem = true) {s' : State} (ht : execClearSpoil p s = .next s') :
    Memory.wf s'.mem = true := next_wf ht (State.command_wf _ _ _ _ hs fun s P hs => by dsimp only; (repeat' split) <;> simp [hs])

theorem execCopyDebugRing_wf (p : PartNo) (s : State) (hs : Memory.wf s.mem = true) {s' : State} (ht : execCopyDebugRing p s = .next s') :
    Memory.wf s'.mem = true := by
  refine next_wf ht (State.command_wf _ _ _ _ hs fun s P hs => ?_)
  dsimp only
  split
  · exact hs
  · exact State.store_wf _ _ _ hs

@[simp] theorem State.placeSegment_wf (s : State) (P : Part) (x : Config.LvcSegment) (hs : Memory.wf s.mem = true) : Memory.wf
    (State.placeSegment s P x).mem = true := by
  unfold State.placeSegment; (repeat' split) <;> simp_all +contextual
      [-State.store_mem, -State.storeNum_mem, foldl_wf]

@[simp] theorem State.loadSegments_wf (s : State) (p : PartNo) (header : BitVec 512) (xs : List LvcSegment) (kerns : List Nat)
    (numbers : List (Nat × Bool)) (hs : Memory.wf s.mem = true) : Memory.wf (s.loadSegments p header xs kerns numbers).1.mem = true := by
  induction xs generalizing s kerns numbers with
  | nil => exact hs
  | cons x xs ih =>
    unfold State.loadSegments
    split
    · exact hs
    · split
      · exact hs
      · exact ih _ _ _ (by simp [hs])

@[simp] theorem State.placeObjects_wf (s : State) (P : Part) (objects : List (DWord × Nat)) (numbers : List Nat)
    (hs : Memory.wf s.mem = true) : Memory.wf (State.placeObjects s P objects numbers).mem = true := by
  unfold State.placeObjects
  refine foldl_wf _ _ _ hs fun s hs o => ?_
  split
  · exact State.storeNum_wf _ _ _ _ hs
  · exact hs

theorem execLoadLvc_wf (p : PartNo) (s : State) (hs : Memory.wf s.mem = true) {s' : State} (ht : execLoadLvc p s = .next s') : Memory.wf
    s'.mem = true := by
  unfold execLoadLvc at ht
  refine next_wf ht (State.command_wf _ _ _ _ hs fun s P hs => ?_)
  dsimp only
  split
  · simp [hs]
  · split
    · exact hs
    · split
      · exact hs
      · split
        · exact hs
        · split
          next s' hr =>
            obtain ⟨rfl, -⟩ := Prod.mk.inj hr
            simp [hs]
          next s' hr =>
            have h : Memory.wf s'.mem = true := by
              obtain ⟨rfl, -⟩ := Prod.mk.inj hr
              simp [hs]
            split
            · exact h
            · simp [h]

theorem execUnloadKernel_wf (p : PartNo) (s : State) (hs : Memory.wf s.mem = true) {s' : State} (ht : execUnloadKernel p s = .next s') :
    Memory.wf s'.mem = true := next_wf ht (State.command_wf _ _ _ _ hs fun s P hs => by dsimp only; (repeat' split) <;> simp [hs])

theorem execSetTrustedKey_wf (p : PartNo) (s : State) (hs : Memory.wf s.mem = true) {s' : State} (ht : execSetTrustedKey p s = .next s') :
    Memory.wf s'.mem = true := next_wf ht (State.command_wf _ _ _ _ hs fun s P hs => by dsimp only; (repeat' split) <;> simp [hs])

theorem execExtendMeasurement_wf (p : PartNo) (s : State) (hs : Memory.wf s.mem = true) {s' : State}
    (ht : execExtendMeasurement p s = .next s') : Memory.wf s'.mem = true := next_wf ht
    (State.command_wf _ _ _ _ hs fun s P hs => by dsimp only; (repeat' split) <;> simp [hs])

theorem execAttest_wf (p : PartNo) (s : State) (hs : Memory.wf s.mem = true) {s' : State} (ht : execAttest p s = .next s') : Memory.wf
    s'.mem = true := by
  refine next_wf ht (State.command_wf _ _ _ _ hs fun s P hs => ?_)
  dsimp only
  split
  · exact hs
  split
  · exact State.readError_wf _ _ _ _ hs
  · exact State.store_wf _ _ _ hs

/-! ### Machine/Sync -/

@[simp] theorem Ctx.barrierTeam_wf (c : Ctx) (level bar : Nat) (arrives : Bool) (body : Team → Res) (hc : Memory.wf c.s.mem = true)
    (hbody : ∀ x0, Memory.wf (body x0).state.mem = true) : Memory.wf (Ctx.barrierTeam c level bar arrives body).state.mem = true := by
  unfold Ctx.barrierTeam
  (repeat' split) <;> simp_all

@[simp] theorem Ctx.barrierWait_mem (c : Ctx) (t : Team) (level bar : Nat) (b : Barrier) : (Ctx.barrierWait c t level bar b).state.mem =
    c.s.mem := by
  unfold Ctx.barrierWait
  (repeat' split) <;> simp

@[simp] theorem Ctx.barrierReturn_mem (c : Ctx) (t : Team) (level bar p : Nat) (r : SReg) :
    (Ctx.barrierReturn c t level bar p r).state.mem = c.s.mem := by
  unfold Ctx.barrierReturn
  dsimp only
  split <;> simp

@[simp] theorem Ctx.arrival_wf (c : Ctx) (level bar : Nat) (drop cand : Bool) (body : Ctx → Barrier → Res) (hc : Memory.wf c.s.mem = true)
    (hbody : ∀ x0, ∀ x1, Memory.wf x0.s.mem = true → Memory.wf (body x0 x1).state.mem = true) : Memory.wf
    (Ctx.arrival c level bar drop cand body).state.mem = true := by
  unfold Ctx.arrival
  refine Ctx.closed_wf _ _ hc fun c hc => Ctx.barrierTeam_wf _ _ _ _ _ hc fun t => ?_
  dsimp only
  split
  · exact hc
  split
  · exact hc
  · exact hbody _ _ (by simp [hc])

@[simp] theorem Ctx.awaitPhase_wf (c : Ctx) (level bar ord : Nat) (r : SReg) (hc : Memory.wf c.s.mem = true) : Memory.wf
    (Ctx.awaitPhase c level bar ord r).state.mem = true := by
  unfold Ctx.awaitPhase
  dsimp only
  (repeat' split) <;> simp [hc]

theorem execArv_wf (v : BitVec 2) (b : BitVec 4) (r : SReg) (s : State) (hs : Memory.wf s.mem = true) {s' : State}
    (ht : execArv v b r s = .next s') : Memory.wf s'.mem = true := by
  refine issue_wf _ _ _ hs (fun c hc => Ctx.outside_wf _ _ _ hc fun c hc => ?_) ht
  split
  · exact Ctx.awaitPhase_wf _ _ _ _ _ hc
  · exact Ctx.arrival_wf _ _ _ _ _ _ hc fun c x hc => Ctx.awaitPhase_wf _ _ _ _ _ hc

@[simp] theorem Ctx.arriveOnly_wf (c : Ctx) (level bar : Nat) (drop cand : Bool) (r : SReg) (hc : Memory.wf c.s.mem = true) : Memory.wf
    (Ctx.arriveOnly c level bar drop cand r).state.mem = true := by
  unfold Ctx.arriveOnly; simp_all +contextual [-State.store_mem, -State.storeNum_mem]

theorem execArva_wf (v : BitVec 2) (b : BitVec 4) (r : SReg) (s : State) (hs : Memory.wf s.mem = true) {s' : State}
    (ht : execArva v b r s = .next s') : Memory.wf s'.mem = true := issue_wf _ _ _ hs (fun c hc => by simp_all) ht

theorem execArvd_wf (v : BitVec 2) (b : BitVec 4) (r : SReg) (s : State) (hs : Memory.wf s.mem = true) {s' : State}
    (ht : execArvd v b r s = .next s') : Memory.wf s'.mem = true := issue_wf _ _ _ hs (fun c hc => by simp_all) ht

theorem execBwait_wf (v : BitVec 2) (b : BitVec 4) (r : SReg) (s : State) (hs : Memory.wf s.mem = true) {s' : State}
    (ht : execBwait v b r s = .next s') : Memory.wf s'.mem = true := by
  refine issue_wf _ _ _ hs (fun c hc => Ctx.outside_wf _ _ _ hc fun c hc => Ctx.closed_wf _ _ hc fun c hc =>
    Ctx.barrierTeam_wf _ _ _ _ _ hc fun t => ?_) ht
  dsimp only
  split <;> simp [hc]

@[simp] theorem Ctx.fenceCommit_wf (c : Ctx) (scope : Nat) (hc : Memory.wf c.s.mem = true) : Memory.wf (Ctx.fenceCommit c scope).state.mem
    = true := by
  unfold Ctx.fenceCommit
  simp +contextual [hc]

theorem execFence_wf (sc k : BitVec 3) (s : State) (hs : Memory.wf s.mem = true) {s' : State} (ht : execFence sc k s = .next s') :
    Memory.wf s'.mem = true := by
  refine issue_wf _ _ _ hs (fun c hc => ?_) ht
  split
  · exact Ctx.acked_wf _ _ _ hc fun _ hc => hc
  · exact Ctx.fenceCommit_wf _ _ hc
  · exact Ctx.fenceCommit_wf _ _ hc
  refine Ctx.closed_wf _ _ hc fun c hc => ?_
  split
  · exact hc
  split
  · exact hc
  split
  · exact hc
  split
  · exact Ctx.fenceCommit_wf _ _ (by simp [hc])
  · exact hc

/-! ### Machine/Dispatch -/

theorem exec_wf (i : Instr) (s : State) (hs : Memory.wf s.mem = true) {s' : State} (ht : exec i s = .next s') : Memory.wf s'.mem = true :=
    by
  cases i with
  | nop => exact execNop_wf _ hs ht
  | exit => exact execExit_wf _ hs ht
  | bra => exact execBra_wf _ _ hs ht
  | call => exact execCall_wf _ _ _ hs ht
  | callr => exact execCallr_wf _ _ _ hs ht
  | jr => exact execJr_wf _ _ hs ht
  | brany => exact execBrany_wf _ _ _ _ hs ht
  | brall => exact execBrall_wf _ _ _ _ hs ht
  | brnone => exact execBrnone_wf _ _ _ _ hs ht
  | bz => exact execBz_wf _ _ _ hs ht
  | bnz => exact execBnz_wf _ _ _ hs ht
  | emand => exact execEmand_wf _ _ _ hs ht
  | emelse => exact execEmelse_wf _ hs ht
  | empop => exact execEmpop_wf _ hs ht
  | emrd => exact execEmrd_wf _ _ hs ht
  | emwr => exact execEmwr_wf _ _ hs ht
  | mode => exact execMode_wf _ _ hs ht
  | pmode => exact execPmode_wf _ _ hs ht
  | moder => exact execModer_wf _ _ hs ht
  | trap => exact execTrap_wf _ _ hs ht
  | brk => exact execBrk_wf _ hs ht
  | tret => exact execTret_wf _ hs ht
  | xset => exact execXset_wf _ _ _ _ hs ht
  | xbnd => exact execXbnd_wf _ _ _ _ hs ht
  | xadd => exact execXadd_wf _ _ _ hs ht
  | xrd => exact execXrd_wf _ _ _ hs ht
  | choose => exact execChoose_wf _ _ _ hs ht
  | ccall => exact execCcall_wf _ _ hs ht
  | anch => exact execAnch_wf _ hs ht
  | add => exact execAdd_wf _ _ _ _ hs ht
  | sub => exact execSub_wf _ _ _ _ hs ht
  | mul => exact execMul_wf _ _ _ _ hs ht
  | mulh => exact execMulh_wf _ _ _ _ hs ht
  | mad => exact execMad_wf _ _ _ _ hs ht
  | msb => exact execMsb_wf _ _ _ _ hs ht
  | mad2 => exact execMad2_wf _ _ _ _ hs ht
  | dot4 => exact execDot4_wf _ _ _ _ hs ht
  | abs => exact execAbs_wf _ _ _ hs ht
  | neg => exact execNeg_wf _ _ _ hs ht
  | min => exact execMin_wf _ _ _ _ hs ht
  | max => exact execMax_wf _ _ _ _ hs ht
  | avg => exact execAvg_wf _ _ _ _ hs ht
  | rsh => exact execRsh_wf _ _ _ _ hs ht
  | addi => exact execAddi_wf _ _ _ _ hs ht
  | muli => exact execMuli_wf _ _ _ _ hs ht
  | and => exact execAnd_wf _ _ _ _ hs ht
  | or => exact execOr_wf _ _ _ _ hs ht
  | xor => exact execXor_wf _ _ _ _ hs ht
  | andn => exact execAndn_wf _ _ _ _ hs ht
  | not => exact execNot_wf _ _ _ hs ht
  | shl => exact execShl_wf _ _ _ _ hs ht
  | shr => exact execShr_wf _ _ _ _ hs ht
  | sar => exact execSar_wf _ _ _ _ hs ht
  | rol => exact execRol_wf _ _ _ _ hs ht
  | shli => exact execShli_wf _ _ _ _ hs ht
  | shri => exact execShri_wf _ _ _ _ hs ht
  | sari => exact execSari_wf _ _ _ _ hs ht
  | clz => exact execClz_wf _ _ _ hs ht
  | popc => exact execPopc_wf _ _ _ hs ht
  | brev => exact execBrev_wf _ _ _ hs ht
  | bfx => exact execBfx_wf _ _ _ _ _ hs ht
  | ceq => exact execCeq_wf _ _ _ _ _ hs ht
  | cne => exact execCne_wf _ _ _ _ _ hs ht
  | clt => exact execClt_wf _ _ _ _ _ hs ht
  | cle => exact execCle_wf _ _ _ _ _ hs ht
  | cun => exact execCun_wf _ _ _ _ _ hs ht
  | ctst => exact execCtst_wf _ _ _ _ _ hs ht
  | qop => exact execQop_wf _ _ _ _ _ hs ht
  | qfv => exact execQfv_wf _ _ _ _ hs ht
  | qfvAll => exact execQfvAll_wf _ _ hs ht
  | qtv => exact execQtv_wf _ _ hs ht
  | mov => exact execMov_wf _ _ _ hs ht
  | movi => exact execMovi_wf _ _ _ hs ht
  | movhi => exact execMovhi_wf _ _ _ hs ht
  | sel => exact execSel_wf _ _ _ _ hs ht
  | shfl => exact execShfl_wf _ _ _ _ hs ht
  | hslide => exact execHslide_wf _ _ _ _ hs ht
  | vfill => exact execVfill_wf _ _ _ hs ht
  | fadd => exact execFadd_wf _ _ _ _ hs ht
  | fsub => exact execFsub_wf _ _ _ _ hs ht
  | fmul => exact execFmul_wf _ _ _ _ hs ht
  | fma => exact execFma_wf _ _ _ _ hs ht
  | fms => exact execFms_wf _ _ _ _ hs ht
  | fmin => exact execFmin_wf _ _ _ _ hs ht
  | fmax => exact execFmax_wf _ _ _ _ hs ht
  | fdiv => exact execFdiv_wf _ _ _ _ hs ht
  | fsqrt => exact execFsqrt_wf _ _ _ hs ht
  | frcp => exact execFrcp_wf _ _ _ hs ht
  | frsq => exact execFrsq_wf _ _ _ hs ht
  | fexp2 => exact execFexp2_wf _ _ _ hs ht
  | flog2 => exact execFlog2_wf _ _ _ hs ht
  | fsinpi => exact execFsinpi_wf _ _ _ hs ht
  | fcospi => exact execFcospi_wf _ _ _ hs ht
  | frint => exact execFrint_wf _ _ _ hs ht
  | fclass => exact execFclass_wf _ _ _ _ _ hs ht
  | cvt => exact execCvt_wf _ _ _ _ hs ht
  | fscale => exact execFscale_wf _ _ _ _ hs ht
  | fgetexp => exact execFgetexp_wf _ _ _ hs ht
  | fnanc => exact execFnanc_wf _ _ _ hs ht
  | fdot2 => exact execFdot2_wf _ _ _ _ hs ht
  | sadd => exact execSadd_wf _ _ _ _ hs ht
  | ssub => exact execSsub_wf _ _ _ _ hs ht
  | smul => exact execSmul_wf _ _ _ _ hs ht
  | saddi => exact execSaddi_wf _ _ _ _ hs ht
  | sand => exact execSand_wf _ _ _ _ hs ht
  | sor => exact execSor_wf _ _ _ _ hs ht
  | sxor => exact execSxor_wf _ _ _ _ hs ht
  | sshlReg => exact execSshlReg_wf _ _ _ _ hs ht
  | sshlImm => exact execSshlImm_wf _ _ _ _ hs ht
  | sshrReg => exact execSshrReg_wf _ _ _ _ hs ht
  | sshrImm => exact execSshrImm_wf _ _ _ _ hs ht
  | ssarReg => exact execSsarReg_wf _ _ _ _ hs ht
  | ssarImm => exact execSsarImm_wf _ _ _ _ hs ht
  | smovi => exact execSmovi_wf _ _ _ hs ht
  | smovs => exact execSmovs_wf _ _ _ hs ht
  | sceq => exact execSceq_wf _ _ _ _ hs ht
  | sclt => exact execSclt_wf _ _ _ _ hs ht
  | scltn => exact execScltn_wf _ _ _ _ hs ht
  | vred => exact execVred_wf _ _ _ _ hs ht
  | vlane => exact execVlane_wf _ _ _ _ _ hs ht
  | vins => exact execVins_wf _ _ _ _ _ hs ht
  | vote => exact execVote_wf _ _ _ _ hs ht
  | krd => exact execKrd_wf _ _ _ hs ht
  | kwr => exact execKwr_wf _ _ _ hs ht
  | sysrd => exact execSysrd_wf _ _ _ hs ht
  | syswr => exact execSyswr_wf _ _ _ hs ht
  | ldw => exact execLdw_wf _ _ _ _ _ hs ht
  | ldd => exact execLdd_wf _ _ _ _ _ hs ht
  | ldq => exact execLdq_wf _ _ _ _ _ hs ht
  | ldh => exact execLdh_wf _ _ _ _ _ hs ht
  | ldb => exact execLdb_wf _ _ _ _ _ hs ht
  | stw => exact execStw_wf _ _ _ _ _ hs ht
  | std => exact execStd_wf _ _ _ _ _ hs ht
  | stq => exact execStq_wf _ _ _ _ _ hs ht
  | sth => exact execSth_wf _ _ _ _ _ hs ht
  | stb => exact execStb_wf _ _ _ _ _ hs ht
  | ldacq => exact execLdacq_wf _ _ _ _ _ hs ht
  | strel => exact execStrel_wf _ _ _ _ _ hs ht
  | sld => exact execSld_wf _ _ _ _ _ hs ht
  | sst => exact execSst_wf _ _ _ _ _ hs ht
  | lds => exact execLds_wf _ _ _ _ _ hs ht
  | sts => exact execSts_wf _ _ _ _ _ hs ht
  | ldsq => exact execLdsq_wf _ _ _ _ _ hs ht
  | stsq => exact execStsq_wf _ _ _ _ _ hs ht
  | slk => exact execSlk_wf _ _ _ _ hs ht
  | sfill => exact execSfill_wf _ _ _ _ hs ht
  | sevict => exact execSevict_wf _ _ _ _ hs ht
  | cpy => exact execCpy_wf _ _ _ _ _ _ hs ht
  | cpyo => exact execCpyo_wf _ _ _ _ _ hs ht
  | cpyt => exact execCpyt_wf _ _ _ _ _ hs ht
  | cpyv => exact execCpyv_wf _ _ _ _ hs ht
  | tbinit => exact execTbinit_wf _ _ _ _ hs ht
  | tbarr => exact execTbarr_wf _ _ _ _ hs ht
  | tbwait => exact execTbwait_wf _ _ _ hs ht
  | wcnt => exact execWcnt_wf _ _ _ hs ht
  | ckopen => exact execCkopen_wf _ _ _ _ _ _ _ hs ht
  | ckseal => exact execCkseal_wf _ _ _ _ hs ht
  | ckdrop => exact execCkdrop_wf _ _ _ hs ht
  | obres => exact execObres_wf _ _ _ _ hs ht
  | obrel => exact execObrel_wf _ _ _ hs ht
  | obld => exact execObld_wf _ _ _ _ hs ht
  | gath => exact execGath_wf _ _ _ _ _ hs ht
  | mrdy => exact execMrdy_wf _ hs ht
  | mstep => exact execMstep_wf _ _ _ _ _ hs ht
  | mloop => exact execMloop_wf _ _ _ _ _ hs ht
  | mfence => exact execMfence_wf _ _ _ hs ht
  | mwait => exact execMwait_wf _ _ hs ht
  | acfg => exact execAcfg_wf _ _ _ _ _ hs ht
  | arel => exact execArel_wf _ _ _ hs ht
  | azero => exact execAzero_wf _ _ _ hs ht
  | ard => exact execArd_wf _ _ _ _ _ _ hs ht
  | awr => exact execAwr_wf _ _ _ _ _ _ hs ht
  | asave => exact execAsave_wf _ _ _ _ _ hs ht
  | aload => exact execAload_wf _ _ _ _ _ hs ht
  | nanc => exact execNanc_wf _ _ _ hs ht
  | srseed => exact execSrseed_wf _ _ hs ht
  | ascal => exact execAscal_wf _ _ _ _ _ hs ht
  | arv => exact execArv_wf _ _ _ _ hs ht
  | arva => exact execArva_wf _ _ _ _ hs ht
  | arvd => exact execArvd_wf _ _ _ _ hs ht
  | bwait => exact execBwait_wf _ _ _ _ hs ht
  | fence => exact execFence_wf _ _ _ hs ht
  | sendr => exact execSendr_wf _ _ _ _ _ _ hs ht
  | sendb => exact execSendb_wf _ _ _ _ _ hs ht
  | cwait => exact execCwait_wf _ _ _ hs ht
  | cset => exact execCset_wf _ _ _ hs ht
  | ckevict => exact execCkevict_wf _ _ _ _ _ hs ht
  | ckstat => exact execCkstat_wf _ _ _ _ hs ht
  | wcall => exact execWcall_wf _ _ _ _ _ _ hs ht
  | wpost => exact execWpost_wf _ _ _ _ _ hs ht
  | wtake => exact execWtake_wf _ _ hs ht
  | wreply => exact execWreply_wf _ _ hs ht
  | wfail => exact execWfail_wf _ _ hs ht
  | wscan => exact execWscan_wf _ _ _ _ hs ht
  | illegalInstruction => exact execIllegalInstruction_wf _ _ hs ht
  | loadReturn => exact execLoadReturn_wf _ _ _ hs ht
  | copySectorLanding => exact execCopySectorLanding_wf _ _ _ hs ht
  | sendLanding => exact execSendLanding_wf _ _ _ hs ht
  | sendAcknowledgement => exact execSendAcknowledgement_wf _ _ _ hs ht
  | releaseFilterProbe => exact execReleaseFilterProbe_wf _ _ _ _ hs ht
  | lineAccess => exact execLineAccess_wf _ _ _ hs ht
  | orderGateAdmit => exact execOrderGateAdmit_wf _ _ _ _ hs ht
  | requestArrival => exact execRequestArrival_wf _ _ _ hs ht
  | batchAssembly => exact execBatchAssembly_wf _ _ _ hs ht
  | whiskReply => exact execWhiskReply_wf _ _ _ hs ht
  | fillLanding => exact execFillLanding_wf _ _ _ hs ht
  | matrixStep => exact execMatrixStep_wf _ _ _ _ hs ht
  | clusterPlacement => exact execClusterPlacement_wf _ _ hs ht
  | finalCommit => exact execFinalCommit_wf _ _ _ hs ht
  | launchCompletion => exact execLaunchCompletion_wf _ _ hs ht
  | crockMoveDone => exact execCrockMoveDone_wf _ _ _ hs ht
  | eggTimerWindow => exact execEggTimerWindow_wf _ _ hs ht
  | sieveDecision => exact execSieveDecision_wf _ _ hs ht
  | sieveBacktrack => exact execSieveBacktrack_wf _ _ hs ht
  | chunkFlushTimer => exact execChunkFlushTimer_wf _ _ _ _ hs ht
  | freezeImage => exact execFreezeImage_wf _ _ hs ht
  | drainDeadline => exact execDrainDeadline_wf _ _ hs ht
  | gangSliceStart => exact execGangSliceStart_wf _ _ hs ht
  | gangSliceEnd => exact execGangSliceEnd_wf _ _ hs ht
  | invalidationDone => exact execInvalidationDone_wf _ _ hs ht
  | backgroundScrub => exact execBackgroundScrub_wf _ _ _ _ hs ht
  | patrolScrub => exact execPatrolScrub_wf _ _ _ hs ht
  | inFieldTest => exact execInFieldTest_wf _ _ hs ht
  | inFieldTestRun => exact execInFieldTestRun_wf _ _ _ hs ht
  | inFieldTestOverdue => exact execInFieldTestOverdue_wf _ _ hs ht
  | energyPeriod => exact execEnergyPeriod_wf _ _ hs ht
  | flitCrcError => exact execFlitCrcError_wf _ _ hs ht
  | linkDead => exact execLinkDead_wf _ _ hs ht
  | injectionResume => exact execInjectionResume_wf _ hs ht
  | lostPacket => exact execLostPacket_wf _ _ _ hs ht
  | linkNarrow => exact execLinkNarrow_wf _ _ _ hs ht
  | linkWiden => exact execLinkWiden_wf _ _ _ hs ht
  | cxlPortDown => exact execCxlPortDown_wf _ _ hs ht
  | hostWrite => exact execHostWrite_wf _ _ _ hs ht
  | hostRead => exact execHostRead_wf _ _ _ hs ht
  | timeOffsetNotice => exact execTimeOffsetNotice_wf _ _ hs ht
  | clockThrottle => exact execClockThrottle_wf _ _ _ hs ht
  | clockRaise => exact execClockRaise_wf _ _ hs ht
  | thermalStop => exact execThermalStop_wf _ _ hs ht
  | powerOnBoot => exact execPowerOnBoot_wf _ _ hs ht
  | functionLevelReset => exact execFunctionLevelReset_wf _ _ hs ht
  | firmwarePass => exact execFirmwarePass_wf _ hs ht
  | reset => exact execReset_wf _ _ _ hs ht
  | setmode => exact execSetmode_wf _ _ _ hs ht
  | attach => exact execAttach_wf _ _ _ hs ht
  | extend => exact execExtend_wf _ _ _ hs ht
  | detach => exact execDetach_wf _ _ _ hs ht
  | buffers => exact execBuffers_wf _ _ _ hs ht
  | consume => exact execConsume_wf _ _ _ hs ht
  | resume => exact execResume_wf _ _ _ hs ht
  | launch => exact execLaunch_wf _ _ _ hs ht
  | signalSet => exact execSignalSet_wf _ _ _ hs ht
  | signalAdd => exact execSignalAdd_wf _ _ _ hs ht
  | wait => exact execWait_wf _ _ _ hs ht
  | nopPacket => exact execNopPacket_wf _ _ _ hs ht
  | unknownPacket => exact execUnknownPacket_wf _ _ _ hs ht
  | null => exact execNull_wf _ _ _ hs ht
  | debug => exact execDebug_wf _ _ _ hs ht
  | sigadd => exact execSigadd_wf _ _ _ hs ht
  | sleep => exact execSleep_wf _ _ _ hs ht
  | sleepExpiry => exact execSleepExpiry_wf _ _ _ hs ht
  | unknownService => exact execUnknownService_wf _ _ _ hs ht
  | freeze => exact execFreeze_wf _ _ hs ht
  | registerImageArea => exact execRegisterImageArea_wf _ _ hs ht
  | copyTableEntry => exact execCopyTableEntry_wf _ _ hs ht
  | clearSpoil => exact execClearSpoil_wf _ _ hs ht
  | copyDebugRing => exact execCopyDebugRing_wf _ _ hs ht
  | loadLvc => exact execLoadLvc_wf _ _ hs ht
  | unloadKernel => exact execUnloadKernel_wf _ _ hs ht
  | setTrustedKey => exact execSetTrustedKey_wf _ _ hs ht
  | extendMeasurement => exact execExtendMeasurement_wf _ _ hs ht
  | attest => exact execAttest_wf _ _ hs ht
  | createPartition => exact execCreatePartition_wf _ _ _ hs ht
  | destroyPartition => exact execDestroyPartition_wf _ _ _ hs ht
  | setGranuleKey => exact execSetGranuleKey_wf _ _ _ hs ht
  | grantQueue => exact execGrantQueue_wf _ _ _ hs ht
  | grantPort => exact execGrantPort_wf _ _ _ hs ht
  | updateFirmware => exact execUpdateFirmware_wf _ _ _ hs ht
  | firmwareHandover => exact execFirmwareHandover_wf _ hs ht
  | setSharedSeverity => exact execSetSharedSeverity_wf _ _ _ hs ht
  | qprodWrite => exact execQprodWrite_wf _ _ _ _ hs ht
  | qbaseWrite => exact execQbaseWrite_wf _ _ _ _ hs ht
  | invWrite => exact execInvWrite_wf _ _ _ hs ht
  | faultMapped => exact execFaultMapped_wf _ _ _ hs ht
  | faultDeclined => exact execFaultDeclined_wf _ _ _ hs ht
  | shelfcWrite => exact execShelfcWrite_wf _ _ _ hs ht
  | whiskWrite => exact execWhiskWrite_wf _ _ _ hs ht
  | eggWrite => exact execEggWrite_wf _ _ _ hs ht
  | sevWrite => exact execSevWrite_wf _ _ _ _ hs ht
  | registerWrite => exact execRegisterWrite_wf _ _ _ _ hs ht
  | copyOutProgress => exact execCopyOutProgress_wf _ _ _ hs ht
  | rootComplexAcknowledgement => exact execRootComplexAcknowledgement_wf _ _ _ hs ht
  | ieee1588Message => exact execIeee1588Message_wf _ _ hs ht

/-! ### Machine/Turn -/

theorem Ctx.run_wf (c : Ctx) (hc : Memory.wf c.s.mem = true) {s' : State} (ht : Ctx.run c = .next s') : Memory.wf s'.mem = true := by
  unfold Ctx.run at ht
  split at ht
  · refine next_wf ht ?_
    split <;> simp [hc]
  · split at ht
    next r hr => exact next_wf ht (Ctx.settle_wf _ _ (Ctx.fetch_wf_error c hc hr))
    next d w hr =>
      have hd := Ctx.fetch_wf_ok c hc hr
      split at ht
      · split at ht
        · exact next_wf ht hd
        · exact exec_wf _ _ hd ht
      · exact next_wf ht (rejectWord_wf _ _ hd)

@[simp] theorem State.methodReturns_wf (s : State) (p : PartNo) (core : Nat) (tpc : DWord) (word : Nat) (hs : Memory.wf s.mem = true) :
    Memory.wf (State.methodReturns s p core tpc word).mem = true := by
  unfold State.methodReturns
  (repeat' split) <;> simp [hs]

theorem Ctx.whiskTurn_wf (c : Ctx) (h : Home) (hc : Memory.wf c.s.mem = true) {s' : State} (ht : Ctx.whiskTurn c h = .next s') : Memory.wf
    s'.mem = true := by
  unfold Ctx.whiskTurn at ht
  split at ht
  · exact next_wf ht hc
  · split at ht
    · split at ht
      · exact exec_wf _ _ hc ht
      · exact next_wf ht (Ctx.dispatch_wf _ _ hc)
    · exact exec_wf _ _ hc ht
    · split at ht
      next hr => exact next_wf ht (State.methodReturns_wf _ _ _ _ _ (Ctx.run_wf c hc hr))
      next h => exact absurd ht (h _)

theorem State.groupActs_wf (s : State) (p : PartNo) (gid : Nat) (check : CheckResult) (hs : Memory.wf s.mem = true) {s' : State}
    (ht : State.groupActs s p gid check = .next s') : Memory.wf s'.mem = true := by
  unfold State.groupActs at ht
  split at ht
  · exact next_wf ht hs
  next c hc =>
    have hc := State.issuer_wf { s with cur := some ⟨p, gid, check⟩ } hs hc
    split at ht
    · exact next_wf ht hs
    · split at ht
      · exact Ctx.whiskTurn_wf _ _ hc ht
      · exact Ctx.run_wf _ hc ht

@[simp] theorem State.countFlits_mem (t s : State) (a : Actor) : (State.countFlits t s a).mem = t.mem := rfl

@[simp] theorem State.drawEnergy_mem (s : State) : (State.drawEnergy s).mem = s.mem := rfl

theorem State.counted_wf (s : State) (a : Actor) (r : Host.Outcome State Fault Refusal) {s' : State}
    (ht : s.counted a r = .next s') (hr : ∀ t, r = .next t → Memory.wf t.mem = true) : Memory.wf s'.mem = true := by
  unfold State.counted at ht
  split at ht
  · have h := hr _ rfl
    refine next_wf ht ?_
    split <;> simp [h]
  next h => exact absurd ht (h _)

theorem State.act_wf (s : State) (a : Actor) (hs : Memory.wf s.mem = true) {s' : State} (ht : State.act s a = .next s') : Memory.wf s'.mem
    = true := by
  unfold State.act at ht
  refine State.counted_wf _ _ _ ht fun t ht => ?_
  split at ht
  · exact State.groupActs_wf _ _ _ _ hs ht
  · split at ht
    · exact next_wf ht hs
    · exact exec_wf _ _ hs ht

/-! ### Machine/Step -/

theorem step_wf (s : State) (hs : Memory.wf s.mem = true) {s' : State} (ht : step s = .next s') : Memory.wf s'.mem = true := by
  unfold step at ht
  dsimp only at ht
  split at ht
  · exact State.act_wf _ _ (by exact hs) ht
  · split at ht
    · exact State.act_wf _ _ (by exact hs) ht
    · exact next_wf ht hs

/-- Settles O60: no instruction and no event breaks the canonical form (`exec_wf`), nor does what a step adds to it. -/
theorem everyStepKeepsMemoryCanonical : Obligations.EveryStepKeepsMemoryCanonical := by
  unfold Obligations.EveryStepKeepsMemoryCanonical
  exact fun s _ hs ht => step_wf s hs ht

end Sys2Proof.Machine

end

section
/-!
SUPPORT. How a ready instruction ends, for each outcome that a body can give, and what closing the group's windows leaves
(R42, R54, R152).
-/
namespace Sys2Proof.Machine
open Sys2Proof.Spec

/-! ## Outcomes of a ready instruction -/

section
variable {c : Ctx} {s s₁ : State} {i : Instr} {body : Ctx → Res}

/-- The partition of a state counts one firing more (R332). -/
def State.fired (s : State) (p : PartNo) : State := s.modPart p fun P => { P with fire := P.fire + 1 }

theorem Ready.state (h : Ready c s i) : c.s = s := (State.issuer_spec h.issuer).1
theorem Ready.part (h : Ready c s i) : s.part? c.p = some c.P := (State.issuer_spec h.issuer).2.1
theorem Ready.inPart (h : Ready c s i) : c.P.group? c.gid = some c.g := (State.issuer_spec h.issuer).2.2.1
theorem Ready.group (h : Ready c s i) : s.group? c.p c.gid = some c.g := by
  rw [State.group?, h.part]
  exact h.inPart

/-- Whatever ends an instruction that has not been under way is a firing, but for a wait before its effect. -/
theorem Ready.firing (h : Ready c s i) {r : Res} (hr : ∀ t w, r ≠ .wait t w) : c.firing r = true := by
  cases r with
  | wait t w => exact absurd rfl (hr t w)
  | _ => simp [Ctx.firing, Group.issued, h.fresh, h.noWait]

theorem Ready.ends_done (h : Ready c s i) (hb : body c = .done s₁) :
    Machine.issue i s body = .next ((s₁.modGroup c.p c.gid fun g => g.completed (g.pc + 4)).fired c.p) := by
  rw [h.issue, hb, Ctx.settle, if_pos (h.firing (by simp))]
  rfl

theorem Ready.ends_jump (h : Ready c s i) {pc : DWord} (hb : body c = .jump s₁ pc) :
    Machine.issue i s body = .next ((s₁.modGroup c.p c.gid fun g => g.completed pc).fired c.p) := by
  rw [h.issue, hb, Ctx.settle, if_pos (h.firing (by simp))]
  rfl

theorem Ready.ends_trap (h : Ready c s i) {t : Trap} (hb : body c = .trap s₁ t) :
    Machine.issue i s body = .next ((s₁.raiseTrap c.p c.gid t).fired c.p) := by
  rw [h.issue, hb, Ctx.settle, if_pos (h.firing (by simp))]
  rfl

theorem Ready.ends_after (h : Ready c s i) {t : Trap} (hb : body c = .after s₁ t) :
    Machine.issue i s body = .next (((if c.g.inTrap then s₁ else s₁.modGroup c.p c.gid fun g => g.completed (g.pc + 4)).raiseTrap
      c.p c.gid t).fired c.p) := by
  rw [h.issue, hb, Ctx.settle, if_pos (h.firing (by simp))]
  rfl

theorem Ready.ends_gone (h : Ready c s i) (hb : body c = .gone s₁) : Machine.issue i s body = .next (s₁.fired c.p) := by
  rw [h.issue, hb, Ctx.settle, if_pos (h.firing (by simp))]
  rfl

/-- An instruction that waits before its effect has not fired. -/
theorem Ready.ends_wait (h : Ready c s i) {w : Wait} (hw : w.before = true) (hb : body c = .wait s w) :
    Machine.issue i s body = .next (s.modGroup c.p c.gid fun g => { g with wait := some w }) := by
  have hf : c.firing (.wait s w) = false := by
    rw [Ctx.firing, hw, h.group]
    simp [h.fresh]
  rw [h.issue, hb, Ctx.settle, hf]
  rfl

/-- An instruction that waits with an effect begun has fired. -/
theorem Ready.ends_hold (h : Ready c s i) {w : Wait} {g : Group} (hw : w.before = false ∨ s₁.group? c.p c.gid = some g ∧ g.stage ≠ .fresh)
    (hb : body c = .wait s₁ w) : Machine.issue i s body = .next ((s₁.modGroup c.p c.gid fun g => { g with wait := some w }).fired c.p) := by
  have hf : c.firing (.wait s₁ w) = true := by
    rw [Ctx.firing, Group.issued, h.fresh, h.noWait]
    rcases hw with hw | ⟨hg, hs⟩
    · simp [hw]
    · simp [hg, hs]
  rw [h.issue, hb, Ctx.settle, if_pos hf]
  rfl
end

/-! ## Closed windows (R54) -/

theorem Ctx.closed_of_settled {c : Ctx} (k : Ctx → Res) (h : c.g.windows.all Window.done = true) :
    c.closed k = k (c.setG { c.g with windows := [] }) := if_pos h

theorem Ctx.closed_of_open {c : Ctx} (k : Ctx → Res) (h : c.g.windows.all Window.done = false) : c.closed k = .wait c.s .inFlight := by
  rw [Ctx.closed, Group.settled, h]
  rfl

theorem State.modGroup_modGroup (s : State) (p : PartNo) (gid : Nat) (g : Group) (f : Group → Group) :
    (s.modGroup p gid fun _ => g).modGroup p gid f = s.modGroup p gid fun _ => f g := by
  simp only [State.modGroup, State.modPart_modPart, Part.modGroup_modGroup]

/-- Of two groups put in turn the later stands. -/
@[simp] theorem Ctx.put_setG (c : Ctx) (g h : Group) : (c.setG g).put h = c.put h :=
  State.modGroup_modGroup c.s c.p c.gid g fun _ => h

/-- An instruction that completes with its group as `g`, all that it leaves. -/
theorem Ready.ran_of_done {c : Ctx} {s : State} {i : Instr} (h : Ready c s i) {body : Ctx → Res} {g : Group} (he : exec i s = Machine.issue i s body)
    (hb : body c = .done (c.put g)) : ∃ t, exec i s = .next t ∧ Ran c s t (g.completed (g.pc + 4)) := by
  obtain ⟨t, ht, hran⟩ := h.done hb
  exact ⟨t, he.trans ht, hran⟩

theorem Ready.ran_of_jump {c : Ctx} {s : State} {i : Instr} (h : Ready c s i) {body : Ctx → Res} {g : Group} {pc : DWord}
    (he : exec i s = Machine.issue i s body) (hb : body c = .jump (c.put g) pc) : ∃ t, exec i s = .next t ∧ Ran c s t (g.completed pc) := by
  obtain ⟨t, ht, hran⟩ := h.jump hb
  exact ⟨t, he.trans ht, hran⟩

/-- An instruction that completes without a check, its PC as it was till then. -/
theorem Ready.completesWith_done {c : Ctx} {s : State} {i : Instr} (h : Ready c s i) {body : Ctx → Res} {g : Group} {rel : Group → Prop}
    (he : exec i s = Machine.issue i s body) (hb : body c = .done (c.put g)) (hpc : g.pc = c.g.pc) (hrel : rel g) :
    CompletesWith c i s rel := by
  obtain ⟨t, ht, hran⟩ := h.ran_of_done he hb
  exact ⟨t, g, ht, hpc ▸ hran, hrel⟩

end Sys2Proof.Machine
end

section
/-!
SUPPORT. One rule for each operation on the state: what a partition, its team or its group is after it.
-/
namespace Sys2Proof.Machine

/-! ## Partitions -/

theorem PartNo.toNat_ne {p q : PartNo} (h : q ≠ p) : p.toNat ≠ q.toNat := fun e => h (BitVec.eq_of_toNat_eq e).symm

@[simp] theorem State.part?_setPart_same (s : State) (p : PartNo) (P : Part) : (s.setPart p P).part? p = some P :=
  Table.get?_set_same ..

theorem State.part?_setPart_ne (s : State) {p q : PartNo} (P : Part) (h : q ≠ p) : (s.setPart p P).part? q = s.part? q := by
  rw [State.part?, State.setPart, Table.get?_set, if_neg (PartNo.toNat_ne h)]
  rfl

theorem State.part?_modPart_ne (s : State) {p q : PartNo} (f : Part → Part) (h : q ≠ p) : (s.modPart p f).part? q = s.part? q := by
  rw [State.part?, State.modPart, Table.get?_modify, if_neg (PartNo.toNat_ne h)]
  rfl

theorem State.part?_congr {s t : State} (h : t.parts = s.parts) (p : PartNo) : t.part? p = s.part? p := by
  rw [State.part?, h, State.part?]

@[simp] theorem State.part?_store (s : State) (pa : Nat) (bs : List Byte) (p : PartNo) : (s.store pa bs).part? p = s.part? p :=
  State.part?_congr (State.store_parts ..) p

@[simp] theorem State.part?_storeNum (s : State) (pa n x : Nat) (p : PartNo) : (s.storeNum pa n x).part? p = s.part? p :=
  State.part?_congr (State.storeNum_parts ..) p

@[simp] theorem State.part?_storeLine (s : State) (l : Nat) (bs : Table Byte) (ps : List Nat) (p : PartNo) :
    (s.storeLine l bs ps).part? p = s.part? p := State.part?_congr (State.storeLine_parts ..) p

theorem State.part?_modPart_some {s : State} {p : PartNo} {P : Part} (h : s.part? p = some P) (f : Part → Part) :
    (s.modPart p f).part? p = some (f P) := by
  rw [State.part?_modPart, h]
  rfl

/-! ## Teams and groups -/

@[simp] theorem Part.team?_modTeam_same (P : Part) (tk : Nat) (f : Team → Team) : (P.modTeam tk f).team? tk = (P.team? tk).map f :=
  Table.get?_modify_same ..

theorem Part.team?_modTeam_ne (P : Part) {tk k : Nat} (f : Team → Team) (h : k ≠ tk) : (P.modTeam tk f).team? k = P.team? k := by
  rw [Part.team?, Part.modTeam, Part.modRun, Table.get?_modify, if_neg (Ne.symm h)]
  rfl

/-- What of a partition a group is read from. -/
theorem Part.group?_congr {P Q : Part} (h : Q.run = P.run) (gid : Nat) : Q.group? gid = P.group? gid := by
  rw [Part.group?, Part.group?, Part.team?, Part.team?, h]

/-- A change of a team that leaves its groups leaves every group. -/
theorem Part.group?_modTeam (P : Part) (tk : Nat) (f : Team → Team) (hf : ∀ t, (f t).groups = t.groups) (gid : Nat) :
    (P.modTeam tk f).group? gid = P.group? gid := by
  rw [Part.group?, Part.group?, Part.team?, Part.team?, Part.modTeam, Part.modRun, Table.get?_modify]
  split
  · rfl
  · split
    · cases Table.get? P.run.teams (gidTeam gid) <;> simp [hf]
    · rfl

theorem State.group?_eq (s : State) (p : PartNo) (gid : Nat) : s.group? p gid = (s.part? p).bind (Part.group? · gid) := rfl

end Sys2Proof.Machine
end

section
/-!
PROOF. The state at power-on, field by field (spec/17_package_memory.md R345, R348, R349, spec/23_firmware_boot_power.md R433, R437).
-/
namespace Sys2Proof.Machine

/-- The partition's own part of the severities lies below the shared sources' part. -/
theorem shared_digit (a b k : Nat) : (a % 64 + b * 64) / 2 ^ (6 + k) % 8 = b / 2 ^ k % 8 := by
  rw [Nat.pow_add, ← Nat.div_div_eq_div_mul, show (a % 64 + b * 64) / 2 ^ 6 = b by omega]

/-- The action of a source that partitions share is a digit of the shared severities. -/
theorem State.action_of_shared (s : State) (P : Part) {src : Nat} (h : 2 ≤ src) :
    ∃ k < 5, ∀ cls, s.action P cls src = (Cells.get 0 s.sharedSev cls).toNat / 64 % 2 ^ 15 / 2 ^ (3 * k) % 8 := by
  unfold State.action State.sevc
  split
  · omega
  · omega
  · exact ⟨0, by decide, fun cls => shared_digit _ _ 0⟩
  · exact ⟨1, by decide, fun cls => shared_digit _ _ 3⟩
  · exact ⟨2, by decide, fun cls => shared_digit _ _ 6⟩
  · exact ⟨3, by decide, fun cls => shared_digit _ _ 9⟩
  · exact ⟨4, by decide, fun cls => shared_digit _ _ 12⟩

/-- Settles O56: every field of the state at power-on is a constant. -/
theorem resetIsPowerOn : Obligations.ResetIsPowerOn := by
  refine ⟨rfl, rfl, rfl, fun p => rfl, fun k => rfl, fun g => rfl, fun d => rfl, fun l => rfl, rfl, fun P src h => ?_⟩
  obtain ⟨k, hk, hdigit⟩ := State.reset.action_of_shared P h
  simp only [hdigit]
  clear hdigit
  revert k
  decide

end Sys2Proof.Machine
end

section
/-!
PROOF. The worked words of the specification, each decoded by evaluation (spec/02_words_and_syntax.md R40, R45, R49, R50, R68).
-/
namespace Sys2Proof.Machine

/-- Settles O57: the decoder evaluates on each of the words. -/
theorem workedWordsDecode : Obligations.WorkedWordsDecode := by
  unfold Obligations.WorkedWordsDecode
  refine ⟨?_, ?_, ?_, ?_, ?_, ?_, ?_, ?_, ?_, ?_, ?_, ?_, ?_, ?_, ?_, ?_, ?_, ?_, ?_, ?_⟩ <;> decide +kernel

end Sys2Proof.Machine
end

section
/-!
PROOF. Returning from a trap handler (spec/06_group_control_faults.md R153), in the order of the model's checks.
-/
namespace Sys2Proof.Machine
open Sys2Proof.Spec

/-- A reserved MODE value, bit by bit (R153). -/
theorem badMode_tmode_iff (m : BitVec 24) :
    badMode (m.setWidth 64) = true ↔ m.extractLsb' 16 8 ≠ 0 ∨ 6 ≤ (m.extractLsb' 5 3).toNat := by
  rw [badMode, field]
  have h16 : m.extractLsb' 16 8 ≠ 0 ↔ 2 ^ 16 ≤ m.toNat := by
    rw [Ne, BitVec.toNat_eq, BitVec.extractLsb'_toNat, Nat.shiftRight_eq_div_pow]
    have := m.isLt
    simp
    omega
  have hm := m.isLt
  rw [h16, BitVec.extractLsb'_toNat, Nat.shiftRight_eq_div_pow, BitVec.toNat_setWidth, Nat.mod_eq_of_lt (by omega)]
  simp

/-- What `tret` does once its windows are closed. -/
def Ctx.tretEnd (c : Ctx) : Res :=
  if !c.g.inTrap then .trap c.s (trapOf 1 (wordOf .tret + 2 ^ 32))
  else if badMode (c.g.tmode.setWidth 64) then .trap c.s ⟨2, c.g.tmode.setWidth 64⟩
  else if c.g.tpc.toNat % 4 ≠ 0 then .trap c.s ⟨0x12, c.g.tpc⟩
  else .jump (c.put c.g.returned) c.g.tpc

theorem exec_tret (s : State) : exec .tret s = issue .tret s fun c => c.closed Ctx.tretEnd := rfl

/-- The state in which `tret` raises a trap of its own has the windows closed. -/
theorem Ready.tret_traps {c : Ctx} {s : State} (h : Ready c s .tret) {t : Trap} (hw : c.g.windows.all Window.done = true)
    (hb : (c.setG { c.g with windows := [] }).tretEnd = .trap (c.setG { c.g with windows := [] }).s t) :
    ∃ u, exec .tret s = .next u ∧ u = ((s.modGroup c.p c.gid fun _ => { c.g with windows := [] }).raiseTrap c.p c.gid t).modPart c.p
      fun P => { P with fire := P.fire + 1 } := by
  refine ⟨_, h.ends_trap ((Ctx.closed_of_settled _ hw).trans hb), ?_⟩
  rw [← h.state]
  rfl

/-- Settles O18: the windows first, then the handler, the mode and the alignment. -/
theorem tretRestoresTheSavedState : Obligations.TretRestoresTheSavedState := by
  refine ⟨fun c s h hw => ?_, fun c s h hw => ?_⟩
  · refine h.ends_wait rfl ?_
    rw [← h.state]
    exact Ctx.closed_of_open _ hw
  · simp only [← badMode_tmode_iff]
    refine ⟨fun ht hm ha => ?_, fun ht => h.tret_traps hw ?_, fun ht hm => h.tret_traps hw ?_, fun ht hm ha => h.tret_traps hw ?_⟩
    · refine h.ran_of_jump (g := { c.g with windows := [], mode := c.g.tmode, em := c.g.tem, inTrap := false }) (exec_tret s)
        ((Ctx.closed_of_settled _ hw).trans ?_)
      exact (if_neg (by simp [Ctx.setG, ht])).trans ((if_neg hm).trans ((if_neg (not_not.2 ha)).trans
        (congrArg (Res.jump · c.g.tpc) (Ctx.put_setG ..))))
    · exact if_pos (by simp [Ctx.setG, ht])
    · exact (if_neg (by simp [Ctx.setG, ht])).trans (if_pos hm)
    · exact (if_neg (by simp [Ctx.setG, ht])).trans ((if_neg hm).trans (if_pos ha))

end Sys2Proof.Machine
end

section
/-!
SUPPORT and PROOF. What a page walk leaves of the state that an instruction is issued in, and a step of the machine, actor by actor
(spec/02_words_and_syntax.md R40, R42, spec/21_checkpoint_images.md R397, spec/22_fabric.md R411, R413).
-/
namespace Sys2Proof.Machine
open Sys2Proof.Spec

/-! ## What a write to memory leaves of a partition's work -/

/-- From `s` to `t` a partition's work stands (its teams, homes, operations and requests), and whether injection is paused. -/
structure State.SameWork (p : PartNo) (s t : State) : Prop where
  run : (t.part? p).map Part.run = (s.part? p).map Part.run
  paused : t.paused = s.paused

namespace State.SameWork
variable {p : PartNo} {s t u : State}

theorem refl (p : PartNo) (s : State) : SameWork p s s := ⟨rfl, rfl⟩

theorem trans (h : SameWork p s t) (h' : SameWork p t u) : SameWork p s u := ⟨h'.run.trans h.run, h'.paused.trans h.paused⟩

theorem setPart (h : SameWork p s t) {P Q : Part} (hP : t.part? p = some P) (hQ : Q.run = P.run) : SameWork p s (t.setPart p Q) :=
  h.trans ⟨by rw [State.part?_setPart_same, hP, Option.map_some, Option.map_some, hQ], rfl⟩

theorem modPart (h : SameWork p s t) (f : Part → Part) (hf : ∀ P, (f P).run = P.run) : SameWork p s (t.modPart p f) := by
  refine h.trans ⟨?_, rfl⟩
  rw [State.part?_modPart, Option.map_map]
  exact congrArg (Option.map · _) (funext hf)

theorem store (s : State) (pa : Nat) (bs : List Byte) : SameWork p s (s.store pa bs) := ⟨by rw [State.part?_store], State.store_paused ..⟩

theorem storeNum (s : State) (pa n x : Nat) : SameWork p s (s.storeNum pa n x) :=
  ⟨by rw [State.part?_storeNum], State.storeNum_paused ..⟩

theorem storeLine (s : State) (l : Nat) (bs : Table Byte) (ps : List Nat) : SameWork p s (s.storeLine l bs ps) :=
  ⟨by rw [State.part?_storeLine], State.storeLine_paused ..⟩

/-- A group is read from the work of its partition. -/
theorem group? (h : SameWork p s t) (gid : Nat) : t.group? p gid = s.group? p gid := by
  have hr := h.run
  rw [State.group?_eq, State.group?_eq]
  cases ht : t.part? p <;> cases hs : s.part? p <;> rw [ht, hs] at hr <;> simp at hr
  exact Part.group?_congr hr gid

end State.SameWork

theorem Part.run_endExploration (P : Part) (x : BitVec 3) : (P.endExploration x).run = P.run := by
  unfold Part.endExploration
  dsimp only
  split <;> rfl

theorem State.leaf_sameWork (s : State) (p : PartNo) (a b u : Bool) : SameWork p s (s.leaf p a b u) := by
  unfold State.leaf
  split
  · exact .refl p s
  next P hP =>
    dsimp only
    split
    · exact .refl p s
    · have hpart (c : Bool) (t : State) (ht : t.part? p = some P) : (if c then t else s).part? p = some P := by
        cases c
        · exact hP
        · exact ht
      refine SameWork.setPart (P := P) ?_ ?_ ?_
      · split
        · exact .storeNum ..
        · exact .refl p s
      · exact hpart _ _ ((State.part?_storeNum ..).trans hP)
      · rw [apply_ite Part.run, Part.run_endExploration]
        split <;> split <;> rfl

theorem State.logLine_sameWork {s : State} {p : PartNo} {P : Part} (h : s.part? p = some P) (l : Nat) : SameWork p s (s.logLine p P l) := by
  unfold State.logLine
  exact (SameWork.store ..).setPart ((State.part?_store ..).trans h) rfl

theorem State.writeLine_sameWork (s : State) (p : PartNo) (l : Nat) (bs : Table Byte) (ps : List Nat) :
    SameWork p s (s.writeLine p l bs ps).1 := by
  unfold State.writeLine
  split
  · exact .refl p s
  next P hP =>
    split
    · exact .refl p s
    · split
      · split
        · exact .refl p s
        · exact .trans (State.logLine_sameWork hP l) (.storeLine ..)
      · exact .storeLine ..

theorem State.writeAt_sameWork (s : State) (p : PartNo) (pa : Nat) (bs : List Byte) : SameWork p s (s.writeAt p pa bs) := by
  have h := State.writeLine_sameWork s p (pa / 128) (lineBytes (pa % 128) bs) []
  unfold State.writeAt State.putLine
  split
  next t hw =>
    rw [hw] at h
    exact h
  next t hw =>
    rw [hw] at h
    exact h.trans (.trans (State.leaf_sameWork ..) (State.writeLine_sameWork ..))

/-! ## What a page walk leaves (R199, R341) -/

theorem State.touch_sameWork (s : State) (p : PartNo) (core : Nat) (acc : Acc) (va : Nat) (x : Xlate) :
    SameWork p s (s.touch p core acc va x) := by
  unfold State.touch
  split
  · dsimp only
    split
    · refine SameWork.modPart ?_ _ fun P => rfl
      split
      · exact .refl p s
      · exact State.writeAt_sameWork ..
    · exact (SameWork.refl p s).modPart _ fun P => rfl
  · exact .refl p s

theorem State.foldl_touch_sameWork (looks : List ((Nat × DWord) × Xlate)) (p : PartNo) (core : Nat) (acc : Acc) (s : State) :
    SameWork p s (looks.foldl (fun s x => s.touch p core acc (x.1.2.toNat % 2 ^ 56) x.2) s) := by
  induction looks generalizing s with
  | nil => exact .refl p s
  | cons x l ih => exact .trans (State.touch_sameWork ..) (ih _)

theorem State.group?_clearMarks (s : State) (p : PartNo) (tk : Nat) (vps : List Nat) (gid : Nat) :
    (s.clearMarks p tk vps).group? p gid = s.group? p gid := by
  rw [State.group?_eq, State.clearMarks, State.modTeam, State.part?_modPart, State.group?_eq]
  cases s.part? p with
  | none => rfl
  | some P => exact Part.group?_modTeam P _ _ (by simp) gid

/-! ## Reloading a context -/

@[simp] theorem Ctx.s_reload (c : Ctx) (s : State) : (c.reload s).s = s := by unfold Ctx.reload; split <;> rfl
@[simp] theorem Ctx.p_reload (c : Ctx) (s : State) : (c.reload s).p = c.p := by unfold Ctx.reload; split <;> rfl
@[simp] theorem Ctx.gid_reload (c : Ctx) (s : State) : (c.reload s).gid = c.gid := by unfold Ctx.reload; split <;> rfl

theorem Ctx.g_reload {c : Ctx} {s : State} (h : s.group? c.p c.gid = some c.g) : (c.reload s).g = c.g := by
  rw [State.group?_eq] at h
  unfold Ctx.reload
  split
  · rfl
  next P hP =>
    rw [hP] at h
    exact congrArg (Option.getD · c.g) h

/-! ## Instruction fetch (R40, R41) -/

/-- The page walks of one access that succeeds leave the group and the pause as they were. -/
theorem Ctx.translate_done {c : Ctx} {acc : Acc} {items : List (Nat × DWord)} {s : State} (hg : c.s.group? c.p c.gid = some c.g)
    (h : c.translate acc items [] (fun c _ => .done c.s) = .done s) :
    s.group? c.p c.gid = some c.g ∧ s.paused = c.s.paused := by
  unfold Ctx.translate at h
  dsimp only at h
  generalize items.map (fun e => (e, c.look acc (e.2.toNat % 2 ^ 56))) = looks at h
  generalize (looks.filter _).map _ = found at h
  generalize hd : (if (c.team?.any fun t => t.marks.any (List.contains found)) = true then
    c.reload (c.s.clearMarks c.p c.tk found) else c) = d at h
  have hk : d.p = c.p ∧ d.gid = c.gid ∧ d.s.group? c.p c.gid = some c.g ∧ d.s.paused = c.s.paused := by
    rw [← hd]
    split
    · exact ⟨Ctx.p_reload .., Ctx.gid_reload .., by rw [Ctx.s_reload, State.group?_clearMarks, hg], by rw [Ctx.s_reload]; rfl⟩
    · exact ⟨rfl, rfl, hg, rfl⟩
  obtain ⟨hp, hgid, hdg, hdp⟩ := hk
  split at h
  · cases h
  · split at h
    · cases h
    · split at h
      · unfold Ctx.pageFault at h
        dsimp only at h
        split at h <;> cases h
      · split at h
        · cases h
        · split at h
          · cases h
          · cases h
            have hw := State.foldl_touch_sameWork looks d.p (d.P.coreOf d.gid) acc d.s
            rw [Ctx.s_reload]
            exact ⟨by rw [← hp, hw.group?, hp, hdg], by rw [hw.paused, hdp]⟩

/-- A fetch that succeeds leaves the group and the pause as they were; its word is the one at the address that the PC's page gives. -/
theorem Ctx.fetch_spec {c c' : Ctx} {w : Word} (hg : c.s.group? c.p c.gid = some c.g) (h : c.fetch = .ok (c', w)) :
    c'.g = c.g ∧ c'.s.paused = c.s.paused ∧ w = BitVec.ofNat 32 (c'.s.num (c.look .fetch (c.g.pc.toNat % 2 ^ 56)).pa.1 4) := by
  unfold Ctx.fetch at h
  dsimp only at h
  split at h
  next s hs =>
    obtain ⟨hg, hp⟩ := Ctx.translate_done hg hs
    split at h
    · cases h
    · split at h
      · cases h
      · obtain ⟨rfl, rfl⟩ := Prod.mk.inj (Except.ok.inj h)
        exact ⟨Ctx.g_reload hg, by rw [Ctx.s_reload, hp], by rw [Ctx.s_reload]⟩
  · cases h

/-! ## A step, actor by actor -/

theorem step_of_agenda {s : State} {a : Actor} {rest : List Actor} (h : s.agenda = a :: rest) :
    step s = ({ s with tick := s.tick + 1, agenda := rest, cur := none } : State).act a := by
  unfold step
  rw [h]
  rfl

/-- A group that acts, and may: a team's runs, a whisk group's takes its turn. -/
theorem State.groupActs_of_mayAct {s : State} {p : PartNo} {gid : Nat} {check : CheckResult} {c : Ctx}
    (hc : ({ s with cur := some ⟨p, gid, check⟩ } : State).issuer = some c) (hm : c.mayAct = true) :
    s.groupActs p gid check = match if isWhisk gid then Table.get? c.P.run.homes gid else none with
      | some h => c.whiskTurn h
      | none => c.run := by
  unfold State.groupActs
  rw [hc]
  dsimp only
  rw [hm]
  rfl

theorem Ctx.run_of_fetch {c c' : Ctx} {w : Word} (hl : c.g.latched = none) (hf : c.fetch = .ok (c', w)) :
    c.run = match decode w with
      | .ok i => if c'.s.paused && leavesCore i then .next c'.s else exec i c'.s
      | .error r => .next (rejectWord r c'.s) := by
  rw [Ctx.run, hl]
  dsimp only
  rw [hf] <;> rfl

/-! ## What a step counts besides (R298, R353, R411) -/

theorem Table.get?_map {α β : Type} (t : Table α) (f : Nat → α → β) (k : Nat) :
    Table.get? (t.map fun e => (e.1, f e.1 e.2)) k = (Table.get? t k).map (f k) := by
  induction t with
  | nil => rfl
  | cons e t ih =>
    obtain ⟨j, x⟩ := e
    rw [List.map_cons, Table.get?_cons, Table.get?_cons, ih]
    split
    next h => rw [h]; rfl
    · rfl

/-- A partition after the flits have been counted. -/
theorem State.part?_countFlits (t s : State) (a : Actor) (p : PartNo) {P : Part} (h : t.part? p = some P) :
    ∃ n, (t.countFlits s a).part? p = some { P with flit := n } := by
  have e := Table.get?_map t.parts (fun k Q => match Table.get? s.parts k with
    | some P => { Q with flit := Q.flit + s.newFlits t P Q a }
    | none => Q) p.toNat
  rw [show Table.get? t.parts p.toNat = some P from h] at e
  refine ⟨match Table.get? s.parts p.toNat with
    | some Q => P.flit + s.newFlits t Q P a
    | none => P.flit, e.trans ?_⟩
  rw [Option.map_some]
  cases Table.get? s.parts p.toNat <;> rfl

theorem State.part?_drawEnergy (s : State) (p : PartNo) {P : Part} (h : s.part? p = some P) :
    s.drawEnergy.part? p = some (P.drawEnergy p.toNat s.tick) := by
  refine (Table.get?_map s.parts (fun k Q => Q.drawEnergy k s.tick) p.toNat).trans ?_
  rw [show Table.get? s.parts p.toNat = some P from h]
  rfl

/-! ## The statement -/

/-- Settles O59: the scheduler's choice of actor, then the fetch, then the two counts that every step ends with. -/
theorem stepRunsTheDecodedInstruction : Obligations.StepRunsTheDecodedInstruction := by
  refine ⟨?_, ?_, ?_, ?_, ?_⟩
  · intro s p gid check rest c c' w i hag hc hm hl hf hi s0
    obtain ⟨hs, hP, hg, -, hcur⟩ := State.issuer_spec hc
    have hgroup : c.s.group? c.p c.gid = some c.g := by
      rw [State.group?_eq, hs, hP]
      exact hg
    obtain ⟨hg', hp', hw⟩ := Ctx.fetch_spec hgroup hf
    have hpaused : c'.s.paused = s.paused := by rw [hp', hs]
    injection hcur with hcur
    injection hcur with hp hgid hcheck
    subst hp hgid
    have hact := State.groupActs_of_mayAct (s := s0) (p := c.p) (gid := c.gid) hc hm
    have hrun : c.run = if s.paused && leavesCore i then .next c'.s else exec i c'.s := by
      rw [Ctx.run_of_fetch hl hf, hi, hpaused]
    refine ⟨fun hteam => ?_, fun h hwhisk hnp hh hphase hheld => ?_, hg', hpaused, hw⟩
    · rw [step_of_agenda hag, State.act, hact, hteam, if_neg (by simp)]
      exact congrArg _ hrun
    · rw [step_of_agenda hag, State.act, hact, hwhisk, if_pos rfl, hh]
      have hnext : c.nextWord = w.toNat := by rw [Ctx.nextWord, hf]
      have hcp : c.s.paused = false := by rw [hs]; exact hnp
      rw [hnp] at hrun
      dsimp only
      rw [Ctx.whiskTurn, hheld, hcp, if_neg (by simp), hphase, hrun]
      dsimp only
      rw [hnext]
      rfl
  · intro s p gid check rest c c' w r hag hteam hc hm hl hf hr
    rw [step_of_agenda hag, State.act, State.groupActs_of_mayAct (c := c) hc hm, hteam, if_neg (by simp), Ctx.run_of_fetch hl hf, hr]
  · intro s i rest hag hi t
    refine ⟨fun hh => ?_, fun hh => ?_⟩
    · rw [step_of_agenda hag, State.act, hi, show State.halted _ i = false from hh]
      rfl
    · rw [step_of_agenda hag, State.act, hi, show State.halted _ i = true from hh]
      rfl
  · intro s t a
    refine ⟨_, rfl, ?_, fun p P hP => ?_⟩
    · cases a.tacit <;> rfl
    · have hP' : (if a.tacit then t else t.allSeen).part? p = some P := by split <;> exact hP
      obtain ⟨n, hn⟩ := State.part?_countFlits _ s a p hP'
      exact ⟨_, _, State.part?_drawEnergy _ p hn, rfl⟩
  · intro s p P i he hP hf
    have hbind : (engineOf i).bind s.part? = some P := by rw [he]; exact hP
    simp only [State.halted, hbind, hf, Bool.true_or, Bool.or_true]

end Sys2Proof.Machine
end

section
/-!
SUPPORT and PROOF. The TYPE check of an instruction with a row in one of the specification's tables, the integers of elements, and the
integer instructions (spec/04_group_integer.md R97, R99, R100, R102).
-/
namespace Sys2Proof.Machine
open Sys2Proof.Spec

/-! ## Rows of tables (R97) -/

theorem Ctx.typed_of_rejects (c : Ctx) (op : Nat) {ok : Nat → Bool} (body : Ty → Res) (hok : ok c.g.ty = false) :
    c.typed op ok body = .trap c.s (Spec.badType c op) := by
  unfold Ctx.typed
  split
  · rw [hok, if_neg (by simp), Ctx.badType_eq]
  · exact c.badType_eq op

section
variable {c : Ctx} {s : State} {i : Instr} {op : Nat} {ok : Nat → Bool} {codes : List Nat}

/-- An instruction that takes the TYPE codes of its row: what it does under each, and the trap under any other. -/
theorem Ready.typedRow (h : Ready c s i) {body : Ctx → Ty → Res} {rel : Ty → Group → Prop} {G : Ty → Group}
    (he : exec i s = Machine.issue i s fun c => c.typed op ok (body c)) (hok : ∀ n, ok n = true ↔ n ∈ codes)
    (hb : ∀ t, Ty.ofCode c.g.ty = some t → c.g.ty ∈ codes → body c t = c.checked (G t) ∧ (G t).pc = c.g.pc ∧ rel t (G t)) :
    (∀ t, Ty.ofCode c.g.ty = some t → c.g.ty ∈ codes → CompletesWith c i s (rel t)) ∧
    (c.g.ty ∉ codes → TrapsWith c i s (Spec.badType c op)) := by
  refine ⟨fun t ht hin => ?_, fun hout => ?_⟩
  · obtain ⟨hbody, hpc, hrel⟩ := hb t ht hin
    exact h.completesWith he ((c.typed_of_accepts op _ ht ((hok _).2 hin)).trans hbody) hpc hrel
  · exact h.trapsWith he (c.typed_of_rejects op _ (Bool.eq_false_iff.2 (mt (hok _).1 hout)))

theorem ElementsWritten.pc {old new : Group} {t : Ty} {d : VReg} {res : Nat → Nat → Nat × Nat}
    (h : ElementsWritten old new t d res) : new.pc = old.pc := by
  rw [h.frame]

/-- The same for an instruction that writes elements through the mould. -/
theorem Ready.elementRow (h : Ready c s i) {d : VReg} {A B : Ctx → Ty → Nat → Nat} {F : Ctx → Ty → Nat → Nat → Nat → Nat → Nat → Nat × Nat}
    {res : Ty → Nat → Nat → Nat × Nat}
    (he : exec i s = Machine.issue i s fun c => c.typed op ok fun t => c.checked (c.mould t d (A c t) (B c t) (F c t)))
    (hok : ∀ n, ok n = true ↔ n ∈ codes)
    (hres : ∀ t, Ty.ofCode c.g.ty = some t → c.g.ty ∈ codes → ∀ l k, F c t l k (elem t.w k (A c t l)) (elem t.w k (B c t l))
      (elem t.w k (c.g.direct t.wide d.toNat l)) = res t l k) :
    (∀ t, Ty.ofCode c.g.ty = some t → c.g.ty ∈ codes → CompletesWith c i s fun g => ElementsWritten c.g g t d (res t)) ∧
    (c.g.ty ∉ codes → TrapsWith c i s (Spec.badType c op)) := by
  refine h.typedRow (G := fun t => c.mould t d (A c t) (B c t) (F c t)) he hok fun t ht hin => ?_
  have hw := c.mould_written t d (A c t) (B c t) (F c t) (Ty.ofCode_fills ht)
  rw [show (fun l k => F c t l k (elem t.w k (A c t l)) (elem t.w k (B c t l)) (elem t.w k (c.g.direct t.wide d.toNat l))) = res t from
    funext fun l => funext fun k => hres t ht hin l k] at hw
  exact ⟨rfl, hw.pc, hw⟩
end

theorem tInt_iff (n : Nat) : tInt n = true ↔ n ∈ allInts := by
  simp [tInt, allInts]
  omega
theorem tSigned_iff (n : Nat) : tSigned n = true ↔ n ∈ signedInts := by
  simp [tSigned, signedInts]
  omega
theorem tScalarInt_iff (n : Nat) : tScalarInt n = true ↔ n ∈ [0, 1, 2, 3] := by
  simp [tScalarInt]
  omega

/-- The elements of a type have 8 to 64 bits. -/
theorem Ty.ofCode_width {n : Nat} {t : Ty} (h : Ty.ofCode n = some t) : t.w = 8 ∨ t.w = 16 ∨ t.w = 32 ∨ t.w = 64 := by
  unfold Ty.ofCode at h
  split at h <;> cases h <;> decide

theorem Ty.ofCode_pos {n : Nat} {t : Ty} (h : Ty.ofCode n = some t) : 0 < t.w := by
  rcases Ty.ofCode_width h with h | h | h | h <;> omega

/-! ## The integer of an element, and fit (R72, R99) -/

theorem Ty.signed_iff (t : Ty) : t.signed = true ↔ t.kind = .signed := by
  unfold Ty.signed
  split <;> simp_all

theorem wrapNat_eq (w : Nat) (x : Int) : wrapNat w x = (BitVec.ofInt w x).toNat := (BitVec.toNat_ofInt ..).symm

theorem sextNat_eq {w : Nat} (hw : 0 < w) (x : Nat) : sextNat w x = (BitVec.ofNat w x).toInt := by
  have hp : 2 ^ w = 2 * 2 ^ (w - 1) := by rw [← Nat.pow_succ', Nat.succ_eq_add_one, Nat.sub_add_cancel hw]
  rw [BitVec.toInt, BitVec.toNat_ofNat, sextNat]
  split <;> split <;> omega

theorem intOf_eq_value {t : Ty} (hw : 0 < t.w) (x : Nat) : intOf t.signed t.w x = value t x := by
  unfold intOf value
  rw [sextNat_eq hw, BitVec.toNat_ofNat]
  simp only [Ty.signed_iff]

theorem intLo_eq_least (t : Ty) : intLo t.signed t.w = least t := by
  simp [intLo, least, Ty.signed_iff]

theorem intHi_eq_greatest (t : Ty) : intHi t.signed t.w = greatest t := by
  simp [intHi, greatest, Ty.signed_iff]

theorem least_le_greatest (t : Ty) : least t ≤ greatest t := by
  have h1 : (0 : Int) < 2 ^ (t.w - 1) := by positivity
  have h2 : (0 : Int) < 2 ^ t.w := by positivity
  unfold least greatest
  split <;> omega

theorem fit_eq_fitted (sat : Bool) (t : Ty) (x : Int) : fit sat t.signed t.w x = fitted sat t x := by
  have hle := least_le_greatest t
  unfold fit fitted
  simp only [intLo_eq_least, intHi_eq_greatest, wrapNat_eq]
  by_cases hlo : x < least t
  · rw [if_neg (by omega)]
    cases sat <;> simp [hlo, fSAT]
  · by_cases hhi : greatest t < x
    · rw [if_neg (by omega)]
      cases sat <;> simp [hlo, hhi, fSAT]
    · rw [if_pos ⟨by omega, by omega⟩]
      simp [hlo, hhi]

/-! ## The rows of R100 and R102 -/

section
variable {c : Ctx} {s : State} {i : Instr}

/-- An integer instruction whose exact result is that of its row. -/
theorem Ready.intRow (h : Ready c s i) {op : Nat} {ok : Nat → Bool} {codes : List Nat} {d : VReg} {a b : Operand}
    {f f' : Nat → Int → Int → Int → Int} {B : Bool → Nat → Nat}
    (he : exec i s = Machine.issue i s fun c => c.intOp op ok d a b f) (hok : ∀ n, ok n = true ↔ n ∈ codes)
    (hf : ∀ t x z l k, f t.w x (value t (elem t.w k (c.operand t.wide b l))) z = f' t.w x (value t (elem t.w k (B t.wide l))) z) :
    (∀ t, Ty.ofCode c.g.ty = some t → c.g.ty ∈ codes → CompletesWith c i s fun g => ElementsWritten c.g g t d fun l k =>
      fitted c.g.sat t (f' t.w (value t (elem t.w k (c.operand t.wide a l))) (value t (elem t.w k (B t.wide l)))
        (value t (elem t.w k (c.g.direct t.wide d.toNat l))))) ∧
    (c.g.ty ∉ codes → TrapsWith c i s (Spec.badType c op)) := by
  refine h.elementRow he hok fun t ht hin l k => ?_
  rw [fit_eq_fitted]
  simp only [intOf_eq_value (Ty.ofCode_pos ht), hf]

/-- One with an immediate. -/
theorem Ready.intImmRow (h : Ready c s i) {op : Nat} {d a : VReg} {n : BitVec 12} {f : Int → Int → Int}
    (he : exec i s = Machine.issue i s fun c => c.intImm op d a n f) :
    (∀ t, Ty.ofCode c.g.ty = some t → c.g.ty ∈ allInts → CompletesWith c i s fun g => ElementsWritten c.g g t d fun l k =>
      fitted c.g.sat t (f (value t (elem t.w k (c.g.direct t.wide a.toNat l))) n.toInt)) ∧
    (c.g.ty ∉ allInts → TrapsWith c i s (Spec.badType c op)) := by
  refine h.elementRow he tInt_iff fun t ht hin l k => ?_
  rw [fit_eq_fitted, intOf_eq_value (Ty.ofCode_pos ht)]
end

/-! The exact results of the rows. -/

theorem natAbs_eq_ite (x : Int) : (x.natAbs : Int) = if x < 0 then -x else x := by
  split <;> omega

theorem ediv_two_pow_eq_fdiv (x : Int) (w : Nat) : x / ((2 ^ w : Nat) : Int) = x.fdiv (2 ^ w) := by
  rw [Int.fdiv_eq_ediv_of_nonneg _ (by positivity)]
  norm_cast

theorem ediv_two_eq_fdiv (x : Int) : x / 2 = x.fdiv 2 :=
  (Int.fdiv_eq_ediv_of_nonneg _ (by decide)).symm

/-- Settles O1: a row at a time, each a case of the integer instructions' common form. -/
theorem integerElementsAreFittedExactResults : Obligations.IntegerElementsAreFittedExactResults := by
  intro c s i r h hrow
  unfold Spec.intRow at hrow
  split at hrow <;> cases hrow
  case h_1 | h_2 | h_3 | h_5 | h_6 => exact h.intRow rfl tInt_iff fun _ _ _ _ _ => rfl
  case h_4 => exact h.intRow rfl tInt_iff fun _ _ _ _ _ => ediv_two_pow_eq_fdiv _ _
  case h_7 => exact h.intRow rfl tSigned_iff fun _ _ _ _ _ => natAbs_eq_ite _
  case h_8 => exact h.intRow rfl tSigned_iff fun _ _ _ _ _ => rfl
  case h_9 => exact h.intRow rfl tInt_iff fun _ _ _ _ _ => min_def _ _
  case h_10 => exact h.intRow rfl tInt_iff fun _ _ _ _ _ => max_def _ _
  case h_11 => exact h.intRow rfl tInt_iff fun _ _ _ _ _ => ediv_two_eq_fdiv _
  case h_12 | h_13 => exact h.intImmRow rfl

end Sys2Proof.Machine
end

section
/-!
SUPPORT and PROOF. Shifts, bit counts and bit fields of elements (spec/04_group_integer.md R105 to R107).
-/
namespace Sys2Proof.Machine
open Sys2Proof.Spec

theorem elem_lt (w k x : Nat) : elem w k x < 2 ^ w := Nat.mod_lt _ (Nat.two_pow_pos w)

/-! ## Shifts (R105) -/

theorem shlElem_eq_shiftLeft {t : Ty} (hw : 0 < t.w) (sat : Bool) (x n : Nat) :
    shlElem sat t.signed t.w x n = shiftLeft t sat x n := by
  have hcast : value t x * ((2 ^ n : Nat) : Int) = value t x * 2 ^ n := by norm_cast
  unfold shlElem shiftLeft
  split
  · next hsat => rw [fit_eq_fitted, intOf_eq_value hw, hcast, hsat]
  · next hsat =>
    rw [fitted, if_neg (fun h => hsat h.1), if_neg (fun h => hsat h.1), ← hcast, BitVec.ofInt_mul]
    have hv : BitVec.ofInt t.w (value t x) = BitVec.ofNat t.w x := by
      unfold value
      split
      · exact BitVec.ofInt_toInt
      · rw [BitVec.ofInt_natCast, BitVec.ofNat_toNat, BitVec.setWidth_eq]
    rw [hv, BitVec.ofInt_natCast, ← BitVec.ofNat_mul, BitVec.toNat_ofNat]

theorem shrElem_eq_shiftRight (t : Ty) {x : Nat} (hx : x < 2 ^ t.w) (n : Nat) : shrElem x n = shiftRight t x n := by
  simp [shrElem, shiftRight, Nat.mod_eq_of_lt hx, Nat.shiftRight_eq_div_pow]

theorem sarElem_eq_shiftArith {t : Ty} (hw : 0 < t.w) (x n : Nat) : sarElem t.w x n = shiftArith t x n := by
  rw [sarElem, shiftArith, sextNat_eq hw, wrapNat_eq, ← Int.shiftRight_eq_div_pow, ← BitVec.toInt_sshiftRight, BitVec.ofInt_toInt]

theorem rolElem_eq_rotateLeft {w : Nat} (hw : 0 < w) {x : Nat} (hx : x < 2 ^ w) (y : Nat) :
    rolElem w x (y % w) = (((BitVec.ofNat w x).rotateLeft (y % w)).toNat, 0) := by
  have hn := Nat.mod_lt y hw
  have hlow : x / 2 ^ (w - y % w) < 2 ^ (y % w) := by
    rw [Nat.div_lt_iff_lt_mul (Nat.two_pow_pos _), ← Nat.pow_add]
    rwa [show y % w + (w - y % w) = w by omega]
  have hhigh : x * 2 ^ (y % w) % 2 ^ w = 2 ^ (y % w) * (x % 2 ^ (w - y % w)) := by
    rw [Nat.mul_comm, ← Nat.mul_mod_mul_left, ← Nat.pow_add, show y % w + (w - y % w) = w by omega]
  have hor := Nat.two_pow_add_eq_or_of_lt hlow (x % 2 ^ (w - y % w))
  rw [rolElem, BitVec.toNat_rotateLeft, BitVec.toNat_ofNat, Nat.mod_eq_of_lt hx, Nat.mod_mod, Nat.shiftLeft_eq,
    Nat.shiftRight_eq_div_pow, hhigh, ← hor, Nat.add_mod, hhigh, Nat.mod_eq_of_lt (a := x / _) (hlow.trans (Nat.pow_lt_pow_right (by omega) hn)),
    Nat.mod_eq_of_lt]
  calc 2 ^ (y % w) * (x % 2 ^ (w - y % w)) + x / 2 ^ (w - y % w)
      < 2 ^ (y % w) * (x % 2 ^ (w - y % w)) + 2 ^ (y % w) := by omega
    _ = 2 ^ (y % w) * (x % 2 ^ (w - y % w) + 1) := by rw [Nat.mul_succ]
    _ ≤ 2 ^ (y % w) * 2 ^ (w - y % w) := Nat.mul_le_mul_left _ (Nat.mod_lt _ (Nat.two_pow_pos _))
    _ = 2 ^ w := by rw [← Nat.pow_add, show y % w + (w - y % w) = w by omega]

/-! ## Counts (R106) -/

theorem takeWhile_range {p : Nat → Bool} {n w : Nat} (hn : n ≤ w) (hlow : ∀ j < n, p j = true) (hend : n < w → p n = false) :
    (List.range w).takeWhile p = List.range n := by
  obtain ⟨m, rfl⟩ := Nat.exists_eq_add_of_le hn
  rw [List.range_add, List.takeWhile_append_of_pos (fun j hj => hlow j (List.mem_range.1 hj))]
  cases m with
  | zero => simp
  | succ m => simp [List.range_succ_eq_map, hend (by omega)]

theorem clzElem_eq_leadingZeros {w x : Nat} (hx : x < 2 ^ w) : clzElem w x = leadingZeros w x := by
  unfold clzElem leadingZeros
  split
  · next h0 => rw [takeWhile_range le_rfl (by simp [h0]) (by omega), List.length_range]
  · next h0 =>
    have hlog : x.log2 < w := (Nat.log2_lt h0).2 hx
    rw [takeWhile_range (n := w - 1 - x.log2) (by omega), List.length_range]
    · intro j hj
      rw [Nat.testBit_lt_two_pow, Bool.not_false]
      exact lt_of_lt_of_le Nat.lt_log2_self (Nat.pow_le_pow_right (by omega) (by omega))
    · intro _
      rw [show w - 1 - (w - 1 - x.log2) = x.log2 by omega, Nat.testBit_log2 h0, Bool.not_true]

theorem popcElem_eq_ones (w x : Nat) : popcElem w x = ones w x := by
  unfold popcElem ones
  induction w with
  | zero => rfl
  | succ w ih =>
    rw [List.range_succ, List.foldl_append, List.filter_append, List.length_append, ih, List.foldl_cons,
      List.foldl_nil, bitOf_eq_testBit]
    cases h : x.testBit w <;> simp [bit, h]

theorem foldl_add_range (f : Nat → Nat) (w : Nat) : (List.range w).foldl (fun n j => n + f j) 0 = ∑ j ∈ Finset.range w, f j := by
  induction w with
  | zero => rfl
  | succ w ih => rw [List.range_succ, List.foldl_append, ih, Finset.sum_range_succ]; rfl

theorem sum_map_range (f : Nat → Nat) (w : Nat) : ((List.range w).map f).sum = ∑ j ∈ Finset.range w, f j := rfl

theorem brevElem_eq_reversed (w x : Nat) : brevElem w x = reversed w x := by
  rw [brevElem, reversed, foldl_add_range, sum_map_range, ← Finset.sum_range_reflect]
  refine Finset.sum_congr rfl fun j hj => ?_
  rw [bitOf_eq_testBit, show w - 1 - (w - 1 - j) = j by have := Finset.mem_range.1 hj; omega]
  cases x.testBit (w - 1 - j) <;> simp [bit]

/-! ## Bit fields (R107) -/

theorem intOf_ofInt {l : Nat} (hl : 0 < l) (signed : Bool) (y : Int) :
    intOf signed l (BitVec.ofInt l y).toNat = if signed then (BitVec.ofInt l y).toInt else (BitVec.ofInt l y).toNat := by
  unfold intOf
  rw [sextNat_eq hl, BitVec.ofNat_toNat, BitVec.setWidth_eq, Nat.mod_eq_of_lt (BitVec.isLt _)]

theorem bfxElem_eq_bitField {t : Ty} (hw : 0 < t.w) (pos len x : Nat) : (bfxElem t.signed t.w pos len x, 0) = bitField t pos len x := by
  have hcast : value t x / ((2 ^ pos : Nat) : Int) = value t x / 2 ^ pos := by norm_cast
  unfold bfxElem bitField
  simp only [intOf_eq_value hw, hcast]
  split
  · simp
  · next hl => simp only [wrapNat_eq, intOf_ofInt (Nat.pos_of_ne_zero hl), Ty.signed_iff]

/-! ## The statement -/

section
variable {c : Ctx} {s : State} {i : Instr} {op : Nat} {d a : VReg}

theorem Ready.shiftRow (h : Ready c s i) {a b : Operand} {f : Ctx → Ty → Nat → Nat → Nat × Nat} {f' : Ty → Bool → Nat → Nat → Nat × Nat}
    (he : exec i s = Machine.issue i s fun c => c.shift op d a b (f c))
    (hf : ∀ t : Ty, 0 < t.w → ∀ x < 2 ^ t.w, ∀ y, f c t x (y % t.w) = f' t c.g.sat x y) :
    (∀ t, Ty.ofCode c.g.ty = some t → c.g.ty ∈ allInts → CompletesWith c i s fun g => ElementsWritten c.g g t d fun l k =>
      f' t c.g.sat (elem t.w k (c.operand t.wide a l)) (elem t.w k (c.operand t.wide b l))) ∧
    (c.g.ty ∉ allInts → TrapsWith c i s (Spec.badType c op)) :=
  h.elementRow he tInt_iff fun t ht _ _ _ => hf t (Ty.ofCode_pos ht) _ (elem_lt _ _ _) _

theorem Ready.shiftImmRow (h : Ready c s i) {n : BitVec 6} {f : Ctx → Ty → Nat → Nat → Nat × Nat} {f' : Ty → Bool → Nat → Nat → Nat × Nat}
    (he : exec i s = Machine.issue i s fun c => c.shiftImm op d a n (f c))
    (hf : ∀ t : Ty, 0 < t.w → ∀ x < 2 ^ t.w, ∀ y, f c t x y = f' t c.g.sat x y) :
    (∀ t, Ty.ofCode c.g.ty = some t → c.g.ty ∈ allInts → CompletesWith c i s fun g => ElementsWritten c.g g t d fun l k =>
      f' t c.g.sat (elem t.w k (c.g.direct t.wide a.toNat l)) (n.toNat % t.w)) ∧
    (c.g.ty ∉ allInts → TrapsWith c i s (Spec.badType c op)) :=
  h.elementRow he tInt_iff fun t ht _ _ _ => hf t (Ty.ofCode_pos ht) _ (elem_lt _ _ _) _

theorem Ready.bitsRow (h : Ready c s i) {a : Operand} {f f' : Nat → Nat → Nat} (he : exec i s = Machine.issue i s fun c => c.bits op d a f)
    (hf : ∀ w, ∀ x < 2 ^ w, f w x = f' w x) :
    (∀ t, Ty.ofCode c.g.ty = some t → c.g.ty ∈ allInts → CompletesWith c i s fun g => ElementsWritten c.g g t d fun l k =>
      (f' t.w (elem t.w k (c.operand t.wide a l)), 0)) ∧
    (c.g.ty ∉ allInts → TrapsWith c i s (Spec.badType c op)) :=
  h.elementRow he tInt_iff fun t _ _ _ _ => Prod.ext (hf t.w _ (elem_lt _ _ _)) rfl
end

/-- Settles O4: a row at a time, with the model's shifts, counts and fields shown equal to the statement's. -/
theorem shiftAndBitResultsPerElement : Obligations.ShiftAndBitResultsPerElement := by
  intro c s i r h hrow
  unfold Spec.bitRow at hrow
  split at hrow <;> cases hrow
  case h_1 => exact h.shiftRow rfl fun t hw x _ y => shlElem_eq_shiftLeft hw _ x _
  case h_2 => exact h.shiftRow rfl fun t _ x hx y => shrElem_eq_shiftRight t hx _
  case h_3 => exact h.shiftRow rfl fun t hw x _ y => sarElem_eq_shiftArith hw x _
  case h_4 => exact h.shiftRow rfl fun t hw x hx y => rolElem_eq_rotateLeft hw hx y
  case h_5 => exact h.shiftImmRow rfl fun t hw x _ _ => shlElem_eq_shiftLeft hw _ x _
  case h_6 => exact h.shiftImmRow (f' := fun t _ => shiftRight t) rfl fun t _ x hx _ => shrElem_eq_shiftRight t hx _
  case h_7 => exact h.shiftImmRow (f' := fun t _ => shiftArith t) rfl fun t hw x _ _ => sarElem_eq_shiftArith hw x _
  case h_8 => exact h.bitsRow rfl fun w x hx => clzElem_eq_leadingZeros hx
  case h_9 => exact h.bitsRow rfl fun w x _ => popcElem_eq_ones w x
  case h_10 => exact h.bitsRow rfl fun w x _ => brevElem_eq_reversed w x
  case h_11 => exact h.elementRow rfl tScalarInt_iff fun t ht _ _ _ => bfxElem_eq_bitField (Ty.ofCode_pos ht) _ _ _

end Sys2Proof.Machine
end

section
/-!
SUPPORT and PROOF. Compares and the other instructions that write predicates (spec/04_group_integer.md R108 to R110).
-/
namespace Sys2Proof.Machine
open Sys2Proof.Spec

/-! ## One predicate -/

theorem PredicateWritten.pc {old new : Group} {q : QReg} {res : Nat → Bool} (h : PredicateWritten old new q res) : new.pc = old.pc := by
  rw [h.frame]

theorem combine_eq_combined (k : Nat) (q r : Bool) : combine k q r = combined k q r := by
  unfold combine combined
  split <;> simp_all [Bool.bne_eq_xor]

theorem Ctx.compare_written (c : Ctx) (k : BitVec 3) (q : QReg) {r r' : Nat → Bool} (hr : ∀ l, r l = r' l) :
    PredicateWritten c.g (c.compare k q r) q fun l => combined k.toNat (c.g.pred q.toNat l) (r' l) := by
  have h := c.g.writeQ_written q fun l => combine k.toNat (c.g.pred q.toNat l) (r l)
  simpa only [combine_eq_combined, hr, Ctx.compare] using h

section
variable {c : Ctx} {s : State} {i : Instr}

theorem Ready.completesWith_predicate (h : Ready c s i) {body : Ctx → Res} {g : Group} {q : QReg} {res : Nat → Bool}
    (he : exec i s = Machine.issue i s body) (hb : body c = c.checked g) (hw : PredicateWritten c.g g q res) :
    CompletesWith c i s fun g => PredicateWritten c.g g q res :=
  h.completesWith he hb hw.pc hw

/-- An instruction under a TYPE check that writes one predicate. -/
theorem Ready.predicateRow (h : Ready c s i) {op : Nat} {ok : Nat → Bool} {codes : List Nat} {k : BitVec 3} {q : QReg}
    {r : Ctx → Ty → Nat → Bool} {r' : Ty → Nat → Bool}
    (he : exec i s = Machine.issue i s fun c => c.typed op ok fun t => c.checked (c.compare k q (r c t)))
    (hok : ∀ n, ok n = true ↔ n ∈ codes) (hr : ∀ t, Ty.ofCode c.g.ty = some t → c.g.ty ∈ codes → ∀ l, r c t l = r' t l) :
    (∀ t, Ty.ofCode c.g.ty = some t → c.g.ty ∈ codes → CompletesWith c i s fun g => PredicateWritten c.g g q fun l =>
      combined k.toNat (c.g.pred q.toNat l) (r' t l)) ∧
    (c.g.ty ∉ codes → TrapsWith c i s (Spec.badType c op)) := by
  refine h.typedRow (G := fun t => c.compare k q (r c t)) he hok fun t ht hin => ?_
  have hw := c.compare_written k q (hr t ht hin)
  exact ⟨rfl, hw.pc, hw⟩
end

/-! ## The relations of elements (R108, R130) -/

theorem tCompare_iff (n : Nat) : tCompare n = true ↔ n ∈ [0, 1, 2, 3, 8, 9] := by
  simp [tCompare]
  omega

theorem Ctx.operand_lt (c : Ctx) (wide : Bool) (o : Operand) (l : Nat) : c.operand wide o l < 2 ^ (if wide then 64 else 32) := by
  unfold Ctx.operand
  split <;> exact BitVec.isLt _

/-- A type that a compare accepts has one element in a lane. -/
theorem Ty.ofCode_compare {n : Nat} {t : Ty} (h : Ty.ofCode n = some t) (hn : n ∈ [0, 1, 2, 3, 8, 9]) :
    t.w = if t.wide then 64 else 32 := by
  simp only [List.mem_cons, List.not_mem_nil, or_false] at hn
  rcases hn with rfl | rfl | rfl | rfl | rfl | rfl <;> cases h <;> rfl

theorem Ty.less_eq_lessThan {t : Ty} (hw : 0 < t.w) (z : Bool) {x y : Nat} (hx : x < 2 ^ t.w) (hy : y < 2 ^ t.w) :
    t.less z x y = lessThan t z x y := by
  unfold Ty.less lessThan value
  cases t.kind with
  | signed => simp [sextNat_eq hw]
  | natural => simp [Nat.mod_eq_of_lt hx, Nat.mod_eq_of_lt hy]
  | float f => rfl

theorem Ty.equal_eq_equalTo {t : Ty} (z : Bool) {x y : Nat} (hx : x < 2 ^ t.w) (hy : y < 2 ^ t.w) : t.equal z x y = equalTo t z x y := by
  have hnat : BitVec.ofNat t.w x = BitVec.ofNat t.w y ↔ x = y := by
    rw [← BitVec.toNat_inj, BitVec.toNat_ofNat, BitVec.toNat_ofNat, Nat.mod_eq_of_lt hx, Nat.mod_eq_of_lt hy]
  unfold Ty.equal equalTo value
  cases t.kind with
  | signed => simp [BitVec.toInt_inj, hnat, Bool.beq_eq_decide_eq]
  | natural => simp [Nat.mod_eq_of_lt hx, Nat.mod_eq_of_lt hy, Bool.beq_eq_decide_eq]
  | float f => rfl

theorem Ty.isNan_eq (t : Ty) (x : Nat) : t.isNan x = Spec.isNan t x := by
  unfold Ty.isNan Spec.isNan
  split <;> simp_all

section
variable {c : Ctx} {s : State} {i : Instr}

/-- A compare whose relation is that of its row, on values of one lane. -/
theorem Ready.compareRow (h : Ready c s i) {op : Nat} {k : BitVec 3} {q : QReg} {a b : Operand}
    {r : Ctx → Ty → Nat → Nat → Bool} {r' : Ty → Bool → Nat → Nat → Bool}
    (he : exec i s = Machine.issue i s fun c => c.cmp op tCompare k q a b (r c))
    (hr : ∀ t : Ty, 0 < t.w → ∀ x < 2 ^ t.w, ∀ y < 2 ^ t.w, r c t x y = r' t c.g.ftz x y) :
    (∀ t, Ty.ofCode c.g.ty = some t → c.g.ty ∈ [0, 1, 2, 3, 8, 9] → CompletesWith c i s fun g => PredicateWritten c.g g q fun l =>
      combined k.toNat (c.g.pred q.toNat l) (r' t c.g.ftz (c.operand t.wide a l) (c.operand t.wide b l))) ∧
    (c.g.ty ∉ [0, 1, 2, 3, 8, 9] → TrapsWith c i s (Spec.badType c op)) := by
  refine h.predicateRow he tCompare_iff fun t ht hin l => hr t (Ty.ofCode_pos ht) _ ?_ _ ?_ <;>
    exact lt_of_lt_of_eq (c.operand_lt ..) (congrArg _ (Ty.ofCode_compare ht hin).symm)
end

theorem comparesWriteOnePredicate : ComparesWriteOnePredicate := by
  intro c s i r h hrow
  unfold Spec.compareRow at hrow
  split at hrow <;> cases hrow
  case h_1 => exact h.compareRow rfl fun t _ x hx y hy => t.equal_eq_equalTo _ hx hy
  case h_2 => exact h.compareRow rfl fun t _ x hx y hy => congrArg _ (t.equal_eq_equalTo _ hx hy)
  case h_3 => exact h.compareRow rfl fun t hw x hx y hy => t.less_eq_lessThan hw _ hx hy
  case h_4 =>
    exact h.compareRow rfl fun t hw x hx y hy =>
      congrArg₂ (· || ·) (t.less_eq_lessThan hw _ hx hy) (t.equal_eq_equalTo _ hx hy)
  case h_5 => exact h.predicateRow rfl (fun n => by simp) fun t _ _ l => congrArg₂ (· || ·) (t.isNan_eq _) (t.isNan_eq _)

/-! ## The other instructions (R108 to R110) -/

theorem and_bne_zero_eq (x y : Word) : (x.toNat &&& y.toNat != 0) = decide (x &&& y ≠ 0) := by
  rw [← BitVec.toNat_and, bne, Bool.beq_eq_decide_eq, ← decide_not, decide_eq_decide, ne_eq, BitVec.toNat_eq]
  rfl

theorem qopOf_eq (o : Nat) (x y : Bool) : qopOf o x y = match o with
    | 0 => x && y
    | 1 => x || y
    | 2 => x ^^ y
    | 3 => x && !y
    | 4 => !(x && y)
    | 5 => !(x || y)
    | 6 => x
    | _ => !x := by
  unfold qopOf
  simp only [Bool.bne_eq_xor] <;> rfl

theorem completesWith_of_predicateRow {c : Ctx} {s : State} {i : Instr} {q : QReg} {f : Nat → Bool} (h : Ready c s i)
    (hrow : Spec.predicateRow c i = some (q, f)) : CompletesWith c i s fun g => PredicateWritten c.g g q f := by
  unfold Spec.predicateRow at hrow
  split at hrow <;> cases hrow
  case h_1 => exact h.completesWith_predicate rfl rfl (c.compare_written _ _ fun l => and_bne_zero_eq _ _)
  case h_2 =>
    refine h.completesWith_predicate rfl rfl ?_
    convert c.g.writeQ_written _ _ using 2 with l
    exact (qopOf_eq _ _ _).symm
  case h_3 => exact h.completesWith_predicate rfl rfl (c.g.writeQ_written _ _)

/-! ## All predicates at once (R110) -/

/-- The lanes acted on may be those of another group than the one written: as if that were the group's own EM, with no guard. -/
theorem Group.writeQ_actives (g h : Group) (q : QReg) (res : Nat → Bool) :
    let new := g.writeQ q (h.actives.map fun i => (i, res i))
    (∀ l < 32, new.pred q.toNat l = if h.active l then res l else g.pred q.toNat l) ∧
    (∀ k, k ≠ q.toNat → ∀ l, new.pred k l = g.pred k l) ∧
    (∀ w, w ∈ new.cpoison ↔ w ∈ g.cpoison ∧ (w ≠ predWord q.toNat ∨ ∃ l < 32, h.active l = false)) ∧
    new = { g with q := new.q, cpoison := new.cpoison } := by
  let g' : Group := { g with em := BitVec.ofFnLE fun l : Fin 32 => h.active l, mode := 0 }
  have hact (l : Nat) (hl : l < 32) : g'.active l = h.active l := by
    simp [Group.active, g', Group.guarded, hl]
  have hacts : g'.actives = h.actives := List.filter_congr fun l hl => hact l (List.mem_range.1 hl)
  have hw := g'.writeQ_written q res
  rw [hacts] at hw
  refine ⟨fun l hl => (hw.value l hl).trans (by rw [hact l hl]; rfl), hw.others, fun w => (hw.whole w).trans ?_, rfl⟩
  refine and_congr_right fun _ => or_congr_right (exists_congr fun l => and_congr_right fun hl => ?_)
  rw [hact l hl]

/-- The group after the first n predicates are written from bits of a register. -/
def Ctx.predsFrom (c : Ctx) (a : VReg) (n : Nat) : Group :=
  (List.range n).foldl (fun g k => g.writeQ (BitVec.ofNat 3 k) (c.g.actives.map fun i => (i, (c.g.vreg a.toNat i).getLsbD k))) c.g

theorem Ctx.predsFrom_written (c : Ctx) (a : VReg) (n : Nat) (hn : n ≤ 8) :
    (∀ k < 8, ∀ l < 32, (c.predsFrom a n).pred k l = if k < n ∧ c.g.active l then (c.g.vreg a.toNat l).getLsbD k else c.g.pred k l) ∧
    (∀ w, w ∈ (c.predsFrom a n).cpoison ↔ w ∈ c.g.cpoison ∧ ((∀ k < n, w ≠ predWord k) ∨ ∃ l < 32, c.g.active l = false)) ∧
    c.predsFrom a n = { c.g with q := (c.predsFrom a n).q, cpoison := (c.predsFrom a n).cpoison } := by
  induction n with
  | zero => exact ⟨fun k _ l _ => by simp [predsFrom], fun w => by simp [predsFrom], rfl⟩
  | succ n ih =>
    obtain ⟨hval, hwhole, hframe⟩ := ih (by omega)
    have hstep : c.predsFrom a (n + 1) = (c.predsFrom a n).writeQ (BitVec.ofNat 3 n)
        (c.g.actives.map fun i => (i, (c.g.vreg a.toNat i).getLsbD n)) := by
      rw [predsFrom, List.range_succ, List.foldl_append]; rfl
    have hnum : (BitVec.ofNat 3 n).toNat = n := by rw [BitVec.toNat_ofNat]; omega
    obtain ⟨hset, hothers, hmend, hnew⟩ := (c.predsFrom a n).writeQ_actives c.g (BitVec.ofNat 3 n) fun i => (c.g.vreg a.toNat i).getLsbD n
    rw [hnum] at hset hothers hmend
    rw [hstep]
    refine ⟨fun k hk l hl => ?_, fun w => ?_, ?_⟩
    · by_cases hkn : k = n
      · subst hkn
        rw [hset l hl, hval k hk l hl]
        simp
      · rw [hothers k hkn, hval k hk l hl]
        simp [show k < n + 1 ↔ k < n by omega]
    · rw [hmend, hwhole, and_assoc]
      refine and_congr_right fun _ => ?_
      constructor
      · rintro ⟨h1 | h1, h2 | h2⟩
        · exact .inl fun k hk => by rcases Nat.lt_succ_iff_lt_or_eq.1 hk with h | rfl; exacts [h1 k h, h2]
        all_goals exact .inr ‹_›
      · rintro (h1 | h1)
        · exact ⟨.inl fun k hk => h1 k (by omega), .inl (h1 n (by omega))⟩
        · exact ⟨.inr h1, .inr h1⟩
    · rw [hnew, hframe]

theorem predicateInstructionsIgnoreType : PredicateInstructionsIgnoreType := by
  refine ⟨fun c s i q f h hrow => completesWith_of_predicateRow h hrow, fun c s a h => ?_⟩
  obtain ⟨hval, hwhole, hframe⟩ := c.predsFrom_written a 8 le_rfl
  refine h.completesWith (g := c.predsFrom a 8) rfl rfl (by rw [hframe]) ⟨fun k hk l hl => ?_, hwhole, hframe⟩
  rw [hval k hk l hl]
  simp [hk]

/-- Settles O5: the compares by their relations' equality on values of one lane, `qfv.all` by induction on the predicates written. -/
theorem comparesAndPredicateInstructions : Obligations.ComparesAndPredicateInstructions :=
  ⟨comparesWriteOnePredicate, predicateInstructionsIgnoreType⟩

end Sys2Proof.Machine
end

section
/-!
SUPPORT and PROOF. Dot products, and the classes of floating elements (spec/04_group_integer.md R101, spec/05_group_float.md R134, R135).
-/
namespace Sys2Proof.Machine
open Sys2Proof.Spec

section
variable {c : Ctx} {s : State} {i : Instr} {op : Nat}

/-- An instruction under a TYPE check that writes lanes. -/
theorem Ready.lanesRow (h : Ready c s i) {ok : Nat → Bool} {codes : List Nat} {d : VReg} {res : Ctx → Ty → Nat → Nat × Nat}
    (he : exec i s = Machine.issue i s fun c => c.typed op ok fun t => c.checked (c.g.putLanes false d (c.g.actives.map fun l => (l, res c t l))))
    (hok : ∀ n, ok n = true ↔ n ∈ codes) :
    (∀ t, Ty.ofCode c.g.ty = some t → c.g.ty ∈ codes → CompletesWith c i s fun g => LanesWritten c.g g false d (res c t)) ∧
    (c.g.ty ∉ codes → TrapsWith c i s (Spec.badType c op)) := by
  refine h.typedRow (G := fun t => c.g.putLanes false d (c.g.actives.map fun l => (l, res c t l))) he hok fun t _ _ => ?_
  have hw := c.g.putLanes_written false d (res c t)
  exact ⟨rfl, hw.pc, hw⟩

/-! ## Dot products (R101) -/

/-- The exact sum of the products of the first n elements, on top of a 32-bit number. -/
def dotSum (c : Ctx) (t t32 : Ty) (d : VReg) (a b : Operand) (n l : Nat) : Int :=
  value t32 (c.g.direct false d.toNat l) + ((List.range n).map fun k =>
    value t (elem t.w k (c.operand false a l)) * value t (elem t.w k (c.operand false b l))).sum

theorem foldl_add_eq_sum (f : Nat → Int) (ks : List Nat) (x : Int) : ks.foldl (fun acc k => acc + f k) x = x + (ks.map f).sum := by
  induction ks generalizing x with
  | nil => simp
  | cons k ks ih => rw [List.foldl_cons, ih, List.map_cons, List.sum_cons, Int.add_assoc]

theorem Ready.dotRow (h : Ready c s i) {d : VReg} {a b : Operand} {count : Nat → Nat}
    (he : exec i s = Machine.issue i s fun c => c.dotOp op d a b count) :
    (∀ t, Ty.ofCode c.g.ty = some t → c.g.ty ∈ [4, 5, 6, 7] → CompletesWith c i s fun g =>
      LanesWritten c.g g false d fun l => fitted c.g.sat ⟨32, 1, t.kind⟩ (dotSum c t ⟨32, 1, t.kind⟩ d a b (count t.n) l)) ∧
    (c.g.ty ∉ [4, 5, 6, 7] → TrapsWith c i s (Spec.badType c op)) := by
  have hrow := h.lanesRow (codes := [4, 5, 6, 7]) he fun n => by simp; omega
  refine ⟨fun t ht hin => ?_, hrow.2⟩
  have hpos := Ty.ofCode_pos ht
  have hsum (l : Nat) : fit c.g.sat t.signed 32 ((List.range (count t.n)).foldl (fun acc k => acc +
      intOf t.signed t.w (elem t.w k (c.operand false a l)) * intOf t.signed t.w (elem t.w k (c.operand false b l)))
        (intOf t.signed 32 (c.g.direct false d.toNat l))) =
      fitted c.g.sat ⟨32, 1, t.kind⟩ (dotSum c t ⟨32, 1, t.kind⟩ d a b (count t.n) l) := by
    rw [foldl_add_eq_sum]
    simp only [intOf_eq_value hpos]
    have hfit := fit_eq_fitted c.g.sat ⟨32, 1, t.kind⟩ (dotSum c t ⟨32, 1, t.kind⟩ d a b (count t.n) l)
    have hval := intOf_eq_value (t := ⟨32, 1, t.kind⟩) Nat.ofNat_pos (c.g.direct false d.toNat l)
    rw [← hfit, dotSum, ← hval]
    rfl
  simpa only [hsum] using hrow.1 t ht hin
end

theorem dotProductsAccumulateExactly : DotProductsAccumulateExactly := by
  refine ⟨fun c s d a b hout => ⟨fun h => ?_, fun h => ?_⟩, fun c s d a b t t32 ht hin ht32 => ?_⟩
  · exact (h.dotRow rfl).2 hout
  · exact (h.dotRow rfl).2 hout
  · subst ht32
    exact ⟨fun h => (h.dotRow rfl).1 t ht hin, fun h => (h.dotRow rfl).1 t ht hin⟩

/-! ## Dot product of pairs, and classes (R134, R135) -/

theorem tHalf_iff (n : Nat) : tHalf n = true ↔ n ∈ [10, 11] := by simp [tHalf]
theorem tClass_iff (n : Nat) : tClass n = true ↔ n ∈ [8, 9, 10, 11, 12, 13] := by
  simp [tClass]
  omega

theorem Rnd.plain_eq (r : Rnd) : r.plain = if r = Rnd.stoch then Rnd.rne else r := by
  cases r <;> rfl

theorem Group.env_eq (g : Group) : g.env = ⟨if g.rnd = Rnd.stoch then Rnd.rne else g.rnd, g.ftz, g.nanm, g.sat, 0⟩ := by
  rw [Group.env, Rnd.plain_eq]

theorem any_range_eq_decide (p : Nat → Bool) (n : Nat) : (List.range n).any p = decide (∃ j ∈ List.range n, p j = true) := by
  rw [Bool.eq_iff_iff, List.any_eq_true, decide_eq_true_iff]

theorem fdotAndFclassComplete : FdotAndFclassComplete := by
  refine ⟨fun c s d a b h => ?_, fun c s k q a m h => ?_⟩
  · rw [← Group.env_eq]
    exact h.lanesRow rfl tHalf_iff
  · exact h.predicateRow rfl tClass_iff fun t _ _ l => any_range_eq_decide _ _

/-- Settles O3: the running sum of a dot product is the sum of its terms, which the model fits once. -/
theorem dotProductsAndClasses : Obligations.DotProductsAndClasses :=
  ⟨dotProductsAccumulateExactly, fdotAndFclassComplete⟩

end Sys2Proof.Machine
end

section
/-!
SUPPORT and PROOF. The element-wise floating instructions (spec/05_group_float.md R124 to R136).
-/
namespace Sys2Proof.Machine
open Sys2Proof.Spec

theorem tFloat_iff (n : Nat) : tFloat n = true ↔ n ∈ floats := by
  simp [tFloat, floats]
  omega
theorem tTrans_iff (n : Nat) : tTrans n = true ↔ n ∈ transcendental := by
  simp [tTrans, transcendental, or_assoc]

/-- The integer that `fscale` reads from an element of its B operand (R132). -/
theorem sextNat_eq_value {t : Ty} (hw : 0 < t.w) (x : Nat) : sextNat t.w x = value ⟨t.w, t.n, .signed⟩ x := by
  rw [sextNat_eq hw]
  rfl

/-- Settles O8: each row is the instruction's own element function under the environment without stochastic rounding. -/
theorem floatElementsPerLane : Obligations.FloatElementsPerLane := by
  intro c s i r h hrow
  rw [← Group.env_eq]
  unfold Spec.floatRow at hrow
  split at hrow <;> cases hrow
  case h_12 | h_13 | h_14 | h_15 => exact h.elementRow rfl tTrans_iff fun _ _ _ _ _ => rfl
  case h_17 => exact h.elementRow rfl tFloat_iff fun t ht _ _ _ => by rw [sextNat_eq_value (Ty.ofCode_pos ht)]
  all_goals exact h.elementRow rfl tFloat_iff fun _ _ _ _ _ => rfl

end Sys2Proof.Machine
end

section
/-!
SUPPORT and PROOF. Rounding at a unit (spec/03_number_formats.md R87).
-/
namespace Sys2Proof.Machine
open Sys2Proof.Spec

/-- Whether the magnitude of a value that is no multiple of the unit u goes up, from its quotient t and remainder d (R87). -/
def roundsUp (r : Rnd) (draw : Nat) (neg : Bool) (t d u : Nat) : Bool := match r with
  | .rne => decide (u < 2 * d) || (2 * d == u && t % 2 == 1)
  | .rtz => false
  | .rup => !neg
  | .rdn => neg
  | .rna => decide (u ≤ 2 * d)
  | .stoch => decide (draw < d * 65536 / u)

theorem roundAt_of_le (r : Rnd) (draw : Nat) (neg : Bool) (m : Nat) {e q : Int} (h : q ≤ e) :
    roundAt r draw neg m e q = (m * 2 ^ (e - q).toNat, true) := by
  rw [roundAt, if_pos h]

theorem roundAt_of_lt (r : Rnd) (draw : Nat) (neg : Bool) (m : Nat) {e q : Int} (h : e < q) :
    roundAt r draw neg m e q =
      if m % 2 ^ (q - e).toNat = 0 then (m / 2 ^ (q - e).toNat, true)
      else (if roundsUp r draw neg (m / 2 ^ (q - e).toNat) (m % 2 ^ (q - e).toNat) (2 ^ (q - e).toNat) then m / 2 ^ (q - e).toNat + 1
        else m / 2 ^ (q - e).toNat, false) := by
  rw [roundAt, if_neg (by omega)]
  rfl

/-- Settles O10: the quotient and remainder by the unit are the nearer neighbour and the distance to it. -/
theorem roundingTakesTheNeighbourOfItsMode : Obligations.RoundingTakesTheNeighbourOfItsMode := by
  intro r draw neg m e q hlt
  simp only [roundAt_of_lt r draw neg m hlt]
  generalize hu : 2 ^ (q - e).toNat = u
  have hpos : 0 < u := hu ▸ Nat.two_pow_pos _
  have hdist : m - m / u * u = m % u := by
    have := Nat.div_add_mod' m u
    omega
  rw [hdist, Nat.dvd_iff_mod_eq_zero]
  by_cases hd : m % u = 0
  · simp only [hd, if_pos, true_implies, not_true, false_implies, and_true, iff_self, true_and]
    exact Nat.div_mul_cancel (Nat.dvd_of_mod_eq_zero hd)
  · simp only [hd, if_false, false_implies, true_and, Bool.false_eq_true, not_false_eq_true, true_implies, iff_self]
    cases r with
    | rne =>
      simp only [roundsUp, Bool.or_eq_true, decide_eq_true_eq, Bool.and_eq_true, beq_iff_eq]
      refine ⟨fun h => if_neg (by omega), fun h => if_pos (by omega), fun h => ?_⟩
      split
      · exact ⟨.inr rfl, by omega⟩
      · exact ⟨.inl rfl, by omega⟩
    | rtz => rfl
    | rup => cases neg <;> rfl
    | rdn => cases neg <;> rfl
    | rna =>
      simp only [roundsUp, decide_eq_true_eq]
      exact ⟨fun h => if_neg (by omega), fun h => if_pos h⟩
    | stoch => simp only [roundsUp, decide_eq_true_eq, Nat.reducePow]

end Sys2Proof.Machine
end

section
/-!
SUPPORT and PROOF. The values of the floating instructions on finite operands and on NaNs (spec/03_number_formats.md R74, R75,
spec/05_group_float.md R126, R127).
-/
namespace Sys2Proof.Machine
open Sys2Proof.Spec

/-! ## Rounding depends on the value alone: m × 2^k at e − k is m at e -/

theorem two_pow_toNat_add {x y : Int} (h : 0 ≤ x) (k : Nat) (hy : y = x + k) : 2 ^ y.toNat = 2 ^ x.toNat * 2 ^ k := by
  rw [← Nat.pow_add]
  congr 1
  omega

theorem roundsUp_scale (r : Rnd) (draw : Nat) (neg : Bool) (t d u k : Nat) :
    roundsUp r draw neg t (d * 2 ^ k) (u * 2 ^ k) = roundsUp r draw neg t d u := by
  have hk := Nat.two_pow_pos k
  cases r with
  | rne =>
    simp only [roundsUp, ← Nat.mul_assoc, Nat.mul_lt_mul_right hk]
    congr 2
    rw [Bool.eq_iff_iff, beq_iff_eq, beq_iff_eq, Nat.mul_left_inj hk.ne']
  | rna => simp only [roundsUp, ← Nat.mul_assoc, Nat.mul_le_mul_right_iff hk]
  | stoch =>
    simp only [roundsUp]
    rw [Nat.mul_right_comm, Nat.mul_div_mul_right _ _ hk]
  | rtz | rup | rdn => rfl

theorem roundAt_scale (r : Rnd) (draw : Nat) (neg : Bool) (m k : Nat) (e q : Int) :
    roundAt r draw neg (m * 2 ^ k) (e - k) q = roundAt r draw neg m e q := by
  have hk := Nat.two_pow_pos k
  by_cases hq : e < q
  · rw [roundAt_of_lt _ _ _ _ hq, roundAt_of_lt _ _ _ _ (by omega), two_pow_toNat_add (x := q - e) (by omega) k (by omega),
      Nat.mul_div_mul_right _ _ hk, Nat.mul_mod_mul_right, roundsUp_scale]
    simp
  · rw [roundAt_of_le _ _ _ _ (by omega : q ≤ e)]
    by_cases hq' : e - k < q
    · rw [roundAt_of_lt _ _ _ _ hq']
      have hm : m * 2 ^ k = m * 2 ^ (e - q).toNat * 2 ^ (q - (e - k)).toNat := by
        rw [Nat.mul_assoc, ← Nat.pow_add]
        congr 2
        omega
      rw [hm, Nat.mul_mod_left, Nat.mul_div_cancel _ (Nat.two_pow_pos _), if_pos rfl]
    · rw [roundAt_of_le _ _ _ _ (by omega), Nat.mul_assoc, ← Nat.pow_add]
      congr 3
      omega

theorem lessMag_iff (m : Nat) (e : Int) (m' : Nat) (e' : Int) : lessMag m e m' e' = true ↔ (m : ℚ) * 2 ^ e < m' * 2 ^ e' := by
  have key (x y : Int) (h : x ≤ y) : (2 : ℚ) ^ y = (2 ^ (y - x).toNat : Nat) * 2 ^ x := by
    have hy : y = ((y - x).toNat : Int) + x := by omega
    conv_lhs => rw [hy]
    rw [zpow_add₀ (by norm_num), zpow_natCast]
    norm_cast
  unfold lessMag
  split
  · next h =>
    rw [decide_eq_true_iff, key e e' h, ← mul_assoc, mul_lt_mul_iff_left₀ (by positivity)]
    norm_cast
  · next h =>
    rw [decide_eq_true_iff, key e' e (by omega), ← mul_assoc, mul_lt_mul_iff_left₀ (by positivity)]
    norm_cast

theorem lessMag_scale (m' : Nat) (e' : Int) (m k : Nat) (e : Int) : lessMag m' e' (m * 2 ^ k) (e - k) = lessMag m' e' m e := by
  rw [Bool.eq_iff_iff, lessMag_iff, lessMag_iff, zpow_sub₀ (by norm_num), zpow_natCast]
  push_cast
  rw [mul_assoc, mul_div_cancel₀ _ (by positivity)]

theorem log2_mul_two_pow {m : Nat} (hm : m ≠ 0) (k : Nat) : (m * 2 ^ k).log2 = m.log2 + k := by
  rw [Nat.log2_eq_iff (by positivity)]
  constructor
  · rw [Nat.pow_add]
    exact Nat.mul_le_mul_right _ (Nat.log2_self_le hm)
  · rw [show m.log2 + k + 1 = m.log2 + 1 + k by omega, Nat.pow_add]
    exact Nat.mul_lt_mul_of_pos_right Nat.lt_log2_self (Nat.two_pow_pos k)

theorem roundF_scale (f : Fmt) (v : Env) (neg : Bool) {m : Nat} (hm : m ≠ 0) (k : Nat) (e : Int) :
    roundF f v neg (m * 2 ^ k) (e - k) = roundF f v neg m e := by
  have hq : e - k + ((m * 2 ^ k).log2 : Int) - f.fb = e + (m.log2 : Int) - f.fb := by
    rw [log2_mul_two_pow hm]
    push_cast
    omega
  unfold roundF
  simp only [hq, roundAt_scale, lessMag_scale]

theorem roundDy_scale (f : Fmt) (v : Env) (z : Bool) (x : Int) (e : Int) (k : Nat) :
    roundDy f v z (x * 2 ^ k, e - k) = roundDy f v z (x, e) := by
  have hk : (0 : Int) < 2 ^ k := by positivity
  unfold roundDy
  by_cases hx : x = 0
  · simp [hx]
  · have hneg : x * 2 ^ k < 0 ↔ x < 0 := by rw [mul_neg_iff]; omega
    have habs : (x * 2 ^ k).natAbs = x.natAbs * 2 ^ k := by rw [Int.natAbs_mul, Int.natAbs_pow]; rfl
    simp only [hneg, habs]
    rw [if_neg (by positivity), if_neg hx, roundF_scale _ _ _ (by omega)]

/-- The model's sum starts from 0 × 2^0, which may lower the exponent. -/
theorem Dy.sum_pair (x y : Dy) : ∃ k : Nat, Dy.sum [x, y] = ((Dy.add x y).1 * 2 ^ k, (Dy.add x y).2 - k) := by
  obtain ⟨x, ex⟩ := x
  obtain ⟨y, ey⟩ := y
  refine ⟨(min ex ey - min (min 0 ex) ey).toNat, ?_⟩
  have hmul (n : Int) (i j k : Int) (hij : 0 ≤ i) (hk : 0 ≤ j) (h : k = i + j) : n * 2 ^ k.toNat = n * 2 ^ i.toNat * 2 ^ j.toNat := by
    rw [mul_assoc, ← pow_add]
    congr 2
    omega
  simp only [Dy.sum, List.foldl_cons, List.foldl_nil, Dy.add, zero_mul, zero_add, add_mul]
  refine Prod.ext (congrArg₂ (· + ·) ?_ ?_) (by simp only; omega)
  · rw [← hmul x _ _ (ex - min (min 0 ex) ey) (by omega) (by omega) (by omega),
      ← hmul x _ _ (ex - min (min 0 ex) ey) (by omega) (by omega) (by omega)]
  · rw [← hmul y _ _ (ey - min (min 0 ex) ey) (by omega) (by omega) (by omega)]

/-! ## Finite operands (R71, R126, R127) -/

theorem finite.eq_fin {a : FVal} (h : finite a) : ∃ n m e, a = .fin n m e := by
  cases a with
  | fin n m e => exact ⟨n, m, e, rfl⟩
  | nan | inf => exact h.elim

theorem zeroSign_pair (r : Rnd) (n m za zb : Bool) :
    zeroSign r [(n, za), (m, zb)] = if za && zb && n == m then n else r == .rdn := by
  rw [show (r == Rnd.rdn) = decide (r = Rnd.rdn) from beq_eq_decide ..]
  cases n <;> cases m <;> cases za <;> cases zb <;> simp [zeroSign]

theorem sumF_pair (f : Fmt) (v : Env) {a b : FVal} (ha : finite a) (hb : finite b) :
    sumF f v [a, b] = roundDy f v (if a.isZero && b.isZero && a.neg == b.neg then a.neg else v.rnd == .rdn) (Dy.add a.dy b.dy) := by
  obtain ⟨k, hk⟩ := Dy.sum_pair a.dy b.dy
  obtain ⟨n, m, e, rfl⟩ := finite.eq_fin ha
  obtain ⟨n', m', e', rfl⟩ := finite.eq_fin hb
  rw [sumF]
  simp only [List.filter, FVal.isInf, List.map_cons, List.map_nil, hk, zeroSign_pair, roundDy_scale]

theorem FVal.negate_fin {a : FVal} (h : finite a) :
    finite a.negate ∧ a.negate.neg = !a.neg ∧ a.negate.isZero = a.isZero ∧ a.negate.dy = Dy.neg a.dy := by
  obtain ⟨n, m, e, rfl⟩ := finite.eq_fin h
  refine ⟨trivial, rfl, rfl, ?_⟩
  cases n <;> simp [FVal.negate, FVal.dy, Dy.neg]

/-- The product of finite values. -/
theorem mulF_finite {a b : FVal} (ha : finite a) (hb : finite b) : ∃ p, mulF a b = some p ∧ finite p ∧ p.neg = (a.neg ^^ b.neg) ∧
    p.isZero = (a.isZero || b.isZero) ∧ p.dy = Dy.mul a.dy b.dy := by
  obtain ⟨n, m, e, rfl⟩ := finite.eq_fin ha
  obtain ⟨n', m', e', rfl⟩ := finite.eq_fin hb
  refine ⟨.fin (n != n') (m * m') (e + e'), by simp [mulF, FVal.isInf], trivial, by simp [FVal.neg, Bool.bne_eq_xor], ?_, ?_⟩
  · rw [Bool.eq_iff_iff]
    simp [FVal.isZero]
  · cases n <;> cases n' <;> simp [FVal.dy, Dy.mul]

theorem prodElem_finite (f : Fmt) (v : Env) {a b : FVal} (ha : finite a) (hb : finite b) :
    prodElem f v [a, b] = roundDy f v (a.neg ^^ b.neg) (Dy.mul a.dy b.dy) := by
  obtain ⟨p, hp, hfin, hneg, -, hdy⟩ := mulF_finite ha hb
  obtain ⟨n, m, e, rfl⟩ := finite.eq_fin hfin
  rw [prodElem, show mulF (opA [a, b]) (opB [a, b]) = _ from hp, ← hneg, ← hdy]
  unfold roundDy
  by_cases hm : m = 0
  · cases n <;> simp [hm, FVal.dy, FVal.neg]
  · have hpos : 0 < m := Nat.pos_of_ne_zero hm
    have hnn : ¬ (m : Int) < 0 := by omega
    cases n <;> simp [hm, hpos, hnn, FVal.dy]

theorem fmaElem_finite (minus : Bool) (f : Fmt) (v : Env) {a b d : FVal} (ha : finite a) (hb : finite b) (hd : finite d) :
    fmaElem minus f v [a, b, d] =
      roundDy f v (if (a.isZero || b.isZero) && d.isZero && (a.neg ^^ b.neg ^^ minus) == d.neg then a.neg ^^ b.neg ^^ minus else v.rnd == .rdn)
        (Dy.add (if minus then Dy.neg (Dy.mul a.dy b.dy) else Dy.mul a.dy b.dy) d.dy) := by
  obtain ⟨p, hp, hfin, hneg, hzero, hdy⟩ := mulF_finite ha hb
  rw [fmaElem, show mulF (opA [a, b, d]) (opB [a, b, d]) = _ from hp]
  cases minus with
  | false =>
    change sumF f v [p, d] = _
    rw [sumF_pair _ _ hfin hd, hneg, hzero, hdy]
    simp
  | true =>
    obtain ⟨hfin', hneg', hzero', hdy'⟩ := FVal.negate_fin hfin
    change sumF f v [p.negate, d] = _
    rw [sumF_pair _ _ hfin' hd, hneg', hzero', hdy', hneg, hzero, hdy]
    simp

theorem firstNan_finite {xs : List FVal} (h : ∀ x ∈ xs, finite x) : firstNan xs = none := by
  induction xs with
  | nil => rfl
  | cons x xs ih =>
    obtain ⟨n, m, e, rfl⟩ := finite.eq_fin (h x (by simp))
    exact ih fun y hy => h y (by simp [hy])

theorem floatElem_finite (f : Fmt) (v : Env) {us : List Nat} (own : List FVal → Nat × Nat) (h : ∀ u ∈ us, finite (readF f v.ftz u)) :
    floatElem f v us own = own (us.map (readF f v.ftz)) := by
  simp only [floatElem, firstNan_finite (List.forall_mem_map.2 h)]

theorem floatArithmeticRoundsTheExactResultOnce : FloatArithmeticRoundsTheExactResultOnce := by
  intro t v x y z r i hrow a b d ha hb hd
  have hxy : ∀ u ∈ [x, y], finite (readF t.fmt v.ftz u) := by simpa using ⟨ha, hb⟩
  have hxyz : ∀ u ∈ [x, y, z], finite (readF t.fmt v.ftz u) := by simpa using ⟨ha, hb, hd⟩
  unfold Spec.floatRow at hrow
  split at hrow <;> cases hrow
  case h_1 => exact (floatElem_finite _ _ _ hxy).trans (sumF_pair _ _ ha hb)
  case h_2 =>
    obtain ⟨hfin, hneg, hzero, hdy⟩ := FVal.negate_fin hb
    have hsum := sumF_pair t.fmt v ha hfin
    rw [hneg, hzero, hdy] at hsum
    exact (floatElem_finite (own := fun xs => sumF t.fmt v [opA xs, (opB xs).negate]) _ _ hxy).trans hsum
  case h_3 => exact (floatElem_finite _ _ _ hxy).trans (prodElem_finite _ _ ha hb)
  case h_4 => simpa using (floatElem_finite _ _ _ hxyz).trans (fmaElem_finite false _ _ ha hb hd)
  case h_5 => simpa using (floatElem_finite _ _ _ hxyz).trans (fmaElem_finite true _ _ ha hb hd)
  all_goals trivial

/-! ## NaN operands (R74, R75) -/

/-- FTZ does not change a NaN, and makes none. -/
theorem readF_of_nan {f : Fmt} {ftz : Bool} {x : Nat} {n : Bool} {p : Nat} (h : unpack f x = .nan n p) : readF f ftz x = .nan n p := by
  rw [readF, h]

theorem readF_isNan (f : Fmt) (ftz : Bool) (x : Nat) : (readF f ftz x).isNan = (unpack f x).isNan := by
  unfold readF
  split
  · next h =>
    rw [h]
    split <;> rfl
  · rfl

theorem firstNan_cons_of_not {a : FVal} {xs : List FVal} (h : ¬ a.isNan = true) : firstNan (a :: xs) = firstNan xs := by
  cases a with
  | nan => exact absurd rfl h
  | inf | fin => rfl

/-- What R75 keeps of a NaN operand. -/
def keptNan (f : Fmt) (v : Env) (w : Nat) : Nat × Nat := match unpack f w with
  | .nan n p => (keepNan f v.nanm n p, 0)
  | _ => (0, 0)

theorem floatElem_nan (f : Fmt) (v : Env) {us : List Nat} {w : Nat} {vs : List Nat} (own : List FVal → Nat × Nat)
    (hus : ∀ u ∈ us, ¬ (unpack f u).isNan = true) (hw : (unpack f w).isNan = true) :
    floatElem f v (us ++ w :: vs) own = keptNan f v w := by
  have hfirst : firstNan ((us ++ w :: vs).map (readF f v.ftz)) = firstNan [unpack f w] := by
    induction us with
    | nil =>
      cases h : unpack f w with
      | nan n p =>
        rw [List.nil_append, List.map_cons, readF_of_nan h]
        rfl
      | inf | fin => rw [h] at hw; cases hw
    | cons u us ih =>
      rw [List.cons_append, List.map_cons, firstNan_cons_of_not (by rw [readF_isNan]; exact hus u (by simp))]
      exact ih fun u' hu' => hus u' (by simp [hu'])
  cases h : unpack f w with
  | nan n p => simp only [floatElem, hfirst, h, firstNan, keptNan]
  | inf | fin => rw [h] at hw; cases hw

theorem firstNanOperandPropagates : FirstNanOperandPropagates := by
  intro t v x y z r i hrow kept na nb nd
  have h1 {vs} (own) : na → floatElem t.fmt v (x :: vs) own = kept x := floatElem_nan _ _ (us := []) own (by simp)
  have h2 {vs} (own) : ¬na → nb → floatElem t.fmt v (x :: y :: vs) own = kept y := fun ha =>
    floatElem_nan _ _ (us := [x]) own fun u hu => by rw [List.mem_singleton.1 hu]; exact ha
  have h3 (own) : ¬na → ¬nb → nd → floatElem t.fmt v [x, y, z] own = kept z := fun ha hb =>
    floatElem_nan _ _ (us := [x, y]) own fun u hu => by
      rcases List.mem_pair.1 hu with rfl | rfl
      exacts [ha, hb]
  unfold Spec.floatRow at hrow
  split at hrow <;> cases hrow
  case h_1 | h_3 | h_8 => exact ⟨h1 _, h2 _⟩
  case h_2 =>
    let own := fun xs => sumF t.fmt v [opA xs, (opB xs).negate]
    exact ⟨h1 own, h2 own⟩
  case h_4 | h_5 => exact ⟨h1 _, h2 _, h3 _⟩
  case h_6 | h_7 | h_19 => trivial
  all_goals exact h1 _

/-- Settles O9: rounding depends on the exact value alone, and the first NaN operand decides before an instruction's own case. -/
theorem floatArithmeticIsRoundedOnce : Obligations.FloatArithmeticIsRoundedOnce :=
  ⟨floatArithmeticRoundsTheExactResultOnce, firstNanOperandPropagates⟩

end Sys2Proof.Machine
end

section
/-!
SUPPORT and PROOF. The rounding shift and conversion (spec/04_group_integer.md R103, spec/05_group_float.md R137, R138, with R28 and R92).
-/
namespace Sys2Proof.Machine
open Sys2Proof.Spec

/-- A draw raises CTR by one under STOCH (R28, R92). -/
theorem Group.drawn_eq {g old : Group} (hr : g.rnd = old.rnd) (hc : g.ctr = old.ctr) :
    g.drawn = { g with ctr := if old.rnd = Rnd.stoch then old.ctr + 1 else old.ctr } := by
  rw [Group.drawn, hr]
  split
  · rw [hc]
  · rw [← hc]

theorem ElementsWritten.draws {old new : Group} {t : Ty} {d : VReg} {res : Nat → Nat → Nat × Nat} (h : ElementsWritten old new t d res) :
    new.rnd = old.rnd ∧ new.ctr = old.ctr := by
  rw [h.frame]
  exact ⟨rfl, rfl⟩

theorem LanesWritten.draws {old new : Group} {w : Bool} {d : VReg} {res : Nat → Nat × Nat} (h : LanesWritten old new w d res) :
    new.rnd = old.rnd ∧ new.ctr = old.ctr := by
  rw [h.frame]
  exact ⟨rfl, rfl⟩

/-- An instruction that rounds with a draw, and completes. -/
theorem Ready.draws {c : Ctx} {s : State} {i : Instr} (h : Ready c s i) {body : Ctx → Res} {g : Group} (he : exec i s = Machine.issue i s body)
    (hb : body c = c.checked g.drawn) (hpc : g.pc = c.g.pc) (hd : g.rnd = c.g.rnd ∧ g.ctr = c.g.ctr) :
    ∃ u, exec i s = .next u ∧
      Ran c s u ({ g with ctr := if c.g.rnd = Rnd.stoch then c.g.ctr + 1 else c.g.ctr }.completed (c.g.pc + 4)) := by
  obtain ⟨u, hu, hran⟩ := h.done (hb.trans (h.checked g.drawn))
  rw [Group.drawn_eq hd.1 hd.2] at hran
  exact ⟨u, he.trans hu, hpc ▸ hran⟩

/-! ## The rounding shift (R103) -/

/-- An element of `rsh`: the quotient rounded once, and narrowed if bit 7 of the count element says so. -/
def shifted (v : Env) (t : Ty) (x y : Nat) : Nat × Nat :=
  let n := value t x
  let q := roundAt v.rnd v.draw (decide (n < 0)) n.natAbs (-((y % t.w : Nat) : Int)) 0
  let whole : Int := if n < 0 then -(q.1 : Int) else q.1
  let half : Ty := ⟨t.w / 2, t.n, t.kind⟩
  let narrow := fitted v.sat half whole
  let inx := if q.2 then 0 else 2
  if y.testBit 7 then ((BitVec.ofInt t.w (value half narrow.1)).toNat, narrow.2 + inx) else ((BitVec.ofInt t.w whole).toNat, inx)

theorem rshElem_eq_shifted {t : Ty} (hw : 1 < t.w) (v : Env) (x y : Nat) : rshElem v t.signed t.w x y = shifted v t x y := by
  have hfit (q : Int) : fit v.sat t.signed (t.w / 2) q = fitted v.sat ⟨t.w / 2, t.n, t.kind⟩ q :=
    fit_eq_fitted v.sat ⟨t.w / 2, t.n, t.kind⟩ q
  have hval (h : Nat) : intOf t.signed (t.w / 2) h = value ⟨t.w / 2, t.n, t.kind⟩ h :=
    intOf_eq_value (t := ⟨t.w / 2, t.n, t.kind⟩) (Nat.div_pos hw Nat.two_pos) h
  unfold rshElem shifted roundInt
  simp only [intOf_eq_value (by omega : 0 < t.w), decide_eq_true_eq, hfit, hval, wrapNat_eq, bitOf_eq_testBit, fINX]

theorem rshRoundsTheQuotient : RshRoundsTheQuotient := by
  intro c s d a b h
  have hok (n : Nat) : (fun t => decide (t ≤ 5)) n = true ↔ n ∈ [0, 1, 2, 3, 4, 5] := by simp; omega
  refine ⟨fun t ht hin => ?_, fun hout => h.trapsWith rfl (c.typed_of_rejects _ _ (Bool.eq_false_iff.2 (mt (hok _).1 hout)))⟩
  have hw := c.mould_written t d (c.operand t.wide a) (c.operand t.wide b) (fun i k x y _ => rshElem (c.g.drawEnv i k) t.signed t.w x y)
    (Ty.ofCode_fills ht)
  obtain ⟨u, hu, hran⟩ := h.draws rfl (c.typed_of_accepts _ _ ht ((hok _).2 hin)) hw.pc hw.draws
  refine ⟨u, _, hu, hran, ?_⟩
  have hwide : 1 < t.w := by rcases Ty.ofCode_width ht with h | h | h | h <;> omega
  change ElementsWritten c.g _ t d fun l k =>
    shifted (c.g.drawEnv l k) t (elem t.w k (c.operand t.wide a l)) (elem t.w k (c.operand t.wide b l))
  simpa only [rshElem_eq_shifted hwide] using hw

/-! ## Conversion (R137, R138) -/

theorem cvtConvertsEachElement : CvtConvertsEachElement := by
  intro c s d a k dst h hdst
  refine ⟨fun src ht => ?_, fun hout => h.trapsWith rfl (c.typed_of_reserved _ _ _ hout)⟩
  have hw := c.g.putLanes_written dst.wide d fun i =>
    let x := c.operand src.wide a i
    if k.toNat = c.g.ty then (x, 0) else cvtLane c.g i src dst x
  obtain ⟨u, hu, hran⟩ := h.draws rfl ((c.typed_of_accepts _ _ ht rfl).trans (by rw [hdst])) hw.pc hw.draws
  exact ⟨u, _, hu, hran, hw⟩

/-- Settles O11: the elements of `rsh` are the statement's, and both instructions draw once. -/
theorem roundingShiftAndConversion : Obligations.RoundingShiftAndConversion :=
  ⟨rshRoundsTheQuotient, cvtConvertsEachElement⟩

end Sys2Proof.Machine
end

section
/-!
SUPPORT and PROOF. Scalar registers: the scalar instructions, reductions and votes, and a lane written from a scalar
(spec/04_group_integer.md R116 to R121).
-/
namespace Sys2Proof.Machine
open Sys2Proof.Spec

/-! ## One scalar -/

theorem mem_removeNum {l : List Nat} {k x : Nat} : x ∈ removeNum l k ↔ x ∈ l ∧ x ≠ k := by
  simp [removeNum]

theorem Group.setS_written (g : Group) (d : SReg) (x : DWord) : ScalarWritten g (g.setS d x) d x where
  value := Cells.get_set_same ..
  others e he := Cells.get_set_ne _ _ _ _ _ fun h => he (BitVec.eq_of_toNat_eq h.symm)
  whole _ := mem_removeNum

/-- The frame of a scalar write. -/
theorem Group.setS_frame (g : Group) (d : SReg) (x : DWord) : g.setS d x = { g with s := (g.setS d x).s, cpoison := (g.setS d x).cpoison } := rfl

section
variable {c : Ctx} {s : State} {i : Instr}

theorem Ready.completesWith_scalar (h : Ready c s i) {body : Ctx → Res} {d : SReg} {x y : DWord} (he : exec i s = Machine.issue i s body)
    (hb : body c = .done (c.put (c.g.setS d x))) (hx : x = y) :
    CompletesWith c i s fun g => ScalarWritten c.g g d y ∧ g = { c.g with s := g.s, cpoison := g.cpoison } :=
  h.completesWith_done he hb rfl ⟨hx ▸ c.g.setS_written d x, rfl⟩
end

/-! ## The scalar instructions (R116) -/

theorem extractLsb'_low_toNat (x : DWord) (n : Nat) : (x.extractLsb' 0 n).toNat = x.toNat % 2 ^ n := by
  simp [BitVec.extractLsb'_toNat]

theorem shiftLeft_or_eq_append (x : DWord) (i : BitVec 19) : (x <<< 19 ||| i.setWidth 64) = x.extractLsb' 0 45 ++ i := by
  apply BitVec.eq_of_getLsbD_eq
  intro n hn
  simp only [BitVec.getLsbD_or, BitVec.getLsbD_shiftLeft, BitVec.getLsbD_setWidth, BitVec.getLsbD_append, BitVec.getLsbD_extractLsb',
    Nat.zero_add, hn, decide_true, Bool.true_and]
  by_cases h : n < 19
  · simp [h]
  · have h45 : n - 19 < 45 := by omega
    simp [h, h45, BitVec.getLsbD_of_ge i n (by omega)]

/-! ## Votes (R120) -/

/-- The lanes of a predicate as the bits of a number. -/
theorem laneMask_testBit (f : Nat → Bool) (n : Nat) : (laneMask f).testBit n = (decide (n < 32) && f n) := by
  have h := foldl_bits_testBit lanes f n List.pairwise_lt_range 0 fun i _ => Nat.two_pow_pos i
  simpa [laneMask, lanes] using h

theorem foldl_bits_eq_sum (f : Nat → Bool) (ls : List Nat) (acc : Nat) :
    ls.foldl (fun m i => m + bit (f i) * 2 ^ i) acc = acc + ((ls.filter f).map fun i => 2 ^ i).sum := by
  induction ls generalizing acc with
  | nil => simp
  | cons i ls ih =>
    rw [List.foldl_cons, ih, List.filter_cons]
    cases f i <;> simp [bit, Nat.add_assoc]

theorem laneMask_eq_sum (f : Nat → Bool) : laneMask f = ((lanes.filter f).map fun i => 2 ^ i).sum := by
  rw [laneMask, foldl_bits_eq_sum, Nat.zero_add]

theorem laneMask_eq_zero_iff (f : Nat → Bool) : laneMask f = 0 ↔ lanes.filter f = [] := by
  rw [laneMask_eq_sum]
  cases lanes.filter f with
  | nil => simp
  | cons l ls =>
    have := Nat.two_pow_pos l
    simp only [List.map_cons, List.sum_cons, reduceCtorEq, iff_false]
    omega

theorem laneMask_eq_iff (f g : Nat → Bool) : laneMask f = laneMask g ↔ ∀ l < 32, f l = g l := by
  constructor
  · intro h l hl
    have := congrArg (Nat.testBit · l) h
    simpa [laneMask_testBit, hl] using this
  · intro h
    refine Nat.eq_of_testBit_eq fun n => ?_
    rw [laneMask_testBit, laneMask_testBit]
    by_cases hn : n < 32
    · rw [h n hn]
    · simp [hn]

theorem popcElem_laneMask (f : Nat → Bool) : popcElem 32 (laneMask f) = (lanes.filter f).length := by
  rw [popcElem_eq_ones, ones]
  congr 1
  refine List.filter_congr fun l hl => ?_
  rw [laneMask_testBit, decide_eq_true (List.mem_range.1 hl), Bool.true_and]

/-- What `vote` counts: the mask, whether any lane votes, whether all that are acted on do, and how many do. -/
theorem vote_eq (g : Group) (p k : Nat) :
    BitVec.ofNat 64 (match k with
      | 0 => laneMask fun i => g.active i && g.pred p i
      | 1 => bit ((laneMask fun i => g.active i && g.pred p i) != 0)
      | 2 => bit ((laneMask fun i => g.active i && g.pred p i) == laneMask g.active)
      | _ => popcElem 32 (laneMask fun i => g.active i && g.pred p i)) =
    match k with
      | 0 => BitVec.ofNat 64 ((lanes.filter fun l => g.active l && g.pred p l).map fun l => 2 ^ l).sum
      | 1 => if (lanes.filter fun l => g.active l && g.pred p l).isEmpty then 0 else 1
      | 2 => if ∀ l ∈ g.actives, g.pred p l = true then 1 else 0
      | _ => BitVec.ofNat 64 (lanes.filter fun l => g.active l && g.pred p l).length := by
  split
  · rw [laneMask_eq_sum]
  · by_cases h : (lanes.filter fun l => g.active l && g.pred p l) = []
    · simp [h, (laneMask_eq_zero_iff _).2 h, bit]
    · have h0 := mt (laneMask_eq_zero_iff _).1 h
      simp [h, h0, bit]
  · have hall : (laneMask fun i => g.active i && g.pred p i) = laneMask g.active ↔ ∀ l ∈ g.actives, g.pred p l = true := by
      rw [laneMask_eq_iff]
      refine forall_congr' fun l => ?_
      rw [Group.mem_actives]
      cases g.active l <;> simp
    by_cases h : ∀ l ∈ g.actives, g.pred p l = true
    · rw [if_pos h, beq_iff_eq.2 (hall.2 h)]
      rfl
    · rw [if_neg h, beq_eq_false_iff_ne.2 (mt hall.1 h)]
      rfl
  · rw [popcElem_laneMask]

theorem dword_eq_append (lo hi : Word) : dword lo hi = hi ++ lo := by
  apply BitVec.eq_of_toNat_eq
  have hlo := lo.isLt
  have hhi := hi.isLt
  rw [dword, BitVec.toNat_ofNat, toNat_append_eq_add]
  omega

/-- A register or pair of a lane, as 64 bits. -/
theorem ofNat_direct_eq (g : Group) (p : Bool) (m l : Nat) :
    BitVec.ofNat 64 (g.direct p m l) = if p then g.vreg (m + 1) l ++ g.vreg m l else (g.vreg m l).setWidth 64 := by
  cases p with
  | false => exact BitVec.ofNat_toNat ..
  | true =>
    rw [if_pos rfl, Group.direct_wide, dword_eq_append]
    simp

theorem scalarInstructionsWriteOneScalar : ScalarInstructionsWriteOneScalar := by
  intro c s i d x h hrow
  unfold Spec.scalarRow at hrow
  split at hrow <;> cases hrow
  case h_8 => exact h.completesWith_scalar rfl rfl (congrArg _ (extractLsb'_low_toNat _ 6).symm)
  case h_10 => exact h.completesWith_scalar rfl rfl (congrArg _ (extractLsb'_low_toNat _ 6).symm)
  case h_12 => exact h.completesWith_scalar rfl rfl (congrArg _ (extractLsb'_low_toNat _ 6).symm)
  case h_15 => exact h.completesWith_scalar rfl rfl (shiftLeft_or_eq_append _ _)
  case h_17 => exact h.completesWith_scalar rfl rfl (by simp only [BitVec.slt, decide_eq_true_eq])
  case h_18 => exact h.completesWith_scalar rfl rfl (by simp only [BitVec.ult, decide_eq_true_eq])
  case h_19 => exact h.completesWith_scalar rfl rfl (ofNat_direct_eq _ _ _ _)
  case h_20 => exact h.completesWith_scalar rfl (h.checked _) (vote_eq ..)
  all_goals exact h.completesWith_scalar rfl rfl rfl

/-! ## Reductions (R117) -/

theorem ite_lt_eq_ite_le {α : Type} (a b : Int) (x y : α) : (if b < a then y else x) = if a ≤ b then x else y := by
  by_cases h : a ≤ b
  · rw [if_pos h, if_neg (by omega)]
  · rw [if_neg h, if_pos (by omega)]

theorem ite_lt_eq_ite_le_of_inj {α : Type} {a b : Int} {x y : α} (hinj : a = b → x = y) :
    (if a < b then y else x) = if a ≤ b then y else x := by
  by_cases h : a < b
  · rw [if_pos h, if_pos (by omega)]
  · rw [if_neg h]
    split
    · exact hinj (by omega)
    · rfl

theorem redStep_eq_reduce (o : Nat) (x y : DWord) : redStep o x y = reduce o x y := by
  unfold redStep reduce
  simp only [BitVec.slt, BitVec.ult, decide_eq_true_eq]
  split
  case h_2 => exact ite_lt_eq_ite_le _ _ _ _
  case h_3 => exact ite_lt_eq_ite_le_of_inj BitVec.eq_of_toInt_eq
  case h_7 => simpa only [Nat.cast_lt, Nat.cast_le] using ite_lt_eq_ite_le (x.toNat : Int) y.toNat x y
  case h_8 =>
    have hinj : (x.toNat : Int) = y.toNat → x = y := fun h => BitVec.eq_of_toNat_eq (by omega)
    simpa only [Nat.cast_lt, Nat.cast_le] using ite_lt_eq_ite_le_of_inj hinj
  all_goals rfl

theorem ofInt_two_pow_sub_one (n : Nat) : BitVec.ofInt 64 (2 ^ n - 1) = BitVec.ofNat 64 (2 ^ n - 1) := by
  rw [← BitVec.ofInt_natCast, Nat.cast_sub (Nat.two_pow_pos n)]
  push_cast
  rfl

theorem redIdentity_eq_identity (o w : Nat) : redIdentity o w = identity o w := by
  unfold redIdentity identity
  split
  case h_2 | h_7 => exact (ofInt_two_pow_sub_one _).symm
  case h_3 =>
    rw [← BitVec.ofInt_natCast, ← BitVec.ofInt_neg]
    push_cast
    rfl
  case h_8 => split <;> simp_all
  all_goals rfl

theorem vredFoldsActiveLanes : VredFoldsActiveLanes := by
  intro c s d o m h
  refine h.typedRow (G := fun t => c.g.setS d (c.g.actives.foldl (fun acc i =>
      redStep o.toNat acc (BitVec.ofInt 64 (intOf t.signed t.w (c.g.direct t.wide m.toNat i)))) (redIdentity o.toNat t.w)))
    rfl tScalarInt_iff fun t ht _ => ⟨rfl, rfl, ?_, rfl⟩
  simp only [← intOf_eq_value (Ty.ofCode_pos ht), ← redStep_eq_reduce, ← redIdentity_eq_identity]
  exact c.g.setS_written d _

/-! ## A lane from a scalar (R119) -/

theorem loWord_toNat (x : DWord) : (loWord x).toNat = x.toNat % 2 ^ 32 := BitVec.toNat_ofNat ..

/-- A scalar, or its low word, is written into one lane of a pair or register. -/
def Group.writeLane (g : Group) (p : Bool) (m l : Nat) (x : DWord) : Group :=
  if p then g.writePair m [(l, x)] else g.writeV m [(l, loWord x)]

theorem Group.writeLane_frame (g : Group) (p : Bool) (m l : Nat) (x : DWord) :
    g.writeLane p m l x = { g with v := (g.writeLane p m l x).v, vpoison := (g.writeLane p m l x).vpoison } := by
  cases p with
  | false => exact g.writeV_frame m [(l, loWord x)]
  | true => exact g.writePair_frame m [(l, x)]

theorem Group.writeLane_poison (g : Group) (p : Bool) (m l : Nat) (x : DWord) : ∀ n ∈ (g.writeLane p m l x).vpoison, n ∈ g.vpoison := by
  cases p with
  | false => exact g.writeV_poison m [(l, loWord x)]
  | true => exact g.writePair_poison m [(l, x)]

theorem Group.vreg_writeLane (g : Group) (p : Bool) (m : Nat) {l l' : Nat} (x : DWord) (hl : l < 32) (hl' : l' < 32) (r : Nat) :
    (g.writeLane p m l x).vreg r l' =
      if p = true ∧ r = m + 1 ∧ l' = l then hiWord x else if r = m ∧ l' = l then loWord x else g.vreg r l' := by
  cases p with
  | false => simpa [writeLane] using g.vreg_writeV m [l] (fun _ => loWord x) r l' hl' (by simpa using hl)
  | true => simpa [writeLane] using g.vreg_writePair m [l] (fun _ => x) r l' hl' (by simpa using hl)

theorem Group.direct_writeLane (g : Group) (p : Bool) (m : Nat) {l l' : Nat} (x : DWord) (hl : l < 32) (hl' : l' < 32) :
    (g.writeLane p m l x).direct p m l' = if l' = l then if p then x.toNat else x.toNat % 2 ^ 32 else g.direct p m l' := by
  cases p with
  | false =>
    simp only [Group.direct, Bool.false_eq_true, false_and, if_false, Group.vreg_writeLane g false m x hl hl', true_and]
    split
    · exact loWord_toNat x
    · rfl
  | true =>
    simp only [Group.direct_wide, Group.vreg_writeLane g true m x hl hl']
    by_cases h : l' = l <;> simp [h, dword_halves]

theorem vinsWritesTheNamedLane : VinsWritesTheNamedLane := by
  intro c s a b p m h
  have hnamed : ((c.g.sreg b).extractLsb' 0 5).toNat = (c.g.sreg b).toNat % 32 := extractLsb'_low_toNat _ 5
  have hl := Nat.mod_lt (c.g.sreg b).toNat (show 0 < 32 by decide)
  by_cases hact : c.g.active ((c.g.sreg b).toNat % 32) = true
  · have hframe := c.g.writeLane_frame p m.toNat ((c.g.sreg b).toNat % 32) (c.g.sreg a)
    refine h.completesWith_done (g := c.g.writeLane p m.toNat ((c.g.sreg b).toNat % 32) (c.g.sreg a)) rfl (congrArg c.finish (if_pos hact)) (by rw [hframe]) ⟨fun l' hl' => ?_, fun r l' hl' hr hr' => ?_, c.g.writeLane_poison _ _ _ _, hframe⟩
    · rw [hnamed, c.g.direct_writeLane p _ _ hl hl']
      by_cases hl'' : l' = (c.g.sreg b).toNat % 32 <;> simp [hl'', hact]
    · rw [c.g.vreg_writeLane p _ _ hl hl', if_neg (fun hc => hr' hc.1 hc.2.1), if_neg (fun hc => hr hc.1)]
  · refine h.completesWith_done (g := c.g) rfl ?_ rfl ⟨fun l' hl' => ?_, fun _ _ _ _ _ => rfl, fun _ hx => hx, rfl⟩
    · exact congrArg c.finish (if_neg hact)
    · rw [hnamed, if_neg]
      rintro ⟨rfl, hc⟩
      exact hact hc

/-- Settles O6: the model's spelling of each scalar function is the statement's; a vote is read off the bits of a mask. -/
theorem scalarResultsAndReductions : Obligations.ScalarResultsAndReductions :=
  ⟨scalarInstructionsWriteOneScalar, vredFoldsActiveLanes, vinsWritesTheNamedLane⟩

end Sys2Proof.Machine
end

section
/-!
SUPPORT and PROOF. Writes of uniform registers, and the end of their phase (spec/01_group_state.md R31, spec/04_group_integer.md R121).
-/
namespace Sys2Proof.Machine
open Sys2Proof.Spec

/-! ## `kwr` (R121) -/

theorem Ctx.not_whisk_of_team {c : Ctx} {tm : Team} (h : c.team? = some tm) : isWhisk c.gid = false := by
  unfold Ctx.team? at h
  split at h <;> simp_all

theorem kwrEntersAWriteOfThePhase : KwrEntersAWriteOfThePhase := by
  intro c s a n tm h htm
  have hw := Ctx.not_whisk_of_team htm
  refine ⟨_, h.ends_done (s₁ := s.setPart c.p _) ?_, rfl⟩
  simp only [hw, Bool.false_eq_true, if_false, h.state]

/-! ## The writers of a register -/

theorem mem_insertNum {l : List Nat} {k x : Nat} : x ∈ insertNum l k ↔ x = k ∨ x ∈ l := by
  induction l with
  | nil => simp [insertNum]
  | cons y l ih =>
    unfold insertNum
    split
    · simp
    · split
      · simp_all
      · simp only [List.mem_cons, ih]
        tauto

theorem insertNum_sorted {l : List Nat} (k : Nat) (h : l.Pairwise (· < ·)) : (insertNum l k).Pairwise (· < ·) := by
  induction l with
  | nil => simp [insertNum]
  | cons y l ih =>
    obtain ⟨hy, hl⟩ := List.pairwise_cons.1 h
    unfold insertNum
    split
    · next hk =>
      refine List.pairwise_cons.2 ⟨fun x hx => ?_, h⟩
      rcases List.mem_cons.1 hx with rfl | hx
      · exact hk
      · exact hk.trans (hy x hx)
    · split
      · exact h
      · refine List.pairwise_cons.2 ⟨fun x hx => ?_, ih hl⟩
        rcases mem_insertNum.1 hx with rfl | hx
        · omega
        · exact hy x hx

theorem foldl_writers_mem (ws : List UniformWrite) (r : Nat) (l : List Nat) (g : Nat) :
    g ∈ ws.foldl (fun l w => if w.reg = r then insertNum l w.grp else l) l ↔ g ∈ l ∨ ∃ w ∈ ws, w.reg = r ∧ w.grp = g := by
  induction ws generalizing l with
  | nil => simp
  | cons w ws ih =>
    rw [List.foldl_cons, ih]
    simp only [List.mem_cons, exists_eq_or_imp]
    split
    · next h =>
      rw [mem_insertNum, eq_comm (a := g)]
      tauto
    · next h => simp [h]

theorem mem_writersOf {ws : List UniformWrite} {r g : Nat} : g ∈ writersOf ws r ↔ ∃ w ∈ ws, w.reg = r ∧ w.grp = g := by
  rw [writersOf, foldl_writers_mem]
  simp

theorem writersOf_sorted (ws : List UniformWrite) (r : Nat) : (writersOf ws r).Pairwise (· < ·) := by
  have key (l : List Nat) (h : l.Pairwise (· < ·)) :
      (ws.foldl (fun l w => if w.reg = r then insertNum l w.grp else l) l).Pairwise (· < ·) := by
    induction ws generalizing l with
    | nil => exact h
    | cons w ws ih =>
      rw [List.foldl_cons]
      split
      · exact ih _ (insertNum_sorted _ h)
      · exact ih _ h
  exact key [] List.Pairwise.nil

/-- The writes of a group to a register. -/
theorem mem_writersOf_iff_writes {ws : List UniformWrite} {r g : Nat} :
    g ∈ writersOf ws r ↔ ws.filter (fun w => w.reg = r ∧ w.grp = g) ≠ [] := by
  rw [mem_writersOf, ne_eq, List.filter_eq_nil_iff]
  push Not
  simp

/-- The lowest writer stands first, and the others behind it. -/
theorem writersOf_eq_cons {ws : List UniformWrite} {r g : Nat} (hg : g ∈ writersOf ws r) (hlow : ∀ h < g, h ∉ writersOf ws r) :
    ∃ losers, writersOf ws r = g :: losers ∧ ∀ h, h ∈ writersOf ws r → g < h → h ∈ losers := by
  have hs := writersOf_sorted ws r
  cases hw : writersOf ws r with
  | nil => rw [hw] at hg; cases hg
  | cons x losers =>
    rw [hw] at hg hlow hs
    have hx : x = g := by
      rcases List.mem_cons.1 hg with rfl | hin
      · rfl
      · exact absurd (List.mem_cons_self ..) (hlow x ((List.pairwise_cons.1 hs).1 g hin))
    subst hx
    refine ⟨losers, rfl, fun h hh hlt => ?_⟩
    rcases List.mem_cons.1 hh with rfl | hin
    · omega
    · exact hin

/-! ## The end of the phase (R31) -/

/-- What the end of a phase gives register r. -/
def settledValue (ws : List UniformWrite) (k : Cells 64) (r : Nat) : DWord := match (writersOf ws r).head? with
  | some g => (lastWrite ws r g).getD 0
  | none => Cells.get 0 k r

theorem get_foldl_settled (ws : List UniformWrite) (regs : List Nat) (k : Cells 64) (r : Nat) :
    Cells.get 0 (regs.foldl (fun k r => match (writersOf ws r).head? with
      | some g => Cells.set 0 k r ((lastWrite ws r g).getD 0)
      | none => k) k) r = if r ∈ regs then settledValue ws k r else Cells.get 0 k r := by
  induction regs generalizing k with
  | nil => simp
  | cons x regs ih =>
    rw [List.foldl_cons, ih]
    unfold settledValue
    by_cases hx : r = x
    · subst hx
      cases hh : (writersOf ws r).head? <;> simp [Cells.get_set_same]
    · have hne (v : DWord) : Cells.get 0 (Cells.set 0 k x v) r = Cells.get 0 k r := Cells.get_set_ne _ _ _ _ _ (Ne.symm hx)
      cases hh : (writersOf ws x).head? <;> simp only [List.mem_cons, hx, false_or, hne]

/-- Writers of one register that owe a trap from the end of a phase on: one entry for each that has none for it yet. -/
def owe (ord r : Nat) (d : List UniformDue) : List Nat → List UniformDue
  | [] => d
  | kept :: losers => losers.foldl (fun d g => if d.any fun u => u.grp = g ∧ u.ord = ord then d else d ++ [⟨g, ord, r, kept⟩]) d

theorem mem_foldl_of_mem {α β : Type} (f : List α → β → List α) (hf : ∀ d b, ∀ u ∈ d, u ∈ f d b) (bs : List β) (d : List α) :
    ∀ u ∈ d, u ∈ bs.foldl f d := by
  induction bs generalizing d with
  | nil => exact fun u hu => hu
  | cons b bs ih => exact fun u hu => ih _ u (hf d b u hu)

theorem owe_keeps (ord r : Nat) (d : List UniformDue) (gs : List Nat) : ∀ u ∈ d, u ∈ owe ord r d gs := by
  cases gs with
  | nil => exact fun u hu => hu
  | cons kept losers =>
    refine mem_foldl_of_mem _ (fun d g u hu => ?_) losers d
    split
    · exact hu
    · exact List.mem_append_left _ hu

theorem owe_loser (ord r : Nat) (d : List UniformDue) (kept : Nat) {losers : List Nat} {h : Nat} (hh : h ∈ losers) :
    ∃ u ∈ owe ord r d (kept :: losers), u.grp = h ∧ u.ord = ord := by
  obtain ⟨before, after, rfl⟩ := List.append_of_mem hh
  have hstep (d : List UniformDue) : ∃ u ∈ (if d.any fun u => u.grp = h ∧ u.ord = ord then d else d ++ [⟨h, ord, r, kept⟩]),
      u.grp = h ∧ u.ord = ord := by
    split
    · next hany => simpa using hany
    · exact ⟨_, List.mem_append_right _ (List.mem_singleton_self _), rfl, rfl⟩
  rw [owe, List.foldl_append, List.foldl_cons]
  obtain ⟨u, hu, heq⟩ := hstep (before.foldl (fun d g => if d.any fun u => u.grp = g ∧ u.ord = ord then d else d ++ [⟨g, ord, r, kept⟩]) d)
  refine ⟨u, mem_foldl_of_mem _ (fun d g u hu => ?_) after _ u hu, heq⟩
  split
  · exact hu
  · exact List.mem_append_left _ hu

/-- The registers that groups wrote in the phase. -/
def writtenRegs (ws : List UniformWrite) : List Nat := (List.range 16).filter fun r => !(writersOf ws r).isEmpty

theorem mem_writtenRegs {ws : List UniformWrite} {r : Nat} (hr : r < 16) : r ∈ writtenRegs ws ↔ writersOf ws r ≠ [] := by
  simp [writtenRegs, hr]

theorem Team.settleUniform_k (tm : Team) (ord : Nat) {r : Nat} (hr : r < 16) :
    Cells.get 0 (tm.settleUniform ord).k r = settledValue tm.kwrites tm.k r := by
  refine (get_foldl_settled tm.kwrites (writtenRegs tm.kwrites) tm.k r).trans ?_
  split
  · rfl
  · next h => simp only [settledValue, not_not.1 (mt (mem_writtenRegs hr).2 h), List.head?_nil]

theorem Team.settleUniform_kdue (tm : Team) (ord : Nat) :
    (tm.settleUniform ord).kdue = (writtenRegs tm.kwrites).foldl (fun d r => owe ord r d (writersOf tm.kwrites r)) tm.kdue := by
  have hf : (fun (d : List UniformDue) r => match writersOf tm.kwrites r with
      | [] => d
      | kept :: losers => losers.foldl (fun d g =>
        if d.any fun (u : UniformDue) => u.grp = g ∧ u.ord = ord then d else d ++ [⟨g, ord, r, kept⟩]) d) =
      fun d r => owe ord r d (writersOf tm.kwrites r) := by
    funext d r
    cases writersOf tm.kwrites r <;> rfl
  rw [← hf]
  rfl

theorem Team.settleUniform_owes (tm : Team) (ord : Nat) {r : Nat} (hr : r < 16) {kept : Nat} {losers : List Nat}
    (hw : writersOf tm.kwrites r = kept :: losers) {h : Nat} (hh : h ∈ losers) : ∃ u ∈ (tm.settleUniform ord).kdue, u.grp = h ∧ u.ord = ord := by
  rw [Team.settleUniform_kdue]
  obtain ⟨before, after, heq⟩ := List.append_of_mem ((mem_writtenRegs hr).2 (by rw [hw]; simp) : r ∈ writtenRegs tm.kwrites)
  rw [heq, List.foldl_append, List.foldl_cons, hw]
  obtain ⟨u, hu, hpair⟩ := owe_loser ord r _ kept hh
  exact ⟨u, mem_foldl_of_mem _ (fun d r u hu => owe_keeps ord r d _ u hu) after _ u hu, hpair⟩

theorem lowestWriterOfAUniformRegisterPrevails : LowestWriterOfAUniformRegisterPrevails := by
  intro tm ord r hr writes k'
  have hmem (g : Nat) : g ∈ writersOf tm.kwrites r ↔ writes g ≠ [] := mem_writersOf_iff_writes
  have hk : k' = settledValue tm.kwrites tm.k r := tm.settleUniform_k ord hr
  refine ⟨rfl, fun hnone => ?_, fun g w hlast hlow => ?_⟩
  · have hnil : writersOf tm.kwrites r = [] := List.eq_nil_iff_forall_not_mem.2 fun g hg => (hmem g).1 hg (hnone g)
    rw [hk, settledValue, hnil]
    rfl
  · have hg : g ∈ writersOf tm.kwrites r := (hmem g).2 fun h => by rw [h] at hlast; cases hlast
    obtain ⟨losers, hcons, hbehind⟩ := writersOf_eq_cons hg fun h hlt hin => (hmem h).1 hin (hlow h hlt)
    refine ⟨?_, fun h hlt hne => tm.settleUniform_owes ord hr hcons (hbehind h ((hmem h).2 hne) hlt)⟩
    rw [hk, settledValue, hcons]
    simp only [List.head?_cons, lastWrite]
    rw [show (tm.kwrites.filter fun w => w.reg = r ∧ w.grp = g).getLast? = some w from hlast]
    rfl

/-- Settles O7: the writers of a register are listed in increasing order, so the first is the lowest and the rest owe the trap. -/
theorem uniformRegistersTakeTheLowestWriter : Obligations.UniformRegistersTakeTheLowestWriter :=
  ⟨kwrEntersAWriteOfThePhase, lowestWriterOfAUniformRegisterPrevails⟩

end Sys2Proof.Machine
end

section
/-!
SUPPORT and PROOF. Branches, calls and jumps (spec/06_group_control_faults.md R140, R141).
-/
namespace Sys2Proof.Machine
open Sys2Proof.Spec

/-! ## Branches (R140) -/

theorem Ctx.target_eq_branchTarget {n : Nat} (c : Ctx) (o : BitVec n) : c.target o = branchTarget c o := by
  rw [Ctx.target, branchTarget, BitVec.ofInt_mul]
  rfl

theorem Group.anyEm_iff (g : Group) (q : QReg) (n : Bool) :
    g.anyEm (g.test q n) = true ↔ ∃ l < 32, g.em.getLsbD l = true ∧ g.pred q.toNat l ≠ n := by
  simp [Group.anyEm, Group.test, lanes]

theorem Group.allEm_iff (g : Group) (q : QReg) (n : Bool) :
    g.allEm (g.test q n) = true ↔ ∀ l < 32, g.em.getLsbD l = true → g.pred q.toNat l ≠ n := by
  simp [Group.allEm, Group.test, lanes, Decidable.imp_iff_not_or]

theorem Group.not_anyEm_iff (g : Group) (q : QReg) (n : Bool) :
    (!g.anyEm (g.test q n)) = true ↔ ∀ l < 32, g.em.getLsbD l = true → g.pred q.toNat l = n := by
  rw [Bool.not_eq_true', ← Bool.not_eq_true, Group.anyEm_iff]
  push Not
  rfl

section
variable {c : Ctx} {s : State} {i : Instr}

/-- A branch goes where its condition says. -/
theorem Ready.branches (h : Ready c s i) {n : Nat} {cond : Ctx → Bool} {o : BitVec n} {taken : Prop}
    (he : exec i s = Machine.issue i s fun c => c.branch (cond c) o) (hc : cond c = true ↔ taken) :
    ∃ t, exec i s = .next t ∧ (taken → Completed c s t (branchTarget c o)) ∧ (¬taken → Stepped c s t) := by
  by_cases ht : cond c = true
  · have hb : c.branch (cond c) o = .jump s (branchTarget c o) := by rw [Ctx.branch, if_pos ht, h.state, c.target_eq_branchTarget]
    obtain ⟨t, hn, hcomp⟩ := h.completed (body := fun c => c.branch (cond c) o) hb
    exact ⟨t, he.trans hn, fun _ => hcomp, fun hnot => absurd (hc.1 ht) hnot⟩
  · have hb : c.branch (cond c) o = .done s := by rw [Ctx.branch, if_neg ht, h.state]
    exact ⟨_, he.trans (h.ends_done (body := fun c => c.branch (cond c) o) hb), fun htaken => absurd (hc.2 htaken) ht, fun _ => rfl⟩
end

theorem branchesGoWhereTheirConditionSays : BranchesGoWhereTheirConditionSays := by
  intro c s i taken target h hrow
  unfold Spec.branchRow at hrow
  split at hrow <;> cases hrow
  case h_1 => exact ⟨_, h.ends_done (congrArg Res.done h.state), False.elim, fun _ => rfl⟩
  case h_2 => exact h.branches (cond := fun _ => true) rfl (by simp)
  case h_3 => exact h.branches rfl (c.g.anyEm_iff _ _)
  case h_4 => exact h.branches rfl (c.g.allEm_iff _ _)
  case h_5 => exact h.branches rfl (c.g.not_anyEm_iff _ _)
  case h_6 => exact h.branches rfl beq_iff_eq
  case h_7 => exact h.branches rfl bne_iff_ne

/-! ## Calls and jumps (R141) -/

section
variable {c : Ctx} {s : State} {i : Instr} {body : Ctx → Res} {target : DWord} {g : Group}

theorem Ready.jumpsTo (h : Ready c s i) (he : exec i s = Machine.issue i s body) (hb : body c = c.jumpTo target g) :
    (target.toNat % 4 = 0 → ∃ t, exec i s = .next t ∧ Ran c s t (g.completed target)) ∧
    (target.toNat % 4 ≠ 0 → TrapsWith c i s ⟨0x12, target⟩) :=
  ⟨fun ha => h.ran_of_jump he (hb.trans (if_neg (not_not.2 ha))), fun hm => h.trapsWith he (hb.trans (if_pos hm))⟩
end

theorem callsSaveTheReturnAddress : CallsSaveTheReturnAddress := by
  refine ⟨fun c s l o h => ?_, fun c s d a h => h.jumpsTo rfl rfl, fun c s a h hteam => h.jumpsTo rfl (if_neg ?_)⟩
  · rw [← c.target_eq_branchTarget]
    exact h.ran_of_jump rfl rfl
  · rw [Ctx.batchOpen, hteam]
    simp

/-- Settles O12: a branch is its condition's case split, and a jump the check of its address. -/
theorem controlTransfers : Obligations.ControlTransfers :=
  ⟨branchesGoWhereTheirConditionSays, callsSaveTheReturnAddress⟩

end Sys2Proof.Machine
end

section
/-!
SUPPORT and PROOF. The mask stack, EM, MODE and PERM (spec/01_group_state.md R18, spec/06_group_control_faults.md R143 to R145).
-/
namespace Sys2Proof.Machine
open Sys2Proof.Spec

/-- The lanes that a predicate test passes, as a mask. -/
theorem laneMask_test (g : Group) (q : QReg) (n : Bool) :
    BitVec.ofNat 32 (laneMask (g.test q n)) = if n then ~~~ g.preds q.toNat else g.preds q.toNat := by
  apply BitVec.eq_of_getLsbD_eq
  intro l hl
  rw [BitVec.getLsbD_ofNat, laneMask_testBit]
  cases n <;> simp [hl, Group.test, Group.pred, Group.preds]

theorem loWord_eq_setWidth (x : DWord) : loWord x = x.setWidth 32 := BitVec.ofNat_toNat ..

theorem badMode_iff (x : DWord) : badMode x = true ↔ ¬(x.toNat < 2 ^ 16 ∧ (x.extractLsb' 5 3).toNat < 6) := by
  have hf : (x.extractLsb' 5 3).toNat = field x 5 3 := by
    rw [BitVec.extractLsb'_toNat, Nat.shiftRight_eq_div_pow]
    rfl
  rw [badMode, hf, Bool.or_eq_true, decide_eq_true_iff, decide_eq_true_iff]
  omega

section
variable {c : Ctx} {s : State} {i : Instr}

/-- What a row says an instruction does to its group. -/
def Effects (c : Ctx) (i : Instr) (s : State) : GroupEffect → Prop
  | .becomes g => ∃ t, exec i s = .next t ∧ Ran c s t (g.completed (c.g.pc + 4))
  | .traps t => TrapsWith c i s t

theorem Ready.effects_becomes (h : Ready c s i) {body : Ctx → Res} {g : Group} (he : exec i s = Machine.issue i s body)
    (hb : body c = .done (c.put g)) (hpc : g.pc = c.g.pc) : Effects c i s (.becomes g) := by
  obtain ⟨t, ht, hran⟩ := h.ran_of_done he hb
  exact ⟨t, ht, hpc ▸ hran⟩
end

theorem effects_of_groupRow {c : Ctx} {s : State} {i : Instr} {e : GroupEffect} (h : Ready c s i) (hrow : Spec.groupRow c i = some e) :
    Effects c i s e := by
  unfold Spec.groupRow at hrow
  split at hrow <;> cases hrow
  case h_1 q n =>
    rw [← laneMask_test]
    by_cases hfull : c.g.stack.length < 16
    · rw [if_pos hfull]
      exact h.effects_becomes rfl (if_neg (by omega)) rfl
    · rw [if_neg hfull]
      exact h.trapsWith rfl (if_pos (by omega))
  case h_2 =>
    cases hs : c.g.stack with
    | nil => exact h.trapsWith rfl (by rw [hs]; rfl)
    | cons top rest => exact h.effects_becomes rfl (by rw [hs]; rfl) rfl
  case h_3 =>
    cases hs : c.g.stack with
    | nil => exact h.trapsWith rfl (by rw [hs]; rfl)
    | cons top rest => exact h.effects_becomes rfl (by rw [hs]; rfl) rfl
  case h_4 d =>
    refine h.effects_becomes rfl (congrArg (fun x => c.finish (c.g.setS d (BitVec.ofNat 64 x))) (?_ : _ = _)) rfl
    exact congrArg _ (Nat.mul_comm _ _)
  case h_5 a =>
    rw [← loWord_eq_setWidth]
    exact h.effects_becomes rfl rfl rfl
  case h_6 => exact h.effects_becomes rfl rfl rfl
  case h_7 => exact h.effects_becomes rfl rfl rfl
  case h_8 a =>
    by_cases hbad : badMode (c.g.sreg a) = true
    · dsimp only
      rw [if_neg ((badMode_iff _).1 hbad)]
      exact h.trapsWith rfl (if_pos hbad)
    · dsimp only
      rw [if_pos (not_not.1 (mt (badMode_iff _).2 hbad)), ← BitVec.ofNat_toNat]
      exact h.effects_becomes rfl (if_neg hbad) rfl

/-- Settles O13: each row's effect, by the row's own case split. -/
theorem maskAndModeInstructions : Obligations.MaskAndModeInstructions :=
  fun _ _ _ h => ⟨fun _ hrow => effects_of_groupRow h hrow, fun _ hrow => effects_of_groupRow h hrow⟩

end Sys2Proof.Machine
end

section
/-!
SUPPORT and PROOF. Index registers (spec/06_group_control_faults.md R146).
-/
namespace Sys2Proof.Machine
open Sys2Proof.Spec

/-- In a rising list the first element that passes is the lowest that does. -/
theorem find?_eq_some_of_lowest {ls : List Nat} (hs : ls.Pairwise (· < ·)) {p : Nat → Bool} {l : Nat} (hl : l ∈ ls) (hp : p l = true)
    (hlow : ∀ m ∈ ls, m < l → p m = false) : ls.find? p = some l := by
  induction ls with
  | nil => cases hl
  | cons x ls ih =>
    obtain ⟨hx, hrest⟩ := List.pairwise_cons.1 hs
    rcases List.mem_cons.1 hl with rfl | hin
    · rw [List.find?_cons_of_pos hp]
    · rw [List.find?_cons_of_neg (by simp [hlow x (by simp) (hx l hin)])]
      exact ih hrest hin fun m hm => hlow m (by simp [hm])

/-! ## Writes of one index register in lanes -/

/-- Cells 32 × k + l written for the lanes of a list. -/
def setLanes {w : Nat} (d : BitVec w) (k : Nat) (v : Nat → BitVec w) (ls : List Nat) (x : Cells w) : Cells w :=
  ls.foldl (fun x i => Cells.set d x (32 * k + i) (v i)) x

theorem get_setLanes {w : Nat} (d : BitVec w) (k : Nat) (v : Nat → BitVec w) {ls : List Nat} (hls : ∀ i ∈ ls, i < 32) (x : Cells w) (j : Nat)
    {l : Nat} (hl : l < 32) :
    Cells.get d (setLanes d k v ls x) (32 * j + l) = if j = k ∧ l ∈ ls then v l else Cells.get d x (32 * j + l) := by
  induction ls generalizing x with
  | nil => simp [setLanes]
  | cons i ls ih =>
    have hi := hls i (by simp)
    rw [show setLanes d k v (i :: ls) x = setLanes d k v ls (Cells.set d x (32 * k + i) (v i)) from rfl,
      ih (fun m hm => hls m (by simp [hm])), Cells.get_set]
    by_cases hjk : j = k ∧ l = i
    · obtain ⟨rfl, rfl⟩ := hjk
      simp
    · have hne : 32 * k + i ≠ 32 * j + l := by omega
      by_cases hj : j = k <;> by_cases hli : l = i <;> simp_all

theorem foldl_xi_eq (F : Cells 6 → Nat → Cells 6) (ls : List Nat) (g : Group) :
    ls.foldl (fun g i => { g with xi := F g.xi i }) g = { g with xi := ls.foldl F g.xi } := by
  induction ls generalizing g with
  | nil => rfl
  | cons i ls ih => rw [List.foldl_cons, ih]; rfl

theorem foldl_bounds_eq (F G : Cells 6 → Nat → Cells 6) (ls : List Nat) (g : Group) :
    ls.foldl (fun g i => { g with xlo := F g.xlo i, xhi := G g.xhi i }) g = { g with xlo := ls.foldl F g.xlo, xhi := ls.foldl G g.xhi } := by
  induction ls generalizing g with
  | nil => rfl
  | cons i ls ih => rw [List.foldl_cons, ih]; rfl

/-- The control words of the lanes acted on are mended (R275). -/
theorem lanesMend_of_mendLanes (c : Ctx) {g : Group} (hg : g.cpoison = c.g.cpoison) (w size : Nat) :
    LanesMend c (g.mendLanes w size c.g.actives) w size := fun x => by
  rw [Group.mem_mendLanes_actives, hg]

theorem Group.actives_lt (g : Group) : ∀ i ∈ g.actives, i < 32 := fun i hi => ((g.mem_actives i).1 hi).1

section
variable {c : Ctx} {s : State} {i : Instr} {k : XReg} {f : Nat → Int}

/-- The value of a lane is an index. -/
def indexable (f : Nat → Int) (l : Nat) : Prop := 0 ≤ f l ∧ f l ≤ 63

theorem indexable_iff (f : Nat → Int) (l : Nat) : (decide (f l < 0) || decide (63 < f l)) = false ↔ indexable f l := by
  simp [indexable]

theorem Ctx.setIndex_refused {l : Nat} (hl : l < 32) (hact : c.g.active l = true) (hbad : ¬ indexable f l)
    (hlow : ∀ m < l, c.g.active m = true → indexable f m) :
    c.setIndex k f = .trap c.s ⟨5, BitVec.ofNat 64 (l + k.toNat * 2 ^ 12 + 2 ^ 15 + (BitVec.ofInt 32 (f l)).toNat * 2 ^ 32)⟩ := by
  have hfind : (c.g.actives.find? fun i => decide (f i < 0) || decide (63 < f i)) = some l := by
    refine find?_eq_some_of_lowest c.g.actives_rising ((c.g.mem_actives l).2 ⟨hl, hact⟩) ?_ fun m hm hlt => ?_
    · exact Bool.eq_true_of_not_eq_false (mt (indexable_iff f l).1 hbad)
    · exact (indexable_iff f m).2 (hlow m hlt ((c.g.mem_actives m).1 hm).2)
  rw [Ctx.setIndex, hfind, ← wrapNat_eq]
  rfl

theorem Ctx.setIndex_written (hall : ∀ l < 32, c.g.active l = true → indexable f l) :
    c.setIndex k f = c.checked (({ c.g with xi := setLanes 0 k.toNat (fun l => BitVec.ofInt 6 (f l)) c.g.actives c.g.xi } : Group).mendLanes
      (indexWord k.toNat) 8 c.g.actives) := by
  have hfind : (c.g.actives.find? fun i => decide (f i < 0) || decide (63 < f i)) = none :=
    List.find?_eq_none.2 fun i hi => by
      obtain ⟨hlt, hact⟩ := (c.g.mem_actives i).1 hi
      rw [(indexable_iff f i).2 (hall i hlt hact)]
      exact Bool.false_ne_true
  rw [Ctx.setIndex, hfind]
  exact congrArg (fun g : Group => c.checked (g.mendLanes _ 8 c.g.actives))
    (foldl_xi_eq (fun x i => Cells.set 0 x (32 * k.toNat + i) (BitVec.ofInt 6 (f i))) _ _)

theorem ofInt_six_toNat {x : Int} (h0 : 0 ≤ x) (h63 : x ≤ 63) : ((BitVec.ofInt 6 x).toNat : Int) = x := by
  rw [BitVec.toNat_ofInt]
  omega

theorem Ready.indexRow (h : Ready c s i) {f : Ctx → Nat → Int} (he : exec i s = Machine.issue i s fun c => c.setIndex k (f c)) :
    ((∀ l < 32, c.g.active l = true → indexable (f c) l) →
      CompletesWith c i s fun g =>
        (∀ j, ∀ l < 32, (g.index j l : Int) = if j = k.toNat ∧ c.g.active l = true then f c l else c.g.index j l) ∧
        LanesMend c g (indexWord k.toNat) 8 ∧ g = { c.g with xi := g.xi, cpoison := g.cpoison }) ∧
    (∀ l < 32, c.g.active l = true → ¬ indexable (f c) l → (∀ m < l, c.g.active m = true → indexable (f c) m) →
      TrapsWith c i s ⟨5, BitVec.ofNat 64 (l + k.toNat * 2 ^ 12 + 2 ^ 15 + (BitVec.ofInt 32 (f c l)).toNat * 2 ^ 32)⟩) := by
  refine ⟨fun hall => ?_, fun l hl hact hbad hlow => h.trapsWith he (c.setIndex_refused hl hact hbad hlow)⟩
  refine h.completesWith he (c.setIndex_written hall) rfl ⟨fun j l hl => ?_, lanesMend_of_mendLanes c rfl _ _, rfl⟩
  change ((Cells.get 0 (setLanes 0 k.toNat (fun l => BitVec.ofInt 6 (f c l)) c.g.actives c.g.xi) (32 * j + l)).toNat : Int) = _
  rw [get_setLanes _ _ _ c.g.actives_lt _ _ hl]
  by_cases hjl : j = k.toNat ∧ c.g.active l = true
  · obtain ⟨h0, h63⟩ := hall l hl hjl.2
    rw [if_pos hjl, if_pos ⟨hjl.1, (c.g.mem_actives l).2 ⟨hl, hjl.2⟩⟩, ofInt_six_toNat h0 h63]
  · rw [if_neg hjl, if_neg fun hc => hjl ⟨hc.1, ((c.g.mem_actives l).1 hc.2).2⟩]
    rfl
end

/-- Bounds of an index register, in the lanes acted on. -/
theorem boundsWritten {c : Ctx} {k : XReg} (d v : BitVec 6) (x : Cells 6) (j : Nat) {l : Nat} (hl : l < 32) :
    (Cells.get d (setLanes d k.toNat (fun _ => v) c.g.actives x) (32 * j + l)).toNat =
      if j = k.toNat ∧ c.g.active l = true then v.toNat else (Cells.get d x (32 * j + l)).toNat := by
  rw [get_setLanes _ _ _ c.g.actives_lt _ _ hl]
  simp only [Group.mem_actives, hl, true_and]
  split <;> rfl

/-- Settles O14: the first refused lane is the lowest, and where none is refused every lane acted on takes its value. -/
theorem indexRegisterInstructions : Obligations.IndexRegisterInstructions := by
  refine ⟨fun c s i k f h hrow => ?_, fun c s k lo hi h => ?_, fun c s k d h => ?_⟩
  · unfold Spec.indexRow at hrow
    split at hrow <;> cases hrow
    case h_1 => exact h.indexRow (f := fun c l => (c.g.vreg _ l).toInt + _) rfl
    case h_2 => exact h.indexRow (f := fun c l => (c.g.index _ l : Int) + _) rfl
  · have hfold := foldl_bounds_eq (fun x i => Cells.set 0 x (32 * k.toNat + i) lo)
      (fun x i => Cells.set (BitVec.ofNat 6 (c.n - 1)) x (32 * k.toNat + i) hi) c.g.actives c.g
    refine h.completesWith rfl (congrArg (fun g : Group => c.checked (g.mendLanes _ 4 c.g.actives)) hfold) rfl
      ⟨fun j l hl => boundsWritten 0 lo _ j hl, fun j l hl => boundsWritten _ hi _ j hl, lanesMend_of_mendLanes c rfl _ _, rfl⟩
  · have hw := c.g.putLanes_written false d fun l =>
      (c.g.index k.toNat l + 2 ^ 8 * c.g.lower k.toNat l + 2 ^ 16 * c.g.upper c.n k.toNat l, 0)
    refine h.completesWith_lanes rfl ?_ hw
    simp only [Nat.mul_comm (2 ^ 8), Nat.mul_comm (2 ^ 16)]

end Sys2Proof.Machine
end

section
/-!
SUPPORT and PROOF. What the replacement of the group leaves of its team and partition, and reading system registers
(spec/01_group_state.md R33, R34, spec/06_group_control_faults.md R150).
-/
namespace Sys2Proof.Machine
open Sys2Proof.Spec

/-! ## A replaced group -/

/-- A team with one of its groups replaced. -/
def Team.putGroup (t : Team) (n : Nat) (g : Group) : Team := { t with groups := Table.set t.groups n g }

theorem Part.setGroup_of_team (P : Part) {gid : Nat} (h : isWhisk gid = false) (g : Group) :
    P.setGroup gid g = P.modTeam (gidTeam gid) fun t => t.putGroup (gidGroup gid) g := by
  rw [Part.setGroup, h]
  rfl

theorem Part.setGroup_of_whisk (P : Part) {gid : Nat} (h : isWhisk gid = true) (g : Group) :
    P.setGroup gid g = P.modHome gid fun x => { x with grp := g } := if_pos h

theorem Part.team?_setGroup_team (P : Part) {gid : Nat} (h : isWhisk gid = false) (g : Group) :
    (P.setGroup gid g).team? (gidTeam gid) = (P.team? (gidTeam gid)).map fun t => t.putGroup (gidGroup gid) g := by
  rw [P.setGroup_of_team h, Part.team?_modTeam_same]

theorem Ctx.team?_of_team {c : Ctx} (h : isWhisk c.gid = false) : c.team? = c.P.team? (gidTeam c.gid) := by
  rw [Ctx.team?, h]
  rfl

theorem Ctx.team?_of_whisk {c : Ctx} (h : isWhisk c.gid = true) : c.team? = none := if_pos h

@[simp] theorem Ctx.team?_setG (c : Ctx) (g : Group) : (c.setG g).team? = c.team?.map fun t => t.putGroup (gidGroup c.gid) g := by
  cases h : isWhisk c.gid with
  | true => rw [Ctx.team?_of_whisk h, Ctx.team?_of_whisk (c := c.setG g) h, Option.map_none]
  | false =>
    rw [Ctx.team?_of_team h, Ctx.team?_of_team (c := c.setG g) h]
    exact c.P.team?_setGroup_team h g

@[simp] theorem Part.launchOf_setGroup (P : Part) (gid : Nat) (g : Group) (t : Team) : (P.setGroup gid g).launchOf t = P.launchOf t := by
  unfold Part.setGroup
  split <;> rfl

theorem Part.mode_modTeam (P : Part) (tk : Nat) {f : Team → Team} (hf : ∀ t, (f t).launch = t.launch) : (P.modTeam tk f).mode = P.mode := by
  rw [Part.mode, Part.mode, Part.liveMode, Part.liveMode]
  cases h : P.run.teams with
  | nil => simp [Part.modTeam, Part.modRun, h, Table.modify]
  | cons e rest =>
    simp only [Part.modTeam, Part.modRun, h, Table.modify, List.map_cons, List.head?_cons, Option.bind_some]
    split <;> simp [hf]

@[simp] theorem Part.mode_setGroup (P : Part) (gid : Nat) (g : Group) : (P.setGroup gid g).mode = P.mode := by
  cases h : isWhisk gid with
  | true =>
    rw [P.setGroup_of_whisk h]
    rfl
  | false =>
    rw [P.setGroup_of_team h]
    exact P.mode_modTeam _ fun _ => rfl

/-- A replaced group stays where it is. -/
@[simp] theorem Part.coreOf_setGroup (P : Part) (gid : Nat) (g : Group) : (P.setGroup gid g).coreOf gid = P.coreOf gid := by
  cases h : isWhisk gid with
  | true => simp [Part.coreOf, h]
  | false =>
    rw [Part.coreOf, Part.coreOf, P.team?_setGroup_team h, Option.map_map]
    rfl

@[simp] theorem Ctx.launchOf_setG (c : Ctx) (g : Group) (t : Team) : (c.setG g).P.launchOf t = c.P.launchOf t := Part.launchOf_setGroup ..
@[simp] theorem Ctx.mode_setG (c : Ctx) (g : Group) : (c.setG g).P.mode = c.P.mode := Part.mode_setGroup ..
@[simp] theorem Ctx.coreOf_setG (c : Ctx) (g : Group) : (c.setG g).P.coreOf c.gid = c.P.coreOf c.gid := Part.coreOf_setGroup ..
@[simp] theorem Ctx.gid_setG (c : Ctx) (g : Group) : (c.setG g).gid = c.gid := rfl
@[simp] theorem Ctx.p_setG (c : Ctx) (g : Group) : (c.setG g).p = c.p := rfl
@[simp] theorem Ctx.g_setG (c : Ctx) (g : Group) : (c.setG g).g = g := rfl
@[simp] theorem Ctx.s_setG (c : Ctx) (g : Group) : (c.setG g).s = c.put g := rfl

/-! ## The registers of R33 -/

theorem packXyz_eq (x y z : Nat) : packXyz x y z = x + 2 ^ 21 * y + 2 ^ 42 * z := by
  rw [packXyz, Nat.mul_comm y, Nat.mul_comm z]

theorem Spec.sysRow.ofTeam_eq (c : Ctx) (f : Team → Nat) : sysRow.ofTeam c f = BitVec.ofNat 64 ((c.team?.map f).getD 0) := by
  unfold sysRow.ofTeam
  cases c.team? <;> rfl

theorem Spec.sysRow.ofLaunch_eq (c : Ctx) (f : Team → Launch → Nat) :
    sysRow.ofLaunch c f = BitVec.ofNat 64 ((c.team?.bind fun t => (c.P.launchOf t).map (f t)).getD 0) := by
  unfold sysRow.ofLaunch
  cases c.team? with
  | none => rfl
  | some t => cases h : c.P.launchOf t <;> simp [h]

/-- What `sysreg` reads of a team and its launch, in the form of the table. -/
theorem Ctx.clpos_eq (c : Ctx) : c.clpos = (c.team?.bind fun t => (c.P.launchOf t).map fun l =>
    t.x % l.kernel.width + 2 ^ 2 * (t.y % l.kernel.height) + 2 ^ 4 * (l.kernel.width - 1) + 2 ^ 6 * (l.kernel.height - 1)).getD 0 := by
  unfold Ctx.clpos
  cases c.team? with
  | none => rfl
  | some t => cases h : c.P.launchOf t <;> simp [h, Nat.mul_comm]

theorem Ctx.coreWord_eq (c : Ctx) : c.coreWord = if c.P.mode = 0 then c.P.coreOf c.gid % 128
    else (c.team?.bind fun t => (c.P.launchOf t).map fun l => t.x % l.kernel.width + 4 * (t.y % l.kernel.height)).getD 0 := by
  unfold Ctx.coreWord
  refine if_congr Iff.rfl rfl ?_
  cases c.team? with
  | none => rfl
  | some t => cases h : c.P.launchOf t <;> simp [h, Nat.add_comm]

/-- What a register of a team reads does not depend on its groups. -/
theorem map_putGroup {α : Type} (x : Option Team) (n : Nat) (g : Group) (f : Team → α) (hf : ∀ t, f (t.putGroup n g) = f t) :
    (x.map fun t => t.putGroup n g).map f = x.map f := by
  rw [Option.map_map]
  exact congrArg (Option.map · x) (funext hf)

theorem bind_putGroup {α : Type} (x : Option Team) (n : Nat) (g : Group) (f : Team → Option α) (hf : ∀ t, f (t.putGroup n g) = f t) :
    (x.map fun t => t.putGroup n g).bind f = x.bind f := by
  rw [Option.bind_map]
  exact congrArg (Option.bind x) (funext hf)

theorem sysRow_eq_sysreg {c : Ctx} {n : Nat} {v : DWord} (h : Spec.sysRow c n = some v) :
    v = (c.setG { c.g with windows := [] }).sysreg n := by
  unfold Spec.sysRow at h
  simp only [Spec.sysRow.ofTeam_eq, Spec.sysRow.ofLaunch_eq] at h
  split at h
  case h_7 =>
    split at h <;> cases h
    next hm => exact (if_neg (by rwa [Ctx.mode_setG])).symm
  all_goals cases h
  case h_2 =>
    simp only [Ctx.sysreg, Ctx.team?_setG]
    rw [map_putGroup]
    exact fun _ => rfl
  case h_3 =>
    simp only [Ctx.sysreg, Ctx.team?_setG, packXyz_eq]
    rw [map_putGroup]
    exact fun _ => rfl
  case h_4 => 
    simp only [Ctx.sysreg, Ctx.clpos_eq, Ctx.team?_setG, Ctx.launchOf_setG]
    rw [bind_putGroup]
    exact fun _ => rfl
  case h_5 =>
    simp only [Ctx.sysreg, Ctx.team?_setG, packXyz_eq]
    cases c.team? with
    | none => rfl
    | some t =>
      simp only [Option.map_some, Option.bind_some, Ctx.launchOf_setG]
      rfl
  case h_6 =>
    simp only [Ctx.sysreg, Ctx.coreWord_eq, Ctx.team?_setG, Ctx.launchOf_setG, Ctx.mode_setG, Ctx.coreOf_setG, Ctx.gid_setG]
    rw [bind_putGroup]
    · split <;> rfl
    · exact fun _ => rfl
  case h_17 =>
    simp only [Ctx.sysreg, Ctx.team?_setG]
    rw [map_putGroup]
    exact fun _ => rfl
  case h_18 =>
    simp only [Ctx.sysreg, Ctx.team?_setG]
    cases c.team? with
    | none => rfl
    | some t => cases h : t.anch <;> simp [Team.putGroup, h, bit]
  case h_22 =>
    simp only [Ctx.sysreg, Ctx.team?_setG]
    rw [map_putGroup]
    exact fun _ => rfl
  case h_21 => exact congrArg (BitVec.ofNat 64) (Ctx.mode_setG ..).symm
  all_goals rfl

theorem trapOf_toNat (cause : Nat) (n : BitVec 8) : trapOf cause n.toNat = ⟨BitVec.ofNat 8 cause, n.setWidth 64⟩ := by
  rw [trapOf, BitVec.ofNat_toNat]

/-- Settles O19: the ranges of numbers first, then the table, which reads the same once the windows are closed. -/
theorem sysrdReadsTheTable : Obligations.SysrdReadsTheTable := by
  intro c s n d h
  refine ⟨fun hs => h.trapsWith rfl ((if_pos hs).trans (congrArg _ (trapOf_toNat ..))),
    fun hr hs => h.trapsWith rfl ((if_neg (by omega)).trans ((if_pos hr).trans (congrArg _ (trapOf_toNat ..)))), fun hr hw => ?_⟩
  let c' := c.setG { c.g with windows := [] }
  have hb : c'.finish (c'.g.setS d (c'.sysreg n.toNat)) = .done (c.put (c'.g.setS d (c'.sysreg n.toNat))) :=
    congrArg Res.done (Ctx.put_setG ..)
  refine h.completesWith_done rfl ((if_neg (by omega)).trans ((if_neg (by omega)).trans ((Ctx.closed_of_settled _ hw).trans hb))) rfl ?_
  refine ⟨rfl, c'.sysreg n.toNat, ?_, fun v hv => (sysRow_eq_sysreg hv).symm⟩
  obtain ⟨hval, hoth, hwhole⟩ := Group.setS_written c'.g d (c'.sysreg n.toNat)
  exact ⟨hval, hoth, hwhole⟩

end Sys2Proof.Machine
end

section
/-!
PROOF. Writing system registers (spec/01_group_state.md R27, R28, R34, spec/06_group_control_faults.md R150, spec/11_core_sync_faults.md R275).
-/
namespace Sys2Proof.Machine
open Sys2Proof.Spec

/-- A group whose word `w` is whole. -/
def wholeWord (w : Nat) (g : Group) : Group := { g with cpoison := g.cpoison.filter fun v => v != w }

theorem Group.mend_eq_wholeWord (g : Group) (w : Nat) : g.mend w = wholeWord w g := rfl

section
variable {c : Ctx} {s : State} {n : BitVec 8} {a : SReg}

/-- What a `syswr` of a writable register, with every window closed, does: the write `g'` where the value is taken, the trap otherwise. -/
def SysWrites (c : Ctx) (s : State) (n : BitVec 8) (a : SReg) (ok : Prop) (g' : Group) : Prop :=
  (ok → ∃ t, exec (.syswr n a) s = .next t ∧ Ran c s t (g'.completed (c.g.pc + 4))) ∧
  (¬ok → ∃ t, exec (.syswr n a) s = .next t ∧
    t = ((s.modGroup c.p c.gid fun _ => { c.g with windows := [] }).raiseTrap c.p c.gid ⟨2, n.setWidth 64⟩).modPart c.p fun P =>
      { P with fire := P.fire + 1 })

/-- The instruction past its range checks. -/
def Ctx.syswrEnd (c : Ctx) (n : BitVec 8) (a : SReg) : Res := match c.g.sysWrite n.toNat (c.g.sreg a) with
  | none => .trap c.s (trapOf 2 n.toNat)
  | some g => c.finish g

theorem Ctx.syswrEnd_some {c : Ctx} {g : Group} (h : c.g.sysWrite n.toNat (c.g.sreg a) = some g) : c.syswrEnd n a = c.finish g := by
  rw [Ctx.syswrEnd, h]

theorem Ctx.syswrEnd_none {c : Ctx} (h : c.g.sysWrite n.toNat (c.g.sreg a) = none) : c.syswrEnd n a = .trap c.s (trapOf 2 n.toNat) := by
  rw [Ctx.syswrEnd, h]

theorem exec_syswr (n : BitVec 8) (a : SReg) (s : State) : exec (.syswr n a) s = issue (.syswr n a) s fun c =>
    if 0x80 ≤ n.toNat then .trap c.s (trapOf 0x11 n.toNat)
    else if 0x16 ≤ n.toNat then .trap c.s (trapOf 2 n.toNat)
    else if !sysWritable n.toNat then .trap c.s (trapOf 0x11 n.toNat)
    else c.closed fun c => c.syswrEnd n a := rfl

theorem sysWritable_iff (n : Nat) : sysWritable n = true ↔ 0x07 ≤ n ∧ n ≤ 0x0F := by
  simp [sysWritable]

theorem Ready.syswr_writes (h : Ready c s (.syswr n a)) (hw : c.g.windows.all Window.done = true) (hn : 0x07 ≤ n.toNat ∧ n.toNat ≤ 0x0F)
    {ok : Prop} {g' : Group} (hpc : g'.pc = c.g.pc)
    (hyes : ok → ({ c.g with windows := [] } : Group).sysWrite n.toNat (c.g.sreg a) = some g')
    (hno : ¬ok → ({ c.g with windows := [] } : Group).sysWrite n.toNat (c.g.sreg a) = none) : SysWrites c s n a ok g' := by
  have hend (r : Res) (hr : (c.setG { c.g with windows := [] }).syswrEnd n a = r) :
      (if 0x80 ≤ n.toNat then Res.trap c.s (trapOf 0x11 n.toNat)
        else if 0x16 ≤ n.toNat then .trap c.s (trapOf 2 n.toNat)
        else if !sysWritable n.toNat then .trap c.s (trapOf 0x11 n.toNat)
        else c.closed fun c => c.syswrEnd n a) = r := by
    rw [if_neg (by omega), if_neg (by omega), if_neg (by rw [(sysWritable_iff _).2 hn]; simp), Ctx.closed_of_settled _ hw, hr]
  refine ⟨fun hok => ?_, fun hok => ?_⟩
  · have hb : (c.setG { c.g with windows := [] }).syswrEnd n a = .done (c.put g') :=
      (Ctx.syswrEnd_some (hyes hok)).trans (congrArg Res.done (Ctx.put_setG ..))
    obtain ⟨t, ht, hran⟩ := h.ran_of_done (exec_syswr n a s) (hend _ hb)
    exact ⟨t, ht, hpc ▸ hran⟩
  · have hb : (c.setG { c.g with windows := [] }).syswrEnd n a = .trap (c.put { c.g with windows := [] }) (trapOf 2 n.toNat) :=
      Ctx.syswrEnd_none (hno hok)
    refine ⟨_, h.ends_trap (hend _ hb), ?_⟩
    rw [trapOf_toNat, ← h.state]
    rfl
end

/-- Settles O20: the ranges of numbers first, then each register's own condition. -/
theorem syswrWritesWritableRegisters : Obligations.SyswrWritesWritableRegisters := by
  intro c s n a h
  refine ⟨fun hr => ?_, fun hr hs => h.trapsWith (exec_syswr n a s) ?_, fun hw => ?_⟩
  · refine h.trapsWith (exec_syswr n a s) ?_
    by_cases hs : 0x80 ≤ n.toNat
    · exact (if_pos hs).trans (congrArg _ (trapOf_toNat ..))
    · have hnw : ¬ sysWritable n.toNat = true := by rw [sysWritable_iff]; omega
      exact (if_neg hs).trans ((if_neg (by omega)).trans ((if_pos (by simpa using hnw)).trans (congrArg _ (trapOf_toNat ..))))
  · exact (if_neg (by omega)).trans ((if_pos hr).trans (congrArg _ (trapOf_toNat ..)))
  · refine ⟨?_, ?_, ?_, ?_, ?_, ?_, ?_, ?_, ?_⟩ <;> rintro rfl
    · exact h.syswr_writes hw (by decide) rfl (fun hx => (if_neg (by omega)).trans (by rw [loWord_eq_setWidth]; rfl)) fun hx => if_pos (by omega)
    · exact h.syswr_writes hw (by decide) rfl (fun _ => by rw [← loWord_eq_setWidth]; rfl) fun hx => absurd trivial hx
    · exact h.syswr_writes hw (by decide) rfl (fun hx => if_neg (by simp [hx])) fun hx => if_pos (by simpa [← imp_iff_not_or] using hx)
    · exact h.syswr_writes hw (by decide) rfl (fun _ => rfl) fun hx => absurd trivial hx
    · exact h.syswr_writes hw (by decide) rfl (fun hx => (if_neg (by omega)).trans (by rw [BitVec.ofNat_toNat]; rfl)) fun hx => if_pos (by omega)
    · exact h.syswr_writes hw (by decide) rfl (fun _ => rfl) fun hx => absurd trivial hx
    · exact h.syswr_writes hw (by decide) rfl (fun hx => (if_neg (by omega)).trans (by rw [BitVec.ofNat_toNat]; rfl)) fun hx => if_pos (by omega)
    · exact h.syswr_writes hw (by decide) rfl (fun hx => (if_neg (by omega)).trans (by rw [loWord_eq_setWidth]; rfl)) fun hx => if_pos (by omega)
    · exact h.syswr_writes hw (by decide) rfl (fun _ => rfl) fun hx => absurd trivial hx

end Sys2Proof.Machine
end

section
/-!
SUPPORT and PROOF. Trap entry, the end of a team by the default handler, and double faults (spec/06_group_control_faults.md R152, R155,
R156, spec/11_core_sync_faults.md R273, R274, spec/17_package_memory.md R349).
-/
namespace Sys2Proof.Machine
open Sys2Proof.Spec

/-! ## Trap entry, case by case (R152, R274) -/

section
variable {s : State} {p : PartNo} {gid : Nat} {g : Group} (hg : s.group? p gid = some g)
include hg

theorem State.raiseTrap_of_open (t : Trap) (hw : g.windows.all Window.done = false) :
    s.raiseTrap p gid t = s.modGroup p gid fun g => { g with latched := some t, stage := .fresh, wait := some .inFlight } := by
  simp only [State.raiseTrap, hg, Group.settled, hw, Bool.false_eq_true, if_false]

theorem State.raiseTrap_of_settled (t : Trap) (hw : g.windows.all Window.done = true) : s.raiseTrap p gid t = s.enterTrap p gid t := by
  simp only [State.raiseTrap, hg, Group.settled, hw, if_true]

theorem State.enterTrap_of_poisoned (t : Trap) (hp : g.poisons issueWords = true) : s.enterTrap p gid t = s.consumeBy p gid 3 srcCore 0 := by
  simp only [State.enterTrap, hg, hp, if_true]

variable (hp : g.poisons issueWords = false) (hteam : isWhisk gid = false)
include hp hteam

theorem State.enterTrap_of_inTrap (t : Trap) (hin : g.inTrap = true) : s.enterTrap p gid t = s.doubleFault p gid g t := by
  simp only [State.enterTrap, hg, hp, hteam, hin, Bool.false_eq_true, if_false, if_true]

theorem State.enterTrap_of_poisonedVector (t : Trap) (hin : g.inTrap = false) (hv : g.poisons [tvecWord] = true) :
    s.enterTrap p gid t = s.consumeBy p gid 3 srcCore 0 := by
  simp only [State.enterTrap, hg, hp, hteam, hin, hv, Bool.false_eq_true, if_false, if_true]

theorem State.enterTrap_of_default (t : Trap) (hin : g.inTrap = false) (hv : g.poisons [tvecWord] = false) (hd : g.tvec = defaultVector) :
    s.enterTrap p gid t = s.defaultHandler p gid g.pc t := by
  simp only [State.enterTrap, hg, hp, hteam, hin, hv, hd, Bool.false_eq_true, if_false, if_true]

theorem State.enterTrap_of_vector (t : Trap) (hin : g.inTrap = false) (hv : g.poisons [tvecWord] = false) (hd : g.tvec ≠ defaultVector) :
    s.enterTrap p gid t = s.modGroup p gid fun _ => g.trapped t := by
  simp only [State.enterTrap, hg, hp, hteam, hin, hv, hd, Bool.false_eq_true, if_false]
end

/-- Poison among several words is poison in one of them. -/
theorem Group.poisons_cons (g : Group) (w : Nat) (ws : List Nat) : g.poisons (w :: ws) = (g.poisons [w] || g.poisons ws) := by
  simp [Group.poisons]

theorem State.group?_modGroup_const {s : State} {p : PartNo} {gid : Nat} {g : Group} (hg : s.group? p gid = some g) (g' : Group) :
    (s.modGroup p gid fun _ => g').group? p gid = some g' := by
  rw [State.group?_eq] at hg ⊢
  rw [State.modGroup, State.part?_modPart]
  cases hP : s.part? p with
  | none => rw [hP] at hg; cases hg
  | some P =>
    rw [hP] at hg
    rw [Option.map_some, Option.bind_some, Part.group?_modGroup, show P.group? gid = some g from hg]
    rfl

theorem trapEntryAtOnce : TrapEntryAtOnce := by
  intro s p gid g tr hg hteam hw hin hv hp
  rw [Group.poisons_cons, Bool.or_eq_false_iff] at hp
  have he : s.raiseTrap p gid tr = s.modGroup p gid fun _ => handlerEntered g tr :=
    (State.raiseTrap_of_settled hg tr hw).trans (State.enterTrap_of_vector hg hp.2 hteam tr hin hp.1 hv)
  exact ⟨he, he ▸ State.group?_modGroup_const hg _, fun a => he ▸ rfl⟩

theorem trapEntryWaitsForOpenWindows : TrapEntryWaitsForOpenWindows :=
  fun _ _ _ _ tr hg hw => State.raiseTrap_of_open hg tr hw

theorem trapEntryConsumesPoison : TrapEntryConsumesPoison := by
  intro s p gid g tr hg hw hp
  rw [State.raiseTrap_of_settled hg tr hw]
  by_cases hi : g.poisons issueWords = true
  · exact State.enterTrap_of_poisoned hg tr hi
  · obtain ⟨hteam, hin, hv⟩ := hp.resolve_left hi
    exact State.enterTrap_of_poisonedVector hg (Bool.eq_false_iff.2 hi) hteam tr hin hv

/-! ## The end of a team without a commit (R156) -/

@[simp] theorem Part.setDir_reports (P : Part) (k : Nat) (d : DirEntry) : (P.setDir k d).reports = P.reports := rfl
@[simp] theorem Part.dropDir_reports (P : Part) (k : Nat) : (P.dropDir k).reports = P.reports := rfl
@[simp] theorem Part.modLaunch_reports (P : Part) (k : Nat) (f : Launch → Launch) : (P.modLaunch k f).reports = P.reports := rfl
@[simp] theorem Part.cancel_reports (P : Part) (tk : Nat) : (P.cancel tk).reports = P.reports := rfl

@[simp] theorem Part.dropCrock_reports (P : Part) (k : Nat) : (P.dropCrock k).reports = P.reports := by
  unfold Part.dropCrock
  split <;> rfl

@[simp] theorem Part.unhold_reports (P : Part) (a : Attach) (b : Bool) : (P.unhold a b).reports = P.reports := by
  unfold Part.unhold
  dsimp only
  repeat' split
  all_goals rfl

@[simp] theorem Part.releaseAttach_reports (P : Part) (k : Nat) (b : Bool) (a : Attach) : (P.releaseAttach k b a).reports = P.reports := by
  unfold Part.releaseAttach
  dsimp only
  split <;> simp

@[simp] theorem Part.freeEngines_reports (P : Part) (tk : Nat) : (P.freeEngines tk).reports = P.reports := by
  unfold Part.freeEngines
  split <;> rfl

@[simp] theorem Part.freeTeam_reports (P : Part) (tk : Nat) : (P.freeTeam tk).reports = P.reports := by
  unfold Part.freeTeam
  split <;> rfl

@[simp] theorem Part.teamOver_reports (P : Part) (t : Team) : (P.teamOver t).reports = P.reports := by
  unfold Part.teamOver
  dsimp only
  split
  · rfl
  · split <;> rfl

theorem Part.freeTeam_team? (P : Part) (tk : Nat) : (P.freeTeam tk).team? tk = none := by
  unfold Part.freeTeam
  split
  · assumption
  · exact (Table.get?_erase ..).trans (if_pos rfl)

@[simp] theorem Part.teamOver_team? (P : Part) (t : Team) (tk : Nat) : (P.teamOver t).team? tk = P.team? tk := by
  unfold Part.teamOver
  dsimp only
  split
  · rfl
  · split <;> rfl

/-- The partition once a team has ended so. -/
def Part.killed (P : Part) (tk : Nat) : Part := match P.team? tk with
  | none => P
  | some t => ((((t.attaches.foldl (fun P a => P.releaseAttach t.core false a) (P.cancel tk)).freeEngines tk).freeTeam tk).teamOver t)

theorem Part.killed_team? (P : Part) (tk : Nat) : (P.killed tk).team? tk = none := by
  unfold Part.killed
  split
  · assumption
  · rw [Part.teamOver_team?, Part.freeTeam_team?]

theorem foldl_releaseAttach_reports (as : List Attach) (k : Nat) (P : Part) :
    (as.foldl (fun P a => P.releaseAttach k false a) P).reports = P.reports := by
  induction as generalizing P with
  | nil => rfl
  | cons a as ih => rw [List.foldl_cons, ih, Part.releaseAttach_reports]

theorem Part.killed_reports (P : Part) (tk : Nat) : (P.killed tk).reports = P.reports := by
  unfold Part.killed
  split
  · rfl
  · simp [foldl_releaseAttach_reports]

/-- A team that has staged no record ends within its partition. -/
theorem State.killTeam_unstaged {s : State} {p : PartNo} {tk : Nat} {P : Part} {t : Team} (hP : s.part? p = some P) (ht : P.team? tk = some t)
    (hs : t.staged = []) : s.killTeam p tk = s.modPart p fun P => (P.modTeam tk fun t => { t with staged := [] }).killed tk := by
  have hu : s.unstage p tk = s.modTeam p tk fun t => { t with staged := [] } := by
    simp only [State.unstage, hP, Option.bind_some, ht, hs, List.foldl_nil]
  rw [State.killTeam, hu, State.modTeam, State.modPart_modPart]
  rfl

theorem trapEntryToTheDefaultHandler : TrapEntryToTheDefaultHandler := by
  intro s p P gid tm g tr hP htm hg hteam hw hin hd hp
  rw [Group.poisons_cons, Bool.or_eq_false_iff] at hp
  have hgs : s.group? p gid = some g := by rw [State.group?_eq, hP]; exact hg
  have he := (State.raiseTrap_of_settled hgs tr hw).trans (State.enterTrap_of_default hgs hp.2 hteam tr hin hp.1 hd)
  refine ⟨he, fun hstaged => ?_⟩
  have hrep := State.part?_modPart_some hP fun P =>
    (P.report (.killed (((P.team? (gidTeam gid)).map Team.tidx).getD 0) (gidGroup gid) g.pc tr)).vector 0
  have hk := State.killTeam_unstaged hrep (show (Part.vector _ 0).team? (gidTeam gid) = some tm from htm) hstaged
  rw [he, State.defaultHandler, hk]
  refine ⟨_, State.part?_modPart_some hrep _, Part.killed_team? .., ?_, fun a => rfl⟩
  rw [Part.killed_reports]
  simp [htm]

/-- Settles O16: the entry's own case split, and what the end of a team leaves of the reports. -/
theorem trapEntrySavesAndGoesToTheVector : Obligations.TrapEntrySavesAndGoesToTheVector :=
  ⟨trapEntryAtOnce, trapEntryWaitsForOpenWindows, trapEntryConsumesPoison, trapEntryToTheDefaultHandler⟩

/-! ## Double faults (R155) -/

@[simp] theorem Part.setGroup_reports (P : Part) (gid : Nat) (g : Group) : (P.setGroup gid g).reports = P.reports := by
  unfold Part.setGroup
  split <;> rfl

@[simp] theorem Part.modGroup_reports (P : Part) (gid : Nat) (f : Group → Group) : (P.modGroup gid f).reports = P.reports := by
  unfold Part.modGroup
  split
  · exact Part.setGroup_reports ..
  · rfl

/-- Settles O17: the group is stopped and the record reported before the severity matrix acts. -/
theorem doubleFaultReportsAndStops : Obligations.DoubleFaultReportsAndStops := by
  intro s p P gid g tr hP hg hteam hw hin hp
  have hgs : s.group? p gid = some g := by rw [State.group?_eq, hP]; exact hg
  have he := (State.raiseTrap_of_settled hgs tr hw).trans (State.enterTrap_of_inTrap hgs hp hteam tr hin)
  rw [he, State.doubleFault, hP]
  refine ⟨_, rfl, ?_, ?_⟩
  · have hmod := Part.group?_modGroup P gid fun g => { g with run := .stopped, latched := none, stage := .fresh, wait := none }
    rw [hg] at hmod
    exact (Part.group?_congr rfl gid).trans hmod
  · rw [Part.report_reports]
    exact congrArg _ (Part.modGroup_reports ..)

end Sys2Proof.Machine
end

section
/-!
SUPPORT. Contexts that agree with their states, and what stands in the state that an instruction ends in.
-/
namespace Sys2Proof.Machine
open Sys2Proof.Spec

/-! ## A context that its state holds -/

/-- The context's partition and group are those of its state. -/
structure Ctx.Fits (c : Ctx) : Prop where
  part : c.s.part? c.p = some c.P
  group : c.P.group? c.gid = some c.g

theorem Ready.fits {c : Ctx} {s : State} {i : Instr} (h : Ready c s i) : c.Fits :=
  ⟨h.state ▸ h.part, h.inPart⟩

theorem Ctx.Fits.groupIn {c : Ctx} (h : c.Fits) : c.s.group? c.p c.gid = some c.g := by
  rw [State.group?_eq, h.part]
  exact h.group

theorem Ctx.Fits.part_put {c : Ctx} (h : c.Fits) (g : Group) : (c.put g).part? c.p = some (c.P.setGroup c.gid g) := by
  rw [Ctx.put, State.modGroup, State.part?_modPart_some h.part, Part.modGroup, h.group]

theorem Ctx.Fits.setG {c : Ctx} (h : c.Fits) (g : Group) : (c.setG g).Fits :=
  ⟨h.part_put g, Part.group?_setGroup _ _ _ _ h.group⟩

theorem Ctx.setP_eq {c : Ctx} {P : Part} {g : Group} (hg : P.group? c.gid = some g) :
    c.setP P = { c with s := c.s.setPart c.p P, P := P, g := g } := by
  rw [Ctx.setP, hg]
  rfl

theorem Ctx.Fits.setP {c : Ctx} {P : Part} {g : Group} (hg : P.group? c.gid = some g) : (c.setP P).Fits := by
  rw [Ctx.setP_eq hg]
  exact ⟨State.part?_setPart_same .., hg⟩

theorem Ctx.reload_eq {c : Ctx} {s : State} {P : Part} {g : Group} (hP : s.part? c.p = some P) (hg : P.group? c.gid = some g) :
    c.reload s = { c with s := s, P := P, g := g } := by
  rw [Ctx.reload, hP]
  simp only [hg, Option.getD_some]

theorem Ctx.Fits.reload {c : Ctx} {s : State} {P : Part} {g : Group} (hP : s.part? c.p = some P) (hg : P.group? c.gid = some g) :
    (c.reload s).Fits := by
  rw [Ctx.reload_eq hP hg]
  exact ⟨hP, hg⟩

/-- A replaced group changes the partition's work alone. -/
theorem Part.setGroup_frame (P : Part) (gid : Nat) (g : Group) : P.setGroup gid g = { P with run := (P.setGroup gid g).run } := by
  cases h : isWhisk gid with
  | true =>
    rw [P.setGroup_of_whisk h]
    rfl
  | false =>
    rw [P.setGroup_of_team h]
    rfl

theorem Part.modGroup_frame (P : Part) (gid : Nat) (f : Group → Group) : P.modGroup gid f = { P with run := (P.modGroup gid f).run } := by
  unfold Part.modGroup
  cases P.group? gid with
  | none => rfl
  | some g => exact P.setGroup_frame gid (f g)

theorem Part.modGroup_setGroup {P : Part} {gid : Nat} {g : Group} (hg : P.group? gid = some g) (g' : Group) (f : Group → Group) :
    (P.setGroup gid g').modGroup gid f = P.setGroup gid (f g') := by
  rw [Part.modGroup, Part.group?_setGroup _ _ _ _ hg]
  exact Part.setGroup_setGroup ..

/-! ## The context with the group's windows closed -/

def Ctx.shut (c : Ctx) : Ctx := c.setG { c.g with windows := [] }

section
variable (c : Ctx)

theorem Ctx.closed_shut {c : Ctx} (k : Ctx → Res) (h : c.g.windows.all Window.done = true) : c.closed k = k c.shut :=
  Ctx.closed_of_settled k h

theorem Ctx.Fits.shut {c : Ctx} (h : c.Fits) : c.shut.Fits := h.setG _

@[simp] theorem Ctx.shut_p : c.shut.p = c.p := rfl
@[simp] theorem Ctx.shut_gid : c.shut.gid = c.gid := rfl
@[simp] theorem Ctx.shut_tk : c.shut.tk = c.tk := rfl
@[simp] theorem Ctx.shut_g : c.shut.g = { c.g with windows := [] } := rfl
@[simp] theorem Ctx.shut_s : c.shut.s = c.put { c.g with windows := [] } := rfl
@[simp] theorem Ctx.shut_put (g : Group) : c.shut.put g = c.put g := Ctx.put_setG ..
@[simp] theorem Ctx.shut_team? : c.shut.team? = c.team?.map fun t => t.putGroup (gidGroup c.gid) { c.g with windows := [] } :=
  Ctx.team?_setG ..
@[simp] theorem Ctx.shut_launchOf (t : Team) : c.shut.P.launchOf t = c.P.launchOf t := Part.launchOf_setGroup ..
@[simp] theorem Ctx.shut_mode : c.shut.P.mode = c.P.mode := Part.mode_setGroup ..
@[simp] theorem Ctx.shut_coreOf : c.shut.P.coreOf c.gid = c.P.coreOf c.gid := Part.coreOf_setGroup ..
end

/-- A group that waits. -/
def Group.waits (g : Group) (w : Wait) : Group := { g with wait := some w }

/-! ## What a firing and a changed group leave -/

section
variable (s : State) (p : PartNo) (gid : Nat)

@[simp] theorem State.byte_fired (a : Nat) : (s.fired p).byte a = s.byte a := rfl
@[simp] theorem State.byte_modGroup (f : Group → Group) (a : Nat) : (s.modGroup p gid f).byte a = s.byte a := rfl
@[simp] theorem State.byte_setPart (P : Part) (a : Nat) : (s.setPart p P).byte a = s.byte a := rfl
@[simp] theorem State.byte_modPart (f : Part → Part) (a : Nat) : (s.modPart p f).byte a = s.byte a := rfl

@[simp] theorem State.group?_fired : (s.fired p).group? p gid = s.group? p gid := by
  rw [State.group?_eq, State.group?_eq, State.fired, State.part?_modPart]
  cases s.part? p <;> rfl
end

/-- A partition that counts one firing more. -/
def Part.fired (P : Part) : Part := { P with fire := P.fire + 1 }

@[simp] theorem Part.run_fired (P : Part) : P.fired.run = P.run := rfl
@[simp] theorem Part.team?_fired (P : Part) (tk : Nat) : P.fired.team? tk = P.team? tk := rfl
@[simp] theorem Part.group?_fired (P : Part) (gid : Nat) : P.fired.group? gid = P.group? gid := rfl

theorem State.part?_fired {s : State} {p : PartNo} {P : Part} (h : s.part? p = some P) :
    (s.fired p).part? p = some P.fired := State.part?_modPart_some h _

theorem State.part?_modGroup_some {s : State} {p : PartNo} {P : Part} (h : s.part? p = some P) (gid : Nat) (f : Group → Group) :
    (s.modGroup p gid f).part? p = some (P.modGroup gid f) := State.part?_modPart_some h _

theorem State.group?_of_part {s : State} {p : PartNo} {P : Part} (h : s.part? p = some P) (gid : Nat) : s.group? p gid = P.group? gid := by
  rw [State.group?_eq, h]
  rfl

section
variable {c : Ctx} {s s₁ : State} {i : Instr} {body : Ctx → Res} {g : Group}

/-- The group, the partition and the bytes once an instruction has completed from a state of its own. -/
theorem Ready.completes (h : Ready c s i) (he : exec i s = Machine.issue i s body) (hb : body c = .done s₁) {P : Part}
    (hP : s₁.part? c.p = some P) (hg : P.group? c.gid = some g) :
    ∃ t, exec i s = .next t ∧ t.part? c.p = some (P.setGroup c.gid (g.completed (g.pc + 4))).fired ∧
      t.group? c.p c.gid = some (g.completed (g.pc + 4)) ∧ ∀ a, t.byte a = s₁.byte a := by
  have hmod := State.part?_modGroup_some hP c.gid fun g => g.completed (g.pc + 4)
  have hset : (P.modGroup c.gid fun g => g.completed (g.pc + 4)) = P.setGroup c.gid (g.completed (g.pc + 4)) := by
    rw [Part.modGroup, hg]
  refine ⟨_, he.trans (h.ends_done hb), ?_, ?_, fun a => rfl⟩
  · rw [State.part?_fired hmod, hset]
  · rw [State.group?_fired, State.group?_modGroup, State.group?_of_part hP, hg]
    rfl

/-- The same for one that waits with an effect begun. -/
theorem Ready.holds (h : Ready c s i) (he : exec i s = Machine.issue i s body) {w : Wait} {P : Part} (hP : s₁.part? c.p = some P)
    (hg : P.group? c.gid = some g) (hw : w.before = false ∨ g.stage ≠ .fresh) (hb : body c = .wait s₁ w) :
    ∃ t, exec i s = .next t ∧ t.part? c.p = some (P.setGroup c.gid (g.waits w)).fired ∧
      t.group? c.p c.gid = some (g.waits w) ∧ ∀ a, t.byte a = s₁.byte a := by
  have hgs : s₁.group? c.p c.gid = some g := (State.group?_of_part hP _).trans hg
  have hmod := State.part?_modGroup_some hP c.gid (Group.waits · w)
  have hset : (P.modGroup c.gid (Group.waits · w)) = P.setGroup c.gid (g.waits w) := by
    rw [Part.modGroup, hg]
  refine ⟨_, he.trans (h.ends_hold (hw.imp_right fun hs => ⟨hgs, hs⟩) hb), ?_, ?_, fun a => rfl⟩
  · exact (State.part?_fired hmod).trans (by rw [hset])
  · rw [State.group?_fired, State.group?_modGroup, hgs]
    rfl
end

end Sys2Proof.Machine
end

section
/-!
PROOF. Choice sites, anchoring and the request of a service (spec/06_group_control_faults.md R147 to R149).
-/
namespace Sys2Proof.Machine
open Sys2Proof.Spec

/-! ## `choose` (R147) -/

theorem Ctx.decideChoice_free {c : Ctx} (h : c.P.mode = 0 ∨ c.P.mode = 1) (d : SReg) (b : Nat) : c.decideChoice d b = c.chosen d 0 := by
  have h2 : c.P.mode ≠ mRECORD := by unfold mRECORD; omega
  have h3 : c.P.mode ≠ mSTEERED := by unfold mSTEERED; omega
  have h4 : c.P.mode ≠ mEXPLORE := by unfold mEXPLORE; omega
  simp only [Ctx.decideChoice, h2, h3, h4, if_false]

/-- `choose` of a team. -/
def Ctx.chooseEnd (c : Ctx) (d a : SReg) : Res :=
  if (c.g.sreg a).toNat = 0 ∨ 2 ^ 32 < (c.g.sreg a).toNat then .trap c.s ⟨2, c.g.sreg a⟩
  else if c.P.mode = mEXPLORE ∧ 256 < (c.g.sreg a).toNat then .trap c.s ⟨0x26, c.g.sreg a⟩
  else if (c.g.sreg a).toNat = 1 then c.finish (c.g.setS d 0)
  else c.decideChoice d (c.g.sreg a).toNat

theorem exec_choose (d a : SReg) (s : State) : exec (.choose d a) s = issue (.choose d a) s fun c => c.outside (.choose d a) (Ctx.chooseEnd · d a) := rfl

theorem chooseGivesZeroOutsideTheChoiceModes : ChooseGivesZeroOutsideTheChoiceModes := by
  intro c s d a h hteam b
  have hbody (r : Res) (hr : c.chooseEnd d a = r) := (c.outside_team (.choose d a) (Ctx.chooseEnd · d a) hteam).trans hr
  refine ⟨fun hbad => h.trapsWith (exec_choose d a s) (hbody _ (if_pos hbad)), fun h0 h32 hmode => ?_⟩
  have hex : ¬ (c.P.mode = mEXPLORE ∧ 256 < (c.g.sreg a).toNat) := by unfold mEXPLORE; omega
  refine h.ran_of_done (g := { (c.g.setS d 0) with chooseN := c.g.chooseN + (if b = 1 then 0 else 1) }) (exec_choose d a s)
    (hbody _ ((if_neg (by omega)).trans ((if_neg hex).trans ?_)))
  by_cases h1 : (c.g.sreg a).toNat = 1
  · rw [if_pos h1, if_pos h1]
    rfl
  · rw [if_neg h1, if_neg h1, Ctx.decideChoice_free hmode]
    rfl

/-! ## `anch` (R148) -/

theorem anchAnchorsTheTeam : AnchAnchorsTheTeam := by
  intro c s h hteam
  refine ⟨_, h.ends_done ((c.outside_team .anch _ hteam).trans (congrArg (fun s => Res.done (s.anchor c.p c.tk)) h.state)), rfl⟩

/-! ## `ccall` (R149) -/

/-- The group's team stands with the group. -/
theorem Part.team?_of_group? {P : Part} {gid : Nat} {g : Group} (h : isWhisk gid = false) (hg : P.group? gid = some g) :
    ∃ t, P.team? (gidTeam gid) = some t ∧ Table.get? t.groups (gidGroup gid) = some g := by
  rw [Part.group?, h] at hg
  exact Option.bind_eq_some_iff.1 hg

/-- A team with its anchor set. -/
def Team.anchored (t : Team) : Team := { t with anch := true }

theorem Ctx.Fits.part_anchor {c : Ctx} (h : c.Fits) : (c.s.anchor c.p c.tk).part? c.p = some (c.P.modTeam c.tk Team.anchored) :=
  State.part?_modPart_some h.part _

theorem Ctx.Fits.group_anchor {c : Ctx} (h : c.Fits) : (c.P.modTeam c.tk Team.anchored).group? c.gid = some c.g :=
  (Part.group?_modTeam c.P c.tk Team.anchored (fun _ => rfl) c.gid).trans h.group

/-- The context of a group whose team has been anchored. -/
def Ctx.anchored (c : Ctx) : Ctx := { c with s := c.s.anchor c.p c.tk, P := c.P.modTeam c.tk Team.anchored }

theorem Ctx.Fits.anchored {c : Ctx} (h : c.Fits) : c.anchored.Fits := ⟨h.part_anchor, h.group_anchor⟩

theorem Ctx.Fits.reload_anchor {c : Ctx} (h : c.Fits) : c.reload (c.s.anchor c.p c.tk) = c.anchored :=
  Ctx.reload_eq h.part_anchor h.group_anchor

/-- The request of a service, once the windows are closed. -/
def Ctx.ask (c : Ctx) (n : BitVec 16) : Res :=
  let c := c.reload (c.s.anchor c.p c.tk)
  .wait (c.put { c.g with stage := .asked n }) .host

/-- `ccall` of a team. -/
def Ctx.ccallEnd (c : Ctx) (n : BitVec 16) : Res := match c.g.stage with
  | .fresh => c.closed (Ctx.ask · n)
  | _ => .wait c.s .host

theorem exec_ccall (n : BitVec 16) (s : State) : exec (.ccall n) s = issue (.ccall n) s fun c => c.outside (.ccall n) (Ctx.ccallEnd · n) := rfl

theorem Ctx.ccallEnd_fresh {c : Ctx} (h : c.g.stage = .fresh) (n : BitVec 16) : c.ccallEnd n = c.closed (Ctx.ask · n) := by
  rw [Ctx.ccallEnd, h]

theorem ccallAnchorsAndAsks : CcallAnchorsAndAsks := by
  intro c s n h hteam hw
  have hfit := h.fits.shut
  obtain ⟨tm, htm, -⟩ := Part.team?_of_group? hteam hfit.group
  let g' : Group := { c.shut.g with stage := .asked n }
  have hb : c.outside (.ccall n) (Ctx.ccallEnd · n) = .wait (c.shut.anchored.put g') .host := by
    rw [c.outside_team _ _ hteam, Ctx.ccallEnd_fresh h.fresh, Ctx.closed_shut _ hw, Ctx.ask, hfit.reload_anchor]
    rfl
  have hfit' := hfit.anchored.setG g'
  obtain ⟨t, ht, hpart, -, hbytes⟩ := h.holds (exec_ccall n s) hfit'.part hfit'.group (.inl rfl) hb
  have hanch : c.shut.anchored.P.team? c.tk = some tm.anchored := by
    rw [Ctx.anchored, Ctx.shut_tk, Part.team?_modTeam_same]
    exact congrArg _ htm
  refine ⟨t, g'.waits .host, _, tm.anchored.putGroup (gidGroup c.gid) (g'.waits .host), ht,
    hpart.trans (congrArg (fun P : Part => some P.fired) (Part.setGroup_setGroup ..)), ?_, ?_, rfl,
    rfl, fun a => (hbytes a).trans ?_⟩
  · exact (Part.team?_setGroup_team _ hteam _).trans (congrArg (Option.map _) hanch)
  · exact Part.group?_setGroup _ _ _ _ hfit.anchored.group
  · rw [← h.state]
    rfl

/-- Settles O21: outside the choice modes a `choose` takes 0; the request of a service is made with the windows closed. -/
theorem choiceAnchorAndHostCall : Obligations.ChoiceAnchorAndHostCall :=
  ⟨chooseGivesZeroOutsideTheChoiceModes, anchAnchorsTheTeam, ccallAnchorsAndAsks⟩

end Sys2Proof.Machine
end

section
/-!
SUPPORT and PROOF. Barriers: what an arrival and a completed phase leave of the partition (spec/11_core_sync_faults.md R260 to R262).
-/
namespace Sys2Proof.Machine
open Sys2Proof.Spec

/-! ## A barrier of a team, its cluster or its grid -/

/-- There is an object that the barrier belongs to. -/
def Part.HasBar (P : Part) (t : Team) (level : Nat) : Prop := match level with
  | 0 => True
  | 1 => (Table.get? P.run.clusters t.cluster).isSome = true
  | _ => (P.launchOf t).isSome = true

/-- A team with the fields that identify it and its groups as they were. -/
structure Team.Same (t t' : Team) : Prop where
  launch : t'.launch = t.launch
  cluster : t'.cluster = t.cluster
  rank : t'.rank = t.rank
  place : t'.x = t.x ∧ t'.y = t.y ∧ t'.z = t.z
  g : t'.g = t.g
  groups : t'.groups = t.groups

theorem Team.Same.refl (t : Team) : t.Same t := ⟨rfl, rfl, rfl, ⟨rfl, rfl, rfl⟩, rfl, rfl⟩
theorem Team.Same.trans {t u v : Team} (h : t.Same u) (h' : u.Same v) : t.Same v :=
  ⟨h'.launch.trans h.launch, h'.cluster.trans h.cluster, h'.rank.trans h.rank,
    ⟨h'.place.1.trans h.place.1, h'.place.2.1.trans h.place.2.1, h'.place.2.2.trans h.place.2.2⟩, h'.g.trans h.g, h'.groups.trans h.groups⟩

/-- From `P`, in which team `tk` is `t`, to `P'`, in which it is `t'`, a barrier has become `b`; groups, members and the mode are as before. -/
structure BarStep (P : Part) (tk : Nat) (t : Team) (level bar : Nat) (b : Barrier) (P' : Part) (t' : Team) : Prop where
  team : P'.team? tk = some t'
  same : t.Same t'
  bar : P'.bar t' level bar = b
  has : P'.HasBar t' level
  member : ∀ grp, P'.member t' grp level = P.member t grp level
  groups : ∀ gid, P'.group? gid = P.group? gid
  mode : P'.mode = P.mode
  held : P'.choice = P.choice

theorem Table.getD_set_same {α : Type} (t : Table α) (k : Nat) (x d : α) : Table.getD (Table.set t k x) k d = x := by
  rw [Table.getD, Table.get?_set_same]
  rfl

theorem Part.mode_congr {P Q : Part} (hc : Q.choice = P.choice) (ht : Q.run.teams.map (fun e => e.2.launch) = P.run.teams.map fun e => e.2.launch)
    (hl : ∀ k, (Table.get? Q.run.launches k).bind Launch.mode = (Table.get? P.run.launches k).bind Launch.mode) : Q.mode = P.mode := by
  have hlive (R : Part) : R.liveMode = (R.run.teams.map fun e => e.2.launch).head?.bind fun k => (Table.get? R.run.launches k).bind Launch.mode := by
    rw [Part.liveMode, List.head?_map, Option.bind_map]
    rfl
  rw [Part.mode, Part.mode, hlive Q, hlive P, ht, hc]
  simp only [hl]

theorem Part.mode_modLaunch (P : Part) (k : Nat) {f : Launch → Launch} (hf : ∀ l, (f l).mode = l.mode) : (P.modLaunch k f).mode = P.mode := by
  refine Part.mode_congr rfl rfl fun j => ?_
  rw [Part.modLaunch, Part.modRun, Table.get?_modify]
  split
  · cases Table.get? P.run.launches j <;> simp [hf]
  · rfl

/-- A barrier is set where it stands. -/
theorem Part.setBar_step {P : Part} {tk : Nat} {t : Team} (ht : P.team? tk = some t) (level bar : Nat) (b : Barrier) (hb : P.HasBar t level) :
    ∃ t', BarStep P tk t level bar b (P.setBar tk t level bar b) t' ∧ t'.kdue = t.kdue ∧ t'.kwrites = t.kwrites := by
  match level with
  | 0 =>
    refine ⟨{ t with bars := Table.set t.bars bar b }, ⟨?_, ⟨rfl, rfl, rfl, ⟨rfl, rfl, rfl⟩, rfl, rfl⟩, Table.getD_set_same .., trivial, fun _ => rfl,
      fun gid => P.group?_modTeam tk (fun t => { t with bars := Table.set t.bars bar b }) (fun _ => rfl) gid, P.mode_modTeam _ fun _ => rfl, rfl⟩, rfl, rfl⟩
    rw [Part.setBar, Part.team?_modTeam_same, ht]
    rfl
  | 1 =>
    obtain ⟨x, hx⟩ := Option.isSome_iff_exists.1 hb
    have hx' : Table.get? (P.setBar tk t 1 bar b).run.clusters t.cluster = some { x with bars := Table.set x.bars bar b } := by
      rw [Part.setBar, Part.modCluster, Part.modRun, Table.get?_modify_same, hx]
      rfl
    refine ⟨t, ⟨ht, .refl t, ?_, Option.isSome_iff_exists.2 ⟨_, hx'⟩, fun _ => rfl, fun _ => rfl, rfl, rfl⟩, rfl, rfl⟩
    simp only [Part.bar, hx', Table.getD_set_same]
  | l + 2 =>
    obtain ⟨x, hx⟩ := Option.isSome_iff_exists.1 (show (P.launchOf t).isSome = true from hb)
    have hx' : (P.setBar tk t (l + 2) bar b).launchOf t = some { x with bars := Table.set x.bars bar b } := by
      change Table.get? (Table.modify P.run.launches t.launch fun l => { l with bars := Table.set l.bars bar b }) t.launch = _
      rw [Table.get?_modify_same, show Table.get? P.run.launches t.launch = some x from hx]
      rfl
    refine ⟨t, ⟨ht, .refl t, ?_, Option.isSome_iff_exists.2 ⟨_, hx'⟩, fun grp => ?_, fun _ => rfl, P.mode_modLaunch _ fun _ => rfl, rfl⟩, rfl, rfl⟩
    · simp only [Part.bar, hx', Table.getD_set_same]
    · simp only [Part.member, hx', hx]
      rfl

/-- Changes of teams that leave what identifies them, their groups and their barriers. -/
theorem BarStep.mapTeams {P P' : Part} {tk : Nat} {t t' : Team} {level bar : Nat} {b : Barrier} (h : BarStep P tk t level bar b P' t')
    {f : Nat → Team → Team} (hsame : ∀ k u, Team.Same u (f k u)) (hbars : ∀ k u, (f k u).bars = u.bars) :
    BarStep P tk t level bar b (P'.modRun fun r => { r with teams := r.teams.map fun e => (e.1, f e.1 e.2) }) (f tk t') := by
  have hs := hsame tk t'
  have hteam (k : Nat) : (P'.modRun fun r => { r with teams := r.teams.map fun e => (e.1, f e.1 e.2) }).team? k = (P'.team? k).map (f k) :=
    Table.get?_map ..
  refine ⟨?_, h.same.trans hs, ?_, ?_, fun grp => ?_, fun gid => ?_, ?_, h.held⟩
  · rw [hteam, h.team]
    rfl
  · refine Eq.trans ?_ h.bar
    match level with
    | 0 => simp only [Part.bar, hbars, hs.g]
    | 1 => simp only [Part.bar, hs.cluster, Part.modRun]
    | l + 2 => simp only [Part.bar, Part.launchOf, hs.launch, Part.modRun]
  · have hh := h.has
    match level with
    | 0 => trivial
    | 1 => simpa only [Part.HasBar, hs.cluster, Part.modRun] using hh
    | l + 2 => simpa only [Part.HasBar, Part.launchOf, hs.launch, Part.modRun] using hh
  · refine Eq.trans ?_ (h.member grp)
    match level with
    | 0 => rfl
    | 1 => exact hs.rank
    | l + 2 =>
      simp only [Part.member, Part.launchOf, hs.launch, Part.modRun, Launch.clusterIndex, hs.place.1, hs.place.2.1, hs.place.2.2]
  · refine Eq.trans ?_ (h.groups gid)
    rw [Part.group?, Part.group?, hteam]
    refine if_congr Iff.rfl rfl ?_
    cases P'.team? (gidTeam gid) with
    | none => rfl
    | some u => exact congrArg (Table.get? · (gidGroup gid)) (hsame _ u).groups
  · rw [← h.mode]
    refine Part.mode_congr rfl ?_ fun _ => rfl
    rw [Part.modRun, List.map_map]
    exact List.map_congr_left fun e _ => (hsame e.1 e.2).launch

theorem BarStep.modTeam {P P' : Part} {tk : Nat} {t t' : Team} {level bar : Nat} {b : Barrier} (h : BarStep P tk t level bar b P' t')
    {f : Team → Team} (hsame : ∀ u, Team.Same u (f u)) (hbars : ∀ u, (f u).bars = u.bars) :
    BarStep P tk t level bar b (P'.modTeam tk f) (f t') := by
  have hmap := h.mapTeams (f := fun k u => if k = tk then f u else u) (fun k u => by
    split
    · exact hsame u
    · exact .refl u) fun k u => by
    split
    · exact hbars u
    · rfl
  have hmod : (P'.modTeam tk f) = P'.modRun fun r => { r with teams := r.teams.map fun e => (e.1, if e.1 = tk then f e.2 else e.2) } := by
    rw [Part.modTeam]
    congr 1
    funext r
    rw [Table.modify]
    congr 1
    refine List.map_congr_left fun e _ => ?_
    split <;> rfl
  rw [hmod]
  simpa using hmap

theorem BarStep.trans {P Q R : Part} {tk : Nat} {t u v : Team} {level bar : Nat} {a b : Barrier} (h : BarStep P tk t level bar a Q u)
    (h' : BarStep Q tk u level bar b R v) : BarStep P tk t level bar b R v :=
  ⟨h'.team, h.same.trans h'.same, h'.bar, h'.has, fun grp => (h'.member grp).trans (h.member grp), fun gid => (h'.groups gid).trans (h.groups gid),
    h'.mode.trans h.mode, h'.held.trans h.held⟩

/-! ## A completed phase (R261, R262) -/

theorem Team.settleUniform_same (t : Team) (ord : Nat) : t.Same (t.settleUniform ord) := ⟨rfl, rfl, rfl, ⟨rfl, rfl, rfl⟩, rfl, rfl⟩

theorem State.completeBarrier_step {s : State} {p : PartNo} {P : Part} {tk : Nat} {t : Team} (hP : s.part? p = some P) (ht : P.team? tk = some t)
    {level bar : Nat} (hb : P.HasBar t level) (role : Option Nat) :
    ∃ P' t', (s.completeBarrier p tk level bar role).part? p = some P' ∧
      BarStep P tk t level bar ((P.bar t level bar).completed role) P' t' ∧
      t'.kdue = if level = 0 ∧ bar = 0 then (t.settleUniform (P.bar t level bar).ord).kdue else t.kdue := by
  obtain ⟨t₁, hstep, hdue, hwrites⟩ := P.setBar_step ht level bar ((P.bar t level bar).completed role) hb
  have hsettled : ∃ P₂ t₂, (if level = 0 ∧ bar = 0 then
      (P.setBar tk t level bar ((P.bar t level bar).completed role)).modTeam tk fun t' => t'.settleUniform (P.bar t level bar).ord
      else P.setBar tk t level bar ((P.bar t level bar).completed role)) = P₂ ∧
      BarStep P tk t level bar ((P.bar t level bar).completed role) P₂ t₂ ∧
      t₂.kdue = if level = 0 ∧ bar = 0 then (t.settleUniform (P.bar t level bar).ord).kdue else t.kdue := by
    by_cases h0 : level = 0 ∧ bar = 0
    · rw [if_pos h0, if_pos h0]
      refine ⟨_, _, rfl, hstep.modTeam (fun u => u.settleUniform_same _) fun _ => rfl, ?_⟩
      rw [Team.settleUniform_kdue, Team.settleUniform_kdue, hdue, hwrites]
    · rw [if_neg h0, if_neg h0]
      exact ⟨_, _, rfl, hstep, hdue⟩
  obtain ⟨P₂, t₂, he, hstep₂, hdue₂⟩ := hsettled
  have hpart : (s.completeBarrier p tk level bar role).part? p = some (if level = 2 ∧ 2 ≤ (P.bar t level bar).cands.length then
      P₂.modRun fun r => { r with teams := r.teams.map fun e => (e.1, if e.2.launch = t.launch then { e.2 with served := true } else e.2) }
      else P₂) := by
    have hseen : (if level = 0 then s else s.allSeen).part? p = some P := by split <;> exact hP
    rw [State.completeBarrier, State.part?_modPart_some hseen]
    simp only [ht, he]
  rw [hpart]
  split
  · refine ⟨_, _, rfl, hstep₂.mapTeams (f := fun _ u => if u.launch = t.launch then { u with served := true } else u) (fun _ u => ?_) fun _ u => ?_, ?_⟩
    · split
      · exact ⟨rfl, rfl, rfl, ⟨rfl, rfl, rfl⟩, rfl, rfl⟩
      · exact .refl u
    · split <;> rfl
    · split <;> exact hdue₂
  · exact ⟨_, _, rfl, hstep₂, hdue₂⟩

theorem State.completeBarrier_byte (s : State) (p : PartNo) (tk level bar : Nat) (role : Option Nat) (a : Nat) :
    (s.completeBarrier p tk level bar role).byte a = s.byte a :=
  congrArg (Cells.get 0 · a) (State.completeBarrier_mem s p tk level bar role)

theorem Barrier.completed_eq (b : Barrier) (role : Option Nat) : b.completed role = phaseCompleted b role := by
  unfold Barrier.completed phaseCompleted
  split <;> rfl

/-- The holder of the role in FREE and DETERMINISTIC mode (R262). -/
def roleHolder (b : Barrier) (mode : Nat) : Option Nat :=
  if b.cands.length < 2 then b.cands.head? else if mode = 1 then b.cands.min? else b.cands.getLast?

/-- A barrier after an arrival, completed or not. -/
def afterArrival (b : Barrier) (mode : Nat) : Barrier :=
  if b.count = b.expect ∧ b.arr ≠ 0 then phaseCompleted b (roleHolder b mode) else b

theorem State.tryBarrier_free {s : State} {p : PartNo} {P : Part} {tk : Nat} {t : Team} (hP : s.part? p = some P) (ht : P.team? tk = some t)
    (hm : P.mode = 0 ∨ P.mode = 1) (level bar : Nat) :
    s.tryBarrier p tk level bar = if (P.bar t level bar).count = (P.bar t level bar).expect ∧ (P.bar t level bar).arr ≠ 0
      then s.completeBarrier p tk level bar (roleHolder (P.bar t level bar) P.mode) else s := by
  rw [State.tryBarrier, hP]
  simp only [ht]
  generalize P.bar t level bar = b
  by_cases hc : b.count ≠ b.expect ∨ b.arr = 0
  · rw [if_pos hc, if_neg fun h => hc.elim (· h.1) h.2]
  · rw [if_neg hc, if_pos (show b.count = b.expect ∧ b.arr ≠ 0 by tauto), roleHolder]
    by_cases hlen : b.cands.length < 2
    · rw [if_pos hlen, if_pos hlen]
    · rw [if_neg hlen, if_neg hlen]
      rcases hm with hm | hm <;> rw [hm] <;> rfl

/-- An arrival in FREE or DETERMINISTIC mode, at any level. -/
theorem State.arrive_step {s : State} {p : PartNo} {P : Part} {tk : Nat} {t : Team} (hP : s.part? p = some P) (ht : P.team? tk = some t)
    {level bar : Nat} (hb : P.HasBar t level) (hm : P.mode = 0 ∨ P.mode = 1) (m : Nat) (drop cand : Bool) :
    ∃ P' t', (s.arrive p tk level bar m drop cand).part? p = some P' ∧
      BarStep P tk t level bar (afterArrival (arrivedAt (P.bar t level bar) m drop cand) P.mode) P' t' ∧
      (t'.kdue = if (level = 0 ∧ bar = 0) ∧ (P.bar t level bar).count + 1 = (P.bar t level bar).expect ∧
          (arrivedAt (P.bar t level bar) m drop cand).arr ≠ 0
        then (t.settleUniform (P.bar t level bar).ord).kdue else t.kdue) ∧
      ∀ a, (s.arrive p tk level bar m drop cand).byte a = s.byte a := by
  let b := arrivedAt (P.bar t level bar) m drop cand
  obtain ⟨t₁, hstep, hdue, hwrites⟩ := P.setBar_step ht level bar b hb
  have hP₁ : (s.modPart p fun P => match P.team? tk with
      | none => P
      | some t => P.setBar tk t level bar ((P.bar t level bar).arrive m drop cand)).part? p = some (P.setBar tk t level bar b) := by
    rw [State.part?_modPart_some hP]
    simp only [ht]
    rfl
  have htry : s.arrive p tk level bar m drop cand = _ :=
    State.tryBarrier_free hP₁ hstep.team (by rwa [hstep.mode]) level bar
  rw [htry, hstep.bar, hstep.mode]
  unfold afterArrival
  by_cases hc : b.count = b.expect ∧ b.arr ≠ 0
  · obtain ⟨P₂, t₂, hP₂, hstep₂, hdue₂⟩ := State.completeBarrier_step (bar := bar) hP₁ hstep.team hstep.has (roleHolder b P.mode)
    rw [hstep.bar] at hstep₂ hdue₂
    rw [if_pos hc, if_pos hc]
    refine ⟨P₂, t₂, hP₂, hstep.trans ?_, ?_, fun a => State.completeBarrier_byte ..⟩
    · rwa [Barrier.completed_eq] at hstep₂
    · rw [hdue₂, Team.settleUniform_kdue, Team.settleUniform_kdue, hdue, hwrites]
      exact if_congr (and_iff_left hc).symm rfl rfl
  · rw [if_neg hc, if_neg hc]
    refine ⟨_, _, hP₁, hstep, ?_, fun a => rfl⟩
    rw [hdue, if_neg]
    exact fun h => hc h.2

/-- Settles O23: an arrival sets the barrier and a completed phase sets it again; nothing else touches it. -/
theorem teamBarrierCountsAndCompletes : Obligations.TeamBarrierCountsAndCompletes := by
  unfold Obligations.TeamBarrierCountsAndCompletes
  intro s p P tk bar m tm drop cand hP htm hmode b b'
  obtain ⟨P', tm', hP', hstep, -, -⟩ := State.arrive_step hP htm (level := 0) (bar := bar) trivial hmode m drop cand
  exact ⟨P', tm', hP', hstep.team, hstep.bar⟩

end Sys2Proof.Machine
end

section
/-!
PROOF. The barrier instructions (spec/01_group_state.md R31; spec/11_core_sync_faults.md R260 to R264).
-/
namespace Sys2Proof.Machine
open Sys2Proof.Spec

/-! ## A barrier beside a replaced group -/

section
variable (P : Part) (gid : Nat) (g : Group) (t : Team)

@[simp] theorem Part.clusters_setGroup : (P.setGroup gid g).run.clusters = P.run.clusters := by
  unfold Part.setGroup
  split <;> rfl

theorem Part.launchOf_putGroup (n : Nat) : P.launchOf (t.putGroup n g) = P.launchOf t := rfl

theorem Part.bar_setGroup (n level bar : Nat) : (P.setGroup gid g).bar (t.putGroup n g) level bar = P.bar t level bar := by
  match level with
  | 0 => rfl
  | 1 => rw [Part.bar, Part.bar, P.clusters_setGroup]; rfl
  | l + 2 =>
    simp only [Part.bar, P.launchOf_setGroup]
    rfl

theorem Part.member_setGroup (n grp level : Nat) : (P.setGroup gid g).member (t.putGroup n g) grp level = P.member t grp level := by
  match level with
  | 0 => rfl
  | 1 => rfl
  | l + 2 =>
    simp only [Part.member, P.launchOf_setGroup]
    rfl

theorem Part.hasBar_setGroup (n level : Nat) : (P.setGroup gid g).HasBar (t.putGroup n g) level = P.HasBar t level := by
  match level with
  | 0 => rfl
  | 1 => rw [Part.HasBar, Part.HasBar, P.clusters_setGroup]; rfl
  | l + 2 =>
    simp only [Part.HasBar, P.launchOf_setGroup]
    rfl
end

/-- A barrier with a member belongs to an object that is there. -/
theorem Part.hasBar_of_subscribed {P : Part} {t : Team} {level bar m : Nat} (h : (P.bar t level bar).sub.getLsbD m = true) :
    P.HasBar t level := by
  have hnone : (Barrier.initial 0).sub.getLsbD m = false := BitVec.getLsbD_zero
  match level with
  | 0 => trivial
  | 1 =>
    cases hc : Table.get? P.run.clusters t.cluster with
    | none => simp [Part.bar, hc, hnone] at h
    | some x => simp [Part.HasBar, hc]
  | l + 2 =>
    cases hc : P.launchOf t with
    | none => simp [Part.bar, hc, hnone] at h
    | some x => simp [Part.HasBar, hc]

/-! ## The arrival of a group (R261) -/

/-- The context of a group that has arrived, and the team as it then stands. -/
structure Arrived (c : Ctx) (tm : Team) (level bar : Nat) (drop cand : Bool) (c' : Ctx) (tm' : Team) : Prop where
  fits : c'.Fits
  p : c'.p = c.p
  gid : c'.gid = c.gid
  g : c'.g = { c.g with windows := [] }
  mode : c'.P.mode = c.P.mode
  team : c'.team? = some tm'
  atBar : c'.P.bar tm' level bar =
    afterArrival (arrivedAt (c.P.bar tm level bar) (c.P.member tm (gidGroup c.gid) level) drop cand) c.P.mode
  member : c'.P.member tm' (gidGroup c.gid) level = c.P.member tm (gidGroup c.gid) level
  due : tm'.kdue = tm.kdue ∨ (level = 0 ∧ bar = 0) ∧ tm'.kdue = (tm.settleUniform (c.P.bar tm level bar).ord).kdue
  bytes : ∀ a, c'.s.byte a = c.s.byte a

/-- The team of a context with its windows closed. -/
def Ctx.shutTeam (c : Ctx) (tm : Team) : Team := tm.putGroup (gidGroup c.gid) { c.g with windows := [] }

theorem Ctx.team?_shut {c : Ctx} {tm : Team} (h : c.team? = some tm) : c.shut.team? = some (c.shutTeam tm) := by
  rw [Ctx.shut_team?, h]
  rfl

section
variable (c : Ctx) (tm : Team) (level bar grp : Nat)
@[simp] theorem Ctx.bar_shut : c.shut.P.bar (c.shutTeam tm) level bar = c.P.bar tm level bar := Part.bar_setGroup ..
@[simp] theorem Ctx.member_shut : c.shut.P.member (c.shutTeam tm) grp level = c.P.member tm grp level := Part.member_setGroup ..
@[simp] theorem Ctx.launchOf_shutTeam : c.shut.P.launchOf (c.shutTeam tm) = c.P.launchOf tm := Ctx.shut_launchOf ..
@[simp] theorem Ctx.shutTeam_arriving : (c.shutTeam tm).arriving grp level = tm.arriving grp level := rfl
@[simp] theorem Ctx.shutTeam_dueFor (f : Nat → Bool) : (c.shutTeam tm).dueFor grp f = tm.dueFor grp f := rfl
end

/-- The checks of a level that the grid has and the group arrives for. -/
theorem Ctx.barrierTeam_passes {c : Ctx} {tm : Team} (h : c.team? = some tm) {level : Nat}
    (hgrid : level = 2 → ∃ l, c.P.launchOf tm = some l ∧ l.coresident = true) {arrives : Bool}
    (harr : arrives = true → tm.arriving (gidGroup c.gid) level = true) (bar : Nat) (body : Team → Res) :
    c.barrierTeam level bar arrives body = body tm := by
  have hg : ¬ (level = 2 ∧ (!((c.P.launchOf tm).any Launch.coresident)) = true) := by
    rintro ⟨h2, hco⟩
    obtain ⟨l, hl, hlc⟩ := hgrid h2
    simp [hl, hlc] at hco
  have ha : ¬ (arrives && !tm.arriving (gidGroup c.gid) level) = true := by
    cases arrives <;> simp_all
  rw [Ctx.barrierTeam, h]
  simp only [if_neg hg, if_neg ha]

theorem Team.dueFor_none {tm : Team} {grp : Nat} (h : tm.kdue.all (fun u => u.grp != grp) = true) (f : Nat → Bool) :
    tm.dueFor grp f = none := by
  rw [Team.dueFor, List.find?_eq_none]
  intro u hu
  have := List.all_eq_true.1 h u hu
  simp_all

theorem Ctx.arrival_counts {c : Ctx} {tm : Team} {level bar : Nat} (hfit : c.Fits) (h : MayArrive c tm level bar) (drop cand : Bool)
    (body : Ctx → Barrier → Res) :
    ∃ c' tm', Arrived c tm level bar drop cand c' tm' ∧ c.arrival level bar drop cand body = body c' (c.P.bar tm level bar) := by
  have hshut := hfit.shut
  have hteam := Ctx.team?_shut h.team
  have hbar : c.shut.P.HasBar (c.shutTeam tm) level := by
    rw [show c.shut.P.HasBar (c.shutTeam tm) level = c.P.HasBar tm level from Part.hasBar_setGroup ..]
    exact Part.hasBar_of_subscribed h.subscribed
  have hteam' : c.shut.P.team? c.shut.tk = some (c.shutTeam tm) := (Ctx.team?_of_team (c := c.shut) h.core).symm.trans hteam
  have hmode : c.shut.P.mode = c.P.mode := Ctx.shut_mode c
  obtain ⟨P', tm', hP', hstep, hdue, hbytes⟩ :=
    State.arrive_step hshut.part hteam' (bar := bar) hbar (hmode ▸ h.mode) (c.P.member tm (gidGroup c.gid) level) drop cand
  have hg' : P'.group? c.shut.gid = some c.shut.g := (hstep.groups _).trans hshut.group
  have hre := Ctx.reload_eq (c := c.shut) hP' hg'
  rw [Ctx.bar_shut] at hstep hdue
  let c' : Ctx := { c.shut with
    s := c.shut.s.arrive c.p c.tk level bar (c.P.member tm (gidGroup c.gid) level) drop cand, P := P' }
  refine ⟨c', tm', ⟨⟨hP', hg'⟩, rfl, rfl, rfl, hstep.mode.trans hmode, (Ctx.team?_of_team (c := c') h.core).trans hstep.team, hmode ▸ hstep.bar,
    (hstep.member _).trans (c.member_shut ..), ?_, fun a => (hbytes a).trans rfl⟩, ?_⟩
  · change tm'.kdue = if _ then ((c.shutTeam tm).settleUniform _).kdue else tm.kdue at hdue
    rw [hdue]
    split
    · next h0 => exact .inr ⟨h0.1, by rw [Team.settleUniform_kdue, Team.settleUniform_kdue]; rfl⟩
    · exact .inl rfl
  · rw [Ctx.arrival, Ctx.closed_shut _ h.settled, Ctx.barrierTeam_passes hteam (fun h2 => (c.launchOf_shutTeam tm).symm ▸ h.grid h2)
      (fun _ => h.arrives)]
    simp only [Ctx.bar_shut, Ctx.member_shut, Ctx.shut_gid, Ctx.shutTeam_dueFor, Team.dueFor_none h.due, ite_self]
    rw [if_neg (by simp [Barrier.subscribed, Barrier.arrived, h.subscribed, h.absent])]
    exact congrArg (body · _) hre

/-! ## `arva` and `arvd` (R261, R263) -/

section
variable (v : BitVec 2) (b : BitVec 4) (r : SReg) (s : State)

theorem exec_arva : exec (.arva v b r) s = issue (.arva v b r) s fun c => c.outside (.arva v b r) fun c =>
    c.arriveOnly v.toNat b.toNat false true r := rfl
theorem exec_arvd : exec (.arvd v b r) s = issue (.arvd v b r) s fun c => c.outside (.arvd v b r) fun c =>
    c.arriveOnly v.toNat b.toNat true false r := rfl

/-- An arrival that returns its phase. -/
theorem Ready.arriveOnly {c : Ctx} {s : State} {i : Instr} (h : Ready c s i) {tm : Team} {level bar : Nat} (hm : MayArrive c tm level bar)
    (drop cand : Bool) (he : exec i s = Machine.issue i s fun c => c.outside i fun c => c.arriveOnly level bar drop cand r) :
    ∃ t, exec i s = .next t ∧ t.group? c.p c.gid = some ((({ c.g with windows := [] } : Group).setS r
      (BitVec.ofNat 64 ((c.P.bar tm level bar).ord % 16))).completed (c.g.pc + 4)) ∧ ∀ a, t.byte a = s.byte a := by
  obtain ⟨c', tm', ha, hbody⟩ := c.arrival_counts h.fits hm drop cand fun c x => c.finish (c.g.setS r (BitVec.ofNat 64 (x.ord % 16)))
  let g' := c'.g.setS r (BitVec.ofNat 64 ((c.P.bar tm level bar).ord % 16))
  have hfit' := ha.fits.setG g'
  obtain ⟨t, ht, -, hgrp, hbytes⟩ := h.completes (s₁ := c'.put g') (P := (c'.setG g').P) (g := g') he
    ((c.outside_team i _ hm.core).trans hbody) (ha.p ▸ hfit'.part) (ha.gid ▸ hfit'.group)
  refine ⟨t, ht, hgrp.trans ?_, fun a => (hbytes a).trans ((ha.bytes a).trans (by rw [h.state]))⟩
  rw [show g' = _ from congrArg (Group.setS · r _) ha.g]
  rfl
end

theorem arrivalsWithoutWaitReturnThePhase : ArrivalsWithoutWaitReturnThePhase := by
  intro c s v b r i tm hi h hm
  rcases hi with rfl | rfl
  · exact h.arriveOnly r hm false true rfl
  · exact h.arriveOnly r hm true false rfl

/-! ## `arv` (R261 to R263) -/

theorem Ctx.awaitPhase_running {c : Ctx} {tm : Team} {level bar ord : Nat} (h : c.team? = some tm) (ho : (c.P.bar tm level bar).ord ≤ ord)
    (r : SReg) : c.awaitPhase level bar ord r = c.barrierWait tm level bar (c.P.bar tm level bar) := by
  rw [Ctx.awaitPhase, h]
  exact if_pos ho

theorem Ctx.awaitPhase_over {c : Ctx} {tm : Team} {level bar ord : Nat} (h : c.team? = some tm) (ho : ord < (c.P.bar tm level bar).ord)
    (r : SReg) : c.awaitPhase level bar ord r = c.barrierReturn tm level bar (ord % 16) r := by
  rw [Ctx.awaitPhase, h]
  exact if_neg (by omega)

theorem Ctx.barrierWait_open {c : Ctx} {b : Barrier} (h : ¬ (b.count = b.expect ∧ 2 ≤ b.cands.length)) (tm : Team) (level bar : Nat) :
    c.barrierWait tm level bar b = .wait c.s (.barrier level bar (b.ord % 16)) := if_neg h

/-- The return to a group that owes no trap. -/
theorem Ctx.barrierReturn_clear {c : Ctx} {tm : Team} (h : tm.kdue.all (fun u => u.grp != gidGroup c.gid) = true) (level bar p : Nat) (r : SReg) :
    c.barrierReturn tm level bar p r = c.finish ({ c.g with stage := .fresh }.setS r (BitVec.ofNat 64 (p +
      if (c.P.bar tm level bar).role = some (c.P.member tm (gidGroup c.gid) level, p) then 16 else 0))) := by
  rw [Ctx.barrierReturn]
  simp only [Team.dueFor_none h, ite_self]
  by_cases hr : (c.P.bar tm level bar).role = some (c.P.member tm (gidGroup c.gid) level, p)
  · simp [hr, bit]
  · simp [hr, bit]

theorem Team.settleUniform_kdue_nil {tm : Team} (h : tm.kwrites = []) (ord : Nat) : (tm.settleUniform ord).kdue = tm.kdue := by
  rw [Team.settleUniform_kdue, h]
  rfl

/-- An `arv` arrives, then waits for the phase. -/
def Ctx.arvEnd (c : Ctx) (level bar : Nat) (r : SReg) : Res :=
  c.arrival level bar false true fun c x => (c.setG { c.g with stage := .arrived x.ord }).awaitPhase level bar x.ord r

theorem exec_arv {c : Ctx} {s : State} {v : BitVec 2} {b : BitVec 4} {r : SReg} (h : Ready c s (.arv v b r)) (hteam : isWhisk c.gid = false) :
    ∃ body : Ctx → Res, exec (.arv v b r) s = issue (.arv v b r) s body ∧ body c = c.arvEnd v.toNat b.toNat r := by
  refine ⟨_, rfl, (c.outside_team _ _ hteam).trans ?_⟩
  simp only [h.fresh]
  rfl

theorem arrivedAt_arr_ne_zero {b : Barrier} {m : Nat} (h : b.sub.getLsbD m = true) (drop cand : Bool) : (arrivedAt b m drop cand).arr ≠ 0 := by
  intro h0
  have hlt : m < 2048 := BitVec.lt_of_getLsbD h
  have hbit : (b.arr ||| BitVec.ofNat 2048 (2 ^ m)).getLsbD m = false := by
    rw [show b.arr ||| BitVec.ofNat 2048 (2 ^ m) = 0 from h0]
    exact BitVec.getLsbD_zero
  rw [BitVec.getLsbD_or, BitVec.getLsbD_ofNat, Nat.testBit_two_pow_self] at hbit
  simp [hlt] at hbit

section
variable {c c' : Ctx} {tm tm' : Team} {level bar : Nat}

/-- The group waits in the phase that it has arrived in. -/
def Arrived.waiting (c' : Ctx) (ord : Nat) : Ctx := c'.setG { c'.g with stage := .arrived ord }

theorem Arrived.awaits (ha : Arrived c tm level bar false true c' tm') (ord : Nat) :
    (Arrived.waiting c' ord).team? = some (tm'.putGroup (gidGroup c'.gid) (Arrived.waiting c' ord).g) ∧
    (Arrived.waiting c' ord).P.bar (tm'.putGroup (gidGroup c'.gid) (Arrived.waiting c' ord).g) level bar = c'.P.bar tm' level bar := by
  refine ⟨(c'.team?_setG _).trans ?_, Part.bar_setGroup ..⟩
  rw [ha.team]
  rfl
end

theorem arvWaitsForThePhase : ArvWaitsForThePhase := by
  intro c s v b r tm h hm hk _ x
  obtain ⟨body, he, hbody⟩ := exec_arv h hm.core
  obtain ⟨c', tm', ha, hc'⟩ := c.arrival_counts h.fits hm false true fun c x =>
    (c.setG { c.g with stage := .arrived x.ord }).awaitPhase v.toNat b.toNat x.ord r
  obtain ⟨hteam, hbar⟩ := ha.awaits x.ord
  have hfit := ha.fits.setG { c'.g with stage := .arrived x.ord }
  have hbytes (a : Nat) : c'.s.byte a = s.byte a := (ha.bytes a).trans (by rw [h.state])
  have hdue : (tm'.putGroup (gidGroup c'.gid) (Arrived.waiting c' x.ord).g).kdue = tm.kdue := by
    rcases ha.due with hd | ⟨⟨hv, hb⟩, hd⟩
    · exact hd
    · exact hd.trans (Team.settleUniform_kdue_nil (hk (BitVec.eq_of_toNat_eq hv) (BitVec.eq_of_toNat_eq hb)) _)
  have hmem : (Arrived.waiting c' x.ord).P.member (tm'.putGroup (gidGroup c'.gid) (Arrived.waiting c' x.ord).g) (gidGroup (Arrived.waiting c' x.ord).gid) v.toNat =
      c.P.member tm (gidGroup c.gid) v.toNat := (Part.member_setGroup ..).trans (ha.gid ▸ ha.member)
  have hfirst := hbody.trans hc'
  by_cases hlast : x.count + 1 = x.expect
  · have hB : c'.P.bar tm' v.toNat b.toNat = phaseCompleted (arrivedAt x (c.P.member tm (gidGroup c.gid) v.toNat) false true)
        (roleHolder (arrivedAt x (c.P.member tm (gidGroup c.gid) v.toNat) false true) c.P.mode) :=
      ha.atBar.trans (if_pos ⟨hlast, fun h0 => arrivedAt_arr_ne_zero hm.subscribed _ _ h0⟩)
    have hord : x.ord < (c'.P.bar tm' v.toNat b.toNat).ord := by
      rw [hB]
      exact Nat.lt_succ_self x.ord
    obtain ⟨n, hret⟩ : ∃ n, body c = .done (c'.put (({ c'.g with stage := .fresh } : Group).setS r (BitVec.ofNat 64 (x.ord % 16 + n)))) ∧
        (x.cands = [] → n = 16) := by
      refine ⟨_, hfirst.trans ((Ctx.awaitPhase_over hteam (hbar ▸ hord) r).trans
        ((Ctx.barrierReturn_clear (c := Arrived.waiting c' x.ord) (by rw [hdue]; exact ha.gid ▸ hm.due) ..).trans
          (congrArg Res.done (Ctx.put_setG ..)))), fun hnil => if_pos ?_⟩
      rw [hbar, hmem, hB, phaseCompleted, roleHolder, arrivedAt, hnil]
      rfl
    obtain ⟨hret, hn⟩ := hret
    have hfit' := ha.fits.setG (({ c'.g with stage := .fresh } : Group).setS r (BitVec.ofNat 64 (x.ord % 16 + n)))
    obtain ⟨t, ht, -, hg, hb⟩ := h.completes he hret (ha.p ▸ hfit'.part) (ha.gid ▸ hfit'.group)
    refine ⟨t, ht, fun a => (hb a).trans (hbytes a), fun _ hnil => hg.trans ?_, fun hne => absurd hlast hne⟩
    rw [hn hnil, ha.g]
    rfl
  · have hB : c'.P.bar tm' v.toNat b.toNat = arrivedAt x (c.P.member tm (gidGroup c.gid) v.toNat) false true :=
      ha.atBar.trans (if_neg fun hc => hlast hc.1)
    have hwait := hfirst.trans ((Ctx.awaitPhase_running hteam (by rw [hbar, hB]; exact le_refl _) r).trans
      (Ctx.barrierWait_open (c := Arrived.waiting c' x.ord) (by rw [hbar, hB]; exact fun hc => hlast hc.1) ..))
    obtain ⟨t, ht, -, hg, hb⟩ := h.holds he (ha.p ▸ hfit.part) (ha.gid ▸ hfit.group) (.inl rfl) hwait
    refine ⟨t, ht, fun a => (hb a).trans (hbytes a), fun hc => absurd hc hlast, fun _ => hg.trans ?_⟩
    rw [hbar, hB, ha.g]
    rfl

/-! ## `bwait` (R263) -/

/-- `bwait` once its windows are closed. -/
def Ctx.bwaitEnd (c : Ctx) (level bar : Nat) (r : SReg) : Res :=
  c.barrierTeam level bar false fun t =>
    if (c.P.bar t level bar).ord % 16 = (c.g.sreg r).toNat % 16 then c.barrierWait t level bar (c.P.bar t level bar)
    else c.barrierReturn t level bar ((c.g.sreg r).toNat % 16) r

theorem exec_bwait (v : BitVec 2) (b : BitVec 4) (r : SReg) (s : State) : exec (.bwait v b r) s = issue (.bwait v b r) s fun c =>
    c.outside (.bwait v b r) fun c => c.closed (Ctx.bwaitEnd · v.toNat b.toNat r) := rfl

theorem bwaitReturnsForACompletePhase : BwaitReturnsForACompletePhase := by
  intro c s v b r tm h hteam hw hsettled hdue hgrid x p
  have hbody : c.outside (.bwait v b r) (fun c => c.closed (Ctx.bwaitEnd · v.toNat b.toNat r)) = c.shut.bwaitEnd v.toNat b.toNat r :=
    (c.outside_team _ _ hw).trans (Ctx.closed_shut _ hsettled)
  have hend : c.shut.bwaitEnd v.toNat b.toNat r = if x.ord % 16 = p then c.shut.barrierWait (c.shutTeam tm) v.toNat b.toNat x
      else c.shut.barrierReturn (c.shutTeam tm) v.toNat b.toNat p r := by
    rw [Ctx.bwaitEnd, Ctx.barrierTeam_passes (Ctx.team?_shut hteam) (fun h2 => (c.launchOf_shutTeam tm).symm ▸ hgrid h2) (by simp), Ctx.bar_shut]
    rfl
  refine ⟨fun hne => ?_, fun heq hopen => ?_⟩
  · refine h.ran_of_done (exec_bwait v b r s) (hbody.trans (hend.trans ((if_neg hne).trans ?_)))
    rw [Ctx.barrierReturn_clear (by simp [Ctx.shutTeam, Team.putGroup, hdue]), Ctx.bar_shut, Ctx.shut_gid, Ctx.member_shut, Ctx.finish, Ctx.shut_put]
    rw [show ({ c.shut.g with stage := .fresh } : Group) = { c.g with windows := [] } by rw [← h.fresh]; rfl]
  · have hfit := h.fits.shut
    obtain ⟨t, ht, -, hg, -⟩ := h.holds (exec_bwait v b r s) hfit.part hfit.group (.inl rfl)
      (hbody.trans (hend.trans ((if_pos heq).trans (Ctx.barrierWait_open hopen ..))))
    exact ⟨t, ht, hg.trans (heq ▸ rfl)⟩

/-! ## Traps of the barrier instructions (R31, R264) -/

theorem Ctx.barrierTeam_whole {c : Ctx} {tm : Team} (h : c.team? = some tm) {level : Nat} (h2 : level = 2)
    (hgrid : (c.P.launchOf tm).any Launch.coresident = false) (bar : Nat) (arrives : Bool) (body : Team → Res) :
    c.barrierTeam level bar arrives body = .trap c.s (barrierTrap level bar 0) := by
  rw [Ctx.barrierTeam, h]
  exact if_pos ⟨h2, by rw [hgrid]; rfl⟩

theorem Ctx.barrierTeam_notArriving {c : Ctx} {tm : Team} (h : c.team? = some tm) {level : Nat}
    (hgrid : level = 2 → (c.P.launchOf tm).any Launch.coresident = true) (harr : tm.arriving (gidGroup c.gid) level = false) (bar : Nat)
    (body : Team → Res) : c.barrierTeam level bar true body = .trap c.s (barrierTrap level bar 1) := by
  rw [Ctx.barrierTeam, h]
  exact (if_neg fun hc => by simp [hgrid hc.1] at hc).trans (if_pos (by rw [harr]; rfl))

/-- What an arrival does once its level is checked. -/
def Ctx.arrivalAt (c : Ctx) (level bar : Nat) (drop cand : Bool) (body : Ctx → Barrier → Res) (t : Team) : Res :=
  let b := c.P.bar t level bar
  let m := c.P.member t (gidGroup c.gid) level
  if !b.subscribed m || b.arrived m then .trap c.s (overArrival level bar b (!b.subscribed m) (gidGroup c.gid))
  else match (if level = 0 ∧ bar = 0 then t.dueFor (gidGroup c.gid) (fun _ => true) else none) with
    | some u => .trap (c.setP (c.P.undue c.tk u)).s u.trap
    | none => body (c.reload (c.s.arrive c.p c.tk level bar m drop cand)) b

theorem Ctx.arrival_shut {c : Ctx} (h : c.g.windows.all Window.done = true) (level bar : Nat) (drop cand : Bool) (body : Ctx → Barrier → Res) :
    c.arrival level bar drop cand body = c.shut.barrierTeam level bar true (c.shut.arrivalAt level bar drop cand body) :=
  Ctx.closed_shut _ h

theorem overArrival_eq (level bar grp m : Nat) (b : Barrier) : overArrival level bar b (!b.subscribed m) grp =
    trapOf 0x20 (level + bar * 2 ^ 2 + b.ord % 16 * 2 ^ 6 + (if b.sub.getLsbD m then 0 else 2 ^ 10) + grp * 2 ^ 11) := by
  rw [overArrival, Barrier.subscribed]
  cases b.sub.getLsbD m
  · exact congrArg (fun n => trapOf 0x20 (level + bar * 2 ^ 2 + b.ord % 16 * 2 ^ 6 + n + grp * 2 ^ 11)) (Nat.one_mul _)
  · exact congrArg (fun n => trapOf 0x20 (level + bar * 2 ^ 2 + b.ord % 16 * 2 ^ 6 + n + grp * 2 ^ 11)) (Nat.zero_mul _)

/-- The trap that a uniform register's writer owes, once its group's windows are closed (R31). -/
theorem Ctx.undue_shut {c : Ctx} {s : State} {P' : Part} (hs : c.shut.s = s) (hfit : c.Fits) (hP' : s.part? c.p = some P') (u : UniformDue) :
    (c.shut.setP (c.shut.P.undue c.shut.tk u)).s = s.setPart c.p (P'.modTeam c.tk fun t => { t with kdue := t.kdue.erase u }) := by
  have hP : c.shut.P = P' := Option.some.inj (hfit.shut.part.symm.trans (hs ▸ hP'))
  rw [← hP, ← hs]
  rfl

theorem arrivals_of_ne {v : BitVec 2} {b : BitVec 4} {r : SReg} {i : Instr} (hi : i ∈ [.arv v b r, .arva v b r, .arvd v b r, .bwait v b r])
    (hne : i ≠ .bwait v b r) : i ∈ [.arv v b r, .arva v b r, .arvd v b r] := by
  simp_all

/-- Each of the arriving instructions is an arrival. -/
theorem exec_arrival {c : Ctx} {s : State} {v : BitVec 2} {b : BitVec 4} {r : SReg} {i : Instr} (hi : i ∈ [.arv v b r, .arva v b r, .arvd v b r])
    (h : Ready c s i) (hteam : isWhisk c.gid = false) :
    ∃ (body : Ctx → Res) (drop cand : Bool) (k : Ctx → Barrier → Res), exec i s = issue i s body ∧
      body c = c.arrival v.toNat b.toNat drop cand k := by
  rcases List.mem_cons.1 hi with rfl | hi
  · obtain ⟨body, he, hb⟩ := exec_arv h hteam
    exact ⟨body, false, true, _, he, hb⟩
  rcases List.mem_cons.1 hi with rfl | hi
  · exact ⟨_, false, true, _, rfl, c.outside_team _ _ hteam⟩
  · obtain rfl := List.mem_singleton.1 hi
    exact ⟨_, true, false, _, rfl, c.outside_team _ _ hteam⟩

/-- Each barrier instruction checks its level with the windows closed. -/
theorem exec_barrier {c : Ctx} {s : State} {v : BitVec 2} {b : BitVec 4} {r : SReg} {i : Instr}
    (hi : i ∈ [.arv v b r, .arva v b r, .arvd v b r, .bwait v b r]) (h : Ready c s i) (hteam : isWhisk c.gid = false)
    (hw : c.g.windows.all Window.done = true) :
    ∃ (body : Ctx → Res) (arrives : Bool) (k : Team → Res), exec i s = issue i s body ∧
      body c = c.shut.barrierTeam v.toNat b.toNat arrives k := by
  by_cases hb : i = .bwait v b r
  · subst hb
    exact ⟨_, false, _, exec_bwait v b r s, (c.outside_team _ _ hteam).trans (Ctx.closed_shut _ hw)⟩
  · obtain ⟨body, drop, cand, k, he, hbody⟩ := exec_arrival (arrivals_of_ne hi hb) h hteam
    exact ⟨body, true, _, he, hbody.trans (Ctx.arrival_shut hw ..)⟩

theorem barrierInstructionsTrap : BarrierInstructionsTrap := by
  intro c s v b r i tm hi h hteam hw hsettled closed traps whole at' grp x m
  have hs : c.shut.s = closed := by rw [Ctx.shut_s, Ctx.put, h.state]
  have hshut := Ctx.team?_shut hteam
  have htraps {body : Ctx → Res} (he : exec i s = issue i s body) {from' : State} {t : Trap} {cause info : Nat} (hb : body c = .trap from' t)
      (ht : t = trapOf cause info) : traps from' cause info :=
    he.trans (h.ends_trap (hb.trans (congrArg _ ht)))
  have hwhole : (c.shut.P.launchOf (c.shutTeam tm)).any Launch.coresident = whole := by rw [c.launchOf_shutTeam]
  refine ⟨fun hv hnot => ?_, fun hne hgrid => ?_⟩
  · obtain ⟨body, arrives, k, he, hbody⟩ := exec_barrier hi h hw hsettled
    exact htraps he (hs ▸ hbody.trans (Ctx.barrierTeam_whole hshut (by rw [hv]; rfl) (hwhole.trans hnot) ..)) rfl
  · obtain ⟨body, drop, cand, k, he, hbody⟩ := exec_arrival (arrivals_of_ne hi hne) h hw
    have hgrid' (h2 : v.toNat = 2) : (c.shut.P.launchOf (c.shutTeam tm)).any Launch.coresident = true :=
      hwhole.trans (hgrid (BitVec.eq_of_toNat_eq h2))
    have harrival := hbody.trans (Ctx.arrival_shut hsettled ..)
    refine ⟨fun hnot => htraps he (hs ▸ harrival.trans (Ctx.barrierTeam_notArriving hshut hgrid' hnot ..)) rfl, fun harr => ?_⟩
    have hat : body c = c.shut.arrivalAt v.toNat b.toNat drop cand k (c.shutTeam tm) :=
      harrival.trans (Ctx.barrierTeam_passes hshut (fun h2 => (Option.any_eq_true ..).1 (hgrid' h2)) (fun _ => harr) ..)
    rw [Ctx.arrivalAt] at hat
    simp only [Ctx.bar_shut, Ctx.member_shut, Ctx.shut_gid, Ctx.shutTeam_dueFor] at hat
    refine ⟨fun hover => ?_, fun u P' hsub habs hv hb hu hP' => ?_⟩
    · exact htraps he (hs ▸ hat.trans (if_pos (by simpa [Barrier.subscribed, Barrier.arrived] using hover))) (overArrival_eq ..)
    · refine htraps he (from' := closed.setPart c.p (P'.modTeam c.tk fun t => { t with kdue := t.kdue.erase u })) (hat.trans ((if_neg ?_).trans ?_))
        (congrArg (Trap.mk 0x22 <| BitVec.ofNat 64 <| u.reg + u.kept * ·) (show (32 : Nat) = 2 ^ 5 from rfl))
      · simpa [Barrier.subscribed, Barrier.arrived] using ⟨hsub, habs⟩
      · rw [if_pos ⟨by rw [hv]; rfl, by rw [hb]; rfl⟩, show tm.dueFor (gidGroup c.gid) (fun _ => true) = some u by simpa [Team.dueFor] using hu]
        exact congrArg (Res.trap · u.trap) (Ctx.undue_shut hs h.fits hP' u)

/-- Settles O22: an arrival is counted, and returned or awaited; the checks come before it. -/
theorem barrierInstructions : Obligations.BarrierInstructions :=
  ⟨arrivalsWithoutWaitReturnThePhase, arvWaitsForThePhase, bwaitReturnsForACompletePhase, barrierInstructionsTrap⟩

end Sys2Proof.Machine
end

section
/-!
SUPPORT and PROOF. Commits, `fence`, `exit` and `wcnt` (spec/06_group_control_faults.md R142, spec/08_core_state.md R190,
spec/09_core_memory_instr.md R220, spec/11_core_sync_faults.md R267).
-/
namespace Sys2Proof.Machine
open Sys2Proof.Spec

/-! ## A commit that is made (R190, R374) -/

theorem State.commitMade_free {s : State} {p : PartNo} {P : Part} {tk : Nat} {t : Team} (hP : s.part? p = some P) (ht : P.team? tk = some t)
    (hm : P.mode = 0 ∨ P.mode = 1) (grp : Nat) :
    s.commitMade p tk grp = s.modTeam p tk fun u => { u with commitN := t.commitN + 1 } := by
  have hrec : P.mode ≠ mRECORD := by unfold mRECORD; omega
  have hdet : P.detects = false := by
    rw [Part.detects, beq_false_of_ne (by unfold mSTEERED; omega)]
    rfl
  rw [State.commitMade, hP]
  simp only [ht, if_neg hrec, hdet, Bool.false_eq_true, if_false]

/-! ## The commit begins (R190, R192, R205) -/

/-- A team whose colander a commit has taken. -/
def Team.took (t : Team) (grp : Nat) (final : Bool) (mine : List Nat) : Team :=
  { t with anch := true, colander := [], posted := [], commit := some ⟨t.colander, t.posted, final, grp, 0, mine, []⟩ }

/-- A partition in which a commit has taken a team's colander, and its places in the release filter are free. -/
def Part.took (P : Part) (tk : Nat) (t : Team) (grp : Nat) (final : Bool) : Part :=
  (P.modCore t.core fun c => { c with filter := c.filter.filter fun e => e.2 != t.slot }).modTeam tk fun u =>
    u.took grp final (((P.core? t.core).map fun c => (c.filter.filter fun e => e.2 == t.slot).map Prod.fst).getD [])

section
variable {s : State} {p : PartNo} {P : Part} {tk : Nat} {t : Team}

theorem Part.took_team? (ht : P.team? tk = some t) (grp : Nat) (final : Bool) : ∃ mine, (P.took tk t grp final).team? tk = some (t.took grp final mine) := by
  refine ⟨((P.core? t.core).map fun c => (c.filter.filter fun e => e.2 == t.slot).map Prod.fst).getD [], ?_⟩
  rw [Part.took, Part.team?_modTeam_same]
  exact congrArg (Option.map _) ht

theorem Part.took_mode (grp : Nat) (final : Bool) : (P.took tk t grp final).mode = P.mode := by
  rw [Part.took, Part.mode_modTeam]
  · rfl
  · exact fun _ => rfl

theorem State.beginCommit_spec (hP : s.part? p = some P) (ht : P.team? tk = some t) (grp : Nat) (final : Bool) :
    ∃ s₁ : State, s.beginCommit p tk grp final = s₁.advanceCommit p tk ∧ s₁.part? p = some (P.took tk t grp final) ∧
      s₁ = { s with parts := s₁.parts } := by
  refine ⟨_, rfl, ?_, rfl⟩
  rw [State.part?_modPart_some hP]
  simp only [ht]
  rfl

/-- A team whose commit is over. -/
def Team.commitDone (t : Team) : Team := { t.wake with commit := none }
/-- A team that has made `n` commits. -/
def Team.numbered (n : Nat) (t : Team) : Team := { t with commitN := n }

/-- A partition in which a team's commit has come to its end, with nothing to write or to post. -/
def Part.commitOver (P : Part) (tk n : Nat) : Part :=
  ((P.modTeam tk Team.commitDone).modRun fun r => { r with sights := r.sights.filter fun e => e.team != tk }).modTeam tk
    (Team.numbered n)

theorem Part.commitOver_team? (ht : P.team? tk = some t) (n : Nat) :
    (P.commitOver tk n).team? tk = some { t.wake with commit := none, commitN := n } := by
  rw [Part.commitOver, Part.team?_modTeam_same]
  have h₁ := Part.team?_modTeam_same P tk Team.commitDone
  rw [ht] at h₁
  exact congrArg (Option.map _) h₁

theorem State.advanceCommit_empty (hP : s.part? p = some P) (ht : P.team? tk = some t) (hm : P.mode = 0 ∨ P.mode = 1) {c : Commit}
    (hc : t.commit = some c) (hreq : c.req = 0) (hl : c.lines = []) (hp : c.posts = []) (hf : c.final = false) :
    ∃ s₁, s.advanceCommit p tk = s₁ ∧ s₁.part? p = some (P.commitOver tk (t.commitN + 1)) ∧ s₁ = { s with parts := s₁.parts } := by
  let P₁ := (P.modTeam tk Team.commitDone).modRun fun r => { r with sights := r.sights.filter fun e => e.team != tk }
  have hP₁ : (s.setPart p P₁).part? p = some P₁ := State.part?_setPart_same ..
  have ht₁ : P₁.team? tk = some { t.wake with commit := none } := by
    change (P.modTeam tk Team.commitDone).team? tk = _
    rw [Part.team?_modTeam_same, ht]
    rfl
  have hm₁ : P₁.mode = P.mode := Part.mode_modTeam P tk (f := Team.commitDone) fun _ => rfl
  have he : s.advanceCommit p tk = (s.setPart p P₁).commitMade p tk c.grp := by
    rw [State.advanceCommit, hP]
    simp only [ht, hc, hreq, hl, hp, hf, ne_eq, not_true_eq_false, if_false, List.takeWhile_nil, List.find?_nil, Part.sendPosts,
      Bool.false_eq_true]
    rfl
  exact ⟨_, he.trans (State.commitMade_free hP₁ ht₁ (hm₁ ▸ hm) _), State.part?_modPart_some hP₁ _, rfl⟩
end

/-! ## An instruction that commits a team with nothing to commit -/

/-- A team whose commit has found nothing to write. -/
def Team.committed (t : Team) : Team := { t.wake with anch := true, colander := [], posted := [], commit := none, commitN := t.commitN + 1 }

/-- A partition in which the team has committed, with nothing to write. -/
def Part.committed (P : Part) (tk : Nat) (t : Team) (grp : Nat) : Part := (P.took tk t grp false).commitOver tk (t.commitN + 1)

section
variable {s : State} {p : PartNo} {P : Part} {tk : Nat} {t : Team}

theorem Part.committed_team? (ht : P.team? tk = some t) (grp : Nat) : (P.committed tk t grp).team? tk = some t.committed := by
  obtain ⟨mine, hmine⟩ := Part.took_team? ht grp false
  rw [Part.committed, Part.commitOver_team? hmine]
  rfl

theorem Part.committed_mode (grp : Nat) : (P.committed tk t grp).mode = P.mode := by
  rw [Part.committed, Part.commitOver, Part.mode_modTeam _ tk (f := Team.numbered _) fun _ => rfl]
  exact (Part.mode_modTeam _ tk (f := Team.commitDone) fun _ => rfl).trans (Part.took_mode ..)

theorem State.beginCommit_committed (hP : s.part? p = some P) (ht : P.team? tk = some t) (hm : P.mode = 0 ∨ P.mode = 1) (hc : Committed t) (grp : Nat) :
    ∃ s₁, s.beginCommit p tk grp false = s₁ ∧ s₁.part? p = some (P.committed tk t grp) ∧ s₁ = { s with parts := s₁.parts } := by
  obtain ⟨s₁, he, hP₁, hs₁⟩ := State.beginCommit_spec hP ht grp false
  obtain ⟨mine, ht₁⟩ := Part.took_team? ht grp false
  obtain ⟨s₂, he₂, hP₂, hs₂⟩ := State.advanceCommit_empty hP₁ ht₁ (Part.took_mode (P := P) (tk := tk) (t := t) grp false ▸ hm) rfl rfl hc.2.1 hc.2.2 rfl
  exact ⟨s₂, he.trans he₂, hP₂, hs₂.trans (by rw [hs₁])⟩
end

/-! ## `commits` of a team with nothing to commit (R191) -/

/-- A group of the team stands as it is, unless it waits for something in flight. -/
theorem Part.group?_committed {P : Part} {gid : Nat} {g : Group} {t : Team} (hcore : isWhisk gid = false) (ht : P.team? (gidTeam gid) = some t)
    (hg : P.group? gid = some g) (hw : g.wait = none) (grp : Nat) : (P.committed (gidTeam gid) t grp).group? gid = some g := by
  rw [Part.group?, hcore] at hg ⊢
  simp only [Bool.false_eq_true, if_false, Part.committed_team? ht, ht, Option.bind_some] at hg ⊢
  refine (Table.get?_map t.groups (fun _ g => g.wake) (gidGroup gid)).trans ?_
  rw [hg]
  simp [Group.wake, hw]

/-- The group's context once its team has committed, with nothing to write. -/
structure CommitMade (c : Ctx) (tm : Team) (c' : Ctx) (tm' : Team) : Prop where
  fits : c'.Fits
  p : c'.p = c.p
  gid : c'.gid = c.gid
  g : c'.g = { c.g with stage := .fresh }
  team : c'.team? = some tm'
  same : tm' = { tm.committed with groups := tm'.groups }
  rest : c'.s = { c.s with parts := c'.s.parts }
  part : c'.P = { c.P with run := c'.P.run }
  run : c'.P.run = { c.P.run with teams := c'.P.run.teams, cores := c'.P.run.cores, sights := c'.P.run.sights }
  mode : c'.P.mode = c.P.mode

theorem Ctx.commits_committed {c : Ctx} {tm : Team} (hfit : c.Fits) (hteam : c.team? = some tm) (hmode : c.P.mode = 0 ∨ c.P.mode = 1)
    (hc : Committed tm) (hstage : c.g.stage ≠ .committing) (hw : c.g.wait = none) (body : Ctx → Res) :
    ∃ c' tm', CommitMade c tm c' tm' ∧ c.commits body = body c' := by
  have hcore := Ctx.not_whisk_of_team hteam
  let g₁ : Group := { c.g with stage := .committing }
  have hfit₁ := hfit.setG g₁
  have hteam₁ : (c.setG g₁).team? = some (tm.putGroup (gidGroup c.gid) g₁) := by rw [Ctx.team?_setG, hteam]; rfl
  have ht₁ : (c.setG g₁).P.team? c.tk = some (tm.putGroup (gidGroup c.gid) g₁) := (Ctx.team?_of_team (c := c.setG g₁) hcore).symm.trans hteam₁
  obtain ⟨s₂, he₂, hP₂, hs₂⟩ := State.beginCommit_committed hfit₁.part ht₁ ((Ctx.mode_setG c g₁).symm ▸ hmode) hc (gidGroup c.gid)
  have hg₂ := Part.group?_committed (gid := c.gid) hcore ht₁ hfit₁.group hw (gidGroup c.gid)
  have hre := Ctx.reload_eq (c := c.setG g₁) hP₂ hg₂
  let c₂ : Ctx := { c.setG g₁ with s := s₂, P := (c.setG g₁).P.committed c.tk (tm.putGroup (gidGroup c.gid) g₁) (gidGroup c.gid) }
  have hfit₂ : c₂.Fits := ⟨hP₂, hg₂⟩
  have hteam₂ : c₂.team? = some (tm.putGroup (gidGroup c.gid) g₁).committed := (Ctx.team?_of_team (c := c₂) hcore).trans (Part.committed_team? ht₁ _)
  have hover : (c₂.team?.any fun t => t.commit.isSome) = false := by
    rw [hteam₂]
    rfl
  have hP' : (c₂.setG { c.g with stage := .fresh }).P = ((c.P.modTeam (gidTeam c.gid) fun t => t.putGroup (gidGroup c.gid) g₁).committed c.tk
      (tm.putGroup (gidGroup c.gid) g₁) (gidGroup c.gid)).modTeam (gidTeam c.gid) fun t => t.putGroup (gidGroup c.gid) { c.g with stage := .fresh } := by
    rw [← Part.setGroup_of_team _ hcore, ← Part.setGroup_of_team _ hcore]
    rfl
  refine ⟨c₂.setG { c.g with stage := .fresh }, _, ⟨hfit₂.setG _, rfl, rfl, rfl, (c₂.team?_setG _).trans (congrArg (Option.map _) hteam₂), rfl, ?_, ?_, ?_, ?_⟩, ?_⟩
  · change s₂.modGroup _ _ _ = _
    rw [hs₂]
    rfl
  · rw [hP']
    rfl
  · rw [hP']
    rfl
  · exact (Part.mode_setGroup ..).trans (Part.committed_mode _ |>.trans (Ctx.mode_setG c g₁))
  · rw [Ctx.commits, hteam]
    simp only [hc.1, Option.isSome_none, Bool.false_eq_true, if_false, if_neg hstage]
    refine Eq.trans (congrArg (fun c' : Ctx => if c'.team?.any fun t => t.commit.isSome then Res.wait c'.s .inFlight else body (c'.setG { c'.g with stage := .fresh }))
      (show _ = c₂ from (congrArg _ he₂).trans hre)) (if_neg (by rw [hover]; simp))

section
variable {c c' : Ctx} {tm tm' : Team} (h : CommitMade c tm c' tm')
include h

theorem CommitMade.anch : tm'.anch = true := by rw [h.same]; rfl
theorem CommitMade.noCommit : tm'.commit = none := by rw [h.same]; rfl
theorem CommitMade.commitN : tm'.commitN = tm.commitN + 1 := by rw [h.same]; rfl
theorem CommitMade.hash : tm'.hash = tm.hash := by rw [h.same]; rfl
theorem CommitMade.byte (a : Nat) : c'.s.byte a = c.s.byte a := by rw [h.rest]; rfl
theorem CommitMade.lines : c'.P.run.lines = c.P.run.lines := by rw [h.run]
theorem CommitMade.unacked : c'.P.unacked = c.P.unacked := by rw [h.part]
theorem CommitMade.tk : c'.tk = c.tk := by rw [Ctx.tk, h.gid]; rfl
theorem CommitMade.hostBound : c'.P.hostBound c'.tk = c.P.hostBound c.tk := by rw [Part.hostBound, h.lines, h.tk]; rfl
theorem CommitMade.core : isWhisk c.gid = false := by
  rw [← h.gid]
  exact Ctx.not_whisk_of_team h.team
theorem CommitMade.teamIn : c'.P.team? c.tk = some tm' := by
  rw [← h.tk]
  exact (Ctx.team?_of_team (c := c') (h.gid ▸ h.core)).symm.trans h.team
theorem CommitMade.teamIn_setG (g : Group) : (c'.setG g).P.team? c.tk = some (tm'.putGroup (gidGroup c.gid) g) := by
  have hset := (Ctx.team?_of_team (c := c'.setG g) (h.gid ▸ h.core)).symm.trans ((c'.team?_setG g).trans (congrArg _ h.team))
  rw [Ctx.tk, ← h.gid]
  exact hset
end

/-! ## `commits` of a team with lines to write (R190) -/

/-- The write of a commit's lowest line, as it leaves. -/
def ColLine.write (l : ColLine) (tk grp : Nat) (t : Team) : LineReq :=
  ⟨tk, tk * 32 + grp, t.core, [], BitVec.ofNat 32 (t.tidx * 1024), true, l.vline, l.pline, l.obs, .write l.bytes l.poison, 0, false⟩

/-- A partition in which a team's commit has sent a line. -/
def Part.sentLine (P : Part) (tk : Nat) (r : LineReq) (c : Commit) : Part :=
  Part.modTeam { P with nextId := P.nextId + 1, run := { P.run with lines := Table.set P.run.lines P.nextId r } } tk
    fun t => { t with commit := some { c with req := P.nextId } }

theorem State.advanceCommit_line {s : State} {p : PartNo} {P : Part} {tk : Nat} {t : Team} (hP : s.part? p = some P) (ht : P.team? tk = some t)
    {c : Commit} (hc : t.commit = some c) (hreq : c.req = 0) {l : ColLine} {rest : List ColLine} (hl : c.lines = l :: rest) :
    s.advanceCommit p tk = s.setPart p (P.sentLine tk (l.write tk c.grp t) c) := by
  obtain ⟨lines, posts, final, grp, req, filter, written⟩ := c
  subst hl hreq
  rw [State.advanceCommit, hP]
  simp only [ht, hc, ne_eq, not_true_eq_false, if_false]
  rfl

theorem Part.sentLine_team? {P : Part} {tk : Nat} {t : Team} (ht : P.team? tk = some t) (r : LineReq) (c : Commit) :
    (P.sentLine tk r c).team? tk = some { t with commit := some { c with req := P.nextId } } := by
  rw [Part.sentLine, Part.team?_modTeam_same]
  exact congrArg (Option.map _) ht

/-- The group's context once its team's commit is under way. -/
structure CommitBegun (c : Ctx) (tm : Team) (l : ColLine) (c' : Ctx) (tm' : Team) (w : Commit) : Prop where
  fits : c'.Fits
  p : c'.p = c.p
  gid : c'.gid = c.gid
  g : c'.g = { c.g with stage := .committing }
  team : c'.P.team? c.tk = some tm'
  same : tm' = { tm with anch := true, colander := [], posted := [], commit := some w, groups := tm'.groups }
  commit : w.lines = tm.colander ∧ w.posts = tm.posted
  sent : Table.get? c'.P.run.lines w.req = some (l.write c.tk (gidGroup c.gid) tm)
  rest : c'.s = { c.s with parts := c'.s.parts }

theorem Ctx.commits_line {c : Ctx} {tm : Team} (hfit : c.Fits) (hteam : c.team? = some tm) (hnone : tm.commit = none) {l : ColLine}
    {rest : List ColLine} (hlines : tm.colander = l :: rest) (hstage : c.g.stage ≠ .committing) (body : Ctx → Res) :
    ∃ c' tm' w, CommitBegun c tm l c' tm' w ∧ c.commits body = .wait c'.s .inFlight := by
  have hcore := Ctx.not_whisk_of_team hteam
  let g₁ : Group := { c.g with stage := .committing }
  have hfit₁ := hfit.setG g₁
  have hteam₁ : (c.setG g₁).team? = some (tm.putGroup (gidGroup c.gid) g₁) := by rw [Ctx.team?_setG, hteam]; rfl
  have ht₁ : (c.setG g₁).P.team? c.tk = some (tm.putGroup (gidGroup c.gid) g₁) := (Ctx.team?_of_team (c := c.setG g₁) hcore).symm.trans hteam₁
  obtain ⟨s₂, he₂, hP₂, hs₂⟩ := State.beginCommit_spec hfit₁.part ht₁ (gidGroup c.gid) false
  obtain ⟨mine, ht₂⟩ := Part.took_team? ht₁ (gidGroup c.gid) false
  let P₂ := (c.setG g₁).P.took c.tk (tm.putGroup (gidGroup c.gid) g₁) (gidGroup c.gid) false
  let w₀ : Commit := ⟨tm.colander, tm.posted, false, gidGroup c.gid, 0, mine, []⟩
  let r := l.write c.tk (gidGroup c.gid) tm
  let P₃ := P₂.sentLine c.tk r w₀
  have he₃ : (c.put g₁).beginCommit c.p c.tk (gidGroup c.gid) false = s₂.setPart c.p P₃ :=
    he₂.trans (State.advanceCommit_line hP₂ ht₂ rfl rfl hlines)
  have hP₃ : (s₂.setPart c.p P₃).part? c.p = some P₃ := State.part?_setPart_same ..
  have ht₃ := Part.sentLine_team? ht₂ r w₀
  have hg₃ : P₃.group? c.gid = some g₁ :=
    (Part.group?_modTeam _ c.tk (fun t => { t with commit := some { w₀ with req := P₂.nextId } }) (fun _ => rfl) c.gid).trans
      ((Part.group?_modTeam _ c.tk (Team.took · (gidGroup c.gid) false _) (fun _ => rfl) c.gid).trans hfit₁.group)
  let c₃ : Ctx := { c.setG g₁ with s := s₂.setPart c.p P₃, P := P₃ }
  have hre : (c.setG g₁).reload (s₂.setPart c.p P₃) = c₃ := Ctx.reload_eq hP₃ hg₃
  refine ⟨c₃, _, _, ⟨⟨hP₃, hg₃⟩, rfl, rfl, rfl, ht₃, rfl, ⟨rfl, rfl⟩, Table.get?_set_same .., ?_⟩, ?_⟩
  · change s₂.setPart c.p P₃ = _
    rw [hs₂]
    rfl
  · have hbusy : c₃.team?.any (fun t => t.commit.isSome) = true :=
      congrArg (Option.any fun t => t.commit.isSome) ((Ctx.team?_of_team (c := c₃) hcore).trans ht₃)
    rw [Ctx.commits, hteam]
    simp only [hnone, Option.isSome_none, Bool.false_eq_true, if_false, if_neg hstage]
    exact (congrArg (fun c' : Ctx => if c'.team?.any fun t => t.commit.isSome then Res.wait c'.s .inFlight else body (c'.setG { c'.g with stage := .fresh }))
      ((congrArg (Ctx.reload (c.setG g₁)) he₃).trans hre)).trans (if_pos hbusy)

/-! ## `fence` (R267, R420) -/

/-- A `fence` whose group has stood at no commit. -/
def Ctx.fenceEnd (c : Ctx) (sc k : BitVec 3) : Res :=
  if k ≠ 1 ∧ 4 ≤ sc.toNat ∧ c.P.run.sights.any fun e => e.gid == c.gid then .wait c.s .inFlight
  else if k = 0 then .done c.s
  else if !c.g.drained then .wait c.s .inFlight
  else if 3 ≤ sc.toNat then (c.reload (c.s.anchor c.p c.tk)).fenceCommit sc.toNat
  else .done c.s

theorem Ready.exec_fence {c : Ctx} {s : State} {sc k : BitVec 3} (h : Ready c s (.fence sc k)) :
    ∃ body : Ctx → Res, exec (.fence sc k) s = Machine.issue (.fence sc k) s body ∧ body c = c.closed (Ctx.fenceEnd · sc k) := by
  refine ⟨_, rfl, ?_⟩
  simp only [h.fresh]
  rfl

theorem Ctx.unsighted {c : Ctx} {sc k : BitVec 3} (h : k ≠ 1 → 4 ≤ sc.toNat → c.P.run.sights.all (fun e => e.gid != c.gid) = true) :
    ¬ (k ≠ 1 ∧ 4 ≤ sc.toNat ∧ (c.shut.P.run.sights.any fun e => e.gid == c.shut.gid) = true) := by
  rintro ⟨hk, hsc, hany⟩
  have hs : c.shut.P.run.sights = c.P.run.sights := by
    change (c.P.setGroup _ _).run.sights = _
    unfold Part.setGroup
    split <;> rfl
  rw [hs, Ctx.shut_gid] at hany
  obtain ⟨e, he, hge⟩ := List.any_eq_true.1 hany
  have := List.all_eq_true.1 (h hk hsc) e he
  simp_all

theorem narrowFenceCompletes : NarrowFenceCompletes := by
  intro c s sc k h hw hk hsights
  obtain ⟨body, he, hbody⟩ := h.exec_fence
  refine h.ran_of_done he (hbody.trans ((Ctx.closed_shut _ hw).trans ((if_neg (Ctx.unsighted hsights)).trans ?_)))
  rcases hk with hk | ⟨hsc, hld, hcin, hcout⟩
  · exact if_pos hk
  · by_cases h0 : k = 0
    · exact if_pos h0
    · have hdr : (!c.shut.g.drained) = false := by
        rw [show c.shut.g.drained = c.g.drained from rfl, Group.drained, hld, hcin, hcout]
        rfl
      rw [if_neg h0, hdr, if_neg (by simp), if_neg (by omega)]
      rfl

theorem Group.drained_of_counts {g : Group} (hld : g.count .ld = 0) (hcin : g.count .cin = 0) (hcout : g.count .cout = 0) : g.drained = true := by
  rw [Group.drained, hld, hcin, hcout]
  rfl

/-- A releasing `fence` anchors its team and commits. -/
theorem Ctx.fenceEnd_wide {c : Ctx} {sc k : BitVec 3} (hfit : c.Fits)
    (hs : k ≠ 1 → 4 ≤ sc.toNat → c.P.run.sights.all (fun e => e.gid != c.gid) = true) (hk : k ≠ 0) (hsc : 3 ≤ sc.toNat)
    (hdr : c.g.drained = true) : c.shut.fenceEnd sc k = c.shut.anchored.fenceCommit sc.toNat := by
  refine (if_neg (Ctx.unsighted hs)).trans ((if_neg hk).trans ((if_neg ?_).trans ((if_pos hsc).trans ?_)))
  · rw [show c.shut.g.drained = c.g.drained from rfl, hdr]
    simp
  · exact congrArg (Ctx.fenceCommit · sc.toNat) hfit.shut.reload_anchor

theorem Ctx.acked_of_all {c : Ctx} {scope : Nat} (h : 5 ≤ scope → c.P.unacked = [] ∧ c.P.hostBound c.tk = false) (body : Ctx → Res) :
    c.acked scope body = body (c.setG { c.g with stage := .fresh }) := by
  refine if_neg ?_
  rintro ⟨hsc, hun⟩
  obtain ⟨hu, hb⟩ := h hsc
  simp [hu, hb] at hun

/-- The anchored team of a context. -/
theorem Ctx.team?_anchored {c : Ctx} {tm : Team} (h : c.team? = some tm) : c.anchored.team? = some tm.anchored := by
  have hcore := Ctx.not_whisk_of_team h
  rw [Ctx.team?_of_team (c := c.anchored) hcore]
  change (c.P.modTeam c.tk Team.anchored).team? c.tk = _
  rw [Part.team?_modTeam_same, show c.P.team? c.tk = some tm from (Ctx.team?_of_team hcore).symm.trans h]
  rfl

@[simp] theorem Ctx.anchored_mode (c : Ctx) : c.anchored.P.mode = c.P.mode := Part.mode_modTeam c.P c.tk (f := Team.anchored) fun _ => rfl

theorem Ctx.shut_anchored_run {c : Ctx} (hcore : isWhisk c.gid = false) :
    c.shut.anchored.P = { c.P with run := { c.P.run with teams := c.shut.anchored.P.run.teams } } := by
  rw [show c.shut.anchored.P = (c.P.modTeam (gidTeam c.gid) fun t => t.putGroup (gidGroup c.gid) { c.g with windows := [] }).modTeam c.tk
    Team.anchored from congrArg (Part.modTeam · c.tk Team.anchored) (Part.setGroup_of_team c.P hcore _)]
  rfl

/-- The team of a group in the state that an instruction has ended in. -/
theorem teamIn_completed {c : Ctx} {t : State} {P : Part} {tm : Team} {g : Group} (hcore : isWhisk c.gid = false)
    (ht : t.part? c.p = some (P.setGroup c.gid g).fired) (htm : P.team? c.tk = some tm) :
    teamIn t c = some (tm.putGroup (gidGroup c.gid) g) := by
  rw [teamIn, ht]
  exact (Part.team?_setGroup_team _ hcore _).trans (congrArg (Option.map _) htm)

theorem Ctx.shut_anchored_hostBound {c : Ctx} (hcore : isWhisk c.gid = false) : c.shut.anchored.P.hostBound c.tk = c.P.hostBound c.tk := by
  rw [Ctx.shut_anchored_run hcore]
  rfl
theorem Ctx.shut_anchored_unacked {c : Ctx} (hcore : isWhisk c.gid = false) : c.shut.anchored.P.unacked = c.P.unacked := by
  rw [Ctx.shut_anchored_run hcore]

section
variable {c : Ctx} {s : State} {sc k : BitVec 3} {tm : Team} (h : Ready c s (.fence sc k)) (hteam : c.team? = some tm)
include h hteam

/-- A releasing `fence` of a team with nothing to commit. -/
theorem Ready.fence_committed (hmode : c.P.mode = 0 ∨ c.P.mode = 1) (hcom : Committed tm) (hack : 5 ≤ sc.toNat → c.P.unacked = [] ∧ c.P.hostBound c.tk = false) {body : Ctx → Res}
    (he : exec (.fence sc k) s = Machine.issue (.fence sc k) s body) (hb : body c = c.shut.anchored.fenceCommit sc.toNat) :
    ∃ t g tm', exec (.fence sc k) s = .next t ∧ t.group? c.p c.gid = some g ∧ teamIn t c = some tm' ∧
      g = (({ c.g with windows := [] } : Group).completed (c.g.pc + 4)) ∧
      tm'.anch = true ∧ tm'.commit = none ∧ tm'.commitN = tm.commitN + 1 ∧ tm'.hash = tm.hash ∧ ∀ a, t.byte a = s.byte a := by
  have hcore := Ctx.not_whisk_of_team hteam
  have hteam' : c.shut.anchored.team? = some (c.shutTeam tm).anchored := Ctx.team?_anchored (Ctx.team?_shut hteam)
  have hmode' : c.shut.anchored.P.mode = 0 ∨ c.shut.anchored.P.mode = 1 := by simpa using hmode
  have hstage : c.shut.anchored.g.stage ≠ .committing := by
    rw [show c.shut.anchored.g.stage = c.g.stage from rfl, h.fresh]
    simp
  obtain ⟨c', tm', hmade, hc'⟩ := Ctx.commits_committed h.fits.shut.anchored hteam' hmode' hcom hstage h.noWait
    fun c => c.acked sc.toNat fun c => .done c.s
  have hack' (h5 : 5 ≤ sc.toNat) : c'.P.unacked = [] ∧ c'.P.hostBound c'.tk = false := by
    rw [hmade.unacked, hmade.hostBound, Ctx.shut_anchored_unacked hcore]
    exact (hack h5).imp_right (Ctx.shut_anchored_hostBound hcore).trans
  have hfit := hmade.fits.setG { c'.g with stage := .fresh }
  obtain ⟨t, ht, hpart, hg, hbytes⟩ := h.completes he (hb.trans (hc'.trans (Ctx.acked_of_all hack' fun c => .done c.s)))
    (hmade.p ▸ hfit.part) (hmade.gid ▸ hfit.group)
  refine ⟨t, _, _, ht, hg, teamIn_completed hcore hpart (hmade.teamIn_setG _), ?_, hmade.anch, hmade.noCommit, hmade.commitN, hmade.hash,
    fun a => (hbytes a).trans ((hmade.byte a).trans ?_)⟩
  · rw [hmade.g]
    rfl
  · rw [← h.state]
    rfl


/-- A releasing `fence` of a team with store lines. -/
theorem Ready.fence_lines (hnone : tm.commit = none) {l : ColLine} {rest : List ColLine} (hlines : tm.colander = l :: rest) {body : Ctx → Res}
    (he : exec (.fence sc k) s = Machine.issue (.fence sc k) s body) (hb : body c = c.shut.anchored.fenceCommit sc.toNat) :
    ∃ t g tm' P' w id r, exec (.fence sc k) s = .next t ∧ t.group? c.p c.gid = some g ∧ teamIn t c = some tm' ∧
      t.part? c.p = some P' ∧ g = { c.g with windows := [], stage := .committing, wait := some .inFlight } ∧
      tm'.anch = true ∧ tm'.colander = [] ∧ tm'.posted = [] ∧ tm'.commit = some w ∧ w.lines = l :: rest ∧ w.posts = tm.posted ∧
      w.req = id ∧ Table.get? P'.run.lines id = some r ∧ r.team = c.tk ∧ r.vline = l.vline ∧ r.pline = l.pline ∧
      r.kind = .write l.bytes l.poison ∧ ∀ a, t.byte a = s.byte a := by
  have hcore := Ctx.not_whisk_of_team hteam
  have hteam' : c.shut.anchored.team? = some (c.shutTeam tm).anchored := Ctx.team?_anchored (Ctx.team?_shut hteam)
  have hstage : c.shut.anchored.g.stage ≠ .committing := by
    rw [show c.shut.anchored.g.stage = c.g.stage from rfl, h.fresh]
    simp
  obtain ⟨c', tm', w, hbegun, hc'⟩ := Ctx.commits_line h.fits.shut.anchored hteam' hnone hlines hstage
    fun c => c.acked sc.toNat fun c => .done c.s
  have hgs : c'.g.stage ≠ .fresh := by
    rw [hbegun.g]
    simp
  obtain ⟨t, ht, hpart, hg, hbytes⟩ := h.holds he (hbegun.p ▸ hbegun.fits.part) (hbegun.gid ▸ hbegun.fits.group) (.inr hgs) (hb.trans hc')
  have hcommit : tm'.commit = some w := by rw [hbegun.same]
  have hfields : tm'.anch = true ∧ tm'.colander = [] ∧ tm'.posted = [] := by
    rw [hbegun.same]
    exact ⟨rfl, rfl, rfl⟩
  refine ⟨t, _, _, _, w, w.req, l.write c.tk (gidGroup c.gid) (c.shutTeam tm).anchored, ht, hg, teamIn_completed hcore hpart hbegun.team, hpart, ?_,
    hfields.1, hfields.2.1, hfields.2.2, hcommit, hbegun.commit.1.trans hlines, hbegun.commit.2, rfl, ?_, rfl, rfl, rfl, rfl,
    fun a => (hbytes a).trans ?_⟩
  · rw [hbegun.g]
    rfl
  · refine Eq.trans ?_ hbegun.sent
    rw [Part.setGroup_of_team _ hcore]
    rfl
  · rw [hbegun.rest, ← h.state]
    rfl
end

theorem wideFenceCommits : WideFenceCommits := by
  intro c s sc k tm h hteam _ hmode hw hk hsc hld hcin hcout hsights
  obtain ⟨body, he, hbody⟩ := h.exec_fence
  have hwide := hbody.trans ((Ctx.closed_shut _ hw).trans (Ctx.fenceEnd_wide h.fits hsights hk hsc (Group.drained_of_counts hld hcin hcout)))
  exact ⟨fun hcom hack => h.fence_committed hteam hmode hcom hack he hwide,
    fun l rest hnone hlines => h.fence_lines hteam hnone hlines he hwide⟩

/-! ## `wcnt` (R220) -/

theorem pathOf_row {n : Nat} {path : Path} (h : (n, path) ∈ [(0, Path.ld), (1, .cin), (2, .cout), (3, .wcl), (4, .snd)]) :
    pathOf n = some path := by
  simp only [List.mem_cons, Prod.mk.injEq, List.not_mem_nil, or_false] at h
  rcases h with ⟨rfl, rfl⟩ | ⟨rfl, rfl⟩ | ⟨rfl, rfl⟩ | ⟨rfl, rfl⟩ | ⟨rfl, rfl⟩ <;> rfl

/-- `wcnt` of a path. -/
def Ctx.wcntEnd (c : Ctx) (n : Nat) (path : Path) : Res :=
  if n < c.g.count path then .wait c.s .inFlight
  else match c.g.held.find? fun h => h.path = path && (path != .wcl || !(c.g.inflight.any fun e => e.op == h.op)) with
    | some h => .trap (c.put (c.g.unhold h)) h.trap
    | none => .done c.s

theorem exec_wcnt {p : BitVec 5} {path : Path} (h : pathOf p.toNat = some path) (n : BitVec 8) (s : State) :
    exec (.wcnt p n) s = issue (.wcnt p n) s (Ctx.wcntEnd · n.toNat path) := by
  change issue _ _ _ = _
  rw [h]
  rfl

theorem wcntWaitsForItsCounter : WcntWaitsForItsCounter := by
  intro c s p n path h hp
  have he := exec_wcnt (pathOf_row hp) n s
  refine ⟨fun hle hheld => ?_, fun hlt => ?_⟩
  · have hnone : (c.g.held.find? fun h => h.path = path && (path != .wcl || !(c.g.inflight.any fun e => e.op == h.op))) = none := by
      rw [List.find?_eq_none]
      intro x hx
      have := List.all_eq_true.1 hheld x hx
      simp_all
    have hb : c.wcntEnd n.toNat path = .done s := by
      rw [Ctx.wcntEnd, if_neg (by omega), hnone, h.state]
    exact ⟨_, he.trans (h.ends_done hb), rfl⟩
  · have hb : c.wcntEnd n.toNat path = .wait s .inFlight := h.state ▸ if_pos hlt
    refine ⟨_, he.trans (h.ends_wait rfl hb), ?_⟩
    rw [State.group?_modGroup, h.group]
    rfl

/-! ## `exit` (R142) -/

/-- A group stands in a state, in FREE or DETERMINISTIC mode, and memory reads as given. -/
structure State.Stands (s : State) (p : PartNo) (gid : Nat) (g : Group) (m : Nat → Byte) : Prop where
  part : ∃ P, s.part? p = some P ∧ (P.mode = 0 ∨ P.mode = 1) ∧ P.group? gid = some g
  bytes : ∀ a, s.byte a = m a

section
variable {s : State} {p : PartNo} {gid : Nat} {g : Group} {m : Nat → Byte} (h : s.Stands p gid g m)
include h

theorem State.Stands.group : s.group? p gid = some g := by
  obtain ⟨P, hP, -, hg⟩ := h.part
  exact (State.group?_of_part hP gid).trans hg

/-- A change of the partition that leaves its mode and the group. -/
theorem State.Stands.modPart {f : Part → Part} (hm : ∀ P : Part, (f P).mode = P.mode) (hg : ∀ P : Part, (f P).group? gid = P.group? gid) :
    (s.modPart p f).Stands p gid g m := by
  obtain ⟨P, hP, hmode, hgrp⟩ := h.part
  exact ⟨⟨f P, State.part?_modPart_some hP f, (hm P).symm ▸ hmode, (hg P).trans hgrp⟩, h.bytes⟩

theorem State.Stands.implyDrop (tk level bar n : Nat) : (s.implyDrop p tk level bar n).Stands p gid g m := by
  obtain ⟨P, hP, hmode, hgrp⟩ := h.part
  rw [State.implyDrop, hP]
  cases ht : P.team? tk with
  | none => simpa only [Option.bind_some, ht, Option.map_none] using h
  | some t =>
    simp only [Option.bind_some, ht, Option.map_some]
    cases hsub : (P.bar t level bar).subscribed n with
    | false => exact h
    | true =>
      have hbar := Part.hasBar_of_subscribed hsub
      cases harr : (P.bar t level bar).arrived n with
      | false =>
        obtain ⟨P', t', hP', hstep, -, hbytes⟩ := State.arrive_step hP ht hbar hmode n true false
        exact ⟨⟨P', hP', hstep.mode.symm ▸ hmode, (hstep.groups gid).trans hgrp⟩, fun a => (hbytes a).trans (h.bytes a)⟩
      | true =>
        obtain ⟨t', hstep, -, -⟩ := P.setBar_step ht level bar ((P.bar t level bar).dropMember n) hbar
        refine ⟨⟨P.setBar tk t level bar ((P.bar t level bar).dropMember n), ?_, hstep.mode.symm ▸ hmode, (hstep.groups gid).trans hgrp⟩, h.bytes⟩
        refine (State.part?_modPart_some hP _).trans ?_
        simp only [ht]

theorem State.Stands.implyDrops (tk level : Nat) (bar member : Nat → Nat) (bars : List Nat) :
    (bars.foldl (fun s b => s.implyDrop p tk level (bar b) (member b)) s).Stands p gid g m := by
  induction bars generalizing s with
  | nil => exact h
  | cons b bars ih => exact ih (h.implyDrop tk level (bar b) (member b))

omit h in
theorem ite_stands {q : Prop} [Decidable q] {a b : State} (ha : q → a.Stands p gid g m) (hb : ¬ q → b.Stands p gid g m) :
    (if q then a else b).Stands p gid g m := by
  split
  · next hq => exact ha hq
  · next hq => exact hb hq

theorem State.Stands.dropTeam (tk : Nat) : (s.dropTeam p tk).Stands p gid g m := by
  rw [State.dropTeam]
  split
  · exact h
  · next P t _ =>
    have h₁ := h.implyDrops tk 1 id (fun _ => t.rank) (List.range 8)
    split
    · next l _ =>
      exact ite_stands (fun _ => h₁.implyDrops tk 2 id (fun _ => l.clusterIndex t) (List.range 4)) fun _ => h₁
    · exact h₁

theorem State.Stands.freeEngines (tk : Nat) : (s.modPart p fun P => P.freeEngines tk).Stands p gid g m := by
  refine h.modPart (fun P => ?_) (fun P => ?_)
  · rw [Part.freeEngines]
    split
    · rfl
    · refine (Part.mode_modTeam _ tk ?_).trans rfl
      exact fun _ => rfl
  · rw [Part.freeEngines]
    split
    · rfl
    · refine (Part.group?_modTeam _ tk _ ?_ gid).trans rfl
      exact fun _ => rfl

theorem State.Stands.modTeam (tk : Nat) {f : Team → Team} (hl : ∀ t, (f t).launch = t.launch) (hg : ∀ t, (f t).groups = t.groups) :
    (s.modTeam p tk f).Stands p gid g m :=
  h.modPart (fun P => P.mode_modTeam tk hl) (fun P => P.group?_modTeam tk f hg gid)

theorem State.Stands.modCore (k : Part → Nat) (f : Core → Core) : (s.modPart p fun P => P.modCore (k P) f).Stands p gid g m :=
  h.modPart (fun _ => rfl) (fun _ => rfl)

theorem State.Stands.modGroup (f : Group → Group) : (s.modGroup p gid f).Stands p gid (f g) m := by
  obtain ⟨P, hP, hmode, hgrp⟩ := h.part
  refine ⟨⟨P.setGroup gid (f g), ?_, (Part.mode_setGroup ..).symm ▸ hmode, Part.group?_setGroup _ _ _ _ hgrp⟩, h.bytes⟩
  rw [State.part?_modGroup_some hP, Part.modGroup, hgrp]

/-- The group of a state from which it has ended. -/
def Group.over (g : Group) (pc : DWord) : Group := { Group.initial pc 0 0 with run := .ended, retired := g.retired + 1 }

theorem State.Stands.endGroup (pc : DWord) : (s.endGroup p gid pc).Stands p gid (g.over pc) m := by
  have h₁ := (h.modGroup (Group.over · pc)).modCore (Part.coreOf · gid) fun c => { c with matrix := c.matrix.filter fun m => m.gid != gid || m.bno == 0 }
  rw [State.endGroup]
  dsimp only
  split
  · exact h₁
  · refine ite_stands (fun _ => ?_) fun _ => h₁
    refine State.Stands.freeEngines (State.Stands.dropTeam (State.Stands.modTeam h₁ _ ?_ ?_) _) _
    · exact fun _ => rfl
    · exact fun _ => rfl
end

theorem Ctx.leave_stands {c : Ctx} {g : Group} {m : Nat → Byte} (h : c.s.Stands c.p c.gid g m) :
    ∃ s, c.leave = .gone s ∧ s.Stands c.p c.gid (g.over c.g.pc) m :=
  ⟨_, rfl, (h.implyDrops c.tk 0 (· + 1) (fun _ => gidGroup c.gid) (List.range 15)).endGroup c.g.pc⟩

theorem Ctx.leave_reload {c : Ctx} {s : State} {g : Group} {m : Nat → Byte} (h : s.Stands c.p c.gid g m) :
    ∃ s', (c.reload s).leave = .gone s' ∧ s'.Stands c.p c.gid (g.over (c.reload s).g.pc) m := by
  obtain ⟨s', hs', hstand⟩ := Ctx.leave_stands (c := c.reload s) (g := g) (m := m) (by
    rw [Ctx.s_reload, Ctx.p_reload, Ctx.gid_reload]
    exact h)
  rw [Ctx.p_reload, Ctx.gid_reload] at hstand
  exact ⟨s', hs', hstand⟩

/-- The last steps of an `exit` whose group has written no uniform register. -/
theorem Ctx.exitDrop_stands {c : Ctx} {tm : Team} {g : Group} {m : Nat → Byte} (hteam : c.team? = some tm)
    (hw : (tm.kwrites.any fun w => w.grp == gidGroup c.gid) = false) (h : c.s.Stands c.p c.gid g m) :
    ∃ s g' pc, c.exitDrop = .gone s ∧ s.Stands c.p c.gid (Group.over g' pc) m := by
  rw [Ctx.exitDrop, hteam]
  simp only [hw, Bool.false_eq_true, if_false, Bool.false_and]
  split
  · obtain ⟨s, hs, hstand⟩ := Ctx.leave_reload
      ((h.modGroup fun _ => { c.g with stage := .arrived (c.P.bar tm 0 0).ord }).implyDrop c.tk 0 0 (gidGroup c.gid))
    exact ⟨s, _, _, hs, hstand⟩
  · obtain ⟨s, hs, hstand⟩ := Ctx.leave_stands h
    exact ⟨s, _, _, hs, hstand⟩

/-- `exit` of a group that has not yet arrived. -/
def Ctx.exitEnd (c : Ctx) : Res :=
  match c.team?.bind fun t => t.dueFor (gidGroup c.gid) (fun _ => true) with
  | some u => .trap (c.setP (c.P.undue c.tk u)).s u.trap
  | none => c.closed fun c =>
    let c := if c.P.openBatch c.gid c.g then c.setP (c.P.closeBatch c.gid) else c
    if !c.g.inflight.isEmpty || c.g.complete ≠ c.g.closed then .wait c.s .inFlight
    else match c.g.heldFirst with
      | some h => .trap (c.put (c.g.unhold h).leaveHeld) h.trap
      | none => c.exitDrop

theorem Ready.exec_exit {c : Ctx} {s : State} (h : Ready c s .exit) (hteam : isWhisk c.gid = false) :
    ∃ body : Ctx → Res, exec .exit s = Machine.issue .exit s body ∧ body c = c.exitEnd := by
  refine ⟨_, rfl, (c.outside_team _ _ hteam).trans ?_⟩
  simp only [Ctx.exit, h.fresh]
  rfl

theorem Part.openBatch_setGroup (P : Part) (gid : Nat) (g g' : Group) (hc : g'.closed = g.closed) :
    (P.setGroup gid g').openBatch gid g' = P.openBatch gid g := by
  have hcore (k : Nat) : (P.setGroup gid g').core? k = P.core? k := by
    unfold Part.setGroup
    split <;> rfl
  rw [Part.openBatch, Part.openBatch, Part.coreOf_setGroup, hcore, hc]

theorem exitEndsTheGroup : ExitEndsTheGroup := by
  intro c s tm h hteam hcore hmode hw hbatch hflight hcomplete hheld hwrites hdue
  obtain ⟨body, he, hbody⟩ := h.exec_exit hcore
  have hshut : c.shut.s.Stands c.p c.gid c.shut.g s.byte :=
    ⟨⟨c.shut.P, h.fits.shut.part, (Ctx.shut_mode c).symm ▸ hmode, h.fits.shut.group⟩, fun a => by rw [← h.state]; rfl⟩
  have hnone : ((c.shutTeam tm).kwrites.any fun w => w.grp == gidGroup c.shut.gid) = false := by
    rw [List.any_eq_false]
    intro w hmem
    have := List.all_eq_true.1 hwrites w hmem
    simp_all
  obtain ⟨s₁, g', pc, hdrop, hstand⟩ := Ctx.exitDrop_stands (c := c.shut) (Ctx.team?_shut hteam) hnone hshut
  have hend : c.exitEnd = .gone s₁ := by
    have hopen : c.shut.P.openBatch c.shut.gid c.shut.g = false := (Part.openBatch_setGroup c.P c.gid c.g c.shut.g rfl).trans hbatch
    have hbusy : (!c.shut.g.inflight.isEmpty || decide (c.shut.g.complete ≠ c.shut.g.closed)) = false := by
      simp [hflight, hcomplete]
    have hfirst : c.shut.g.heldFirst = none := by
      rw [Group.heldFirst, show c.shut.g.held = [] from hheld]
      rfl
    rw [Ctx.exitEnd, hteam, Option.bind_some, Team.dueFor_none hdue]
    simp only [Ctx.closed_shut _ hw, hopen, Bool.false_eq_true, if_false, hbusy, hfirst, hdrop]
  refine ⟨_, g'.over pc, he.trans (h.ends_gone (hbody.trans hend)), ?_, rfl, rfl, rfl, hstand.bytes⟩
  rw [State.group?_fired]
  exact hstand.group

/-- Settles O24: the narrow `fence`, the wide one, `exit` and `wcnt`. -/
theorem fenceExitAndCounterWait : Obligations.FenceExitAndCounterWait :=
  ⟨narrowFenceCompletes, wideFenceCommits, exitEndsTheGroup, wcntWaitsForItsCounter⟩

end Sys2Proof.Machine
end

section
/-!
PROOF. Software traps, words of no instruction, and the checks of registers (spec/01_group_state.md R14 to R16,
spec/02_words_and_syntax.md R42, R43, R53, R56, R59, spec/06_group_control_faults.md R151).
-/
namespace Sys2Proof.Machine
open Sys2Proof.Spec

/-! ## `trap`, `brk` and the words of no opcode (R43, R151) -/

theorem softwareTrapsRaiseTheirCause : SoftwareTrapsRaiseTheirCause := by
  intro c s i tr h hin hi
  have hafter (hb : ∃ body : Ctx → Res, exec i s = issue i s body ∧ body c = .after c.s tr) :
      exec i s = .next (((s.modGroup c.p c.gid fun g => g.completed (g.pc + 4)).raiseTrap c.p c.gid tr).modPart c.p fun P =>
        { P with fire := P.fire + 1 }) := by
    obtain ⟨body, he, hb⟩ := hb
    rw [he, h.ends_after hb, h.state, hin]
    rfl
  rcases hi with ⟨n, rfl, rfl⟩ | ⟨rfl, rfl⟩
  · exact hafter ⟨_, rfl, rfl⟩
  · exact hafter ⟨_, rfl, rfl⟩

theorem reservedOpcodesTrapIllegal : ReservedOpcodesTrapIllegal := by
  intro c s w h
  exact h.trapsWith rfl (by rw [trapOf, BitVec.ofNat_toNat]; rfl)

/-! ## Reserved fields (R42 order 2, R59) -/

theorem nz_eq_not (w : Word) (lo n : Nat) : nz w lo n = !((w.extractLsb' lo n).toNat == 0) := by
  rw [nz, fld, bne, Bool.beq_eq_decide_eq, Bool.beq_eq_decide_eq, decide_eq_decide.2]
  simp [BitVec.toNat_eq]

theorem badScope_eq_not (w : Word) (lo : Nat) :
    badScope (fld w lo 3) = !(decide (1 ≤ (w.extractLsb' lo 3).toNat) && decide ((w.extractLsb' lo 3).toNat ≤ 6)) := by
  rw [fld]
  generalize w.extractLsb' lo 3 = x
  revert x
  decide

theorem above_two_eq_not (w : Word) (lo n : Nat) : decide (2 < (fld w lo n).toNat) = !decide ((w.extractLsb' lo n).toNat ≤ 2) := by
  rw [← decide_not]
  exact decide_eq_decide.2 Nat.not_le.symm

/-- A field of a rule offends. -/
def ruleBad (w : Word) (f : Nat × Nat × (Nat → Bool)) : Nat × Bool := (f.1, !f.2.2 (w.extractLsb' f.1 f.2.1).toNat)

/-- The decoder's answer is that of the rules of an opcode. -/
def ByRules (w : Word) (op : Nat) (r : Except Reject Instr) : Prop :=
  fieldRules op = [] ∨ ∃ i, r = reserve w ((fieldRules op).map (ruleBad w)) i

section
variable (w : Word) (lo : Nat) (h : lo < 16)
include h

omit h in
/-- An answer whose fields are those of the rules. -/
theorem byRules_reserve {op : Nat} {fields : List (Nat × Bool)} {i : Instr} (hf : fields = (fieldRules op).map (ruleBad w)) :
    ByRules w op (reserve w fields i) := .inr ⟨i, by rw [hf]⟩

theorem byRules_decode0 : ByRules w (0 * 16 + lo) (decode0 lo w) := by
  interval_cases lo
  all_goals first
    | exact .inl rfl
    | refine byRules_reserve w ?_
      simp only [nz_eq_not]
      rfl
theorem byRules_decode1 : ByRules w (1 * 16 + lo) (decode1 lo w) := by
  interval_cases lo
  all_goals first
    | exact .inl rfl
    | refine byRules_reserve w ?_
      simp only [nz_eq_not]
      rfl
theorem byRules_decode2 : ByRules w (2 * 16 + lo) (decode2 lo w) := by
  interval_cases lo
  all_goals first
    | exact .inl rfl
    | refine byRules_reserve w ?_
      simp only [nz_eq_not]
      rfl
theorem byRules_decode3 : ByRules w (3 * 16 + lo) (decode3 lo w) := by
  interval_cases lo
  all_goals first
    | exact .inl rfl
    | refine byRules_reserve w ?_
      simp only [nz_eq_not]
      rfl
theorem byRules_decode4 : ByRules w (4 * 16 + lo) (decode4 lo w) := by
  interval_cases lo
  all_goals first
    | exact .inl rfl
    | refine byRules_reserve w ?_
      simp only [nz_eq_not]
      rfl
theorem byRules_decode5 : ByRules w (5 * 16 + lo) (decode5 lo w) := by
  interval_cases lo
  all_goals first
    | exact .inl rfl
    | refine byRules_reserve w ?_
      simp only [nz_eq_not]
      rfl
theorem byRules_decode6 : ByRules w (6 * 16 + lo) (decode6 lo w) := by
  interval_cases lo
  all_goals first
    | exact .inl rfl
    | refine byRules_reserve w ?_
      simp only [nz_eq_not]
      rfl
theorem byRules_decode7 : ByRules w (7 * 16 + lo) (decode7 lo w) := by
  interval_cases lo
  all_goals first
    | exact .inl rfl
    | refine byRules_reserve w ?_
      simp only [nz_eq_not]
      rfl
theorem byRules_decode8 : ByRules w (8 * 16 + lo) (decode8 lo w) := by
  interval_cases lo
  all_goals first
    | exact .inl rfl
    | refine byRules_reserve w ?_
      simp only [nz_eq_not, badScope_eq_not]
      rfl
theorem byRules_decode9 : ByRules w (9 * 16 + lo) (decode9 lo w) := by
  interval_cases lo
  all_goals first
    | exact .inl rfl
    | refine byRules_reserve w ?_
      simp only [nz_eq_not, above_two_eq_not]
      rfl
theorem byRules_decodeA : ByRules w (10 * 16 + lo) (decodeA lo w) := by
  interval_cases lo
  all_goals first
    | exact .inl rfl
    | refine byRules_reserve w ?_
      simp only [nz_eq_not]
      rfl
theorem byRules_decodeB : ByRules w (11 * 16 + lo) (decodeB lo w) := by
  interval_cases lo
  all_goals first
    | exact .inl rfl
    | refine byRules_reserve w ?_
      simp only [nz_eq_not]
      rfl
theorem byRules_decodeC : ByRules w (12 * 16 + lo) (decodeC lo w) := by
  interval_cases lo
  all_goals first
    | exact .inl rfl
    | refine byRules_reserve w ?_
      simp only [nz_eq_not, badScope_eq_not, above_two_eq_not]
      rfl
theorem byRules_decodeD : ByRules w (13 * 16 + lo) (decodeD lo w) := by
  interval_cases lo <;> exact .inl rfl
end

theorem fieldRules_high {op : Nat} (h : 14 * 16 ≤ op) : fieldRules op = [] := by
  simp only [fieldRules, List.mem_cons, List.not_mem_nil, or_false]
  repeat rw [if_neg (by omega)]

theorem byRules_decode (w : Word) : ByRules w (w.extractLsb' 24 8).toNat (decode w) := by
  have hop : (w.extractLsb' 24 8).toNat = (fld w 28 4).toNat * 16 + (fld w 24 4).toNat := by
    simp only [fld, BitVec.extractLsb'_toNat, Nat.shiftRight_eq_div_pow]
    omega
  have hlo := (fld w 24 4).isLt
  rw [hop]
  unfold decode
  split
  case h_1 hhi =>
    rw [hhi]
    exact byRules_decode0 w _ hlo
  case h_2 hhi =>
    rw [hhi]
    exact byRules_decode1 w _ hlo
  case h_3 hhi =>
    rw [hhi]
    exact byRules_decode2 w _ hlo
  case h_4 hhi =>
    rw [hhi]
    exact byRules_decode3 w _ hlo
  case h_5 hhi =>
    rw [hhi]
    exact byRules_decode4 w _ hlo
  case h_6 hhi =>
    rw [hhi]
    exact byRules_decode5 w _ hlo
  case h_7 hhi =>
    rw [hhi]
    exact byRules_decode6 w _ hlo
  case h_8 hhi =>
    rw [hhi]
    exact byRules_decode7 w _ hlo
  case h_9 hhi =>
    rw [hhi]
    exact byRules_decode8 w _ hlo
  case h_10 hhi =>
    rw [hhi]
    exact byRules_decode9 w _ hlo
  case h_11 hhi =>
    rw [hhi]
    exact byRules_decodeA w _ hlo
  case h_12 hhi =>
    rw [hhi]
    exact byRules_decodeB w _ hlo
  case h_13 hhi =>
    rw [hhi]
    exact byRules_decodeC w _ hlo
  case h_14 hhi =>
    rw [hhi]
    exact byRules_decodeD w _ hlo
  case h_15 =>
    refine .inl (fieldRules_high ?_)
    simp only [imp_false] at *
    omega

theorem firstBad_append {w : Word} {before after : List (Nat × Nat × (Nat → Bool))} {f : Nat × Nat × (Nat → Bool)}
    (hbefore : ∀ f ∈ before, f.2.2 (w.extractLsb' f.1 f.2.1).toNat = true) (hf : f.2.2 (w.extractLsb' f.1 f.2.1).toNat = false) :
    firstBad ((before ++ f :: after).map (ruleBad w)) = some f.1 := by
  induction before with
  | nil => simp only [List.nil_append, List.map_cons, firstBad, ruleBad, hf, Bool.not_false, if_true]
  | cons e before ih =>
    have he := hbefore e (by simp)
    simp only [List.cons_append, List.map_cons, firstBad, ruleBad, he, Bool.not_true, Bool.false_eq_true, if_false]
    exact ih fun f hf => hbefore f (List.mem_cons_of_mem _ hf)

theorem trapOf_add (cause : Nat) (w : Word) (k : Nat) : trapOf cause (w.toNat + k) = ⟨BitVec.ofNat 8 cause, w.setWidth 64 + BitVec.ofNat 64 k⟩ := by
  rw [trapOf, BitVec.ofNat_add, BitVec.ofNat_toNat]

theorem rejectTrap_reservedField (w : Word) (lo : Nat) :
    rejectTrap (.reservedField w lo) = ⟨2, w.setWidth 64 + BitVec.ofNat 64 (lo * 2 ^ 32)⟩ := trapOf_add 2 w _

/-- Whatever is rejected takes its trap, as nothing holds up the group. -/
theorem rejects_of_issues {c : Ctx} {s : State} (h : Issues c s) {w : Word} {lo : Nat} :
    rejectWord (.reservedField w lo) s = (s.raiseTrap c.p c.gid (rejectTrap (.reservedField w lo))).modPart c.p fun P =>
      { P with fire := P.fire + 1 } := by
  have hs : c.s = s := (State.issuer_spec h.issuer).1
  rw [rejectWord, h.issuer]
  simp only [h.windows, Bool.false_eq_true, if_false, h.noFault, Ctx.settle, hs]
  exact if_pos (by simp [Ctx.firing, Group.issued, h.fresh, h.noWait])

theorem reservedFieldsTrap : ReservedFieldsTrap := by
  intro w before after lo n ok hrules hbefore hok
  constructor
  · rcases byRules_decode w with hnil | ⟨i, hi⟩
    · rw [hrules] at hnil
      simp at hnil
    · rw [hi, hrules, reserve, firstBad_append hbefore hok]
  · intro c s h
    rw [rejects_of_issues h, rejectTrap_reservedField]

/-! ## The checks of registers (R42 orders 3 to 5) -/

/-- What the checks of R42 need to know of an instruction: it issues, its word is well formed, and it uses these registers. -/
structure Ctx.Names (c : Ctx) (s : State) (i : Instr) (us : List RegUse) : Prop where
  issues : ∃ body : Ctx → Res, exec i s = issue i s body
  wf : i.wf = true
  due : c.g.dueAt i = c.g.dueWhisk
  uses : c.uses i = us

theorem Ctx.Names.traps {c : Ctx} {s : State} {i : Instr} {us : List RegUse} (h : c.Names s i us) (hi : Issues c s) {t : Trap}
    (ht : c.g.checkRegs c.n us = some t) : TrapsWith c i s t := by
  obtain ⟨body, he⟩ := h.issues
  have hs : c.s = s := (State.issuer_spec hi.issuer).1
  have hpre : c.precheck i body = .trap s t := by
    rw [Ctx.precheck, if_neg (by simp [hi.fresh]), hi.windows, h.due, hi.noFault]
    simp only [Bool.false_eq_true, if_false, hi.code, h.wf, Bool.not_true, Ctx.checkUses, h.uses, ht, hs]
  rw [TrapsWith, he, issue, hi.issuer]
  simp only [hpre, Ctx.settle]
  exact congrArg _ (if_pos (by simp [Ctx.firing, Group.issued, hi.fresh, hi.noWait]))

section
variable {g : Group} {n : Nat} {us : List RegUse} {t : Trap}

/-- Order 3 comes first. -/
theorem Group.checkRegs_of_range (h : firstSome (rangeCheck n) us = some t) : g.checkRegs n us = some t := by
  rw [Group.checkRegs, h]
  rfl

theorem Group.checkRegs_of_bounds (h : firstSome (rangeCheck n) us = none) (hodd : firstSome g.oddIndex us = none)
    (hb : firstSome (g.boundsCheck n) us = some t) : g.checkRegs n us = some t := by
  rw [Group.checkRegs, h, hodd, hb]
  rfl

theorem Group.checkRegs_of_window (h : firstSome (rangeCheck n) us = none) (hodd : firstSome g.oddIndex us = none)
    (hb : firstSome (g.boundsCheck n) us = none) (hw : g.lookahead us = some t) : g.checkRegs n us = some t := by
  rw [Group.checkRegs, h, hodd, hb, hw]
  rfl
end

/-- A direct register that order 3 rejects. -/
def badReg (n r span : Nat) : Prop := n ≤ r ∨ r % span ≠ 0

theorem rangeCheck_bad {n r span field : Nat} (h : badReg n r span) :
    rangeCheck n (.v r span field) = some ⟨4, BitVec.ofNat 64 (r + field * 2 ^ 8 + if r % span ≠ 0 then 2 ^ 10 else 0)⟩ := by
  refine (if_pos h).trans (congrArg (fun x => some (trapOf 4 (r + field * 2 ^ 8 + x))) ?_)
  by_cases hodd : r % span ≠ 0
  · rw [decide_eq_true hodd, if_pos hodd]
    rfl
  · rw [decide_eq_false hodd, if_neg hodd]
    rfl

theorem rangeCheck_good {n r span field : Nat} (h : ¬ badReg n r span) : rangeCheck n (.v r span field) = none := if_neg h

theorem firstSome_cons {α β : Type} (f : α → Option β) (x : α) (l : List α) : firstSome f (x :: l) = (f x).or (firstSome f l) := by
  rw [firstSome]
  cases f x <;> rfl

theorem firstSome_cons_some {α β : Type} {f : α → Option β} {x : α} {y : β} (h : f x = some y) (l : List α) : firstSome f (x :: l) = some y := by
  rw [firstSome_cons, h]
  rfl

theorem firstSome_cons_none {α β : Type} {f : α → Option β} {x : α} (h : f x = none) (l : List α) : firstSome f (x :: l) = firstSome f l := by
  rw [firstSome_cons, h]
  rfl

theorem use_direct {o : Operand} (h : o.pat ≠ .idx) (span field : Nat) : use o span field = .v o.reg.toNat span field := if_neg h
theorem use_indexed {o : Operand} (h : o.pat = .idx) (span field : Nat) : use o span field = .x o.reg.toNat span field [] := if_pos h

/-- An instruction without source lanes of its own keeps its uses as they are. -/
theorem from_nil_use (o : Operand) (span field : Nat) : (use o span field).from [] = use o span field := by
  unfold use
  split
  · unfold RegUse.from
    split <;> simp_all
  · rfl

theorem rangeCheck_use_indexed {o : Operand} (h : o.pat = .idx) (n span field : Nat) : rangeCheck n (use o span field) = none := by
  rw [use_indexed h]
  rfl

theorem Group.oddIndex_use_direct (g : Group) {o : Operand} (h : o.pat ≠ .idx) (span field : Nat) : g.oddIndex (use o span field) = none := by
  rw [use_direct h]
  rfl

theorem Group.boundsCheck_use_direct (g : Group) {o : Operand} (h : o.pat ≠ .idx) (n span field : Nat) :
    g.boundsCheck n (use o span field) = none := by
  rw [use_direct h]
  rfl

theorem firstSome_none {α β : Type} {f : α → Option β} {l : List α} (h : ∀ x ∈ l, f x = none) : firstSome f l = none := by
  induction l with
  | nil => rfl
  | cons x l ih =>
    rw [firstSome_cons, h x (by simp), Option.none_or]
    exact ih fun y hy => h y (by simp [hy])

theorem firstSome_find? {α β : Type} {f : α → Option β} {l : List α} {x : α} {y : β} (h : l.find? (fun x => (f x).isSome) = some x) (hx : f x = some y) :
    firstSome f l = some y := by
  induction l with
  | nil => simp at h
  | cons z l ih =>
    rw [firstSome_cons]
    cases hz : f z with
    | some w =>
      rw [List.find?_cons_of_pos (by simp [hz])] at h
      cases h
      rw [← hz, hx]
      rfl
    | none =>
      rw [List.find?_cons_of_neg (by simp [hz])] at h
      exact (Option.none_or).trans (ih h)

/-- A single register under an index is never odd. -/
theorem Group.oddIndex_one (g : Group) (m field : Nat) (more : List Nat) : g.oddIndex (.x m 1 field more) = none :=
  firstSome_none fun i _ => if_neg (by simp [Nat.mod_one])

/-- The lowest lane that reaches out of its bounds is the one that is reported (R16). -/
theorem Group.boundsCheck_lowest {g : Group} {n m span field l : Nat} {more : List Nat} (hl : l < 32) (hact : g.active l = true)
    (hbad : g.reached m l < g.lower (m / 8) l ∨ g.upper n (m / 8) l < g.reached m l ∨ n ≤ g.reached m l)
    (hlow : ∀ k < l, g.active k = true →
      ¬ (g.reached m k < g.lower (m / 8) k ∨ g.upper n (m / 8) k < g.reached m k ∨ n ≤ g.reached m k)) :
    g.boundsCheck n (.x m span field more) = some ⟨5, BitVec.ofNat 64 (l + g.reached m l * 2 ^ 5 + m / 8 * 2 ^ 12)⟩ := by
  refine firstSome_find? (find?_eq_some_of_lowest g.actives_rising ((g.mem_actives l).2 ⟨hl, hact⟩) ?_ fun k hk hlt => ?_) (if_pos hbad)
  · rw [if_pos hbad]
    rfl
  · rw [if_neg (hlow k hlt ((g.mem_actives k).1 hk).2)]
    rfl

/-! ### Registers that a window protects (R53, R56) -/

/-- The trap of a touched register in a window's reach. -/
def Window.catches (x : Window) (t : Bool × Nat) : Option Trap :=
  if (if t.1 then x.sregs.contains t.2 else x.vregs.contains t.2) then
    some (trapOf 6 (t.2 % 64 + bit t.1 * 64 + x.pos * 256 + x.la * 4096)) else none

theorem Group.lookahead_eq {g : Group} {x : Window} (hg : g.windows = [x]) (hx : x.pos ≤ x.la) (us : List RegUse) :
    g.lookahead us = firstSome x.catches (us.map g.touches).flatten := by
  have hin : x.inside = true := decide_eq_true hx
  have hor (o : Option Trap) : o.or none = o := by cases o <;> rfl
  rw [Group.lookahead]
  congr 1
  funext t
  rw [hg, firstSome_cons, hin, Bool.true_and]
  exact hor _

section
variable {x : Window}

theorem Window.catches_vreg {r : BitVec 6} (h : r.toNat ∈ x.vregs) :
    x.catches (false, r.toNat) = some ⟨6, BitVec.ofNat 64 (r.toNat + x.pos * 2 ^ 8 + x.la * 2 ^ 12)⟩ := by
  have hr : r.toNat % 64 = r.toNat := Nat.mod_eq_of_lt r.isLt
  simp only [Window.catches, Bool.false_eq_true, if_false, List.contains_iff_mem, h, if_true, hr, bit, Nat.zero_mul, Nat.add_zero]
  rfl

theorem Window.catches_sreg {r : SReg} (h : r.toNat ∈ x.sregs) :
    x.catches (true, r.toNat) = some ⟨6, BitVec.ofNat 64 (r.toNat + 2 ^ 6 + x.pos * 2 ^ 8 + x.la * 2 ^ 12)⟩ := by
  have hr : r.toNat % 64 = r.toNat := Nat.mod_eq_of_lt (r.isLt.trans (by decide))
  simp only [Window.catches, if_true, List.contains_iff_mem, h, hr, bit, Nat.one_mul]
  rfl

theorem Window.catches_vreg_none {r : Nat} (h : r ∉ x.vregs) : x.catches (false, r) = none := by
  simp only [Window.catches, Bool.false_eq_true, if_false, List.contains_iff_mem, h]

theorem Window.catches_sreg_none {r : Nat} (h : r ∉ x.sregs) : x.catches (true, r) = none := by
  simp only [Window.catches, if_true, List.contains_iff_mem, h, if_false]
end

/-! ### Instructions with two operands -/

/-- Registers that a lane value spans. -/
def Group.span (g : Group) : Nat := if g.ty ∈ [2, 3, 9] then 2 else 1

theorem Group.span_eq (g : Group) : (if g.wide then 2 else 1) = g.span := by
  unfold Group.wide Group.span
  exact if_congr (by simp [or_assoc]) rfl rfl

theorem Group.span_cases (g : Group) : g.span = 1 ∨ g.span = 2 := by
  unfold Group.span
  split <;> simp

/-- The uses of an instruction with a destination and two operands. -/
def operandUses (span : Nat) (d : VReg) (a b : Operand) : List RegUse := [.v d.toNat span 0, use a span 1, use b span 2]

theorem map_from_operandUses (span : Nat) (d : VReg) (a b : Operand) : (operandUses span d a b).map (RegUse.from []) = operandUses span d a b := by
  simp only [operandUses, List.map_cons, List.map_nil, from_nil_use]
  rfl

theorem names_of_usesOf {c : Ctx} {s : State} {i : Instr} {d : VReg} {a b : Operand} (hi : ∃ body : Ctx → Res, exec i s = issue i s body)
    (hwf : i.wf = true) (hdue : c.g.dueAt i = c.g.dueWhisk) (hsrc : c.sources i = []) (hu : ∀ w, usesOf w i = operandUses w d a b) :
    c.Names s i (operandUses c.g.span d a b) := by
  refine ⟨hi, hwf, hdue, ?_⟩
  rw [Ctx.uses, hsrc, hu, map_from_operandUses, Group.span_eq]

theorem names_operands {c : Ctx} {s : State} {i : Instr} {d : VReg} {a b : Operand}
    (hi : i ∈ [.add d a b, .sub d a b, .mul d a b, .mulh d a b, .mad d a b, .msb d a b, .min d a b, .max d a b, .avg d a b, .shl d a b,
      .shr d a b, .sar d a b, .rol d a b, .fadd d a b, .fsub d a b, .fmul d a b, .fma d a b, .fms d a b, .fmin d a b, .fmax d a b,
      .fdiv d a b]) : c.Names s i (operandUses c.g.span d a b) := by
  simp only [List.mem_cons, List.not_mem_nil, or_false] at hi
  rcases hi with rfl | rfl | rfl | rfl | rfl | rfl | rfl | rfl | rfl | rfl | rfl | rfl | rfl | rfl | rfl | rfl | rfl | rfl | rfl | rfl | rfl
  all_goals exact names_of_usesOf ⟨_, rfl⟩ rfl rfl rfl fun _ => rfl

section
variable {c : Ctx} {s : State} {i : Instr} {d : VReg} {a b : Operand} (h : c.Names s i (operandUses c.g.span d a b)) (hi : Issues c s)

/-- A direct operand that order 3 lets pass. -/
def goodOperand (n span : Nat) (o : Operand) : Prop := o.pat ≠ .idx ∧ ¬ badReg n o.reg.toNat span

theorem goodOperand.range {n span : Nat} {o : Operand} (h : goodOperand n span o) (field : Nat) : rangeCheck n (use o span field) = none := by
  rw [use_direct h.1]
  exact rangeCheck_good h.2

theorem rangeCheck_use_none {n span : Nat} {o : Operand} (h : goodOperand n span o ∨ o.pat = .idx) (field : Nat) :
    rangeCheck n (use o span field) = none := h.elim (·.range field) (rangeCheck_use_indexed · n span field)

include h hi

theorem Ctx.Names.badDest (hd : badReg c.n d.toNat c.g.span) :
    TrapsWith c i s ⟨4, BitVec.ofNat 64 (d.toNat + 0 * 2 ^ 8 + if d.toNat % c.g.span ≠ 0 then 2 ^ 10 else 0)⟩ := by
  refine h.traps hi (Group.checkRegs_of_range ?_)
  rw [operandUses, firstSome_cons, rangeCheck_bad hd]
  rfl

theorem Ctx.Names.badA (hd : ¬ badReg c.n d.toNat c.g.span) (ha : a.pat ≠ .idx) (hbad : badReg c.n a.reg.toNat c.g.span) :
    TrapsWith c i s ⟨4, BitVec.ofNat 64 (a.reg.toNat + 1 * 2 ^ 8 + if a.reg.toNat % c.g.span ≠ 0 then 2 ^ 10 else 0)⟩ := by
  refine h.traps hi (Group.checkRegs_of_range ?_)
  rw [operandUses, firstSome_cons, rangeCheck_good hd, firstSome_cons, use_direct ha, rangeCheck_bad hbad]
  rfl

theorem Ctx.Names.badB (hd : ¬ badReg c.n d.toNat c.g.span) (ha : goodOperand c.n c.g.span a ∨ a.pat = .idx) (hb : b.pat ≠ .idx)
    (hbad : badReg c.n b.reg.toNat c.g.span) :
    TrapsWith c i s ⟨4, BitVec.ofNat 64 (b.reg.toNat + 2 * 2 ^ 8 + if b.reg.toNat % c.g.span ≠ 0 then 2 ^ 10 else 0)⟩ := by
  refine h.traps hi (Group.checkRegs_of_range ?_)
  rw [operandUses, firstSome_cons, rangeCheck_good hd, firstSome_cons, rangeCheck_use_none ha, firstSome_cons, use_direct hb, rangeCheck_bad hbad]
  rfl

omit h hi in
theorem operandUses_range {n span : Nat} (hd : ¬ badReg n d.toNat span) (ha : goodOperand n span a ∨ a.pat = .idx) (hb : goodOperand n span b) :
    firstSome (rangeCheck n) (operandUses span d a b) = none := by
  rw [operandUses, firstSome_cons, rangeCheck_good hd, firstSome_cons, rangeCheck_use_none ha, firstSome_cons, hb.range]
  rfl

theorem Ctx.Names.outOfBounds {l : Nat} (hl : l < 32) (hspan : c.g.span = 1) (hd : ¬ badReg c.n d.toNat c.g.span) (ha : a.pat = .idx)
    (hb : goodOperand c.n c.g.span b) (hact : c.g.active l = true)
    (hbad : c.g.reached a.reg.toNat l < c.g.lower (a.reg.toNat / 8) l ∨ c.g.upper c.n (a.reg.toNat / 8) l < c.g.reached a.reg.toNat l ∨
      c.n ≤ c.g.reached a.reg.toNat l)
    (hlow : ∀ k < l, c.g.active k = true → ¬ (c.g.reached a.reg.toNat k < c.g.lower (a.reg.toNat / 8) k ∨
      c.g.upper c.n (a.reg.toNat / 8) k < c.g.reached a.reg.toNat k ∨ c.n ≤ c.g.reached a.reg.toNat k)) :
    TrapsWith c i s ⟨5, BitVec.ofNat 64 (l + c.g.reached a.reg.toNat l * 2 ^ 5 + a.reg.toNat / 8 * 2 ^ 12)⟩ := by
  refine h.traps hi (Group.checkRegs_of_bounds (operandUses_range hd (.inr ha) hb) ?_ ?_)
  · rw [operandUses, firstSome_cons, firstSome_cons, firstSome_cons, use_indexed ha, hspan, Group.oddIndex_one, Group.oddIndex_use_direct _ hb.1]
    rfl
  · rw [operandUses, firstSome_cons, firstSome_cons, use_indexed ha, Group.boundsCheck_lowest hl hact hbad hlow]
    rfl

/-- The trap of a register that the window protects. -/
theorem Ctx.Names.protects {x : Window} (hd : ¬ badReg c.n d.toNat c.g.span) (ha : goodOperand c.n c.g.span a) (hb : goodOperand c.n c.g.span b)
    (hg : c.g.windows = [x]) (hx : x.pos ≤ x.la) :
    (d.toNat ∈ x.vregs → TrapsWith c i s ⟨6, BitVec.ofNat 64 (d.toNat + x.pos * 2 ^ 8 + x.la * 2 ^ 12)⟩) ∧
    (d.toNat ∉ x.vregs → d.toNat + 1 ∉ x.vregs → a.reg.toNat ∈ x.vregs →
      TrapsWith c i s ⟨6, BitVec.ofNat 64 (a.reg.toNat + x.pos * 2 ^ 8 + x.la * 2 ^ 12)⟩) := by
  have hwindow {t : Trap} (ht : firstSome x.catches ((operandUses c.g.span d a b).map c.g.touches).flatten = some t) : TrapsWith c i s t := by
    refine h.traps hi (Group.checkRegs_of_window (operandUses_range hd (.inl ha) hb) ?_ ?_ ((Group.lookahead_eq hg hx _).trans ht))
    · rw [operandUses, firstSome_cons, firstSome_cons, firstSome_cons, Group.oddIndex_use_direct _ ha.1, Group.oddIndex_use_direct _ hb.1]
      rfl
    · rw [operandUses, firstSome_cons, firstSome_cons, firstSome_cons, Group.boundsCheck_use_direct _ ha.1, Group.boundsCheck_use_direct _ hb.1]
      rfl
  have huses : ((operandUses c.g.span d a b).map c.g.touches).flatten =
      (List.range c.g.span).map (fun j => (false, d.toNat + j)) ++ ((List.range c.g.span).map (fun j => (false, a.reg.toNat + j)) ++
        ((List.range c.g.span).map (fun j => (false, b.reg.toNat + j)) ++ [])) := by
    rw [operandUses, use_direct ha.1, use_direct hb.1]
    rfl
  refine ⟨fun hmem => hwindow ?_, fun hmem hnext hamem => hwindow ?_⟩
  · rw [huses]
    rcases c.g.span_cases with hspan | hspan
    all_goals
      rw [hspan]
      exact firstSome_cons_some (Window.catches_vreg hmem) _
  · rw [huses]
    rcases c.g.span_cases with hspan | hspan
    · rw [hspan]
      exact (firstSome_cons_none (Window.catches_vreg_none hmem) _).trans (firstSome_cons_some (Window.catches_vreg hamem) _)
    · rw [hspan]
      exact (firstSome_cons_none (Window.catches_vreg_none hmem) _).trans
        ((firstSome_cons_none (Window.catches_vreg_none hnext) _).trans (firstSome_cons_some (Window.catches_vreg hamem) _))
end

theorem operandChecksTrap (c : Ctx) (s : State) (i : Instr) (d : VReg) (a b : Operand) (hi : Issues c s)
    (h : c.Names s i (operandUses c.g.span d a b)) :
    let out (r : BitVec 6) : Prop := c.n ≤ r.toNat ∨ r.toNat % c.g.span ≠ 0
    let trap (r : BitVec 6) (field : Nat) : Prop :=
      TrapsWith c i s ⟨4, BitVec.ofNat 64 (r.toNat + field * 2 ^ 8 + if r.toNat % c.g.span ≠ 0 then 2 ^ 10 else 0)⟩
    let direct (o : Operand) : Prop := o.pat ≠ .idx ∧ ¬ out o.reg
    (out d → trap d 0) ∧
    (¬ out d → a.pat ≠ .idx → out a.reg → trap a.reg 1) ∧
    (¬ out d → direct a ∨ a.pat = .idx → b.pat ≠ .idx → out b.reg → trap b.reg 2) ∧
    (∀ l < 32, c.g.span = 1 → ¬ out d → a.pat = .idx → direct b →
      let k := a.reg.toNat / 8
      let e (l : Nat) := c.g.index k l + a.reg.toNat % 8
      let bad (l : Nat) : Prop := e l < c.g.lower k l ∨ c.g.upper c.n k l < e l ∨ c.n ≤ e l
      c.g.active l = true → bad l → (∀ m < l, c.g.active m = true → ¬ bad m) →
      TrapsWith c i s ⟨5, BitVec.ofNat 64 (l + e l * 2 ^ 5 + k * 2 ^ 12)⟩) ∧
    (∀ x : Window, ¬ out d → direct a → direct b → c.g.windows = [x] → x.pos ≤ x.la →
      let trap (r : BitVec 6) : Prop := TrapsWith c i s ⟨6, BitVec.ofNat 64 (r.toNat + x.pos * 2 ^ 8 + x.la * 2 ^ 12)⟩
      (d.toNat ∈ x.vregs → trap d) ∧
      (d.toNat ∉ x.vregs → d.toNat + 1 ∉ x.vregs → a.reg.toNat ∈ x.vregs → trap a.reg)) :=
  ⟨h.badDest hi, h.badA hi, h.badB hi, fun _ hl hspan hd ha hb hact hbad hlow => h.outOfBounds hi hl hspan hd ha hb hact hbad hlow,
    fun _ hd ha hb hg hx => h.protects hi hd ha hb hg hx⟩

/-! ### Loads, stores and scalar instructions -/

theorem Ctx.Names.address {c : Ctx} {s : State} {i : Instr} {d a : VReg} {span : Nat} (h : c.Names s i [.v d.toNat span 3, .v a.toNat 2 1])
    (hi : Issues c s) :
    (badReg c.n d.toNat span → TrapsWith c i s ⟨4, BitVec.ofNat 64 (d.toNat + 3 * 2 ^ 8 + if d.toNat % span ≠ 0 then 2 ^ 10 else 0)⟩) ∧
    (¬ badReg c.n d.toNat span → badReg c.n a.toNat 2 →
      TrapsWith c i s ⟨4, BitVec.ofNat 64 (a.toNat + 1 * 2 ^ 8 + if a.toNat % 2 ≠ 0 then 2 ^ 10 else 0)⟩) := by
  refine ⟨fun hd => h.traps hi (Group.checkRegs_of_range ?_), fun hd ha => h.traps hi (Group.checkRegs_of_range ?_)⟩
  · rw [firstSome_cons, rangeCheck_bad hd]
    rfl
  · rw [firstSome_cons, rangeCheck_good hd, firstSome_cons, rangeCheck_bad ha]
    rfl

theorem names_address {c : Ctx} {s : State} {i : Instr} {d a : VReg} {l : La} {o : BitVec 8} {span : Nat}
    (hi : (span = 1 ∧ i ∈ [.ldw d a l o, .ldh d a l o, .ldb d a l o, .stw d a l o, .sth d a l o, .stb d a l o]) ∨
      (span = 2 ∧ i ∈ [.ldd d a l o, .std d a l o])) : c.Names s i [.v d.toNat span 3, .v a.toNat 2 1] := by
  simp only [List.mem_cons, List.not_mem_nil, or_false] at hi
  rcases hi with ⟨rfl, rfl | rfl | rfl | rfl | rfl | rfl⟩ | ⟨rfl, rfl | rfl⟩
  all_goals exact ⟨⟨_, rfl⟩, rfl, rfl, rfl⟩

theorem names_scalars {c : Ctx} {s : State} {i : Instr} {d a b : SReg}
    (hi : i ∈ [.sadd d a b, .ssub d a b, .smul d a b, .sand d a b, .sor d a b, .sxor d a b, .sceq d a b, .sclt d a b, .scltn d a b]) :
    c.Names s i [.s d, .s a, .s b] := by
  simp only [List.mem_cons, List.not_mem_nil, or_false] at hi
  rcases hi with rfl | rfl | rfl | rfl | rfl | rfl | rfl | rfl | rfl
  all_goals exact ⟨⟨_, rfl⟩, rfl, rfl, rfl⟩

theorem Ctx.Names.scalars {c : Ctx} {s : State} {i : Instr} {d a b : SReg} (h : c.Names s i [.s d, .s a, .s b]) (hi : Issues c s) {x : Window}
    (hg : c.g.windows = [x]) (hx : x.pos ≤ x.la) :
    let trap (r : SReg) : Prop := TrapsWith c i s ⟨6, BitVec.ofNat 64 (r.toNat + 2 ^ 6 + x.pos * 2 ^ 8 + x.la * 2 ^ 12)⟩
    (d.toNat ∈ x.sregs → trap d) ∧ (d.toNat ∉ x.sregs → a.toNat ∈ x.sregs → trap a) ∧
    (d.toNat ∉ x.sregs → a.toNat ∉ x.sregs → b.toNat ∈ x.sregs → trap b) := by
  have hwindow {t : Trap} (ht : firstSome x.catches [(true, d.toNat), (true, a.toNat), (true, b.toNat)] = some t) : TrapsWith c i s t :=
    h.traps hi (Group.checkRegs_of_window rfl rfl rfl ((Group.lookahead_eq hg hx _).trans ht))
  refine ⟨fun hd => hwindow ?_, fun hd ha => hwindow ?_, fun hd ha hb => hwindow ?_⟩
  · rw [firstSome_cons, Window.catches_sreg hd]
    rfl
  · rw [firstSome_cons, Window.catches_sreg_none hd, firstSome_cons, Window.catches_sreg ha]
    rfl
  · rw [firstSome_cons, Window.catches_sreg_none hd, firstSome_cons, Window.catches_sreg_none ha, firstSome_cons, Window.catches_sreg hb]
    rfl

theorem registerChecksTrap : RegisterChecksTrap :=
  ⟨fun c s i d a b h hi => operandChecksTrap c s i d a b h (names_operands hi), fun _ _ _ _ _ _ _ _ h hi => (names_address hi).address h,
    fun _ _ _ _ _ _ _ h hi hg hx => (names_scalars hi).scalars h hg hx⟩

/-- Settles O15: a word's own checks, then those of its registers, come before what the instruction does. -/
theorem trapInstructionsRaiseTheirCause : Obligations.TrapInstructionsRaiseTheirCause :=
  ⟨softwareTrapsRaiseTheirCause, reservedOpcodesTrapIllegal, reservedFieldsTrap, registerChecksTrap⟩

end Sys2Proof.Machine
end

section
/-!
SUPPORT. Translated accesses: what the page walks of an access leave, and the access once every lane has passed
(spec/09_core_memory_instr.md R198, R199, spec/17_package_memory.md R340 to R342).
-/
namespace Sys2Proof.Machine
open Sys2Proof.Spec

/-! ## A partition that a write to memory has touched -/

/-- From `P` to `Q` only what a write to memory may touch has changed: the caches, the exploration, a freeze that it begins. -/
structure Part.Touched (P Q : Part) : Prop where
  run : Q.run = P.run
  regs : Q.regs = P.regs
  mode : Q.choice.mode = P.choice.mode
  unacked : Q.unacked = P.unacked
  nextId : Q.nextId = P.nextId

theorem Part.Touched.refl (P : Part) : P.Touched P := ⟨rfl, rfl, rfl, rfl, rfl⟩
theorem Part.Touched.trans {P Q R : Part} (h : P.Touched Q) (h' : Q.Touched R) : P.Touched R :=
  ⟨h'.run.trans h.run, h'.regs.trans h.regs, h'.mode.trans h.mode, h'.unacked.trans h.unacked, h'.nextId.trans h.nextId⟩

theorem Part.Touched.partMode {P Q : Part} (h : P.Touched Q) : Q.mode = P.mode := by
  rw [Part.mode, Part.mode, Part.liveMode, Part.liveMode, h.run, h.mode]

theorem Part.touched_endExploration (P : Part) (x : BitVec 3) : P.Touched (P.endExploration x) := by
  unfold Part.endExploration
  dsimp only
  split <;> exact ⟨rfl, rfl, rfl, rfl, rfl⟩

/-! ## The record of a path (R380) -/

section
variable (P : Part)

/-- The outcome log has room. -/
def Part.leafRoom : Bool := decide (P.choice.olprod.toNat < P.choice.olcap.toNat)
/-- The outcome record of a path that has come to its end. -/
def Part.leafRecord (stall div undo : Bool) : Nat :=
  outcomeRecord P.sieve.path P.sieve.dec.toNat P.choice.leaves.toNat stall div P.sieve.isOver undo
    (((Table.get? P.run.launches P.sieve.launch).map (P.launchHash P.sieve.launch)).getD 0)
/-- Its place. -/
def Part.leafPlace : Nat := P.regs.shelfb.toNat + P.choice.olbase.toNat + P.choice.olprod.toNat * 128
/-- The choice registers after it. -/
def Part.leafChoice : Choice :=
  if P.leafRoom then { P.choice with olprod := P.choice.olprod + 1, leaves := P.choice.leaves + 1 } else P.choice
/-- The partition with the path's record counted. -/
def Part.leafCounted (stall : Bool) : Part := { P with choice := P.leafChoice, sieve := { P.sieve with ended := true, stalled := stall } }
/-- The partition after it. -/
def Part.leafOver (stall undo : Bool) : Part :=
  if P.leafChoice.leafState undo = 1 then P.leafCounted stall else (P.leafCounted stall).endExploration (P.leafChoice.leafState undo)

theorem Part.leafChoice_mode : P.leafChoice.mode = P.choice.mode := by
  unfold Part.leafChoice
  split <;> rfl

theorem Part.touched_leafOver (stall undo : Bool) : P.Touched (P.leafOver stall undo) := by
  have hc : P.Touched (P.leafCounted stall) := ⟨rfl, rfl, P.leafChoice_mode, rfl, rfl⟩
  unfold Part.leafOver
  split
  · exact hc
  · exact hc.trans (Part.touched_endExploration ..)
end

theorem State.leaf_eq {s : State} {p : PartNo} {P : Part} (hP : s.part? p = some P) (stall div undo : Bool) :
    s.leaf p stall div undo = if !P.exploring || P.sieve.ended then s else
      (if P.leafRoom then s.storeNum P.leafPlace 128 (P.leafRecord stall div undo) else s).setPart p (P.leafOver stall undo) := by
  rw [State.leaf, hP]
  rfl

/-- In the state the partition is one that `P` has been touched to. -/
def State.TouchedFrom (P : Part) (p : PartNo) (s : State) : Prop := ∃ Q, s.part? p = some Q ∧ P.Touched Q

section
variable {P Q : Part} {p : PartNo} {s : State}

theorem State.TouchedFrom.setPart (h : P.Touched Q) (s : State) : State.TouchedFrom P p (s.setPart p Q) := ⟨Q, State.part?_setPart_same .., h⟩

theorem State.TouchedFrom.modPart (h : s.TouchedFrom P p) {f : Part → Part} (hf : ∀ Q : Part, Q.Touched (f Q)) : (s.modPart p f).TouchedFrom P p := by
  obtain ⟨Q, hQ, ht⟩ := h
  exact ⟨f Q, State.part?_modPart_some hQ f, ht.trans (hf Q)⟩

theorem State.TouchedFrom.congr (h : s.TouchedFrom P p) {t : State} (ht : t.parts = s.parts) : t.TouchedFrom P p := by
  obtain ⟨Q, hQ, hT⟩ := h
  exact ⟨Q, (State.part?_congr ht p).trans hQ, hT⟩

theorem State.TouchedFrom.leaf (h : s.TouchedFrom P p) (a b u : Bool) : (s.leaf p a b u).TouchedFrom P p := by
  obtain ⟨Q, hQ, hT⟩ := h
  rw [State.leaf_eq hQ]
  split
  · exact ⟨Q, hQ, hT⟩
  · exact .setPart (hT.trans (Q.touched_leafOver ..)) _

theorem State.TouchedFrom.writeLine (h : s.TouchedFrom P p) (l : Nat) (bs : Table Byte) (ps : List Nat) : (s.writeLine p l bs ps).1.TouchedFrom P p := by
  obtain ⟨Q, hQ, hT⟩ := h
  have h : s.TouchedFrom P p := ⟨Q, hQ, hT⟩
  unfold State.writeLine
  rw [hQ]
  dsimp only
  split
  · exact h
  · split
    · split
      · exact h
      · refine State.TouchedFrom.congr (.setPart (hT.trans ?_) _) (State.storeLine_parts ..)
        exact ⟨rfl, rfl, rfl, rfl, rfl⟩
    · exact h.congr (State.storeLine_parts ..)

theorem State.TouchedFrom.putLine (h : s.TouchedFrom P p) (l : Nat) (bs : Table Byte) (ps : List Nat) : (s.putLine p l bs ps).TouchedFrom P p := by
  have hw := h.writeLine l bs ps
  unfold State.putLine
  split
  next t heq =>
    rw [heq] at hw
    exact hw
  next t heq =>
    rw [heq] at hw
    exact (hw.leaf ..).writeLine ..

theorem State.TouchedFrom.touch (h : s.TouchedFrom P p) (core : Nat) (acc : Acc) (va : Nat) (x : Xlate) : (s.touch p core acc va x).TouchedFrom P p := by
  unfold State.touch
  split
  · dsimp only
    split
    · refine State.TouchedFrom.modPart ?_ fun Q => ⟨rfl, rfl, rfl, rfl, rfl⟩
      split
      · exact h
      · exact h.putLine ..
    · exact h.modPart fun Q => ⟨rfl, rfl, rfl, rfl, rfl⟩
  · exact h

/-- The page walks of an access. -/
def State.walks (s : State) (p : PartNo) (core : Nat) (acc : Acc) (looks : List ((Nat × DWord) × Xlate)) : State :=
  looks.foldl (fun s x => s.touch p core acc (x.1.2.toNat % 2 ^ 56) x.2) s

theorem State.TouchedFrom.walks (h : s.TouchedFrom P p) (core : Nat) (acc : Acc) (looks : List ((Nat × DWord) × Xlate)) :
    (s.walks p core acc looks).TouchedFrom P p := by
  induction looks generalizing s with
  | nil => exact h
  | cons x looks ih => exact ih (h.touch core acc (x.1.2.toNat % 2 ^ 56) x.2)
end

/-- A team without some of its decline marks (R199). -/
def Team.unmark (vps : List Nat) (t : Team) : Team := { t with marks := t.marks.filter fun m => !vps.contains m }

/-! ## Accesses beside a change of the partition's work -/

/-- `f` changes the work of a partition alone, and of it nothing that an access or a walk looks at. -/
structure Part.Aside (f : Part → Part) : Prop where
  only : ∀ P Q : Part, Q.run = P.run → f Q = { Q with run := (f P).run }
  launches : ∀ P : Part, (f P).run.launches = P.run.launches
  held : ∀ P : Part, (f P).run.held = P.run.held
  mode : ∀ P : Part, (f P).mode = P.mode
  hash : ∀ (P : Part) (k : Nat) (l : Launch), (f P).launchHash k l = P.launchHash k l
  core : ∀ (P : Part) (gid : Nat), (f P).coreOf gid = P.coreOf gid

theorem Part.Aside.self {f : Part → Part} (hf : Part.Aside f) (P : Part) : f P = { P with run := (f P).run } := hf.only P P rfl

theorem Part.Aside.comp {f g : Part → Part} (hf : Part.Aside f) (hg : Part.Aside g) : Part.Aside fun P => g (f P) where
  only P Q h := by
    have hrun : (f Q).run = (f P).run := by rw [hf.only P Q h]
    rw [hg.only (f P) (f Q) hrun, hf.only P Q h]
  launches P := (hg.launches _).trans (hf.launches P)
  held P := (hg.held _).trans (hf.held P)
  mode P := (hg.mode _).trans (hf.mode P)
  hash P k l := (hg.hash _ k l).trans (hf.hash P k l)
  core P gid := (hg.core _ gid).trans (hf.core P gid)

theorem Part.launchHash_congr {P Q : Part} (h : ∀ tk, (Q.team? tk).map Team.hash = (P.team? tk).map Team.hash) (k : Nat) (l : Launch) :
    Q.launchHash k l = P.launchHash k l := by
  have hteam (R : Part) (n : Nat) : (match R.team? (keyIn k n) with
      | some u => u.hash
      | none => Table.getD l.hashes n 0) = ((R.team? (keyIn k n)).map Team.hash).getD (Table.getD l.hashes n 0) := by
    cases R.team? (keyIn k n) <;> rfl
  unfold Part.launchHash
  refine congrArg (gridHash l.teams) (funext fun n => ?_)
  exact (hteam Q n).trans ((congrArg (Option.getD · _) (h _)).trans (hteam P n).symm)

theorem Part.coreOf_congr {P Q : Part} (h : ∀ tk, (Q.team? tk).map Team.core = (P.team? tk).map Team.core) (gid : Nat) :
    Q.coreOf gid = P.coreOf gid := by
  unfold Part.coreOf
  exact if_congr Iff.rfl rfl (congrArg (Option.getD · 0) (h _))

/-- A team changed where no access looks. -/
theorem Part.Aside.modTeam (tk : Nat) {f : Team → Team} (hlaunch : ∀ t : Team, (f t).launch = t.launch) (hhash : ∀ t : Team, (f t).hash = t.hash)
    (hcore : ∀ t : Team, (f t).core = t.core) : Part.Aside (Part.modTeam · tk f) where
  only P Q h := by
    unfold Part.modTeam Part.modRun
    rw [h]
  launches P := rfl
  held P := rfl
  mode P := P.mode_modTeam tk (f := f) hlaunch
  hash P k l := Part.launchHash_congr (P := P) (fun n => by
    by_cases hk : n = tk
    · rw [hk, Part.team?_modTeam_same, Option.map_map]
      exact congrArg (Option.map · _) (funext hhash)
    · rw [Part.team?_modTeam_ne _ _ hk]) k l
  core P gid := Part.coreOf_congr (P := P) (fun n => by
    by_cases hk : n = tk
    · rw [hk, Part.team?_modTeam_same, Option.map_map]
      exact congrArg (Option.map · _) (funext hcore)
    · rw [Part.team?_modTeam_ne _ _ hk]) gid

/-- Work changed beside the teams. -/
theorem Part.Aside.modRun {f : Run → Run} (hteams : ∀ r : Run, (f r).teams = r.teams) (hlaunches : ∀ r : Run, (f r).launches = r.launches)
    (hheld : ∀ r : Run, (f r).held = r.held) : Part.Aside (Part.modRun · f) where
  only P Q h := by
    unfold Part.modRun
    rw [h]
  launches P := hlaunches _
  held P := hheld _
  mode P := by
    have hl : (P.modRun f).liveMode = P.liveMode := by
      rw [Part.liveMode, Part.liveMode, Part.modRun, hteams, hlaunches]
    rw [Part.mode, hl]
    rfl
  hash P k l := Part.launchHash_congr (P := P) (fun n => by rw [Part.team?, Part.team?, Part.modRun, hteams]) k l
  core P gid := Part.coreOf_congr (P := P) (fun n => by rw [Part.team?, Part.team?, Part.modRun, hteams]) gid

/-- A changed group is a change of its team, or of its home. -/
theorem Part.modGroup_cases (P : Part) (gid : Nat) (f : Group → Group) :
    P.modGroup gid f = P ∨ ∃ k, Part.Aside k ∧ P.modGroup gid f = k P := by
  unfold Part.modGroup
  cases P.group? gid with
  | none => exact .inl rfl
  | some g =>
    cases hw : isWhisk gid with
    | true => exact .inr ⟨(Part.modHome · gid fun h => { h with grp := f g }), .modRun (fun _ => rfl) (fun _ => rfl) fun _ => rfl, P.setGroup_of_whisk hw _⟩
    | false => exact .inr ⟨(Part.modTeam · (gidTeam gid) (Team.putGroup · (gidGroup gid) (f g))), .modTeam _ (fun _ => rfl) (fun _ => rfl) fun _ => rfl, P.setGroup_of_team hw _⟩

/-- A group put in the place of another. -/
theorem Part.Aside.modGroup (gid : Nat) (f : Group → Group) : Part.Aside (Part.modGroup · gid f) where
  only P Q h := by
    have hteam (g : Group) : (Q.setGroup gid g).run = (P.setGroup gid g).run := by
      cases hw : isWhisk gid with
      | true =>
        rw [Q.setGroup_of_whisk hw, P.setGroup_of_whisk hw]
        unfold Part.modHome Part.modRun
        rw [h]
      | false =>
        rw [Q.setGroup_of_team hw, P.setGroup_of_team hw]
        unfold Part.modTeam Part.modRun
        rw [h]
    have hrun : (Q.modGroup gid f).run = (P.modGroup gid f).run := by
      rw [Part.modGroup, Part.modGroup, Part.group?_congr h]
      cases P.group? gid with
      | none => exact h
      | some g => exact hteam _
    rw [← hrun]
    exact Q.modGroup_frame gid f
  launches P := by
    rcases P.modGroup_cases gid f with h | ⟨k, hk, h⟩
    · rw [h]
    · rw [h]
      exact hk.launches P
  held P := by
    rcases P.modGroup_cases gid f with h | ⟨k, hk, h⟩
    · rw [h]
    · rw [h]
      exact hk.held P
  mode P := by
    rcases P.modGroup_cases gid f with h | ⟨k, hk, h⟩
    · rw [h]
    · rw [h]
      exact hk.mode P
  hash P n l := by
    rcases P.modGroup_cases gid f with h | ⟨k, hk, h⟩
    · rw [h]
    · rw [h]
      exact hk.hash P n l
  core P n := by
    rcases P.modGroup_cases gid f with h | ⟨k, hk, h⟩
    · rw [h]
    · rw [h]
      exact hk.core P n

/-- `t` is `s` but for `f` of a partition: memory and all that a write to it looks at are the same. -/
structure State.Alike (p : PartNo) (f : Part → Part) (s t : State) : Prop where
  mem : t.mem = s.mem
  memPoison : t.memPoison = s.memPoison
  cxlDown : t.cxlDown = s.cxlDown
  part : t.part? p = (s.part? p).map f

section
variable {p : PartNo} {f : Part → Part} {s t : State} {P : Part}

theorem State.Alike.ofModPart (s : State) (p : PartNo) (f : Part → Part) : State.Alike p f s (s.modPart p f) :=
  ⟨rfl, rfl, rfl, State.part?_modPart ..⟩

theorem State.Alike.portDown (h : s.Alike p f t) (pa : Nat) : t.portDown pa = s.portDown pa := by
  rw [State.portDown, h.cxlDown, State.portDown]

theorem State.Alike.store (h : s.Alike p f t) (pa : Nat) (bs : List Byte) : (s.store pa bs).Alike p f (t.store pa bs) := by
  rw [State.store, State.store, h.portDown]
  split
  · exact h
  · exact ⟨by simp only [h.mem], by simp only [h.memPoison], h.cxlDown, h.part⟩

theorem State.Alike.storeLine (h : s.Alike p f t) (l : Nat) (bs : Table Byte) (ps : List Nat) :
    (s.storeLine l bs ps).Alike p f (t.storeLine l bs ps) :=
  ⟨by simp only [State.storeLine, h.mem], by simp only [State.storeLine, h.memPoison], h.cxlDown, h.part⟩

theorem State.Alike.setPart (h : s.Alike p f t) (P : Part) : (s.setPart p P).Alike p f (t.setPart p (f P)) :=
  ⟨h.mem, h.memPoison, h.cxlDown, by rw [State.part?_setPart_same, State.part?_setPart_same]; rfl⟩

theorem State.Alike.modPart (h : s.Alike p f t) {k : Part → Part} (hk : ∀ P : Part, k (f P) = f (k P)) :
    (s.modPart p k).Alike p f (t.modPart p k) := by
  refine ⟨h.mem, h.memPoison, h.cxlDown, ?_⟩
  rw [State.part?_modPart, State.part?_modPart, h.part]
  cases s.part? p with
  | none => rfl
  | some P => exact congrArg some (hk P)

/-- The partition of the state beside. -/
theorem State.Alike.partOf (h : s.Alike p f t) (hP : s.part? p = some P) : t.part? p = some (f P) := by
  rw [h.part, hP]
  rfl

variable (hf : Part.Aside f)
include hf

theorem Part.Aside.cache (P : Part) (n vp size : Nat) (leaf : DWord) : (f P).cache n vp size leaf = f (P.cache n vp size leaf) := by
  rw [hf.only P (P.cache n vp size leaf) rfl, hf.self P]
  rfl

theorem Part.Aside.endExploration (P : Part) (x : BitVec 3) : (f P).endExploration x = f (P.endExploration x) := by
  rw [hf.only P (P.endExploration x) (P.touched_endExploration x).run, hf.self P]
  unfold Part.endExploration
  dsimp only
  cases P.sieve.stalled <;> rfl

theorem Part.Aside.leafOver (P : Part) (stall undo : Bool) : (f P).leafOver stall undo = f (P.leafOver stall undo) := by
  have hchoice : (f P).leafChoice = P.leafChoice := by rw [hf.self P]; rfl
  have hc : (f P).leafCounted stall = f (P.leafCounted stall) := by
    rw [hf.only P (P.leafCounted stall) rfl, hf.self P]
    rfl
  rw [Part.leafOver, Part.leafOver, hchoice, hc]
  split
  · rfl
  · exact Part.Aside.endExploration hf ..

theorem Part.Aside.leafRecord (P : Part) (stall div undo : Bool) : (f P).leafRecord stall div undo = P.leafRecord stall div undo := by
  have hsieve : (f P).sieve = P.sieve := by rw [hf.self P]
  have hchoice : (f P).choice = P.choice := by rw [hf.self P]
  unfold Part.leafRecord
  rw [hsieve, hchoice, hf.launches]
  refine congrArg (fun o : Option DWord => outcomeRecord _ _ _ _ _ _ _ (o.getD 0)) ?_
  exact congrArg (Option.map · (Table.get? P.run.launches P.sieve.launch)) (funext fun l => hf.hash ..)

theorem State.Alike.leaf (h : s.Alike p f t) (hP : s.part? p = some P) (a b u : Bool) : (s.leaf p a b u).Alike p f (t.leaf p a b u) := by
  have hcond : (!(f P).exploring || (f P).sieve.ended) = (!P.exploring || P.sieve.ended) := by
    rw [Part.exploring, hf.mode, hf.self P]
    rfl
  have hroom : (f P).leafRoom = P.leafRoom := by rw [hf.self P]; rfl
  have hplace : (f P).leafPlace = P.leafPlace := by rw [hf.self P]; rfl
  rw [State.leaf_eq hP, State.leaf_eq (h.partOf hP), hcond, Part.Aside.leafOver hf, Part.Aside.leafRecord hf, hroom, hplace]
  split
  · exact h
  · refine State.Alike.setPart ?_ _
    split
    · exact h.store ..
    · exact h

theorem State.Alike.writeLine (h : s.Alike p f t) (hP : s.part? p = some P) (l : Nat) (bs : Table Byte) (ps : List Nat) :
    (s.writeLine p l bs ps).1.Alike p f (t.writeLine p l bs ps).1 ∧ (t.writeLine p l bs ps).2 = (s.writeLine p l bs ps).2 := by
  have hsieve : (f P).sieve = P.sieve := by rw [hf.self P]
  have hlogs : (f P).logs l = P.logs l := by
    rw [Part.logs, hf.mode, hsieve, hf.self P]
    rfl
  have hbytes : t.bytes (l * 128) 128 = s.bytes (l * 128) 128 := by simp only [State.bytes, h.mem]
  rw [State.writeLine, State.writeLine, hP, h.partOf hP]
  dsimp only
  rw [h.portDown, hlogs, hsieve]
  split
  · exact ⟨h, rfl⟩
  · split
    · split
      · exact ⟨h, rfl⟩
      · refine ⟨State.Alike.storeLine ?_ .., rfl⟩
        have hset (x : Sieve) : { f P with sieve := x } = f { P with sieve := x } := by
          rw [hf.only P { P with sieve := x } rfl, hf.self P]
        have hbase : (f P).regs = P.regs := by rw [hf.self P]
        rw [State.logLine, State.logLine, hbytes, h.memPoison, hset, hsieve, hbase]
        exact (h.store ..).setPart _
    · exact ⟨h.storeLine .., rfl⟩

theorem State.Alike.putLine (h : s.Alike p f t) (hP : s.part? p = some P) (l : Nat) (bs : Table Byte) (ps : List Nat) :
    (s.putLine p l bs ps).Alike p f (t.putLine p l bs ps) := by
  obtain ⟨h₁, hok⟩ := h.writeLine hf hP l bs ps
  obtain ⟨Q, hQ, -⟩ := State.TouchedFrom.writeLine ⟨P, hP, .refl P⟩ l bs ps
  unfold State.putLine
  generalize s.writeLine p l bs ps = x at h₁ hok hQ
  generalize t.writeLine p l bs ps = y at h₁ hok
  obtain ⟨s₁, a⟩ := x
  obtain ⟨t₁, b⟩ := y
  cases hok
  cases a with
  | true => exact h₁
  | false =>
    obtain ⟨R, hR, -⟩ := State.TouchedFrom.leaf ⟨Q, hQ, .refl Q⟩ false false true
    exact ((h₁.leaf hf hQ false false true).writeLine hf hR l bs ps).1

theorem State.Alike.touch (h : s.Alike p f t) (hP : s.part? p = some P) (core : Nat) (acc : Acc) (va : Nat) (x : Xlate) :
    (s.touch p core acc va x).Alike p f (t.touch p core acc va x) := by
  unfold State.touch
  split
  · dsimp only
    split
    · refine State.Alike.modPart ?_ fun P => ?_
      · split
        · exact h
        · exact h.putLine hf hP ..
      · rw [Part.Aside.cache hf, Part.Aside.cache hf]
    · exact h.modPart fun P => Part.Aside.cache hf ..
  · exact h

theorem State.Alike.walks (h : s.Alike p f t) (hP : s.part? p = some P) (core : Nat) (acc : Acc) (looks : List ((Nat × DWord) × Xlate)) :
    (s.walks p core acc looks).Alike p f (t.walks p core acc looks) := by
  induction looks generalizing s t P with
  | nil => exact h
  | cons x looks ih =>
    obtain ⟨Q, hQ, -⟩ := State.TouchedFrom.touch ⟨P, hP, .refl P⟩ core acc (x.1.2.toNat % 2 ^ 56) x.2
    exact ih (h.touch hf hP core acc (x.1.2.toNat % 2 ^ 56) x.2) hQ
end

/-! ## Translations beside such a change -/

/-- What the partitions own is the same. -/
theorem State.any_parts_modPart (s : State) (p : PartNo) (f : Part → Part) (q : Part → Bool) (hq : ∀ P : Part, q (f P) = q P) :
    ((s.modPart p f).parts.any fun e => q e.2) = s.parts.any fun e => q e.2 := by
  change (Table.modify s.parts p.toNat f).any _ = _
  rw [Table.modify, List.any_map]
  refine congrArg (List.any s.parts) (funext fun e => ?_)
  rw [Function.comp_apply]
  split
  · exact hq e.2
  · rfl

section
variable {f : Part → Part} (hf : Part.Aside f) (s : State) (p : PartNo) (P : Part) (acc : Acc) (va : Nat)
include hf

theorem Part.Aside.backed (tier lo size : Nat) : (s.modPart p f).backed tier lo size = s.backed tier lo size := by
  have h := s.any_parts_modPart p f (fun P => decide (P.regs.shelfb.toNat ≤ lo) && decide (lo + size ≤ P.shelfEnd)) fun P => by
    rw [hf.self P]
    rfl
  unfold State.backed
  dsimp only
  rw [h]

theorem Part.Aside.malformed (pte : DWord) (level : Nat) : (s.modPart p f).malformed pte level = s.malformed pte level := by
  unfold State.malformed
  simp only [hf.backed]

theorem Part.Aside.walk (level table : Nat) : (s.modPart p f).walk (f P) va level table = s.walk P va level table := by
  have hkey : (f P).regs = P.regs := by rw [hf.self P]
  induction level generalizing table with
  | zero =>
    unfold State.walk
    simp only [hf.malformed, hkey]
    rfl
  | succ l ih =>
    unfold State.walk
    simp only [hf.malformed, hkey, ih]
    rfl

theorem Part.Aside.hit (core : Nat) : (s.modPart p f).hit (f P) core acc va = s.hit P core acc va := by
  have hcached (n : Nat) : (f P).cached? n acc va = P.cached? n acc va := by rw [hf.self P]; rfl
  unfold State.hit
  simp only [hf.malformed, hcached]
  rfl

theorem Part.Aside.useLeaf (at' : Option Nat) (pte : DWord) (level : Nat) :
    (s.modPart p f).useLeaf (f P) acc va at' pte level = s.useLeaf P acc va at' pte level := by
  have hregs : (f P).regs = P.regs := by rw [hf.self P]
  have hcode (pa : Nat) : (f P).codePage pa = P.codePage pa := by rw [Part.codePage, hf.launches, hf.self P]; rfl
  have hobs : (f P).inObs va = P.inObs va := by rw [hf.self P]; rfl
  have hany := s.any_parts_modPart p f (fun P => decide (P.regs.shelfb.toNat < field pte 13 39 * 8192 + levelSize level) &&
      decide (field pte 13 39 * 8192 < P.regionEnd)) fun P => by
    rw [hf.self P]
    rfl
  unfold State.useLeaf
  dsimp only
  rw [hregs, hcode, hobs, hany]
  rfl

theorem Part.Aside.look (core : Nat) : (s.modPart p f).look (f P) core acc va = s.look P core acc va := by
  have hregs : (f P).regs = P.regs := by rw [hf.self P]
  unfold State.look State.walked
  rw [hf.hit, hregs, hf.walk]
  simp only [hf.useLeaf]
end

/-- `d` is `c` with its partition changed where no access looks. -/
def Ctx.Beside (f : Part → Part) (c d : Ctx) : Prop := ∃ g, d = { c with s := c.s.modPart c.p f, P := f c.P, g := g }

section
variable {f : Part → Part} {c d : Ctx}

theorem Ctx.Beside.look (hf : Part.Aside f) (h : c.Beside f d) (acc : Acc) (va : Nat) : d.look acc va = c.look acc va := by
  obtain ⟨g, rfl⟩ := h
  unfold Ctx.look
  rw [hf.core]
  exact hf.look ..

theorem State.walkReads_congr {s t : State} (h : t.mem = s.mem) (va level table : Nat) : t.walkReads va level table = s.walkReads va level table := by
  have hnum (a : Nat) : t.num a 8 = s.num a 8 := by simp only [State.num, State.bytes, h]
  induction level generalizing table with
  | zero => simp only [State.walkReads, hnum]
  | succ l ih => simp only [State.walkReads, hnum, ih]

theorem Ctx.Beside.touchHeld (hf : Part.Aside f) (h : c.Beside f d) (acc : Acc) (va : Nat) : d.touchHeld acc va = c.touchHeld acc va := by
  obtain ⟨g, rfl⟩ := h
  have hregs : (f c.P).regs = c.P.regs := by rw [hf.self c.P]
  have hreads := State.walkReads_congr (t := c.s.modPart c.p f) (s := c.s) rfl va 3 c.P.regs.ptroot.toNat
  rw [Ctx.touchHeld, Ctx.touchHeld, hf.core]
  dsimp only
  rw [hf.hit, hregs, hreads, hf.held]

theorem Ctx.Beside.maps (hf : Part.Aside f) (h : c.Beside f d) {acc : Acc} {items : List (Nat × DWord)} (hm : Maps c acc items) :
    Maps d acc items := fun e he => by
  rw [h.look hf, h.touchHeld hf]
  exact hm e he
end

/-! ## An access whose lanes all pass (R198) -/

/-- The translations of an access. -/
def Ctx.looks (c : Ctx) (acc : Acc) (items : List (Nat × DWord)) : List ((Nat × DWord) × Xlate) :=
  items.map fun e => (e, c.look acc (e.2.toNat % 2 ^ 56))

/-- The physical addresses of an access. -/
def Ctx.places (c : Ctx) (acc : Acc) (items : List (Nat × DWord)) : List (Nat × Bool) := items.map fun e => (c.look acc (e.2.toNat % 2 ^ 56)).pa

/-- Pages that an access finds valid. -/
def Ctx.foundPages (c : Ctx) (acc : Acc) (items : List (Nat × DWord)) : List Nat :=
  ((c.looks acc items).filter fun x => canonical x.1.2 && x.2.found).map fun x => x.1.2.toNat % 2 ^ 56 / 65536

/-- The context in which their decline marks are cleared. -/
def Ctx.unmark (c : Ctx) (acc : Acc) (items : List (Nat × DWord)) : Ctx :=
  if c.team?.any fun t => t.marks.any (c.foundPages acc items).contains then c.reload (c.s.clearMarks c.p c.tk (c.foundPages acc items)) else c

theorem walked_eq (c : Ctx) (acc : Acc) (items : List (Nat × DWord)) :
    walked c acc items = c.s.walks c.p (c.P.coreOf c.gid) acc (c.looks acc items) := by
  rw [State.walks, Ctx.looks, List.foldl_map]
  rfl

theorem unmarked_eq (c : Ctx) (acc : Acc) (items : List (Nat × DWord)) : unmarked c acc items = (c.unmark acc items).s := by
  have hpages : ((items.filter fun e => canonical e.2 && (c.look acc (e.2.toNat % 2 ^ 56)).found).map fun e => e.2.toNat % 2 ^ 56 / 65536) =
      c.foundPages acc items := by
    rw [Ctx.foundPages, Ctx.looks, List.filter_map, List.map_map]
    rfl
  rw [unmarked, hpages, Ctx.unmark]
  split
  · rw [Ctx.s_reload]
  · rfl

/-- A team's marks cleared. -/
theorem Part.Aside.unmark (tk : Nat) (vps : List Nat) : Part.Aside (Part.modTeam · tk (Team.unmark vps)) :=
  .modTeam tk (fun _ => rfl) (fun _ => rfl) fun _ => rfl

/-- What clearing the marks leaves: all of the context but them. -/
theorem Ctx.unmark_cases {c : Ctx} (hfit : c.Fits) (acc : Acc) (items : List (Nat × DWord)) :
    c.unmark acc items = c ∨ c.unmark acc items = { c with
      s := c.s.clearMarks c.p c.tk (c.foundPages acc items), P := c.P.modTeam c.tk (Team.unmark (c.foundPages acc items)) } := by
  unfold Ctx.unmark
  split
  · refine .inr (Ctx.reload_eq (State.part?_modPart_some hfit.part _) ?_)
    exact (Part.group?_modTeam c.P c.tk (Team.unmark _) (fun _ => rfl) c.gid).trans hfit.group
  · exact .inl rfl

/-- `c'` is `c` after the page walks of an access that has passed: its partition's work is the same but for decline marks. -/
structure Translated (c : Ctx) (acc : Acc) (items : List (Nat × DWord)) (c' : Ctx) : Prop where
  fits : c'.Fits
  p : c'.p = c.p
  gid : c'.gid = c.gid
  g : c'.g = c.g
  run : c'.P.run = { c.P.run with teams := c'.P.run.teams }
  teams : ∃ vps, c'.P.run.teams = Table.modify c.P.run.teams c.tk (Team.unmark vps)
  regs : c'.P.regs = c.P.regs
  mode : c'.P.mode = c.P.mode
  unacked : c'.P.unacked = c.P.unacked
  bytes : ∀ a, c'.s.byte a = (walked c acc items).byte a

theorem Team.unmark_nil (t : Team) : t.unmark [] = t := by
  have hm : (t.marks.filter fun m => !([] : List Nat).contains m) = t.marks := List.filter_eq_self.2 fun _ _ => rfl
  rw [Team.unmark, hm]

theorem Table.modify_unmark_nil (t : Table Team) (k : Nat) : Table.modify t k (Team.unmark []) = t := by
  rw [Table.modify]
  refine (List.map_congr_left fun e _ => ?_).trans (List.map_id t)
  rw [Team.unmark_nil]
  split <;> rfl

section
variable {c d : Ctx} {acc : Acc} {items : List (Nat × DWord)} {f : Part → Part}

/-- The walks of an access leave the same bytes beside such a change. -/
theorem Ctx.Beside.walked_byte (hf : Part.Aside f) (h : c.Beside f d) (hfit : c.Fits) (a : Nat) :
    (walked d acc items).byte a = (walked c acc items).byte a := by
  have hlooks : d.looks acc items = c.looks acc items := List.map_congr_left fun e _ => by rw [h.look hf]
  rw [walked_eq, walked_eq, hlooks]
  obtain ⟨g, rfl⟩ := h
  have halike := (State.Alike.ofModPart c.s c.p f).walks hf hfit.part (c.P.coreOf c.gid) acc (c.looks acc items)
  dsimp only
  rw [hf.core]
  exact congrArg (Cells.get 0 · a) halike.mem

/-- The walks from a context whose marks are cleared. -/
theorem Ctx.Fits.reload_walks_unmarked (hfit : c.Fits) (vps : List Nat) {d : Ctx}
    (hd : d = { c with s := c.s.clearMarks c.p c.tk vps, P := c.P.modTeam c.tk (Team.unmark vps) }) :
    Translated c acc items (d.reload (d.s.walks d.p (d.P.coreOf d.gid) acc (c.looks acc items))) := by
  have hf := Part.Aside.unmark c.tk vps
  have hbeside : c.Beside (Part.modTeam · c.tk (Team.unmark vps)) d := ⟨c.g, hd⟩
  have hbytes := hbeside.walked_byte (acc := acc) (items := items) hf hfit
  have hlooks : d.looks acc items = c.looks acc items := List.map_congr_left fun e _ => by rw [hbeside.look hf]
  simp only [walked_eq d, hlooks] at hbytes
  subst hd
  have hpart : (c.s.clearMarks c.p c.tk vps).part? c.p = some (c.P.modTeam c.tk (Team.unmark vps)) := State.part?_modPart_some hfit.part _
  have hgroup : (c.P.modTeam c.tk (Team.unmark vps)).group? c.gid = some c.g :=
    (Part.group?_modTeam c.P c.tk (Team.unmark vps) (fun _ => rfl) c.gid).trans hfit.group
  obtain ⟨Q, hQ, hT⟩ := State.TouchedFrom.walks ⟨_, hpart, .refl _⟩ ((c.P.modTeam c.tk (Team.unmark vps)).coreOf c.gid) acc (c.looks acc items)
  have hg : Q.group? c.gid = some c.g := (Part.group?_congr hT.run c.gid).trans hgroup
  dsimp only
  rw [Ctx.reload_eq (c := { c with s := c.s.clearMarks c.p c.tk vps, P := c.P.modTeam c.tk (Team.unmark vps) }) hQ hg]
  refine ⟨⟨hQ, hg⟩, rfl, rfl, rfl, ?_, ⟨vps, ?_⟩, hT.regs, ?_, hT.unacked, hbytes⟩
  · rw [hT.run]
    rfl
  · rw [hT.run]
    rfl
  · exact hT.partMode.trans (hf.mode _)

theorem Ctx.Fits.reload_walks (hfit : c.Fits) :
    Translated c acc items (c.reload (c.s.walks c.p (c.P.coreOf c.gid) acc (c.looks acc items))) := by
  obtain ⟨Q, hQ, hT⟩ := State.TouchedFrom.walks ⟨c.P, hfit.part, .refl c.P⟩ (c.P.coreOf c.gid) acc (c.looks acc items)
  have hg : Q.group? c.gid = some c.g := (Part.group?_congr hT.run c.gid).trans hfit.group
  rw [Ctx.reload_eq hQ hg]
  refine ⟨⟨hQ, hg⟩, rfl, rfl, rfl, ?_, ⟨[], ?_⟩, hT.regs, hT.partMode, hT.unacked, fun a => ?_⟩
  · rw [hT.run]
  · rw [hT.run, Table.modify_unmark_nil]
  · rw [walked_eq]

theorem Ctx.unmark_walks (hfit : c.Fits) :
    Translated c acc items ((c.unmark acc items).reload
      ((c.unmark acc items).s.walks (c.unmark acc items).p ((c.unmark acc items).P.coreOf (c.unmark acc items).gid) acc (c.looks acc items))) := by
  rcases c.unmark_cases hfit acc items with h | h
  · rw [h]
    exact hfit.reload_walks
  · exact hfit.reload_walks_unmarked _ h

theorem Ctx.unmark_p : (c.unmark acc items).p = c.p := by
  unfold Ctx.unmark
  split <;> simp
theorem Ctx.unmark_gid : (c.unmark acc items).gid = c.gid := by
  unfold Ctx.unmark
  split <;> simp
theorem Ctx.unmark_g (hfit : c.Fits) : (c.unmark acc items).g = c.g := by
  rcases c.unmark_cases hfit acc items with h | h <;> rw [h]
theorem Ctx.unmark_touchHeld (hfit : c.Fits) (va : Nat) : (c.unmark acc items).touchHeld acc va = c.touchHeld acc va := by
  rcases c.unmark_cases hfit acc items with h | h
  · rw [h]
  · exact Ctx.Beside.touchHeld (.unmark c.tk _) ⟨c.g, h⟩ acc va

/-- `translate` by its parts. -/
theorem Ctx.translate_eq (c : Ctx) (acc : Acc) (items : List (Nat × DWord)) (deny : List (Nat × Trap)) (body : Ctx → List (Nat × Bool) → Res) :
    c.translate acc items deny body =
      match (c.looks acc items).find? fun x => !canonical x.1.2 || (x.2.isInvalid && (c.unmark acc items).declined (x.1.2.toNat % 2 ^ 56 / 65536)) ||
          (c.unmark acc items).g.wait == some (.declined (x.1.2.toNat % 2 ^ 56 / 65536)) with
      | some x => .trap (if canonical x.1.2 then (c.unmark acc items).s.clearMarks (c.unmark acc items).p (c.unmark acc items).tk
          [x.1.2.toNat % 2 ^ 56 / 65536] else (c.unmark acc items).s) ⟨0x10, accessInfo x.1.2.toNat x.1.1 acc.code⟩
      | none => match (c.looks acc items).findSome? fun x => x.2.poison? with
        | some a => .gone ((c.unmark acc items).s.consumeBy (c.unmark acc items).p (c.unmark acc items).gid 3 (srcOfPa a) a)
        | none =>
        match firstOfPages (((c.looks acc items).filter fun x => x.2.isInvalid).map fun x =>
          (x.1.2.toNat % 2 ^ 56 / 65536, x.1.1, x.2 == .invalid true)) [] with
        | x :: rest => (c.unmark acc items).pageFault acc.code (x :: rest)
        | [] => match (c.looks acc items).find? fun x => x.2 == .denied || deny.any fun d => d.1 == x.1.1 with
          | some x => .trap (c.unmark acc items).s (match deny.find? fun d => d.1 == x.1.1 with
              | some d => d.2
              | none => ⟨0x11, accessInfo x.1.2.toNat x.1.1 acc.code⟩)
          | none =>
            if items.any fun e => (c.unmark acc items).touchHeld acc (e.2.toNat % 2 ^ 56) then .wait (c.unmark acc items).s .inFlight
            else body ((c.unmark acc items).reload ((c.unmark acc items).s.walks (c.unmark acc items).p
              ((c.unmark acc items).P.coreOf (c.unmark acc items).gid) acc (c.looks acc items))) ((c.looks acc items).map fun x => x.2.pa) := rfl

/-- Every lane passes. -/
theorem Ctx.translate_passes (hfit : c.Fits) (hw : c.g.wait = none) (hmaps : Maps c acc items) (body : Ctx → List (Nat × Bool) → Res) :
    ∃ c', Translated c acc items c' ∧ c.translate acc items [] body = body c' (c.places acc items) := by
  refine ⟨_, c.unmark_walks hfit, ?_⟩
  have hlook : ∀ x ∈ c.looks acc items, canonical x.1.2 = true ∧ ∃ pa obs at' pte level, x.2 = .ok pa obs at' pte level := by
    intro x hx
    obtain ⟨e, he, rfl⟩ := List.mem_map.1 hx
    obtain ⟨hcan, hok, -⟩ := hmaps e he
    exact ⟨hcan, hok⟩
  have hinvalid : ((c.looks acc items).filter fun x => x.2.isInvalid) = [] := List.filter_eq_nil_iff.2 fun x hx => by
    obtain ⟨-, pa, obs, at', pte, level, hxx⟩ := hlook x hx
    rw [hxx]
    exact Bool.false_ne_true
  have hbad : ((c.looks acc items).find? fun x => !canonical x.1.2 || (x.2.isInvalid && (c.unmark acc items).declined (x.1.2.toNat % 2 ^ 56 / 65536)) ||
      (c.unmark acc items).g.wait == some (.declined (x.1.2.toNat % 2 ^ 56 / 65536))) = none := List.find?_eq_none.2 fun x hx => by
    obtain ⟨hcan, pa, obs, at', pte, level, hxx⟩ := hlook x hx
    rw [hcan, hxx, Ctx.unmark_g hfit, hw]
    exact Bool.false_ne_true
  have hpoison : ((c.looks acc items).findSome? fun x => x.2.poison?) = none := List.findSome?_eq_none_iff.2 fun x hx => by
    obtain ⟨-, pa, obs, at', pte, level, hxx⟩ := hlook x hx
    rw [hxx]
    rfl
  have hdenied : ((c.looks acc items).find? fun x => x.2 == .denied || ([] : List (Nat × Trap)).any fun d => d.1 == x.1.1) = none :=
    List.find?_eq_none.2 fun x hx => by
      obtain ⟨-, pa, obs, at', pte, level, hxx⟩ := hlook x hx
      rw [hxx]
      exact Bool.false_ne_true
  have hheld : (items.any fun e => (c.unmark acc items).touchHeld acc (e.2.toNat % 2 ^ 56)) = false := List.any_eq_false.2 fun e he => by
    rw [Ctx.unmark_touchHeld hfit, (hmaps e he).2.2]
    exact Bool.false_ne_true
  have hplaces : ((c.looks acc items).map fun x => x.2.pa) = c.places acc items := by
    rw [Ctx.looks, List.map_map]
    rfl
  rw [Ctx.translate_eq, hbad, hpoison, hinvalid, hdenied, hheld, hplaces]
  rfl
end

end Sys2Proof.Machine
end

section
/-!
SUPPORT. Global loads and stores by rows: one address check, then the translated access (spec/09_core_memory_instr.md R198, R202, R206).
-/
namespace Sys2Proof.Machine
open Sys2Proof.Spec

/-! ## Bytes and addresses of an access -/

theorem leBytes_eq_map (n x : Nat) : leBytes n x = (List.range n).map fun k => BitVec.ofNat 8 (x / 256 ^ k) := by
  induction n generalizing x with
  | zero => rfl
  | succ n ih =>
    rw [leBytes, ih, List.range_succ_eq_map, List.map_cons, List.map_map]
    refine congrArg₂ List.cons (by simp) (List.map_congr_left fun k _ => ?_)
    rw [Function.comp_apply, Nat.pow_succ', Nat.div_div_eq_div_mul]

theorem leBytes_toNat {w : Nat} (n : Nat) (x : BitVec w) : leBytes n x.toNat = (List.range n).map fun k => x.extractLsb' (8 * k) 8 := by
  rw [leBytes_eq_map]
  refine List.map_congr_left fun k _ => BitVec.eq_of_toNat_eq ?_
  rw [BitVec.extractLsb'_toNat, BitVec.toNat_ofNat, Nat.shiftRight_eq_div_pow, Nat.pow_mul]

/-- The words of n registers, byte by byte. -/
theorem flatten_words (f : Nat → Word) (n : Nat) : ((List.range n).map fun j => leBytes 4 (f j).toNat).flatten =
    (List.range (4 * n)).map fun k => (f (k / 4)).extractLsb' (8 * (k % 4)) 8 := by
  induction n with
  | zero => rfl
  | succ n ih =>
    rw [List.range_succ, List.map_append, List.flatten_append, ih, Nat.mul_succ, List.range_add, List.map_append]
    refine congrArg (_ ++ ·) ?_
    rw [List.map_singleton, List.flatten_singleton, leBytes_toNat, List.map_map]
    refine List.map_congr_left fun k hk => ?_
    have hk := List.mem_range.1 hk
    rw [Function.comp_apply, show (4 * n + k) / 4 = n by omega, show (4 * n + k) % 4 = k by omega]

theorem Group.storeBytes_eq (g : Group) (d size lane : Nat) :
    g.storeBytes d size lane = (List.range size).map fun k => (g.vreg (d + k / 4) lane).extractLsb' (8 * (k % 4)) 8 := by
  rw [Group.storeBytes, flatten_words fun j => g.vreg (d + j) lane, ← List.map_take, List.take_range, Nat.min_eq_left (by omega)]

theorem Ctx.laneVas_eq (c : Ctx) (a : VReg) (o : BitVec 8) (size : Nat) : c.laneVas a o size = laneAddresses c a o size := by
  refine List.map_congr_left fun l _ => ?_
  rw [BitVec.signExtend, BitVec.ofInt_mul, BitVec.ofInt_natCast, Group.vpair, dword_eq_append]

theorem Ctx.scalarVa_eq (c : Ctx) (a : SReg) (o : BitVec 8) : [((0 : Nat), c.scalarVa a o)] = scalarAddress c a o := by
  rw [scalarAddress, BitVec.ofInt_mul, Ctx.scalarVa, BitVec.signExtend]
  rfl

/-! ## One access (R198) -/

/-- An access: the trap of its lowest misaligned lane, or its translated body. -/
def Ctx.access (c : Ctx) (acc : Acc) (size : Nat) (items : List (Nat × DWord)) (body : Ctx → List (Nat × Bool) → Res) : Res :=
  match misaligned size acc.code items with
  | some t => .trap c.s t
  | none => c.translate acc items [] body

section
variable {c : Ctx} {acc : Acc} {size kind : Nat} {items before after : List (Nat × DWord)} {l : Nat} {va : DWord}

theorem misaligned_none (h : ∀ e ∈ items, e.2.toNat % size = 0) : misaligned size kind items = none := by
  rw [misaligned, List.find?_eq_none.2, Option.map_none]
  intro e he
  simp [h e he]

theorem misaligned_lowest (hva : va.toNat % size ≠ 0) (h : ∀ e ∈ before, e.2.toNat % size = 0) :
    misaligned size kind (before ++ (l, va) :: after) = some ⟨0x12, accessInfo va.toNat l kind⟩ := by
  have hb : (before.find? fun e => e.2.toNat % size != 0) = none := List.find?_eq_none.2 fun e he => by simp [h e he]
  have hl : (((l, va) :: after).find? fun e => e.2.toNat % size != 0) = some (l, va) := List.find?_cons_of_pos (by simpa using hva)
  rw [misaligned, List.find?_append, hb, hl]
  rfl

theorem Ctx.access_aligned (h : ∀ e ∈ items, e.2.toNat % size = 0) (body : Ctx → List (Nat × Bool) → Res) :
    c.access acc size items body = c.translate acc items [] body := by
  rw [Ctx.access, misaligned_none h]

/-- Every lane's address is aligned and passes. -/
theorem Ctx.access_passes (hfit : c.Fits) (hw : c.g.wait = none) (h : ∀ e ∈ items, e.2.toNat % size = 0) (hmaps : Maps c acc items)
    (body : Ctx → List (Nat × Bool) → Res) :
    ∃ c', Translated c acc items c' ∧ c.access acc size items body = body c' (c.places acc items) := by
  rw [Ctx.access_aligned h]
  exact Ctx.translate_passes hfit hw hmaps body

/-- The lowest lane whose address is not canonical. -/
theorem Ctx.translate_not_canonical (hfit : c.Fits) (hw : c.g.wait = none) (hcan : canonical va = false) (hmaps : Maps c acc before)
    (body : Ctx → List (Nat × Bool) → Res) :
    c.translate acc (before ++ (l, va) :: after) [] body =
      .trap (unmarked c acc (before ++ (l, va) :: after)) ⟨0x10, accessInfo va.toNat l acc.code⟩ := by
  have hb : ((c.looks acc before).find? fun x => !canonical x.1.2 ||
      (x.2.isInvalid && (c.unmark acc (before ++ (l, va) :: after)).declined (x.1.2.toNat % 2 ^ 56 / 65536)) ||
      (c.unmark acc (before ++ (l, va) :: after)).g.wait == some (.declined (x.1.2.toNat % 2 ^ 56 / 65536))) = none :=
    List.find?_eq_none.2 fun x hx => by
      obtain ⟨e, he, rfl⟩ := List.mem_map.1 hx
      obtain ⟨hcan, ⟨pa, obs, at', pte, level, hxx⟩, -⟩ := hmaps e he
      dsimp only
      rw [hcan, hxx, Ctx.unmark_g hfit, hw]
      exact Bool.false_ne_true
  have hlooks : c.looks acc (before ++ (l, va) :: after) =
      c.looks acc before ++ ((l, va), c.look acc (va.toNat % 2 ^ 56)) :: c.looks acc after := List.map_append
  rw [Ctx.translate_eq, hlooks, List.find?_append, hb, Option.none_or, List.find?_cons_of_pos (by simp [hcan]), unmarked_eq]
  simp only [hcan, Bool.false_eq_true, if_false]
end

/-! ## Loads and stores by their rows -/

section
variable {c : Ctx} {s : State} {i : Instr}

/-- The scope of a load that is an acquire; 0 of any other (R204). -/
def Instr.loadScope : Instr → Nat
  | .ldacq _ _ _ sc => sc.toNat
  | _ => 0

/-- A load that is ready is one access to read. -/
theorem Ready.load_access (h : Ready c s i) {r : LoadRow} (hr : loadRow c i = some r) :
    ∃ body, exec i s = Machine.issue i s body ∧ body c = c.access .read r.size r.items fun c' pas =>
      c'.load r.dst r.size r.scalar r.la (Instr.loadScope i) (loadLanes r.items pas) := by
  unfold loadRow at hr
  split at hr
  case h_1 | h_2 | h_3 | h_4 | h_5 =>
    obtain rfl := Option.some.inj hr
    refine ⟨_, rfl, ?_⟩
    rw [Ctx.vload, Ctx.laneVas_eq]
    rfl
  case h_6 =>
    obtain rfl := Option.some.inj hr
    refine ⟨_, rfl, ?_⟩
    rw [Ctx.scalarVa_eq]
    rfl
  case h_7 d a l sc =>
    split at hr
    · cases hr
    next hsc =>
      obtain rfl := Option.some.inj hr
      refine ⟨_, rfl, ?_⟩
      dsimp only
      rw [h.fresh]
      dsimp only
      rw [if_neg fun hh => hsc hh.1, Ctx.acquireRead, Ctx.laneVas_eq]
      rfl
  case h_8 => cases hr

/-- What a `strel` does once its lanes have passed (R205). -/
def Ctx.strelBody (d : VReg) (sc : BitVec 3) (items : List (Nat × DWord)) (c : Ctx) (pas : List (Nat × Bool)) : Res :=
  if !c.g.drained then .wait c.s .inFlight
  else if sc.toNat ≤ 1 then c.store (c.strelPieces d items pas) fun c => .done c.s
  else if sc.toNat = 2 ∧ c.g.stage ≠ .anchored ∧ c.g.stage ≠ .committing ∧ c.team?.any fun t => c.filterRoom t pas then c.strelTeam d items pas
  else c.strelWide d (max 4 sc.toNat) items pas

theorem Ready.strel_access {d a : VReg} {l : La} {sc : BitVec 3} (h : Ready c s (.strel d a l sc)) (hw : isWhisk c.gid = false) :
    ∃ body, exec (.strel d a l sc) s = Machine.issue (.strel d a l sc) s body ∧
      body c = c.access .write 4 (laneAddresses c a 0 4) (Ctx.strelBody d sc (laneAddresses c a 0 4)) := by
  refine ⟨_, rfl, (Ctx.outside_team _ _ _ hw).trans ?_⟩
  rw [if_neg (by rw [h.fresh]; exact Stage.noConfusion), Ctx.laneVas_eq]
  rfl

/-- A store that is ready, of a team, is one access to write; a release waits for the group's loads and copies (R205). -/
theorem Ready.store_access (h : Ready c s i) (hw : isWhisk c.gid = false) {r : StoreRow} (hr : storeRow c i = some r) :
    ∃ body k, exec i s = Machine.issue i s body ∧ body c = c.access .write r.size r.items k ∧
      ∀ c' pas, c'.g = c.g → ((∃ d a l, i = .strel d a l 1) → c.g.drained = true) →
        k c' pas = c'.store ((r.items.zip pas).map fun e => piece e.1.2.toNat e.2.1 e.2.2 (r.bytes e.1.1)) fun c => .done c.s := by
  unfold storeRow at hr
  split at hr
  case h_1 | h_2 | h_3 | h_4 | h_5 =>
    obtain rfl := Option.some.inj hr
    refine ⟨_, _, rfl, (Ctx.outside_team _ _ _ hw).trans (by rw [Ctx.vstore, Ctx.laneVas_eq]; rfl), fun c' pas hg _ => ?_⟩
    simp only [Group.storeBytes_eq, hg, laneBytes]
  case h_6 =>
    obtain rfl := Option.some.inj hr
    refine ⟨_, _, rfl, (Ctx.outside_team _ _ _ hw).trans (by rw [Ctx.scalarVa_eq]; rfl), fun c' pas hg _ => ?_⟩
    simp only [leBytes_toNat, hg]
  case h_7 d a l sc =>
    split at hr
    next hsc =>
      obtain rfl := hsc
      obtain rfl := Option.some.inj hr
      obtain ⟨body, he, hb⟩ := h.strel_access hw
      refine ⟨body, _, he, hb, fun c' pas hg hd => ?_⟩
      rw [Ctx.strelBody, hg, hd ⟨d, a, l, rfl⟩, Ctx.strelPieces]
      simp only [Group.storeBytes_eq, hg, laneBytes]
      rfl
    · cases hr
  case h_8 => cases hr
end

end Sys2Proof.Machine
end

section
/-!
PROOF. The traps of an access for its lowest lane (spec/09_core_memory_instr.md R198).
-/
namespace Sys2Proof.Machine
open Sys2Proof.Spec

/-- An access whose lowest misaligned lane, or lowest lane without a canonical address, is `l`. -/
theorem Ready.access_traps {c : Ctx} {s : State} {i : Instr} (h : Ready c s i) {body : Ctx → Res} (he : exec i s = Machine.issue i s body)
    {acc : Acc} {size kind : Nat} (hkind : acc.code = kind) {before after : List (Nat × DWord)} {l : Nat} {va : DWord} {k : Ctx → List (Nat × Bool) → Res}
    (hb : body c = c.access acc size (before ++ (l, va) :: after) k) :
    (va.toNat % size ≠ 0 → (∀ e ∈ before, e.2.toNat % size = 0) → TrapsWith c i s ⟨0x12, accessInfo va.toNat l kind⟩) ∧
    ((∀ e ∈ before ++ (l, va) :: after, e.2.toNat % size = 0) → canonical va = false → Maps c acc before →
      exec i s = .next (((unmarked c acc (before ++ (l, va) :: after)).raiseTrap c.p c.gid
        ⟨0x10, accessInfo va.toNat l kind⟩).modPart c.p fun P => { P with fire := P.fire + 1 })) := by
  subst hkind
  constructor
  · intro hva hbefore
    refine h.trapsWith he (hb.trans ?_)
    rw [Ctx.access, misaligned_lowest hva hbefore]
  · intro hal hcan hmaps
    refine he.trans (h.ends_trap (hb.trans ?_))
    rw [Ctx.access_aligned hal, Ctx.translate_not_canonical h.fits h.noWait hcan hmaps]

/-- Settles O27: a load and a store is one access, whose lanes are checked from the lowest. -/
theorem accessesTrapForTheirLowestLane : Obligations.AccessesTrapForTheirLowestLane := by
  intro c s i size kind items h hrow before l va after hitems
  rcases hrow with ⟨r, hr, rfl, rfl, rfl⟩ | ⟨r, hr, hw, rfl, rfl, rfl⟩
  · obtain ⟨body, he, hb⟩ := h.load_access hr
    rw [if_pos rfl, hitems]
    rw [hitems] at hb
    exact h.access_traps he (kind := 0) rfl hb
  · obtain ⟨body, k, he, hb, -⟩ := h.store_access hw hr
    rw [if_neg Nat.one_ne_zero, hitems]
    rw [hitems] at hb
    exact h.access_traps he (kind := 1) rfl hb

end Sys2Proof.Machine
end

section
/-!
PROOF. Why the read of an `ldacq` at scope 6 may fail once its probes are answered: the model then takes the probe out of its partition,
which replaces every entry of the partition's number in the table of partitions by one. In a state that lists the partition a second time,
with a shelf of its own, frames of that shelf are backed before and not after (spec/09_core_memory_instr.md R204,
spec/17_package_memory.md R337, R340).
-/
namespace Sys2Proof.Machine
open Sys2Proof.Spec

/-! ## A state that lists a partition twice -/

/-- The second entry: its shelf begins at 0. -/
def shelfAtZero : Part := { loadedPart with regs := { loadedPart.regs with shelfb := 0 } }

/-- Every core has answered the probes of the loaded group's `ldacq`; address 0 is mapped to a frame of the second entry's shelf. -/
def listedTwice : State :=
  let s := State.reset.loadProgram.storeNum 0x14000 8 0x001000003000039F
  let s := (s.modGroup 0 loadedGroup fun g => { g with stage := .probing 7 }).modPart 0 fun P =>
    P.modRun fun r => { r with ops := [(7, .probe loadedGroup [] [])] }
  { s with parts := s.parts ++ [(0, shelfAtZero)], granules := Cells.set 0 s.granules 12 1, cur := some ⟨0, loadedGroup, .agrees⟩ }

/-- The access of one lane passes. -/
def passesCheck (c : Ctx) (acc : Acc) (e : Nat × DWord) : Bool :=
  canonical e.2 && !c.touchHeld acc (e.2.toNat % 2 ^ 56) && match c.look acc (e.2.toNat % 2 ^ 56) with
    | .ok _ _ _ _ _ => true
    | _ => false

theorem maps_of_check {c : Ctx} {acc : Acc} {items : List (Nat × DWord)} (h : items.all (passesCheck c acc) = true) : Maps c acc items := by
  intro e he
  have hp := List.all_eq_true.1 h e he
  rw [passesCheck, Bool.and_eq_true, Bool.and_eq_true, Bool.not_eq_true'] at hp
  obtain ⟨⟨hcan, hheld⟩, hlook⟩ := hp
  refine ⟨hcan, ?_, hheld⟩
  split at hlook
  next pa obs at' pte level heq => exact ⟨pa, obs, at', pte, level, heq⟩
  next => exact absurd hlook Bool.false_ne_true

/-- What the statement asks of the context, by evaluation. -/
def asksProbed (c : Ctx) : Bool :=
  decide (c.p = 0) && decide (c.gid = loadedGroup) && decide (c.g.stage = .probing 7) &&
    decide (Table.get? c.P.run.ops 7 = some (.probe loadedGroup [] [])) && !(laneAddresses c 2 0 4).isEmpty &&
    (laneAddresses c 2 0 4).all (fun e => e.2.toNat % 4 == 0) && (laneAddresses c 2 0 4).all (passesCheck c .read) &&
    decide (c.g.wait = none) && decide (c.g.count .ld < 255) &&
    (c.team?.all fun tm => tm.colander.isEmpty && tm.commit.isNone) && decide (c.P.run.ops = [(7, .probe loadedGroup [] [])])

theorem listedTwice_asks : listedTwice.issuer.any asksProbed = true := by decide +kernel

/-- The group of a state that an instruction has led to. -/
def groupAfter (i : Instr) (s : State) : Option Group :=
  match exec i s with
  | .next t => State.group? t 0 loadedGroup
  | _ => none

theorem groupAfter_listedTwice : (groupAfter (.ldacq 4 2 0 6) listedTwice).isNone = true := by decide +kernel

theorem colanderClean_of_check {c : Ctx} (hteam : (c.team?.all fun tm => tm.colander.isEmpty && tm.commit.isNone) = true)
    (hops : c.P.run.ops = [(7, .probe loadedGroup [] [])]) : ColanderClean c := by
  refine ⟨fun tm htm => ?_, fun e he => ?_⟩
  · rw [htm, Option.all_some, Bool.and_eq_true, List.isEmpty_iff, Option.isNone_iff_eq_none] at hteam
    obtain ⟨hcol, hcommit⟩ := hteam
    refine ⟨fun l hl => ?_, fun k hk => ?_⟩
    · rw [hcol] at hl
      cases hl
    · rw [hcommit] at hk
      cases hk
  · rw [hops] at he
    cases List.mem_singleton.1 he
    exact fun _ _ _ => Op.noConfusion

theorem not_acquiresAtScopeSixProbeFirst : ¬AcquiresAtScopeSixProbeFirst := by
  rintro ⟨-, h⟩
  obtain ⟨c, hc, hasks⟩ := (Option.any_eq_true ..).1 listedTwice_asks
  simp only [asksProbed, Bool.and_eq_true, decide_eq_true_eq] at hasks
  obtain ⟨⟨⟨⟨⟨⟨⟨⟨⟨⟨hp, hgid⟩, hstage⟩, hop⟩, hne⟩, hal⟩, hmaps⟩, hwait⟩, hcount⟩, hteam⟩, hops⟩ := hasks
  obtain ⟨t, g, hexec, hgroup, -⟩ := h c listedTwice 4 2 0 7 loadedGroup [] hc hstage hop (by simpa using hne)
    (fun e he => by simpa using List.all_eq_true.1 hal e he) (maps_of_check hmaps) hwait hcount (colanderClean_of_check hteam hops)
  have hnone := groupAfter_listedTwice
  rw [groupAfter, hexec] at hnone
  rw [hp, hgid] at hgroup
  dsimp only at hnone
  rw [hgroup] at hnone
  exact Bool.noConfusion hnone

/-- Refutes O25: in a state that lists a partition twice, the read of an `ldacq` at scope 6 whose probes are answered faults. -/
theorem not_loadsIssueAndProtectTheirRegisters : ¬Obligations.LoadsIssueAndProtectTheirRegisters :=
  fun h => not_acquiresAtScopeSixProbeFirst h.2

end Sys2Proof.Machine
end

section
/-!
SUPPORT. Instructions that complete with a window already done (spec/02_words_and_syntax.md R53, R54): the context that their effect leads
to, and what stands of it once they have completed.
-/
namespace Sys2Proof.Machine
open Sys2Proof.Spec

/-! ## The context after an effect -/

/-- `c'` is a context of the same group, and no byte of memory has changed from `c` to it. -/
structure Ctx.Leads (c c' : Ctx) : Prop where
  fits : c'.Fits
  p : c'.p = c.p
  gid : c'.gid = c.gid
  byte : ∀ a, c'.s.byte a = c.s.byte a

section
variable {c c' : Ctx} {P : Part} {g : Group}

theorem Ctx.Leads.refl (h : c.Fits) : c.Leads c := ⟨h, rfl, rfl, fun _ => rfl⟩

theorem Ctx.Leads.setG (h : c.Leads c') (g : Group) : c.Leads (c'.setG g) := ⟨h.fits.setG g, h.p, h.gid, h.byte⟩

theorem Ctx.Leads.setP (h : c.Leads c') (hg : P.group? c.gid = some g) : c.Leads (c'.setP P) :=
  ⟨.setP (h.gid ▸ hg), h.p, h.gid, h.byte⟩

theorem Ctx.Leads.tk (h : c.Leads c') : c'.tk = c.tk := by
  rw [Ctx.tk, h.gid]
  rfl

theorem Ctx.g_setP (hg : P.group? c.gid = some g) : (c.setP P).g = g := by
  rw [Ctx.setP_eq hg]
@[simp] theorem Ctx.P_setP (c : Ctx) (P : Part) : (c.setP P).P = P := rfl
@[simp] theorem Ctx.gid_setP (c : Ctx) (P : Part) : (c.setP P).gid = c.gid := rfl
@[simp] theorem Ctx.p_setP (c : Ctx) (P : Part) : (c.setP P).p = c.p := rfl
@[simp] theorem Ctx.tk_setP (c : Ctx) (P : Part) : (c.setP P).tk = c.tk := rfl

theorem Ctx.team?_P {t : Team} (h : c.team? = some t) : c.P.team? c.tk = some t :=
  (Ctx.team?_of_team (Ctx.not_whisk_of_team h)).symm.trans h

/-- A group is what the teams and the homes say. -/
theorem Part.group?_of_work {P Q : Part} (hteams : Q.run.teams = P.run.teams) (hhomes : Q.run.homes = P.run.homes) (gid : Nat) :
    Q.group? gid = P.group? gid := by
  rw [Part.group?, Part.group?, Part.team?, Part.team?, hteams, hhomes]

theorem Part.group?_modCore (P : Part) (core : Nat) (f : Core → Core) (gid : Nat) : (P.modCore core f).group? gid = P.group? gid :=
  Part.group?_of_work rfl rfl gid
end

/-! ## Tables of a partition whose cores or teams have changed -/

section
variable {P : Part} {core tk : Nat}

theorem Part.core?_modCore_same (P : Part) (core : Nat) (f : Core → Core) : (P.modCore core f).core? core = (P.core? core).map f :=
  Table.get?_modify_same ..
@[simp] theorem Part.core?_modTeam (P : Part) (tk core : Nat) (f : Team → Team) : (P.modTeam tk f).core? core = P.core? core := rfl
@[simp] theorem Part.team?_modCore (P : Part) (core tk : Nat) (f : Core → Core) : (P.modCore core f).team? tk = P.team? tk := rfl
@[simp] theorem Part.coreOf_modCore (P : Part) (core gid : Nat) (f : Core → Core) : (P.modCore core f).coreOf gid = P.coreOf gid := rfl

@[simp] theorem Part.cores_setGroup (P : Part) (gid : Nat) (g : Group) : (P.setGroup gid g).run.cores = P.run.cores := by
  cases h : isWhisk gid with
  | true => rw [P.setGroup_of_whisk h]; rfl
  | false => rw [P.setGroup_of_team h]; rfl
@[simp] theorem Part.dir_setGroup (P : Part) (gid : Nat) (g : Group) : (P.setGroup gid g).run.dir = P.run.dir := by
  cases h : isWhisk gid with
  | true => rw [P.setGroup_of_whisk h]; rfl
  | false => rw [P.setGroup_of_team h]; rfl
@[simp] theorem Part.ops_setGroup (P : Part) (gid : Nat) (g : Group) : (P.setGroup gid g).run.ops = P.run.ops := by
  cases h : isWhisk gid with
  | true => rw [P.setGroup_of_whisk h]; rfl
  | false => rw [P.setGroup_of_team h]; rfl
@[simp] theorem Part.core?_setGroup (P : Part) (gid core : Nat) (g : Group) : (P.setGroup gid g).core? core = P.core? core := by
  rw [Part.core?, Part.core?, Part.cores_setGroup]
end

/-! ## What stands once an instruction has completed -/

/-- In `t` the partition of `c` is `P`, with the group `g` in its place, and one firing more. -/
def Ended (c : Ctx) (P : Part) (g : Group) (t : State) : Prop := t.part? c.p = some (P.setGroup c.gid g).fired

section
variable {c c' : Ctx} {s t : State} {i : Instr} {P : Part} {g : Group} {body : Ctx → Res}

theorem Ended.coreIn (h : Ended c P g t) : coreIn t c = P.core? (c.P.coreOf c.gid) := by
  rw [Spec.coreIn, h]
  exact Part.core?_setGroup ..

theorem Ended.core (h : Ended c P g t) (n : Nat) : ((t.part? c.p).bind fun P => P.core? n) = P.core? n := by
  rw [h]
  exact Part.core?_setGroup ..

theorem Ended.dirIn (h : Ended c P g t) (n : Nat) : dirIn t c n = Table.get? P.run.dir n := by
  rw [Spec.dirIn, h]
  exact congrArg (Table.get? · n) (Part.dir_setGroup ..)

theorem Ended.tileIn (h : Ended c P g t) (n : Nat) : tileIn t c n = (P.core? (c.P.coreOf c.gid)).bind fun k => Table.get? k.tiles n := by
  rw [Spec.tileIn, h.coreIn]

theorem Ended.tagOf (h : Ended c P g t) (slot : Nat) : tagOf t c slot = P.tag? (c.P.coreOf c.gid) slot := by
  rw [Spec.tagOf, h]
  exact congrArg (Option.bind · fun k => Table.get? k.tags slot) (Part.core?_setGroup ..)

theorem Ended.op (h : Ended c P g t) (n : Nat) : ((t.part? c.p).bind fun P => Table.get? P.run.ops n) = Table.get? P.run.ops n := by
  rw [h]
  exact congrArg (Table.get? · n) (Part.ops_setGroup ..)

theorem Ended.teamIn (h : Ended c P g t) (hcore : isWhisk c.gid = false) {u : Team} (hu : P.team? c.tk = some u) :
    teamIn t c = some (u.putGroup (gidGroup c.gid) g) := by
  rw [Spec.teamIn, h]
  exact (Part.team?_setGroup_team P hcore g).trans (congrArg (Option.map _) hu)

/-- An instruction whose effect leads to `c'`, and which completes with the group `g`. -/
theorem Ready.leaves_of_done (h : Ready c s i) (he : exec i s = Machine.issue i s body) (hlead : c.Leads c') (hb : body c = .done (c'.put g))
    {rel : State → Group → Prop} (hrel : ∀ t, Ended c c'.P (g.completed (g.pc + 4)) t → rel t (g.completed (g.pc + 4))) : Leaves c i s rel := by
  have hpart := hlead.fits.part_put g
  rw [hlead.p, hlead.gid] at hpart
  have hgroup : (c'.P.setGroup c.gid g).group? c.gid = some g := Part.group?_setGroup _ _ _ _ (hlead.gid ▸ hlead.fits.group)
  obtain ⟨t, ht, hP, hg, hbyte⟩ := h.completes he hb hpart hgroup
  rw [Part.setGroup_setGroup] at hP
  exact ⟨t, _, ht, hg, hrel t hP, fun a => (hbyte a).trans ((hlead.byte a).trans (by rw [h.state]))⟩

/-- The group of an instruction with window LA that has completed at once, having protected scalars. -/
def Group.doneS (g : Group) (l : La) (rs : List SReg) : Group := (g.open l true [] (rs.map BitVec.toNat) 0).completed (g.pc + 4)

theorem Ready.leaves_doneS (h : Ready c s i) (he : exec i s = Machine.issue i s body) (hlead : c.Leads c') {l : La} {rs : List SReg}
    (hb : body c = c'.doneS l rs) {rel : State → Group → Prop} (hrel : ∀ t, Ended c c'.P (c'.g.doneS l rs) t → rel t (c'.g.doneS l rs)) :
    Leaves c i s rel := h.leaves_of_done he hlead hb hrel

theorem kept_doneS (c : Ctx) (l : La) (rs : List SReg) : Kept c (c.g.doneS l rs) := rfl

theorem keptBut_doneS (c : Ctx) (x : SReg) (v : DWord) (l : La) (rs : List SReg) : KeptBut c ((c.g.setS x v).doneS l rs) x v := by
  obtain ⟨hvalue, hothers, hwhole⟩ := c.g.setS_written x v
  exact ⟨⟨hvalue, hothers, hwhole⟩, rfl⟩

/-- An instruction that writes one scalar and is done. -/
theorem Ready.leaves_scalar (h : Ready c s i) (he : exec i s = Machine.issue i s body) (hlead : c.Leads c') (hg : c'.g = c.g) {x : SReg} {v : DWord}
    {l : La} {rs : List SReg} (hb : body c = (c'.setG (c'.g.setS x v)).doneS l rs) {rel : State → Group → Prop}
    (hrel : ∀ t, Ended c c'.P ((c.g.setS x v).doneS l rs) t → rel t ((c.g.setS x v).doneS l rs)) : Leaves c i s rel := by
  rw [hg] at hb
  exact h.leaves_of_done he hlead (hb.trans (congrArg Res.done (Ctx.put_setG ..))) hrel

/-- An instruction that only waits for something in flight. -/
theorem Ready.waits (h : Ready c s i) (he : exec i s = Machine.issue i s body) {w : Wait} (hw : w.before = true) (hb : body c = .wait c.s w) :
    ∃ t, exec i s = .next t ∧ t.group? c.p c.gid = some (c.g.waits w) := by
  rw [h.state] at hb
  refine ⟨_, he.trans (h.ends_wait hw hb), ?_⟩
  rw [State.group?_modGroup, h.group]
  rfl
end

end Sys2Proof.Machine
end

section
/-!
PROOF. The matrix instructions that act at once or wait (spec/08_core_state.md R195, spec/10_core_matrix_instr.md R230 to R232, R245 to R249,
R254, R255).
-/
namespace Sys2Proof.Machine
open Sys2Proof.Spec

/-! ## Reservations (R195, R230 to R232) -/

theorem field_eq (x : DWord) (lo len : Nat) : field x lo len = (x.extractLsb' lo len).toNat := by
  rw [BitVec.extractLsb'_toNat, Nat.shiftRight_eq_div_pow]
  rfl

theorem ofNat_field (x : DWord) (lo len : Nat) : BitVec.ofNat len (field x lo len) = x.extractLsb' lo len := by
  rw [field_eq, BitVec.ofNat_toNat, BitVec.setWidth_eq]

theorem firstFree_eq {α : Type} {t : Table α} {n k : Nat} (hk : k < n) (hfree : Table.get? t k = none) (hused : ∀ j < k, Table.get? t j ≠ none) :
    firstFree n (Table.has t) = some k := by
  refine List.find?_range_eq_some.2 ⟨?_, List.mem_range.2 hk, fun j hj => ?_⟩
  · rw [Table.has, hfree]
    rfl
  · rw [Table.has, Bool.not_not]
    exact Option.isSome_iff_ne_none.2 (hused j hj)

theorem Table.get?_filter_key {α : Type} (t : Table α) (f : Nat → Bool) (k : Nat) :
    Table.get? (t.filter fun e => f e.1) k = if f k = true then Table.get? t k else none := by
  induction t with
  | nil => split <;> rfl
  | cons e t ih =>
    rw [List.filter_cons]
    by_cases hk : e.1 = k
    · subst hk
      by_cases hf : f e.1 = true
      · rw [if_pos hf, if_pos hf, Table.get?, Table.get?, if_pos rfl, if_pos rfl]
      · rw [if_neg hf, ih, if_neg hf, if_neg hf]
    · by_cases hf : f e.1 = true
      · rw [if_pos hf, Table.get?, Table.get?, if_neg hk, if_neg hk, ih]
      · rw [if_neg hf, ih, Table.get?, if_neg hk]

theorem Cells.get_clear {w : Nat} (c : Cells w) (lo hi k : Nat) :
    Cells.get 0 (Cells.clear c lo hi) k = if lo ≤ k ∧ k < hi then 0 else Cells.get 0 c k := by
  have h := Table.get?_filter_key c (fun k => decide (k < lo) || decide (hi ≤ k)) k
  rw [Cells.get, Cells.get, Table.getD, Table.getD, Cells.clear, h]
  by_cases hk : lo ≤ k ∧ k < hi
  · rw [if_pos hk, if_neg (by simp; omega)]
    rfl
  · rw [if_neg hk, if_pos (by simp; omega)]

theorem reservationsAreMade (c : Ctx) (s : State) (x y : SReg) (l : La) (tm : Team) (k : Core) (h n : Nat) (hr : Ready c s (.obres x y l))
    (hteam : c.team? = some tm) (hcore : c.P.core? tm.core = some k) :
    let d := c.g.sreg y
    badReservation d = false → c.quotaTrap tm (d.extractLsb' 10 11).toNat (d.extractLsb' 21 12).toNat = none →
    h < tm.recQuota → Table.get? tm.handles h = none → (∀ j < h, Table.get? tm.handles j ≠ none) →
    n < 16 → Table.get? k.records n = none → (∀ j < n, Table.get? k.records j ≠ none) →
    Leaves c (.obres x y l) s fun t g => KeptBut c g x (BitVec.ofNat 64 h) ∧
      (∃ tm', teamIn t c = some tm' ∧ Table.get? tm'.handles h = some n) ∧
      (∃ k', (t.part? c.p).bind (fun P => P.core? tm.core) = some k' ∧
        Table.get? k'.records n = some ⟨d.getLsbD 3, BitVec.ofNat 4 tm.slot, d.extractLsb' 0 3, d.extractLsb' 4 6,
          d.extractLsb' 33 12, BitVec.ofNat 11 (tm.unitBase + (d.extractLsb' 10 11).toNat), d.extractLsb' 21 12⟩ ∧
        let first := (tm.unitBase + (d.extractLsb' 10 11).toNat) * 256
        let behind := first + (d.extractLsb' 21 12).toNat * 256
        ∀ b, Cells.get 0 k'.operand b = if first ≤ b ∧ b < behind then 0 else Cells.get 0 k.operand b) := by
  intro d hbad hquota hh hfree hused hn hnfree hnused
  have hw := Ctx.not_whisk_of_team hteam
  have hteamP : c.P.team? c.tk = some tm := Ctx.team?_P hteam
  rw [← field_eq, ← field_eq] at hquota
  let r : Reservation := ⟨d.getLsbD 3, BitVec.ofNat 4 tm.slot, BitVec.ofNat 3 (field d 0 3), BitVec.ofNat 6 (field d 4 6),
    BitVec.ofNat 12 (field d 33 12), BitVec.ofNat 11 (tm.unitBase + field d 10 11), BitVec.ofNat 12 (field d 21 12)⟩
  let f (k : Core) : Core := { k.clearUnits (tm.unitBase + field d 10 11) (field d 21 12) with
    records := Table.set k.records n r, cpoison := removeNum k.cpoison (recordWord n) }
  let P₁ := c.P.modCore tm.core f
  let P₂ := P₁.modTeam c.tk fun t => { t with handles := Table.set t.handles h n }
  have hg : P₂.group? c.gid = some c.g :=
    (Part.group?_modTeam P₁ c.tk (fun t => { t with handles := Table.set t.handles h n }) (fun _ => rfl) c.gid).trans hr.fits.group
  refine hr.leaves_scalar (l := l) (rs := [x]) (c' := c.setP P₂) rfl ((Ctx.Leads.refl hr.fits).setP hg) (Ctx.g_setP hg) ?_ fun t ht => ⟨keptBut_doneS .., ?_, ?_⟩
  · have hfirst : ((c.P.core? tm.core).bind fun k => firstFree 16 (Table.has k.records)) = some n := by
      rw [hcore]
      exact firstFree_eq hn hnfree hnused
    change (if badReservation d then _ else _) = _
    rw [hbad, hteam]
    dsimp only
    rw [hquota, firstFree_eq hh hfree hused, hfirst]
    rfl
  · have hP₂ : P₂.team? c.tk = some { tm with handles := Table.set tm.handles h n } := by
      rw [Part.team?_modTeam_same, Part.team?_modCore, hteamP]
      rfl
    exact ⟨_, ht.teamIn hw hP₂, Table.get?_set_same ..⟩
  · refine ⟨_, (ht.core _).trans ((Part.core?_modCore_same c.P tm.core f).trans (congrArg (Option.map f) hcore)), ?_, ?_⟩
    · refine (Table.get?_set_same ..).trans ?_
      simp only [r, ofNat_field]
      rw [field_eq]
    · intro first behind b
      refine (Cells.get_clear ..).trans ?_
      rw [show behind = (tm.unitBase + _ + _) * 256 from (Nat.add_mul ..).symm, field_eq, field_eq]


theorem Group.doneS_nil (g : Group) (l : La) : g.doneS l [] = (g.open l true [] [] 0).completed (g.pc + 4) := rfl

/-- An instruction that changes its core alone, and is done. -/
theorem Ready.leaves_core {c : Ctx} {s : State} {i : Instr} {body : Ctx → Res} {l : La} {f : Core → Core} (h : Ready c s i)
    (he : exec i s = Machine.issue i s body) (hb : body c = (c.setP (c.P.modCore (c.P.coreOf c.gid) f)).doneS l [])
    {rel : State → Group → Prop} (hrel : ∀ t, Ended c (c.P.modCore (c.P.coreOf c.gid) f) (c.g.doneS l []) t → rel t (c.g.doneS l [])) :
    Leaves c i s rel := by
  have hg : (c.P.modCore (c.P.coreOf c.gid) f).group? c.gid = some c.g := (Part.group?_modCore ..).trans h.fits.group
  have hsame : (c.setP (c.P.modCore (c.P.coreOf c.gid) f)).g = c.g := Ctx.g_setP hg
  refine h.leaves_doneS he ((Ctx.Leads.refl h.fits).setP hg) hb ?_
  rw [hsame]
  exact hrel

section
variable {c : Ctx} {t : State} {f : Core → Core} {g : Group} {k : Core}

theorem Ended.coreIn_modCore (h : Ended c (c.P.modCore (c.P.coreOf c.gid) f) g t) (hk : c.P.core? (c.P.coreOf c.gid) = some k) :
    Spec.coreIn t c = some (f k) := by
  rw [h.coreIn, Part.core?_modCore_same, hk]
  rfl

theorem Ended.tileIn_modCore (h : Ended c (c.P.modCore (c.P.coreOf c.gid) f) g t) (hk : c.P.core? (c.P.coreOf c.gid) = some k) (phys : Nat) :
    Spec.tileIn t c phys = Table.get? (f k).tiles phys := by
  rw [Spec.tileIn, h.coreIn_modCore hk]
  rfl
end

theorem Ctx.held_none {c : Ctx} {h op : Nat} {body : Reservation → Res} (hr : c.reservation h = none) :
    c.held h op body = .trap c.s (handleTrap 4 h op) := by
  rw [Ctx.held, hr]

theorem Ctx.held_some {c : Ctx} {h op : Nat} {body : Reservation → Res} {r : Reservation} (hr : c.reservation h = some r) :
    c.held h op body = body r := by
  rw [Ctx.held, hr]

theorem reservationsAreReleased (c : Ctx) (s : State) (y : SReg) (l : La) (hr : Ready c s (.obrel y l)) :
    let h := c.g.sreg y
    (h.toNat < 16 → c.reservation h.toNat = none → TrapsWith c (.obrel y l) s ⟨0x1A, BitVec.ofNat 64 (4 + h.toNat * 2 ^ 4 + 0xA1 * 2 ^ 32)⟩) ∧
    (∀ tm r, h.toNat < 16 → c.team? = some tm → c.reservation h.toNat = some r →
      (∀ m ∈ c.matrixOps, m.meets [(r.base.toNat * 256, r.len.toNat * 256)] = false) →
      Leaves c (.obrel y l) s fun t g => Kept c g ∧ (∃ tm', teamIn t c = some tm' ∧ Table.get? tm'.handles h.toNat = none) ∧
        ∀ n, Table.get? tm.handles h.toNat = some n → ∃ k', coreIn t c = some k' ∧ Table.get? k'.records n = none) := by
  intro h
  refine ⟨fun hlow hnone => hr.trapsWith rfl ?_, fun tm r hlow hteam hsome hfree => ?_⟩
  · exact (if_neg (Nat.not_le.2 hlow)).trans (Ctx.held_none hnone)
  have hw := Ctx.not_whisk_of_team hteam
  have hteamP : c.P.team? c.tk = some tm := Ctx.team?_P hteam
  obtain ⟨n, hn, k, hk, hrec⟩ : ∃ n, Table.get? tm.handles h.toNat = some n ∧ ∃ k, c.P.core? (c.P.coreOf c.gid) = some k ∧
      Table.get? k.records n = some r := by
    rw [Ctx.reservation, hteam] at hsome
    obtain ⟨n, hn, hsome⟩ := Option.bind_eq_some_iff.1 hsome
    obtain ⟨k, hk, hrec⟩ := Option.bind_eq_some_iff.1 hsome
    exact ⟨n, hn, k, hk, hrec⟩
  let f (k : Core) : Core := { k with records := Table.erase k.records n }
  let u (t : Team) : Team := { t with handles := Table.erase t.handles h.toNat }
  let P := (c.P.modCore (c.P.coreOf c.gid) f).modTeam c.tk u
  have hg : P.group? c.gid = some c.g := (Part.group?_modTeam _ c.tk u (fun _ => rfl) c.gid).trans hr.fits.group
  have hsame : (c.setP P).g = c.g := Ctx.g_setP hg
  refine hr.leaves_doneS (l := l) (rs := []) rfl ((Ctx.Leads.refl hr.fits).setP hg) ?_ ?_
  · have hmeet : (c.matrixOps.find? fun m => m.meets [r.range]) = none :=
      List.find?_eq_none.2 fun m hm => Bool.eq_false_iff.1 (hfree m hm)
    have hbound : (c.team?.bind fun t => Table.get? t.handles h.toNat) = some n := by
      rw [hteam]
      exact hn
    refine (if_neg (Nat.not_le.2 hlow)).trans ((Ctx.held_some hsome).trans ?_)
    rw [hmeet, hbound]
    rfl
  · rw [hsame]
    intro t ht
    refine ⟨kept_doneS .., ⟨_, ht.teamIn hw ((Part.team?_modTeam_same ..).trans (congrArg (Option.map u) hteamP)), ?_⟩, fun m hm => ?_⟩
    · exact (Table.get?_erase ..).trans (if_pos rfl)
    · obtain rfl : n = m := Option.some.inj (hn.symm.trans hm)
      exact ⟨f k, ht.coreIn.trans ((Part.core?_modCore_same ..).trans (congrArg (Option.map f) hk)),
        (Table.get?_erase ..).trans (if_pos rfl)⟩

/-! ## Tiles (R248, R249) -/

theorem Ctx.tileName_of_team {c : Ctx} {t : BitVec 3} {u : Team} {body : Option Nat → Res} (hteam : c.team? = some u) (hq : t.toNat < u.accQuota) :
    c.tileName t body = body (Table.get? u.tiles t.toNat) := by
  rw [Ctx.tileName, hteam]
  exact if_neg (Nat.not_le.2 hq)

theorem Ctx.tileName_over {c : Ctx} {t : BitVec 3} {u : Team} {body : Option Nat → Res} (hteam : c.team? = some u) (hq : u.accQuota ≤ t.toNat) :
    c.tileName t body = .trap c.s (trapOf 0x1B t.toNat) := by
  rw [Ctx.tileName, hteam]
  exact if_pos hq

theorem loWord_eq (d : DWord) : loWord d = d.extractLsb' 0 32 := by
  rw [loWord, BitVec.extractLsb', Nat.shiftRight_zero]

theorem hiWord_eq (d : DWord) : hiWord d = d.extractLsb' 32 32 := by
  rw [hiWord, BitVec.extractLsb', Nat.shiftRight_eq_div_pow]

theorem Ctx.onTile_over {c : Ctx} {t : BitVec 3} {u : Team} {body : Nat → Tile → Res} (hteam : c.team? = some u) (hq : u.accQuota ≤ t.toNat) :
    c.onTile t body = .trap c.s (trapOf 0x1B t.toNat) := by
  rw [Ctx.onTile, Ctx.tileBound, Ctx.tileName_over hteam hq]

section
variable {c : Ctx} {t : BitVec 3} {phys : Nat} {x : Tile}

theorem Ctx.tileName_of_free {others : Bool} {body : Option Nat → Res} (h : TileFree c t phys x others) : c.tileName t body = body (some phys) := by
  obtain ⟨u, hteam, hq, hphys⟩ := h.quota
  rw [Ctx.tileName_of_team hteam hq, hphys]

theorem Ctx.onTile_of_free {body : Nat → Tile → Res} (h : TileFree c t phys x false) : c.onTile t body = body phys x := by
  rw [Ctx.onTile, Ctx.tileBound, Ctx.tileName_of_free h]
  dsimp only
  rw [h.free, h.tile]
  rfl

theorem core_of_tileFree {others : Bool} (h : TileFree c t phys x others) :
    ∃ k, c.P.core? (c.P.coreOf c.gid) = some k ∧ Table.get? k.tiles phys = some x := Option.bind_eq_some_iff.1 h.tile

theorem team_of_tileFree {others : Bool} (h : TileFree c t phys x others) : isWhisk c.gid = false := by
  obtain ⟨u, hteam, -⟩ := h.quota
  exact Ctx.not_whisk_of_team hteam
end

section
variable {c : Ctx} {s : State} {i : Instr} {l : La} {body : Ctx → Res} {k : Core} {phys : Nat} {x : Tile}

theorem Ready.leaves_setTile (hr : Ready c s i) (he : exec i s = Machine.issue i s body) (hk : c.P.core? (c.P.coreOf c.gid) = some k)
    (hb : body c = (c.setTile phys x).doneS l []) : Leaves c i s fun u g => Kept c g ∧ tileIn u c phys = some x :=
  hr.leaves_core (f := fun k => { k with tiles := Table.set k.tiles phys x }) he hb fun _ hu =>
    ⟨kept_doneS .., (hu.tileIn_modCore hk phys).trans (Table.get?_set_same ..)⟩

theorem Ready.leaves_freshTile (hr : Ready c s i) (he : exec i s = Machine.issue i s body) (hk : c.P.core? (c.P.coreOf c.gid) = some k)
    (hb : body c = (c.freshTile phys x).doneS l []) : Leaves c i s fun u g => Kept c g ∧ tileIn u c phys = some x :=
  hr.leaves_core (f := fun k => { k with tiles := Table.set k.tiles phys x, written := removeNum k.written (tileNumber phys) }) he hb
    fun _ hu => ⟨kept_doneS .., (hu.tileIn_modCore hk phys).trans (Table.get?_set_same ..)⟩
end

theorem tilesAreConfigured (c : Ctx) (s : State) (y : SReg) (l : La) (t : BitVec 3) (phys : Nat) (x : Tile) (hfree : TileFree c t phys x false) :
    let row := (c.g.sreg y).extractLsb' 0 32
    let col := (c.g.sreg y).extractLsb' 32 32
    (Ready c s (.acfg y 0 l t) → Leaves c (.acfg y 0 l t) s fun u g => Kept c g ∧ tileIn u c phys = some ⟨row, col, [], []⟩) ∧
    (Ready c s (.acfg y 1 l t) →
      Leaves c (.acfg y 1 l t) s fun u g => Kept c g ∧ tileIn u c phys = some { x with row0 := row, col0 := col }) ∧
    (Ready c s (.azero l t) →
      Leaves c (.azero l t) s fun u g => Kept c g ∧ tileIn u c phys = some { x with cells := [], poison := [] }) ∧
    (Ready c s (.arel l t) →
      Leaves c (.arel l t) s fun u g => Kept c g ∧ tileIn u c phys = none ∧ ∃ tm, teamIn u c = some tm ∧ Table.get? tm.tiles t.toNat = none) := by
  intro row col
  have hrow : loWord (c.g.sreg y) = row := loWord_eq _
  have hcol : hiWord (c.g.sreg y) = col := hiWord_eq _
  obtain ⟨k, hk, -⟩ := core_of_tileFree hfree
  refine ⟨fun hr => ?_, fun hr => ?_, fun hr => ?_, fun hr => ?_⟩
  · refine hr.leaves_freshTile (l := l) rfl hk ?_
    refine (if_neg (by decide)).trans ((if_neg (by decide)).trans ((Ctx.tileName_of_free hfree).trans ?_))
    dsimp only
    rw [hfree.free, hrow, hcol]
  · refine hr.leaves_setTile (l := l) rfl hk ?_
    rw [← hrow, ← hcol]
    exact (if_neg (by decide)).trans ((if_pos rfl).trans (Ctx.onTile_of_free hfree))
  · exact hr.leaves_freshTile (l := l) rfl hk (Ctx.onTile_of_free hfree)
  · obtain ⟨tm, hteam, -⟩ := hfree.quota
    have hw := team_of_tileFree hfree
    have hteamP : c.P.team? c.tk = some tm := Ctx.team?_P hteam
    let f (k : Core) : Core := { k with tiles := Table.erase k.tiles phys }
    let e (u : Team) : Team := { u with tiles := Table.erase u.tiles t.toNat }
    let P := (c.P.modCore (c.P.coreOf c.gid) f).modTeam c.tk e
    have hg : P.group? c.gid = some c.g := (Part.group?_modTeam _ c.tk e (fun _ => rfl) c.gid).trans hr.fits.group
    refine hr.leaves_doneS (l := l) (rs := []) rfl ((Ctx.Leads.refl hr.fits).setP hg) ?_ ?_
    · refine (Ctx.tileName_of_free hfree).trans ?_
      dsimp only
      rw [hfree.free]
    · rw [Ctx.g_setP hg]
      intro u hu
      refine ⟨kept_doneS .., ?_, _, hu.teamIn hw ((Part.team?_modTeam_same ..).trans (congrArg (Option.map e) hteamP)), ?_⟩
      · have hcore : P.core? (c.P.coreOf c.gid) = some (f k) := (Part.core?_modCore_same ..).trans (congrArg (Option.map f) hk)
        rw [hu.tileIn, Ctx.P_setP, hcore]
        exact (Table.get?_erase ..).trans (if_pos rfl)
      · exact (Table.get?_erase ..).trans (if_pos rfl)

theorem firstFree_some {α : Type} {t : Table α} {m : Nat} (h : ∃ n < m, Table.get? t n = none) :
    ∃ n, firstFree m (Table.has t) = some n ∧ n < m ∧ Table.get? t n = none := by
  obtain ⟨n, hn, hnone⟩ := h
  cases hf : firstFree m (Table.has t) with
  | none =>
    have hused := List.find?_eq_none.1 hf n (List.mem_range.2 hn)
    rw [Table.has, hnone] at hused
    exact absurd rfl hused
  | some j =>
    have hfree := List.find?_some hf
    refine ⟨j, rfl, List.mem_range.1 (List.mem_of_find?_eq_some hf), ?_⟩
    rw [Table.has, Bool.not_eq_true', Option.isSome_eq_false_iff, Option.isNone_iff_eq_none] at hfree
    exact hfree

theorem tileIsBound (c : Ctx) (s : State) (y : SReg) (l : La) (t : BitVec 3) (tm : Team) (k : Core) (hr : Ready c s (.acfg y 0 l t))
    (hteam : c.team? = some tm) (hq : t.toNat < tm.accQuota) (hunbound : Table.get? tm.tiles t.toNat = none)
    (hk : c.P.core? (c.P.coreOf c.gid) = some k) (hfree : ∃ n < 8, Table.get? k.tiles n = none) :
    Leaves c (.acfg y 0 l t) s fun u g => Kept c g ∧ ∃ tm' n, n < 8 ∧ Table.get? k.tiles n = none ∧ teamIn u c = some tm' ∧
      Table.get? tm'.tiles t.toNat = some n ∧
      tileIn u c n = some ⟨(c.g.sreg y).extractLsb' 0 32, (c.g.sreg y).extractLsb' 32 32, [], []⟩ := by
  have hw := Ctx.not_whisk_of_team hteam
  have hteamP : c.P.team? c.tk = some tm := Ctx.team?_P hteam
  obtain ⟨n, hfirst, hn, hnone⟩ := firstFree_some hfree
  let e (u : Team) : Team := { u with tiles := Table.set u.tiles t.toNat n }
  let f (k : Core) : Core := { k with
    tiles := Table.set k.tiles n ⟨loWord (c.g.sreg y), hiWord (c.g.sreg y), [], []⟩, written := removeNum k.written (tileNumber n) }
  let P₁ := c.P.modTeam c.tk e
  let P := P₁.modCore (c.P.coreOf c.gid) f
  have hcoreOf : (c.P.modTeam c.tk e).coreOf c.gid = c.P.coreOf c.gid := by
    rw [Part.coreOf, Part.coreOf, hw, if_neg Bool.false_ne_true, if_neg Bool.false_ne_true]
    change ((((c.P.modTeam c.tk e).team? c.tk).map Team.core).getD 0) = (((c.P.team? c.tk).map Team.core).getD 0)
    rw [Part.team?_modTeam_same, hteamP]
    rfl
  have hgroup₁ : P₁.group? c.gid = some c.g := (Part.group?_modTeam _ c.tk e (fun _ => rfl) c.gid).trans hr.fits.group
  have hgroup : P.group? c.gid = some c.g := (Part.group?_modCore ..).trans hgroup₁
  have hlead : c.Leads ((c.setP P₁).setP P) := ((Ctx.Leads.refl hr.fits).setP hgroup₁).setP hgroup
  refine hr.leaves_doneS (c' := (c.setP P₁).setP P) (l := l) (rs := []) rfl hlead ?_ ?_
  · refine (if_neg (by decide)).trans ((if_neg (by decide)).trans ((Ctx.tileName_of_team hteam hq).trans ?_))
    rw [hunbound, hk]
    dsimp only
    rw [Option.bind_some, hfirst]
    change (((c.setP P₁).setP (P₁.modCore (P₁.coreOf c.gid) f)).doneS l []) = _
    rw [hcoreOf]
  · rw [Ctx.g_setP (c := c.setP P₁) hgroup]
    intro u hu
    have hP : P.team? c.tk = some (e tm) := by
      rw [Part.team?_modCore, Part.team?_modTeam_same, hteamP]
      rfl
    have hcore : P.core? (c.P.coreOf c.gid) = some (f k) := (Part.core?_modCore_same ..).trans (congrArg (Option.map f) hk)
    refine ⟨kept_doneS .., _, n, hn, hnone, hu.teamIn hw hP, Table.get?_set_same .., ?_⟩
    rw [hu.tileIn, Ctx.P_setP, hcore, ← loWord_eq, ← hiWord_eq]
    exact Table.get?_set_same ..

theorem unboundTileIsFreed (c : Ctx) (s : State) (l : La) (t : BitVec 3) (tm : Team) (hr : Ready c s (.arel l t)) (hteam : c.team? = some tm)
    (hq : t.toNat < tm.accQuota) (hunbound : Table.get? tm.tiles t.toNat = none) : Leaves c (.arel l t) s fun _ g => Kept c g := by
  refine hr.leaves_doneS (l := l) (rs := []) rfl (Ctx.Leads.refl hr.fits) ?_ fun _ _ => kept_doneS ..
  refine (Ctx.tileName_of_team hteam hq).trans ?_
  rw [hunbound]

theorem tileNameOverTheQuota (c : Ctx) (s : State) (i : Instr) (y : SReg) (l : La) (t : BitVec 3) (tm : Team) (hr : Ready c s i)
    (hteam : c.team? = some tm) (hq : tm.accQuota ≤ t.toNat)
    (hi : i = .acfg y 0 l t ∨ i = .acfg y 1 l t ∨ i = .azero l t ∨ i = .arel l t) : TrapsWith c i s ⟨0x1B, t.setWidth 64⟩ := by
  have htrap : (⟨0x1B, t.setWidth 64⟩ : Trap) = trapOf 0x1B t.toNat := by
    rw [trapOf, BitVec.ofNat_toNat]
    rfl
  rw [htrap]
  rcases hi with rfl | rfl | rfl | rfl
  · exact hr.trapsWith rfl ((if_neg (by decide)).trans ((if_neg (by decide)).trans (Ctx.tileName_over hteam hq)))
  · exact hr.trapsWith rfl ((if_neg (by decide)).trans ((if_pos rfl).trans (Ctx.onTile_over hteam hq)))
  · exact hr.trapsWith rfl (Ctx.onTile_over hteam hq)
  · exact hr.trapsWith rfl (Ctx.tileName_over hteam hq)

theorem tilesAreConfiguredClearedAndFreed : TilesAreConfiguredClearedAndFreed :=
  ⟨tilesAreConfigured, tileIsBound, unboundTileIsFreed, tileNameOverTheQuota⟩

/-! ## Batches (R245, R246, R254, R255) -/

/-- What the closing of a batch leaves of a group: only the count of batches and what follows from it change. -/
structure BatchClosed (g g' : Group) : Prop where
  closed : g'.closed = g.closed + 1
  s : g'.s = g.s
  v : g'.v = g.v
  q : g'.q = g.q
  pc : g'.pc = g.pc

theorem batchIsClosed (c : Ctx) (s : State) (x : SReg) (l : La) (hr : Ready c s (.mfence x l)) :
    Leaves c (.mfence x l) s fun _ g => g.closed = c.g.closed + 1 ∧ g.sreg x = BitVec.ofNat 64 ((c.g.closed + 1) % 2 ^ 16) ∧
      (∀ e, e ≠ x → g.sreg e = c.g.sreg e) ∧ g.v = c.g.v ∧ g.q = c.g.q ∧ g.pc = c.g.pc + 4 := by
  obtain ⟨g₁, hg₁, hclosed⟩ : ∃ g₁, (c.P.closeBatch c.gid).group? c.gid = some g₁ ∧ BatchClosed c.g g₁ := by
    rw [Part.closeBatch, Part.refreshBatches, Part.group?_modGroup, Part.group?_modGroup, hr.fits.group]
    exact ⟨_, rfl, rfl, rfl, rfl, rfl, rfl⟩
  let c₁ := c.setP (c.P.closeBatch c.gid)
  have hsame : c₁.g = g₁ := Ctx.g_setP hg₁
  have hlead : c.Leads c₁ := (Ctx.Leads.refl hr.fits).setP hg₁
  refine hr.leaves_doneS (l := l) (rs := [x]) (c' := c₁.setG (c₁.g.setS x (BitVec.ofNat 64 (c₁.g.closed % 2 ^ 16)))) rfl (hlead.setG _) rfl ?_
  rw [hsame]
  intro t _
  obtain ⟨hvalue, hothers, -⟩ := g₁.setS_written x (BitVec.ofNat 64 (g₁.closed % 2 ^ 16))
  have hsreg (e : SReg) : g₁.sreg e = c.g.sreg e := by rw [Group.sreg, Group.sreg, hclosed.s]
  refine ⟨hclosed.closed, ?_, fun e he => (hothers e he).trans (hsreg e), hclosed.v, hclosed.q, congrArg (· + 4) hclosed.pc⟩
  rw [← hclosed.closed]
  exact hvalue

theorem extract16_toNat (d : DWord) : (d.extractLsb' 0 16).toNat = d.toNat % 2 ^ 16 := by
  rw [BitVec.extractLsb'_toNat, Nat.shiftRight_zero]

theorem Group.batchAge_eq (g : Group) (x : SReg) : g.batchAge x = (BitVec.ofNat 16 g.closed - (g.sreg x).extractLsb' 0 16).toNat := by
  rw [Group.batchAge, BitVec.toNat_sub, BitVec.toNat_ofNat, extract16_toNat]
  have := Nat.mod_lt (g.sreg x).toNat (show 0 < 2 ^ 16 by decide)
  omega

/-- The trap of a batch number of no issued batch (R246). -/
theorem batchTrap_eq (d : DWord) : trapOf 2 (d.toNat % 2 ^ 16) = ⟨2, (d.extractLsb' 0 16).setWidth 64⟩ := by
  rw [trapOf, ← extract16_toNat, BitVec.ofNat_toNat]
  rfl

section
variable {c c' : Ctx} {s : State} {i : Instr} {body : Ctx → Res}

/-- An instruction whose effect leads to `c'`, and which leaves its group as it stands there. -/
theorem Ready.leaves_of_state (h : Ready c s i) (he : exec i s = Machine.issue i s body) (hlead : c.Leads c') (hb : body c = .done c'.s)
    {rel : State → Group → Prop} (hrel : ∀ t, Ended c c'.P (c'.g.completed (c'.g.pc + 4)) t → rel t (c'.g.completed (c'.g.pc + 4))) :
    Leaves c i s rel := by
  obtain ⟨t, ht, hP, hg, hbyte⟩ := h.completes he hb (hlead.p ▸ hlead.fits.part) (hlead.gid ▸ hlead.fits.group)
  exact ⟨t, _, ht, hg, hrel t hP, fun a => (hbyte a).trans ((hlead.byte a).trans (by rw [h.state]))⟩

/-- The operations of a group that a core still holds once the group's batches up to `n` have been awaited. -/
def Core.unheld (gid n : Nat) (k : Core) : Core :=
  { k with matrix := k.matrix.filter fun m => m.gid != gid || m.isFill || decide (n < m.bno) }

theorem Ctx.unholdBatch_eq (c : Ctx) (n : Nat) : c.unholdBatch n = c.setP (c.P.modCore (c.P.coreOf c.gid) (Core.unheld c.gid n)) := rfl

theorem Ctx.Fits.unhold (h : c.Fits) (n : Nat) :
    (c.P.modCore (c.P.coreOf c.gid) (Core.unheld c.gid n)).group? c.gid = some c.g := (Part.group?_modCore ..).trans h.group

theorem Ctx.awaitBatch_done {age : Nat} (h : c.g.closed - age ≤ c.g.complete) : c.awaitBatch age body = body (c.unholdBatch (c.g.closed - age)) :=
  if_neg (Nat.not_lt.2 h)

theorem Ctx.awaitBatch_wait {age : Nat} (h : c.g.complete < c.g.closed - age) : c.awaitBatch age body = .wait c.s .inFlight := if_pos h
end

theorem batchIsAwaited (c : Ctx) (s : State) (x : SReg) (hr : Ready c s (.mwait x)) :
    let age := (BitVec.ofNat 16 c.g.closed - (c.g.sreg x).extractLsb' 0 16).toNat
    (2 ^ 15 ≤ age → TrapsWith c (.mwait x) s ⟨2, ((c.g.sreg x).extractLsb' 0 16).setWidth 64⟩) ∧
    (age < 2 ^ 15 → c.g.closed - age ≤ c.g.complete →
      Leaves c (.mwait x) s fun t g => g = c.g.completed (c.g.pc + 4) ∧
        ∀ k, c.P.core? (c.P.coreOf c.gid) = some k → coreIn t c = some { k with
          matrix := k.matrix.filter fun m => m.gid != c.gid || m.bno == 0 || decide (c.g.closed - age < m.bno) }) ∧
    (age < 2 ^ 15 → c.g.complete < c.g.closed - age →
      ∃ t, exec (.mwait x) s = .next t ∧ t.group? c.p c.gid = some { c.g with wait := some .inFlight }) := by
  intro age
  have hage : c.g.batchAge x = age := Group.batchAge_eq ..
  refine ⟨fun hold => ?_, fun hnew hdone => ?_, fun hnew hundone => ?_⟩
  · rw [← batchTrap_eq]
    exact hr.trapsWith rfl (if_pos (hage ▸ hold))
  · have hg := hr.fits.unhold (c.g.closed - age)
    refine hr.leaves_of_state (c' := c.unholdBatch (c.g.closed - age)) rfl ((Ctx.Leads.refl hr.fits).setP hg) ?_ ?_
    · dsimp only
      rw [hage, if_neg (Nat.not_le.2 hnew), Ctx.awaitBatch_done hdone]
    · rw [Ctx.unholdBatch_eq, Ctx.g_setP hg]
      exact fun t ht => ⟨rfl, fun k hk => ht.coreIn_modCore hk⟩
  · refine hr.waits (w := .inFlight) rfl rfl ?_
    dsimp only
    rw [hage, if_neg (Nat.not_le.2 hnew), Ctx.awaitBatch_wait hundone]

theorem nanCountIsRead (c : Ctx) (s : State) (d a : SReg) (hr : Ready c s (.nanc d a)) :
    let age := (BitVec.ofNat 16 c.g.closed - (c.g.sreg a).extractLsb' 0 16).toNat
    (2 ^ 15 ≤ age → TrapsWith c (.nanc d a) s ⟨2, ((c.g.sreg a).extractLsb' 0 16).setWidth 64⟩) ∧
    (16 ≤ age → age < 2 ^ 15 → Leaves c (.nanc d a) s fun _ g => g = (c.g.setS d 0xFFFFFFFFFFFFFFFF).completed (c.g.pc + 4)) ∧
    (age < 16 → c.g.closed - age ≤ c.g.complete → Leaves c (.nanc d a) s fun t g =>
      g = (c.g.setS d (BitVec.ofNat 64 (Table.getD c.g.nans (c.g.closed - age) 0))).completed (c.g.pc + 4) ∧
      ∀ k, c.P.core? (c.P.coreOf c.gid) = some k → coreIn t c = some { k with
        matrix := k.matrix.filter fun m => m.gid != c.gid || m.bno == 0 || decide (c.g.closed - age < m.bno) }) ∧
    (age < 16 → c.g.complete < c.g.closed - age →
      ∃ t, exec (.nanc d a) s = .next t ∧ t.group? c.p c.gid = some { c.g with wait := some .inFlight }) := by
  intro age
  have hage : c.g.batchAge a = age := Group.batchAge_eq ..
  refine ⟨fun hold => ?_, fun hbeyond hnew => ?_, fun hnear hdone => ?_, fun hnear hundone => ?_⟩
  · rw [← batchTrap_eq]
    exact hr.trapsWith rfl (if_pos (hage ▸ hold))
  · refine hr.leaves_of_done (g := c.g.setS d 0xFFFFFFFFFFFFFFFF) rfl (Ctx.Leads.refl hr.fits) ?_ fun _ _ => rfl
    dsimp only
    rw [hage, if_neg (Nat.not_le.2 hnew), if_pos hbeyond, Ctx.finish]
  · have hg := hr.fits.unhold (c.g.closed - age)
    refine hr.leaves_of_done (g := c.g.setS d (BitVec.ofNat 64 (Table.getD c.g.nans (c.g.closed - age) 0)))
      (c' := c.unholdBatch (c.g.closed - age)) rfl ((Ctx.Leads.refl hr.fits).setP hg) ?_ fun t ht => ⟨rfl, fun k hk => ht.coreIn_modCore hk⟩
    dsimp only
    rw [hage, if_neg (Nat.not_le.2 (Nat.lt_of_lt_of_le hnear (by decide))), if_neg (Nat.not_le.2 hnear), Ctx.awaitBatch_done hdone,
      Ctx.unholdBatch_eq, Ctx.g_setP hg, Ctx.finish]
  · refine hr.waits (w := .inFlight) rfl rfl ?_
    dsimp only
    rw [hage, if_neg (Nat.not_le.2 (Nat.lt_of_lt_of_le hnear (by decide))), if_neg (Nat.not_le.2 hnear), Ctx.awaitBatch_wait hundone]

theorem batchesAreClosedAndAwaited : BatchesAreClosedAndAwaited := by
  refine ⟨batchIsClosed, batchIsAwaited, nanCountIsRead, fun c s a hr => ?_, fun c s hr => ⟨fun hnone => ?_, fun hfill => ?_⟩⟩
  · have hseed : (c.g.sreg a).setWidth 32 = loWord (c.g.sreg a) := (loWord_eq_setWidth _).symm
    exact hr.completesWith_done rfl rfl rfl (by rw [hseed]; rfl)
  · have hidle : ¬(c.matrixOps.any fun m => m.gid == c.gid && m.isFill) = true := by
      intro hany
      obtain ⟨m, hm, hfill⟩ := List.any_eq_true.1 hany
      obtain ⟨hgid, hbno⟩ := Bool.and_eq_true_iff.1 hfill
      exact hnone m hm (beq_iff_eq.1 hgid) (beq_iff_eq.1 hbno)
    exact ⟨_, hr.ends_done (s₁ := c.s) (if_neg hidle), by rw [Stepped, hr.state]; rfl⟩
  · obtain ⟨m, hm, hgid, hbno⟩ := hfill
    refine hr.waits (w := .inFlight) rfl rfl (if_pos (List.any_eq_true.2 ⟨m, hm, ?_⟩))
    rw [MatrixOp.isFill, hgid, hbno, beq_self_eq_true, beq_self_eq_true]
    rfl

/-- Settles O33: what each instruction makes of its core, its team and its group is written out, and it completes with it. -/
theorem reservationTileAndBatchInstructions : Obligations.ReservationTileAndBatchInstructions :=
  ⟨⟨reservationsAreMade, reservationsAreReleased⟩, tilesAreConfiguredClearedAndFreed, batchesAreClosedAndAwaited⟩

end Sys2Proof.Machine
end

section
/-!
PROOF. Fills and batch operations enter the queue of their core's engine (spec/10_core_matrix_instr.md R227, R234, R235, R237 to R239, R253).
-/
namespace Sys2Proof.Machine
open Sys2Proof.Spec

section
variable {c : Ctx} {s : State} {i : Instr} {body : Ctx → Res}

theorem Ctx.matrixRoom_of_room (h : EngineRoom c) (r : Res) : c.matrixRoom r = r := if_neg (Nat.not_le.2 h)

/-- An instruction that only puts an operation into the queue of its core's engine. -/
theorem Ready.queues (hr : Ready c s i) (he : exec i s = Machine.issue i s body) (hcore : (c.P.core? (c.P.coreOf c.gid)).isSome = true)
    {work : MatrixWork} {tile : Option (Nat × Nat)} {ranges : List (Nat × Nat)} {bno : Nat} {l : La}
    (hb : body c = c.enqueue work tile ranges bno l) : Leaves c i s fun t g => Kept c g ∧ Queued t c work tile ranges bno := by
  obtain ⟨k, hk⟩ := Option.isSome_iff_exists.1 hcore
  let op := c.P.fresh.1
  let f (k : Core) : Core := { k with matrix := k.matrix ++ [⟨op, c.gid, work, tile, ranges, bno, false⟩] }
  let P := c.P.fresh.2.modCore (c.P.coreOf c.gid) f
  have hg : P.group? c.gid = some c.g := (Part.group?_of_work rfl rfl c.gid).trans hr.fits.group
  refine hr.leaves_doneS he ((Ctx.Leads.refl hr.fits).setP hg) (l := l) (rs := []) hb ?_
  rw [Ctx.g_setP hg]
  refine fun t ht => ⟨kept_doneS .., k, op, hk, ht.coreIn.trans ?_⟩
  exact (Part.core?_modCore_same c.P.fresh.2 (c.P.coreOf c.gid) f).trans (congrArg (Option.map f) hk)

theorem firstTrap_none {l : List (Option Trap)} (h : ∀ x ∈ l, x = none) : firstTrap l = none := by
  induction l with
  | nil => rfl
  | cons x l ih =>
    rw [h x List.mem_cons_self, firstTrap]
    exact ih fun y hy => h y (List.mem_cons_of_mem _ hy)

theorem firstTrap_two {x y : Option Trap} (hx : x = none) (hy : y = none) : firstTrap [x, y] = none := by
  rw [hx, hy]
  rfl
end

theorem field_eq_zero {d : DWord} {lo len : Nat} : field d lo len = 0 ↔ d.extractLsb' lo len = 0 := by
  rw [field_eq, BitVec.toNat_eq]
  rfl

/-! ## Fills (R234, R235) -/

theorem obldQueues (c : Ctx) (s : State) (x y : SReg) (l : La) (r : Reservation) (hr : Ready c s (.obld x y l)) (hroom : EngineRoom c) :
    let d := c.g.sreg x
    let src := (c.g.sreg y).toNat
    let h := (d.extractLsb' 0 4).toNat
    let off := (d.extractLsb' 8 19).toNat
    let bytes := (d.extractLsb' 32 20).toNat
    let dst := r.base.toNat * 256 + off
    d.extractLsb' 4 4 = 0 → d.extractLsb' 27 5 = 0 → d.extractLsb' 52 12 = 0 → bytes ≠ 0 → bytes % 32 = 0 → off % 32 = 0 →
    src < 2 ^ 20 → src % 32 = 0 → c.reservation h = some r → off + bytes ≤ r.len.toNat * 256 →
    c.padError false 0 src bytes 0 = none → c.rangeBusy [(dst, bytes)] h true = none → (c.P.core? (c.P.coreOf c.gid)).isSome = true →
    Leaves c (.obld x y l) s fun t g => Kept c g ∧
      Queued t c (.fill ((List.range (bytes / 32)).map fun k => (src + 32 * k, dst + 32 * k, 32))) none [(dst, bytes)] 0 := by
  intro d src h off bytes dst h4 h27 h52 hbytes hbytes32 hoff _ hsrc hres hfits hpad hbusy hcore
  refine hr.queues (l := l) rfl hcore ?_
  have hword : ¬(field d 52 12 ≠ 0 ∨ field d 27 5 ≠ 0 ∨ field d 4 4 ≠ 0 ∨ field d 32 20 = 0 ∨ field d 32 20 % 32 ≠ 0 ∨ field d 8 19 % 32 ≠ 0) := by
    rw [field_eq_zero.2 h52, field_eq_zero.2 h27, field_eq_zero.2 h4, field_eq, field_eq]
    change ¬(0 ≠ 0 ∨ 0 ≠ 0 ∨ 0 ≠ 0 ∨ bytes = 0 ∨ bytes % 32 ≠ 0 ∨ off % 32 ≠ 0)
    omega
  refine (if_neg hword).trans ((if_neg (not_not.2 hsrc)).trans ?_)
  rw [field_eq, field_eq, field_eq]
  refine (Ctx.held_some hres).trans ((if_neg (Nat.not_lt.2 hfits)).trans ?_)
  have hclear : firstTrap [c.padError false 0 src bytes 0, c.rangeBusy [(dst, bytes)] h true] = none := firstTrap_two hpad hbusy
  dsimp only
  rw [hclear]
  exact Ctx.matrixRoom_of_room hroom _

theorem gathQueues (c : Ctx) (s : State) (x y : SReg) (l : La) (p : VReg) (r : Reservation) (hr : Ready c s (.gath x y l p)) (hroom : EngineRoom c) :
    let ptr := pointerOf (c.g.sreg x)
    let b := c.g.sreg y
    let base := (b.extractLsb' 0 20).toNat
    let pitch := (b.extractLsb' 20 16).toNat
    let row (j : Nat) : Nat := base + ((c.g.vreg (p.toNat + j / 64) (j / 2 % 32)).toNat / 2 ^ (16 * (j % 2)) % 2 ^ 16) * pitch
    badPointer (c.g.sreg x) false = false → b.extractLsb' 36 28 = 0 → base % 32 = 0 → pitch % 32 = 0 → pitch ≠ 0 →
    c.reservation ptr.hnd = some r → r.blen = 0 → r.outside ptr.blk ptr.str = none →
    (∀ j < 128, c.padError false 0 (row j) 96 0 = none) → c.rangeBusy (r.footprint ptr.blk ptr.str) ptr.hnd true = none →
    (c.P.core? (c.P.coreOf c.gid)).isSome = true →
    Leaves c (.gath x y l p) s fun t g => Kept c g ∧
      Queued t c (.fill ((List.range 128).map fun j =>
        (row j, r.base.toNat * 256 + 768 * (ptr.blk + j / 8 * ptr.str) + j % 8 * 96, 96))) none (r.footprint ptr.blk ptr.str) 0 := by
  intro ptr b base pitch row hptr h36 hbase hpitch hpitch0 hres hblen hout hpad hbusy hcore
  refine hr.queues (l := l) rfl hcore ?_
  have hword : ¬(field b 36 28 ≠ 0 ∨ field b 0 20 % 32 ≠ 0 ∨ field b 20 16 % 32 ≠ 0 ∨ field b 20 16 = 0) := by
    rw [field_eq_zero.2 h36, field_eq, field_eq]
    change ¬(0 ≠ 0 ∨ base % 32 ≠ 0 ∨ pitch % 32 ≠ 0 ∨ pitch = 0)
    omega
  refine (if_neg (Bool.eq_false_iff.1 hptr)).trans ((if_neg hword).trans ((Ctx.held_some hres).trans ((if_neg (not_not.2 hblen)).trans ?_)))
  rw [field_eq, field_eq]
  have hbeyond : firstSome (fun j => (c.padError false 0 ((((c.g.sreg y).extractLsb' 0 20).toNat +
      elem 16 (j % 2) (c.g.vreg (p.toNat + j / 64) (j / 2 % 32)).toNat * ((c.g.sreg y).extractLsb' 20 16).toNat : Nat) : Int) 96 0).map fun t =>
        trapOf 0x13 (t.tinfo.toNat % 2 ^ 20 + j * 2 ^ 32)) (List.range 128) = none :=
    firstSome_none fun j hj => congrArg (Option.map _) (hpad j (List.mem_range.1 hj))
  have hclear := firstTrap_two hbeyond hbusy
  change (match r.outside ptr.blk ptr.str with | _ => _) = _
  rw [hout]
  dsimp only
  rw [hclear]
  exact Ctx.matrixRoom_of_room hroom _

/-! ## Steps (R237 to R239) -/

theorem firstTrap_three {x y z : Option Trap} (hx : x = none) (hy : y = none) (hz : z = none) : firstTrap [x, y, z] = none := by
  rw [hx, hy, hz]
  rfl

theorem badBlock_none {k : Int} (h : 0 ≤ k ∧ k ≤ 4095) : badBlock k = none := if_neg (by omega)

theorem Ctx.tileBound_of_free {c : Ctx} {t : BitVec 3} {phys : Nat} {x : Tile} {others : Bool} {body : Nat → Res} (h : TileFree c t phys x others) :
    c.tileBound t body = body phys := Ctx.tileName_of_free h

theorem Ctx.steps_enqueue {c : Ctx} {t : BitVec 3} {phys : Nat} {tile : Tile} {a b : StepPtr} {da db : Int} {n : Nat} {ra rb : Reservation}
    (hroom : EngineRoom c) (hfree : TileFree c t phys tile true)
    (hblocks : ∀ k ∈ repetitions a da n ++ repetitions b db n, 0 ≤ k ∧ k ≤ 4095)
    (ha : c.reservation a.hnd = some ra) (hb : c.reservation b.hnd = some rb) (hpair : pairAllowed ra.fmt.toNat rb.fmt.toNat = true)
    (hina : ∀ k ∈ repetitions a da n, ra.outside k.toNat a.str = none) (hinb : ∀ k ∈ repetitions b db n, rb.outside k.toNat b.str = none)
    (hbusya : c.rangeBusy ((repetitions a da n).map fun k => ra.footprint k.toNat a.str).flatten a.hnd false = none)
    (hbusyb : c.rangeBusy ((repetitions b db n).map fun k => rb.footprint k.toNat b.str).flatten b.hnd false = none) (op : Nat) (l : La) :
    c.steps a b da db n t op l = c.enqueue (.steps a b da db n) (some (phys, t.toNat))
      (((repetitions a da n).map fun k => ra.footprint k.toNat a.str).flatten ++
        ((repetitions b db n).map fun k => rb.footprint k.toNat b.str).flatten) (c.g.closed + 1) l := by
  have hzip (x : Int × Int) (hx : x ∈ (repetitions a da n).zip (repetitions b db n)) : x.1 ∈ repetitions a da n ∧ x.2 ∈ repetitions b db n :=
    List.of_mem_zip (a := x.1) (b := x.2) hx
  have hrange : firstSome (fun (x : Int × Int) => firstTrap [badBlock x.1, badBlock x.2])
      ((repetitions a da n).zip (repetitions b db n)) = none :=
    firstSome_none fun x hx => firstTrap_two (badBlock_none (hblocks _ (List.mem_append_left _ (hzip x hx).1)))
      (badBlock_none (hblocks _ (List.mem_append_right _ (hzip x hx).2)))
  have hinside : firstSome (fun (x : Int × Int) => firstTrap [(ra.outside x.1.toNat a.str).map fun k => handleTrap k a.hnd op,
      (rb.outside x.2.toNat b.str).map fun k => handleTrap k b.hnd op]) ((repetitions a da n).zip (repetitions b db n)) = none :=
    firstSome_none fun x hx => firstTrap_two (congrArg (Option.map _) (hina _ (hzip x hx).1)) (congrArg (Option.map _) (hinb _ (hzip x hx).2))
  have hclear := firstTrap_three hfree.free hbusya hbusyb
  rw [Ctx.steps]
  dsimp only
  rw [hrange]
  refine (Ctx.tileBound_of_free hfree).trans ((Ctx.held_some ha).trans ((Ctx.held_some hb).trans ?_))
  rw [hpair, hinside]
  dsimp only
  rw [hclear]
  exact Ctx.matrixRoom_of_room hroom _

theorem stepsQueue (c : Ctx) (s : State) (x y : SReg) (l : La) (t : BitVec 3) (phys n : Nat) (tile : Tile) (ra rb : Reservation) (da db : Int)
    (i : Instr) (hr : Ready c s i) (hroom : EngineRoom c) (hfree : TileFree c t phys tile true) :
    let a := pointerOf (c.g.sreg x)
    let b := pointerOf (c.g.sreg y)
    let blocks (p : StepPtr) (d : Int) : List Int := (List.range n).map fun (k : Nat) => (p.blk : Int) + k * d
    ((i = .mstep x y l t ∧ badPointer (c.g.sreg x) false = false ∧ n = 1 ∧ da = 0 ∧ db = 0) ∨
      (i = .mloop x y l t ∧ x ≠ 31 ∧ y ≠ 31 ∧ badPointer (c.g.sreg x) true = false ∧
        n = ((c.g.sreg x).extractLsb' 48 16).toNat ∧ da = (c.g.sreg (x + 1)).toInt ∧ db = (c.g.sreg (y + 1)).toInt)) →
    badPointer (c.g.sreg y) false = false → (∀ k ∈ blocks a da ++ blocks b db, 0 ≤ k ∧ k ≤ 4095) →
    c.reservation a.hnd = some ra → c.reservation b.hnd = some rb → pairAllowed ra.fmt.toNat rb.fmt.toNat = true →
    (∀ k ∈ blocks a da, ra.outside k.toNat a.str = none) → (∀ k ∈ blocks b db, rb.outside k.toNat b.str = none) →
    let fa := ((blocks a da).map fun k => ra.footprint k.toNat a.str).flatten
    let fb := ((blocks b db).map fun k => rb.footprint k.toNat b.str).flatten
    c.rangeBusy fa a.hnd false = none → c.rangeBusy fb b.hnd false = none →
    Leaves c i s fun u g => Kept c g ∧ Queued u c (.steps a b da db n) (some (phys, t.toNat)) (fa ++ fb) (c.g.closed + 1) := by
  intro a b blocks hi hy hblocks ha hb hpair hina hinb fa fb hbusya hbusyb
  have hcore : (c.P.core? (c.P.coreOf c.gid)).isSome = true := by
    obtain ⟨k, hk, -⟩ := core_of_tileFree hfree
    rw [hk, Option.isSome_some]
  have hsteps := Ctx.steps_enqueue hroom hfree hblocks ha hb hpair hina hinb hbusya hbusyb
  rcases hi with ⟨rfl, hx, rfl, rfl, rfl⟩ | ⟨rfl, hx31, hy31, hx, rfl, rfl, rfl⟩
  · refine hr.queues (l := l) rfl hcore ?_
    exact (if_neg (Bool.eq_false_iff.1 hx)).trans ((if_neg (Bool.eq_false_iff.1 hy)).trans (hsteps ..))
  · refine hr.queues (l := l) rfl hcore ?_
    refine (if_neg (not_or.2 ⟨hx31, hy31⟩)).trans ((if_neg (Bool.eq_false_iff.1 hx)).trans ((if_neg (Bool.eq_false_iff.1 hy)).trans ?_))
    rw [field_eq]
    exact hsteps ..

/-! ## Rows saved and loaded (R253) -/

theorem rowsMove (c : Ctx) (s : State) (x y : SReg) (l : La) (t : BitVec 3) (phys : Nat) (tile : Tile) (i : Instr) (save : Bool)
    (hi : i = (if save then .asave x y l t else .aload x y l t)) (hr : Ready c s i) (hroom : EngineRoom c) (hfree : TileFree c t phys tile true) :
    let d := c.g.sreg x
    let a := (c.g.sreg y).toNat
    let r0 := (d.extractLsb' 0 7).toNat
    let n := (d.extractLsb' 8 7).toNat + 1
    d.toNat < 2 ^ 15 → d.getLsbD 7 = false → r0 + n ≤ 128 → a < 2 ^ 20 → a % 16 = 0 →
    (∀ order < 3, c.padError save order a (n * 1408) 0 = none) →
    Leaves c i s fun u g => Kept c g ∧
      Queued u c (if save then .save r0 n a 0 else .load r0 n a 0) (some (phys, t.toNat)) [] (c.g.closed + 1) := by
  intro d a r0 n hd hd7 hrows ha ha16 hpad
  have hcore : (c.P.core? (c.P.coreOf c.gid)).isSome = true := by
    obtain ⟨k, hk, -⟩ := core_of_tileFree hfree
    rw [hk, Option.isSome_some]
  have hmove : c.moveRows x y t l save = c.enqueue (if save then .save r0 n a 0 else .load r0 n a 0) (some (phys, t.toNat)) []
      (c.g.closed + 1) l := by
    have hbit : field d 7 1 = 0 := by
      rw [BitVec.getLsbD, Nat.testBit_eq_decide_div_mod_eq, decide_eq_false_iff_not] at hd7
      change d.toNat / 2 ^ 7 % 2 ^ 1 = 0
      omega
    have hword : ¬(field d 7 1 ≠ 0 ∨ 2 ^ 15 ≤ d.toNat ∨ 128 < r0 + n) := by omega
    have haddr : ¬(2 ^ 20 ≤ (c.g.sreg y).toNat ∨ (c.g.sreg y).toNat % 16 ≠ 0) := by omega
    have hbytes : n * 128 * cellBytes = n * 1408 := Nat.mul_assoc ..
    have hclear : firstTrap [c.padError save 0 a (n * 1408) 0, c.padError save 2 a (n * 1408) 0, c.padError save 1 a (n * 1408) 0,
        c.tileBusy phys t true] = none := by
      rw [hpad 0 (by decide), hpad 2 (by decide), hpad 1 (by decide), hfree.free]
      rfl
    rw [Ctx.moveRows]
    dsimp only
    rw [field_eq (c.g.sreg x) 0 7, field_eq (c.g.sreg x) 8 7]
    refine (if_neg hword).trans ((if_neg haddr).trans ((Ctx.tileBound_of_free hfree).trans ?_))
    rw [hbytes, hclear]
    exact Ctx.matrixRoom_of_room hroom _
  cases save with
  | true =>
    subst hi
    exact hr.queues (l := l) rfl hcore hmove
  | false =>
    subst hi
    exact hr.queues (l := l) rfl hcore hmove

/-- Settles O34: each of the operations passes its checks one by one, and then enters the queue. -/
theorem matrixOperationsEnterTheQueue : Obligations.MatrixOperationsEnterTheQueue := ⟨obldQueues, gathQueues, stepsQueue, rowsMove⟩

end Sys2Proof.Machine
end

section
/-!
PROOF. What the lanes of a group do to the cells of a tile (spec/10_core_matrix_instr.md R250 to R252).
-/
namespace Sys2Proof.Machine
open Sys2Proof.Spec

/-! ## Cells written one after the other -/

section
variable {w : Nat} {z : BitVec w}

theorem Cells.get_foldl_of_not_mem {l : List (Nat × BitVec w)} {c : Cells w} {k : Nat} (h : ∀ e ∈ l, e.1 ≠ k) :
    Cells.get z (l.foldl (fun m e => Cells.set z m e.1 e.2) c) k = Cells.get z c k := by
  induction l generalizing c with
  | nil => rfl
  | cons e l ih =>
    rw [List.foldl_cons, ih fun e' he' => h e' (List.mem_cons_of_mem _ he'), Cells.get_set_ne _ _ _ _ _ (h e List.mem_cons_self)]

theorem Cells.get_foldl_of_mem {l : List (Nat × BitVec w)} {c : Cells w} {k : Nat} {x : BitVec w} (hmem : (k, x) ∈ l)
    (hsame : ∀ e ∈ l, e.1 = k → e.2 = x) : Cells.get z (l.foldl (fun m e => Cells.set z m e.1 e.2) c) k = x := by
  induction l generalizing c with
  | nil => cases hmem
  | cons e l ih =>
    rw [List.foldl_cons]
    have hrest : ∀ e ∈ l, e.1 = k → e.2 = x := fun e' he' => hsame e' (List.mem_cons_of_mem _ he')
    by_cases hl : (k, x) ∈ l
    · exact ih hl hrest
    · obtain rfl : (k, x) = e := (List.mem_cons.1 hmem).resolve_right hl
      have hnone : ∀ e ∈ l, e.1 ≠ k := by
        rintro ⟨j, y⟩ he rfl
        obtain rfl : y = x := hrest _ he rfl
        exact hl he
      rw [Cells.get_foldl_of_not_mem hnone, Cells.get_set_same]

/-- Cells, each of them once, changed by one function. -/
theorem Cells.get_foldl_map {l : List Nat} (hl : l.Nodup) (f : BitVec w → BitVec w) (c : Cells w) (k : Nat) :
    Cells.get z (l.foldl (fun m k => Cells.set z m k (f (Cells.get z m k))) c) k = if k ∈ l then f (Cells.get z c k) else Cells.get z c k := by
  induction l generalizing c with
  | nil => rfl
  | cons j l ih =>
    obtain ⟨hj, hl⟩ := List.nodup_cons.1 hl
    rw [List.foldl_cons, ih hl]
    by_cases hk : k = j
    · subst hk
      rw [if_neg hj, if_pos List.mem_cons_self, Cells.get_set_same]
    · rw [Cells.get_set_ne _ _ _ _ _ (Ne.symm hk)]
      simp only [List.mem_cons, hk, false_or]
end

theorem accepts_cell {n : Nat} {ty : Ty} (h : Ty.ofCode n = some ty) : tCell n = true := by
  rw [tCell, decide_eq_true_eq]
  by_contra hn
  unfold Ty.ofCode at h
  split at h
  case h_15 => cases h
  all_goals omega

section
variable {c : Ctx} {t : BitVec 3} {phys : Nat} {x : Tile} {ty : Ty}

theorem Ctx.cells_of_free {op part : Nat} {body : Ty → Nat → Tile → Res} (hty : Ty.ofCode c.g.ty = some ty) (hpart : 8 * part + 32 * ty.n ≤ 128)
    (hfree : TileFree c t phys x false) : c.cells op t part body = body ty phys x :=
  (c.typed_of_accepts op _ hty (accepts_cell hty)).trans ((if_neg (Nat.not_lt.2 hpart)).trans (Ctx.onTile_of_free hfree))
end

/-! ## Reading (R250) -/

theorem laneCells_eq (row part n i : Nat) : laneCells row part n i = (List.range n).map fun k => (k, cellNo row (8 * part + n * i + k)) := rfl

theorem cellNo_mod {row col : Nat} (h : col < 128) : cellNo row col % 128 = col := by
  rw [cellNo]
  omega

theorem lane_col_lt {part n i k : Nat} (hpart : 8 * part + 32 * n ≤ 128) (hi : i < 32) (hk : k < n) : 8 * part + n * i + k < 128 := by
  have : n * i ≤ n * 31 := Nat.mul_le_mul_left _ (by omega)
  omega

theorem Group.open_then_windows {g : Group} {ws : List Window} (h : g.windows = ws) (l : La) (done : Bool) (vregs sregs : List Nat) (op : Nat) :
    { g.open l done vregs sregs op with windows := ws } = g := by
  subst h
  rfl

theorem readsCells (c : Ctx) (s : State) (v : VReg) (t : BitVec 3) (r : BitVec 7) (l : La) (p : BitVec 4) (ty : Ty) (phys : Nat) (x : Tile)
    (hr : Ready c s (.ard v t r l p)) (hty : Ty.ofCode c.g.ty = some ty) (hpart : 8 * p.toNat + 32 * ty.n ≤ 128)
    (hfree : TileFree c t phys x false) (hclean : x.poison = []) :
    let col (i k : Nat) : Nat := 8 * p.toNat + ty.n * i + k
    CompletesWith c (.ard v t r l p) s fun g =>
      LanesWritten c.g { g with windows := c.g.windows } ty.wide v fun i => packElems ty.w ((List.range ty.n).map fun k =>
        readCell ⟨c.g.rnd, c.g.ftz, c.g.nanm, c.g.sat, tileDraw c.g.seed (x.row0 + r.setWidth 32) x.col0 (col i k)⟩ ty
          (Cells.get 0 x.cells (cellNo r.toNat (col i k)))) := by
  intro col
  let res (i : Nat) : Nat × Nat := packElems ty.w ((List.range ty.n).map fun k =>
    readCell ⟨c.g.rnd, c.g.ftz, c.g.nanm, c.g.sat, tileDraw c.g.seed (x.row0 + r.setWidth 32) x.col0 (col i k)⟩ ty
      (Cells.get 0 x.cells (cellNo r.toNat (col i k))))
  have hw := c.g.putLanes_written ty.wide v res
  have hlanes : (c.g.actives.map fun i => (i, packElems ty.w ((laneCells r.toNat p.toNat ty.n i).map fun e =>
      readCell (c.g.tileEnv x r.toNat (e.2 % 128)) ty (Cells.get 0 x.cells e.2)))) = c.g.actives.map fun i => (i, res i) := by
    refine List.map_congr_left fun i hi => ?_
    rw [laneCells_eq, List.map_map]
    refine congrArg (fun l => (i, packElems ty.w l)) (List.map_congr_left fun k hk => ?_)
    have hcol := lane_col_lt hpart (c.g.actives_lt i hi) (List.mem_range.1 hk)
    rw [Function.comp_apply, cellNo_mod hcol, Group.tileEnv, BitVec.ofNat_toNat]
  refine hr.completesWith_done (g := (c.g.putLanes ty.wide v (c.g.actives.map fun i => (i, res i))).open l true
    (if ty.wide then [v.toNat, v.toNat + 1] else [v.toNat]) [] 0) rfl ?_ (by rw [Group.open, hw.frame]) ?_
  · refine (Ctx.cells_of_free hty hpart hfree).trans ((if_neg ?_).trans ?_)
    · rw [hclean]
      simp
    · rw [hlanes]
      rfl
  · have hwindows := congrArg Group.windows hw.frame
    rw [Group.open_then_windows hwindows]
    exact hw

/-! ## Writing and scaling (R251, R252) -/

theorem Ready.leaves_writeTile {c : Ctx} {s : State} {i : Instr} {l : La} {body : Ctx → Res} {k : Core} {phys : Nat} {x : Tile} (hr : Ready c s i)
    (he : exec i s = Machine.issue i s body) (hk : c.P.core? (c.P.coreOf c.gid) = some k) (hb : body c = (c.writeTile phys x).doneS l [])
    {rel : Tile → Prop} (hrel : rel x) : Leaves c i s fun u g => Kept c g ∧ ∃ x', tileIn u c phys = some x' ∧ rel x' :=
  hr.leaves_core (f := fun k => { k with tiles := Table.set k.tiles phys x, written := insertNum k.written (tileNumber phys) }) he hb
    fun _ hu => ⟨kept_doneS .., x, (hu.tileIn_modCore hk phys).trans (Table.get?_set_same ..), hrel⟩

/-- The cells that the lanes acted on write, with their values, for any column and value of element k of lane i. -/
theorem mem_lane_cells {α : Type} {g : Group} {n row part : Nat} {val : Nat → Nat → α} {e : Nat × α} :
    e ∈ (g.actives.map fun i => (laneCells row part n i).map fun e => (e.2, val i e.1)).flatten ↔
      ∃ i < 32, g.active i = true ∧ ∃ k < n, e = (cellNo row (8 * part + n * i + k), val i k) := by
  rw [List.mem_flatten]
  constructor
  · rintro ⟨_, hl, he⟩
    obtain ⟨i, hi, rfl⟩ := List.mem_map.1 hl
    obtain ⟨_, hcell, rfl⟩ := List.mem_map.1 he
    obtain ⟨k, hk, rfl⟩ := List.mem_map.1 hcell
    obtain ⟨hlt, hact⟩ := (g.mem_actives i).1 hi
    exact ⟨i, hlt, hact, k, List.mem_range.1 hk, rfl⟩
  · rintro ⟨i, hlt, hact, k, hk, rfl⟩
    exact ⟨_, List.mem_map.2 ⟨i, (g.mem_actives i).2 ⟨hlt, hact⟩, rfl⟩,
      List.mem_map.2 ⟨_, List.mem_map.2 ⟨k, List.mem_range.2 hk, rfl⟩, rfl⟩⟩

theorem element_unique {n i j k m : Nat} (hk : k < n) (hm : m < n) (h : n * i + k = n * j + m) : i = j ∧ k = m := by
  have hi : (n * i + k) / n = i := by rw [Nat.mul_add_div (by omega), Nat.div_eq_of_lt hk, Nat.add_zero]
  have hj : (n * j + m) / n = j := by rw [Nat.mul_add_div (by omega), Nat.div_eq_of_lt hm, Nat.add_zero]
  obtain rfl : i = j := by rw [← hi, ← hj, h]
  exact ⟨rfl, Nat.add_left_cancel h⟩

theorem writesCells (c : Ctx) (s : State) (v : VReg) (t : BitVec 3) (r : BitVec 7) (l : La) (p : BitVec 4) (ty : Ty) (phys : Nat) (x : Tile)
    (hr : Ready c s (.awr v t r l p)) (hty : Ty.ofCode c.g.ty = some ty) (hpart : 8 * p.toNat + 32 * ty.n ≤ 128)
    (hfree : TileFree c t phys x false) :
    let col (i k : Nat) : Nat := 8 * p.toNat + ty.n * i + k
    Leaves c (.awr v t r l p) s fun u g => Kept c g ∧ ∃ x', tileIn u c phys = some x' ∧ x'.row0 = x.row0 ∧ x'.col0 = x.col0 ∧
      (∀ i < 32, ∀ k < ty.n, c.g.active i = true → Cells.get 0 x'.cells (cellNo r.toNat (col i k)) =
        writeCell ty (elem ty.w k (c.g.direct ty.wide v.toNat i))) ∧
      ∀ n, (∀ i < 32, ∀ k < ty.n, c.g.active i = true → n ≠ cellNo r.toNat (col i k)) →
        Cells.get 0 x'.cells n = Cells.get 0 x.cells n := by
  intro col
  obtain ⟨core, hcore, -⟩ := core_of_tileFree hfree
  let val (i k : Nat) : Cell88 := writeCell ty (elem ty.w k (c.g.direct ty.wide v.toNat i))
  refine hr.leaves_writeTile (l := l) rfl hcore (Ctx.cells_of_free hty hpart hfree) ⟨rfl, rfl, fun i hi k hk hact => ?_, fun n hn => ?_⟩
  · refine Cells.get_foldl_of_mem ((mem_lane_cells (val := val)).2 ⟨i, hi, hact, k, hk, rfl⟩) fun e he hcell => ?_
    obtain ⟨j, hj, -, m, hm, rfl⟩ := (mem_lane_cells (val := val)).1 he
    obtain ⟨rfl, rfl⟩ : j = i ∧ m = k := element_unique hm hk (by
      change 128 * r.toNat + (8 * p.toNat + ty.n * j + m) = 128 * r.toNat + (8 * p.toNat + ty.n * i + k) at hcell
      omega)
    rfl
  · refine Cells.get_foldl_of_not_mem fun e he hcell => ?_
    obtain ⟨j, hj, hact, m, hm, rfl⟩ := (mem_lane_cells (val := val)).1 he
    exact hn j hj m hm hact hcell.symm

/-- The cells of a row. -/
def rowCells (row : Nat) : List Nat := (List.range 128).map fun j => 128 * row + j

theorem mem_rowCells {row y j : Nat} (hj : j < 128) : cellNo y j ∈ rowCells row ↔ y = row := by
  rw [rowCells, List.mem_map]
  constructor
  · rintro ⟨k, hk, h⟩
    have := List.mem_range.1 hk
    rw [cellNo] at h
    omega
  · rintro rfl
    exact ⟨j, List.mem_range.2 hj, rfl⟩

theorem rowCells_nodup (row : Nat) : (rowCells row).Nodup :=
  List.nodup_range.map fun _ _ h => Nat.add_left_cancel h

/-- Rows, each of them once, changed each by its own function. -/
theorem get_foldl_rows {w : Nat} {z : BitVec w} {l : List Nat} (hl : l.Nodup) (r : Nat) (f : Nat → BitVec w → BitVec w) (c : Cells w) {y j : Nat}
    (hj : j < 128) :
    Cells.get z (l.foldl (fun m i => (rowCells (r + i)).foldl (fun m k => Cells.set z m k (f i (Cells.get z m k))) m) c) (cellNo y j) =
      if r ≤ y ∧ y - r ∈ l then f (y - r) (Cells.get z c (cellNo y j)) else Cells.get z c (cellNo y j) := by
  induction l generalizing c with
  | nil => simp
  | cons i l ih =>
    obtain ⟨hi, hl⟩ := List.nodup_cons.1 hl
    rw [List.foldl_cons, ih hl, Cells.get_foldl_map (rowCells_nodup _)]
    simp only [mem_rowCells hj]
    by_cases hy : y = r + i
    · subst hy
      have hsub : r + i - r = i := Nat.add_sub_cancel_left ..
      rw [hsub, if_neg (fun h => hi h.2), if_pos rfl, if_pos ⟨Nat.le_add_right .., List.mem_cons_self⟩]
    · have hne : r ≤ y → y - r ≠ i := by omega
      have hiff : (r ≤ y ∧ y - r ∈ i :: l) ↔ (r ≤ y ∧ y - r ∈ l) :=
        and_congr_right fun h => by rw [List.mem_cons, or_iff_right (hne h)]
      rw [if_neg hy]
      simp only [hiff]

theorem Group.actives_nodup (g : Group) : g.actives.Nodup := List.nodup_range.filter _

theorem scalesRows (c : Ctx) (s : State) (v : VReg) (t : BitVec 3) (r : BitVec 7) (l : La) (ty : Ty) (phys : Nat) (x : Tile)
    (hr : Ready c s (.ascal v t r l)) (hty : Ty.ofCode c.g.ty = some ty) (hfloat : c.g.ty ∈ [8, 9]) (hrow : r.toNat ≤ 96)
    (hfree : TileFree c t phys x false) (hclean : x.poison = []) :
    Leaves c (.ascal v t r l) s fun u g => Kept c g ∧ ∃ x', tileIn u c phys = some x' ∧ x'.row0 = x.row0 ∧ x'.col0 = x.col0 ∧
      ∀ y, ∀ j < 128, Cells.get 0 x'.cells (cellNo y j) =
        if r.toNat ≤ y ∧ y < r.toNat + 32 ∧ c.g.active (y - r.toNat) = true then
          scaleCell (unpack ty.fmt (c.g.direct ty.wide v.toNat (y - r.toNat))) (Cells.get 0 x.cells (cellNo y j))
        else Cells.get 0 x.cells (cellNo y j) := by
  obtain ⟨core, hcore, -⟩ := core_of_tileFree hfree
  have hfmt : (if ty.wide then f64 else f32) = ty.fmt ∧ (c.g.ty == 8 || c.g.ty == 9) = true := by
    rcases List.mem_pair.1 hfloat with h | h
    all_goals
      rw [h] at hty ⊢
      cases hty
      exact ⟨rfl, rfl⟩
  let factor (i : Nat) : FVal := unpack (if ty.wide then f64 else f32) (c.g.direct ty.wide v.toNat i)
  let cells := (c.g.actives.map fun i => (i, rowCells (r.toNat + i))).foldl (fun m e => e.2.foldl (fun m k =>
    Cells.set 0 m k (scaleCell (factor e.1) (Cells.get 0 m k))) m) x.cells
  refine hr.leaves_writeTile (l := l) (x := { x with cells := cells }) rfl hcore ?_ ⟨rfl, rfl, fun y j hj => ?_⟩
  · refine (c.typed_of_accepts _ _ hty hfmt.2).trans ((if_neg (Nat.not_lt.2 hrow)).trans ((Ctx.onTile_of_free hfree).trans (if_neg ?_)))
    rw [hclean]
    simp
  · have hget := get_foldl_rows c.g.actives_nodup r.toNat (fun i => scaleCell (factor i)) x.cells (z := 0) (y := y) hj
    have hrows : (r.toNat ≤ y ∧ y - r.toNat ∈ c.g.actives) ↔ (r.toNat ≤ y ∧ y < r.toNat + 32 ∧ c.g.active (y - r.toNat) = true) := by
      rw [Group.mem_actives]
      exact and_congr_right fun h => and_congr_left fun _ => by omega
    have hcells : Cells.get 0 cells (cellNo y j) = _ := (congrArg (Cells.get 0 · (cellNo y j)) List.foldl_map).trans hget
    rw [← hfmt.1]
    exact hcells.trans (if_congr hrows rfl rfl)

/-- Settles O35: each lane has cells of its own, so a tile holds each cell's last value once all are written. -/
theorem accumulatorReadWriteAndScale : Obligations.AccumulatorReadWriteAndScale := ⟨readsCells, writesCells, scalesRows⟩

end Sys2Proof.Machine
end

section
/-!
PROOF. Transaction barriers (spec/08_core_state.md R183 to R186, spec/09_core_memory_instr.md R217 to R219).
-/
namespace Sys2Proof.Machine
open Sys2Proof.Spec

/-! ## The words of an object -/

/-- The fields have the widths of an object's words (R183). -/
structure Tb.Fits (b : Tb) : Prop where
  exp : b.exp < 2 ^ 20
  sect : b.sect < 2 ^ 32
  pend : b.pend < 2 ^ 20
  phase : b.phase < 2 ^ 4

theorem Tb.fits_ofNum (x : Nat) : (Tb.ofNum x).Fits := ⟨Nat.mod_lt _ (by decide), Nat.mod_lt _ (by decide), Nat.mod_lt _ (by decide), Nat.mod_lt _ (by decide)⟩

theorem Tb.ofNum_bytes {b : Tb} (h : b.Fits) (addr : Nat) : Tb.ofNum (leNat (b.bytes addr)) = b := by
  obtain ⟨hexp, hsect, hpend, hphase⟩ := h
  obtain ⟨exp, sect, pois, pend, phase⟩ := b
  dsimp only at hexp hsect hpend hphase
  have hpois : bit pois < 2 := by cases pois <;> decide
  have hback : (bit pois == 1) = pois := by cases pois <;> rfl
  have htag : addr / 16 % 2 ^ 16 < 2 ^ 16 := Nat.mod_lt _ (by decide)
  rw [Tb.bytes, leNat_leBytes, Tb.ofNum]
  simp only [bitsOf, bitOf, Tb.mk.injEq]
  generalize bit pois = z at hpois hback ⊢
  generalize addr / 16 % 2 ^ 16 = tag at htag ⊢
  rw [Nat.mod_eq_of_lt hsect, Nat.mod_eq_of_lt (by omega : _ < 256 ^ 16)]
  refine ⟨by omega, by omega, ?_, by omega, by omega⟩
  rw [← hback]
  exact congrArg (· == 1) (by omega)

theorem Cells.getMany_setMany {w : Nat} (d : BitVec w) (c : Cells w) (k : Nat) (xs : List (BitVec w)) :
    Cells.getMany d (Cells.setMany d c k xs) k xs.length = xs := by
  refine List.ext_getElem (by simp [Cells.getMany]) fun j hj hx => ?_
  simp only [Cells.getMany, List.getElem_map, List.getElem_range]
  rw [Cells.get_setMany, if_pos (Nat.le_add_right ..), Nat.add_sub_cancel_left,
    List.getD_eq_getElem _ _ hx]

theorem Core.tb?_fits {k : Core} {a : Nat} {b : Tb} (h : k.tb? a = some b) : b.Fits := by
  rw [Core.tb?] at h
  split at h
  · cases h
    exact Tb.fits_ofNum _
  · cases h

/-- An object that has been written is read back where its granule is guarded. -/
theorem Core.tb?_eq {k : Core} {a : Nat} {b : Tb} {c : Cells 8} (hb : b.Fits) (hguard : k.guards.contains (a / 16) = true)
    (hbytes : k.scratch = Cells.setMany 0 c (a / 16 * 16) (b.bytes a)) : k.tb? a = some b := by
  have hlen : (b.bytes a).length = 16 := leBytes_length ..
  have hread := Cells.getMany_setMany (0 : Byte) c (a / 16 * 16) (b.bytes a)
  rw [hlen] at hread
  rw [Core.tb?, if_pos hguard, hbytes, hread, Tb.ofNum_bytes hb]

theorem Core.scratch_setTb (k : Core) (a : Nat) (b : Tb) : (k.setTb a b).scratch = Cells.setMany 0 k.scratch (a / 16 * 16) (b.bytes a) := by
  rw [Core.setTb, Core.poke]

theorem Core.guarded_of_tb? {k : Core} {a : Nat} {b : Tb} (h : k.tb? a = some b) : k.guards.contains (a / 16) = true := by
  by_contra hn
  rw [Core.tb?, if_neg hn] at h
  cases h

/-! ## Waiters that are released (R185) -/

theorem Group.releaseTb_of_noWait {g : Group} (h : g.wait = none) (addr phase : Nat) : g.releaseTb addr phase = g := by
  rw [Group.releaseTb, Group.waitsOn, h]
  dsimp only
  rw [Bool.and_false, if_neg Bool.false_ne_true]

/-- The release leaves a group that does not wait as it is. -/
theorem Part.group?_releaseTb {P : Part} {gid : Nat} {g : Group} (hg : P.group? gid = some g) (hw : g.wait = none) (core addr phase : Nat) :
    (P.releaseTb core addr phase).group? gid = some g := by
  have hsame := Group.releaseTb_of_noWait hw addr phase
  rw [Part.group?] at hg ⊢
  by_cases hk : isWhisk gid = true
  · rw [if_pos hk] at hg ⊢
    obtain ⟨h, hh, rfl⟩ := Option.map_eq_some_iff.1 hg
    change ((Table.get? (Table.modify P.run.homes core fun h => { h with grp := h.grp.releaseTb addr phase }) gid).map Home.grp) = _
    rw [Table.get?_modify]
    split
    · rw [hh]
      exact congrArg some hsame
    · rw [hh]
      rfl
  · rw [if_neg hk] at hg ⊢
    obtain ⟨t, ht, hgrp⟩ := Option.bind_eq_some_iff.1 hg
    have hteams := Table.get?_map P.run.teams (fun _ t => if t.core = core then
      { t with groups := t.groups.map fun g => (g.1, g.2.releaseTb addr phase) } else t) (gidTeam gid)
    rw [show Table.get? P.run.teams (gidTeam gid) = some t from ht] at hteams
    refine Option.bind_eq_some_iff.2 ⟨_, hteams, ?_⟩
    dsimp only
    split
    · refine (Table.get?_map t.groups (fun _ g => g.releaseTb addr phase) (gidGroup gid)).trans ?_
      rw [hgrp]
      exact congrArg some hsame
    · exact hgrp

/-- A core with an object's words rewritten, which clears no poison (R275). -/
def Core.withTb (a : Nat) (b : Tb) (k : Core) : Core := { k.setTb a b with spoison := k.spoison }

theorem Core.guards_withTb (a : Nat) (b : Tb) (k : Core) : (k.withTb a b).guards = k.guards := by
  cases k
  rfl

theorem Core.scratch_withTb (a : Nat) (b : Tb) (k : Core) : (k.withTb a b).scratch = Cells.setMany 0 k.scratch (a / 16 * 16) (b.bytes a) := by
  rw [← k.scratch_setTb, Core.withTb]

theorem Core.tb?_withTb {k : Core} {a : Nat} {b b' : Tb} (h : k.tb? a = some b) (hfits : b'.Fits) : (k.withTb a b').tb? a = some b' :=
  Core.tb?_eq (c := k.scratch) hfits ((k.guards_withTb a b').symm ▸ Core.guarded_of_tb? h) (k.scratch_withTb a b')

theorem Part.modTb_eq {P : Part} {core a : Nat} {k : Core} {b : Tb} (hk : P.core? core = some k) (hb : k.tb? a = some b) (f : Tb → Tb) :
    P.modTb core a f = if (f b).settle.phase = b.phase then P.modCore core (Core.withTb a (f b).settle)
      else (P.modCore core (Core.withTb a (f b).settle)).releaseTb core a b.phase := by
  rw [Part.modTb, hk, Option.bind_some, hb]
  rfl

/-- What `modTb` makes of a core's object. -/
theorem Part.modTb_spec {P : Part} {core a gid : Nat} {k : Core} {b b' : Tb} {f : Tb → Tb} {g : Group} (hk : P.core? core = some k)
    (hb : k.tb? a = some b) (hb' : (f b).settle = b') (hfits : b'.Fits) (hg : P.group? gid = some g) (hw : g.wait = none) :
    (P.modTb core a f).group? gid = some g ∧ ∃ k', (P.modTb core a f).core? core = some k' ∧ k'.tb? a = some b' := by
  have hgroup : (P.modCore core (Core.withTb a b')).group? gid = some g := (Part.group?_modCore ..).trans hg
  have hcore : (P.modCore core (Core.withTb a b')).core? core = some (k.withTb a b') :=
    (Part.core?_modCore_same ..).trans (congrArg (Option.map (Core.withTb a b')) hk)
  rw [Part.modTb_eq hk hb, hb']
  split
  · exact ⟨hgroup, _, hcore, Core.tb?_withTb hb hfits⟩
  · exact ⟨Part.group?_releaseTb hgroup hw .., _, hcore, Core.tb?_withTb hb hfits⟩

/-! ## The instructions (R217 to R219) -/

section
variable {c : Ctx} {s : State}

theorem privateSlot_of_own {slot : Nat} (h : c.reach slot = .own 1) : c.privateSlot slot = true := by
  rw [Ctx.privateSlot, h]
  rfl

theorem Ctx.tbNamed_ok {k : Core} {b : Tb} {a : Nat} (ha : a % 16 = 0) (hreach : c.reach (a / 4096) = .own 1)
    (hk : c.P.core? (c.P.coreOf c.gid) = some k) (hb : k.tb? a = some b) (hpois : b.pois = false) : c.tbNamed a = .ok b := by
  rw [Ctx.tbNamed, if_neg (not_not.2 ha), if_pos (privateSlot_of_own hreach), hk, Option.bind_some, hb]
  dsimp only
  rw [hpois, if_neg Bool.false_ne_true]

theorem Ctx.tbPoison_eq {k : Core} {a : Nat} (hk : c.P.core? (c.P.coreOf c.gid) = some k) : c.tbPoison a = k.tbPoison a := by
  rw [Ctx.tbPoison, hk, Option.any_some]
end

theorem objectIsMade (c : Ctx) (s : State) (x y : SReg) (l : La) (k : Core) (hr : Ready c s (.tbinit x y l)) :
    let n := (c.g.sreg x).toNat
    let a := (c.g.sreg y).toNat % 2 ^ 20
    0 < n → n < 2 ^ 20 → a % 16 = 0 → c.reach (a / 4096) = .own 1 → c.P.core? (c.P.coreOf c.gid) = some k →
    k.tbPoison a = false → (∀ b, k.tb? a = some b → c.P.tbBusy (c.P.coreOf c.gid) a b = false) →
    ∃ t g k', exec (.tbinit x y l) s = .next t ∧ t.group? c.p c.gid = some g ∧ Kept c g ∧
      (t.part? c.p).bind (fun P => P.core? (c.P.coreOf c.gid)) = some k' ∧
      k'.tb? a = some ⟨n, 0, false, n, 0⟩ ∧ k'.guards.contains (a / 16) = true := by
  intro n a hpos hn ha hreach hk hclean hidle
  let f (k : Core) : Core := { k.setTb a ⟨n, 0, false, n, 0⟩ with guards := insertNum k.guards (a / 16) }
  have hguard : (f k).guards.contains (a / 16) = true := by
    rw [List.contains_iff_mem]
    exact mem_insertNum.2 (.inl rfl)
  have hread : (f k).tb? a = some ⟨n, 0, false, n, 0⟩ := Core.tb?_eq ⟨hn, Nat.two_pow_pos 32, hn, Nat.two_pow_pos 4⟩ hguard (Core.scratch_setTb k a _)
  have hbody : Leaves c (.tbinit x y l) s fun t g => Kept c g ∧ coreIn t c = some (f k) := by
    refine hr.leaves_core (l := l) (f := f) rfl ?_ fun t ht => ⟨kept_doneS .., ht.coreIn_modCore hk⟩
    have hword : ¬(c.g.sreg x = 0 ∨ 2 ^ 20 ≤ (c.g.sreg x).toNat) := by
      rintro (h | h)
      · have h0 : n = 0 := congrArg BitVec.toNat h
        omega
      · omega
    have hnotBusy : ((c.P.core? (c.P.coreOf c.gid)).bind fun k => k.tb? a).any (fun b => c.P.tbBusy (c.P.coreOf c.gid) a b) = false := by
      rw [hk, Option.bind_some]
      cases hb : k.tb? a with
      | none => rfl
      | some b => exact hidle b hb
    refine (if_neg hword).trans ((if_neg (not_not.2 ha)).trans ((if_neg ?_).trans ((if_neg ?_).trans ((if_neg ?_).trans rfl))))
    · have hown : c.privateSlot (a / 4096) = true := privateSlot_of_own hreach
      exact fun h => Bool.false_ne_true (h ▸ congrArg not hown).symm
    · exact Bool.eq_false_iff.1 ((Ctx.tbPoison_eq hk).trans hclean)
    · exact Bool.eq_false_iff.1 hnotBusy
  obtain ⟨t, g, ht, hg, ⟨hkept, hcore⟩, -⟩ := hbody
  exact ⟨t, g, f k, ht, hg, hkept, hcore, hread, hguard⟩

theorem Tb.fits_settle {b : Tb} (h : b.Fits) : b.settle.Fits := by
  obtain ⟨hexp, hsect, hpend, hphase⟩ := h
  rw [Tb.settle]
  split
  · exact ⟨hexp, hsect, hexp, Nat.mod_lt _ (by decide)⟩
  · exact ⟨hexp, hsect, hpend, hphase⟩

/-- One arrival of several, or the last one (R185). -/
theorem Tb.settle_arrival {b : Tb} (hpois : b.pois = false) (hpend : b.pend ≠ 0) : ({ b with pend := b.pend - 1 } : Tb).settle =
    if b.pend = 1 ∧ b.sect = 0 then { b with phase := (b.phase + 1) % 16, pend := b.exp } else { b with pend := b.pend - 1 } := by
  rw [Tb.settle]
  have hiff : (!b.pois && b.pend - 1 == 0 && b.sect == 0) = true ↔ b.pend = 1 ∧ b.sect = 0 := by
    rw [hpois, Bool.not_false, Bool.true_and, Bool.and_eq_true, beq_iff_eq, beq_iff_eq]
    exact and_congr_left fun _ => by omega
  exact if_congr hiff rfl rfl

theorem arrivalIsCounted (c : Ctx) (s : State) (x y : SReg) (l : La) (k : Core) (b : Tb) (hr : Ready c s (.tbarr x y l)) :
    let a := (c.g.sreg y).toNat % 2 ^ 20
    a % 16 = 0 → c.reach (a / 4096) = .own 1 → c.P.core? (c.P.coreOf c.gid) = some k → k.tb? a = some b → k.tbPoison a = false →
    b.pois = false → b.pend ≠ 0 →
    ∃ t g k', exec (.tbarr x y l) s = .next t ∧ t.group? c.p c.gid = some g ∧ KeptBut c g x (BitVec.ofNat 64 b.phase) ∧
      (t.part? c.p).bind (fun P => P.core? (c.P.coreOf c.gid)) = some k' ∧
      k'.tb? a = some (if b.pend = 1 ∧ b.sect = 0 then { b with phase := (b.phase + 1) % 16, pend := b.exp }
        else { b with pend := b.pend - 1 }) := by
  intro a ha hreach hk hb hclean hpois hpend
  have hfits := Core.tb?_fits hb
  obtain ⟨hg, k', hk', hb'⟩ := Part.modTb_spec (f := fun b => { b with pend := b.pend - 1 }) hk hb rfl
    (Tb.fits_settle ⟨hfits.exp, hfits.sect, Nat.lt_of_le_of_lt (Nat.sub_le ..) hfits.pend, hfits.phase⟩) hr.fits.group hr.noWait
  let P := c.P.modTb (c.P.coreOf c.gid) a fun b => { b with pend := b.pend - 1 }
  have hbody : Leaves c (.tbarr x y l) s fun t g => KeptBut c g x (BitVec.ofNat 64 b.phase) ∧ coreIn t c = some k' := by
    refine hr.leaves_scalar (l := l) (rs := [x]) (c' := c.setP P) rfl ((Ctx.Leads.refl hr.fits).setP hg) (Ctx.g_setP hg) ?_
      fun t ht => ⟨keptBut_doneS .., ht.coreIn.trans hk'⟩
    have hnamed : c.tbNamed (c.g.padReg y) = .ok b := Ctx.tbNamed_ok ha hreach hk hb hpois
    have hread : c.tbPoison (c.g.padReg y) = false := (Ctx.tbPoison_eq hk).trans hclean
    dsimp only
    rw [hnamed]
    dsimp only
    rw [hread, if_neg Bool.false_ne_true, if_neg hpend]
    rfl
  obtain ⟨t, g, ht, hgt, ⟨hkept, hcore⟩, -⟩ := hbody
  exact ⟨t, g, k', ht, hgt, hkept, hcore, hb'.trans (congrArg some (Tb.settle_arrival hpois hpend))⟩

theorem phaseIsAwaited (c : Ctx) (s : State) (x y : SReg) (k : Core) (b : Tb) (hr : Ready c s (.tbwait x y)) :
    let a := (c.g.sreg y).toNat % 2 ^ 20
    let p := (c.g.sreg x).toNat % 16
    a % 16 = 0 → c.reach (a / 4096) = .own 1 → c.P.core? (c.P.coreOf c.gid) = some k → k.tb? a = some b → k.tbPoison a = false →
    b.pois = false →
    (b.phase ≠ p → ∃ t, exec (.tbwait x y) s = .next t ∧ Stepped c s t) ∧
    (b.phase = p → ∃ t, exec (.tbwait x y) s = .next t ∧
      t.group? c.p c.gid = some { c.g with wait := some (.transaction a p) }) := by
  intro a p ha hreach hk hb hclean hpois
  have hnamed : c.tbNamed (c.g.padReg y) = .ok b := Ctx.tbNamed_ok ha hreach hk hb hpois
  have hread : c.tbPoison (c.g.padReg y) = false := (Ctx.tbPoison_eq hk).trans hclean
  have hstage : c.g.stage ≠ .released := by
    rw [hr.fresh]
    exact Stage.noConfusion
  refine ⟨fun hover => ?_, fun hrunning => ?_⟩
  · refine ⟨_, hr.ends_done (s₁ := c.s) ?_, by rw [Stepped, hr.state]; rfl⟩
    dsimp only
    rw [if_neg hstage, hnamed]
    dsimp only
    rw [hread, if_neg Bool.false_ne_true, if_neg hover]
  · obtain ⟨t, ht, -, hgt, -⟩ := hr.holds (i := .tbwait x y) (s₁ := c.s) (w := .transaction a p) rfl hr.fits.part hr.fits.group (.inl rfl) (by
      dsimp only
      rw [if_neg hstage, hnamed]
      dsimp only
      rw [hread, if_neg Bool.false_ne_true]
      exact if_pos hrunning)
    exact ⟨t, ht, hgt⟩

/-- Settles O30: an object's words hold its fields, so that each instruction reads what the one before it has written. -/
theorem transactionBarrierInstructions : Obligations.TransactionBarrierInstructions := ⟨objectIsMade, arrivalIsCounted, phaseIsAwaited⟩

end Sys2Proof.Machine
end

section
/-!
SUPPORT. The colander (spec/08_core_state.md R187 to R189): which byte it holds once pieces of stores have entered it, and what a store
that fits its quota leaves.
-/
namespace Sys2Proof.Machine
open Sys2Proof.Spec

/-! ## Bytes of a line -/

theorem get?_foldl_set {α : Type} (bytes t : Table α) (off : Nat) (h : Table.get? bytes off = none) :
    Table.get? (bytes.foldl (fun b e => Table.set b e.1 e.2) t) off = Table.get? t off := by
  induction bytes generalizing t with
  | nil => rfl
  | cons e rest ih =>
    rw [Table.get?_cons] at h
    split at h
    · cases h
    next hne =>
      rw [List.foldl_cons, ih _ h, Table.get?_set, if_neg hne]

theorem mem_of_get? {α : Type} {t : Table α} {k : Nat} {x : α} (h : Table.get? t k = some x) : (k, x) ∈ t := by
  induction t with
  | nil => cases h
  | cons e t ih =>
    obtain ⟨j, y⟩ := e
    rw [Table.get?_cons] at h
    split at h
    next hj =>
      cases h
      exact hj ▸ List.mem_cons_self
    · exact List.mem_cons_of_mem _ (ih h)

theorem get?_foldl_set_mem {α : Type} (bytes t : Table α) {off : Nat} {b : α} (hnodup : (bytes.map Prod.fst).Nodup) (h : (off, b) ∈ bytes) :
    Table.get? (bytes.foldl (fun b e => Table.set b e.1 e.2) t) off = some b := by
  induction bytes generalizing t with
  | nil => cases h
  | cons e rest ih =>
    obtain ⟨hnew, hrest⟩ := List.nodup_cons.1 hnodup
    rw [List.foldl_cons]
    rcases List.mem_cons.1 h with rfl | h
    · have hnone : Table.get? rest off = none := by
        by_contra hsome
        obtain ⟨x, hx⟩ := Option.ne_none_iff_exists'.1 hsome
        exact hnew (List.mem_map.2 ⟨_, mem_of_get? hx, rfl⟩)
      rw [get?_foldl_set _ _ _ hnone, Table.get?_set_same]
    · exact ih _ hrest h

theorem get?_of_mem_nodup {α : Type} {t : Table α} {off : Nat} {b : α} (hnodup : (t.map Prod.fst).Nodup) (h : (off, b) ∈ t) :
    Table.get? t off = some b := by
  induction t with
  | nil => cases h
  | cons e rest ih =>
    obtain ⟨hnew, hrest⟩ := List.nodup_cons.1 hnodup
    rw [Table.get?_cons]
    rcases List.mem_cons.1 h with rfl | h
    · rw [if_pos rfl]
    · have hne : e.1 ≠ off := fun he => hnew (he ▸ List.mem_map.2 ⟨_, h, rfl⟩)
      rw [if_neg hne, ih hrest h]

theorem lineBytes_keys (off : Nat) (bs : List Byte) : ((lineBytes off bs).map Prod.fst) = (List.range bs.length).map (off + ·) := by
  have hzip : ((List.range bs.length).zip bs).map Prod.fst = List.range bs.length := List.map_fst_zip (by simp)
  have hkeys := congrArg (List.map (off + ·)) hzip
  rw [List.map_map] at hkeys
  rw [lineBytes, List.map_map]
  exact hkeys

theorem lineBytes_nodup (off : Nat) (bs : List Byte) : ((lineBytes off bs).map Prod.fst).Nodup := by
  rw [lineBytes_keys]
  exact List.nodup_range.map fun _ _ h => Nat.add_left_cancel h

/-! ## The colander after a piece (R187) -/

/-- The byte that a team's colander itself holds. -/
def Team.inColander (t : Team) (vline off : Nat) : Option Byte :=
  (t.colander.find? fun l => l.vline == vline).bind fun l => Table.get? l.bytes off

theorem Team.forward_of_inColander {t : Team} {vline off : Nat} {b : Byte} (h : t.inColander vline off = some b) : t.forward vline off = some b := by
  rw [Team.inColander] at h
  rw [Team.forward, h]

theorem vline_of_find? {ls : List ColLine} {vline : Nat} {l : ColLine} (h : (ls.find? fun l => l.vline == vline) = some l) : l.vline = vline :=
  beq_iff_eq.1 (List.find?_some (p := fun l : ColLine => l.vline == vline) h)

theorem find?_insertBy {α : Type} {key : α → Nat} {x : α} {l : List α} {p : α → Bool} (hx : p x = true) (hl : ∀ y ∈ l, p y = false) :
    (insertBy key x l).find? p = some x := by
  induction l with
  | nil => exact List.find?_cons_of_pos hx
  | cons y l ih =>
    rw [insertBy]
    split
    · exact List.find?_cons_of_pos hx
    · rw [List.find?_cons_of_neg (by rw [hl y List.mem_cons_self]; exact Bool.false_ne_true)]
      exact ih fun z hz => hl z (List.mem_cons_of_mem _ hz)

theorem find?_insertBy_of_neg {α : Type} {key : α → Nat} {x : α} {l : List α} {p : α → Bool} (hx : p x = false) :
    (insertBy key x l).find? p = l.find? p := by
  induction l with
  | nil => exact List.find?_cons_of_neg (by rw [hx]; exact Bool.false_ne_true)
  | cons y l ih =>
    rw [insertBy]
    split
    · exact List.find?_cons_of_neg (by rw [hx]; exact Bool.false_ne_true)
    · rw [List.find?_cons, List.find?_cons, ih]

/-- The line of a number, after the lines of one number have been merged with a piece. -/
theorem find?_merge (l : List ColLine) (m : ColLine) (vline : Nat) :
    (l.map fun l => if l.vline == m.vline then l.merge m else l).find? (fun l => l.vline == vline) =
      (l.find? fun l => l.vline == vline).map fun l => if l.vline == m.vline then l.merge m else l := by
  rw [List.find?_map]
  refine congrArg (Option.map _) (congrArg (List.find? · l) (funext fun l => ?_))
  rw [Function.comp_apply]
  split <;> rfl

section
variable {t t' : Team} {m : ColLine}

theorem Team.inColander_put_ne (h : t.put m = some t') {vline off : Nat} (hne : m.vline ≠ vline ∨ Table.get? m.bytes off = none) :
    t'.inColander vline off = t.inColander vline off := by
  rw [Team.put] at h
  split at h
  · cases h
    rw [Team.inColander, Team.inColander, find?_merge]
    cases hf : t.colander.find? fun l => l.vline == vline with
    | none => rfl
    | some l =>
      have hl : l.vline = vline := vline_of_find? hf
      rw [Option.map_some, Option.bind_some, Option.bind_some]
      split
      next heq => exact get?_foldl_set _ _ _ (hne.resolve_left fun hn => hn ((beq_iff_eq.1 heq).symm.trans hl))
      · rfl
  next hnone =>
    split at h
    · cases h
      by_cases hv : m.vline = vline
      · have hold : ∀ l ∈ t.colander, (l.vline == vline) = false := fun l hl => Bool.eq_false_iff.2 fun heq =>
          hnone (List.any_eq_true.2 ⟨l, hl, hv ▸ heq⟩)
        have hnew := find?_insertBy (key := ColLine.vline) (x := m) (p := fun l : ColLine => l.vline == vline) (beq_iff_eq.2 hv) hold
        have hnothing : (t.colander.find? fun l => l.vline == vline) = none := List.find?_eq_none.2 fun l hl => Bool.eq_false_iff.1 (hold l hl)
        rw [Team.inColander, Team.inColander, hnothing]
        exact (congrArg (Option.bind · _) hnew).trans (hne.resolve_left fun hn => hn hv)
      · exact congrArg (Option.bind · _) (find?_insertBy_of_neg (p := fun l : ColLine => l.vline == vline) (beq_eq_false_iff_ne.2 hv))
    · cases h

theorem Team.inColander_put (h : t.put m = some t') (hnodup : (m.bytes.map Prod.fst).Nodup) {off : Nat} {b : Byte} (hmem : (off, b) ∈ m.bytes) :
    t'.inColander m.vline off = some b := by
  rw [Team.put] at h
  split at h
  next hany =>
    cases h
    rw [Team.inColander, find?_merge]
    obtain ⟨l, hl, heq⟩ := List.any_eq_true.1 hany
    cases hf : t.colander.find? fun l => l.vline == m.vline with
    | none => exact absurd heq (List.find?_eq_none.1 hf l hl)
    | some l' =>
      rw [Option.map_some, Option.bind_some, if_pos (beq_iff_eq.2 (vline_of_find? hf))]
      exact get?_foldl_set_mem _ _ hnodup hmem
  next hnone =>
    split at h
    · cases h
      have hold : ∀ l ∈ t.colander, (l.vline == m.vline) = false := fun l hl => Bool.eq_false_iff.2 fun heq =>
        hnone (List.any_eq_true.2 ⟨l, hl, heq⟩)
      have hnew := find?_insertBy (key := ColLine.vline) (x := m) (p := fun l : ColLine => l.vline == m.vline) (beq_self_eq_true _) hold
      exact (congrArg (Option.bind · _) hnew).trans (get?_of_mem_nodup hnodup hmem)
    · cases h
end

/-! ## The colander after all pieces -/

theorem Team.putAll_le (t : Team) (ps : List ColLine) (n : Nat) : (t.putAll ps n).2 ≤ n + ps.length := by
  induction ps generalizing t n with
  | nil => exact Nat.le_refl _
  | cons m ps ih =>
    rw [Team.putAll]
    split
    next t' _ => exact Nat.le_trans (ih t' (n + 1)) (by rw [List.length_cons]; omega)
    · exact Nat.le_add_right ..

/-- Where all pieces fit, the first one does, and then the rest. -/
theorem Team.putAll_cons {t : Team} {m : ColLine} {ps : List ColLine} {n : Nat} (h : (t.putAll (m :: ps) n).2 = n + (m :: ps).length) :
    ∃ t', t.put m = some t' ∧ t.putAll (m :: ps) n = t'.putAll ps (n + 1) ∧ (t'.putAll ps (n + 1)).2 = n + 1 + ps.length := by
  rw [Team.putAll] at h ⊢
  cases hp : t.put m with
  | none =>
    rw [hp, List.length_cons] at h
    dsimp only at h
    omega
  | some t' =>
    rw [hp, List.length_cons] at h
    exact ⟨t', rfl, rfl, h.trans (by omega)⟩

theorem Team.inColander_putAll_of_none {t : Team} {ps : List ColLine} {n vline off : Nat} (h : (t.putAll ps n).2 = n + ps.length)
    (hnone : ∀ y ∈ ps, y.vline = vline → Table.get? y.bytes off = none) : (t.putAll ps n).1.inColander vline off = t.inColander vline off := by
  induction ps generalizing t n with
  | nil => rfl
  | cons m ps ih =>
    obtain ⟨t', hput, heq, hrest⟩ := Team.putAll_cons h
    rw [heq, ih hrest fun y hy => hnone y (List.mem_cons_of_mem _ hy)]
    exact Team.inColander_put_ne hput (Classical.or_iff_not_imp_left.2 fun hv => hnone m List.mem_cons_self (not_not.1 hv))

/-- The last piece that has a byte gives it. -/
theorem Team.inColander_putAll {t : Team} {before after : List ColLine} {x : ColLine} {n off : Nat} {b : Byte}
    (h : (t.putAll (before ++ x :: after) n).2 = n + (before ++ x :: after).length) (hnodup : (x.bytes.map Prod.fst).Nodup)
    (hmem : (off, b) ∈ x.bytes) (hlast : ∀ y ∈ after, y.vline = x.vline → Table.get? y.bytes off = none) :
    (t.putAll (before ++ x :: after) n).1.inColander x.vline off = some b := by
  induction before generalizing t n with
  | nil =>
    obtain ⟨t', hput, heq, hrest⟩ := Team.putAll_cons h
    rw [List.nil_append, heq, Team.inColander_putAll_of_none hrest hlast]
    exact Team.inColander_put hput hnodup hmem
  | cons m before ih =>
    obtain ⟨t', hput, heq, hrest⟩ := Team.putAll_cons h
    exact (congrArg (fun r : Team × Nat => r.1.inColander x.vline off) heq).trans (ih hrest)

/-- Of pieces of different lines, each gives its bytes. -/
theorem Team.inColander_putAll_of_mem {t : Team} {ps : List ColLine} {x : ColLine} {off : Nat} {b : Byte} (h : (t.putAll ps 0).2 = ps.length)
    (hlines : (ps.map ColLine.vline).Nodup) (hx : x ∈ ps) (hnodup : (x.bytes.map Prod.fst).Nodup) (hmem : (off, b) ∈ x.bytes) :
    (t.putAll ps 0).1.inColander x.vline off = some b := by
  obtain ⟨before, after, rfl⟩ := List.append_of_mem hx
  refine Team.inColander_putAll (h.trans (Nat.zero_add _).symm) hnodup hmem fun y hy hv => ?_
  rw [List.map_append, List.map_cons] at hlines
  exact absurd (hv ▸ List.mem_map_of_mem hy) (List.nodup_cons.1 (List.nodup_append.1 hlines).2.1).1

theorem mem_lineBytes {off : Nat} {bs : List Byte} {k : Nat} (hk : k < bs.length) (d : Byte) : (off + k, bs.getD k d) ∈ lineBytes off bs := by
  rw [List.getD_eq_getElem _ _ hk]
  exact List.mem_map.2 ⟨(k, bs[k]), List.mem_iff_getElem.2 ⟨k, by simpa using hk, by simp⟩, rfl⟩

/-- What pieces leave as it is. -/
structure Team.Stored (t t' : Team) : Prop where
  slot : t'.slot = t.slot
  groups : t'.groups = t.groups
  anch : t'.anch = t.anch
  core : t'.core = t.core
  runBase : t'.runBase = t.runBase

theorem Team.put_stored {t t' : Team} {m : ColLine} (h : t.put m = some t') : t.Stored t' := by
  rw [Team.put] at h
  split at h
  · cases h
    exact ⟨rfl, rfl, rfl, rfl, rfl⟩
  · split at h
    · cases h
      exact ⟨rfl, rfl, rfl, rfl, rfl⟩
    · cases h

theorem Team.putAll_stored (t : Team) (ps : List ColLine) (n : Nat) : t.Stored (t.putAll ps n).1 := by
  induction ps generalizing t n with
  | nil => exact ⟨rfl, rfl, rfl, rfl, rfl⟩
  | cons m ps ih =>
    rw [Team.putAll]
    split
    next t' hp =>
      obtain ⟨h1, h2, h3, h4, h5⟩ := Team.put_stored hp
      obtain ⟨k1, k2, k3, k4, k5⟩ := ih t' (n + 1)
      exact ⟨k1.trans h1, k2.trans h2, k3.trans h3, k4.trans h4, k5.trans h5⟩
    · exact ⟨rfl, rfl, rfl, rfl, rfl⟩

/-! ## The same beside decline marks -/

theorem Team.put_unmark (t : Team) (vps : List Nat) (m : ColLine) : (t.unmark vps).put m = (t.put m).map (Team.unmark vps) := by
  rw [Team.put, Team.put]
  change (if (t.colander.any fun l => l.vline == m.vline) = true then _ else if t.used < t.quota then _ else none) = _
  split
  · rfl
  · split <;> rfl

theorem Team.putAll_unmark (t : Team) (vps : List Nat) (ps : List ColLine) (n : Nat) :
    (t.unmark vps).putAll ps n = ((t.putAll ps n).1.unmark vps, (t.putAll ps n).2) := by
  induction ps generalizing t n with
  | nil => rfl
  | cons m ps ih =>
    rw [Team.putAll, Team.putAll, Team.put_unmark]
    cases hp : t.put m with
    | none => rfl
    | some t' => exact ih t' (n + 1)

/-! ## A store that fits (R187) -/

theorem Team.maskPoison_of_clean {t : Team} (h : MasksClean t) (ps : List ColLine) : t.maskPoison ps = false := by
  rw [Team.maskPoison, List.any_eq_false]
  intro l hl hbad
  obtain ⟨m, -, hm⟩ := List.any_eq_true.1 (Bool.and_eq_true_iff.1 hbad).2
  obtain ⟨e, -, he⟩ := List.any_eq_true.1 (Bool.and_eq_true_iff.1 hm).2
  rw [ColLine.maskPoison, List.contains_iff_mem] at he
  have := h l hl _ he
  omega

/-- The partition after the pieces have entered the colander of a group's team. -/
def Ctx.storedP (c : Ctx) (t : Team) (ps : List ColLine) : Part := (c.P.modTeam c.tk fun _ => (t.putAll ps 0).1).supersede c.gid ps

theorem Ctx.group?_storedP {c : Ctx} (hfit : c.Fits) {t : Team} (hteam : c.team? = some t) (ps : List ColLine) :
    (c.storedP t ps).group? c.gid = some c.g := by
  have hw := Ctx.not_whisk_of_team hteam
  have hteamP : c.P.team? c.tk = some t := Ctx.team?_P hteam
  have hgroup := hfit.group
  rw [Part.group?, if_neg (Bool.eq_false_iff.1 hw)] at hgroup ⊢
  change (((c.P.modTeam c.tk fun _ => (t.putAll ps 0).1).team? c.tk).bind _) = _
  rw [Part.team?_modTeam_same, hteamP, Option.map_some, Option.bind_some, (t.putAll_stored ps 0).groups]
  rw [show c.P.team? (gidTeam c.gid) = some t from hteamP] at hgroup
  exact hgroup

theorem Ctx.team?_storedP {c : Ctx} {t : Team} (hteam : c.P.team? c.tk = some t) (ps : List ColLine) :
    (c.storedP t ps).team? c.tk = some (t.putAll ps 0).1 := by
  change (c.P.modTeam c.tk fun _ => (t.putAll ps 0).1).team? c.tk = _
  rw [Part.team?_modTeam_same, hteam]
  rfl

theorem Group.stage_fresh {g : Group} (h : g.stage = .fresh) : { g with stage := .fresh } = g := by
  rw [← h]

theorem Ctx.store_fits {c : Ctx} {t : Team} {ps : List ColLine} (hteam : c.team? = some t) (hstage : c.g.stage = .fresh) (hclean : MasksClean t)
    (hall : (t.putAll ps 0).2 = ps.length) (hfit : c.Fits) (body : Ctx → Res) :
    c.store ps body = body ((c.setP (c.storedP t ps)).setG c.g) := by
  have hg : (c.setP (c.storedP t ps)).g = c.g := Ctx.g_setP (c.group?_storedP hfit hteam ps)
  rw [Ctx.store, hteam]
  dsimp only
  rw [hstage]
  dsimp only
  rw [Bool.false_and, if_neg Bool.false_ne_true, List.drop_zero, Team.maskPoison_of_clean hclean, if_neg Bool.false_ne_true,
    if_pos (Nat.le_of_eq hall.symm)]
  change body ((c.setP (c.storedP t ps)).setG { (c.setP (c.storedP t ps)).g with stage := .fresh }) = _
  rw [hg, Group.stage_fresh hstage]

theorem Ctx.storeWhole_fits {c : Ctx} {t : Team} {ps : List ColLine} (hteam : c.team? = some t) (hstage : c.g.stage = .fresh)
    (hall : (t.putAll ps 0).2 = ps.length) (body : Ctx → Res) :
    c.storeWhole ps body = body ((c.setP (c.storedP t ps)).setG c.g) := by
  rw [Ctx.storeWhole, hteam]
  dsimp only
  rw [if_pos (Nat.le_of_eq hall.symm), Group.stage_fresh hstage]
  rfl

/-- The partition after the pieces have entered the colander: of the team only its colander has changed. -/
theorem Ctx.cores_storedP (c : Ctx) (t : Team) (ps : List ColLine) : (c.storedP t ps).run.cores = c.P.run.cores := rfl

/-! ## A range of the scratchpad within one slot (R170) -/

theorem slotPieces_within {slot off len : Nat} (hoff : off + len ≤ 4096) (hlen : 0 < len) :
    slotPieces (slot * 4096 + off) len = [(slot, off, len)] := by
  have hslot : (slot * 4096 + off) / 4096 = slot := by omega
  have hone : (slot * 4096 + off + len + 4096 - 1) / 4096 - slot = 1 := by omega
  have hlow : max (slot * 4096 + off) (slot * 4096) = slot * 4096 + off := Nat.max_eq_left (Nat.le_add_right ..)
  have hmod : (slot * 4096 + off) % 4096 = off := by omega
  have hhigh : min (slot * 4096 + off + len) (slot * 4096 + 4096) - (slot * 4096 + off) = len := by omega
  rw [slotPieces, touched, hslot, hone]
  simp only [List.range_one, List.map_cons, List.map_nil, Nat.add_zero, hlow, hmod, hhigh]

/-! ## Translated addresses (R340) -/

theorem levelSize_dvd (level : Nat) : 8192 ∣ levelSize level :=
  pow_dvd_pow 2 (show 13 ≤ 16 + 10 * level by omega)

theorem ok_of_ite_denied {p : Prop} [Decidable p] {x y : Xlate} (h : (if p then .denied else x) = y) (hy : y ≠ .denied) : x = y := by
  by_cases hp : p
  · rw [if_pos hp] at h
    exact absurd h.symm hy
  · rwa [if_neg hp] at h

theorem State.useLeaf_low {s : State} {P : Part} {acc : Acc} {va : Nat} {from' : Option Nat} {leaf : DWord} {size pa : Nat} {obs : Bool}
    {at' : Option Nat} {pte : DWord} {level : Nat} (h : s.useLeaf P acc va from' leaf size = .ok pa obs at' pte level) : pa % 8192 = va % 8192 := by
  unfold State.useLeaf at h
  cases ok_of_ite_denied h Xlate.noConfusion
  rw [Nat.add_mod, Nat.mul_mod_left, Nat.zero_add, Nat.mod_mod, Nat.mod_mod_of_dvd _ (levelSize_dvd _)]

/-- A translated address keeps its place within 8,192 bytes, the smallest unit of a frame. -/
theorem Ctx.look_low {c : Ctx} {acc : Acc} {va pa : Nat} {obs : Bool} {at' : Option Nat} {pte : DWord} {level : Nat}
    (h : c.look acc va = .ok pa obs at' pte level) : pa % 8192 = va % 8192 := by
  rw [Ctx.look, State.look] at h
  split at h
  · exact State.useLeaf_low h
  · rw [State.walked] at h
    split at h
    · exact State.useLeaf_low h
    all_goals cases h

/-! ## What the walks of an access leave alone (R340) -/

section
variable {c c' : Ctx} {acc : Acc} {items : List (Nat × DWord)}

theorem Translated.tk (h : Translated c acc items c') : c'.tk = c.tk := by
  rw [Ctx.tk, h.gid]
  rfl

theorem Translated.core? (h : Translated c acc items c') (n : Nat) : c'.P.core? n = c.P.core? n := by
  rw [Part.core?, Part.core?, h.run]

theorem Translated.team (h : Translated c acc items c') : ∃ vps, ∀ tk, c'.P.team? tk = (c.P.team? tk).map fun t => if tk = c.tk then t.unmark vps else t := by
  obtain ⟨vps, hteams⟩ := h.teams
  refine ⟨vps, fun tk => ?_⟩
  rw [Part.team?, Part.team?, hteams, Table.get?_modify]
  by_cases hk : tk = c.tk
  · rw [if_pos hk.symm]
    simp only [if_pos hk]
  · rw [if_neg (Ne.symm hk)]
    simp only [if_neg hk]
    exact Option.map_id'.symm

/-- The group's team is the same but for its decline marks. -/
theorem Translated.team? (h : Translated c acc items c') : ∃ vps, c'.team? = c.team?.map (Team.unmark vps) := by
  obtain ⟨vps, hteam⟩ := h.team
  refine ⟨vps, ?_⟩
  by_cases hw : isWhisk c.gid = true
  · rw [Ctx.team?_of_whisk hw, Ctx.team?_of_whisk (c := c') (h.gid ▸ hw)]
    rfl
  · have hw : isWhisk c.gid = false := Bool.eq_false_iff.2 hw
    rw [Ctx.team?_of_team hw, Ctx.team?_of_team (c := c') (h.gid ▸ hw), h.gid, hteam]
    exact congrArg (Option.map · _) (funext fun t => if_pos rfl)

theorem Translated.team_of (h : Translated c acc items c') {t : Team} (ht : c.team? = some t) :
    ∃ vps, c'.team? = some (t.unmark vps) := by
  obtain ⟨vps, hteam⟩ := h.team?
  exact ⟨vps, by rw [hteam, ht, Option.map_some]⟩

theorem Translated.coreOf (h : Translated c acc items c') (gid : Nat) : c'.P.coreOf gid = c.P.coreOf gid := by
  obtain ⟨vps, hteam⟩ := h.team
  refine Part.coreOf_congr (fun tk => ?_) gid
  rw [hteam, Option.map_map]
  refine congrArg (Option.map · _) (funext fun t => ?_)
  rw [Function.comp_apply]
  split <;> rfl

theorem Translated.tag? (h : Translated c acc items c') (core slot : Nat) : c'.P.tag? core slot = c.P.tag? core slot := by
  rw [Part.tag?, Part.tag?, h.core?]

theorem Translated.reach (h : Translated c acc items c') (slot : Nat) : c'.reach slot = c.reach slot := by
  rw [Ctx.reach, Ctx.reach, h.gid, h.coreOf, h.tag?]
  obtain ⟨vps, hteam⟩ := h.team?
  rw [hteam]
  cases c.team? with
  | none => rfl
  | some t => cases c.P.tag? (c.P.coreOf c.gid) slot <;> rfl

theorem Translated.loadSlot (h : Translated c acc items c') (slot : Nat) : c'.loadSlot slot = c.loadSlot slot := by
  obtain ⟨vps, hteam⟩ := h.team?
  rw [Ctx.loadSlot, Ctx.loadSlot, h.reach, hteam]
  cases c.reach slot with
  | writing dir j => cases c.team? <;> rfl
  | _ => rfl

theorem Translated.peek (h : Translated c acc items c') (addr len : Nat) : c'.peek addr len = c.peek addr len := by
  rw [Ctx.peek, Ctx.peek, h.gid, h.coreOf, h.core?]
  cases c.P.core? (c.P.coreOf c.gid) with
  | none => rfl
  | some k => simp only [h.loadSlot]

theorem Translated.peekPoison (h : Translated c acc items c') (addr len : Nat) : c'.peekPoison addr len = c.peekPoison addr len := by
  rw [Ctx.peekPoison, Ctx.peekPoison, Ctx.tagPoison, Ctx.tagPoison, h.gid, h.coreOf, h.core?]
  simp only [h.loadSlot]

theorem Translated.ops (h : Translated c acc items c') : c'.P.run.ops = c.P.run.ops := by
  rw [h.run]

theorem Translated.slotCopies (h : Translated c acc items c') (slot : Nat) : c'.slotCopies slot = c.slotCopies slot := by
  rw [Ctx.slotCopies, Ctx.slotCopies, h.ops, h.tk]
end

/-! ## An instruction that has come to another context (R40) -/

/-- An instruction whose effect has led to `c'`, and which completes with the group `g`. -/
theorem Ready.finishes {c c' : Ctx} {s : State} {i : Instr} {body : Ctx → Res} {g : Group} (h : Ready c s i)
    (he : exec i s = Machine.issue i s body) (hfit : c'.Fits) (hp : c'.p = c.p) (hgid : c'.gid = c.gid) (hb : body c = .done (c'.put g)) :
    ∃ t, exec i s = .next t ∧ Ended c c'.P (g.completed (g.pc + 4)) t ∧ t.group? c.p c.gid = some (g.completed (g.pc + 4)) ∧
      ∀ a, t.byte a = c'.s.byte a := by
  have hpart := hfit.part_put g
  rw [hp, hgid] at hpart
  have hgroup : (c'.P.setGroup c.gid g).group? c.gid = some g := Part.group?_setGroup _ _ _ _ (hgid ▸ hfit.group)
  obtain ⟨t, ht, hP, hg, hbyte⟩ := h.completes he hb hpart hgroup
  rw [Part.setGroup_setGroup] at hP
  exact ⟨t, ht, hP, hg, hbyte⟩

/-- The context in which a store that fits has entered the colander. -/
def Ctx.stored (c : Ctx) (t : Team) (ps : List ColLine) : Ctx := (c.setP (c.storedP t ps)).setG c.g

section
variable {c : Ctx} {t : Team} {ps : List ColLine}

theorem Ctx.fits_stored (hfit : c.Fits) (hteam : c.team? = some t) : (c.stored t ps).Fits :=
  (Ctx.Fits.setP (c.group?_storedP hfit hteam ps)).setG _
theorem Ctx.p_stored : (c.stored t ps).p = c.p := rfl
theorem Ctx.gid_stored : (c.stored t ps).gid = c.gid := rfl
theorem Ctx.g_stored : (c.stored t ps).g = c.g := rfl
theorem Ctx.byte_stored (a : Nat) : (c.stored t ps).s.byte a = c.s.byte a := rfl
theorem Ctx.P_stored : (c.stored t ps).P = (c.storedP t ps).setGroup c.gid c.g := rfl
theorem Ctx.core?_stored (n : Nat) : (c.stored t ps).P.core? n = c.P.core? n := Part.core?_setGroup ..

theorem Ctx.team?_stored (hteam : c.team? = some t) :
    (c.stored t ps).P.team? c.tk = some ((t.putAll ps 0).1.putGroup (gidGroup c.gid) c.g) := by
  have hw := Ctx.not_whisk_of_team hteam
  have hteamP : c.P.team? c.tk = some t := Ctx.team?_P hteam
  exact (Part.team?_setGroup_team _ hw c.g).trans (congrArg (Option.map _) (Ctx.team?_storedP hteamP ps))

theorem Ctx.coreOf_stored (hteam : c.team? = some t) : (c.stored t ps).P.coreOf c.gid = c.P.coreOf c.gid := by
  have hw := Ctx.not_whisk_of_team hteam
  have hteamP : c.P.team? (gidTeam c.gid) = some t := Ctx.team?_P hteam
  have hstored : (c.stored t ps).P.team? (gidTeam c.gid) = _ := Ctx.team?_stored (ps := ps) hteam
  rw [Part.coreOf, Part.coreOf, hstored, hteamP]
  exact congrArg (ite _ _) (t.putAll_stored ps 0).core
end

end Sys2Proof.Machine
end

section
/-!
PROOF. The tag instructions (spec/09_core_memory_instr.md R208 to R210).
-/
namespace Sys2Proof.Machine
open Sys2Proof.Spec

section
variable {c : Ctx} {s : State} {i : Instr} {slot : Nat} {tag : Tag}

theorem tagOf_ready (h : Ready c s i) (slot : Nat) : tagOf s c slot = c.P.tag? (c.P.coreOf c.gid) slot := by
  rw [tagOf, ← h.state, h.fits.part]
  rfl

/-- A core with a slot's tag set, and its guards cleared. -/
def Core.retagged (slot : Nat) (key : DWord) (state : BitVec 3) (k : Core) : Core :=
  { k with tags := Table.modify k.tags slot fun g => { g with key := key, state := state }, guards := k.guards.filter fun g => g / 256 != slot }

theorem Ctx.retag_eq (c : Ctx) (slot : Nat) (key : DWord) (state : BitVec 3) :
    c.retag slot key state = c.setP (c.P.modCore (c.P.coreOf c.gid) (Core.retagged slot key state)) := rfl

theorem Part.tag?_retagged {P : Part} {core : Nat} (h : P.tag? core slot = some tag) (key : DWord) (state : BitVec 3) :
    (P.modCore core (Core.retagged slot key state)).tag? core slot = some { tag with key := key, state := state } := by
  obtain ⟨k, hk, htag⟩ := Option.bind_eq_some_iff.1 h
  rw [Part.tag?, Part.core?_modCore_same, hk, Option.map_some, Option.bind_some]
  exact (Table.get?_modify_same k.tags slot fun g => { g with key := key, state := state }).trans (congrArg (Option.map _) htag)

theorem reach_ne_of_own {n m : Nat} (h : c.reach slot = .own n) (hne : n ≠ m) : (c.reach slot == .own m) = false := by
  rw [h, beq_eq_false_iff_ne]
  exact fun he => hne (Reach.own.inj he)

/-- The slot is one of the team's own, and a `sevict` may have it. -/
theorem mine_of_reach (h : c.reach slot = .own 2 ∨ c.reach slot = .own 3) : (!(c.reach slot == .own 2 || c.reach slot == .own 3)) = false := by
  rcases h with h | h <;> rw [h] <;> rfl
end

theorem keyIsLookedUp (c : Ctx) (s : State) (x y : SReg) (l : La) (hr : Ready c s (.slk x y l)) :
    ∃ t g, exec (.slk x y l) s = .next t ∧ t.group? c.p c.gid = some g ∧
      KeptBut c g x (BitVec.ofNat 64 ((c.lookup (c.g.sreg y)).getD 0xFFFF)) := by
  obtain ⟨t, g, ht, hg, hkept, -⟩ := hr.leaves_scalar (l := l) (rs := [x]) (v := BitVec.ofNat 64 ((c.lookup (c.g.sreg y)).getD 0xFFFF)) rfl
    (Ctx.Leads.refl hr.fits) rfl rfl (rel := fun _ g => KeptBut c g x (BitVec.ofNat 64 ((c.lookup (c.g.sreg y)).getD 0xFFFF)))
    fun _ _ => keptBut_doneS ..
  exact ⟨t, g, ht, hg, hkept⟩

theorem slotIsFilled (c : Ctx) (s : State) (x y : SReg) (l : La) (tag : Tag) (hr : Ready c s (.sfill x y l)) (hteam : isWhisk c.gid = false) :
    let key := c.g.sreg y
    let slot := (c.g.sreg x).toNat % 256
    canonical key = true → c.reach slot = .own 1 → c.slotTbPoison slot = false → c.slotBusy slot = false → c.slotCopies slot = false →
    tagOf s c slot = some tag →
    ∃ t g, exec (.sfill x y l) s = .next t ∧ t.group? c.p c.gid = some g ∧
      (∀ n, c.lookup key = some n → KeptBut c g x (BitVec.ofNat 64 (0x10000 + n)) ∧ tagOf t c slot = some tag) ∧
      (c.lookup key = none → KeptBut c g x (BitVec.ofNat 64 slot) ∧ tagOf t c slot = some { tag with key := key, state := 2 }) := by
  intro key slot hkey hreach hpoison hbusy hcopies htag
  rw [tagOf_ready hr] at htag
  have hown : ¬(!c.privateSlot slot || isWhisk c.gid) = true := by
    rw [privateSlot_of_own hreach, hteam]
    exact Bool.false_ne_true
  have hcanonical : ¬(!canonical key) = true := by
    rw [hkey]
    exact Bool.false_ne_true
  have hpass (r : Res) : (if (!canonical key) = true then Res.trap c.s ⟨2, key⟩
      else if (!c.privateSlot slot || isWhisk c.gid) = true then .trap c.s ⟨0x13, padInfo (slot * 4096 : Nat) 0 1⟩
      else if c.slotTbPoison slot then c.consumed
      else if c.slotBusy slot then .trap c.s ⟨0x15, padInfo (slot * 4096 : Nat) 0 1⟩
      else if c.slotCopies slot then .wait c.s .inFlight else r) = r := by
    rw [if_neg hcanonical, if_neg hown, if_neg (Bool.eq_false_iff.1 hpoison), if_neg (Bool.eq_false_iff.1 hbusy),
      if_neg (Bool.eq_false_iff.1 hcopies)]
  cases hlook : c.lookup key with
  | some n =>
    obtain ⟨t, g, ht, hg, hrel, -⟩ := hr.leaves_scalar (l := l) (rs := [x]) (v := BitVec.ofNat 64 (0x10000 + n)) rfl
      (Ctx.Leads.refl hr.fits) rfl ((hpass _).trans (by rw [hlook]))
      (rel := fun t g => KeptBut c g x (BitVec.ofNat 64 (0x10000 + n)) ∧ tagOf t c slot = some tag)
      fun t ht => ⟨keptBut_doneS .., (ht.tagOf slot).trans htag⟩
    refine ⟨t, g, ht, hg, fun m hm => ?_, fun hnone => nomatch hnone⟩
    cases hm
    exact hrel
  | none =>
    have hg := (Part.group?_modCore c.P (c.P.coreOf c.gid) (Core.retagged slot key 2) c.gid).trans hr.fits.group
    obtain ⟨t, g, ht, hgt, hrel, -⟩ := hr.leaves_scalar (l := l) (rs := [x]) (v := BitVec.ofNat 64 slot) (c' := c.retag slot key 2) rfl
      ((Ctx.Leads.refl hr.fits).setP hg) (Ctx.g_setP hg) ((hpass _).trans (by rw [hlook]))
      (rel := fun t g => KeptBut c g x (BitVec.ofNat 64 slot) ∧ tagOf t c slot = some { tag with key := key, state := 2 })
      fun t ht => ⟨keptBut_doneS .., (ht.tagOf slot).trans (Part.tag?_retagged htag ..)⟩
    exact ⟨t, g, ht, hgt, fun m hm => (nomatch hm), fun _ => hrel⟩

/-- The original key that a slot takes again (R171). -/
theorem privateKey_eq {c : Ctx} {tm : Team} (hteam : c.team? = some tm) (slot : Nat) :
    privateKey (slot - (c.team?.map Team.runBase).getD 0) = BitVec.ofNat 64 (2 ^ 63 + (slot - tm.runBase)) := by
  rw [hteam]
  rfl

theorem slotIsDropped (c : Ctx) (s : State) (x : SReg) (l : La) (tm : Team) (tag : Tag) (hr : Ready c s (.sevict x 0 l)) (hteam : c.team? = some tm) :
    let slot := (c.g.sreg x).toNat % 256
    (c.reach slot = .own 2 ∨ c.reach slot = .own 3) → c.slotTbPoison slot = false → c.slotBusy slot = false →
    c.slotCopies slot = false →
    tagOf s c slot = some tag → isWhisk c.gid = false →
    ∃ t g, exec (.sevict x 0 l) s = .next t ∧ t.group? c.p c.gid = some g ∧ Kept c g ∧
      tagOf t c slot = some { tag with key := BitVec.ofNat 64 (2 ^ 63 + (slot - tm.runBase)), state := 1 } := by
  intro slot hreach hpoison hbusy hcopies htag hw
  rw [tagOf_ready hr] at htag
  obtain ⟨t, g, ht, hg, ⟨hkept, hnew⟩, -⟩ := hr.leaves_core (l := l)
    (f := Core.retagged slot (BitVec.ofNat 64 (2 ^ 63 + (slot - tm.runBase))) 1)
    (rel := fun t g => Kept c g ∧ tagOf t c slot = some { tag with key := BitVec.ofNat 64 (2 ^ 63 + (slot - tm.runBase)), state := 1 }) rfl (by
      refine (if_neg (by decide)).trans ((if_neg (fun h => absurd h.1.1 (by decide))).trans ((if_neg ?_).trans
        ((if_neg (Bool.eq_false_iff.1 hpoison)).trans ((if_neg (Bool.eq_false_iff.1 hbusy)).trans
          ((if_neg (fun h => absurd h.1 (by decide))).trans ((if_neg (Bool.eq_false_iff.1 hcopies)).trans ?_))))))
      · exact Bool.eq_false_iff.1 (mine_of_reach hreach)
      · rw [privateKey_eq hteam, Ctx.retag_eq])
    fun t ht => ⟨kept_doneS .., (ht.tagOf slot).trans (Part.tag?_retagged htag ..)⟩
  exact ⟨t, g, ht, hg, hkept, hnew⟩

/-! ## A dirty slot written back (R210) -/

theorem Ctx.loadSlot_own {c : Ctx} {slot n : Nat} (h : c.reach slot = .own n) : c.loadSlot slot = slot := by
  rw [Ctx.loadSlot, h]

/-- The bytes of a slot of the team's own, as its core holds them. -/
theorem Ctx.peek_own {c : Ctx} {k : Core} {slot n : Nat} (hk : c.P.core? (c.P.coreOf c.gid) = some k) (hreach : c.reach slot = .own n) {off len : Nat}
    (hoff : off + len ≤ 4096) (hlen : 0 < len) : c.peek (slot * 4096 + off) len = Cells.getMany 0 k.scratch (slot * 4096 + off) len := by
  rw [Ctx.peek, hk]
  dsimp only
  rw [slotPieces_within hoff hlen, List.map_cons, List.map_nil, List.flatten_cons, List.flatten_nil, List.append_nil, Ctx.loadSlot_own hreach]

theorem Translated.writeBack {c c' : Ctx} {acc : Acc} {items : List (Nat × DWord)} (h : Translated c acc items c') (slot : Nat) (key : DWord) (pa : Nat)
    (obs : Bool) : c'.writeBack slot key pa obs = c.writeBack slot key pa obs := by
  rw [Ctx.writeBack, Ctx.writeBack]
  simp only [h.peek]

theorem Ctx.writeBack_length (c : Ctx) (slot : Nat) (key : DWord) (pa : Nat) (obs : Bool) : (c.writeBack slot key pa obs).length = 32 := by
  rw [Ctx.writeBack, List.length_map, List.length_range]

theorem getMany_length {w : Nat} (d : BitVec w) (c : Cells w) (k n : Nat) : (Cells.getMany d c k n).length = n := by
  rw [Cells.getMany, List.length_map, List.length_range]

theorem getMany_getD {w : Nat} (d : BitVec w) (c : Cells w) (k : Nat) {n j : Nat} (hj : j < n) : (Cells.getMany d c k n).getD j d = Cells.get d c (k + j) := by
  rw [List.getD_eq_getElem _ _ (by rw [getMany_length]; exact hj)]
  simp only [Cells.getMany, List.getElem_map, List.getElem_range]

/-- The byte that the write-back of a slot puts into the colander (R210). -/
theorem Team.forward_writeBack {c : Ctx} {k : Core} {slot n pa : Nat} {key : DWord} {obs : Bool} {t : Team}
    (hk : c.P.core? (c.P.coreOf c.gid) = some k) (hreach : c.reach slot = .own n) (hkey : key.toNat % 4096 = 0) (hpa : pa % 4096 = 0)
    (hall : (t.putAll (c.writeBack slot key pa obs) 0).2 = 32) {j : Nat} (hj : j < 4096) :
    (t.putAll (c.writeBack slot key pa obs) 0).1.forward ((key.toNat % 2 ^ 56 + j) / 128) (j % 128) = some (Cells.get 0 k.scratch (slot * 4096 + j)) := by
  have hlen := c.writeBack_length slot key pa obs
  have hvline (q : Nat) (hq : q < 32) : (key.toNat + 128 * q) % 2 ^ 56 / 128 = key.toNat % 2 ^ 56 / 128 + q := by omega
  have hlines : ((c.writeBack slot key pa obs).map ColLine.vline).Nodup := by
    rw [Ctx.writeBack, List.map_map]
    refine List.Nodup.map_on (fun q hq q' hq' h => ?_) List.nodup_range
    have h : (key.toNat + 128 * q) % 2 ^ 56 / 128 = (key.toNat + 128 * q') % 2 ^ 56 / 128 := h
    rw [hvline q (List.mem_range.1 hq), hvline q' (List.mem_range.1 hq')] at h
    exact Nat.add_left_cancel h
  have hq : j / 128 < 32 := by omega
  let x := piece (key.toNat + 128 * (j / 128)) (pa + 128 * (j / 128)) obs (c.peek (slot * 4096 + 128 * (j / 128)) 128)
  have hx : x ∈ c.writeBack slot key pa obs := List.mem_map.2 ⟨j / 128, List.mem_range.2 hq, rfl⟩
  have hpeek : c.peek (slot * 4096 + 128 * (j / 128)) 128 = Cells.getMany 0 k.scratch (slot * 4096 + 128 * (j / 128)) 128 :=
    Ctx.peek_own hk hreach (by omega) (by decide)
  have hoff : (pa + 128 * (j / 128)) % 128 = 0 := by omega
  have hmem : (j % 128, Cells.get 0 k.scratch (slot * 4096 + j)) ∈ x.bytes := by
    have hbyte := mem_lineBytes (off := 0) (bs := Cells.getMany 0 k.scratch (slot * 4096 + 128 * (j / 128)) 128) (k := j % 128)
      (by rw [getMany_length]; omega) 0
    rw [getMany_getD _ _ _ (by omega), Nat.zero_add, show slot * 4096 + 128 * (j / 128) + j % 128 = slot * 4096 + j by omega] at hbyte
    change _ ∈ lineBytes ((pa + 128 * (j / 128)) % 128) (c.peek (slot * 4096 + 128 * (j / 128)) 128)
    rw [hoff, hpeek]
    exact hbyte
  have hin := Team.inColander_putAll_of_mem (hall.trans hlen.symm) hlines hx (lineBytes_nodup ..) hmem
  have hline : x.vline = (key.toNat % 2 ^ 56 + j) / 128 := (hvline _ hq).trans (by omega)
  exact Team.forward_of_inColander (hline ▸ hin)

theorem Team.forward_putGroup (t : Team) (n : Nat) (g : Group) (vline off : Nat) : (t.putGroup n g).forward vline off = t.forward vline off := rfl
theorem Team.forward_unmark (t : Team) (vps : List Nat) (vline off : Nat) : (t.unmark vps).forward vline off = t.forward vline off := rfl
theorem MasksClean.unmark {t : Team} (h : MasksClean t) (vps : List Nat) : MasksClean (t.unmark vps) := h

theorem dirtySlotIsWrittenBack : SevictWritesADirtySlotBack := by
  intro c s x l tm tag k pa obs at' pte level hr hw hteam slot key hreach hpoison hbusy hcopies htag hk halign hmaps hlook hclean hmasks hall
  rw [tagOf_ready hr] at htag
  let original := BitVec.ofNat 64 (2 ^ 63 + (slot - tm.runBase))
  obtain ⟨c₁, h₁, htrans⟩ := Ctx.translate_passes hr.fits hr.noWait hmaps fun c pas =>
    if c.slotCopies slot then .wait c.s .inFlight
    else if c.peekPoison (slot * 4096) 4096 then .gone (c.s.consumeBy c.p c.gid 3 srcCore 0)
    else match pas with
      | (pa, obs) :: _ => c.store (c.writeBack slot tag.key pa obs) fun c => (c.retag slot original 1).doneS l []
      | [] => .done c.s
  obtain ⟨vps, hteam₁⟩ := h₁.team_of hteam
  let ps := c.writeBack slot tag.key pa obs
  have hput : (tm.unmark vps).putAll ps 0 = ((tm.putAll ps 0).1.unmark vps, (tm.putAll ps 0).2) := Team.putAll_unmark ..
  have hlen : ps.length = 32 := Ctx.writeBack_length ..
  have hall₁ : ((tm.unmark vps).putAll ps 0).2 = ps.length := by
    rw [hput, hlen]
    exact hall
  let c₂ := c₁.stored (tm.unmark vps) ps
  have hfit₂ : c₂.Fits := Ctx.fits_stored h₁.fits hteam₁
  have hcoreOf : c₂.P.coreOf c₂.gid = c.P.coreOf c.gid := by
    rw [Ctx.gid_stored, Ctx.coreOf_stored hteam₁, h₁.coreOf, h₁.gid]
  let P₃ := c₂.P.modCore (c.P.coreOf c.gid) (Core.retagged slot original 1)
  have hgroup₃ : P₃.group? c₂.gid = some c₂.g := (Part.group?_modCore ..).trans hfit₂.group
  have hlead : c₂.Leads (c₂.setP P₃) := (Ctx.Leads.refl hfit₂).setP hgroup₃
  have hg₃ : (c₂.setP P₃).g = c.g := (Ctx.g_setP hgroup₃).trans h₁.g
  have hafter : (if c₁.slotCopies slot then .wait c₁.s .inFlight
      else if c₁.peekPoison (slot * 4096) 4096 then .gone (c₁.s.consumeBy c₁.p c₁.gid 3 srcCore 0)
      else match c.places .write [(0, tag.key)] with
        | (pa, obs) :: _ => c₁.store (c₁.writeBack slot tag.key pa obs) fun c => (c.retag slot original 1).doneS l []
        | [] => .done c₁.s) = Res.done ((c₂.setP P₃).put (c.g.open l true [] [] 0)) := by
    have hplaces : c.places .write [(0, tag.key)] = [(pa, obs)] := by
      rw [Ctx.places, List.map_cons, List.map_nil, hlook]
      rfl
    rw [h₁.slotCopies, if_neg (Bool.eq_false_iff.1 hcopies), h₁.peekPoison, if_neg (Bool.eq_false_iff.1 hclean), hplaces]
    dsimp only
    rw [h₁.writeBack, Ctx.store_fits hteam₁ (h₁.g ▸ hr.fresh) (MasksClean.unmark hmasks vps) hall₁ h₁.fits]
    change ((c₂.setP (c₂.P.modCore (c₂.P.coreOf c₂.gid) (Core.retagged slot original 1))).doneS l []) = _
    rw [hcoreOf, Ctx.doneS, hg₃]
    rfl
  obtain ⟨t, ht, hended, hgroup, hbyte⟩ := hr.finishes (c' := c₂.setP P₃) (g := c.g.open l true [] [] 0) rfl hlead.fits
    (hlead.p.trans h₁.p) (hlead.gid.trans h₁.gid) (by
      dsimp only
      rw [htag, privateKey_eq hteam]
      refine (if_neg (by decide)).trans ((if_neg (fun h => h.2 halign)).trans ((if_neg ?_).trans ((if_neg (Bool.eq_false_iff.1 hpoison)).trans
        ((if_neg (Bool.eq_false_iff.1 hbusy)).trans ((if_pos ⟨rfl, hreach⟩).trans (htrans.trans hafter))))))
      exact Bool.eq_false_iff.1 (mine_of_reach (.inr hreach)))
  have hteam₃ : P₃.team? c.tk = _ := (h₁.tk ▸ Ctx.team?_stored (ps := ps) hteam₁ : c₂.P.team? c.tk = _)
  refine ⟨t, _, _, ht, hgroup, kept_doneS c l [], hended.teamIn hw hteam₃, fun j hj => ?_, ?_, fun y => ?_⟩
  · have hpa : pa % 4096 = 0 := by
      have := Ctx.look_low hlook
      omega
    rw [Team.forward_putGroup, Team.forward_putGroup, hput]
    exact Team.forward_writeBack hk hreach halign hpa hall hj
  · have htag₂ : c₂.P.tag? (c.P.coreOf c.gid) slot = some tag := by
      rw [Part.tag?, Ctx.core?_stored]
      exact (h₁.tag? _ _).trans htag
    exact (hended.tagOf slot).trans (Part.tag?_retagged htag₂ ..)
  · exact (hbyte y).trans ((hlead.byte y).trans (h₁.bytes y))

/-- Settles O29: a slot's tag is set once the checks have passed, and a dirty slot's lines enter the colander first. -/
theorem tagInstructionsKeepTheTable : Obligations.TagInstructionsKeepTheTable :=
  ⟨⟨keyIsLookedUp, slotIsFilled, slotIsDropped⟩, dirtySlotIsWrittenBack⟩

end Sys2Proof.Machine
end

section
/-!
PROOF. Stores and releases enter the colander, or leave for their slices (spec/08_core_state.md R187, spec/09_core_memory_instr.md R202,
R203, R205, R206, spec/14_cluster.md R299).
-/
namespace Sys2Proof.Machine
open Sys2Proof.Spec

/-! ## The pieces of a store -/

section
variable {c : Ctx}

/-- Lanes that pass give the pieces that the specification names. -/
theorem storePieces_eq {r : StoreRow} (hmaps : Maps c .write r.items) :
    ((r.items.zip (c.places .write r.items)).map fun e => piece e.1.2.toNat e.2.1 e.2.2 (r.bytes e.1.1)) = storePieces c r := by
  rw [Ctx.places, ← List.map_prod_left_eq_zip, List.map_map, storePieces]
  refine List.map_congr_left fun e he => ?_
  obtain ⟨-, ⟨pa, obs, at', pte, level, hlook⟩, -⟩ := hmaps e he
  rw [Function.comp_apply, hlook]
  rfl

theorem storePieces_nodup {r : StoreRow} {x : ColLine} (hx : x ∈ storePieces c r) : (x.bytes.map Prod.fst).Nodup := by
  obtain ⟨e, -, rfl⟩ := List.mem_map.1 hx
  split
  all_goals exact lineBytes_nodup ..

/-- The last piece that has a byte gives it (R188). -/
theorem Team.forward_stored {t : Team} {ps before after : List ColLine} {x : ColLine} {off : Nat} {b : Byte} (hall : (t.putAll ps 0).2 = ps.length)
    (hps : ps = before ++ x :: after) (hnodup : (x.bytes.map Prod.fst).Nodup) (hmem : (off, b) ∈ x.bytes)
    (hlast : ∀ y ∈ after, y.vline = x.vline → Table.get? y.bytes off = none) : (t.putAll ps 0).1.forward x.vline off = some b := by
  subst hps
  exact Team.forward_of_inColander (Team.inColander_putAll (hall.trans (Nat.zero_add _).symm) hnodup hmem hlast)
end

theorem storesEnterTheColanderAtOnce : StoresEnterTheColanderAtOnce := by
  intro c s i r tm hr hrow hteam hw halign hmaps hrelease hmasks hall
  obtain ⟨body, k, he, hb, hk⟩ := hr.store_access hw hrow
  obtain ⟨c₁, h₁, hpass⟩ := Ctx.access_passes hr.fits hr.noWait halign hmaps (body := k)
  obtain ⟨vps, hteam₁⟩ := h₁.team_of hteam
  have hput : (tm.unmark vps).putAll (storePieces c r) 0 = ((tm.putAll (storePieces c r) 0).1.unmark vps, (tm.putAll (storePieces c r) 0).2) :=
    Team.putAll_unmark ..
  have hall₁ : ((tm.unmark vps).putAll (storePieces c r) 0).2 = (storePieces c r).length := by
    rw [hput]
    exact hall
  let P := c₁.storedP (tm.unmark vps) (storePieces c r)
  have hgroup : P.group? c₁.gid = some c₁.g := c₁.group?_storedP h₁.fits hteam₁ _
  have hdrained (h : ∃ d a l, i = .strel d a l 1) : c.g.drained = true := by
    obtain ⟨hld, hcin, hcout⟩ := hrelease h
    exact Group.drained_of_counts hld hcin hcout
  have hdone : body c = .done ((c₁.setP P).put c.g) := by
    rw [hb, hpass, hk c₁ _ h₁.g hdrained, storePieces_eq hmaps,
      Ctx.store_fits hteam₁ (h₁.g ▸ hr.fresh) (MasksClean.unmark hmasks vps) hall₁ h₁.fits, ← h₁.g]
    rfl
  obtain ⟨t, ht, hended, hg, hbyte⟩ := hr.finishes he (Ctx.Fits.setP hgroup) h₁.p h₁.gid hdone
  have hteam₂ : P.team? c.tk = _ := (h₁.tk ▸ Ctx.team?_storedP (Ctx.team?_P hteam₁) _ : P.team? c.tk = _)
  refine ⟨t, _, _, ht, hg, rfl, hended.teamIn hw hteam₂, fun before x after off b hps hmem hlast => ?_, fun a => (hbyte a).trans (h₁.bytes a)⟩
  rw [Team.forward_putGroup, hput, Team.forward_unmark]
  refine Team.forward_stored hall hps (storePieces_nodup (r := r) (c := c) ?_) hmem hlast
  rw [hps]
  exact List.mem_append_right _ List.mem_cons_self

/-! ## Line writes that leave at once (R299, R355) -/

section
variable {α : Type} [BEq α] [LawfulBEq α]

theorem dedup_fold (l acc : List α) : (∀ x, x ∈ l.foldl (fun acc x => if acc.contains x then acc else x :: acc) acc ↔ x ∈ acc ∨ x ∈ l) ∧
    (acc.Nodup → (l.foldl (fun acc x => if acc.contains x then acc else x :: acc) acc).Nodup) := by
  induction l generalizing acc with
  | nil => exact ⟨fun x => by simp, id⟩
  | cons y l ih =>
    rw [List.foldl_cons]
    obtain ⟨hmem, hnodup⟩ := ih (if acc.contains y then acc else y :: acc)
    by_cases hy : y ∈ acc
    · rw [if_pos (List.contains_iff_mem.2 hy)] at hmem hnodup ⊢
      refine ⟨fun x => (hmem x).trans ?_, hnodup⟩
      rw [List.mem_cons]
      exact ⟨fun h => h.imp_right .inr, fun h => h.elim .inl fun h => h.elim (fun h => .inl (h ▸ hy)) .inr⟩
    · rw [if_neg (fun h => hy (List.contains_iff_mem.1 h))] at hmem hnodup ⊢
      refine ⟨fun x => (hmem x).trans ?_, fun h => hnodup (List.nodup_cons.2 ⟨hy, h⟩)⟩
      rw [List.mem_cons, List.mem_cons, or_assoc, or_left_comm]

theorem mem_dedup {l : List α} {x : α} : x ∈ dedup l ↔ x ∈ l := by
  rw [dedup, List.mem_reverse, (dedup_fold l []).1]
  simp

theorem dedup_nodup (l : List α) : (dedup l).Nodup := List.nodup_reverse.2 ((dedup_fold l []).2 List.nodup_nil)
end

theorem mem_set_self {α : Type} (t : Table α) (k : Nat) (x : α) : (k, x) ∈ Table.set t k x := (Table.mem_place ..).2 (.inl rfl)

theorem mem_set_of_ne {α : Type} {t : Table α} {k : Nat} {x : α} {e : Nat × α} (he : e ∈ t) (hk : e.1 ≠ k) : e ∈ Table.set t k x := by
  rw [Table.set, Table.mem_place, Table.erase_eq_filter, List.mem_filter]
  exact .inr ⟨he, decide_eq_true hk⟩

theorem mem_of_mem_set {α : Type} {t : Table α} {k : Nat} {x : α} {e : Nat × α} (h : e ∈ Table.set t k x) : e = (k, x) ∨ e ∈ t := by
  rw [Table.set, Table.mem_place, Table.erase_eq_filter, List.mem_filter] at h
  exact h.imp_right And.left

/-- Requests that stand in a partition stay there while others enter it under later numbers. -/
theorem Part.mem_addReqs_of_mem {P : Part} {e : Nat × LineReq} (he : e ∈ P.run.lines) (hid : e.1 < P.nextId) (rs : List LineReq) :
    e ∈ (P.addReqs rs).run.lines := by
  induction rs generalizing P with
  | nil => exact he
  | cons r rs ih => exact ih (mem_set_of_ne he (Nat.ne_of_lt hid)) (Nat.lt_succ_of_lt hid)

theorem Part.mem_addReqs {P : Part} {rs : List LineReq} {r : LineReq} (hr : r ∈ rs) : ∃ x ∈ (P.addReqs rs).run.lines, x.2 = r := by
  induction rs generalizing P with
  | nil => cases hr
  | cons q rs ih =>
    rcases List.mem_cons.1 hr with rfl | hr
    · exact ⟨(P.nextId, r), Part.mem_addReqs_of_mem (P := P.fresh.2.modRun fun run => { run with lines := Table.set run.lines P.nextId r })
        (mem_set_self ..) (Nat.lt_succ_self _) rs, rfl⟩
    · exact ih hr

theorem Part.of_mem_addReqs {P : Part} {rs : List LineReq} {e : Nat × LineReq} (he : e ∈ (P.addReqs rs).run.lines) : e ∈ P.run.lines ∨ e.2 ∈ rs := by
  induction rs generalizing P with
  | nil => exact .inl he
  | cons r rs ih =>
    rcases ih (P := P.fresh.2.modRun fun run => { run with lines := Table.set run.lines P.nextId r }) he with h | h
    · exact (mem_of_mem_set h).elim (fun h => .inr (h ▸ List.mem_cons_self)) .inl
    · exact .inr (List.mem_cons_of_mem _ h)

/-- What requests that enter a partition leave of it. -/
theorem Part.addReqs_run (P : Part) (rs : List LineReq) :
    P.addReqs rs = { P with run := { P.run with lines := (P.addReqs rs).run.lines }, nextId := (P.addReqs rs).nextId } := by
  induction rs generalizing P with
  | nil => rfl
  | cons r rs ih =>
    have h := ih (P.fresh.2.modRun fun run => { run with lines := Table.set run.lines P.nextId r })
    exact h

/-! ## The requests of a wide release -/

/-- The last of several pieces of a line that has a byte gives it. -/
theorem get?_merge_last {p : ColLine} {rest before after : List ColLine} {x : ColLine} {off : Nat} {b : Byte} (hsplit : p :: rest = before ++ x :: after)
    (hnodup : (x.bytes.map Prod.fst).Nodup) (hmem : (off, b) ∈ x.bytes) (hlast : ∀ y ∈ after, Table.get? y.bytes off = none) :
    Table.get? (rest.foldl ColLine.merge p).bytes off = some b := by
  have hafter (q : ColLine) (hq : Table.get? q.bytes off = some b) : Table.get? (after.foldl ColLine.merge q).bytes off = some b := by
    clear hsplit
    induction after generalizing q with
    | nil => exact hq
    | cons y after ih =>
      exact ih (fun z hz => hlast z (List.mem_cons_of_mem _ hz)) _ ((get?_foldl_set _ _ _ (hlast y List.mem_cons_self)).trans hq)
  cases before with
  | nil =>
    obtain ⟨rfl, rfl⟩ := List.cons.inj hsplit
    exact hafter _ (get?_of_mem_nodup hnodup hmem)
  | cons q before =>
    have hrest : rest = before ++ x :: after := (List.cons.inj hsplit).2
    rw [hrest, List.foldl_append, List.foldl_cons]
    exact hafter _ (get?_foldl_set_mem _ _ hnodup hmem)

/-- The pieces of a release with their lanes. -/
def Ctx.lanePieces (c : Ctx) (d : VReg) (items : List (Nat × DWord)) (pas : List (Nat × Bool)) : List (Nat × ColLine) :=
  (items.zip pas).map fun e => (e.1.1, piece e.1.2.toNat e.2.1 e.2.2 (c.g.storeBytes d.toNat 4 e.1.1))

/-- The line write that a lane's piece stands in. -/
theorem Ctx.mem_strelReqs {c : Ctx} {d : VReg} {items : List (Nat × DWord)} {pas : List (Nat × Bool)} {before after : List (Nat × ColLine)}
    {x : Nat × ColLine} (hps : c.lanePieces d items pas = before ++ x :: after) (hnodup : (x.2.bytes.map Prod.fst).Nodup) :
    ∃ r ∈ c.strelReqs d items pas, ∃ bytes, r.team = c.tk ∧ r.pline = x.2.pline ∧ r.kind = .write bytes [] ∧
      ∀ off b, (off, b) ∈ x.2.bytes → (∀ y ∈ after, y.2.pline = x.2.pline → Table.get? y.2.bytes off = none) →
        Table.get? bytes off = some b := by
  let l := x.2.pline
  let mine := (c.lanePieces d items pas).filter fun p => p.2.pline == l
  have hsplit : mine = (before.filter fun p => p.2.pline == l) ++ x :: after.filter fun p => p.2.pline == l := by
    change (c.lanePieces d items pas).filter _ = _
    rw [hps, List.filter_append, List.filter_cons, if_pos (beq_self_eq_true l)]
  have hl : l ∈ dedup ((c.lanePieces d items pas).map fun p => p.2.pline) := by
    rw [mem_dedup, hps]
    exact List.mem_map.2 ⟨x, List.mem_append_right _ List.mem_cons_self, rfl⟩
  cases hmine : mine with
  | nil =>
    rw [hmine] at hsplit
    exact absurd hsplit.symm (List.append_ne_nil_of_right_ne_nil _ (List.cons_ne_nil _ _))
  | cons p rest =>
    rw [hmine] at hsplit
    let m := rest.foldl (fun m q => m.merge q.2) p.2
    have hm : m = (rest.map Prod.snd).foldl ColLine.merge p.2 := List.foldl_map.symm
    let r : LineReq := ⟨c.tk, c.gid, c.P.coreOf c.gid, (p :: rest).map Prod.fst, c.P.requester c.gid p.1, false, p.2.vline, l, m.obs,
      .write m.bytes [], 0, false⟩
    refine ⟨r, List.mem_filterMap.2 ⟨l, hl, ?_⟩, m.bytes, rfl, rfl, rfl, fun off b hmem hlast => ?_⟩
    · change (match mine with | [] => none | p :: rest => _) = _
      rw [hmine]
    · rw [hm]
      have hsplit' := congrArg (List.map Prod.snd) hsplit
      rw [List.map_append, List.map_cons, List.map_cons] at hsplit'
      refine get?_merge_last hsplit' hnodup hmem fun y hy => ?_
      obtain ⟨z, hz, rfl⟩ := List.mem_map.1 hy
      obtain ⟨hz, hline⟩ := List.mem_filter.1 hz
      exact hlast z hz (beq_iff_eq.1 hline)

/-- Every request of a release is a direct write to a line of one of its pieces. -/
theorem Ctx.pline_of_mem_strelReqs {c : Ctx} {d : VReg} {items : List (Nat × DWord)} {pas : List (Nat × Bool)} {r : LineReq}
    (hr : r ∈ c.strelReqs d items pas) : ∃ x ∈ c.lanePieces d items pas, r.pline = x.2.pline := by
  obtain ⟨l, hl, hreq⟩ := List.mem_filterMap.1 hr
  obtain ⟨x, hx, rfl⟩ := List.mem_map.1 (mem_dedup.1 hl)
  refine ⟨x, hx, ?_⟩
  split at hreq
  · cases hreq
  · cases hreq
    rfl

theorem lineBytes_get?_none {off k : Nat} {bs : List Byte} (h : k < off ∨ off + bs.length ≤ k) : Table.get? (lineBytes off bs) k = none := by
  by_contra hsome
  obtain ⟨b, hb⟩ := Option.ne_none_iff_exists'.1 hsome
  have hkey : k ∈ (lineBytes off bs).map Prod.fst := List.mem_map.2 ⟨_, mem_of_get? hb, rfl⟩
  rw [lineBytes_keys] at hkey
  obtain ⟨j, hj, rfl⟩ := List.mem_map.1 hkey
  have := List.mem_range.1 hj
  omega

theorem storeBytes_length (g : Group) (d lane : Nat) : (g.storeBytes d 4 lane).length = 4 := by
  rw [Group.storeBytes_eq, List.length_map, List.length_range]

/-- Lanes come in increasing order. -/
theorem items_rising (c : Ctx) (a : VReg) (o : BitVec 8) (size : Nat) : (laneAddresses c a o size).Pairwise (·.1 < ·.1) :=
  List.pairwise_map.2 c.g.actives_rising

/-- What a wide release of lanes that pass leaves in the partition: a line write for each lane's word, unless a higher lane stores to the
same place. -/
theorem wordStandsInALine {c c' : Ctx} {d a : VReg} (hmaps : Maps c .write (laneAddresses c a 0 4)) (hg : c'.g = c.g)
    (halign : ∀ e ∈ laneAddresses c a 0 4, e.2.toNat % 4 = 0) {e : Nat × DWord} (he : e ∈ laneAddresses c a 0 4) {pa : Nat} {obs : Bool}
    {at' : Option Nat} {pte : DWord} {level : Nat} (hlook : c.look .write (e.2.toNat % 2 ^ 56) = .ok pa obs at' pte level)
    (hlast : ∀ f ∈ laneAddresses c a 0 4, e.1 < f.1 → ∀ obs' at'' pte' level',
      c.look .write (f.2.toNat % 2 ^ 56) ≠ .ok pa obs' at'' pte' level') :
    ∃ r ∈ c'.strelReqs d (laneAddresses c a 0 4) (c.places .write (laneAddresses c a 0 4)), ∃ bytes, r.team = c'.tk ∧ r.pline = pa / 128 ∧
      r.kind = .write bytes [] ∧ ∀ k < 4, Table.get? bytes (pa % 128 + k) = some ((laneBytes c d 4 e.1).getD k 0) := by
  obtain ⟨before, after, hitems⟩ := List.append_of_mem he
  let place (e : Nat × DWord) : Nat × ColLine := (e.1, piece e.2.toNat (c.look .write (e.2.toNat % 2 ^ 56)).pa.1
    (c.look .write (e.2.toNat % 2 ^ 56)).pa.2 (c'.g.storeBytes d.toNat 4 e.1))
  have hps : c'.lanePieces d (laneAddresses c a 0 4) (c.places .write (laneAddresses c a 0 4)) =
      before.map place ++ place e :: after.map place := by
    rw [Ctx.lanePieces, Ctx.places, ← List.map_prod_left_eq_zip, List.map_map]
    conv_lhs => rw [hitems]
    rw [List.map_append, List.map_cons]
    rfl
  have hpiece : (place e).2 = piece e.2.toNat pa obs (c'.g.storeBytes d.toNat 4 e.1) := by
    dsimp only [place]
    rw [hlook]
    rfl
  obtain ⟨r, hr, bytes, hteam, hpline, hkind, hbytes⟩ := Ctx.mem_strelReqs hps (lineBytes_nodup ..)
  have hlow {f : Nat × DWord} (hf : f ∈ laneAddresses c a 0 4) {pa' : Nat} {obs' : Bool} {at'' : Option Nat} {pte' : DWord} {level' : Nat}
      (h : c.look .write (f.2.toNat % 2 ^ 56) = .ok pa' obs' at'' pte' level') : pa' % 4 = 0 := by
    have := Ctx.look_low h
    have := halign f hf
    omega
  refine ⟨r, hr, bytes, hteam, hpline.trans (by rw [hpiece]; rfl), hkind, fun k hk => hbytes _ _ ?_ fun y hy hline => ?_⟩
  · rw [hpiece]
    have hmem := mem_lineBytes (off := pa % 128) (bs := c'.g.storeBytes d.toNat 4 e.1) (k := k) (by rw [storeBytes_length]; exact hk) 0
    rwa [Group.storeBytes_eq, hg] at hmem ⊢
  · obtain ⟨f, hf, rfl⟩ := List.mem_map.1 hy
    have hfi : f ∈ laneAddresses c a 0 4 := hitems ▸ List.mem_append_right _ (List.mem_cons_of_mem _ hf)
    have hlt : e.1 < f.1 := by
      have hrising := items_rising c a 0 4
      rw [hitems] at hrising
      exact (List.pairwise_cons.1 (List.pairwise_append.1 hrising).2.1).1 f hf
    obtain ⟨-, ⟨pa', obs', at'', pte', level', hlook'⟩, -⟩ := hmaps f hfi
    have hne : pa' ≠ pa := fun h => hlast f hfi hlt _ _ _ _ (h ▸ hlook')
    have hpiece' : (place f).2 = piece f.2.toNat pa' obs' (c'.g.storeBytes d.toNat 4 f.1) := by
      dsimp only [place]
      rw [hlook']
      rfl
    rw [hpiece, hpiece'] at hline
    have hline : pa' / 128 = pa / 128 := hline
    have h4 := hlow he hlook
    have h4' := hlow hfi hlook'
    rw [hpiece']
    refine lineBytes_get?_none ?_
    rw [storeBytes_length]
    omega

/-! ## A wide release (R205, R299) -/

/-- A team's hash has taken the words of a release (R372). -/
def Team.hashed (ws : List (DWord × Nat)) (t : Team) : Team := { t with hash := hashWords t.hash ws }

/-- The partition after a release's line writes have entered it. -/
def Ctx.released (c : Ctx) (d : VReg) (items : List (Nat × DWord)) (pas : List (Nat × Bool)) : Part :=
  (c.P.addReqs (c.strelReqs d items pas)).modTeam c.tk (Team.hashed (strelWords c.g d items))

section
variable {c : Ctx} {d : VReg} {items : List (Nat × DWord)} {pas : List (Nat × Bool)}

theorem Ctx.group?_released (hfit : c.Fits) : (c.released d items pas).group? c.gid = some c.g := by
  refine (Part.group?_modTeam _ c.tk (Team.hashed (strelWords c.g d items)) (fun _ => rfl) c.gid).trans ((Part.group?_of_work ?_ ?_ _).trans hfit.group)
  · rw [Part.addReqs_run]
  · rw [Part.addReqs_run]

theorem Ctx.team?_released {t : Team} (ht : c.P.team? c.tk = some t) :
    (c.released d items pas).team? c.tk = some (t.hashed (strelWords c.g d items)) := by
  have hadd : (c.P.addReqs (c.strelReqs d items pas)).team? c.tk = c.P.team? c.tk := by
    rw [Part.team?, Part.team?, Part.addReqs_run]
  rw [Ctx.released, Part.team?_modTeam_same, hadd, ht]
  rfl

theorem Ctx.unacked_released : (c.released d items pas).unacked = c.P.unacked := by
  change (c.P.addReqs (c.strelReqs d items pas)).unacked = _
  rw [Part.addReqs_run]

theorem Ctx.lines_released : (c.released d items pas).run.lines = (c.P.addReqs (c.strelReqs d items pas)).run.lines := rfl

theorem Ctx.hostBound_released (hold : c.P.hostBound c.tk = false) (hnew : ∀ r ∈ c.strelReqs d items pas, r.pline < 2 ^ 44) :
    (c.released d items pas).hostBound c.tk = false := by
  rw [Part.hostBound, List.any_eq_false] at hold ⊢
  intro e he
  rcases Part.of_mem_addReqs he with h | h
  · exact hold e h
  · rw [Bool.and_eq_true, decide_eq_true_eq, not_and]
    exact fun _ hlow => absurd (hnew _ h) (Nat.not_lt.2 hlow)

theorem Ctx.strelWide_committed {tm : Team} (hfit : c.Fits) (hteam : c.team? = some tm) (hmode : c.P.mode = 0 ∨ c.P.mode = 1) (hc : Committed tm)
    (hstage : c.g.stage = .fresh) (hw : c.g.wait = none) (scope : Nat)
    (hack : 5 ≤ scope → c.P.unacked = [] ∧ c.P.hostBound c.tk = false ∧ ∀ c' : Ctx, c'.g = c.g → ∀ r ∈ c'.strelReqs d items pas, r.pline < 2 ^ 44) :
    ∃ c' tm', CommitMade c.anchored tm.anchored c' tm' ∧ c'.g = c.g ∧
      c.strelWide d scope items pas = .done ((c'.setP (c'.released d items pas)).put c.g) := by
  have hteam₁ := Ctx.team?_anchored hteam
  obtain ⟨c', tm', h, hcommit⟩ := Ctx.commits_committed (c := c.anchored) hfit.anchored hteam₁ (by rw [Ctx.anchored_mode]; exact hmode) hc
    (by rw [show c.anchored.g.stage = .fresh from hstage]; exact Stage.noConfusion) hw fun c =>
      (c.setP (c.released d items pas)).acked scope fun c => .done c.s
  have hg : c'.g = c.g := h.g.trans (Group.stage_fresh hstage)
  refine ⟨c', tm', h, hg, ?_⟩
  have hg' : (c'.setP (c'.released d items pas)).g = c.g := (Ctx.g_setP (Ctx.group?_released h.fits)).trans hg
  have hacked : 5 ≤ scope → (c'.setP (c'.released d items pas)).P.unacked = [] ∧
      (c'.setP (c'.released d items pas)).P.hostBound (c'.setP (c'.released d items pas)).tk = false := by
    intro hsc
    obtain ⟨hun, hbound, hlow⟩ := hack hsc
    refine ⟨Ctx.unacked_released.trans (h.unacked.trans hun), Ctx.hostBound_released (h.hostBound.trans hbound) (hlow c' hg)⟩
  rw [Ctx.strelWide, hfit.reload_anchor]
  refine hcommit.trans ((Ctx.acked_of_all hacked _).trans ?_)
  rw [hg', Group.stage_fresh hstage]
  rfl
end

theorem Part.lines_setGroup (P : Part) (gid : Nat) (g : Group) : (P.setGroup gid g).run.lines = P.run.lines := by
  cases h : isWhisk gid with
  | true => rw [P.setGroup_of_whisk h]; rfl
  | false => rw [P.setGroup_of_team h]; rfl

/-- A piece of a release whose lanes pass. -/
theorem mem_lanePieces {c c' : Ctx} {d : VReg} {items : List (Nat × DWord)} (hmaps : Maps c .write items) {x : Nat × ColLine}
    (hx : x ∈ c'.lanePieces d items (c.places .write items)) :
    ∃ e ∈ items, ∃ pa obs at' pte level, c.look .write (e.2.toNat % 2 ^ 56) = .ok pa obs at' pte level ∧
      x.2 = piece e.2.toNat pa obs (c'.g.storeBytes d.toNat 4 e.1) := by
  rw [Ctx.lanePieces, Ctx.places, ← List.map_prod_left_eq_zip, List.map_map] at hx
  obtain ⟨e, he, rfl⟩ := List.mem_map.1 hx
  obtain ⟨-, ⟨pa, obs, at', pte, level, hlook⟩, -⟩ := hmaps e he
  refine ⟨e, he, pa, obs, at', pte, level, hlook, ?_⟩
  rw [Function.comp_apply, hlook]
  rfl

theorem wideReleasesWriteDirectly : WideReleasesWriteDirectly := by
  intro c s d a l sc tm hr hteam hw hmode hsc items halign hmaps hld hcin hcout hc hack
  obtain ⟨body, he, hb⟩ := hr.strel_access hw
  obtain ⟨c₁, h₁, hpass⟩ := Ctx.access_passes hr.fits hr.noWait halign hmaps (Ctx.strelBody d sc items)
  obtain ⟨vps, hteam₁⟩ := h₁.team_of hteam
  let pas := c.places .write items
  have hbody : Ctx.strelBody d sc items c₁ pas = c₁.strelWide d (max 4 sc.toNat) items pas := by
    have hdrained : c₁.g.drained = true := h₁.g.symm ▸ Group.drained_of_counts hld hcin hcout
    rw [Ctx.strelBody, hdrained, Bool.not_true, if_neg Bool.false_ne_true, if_neg (by omega), if_neg (by omega)]
  have hlow (c' : Ctx) (hg : c'.g = c₁.g) (hsc5 : 5 ≤ max 4 sc.toNat) : ∀ r ∈ c'.strelReqs d items pas, r.pline < 2 ^ 44 := by
    intro r hreq
    obtain ⟨x, hx, hpline⟩ := Ctx.pline_of_mem_strelReqs hreq
    obtain ⟨e, he, pa, obs, at', pte, level, hlook, hx⟩ := mem_lanePieces hmaps hx
    have hpa := (hack (by omega)).2.2 e he pa obs at' pte level hlook
    rw [hpline, hx]
    change pa / 128 < 2 ^ 44
    omega
  obtain ⟨c₃, tm₃, h₃, hg₃, hwide⟩ := Ctx.strelWide_committed (d := d) (items := items) (pas := pas) h₁.fits hteam₁ (h₁.mode.symm ▸ hmode) hc
    (h₁.g.symm ▸ hr.fresh) (h₁.g.symm ▸ hr.noWait) (max 4 sc.toNat) fun hsc5 => by
      obtain ⟨hun, hbound, -⟩ := hack (by omega)
      refine ⟨h₁.unacked.trans hun, ?_, fun c' hg => hlow c' hg hsc5⟩
      rw [Part.hostBound, h₁.run, h₁.tk]
      exact hbound
  have hgid₃ : c₃.gid = c.gid := h₃.gid.trans h₁.gid
  have htk₃ : c₃.tk = c.tk := h₃.tk.trans h₁.tk
  obtain ⟨t, ht, hended, hgt, hbyte⟩ := hr.finishes he (c' := c₃.setP (c₃.released d items pas)) (g := c.g)
    (Ctx.Fits.setP (Ctx.group?_released h₃.fits)) (h₃.p.trans h₁.p) hgid₃
    (hb.trans (hpass.trans (hbody.trans (hwide.trans (by rw [h₁.g])))))
  have hteam₄ : (c₃.released d items pas).team? c.tk = some (tm₃.hashed (strelWords c₃.g d items)) :=
    htk₃ ▸ Ctx.team?_released (Ctx.team?_P h₃.team)
  refine ⟨t, _, _, _, ht, hgt, rfl, hended.teamIn hw hteam₄, hended, h₃.anch, h₃.noCommit, h₃.commitN, ?_, ?_, fun x => ?_⟩
  · have hhash : tm₃.hash = tm.hash := h₃.hash
    have hwords : strelWords c₃.g d items = strelWords c.g d items := by rw [hg₃, h₁.g]
    change hashWords tm₃.hash (strelWords c₃.g d items) = _
    rw [hhash, hwords]
  · intro e he pa obs at' pte level hlook hlast
    obtain ⟨r, hreq, bytes, hteam, hpline, hkind, hbytes⟩ := wordStandsInALine (c' := c₃) (d := d) hmaps (hg₃.trans h₁.g) halign he hlook hlast
    obtain ⟨x, hx, rfl⟩ := Part.mem_addReqs (P := c₃.P) hreq
    refine ⟨x, ?_, bytes, hteam.trans htk₃, hpline, hkind, hbytes⟩
    rw [show ((((c₃.setP (c₃.released d items pas)).P.setGroup c.gid (c.g.completed (c.g.pc + 4))).fired).run.lines) = _ from Part.lines_setGroup ..]
    exact hx
  · exact (hbyte x).trans ((h₃.byte x).trans (h₁.bytes x))

/-! ## A release at team scope (R205) -/

/-- An instruction whose effect has led to `c'`, and which completes with its group as it stands there. -/
theorem Ready.finishes_state {c c' : Ctx} {s : State} {i : Instr} {body : Ctx → Res} (h : Ready c s i) (he : exec i s = Machine.issue i s body)
    (hfit : c'.Fits) (hp : c'.p = c.p) (hgid : c'.gid = c.gid) (hb : body c = .done c'.s) :
    ∃ t, exec i s = .next t ∧ Ended c c'.P (c'.g.completed (c'.g.pc + 4)) t ∧ t.group? c.p c.gid = some (c'.g.completed (c'.g.pc + 4)) ∧
      ∀ a, t.byte a = c'.s.byte a := by
  obtain ⟨t, ht, hP, hg, hbyte⟩ := h.completes he hb (hp ▸ hfit.part) (hgid ▸ hfit.group)
  exact ⟨t, ht, hP, hg, hbyte⟩

/-- Canonical addresses are told apart by their low 56 bits. -/
theorem canonical_injective {a b : DWord} (ha : canonical a = true) (hb : canonical b = true) (h : a.toNat % 2 ^ 56 = b.toNat % 2 ^ 56) : a = b := by
  rw [canonical, Bool.or_eq_true, beq_iff_eq, beq_iff_eq] at ha hb
  have := a.isLt
  have := b.isLt
  exact BitVec.eq_of_toNat_eq (by omega)

/-- The lines of a release that the filter does not hold yet. -/
theorem mem_newLines {c c₂ : Ctx} {items : List (Nat × DWord)} {t : Team} {k : Core} (hk : c₂.P.core? t.core = some k) (hmaps : Maps c .write items)
    (x : Nat × Nat) : x ∈ ((c₂.newLines t (c.places .write items)).map fun l => (l, t.slot)) ↔
      x ∉ k.filter ∧ x.2 = t.slot ∧ ∃ e ∈ items, ∃ pa obs at' pte level, c.look .write (e.2.toNat % 2 ^ 56) = .ok pa obs at' pte level ∧
        x.1 = pa / 128 := by
  obtain ⟨l, n⟩ := x
  rw [Ctx.newLines, hk]
  simp only [List.mem_map, List.mem_filter, mem_dedup, Ctx.places, Option.map_some, Option.getD_some, Bool.not_eq_true', Prod.mk.injEq]
  constructor
  · rintro ⟨l', ⟨⟨place, ⟨e, he, rfl⟩, rfl⟩, hnew⟩, rfl, rfl⟩
    obtain ⟨-, ⟨pa, obs, at', pte, level, hlook⟩, -⟩ := hmaps e he
    refine ⟨fun hold => Bool.false_ne_true (hnew.symm.trans (List.contains_iff_mem.2 hold)), rfl, e, he, pa, obs, at', pte, level, hlook, ?_⟩
    rw [hlook]
    rfl
  · rintro ⟨hnew, rfl, e, he, pa, obs, at', pte, level, hlook, rfl⟩
    refine ⟨pa / 128, ⟨⟨_, ⟨e, he, rfl⟩, by rw [hlook]; rfl⟩, Bool.eq_false_iff.2 fun h => hnew (List.contains_iff_mem.1 h)⟩, rfl, rfl⟩

theorem newLines_nodup (c : Ctx) (t : Team) (pas : List (Nat × Bool)) : ((c.newLines t pas).map fun l => (l, t.slot)).Nodup :=
  ((dedup_nodup _).filter _).map fun _ _ h => (Prod.mk.inj h).1

theorem dedup_length {α : Type} [BEq α] (l : List α) : (dedup l).length ≤ l.length := by
  have hfold (acc : List α) : (l.foldl (fun acc x => if acc.contains x then acc else x :: acc) acc).length ≤ acc.length + l.length := by
    induction l generalizing acc with
    | nil => exact Nat.le_refl _
    | cons y l ih =>
      rw [List.foldl_cons, List.length_cons]
      split
      · exact Nat.le_trans (ih acc) (by omega)
      · exact Nat.le_trans (ih (y :: acc)) (by rw [List.length_cons]; omega)
  rw [dedup, List.length_reverse]
  simpa using hfold []

theorem newLines_length (c : Ctx) (t : Team) (pas : List (Nat × Bool)) : (c.newLines t pas).length ≤ pas.length :=
  Nat.le_trans (List.length_filter_le ..) (Nat.le_trans (dedup_length _) (by rw [List.length_map]))

/-- A team's word after its release, at its own address. -/
theorem forward_release {c : Ctx} {d a : VReg} {t : Team} (halign : ∀ e ∈ laneAddresses c a 0 4, e.2.toNat % 4 = 0)
    (hmaps : Maps c .write (laneAddresses c a 0 4))
    (hall : (t.putAll (storePieces c ⟨4, laneAddresses c a 0 4, laneBytes c d 4⟩) 0).2 = (storePieces c ⟨4, laneAddresses c a 0 4, laneBytes c d 4⟩).length)
    {e : Nat × DWord} (he : e ∈ laneAddresses c a 0 4) (hlast : ∀ f ∈ laneAddresses c a 0 4, e.1 < f.1 → f.2 ≠ e.2) {j : Nat} (hj : j < 4) :
    (t.putAll (storePieces c ⟨4, laneAddresses c a 0 4, laneBytes c d 4⟩) 0).1.forward (e.2.toNat % 2 ^ 56 / 128) (e.2.toNat % 128 + j) =
      some ((laneBytes c d 4 e.1).getD j 0) := by
  let row : StoreRow := ⟨4, laneAddresses c a 0 4, laneBytes c d 4⟩
  let place (e : Nat × DWord) : ColLine := piece e.2.toNat (c.look .write (e.2.toNat % 2 ^ 56)).pa.1 (c.look .write (e.2.toNat % 2 ^ 56)).pa.2
    (laneBytes c d 4 e.1)
  have hpieces : storePieces c row = (laneAddresses c a 0 4).map place := by
    rw [← storePieces_eq (r := row) hmaps, Ctx.places, ← List.map_prod_left_eq_zip, List.map_map]
    rfl
  obtain ⟨before, after, hitems⟩ := List.append_of_mem he
  have hsplit : storePieces c row = before.map place ++ place e :: after.map place := by
    rw [hpieces, hitems, List.map_append, List.map_cons]
  have hbytes (f : Nat × DWord) (hf : f ∈ laneAddresses c a 0 4) : (place f).bytes = lineBytes (f.2.toNat % 128) (laneBytes c d 4 f.1) := by
    obtain ⟨-, ⟨pa, obs, at', pte, level, hlook⟩, -⟩ := hmaps f hf
    have hlow := Ctx.look_low hlook
    dsimp only [place]
    rw [hlook, piece]
    exact congrArg (lineBytes · _) (show pa % 128 = f.2.toNat % 128 by omega)
  have hlength (f : Nat × DWord) : (laneBytes c d 4 f.1).length = 4 := by rw [laneBytes, List.length_map, List.length_range]
  refine Team.forward_stored hall hsplit (lineBytes_nodup ..) ?_ fun y hy hline => ?_
  · rw [hbytes e he]
    exact mem_lineBytes (by rw [hlength]; exact hj) 0
  · obtain ⟨f, hf, rfl⟩ := List.mem_map.1 hy
    have hfi : f ∈ laneAddresses c a 0 4 := hitems ▸ List.mem_append_right _ (List.mem_cons_of_mem _ hf)
    have hlt : e.1 < f.1 := by
      have hrising := items_rising c a 0 4
      rw [hitems] at hrising
      exact (List.pairwise_cons.1 (List.pairwise_append.1 hrising).2.1).1 f hf
    have hline : f.2.toNat % 2 ^ 56 / 128 = e.2.toNat % 2 ^ 56 / 128 := hline
    have hne : f.2.toNat % 2 ^ 56 ≠ e.2.toNat % 2 ^ 56 := fun h => hlast f hfi hlt (canonical_injective (hmaps f hfi).1 (hmaps e he).1 h)
    have h4 := halign e he
    have h4' := halign f hfi
    rw [hbytes f hfi]
    refine lineBytes_get?_none ?_
    rw [hlength]
    omega

theorem teamReleasesFillTheFilter : TeamReleasesFillTheFilter := by
  intro c s d a l tm k hr hteam hw hk items row halign hmaps hld hcin hcout hmasks hall hroom
  obtain ⟨body, he, hb⟩ := hr.strel_access hw
  obtain ⟨c₁, h₁, hpass⟩ := Ctx.access_passes hr.fits hr.noWait halign hmaps (Ctx.strelBody d 2 items)
  obtain ⟨vps, hteam₁⟩ := h₁.team_of hteam
  let pas := c.places .write items
  let ps := storePieces c row
  have hput : (tm.unmark vps).putAll ps 0 = ((tm.putAll ps 0).1.unmark vps, (tm.putAll ps 0).2) := Team.putAll_unmark ..
  have hall₁ : ((tm.unmark vps).putAll ps 0).2 = ps.length := by
    rw [hput]
    exact hall
  have hpieces : c₁.strelPieces d items pas = ps := by
    rw [Ctx.strelPieces, h₁.g]
    simp only [Group.storeBytes_eq]
    exact storePieces_eq (r := row) hmaps
  have hfresh₁ : c₁.g.stage = .fresh := h₁.g.symm ▸ hr.fresh
  have hfilter : c₁.filterRoom (tm.unmark vps) pas = true := by
    have hcore₁ : c₁.P.core? (tm.unmark vps).core = some k := (h₁.core? _).trans hk
    have hnew := newLines_length c₁ (tm.unmark vps) pas
    have hpas : pas.length = items.length := List.length_map ..
    rw [Ctx.filterRoom, hcore₁, decide_eq_true_eq]
    change k.filter.length + _ ≤ 512
    omega
  have hbody : Ctx.strelBody d 2 items c₁ pas = c₁.strelTeam d items pas := by
    have hdrained : c₁.g.drained = true := h₁.g.symm ▸ Group.drained_of_counts hld hcin hcout
    rw [Ctx.strelBody, hdrained, Bool.not_true, if_neg Bool.false_ne_true, if_neg (by decide)]
    refine if_pos ⟨rfl, ?_, ?_, ?_⟩
    · rw [hfresh₁]
      exact Stage.noConfusion
    · rw [hfresh₁]
      exact Stage.noConfusion
    · rw [hteam₁]
      exact hfilter
  let c₂ := c₁.stored (tm.unmark vps) ps
  have hfit₂ : c₂.Fits := Ctx.fits_stored h₁.fits hteam₁
  let t₂ := ((tm.unmark vps).putAll ps 0).1.putGroup (gidGroup c₁.gid) c₁.g
  have hw₁ : isWhisk c₁.gid = false := h₁.gid.symm ▸ hw
  have hteam₂ : c₂.team? = some t₂ := (Ctx.team?_of_team (c := c₂) hw₁).trans (Ctx.team?_stored hteam₁)
  have hstored := (tm.unmark vps).putAll_stored ps 0
  have hcore₂ : t₂.core = tm.core := hstored.core
  have hslot₂ : t₂.slot = tm.slot := hstored.slot
  have hk₂ : c₂.P.core? t₂.core = some k := by
    rw [hcore₂]
    exact (Ctx.core?_stored _).trans ((h₁.core? _).trans hk)
  let new := (c₂.newLines t₂ pas).map fun l => (l, t₂.slot)
  let f (k : Core) : Core := { k with filter := k.filter ++ new }
  have hgroup₃ : (c₂.P.modCore t₂.core f).group? c₂.gid = some c₂.g := (Part.group?_modCore ..).trans hfit₂.group
  have hg₃ : (c₂.setP (c₂.P.modCore t₂.core f)).g = c.g := (Ctx.g_setP hgroup₃).trans h₁.g
  have hdone : body c = .done (c₂.setP (c₂.P.modCore t₂.core f)).s := by
    rw [hb, hpass, hbody, Ctx.strelTeam, hpieces, Ctx.storeWhole_fits hteam₁ hfresh₁ hall₁]
    change (match c₂.team? with | none => _ | some t => _) = _
    rw [hteam₂]
    rfl
  obtain ⟨t, ht, hended, hgt, hbyte⟩ := hr.finishes_state he (Ctx.Fits.setP hgroup₃) h₁.p h₁.gid hdone
  rw [hg₃] at hended hgt
  have hteam₃ : (c₂.P.modCore t₂.core f).team? c.tk = some t₂ := h₁.tk ▸ Ctx.team?_stored (ps := ps) hteam₁
  have hcore₃ : (c₂.P.modCore t₂.core f).core? tm.core = some (f k) := by
    rw [← hcore₂, Part.core?_modCore_same, hk₂]
    rfl
  refine ⟨t, _, _, f k, ht, hgt, rfl, hended.teamIn hw hteam₃, (hended.core _).trans hcore₃, hstored.anch, fun e he hlast j hj => ?_,
    ⟨new, rfl, newLines_nodup .., fun x => ?_⟩, fun x => (hbyte x).trans (h₁.bytes x)⟩
  · rw [Team.forward_putGroup]
    change ((tm.unmark vps).putAll ps 0).1.forward _ _ = _
    rw [hput, Team.forward_unmark]
    exact forward_release halign hmaps hall he hlast hj
  · rw [← hslot₂]
    exact mem_newLines hk₂ hmaps x

/-- Settles O26: the walks of a store's lanes leave its team as it is but for decline marks; its pieces, or line writes, then enter. -/
theorem storesEnterTheColander : Obligations.StoresEnterTheColander :=
  ⟨storesEnterTheColanderAtOnce, wideReleasesWriteDirectly, teamReleasesFillTheFilter⟩

end Sys2Proof.Machine
end

section
/-!
PROOF. Scratchpad loads and stores (spec/09_core_memory_instr.md R207, spec/08_core_state.md R172, R176, R178).
-/
namespace Sys2Proof.Machine
open Sys2Proof.Spec

theorem eq_none_of_firstSome {α β : Type} {f : α → Option β} {l : List α} (h : firstSome f l = none) {x : α} (hx : x ∈ l) : f x = none := by
  induction l with
  | nil => nomatch hx
  | cons y l ih =>
    rw [firstSome_cons, Option.or_eq_none_iff] at h
    rcases List.mem_cons.1 hx with rfl | hx
    exacts [h.1, ih h.2 hx]

theorem Ctx.Leads.trans {c c' c'' : Ctx} (h : c.Leads c') (h' : c'.Leads c'') : c.Leads c'' :=
  ⟨h'.fits, h'.p.trans h.p, h'.gid.trans h.gid, fun a => (h'.byte a).trans (h.byte a)⟩

/-! ## Words that come into registers (R207) -/

/-- Words `x j l` in registers d, d + 1, … of some lanes. -/
def Group.withWords (g : Group) (d : Nat) (js lanes : List Nat) (x : Nat → Nat → Word) : Group :=
  js.foldl (fun g j => g.writeV (d + j) (lanes.map fun l => (l, x j l))) g

theorem Group.withWords_kept (g : Group) (d : Nat) (js lanes : List Nat) (x : Nat → Nat → Word) :
    (g.withWords d js lanes x).pc = g.pc ∧ (g.withWords d js lanes x).s = g.s ∧ (g.withWords d js lanes x).q = g.q := by
  induction js generalizing g with
  | nil => exact ⟨rfl, rfl, rfl⟩
  | cons j js ih =>
    obtain ⟨hpc, hs, hq⟩ := ih (g.writeV (d + j) (lanes.map fun l => (l, x j l)))
    have hframe := g.writeV_frame (d + j) (lanes.map fun l => (l, x j l))
    exact ⟨hpc.trans (by rw [hframe]), hs.trans (by rw [hframe]), hq.trans (by rw [hframe])⟩

theorem Group.vreg_withWords (g : Group) (d : Nat) (js lanes : List Nat) (x : Nat → Nat → Word) (hlanes : ∀ i ∈ lanes, i < 32) {r l : Nat}
    (hl : l < 32) : (g.withWords d js lanes x).vreg r l = if (∃ j ∈ js, r = d + j) ∧ l ∈ lanes then x (r - d) l else g.vreg r l := by
  induction js generalizing g with
  | nil => exact (if_neg (fun h => by obtain ⟨⟨j, hj, -⟩, -⟩ := h; nomatch hj)).symm
  | cons j js ih =>
    refine (ih (g.writeV (d + j) (lanes.map fun l => (l, x j l)))).trans ?_
    rw [Group.vreg_writeV _ _ _ _ _ _ hl hlanes]
    by_cases hrest : (∃ i ∈ js, r = d + i) ∧ l ∈ lanes
    · obtain ⟨⟨i, hi, hr⟩, hmem⟩ := hrest
      rw [if_pos ⟨⟨i, hi, hr⟩, hmem⟩, if_pos ⟨⟨i, List.mem_cons_of_mem _ hi, hr⟩, hmem⟩]
    · rw [if_neg hrest]
      by_cases hj : r = d + j ∧ l ∈ lanes
      · obtain ⟨rfl, hmem⟩ := hj
        rw [if_pos ⟨rfl, hmem⟩, if_pos ⟨⟨j, List.mem_cons_self, rfl⟩, hmem⟩, Nat.add_sub_cancel_left]
      · rw [if_neg hj, if_neg]
        rintro ⟨⟨i, hi, hr⟩, hmem⟩
        rcases List.mem_cons.1 hi with rfl | hi
        exacts [hj ⟨hr, hmem⟩, hrest ⟨⟨i, hi, hr⟩, hmem⟩]

/-- The scratchpad address of a lane (R207). -/
def padAddress (c : Ctx) (a : VReg) (o : BitVec 8) (size l : Nat) : Int := (((c.g.vreg a.toNat l).toNat % 2 ^ 20 : Nat) : Int) + o.toInt * size

/-- The j-th word that a lane loads. -/
def padWord (c : Ctx) (a : VReg) (o : BitVec 8) (size j l : Nat) : Word :=
  BitVec.ofNat 32 (leNat (((c.peek (padAddress c a o size l).toNat size).drop (4 * j)).take 4))

theorem leNat_lt (bs : List Byte) : leNat bs < 256 ^ bs.length := by
  induction bs with
  | nil => exact Nat.one_pos
  | cons b bs ih =>
    have hb : b.toNat < 256 := b.isLt
    rw [leNat, List.length_cons, Nat.pow_succ]
    omega

theorem padWord_toNat (c : Ctx) (a : VReg) (o : BitVec 8) (size j l : Nat) :
    (padWord c a o size j l).toNat = leNat (((c.peek (padAddress c a o size l).toNat size).drop (4 * j)).take 4) := by
  rw [padWord, BitVec.toNat_ofNat, Nat.mod_eq_of_lt]
  exact (leNat_lt _).trans_le (Nat.pow_le_pow_right (by decide) (List.length_take_le ..))

section
variable {c : Ctx} {s : State} {d a : VReg} {l : La} {o : BitVec 8} {i : Instr} {size : Nat}

theorem Ctx.padLoad_passes (hchecks : c.padChecks false size (padItems c a o size) = none)
    (hclean : ∀ e ∈ padItems c a o size, c.peekPoison e.2.toNat size = false) :
    c.padLoad d a l o size = c.finish ((c.g.withWords d.toNat (List.range (size / 4)) c.g.actives (padWord c a o size)).open l true
      ((List.range (size / 4)).map fun j => d.toNat + j) [] 0) := by
  have hpoison : ((padItems c a o size).any fun e => c.peekPoison e.2.toNat size) = false :=
    List.any_eq_false.2 fun e he => Bool.eq_false_iff.1 (hclean e he)
  have hwords (j : Nat) : ((padItems c a o size).map fun e => (e.1, c.peek e.2.toNat size)).map
      (fun w => (w.1, BitVec.ofNat 32 (leNat ((w.2.drop (4 * j)).take 4)))) = c.g.actives.map fun l => (l, padWord c a o size j l) := by
    rw [padItems, List.map_map, List.map_map]
    rfl
  rw [Ctx.padLoad]
  change (match c.padChecks false size (padItems c a o size) with
    | some t => Res.trap c.s t
    | none => _) = _
  rw [hchecks]
  dsimp only
  change (if ((padItems c a o size).any fun e => c.peekPoison e.2.toNat size) = true then _ else _) = _
  rw [hpoison, if_neg Bool.false_ne_true]
  refine congrArg (fun g : Group => c.finish (g.open l true ((List.range (size / 4)).map fun j => d.toNat + j) [] 0)) ?_
  exact congrArg (fun f => (List.range (size / 4)).foldl f c.g) (funext fun g => funext fun j => congrArg (g.writeV (d.toNat + j)) (hwords j))

theorem loadsReadTheirWords (hr : Ready c s i) (hi : (i = .lds d a l o ∧ size = 4) ∨ (i = .ldsq d a l o ∧ size = 16))
    (hchecks : c.padChecks false size (padItems c a o size) = none)
    (hclean : ∀ e ∈ padItems c a o size, c.peekPoison e.2.toNat size = false) :
    ∃ t g, exec i s = .next t ∧ t.group? c.p c.gid = some g ∧ g.pc = c.g.pc + 4 ∧ g.s = c.g.s ∧ g.q = c.g.q ∧
      (∀ j < size / 4, ∀ e ∈ padItems c a o size,
        (g.vreg (d.toNat + j) e.1).toNat = leNat (((c.peek e.2.toNat size).drop (4 * j)).take 4)) ∧
      (∀ r, ∀ k < 32, (r < d.toNat ∨ d.toNat + size / 4 ≤ r ∨ c.g.active k = false) → g.vreg r k = c.g.vreg r k) ∧
      ∀ x, t.byte x = s.byte x := by
  have he : exec i s = Machine.issue i s fun c => c.padLoad d a l o size := by
    rcases hi with ⟨rfl, rfl⟩ | ⟨rfl, rfl⟩ <;> rfl
  obtain ⟨hpc, hs, hq⟩ := c.g.withWords_kept d.toNat (List.range (size / 4)) c.g.actives (padWord c a o size)
  have hvreg (r : Nat) {k : Nat} (hk : k < 32) := c.g.vreg_withWords d.toNat (List.range (size / 4)) c.g.actives (padWord c a o size)
    c.g.actives_lt (r := r) hk
  obtain ⟨t, ht, -, hg, hbyte⟩ := hr.finishes he hr.fits rfl rfl (Ctx.padLoad_passes hchecks hclean)
  refine ⟨t, _, ht, hg, ?_, ?_, ?_, fun j hj e hmem => ?_, fun r k hk hout => ?_, fun x => (hbyte x).trans (by rw [hr.state])⟩
  · exact congrArg (· + 4) hpc
  · exact hs
  · exact hq
  · obtain ⟨lane, hlane, rfl⟩ := List.mem_map.1 hmem
    have hlt := c.g.actives_lt _ hlane
    rw [← padAddress, ← padWord_toNat]
    exact congrArg BitVec.toNat ((hvreg (d.toNat + j) hlt).trans ((if_pos ⟨⟨j, List.mem_range.2 hj, rfl⟩, hlane⟩).trans
      (by rw [Nat.add_sub_cancel_left])))
  · refine (hvreg r hk).trans (if_neg ?_)
    rintro ⟨⟨j, hj, rfl⟩, hmem⟩
    have hj := List.mem_range.1 hj
    rcases hout with h | h | h
    · omega
    · omega
    · rw [((c.g.mem_actives k).1 hmem).2] at h
      cases h
end

/-! ## Stores (R207) -/

section
variable {c c' : Ctx} {slot off : Nat} {bs : List Byte} {t : Team} {g : Tag} {k : Core}

theorem Part.tag?_modCore {P : Part} {core : Nat} {f : Core → Core} (hf : ∀ k, (f k).tags = k.tags) (n slot : Nat) :
    (P.modCore core f).tag? n slot = P.tag? n slot := by
  have hcore : (P.modCore core f).core? n = if core = n then (P.core? n).map f else P.core? n := Table.get?_modify ..
  rw [Part.tag?, Part.tag?, hcore]
  split
  · cases P.core? n with
    | none => rfl
    | some k => exact congrArg (Table.get? · slot) (hf k)
  · rfl

/-- Bytes stored on the core do not change what slots its groups reach. -/
theorem Ctx.reach_modCore {f : Core → Core} (hf : ∀ k, (f k).tags = k.tags) (core slot : Nat) :
    (c.setP (c.P.modCore core f)).reach slot = c.reach slot := by
  rw [Ctx.reach, Ctx.reach, Ctx.P_setP, Part.tag?_modCore hf]
  rfl

/-- A store of bytes within one slot: the slot is made ready, and the bytes go where a load of it then looks. -/
theorem Ctx.poke_within (hoff : off + bs.length ≤ 4096) (hlen : 0 < bs.length) (hreach : c.reach slot ≠ .none)
    (hready : c.storeReady slot = c') :
    c.poke (slot * 4096 + off) bs =
      c'.setP (c'.P.modCore (c'.P.coreOf c'.gid) fun k => k.poke (c'.loadSlot slot * 4096 + off) bs) := by
  have hpart : (bs.drop (slot * 4096 + off - (slot * 4096 + off))).take bs.length = bs := by
    rw [Nat.sub_self, List.drop_zero, List.take_length]
  rw [Ctx.poke, slotPieces_within hoff hlen, List.foldl_cons, List.foldl_nil]
  dsimp only
  rw [hpart, hready]
  cases h : c.reach slot with
  | none => exact absurd h hreach
  | _ => rfl

theorem Ctx.storeReady_own {n : Nat} (h : c.reach slot = .own n) (hn : n ≠ 2) : c.storeReady slot = c := by
  rw [Ctx.storeReady]
  split
  next h' => exact absurd (Reach.own.inj (h.symm.trans h')) hn
  next h' => cases h.symm.trans h'
  next => rfl

theorem Ctx.storeReady_fresh {dir j : Nat} (h : c.reach slot = .fresh dir j) : c.storeReady slot = c := by
  rw [Ctx.storeReady, h]

theorem Ctx.poke_own (hoff : off + bs.length ≤ 4096) (hlen : 0 < bs.length) (hreach : c.reach slot = .own 1) :
    c.poke (slot * 4096 + off) bs = c.setP (c.P.modCore (c.P.coreOf c.gid) fun k => k.poke (slot * 4096 + off) bs) := by
  rw [Ctx.poke_within hoff hlen (hreach ▸ Reach.noConfusion) (c' := c) (Ctx.storeReady_own hreach (by decide)), Ctx.loadSlot_own hreach]

/-- A core after each item's bytes have been stored at its address. -/
def Core.pokes (k : Core) (bytes : Nat → List Byte) (items : List (Nat × Int)) : Core :=
  items.foldl (fun k e => k.poke e.2.toNat (bytes e.1)) k

theorem Ctx.pokes_own {size : Nat} {bytes : Nat → List Byte} (hsize : 0 < size) (hbytes : ∀ l, (bytes l).length = size)
    (items : List (Nat × Int)) (hfit : c.Fits)
    (hitems : ∀ e ∈ items, c.reach (e.2.toNat / 4096) = .own 1 ∧ e.2.toNat % 4096 + size ≤ 4096) :
    let c' := items.foldl (fun c' e => c'.poke e.2.toNat (bytes e.1)) c
    c.Leads c' ∧ c'.g = c.g ∧ c'.P.core? (c.P.coreOf c.gid) = (c.P.core? (c.P.coreOf c.gid)).map fun k => k.pokes bytes items := by
  induction items generalizing c with
  | nil => exact ⟨.refl hfit, rfl, Option.map_id'.symm⟩
  | cons e items ih =>
    obtain ⟨hreach, hwithin⟩ := hitems e List.mem_cons_self
    have hpoke : c.poke e.2.toNat (bytes e.1) =
        c.setP (c.P.modCore (c.P.coreOf c.gid) fun k => k.poke e.2.toNat (bytes e.1)) := by
      have h := Ctx.poke_own (c := c) (slot := e.2.toNat / 4096) (off := e.2.toNat % 4096) (bs := bytes e.1)
        (by rw [hbytes]; exact hwithin) (by rw [hbytes]; exact hsize) hreach
      rwa [Nat.div_add_mod'] at h
    have hg := (Part.group?_modCore c.P (c.P.coreOf c.gid) (fun k => k.poke e.2.toNat (bytes e.1)) c.gid).trans hfit.group
    have hlead : c.Leads (c.poke e.2.toNat (bytes e.1)) := hpoke ▸ (Ctx.Leads.refl hfit).setP hg
    have hgroup : (c.poke e.2.toNat (bytes e.1)).g = c.g := by rw [hpoke, Ctx.g_setP hg]
    obtain ⟨hrest, hgrest, hcore⟩ := ih hlead.fits fun e' he' => by
      rw [hpoke, Ctx.reach_modCore (f := fun k => k.poke e.2.toNat (bytes e.1)) fun _ => rfl]
      exact hitems e' (List.mem_cons_of_mem _ he')
    refine ⟨hlead.trans hrest, hgrest.trans hgroup, ?_⟩
    rw [hpoke, Ctx.P_setP, Ctx.gid_setP, Part.coreOf_modCore, Part.core?_modCore_same, Option.map_map] at hcore
    rw [List.foldl_cons, hpoke]
    exact hcore

theorem Core.poke_scratch (k : Core) (addr : Nat) (bs : List Byte) (x : Nat) :
    Cells.get 0 (k.poke addr bs).scratch x = if addr ≤ x then bs.getD (x - addr) (Cells.get 0 k.scratch x) else Cells.get 0 k.scratch x :=
  Cells.get_setMany ..

theorem Core.poke_outside {addr : Nat} {bs : List Byte} {x : Nat} (h : x < addr ∨ addr + bs.length ≤ x) :
    Cells.get 0 (k.poke addr bs).scratch x = Cells.get 0 k.scratch x := by
  rw [Core.poke_scratch]
  split
  · exact List.getD_eq_default _ _ (by omega)
  · rfl

theorem Core.poke_inside {addr : Nat} {bs : List Byte} {j : Nat} (h : j < bs.length) :
    Cells.get 0 (k.poke addr bs).scratch (addr + j) = bs.getD j 0 := by
  rw [Core.poke_scratch, if_pos (Nat.le_add_right ..), Nat.add_sub_cancel_left, List.getD_eq_getElem _ _ h, List.getD_eq_getElem _ _ h]

theorem Core.pokes_outside {size : Nat} {bytes : Nat → List Byte} (hbytes : ∀ l, (bytes l).length = size) {items : List (Nat × Int)} {x : Nat}
    (h : ∀ e ∈ items, x < e.2.toNat ∨ e.2.toNat + size ≤ x) : Cells.get 0 (k.pokes bytes items).scratch x = Cells.get 0 k.scratch x := by
  induction items generalizing k with
  | nil => rfl
  | cons e items ih =>
    refine (ih fun e' he' => h e' (List.mem_cons_of_mem _ he')).trans (Core.poke_outside ?_)
    rw [hbytes]
    exact h e List.mem_cons_self

/-- Of aligned stores, the last one at an address gives its bytes. -/
theorem Core.pokes_last {size : Nat} {bytes : Nat → List Byte} (hbytes : ∀ l, (bytes l).length = size) {before after : List (Nat × Int)}
    {e : Nat × Int} {j : Nat} (hj : j < size) (haligned : ∀ f ∈ before ++ e :: after, 0 ≤ f.2 ∧ f.2 % size = 0) (hlast : ∀ f ∈ after, f.2 ≠ e.2) :
    Cells.get 0 (k.pokes bytes (before ++ e :: after)).scratch (e.2.toNat + j) = (bytes e.1).getD j 0 := by
  rw [Core.pokes, List.foldl_append, List.foldl_cons]
  refine (Core.pokes_outside hbytes fun f hf => ?_).trans (Core.poke_inside (hbytes e.1 ▸ hj))
  obtain ⟨hpos, hmod⟩ := haligned e (by simp)
  obtain ⟨hpos', hmod'⟩ := haligned f (by simp [hf])
  obtain ⟨m, hm⟩ := Int.dvd_of_emod_eq_zero hmod
  obtain ⟨n, hn⟩ := Int.dvd_of_emod_eq_zero hmod'
  have hne : n ≠ m := fun h => hlast f hf (by rw [hn, hm, h])
  rcases Int.lt_or_gt_of_ne hne with h | h
  · have : (size : Int) * (n + 1) ≤ size * m := Int.mul_le_mul_of_nonneg_left h (by omega)
    rw [Int.mul_add] at this
    omega
  · have : (size : Int) * (m + 1) ≤ size * n := Int.mul_le_mul_of_nonneg_left h (by omega)
    rw [Int.mul_add] at this
    omega
end

section
variable {c : Ctx} {s : State} {d a : VReg} {l : La} {o : BitVec 8} {i : Instr} {size : Nat}

theorem padChecks_in_range {store : Bool} {items : List (Nat × Int)} (h : c.padChecks store size items = none) {e : Nat × Int} (he : e ∈ items) :
    e.2 % size = 0 ∧ 0 ≤ e.2 ∧ e.2 + size ≤ 2 ^ 20 := by
  rw [Ctx.padChecks] at h
  cases hfind : items.find? fun e => e.2 % (size : Int) != 0 with
  | some x => rw [hfind] at h; cases h
  | none =>
    rw [hfind] at h
    have horder := eq_none_of_firstSome (eq_none_of_firstSome h (x := 0) (by simp)) he
    rw [Ctx.padError] at horder
    refine ⟨by simpa using List.find?_eq_none.1 hfind e he, ?_⟩
    by_contra hout
    rw [if_pos (by omega)] at horder
    cases horder

theorem laneBytes_length (c : Ctx) (d : VReg) (size l : Nat) : (laneBytes c d size l).length = size := by
  rw [laneBytes, List.length_map, List.length_range]

theorem laneBytes_eq_flatten (hsize : size % 4 = 0) (lane : Nat) :
    ((List.range (size / 4)).map fun j => leBytes 4 (c.g.vreg (d.toNat + j) lane).toNat).flatten = laneBytes c d size lane := by
  rw [flatten_words fun j => c.g.vreg (d.toNat + j) lane, Nat.mul_div_cancel' (Nat.dvd_of_mod_eq_zero hsize), laneBytes]

theorem Ctx.padStore_passes (hsize : size % 4 = 0) (hchecks : c.padChecks true size (padItems c a o size) = none) :
    c.padStore d a o size = .done ((padItems c a o size).foldl (fun c' e => c'.poke e.2.toNat (laneBytes c d size e.1)) c).s := by
  rw [Ctx.padStore]
  change (match c.padChecks true size (padItems c a o size) with
    | some t => Res.trap c.s t
    | none => _) = _
  rw [hchecks]
  refine congrArg (fun f => Res.done ((padItems c a o size).foldl f c).s) (funext fun c' => funext fun e => ?_)
  rw [laneBytes_eq_flatten hsize]

theorem exec_pad_store (hi : (i = .sts d a l o ∧ size = 4) ∨ (i = .stsq d a l o ∧ size = 16)) :
    exec i s = Machine.issue i s fun c => c.padStore d a o size := by
  rcases hi with ⟨rfl, rfl⟩ | ⟨rfl, rfl⟩ <;> rfl

theorem storesWriteTheirBytes {k : Core} (hr : Ready c s i) (hi : (i = .sts d a l o ∧ size = 4) ∨ (i = .stsq d a l o ∧ size = 16))
    (hchecks : c.padChecks true size (padItems c a o size) = none) (hk : c.P.core? (c.P.coreOf c.gid) = some k)
    (hown : ∀ e ∈ padItems c a o size, c.reach (e.2.toNat / 4096) = .own 1) :
    ∃ t g k', exec i s = .next t ∧ t.group? c.p c.gid = some g ∧ Kept c g ∧
      (t.part? c.p).bind (fun P => P.core? (c.P.coreOf c.gid)) = some k' ∧
      (∀ (before : List (Nat × Int)) (e : Nat × Int) (after : List (Nat × Int)) (j : Nat), padItems c a o size = before ++ e :: after →
        j < size → (∀ f ∈ after, f.2 ≠ e.2) → Cells.get 0 k'.scratch (e.2.toNat + j) = (laneBytes c d size e.1).getD j 0) ∧
      (∀ x, (∀ e ∈ padItems c a o size, x < e.2.toNat ∨ e.2.toNat + size ≤ x) → Cells.get 0 k'.scratch x = Cells.get 0 k.scratch x) ∧
      ∀ x, t.byte x = s.byte x := by
  obtain ⟨hdvd, hpos, hpage⟩ : size % 4 = 0 ∧ 0 < size ∧ 4096 % size = 0 := by
    rcases hi with ⟨-, rfl⟩ | ⟨-, rfl⟩ <;> decide
  have hbytes := laneBytes_length c d size
  obtain ⟨hlead, hg, hcore⟩ := Ctx.pokes_own hpos hbytes (padItems c a o size) hr.fits fun e he => by
    obtain ⟨haligned, hlow, -⟩ := padChecks_in_range hchecks he
    refine ⟨hown e he, ?_⟩
    have haligned : e.2.toNat % size = 0 := by
      rw [← Int.toNat_of_nonneg hlow] at haligned
      exact_mod_cast haligned
    rcases hi with ⟨-, rfl⟩ | ⟨-, rfl⟩ <;> omega
  obtain ⟨t, ht, hended, hgroup, hbyte⟩ := hr.finishes_state (exec_pad_store hi) hlead.fits hlead.p hlead.gid (Ctx.padStore_passes hdvd hchecks)
  rw [hg] at hgroup
  rw [hk, Option.map_some] at hcore
  refine ⟨t, _, _, ht, hgroup, rfl, (hended.core _).trans hcore, fun before e after j hitems hj hlast => ?_,
    fun x hx => Core.pokes_outside hbytes hx, fun x => (hbyte x).trans ((hlead.byte x).trans (by rw [hr.state]))⟩
  rw [hitems]
  refine Core.pokes_last hbytes hj (fun f hf => ?_) hlast
  obtain ⟨haligned, hlow, -⟩ := padChecks_in_range hchecks (hitems ▸ hf)
  exact ⟨hlow, haligned⟩
end

/-! ## The slot of a store that lies elsewhere than in the own run (R172, R176, R178) -/

/-- How a team reaches a slot whose tag is `g`. -/
def Team.reachOf (t : Team) (g : Tag) : Reach :=
  if 1 ≤ g.state.toNat ∧ g.state.toNat ≤ 3 then (if g.owner.toNat = t.slot then .own g.state.toNat else .none)
  else if g.state.toNat = 4 then
    match t.attaches.find? fun a => a.dir == g.owner.toNat && a.result.isSome with
    | none => .none
    | some a =>
      if a.mode = 0 then .reading a.dir g.link.toNat
      else if a.created && !a.sealed then .fresh a.dir g.link.toNat
      else .writing a.dir g.link.toNat
  else .none

section
variable {c c' : Ctx} {slot : Nat} {t : Team} {g : Tag} {k : Core}

theorem Ctx.reach_eq (hteam : c.team? = some t) (htag : c.P.tag? (c.P.coreOf c.gid) slot = some g) : c.reach slot = t.reachOf g := by
  rw [Ctx.reach, if_neg (Bool.eq_false_iff.1 (Ctx.not_whisk_of_team hteam)), hteam, htag]
  rfl

/-- A slot that a team reaches has a tag. -/
theorem Ctx.tag_of_reach (hteam : c.team? = some t) (hreach : c.reach slot ≠ .none) : ∃ g, c.P.tag? (c.P.coreOf c.gid) slot = some g := by
  cases htag : c.P.tag? (c.P.coreOf c.gid) slot with
  | some g => exact ⟨g, rfl⟩
  | none =>
    rw [Ctx.reach, if_neg (Bool.eq_false_iff.1 (Ctx.not_whisk_of_team hteam)), hteam, htag] at hreach
    exact absurd rfl hreach

theorem Team.reachOf_crock (h : g.state.toNat = 4) : t.reachOf g =
    match t.attaches.find? fun a => a.dir == g.owner.toNat && a.result.isSome with
    | none => .none
    | some a =>
      if a.mode = 0 then .reading a.dir g.link.toNat
      else if a.created && !a.sealed then .fresh a.dir g.link.toNat
      else .writing a.dir g.link.toNat := by
  rw [Team.reachOf, if_neg (by omega), if_pos h]

theorem Team.own_of_reachOf {n : Nat} (h : t.reachOf g = .own n) : g.state.toNat = n ∧ g.owner.toNat = t.slot ∧ 1 ≤ n ∧ n ≤ 3 := by
  rw [Team.reachOf] at h
  split at h
  next hstate =>
    split at h
    next howner =>
      cases h
      exact ⟨rfl, howner, hstate⟩
    next => cases h
  next =>
    split at h
    · split at h
      · cases h
      · split at h
        · cases h
        · split at h <;> cases h
    · cases h

theorem Team.reachOf_own (howner : g.owner.toNat = t.slot) (h : 1 ≤ g.state.toNat ∧ g.state.toNat ≤ 3) : t.reachOf g = .own g.state.toNat := by
  rw [Team.reachOf, if_pos h, if_pos howner]

/-- A tagged slot that becomes dirty is reached as before. -/
theorem Team.reachOf_dirty {n : Nat} (h : t.reachOf g = .own n) : t.reachOf { g with state := 3 } = .own 3 := by
  obtain ⟨-, howner, -⟩ := Team.own_of_reachOf h
  exact Team.reachOf_own (g := { g with state := 3 }) howner ⟨(by decide : 1 ≤ (3 : BitVec 3).toNat), (by decide : (3 : BitVec 3).toNat ≤ 3)⟩

theorem find?_map_keeping {α : Type} {p : α → Bool} {f : α → α} (hp : ∀ x, p (f x) = p x) (l : List α) :
    (l.map f).find? p = (l.find? p).map f := by
  rw [List.find?_map, show p ∘ f = p from funext hp]

/-- Shadows and reserved slots do not say how a team reaches a slot. -/
theorem Team.reachOf_map {f : Attach → Attach} (hf : ∀ a, f a = { a with shadows := (f a).shadows, spare := (f a).spare })
    (h : g.state.toNat = 4) : ({ t with attaches := t.attaches.map f } : Team).reachOf g = t.reachOf g := by
  rw [Team.reachOf_crock h, Team.reachOf_crock h]
  dsimp only
  rw [find?_map_keeping fun a => by rw [hf a]]
  cases t.attaches.find? fun a => a.dir == g.owner.toNat && a.result.isSome with
  | none => rfl
  | some a =>
    rw [Option.map_some]
    dsimp only
    rw [hf a]

theorem Team.crock_of_writing {dir j : Nat} (h : t.reachOf g = .writing dir j) : g.state.toNat = 4 := by
  by_contra hstate
  rw [Team.reachOf, if_neg hstate] at h
  split at h
  · split at h <;> cases h
  · cases h

/-! ### The slot made ready -/

/-- What `c'` must be for a store into the slot: its effect leads there, and the store then goes into physical slot `phys`. -/
structure MadeReady (c : Ctx) (slot : Nat) (c' : Ctx) (t : Team) (k : Core) (phys : Nat) : Prop where
  eq : c.storeReady slot = c'
  leads : c.Leads c'
  g : c'.g = c.g
  coreOf : c'.P.coreOf c.gid = c.P.coreOf c.gid
  team : c'.P.team? c.tk = some t
  core : c'.P.core? (c.P.coreOf c.gid) = some k
  load : c'.loadSlot slot = phys

theorem madeReady_same (hfit : c.Fits) (hteam : c.team? = some t) (hk : c.P.core? (c.P.coreOf c.gid) = some k) (heq : c.storeReady slot = c) {phys : Nat}
    (hload : c.loadSlot slot = phys) : MadeReady c slot c t k phys :=
  ⟨heq, .refl hfit, rfl, rfl, Ctx.team?_P hteam, hk, hload⟩

/-- A tagged-clean slot has become dirty (R172). -/
def Core.dirtied (slot : Nat) (k : Core) : Core := { k with tags := Table.modify k.tags slot fun g => { g with state := 3 } }

theorem madeReady_clean (hfit : c.Fits) (hteam : c.team? = some t) (hk : c.P.core? (c.P.coreOf c.gid) = some k)
    (hreach : c.reach slot = .own 2) (htag : Table.get? k.tags slot = some g) :
    MadeReady c slot (c.setP (c.P.modCore (c.P.coreOf c.gid) (Core.dirtied slot))) t (k.dirtied slot) slot := by
  have hg := (Part.group?_modCore c.P (c.P.coreOf c.gid) (Core.dirtied slot) c.gid).trans hfit.group
  have hcore : (c.P.modCore (c.P.coreOf c.gid) (Core.dirtied slot)).core? (c.P.coreOf c.gid) = some (k.dirtied slot) := by
    rw [Part.core?_modCore_same, hk, Option.map_some]
  have htag0 : c.P.tag? (c.P.coreOf c.gid) slot = some g := by rw [Part.tag?, hk, Option.bind_some, htag]
  have htag1 : (c.P.modCore (c.P.coreOf c.gid) (Core.dirtied slot)).tag? (c.P.coreOf c.gid) slot = some { g with state := 3 } := by
    rw [Part.tag?, hcore, Option.bind_some, Core.dirtied, Table.get?_modify_same, htag, Option.map_some]
  have hteam1 : (c.setP (c.P.modCore (c.P.coreOf c.gid) (Core.dirtied slot))).team? = some t := hteam
  refine ⟨?_, (Ctx.Leads.refl hfit).setP hg, Ctx.g_setP hg, rfl, Ctx.team?_P hteam, hcore, Ctx.loadSlot_own (n := 3) ?_⟩
  · rw [Ctx.storeReady, hreach]
    rfl
  · rw [Ctx.reach_eq hteam1 htag1]
    exact Team.reachOf_dirty ((Ctx.reach_eq hteam htag0).symm.trans hreach)

/-- The attach of a crock with a shadow for slot `j` of it (R176). -/
def Attach.shadowed (dir j sh : Nat) (spare : List Nat) (b : Attach) : Attach :=
  if b.dir = dir then { b with shadows := Table.set b.shadows j sh, spare := spare } else b

theorem Attach.shadowed_frame (dir j sh : Nat) (spare : List Nat) (b : Attach) :
    b.shadowed dir j sh spare = { b with shadows := (b.shadowed dir j sh spare).shadows, spare := (b.shadowed dir j sh spare).spare } := by
  rw [Attach.shadowed]
  split <;> rfl

/-- A core on which slot `sh` has become the shadow of a slot, and holds a copy of it (R176). -/
def Core.copied (slot sh : Nat) (k : Core) : Core :=
  { k.copySlot slot sh with tags := Table.modify (k.copySlot slot sh).tags sh fun g => { g with link := BitVec.ofNat 8 slot } }

theorem Core.copied_tags (slot sh : Nat) (k : Core) :
    (k.copied slot sh).tags = Table.modify k.tags sh fun g => { g with link := BitVec.ofNat 8 slot } := by
  rw [Core.copied, Core.copySlot]

theorem madeReady_shadow {dir j sh : Nat} {rest : List Nat} {att : Attach} (hfit : c.Fits) (hteam : c.team? = some t)
    (hk : c.P.core? (c.P.coreOf c.gid) = some k) (hreach : c.reach slot = .writing dir j) (hatt : (t.attaches.find? fun x => x.dir == dir) = some att)
    (hnone : Table.get? att.shadows j = none) (hspare : att.spare = sh :: rest) (hne : sh ≠ slot) :
    ∃ c', MadeReady c slot c' { t with attaches := t.attaches.map (Attach.shadowed dir j sh rest) } (k.copied slot sh) sh := by
  obtain ⟨g, htag⟩ := Ctx.tag_of_reach hteam (slot := slot) (hreach ▸ Reach.noConfusion)
  have hwriting := (Ctx.reach_eq hteam htag).symm.trans hreach
  let f (t : Team) : Team := { t with attaches := t.attaches.map (Attach.shadowed dir j sh rest) }
  let P := (c.P.modCore (c.P.coreOf c.gid) (Core.copied slot sh)).modTeam c.tk f
  have hg : P.group? c.gid = some c.g :=
    (Part.group?_modTeam _ _ f (fun _ => rfl) _).trans ((Part.group?_modCore c.P _ (Core.copied slot sh) _).trans hfit.group)
  have hteamP : P.team? c.tk = some (f t) :=
    (Part.team?_modTeam_same ..).trans (congrArg (Option.map f) (Ctx.team?_P hteam))
  have hteam1 : (c.setP P).team? = some (f t) := (Ctx.team?_of_team (c := c.setP P) (Ctx.not_whisk_of_team (c := c) hteam)).trans hteamP
  have hcoreOf : P.coreOf c.gid = c.P.coreOf c.gid := by
    refine Part.coreOf_congr (fun tk => ?_) c.gid
    by_cases h : tk = c.tk
    · rw [h, hteamP, Ctx.team?_P hteam]
      rfl
    · exact congrArg _ (Part.team?_modTeam_ne _ _ h)
  have hcore : P.core? (c.P.coreOf c.gid) = some (k.copied slot sh) := by
    rw [Part.core?_modTeam, Part.core?_modCore_same, hk, Option.map_some]
  have htag1 : (c.setP P).P.tag? ((c.setP P).P.coreOf (c.setP P).gid) slot = some g := by
    rw [Ctx.P_setP, Ctx.gid_setP, hcoreOf, Part.tag?, hcore, Option.bind_some]
    rw [Part.tag?, hk, Option.bind_some] at htag
    rw [Core.copied_tags, Table.get?_modify, if_neg hne, htag]
  have hreach1 : (c.setP P).reach slot = .writing dir j := by
    rw [Ctx.reach_eq hteam1 htag1]
    exact (Team.reachOf_map (Attach.shadowed_frame dir j sh rest) (Team.crock_of_writing hwriting)).trans hwriting
  have hfind : (f t).attaches.find? (fun x => x.dir == dir) = some (att.shadowed dir j sh rest) :=
    (find?_map_keeping (fun b => by rw [Attach.shadowed_frame]) t.attaches).trans (by rw [hatt, Option.map_some])
  have hdir : att.dir = dir := by simpa using List.find?_some hatt
  refine ⟨c.setP P, ?_, (Ctx.Leads.refl hfit).setP hg, Ctx.g_setP hg, hcoreOf, hteamP, hcore, ?_⟩
  · rw [Ctx.storeReady, hreach]
    dsimp only
    rw [hteam, Option.bind_some, hatt]
    dsimp only
    rw [hnone, hspare]
    rfl
  · rw [Ctx.loadSlot, hreach1]
    dsimp only
    rw [hteam1, Option.bind_some, hfind, Option.bind_some, Attach.shadowed, if_pos hdir]
    dsimp only
    rw [Table.get?_set_same]
end

/-! ### The store -/

section
variable {c c' : Ctx} {s : State} {d a : VReg} {l : La} {o : BitVec 8} {tm t : Team} {k : Core} {lane slot offset phys : Nat} {at' : Int}

/-- What a store of one lane leaves: the team as the slot's making ready left it, and the bytes in the physical slot. -/
theorem Ready.stores (hr : Ready c s (.sts d a l o)) (hteam : c.team? = some tm) (hitems : padItems c a o 4 = [(lane, at')])
    (hchecks : c.padChecks true 4 [(lane, at')] = none) (haddr : at'.toNat = slot * 4096 + offset) (hoff : offset + 4 ≤ 4096)
    (hreach : c.reach slot ≠ .none) (hready : MadeReady c slot c' t k phys) :
    ∃ u g, exec (.sts d a l o) s = .next u ∧ u.group? c.p c.gid = some g ∧ Kept c g ∧
      teamIn u c = some (t.putGroup (gidGroup c.gid) g) ∧ coreIn u c = some (k.poke (phys * 4096 + offset) (laneBytes c d 4 lane)) ∧
      ∀ x, u.byte x = s.byte x := by
  have hbytes := laneBytes_length c d 4 lane
  let f (k : Core) : Core := k.poke (c'.loadSlot slot * 4096 + offset) (laneBytes c d 4 lane)
  let P := c'.P.modCore (c'.P.coreOf c'.gid) f
  have hpoke : c.poke at'.toNat (laneBytes c d 4 lane) = c'.setP P := by
    rw [haddr]
    exact Ctx.poke_within (by rw [hbytes]; exact hoff) (by rw [hbytes]; decide) hreach hready.eq
  have hbody : c.padStore d a o 4 = .done (c'.setP P).s := by
    rw [Ctx.padStore_passes (by decide) (hitems ▸ hchecks), hitems, List.foldl_cons, List.foldl_nil, hpoke]
  have hg : P.group? c.gid = some c'.g := (Part.group?_modCore c'.P _ f _).trans (hready.leads.gid ▸ hready.leads.fits.group)
  have hlead : c.Leads (c'.setP P) := hready.leads.setP hg
  have hgroup : (c'.setP P).g = c.g := (Ctx.g_setP (hready.leads.gid.symm ▸ hg)).trans hready.g
  have hfk : f k = k.poke (phys * 4096 + offset) (laneBytes c d 4 lane) :=
    congrArg (fun n => k.poke (n * 4096 + offset) (laneBytes c d 4 lane)) hready.load
  have hcoreAt : ∀ n, n = c.P.coreOf c.gid → (c'.P.modCore n f).core? (c.P.coreOf c.gid) = some (f k) := by
    rintro n rfl
    rw [Part.core?_modCore_same, hready.core, Option.map_some]
  have hcore : P.core? (c.P.coreOf c.gid) = some (k.poke (phys * 4096 + offset) (laneBytes c d 4 lane)) :=
    (hcoreAt _ (by rw [hready.leads.gid, hready.coreOf])).trans (congrArg some hfk)
  obtain ⟨u, hu, hended, hgt, hbyte⟩ := hr.finishes_state (c' := c'.setP P) rfl hlead.fits hlead.p hlead.gid hbody
  rw [hgroup] at hgt hended
  exact ⟨u, _, hu, hgt, rfl, hended.teamIn (Ctx.not_whisk_of_team hteam) hready.team, hended.coreIn.trans hcore,
    fun x => (hbyte x).trans ((hlead.byte x).trans (by rw [hr.state]))⟩

/-! ### A store into a crock attached for reading (R207) -/

theorem touched_granule {n : Nat} (h : n % 4 = 0) : touched 16 n 4 = [n / 16] := by
  rw [touched, show (n + 4 + 16 - 1) / 16 - n / 16 = 1 by omega]
  rfl

theorem slotPieces_word {n : Nat} (h : n % 4 = 0) : slotPieces n 4 = [(n / 4096, n % 4096, 4)] := by
  have hpieces := slotPieces_within (slot := n / 4096) (off := n % 4096) (len := 4) (by omega) (by decide)
  rwa [Nat.div_add_mod'] at hpieces

theorem padChecks_reading {dir j n : Nat} (hreach : c.reach (n / 4096) = .reading dir j) (hhigh : n + 4 ≤ 2 ^ 20) (haligned : n % 4 = 0)
    (hk : c.P.core? (c.P.coreOf c.gid) = some k) (hguard : k.guards.contains (n / 16) = false) :
    c.padChecks true 4 [(lane, (n : Int))] = some ⟨0x11, padInfo (n : Nat) lane 1⟩ := by
  have hin : ¬((n : Int) < 0 ∨ 2 ^ 20 < (n : Int) + (4 : Nat)) := by omega
  have hfind : ([(lane, (n : Int))].find? fun e => e.2 % ((4 : Nat) : Int) != 0) = none := by
    refine List.find?_eq_none.2 fun e he => ?_
    cases List.mem_singleton.1 he
    rw [show ((n : Int) % ((4 : Nat) : Int)) = 0 by omega]
    decide
  have hslots : c.padError true 0 (n : Int) 4 lane = none := by
    rw [Ctx.padError, if_neg hin]
    dsimp only
    rw [Int.toNat_natCast, slotPieces_word haligned, List.find?_cons_of_neg (by rw [hreach]; simp)]
    rfl
  have hguards : c.padError true 1 (n : Int) 4 lane = none := by
    rw [Ctx.padError, if_neg hin]
    dsimp only
    rw [if_pos rfl, Int.toNat_natCast, hk, Option.map_some, Option.getD_some, touched_granule haligned,
      List.find?_cons_of_neg (by rw [hguard]; decide)]
    rfl
  have hreading : c.padError true 2 (n : Int) 4 lane = some ⟨0x11, padInfo (n : Nat) lane 1⟩ := by
    rw [Ctx.padError, if_neg hin]
    change (if true = true then Option.map _ (List.find? _ (slotPieces ((n : Int).toNat) 4)) else none) = _
    rw [if_pos rfl, Int.toNat_natCast, slotPieces_word haligned, List.find?_cons_of_pos (by rw [hreach]), Option.map_some,
      Nat.div_add_mod']
    rfl
  have hpass {order : Nat} (h : c.padError true order (n : Int) 4 lane = none) : c.padCheck true order 4 [(lane, (n : Int))] = none :=
    firstSome_cons_none (f := fun e : Nat × Int => c.padError true order e.2 4 e.1) h []
  rw [Ctx.padChecks, hfind]
  dsimp only
  rw [firstSome_cons_none (f := fun order => c.padCheck true order 4 [(lane, (n : Int))]) (hpass hslots),
    firstSome_cons_none (f := fun order => c.padCheck true order 4 [(lane, (n : Int))]) (hpass hguards)]
  exact firstSome_cons_some (f := fun order => c.padCheck true order 4 [(lane, (n : Int))]) (firstSome_cons_some (f := fun e : Nat × Int => c.padError true 2 e.2 4 e.1) (x := (lane, (n : Int))) hreading _) _

theorem padInfo_in_range {n : Nat} (h : n < 2 ^ 20) (lane kind : Nat) :
    padInfo (n : Nat) lane kind = BitVec.ofNat 64 (n + lane * 2 ^ 56 + kind * 2 ^ 61) := by
  rw [padInfo, wrapNat, Int.emod_eq_of_lt (by omega) (by exact_mod_cast h), Int.toNat_natCast]

theorem Ready.reading_traps {dir j : Nat} (hr : Ready c s (.sts d a l o)) (hitems : padItems c a o 4 = [(lane, at')])
    (hk : c.P.core? (c.P.coreOf c.gid) = some k) (hreach : c.reach (at'.toNat / 4096) = .reading dir j) (hlow : 0 ≤ at') (hhigh : at' + 4 ≤ 2 ^ 20)
    (haligned : at'.toNat % 4 = 0) (hguard : k.guards.contains (at'.toNat / 16) = false) :
    TrapsWith c (.sts d a l o) s ⟨0x11, BitVec.ofNat 64 (at'.toNat + lane * 2 ^ 56 + 2 ^ 61)⟩ := by
  obtain ⟨n, rfl⟩ := Int.eq_ofNat_of_zero_le hlow
  rw [Int.toNat_natCast] at *
  have hchecks := padChecks_reading (lane := lane) hreach (by omega) haligned hk hguard
  rw [padInfo_in_range (by omega), Nat.one_mul, ← hitems] at hchecks
  refine hr.trapsWith rfl (?_ : c.padStore d a o 4 = _)
  rw [Ctx.padStore]
  change (match c.padChecks true 4 (padItems c a o 4) with
    | some t => Res.trap c.s t
    | none => _) = _
  rw [hchecks]

/-! ### The bytes of the slot and of its shadow -/

/-- The slot's own bytes, and those of its shadow, which took the store on top of a copy of slot `src`. -/
theorem poke_shadow {k' : Core} {sh src : Nat} {bs : List Byte} (hbs : bs.length = 4) (hoff : offset + 4 ≤ 4096) (hne : sh ≠ slot)
    (hcopy : ∀ y < 4096, Cells.get 0 k'.scratch (sh * 4096 + y) = Cells.get 0 k.scratch (src * 4096 + y) ∧
      Cells.get 0 k'.scratch (slot * 4096 + y) = Cells.get 0 k.scratch (slot * 4096 + y)) (y : Nat) (hy : y < 4096) :
    Cells.get 0 (k'.poke (sh * 4096 + offset) bs).scratch (sh * 4096 + y) =
        (if offset ≤ y ∧ y < offset + 4 then bs.getD (y - offset) 0 else Cells.get 0 k.scratch (src * 4096 + y)) ∧
      Cells.get 0 (k'.poke (sh * 4096 + offset) bs).scratch (slot * 4096 + y) = Cells.get 0 k.scratch (slot * 4096 + y) := by
  obtain ⟨hshadow, hslot⟩ := hcopy y hy
  refine ⟨?_, (Core.poke_outside (by omega)).trans hslot⟩
  by_cases hin : offset ≤ y ∧ y < offset + 4
  · rw [if_pos hin, ← Core.poke_inside (k := k') (addr := sh * 4096 + offset) (bs := bs) (j := y - offset) (by omega),
      show sh * 4096 + offset + (y - offset) = sh * 4096 + y by omega]
  · rw [if_neg hin, ← hshadow]
    exact Core.poke_outside (by omega)

theorem Core.copied_scratch {sh : Nat} (hne : sh ≠ slot) (y : Nat) (hy : y < 4096) :
    Cells.get 0 (k.copied slot sh).scratch (sh * 4096 + y) = Cells.get 0 k.scratch (slot * 4096 + y) ∧
      Cells.get 0 (k.copied slot sh).scratch (slot * 4096 + y) = Cells.get 0 k.scratch (slot * 4096 + y) := by
  have hget (x : Nat) : Cells.get 0 (k.copied slot sh).scratch x =
      if sh * 4096 ≤ x then (Cells.getMany 0 k.scratch (slot * 4096) 4096).getD (x - sh * 4096) (Cells.get 0 k.scratch x) else Cells.get 0 k.scratch x := by
    rw [← Cells.get_setMany, Core.copied, Core.copySlot]
  constructor
  · rw [hget, if_pos (Nat.le_add_right ..), Nat.add_sub_cancel_left, List.getD_eq_getElem _ _ (by rw [getMany_length]; exact hy),
      ← List.getD_eq_getElem _ (0 : Byte), getMany_getD _ _ _ hy]
  · rw [hget]
    split
    · exact List.getD_eq_default _ _ (by rw [getMany_length]; omega)
    · rfl
end

/-! ## The three statements -/

theorem storesIntoSlots : StoresIntoTaggedAndCrockSlots := by
  intro c s d a l o k tm lane at' hr hteam hk hitems addr slot offset bytes
  refine ⟨fun dir j hreach hlow hhigh haligned hguard => hr.reading_traps hitems hk hreach hlow hhigh haligned hguard, fun hchecks => ?_⟩
  have hbs : bytes.length = 4 := laneBytes_length c d 4 lane
  obtain ⟨haligned, hlow, -⟩ := padChecks_in_range hchecks (List.mem_singleton_self _)
  have haddr : at'.toNat = slot * 4096 + offset := (Nat.div_add_mod' ..).symm
  have hoff : offset + 4 ≤ 4096 := by
    have : at'.toNat % 4 = 0 := by omega
    omega
  have hwritten (k : Core) (j : Nat) (hj : j < 4) : Cells.get 0 (k.poke (slot * 4096 + offset) bytes).scratch (addr + j) = bytes.getD j 0 := by
    rw [show addr + j = slot * 4096 + offset + j from congrArg (· + j) haddr]
    exact Core.poke_inside (hbs ▸ hj)
  have hstores {c' : Ctx} {t : Team} {k' : Core} {phys : Nat} (hne : c.reach slot ≠ .none) := hr.stores (c' := c') (t := t) (k := k') (phys := phys)
    hteam hitems hchecks haddr hoff hne
  intro stores
  refine ⟨fun n tag hreach hn htag => ?_, fun dir j hreach => ?_, fun dir j att hreach hatt hslot => ?_⟩
  · rcases hn with rfl | rfl
    · obtain ⟨u, g, hu, hg, hkept, htm, hcore, hbyte⟩ := hstores (hreach ▸ Reach.noConfusion) (madeReady_clean hr.fits hteam hk hreach htag)
      exact ⟨u, g, _, _, hu, hg, hkept, htm, hcore, ⟨rfl, (Table.get?_modify_same k.tags slot fun g => { g with state := 3 }).trans (congrArg _ htag), hwritten _⟩, hbyte⟩
    · obtain ⟨u, g, hu, hg, hkept, htm, hcore, hbyte⟩ := hstores (hreach ▸ Reach.noConfusion)
        (madeReady_same hr.fits hteam hk (Ctx.storeReady_own hreach (by decide)) (Ctx.loadSlot_own hreach))
      refine ⟨u, g, _, _, hu, hg, hkept, htm, hcore, ⟨rfl, htag.trans ?_, hwritten _⟩, hbyte⟩
      have hstate : tag.state.toNat = 3 := (Team.own_of_reachOf ((Ctx.reach_eq hteam
        (by rw [Part.tag?, hk, Option.bind_some, htag])).symm.trans hreach)).1
      rw [← show tag.state = 3 from BitVec.eq_of_toNat_eq hstate]
  · obtain ⟨u, g, hu, hg, hkept, htm, hcore, hbyte⟩ := hstores (hreach ▸ Reach.noConfusion)
      (madeReady_same hr.fits hteam hk (Ctx.storeReady_fresh hreach) (by rw [Ctx.loadSlot, hreach]))
    exact ⟨u, g, _, _, hu, hg, hkept, htm, hcore, ⟨rfl, rfl, hwritten _⟩, hbyte⟩
  · intro shadowed
    refine ⟨fun sh hsh hne => ?_, fun sh rest hnone hspare hne => ?_⟩
    · have hready : c.storeReady slot = c := by
        rw [Ctx.storeReady, hreach]
        dsimp only
        rw [hteam, Option.bind_some, hatt]
        dsimp only
        rw [hsh]
      have hload : c.loadSlot slot = sh := by
        rw [Ctx.loadSlot, hreach]
        dsimp only
        rw [hteam, Option.bind_some, hatt, Option.bind_some, hsh]
      obtain ⟨u, g, hu, hg, hkept, htm, hcore, hbyte⟩ := hstores (hreach ▸ Reach.noConfusion) (madeReady_same hr.fits hteam hk hready hload)
      refine ⟨u, g, _, _, hu, hg, hkept, htm, hcore, ⟨rfl, ?_, poke_shadow hbs hoff hne fun _ _ => ⟨rfl, rfl⟩⟩, hbyte⟩
      exact (congrArg (fun x : Option Attach => x.bind fun x => Table.get? x.shadows j) hatt).trans hsh
    · obtain ⟨c', hready⟩ := madeReady_shadow hr.fits hteam hk hreach hatt hnone hspare hne
      obtain ⟨u, g, hu, hg, hkept, htm, hcore, hbyte⟩ := hstores (hreach ▸ Reach.noConfusion) hready
      have hdir : att.dir = dir := by simpa using List.find?_some hatt
      have hfind : (tm.attaches.map (Attach.shadowed dir j sh rest)).find? (fun x => x.dir == dir) =
          some { att with shadows := Table.set att.shadows j sh, spare := rest } := by
        rw [find?_map_keeping (fun b => by rw [Attach.shadowed_frame]), hatt, Option.map_some, Attach.shadowed, if_pos hdir]
      refine ⟨u, g, _, _, hu, hg, hkept, htm, hcore, ⟨⟨?_, poke_shadow hbs hoff hne (Core.copied_scratch hne)⟩, _, hfind, rfl⟩, hbyte⟩
      exact (congrArg (fun x : Option Attach => x.bind fun x => Table.get? x.shadows j) hfind).trans (Table.get?_set_same ..)

/-- Settles O28: loads and stores by lane, the bytes of stores by the last lane that names them, and the slot made ready for a store
that goes to a shadow. -/
theorem scratchpadAccesses : Obligations.ScratchpadAccesses :=
  ⟨fun _ _ _ _ _ _ _ _ hr hi hchecks hclean => loadsReadTheirWords hr hi hchecks hclean,
    fun _ _ _ _ _ _ _ _ _ hr hi hchecks hk hown => storesWriteTheirBytes hr hi hchecks hk hown, storesIntoSlots⟩

end Sys2Proof.Machine
end

section
/-!
PROOF. Copies between memory and the scratchpad (spec/09_core_memory_instr.md R211, R213, R214, R216).
-/
namespace Sys2Proof.Machine
open Sys2Proof.Spec

/-! ## What the start of a copy leaves alone -/

section
variable {c c' : Ctx} {P : Part} {g : Group} {gid : Nat}

theorem Part.group?_setOp (P : Part) (op : Nat) (x : Op) (gid : Nat) : (P.setOp op x).group? gid = P.group? gid :=
  Part.group?_of_work rfl rfl gid

theorem Part.group?_addReqs (P : Part) (rs : List LineReq) (gid : Nat) : (P.addReqs rs).group? gid = P.group? gid := by
  rw [Part.addReqs_run]
  exact Part.group?_of_work rfl rfl gid

theorem Part.group?_modTb (hg : P.group? gid = some g) (hw : g.wait = none) (core a : Nat) (f : Tb → Tb) :
    (P.modTb core a f).group? gid = some g := by
  cases hb : (P.core? core).bind fun k => k.tb? a with
  | none => rw [Part.modTb, hb]; exact hg
  | some b =>
    obtain ⟨k, hk, htb⟩ := Option.bind_eq_some_iff.1 hb
    rw [Part.modTb_eq hk htb]
    have hcore := (Part.group?_modCore P core (Core.withTb a (f b).settle) gid).trans hg
    split
    · exact hcore
    · exact Part.group?_releaseTb hcore hw ..

/-- A context of the group with the same group, from which no byte of memory has changed. -/
def Ctx.Same (c c' : Ctx) : Prop := c.Leads c' ∧ c'.g = c.g

theorem Ctx.Same.refl (h : c.Fits) : c.Same c := ⟨.refl h, rfl⟩

theorem Ctx.Same.trans {c'' : Ctx} (h : c.Same c') (h' : c'.Same c'') : c.Same c'' := ⟨h.1.trans h'.1, h'.2.trans h.2⟩

theorem Ctx.Same.setP (h : c.Fits) (hg : P.group? c.gid = some c.g) : c.Same (c.setP P) := ⟨(Leads.refl h).setP hg, Ctx.g_setP hg⟩

theorem Ctx.same_storeReady (h : c.Fits) (slot : Nat) : c.Same (c.storeReady slot) := by
  have hcore (f : Core → Core) : (c.P.modCore (c.P.coreOf c.gid) f).group? c.gid = some c.g := (Part.group?_modCore ..).trans h.group
  rw [Ctx.storeReady]
  split
  next => exact .setP h (hcore _)
  next dir j _ =>
    split
    next => exact .refl h
    next att _ =>
      split
      next sh rest _ _ =>
        exact .setP h ((Part.group?_modTeam _ _ (fun t => { t with attaches := t.attaches.map fun b =>
          if b.dir = dir then { b with shadows := Table.set b.shadows j sh, spare := rest } else b }) (fun _ => rfl) _).trans (hcore _))
      next => exact .refl h
  next => exact .refl h

theorem Ctx.same_foldl {α : Type} {f : Ctx → α → Ctx} (hf : ∀ c : Ctx, c.Fits → ∀ x, c.Same (f c x)) (xs : List α) (h : c.Fits) : c.Same (xs.foldl f c) := by
  induction xs generalizing c with
  | nil => exact .refl h
  | cons x xs ih => exact (hf c h x).trans (ih (hf c h x).1.fits)

theorem Ctx.same_readySlots (h : c.Fits) (addr len : Nat) : c.Same (c.readySlots addr len) :=
  Ctx.same_foldl (fun _ h slot => Ctx.same_storeReady h slot) _ h

theorem Group.count_raise (g : Group) (p : Path) (op : Nat) : (g.raise p op).count p = g.count p + 1 := by
  rw [Group.count, Group.raise, List.filter_append, List.length_append, List.filter_cons_of_pos (by exact decide_eq_true rfl)]
  rfl
end

/-! ## A copy that has started (R211, R213, R214) -/

section
variable {c c' : Ctx} {s : State} {i : Instr} {body : Ctx → Res}

/-- A group that has completed with other windows and another count has kept its registers. -/
theorem kept_completed (c : Ctx) (ws : List Window) (fl : List InFlight) :
    Kept c ({ c.g with windows := ws, inflight := fl }.completed (c.g.pc + 4)) := rfl

theorem Group.raise_open (g : Group) (path : Path) (op : Nat) (l : La) : (g.raise path op).open l true [] [] 0 =
    { g with windows := g.windows ++ [⟨l.toNat, 0, true, [], [], 0, false, false⟩], inflight := (g.raise path op).inflight } := rfl

theorem Group.passed_open (g : Group) (path : Path) (l : La) : (g.passed path).open l true [] [] 0 =
    { g with windows := g.windows ++ [⟨l.toNat, 0, true, [], [], 0, false, false⟩], inflight := (g.passed path).inflight } := rfl

/-- A copy that starts from a context with the group as it was. -/
theorem Ready.copies (hr : Ready c s i) (he : exec i s = Machine.issue i s body) (hfit : c'.Fits) (hp : c'.p = c.p) (hgid : c'.gid = c.gid)
    (hg : c'.g = c.g) {path : Path} {op : Nat} {l : La} (hb : body c = c'.finish ((c'.g.raise path op).open l true [] [] 0)) :
    ∃ t g, exec i s = .next t ∧ t.group? c.p c.gid = some g ∧ Kept c g ∧ g.count path = c.g.count path + 1 ∧ ∀ x, t.byte x = c'.s.byte x := by
  rw [hg, Group.raise_open] at hb
  obtain ⟨t, ht, -, hgroup, hbyte⟩ := hr.finishes he hfit hp hgid hb
  exact ⟨t, _, ht, hgroup, kept_completed c _ _, c.g.count_raise path op, hbyte⟩

/-- One with no lane to act on has passed. -/
theorem Ready.copies_none (hr : Ready c s i) (he : exec i s = Machine.issue i s body) (hfit : c'.Fits) (hp : c'.p = c.p) (hgid : c'.gid = c.gid)
    (hg : c'.g = c.g) {path : Path} {l : La} (hb : body c = c'.finish ((c'.g.passed path).open l true [] [] 0)) :
    ∃ t g, exec i s = .next t ∧ t.group? c.p c.gid = some g ∧ Kept c g ∧ Passed c g path ∧ ∀ x, t.byte x = c'.s.byte x := by
  rw [hg, Group.passed_open] at hb
  obtain ⟨t, ht, -, hgroup, hbyte⟩ := hr.finishes he hfit hp hgid hb
  exact ⟨t, _, ht, hgroup, kept_completed c _ _, rfl, hbyte⟩

/-- A copy in that has made its slots ready and has its operation: its object counts the sectors (R185). -/
theorem Ready.copies_in (hr : Ready c s i) (he : exec i s = Machine.issue i s body) (hfit : c'.Fits) (hp : c'.p = c.p) (hgid : c'.gid = c.gid)
    (hg : c'.g = c.g) {l : La} {op : Nat} {bar : Option Nat} {n : Nat} (hb : body c = c'.startCopyIn l op bar n) :
    ∃ t g, exec i s = .next t ∧ t.group? c.p c.gid = some g ∧ Kept c g ∧ g.count .cin = c.g.count .cin + 1 ∧ ∀ x, t.byte x = c'.s.byte x := by
  cases bar with
  | none => exact hr.copies he hfit hp hgid hg hb
  | some a =>
    have htb := Part.group?_modTb hfit.group (by rw [hg]; exact hr.noWait) (c'.P.coreOf c'.gid) a fun b => { b with sect := b.sect + n }
    obtain ⟨hlead, hsame⟩ := Ctx.Same.setP hfit htb
    obtain ⟨t, g, ht, hgroup, hkept, hcount, hbyte⟩ := hr.copies he hlead.fits (hlead.p.trans hp) (hlead.gid.trans hgid) (hsame.trans hg) hb
    exact ⟨t, g, ht, hgroup, hkept, hcount, fun x => (hbyte x).trans (hlead.byte x)⟩

theorem Ctx.room_of_lt {path : Path} (h : c.g.count path < 255) (body : Ctx → Res) : c.room path body = body c := if_neg (by omega)

theorem Ctx.barrierChecked_none {bar : Option Nat} (h : ∀ b, bar = some b → c.tbPoison b = false) (k : Unit → Res) :
    c.barrierChecked bar none k = k () := by
  have hclean : bar.any c.tbPoison = false := by
    cases bar with
    | none => rfl
    | some b => exact h b rfl
  rw [Ctx.barrierChecked, hclean]
  rfl

/-! ### `cpy` (R211) -/

/-- No copy out of the group has still to place a byte. -/
theorem outPending_false (h : ∀ e ∈ c.P.run.ops, ∀ lines data page, e.2 ≠ .copyOut c.gid false lines data page) (vline off : Nat) :
    c.P.outPending c.gid vline off = false := by
  refine List.any_eq_false.2 fun e he => ?_
  split
  next gid lines data page heq =>
    have hgid : (gid == c.gid) = false := beq_eq_false_iff_ne.2 fun hgid => h e he lines data page (hgid ▸ heq)
    rw [hgid, Bool.false_and]
    exact Bool.false_ne_true
  next => exact Bool.false_ne_true

/-- A byte of a line without a poisoned double word is forwarded clean. -/
theorem Team.forwardPoison_false {t : Team} (hlines : ∀ l ∈ t.colander, l.poison = [])
    (hcommit : ∀ k, t.commit = some k → ∀ l ∈ k.lines, l.poison = []) (vline off : Nat) : t.forwardPoison vline off = false := by
  have hmask : (t.colander.any fun l => l.vline == vline && l.maskPoison off) = false := List.any_eq_false.2 fun l hl => by
    rw [ColLine.maskPoison, hlines l hl]
    simp
  rw [Team.forwardPoison, hmask, Bool.false_or]
  split
  next l hfind =>
    rw [hlines l (List.mem_of_find?_eq_some hfind)]
    rfl
  next =>
    cases hk : t.commit with
    | none => rfl
    | some k =>
      refine List.any_eq_false.2 fun l hl => ?_
      rw [hcommit k hk l hl]
      simp

/-- What a `cpy` does once its pages have been translated. -/
def Ctx.copyInGo (l : La) (size : Nat) (xs : List CopyLane) (bar : Option Nat) (c : Ctx) (pas : List (Nat × Bool)) : Res :=
  c.room .cin fun c =>
  if xs.isEmpty then c.finish ((c.g.passed .cin).open l true [] [] 0)
  else
    let ys := xs.zip pas
    let srcs := copySources size ys
    if srcs.any fun e => c.P.outPending c.gid (e.2.1 / 128) (e.2.2.1 % 128) then .wait c.s .inFlight
    else
    let forwarded := srcs.filterMap fun e => (c.team?.bind fun t => t.forward (e.2.1 / 128) (e.2.2.1 % 128)).map fun b => (e.1, b)
    if srcs.any fun e => c.team?.any fun t => t.forwardPoison (e.2.1 / 128) (e.2.2.1 % 128) then
      .gone (c.s.consumeBy c.p c.gid 3 srcCore 0)
    else
      let c := xs.foldl (fun c x => c.readySlots x.pad size) c
      let (op, P) := c.P.fresh
      let sectors := sectorsOf (srcs.map Prod.fst)
      let P := P.setOp op (.copyIn c.gid bar [] forwarded sectors none)
      let c := c.setP (P.addReqs (c.copyReqs op ys (srcs.filter fun e => !Table.has forwarded e.1)))
      c.startCopyIn l op bar sectors.length

/-- A copy in with lanes to act on starts, in a context whose group is the same. -/
theorem Ctx.copyInGo_starts {l : La} {size : Nat} {xs : List CopyLane} {bar : Option Nat} {pas : List (Nat × Bool)} (hfit : c.Fits)
    (hroom : c.g.count .cin < 255) (hxs : xs ≠ []) (hout : ∀ vline off, c.P.outPending c.gid vline off = false)
    (hclean : ∀ vline off, (c.team?.any fun t => t.forwardPoison vline off) = false) :
    ∃ c' op n, c.Same c' ∧ Ctx.copyInGo l size xs bar c pas = c'.startCopyIn l op bar n := by
  let srcs := copySources size (xs.zip pas)
  let forwarded := srcs.filterMap fun e => (c.team?.bind fun t => t.forward (e.2.1 / 128) (e.2.2.1 % 128)).map fun b => (e.1, b)
  let c₁ := xs.foldl (fun c x => c.readySlots x.pad size) c
  have hready : c.Same c₁ := Ctx.same_foldl (fun _ h x => Ctx.same_readySlots h x.pad size) xs hfit
  let P := (c₁.P.fresh.2.setOp c₁.P.nextId (.copyIn c₁.gid bar [] forwarded (sectorsOf (srcs.map Prod.fst)) none)).addReqs
    (c₁.copyReqs c₁.P.nextId (xs.zip pas) (srcs.filter fun e => !Table.has forwarded e.1))
  have hP : P.group? c₁.gid = some c₁.g :=
    (Part.group?_addReqs ..).trans ((Part.group?_setOp ..).trans hready.1.fits.group)
  have hne : ¬xs.isEmpty = true := by simpa using hxs
  refine ⟨c₁.setP P, c₁.P.nextId, (sectorsOf (srcs.map Prod.fst)).length, hready.trans (.setP hready.1.fits hP), ?_⟩
  have hpending : (srcs.any fun e => c.P.outPending c.gid (e.2.1 / 128) (e.2.2.1 % 128)) = false :=
    List.any_eq_false.2 fun e _ => Bool.eq_false_iff.1 (hout _ _)
  have hpoison : (srcs.any fun e => c.team?.any fun t => t.forwardPoison (e.2.1 / 128) (e.2.2.1 % 128)) = false :=
    List.any_eq_false.2 fun e _ => Bool.eq_false_iff.1 (hclean _ _)
  refine (Ctx.room_of_lt hroom _).trans ((if_neg hne).trans ?_)
  exact (if_neg (Bool.eq_false_iff.1 hpending)).trans (if_neg (Bool.eq_false_iff.1 hpoison))

theorem copyIn_starts (c : Ctx) (s : State) (d a : VReg) (l : La) (r : SReg) (z : BitVec 3) (hr : Ready c s (.cpy d a l r z)) :
    let xs := c.copyLanes d a
    let items := xs.map fun x => (x.lane, x.va)
    c.copyChecks true (2 ^ (2 + z.toNat)) xs (barrierOf (c.g.sreg r)) = none → c.copyDenied true (2 ^ (2 + z.toNat)) xs = [] →
    (∀ b, barrierOf (c.g.sreg r) = some b → c.tbPoison b = false) → Maps c .read items → c.g.count .cin < 255 → ColanderClean c →
    ∃ t g, exec (.cpy d a l r z) s = .next t ∧ t.group? c.p c.gid = some g ∧ Kept c g ∧
      (xs = [] → Passed c g .cin) ∧ (xs ≠ [] → g.count .cin = c.g.count .cin + 1) ∧
      ∀ x, t.byte x = (walked c .read items).byte x := by
  intro xs items hchecks hdenied hbar hmaps hroom hclean
  obtain ⟨c', htr, hgo⟩ := Ctx.translate_passes hr.fits hr.noWait hmaps (Ctx.copyInGo l (2 ^ (2 + z.toNat)) xs (barrierOf (c.g.sreg r)))
  have he : exec (.cpy d a l r z) s = Machine.issue (.cpy d a l r z) s fun c =>
      let xs := c.copyLanes d a
      c.barrierChecked (barrierOf (c.g.sreg r)) (c.copyChecks true (2 ^ (2 + z.toNat)) xs (barrierOf (c.g.sreg r))) fun _ =>
        c.translate .read (xs.map fun x => (x.lane, x.va)) (c.copyDenied true (2 ^ (2 + z.toNat)) xs)
          (Ctx.copyInGo l (2 ^ (2 + z.toNat)) xs (barrierOf (c.g.sreg r))) := rfl
  have hbody : (c.barrierChecked (barrierOf (c.g.sreg r)) (c.copyChecks true (2 ^ (2 + z.toNat)) xs (barrierOf (c.g.sreg r))) fun _ =>
      c.translate .read items (c.copyDenied true (2 ^ (2 + z.toNat)) xs)
        (Ctx.copyInGo l (2 ^ (2 + z.toNat)) xs (barrierOf (c.g.sreg r)))) =
      Ctx.copyInGo l (2 ^ (2 + z.toNat)) xs (barrierOf (c.g.sreg r)) c' (c.places .read items) := by
    rw [hchecks, Ctx.barrierChecked_none hbar, hdenied, hgo]
  have hroom' : c'.g.count .cin < 255 := by rw [htr.g]; exact hroom
  by_cases hxs : xs = []
  · have hempty : xs.isEmpty = true := List.isEmpty_iff.2 hxs
    obtain ⟨t, g, ht, hg, hkept, hpassed, hbyte⟩ := hr.copies_none he htr.fits htr.p htr.gid htr.g
      (hbody.trans ((Ctx.room_of_lt hroom' _).trans (if_pos hempty)))
    exact ⟨t, g, ht, hg, hkept, fun _ => hpassed, fun h => absurd hxs h, fun x => (hbyte x).trans (htr.bytes x)⟩
  · obtain ⟨c₁, op, n, ⟨hlead, hsame⟩, hstart⟩ := Ctx.copyInGo_starts (l := l) (size := 2 ^ (2 + z.toNat)) (bar := barrierOf (c.g.sreg r))
      (pas := c.places .read items) htr.fits hroom' hxs
      (fun vline off => outPending_false (by rw [htr.ops, htr.gid]; exact hclean.copies) vline off) (fun vline off => by
        obtain ⟨vps, hteam⟩ := htr.team?
        rw [hteam]
        cases htm : c.team? with
        | none => rfl
        | some tm => exact Team.forwardPoison_false (t := tm.unmark vps) (hclean.lines tm htm).1 (hclean.lines tm htm).2 vline off)
    obtain ⟨t, g, ht, hg, hkept, hcount, hbyte⟩ := hr.copies_in he hlead.fits (hlead.p.trans htr.p) (hlead.gid.trans htr.gid)
      (hsame.trans htr.g) (hbody.trans hstart)
    exact ⟨t, g, ht, hg, hkept, fun h => absurd h hxs, fun _ => hcount, fun x => (hbyte x).trans ((hlead.byte x).trans (htr.bytes x))⟩

/-! ### `cpyo` (R211) -/

/-- What a `cpyo` does once its pages have been translated. -/
def Ctx.copyOutGo (l : La) (size : Nat) (xs : List CopyLane) (c : Ctx) (pas : List (Nat × Bool)) : Res :=
  c.room .cout fun c =>
  if xs.isEmpty then c.finish ((c.g.passed .cout).open l true [] [] 0)
  else
    if xs.any fun x => c.peekPoison x.pad size then .gone (c.s.consumeBy c.p c.gid 3 srcCore 0)
    else
      let targets := copyTargets size (xs.zip pas)
      let lines : Table CopyLine := targets.foldl (fun t e =>
        let k := e.1 / 128
        let old := Table.getD t k ⟨k, some (e.2.2.1 / 128, e.2.2.2.1), []⟩
        Table.set t k { old with pairs := old.pairs ++ [(e.1 % 128, e.2.2.2.2)] }) []
      let data : Table Byte := targets.foldl (fun t e => Table.set t e.2.2.2.2 ((c.peek e.2.2.2.2 1).getD 0 0)) []
      let (op, P) := c.P.fresh
      let c := c.setP (P.setOp op (.copyOut c.gid false (lines.map Prod.snd) data none))
      c.finish ((c.g.raise .cout op).open l true [] [] 0)

theorem Ctx.copyOutGo_starts {l : La} {size : Nat} {xs : List CopyLane} {pas : List (Nat × Bool)} (hfit : c.Fits)
    (hroom : c.g.count .cout < 255) (hxs : xs ≠ []) (hclean : ∀ x ∈ xs, c.peekPoison x.pad size = false) :
    ∃ c' op, c.Same c' ∧ Ctx.copyOutGo l size xs c pas = c'.finish ((c'.g.raise .cout op).open l true [] [] 0) := by
  have hne : ¬xs.isEmpty = true := by simpa using hxs
  have hpoison : (xs.any fun x => c.peekPoison x.pad size) = false := List.any_eq_false.2 fun x hx => Bool.eq_false_iff.1 (hclean x hx)
  refine ⟨_, c.P.nextId, ?_, (Ctx.room_of_lt hroom _).trans ((if_neg hne).trans (if_neg (Bool.eq_false_iff.1 hpoison)))⟩
  exact .setP hfit ((Part.group?_setOp ..).trans hfit.group)

theorem copyOut_starts (c : Ctx) (s : State) (d a : VReg) (l : La) (z : BitVec 3) (hr : Ready c s (.cpyo d a l z)) (hw : isWhisk c.gid = false) :
    let xs := c.copyLanes d a
    let items := xs.map fun x => (x.lane, x.va)
    c.copyChecks false (2 ^ (2 + z.toNat)) xs none = none → Maps c .write items → c.g.count .cout < 255 →
    (∀ x ∈ xs, c.peekPoison x.pad (2 ^ (2 + z.toNat)) = false) →
    ∃ t g, exec (.cpyo d a l z) s = .next t ∧ t.group? c.p c.gid = some g ∧ Kept c g ∧
      (xs = [] → Passed c g .cout) ∧ (xs ≠ [] → g.count .cout = c.g.count .cout + 1) ∧
      ∀ x, t.byte x = (walked c .write items).byte x := by
  intro xs items hchecks hmaps hroom hclean
  obtain ⟨c', htr, hgo⟩ := Ctx.translate_passes hr.fits hr.noWait hmaps (Ctx.copyOutGo l (2 ^ (2 + z.toNat)) xs)
  have he : exec (.cpyo d a l z) s = Machine.issue (.cpyo d a l z) s fun c => c.outside (.cpyo d a l z) fun c =>
      let xs := c.copyLanes d a
      match c.copyChecks false (2 ^ (2 + z.toNat)) xs none with
      | some e => .trap c.s e
      | none => c.translate .write (xs.map fun x => (x.lane, x.va)) [] (Ctx.copyOutGo l (2 ^ (2 + z.toNat)) xs) := rfl
  have hbody : (c.outside (.cpyo d a l z) fun c =>
      let xs := c.copyLanes d a
      match c.copyChecks false (2 ^ (2 + z.toNat)) xs none with
      | some e => .trap c.s e
      | none => c.translate .write (xs.map fun x => (x.lane, x.va)) [] (Ctx.copyOutGo l (2 ^ (2 + z.toNat)) xs)) =
      Ctx.copyOutGo l (2 ^ (2 + z.toNat)) xs c' (c.places .write items) := by
    rw [Ctx.outside_team c _ _ hw]
    dsimp only
    rw [hchecks]
    exact hgo
  have hroom' : c'.g.count .cout < 255 := by rw [htr.g]; exact hroom
  by_cases hxs : xs = []
  · have hempty : xs.isEmpty = true := List.isEmpty_iff.2 hxs
    obtain ⟨t, g, ht, hg, hkept, hpassed, hbyte⟩ := hr.copies_none he htr.fits htr.p htr.gid htr.g
      (hbody.trans ((Ctx.room_of_lt hroom' _).trans (if_pos hempty)))
    exact ⟨t, g, ht, hg, hkept, fun _ => hpassed, fun h => absurd hxs h, fun x => (hbyte x).trans (htr.bytes x)⟩
  · obtain ⟨c₁, op, ⟨hlead, hsame⟩, hstart⟩ := Ctx.copyOutGo_starts (l := l) (size := 2 ^ (2 + z.toNat)) (pas := c.places .write items)
      htr.fits hroom' hxs fun x hx => (htr.peekPoison ..).trans (hclean x hx)
    obtain ⟨t, g, ht, hg, hkept, hcount, hbyte⟩ := hr.copies he hlead.fits (hlead.p.trans htr.p) (hlead.gid.trans htr.gid)
      (hsame.trans htr.g) (hbody.trans hstart)
    exact ⟨t, g, ht, hg, hkept, fun h => absurd h hxs, fun _ => hcount, fun x => (hbyte x).trans ((hlead.byte x).trans (htr.bytes x))⟩

/-! ### `cpyt` (R213, R214) -/

theorem Ctx.descriptor_reads {addr : Nat} (haligned : addr % 64 = 0) (hslots : c.padError false 0 addr 64 0 = none)
    (hclean : c.peekPoison addr 64 = false) (body : Nat → Res) : c.descriptor addr body = body (leNat (c.peek addr 64)) := by
  rw [Ctx.descriptor, if_neg (not_not.2 haligned), hslots]
  dsimp only
  rw [hclean, if_neg Bool.false_ne_true]

theorem Ctx.tileIn_starts {l : La} {desc : TileDesc} {bar : Option Nat} (hfit : c.Fits) (haligned : desc.gaddr.toNat % desc.z = 0)
    (hreach : c.tileReach true desc = none) (hbar : c.barrierMissing bar = none) (hguards : c.tileCheck true 1 desc = none)
    (hwhole : c.barrierPoisoned bar = none) (hclean : ∀ b, bar = some b → c.tbPoison b = false) (hread : c.tileCheck true 2 desc = none)
    (hroom : c.g.count .cin < 255) : ∃ c' op n, c.Same c' ∧ c.tileIn l desc bar = c'.startCopyIn l op bar n := by
  have hchecks : firstTrap [if desc.gaddr.toNat % desc.z ≠ 0 then some ⟨0x12, accessInfo desc.gaddr.toNat 0 0⟩ else none,
      c.tileReach true desc, c.barrierMissing bar, c.tileCheck true 1 desc, c.barrierPoisoned bar, c.tileCheck true 2 desc] = none :=
    firstTrap_none (by
      simp only [List.mem_cons, List.not_mem_nil, or_false]
      rintro x (rfl | rfl | rfl | rfl | rfl | rfl)
      exacts [if_neg (not_not.2 haligned), hreach, hbar, hguards, hwhole, hread])
  let c₁ := desc.ranges.foldl (fun c r => c.readySlots r.1 r.2) c
  let all := (desc.ranges.map fun r => (List.range r.2).map fun k => r.1 + k).flatten
  let zeros : Table Byte := (all.filter fun a => desc.isPad (a - desc.saddr)).map fun a => (a, 0)
  have hready : c.Same c₁ := Ctx.same_foldl (fun _ h r => Ctx.same_readySlots h r.1 r.2) _ hfit
  refine ⟨c₁.setP (c₁.P.fresh.2.setOp c₁.P.nextId (.copyIn c₁.gid bar desc.lines zeros (sectorsOf all) none)), c₁.P.nextId, (sectorsOf all).length,
    hready.trans (.setP hready.1.fits ((Part.group?_setOp ..).trans hready.1.fits.group)), ?_⟩
  rw [Ctx.tileIn, hchecks, Ctx.barrierChecked_none hclean, Ctx.room_of_lt hroom]
  rfl

theorem Ctx.tileOut_starts {l : La} {desc : TileDesc} (hfit : c.Fits) (haligned : desc.gaddr.toNat % desc.z = 0)
    (hreach : c.tileReach false desc = none) (hroom : c.g.count .cout < 255) :
    ∃ c' op, c.Same c' ∧ c.tileOut l desc = c'.finish ((c'.g.raise .cout op).open l true [] [] 0) := by
  refine ⟨c.setP (c.P.fresh.2.setOp c.P.nextId (.copyOut c.gid true desc.lines [] none)), c.P.nextId,
    .setP hfit ((Part.group?_setOp ..).trans hfit.group), ?_⟩
  rw [Ctx.tileOut, firstTrap_two (if_neg (not_not.2 haligned)) hreach]
  dsimp only
  exact Ctx.room_of_lt hroom _

theorem barrierOf_none {x : DWord} (h : barrierOf x = none) : x.getLsbD 63 = true := by
  by_contra hbit
  rw [barrierOf, if_neg hbit] at h
  cases h

theorem tileCopies_start (c : Ctx) (s : State) (x y : SReg) (f : BitVec 2) (l : La) (hr : Ready c s (.cpyt x y f l)) (hw : isWhisk c.gid = false) :
    let addr := (c.g.sreg x).toNat % 2 ^ 20
    let n := leNat (c.peek addr 64)
    let desc := TileDesc.ofNum n
    let bar := barrierOf (c.g.sreg y)
    addr % 64 = 0 → c.padError false 0 addr 64 0 = none → c.peekPoison addr 64 = false → desc.gaddr.toNat % desc.z = 0 →
    (f = 0 → TileDesc.bad n 2 false = none → c.tileReach true desc = none → c.barrierMissing bar = none →
      c.tileCheck true 1 desc = none → c.barrierPoisoned bar = none → (∀ b, bar = some b → c.tbPoison b = false) →
      c.tileCheck true 2 desc = none → c.g.count .cin < 255 →
      ∃ t g, exec (.cpyt x y f l) s = .next t ∧ t.group? c.p c.gid = some g ∧ Kept c g ∧
        g.count .cin = c.g.count .cin + 1 ∧ ∀ a, t.byte a = s.byte a) ∧
    (f = 1 → bar = none → TileDesc.bad n 1 false = none → c.tileReach false desc = none → c.g.count .cout < 255 →
      ∃ t g, exec (.cpyt x y f l) s = .next t ∧ t.group? c.p c.gid = some g ∧ Kept c g ∧
        g.count .cout = c.g.count .cout + 1 ∧ ∀ a, t.byte a = s.byte a) := by
  intro addr n desc bar haligned hslots hclean hdesc
  have hread (body : Nat → Res) : c.descriptor (c.g.padReg x) body = body n := Ctx.descriptor_reads haligned hslots hclean body
  constructor
  · rintro rfl hbad hreach hbar hguards hwhole htb hattached hroom
    obtain ⟨c', op, k, ⟨hlead, hsame⟩, hstart⟩ := Ctx.tileIn_starts (l := l) hr.fits hdesc hreach hbar hguards hwhole htb hattached hroom
    obtain ⟨t, g, ht, hg, hkept, hcount, hbyte⟩ := hr.copies_in (c' := c') (l := l) (op := op) (bar := bar) (n := k) rfl hlead.fits hlead.p hlead.gid hsame (by
      refine (if_neg (by decide)).trans ((if_neg (by decide)).trans ((hread _).trans ?_))
      rw [show TileDesc.bad n 2 false = none from hbad]
      exact hstart)
    exact ⟨t, g, ht, hg, hkept, hcount, fun a => (hbyte a).trans ((hlead.byte a).trans (by rw [hr.state]))⟩
  · rintro rfl hbar hbad hreach hroom
    obtain ⟨c', op, ⟨hlead, hsame⟩, hstart⟩ := Ctx.tileOut_starts (l := l) hr.fits hdesc hreach hroom
    obtain ⟨t, g, ht, hg, hkept, hcount, hbyte⟩ := hr.copies (c' := c') (path := .cout) (op := op) (l := l) rfl hlead.fits hlead.p hlead.gid hsame (by
      refine (if_neg (by decide)).trans ((if_pos rfl).trans ((Ctx.outside_team c _ _ hw).trans ((if_pos (barrierOf_none hbar)).trans ((hread _).trans ?_))))
      rw [hbad]
      exact hstart)
    exact ⟨t, g, ht, hg, hkept, hcount, fun a => (hbyte a).trans ((hlead.byte a).trans (by rw [hr.state]))⟩

/-! ### The end of a `cpyv` (R216) -/

theorem Part.held_setGroup (P : Part) (gid : Nat) (g : Group) : (P.setGroup gid g).run.held = P.run.held := by
  cases h : isWhisk gid with
  | true => rw [P.setGroup_of_whisk h]; rfl
  | false => rw [P.setGroup_of_team h]; rfl

/-- An instruction that had begun before, and is done. -/
theorem issued_completes {s₁ : State} {P : Part} {g : Group} (hissuer : s.issuer = some c) (he : exec i s = Machine.issue i s body)
    (hstage : c.g.stage ≠ .fresh) (hb : body c = .done s₁) (hP : s₁.part? c.p = some P) (hg : P.group? c.gid = some g) :
    ∃ t, exec i s = .next t ∧ t.part? c.p = some (P.setGroup c.gid (g.completed (g.pc + 4))) ∧ ∀ a, t.byte a = s₁.byte a := by
  have hissued : c.firing (.done s₁) = false := by
    simp [Ctx.firing, Group.issued, hstage]
  have hset : (P.modGroup c.gid fun g => g.completed (g.pc + 4)) = P.setGroup c.gid (g.completed (g.pc + 4)) := by
    rw [Part.modGroup, hg]
  refine ⟨s₁.modGroup c.p c.gid fun g => g.completed (g.pc + 4), ?_, (State.part?_modGroup_some hP ..).trans (congrArg some hset), fun a => rfl⟩
  rw [he, Machine.issue, hissuer]
  dsimp only
  rw [Ctx.precheck, if_pos hstage, hb, Ctx.settle, hissued]
  rfl
end

theorem Part.group?_dropOp (P : Part) (op gid : Nat) : (P.dropOp op).group? gid = P.group? gid := Part.group?_of_work rfl rfl gid

theorem Part.op_dropOp (P : Part) (op : Nat) : Table.get? (P.dropOp op).run.ops op = none := (Table.get?_erase ..).trans (if_pos rfl)

/-- Where the version was read, the `cpyv` returns. -/
theorem versionEnds {c c' : Ctx} {s : State} {x y : SReg} {l : La} {op : Nat} {result : DWord} (hissuer : s.issuer = some c)
    (hw : isWhisk c.gid = false) (hstage : c.g.stage = .version op) (hsame : c.Same c') (hbody : c.versionGoOn op x l = c'.versionEnd op x l result) :
    ∃ t g P, exec (.cpyv x y l) s = .next t ∧ t.part? c.p = some P ∧ P.group? c.gid = some g ∧
      KeptBut c g x result ∧ Table.get? P.run.ops op = none ∧ P.run.held = c'.P.run.held ∧ ∀ a, t.byte a = s.byte a := by
  obtain ⟨hs, -⟩ := State.issuer_spec hissuer
  obtain ⟨hlead, hg⟩ := hsame
  have hdrop : c.Same (c'.setP (c'.P.dropOp op)) :=
    .trans ⟨hlead, hg⟩ (.setP hlead.fits ((Part.group?_dropOp ..).trans hlead.fits.group))
  let g := (({ c.g with stage := .fresh } : Group).setS x result).open l true [] ([x].map BitVec.toNat) 0
  have hdone : c'.versionEnd op x l result = .done ((c'.setP (c'.P.dropOp op)).put g) := by
    rw [Ctx.versionEnd, hg]
    exact congrArg Res.done (Ctx.put_setG ..)
  have hfits := hdrop.1.fits.part_put g
  rw [hdrop.1.p, hdrop.1.gid] at hfits
  have hgroup : ((c'.P.dropOp op).setGroup c.gid g).group? c.gid = some g :=
    Part.group?_setGroup _ _ _ _ ((Part.group?_dropOp ..).trans (hlead.gid ▸ hlead.fits.group))
  have hfresh : c.g.stage ≠ .fresh := hstage ▸ Stage.noConfusion
  obtain ⟨t, ht, hP, hbyte⟩ := issued_completes (i := .cpyv x y l) hissuer rfl hfresh
    ((Ctx.outside_team c _ _ hw).trans (by rw [hstage]; exact hbody.trans hdone)) hfits hgroup
  rw [Part.setGroup_setGroup] at hP
  refine ⟨t, g.completed (g.pc + 4), _, ht, hP, Part.group?_setGroup _ _ _ _ ((Part.group?_dropOp ..).trans (hlead.gid ▸ hlead.fits.group)), ?_,
    ?_, Part.held_setGroup .., fun a => (hbyte a).trans ((hdrop.1.byte a).trans (by rw [hs]))⟩
  · obtain ⟨hvalue, hothers, hwhole⟩ := ({ c.g with stage := .fresh } : Group).setS_written x result
    exact ⟨⟨hvalue, hothers, hwhole⟩, rfl⟩
  · rw [Part.ops_setGroup]
    exact Part.op_dropOp ..

theorem cpyvReturns : CpyvReturnsItsOutcome := by
  intro c s x y l op gid va pline obs expected writes same tm hissuer hw hstage hteam hop hwrites
  obtain ⟨hs, hP, hg, -⟩ := State.issuer_spec hissuer
  have hfit : c.Fits := ⟨hs ▸ hP, hg⟩
  cases same with
  | false =>
    have hbody : c.versionGoOn op x l = c.versionEnd op x l 1 := by
      rw [Ctx.versionGoOn, hop]
    obtain ⟨t, g, P, ht, hpart, hgroup, hkept, hops, hheld, hbyte⟩ := versionEnds (y := y) hissuer hw hstage (.refl hfit) hbody
    exact ⟨t, g, P, ht, hpart, hgroup, hkept, hops, hheld, hbyte⟩
  | true =>
    obtain ⟨rfl, hlines⟩ := hwrites rfl
    have hnone : (c.P.run.lines.any fun e => e.2.op == op) = false := by
      rw [List.all_eq_true] at hlines
      exact List.any_eq_false.2 fun e he => by simpa using hlines e he
    let word := lineBytes (va.toNat % 128) (leBytes 8 (expected + 1).toNat)
    let hashed (t : Team) : Team := { t with hash := hashLine t.hash (va.toNat % 2 ^ 56 / 128) word }
    let P := (c.P.modTeam c.tk hashed).modRun fun r => { r with held := r.held.erase pline }
    have hgroup : P.group? c.gid = some c.g :=
      (Part.group?_of_work rfl rfl _).trans ((Part.group?_modTeam c.P c.tk hashed (fun _ => rfl) _).trans hg)
    have hbody : c.versionGoOn op x l = (c.setP P).versionEnd op x l 0 := by
      rw [Ctx.versionGoOn, hop]
      exact if_neg (Bool.eq_false_iff.1 hnone)
    obtain ⟨t, g, P, ht, hpart, hgroup, hkept, hops, hheld, hbyte⟩ := versionEnds (y := y) hissuer hw hstage (.setP hfit hgroup) hbody
    exact ⟨t, g, P, ht, hpart, hgroup, hkept, hops, hheld, hbyte⟩

/-- Settles O31: each copy starts in a context of the same group, and is counted; a `cpyv` goes on from its operation. -/
theorem copyInstructions : Obligations.CopyInstructions :=
  ⟨⟨copyIn_starts, copyOut_starts, tileCopies_start⟩, cpyvReturns⟩

end Sys2Proof.Machine
end

section
/-!
PROOF. Sends and their counters (spec/14_cluster.md R289, R290, R294, R295, spec/22_fabric.md R418).
-/
namespace Sys2Proof.Machine
open Sys2Proof.Spec

section
variable {c c' : Ctx} {s : State} {i : Instr} {body : Ctx → Res}

/-! ## Sends (R289, R290, R418) -/

/-- A send that starts from a context with the group as it was. -/
theorem Ready.sends (hr : Ready c s i) (he : exec i s = Machine.issue i s body) (hsame : c.Same c') {l : La} {x : Op}
    (hb : body c = c'.startSend l x) :
    Leaves c i s fun t g => Kept c g ∧ SendStarted t c g x ∧ ∃ g', Ended c (c'.P.fresh.2.setOp c'.P.nextId x) g' t := by
  obtain ⟨hlead, hg⟩ := hsame
  obtain ⟨hnext, hsame'⟩ := Ctx.Same.setP (P := c'.P.fresh.2.setOp c'.P.nextId x) hlead.fits ((Part.group?_setOp ..).trans hlead.fits.group)
  have hdone : body c = .done ((c'.setP (c'.P.fresh.2.setOp c'.P.nextId x)).put ((c.g.raise .snd c'.P.nextId).open l true [] [] 0)) := by
    rw [hb, ← hg, ← hsame']
    rfl
  rw [Group.raise_open] at hdone
  obtain ⟨t, ht, hended, hgroup, hbyte⟩ := hr.finishes he hnext.fits (hnext.p.trans hlead.p) (hnext.gid.trans hlead.gid) hdone
  refine ⟨t, _, ht, hgroup, ⟨kept_completed c _ _, ⟨c'.P.nextId, rfl, ?_⟩, _, hended⟩,
    fun a => (hbyte a).trans ((hnext.byte a).trans ((hlead.byte a).trans (by rw [hr.state])))⟩
  exact (hended.op _).trans (Table.get?_set_same ..)

theorem sendrStarts (c : Ctx) (s : State) (d a : VReg) (l : La) (b : SReg) (z : BitVec 3) (hr : Ready c s (.sendr d a l b z))
    (hw : isWhisk c.gid = false) :
    let w := c.g.sreg b
    let size := 2 ^ (2 + z.toNat)
    c.cwordTrap w false = none → (∀ i ∈ c.g.actives, (c.g.vreg a.toNat i).toNat % 2 ^ 20 % size = 0) → c.g.count .snd < 255 →
    Leaves c (.sendr d a l b z) s fun t g => Kept c g ∧ SendStarted t c g (.send c.gid false false w
      (c.g.actives.map fun i => ((c.g.vreg a.toNat i).toNat % 2 ^ 20,
        ((List.range (size / 4)).map fun j => leBytes 4 (c.g.vreg (d.toNat + j) i).toNat).flatten)) 0 0 0 false none) := by
  intro w size hword haligned hroom
  have hfind : (c.g.actives.find? fun i => (c.g.vreg a.toNat i).toNat % 2 ^ 20 % size != 0) = none :=
    List.find?_eq_none.2 fun i hi => by simpa using haligned i hi
  obtain ⟨t, g, ht, hg, ⟨hkept, hstarted, -⟩, hbyte⟩ := hr.sends (l := l) rfl (.refl hr.fits) (by
    refine (Ctx.outside_team c _ _ hw).trans ?_
    dsimp only
    rw [firstTrap_two hword ((congrArg (Option.map _) hfind).trans rfl)]
    exact Ctx.room_of_lt hroom _)
  exact ⟨t, g, ht, hg, ⟨hkept, hstarted⟩, hbyte⟩

/-- A `sendb` whose checks pass, from the context that it has come to. -/
theorem Ready.sendb_body {x y : SReg} {f : BitVec 2} {l : La} (hr : Ready c s (.sendb x y f l)) (hw : isWhisk c.gid = false) (hf : f.toNat < 2)
    (hzero : field (c.g.sreg x) 52 12 = 0) (hword : c.cwordTrap (c.g.sreg y) (f = 1) = none) (hdst : field (c.g.sreg x) 20 20 % 32 = 0)
    (hsrc : field (c.g.sreg x) 0 20 % 32 = 0) (hpad : c.padError false 0 (field (c.g.sreg x) 0 20) (32 * (field (c.g.sreg x) 40 12 + 1)) 0 = none)
    (hroom : c.g.count .snd < 255) :
    ∃ body, exec (.sendb x y f l) s = Machine.issue (.sendb x y f l) s body ∧ body c =
      let c' := if f = 1 then c.anchored else c
      let port := bindingPort (c'.P.binding (cwordRank (c.g.sreg y)))
      c'.startSend l (.send c'.gid true (f = 1) (c.g.sreg y) [] (field (c.g.sreg x) 0 20) (field (c.g.sreg x) 20 20)
        (field (c.g.sreg x) 40 12 + 1) false
        (if (decide (f = 1)) && (c'.s.portDead port || !Config.portTrained c'.s.tick port) then some (7, field (c.g.sreg x) 20 20) else none)) := by
  refine ⟨_, rfl, (Ctx.outside_team c _ _ hw).trans ((if_neg (by omega)).trans ((if_neg (not_not.2 hzero)).trans ?_))⟩
  dsimp only
  rw [hword]
  dsimp only
  refine (if_neg (not_not.2 hdst)).trans ((if_neg (not_not.2 hsrc)).trans ?_)
  rw [hpad]
  refine (Ctx.room_of_lt hroom _).trans ?_
  rw [hr.fits.reload_anchor]

theorem cwordTrap_unbound {w : DWord} (hw : w.toNat < 2 ^ 24)
    (hbinding : (Cells.get 0 c.P.regs.spw (w.extractLsb' 20 4).toNat).getLsbD 63 = false) : c.cwordTrap w true = some ⟨2, w⟩ := by
  have hzero : field w 24 40 = 0 := by
    rw [field_eq, BitVec.extractLsb'_toNat, Nat.shiftRight_eq_div_pow, Nat.div_eq_of_lt hw, Nat.zero_mod]
  rw [Ctx.cwordTrap, if_neg (not_not.2 hzero), if_pos]
  rw [Part.binding, cwordRank, field_eq, hbinding]
  rfl

theorem sendbLocalStarts (c : Ctx) (s : State) (x y : SReg) (l : La) (hr : Ready c s (.sendb x y 0 l)) (hw : isWhisk c.gid = false) :
    let d := c.g.sreg x
    let src := (d.extractLsb' 0 20).toNat
    let dst := (d.extractLsb' 20 20).toNat
    let n := (d.extractLsb' 40 12).toNat + 1
    d.extractLsb' 52 12 = 0 → c.cwordTrap (c.g.sreg y) false = none → dst % 32 = 0 → src % 32 = 0 →
    c.padError false 0 src (32 * n) 0 = none → c.g.count .snd < 255 →
    Leaves c (.sendb x y 0 l) s fun t g => Kept c g ∧
      SendStarted t c g (.send c.gid true false (c.g.sreg y) [] src dst n false none) := by
  intro d src dst n hzero hword hdst hsrc hpad hroom
  obtain ⟨body, he, hb⟩ := hr.sendb_body hw (by decide) (field_eq_zero.2 hzero) (by exact hword) (field_eq .. ▸ hdst) (field_eq .. ▸ hsrc)
    (by rw [field_eq, field_eq]; exact hpad) hroom
  obtain ⟨t, g, ht, hg, ⟨hkept, hstarted, -⟩, hbyte⟩ := hr.sends he (.refl hr.fits) hb
  rw [field_eq, field_eq, field_eq] at hstarted
  exact ⟨t, g, ht, hg, ⟨hkept, hstarted⟩, hbyte⟩

theorem Ctx.same_anchored (h : c.Fits) : c.Same c.anchored := ⟨⟨h.anchored, rfl, rfl, fun _ => rfl⟩, rfl⟩

theorem sendbRemoteStarts (c : Ctx) (s : State) (x y : SReg) (l : La) (hr : Ready c s (.sendb x y 1 l)) (hw : isWhisk c.gid = false) :
    let d := c.g.sreg x
    let w := c.g.sreg y
    let src := (d.extractLsb' 0 20).toNat
    let dst := (d.extractLsb' 20 20).toNat
    let n := (d.extractLsb' 40 12).toNat + 1
    let binding := Cells.get 0 c.P.regs.spw (w.extractLsb' 20 4).toNat
    d.extractLsb' 52 12 = 0 →
    (w.toNat < 2 ^ 24 → binding.getLsbD 63 = false → TrapsWith c (.sendb x y 1 l) s ⟨2, w⟩) ∧
    (c.cwordTrap w true = none → dst % 32 = 0 → src % 32 = 0 → c.padError false 0 src (32 * n) 0 = none → c.g.count .snd < 255 →
      c.team?.isSome = true →
      Leaves c (.sendb x y 1 l) s fun t g => Kept c g ∧ (∃ tm', teamIn t c = some tm' ∧ tm'.anch = true) ∧
        ∃ fail, SendStarted t c g (.send c.gid true true w [] src dst n false fail) ∧
          (s.portDead (binding.extractLsb' 59 4).toNat = true → fail = some (7, dst))) := by
  intro d w src dst n binding hzero
  refine ⟨fun hlow hunbound => ?_, fun hword hdst hsrc hpad hroom hteam => ?_⟩
  · refine hr.trapsWith rfl ((Ctx.outside_team c _ _ hw).trans ((if_neg (by decide)).trans ((if_neg (not_not.2 (field_eq_zero.2 hzero))).trans ?_)))
    dsimp only
    rw [show decide ((1 : BitVec 2) = 1) = true from rfl, cwordTrap_unbound hlow hunbound]
  · obtain ⟨tm, htm⟩ := Option.isSome_iff_exists.1 hteam
    obtain ⟨body, he, hb⟩ := hr.sendb_body hw (by decide) (field_eq_zero.2 hzero) (by exact hword) (field_eq .. ▸ hdst) (field_eq .. ▸ hsrc)
      (by rw [field_eq, field_eq]; exact hpad) hroom
    dsimp only at hb
    rw [if_pos rfl] at hb
    obtain ⟨t, g, ht, hg, ⟨hkept, hstarted, g', hended⟩, hbyte⟩ := hr.sends he (Ctx.same_anchored hr.fits) hb
    have hanchored : c.anchored.P.team? c.tk = some tm.anchored := Ctx.team?_P (c := c.anchored) (Ctx.team?_anchored htm)
    let port := bindingPort (c.anchored.P.binding (cwordRank (c.g.sreg y)))
    let fail : Option (Nat × Nat) :=
      if decide ((1 : BitVec 2) = 1) && (c.anchored.s.portDead port || !Config.portTrained c.anchored.s.tick port) then some (7, dst) else none
    refine ⟨t, g, ht, hg, ⟨hkept, ⟨_, hended.teamIn hw hanchored, rfl⟩, fail, ?_, fun hdead => ?_⟩, hbyte⟩
    · rw [field_eq, field_eq, field_eq] at hstarted
      exact hstarted
    · refine if_pos ?_
      have hport : c.anchored.s.portDead (bindingPort (c.anchored.P.binding (cwordRank (c.g.sreg y)))) = true := by
        rw [bindingPort, field_eq, cwordRank, field_eq, ← hdead, ← hr.state]
        rfl
      rw [hport]
      rfl
end

/-! ## Counters (R294, R295) -/

section
variable {c : Ctx} {s : State} {i : Instr} {x y : SReg} {k : Core}

theorem Ctx.counter_passes {kind : Nat} (hn : (c.g.sreg x).toNat < 2 ^ 63) (ha : (c.g.sreg y).toNat < 2 ^ 20) (haligned : (c.g.sreg y).toNat % 8 = 0)
    (hreach : c.reach ((c.g.sreg y).toNat / 4096) = .own 1) (body : Nat → Nat → Res) :
    c.counter x y kind body = body (c.g.sreg y).toNat (c.g.sreg x).toNat := by
  have hbit : (c.g.sreg x).getLsbD 63 = false := Nat.testBit_lt_two_pow hn
  rw [Ctx.counter, hbit, if_neg Bool.false_ne_true, if_neg (by omega), if_neg (not_not.2 haligned), privateSlot_of_own hreach]
  rfl

/-- No tag that an instruction reads is poisoned (R273). -/
theorem Ready.tag_clean (hr : Ready c s i) (hk : c.P.core? (c.P.coreOf c.gid) = some k) {slot : Nat} (hslot : slot ∈ c.tagReads i) :
    (!k.cpoison.isEmpty && k.cpoison.contains slot) = false := by
  have hclean := (Bool.or_eq_false_iff.1 (Bool.or_eq_false_iff.1 hr.clean).2).2
  rw [hk, Option.any_some] at hclean
  by_contra h
  rw [Bool.not_eq_false, Bool.and_eq_true] at h
  rw [h.1, Bool.true_and] at hclean
  refine Bool.false_ne_true (hclean.symm.trans (List.any_eq_true.2 ⟨slot, ?_, h.2⟩))
  exact List.mem_append_left _ hslot

theorem peekPoison_counter (hr : Ready c s (.cwait x y)) (hk : c.P.core? (c.P.coreOf c.gid) = some k) (hclean : k.spoison = [])
    (ha : (c.g.sreg y).toNat < 2 ^ 20) (haligned : (c.g.sreg y).toNat % 8 = 0) : c.peekPoison (c.g.sreg y).toNat 8 = false := by
  have htag := hr.tag_clean hk (slot := (c.g.sreg y).toNat % 2 ^ 20 / 4096) (List.mem_singleton_self _)
  rw [Nat.mod_eq_of_lt ha] at htag
  have htouched : touched 4096 (c.g.sreg y).toNat 8 = [(c.g.sreg y).toNat / 4096] := by
    rw [touched, show ((c.g.sreg y).toNat + 8 + 4096 - 1) / 4096 - (c.g.sreg y).toNat / 4096 = 1 by omega]
    rfl
  rw [Ctx.peekPoison, Ctx.tagPoison, hk, Option.any_some, Option.any_some, htouched, hclean]
  simpa using htag

theorem counterIsSet (c : Ctx) (s : State) (x y : SReg) (k : Core) (hr : Ready c s (.cset x y)) (hn : (c.g.sreg x).toNat < 2 ^ 63)
    (ha : (c.g.sreg y).toNat < 2 ^ 20) (haligned : (c.g.sreg y).toNat % 8 = 0) (hreach : c.reach ((c.g.sreg y).toNat / 4096) = .own 1)
    (hk : c.P.core? (c.P.coreOf c.gid) = some k) :
    Leaves c (.cset x y) s fun t g => g = c.g.completed (c.g.pc + 4) ∧ ∃ k', coreIn t c = some k' ∧
      Cells.getMany 0 k'.scratch (c.g.sreg y).toNat 8 = leBytes 8 (c.g.sreg x).toNat ∧
      ∀ b, (b < (c.g.sreg y).toNat ∨ (c.g.sreg y).toNat + 8 ≤ b) → Cells.get 0 k'.scratch b = Cells.get 0 k.scratch b := by
  have hlen : (leBytes 8 (c.g.sreg x).toNat).length = 8 := leBytes_length ..
  let f (k : Core) : Core := k.poke (c.g.sreg y).toNat (leBytes 8 (c.g.sreg x).toNat)
  have hpoke : c.poke (c.g.sreg y).toNat (leBytes 8 (c.g.sreg x).toNat) = c.setP (c.P.modCore (c.P.coreOf c.gid) f) := by
    have h := Ctx.poke_own (c := c) (off := (c.g.sreg y).toNat % 4096) (bs := leBytes 8 (c.g.sreg x).toNat) (by omega) (by omega) hreach
    rwa [Nat.div_add_mod'] at h
  obtain ⟨hlead, hg⟩ := Ctx.Same.setP hr.fits ((Part.group?_modCore c.P (c.P.coreOf c.gid) f c.gid).trans hr.fits.group)
  obtain ⟨t, ht, hended, hgroup, hbyte⟩ := hr.finishes_state (c' := c.setP (c.P.modCore (c.P.coreOf c.gid) f)) rfl hlead.fits rfl rfl
    ((Ctx.counter_passes hn ha haligned hreach _).trans (by rw [hpoke]))
  rw [hg] at hgroup
  refine ⟨t, _, ht, hgroup, ⟨rfl, f k, ?_, ?_, fun b hb => Core.poke_outside (by rw [hlen]; exact hb)⟩,
    fun b => (hbyte b).trans ((hlead.byte b).trans (by rw [hr.state]))⟩
  · refine hended.coreIn.trans ((Part.core?_modCore_same ..).trans ?_)
    rw [hk, Option.map_some]
  · have h := Cells.getMany_setMany 0 k.scratch (c.g.sreg y).toNat (leBytes 8 (c.g.sreg x).toNat)
    rw [hlen] at h
    exact h

theorem counterIsAwaited (c : Ctx) (s : State) (x y : SReg) (k : Core) (hr : Ready c s (.cwait x y)) (hn : (c.g.sreg x).toNat < 2 ^ 63)
    (ha : (c.g.sreg y).toNat < 2 ^ 20) (haligned : (c.g.sreg y).toNat % 8 = 0) (hreach : c.reach ((c.g.sreg y).toNat / 4096) = .own 1)
    (hk : c.P.core? (c.P.coreOf c.gid) = some k) (hclean : k.spoison = []) :
    let v := leNat (Cells.getMany 0 k.scratch (c.g.sreg y).toNat 8)
    (2 ^ 63 ≤ v → TrapsWith c (.cwait x y) s ⟨0x25, BitVec.ofNat 64 ((c.g.sreg y).toNat + 6 * 2 ^ 24)⟩) ∧
    (v < 2 ^ 63 → (c.g.sreg x).toNat ≤ v → ∃ t, exec (.cwait x y) s = .next t ∧ Stepped c s t) ∧
    (v < (c.g.sreg x).toNat → ∃ t, exec (.cwait x y) s = .next t ∧
      t.group? c.p c.gid = some { c.g with wait := some (.counter (c.g.sreg y).toNat (c.g.sreg x).toNat) }) := by
  intro v
  have hpeek : c.peek (c.g.sreg y).toNat 8 = Cells.getMany 0 k.scratch (c.g.sreg y).toNat 8 := by
    have h := Ctx.peek_own (off := (c.g.sreg y).toNat % 4096) (len := 8) hk hreach (by omega) (by decide)
    rwa [Nat.div_add_mod'] at h
  have hbody (r : Res) (h : (if 2 ^ 63 ≤ v then Res.trap c.s (trapOf 0x25 ((c.g.sreg y).toNat + 6 * 2 ^ 24))
      else if v < (c.g.sreg x).toNat then .wait c.s (.counter (c.g.sreg y).toNat (c.g.sreg x).toNat) else .done c.s) = r) :
      (c.counter x y 0 fun a n =>
        if c.peekPoison a 8 then .gone (c.s.consumeBy c.p c.gid 3 srcCore 0)
        else
          let v := leNat (c.peek a 8)
          if 2 ^ 63 ≤ v then .trap c.s (trapOf 0x25 (a + 6 * 2 ^ 24))
          else if v < n then .wait c.s (.counter a n)
          else .done c.s) = r := by
    rw [Ctx.counter_passes hn ha haligned hreach, peekPoison_counter hr hk hclean ha haligned, if_neg Bool.false_ne_true, hpeek]
    exact h
  refine ⟨fun hfault => ?_, fun hcounting hreached => ?_, fun hshort => ?_⟩
  · exact hr.trapsWith rfl (hbody _ (if_pos hfault))
  · refine ⟨_, hr.ends_done (s₁ := c.s) (hbody _ ((if_neg (by omega)).trans (if_neg (by omega)))), by rw [Stepped, hr.state]; rfl⟩
  · obtain ⟨t, ht, -, hgt, -⟩ := hr.holds (i := .cwait x y) (s₁ := c.s) (w := .counter (c.g.sreg y).toNat (c.g.sreg x).toNat) rfl
      hr.fits.part hr.fits.group (.inl rfl) (hbody _ ((if_neg (by omega)).trans (if_pos hshort)))
    exact ⟨t, ht, hgt⟩
end

/-- Settles O36: a send starts with its operation in the partition's table; a counter is a word of a slot of the own run. -/
theorem sendsAndTheirCounters : Obligations.SendsAndTheirCounters := by
  refine ⟨sendrStarts, sendbLocalStarts, sendbRemoteStarts, fun c s x y f l hr hw hf => ?_, fun c s x y k hn ha haligned hreach hk => ?_⟩
  · refine hr.trapsWith rfl ((Ctx.outside_team c _ _ hw).trans ((if_pos hf).trans ?_))
    rw [trapOf, ← BitVec.ofNat_toNat]
    rfl
  · exact ⟨fun hr => counterIsSet c s x y k hr hn ha haligned hreach hk,
      fun hr hclean => counterIsAwaited c s x y k hr hn ha haligned hreach hk hclean⟩

end Sys2Proof.Machine
end

section
/-!
PROOF. Combiner requests leave their group (spec/15_combiner.md R306).
-/
namespace Sys2Proof.Machine
open Sys2Proof.Spec

section
variable {c c' : Ctx} {s : State} {i : Instr} {w : BitVec 2} {b : VReg} {t t' tm : Team}

theorem Ctx.objects_eq (c : Ctx) (a : VReg) : c.objects a = Spec.objects c a :=
  List.map_congr_left fun l _ => by rw [Group.vpair, dword_eq_append]

theorem whiskArg_eq (c : Ctx) (w : BitVec 2) (b : VReg) (l : Nat) : c.g.whiskArg w b l = Spec.argument c w b l := by
  rw [Group.whiskArg, Spec.argument, Group.vpair, dword_eq_append]

theorem zip_places (c : Ctx) (acc : Acc) (items : List (Nat × DWord)) :
    items.zip (c.places acc items) = items.map fun e => (e, (c.look acc (e.2.toNat % 2 ^ 56)).pa) := by
  rw [Ctx.places, ← List.map_prod_left_eq_zip]

/-- Who asks is told by the team's number. -/
theorem Part.requester_congr {P Q : Part} {gid : Nat} (h : (Q.team? (gidTeam gid)).map Team.tidx = (P.team? (gidTeam gid)).map Team.tidx) (lane : Nat) :
    Q.requester gid lane = P.requester gid lane := by
  rw [Part.requester, Part.requester]
  cases hP : P.team? (gidTeam gid) with
  | none =>
    rw [hP, Option.map_none, Option.map_eq_none_iff] at h
    rw [h]
  | some t =>
    rw [hP, Option.map_some] at h
    obtain ⟨u, hu, htidx⟩ := Option.map_eq_some_iff.1 h
    rw [hu]
    exact congrArg (fun n => BitVec.ofNat 32 (n * 1024 + gidGroup gid * 32 + lane)) htidx

/-! ## Requests that enter a partition -/

theorem Part.addWhisks_run (P : Part) (ws : List WhiskReq) :
    P.addWhisks ws = { P with run := { P.run with whisks := (P.addWhisks ws).run.whisks }, nextId := (P.addWhisks ws).nextId } := by
  induction ws generalizing P with
  | nil => rfl
  | cons w ws ih => exact ih (P.fresh.2.modRun fun r => { r with whisks := Table.set r.whisks P.nextId w })

theorem Part.whisk_addWhisks_old {P : Part} {id : Nat} (h : id < P.nextId) (ws : List WhiskReq) :
    Table.get? (P.addWhisks ws).run.whisks id = Table.get? P.run.whisks id := by
  induction ws generalizing P with
  | nil => rfl
  | cons w ws ih =>
    have hrest := ih (P := P.fresh.2.modRun fun r => { r with whisks := Table.set r.whisks P.nextId w }) (Nat.lt_succ_of_lt h)
    refine hrest.trans ((Table.get?_set ..).trans (if_neg ?_))
    omega

/-- Each request that has entered stands under a number. -/
theorem Part.whisk_addWhisks {P : Part} {ws : List WhiskReq} {w : WhiskReq} (h : w ∈ ws) :
    ∃ id, Table.get? (P.addWhisks ws).run.whisks id = some w := by
  induction ws generalizing P with
  | nil => nomatch h
  | cons x ws ih =>
    rcases List.mem_cons.1 h with rfl | h
    · exact ⟨P.nextId, (Part.whisk_addWhisks_old (P := P.fresh.2.modRun fun r => { r with whisks := Table.set r.whisks P.nextId w })
        (Nat.lt_succ_self _) ws).trans (Table.get?_set_same ..)⟩
    · exact ih (P := P.fresh.2.modRun fun r => { r with whisks := Table.set r.whisks P.nextId x }) h

theorem Part.group?_addWhisks (P : Part) (ws : List WhiskReq) (gid : Nat) : (P.addWhisks ws).group? gid = P.group? gid := by
  rw [Part.addWhisks_run]
  exact Part.group?_of_work rfl rfl gid

theorem Part.team?_addWhisks (P : Part) (ws : List WhiskReq) (tk : Nat) : (P.addWhisks ws).team? tk = P.team? tk := by
  rw [Part.addWhisks_run]
  rfl

theorem Part.whisks_setGroup (P : Part) (gid : Nat) (g : Group) : (P.setGroup gid g).run.whisks = P.run.whisks := by
  cases h : isWhisk gid with
  | true => rw [P.setGroup_of_whisk h]; rfl
  | false => rw [P.setGroup_of_team h]; rfl

/-! ## `wcall` -/

/-- Where a `wcall`'s requests stand once they have left. -/
def Ctx.calledP (c : Ctx) (d r : VReg) (w : BitVec 2) (items : List ((Nat × DWord) × (Nat × Bool))) : Part :=
  (c.P.fresh.2.setOp c.P.nextId (.call c.gid d.toNat w (items.map fun e => e.1.1) none)).addWhisks (c.callReqs c.P.nextId d r w items)

theorem Ctx.group?_calledP (hfit : c.Fits) (d r : VReg) (items : List ((Nat × DWord) × (Nat × Bool))) :
    (c.calledP d r w items).group? c.gid = some c.g :=
  (Part.group?_addWhisks ..).trans ((Part.group?_setOp ..).trans hfit.group)

/-- The context that a `wcall` leads to before its requests leave: its pages walked, its team anchored and committed. -/
structure Called (c : Ctx) (items : List (Nat × DWord)) (c' : Ctx) (tm' : Team) : Prop where
  fits : c'.Fits
  p : c'.p = c.p
  gid : c'.gid = c.gid
  g : c'.g = c.g
  team : c'.P.team? c.tk = some tm'
  anch : tm'.anch = true
  requester : ∀ lane, c'.P.requester c.gid lane = c.P.requester c.gid lane
  bytes : ∀ a, c'.s.byte a = (walked c .whisk items).byte a

theorem Translated.called {items : List (Nat × DWord)} (htr : Translated c .whisk items c') (hteam : c.team? = some tm) (hc : Committed tm)
    (hmode : c.P.mode = 0 ∨ c.P.mode = 1) (hstage : c.g.stage = .fresh) (hw : c.g.wait = none) (body : Ctx → Res) :
    ∃ c'' tm', Called c items c'' tm' ∧ (c'.reload (c'.s.anchor c'.p c'.tk)).commits body = body c'' := by
  obtain ⟨vps, hteam'⟩ := htr.team_of hteam
  obtain ⟨hcommit, hcolander, hposted⟩ := hc
  obtain ⟨c'', tm', hmade, hbody⟩ := Ctx.commits_committed (c := c'.anchored) (tm := (tm.unmark vps).anchored) htr.fits.anchored
    (Ctx.team?_anchored hteam') (by rw [Ctx.anchored_mode, htr.mode]; exact hmode) ⟨hcommit, hcolander, hposted⟩
    (show c'.g.stage ≠ .committing by rw [htr.g, hstage]; exact Stage.noConfusion) (htr.g.symm ▸ hw) body
  have htk : c''.tk = c.tk := hmade.tk.trans htr.tk
  have hteamP : c''.P.team? c.tk = some tm' := by
    rw [← htk]
    exact Ctx.team?_P hmade.team
  refine ⟨c'', tm', ?_, by rw [htr.fits.reload_anchor]; exact hbody⟩
  refine ⟨hmade.fits, hmade.p.trans htr.p, hmade.gid.trans htr.gid, ?_, hteamP, hmade.anch, fun lane => ?_,
    fun a => (hmade.byte a).trans (htr.bytes a)⟩
  · refine hmade.g.trans ?_
    rw [show c'.anchored.g = c.g from htr.g]
    exact Group.stage_fresh hstage
  · refine Part.requester_congr ?_ lane
    rw [show c''.P.team? (gidTeam c.gid) = some tm' from hteamP, show c.P.team? (gidTeam c.gid) = some tm from Ctx.team?_P hteam,
      hmade.same]
    rfl

/-- What a `wcall` does once its pages have been translated. -/
def Ctx.callGo (d : VReg) (l : La) (w : BitVec 2) (b : VReg) (items : List (Nat × DWord)) (c : Ctx) (pas : List (Nat × Bool)) : Res :=
  if !c.g.drained then .wait c.s .inFlight
  else c.room .wcl fun c =>
    (c.reload (c.s.anchor c.p c.tk)).commits fun c => c.sendCall d l w b (items.zip pas)

theorem requestsLeave (c : Ctx) (s : State) (d a : VReg) (l : La) (w : BitVec 2) (b : VReg) (tm : Team) (hr : Ready c s (.wcall d a l w b)) :
    isWhisk c.gid = false → c.team? = some tm → Committed tm → c.P.mode = 0 ∨ c.P.mode = 1 →
    Maps c .whisk (objects c a) → c.g.count .ld = 0 → c.g.count .cin = 0 → c.g.count .cout = 0 → c.g.count .wcl < 255 →
    ∃ t g P tm', exec (.wcall d a l w b) s = .next t ∧ t.group? c.p c.gid = some g ∧ Kept c g ∧
      t.part? c.p = some P ∧ P.team? c.tk = some tm' ∧ tm'.anch = true ∧
      (∀ x, t.byte x = (walked c .whisk (objects c a)).byte x) ∧
      (objects c a = [] → Passed c g .wcl) ∧
      (objects c a ≠ [] → ∃ op, g.inflight = c.g.inflight ++ [⟨op, .wcl, false⟩] ∧
        ∀ e ∈ objects c a, ∃ id r, Table.get? P.run.whisks id = some r ∧ r.op = op ∧ r.obj = e.2 ∧ r.width = w ∧
          r.arg = Spec.argument c w b e.1 ∧ r.requester = c.P.requester c.gid e.1 ∧ r.place = .travelling) := by
  intro hw hteam hc hmode hmaps hld hcin hcout hroom
  obtain ⟨c', htr, hgo⟩ := Ctx.translate_passes hr.fits hr.noWait hmaps (Ctx.callGo d l w b (objects c a))
  have he : exec (.wcall d a l w b) s = Machine.issue (.wcall d a l w b) s fun c => c.outside (.wcall d a l w b) fun c =>
      c.translate .whisk (c.objects a) [] (Ctx.callGo d l w b (c.objects a)) := rfl
  let items := (objects c a).zip (c.places .whisk (objects c a))
  obtain ⟨c'', tm', hcalled, hcommits⟩ := htr.called hteam hc hmode hr.fresh hr.noWait fun c => c.sendCall d l w b items
  have hdrained : ¬(!c'.g.drained) = true := by
    rw [htr.g, Group.drained_of_counts hld hcin hcout]
    exact Bool.false_ne_true
  have hbody : (c.outside (.wcall d a l w b) fun c => c.translate .whisk (c.objects a) [] (Ctx.callGo d l w b (c.objects a))) =
      c''.sendCall d l w b items := by
    rw [Ctx.outside_team c _ _ hw, Ctx.objects_eq, hgo]
    exact (if_neg hdrained).trans ((Ctx.room_of_lt (by rw [htr.g]; exact hroom) _).trans hcommits)
  have hitems : items = (objects c a).map fun e => (e, (c.look .whisk (e.2.toNat % 2 ^ 56)).pa) := zip_places ..
  by_cases hnone : objects c a = []
  · have hempty : items.isEmpty = true := by
      rw [hitems, hnone]
      rfl
    have hdone : c''.sendCall d l w b items = c''.finish
        { c.g with
          windows := c.g.windows ++ [⟨l.toNat, 0, true, replyRegs d w, [], 0, false, false⟩], inflight := (c.g.passed .wcl).inflight } := by
      refine (if_pos hempty).trans ?_
      rw [hcalled.g]
      rfl
    obtain ⟨t, ht, hended, hg, hbyte⟩ := hr.finishes he hcalled.fits hcalled.p hcalled.gid (hbody.trans hdone)
    exact ⟨t, _, _, _, ht, hg, kept_completed c _ _, hended, (Part.team?_setGroup_team _ hw _).trans (congrArg (Option.map _) hcalled.team), hcalled.anch,
      fun x => (hbyte x).trans (hcalled.bytes x), fun _ => rfl, fun h => absurd hnone h⟩
  · have hne : ¬items.isEmpty = true := by
      rw [hitems]
      simpa using hnone
    have hgP := Ctx.group?_calledP (w := w) hcalled.fits d b items
    obtain ⟨hlead, hsame⟩ := Ctx.Same.setP hcalled.fits hgP
    have hdone : c''.sendCall d l w b items = (c''.setP (c''.calledP d b w items)).finish
        { c.g with
          windows := c.g.windows ++ [⟨l.toNat, 0, false, replyRegs d w, [], c''.P.nextId, false, false⟩]
          inflight := c.g.inflight ++ [⟨c''.P.nextId, .wcl, false⟩] } := by
      refine (if_neg hne).trans ?_
      rw [← hcalled.g]
      rfl
    obtain ⟨t, ht, hended, hg, hbyte⟩ := hr.finishes he hlead.fits (hlead.p.trans hcalled.p) (hlead.gid.trans hcalled.gid) (hbody.trans hdone)
    have hteamP : (c''.calledP d b w items).team? c.tk = some tm' := (Part.team?_addWhisks ..).trans hcalled.team
    refine ⟨t, _, _, _, ht, hg, kept_completed c _ _, hended, (Part.team?_setGroup_team _ hw _).trans (congrArg (Option.map _) hteamP), hcalled.anch,
      fun x => (hbyte x).trans ((hlead.byte x).trans (hcalled.bytes x)), fun h => absurd h hnone, fun _ => ⟨c''.P.nextId, rfl, fun e he => ?_⟩⟩
    obtain ⟨id, hid⟩ := Part.whisk_addWhisks (P := c''.P.fresh.2.setOp c''.P.nextId (.call c''.gid d.toNat w (items.map fun e => e.1.1) none))
      (List.mem_map.2 ⟨_, hitems ▸ List.mem_map.2 ⟨e, he, rfl⟩, rfl⟩ :
        _ ∈ c''.callReqs c''.P.nextId d b w items)
    refine ⟨id, _, (congrArg (Table.get? · id) (Part.whisks_setGroup ..)).trans hid, rfl, rfl, rfl, ?_, ?_, rfl⟩
    · rw [← whiskArg_eq, ← hcalled.g]
    · rw [← hcalled.requester, ← hcalled.gid]

/-! ## `wpost` -/

theorem Team.postAll_fits {t : Team} {xs : List Posted} (h : t.colander.length + (t.posted.length + xs.length + 7) / 8 ≤ t.quota) (n : Nat) :
    t.postAll xs n = ({ t with posted := t.posted ++ xs }, n + xs.length) := by
  induction xs generalizing t n with
  | nil => rw [Team.postAll, List.append_nil, List.length_nil, Nat.add_zero]
  | cons x xs ih =>
    have hfits : ({ t with posted := t.posted ++ [x] } : Team).used ≤ t.quota := by
      rw [List.length_cons] at h
      rw [Team.used, List.length_append, List.length_singleton]
      have : (t.posted.length + 1 + 7) / 8 ≤ (t.posted.length + (xs.length + 1) + 7) / 8 := Nat.div_le_div_right (by omega)
      exact Nat.le_trans (Nat.add_le_add_left this _) h
    rw [Team.postAll, Team.post, if_pos hfits]
    dsimp only
    rw [ih (by rw [List.length_append, List.length_singleton, Nat.add_assoc t.posted.length, Nat.add_comm 1]; exact h), List.append_assoc,
      List.length_cons, Nat.add_assoc, Nat.add_comm 1]
    rfl

theorem Ctx.group?_replaceTeam (hfit : c.Fits) (hteam : c.team? = some t) (hgroups : t'.groups = t.groups) :
    (c.P.modTeam c.tk fun _ => t').group? c.gid = some c.g := by
  have hteamP : c.P.team? c.tk = some t := Ctx.team?_P hteam
  have hgroup := hfit.group
  rw [Part.group?, if_neg (Bool.eq_false_iff.1 (Ctx.not_whisk_of_team hteam))] at hgroup ⊢
  rw [show c.P.team? (gidTeam c.gid) = some t from hteamP] at hgroup
  rw [show (c.P.modTeam c.tk fun _ => t').team? (gidTeam c.gid) = some t' from
    (Part.team?_modTeam_same ..).trans (congrArg (Option.map _) hteamP), Option.bind_some, hgroups]
  exact hgroup

/-- A team's posted requests that fit the quota. -/
theorem Ctx.post_fits {xs : List Posted} (hfit : c.Fits) (hteam : c.team? = some t) (hstage : c.g.stage = .fresh)
    (hquota : t.colander.length + (t.posted.length + xs.length + 7) / 8 ≤ t.quota) (body : Ctx → Res) :
    c.post xs body = body ((c.setP (c.P.modTeam c.tk fun _ => { t with posted := t.posted ++ xs })).setG c.g) := by
  have hg := Ctx.g_setP (Ctx.group?_replaceTeam (t' := { t with posted := t.posted ++ xs }) hfit hteam rfl)
  rw [Ctx.post, hteam]
  dsimp only
  rw [hstage]
  dsimp only
  rw [Bool.false_and, if_neg Bool.false_ne_true, List.drop_zero, Team.postAll_fits hquota]
  dsimp only
  rw [if_pos (by omega), hg, Group.stage_fresh hstage]

/-- The posted request of a lane. -/
def Ctx.posting (c : Ctx) (w : BitVec 2) (b : VReg) (e : (Nat × DWord) × (Nat × Bool)) : Posted :=
  ⟨e.1.2, e.2.1 / 64 * 64, w, c.g.whiskArg w b e.1.1, c.P.requester c.gid e.1.1, c.unit, false⟩

theorem requestsArePosted (c : Ctx) (s : State) (a : VReg) (l : La) (w : BitVec 2) (b : VReg) (tm : Team) (hr : Ready c s (.wpost a l w b)) :
    isWhisk c.gid = false → c.team? = some tm → Maps c .whisk (objects c a) →
    tm.colander.length + (tm.posted.length + (objects c a).length + 7) / 8 ≤ tm.quota →
    ∃ t g tm' new, exec (.wpost a l w b) s = .next t ∧ t.group? c.p c.gid = some g ∧ Kept c g ∧ teamIn t c = some tm' ∧
      tm'.posted = tm.posted ++ new ∧
      new.map (fun x => (x.obj, x.width, x.arg, x.requester)) =
        (objects c a).map (fun e => (e.2, w, Spec.argument c w b e.1, c.P.requester c.gid e.1)) ∧
      ∀ x, t.byte x = (walked c .whisk (objects c a)).byte x := by
  intro hw hteam hmaps hquota
  obtain ⟨c', htr, hgo⟩ := Ctx.translate_passes hr.fits hr.noWait hmaps fun c' pas =>
    c'.post (((objects c a).zip pas).map (c'.posting w b)) fun c => c.doneS l []
  have he : exec (.wpost a l w b) s = Machine.issue (.wpost a l w b) s fun c => c.outside (.wpost a l w b) fun c =>
      c.translate .whisk (c.objects a) [] fun c' pas => c'.post (((c.objects a).zip pas).map (c'.posting w b)) fun c => c.doneS l [] := rfl
  obtain ⟨vps, hteam'⟩ := htr.team_of hteam
  let new := ((objects c a).zip (c.places .whisk (objects c a))).map (c'.posting w b)
  have hnew : new = (objects c a).map fun e => c'.posting w b (e, (c.look .whisk (e.2.toNat % 2 ^ 56)).pa) := by
    rw [show new = (((objects c a).zip (c.places .whisk (objects c a))).map (c'.posting w b)) from rfl, zip_places, List.map_map]
    rfl
  let tm₁ : Team := { tm.unmark vps with posted := tm.posted ++ new }
  have hstage : c'.g.stage = .fresh := by rw [htr.g, hr.fresh]
  have hpost := Ctx.post_fits (xs := new) htr.fits hteam' hstage (by rw [hnew, List.length_map]; exact hquota) fun c => c.doneS l []
  let c₂ := c'.setP (c'.P.modTeam c'.tk fun _ => tm₁)
  have hfit₂ : c₂.Fits := .setP (Ctx.group?_replaceTeam htr.fits hteam' rfl)
  have hbody : (c.outside (.wpost a l w b) fun c => c.translate .whisk (c.objects a) [] fun c' pas =>
      c'.post (((c.objects a).zip pas).map (c'.posting w b)) fun c => c.doneS l []) = (c₂.setG c'.g).finish (c.g.open l true [] [] 0) := by
    rw [Ctx.outside_team c _ _ hw, Ctx.objects_eq, hgo]
    refine hpost.trans ?_
    rw [← htr.g]
    rfl
  obtain ⟨t, ht, hended, hg, hbyte⟩ := hr.finishes he (hfit₂.setG c'.g) htr.p htr.gid hbody
  have hteamP : (c₂.setG c'.g).P.team? c.tk = some (tm₁.putGroup (gidGroup c.gid) c'.g) := by
    have hw' : isWhisk c'.gid = false := htr.gid.symm ▸ hw
    have hmod : (c'.P.modTeam c'.tk fun _ => tm₁).team? c'.tk = some tm₁ :=
      (Part.team?_modTeam_same ..).trans (congrArg (Option.map _) (Ctx.team?_P hteam'))
    have h := (Part.team?_setGroup_team (c'.P.modTeam c'.tk fun _ => tm₁) hw' c'.g).trans (congrArg (Option.map _) hmod)
    rw [htr.gid] at h
    rw [show c₂.setG c'.g = { c₂ with s := (c₂.setG c'.g).s, P := (c'.P.modTeam c'.tk fun _ => tm₁).setGroup c'.gid c'.g, g := c'.g } from rfl]
    rw [htr.gid]
    exact h
  refine ⟨t, _, _, new, ht, hg, kept_doneS c l [], hended.teamIn hw hteamP, rfl, ?_, fun x => (hbyte x).trans (htr.bytes x)⟩
  rw [hnew, List.map_map]
  refine List.map_congr_left fun e _ => ?_
  have hrequester : c'.P.requester c.gid e.1 = c.P.requester c.gid e.1 := by
    refine Part.requester_congr ?_ e.1
    have htk : c'.P.team? c.tk = some (tm.unmark vps) := by
      rw [← htr.tk]
      exact Ctx.team?_P hteam'
    rw [show c'.P.team? (gidTeam c.gid) = some (tm.unmark vps) from htk, show c.P.team? (gidTeam c.gid) = some tm from Ctx.team?_P hteam]
    rfl
  rw [Function.comp_apply, Ctx.posting, htr.g, htr.gid, hrequester, whiskArg_eq]
end

/-- Settles O37: the requests of a `wcall` stand under numbers of their own once the team has anchored and committed; those of a `wpost`
stand last in the colander. -/
theorem combinerRequestsLeave : Obligations.CombinerRequestsLeave := ⟨requestsLeave, requestsArePosted⟩

end Sys2Proof.Machine
end

section
/-!
SUPPORT. Bytes that an instruction or an event writes to memory, and the numbers that they make up (spec/00_scope.md, spec/18_choice_points.md R382).
-/
namespace Sys2Proof.Machine

/-! ## Numbers and their bytes -/

theorem getMany_add {w : Nat} (d : BitVec w) (c : Cells w) (k m n : Nat) :
    Cells.getMany d c k (m + n) = Cells.getMany d c k m ++ Cells.getMany d c (k + m) n := by
  rw [Cells.getMany, Cells.getMany, Cells.getMany, List.range_add, List.map_append, List.map_map]
  exact congrArg (_ ++ ·) (List.map_congr_left fun j _ => congrArg (Cells.get d c) (Nat.add_assoc ..).symm)

theorem leNat_append (xs ys : List Byte) : leNat (xs ++ ys) = leNat xs + 256 ^ xs.length * leNat ys := by
  induction xs with
  | nil => rw [List.nil_append, leNat, List.length_nil, Nat.pow_zero, Nat.one_mul, Nat.zero_add]
  | cons x xs ih =>
    rw [List.cons_append, leNat, leNat, ih, List.length_cons, Nat.pow_succ, Nat.mul_add, Nat.add_assoc, Nat.mul_comm (256 ^ xs.length) 256, Nat.mul_assoc]

section
variable {s t : State} {p : PartNo} {P : Part}

theorem State.num_add (s : State) (a m n : Nat) : s.num a (m + n) = s.num a m + 256 ^ m * s.num (a + m) n := by
  rw [State.num, State.bytes, getMany_add, leNat_append, getMany_length]
  rfl

theorem State.num_lt (s : State) (a n : Nat) : s.num a n < 256 ^ n := by
  have h := leNat_lt (s.bytes a n)
  rwa [State.bytes, getMany_length] at h

/-- The low bytes of a number. -/
theorem State.num_low (s : State) (a m n : Nat) : s.num a m = s.num a (m + n) % 256 ^ m := by
  rw [State.num_add, Nat.add_mul_mod_self_left, Nat.mod_eq_of_lt (s.num_lt a m)]

/-- The bytes of a number from the m-th on. -/
theorem State.num_high (s : State) (a m n : Nat) : s.num (a + m) n = s.num a (m + n) / 256 ^ m := by
  rw [State.num_add, Nat.add_mul_div_left _ _ (Nat.pow_pos (by decide)), Nat.div_eq_of_lt (s.num_lt a m), Nat.zero_add]

theorem State.num_one (s : State) (a : Nat) : s.num a 1 = (s.byte a).toNat := by
  rw [State.num, State.bytes, Cells.getMany, List.range_one, List.map_singleton, leNat, leNat, Nat.mul_zero]
  rfl

/-- One byte of a number. -/
theorem State.byte_of_num (s : State) (a : Nat) {j n : Nat} (hj : j < n) : s.byte (a + j) = BitVec.ofNat 8 (s.num a n / 256 ^ j) := by
  obtain ⟨m, rfl⟩ := Nat.exists_eq_add_of_lt hj
  refine BitVec.eq_of_toNat_eq ?_
  rw [← State.num_one, State.num_low s (a + j) 1 m, State.num_high s a j (1 + m), BitVec.toNat_ofNat]
  rw [show j + m + 1 = j + (1 + m) by omega]
  rfl

/-- A byte of an image of a number. -/
theorem getD_leBytes {n j : Nat} (x : Nat) (hj : j < n) (d : Byte) : (leBytes n x).getD j d = BitVec.ofNat 8 (x / 256 ^ j) := by
  rw [leBytes_eq_map, List.getD_eq_getElem _ _ (by simpa using hj)]
  simp only [List.getElem_map, List.getElem_range]

/-- A number is told by its bytes. -/
theorem State.num_of_bytes {a n x : Nat} (h : ∀ j < n, s.byte (a + j) = BitVec.ofNat 8 (x / 256 ^ j)) : s.num a n = x % 256 ^ n := by
  have hbytes : s.bytes a n = leBytes n x := by
    rw [leBytes_eq_map]
    exact List.map_congr_left fun j hj => h j (List.mem_range.1 hj)
  rw [State.num, hbytes, leNat_leBytes]

/-! ## Bytes stored in a line -/

theorem portDown_sameLine {a b : Nat} (h : a / 128 = b / 128) (s : State) : s.portDown a = s.portDown b := by
  have hlow : 2 ^ 49 ≤ a ↔ 2 ^ 49 ≤ b := by omega
  have hhigh : a < 2 ^ 50 ↔ b < 2 ^ 50 := by omega
  rw [State.portDown, State.portDown, decide_eq_decide.2 hlow, decide_eq_decide.2 hhigh]
  by_cases hin : 2 ^ 49 ≤ b
  · rw [show cxlPort a = cxlPort b by rw [cxlPort, cxlPort]; omega]
  · rw [decide_eq_false hin]
    simp only [Bool.false_and]

/-- Without a snapshot no line is logged. -/
theorem Part.logs_of_no_snapshot (h : P.sieve.snapshot = none) (l : Nat) : P.logs l = false := by
  rw [Part.logs, h]
  rfl

theorem State.writeLine_plain (hP : s.part? p = some P) (hsieve : P.sieve.snapshot = none) {l : Nat} (hport : s.portDown (l * 128) = false)
    (bs : Table Byte) (ps : List Nat) : s.writeLine p l bs ps = (s.storeLine l bs ps, true) := by
  rw [State.writeLine, hP]
  dsimp only
  rw [hport, if_neg Bool.false_ne_true, Part.logs_of_no_snapshot hsieve, if_neg Bool.false_ne_true]

theorem State.putLine_plain (hP : s.part? p = some P) (hsieve : P.sieve.snapshot = none) {l : Nat} (hport : s.portDown (l * 128) = false)
    (bs : Table Byte) (ps : List Nat) : s.putLine p l bs ps = s.storeLine l bs ps := by
  rw [State.putLine, State.writeLine_plain hP hsieve hport]

theorem foldl_set_lineBytes (k off : Nat) (bs : List Byte) (m : Cells 8) (a : Nat) :
    Cells.get 0 ((lineBytes off bs).foldl (fun m e => Cells.set 0 m (k + e.1) e.2) m) a =
      if k + off ≤ a then bs.getD (a - (k + off)) (Cells.get 0 m a) else Cells.get 0 m a := by
  have hfold : (lineBytes off bs).foldl (fun m e => Cells.set 0 m (k + e.1) e.2) m = Cells.setMany 0 m (k + off) bs := by
    induction bs generalizing off m with
    | nil => rfl
    | cons b bs ih =>
      have hcons : lineBytes off (b :: bs) = (off, b) :: lineBytes (off + 1) bs := by
        rw [lineBytes, lineBytes, List.length_cons, List.range_succ_eq_map, List.zip_cons_cons, List.map_cons, List.zip_map_left, List.map_map]
        refine congrArg (_ :: ·) (List.map_congr_left fun e _ => ?_)
        rw [Function.comp_apply, Prod.map_fst, Prod.map_snd, Nat.succ_eq_add_one, id, Nat.add_assoc, Nat.add_comm 1]
      rw [hcons, List.foldl_cons, ih, Cells.setMany, Nat.add_assoc]
  rw [hfold, Cells.get_setMany]

/-- The byte of an address once bytes have been written from another address on. -/
def written (s : State) (pa : Nat) (bs : List Byte) (a : Nat) : Byte := if pa ≤ a then bs.getD (a - pa) (s.byte a) else s.byte a

theorem written_inside {pa j : Nat} {bs : List Byte} (hj : j < bs.length) (d : Byte) : written s pa bs (pa + j) = bs.getD j d := by
  rw [written, if_pos (Nat.le_add_right ..), Nat.add_sub_cancel_left, List.getD_eq_getElem _ _ hj, List.getD_eq_getElem _ _ hj]

theorem written_outside {pa a : Nat} {bs : List Byte} (h : a < pa ∨ pa + bs.length ≤ a) : written s pa bs a = s.byte a := by
  rw [written]
  split
  · exact List.getD_eq_default _ _ (by omega)
  · rfl

theorem State.byte_storeLine (s : State) (l off : Nat) (bs : List Byte) (ps : List Nat) (a : Nat) :
    (s.storeLine l (lineBytes off bs) ps).byte a = written s (l * 128 + off) bs a := foldl_set_lineBytes ..

/-- A write of bytes within a line that goes through, and is not logged. -/
theorem State.writeAt_plain (hP : s.part? p = some P) (hsieve : P.sieve.snapshot = none) {pa : Nat} (hport : s.portDown pa = false)
    (bs : List Byte) : s.writeAt p pa bs = s.storeLine (pa / 128) (lineBytes (pa % 128) bs) [] :=
  State.putLine_plain hP hsieve ((portDown_sameLine (by omega) s).trans hport) ..

theorem State.byte_writeAt (hP : s.part? p = some P) (hsieve : P.sieve.snapshot = none) {pa : Nat} (hport : s.portDown pa = false)
    (bs : List Byte) (a : Nat) : (s.writeAt p pa bs).byte a = written s pa bs a := by
  rw [State.writeAt_plain hP hsieve hport, State.byte_storeLine, Nat.div_add_mod']

theorem State.part?_writeAt (hP : s.part? p = some P) (hsieve : P.sieve.snapshot = none) {pa : Nat} (hport : s.portDown pa = false)
    (bs : List Byte) (q : PartNo) : (s.writeAt p pa bs).part? q = s.part? q := by
  rw [State.writeAt_plain hP hsieve hport, State.part?_storeLine]
end

end Sys2Proof.Machine
end

section
/-!
PROOF. The whisk group's instructions (spec/15_combiner.md R307, R311 to R316).
-/
namespace Sys2Proof.Machine
open Sys2Proof.Spec

section
variable {c : Ctx} {s : State} {i : Instr} {body : Ctx → Res} {P : Part} {h : Home} {b : Batch}

/-! ## The group of a home -/

theorem Ctx.home_of_whisk (hw : isWhisk c.gid = true) (hh : Table.get? c.P.run.homes c.gid = some h) (i : Instr) (body : Home → Res) :
    c.home i body = body h := by
  rw [Ctx.home, if_pos hw, hh]

theorem Ctx.batch_of_whisk (hw : isWhisk c.gid = true) (hh : Table.get? c.P.run.homes c.gid = some h) (hb : h.batch = some b) (i : Instr)
    (body : Batch → Res) : c.batch i body = body b := by
  rw [Ctx.batch, Ctx.home_of_whisk hw hh, hb]

theorem Ctx.home_of_team (hw : isWhisk c.gid = false) (i : Instr) (body : Home → Res) : c.home i body = .trap c.s (trapOf 0x11 (wordOf i)) := by
  rw [Ctx.home, hw]
  rfl

theorem Part.group?_of_whisk {gid : Nat} (hw : isWhisk gid = true) (P : Part) : P.group? gid = (Table.get? P.run.homes gid).map Home.grp := if_pos hw

theorem Part.home_setGroup {gid : Nat} (hw : isWhisk gid = true) (P : Part) (g : Group) :
    Table.get? (P.setGroup gid g).run.homes gid = (Table.get? P.run.homes gid).map fun h => { h with grp := g } := by
  rw [P.setGroup_of_whisk hw]
  exact Table.get?_modify_same P.run.homes gid fun h => { h with grp := g }

/-! ## Answers (R307) -/

theorem Part.homes_answer (P : Part) (id : Nat) (v : DWord) (reason : Option Nat) : (P.answer id v reason).run.homes = P.run.homes := by
  unfold Part.answer
  split
  · rfl
  · split
    · split <;> rfl
    · rfl

theorem Part.whisk_answer_ne {id k : Nat} (hne : k ≠ id) (P : Part) (v : DWord) (reason : Option Nat) :
    Table.get? (P.answer id v reason).run.whisks k = Table.get? P.run.whisks k := by
  have herase : Table.get? (Table.erase P.run.whisks id) k = Table.get? P.run.whisks k := (Table.get?_erase ..).trans (if_neg hne.symm)
  unfold Part.answer
  split
  · rfl
  · split
    · split
      · exact herase
      · exact herase
    · exact (Table.get?_set ..).trans (if_neg hne.symm)

theorem Part.whisk_answer_same {id : Nat} {w : WhiskReq} (hw : Table.get? P.run.whisks id = some w) (hop : w.op ≠ 0) (v : DWord) (reason : Option Nat) :
    Table.get? (P.answer id v reason).run.whisks id = some { w with place := .answered v (reason.map (whiskTrap w.obj)) } := by
  rw [Part.answer, hw]
  dsimp only
  rw [if_neg hop]
  exact Table.get?_set_same ..

theorem Part.homes_answers {α : Type} (id : α → Nat) (v : α → DWord) (reason : Option Nat) (xs : List α) (P : Part) :
    (xs.foldl (fun P e => P.answer (id e) (v e) reason) P).run.homes = P.run.homes := by
  induction xs generalizing P with
  | nil => rfl
  | cons x xs ih => exact (ih _).trans (P.homes_answer ..)

/-- A request that is not among those answered stays as it is. -/
theorem Part.whisk_answers_other {α : Type} {id : α → Nat} {v : α → DWord} {reason : Option Nat} {xs : List α} {k : Nat} (h : ∀ x ∈ xs, id x ≠ k) (P : Part) :
    Table.get? (xs.foldl (fun P e => P.answer (id e) (v e) reason) P).run.whisks k = Table.get? P.run.whisks k := by
  induction xs generalizing P with
  | nil => rfl
  | cons x xs ih =>
    exact (ih (fun y hy => h y (List.mem_cons_of_mem _ hy)) _).trans (P.whisk_answer_ne (h x List.mem_cons_self).symm ..)

/-- Of requests with numbers of their own, each has its own answer. -/
theorem Part.whisk_answers {α : Type} {id : α → Nat} {v : α → DWord} {reason : Option Nat} {xs : List α} (hnodup : (xs.map id).Nodup) {x : α}
    (hx : x ∈ xs) {P : Part} {w : WhiskReq} (hw : Table.get? P.run.whisks (id x) = some w) (hop : w.op ≠ 0) :
    Table.get? (xs.foldl (fun P e => P.answer (id e) (v e) reason) P).run.whisks (id x) =
      some { w with place := .answered (v x) (reason.map (whiskTrap w.obj)) } := by
  induction xs generalizing P with
  | nil => nomatch hx
  | cons y xs ih =>
    obtain ⟨hy, hrest⟩ := List.nodup_cons.1 hnodup
    rcases List.mem_cons.1 hx with rfl | hx
    · exact (Part.whisk_answers_other (xs := xs) (fun z hz h => hy (by rw [← h]; exact List.mem_map_of_mem hz)) _).trans (Part.whisk_answer_same hw hop (v x) reason)
    · refine ih hrest hx ((Part.whisk_answer_ne (fun h => hy ?_) ..).trans hw)
      rw [← h]
      exact List.mem_map_of_mem hx

/-- Requests that have one answer in common. -/
theorem Part.whisk_answers_common {v : DWord} {reason : Option Nat} {ids : List Nat} {k : Nat} (hk : k ∈ ids) {P : Part} {w : WhiskReq}
    (hw : Table.get? P.run.whisks k = some w) (hop : w.op ≠ 0) :
    Table.get? (ids.foldl (fun P e => P.answer e v reason) P).run.whisks k = some { w with place := .answered v (reason.map (whiskTrap w.obj)) } := by
  induction ids generalizing P w with
  | nil => nomatch hk
  | cons y ids ih =>
    by_cases hin : k ∈ ids
    · by_cases hky : k = y
      · subst hky
        exact ih hin (w := { w with place := .answered v (reason.map (whiskTrap w.obj)) }) (Part.whisk_answer_same hw hop v reason) hop
      · exact ih hin ((Part.whisk_answer_ne hky P v reason).trans hw) hop
    · obtain rfl : k = y := (List.mem_cons.1 hk).resolve_right hin
      exact (Part.whisk_answers_other (xs := ids) (id := fun n => n) (v := fun _ => v) (fun x hx h => hin (by rw [← h]; exact hx)) _).trans (Part.whisk_answer_same hw hop v reason)

/-! ## A batch whose requests are answered, and that is closed (R314) -/

/-- What a closed batch leaves: its home, and the answers that its requests have. -/
theorem Ready.closes (hr : Ready c s i) (he : exec i s = Machine.issue i s body) (hw : isWhisk c.gid = true)
    (hh : Table.get? c.P.run.homes c.gid = some h) {s₁ : State} (hP : s₁.part? c.p = some c.P) {F : Part → Part}
    (hhomes : (F c.P).run.homes = c.P.run.homes) (hb : body c = .done (s₁.modPart c.p fun P => (F P).closeHome c.gid)) :
    ∃ t g h', exec i s = .next t ∧ t.group? c.p c.gid = some g ∧ g = c.g.completed (c.g.pc + 4) ∧ homeIn t c = some h' ∧ h'.batch = none ∧
      (∀ id w, Table.get? (F c.P).run.whisks id = some w → answerIn t c.p id = some w.place) ∧ ∀ a, t.byte a = s₁.byte a := by
  have hgrp : h.grp = c.g := by
    have hg := hr.fits.group
    rw [Part.group?_of_whisk hw, hh] at hg
    exact Option.some.inj hg
  have hhome : Table.get? ((F c.P).closeHome c.gid).run.homes c.gid = some { h with batch := none } := by
    refine (Table.get?_modify_same (F c.P).run.homes c.gid fun h => { h with batch := none }).trans ?_
    rw [hhomes, hh]
    rfl
  have hgroup : ((F c.P).closeHome c.gid).group? c.gid = some c.g := by
    rw [Part.group?_of_whisk hw, hhome]
    exact congrArg some hgrp
  obtain ⟨t, ht, hpart, hgt, hbyte⟩ := hr.completes he hb (State.part?_modPart_some hP _) hgroup
  have hin : homeIn t c = some { h with batch := none, grp := c.g.completed (c.g.pc + 4) } := by
    rw [homeIn, hpart]
    exact (Part.home_setGroup hw ..).trans (congrArg (Option.map _) hhome)
  refine ⟨t, _, _, ht, hgt, rfl, hin, rfl, fun id w hid => ?_, fun a => hbyte a⟩
  rw [answerIn, hpart]
  refine congrArg (Option.map WhiskReq.place) ((congrArg (Table.get? · id) ?_).trans hid)
  exact Part.whisks_setGroup ..

theorem mem_batchReqs {P : Part} {b : Batch} {l id : Nat} {r : WhiskReq} (h : (l, id, r) ∈ P.batchReqs b) :
    id ∈ b.reqs ∧ Table.get? P.run.whisks id = some r ∧ l < b.reqs.length := by
  obtain ⟨e, he, hmap⟩ := List.mem_filterMap.1 h
  obtain ⟨w, hw, heq⟩ := Option.map_eq_some_iff.1 hmap
  cases heq
  exact ⟨(List.of_mem_zip he).2, hw, List.mem_range.1 (List.of_mem_zip he).1⟩

theorem batchReqs_sublist (P : Part) (b : Batch) :
    ((P.batchReqs b).map fun e => e.2.1).Sublist b.reqs ∧ ((P.batchReqs b).map fun e => e.1).Sublist (List.range b.reqs.length) := by
  have hfold (zs : List (Nat × Nat)) :
      ((zs.filterMap fun e => (Table.get? P.run.whisks e.2).map fun w => (e.1, e.2, w)).map fun e => e.2.1).Sublist (zs.map Prod.snd) ∧
      ((zs.filterMap fun e => (Table.get? P.run.whisks e.2).map fun w => (e.1, e.2, w)).map fun e => e.1).Sublist (zs.map Prod.fst) := by
    induction zs with
    | nil => exact ⟨.slnil, .slnil⟩
    | cons z zs ih =>
      obtain ⟨hid, hlane⟩ := ih
      rw [List.map_cons, List.map_cons, List.filterMap_cons]
      cases Table.get? P.run.whisks z.2 with
      | none => exact ⟨hid.cons _, hlane.cons _⟩
      | some w => exact ⟨hid.cons_cons _, hlane.cons_cons _⟩
  obtain ⟨hid, hlane⟩ := hfold ((List.range b.reqs.length).zip b.reqs)
  rw [List.map_snd_zip (by simp)] at hid
  rw [List.map_fst_zip (by simp)] at hlane
  exact ⟨hid, hlane⟩

/-! ## The header (R303, R314) -/

theorem failHeader_fields (x n : Nat) (hx : x < 2 ^ 64) :
    failHeader x n false % 2 ^ 16 = x % 2 ^ 16 ∧ failHeader x n false / 2 ^ 16 % 2 ^ 16 = min (x / 2 ^ 16 % 2 ^ 16 + n) 0xFFFF ∧
      failHeader x n false / 2 ^ 32 = x / 2 ^ 32 ∧ failHeader x n false < 2 ^ 64 := by
  have hmin : min (x / 2 ^ 16 % 2 ^ 16 + n) 0xFFFF < 2 ^ 16 := by omega
  rw [failHeader]
  generalize min (x / 2 ^ 16 % 2 ^ 16 + n) 0xFFFF = f at hmin ⊢
  rw [if_neg Bool.false_ne_true]
  refine ⟨?_, ?_, ?_, ?_⟩ <;> omega

theorem failHeader_zero {x : Nat} (hx : x < 2 ^ 64) : failHeader x 0 false = x := by
  obtain ⟨hlow, hfails, hhigh, -⟩ := failHeader_fields x 0 hx
  omega

/-- The header with BNO raised. -/
def raisedHeader (x : Nat) : Nat := x / 2 ^ 16 * 2 ^ 16 + (x + 1) % 2 ^ 16

theorem raisedHeader_lt {x : Nat} (hx : x < 2 ^ 64) : raisedHeader x < 2 ^ 64 := by
  rw [raisedHeader]
  omega

/-- Bytes of a number that two numbers have in common from the k-th on. -/
theorem ofNat_div_congr {x y k j : Nat} (h : x / 256 ^ k = y / 256 ^ k) (hj : k ≤ j) : BitVec.ofNat 8 (x / 256 ^ j) = BitVec.ofNat 8 (y / 256 ^ j) := by
  obtain ⟨m, rfl⟩ := Nat.exists_eq_add_of_le hj
  rw [Nat.pow_add, ← Nat.div_div_eq_div_mul, ← Nat.div_div_eq_div_mul, h]

/-! ## `wreply` (R314) -/

theorem repliesAndCloses (c : Ctx) (s : State) (a : Operand) (h : Home) (b : Batch) (hr : Ready c s (.wreply a)) (hw : isWhisk c.gid = true)
    (hh : Table.get? c.P.run.homes c.gid = some h) (hb : h.batch = some b) (hpa : b.pa % 64 = 0) (hnodup : b.reqs.Nodup)
    (hclean : c.peekPoison windowAddr 56 = false) (hport : s.portDown b.pa = false) (hsieve : c.P.sieve.snapshot = none)
    (hcore : (c.P.core? (c.P.coreOf c.gid)).isSome = true)
    (huses : let us := [use a (if b.width = 1 then 2 else 1) 1]
      let g := { c.g with em := BitVec.ofNat 32 (2 ^ b.reqs.length - 1), mode := 0 }
      g.checkRegs c.n us = none ∧ g.poisonedUse us = false) :
    ∃ t g h', exec (.wreply a) s = .next t ∧ t.group? c.p c.gid = some g ∧ g = c.g.completed (c.g.pc + 4) ∧
      homeIn t c = some h' ∧ h'.batch = none ∧
      (∀ l id r, (l, id, r) ∈ c.P.batchReqs b → r.op ≠ 0 →
        answerIn t c.p id = some (.answered (BitVec.ofNat 64 (c.operand (b.width == 1) a l)) none)) ∧
      (∀ j < 56, t.byte (b.pa + j) = (c.peek windowAddr 56).getD j 0) ∧ t.num (b.pa + 56) 2 = (s.num (b.pa + 56) 2 + 1) % 2 ^ 16 ∧
      ∀ x, (x < b.pa ∨ b.pa + 58 ≤ x) → t.byte x = s.byte x := by
  obtain ⟨hregs, hpoison⟩ := huses
  let F (P : Part) : Part := (c.P.batchReqs b).foldl (fun P e => P.answer e.2.1 (BitVec.ofNat 64 (c.operand (b.width == 1) a e.1)) none) P
  let bytes := (c.peek windowAddr 56).take 56 ++ leBytes 8 (raisedHeader (s.num (b.pa + 56) 8))
  have hnum : s.num (b.pa + 56) 8 < 2 ^ 64 := s.num_lt (b.pa + 56) 8
  have hwrite : c.s.writeBack c.p b (c.peek windowAddr 56) 0 = s.writeAt c.p b.pa bytes := by
    rw [hr.state, State.writeBack]
    rw [failHeader_zero hnum]
    rfl
  have hbody : (c.batch (.wreply a) fun b =>
      let g := { c.g with em := BitVec.ofNat 32 (2 ^ b.reqs.length - 1), mode := 0 }
      let us := [use a (if b.width = 1 then 2 else 1) 1]
      match g.checkRegs c.n us with
      | some t => .trap c.s t
      | none =>
        if g.poisonedUse us || c.peekPoison windowAddr 56 then .gone (c.s.consumeBy c.p c.gid 3 srcCore 0)
        else
          let s := c.s.writeBack c.p b (c.peek windowAddr 56) 0
          let xs := c.P.batchReqs b
          let s := s.modPart c.p fun P =>
            (xs.foldl (fun P e => P.answer e.2.1 (BitVec.ofNat 64 (c.operand (b.width == 1) a e.1)) none) P).closeHome c.gid
          .done s) = .done ((s.writeAt c.p b.pa bytes).modPart c.p fun P => (F P).closeHome c.gid) := by
    rw [Ctx.batch_of_whisk hw hh hb]
    dsimp only
    rw [hregs]
    dsimp only
    rw [hpoison, hclean, Bool.or_false, if_neg Bool.false_ne_true, hwrite]
  have hpart : (s.writeAt c.p b.pa bytes).part? c.p = some c.P := (State.part?_writeAt hr.part hsieve hport ..).trans hr.part
  obtain ⟨t, g, h', ht, hg, hdone, hhome, hclosed, hanswers, hbyte⟩ := hr.closes (i := .wreply a) rfl hw hh hpart
    (Part.homes_answers (fun e : Nat × Nat × WhiskReq => e.2.1) _ none (c.P.batchReqs b) c.P) hbody
  have hwritten (x : Nat) : t.byte x = written s b.pa bytes x := (hbyte x).trans (State.byte_writeAt hr.part hsieve hport ..)
  obtain ⟨k, hk⟩ := Option.isSome_iff_exists.1 hcore
  have hlen : (c.peek windowAddr 56).length = 56 := by
    rw [Ctx.peek, hk]
    dsimp only
    rw [show windowAddr = whiskSlot * 4096 + 0 from rfl, slotPieces_within (by decide) (by decide), List.map_singleton, List.flatten_singleton, getMany_length]
  have htake : (c.peek windowAddr 56).take 56 = c.peek windowAddr 56 := List.take_of_length_le (by rw [hlen])
  have hlenAll : bytes.length = 64 := by
    rw [List.length_append, htake, hlen, leBytes_length]
  have hheader (j : Nat) (hj : j < 8) : t.byte (b.pa + 56 + j) = BitVec.ofNat 8 (raisedHeader (s.num (b.pa + 56) 8) / 256 ^ j) := by
    rw [hwritten, Nat.add_assoc, written_inside (by omega) 0, List.getD_append_right _ _ _ _ (by rw [htake, hlen]; omega), htake, hlen,
      Nat.add_sub_cancel_left, getD_leBytes _ hj]
  refine ⟨t, g, h', ht, hg, hdone, hhome, hclosed, fun l id r hmem hop => ?_, fun j hj => ?_, ?_, fun x hx => ?_⟩
  · have hids : ((c.P.batchReqs b).map fun e => e.2.1).Nodup := (batchReqs_sublist c.P b).1.nodup hnodup
    exact hanswers id _ (Part.whisk_answers hids hmem (mem_batchReqs hmem).2.1 hop)
  · rw [hwritten, written_inside (by omega) 0, List.getD_append _ _ _ _ (by rw [htake, hlen]; exact hj), htake]
  · have h8 : t.num (b.pa + 56) 8 = raisedHeader (s.num (b.pa + 56) 8) :=
      (State.num_of_bytes hheader).trans (Nat.mod_eq_of_lt (raisedHeader_lt hnum))
    have ht2 : t.num (b.pa + 56) 2 = t.num (b.pa + 56) 8 % 2 ^ 16 := t.num_low (b.pa + 56) 2 6
    have hs2 : s.num (b.pa + 56) 2 = s.num (b.pa + 56) 8 % 2 ^ 16 := s.num_low (b.pa + 56) 2 6
    rw [ht2, hs2, h8, raisedHeader]
    omega
  · by_cases hlow : x < b.pa ∨ b.pa + 64 ≤ x
    · rw [hwritten, written_outside (by omega)]
    · obtain ⟨j, rfl⟩ : ∃ j, x = b.pa + 56 + j := ⟨x - (b.pa + 56), by omega⟩
      rw [hheader j (by omega), State.byte_of_num s (b.pa + 56) (j := j) (n := 8) (by omega)]
      refine ofNat_div_congr (k := 2) ?_ (by omega)
      rw [raisedHeader]
      omega

/-! ## `wfail` (R316) -/

theorem failsAndCloses (c : Ctx) (s : State) (k : BitVec 7) (h : Home) (b : Batch) (hr : Ready c s (.wfail k)) (hw : isWhisk c.gid = true)
    (hh : Table.get? c.P.run.homes c.gid = some h) (hb : h.batch = some b) (hpa : b.pa % 64 = 0) (hport : s.portDown b.pa = false)
    (hsieve : c.P.sieve.snapshot = none) :
    ∃ t g h', exec (.wfail k) s = .next t ∧ t.group? c.p c.gid = some g ∧ g = c.g.completed (c.g.pc + 4) ∧
      homeIn t c = some h' ∧ h'.batch = none ∧
      (∀ l id r, (l, id, r) ∈ c.P.batchReqs b → r.op ≠ 0 → answerIn t c.p id = some (.answered 0 (some
        ⟨0x23, BitVec.ofNat 64 (r.obj.toNat % 2 ^ 56 + (0x80 + k.toNat) * 2 ^ 56)⟩))) ∧
      t.num (b.pa + 58) 2 = min (s.num (b.pa + 58) 2 + 1) 0xFFFF ∧
      ∀ x, (x < b.pa + 58 ∨ b.pa + 60 ≤ x) → t.byte x = s.byte x := by
  let F (P : Part) : Part := b.reqs.foldl (fun P r => P.answer r 0 (some (0x80 + k.toNat))) P
  let x := failHeader (s.num (b.pa + 56) 8) 1 false
  have hnum : s.num (b.pa + 56) 8 < 2 ^ 64 := s.num_lt (b.pa + 56) 8
  obtain ⟨hlow, hfails, hhigh, hx⟩ := failHeader_fields (s.num (b.pa + 56) 8) 1 hnum
  have hport' : s.portDown (b.pa + 56) = false := (portDown_sameLine (by omega) s).trans hport
  have hbody : (c.batch (.wfail k) fun _ => .done (c.s.failBatch c.p c.gid (0x80 + k.toNat) false)) =
      .done ((s.writeAt c.p (b.pa + 56) (leBytes 8 x)).modPart c.p fun P => (F P).closeHome c.gid) := by
    rw [Ctx.batch_of_whisk hw hh hb, hr.state, State.failBatch, hr.part, Option.bind_some, hh]
    dsimp only
    rw [hb]
    rfl
  have hpart : (s.writeAt c.p (b.pa + 56) (leBytes 8 x)).part? c.p = some c.P := (State.part?_writeAt hr.part hsieve hport' ..).trans hr.part
  obtain ⟨t, g, h', ht, hg, hdone, hhome, hclosed, hanswers, hbyte⟩ := hr.closes (i := .wfail k) rfl hw hh hpart
    (Part.homes_answers (fun n : Nat => n) (fun _ => 0) (some (0x80 + k.toNat)) b.reqs c.P) hbody
  have hwritten (y : Nat) : t.byte y = written s (b.pa + 56) (leBytes 8 x) y := (hbyte y).trans (State.byte_writeAt hr.part hsieve hport' ..)
  have hlen : (leBytes 8 x).length = 8 := leBytes_length ..
  have hheader (j : Nat) (hj : j < 8) : t.byte (b.pa + 56 + j) = BitVec.ofNat 8 (x / 256 ^ j) := by
    rw [hwritten, written_inside (by omega) 0, getD_leBytes _ hj]
  refine ⟨t, g, h', ht, hg, hdone, hhome, hclosed, fun l id r hmem hop => ?_, ?_, fun y hy => ?_⟩
  · obtain ⟨hid, hget, -⟩ := mem_batchReqs hmem
    refine (hanswers id _ (Part.whisk_answers_common hid hget hop)).trans ?_
    rw [Option.map_some, whiskTrap, if_neg (by omega)]
  · have h8 : t.num (b.pa + 56) 8 = x := (State.num_of_bytes hheader).trans (Nat.mod_eq_of_lt hx)
    have ht2 : t.num (b.pa + 58) 2 = x / 2 ^ 16 % 2 ^ 16 := by
      rw [State.num_low t (b.pa + 58) 2 4, State.num_high t (b.pa + 56) 2 6, h8]
      rfl
    have hs2 : s.num (b.pa + 58) 2 = s.num (b.pa + 56) 8 / 2 ^ 16 % 2 ^ 16 := by
      rw [State.num_low s (b.pa + 58) 2 4, State.num_high s (b.pa + 56) 2 6]
      rfl
    rw [ht2, hs2]
    exact hfails
  · by_cases hout : y < b.pa + 56 ∨ b.pa + 64 ≤ y
    · rw [hwritten, written_outside (by omega)]
    · obtain ⟨j, rfl⟩ : ∃ j, y = b.pa + 56 + j := ⟨y - (b.pa + 56), by omega⟩
      rw [hheader j (by omega), State.byte_of_num s (b.pa + 56) (j := j) (n := 8) (by omega)]
      by_cases hj : j < 2
      · have hbyte (z : Nat) : BitVec.ofNat 8 (z / 256 ^ j) = BitVec.ofNat 8 (z % 2 ^ 16 / 256 ^ j) := by
          obtain rfl | rfl : j = 0 ∨ j = 1 := by omega
          · exact BitVec.eq_of_toNat_eq (by rw [BitVec.toNat_ofNat, BitVec.toNat_ofNat]; omega)
          · exact BitVec.eq_of_toNat_eq (by rw [BitVec.toNat_ofNat, BitVec.toNat_ofNat]; omega)
        rw [hbyte x, hbyte (s.num (b.pa + 56) 8), hlow]
      · exact ofNat_div_congr (k := 4) hhigh (by omega)
end

/-! ## `wtake` (R311, R312) -/

/-- A value written in a lane of its own. -/
theorem Group.vreg_writeV_mem {g : Group} {r l : Nat} {vals : List (Nat × Word)} {x : Word} (hnodup : (vals.map Prod.fst).Nodup)
    (hlanes : ∀ i ∈ vals.map Prod.fst, i < 32) (h : (l, x) ∈ vals) : (g.writeV r vals).vreg r l = x := by
  have hvals : vals = (vals.map Prod.fst).map fun i => (i, (Table.get? vals i).getD 0) := by
    rw [List.map_map]
    refine (List.map_id vals).symm.trans (List.map_congr_left fun e he => ?_)
    rw [Function.comp_apply, get?_of_mem_nodup hnodup (show (e.1, e.2) ∈ vals from he)]
    rfl
  have hmem : l ∈ vals.map Prod.fst := List.mem_map.2 ⟨_, h, rfl⟩
  rw [hvals, Group.vreg_writeV _ _ _ _ _ _ (hlanes l hmem) hlanes, if_pos ⟨rfl, hmem⟩, get?_of_mem_nodup hnodup h]
  rfl

theorem Group.vreg_writeV_ne {g : Group} {r r' l : Nat} {vals : List (Nat × Word)} (hlanes : ∀ i ∈ vals.map Prod.fst, i < 32) (hl : l < 32)
    (hnodup : (vals.map Prod.fst).Nodup) (hr : r' ≠ r) : (g.writeV r vals).vreg r' l = g.vreg r' l := by
  have hvals : vals = (vals.map Prod.fst).map fun i => (i, (Table.get? vals i).getD 0) := by
    rw [List.map_map]
    refine (List.map_id vals).symm.trans (List.map_congr_left fun e he => ?_)
    rw [Function.comp_apply, get?_of_mem_nodup hnodup (show (e.1, e.2) ∈ vals from he)]
    rfl
  rw [hvals, Group.vreg_writeV _ _ _ _ _ _ hl hlanes, if_neg fun h => hr h.1]

section
variable {c : Ctx} {s : State} {i : Instr} {body : Ctx → Res}

/-- Lanes of a batch filled from its requests. -/
theorem Group.fillLanes_vreg {g : Group} {b : Batch} {xs : List (Nat × Nat × WhiskReq)} (hnodup : (xs.map fun e => e.1).Nodup)
    (hlanes : ∀ i ∈ xs.map fun e => e.1, i < 32) {l : Nat} (hl : l < 32) :
    (∀ id r, (l, id, r) ∈ xs → (g.fillLanes b xs).vreg 0 l = loWord r.arg ∧
      (g.fillLanes b xs).vreg 1 l = (if b.width = 1 then hiWord r.arg else 0) ∧ (g.fillLanes b xs).vreg 2 l = r.requester ∧
      (g.fillLanes b xs).vreg 3 l = BitVec.ofNat 32 r.entry ∧ (g.fillLanes b xs).vreg 4 l = loWord r.cop ∧
      (g.fillLanes b xs).vreg 5 l = hiWord r.cop) ∧
    ∀ r, 6 ≤ r → (g.fillLanes b xs).vreg r l = g.vreg r l := by
  have hkeys (f : WhiskReq → Word) : (xs.map fun e => (e.1, f e.2.2)).map Prod.fst = xs.map fun e => e.1 := by
    rw [List.map_map]
    rfl
  have hother (g : Group) (n : Nat) (f : WhiskReq → Word) {r : Nat} (hr : r ≠ n) : (g.writeV n (xs.map fun e => (e.1, f e.2.2))).vreg r l = g.vreg r l :=
    Group.vreg_writeV_ne (by rw [hkeys]; exact hlanes) hl (by rw [hkeys]; exact hnodup) hr
  have hsame (g : Group) (n : Nat) (f : WhiskReq → Word) {id : Nat} {r : WhiskReq} (h : (l, id, r) ∈ xs) :
      (g.writeV n (xs.map fun e => (e.1, f e.2.2))).vreg n l = f r :=
    Group.vreg_writeV_mem (by rw [hkeys]; exact hnodup) (by rw [hkeys]; exact hlanes) (List.mem_map.2 ⟨_, h, rfl⟩)
  let g₀ := g.writeV 0 (xs.map fun e => (e.1, loWord e.2.2.arg))
  let g₁ := g₀.writeV 1 (xs.map fun e => (e.1, if b.width = 1 then hiWord e.2.2.arg else 0))
  let g₂ := g₁.writeV 2 (xs.map fun e => (e.1, e.2.2.requester))
  let g₃ := g₂.writeV 3 (xs.map fun e => (e.1, BitVec.ofNat 32 e.2.2.entry))
  let g₄ := g₃.writeV 4 (xs.map fun e => (e.1, loWord e.2.2.cop))
  let g₅ := g₄.writeV 5 (xs.map fun e => (e.1, hiWord e.2.2.cop))
  have h₅ {r : Nat} (hr : r ≠ 5) : g₅.vreg r l = g₄.vreg r l := hother g₄ 5 (fun w => hiWord w.cop) hr
  have h₄ {r : Nat} (hr : r ≠ 4) : g₄.vreg r l = g₃.vreg r l := hother g₃ 4 (fun w => loWord w.cop) hr
  have h₃ {r : Nat} (hr : r ≠ 3) : g₃.vreg r l = g₂.vreg r l := hother g₂ 3 (fun w => BitVec.ofNat 32 w.entry) hr
  have h₂ {r : Nat} (hr : r ≠ 2) : g₂.vreg r l = g₁.vreg r l := hother g₁ 2 (fun w => w.requester) hr
  have h₁ {r : Nat} (hr : r ≠ 1) : g₁.vreg r l = g₀.vreg r l := hother g₀ 1 (fun w => if b.width = 1 then hiWord w.arg else 0) hr
  have h₀ {r : Nat} (hr : r ≠ 0) : g₀.vreg r l = g.vreg r l := hother g 0 (fun w => loWord w.arg) hr
  have hfilled (r : Nat) : (g.fillLanes b xs).vreg r l = g₅.vreg r l := rfl
  refine ⟨fun id r h => ⟨?_, ?_, ?_, ?_, ?_, ?_⟩, fun r hr => ?_⟩
  · rw [hfilled, h₅ (by decide), h₄ (by decide), h₃ (by decide), h₂ (by decide), h₁ (by decide)]
    exact hsame g 0 (fun w => loWord w.arg) h
  · rw [hfilled, h₅ (by decide), h₄ (by decide), h₃ (by decide), h₂ (by decide)]
    exact hsame g₀ 1 (fun w => if b.width = 1 then hiWord w.arg else 0) h
  · rw [hfilled, h₅ (by decide), h₄ (by decide), h₃ (by decide)]
    exact hsame g₁ 2 (fun w => w.requester) h
  · rw [hfilled, h₅ (by decide), h₄ (by decide)]
    exact hsame g₂ 3 (fun w => BitVec.ofNat 32 w.entry) h
  · rw [hfilled, h₅ (by decide)]
    exact hsame g₃ 4 (fun w => loWord w.cop) h
  · exact hsame g₄ 5 (fun w => hiWord w.cop) h
  · rw [hfilled, h₅ (by omega), h₄ (by omega), h₃ (by omega), h₂ (by omega), h₁ (by omega), h₀ (by omega)]

/-- The checks before an instruction's own let it pass. -/
theorem Ctx.precheck_passes (hfresh : c.g.stage = .fresh) (hwindows : c.g.windows = []) (hdue : c.g.dueAt i = none)
    (hcode : c.g.poisons issueWords = false) (hwf : i.wf = true) (huses : c.checkUses i = none) (hclean : c.consumes i = false) (body : Ctx → Res) :
    c.precheck i body = body c := by
  rw [Ctx.precheck, if_neg (not_not.2 hfresh), hwindows, List.any_nil, if_neg Bool.false_ne_true, hdue]
  dsimp only
  rw [hcode, if_neg Bool.false_ne_true, hwf, Bool.not_true, if_neg Bool.false_ne_true, huses]
  dsimp only
  rw [hclean, if_neg Bool.false_ne_true, List.any_nil, Bool.and_false, if_neg Bool.false_ne_true]

/-- An instruction that has waited without effect completes with its group changed. -/
theorem Ctx.settle_waited (hfresh : c.g.stage = .fresh) {w : Wait} (hwait : c.g.wait = some w) (hw : w.before = true) (hfit : c.Fits) (g : Group) :
    (c.settle (.done (c.put g))).group? c.p c.gid = some (g.completed (g.pc + 4)) ∧ ∀ a, (c.settle (.done (c.put g))).byte a = c.s.byte a := by
  have hfiring : c.firing (.done (c.put g)) = true := by
    rw [Ctx.firing, Group.issued, hfresh, hwait]
    · simp [hw]
    · exact fun _ _ => Res.noConfusion
  have hpart : (c.put g).part? c.p = some (c.P.setGroup c.gid g) := hfit.part_put g
  have hnew : (c.P.setGroup c.gid g).group? c.gid = some g := Part.group?_setGroup _ _ _ _ hfit.group
  have hsettled : c.settle (.done (c.put g)) = ((c.put g).modGroup c.p c.gid fun g => g.completed (g.pc + 4)).fired c.p := by
    rw [Ctx.settle, if_pos hfiring]
    rfl
  rw [hsettled]
  refine ⟨?_, fun a => rfl⟩
  rw [State.group?_fired, State.group?_modGroup, State.group?_of_part hpart, hnew]
  rfl

/-- What `wtake` does in its group's lanes. -/
def wtakeBody (x : SReg) (c : Ctx) : Res := c.home (.wtake x) fun h =>
  match h.batch with
  | none => .wait c.s .take
  | some b =>
    if c.g.wait ≠ some .take then .trap c.s (trapOf 1 (wordOf (.wtake x)))
    else c.finish ((c.g.fillLanes b (c.P.batchReqs b)).setS x b.word)

theorem Group.vreg_taken (g : Group) (x : SReg) (v : DWord) (pc : DWord) (r l : Nat) : ((g.setS x v).completed pc).vreg r l = g.vreg r l := rfl

theorem Group.sreg_taken (g : Group) (x : SReg) (v : DWord) (pc : DWord) : ((g.setS x v).completed pc).sreg x = v := (g.setS_written x v).1

theorem takenBatchFillsLanes (c : Ctx) (s : State) (x : SReg) (h : Home) (b : Batch) (hissuer : s.issuer = some c) (hw : isWhisk c.gid = true)
    (hfresh : c.g.stage = .fresh) (hwindows : c.g.windows = []) (hheld : c.g.held = []) (hcode : c.g.poisons issueWords = false)
    (huses : c.checkUses (.wtake x) = none) (hclean : c.consumes (.wtake x) = false) (hwait : c.g.wait = some .take)
    (hh : Table.get? c.P.run.homes c.gid = some h) (hb : h.batch = some b) (hlen : b.reqs.length ≤ 32) :
    ∃ t g, exec (.wtake x) s = .next t ∧ t.group? c.p c.gid = some g ∧
      g.sreg x = BitVec.ofNat 64 (224 * 4096 + b.reqs.length * 2 ^ 20 + b.cls.toNat * 2 ^ 32 + b.bno.toNat * 2 ^ 48) ∧
      (∀ l id r, (l, id, r) ∈ c.P.batchReqs b → l < 32 → g.vreg 0 l = r.arg.setWidth 32 ∧
        g.vreg 1 l = (if b.width = 1 then r.arg.extractLsb' 32 32 else 0) ∧ g.vreg 2 l = r.requester ∧
        g.vreg 3 l = BitVec.ofNat 32 (r.obj.toNat % 64) ∧ g.vreg 4 l = r.cop.setWidth 32 ∧ g.vreg 5 l = r.cop.extractLsb' 32 32) ∧
      (∀ r l, 6 ≤ r → l < 32 → g.vreg r l = c.g.vreg r l) ∧ ∀ a, t.byte a = s.byte a := by
  obtain ⟨hs, hP, hgroup, -⟩ := State.issuer_spec hissuer
  have hdue : c.g.dueAt (.wtake x) = none := by
    change c.g.dueWhisk = none
    rw [Group.dueWhisk, hheld]
    rfl
  have hbody : c.precheck (.wtake x) (wtakeBody x) = .done (c.put ((c.g.fillLanes b (c.P.batchReqs b)).setS x b.word)) := by
    rw [Ctx.precheck_passes hfresh hwindows hdue hcode rfl huses hclean, wtakeBody, Ctx.home_of_whisk hw hh, hb]
    exact if_neg (not_not.2 hwait)
  obtain ⟨hgroup', hbytes⟩ := Ctx.settle_waited hfresh hwait rfl ⟨hs ▸ hP, hgroup⟩ ((c.g.fillLanes b (c.P.batchReqs b)).setS x b.word)
  have hexec : exec (.wtake x) s = .next (c.settle (.done (c.put ((c.g.fillLanes b (c.P.batchReqs b)).setS x b.word)))) := by
    have hissue : exec (.wtake x) s = Machine.issue (.wtake x) s (wtakeBody x) := rfl
    rw [hissue, Machine.issue, hissuer]
    dsimp only
    rw [hbody]
  have hlanes := (batchReqs_sublist c.P b).2
  have hfill {l : Nat} (hl : l < 32) := Group.fillLanes_vreg (g := c.g) (b := b) (hlanes.nodup List.nodup_range)
    (fun i hi => Nat.lt_of_lt_of_le (List.mem_range.1 (hlanes.subset hi)) hlen) hl
  have hv (r l : Nat) := Group.vreg_taken (c.g.fillLanes b (c.P.batchReqs b)) x b.word
    (((c.g.fillLanes b (c.P.batchReqs b)).setS x b.word).pc + 4) r l
  refine ⟨_, _, hexec, hgroup', Group.sreg_taken (c.g.fillLanes b (c.P.batchReqs b)) x b.word _, fun l id r hmem hl => ?_,
    fun r l hr hl => (hv r l).trans ((hfill hl).2 r hr), fun a => (hbytes a).trans (by rw [hs])⟩
  have hvals := (hfill hl).1 id r hmem
  rw [loWord_eq_setWidth, hiWord_eq, loWord_eq_setWidth, hiWord_eq] at hvals
  rw [hv, hv, hv, hv, hv, hv]
  exact hvals

/-- Settles O38: a batch's lanes come from its requests; `wreply` and `wfail` answer them, write the header, and close the batch. -/
theorem whiskGroupInstructions : Obligations.WhiskGroupInstructions := by
  refine ⟨takenBatchFillsLanes, fun c s x h hr hw hh hb => ?_, fun c s x h b hr hw hh hb => ?_,
    fun c s a h b hr hw hh hb hpa hnodup hclean hport hsieve hcore huses => repliesAndCloses c s a h b hr hw hh hb hpa hnodup hclean hport hsieve hcore huses,
    fun c s k h b hr hw hh hb hpa hport hsieve => failsAndCloses c s k h b hr hw hh hb hpa hport hsieve, fun c s i x a k hi hr hw => ?_,
    fun c s d a o t hr ht hty => ?_⟩
  · refine hr.waits rfl (w := .take) rfl ?_
    rw [Ctx.home_of_whisk hw hh, hb]
  · refine hr.trapsWith rfl ?_
    rw [Ctx.home_of_whisk hw hh, hb]
    dsimp only
    rw [if_pos (by rw [hr.noWait]; exact nofun)]
    rfl
  · rcases hi with rfl | rfl | rfl
    · exact hr.trapsWith rfl (Ctx.home_of_team hw _ _)
    · exact hr.trapsWith rfl (Ctx.home_of_team hw _ _)
    · exact hr.trapsWith rfl (Ctx.home_of_team hw _ _)
  · have hok : (tScalarInt c.g.ty || ((c.g.ty == 8 || c.g.ty == 9) && decide (o.toNat ≤ 2))) = true := by
      rcases hty with hty | ⟨hty, ho⟩
      · simp only [List.mem_cons, List.not_mem_nil, or_false] at hty
        rcases hty with h | h | h | h <;> rw [h] <;> rfl
      · simp only [List.mem_cons, List.not_mem_nil, or_false] at hty
        rw [decide_eq_true ho]
        rcases hty with h | h <;> rw [h] <;> rfl
    let res (l : Nat) : Nat × Nat :=
      let r := scanFold c.g.env t o.toNat (c.g.direct t.wide d.toNat l)
        ((c.g.actives.filter fun m => decide (m < l)).map (c.operand t.wide a))
      (r.1, r.2.1)
    have hlanes : scanLanes c.g.env t o.toNat (c.g.direct t.wide d.toNat) (c.g.actives.map fun i => (i, c.operand t.wide a i)) =
        c.g.actives.map fun i => (i, res i) := by
      rw [scanLanes, List.map_map]
      refine List.map_congr_left fun i _ => ?_
      rw [Function.comp_apply, List.filter_map, List.map_map]
      rfl
    have hwritten := c.g.putLanes_written t.wide d res
    refine hr.completesWith_done rfl ((c.typed_of_accepts 0xD5 _ ht hok).trans ?_) hwritten.pc hwritten
    rw [hlanes]
    rfl
end

end Sys2Proof.Machine
end

section
/-!
SUPPORT and PROOF. Crocks that a team holds, and evictions (spec/09_core_memory_instr.md R222 to R225).
-/
namespace Sys2Proof.Machine
open Sys2Proof.Spec

section
variable {c : Ctx} {s : State} {i : Instr} {tm : Team} {a : Attach} {name : DWord} {d : DirEntry} {P : Part}

/-! ## The crocks that a team holds -/

/-- A team with its attaches of one entry of the directory changed. -/
def Team.onAttach (dir : Nat) (f : Attach → Attach) (t : Team) : Team := { t with attaches := t.attaches.map fun a => if a.dir = dir then f a else a }

theorem Team.attach?_onAttach {dir : Nat} {f : Attach → Attach} (hf : ∀ a, (f a).name = a.name) (t : Team) (name : DWord) :
    (t.onAttach dir f).attach? name = (t.attach? name).map fun a => if a.dir = dir then f a else a :=
  find?_map_keeping (p := fun a : Attach => a.name == name) (f := fun a : Attach => if a.dir = dir then f a else a) (fun a => by
    by_cases h : a.dir = dir
    · simp only [if_pos h, hf]
    · simp only [if_neg h]) t.attaches

theorem Ctx.holding_held (h : Holds c tm name a) (body : Team → Attach → Res) : c.holding name body = body tm a := by
  obtain ⟨hteam, hattach, hresult⟩ := h
  rw [Ctx.holding, hteam, Option.bind_some, hattach, Option.map_some]
  exact if_neg (by rw [← Option.not_isSome, hresult]; exact Bool.false_ne_true)

theorem Ctx.holding_absent (hteam : c.team? = some tm) (h : tm.attach? name = none) (body : Team → Attach → Res) :
    c.holding name body = .trap c.s ⟨0x17, name⟩ := by
  rw [Ctx.holding, hteam, Option.bind_some, h]
  rfl

theorem Ctx.holdingWrite_held (h : Holds c tm name a) (hmode : a.mode ≠ 0) (hdrop : a.drop = false) (body : Team → Attach → Res) :
    c.holdingWrite name body = body tm a := by
  rw [Ctx.holdingWrite, Ctx.holding_held h, writing, hdrop, bne_iff_ne.2 hmode]
  rfl

theorem Ctx.holdingWrite_denied (h : Holds c tm name a) (hdeny : a.mode = 0 ∨ a.drop = true) (body : Team → Attach → Res) :
    c.holdingWrite name body = .trap c.s ⟨0x18, name⟩ := by
  rw [Ctx.holdingWrite, Ctx.holding_held h]
  refine if_pos ?_
  rcases hdeny with h | h <;> rw [h]
  · rfl
  · exact Bool.or_true _

/-! ## `ckdrop`, `ckstat` -/

/-- An attach that its team is to give up. -/
def Attach.dropped (a : Attach) : Attach := { a with drop := true }

theorem attachIsDropped (c : Ctx) (s : State) (y : SReg) (l : La) (tm : Team) (a : Attach) (hr : Ready c s (.ckdrop y l)) (h : Holds c tm (c.g.sreg y) a)
    (hmode : a.mode ≠ 0) (hdrop : a.drop = false) :
    Leaves c (.ckdrop y l) s fun t g => Kept c g ∧
      ∃ tm', teamIn t c = some tm' ∧ tm'.attach? (c.g.sreg y) = some { a with drop := true } := by
  have hcore := Ctx.not_whisk_of_team h.1
  have hg : (c.P.modTeam c.tk (Team.onAttach a.dir Attach.dropped)).group? c.gid = some c.g :=
    (Part.group?_modTeam c.P c.tk (Team.onAttach a.dir Attach.dropped) (fun _ => rfl) c.gid).trans hr.fits.group
  refine hr.leaves_doneS rfl ((Ctx.Leads.refl hr.fits).setP hg) (Ctx.holdingWrite_held h hmode hdrop _) fun t ht => ?_
  rw [Ctx.g_setP hg] at ht ⊢
  have hteam : (c.P.modTeam c.tk (Team.onAttach a.dir Attach.dropped)).team? c.tk = some (tm.onAttach a.dir Attach.dropped) := by
    rw [Part.team?_modTeam_same, Ctx.team?_P h.1]
    rfl
  refine ⟨kept_doneS .., _, ht.teamIn hcore hteam, ?_⟩
  refine (Team.attach?_onAttach (f := Attach.dropped) (fun _ => rfl) tm (c.g.sreg y)).trans ?_
  rw [h.2.1, Option.map_some, if_pos rfl]
  rfl

theorem crockIsRead (c : Ctx) (s : State) (x y : SReg) (l : La) (tm : Team) (a : Attach) (d : DirEntry) (hr : Ready c s (.ckstat x y l))
    (h : Holds c tm (c.g.sreg y) a) (hd : Table.get? c.P.run.dir a.dir = some d) :
    Leaves c (.ckstat x y l) s fun _ g => KeptBut c g x (BitVec.ofNat 64 (d.version.toNat + d.count.toNat * 2 ^ 32 +
      d.base.toNat * 2 ^ 38 + d.core.toNat * 2 ^ 46 + d.state.toNat * 2 ^ 53 + (if d.pin then 2 ^ 56 else 0))) := by
  refine hr.leaves_scalar (l := l) (rs := [x]) rfl (.refl hr.fits) rfl ((Ctx.holding_held h _).trans ?_) fun t _ => keptBut_doneS ..
  rw [hd]
  dsimp only
  rw [show bit d.pin * 2 ^ 56 = if d.pin then 2 ^ 56 else 0 by cases d.pin <;> rfl]

theorem heldCrocksTrap (c : Ctx) (s : State) (x y : SReg) (l : La) (i : Instr) (tm : Team) (hi : i = .ckseal x y l ∨ i = .ckdrop y l ∨ i = .ckstat x y l)
    (hr : Ready c s i) (hteam : c.team? = some tm) :
    (tm.attach? (c.g.sreg y) = none → TrapsWith c i s ⟨0x17, c.g.sreg y⟩) ∧
    (∀ a, Holds c tm (c.g.sreg y) a → a.mode = 0 ∨ a.drop = true → i ≠ .ckstat x y l → TrapsWith c i s ⟨0x18, c.g.sreg y⟩) := by
  rcases hi with rfl | rfl | rfl
  · exact ⟨fun h => hr.trapsWith rfl (Ctx.holding_absent hteam h _), fun a h hdeny _ => hr.trapsWith rfl (Ctx.holdingWrite_denied h hdeny _)⟩
  · exact ⟨fun h => hr.trapsWith rfl (Ctx.holding_absent hteam h _), fun a h hdeny _ => hr.trapsWith rfl (Ctx.holdingWrite_denied h hdeny _)⟩
  · exact ⟨fun h => hr.trapsWith rfl (Ctx.holding_absent hteam h _), fun a _ _ hne => absurd rfl hne⟩

/-! ## `ckseal` (R222) -/

/-- What a seal leaves of its entry, and of everything else of the partition. -/
theorem Part.sealAttach_spec (hd : Table.get? P.run.dir a.dir = some d) (core : Nat) :
    ∃ d' : DirEntry, d'.version = d.version + 1 ∧ Table.get? (P.sealAttach core a).1.run.dir a.dir = some d' ∧
      (P.sealAttach core a).1.run.teams = P.run.teams ∧ (P.sealAttach core a).1.run.homes = P.run.homes := by
  unfold Part.sealAttach
  rw [hd]
  exact ⟨_, rfl, Table.get?_set_same .., rfl, rfl⟩

theorem Part.sealAttach_dir (P : Part) (core : Nat) (a : Attach) : (P.sealAttach core a).2.dir = a.dir := by
  unfold Part.sealAttach
  cases Table.get? P.run.dir a.dir <;> rfl

/-- A context in which a seal has been made of an attach of its team. -/
def Ctx.sealedBy (c : Ctx) (core : Nat) (a : Attach) : Ctx :=
  c.setP ((c.P.sealAttach core a).1.modTeam c.tk (Team.onAttach a.dir fun _ => (c.P.sealAttach core a).2))

/-- The end of a `ckseal`, once its team has committed. -/
def Ctx.sealed (c : Ctx) (x : SReg) (l : La) (name : DWord) : Res := c.holdingWrite name fun t a =>
  let (P, a) := c.P.sealAttach t.core a
  let c := c.setP (P.modTeam c.tk (Team.onAttach a.dir fun _ => a))
  let version := ((Table.get? c.P.run.dir a.dir).map DirEntry.version).getD 0
  (c.setG (c.g.setS x (version.setWidth 64))).doneS l [x]

theorem Ctx.sealed_held (h : Holds c tm name a) (hmode : a.mode ≠ 0) (hdrop : a.drop = false)
    (hd : Table.get? (c.P.sealAttach tm.core a).1.run.dir a.dir = some d) (x : SReg) (l : La) :
    c.sealed x l name = ((c.sealedBy tm.core a).setG ((c.sealedBy tm.core a).g.setS x (d.version.setWidth 64))).doneS l [x] := by
  have hsame := c.P.sealAttach_dir tm.core a
  rw [Ctx.sealed, Ctx.holdingWrite_held h hmode hdrop, Ctx.sealedBy]
  generalize c.P.sealAttach tm.core a = sealing at hd hsame ⊢
  obtain ⟨P, a'⟩ := sealing
  dsimp only at hd hsame ⊢
  rw [hsame]
  rw [Ctx.P_setP, show (P.modTeam c.tk (Team.onAttach a.dir fun _ => a')).run.dir = P.run.dir from rfl, hd]
  rfl

/-- What a context is once a seal has been made in it. -/
theorem Ctx.leads_sealedBy (hfit : c.Fits) (hteam : c.P.team? c.tk = some tm) (hd : Table.get? c.P.run.dir a.dir = some d) :
    c.Leads (c.sealedBy tm.core a) ∧ (c.sealedBy tm.core a).g = c.g ∧
      (c.sealedBy tm.core a).P.team? c.tk = some (tm.onAttach a.dir fun _ => (c.P.sealAttach tm.core a).2) ∧
      ∃ d', d'.version = d.version + 1 ∧ Table.get? (c.sealedBy tm.core a).P.run.dir a.dir = some d' ∧
        Table.get? (c.P.sealAttach tm.core a).1.run.dir a.dir = some d' := by
  obtain ⟨d', hversion, hget, hteams, hhomes⟩ := Part.sealAttach_spec hd tm.core
  rw [Ctx.sealedBy]
  generalize c.P.sealAttach tm.core a = sealing at hget hteams hhomes ⊢
  have hg : (sealing.1.modTeam c.tk (Team.onAttach a.dir fun _ => sealing.2)).group? c.gid = some c.g :=
    ((Part.group?_modTeam _ c.tk (Team.onAttach a.dir fun _ => sealing.2) (fun _ => rfl) c.gid).trans
      (Part.group?_of_work hteams hhomes c.gid)).trans hfit.group
  refine ⟨(Ctx.Leads.refl hfit).setP hg, Ctx.g_setP hg, ?_, d', hversion, hget, hget⟩
  rw [Ctx.P_setP, Part.team?_modTeam_same, Part.team?, hteams]
  exact congrArg (Option.map _) hteam

/-- A group that has committed on its way to one written scalar. -/
theorem keptBut_doneS_of {c' : Ctx} {ws : List Window} {st : Stage} (hg : c'.g = { c.g with windows := ws, stage := st }) (x : SReg) (v : DWord)
    (l : La) (rs : List SReg) : KeptBut c ((c'.g.setS x v).doneS l rs) x v := by
  rw [hg]
  obtain ⟨hvalue, hothers, hwhole⟩ := { c.g with windows := ws, stage := st }.setS_written x v
  exact ⟨⟨hvalue, hothers, hwhole⟩, rfl⟩

theorem crockIsSealed (c : Ctx) (s : State) (x y : SReg) (l : La) (tm : Team) (a : Attach) (d : DirEntry) (hr : Ready c s (.ckseal x y l))
    (h : Holds c tm (c.g.sreg y) a) (hmode : a.mode ≠ 0) (hdrop : a.drop = false) (hd : Table.get? c.P.run.dir a.dir = some d)
    (hw : c.g.windows.all Window.done = true) (hld : c.g.count .ld = 0) (hcin : c.g.count .cin = 0) (hcout : c.g.count .cout = 0)
    (hcom : Committed tm) (hpm : c.P.mode = 0 ∨ c.P.mode = 1) :
    Leaves c (.ckseal x y l) s fun t g => KeptBut c g x ((d.version + 1).setWidth 64) ∧
      (∃ d', dirIn t c a.dir = some d' ∧ d'.version = d.version + 1) ∧ ∃ tm', teamIn t c = some tm' ∧ tm'.anch = true := by
  obtain ⟨hteam, hattach, hresult⟩ := h
  have hcore := Ctx.not_whisk_of_team hteam
  have hteam₁ : c.shut.anchored.team? = some (tm.putGroup (gidGroup c.gid) { c.g with windows := [] }).anchored :=
    Ctx.team?_anchored (by rw [Ctx.shut_team?, hteam]; rfl)
  have hpm₁ : c.shut.anchored.P.mode = 0 ∨ c.shut.anchored.P.mode = 1 := by simpa using hpm
  have hstage : c.shut.anchored.g.stage ≠ .committing := by
    rw [show c.shut.anchored.g.stage = c.g.stage from rfl, hr.fresh]
    exact Stage.noConfusion
  obtain ⟨c', tm', hmade, hcommits⟩ := Ctx.commits_committed hr.fits.shut.anchored hteam₁ hpm₁ hcom hstage hr.noWait fun c' => c'.sealed x l (c.g.sreg y)
  have hheld : Holds c' tm' (c.g.sreg y) a := ⟨hmade.team, by rw [hmade.same]; exact hattach, hresult⟩
  have hdir : c'.P.run.dir = c.P.run.dir := by
    rw [hmade.run]
    exact Part.dir_setGroup ..
  have htk : c'.tk = c.tk := hmade.tk
  have hP : c'.P.team? c'.tk = some tm' := htk ▸ hmade.teamIn
  obtain ⟨hlead, hg, hteam', d', hversion, hdir', hget⟩ := Ctx.leads_sealedBy (a := a) hmade.fits hP (hdir ▸ hd)
  have hfrom : c.Leads c' := ⟨hmade.fits, hmade.p, hmade.gid, hmade.byte⟩
  refine hr.leaves_doneS (l := l) (rs := [x]) rfl ((hfrom.trans hlead).setG ((c'.sealedBy tm'.core a).g.setS x (d'.version.setWidth 64))) ?_ fun t ht => ?_
  · refine (Ctx.holdingWrite_held ⟨hteam, hattach, hresult⟩ hmode hdrop _).trans ((Ctx.closed_shut _ hw).trans ((if_neg ?_).trans ?_))
    · rw [show c.shut.g.drained = c.g.drained from rfl, Group.drained_of_counts hld hcin hcout]
      exact Bool.false_ne_true
    · dsimp only
      rw [hr.fits.shut.reload_anchor]
      exact hcommits.trans (Ctx.sealed_held hheld hmode hdrop hget x l)
  · have hteam₂ : ((c'.sealedBy tm'.core a).setG ((c'.sealedBy tm'.core a).g.setS x (d'.version.setWidth 64))).P.team? c.tk =
        some ((tm'.onAttach a.dir fun _ => (c'.P.sealAttach tm'.core a).2).putGroup (gidGroup c.gid)
          ((c'.sealedBy tm'.core a).g.setS x (d'.version.setWidth 64))) := by
      rw [Ctx.tk, ← show c'.gid = c.gid from hmade.gid]
      exact (Part.team?_setGroup_team _ (hmade.gid ▸ hcore) _).trans (congrArg (Option.map _) hteam')
    refine ⟨?_, ⟨d', ?_, hversion⟩, _, ht.teamIn hcore hteam₂, hmade.anch⟩
    · rw [← hversion]
      exact keptBut_doneS_of (c := c) (ws := []) (st := .fresh) (hg.trans hmade.g) x _ l [x]
    · rw [ht.dirIn]
      exact (congrArg (Table.get? · a.dir) (Part.dir_setGroup ..)).trans hdir'

/-! ## `ckevict` (R224, R179) -/

theorem State.TouchedFrom.saveSlot {p : PartNo} (h : s.TouchedFrom P p) (k : Core) (slot pa : Nat) : (s.saveSlot p k slot pa).TouchedFrom P p := by
  unfold State.saveSlot
  generalize List.range 32 = js
  induction js generalizing s with
  | nil => exact h
  | cons j js ih => exact ih (h.putLine ..)

theorem State.TouchedFrom.savePoison {p : PartNo} (h : s.TouchedFrom P p) (k : Core) (slot pa : Nat) : (s.savePoison p k slot pa).TouchedFrom P p := by
  unfold State.savePoison
  generalize List.range 32 = js
  induction js generalizing s with
  | nil => exact h
  | cons j js ih =>
    rw [List.foldl_cons]
    dsimp only
    split
    · exact ih h
    · exact ih (h.putLine ..)

/-- The partition of a state in which a crock has been evicted. -/
theorem State.evict_part {p : PartNo} {k : Core} {dir : Nat} (hP : s.part? p = some P) (hd : Table.get? P.run.dir dir = some d)
    (hk : P.core? d.core.toNat = some k) :
    ∃ Q : Part, Q.run = P.run ∧ (s.evict p dir).part? p =
      some ((Q.modCore d.core.toNat fun c => c.freeSlots d.slots).setDir dir { d with state := 3, dirty := [], placed := false }) := by
  have hsaved (js : List Nat) : ((js.foldl (fun s j =>
      if d.dirty.contains j then s.saveSlot p k (d.base.toNat + j) (d.backingPa j)
      else s.savePoison p k (d.base.toNat + j) (d.backingPa j)) s).TouchedFrom P p) := by
    have h : s.TouchedFrom P p := ⟨P, hP, .refl P⟩
    clear hP
    induction js generalizing s with
    | nil => exact h
    | cons j js ih =>
      rw [List.foldl_cons]
      split
      · exact ih (h.saveSlot ..)
      · exact ih (h.savePoison ..)
  obtain ⟨Q, hQ, htouched⟩ := hsaved (List.range (d.count.toNat + 1))
  refine ⟨Q, htouched.run, ?_⟩
  rw [State.evict, hP, Option.bind_some, hd, Option.bind_some, hk]
  exact State.part?_modPart_some hQ _

/-- A pin leaves its entry with PIN as said. -/
theorem Part.dir_pinCrock (P : Part) (dir : Nat) (d : DirEntry) (pin : Bool) :
    Table.get? (P.pinCrock dir d pin).run.dir dir = some { d with pin := pin } := Table.get?_set_same ..

theorem Part.group?_setDir (P : Part) (dir : Nat) (d : DirEntry) (gid : Nat) : (P.setDir dir d).group? gid = P.group? gid :=
  Part.group?_of_work rfl rfl gid

theorem Part.group?_pinCrock (P : Part) (dir : Nat) (d : DirEntry) (pin : Bool) (gid : Nat) : (P.pinCrock dir d pin).group? gid = P.group? gid :=
  Part.group?_of_work rfl rfl gid

/-- A resident crock that is detached is evicted. -/
theorem crockIsEvicted {x y : SReg} {l : La} {dir : Nat} (hr : Ready c s (.ckevict x y 0 l)) (hcrock : c.P.crock? (c.g.sreg y) = some (dir, d))
    (hd : Table.get? c.P.run.dir dir = some d) (hheld : c.P.backingHeld d = false) (hstate : d.state = 1)
    (hk : (c.P.core? d.core.toNat).isSome = true) :
    ∃ t g, exec (.ckevict x y 0 l) s = .next t ∧ t.group? c.p c.gid = some g ∧ KeptBut c g x 0 ∧
      dirIn t c dir = some { d with state := 3, dirty := [], placed := false } := by
  obtain ⟨k, hk⟩ := Option.isSome_iff_exists.1 hk
  obtain ⟨Q, hQ, hpart⟩ := State.evict_part hr.part hd hk
  let P₁ := (Q.modCore d.core.toNat fun c => c.freeSlots d.slots).setDir dir { d with state := 3, dirty := [], placed := false }
  have hg : P₁.group? c.gid = some c.g := (Part.group?_setDir ..).trans ((Part.group?_modCore ..).trans ((Part.group?_congr hQ _).trans hr.inPart))
  have hreload := Ctx.reload_eq (c := c) hpart hg
  let c₁ : Ctx := { c with s := s.evict c.p dir, P := P₁, g := c.g }
  have hfit : c₁.Fits := ⟨hpart, hg⟩
  have hbody : (c₁.setG (c₁.g.setS x 0)).doneS l [x] = .done (c₁.put ((c.g.setS x 0).open l true [] [x.toNat] 0)) := congrArg Res.done (Ctx.put_setG ..)
  obtain ⟨t, ht, hP, hgroup, -⟩ := hr.completes rfl (P := P₁.setGroup c.gid ((c.g.setS x 0).open l true [] [x.toNat] 0)) (by
    refine Eq.trans ?_ hbody
    dsimp only
    rw [if_neg (by decide), hcrock]
    dsimp only
    rw [if_pos rfl, hheld, if_neg Bool.false_ne_true, if_pos hstate, hr.state, hreload]) (hfit.part_put _) (Part.group?_setGroup _ _ _ _ hg)
  refine ⟨t, _, ht, hgroup, keptBut_doneS c x 0 l [x], ?_⟩
  rw [Part.setGroup_setGroup] at hP
  exact (Ended.dirIn hP dir).trans (Table.get?_set_same ..)

/-- PIN is set and cleared. -/
theorem crockIsPinned {x y : SReg} {f : BitVec 2} {l : La} {dir : Nat} (hr : Ready c s (.ckevict x y f l)) (hf : f = 1 ∨ f = 2)
    (hcrock : c.P.crock? (c.g.sreg y) = some (dir, d)) :
    Leaves c (.ckevict x y f l) s fun t g => KeptBut c g x 0 ∧ dirIn t c dir = some { d with pin := f == 1 } := by
  have hg : (c.P.pinCrock dir d (f == 1)).group? c.gid = some c.g := (Part.group?_pinCrock ..).trans hr.inPart
  refine hr.leaves_scalar (l := l) (rs := [x]) rfl ((Ctx.Leads.refl hr.fits).setP hg) (Ctx.g_setP hg) ?_
    fun t ht => ⟨keptBut_doneS .., (ht.dirIn dir).trans (Part.dir_pinCrock ..)⟩
  dsimp only
  have hne : f ≠ 3 ∧ f ≠ 0 := by rcases hf with rfl | rfl <;> decide
  rw [if_neg hne.1, hcrock]
  dsimp only
  rw [if_neg hne.2]

theorem crocksAreEvictedOrPinned : CkevictEvictsOrPins := by
  intro c s x y f l hr i
  refine ⟨fun hf => hr.trapsWith rfl ?_, fun hf hnone => ?_, fun dir d hcrock hd => ⟨fun hf hheld hstate => ?_, fun hf hheld hstate hk => ?_, fun hf => ?_, fun hf => ?_⟩⟩
  · subst hf
    rfl
  · refine hr.leaves_scalar (l := l) (rs := [x]) rfl (.refl hr.fits) rfl ?_ fun t _ => keptBut_doneS ..
    dsimp only
    rw [if_neg hf, hnone]
  · subst hf
    refine hr.leaves_scalar (l := l) (rs := [x]) rfl (.refl hr.fits) rfl ?_ fun t ht => ⟨keptBut_doneS .., (ht.dirIn dir).trans hd⟩
    dsimp only
    rw [if_neg (by decide), hcrock]
    dsimp only
    rw [if_pos rfl, hheld, if_neg Bool.false_ne_true, if_neg hstate]
  · subst hf
    exact crockIsEvicted hr hcrock hd hheld hstate hk
  · subst hf
    exact crockIsPinned hr (.inl rfl) hcrock
  · subst hf
    exact crockIsPinned hr (.inr rfl) hcrock
end

end Sys2Proof.Machine
end

section
/-!
PROOF. `ckopen` (spec/08_core_state.md R175 to R178, spec/09_core_memory_instr.md R221).
-/
namespace Sys2Proof.Machine
open Sys2Proof.Spec

/-! ## Slots given (R170, R171, R176) -/

theorem Core.give_tag_other {slots : List (Nat × Tag)} {n : Nat} (h : n ∉ slots.map Prod.fst) (k : Core) :
    Table.get? (k.give slots).tags n = Table.get? k.tags n := by
  induction slots generalizing k with
  | nil => rfl
  | cons e slots ih =>
    rw [List.map_cons, List.mem_cons, not_or] at h
    exact (ih h.2 _).trans ((Table.get?_set ..).trans (if_neg (Ne.symm h.1)))

theorem Core.give_tag {slots : List (Nat × Tag)} (hnodup : (slots.map Prod.fst).Nodup) {n : Nat} {t : Tag} (h : (n, t) ∈ slots) (k : Core) :
    Table.get? (k.give slots).tags n = some t := by
  induction slots generalizing k with
  | nil => nomatch h
  | cons e slots ih =>
    obtain ⟨hnew, hrest⟩ := List.nodup_cons.1 hnodup
    rcases List.mem_cons.1 h with rfl | h
    · exact (Core.give_tag_other hnew _).trans (Table.get?_set_same ..)
    · exact ih hrest h _

theorem Core.give_zero {slots : List (Nat × Tag)} {a : Nat} (k : Core) (h : (∃ e ∈ slots, e.1 * 4096 ≤ a ∧ a < e.1 * 4096 + 4096) ∨ Cells.get 0 k.scratch a = 0) :
    Cells.get 0 (k.give slots).scratch a = 0 := by
  induction slots generalizing k with
  | nil =>
    obtain ⟨_, he, -⟩ | h := h
    · nomatch he
    · exact h
  | cons e slots ih =>
    refine ih _ ?_
    have hclear : Cells.get 0 { k.zeroSlot e.1 with tags := Table.set k.tags e.1 e.2, cpoison := removeNum k.cpoison e.1 }.scratch a = _ :=
      Cells.get_clear k.scratch (e.1 * 4096) (e.1 * 4096 + 4096) a
    obtain ⟨x, hx, hin⟩ | h := h
    · rcases List.mem_cons.1 hx with rfl | hx
      · exact .inr (hclear.trans (if_pos hin))
      · exact .inl ⟨x, hx, hin⟩
    · refine .inr (hclear.trans ?_)
      split
      · rfl
      · exact h

section
variable {P : Part} {core n slot b : Nat} {k : Core}

theorem Part.mem_freeSlotList (hk : P.core? core = some k) : slot ∈ P.freeSlotList core ↔ slot < P.slotLimit core ∧ k.slotFree slot = true := by
  rw [Part.freeSlotList, hk]
  dsimp only
  rw [List.mem_filter, List.mem_range]

theorem Part.freeSlotList_nodup (P : Part) (core : Nat) : (P.freeSlotList core).Nodup := by
  unfold Part.freeSlotList
  cases P.core? core with
  | none => exact List.nodup_nil
  | some k => exact List.nodup_range.filter _

theorem Part.slotLimit_le (P : Part) (core : Nat) : P.slotLimit core ≤ 256 := by
  rw [Part.slotLimit]
  split
  · decide
  · exact Nat.le_refl _

theorem Part.freeSlot_lt (h : slot ∈ P.freeSlotList core) : slot < 256 := by
  cases hk : P.core? core with
  | none =>
    rw [Part.freeSlotList, hk] at h
    nomatch h
  | some k => exact Nat.lt_of_lt_of_le ((Part.mem_freeSlotList hk).1 h).1 (P.slotLimit_le core)

theorem Part.mem_freeRuns (h : b ∈ P.freeRuns core n) {j : Nat} (hj : j < n) : b + j ∈ P.freeSlotList core :=
  List.contains_iff_mem.1 (List.all_eq_true.1 (List.mem_filter.1 h).2 j (List.mem_range.2 hj))

/-- The slots that remain free once a run has been given. -/
theorem Core.slotFree_give {slots : List (Nat × Tag)} (hnodup : (slots.map Prod.fst).Nodup) (hused : ∀ e ∈ slots, e.2.state ≠ 0) (k : Core) (slot : Nat) :
    (k.give slots).slotFree slot = (k.slotFree slot && decide (slot ∉ slots.map Prod.fst)) := by
  by_cases h : slot ∈ slots.map Prod.fst
  · obtain ⟨e, he, rfl⟩ := List.mem_map.1 h
    rw [Core.slotFree, Core.give_tag hnodup (show (e.1, e.2) ∈ slots from he), decide_eq_false (not_not.2 h), Bool.and_false]
    exact beq_eq_false_iff_ne.2 (hused e he)
  · rw [Core.slotFree, Core.give_tag_other h, decide_eq_true h, Bool.and_true, Core.slotFree]

theorem Part.freeSlotList_give {slots : List (Nat × Tag)} (hk : P.core? core = some k) (hnodup : (slots.map Prod.fst).Nodup)
    (hused : ∀ e ∈ slots, e.2.state ≠ 0) :
    (P.modCore core fun k => k.give slots).freeSlotList core = (P.freeSlotList core).filter fun slot => decide (slot ∉ slots.map Prod.fst) := by
  have hk' : (P.modCore core fun k => k.give slots).core? core = some (k.give slots) := by
    rw [Part.core?_modCore_same, hk]
    rfl
  rw [Part.freeSlotList, Part.freeSlotList, hk, hk']
  dsimp only
  rw [List.filter_filter, show (P.modCore core fun k => k.give slots).slotLimit core = P.slotLimit core from rfl]
  refine List.filter_congr fun slot _ => ?_
  rw [Core.slotFree_give hnodup hused, Bool.and_comm]

/-- As many slots remain free as the run has not taken. -/
theorem length_filter_notMem {l taken : List Nat} (hnodup : l.Nodup) {m : Nat} (h : taken.length + m ≤ l.length) :
    m ≤ (l.filter fun x => decide (x ∉ taken)).length := by
  have hsplit := List.length_eq_length_filter_add (l := l) fun x => decide (x ∈ taken)
  have hin : (l.filter fun x => decide (x ∈ taken)).length ≤ taken.length :=
    ((hnodup.filter _).subperm fun x hx => of_decide_eq_true (List.mem_filter.1 hx).2).length_le
  have hout : (l.filter fun x => !decide (x ∈ taken)) = l.filter fun x => decide (x ∉ taken) :=
    List.filter_congr fun x _ => (decide_not ..).symm
  rw [hout] at hsplit
  omega

theorem crockTags_slots (dir base n : Nat) (pin : Bool) : (crockTags dir base n pin).map Prod.fst = (List.range n).map fun j => base + j := by
  rw [crockTags, List.map_map]
  rfl

theorem crockTags_nodup (dir base n : Nat) (pin : Bool) : ((crockTags dir base n pin).map Prod.fst).Nodup := by
  rw [crockTags_slots]
  exact List.nodup_range.map fun i j h => Nat.add_left_cancel h

theorem choice_mem {α : Type} {low : Bool} {tick : Nat} {l : List α} (h : l ≠ []) : ∃ x ∈ l, choice low tick l = some x := by
  cases l with
  | nil => exact absurd rfl h
  | cons y l =>
    refine ⟨_, ?_, rfl⟩
    cases low with
    | true => exact List.mem_cons_self
    | false =>
      rw [if_neg Bool.false_ne_true]
      have hlt : Config.pick tick (y :: l).length % (y :: l).length < (y :: l).length := Nat.mod_lt _ (Nat.succ_pos _)
      rw [List.getD_eq_getElem _ _ hlt]
      exact List.getElem_mem hlt
end

/-! ## Places and shadows (R176) -/

/-- A crock's place on a core. -/
def DirEntry.placedAt (b core : Nat) (d : DirEntry) : DirEntry := { d with base := BitVec.ofNat 8 b, core := BitVec.ofNat 7 core, placed := true }

/-- A partition with a crock's slots given on a core. -/
def Part.placedAt (P : Part) (dir core b n : Nat) (pin : Bool) : Part :=
  (P.modCore core fun k => k.give (crockTags dir b n pin)).modDir dir (DirEntry.placedAt b core)

/-- The shadows of a team. -/
def shadowSlots (slot : Nat) (slots : List Nat) : List (Nat × Tag) := slots.map fun x => (x, shadowTag slot)

/-- A partition with shadows given to an attach of a team. -/
def Part.shadowedBy (P : Part) (tk core dir slot : Nat) (slots : List Nat) : Part :=
  (P.modCore core fun k => k.give (shadowSlots slot slots)).modTeam tk (Team.onAttach dir fun a => { a with spare := slots })

section
variable {s : State} {p : PartNo} {P : Part} {t : Team} {d : DirEntry} {tk core dir : Nat}

theorem State.room_met {keep : Nat} {need : Part → Bool} (hP : s.part? p = some P) (h : need P = true) : s.room p core keep need = some s := by
  rw [State.room, State.makeRoom, hP]
  dsimp only
  rw [if_pos h]

theorem State.placeCrock_spec (hP : s.part? p = some P) (hd : Table.get? P.run.dir dir = some d) (hruns : P.freeRuns core (d.count.toNat + 1) ≠ [])
    (low : Bool) : ∃ b ∈ P.freeRuns core (d.count.toNat + 1),
      s.placeCrock p dir core low = some (s.setPart p (P.placedAt dir core b (d.count.toNat + 1) d.pin)) := by
  obtain ⟨b, hb, hchoice⟩ := choice_mem (low := low) (tick := s.tick) hruns
  refine ⟨b, hb, ?_⟩
  rw [State.placeCrock, hP, Option.bind_some, hd]
  dsimp only
  rw [State.room_met hP (by rw [Bool.not_eq_true', List.isEmpty_eq_false_iff]; exact hruns)]
  dsimp only
  rw [hP, Option.bind_some, hchoice]
  rfl

theorem rotateLeft_perm {α : Type} (l : List α) (m : Nat) : (l.rotateLeft m).Perm l := by
  unfold List.rotateLeft
  dsimp only
  split
  · exact .refl l
  · exact List.perm_append_comm.trans (.of_eq (List.take_append_drop ..))

theorem State.reserveShadows_spec {n : Nat} (hP : s.part? p = some P) (ht : P.team? tk = some t) (hn : n ≤ (P.freeSlotList core).length) (low : Bool) :
    ∃ slots : List Nat, slots.length = n ∧ slots.Nodup ∧ (∀ x ∈ slots, x ∈ P.freeSlotList core) ∧
      s.reserveShadows p tk core dir n low = some (s.setPart p (P.shadowedBy tk core dir t.slot slots)) := by
  let slots := (if low then P.freeSlotList core else (P.freeSlotList core).rotateLeft (Config.pick s.tick (P.freeSlotList core).length)).take n
  have hperm : (if low then P.freeSlotList core else
      (P.freeSlotList core).rotateLeft (Config.pick s.tick (P.freeSlotList core).length)).Perm (P.freeSlotList core) := by
    cases low with
    | true => exact .refl _
    | false => exact rotateLeft_perm ..
  refine ⟨slots, ?_, (List.take_sublist ..).nodup (hperm.nodup_iff.2 (P.freeSlotList_nodup core)), fun x hx => hperm.mem_iff.1 (List.mem_of_mem_take hx), ?_⟩
  · rw [List.length_take, hperm.length_eq, Nat.min_eq_left hn]
  · rw [State.reserveShadows, State.room_met hP (decide_eq_true hn)]
    dsimp only
    rw [hP, Option.bind_some, ht]
    rfl
end

/-! ## An attach is granted, and has its slots and shadows (R175, R221) -/

/-- An entry of the directory once an attach has been granted. -/
def DirEntry.granted (mode : BitVec 2) (d : DirEntry) : DirEntry :=
  let d := if writing mode then { d with writer := true } else { d with readers := d.readers + 1 }
  if d.state = 5 then d else { d with state := 2 }

/-- An attach as it is granted. -/
def Attach.granted (dir : Nat) (name : DWord) (mode : BitVec 2) (created : Bool) : Attach := ⟨dir, name, mode, created, false, [], [], false, none⟩

/-- A team with one attach more. -/
def Team.withAttach (a : Attach) (t : Team) : Team := { t with attaches := t.attaches ++ [a] }

theorem Part.attachTo_eq (P : Part) (tk dir : Nat) (name : DWord) (mode : BitVec 2) (created : Bool) :
    P.attachTo tk dir name mode created =
      (P.modDir dir (DirEntry.granted mode)).modTeam tk (Team.withAttach (.granted dir name mode created)) := rfl

/-- The results of the attaches of an entry are known. -/
def Part.resulted (tk dir : Nat) (P : Part) : Part :=
  match Table.get? P.run.dir dir with
  | none => P
  | some d => P.modTeam tk (Team.onAttach dir fun a => { a with result := some (resultWord dir d a.created) })

section
variable {s s₂ : State} {p : PartNo} {P : Part} {t : Team} {d : DirEntry} {a : Attach} {tk dir : Nat}

theorem State.equip_spec {low : Bool} (hP : s.part? p = some P) (ht : P.team? tk = some t) (hd : Table.get? P.run.dir dir = some d)
    (ha : (t.attaches.find? fun a => a.dir == dir) = some a)
    (hready : ((if d.placed then some s else s.placeCrock p dir t.core low).bind fun s =>
      if writing a.mode && a.spare.isEmpty then s.reserveShadows p tk t.core dir (d.count.toNat + 1) low else some s) = some s₂) :
    s.equip p tk dir low = some (s₂.modPart p (Part.resulted tk dir)) := by
  rw [State.equip, hP, Option.bind_some, ht, Option.bind_some, hd, Option.bind_some, ha, Option.map_some]
  dsimp only
  rw [hready]
  refine congrArg some (congrArg (s₂.modPart p) (funext fun P => ?_))
  rw [Part.resulted]
  cases Table.get? P.run.dir dir <;> rfl

/-- The last attach of a team is that of an entry that no other has. -/
theorem find?_append_new {α : Type} {f : α → Bool} {l : List α} {x : α} (hl : ∀ y ∈ l, f y = false) (hx : f x = true) : (l ++ [x]).find? f = some x := by
  rw [List.find?_append, List.find?_eq_none.2 fun y hy => by rw [hl y hy]; exact Bool.false_ne_true, Option.none_or, List.find?_cons_of_pos hx]

theorem openResult_eq (dir : Nat) (d : DirEntry) (created : Bool) : resultWord dir d created = openResult dir d created := by
  cases created <;> rfl
end

section
variable {c c₂ : Ctx} {t₂ : Team} {d₂ : DirEntry} {a₂ : Attach} {old : List Attach} {name : DWord} {dir : Nat} {s₂ : State} {x : SReg} {l : La}

/-- A team holds an attach of an entry that none of its other attaches has, and whose name they do not have either. -/
structure LastAttach (t : Team) (old : List Attach) (a : Attach) (dir : Nat) (name : DWord) : Prop where
  attaches : t.attaches = old ++ [a]
  ofEntry : a.dir = dir
  named : a.name = name
  otherDirs : ∀ b ∈ old, b.dir ≠ dir
  otherNames : ∀ b ∈ old, b.name ≠ name

theorem LastAttach.ofDir {t : Team} {a : Attach} (h : LastAttach t old a dir name) : (t.attaches.find? fun a => a.dir == dir) = some a := by
  rw [h.attaches]
  exact find?_append_new (fun b hb => beq_eq_false_iff_ne.2 (h.otherDirs b hb)) (beq_iff_eq.2 h.ofEntry)

theorem LastAttach.ofName {t : Team} {a : Attach} (h : LastAttach t old a dir name) : t.attach? name = some a := by
  rw [Team.attach?, h.attaches]
  exact find?_append_new (fun b hb => beq_eq_false_iff_ne.2 (h.otherNames b hb)) (beq_iff_eq.2 h.named)

theorem LastAttach.onAttach {t : Team} {a : Attach} (h : LastAttach t old a dir name) {f : Attach → Attach} (hdir : ∀ b, (f b).dir = b.dir)
    (hname : ∀ b, (f b).name = b.name) : LastAttach (t.onAttach dir f) old (f a) dir name := by
  refine ⟨?_, (hdir a).trans h.ofEntry, (hname a).trans h.named, h.otherDirs, h.otherNames⟩
  rw [Team.onAttach]
  dsimp only
  rw [h.attaches, List.map_append, List.map_singleton, if_pos h.ofEntry]
  refine congrArg (· ++ _) ((List.map_congr_left fun b hb => if_neg (h.otherDirs b hb)).trans (List.map_id _))

/-- A granted attach that has what it needs completes the instruction with its result. -/
theorem Ctx.equipped_ready (hequip : c.s.equip c.p c.tk dir false = some (s₂.modPart c.p (Part.resulted c.tk dir))) {P₂ : Part}
    (hP₂ : s₂.part? c.p = some P₂) (hg : P₂.group? c.gid = some c.g) (hcore : isWhisk c.gid = false) (ht : P₂.team? c.tk = some t₂)
    (hd : Table.get? P₂.run.dir dir = some d₂) (ha : LastAttach t₂ old a₂ dir name) (hbyte : ∀ a, s₂.byte a = c.s.byte a) (x : SReg) (l : La) :
    ∃ c₃, c.equipped x l dir name = c₃.opened x l (openResult dir d₂ a₂.created) ∧ c.Leads c₃ ∧ c₃.g = c.g ∧
      c₃.P.run.dir = P₂.run.dir ∧ c₃.P.run.cores = P₂.run.cores ∧
      ∃ t₃, c₃.P.team? c.tk = some t₃ ∧ LastAttach t₃ old { a₂ with result := some (resultWord dir d₂ a₂.created) } dir name := by
  let f (a : Attach) : Attach := { a with result := some (resultWord dir d₂ a.created) }
  let P₃ := P₂.modTeam c.tk (Team.onAttach dir f)
  have hresulted : Part.resulted c.tk dir P₂ = P₃ := by
    rw [Part.resulted, hd]
  have hP₃ : (s₂.modPart c.p (Part.resulted c.tk dir)).part? c.p = some P₃ := hresulted ▸ State.part?_modPart_some hP₂ _
  have hg₃ : P₃.group? c.gid = some c.g := (Part.group?_modTeam P₂ c.tk (Team.onAttach dir f) (fun _ => rfl) c.gid).trans hg
  let c₃ : Ctx := { c with s := s₂.modPart c.p (Part.resulted c.tk dir), P := P₃, g := c.g }
  have ht₃ : P₃.team? c.tk = some (t₂.onAttach dir f) := by
    rw [Part.team?_modTeam_same, ht]
    rfl
  have hlast : LastAttach (t₂.onAttach dir f) old (f a₂) dir name := ha.onAttach (fun _ => rfl) (fun _ => rfl)
  have hteam : c₃.team? = some (t₂.onAttach dir f) := (Ctx.team?_of_team (c := c₃) hcore).trans ht₃
  refine ⟨c₃, ?_, ⟨⟨hP₃, hg₃⟩, rfl, rfl, hbyte⟩, rfl, rfl, rfl, _, ht₃, hlast⟩
  rw [Ctx.equipped, hequip]
  dsimp only
  rw [Ctx.reload_eq hP₃ hg₃, hteam, Option.bind_some, hlast.ofName, ← openResult_eq]
  rfl
end

/-! ## The request is served (R354) -/

/-- A partition in which a request of a group for a crock has been served. -/
def Part.servedBy (name : DWord) (tk gid : Nat) (P : Part) : Part :=
  (Part.modTeam { P with choice := P.choice.bump .crock name } tk fun t => { t with served := true }).modRun fun r =>
    { r with crockReqs := r.crockReqs.filter fun q => !(q.gid == gid && !q.team) }

section
variable {c c₁ : Ctx} {s : State} {tm : Team} {name : DWord} {x y : SReg} {f : BitVec 2} {l : La} {fetch : Bool} {n : BitVec 7} {d : DirEntry} {dir : Nat}

/-- A context in which the group's request has been served, all else as it was. -/
structure Ctx.Served (c c₁ : Ctx) (tm : Team) : Prop where
  leads : c.Leads c₁
  g : c₁.g = c.g
  dir : c₁.P.run.dir = c.P.run.dir
  cores : c₁.P.run.cores = c.P.run.cores
  homes : c₁.P.run.homes = c.P.run.homes
  regs : c₁.P.regs = c.P.regs
  team : c₁.P.team? c.tk = some { tm with served := true }

theorem Ctx.served_spec (hfit : c.Fits) (hteam : c.P.team? c.tk = some tm) (hmode : c.P.mode = 0 ∨ c.P.mode = 1) (name : DWord) :
    c.Served (c.served name) tm := by
  have hrec : c.P.mode ≠ mRECORD := by
    unfold mRECORD
    omega
  have hpart : (c.s.modPart c.p (Part.servedBy name c.tk c.gid)).part? c.p = some (c.P.servedBy name c.tk c.gid) := State.part?_modPart_some hfit.part _
  have hg : (c.P.servedBy name c.tk c.gid).group? c.gid = some c.g :=
    (Part.group?_modTeam { c.P with choice := c.P.choice.bump .crock name } c.tk (fun t => { t with served := true }) (fun _ => rfl) c.gid).trans
      ((Part.group?_congr rfl c.gid).trans hfit.group)
  have heq : c.served name = { c with s := c.s.modPart c.p (Part.servedBy name c.tk c.gid), P := c.P.servedBy name c.tk c.gid, g := c.g } := by
    rw [Ctx.served, if_neg hrec]
    exact Ctx.reload_eq hpart hg
  rw [heq]
  refine ⟨⟨⟨hpart, hg⟩, rfl, rfl, fun _ => rfl⟩, rfl, rfl, rfl, rfl, rfl, ?_⟩
  exact (Part.team?_modTeam_same { c.P with choice := c.P.choice.bump .crock name } c.tk fun t => { t with served := true }).trans
    (congrArg (Option.map _) hteam)

theorem Ctx.gate_open (hmode : c.P.mode = 0 ∨ c.P.mode = 1) (name : DWord) (mode : BitVec 2) (body : Ctx → Res) :
    c.gate name mode body = body (c.served name) := by
  rw [Ctx.gate, if_neg (by unfold mRECORD; omega), if_neg (by unfold mSTEERED; omega), if_neg (by unfold mEXPLORE; omega)]

/-! ## `ckopen` (R221) -/

/-- A `ckopen` of a crock that its team does not hold. -/
def Ctx.askCrock (c : Ctx) (x : SReg) (l : La) (f : BitVec 2) (fetch : Bool) (n : BitVec 7) (name : DWord) : Res :=
  match c.P.crock? name with
  | some (dir, d) =>
    if fetch && !c.here d && d.state != 5 && f.toNat != 2 && !(f == 3 && n.toNat != d.count.toNat + 1) then c.fetchCrock dir d
    else c.gate name f fun c => c.openCrock x l f name n.toNat fetch
  | none => c.gate name f fun c => c.openCrock x l f name n.toNat fetch

/-- A `ckopen` that has just been issued. -/
def Ctx.ckopen (c : Ctx) (x : SReg) (l : La) (f : BitVec 2) (fetch : Bool) (n : BitVec 7) (name : DWord) : Res :=
  if name = 0 then .trap c.s ⟨2, 0⟩
  else if (if f.toNat ≤ 1 then n != 0 else n == 0 || decide (64 < n.toNat)) then .trap c.s (trapOf 2 n.toNat)
  else match c.team?.bind fun t => t.attach? name with
    | some a => c.reopened x l f a
    | none => c.askCrock x l f fetch n name

theorem Ready.exec_ckopen (hr : Ready c s (.ckopen x y f l fetch n)) (hw : isWhisk c.gid = false) :
    ∃ body, (∀ s, exec (.ckopen x y f l fetch n) s = Machine.issue (.ckopen x y f l fetch n) s body) ∧
      body c = c.ckopen x l f fetch n (c.g.sreg y) := by
  refine ⟨_, fun _ => rfl, (c.outside_team _ _ hw).trans ?_⟩
  dsimp only
  rw [hr.fresh]
  rfl

/-- Whether a number of slots is one that the mode takes. -/
theorem ckopen_counts {f : BitVec 2} {n : BitVec 7} :
    (if f.toNat ≤ 1 then n != 0 else n == 0 || decide (64 < n.toNat)) = true ↔ if f.toNat < 2 then n.toNat ≠ 0 else n.toNat = 0 ∨ 64 < n.toNat := by
  have hzero : n = 0 ↔ n.toNat = 0 := ⟨fun h => by rw [h]; rfl, fun h => BitVec.eq_of_toNat_eq h⟩
  by_cases hf : f.toNat < 2
  · rw [if_pos (by omega), if_pos hf, bne_iff_ne, Ne, hzero]
  · rw [if_neg (by omega), if_neg hf, Bool.or_eq_true, beq_iff_eq, hzero, decide_eq_true_iff]

theorem Ctx.ckopen_asks (hteam : c.team? = some tm) (hname : name ≠ 0) (hn : ¬ if f.toNat < 2 then n.toNat ≠ 0 else n.toNat = 0 ∨ 64 < n.toNat)
    (hnone : tm.attach? name = none) : c.ckopen x l f fetch n name = c.askCrock x l f fetch n name := by
  rw [Ctx.ckopen, if_neg hname, if_neg (fun h => hn (ckopen_counts.1 h)), hteam, Option.bind_some, hnone]

theorem Ctx.opened_eq (h : c.g.stage = .fresh) (x : SReg) (l : La) (r : DWord) : c.opened x l r = (c.setG (c.g.setS x r)).doneS l [x] := by
  have hg : ({ c.g with stage := .fresh } : Group) = c.g := by rw [← h]
  rw [Ctx.opened, hg]

/-- A `ckopen` that completes with its result in a context that it leads to. -/
theorem Ready.opens (hr : Ready c s (.ckopen x y f l fetch n)) (hw : isWhisk c.gid = false) (hlead : c.Leads c₁) (hg : c₁.g = c.g) {r : DWord}
    (hbody : c.ckopen x l f fetch n (c.g.sreg y) = c₁.opened x l r) {rel : State → Group → Prop}
    (hrel : ∀ t, Ended c c₁.P ((c.g.setS x r).doneS l [x]) t → KeptBut c ((c.g.setS x r).doneS l [x]) x r → rel t ((c.g.setS x r).doneS l [x])) :
    Leaves c (.ckopen x y f l fetch n) s rel := by
  obtain ⟨body, he, hb⟩ := hr.exec_ckopen hw
  exact hr.leaves_scalar (he s) hlead hg ((hb.trans hbody).trans (Ctx.opened_eq (hg ▸ hr.fresh) ..)) fun t ht => hrel t ht (keptBut_doneS ..)

theorem Ready.ckopen_traps (hr : Ready c s (.ckopen x y f l fetch n)) (hw : isWhisk c.gid = false) {t : Trap}
    (hbody : c.ckopen x l f fetch n (c.g.sreg y) = .trap c.s t) : TrapsWith c (.ckopen x y f l fetch n) s t := by
  obtain ⟨body, he, hb⟩ := hr.exec_ckopen hw
  exact hr.trapsWith (he s) (hb.trans hbody)

/-- A context of the group in which an attach of an entry has been granted, before its slots and shadows. -/
structure Ctx.Granted (c c₂ : Ctx) (tm : Team) (dir : Nat) (d : DirEntry) (name : DWord) (mode : BitVec 2) (created : Bool) : Prop where
  leads : c.Leads c₂
  g : c₂.g = c.g
  entry : Table.get? c₂.P.run.dir dir = some d
  cores : c₂.P.run.cores = c.P.run.cores
  homes : c₂.P.run.homes = c.P.run.homes
  team : ∃ t, c₂.P.team? c.tk = some t ∧ t.core = tm.core ∧ LastAttach t tm.attaches (.granted dir name mode created) dir name

/-- What a granted attach leaves of a partition. -/
theorem Part.attachTo_spec {P : Part} {tk gid : Nat} {g : Group} (hd : Table.get? P.run.dir dir = some d) (ht : P.team? tk = some { tm with served := true })
    (hg : P.group? gid = some g) (name : DWord) (mode : BitVec 2) (created : Bool)
    (hdirs : ∀ b ∈ tm.attaches, b.dir ≠ dir) (hnames : ∀ b ∈ tm.attaches, b.name ≠ name) :
    (P.attachTo tk dir name mode created).group? gid = some g ∧
      Table.get? (P.attachTo tk dir name mode created).run.dir dir = some (d.granted mode) ∧
      (∃ t, (P.attachTo tk dir name mode created).team? tk = some t ∧ t.core = tm.core ∧
        LastAttach t tm.attaches (.granted dir name mode created) dir name) := by
  rw [Part.attachTo_eq]
  refine ⟨?_, ?_, Team.withAttach (.granted dir name mode created) { tm with served := true }, ?_, rfl, rfl, rfl, rfl, hdirs, hnames⟩
  · exact (Part.group?_modTeam (P.modDir dir (DirEntry.granted mode)) tk (Team.withAttach (.granted dir name mode created)) (fun _ => rfl) gid).trans
      ((Part.group?_of_work rfl rfl gid).trans hg)
  · exact (Table.get?_modify_same P.run.dir dir (DirEntry.granted mode)).trans (congrArg (Option.map _) hd)
  · exact (Part.team?_modTeam_same (P.modDir dir (DirEntry.granted mode)) tk (Team.withAttach (.granted dir name mode created))).trans
      (congrArg (Option.map _) ht)

theorem Ctx.Served.granted (h : c.Served c₁ tm) (hd : Table.get? c.P.run.dir dir = some d) (name : DWord) (mode : BitVec 2) (created : Bool)
    (hdirs : ∀ b ∈ tm.attaches, b.dir ≠ dir) (hnames : ∀ b ∈ tm.attaches, b.name ≠ name) :
    c.Granted (c₁.setP (c₁.P.attachTo c₁.tk dir name mode created)) tm dir (d.granted mode) name mode created := by
  have htk : c₁.tk = c.tk := h.leads.tk
  have hgroup : c₁.P.group? c.gid = some c.g := h.g ▸ h.leads.gid ▸ h.leads.fits.group
  obtain ⟨hg, hentry, hteam⟩ := Part.attachTo_spec (h.dir ▸ hd) h.team hgroup name mode created hdirs hnames
  rw [htk]
  exact ⟨h.leads.setP hg, Ctx.g_setP (h.leads.gid ▸ hg), hentry, h.cores, h.homes, hteam⟩

/-- What an attach has of the crock's slots, of its result, and of the directory, once it is equipped. -/
theorem Ctx.Granted.resultIs {c₂ : Ctx} {created : Bool} {mode : BitVec 2} (h : c.Granted c₂ tm dir d name mode created) (hw : isWhisk c.gid = false)
    (hplaced : d.placed = true) (hread : writing mode = false) (x : SReg) (l : La) :
    ∃ c₃, c₂.equipped x l dir name = c₃.opened x l (openResult dir d created) ∧ c.Leads c₃ ∧ c₃.g = c.g ∧
      c₃.P.run.dir = c₂.P.run.dir := by
  obtain ⟨t, ht, -, hlast⟩ := h.team
  have hp := h.leads.p
  have htk : c₂.tk = c.tk := h.leads.tk
  have hequip := State.equip_spec (low := false) (s₂ := c₂.s) h.leads.fits.part (htk ▸ ht) h.entry hlast.ofDir (by
    rw [if_pos hplaced, Option.bind_some, show writing (Attach.granted dir name mode created).mode = false from hread]
    rfl)
  obtain ⟨c₃, hopened, hlead, hg, hdir, -⟩ := Ctx.equipped_ready hequip h.leads.fits.part h.leads.fits.group (h.leads.gid ▸ hw) (htk ▸ ht) h.entry hlast
    (fun _ => rfl) x l
  exact ⟨c₃, hopened, h.leads.trans hlead, hg.trans h.g, hdir⟩

theorem names_of_attach?_none (h : tm.attach? name = none) : ∀ b ∈ tm.attaches, b.name ≠ name := fun b hb heq =>
  List.find?_eq_none.1 h b hb (beq_iff_eq.2 heq)

theorem dirs_of_all (h : tm.attaches.all (fun a => a.dir != dir) = true) : ∀ b ∈ tm.attaches, b.dir ≠ dir := fun b hb =>
  bne_iff_ne.1 (List.all_eq_true.1 h b hb)

theorem DirEntry.granted_state (h : d.state ≠ 5) (mode : BitVec 2) : d.granted mode =
    if writing mode then { d with writer := true, state := 2 } else { d with readers := d.readers + 1, state := 2 } := by
  unfold DirEntry.granted
  cases writing mode <;> exact if_neg h

theorem Ctx.Served.crock (h : c.Served c₁ tm) : c₁.P.crock? name = c.P.crock? name := by
  rw [Part.crock?, h.dir, Part.crock?]

theorem Ctx.coreOf_of_team (hw : isWhisk c.gid = false) (h : c.P.team? c.tk = some tm) : c.P.coreOf c.gid = tm.core := by
  rw [Part.coreOf, hw, if_neg Bool.false_ne_true, show c.P.team? (gidTeam c.gid) = some tm from h]
  rfl

theorem Ctx.Served.coreOf (h : c.Served c₁ tm) (hw : isWhisk c.gid = false) (hteam : c.P.team? c.tk = some tm) : c₁.P.coreOf c₁.gid = c.P.coreOf c.gid := by
  rw [Ctx.coreOf_of_team hw hteam]
  exact Ctx.coreOf_of_team (c := c₁) (tm := { tm with served := true }) (h.leads.gid ▸ hw) (h.leads.tk ▸ h.team)

/-- A crock that is resident on the group's core and free for the mode is attached. -/
theorem Ctx.askCrock_here (h : c.Served (c.served name) tm) (hw : isWhisk c.gid = false) (hteam : c.P.team? c.tk = some tm) (hmode : c.P.mode = 0 ∨ c.P.mode = 1)
    (hcrock : c.P.crock? name = some (dir, d)) (hstate : d.state = 1 ∨ d.state = 2) (hcore : d.core.toNat = c.P.coreOf c.gid) (hf : f.toNat < 2)
    (hgrants : d.grants f = true) : c.askCrock x l f fetch n name =
      ((c.served name).setP ((c.served name).P.attachTo (c.served name).tk dir name f false)).equipped x l dir name := by
  have hhere : c.here d = true := by
    rw [Ctx.here, hcore, beq_self_eq_true, Bool.and_true, Bool.or_eq_true, beq_iff_eq, beq_iff_eq]
    exact hstate
  have hhere₁ : (c.served name).here d = true := by
    rw [Ctx.here, h.coreOf hw hteam]
    exact hhere
  have hcreating : d.state ≠ 5 := by
    rcases hstate with h | h <;> rw [h] <;> decide
  have hne : ¬(f = 2 ∨ f = 3 ∧ n.toNat ≠ d.count.toNat + 1) := by
    rintro (rfl | ⟨rfl, -⟩) <;> exact absurd hf (by decide)
  rw [Ctx.askCrock, hcrock]
  dsimp only
  rw [hhere, Bool.not_true, Bool.and_false, Bool.false_and, Bool.false_and, Bool.false_and, if_neg Bool.false_ne_true, Ctx.gate_open hmode, Ctx.openCrock,
    h.crock, hcrock]
  dsimp only
  rw [if_neg hcreating, if_neg hne, hhere₁, Bool.not_true, if_neg Bool.false_ne_true, hgrants, Bool.not_true, if_neg Bool.false_ne_true]

theorem ckopenAnswers : CkopenAnswers := by
  intro c s x y f l fetch n tm hr hw hteam hmode name i
  have hteamP := Ctx.team?_P hteam
  refine ⟨fun hname => hr.ckopen_traps hw (if_pos hname), fun hname hn => hr.ckopen_traps hw ?_, fun hname hn => ?_⟩
  · refine (if_neg hname).trans ((if_pos (ckopen_counts.2 hn)).trans ?_)
    rw [trapOf, BitVec.ofNat_toNat]
    rfl
  have hcount : ¬ if f.toNat < 2 then n.toNat ≠ 0 else n.toNat = 0 ∨ 64 < n.toNat := by
    by_cases hf : f.toNat < 2
    · rw [if_pos hf] at hn ⊢
      omega
    · rw [if_neg hf] at hn ⊢
      omega
  have hserved := Ctx.served_spec hr.fits hteamP hmode name
  refine ⟨fun a r ha hresult => ?_, fun hnone habsent hf => ?_, fun dir d hnone hdirs hcrock hd hf hstate hcore hwriter hplaced => ?_⟩
  · have hreopened : c.ckopen x l f fetch n name = c.reopened x l f a := by
      rw [Ctx.ckopen, if_neg hname, if_neg (fun h => hcount (ckopen_counts.1 h)), hteam, Option.bind_some, ha]
    refine ⟨fun hsame => hr.opens hw (.refl hr.fits) rfl (hreopened.trans ?_) fun t _ hkept => hkept, fun hother => hr.ckopen_traps hw (hreopened.trans (if_pos hother))⟩
    rw [Ctx.reopened, if_neg (not_not.2 hsame), hresult]
  · refine hr.opens hw hserved.leads hserved.g ((Ctx.ckopen_asks hteam hname hcount hnone).trans ?_) fun t _ hkept => hkept
    rw [Ctx.askCrock, habsent]
    dsimp only
    rw [Ctx.gate_open hmode, Ctx.openCrock, Part.crock?, hserved.dir, ← Part.crock?, habsent]
    exact if_pos (by omega)
  · subst hf
    have hnames : ∀ b ∈ tm.attaches, b.name ≠ name := names_of_attach?_none hnone
    have hcreating : d.state ≠ 5 := by
      rcases hstate with h | h <;> rw [h] <;> decide
    have hgranted : d.granted 0 = { d with readers := d.readers + 1, state := 2 } := DirEntry.granted_state hcreating 0
    have hatt := hserved.granted hd name 0 false (dirs_of_all hdirs) hnames
    rw [hgranted] at hatt
    obtain ⟨c₃, hopened, hlead, hg, hdir⟩ := hatt.resultIs hw hplaced rfl x l
    have hgrants : d.grants 0 = true := by
      rw [DirEntry.grants, hwriter, bne_iff_ne.2 hcreating]
      rfl
    refine hr.opens hw hlead hg ((Ctx.ckopen_asks hteam hname hcount hnone).trans
      ((Ctx.askCrock_here hserved hw hteamP hmode hcrock hstate hcore (by decide) hgrants).trans hopened)) fun t ht hkept => ⟨hkept, ?_⟩
    rw [ht.dirIn, hdir]
    exact hatt.entry

/-! ## An attach for writing, and a crock that is created (R175, R176, R178) -/

theorem Part.freeSlotList_congr {P Q : Part} (hcores : Q.run.cores = P.run.cores) (hhomes : Q.run.homes = P.run.homes) (core : Nat) :
    Q.freeSlotList core = P.freeSlotList core := by
  rw [Part.freeSlotList, Part.freeSlotList, Part.core?, Part.core?, hcores, Part.slotLimit, Part.slotLimit, hhomes]

/-- What the attach has once its shadows have been reserved on the core, where the crock's slots are. -/
structure Ctx.Shadowed (c c₃ : Ctx) (tm : Team) (k₁ : Core) (free slots : List Nat) (core dir : Nat) (name : DWord) (mode : BitVec 2) (created : Bool) (n : Nat) : Prop where
  leads : c.Leads c₃
  g : c₃.g = c.g
  core : ∃ slot, c₃.P.core? core = some (k₁.give (shadowSlots slot slots))
  length : slots.length = n
  nodup : slots.Nodup
  free : ∀ x ∈ slots, x ∈ free
  team : ∃ t a, c₃.P.team? c.tk = some t ∧ t.attach? name = some a ∧ a.dir = dir ∧ a.mode = mode ∧ a.created = created ∧ a.spare = slots

theorem Ctx.Granted.shadowed {c₂ : Ctx} {created : Bool} {mode : BitVec 2} {s₁ : State} {P₁ : Part} {d₁ : DirEntry} {k₁ : Core}
    (h : c.Granted c₂ tm dir d name mode created) (hw : isWhisk c.gid = false) (hmode : writing mode = true)
    (hplace : (if d.placed then some c₂.s else c₂.s.placeCrock c₂.p dir tm.core false) = some s₁) (hP₁ : s₁.part? c₂.p = some P₁)
    (hteams : P₁.run.teams = c₂.P.run.teams) (hhomes : P₁.run.homes = c₂.P.run.homes) (hd₁ : Table.get? P₁.run.dir dir = some d₁)
    (hk : P₁.core? tm.core = some k₁) (hn : d.count.toNat + 1 ≤ (P₁.freeSlotList tm.core).length) (hbyte : ∀ a, s₁.byte a = c₂.s.byte a) (x : SReg) (l : La) :
    ∃ c₃ slots, c₂.equipped x l dir name = c₃.opened x l (openResult dir d₁ created) ∧ c₃.P.run.dir = P₁.run.dir ∧
      c.Shadowed c₃ tm k₁ (P₁.freeSlotList tm.core) slots tm.core dir name mode created (d.count.toNat + 1) := by
  obtain ⟨t, ht, hcore, hlast⟩ := h.team
  have htk : c₂.tk = c.tk := h.leads.tk
  have ht₁ : P₁.team? c₂.tk = some t := by
    rw [Part.team?, hteams, htk]
    exact ht
  obtain ⟨slots, hlen, hnodup, hfree, hreserve⟩ := State.reserveShadows_spec (dir := dir) hP₁ ht₁ hn false
  let P₂ := P₁.shadowedBy c₂.tk tm.core dir t.slot slots
  have hP₂ : (s₁.setPart c₂.p P₂).part? c₂.p = some P₂ := State.part?_setPart_same ..
  have hg₁ : P₁.group? c₂.gid = some c₂.g := (Part.group?_of_work hteams hhomes _).trans h.leads.fits.group
  have hg₂ : P₂.group? c₂.gid = some c₂.g :=
    (Part.group?_modTeam (P₁.modCore tm.core fun k => k.give (shadowSlots t.slot slots)) c₂.tk (Team.onAttach dir fun a => { a with spare := slots })
      (fun _ => rfl) c₂.gid).trans ((Part.group?_modCore ..).trans hg₁)
  have ht₂ : P₂.team? c₂.tk = some (t.onAttach dir fun a => { a with spare := slots }) := by
    exact (Part.team?_modTeam_same (P₁.modCore tm.core fun k => k.give (shadowSlots t.slot slots)) c₂.tk (Team.onAttach dir fun a => { a with spare := slots })).trans
      (congrArg (Option.map _) ht₁)
  have hequip := State.equip_spec (low := false) (s₂ := s₁.setPart c₂.p P₂) h.leads.fits.part (htk ▸ ht) h.entry hlast.ofDir (by
    rw [hcore, hplace, Option.bind_some, show writing (Attach.granted dir name mode created).mode = true from hmode, hreserve]
    rfl)
  obtain ⟨c₃, hopened, hlead, hg, hdir, hcores, t₃, ht₃, hlast₃⟩ := Ctx.equipped_ready hequip hP₂ hg₂ (h.leads.gid ▸ hw) ht₂ hd₁
    (hlast.onAttach (f := fun a => { a with spare := slots }) (fun _ => rfl) (fun _ => rfl)) hbyte x l
  refine ⟨c₃, slots, hopened, hdir, h.leads.trans hlead, hg.trans h.g, ⟨t.slot, ?_⟩, hlen, hnodup, hfree, t₃, _, htk ▸ ht₃, hlast₃.ofName, rfl, rfl, rfl, rfl⟩
  rw [Part.core?, hcores]
  exact (Part.core?_modCore_same P₁ tm.core fun k => k.give (shadowSlots t.slot slots)).trans (congrArg (Option.map _) hk)

theorem shadowSlots_slots (slot : Nat) (slots : List Nat) : (shadowSlots slot slots).map Prod.fst = slots := by
  rw [shadowSlots, List.map_map]
  exact List.map_id _

/-- An entry of the directory as it is claimed. -/
def DirEntry.claimed (name : DWord) (backing core tk n : Nat) : DirEntry :=
  { name := name, version := 0, backing := backing, count := BitVec.ofNat 6 (n - 1), base := 0, core := BitVec.ofNat 7 core,
    state := 5, pin := false, readers := 0, writer := false, detached := 0, creator := some tk, dirty := [], placed := false }

/-- From any number on, going round, the first that is free is found. -/
theorem find?_round {m j : Nat} (first : Nat) {free : Nat → Bool} (hj : j < m) (hfree : free j = true) :
    ∃ i, (((List.range m).map fun k => (first + k) % m).find? free) = some i ∧ i < m ∧ free i = true := by
  have hm : 0 < m := Nat.zero_lt_of_lt hj
  have hmem : j ∈ (List.range m).map fun k => (first + k) % m := by
    refine List.mem_map.2 ⟨(j + (m - first % m)) % m, List.mem_range.2 (Nat.mod_lt _ hm), ?_⟩
    have hlt := Nat.mod_lt first hm
    rw [Nat.add_mod_mod, ← Nat.mod_add_mod, show first % m + (j + (m - first % m)) = j + m by omega, Nat.add_mod_right, Nat.mod_eq_of_lt hj]
  obtain ⟨i, hi⟩ := Option.isSome_iff_exists.1 (List.find?_isSome.2 ⟨j, hmem, hfree⟩)
  obtain ⟨k, -, rfl⟩ := List.mem_map.1 (List.mem_of_find?_eq_some hi)
  exact ⟨_, hi, Nat.mod_lt _ hm, List.find?_some hi⟩

/-- A free entry of the directory is claimed for a crock. -/
theorem State.claim_spec {s : State} {p : PartNo} {P : Part} {n : Nat} (hP : s.part? p = some P) (hbacking : (P.backingFrame n).isSome = true)
    (hfree : ∃ j < 4096, Table.has P.run.dir j = false) (tk core : Nat) (name : DWord) :
    ∃ dir backing, dir < 4096 ∧ Table.has P.run.dir dir = false ∧
      s.claim p tk core name n = some (dir, s.setPart p (P.setDir dir (.claimed name backing core tk n))) := by
  obtain ⟨b, hb⟩ := Option.isSome_iff_exists.1 hbacking
  obtain ⟨j, hj, hnone⟩ := hfree
  obtain ⟨frame, hframe⟩ : ∃ frame : Part → Option Nat, ∀ P, P.backingFrame n = frame P := ⟨fun P => P.backingFrame n, fun _ => rfl⟩
  rw [hframe] at hb
  obtain ⟨i, hi, hlt, hnot⟩ := find?_round (free := fun i => !Table.has P.run.dir i) (firstIndex name) hj (by rw [hnone]; rfl)
  refine ⟨i, b, hlt, by simpa using hnot, ?_⟩
  rw [State.claim]
  simp only [hframe]
  clear hframe
  simp only [hP, hb, hi]
  rfl

theorem Ctx.askCrock_created {created : Ctx} {s₁ : State} (h : c.Served (c.served name) tm) (hmode : c.P.mode = 0 ∨ c.P.mode = 1)
    (habsent : c.P.crock? name = none) (hf : 2 ≤ f.toNat)
    (hclaim : (c.served name).s.claim (c.served name).p (c.served name).tk ((c.served name).P.coreOf (c.served name).gid) name n.toNat = some (dir, s₁))
    (hcreated : (c.served name).reload (s₁.modPart (c.served name).p fun P => P.attachTo (c.served name).tk dir name f true) = created) :
    c.askCrock x l f fetch n name = created.equipped x l dir name := by
  rw [Ctx.askCrock, habsent]
  dsimp only
  rw [Ctx.gate_open hmode, Ctx.openCrock, h.crock, habsent]
  dsimp only
  rw [if_neg (by omega), hclaim]
  dsimp only
  rw [hcreated]

/-- A crock that is created is attached to the entry that it claims. -/
theorem Ctx.Served.created {backing m : Nat} (h : c.Served c₁ tm) (hattaches : tm.attaches = []) (core : Nat) (hwriting : writing f = true) :
    ∃ c₂, c₁.reload ((c₁.s.setPart c₁.p (c₁.P.setDir dir (.claimed name backing core c₁.tk m))).modPart c₁.p fun P => P.attachTo c₁.tk dir name f true) = c₂ ∧
      c.Granted c₂ tm dir { DirEntry.claimed name backing core c.tk m with writer := true } name f true := by
  have htk : c₁.tk = c.tk := h.leads.tk
  have hgroup : (c₁.P.setDir dir (.claimed name backing core c.tk m)).group? c.gid = some c.g :=
    (Part.group?_setDir ..).trans (h.g ▸ h.leads.gid ▸ h.leads.fits.group)
  have hentry : Table.get? (c₁.P.setDir dir (.claimed name backing core c.tk m)).run.dir dir = some (.claimed name backing core c.tk m) := Table.get?_set_same ..
  obtain ⟨hg, hentry', hteam⟩ := Part.attachTo_spec hentry (P := c₁.P.setDir dir (.claimed name backing core c.tk m)) h.team hgroup name f true
    (by rw [hattaches]; exact nofun) (by rw [hattaches]; exact nofun)
  have hpart := State.part?_modPart_some (State.part?_setPart_same c₁.s c₁.p (c₁.P.setDir dir (.claimed name backing core c.tk m)))
    fun P => P.attachTo c.tk dir name f true
  rw [htk]
  refine ⟨_, Ctx.reload_eq hpart (h.leads.gid ▸ hg), ⟨⟨hpart, h.leads.gid ▸ hg⟩, h.leads.p, h.leads.gid, h.leads.byte⟩, rfl, ?_, h.cores, h.homes, hteam⟩
  refine hentry'.trans ?_
  rw [DirEntry.granted, hwriting]
  rfl

/-- The shadows that an attach of a group's team has in a state, by R176. -/
def ShadowsIn (t : State) (c : Ctx) (name : DWord) (free : List Nat) (dir k : Nat) (mode : BitVec 2) (created : Bool) : Prop :=
  ∃ tm' a core', teamIn t c = some tm' ∧ tm'.attach? name = some a ∧ coreIn t c = some core' ∧ a.dir = dir ∧ a.mode = mode ∧
    a.created = created ∧ a.spare.length = k ∧ a.spare.Nodup ∧
    ∀ sh ∈ a.spare, sh ∈ free ∧ ∃ tag, Table.get? core'.tags sh = some tag ∧ tag.state = 5

theorem Ctx.Shadowed.inState {c₃ : Ctx} {k₁ : Core} {free free' slots : List Nat} {created : Bool} {mode : BitVec 2} {m : Nat} {t : State} {g : Group}
    (h : c.Shadowed c₃ tm k₁ free' slots (c.P.coreOf c.gid) dir name mode created m) (hw : isWhisk c.gid = false) (hsub : ∀ x ∈ free', x ∈ free)
    (ht : Ended c c₃.P g t) : ShadowsIn t c name free dir m mode created ∧
      ∃ slot, coreIn t c = some (k₁.give (shadowSlots slot slots)) := by
  obtain ⟨slot, hcore⟩ := h.core
  obtain ⟨t', a, hteam, hattach, hdir, hmode, hcreated, hspare⟩ := h.team
  have hin := ht.coreIn.trans hcore
  refine ⟨⟨_, a, _, ht.teamIn hw hteam, hattach, hin, hdir, hmode, hcreated, hspare ▸ h.length, hspare ▸ h.nodup, fun sh hsh => ?_⟩, slot, hin⟩
  rw [hspare] at hsh
  have hnodup : ((shadowSlots slot slots).map Prod.fst).Nodup := by
    rw [shadowSlots_slots]
    exact h.nodup
  exact ⟨hsub sh (h.free sh hsh), shadowTag slot, Core.give_tag hnodup (List.mem_map.2 ⟨sh, hsh, rfl⟩) _, rfl⟩

/-- `ckopen` to write a crock that is resident on the core and that no team holds. -/
theorem crockIsAttachedToWrite {core : Core} (hr : Ready c s (.ckopen x y 1 l fetch 0)) (hw : isWhisk c.gid = false) (hteam : c.team? = some tm)
    (htc : tm.core = c.P.coreOf c.gid) (hk : c.P.core? (c.P.coreOf c.gid) = some core) (hmode : c.P.mode = 0 ∨ c.P.mode = 1) (hname : c.g.sreg y ≠ 0)
    (hnone : tm.attach? (c.g.sreg y) = none) (hcrock : c.P.crock? (c.g.sreg y) = some (dir, d)) (hd : Table.get? c.P.run.dir dir = some d)
    (hdirs : tm.attaches.all (fun a => a.dir != dir) = true) (hstate : d.state = 1) (hcore : d.core.toNat = c.P.coreOf c.gid) (hwriter : d.writer = false)
    (hreaders : d.readers = 0) (hplaced : d.placed = true) (hfree : d.count.toNat + 1 ≤ (c.P.freeSlotList (c.P.coreOf c.gid)).length) :
    Leaves c (.ckopen x y 1 l fetch 0) s fun t g => KeptBut c g x (openResult dir d false) ∧
      dirIn t c dir = some { d with writer := true, state := 2 } ∧
      ShadowsIn t c (c.g.sreg y) (c.P.freeSlotList (c.P.coreOf c.gid)) dir (d.count.toNat + 1) 1 false := by
  have hteamP := Ctx.team?_P hteam
  have hserved := Ctx.served_spec hr.fits hteamP hmode (c.g.sreg y)
  have hcreating : d.state ≠ 5 := by
    rw [hstate]
    decide
  have hgrants : d.grants 1 = true := by
    rw [DirEntry.grants, hwriter, hreaders, bne_iff_ne.2 hcreating]
    rfl
  have hatt := hserved.granted hd (c.g.sreg y) 1 false (dirs_of_all hdirs) (names_of_attach?_none hnone)
  rw [show d.granted 1 = { d with writer := true, state := 2 } from DirEntry.granted_state hcreating 1] at hatt
  have hfree' := Part.freeSlotList_congr hatt.cores hatt.homes tm.core
  rw [← htc, ← hfree'] at hfree
  obtain ⟨c₃, slots, hopened, hdir, hsh⟩ := hatt.shadowed hw rfl (if_pos hplaced) hatt.leads.fits.part rfl rfl hatt.entry
    (k₁ := core) (by rw [Part.core?, hatt.cores, htc]; exact hk) hfree (fun _ => rfl) x l
  rw [hfree', htc] at hsh
  refine hr.opens hw hsh.leads hsh.g ((Ctx.ckopen_asks hteam hname (by decide) hnone).trans
    ((Ctx.askCrock_here hserved hw hteamP hmode hcrock (.inl hstate) hcore (by decide) hgrants).trans hopened)) fun t ht hkept =>
    ⟨hkept, ?_, (hsh.inState hw (fun _ h => h) ht).1⟩
  rw [ht.dirIn, hdir]
  exact hatt.entry

theorem Part.backingFrame_congr {P Q : Part} (hregs : Q.regs = P.regs) (hdir : Q.run.dir = P.run.dir) (n : Nat) :
    Q.backingFrame n = P.backingFrame n := by
  rw [Part.backingFrame, Part.backingFrame, Part.regionEnd, Part.regionEnd, Part.shelfEnd, Part.shelfEnd, Part.dies, Part.dies, hregs, hdir]

/-- `ckopen` to create a crock. -/
theorem crockIsCreated {core : Core} (hr : Ready c s (.ckopen x y f l fetch n)) (hw : isWhisk c.gid = false) (hteam : c.team? = some tm)
    (htc : tm.core = c.P.coreOf c.gid) (hk : c.P.core? (c.P.coreOf c.gid) = some core) (hmode : c.P.mode = 0 ∨ c.P.mode = 1) (hname : c.g.sreg y ≠ 0)
    (hnone : tm.attach? (c.g.sreg y) = none) (hf : 2 ≤ f.toNat) (hlow : 0 < n.toNat) (hhigh : n.toNat ≤ 64) (habsent : c.P.crock? (c.g.sreg y) = none)
    (hattaches : tm.attaches = []) (hbacking : (c.P.backingFrame n.toNat).isSome = true) (hentry : ∃ j < 4096, Table.has c.P.run.dir j = false)
    (hruns : c.P.freeRuns (c.P.coreOf c.gid) n.toNat ≠ []) (hfree : 2 * n.toNat ≤ (c.P.freeSlotList (c.P.coreOf c.gid)).length) :
    Leaves c (.ckopen x y f l fetch n) s fun t g => ∃ dir d core', dir < 4096 ∧ Table.has c.P.run.dir dir = false ∧ dirIn t c dir = some d ∧
      KeptBut c g x (openResult dir d true) ∧ d.name = c.g.sreg y ∧ d.state = 5 ∧ d.version = 0 ∧ d.count.toNat + 1 = n.toNat ∧
      d.core.toNat = c.P.coreOf c.gid % 128 ∧ d.writer = true ∧ d.creator = some c.tk ∧
      ShadowsIn t c (c.g.sreg y) (c.P.freeSlotList (c.P.coreOf c.gid)) dir n.toNat f true ∧ coreIn t c = some core' ∧
      ∀ j < n.toNat, d.base.toNat + j ∈ c.P.freeSlotList (c.P.coreOf c.gid) ∧
        (∃ tag, Table.get? core'.tags (d.base.toNat + j) = some tag ∧ tag.state = 4 ∧ tag.owner.toNat = dir ∧ tag.link.toNat = j) ∧
        ∀ o < 4096, Cells.get 0 core'.scratch ((d.base.toNat + j) * 4096 + o) = 0 := by
  have hteamP := Ctx.team?_P hteam
  have hserved := Ctx.served_spec hr.fits hteamP hmode (c.g.sreg y)
  have hwriting : writing f = true := bne_iff_ne.2 (by rintro rfl; exact absurd hf (by decide))
  have hcount : (BitVec.ofNat 6 (n.toNat - 1)).toNat + 1 = n.toNat := by
    rw [BitVec.toNat_ofNat]
    omega
  obtain ⟨dir, backing, hdirlt, hnew, hclaim⟩ := State.claim_spec hserved.leads.fits.part
    (by rw [Part.backingFrame_congr hserved.regs hserved.dir]; exact hbacking) (by rw [hserved.dir]; exact hentry)
    (c.served (c.g.sreg y)).tk ((c.served (c.g.sreg y)).P.coreOf (c.served (c.g.sreg y)).gid) (c.g.sreg y)
  rw [hserved.dir] at hnew
  obtain ⟨c₂, hcreated, hatt⟩ := hserved.created (dir := dir) (name := c.g.sreg y) (backing := backing) (m := n.toNat) hattaches
    ((c.served (c.g.sreg y)).P.coreOf (c.served (c.g.sreg y)).gid) hwriting
  rw [hserved.coreOf hw hteamP] at hatt
  have hslots := Part.freeSlotList_congr hatt.cores hatt.homes tm.core
  have hk₂ : c₂.P.core? tm.core = some core := by
    rw [Part.core?, hatt.cores, htc]
    exact hk
  generalize hd₀ : ({ DirEntry.claimed (c.g.sreg y) backing (c.P.coreOf c.gid) c.tk n.toNat with writer := true } : DirEntry) = d₀ at hatt
  have hcount₀ : d₀.count.toNat + 1 = n.toNat := by
    rw [← hd₀]
    exact hcount
  have hplaced₀ : ¬d₀.placed = true := by
    rw [← hd₀]
    exact Bool.false_ne_true
  have hruns₂ : c₂.P.freeRuns tm.core n.toNat ≠ [] := by
    rw [Part.freeRuns, hslots, htc]
    exact hruns
  obtain ⟨b, hb, hplace⟩ := State.placeCrock_spec (core := tm.core) hatt.leads.fits.part hatt.entry (by rw [hcount₀]; exact hruns₂) false
  rw [hcount₀] at hb hplace
  have hrun {j : Nat} (hj : j < n.toNat) : b + j ∈ c.P.freeSlotList (c.P.coreOf c.gid) := by
    rw [← htc, ← hslots]
    exact Part.mem_freeRuns hb hj
  have hb256 : b < 256 := Part.freeSlot_lt (hrun hlow)
  have hcrock := crockTags_nodup dir b n.toNat d₀.pin
  have hleft : (c₂.P.placedAt dir tm.core b n.toNat d₀.pin).freeSlotList tm.core =
      (c.P.freeSlotList (c.P.coreOf c.gid)).filter fun slot => decide (slot ∉ (crockTags dir b n.toNat d₀.pin).map Prod.fst) := by
    rw [← htc, ← hslots]
    refine Eq.trans rfl (Part.freeSlotList_give hk₂ hcrock fun e he => ?_)
    obtain ⟨j, -, rfl⟩ := List.mem_map.1 he
    exact (by decide : (4 : BitVec 3) ≠ 0)
  obtain ⟨c₃, slots, hopened, hdir, hsh⟩ := hatt.shadowed hw hwriting ((if_neg hplaced₀).trans hplace) (State.part?_setPart_same ..) rfl rfl
    (d₁ := d₀.placedAt b tm.core) (k₁ := core.give (crockTags dir b n.toNat d₀.pin))
    ((Table.get?_modify_same c₂.P.run.dir dir (DirEntry.placedAt b tm.core)).trans (congrArg (Option.map _) hatt.entry))
    ((Part.core?_modCore_same c₂.P tm.core fun k => k.give (crockTags dir b n.toNat d₀.pin)).trans (congrArg (Option.map _) hk₂))
    (by
      rw [hcount₀, hleft]
      refine length_filter_notMem (c.P.freeSlotList_nodup _) ?_
      rw [crockTags_slots, List.length_map, List.length_range]
      omega) (fun _ => rfl) x l
  rw [htc, hcount₀, ← htc, hleft, htc] at hsh
  refine hr.opens hw hsh.leads hsh.g ((Ctx.ckopen_asks hteam hname (by rw [if_neg (by omega)]; omega) hnone).trans
    ((Ctx.askCrock_created hserved hmode habsent hf hclaim hcreated).trans hopened)) fun t ht hkept => ?_
  obtain ⟨hshadows, slot, hcore'⟩ := hsh.inState hw (fun _ h => (List.mem_filter.1 h).1) ht
  have hbase : (d₀.placedAt b tm.core).base.toNat = b := by
    rw [DirEntry.placedAt, BitVec.toNat_ofNat]
    omega
  refine ⟨dir, d₀.placedAt b tm.core, _, hdirlt, hnew, ?_, hkept, ?_, ?_, ?_, hcount₀, ?_, ?_, ?_, hshadows, hcore', fun j hj => ?_⟩
  · rw [ht.dirIn, hdir]
    exact (Table.get?_modify_same c₂.P.run.dir dir (DirEntry.placedAt b tm.core)).trans (congrArg (Option.map _) hatt.entry)
  · rw [← hd₀]
    rfl
  · rw [← hd₀]
    rfl
  · rw [← hd₀]
    rfl
  · rw [← htc]
    exact BitVec.toNat_ofNat ..
  · rw [← hd₀]
    rfl
  · rw [← hd₀]
    rfl
  · rw [hbase]
    have hin : b + j ∈ (crockTags dir b n.toNat d₀.pin).map Prod.fst := by
      rw [crockTags_slots]
      exact List.mem_map.2 ⟨j, List.mem_range.2 hj, rfl⟩
    have hnotShadow : b + j ∉ (shadowSlots slot slots).map Prod.fst := by
      rw [shadowSlots_slots]
      exact fun hmem => of_decide_eq_true (List.mem_filter.1 (hsh.free _ hmem)).2 hin
    refine ⟨hrun hj, ⟨⟨crockKey dir j, d₀.pin, 4, BitVec.ofNat 12 dir, BitVec.ofNat 8 j⟩, ?_, rfl, ?_, ?_⟩, fun o ho => ?_⟩
    · exact (Core.give_tag_other hnotShadow _).trans (Core.give_tag hcrock (List.mem_map.2 ⟨j, List.mem_range.2 hj, rfl⟩) core)
    · rw [BitVec.toNat_ofNat]
      omega
    · rw [BitVec.toNat_ofNat]
      omega
    · obtain ⟨e, he, hslot⟩ := List.mem_map.1 hin
      exact Core.give_zero _ (.inr (Core.give_zero _ (.inl ⟨e, he, by rw [hslot]; omega⟩)))

/-- Settles O32: an attach is granted by the table of R175 with its slots and shadows; seals, drops, reads and evictions act on what is held. -/
theorem crockInstructions : Obligations.CrockInstructions := by
  refine ⟨ckopenAnswers, fun c s x y f l fetch n tm core hr hw hteam htc hk hmode => fun hname hnone => ⟨fun hf hlow hhigh habsent hattaches hbacking hentry hruns hfree =>
    crockIsCreated hr hw hteam htc hk hmode hname hnone hf hlow hhigh habsent hattaches hbacking hentry hruns hfree, ?_⟩,
    ⟨crockIsSealed, ?_, crockIsRead, heldCrocksTrap⟩, crocksAreEvictedOrPinned⟩
  · rintro rfl rfl dir d hcrock hd hdirs hstate hcore hwriter hreaders hplaced hfree
    exact crockIsAttachedToWrite hr hw hteam htc hk hmode hname hnone hcrock hd hdirs hstate hcore hwriter hreaders hplaced hfree
  · exact fun c s y l tm a hr h hmode hdrop => attachIsDropped c s y l tm a hr h hmode hdrop
end

end Sys2Proof.Machine
end

section
/-!
SUPPORT. Bytes that come to the scratchpad slots of a team's own (spec/08_core_state.md R172, spec/09_core_memory_instr.md R212).
-/
namespace Sys2Proof.Machine
open Sys2Proof.Spec

/-! ## A change of a group's core alone -/

/-- A context of the same group in which its core alone has changed, and reaches slots as before. -/
structure Ctx.OnCore (c c₁ : Ctx) : Prop where
  leads : c.Leads c₁
  g : c₁.g = c.g
  frame : c₁.P = { c.P with run := { c.P.run with cores := c₁.P.run.cores } }
  others : ∀ q, q ≠ c.p → c₁.s.part? q = c.s.part? q
  reach : ∀ slot, c₁.reach slot = c.reach slot

section
variable {c c₁ c₂ : Ctx} {k : Core} {addr : Nat} {bs : List Byte}

theorem Ctx.OnCore.refl (h : c.Fits) : c.OnCore c := ⟨.refl h, rfl, rfl, fun _ _ => rfl, fun _ => rfl⟩

theorem Ctx.OnCore.trans (h : c.OnCore c₁) (h' : c₁.OnCore c₂) : c.OnCore c₂ :=
  ⟨h.leads.trans h'.leads, h'.g.trans h.g, by rw [h'.frame, h.frame], fun q hq => (h'.others q (h.leads.p ▸ hq)).trans (h.others q hq),
    fun slot => (h'.reach slot).trans (h.reach slot)⟩

theorem Ctx.OnCore.coreOf (h : c.OnCore c₁) : c₁.P.coreOf c₁.gid = c.P.coreOf c.gid := by
  rw [h.leads.gid, h.frame]
  rfl

theorem Ctx.onCore_modCore (h : c.Fits) {f : Core → Core} (hf : ∀ k, (f k).tags = k.tags) : c.OnCore (c.setP (c.P.modCore (c.P.coreOf c.gid) f)) := by
  have hg := (Part.group?_modCore c.P (c.P.coreOf c.gid) f c.gid).trans h.group
  exact ⟨(Leads.refl h).setP hg, Ctx.g_setP hg, rfl, fun q hq => State.part?_setPart_ne _ _ hq, Ctx.reach_modCore hf _⟩

/-! ## Pieces of a range (R172) -/

/-- One piece of a store, in a slot that the team has as its own. -/
def Ctx.pokePiece (addr : Nat) (bs : List Byte) (c : Ctx) (p : Nat × Nat × Nat) : Ctx :=
  match c.reach p.1 with
  | .none => c
  | _ =>
    let c := c.storeReady p.1
    let part := (bs.drop (p.1 * 4096 + p.2.1 - addr)).take p.2.2
    c.setP (c.P.modCore (c.P.coreOf c.gid) fun k => k.poke (c.loadSlot p.1 * 4096 + p.2.1) part)

theorem Ctx.poke_eq (c : Ctx) (addr : Nat) (bs : List Byte) : c.poke addr bs = (slotPieces addr bs.length).foldl (Ctx.pokePiece addr bs) c := rfl

/-- The piece of a range that lies in a slot. -/
def slotPiece (addr len slot : Nat) : Nat × Nat × Nat :=
  (slot, max addr (slot * 4096) % 4096, min (addr + len) (slot * 4096 + 4096) - max addr (slot * 4096))

theorem Ctx.pokePiece_own (h : c.Fits) {slot : Nat} (hin : addr < slot * 4096 + 4096) (hk : c.P.core? (c.P.coreOf c.gid) = some k)
    (hown : c.reach slot = .own 1) :
    ∃ k₁, c.OnCore (c.pokePiece addr bs (slotPiece addr bs.length slot)) ∧
      (c.pokePiece addr bs (slotPiece addr bs.length slot)).P.core? (c.P.coreOf c.gid) = some k₁ ∧
      ∀ y, Cells.get 0 k₁.scratch y = if y / 4096 = slot ∧ addr ≤ y ∧ y < addr + bs.length then bs.getD (y - addr) 0 else Cells.get 0 k.scratch y := by
  let lo := max addr (slot * 4096)
  let n := min (addr + bs.length) (slot * 4096 + 4096) - lo
  have hlo : slot * 4096 + lo % 4096 = lo := by
    have := Nat.div_add_mod lo 4096
    omega
  let part := (bs.drop (lo - addr)).take n
  have hpiece : c.pokePiece addr bs (slotPiece addr bs.length slot) = c.setP (c.P.modCore (c.P.coreOf c.gid) fun k => k.poke lo part) := by
    rw [Ctx.pokePiece, slotPiece]
    dsimp only
    rw [hown]
    dsimp only
    rw [Ctx.storeReady_own hown (by decide), Ctx.loadSlot_own hown, hlo]
  have hlen : part.length = min n (bs.length - (lo - addr)) := by
    rw [List.length_take, List.length_drop]
  refine ⟨k.poke lo part, hpiece ▸ Ctx.onCore_modCore h fun _ => rfl, ?_, fun y => ?_⟩
  · rw [hpiece, Ctx.P_setP, Part.core?_modCore_same, hk]
    rfl
  · by_cases hy : y / 4096 = slot ∧ addr ≤ y ∧ y < addr + bs.length
    · obtain ⟨j, rfl⟩ : ∃ j, y = lo + j := ⟨y - lo, by omega⟩
      have hj : j < part.length := by omega
      rw [if_pos hy, Core.poke_inside hj, List.getD_eq_getElem _ _ hj, List.getElem_take, List.getElem_drop,
        List.getD_eq_getElem _ _ (by omega)]
      congr 1
      omega
    · rw [if_neg hy]
      exact Core.poke_outside (by omega)

/-- Bytes stored in slots that are all the team's own. -/
theorem Ctx.poke_own_slots (h : c.Fits) (hne : 0 < bs.length) (hk : c.P.core? (c.P.coreOf c.gid) = some k)
    (hown : ∀ y, addr ≤ y → y < addr + bs.length → c.reach (y / 4096) = .own 1) :
    ∃ k₁, c.OnCore (c.poke addr bs) ∧ (c.poke addr bs).P.core? (c.P.coreOf c.gid) = some k₁ ∧
      ∀ y, Cells.get 0 k₁.scratch y = if addr ≤ y ∧ y < addr + bs.length then bs.getD (y - addr) 0 else Cells.get 0 k.scratch y := by
  have hslots (slots : List Nat) (hslots : ∀ slot ∈ slots, ∃ y, y / 4096 = slot ∧ addr ≤ y ∧ y < addr + bs.length) :
      ∃ k₁, c.OnCore ((slots.map (slotPiece addr bs.length)).foldl (Ctx.pokePiece addr bs) c) ∧
        ((slots.map (slotPiece addr bs.length)).foldl (Ctx.pokePiece addr bs) c).P.core? (c.P.coreOf c.gid) = some k₁ ∧
        ∀ y, Cells.get 0 k₁.scratch y = if y / 4096 ∈ slots ∧ addr ≤ y ∧ y < addr + bs.length then bs.getD (y - addr) 0 else Cells.get 0 k.scratch y := by
    induction slots generalizing c k with
    | nil => exact ⟨k, .refl h, hk, fun y => (if_neg fun hy => nomatch hy.1).symm⟩
    | cons slot slots ih =>
      obtain ⟨y₀, hslot, hlow, hhigh⟩ := hslots slot List.mem_cons_self
      obtain ⟨k₁, hon, hk₁, hget⟩ := Ctx.pokePiece_own (bs := bs) h (slot := slot) (addr := addr) (by omega) hk (hslot ▸ hown y₀ hlow hhigh)
      obtain ⟨k₂, hon₂, hk₂, hget₂⟩ := ih hon.leads.fits (hon.coreOf.symm ▸ hk₁) (fun y hl hh => (hon.reach _).trans (hown y hl hh))
        fun s hs => hslots s (List.mem_cons_of_mem _ hs)
      rw [hon.coreOf] at hk₂
      refine ⟨k₂, hon.trans hon₂, hk₂, fun y => (hget₂ y).trans ?_⟩
      rw [hget y]
      by_cases hrange : addr ≤ y ∧ y < addr + bs.length
      · by_cases hrest : y / 4096 ∈ slots
        · rw [if_pos ⟨hrest, hrange⟩, if_pos ⟨List.mem_cons_of_mem _ hrest, hrange⟩]
        · rw [if_neg fun hy => hrest hy.1]
          by_cases hthis : y / 4096 = slot
          · rw [if_pos ⟨hthis, hrange⟩, if_pos ⟨hthis ▸ List.mem_cons_self, hrange⟩]
          · rw [if_neg fun hy => hthis hy.1, if_neg fun hy => (List.mem_cons.1 hy.1).elim hthis hrest]
      · rw [if_neg fun hy => hrange hy.2, if_neg fun hy => hrange hy.2, if_neg fun hy => hrange hy.2]
  obtain ⟨k₁, hon, hk₁, hget⟩ := hslots (touched 4096 addr bs.length) fun slot hslot => by
    obtain ⟨j, hj, rfl⟩ := List.mem_map.1 hslot
    have hj := List.mem_range.1 hj
    exact ⟨max addr ((addr / 4096 + j) * 4096), by omega⟩
  refine ⟨k₁, hon, hk₁, fun y => (hget y).trans ?_⟩
  by_cases hrange : addr ≤ y ∧ y < addr + bs.length
  · rw [if_pos hrange, if_pos ⟨List.mem_map.2 ⟨y / 4096 - addr / 4096, List.mem_range.2 (by omega), by omega⟩, hrange⟩]
  · rw [if_neg hrange, if_neg fun hy => hrange hy.2]

/-! ## Runs of bytes -/

theorem mem_byteRuns (f : Nat → Byte) (addrs : List Nat) :
    (∀ r ∈ byteRuns (addrs.map fun a => (a, f a)), 0 < r.2.length ∧ ∀ j < r.2.length, r.2.getD j 0 = f (r.1 + j)) ∧
    ∀ y, (∃ r ∈ byteRuns (addrs.map fun a => (a, f a)), r.1 ≤ y ∧ y < r.1 + r.2.length) ↔ y ∈ addrs := by
  induction addrs with
  | nil => 
    refine ⟨nofun, fun y => ⟨fun h => ?_, nofun⟩⟩
    obtain ⟨_, hr, -⟩ := h
    nomatch hr
  | cons a addrs ih =>
    rw [List.map_cons, byteRuns]
    generalize byteRuns (addrs.map fun a => (a, f a)) = runs at ih
    obtain ⟨hbytes, hmem⟩ := ih
    cases runs with
    | nil =>
      refine ⟨fun r hr => ?_, fun y => ?_⟩
      · obtain rfl := List.mem_singleton.1 hr
        refine ⟨Nat.one_pos, fun j hj => ?_⟩
        obtain rfl : j = 0 := by
          change j < 1 at hj
          omega
        rfl
      · rw [List.mem_cons, ← hmem y]
        constructor
        · rintro ⟨r, hr, hlow, hhigh⟩
          obtain rfl := List.mem_singleton.1 hr
          change y < a + 1 at hhigh
          exact .inl (by change a ≤ y at hlow; omega)
        · rintro (rfl | ⟨_, hr, -⟩)
          · exact ⟨_, List.mem_singleton.2 rfl, Nat.le_refl _, Nat.lt_succ_self _⟩
          · nomatch hr
    | cons r more =>
      obtain ⟨a', bs⟩ := r
      dsimp only
      obtain ⟨hne, hbs⟩ := hbytes (a', bs) List.mem_cons_self
      dsimp only at hne hbs
      by_cases hnext : a' = a + 1
      · subst hnext
        rw [if_pos rfl]
        refine ⟨fun r hr => ?_, fun y => ?_⟩
        · rcases List.mem_cons.1 hr with rfl | hr
          · refine ⟨Nat.succ_pos _, fun j hj => ?_⟩
            cases j with
            | zero => rfl
            | succ j =>
              rw [List.getD_cons_succ, hbs j (Nat.lt_of_succ_lt_succ hj), Nat.add_assoc, Nat.add_comm 1 j]
          · exact hbytes r (List.mem_cons_of_mem _ hr)
        · rw [List.mem_cons, ← hmem y]
          constructor
          · rintro ⟨r, hr, hlow, hhigh⟩
            rcases List.mem_cons.1 hr with rfl | hr
            · dsimp only at hlow hhigh
              rw [List.length_cons] at hhigh
              by_cases hy : y = a
              · exact .inl hy
              · exact .inr ⟨_, List.mem_cons_self, by dsimp only; omega, by dsimp only; omega⟩
            · exact .inr ⟨r, List.mem_cons_of_mem _ hr, hlow, hhigh⟩
          · rintro (rfl | ⟨r, hr, hlow, hhigh⟩)
            · exact ⟨_, List.mem_cons_self, Nat.le_refl _, by dsimp only; rw [List.length_cons]; omega⟩
            · rcases List.mem_cons.1 hr with rfl | hr
              · dsimp only at hlow hhigh
                exact ⟨_, List.mem_cons_self, by dsimp only; omega, by dsimp only; rw [List.length_cons]; omega⟩
              · exact ⟨r, List.mem_cons_of_mem _ hr, hlow, hhigh⟩
      · rw [if_neg hnext]
        refine ⟨fun r hr => ?_, fun y => ?_⟩
        · rcases List.mem_cons.1 hr with rfl | hr
          · refine ⟨Nat.one_pos, fun j hj => ?_⟩
            obtain rfl : j = 0 := by
              change j < 1 at hj
              omega
            rfl
          · exact hbytes r hr
        · rw [List.mem_cons, ← hmem y]
          constructor
          · rintro ⟨r, hr, hlow, hhigh⟩
            rcases List.mem_cons.1 hr with rfl | hr
            · change a ≤ y at hlow
              change y < a + 1 at hhigh
              exact .inl (by omega)
            · exact .inr ⟨r, hr, hlow, hhigh⟩
          · rintro (rfl | ⟨r, hr, hlow, hhigh⟩)
            · exact ⟨_, List.mem_cons_self, Nat.le_refl _, Nat.lt_succ_self _⟩
            · exact ⟨r, List.mem_cons_of_mem _ hr, hlow, hhigh⟩

/-- Runs of bytes that agree with a function of the address, stored in slots that are all the team's own. -/
theorem Ctx.pokeRuns_own (f : Nat → Byte) (runs : List (Nat × List Byte)) (h : c.Fits) (hk : c.P.core? (c.P.coreOf c.gid) = some k)
    (hbytes : ∀ r ∈ runs, 0 < r.2.length ∧ ∀ j < r.2.length, r.2.getD j 0 = f (r.1 + j))
    (hown : ∀ r ∈ runs, ∀ y, r.1 ≤ y → y < r.1 + r.2.length → c.reach (y / 4096) = .own 1) :
    ∃ k₁, c.OnCore (runs.foldl (fun c r => c.poke r.1 r.2) c) ∧ (runs.foldl (fun c r => c.poke r.1 r.2) c).P.core? (c.P.coreOf c.gid) = some k₁ ∧
      (∀ y, (∃ r ∈ runs, r.1 ≤ y ∧ y < r.1 + r.2.length) → Cells.get 0 k₁.scratch y = f y) ∧
      ∀ y, (¬∃ r ∈ runs, r.1 ≤ y ∧ y < r.1 + r.2.length) → Cells.get 0 k₁.scratch y = Cells.get 0 k.scratch y := by
  induction runs generalizing c k with
  | nil => exact ⟨k, .refl h, hk, fun y hy => (by obtain ⟨_, hr, -⟩ := hy; nomatch hr), fun _ _ => rfl⟩
  | cons r runs ih =>
    obtain ⟨k₁, hon, hk₁, hget⟩ := Ctx.poke_own_slots h (hbytes r List.mem_cons_self).1 hk (hown r List.mem_cons_self)
    obtain ⟨k₂, hon₂, hk₂, hin, hout⟩ := ih hon.leads.fits (hon.coreOf.symm ▸ hk₁) (fun x hx => hbytes x (List.mem_cons_of_mem _ hx))
      fun x hx y hl hh => (hon.reach _).trans (hown x (List.mem_cons_of_mem _ hx) y hl hh)
    rw [hon.coreOf] at hk₂
    refine ⟨k₂, hon.trans hon₂, hk₂, fun y hy => ?_, fun y hy => ?_⟩
    · by_cases hrest : ∃ x ∈ runs, x.1 ≤ y ∧ y < x.1 + x.2.length
      · exact hin y hrest
      · obtain ⟨x, hx, hrange⟩ := hy
        rcases List.mem_cons.1 hx with rfl | hx
        · rw [hout y hrest, hget y, if_pos hrange, (hbytes x List.mem_cons_self).2 (y - x.1) (by omega)]
          congr 1
          omega
        · exact absurd ⟨x, hx, hrange⟩ hrest
    · rw [hout y fun ⟨x, hx, hrange⟩ => hy ⟨x, List.mem_cons_of_mem _ hx, hrange⟩, hget y, if_neg fun hrange => hy ⟨r, List.mem_cons_self, hrange⟩]
end

end Sys2Proof.Machine
end

section
/-!
SUPPORT and PROOF. Loads, line accesses, probes and copies as they happen (spec/09_core_memory_instr.md R202, R204, R212, R214,
spec/16_die.md R299, R320, R321, R330).
-/
namespace Sys2Proof.Machine
open Sys2Proof.Spec

/-! ## What an event leaves -/

section
variable {s t : State} {p : PartNo} {P : Part} {i : Instr} {rel : Part → Prop} {g : Group} {gid op : Nat}

/-- An event that puts its partition in place changes nothing else. -/
theorem becomes_of_setPart (he : exec i s = .next (s.setPart p P)) (h : rel P) : Becomes i s p rel :=
  ⟨_, P, he, State.part?_setPart_same .., h, fun _ hq => State.part?_setPart_ne s P hq, fun _ => rfl⟩

theorem Part.modGroup_of (hg : P.group? gid = some g) (f : Group → Group) : P.modGroup gid f = P.setGroup gid (f g) := by
  rw [Part.modGroup, hg]

theorem Part.group?_modGroup_of (hg : P.group? gid = some g) (f : Group → Group) : (P.modGroup gid f).group? gid = some (f g) := by
  rw [Part.modGroup_of hg]
  exact Part.group?_setGroup _ _ _ _ hg

theorem Part.ops_modGroup (P : Part) (gid : Nat) (f : Group → Group) : (P.modGroup gid f).run.ops = P.run.ops := by
  unfold Part.modGroup
  cases P.group? gid with
  | none => rfl
  | some g => exact Part.ops_setGroup ..

theorem Part.cores_modGroup (P : Part) (gid : Nat) (f : Group → Group) : (P.modGroup gid f).run.cores = P.run.cores := by
  unfold Part.modGroup
  cases P.group? gid with
  | none => rfl
  | some g => exact Part.cores_setGroup ..

theorem Part.lines_modGroup (P : Part) (gid : Nat) (f : Group → Group) : (P.modGroup gid f).run.lines = P.run.lines := by
  unfold Part.modGroup
  cases P.group? gid with
  | none => rfl
  | some g => exact Part.lines_setGroup ..

/-- The return of an operation to a group (R29). -/
theorem Group.returned_lower' (g : Group) (path : Path) (op : Nat) : Returned g (g.lower' path op) path op := rfl

theorem Group.inflight_wake (g : Group) : g.wake.inflight = g.inflight := by
  unfold Group.wake
  split <;> rfl

theorem Group.wake_kept (g : Group) : g.wake.pc = g.pc ∧ g.wake.q = g.q ∧ g.wake.s = g.s ∧ g.wake.v = g.v := by
  unfold Group.wake
  split <;> exact ⟨rfl, rfl, rfl, rfl⟩

/-! ## A load returns (R202, R206) -/

theorem Group.withWords_operations (g : Group) (d : Nat) (js lanes : List Nat) (x : Nat → Nat → Word) :
    (g.withWords d js lanes x).inflight = g.inflight ∧ (g.withWords d js lanes x).windows = g.windows := by
  induction js generalizing g with
  | nil => exact ⟨rfl, rfl⟩
  | cons j js ih =>
    obtain ⟨hinflight, hwindows⟩ := ih (g.writeV (d + j) (lanes.map fun l => (l, x j l)))
    have hframe := g.writeV_frame (d + j) (lanes.map fun l => (l, x j l))
    exact ⟨hinflight.trans (by rw [hframe]), hwindows.trans (by rw [hframe])⟩

/-- The words that a load brings to a lane. -/
def loadedWord (lanes : List LaneLoad) (size j l : Nat) : Word := ((lanes.find? fun x => x.lane == l).map fun x => x.word size j).getD 0

/-- A group in whose registers a load's data have come. -/
def Group.loaded (g : Group) (dst size : Nat) (lanes : List LaneLoad) : Group :=
  g.withWords dst (List.range ((size + 3) / 4)) (lanes.map LaneLoad.lane) (loadedWord lanes size)

variable {lanes : List LaneLoad} {dst size : Nat}

theorem find?_lane (hpair : lanes.Pairwise fun a b => a.lane ≠ b.lane) {x : LaneLoad} (hx : x ∈ lanes) : (lanes.find? fun y => y.lane == x.lane) = some x := by
  induction lanes with
  | nil => nomatch hx
  | cons y lanes ih =>
    obtain ⟨hy, hrest⟩ := List.pairwise_cons.1 hpair
    rcases List.mem_cons.1 hx with rfl | hx
    · exact List.find?_cons_of_pos (beq_self_eq_true _)
    · rw [List.find?_cons_of_neg (by rw [beq_iff_eq]; exact hy x hx)]
      exact ih hrest hx

theorem Group.loaded_eq (hpair : lanes.Pairwise fun a b => a.lane ≠ b.lane) (g : Group) (dst size : Nat) :
    (List.range ((size + 3) / 4)).foldl (fun g j => g.writeV (dst + j) (lanes.map fun l => (l.lane, l.word size j))) g = g.loaded dst size lanes := by
  refine congrArg (fun f => (List.range ((size + 3) / 4)).foldl f g) (funext fun g => funext fun j => congrArg (g.writeV (dst + j)) ?_)
  rw [List.map_map]
  refine List.map_congr_left fun x hx => ?_
  rw [Function.comp_apply, loadedWord, find?_lane hpair hx]
  rfl

/-- A group once its load has returned. -/
def Group.loadReturned (g : Group) (op dst size : Nat) (scalar : Bool) (lanes : List LaneLoad) : Group :=
  ((if scalar then
      match lanes with
      | [] => g
      | l :: _ => g.setS (BitVec.ofNat 5 dst) (BitVec.ofNat 64 (leNat ((List.range 8).map fun k => Table.getD l.bytes k 0)))
    else (List.range ((size + 3) / 4)).foldl (fun g j => g.writeV (dst + j) (lanes.map fun l => (l.lane, l.word size j))) g).lower' .ld op).opened op

theorem exec_loadReturn {scalar : Bool} (hP : s.part? p = some P) (hop : Table.get? P.run.ops op = some (.load gid dst size scalar lanes))
    (hg : P.group? gid = some g) (hlines : P.run.lines.all (fun e => e.2.op != op) = true)
    (hsights : ∀ e ∈ P.run.sights, e.op = op → ∀ w ∈ g.windows, w.op = op → w.wide = false) (hclean : ∀ l ∈ lanes, l.poison = false) :
    exec (.loadReturn p op) s = .next (s.setPart p ((P.dropOp op).modGroup gid fun g => g.loadReturned op dst size scalar lanes)) := by
  have h₁ : (P.run.lines.any fun e => e.2.op == op) = false := List.any_eq_false.2 fun e he heq =>
    bne_iff_ne.1 (List.all_eq_true.1 hlines e he) (beq_iff_eq.1 heq)
  have h₂ : (((P.group? gid).any fun g => g.windows.any fun w => w.op == op && w.wide) && P.run.sights.any fun e => e.op == op) = false := by
    rw [hg, Option.any_some, Bool.eq_false_iff]
    intro hboth
    obtain ⟨hwindows, hsight⟩ := Bool.and_eq_true_iff.1 hboth
    obtain ⟨w, hw, hwide⟩ := List.any_eq_true.1 hwindows
    obtain ⟨e, he, heq⟩ := List.any_eq_true.1 hsight
    obtain ⟨hwop, hwide⟩ := Bool.and_eq_true_iff.1 hwide
    rw [hsights e he (beq_iff_eq.1 heq) w hw (beq_iff_eq.1 hwop)] at hwide
    exact Bool.false_ne_true hwide
  have h₃ : lanes.any LaneLoad.poison = false := List.any_eq_false.2 fun l hl => by
    rw [hclean l hl]
    exact Bool.false_ne_true
  change execLoadReturn p op s = _
  rw [execLoadReturn, hP, Option.bind_some, hop]
  dsimp only [Option.map_some]
  rw [h₁, if_neg Bool.false_ne_true, h₂, if_neg Bool.false_ne_true, h₃, if_neg Bool.false_ne_true]
  rfl

theorem laneWord_toNat (l : LaneLoad) (size j : Nat) :
    (l.word size j).toNat = leNat ((List.range (min 4 (size - 4 * j))).map fun k => Table.getD l.bytes (4 * j + k) 0) := by
  rw [LaneLoad.word, BitVec.toNat_ofNat, Nat.mod_eq_of_lt]
  refine Nat.lt_of_lt_of_le (leNat_lt _) ?_
  rw [List.length_map, List.length_range, show 2 ^ 32 = 256 ^ 4 by decide]
  exact Nat.pow_le_pow_right (by decide) (Nat.min_le_left ..)

/-- A group to which an operation of a path has returned, its window closed. -/
def Group.backFrom (g : Group) (path : Path) (op : Nat) : Group := (g.lower' path op).opened op

/-- What the wake, the return and the closed window of an operation leave of a group. -/
theorem Group.backFrom_kept (g : Group) (path : Path) (op : Nat) : (∀ w ∈ (g.backFrom path op).windows, w.op = op → w.done = true) ∧
    (g.backFrom path op).inflight = retire path (g.inflight.map fun e => if e.op = op ∧ e.path = path then { e with done := true } else e) ∧
    (g.backFrom path op).pc = g.pc ∧ (g.backFrom path op).q = g.q ∧ (g.backFrom path op).s = g.s ∧ (g.backFrom path op).v = g.v := by
  obtain ⟨hpc, hq, hs, hv⟩ := g.wake_kept
  obtain ⟨hpc', hq', hs', hv'⟩ := (g.lower' path op).wake_kept
  refine ⟨fun w hw hop => ?_, Group.inflight_wake .., hpc'.trans hpc, hq'.trans hq, hs'.trans hs, hv'.trans hv⟩
  obtain ⟨w₀, -, rfl⟩ := List.mem_map.1 hw
  by_cases h : w₀.op = op
  · rw [if_pos h]
  · rw [if_neg h] at hop
    exact absurd hop h

theorem Group.loadReturned_vector (hpair : lanes.Pairwise fun a b => a.lane ≠ b.lane) (g : Group) (op dst size : Nat) :
    g.loadReturned op dst size false lanes = (g.loaded dst size lanes).backFrom .ld op := by
  rw [← Group.loaded_eq hpair]
  rfl

theorem Group.loadReturned_scalar (g : Group) (op dst size : Nat) (l : LaneLoad) (lanes : List LaneLoad) :
    g.loadReturned op dst size true (l :: lanes) =
      (g.setS (BitVec.ofNat 5 dst) (BitVec.ofNat 64 (leNat ((List.range 8).map fun k => Table.getD l.bytes k 0)))).backFrom .ld op := by
  rw [Group.loadReturned, if_pos rfl, Group.backFrom]

theorem Group.vreg_loaded (hlanes : ∀ l ∈ lanes, l.lane < 32) (g : Group) {r l : Nat} (hl : l < 32) : (g.loaded dst size lanes).vreg r l =
    if (∃ j ∈ List.range ((size + 3) / 4), r = dst + j) ∧ l ∈ lanes.map LaneLoad.lane then loadedWord lanes size (r - dst) l else g.vreg r l :=
  Group.vreg_withWords g dst _ _ _ (fun i hi => by
    obtain ⟨x, hx, rfl⟩ := List.mem_map.1 hi
    exact hlanes x hx) hl

/-- What a load leaves of its group, for vector registers. -/
theorem Group.loadReturned_vreg (hpair : lanes.Pairwise fun a b => a.lane ≠ b.lane) (hlanes : ∀ l ∈ lanes, l.lane < 32) (g : Group) (op : Nat) {r k : Nat} (hk : k < 32) :
    (g.loadReturned op dst size false lanes).vreg r k = (g.loaded dst size lanes).vreg r k := by
  rw [Group.loadReturned_vector hpair, Group.vreg, Group.vreg, ((g.loaded dst size lanes).backFrom_kept .ld op).2.2.2.2.2]

/-- What stands of a group once a load has returned, whichever registers it wrote. -/
theorem Group.loadReturned_kept (hpair : lanes.Pairwise fun a b => a.lane ≠ b.lane) (g : Group) (op dst size : Nat) (scalar : Bool) :
    Returned g (g.loadReturned op dst size scalar lanes) .ld op ∧
      (∀ w ∈ (g.loadReturned op dst size scalar lanes).windows, w.op = op → w.done = true) ∧
      (g.loadReturned op dst size scalar lanes).pc = g.pc ∧ (g.loadReturned op dst size scalar lanes).q = g.q ∧
      (scalar = false → (g.loadReturned op dst size scalar lanes).s = g.s) ∧ (scalar = true → (g.loadReturned op dst size scalar lanes).v = g.v) := by
  have hfrom {g₁ : Group} (hinflight : g₁.inflight = g.inflight) (hpc : g₁.pc = g.pc) (hq : g₁.q = g.q) (hs : scalar = false → g₁.s = g.s)
      (hv : scalar = true → g₁.v = g.v) : Returned g (g₁.backFrom .ld op) .ld op ∧ (∀ w ∈ (g₁.backFrom .ld op).windows, w.op = op → w.done = true) ∧
      (g₁.backFrom .ld op).pc = g.pc ∧ (g₁.backFrom .ld op).q = g.q ∧ (scalar = false → (g₁.backFrom .ld op).s = g.s) ∧
      (scalar = true → (g₁.backFrom .ld op).v = g.v) := by
    obtain ⟨hdone, hback, hpc', hq', hs', hv'⟩ := g₁.backFrom_kept .ld op
    exact ⟨hback.trans (by rw [hinflight]), hdone, hpc'.trans hpc, hq'.trans hq, fun h => hs'.trans (hs h), fun h => hv'.trans (hv h)⟩
  cases scalar with
  | true =>
    cases lanes with
    | nil => exact hfrom (g₁ := g) rfl rfl rfl (fun _ => rfl) fun _ => rfl
    | cons l lanes =>
      rw [Group.loadReturned_scalar]
      generalize BitVec.ofNat 64 (leNat ((List.range 8).map fun k => Table.getD l.bytes k 0)) = x
      exact hfrom (g₁ := g.setS (BitVec.ofNat 5 dst) x) rfl rfl rfl (fun h => nomatch h) fun _ => rfl
  | false =>
    rw [Group.loadReturned_vector hpair]
    obtain ⟨hpc, hs, hq⟩ := g.withWords_kept dst (List.range ((size + 3) / 4)) (lanes.map LaneLoad.lane) (loadedWord lanes size)
    obtain ⟨hinflight, -⟩ := g.withWords_operations dst (List.range ((size + 3) / 4)) (lanes.map LaneLoad.lane) (loadedWord lanes size)
    exact hfrom hinflight hpc hq (fun _ => hs) fun h => nomatch h

theorem loadsReturn : LoadsReturn := by
  intro s p P op gid dst size scalar lanes g hP hop hg hlines hsights hlanes hpair
  have hg₁ : (P.dropOp op).group? gid = some g := (Part.group?_dropOp ..).trans hg
  obtain ⟨hreturned, hdone, hpc, hq, hs, hv⟩ := g.loadReturned_kept hpair op dst size scalar
  refine becomes_of_setPart (exec_loadReturn hP hop hg hlines hsights fun l hl => (hlanes l hl).2)
    ⟨?_, _, Part.group?_modGroup_of hg₁ _, hreturned, hdone, hpc, hq, fun h => ⟨hs h, ?_, ?_⟩, fun h => ⟨hv h, ?_⟩⟩
  · rw [Part.ops_modGroup]
    exact Part.op_dropOp ..
  · subst h
    intro j hj l hl
    have hlane := (hlanes l hl).1
    rw [Group.loadReturned_vreg hpair (fun l hl => (hlanes l hl).1) g op hlane, Group.vreg_loaded (fun l hl => (hlanes l hl).1) g hlane,
      if_pos ⟨⟨j, List.mem_range.2 hj, rfl⟩, List.mem_map_of_mem hl⟩, Nat.add_sub_cancel_left, loadedWord, find?_lane hpair hl]
    exact laneWord_toNat l size j
  · subst h
    intro r k hk hout
    rw [Group.loadReturned_vreg hpair (fun l hl => (hlanes l hl).1) g op hk, Group.vreg_loaded (fun l hl => (hlanes l hl).1) g hk, if_neg]
    rintro ⟨⟨j, hj, rfl⟩, hmem⟩
    obtain ⟨l, hl, rfl⟩ := List.mem_map.1 hmem
    rcases hout with hout | hout | hout
    · omega
    · exact absurd (List.mem_range.1 hj) (by omega)
    · exact hout l hl rfl
  · subst h
    rintro l rfl hdst
    rw [Group.loadReturned_scalar, Group.sreg, (Group.backFrom_kept _ .ld op).2.2.2.2.1, ← Group.sreg,
      ((g.setS_written (BitVec.ofNat 5 dst) _).1 : _ = _), BitVec.toNat_ofNat, Nat.mod_eq_of_lt]
    refine Nat.lt_of_lt_of_le (leNat_lt _) ?_
    rw [List.length_map, List.length_range]
    decide
end

/-! ## A line is served (R299, R320, R321) -/

section
variable {s : State} {p : PartNo} {P : Part} {id : Nat} {r : LineReq}

theorem Part.mode_modGroup (P : Part) (gid : Nat) (f : Group → Group) : (P.modGroup gid f).mode = P.mode := by
  unfold Part.modGroup
  cases P.group? gid with
  | none => rfl
  | some g => exact Part.mode_setGroup ..

/-- What of a state a change of its partition leaves: all but the partitions, and of them the others. -/
structure State.Beside (s t : State) (p : PartNo) : Prop where
  same : t = { s with parts := t.parts, late := t.late }
  others : ∀ q, q ≠ p → t.part? q = s.part? q

theorem State.Beside.refl (s : State) (p : PartNo) : s.Beside s p := ⟨rfl, fun _ _ => rfl⟩
theorem State.Beside.byte {t : State} (h : s.Beside t p) (a : Nat) : t.byte a = s.byte a := by
  rw [h.same]
  rfl
theorem State.Beside.poisoned {t : State} (h : s.Beside t p) (a : Nat) : t.poisoned a = s.poisoned a := by
  rw [h.same]
  rfl
theorem State.Beside.modPart {t : State} (h : s.Beside t p) (f : Part → Part) : s.Beside (t.modPart p f) p :=
  ⟨by rw [h.same]; rfl, fun q hq => (State.part?_modPart_ne t f hq).trans (h.others q hq)⟩

/-- A request that is taken leaves the pending ones; its operation stays. -/
theorem State.lineTaken_spec (hP : s.part? p = some P) (id : Nat) (hmode : r.gated = false ∨ P.mode = 0 ∨ P.mode = 1) :
    s.Beside (s.lineTaken p id r) p ∧ (s.lineTaken p id r).late = s.late ∧ ∃ P₁, (s.lineTaken p id r).part? p = some P₁ ∧
      Table.get? P₁.run.lines id = none ∧ P₁.run.ops = P.run.ops := by
  let P₁ := (P.modRun fun run => { run with lines := Table.erase run.lines id }).modGroup r.gid Group.wake
  have hP₁ : (s.modPart p fun P => (P.modRun fun run => { run with lines := Table.erase run.lines id }).modGroup r.gid Group.wake).part? p = some P₁ :=
    State.part?_modPart_some hP _
  have hline : Table.get? P₁.run.lines id = none := by
    rw [Part.lines_modGroup]
    exact (Table.get?_erase ..).trans (if_pos rfl)
  have hops : P₁.run.ops = P.run.ops := Part.ops_modGroup ..
  have hbeside := (State.Beside.refl s p).modPart fun P => (P.modRun fun run => { run with lines := Table.erase run.lines id }).modGroup r.gid Group.wake
  unfold State.lineTaken
  dsimp only
  cases hgated : r.gated with
  | false => exact ⟨hbeside, rfl, P₁, hP₁, hline, hops⟩
  | true =>
    have hm : P₁.mode ≠ mRECORD := by
      rw [Part.mode_modGroup]
      rcases hmode with h | h
      · rw [hgated] at h
        nomatch h
      · change P.mode ≠ mRECORD
        unfold mRECORD
        omega
    rw [Bool.not_true, if_neg Bool.false_ne_true, hP₁]
    dsimp only
    rw [if_neg hm]
    exact ⟨hbeside.modPart _, rfl, _, State.part?_modPart_some hP₁ _, hline, hops⟩

theorem Part.lineOpen_free (h : r.gated = false ∨ P.mode = 0 ∨ P.mode = 1) : P.lineOpen r = true := by
  rw [Part.lineOpen]
  rcases h with h | h
  · rw [h]
    rfl
  · rw [if_neg (by unfold mRECORD; omega), if_neg (by unfold mSTEERED; omega), if_neg (by unfold mEXPLORE; omega), Bool.or_true]

theorem LineReq.gated_of_obs (h : r.obs = false ∨ P.mode = 0 ∨ P.mode = 1) : r.gated = false ∨ P.mode = 0 ∨ P.mode = 1 :=
  h.imp_left fun h => by rw [LineReq.gated, h, Bool.false_and]

theorem exec_lineAccess (hP : s.part? p = some P) (hr : Table.get? P.run.lines id = some r) (hfree : P.lineFree id r = true)
    (hopen : r.gated = false ∨ P.mode = 0 ∨ P.mode = 1) : exec (.lineAccess p id) s = .next (match r.kind with
      | .read bs => (s.lineTaken p id r).serveRead p r bs
      | .write bytes poison => s.serveWrite p id r bytes poison
      | .check off => (s.allSeen.lineTaken p id r).serveCheck p r off) := by
  change execLineAccess p id s = _
  rw [execLineAccess, hP, Option.bind_some, hr]
  dsimp only [Option.map_some]
  rw [hfree, Part.lineOpen_free hopen, Bool.and_self, Bool.not_true, if_neg Bool.false_ne_true] <;> rfl

/-- The bytes that a slice reads come to the lanes of their load. -/
theorem Part.op_deliver {op gid dst size : Nat} {scalar : Bool} {lanes : List LaneLoad} {bs : List (Nat × Byte)}
    (h : Table.get? P.run.ops op = some (.load gid dst size scalar lanes)) :
    Table.get? (P.deliver op bs).run.ops op = some (.load gid dst size scalar (lanes.map fun l =>
      { l with bytes := (bs.filter fun b => b.1 / 16 == l.lane).foldl (fun t b => Table.set t (b.1 % 16) b.2) l.bytes })) := by
  rw [Part.deliver, h]
  refine (Table.get?_set_same ..).trans (congrArg (fun f => some (Op.load gid dst size scalar (lanes.map f))) (funext fun l => ?_))
  rw [List.foldl_filter]
  simp only [beq_iff_eq]

theorem Part.lines_deliver (P : Part) (op : Nat) (bs : List (Nat × Byte)) : (P.deliver op bs).run.lines = P.run.lines := by
  unfold Part.deliver
  split <;> rfl

/-- A byte of a line as the core of a request sees it. -/
def LineReq.sees (r : LineReq) (s : State) (off : Nat) : Byte :=
  match s.late.find? fun w => !r.obs && w.pline == r.pline && w.unseen.contains r.core with
  | some w => w.before.getD off 0
  | none => s.byte (r.pline * 128 + off)

theorem State.seenByte_read (s : State) (r : LineReq) (off : Nat) :
    (if r.obs then s.allSeen else s).seenByte r.core r.pline off = r.sees s off := by
  rw [LineReq.sees, State.seenByte, State.unseen?]
  cases r.obs with
  | true =>
    have hnone : (s.late.find? fun w => !true && w.pline == r.pline && w.unseen.contains r.core) = none :=
      List.find?_eq_none.2 fun w _ => by
        rw [Bool.not_true, Bool.false_and, Bool.false_and]
        exact Bool.false_ne_true
    rw [hnone]
    rfl
  | false =>
    have hsame : (fun w : Late => !false && w.pline == r.pline && w.unseen.contains r.core) = fun w => w.pline == r.pline && w.unseen.contains r.core :=
      funext fun w => by rw [Bool.not_false, Bool.true_and]
    rw [hsame]
    rfl

theorem State.Beside.allSeen {t : State} (h : s.Beside t p) : s.Beside t.allSeen p := ⟨by rw [h.same]; rfl, h.others⟩
theorem State.Beside.sees {t : State} (h : s.Beside t p) (core pline : Nat) : s.Beside (t.sees core pline) p := ⟨by rw [h.same]; rfl, h.others⟩

/-- A read without a poisoned word brings its bytes to its operation. -/
theorem State.serveRead_spec {bs : List (Nat × Nat)} (hP : s.part? p = some P) (hclean : ∀ b ∈ bs, s.poisoned (r.pline * 128 + b.1) = false) :
    s.Beside (s.serveRead p r bs) p ∧ ∃ P₁, (s.serveRead p r bs).part? p = some P₁ ∧ P₁.run.lines = P.run.lines ∧
      P₁.run.ops = (P.deliver r.op (bs.map fun b => (b.2, r.sees s b.1))).run.ops := by
  have hnone : (bs.find? fun b => s.poisoned (r.pline * 128 + b.1)) = none := List.find?_eq_none.2 fun b hb => by
    rw [hclean b hb]
    exact Bool.false_ne_true
  unfold State.serveRead
  dsimp only
  rw [hnone]
  dsimp only
  simp only [State.seenByte_read]
  have hbeside : s.Beside (if r.obs then s.allSeen else s) p := by
    split
    · exact (State.Beside.refl s p).allSeen
    · exact .refl s p
  have hpart : (if r.obs then s.allSeen else s).part? p = some P := by
    split <;> exact hP
  generalize (if r.obs then s.allSeen else s) = s₁ at hbeside hpart
  have hbeside₂ : s.Beside (if (s₁.unseen? r.core r.pline).isSome then s₁ else s₁.sees r.core r.pline) p := by
    split
    · exact hbeside
    · exact hbeside.sees ..
  have hpart₂ : (if (s₁.unseen? r.core r.pline).isSome then s₁ else s₁.sees r.core r.pline).part? p = some P := by
    split <;> exact hpart
  exact ⟨hbeside₂.modPart _, _, State.part?_modPart_some hpart₂ _, Part.lines_deliver .., rfl⟩

theorem becomes_of_beside {t : State} {i : Instr} {rel : Part → Prop} {P' : Part} (he : exec i s = .next t) (hP : t.part? p = some P') (h : s.Beside t p)
    (hrel : rel P') : Becomes i s p rel := ⟨t, P', he, hP, hrel, h.others, h.byte⟩

theorem State.Beside.trans {t u : State} (h : s.Beside t p) (h' : t.Beside u p) : s.Beside u p :=
  ⟨by rw [h'.same, h.same], fun q hq => (h'.others q hq).trans (h.others q hq)⟩

theorem linesAreRead (s : State) (p : PartNo) (P : Part) (id : Nat) (r : LineReq) (bs : List (Nat × Nat)) (gid dst size : Nat) (scalar : Bool)
    (lanes : List LaneLoad) (hP : s.part? p = some P) (hr : Table.get? P.run.lines id = some r) (hkind : r.kind = .read bs)
    (hfree : P.lineFree id r = true) (hmode : r.obs = false ∨ P.mode = 0 ∨ P.mode = 1) (hclean : ∀ b ∈ bs, s.poisoned (r.pline * 128 + b.1) = false)
    (hop : Table.get? P.run.ops r.op = some (.load gid dst size scalar lanes)) :
    let seen (off : Nat) : Byte := match s.late.find? fun w => !r.obs && w.pline == r.pline && w.unseen.contains r.core with
      | some w => w.before.getD off 0
      | none => s.byte (r.pline * 128 + off)
    Becomes (.lineAccess p id) s p fun P' => Table.get? P'.run.lines id = none ∧
      Table.get? P'.run.ops r.op = some (.load gid dst size scalar (lanes.map fun l =>
        { l with
          bytes := List.foldl (fun t b => Table.set t (b.2 % 16) (seen b.1)) l.bytes
            (bs.filter fun b => b.2 / 16 == l.lane) })) := by
  intro seen
  obtain ⟨hbeside, hlate, P₁, hP₁, hline, hops⟩ := State.lineTaken_spec hP id (LineReq.gated_of_obs hmode)
  have hclean₁ : ∀ b ∈ bs, (s.lineTaken p id r).poisoned (r.pline * 128 + b.1) = false := fun b hb => (hbeside.poisoned _).trans (hclean b hb)
  obtain ⟨hbeside₂, P₂, hP₂, hlines, hops₂⟩ := State.serveRead_spec hP₁ hclean₁
  have hseen : (fun b : Nat × Nat => (b.2, r.sees (s.lineTaken p id r) b.1)) = fun b => (b.2, seen b.1) := by
    funext b
    rw [LineReq.sees, hlate, hbeside.byte]
  have he := exec_lineAccess hP hr hfree (LineReq.gated_of_obs hmode)
  rw [hkind] at he
  refine becomes_of_beside he hP₂ (hbeside.trans hbeside₂) ⟨by rw [hlines]; exact hline, ?_⟩
  rw [hops₂, hseen, Part.op_deliver (hops ▸ hop)]
  refine congrArg (fun f => some (Op.load gid dst size scalar (lanes.map f))) (funext fun l => ?_)
  rw [List.filter_map, List.foldl_map]
  rfl

/-! ### Writes of a `strel` -/

theorem get_foldl_set {bytes : Table Byte} (hnodup : (bytes.map Prod.fst).Nodup) (k : Nat) (m : Cells 8) :
    (∀ e ∈ bytes, Cells.get 0 (bytes.foldl (fun m e => Cells.set 0 m (k + e.1) e.2) m) (k + e.1) = e.2) ∧
    ∀ a, (∀ e ∈ bytes, a ≠ k + e.1) → Cells.get 0 (bytes.foldl (fun m e => Cells.set 0 m (k + e.1) e.2) m) a = Cells.get 0 m a := by
  induction bytes generalizing m with
  | nil => exact ⟨nofun, fun _ _ => rfl⟩
  | cons x bytes ih =>
    obtain ⟨hx, hrest⟩ := List.nodup_cons.1 hnodup
    obtain ⟨hin, hout⟩ := ih hrest (Cells.set 0 m (k + x.1) x.2)
    refine ⟨fun e he => ?_, fun a ha => (hout a fun e he => ha e (List.mem_cons_of_mem _ he)).trans
      ((Cells.get_set ..).trans (if_neg fun h => ha x List.mem_cons_self h.symm))⟩
    rcases List.mem_cons.1 he with rfl | he
    · refine (hout (k + e.1) fun y hy heq => hx ?_).trans ((Cells.get_set ..).trans (if_pos rfl))
      rw [Nat.add_left_cancel heq]
      exact List.mem_map_of_mem hy
    · exact hin e he

theorem State.Beside.shown (s : State) (p : PartNo) (P : Part) (r : LineReq) (poison : List Nat) (before : List Byte) : s.Beside (s.shown P r poison before) p := by
  unfold State.shown
  split
  · exact (State.Beside.refl s p).allSeen
  · dsimp only
    split
    · exact (State.Beside.refl s p).sees ..
    · exact ⟨rfl, fun _ _ => rfl⟩

theorem State.part?_shown (s : State) (p : PartNo) (P : Part) (r : LineReq) (poison : List Nat) (before : List Byte) : (s.shown P r poison before).part? p = s.part? p := by
  unfold State.shown
  split
  · rfl
  · dsimp only
    split <;> rfl

theorem linesAreWritten (s : State) (p : PartNo) (P : Part) (id : Nat) (r : LineReq) (bytes : Table Byte) (hP : s.part? p = some P)
    (hr : Table.get? P.run.lines id = some r) (hkind : r.kind = .write bytes []) (hflag : r.teamFlag = false) (hfree : P.lineFree id r = true)
    (hmode : r.obs = false ∨ P.mode = 0 ∨ P.mode = 1) (hsieve : P.sieve.snapshot = none) (hport : s.portDown (r.pline * 128) = false)
    (hnodup : (bytes.map Prod.fst).Nodup) : Reaches (.lineAccess p id) s p fun t P' => Table.get? P'.run.lines id = none ∧
      (∀ e ∈ bytes, t.byte (r.pline * 128 + e.1) = e.2) ∧
      ∀ a, (∀ e ∈ bytes, a ≠ r.pline * 128 + e.1) → t.byte a = s.byte a := by
  let s₁ := s.storeLine r.pline bytes []
  have hP₁ : s₁.part? p = some P := (State.part?_storeLine ..).trans hP
  let s₂ := s₁.shown P r [] (s.bytes (r.pline * 128) 128)
  have hP₂ : s₂.part? p = some P := (State.part?_shown ..).trans hP₁
  obtain ⟨hbeside, -, P₃, hP₃, hline, -⟩ := State.lineTaken_spec hP₂ id (LineReq.gated_of_obs hmode)
  have hserve : s.serveWrite p id r bytes [] = if 2 ^ 44 ≤ r.pline then (s₂.lineTaken p id r).modPart p fun P => { P with unacked := P.unacked ++ [r.pline] }
      else s₂.lineTaken p id r := by
    rw [State.serveWrite, hflag, Bool.false_and, if_neg Bool.false_ne_true, State.writeLine_plain hP hsieve hport]
    dsimp only
    rw [hP₁]
    exact if_neg Bool.false_ne_true
  have he := exec_lineAccess hP hr hfree (LineReq.gated_of_obs hmode)
  rw [hkind] at he
  dsimp only at he
  rw [hserve] at he
  have hbytes (t : State) (ht : s₁.Beside t p) : (∀ e ∈ bytes, t.byte (r.pline * 128 + e.1) = e.2) ∧
      ∀ a, (∀ e ∈ bytes, a ≠ r.pline * 128 + e.1) → t.byte a = s.byte a := by
    obtain ⟨hin, hout⟩ := get_foldl_set hnodup (r.pline * 128) s.mem
    exact ⟨fun e he => (ht.byte _).trans (hin e he), fun a ha => (ht.byte a).trans (hout a ha)⟩
  have hfrom : s₁.Beside (s₂.lineTaken p id r) p := (State.Beside.shown ..).trans hbeside
  split at he
  · exact ⟨_, _, he, State.part?_modPart_some hP₃ _, hline, hbytes _ (hfrom.modPart _)⟩
  · exact ⟨_, _, he, hP₃, hline, hbytes _ hfrom⟩

/-! ## Probes (R204) -/

theorem probesAreAnswered : ProbesAreAnswered := by
  intro s p P core op gid lines cores hP hop hmem hprobed hcommits
  have hin : cores.contains core.toNat = true := List.contains_iff_mem.2 hmem
  have hquiet : (P.run.teams.any fun e => e.2.core == core.toNat && e.2.commit.any fun c => c.filter.any lines.contains) = false :=
    List.any_eq_false.2 fun e he hbad => by
      obtain ⟨hcore, hcommit⟩ := Bool.and_eq_true_iff.1 hbad
      obtain ⟨c, hc, hany⟩ := (Option.any_eq_true _ _).1 hcommit
      obtain ⟨l, hl, hline⟩ := List.any_eq_true.1 hany
      exact hcommits e he (beq_iff_eq.1 hcore) c hc l hl (List.contains_iff_mem.1 hline)
  have he : exec (.releaseFilterProbe p core op) s =
      .next (s.setPart p ((P.setOp op (.probe gid lines (removeNum cores core.toNat))).modGroup gid Group.wake)) := by
    change execReleaseFilterProbe p core op s = _
    rw [execReleaseFilterProbe, hP, Option.bind_some, hop]
    dsimp only [Option.map_some]
    rw [hin, Bool.not_true, if_neg Bool.false_ne_true, hprobed, List.isEmpty_nil, if_pos rfl, hquiet, if_neg Bool.false_ne_true]
  refine becomes_of_setPart he ?_
  rw [Part.ops_modGroup]
  exact Table.get?_set_same ..
end

/-! ## Copies land (R212, R214) -/

section
variable {s : State} {p : PartNo} {c : Ctx} {gid op : Nat}

/-- The context of a group that the state has. -/
theorem State.ctx?_spec (h : s.ctx? p gid = some c) : c.Fits ∧ c.s = s ∧ c.p = p ∧ c.gid = gid := by
  unfold State.ctx? at h
  cases hP : s.part? p with
  | none =>
    rw [hP] at h
    nomatch h
  | some P =>
    rw [hP] at h
    obtain ⟨g, hg, rfl⟩ := Option.map_eq_some_iff.1 h
    exact ⟨⟨hP, hg⟩, rfl, rfl, rfl⟩

theorem Part.group?_endCopyIn {P : Part} {g : Group} (hg : P.group? gid = some g) (op : Nat) :
    (P.endCopyIn gid op).group? gid = some (g.lower' .cin op) := by
  refine Part.group?_modGroup_of (P := (P.dropOp op).modRun fun r => { r with lines := r.lines.filter fun e => e.2.op != op }) ?_ _
  exact (Part.group?_of_work rfl rfl gid).trans hg

theorem Part.group?_endCopyOut {P : Part} {g : Group} (hg : P.group? gid = some g) (op : Nat) :
    (P.endCopyOut gid op).group? gid = some (g.lower' .cout op) :=
  Part.group?_modGroup_of ((Part.group?_dropOp ..).trans hg) _

theorem Part.op_endCopyIn (P : Part) (gid op : Nat) : Table.get? (P.endCopyIn gid op).run.ops op = none := by
  rw [Part.endCopyIn, Part.ops_modGroup]
  exact Part.op_dropOp ..

theorem Part.op_endCopyOut (P : Part) (gid op : Nat) : Table.get? (P.endCopyOut gid op).run.ops op = none := by
  rw [Part.endCopyOut, Part.ops_modGroup]
  exact Part.op_dropOp ..

theorem Part.coreOf_modGroup (P : Part) (gid : Nat) (f : Group → Group) : (P.modGroup gid f).coreOf gid = P.coreOf gid := by
  unfold Part.modGroup
  cases P.group? gid with
  | none => rfl
  | some g => exact Part.coreOf_setGroup ..

theorem Part.cores_endCopyIn (P : Part) (gid op : Nat) : (P.endCopyIn gid op).run.cores = P.run.cores := Part.cores_modGroup ..

theorem Part.coreOf_endCopyIn (P : Part) (gid op : Nat) : (P.endCopyIn gid op).coreOf gid = P.coreOf gid :=
  (Part.coreOf_modGroup ..).trans rfl

/-- The partition that stands once a sector has landed, and the state has it. -/
theorem becomes_of_onCore {c₁ : Ctx} {i : Instr} {rel : Part → Prop} {P' : Part} (hc : s.ctx? p gid = some c) (hon : c.OnCore c₁)
    (he : exec i s = .next (c₁.s.setPart c₁.p P')) (hrel : rel P') : Becomes i s p rel := by
  obtain ⟨-, hs, hp, -⟩ := State.ctx?_spec hc
  rw [hon.leads.p, hp] at he
  refine ⟨_, P', he, State.part?_setPart_same .., hrel, fun q hq => (State.part?_setPart_ne c₁.s P' hq).trans ?_, fun a => (hon.leads.byte a).trans (by rw [hs])⟩
  rw [hon.others q (hp ▸ hq), hs]

theorem sectorsLand (s : State) (p : PartNo) (c : Ctx) (k : Core) (op : Nat) (lines : List CopyLine) (ready : Table Byte)
    (before after : List (Nat × List Nat)) (x : Nat × List Nat) (page : Option Nat) (gid : Nat) (hc : s.ctx? p gid = some c)
    (hop : Table.get? c.P.run.ops op = some (.copyIn gid none lines ready (before ++ x :: after) page))
    (hbefore : ∀ y ∈ before, ∃ a ∈ y.2, Table.has ready a = false) (hx : ∀ a ∈ x.2, Table.has ready a = true)
    (hown : ∀ a ∈ x.2, c.reach (a / 4096) = .own 1) (hk : coreOfGroup c.P gid = some k) (hclean : k.cpoison = []) :
    Becomes (.copySectorLanding p op) s p fun P' =>
      (∃ k', coreOfGroup P' gid = some k' ∧ (∀ a ∈ x.2, Cells.get 0 k'.scratch a = Table.getD ready a 0) ∧
        ∀ a, a ∉ x.2 → Cells.get 0 k'.scratch a = Cells.get 0 k.scratch a) ∧
      (let left := (before ++ x :: after).filter fun y => y.1 != x.1
       if left = [] then Table.get? P'.run.ops op = none ∧ ∃ g', P'.group? gid = some g' ∧ Returned c.g g' .cin op
       else ∃ ready', Table.get? P'.run.ops op = some (.copyIn gid none lines ready' left none)) := by
  obtain ⟨hfit, hs, hp, rfl⟩ := State.ctx?_spec hc
  have hpart : s.part? p = some c.P := by
    rw [← hs, ← hp]
    exact hfit.part
  have hfind : (before ++ x :: after).find? (fun x => x.2.all fun a => Table.has ready a) = some x := by
    have hnone : before.find? (fun x => x.2.all fun a => Table.has ready a) = none := List.find?_eq_none.2 fun y hy hall => by
      obtain ⟨a, ha, hno⟩ := hbefore y hy
      rw [List.all_eq_true.1 hall a ha] at hno
      nomatch hno
    have hall : (x.2.all fun a => Table.has ready a) = true := List.all_eq_true.2 hx
    rw [List.find?_append, hnone, Option.none_or]
    exact List.find?_cons_of_pos (p := fun x : Nat × List Nat => x.2.all fun a => Table.has ready a) hall
  have htag : c.tagPoison (x.1 * 32) 32 = false := by
    rw [Ctx.tagPoison, show c.P.core? (c.P.coreOf c.gid) = some k from hk, Option.any_some, hclean]
    rfl
  let runs := byteRuns (x.2.map fun a => (a, Table.getD ready a 0))
  obtain ⟨hbytes, hmem⟩ := mem_byteRuns (fun a => Table.getD ready a 0) x.2
  obtain ⟨k₁, hon, hk₁, hin, hout⟩ := Ctx.pokeRuns_own (fun a => Table.getD ready a 0) runs hfit hk hbytes
    fun r hr y hl hh => hown y ((hmem y).1 ⟨r, hr, hl, hh⟩)
  let left := (before ++ x :: after).filter fun y => y.1 != x.1
  let c₁ := runs.foldl (fun c r => c.poke r.1 r.2) c
  let P' := if left.isEmpty then c₁.P.endCopyIn c₁.gid op
    else c₁.P.setOp op (.copyIn c₁.gid none lines (ready.filter fun e => !x.2.contains e.1) left none)
  have he : exec (.copySectorLanding p op) s = .next (c₁.s.setPart c₁.p P') := by
    change execCopySectorLanding p op s = _
    rw [execCopySectorLanding, hpart, Option.bind_some, hop]
    dsimp only
    rw [hc]
    dsimp only
    rw [hfind]
    dsimp only
    rw [Ctx.landSector, htag, Option.any_none, Bool.or_false, if_neg Bool.false_ne_true]
  have hgid : c₁.gid = c.gid := hon.leads.gid
  have hcore (Q : Part) (hcores : Q.run.cores = c₁.P.run.cores) (hof : Q.coreOf c.gid = c₁.P.coreOf c.gid) : coreOfGroup Q c.gid = some k₁ := by
    have hcoreOf : c₁.P.coreOf c.gid = c.P.coreOf c.gid := by
      rw [← hon.coreOf, hgid]
    rw [coreOfGroup, Part.core?, hcores, hof, hcoreOf]
    exact hk₁
  have hg₁ : c₁.P.group? c.gid = some c.g := by
    rw [← hgid, ← hon.g]
    exact hon.leads.fits.group
  refine becomes_of_onCore hc hon he ⟨⟨k₁, ?_, fun a ha => hin a ((hmem a).2 ha), fun a ha => hout a fun h => ha ((hmem a).1 h)⟩, ?_⟩
  · dsimp only [P']
    rw [hgid]
    split
    · exact hcore _ (Part.cores_endCopyIn ..) (Part.coreOf_endCopyIn ..)
    · exact hcore _ rfl rfl
  · change if left = [] then _ else _
    dsimp only [P']
    rw [hgid]
    by_cases hleft : left = []
    · rw [if_pos hleft, if_pos (List.isEmpty_iff.2 hleft)]
      exact ⟨Part.op_endCopyIn .., _, Part.group?_endCopyIn hg₁ op, rfl⟩
    · rw [if_neg hleft, if_neg fun h => hleft (List.isEmpty_iff.1 h)]
      exact ⟨_, Table.get?_set_same ..⟩

/-! ### The lines of a `cpyo` -/

theorem insertBy_perm {α : Type} (key : α → Nat) (x : α) (l : List α) : (insertBy key x l).Perm (x :: l) := by
  induction l with
  | nil => exact .refl _
  | cons y l ih =>
    rw [insertBy]
    split
    · exact .refl _
    · exact (ih.cons y).trans (.swap ..)

theorem sortBy_perm {α : Type} (key : α → Nat) (l : List α) : (sortBy key l).Perm l := by
  have hfold (acc : List α) : (l.foldl (fun acc x => insertBy key x acc) acc).Perm (l ++ acc) := by
    induction l generalizing acc with
    | nil => exact .refl _
    | cons x l ih => exact (ih _).trans (((insertBy_perm key x acc).append_left l).trans List.perm_middle)
  exact (hfold []).trans (.of_eq (List.append_nil l))

theorem filter_key_of_nodup {α : Type} {t : Table α} (hnodup : (t.map Prod.fst).Nodup) {e : Nat × α} (he : e ∈ t) : (t.filter fun x => x.1 == e.1) = [e] := by
  induction t with
  | nil => nomatch he
  | cons x t ih =>
    obtain ⟨hx, hrest⟩ := List.nodup_cons.1 hnodup
    rcases List.mem_cons.1 he with rfl | he
    · have hnone : (t.filter fun x => x.1 == e.1) = [] := List.filter_eq_nil_iff.2 fun y hy hkey => hx (by
        rw [← beq_iff_eq.1 hkey]
        exact List.mem_map_of_mem hy)
      rw [List.filter_cons_of_pos (p := fun x : Nat × α => x.1 == e.1) (beq_self_eq_true e.1), hnone]
    · refine (List.filter_cons_of_neg (p := fun x : Nat × α => x.1 == e.1) fun hkey => hx ?_).trans (ih hrest he)
      rw [beq_iff_eq.1 hkey]
      exact List.mem_map_of_mem he

/-- The bytes that no other lane of the copy puts at the same place (R86 has no choice to make). -/
theorem CopyLine.sources_of_nodup {l : CopyLine} (hnodup : (l.pairs.map Prod.fst).Nodup) :
    (l.sources.map Prod.fst).Nodup ∧ ∀ e ∈ l.pairs, e ∈ l.sources := by
  have hperm := sortBy_perm (Prod.fst (α := Nat) (β := Nat)) ((dedup (l.pairs.map Prod.fst)).map fun o =>
    let ys := l.pairs.filter fun x => x.1 == o
    (o, ((ys[Config.overlap (l.vline % 2 ^ 49) o ys.length % ys.length]?).map Prod.snd).getD 0))
  refine ⟨(hperm.map Prod.fst).nodup_iff.2 ?_, fun e he => hperm.mem_iff.2 (List.mem_map.2 ⟨e.1, mem_dedup.2 (List.mem_map_of_mem he), ?_⟩)⟩
  · rw [List.map_map]
    exact (List.map_id _).symm ▸ dedup_nodup _
  · have hone : (l.pairs.filter fun x => x.1 == e.1) = [e] := filter_key_of_nodup hnodup he
    dsimp only
    rw [hone]
    dsimp only [List.length_singleton]
    rw [Nat.mod_one]
    rfl

theorem copyOutLands (s : State) (p : PartNo) (c : Ctx) (op gid pl : Nat) (obs : Bool) (l : CopyLine) (rest : List CopyLine) (data : Table Byte)
    (page : Option Nat) (tm : Team) (hc : s.ctx? p gid = some c)
    (hop : Table.get? c.P.run.ops op = some (.copyOut gid false (l :: rest) data page)) (hl : l.pline = some (pl, obs))
    (hearlier : c.P.outEarlier gid op l = false) (hteam : c.team? = some tm) (hmasks : MasksClean tm) (hquota : tm.used < tm.quota)
    (hnodup : (l.pairs.map Prod.fst).Nodup) :
    Becomes (.copyOutProgress p op) s p fun P' =>
      (∃ tm', P'.team? c.tk = some tm' ∧ ∀ e ∈ l.pairs, tm'.forward (l.vline % 2 ^ 49) e.1 = some (Table.getD data e.2 0)) ∧
      (if rest = [] then Table.get? P'.run.ops op = none ∧ ∃ g', P'.group? gid = some g' ∧ Returned c.g g' .cout op
       else Table.get? P'.run.ops op = some (.copyOut gid false rest data none)) := by
  obtain ⟨hfit, hs, hp, rfl⟩ := State.ctx?_spec hc
  have hpart : s.part? p = some c.P := by
    rw [← hs, ← hp]
    exact hfit.part
  obtain ⟨hsrcs, hmem⟩ := CopyLine.sources_of_nodup hnodup
  let bytes : Table Byte := l.sources.map fun e => (e.1, Table.getD data e.2 0)
  let m : ColLine := ⟨l.vline % 2 ^ 49, pl, obs, bytes, []⟩
  have hkeys : (bytes.map Prod.fst).Nodup := by
    rw [List.map_map]
    exact hsrcs
  obtain ⟨tm₁, hput⟩ : ∃ tm₁, tm.put m = some tm₁ := by
    rw [Team.put]
    rw [if_pos hquota]
    split <;> exact ⟨_, rfl⟩
  have hstored := Team.put_stored hput
  let Q := c.P.modTeam c.tk fun _ => tm₁
  have hteamP : c.P.team? c.tk = some tm := Ctx.team?_P hteam
  have hteamQ : Q.team? c.tk = some tm₁ := by
    rw [Part.team?_modTeam_same, hteamP]
    rfl
  have hgroup : Q.group? c.gid = some c.g := by
    have hw := Ctx.not_whisk_of_team hteam
    have hgroup := hfit.group
    rw [Part.group?, if_neg (Bool.eq_false_iff.1 hw)] at hgroup ⊢
    rw [show Q.team? (gidTeam c.gid) = some tm₁ from hteamQ, Option.bind_some, hstored.groups]
    rwa [show c.P.team? (gidTeam c.gid) = some tm from hteamP] at hgroup
  let P' := if rest.isEmpty then Q.endCopyOut c.gid op else Q.setOp op (.copyOut c.gid false rest data none)
  have he : exec (.copyOutProgress p op) s = .next (s.setPart p P') := by
    change execCopyOutProgress p op s = _
    rw [execCopyOutProgress, hpart, Option.bind_some, hop]
    dsimp only [Option.map_some]
    rw [hc]
    dsimp only
    rw [hearlier, if_neg Bool.false_ne_true, hl]
    dsimp only
    rw [Ctx.placeLine, Bool.false_and, if_neg Bool.false_ne_true, hteam]
    simp only [Bool.false_eq_true, if_false]
    rw [Team.maskPoison_of_clean hmasks, if_neg Bool.false_ne_true, show tm.put ⟨l.vline % 2 ^ 49, pl, obs, _, []⟩ = some tm₁ from hput, hs, hp]
  have hforward (e : Nat × Nat) (h : e ∈ l.pairs) : tm₁.forward (l.vline % 2 ^ 49) e.1 = some (Table.getD data e.2 0) :=
    Team.forward_of_inColander (Team.inColander_put hput hkeys (List.mem_map.2 ⟨e, hmem e h, rfl⟩))
  refine becomes_of_setPart he ?_
  by_cases hrest : rest = []
  · dsimp only [P']
    rw [if_pos hrest, if_pos (List.isEmpty_iff.2 hrest)]
    refine ⟨⟨tm₁.putGroup (gidGroup c.gid) (c.g.lower' .cout op), ?_, hforward⟩, Part.op_endCopyOut .., _, Part.group?_endCopyOut hgroup op, rfl⟩
    rw [Part.endCopyOut, Part.modGroup_of ((Part.group?_dropOp ..).trans hgroup)]
    exact (Part.team?_setGroup_team _ (Ctx.not_whisk_of_team hteam) _).trans (congrArg (Option.map _) hteamQ)
  · dsimp only [P']
    rw [if_neg hrest, if_neg fun h => hrest (List.isEmpty_iff.1 h)]
    exact ⟨⟨tm₁, hteamQ, hforward⟩, Table.get?_set_same ..⟩

/-- Settles O39: a load whose bytes have all come returns them, a slice serves the request that stands first and is not held, a core whose filter
holds no probed line answers, and the lines of a copy land one after another. -/
theorem memoryEventsHappen : Obligations.MemoryEventsHappen := ⟨loadsReturn, ⟨linesAreRead, linesAreWritten⟩, probesAreAnswered, ⟨sectorsLand, copyOutLands⟩⟩
end

end Sys2Proof.Machine
end

section
/-!
PROOF. Sends that land, and combiner requests on their way (spec/14_cluster.md R288 to R292, spec/15_combiner.md R301, R306 to R311).
-/
namespace Sys2Proof.Machine
open Sys2Proof.Spec

section
variable {s : State} {p : PartNo} {P : Part} {c r c₁ : Ctx} {gid op : Nat}

/-! ## A core that alone has changed -/

theorem Part.coreOf_setGroup_team (P : Part) {gid : Nat} (hw : isWhisk gid = false) (g : Group) (gid' : Nat) :
    (P.setGroup gid g).coreOf gid' = P.coreOf gid' := by
  refine Part.coreOf_congr (fun tk => ?_) gid'
  rw [P.setGroup_of_team hw]
  by_cases h : tk = gidTeam gid
  · rw [h, Part.team?_modTeam_same, Option.map_map]
    rfl
  · rw [Part.team?_modTeam_ne _ _ h]

theorem Part.coreOf_modGroup_team (P : Part) {gid : Nat} (hw : isWhisk gid = false) (f : Group → Group) (gid' : Nat) :
    (P.modGroup gid f).coreOf gid' = P.coreOf gid' := by
  unfold Part.modGroup
  cases P.group? gid with
  | none => rfl
  | some g => exact P.coreOf_setGroup_team hw ..

/-- A context of the same group in which its core alone has changed. -/
structure Ctx.CoreAlone (c c₁ : Ctx) : Prop where
  leads : c.Leads c₁
  frame : c₁.P = { c.P with run := { c.P.run with cores := c₁.P.run.cores } }
  others : ∀ q, q ≠ c.p → c₁.s.part? q = c.s.part? q

theorem Ctx.OnCore.alone (h : c.OnCore c₁) : c.CoreAlone c₁ := ⟨h.leads, h.frame, h.others⟩

theorem Ctx.CoreAlone.group (h : c.CoreAlone c₁) (gid : Nat) : c₁.P.group? gid = c.P.group? gid := by
  rw [h.frame]
  exact Part.group?_of_work rfl rfl gid

theorem Ctx.CoreAlone.coreOf (h : c.CoreAlone c₁) (gid : Nat) : c₁.P.coreOf gid = c.P.coreOf gid := by
  rw [h.frame]
  rfl

/-- A change of a core, and then of its partition. -/
theorem becomes_of_coreAlone {i : Instr} {rel : Part → Prop} {f : Part → Part} (hr : s.ctx? p gid = some r) (h : r.CoreAlone c₁)
    (he : exec i s = .next (c₁.s.modPart p f)) (hrel : rel (f c₁.P)) : Becomes i s p rel := by
  obtain ⟨-, hs, hp, -⟩ := State.ctx?_spec hr
  have hpart : c₁.s.part? p = some c₁.P := by
    rw [← hp, ← h.leads.p]
    exact h.leads.fits.part
  refine ⟨_, _, he, State.part?_modPart_some hpart _, hrel, fun q hq => (State.part?_modPart_ne _ _ hq).trans ?_,
    fun a => (h.leads.byte a).trans (by rw [hs])⟩
  rw [h.others q (hp ▸ hq), hs]

theorem Ctx.coreAlone_modCore (h : c.Fits) (f : Core → Core) : c.CoreAlone (c.setP (c.P.modCore (c.P.coreOf c.gid) f)) :=
  ⟨(Leads.refl h).setP ((Part.group?_modCore c.P (c.P.coreOf c.gid) f c.gid).trans h.group), rfl, fun q hq => State.part?_setPart_ne _ _ hq⟩

theorem Ctx.CoreAlone.refl (h : c.Fits) : c.CoreAlone c := (OnCore.refl h).alone

theorem Ctx.CoreAlone.trans {c₂ : Ctx} (h : c.CoreAlone c₁) (h' : c₁.CoreAlone c₂) : c.CoreAlone c₂ :=
  ⟨h.leads.trans h'.leads, by rw [h'.frame, h.frame], fun q hq => (h'.others q (h.leads.p ▸ hq)).trans (h.others q hq)⟩

theorem Ctx.coreAlone_scratch {k : Core} (h : c.Fits) (hk : c.P.core? (c.P.coreOf c.gid) = some k) {f : Core → Core}
    (hf : ∀ k, (f k).scratch = k.scratch) : ∃ k₁, c.CoreAlone (c.setP (c.P.modCore (c.P.coreOf c.gid) f)) ∧
      (c.setP (c.P.modCore (c.P.coreOf c.gid) f)).P.core? (c.P.coreOf c.gid) = some k₁ ∧ k₁.scratch = k.scratch :=
  ⟨f k, Ctx.coreAlone_modCore h f, (Part.core?_modCore_same ..).trans (congrArg (Option.map f) hk), hf k⟩

theorem Ctx.storeReady_scratch {k : Core} {slot n : Nat} (h : c.Fits) (hk : c.P.core? (c.P.coreOf c.gid) = some k) (hown : c.reach slot = .own n) :
    ∃ k₁, c.CoreAlone (c.storeReady slot) ∧ (c.storeReady slot).P.core? (c.P.coreOf c.gid) = some k₁ ∧ k₁.scratch = k.scratch := by
  by_cases hn : n = 2
  · subst hn
    unfold Ctx.storeReady
    rw [hown]
    exact Ctx.coreAlone_scratch h hk fun _ => rfl
  · rw [Ctx.storeReady_own hown hn]
    exact ⟨k, .refl h, hk, rfl⟩

theorem Ctx.pokePiece_nothing {k : Core} {a n : Nat} {q : Nat × Nat × Nat} (h : c.Fits) (hk : c.P.core? (c.P.coreOf c.gid) = some k)
    (hown : c.reach q.1 = .own n) :
    ∃ k₁, c.CoreAlone (c.pokePiece a [] q) ∧ (c.pokePiece a [] q).P.core? (c.P.coreOf c.gid) = some k₁ ∧ k₁.scratch = k.scratch := by
  obtain ⟨k₁, halone, hk₁, hscratch⟩ := Ctx.storeReady_scratch h hk hown
  unfold Ctx.pokePiece
  rw [hown]
  dsimp only
  generalize c.storeReady q.1 = c₁ at halone hk₁
  have hcore : c₁.P.coreOf c₁.gid = c.P.coreOf c.gid := (halone.coreOf _).trans (by rw [halone.leads.gid])
  rw [← hcore] at hk₁ ⊢
  rw [List.drop_nil, List.take_nil]
  obtain ⟨k₂, halone₂, hk₂, hscratch₂⟩ := Ctx.coreAlone_scratch halone.leads.fits hk₁ (f := fun k => k.poke (c₁.loadSlot q.1 * 4096 + q.2.1) []) fun _ => rfl
  exact ⟨k₂, halone.trans halone₂, hk₂, hscratch₂.trans hscratch⟩

/-- Storing no bytes. -/
theorem Ctx.poke_nothing {k : Core} (h : c.Fits) (a : Nat) (hk : c.P.core? (c.P.coreOf c.gid) = some k) (hlands : c.landingFails a 0 = none) :
    ∃ k₁, c.CoreAlone (c.poke a []) ∧ (c.poke a []).P.core? (c.P.coreOf c.gid) = some k₁ ∧ k₁.scratch = k.scratch := by
  have hpieces : ∀ q ∈ slotPieces a 0, ∃ n, c.reach q.1 = .own n := fun q hq => by
    rw [Ctx.landingFails] at hlands
    by_contra hnone
    split at hlands
    · nomatch hlands
    · split at hlands
      · nomatch hlands
      next hall =>
        refine hall (List.any_eq_true.2 ⟨q, hq, ?_⟩)
        split
        next n hreach => exact absurd ⟨n, hreach⟩ hnone
        · rfl
  have hlength : (slotPieces a 0).length ≤ 1 := by
    rw [slotPieces, List.length_map, touched, List.length_map, List.length_range]
    omega
  change ∃ k₁, c.CoreAlone ((slotPieces a 0).foldl (Ctx.pokePiece a []) c) ∧
    ((slotPieces a 0).foldl (Ctx.pokePiece a []) c).P.core? (c.P.coreOf c.gid) = some k₁ ∧ k₁.scratch = k.scratch
  match hlist : slotPieces a 0 with
  | [] => exact ⟨k, .refl h, hk, rfl⟩
  | [q] =>
    obtain ⟨n, hown⟩ := hpieces q (by rw [hlist]; exact List.mem_singleton_self q)
    exact Ctx.pokePiece_nothing h hk hown
  | _ :: _ :: _ =>
    rw [hlist] at hlength
    simp at hlength

/-- A piece that a receiver's slots and guards let land (R291). -/
theorem Ctx.piece_lands {k : Core} {a : Nat} {bs : List Byte} (h : c.Fits) (hk : c.P.core? (c.P.coreOf c.gid) = some k)
    (hlands : c.landingFails a bs.length = none) (hown : ∀ j < bs.length, c.reach ((a + j) / 4096) = .own 1) :
    ∃ k₁, c.CoreAlone (c.poke a bs) ∧ (c.poke a bs).P.core? (c.P.coreOf c.gid) = some k₁ ∧
      (∀ j < bs.length, Cells.get 0 k₁.scratch (a + j) = bs.getD j 0) ∧
      ∀ b, (b < a ∨ a + bs.length ≤ b) → Cells.get 0 k₁.scratch b = Cells.get 0 k.scratch b := by
  cases bs with
  | nil =>
    obtain ⟨k₁, halone, hk₁, hscratch⟩ := Ctx.poke_nothing h a hk hlands
    exact ⟨k₁, halone, hk₁, nofun, fun b _ => by rw [hscratch]⟩
  | cons b bs =>
    obtain ⟨k₁, hon, hk₁, hget⟩ := Ctx.poke_own_slots (bs := b :: bs) (addr := a) h (Nat.succ_pos _) hk fun y hl hh => by
      have := hown (y - a) (by omega)
      rwa [Nat.add_sub_cancel' hl] at this
    refine ⟨k₁, hon.alone, hk₁, fun j hj => ?_, fun y hy => (hget y).trans (if_neg (by omega))⟩
    rw [hget, if_pos ⟨Nat.le_add_right .., Nat.add_lt_add_left hj _⟩, Nat.add_sub_cancel_left]

/-! ## Sends (R288, R290 to R292) -/

/-- The end of a send that has not failed. -/
theorem Part.endSend_none (P : Part) (gid op : Nat) (block : Bool) (w : DWord) :
    P.endSend gid op block w none = (P.dropOp op).modGroup gid fun g => g.lower' .snd op := rfl

theorem Part.coreOf_dropOp (P : Part) (op gid : Nat) : (P.dropOp op).coreOf gid = P.coreOf gid := rfl

theorem Part.cores_endSend (P : Part) (gid op : Nat) (block : Bool) (w : DWord) : (P.endSend gid op block w none).run.cores = P.run.cores :=
  (Part.cores_modGroup ..).trans rfl

theorem Part.coreOf_endSend (P : Part) {gid : Nat} (hw : isWhisk gid = false) (op : Nat) (block : Bool) (w : DWord) (gid' : Nat) :
    (P.endSend gid op block w none).coreOf gid' = P.coreOf gid' :=
  ((P.dropOp op).coreOf_modGroup_team hw _ gid').trans (P.coreOf_dropOp op gid')

theorem Part.op_endSend (P : Part) (gid op : Nat) (block : Bool) (w : DWord) (fail : Option (Nat × Nat)) :
    Table.get? (P.endSend gid op block w fail).run.ops op = none := by
  unfold Part.endSend
  rw [Part.ops_modGroup]
  exact Part.op_dropOp ..

theorem Part.group?_endSend {g : Group} (hg : P.group? gid = some g) (op : Nat) (block : Bool) (w : DWord) (fail : Option (Nat × Nat)) :
    ∃ g', (P.endSend gid op block w fail).group? gid = some g' ∧ Returned g g' .snd op := by
  cases fail with
  | none => exact ⟨_, Part.group?_modGroup_of ((Part.group?_dropOp ..).trans hg) _, rfl⟩
  | some x => exact ⟨_, Part.group?_modGroup_of ((Part.group?_dropOp ..).trans (Part.group?_modGroup_of hg _)) _, rfl⟩

theorem piecesLand (s : State) (p : PartNo) (c r : Ctx) (op gid tk : Nat) (w : DWord) (src dst : Nat) (landed : Bool) (k : Core) (a : Nat)
    (bs : List Byte) (rest : List (Nat × List Byte)) (hc : s.ctx? p gid = some c) (hw : isWhisk gid = false)
    (hop : Table.get? c.P.run.ops op = some (.send gid false false w ((a, bs) :: rest) src dst 0 landed none))
    (hfirst : c.P.sendFirst gid op false w = true) (hrecv : c.P.receiver gid false w = some tk) (hr : s.ctx? p (tk * 32) = some r)
    (hk : coreOfGroup r.P (tk * 32) = some k) (hclean : k.cpoison = []) (hlands : r.landingFails a bs.length = none)
    (hown : ∀ j < bs.length, r.reach ((a + j) / 4096) = .own 1) :
    Becomes (.sendLanding p op) s p fun P' =>
      (∃ k', coreOfGroup P' (tk * 32) = some k' ∧ (∀ j < bs.length, Cells.get 0 k'.scratch (a + j) = bs.getD j 0) ∧
        ∀ b, (b < a ∨ a + bs.length ≤ b) → Cells.get 0 k'.scratch b = Cells.get 0 k.scratch b) ∧
      Table.get? P'.run.ops op = some (.send gid false false w rest src dst 0 landed none) := by
  obtain ⟨hfit, hs, hp, rfl⟩ := State.ctx?_spec hc
  obtain ⟨hfitr, hsr, hpr, hgr⟩ := State.ctx?_spec hr
  have hpart : s.part? p = some c.P := by
    rw [← hs, ← hp]
    exact hfit.part
  have hkr : r.P.core? (r.P.coreOf r.gid) = some k := hgr ▸ hk
  obtain ⟨k₁, halone, hk₁, hin, hout⟩ := Ctx.piece_lands hfitr hkr hlands hown
  have htag : r.tagPoison a bs.length = false := by
    rw [Ctx.tagPoison, hkr, Option.any_some, hclean]
    rfl
  have he : exec (.sendLanding p op) s =
      .next ((r.poke a bs).s.modPart p fun P => P.setOp op (.send c.gid false false w rest src dst 0 landed none)) := by
    change execSendLanding p op s = _
    rw [execSendLanding, hpart, Option.bind_some, hop]
    dsimp only [Option.map_some]
    rw [Bool.false_and, if_neg Bool.false_ne_true, hc]
    dsimp only
    rw [hfirst, Bool.not_true, if_neg Bool.false_ne_true, if_neg Bool.false_ne_true, hrecv, Option.bind_some, hr]
    dsimp only
    rw [Ctx.land, Ctx.nextPiece]
    dsimp only
    rw [if_neg Bool.false_ne_true, htag, if_neg Bool.false_ne_true, hlands, hp]
  refine becomes_of_coreAlone hr halone he ⟨⟨k₁, ?_, hin, hout⟩, Table.get?_set_same ..⟩
  change (r.poke a bs).P.core? ((r.poke a bs).P.coreOf (tk * 32)) = some k₁
  rw [halone.coreOf, ← hgr]
  exact hk₁

theorem Ctx.countSend_counts {a : Nat} (hprivate : c.privateSlot (a / 4096) = true) (hpoison : c.peekPoison a 8 = false) :
    c.countSend a none = ((c.poke a (leBytes 8 (leNat (c.peek a 8) / 2 ^ 63 * 2 ^ 63 + (leNat (c.peek a 8) + 1) % 2 ^ 63))).s, none, false) := by
  unfold Ctx.countSend
  rw [hprivate, Bool.not_true, if_neg Bool.false_ne_true, hpoison, if_neg Bool.false_ne_true]
  simp only [Option.isSome_none, Bool.false_eq_true, if_false]

theorem sendIsCounted (s : State) (p : PartNo) (c r : Ctx) (op gid tk : Nat) (w : DWord) (src dst : Nat) (landed : Bool) (k : Core)
    (hc : s.ctx? p gid = some c) (hw : isWhisk gid = false)
    (hop : Table.get? c.P.run.ops op = some (.send gid false false w [] src dst 0 landed none))
    (hfirst : c.P.sendFirst gid op false w = true) (hrecv : c.P.receiver gid false w = some tk) (hr : s.ctx? p (tk * 32) = some r)
    (hk : coreOfGroup r.P (tk * 32) = some k) (hclean : k.cpoison = []) {a v : Nat} (haddr : cwordCounter w = a)
    (hv : leNat (Cells.getMany 0 k.scratch a 8) = v) (haligned : a % 8 = 0) (hreach : r.reach (a / 4096) = .own 1) (hbytes : k.spoison = []) :
    Becomes (.sendLanding p op) s p fun P' =>
      (∃ k', coreOfGroup P' (tk * 32) = some k' ∧
        leNat (Cells.getMany 0 k'.scratch a 8) = v / 2 ^ 63 * 2 ^ 63 + (v + 1) % 2 ^ 63) ∧
      Table.get? P'.run.ops op = none ∧ ∃ g', P'.group? gid = some g' ∧ Returned c.g g' .snd op := by
  obtain ⟨hfit, hs, hp, rfl⟩ := State.ctx?_spec hc
  obtain ⟨hfitr, hsr, hpr, hgr⟩ := State.ctx?_spec hr
  have hpart : s.part? p = some c.P := by
    rw [← hs, ← hp]
    exact hfit.part
  have hparts : r.P = c.P := by
    have h := hfitr.part
    rw [hsr, hpr, hpart] at h
    exact (Option.some.inj h).symm
  have hkr : r.P.core? (r.P.coreOf r.gid) = some k := hgr ▸ hk
  obtain ⟨v', hv'⟩ : ∃ v', v' = v / 2 ^ 63 * 2 ^ 63 + (v + 1) % 2 ^ 63 := ⟨_, rfl⟩
  have hlt : v < 256 ^ 8 := by
    have h := leNat_lt (Cells.getMany 0 k.scratch a 8)
    rwa [getMany_length, hv] at h
  have hpeek : r.peek a 8 = Cells.getMany 0 k.scratch a 8 := by
    have h := Ctx.peek_own (off := a % 4096) (len := 8) hkr hreach (by omega) (by decide)
    rwa [Nat.div_add_mod'] at h
  have hpoison : r.peekPoison a 8 = false := by
    rw [Ctx.peekPoison, Ctx.tagPoison, hkr, Option.any_some, Option.any_some, hclean, hbytes]
    rfl
  have hcount : r.countSend a none = ((r.poke a (leBytes 8 v')).s, none, false) := by
    rw [Ctx.countSend_counts (privateSlot_of_own hreach) hpoison, hpeek, hv, hv']
  have he : exec (.sendLanding p op) s = .next ((r.poke a (leBytes 8 v')).s.modPart p fun P => P.endSend c.gid op false w none) := by
    change execSendLanding p op s = _
    rw [execSendLanding, hpart, Option.bind_some, hop]
    dsimp only [Option.map_some]
    rw [Bool.false_and, if_neg Bool.false_ne_true, hc]
    dsimp only
    rw [hfirst, Bool.not_true, if_neg Bool.false_ne_true, if_neg Bool.false_ne_true, hrecv, Option.bind_some, hr]
    dsimp only
    rw [Ctx.land, show c.nextPiece (.send c.gid false false w [] src dst 0 landed none) = none from rfl]
    dsimp only
    rw [Ctx.landed, haddr, hcount, hp]
    rfl
  have hlen : (leBytes 8 v').length = 8 := leBytes_length ..
  obtain ⟨k₁, hon, hk₁, hget⟩ := Ctx.poke_own_slots (bs := leBytes 8 v') (addr := a) hfitr (by omega) hkr fun y hl hh => by
    rw [show y / 4096 = a / 4096 by omega]
    exact hreach
  have hstored : Cells.getMany 0 k₁.scratch a 8 = leBytes 8 v' := by
    refine List.ext_getElem (by rw [getMany_length, hlen]) fun j hj hj' => ?_
    rw [getMany_length] at hj
    rw [← List.getD_eq_getElem _ 0, getMany_getD 0 _ _ hj, hget, if_pos (by omega), Nat.add_sub_cancel_left, List.getD_eq_getElem]
  generalize r.poke a (leBytes 8 v') = c₁ at he hon hk₁
  have hgroup : c₁.P.group? c.gid = some c.g := by
    rw [hon.alone.group, hparts]
    exact hfit.group
  refine becomes_of_coreAlone hr hon.alone he ⟨⟨k₁, ?_, ?_⟩, Part.op_endSend .., Part.group?_endSend hgroup ..⟩
  · rw [← hgr, coreOfGroup, Part.coreOf_endSend _ hw, hon.alone.coreOf, Part.core?, Part.cores_endSend]
    exact hk₁
  · rw [hstored, leNat_leBytes, Nat.mod_eq_of_lt (by omega), hv']

theorem sendIsAcknowledged (s : State) (p : PartNo) (P : Part) (op gid : Nat) (block : Bool) (w : DWord) (pieces : List (Nat × List Byte))
    (src dst left : Nat) (g : Group) (hP : s.part? p = some P) (hw : isWhisk gid = false) (hg : P.group? gid = some g)
    (hop : Table.get? P.run.ops op = some (.send gid block true w pieces src dst left true none)) (hfirst : P.sendFirst gid op true w = true) :
    Becomes (.sendAcknowledgement p op) s p fun P' => Table.get? P'.run.ops op = none ∧
      ∃ g', P'.group? gid = some g' ∧ Returned g g' .snd op := by
  obtain ⟨fail, he⟩ : ∃ fail, exec (.sendAcknowledgement p op) s = .next (s.modPart p fun P => P.endSend gid op block w fail) := by
    refine ⟨(Config.remoteFailure s.tick op).map (remoteFault w (pieces.map Prod.fst)), ?_⟩
    change execSendAcknowledgement p op s = _
    rw [execSendAcknowledgement, hP, Option.bind_some, hop]
    dsimp only [Option.map_some]
    rw [hw, hfirst]
    rfl
  exact ⟨_, _, he, State.part?_modPart_some hP _, ⟨Part.op_endSend .., Part.group?_endSend hg ..⟩, fun q hq => State.part?_modPart_ne _ _ hq,
    fun _ => rfl⟩

/-! ## Requests (R301, R306, R410) -/

theorem requestsArrive : RequestsArrive := by
  intro s p P id core w h hP hreq hplace htogether hflow hheld hline hhome hqueue hroom hpoison honce hmode
  have hcoming : w.coming = true := by
    rw [WhiskReq.coming, hplace]
  have hbehind : P.behindFlow id w [(id, w)] = false := List.any_eq_false.2 fun e he hbad => by
    simp only [Bool.and_eq_true, decide_eq_true_eq, beq_iff_eq] at hbad
    obtain ⟨⟨⟨⟨hid, hcore⟩, hpa⟩, hcom⟩, -⟩ := hbad
    rw [hflow e he hid hcore hpa] at hcom
    nomatch hcom
  have hshut : P.behindHeld id core w [(id, w)] = false := List.any_eq_false.2 fun e he hbad => by
    simp only [Bool.and_eq_true, beq_iff_eq, List.any_cons, List.any_nil, Bool.or_false, Bool.not_eq_true', beq_eq_false_iff_ne] at hbad
    obtain ⟨⟨⟨-, hcore⟩, hwaiting⟩, hne⟩ := hbad
    exact hheld e he (Ne.symm hne) hcore hwaiting
  have hfull : P.queueFull core [(id, w)] = false := by
    rw [Part.queueFull, hqueue, Option.map_some, Option.getD_some, List.length_singleton]
    exact decide_eq_false (by omega)
  have hgate : P.objGated w = false := by
    rw [Part.objGated]
    rcases hmode with hmode | hmode <;> rw [hmode] <;> rfl
  have he : exec (.requestArrival p id) s = .next (s.setPart p (P.enqueue core id w false)) := by
    change execRequestArrival p id s = _
    rw [execRequestArrival, hP, Option.bind_some, hreq]
    dsimp only [Option.map_some]
    rw [htogether, hhome]
    dsimp only
    rw [hcoming, hbehind, hline, hfull, hshut, if_neg (by decide), if_neg (by decide), List.foldl_cons, List.foldl_nil, State.arriveOne, hP]
    dsimp only
    rw [hpoison, if_neg Bool.false_ne_true, honce, hgate, Bool.false_and]
  refine becomes_of_setPart he ⟨Table.get?_set_same .., ?_⟩
  change Table.get? (Table.modify P.run.homes core fun h => { h with queue := h.queue ++ [id] }) core = _
  rw [Table.get?_modify_same, hqueue]
  rfl

/-! ## Batches (R308, R311) -/

/-- The decision of an object's domain, when nothing is recorded, changes teams and ordinals alone. -/
theorem State.objDecided_spec (hP : s.part? p = some P) (hmode : P.mode = 0 ∨ P.mode = 1) (batch : List (Nat × WhiskReq)) (n : DWord) :
    s.Beside (s.objDecided p batch n) p ∧ ∃ P₁, (s.objDecided p batch n).part? p = some P₁ ∧ P₁.run.homes = P.run.homes ∧ P₁.run.cores = P.run.cores := by
  have hteams (batch : List (Nat × WhiskReq)) (Q : Part) :
      let Q' := batch.foldl (fun P e => P.modTeam e.2.team fun t => { t with served := true }) Q
      Q'.run.homes = Q.run.homes ∧ Q'.run.cores = Q.run.cores := by
    induction batch generalizing Q with
    | nil => exact ⟨rfl, rfl⟩
    | cons e batch ih => exact ih _
  have hrecord : ¬P.mode = mRECORD := by
    rcases hmode with hmode | hmode <;> rw [hmode] <;> decide
  unfold State.objDecided
  rw [hP]
  dsimp only
  rw [if_neg hrecord]
  exact ⟨(State.Beside.refl s p).modPart _, _, State.part?_modPart_some hP _, hteams batch P⟩

theorem Part.places_batch (P : Part) (core : Nat) (ids : List Nat) :
    let Q := ids.foldl (fun P id => P.modRun fun r => { r with whisks := Table.modify r.whisks id fun w => { w with place := .batch core } }) P
    Q.run.homes = P.run.homes ∧ Q.run.cores = P.run.cores := by
  induction ids generalizing P with
  | nil => exact ⟨rfl, rfl⟩
  | cons id ids ih => exact ih _

theorem Part.home_modHome (P : Part) (core : Nat) (f : Home → Home) : Table.get? (P.modHome core f).run.homes core = (Table.get? P.run.homes core).map f :=
  Table.get?_modify_same ..

theorem Part.homes_modCore (P : Part) (core : Nat) (f : Core → Core) : (P.modCore core f).run.homes = P.run.homes := rfl
theorem Part.core?_modHome (P : Part) (core n : Nat) (f : Home → Home) : (P.modHome core f).core? n = P.core? n := rfl

/-- The window of a batch whose line holds no uncorrectable word. -/
theorem State.openWindow_spec {core : Nat} {b : Batch} {h : Home} {k : Core} (hP : s.part? p = some P) (hh : Table.get? P.run.homes core = some h)
    (hk : P.core? core = some k) (hclean : ∀ j < 64, s.poisoned (b.pa + j) = false) :
    s.Beside (s.openWindow p core b) p ∧ ∃ P₁, (s.openWindow p core b).part? p = some P₁ ∧
      Table.get? P₁.run.homes core = some { h with batch := some b, queue := h.queue.filter fun id => !b.reqs.contains id } ∧
      ∃ k', P₁.core? core = some k' ∧ ∀ j < 64, Cells.get 0 k'.scratch (windowAddr + j) = s.byte (b.pa + j) := by
  let f (P : Part) : Part :=
    let P := b.reqs.foldl (fun P id => P.modRun fun r => { r with whisks := Table.modify r.whisks id fun w => { w with place := .batch core } }) P
    (P.modCore core fun k => k.poke windowAddr (s.bytes b.pa 64)).modHome core fun h =>
      { h with batch := some b, queue := h.queue.filter fun id => !b.reqs.contains id }
  have hbeside := (State.Beside.refl s p).modPart f
  have hopen : s.openWindow p core b = s.modPart p f := if_neg fun hbad => by
    obtain ⟨j, hj, hpoison⟩ := List.any_eq_true.1 hbad
    rw [hbeside.poisoned, hclean _ (by have := List.mem_range.1 hj; omega)] at hpoison
    nomatch hpoison
  rw [hopen]
  obtain ⟨hhomes, hcores⟩ := P.places_batch core b.reqs
  refine ⟨hbeside, _, State.part?_modPart_some hP f, ?_, k.poke windowAddr (s.bytes b.pa 64), ?_, fun j hj => ?_⟩
  · dsimp only [f]
    rw [Part.home_modHome, Part.homes_modCore, hhomes, hh, Option.map_some]
  · dsimp only [f]
    rw [Part.core?_modHome, Part.core?_modCore_same, Part.core?, hcores, show Table.get? P.run.cores core = some k from hk, Option.map_some]
  · rw [Core.poke_inside (by rw [State.bytes, getMany_length]; exact hj), State.bytes, getMany_getD 0 _ _ hj]
    rfl

theorem batchesAreAssembled : BatchesAreAssembled := by
  intro s p P core h k id w rest hP hh hk hbatch hwait hfreezing hfrozen hpaused hmode hnext honce hclean
  let hd := s.num (w.pa + 56) 8
  let b : Batch := ⟨w.obj, w.pa, w.width, ((id, w) :: rest).map Prod.fst, BitVec.ofNat 16 (headerClass hd), BitVec.ofNat 16 (headerBno hd)⟩
  let s₁ := if false || orderedClass (headerClass hd) then s else s.objDecided p ((id, w) :: rest) w.id
  have he : exec (.batchAssembly p core) s = .next (s₁.openWindow p core.toNat b) := by
    change execBatchAssembly p core s = _
    rw [execBatchAssembly, hP, Option.bind_some, hh]
    dsimp only [Option.map_some]
    rw [hbatch, hwait, hfreezing, hfrozen, hpaused, if_neg (by decide), hnext]
    dsimp only
    rw [hclean 56 (by decide), if_neg Bool.false_ne_true, honce]
  obtain ⟨hbeside, P₁, hP₁, hhomes, hcores⟩ : s.Beside s₁ p ∧ ∃ P₁, s₁.part? p = some P₁ ∧ P₁.run.homes = P.run.homes ∧ P₁.run.cores = P.run.cores := by
    dsimp only [s₁]
    split
    · exact ⟨.refl s p, P, hP, rfl, rfl⟩
    · exact State.objDecided_spec hP hmode _ _
  obtain ⟨hbeside₂, P₂, hP₂, hhome, k', hk', hbytes⟩ := State.openWindow_spec (b := b) hP₁ (hhomes.symm ▸ hh) (k := k)
    (by rw [Part.core?, hcores]; exact hk) fun j hj => (hbeside.poisoned _).trans (hclean j hj)
  refine becomes_of_beside he hP₂ (hbeside.trans hbeside₂) ⟨⟨_, b, hhome, rfl, rfl, rfl, rfl, rfl, ?_, ?_, rfl⟩, k', hk',
    fun j hj => (hbytes j hj).trans (hbeside.byte _)⟩
  · change (BitVec.ofNat 16 (headerClass hd)).toNat = _
    rw [show w.pa + 62 = w.pa + 56 + 6 by omega, s.num_high (w.pa + 56) 6 2, BitVec.toNat_ofNat, headerClass, Nat.mod_mod]
    exact Nat.mod_eq_of_lt (Nat.div_lt_of_lt_mul (s.num_lt (w.pa + 56) 8))
  · change (BitVec.ofNat 16 (headerBno hd)).toNat = _
    rw [s.num_low (w.pa + 56) 2 6, BitVec.toNat_ofNat, headerBno, Nat.mod_mod]
    rfl

/-! ## Replies (R306, R307) -/

theorem Part.whisks_modGroup (P : Part) (gid : Nat) (f : Group → Group) : (P.modGroup gid f).run.whisks = P.run.whisks := by
  unfold Part.modGroup
  cases P.group? gid with
  | none => rfl
  | some g => exact Part.whisks_setGroup ..

theorem Group.inflight_writeLane (g : Group) (b : Bool) (d l : Nat) (x : DWord) : (g.writeLane b d l x).inflight = g.inflight := by
  rw [Group.writeLane_frame]

theorem repliesReturn : RepliesReturn := by
  intro s p P id gid dst w val lanes width g hP hreq hplace hop hg lane left
  let Q := P.modRun fun r => { r with whisks := Table.erase r.whisks id }
  let g₁ := g.writeLane (decide (width = 1)) dst lane val
  have hQ : Q.group? gid = some g := (Part.group?_of_work rfl rfl gid).trans hg
  have hlane : lane < 32 := Nat.mod_lt _ (by decide)
  have hg₁ : (Q.modGroup gid fun g => if width = 1 then g.writePair dst [(lane, val)] else g.writeV dst [(lane, loWord val)]) = Q.setGroup gid g₁ := by
    rw [Part.modGroup_of hQ]
    refine congrArg (Q.setGroup gid) ?_
    rw [show g₁ = if decide (width = 1) then g.writePair dst [(lane, val)] else g.writeV dst [(lane, loWord val)] from rfl]
    simp only [decide_eq_true_eq]
  have he : exec (.whiskReply p id) s = .next (s.setPart p ((Q.setGroup gid g₁).laneAnswered w.op gid dst width left none)) := by
    change execWhiskReply p id s = _
    rw [execWhiskReply, hP, Option.bind_some, hreq]
    dsimp only [Option.map_some]
    rw [hplace]
    dsimp only
    rw [show Table.get? Q.run.ops w.op = some (.call gid dst width lanes none) from hop]
    dsimp only
    rw [hg₁]
  have hgroup : (Q.setGroup gid g₁).group? gid = some g₁ := Part.group?_setGroup _ _ _ _ hQ
  have hregs (r l : Nat) (hl : l < 32) := g.vreg_writeLane (decide (width = 1)) dst (l := lane) (l' := l) val hlane hl r
  have hwords (g' : Group) (hv : g'.v = g₁.v) : g'.vreg dst lane = val.setWidth 32 ∧ (width = 1 → g'.vreg (dst + 1) lane = val.extractLsb' 32 32) ∧
      ∀ r, ∀ l < 32, (l ≠ lane ∨ (r ≠ dst ∧ (width = 1 → r ≠ dst + 1))) → g'.vreg r l = g.vreg r l := by
    have hvreg (r l : Nat) : g'.vreg r l = g₁.vreg r l := by
      rw [Group.vreg, hv]
      rfl
    refine ⟨?_, fun hwidth => ?_, fun r l hl hne => ?_⟩
    · rw [hvreg, hregs _ _ hlane, if_neg (by omega), if_pos ⟨rfl, rfl⟩, loWord_eq_setWidth]
    · rw [hvreg, hregs _ _ hlane, if_pos ⟨decide_eq_true hwidth, rfl, rfl⟩, hiWord_eq]
    · rw [hvreg, hregs _ _ hl, if_neg, if_neg]
      · rintro ⟨hr, hl⟩
        exact hne.elim (· hl) fun h => h.1 hr
      · rintro ⟨hwidth, hr, hl⟩
        exact hne.elim (· hl) fun h => h.2 (of_decide_eq_true hwidth) hr
  refine becomes_of_setPart he ?_
  by_cases hleft : left = []
  · rw [hleft]
    let g₂ : Group := (g₁.lower' .wcl w.op).opened w.op
    have hv : g₂.v = g₁.v := by
      change (g₁.lower' .wcl w.op).wake.v = g₁.v
      rw [(Group.wake_kept _).2.2.2]
      exact (Group.wake_kept g₁).2.2.2
    have hanswered : (Q.setGroup gid g₁).laneAnswered w.op gid dst width [] none = ((Q.setGroup gid g₁).dropOp w.op).modGroup gid fun g =>
        (g.lower' .wcl w.op).opened w.op := rfl
    rw [hanswered]
    have hg₂ := Part.group?_modGroup_of (P := (Q.setGroup gid g₁).dropOp w.op) ((Part.group?_dropOp ..).trans hgroup) fun g => (g.lower' .wcl w.op).opened w.op
    obtain ⟨hvalue, hhigh, hrest⟩ := hwords g₂ hv
    refine ⟨?_, g₂, hg₂, hvalue, hhigh, hrest, ?_⟩
    · rw [Part.whisks_modGroup]
      change Table.get? (Q.setGroup gid g₁).run.whisks id = none
      rw [Part.whisks_setGroup]
      exact (Table.get?_erase ..).trans (if_pos rfl)
    · rw [if_pos rfl, Part.ops_modGroup]
      refine ⟨Part.op_dropOp .., (Group.inflight_wake _).trans ?_⟩
      change retire .wcl (g₁.inflight.map _) = _
      rw [Group.inflight_writeLane]
  · have hanswered : (Q.setGroup gid g₁).laneAnswered w.op gid dst width left none = (Q.setGroup gid g₁).setOp w.op (.call gid dst width left none) :=
      if_pos (by rw [List.isEmpty_eq_false_iff.2 hleft]; rfl)
    rw [hanswered]
    obtain ⟨hvalue, hhigh, hrest⟩ := hwords g₁ rfl
    refine ⟨?_, g₁, (Part.group?_setOp ..).trans hgroup, hvalue, hhigh, hrest, ?_⟩
    · change Table.get? (Q.setGroup gid g₁).run.whisks id = none
      rw [Part.whisks_setGroup]
      exact (Table.get?_erase ..).trans (if_pos rfl)
    · rw [if_neg hleft]
      exact Table.get?_set_same ..

/-- Settles O40: pieces of sends land at the receiver's own slots, requests go through the home's queue to the batch's window, and answers come back lane by lane. -/
theorem sendAndCombinerEventsHappen : Obligations.SendAndCombinerEventsHappen :=
  ⟨⟨fun s p c r op gid tk w _ src dst landed k hc hw hop hfirst hrecv hr hk hclean =>
      ⟨fun a bs rest hpieces hlands hown =>
        piecesLand s p c r op gid tk w src dst landed k a bs rest hc hw (hpieces ▸ hop) hfirst hrecv hr hk hclean hlands hown,
      fun hpieces haligned hreach hbytes =>
        sendIsCounted s p c r op gid tk w src dst landed k hc hw (hpieces ▸ hop) hfirst hrecv hr hk hclean (field_eq ..) rfl haligned hreach hbytes⟩,
    sendIsAcknowledged⟩, requestsArrive, batchesAreAssembled, repliesReturn⟩
end

end Sys2Proof.Machine
end

section
/-!
PROOF. The matrix engine at work (spec/10_core_matrix_instr.md R234 to R236, R239, R243, R244).
-/
namespace Sys2Proof.Machine
open Sys2Proof.Spec

section
variable {s : State} {p : PartNo} {c c₁ : Ctx} {m m' : MatrixOp}

/-! ## Cells of a tile (R243) -/

theorem notMem_of_get? {α : Type} {t : Table α} {k : Nat} (h : Table.get? t k = none) : k ∉ t.map Prod.fst := by
  induction t with
  | nil => nofun
  | cons e t ih =>
    obtain ⟨k', x⟩ := e
    rw [Table.get?] at h
    split at h
    · nomatch h
    next hne => exact fun hin => (List.mem_cons.1 hin).elim (fun heq => hne heq.symm) (ih h)

/-- What a table of cells gives for a number of which all its entries agree. -/
theorem Cells.get_of_entries {w : Nat} {t : Cells w} {k : Nat} {x : BitVec w} (hall : ∀ e ∈ t, e.1 = k → e.2 = x) (hmem : x ≠ 0 → (k, x) ∈ t) :
    Cells.get 0 t k = x := by
  rw [Cells.get, Table.getD]
  cases hget : Table.get? t k with
  | some y => exact hall _ (mem_of_get? hget) rfl
  | none =>
    by_contra hne
    have hin := List.mem_map_of_mem (f := Prod.fst) (hmem (Ne.symm hne))
    exact (notMem_of_get? hget) hin

theorem get_stepTile (fa fb : Nat) (scale : Bool) (as bs : List (List MEl)) (x : Tile) {y j : Nat} (hy : y < 128) (hj : j < 128) :
    Cells.get 0 (stepTile fa fb scale as bs x) (128 * y + j) = stepCell fa fb scale (as.getD y []) (bs.getD j []) (Cells.get 0 x.cells (128 * y + j)) := by
  have hmem (e : Nat × Cell88) : e ∈ stepTile fa fb scale as bs x ↔ ∃ y < 128, ∃ j < 128, e.1 = 128 * y + j ∧
      e.2 = stepCell fa fb scale (as.getD y []) (bs.getD j []) (Cells.get 0 x.cells (128 * y + j)) ∧ e.2 ≠ 0 := by
    simp only [stepTile, List.mem_flatten, List.mem_map, List.mem_range, exists_exists_and_eq_and, List.mem_filterMap]
    refine exists_congr fun y => and_congr_right fun _ => exists_congr fun j => and_congr_right fun _ => ?_
    split
    next hzero => exact ⟨nofun, fun ⟨_, h, hne⟩ => absurd (h.trans hzero) hne⟩
    next hne =>
      refine ⟨fun h => ?_, fun ⟨h1, h2, _⟩ => congrArg some (Prod.ext h1.symm h2.symm)⟩
      obtain rfl := Option.some.inj h
      exact ⟨rfl, rfl, hne⟩
  refine Cells.get_of_entries (fun e he hkey => ?_) fun hne => (hmem _).2 ⟨y, hy, j, hj, rfl, rfl, hne⟩
  obtain ⟨y', -, j', hj', hkey', hval, -⟩ := (hmem e).1 he
  obtain ⟨rfl, rfl⟩ : y' = y ∧ j' = j := by omega
  exact hval

/-! ## The engine's queue -/

/-- An operation that has moved on stands in the queue in its old place. -/
theorem Core.find_setMatrix {k : Core} (hfind : (k.matrix.find? fun o => o.id == m.id) = some m) (hid : m'.id = m.id) :
    ((k.setMatrix m').matrix.find? fun o => o.id == m.id) = some m' := by
  have hkeep (o : MatrixOp) : ((if o.id = m'.id then m' else o).id == m.id) = (o.id == m.id) := by
    split
    next h => rw [h]
    · rfl
  rw [Core.setMatrix, find?_map_keeping (p := fun o : MatrixOp => o.id == m.id) hkeep, hfind, Option.map_some, if_pos hid.symm]

theorem find_of_nodup {ms : List MatrixOp} (hnodup : (ms.map MatrixOp.id).Nodup) (hm : m ∈ ms) : (ms.find? fun o => o.id == m.id) = some m := by
  induction ms with
  | nil => nomatch hm
  | cons o ms ih =>
    obtain ⟨hnew, hrest⟩ := List.nodup_cons.1 hnodup
    rcases List.mem_cons.1 hm with rfl | hm
    · exact List.find?_cons_of_pos (p := fun o : MatrixOp => o.id == m.id) (beq_self_eq_true m.id)
    · refine (List.find?_cons_of_neg (p := fun o : MatrixOp => o.id == m.id) fun hid => hnew ?_).trans (ih hrest hm)
      rw [beq_iff_eq.1 hid]
      exact List.mem_map_of_mem hm

theorem nextMatrix_mem {ms : List MatrixOp} (h : nextMatrix ms = some m) : m ∈ ms := by
  rw [nextMatrix] at h
  split at h
  next h' =>
    cases h
    exact List.mem_of_find?_eq_some h'
  · exact List.mem_of_find?_eq_some h

/-! ## A step (R239, R244) -/

/-- NaN inputs that are counted with the group leave the cores and all else as it is. -/
theorem Ctx.counted (c : Ctx) (n : Nat) (g : Group) :
    let c' := if n = 0 then c else c.setG g
    c'.p = c.p ∧ c'.gid = c.gid ∧ (∀ q, q ≠ c.p → c'.s.part? q = c.s.part? q) ∧ (∀ a, c'.s.byte a = c.s.byte a) ∧
      c'.P.run.cores = c.P.run.cores ∧ c'.P.coreOf c.gid = c.P.coreOf c.gid := by
  dsimp only
  split
  · exact ⟨rfl, rfl, fun _ _ => rfl, fun _ => rfl, rfl, rfl⟩
  · exact ⟨rfl, rfl, fun q hq => State.part?_modPart_ne _ _ hq, fun _ => rfl, Part.cores_setGroup .., Part.coreOf_setGroup ..⟩

/-- A change of the core that is followed by work on groups. -/
theorem Part.core?_of_work {P Q : Part} {core : Nat} {k : Core} {f : Core → Core} (hk : P.core? core = some k)
    (hcores : Q.run.cores = (P.modCore core f).run.cores) : Q.core? core = some (f k) := by
  rw [Part.core?, hcores]
  exact (Part.core?_modCore_same P core f).trans (congrArg (Option.map f) hk)

theorem Part.cores_refreshBatches (P : Part) (gid : Nat) : (P.refreshBatches gid).run.cores = P.run.cores := Part.cores_modGroup ..

/-- The tile that one step leaves. -/
def Tile.stepped (x : Tile) (k : Core) (ra rb : Reservation) (a b : StepPtr) : Tile :=
  { x with cells := stepTile ra.fmt.toNat rb.fmt.toNat (ra.blen != 0 || rb.blen != 0) (k.operandElements ra a.blk a.str).1 (k.operandElements rb b.blk b.str).1 x }

/-- The context after the cells of one step have been written and its NaN inputs counted. -/
def Ctx.stepped (c : Ctx) (m : MatrixOp) (k : Core) (phys : Nat) (x : Tile) (ra rb : Reservation) (a b : StepPtr) : Ctx :=
  let c := c.writeTile phys (x.stepped k ra rb a b)
  let n := Table.getD c.g.nans m.bno 0 + (k.operandElements ra a.blk a.str).2 + (k.operandElements rb b.blk b.str).2
  if n = 0 then c else c.setG { c.g with nans := Table.set c.g.nans m.bno n }

/-- An operation after one of its repetitions. -/
def MatrixOp.stepped (m : MatrixOp) (a b : StepPtr) (da db : Int) (left : Nat) : MatrixOp :=
  if left ≤ 1 then { m with done := true }
  else { m with work := .steps { a with blk := (a.blk + da).toNat } { b with blk := (b.blk + db).toNat } da db (left - 1) }

theorem Ctx.runStep_agrees {k : Core} {phys left : Nat} {a b : StepPtr} {da db : Int} {ra rb : Reservation} {x : Tile}
    (hra : c.reservation a.hnd = some ra) (hrb : c.reservation b.hnd = some rb) (hx : Table.get? k.tiles phys = some x) (hpoison : x.poison = [])
    (hopoison : k.opoison = []) (hcpoison : k.cpoison = []) :
    c.runStep m k phys a b da db left .agrees =
      let c₁ := c.stepped m k phys x ra rb a b
      if left ≤ 1 then c₁.matrixDone m
      else c₁.s.setPart c₁.p (c₁.P.modCore (c₁.P.coreOf c₁.gid) fun k => k.setMatrix
        { m with work := .steps { a with blk := (a.blk + da).toNat } { b with blk := (b.blk + db).toNat } da db (left - 1) }) := by
  have hread : ((ra.footprint a.blk a.str ++ rb.footprint b.blk b.str).any fun r => (touched 8 r.1 r.2).any k.opoison.contains) = false := by
    rw [hopoison]
    exact List.any_eq_false.2 fun r _ => Bool.eq_false_iff.1 (List.any_eq_false.2 fun _ _ => nofun)
  have hwhole : (!x.poison.isEmpty) = false := by
    rw [hpoison]
    rfl
  have hrecord : c.recordPoison k [a.hnd, b.hnd] = false := by
    rw [Ctx.recordPoison, hcpoison]
    rfl
  unfold Ctx.runStep
  rw [hra, hrb, hx]
  dsimp only
  rw [hread, hwhole, hrecord, if_neg (by decide), if_neg (by decide), if_neg (by decide : ¬CheckResult.agrees = .corrected)]
  rfl

/-- What the cells of one step and its NaN inputs leave: the tile alone has changed on the cores. -/
theorem Ctx.stepped_spec {k : Core} {phys : Nat} {x : Tile} {ra rb : Reservation} {a b : StepPtr} (hk : c.P.core? (c.P.coreOf c.gid) = some k) :
    let c₁ := c.stepped m k phys x ra rb a b
    c₁.p = c.p ∧ c₁.gid = c.gid ∧ (∀ q, q ≠ c.p → c₁.s.part? q = c.s.part? q) ∧ (∀ y, c₁.s.byte y = c.s.byte y) ∧
      c₁.P.coreOf c.gid = c.P.coreOf c.gid ∧ ∃ k₁, c₁.P.core? (c.P.coreOf c.gid) = some k₁ ∧ k₁.matrix = k.matrix ∧
        Table.get? k₁.tiles phys = some (x.stepped k ra rb a b) := by
  unfold Ctx.stepped
  dsimp only
  generalize x.stepped k ra rb a b = x'
  obtain ⟨hp₂, hgid₂, hothers, hbyte, hcores, hcoreOf⟩ := (c.writeTile phys x').counted _ { (c.writeTile phys x').g with nans := _ }
  refine ⟨hp₂, hgid₂, fun q hq => (hothers q hq).trans (State.part?_setPart_ne _ _ hq), hbyte, hcoreOf, ?_⟩
  refine ⟨{ k with tiles := Table.set k.tiles phys x', written := insertNum k.written (tileNumber phys) }, ?_, rfl, Table.get?_set_same ..⟩
  rw [Part.core?, hcores]
  exact (Part.core?_modCore_same ..).trans (congrArg (Option.map _) hk)

theorem stepsUpdateEveryCell : StepsUpdateEveryCell := by
  intro s p c core k m phys name left a b da db ra rb x hc hcore hk hnext htile hwork hra hrb hx hpoison hopoison hcpoison hnodup
  obtain ⟨hfit, hs, hp, hgid⟩ := State.ctx?_spec hc
  have hpart : s.part? p = some c.P := by
    rw [← hs, ← hp]
    exact hfit.part
  rw [← hgid] at hcore
  have he : exec (.matrixStep p core .agrees) s = .next (c.runStep m k phys a b da db left .agrees) := by
    change execMatrixStep p core .agrees s = _
    rw [execMatrixStep, hpart, Option.bind_some, hk]
    dsimp only
    rw [hnext]
    dsimp only
    rw [hc]
    dsimp only
    rw [Ctx.runMatrix, htile]
    dsimp only
    rw [hwork]
  rw [Ctx.runStep_agrees hra hrb hx hpoison hopoison hcpoison] at he
  obtain ⟨hp₁, hgid₁, hothers, hbyte, hcoreOf, k₁, hk₁, hmatrix, htile₁⟩ :=
    Ctx.stepped_spec (m := m) (phys := phys) (x := x) (ra := ra) (rb := rb) (a := a) (b := b) (hcore.symm ▸ hk)
  generalize c.stepped m k phys x ra rb a b = c₁ at he hp₁ hgid₁ hothers hbyte hcoreOf hk₁
  rw [hcore] at hk₁ hcoreOf
  rw [← hgid₁] at hcoreOf
  obtain ⟨P', hP', heq⟩ : ∃ P', P'.run.cores = (c₁.P.modCore core.toNat fun k => k.setMatrix (m.stepped a b da db left)).run.cores ∧
      exec (.matrixStep p core .agrees) s = .next (c₁.s.setPart p P') := by
    dsimp only at he
    rw [he, hcoreOf, ← hp, ← hp₁, MatrixOp.stepped]
    split
    · refine ⟨_, ?_, rfl⟩
      rw [Part.cores_modGroup, Part.cores_refreshBatches, hcoreOf]
    · exact ⟨_, rfl, rfl⟩
  have hfind : (k₁.matrix.find? fun o => o.id == m.id) = some m := hmatrix.symm ▸ find_of_nodup hnodup (nextMatrix_mem hnext)
  have hid : (m.stepped a b da db left).id = m.id := by
    rw [MatrixOp.stepped]
    split <;> rfl
  refine ⟨_, P', heq, State.part?_setPart_same .., ⟨k₁.setMatrix (m.stepped a b da db left), x.stepped k ra rb a b, Part.core?_of_work hk₁ hP', htile₁, rfl, rfl,
    fun y hy j hj => get_stepTile _ _ _ _ _ x hy hj, Core.find_setMatrix hfind hid⟩, fun q hq => ?_, fun y => (hbyte y).trans (by rw [hs])⟩
  rw [State.part?_setPart_ne _ _ hq, ← hs]
  exact hothers q (hp ▸ hq)

/-- A core after a piece of a fill. -/
def Core.filled (k : Core) (m : MatrixOp) (dst : Nat) (bs : List Byte) (rest : List (Nat × Nat × Nat)) : Core :=
  let k := k.putOperand dst bs
  if rest.isEmpty then { k with matrix := k.matrix.filter fun o => o.id != m.id } else k.setMatrix { m with work := .fill rest }

theorem Core.operand_filled (k : Core) (m : MatrixOp) (dst : Nat) (bs : List Byte) (rest : List (Nat × Nat × Nat)) :
    (k.filled m dst bs rest).operand = Cells.setMany 0 k.operand dst bs := by
  rw [Core.filled]
  split <;> rfl

theorem Core.find_filled {k : Core} (hfind : (k.matrix.find? fun o => o.id == m.id) = some m) (dst : Nat) (bs : List Byte) (rest : List (Nat × Nat × Nat)) :
    ((k.filled m dst bs rest).matrix.find? fun o => o.id == m.id) = if rest = [] then none else some { m with work := .fill rest } := by
  rw [Core.filled]
  by_cases hrest : rest = []
  · rw [if_pos hrest, if_pos (List.isEmpty_iff.2 hrest)]
    refine List.find?_eq_none.2 fun o ho hid => ?_
    have hne := (List.mem_filter.1 ho).2
    rw [bne, hid] at hne
    nomatch hne
  · rw [if_neg hrest, if_neg fun h => hrest (List.isEmpty_iff.1 h)]
    exact Core.find_setMatrix (k := k.putOperand dst bs) hfind rfl

theorem fillsLand : FillsLand := by
  intro s p c op k m src dst n rest hc hk hfind hlist hnodup hwork hready hpoison hlen
  obtain ⟨hfit, hs, hp, hgid⟩ := State.ctx?_spec hc
  have hpart : s.part? p = some c.P := by
    rw [← hs, ← hp]
    exact hfit.part
  obtain rfl : m.id = op := beq_iff_eq.1 (List.find?_some (p := fun o : MatrixOp => o.id == op) hfind)
  let f (k : Core) : Core := k.filled m dst (c.peek src n) rest
  let P' := (c.P.modCore (c.P.coreOf c.gid) f).modGroup c.gid Group.wake
  have he : exec (.fillLanding p m.id) s = .next (s.setPart p P') := by
    change execFillLanding p m.id s = _
    rw [execFillLanding, hpart, Option.bind_some, hlist]
    dsimp only
    rw [hfind]
    dsimp only
    rw [hwork, hc]
    dsimp only
    rw [hready, if_pos rfl, Ctx.fillMove, hpoison, if_neg Bool.false_ne_true, hs, hp]
    rfl
  have hcore : coreOfGroup P' m.gid = some (f k) := by
    rw [← hgid, coreOfGroup, Part.coreOf_modGroup, Part.coreOf_modCore]
    exact Part.core?_of_work (hgid ▸ hk) (Part.cores_modGroup ..)
  have hget (b : Nat) : Cells.get 0 (f k).operand b = if dst ≤ b then (c.peek src n).getD (b - dst) (Cells.get 0 k.operand b) else Cells.get 0 k.operand b := by
    rw [Core.operand_filled]
    exact Cells.get_setMany ..
  refine becomes_of_setPart he ⟨f k, hcore, ?_, fun b hb => ?_, Core.find_filled hfind ..⟩
  · rw [Core.operand_filled]
    have h := Cells.getMany_setMany 0 k.operand dst (c.peek src n)
    rwa [hlen] at h
  · rw [hget]
    split
    · exact List.getD_eq_default _ _ (by omega)
    · rfl

/-- Settles O41: a step writes each cell of its tile and moves its operation on, and a fill's pieces land in the operand buffer one by one. -/
theorem matrixEngineEventsHappen : Obligations.MatrixEngineEventsHappen := ⟨stepsUpdateEveryCell, fillsLand⟩
end

end Sys2Proof.Machine
end

section
/-!
PROOF. The dispatcher and the egg timer (spec/16_die.md R323 to R329, R332, R334, spec/08_core_state.md R168, R180, R190,
spec/23_firmware_boot_power.md R429).
-/
namespace Sys2Proof.Machine
open Sys2Proof.Spec

section
variable {s : State} {p : PartNo} {P Q : Part} {tk : Nat} {t : Team}

/-! ## Placement (R324 to R327) -/

theorem clustersArePlaced : ClustersArePlaced := by
  intro s p P Q k l t hP hdrain hfreezing hfrozen hstopped hrelaunch hnext hl hco hmode hmay henergy hother hplace hmoves hQ hattaches hlQ
  have hset : l.mode.isNone = false := by
    cases hm : l.mode with
    | none =>
      rw [hm] at hmode
      nomatch hmode
    | some m => rfl
  have hsame : l.inMode P = l := by
    rw [Launch.inMode, hset]
    rfl
  have hbatch : l.batch = [l.next] := by
    rw [Launch.batch, hco]
    rfl
  have hexplores : P.explores k l = false := by
    rw [Part.explores, hset]
    rfl
  have hgates : P.attachesDecided [] = true := by
    rw [Part.attachesDecided]
    exact Bool.or_eq_true_iff.2 (.inr rfl)
  let f (x : Launch) : Launch := { x with next := l.next + 1, mode := l.mode }
  have he : exec (.clusterPlacement p) s = .next (t.s.modPart p fun P => P.modLaunch k f) := by
    change execClusterPlacement p s = _
    rw [execClusterPlacement, hP]
    dsimp only
    rw [hdrain, hfreezing, hfrozen, hstopped, if_neg (by simp), hrelaunch]
    dsimp only
    rw [hnext]
    dsimp only
    rw [State.placeNew, hmay, hother, hset, Bool.not_true, Bool.false_or, if_neg Bool.false_ne_true, Bool.false_and, if_neg Bool.false_ne_true,
      henergy, Bool.not_true, if_neg Bool.false_ne_true, hsame]
    dsimp only
    rw [hbatch, List.foldl_cons, List.foldl_nil, Option.bind_some, hplace]
    dsimp only
    rw [hexplores, if_neg (by simp), State.letIn, hQ]
    dsimp only
    rw [hattaches, hmoves, hgates]
    rfl
  refine ⟨_, _, he, State.part?_modPart_some hQ _, ⟨f l, (Table.get?_modify_same Q.run.launches k f).trans (congrArg (Option.map f) hlQ), rfl⟩, rfl, rfl, rfl⟩

/-! ## Launch (R12, R30, R36, R168, R323) -/

theorem get?_map_range {α : Type} (f : Nat → α) {n j : Nat} (hj : j < n) : Table.get? ((List.range n).map fun i => (i, f i)) j = some (f j) :=
  get?_of_mem_nodup (by rw [List.map_map]; exact (List.map_id (List.range n)).symm ▸ List.nodup_range) (List.mem_map.2 ⟨j, List.mem_range.2 hj, rfl⟩)

theorem launchedTeamsStartAtTheEntry : LaunchedTeamsStartAtTheEntry := by
  intro l launch pos rank ci core slot unitBase marks hci hrank hcx hcy t
  exact ⟨rfl, rfl, rfl, rfl, fun j hj => ⟨_, get?_map_range (fun _ => Group.initial l.kernel.entry l.seed (l.kernel.tvec.getD defaultVector)) hj,
    rfl, rfl, rfl, rfl, rfl, rfl, rfl, fun _ _ => rfl, fun _ => rfl, fun _ _ => BitVec.getLsbD_zero⟩⟩

/-! ## Final commits (R190, R329) -/

theorem State.Beside.setPart {u : State} (h : s.Beside u p) (P : Part) : s.Beside (u.setPart p P) p :=
  ⟨by rw [h.same]; rfl, fun q hq => (State.part?_setPart_ne u P hq).trans (h.others q hq)⟩

/-- The colander of a team is taken. -/
theorem State.beginCommit_beside (hP : s.part? p = some P) (ht : P.team? tk = some t) (grp : Nat) (final : Bool) :
    ∃ s₁ : State, s.beginCommit p tk grp final = s₁.advanceCommit p tk ∧ s₁.part? p = some (P.took tk t grp final) ∧ s.Beside s₁ p := by
  refine ⟨_, rfl, ?_, (State.Beside.refl s p).modPart _⟩
  rw [State.part?_modPart_some hP]
  simp only [ht]
  rfl

/-- The end of a final commit that has nothing to write. -/
theorem State.advanceCommit_final (hP : s.part? p = some P) (ht : P.team? tk = some t) (hm : P.mode = 0 ∨ P.mode = 1) {c : Commit}
    (hc : t.commit = some c) (hreq : c.req = 0) (hl : c.lines = []) (hp : c.posts = []) (hf : c.final = true) :
    ∃ s₁, s.advanceCommit p tk = s₁.retire p tk ∧ s₁.part? p = some (P.commitOver tk (t.commitN + 1)) ∧ s.Beside s₁ p := by
  let P₁ := (P.modTeam tk Team.commitDone).modRun fun r => { r with sights := r.sights.filter fun e => e.team != tk }
  have hP₁ : (s.setPart p P₁).part? p = some P₁ := State.part?_setPart_same ..
  have ht₁ : P₁.team? tk = some { t.wake with commit := none } := by
    change (P.modTeam tk Team.commitDone).team? tk = _
    rw [Part.team?_modTeam_same, ht]
    rfl
  have hm₁ : P₁.mode = P.mode := Part.mode_modTeam P tk (f := Team.commitDone) fun _ => rfl
  have he : s.advanceCommit p tk = ((s.setPart p P₁).commitMade p tk c.grp).retire p tk := by
    rw [State.advanceCommit, hP]
    simp only [ht, hc, hreq, hl, hp, hf, ne_eq, not_true_eq_false, if_false, List.takeWhile_nil, List.find?_nil, Part.sendPosts, if_true]
    rfl
  refine ⟨_, he.trans (congrArg (State.retire · p tk) (State.commitMade_free hP₁ ht₁ (hm₁ ▸ hm) _)), State.part?_modPart_some hP₁ _,
    ((State.Beside.refl s p).setPart P₁).modPart _⟩

theorem Part.ret_teamOver (P : Part) (t : Team) : (P.teamOver t).ret = P.ret ∧ (P.teamOver t).run.teams = P.run.teams := by
  unfold Part.teamOver
  dsimp only
  split
  · exact ⟨rfl, rfl⟩
  · split <;> exact ⟨rfl, rfl⟩

/-- A team without attaches and staged records retires: it is gone, and RET has counted it. -/
theorem State.retire_spec (hP : s.part? p = some P) (ht : P.team? tk = some t) (hattaches : t.attaches = []) (hstaged : t.staged = []) :
    s.Beside (s.retire p tk) p ∧ ∃ P', (s.retire p tk).part? p = some P' ∧ P'.team? tk = none ∧ P'.ret = P.ret + 1 := by
  let P₁ := P.modTeam tk fun t => { t with staged := [] }
  let t₁ : Team := { t with staged := [] }
  have hunstage : s.allSeen.unstage p tk = s.allSeen.modTeam p tk fun t => { t with staged := [] } := by
    rw [State.unstage, show s.allSeen.part? p = some P from hP, Option.bind_some, ht]
    dsimp only
    rw [hstaged]
    rfl
  have hP₁ : (s.allSeen.modTeam p tk fun t => { t with staged := [] }).part? p = some P₁ := State.part?_modPart_some (s := s.allSeen) hP _
  have ht₁ : P₁.team? tk = some t₁ := by
    rw [Part.team?_modTeam_same, ht]
    rfl
  have hfree : (P₁.freeTeam tk).team? tk = none ∧ (P₁.freeTeam tk).ret = P.ret := by
    rw [Part.freeTeam, ht₁]
    exact ⟨(Table.get?_erase ..).trans (if_pos rfl), rfl⟩
  rw [State.retire, hunstage]
  refine ⟨((State.Beside.refl s p).allSeen.modPart _).modPart _, _, State.part?_modPart_some hP₁ _, ?_⟩
  rw [ht₁]
  dsimp only
  rw [show t₁.attaches = [] from hattaches]
  obtain ⟨-, hteams⟩ := (P₁.freeTeam tk).ret_teamOver t₁
  refine ⟨?_, rfl⟩
  change Table.get? ((P₁.freeTeam tk).teamOver t₁).run.teams tk = none
  rw [hteams]
  exact hfree.1

theorem finalCommitsRetireTeams : FinalCommitsRetireTeams := by
  intro s p P tk t hP ht hended hcommit hmode
  obtain ⟨⟨grp, pc⟩, hend⟩ := Option.isSome_iff_exists.1 hended
  have hmay : P.mayRetire t = true := by
    rw [Part.mayRetire, hended, hcommit, hmode]
    rfl
  have he : exec (.finalCommit p tk) s = .next (s.beginCommit p tk grp true) := by
    change execFinalCommit p tk s = _
    rw [execFinalCommit, hP, Option.bind_some, ht]
    dsimp only [Option.map_some]
    rw [hend]
    dsimp only
    rw [hmay, if_pos rfl]
  obtain ⟨s₁, he₁, hP₁, hbeside⟩ := State.beginCommit_beside hP ht grp true
  obtain ⟨mine, ht₁⟩ := Part.took_team? ht grp true
  rw [he₁] at he
  refine ⟨fun hcolander hposted hattaches hstaged => ?_, fun x rest hcolander => ?_⟩
  · obtain ⟨s₂, he₂, hP₂, hbeside₂⟩ := State.advanceCommit_final hP₁ ht₁ (.inl ((Part.took_mode (P := P) (tk := tk) (t := t) grp true).trans hmode)) rfl rfl
      hcolander hposted rfl
    obtain ⟨hbeside₃, P₃, hP₃, hteam₃, hret₃⟩ := State.retire_spec hP₂ (Part.commitOver_team? ht₁ _) hattaches hstaged
    rw [he₂] at he
    exact becomes_of_beside he hP₃ ((hbeside.trans hbeside₂).trans hbeside₃) ⟨hteam₃, hret₃⟩
  · rw [State.advanceCommit_line hP₁ ht₁ rfl rfl hcolander] at he
    exact becomes_of_beside he (State.part?_setPart_same ..) (hbeside.setPart _)
      ⟨_, _, _, Part.sentLine_team? ht₁ _ _, rfl, rfl, rfl, Table.get?_set_same .., rfl, rfl, rfl, rfl, rfl⟩

/-! ## Completion of launches (R328, R330, R426, R429) -/

/-- A range that no `cpyv` holds is held by none once the partition's other work has changed (R216). -/
theorem State.rangeHeld_setPart (hP : s.part? p = some P) (hheld : Q.run.held = P.run.held) {pa n : Nat} (hfree : s.rangeHeld pa n = false) :
    (s.setPart p Q).rangeHeld pa n = false := by
  obtain ⟨hcut, hparts⟩ := Bool.or_eq_false_iff.1 hfree
  refine Bool.or_eq_false_iff.2 ⟨hcut, List.any_eq_false.2 fun e he hany => ?_⟩
  rcases (Table.mem_place ..).1 he with rfl | he
  · refine List.any_eq_false.1 hparts _ (mem_of_get? hP) ?_
    rw [← hheld]
    exact hany
  · rw [Table.erase_eq_filter] at he
    exact List.any_eq_false.1 hparts e (List.mem_filter.1 he).1 hany

/-- A partition whose launches have been reported. -/
def Part.reported (P : Part) : Part := P.modRun fun r => { r with launches := r.launches.map fun e => (e.1, e.2.report) }

theorem Part.mode_reported (P : Part) : P.reported.mode = P.mode := by
  have hmode : P.reported.liveMode = P.liveMode := by
    unfold Part.liveMode
    refine congrArg (Option.bind P.run.teams.head?) (funext fun e => ?_)
    rw [show Table.get? P.reported.run.launches e.2.launch = (Table.get? P.run.launches e.2.launch).map Launch.report from
      Table.get?_map P.run.launches (fun _ => Launch.report) _, Option.bind_map]
    rfl
  rw [Part.mode, Part.mode, hmode]
  rfl

/-- A partition of which a launch is complete (R429). -/
def Part.launchDone (P : Part) (k : Nat) (l : Launch) : Part :=
  let P := P.modRun fun r => { r with launches := Table.erase r.launches k }
  let P := if l.sigen then P.signalAdd l.sig.toNat 1 else P
  if l.notify then P.vector 3 else P

theorem Part.launchDone_spec (P : Part) (k : Nat) (l : Launch) : Table.get? (P.launchDone k l).run.launches k = none ∧
    Cells.get 0 (P.launchDone k l).signals l.sig.toNat = Cells.get 0 P.signals l.sig.toNat + (if l.sigen then 1 else 0) ∧
    Cells.get 0 (P.launchDone k l).vectors 3 = Cells.get 0 P.vectors 3 + (if l.notify then 1 else 0) := by
  have hgone : Table.get? (Table.erase P.run.launches k) k = none := (Table.get?_erase ..).trans (if_pos rfl)
  unfold Part.launchDone Part.signalAdd Part.vector
  cases l.sigen <;> cases l.notify <;> simp [hgone]

theorem launchesComplete : LaunchesComplete := by
  intro s p P k l x hP hover hmode hx hentry hport
  let Q := P.reported
  let s₁ := s.setPart p Q
  have hmodeQ : Q.mode = 0 ∨ Q.mode = 1 := P.mode_reported.symm ▸ hmode
  have hexploring : Q.exploring = false := by
    rw [Part.exploring]
    rcases hmodeQ with h | h <;> rw [h] <;> rfl
  have hplace : x.entryPlace l.cons = (x.cbase.extractLsb' 4 48).toNat * 16 + (l.cons - 1).toNat % max 1 x.size.toNat * 16 := by
    rw [Queue.entryPlace, field_eq]
  generalize (x.cbase.extractLsb' 4 48).toNat * 16 + (l.cons - 1).toNat % max 1 x.size.toNat * 16 = pa at hport hplace ⊢
  have hfree : s₁.entryHeld Q l.queue.toNat l.cons = false := by
    have hxQ : Table.get? Q.queues l.queue.toNat = some x := hx
    rw [State.entryHeld, hx, Option.any_some] at hentry
    rw [State.entryHeld, hxQ, Option.any_some]
    exact State.rangeHeld_setPart (Q := Q) hP rfl hentry
  have hmissing : Q.missingCommit l = none := by
    rw [Part.missingCommit, Part.detects]
    rcases hmodeQ with h | h <;> rw [h] <;> rfl
  obtain ⟨hash, hhash⟩ : ∃ hash, P.launchHash k l = hash := ⟨_, rfl⟩
  have he : exec (.launchCompletion p) s = .next ((s₁.completionEntry p l.queue.toNat l.tag l.cons 0 hash).modPart p fun P => P.launchDone k l) := by
    change execLaunchCompletion p s = _
    rw [execLaunchCompletion, hP]
    dsimp only
    rw [show (P.modRun fun r => { r with launches := r.launches.map fun e => (e.1, e.2.report) }) = Q from rfl, show Q.run.launches.find? Q.launchOver = some (k, l) from hover]
    dsimp only
    rw [hexploring, if_neg (by simp), hfree, if_neg Bool.false_ne_true, hmissing]
    dsimp only
    rw [show Q.launchHash k l = hash from hhash]
    rfl
  have hxQ : (s₁.part? p).bind (fun P => Table.get? P.queues l.queue.toNat) = some x := by
    rw [State.part?_setPart_same, Option.bind_some]
    exact hx
  have hwrite : s₁.completionEntry p l.queue.toNat l.tag l.cons 0 hash =
      s₁.store pa (leBytes 16 (hash.toNat + l.tag.toNat * 2 ^ 64 + l.cons.toNat * 2 ^ 104)) := by
    rw [State.completionEntry, hxQ]
    dsimp only
    rw [hplace, Nat.zero_mul, Nat.add_zero]
    rfl
  rw [hwrite] at he
  rw [hhash]
  generalize hash.toNat + l.tag.toNat * 2 ^ 64 + l.cons.toNat * 2 ^ 104 = entry at he
  have hQ : (s₁.store pa (leBytes 16 entry)).part? p = some Q := (State.part?_store ..).trans (State.part?_setPart_same ..)
  obtain ⟨hgone, hsignal, hvector⟩ := Q.launchDone_spec k l
  refine ⟨_, _, he, State.part?_modPart_some hQ _, hgone, hsignal, hvector, fun j hj => ?_⟩
  have hlen : (leBytes 16 entry).length = 16 := leBytes_length ..
  refine (State.byte_store s₁ pa (leBytes 16 entry) (pa + j)).trans ?_
  rw [if_pos ⟨hport, Nat.le_add_right ..⟩, Nat.add_sub_cancel_left, List.getD_eq_getElem _ _ (by omega), List.getD_eq_getElem _ _ (by omega)]

/-! ## Crocks that arrive (R180) -/

theorem Core.scratch_fetchSlot (s : State) (pa : Nat) (k : Core) (slot a : Nat) : Cells.get 0 (s.fetchSlot pa k slot).scratch a =
    if slot * 4096 ≤ a ∧ a < slot * 4096 + 4096 then s.byte (pa + (a - slot * 4096)) else Cells.get 0 k.scratch a := by
  have hlen : (s.bytes pa 4096).length = 4096 := getMany_length ..
  have hscratch : (s.fetchSlot pa k slot).scratch = Cells.setMany 0 k.scratch (slot * 4096) (s.bytes pa 4096) := by rw [State.fetchSlot]
  rw [hscratch, Cells.get_setMany]
  by_cases hlow : slot * 4096 ≤ a
  · rw [if_pos hlow]
    by_cases hhigh : a < slot * 4096 + 4096
    · rw [if_pos ⟨hlow, hhigh⟩, List.getD_eq_getElem _ _ (by omega), ← List.getD_eq_getElem _ 0, State.bytes, getMany_getD 0 _ _ (by omega)]
      rfl
    · rw [if_neg fun h => hhigh h.2]
      exact List.getD_eq_default _ _ (by omega)
  · rw [if_neg hlow, if_neg fun h => hlow h.1]

theorem Core.scratch_fetched (s : State) (d : DirEntry) (n : Nat) (k : Core) : ∀ j < n, ∀ o < 4096,
    Cells.get 0 ((List.range n).foldl (fun k j => s.fetchSlot (d.backingPa j) k (d.base.toNat + j)) k).scratch ((d.base.toNat + j) * 4096 + o) =
      s.byte ((d.backing + j) * 4096 + o) := by
  induction n with
  | zero => nofun
  | succ n ih =>
    intro j hj o ho
    rw [List.range_succ, List.foldl_append, List.foldl_cons, List.foldl_nil, Core.scratch_fetchSlot]
    by_cases hlast : j = n
    · subst hlast
      rw [if_pos (by omega), DirEntry.backingPa, Nat.add_sub_cancel_left]
    · rw [if_neg (by omega), ih j (by omega) o ho]

theorem crocksArrive : CrocksArrive := by
  intro s p P name i d k hP hfind hk hheld
  let f (k : Core) : Core := (List.range (d.count.toNat + 1)).foldl (fun k j => s.fetchSlot (d.backingPa j) k (d.base.toNat + j)) k
  have he : exec (.crockMoveDone p name) s = .next (s.setPart p ((P.modCore d.core.toNat f).setDir i { d with state := 1 })) := by
    change execCrockMoveDone p name s = _
    rw [execCrockMoveDone, hP, Option.bind_some, hfind]
    dsimp only [Option.map_some]
    rw [hheld, if_neg Bool.false_ne_true]
  refine becomes_of_setPart he ⟨Table.get?_set_same .., f k, ?_, fun j hj o ho => Core.scratch_fetched s d _ k j (by omega) o ho⟩
  exact (Part.core?_modCore_same ..).trans (congrArg (Option.map f) hk)

/-! ## The egg timer (R332, R334) -/

theorem windowsEnd : WindowsEnd := by
  intro s p P hP hfreezing hfrozen hquiet
  have hstill : (P.fire == 0 && P.ret == 0 && P.anyLive && P.regs.egg.getLsbD 63) = false := by
    rcases hquiet with h | h | h | h
    · rw [beq_eq_false_iff_ne.2 h]
      rfl
    · rw [beq_eq_false_iff_ne.2 h, Bool.and_false]
      rfl
    · rw [Part.anyLive, h, List.isEmpty_nil, Bool.not_true, Bool.and_false]
      rfl
    · rw [h, Bool.and_false]
  have he : exec (.eggTimerWindow p) s = .next (s.setPart p (P.nextWindow s.tick)) := by
    change execEggTimerWindow p s = _
    rw [execEggTimerWindow, hP]
    dsimp only
    rw [hfreezing, hfrozen, if_neg (by simp), hstill]
    rfl
  refine becomes_of_setPart he ?_
  rw [Part.nextWindow, field_eq, BitVec.ofNat_toNat, BitVec.setWidth_eq]

/-- Settles O43: clusters enter at the trial's placement, teams start at the entry and retire by their final commit, and launches, moves and windows end. -/
theorem dispatcherEventsHappen : Obligations.DispatcherEventsHappen :=
  ⟨clustersArePlaced, launchedTeamsStartAtTheEntry, finalCommitsRetireTeams, launchesComplete, crocksArrive, windowsEnd⟩
end

end Sys2Proof.Machine
end

section
/-!
PROOF. Order gates, the sieve, and record chunks (spec/18_choice_points.md R363, R367, R375 to R382, spec/21_checkpoint_images.md R407).
-/
namespace Sys2Proof.Machine
open Sys2Proof.Spec

section
variable {s : State} {p : PartNo} {P : Part}

/-! ## Gates (R363) -/

theorem gatesAdmitTheNamedRequest : GatesAdmitTheNamedRequest := by
  intro s p P id r e hP hfrozen hfreezing hmode hsteer hfree hfind he'
  have hmem : e ∈ P.heldLines id := List.mem_of_find?_eq_some hfind
  have hheld : (P.heldLines id).isEmpty = false := List.isEmpty_eq_false_iff.2 fun h => by
    rw [h] at hmem
    nomatch hmem
  have hidle : (P.run.lines.any fun e => e.2.gated && lineId e.2.pline == id && e.2.admitted) = false := by
    rw [List.any_eq_not_all_not, hfree]
    rfl
  have he : exec (.orderGateAdmit p .line id) s = .next (s.setPart p { P.admitLine e.1 with choice := P.choice.advance .line id }) := by
    change execOrderGateAdmit p .line id s = _
    rw [execOrderGateAdmit, hP]
    dsimp only
    rw [hfrozen, hfreezing, if_neg (by simp), hmode, if_pos (by rfl), Part.steerLine, hheld, hidle, if_neg (by simp), hsteer]
    dsimp only
    rw [hfind]
  refine becomes_of_setPart he ⟨?_, rfl⟩
  change Table.get? (Table.modify P.run.lines e.1 fun x => { x with admitted := true }) e.1 = _
  rw [Table.get?_modify_same, he']
  rfl

/-! ## Decisions of the sieve (R376, R378) -/

/-- One decision whose only choice is a held line access. -/
theorem State.serve_line {d : Pending} {x : Choosable} {id : Nat} {r : LineReq} (hP : s.part? p = some P) (hx : x.serve = .line id)
    (hr : Table.get? P.run.lines id = some r) : s.Beside (s.serve p d x) p ∧ ∃ P', (s.serve p d x).part? p = some P' ∧
      Table.get? P'.run.lines id = some { r with admitted := true } ∧ P'.sieve = { P.sieve with dec := P.sieve.dec + 1 } := by
  unfold State.serve
  dsimp only
  rw [hx]
  dsimp only
  refine ⟨((State.Beside.refl s p).modPart _).modPart _, _, State.part?_modPart_some (State.part?_modPart_some hP _) _, ?_, rfl⟩
  refine (Table.get?_modify_same P.run.lines id fun x => { x with admitted := true }).trans ?_
  rw [hr]
  rfl

theorem theSieveDecides : TheSieveDecides := by
  intro s p P d x id r hP hmode hfrozen hfreezing hended hquiet hnext hchoices hserve hr
  have htake : d.choices.take 256 = [x] := by rw [hchoices]; rfl
  obtain ⟨s₁, P₁, hs₁, hP₁, hbeside, hlines, hsieve⟩ : ∃ s₁ P₁, exec (.sieveDecision p) s = .next (s₁.serve p d x) ∧ s₁.part? p = some P₁ ∧
      s.Beside s₁ p ∧ P₁.run.lines = P.run.lines ∧ P₁.sieve = P.sieve := by
    have he : exec (.sieveDecision p) s = .next (s.decideOne p P d) := by
      change execSieveDecision p s = _
      rw [execSieveDecision, hP]
      dsimp only
      rw [hmode, hfrozen, hfreezing, hended, hquiet, if_neg (by decide), hnext]
    rw [State.decideOne] at he
    dsimp only at he
    rw [htake] at he
    split at he
    · exact ⟨s, P, he, hP, .refl s p, rfl, rfl⟩
    · rw [Sieve.branch, List.map_singleton, List.length_singleton, if_pos (by decide)] at he
      exact ⟨_, _, he, State.part?_setPart_same .., (State.Beside.refl s p).setPart _, rfl, rfl⟩
  obtain ⟨hbeside', P', hP', hline, hsieve'⟩ := State.serve_line (d := d) hP₁ hserve (hlines.symm ▸ hr)
  exact becomes_of_beside hs₁ hP' (hbeside.trans hbeside') ⟨hline, by rw [hsieve', hsieve], by rw [hsieve', hsieve], by rw [hsieve', hsieve]⟩

/-! ## The next path (R375, R381, R382) -/

theorem nextPath_none {bs : List Branch} (h : nextPath bs = none) : ∀ x ∈ bs, x.keys.length ≤ x.index + 1 := by
  induction bs with
  | nil => nofun
  | cons b bs ih =>
    rw [nextPath] at h
    split at h
    · nomatch h
    next hrest =>
      split at h
      · nomatch h
      next hlast => exact List.forall_mem_cons.2 ⟨Nat.not_lt.1 hlast, ih hrest⟩

theorem pathsAreTakenDepthFirst : PathsAreTakenDepthFirst := by
  intro bs
  induction bs with
  | nil => nofun
  | cons b bs ih =>
    intro path h
    rw [nextPath] at h
    split at h
    next l hrest =>
      obtain ⟨before, b', after, rfl, hmore, rfl, hafter⟩ := ih l hrest
      exact ⟨b :: before, b', after, rfl, hmore, (Option.some.inj h).symm, hafter⟩
    next hrest =>
      split at h
      next hmore => exact ⟨[], b, bs, rfl, hmore, (Option.some.inj h).symm, nextPath_none hrest⟩
      · nomatch h

theorem Run.moveHome_kept (r : Run) (c d : Nat) : (r.moveHome c d).teams = r.teams ∧ (r.moveHome c d).dir = r.dir ∧ (r.moveHome c d).clusters = r.clusters := by
  unfold Run.moveHome
  split <;> exact ⟨rfl, rfl, rfl⟩

theorem Part.restoreRun_kept (P : Part) (r : Run) :
    (P.restoreRun r).teams = r.teams ∧ (P.restoreRun r).dir = r.dir ∧ (P.restoreRun r).clusters = r.clusters := by
  have hhomes (cores : List Nat) (r : Run) : let r' := cores.foldl (fun r c => r.moveHome c (P.homeCore c)) r
      r'.teams = r.teams ∧ r'.dir = r.dir ∧ r'.clusters = r.clusters := by
    induction cores generalizing r with
    | nil => exact ⟨rfl, rfl, rfl⟩
    | cons c cores ih =>
      obtain ⟨hteams, hdir, hclusters⟩ := r.moveHome_kept c (P.homeCore c)
      obtain ⟨hteams', hdir', hclusters'⟩ := ih (r.moveHome c (P.homeCore c))
      exact ⟨hteams'.trans hteams, hdir'.trans hdir, hclusters'.trans hclusters⟩
  exact hhomes _ _

theorem Part.endExploration_kept (P : Part) (n : BitVec 3) :
    (P.endExploration n).choice.xst = n ∧ (P.endExploration n).sieve.snapshot = none ∧ (P.endExploration n).run = P.run := by
  unfold Part.endExploration
  dsimp only
  split <;> exact ⟨rfl, rfl, rfl⟩

theorem theSieveBacktracks : TheSieveBacktracks := by
  intro s p P run domains hP hexploring hended hfrozen hfreezing hsnapshot
  have hmay : ¬((!P.exploring) = true ∨ (!P.sieve.ended) = true ∨ P.frozen = true ∨ P.freezing = true) := by
    rw [hexploring, hended, hfrozen, hfreezing]
    decide
  refine ⟨fun path hpath => ?_, fun hnone => ?_⟩
  · have he : exec (.sieveBacktrack p) s = .next (s.restoreSnapshot p P run domains path) := by
      change execSieveBacktrack p s = _
      rw [execSieveBacktrack, hP]
      dsimp only
      rw [if_neg hmay, hsnapshot, hpath]
    obtain ⟨hteams, hdir, -⟩ := P.restoreRun_kept run
    refine ⟨_, _, he, State.part?_setPart_same .., rfl, hteams, hdir, rfl, rfl, rfl, rfl, rfl, rfl, rfl, fun u hu hlen hport j hj => ?_⟩
    have hundo : P.sieve.undo.foldl State.undoLine s = s.storeLine u.pline (lineBytes 0 u.bytes) u.poison := by
      rw [hu, List.foldl_cons, List.foldl_nil, State.undoLine, if_neg (Bool.eq_false_iff.1 hport)]
    change (P.sieve.undo.foldl State.undoLine s).byte (u.pline * 128 + j) = _
    rw [hundo, State.byte_storeLine, Nat.add_zero, written_inside (by omega)]
  · have he : exec (.sieveBacktrack p) s = .next (s.setPart p (P.endExploration 2)) := by
      change execSieveBacktrack p s = _
      rw [execSieveBacktrack, hP]
      dsimp only
      rw [if_neg hmay, hsnapshot, hnone]
    exact becomes_of_setPart he (P.endExploration_kept 2)

/-! ## Record chunks (R367) -/

theorem State.part?_ringWrite (s : State) (base size prod : Nat) (ws : List DWord) (p : PartNo) : (s.ringWrite base size prod ws).part? p = s.part? p := by
  induction ws generalizing s prod with
  | nil => rfl
  | cons w ws ih => exact (ih ..).trans (State.part?_storeNum ..)

/-- A chunk that the record buffer has room for is appended whole (R368). -/
theorem State.appendChunk_fits {dom : Domain} {id : DWord} {first : Nat} {recs : List DWord} (hP : s.part? p = some P)
    (hroom : P.choice.fill + recs.length + 2 ≤ P.choice.rbsize.toNat) :
    (s.appendChunk p dom id first recs).2 = true ∧ ∃ P', (s.appendChunk p dom id first recs).1.part? p = some P' ∧
      P'.choice = { P.choice with rbprod := P.choice.rbprod + BitVec.ofNat 32 (recs.length + 2) } ∧ P'.run = P.run := by
  have hlen : (chunkWords dom id first recs).length = recs.length + 2 := rfl
  unfold State.appendChunk
  rw [hP]
  dsimp only
  rw [hlen, if_pos (by omega)]
  refine ⟨rfl, _, State.part?_setPart_same .., ?_⟩
  split <;> exact ⟨rfl, rfl⟩

theorem chunksAreFlushed : ChunksAreFlushed := by
  intro s p P dom id x hP hchunks hdom hid hne hmax hroom
  have hpick : (P.choice.chunks.find? fun c => decide (c.dom = dom ∧ c.id = id)) = some x := by
    rw [hchunks]
    exact List.find?_cons_of_pos (decide_eq_true ⟨hdom, hid⟩)
  have htake : x.recs.take 128 = x.recs := List.take_of_length_le hmax
  have hdrop : x.recs.drop 128 = [] := List.drop_eq_nil_of_le hmax
  obtain ⟨n, hn⟩ : ∃ n, x.recs.length = n + 1 := ⟨x.recs.length - 1, by omega⟩
  have hsome : x.recs.isEmpty = false := List.isEmpty_eq_false_iff.2 (List.ne_nil_of_length_pos hne)
  obtain ⟨hok, P₁, hP₁, hchoice, hrun⟩ := State.appendChunk_fits (dom := dom) (id := id) (first := x.first) hP hroom
  obtain ⟨first, hflush⟩ : ∃ first, s.flushRecords p dom id (x.recs.length + 1) x.first x.recs = ((s.appendChunk p dom id x.first x.recs).1, first, []) := by
    rw [State.flushRecords, hsome, if_neg Bool.false_ne_true, htake, hdrop]
    dsimp only
    rw [hok, if_pos rfl, hn]
    exact ⟨_, rfl⟩
  have he : exec (.chunkFlushTimer p dom id) s =
      .next ((s.appendChunk p dom id x.first x.recs).1.modPart p fun P => { P with choice := P.choice.settleChunk dom id none }) := by
    change execChunkFlushTimer p dom id s = _
    rw [execChunkFlushTimer, State.flushChunk, hP]
    dsimp only
    rw [hpick]
    dsimp only
    rw [hflush]
    rfl
  refine ⟨_, _, he, State.part?_modPart_some hP₁ _, ?_, ?_, hrun⟩
  · change (P₁.choice.settleChunk dom id none).chunks = []
    have hfirst : (([x] : List Chunk).findIdx fun y => y.dom == dom && y.id == id) = 0 := by
      rw [List.findIdx_cons, hdom, hid, beq_self_eq_true, beq_self_eq_true]
      rfl
    rw [Choice.settleChunk, hchoice]
    dsimp only
    rw [hchunks, hfirst]
    rfl
  · change (P₁.choice.settleChunk dom id none).rbprod = _
    rw [Choice.settleChunk, hchoice]

/-- Settles O44: a gate lets the named request go, the sieve serves its choice and takes paths depth first from the snapshot, and a chunk that fits is flushed. -/
theorem choiceEventsHappen : Obligations.ChoiceEventsHappen :=
  ⟨gatesAdmitTheNamedRequest, theSieveDecides, theSieveBacktracks, pathsAreTakenDepthFirst, chunksAreFlushed⟩
end

end Sys2Proof.Machine
end

section
/-!
PROOF. Freezes, and gang time slices (spec/21_checkpoint_images.md R397 to R399, R406, R407, spec/22_fabric.md R423).
-/
namespace Sys2Proof.Machine
open Sys2Proof.Spec

section
variable {s t : State} {p : PartNo} {P Q : Part}

/-! ## Clusters that are discarded (R272, R398) -/

/-- Of a partition, its work alone has changed. -/
def Part.OnlyRun (P Q : Part) : Prop := Q = { P with run := Q.run }

theorem Part.OnlyRun.trans {R : Part} (h : P.OnlyRun Q) (h' : Q.OnlyRun R) : P.OnlyRun R := by
  rw [Part.OnlyRun, h', h]

theorem Part.OnlyRun.foldl {α : Type} {f : Part → α → Part} (hf : ∀ (P : Part) (a : α), P.OnlyRun (f P a)) (as : List α) (P : Part) : P.OnlyRun (as.foldl f P) := by
  induction as generalizing P with
  | nil => rfl
  | cons a as ih => exact (hf P a).trans (ih _)

theorem Part.releaseAttach_onlyRun (P : Part) (core : Nat) (discard : Bool) (a : Attach) : P.OnlyRun (P.releaseAttach core discard a) := by
  unfold Part.releaseAttach Part.dropCrock Part.unhold
  dsimp only
  (repeat' split) <;> rfl

theorem Part.freeTeam_onlyRun (P : Part) (tk : Nat) : P.OnlyRun (P.freeTeam tk) := by
  unfold Part.freeTeam
  split <;> rfl

theorem Part.freeEngines_onlyRun (P : Part) (tk : Nat) : P.OnlyRun (P.freeEngines tk) := by
  unfold Part.freeEngines
  split <;> rfl

theorem Part.discard_onlyRun (P : Part) (tk : Nat) (pages : List Nat) : P.OnlyRun (P.discard tk pages) := by
  unfold Part.discard
  split
  · rfl
  · split
    · rfl
    next c _ =>
      refine (Part.OnlyRun.foldl (fun P k => ?_) c.teams P).trans rfl
      split
      · rfl
      next u _ =>
        have hcancel : P.OnlyRun (P.cancel k) := rfl
        have hattaches := Part.OnlyRun.foldl (fun P a => P.releaseAttach_onlyRun u.core true a) u.attaches (P.cancel k)
        exact (((hcancel.trans hattaches).trans (Part.freeEngines_onlyRun _ k)).trans (Part.freeTeam_onlyRun _ k)).trans rfl

theorem Part.discardAll_onlyRun (P : Part) : P.OnlyRun P.discardAll := by
  refine Part.OnlyRun.foldl (fun P e => ?_) P.run.clusters P
  split
  · split
    · exact P.discard_onlyRun ..
    · rfl
  · rfl

/-! ## A freeze (R397 to R399) -/

/-- REASON as a partition holds it. -/
def State.reasonOf (s : State) (p : PartNo) : Option (BitVec 6) := (s.part? p).map Part.reason

theorem State.reasonOf_congr (h : t.part? p = s.part? p) : t.reasonOf p = s.reasonOf p := congrArg (Option.map _) h

theorem State.reasonOf_modPart (s : State) (p : PartNo) {f : Part → Part} (hf : ∀ P, (f P).reason = P.reason) : (s.modPart p f).reasonOf p = s.reasonOf p := by
  rw [State.reasonOf, State.part?_modPart, Option.map_map]
  exact congrArg (Option.map · _) (funext hf)

theorem State.reasonOf_setPart (hP : s.part? p = some P) (hQ : Q.reason = P.reason) : (s.setPart p Q).reasonOf p = s.reasonOf p := by
  rw [State.reasonOf, State.reasonOf, State.part?_setPart_same, hP, Option.map_some, Option.map_some, hQ]

theorem State.reasonOf_appendChunk (s : State) (p : PartNo) (dom : Domain) (id : DWord) (first : Nat) (recs : List DWord) :
    (s.appendChunk p dom id first recs).1.reasonOf p = s.reasonOf p := by
  unfold State.appendChunk
  cases hP : s.part? p with
  | none => rfl
  | some P =>
    dsimp only
    split
    · refine (State.reasonOf_setPart ((State.part?_ringWrite ..).trans hP) ?_).trans (State.reasonOf_congr (State.part?_ringWrite ..))
      split <;> rfl
    · refine State.reasonOf_setPart hP ?_
      split <;> rfl

theorem State.reasonOf_flushRecords (s : State) (p : PartNo) (dom : Domain) (id : DWord) (n first : Nat) (recs : List DWord) :
    (s.flushRecords p dom id n first recs).1.reasonOf p = s.reasonOf p := by
  induction n generalizing s first recs with
  | zero => rfl
  | succ n ih =>
    rw [State.flushRecords]
    split
    · rfl
    · dsimp only
      split
      · exact (ih ..).trans (s.reasonOf_appendChunk ..)
      · exact s.reasonOf_appendChunk ..

theorem State.reasonOf_flushChunk (s : State) (p : PartNo) (dom : Domain) (id : DWord) : (s.flushChunk p dom id).reasonOf p = s.reasonOf p := by
  unfold State.flushChunk
  split
  · rfl
  · split
    · rfl
    next c _ =>
      have h := s.reasonOf_flushRecords p dom id (c.recs.length + 1) c.first c.recs
      generalize s.flushRecords p dom id (c.recs.length + 1) c.first c.recs = flushed at h ⊢
      obtain ⟨s₁, first, left⟩ := flushed
      refine (State.reasonOf_modPart s₁ p ?_).trans h
      exact fun _ => rfl

theorem State.reasonOf_flushAll (s : State) (p : PartNo) : (s.flushAll p).reasonOf p = s.reasonOf p := by
  have hchunks (cs : List Chunk) (s : State) : (cs.foldl (fun s c => s.flushChunk p c.dom c.id) s).reasonOf p = s.reasonOf p := by
    induction cs generalizing s with
    | nil => rfl
    | cons c cs ih => exact (ih _).trans (s.reasonOf_flushChunk ..)
  unfold State.flushAll
  split
  · rfl
  · refine (State.reasonOf_modPart _ p ?_).trans (hchunks _ s)
    exact fun _ => rfl

theorem State.part?_storeWords (s : State) (pa : Nat) (ws : List DWord) (p : PartNo) : (s.storeWords pa ws).part? p = s.part? p := by
  induction ws generalizing s pa with
  | nil => rfl
  | cons w ws ih => exact (ih ..).trans (State.part?_storeNum ..)

/-- The image of a partition is written, or does not fit: its state stands. -/
theorem State.saveImage_spec (hP : s.part? p = some P) :
    ∃ P', (s.saveImage p P).part? p = some P' ∧ P'.frozen = P.frozen ∧ P'.freezing = P.freezing ∧ P'.reason = P.reason := by
  unfold State.saveImage
  dsimp only
  split
  · split
    · rw [State.writeImage, hP]
      exact ⟨_, State.part?_modPart_some (State.part?_modPart_some ((State.part?_storeWords ..).trans hP) _) _, rfl, rfl, rfl⟩
    · exact ⟨_, State.part?_setPart_same .., rfl, rfl, rfl⟩
  · exact ⟨_, State.part?_setPart_same .., rfl, rfl, rfl⟩

theorem freezeCompletes (s : State) (p : PartNo) (P : Part) (hP : s.part? p = some P) (hfreezing : P.freezing = true) (hmay : s.mayImage P p = true)
    (hheld : s.areaHeld P = false) (hreason : P.reason.getLsbD 2 = false) :
    Reaches (.freezeImage p) s p fun _ P' => P'.frozen = true ∧ P'.freezing = false ∧ P'.reason = P.reason := by
  obtain ⟨P₁, hP₁, hreason₁⟩ : ∃ P₁, (s.flushAll p).part? p = some P₁ ∧ P₁.reason = P.reason := by
    have h := s.reasonOf_flushAll p
    rw [State.reasonOf, State.reasonOf, hP, Option.map_some] at h
    exact Option.map_eq_some_iff.1 h
  let f (P : Part) : Part := { P.closeWindows.discardAll with freezing := false, frozen := true }
  have hP₂ := State.part?_modPart_some hP₁ f
  have hreason₂ : (f P₁).reason = P.reason := by
    change P₁.closeWindows.discardAll.reason = _
    rw [Part.discardAll_onlyRun P₁.closeWindows]
    exact hreason₁
  obtain ⟨P₃, hP₃, hfrozen₃, hfreezing₃, hreason₃⟩ := State.saveImage_spec hP₂
  have hstall : ((s.flushAll p).modPart p f).finishFreeze p (f P₁) = ((s.flushAll p).modPart p f).saveImage p (f P₁) := by
    rw [State.finishFreeze]
    split
    · rw [State.stallAction, hP₃]
      dsimp only
      rw [if_neg]
      rw [hreason₃, hreason₂, hreason]
      exact fun h => nomatch h.1
    · rfl
  have he : exec (.freezeImage p) s = .next (((s.flushAll p).modPart p f).saveImage p (f P₁)) := by
    change execFreezeImage p s = _
    rw [execFreezeImage, hP]
    dsimp only
    rw [hfreezing, hmay, hheld, if_neg (by decide), show ((s.flushAll p).modPart p fun P => { P.closeWindows.discardAll with freezing := false, frozen := true }).part? p = _ from hP₂]
    exact congrArg Host.Outcome.next hstall
  exact ⟨_, _, he, hP₃, hfrozen₃, hfreezing₃, hreason₃.trans hreason₂⟩

/-! ## Gang time slices (R272, R406, R423) -/

/-- Of a partition, its cores alone have changed. -/
def Part.OnlyCores (P Q : Part) : Prop := Q = { P with run := { P.run with cores := Q.run.cores } }

theorem Part.refetch_onlyCores (s : State) (dir : Table DirEntry) (P : Part) : P.OnlyCores (dir.foldl (fun P e =>
    if e.2.placed && (e.2.state == 1 || e.2.state == 2) then P.modCore e.2.core.toNat (s.refetchCrock e.2) else P) P) := by
  induction dir generalizing P with
  | nil => rfl
  | cons e dir ih =>
    have hone : P.OnlyCores (if e.2.placed && (e.2.state == 1 || e.2.state == 2) then P.modCore e.2.core.toNat (s.refetchCrock e.2) else P) := by
      split <;> rfl
    have hrest := ih (if e.2.placed && (e.2.state == 1 || e.2.state == 2) then P.modCore e.2.core.toNat (s.refetchCrock e.2) else P)
    rw [List.foldl_cons, Part.OnlyCores, hrest, hone]

/-- An image that is resumed: its slots that have not been captured are read again, and all else stands as it was. -/
theorem State.resume_spec (s : State) (p : PartNo) (P : Part) (j : Image) :
    s.Beside (s.resume p P j) p ∧ ∃ P', (s.resume p P j).part? p = some P' ∧ (P.restore j).OnlyCores P' := by
  have hP : (s.setPart p (P.restore j)).part? p = some (P.restore j) := State.part?_setPart_same ..
  have hbeside := (State.Beside.refl s p).setPart (P.restore j)
  unfold State.resume
  dsimp only
  split
  · exact ⟨hbeside, _, hP, rfl⟩
  · refine ⟨hbeside.modPart _, _, State.part?_modPart_some hP _, Part.refetch_onlyCores ..⟩

theorem State.resumeRejected_clean (hP : s.part? p = some P) {pa : Nat} (hclean : s.unclean pa (s.imageBytes pa) = false) :
    s.resumeRejected p pa = s.modPart p fun P => (P.report .resumeRejected).vector 3 := by
  unfold State.resumeRejected
  dsimp only
  rw [State.part?_modPart_some hP]
  exact if_neg (Bool.eq_false_iff.1 hclean)

theorem sliceStarts (s : State) (p : PartNo) (P : Part) (i : Image) (rest : List Image) (hP : s.part? p = some P) (hslicing : P.regs.gslice.getLsbD 63 = true)
    (hfrozen : P.frozen = true) (hsaved : P.saved = true) (himages : P.images = i :: rest) :
    (∀ j, i.reason = 2 → s.readImage P p i.place = some j → Becomes (.gangSliceStart p) s p fun P' => P'.frozen = false ∧ P'.reason = 0 ∧
      P'.run.teams = j.run.teams ∧ P'.run.clusters = j.run.clusters ∧ P'.sieve = j.sieve) ∧
    (i.reason = 2 → s.readImage P p i.place = none → s.unclean i.place (s.imageBytes i.place) = false →
      Becomes (.gangSliceStart p) s p fun P' => P'.frozen = true ∧ P'.run = P.run ∧
        Cells.get 0 P'.vectors 3 = Cells.get 0 P.vectors 3 + 1) ∧
    (i.reason ≠ 2 → Becomes (.gangSliceStart p) s p fun P' => P'.frozen = true ∧ P'.run = P.run ∧
      Cells.get 0 P'.vectors 3 = Cells.get 0 P.vectors 3 + 1) := by
  have hvector (r : Report) : Cells.get 0 ((P.report r).vector 3).vectors 3 = Cells.get 0 P.vectors 3 + 1 := (Cells.get_set ..).trans (if_pos rfl)
  have he : exec (.gangSliceStart p) s = .next (if i.reason = 2 then
      match s.readImage P p i.place with
      | some i => s.resume p P i
      | none => s.resumeRejected p i.place
      else s.setPart p ((P.report (.sliceKept i.reason)).vector 3)) := by
    change execGangSliceStart p s = _
    rw [execGangSliceStart, hP]
    dsimp only
    rw [Part.slicing, hslicing, hfrozen, hsaved, if_neg (by decide), himages] <;> rfl
  refine ⟨fun j hreason hread => ?_, fun hreason hread hclean => ?_, fun hreason => ?_⟩
  · rw [if_pos hreason, hread] at he
    obtain ⟨hbeside, P', hP', hcores⟩ := s.resume_spec p P j
    obtain ⟨hteams, -, hclusters⟩ := P.restoreRun_kept j.run
    refine becomes_of_beside he hP' hbeside ?_
    rw [hcores]
    exact ⟨rfl, rfl, hteams, hclusters, rfl⟩
  · rw [if_pos hreason, hread] at he
    dsimp only at he
    rw [State.resumeRejected_clean hP hclean] at he
    exact becomes_of_beside he (State.part?_modPart_some hP _) ((State.Beside.refl s p).modPart _) ⟨hfrozen, rfl, hvector _⟩
  · rw [if_neg hreason] at he
    exact becomes_of_setPart he ⟨hfrozen, rfl, hvector _⟩

/-- Settles O45: a freeze waits for the work under way and then stands with its reason, and a slice's end, deadline and start act on the partition alone. -/
theorem freezesAndSlices : Obligations.FreezesAndSlices := by
  refine ⟨freezeCompletes, fun s p P hP hfreezing hnot => ?_, fun s p P hP hdraining => ?_, fun s p P hP hslicing hfrozen => ⟨fun hfreezing => ?_, fun hfreezing => ?_⟩, sliceStarts⟩
  · change execFreezeImage p s = _
    rw [execFreezeImage, hP]
    dsimp only
    rw [hfreezing, if_pos]
    rcases hnot with h | h <;> rw [h] <;> simp
  · refine becomes_of_setPart (P := { P with draining := false }.freeze 1) ?_ rfl
    change execDrainDeadline p s = _
    rw [execDrainDeadline, hP]
    dsimp only
    rw [hdraining, if_pos rfl]
  · refine becomes_of_setPart (P := { P.discardAll with draining := true }) ?_ ⟨rfl, fun hnone => ?_⟩
    · change execGangSliceEnd p s = _
      rw [execGangSliceEnd, hP]
      dsimp only
      rw [Part.slicing, hslicing, hfrozen, hfreezing, if_neg (by decide), if_neg (by decide)]
    · rw [Part.discardAll, hnone, List.foldl_nil]
  · refine becomes_of_setPart (P := P.freeze 1) ?_ ?_
    · change execGangSliceEnd p s = _
      rw [execGangSliceEnd, hP]
      dsimp only
      rw [Part.slicing, hslicing, hfrozen, hfreezing, if_neg (by decide), if_pos rfl]
    · rw [Part.freeze, ← hfreezing]
      rfl
end

end Sys2Proof.Machine
end

section
/-!
PROOF. Scrubs, in-field tests, energy periods and invalidations (spec/11_core_sync_faults.md R273, spec/17_package_memory.md R344, R351 to R353).
-/
namespace Sys2Proof.Machine
open Sys2Proof.Spec

section
variable {s : State} {p : PartNo} {P : Part}

/-! ## The severity matrix for an error of no context (R351) -/

/-- An error that the matrix reports, and no more. -/
structure Reported (P P' : Part) (act : Nat) : Prop where
  frame : P' = { P with elog := P'.elog, elogHead := P'.elogHead, vectors := P'.vectors }
  head : P'.elogHead = if act = 0 then P.elogHead else BitVec.ofNat 16 ((P.elogHead.toNat + 1) % 4096)

theorem reported_log {act : Nat} (entry : BitVec 256) (h0 : act ≠ 0) (b : Prop) [Decidable b] :
    Reported P (if b then (P.log entry).vector 0 else P.log entry) act := by
  split <;> exact ⟨rfl, (if_neg h0).symm⟩

theorem State.severity_silent {cls src : Nat} (hP : s.part? p = some P) (h0 : s.action P cls src = 0) (index addr : Nat) (req : Word) :
    s.severity p cls src index addr req none false false = s := by
  rw [State.severity, hP]
  dsimp only
  rw [h0]
  rfl

/-- An error of no context under another action is logged, and reported under action 2; action 4 resets the partition (R351). -/
theorem State.severity_logged {cls src : Nat} (hP : s.part? p = some P) (h0 : s.action P cls src ≠ 0) (index addr : Nat) (req : Word) :
    ∃ P', Reported P P' (s.action P cls src) ∧ s.severity p cls src index addr req none false false =
      if s.action P cls src = 4 then (s.setPart p P').modPart p Part.reset else s.setPart p P' := by
  rw [State.severity, hP]
  dsimp only
  generalize s.action P cls src = conf at *
  rw [Bool.false_and, if_neg Bool.false_ne_true]
  obtain ⟨act, hact⟩ : ∃ act, act = if conf = 3 ∧ (none : Option Nat) = none then 2 else conf := ⟨_, rfl⟩
  rw [← hact]
  have hsame : act ≠ 0 ∧ act ≠ 3 ∧ (act = 4 ↔ conf = 4) := by
    rw [if_congr (and_iff_left rfl) rfl rfl] at hact
    split at hact <;> subst hact <;> omega
  obtain ⟨hne0, hne3, hiff⟩ := hsame
  rw [if_neg hne0]
  generalize logRecord s.now addr req cls src index act = entry
  refine ⟨if conf = 2 ∨ act = 2 then (P.log entry).vector 0 else P.log entry, reported_log entry h0 _, ?_⟩
  · split
    next => exact absurd rfl hne3
    next => exact (if_pos (hiff.1 rfl)).symm
    next h _ => exact (if_neg fun h4 => h (hiff.2 h4)).symm

theorem State.orphan_silent {cls src : Nat} (hP : s.part? p = some P) (h0 : s.action P cls src = 0) (index addr : Nat) : s.orphan p cls src index addr = s :=
  s.severity_silent hP h0 index addr _

theorem State.orphan_logged {cls src : Nat} (hP : s.part? p = some P) (h0 : s.action P cls src ≠ 0) (index addr : Nat) :
    ∃ P', Reported P P' (s.action P cls src) ∧
      s.orphan p cls src index addr = if s.action P cls src = 4 then (s.setPart p P').modPart p Part.reset else s.setPart p P' :=
  s.severity_logged hP h0 index addr _

theorem State.orphan_beside (s : State) (p : PartNo) (cls src index addr : Nat) : s.Beside (s.orphan p cls src index addr) p := by
  cases hP : s.part? p with
  | none =>
    rw [State.orphan, State.severity, hP]
    exact .refl s p
  | some P =>
    by_cases h0 : s.action P cls src = 0
    · rw [State.orphan_silent hP h0]
      exact .refl s p
    · obtain ⟨P', -, h⟩ := State.orphan_logged hP h0 index addr
      rw [h]
      split
      · exact ((State.Beside.refl s p).setPart _).modPart _
      · exact (State.Beside.refl s p).setPart _

theorem State.orphan_mild {cls src : Nat} (hP : s.part? p = some P) (hmild : Mild (s.action P cls src)) (index addr : Nat) :
    s.Beside (s.orphan p cls src index addr) p ∧
      ∃ P', (s.orphan p cls src index addr).part? p = some P' ∧ Reported P P' (s.action P cls src) := by
  refine ⟨s.orphan_beside .., ?_⟩
  by_cases h0 : s.action P cls src = 0
  · exact ⟨P, by rw [State.orphan_silent hP h0, hP], rfl, by rw [h0, if_pos rfl]⟩
  · obtain ⟨P', hreported, h⟩ := State.orphan_logged hP h0 index addr
    have hne4 : s.action P cls src ≠ 4 := fun h4 => absurd (h4 ▸ hmild : Mild 4) (by decide : ¬4 ≤ 2)
    exact ⟨P', by rw [h, if_neg hne4, State.part?_setPart_same], hreported⟩

/-! ## Scrubs (R273, R351) -/

theorem mem_foldl_insertNum {ds l : List Nat} {n x : Nat} : x ∈ ds.foldl (fun l d => insertNum l (n + d)) l ↔ x ∈ l ∨ ∃ d ∈ ds, x = n + d := by
  induction ds generalizing l with
  | nil => simp
  | cons d ds ih =>
    rw [List.foldl_cons, ih, mem_insertNum, or_comm (a := x = n + d), or_assoc]
    simp

theorem backgroundScrubMarks (s : State) (p : PartNo) (P : Part) (core : BitVec 7) (d : BitVec 17) (k : Core) (hof : s.partOfCore core.toNat = some (p, P))
    (hk : P.core? core.toNat = some k) (hmild : Mild (coreAction s P 2)) :
    Becomes (.backgroundScrub core (.scratch d) .uncorrectable) s p fun P' => ∃ k', P'.core? core.toNat = some k' ∧
      k'.scratch = k.scratch ∧ k'.spoison.contains d.toNat = true ∧
      P'.elogHead = if coreAction s P 2 = 0 then P.elogHead else BitVec.ofNat 16 ((P.elogHead.toNat + 1) % 4096) := by
  let Q := P.poisonWord core.toNat (.scratch d)
  have he : exec (.backgroundScrub core (.scratch d) .uncorrectable) s = .next ((s.setPart p Q).orphan p 2 srcCore core.toNat 0) := by
    change execBackgroundScrub core (.scratch d) .uncorrectable s = _
    rw [execBackgroundScrub, hof]
    rfl
  obtain ⟨hbeside, P', hP', hreported⟩ := State.orphan_mild (s := s.setPart p Q) (P := Q) (cls := 2) (src := srcCore) (State.part?_setPart_same ..) hmild core.toNat 0
  refine becomes_of_beside he hP' (((State.Beside.refl s p).setPart Q).trans hbeside) ⟨{ k with spoison := insertNum k.spoison d.toNat }, ?_, rfl, ?_, hreported.head⟩
  · rw [hreported.frame]
    exact (Part.core?_modCore_same ..).trans (congrArg (Option.map _) hk)
  · exact List.contains_iff_mem.2 (mem_insertNum.2 (.inl rfl))

theorem patrolScrubMarks (s : State) (line : BitVec 45) (hbacked : s.backed 0 (line.toNat * 128) 128 = true ∨ s.backed 1 (line.toNat * 128) 128 = true) :
    ∃ t, exec (.patrolScrub line .uncorrectable) s = .next t ∧ (∀ d < 16, t.memPoison.contains (line.toNat * 16 + d) = true) ∧
      ∀ a, t.byte a = s.byte a := by
  obtain ⟨marks, hmarks⟩ : ∃ marks, marks = (List.range 16).foldl (fun l d => insertNum l (line.toNat * 16 + d)) s.memPoison := ⟨_, rfl⟩
  have hmarked : ∀ d < 16, marks.contains (line.toNat * 16 + d) = true := by
    intro d hd
    rw [hmarks, List.contains_iff_mem, mem_foldl_insertNum]
    exact .inr ⟨d, List.mem_range.2 hd, rfl⟩
  let s₁ : State := { s with memPoison := marks }
  have hany : (s.backed 0 (line.toNat * 128) 128 || s.backed 1 (line.toNat * 128) 128) = true := Bool.or_eq_true_iff.2 hbacked
  obtain ⟨t, he, hbeside⟩ : ∃ t, exec (.patrolScrub line .uncorrectable) s = .next t ∧ ∃ q, s₁.Beside t q := by
    change ∃ t, execPatrolScrub line .uncorrectable s = .next t ∧ _
    rw [execPatrolScrub]
    dsimp only
    rw [← hmarks, hany, Bool.not_true, if_neg Bool.false_ne_true, if_neg (by decide : ¬ScrubResult.uncorrectable = .late),
      if_neg (by decide : ¬ScrubResult.uncorrectable = .corrected)]
    cases hof : s₁.partOfPa (line.toNat * 128) with
    | none => exact ⟨s₁, rfl, 0, .refl s₁ 0⟩
    | some e => exact ⟨_, rfl, e.1, s₁.orphan_beside ..⟩
  obtain ⟨q, hbeside⟩ := hbeside
  exact ⟨t, he, fun d hd => by rw [hbeside.same]; exact hmarked d hd, hbeside.byte⟩

/-! ## In-field tests (R352) -/

theorem Run.cores_moveHome (r : Run) (c d : Nat) : (r.moveHome c d).cores = r.cores := by
  unfold Run.moveHome
  split <;> rfl

theorem Part.core?_withdraw (P : Part) (c : Nat) :
    (P.withdraw c).core? c = (P.core? c).map fun k => { k with testing := false, withdrawn := true } :=
  (congrArg (Table.get? · c) (Run.cores_moveHome ..)).trans (Part.core?_modCore_same ..)

theorem testBegins (s : State) (p : PartNo) (P : Part) (die : BitVec 3) (c : Nat) (k : Core) (hof : s.partOfDie die.toNat = some (p, P))
    (hnext : P.nextTest die.toNat = some c) (hk : P.core? c = some k) (hon : P.regs.inft ≠ 0)
    (hidle : P.run.cores.all (fun e => !(e.1 / 16 == die.toNat && e.2.testing)) = true) :
    Becomes (.inFieldTest die) s p fun P' => P'.core? c = some { k with testing := true } ∧ Table.get? P'.testNext die.toNat = some ((c + 1) % 16) := by
  have hbusy : (P.run.cores.any fun e => e.1 / 16 == die.toNat && e.2.testing) = false := by
    rw [List.any_eq_not_all_not, hidle]
    rfl
  let f (k : Core) : Core := { k with testing := true }
  have he : exec (.inFieldTest die) s = .next (s.setPart p { P.modCore c f with testNext := Table.set P.testNext die.toNat ((c + 1) % 16) }) := by
    change execInFieldTest die s = _
    rw [execInFieldTest, hof]
    dsimp only
    rw [hnext, hbusy]
    exact congrArg Host.Outcome.next (if_neg fun h => h.elim hon Bool.false_ne_true)
  exact becomes_of_setPart he ⟨(Part.core?_modCore_same P c f).trans (congrArg (Option.map f) hk), Table.get?_set_same ..⟩

theorem testRuns (s : State) (p : PartNo) (P : Part) (core : BitVec 7) (k : Core) (hof : s.partOfCore core.toNat = some (p, P))
    (hk : P.core? core.toNat = some k) (htesting : k.testing = true) (hidle : P.idle core.toNat = true) :
    Becomes (.inFieldTestRun core true) s p (fun P' => P'.core? core.toNat = some { k with testing := false } ∧
      Cells.get 0 P'.vectors 5 = Cells.get 0 P.vectors 5 + 1) ∧
    (Mild (coreAction s P 15) → Becomes (.inFieldTestRun core false) s p fun P' =>
      P'.core? core.toNat = some { k with testing := false, withdrawn := true }) := by
  let f (k : Core) : Core := { k with testing := false }
  let Q := (P.modCore core.toNat f).vector 5
  have hQ : Q.core? core.toNat = some (f k) := (Part.core?_modCore_same P core.toNat f).trans (congrArg (Option.map f) hk)
  have hmay : (!((P.core? core.toNat).any Core.testing && P.idle core.toNat)) = false := by
    rw [hk, Option.any_some, htesting, hidle]
    rfl
  have he (passed : Bool) : exec (.inFieldTestRun core passed) s =
      .next (if passed then s.setPart p Q else (s.setPart p (Q.withdraw core.toNat)).orphan p 15 srcCore core.toNat 0) := by
    change execInFieldTestRun core passed s = _
    rw [execInFieldTestRun, hof]
    dsimp only
    rw [hmay]
    rfl
  refine ⟨becomes_of_setPart (he true) ⟨hQ, (Cells.get_set ..).trans (if_pos rfl)⟩, fun hmild => ?_⟩
  obtain ⟨hbeside, P', hP', hreported⟩ := State.orphan_mild (s := s.setPart p (Q.withdraw core.toNat)) (cls := 15) (src := srcCore)
    (State.part?_setPart_same ..) hmild core.toNat 0
  refine becomes_of_beside (he false) hP' (((State.Beside.refl s p).setPart _).trans hbeside) ?_
  rw [hreported.frame]
  exact (Q.core?_withdraw core.toNat).trans (congrArg (Option.map _) hQ)

theorem testIsOverdue (s : State) (p : PartNo) (P : Part) (core : BitVec 7) (k : Core) (hof : s.partOfCore core.toNat = some (p, P))
    (hk : P.core? core.toNat = some k) (htesting : k.testing = true) (hidle : P.idle core.toNat = false) :
    Becomes (.inFieldTestOverdue core) s p fun P' => P'.core? core.toNat = some { k with testing := false } ∧
      Table.get? P'.testNext (core.toNat / 16) = some (core.toNat % 16) := by
  let f (k : Core) : Core := { k with testing := false }
  have hmay : ¬((!(P.core? core.toNat).any Core.testing) = true ∨ P.idle core.toNat = true) := by
    rw [hk, Option.any_some, htesting, hidle]
    decide
  refine becomes_of_setPart (P := { P.modCore core.toNat f with testNext := Table.set P.testNext (core.toNat / 16) (core.toNat % 16) }.report (.testOverdue core.toNat)) ?_
    ⟨(Part.core?_modCore_same P core.toNat f).trans (congrArg (Option.map f) hk), Table.get?_set_same ..⟩
  change execInFieldTestOverdue core s = _
  rw [execInFieldTestOverdue, hof]
  exact congrArg Host.Outcome.next (if_neg hmay)

/-! ## Invalidations (R344) -/

theorem invalidationEnds (s : State) (p : PartNo) (P : Part) (hP : s.part? p = some P) (hopen : P.regs.invDone = false) (hold : P.oldAccess = false) :
    Becomes (.invalidationDone p) s p fun P' => P'.regs = { P.regs with invDone := true } ∧ P'.run = P.run ∧
      ∀ e ∈ P.tlb, (e ∈ P'.tlb ↔ e.vpage * 65536 + levelSize e.size ≤ P.regs.invRange.1 ∨
        P.regs.invRange.1 + P.regs.invRange.2 ≤ e.vpage * 65536) := by
  let keep (c : Cached) : Bool := decide (c.vpage * 65536 + levelSize c.size ≤ P.regs.invRange.1) ||
    decide (P.regs.invRange.1 + P.regs.invRange.2 ≤ c.vpage * 65536)
  refine becomes_of_setPart (P := { P with tlb := P.tlb.filter keep, regs := { P.regs with invDone := true } }) ?_ ⟨rfl, rfl, fun e he => ?_⟩
  · change execInvalidationDone p s = _
    rw [execInvalidationDone, hP]
    dsimp only
    rw [hopen, hold]
    rfl
  · refine List.mem_filter.trans ((and_iff_right he).trans ?_)
    rw [Bool.or_eq_true, decide_eq_true_iff, decide_eq_true_iff]

/-- Settles O46: scrubs mark what they find, tests withdraw, pass or exclude their core, and periods and invalidations end. -/
theorem scrubsTestsAndInvalidations : Obligations.ScrubsTestsAndInvalidations :=
  ⟨fun s p P core d k hof _ hk hmild => backgroundScrubMarks s p P core d k hof hk hmild, patrolScrubMarks, testBegins,
    fun s p P core k hof _ hk htesting => ⟨fun hidle => testRuns s p P core k hof hk htesting hidle, fun hidle => testIsOverdue s p P core k hof hk htesting hidle⟩,
    fun _ _ P hP => ⟨_, _, rfl, State.part?_modPart_some hP _, rfl, fun _ hq => State.part?_modPart_ne _ _ hq, fun _ => rfl⟩,
    invalidationEnds⟩
end

end Sys2Proof.Machine
end

section
/-!
PROOF. Links: their errors, their deaths and their widths (spec/22_fabric.md R411 to R415).
-/
namespace Sys2Proof.Machine
open Sys2Proof.Spec

section
variable {s t : State} {p : PartNo} {P : Part} {link l : Link}

/-! ## Changes of the partitions alone -/

/-- Only partitions, and the words that cores do not see yet, differ. -/
def State.OnlyParts (s t : State) : Prop := t = { s with parts := t.parts, late := t.late }

theorem State.OnlyParts.trans {u : State} (h : s.OnlyParts t) (h' : t.OnlyParts u) : s.OnlyParts u := by
  unfold State.OnlyParts at *
  rw [h', h]

theorem State.Beside.onlyParts (h : s.Beside t p) : s.OnlyParts t := h.same

theorem State.OnlyParts.linkState (h : s.OnlyParts t) (l : Link) : t.linkState l = s.linkState l := by
  rw [h]
  rfl

theorem State.OnlyParts.byte (h : s.OnlyParts t) (a : Nat) : t.byte a = s.byte a := by
  rw [h]
  rfl

theorem State.OnlyParts.foldl {α : Type} {f : State → α → State} (hf : ∀ (s : State) x, s.OnlyParts (f s x)) (xs : List α) (s : State) : s.OnlyParts (xs.foldl f s) := by
  induction xs generalizing s with
  | nil => rfl
  | cons x xs ih => exact (hf s x).trans (ih (f s x))

theorem State.linkError_onlyParts (s : State) (l : Link) (cls src index : Nat) : s.OnlyParts (s.linkError l cls src index) :=
  .foldl (fun s p => (s.orphan_beside p cls src index 0).onlyParts) _ s

/-! ## The state of a link -/

theorem State.link_linkState (s : State) (l : Link) : (s.linkState l).link = l := by
  unfold State.linkState
  cases hx : s.links.find? fun x => x.link == l with
  | none => rfl
  | some x => exact eq_of_beq (List.find?_some (p := fun x : LinkState => x.link == l) hx)

theorem State.linkState_setLink_same (s : State) (x : LinkState) : (s.setLink x).linkState x.link = x := by
  have hrest : (s.links.filter fun y => y.link != x.link).find? (fun y => y.link == x.link) = none := by
    refine List.find?_eq_none.2 fun y hy => ?_
    have hne := (List.mem_filter.1 hy).2
    exact fun heq => bne_iff_ne.1 hne (eq_of_beq heq)
  unfold State.setLink State.linkState
  dsimp only
  split
  · rw [List.find?_append, hrest, Option.none_or, List.find?_cons_of_pos (p := fun y : LinkState => y.link == x.link) (beq_self_eq_true x.link)]
    rfl
  next hpower =>
    rw [hrest]
    obtain ⟨link, dead, width, failed⟩ := x
    simp only [Bool.or_eq_true, bne_iff_ne, ne_eq, not_or, Decidable.not_not, Bool.not_eq_true] at hpower
    obtain ⟨⟨rfl, rfl⟩, rfl⟩ := hpower
    rfl

theorem State.linkState_setLink_ne (s : State) {x : LinkState} (h : l ≠ x.link) : (s.setLink x).linkState l = s.linkState l := by
  have hrest : (s.links.filter fun y => y.link != x.link).find? (fun y => y.link == l) = s.links.find? fun y => y.link == l := by
    rw [List.find?_filter]
    refine congrArg (fun f => List.find? f s.links) (funext fun y => ?_)
    by_cases hy : y.link = l
    · rw [hy, beq_self_eq_true, bne_iff_ne.2 h, decide_eq_true (And.intro rfl rfl)]
    · rw [beq_false_of_ne hy, decide_eq_false fun hboth => Bool.false_ne_true hboth.2]
  unfold State.setLink State.linkState
  dsimp only
  split
  · rw [List.find?_append, hrest, List.find?_singleton, if_neg fun heq => h (eq_of_beq heq).symm, Option.or_none]
  · rw [hrest]

/-- A link that gets a new state, and all others. -/
structure State.Links (s t : State) (x : LinkState) : Prop where
  same : t.linkState x.link = x
  others : ∀ l, l ≠ x.link → t.linkState l = s.linkState l
  byte : ∀ a, t.byte a = s.byte a

theorem State.links_setLink (s : State) (x : LinkState) : s.Links (s.setLink x) x :=
  ⟨s.linkState_setLink_same x, fun _ => s.linkState_setLink_ne, fun _ => rfl⟩

theorem State.Links.of_link {x : LinkState} (h : s.Links t x) (hx : x.link = link) :
    t.linkState link = x ∧ ∀ l, l ≠ link → t.linkState l = s.linkState l := by
  subst hx
  exact ⟨h.same, h.others⟩

theorem State.Links.onlyParts {u : State} {x : LinkState} (h : s.Links t x) (h' : t.OnlyParts u) : s.Links u x :=
  ⟨(h'.linkState _).trans h.same, fun l hl => (h'.linkState l).trans (h.others l hl), fun a => (h'.byte a).trans (h.byte a)⟩

/-! ## Dead links (R412, R413) -/

theorem State.killLink_spec (hlive : s.linkDead link = false) :
    s.Links (s.killLink link) { s.linkState link with dead := true } ∧ (s.killLink link).paused = true := by
  rw [State.killLink, hlive, if_neg Bool.false_ne_true]
  dsimp only
  have hset : s.Links ((s.pauseParts link).setLink { s.linkState link with dead := true }) { s.linkState link with dead := true } :=
    ⟨State.linkState_setLink_same .., fun _ hl => State.linkState_setLink_ne _ hl, fun _ => rfl⟩
  have herror := hset.onlyParts (((s.pauseParts link).setLink { s.linkState link with dead := true }).linkError_onlyParts link 9 srcLink (Config.linkNumber link))
  generalize ((s.pauseParts link).setLink { s.linkState link with dead := true }).linkError link 9 srcLink (Config.linkNumber link) = s₁ at *
  have hswitches := herror.onlyParts (State.OnlyParts.foldl (f := fun (s : State) (x : Nat × Nat × Nat) =>
      if (switchLinks x.1 x.2.1 x.2.2).all s.linkDead then s.linkError link 9 srcSwitch (Config.switchNumber x.1 x.2.1 x.2.2) else s)
    (fun s x => by
      split
      · exact s.linkError_onlyParts ..
      · rfl) (switchesOf link) s₁)
  generalize (switchesOf link).foldl _ s₁ = s₂ at *
  refine ⟨?_, rfl⟩
  split
  · exact ⟨hswitches.same, hswitches.others, hswitches.byte⟩
  · exact ⟨hswitches.same, hswitches.others, hswitches.byte⟩

theorem flitErrorIsReported (s : State) (p : PartNo) (P : Part) (core : BitVec 7) (hlive : s.linkDead (.core core) = false)
    (hdie : s.partOfDie (core.toNat / 16) = some (p, P)) (hP : s.part? p = some P) (haction : s.action P 8 srcLink = 1) :
    Becomes (.flitCrcError (.core core)) s p fun P' => P'.run = P.run ∧ P'.regs = P.regs ∧ P'.choice = P.choice ∧
      P'.elogHead = BitVec.ofNat 16 ((P.elogHead.toNat + 1) % 4096) := by
  have he : exec (.flitCrcError (.core core)) s = .next (s.orphan p 8 srcLink (Config.linkNumber (.core core)) 0) := by
    change Host.Outcome.next (if s.linkDead (.core core) then s else s.linkError (.core core) 8 srcLink (Config.linkNumber (.core core))) = _
    rw [hlive, if_neg Bool.false_ne_true, State.linkError, State.linkParts]
    dsimp only
    rw [hdie]
    rfl
  obtain ⟨hbeside, P', hP', hreported⟩ := State.orphan_mild hP (by rw [haction]; exact (by decide : 1 ≤ 2)) (Config.linkNumber (.core core)) 0
  rw [haction] at hreported
  refine becomes_of_beside he hP' hbeside ⟨?_, ?_, ?_, hreported.head⟩
  all_goals rw [hreported.frame]

theorem linkDies (s : State) (link : Link) (hlive : s.linkDead link = false) :
    ∃ t, exec (.linkDead link) s = .next t ∧ t.linkDead link = true ∧ t.paused = true ∧
      (∀ l, l ≠ link → t.linkState l = s.linkState l) ∧ ∀ a, t.byte a = s.byte a := by
  obtain ⟨hlinks, hpaused⟩ := State.killLink_spec hlive
  obtain ⟨hsame, hothers⟩ := hlinks.of_link (s.link_linkState link)
  exact ⟨_, rfl, congrArg LinkState.dead hsame, hpaused, hothers, hlinks.byte⟩

/-! ## Routes (R413, R414) -/

theorem State.loseHubs_reached (h : ∀ hub < 4, s.hubReached hub = true) : s.loseHubs = s := by
  have hfold (hubs : List Nat) (hhubs : ∀ hub ∈ hubs, hub < 4) :
      hubs.foldl (fun s h => if s.hubReached h then s else (s.cxlGoesDown (2 * h)).cxlGoesDown (2 * h + 1)) s = s := by
    induction hubs with
    | nil => rfl
    | cons hub hubs ih =>
      rw [List.foldl_cons, if_pos (h hub (hhubs hub (.head _)))]
      exact ih fun k hk => hhubs k (.tail _ hk)
  exact hfold _ fun hub hhub => List.mem_range.1 hhub

theorem State.loseRoutes_reached (hslices : ∀ k < 32 * P.dies, s.sliceReached (P.regs.firstDie * 32 + k) = true)
    (hcores : ∀ c ∈ P.regs.cores, s.coreReached c = true) : s.loseRoutes p P = s := by
  have hnone : (((List.range (32 * P.dies)).map fun k => P.regs.firstDie * 32 + k).find? fun k => !s.sliceReached k) = none := by
    refine List.find?_eq_none.2 fun k hk => ?_
    obtain ⟨j, hj, rfl⟩ := List.mem_map.1 hk
    rw [hslices j (List.mem_range.1 hj)]
    decide
  have hnil : (P.regs.cores.filter fun c => !s.coreReached c) = [] := by
    refine List.filter_eq_nil_iff.2 fun c hc => ?_
    rw [hcores c hc]
    decide
  rw [State.loseRoutes]
  rw [hnone, hnil]
  rfl

theorem injectionResumes (s : State) (hpaused : s.paused = true) (hhubs : ∀ h < 4, s.hubReached h = true)
    (hroutes : ∀ e ∈ s.parts, (∀ k < 32 * e.2.dies, s.sliceReached (e.2.regs.firstDie * 32 + k) = true) ∧
      ∀ c ∈ e.2.regs.cores, s.coreReached c = true) : exec .injectionResume s = .next { s with paused := false } := by
  let s₁ : State := { s with paused := false }
  have hstep (q : PartNo) : (match s₁.part? q with
      | some P => s₁.loseRoutes q P
      | none => s₁) = s₁ := by
    cases hP : s₁.part? q with
    | none => rfl
    | some P =>
      obtain ⟨hslices, hcores⟩ := hroutes (q.toNat, P) (mem_of_get? hP)
      exact State.loseRoutes_reached hslices hcores
  have hfold (es : List (Nat × Part)) : es.foldl (fun s e => match s.part? (BitVec.ofNat 3 e.1) with
      | some P => s.loseRoutes (BitVec.ofNat 3 e.1) P
      | none => s) s₁ = s₁ := by
    induction es with
    | nil => rfl
    | cons e es ih => rw [List.foldl_cons, hstep, ih]
  change execInjectionResume s = _
  rw [execInjectionResume, hpaused, Bool.not_true, if_neg Bool.false_ne_true, State.loseHubs_reached (s := s₁) hhubs]
  exact congrArg Host.Outcome.next (hfold s.parts)

/-! ## Lost packets (R413) -/

/-- The partition whose source has found a packet lost. -/
def Part.foundLost (P : Part) (x : LostPacket) : Part := { P with atRisk := P.atRisk.filter fun y => y != wholePacket x }

theorem lostPacketOf (s : State) (p : PartNo) (P : Part) (x : LostPacket) (hP : s.part? p = some P) :
    (s.paused = true ∨ P.mayLose x = false → exec (.lostPacket p x) s = .next s) ∧
    (s.paused = false → P.mayLose x = true → x = .pageUpdate ∨ (∃ a, x = .writeBack a) → exec (.lostPacket p x) s = .next (s.setPart p (P.foundLost x))) ∧
    (s.paused = false → P.mayLose x = true → ∀ id r, x = .line id → Table.get? P.run.lines id = some r →
      exec (.lostPacket p x) s = .next ((s.setPart p (P.foundLost x)).losePacket p (P.foundLost x) x srcCore r.core r.team r.requester)) := by
  have hfound (hpaused : s.paused = false) (hmay : P.mayLose x = true) : ¬(s.paused = true ∨ (!P.mayLose x) = true) := by
    rw [hpaused, hmay]
    decide
  change (_ → execLostPacket p x s = _) ∧ (_ → _ → _ → execLostPacket p x s = _) ∧ (_ → _ → ∀ id r, _ → _ → execLostPacket p x s = _)
  rw [execLostPacket, hP]
  dsimp only
  refine ⟨fun h => congrArg Host.Outcome.next (if_pos (h.imp_right fun h => by rw [h, Bool.not_false])),
    fun hpaused hmay hx => (congrArg Host.Outcome.next (if_neg (hfound hpaused hmay))).trans ?_,
    fun hpaused hmay id r hx hr => (congrArg Host.Outcome.next (if_neg (hfound hpaused hmay))).trans ?_⟩
  · rcases hx with rfl | ⟨a, rfl⟩
    · rfl
    · rfl
  · subst hx
    dsimp only
    rw [hr]
    rfl

theorem packetsAreLostOnce (s : State) (p : PartNo) (P : Part) (x : LostPacket) (hP : s.part? p = some P) :
    let found : State := s.setPart p { P with atRisk := P.atRisk.filter fun y => y != wholePacket x }
    (s.paused = true ∨ P.mayLose x = false → exec (.lostPacket p x) s = .next s) ∧
    (s.paused = false → P.mayLose x = true → x = .pageUpdate ∨ (∃ a, x = .writeBack a) → exec (.lostPacket p x) s = .next found) ∧
    ∀ id r, s.paused = false → P.mayLose x = true → x = .line id → Table.get? P.run.lines id = some r → (P.team? r.team).isSome = true →
      let ended := found.severity p 14 srcCore r.core 0 r.requester (some r.team) false true
      (s.action P 14 srcCore ≠ 3 → exec (.lostPacket p x) s = .next ended) ∧
      (s.action P 14 srcCore = 3 → ∃ t, exec (.lostPacket p x) s = .next t ∧ (∀ a, t.byte a = ended.byte a) ∧
        ∀ P', ended.part? p = some P' → ∃ Q, t.part? p = some Q ∧ Table.get? Q.run.lines id = none ∧
          Q = { P' with run := { P'.run with lines := Q.run.lines }, lostTeams := Q.lostTeams } ∧
          ∀ k, k ≠ id → Table.get? Q.run.lines k = Table.get? P'.run.lines k) := by
  obtain ⟨hwaits, hagain, hline⟩ := lostPacketOf s p P x hP
  refine ⟨hwaits, hagain, fun id r hpaused hmay hx hr hteam => ?_⟩
  have hcontext : (P.foundLost x).context r.team = some r.team := if_pos hteam
  have haction : (s.setPart p (P.foundLost x)).action (P.foundLost x) 14 srcCore = s.action P 14 srcCore := rfl
  have he := hline hpaused hmay id r hx hr
  rw [State.losePacket, hcontext, haction, Option.isSome_some, Bool.true_or, Bool.and_true] at he
  refine ⟨fun hne => he.trans (congrArg Host.Outcome.next (if_neg fun h => hne (eq_of_beq h))), fun heq =>
    ⟨_, he.trans (congrArg Host.Outcome.next (if_pos (beq_iff_eq.2 heq))), fun _ => rfl, fun P' hP' => ?_⟩⟩
  subst hx
  exact ⟨_, State.part?_modPart_some hP' _, (Table.get?_erase ..).trans (if_pos rfl), rfl, fun k hk => (Table.get?_erase ..).trans (if_neg hk.symm)⟩

/-! ## Width (R415) -/

theorem State.handshake_true (hlive : s.linkDead link = false) (width : Nat) :
    s.handshake link true width = s.setLink { s.linkState link with width := width, failed := 0 } := by
  rw [State.handshake]
  exact (if_neg (by rw [show (s.linkState link).dead = false from hlive]; decide)).trans (if_pos rfl)

theorem State.handshake_false (hlive : s.linkDead link = false) (width : Nat) :
    s.handshake link false width = if (s.linkState link).width ≠ 0 then s.setLink { s.linkState link with width := 0 }
      else if 15 ≤ (s.linkState link).failed then s.killLink link
      else s.setLink { s.linkState link with failed := (s.linkState link).failed + 1 } := by
  rw [State.handshake]
  exact (if_neg (by rw [show (s.linkState link).dead = false from hlive]; decide)).trans (if_neg Bool.false_ne_true)

theorem handshakeSucceeds (hlive : s.linkDead link = false) (width : Nat) : ((s.handshake link true width).linkState link).width = width ∧
    ∀ l, l ≠ link → (s.handshake link true width).linkState l = s.linkState l := by
  obtain ⟨hsame, hothers⟩ := (s.links_setLink { s.linkState link with width := width, failed := 0 }).of_link (s.link_linkState link)
  rw [State.handshake_true hlive]
  exact ⟨congrArg LinkState.width hsame, hothers⟩

theorem handshakeFails (hlive : s.linkDead link = false) (width : Nat) : let t := s.handshake link false width
    (t.linkState link).width = 0 ∧ (∀ l, l ≠ link → t.linkState l = s.linkState l) ∧
      ((s.linkState link).width = 0 → 15 ≤ (s.linkState link).failed → t.linkDead link = true) ∧
      ((s.linkState link).width = 0 → (s.linkState link).failed < 15 →
        (t.linkState link).failed = (s.linkState link).failed + 1 ∧ t.linkDead link = false) := by
  have hlink := s.link_linkState link
  rw [State.handshake_false hlive]
  by_cases hfull : (s.linkState link).width ≠ 0
  · rw [if_pos hfull]
    obtain ⟨hsame, hothers⟩ := (s.links_setLink { s.linkState link with width := 0 }).of_link hlink
    exact ⟨congrArg LinkState.width hsame, hothers, fun h => absurd h hfull, fun h => absurd h hfull⟩
  · rw [if_neg hfull]
    by_cases hlast : 15 ≤ (s.linkState link).failed
    · rw [if_pos hlast]
      obtain ⟨hsame, hothers⟩ := (State.killLink_spec hlive).1.of_link hlink
      exact ⟨(congrArg LinkState.width hsame).trans (not_not.1 hfull), hothers, fun _ _ => congrArg LinkState.dead hsame, fun _ h => absurd hlast (Nat.not_le.2 h)⟩
    · rw [if_neg hlast]
      obtain ⟨hsame, hothers⟩ := (s.links_setLink { s.linkState link with failed := (s.linkState link).failed + 1 }).of_link hlink
      exact ⟨(congrArg LinkState.width hsame).trans (not_not.1 hfull), hothers, fun _ h => absurd h hlast,
        fun _ _ => ⟨congrArg LinkState.failed hsame, (congrArg LinkState.dead hsame).trans hlive⟩⟩

/-- Settles O47: errors are reported, deaths pause injection, routes resume it, losses are found once, and widths go by steps. -/
theorem linkEventsHappen : Obligations.LinkEventsHappen := by
  refine ⟨flitErrorIsReported, fun s link hlive _ => linkDies s link hlive, injectionResumes, packetsAreLostOnce, fun s link hlive => ⟨⟨_, rfl, handshakeSucceeds hlive _⟩,
    ⟨_, rfl, handshakeSucceeds hlive _⟩, fun i hi => ?_⟩⟩
  simp only [List.mem_cons, List.not_mem_nil, or_false] at hi
  rcases hi with rfl | rfl
  · exact ⟨_, rfl, handshakeFails hlive _⟩
  · exact ⟨_, rfl, handshakeFails hlive _⟩
end

end Sys2Proof.Machine
end

section
/-!
PROOF. The host port, CXL ports, partition time and the clock of the dies (spec/16_die.md R321, spec/17_package_memory.md R336, spec/22_fabric.md R420 to R422, spec/23 R437).
-/
namespace Sys2Proof.Machine
open Sys2Proof.Spec

section
variable {s t : State} {p : PartNo} {P : Part}

/-! ## The host port (R336, R420, R421) -/

theorem cxlPortGoesDown (s : State) (port : BitVec 3) : ∃ t, exec (.cxlPortDown port) s = .next t ∧
    (∀ pa, 2 ^ 49 ≤ pa → pa < 2 ^ 50 → cxlPort pa = port.toNat → t.poisoned pa = true) ∧ t.parts = s.parts ∧ ∀ a, t.byte a = s.byte a := by
  refine ⟨s.cxlGoesDown port.toNat, rfl, fun pa hlo hhi hport => ?_, rfl, fun _ => rfl⟩
  have hdown : (insertNum s.cxlDown port.toNat).contains (cxlPort pa) = true := List.contains_iff_mem.2 (mem_insertNum.2 (.inl hport))
  have hportDown : (s.cxlGoesDown port.toNat).portDown pa = true :=
    Bool.and_eq_true_iff.2 ⟨Bool.and_eq_true_iff.2 ⟨decide_eq_true hlo, decide_eq_true hhi⟩, hdown⟩
  rw [State.poisoned, hportDown, Bool.or_true]

theorem mem_touched {size addr len k : Nat} : k ∈ touched size addr len ↔ addr / size ≤ k ∧ k < (addr + len + size - 1) / size := by
  rw [touched, List.mem_map]
  constructor
  · rintro ⟨j, hj, rfl⟩
    have := List.mem_range.1 hj
    omega
  · rintro ⟨hlo, hhi⟩
    exact ⟨k - addr / size, List.mem_range.2 (by omega), by omega⟩

/-- The memory that a host write finds: no port down, no sieve with a snapshot. -/
structure State.Plain (s t : State) : Prop where
  parts : t.parts = s.parts
  ports : t.cxlDown = []
  sieves : ∀ e ∈ t.parts, e.1 < 8 ∧ e.2.sieve.snapshot = none

/-- What a host write does with the bytes of one line. -/
def State.hostLine (s : State) (e : Nat × List Byte) : State := match s.partOfPa e.1 with
  | some (p, _) => s.writeAt p e.1 e.2
  | none => if s.portDown e.1 then s else s.storeLine (e.1 / 128) (lineBytes (e.1 % 128) e.2) []

theorem State.portDown_nil (h : s.cxlDown = []) (pa : Nat) : s.portDown pa = false := by
  rw [State.portDown, h, List.contains_nil, Bool.and_false]

theorem State.hostLine_plain (h : s.Plain t) (e : Nat × List Byte) : t.hostLine e = t.storeLine (e.1 / 128) (lineBytes (e.1 % 128) e.2) [] := by
  have hport := State.portDown_nil h.ports e.1
  unfold State.hostLine
  split
  next p _ hof =>
    obtain ⟨x, hx, hp⟩ := Option.map_eq_some_iff.1 hof
    have hmem := List.mem_of_find?_eq_some hx
    have hkey : p.toNat = x.1 := by
      rw [← (Prod.mk.inj hp).1, BitVec.toNat_ofNat, Nat.mod_eq_of_lt (h.sieves x hmem).1]
    obtain ⟨P, hP⟩ : ∃ P, t.part? p = some P := by
      rw [State.part?, hkey]
      exact Option.ne_none_iff_exists'.1 fun hnone => notMem_of_get? hnone (List.mem_map_of_mem hmem)
    exact State.writeAt_plain hP (h.sieves _ (mem_of_get? hP)).2 hport e.2
  · rw [hport, if_neg Bool.false_ne_true]

theorem State.plain_hostLine (h : s.Plain t) (e : Nat × List Byte) : s.Plain (t.hostLine e) := by
  rw [State.hostLine_plain h]
  exact ⟨h.parts, h.ports, h.sieves⟩

theorem State.byte_hostLine (h : s.Plain t) (e : Nat × List Byte) (a : Nat) : (t.hostLine e).byte a = written t e.1 e.2 a := by
  rw [State.hostLine_plain h, State.byte_storeLine, Nat.div_add_mod']

/-- An address lies among the bytes of a piece. -/
def Covers (a : Nat) (e : Nat × List Byte) : Prop := e.1 ≤ a ∧ a < e.1 + e.2.length

theorem State.byte_hostLines {a : Nat} {b : Byte} (es : List (Nat × List Byte)) (hes : ∀ e ∈ es, Covers a e → e.2.getD (a - e.1) 0 = b) (h : s.Plain t) :
    ((∃ e ∈ es, Covers a e) → (es.foldl State.hostLine t).byte a = b) ∧
    ((∀ e ∈ es, ¬Covers a e) → (es.foldl State.hostLine t).byte a = t.byte a) := by
  induction es generalizing t with
  | nil => exact ⟨nofun, fun _ => rfl⟩
  | cons e es ih =>
    obtain ⟨hin, hout⟩ := ih (fun x hx => hes x (.tail _ hx)) (State.plain_hostLine h e)
    have hmiss (hno : ¬Covers a e) : (t.hostLine e).byte a = t.byte a := by
      rw [State.byte_hostLine h, written_outside (by unfold Covers at hno; omega)]
    refine ⟨fun hcover => ?_, fun hno => ?_⟩
    · rw [List.foldl_cons]
      by_cases hlater : ∃ x ∈ es, Covers a x
      · exact hin hlater
      · rw [hout fun x hx hcov => hlater ⟨x, hx, hcov⟩]
        obtain ⟨x, hx, hcov⟩ := hcover
        rcases List.mem_cons.1 hx with rfl | hx
        · obtain ⟨hlo, hhi⟩ := hcov
          obtain ⟨j, rfl⟩ := Nat.exists_eq_add_of_le hlo
          rw [State.byte_hostLine h, written_inside (by omega) 0, ← hes x (.head _) ⟨hlo, hhi⟩, Nat.add_sub_cancel_left]
        · exact absurd ⟨x, hx, hcov⟩ hlater
    · rw [List.foldl_cons, hout fun x hx => hno x (.tail _ hx), hmiss (hno e (.head _))]

/-- The pieces of a write cover its bytes, each with its own. -/
theorem bytesByLine_covers {pa a : Nat} {bs : List Byte} :
    (∀ e ∈ bytesByLine pa bs, Covers a e → pa ≤ a ∧ a < pa + bs.length ∧ e.2.getD (a - e.1) 0 = bs.getD (a - pa) 0) ∧
    (pa ≤ a → a < pa + bs.length → ∃ e ∈ bytesByLine pa bs, Covers a e) := by
  constructor
  · intro e he hcov
    obtain ⟨l, -, rfl⟩ := List.mem_map.1 he
    obtain ⟨hlo, hhi⟩ := hcov
    dsimp only at hlo hhi ⊢
    rw [List.length_take, List.length_drop] at hhi
    have hstart : pa ≤ max pa (l * 128) := le_max_left ..
    generalize max pa (l * 128) = lo at *
    refine ⟨by omega, by omega, ?_⟩
    rw [List.getD_eq_getElem?_getD, List.getElem?_take_of_lt (by omega), List.getElem?_drop, List.getD_eq_getElem?_getD]
    congr 2
    omega
  · intro hlo hhi
    refine ⟨_, List.mem_map.2 ⟨a / 128, mem_touched.2 ⟨Nat.div_le_div_right hlo, by omega⟩, rfl⟩, ?_, ?_⟩
    · exact max_le hlo (Nat.div_mul_le_self ..)
    · dsimp only
      rw [List.length_take, List.length_drop]
      have hstart : pa ≤ max pa (a / 128 * 128) := le_max_left ..
      have hbelow : max pa (a / 128 * 128) ≤ a := max_le hlo (Nat.div_mul_le_self ..)
      generalize max pa (a / 128 * 128) = lo at *
      omega

theorem hostWrites (s : State) (pa : BitVec 52) (bs : List Byte) (hreach : s.hostReach pa.toNat bs.length = true) (hports : s.cxlDown = [])
    (hheld : s.rangeHeld pa.toNat bs.length = false) (hsieves : ∀ e ∈ s.parts, e.1 < 8 ∧ e.2.sieve.snapshot = none) :
    ∃ t, exec (.hostWrite pa bs) s = .next t ∧ (∀ j < bs.length, t.byte (pa.toNat + j) = bs.getD j 0) ∧
      ∀ a, (a < pa.toNat ∨ pa.toNat + bs.length ≤ a) → t.byte a = s.byte a := by
  have hplain : s.Plain s := ⟨rfl, hports, hsieves⟩
  refine ⟨(bytesByLine pa.toNat bs).foldl State.hostLine s, ?_, fun j hj => ?_, fun a ha => ?_⟩
  · change execHostWrite pa bs s = _
    rw [execHostWrite, hreach, hheld]
    rfl
  · obtain ⟨hpieces, hcover⟩ := bytesByLine_covers (pa := pa.toNat) (a := pa.toNat + j) (bs := bs)
    refine (State.byte_hostLines _ (fun e he hcov => (hpieces e he hcov).2.2) hplain).1 (hcover (by omega) (by omega)) |>.trans ?_
    rw [Nat.add_sub_cancel_left]
  · obtain ⟨hpieces, -⟩ := bytesByLine_covers (pa := pa.toNat) (a := a) (bs := bs)
    refine (State.byte_hostLines _ (fun e he hcov => (hpieces e he hcov).2.2) hplain).2 fun e he hcov => ?_
    obtain ⟨hlo, hhi, -⟩ := hpieces e he hcov
    omega

theorem hostReads (s : State) (pa : BitVec 52) (n : BitVec 8) (hreach : s.hostReach pa.toNat n.toNat = true) (hheld : s.rangeHeld pa.toNat n.toNat = false) :
    ∃ t, exec (.hostRead pa n) s = .next t ∧ t = { s with hostData := t.hostData } ∧
      t.hostData.1 = (List.range n.toNat).map fun j => s.byte (pa.toNat + j) := by
  refine ⟨{ s with hostData := (s.bytes pa.toNat n.toNat, (touched 8 pa.toNat n.toNat).any fun d => s.poisoned (d * 8)) }, ?_, rfl, rfl⟩
  change execHostRead pa n s = _
  rw [execHostRead, hreach, hheld]
  rfl

theorem lineIsAcknowledged (s : State) (p : PartNo) (P : Part) (line : BitVec 45) (before after : List Nat) (hP : s.part? p = some P)
    (hunacked : P.unacked = before ++ line.toNat :: after) (hfirst : line.toNat ∉ before) :
    Becomes (.rootComplexAcknowledgement p line) s p fun P' => P'.unacked = before ++ after ∧ P'.regs = P.regs := by
  have hwaits : P.unacked.contains line.toNat = true := by
    rw [hunacked]
    exact List.contains_iff_mem.2 (List.mem_append_right _ (.head _))
  refine becomes_of_beside rfl (State.part?_modPart_some hP _) ((State.Beside.refl s p).modPart _) ?_
  rw [hwaits, Bool.not_true, if_neg Bool.false_ne_true]
  refine ⟨?_, rfl⟩
  change P.unacked.erase line.toNat = _
  rw [hunacked, List.erase_append_right _ hfirst, List.erase_cons_head]

theorem timeOffsetIsNoticed (s : State) (p : PartNo) (P : Part) (hP : s.part? p = some P) :
    (p.toNat ∈ s.notices → Becomes (.timeOffsetNotice p) s p fun P' =>
      Cells.get 0 P'.vectors 3 = Cells.get 0 P.vectors 3 + 1 ∧ P'.run = P.run) ∧
    (p.toNat ∉ s.notices → exec (.timeOffsetNotice p) s = .next s) := by
  change (_ → _) ∧ (_ → execTimeOffsetNotice p s = _)
  refine ⟨fun hmem => ⟨_, _, (congrArg Host.Outcome.next (if_neg ?_) : execTimeOffsetNotice p s = _),
    State.part?_modPart_some (s := { s with notices := s.notices.filter fun k => k != p.toNat }) hP _,
    ⟨(Cells.get_set ..).trans (if_pos rfl), rfl⟩, fun _ hq => State.part?_modPart_ne _ _ hq, fun _ => rfl⟩,
    fun hno => congrArg Host.Outcome.next (if_pos ?_)⟩
  · rw [List.contains_iff_mem.2 hmem]
    decide
  · rw [Bool.not_eq_true', ← Bool.not_eq_true, List.contains_iff_mem]
    exact hno

/-! ## The clock of the dies (R437) -/

theorem State.clockOf_setClock (s : State) (die mhz d : Nat) : (s.setClock die mhz).clockOf d = if d = die then mhz else s.clockOf d := by
  unfold State.clockOf State.setClock Table.getD
  dsimp only
  by_cases hd : d = die
  · rw [if_pos hd, hd]
    split
    next hfull => rw [Table.get?_erase, if_pos rfl, hfull, Option.getD_none]
    next => rw [Table.get?_set_same, Option.getD_some]
  · rw [if_neg hd]
    split
    · rw [Table.get?_erase, if_neg (Ne.symm hd)]
    · rw [Table.get?_set, if_neg (Ne.symm hd)]

theorem clockThrottles (s : State) (die : BitVec 3) (cause : ThrottleCause) : ∃ t, exec (.clockThrottle die cause) s = .next t ∧
    t.clockOf die.toNat = max 550 (s.clockOf die.toNat - 50) ∧ Table.get? t.throttle die.toNat = some cause ∧
    ∀ d, d ≠ die.toNat → t.clockOf d = s.clockOf d := by
  let new := max 550 (s.clockOf die.toNat - 50)
  let s₁ : State := { s.setClock die.toNat new with throttle := Table.set s.throttle die.toNat cause }
  obtain ⟨t, he, hparts⟩ : ∃ t, exec (.clockThrottle die cause) s = .next t ∧ s₁.OnlyParts t := by
    refine ⟨_, rfl, ?_⟩
    change s₁.OnlyParts (if new = 550 ∧ s.clockOf die.toNat ≠ 550 then _ else s₁)
    split
    · split
      · exact (State.orphan_beside ..).onlyParts
      · rfl
    · rfl
  refine ⟨t, he, ?_⟩
  rw [hparts]
  exact ⟨(s.clockOf_setClock ..).trans (if_pos rfl), Table.get?_set_same .., fun d hd => (s.clockOf_setClock ..).trans (if_neg hd)⟩

theorem clockRises (s : State) (die : BitVec 3) : ∃ t, exec (.clockRaise die) s = .next t ∧
    t.clockOf die.toNat = min 1100 (s.clockOf die.toNat + 50) ∧ (∀ d, d ≠ die.toNat → t.clockOf d = s.clockOf d) ∧
    (t.clockOf die.toNat = 1100 → Table.get? t.throttle die.toNat = none) ∧ ∀ a, t.byte a = s.byte a := by
  let s₁ := s.setClock die.toNat (min 1100 (s.clockOf die.toNat + 50))
  have hsame : s₁.clockOf die.toNat = min 1100 (s.clockOf die.toNat + 50) := (s.clockOf_setClock ..).trans (if_pos rfl)
  have hothers (d : Nat) (hd : d ≠ die.toNat) : s₁.clockOf d = s.clockOf d := (s.clockOf_setClock ..).trans (if_neg hd)
  by_cases hfull : s₁.clockOf die.toNat = 1100
  · exact ⟨{ s₁ with throttle := Table.erase s₁.throttle die.toNat }, congrArg Host.Outcome.next (if_pos hfull), hsame, hothers,
      fun _ => (Table.get?_erase ..).trans (if_pos rfl), fun _ => rfl⟩
  · exact ⟨s₁, congrArg Host.Outcome.next (if_neg hfull), hsame, hothers, fun h => absurd h hfull, fun _ => rfl⟩

theorem dieStops (s : State) (p : PartNo) (P : Part) (die : BitVec 3) (hof : s.partOfDie die.toNat = some (p, P)) :
    Reaches (.thermalStop die) s p fun t P' => t.stopped.contains die.toNat = true ∧ P'.run.teams = [] ∧ P'.mode = 0 ∧
      P'.elogHead = 0 ∧ ∀ a, t.byte a = s.byte a := by
  let s₁ : State := { s with stopped := insertNum s.stopped die.toNat }
  obtain ⟨Q, he⟩ : ∃ Q : Part, exec (.thermalStop die) s = .next (s₁.setPart p Q.reset) := by
    refine ⟨P.log (logRecord s.now 0 0xFFFFFFFF 13 srcCore (die.toNat * 16) 4), ?_⟩
    change execThermalStop die s = _
    rw [execThermalStop]
    dsimp only
    rw [show s₁.partOfDie die.toNat = some (p, P) from hof]
    rfl
  exact ⟨_, Q.reset, he, State.part?_setPart_same .., List.contains_iff_mem.2 (mem_insertNum.2 (.inl rfl)), rfl, rfl, rfl, fun _ => rfl⟩

/-- Settles O48: the host's accesses and acknowledgements, the partition's time, and the clocks of the dies. -/
theorem hostPortTimeAndClock : Obligations.HostPortTimeAndClock :=
  ⟨cxlPortGoesDown, hostWrites, hostReads, lineIsAcknowledged, fun _ _ _ => ⟨congrArg Host.Outcome.next rfl, rfl⟩, timeOffsetIsNoticed, clockThrottles, clockRises, dieStops⟩
end

end Sys2Proof.Machine
end

section
/-!
SUPPORT. Numbers and double words that the firmware writes (spec/23_firmware_boot_power.md R424 to R435).
-/
namespace Sys2Proof.Machine
open Sys2Proof.Spec

section
variable {s t : State}

/-- Only memory differs. -/
def State.OnlyMem (s t : State) : Prop := t = { s with mem := t.mem, memPoison := t.memPoison }

theorem State.OnlyMem.refl (s : State) : s.OnlyMem s := rfl

theorem State.OnlyMem.trans {u : State} (h : s.OnlyMem t) (h' : t.OnlyMem u) : s.OnlyMem u := by
  unfold State.OnlyMem at *
  rw [h', h]

theorem State.OnlyMem.part? (h : s.OnlyMem t) (p : PartNo) : t.part? p = s.part? p := by
  rw [h]
  rfl

theorem State.OnlyMem.portDown (h : s.OnlyMem t) (pa : Nat) : t.portDown pa = s.portDown pa := by
  rw [h]
  rfl

theorem State.store_onlyMem (s : State) (pa : Nat) (bs : List Byte) : s.OnlyMem (s.store pa bs) := by
  unfold State.store
  split <;> rfl

theorem State.storeNum_onlyMem (s : State) (pa n x : Nat) : s.OnlyMem (s.storeNum pa n x) := s.store_onlyMem ..

theorem State.storeWords_onlyMem (s : State) (pa : Nat) (ws : List DWord) : s.OnlyMem (s.storeWords pa ws) := by
  induction ws generalizing s pa with
  | nil => rfl
  | cons w ws ih => exact (s.storeNum_onlyMem ..).trans (ih ..)

theorem State.byte_storeNum_outside (s : State) {pa n a : Nat} (x : Nat) (h : a < pa ∨ pa + n ≤ a) : (s.storeNum pa n x).byte a = s.byte a :=
  s.byte_store_outside _ _ _ (by rwa [leBytes_length])

theorem State.byte_storeNum_inside {pa n j : Nat} (x : Nat) (hup : s.portDown pa = false) (hj : j < n) :
    (s.storeNum pa n x).byte (pa + j) = BitVec.ofNat 8 (x / 256 ^ j) := by
  rw [State.storeNum, State.byte_store, if_pos ⟨hup, Nat.le_add_right ..⟩, Nat.add_sub_cancel_left, getD_leBytes x hj]

theorem State.byte_storeWords_outside (s : State) {pa a : Nat} (ws : List DWord) (h : a < pa ∨ pa + 8 * ws.length ≤ a) :
    (s.storeWords pa ws).byte a = s.byte a := by
  induction ws generalizing s pa with
  | nil => rfl
  | cons w ws ih =>
    rw [List.length_cons] at h
    exact (ih _ (by omega)).trans (s.byte_storeNum_outside _ (by omega))

theorem State.byte_storeWords_inside {pa k j : Nat} {ws : List DWord} {w : DWord} (hup : ∀ a, pa ≤ a → a < pa + 8 * ws.length → s.portDown a = false) (hw : ws[k]? = some w) (hj : j < 8) :
    (s.storeWords pa ws).byte (pa + 8 * k + j) = BitVec.ofNat 8 (w.toNat / 256 ^ j) := by
  induction ws generalizing s pa k with
  | nil => nomatch hw
  | cons x ws ih =>
    rw [List.length_cons] at hup
    cases k with
    | zero =>
      obtain rfl : x = w := Option.some.inj hw
      exact (State.byte_storeWords_outside _ ws (.inl (by omega))).trans (State.byte_storeNum_inside _ (hup pa le_rfl (by omega)) hj)
    | succ k =>
      have hrest := ih (s := s.storeNum pa 8 x.toNat) (pa := pa + 8) (fun a hlo hhi => ((s.storeNum_onlyMem ..).portDown a).trans (hup a (by omega) (by omega))) hw
      rw [show pa + 8 * (k + 1) + j = pa + 8 + 8 * k + j by omega]
      exact hrest

theorem State.byte_of_words (s : State) {pa n k j : Nat} (hk : k < n) (hj : j < 8) :
    ∃ w, (s.words pa n)[k]? = some w ∧ BitVec.ofNat 8 (w.toNat / 256 ^ j) = s.byte (pa + 8 * k + j) := by
  refine ⟨BitVec.ofNat 64 (s.num (pa + 8 * k) 8), ?_, ?_⟩
  · rw [State.words, List.getElem?_map, List.getElem?_range hk]
    rfl
  · have hlt : s.num (pa + 8 * k) 8 < 2 ^ 64 := s.num_lt ..
    rw [BitVec.toNat_ofNat, Nat.mod_eq_of_lt hlt, ← State.byte_of_num s _ hj]
end

end Sys2Proof.Machine
end

section
/-!
PROOF. Boot and live update (spec/23_firmware_boot_power.md R432, R433, R435).
-/
namespace Sys2Proof.Machine
open Sys2Proof.Spec

section
variable {s t : State}

/-! ## Boot (R433, R435) -/

theorem extendMeasure_eq (m d : BitVec 512) : extendMeasure m d = extended m d := by
  rw [extendMeasure, sha512Num, bytesOf512, bytesOf512, extended]

theorem State.measure_eq (s : State) (k : Nat) (d : BitVec 512) :
    s.measure k d = { s with meas := Cells.set 0 s.meas k (extended (Cells.get 0 s.meas k) d) } := by
  rw [State.measure, extendMeasure_eq]

/-- The registers M0, M3 and M1 once the three images are measured. -/
def bootMeas (c : Cells 512) (d₀ d₃ d₁ : BitVec 512) : Cells 512 := Cells.set 0 (Cells.set 0 (Cells.set 0 c 0 d₀) 3 d₃) 1 d₁

theorem get_bootMeas (c : Cells 512) (d₀ d₃ d₁ : BitVec 512) : Cells.get 0 (bootMeas c d₀ d₃ d₁) 0 = d₀ ∧ Cells.get 0 (bootMeas c d₀ d₃ d₁) 3 = d₃ ∧
    Cells.get 0 (bootMeas c d₀ d₃ d₁) 1 = d₁ ∧ Cells.get 0 (bootMeas c d₀ d₃ d₁) 2 = Cells.get 0 c 2 := by
  simp only [bootMeas, Cells.get_set]
  exact ⟨rfl, rfl, rfl, rfl⟩

theorem execPowerOnBoot_eq (m : BootImages) (hboots : ¬(s.fw.booted = true ∨ s.fw.failed = true)) {d₀ d₃ d₁ : BitVec 512}
    (h₀ : d₀ = extended (Cells.get 0 s.meas 0) m.mgmtMeasure) (h₃ : d₃ = extended (Cells.get 0 s.meas 3) m.fabricMeasure)
    (h₁ : d₁ = extended (Cells.get 0 s.meas 1) m.firmwareMeasure) :
    exec (.powerOnBoot m) s = .next (if m.mgmtOk then
        { s with meas := bootMeas s.meas d₀ d₃ d₁,
                 fw := if m.firmwareOk then { s.fw with booted := true, version := m.firmwareVersion } else { s.fw with failed := true } }
      else { s with meas := Cells.set 0 s.meas 0 d₀, fw := { s.fw with failed := true } }) := by
  change execPowerOnBoot m s = _
  rw [execPowerOnBoot, if_neg hboots]
  dsimp only
  rw [State.measure_eq, State.measure_eq, State.measure_eq]
  dsimp only
  rw [Cells.get_set_ne _ _ 0 3 _ (by decide), Cells.get_set_ne _ _ 3 1 _ (by decide), Cells.get_set_ne _ _ 0 1 _ (by decide), ← h₀, ← h₃, ← h₁]
  cases m.mgmtOk with
  | false => rfl
  | true => cases m.firmwareOk with
    | false => rfl
    | true => rfl

theorem bootMeasures (s : State) (m : BootImages) (hbooted : s.fw.booted = false) (hfailed : s.fw.failed = false) :
    ∃ t, exec (.powerOnBoot m) s = .next t ∧ t.parts = s.parts ∧ (∀ a, t.byte a = s.byte a) ∧
      Cells.get 0 t.meas 0 = extended (Cells.get 0 s.meas 0) m.mgmtMeasure ∧ Cells.get 0 t.meas 2 = Cells.get 0 s.meas 2 ∧
      (m.mgmtOk = false → t.fw = { s.fw with failed := true } ∧ ∀ k, k ≠ 0 → Cells.get 0 t.meas k = Cells.get 0 s.meas k) ∧
      (m.mgmtOk = true → Cells.get 0 t.meas 3 = extended (Cells.get 0 s.meas 3) m.fabricMeasure ∧
        Cells.get 0 t.meas 1 = extended (Cells.get 0 s.meas 1) m.firmwareMeasure ∧
        t.fw = if m.firmwareOk then { s.fw with booted := true, version := m.firmwareVersion } else { s.fw with failed := true }) := by
  have hboots : ¬(s.fw.booted = true ∨ s.fw.failed = true) := by
    rw [hbooted, hfailed]
    decide
  obtain ⟨d₀, h₀⟩ : ∃ d, d = extended (Cells.get 0 s.meas 0) m.mgmtMeasure := ⟨_, rfl⟩
  obtain ⟨d₃, h₃⟩ : ∃ d, d = extended (Cells.get 0 s.meas 3) m.fabricMeasure := ⟨_, rfl⟩
  obtain ⟨d₁, h₁⟩ : ∃ d, d = extended (Cells.get 0 s.meas 1) m.firmwareMeasure := ⟨_, rfl⟩
  rw [execPowerOnBoot_eq m hboots h₀ h₃ h₁, ← h₀, ← h₃, ← h₁]
  cases m.mgmtOk with
  | false =>
    exact ⟨_, congrArg Host.Outcome.next (if_neg Bool.false_ne_true), rfl, fun _ => rfl, Cells.get_set_same .., Cells.get_set_ne _ _ 0 2 _ (by decide),
      fun _ => ⟨rfl, fun k hk => Cells.get_set_ne _ _ 0 k _ hk.symm⟩, nofun⟩
  | true =>
    obtain ⟨hm₀, hm₃, hm₁, hm₂⟩ := get_bootMeas s.meas d₀ d₃ d₁
    exact ⟨_, congrArg Host.Outcome.next (if_pos rfl), rfl, fun _ => rfl, hm₀, hm₂, nofun, fun _ => ⟨hm₃, hm₁, rfl⟩⟩

/-! ## The successor area (R337, R432) -/

theorem Choice.regionPlace_fits {c : Choice} {but : Option Nat} {want n b : Nat} (h : c.regionPlace but want n = some b) : b + n ≤ regionWords := by
  unfold Choice.regionPlace at h
  dsimp only at h
  split at h
  next hfree =>
    obtain rfl := Option.some.inj h
    exact of_decide_eq_true (Bool.and_eq_true_iff.1 hfree).1
  · obtain ⟨-, hfree⟩ := List.mem_filter.1 (List.min?_mem h)
    exact of_decide_eq_true (Bool.and_eq_true_iff.1 hfree).1

/-- What the firmware does with double words for the area of one partition. -/
def State.toArea (ws : List DWord) (s : State) (e : Nat × Part) : State :=
  match e.2.choice.regionPlace none (Config.successorArea s.tick).toNat ws.length with
  | some b => s.storeWords (e.2.regs.shelfb.toNat + 8 * b) ws
  | none => s

theorem State.toArea_spec (s : State) (ws : List DWord) (e : Nat × Part) : s.OnlyMem (s.toArea ws e) ∧
    ∀ a, (a < e.2.regs.shelfb.toNat ∨ e.2.regs.shelfb.toNat + 2 ^ 29 ≤ a) → (s.toArea ws e).byte a = s.byte a := by
  unfold State.toArea
  split
  next b hb =>
    have hfits : b + ws.length ≤ 2 ^ 26 := Choice.regionPlace_fits hb
    exact ⟨s.storeWords_onlyMem .., fun a ha => s.byte_storeWords_outside ws (by omega)⟩
  · exact ⟨rfl, fun _ _ => rfl⟩

theorem State.toSuccessorArea_spec (s : State) (ws : List DWord) : s.OnlyMem (s.toSuccessorArea ws) ∧ OutsideRegions s (s.toSuccessorArea ws) := by
  have hfold (es : List (Nat × Part)) (t : State) : let u := es.foldl (State.toArea ws) t
      t.OnlyMem u ∧ ∀ a, (∀ e ∈ es, a < e.2.regs.shelfb.toNat ∨ e.2.regs.shelfb.toNat + 2 ^ 29 ≤ a) → u.byte a = t.byte a := by
    induction es generalizing t with
    | nil => exact ⟨rfl, fun _ _ => rfl⟩
    | cons e es ih =>
      obtain ⟨hmem, hbyte⟩ := ih (t.toArea ws e)
      obtain ⟨hmem', hbyte'⟩ := t.toArea_spec ws e
      exact ⟨hmem'.trans hmem, fun a ha => (hbyte a fun x hx => ha x (.tail _ hx)).trans (hbyte' a (ha e (.head _)))⟩
  exact hfold s.parts s

/-! ## Live update (R432) -/

/-- The state that the body of a command finds. -/
def State.withArgs (s : State) (arg0 arg1 : DWord) : State := { s with pfArg := Cells.set 0 (Cells.set 0 s.pfArg 0 arg0) 1 arg1 }

theorem State.pfCommand_ready (hready : PfReady s) (arg0 arg1 : DWord) (body : DWord → DWord → State → State × Nat) :
    s.pfCommand arg0 arg1 body =
      { (body arg0 arg1 (s.withArgs arg0 arg1)).1 with pfStatus := BitVec.ofNat 8 (body arg0 arg1 (s.withArgs arg0 arg1)).2 } := by
  obtain ⟨hbooted, hidle⟩ := hready
  rw [State.pfCommand]
  refine if_neg ?_
  rw [hbooted, hidle]
  decide

/-- A command whose body keeps the arguments. -/
theorem pfCommand_of_body {i : Instr} {arg0 arg1 : DWord} {body : DWord → DWord → State → State × Nat} {status : Nat} {rel : State → Prop}
    (hready : PfReady s) (hexec : exec i s = .next (s.pfCommand arg0 arg1 body))
    {u : State} (hbody : body arg0 arg1 (s.withArgs arg0 arg1) = (u, status)) (hargs : u.pfArg = (s.withArgs arg0 arg1).pfArg) (hrel : rel { u with pfStatus := BitVec.ofNat 8 status }) :
    PfCommand i s arg0 arg1 status rel := by
  have hrun : s.pfCommand arg0 arg1 body = { u with pfStatus := BitVec.ofNat 8 status } := by
    refine (State.pfCommand_ready hready arg0 arg1 body).trans ?_
    rw [hbody]
  refine ⟨_, hexec.trans (congrArg Host.Outcome.next hrun), rfl, ?_, ?_, hrel⟩
  · change Cells.get 0 u.pfArg 0 = arg0
    rw [hargs]
    exact (Cells.get_set_ne _ _ _ _ _ (by decide)).trans ((Cells.get_set ..).trans (if_pos rfl))
  · change Cells.get 0 u.pfArg 1 = arg1
    rw [hargs]
    exact (Cells.get_set ..).trans (if_pos rfl)

theorem State.meas_foldl_measure (xs : List Config.LvcSegment) (s : State) :
    xs.foldl (fun s x => s.measure 2 x.measurement) s = { s with meas := (xs.foldl (fun s x => s.measure 2 x.measurement) s).meas } ∧
    Cells.get 0 (xs.foldl (fun s x => s.measure 2 x.measurement) s).meas 2 = (xs.map (·.measurement)).foldl extended (Cells.get 0 s.meas 2) ∧
    ∀ k, k ≠ 2 → Cells.get 0 (xs.foldl (fun s x => s.measure 2 x.measurement) s).meas k = Cells.get 0 s.meas k := by
  induction xs generalizing s with
  | nil => exact ⟨rfl, rfl, fun _ _ => rfl⟩
  | cons x xs ih =>
    obtain ⟨d, hd⟩ : ∃ d, d = extended (Cells.get 0 s.meas 2) x.measurement := ⟨_, rfl⟩
    have hx : s.measure 2 x.measurement = { s with meas := Cells.set 0 s.meas 2 d } := by
      rw [State.measure_eq, hd]
    obtain ⟨hframe, hsame, hothers⟩ := ih { s with meas := Cells.set 0 s.meas 2 d }
    rw [List.foldl_cons, hx, List.map_cons, List.foldl_cons, ← hd]
    refine ⟨hframe, hsame.trans ?_, fun k hk => (hothers k hk).trans (Cells.get_set_ne _ _ 2 k _ hk.symm)⟩
    dsimp only
    rw [Cells.get_set_same]

theorem State.keys_of_region {arg0 arg1 : DWord} (hne : arg1 ≠ 0) (hkeys : ∀ a, arg0.toNat ≤ a → a < arg0.toNat + arg1.toNat → Cells.get 0 s.granules (a / 2 ^ 26) = 0) :
    ((touched (2 ^ 26) arg0.toNat arg1.toNat).any fun g => Cells.get 0 s.granules g != 0) = false := by
  have hpos : 0 < arg1.toNat := Nat.pos_of_ne_zero fun h => hne (BitVec.eq_of_toNat_eq h)
  refine List.any_eq_false.2 fun g hg => ?_
  obtain ⟨hlo, hhi⟩ := mem_touched.1 hg
  have hkey : Cells.get 0 s.granules g = 0 := by
    have := hkeys (max arg0.toNat (g * 2 ^ 26)) (le_max_left ..) (by omega)
    rwa [show max arg0.toNat (g * 2 ^ 26) / 2 ^ 26 = g by omega] at this
  rw [hkey]
  decide

section
variable {arg0 arg1 : DWord}

theorem updateIsRefused (hready : PfReady s) (hne : arg1 ≠ 0) (hend : arg0.toNat + arg1.toNat ≤ 2 ^ 52)
    (hkeys : ∀ a, arg0.toNat ≤ a → a < arg0.toNat + arg1.toNat → Cells.get 0 s.granules (a / 2 ^ 26) = 0)
    (hbad : s.unclean arg0.toNat arg1.toNat = true ∨ ∀ l, Config.parseLvc (s.bytes arg0.toNat arg1.toNat) = some l → s.successorOk l = false) :
    PfCommand (.updateFirmware arg0 arg1) s arg0 arg1 3 fun t =>
        t = { s with parts := t.parts, pfArg := t.pfArg, pfStatus := t.pfStatus } ∧
        ∀ p P, s.part? p = some P → ∃ P', t.part? p = some P' ∧ Cells.get 0 P'.vectors 3 = Cells.get 0 P.vectors 3 + 1 ∧
          P' = { P with reports := .updateRefused :: P.reports, vectors := P'.vectors } := by
  have hargs : ¬(arg1 = 0 ∨ 2 ^ 52 < arg0.toNat + arg1.toNat ∨ ((touched (2 ^ 26) arg0.toNat arg1.toNat).any fun g => Cells.get 0 s.granules g != 0) = true) := by
    rw [State.keys_of_region hne hkeys]
    exact not_or.2 ⟨hne, not_or.2 ⟨Nat.not_lt.2 hend, Bool.false_ne_true⟩⟩
  have hbody : State.updateFirmwareBody arg0 arg1 (s.withArgs arg0 arg1) = ((s.withArgs arg0 arg1).refuseUpdate, 3) := by
    rw [State.updateFirmwareBody]
    refine (if_neg hargs).trans ?_
    by_cases hunclean : (s.withArgs arg0 arg1).unclean arg0.toNat arg1.toNat = true
    · exact if_pos hunclean
    · refine (if_neg hunclean).trans ?_
      have hok := hbad.resolve_left hunclean
      dsimp only
      cases hl : Config.parseLvc ((s.withArgs arg0 arg1).bytes arg0.toNat arg1.toNat) with
      | none => rfl
      | some l =>
        refine if_pos ?_
        rw [show (s.withArgs arg0 arg1).successorOk l = false from hok l hl]
        rfl
  refine pfCommand_of_body hready rfl hbody rfl ⟨rfl, fun p P hP => ?_⟩
  have hget : ((s.withArgs arg0 arg1).refuseUpdate).part? p = some ((P.report .updateRefused).vector 3) := by
    refine (Table.get?_map s.parts (fun _ P => (P.report .updateRefused).vector 3) p.toNat).trans ?_
    rw [show Table.get? s.parts p.toNat = some P from hP]
    rfl
  exact ⟨_, hget, (Cells.get_set ..).trans (if_pos rfl), rfl⟩

theorem successorIsCopied (hready : PfReady s) (hne : arg1 ≠ 0) (hend : arg0.toNat + arg1.toNat ≤ 2 ^ 52)
    (hkeys : ∀ a, arg0.toNat ≤ a → a < arg0.toNat + arg1.toNat → Cells.get 0 s.granules (a / 2 ^ 26) = 0) {l : Config.Lvc}
    (hclean : s.unclean arg0.toNat arg1.toNat = false) (hl : Config.parseLvc (s.bytes arg0.toNat arg1.toNat) = some l) (hok : s.successorOk l = true) :
    PfCommand (.updateFirmware arg0 arg1) s arg0 arg1 0 fun t =>
        t.fw = { s.fw with successor := some l.version } ∧ t.pfBusy = true ∧ t.parts = s.parts ∧
        Cells.get 0 t.meas 2 =
          ((l.segments.filter fun x => x.kind == 4).map (·.measurement)).foldl extended (Cells.get 0 s.meas 2) ∧
        (∀ k, k ≠ 2 → Cells.get 0 t.meas k = Cells.get 0 s.meas k) ∧ OutsideRegions s t ∧
        ∀ n P b, s.parts = [(n, P)] → s.cxlDown = [] →
          P.choice.regionPlace none (Config.successorArea s.tick).toNat ((arg1.toNat + 7) / 8) = some b →
          ∀ j < arg1.toNat, t.byte (P.regs.shelfb.toNat + 8 * b + j) = s.byte (arg0.toNat + j) := by
  have hargs : ¬(arg1 = 0 ∨ 2 ^ 52 < arg0.toNat + arg1.toNat ∨ ((touched (2 ^ 26) arg0.toNat arg1.toNat).any fun g => Cells.get 0 s.granules g != 0) = true) := by
    rw [State.keys_of_region hne hkeys]
    exact not_or.2 ⟨hne, not_or.2 ⟨Nat.not_lt.2 hend, Bool.false_ne_true⟩⟩
  obtain ⟨ws, hws⟩ : ∃ ws, ws = s.words arg0.toNat ((arg1.toNat + 7) / 8) := ⟨_, rfl⟩
  have hlength : ws.length = (arg1.toNat + 7) / 8 := by
    rw [hws, State.words, List.length_map, List.length_range]
  obtain ⟨hcopied, houtside⟩ := (s.withArgs arg0 arg1).toSuccessorArea_spec ws
  obtain ⟨copied, hc⟩ : ∃ copied, copied = (s.withArgs arg0 arg1).toSuccessorArea ws := ⟨_, rfl⟩
  rw [← hc] at hcopied houtside
  obtain ⟨hframe, hsame, hothers⟩ := State.meas_foldl_measure (firmwareSegments l) copied
  obtain ⟨u, hu⟩ : ∃ u, u = (firmwareSegments l).foldl (fun s x => s.measure 2 x.measurement) copied := ⟨_, rfl⟩
  rw [← hu] at hframe hsame hothers
  have hbody : State.updateFirmwareBody arg0 arg1 (s.withArgs arg0 arg1) =
      ({ u with fw := { u.fw with successor := some l.version }, pfBusy := true }, 0) := by
    rw [State.updateFirmwareBody]
    refine (if_neg hargs).trans ((if_neg ?_).trans ?_)
    · rw [show (s.withArgs arg0 arg1).unclean arg0.toNat arg1.toNat = false from hclean]
      decide
    · dsimp only
      rw [show Config.parseLvc ((s.withArgs arg0 arg1).bytes arg0.toNat arg1.toNat) = some l from hl]
      dsimp only
      rw [show (s.withArgs arg0 arg1).successorOk l = true from hok, show (s.withArgs arg0 arg1).words arg0.toNat ((arg1.toNat + 7) / 8) = ws from hws.symm,
        ← hc, ← hu]
      rfl
  have hmeas : copied.meas = s.meas := by
    rw [hcopied]
    rfl
  rw [hmeas] at hsame hothers
  have hbyte (a : Nat) : u.byte a = copied.byte a := by
    rw [hframe]
    rfl
  refine pfCommand_of_body hready rfl hbody ?_ ⟨?_, rfl, ?_, hsame, hothers, fun a ha => (hbyte a).trans (houtside a ha), fun n P b hparts hports hb j hj => ?_⟩
  · change u.pfArg = _
    rw [hframe]
    dsimp only
    rw [hcopied]
  · change { u.fw with successor := some l.version } = _
    rw [hframe]
    dsimp only
    rw [hcopied]
    rfl
  · change u.parts = _
    rw [hframe]
    dsimp only
    rw [hcopied]
    rfl
  · have hplace : copied = (s.withArgs arg0 arg1).storeWords (P.regs.shelfb.toNat + 8 * b) ws := by
      rw [hc, State.toSuccessorArea, show (s.withArgs arg0 arg1).parts = [(n, P)] from hparts, List.foldl_cons, List.foldl_nil, hlength]
      dsimp only
      rw [show P.choice.regionPlace none (Config.successorArea (s.withArgs arg0 arg1).tick).toNat ((arg1.toNat + 7) / 8) = some b from hb]
    obtain ⟨w, hw, hword⟩ := State.byte_of_words s (pa := arg0.toNat) (n := (arg1.toNat + 7) / 8) (k := j / 8) (j := j % 8) (by omega) (Nat.mod_lt _ (by decide))
    rw [← hws] at hw
    refine (hbyte _).trans ?_
    have hin := State.byte_storeWords_inside (s := s.withArgs arg0 arg1) (pa := P.regs.shelfb.toNat + 8 * b) (fun a _ _ => State.portDown_nil hports a) hw (Nat.mod_lt j (by decide : 0 < 8))
    rw [hplace, show P.regs.shelfb.toNat + 8 * b + j = P.regs.shelfb.toNat + 8 * b + 8 * (j / 8) + j % 8 by omega, hin, hword]
    exact congrArg s.byte (by omega)
end

theorem handoverEnds (s : State) (v : Nat) (hsuccessor : s.fw.successor = some v) (hpass : s.fw.pass = []) :
    ∃ t, exec .firmwareHandover s = .next t ∧
      t = { s with fw := { s.fw with version := v, successor := none }, pfBusy := false, mem := t.mem, memPoison := t.memPoison } ∧
      OutsideRegions s t := by
  obtain ⟨ws, hws⟩ : ∃ ws, ws = Config.preservedTable s.parts s.portGrant s.cxlDown := ⟨_, rfl⟩
  obtain ⟨hmem, houtside⟩ := s.toSuccessorArea_spec ws
  have hfw : (s.toSuccessorArea ws).fw = s.fw := by
    rw [hmem]
  refine ⟨{ s.toSuccessorArea ws with fw := { s.fw with version := v, successor := none }, pfBusy := false }, ?_, ?_, fun a ha => houtside a ha⟩
  · change execFirmwareHandover s = _
    rw [execFirmwareHandover, hsuccessor]
    dsimp only
    rw [hpass, ← hws]
    refine (congrArg Host.Outcome.next (if_neg Bool.false_ne_true)).trans ?_
    rw [hfw, hpass]
  · rw [hmem]

/-- Settles O49: boot measures its images and stops at a bad one, a successor is copied, measured and handed over to, or refused. -/
theorem bootMeasuresAndUpdatesHandOver : Obligations.BootMeasuresAndUpdatesHandOver :=
  ⟨bootMeasures, fun _ _ _ hready hne hend hkeys => ⟨fun _ hclean hl hok => successorIsCopied hready hne hend hkeys hclean hl hok, updateIsRefused hready hne hend hkeys⟩,
    handoverEnds, fun _ _ hok => of_decide_eq_true (Bool.and_eq_true_iff.1 hok).2⟩
end
end Sys2Proof.Machine
end

section
/-!
PROOF. The commands of the physical function and a Function Level Reset (spec/17_package_memory.md R345, R347, R348, R350, spec/22_fabric.md R417).
-/
namespace Sys2Proof.Machine
open Sys2Proof.Spec

section
variable {s : State} {p : PartNo} {P : Part} {arg0 arg1 : DWord} {i : Instr} {body : DWord → DWord → State → State × Nat}

theorem not_bnot_of_true {b : Bool} (h : b = true) : ¬(!b) = true := by
  rw [h]
  decide

theorem bnot_of_false {b : Bool} (h : b = false) : (!b) = true := by
  rw [h]
  rfl

/-! ## Resets (R347) -/

theorem mem_initial_homes {r : Regs} {n : DWord} : ∀ e ∈ (Run.initial r n).homes, e.2.queue = [] ∧ e.2.batch = none := by
  intro e he
  obtain ⟨c, -, rfl⟩ := List.mem_map.1 he
  exact ⟨rfl, rfl⟩

theorem Part.reset_isReset (P : Part) : IsReset P P.reset where
  empty := ⟨rfl, rfl, rfl, rfl, rfl, rfl, rfl, mem_initial_homes, rfl, rfl, rfl, ⟨rfl, rfl, rfl⟩, fun _ => rfl, rfl, rfl⟩
  regs := rfl
  kept := ⟨rfl, rfl, rfl⟩

theorem functionResets (s : State) (p : PartNo) (P : Part) (hP : s.part? p = some P) :
    Becomes (.functionLevelReset p) s p fun P' => IsReset P P' ∧ P'.queues = P.queues :=
  becomes_of_beside rfl (State.part?_modPart_some hP Part.reset) ((State.Beside.refl s p).modPart Part.reset) ⟨P.reset_isReset, rfl⟩

/-! ## Commands that change nothing, and fields of arguments (R348) -/

theorem pfCommand_refused {status : Nat} (hready : PfReady s) (hexec : exec i s = .next (s.pfCommand arg0 arg1 body))
    (hbody : body arg0 arg1 (s.withArgs arg0 arg1) = (s.withArgs arg0 arg1, status)) : PfCommand i s arg0 arg1 status (PfOnly s) :=
  pfCommand_of_body hready hexec hbody rfl rfl

theorem field_setWidth {n : Nat} (hn : n ≤ 64) (x : BitVec n) : field (x.setWidth 64) 0 n = x.toNat := by
  rw [field, BitVec.toNat_setWidth, Nat.mod_eq_of_lt (x.isLt.trans_le (Nat.pow_le_pow_right (by decide) hn)), Nat.pow_zero, Nat.div_one, Nat.mod_eq_of_lt x.isLt]

theorem toNat_setWidth_dword {n : Nat} (hn : n ≤ 64) (x : BitVec n) : (x.setWidth 64).toNat = x.toNat := by
  rw [BitVec.toNat_setWidth, Nat.mod_eq_of_lt (x.isLt.trans_le (Nat.pow_le_pow_right (by decide) hn))]

theorem within_setWidth {n : Nat} (hn : n ≤ 64) (x : BitVec n) : within (x.setWidth 64) [(0, n)] = true := by
  rw [within, List.foldl_cons, List.foldl_nil, field_setWidth hn, toNat_setWidth_dword hn, Nat.pow_zero, Nat.mul_one, Nat.zero_add]
  exact beq_self_eq_true _

/-! ## Partitions -/

theorem Part.created_empty (p : PartNo) (first size : Nat) (key : BitVec 8) : Empty { Part.created p first size key with meas := [] } :=
  ⟨rfl, rfl, rfl, rfl, rfl, rfl, rfl, mem_initial_homes, rfl, rfl, rfl, ⟨rfl, rfl, rfl⟩, fun _ => rfl, rfl, rfl⟩

/-- The dies, the number or the key of a new partition are taken, or its dies are not aligned. -/
def State.taken (s : State) (n first size key : Nat) : Prop := first % 2 ^ size ≠ 0 ∨ Table.has s.parts n = true ∨
  ∃ e ∈ s.parts, e.2.regs.pkey.toNat = key ∨ ∃ k < 2 ^ size, e.2.hasDie (first + k) = true

theorem State.partOfDie_isSome (s : State) (d : Nat) : (s.partOfDie d).isSome = true ↔ ∃ e ∈ s.parts, e.2.hasDie d = true := by
  rw [State.partOfDie, Option.isSome_map, List.find?_isSome]

theorem State.createStatus_spec {n first size key : Nat} (hn : n < 8) (hfirst : first < 8) (hsize : size ≤ 3) (hkey : 1 ≤ key) (hkey' : key ≤ 255) :
    (¬s.taken n first size key → s.createStatus (BitVec.ofNat 64 (first + 8 * size + 256 * n)) (BitVec.ofNat 64 key) = 0) ∧
    (s.taken n first size key → s.createStatus (BitVec.ofNat 64 (first + 8 * size + 256 * n)) (BitVec.ofNat 64 key) = 3) := by
  obtain ⟨arg0, harg0⟩ : ∃ a, a = BitVec.ofNat 64 (first + 8 * size + 256 * n) := ⟨_, rfl⟩
  obtain ⟨arg1, harg1⟩ : ∃ a, a = BitVec.ofNat 64 key := ⟨_, rfl⟩
  have htoNat0 : arg0.toNat = first + 8 * size + 256 * n := by
    rw [harg0, BitVec.toNat_ofNat, Nat.mod_eq_of_lt (by omega)]
  have htoNat1 : arg1.toNat = key := by
    rw [harg1, BitVec.toNat_ofNat, Nat.mod_eq_of_lt (by omega)]
  have hfields : field arg0 0 3 = first ∧ field arg0 3 2 = size ∧ field arg0 8 3 = n := by
    unfold field
    rw [htoNat0]
    refine ⟨?_, ?_, ?_⟩ <;> omega
  obtain ⟨hfield0, hfield3, hfield8⟩ := hfields
  have hwithin0 : within arg0 [(0, 5), (8, 3)] = true := by
    rw [within, List.foldl_cons, List.foldl_cons, List.foldl_nil, hfield8, field, htoNat0, beq_iff_eq]
    dsimp only
    omega
  have hwithin1 : within arg1 [(0, 8)] = true := by
    rw [within, List.foldl_cons, List.foldl_nil, field, htoNat1, beq_iff_eq]
    dsimp only
    omega
  have hne : arg1 ≠ 0 := fun h => by
    have h0 : key = 0 := htoNat1.symm.trans (congrArg BitVec.toNat h)
    omega
  have htaken : (first % 2 ^ size ≠ 0 ∨ (List.range (2 ^ size)).any (fun k => (s.partOfDie (first + k)).isSome) = true ∨
      Table.has s.parts n = true ∨ s.parts.any (fun e => e.2.regs.pkey.toNat == key) = true) ↔ s.taken n first size key := by
    simp only [State.taken, List.any_eq_true, List.mem_range, State.partOfDie_isSome, beq_iff_eq]
    constructor
    · rintro (h | ⟨k, hk, e, he, hdie⟩ | h | ⟨e, he, hpkey⟩)
      · exact .inl h
      · exact .inr (.inr ⟨e, he, .inr ⟨k, hk, hdie⟩⟩)
      · exact .inr (.inl h)
      · exact .inr (.inr ⟨e, he, .inl hpkey⟩)
    · rintro (h | h | ⟨e, he, hpkey | ⟨k, hk, hdie⟩⟩)
      · exact .inl h
      · exact .inr (.inr (.inl h))
      · exact .inr (.inr (.inr ⟨e, he, hpkey⟩))
      · exact .inr (.inl ⟨k, hk, e, he, hdie⟩)
  rw [← harg0, ← harg1, State.createStatus]
  rw [hfield0, hfield3, hfield8, hwithin0, hwithin1, htoNat1, if_neg (not_or.2 ⟨by decide, not_or.2 ⟨by decide, hne⟩⟩), ← htaken]
  exact ⟨fun h => if_neg h, fun h => if_pos h⟩

theorem partitionIsCreated (s : State) (n first size key : Nat) (hready : PfReady s) (hn : n < 8) (hfirst : first < 8) (hsize : size ≤ 3) (hkey : 1 ≤ key) (hkey' : key ≤ 255) :
    let arg0 : DWord := BitVec.ofNat 64 (first + 8 * size + 256 * n)
    let arg1 : DWord := BitVec.ofNat 64 key
    (¬s.taken n first size key → PfCommand (.createPartition arg0 arg1) s arg0 arg1 0 fun t => ∃ P', t.part? (BitVec.ofNat 3 n) = some P' ∧
      Empty { P' with meas := [] } ∧ P'.regs = registersReset P'.regs ∧ P'.regs.firstDie = first ∧ P'.regs.logDies = size ∧
      P'.regs.pkey.toNat = key ∧ P'.regs.shelfb.toNat = 0x10000000000 + first * 1984 * 2 ^ 20 ∧ P'.queues = [] ∧
      (∀ q, q ≠ BitVec.ofNat 3 n → t.part? q = s.part? q) ∧ t.granules = s.granules ∧ ∀ a, t.byte a = s.byte a) ∧
    (s.taken n first size key → PfCommand (.createPartition arg0 arg1) s arg0 arg1 3 (PfOnly s)) := by
  intro arg0 arg1
  obtain ⟨hfree, htaken⟩ := State.createStatus_spec (s := s) hn hfirst hsize hkey hkey'
  have hbody : State.createPartitionBody arg0 arg1 (s.withArgs arg0 arg1) = if s.createStatus arg0 arg1 = 0 then
      ((s.withArgs arg0 arg1).setPart (BitVec.ofNat 3 n) (Part.created (BitVec.ofNat 3 n) first size (BitVec.ofNat 8 key)), 0)
      else (s.withArgs arg0 arg1, s.createStatus arg0 arg1) := by
    have hfields : field arg0 0 3 = first ∧ field arg0 3 2 = size ∧ field arg0 8 3 = n ∧ arg1.toNat = key := by
      unfold field
      rw [BitVec.toNat_ofNat, BitVec.toNat_ofNat]
      refine ⟨?_, ?_, ?_, ?_⟩ <;> omega
    obtain ⟨hfield0, hfield3, hfield8, htoNat⟩ := hfields
    rw [State.createPartitionBody, hfield0, hfield3, hfield8, htoNat]
    rfl
  refine ⟨fun h => ?_, fun h => ?_⟩
  · refine pfCommand_of_body hready rfl (hbody.trans (if_pos (hfree h))) rfl ⟨_, State.part?_setPart_same .., Part.created_empty .., rfl, rfl, rfl, ?_, ?_, rfl,
      fun q hq => State.part?_setPart_ne _ _ hq, rfl, fun _ => rfl⟩
    · exact Nat.mod_eq_of_lt (by omega)
    · exact (BitVec.toNat_ofNat ..).trans (Nat.mod_eq_of_lt (by omega))
  · refine pfCommand_refused hready rfl (hbody.trans ?_)
    rw [htaken h]
    exact if_neg (by decide)

theorem partitionIsDestroyed (s : State) (p : PartNo) (arg1 : DWord) (hready : PfReady s) :
    let arg0 : DWord := p.setWidth 64
    ((s.part? p).isSome = true → PfCommand (.destroyPartition arg0 arg1) s arg0 arg1 0 fun t =>
      t = { s with parts := t.parts, portGrant := t.portGrant, pfArg := t.pfArg, pfStatus := t.pfStatus } ∧
      t.part? p = none ∧ (∀ q, q ≠ p → t.part? q = s.part? q) ∧
      ∀ e, e ∈ t.portGrant ↔ e ∈ s.portGrant ∧ e.2 ≠ p.toNat) ∧
    (s.part? p = none → PfCommand (.destroyPartition arg0 arg1) s arg0 arg1 3 (PfOnly s)) := by
  intro arg0
  have hwithin : within arg0 [(0, 3)] = true := within_setWidth (by decide) p
  have hfield : field arg0 0 3 = p.toNat := field_setWidth (by decide) p
  have hbody (t : State) : State.destroyPartitionBody arg0 arg1 t = if !Table.has t.parts p.toNat then (t, 3)
      else ({ t with parts := Table.erase t.parts p.toNat, portGrant := t.portGrant.filter fun e => e.2 != p.toNat }, 0) := by
    rw [State.destroyPartitionBody]
    rw [hwithin, hfield, Bool.not_true, if_neg Bool.false_ne_true]
  refine ⟨fun hsome => ?_, fun hnone => ?_⟩
  · refine pfCommand_of_body hready rfl ((hbody _).trans (if_neg ?_)) rfl ⟨rfl, (Table.get?_erase ..).trans (if_pos rfl),
      fun q hq => (Table.get?_erase ..).trans (if_neg fun h => hq (BitVec.eq_of_toNat_eq h).symm), fun e => ?_⟩
    · exact not_bnot_of_true hsome
    · exact List.mem_filter.trans (and_congr_right fun _ => bne_iff_ne)
  · refine pfCommand_refused hready rfl ((hbody _).trans (if_pos (bnot_of_false ?_)))
    exact Option.isSome_eq_false_iff.2 (Option.isNone_iff_eq_none.2 hnone)

/-! ## Granules (R336) -/

theorem granuleKeyIsSet (s : State) (g : BitVec 26) (key : BitVec 8) (hready : PfReady s) :
    let arg0 : DWord := g.setWidth 64
    let arg1 : DWord := key.setWidth 64
    (s.granuleBacked g.toNat = true → PfCommand (.setGranuleKey arg0 arg1) s arg0 arg1 0 fun t =>
      t = { s with granules := t.granules, pfArg := t.pfArg, pfStatus := t.pfStatus } ∧ Cells.get 0 t.granules g.toNat = key ∧
      ∀ k, k ≠ g.toNat → Cells.get 0 t.granules k = Cells.get 0 s.granules k) ∧
    (s.granuleBacked g.toNat = false → PfCommand (.setGranuleKey arg0 arg1) s arg0 arg1 3 (PfOnly s)) := by
  intro arg0 arg1
  have hwithin : within arg0 [(0, 26)] = true := within_setWidth (by decide) g
  have hwithin' : within arg1 [(0, 8)] = true := within_setWidth (by decide) key
  have hbody (t : State) : State.setGranuleKeyBody arg0 arg1 t = if !t.granuleBacked g.toNat then (t, 3)
      else ({ t with granules := Cells.set 0 t.granules g.toNat key }, 0) := by
    rw [State.setGranuleKeyBody, hwithin, hwithin', toNat_setWidth_dword (by decide) g, toNat_setWidth_dword (by decide) key, BitVec.ofNat_toNat]
    exact (if_neg (by decide)).trans (by rw [BitVec.setWidth_eq])
  refine ⟨fun hbacked => ?_, fun hbare => ?_⟩
  · refine pfCommand_of_body hready rfl ((hbody _).trans (if_neg (not_bnot_of_true hbacked))) rfl
      ⟨rfl, Cells.get_set_same .., fun k hk => Cells.get_set_ne _ _ _ k _ hk.symm⟩
  · exact pfCommand_refused hready rfl ((hbody _).trans (if_pos (bnot_of_false hbare)))

/-! ## Grants (R417, R424) -/

theorem grantee_none (t : State) : t.grantee 0xFF = some none := if_pos rfl

theorem grantee_part {t : State} (h : (t.part? p).isSome = true) : t.grantee (p.setWidth 64) = some (some p.toNat) := by
  have hp : (p.setWidth 64).toNat = p.toNat := toNat_setWidth_dword (by decide) p
  have hne : p.setWidth 64 ≠ 0xFF := fun heq => by
    have := congrArg BitVec.toNat heq
    rw [hp] at this
    exact absurd (this ▸ p.isLt : (0xFF : DWord).toNat < 2 ^ 3) (by decide)
  rw [State.grantee, if_neg hne, hp]
  exact if_pos ⟨h, within_setWidth (by decide) p⟩

theorem State.part?_grant (t : State) (q : Nat) (dest : Option Nat) (m : PartNo) : (t.grant q dest).part? m = (t.part? m).map fun P =>
    { P with queues := if dest = some m.toNat then Table.set P.queues q (Table.getD P.queues q Queue.initial) else Table.erase P.queues q } := by
  let f (k : Nat) (P : Part) : Part :=
    { P with queues := if dest = some k then Table.set P.queues q (Table.getD P.queues q Queue.initial) else Table.erase P.queues q }
  exact Table.get?_map t.parts f m.toNat

theorem queueIsGranted (s : State) (q : BitVec 7) (p : PartNo) (P : Part) (hready : PfReady s) (hP : s.part? p = some P) :
    let arg0 : DWord := q.setWidth 64
    ((∀ e ∈ s.parts, ∀ x, Table.get? e.2.queues q.toNat = some x → x.base.getLsbD 63 = false) →
      PfCommand (.grantQueue arg0 (p.setWidth 64)) s arg0 (p.setWidth 64) 0 (fun t =>
        (∃ P', t.part? p = some P' ∧
          Table.get? P'.queues q.toNat = some ((Table.get? P.queues q.toNat).getD ⟨0, 0, 0, 0, 0, false, false⟩)) ∧
        ∀ m Q, m ≠ p → t.part? m = some Q → Table.get? Q.queues q.toNat = none) ∧
      PfCommand (.grantQueue arg0 0xFF) s arg0 0xFF 0 fun t =>
        ∀ m Q, t.part? m = some Q → Table.get? Q.queues q.toNat = none) ∧
    (∀ x h, s.holder q.toNat = some h → Table.get? h.2.queues q.toNat = some x → x.base.getLsbD 63 = true →
      PfCommand (.grantQueue arg0 (p.setWidth 64)) s arg0 (p.setWidth 64) 3 (PfOnly s)) := by
  intro arg0
  have hwithin : within arg0 [(0, 7)] = true := within_setWidth (by decide) q
  have hfield : field arg0 0 7 = q.toNat := field_setWidth (by decide) q
  have hbody {arg1 : DWord} {t : State} {dest : Option Nat} (hdest : t.grantee arg1 = some dest) : State.grantQueueBody arg0 arg1 t =
      if (t.holder q.toNat).any fun e => (Table.get? e.2.queues q.toNat).any Queue.enabled then (t, 3) else (t.grant q.toNat dest, 0) := by
    rw [State.grantQueueBody, hdest]
    dsimp only
    rw [hwithin, hfield, Bool.not_true, if_neg Bool.false_ne_true]
  have hpart (arg1 : DWord) : (s.withArgs arg0 arg1).grantee (p.setWidth 64) = some (some p.toNat) := grantee_part (by rw [show (s.withArgs arg0 arg1).part? p = some P from hP]; rfl)
  have hrevoked {t : State} {dest : Option Nat} {m : PartNo} {Q : Part} (hm : dest ≠ some m.toNat) (hQ : (t.grant q.toNat dest).part? m = some Q) :
      Table.get? Q.queues q.toNat = none := by
    rw [State.part?_grant] at hQ
    obtain ⟨Q₀, -, rfl⟩ := Option.map_eq_some_iff.1 hQ
    rw [if_neg hm]
    exact (Table.get?_erase ..).trans (if_pos rfl)
  have hgranted : ((s.withArgs arg0 (p.setWidth 64)).grant q.toNat (some p.toNat)).part? p =
      some { P with queues := Table.set P.queues q.toNat (Table.getD P.queues q.toNat Queue.initial) } := by
    rw [State.part?_grant, show (s.withArgs arg0 (p.setWidth 64)).part? p = some P from hP, Option.map_some, if_pos rfl]
  refine ⟨fun hoff => ?_, fun x h hholder hx hon => ?_⟩
  · have hidle : ((s.holder q.toNat).any fun e => (Table.get? e.2.queues q.toNat).any Queue.enabled) = false := by
      cases hholder : s.holder q.toNat with
      | none => rfl
      | some h =>
        obtain ⟨e, he, rfl⟩ := Option.map_eq_some_iff.1 hholder
        rw [Option.any_some]
        cases hx : Table.get? e.2.queues q.toNat with
        | none => rfl
        | some x => exact hoff e (List.mem_of_find?_eq_some he) x hx
    refine ⟨pfCommand_of_body hready rfl ((hbody (hpart _)).trans (if_neg ?_)) rfl ⟨⟨_, hgranted, ?_⟩, fun m Q hm hQ => ?_⟩,
      pfCommand_of_body hready rfl ((hbody (grantee_none _)).trans (if_neg ?_)) rfl fun m Q hQ => hrevoked (t := s.withArgs arg0 0xFF) (dest := none) (Option.some_ne_none _).symm hQ⟩
    · rw [show (s.withArgs arg0 (p.setWidth 64)).holder q.toNat = s.holder q.toNat from rfl, hidle]
      decide
    · exact Table.get?_set_same ..
    · exact hrevoked (t := s.withArgs arg0 (p.setWidth 64)) (dest := some p.toNat) (fun h => hm (BitVec.eq_of_toNat_eq (Option.some.inj h)).symm) hQ
    · rw [show (s.withArgs arg0 0xFF).holder q.toNat = s.holder q.toNat from rfl, hidle]
      decide
  · refine pfCommand_refused hready rfl ((hbody (hpart _)).trans (if_pos ?_))
    rw [show (s.withArgs arg0 (p.setWidth 64)).holder q.toNat = some h from hholder, Option.any_some, hx, Option.any_some]
    exact hon

/-- The grants once a port is given to a partition, or to none. -/
def grantedPorts (grants : Table Nat) (port : Nat) : Option Nat → Table Nat
  | some p => Table.set grants port p
  | none => Table.erase grants port

theorem portIsGranted (s : State) (port : BitVec 4) (p : PartNo) (hready : PfReady s) (hp : (s.part? p).isSome = true) :
    let arg0 : DWord := port.setWidth 64
    (s.portBound port.toNat = false →
      PfCommand (.grantPort arg0 (p.setWidth 64)) s arg0 (p.setWidth 64) 0 (fun t =>
        Table.get? t.portGrant port.toNat = some p.toNat ∧
        ∀ k, k ≠ port.toNat → Table.get? t.portGrant k = Table.get? s.portGrant k) ∧
      PfCommand (.grantPort arg0 0xFF) s arg0 0xFF 0 fun t => Table.get? t.portGrant port.toNat = none) ∧
    (s.portBound port.toNat = true →
      PfCommand (.grantPort arg0 (p.setWidth 64)) s arg0 (p.setWidth 64) 3 (PfOnly s)) := by
  intro arg0
  have hwithin : within arg0 [(0, 4)] = true := within_setWidth (by decide) port
  have hfield : field arg0 0 4 = port.toNat := field_setWidth (by decide) port
  have hbody {arg1 : DWord} {t : State} {dest : Option Nat} (hdest : t.grantee arg1 = some dest) : State.grantPortBody arg0 arg1 t =
      if t.portBound port.toNat then (t, 3) else ({ t with portGrant := grantedPorts t.portGrant port.toNat dest }, 0) := by
    simp only [State.grantPortBody, hdest]
    rw [hwithin, hfield, Bool.not_true, if_neg Bool.false_ne_true]
    cases dest with
    | none => rfl
    | some p => rfl
  have hpart (arg1 : DWord) : (s.withArgs arg0 arg1).grantee (p.setWidth 64) = some (some p.toNat) := grantee_part hp
  refine ⟨fun hfree => ⟨?_, ?_⟩, fun hbound => ?_⟩
  · refine pfCommand_of_body hready rfl ((hbody (hpart _)).trans (if_neg ?_)) rfl ⟨Table.get?_set_same .., fun k hk => (Table.get?_set ..).trans (if_neg hk.symm)⟩
    exact fun h => Bool.false_ne_true (hfree.symm.trans h)
  · refine pfCommand_of_body hready rfl ((hbody (grantee_none _)).trans (if_neg ?_)) rfl ((Table.get?_erase ..).trans (if_pos rfl))
    exact fun h => Bool.false_ne_true (hfree.symm.trans h)
  · exact pfCommand_refused hready rfl ((hbody (hpart _)).trans (if_pos hbound))

/-! ## BAR 0 (R348) -/

theorem argumentIsWritten (s : State) (v : DWord) (k : Nat) (hk : k < 4) : ∃ t, exec (.registerWrite .physical (BitVec.ofNat 16 (8 + 8 * k)) v) s = .next t ∧
    t = { s with pfArg := t.pfArg } ∧ Cells.get 0 t.pfArg k = v ∧ ∀ j, j ≠ k → Cells.get 0 t.pfArg j = Cells.get 0 s.pfArg j := by
  refine ⟨{ s with pfArg := Cells.set 0 s.pfArg k v }, ?_, rfl, Cells.get_set_same .., fun j hj => Cells.get_set_ne _ _ _ j _ hj.symm⟩
  change Host.Outcome.next (s.writePf (BitVec.ofNat 16 (8 + 8 * k)).toNat v) = _
  interval_cases k <;> rfl

theorem commandIsWritten (s : State) (v : DWord) (hready : PfReady s) : let arg0 := Cells.get 0 s.pfArg 0
    let arg1 := Cells.get 0 s.pfArg 1
    let command (i : Instr) : Prop := exec (.registerWrite .physical 0 v) s = exec i s
    (v = 1 → command (.createPartition arg0 arg1)) ∧ (v = 2 → command (.destroyPartition arg0 arg1)) ∧
    (v = 3 → command (.setGranuleKey arg0 arg1)) ∧ (v = 4 → command (.grantQueue arg0 arg1)) ∧
    (v = 5 → command (.grantPort arg0 arg1)) ∧ (v = 6 → command (.updateFirmware arg0 arg1)) ∧
    (v = 7 → command (.setSharedSeverity arg0 arg1)) ∧
    (v = 0 ∨ 7 < v.toNat → PfCommand (.registerWrite .physical 0 v) s arg0 arg1 1 (PfOnly s)) := by
  intro arg0 arg1 command
  have hexec : exec (.registerWrite .physical 0 v) s = .next (s.pfCommand arg0 arg1 (State.pfBody v.toNat)) := rfl
  refine ⟨?_, ?_, ?_, ?_, ?_, ?_, ?_, fun hv => pfCommand_refused hready hexec ?_⟩
  case refine_8 =>
    have hnone : State.pfBody v.toNat = fun _ _ s => (s, 1) := by
      unfold State.pfBody
      split
      case h_8 => rfl
      all_goals
        rename_i hk
        rcases hv with rfl | hv
        · exact absurd hk (by decide)
        · exact absurd hk (by omega)
    rw [hnone]
  all_goals
    rintro rfl
    rfl

/-! ## Severities of shared sources (R350) -/

section
variable {a b c d e x : Nat} (ha : a < 8) (hb : b < 8) (hc : c < 8) (hd : d < 8) (he : e < 8)
  (hx : x = a * 2 ^ 6 + b * 2 ^ 9 + c * 2 ^ 12 + d * 2 ^ 15 + e * 2 ^ 18)
include ha hb hc hd he hx

/-- The five fields of the severities of shared sources. -/
theorem sharedFields : x / 2 ^ 6 % 2 ^ 3 = a ∧ x / 2 ^ 9 % 2 ^ 3 = b ∧ x / 2 ^ 12 % 2 ^ 3 = c ∧ x / 2 ^ 15 % 2 ^ 3 = d ∧ x / 2 ^ 18 % 2 ^ 3 = e := by
  refine ⟨?_, ?_, ?_, ?_, ?_⟩ <;> omega

theorem sharedActions (l : Nat) : let y := l % 64 + x / 64 % 2 ^ 15 * 64
    y / 2 ^ 6 % 8 = a ∧ y / 2 ^ 9 % 8 = b ∧ y / 2 ^ 12 % 8 = c ∧ y / 2 ^ 15 % 8 = d ∧ y / 2 ^ 18 % 8 = e := by
  refine ⟨?_, ?_, ?_, ?_, ?_⟩ <;> omega
end

theorem severityOf {s : State} {cls : BitVec 4} {a b c d e : Nat} {arg0 arg1 : DWord} (hready : PfReady s) (hcls : cls ≠ 0)
    (ha : a < 8) (hb : b < 8) (hc : c < 8) (hd : d < 8) (he : e < 8) (hwithin0 : within arg0 [(0, 4)] = true) (hcls0 : arg0.toNat = cls.toNat)
    (htoNat : arg1.toNat = a * 2 ^ 6 + b * 2 ^ 9 + c * 2 ^ 12 + d * 2 ^ 15 + e * 2 ^ 18) :
    (a ≤ 4 ∧ b ≤ 4 ∧ c ≤ 4 ∧ d ≤ 4 ∧ e ≤ 4 → PfCommand (.setSharedSeverity arg0 arg1) s arg0 arg1 0 fun t =>
      t = { s with sharedSev := t.sharedSev, pfArg := t.pfArg, pfStatus := t.pfStatus } ∧
      (∀ P, t.action P cls.toNat srcHbm = a ∧ t.action P cls.toNat srcLink = b ∧ t.action P cls.toNat srcSwitch = c ∧
        t.action P cls.toNat srcFirmware = d ∧ t.action P cls.toNat srcCxl = e) ∧
      ∀ P k src, k ≠ cls.toNat → t.action P k src = s.action P k src) ∧
    (4 < a ∨ 4 < b ∨ 4 < c ∨ 4 < d ∨ 4 < e → PfCommand (.setSharedSeverity arg0 arg1) s arg0 arg1 3 (PfOnly s)) := by
  have hwithin1 : within arg1 [(6, 15)] = true := by
    rw [within, List.foldl_cons, List.foldl_nil, field, htoNat, beq_iff_eq]
    dsimp only
    omega
  have hne : arg0 ≠ 0 := fun h => hcls (BitVec.eq_of_toNat_eq (by rw [← hcls0, h]; rfl))
  have hranges : ((List.range 5).all fun k => inRange arg1 (6 + 3 * k) 3 0 4) = true ↔ a ≤ 4 ∧ b ≤ 4 ∧ c ≤ 4 ∧ d ≤ 4 ∧ e ≤ 4 := by
    rw [List.all_eq_true]
    obtain ⟨hfa, hfb, hfc, hfd, hfe⟩ := sharedFields ha hb hc hd he htoNat
    have hk (k : Nat) : inRange arg1 (6 + 3 * k) 3 0 4 = true ↔ arg1.toNat / 2 ^ (6 + 3 * k) % 2 ^ 3 ≤ 4 := by
      rw [inRange, field, decide_eq_true (Nat.zero_le _), Bool.true_and, decide_eq_true_iff]
    have hall : (∀ k < 5, arg1.toNat / 2 ^ (6 + 3 * k) % 2 ^ 3 ≤ 4) ↔ a ≤ 4 ∧ b ≤ 4 ∧ c ≤ 4 ∧ d ≤ 4 ∧ e ≤ 4 := by
      constructor
      · intro h
        exact ⟨hfa ▸ h 0 (by decide), hfb ▸ h 1 (by decide), hfc ▸ h 2 (by decide), hfd ▸ h 3 (by decide), hfe ▸ h 4 (by decide)⟩
      · rintro ⟨h₀, h₁, h₂, h₃, h₄⟩ k hk
        interval_cases k
        · exact hfa.trans_le h₀
        · exact hfb.trans_le h₁
        · exact hfc.trans_le h₂
        · exact hfd.trans_le h₃
        · exact hfe.trans_le h₄
    exact (forall_congr' fun k => imp_congr List.mem_range (hk k)).trans hall
  have hbody (t : State) : State.setSharedSeverityBody arg0 arg1 t = if a ≤ 4 ∧ b ≤ 4 ∧ c ≤ 4 ∧ d ≤ 4 ∧ e ≤ 4
      then ({ t with sharedSev := Cells.set 0 t.sharedSev cls.toNat arg1 }, 0) else (t, 3) := by
    rw [State.setSharedSeverityBody, hwithin0, hwithin1, if_neg (not_or.2 ⟨by decide, not_or.2 ⟨hne, by decide⟩⟩), ← hcls0]
    by_cases hall : a ≤ 4 ∧ b ≤ 4 ∧ c ≤ 4 ∧ d ≤ 4 ∧ e ≤ 4
    · rw [if_pos hall, hranges.2 hall]
      rfl
    · rw [if_neg hall, Bool.eq_false_iff.2 fun h => hall (hranges.1 h)]
      rfl
  refine ⟨fun hall => pfCommand_of_body hready rfl ((hbody _).trans (if_pos hall)) rfl ⟨rfl, fun P => ?_, fun P k src hk => ?_⟩,
    fun hsome => pfCommand_refused hready rfl ((hbody _).trans (if_neg (by omega)))⟩
  · obtain ⟨hga, hgb, hgc, hgd, hge⟩ := sharedActions ha hb hc hd he htoNat (Cells.get 0 P.regs.sev cls.toNat).toNat
    unfold State.action State.sevc
    dsimp only
    rw [Cells.get_set_same]
    exact ⟨hga, hgb, hgc, hgd, hge⟩
  · unfold State.action State.sevc
    dsimp only
    rw [Cells.get_set_ne _ _ _ _ _ hk.symm]
    rfl

theorem severityIsSet (s : State) (cls : BitVec 4) (a b c d e : Nat) (hready : PfReady s) (hcls : cls ≠ 0) (ha : a < 8) (hb : b < 8) (hc : c < 8) (hd : d < 8) (he : e < 8) :
    let arg0 : DWord := cls.setWidth 64
    let arg1 : DWord := BitVec.ofNat 64 (a * 2 ^ 6 + b * 2 ^ 9 + c * 2 ^ 12 + d * 2 ^ 15 + e * 2 ^ 18)
    (a ≤ 4 ∧ b ≤ 4 ∧ c ≤ 4 ∧ d ≤ 4 ∧ e ≤ 4 → PfCommand (.setSharedSeverity arg0 arg1) s arg0 arg1 0 fun t =>
      t = { s with sharedSev := t.sharedSev, pfArg := t.pfArg, pfStatus := t.pfStatus } ∧
      (∀ P, t.action P cls.toNat srcHbm = a ∧ t.action P cls.toNat srcLink = b ∧ t.action P cls.toNat srcSwitch = c ∧
        t.action P cls.toNat srcFirmware = d ∧ t.action P cls.toNat srcCxl = e) ∧
      ∀ P k src, k ≠ cls.toNat → t.action P k src = s.action P k src) ∧
    (4 < a ∨ 4 < b ∨ 4 < c ∨ 4 < d ∨ 4 < e → PfCommand (.setSharedSeverity arg0 arg1) s arg0 arg1 3 (PfOnly s)) := by
  exact severityOf hready hcls ha hb hc hd he (within_setWidth (by decide) cls) (toNat_setWidth_dword (by decide) cls)
    ((BitVec.toNat_ofNat ..).trans (Nat.mod_eq_of_lt (by omega)))

/-- Settles O50: a reset empties its partition, and each command changes what it names, or nothing. -/
theorem physicalFunctionCommands : Obligations.PhysicalFunctionCommands :=
  ⟨functionResets, partitionIsCreated, partitionIsDestroyed, granuleKeyIsSet, queueIsGranted, portIsGranted, argumentIsWritten, commandIsWritten, severityIsSet⟩
end

end Sys2Proof.Machine
end

section
/-!
SUPPORT. How a packet is carried out and completes (spec/23_firmware_boot_power.md R424 to R426).
-/
namespace Sys2Proof.Machine
open Sys2Proof.Spec

section
variable {s t : State} {q : BitVec 7} {pkt : BitVec 512} {rest : List (BitVec 7 × BitVec 512)} {p : PartNo} {P Q : Part} {x : Queue}

/-! ## Fields of packets -/

theorem pfield_eq (pkt : BitVec 512) (lo len : Nat) : pfield pkt lo len = (pkt.extractLsb' lo len).toNat := by
  rw [BitVec.extractLsb'_toNat, Nat.shiftRight_eq_div_pow]
  rfl

theorem ofNat_pfield (pkt : BitVec 512) (lo len : Nat) : BitVec.ofNat len (pfield pkt lo len) = pkt.extractLsb' lo len := by
  rw [pfield_eq, BitVec.ofNat_toNat, BitVec.setWidth_eq]

theorem pfield_bit (pkt : BitVec 512) (lo : Nat) : (pfield pkt lo 1 == 1) = pkt.getLsbD lo := by
  rw [pfield, Nat.pow_one, BitVec.getLsbD, Nat.testBit_eq_decide_div_mod_eq]
  rfl

theorem pfield_eq_zero {lo len : Nat} : pfield pkt lo len = 0 ↔ pkt.extractLsb' lo len = 0 := by
  rw [pfield_eq, BitVec.toNat_eq]
  rfl

/-! ## The end of a packet -/

/-- What a completing packet does to its partition besides: SIG for a LAUNCH that asks for it, then vector 3 (R426, R429). -/
def Part.finished (pkt : BitVec 512) (P : Part) : Part :=
  let P := if packetKind pkt == .launch && packetSigen pkt then P.signalAdd (packetSig pkt).toNat 1 else P
  if packetNotify pkt then P.vector 3 else P

theorem Part.finished_frame (pkt : BitVec 512) (P : Part) : ∃ S V, P.finished pkt = { P with signals := S, vectors := V } := by
  unfold Part.finished
  dsimp only
  split <;> split <;> exact ⟨_, _, rfl⟩

theorem Part.finished_signals (pkt : BitVec 512) (P : Part) (k : Nat) : Cells.get 0 (P.finished pkt).signals k =
    Cells.get 0 P.signals k + (if packetKind pkt = .launch ∧ pkt.getLsbD 211 = true ∧ k = (pkt.extractLsb' 212 12).toNat then 1 else 0) := by
  have hslot : (packetSig pkt).toNat = (pkt.extractLsb' 212 12).toNat := by rw [packetSig, ofNat_pfield]
  have hraised : (packetKind pkt == .launch && packetSigen pkt) = true ↔ packetKind pkt = .launch ∧ pkt.getLsbD 211 = true := by
    rw [Bool.and_eq_true, beq_iff_eq, packetSigen, pfield_bit]
  have hkeep (P : Part) : (if packetNotify pkt then P.vector 3 else P).signals = P.signals := by
    split <;> rfl
  rw [Part.finished, hkeep]
  by_cases hsig : packetKind pkt = .launch ∧ pkt.getLsbD 211 = true
  · rw [if_pos (hraised.2 hsig), Part.signalAdd, hslot]
    dsimp only
    rw [Cells.get_set]
    by_cases hk : k = (pkt.extractLsb' 212 12).toNat
    · rw [if_pos hk.symm, if_pos ⟨hsig.1, hsig.2, hk⟩, hk]
    · rw [if_neg (Ne.symm hk), if_neg fun h => hk h.2.2]
      exact (BitVec.add_zero _).symm
  · rw [if_neg fun h => hsig (hraised.1 h), if_neg fun h => hsig ⟨h.1, h.2.1⟩]
    exact (BitVec.add_zero _).symm

theorem Part.finished_notified (pkt : BitVec 512) (P : Part) : Cells.get 0 (P.finished pkt).vectors 3 = Cells.get 0 P.vectors 3 + if pkt.getLsbD 8 then 1 else 0 := by
  have hkeep : (if packetKind pkt == .launch && packetSigen pkt then P.signalAdd (packetSig pkt).toNat 1 else P).vectors = P.vectors := by
    split <;> rfl
  rw [Part.finished, packetNotify, pfield_bit]
  split
  · refine (Cells.get_set_same ..).trans ?_
    rw [hkeep]
  · rw [hkeep]
    exact (BitVec.add_zero _).symm

theorem Part.finished_plain (hkind : packetKind pkt ≠ .launch) : ∃ V, P.finished pkt = { P with vectors := V } := by
  unfold Part.finished
  rw [beq_false_of_ne hkind, Bool.false_and, if_neg Bool.false_ne_true]
  dsimp only
  split <;> exact ⟨_, rfl⟩

/-! ## Completion entries (R426) -/

theorem Queue.entryPlace_eq (x : Queue) : x.entryPlace (x.cons + 1) = entryAt x := by
  rw [Queue.entryPlace, BitVec.add_sub_cancel, field_eq]
  rfl

/-- The double words of an entry, as a number. -/
def entryNum (pkt : BitVec 512) (x : Queue) (status : Nat) : Nat :=
  (pkt.extractLsb' 32 32).toNat * 2 ^ 64 + status * 2 ^ 96 + (x.cons + 1).toNat * 2 ^ 104

theorem State.complete_spec (hQ : t.part? p = some Q) (hq : Table.get? Q.queues q.toNat = some x) (hport : t.portDown (entryAt x) = false) (status : Nat) :
    let u := t.complete p q.toNat pkt status
    u.part? p = some ((Q.advanceQueue q.toNat).finished pkt) ∧ u.fw = t.fw ∧
    (∀ j < 16, u.byte (entryAt x + j) = (leBytes 16 (entryNum pkt x status)).getD j 0) ∧
    (∀ a, (a < entryAt x ∨ entryAt x + 16 ≤ a) → u.byte a = t.byte a) := by
  let advance (P : Part) : Part := P.advanceQueue q.toNat
  have hadvanced : (t.modPart p advance).part? p = some (Q.advanceQueue q.toNat) := State.part?_modPart_some hQ advance
  have hqueue : Table.get? (Q.advanceQueue q.toNat).queues q.toNat = some { x with cons := x.cons + 1 } := by
    refine (Table.get?_modify_same Q.queues q.toNat fun x => { x with cons := x.cons + 1 }).trans ?_
    rw [hq]
    rfl
  obtain ⟨v, hv⟩ : ∃ v, v = (t.modPart p advance).storeNum (entryAt x) 16 (entryNum pkt x status) := ⟨_, rfl⟩
  have hentry : (t.modPart p advance).completionEntry p q.toNat (packetTag pkt) (x.cons + 1) status 0 = v := by
    rw [State.completionEntry, hadvanced, Option.bind_some, hqueue]
    dsimp only
    rw [hv, packetTag, ofNat_pfield, ← Queue.entryPlace_eq, show (0 : DWord).toNat = 0 from rfl, Nat.zero_add]
    rfl
  have hrun : t.complete p q.toNat pkt status = v.modPart p (Part.finished pkt) := by
    rw [State.complete, hQ, Option.map_some, Option.getD_some, Part.consAfter, hq, Option.map_some, Option.getD_some]
    dsimp only
    rw [hentry]
    rfl
  have hmem := (t.modPart p advance).storeNum_onlyMem (entryAt x) 16 (entryNum pkt x status)
  rw [← hv] at hmem
  rw [hrun]
  refine ⟨State.part?_modPart_some ((hmem.part? p).trans hadvanced) _, ?_, fun j hj => ?_, fun a ha => ?_⟩
  · change v.fw = t.fw
    rw [hmem]
    rfl
  · change v.byte _ = _
    rw [hv, State.byte_storeNum_inside (s := t.modPart p advance) _ hport hj, getD_leBytes _ hj]
  · change v.byte a = _
    rw [hv, State.byte_storeNum_outside _ _ ha]
    rfl

/-! ## Carrying out (R425) -/

/-- The state from which the packet has been taken. -/
def State.took (s : State) (rest : List (BitVec 7 × BitVec 512)) : State := { s with fw := { s.fw with pass := rest } }

theorem State.carry_atHead (h : AtHead s q pkt rest p P x) {kind : PacketKind} (hkind : packetKind pkt = kind)
    (body : State → PartNo → Part → State × Carried) : s.carry q pkt kind body =
      if pkt.extractLsb' 16 16 ≠ 0 then (s.took rest).complete p q.toNat pkt 1 else State.carried p q.toNat pkt (body (s.took rest) p P) := by
  obtain ⟨hpass, hholder, -, -, -, hheld⟩ := h
  have htook : { s with fw := { s.fw with pass := s.fw.pass.tail } } = s.took rest := by
    rw [hpass]
    rfl
  rw [State.carry, if_neg (by rw [hpass, hkind, hheld]; simp)]
  dsimp only
  rw [htook, show (s.took rest).holder q.toNat = some (p, P) from hholder]
  exact if_congr (not_congr pfield_eq_zero) rfl rfl

theorem State.carry_plain (h : AtHead s q pkt rest p P x) (hheader : pkt.extractLsb' 16 16 = 0) {kind : PacketKind} (hkind : packetKind pkt = kind)
    (body : State → PartNo → Part → State × Carried) : s.carry q pkt kind body = State.carried p q.toNat pkt (body (s.took rest) p P) :=
  (State.carry_atHead h hkind body).trans (if_neg (not_not.2 hheader))

/-- A packet that has been carried out, and completes. -/
theorem completes_of {i : Instr} {status : Nat} {rel : State → Part → Prop} (h : AtHead s q pkt rest p P x)
    (he : exec i s = .next (t.complete p q.toNat pkt status)) (hQ : t.part? p = some Q) (hq : Q.queues = P.queues) (hfw : t.fw = (s.took rest).fw)
    (hports : t.cxlDown = s.cxlDown)
    (hrel : ∀ u : State, (∀ a, (a < entryAt x ∨ entryAt x + 16 ≤ a) → u.byte a = t.byte a) → rel u ((Q.advanceQueue q.toNat).finished pkt)) :
    Completes i s p q pkt rest x status rel := by
  have hqueue : Table.get? Q.queues q.toNat = some x := by
    rw [hq]
    exact h.queue
  have hport : t.portDown (entryAt x) = false := by
    rw [State.portDown, hports]
    exact h.ring
  obtain ⟨hu, hufw, hbytes, houtside⟩ := State.complete_spec (pkt := pkt) hQ hqueue hport status
  refine ⟨_, _, he, hu, (congrArg Firmware.pass (hufw.trans hfw)).trans rfl, ?_, hbytes, hrel _ houtside⟩
  obtain ⟨S, V, hfinished⟩ := Part.finished_frame pkt (Q.advanceQueue q.toNat)
  rw [hfinished]
  refine (Table.get?_modify_same Q.queues q.toNat fun x => { x with cons := x.cons + 1 }).trans ?_
  rw [hqueue]
  rfl

theorem Part.finished_notifies (Q : Part) (hvectors : Q.vectors = P.vectors) : Notified P ((Q.advanceQueue q.toNat).finished pkt) pkt 0 := by
  refine (Part.finished_notified pkt _).trans ?_
  rw [show (Q.advanceQueue q.toNat).vectors = P.vectors from hvectors]
  exact (BitVec.add_zero _).symm

theorem entryOnly_of {u : State} (hbyte : ∀ a, t.byte a = s.byte a) (h : ∀ a, (a < entryAt x ∨ entryAt x + 16 ≤ a) → u.byte a = t.byte a) : EntryOnly s u x :=
  fun a ha => (h a ha).trans (hbyte a)

/-- A packet that completes, its partition changed by its body alone. -/
theorem completes_onPart {i : Instr} {status : Nat} {kind : PacketKind} {f : Part → Part × Nat} {rel : State → Part → Prop} (h : AtHead s q pkt rest p P x)
    (hheader : pkt.extractLsb' 16 16 = 0) (hkind : packetKind pkt = kind) (he : exec i s = .next (s.carry q pkt kind (onPart f))) (hf : f P = (Q, status))
    (hq : Q.queues = P.queues) (hrel : ∀ u : State, EntryOnly s u x → rel u ((Q.advanceQueue q.toNat).finished pkt)) : Completes i s p q pkt rest x status rel := by
  refine completes_of (t := (s.took rest).setPart p Q) h (he.trans (congrArg Host.Outcome.next ((State.carry_plain h hheader hkind _).trans ?_))) (State.part?_setPart_same ..) hq rfl rfl
    fun u hu => hrel u (entryOnly_of (fun _ => rfl) hu)
  rw [onPart, hf]
  rfl

end
end Sys2Proof.Machine
end

section
/-!
PROOF. Passes, the packets that act on signals or on nothing, and malformed ones (spec/23_firmware_boot_power.md R425 to R429).
-/
namespace Sys2Proof.Machine
open Sys2Proof.Spec

section
variable {s t : State} {q : BitVec 7} {pkt : BitVec 512} {rest : List (BitVec 7 × BitVec 512)} {p : PartNo} {P Q : Part} {x : Queue}

theorem Part.advanced_frame (hkind : packetKind pkt ≠ .launch) : let P' := (P.advanceQueue q.toNat).finished pkt
    P' = { P with queues := P'.queues, vectors := P'.vectors } := by
  obtain ⟨V, hfinished⟩ := Part.finished_plain (P := P.advanceQueue q.toNat) hkind
  rw [hfinished]
  rfl

theorem plainPacketsAct : PlainPacketsAct := by
  intro s q pkt rest p P x h hheader slot v
  have hslot : signalSlot pkt = slot := pfield_eq ..
  have hvalue : signalValue pkt = v := ofNat_pfield ..
  refine ⟨fun hkind => ?_, fun hkind => ?_, fun hkind => ?_, fun hkind => ?_, fun hkind => ?_, fun hkind => ⟨fun hpasses => ?_, fun hwaits => ?_⟩⟩
  · have hne : packetKind pkt ≠ .launch := by rw [hkind]; decide
    refine completes_onPart h hheader hkind rfl rfl rfl fun u hu => ⟨?_, hu, Part.finished_notifies _ rfl⟩
    obtain ⟨V, hfinished⟩ := Part.finished_plain (P := P.reset.advanceQueue q.toNat) hne
    rw [hfinished]
    exact ⟨⟨rfl, rfl, rfl, rfl, rfl, rfl, rfl, mem_initial_homes, rfl, rfl, rfl, ⟨rfl, rfl, rfl⟩, fun _ => rfl, rfl, rfl⟩, rfl, ⟨rfl, rfl, rfl⟩⟩
  · have hne : packetKind pkt ≠ .launch := by rw [hkind]; decide
    exact completes_onPart h hheader hkind rfl rfl rfl fun u hu => ⟨Part.advanced_frame hne, hu, Part.finished_notifies _ rfl⟩
  · have hne : packetKind pkt ≠ .launch := by rw [hkind]; decide
    exact completes_onPart h hheader hkind rfl rfl rfl fun u hu => ⟨Part.advanced_frame hne, hu, Part.finished_notifies _ rfl⟩
  · have hne : packetKind pkt ≠ .launch := by rw [hkind]; decide
    obtain ⟨V, hfinished⟩ := Part.finished_plain
      (P := ({ P with signals := Cells.set 0 P.signals (signalSlot pkt) (signalValue pkt) } : Part).advanceQueue q.toNat) hne
    refine completes_onPart h hheader hkind rfl rfl rfl fun u hu => ⟨?_, fun k hk => ?_, ?_, hu, Part.finished_notifies _ rfl⟩
    all_goals rw [hfinished]
    · rw [← hslot, ← hvalue]
      exact Cells.get_set_same ..
    · rw [← hslot] at hk
      exact Cells.get_set_ne _ _ _ k _ hk.symm
    · rfl
  · have hne : packetKind pkt ≠ .launch := by rw [hkind]; decide
    obtain ⟨V, hfinished⟩ := Part.finished_plain (P := (P.signalAdd (signalSlot pkt) (signalValue pkt)).advanceQueue q.toNat) hne
    refine completes_onPart h hheader hkind rfl rfl rfl fun u hu => ⟨?_, fun k hk => ?_, ?_, hu, Part.finished_notifies _ rfl⟩
    all_goals rw [hfinished]
    · rw [← hslot, ← hvalue]
      exact Cells.get_set_same ..
    · rw [← hslot] at hk
      exact Cells.get_set_ne _ _ _ k _ hk.symm
    · rfl
  · have hne : packetKind pkt ≠ .launch := by rw [hkind]; decide
    refine completes_of (t := s.took rest) h (congrArg Host.Outcome.next ((State.carry_plain h hheader hkind _).trans ?_)) h.part rfl rfl rfl
      fun u hu => ⟨Part.advanced_frame hne, entryOnly_of (fun _ => rfl) hu, Part.finished_notifies _ rfl⟩
    rw [hslot, hvalue, if_pos (BitVec.le_def.2 hpasses)]
    rfl
  · refine congrArg Host.Outcome.next ((State.carry_plain h hheader hkind _).trans ?_)
    rw [hslot, hvalue, if_neg fun hle => Nat.not_le.2 hwaits (BitVec.le_def.1 hle)]
    rfl

/-! ## Passes (R424, R425) -/

theorem Queue.settle_of_running {k : Queue} (h : k.stopping = false) : k.settle = k := by
  rw [Queue.settle, h]
  exact if_neg Bool.false_ne_true

theorem Queue.ring_settle (k : Queue) : k.settle.ring = k.ring := by
  unfold Queue.settle
  split
  · rw [Queue.ring, Queue.ring, field, field, BitVec.toNat_sub, BitVec.toNat_ofNat]
    omega
  · rfl

theorem State.settleQueues_running (h : ∀ e ∈ s.parts, ∀ k ∈ e.2.queues, k.2.stopping = false) : s.settleQueues = s := by
  have hparts : (s.parts.map fun e => (e.1, { e.2 with queues := e.2.queues.map fun x => (x.1, x.2.settle) })) = s.parts := by
    refine (List.map_congr_left fun e he => ?_).trans (List.map_id s.parts)
    have hqueues : (e.2.queues.map fun x => (x.1, x.2.settle)) = e.2.queues :=
      (List.map_congr_left (f := fun x : Nat × Queue => (x.1, x.2.settle)) (g := id) fun k hk => Prod.ext rfl (Queue.settle_of_running (h e he k hk))).trans (List.map_id _)
    rw [hqueues]
    rfl
  rw [State.settleQueues, hparts]

theorem State.packetErrors_clean (h : ∀ e ∈ s.parts, ∀ k ∈ e.2.queues, s.unclean k.2.packetPlace 64 = false) : s.packetErrors = s := by
  have hfold (es : List (Nat × Part)) (hes : ∀ e ∈ es, ∀ k ∈ e.2.queues, s.unclean k.2.packetPlace 64 = false) : es.foldl (fun s e =>
      (e.2.queues.filter fun k => k.2.ready && !s.hostCut k.2.packetPlace 64 && s.unclean k.2.packetPlace 64).foldl
        (fun s k => s.readError (BitVec.ofNat 3 e.1) e.2 k.2.packetPlace) s) s = s := by
    induction es with
    | nil => rfl
    | cons e es ih =>
      have hnone : (e.2.queues.filter fun k => k.2.ready && !s.hostCut k.2.packetPlace 64 && s.unclean k.2.packetPlace 64) = [] := by
        refine List.filter_eq_nil_iff.2 fun k hk => ?_
        rw [hes e (.head _) k hk, Bool.and_false]
        exact Bool.false_ne_true
      rw [List.foldl_cons, hnone]
      exact ih fun x hx => hes x (.tail _ hx)
  exact hfold s.parts h

theorem pairwise_insertBy {α : Type} {key : α → Nat} {x : α} {l : List α} (h : l.Pairwise fun a b => key a ≤ key b) :
    (insertBy key x l).Pairwise fun a b => key a ≤ key b := by
  induction l with
  | nil => exact List.pairwise_singleton _ _
  | cons y l ih =>
    obtain ⟨hy, hl⟩ := List.pairwise_cons.1 h
    rw [insertBy]
    split
    next hlt => exact List.pairwise_cons.2 ⟨List.forall_mem_cons.2 ⟨hlt.le, fun z hz => hlt.le.trans (hy z hz)⟩, h⟩
    next hge =>
      refine List.pairwise_cons.2 ⟨fun z hz => ?_, ih hl⟩
      rcases List.mem_cons.1 ((insertBy_perm key x l).mem_iff.1 hz) with rfl | hz
      · exact Nat.not_lt.1 hge
      · exact hy z hz

theorem pairwise_sortBy {α : Type} (key : α → Nat) (l : List α) : (sortBy key l).Pairwise fun a b => key a ≤ key b := by
  have hfold (acc : List α) (hacc : acc.Pairwise fun a b => key a ≤ key b) :
      (l.foldl (fun acc x => insertBy key x acc) acc).Pairwise fun a b => key a ≤ key b := by
    induction l generalizing acc with
    | nil => exact hacc
    | cons x l ih => exact ih _ (pairwise_insertBy hacc)
  exact hfold [] .nil

theorem typeRank_eq (pkt : BitVec 512) : typeRank pkt = let ty := (pkt.extractLsb' 0 8).toNat
    if ty = 0 then 7 else if ty ≤ 6 then ty else 8 := by
  rw [typeRank, pfield_eq]
  dsimp only
  generalize (pkt.extractLsb' 0 8).toNat = ty
  split
  case h_8 =>
    rename_i h0 h1 h2 h3 h4 h5 h6
    have hother : ty ≠ 0 ∧ ty ≠ 1 ∧ ty ≠ 2 ∧ ty ≠ 3 ∧ ty ≠ 4 ∧ ty ≠ 5 ∧ ty ≠ 6 := ⟨h0, h1, h2, h3, h4, h5, h6⟩
    rw [if_neg h0, if_neg (show ¬ty ≤ 6 by omega)]
  all_goals rfl

theorem mem_offered (hcut : ∀ e ∈ s.parts, ∀ k ∈ e.2.queues, s.hostCut k.2.packetPlace 64 = false) {e : BitVec 7 × BitVec 512} :
    e ∈ s.offered ↔ ∃ x ∈ s.parts, ∃ k ∈ x.2.queues, k.2.base.getLsbD 63 = true ∧ k.2.prod ≠ k.2.cons ∧ e = (BitVec.ofNat 7 k.1, s.packetAt k.2) := by
  rw [State.offered, List.mem_flatten]
  constructor
  · rintro ⟨l, hl, he⟩
    obtain ⟨x, hx, rfl⟩ := List.mem_map.1 hl
    obtain ⟨k, hk, rfl⟩ := List.mem_map.1 he
    obtain ⟨hk, hready⟩ := List.mem_filter.1 hk
    obtain ⟨hon, hmore⟩ := Bool.and_eq_true_iff.1 (Bool.and_eq_true_iff.1 hready).1
    exact ⟨x, hx, k, hk, hon, bne_iff_ne.1 hmore, rfl⟩
  · rintro ⟨x, hx, k, hk, hon, hmore, rfl⟩
    refine ⟨_, List.mem_map.2 ⟨x, hx, rfl⟩, List.mem_map.2 ⟨k, List.mem_filter.2 ⟨hk, ?_⟩, rfl⟩⟩
    rw [hcut x hx k hk, Queue.ready, show k.2.enabled = true from hon, bne_iff_ne.2 hmore]
    rfl

theorem passesTakeOnePacketOfEachQueue : PassesTakeOnePacketOfEachQueue := by
  have hmay {s : State} (hserving : s.fw.serving = true) (hpass : s.fw.pass = []) : ¬((!s.fw.serving) = true ∨ (!s.fw.pass.isEmpty) = true) := by
    rw [hserving, hpass]
    decide
  refine ⟨fun s hserving hpass hheld hqueues => ?_, fun s p P q x hserving hpass hheld hP hx hstopping hclean => ?_⟩
  · have hsettled := State.settleQueues_running fun e he k hk => (hqueues e he k hk).1
    have herrors := State.packetErrors_clean fun e he k hk => (hqueues e he k hk).2.1
    refine ⟨sortBy (fun e => typeRank e.2 * 128 + e.1.toNat) s.offered, ?_, fun e => ?_, ?_⟩
    · change execFirmwarePass s = _
      rw [execFirmwarePass, if_neg (hmay hserving hpass)]
      dsimp only
      rw [hsettled, hheld, herrors]
      rfl
    · exact (sortBy_perm ..).mem_iff.trans (mem_offered fun e he k hk => (hqueues e he k hk).2.2)
    · refine (pairwise_sortBy ..).imp fun {a b} h => ?_
      rw [typeRank_eq, typeRank_eq] at h
      exact h
  · let settle (k : Queue) : Queue := k.settle
    have hplace (k : Queue) : k.settle.packetPlace = k.packetPlace := by
      rw [Queue.packetPlace, Queue.packetPlace, Queue.ring_settle]
      unfold Queue.settle
      split <;> rfl
    have hclean' : ∀ e ∈ s.settleQueues.parts, ∀ k ∈ e.2.queues, s.settleQueues.unclean k.2.packetPlace 64 = false := by
      intro e he k hk
      obtain ⟨e', he', rfl⟩ := List.mem_map.1 he
      obtain ⟨k', hk', rfl⟩ := List.mem_map.1 hk
      rw [hplace]
      exact hclean e' he' k' hk'
    have hP' : s.settleQueues.part? p = some { P with queues := P.queues.map fun x => (x.1, x.2.settle) } := by
      let f (_ : Nat) (P : Part) : Part := { P with queues := P.queues.map fun x => (x.1, x.2.settle) }
      refine (Table.get?_map s.parts f p.toNat).trans ?_
      rw [show Table.get? s.parts p.toNat = some P from hP]
      rfl
    have hqueue : Table.get? (P.queues.map fun x => (x.1, x.2.settle)) q = some { x with base := x.base - 0x8000000000000000, stopping := false } := by
      refine (Table.get?_map P.queues (fun _ => settle) q).trans ?_
      rw [hx, Option.map_some]
      exact congrArg some (if_pos hstopping)
    have he : ∃ t, exec .firmwarePass s = .next t ∧ t.parts = s.settleQueues.parts := by
      change ∃ t, execFirmwarePass s = _ ∧ _
      rw [execFirmwarePass, if_neg (hmay hserving hpass)]
      dsimp only
      rw [State.packetErrors_clean hclean']
      split
      · exact ⟨_, rfl, rfl⟩
      · exact ⟨_, rfl, rfl⟩
    obtain ⟨t, he, hparts⟩ := he
    exact ⟨t, _, he, (State.part?_congr hparts p).trans hP', rfl, hqueue⟩

theorem reservedHeaderBitsAreMalformed : ReservedHeaderBitsAreMalformed := by
  intro s q pkt rest p P x i h hheader hcarries
  have he : exec i s = .next ((s.took rest).complete p q.toNat pkt 1) := by
    unfold Carries at hcarries
    cases hkind : packetKind pkt <;> rw [hkind] at hcarries <;> subst hcarries <;>
      exact congrArg Host.Outcome.next ((State.carry_atHead h hkind _).trans (if_pos hheader))
  refine completes_of h he h.part rfl rfl rfl fun u hu => ⟨?_, fun k => Part.finished_signals pkt (P.advanceQueue q.toNat) k, entryOnly_of (fun _ => rfl) hu, Part.finished_notifies _ rfl⟩
  obtain ⟨S, V, hfinished⟩ := Part.finished_frame pkt (P.advanceQueue q.toNat)
  rw [hfinished]
  rfl

end
end Sys2Proof.Machine
end

section
/-!
PROOF. The STREAM packets (spec/18_choice_points.md R360, R362, R367, spec/23_firmware_boot_power.md R428).
-/
namespace Sys2Proof.Machine
open Sys2Proof.Spec

section
variable {s t : State} {q : BitVec 7} {pkt : BitVec 512} {rest : List (BitVec 7 × BitVec 512)} {p : PartNo} {P Q : Part} {x : Queue}

/-- A packet that completes, and whose body has changed nothing. -/
theorem completes_unchanged {i : Instr} {status : Nat} (h : AtHead s q pkt rest p P x) (hne : packetKind pkt ≠ .launch)
    (he : exec i s = .next ((s.took rest).complete p q.toNat pkt status)) : Completes i s p q pkt rest x status fun t P' =>
      P' = { P with queues := P'.queues, vectors := P'.vectors } ∧ EntryOnly s t x ∧ Notified P P' pkt 0 :=
  completes_of h he h.part rfl rfl rfl fun _ hu => ⟨Part.advanced_frame hne, entryOnly_of (fun _ => rfl) hu, Part.finished_notifies _ rfl⟩

/-- What a packet that is no LAUNCH leaves of its partition besides the queue and the vectors. -/
theorem Part.finished_rest (hne : packetKind pkt ≠ .launch) (Q : Part) :
    ∃ V, (Q.advanceQueue q.toNat).finished pkt = { Q with queues := (Q.advanceQueue q.toNat).queues, vectors := V } := by
  obtain ⟨V, hV⟩ := Part.finished_plain (P := Q.advanceQueue q.toNat) hne
  exact ⟨V, hV⟩

/-! ## Chunks of records (R367, R368) -/

/-- What flushing chunks changes: memory, and of its partition the ring's end, the chunks and the vectors. -/
structure State.Flushes (s t : State) (p : PartNo) : Prop where
  fw : t.fw = s.fw
  ports : t.cxlDown = s.cxlDown
  part : ∀ P, s.part? p = some P → ∃ B C V, t.part? p = some { P with choice := { P.choice with rbprod := B, chunks := C }, vectors := V }

theorem State.Flushes.refl (s : State) (p : PartNo) : s.Flushes s p := ⟨rfl, rfl, fun P hP => ⟨P.choice.rbprod, P.choice.chunks, P.vectors, hP⟩⟩

theorem State.Flushes.trans {u : State} (h : s.Flushes t p) (h' : t.Flushes u p) : s.Flushes u p := by
  refine ⟨h'.fw.trans h.fw, h'.ports.trans h.ports, fun P hP => ?_⟩
  obtain ⟨B, C, V, ht⟩ := h.part P hP
  obtain ⟨B', C', V', hu⟩ := h'.part _ ht
  exact ⟨B', C', V', hu⟩

theorem State.Flushes.foldl {α : Type} {f : State → α → State} (hf : ∀ (s : State) x, s.Flushes (f s x) p) (xs : List α) (s : State) : s.Flushes (xs.foldl f s) p := by
  induction xs generalizing s with
  | nil => exact .refl s p
  | cons x xs ih => exact (hf s x).trans (ih _)

theorem State.OnlyMem.flushes (h : s.OnlyMem t) (p : PartNo) : s.Flushes t p := by
  refine ⟨by rw [h], by rw [h], fun P hP => ⟨P.choice.rbprod, P.choice.chunks, P.vectors, (h.part? p).trans hP⟩⟩

theorem State.ringWrite_onlyMem (s : State) (base size prod : Nat) (ws : List DWord) : s.OnlyMem (s.ringWrite base size prod ws) := by
  induction ws generalizing s prod with
  | nil => rfl
  | cons w ws ih => exact (s.storeNum_onlyMem ..).trans (ih ..)

theorem State.flushes_modPart (s : State) (p : PartNo) {f : Part → Part}
    (hf : ∀ P, ∃ B C V, f P = { P with choice := { P.choice with rbprod := B, chunks := C }, vectors := V }) : s.Flushes (s.modPart p f) p := by
  refine ⟨rfl, rfl, fun P hP => ?_⟩
  obtain ⟨B, C, V, h⟩ := hf P
  exact ⟨B, C, V, (State.part?_modPart_some hP f).trans (congrArg some h)⟩

theorem State.appendChunk_flushes (s : State) (p : PartNo) (dom : Domain) (id : DWord) (first : Nat) (recs : List DWord) :
    s.Flushes (s.appendChunk p dom id first recs).1 p := by
  unfold State.appendChunk
  cases hP : s.part? p with
  | none => exact .refl s p
  | some P =>
    have hset {t : State} {P' : Part} (ht : s.OnlyMem t) (hP' : ∃ B V, P' = { P with choice := { P.choice with rbprod := B }, vectors := V }) :
        s.Flushes (t.setPart p P') p := by
      obtain ⟨B, V, rfl⟩ := hP'
      refine ⟨(ht.flushes p).fw, (ht.flushes p).ports, fun P₀ hP₀ => ?_⟩
      obtain rfl : P = P₀ := Option.some.inj (hP.symm.trans hP₀)
      exact ⟨B, P.choice.chunks, V, State.part?_setPart_same ..⟩
    dsimp only
    split
    · refine hset (s.ringWrite_onlyMem ..) ?_
      split <;> exact ⟨_, _, rfl⟩
    · refine hset (.refl s) ?_
      split <;> exact ⟨_, _, rfl⟩

theorem State.flushRecords_flushes (s : State) (p : PartNo) (dom : Domain) (id : DWord) (fuel first : Nat) (recs : List DWord) :
    s.Flushes (s.flushRecords p dom id fuel first recs).1 p := by
  induction fuel generalizing s first recs with
  | zero => exact .refl s p
  | succ fuel ih =>
    unfold State.flushRecords
    split
    · exact .refl s p
    · have happend := s.appendChunk_flushes p dom id first (recs.take 128)
      dsimp only
      split
      · exact happend.trans (ih ..)
      · exact happend

theorem State.flushChunk_flushes (s : State) (p : PartNo) (dom : Domain) (id : DWord) : s.Flushes (s.flushChunk p dom id) p := by
  unfold State.flushChunk
  split
  · exact .refl s p
  · split
    · exact .refl s p
    next c _ =>
      exact (s.flushRecords_flushes p dom id (c.recs.length + 1) c.first c.recs).trans (State.flushes_modPart _ p fun P => ⟨P.choice.rbprod, _, P.vectors, rfl⟩)

theorem State.flushAll_flushes (s : State) (p : PartNo) : s.Flushes (s.flushAll p) p := by
  unfold State.flushAll
  split
  · exact .refl s p
  next P _ =>
    exact (State.Flushes.foldl (fun s (c : Chunk) => s.flushChunk_flushes p c.dom c.id) P.choice.chunks s).trans
      (State.flushes_modPart _ p fun P => ⟨P.choice.rbprod, _, P.vectors, rfl⟩)

theorem State.retryChunks_flushes (s : State) (p : PartNo) : s.Flushes (s.retryChunks p) p := by
  unfold State.retryChunks
  split
  · exact .refl s p
  next P _ => exact .foldl (fun s (c : Chunk) => s.flushChunk_flushes p c.dom c.id) _ s

theorem State.retryChunks_none (hP : s.part? p = some P) (h : ∀ c ∈ P.choice.chunks, c.waits = false) : s.retryChunks p = s := by
  have hnil : P.choice.chunks.filter Chunk.waits = [] := List.filter_eq_nil_iff.2 fun c hc => by
    rw [h c hc]
    exact Bool.false_ne_true
  rw [State.retryChunks, hP]
  dsimp only
  rw [hnil]
  rfl

theorem State.flushAll_nil (hP : s.part? p = some P) (h : P.choice.chunks = []) : s.flushAll p = s.modPart p fun P => { P with choice := P.choice.closeChunks } := by
  rw [State.flushAll, hP]
  dsimp only
  rw [h]
  rfl

/-! ## SETMODE (R360, R367) -/

section
variable (h : AtHead s q pkt rest p P x) (hheader : pkt.extractLsb' 16 16 = 0)
include h hheader

theorem setmodeActs (hkind : packetKind pkt = .setmode) (hmode : (pkt.extractLsb' 64 3).toNat ≤ 4) :
    (P.run.teams ≠ [] → exec (.setmode q pkt) s = .next { s with fw := { s.fw with pass := rest } }) ∧
      (P.run.teams = [] → Completes (.setmode q pkt) s p q pkt rest x 0 fun _ P' =>
        P'.choice.mode = pkt.extractLsb' 64 3 ∧ P'.choice.pol = pkt.getLsbD 67 ∧ P'.choice.win = pkt.extractLsb' 68 6 ∧
        P'.choice.paths = pkt.extractLsb' 96 32 ∧ P'.choice.domains = [] ∧ P'.choice.unst = false ∧
        (∀ e ∈ P'.choice.streams, e.2.cur = 0 ∧ e.2.roff = 0 ∧ e.2.exh = false) ∧ P'.run = P.run ∧
        (P.choice.mode = 2 → P.choice.chunks = [] → P'.choice.rbprod = P.choice.rbprod)) := by
  have hne : packetKind pkt ≠ .launch := by rw [hkind]; decide
  have hmode' : ¬4 < pfield pkt 64 3 := by
    rw [pfield_eq]
    exact Nat.not_lt.2 hmode
  refine ⟨fun hlive => congrArg Host.Outcome.next ((State.carry_plain h hheader hkind _).trans ?_), fun hnone => ?_⟩
  · dsimp only
    rw [if_neg hmode', if_pos]
    · rfl
    · exact bnot_of_false (List.isEmpty_eq_false_iff.2 hlive)
  · let enter (P : Part) : Part :=
      { P with choice := P.choice.enterMode (BitVec.ofNat 3 (pfield pkt 64 3)) (pfield pkt 67 1 == 1)
                 (BitVec.ofNat 6 (pfield pkt 68 6)) (BitVec.ofNat 32 (pfield pkt 96 32)) }
    obtain ⟨s₁, hs₁⟩ : ∃ s₁, s₁ = if P.choice.mode.toNat = mRECORD then (s.took rest).flushAll p else s.took rest := ⟨_, rfl⟩
    have he : exec (.setmode q pkt) s = .next ((s₁.modPart p enter).complete p q.toNat pkt 0) := by
      refine congrArg Host.Outcome.next ((State.carry_plain h hheader hkind _).trans ?_)
      dsimp only
      rw [if_neg hmode', Part.anyLive, hnone, if_neg (by decide), ← hs₁]
      rfl
    have hflushes : (s.took rest).Flushes s₁ p := by
      rw [hs₁]
      split
      · exact State.flushAll_flushes ..
      · exact .refl ..
    obtain ⟨B, C, V, hP₁⟩ := hflushes.part P h.part
    obtain ⟨V', hfinished⟩ := Part.finished_rest (q := q) hne (enter { P with choice := { P.choice with rbprod := B, chunks := C }, vectors := V })
    refine completes_of h he (State.part?_modPart_some hP₁ enter) rfl hflushes.fw hflushes.ports fun u _ => ?_
    rw [hfinished]
    refine ⟨ofNat_pfield .., pfield_bit .., ofNat_pfield .., ofNat_pfield .., rfl, rfl, fun e he => ?_, rfl, fun hrecord hchunks => ?_⟩
    · obtain ⟨e, -, rfl⟩ := List.mem_map.1 he
      exact ⟨rfl, rfl, rfl⟩
    · rw [hrecord, if_pos (by decide), State.flushAll_nil (s := s.took rest) h.part hchunks] at hs₁
      have hP₂ := State.part?_modPart_some (s := s.took rest) h.part fun P => { P with choice := P.choice.closeChunks }
      rw [← hs₁, hP₁] at hP₂
      have hsame := Option.some.inj hP₂
      exact (congrArg (fun P : Part => P.choice.rbprod) hsame).trans rfl

/-! ## BUFFERS and CONSUME (R367, R428) -/

theorem buffersActs (hkind : packetKind pkt = .buffers) (hrecords : (pkt.extractLsb' 96 32).toNat + 8 * (pkt.extractLsb' 64 32).toNat ≤ 2 ^ 29)
    (hlog : (pkt.extractLsb' 160 32).toNat + 128 * (pkt.extractLsb' 128 24).toNat ≤ 2 ^ 29) (himages : (pkt.extractLsb' 192 32).toNat < 2 ^ 29) :
    (P.run.teams = [] → Completes (.buffers q pkt) s p q pkt rest x 0 fun _ P' =>
        P'.choice.rbsize = pkt.extractLsb' 64 32 ∧ P'.choice.rbbase = (pkt.extractLsb' 96 32).setWidth 64 ∧
        P'.choice.olcap = pkt.extractLsb' 128 24 ∧ P'.choice.olbase = (pkt.extractLsb' 160 32).setWidth 64 ∧
        P'.choice.imgbase = (pkt.extractLsb' 192 32).setWidth 64 ∧ P'.choice.olprod = 0 ∧ P'.choice.rbcons = 0 ∧
        ((∀ c ∈ P.choice.chunks, c.waits = false) → P'.choice.rbprod = 0 ∧ P'.choice.chunks = P.choice.chunks)) ∧
      (P.run.teams ≠ [] → Completes (.buffers q pkt) s p q pkt rest x 3 fun t P' =>
        P' = { P with queues := P'.queues, vectors := P'.vectors } ∧ EntryOnly s t x ∧ Notified P P' pkt 0) := by
  have hne : packetKind pkt ≠ .launch := by rw [hkind]; decide
  let fresh : Choice := { P.choice with
    rbbase := BitVec.ofNat 64 (pfield pkt 96 32), rbsize := BitVec.ofNat 32 (pfield pkt 64 32), rbprod := 0, rbcons := 0
    olbase := BitVec.ofNat 64 (pfield pkt 160 32), olcap := BitVec.ofNat 24 (pfield pkt 128 24), olprod := 0
    imgbase := BitVec.ofNat 64 (pfield pkt 192 32) }
  have he : exec (.buffers q pkt) s = .next (State.carried p q.toNat pkt (if P.anyLive then (s.took rest, .done 3)
      else (((s.took rest).setPart p { P with choice := fresh }).retryChunks p, .done 0))) := by
    refine congrArg Host.Outcome.next ((State.carry_plain h hheader hkind _).trans ?_)
    dsimp only
    rw [if_neg]
    simp only [pfield_eq, not_or, Nat.not_lt, Nat.not_le]
    exact ⟨hrecords, hlog, himages⟩
  refine ⟨fun hnone => ?_, fun hlive => completes_unchanged h hne (he.trans ?_)⟩
  · have hset := State.part?_setPart_same (s.took rest) p { P with choice := fresh }
    have hflushes := ((s.took rest).setPart p { P with choice := fresh }).retryChunks_flushes p
    obtain ⟨B, C, V, hP₁⟩ := hflushes.part _ hset
    obtain ⟨V', hfinished⟩ := Part.finished_rest (q := q) hne { P with choice := { fresh with rbprod := B, chunks := C }, vectors := V }
    refine completes_of h (he.trans (by rw [Part.anyLive, hnone, if_neg (by decide)]; rfl)) hP₁ rfl hflushes.fw hflushes.ports fun u _ => ?_
    have hwide (lo : Nat) : BitVec.ofNat 64 (pfield pkt lo 32) = (pkt.extractLsb' lo 32).setWidth 64 := by
      rw [pfield_eq, BitVec.ofNat_toNat]
    rw [hfinished]
    refine ⟨ofNat_pfield .., hwide _, ofNat_pfield .., hwide _, hwide _, rfl, rfl, fun hchunks => ?_⟩
    rw [State.retryChunks_none hset hchunks, hset] at hP₁
    have hchoice := congrArg Part.choice (Option.some.inj hP₁)
    exact ⟨(congrArg Choice.rbprod hchoice).symm, (congrArg Choice.chunks hchoice).symm⟩
  · rw [if_pos]
    · rfl
    · exact bnot_of_false (List.isEmpty_eq_false_iff.2 hlive)

theorem consumeActs (hkind : packetKind pkt = .consume) : let new : Word := pkt.extractLsb' 64 32
      ((new - P.choice.rbcons).toNat ≤ (P.choice.rbprod - P.choice.rbcons).toNat →
        Completes (.consume q pkt) s p q pkt rest x 0 fun _ P' => P'.choice.rbcons = new ∧
          ((∀ c ∈ P.choice.chunks, c.waits = false) → P'.choice = { P.choice with rbcons := new })) ∧
      ((P.choice.rbprod - P.choice.rbcons).toNat < (new - P.choice.rbcons).toNat →
        Completes (.consume q pkt) s p q pkt rest x 3 fun t P' =>
          P' = { P with queues := P'.queues, vectors := P'.vectors } ∧ EntryOnly s t x ∧ Notified P P' pkt 0) := by
  intro new
  have hne : packetKind pkt ≠ .launch := by rw [hkind]; decide
  have hnew : BitVec.ofNat 32 (pfield pkt 64 32) = new := ofNat_pfield ..
  have he : exec (.consume q pkt) s = .next (State.carried p q.toNat pkt (if P.choice.fill < (new - P.choice.rbcons).toNat then (s.took rest, .done 3)
      else (((s.took rest).setPart p { P with choice := { P.choice with rbcons := new } }).retryChunks p, .done 0))) := by
    refine congrArg Host.Outcome.next ((State.carry_plain h hheader hkind _).trans ?_)
    dsimp only
    rw [hnew]
  refine ⟨fun hroom => ?_, fun hbeyond => completes_unchanged h hne (he.trans (by rw [if_pos (show P.choice.fill < _ from hbeyond)]; rfl))⟩
  have hset := State.part?_setPart_same (s.took rest) p { P with choice := { P.choice with rbcons := new } }
  have hflushes := ((s.took rest).setPart p { P with choice := { P.choice with rbcons := new } }).retryChunks_flushes p
  obtain ⟨B, C, V, hP₁⟩ := hflushes.part _ hset
  obtain ⟨V', hfinished⟩ := Part.finished_rest (q := q) hne { P with choice := { P.choice with rbcons := new, rbprod := B, chunks := C }, vectors := V }
  refine completes_of h (he.trans (by rw [if_neg (show ¬P.choice.fill < _ from Nat.not_lt.2 hroom)]; rfl)) hP₁ rfl hflushes.fw hflushes.ports fun u _ => ?_
  rw [hfinished]
  refine ⟨rfl, fun hchunks => ?_⟩
  rw [State.retryChunks_none hset hchunks, hset] at hP₁
  exact (congrArg Part.choice (Option.some.inj hP₁)).symm

/-! ## The stream table (R362, R428) -/

omit h hheader in
theorem streamBase_toNat {b : Nat} (h : b ≤ regionWords) : (BitVec.ofNat 64 (8 * b)).toNat = 8 * b :=
  (BitVec.toNat_ofNat ..).trans (Nat.mod_eq_of_lt (by unfold regionWords at h; omega))

omit h hheader in
/-- The records of a stream that is kept stand in the region. -/
theorem recordsKept_of {u : State} {b : Nat} {recs : List DWord}
    (hu : ∀ a, (a < entryAt x ∨ entryAt x + 16 ≤ a) → u.byte a = ((s.took rest).storeWords (P.regs.shelfb.toNat + 8 * b) recs).byte a)
    (hfits : b + recs.length ≤ regionWords) : RecordsKept s u P x b recs := by
  have hout (a : Nat) (h : ¬(entryAt x ≤ a ∧ a < entryAt x + 16)) : a < entryAt x ∨ entryAt x + 16 ≤ a := by omega
  unfold regionWords at hfits
  refine ⟨fun a ha hbeside => (hu a (hout a ha)).trans (State.byte_storeWords_outside _ recs hbeside), fun hshelf j hj i hi hentry => ?_⟩
  have hw : recs[j]? = some (recs.getD j 0) := by
    rw [List.getD_eq_getElem _ _ hj, List.getElem?_eq_getElem hj]
  have hup : ∀ a, P.regs.shelfb.toNat + 8 * b ≤ a → a < P.regs.shelfb.toNat + 8 * b + 8 * recs.length → (s.took rest).portDown a = false := by
    intro a _ hhi
    rw [State.portDown, decide_eq_false (show ¬2 ^ 49 ≤ a by omega), Bool.false_and, Bool.false_and]
  rw [hu _ (hout _ hentry), getD_leBytes _ hi]
  exact State.byte_storeWords_inside hup hw hi

omit h hheader in
theorem streamChecks (hlo : 1 ≤ (pkt.extractLsb' 64 4).toNat) (hhi : (pkt.extractLsb' 64 4).toNat ≤ 6) :
    knownKind (streamKind pkt) = true ∧ streamKind pkt = (pkt.extractLsb' 64 4).toNat ∧ streamId pkt = pkt.extractLsb' 128 64 ∧
      streamBuffer pkt = (pkt.extractLsb' 192 52).toNat ∧ streamCount pkt = (pkt.extractLsb' 256 32).toNat := by
  have hkind : streamKind pkt = (pkt.extractLsb' 64 4).toNat := pfield_eq ..
  refine ⟨?_, hkind, ofNat_pfield .., pfield_eq .., pfield_eq ..⟩
  rw [hkind, knownKind, decide_eq_true hlo, decide_eq_true hhi]
  rfl

omit hheader in
/-- A stream that is kept: its packet completes. -/
theorem keepsStream {i : Instr} {k b : Nat} {st : Stream} (hne : packetKind pkt ≠ .launch)
    (he : exec i s = .next (State.carried p q.toNat pkt ((s.took rest).keepStream p P k st, .done 0)))
    (hbase : st.base = BitVec.ofNat 64 (8 * b)) (hfits : b + st.recs.length ≤ regionWords) :
    Completes i s p q pkt rest x 0 fun t P' => Table.get? P'.choice.streams k = some st ∧
      (∀ j, j ≠ k → Table.get? P'.choice.streams j = Table.get? P.choice.streams j) ∧ P'.run = P.run ∧ RecordsKept s t P x b st.recs := by
  have hmem := (s.took rest).storeWords_onlyMem (P.regs.shelfb.toNat + st.base.toNat) st.recs
  let Q : Part := { P with choice := { P.choice with streams := Table.set P.choice.streams k st } }
  obtain ⟨V, hfinished⟩ := Part.finished_rest (q := q) hne Q
  refine completes_of (t := (s.took rest).keepStream p P k st) (Q := Q) h he (State.part?_setPart_same ..) rfl ?_ ?_ fun u hu => ?_
  · change ((s.took rest).storeWords _ _).fw = _
    rw [hmem]
  · change ((s.took rest).storeWords _ _).cxlDown = _
    rw [hmem]
    rfl
  · rw [hfinished]
    refine ⟨Table.get?_set_same .., fun j hj => (Table.get?_set ..).trans (if_neg hj.symm), rfl, recordsKept_of (rest := rest) (fun a ha => (hu a ha).trans ?_) hfits⟩
    change ((s.took rest).storeWords _ _).byte a = _
    rw [hbase, streamBase_toNat (Nat.le_of_add_right_le hfits)]

omit h hheader in
theorem freeEntry_eq {c : Choice} {k : Nat} (hfree : Table.get? c.streams k = none) (hbelow : ∀ j < k, Table.has c.streams j = true) (hk : k < 65536)
    (hlength : k ≤ c.streams.length) : c.freeEntry = some k := by
  have hfind : (List.range (c.streams.length + 1)).find? (fun k => !Table.has c.streams k) = some k := by
    rw [List.find?_range_eq_some]
    refine ⟨?_, List.mem_range.2 (by omega), fun j hj => ?_⟩
    · rw [Table.has, hfree]
      rfl
    · rw [hbelow j hj]
      rfl
  rw [Choice.freeEntry, hfind]
  exact if_pos (decide_eq_true hk)

omit h hheader in
theorem Part.mayAttach_iff : P.mayAttach = true ↔ P.choice.mode ≠ 3 ∧ P.choice.mode ≠ 4 := by
  rw [Part.mayAttach, Bool.and_eq_true, bne_iff_ne, bne_iff_ne]
  exact and_congr (not_congr (BitVec.toNat_eq (y := 3)).symm) (not_congr (BitVec.toNat_eq (y := 4)).symm)

omit h hheader in
theorem Completes.mono {i : Instr} {status : Nat} {rel rel' : State → Part → Prop} (h : Completes i s p q pkt rest x status rel)
    (himp : ∀ t P', rel t P' → rel' t P') : Completes i s p q pkt rest x status rel' := by
  obtain ⟨t, P', he, hP', hpass, hqueue, hbytes, hrel⟩ := h
  exact ⟨t, P', he, hP', hpass, hqueue, hbytes, himp t P' hrel⟩

section
variable (hlo : 1 ≤ (pkt.extractLsb' 64 4).toNat) (hhi : (pkt.extractLsb' 64 4).toNat ≤ 6)
include hlo hhi

theorem exec_attach (hkind : packetKind pkt = .attach) {kind buf n : Nat} {id : DWord} (hk : kind = (pkt.extractLsb' 64 4).toNat)
    (hid : id = pkt.extractLsb' 128 64) (hbuf : buf = (pkt.extractLsb' 192 52).toNat) (hn : n = (pkt.extractLsb' 256 32).toNat)
    (hreach : s.hostOrOwned P buf (8 * n) = true) (hclean : s.unclean buf (8 * n) = false) :
    exec (.attach q pkt) s = .next (State.carried p q.toNat pkt
      (if !P.mayAttach ∨ (P.choice.entry? kind id).isSome ∨ (kind = 6 ∧ n % 2 = 1) then (s.took rest, .done 3)
      else match P.choice.freeEntry, P.choice.regionPlace none (Config.streamBase s.tick).toNat n with
        | some k, some b => ((s.took rest).keepStream p P k ⟨id, BitVec.ofNat 4 kind, false, 0, 0, BitVec.ofNat 64 (8 * b), s.words buf n⟩, .done 0)
        | _, _ => (s.took rest, .done 3))) := by
  obtain ⟨hknown, hk', hid', hbuf', hn'⟩ := streamChecks hlo hhi
  refine congrArg Host.Outcome.next ((State.carry_plain h hheader hkind _).trans (congrArg _ ?_))
  dsimp only
  rw [hknown, hk', hid', hbuf', hn', ← hk, ← hid, ← hbuf, ← hn, show (s.took rest).hostOrOwned P buf (8 * n) = true from hreach,
    show (s.took rest).unclean buf (8 * n) = false from hclean, if_neg (by decide), if_neg Bool.false_ne_true] <;> rfl

theorem exec_extend (hkind : packetKind pkt = .extend) {kind buf n : Nat} {id : DWord} (hk : kind = (pkt.extractLsb' 64 4).toNat)
    (hid : id = pkt.extractLsb' 128 64) (hbuf : buf = (pkt.extractLsb' 192 52).toNat) (hn : n = (pkt.extractLsb' 256 32).toNat)
    (hreach : s.hostOrOwned P buf (8 * n) = true) (hclean : s.unclean buf (8 * n) = false) :
    exec (.extend q pkt) s = .next (State.carried p q.toNat pkt (match P.choice.entry? kind id with
      | none => (s.took rest, .done 3)
      | some (k, st) => match P.choice.regionPlace (some k) (st.base.toNat / 8) (st.recs ++ s.words buf n).length with
        | none => (s.took rest, .done 3)
        | some b => ((s.took rest).keepStream p P k { st with base := BitVec.ofNat 64 (8 * b), recs := st.recs ++ s.words buf n }, .done 0))) := by
  obtain ⟨hknown, hk', hid', hbuf', hn'⟩ := streamChecks hlo hhi
  refine congrArg Host.Outcome.next ((State.carry_plain h hheader hkind _).trans (congrArg _ ?_))
  dsimp only
  rw [hknown, hk', hid', hbuf', hn', ← hk, ← hid, ← hbuf, ← hn, show (s.took rest).hostOrOwned P buf (8 * n) = true from hreach,
    show (s.took rest).unclean buf (8 * n) = false from hclean, if_neg (by decide), if_neg Bool.false_ne_true] <;> rfl

theorem exec_detach (hkind : packetKind pkt = .detach) {kind : Nat} {id : DWord} (hk : kind = (pkt.extractLsb' 64 4).toNat) (hid : id = pkt.extractLsb' 128 64) :
    exec (.detach q pkt) s = .next (State.carried p q.toNat pkt (onPart (fun P => match P.choice.entry? kind id with
      | none => (P, 3)
      | some (k, _) => if !P.mayAttach then (P, 3)
        else ({ P with choice := { P.choice with streams := Table.erase P.choice.streams k } }, 0)) (s.took rest) p P)) := by
  obtain ⟨hknown, hk', hid', -, -⟩ := streamChecks hlo hhi
  refine congrArg Host.Outcome.next ((State.carry_plain h hheader hkind _).trans (congrArg _ ?_))
  rw [hk', ← hk] at hknown
  rw [hk', hid', ← hk, ← hid, onPart, onPart]
  dsimp only
  rw [hknown, if_neg (by decide)] <;> rfl

theorem attachActs (hkind : packetKind pkt = .attach) : let kind := (pkt.extractLsb' 64 4).toNat
    let id : DWord := pkt.extractLsb' 128 64
    let buf := (pkt.extractLsb' 192 52).toNat
    let n := (pkt.extractLsb' 256 32).toNat
    let words := s.words buf n
    s.hostOrOwned P buf (8 * n) = true → s.unclean buf (8 * n) = false →
      let place := P.choice.regionPlace none (Config.streamBase s.tick).toNat n
      (∀ k b, P.choice.mode ≠ 3 → P.choice.mode ≠ 4 → P.choice.entry? kind id = none → (kind = 6 → n % 2 = 0) → place = some b →
        Table.get? P.choice.streams k = none → (∀ j < k, Table.has P.choice.streams j = true) → k < 65536 →
        k ≤ P.choice.streams.length →
        Completes (.attach q pkt) s p q pkt rest x 0 fun t P' =>
          (∃ st, Table.get? P'.choice.streams k = some st ∧ st.kind.toNat = kind ∧ st.id = id ∧ st.recs = words ∧ st.cur = 0 ∧
            st.roff = 0 ∧ st.exh = false ∧ st.base.toNat = 8 * b) ∧
          (∀ j, j ≠ k → Table.get? P'.choice.streams j = Table.get? P.choice.streams j) ∧ P'.run = P.run ∧
          RecordsKept s t P x b words) ∧
      (P.choice.mode = 3 ∨ P.choice.mode = 4 ∨ (P.choice.entry? kind id).isSome = true ∨ (kind = 6 ∧ n % 2 = 1) ∨ place = none →
        Completes (.attach q pkt) s p q pkt rest x 3 fun t P' =>
          P' = { P with queues := P'.queues, vectors := P'.vectors } ∧ EntryOnly s t x ∧ Notified P P' pkt 0) := by
  intro kind id buf n words hreach hclean place
  have hne : packetKind pkt ≠ .launch := by rw [hkind]; decide
  have he := exec_attach h hheader hlo hhi hkind (kind := kind) (buf := buf) (n := n) (id := id) rfl rfl rfl rfl hreach hclean
  refine ⟨fun k b hsteered hexplore hnew heven hplace hfree hbelow hk hlength => ?_, fun hbad => ?_⟩
  · have hmay : ¬((!P.mayAttach) = true ∨ (P.choice.entry? kind id).isSome = true ∨ kind = 6 ∧ n % 2 = 1) := by
      rw [Part.mayAttach_iff.2 ⟨hsteered, hexplore⟩, hnew]
      rintro (hno | hno | ⟨h6, hodd⟩)
      · exact Bool.false_ne_true hno
      · exact Bool.false_ne_true hno
      · exact absurd (heven h6) (by omega)
    have hwords : words.length = n := (List.length_map ..).trans List.length_range
    let st : Stream := ⟨id, BitVec.ofNat 4 kind, false, 0, 0, BitVec.ofNat 64 (8 * b), words⟩
    have hfits : b + n ≤ regionWords := Choice.regionPlace_fits hplace
    have hkept := keepsStream (k := k) (b := b) (st := st) h hne
      (he.trans (by rw [if_neg hmay, freeEntry_eq hfree hbelow hk hlength, show P.choice.regionPlace none (Config.streamBase s.tick).toNat n = some b from hplace])) rfl
      (by rw [hwords]; exact hfits)
    refine Completes.mono hkept fun t P' hrel => ?_
    obtain ⟨hst, hothers, hrun, hrecords⟩ := hrel
    exact ⟨⟨st, hst, Nat.mod_eq_of_lt (by omega), rfl, rfl, rfl, rfl, rfl, streamBase_toNat (Nat.le_of_add_right_le hfits)⟩, hothers, hrun, hrecords⟩
  · refine completes_unchanged h hne (he.trans (congrArg Host.Outcome.next ?_))
    by_cases hmay : (!P.mayAttach) = true ∨ (P.choice.entry? kind id).isSome = true ∨ kind = 6 ∧ n % 2 = 1
    · rw [if_pos hmay]
      rfl
    · have hnone : P.choice.regionPlace none (Config.streamBase s.tick).toNat n = none := by
        obtain ⟨hattach, hentry, hodd⟩ : ¬(!P.mayAttach) = true ∧ ¬(P.choice.entry? kind id).isSome = true ∧ ¬(kind = 6 ∧ n % 2 = 1) :=
          ⟨fun h => hmay (.inl h), fun h => hmay (.inr (.inl h)), fun h => hmay (.inr (.inr h))⟩
        rw [Bool.not_eq_true', Bool.not_eq_false, Part.mayAttach_iff] at hattach
        rcases hbad with hmode | hmode | hsome | hkind | hplace
        · exact absurd hmode hattach.1
        · exact absurd hmode hattach.2
        · exact absurd hsome hentry
        · exact absurd hkind hodd
        · exact hplace
      rw [if_neg hmay, hnone]
      cases P.choice.freeEntry with
      | none => rfl
      | some k => rfl

theorem extendActs (hkind : packetKind pkt = .extend) : let kind := (pkt.extractLsb' 64 4).toNat
    let id : DWord := pkt.extractLsb' 128 64
    let buf := (pkt.extractLsb' 192 52).toNat
    let n := (pkt.extractLsb' 256 32).toNat
    let words := s.words buf n
    s.hostOrOwned P buf (8 * n) = true → s.unclean buf (8 * n) = false →
      let place (k : Nat) (st : Stream) := P.choice.regionPlace (some k) (st.base.toNat / 8) (st.recs.length + n)
      (∀ k st b, P.choice.entry? kind id = some (k, st) → place k st = some b →
        Completes (.extend q pkt) s p q pkt rest x 0 fun t P' =>
          Table.get? P'.choice.streams k = some { st with base := BitVec.ofNat 64 (8 * b), recs := st.recs ++ words } ∧
          (∀ j, j ≠ k → Table.get? P'.choice.streams j = Table.get? P.choice.streams j) ∧ P'.run = P.run ∧
          RecordsKept s t P x b (st.recs ++ words)) ∧
      (P.choice.entry? kind id = none ∨ (∃ k st, P.choice.entry? kind id = some (k, st) ∧ place k st = none) →
        Completes (.extend q pkt) s p q pkt rest x 3 fun t P' =>
          P' = { P with queues := P'.queues, vectors := P'.vectors } ∧ EntryOnly s t x ∧ Notified P P' pkt 0) := by
  intro kind id buf n words hreach hclean place
  have hne : packetKind pkt ≠ .launch := by rw [hkind]; decide
  have he := exec_extend h hheader hlo hhi hkind (kind := kind) (buf := buf) (n := n) (id := id) rfl rfl rfl rfl hreach hclean
  have hlength (st : Stream) : (st.recs ++ s.words buf n).length = st.recs.length + n :=
    List.length_append.trans (congrArg (st.recs.length + ·) ((List.length_map ..).trans List.length_range))
  refine ⟨fun k st b hentry hplace => ?_, fun hbad => completes_unchanged h hne (he.trans (congrArg Host.Outcome.next ?_))⟩
  · refine keepsStream (k := k) (b := b) (st := { st with base := BitVec.ofNat 64 (8 * b), recs := st.recs ++ words }) h hne (he.trans ?_) rfl ?_
    · rw [hentry]
      dsimp only
      rw [hlength, show P.choice.regionPlace (some k) (st.base.toNat / 8) (st.recs.length + n) = some b from hplace]
    · rw [hlength]
      exact Choice.regionPlace_fits hplace
  · rcases hbad with hnone | ⟨k, st, hentry, hplace⟩
    · rw [hnone]
      rfl
    · rw [hentry]
      dsimp only
      rw [hlength, show P.choice.regionPlace (some k) (st.base.toNat / 8) (st.recs.length + n) = none from hplace]
      rfl

theorem detachActs (hkind : packetKind pkt = .detach) : let kind := (pkt.extractLsb' 64 4).toNat
    let id : DWord := pkt.extractLsb' 128 64
    (∀ k st, P.choice.entry? kind id = some (k, st) → P.choice.mode ≠ 3 → P.choice.mode ≠ 4 →
        Completes (.detach q pkt) s p q pkt rest x 0 fun t P' => Table.get? P'.choice.streams k = none ∧
          (∀ j, j ≠ k → Table.get? P'.choice.streams j = Table.get? P.choice.streams j) ∧ P'.run = P.run ∧ EntryOnly s t x) ∧
      (P.choice.entry? kind id = none ∨ P.choice.mode = 3 ∨ P.choice.mode = 4 → Completes (.detach q pkt) s p q pkt rest x 3 fun t P' =>
          P' = { P with queues := P'.queues, vectors := P'.vectors } ∧ EntryOnly s t x ∧ Notified P P' pkt 0) := by
  intro kind id
  have hne : packetKind pkt ≠ .launch := by rw [hkind]; decide
  have he := exec_detach h hheader hlo hhi hkind (kind := kind) (id := id) rfl rfl
  rw [onPart] at he
  refine ⟨fun k st hentry hsteered hexplore => ?_, fun hbad => ?_⟩
  · let Q : Part := { P with choice := { P.choice with streams := Table.erase P.choice.streams k } }
    obtain ⟨V, hfinished⟩ := Part.finished_rest (q := q) hne Q
    rw [hentry] at he
    dsimp only at he
    rw [if_neg (not_bnot_of_true (Part.mayAttach_iff.2 ⟨hsteered, hexplore⟩))] at he
    refine completes_of (t := (s.took rest).setPart p Q) h he (State.part?_setPart_same ..) rfl rfl rfl fun u hu => ?_
    rw [hfinished]
    exact ⟨(Table.get?_erase ..).trans (if_pos rfl), fun j hj => (Table.get?_erase ..).trans (if_neg hj.symm), rfl, entryOnly_of (fun _ => rfl) hu⟩
  · have hrefused : exec (.detach q pkt) s = .next (((s.took rest).setPart p P).complete p q.toNat pkt 3) := by
      refine he.trans (congrArg Host.Outcome.next ?_)
      cases hentry : P.choice.entry? kind id with
      | none => rfl
      | some entry =>
        have hmode : ¬(P.choice.mode ≠ 3 ∧ P.choice.mode ≠ 4) := fun ⟨hsteered, hexplore⟩ => by
          rcases hbad with hnone | hmode | hmode
          · exact absurd (hnone.symm.trans hentry) (by simp)
          · exact hsteered hmode
          · exact hexplore hmode
        dsimp only
        rw [if_pos (bnot_of_false (Bool.eq_false_iff.2 fun hmay => hmode (Part.mayAttach_iff.1 hmay)))]
        rfl
    exact completes_of h hrefused (State.part?_setPart_same ..) rfl rfl rfl fun _ hu => ⟨Part.advanced_frame hne, entryOnly_of (fun _ => rfl) hu, Part.finished_notifies _ rfl⟩
end
end
end

theorem streamPacketsAct : StreamPacketsAct := by
  intro s q pkt rest p P x h hheader kind id buf n words unchanged
  exact ⟨setmodeActs h hheader, fun hkind hlo hhi => attachActs h hheader hlo hhi hkind, fun hkind hlo hhi => extendActs h hheader hlo hhi hkind,
    fun hkind hlo hhi => detachActs h hheader hlo hhi hkind, buffersActs h hheader, consumeActs h hheader⟩
end Sys2Proof.Machine
end

section
/-!
PROOF. LAUNCH and RESUME (spec/16_die.md R322, spec/21_checkpoint_images.md R406, R407, spec/23_firmware_boot_power.md R429).
-/
namespace Sys2Proof.Machine
open Sys2Proof.Spec

section
variable {s t : State} {q : BitVec 7} {pkt : BitVec 512} {rest : List (BitVec 7 × BitVec 512)} {p : PartNo} {P Q : Part} {x : Queue}

/-! ## LAUNCH -/

theorem Part.consAfter_of (hq : Table.get? P.queues q.toNat = some x) : P.consAfter q.toNat = x.cons + 1 := by
  rw [Part.consAfter, hq]
  rfl

/-- A quota that the packet names. -/
theorem quotaOr_pfield_of {lo len : Nat} (default : Nat) (hquota : pkt.extractLsb' lo len ≠ 0) : quotaOr (pfield pkt lo len) default = (pkt.extractLsb' lo len).toNat :=
  (if_neg (mt pfield_eq_zero.1 hquota)).trans (pfield_eq ..)

theorem quotaOr_pfield (pkt : BitVec 512) (lo len default : Nat) :
    quotaOr (pfield pkt lo len) default = if pkt.extractLsb' lo len = 0 then default else (pkt.extractLsb' lo len).toNat := by
  by_cases hquota : pkt.extractLsb' lo len = 0
  · rw [if_pos hquota, quotaOr, if_pos (pfield_eq_zero.2 hquota)]
  · rw [if_neg hquota, quotaOr_pfield_of _ hquota]

/-- A packet that is accepted, its partition changed and its queue advanced. -/
theorem becomes_of_accepted {i : Instr} {rel : Part → Prop}
    (he : exec i s = .next (((s.took rest).setPart p Q).modPart p fun P => P.advanceQueue q.toNat)) (hrel : rel (Q.advanceQueue q.toNat)) : Becomes i s p rel :=
  ⟨_, _, he, State.part?_modPart_some (State.part?_setPart_same ..) _, hrel,
    fun _ hr => (State.part?_modPart_ne _ _ hr).trans (State.part?_setPart_ne (s.took rest) Q hr), fun _ => rfl⟩

section
variable (h : AtHead s q pkt rest p P x) (hheader : pkt.extractLsb' 16 16 = 0)
include h

/-- A LAUNCH that is rejected: the partition but for its queue, its signals and its vectors is as it was (R429). -/
theorem launchRejected (hkind : packetKind pkt = .launch) {status : Nat} (he : exec (.launch q pkt) s = .next ((s.took rest).complete p q.toNat pkt status)) :
    Completes (.launch q pkt) s p q pkt rest x status fun t P' =>
        P'.run = P.run ∧ EntryOnly s t x ∧ Notified P P' pkt 0 ∧
        Cells.get 0 P'.signals (pkt.extractLsb' 212 12).toNat =
          Cells.get 0 P.signals (pkt.extractLsb' 212 12).toNat + (if pkt.getLsbD 211 then 1 else 0) := by
  refine completes_of h he h.part rfl rfl rfl fun _ hu => ⟨?_, entryOnly_of (fun _ => rfl) hu, Part.finished_notifies _ rfl, ?_⟩
  · obtain ⟨S, V, hfinished⟩ := Part.finished_frame pkt (P.advanceQueue q.toNat)
    rw [hfinished]
    rfl
  · refine (Part.finished_signals pkt _ _).trans (congrArg _ ?_)
    exact if_congr ⟨fun h => h.2.1, fun h => ⟨hkind, h, rfl⟩⟩ rfl rfl

include hheader in
theorem exec_launch (hkind : packetKind pkt = .launch) {kern : Nat} (hkern : kern = (pkt.extractLsb' 256 32).toNat) :
    exec (.launch q pkt) s = .next (State.carried p q.toNat pkt (match Table.get? P.kernels kern with
      | none => (s.took rest, .done 1)
      | some k => if launchReserved pkt then (s.took rest, .done 1)
        else if !(s.took rest).launchValid p P (launchOf k q pkt (x.cons + 1)) then (s.took rest, .done 2)
        else ((s.took rest).setPart p ({ P with lastLaunch := P.lastLaunch + 1 }.modRun fun r =>
          { r with launches := Table.set r.launches (P.lastLaunch + 1) (launchOf k q pkt (x.cons + 1)) }), .accepted))) := by
  refine congrArg Host.Outcome.next ((State.carry_plain h hheader hkind _).trans (congrArg _ ?_))
  rw [pfield_eq, ← hkern, Part.consAfter_of h.queue] <;> rfl


include hheader in
theorem launchActs (hkind : packetKind pkt = .launch) : let s0 : State := { s with fw := { s.fw with pass := rest } }
    let kern := (pkt.extractLsb' 256 32).toNat
    let rejected (status : Nat) : Prop := Completes (.launch q pkt) s p q pkt rest x status fun t P' =>
      P'.run = P.run ∧ EntryOnly s t x ∧ Notified P P' pkt 0 ∧
      Cells.get 0 P'.signals (pkt.extractLsb' 212 12).toNat =
        Cells.get 0 P.signals (pkt.extractLsb' 212 12).toNat + (if pkt.getLsbD 211 then 1 else 0)
    (Table.get? P.kernels kern = none → rejected 1) ∧
    (∀ k, Table.get? P.kernels kern = some k → launchReserved pkt = true → rejected 1) ∧
    (∀ k, Table.get? P.kernels kern = some k → launchReserved pkt = false → s0.launchValid p P (launchOf k q pkt (x.cons + 1)) = false →
      rejected 2) ∧
    ∀ k, Table.get? P.kernels kern = some k → launchReserved pkt = false → s0.launchValid p P (launchOf k q pkt (x.cons + 1)) = true →
      Becomes (.launch q pkt) s p fun P' => ∃ l, Table.get? P'.run.launches (P.lastLaunch + 1) = some l ∧ l.kernel = k ∧
        l.gx = (pkt.extractLsb' 64 21).toNat ∧ l.gy = (pkt.extractLsb' 85 21).toNat ∧ l.gz = (pkt.extractLsb' 106 21).toNat ∧
        l.seed = pkt.extractLsb' 224 32 ∧ l.curve = pkt.getLsbD 9 ∧ l.coresident = pkt.getLsbD 10 ∧
        l.sig = pkt.extractLsb' 212 12 ∧ l.sigen = pkt.getLsbD 211 ∧ l.queue = q ∧ l.tag = pkt.extractLsb' 32 32 ∧
        l.notify = pkt.getLsbD 8 ∧ l.next = 0 ∧ l.mode = none ∧
        l.slotQuota = (if pkt.extractLsb' 183 9 = 0 then 16 else (pkt.extractLsb' 183 9).toNat) ∧
        (pkt.extractLsb' 178 5 ≠ 0 → l.recQuota = (pkt.extractLsb' 178 5).toNat) ∧
        (pkt.extractLsb' 196 12 ≠ 0 → l.unitQuota = (pkt.extractLsb' 196 12).toNat) ∧
        P'.lastLaunch = P.lastLaunch + 1 ∧ Table.get? P'.queues q.toNat = some { x with cons := x.cons + 1 } ∧
        P'.run.teams = P.run.teams ∧ P'.vectors = P.vectors := by
  intro s0 kern rejected
  have he := exec_launch h hheader hkind (kern := kern) rfl
  refine ⟨fun hnone => ?_, fun k hkernel hreserved => ?_, fun k hkernel hreserved hinvalid => ?_, fun k hkernel hreserved hvalid => ?_⟩
  · rw [hnone] at he
    exact launchRejected h hkind he
  · rw [hkernel] at he
    dsimp only at he
    rw [if_pos hreserved] at he
    exact launchRejected h hkind he
  · rw [hkernel] at he
    dsimp only at he
    rw [if_neg (Bool.eq_false_iff.1 hreserved), if_pos (bnot_of_false (show (s.took rest).launchValid p P _ = false from hinvalid))] at he
    exact launchRejected h hkind he
  · rw [hkernel] at he
    dsimp only at he
    rw [if_neg (Bool.eq_false_iff.1 hreserved), if_neg (not_bnot_of_true (show (s.took rest).launchValid p P _ = true from hvalid))] at he
    refine becomes_of_accepted he
      ⟨launchOf k q pkt (x.cons + 1), (Table.get?_set ..).trans (if_pos rfl), rfl, pfield_eq .., pfield_eq .., pfield_eq .., ofNat_pfield .., pfield_bit .., pfield_bit ..,
        ofNat_pfield .., pfield_bit .., rfl, ofNat_pfield .., pfield_bit .., rfl, rfl, quotaOr_pfield .., quotaOr_pfield_of _, quotaOr_pfield_of _, rfl, ?_, rfl, rfl⟩
    exact (Table.get?_modify_same P.queues q.toNat fun x => { x with cons := x.cons + 1 }).trans (congrArg (Option.map _) h.queue)
end

/-! ## RESUME -/

/-- A home whose cores are all there stays where the image has it (R407). -/
theorem Part.restoreRun_homes (P : Part) (r : Run) (hcores : ∀ k ∈ P.regs.whiskCores, (P.core? k).any Core.withdrawn = false) :
    (P.restoreRun r).homes = r.homes := by
  have hstay (cores : List Nat) (hcores : ∀ k ∈ cores, (P.core? k).any Core.withdrawn = false) (r : Run) :
      cores.foldl (fun r c => r.moveHome c (P.homeCore c)) r = r := by
    induction cores generalizing r with
    | nil => rfl
    | cons c cores ih =>
      have hhome : P.homeCore c = c := by
        rw [Part.homeCore]
        exact if_pos (bnot_of_false (hcores c List.mem_cons_self))
      have hmove : r.moveHome c (P.homeCore c) = r := by
        rw [hhome, Run.moveHome, if_pos rfl]
      rw [List.foldl_cons, hmove]
      exact ih (fun k hk => hcores k (List.mem_cons_of_mem _ hk)) r
  rw [Part.restoreRun]
  dsimp only
  rw [hstay _ hcores]

theorem Part.restoreRun_ops (P : Part) (r : Run) : (P.restoreRun r).ops = r.ops := by
  have hops (r : Run) (c d : Nat) : (r.moveHome c d).ops = r.ops := by
    unfold Run.moveHome
    split <;> rfl
  have hhomes (cores : List Nat) (r : Run) : (cores.foldl (fun r c => r.moveHome c (P.homeCore c)) r).ops = r.ops := by
    induction cores generalizing r with
    | nil => rfl
    | cons c cores ih => exact (ih _).trans (hops ..)
  rw [Part.restoreRun]
  dsimp only
  rw [hhomes]

theorem resumeActs (h : AtHead s q pkt rest p P x) (hheader : pkt.extractLsb' 16 16 = 0) (hkind : packetKind pkt = .resume) :
    let image := s.readImage P p (pkt.extractLsb' 64 52).toNat
    (∀ i, P.mayResume = true → image = some i → Completes (.resume q pkt) s p q pkt rest x 0 fun t P' =>
      P'.run.teams = i.run.teams ∧ P'.run.ops = i.run.ops ∧ P'.run.dir = i.run.dir ∧
      ((∀ k ∈ P.regs.whiskCores, (P.core? k).any Core.withdrawn = false) → P'.run.homes = i.run.homes) ∧
      P'.choice.mode = i.choice.mode ∧ P'.choice.domains = i.choice.domains ∧ P'.sieve = i.sieve ∧ P'.frozen = false ∧
      P'.reason = 0 ∧ EntryOnly s t x ∧ Notified P P' pkt 0) ∧
    (P.mayResume = false ∨ image = none →
      s.unclean (pkt.extractLsb' 64 52).toNat (s.imageBytes (pkt.extractLsb' 64 52).toNat) = false →
      Completes (.resume q pkt) s p q pkt rest x 3 fun t P' =>
      P'.run = P.run ∧ P'.choice = P.choice ∧ P'.frozen = P.frozen ∧ EntryOnly s t x ∧ Notified P P' pkt 1) := by
  intro image
  have hne : packetKind pkt ≠ .launch := by rw [hkind]; decide
  have hread : (s.took rest).readImage P p (pkt.extractLsb' 64 52).toNat = image := rfl
  have he : exec (.resume q pkt) s = .next (State.carried p q.toNat pkt (match if P.mayResume then image else none with
      | some i => ((s.took rest).resume p P i, .done 0)
      | none => ((s.took rest).resumeRejected p (pkt.extractLsb' 64 52).toNat, .done 3))) := by
    refine congrArg Host.Outcome.next ((State.carry_plain h hheader hkind _).trans (congrArg _ ?_))
    rw [pfield_eq, ← hread] <;> rfl
  have hP : (s.took rest).part? p = some P := h.part
  refine ⟨fun i hmay himage => ?_, fun hbad hclean => ?_⟩
  · rw [if_pos hmay, himage] at he
    dsimp only at he
    obtain ⟨hbeside, Q, hQ, hcores⟩ := (s.took rest).resume_spec p P i
    obtain ⟨V, hfinished⟩ := Part.finished_rest (q := q) hne Q
    obtain ⟨hteams, hdir, -⟩ := P.restoreRun_kept i.run
    refine completes_of (t := (s.took rest).resume p P i) h he hQ (by rw [hcores]; rfl) (by rw [hbeside.same]) (by rw [hbeside.same]; rfl) fun u hu => ?_
    have hnotified : Notified P ((Q.advanceQueue q.toNat).finished pkt) pkt 0 := Part.finished_notifies _ (by rw [hcores]; rfl)
    rw [hfinished] at hnotified ⊢
    rw [hcores] at hnotified ⊢
    exact ⟨hteams, P.restoreRun_ops _, hdir, P.restoreRun_homes _, rfl, rfl, rfl, rfl, rfl, entryOnly_of hbeside.byte hu, hnotified⟩
  · have hnone : (if P.mayResume then image else none) = none := by
      rcases hbad with hmay | himage
      · exact if_neg (Bool.eq_false_iff.1 hmay)
      · rw [himage, ite_self]
    rw [hnone] at he
    dsimp only at he
    rw [State.resumeRejected_clean hP hclean] at he
    obtain ⟨V, hfinished⟩ := Part.finished_rest (q := q) hne ((P.report .resumeRejected).vector 3)
    refine completes_of h he (State.part?_modPart_some hP _) rfl rfl rfl fun u hu => ?_
    have hnotified : Notified P ((((P.report .resumeRejected).vector 3).advanceQueue q.toNat).finished pkt) pkt 1 := by
      refine (Part.finished_notified pkt _).trans ?_
      rw [show Cells.get 0 (((P.report .resumeRejected).vector 3).advanceQueue q.toNat).vectors 3 = Cells.get 0 P.vectors 3 + 1 from Cells.get_set_same ..]
      exact (BitVec.add_assoc ..).trans ((congrArg _ (BitVec.add_comm ..)).trans (BitVec.add_assoc ..).symm)
    rw [hfinished] at hnotified ⊢
    exact ⟨rfl, rfl, rfl, entryOnly_of (fun _ => rfl) hu, hnotified⟩

theorem launchAndResumePacketsAct : LaunchAndResumePacketsAct :=
  fun _ _ _ _ _ _ _ h hheader => ⟨launchActs h hheader, resumeActs h hheader⟩
end

/-- Settles O51: a packet at the head of the pass is carried out by its body, and its completion advances the queue and stores the
entry; each kind of packet is followed through its body. -/
theorem packetsActAndComplete : Obligations.PacketsActAndComplete :=
  ⟨passesTakeOnePacketOfEachQueue, plainPacketsAct, reservedHeaderBitsAreMalformed, streamPacketsAct, launchAndResumePacketsAct⟩
end Sys2Proof.Machine
end

section
/-!
PROOF. The services of `ccall` (spec/06_group_control_faults.md R149, spec/23_firmware_boot_power.md R430).
-/
namespace Sys2Proof.Machine
open Sys2Proof.Spec

section
variable {s : State} {p : PartNo} {gid : Nat} {P Q : Part} {g : Group}

/-- The group that asks, as the firmware finds it. -/
theorem State.ctx?_of (hP : s.part? p = some P) (hg : P.group? gid = some g) : s.ctx? p gid = some ⟨s, p, P, gid, g, .agrees⟩ := by
  rw [State.ctx?, hP]
  dsimp only
  rw [hg]
  rfl

theorem Group.answered_spec (g : Group) (status : DWord) : Answered g (g.answered status 0) status := by
  have hregs : (g.answered status 0).s = Cells.set 0 (Cells.set 0 g.s 0 status) 1 0 := rfl
  refine ⟨?_, ?_, fun r h0 h1 => ?_, rfl, rfl, rfl, rfl, rfl, rfl, rfl⟩
  · rw [Group.sreg, hregs]
    exact (Cells.get_set_ne _ _ _ _ _ (by decide)).trans (Cells.get_set_same ..)
  · rw [Group.sreg, hregs]
    exact Cells.get_set_same ..
  · rw [Group.sreg, hregs]
    exact (Cells.get_set_ne _ _ _ _ _ fun h => h1 (BitVec.eq_of_toNat_eq h.symm)).trans
      (Cells.get_set_ne _ _ _ _ _ fun h => h0 (BitVec.eq_of_toNat_eq h.symm))

theorem Part.modGroup_onlyRun (P : Part) (gid : Nat) (f : Group → Group) : P.OnlyRun (P.modGroup gid f) := by
  unfold Part.modGroup
  split
  · exact Part.setGroup_frame ..
  · rfl

/-- A service that answers, its partition changed but for the groups. -/
theorem becomes_of_answer {i : Instr} {status : DWord} {rel : Part → Prop} (hQ : Q.group? gid = some g)
    (he : exec i s = .next (s.setPart p (Q.modGroup gid fun g => g.answered status 0)))
    (hrel : ∀ P' : Part, P'.signals = Q.signals → P'.debug = Q.debug → rel P') :
    Becomes i s p fun P' => (∃ g', P'.group? gid = some g' ∧ Answered g g' status) ∧ rel P' :=
  have hframe := Q.modGroup_onlyRun gid fun g => g.answered status 0
  becomes_of_setPart he ⟨⟨_, Part.group?_modGroup_of hQ _, g.answered_spec status⟩, hrel _ (by rw [hframe]) (by rw [hframe])⟩

theorem State.service_asked (h : AsksService s p gid P g) {n : BitVec 16} (hn : g.stage = .asked n) {num : BitVec 16 → Bool} (hnum : num n = true)
    (body : Ctx → State) : s.service p gid num body = body ⟨s, p, P, gid, g, .agrees⟩ := by
  obtain ⟨hP, hg, hserving⟩ := h
  rw [State.service, State.ctx?_of hP hg]
  dsimp only
  rw [hn]
  dsimp only
  rw [hnum, hserving]
  exact if_pos rfl

/-- Settles O52: a service finds its group waiting for its number and answers it. -/
theorem ccallServicesAnswer : Obligations.CcallServicesAnswer := by
  intro s p gid P g h answers
  have hruns {n : BitVec 16} (hn : g.stage = .asked n) {num : BitVec 16 → Bool} (hnum : num n = true) (body : Ctx → State) :
      (Host.Outcome.next (s.service p gid num body) : Host.Outcome State Fault Refusal) = .next (body ⟨s, p, P, gid, g, .agrees⟩) :=
    congrArg Host.Outcome.next (State.service_asked h hn hnum body)
  have hunchanged (P' : Part) (hsignals : P'.signals = P.signals) (hrecord : P'.debug = P.debug) : P'.signals = P.signals ∧ P'.debug = P.debug := ⟨hsignals, hrecord⟩
  refine ⟨fun hn => ?_, fun hn => ?_, fun hn hslot => ?_, fun hn hslot => ?_, fun hn htime => ?_, fun hn htime => ?_, fun hn => ?_, fun n hnumber hn => ?_⟩
  · exact becomes_of_answer h.group (hruns hn rfl _) hunchanged
  · exact becomes_of_answer (Q := { P with debug := P.debug ++ ((List.range 7).map fun k => g.sreg (BitVec.ofNat 5 (k + 1))) ++ [(P.requester gid 0).setWidth 64] })
      h.group (hruns hn rfl _) fun P' hsignals hrecord => ⟨hsignals, hrecord.trans (List.append_assoc ..)⟩
  · refine becomes_of_answer (Q := P.signalAdd (g.sreg 1).toNat (g.sreg 2)) h.group ((hruns hn rfl _).trans (congrArg Host.Outcome.next (if_neg (Nat.not_le_of_lt hslot))))
      fun P' hsignals _ => ?_
    rw [hsignals]
    exact ⟨Cells.get_set_same .., fun k hk => Cells.get_set_ne _ _ _ _ _ hk.symm⟩
  · exact becomes_of_answer h.group ((hruns hn rfl _).trans (congrArg Host.Outcome.next (if_pos hslot))) fun _ hsignals _ => hsignals
  · refine becomes_of_beside ((hruns hn rfl _).trans (congrArg Host.Outcome.next (if_neg (Nat.not_lt_of_le htime)))) (State.part?_modPart_some h.part _)
      ((State.Beside.refl s p).modPart _) (Part.group?_modGroup_of h.group _)
  · exact becomes_of_answer h.group ((hruns hn rfl _).trans (congrArg Host.Outcome.next (if_pos htime))) fun _ hsignals _ => hsignals
  · refine becomes_of_answer h.group (congrArg Host.Outcome.next ?_) fun _ hsignals _ => hsignals
    rw [State.ctx?_of h.part h.group]
    exact if_pos ⟨hn, h.serving⟩
  · exact becomes_of_answer h.group (hruns hn (decide_eq_true hnumber) _) hunchanged
end
end Sys2Proof.Machine
end

section
/-!
PROOF. Why the FREEZE command may leave its partition unfrozen: the further image of a stall's freeze is followed by the severity
action of class 10, and action 3 kills the teams and ends the freeze (spec/16_die.md R334, spec/21_checkpoint_images.md R396,
spec/23_firmware_boot_power.md R431).
-/
namespace Sys2Proof.Machine
open Sys2Proof.Spec

/-- A partition that a stall has frozen and whose image is saved; its supervisor has since set SEV(10) to action 3 for cores, made the
image area too small, and given the FREEZE command. -/
def stalledPart : Part :=
  { loadedPart with
    regs := { loadedPart.regs with sev := Cells.set 0 loadedPart.regs.sev 10 3, svcBusy := some 1 }
    frozen := true, saved := true, reason := 4, imageArea := some (0x4000000, 8) }

def stalled : State :=
  let s := State.reset.loadProgram
  { s with parts := [(0, stalledPart)], fw := { s.fw with booted := true, successor := none, pass := [] } }

/-- What the statement asks of the state before the command, by evaluation. -/
def commandsFreeze (s : State) (P : Part) : Bool :=
  decide (s.part? 0 = some P) && decide (P.regs.svcBusy = some 1) && !s.commandHeld P 1 && s.fw.serving && s.fw.pass.isEmpty

theorem stalled_commandsFreeze : commandsFreeze stalled stalledPart = true := by decide +kernel

theorem stalled_commanded : Commanded stalled 0 stalledPart 1 := by
  have hcheck := stalled_commandsFreeze
  simp only [commandsFreeze, Bool.and_eq_true, decide_eq_true_eq, Bool.not_eq_true', List.isEmpty_iff] at hcheck
  obtain ⟨⟨⟨⟨hpart, hbusy⟩, hheld⟩, hserving⟩, hpass⟩ := hcheck
  exact ⟨hpart, hbusy, hheld, hserving, hpass⟩

/-- Whether partition 0 is frozen when an instruction has acted. -/
def frozenAfter (i : Instr) (s : State) : Bool :=
  match exec i s with
  | .next t => (t.part? 0).any Part.frozen
  | _ => false

theorem frozenAfter_stalled : frozenAfter (.freeze 0) stalled = false := by decide +kernel

/-- Refutes O53: FREEZE on the partition of `stalled`, whose stall's further image is followed by action 3 of class 10, leaves it
unfrozen, its teams killed. -/
theorem not_supervisorServicesServe : ¬Obligations.SupervisorServicesServe := by
  rintro ⟨-, hfrozen, -⟩
  obtain ⟨t, P', hexec, hpart, -, -, hstill, -⟩ := hfrozen stalled 0 stalledPart stalled_commanded rfl
  have hafter := frozenAfter_stalled
  rw [frozenAfter, hexec] at hafter
  dsimp only at hafter
  rw [hpart] at hafter
  exact absurd (hstill.symm.trans hafter) (by decide)
end Sys2Proof.Machine
end

section
/-!
SUPPORT. How a register write is taken or fails: the bits that a value may have, and the register at an offset (spec/17_package_memory.md
R345).
-/
namespace Sys2Proof.Machine
open Sys2Proof.Spec

section
variable {s : State} {p : PartNo} {P : Part} {v : DWord} {off lo len hi n : Nat} {i : Instr}

/-! ## Bits outside the fields of a register -/

/-- A number is its low bits, a field and its high bits. -/
theorem eq_low_field_high (x lo len : Nat) : x = x % 2 ^ lo + x / 2 ^ lo % 2 ^ len * 2 ^ lo + x / 2 ^ (lo + len) * 2 ^ (lo + len) := by
  rw [Nat.pow_add, ← Nat.div_div_eq_div_mul]
  calc x = x % 2 ^ lo + 2 ^ lo * (x / 2 ^ lo) := (Nat.mod_add_div x (2 ^ lo)).symm
    _ = x % 2 ^ lo + 2 ^ lo * (x / 2 ^ lo % 2 ^ len + 2 ^ len * (x / 2 ^ lo / 2 ^ len)) := by rw [Nat.mod_add_div (x / 2 ^ lo)]
    _ = _ := by ring

theorem within_one : within v [(lo, len)] = true ↔ v.toNat % 2 ^ lo = 0 ∧ v.toNat / 2 ^ (lo + len) = 0 := by
  have hsplit := eq_low_field_high v.toNat lo len
  rw [within, List.foldl_cons, List.foldl_nil, beq_iff_eq, Nat.zero_add, field]
  dsimp only
  refine ⟨fun h => ?_, fun ⟨hlow, hhigh⟩ => ?_⟩
  · have hhigh : v.toNat / 2 ^ (lo + len) * 2 ^ (lo + len) = 0 := by omega
    exact ⟨by omega, (Nat.mul_eq_zero.1 hhigh).resolve_right (Nat.two_pow_pos _).ne'⟩
  · rw [hlow, hhigh, Nat.zero_mul] at hsplit
    omega

theorem within_two (hlo : lo + len ≤ hi) : within v [(lo, len), (hi, n)] = true ↔
    v.toNat % 2 ^ lo = 0 ∧ v.toNat / 2 ^ (lo + len) % 2 ^ (hi - (lo + len)) = 0 ∧ v.toNat / 2 ^ (hi + n) = 0 := by
  have hsplit := eq_low_field_high v.toNat lo len
  have hbetween := eq_low_field_high (v.toNat / 2 ^ (lo + len)) (hi - (lo + len)) n
  have hhi : lo + len + (hi - (lo + len)) = hi := Nat.add_sub_cancel' hlo
  rw [Nat.div_div_eq_div_mul, Nat.div_div_eq_div_mul, ← Nat.pow_add, ← Nat.pow_add, ← Nat.add_assoc, hhi] at hbetween
  have hupper : v.toNat / 2 ^ (lo + len) * 2 ^ (lo + len) = v.toNat / 2 ^ (lo + len) % 2 ^ (hi - (lo + len)) * 2 ^ (lo + len) +
      v.toNat / 2 ^ hi % 2 ^ n * 2 ^ hi + v.toNat / 2 ^ (hi + n) * 2 ^ (hi + n) := by
    have hpow : 2 ^ hi = 2 ^ (hi - (lo + len)) * 2 ^ (lo + len) := by rw [← Nat.pow_add, Nat.add_comm, hhi]
    have hpow' : 2 ^ (hi + n) = 2 ^ (hi - (lo + len) + n) * 2 ^ (lo + len) := by rw [← Nat.pow_add, Nat.add_right_comm, Nat.add_comm _ (lo + len), hhi]
    calc _ = _ := congrArg (· * 2 ^ (lo + len)) hbetween
      _ = _ := by rw [Nat.add_mul, Nat.add_mul, Nat.mul_assoc, Nat.mul_assoc, ← hpow, ← hpow']
  rw [within, List.foldl_cons, List.foldl_cons, List.foldl_nil, beq_iff_eq, Nat.zero_add, field, field]
  dsimp only
  refine ⟨fun h => ?_, fun ⟨hlow, hmiddle, hhigh⟩ => ?_⟩
  · have hmiddle : v.toNat / 2 ^ (lo + len) % 2 ^ (hi - (lo + len)) * 2 ^ (lo + len) = 0 := by omega
    have hhigh : v.toNat / 2 ^ (hi + n) * 2 ^ (hi + n) = 0 := by omega
    exact ⟨by omega, (Nat.mul_eq_zero.1 hmiddle).resolve_right (Nat.two_pow_pos _).ne', (Nat.mul_eq_zero.1 hhigh).resolve_right (Nat.two_pow_pos _).ne'⟩
  · rw [hmiddle, hhigh, Nat.zero_mul, Nat.zero_mul] at hupper
    omega

theorem inRange_iff {least most : Nat} : inRange v lo len least most = true ↔ least ≤ field v lo len ∧ field v lo len ≤ most := by
  rw [inRange, Bool.and_eq_true, decide_eq_true_iff, decide_eq_true_iff]

/-! ## Registers -/

/-- A register write as it is taken, or fails. -/
theorem regWrite_spec {ok : Prop} {okb : Part → Bool} {f : Part → Part} (hP : s.part? p = some P) (hexec : exec i s = .next (s.regWrite p off okb f))
    (hok : okb P = true ↔ ok) :
    (ok → Becomes i s p fun P' => P' = f P) ∧ (¬ok → Becomes i s p fun P' => WriteFails P P' off) := by
  have hbecomes {rel : Part → Prop} (hrel : rel (if okb P then f P else P.failedWrite off)) : Becomes i s p rel :=
    becomes_of_beside hexec (State.part?_modPart_some hP _) ((State.Beside.refl s p).modPart _) hrel
  refine ⟨fun h => hbecomes (if_pos (hok.2 h)), fun h => hbecomes ?_⟩
  rw [if_neg (mt hok.1 h)]
  exact ⟨rfl, Cells.get_set_same ..⟩

/-- Offsets of the registers that stand alone (R345, R423, R431). -/
def loneOffsets : List Nat := [0x008, 0x018, 0x028, 0x038, 0x040, 0x048, 0x050, 0x058, 0x060, 0x068, 0x070, 0x480, 0x488, 0x500, 0x508, 0x510, 0x518]

theorem State.writeRegister_else (hoff : off ∉ loneOffsets) : s.writeRegister p off v =
    if 0x080 ≤ off ∧ off ≤ 0x0F0 ∧ off % 8 = 0 then s.writeSev p ((off - 0x080) / 8 + 1) v
    else if 0x100 ≤ off ∧ off ≤ 0x178 ∧ off % 8 = 0 then s.writeObs p ((off - 0x100) / 8) v
    else if 0x400 ≤ off ∧ off ≤ 0x478 ∧ off % 8 = 0 then s.writeSpw p ((off - 0x400) / 8) v
    else if 0x600 ≤ off ∧ off < 0x1600 then s.writeQueueReg p off v
    else s.regWrite p off (fun _ => false) fun P => P.setRegs id := by
  unfold State.writeRegister
  split
  case h_18 => rfl
  all_goals exact absurd (by decide) hoff

theorem plainWritesAct (hP : s.part? p = some P) (off : BitVec 16) (v : DWord) (ok : Prop) (f : Regs → Regs) (hrow : plainRow v off.toNat = some (ok, f)) :
    (ok → Becomes (.registerWrite (.virtual p) off v) s p fun P' => P' = { P with regs := f P.regs }) ∧
      (¬ok → Becomes (.registerWrite (.virtual p) off v) s p fun P' => WriteFails P P' off.toNat) := by
  have hlt := v.isLt
  have hexec {off' : Nat} (hoff : off.toNat = off') : exec (.registerWrite (.virtual p) off v) s = .next (s.writeRegister p off' v) :=
    congrArg (fun off => Host.Outcome.next (s.writeRegister p off v)) hoff
  unfold plainRow at hrow
  split at hrow
  case h_1 heq =>
    cases hrow
    rw [heq]
    refine regWrite_spec hP (hexec heq) ?_
    rw [within_one, ← field_eq_zero, ← field_eq_zero, field, field]
    omega
  case h_2 heq =>
    cases hrow
    rw [heq]
    refine regWrite_spec hP (hexec heq) ?_
    rw [Bool.and_eq_true, Bool.and_eq_true, within_one, inRange_iff, inRange_iff, Ne, Ne, ← field_eq_zero, ← field_eq_zero, field, field]
    omega
  case h_3 heq =>
    cases hrow
    rw [heq]
    refine regWrite_spec hP (hexec heq) ?_
    rw [Bool.and_eq_true, within_one, inRange_iff, field]
    omega
  case h_4 heq =>
    cases hrow
    rw [heq]
    refine regWrite_spec hP (hexec heq) ?_
    rw [Bool.and_eq_true, within_one, inRange_iff, field]
    omega
  case h_5 heq =>
    cases hrow
    rw [heq]
    refine regWrite_spec hP (hexec heq) ?_
    rw [within_one]
    omega
  case h_6 heq =>
    cases hrow
    rw [heq]
    refine regWrite_spec hP (hexec heq) ?_
    rw [within_one]
    omega
  case h_7 heq =>
    cases hrow
    rw [heq]
    exact regWrite_spec hP (hexec heq) (iff_of_true rfl trivial)
  case h_8 heq =>
    cases hrow
    rw [heq]
    refine regWrite_spec hP (hexec heq) ?_
    rw [Bool.and_eq_true, Bool.and_eq_true, within_two (by decide), inRange_iff, inRange_iff, ← field_eq_zero, ← field_eq, ← field_eq, field, field, field]
    omega
  case h_9 => cases hrow

theorem fails_of_regWrite {okb : Part → Bool} {f : Part → Part} (hP : s.part? p = some P) (hexec : exec i s = .next (s.regWrite p off okb f)) (hok : okb P = false) :
    Becomes i s p fun P' => WriteFails P P' off :=
  (regWrite_spec (ok := False) hP hexec (iff_of_false (Bool.eq_false_iff.1 hok) not_false)).2 not_false

theorem fails_of_setPart (hexec : exec i s = .next (s.setPart p (P.failedWrite off))) : Becomes i s p fun P' => WriteFails P P' off :=
  becomes_of_setPart hexec ⟨rfl, Cells.get_set_same ..⟩

/-- A write that no register takes fails. -/
theorem otherWritesFail (hP : s.part? p = some P) (off : BitVec 16) (v : DWord)
    (hnone : ¬takesWrites off.toNat ∨ (0x600 ≤ off.toNat ∧ off.toNat < 0x1600 ∧ P.queues[(off.toNat - 0x600) / 32]? = none)) :
    Becomes (.registerWrite (.virtual p) off v) s p fun P' => WriteFails P P' off.toNat := by
  have hlone : off.toNat ∉ loneOffsets := by
    rcases hnone with hnone | ⟨hlo, hhi, -⟩
    · exact fun h => hnone (.inl h)
    · intro h
      have hbound : ∀ o ∈ loneOffsets, o < 0x600 := by decide
      exact absurd (hbound _ h) (by omega)
  have hexec : exec (.registerWrite (.virtual p) off v) s = .next (s.writeRegister p off.toNat v) := rfl
  have hfamilies : ¬(0x080 ≤ off.toNat ∧ off.toNat ≤ 0x0F0 ∧ off.toNat % 8 = 0) ∧ ¬(0x100 ≤ off.toNat ∧ off.toNat ≤ 0x178 ∧ off.toNat % 8 = 0) ∧
      ¬(0x400 ≤ off.toNat ∧ off.toNat ≤ 0x478 ∧ off.toNat % 8 = 0) ∧ (¬(0x600 ≤ off.toNat ∧ off.toNat < 0x1600) ∨
        off.toNat % 8 ≠ 0 ∨ P.queues[(off.toNat - 0x600) / 32]? = none) := by
    rcases hnone with hnone | ⟨hlo, hhi, hqueue⟩
    · unfold takesWrites at hnone
      push Not at hnone
      obtain ⟨-, hsev, hobs, hspw, hqueues⟩ := hnone
      refine ⟨fun ⟨h, h', h''⟩ => hsev h h' h'', fun ⟨h, h', h''⟩ => hobs h h' h'', fun ⟨h, h', h''⟩ => hspw h h' h'', ?_⟩
      by_cases hrange : 0x600 ≤ off.toNat ∧ off.toNat < 0x1600
      · exact .inr (.inl (hqueues hrange.1 hrange.2))
      · exact .inl hrange
    · exact ⟨by omega, by omega, by omega, .inr (.inr hqueue)⟩
  obtain ⟨hsev, hobs, hspw, hqueues⟩ := hfamilies
  rw [State.writeRegister_else hlone, if_neg hsev, if_neg hobs, if_neg hspw] at hexec
  by_cases hrange : 0x600 ≤ off.toNat ∧ off.toNat < 0x1600
  · rw [if_pos hrange, State.writeQueueReg, hP] at hexec
    dsimp only at hexec
    cases hqueue : P.queues[(off.toNat - 0x600) / 32]? with
    | none =>
      rw [hqueue] at hexec
      exact fails_of_setPart hexec
    | some e =>
      have hodd : off.toNat % 8 ≠ 0 := (hqueues.resolve_left (not_not.2 hrange)).resolve_right (by rw [hqueue]; exact Option.some_ne_none e)
      rw [hqueue] at hexec
      dsimp only at hexec
      split at hexec
      case h_5 => exact fails_of_setPart hexec
      all_goals omega
  · rw [if_neg hrange] at hexec
    exact fails_of_regWrite hP hexec rfl

theorem shelfcWritesAct (hP : s.part? p = some P) (v : DWord) : let c := v.toNat
    let takes := c ≤ 62 ∧ c % 2 = 0 ∧ P.run.teams = [] ∧ 768 ≤ 32 * 2 ^ P.regs.logDies * (62 - c) ∧
      P.backingEnd ≤ P.regs.shelfb.toNat + 32 * 2 ^ P.regs.logDies * (62 - c) * 2 ^ 20
    (takes → Becomes (.shelfcWrite p v) s p fun P' => P' = { P with regs := { P.regs with shelfc := BitVec.ofNat 6 c } }) ∧
    (¬ takes → Becomes (.shelfcWrite p v) s p fun P' => WriteFails P P' 0x018) := by
  intro c takes
  have hshare : P.shareFits (field v 0 6) = true ↔ field v 0 6 ≤ 62 ∧ field v 0 6 % 2 = 0 ∧ 768 ≤ 32 * 2 ^ P.regs.logDies * (62 - field v 0 6) ∧
      P.backingEnd ≤ P.regs.shelfb.toNat + 32 * 2 ^ P.regs.logDies * (62 - field v 0 6) * 2 ^ 20 := by
    rw [Part.shareFits, Bool.and_eq_true, Bool.and_eq_true, Bool.and_eq_true, decide_eq_true_iff, beq_iff_eq, decide_eq_true_iff, decide_eq_true_iff, and_assoc, and_assoc]
    rfl
  have hfield (hc : c < 64) : field v 0 6 = c := by
    rw [field]
    omega
  have hok : (within v [(0, 6)] && !P.anyLive && P.shareFits (field v 0 6)) = true ↔ takes := by
    rw [Bool.and_eq_true, Bool.and_eq_true, hshare, within_one, Part.anyLive, Bool.not_not, List.isEmpty_iff]
    constructor
    · rintro ⟨⟨⟨-, hhigh⟩, hteams⟩, hc, heven, hrange, hend⟩
      rw [hfield (by omega)] at hc heven hrange hend
      exact ⟨hc, heven, hteams, hrange, hend⟩
    · rintro ⟨hc, heven, hteams, hrange, hend⟩
      rw [hfield (by omega)]
      exact ⟨⟨⟨by omega, by omega⟩, hteams⟩, hc, heven, hrange, hend⟩
  obtain ⟨htakes, hfails⟩ := regWrite_spec hP (show exec (.shelfcWrite p v) s = .next (s.writeShelfc p v) from rfl) hok
  refine ⟨fun h => ?_, hfails⟩
  have hwrite := htakes h
  rw [hfield (Nat.lt_of_le_of_lt h.1 (by decide))] at hwrite
  exact hwrite

theorem eggWritesAct (hP : s.part? p = some P) (v : DWord) : let win := (v.extractLsb' 0 24).toNat
    let takes := v.extractLsb' 24 39 = 0 ∧ 1000 ≤ win ∧ win ≤ 10000000
    (takes → Becomes (.eggWrite p v) s p fun P' => P' = { P with regs := { P.regs with egg := v } }) ∧
    (¬ takes → Becomes (.eggWrite p v) s p fun P' => WriteFails P P' 0x050) := by
  intro win takes
  refine regWrite_spec hP (show exec (.eggWrite p v) s = .next (s.writeEgg p v) from rfl) ?_
  have hlt := v.isLt
  rw [Bool.and_eq_true, within_two (by decide), inRange_iff, field_eq]
  refine and_congr_left fun _ => ?_
  rw [← field_eq_zero, field]
  omega

/-! ## Severities (R350) -/

/-- The action of a class is what the class's own fields and those of the shared sources give. -/
theorem State.action_eq (s : State) (P : Part) (cls : Nat) :
    let own := (Cells.get 0 P.regs.sev cls).toNat % 64
    let shared := (Cells.get 0 s.sharedSev cls).toNat / 64 % 2 ^ 15
    s.action P cls srcCore = own % 8 ∧ s.action P cls srcSlice = own / 8 % 8 ∧
      ∀ src, 2 ≤ src → s.action P cls src = shared / 2 ^ (min (3 * src) 18 - 6) % 8 := by
  intro own shared
  refine ⟨?_, ?_, fun src hsrc => ?_⟩
  · change (own + shared * 64) / 2 ^ 0 % 8 = _
    omega
  · change (own + shared * 64) / 2 ^ 3 % 8 = _
    omega
  · have hplace (k : Nat) : (own + shared * 64) / 2 ^ (6 + k) = shared / 2 ^ k := by
      rw [Nat.pow_add, ← Nat.div_div_eq_div_mul, show (own + shared * 64) / 2 ^ 6 = shared by omega]
    match src, hsrc with
    | 2, _ => exact congrArg (· % 8) (hplace 0)
    | 3, _ => exact congrArg (· % 8) (hplace 3)
    | 4, _ => exact congrArg (· % 8) (hplace 6)
    | 5, _ => exact congrArg (· % 8) (hplace 9)
    | n + 6, _ =>
      rw [Nat.min_eq_right (by omega)]
      exact congrArg (· % 8) (hplace 12)

theorem State.writeSev_ok (v : DWord) : (within v [(0, 21)] && inRange v 0 3 0 4 && inRange v 3 3 0 4) = true ↔
    v.toNat < 2 ^ 21 ∧ v.toNat % 8 ≤ 4 ∧ v.toNat / 8 % 8 ≤ 4 := by
  rw [Bool.and_eq_true, Bool.and_eq_true, within_one, inRange_iff, inRange_iff, field, field]
  omega

theorem exec_sevWrite {cls : BitVec 4} (hcls : cls ≠ 0) (v : DWord) : exec (.sevWrite p cls v) s = .next (s.writeSev p cls.toNat v) :=
  congrArg Host.Outcome.next (if_neg hcls)

theorem sevWritesAct (hP : s.part? p = some P) (cls : BitVec 4) (v : DWord) (hcls : cls ≠ 0) (hbits : v.toNat < 2 ^ 21) :
    let core := v.toNat % 8
    let slice := v.toNat / 8 % 8
    (core ≤ 4 → slice ≤ 4 → ∃ t P', exec (.sevWrite p cls v) s = .next t ∧ t.part? p = some P' ∧ t.action P' cls.toNat srcCore = core ∧
      t.action P' cls.toNat srcSlice = slice ∧ (∀ src, 2 ≤ src → t.action P' cls.toNat src = s.action P cls.toNat src) ∧
      ∀ k src, k ≠ cls.toNat → t.action P' k src = s.action P k src) ∧
    (4 < core ∨ 4 < slice → Becomes (.sevWrite p cls v) s p fun P' => WriteFails P P' (0x080 + 8 * (cls.toNat - 1))) := by
  intro core slice
  have hexec := exec_sevWrite (s := s) (p := p) hcls v
  refine ⟨fun hcore hslice => ?_, fun hrange => ?_⟩
  · obtain ⟨c, hc⟩ : ∃ c, c = cls.toNat := ⟨_, rfl⟩
    rw [← hc] at hexec ⊢
    let P' : Part := P.setRegs fun r => { r with sev := Cells.set 0 r.sev c (BitVec.ofNat 64 (field v 0 6)) }
    have hown : (Cells.get 0 P'.regs.sev c).toNat % 64 = v.toNat % 64 := by
      rw [show P'.regs.sev = Cells.set 0 P.regs.sev c (BitVec.ofNat 64 (field v 0 6)) from rfl, Cells.get_set_same, BitVec.toNat_ofNat, field]
      omega
    have hwritten : (s.writeSev p c v).part? p = some P' := by
      rw [State.writeSev, State.regWrite, State.part?_modPart_some hP, if_pos ((State.writeSev_ok v).2 ⟨hbits, hcore, hslice⟩)]
    obtain ⟨hatCore, hatSlice, hatOthers⟩ := (s.writeSev p c v).action_eq P' c
    obtain ⟨-, -, hbefore⟩ := s.action_eq P c
    rw [hown] at hatCore hatSlice
    refine ⟨_, P', hexec, hwritten, hatCore.trans (by omega), hatSlice.trans (by omega), fun src hsrc => (hatOthers src hsrc).trans (hbefore src hsrc).symm, fun k src hk => ?_⟩
    have hsame : Cells.get 0 P'.regs.sev k = Cells.get 0 P.regs.sev k := Cells.get_set_ne _ _ _ _ _ (Ne.symm hk)
    unfold State.action State.sevc
    rw [hsame]
    rfl
  · exact fails_of_regWrite hP hexec (Bool.eq_false_iff.2 (mt (State.writeSev_ok v).1 (by omega)))

theorem sevWritesAreRegisterWrites (hP : s.part? p = some P) (cls : BitVec 4) (v : DWord) (hcls : cls ≠ 0) :
    (2 ^ 21 ≤ v.toNat → Becomes (.sevWrite p cls v) s p fun P' => WriteFails P P' (0x080 + 8 * (cls.toNat - 1))) ∧
      exec (.registerWrite (.virtual p) (BitVec.ofNat 16 (0x080 + 8 * (cls.toNat - 1))) v) s = exec (.sevWrite p cls v) s := by
  have hexec := exec_sevWrite (s := s) (p := p) hcls v
  refine ⟨fun hbits => fails_of_regWrite hP hexec (Bool.eq_false_iff.2 (mt (State.writeSev_ok v).1 (by omega))), ?_⟩
  rw [hexec]
  have hpos : 1 ≤ cls.toNat := Nat.one_le_iff_ne_zero.2 fun h => hcls (BitVec.eq_of_toNat_eq h)
  have hlt := cls.isLt
  have hoff : (BitVec.ofNat 16 (0x080 + 8 * (cls.toNat - 1))).toNat = 0x080 + 8 * (cls.toNat - 1) := by
    rw [BitVec.toNat_ofNat]
    omega
  have hbound : ∀ o ∈ loneOffsets, o < 0x080 ∨ 0x0F0 < o := by decide
  refine congrArg Host.Outcome.next ?_
  rw [hoff]
  refine (State.writeRegister_else fun h => absurd (hbound _ h) (by omega)).trans ((if_pos (by omega)).trans ?_)
  rw [show (0x080 + 8 * (cls.toNat - 1) - 0x080) / 8 + 1 = cls.toNat by omega]

/-! ## The other registers (R344, R345, R417, R431) -/

/-- The range of an invalidation that has grown. -/
theorem Regs.invRange_whole {r : Regs} (h : r.inv = BitVec.ofNat 64 (3 * 2 ^ 56)) : r.invRange = (0, 2 ^ 56) := by
  rw [Regs.invRange, h]
  exact if_pos (by decide)

theorem invWritesAct (hP : s.part? p = some P) (v : DWord) : let takes := v.extractLsb' 0 16 = 0 ∧ v.extractLsb' 58 6 = 0
    (takes → P.regs.invDone = true → Becomes (.invWrite p v) s p fun P' =>
      P' = { P with regs := { P.regs with inv := v, invDone := false } }) ∧
    (takes → P.regs.invDone = false → Becomes (.invWrite p v) s p fun P' =>
      P'.regs.invDone = false ∧ P'.regs.invRange = (0, 2 ^ 56) ∧ P'.run = P.run) ∧
    (¬ takes → Becomes (.invWrite p v) s p fun P' => WriteFails P P' 0x028) := by
  intro takes
  have hok : within v [(16, 40), (56, 2)] = true ↔ takes := by
    have hlt := v.isLt
    rw [within_two (by decide), show takes ↔ field v 0 16 = 0 ∧ field v 58 6 = 0 from and_congr field_eq_zero.symm field_eq_zero.symm, field, field]
    omega
  have hexec : exec (.invWrite p v) s = .next (s.writeInv p v) := rfl
  obtain ⟨htakes, hfails⟩ := regWrite_spec hP hexec hok
  refine ⟨fun h hdone => ?_, fun h hdone => ?_, hfails⟩
  · have hwrite := htakes h
    rw [Part.setRegs, hdone] at hwrite
    exact hwrite
  · have hwrite := htakes h
    rw [Part.setRegs, hdone] at hwrite
    obtain ⟨t, P', hexec, hP', rfl, hothers, hbytes⟩ := hwrite
    exact ⟨t, _, hexec, hP', ⟨rfl, Regs.invRange_whole rfl, rfl⟩, hothers, hbytes⟩

/-- The registers of the last part of the statement, by their offsets. -/
theorem registersTake (hP : s.part? p = some P) (off : BitVec 16) (v : DWord) :
    (off = 0x018 → exec (.registerWrite (.virtual p) off v) s = exec (.shelfcWrite p v) s) ∧
    (off = 0x028 → exec (.registerWrite (.virtual p) off v) s = exec (.invWrite p v) s) ∧
    (off = 0x048 → exec (.registerWrite (.virtual p) off v) s = exec (.whiskWrite p v) s) ∧
    (off = 0x050 → exec (.registerWrite (.virtual p) off v) s = exec (.eggWrite p v) s) ∧
    (off = 0x500 → 1 ≤ v.toNat → v.toNat ≤ 10 → P.regs.svcBusy = none → Becomes (.registerWrite (.virtual p) off v) s p fun P' =>
      P' = { P with regs := { P.regs with svcBusy := some (v.setWidth 8) } }) ∧
    (off = 0x500 → v = 0 ∨ 10 < v.toNat ∨ P.regs.svcBusy ≠ none → Becomes (.registerWrite (.virtual p) off v) s p fun P' => WriteFails P P' 0x500) ∧
    (∀ k < 16, off.toNat = 0x100 + 8 * k → v.extractLsb' 0 16 = 0 → v.extractLsb' 56 8 = 0 →
      Becomes (.registerWrite (.virtual p) off v) s p fun P' => P' = { P with regs := { P.regs with obs := P'.regs.obs } } ∧
        Table.get? P'.regs.obs k = some (v.extractLsb' 16 40).toNat ∧
        ∀ j, j ≠ k → Table.get? P'.regs.obs j = Table.get? P.regs.obs j) ∧
    (∀ k < 16, off.toNat = 0x100 + 8 * k → v.extractLsb' 0 16 ≠ 0 ∨ v.extractLsb' 56 8 ≠ 0 →
      Becomes (.registerWrite (.virtual p) off v) s p fun P' => WriteFails P P' off.toNat) ∧
    (∀ k < 16, off.toNat = 0x400 + 8 * k → v.extractLsb' 0 18 ≠ 0 →
      Becomes (.registerWrite (.virtual p) off v) s p fun P' => WriteFails P P' off.toNat) ∧
    (∀ k < 16, off.toNat = 0x400 + 8 * k → v.extractLsb' 0 18 = 0 →
      let port := (v.extractLsb' 59 4).toNat
      (Table.get? s.portGrant port = some p.toNat → Becomes (.registerWrite (.virtual p) off v) s p fun P' =>
        P' = { P with regs := { P.regs with spw := P'.regs.spw } } ∧ Cells.get 0 P'.regs.spw k = v ∧
          ∀ j, j ≠ k → Cells.get 0 P'.regs.spw j = Cells.get 0 P.regs.spw j) ∧
      (Table.get? s.portGrant port ≠ some p.toNat →
        Becomes (.registerWrite (.virtual p) off v) s p fun P' => WriteFails P P' off.toNat)) ∧
    (∀ k < 3, off.toNat = 0x508 + 8 * k → Becomes (.registerWrite (.virtual p) off v) s p fun P' =>
      Cells.get 0 P'.regs.svcArg k = v ∧ ∀ j, j ≠ k → Cells.get 0 P'.regs.svcArg j = Cells.get 0 P.regs.svcArg j) := by
  have hlt := v.isLt
  have hexec {off' : Nat} (hoff : off.toNat = off') : exec (.registerWrite (.virtual p) off v) s = .next (s.writeRegister p off' v) :=
    congrArg (fun off => Host.Outcome.next (s.writeRegister p off v)) hoff
  have hobs {k : Nat} (hk : k < 16) (hoff : off.toNat = 0x100 + 8 * k) : exec (.registerWrite (.virtual p) off v) s = .next (s.writeObs p k v) := by
    have hbound : ∀ o ∈ loneOffsets, o < 0x100 ∨ 0x178 < o := by decide
    rw [hexec hoff, State.writeRegister_else fun h => absurd (hbound _ h) (by omega), if_neg (by omega), if_pos (by omega), Nat.add_sub_cancel_left,
      Nat.mul_div_cancel_left k (by decide)]
  have hspw {k : Nat} (hk : k < 16) (hoff : off.toNat = 0x400 + 8 * k) : exec (.registerWrite (.virtual p) off v) s = .next (s.writeSpw p k v) := by
    have hbound : ∀ o ∈ loneOffsets, o < 0x400 ∨ 0x478 < o := by decide
    rw [hexec hoff, State.writeRegister_else fun h => absurd (hbound _ h) (by omega), if_neg (by omega), if_neg (by omega), if_pos (by omega), Nat.add_sub_cancel_left,
      Nat.mul_div_cancel_left k (by decide)]
  have hargs {k : Nat} (hk : k < 3) (hoff : off.toNat = 0x508 + 8 * k) : exec (.registerWrite (.virtual p) off v) s =
      .next (s.regWrite p (0x508 + 8 * k) (fun _ => true) fun P => P.setRegs fun r => { r with svcArg := Cells.set 0 r.svcArg k v }) := by
    rw [hexec hoff]
    match k, hk with
    | 0, _ => rfl
    | 1, _ => rfl
    | 2, _ => rfl
  have hsvcOk : (decide (1 ≤ v.toNat) && decide (v.toNat ≤ 10) && P.regs.svcBusy.isNone) = true ↔ 1 ≤ v.toNat ∧ v.toNat ≤ 10 ∧ P.regs.svcBusy = none := by
    rw [Bool.and_eq_true, Bool.and_eq_true, decide_eq_true_iff, decide_eq_true_iff, Option.isNone_iff_eq_none, and_assoc]
  have hobsOk : within v [(16, 40)] = true ↔ v.extractLsb' 0 16 = 0 ∧ v.extractLsb' 56 8 = 0 := by
    rw [within_one, ← field_eq_zero, ← field_eq_zero, field, field]
    omega
  have hspwOk : (within v [(18, 46)] && Table.get? s.portGrant (field v 59 4) == some p.toNat) = true ↔
      v.extractLsb' 0 18 = 0 ∧ Table.get? s.portGrant (v.extractLsb' 59 4).toNat = some p.toNat := by
    rw [Bool.and_eq_true, within_one, beq_iff_eq, field_eq, ← field_eq_zero, field]
    refine and_congr_left fun _ => ?_
    omega
  refine ⟨fun h => ?_, fun h => ?_, fun h => ?_, fun h => ?_, fun h hlo hhi hfree => ?_, fun h hbad => ?_, fun k hk hoff hlow hhigh => ?_, fun k hk hoff hbad => ?_,
    fun k hk hoff hbad => ?_, fun k hk hoff hlow => ?_, fun k hk hoff => ?_⟩
  · rw [h]
    rfl
  · rw [h]
    rfl
  · rw [h]
    rfl
  · rw [h]
    rfl
  · rw [h]
    have hwrite := (regWrite_spec (i := .registerWrite (.virtual p) 0x500 v) hP (show exec _ s = .next (s.writeSvccmd p v) from rfl) hsvcOk).1 ⟨hlo, hhi, hfree⟩
    exact hwrite
  · rw [h]
    refine (regWrite_spec (i := .registerWrite (.virtual p) 0x500 v) hP (show exec _ s = .next (s.writeSvccmd p v) from rfl) hsvcOk).2 fun ⟨hlo, hhi, hfree⟩ => ?_
    rcases hbad with hzero | hhigh | hbusy
    · rw [hzero] at hlo
      exact absurd hlo (by decide)
    · omega
    · exact hbusy hfree
  · obtain ⟨t, P', hexec, hP', rfl, hothers, hbytes⟩ := (regWrite_spec hP (hobs hk hoff) hobsOk).1 ⟨hlow, hhigh⟩
    refine ⟨t, _, hexec, hP', ⟨rfl, ?_, fun j hj => (Table.get?_set ..).trans (if_neg hj.symm)⟩, hothers, hbytes⟩
    rw [← field_eq]
    exact (Table.get?_set ..).trans (if_pos rfl)
  · rw [hoff]
    exact (regWrite_spec hP (hobs hk hoff) hobsOk).2 fun ⟨hlow, hhigh⟩ => hbad.elim (· hlow) (· hhigh)
  · rw [hoff]
    exact (regWrite_spec hP (hspw hk hoff) hspwOk).2 fun h => hbad h.1
  · rw [hoff]
    refine ⟨fun hport => ?_, fun hport => (regWrite_spec hP (hspw hk hoff) hspwOk).2 fun h => hport h.2⟩
    obtain ⟨t, P', hexec, hP', rfl, hothers, hbytes⟩ := (regWrite_spec hP (hspw hk hoff) hspwOk).1 ⟨hlow, hport⟩
    exact ⟨t, _, hexec, hP', ⟨rfl, Cells.get_set_same .., fun j hj => Cells.get_set_ne _ _ _ _ _ hj.symm⟩, hothers, hbytes⟩
  · obtain ⟨t, P', hexec, hP', rfl, hothers, hbytes⟩ := (regWrite_spec hP (hargs hk hoff) (iff_of_true rfl trivial)).1 trivial
    exact ⟨t, _, hexec, hP', ⟨Cells.get_set_same .., fun j hj => Cells.get_set_ne _ _ _ _ _ hj.symm⟩, hothers, hbytes⟩

end
end Sys2Proof.Machine
end

section
/-!
PROOF. The registers of the queues (spec/23_firmware_boot_power.md R424).
-/
namespace Sys2Proof.Machine
open Sys2Proof.Spec

section
variable {s : State} {p : PartNo} {P : Part} {v : DWord} {x y : Queue} {i : Instr} {q reg : Nat} {f : Part → Queue → Option Queue}

section
variable (hP : s.part? p = some P) (hx : Table.get? P.queues q = some x) (hexec : exec i s = .next (s.queueWrite p q reg f))
include hP hx hexec

theorem queueWrite_taken (hf : f P x = some y) : Becomes i s p fun P' => P' = { P with queues := P'.queues } ∧ Table.get? P'.queues q = some y := by
  refine becomes_of_beside hexec (State.part?_modPart_some hP _) ((State.Beside.refl s p).modPart _) ?_
  rw [hx]
  dsimp only
  rw [hf]
  exact ⟨rfl, (Table.get?_set ..).trans (if_pos rfl)⟩

theorem queueWrite_fails (hf : f P x = none) : Becomes i s p fun P' => WriteFails P P' (P.queueOffset q + reg) := by
  refine becomes_of_beside hexec (State.part?_modPart_some hP _) ((State.Beside.refl s p).modPart _) ?_
  rw [hx]
  dsimp only
  rw [hf]
  exact ⟨rfl, Cells.get_set_same ..⟩
end

/-! ## Values of QBASE -/

theorem qbase_bits (v : DWord) : within v [(6, 46), (63, 1)] = true ↔ v.extractLsb' 0 6 = 0 ∧ v.extractLsb' 52 11 = 0 := by
  have hlt := v.isLt
  rw [within_two (by decide), ← field_eq_zero, ← field_eq_zero, field, field]
  omega

theorem qbase_bits_disabled (hlow : v.extractLsb' 0 6 = 0) (hhigh : v.extractLsb' 52 12 = 0) : within v [(6, 46), (63, 1)] = true ∧ v.getLsbD 63 = false := by
  rw [← field_eq_zero, field] at hlow hhigh
  have hlt := v.isLt
  refine ⟨?_, ?_⟩
  · rw [within_two (by decide)]
    omega
  · rw [BitVec.getLsbD, Nat.testBit_eq_decide_div_mod_eq]
    exact decide_eq_false (by omega)

/-- The value that a disabling write has. -/
theorem disabling_value (b : DWord) (hb : b.getLsbD 63 = true) : b - BitVec.ofNat 64 (2 ^ 63) = b &&& 0x7FFFFFFFFFFFFFFF := by
  have hlt := b.isLt
  rw [BitVec.getLsbD, Nat.testBit_eq_decide_div_mod_eq, decide_eq_true_iff] at hb
  refine BitVec.eq_of_toNat_eq ?_
  rw [BitVec.toNat_sub, BitVec.toNat_and, show (0x7FFFFFFFFFFFFFFF : DWord).toNat = 2 ^ 63 - 1 from rfl, Nat.and_two_pow_sub_one_eq_mod, BitVec.toNat_ofNat]
  omega

theorem moved_eq (v b : DWord) : (field v 6 46 != field b 6 46) = decide (v.extractLsb' 6 46 ≠ b.extractLsb' 6 46) := by
  rw [field_eq, field_eq, Bool.eq_iff_iff, bne_iff_ne, decide_eq_true_iff]
  exact not_congr BitVec.toNat_eq.symm

variable (P) in
/-- QBASE of a queue that is disabled, by what its new value says. -/
theorem qbase_disabled (s : State) (henabled : x.base.getLsbD 63 = false) (hbits : within v [(6, 46), (63, 1)] = true) :
    let y : Queue := { x with base := v, moved := x.moved || decide (v.extractLsb' 6 46 ≠ x.base.extractLsb' 6 46) }
    (v.getLsbD 63 = false → s.qbase v P x = some y) ∧
    (v.getLsbD 63 = true → x.size = 0 ∨ s.hostOrOwned P ((v.extractLsb' 6 46).toNat * 64) (64 * x.size.toNat) = false → s.qbase v P x = none) ∧
    (v.getLsbD 63 = true → x.size ≠ 0 → s.hostOrOwned P ((v.extractLsb' 6 46).toNat * 64) (64 * x.size.toNat) = true →
      s.qbase v P x = some { y with cons := if y.moved then 0 else y.cons, moved := false }) := by
  intro y
  have hring : Queue.ring { x with base := v, moved := x.moved || field v 6 46 != field x.base 6 46 } = (v.extractLsb' 6 46).toNat * 64 := by
    rw [Queue.ring, field_eq]
  have hqbase : s.qbase v P x = if !v.getLsbD 63 then some y
      else if x.size = 0 ∨ !s.hostOrOwned P ((v.extractLsb' 6 46).toNat * 64) (64 * x.size.toNat) then none
      else some { y with cons := if y.moved then 0 else y.cons, moved := false } := by
    rw [State.qbase]
    dsimp only
    rw [if_neg (not_bnot_of_true hbits), Queue.enabled, henabled, if_neg Bool.false_ne_true, hring, moved_eq]
  rw [hqbase]
  refine ⟨fun hv => if_pos (bnot_of_false hv), fun hv hbad => ?_, fun hv hsize howned => ?_⟩
  · rw [if_neg (not_bnot_of_true hv)]
    exact if_pos (hbad.imp_right bnot_of_false)
  · rw [if_neg (not_bnot_of_true hv)]
    exact if_neg fun h => h.elim hsize (not_bnot_of_true howned)

theorem qbase_enabled (s : State) (P : Part) (henabled : x.base.getLsbD 63 = true) :
    (v = x.base &&& 0x7FFFFFFFFFFFFFFF → within v [(6, 46), (63, 1)] = true → s.qbase v P x = some { x with base := v }) ∧
    (v ≠ x.base &&& 0x7FFFFFFFFFFFFFFF → s.qbase v P x = none) := by
  rw [← disabling_value x.base henabled]
  refine ⟨fun hv hbits => ?_, fun hv => ?_⟩
  · rw [State.qbase]
    dsimp only
    rw [if_neg (not_bnot_of_true hbits), Queue.enabled, henabled, if_pos rfl, if_pos hv]
  · rw [State.qbase]
    dsimp only
    split
    · rfl
    · rw [Queue.enabled, henabled, if_pos rfl]

/-! ## QPROD and QBASE -/

section
variable (hP : s.part? p = some P) (q : BitVec 7) (hx : Table.get? P.queues q.toNat = some x)
include hP hx

theorem qprodWritesAct (v : DWord) : let off := 0x600 + 32 * (P.queues.filter fun e => decide (e.1 < q.toNat)).length
    (v.toNat < 2 ^ 16 → Becomes (.qprodWrite p q v) s p fun P' =>
      P' = { P with queues := P'.queues } ∧ Table.get? P'.queues q.toNat = some { x with prod := v.setWidth 16 }) ∧
    (2 ^ 16 ≤ v.toNat → Becomes (.qprodWrite p q v) s p fun P' => WriteFails P P' (off + 16)) := by
  have hexec : exec (.qprodWrite p q v) s = .next (s.writeQprod p q.toNat v) := rfl
  have hbits : within v [(0, 16)] = true ↔ v.toNat < 2 ^ 16 := by
    rw [within_one]
    omega
  exact ⟨fun h => queueWrite_taken hP hx hexec (if_pos (hbits.2 h)), fun h => queueWrite_fails hP hx hexec (if_neg (mt hbits.1 (Nat.not_lt_of_le h)))⟩

omit hP hx in
/-- What a write of QBASE makes of the queue, by whether the pass still holds a packet of it. -/
theorem exec_qbaseWrite (q : BitVec 7) (v : DWord) (s : State) : exec (.qbaseWrite p q v) s = .next (s.queueWrite p q.toNat 0 fun P x => (s.qbase v P x).map fun y =>
    if (s.fw.pass.any fun e => e.1.toNat == q.toNat) && x.enabled then { x with stopping := true } else { y with stopping := false }) := rfl

omit hP hx in
theorem passing_iff (q : BitVec 7) (pass : List (BitVec 7 × BitVec 512)) : (pass.any fun e => e.1.toNat == q.toNat) = true ↔ ∃ e ∈ pass, e.1 = q := by
  rw [List.any_eq_true]
  exact exists_congr fun e => and_congr_right fun _ => beq_iff_eq.trans BitVec.toNat_eq.symm

/-- A write of QBASE that takes effect at once. -/
theorem qbaseWrite_now (hnow : (s.fw.pass.any fun e => e.1.toNat == q.toNat) = false ∨ x.base.getLsbD 63 = false) (hy : s.qbase v P x = some y) :
    Becomes (.qbaseWrite p q v) s p fun P' => P' = { P with queues := P'.queues } ∧ Table.get? P'.queues q.toNat = some { y with stopping := false } := by
  refine queueWrite_taken hP hx (exec_qbaseWrite q v s) ?_
  have hpassing : ¬((s.fw.pass.any fun e => e.1.toNat == q.toNat) && x.enabled) = true := by
    rw [Bool.and_eq_true]
    exact fun ⟨h, h'⟩ => hnow.elim (fun hno => Bool.false_ne_true (hno.symm.trans h)) fun hno => Bool.false_ne_true (hno.symm.trans h')
  rw [hy, Option.map_some, if_neg hpassing]

theorem qbaseWrite_none (hnone : s.qbase v P x = none) : Becomes (.qbaseWrite p q v) s p fun P' => WriteFails P P' (P.queueOffset q.toNat) := by
  refine queueWrite_fails hP hx (exec_qbaseWrite q v s) ?_
  rw [hnone]
  rfl

theorem qbaseWritesAct (v : DWord) : let off := 0x600 + 32 * (P.queues.filter fun e => decide (e.1 < q.toNat)).length
    ((∀ e ∈ s.fw.pass, e.1 ≠ q) →
      (x.base.getLsbD 63 = true → v = x.base &&& 0x7FFFFFFFFFFFFFFF → v.extractLsb' 0 6 = 0 → v.extractLsb' 52 12 = 0 →
        Becomes (.qbaseWrite p q v) s p fun P' => P' = { P with queues := P'.queues } ∧
          Table.get? P'.queues q.toNat = some { x with base := v, stopping := false }) ∧
      (x.base.getLsbD 63 = true → v ≠ x.base &&& 0x7FFFFFFFFFFFFFFF → Becomes (.qbaseWrite p q v) s p fun P' =>
        WriteFails P P' off) ∧
      (x.base.getLsbD 63 = false → v.extractLsb' 0 6 = 0 → v.extractLsb' 52 11 = 0 → v.getLsbD 63 = true → x.size ≠ 0 →
        s.hostOrOwned P ((v.extractLsb' 6 46).toNat * 64) (64 * x.size.toNat) = true →
        Becomes (.qbaseWrite p q v) s p fun P' => P' = { P with queues := P'.queues } ∧
          Table.get? P'.queues q.toNat = some { x with
            base := v, moved := false, stopping := false
            cons := if x.moved = true ∨ v.extractLsb' 6 46 ≠ x.base.extractLsb' 6 46 then 0 else x.cons }) ∧
      (x.base.getLsbD 63 = false → v.extractLsb' 0 6 = 0 → v.extractLsb' 52 12 = 0 →
        Becomes (.qbaseWrite p q v) s p fun P' => P' = { P with queues := P'.queues } ∧
          Table.get? P'.queues q.toNat = some { x with
            base := v, stopping := false, moved := x.moved || decide (v.extractLsb' 6 46 ≠ x.base.extractLsb' 6 46) })) ∧
    (v.extractLsb' 0 6 ≠ 0 ∨ v.extractLsb' 52 11 ≠ 0 ∨ (x.base.getLsbD 63 = false ∧ v.getLsbD 63 = true ∧
        (x.size = 0 ∨ s.hostOrOwned P ((v.extractLsb' 6 46).toNat * 64) (64 * x.size.toNat) = false)) →
      Becomes (.qbaseWrite p q v) s p fun P' => WriteFails P P' off) ∧
    ((∃ e ∈ s.fw.pass, e.1 = q) → x.base.getLsbD 63 = true →
      (v = x.base &&& 0x7FFFFFFFFFFFFFFF → v.extractLsb' 0 6 = 0 → v.extractLsb' 52 12 = 0 →
        Becomes (.qbaseWrite p q v) s p fun P' => P' = { P with queues := P'.queues } ∧
          Table.get? P'.queues q.toNat = some { x with stopping := true }) ∧
      (v ≠ x.base &&& 0x7FFFFFFFFFFFFFFF → Becomes (.qbaseWrite p q v) s p fun P' => WriteFails P P' off)) := by
  intro off
  refine ⟨fun hpass => ?_, fun hbad => ?_, fun hpass henabled => ⟨fun hv hlow hhigh => ?_, fun hv => ?_⟩⟩
  · have hnow : (s.fw.pass.any fun e => e.1.toNat == q.toNat) = false := Bool.eq_false_iff.2 fun h => by
      obtain ⟨e, he, hq⟩ := (passing_iff q s.fw.pass).1 h
      exact hpass e he hq
    refine ⟨fun henabled hv hlow hhigh => ?_, fun henabled hv => ?_, fun hdisabled hlow hhigh hv hsize howned => ?_, fun hdisabled hlow hhigh => ?_⟩
    · exact qbaseWrite_now hP q hx (.inl hnow) ((qbase_enabled s P henabled).1 hv (qbase_bits_disabled hlow hhigh).1)
    · exact qbaseWrite_none hP q hx ((qbase_enabled s P henabled).2 hv)
    · have hwrite := qbaseWrite_now hP q hx (.inl hnow) ((qbase_disabled P s hdisabled ((qbase_bits v).2 ⟨hlow, hhigh⟩)).2.2 hv hsize howned)
      rw [if_congr (show (x.moved || decide (v.extractLsb' 6 46 ≠ x.base.extractLsb' 6 46)) = true ↔ x.moved = true ∨ v.extractLsb' 6 46 ≠ x.base.extractLsb' 6 46 by
        rw [Bool.or_eq_true, decide_eq_true_iff]) rfl rfl] at hwrite
      exact hwrite
    · obtain ⟨hbits, hv⟩ := qbase_bits_disabled hlow hhigh
      exact qbaseWrite_now hP q hx (.inl hnow) ((qbase_disabled P s hdisabled hbits).1 hv)
  · refine qbaseWrite_none hP q hx ?_
    by_cases hbits : within v [(6, 46), (63, 1)] = true
    · obtain ⟨hlow, hhigh⟩ := (qbase_bits v).1 hbits
      obtain ⟨hdisabled, hv, hring⟩ := (hbad.resolve_left (not_not.2 hlow)).resolve_left (not_not.2 hhigh)
      exact (qbase_disabled P s hdisabled hbits).2.1 hv hring
    · rw [State.qbase]
      exact if_pos (bnot_of_false (Bool.eq_false_iff.2 hbits))
  · refine queueWrite_taken hP hx (exec_qbaseWrite q v s) ?_
    rw [(qbase_enabled s P henabled).1 hv (qbase_bits_disabled hlow hhigh).1, Option.map_some, (passing_iff q s.fw.pass).2 hpass, Queue.enabled, henabled]
    rfl
  · exact qbaseWrite_none hP q hx ((qbase_enabled s P henabled).2 hv)

/-- The registers of the queue at their offsets. -/
theorem queueRegistersAct (v : DWord) : let off := 0x600 + 32 * (P.queues.filter fun e => decide (e.1 < q.toNat)).length
    ∀ k, P.queues[k]? = some (q.toNat, x) → (P.queues.filter fun e => decide (e.1 < q.toNat)).length = k → k < 128 →
      let write (reg : Nat) : Instr := .registerWrite (.virtual p) (BitVec.ofNat 16 (off + reg)) v
      let size := (∃ j < 12, v.toNat = 2 ^ (j + 4)) ∧ x.base.getLsbD 63 = false
      let ring := v.extractLsb' 0 4 = 0 ∧ v.extractLsb' 52 12 = 0 ∧ x.base.getLsbD 63 = false
      exec (write 0) s = exec (.qbaseWrite p q v) s ∧ exec (write 16) s = exec (.qprodWrite p q v) s ∧
      (size → Becomes (write 8) s p fun P' => P' = { P with queues := P'.queues } ∧
        Table.get? P'.queues q.toNat = some { x with size := v, moved := true }) ∧
      (¬ size → Becomes (write 8) s p fun P' => WriteFails P P' (off + 8)) ∧
      (ring → Becomes (write 24) s p fun P' => P' = { P with queues := P'.queues } ∧
        Table.get? P'.queues q.toNat = some { x with cbase := v }) ∧
      (¬ ring → Becomes (write 24) s p fun P' => WriteFails P P' (off + 24)) := by
  intro off k hplace hcount hk write size ring
  have hlt := v.isLt
  have hoff : off = 0x600 + 32 * k := by
    rw [← hcount]
  have hwrite {reg : Nat} (hreg : reg < 32) : exec (write reg) s = .next (match (generalizing := false) reg with
      | 0 => s.writeQbase p q.toNat v
      | 8 => s.writeQsize p q.toNat v
      | 16 => s.writeQprod p q.toNat v
      | 24 => s.writeQcbase p q.toNat v
      | _ => s.setPart p (P.failedWrite (off + reg))) := by
    have hbound : ∀ o ∈ loneOffsets, o < 0x600 := by decide
    have hplaced : (BitVec.ofNat 16 (off + reg)).toNat = off + reg := by
      rw [BitVec.toNat_ofNat]
      omega
    refine congrArg Host.Outcome.next ?_
    dsimp only
    rw [hplaced, State.writeRegister_else fun h => absurd (hbound _ h) (by omega), if_neg (by omega), if_neg (by omega), if_neg (by omega), if_pos (by omega),
      State.writeQueueReg, hP]
    dsimp only
    rw [show (off + reg - 0x600) / 32 = k by omega, hplace, show (off + reg) % 32 = reg by omega] <;> rfl
  have hsize : (within v [(0, 16)] && ringSize v.toNat && !x.enabled) = true ↔ size := by
    have hpow {j : Nat} (hj : j < 12) : 2 ^ (j + 4) ≤ 2 ^ 15 := Nat.pow_le_pow_right (by decide) (by omega)
    rw [Bool.and_eq_true, Bool.and_eq_true, within_one, ringSize, List.any_eq_true, Bool.not_eq_true']
    refine and_congr_left fun _ => ⟨fun ⟨_, j, hj, hv⟩ => ⟨j, List.mem_range.1 hj, beq_iff_eq.1 hv⟩, fun ⟨j, hj, hv⟩ => ⟨?_, j, List.mem_range.2 hj, beq_iff_eq.2 hv⟩⟩
    have hle := hpow hj
    omega
  have hring : (within v [(4, 48)] && !x.enabled) = true ↔ ring := by
    rw [Bool.and_eq_true, within_one, Bool.not_eq_true', show ring ↔ (v.extractLsb' 0 4 = 0 ∧ v.extractLsb' 52 12 = 0) ∧ x.base.getLsbD 63 = false from and_assoc.symm]
    refine and_congr_left fun _ => ?_
    rw [← field_eq_zero, ← field_eq_zero, field, field]
    omega
  exact ⟨hwrite (by decide), hwrite (by decide), fun h => queueWrite_taken hP hx (hwrite (reg := 8) (by decide)) (if_pos (hsize.2 h)),
    fun h => queueWrite_fails hP hx (hwrite (reg := 8) (by decide)) (if_neg (mt hsize.1 h)),
    fun h => queueWrite_taken hP hx (hwrite (reg := 24) (by decide)) (if_pos (hring.2 h)),
    fun h => queueWrite_fails hP hx (hwrite (reg := 24) (by decide)) (if_neg (mt hring.1 h))⟩
end
end
end Sys2Proof.Machine
end

section
/-!
PROOF. The verdicts on pages, and the whisk mask (spec/09_core_memory_instr.md R199, spec/15_combiner.md R300, spec/17_package_memory.md
R343, R345).
-/
namespace Sys2Proof.Machine
open Sys2Proof.Spec

section
variable {s : State} {p : PartNo} {P Q R : Part} {v : DWord} {i : Instr} {gid : Nat} {g : Group}

/-! ## A verdict and the groups that wait (R199) -/

theorem Part.group?_setGroup_ne {gid' : Nat} (hne : gid' ≠ gid) (g : Group) : (P.setGroup gid g).group? gid' = P.group? gid' := by
  rw [Part.setGroup]
  cases hw : isWhisk gid with
  | true =>
    rw [if_pos rfl]
    unfold Part.group?
    have hhome : Table.get? (P.modHome gid fun h => { h with grp := g }).run.homes gid' = Table.get? P.run.homes gid' :=
      (Table.get?_modify P.run.homes gid gid' fun h => { h with grp := g }).trans (if_neg hne.symm)
    rw [hhome]
    rfl
  | false =>
    rw [if_neg Bool.false_ne_true]
    unfold Part.group?
    cases isWhisk gid' with
    | true => rfl
    | false =>
      rw [if_neg Bool.false_ne_true, if_neg Bool.false_ne_true, Part.team?, Part.team?]
      refine (congrArg (Option.bind · fun t => Table.get? t.groups (gidGroup gid'))
        (Table.get?_modify P.run.teams (gidTeam gid) (gidTeam gid') fun t => { t with groups := Table.set t.groups (gidGroup gid) g })).trans ?_
      split
      next hteam =>
        have hgroup : gidGroup gid ≠ gidGroup gid' := by
          rw [gidTeam, gidTeam] at hteam
          rw [gidGroup, gidGroup]
          omega
        cases Table.get? P.run.teams (gidTeam gid') with
        | none => rfl
        | some t => exact (Table.get?_set ..).trans (if_neg hgroup)
      next => rfl

/-- Every group that waits for pages still waits for them, at the same place. -/
def Part.KeepsWaits (P Q : Part) : Prop := ∀ gid g vps, P.group? gid = some g → g.wait = some (.page vps) →
  ∃ g', Q.group? gid = some g' ∧ g'.wait = some (.page vps) ∧ g'.pc = g.pc

theorem Part.KeepsWaits.of_groups (h : ∀ gid, Q.group? gid = P.group? gid) : P.KeepsWaits Q :=
  fun gid g _ hg hwait => ⟨g, (h gid).trans hg, hwait, rfl⟩

theorem Part.KeepsWaits.trans (h : P.KeepsWaits Q) (h' : Q.KeepsWaits R) : P.KeepsWaits R := fun gid g vps hg hwait => by
  obtain ⟨g₁, hg₁, hwait₁, hpc₁⟩ := h gid g vps hg hwait
  obtain ⟨g₂, hg₂, hwait₂, hpc₂⟩ := h' gid g₁ vps hg₁ hwait₁
  exact ⟨g₂, hg₂, hwait₂, hpc₂.trans hpc₁⟩

theorem Part.keepsWaits_modGroup {f : Group → Group} (hf : ∀ g vps, g.wait = some (.page vps) → (f g).wait = some (.page vps) ∧ (f g).pc = g.pc) (P : Part) (gid : Nat) :
    P.KeepsWaits (P.modGroup gid f) := fun gid' g vps hg hwait => by
  obtain ⟨hwait', hpc⟩ := hf g vps hwait
  by_cases hgid : gid' = gid
  · rw [hgid] at hg ⊢
    exact ⟨f g, Part.group?_modGroup_of hg f, hwait', hpc⟩
  · rw [Part.modGroup]
    split
    · exact ⟨g, (Part.group?_setGroup_ne hgid _).trans hg, hwait, rfl⟩
    · exact ⟨g, hg, hwait, rfl⟩

theorem Part.keepsWaits_holdFault (P : Part) (gid op : Nat) (path : Path) (t : Option Trap) : P.KeepsWaits (P.holdFault gid op path t) := by
  unfold Part.holdFault
  split
  next t => exact Part.keepsWaits_modGroup (f := fun g => { g with held := g.held ++ [(⟨path, t, op, false⟩ : HeldFault)] }) (fun _ _ hwait => ⟨hwait, rfl⟩) P gid
  next => exact .of_groups fun _ => rfl

theorem Group.lower'_keepsWait (path : Path) (op : Nat) (g : Group) (vps : List Nat) (hwait : g.wait = some (.page vps)) :
    (g.lower' path op).wait = some (.page vps) ∧ (g.lower' path op).pc = g.pc := by
  have hwake : g.wake = g := if_neg (by rw [hwait]; simp)
  rw [Group.lower', hwake]
  exact ⟨hwait, rfl⟩

theorem Part.keepsWaits_endCopyIn (P : Part) (gid op : Nat) : P.KeepsWaits (P.endCopyIn gid op) :=
  (Part.KeepsWaits.of_groups (Q := (P.dropOp op).modRun fun r => { r with lines := r.lines.filter fun e => e.2.op != op })
    fun gid => Part.group?_of_work rfl rfl gid).trans (Part.keepsWaits_modGroup (Group.lower'_keepsWait .cin op) _ gid)

theorem Part.keepsWaits_endCopyOut (P : Part) (gid op : Nat) : P.KeepsWaits (P.endCopyOut gid op) :=
  (Part.KeepsWaits.of_groups (P.group?_dropOp op)).trans (Part.keepsWaits_modGroup (Group.lower'_keepsWait .cout op) _ gid)

/-- A transaction barrier that is poisoned ends no phase: no group is released. -/
theorem Part.group?_modTb_poisoned (P : Part) (core a left gid : Nat) :
    (P.modTb core a fun b => { b with pois := true, sect := b.sect - left }).group? gid = P.group? gid := by
  cases hb : (P.core? core).bind fun k => k.tb? a with
  | none =>
    rw [Part.modTb, hb]
  | some b =>
    rw [Part.modTb, hb]
    dsimp only
    exact (congrArg (Part.group? · gid) (if_pos rfl)).trans (Part.group?_modCore ..)

theorem Part.keepsWaits_stopCopy (P : Part) (op : Nat) (t : Option Trap) : P.KeepsWaits (P.stopCopy op t) := by
  unfold Part.stopCopy
  split
  case h_1 gid bar _ _ _ _ _ =>
    cases bar with
    | some a => exact (Part.KeepsWaits.of_groups fun gid => P.group?_modTb_poisoned ..).trans (Part.keepsWaits_endCopyIn _ _ _)
    | none => exact (P.keepsWaits_holdFault _ _ _ _).trans (Part.keepsWaits_endCopyIn _ _ _)
  case h_2 => exact (P.keepsWaits_holdFault _ _ _ _).trans (Part.keepsWaits_endCopyOut _ _ _)
  case h_3 => exact .of_groups fun _ => rfl

theorem Part.keepsWaits_copyVerdict (P : Part) (vp : Nat) (mapped : Bool) (op : Nat) : P.KeepsWaits (P.copyVerdict vp mapped op) := by
  have hsetOp (x : Op) : P.KeepsWaits (P.setOp op x) := .of_groups fun gid => Part.group?_of_work rfl rfl gid
  have hchoice {v : Nat} {x : Op} {t : Option Trap} : P.KeepsWaits (if v ≠ vp then P else if mapped then P.setOp op x else P.stopCopy op t) := by
    split
    · exact .of_groups fun _ => rfl
    · split
      · exact hsetOp x
      · exact P.keepsWaits_stopCopy op t
  unfold Part.copyVerdict
  split
  case h_1 => exact hchoice
  case h_2 => exact hchoice
  case h_3 => exact .of_groups fun _ => rfl

theorem Part.keepsWaits_foldl {α : Type} {f : Part → α → Part} (hf : ∀ (P : Part) (a : α), P.KeepsWaits (f P a)) (as : List α) (P : Part) : P.KeepsWaits (as.foldl f P) := by
  induction as generalizing P with
  | nil => exact .of_groups fun _ => rfl
  | cons a as ih => exact (hf P a).trans (ih _)

/-- Every group of a partition has been changed. -/
theorem Part.group?_of_mapped {f : Group → Group} (hteams : Q.run.teams = P.run.teams.map fun e => (e.1, { e.2 with groups := e.2.groups.map fun g => (g.1, f g.2) }))
    (hhomes : Q.run.homes = P.run.homes.map fun e => (e.1, { e.2 with grp := f e.2.grp })) (gid : Nat) : Q.group? gid = (P.group? gid).map f := by
  have hhome := Table.get?_map P.run.homes (fun _ (h : Home) => { h with grp := f h.grp }) gid
  have hteam := Table.get?_map P.run.teams (fun _ (t : Team) => { t with groups := t.groups.map fun (g : Nat × Group) => (g.1, f g.2) }) (gidTeam gid)
  rw [Part.group?, Part.group?, Part.team?, Part.team?, hteams, hhomes, hhome, hteam]
  cases isWhisk gid with
  | true =>
    rw [if_pos rfl, if_pos rfl, Option.map_map, Option.map_map]
    rfl
  | false =>
    rw [if_neg Bool.false_ne_true, if_neg Bool.false_ne_true]
    cases Table.get? P.run.teams (gidTeam gid) with
    | none => rfl
    | some t => exact Table.get?_map t.groups (fun _ g => f g) (gidGroup gid)

/-- What a verdict on a page whose record is outstanding does. -/
structure Part.Judged (P P' : Part) (vp : Nat) (wait : List Nat → Option Wait) : Prop where
  faults : ∀ f ∈ P'.faults, f.vpage ≠ vp
  groups : ∀ gid g vps, P.group? gid = some g → g.wait = some (.page vps) → vp ∈ vps → ∃ g', P'.group? gid = some g' ∧ g'.wait = wait vps ∧ g'.pc = g.pc
  relaunches : ∀ r ∈ P'.run.relaunches, ∀ e ∈ r.pages, e.1 ≠ vp

theorem Part.verdict_judged {vp : Nat} (hpending : P.pending vp = true) (mapped : Bool) : P.Judged (P.verdict vp mapped) vp fun vps =>
    if !mapped then some (.declined vp) else if vps = [vp] then none else some (.page (vps.erase vp)) := by
  rw [Part.verdict, if_neg (not_bnot_of_true hpending)]
  dsimp only
  obtain ⟨Q, hQ⟩ : ∃ Q, Q = P.run.ops.foldl (fun P e => P.copyVerdict vp mapped e.1) P := ⟨_, rfl⟩
  have hkeeps : P.KeepsWaits Q := by
    rw [hQ]
    exact Part.keepsWaits_foldl (fun P (e : Nat × Op) => P.keepsWaits_copyVerdict vp mapped e.1) _ P
  rw [← hQ]
  refine ⟨fun f hf => ?_, fun gid g vps hg hwait hvp => ?_, fun r hr e he => ?_⟩
  · exact bne_iff_ne.1 (List.mem_filter.1 hf).2
  · obtain ⟨g₁, hg₁, hwait₁, hpc₁⟩ := hkeeps gid g vps hg hwait
    refine ⟨g₁.pageVerdict vp mapped, ?_, ?_, ?_⟩
    · exact (Part.group?_of_mapped rfl rfl gid).trans (congrArg (Option.map _) hg₁)
    · rw [Group.pageVerdict, hwait₁]
      dsimp only
      rw [if_neg (not_bnot_of_true (List.contains_iff_mem.2 hvp))]
    · rw [Group.pageVerdict, hwait₁]
      dsimp only
      rw [if_neg (not_bnot_of_true (List.contains_iff_mem.2 hvp))]
      exact hpc₁
  · obtain ⟨r₀, -, rfl⟩ := List.mem_map.1 hr
    exact bne_iff_ne.1 (List.mem_filter.1 he).2

/-! ## FAULTR -/

/-- The value that gives a verdict on a page. -/
theorem verdict_value (vp : BitVec 40) : let v : DWord := vp.setWidth 64 <<< 16
    v.toNat = vp.toNat * 2 ^ 16 ∧ (v ||| 1).toNat = vp.toNat * 2 ^ 16 + 1 := by
  intro v
  have hlt := vp.isLt
  have hv : v.toNat = vp.toNat * 2 ^ 16 := by
    rw [BitVec.toNat_shiftLeft, BitVec.toNat_setWidth, Nat.shiftLeft_eq]
    omega
  refine ⟨hv, ?_⟩
  rw [BitVec.toNat_or, hv, show (1 : DWord).toNat = 1 from rfl, ← Nat.shiftLeft_eq]
  exact (Nat.shiftLeft_add_eq_or_of_lt (by decide) vp.toNat).symm

theorem faultr_bits (v : DWord) : within v [(0, 1), (16, 40)] = true ↔ ¬(v.extractLsb' 1 15 ≠ 0 ∨ v.extractLsb' 56 8 ≠ 0) := by
  have hlt := v.isLt
  rw [within_two (by decide), not_or, not_not, not_not, ← field_eq_zero, ← field_eq_zero, field, field]
  omega

/-- A verdict on the page of the value's number. -/
theorem faultrWrite (hP : s.part? p = some P) (hexec : exec i s = .next (s.writeFaultr p v)) : 
    (¬(v.extractLsb' 1 15 ≠ 0 ∨ v.extractLsb' 56 8 ≠ 0) → Becomes i s p fun P' => P' = P.verdict (v.extractLsb' 16 40).toNat (v.getLsbD 0)) ∧
    (v.extractLsb' 1 15 ≠ 0 ∨ v.extractLsb' 56 8 ≠ 0 → Becomes i s p fun P' => WriteFails P P' 0x038) := by
  obtain ⟨htakes, hfails⟩ := regWrite_spec hP hexec (faultr_bits v)
  rw [← field_eq]
  exact ⟨htakes, fun h => hfails (not_not.2 h)⟩

theorem verdictsAct (hP : s.part? p = some P) (vp : BitVec 40) (hpending : P.pending vp.toNat = true) : let v : DWord := vp.setWidth 64 <<< 16
    exec (.registerWrite (.virtual p) 0x038 (v ||| 1)) s = exec (.faultMapped p (v ||| 1)) s ∧
    exec (.registerWrite (.virtual p) 0x038 v) s = exec (.faultDeclined p v) s ∧
    Becomes (.faultMapped p (v ||| 1)) s p (fun P' => (∀ f ∈ P'.faults, f.vpage ≠ vp.toNat) ∧
      (∀ gid g vps, P.group? gid = some g → g.wait = some (.page vps) → vp.toNat ∈ vps →
        ∃ g', P'.group? gid = some g' ∧ g'.wait = (if vps = [vp.toNat] then none else some (.page (vps.erase vp.toNat))) ∧ g'.pc = g.pc) ∧
      ∀ r ∈ P'.run.relaunches, ∀ e ∈ r.pages, e.1 ≠ vp.toNat) ∧
    Becomes (.faultDeclined p v) s p fun P' => (∀ f ∈ P'.faults, f.vpage ≠ vp.toNat) ∧
      (∀ gid g vps, P.group? gid = some g → g.wait = some (.page vps) → vp.toNat ∈ vps →
        ∃ g', P'.group? gid = some g' ∧ g'.wait = some (.declined vp.toNat) ∧ g'.pc = g.pc) ∧
      ∀ r ∈ P'.run.relaunches, ∀ e ∈ r.pages, e.1 ≠ vp.toNat := by
  intro v
  have hlt := vp.isLt
  obtain ⟨hv, hv'⟩ := verdict_value vp
  have hverdict {w : DWord} {b : Nat} (hw : w.toNat = vp.toNat * 2 ^ 16 + b) (hb : b < 2) :
      ¬(w.extractLsb' 1 15 ≠ 0 ∨ w.extractLsb' 56 8 ≠ 0) ∧ (w.extractLsb' 16 40).toNat = vp.toNat ∧ w.getLsbD 0 = decide (b = 1) := by
    rw [← faultr_bits, within_two (by decide), ← field_eq, field, hw, BitVec.getLsbD, Nat.testBit_eq_decide_div_mod_eq, hw]
    exact ⟨by omega, by omega, decide_eq_decide.2 (by omega)⟩
  obtain ⟨hbits, hpage, hdeclined⟩ := hverdict (w := v) (hv.trans (Nat.add_zero _).symm) (by decide)
  obtain ⟨hbits', hpage', hmapped⟩ := hverdict (w := v ||| 1) hv' (by decide)
  have hexec : exec (.faultDeclined p v) s = .next (s.writeFaultr p v) := by
    refine congrArg Host.Outcome.next (if_neg ?_)
    rw [hdeclined]
    decide
  have hexec' : exec (.faultMapped p (v ||| 1)) s = .next (s.writeFaultr p (v ||| 1)) := congrArg Host.Outcome.next (if_pos hmapped)
  refine ⟨hexec'.symm, hexec.symm, ?_, ?_⟩
  · obtain ⟨t, P', hnext, hP', hjudged, hothers, hbytes⟩ := (faultrWrite hP hexec').1 hbits'
    rw [hpage', hmapped] at hjudged
    obtain ⟨hfaults, hgroups, hrelaunches⟩ := Part.verdict_judged hpending true
    rw [hjudged] at hP'
    exact ⟨t, _, hnext, hP', ⟨hfaults, hgroups, hrelaunches⟩, hothers, hbytes⟩
  · obtain ⟨t, P', hnext, hP', hjudged, hothers, hbytes⟩ := (faultrWrite hP hexec).1 hbits
    rw [hpage, hdeclined] at hjudged
    obtain ⟨hfaults, hgroups, hrelaunches⟩ := Part.verdict_judged hpending false
    rw [hjudged] at hP'
    exact ⟨t, _, hnext, hP', ⟨hfaults, hgroups, hrelaunches⟩, hothers, hbytes⟩

theorem faultrWritesAct (hP : s.part? p = some P) (v : DWord) : let fails := v.extractLsb' 1 15 ≠ 0 ∨ v.extractLsb' 56 8 ≠ 0
    (fails → Becomes (.registerWrite (.virtual p) 0x038 v) s p fun P' => WriteFails P P' 0x038) ∧
    (¬ fails → P.pending (v.extractLsb' 16 40).toNat = false → Becomes (.registerWrite (.virtual p) 0x038 v) s p fun P' => P' = P) := by
  intro fails
  obtain ⟨htakes, hfails⟩ := faultrWrite (i := .registerWrite (.virtual p) 0x038 v) hP rfl
  refine ⟨hfails, fun h hpending => ?_⟩
  have hwrite := htakes h
  rw [Part.verdict, if_pos (bnot_of_false hpending)] at hwrite
  exact hwrite

/-! ## WHISK (R300) -/

/-- An eviction leaves the registers of its partition. -/
theorem State.evict_regs (hP : s.part? p = some P) (dir : Nat) : ∃ Q, (s.evict p dir).part? p = some Q ∧ Q.regs = P.regs := by
  have hfold {k : Core} {d : DirEntry} (js : List Nat) : (js.foldl (fun s j =>
      if d.dirty.contains j then s.saveSlot p k (d.base.toNat + j) (d.backingPa j)
      else s.savePoison p k (d.base.toNat + j) (d.backingPa j)) s).TouchedFrom P p := by
    have h : s.TouchedFrom P p := ⟨P, hP, .refl P⟩
    clear hP
    induction js generalizing s with
    | nil => exact h
    | cons j js ih =>
      rw [List.foldl_cons]
      split
      · exact ih (h.saveSlot ..)
      · exact ih (h.savePoison ..)
  unfold State.evict
  split
  case h_1 => exact ⟨P, hP, rfl⟩
  case h_2 d k _ =>
    obtain ⟨Q, hQ, htouched⟩ := hfold (k := k) (d := d) (List.range (d.count.toNat + 1))
    exact ⟨_, State.part?_modPart_some hQ _, htouched.regs⟩

theorem State.evicts_regs (hP : s.part? p = some P) (dirs : List Nat) : ∃ Q, (dirs.foldl (fun s d => s.evict p d) s).part? p = some Q ∧ Q.regs = P.regs := by
  induction dirs generalizing s P with
  | nil => exact ⟨P, hP, rfl⟩
  | cons d dirs ih =>
    obtain ⟨Q, hQ, hregs⟩ := s.evict_regs hP d
    obtain ⟨Q', hQ', hregs'⟩ := ih hQ
    exact ⟨Q', hQ', hregs'.trans hregs⟩

theorem mem_whiskCores (r : Regs) (k : Nat) : k ∈ r.whiskCores ↔ r.firstDie * 16 ≤ k ∧ k < r.firstDie * 16 + 16 * 2 ^ r.logDies ∧ r.whisk.getLsbD (k % 16) = true := by
  have hcores : k ∈ r.cores ↔ r.firstDie * 16 ≤ k ∧ k < r.firstDie * 16 + 16 * 2 ^ r.logDies := by
    rw [Regs.cores, List.mem_map]
    refine ⟨fun ⟨j, hj, hk⟩ => ?_, fun ⟨hlo, hhi⟩ => ⟨k - r.firstDie * 16, List.mem_range.2 (by omega), by omega⟩⟩
    have hlt := List.mem_range.1 hj
    omega
  rw [Regs.whiskCores, List.mem_filter, hcores, and_assoc, BitVec.getLsbD, Nat.testBit_eq_decide_div_mod_eq]
  rfl

theorem Table.has_map_self {α : Type} (ks : List Nat) (f : Nat → α) (k : Nat) : Table.has (ks.map fun c => (c, f c)) k = true ↔ k ∈ ks := by
  unfold Table.has
  induction ks with
  | nil => exact iff_of_false Bool.false_ne_true List.not_mem_nil
  | cons c ks ih =>
    rw [List.map_cons, Table.get?, List.mem_cons]
    by_cases hc : c = k
    · rw [if_pos hc]
      exact iff_of_true rfl (.inl hc.symm)
    · rw [if_neg hc, ih]
      exact (or_iff_right (Ne.symm hc)).symm

theorem whiskWritesAct (hP : s.part? p = some P) (v : DWord) : let takes := v.toNat < 2 ^ 16 ∧ v ≠ 0 ∧ P.run.teams = [] ∧ P.homesEmpty = true
    (takes → Reaches (.whiskWrite p v) s p fun _ P' => P'.regs = { P.regs with whisk := v.setWidth 16 } ∧
      ∀ k, Table.has P'.run.homes k = true ↔
        P.regs.firstDie * 16 ≤ k ∧ k < P.regs.firstDie * 16 + 16 * 2 ^ P.regs.logDies ∧ v.getLsbD (k % 16) = true) ∧
    (¬ takes → Becomes (.whiskWrite p v) s p fun P' => WriteFails P P' 0x048) := by
  intro takes
  have hok : (within v [(0, 16)] && v != 0 && !P.anyLive && P.homesEmpty) = true ↔ takes := by
    rw [Bool.and_eq_true, Bool.and_eq_true, Bool.and_eq_true, within_one, bne_iff_ne, Part.anyLive, Bool.not_not, List.isEmpty_iff, and_assoc, and_assoc]
    refine and_congr_left fun _ => ?_
    omega
  have hexec : exec (.whiskWrite p v) s = .next (s.writeWhisk p v) := rfl
  rw [State.writeWhisk, hP] at hexec
  dsimp only at hexec
  refine ⟨fun h => ?_, fun h => ?_⟩
  · rw [if_pos (hok.2 h)] at hexec
    obtain ⟨Q, hQ, hregs⟩ := State.evicts_regs (State.part?_setPart_same s p (P.setRegs fun r => { r with whisk := BitVec.ofNat 16 (field v 0 16) })) _
    have hwhisk : BitVec.ofNat 16 (field v 0 16) = v.setWidth 16 := by
      rw [ofNat_field]
      exact BitVec.eq_of_toNat_eq (by rw [BitVec.extractLsb'_toNat, Nat.shiftRight_zero, BitVec.toNat_setWidth])
    refine ⟨_, _, hexec, State.part?_modPart_some hQ _, hregs.trans ?_, fun k => ?_⟩
    · rw [← hwhisk]
      rfl
    · refine (Table.has_map_self ..).trans ((mem_whiskCores ..).trans ?_)
      rw [hregs, Part.setRegs, hwhisk]
      dsimp only
      rw [BitVec.getLsbD_setWidth, decide_eq_true (Nat.mod_lt k (by decide)), Bool.true_and]
  · rw [if_neg (mt hok.1 h)] at hexec
    exact fails_of_setPart hexec
end

/-- Settles O54: a register write is taken exactly when its value has no other bits and lies in its range; each register is followed
at its offset. -/
theorem registerWritesTakeOrFail : Obligations.RegisterWritesTakeOrFail :=
  ⟨fun _ _ _ off v ok f hP hrow => plainWritesAct hP off v ok f hrow, fun _ _ _ off v hP => otherWritesFail hP off v, fun _ _ _ v hP => shelfcWritesAct hP v,
    fun _ _ _ v hP => whiskWritesAct hP v, fun _ _ _ v hP => eggWritesAct hP v, fun _ _ _ cls v hP => sevWritesAct hP cls v,
    fun _ _ _ cls v hP => sevWritesAreRegisterWrites hP cls v, fun _ _ _ v hP => invWritesAct hP v, fun _ _ _ vp hP => verdictsAct hP vp,
    fun _ _ _ v hP => faultrWritesAct hP v,
    fun _ _ _ q v _ hP hx =>
      have hprod := qprodWritesAct hP q hx v
      have hbase := qbaseWritesAct hP q hx v
      ⟨hprod.1, hprod.2, hbase.1, hbase.2.1, queueRegistersAct hP q hx v, hbase.2.2⟩,
    fun _ _ _ off v hP => registersTake hP off v⟩
end Sys2Proof.Machine
end

section
/-!
PROOF. Why a trap of a whisk group may take a request of another object from its home's queue: the model collects the requests to the
spoiled object from every entry of the table of requests, while a request is looked up by its first entry. In a state that lists a
request's number twice, under two objects, the number leaves the queue although the request that it names is to the other object
(spec/15_combiner.md R316).
-/
namespace Sys2Proof.Machine
open Sys2Proof.Spec

/-! ## A state that lists a request twice -/

/-- Request 7 as its first entry has it: to the object at 0x4000080, in the queue of core 5. -/
def otherRequest : WhiskReq :=
  { obj := 0x80, pa := 0x4000080, width := 0, arg := 0, cop := 0, requester := 0, team := loadedTeam, core := 0, op := 1, unit := 1, place := .queued 5 }

/-- The home of core 5, whose method runs a batch of the object at 0x4000000. -/
def spoilingHome : Home :=
  { Home.initial with queue := [7], batch := some { obj := 0, pa := 0x4000000, width := 0, reqs := [], cls := 1, bno := 0 } }

/-- The second entry of request 7 is to the object of the batch. -/
def spoilingPart : Part :=
  { loadedPart with run := { loadedPart.run with
      homes := [(5, spoilingHome)], whisks := [(7, otherRequest), (7, { otherRequest with obj := 0, pa := 0x4000000 })] } }

def spoiling : State :=
  let s := State.reset.loadProgram
  { s with parts := [(0, spoilingPart)], cxlDown := [] }

/-- What the statement asks of the state before the trap, by evaluation. -/
theorem spoiling_ready : (decide (spoiling.part? 0 = some spoilingPart) && spoilingHome.grp.settled && !spoilingHome.grp.poisons issueWords &&
    decide (spoilingPart.sieve.snapshot = none)) = true := by decide +kernel

/-- Whether the request stands in the queue of core 5 of a state's partition 0. -/
def queuedAtFive (s : State) (id : Nat) : Bool := (s.part? 0).any fun P => (Table.get? P.run.homes 5).any fun h => h.queue.contains id

theorem queuedAtFive_spoiled : queuedAtFive (spoiling.raiseTrap 0 5 ⟨1, 0⟩) 7 = false := by decide +kernel

/-- Refutes O55: in `spoiling`, the trap takes request 7 from the queue, though the request of that number is to another object. -/
theorem not_methodsTrapAndFail : ¬Obligations.MethodsTrapAndFail := by
  rintro ⟨-, h⟩
  have hready := spoiling_ready
  simp only [Bool.and_eq_true, decide_eq_true_eq, Bool.not_eq_true'] at hready
  obtain ⟨⟨⟨hpart, hsettled⟩, hcode⟩, hsnapshot⟩ := hready
  obtain ⟨P', h', hP', hh', -, -, -, -, -, -, hbatch⟩ := h spoiling 0 5 spoilingPart spoilingHome ⟨1, 0⟩ rfl hpart rfl hsettled hcode rfl hsnapshot
  obtain ⟨-, hqueue, -⟩ := hbatch _ rfl List.nodup_nil
  have hstays : 7 ∈ h'.queue := hqueue 7 List.mem_cons_self fun w hw => by
    cases hw
    decide
  have hgone := queuedAtFive_spoiled
  rw [queuedAtFive, hP', Option.any_some, hh', Option.any_some, List.contains_iff_mem.2 hstays] at hgone
  exact absurd hgone (by decide)
end Sys2Proof.Machine
end
